-- ==== Sys2Proof/Word.lean ====
section
/-! DEFINITION. The word types of the TL7832's register space (R10: every register is 32 bits wide). -/
namespace Sys2Proof

/-- A 32-bit register word (R10). -/
abbrev Word := BitVec 32

/-- One byte of a port, a buffer or a host memory image. -/
abbrev Byte := BitVec 8

end Sys2Proof
end

