-- ==== Sys2Proof/Config.lean ====
section
/-! DEFINITION. What a part fixes (R1, R5, R267) and the values the manual leaves open.  An `opaque` constant has no
body: no proof can see its value, so a statement holds whatever the hardware does there. -/
namespace Sys2Proof

/-- The three parts of the family (R1). -/
inductive Part where
  | f   -- TL7832-F
  | b   -- TL7832-B
  | s   -- TL7816-S
  deriving DecidableEq, Repr

/-- Halls present (R1, R5). -/
def Part.halls : Part → Nat
  | .f => 32 | .b => 32 | .s => 16

/-- SMU channels present (R1, R5). -/
def Part.smus : Part → Nat
  | .f => 64 | .b => 64 | .s => 16

/-- SMU groups present, four channels each (R5). -/
def Part.groups (p : Part) : Nat := p.smus / 4

/-- Digitisers present (R1). -/
def Part.digs : Part → Nat
  | .f => 4 | .b => 0 | .s => 0

/-- The raster stimulus unit is present (R1). -/
def Part.raster : Part → Bool
  | .f => true | .b => false | .s => false

/-- DDS is present (R1: fused off on the TL7832-B). -/
def Part.dds : Part → Bool
  | .f => true | .b => false | .s => true

/-- Gallery Ethernet ports (R1, R5). -/
def Part.galPorts : Part → Nat
  | .f => 2 | .b => 2 | .s => 1

/-- The control store is written at every start (R175). -/
def Part.writableStore : Part → Bool
  | .f => false | .b => false | .s => true

/-- Flight store per hall in MiB (R29, R30). -/
def Part.fltMiB : Part → Nat
  | .f => 256 | .b => 224 | .s => 256

/-- Per-hall flight store depth in granules of 64 entries (R30, R267). -/
def Part.granules (p : Part) : Nat := p.fltMiB * 1024

/-- A value the manual leaves open, drawn by a counter of the state: nothing constrains it (assumption 4). -/
opaque Config.freeBits (w : Nat) (n : Nat) : BitVec w

/-- The 64-bit device identity held in OTP (R266: "from OTP"). -/
opaque Config.devUid : BitVec 64

/-- The silicon stepping, ID.STEP_MAJOR and ID.STEP_MINOR (R266: "per die"). -/
opaque Config.stepping : BitVec 16

/-- The MAC address of gallery port `p`, from OTP (R424). -/
opaque Config.macAddr (p : Nat) : BitVec 48

/-- UC_ROM_ID of the mask ROM (R184): the manual does not state its value. -/
opaque Config.ucRomId : BitVec 32

/-- Words of the control store: the manual does not list the ROM's contents (R184).  Argument: address. -/
opaque Config.ucWord : Nat → BitVec 32

/-- Whether an ECDSA P-384 signature `r`, `s` of FIPS 186-5 over a message is valid with a public key (R177): the manual
names the algorithm and leaves it, with its hash, to that standard. -/
opaque Config.ecdsaP384 (key : BitVec 768) (msg : List Nat) (r s : BitVec 384) : Bool

/-- AES-256-GCM decryption (R177): the plain text and the tag computed over the additional data and the ciphertext. -/
opaque Config.aesGcm256 (key : BitVec 256) (iv : BitVec 96) (aad text : List Nat) : List Nat × BitVec 128

/-- The frequency in Hz of the source that a hall follows, at a core cycle (R45): an input of the device. -/
opaque Config.sourceHz (hall cyc : Nat) : BitVec 29

/-- Whether AXIN input `n` has shown an edge within the 20 µs before a core cycle (R81): an input of the device. -/
opaque Config.axinEdge (n cyc : Nat) : BitVec 1

/-- What data lane `k` carries in bit time `t` of a blanking pixel of the raster (R390): not stated.  Arguments: lane, bit
time, line, pixel. -/
opaque Config.rsBlankBit (k t line pixel : Nat) : BitVec 1

/-- A context field that CTXR and CTXW name (R168). -/
inductive CtxField where
  | pc | depth | cnt (k : BitVec 2) | acc (k : BitVec 2) | uflags | bin | status | none
  deriving DecidableEq, Repr, Inhabited

/-- A hall action that HACT stages (R168). -/
inductive HallAct where
  | play (f : BitVec 12) | sett (ts : BitVec 6) | setl (ls : BitVec 6) | emit (ev : BitVec 3) | send (slot : BitVec 8)
  | tdc (m : BitVec 6) | meas (ch : BitVec 6) (m : BitVec 4) | waita (pos : BitVec 48) | gap (n : BitVec 32)
  | sync (line : BitVec 3) (target : BitVec 16) (mode : BitVec 2) (mask : BitVec 32) | none
  deriving DecidableEq, Repr, Inhabited

/-- A loop-stack frame as SPUSH builds it and SPOP takes it apart (R168). -/
inductive MicroFrame where
  | loop (addr endA : BitVec 16) (count : BitVec 32) | call (ret : BitVec 16)
  deriving DecidableEq, Repr, Inhabited

/-- A journal record that JREC writes (R168). -/
structure MicroRec where
  typ : BitVec 8
  subj : BitVec 16
  arg : BitVec 16
  data : BitVec 96
  deriving DecidableEq, Repr, Inhabited

/-- The context field of a selector: the encodings of R168 "are listed in the failure-analysis annex of the Spavan kit"
and not in the manual. -/
opaque Config.ctxField : BitVec 11 → CtxField

/-- The hall action of HACT (the same annex).  Arguments: ACT, ARG, the operand, the stair instruction. -/
opaque Config.hallAct : BitVec 5 → BitVec 16 → BitVec 32 → BitVec 64 → HallAct

/-- The frame that SPUSH builds (the same annex).  Arguments: IMM, the lanes SRCA and SRCB. -/
opaque Config.microPush : BitVec 11 → BitVec 32 → BitVec 32 → MicroFrame

/-- The frame that matches a SPOP: a LOOP frame if true (the same annex). -/
opaque Config.microPops : BitVec 11 → Bool

/-- What SPOP leaves in its lane (the same annex). -/
opaque Config.microPop : BitVec 11 → MicroFrame → BitVec 32

/-- The record that JREC writes (the same annex).  Arguments: ACT, ARG, the operand. -/
opaque Config.microJrec : BitVec 5 → BitVec 16 → BitVec 32 → MicroRec

/-- The record that RREC writes, and whether it is a result record (the same annex). -/
opaque Config.microRrec : BitVec 5 → BitVec 16 → BitVec 32 → Bool × BitVec 512

/-- The micro-addresses that the shipped routine of an entry can fetch.  Argument: the stair opcode, or 64 for the routine
of R164 that faults on an unsealed page. -/
opaque Config.ucPath : Nat → List Nat

/-- The entry address of the routine that faults on an unsealed page (R164). -/
opaque Config.ucUnsealed : BitVec 13

/-- The words of the writable store as shipped, by address (R164). -/
opaque Config.ucShipped : Nat → BitVec 32

/-- The micro-address of the ENDI at which the shipped routine of a stair instruction ends (R164, R184).  Argument: the
instruction word, or 2^64 for the routine of an unsealed page. -/
opaque Config.ucEndi : Nat → BitVec 14

/-- CFG_DIGEST of a configuration: SHA-256 over the digest image, whose layout "is listed in the replay annex of the
Spavan kit" (R507) and not in the manual.  Arguments: DEV_UID, and the configuration as the model gathers it. -/
opaque Config.cfgDigest : BitVec 64 → List (Nat × Nat) → BitVec 256

/-- Bytes of a region of bulk memory that a self-test has overwritten (R497: "region overwritten").  Arguments: the
test, the byte. -/
opaque Config.patternByte : Nat → Nat → Byte

/-- The signature that the ROM expects of a self-test (R498).  Arguments: unit, KIND. -/
opaque Config.bistExpect : Nat → Nat → BitVec 64

/-- The number by which journal records name a correction (R503: "correction"), from its place in the record of R495. -/
opaque Config.calCode : Nat → BitVec 16

end Sys2Proof
end

