-- ==== Sys2Proof/Syntax.lean ====
section
/-! DEFINITION. The commands of the block: one constructor per row of the opcode table, with the row's operands.  An
operand that comes from outside the device (a pin, a link, host memory, the die under test) is data of the command.
The names of the rows are the mnemonics that LAWS.json maps the constructors to. -/
namespace Sys2Proof

/-- Which word of a timing set is written (R70): a channel's drive word or compare word, or the header. -/
inductive TsWord where
  | drv (c : Nat) | cmp (c : Nat) | hdr
  deriving DecidableEq, Repr

/-- The access path of a register access (R19): PCIe or the management port. -/
inductive Path where
  | pcie | mspi
  deriving DecidableEq, Repr

/-- The index of a path. -/
def Path.idx : Path → Nat
  | .pcie => 0 | .mspi => 1

/-- A register of an SMU channel that a force update puts out (R306). -/
inductive SmuReg where
  | force | iclamp | vclamp
  deriving DecidableEq, Repr

/-- A configuration register of a hall serial engine (R377). -/
inductive HseReg where
  | slotA (n : Nat) | slotB (n : Nat) | slotC (n : Nat) | slotD (n : Nat) | lmapA (m : Nat) | lmapB (m : Nat) | ctl
  deriving DecidableEq, Repr

/-- What trips a digitiser's trigger (R352): raw samples x[n - 1] and x[n] of which `armed` is an earlier one that met
the hysteresis, or the first raw sample in ARMED, an edge at the TRIGIN pin, an event. -/
inductive AcqTrig where
  | samples (armed x0 x1 : Int) | first (x : Int) | pin (rising : Bool) | event
  deriving DecidableEq, Repr

/-- A configuration register of an event channel (R410). -/
inductive EvReg where
  | cfg | halls | pmask (k : Nat) | cmask (k : Nat)
  deriving DecidableEq, Repr

/-- A Quetus image as it is read (R177): the 64 bytes of the header, the ciphertext and the 96 bytes of the signature. -/
structure Quetus where
  hdr : List Nat
  text : List Nat
  sig : List Nat
  deriving DecidableEq, Repr

/-- What a boot stage has met (R539), as its command tells: the result of the ROM self-check and the OTP contents, the four
signing keys and the four encryption keys first; the boot firmware image; the microcode image; the CRC-32 of the loaded words
read back and that of the mask ROM; whether HBM training has succeeded; or nothing but that the work is done. -/
inductive BootRes where
  | rom (ok : Bool) (keys calib pwr : List Nat)
  | fetch (q : Quetus)
  | patch (q : Quetus)
  | bist (readback rom : Nat)
  | hbm (ok : Bool)
  | work
  deriving DecidableEq, Repr

/-- What a PCIe write goes to (R216): BAR0, or the MSI-X table in BAR4. -/
inductive Bar where
  | bar0 | bar4
  deriving DecidableEq, Repr

/-- A command.  Each constructor names its row and the rule that governs it. -/
inductive Instr where
  /-- AXIS_ENABLE (R52). -/
  | axisEnable (h : Nat) (v : Word)
  /-- AXIS_DISABLE (R52). -/
  | axisDisable (h : Nat) (v : Word)
  /-- AXIS_ZERO (R56). -/
  | axisZero (h : Nat)
  /-- AXIS_CTL_WRITE (R55). -/
  | axisCtlWrite (h : Nat) (v : Word)
  /-- AXIS_LOCK (R51). -/
  | axisLock (h freq : Nat)
  /-- AXIS_LOSS (R58). -/
  | axisLoss (h cause : Nat)
  /-- HOLDOVER_EXIT (R59). -/
  | holdoverExit (h freq edge : Nat)
  /-- AXIS_WRAP (R46). -/
  | axisWrap (h : Nat)
  /-- RATIO_WRITE (R62). -/
  | ratioWrite (h k : Nat) (isN : Bool) (v : Word)
  /-- SYN_ARM (R66). -/
  | synArm (h : Nat) (v : Word)
  /-- SYN_TREAD_APPLY (R66). -/
  | synTreadApply (h : Nat)
  /-- TSET_WRITE (R74). -/
  | tsetWrite (h t : Nat) (w : TsWord) (v : Word)
  /-- AXZ_ARM (R76). -/
  | axzArm
  /-- AXZ_SAMPLE (R76). -/
  | axzSample
  /-- AXZ_ZERO (R76). -/
  | axzZero
  /-- LOAD_FLIGHT (R102). -/
  | loadFlight (q : Nat)
  /-- LOAD_FLIGHT_DMA_DONE (R97). -/
  | loadFlightDmaDone (h f : Nat) (data : List Nat)
  /-- LOAD_FLIGHT_DMA_FAIL (R97). -/
  | loadFlightDmaFail (h f : Nat)
  /-- FLT_DESC_LO_READ (R121). -/
  | fltDescLoRead (path : Path) (h : Nat)
  /-- SMU_EN_WRITE (R307). -/
  | smuEnWrite (k : Nat) (en : Bool)
  /-- SMU_CTL_WRITE (R313). -/
  | smuCtlWrite (k : Nat) (v : Word)
  /-- SMU_FORCE_WRITE (R306). -/
  | smuForceWrite (k : Nat) (r : SmuReg) (v : Word)
  /-- SMU_FORCE_UPDATE (R306). -/
  | smuForceUpdate (g pdiss : Nat)
  /-- SMU_BRIDGE_END (R313). -/
  | smuBridgeEnd (k : Nat)
  /-- SMU_CLAMP (R308). -/
  | smuClamp (k : Nat) (on : Bool)
  /-- SMU_TRIP (R309). -/
  | smuTrip (k src : Nat)
  /-- SMU_SWITCH_OPEN (R309). -/
  | smuSwitchOpen (k : Nat)
  /-- SMU_TRIP_CLEAR (R310). -/
  | smuTripClear (k : Nat)
  /-- PDISS_TRIP (R312). -/
  | pdissTrip (g : Nat)
  /-- MEAS_DELAY_END (R315). -/
  | measDelayEnd (g j : Nat)
  /-- MEAS_CONVERT (R315). -/
  | measConvert (g : Nat) (code : Int)
  /-- MSET_WRITE (R307). -/
  | msetWrite (g m w : Nat) (v : Word)
  /-- DDS_START (R320). -/
  | ddsStart (g mask : Nat)
  /-- DDS_STOP (R322). -/
  | ddsStop (g mask : Nat)
  /-- DDS_FTW_WRITE (R321). -/
  | ddsFtwWrite (k : Nat) (v : Word)
  /-- DDS_PHASE_WRITE (R321). -/
  | ddsPhaseWrite (k : Nat) (v : Word)
  /-- PE_EN_WRITE (R286). -/
  | peEnWrite (h c : Nat) (en : Bool)
  /-- DAC_ARCH_WRITE (R274). -/
  | dacArchWrite (h c : Nat) (arch : Bool)
  /-- LEVEL_UPDATE (R277). -/
  | levelUpdate (h c : Nat)
  /-- RANGE_CROSSOVER (R282). -/
  | rangeCrossover (h c : Nat)
  /-- RANGE_TARGET (R282). -/
  | rangeTarget (h c : Nat)
  /-- RANGE_BRIDGE_END (R282). -/
  | rangeBridgeEnd (h c : Nat)
  /-- COMP_SETTLE_END (R288). -/
  | compSettleEnd (h c : Nat) (nv : Int)
  /-- PE_TRIP (R291). -/
  | peTrip (h c : Nat) (nv : Int)
  /-- TRIP_CLEAR (R292). -/
  | tripClear (h c : Nat) (nv : Int)
  /-- TRIP_CTL_WRITE (R291). -/
  | tripCtlWrite (h c : Nat) (v : Word)
  /-- PP_GO (R295). -/
  | ppGo (h : Nat) (v : Word)
  /-- PP_DONE (R294). -/
  | ppDone (h : Nat) (mv : List Int)
  /-- PARAMETRIC_PHASE_END (R295). -/
  | parametricPhaseEnd (h : Nat)
  /-- TOUCHDOWN (R195). -/
  | touchdown (q : Nat)
  /-- TOUCHDOWN_PHASE_END (R195). -/
  | touchdownPhaseEnd (h : Nat) (mv : List Int)
  /-- SET_LEVELS (R280). -/
  | setLevels (q : Nat)
  /-- SET_LEVELS_COMMIT (R280). -/
  | setLevelsCommit (q : Nat) (ok : Bool) (data : List Nat)
  /-- DAC_CLR_FALL (R297). -/
  | dacClrFall
  /-- DAC_CLR_RISE (R297). -/
  | dacClrRise
  /-- TDC_GO (R330). -/
  | tdcGo (h m : Nat)
  /-- TDC_ABORT (R336). -/
  | tdcAbort (h : Nat)
  /-- TDC_SET_WRITE (R331). -/
  | tdcSetWrite (h m w : Nat) (v : Word)
  /-- TDC_EVENT (R327). -/
  | tdcEvent (h c kind t e : Nat)
  /-- TDC_AXIS_START (R332). -/
  | tdcAxisStart (h m t : Nat)
  /-- SAMPLE_END (R333). -/
  | sampleEnd (h m : Nat)
  /-- STATS_ACCEPT (R333). -/
  | statsAccept (h c : Nat)
  /-- REG_GATE_CLOSE (R337). -/
  | regGateClose (h : Nat)
  /-- REG_RESULT (R338). -/
  | regResult (h : Nat)
  /-- READ_STATS (R343). -/
  | readStats (q : Nat)
  /-- HSE_TRANSFER_START (R373). -/
  | hseTransferStart (h : Nat)
  /-- SERIAL_XFER (R379). -/
  | serialXfer (q : Nat)
  /-- XFER_SETTLE_DONE (R380). -/
  | xferSettleDone (h : Nat)
  /-- BSPI_GO (R385). -/
  | bspiGo (v : Word)
  /-- BSPI_DONE (R385). -/
  | bspiDone (data : List Nat)
  /-- NOP_INSTR (R132). -/
  | nopInstr (h : Nat)
  /-- HALT (R153). -/
  | halt (h : Nat)
  /-- PLAY (R138). -/
  | play (h : Nat)
  /-- PLAYN (R154). -/
  | playn (h : Nat)
  /-- LOOP (R155). -/
  | loop (h : Nat)
  /-- NEXT (R155). -/
  | next (h : Nat)
  /-- CALL (R130). -/
  | call (h : Nat)
  /-- RET (R130). -/
  | ret (h : Nat)
  /-- BR (R133). -/
  | br (h : Nat)
  /-- BRW (R150). -/
  | brw (h : Nat)
  /-- SETT (R138). -/
  | sett (h : Nat)
  /-- WAITA (R148). -/
  | waita (h : Nat)
  /-- SYNC (R151). -/
  | sync (h : Nat)
  /-- SETL (R138). -/
  | setl (h : Nat)
  /-- SEND (R373). -/
  | send (h : Nat)
  /-- TDC (R330). -/
  | tdc (h : Nat)
  /-- MEAS (R315). -/
  | meas (h : Nat)
  /-- EMIT (R138). -/
  | emit (h : Nat)
  /-- ACC (R159). -/
  | acc (h : Nat)
  /-- BIN (R160). -/
  | bin (h : Nat)
  /-- FLAG (R160). -/
  | flag (h : Nat)
  /-- YIELD (R152). -/
  | yield (h : Nat)
  /-- GAP (R149). -/
  | gap (h : Nat)
  /-- RESERVED_OPCODE (R164). -/
  | reservedOpcode (h : Nat)
  /-- SEGMENT_LIMIT (R139). -/
  | segmentLimit (h : Nat)
  /-- LEAD_POINT (R137). -/
  | leadPoint (h : Nat)
  /-- DISPATCH (R140). -/
  | dispatch (h : Nat)
  /-- LANDING (R105). -/
  | landing (h : Nat)
  /-- DECISION_ARRIVAL (R140). -/
  | decisionArrival (h : Nat)
  /-- HEAD_FILL_DONE (R142). -/
  | headFillDone (h : Nat)
  /-- STALL_END (R114). -/
  | stallEnd (h : Nat)
  /-- STALL_LIMIT (R116). -/
  | stallLimit (h : Nat)
  /-- STRETCH_END (R108). -/
  | stretchEnd (h : Nat)
  /-- WAIT_RELEASE (R149). -/
  | waitRelease (h : Nat)
  /-- BRW_RESAMPLE (R150). -/
  | brwResample (h : Nat)
  /-- BRW_TIMEOUT (R150). -/
  | brwTimeout (h : Nat)
  /-- SYNC_SAMPLE (R436). -/
  | syncSample (h : Nat) (high : Bool)
  /-- SYNC_RELEASE (R436). -/
  | syncRelease (h : Nat)
  /-- SYNC_RESUME (R436). -/
  | syncResume (h : Nat)
  /-- JMP_REQ (R146). -/
  | jmpReq (h target : Nat)
  /-- SWAP_SITESEL (R198). -/
  | swapSitesel (h : Nat)
  /-- SWAP_SETTLE_DONE (R198). -/
  | swapSettleDone (h : Nat)
  /-- DESKEW_WRITE (R492). -/
  | deskewWrite (h c : Nat) (v : Word)
  /-- LOAD_STAIR (R126). -/
  | loadStair (q : Nat)
  /-- LOAD_STAIR_DONE (R126). -/
  | loadStairDone (q : Nat) (ok : Bool) (data : List Nat)
  /-- BIND_ALCOVE (R192). -/
  | bindAlcove (q : Nat)
  /-- RELEASE_ALCOVE (R192). -/
  | releaseAlcove (q : Nat)
  /-- START_RUN (R243). -/
  | startRun (q : Nat)
  /-- STOP_RUN (R245). -/
  | stopRun (q : Nat)
  /-- COMPARE_INSTANT (R86). -/
  | compareInstant (h c e : Nat) (volts : List Int)
  /-- DEADLINE_PASS (R206). -/
  | deadlinePass (h b : Nat)
  /-- DEADLINE_WRITE (R206). -/
  | deadlineWrite (h b : Nat) (hi : Bool) (v : Word)
  /-- PBUDGET_WRITE (R34). -/
  | pbudgetWrite (v : Word)
  /-- BCAST_WRITE (R187). -/
  | bcastWrite (h g : Nat) (mem : Bool) (v : Word)
  /-- SCHED_BANK_WRITE (R211). -/
  | schedBankWrite (h b : Nat) (v : Word)
  /-- MEAS_ARRIVE (R315). -/
  | measArrive (g : Nat)
  /-- MEAS_DONE (R316). -/
  | measDone (g : Nat)
  /-- HSE_ENQUEUE (R373). -/
  | hseEnqueue (h : Nat)
  /-- HSE_TRANSFER_END (R374). -/
  | hseTransferEnd (h : Nat) (data mid : List Nat)
  /-- HSE_ABORT (R376). -/
  | hseAbort (h : Nat)
  /-- HSE_CONFIG_WRITE (R377). -/
  | hseConfigWrite (h : Nat) (r : HseReg) (v : Word)
  /-- SQ_DOORBELL (R228). -/
  | sqDoorbell (d q : Nat) (v : Word)
  /-- CQ_DOORBELL (R228). -/
  | cqDoorbell (d q : Nat) (v : Word)
  /-- RR_HEAD_DOORBELL (R248). -/
  | rrHeadDoorbell (d r : Nat) (v : Word)
  /-- DESC_FETCH (R225). -/
  | descFetch (q : Nat) (descs : List (BitVec 512))
  /-- DESC_FETCH_FAIL (R231). -/
  | descFetchFail (q : Nat)
  /-- DESC_START (R239). -/
  | descStart
  /-- COMPLETION_WRITE (R226). -/
  | completionWrite (q : Nat)
  /-- QP_ENABLE (R230). -/
  | qpEnable (q : Nat) (v : Word)
  /-- QP_DISABLE (R552). -/
  | qpDisable (q : Nat) (v : Word)
  /-- QP_DRAIN_DONE (R230). -/
  | qpDrainDone (q : Nat)
  /-- RR_ENABLE (R553). -/
  | rrEnable (r : Nat) (v : Word)
  /-- RR_DISABLE (R553). -/
  | rrDisable (r : Nat) (v : Word)
  /-- RESULT_RECORD_WRITE (R248). -/
  | resultRecordWrite (r : Nat)
  /-- RR_WRITEBACK (R248). -/
  | rrWriteback (r : Nat)
  /-- MSIX_MESSAGE (R251). -/
  | msixMessage (v : Nat) (timed : Bool)
  /-- MSIX_UNMASK (R251). -/
  | msixUnmask (v : Nat)
  /-- NOP (R246). -/
  | nop (q : Nat)
  /-- FENCE (R241). -/
  | fence (q : Nat)
  /-- FENCE_DONE (R241). -/
  | fenceDone (q : Nat)
  /-- ACQ_ARM (R361). -/
  | acqArm (q : Nat)
  /-- ACQ_SETTLE_DONE (R349). -/
  | acqSettleDone (d : Nat)
  /-- ACQ_PRE_DONE (R350). -/
  | acqPreDone (d : Nat) (data : List Nat) (clip : Bool)
  /-- ACQ_TRIGGER (R352). -/
  | acqTrigger (d : Nat) (t : AcqTrig) (raw : Nat) (data : List Nat) (clip : Bool)
  /-- ACQ_TIMEOUT (R352). -/
  | acqTimeout (d raw : Nat) (data : List Nat) (clip : Bool)
  /-- ACQ_FORCE (R352). -/
  | acqForce (d raw : Nat) (data : List Nat) (clip : Bool)
  /-- ACQ_ABORT (R350). -/
  | acqAbort (d : Nat) (data : List Nat) (clip : Bool)
  /-- ACQ_POST_DONE (R350). -/
  | acqPostDone (d : Nat) (data : List Nat) (clip : Bool)
  /-- ACQ_RECORD_WRITE (R351). -/
  | acqRecordWrite (d : Nat)
  /-- ACQ_DECIM (R358). -/
  | acqDecim (d : Nat) (data : List Nat) (clip : Bool)
  /-- ACQ_OVERRUN (R359). -/
  | acqOverrun (d : Nat) (data : List (Option Nat)) (clip : Bool)
  /-- RASTER_COMMIT (R403). -/
  | rasterCommit (q : Nat) (line : Nat) (ok : Bool) (block : BitVec 2048)
  /-- RS_COMMIT_APPLY (R396). -/
  | rsCommitApply
  /-- RS_KILL_APPLY (R399). -/
  | rsKillApply
  /-- RS_START_BLANK (R389). -/
  | rsStartBlank
  /-- RS_LINE_MATCH (R389). -/
  | rsLineMatch
  /-- RS_FRAME_DONE (R389). -/
  | rsFrameDone
  /-- RS_UNDERRUN (R394). -/
  | rsUnderrun (l line pixels : Nat)
  /-- RS_RESYNC_END (R397). -/
  | rsResyncEnd
  /-- RS_FRAME_INCREMENT (R389). -/
  | rsFrameIncrement
  /-- RS_RECORD_WRITE (R400). -/
  | rsRecordWrite
  /-- RS_LANE_WRITE (R391). -/
  | rsLaneWrite (k : Nat) (v : Word)
  /-- EVENT_EMIT (R406). -/
  | eventEmit (trigin : Bool)
  /-- EV_SWSET (R421). -/
  | evSwset (hi : Bool) (v : Word)
  /-- EVD_SWSET (R415). -/
  | evdSwset (d : Nat) (hi : Bool) (v : Word)
  /-- EV_CONFIG_WRITE (R410). -/
  | evConfigWrite (e : Nat) (r : EvReg) (v : Word)
  /-- TM_GO (R418). -/
  | tmGo (k : Nat) (v : Word)
  /-- TM_STOP (R418). -/
  | tmStop (k : Nat) (v : Word)
  /-- TIMER_OUTPUT (R417). -/
  | timerOutput (k : Nat)
  /-- TIMER_WINDOW_END (R417). -/
  | timerWindowEnd (k : Nat)
  /-- JOURNAL_MARK_DRAIN (R557). -/
  | journalMarkDrain
  /-- TRIGOUT_PULSE_END (R107). -/
  | trigoutPulseEnd (n : Nat) (hall : Option Nat)
  /-- HELLO_SEND (R429). -/
  | helloSend (port : Nat)
  /-- HELLO_RX (R430). -/
  | helloRx (port uid flags epoch : Nat)
  /-- PEER_MISSED (R430). -/
  | peerMissed (i : Nat)
  /-- FRAME_RX_DROP (R425). -/
  | frameRxDrop
  /-- FAILMAP_SEND (R428). -/
  | failmapSend
  /-- FAILMAP_RX (R428). -/
  | failmapRx (uid map : Nat)
  /-- PEER_ADMIT (R430). -/
  | peerAdmit (i : Nat)
  /-- PEER_REMOVE (R430). -/
  | peerRemove (i : Nat)
  /-- ROLE_WRITE (R431). -/
  | roleWrite (v : Word)
  /-- GAL_JOIN (R434). -/
  | galJoin
  /-- GAL_LEAVE (R434). -/
  | galLeave
  /-- GAL_LINK_CHANGE (R426). -/
  | galLinkChange (port : Nat) (up : Bool)
  /-- GTL_RISE (R433). -/
  | gtlRise (sample : Nat)
  /-- PTP_SYNC_SEND (R440). -/
  | ptpSyncSend
  /-- PTP_ANNOUNCE_SEND (R440). -/
  | ptpAnnounceSend
  /-- PTP_DELAY_REQ_SEND (R440). -/
  | ptpDelayReqSend
  /-- PTP_DELAY_REQ_RX (R440). -/
  | ptpDelayReqRx (port dom : Nat)
  /-- PTP_DELAY_RESP_RX (R440). -/
  | ptpDelayRespRx (port dom : Nat) (stamp : Int)
  /-- PTP_SYNC_RX (R441). -/
  | ptpSyncRx (port dom : Nat) (stamp : Int)
  /-- PTP_SYNC_LOSS (R441). -/
  | ptpSyncLoss
  /-- TB_SNAP (R439). -/
  | tbSnap
  /-- NS_WRAP (R444). -/
  | nsWrap
  /-- TIME_STEP (R443). -/
  | timeStep (q : Nat)
  /-- TIME_RATE (R443). -/
  | timeRate (q : Nat)
  /-- TT_ARM (R445). -/
  | ttArm (n : Nat) (v : Word)
  /-- TT_DISARM (R445). -/
  | ttDisarm (n : Nat) (v : Word)
  /-- TT_FIRE (R445). -/
  | ttFire (n : Nat)
  /-- TT_PULSE_END (R445). -/
  | ttPulseEnd (n : Nat)
  /-- REFCLK_LOSS (R340). -/
  | refclkLoss
  /-- REFCLK_PRESENT (R340). -/
  | refclkPresent
  /-- REF_LOOP_LOCK (R554). -/
  | refLoopLock
  /-- FAULT_OCCURRENCE (R474). -/
  | faultOccurrence (hw : Option Nat)
  /-- WIRE_FAULT (R473). -/
  | wireFault (src : Nat)
  /-- WIRE_HEALTHY (R473). -/
  | wireHealthy (src : Nat)
  /-- BANIN_UNSAFE (R478). -/
  | baninUnsafe
  /-- BANIN_RETURN_SAFE (R478). -/
  | baninReturnSafe
  /-- RELEASE_SAFE (R478). -/
  | releaseSafe (v : Word)
  /-- FLT_CFG_WRITE (R471). -/
  | fltCfgWrite (src : Nat) (v : Word)
  /-- FLT_LOG_READ (R479). -/
  | fltLogRead (path : Path)
  /-- FENCE_UNIT (R482). -/
  | fenceUnit (q : Nat)
  /-- ADMIT_UNIT (R482). -/
  | admitUnit (q : Nat)
  /-- WARMING_DONE (R481). -/
  | warmingDone (u : Nat) (sub pass : Bool) (us : Nat)
  /-- HK_ROUND_END (R449). -/
  | hkRoundEnd (data : List (Bool × Int))
  /-- LVL_FLOOR_WRITE (R452). -/
  | lvlFloorWrite (v : Word)
  /-- TH_CFG_WRITE (R453). -/
  | thCfgWrite (v : Word)
  /-- TSD_WRITE (R461). -/
  | tsdWrite (v : Word)
  /-- TS_RETURN (R460). -/
  | tsReturn (hi : Bool) (v : Word)
  /-- SD_COMPARATOR_TRIP (R461). -/
  | sdComparatorTrip (i : Nat)
  /-- THERMAL_SHUTDOWN (R462). -/
  | thermalShutdown
  /-- SD_SEEN_CLEAR (R464). -/
  | sdSeenClear
  /-- INDEX_GAP (R489). -/
  | indexGap (q : Nat)
  /-- INDEX_GAP_CLOSE (R489). -/
  | indexGapClose (u : Nat)
  /-- CAL_RUN (R494). -/
  | calRun (q : Nat)
  /-- CAL_RUN_DONE (R494). -/
  | calRunDone
  /-- CAL_SAVE (R496). -/
  | calSave (q : Nat) (ok : Bool)
  /-- CAL_RESTORE (R496). -/
  | calRestore (q : Nat) (ok : Bool) (data : List Nat)
  /-- BIST_RUN (R498). -/
  | bistRun (q : Nat)
  /-- BIST_DONE (R498). -/
  | bistDone (u : Nat) (sig : BitVec 64) (us : Nat)
  /-- CAL_SLICE_START (R486). -/
  | calSliceStart (u item chans : Nat)
  /-- CAL_SLICE_END (R486). -/
  | calSliceEnd (u : Nat) (ms : List (Int × Int × Int))
  /-- WALK_STEP (R490). -/
  | walkStep (u : Nat)
  /-- PORT_DMA (R263). -/
  | portDma (q : Nat)
  /-- PORT_DMA_UNIT (R264). -/
  | portDmaUnit (q : Nat) (ok : Bool) (data : List Nat)
  /-- PORT_DATA_WRITE (R255). -/
  | portDataWrite (p k : Nat) (v : Word)
  /-- PORT_DATA_READ (R255). -/
  | portDataRead (path : Path) (p k : Nat)
  /-- PORT_ADDR_WRITE (R256). -/
  | portAddrWrite (p : Nat) (v : Word)
  /-- PORT_CTL_WRITE (R256). -/
  | portCtlWrite (p : Nat) (v : Word)
  /-- PORT_APT_WRITE (R258). -/
  | portAptWrite (p : Nat) (v : Word)
  /-- APERTURE_WRITE (R259). -/
  | apertureWrite (p o : Nat) (bytes : List Nat)
  /-- APERTURE_READ (R258). -/
  | apertureRead (p o n : Nat)
  /-- JOURNAL_CTL (R510). -/
  | journalCtl (q : Nat) (ok : Bool) (head : List (BitVec 256)) (uid : BitVec 64)
  /-- JOURNAL_RING_WRITE (R500). -/
  | journalRingWrite
  /-- JOURNAL_FRAME_SEND (R506). -/
  | journalFrameSend
  /-- JOURNAL_FRAME_RX (R506). -/
  | journalFrameRx (port uid : Nat) (recs : List (BitVec 256))
  /-- DIGEST_READY (R508). -/
  | digestReady
  /-- REPLAY_END (R513). -/
  | replayEnd
  /-- VAUX_APPLY (R535). -/
  | vauxApply
  /-- VAUX_REMOVE (R538). -/
  | vauxRemove
  /-- POR_N_FALL (R546). -/
  | porNFall
  /-- POR_N_RISE (R536). -/
  | porNRise
  /-- BOOT_STAGE_END (R539). -/
  | bootStageEnd (r : BootRes)
  /-- PGOOD_IN_CHANGE (R537). -/
  | pgoodInChange (up : Bool)
  /-- PERST_N_ASSERT (R548). -/
  | perstNAssert
  /-- PERST_N_RELEASE (R542). -/
  | perstNRelease
  /-- PCIE_LINK_LOSS (R548). -/
  | pcieLinkLoss
  /-- FLR (R232). -/
  | flr
  /-- WARM_RESET (R547). -/
  | warmReset (v : Word)
  /-- REG_WRITE (R13). -/
  | regWrite (bar : Bar) (a n : Nat) (v : Word)
  /-- COUNTER_LOW_READ (R19). -/
  | counterLowRead (path : Path) (a n : Nat)
  /-- MSPI_FRAME_HEADER (R381). -/
  | mspiFrameHeader (b : Nat)
  /-- MSPI_WRITE_WORD (R383). -/
  | mspiWriteWord (v : Word)
  /-- MSPI_READ_WORD (R383). -/
  | mspiReadWord (ready : Bool)
  /-- MSPI_FRAME_END (R383). -/
  | mspiFrameEnd (part : Bool)
  /-- MSPI_WIN_WRITE (R382). -/
  | mspiWinWrite (v : Word)
  /-- REPLAY_INPUT (R511). -/
  | replayInput (rec : BitVec 256)
  deriving DecidableEq, Repr

end Sys2Proof
end

