-- ==== Sys2Proof/WellFormed.lean ====
section
/-! DEFINITION. What a command must satisfy to name things that the specification has: halls, channels, queues and so on
in range.  A command that does not, and one that names something the part lacks, leaves the state unchanged. -/
namespace Sys2Proof

/-- Halls. -/
def nHalls : Nat := 32
/-- Banks of a hall. -/
def nBanks : Nat := 3
/-- Channel slots of a hall. -/
def nChannels : Nat := 32
/-- SMU channels. -/
def nSmus : Nat := 64
/-- SMU converter groups. -/
def nGroups : Nat := 16
/-- Digitizers. -/
def nDigs : Nat := 4
/-- Queue pairs. -/
def nQueues : Nat := 64
/-- Result rings. -/
def nRings : Nat := 5
/-- Interrupt vectors. -/
def nVectors : Nat := 128
/-- Domains. -/
def nDomains : Nat := 8
/-- Event timers. -/
def nTimers : Nat := 16
/-- Peer table entries. -/
def nPeers : Nat := 64
/-- Gallery ports. -/
def nPorts2 : Nat := 2
/-- Data ports. -/
def nPorts : Nat := 103
/-- Fault sources. -/
def nSources : Nat := 512
/-- Units. -/
def nUnits : Nat := 54
/-- Housekeeping channels. -/
def nSensors : Nat := 64
/-- Flights of a hall. -/
def nFlights : Nat := 4096

/-- The word of a timing set names a channel slot in range. -/
def TsWord.wf : TsWord → Bool
  | .drv c => c < nChannels | .cmp c => c < nChannels | .hdr => true

/-- The serial-engine register named exists. -/
def HseReg.wf : HseReg → Bool
  | .slotA n => n < 256 | .slotB n => n < 256 | .slotC n => n < 256 | .slotD n => n < 256
  | .lmapA m => m < 8 | .lmapB m => m < 8 | .ctl => true

/-- The event-matrix register named exists. -/
def EvReg.wf : EvReg → Bool
  | .cfg => true | .halls => true | .pmask k => k < 8 | .cmask k => k < 5

/-- Every operand of a command that numbers something is in range. -/
def Instr.wf : Instr → Bool
  | .axisEnable h _ => decide (h < nHalls)
  | .axisDisable h _ => decide (h < nHalls)
  | .axisZero h => decide (h < nHalls)
  | .axisCtlWrite h _ => decide (h < nHalls)
  | .axisLock h _ => decide (h < nHalls)
  | .axisLoss h cause => decide (h < nHalls) && decide (cause < 5)
  | .holdoverExit h _ _ => decide (h < nHalls)
  | .axisWrap h => decide (h < nHalls)
  | .ratioWrite h k _ _ => decide (h < nHalls) && decide (k < 8)
  | .synArm h _ => decide (h < nHalls)
  | .synTreadApply h => decide (h < nHalls)
  | .tsetWrite h t w _ => decide (h < nHalls) && decide (t < 64) && w.wf
  | .axzArm => true
  | .axzSample => true
  | .axzZero => true
  | .loadFlight q => decide (q < nQueues)
  | .loadFlightDmaDone h f _ => decide (h < nHalls) && decide (f < nFlights)
  | .loadFlightDmaFail h f => decide (h < nHalls) && decide (f < nFlights)
  | .fltDescLoRead _ h => decide (h < nHalls)
  | .smuEnWrite k _ => decide (k < nSmus)
  | .smuCtlWrite k _ => decide (k < nSmus)
  | .smuForceWrite k _ _ => decide (k < nSmus)
  | .smuForceUpdate g _ => decide (g < nGroups)
  | .smuBridgeEnd k => decide (k < nSmus)
  | .smuClamp k _ => decide (k < nSmus)
  | .smuTrip k src => decide (k < nSmus) && decide (src < 3)
  | .smuSwitchOpen k => decide (k < nSmus)
  | .smuTripClear k => decide (k < nSmus)
  | .pdissTrip g => decide (g < nGroups)
  | .measDelayEnd g j => decide (g < nGroups) && decide (j < 32)
  | .measConvert g _ => decide (g < nGroups)
  | .msetWrite g m w _ => decide (g < nGroups) && decide (m < 16) && decide (w < 4)
  | .ddsStart g mask => decide (g < nGroups) && decide (mask < 16)
  | .ddsStop g mask => decide (g < nGroups) && decide (mask < 16)
  | .ddsFtwWrite k _ => decide (k < nSmus)
  | .ddsPhaseWrite k _ => decide (k < nSmus)
  | .peEnWrite h c _ => decide (h < nHalls) && decide (c < nChannels)
  | .dacArchWrite h c _ => decide (h < nHalls) && decide (c < nChannels)
  | .levelUpdate h c => decide (h < nHalls) && decide (c < nChannels)
  | .rangeCrossover h c => decide (h < nHalls) && decide (c < nChannels)
  | .rangeTarget h c => decide (h < nHalls) && decide (c < nChannels)
  | .rangeBridgeEnd h c => decide (h < nHalls) && decide (c < nChannels)
  | .compSettleEnd h c _ => decide (h < nHalls) && decide (c < nChannels)
  | .peTrip h c _ => decide (h < nHalls) && decide (c < nChannels)
  | .tripClear h c _ => decide (h < nHalls) && decide (c < nChannels)
  | .tripCtlWrite h c _ => decide (h < nHalls) && decide (c < nChannels)
  | .ppGo h _ => decide (h < nHalls)
  | .ppDone h _ => decide (h < nHalls)
  | .parametricPhaseEnd h => decide (h < nHalls)
  | .touchdown q => decide (q < nQueues)
  | .touchdownPhaseEnd h _ => decide (h < nHalls)
  | .setLevels q => decide (q < nQueues)
  | .setLevelsCommit q _ _ => decide (q < nQueues)
  | .dacClrFall => true
  | .dacClrRise => true
  | .tdcGo h m => decide (h < nHalls) && decide (m < 64)
  | .tdcAbort h => decide (h < nHalls)
  | .tdcSetWrite h m w _ => decide (h < nHalls) && decide (m < 64) && decide (w < 4)
  | .tdcEvent h c kind _ _ => decide (h < nHalls) && decide (c < nChannels) && decide (kind < 3)
  | .tdcAxisStart h m _ => decide (h < nHalls) && decide (m < 64)
  | .sampleEnd h m => decide (h < nHalls) && decide (m < 64)
  | .statsAccept h c => decide (h < nHalls) && decide (c < nChannels)
  | .regGateClose h => decide (h < nHalls)
  | .regResult h => decide (h < nHalls)
  | .readStats q => decide (q < nQueues)
  | .hseTransferStart h => decide (h < nHalls)
  | .serialXfer q => decide (q < nQueues)
  | .xferSettleDone h => decide (h < nHalls)
  | .bspiGo _ => true
  | .bspiDone _ => true
  | .nopInstr h => decide (h < nHalls)
  | .halt h => decide (h < nHalls)
  | .play h => decide (h < nHalls)
  | .playn h => decide (h < nHalls)
  | .loop h => decide (h < nHalls)
  | .next h => decide (h < nHalls)
  | .call h => decide (h < nHalls)
  | .ret h => decide (h < nHalls)
  | .br h => decide (h < nHalls)
  | .brw h => decide (h < nHalls)
  | .sett h => decide (h < nHalls)
  | .waita h => decide (h < nHalls)
  | .sync h => decide (h < nHalls)
  | .setl h => decide (h < nHalls)
  | .send h => decide (h < nHalls)
  | .tdc h => decide (h < nHalls)
  | .meas h => decide (h < nHalls)
  | .emit h => decide (h < nHalls)
  | .acc h => decide (h < nHalls)
  | .bin h => decide (h < nHalls)
  | .flag h => decide (h < nHalls)
  | .yield h => decide (h < nHalls)
  | .gap h => decide (h < nHalls)
  | .reservedOpcode h => decide (h < nHalls)
  | .segmentLimit h => decide (h < nHalls)
  | .leadPoint h => decide (h < nHalls)
  | .dispatch h => decide (h < nHalls)
  | .landing h => decide (h < nHalls)
  | .decisionArrival h => decide (h < nHalls)
  | .headFillDone h => decide (h < nHalls)
  | .stallEnd h => decide (h < nHalls)
  | .stallLimit h => decide (h < nHalls)
  | .stretchEnd h => decide (h < nHalls)
  | .waitRelease h => decide (h < nHalls)
  | .brwResample h => decide (h < nHalls)
  | .brwTimeout h => decide (h < nHalls)
  | .syncSample h _ => decide (h < nHalls)
  | .syncRelease h => decide (h < nHalls)
  | .syncResume h => decide (h < nHalls)
  | .jmpReq h target => decide (h < nHalls) && decide (target < 65536)
  | .swapSitesel h => decide (h < nHalls)
  | .swapSettleDone h => decide (h < nHalls)
  | .deskewWrite h c _ => decide (h < nHalls) && decide (c < nChannels)
  | .loadStair q => decide (q < nQueues)
  | .loadStairDone q _ _ => decide (q < nQueues)
  | .bindAlcove q => decide (q < nQueues)
  | .releaseAlcove q => decide (q < nQueues)
  | .startRun q => decide (q < nQueues)
  | .stopRun q => decide (q < nQueues)
  | .compareInstant h c e volts => decide (h < nHalls) && decide (c < nChannels) && decide (e < 262144) && !volts.isEmpty
  | .deadlinePass h b => decide (h < nHalls) && decide (b < nBanks)
  | .deadlineWrite h b _ _ => decide (h < nHalls) && decide (b < nBanks)
  | .pbudgetWrite _ => true
  | .bcastWrite h g _ _ => decide (h < nHalls) && decide (g < 4)
  | .schedBankWrite h b _ => decide (h < nHalls) && decide (b < nBanks)
  | .measArrive g => decide (g < nGroups)
  | .measDone g => decide (g < nGroups)
  | .hseEnqueue h => decide (h < nHalls)
  | .hseTransferEnd h _ _ => decide (h < nHalls)
  | .hseAbort h => decide (h < nHalls)
  | .hseConfigWrite h r _ => decide (h < nHalls) && r.wf
  | .sqDoorbell d q _ => decide (d < nDomains) && decide (q < nQueues)
  | .cqDoorbell d q _ => decide (d < nDomains) && decide (q < nQueues)
  | .rrHeadDoorbell d r _ => decide (d < nDomains) && decide (r < nRings)
  | .descFetch q _ => decide (q < nQueues)
  | .descFetchFail q => decide (q < nQueues)
  | .descStart => true
  | .completionWrite q => decide (q < nQueues)
  | .qpEnable q _ => decide (q < nQueues)
  | .qpDisable q _ => decide (q < nQueues)
  | .qpDrainDone q => decide (q < nQueues)
  | .rrEnable r _ => decide (r < nRings)
  | .rrDisable r _ => decide (r < nRings)
  | .resultRecordWrite r => decide (r < nRings)
  | .rrWriteback r => decide (r < nRings)
  | .msixMessage v _ => decide (v < nVectors)
  | .msixUnmask v => decide (v < nVectors)
  | .nop q => decide (q < nQueues)
  | .fence q => decide (q < nQueues)
  | .fenceDone q => decide (q < nQueues)
  | .acqArm q => decide (q < nQueues)
  | .acqSettleDone d => decide (d < nDigs)
  | .acqPreDone d _ _ => decide (d < nDigs)
  | .acqTrigger d _ raw _ _ => decide (d < nDigs) && decide (raw < 5)
  | .acqTimeout d raw _ _ => decide (d < nDigs) && decide (raw < 5)
  | .acqForce d raw _ _ => decide (d < nDigs) && decide (raw < 5)
  | .acqAbort d _ _ => decide (d < nDigs)
  | .acqPostDone d _ _ => decide (d < nDigs)
  | .acqRecordWrite d => decide (d < nDigs)
  | .acqDecim d _ _ => decide (d < nDigs)
  | .acqOverrun d _ _ => decide (d < nDigs)
  | .rasterCommit q _ _ _ => decide (q < nQueues)
  | .rsCommitApply => true
  | .rsKillApply => true
  | .rsStartBlank => true
  | .rsLineMatch => true
  | .rsFrameDone => true
  | .rsUnderrun l _ _ => decide (l < 4)
  | .rsResyncEnd => true
  | .rsFrameIncrement => true
  | .rsRecordWrite => true
  | .rsLaneWrite k _ => decide (k < 36)
  | .eventEmit _ => true
  | .evSwset _ _ => true
  | .evdSwset d _ _ => decide (d < nDomains)
  | .evConfigWrite e r _ => decide (e < 64) && r.wf
  | .tmGo k _ => decide (k < nTimers)
  | .tmStop k _ => decide (k < nTimers)
  | .timerOutput k => decide (k < nTimers)
  | .timerWindowEnd k => decide (k < nTimers)
  | .journalMarkDrain => true
  | .trigoutPulseEnd n _ => decide (n < 8)
  | .helloSend port => decide (port < nPorts2)
  | .helloRx port _ _ _ => decide (port < nPorts2)
  | .peerMissed i => decide (i < nPeers)
  | .frameRxDrop => true
  | .failmapSend => true
  | .failmapRx _ _ => true
  | .peerAdmit i => decide (i < nPeers)
  | .peerRemove i => decide (i < nPeers)
  | .roleWrite _ => true
  | .galJoin => true
  | .galLeave => true
  | .galLinkChange port _ => decide (port < nPorts2)
  | .gtlRise sample => decide (sample < 256)
  | .ptpSyncSend => true
  | .ptpAnnounceSend => true
  | .ptpDelayReqSend => true
  | .ptpDelayReqRx port _ => decide (port < nPorts2)
  | .ptpDelayRespRx port _ _ => decide (port < nPorts2)
  | .ptpSyncRx port _ _ => decide (port < nPorts2)
  | .ptpSyncLoss => true
  | .tbSnap => true
  | .nsWrap => true
  | .timeStep q => decide (q < nQueues)
  | .timeRate q => decide (q < nQueues)
  | .ttArm n _ => decide (n < 8)
  | .ttDisarm n _ => decide (n < 8)
  | .ttFire n => decide (n < 8)
  | .ttPulseEnd n => decide (n < 8)
  | .refclkLoss => true
  | .refclkPresent => true
  | .refLoopLock => true
  | .faultOccurrence _ => true
  | .wireFault src => decide (src < nSources)
  | .wireHealthy src => decide (src < nSources)
  | .baninUnsafe => true
  | .baninReturnSafe => true
  | .releaseSafe _ => true
  | .fltCfgWrite src _ => decide (src < nSources)
  | .fltLogRead _ => true
  | .fenceUnit q => decide (q < nQueues)
  | .admitUnit q => decide (q < nQueues)
  | .warmingDone u _ _ _ => decide (u < nUnits)
  | .hkRoundEnd _ => true
  | .lvlFloorWrite _ => true
  | .thCfgWrite _ => true
  | .tsdWrite _ => true
  | .tsReturn _ _ => true
  | .sdComparatorTrip i => decide (i < nSensors)
  | .thermalShutdown => true
  | .sdSeenClear => true
  | .indexGap q => decide (q < nQueues)
  | .indexGapClose u => decide (u < nUnits)
  | .calRun q => decide (q < nQueues)
  | .calRunDone => true
  | .calSave q _ => decide (q < nQueues)
  | .calRestore q _ _ => decide (q < nQueues)
  | .bistRun q => decide (q < nQueues)
  | .bistDone u _ _ => decide (u < nUnits)
  | .calSliceStart u item _ => decide (u < nUnits) && decide (item < 8)
  | .calSliceEnd u _ => decide (u < nUnits)
  | .walkStep u => decide (u < nUnits)
  | .portDma q => decide (q < nQueues)
  | .portDmaUnit q _ _ => decide (q < nQueues)
  | .portDataWrite p k _ => decide (p < nPorts) && decide (k < 4)
  | .portDataRead _ p k => decide (p < nPorts) && decide (k < 4)
  | .portAddrWrite p _ => decide (p < nPorts)
  | .portCtlWrite p _ => decide (p < nPorts)
  | .portAptWrite p _ => decide (p < nPorts)
  | .apertureWrite p _ _ => decide (p < nPorts)
  | .apertureRead p _ _ => decide (p < nPorts)
  | .journalCtl q _ _ _ => decide (q < nQueues)
  | .journalRingWrite => true
  | .journalFrameSend => true
  | .journalFrameRx port _ _ => decide (port < nPorts2)
  | .digestReady => true
  | .replayEnd => true
  | .vauxApply => true
  | .vauxRemove => true
  | .porNFall => true
  | .porNRise => true
  | .bootStageEnd _ => true
  | .pgoodInChange _ => true
  | .perstNAssert => true
  | .perstNRelease => true
  | .pcieLinkLoss => true
  | .flr => true
  | .warmReset _ => true
  | .regWrite _ a n _ => decide (a < 2 ^ 27) && decide (1 ≤ n) && decide (n ≤ 4)
  | .counterLowRead _ a n => decide (a < 2 ^ 27) && decide (1 ≤ n) && decide (n ≤ 8)
  | .mspiFrameHeader b => decide (b < 256)
  | .mspiWriteWord _ => true
  | .mspiReadWord _ => true
  | .mspiFrameEnd _ => true
  | .mspiWinWrite _ => true
  | .replayInput _ => true

end Sys2Proof
end

