-- ==== Sys2Proof/Decode.lean ====
section
/-! DEFINITION. Commands spelled by table words.  The block has no instruction words: every row of the opcode table is a
command with operands, and the table gives no row bits. -/
namespace Sys2Proof

/-- The command that the low `nbits` bits of `w` spell by the table's bits: no row has any, so none is spelled. -/
def decodeTableWord (_nbits _w : Nat) : Option Instr := none

end Sys2Proof
end

