-- ==== Sys2Proof/Machine/Regs.lean ====
section
/-! DEFINITION. The register map: the BAR0 address of every register, its fields with their access codes (R13) and
reset values, as the register tables of the chapters give them (R81, R121, R162, R184, R214, R252, R266, R301, R326,
R345, R363, R386, R405, R423, R447, R468, R483, R499, R514, R550; the doorbell and event windows R227, R415; DOMAIN_OWN
R269).  `R.X` is an address, `F.X.Y` a field of it, `regAt` the table that generic accesses go by. -/
namespace Sys2Proof.Machine

/-- The access codes of R13.  `cnt` and `sat` are the two halves of a saturating counter that any nonzero write clears
(R16 and the register tables' "a write of any nonzero value clears"). -/
inductive Acc where
  | rw | ro | wo | w1c | w1s | rc | cnt | sat
  deriving DecidableEq, Repr

/-- A bit range `[lo + len - 1 : lo]` of the register at BAR0 address `addr` (R7). -/
structure FRef where
  addr : Nat
  lo : Nat
  len : Nat
  deriving DecidableEq, Repr

/-- Which kind of unit a register instance belongs to, for the absent-unit rule R4. -/
inductive UnitKind where
  | none | hall | smu | grp | dds | ddsg | dig | raster | ring | port | dom | match | gp
  deriving DecidableEq, Repr

/-- The registers of the manual, by name. -/
inductive RegName where
  | AXIS_CTL | AXIS_STAT | AXIS_POS_LO | AXIS_POS_HI | FOLLOW_FREQ | HOLD_TREADS | RATIO_M | RATIO_N | SYN_SCHED
  | SYN_AT_LO | SYN_AT_HI | TSET_DRV | TSET_CMP | TSET_HDR | DESKEW | AXZ_CTL | REF_STAT | AXIN_STAT | FLT_IDX | FLT_DESC_LO
  | FLT_DESC_HI | FLT_CRC | FLT_STAT | STALL_CNT | STALL_RUN | STALL_LIMIT | WDROP_CNT | LC_STAT | FLT_TRIGOUT | FLT_STRETCH
  | HOLD_VEC | LAND_CFG | LAND_STAT | JMP_REQ | LATE_CNT | HEAD_MISS_CNT | SEG_HOLD_CNT | LAND_CNT_LO | LAND_CNT_HI
  | COND_SNAP | FLOG_LIMIT | STAIR_STAT | UC_STAT | UC_ROM_ID | UC_PATCH_LEVEL | UC_ROLLBACK | UC_BODY_CRC | UC_RD_IDX
  | UC_RD_DATA | UC_MATCH | UC_ENG | HALL_STAT | SCHED_CTL | SWAP_CNT | SCHED_BANK | DEADLINE_LO | DEADLINE_HI | VT
  | PCLASS_PWR | BCAST_SRC | BCAST_MEM | ALC_STATE | SCHED_FLOOR | SCHED_LEDGER | SCHED_MEAS | QP_SQ_DB | QP_CQ_DB
  | RR_HEAD_DB | QP_CFG | QP_STAT | QP_SQ_BASE_LO | QP_SQ_BASE_HI | QP_CQ_BASE_LO | QP_CQ_BASE_HI | QP_PTRS | QP_LASTERR
  | RR_CFG | RR_BASE_LO | RR_BASE_HI | RR_WB_LO | RR_WB_HI | RR_TAIL | RR_HEAD | RR_STAT | MSIX_MOD | ID | CAP0 | CAP1
  | BOOT_STAGE | DEV_UID_LO | DEV_UID_HI | DOMAIN_OWN | PORT_CTL | PORT_STAT | PORT_ADDR | PORT_APT | PORT_DATA | CLEAR_CODE
  | CLEAR_LAD | PE_HALL_STAT | TRIP_MAP | PP_CTL | PP_MASK | LVL_IDX | LVL_DATA | PE_CTL | PE_STAT | PE_LATCH | TRIP_CTL
  | LVL_DRV | LVL_CMP | LVL_TERM | LVL_LOAD | PP_RESULT | BLANK_CNT | SMU_CTL | SMU_STAT | SMU_FORCE | SMU_ICLAMP
  | SMU_VCLAMP | SMU_CLEAR | DDS_FTW | DDS_AMPL | DDS_PHASE | MEAS_LAST | GRP_STAT | GRP_PDISS | QDROP_CNT | DDS_START
  | MSET_CFG | MSET_FORCE | MSET_LO | MSET_HI | TDC_HALL_STAT | TDC_HOST | REG_FREQ_LO | REG_FREQ_HI | REG_K | TDCQ_CFG
  | TDCQ_LO_LO | TDCQ_LO_HI | TDCQ_HI_LO | TDCQ_HI_HI | TDC_SET_A | TDC_SET_B | TDC_SET_C | TDC_SET_D | TDC_STAT
  | TDC_N | TDC_TMO | TDC_SKIP | ACQ_CTL | ACQ_STAT | ACQ_CFG | ACQ_IDX | ACQ_DROP | HSE_SLOT_A | HSE_SLOT_B | HSE_SLOT_C
  | HSE_SLOT_D | HSE_CTL | HSE_STAT | HSE_LAST | HSE_CRC | HSE_QDROP | LMAP_A | LMAP_B | MSPI_WIN | MSPI_STAT | MSPI_ID
  | BSPI_CTL | BSPI_ADDR | BSPI_STAT | BSPI_BUF | RS_STAT | RS_FRAME | RS_POS | RS_UNDER_CNT | RS_RSEQ | RS_LANE
  | EV_CFG | EV_STAT | EV_CNT | EV_HALLS | EV_PMASK | EV_CMASK | EV_SWSET | EV_FLAGS | EV_LOOP | EV_LOOP_LAST | EV_TRIGOUT_W
  | EV_GSTAT | EV_OVR | EV_COIN | EV_REFRACT | TM_CTL | TM_DELAY | TM_WIDTH | TM_PERIOD | EVD_SWSET | EVD_FLAG | GAL_CFG
  | GAL_STAT | GAL_CTL | GAL_PEER_IDX | GAL_PEER_INFO | GAL_PEER_UID_LO | GAL_PEER_UID_HI | GAL_MAP_IDX | GAL_MAP_DATA
  | GAL_RX_DROP | PORT_LAT | TB0_STAT | TB0_RATE | TB0_OFFSET | PTP_CFG | TB_SNAP | TBK_SNAP | GAL_ALAT | TT_CTL
  | TT_AT_LO | TT_AT_HI | TT_PERIOD | TT_WIDTH | THERM_STAT | THERM_CTL | TEMP_MAX | PBUDGET | TH_CFG | TSD_CFG | TS_FAIL_LO
  | TS_FAIL_HI | HK_ROUND | HK_DATA | RAIL_WIN | FLT_CTL | FLT_STATUS | FLT_GRAVE_SRC | FLT_LOG0 | FLT_LOG1 | FLT_LOG2
  | FLT_LOG3 | UNIT_STATE | FLT_CFG | FLT_SRC_STAT | CAL_CTL | CAL_STAT | CAL_GEN | CAL_HALL | CAL_GRP | JNL_STAT
  | JNL_SEQ | JNL_DROP | RPL_POS | JNL_DIGEST | RESET_CAUSE | BOOT_ERR | BOOT_TIME | RESET_CTL
  deriving DecidableEq, Repr

/-- A field of a register: its lowest bit, its length and its access code. -/
structure FieldRow where
  lo : Nat
  len : Nat
  acc : Acc
  deriving DecidableEq, Repr

/-- A register of the map: base address of instance 0, the (count, stride) of each index, the unit kind, the reset
value shared by the instances, and the fields. -/
structure RegRow where
  name : RegName
  base : Nat
  dims : List (Nat × Nat)
  unit : UnitKind
  reset : Nat
  fields : List FieldRow
  deriving DecidableEq, Repr

/-- AXIS_CTL (R81). -/
def R.AXIS_CTL (h : Nat) : Nat := 0x100000 + 0x10000 * h
def F.AXIS_CTL.EN (h : Nat) : FRef := ⟨(R.AXIS_CTL h), 31, 1⟩
def F.AXIS_CTL.AXZ_EN (h : Nat) : FRef := ⟨(R.AXIS_CTL h), 30, 1⟩
def F.AXIS_CTL.ZERO (h : Nat) : FRef := ⟨(R.AXIS_CTL h), 29, 1⟩
def F.AXIS_CTL.EXT_EDGE (h : Nat) : FRef := ⟨(R.AXIS_CTL h), 25, 1⟩
def F.AXIS_CTL.EXT_SEL (h : Nat) : FRef := ⟨(R.AXIS_CTL h), 23, 2⟩
def F.AXIS_CTL.BW (h : Nat) : FRef := ⟨(R.AXIS_CTL h), 20, 3⟩
def F.AXIS_CTL.DUT_CH (h : Nat) : FRef := ⟨(R.AXIS_CTL h), 14, 5⟩
def F.AXIS_CTL.PREDIV (h : Nat) : FRef := ⟨(R.AXIS_CTL h), 4, 10⟩
def F.AXIS_CTL.SRC (h : Nat) : FRef := ⟨(R.AXIS_CTL h), 0, 2⟩
/-- AXIS_STAT (R81). -/
def R.AXIS_STAT (h : Nat) : Nat := 0x100004 + 0x10000 * h
def F.AXIS_STAT.BW_EFF (h : Nat) : FRef := ⟨(R.AXIS_STAT h), 25, 3⟩
def F.AXIS_STAT.SLOT (h : Nat) : FRef := ⟨(R.AXIS_STAT h), 22, 3⟩
def F.AXIS_STAT.CAUSE (h : Nat) : FRef := ⟨(R.AXIS_STAT h), 19, 3⟩
def F.AXIS_STAT.ARMED (h : Nat) : FRef := ⟨(R.AXIS_STAT h), 18, 1⟩
def F.AXIS_STAT.SYN_BUSY (h : Nat) : FRef := ⟨(R.AXIS_STAT h), 17, 1⟩
def F.AXIS_STAT.SYN_DEFER (h : Nat) : FRef := ⟨(R.AXIS_STAT h), 16, 1⟩
def F.AXIS_STAT.RATIO_CONFLICT (h : Nat) : FRef := ⟨(R.AXIS_STAT h), 15, 1⟩
def F.AXIS_STAT.RATIO_BUSY (h : Nat) : FRef := ⟨(R.AXIS_STAT h), 14, 1⟩
def F.AXIS_STAT.RATIO_ERR (h : Nat) : FRef := ⟨(R.AXIS_STAT h), 13, 1⟩
def F.AXIS_STAT.TSET_BUSY (h : Nat) : FRef := ⟨(R.AXIS_STAT h), 12, 1⟩
def F.AXIS_STAT.TSET_ERR (h : Nat) : FRef := ⟨(R.AXIS_STAT h), 11, 1⟩
def F.AXIS_STAT.SRC_BUSY (h : Nat) : FRef := ⟨(R.AXIS_STAT h), 10, 1⟩
def F.AXIS_STAT.CFG_ERR (h : Nat) : FRef := ⟨(R.AXIS_STAT h), 9, 1⟩
def F.AXIS_STAT.AXZ_MISSED (h : Nat) : FRef := ⟨(R.AXIS_STAT h), 8, 1⟩
def F.AXIS_STAT.AXIS_LOST (h : Nat) : FRef := ⟨(R.AXIS_STAT h), 7, 1⟩
def F.AXIS_STAT.ALIGNED (h : Nat) : FRef := ⟨(R.AXIS_STAT h), 6, 1⟩
def F.AXIS_STAT.HOLD_SAT (h : Nat) : FRef := ⟨(R.AXIS_STAT h), 3, 1⟩
def F.AXIS_STAT.STATE (h : Nat) : FRef := ⟨(R.AXIS_STAT h), 0, 2⟩
/-- AXIS_POS_LO (R81). -/
def R.AXIS_POS_LO (h : Nat) : Nat := 0x100008 + 0x10000 * h
def F.AXIS_POS_LO.POS_LO (h : Nat) : FRef := ⟨(R.AXIS_POS_LO h), 0, 32⟩
/-- AXIS_POS_HI (R81). -/
def R.AXIS_POS_HI (h : Nat) : Nat := 0x10000c + 0x10000 * h
def F.AXIS_POS_HI.POS_HI (h : Nat) : FRef := ⟨(R.AXIS_POS_HI h), 0, 16⟩
/-- FOLLOW_FREQ (R81). -/
def R.FOLLOW_FREQ (h : Nat) : Nat := 0x100010 + 0x10000 * h
def F.FOLLOW_FREQ.FREQ (h : Nat) : FRef := ⟨(R.FOLLOW_FREQ h), 0, 29⟩
/-- HOLD_TREADS (R81). -/
def R.HOLD_TREADS (h : Nat) : Nat := 0x100014 + 0x10000 * h
def F.HOLD_TREADS.SAT (h : Nat) : FRef := ⟨(R.HOLD_TREADS h), 31, 1⟩
def F.HOLD_TREADS.COUNT (h : Nat) : FRef := ⟨(R.HOLD_TREADS h), 0, 31⟩
/-- RATIO_M (R81). -/
def R.RATIO_M (h k : Nat) : Nat := 0x100020 + 0x10000 * h + 0x8 * k
def F.RATIO_M.M (h k : Nat) : FRef := ⟨(R.RATIO_M h k), 0, 24⟩
/-- RATIO_N (R81). -/
def R.RATIO_N (h k : Nat) : Nat := 0x100024 + 0x10000 * h + 0x8 * k
def F.RATIO_N.N (h k : Nat) : FRef := ⟨(R.RATIO_N h k), 0, 24⟩
/-- SYN_SCHED (R81). -/
def R.SYN_SCHED (h : Nat) : Nat := 0x100060 + 0x10000 * h
def F.SYN_SCHED.ARM (h : Nat) : FRef := ⟨(R.SYN_SCHED h), 31, 1⟩
def F.SYN_SCHED.MODE (h : Nat) : FRef := ⟨(R.SYN_SCHED h), 30, 1⟩
def F.SYN_SCHED.SLOT_EN (h : Nat) : FRef := ⟨(R.SYN_SCHED h), 29, 1⟩
def F.SYN_SCHED.SLOT (h : Nat) : FRef := ⟨(R.SYN_SCHED h), 26, 3⟩
def F.SYN_SCHED.PHASE_EN (h : Nat) : FRef := ⟨(R.SYN_SCHED h), 25, 1⟩
def F.SYN_SCHED.PHASE (h : Nat) : FRef := ⟨(R.SYN_SCHED h), 0, 15⟩
/-- SYN_AT_LO (R81). -/
def R.SYN_AT_LO (h : Nat) : Nat := 0x100064 + 0x10000 * h
def F.SYN_AT_LO.AT_LO (h : Nat) : FRef := ⟨(R.SYN_AT_LO h), 0, 32⟩
/-- SYN_AT_HI (R81). -/
def R.SYN_AT_HI (h : Nat) : Nat := 0x100068 + 0x10000 * h
def F.SYN_AT_HI.AT_HI (h : Nat) : FRef := ⟨(R.SYN_AT_HI h), 0, 16⟩
/-- TSET_DRV (R81). -/
def R.TSET_DRV (h s c : Nat) : Nat := 0x101000 + 0x10000 * h + 0x100 * s + 0x8 * c
def F.TSET_DRV.FMT (h s c : Nat) : FRef := ⟨(R.TSET_DRV h s c), 28, 4⟩
def F.TSET_DRV.E1 (h s c : Nat) : FRef := ⟨(R.TSET_DRV h s c), 16, 10⟩
def F.TSET_DRV.E2 (h s c : Nat) : FRef := ⟨(R.TSET_DRV h s c), 0, 10⟩
/-- TSET_CMP (R81). -/
def R.TSET_CMP (h s c : Nat) : Nat := 0x101004 + 0x10000 * h + 0x100 * s + 0x8 * c
def F.TSET_CMP.CMODE (h s c : Nat) : FRef := ⟨(R.TSET_CMP h s c), 30, 2⟩
def F.TSET_CMP.S (h s c : Nat) : FRef := ⟨(R.TSET_CMP h s c), 16, 10⟩
def F.TSET_CMP.W (h s c : Nat) : FRef := ⟨(R.TSET_CMP h s c), 0, 10⟩
/-- TSET_HDR (R81). -/
def R.TSET_HDR (h s : Nat) : Nat := 0x105000 + 0x10000 * h + 0x4 * s
def F.TSET_HDR.RATIO_EN (h s : Nat) : FRef := ⟨(R.TSET_HDR h s), 3, 1⟩
def F.TSET_HDR.RATIO_SLOT (h s : Nat) : FRef := ⟨(R.TSET_HDR h s), 0, 3⟩
/-- DESKEW (R81). -/
def R.DESKEW (h c : Nat) : Nat := 0x105100 + 0x10000 * h + 0x4 * c
def F.DESKEW.TAPS (h c : Nat) : FRef := ⟨(R.DESKEW h c), 0, 12⟩
/-- AXZ_CTL (R81). -/
def R.AXZ_CTL : Nat := 0x20000
def F.AXZ_CTL.SEEN : FRef := ⟨R.AXZ_CTL, 2, 1⟩
def F.AXZ_CTL.ARMED : FRef := ⟨R.AXZ_CTL, 1, 1⟩
def F.AXZ_CTL.ARM : FRef := ⟨R.AXZ_CTL, 0, 1⟩
/-- REF_STAT (R81). -/
def R.REF_STAT : Nat := 0x20004
def F.REF_STAT.REF_LOST : FRef := ⟨R.REF_STAT, 2, 1⟩
def F.REF_STAT.REF_LOCK : FRef := ⟨R.REF_STAT, 1, 1⟩
def F.REF_STAT.REF_PRESENT : FRef := ⟨R.REF_STAT, 0, 1⟩
/-- AXIN_STAT (R81). -/
def R.AXIN_STAT : Nat := 0x20008
def F.AXIN_STAT.AXIN_LOST : FRef := ⟨R.AXIN_STAT, 4, 4⟩
def F.AXIN_STAT.AXIN_ACTIVE : FRef := ⟨R.AXIN_STAT, 0, 4⟩
/-- FLT_IDX (R121). -/
def R.FLT_IDX (h : Nat) : Nat := 0x100080 + 0x10000 * h
def F.FLT_IDX.IDX (h : Nat) : FRef := ⟨(R.FLT_IDX h), 0, 12⟩
/-- FLT_DESC_LO (R121). -/
def R.FLT_DESC_LO (h : Nat) : Nat := 0x100084 + 0x10000 * h
def F.FLT_DESC_LO.STATE (h : Nat) : FRef := ⟨(R.FLT_DESC_LO h), 30, 2⟩
def F.FLT_DESC_LO.PINNED (h : Nat) : FRef := ⟨(R.FLT_DESC_LO h), 29, 1⟩
def F.FLT_DESC_LO.PINNABLE (h : Nat) : FRef := ⟨(R.FLT_DESC_LO h), 28, 1⟩
def F.FLT_DESC_LO.START_TRIGGER (h : Nat) : FRef := ⟨(R.FLT_DESC_LO h), 27, 1⟩
def F.FLT_DESC_LO.STRETCHABLE (h : Nat) : FRef := ⟨(R.FLT_DESC_LO h), 26, 1⟩
def F.FLT_DESC_LO.PCLASS (h : Nat) : FRef := ⟨(R.FLT_DESC_LO h), 23, 3⟩
def F.FLT_DESC_LO.START (h : Nat) : FRef := ⟨(R.FLT_DESC_LO h), 0, 18⟩
/-- FLT_DESC_HI (R121). -/
def R.FLT_DESC_HI (h : Nat) : Nat := 0x100088 + 0x10000 * h
def F.FLT_DESC_HI.REFS (h : Nat) : FRef := ⟨(R.FLT_DESC_HI h), 25, 7⟩
def F.FLT_DESC_HI.DMA (h : Nat) : FRef := ⟨(R.FLT_DESC_HI h), 24, 1⟩
def F.FLT_DESC_HI.LEN (h : Nat) : FRef := ⟨(R.FLT_DESC_HI h), 0, 19⟩
/-- FLT_CRC (R121). -/
def R.FLT_CRC (h : Nat) : Nat := 0x10008c + 0x10000 * h
def F.FLT_CRC.CRC (h : Nat) : FRef := ⟨(R.FLT_CRC h), 0, 32⟩
/-- FLT_STAT (R121). -/
def R.FLT_STAT (h : Nat) : Nat := 0x100090 + 0x10000 * h
def F.FLT_STAT.INCOMPLETE (h : Nat) : FRef := ⟨(R.FLT_STAT h), 7, 1⟩
def F.FLT_STAT.LC_FULL (h : Nat) : FRef := ⟨(R.FLT_STAT h), 6, 1⟩
def F.FLT_STAT.STALL_FAULT (h : Nat) : FRef := ⟨(R.FLT_STAT h), 5, 1⟩
def F.FLT_STAT.CODE_ABSENT (h : Nat) : FRef := ⟨(R.FLT_STAT h), 4, 1⟩
def F.FLT_STAT.WPROT (h : Nat) : FRef := ⟨(R.FLT_STAT h), 3, 1⟩
def F.FLT_STAT.STRETCHING (h : Nat) : FRef := ⟨(R.FLT_STAT h), 2, 1⟩
def F.FLT_STAT.STALLING (h : Nat) : FRef := ⟨(R.FLT_STAT h), 1, 1⟩
def F.FLT_STAT.PLAYING (h : Nat) : FRef := ⟨(R.FLT_STAT h), 0, 1⟩
/-- STALL_CNT (R121). -/
def R.STALL_CNT (h : Nat) : Nat := 0x100094 + 0x10000 * h
def F.STALL_CNT.SAT (h : Nat) : FRef := ⟨(R.STALL_CNT h), 31, 1⟩
def F.STALL_CNT.COUNT (h : Nat) : FRef := ⟨(R.STALL_CNT h), 0, 31⟩
/-- STALL_RUN (R121). -/
def R.STALL_RUN (h : Nat) : Nat := 0x100098 + 0x10000 * h
def F.STALL_RUN.RUN (h : Nat) : FRef := ⟨(R.STALL_RUN h), 0, 32⟩
/-- STALL_LIMIT (R121). -/
def R.STALL_LIMIT (h : Nat) : Nat := 0x10009c + 0x10000 * h
def F.STALL_LIMIT.LIMIT (h : Nat) : FRef := ⟨(R.STALL_LIMIT h), 0, 32⟩
/-- WDROP_CNT (R121). -/
def R.WDROP_CNT (h : Nat) : Nat := 0x1000a0 + 0x10000 * h
def F.WDROP_CNT.SAT (h : Nat) : FRef := ⟨(R.WDROP_CNT h), 31, 1⟩
def F.WDROP_CNT.COUNT (h : Nat) : FRef := ⟨(R.WDROP_CNT h), 0, 31⟩
/-- LC_STAT (R121). -/
def R.LC_STAT (h : Nat) : Nat := 0x1000a4 + 0x10000 * h
def F.LC_STAT.USED (h : Nat) : FRef := ⟨(R.LC_STAT h), 16, 11⟩
def F.LC_STAT.NPIN (h : Nat) : FRef := ⟨(R.LC_STAT h), 0, 9⟩
/-- FLT_TRIGOUT (R121). -/
def R.FLT_TRIGOUT (h : Nat) : Nat := 0x1000a8 + 0x10000 * h
def F.FLT_TRIGOUT.EN (h : Nat) : FRef := ⟨(R.FLT_TRIGOUT h), 31, 1⟩
def F.FLT_TRIGOUT.PIN (h : Nat) : FRef := ⟨(R.FLT_TRIGOUT h), 8, 3⟩
def F.FLT_TRIGOUT.WIDTH (h : Nat) : FRef := ⟨(R.FLT_TRIGOUT h), 0, 8⟩
/-- FLT_STRETCH (R121). -/
def R.FLT_STRETCH (h : Nat) : Nat := 0x1000ac + 0x10000 * h
def F.FLT_STRETCH.TREADS (h : Nat) : FRef := ⟨(R.FLT_STRETCH h), 0, 16⟩
/-- HOLD_VEC (R121). -/
def R.HOLD_VEC (h k : Nat) : Nat := 0x1000b0 + 0x10000 * h + 0x4 * k
def F.HOLD_VEC.CODES (h k : Nat) : FRef := ⟨(R.HOLD_VEC h k), 0, 32⟩
/-- LAND_CFG (R162). -/
def R.LAND_CFG (h : Nat) : Nat := 0x1000c0 + 0x10000 * h
def F.LAND_CFG.BMARGIN (h : Nat) : FRef := ⟨(R.LAND_CFG h), 24, 8⟩
def F.LAND_CFG.LEAD (h : Nat) : FRef := ⟨(R.LAND_CFG h), 0, 7⟩
/-- LAND_STAT (R162). -/
def R.LAND_STAT (h : Nat) : Nat := 0x1000c4 + 0x10000 * h
def F.LAND_STAT.LEAD_EFF (h : Nat) : FRef := ⟨(R.LAND_STAT h), 9, 7⟩
def F.LAND_STAT.LOOP_REF_OVF (h : Nat) : FRef := ⟨(R.LAND_STAT h), 8, 1⟩
def F.LAND_STAT.SYNC_DENIED (h : Nat) : FRef := ⟨(R.LAND_STAT h), 7, 1⟩
def F.LAND_STAT.HEAD_MISS (h : Nat) : FRef := ⟨(R.LAND_STAT h), 6, 1⟩
def F.LAND_STAT.SEG_HOLD (h : Nat) : FRef := ⟨(R.LAND_STAT h), 5, 1⟩
def F.LAND_STAT.LATE_JUMP (h : Nat) : FRef := ⟨(R.LAND_STAT h), 4, 1⟩
def F.LAND_STAT.STOP_PEND (h : Nat) : FRef := ⟨(R.LAND_STAT h), 3, 1⟩
def F.LAND_STAT.JUMP_PEND (h : Nat) : FRef := ⟨(R.LAND_STAT h), 2, 1⟩
def F.LAND_STAT.WAITING (h : Nat) : FRef := ⟨(R.LAND_STAT h), 1, 1⟩
def F.LAND_STAT.JMP_REFUSED (h : Nat) : FRef := ⟨(R.LAND_STAT h), 0, 1⟩
/-- JMP_REQ (R162). -/
def R.JMP_REQ (h : Nat) : Nat := 0x1000c8 + 0x10000 * h
def F.JMP_REQ.REQ (h : Nat) : FRef := ⟨(R.JMP_REQ h), 31, 1⟩
def F.JMP_REQ.TARGET (h : Nat) : FRef := ⟨(R.JMP_REQ h), 0, 16⟩
/-- LATE_CNT (R162). -/
def R.LATE_CNT (h : Nat) : Nat := 0x1000cc + 0x10000 * h
def F.LATE_CNT.SAT (h : Nat) : FRef := ⟨(R.LATE_CNT h), 31, 1⟩
def F.LATE_CNT.COUNT (h : Nat) : FRef := ⟨(R.LATE_CNT h), 0, 31⟩
/-- HEAD_MISS_CNT (R162). -/
def R.HEAD_MISS_CNT (h : Nat) : Nat := 0x1000d0 + 0x10000 * h
def F.HEAD_MISS_CNT.SAT (h : Nat) : FRef := ⟨(R.HEAD_MISS_CNT h), 31, 1⟩
def F.HEAD_MISS_CNT.COUNT (h : Nat) : FRef := ⟨(R.HEAD_MISS_CNT h), 0, 31⟩
/-- SEG_HOLD_CNT (R162). -/
def R.SEG_HOLD_CNT (h : Nat) : Nat := 0x1000d4 + 0x10000 * h
def F.SEG_HOLD_CNT.SAT (h : Nat) : FRef := ⟨(R.SEG_HOLD_CNT h), 31, 1⟩
def F.SEG_HOLD_CNT.COUNT (h : Nat) : FRef := ⟨(R.SEG_HOLD_CNT h), 0, 31⟩
/-- LAND_CNT_LO (R162). -/
def R.LAND_CNT_LO (h : Nat) : Nat := 0x1000d8 + 0x10000 * h
def F.LAND_CNT_LO.CNT (h : Nat) : FRef := ⟨(R.LAND_CNT_LO h), 0, 32⟩
/-- LAND_CNT_HI (R162). -/
def R.LAND_CNT_HI (h : Nat) : Nat := 0x1000dc + 0x10000 * h
def F.LAND_CNT_HI.CNT (h : Nat) : FRef := ⟨(R.LAND_CNT_HI h), 0, 32⟩
/-- COND_SNAP (R162). -/
def R.COND_SNAP (h : Nat) : Nat := 0x1000e0 + 0x10000 * h
def F.COND_SNAP.COND (h : Nat) : FRef := ⟨(R.COND_SNAP h), 0, 32⟩
/-- FLOG_LIMIT (R162). -/
def R.FLOG_LIMIT (h : Nat) : Nat := 0x1000e4 + 0x10000 * h
def F.FLOG_LIMIT.LIMIT (h : Nat) : FRef := ⟨(R.FLOG_LIMIT h), 0, 16⟩
/-- STAIR_STAT (R162). -/
def R.STAIR_STAT (h : Nat) : Nat := 0x1000e8 + 0x10000 * h
def F.STAIR_STAT.SEALED (h : Nat) : FRef := ⟨(R.STAIR_STAT h), 16, 16⟩
def F.STAIR_STAT.WPROT (h : Nat) : FRef := ⟨(R.STAIR_STAT h), 0, 1⟩
/-- UC_STAT (R184). -/
def R.UC_STAT : Nat := 0x900000
def F.UC_STAT.REASON : FRef := ⟨R.UC_STAT, 8, 4⟩
def F.UC_STAT.WRITABLE : FRef := ⟨R.UC_STAT, 2, 1⟩
def F.UC_STAT.ADVANCED : FRef := ⟨R.UC_STAT, 1, 1⟩
def F.UC_STAT.APPLIED : FRef := ⟨R.UC_STAT, 0, 1⟩
/-- UC_ROM_ID (R184). -/
def R.UC_ROM_ID : Nat := 0x900004
def F.UC_ROM_ID.VALUE : FRef := ⟨R.UC_ROM_ID, 0, 32⟩
/-- UC_PATCH_LEVEL (R184). -/
def R.UC_PATCH_LEVEL : Nat := 0x900008
def F.UC_PATCH_LEVEL.VALUE : FRef := ⟨R.UC_PATCH_LEVEL, 0, 32⟩
/-- UC_ROLLBACK (R184). -/
def R.UC_ROLLBACK : Nat := 0x90000c
def F.UC_ROLLBACK.OTP : FRef := ⟨R.UC_ROLLBACK, 16, 7⟩
def F.UC_ROLLBACK.IMAGE : FRef := ⟨R.UC_ROLLBACK, 0, 7⟩
/-- UC_BODY_CRC (R184). -/
def R.UC_BODY_CRC : Nat := 0x900010
def F.UC_BODY_CRC.VALUE : FRef := ⟨R.UC_BODY_CRC, 0, 32⟩
/-- UC_RD_IDX (R184). -/
def R.UC_RD_IDX : Nat := 0x900014
def F.UC_RD_IDX.ADDR : FRef := ⟨R.UC_RD_IDX, 0, 14⟩
/-- UC_RD_DATA (R184). -/
def R.UC_RD_DATA : Nat := 0x900018
def F.UC_RD_DATA.WORD : FRef := ⟨R.UC_RD_DATA, 0, 32⟩
/-- UC_MATCH (R184). -/
def R.UC_MATCH (m : Nat) : Nat := 0x900040 + 0x4 * m
def F.UC_MATCH.EN (m : Nat) : FRef := ⟨(R.UC_MATCH m), 31, 1⟩
def F.UC_MATCH.ROM_ADDR (m : Nat) : FRef := ⟨(R.UC_MATCH m), 16, 13⟩
def F.UC_MATCH.PATCH_ADDR (m : Nat) : FRef := ⟨(R.UC_MATCH m), 0, 8⟩
/-- UC_ENG (R184). -/
def R.UC_ENG (h : Nat) : Nat := 0x900080 + 0x4 * h
def F.UC_ENG.STATE (h : Nat) : FRef := ⟨(R.UC_ENG h), 30, 2⟩
def F.UC_ENG.UFAULT (h : Nat) : FRef := ⟨(R.UC_ENG h), 29, 1⟩
def F.UC_ENG.MOP (h : Nat) : FRef := ⟨(R.UC_ENG h), 16, 6⟩
def F.UC_ENG.UADDR (h : Nat) : FRef := ⟨(R.UC_ENG h), 0, 14⟩
/-- HALL_STAT (R214). -/
def R.HALL_STAT (h : Nat) : Nat := 0x100100 + 0x10000 * h
def F.HALL_STAT.FENCE (h : Nat) : FRef := ⟨(R.HALL_STAT h), 31, 1⟩
def F.HALL_STAT.THERM (h : Nat) : FRef := ⟨(R.HALL_STAT h), 30, 1⟩
def F.HALL_STAT.DEFER_C (h : Nat) : FRef := ⟨(R.HALL_STAT h), 28, 2⟩
def F.HALL_STAT.DEFER_B (h : Nat) : FRef := ⟨(R.HALL_STAT h), 26, 2⟩
def F.HALL_STAT.DEFER_A (h : Nat) : FRef := ⟨(R.HALL_STAT h), 24, 2⟩
def F.HALL_STAT.YIELD (h : Nat) : FRef := ⟨(R.HALL_STAT h), 21, 3⟩
def F.HALL_STAT.SWAP (h : Nat) : FRef := ⟨(R.HALL_STAT h), 20, 1⟩
def F.HALL_STAT.IDLE (h : Nat) : FRef := ⟨(R.HALL_STAT h), 19, 1⟩
def F.HALL_STAT.CLASS_OVER (h : Nat) : FRef := ⟨(R.HALL_STAT h), 18, 1⟩
def F.HALL_STAT.DL_MISS (h : Nat) : FRef := ⟨(R.HALL_STAT h), 17, 1⟩
def F.HALL_STAT.ALC_WPROT (h : Nat) : FRef := ⟨(R.HALL_STAT h), 16, 1⟩
def F.HALL_STAT.CFG_ERR (h : Nat) : FRef := ⟨(R.HALL_STAT h), 15, 1⟩
def F.HALL_STAT.LIVE_BANK (h : Nat) : FRef := ⟨(R.HALL_STAT h), 0, 2⟩
/-- SCHED_CTL (R214). -/
def R.SCHED_CTL (h : Nat) : Nat := 0x100104 + 0x10000 * h
def F.SCHED_CTL.SETTLE (h : Nat) : FRef := ⟨(R.SCHED_CTL h), 0, 17⟩
/-- SWAP_CNT (R214). -/
def R.SWAP_CNT (h : Nat) : Nat := 0x100108 + 0x10000 * h
def F.SWAP_CNT.SAT (h : Nat) : FRef := ⟨(R.SWAP_CNT h), 31, 1⟩
def F.SWAP_CNT.COUNT (h : Nat) : FRef := ⟨(R.SWAP_CNT h), 0, 31⟩
/-- SCHED_BANK (R214). -/
def R.SCHED_BANK (h b : Nat) : Nat := 0x100110 + 0x10000 * h + 0x10 * b
def F.SCHED_BANK.WEIGHT (h b : Nat) : FRef := ⟨(R.SCHED_BANK h b), 24, 8⟩
def F.SCHED_BANK.CLASS (h b : Nat) : FRef := ⟨(R.SCHED_BANK h b), 21, 3⟩
def F.SCHED_BANK.SMU_EN (h b : Nat) : FRef := ⟨(R.SCHED_BANK h b), 20, 1⟩
def F.SCHED_BANK.SMU_GRP (h b : Nat) : FRef := ⟨(R.SCHED_BANK h b), 16, 4⟩
def F.SCHED_BANK.SMU_LOAD (h b : Nat) : FRef := ⟨(R.SCHED_BANK h b), 0, 8⟩
/-- DEADLINE_LO (R214). -/
def R.DEADLINE_LO (h b : Nat) : Nat := 0x100114 + 0x10000 * h + 0x10 * b
def F.DEADLINE_LO.DL_LO (h b : Nat) : FRef := ⟨(R.DEADLINE_LO h b), 0, 32⟩
/-- DEADLINE_HI (R214). -/
def R.DEADLINE_HI (h b : Nat) : Nat := 0x100118 + 0x10000 * h + 0x10 * b
def F.DEADLINE_HI.EN (h b : Nat) : FRef := ⟨(R.DEADLINE_HI h b), 31, 1⟩
def F.DEADLINE_HI.DL_HI (h b : Nat) : FRef := ⟨(R.DEADLINE_HI h b), 0, 16⟩
/-- VT (R214). -/
def R.VT (h b : Nat) : Nat := 0x10011c + 0x10000 * h + 0x10 * b
def F.VT.VT (h b : Nat) : FRef := ⟨(R.VT h b), 0, 31⟩
/-- PCLASS_PWR (R214). -/
def R.PCLASS_PWR (h k : Nat) : Nat := 0x100140 + 0x10000 * h + 0x4 * k
def F.PCLASS_PWR.PWR (h k : Nat) : FRef := ⟨(R.PCLASS_PWR h k), 0, 12⟩
/-- BCAST_SRC (R214). -/
def R.BCAST_SRC (h g : Nat) : Nat := 0x100160 + 0x10000 * h + 0x4 * g
def F.BCAST_SRC.SRC (h g : Nat) : FRef := ⟨(R.BCAST_SRC h g), 0, 5⟩
/-- BCAST_MEM (R214). -/
def R.BCAST_MEM (h g : Nat) : Nat := 0x100170 + 0x10000 * h + 0x4 * g
def F.BCAST_MEM.MEM (h g : Nat) : FRef := ⟨(R.BCAST_MEM h g), 0, 32⟩
/-- ALC_STATE (R214). -/
def R.ALC_STATE (h a : Nat) : Nat := 0x100200 + 0x10000 * h + 0x4 * a
def F.ALC_STATE.FENCE (h a : Nat) : FRef := ⟨(R.ALC_STATE h a), 31, 1⟩
def F.ALC_STATE.THERM (h a : Nat) : FRef := ⟨(R.ALC_STATE h a), 30, 1⟩
def F.ALC_STATE.BUDGET (h a : Nat) : FRef := ⟨(R.ALC_STATE h a), 29, 1⟩
def F.ALC_STATE.YIELD (h a : Nat) : FRef := ⟨(R.ALC_STATE h a), 28, 1⟩
def F.ALC_STATE.SITOUT (h a : Nat) : FRef := ⟨(R.ALC_STATE h a), 27, 1⟩
def F.ALC_STATE.CSAT (h a : Nat) : FRef := ⟨(R.ALC_STATE h a), 26, 1⟩
def F.ALC_STATE.FLOG_SAT (h a : Nat) : FRef := ⟨(R.ALC_STATE h a), 25, 1⟩
def F.ALC_STATE.INCOMPLETE (h a : Nat) : FRef := ⟨(R.ALC_STATE h a), 24, 1⟩
def F.ALC_STATE.CONTACT (h a : Nat) : FRef := ⟨(R.ALC_STATE h a), 22, 2⟩
def F.ALC_STATE.TS (h a : Nat) : FRef := ⟨(R.ALC_STATE h a), 16, 6⟩
def F.ALC_STATE.LS (h a : Nat) : FRef := ⟨(R.ALC_STATE h a), 10, 6⟩
def F.ALC_STATE.FCAUSE (h a : Nat) : FRef := ⟨(R.ALC_STATE h a), 3, 7⟩
def F.ALC_STATE.STATE (h a : Nat) : FRef := ⟨(R.ALC_STATE h a), 0, 3⟩
/-- SCHED_FLOOR (R214). -/
def R.SCHED_FLOOR : Nat := 0x680100
def F.SCHED_FLOOR.VALUE : FRef := ⟨R.SCHED_FLOOR, 0, 16⟩
/-- SCHED_LEDGER (R214). -/
def R.SCHED_LEDGER : Nat := 0x680104
def F.SCHED_LEDGER.VALUE : FRef := ⟨R.SCHED_LEDGER, 0, 16⟩
/-- SCHED_MEAS (R214). -/
def R.SCHED_MEAS : Nat := 0x680108
def F.SCHED_MEAS.VALUE : FRef := ⟨R.SCHED_MEAS, 0, 16⟩
/-- QP_SQ_DB (R252). -/
def R.QP_SQ_DB (d q : Nat) : Nat := 0x10000 + 0x1000 * d + 0x8 * q
def F.QP_SQ_DB.INDEX (d q : Nat) : FRef := ⟨(R.QP_SQ_DB d q), 0, 20⟩
/-- QP_CQ_DB (R252). -/
def R.QP_CQ_DB (d q : Nat) : Nat := 0x10004 + 0x1000 * d + 0x8 * q
def F.QP_CQ_DB.INDEX (d q : Nat) : FRef := ⟨(R.QP_CQ_DB d q), 0, 20⟩
/-- RR_HEAD_DB (R252). -/
def R.RR_HEAD_DB (d r : Nat) : Nat := 0x10200 + 0x1000 * d + 0x4 * r
def F.RR_HEAD_DB.INDEX (d r : Nat) : FRef := ⟨(R.RR_HEAD_DB d r), 0, 20⟩
/-- QP_CFG (R252). -/
def R.QP_CFG (q : Nat) : Nat := 0x18000 + 0x20 * q
def F.QP_CFG.EN (q : Nat) : FRef := ⟨(R.QP_CFG q), 31, 1⟩
def F.QP_CFG.PRIO (q : Nat) : FRef := ⟨(R.QP_CFG q), 30, 1⟩
def F.QP_CFG.OWNER (q : Nat) : FRef := ⟨(R.QP_CFG q), 27, 3⟩
def F.QP_CFG.CQ_LOG (q : Nat) : FRef := ⟨(R.QP_CFG q), 21, 5⟩
def F.QP_CFG.SQ_LOG (q : Nat) : FRef := ⟨(R.QP_CFG q), 16, 5⟩
def F.QP_CFG.VEC (q : Nat) : FRef := ⟨(R.QP_CFG q), 7, 7⟩
/-- QP_STAT (R252). -/
def R.QP_STAT (q : Nat) : Nat := 0x18004 + 0x20 * q
def F.QP_STAT.STATE (q : Nat) : FRef := ⟨(R.QP_STAT q), 30, 2⟩
def F.QP_STAT.CQ_FULL (q : Nat) : FRef := ⟨(R.QP_STAT q), 6, 1⟩
def F.QP_STAT.CQ_FULL_SEEN (q : Nat) : FRef := ⟨(R.QP_STAT q), 5, 1⟩
def F.QP_STAT.FETCH_ERR (q : Nat) : FRef := ⟨(R.QP_STAT q), 4, 1⟩
def F.QP_STAT.NONOWNER (q : Nat) : FRef := ⟨(R.QP_STAT q), 3, 1⟩
def F.QP_STAT.DB_ERR (q : Nat) : FRef := ⟨(R.QP_STAT q), 2, 1⟩
def F.QP_STAT.CFG_BUSY (q : Nat) : FRef := ⟨(R.QP_STAT q), 1, 1⟩
def F.QP_STAT.CFG_ERR (q : Nat) : FRef := ⟨(R.QP_STAT q), 0, 1⟩
/-- QP_SQ_BASE_LO (R252). -/
def R.QP_SQ_BASE_LO (q : Nat) : Nat := 0x18008 + 0x20 * q
def F.QP_SQ_BASE_LO.ADDR (q : Nat) : FRef := ⟨(R.QP_SQ_BASE_LO q), 12, 20⟩
/-- QP_SQ_BASE_HI (R252). -/
def R.QP_SQ_BASE_HI (q : Nat) : Nat := 0x1800c + 0x20 * q
def F.QP_SQ_BASE_HI.ADDR (q : Nat) : FRef := ⟨(R.QP_SQ_BASE_HI q), 0, 32⟩
/-- QP_CQ_BASE_LO (R252). -/
def R.QP_CQ_BASE_LO (q : Nat) : Nat := 0x18010 + 0x20 * q
def F.QP_CQ_BASE_LO.ADDR (q : Nat) : FRef := ⟨(R.QP_CQ_BASE_LO q), 12, 20⟩
/-- QP_CQ_BASE_HI (R252). -/
def R.QP_CQ_BASE_HI (q : Nat) : Nat := 0x18014 + 0x20 * q
def F.QP_CQ_BASE_HI.ADDR (q : Nat) : FRef := ⟨(R.QP_CQ_BASE_HI q), 0, 32⟩
/-- QP_PTRS (R252). -/
def R.QP_PTRS (q : Nat) : Nat := 0x18018 + 0x20 * q
def F.QP_PTRS.CQ_TAIL (q : Nat) : FRef := ⟨(R.QP_PTRS q), 16, 16⟩
def F.QP_PTRS.SQ_HEAD (q : Nat) : FRef := ⟨(R.QP_PTRS q), 0, 16⟩
/-- QP_LASTERR (R252). -/
def R.QP_LASTERR (q : Nat) : Nat := 0x1801c + 0x20 * q
def F.QP_LASTERR.CAUSE (q : Nat) : FRef := ⟨(R.QP_LASTERR q), 24, 8⟩
def F.QP_LASTERR.QPOS (q : Nat) : FRef := ⟨(R.QP_LASTERR q), 0, 16⟩
/-- RR_CFG (R252). -/
def R.RR_CFG (r : Nat) : Nat := 0x19000 + 0x20 * r
def F.RR_CFG.EN (r : Nat) : FRef := ⟨(R.RR_CFG r), 31, 1⟩
def F.RR_CFG.OWNER (r : Nat) : FRef := ⟨(R.RR_CFG r), 28, 3⟩
def F.RR_CFG.LOG (r : Nat) : FRef := ⟨(R.RR_CFG r), 20, 5⟩
def F.RR_CFG.VEC (r : Nat) : FRef := ⟨(R.RR_CFG r), 7, 7⟩
/-- RR_BASE_LO (R252). -/
def R.RR_BASE_LO (r : Nat) : Nat := 0x19004 + 0x20 * r
def F.RR_BASE_LO.ADDR (r : Nat) : FRef := ⟨(R.RR_BASE_LO r), 12, 20⟩
/-- RR_BASE_HI (R252). -/
def R.RR_BASE_HI (r : Nat) : Nat := 0x19008 + 0x20 * r
def F.RR_BASE_HI.ADDR (r : Nat) : FRef := ⟨(R.RR_BASE_HI r), 0, 32⟩
/-- RR_WB_LO (R252). -/
def R.RR_WB_LO (r : Nat) : Nat := 0x1900c + 0x20 * r
def F.RR_WB_LO.ADDR (r : Nat) : FRef := ⟨(R.RR_WB_LO r), 2, 30⟩
/-- RR_WB_HI (R252). -/
def R.RR_WB_HI (r : Nat) : Nat := 0x19010 + 0x20 * r
def F.RR_WB_HI.ADDR (r : Nat) : FRef := ⟨(R.RR_WB_HI r), 0, 32⟩
/-- RR_TAIL (R252). -/
def R.RR_TAIL (r : Nat) : Nat := 0x19014 + 0x20 * r
def F.RR_TAIL.INDEX (r : Nat) : FRef := ⟨(R.RR_TAIL r), 0, 20⟩
/-- RR_HEAD (R252). -/
def R.RR_HEAD (r : Nat) : Nat := 0x19018 + 0x20 * r
def F.RR_HEAD.INDEX (r : Nat) : FRef := ⟨(R.RR_HEAD r), 0, 20⟩
/-- RR_STAT (R252). -/
def R.RR_STAT (r : Nat) : Nat := 0x1901c + 0x20 * r
def F.RR_STAT.FULL (r : Nat) : FRef := ⟨(R.RR_STAT r), 4, 1⟩
def F.RR_STAT.FULL_SEEN (r : Nat) : FRef := ⟨(R.RR_STAT r), 3, 1⟩
def F.RR_STAT.NONOWNER (r : Nat) : FRef := ⟨(R.RR_STAT r), 2, 1⟩
def F.RR_STAT.DB_ERR (r : Nat) : FRef := ⟨(R.RR_STAT r), 1, 1⟩
def F.RR_STAT.CFG_ERR (r : Nat) : FRef := ⟨(R.RR_STAT r), 0, 1⟩
/-- MSIX_MOD (R252). -/
def R.MSIX_MOD (v : Nat) : Nat := 0x1a000 + 0x4 * v
def F.MSIX_MOD.COUNT (v : Nat) : FRef := ⟨(R.MSIX_MOD v), 16, 8⟩
def F.MSIX_MOD.TIME (v : Nat) : FRef := ⟨(R.MSIX_MOD v), 0, 10⟩
/-- ID (R266). -/
def R.ID : Nat := 0x0
def F.ID.PART : FRef := ⟨R.ID, 16, 16⟩
def F.ID.STEP_MAJOR : FRef := ⟨R.ID, 8, 8⟩
def F.ID.STEP_MINOR : FRef := ⟨R.ID, 0, 8⟩
/-- CAP0 (R266). -/
def R.CAP0 : Nat := 0x4
def F.CAP0.FLT_MIB : FRef := ⟨R.CAP0, 23, 9⟩
def F.CAP0.HBM_GIB : FRef := ⟨R.CAP0, 18, 5⟩
def F.CAP0.HALLS : FRef := ⟨R.CAP0, 12, 6⟩
def F.CAP0.SMU_CH : FRef := ⟨R.CAP0, 5, 7⟩
def F.CAP0.DIGITISERS : FRef := ⟨R.CAP0, 2, 3⟩
def F.CAP0.RASTER : FRef := ⟨R.CAP0, 1, 1⟩
def F.CAP0.DDS : FRef := ⟨R.CAP0, 0, 1⟩
/-- CAP1 (R266). -/
def R.CAP1 : Nat := 0x8
def F.CAP1.GALLERY_PORTS : FRef := ⟨R.CAP1, 30, 2⟩
def F.CAP1.WRITABLE_STORE : FRef := ⟨R.CAP1, 29, 1⟩
def F.CAP1.ALCOVES : FRef := ⟨R.CAP1, 16, 13⟩
def F.CAP1.CLK_DOMAINS : FRef := ⟨R.CAP1, 8, 8⟩
/-- BOOT_STAGE (R266). -/
def R.BOOT_STAGE : Nat := 0xc
def F.BOOT_STAGE.FAIL_AT : FRef := ⟨R.BOOT_STAGE, 8, 4⟩
def F.BOOT_STAGE.STAGE : FRef := ⟨R.BOOT_STAGE, 0, 4⟩
/-- DEV_UID_LO (R266). -/
def R.DEV_UID_LO : Nat := 0x10
def F.DEV_UID_LO.UID : FRef := ⟨R.DEV_UID_LO, 0, 32⟩
/-- DEV_UID_HI (R266). -/
def R.DEV_UID_HI : Nat := 0x14
def F.DEV_UID_HI.UID : FRef := ⟨R.DEV_UID_HI, 0, 32⟩
/-- DOMAIN_OWN (R269). -/
def R.DOMAIN_OWN (u : Nat) : Nat := 0x100 + 0x4 * u
def F.DOMAIN_OWN.OWNER (u : Nat) : FRef := ⟨(R.DOMAIN_OWN u), 0, 3⟩
/-- PORT_CTL (R266). -/
def R.PORT_CTL (p : Nat) : Nat := 0x4000 + 0x20 * p
def F.PORT_CTL.STEP (p : Nat) : FRef := ⟨(R.PORT_CTL p), 0, 2⟩
/-- PORT_STAT (R266). -/
def R.PORT_STAT (p : Nat) : Nat := 0x4004 + 0x20 * p
def F.PORT_STAT.DMA (p : Nat) : FRef := ⟨(R.PORT_STAT p), 6, 1⟩
def F.PORT_STAT.STAGED (p : Nat) : FRef := ⟨(R.PORT_STAT p), 5, 1⟩
def F.PORT_STAT.WPROT (p : Nat) : FRef := ⟨(R.PORT_STAT p), 4, 1⟩
def F.PORT_STAT.CFG_ERR (p : Nat) : FRef := ⟨(R.PORT_STAT p), 3, 1⟩
def F.PORT_STAT.PARTIAL (p : Nat) : FRef := ⟨(R.PORT_STAT p), 2, 1⟩
def F.PORT_STAT.PORT_BUSY (p : Nat) : FRef := ⟨(R.PORT_STAT p), 1, 1⟩
def F.PORT_STAT.PORT_OVF (p : Nat) : FRef := ⟨(R.PORT_STAT p), 0, 1⟩
/-- PORT_ADDR (R266). -/
def R.PORT_ADDR (p : Nat) : Nat := 0x4008 + 0x20 * p
def F.PORT_ADDR.ADDR (p : Nat) : FRef := ⟨(R.PORT_ADDR p), 0, 32⟩
/-- PORT_APT (R266). -/
def R.PORT_APT (p : Nat) : Nat := 0x400c + 0x20 * p
def F.PORT_APT.BASE (p : Nat) : FRef := ⟨(R.PORT_APT p), 12, 20⟩
/-- PORT_DATA (R266). -/
def R.PORT_DATA (p k : Nat) : Nat := 0x4010 + 0x20 * p + 0x4 * k
def F.PORT_DATA.DATA (p k : Nat) : FRef := ⟨(R.PORT_DATA p k), 0, 32⟩
/-- CLEAR_CODE (R301). -/
def R.CLEAR_CODE (h : Nat) : Nat := 0x100400 + 0x10000 * h
def F.CLEAR_CODE.CODE_R2 (h : Nat) : FRef := ⟨(R.CLEAR_CODE h), 16, 16⟩
def F.CLEAR_CODE.CODE_R1 (h : Nat) : FRef := ⟨(R.CLEAR_CODE h), 0, 16⟩
/-- CLEAR_LAD (R301). -/
def R.CLEAR_LAD (h : Nat) : Nat := 0x100404 + 0x10000 * h
def F.CLEAR_LAD.LAD_R2 (h : Nat) : FRef := ⟨(R.CLEAR_LAD h), 16, 14⟩
def F.CLEAR_LAD.LAD_R1 (h : Nat) : FRef := ⟨(R.CLEAR_LAD h), 0, 14⟩
/-- PE_HALL_STAT (R301). -/
def R.PE_HALL_STAT (h : Nat) : Nat := 0x100408 + 0x10000 * h
def F.PE_HALL_STAT.PP_REFUSED (h : Nat) : FRef := ⟨(R.PE_HALL_STAT h), 3, 1⟩
def F.PE_HALL_STAT.PP_BUSY (h : Nat) : FRef := ⟨(R.PE_HALL_STAT h), 2, 1⟩
def F.PE_HALL_STAT.CLR_SEEN (h : Nat) : FRef := ⟨(R.PE_HALL_STAT h), 1, 1⟩
def F.PE_HALL_STAT.CLR_ACTIVE (h : Nat) : FRef := ⟨(R.PE_HALL_STAT h), 0, 1⟩
/-- TRIP_MAP (R301). -/
def R.TRIP_MAP (h : Nat) : Nat := 0x10040c + 0x10000 * h
def F.TRIP_MAP.TRIPPED (h : Nat) : FRef := ⟨(R.TRIP_MAP h), 0, 32⟩
/-- PP_CTL (R301). -/
def R.PP_CTL (h : Nat) : Nat := 0x100410 + 0x10000 * h
def F.PP_CTL.GO (h : Nat) : FRef := ⟨(R.PP_CTL h), 31, 1⟩
def F.PP_CTL.BANK (h : Nat) : FRef := ⟨(R.PP_CTL h), 29, 2⟩
def F.PP_CTL.IFORCE (h : Nat) : FRef := ⟨(R.PP_CTL h), 16, 8⟩
def F.PP_CTL.MSETTLE (h : Nat) : FRef := ⟨(R.PP_CTL h), 0, 10⟩
/-- PP_MASK (R301). -/
def R.PP_MASK (h : Nat) : Nat := 0x100414 + 0x10000 * h
def F.PP_MASK.MASK (h : Nat) : FRef := ⟨(R.PP_MASK h), 0, 32⟩
/-- LVL_IDX (R301). -/
def R.LVL_IDX (h : Nat) : Nat := 0x100418 + 0x10000 * h
def F.LVL_IDX.SET (h : Nat) : FRef := ⟨(R.LVL_IDX h), 5, 6⟩
def F.LVL_IDX.SLOT (h : Nat) : FRef := ⟨(R.LVL_IDX h), 0, 5⟩
/-- LVL_DATA (R301). -/
def R.LVL_DATA (h k : Nat) : Nat := 0x100420 + 0x10000 * h + 0x4 * k
def F.LVL_DATA.DATA (h k : Nat) : FRef := ⟨(R.LVL_DATA h k), 0, 32⟩
/-- PE_CTL (R301). -/
def R.PE_CTL (h c : Nat) : Nat := 0x106000 + 0x10000 * h + 0x40 * c
def F.PE_CTL.EN (h c : Nat) : FRef := ⟨(R.PE_CTL h c), 31, 1⟩
def F.PE_CTL.DAC_ARCH (h c : Nat) : FRef := ⟨(R.PE_CTL h c), 30, 1⟩
def F.PE_CTL.OFF_MODE (h c : Nat) : FRef := ⟨(R.PE_CTL h c), 28, 2⟩
def F.PE_CTL.LATCH (h c : Nat) : FRef := ⟨(R.PE_CTL h c), 27, 1⟩
def F.PE_CTL.BLANK_EN (h c : Nat) : FRef := ⟨(R.PE_CTL h c), 26, 1⟩
def F.PE_CTL.BLANK_TM (h c : Nat) : FRef := ⟨(R.PE_CTL h c), 22, 4⟩
/-- PE_STAT (R301). -/
def R.PE_STAT (h c : Nat) : Nat := 0x106004 + 0x10000 * h + 0x40 * c
def F.PE_STAT.EN_EFF (h c : Nat) : FRef := ⟨(R.PE_STAT h c), 8, 1⟩
def F.PE_STAT.SAFE (h c : Nat) : FRef := ⟨(R.PE_STAT h c), 7, 1⟩
def F.PE_STAT.TRIPPED (h c : Nat) : FRef := ⟨(R.PE_STAT h c), 6, 1⟩
def F.PE_STAT.RANGE_BUSY (h c : Nat) : FRef := ⟨(R.PE_STAT h c), 5, 1⟩
def F.PE_STAT.COMP_UNSETTLED (h c : Nat) : FRef := ⟨(R.PE_STAT h c), 4, 1⟩
def F.PE_STAT.BLANKED (h c : Nat) : FRef := ⟨(R.PE_STAT h c), 3, 1⟩
def F.PE_STAT.LVL_ERR (h c : Nat) : FRef := ⟨(R.PE_STAT h c), 2, 1⟩
def F.PE_STAT.PE_BUSY (h c : Nat) : FRef := ⟨(R.PE_STAT h c), 1, 1⟩
def F.PE_STAT.CFG_ERR (h c : Nat) : FRef := ⟨(R.PE_STAT h c), 0, 1⟩
/-- PE_LATCH (R301). -/
def R.PE_LATCH (h c : Nat) : Nat := 0x106008 + 0x10000 * h + 0x40 * c
def F.PE_LATCH.LAST (h c : Nat) : FRef := ⟨(R.PE_LATCH h c), 4, 2⟩
def F.PE_LATCH.SEEN_HIGH (h c : Nat) : FRef := ⟨(R.PE_LATCH h c), 2, 1⟩
def F.PE_LATCH.SEEN_MID (h c : Nat) : FRef := ⟨(R.PE_LATCH h c), 1, 1⟩
def F.PE_LATCH.SEEN_LOW (h c : Nat) : FRef := ⟨(R.PE_LATCH h c), 0, 1⟩
/-- TRIP_CTL (R301). -/
def R.TRIP_CTL (h c : Nat) : Nat := 0x10600c + 0x10000 * h + 0x40 * c
def F.TRIP_CTL.COND (h c : Nat) : FRef := ⟨(R.TRIP_CTL h c), 30, 2⟩
def F.TRIP_CTL.DRV (h c : Nat) : FRef := ⟨(R.TRIP_CTL h c), 29, 1⟩
def F.TRIP_CTL.HALL (h c : Nat) : FRef := ⟨(R.TRIP_CTL h c), 28, 1⟩
def F.TRIP_CTL.SMU_EN (h c : Nat) : FRef := ⟨(R.TRIP_CTL h c), 27, 1⟩
def F.TRIP_CTL.SMU_GRP (h c : Nat) : FRef := ⟨(R.TRIP_CTL h c), 23, 4⟩
/-- LVL_DRV (R301). -/
def R.LVL_DRV (h c : Nat) : Nat := 0x106010 + 0x10000 * h + 0x40 * c
def F.LVL_DRV.VIH (h c : Nat) : FRef := ⟨(R.LVL_DRV h c), 16, 16⟩
def F.LVL_DRV.VIL (h c : Nat) : FRef := ⟨(R.LVL_DRV h c), 0, 16⟩
/-- LVL_CMP (R301). -/
def R.LVL_CMP (h c : Nat) : Nat := 0x106014 + 0x10000 * h + 0x40 * c
def F.LVL_CMP.VOH (h c : Nat) : FRef := ⟨(R.LVL_CMP h c), 16, 16⟩
def F.LVL_CMP.VOL (h c : Nat) : FRef := ⟨(R.LVL_CMP h c), 0, 16⟩
/-- LVL_TERM (R301). -/
def R.LVL_TERM (h c : Nat) : Nat := 0x106018 + 0x10000 * h + 0x40 * c
def F.LVL_TERM.LS (h c : Nat) : FRef := ⟨(R.LVL_TERM h c), 26, 6⟩
def F.LVL_TERM.HYST (h c : Nat) : FRef := ⟨(R.LVL_TERM h c), 19, 2⟩
def F.LVL_TERM.IRANGE (h c : Nat) : FRef := ⟨(R.LVL_TERM h c), 18, 1⟩
def F.LVL_TERM.VRANGE (h c : Nat) : FRef := ⟨(R.LVL_TERM h c), 17, 1⟩
def F.LVL_TERM.CLEARED (h c : Nat) : FRef := ⟨(R.LVL_TERM h c), 16, 1⟩
def F.LVL_TERM.VT (h c : Nat) : FRef := ⟨(R.LVL_TERM h c), 0, 16⟩
/-- LVL_LOAD (R301). -/
def R.LVL_LOAD (h c : Nat) : Nat := 0x10601c + 0x10000 * h + 0x40 * c
def F.LVL_LOAD.IOH (h c : Nat) : FRef := ⟨(R.LVL_LOAD h c), 16, 16⟩
def F.LVL_LOAD.IOL (h c : Nat) : FRef := ⟨(R.LVL_LOAD h c), 0, 16⟩
/-- PP_RESULT (R301). -/
def R.PP_RESULT (h c : Nat) : Nat := 0x106020 + 0x10000 * h + 0x40 * c
def F.PP_RESULT.VALID (h c : Nat) : FRef := ⟨(R.PP_RESULT h c), 31, 1⟩
def F.PP_RESULT.OVR (h c : Nat) : FRef := ⟨(R.PP_RESULT h c), 30, 1⟩
def F.PP_RESULT.VOLT (h c : Nat) : FRef := ⟨(R.PP_RESULT h c), 0, 16⟩
/-- BLANK_CNT (R301). -/
def R.BLANK_CNT (h c : Nat) : Nat := 0x106024 + 0x10000 * h + 0x40 * c
def F.BLANK_CNT.SAT (h c : Nat) : FRef := ⟨(R.BLANK_CNT h c), 31, 1⟩
def F.BLANK_CNT.COUNT (h c : Nat) : FRef := ⟨(R.BLANK_CNT h c), 0, 31⟩
/-- SMU_CTL (R326). -/
def R.SMU_CTL (s : Nat) : Nat := 0x400000 + 0x40 * s
def F.SMU_CTL.EN (s : Nat) : FRef := ⟨(R.SMU_CTL s), 31, 1⟩
def F.SMU_CTL.MODE (s : Nat) : FRef := ⟨(R.SMU_CTL s), 30, 1⟩
def F.SMU_CTL.SPAN (s : Nat) : FRef := ⟨(R.SMU_CTL s), 27, 3⟩
def F.SMU_CTL.IRANGE (s : Nat) : FRef := ⟨(R.SMU_CTL s), 24, 3⟩
def F.SMU_CTL.SENSE (s : Nat) : FRef := ⟨(R.SMU_CTL s), 23, 1⟩
def F.SMU_CTL.TRIP_IN (s : Nat) : FRef := ⟨(R.SMU_CTL s), 22, 1⟩
def F.SMU_CTL.TRIP_COMPL (s : Nat) : FRef := ⟨(R.SMU_CTL s), 21, 1⟩
def F.SMU_CTL.COMPL_HALL_EN (s : Nat) : FRef := ⟨(R.SMU_CTL s), 20, 1⟩
def F.SMU_CTL.COMPL_HALL (s : Nat) : FRef := ⟨(R.SMU_CTL s), 15, 5⟩
def F.SMU_CTL.CLEAR_SEL (s : Nat) : FRef := ⟨(R.SMU_CTL s), 14, 1⟩
/-- SMU_STAT (R326). -/
def R.SMU_STAT (s : Nat) : Nat := 0x400004 + 0x40 * s
def F.SMU_STAT.TRIP_SRC (s : Nat) : FRef := ⟨(R.SMU_STAT s), 10, 2⟩
def F.SMU_STAT.SAFE (s : Nat) : FRef := ⟨(R.SMU_STAT s), 9, 1⟩
def F.SMU_STAT.CLEARED (s : Nat) : FRef := ⟨(R.SMU_STAT s), 8, 1⟩
def F.SMU_STAT.TRIPPED (s : Nat) : FRef := ⟨(R.SMU_STAT s), 7, 1⟩
def F.SMU_STAT.COMPL (s : Nat) : FRef := ⟨(R.SMU_STAT s), 6, 1⟩
def F.SMU_STAT.COMPL_SEEN (s : Nat) : FRef := ⟨(R.SMU_STAT s), 5, 1⟩
def F.SMU_STAT.RANGE_BUSY (s : Nat) : FRef := ⟨(R.SMU_STAT s), 4, 1⟩
def F.SMU_STAT.DDS_RUN (s : Nat) : FRef := ⟨(R.SMU_STAT s), 3, 1⟩
def F.SMU_STAT.DDS_CLIP (s : Nat) : FRef := ⟨(R.SMU_STAT s), 2, 1⟩
def F.SMU_STAT.SMU_BUSY (s : Nat) : FRef := ⟨(R.SMU_STAT s), 1, 1⟩
def F.SMU_STAT.CFG_ERR (s : Nat) : FRef := ⟨(R.SMU_STAT s), 0, 1⟩
/-- SMU_FORCE (R326). -/
def R.SMU_FORCE (s : Nat) : Nat := 0x400008 + 0x40 * s
def F.SMU_FORCE.CODE (s : Nat) : FRef := ⟨(R.SMU_FORCE s), 0, 18⟩
/-- SMU_ICLAMP (R326). -/
def R.SMU_ICLAMP (s : Nat) : Nat := 0x40000c + 0x40 * s
def F.SMU_ICLAMP.ICLAMP (s : Nat) : FRef := ⟨(R.SMU_ICLAMP s), 0, 16⟩
/-- SMU_VCLAMP (R326). -/
def R.SMU_VCLAMP (s : Nat) : Nat := 0x400010 + 0x40 * s
def F.SMU_VCLAMP.VCL_HI (s : Nat) : FRef := ⟨(R.SMU_VCLAMP s), 16, 16⟩
def F.SMU_VCLAMP.VCL_LO (s : Nat) : FRef := ⟨(R.SMU_VCLAMP s), 0, 16⟩
/-- SMU_CLEAR (R326). -/
def R.SMU_CLEAR (s : Nat) : Nat := 0x400014 + 0x40 * s
def F.SMU_CLEAR.CODE (s : Nat) : FRef := ⟨(R.SMU_CLEAR s), 0, 18⟩
/-- DDS_FTW (R326). -/
def R.DDS_FTW (s : Nat) : Nat := 0x400018 + 0x40 * s
def F.DDS_FTW.VALUE (s : Nat) : FRef := ⟨(R.DDS_FTW s), 0, 32⟩
/-- DDS_AMPL (R326). -/
def R.DDS_AMPL (s : Nat) : Nat := 0x40001c + 0x40 * s
def F.DDS_AMPL.AMPL (s : Nat) : FRef := ⟨(R.DDS_AMPL s), 0, 17⟩
/-- DDS_PHASE (R326). -/
def R.DDS_PHASE (s : Nat) : Nat := 0x400020 + 0x40 * s
def F.DDS_PHASE.VALUE (s : Nat) : FRef := ⟨(R.DDS_PHASE s), 0, 32⟩
/-- MEAS_LAST (R326). -/
def R.MEAS_LAST (s : Nat) : Nat := 0x400024 + 0x40 * s
def F.MEAS_LAST.CODE (s : Nat) : FRef := ⟨(R.MEAS_LAST s), 0, 32⟩
/-- GRP_STAT (R326). -/
def R.GRP_STAT (g : Nat) : Nat := 0x402000 + 0x20 * g
def F.GRP_STAT.FENCE (g : Nat) : FRef := ⟨(R.GRP_STAT g), 31, 1⟩
def F.GRP_STAT.CLAIMED (g : Nat) : FRef := ⟨(R.GRP_STAT g), 30, 1⟩
def F.GRP_STAT.CLAIM_HALL (g : Nat) : FRef := ⟨(R.GRP_STAT g), 25, 5⟩
def F.GRP_STAT.CLAIM_BANK (g : Nat) : FRef := ⟨(R.GRP_STAT g), 23, 2⟩
def F.GRP_STAT.QDEPTH (g : Nat) : FRef := ⟨(R.GRP_STAT g), 17, 6⟩
def F.GRP_STAT.ADC_BUSY (g : Nat) : FRef := ⟨(R.GRP_STAT g), 16, 1⟩
def F.GRP_STAT.QOVF (g : Nat) : FRef := ⟨(R.GRP_STAT g), 15, 1⟩
def F.GRP_STAT.CLAIM_ERR (g : Nat) : FRef := ⟨(R.GRP_STAT g), 14, 1⟩
def F.GRP_STAT.PDISS_TRIP (g : Nat) : FRef := ⟨(R.GRP_STAT g), 13, 1⟩
def F.GRP_STAT.MSET_BUSY (g : Nat) : FRef := ⟨(R.GRP_STAT g), 12, 1⟩
/-- GRP_PDISS (R326). -/
def R.GRP_PDISS (g : Nat) : Nat := 0x402004 + 0x20 * g
def F.GRP_PDISS.MW (g : Nat) : FRef := ⟨(R.GRP_PDISS g), 0, 16⟩
/-- QDROP_CNT (R326). -/
def R.QDROP_CNT (g : Nat) : Nat := 0x402008 + 0x20 * g
def F.QDROP_CNT.SAT (g : Nat) : FRef := ⟨(R.QDROP_CNT g), 31, 1⟩
def F.QDROP_CNT.COUNT (g : Nat) : FRef := ⟨(R.QDROP_CNT g), 0, 31⟩
/-- DDS_START (R326). -/
def R.DDS_START (g : Nat) : Nat := 0x40200c + 0x20 * g
def F.DDS_START.STOP (g : Nat) : FRef := ⟨(R.DDS_START g), 4, 4⟩
def F.DDS_START.START (g : Nat) : FRef := ⟨(R.DDS_START g), 0, 4⟩
/-- MSET_CFG (R326). -/
def R.MSET_CFG (g m : Nat) : Nat := 0x404000 + 0x100 * g + 0x10 * m
def F.MSET_CFG.VALID (g m : Nat) : FRef := ⟨(R.MSET_CFG g m), 31, 1⟩
def F.MSET_CFG.WHAT (g m : Nat) : FRef := ⟨(R.MSET_CFG g m), 30, 1⟩
def F.MSET_CFG.APPLY (g m : Nat) : FRef := ⟨(R.MSET_CFG g m), 29, 1⟩
def F.MSET_CFG.MODE (g m : Nat) : FRef := ⟨(R.MSET_CFG g m), 28, 1⟩
def F.MSET_CFG.IRANGE (g m : Nat) : FRef := ⟨(R.MSET_CFG g m), 25, 3⟩
def F.MSET_CFG.DDS (g m : Nat) : FRef := ⟨(R.MSET_CFG g m), 23, 2⟩
def F.MSET_CFG.NAVG (g m : Nat) : FRef := ⟨(R.MSET_CFG g m), 19, 4⟩
def F.MSET_CFG.DELAY (g m : Nat) : FRef := ⟨(R.MSET_CFG g m), 0, 16⟩
/-- MSET_FORCE (R326). -/
def R.MSET_FORCE (g m : Nat) : Nat := 0x404004 + 0x100 * g + 0x10 * m
def F.MSET_FORCE.CODE (g m : Nat) : FRef := ⟨(R.MSET_FORCE g m), 0, 18⟩
/-- MSET_LO (R326). -/
def R.MSET_LO (g m : Nat) : Nat := 0x404008 + 0x100 * g + 0x10 * m
def F.MSET_LO.LIMIT (g m : Nat) : FRef := ⟨(R.MSET_LO g m), 0, 32⟩
/-- MSET_HI (R326). -/
def R.MSET_HI (g m : Nat) : Nat := 0x40400c + 0x100 * g + 0x10 * m
def F.MSET_HI.LIMIT (g m : Nat) : FRef := ⟨(R.MSET_HI g m), 0, 32⟩
/-- TDC_HALL_STAT (R345). -/
def R.TDC_HALL_STAT (h : Nat) : Nat := 0x100440 + 0x10000 * h
def F.TDC_HALL_STAT.TDCQ (h : Nat) : FRef := ⟨(R.TDC_HALL_STAT h), 28, 4⟩
def F.TDC_HALL_STAT.REG_RUN (h : Nat) : FRef := ⟨(R.TDC_HALL_STAT h), 27, 1⟩
def F.TDC_HALL_STAT.REG_DONE (h : Nat) : FRef := ⟨(R.TDC_HALL_STAT h), 26, 1⟩
def F.TDC_HALL_STAT.NOREF (h : Nat) : FRef := ⟨(R.TDC_HALL_STAT h), 25, 1⟩
def F.TDC_HALL_STAT.ABORTED (h : Nat) : FRef := ⟨(R.TDC_HALL_STAT h), 24, 1⟩
def F.TDC_HALL_STAT.REFUSED (h : Nat) : FRef := ⟨(R.TDC_HALL_STAT h), 23, 1⟩
def F.TDC_HALL_STAT.TDC_BUSY (h : Nat) : FRef := ⟨(R.TDC_HALL_STAT h), 22, 1⟩
def F.TDC_HALL_STAT.CFG_ERR (h : Nat) : FRef := ⟨(R.TDC_HALL_STAT h), 21, 1⟩
def F.TDC_HALL_STAT.LAST_SET (h : Nat) : FRef := ⟨(R.TDC_HALL_STAT h), 0, 6⟩
/-- TDC_HOST (R345). -/
def R.TDC_HOST (h : Nat) : Nat := 0x100444 + 0x10000 * h
def F.TDC_HOST.GO (h : Nat) : FRef := ⟨(R.TDC_HOST h), 31, 1⟩
def F.TDC_HOST.ABORT (h : Nat) : FRef := ⟨(R.TDC_HOST h), 30, 1⟩
def F.TDC_HOST.MSET (h : Nat) : FRef := ⟨(R.TDC_HOST h), 0, 6⟩
/-- REG_FREQ_LO (R345). -/
def R.REG_FREQ_LO (h : Nat) : Nat := 0x100448 + 0x10000 * h
def F.REG_FREQ_LO.FREQ (h : Nat) : FRef := ⟨(R.REG_FREQ_LO h), 0, 32⟩
/-- REG_FREQ_HI (R345). -/
def R.REG_FREQ_HI (h : Nat) : Nat := 0x10044c + 0x10000 * h
def F.REG_FREQ_HI.FREQ_HI (h : Nat) : FRef := ⟨(R.REG_FREQ_HI h), 0, 32⟩
/-- REG_K (R345). -/
def R.REG_K (h : Nat) : Nat := 0x100450 + 0x10000 * h
def F.REG_K.K (h : Nat) : FRef := ⟨(R.REG_K h), 0, 25⟩
/-- TDCQ_CFG (R345). -/
def R.TDCQ_CFG (h k : Nat) : Nat := 0x100460 + 0x10000 * h + 0x20 * k
def F.TDCQ_CFG.EN (h k : Nat) : FRef := ⟨(R.TDCQ_CFG h k), 31, 1⟩
def F.TDCQ_CFG.QTY (h k : Nat) : FRef := ⟨(R.TDCQ_CFG h k), 28, 3⟩
def F.TDCQ_CFG.MODE (h k : Nat) : FRef := ⟨(R.TDCQ_CFG h k), 26, 2⟩
def F.TDCQ_CFG.SLOT (h k : Nat) : FRef := ⟨(R.TDCQ_CFG h k), 21, 5⟩
/-- TDCQ_LO_LO (R345). -/
def R.TDCQ_LO_LO (h k : Nat) : Nat := 0x100464 + 0x10000 * h + 0x20 * k
def F.TDCQ_LO_LO.LIMIT (h k : Nat) : FRef := ⟨(R.TDCQ_LO_LO h k), 0, 32⟩
/-- TDCQ_LO_HI (R345). -/
def R.TDCQ_LO_HI (h k : Nat) : Nat := 0x100468 + 0x10000 * h + 0x20 * k
def F.TDCQ_LO_HI.LIMIT (h k : Nat) : FRef := ⟨(R.TDCQ_LO_HI h k), 0, 32⟩
/-- TDCQ_HI_LO (R345). -/
def R.TDCQ_HI_LO (h k : Nat) : Nat := 0x10046c + 0x10000 * h + 0x20 * k
def F.TDCQ_HI_LO.LIMIT (h k : Nat) : FRef := ⟨(R.TDCQ_HI_LO h k), 0, 32⟩
/-- TDCQ_HI_HI (R345). -/
def R.TDCQ_HI_HI (h k : Nat) : Nat := 0x100470 + 0x10000 * h + 0x20 * k
def F.TDCQ_HI_HI.LIMIT (h k : Nat) : FRef := ⟨(R.TDCQ_HI_HI h k), 0, 32⟩
/-- TDC_SET_A (R345). -/
def R.TDC_SET_A (h m : Nat) : Nat := 0x107000 + 0x10000 * h + 0x10 * m
def F.TDC_SET_A.VALID (h m : Nat) : FRef := ⟨(R.TDC_SET_A h m), 31, 1⟩
def F.TDC_SET_A.KIND (h m : Nat) : FRef := ⟨(R.TDC_SET_A h m), 30, 1⟩
def F.TDC_SET_A.START_SRC (h m : Nat) : FRef := ⟨(R.TDC_SET_A h m), 28, 2⟩
def F.TDC_SET_A.START_SLOT (h m : Nat) : FRef := ⟨(R.TDC_SET_A h m), 23, 5⟩
def F.TDC_SET_A.START_EDGE (h m : Nat) : FRef := ⟨(R.TDC_SET_A h m), 21, 2⟩
def F.TDC_SET_A.STOP_EDGE (h m : Nat) : FRef := ⟨(R.TDC_SET_A h m), 19, 2⟩
def F.TDC_SET_A.STOP_SRC (h m : Nat) : FRef := ⟨(R.TDC_SET_A h m), 18, 1⟩
def F.TDC_SET_A.NSTOP (h m : Nat) : FRef := ⟨(R.TDC_SET_A h m), 15, 3⟩
def F.TDC_SET_A.STAT_IDX (h m : Nat) : FRef := ⟨(R.TDC_SET_A h m), 12, 3⟩
def F.TDC_SET_A.STAT_MODE (h m : Nat) : FRef := ⟨(R.TDC_SET_A h m), 11, 1⟩
def F.TDC_SET_A.QCLR (h m : Nat) : FRef := ⟨(R.TDC_SET_A h m), 7, 4⟩
/-- TDC_SET_B (R345). -/
def R.TDC_SET_B (h m : Nat) : Nat := 0x107004 + 0x10000 * h + 0x10 * m
def F.TDC_SET_B.STOPMASK (h m : Nat) : FRef := ⟨(R.TDC_SET_B h m), 0, 32⟩
/-- TDC_SET_C (R345). -/
def R.TDC_SET_C (h m : Nat) : Nat := 0x107008 + 0x10000 * h + 0x10 * m
def F.TDC_SET_C.COUNT (h m : Nat) : FRef := ⟨(R.TDC_SET_C h m), 0, 24⟩
/-- TDC_SET_D (R345). -/
def R.TDC_SET_D (h m : Nat) : Nat := 0x10700c + 0x10000 * h + 0x10 * m
def F.TDC_SET_D.PERIOD (h m : Nat) : FRef := ⟨(R.TDC_SET_D h m), 0, 24⟩
/-- TDC_STAT (R345). -/
def R.TDC_STAT (h c : Nat) : Nat := 0x107800 + 0x10000 * h + 0x10 * c
def F.TDC_STAT.RUN (h c : Nat) : FRef := ⟨(R.TDC_STAT h c), 31, 1⟩
def F.TDC_STAT.DONE (h c : Nat) : FRef := ⟨(R.TDC_STAT h c), 30, 1⟩
def F.TDC_STAT.ABORTED (h c : Nat) : FRef := ⟨(R.TDC_STAT h c), 29, 1⟩
def F.TDC_STAT.NOREF (h c : Nat) : FRef := ⟨(R.TDC_STAT h c), 28, 1⟩
def F.TDC_STAT.SQ_SAT (h c : Nat) : FRef := ⟨(R.TDC_STAT h c), 27, 1⟩
def F.TDC_STAT.SET (h c : Nat) : FRef := ⟨(R.TDC_STAT h c), 0, 6⟩
/-- TDC_N (R345). -/
def R.TDC_N (h c : Nat) : Nat := 0x107804 + 0x10000 * h + 0x10 * c
def F.TDC_N.N (h c : Nat) : FRef := ⟨(R.TDC_N h c), 0, 25⟩
/-- TDC_TMO (R345). -/
def R.TDC_TMO (h c : Nat) : Nat := 0x107808 + 0x10000 * h + 0x10 * c
def F.TDC_TMO.SAT (h c : Nat) : FRef := ⟨(R.TDC_TMO h c), 31, 1⟩
def F.TDC_TMO.COUNT (h c : Nat) : FRef := ⟨(R.TDC_TMO h c), 0, 31⟩
/-- TDC_SKIP (R345). -/
def R.TDC_SKIP (h c : Nat) : Nat := 0x10780c + 0x10000 * h + 0x10 * c
def F.TDC_SKIP.SAT (h c : Nat) : FRef := ⟨(R.TDC_SKIP h c), 31, 1⟩
def F.TDC_SKIP.COUNT (h c : Nat) : FRef := ⟨(R.TDC_SKIP h c), 0, 31⟩
/-- ACQ_CTL (R363). -/
def R.ACQ_CTL (d : Nat) : Nat := 0x480000 + 0x100 * d
def F.ACQ_CTL.ABORT (d : Nat) : FRef := ⟨(R.ACQ_CTL d), 1, 1⟩
def F.ACQ_CTL.FORCE (d : Nat) : FRef := ⟨(R.ACQ_CTL d), 0, 1⟩
/-- ACQ_STAT (R363). -/
def R.ACQ_STAT (d : Nat) : Nat := 0x480004 + 0x100 * d
def F.ACQ_STAT.STATE (d : Nat) : FRef := ⟨(R.ACQ_STAT d), 29, 3⟩
def F.ACQ_STAT.DEC (d : Nat) : FRef := ⟨(R.ACQ_STAT d), 26, 3⟩
def F.ACQ_STAT.FENCE (d : Nat) : FRef := ⟨(R.ACQ_STAT d), 25, 1⟩
def F.ACQ_STAT.SAFE (d : Nat) : FRef := ⟨(R.ACQ_STAT d), 24, 1⟩
def F.ACQ_STAT.DECIM (d : Nat) : FRef := ⟨(R.ACQ_STAT d), 4, 1⟩
def F.ACQ_STAT.OVERRUN (d : Nat) : FRef := ⟨(R.ACQ_STAT d), 3, 1⟩
def F.ACQ_STAT.EARLY (d : Nat) : FRef := ⟨(R.ACQ_STAT d), 2, 1⟩
def F.ACQ_STAT.NOREF (d : Nat) : FRef := ⟨(R.ACQ_STAT d), 1, 1⟩
def F.ACQ_STAT.CLIP (d : Nat) : FRef := ⟨(R.ACQ_STAT d), 0, 1⟩
/-- ACQ_CFG (R363). -/
def R.ACQ_CFG (d : Nat) : Nat := 0x480008 + 0x100 * d
def F.ACQ_CFG.CFG (d : Nat) : FRef := ⟨(R.ACQ_CFG d), 0, 32⟩
/-- ACQ_IDX (R363). -/
def R.ACQ_IDX (d : Nat) : Nat := 0x48000c + 0x100 * d
def F.ACQ_IDX.IDX (d : Nat) : FRef := ⟨(R.ACQ_IDX d), 0, 32⟩
/-- ACQ_DROP (R363). -/
def R.ACQ_DROP (d : Nat) : Nat := 0x480010 + 0x100 * d
def F.ACQ_DROP.SAT (d : Nat) : FRef := ⟨(R.ACQ_DROP d), 31, 1⟩
def F.ACQ_DROP.COUNT (d : Nat) : FRef := ⟨(R.ACQ_DROP d), 0, 31⟩
/-- HSE_SLOT_A (R386). -/
def R.HSE_SLOT_A (h n : Nat) : Nat := 0x500000 + 0x2000 * h + 0x10 * n
def F.HSE_SLOT_A.VALID (h n : Nat) : FRef := ⟨(R.HSE_SLOT_A h n), 31, 1⟩
def F.HSE_SLOT_A.MODE (h n : Nat) : FRef := ⟨(R.HSE_SLOT_A h n), 30, 1⟩
def F.HSE_SLOT_A.DIR (h n : Nat) : FRef := ⟨(R.HSE_SLOT_A h n), 29, 1⟩
def F.HSE_SLOT_A.CHECK (h n : Nat) : FRef := ⟨(R.HSE_SLOT_A h n), 27, 2⟩
def F.HSE_SLOT_A.LMAP (h n : Nat) : FRef := ⟨(R.HSE_SLOT_A h n), 24, 3⟩
def F.HSE_SLOT_A.CMD_W (h n : Nat) : FRef := ⟨(R.HSE_SLOT_A h n), 22, 2⟩
def F.HSE_SLOT_A.ADDR_W (h n : Nat) : FRef := ⟨(R.HSE_SLOT_A h n), 20, 2⟩
def F.HSE_SLOT_A.DATA_W (h n : Nat) : FRef := ⟨(R.HSE_SLOT_A h n), 18, 2⟩
def F.HSE_SLOT_A.CMD_LEN (h n : Nat) : FRef := ⟨(R.HSE_SLOT_A h n), 13, 5⟩
def F.HSE_SLOT_A.ADDR_LEN (h n : Nat) : FRef := ⟨(R.HSE_SLOT_A h n), 7, 6⟩
/-- HSE_SLOT_B (R386). -/
def R.HSE_SLOT_B (h n : Nat) : Nat := 0x500004 + 0x2000 * h + 0x10 * n
def F.HSE_SLOT_B.CMD (h n : Nat) : FRef := ⟨(R.HSE_SLOT_B h n), 16, 16⟩
def F.HSE_SLOT_B.DUMMY (h n : Nat) : FRef := ⟨(R.HSE_SLOT_B h n), 8, 8⟩
/-- HSE_SLOT_C (R386). -/
def R.HSE_SLOT_C (h n : Nat) : Nat := 0x500008 + 0x2000 * h + 0x10 * n
def F.HSE_SLOT_C.ADDR (h n : Nat) : FRef := ⟨(R.HSE_SLOT_C h n), 0, 32⟩
/-- HSE_SLOT_D (R386). -/
def R.HSE_SLOT_D (h n : Nat) : Nat := 0x50000c + 0x2000 * h + 0x10 * n
def F.HSE_SLOT_D.LEN (h n : Nat) : FRef := ⟨(R.HSE_SLOT_D h n), 16, 16⟩
def F.HSE_SLOT_D.OUT_OFF (h n : Nat) : FRef := ⟨(R.HSE_SLOT_D h n), 8, 8⟩
def F.HSE_SLOT_D.IN_OFF (h n : Nat) : FRef := ⟨(R.HSE_SLOT_D h n), 0, 8⟩
/-- HSE_CTL (R386). -/
def R.HSE_CTL (h : Nat) : Nat := 0x501000 + 0x2000 * h
def F.HSE_CTL.ABORT (h : Nat) : FRef := ⟨(R.HSE_CTL h), 31, 1⟩
def F.HSE_CTL.RX_DLY (h : Nat) : FRef := ⟨(R.HSE_CTL h), 8, 5⟩
def F.HSE_CTL.DIV (h : Nat) : FRef := ⟨(R.HSE_CTL h), 0, 8⟩
/-- HSE_STAT (R386). -/
def R.HSE_STAT (h : Nat) : Nat := 0x501004 + 0x2000 * h
def F.HSE_STAT.BUSY (h : Nat) : FRef := ⟨(R.HSE_STAT h), 31, 1⟩
def F.HSE_STAT.QDEPTH (h : Nat) : FRef := ⟨(R.HSE_STAT h), 24, 7⟩
def F.HSE_STAT.ABORTED (h : Nat) : FRef := ⟨(R.HSE_STAT h), 5, 1⟩
def F.HSE_STAT.LANE_LOST (h : Nat) : FRef := ⟨(R.HSE_STAT h), 4, 1⟩
def F.HSE_STAT.QOVF (h : Nat) : FRef := ⟨(R.HSE_STAT h), 3, 1⟩
def F.HSE_STAT.WPROT (h : Nat) : FRef := ⟨(R.HSE_STAT h), 2, 1⟩
def F.HSE_STAT.CFG_BUSY (h : Nat) : FRef := ⟨(R.HSE_STAT h), 1, 1⟩
def F.HSE_STAT.CFG_ERR (h : Nat) : FRef := ⟨(R.HSE_STAT h), 0, 1⟩
/-- HSE_LAST (R386). -/
def R.HSE_LAST (h : Nat) : Nat := 0x501008 + 0x2000 * h
def F.HSE_LAST.SLOT (h : Nat) : FRef := ⟨(R.HSE_LAST h), 24, 8⟩
def F.HSE_LAST.ALCOVE (h : Nat) : FRef := ⟨(R.HSE_LAST h), 12, 12⟩
def F.HSE_LAST.FLAGS (h : Nat) : FRef := ⟨(R.HSE_LAST h), 0, 5⟩
/-- HSE_CRC (R386). -/
def R.HSE_CRC (h : Nat) : Nat := 0x50100c + 0x2000 * h
def F.HSE_CRC.CRC (h : Nat) : FRef := ⟨(R.HSE_CRC h), 0, 32⟩
/-- HSE_QDROP (R386). -/
def R.HSE_QDROP (h : Nat) : Nat := 0x501010 + 0x2000 * h
def F.HSE_QDROP.SAT (h : Nat) : FRef := ⟨(R.HSE_QDROP h), 31, 1⟩
def F.HSE_QDROP.COUNT (h : Nat) : FRef := ⟨(R.HSE_QDROP h), 0, 31⟩
/-- LMAP_A (R386). -/
def R.LMAP_A (h m : Nat) : Nat := 0x501020 + 0x2000 * h + 0x8 * m
def F.LMAP_A.REL (h m : Nat) : FRef := ⟨(R.LMAP_A h m), 31, 1⟩
def F.LMAP_A.CPOL (h m : Nat) : FRef := ⟨(R.LMAP_A h m), 30, 1⟩
def F.LMAP_A.CLK (h m : Nat) : FRef := ⟨(R.LMAP_A h m), 25, 5⟩
def F.LMAP_A.D0 (h m : Nat) : FRef := ⟨(R.LMAP_A h m), 20, 5⟩
def F.LMAP_A.D1 (h m : Nat) : FRef := ⟨(R.LMAP_A h m), 15, 5⟩
def F.LMAP_A.D2 (h m : Nat) : FRef := ⟨(R.LMAP_A h m), 10, 5⟩
def F.LMAP_A.D3 (h m : Nat) : FRef := ⟨(R.LMAP_A h m), 5, 5⟩
def F.LMAP_A.D4 (h m : Nat) : FRef := ⟨(R.LMAP_A h m), 0, 5⟩
/-- LMAP_B (R386). -/
def R.LMAP_B (h m : Nat) : Nat := 0x501024 + 0x2000 * h + 0x8 * m
def F.LMAP_B.D5 (h m : Nat) : FRef := ⟨(R.LMAP_B h m), 10, 5⟩
def F.LMAP_B.D6 (h m : Nat) : FRef := ⟨(R.LMAP_B h m), 5, 5⟩
def F.LMAP_B.D7 (h m : Nat) : FRef := ⟨(R.LMAP_B h m), 0, 5⟩
/-- MSPI_WIN (R386). -/
def R.MSPI_WIN : Nat := 0x570000
def F.MSPI_WIN.WIN : FRef := ⟨R.MSPI_WIN, 0, 18⟩
/-- MSPI_STAT (R386). -/
def R.MSPI_STAT : Nat := 0x570004
def F.MSPI_STAT.DENIED : FRef := ⟨R.MSPI_STAT, 19, 1⟩
def F.MSPI_STAT.UNDERRUN : FRef := ⟨R.MSPI_STAT, 18, 1⟩
def F.MSPI_STAT.ADDR_OVF : FRef := ⟨R.MSPI_STAT, 17, 1⟩
def F.MSPI_STAT.SAT : FRef := ⟨R.MSPI_STAT, 16, 1⟩
def F.MSPI_STAT.PARTIAL : FRef := ⟨R.MSPI_STAT, 0, 16⟩
/-- MSPI_ID (R386). -/
def R.MSPI_ID : Nat := 0x570008
def F.MSPI_ID.ID : FRef := ⟨R.MSPI_ID, 0, 32⟩
/-- BSPI_CTL (R386). -/
def R.BSPI_CTL : Nat := 0x571000
def F.BSPI_CTL.GO : FRef := ⟨R.BSPI_CTL, 31, 1⟩
def F.BSPI_CTL.DIR : FRef := ⟨R.BSPI_CTL, 30, 1⟩
def F.BSPI_CTL.ADDR_EN : FRef := ⟨R.BSPI_CTL, 29, 1⟩
def F.BSPI_CTL.DUMMY : FRef := ⟨R.BSPI_CTL, 25, 4⟩
def F.BSPI_CTL.CMD : FRef := ⟨R.BSPI_CTL, 17, 8⟩
def F.BSPI_CTL.LEN : FRef := ⟨R.BSPI_CTL, 0, 9⟩
/-- BSPI_ADDR (R386). -/
def R.BSPI_ADDR : Nat := 0x571004
def F.BSPI_ADDR.ADDR : FRef := ⟨R.BSPI_ADDR, 0, 24⟩
/-- BSPI_STAT (R386). -/
def R.BSPI_STAT : Nat := 0x571008
def F.BSPI_STAT.REFUSED : FRef := ⟨R.BSPI_STAT, 1, 1⟩
def F.BSPI_STAT.BUSY : FRef := ⟨R.BSPI_STAT, 0, 1⟩
/-- BSPI_BUF (R386). -/
def R.BSPI_BUF (k : Nat) : Nat := 0x571100 + 0x4 * k
def F.BSPI_BUF.DATA (k : Nat) : FRef := ⟨(R.BSPI_BUF k), 0, 32⟩
/-- RS_STAT (R405). -/
def R.RS_STAT : Nat := 0x880000
def F.RS_STAT.STATE : FRef := ⟨R.RS_STAT, 30, 2⟩
def F.RS_STAT.FENCE : FRef := ⟨R.RS_STAT, 29, 1⟩
def F.RS_STAT.PENDING : FRef := ⟨R.RS_STAT, 28, 1⟩
def F.RS_STAT.VALID : FRef := ⟨R.RS_STAT, 24, 4⟩
def F.RS_STAT.UNDERRUN : FRef := ⟨R.RS_STAT, 6, 1⟩
def F.RS_STAT.LAYER_STALE : FRef := ⟨R.RS_STAT, 5, 1⟩
def F.RS_STAT.LATE_COMMIT : FRef := ⟨R.RS_STAT, 4, 1⟩
def F.RS_STAT.LANE_LOST : FRef := ⟨R.RS_STAT, 3, 1⟩
def F.RS_STAT.GAP : FRef := ⟨R.RS_STAT, 2, 1⟩
def F.RS_STAT.CFG_BUSY : FRef := ⟨R.RS_STAT, 1, 1⟩
def F.RS_STAT.CFG_ERR : FRef := ⟨R.RS_STAT, 0, 1⟩
/-- RS_FRAME (R405). -/
def R.RS_FRAME : Nat := 0x880004
def F.RS_FRAME.FRAME : FRef := ⟨R.RS_FRAME, 0, 32⟩
/-- RS_POS (R405). -/
def R.RS_POS : Nat := 0x880008
def F.RS_POS.LINE : FRef := ⟨R.RS_POS, 16, 16⟩
def F.RS_POS.PIXEL : FRef := ⟨R.RS_POS, 0, 16⟩
/-- RS_UNDER_CNT (R405). -/
def R.RS_UNDER_CNT : Nat := 0x88000c
def F.RS_UNDER_CNT.SAT : FRef := ⟨R.RS_UNDER_CNT, 31, 1⟩
def F.RS_UNDER_CNT.COUNT : FRef := ⟨R.RS_UNDER_CNT, 0, 31⟩
/-- RS_RSEQ (R405). -/
def R.RS_RSEQ (l : Nat) : Nat := 0x880010 + 0x4 * l
def F.RS_RSEQ.RSEQ (l : Nat) : FRef := ⟨(R.RS_RSEQ l), 0, 32⟩
/-- RS_LANE (R405). -/
def R.RS_LANE (k : Nat) : Nat := 0x880100 + 0x4 * k
def F.RS_LANE.EN (k : Nat) : FRef := ⟨(R.RS_LANE k), 31, 1⟩
def F.RS_LANE.POL (k : Nat) : FRef := ⟨(R.RS_LANE k), 30, 1⟩
def F.RS_LANE.IDLE (k : Nat) : FRef := ⟨(R.RS_LANE k), 28, 2⟩
def F.RS_LANE.HALL (k : Nat) : FRef := ⟨(R.RS_LANE k), 10, 5⟩
def F.RS_LANE.SLOT (k : Nat) : FRef := ⟨(R.RS_LANE k), 0, 5⟩
/-- EV_CFG (R423). -/
def R.EV_CFG (e : Nat) : Nat := 0x580000 + 0x80 * e
def F.EV_CFG.EN (e : Nat) : FRef := ⟨(R.EV_CFG e), 31, 1⟩
def F.EV_CFG.SECURE (e : Nat) : FRef := ⟨(R.EV_CFG e), 30, 1⟩
def F.EV_CFG.OWNER (e : Nat) : FRef := ⟨(R.EV_CFG e), 27, 3⟩
def F.EV_CFG.IRQ_EN (e : Nat) : FRef := ⟨(R.EV_CFG e), 26, 1⟩
def F.EV_CFG.VEC (e : Nat) : FRef := ⟨(R.EV_CFG e), 19, 7⟩
/-- EV_STAT (R423). -/
def R.EV_STAT (e : Nat) : Nat := 0x580004 + 0x80 * e
def F.EV_STAT.PCOIN (e : Nat) : FRef := ⟨(R.EV_STAT e), 1, 1⟩
def F.EV_STAT.FLAG (e : Nat) : FRef := ⟨(R.EV_STAT e), 0, 1⟩
/-- EV_CNT (R423). -/
def R.EV_CNT (e : Nat) : Nat := 0x580008 + 0x80 * e
def F.EV_CNT.SAT (e : Nat) : FRef := ⟨(R.EV_CNT e), 31, 1⟩
def F.EV_CNT.COUNT (e : Nat) : FRef := ⟨(R.EV_CNT e), 0, 31⟩
/-- EV_HALLS (R423). -/
def R.EV_HALLS (e : Nat) : Nat := 0x58000c + 0x80 * e
def F.EV_HALLS.MASK (e : Nat) : FRef := ⟨(R.EV_HALLS e), 0, 32⟩
/-- EV_PMASK (R423). -/
def R.EV_PMASK (e k : Nat) : Nat := 0x580010 + 0x80 * e + 0x4 * k
def F.EV_PMASK.MASK (e k : Nat) : FRef := ⟨(R.EV_PMASK e k), 0, 32⟩
/-- EV_CMASK (R423). -/
def R.EV_CMASK (e k : Nat) : Nat := 0x580030 + 0x80 * e + 0x4 * k
def F.EV_CMASK.MASK (e k : Nat) : FRef := ⟨(R.EV_CMASK e k), 0, 32⟩
/-- EV_SWSET (R423). -/
def R.EV_SWSET (w : Nat) : Nat := 0x582000 + 0x4 * w
def F.EV_SWSET.CH (w : Nat) : FRef := ⟨(R.EV_SWSET w), 0, 32⟩
/-- EV_FLAGS (R423). -/
def R.EV_FLAGS (w : Nat) : Nat := 0x582008 + 0x4 * w
def F.EV_FLAGS.CH (w : Nat) : FRef := ⟨(R.EV_FLAGS w), 0, 32⟩
/-- EV_LOOP (R423). -/
def R.EV_LOOP : Nat := 0x582010
def F.EV_LOOP.SAT : FRef := ⟨R.EV_LOOP, 31, 1⟩
def F.EV_LOOP.COUNT : FRef := ⟨R.EV_LOOP, 0, 31⟩
/-- EV_LOOP_LAST (R423). -/
def R.EV_LOOP_LAST : Nat := 0x582014
def F.EV_LOOP_LAST.VALUE : FRef := ⟨R.EV_LOOP_LAST, 0, 8⟩
/-- EV_TRIGOUT_W (R423). -/
def R.EV_TRIGOUT_W : Nat := 0x582018
def F.EV_TRIGOUT_W.VALUE : FRef := ⟨R.EV_TRIGOUT_W, 0, 8⟩
/-- EV_GSTAT (R423). -/
def R.EV_GSTAT : Nat := 0x58201c
def F.EV_GSTAT.TM_BUSY : FRef := ⟨R.EV_GSTAT, 3, 1⟩
def F.EV_GSTAT.NONOWNER : FRef := ⟨R.EV_GSTAT, 2, 1⟩
def F.EV_GSTAT.CFG_BUSY : FRef := ⟨R.EV_GSTAT, 1, 1⟩
def F.EV_GSTAT.CFG_ERR : FRef := ⟨R.EV_GSTAT, 0, 1⟩
/-- EV_OVR (R423). -/
def R.EV_OVR (k : Nat) : Nat := 0x582020 + 0x4 * k
def F.EV_OVR.CONS (k : Nat) : FRef := ⟨(R.EV_OVR k), 0, 32⟩
/-- EV_COIN (R423). -/
def R.EV_COIN (k : Nat) : Nat := 0x582040 + 0x4 * k
def F.EV_COIN.CONS (k : Nat) : FRef := ⟨(R.EV_COIN k), 0, 32⟩
/-- EV_REFRACT (R423). -/
def R.EV_REFRACT (j : Nat) : Nat := 0x582100 + 0x4 * j
def F.EV_REFRACT.WIN_3 (j : Nat) : FRef := ⟨(R.EV_REFRACT j), 24, 8⟩
def F.EV_REFRACT.WIN_2 (j : Nat) : FRef := ⟨(R.EV_REFRACT j), 16, 8⟩
def F.EV_REFRACT.WIN_1 (j : Nat) : FRef := ⟨(R.EV_REFRACT j), 8, 8⟩
def F.EV_REFRACT.WIN_0 (j : Nat) : FRef := ⟨(R.EV_REFRACT j), 0, 8⟩
/-- TM_CTL (R423). -/
def R.TM_CTL (k : Nat) : Nat := 0x583000 + 0x10 * k
def F.TM_CTL.GO (k : Nat) : FRef := ⟨(R.TM_CTL k), 31, 1⟩
def F.TM_CTL.STOP (k : Nat) : FRef := ⟨(R.TM_CTL k), 30, 1⟩
def F.TM_CTL.EN (k : Nat) : FRef := ⟨(R.TM_CTL k), 29, 1⟩
def F.TM_CTL.MODE (k : Nat) : FRef := ⟨(R.TM_CTL k), 28, 1⟩
def F.TM_CTL.RETRIG (k : Nat) : FRef := ⟨(R.TM_CTL k), 27, 1⟩
def F.TM_CTL.RUN (k : Nat) : FRef := ⟨(R.TM_CTL k), 26, 1⟩
def F.TM_CTL.OUT (k : Nat) : FRef := ⟨(R.TM_CTL k), 25, 1⟩
/-- TM_DELAY (R423). -/
def R.TM_DELAY (k : Nat) : Nat := 0x583004 + 0x10 * k
def F.TM_DELAY.CYCLES (k : Nat) : FRef := ⟨(R.TM_DELAY k), 0, 24⟩
/-- TM_WIDTH (R423). -/
def R.TM_WIDTH (k : Nat) : Nat := 0x583008 + 0x10 * k
def F.TM_WIDTH.CYCLES (k : Nat) : FRef := ⟨(R.TM_WIDTH k), 0, 24⟩
/-- TM_PERIOD (R423). -/
def R.TM_PERIOD (k : Nat) : Nat := 0x58300c + 0x10 * k
def F.TM_PERIOD.CYCLES (k : Nat) : FRef := ⟨(R.TM_PERIOD k), 0, 24⟩
/-- EVD_SWSET (R423). -/
def R.EVD_SWSET (d w : Nat) : Nat := 0x10800 + 0x1000 * d + 0x4 * w
def F.EVD_SWSET.CH (d w : Nat) : FRef := ⟨(R.EVD_SWSET d w), 0, 32⟩
/-- EVD_FLAG (R423). -/
def R.EVD_FLAG (d w : Nat) : Nat := 0x10808 + 0x1000 * d + 0x4 * w
def F.EVD_FLAG.CH (d w : Nat) : FRef := ⟨(R.EVD_FLAG d w), 0, 32⟩
/-- GAL_CFG (R447). -/
def R.GAL_CFG : Nat := 0x600000
def F.GAL_CFG.ARRAY_ID : FRef := ⟨R.GAL_CFG, 16, 16⟩
def F.GAL_CFG.ROLE : FRef := ⟨R.GAL_CFG, 15, 1⟩
def F.GAL_CFG.VEC : FRef := ⟨R.GAL_CFG, 8, 7⟩
def F.GAL_CFG.FEC1 : FRef := ⟨R.GAL_CFG, 3, 1⟩
def F.GAL_CFG.FEC0 : FRef := ⟨R.GAL_CFG, 2, 1⟩
def F.GAL_CFG.AN1 : FRef := ⟨R.GAL_CFG, 1, 1⟩
def F.GAL_CFG.AN0 : FRef := ⟨R.GAL_CFG, 0, 1⟩
/-- GAL_STAT (R447). -/
def R.GAL_STAT : Nat := 0x600004
def F.GAL_STAT.CFG_ERR : FRef := ⟨R.GAL_STAT, 13, 1⟩
def F.GAL_STAT.CFG_BUSY : FRef := ⟨R.GAL_STAT, 12, 1⟩
def F.GAL_STAT.ADMIT_ERR : FRef := ⟨R.GAL_STAT, 11, 1⟩
def F.GAL_STAT.JOIN_ERR : FRef := ⟨R.GAL_STAT, 10, 1⟩
def F.GAL_STAT.RESUME_LATE : FRef := ⟨R.GAL_STAT, 9, 1⟩
def F.GAL_STAT.DRIVE_LATE : FRef := ⟨R.GAL_STAT, 8, 1⟩
def F.GAL_STAT.UNJOINED_SYNC : FRef := ⟨R.GAL_STAT, 7, 1⟩
def F.GAL_STAT.NEWEL_CONFLICT : FRef := ⟨R.GAL_STAT, 6, 1⟩
def F.GAL_STAT.TABLE_FULL : FRef := ⟨R.GAL_STAT, 5, 1⟩
def F.GAL_STAT.QUIESCED : FRef := ⟨R.GAL_STAT, 4, 1⟩
def F.GAL_STAT.JOINED : FRef := ⟨R.GAL_STAT, 3, 1⟩
def F.GAL_STAT.ACTIVE : FRef := ⟨R.GAL_STAT, 2, 1⟩
def F.GAL_STAT.LINK1 : FRef := ⟨R.GAL_STAT, 1, 1⟩
def F.GAL_STAT.LINK0 : FRef := ⟨R.GAL_STAT, 0, 1⟩
/-- GAL_CTL (R447). -/
def R.GAL_CTL : Nat := 0x600008
def F.GAL_CTL.SEND_MAP : FRef := ⟨R.GAL_CTL, 2, 1⟩
def F.GAL_CTL.LEAVE : FRef := ⟨R.GAL_CTL, 1, 1⟩
def F.GAL_CTL.JOIN : FRef := ⟨R.GAL_CTL, 0, 1⟩
/-- GAL_PEER_IDX (R447). -/
def R.GAL_PEER_IDX : Nat := 0x60000c
def F.GAL_PEER_IDX.CMD : FRef := ⟨R.GAL_PEER_IDX, 30, 2⟩
def F.GAL_PEER_IDX.IDX : FRef := ⟨R.GAL_PEER_IDX, 0, 6⟩
/-- GAL_PEER_INFO (R447). -/
def R.GAL_PEER_INFO : Nat := 0x600010
def F.GAL_PEER_INFO.STATE : FRef := ⟨R.GAL_PEER_INFO, 29, 3⟩
def F.GAL_PEER_INFO.PORTS : FRef := ⟨R.GAL_PEER_INFO, 27, 2⟩
def F.GAL_PEER_INFO.FLAGS : FRef := ⟨R.GAL_PEER_INFO, 19, 8⟩
def F.GAL_PEER_INFO.EPOCH : FRef := ⟨R.GAL_PEER_INFO, 3, 16⟩
/-- GAL_PEER_UID_LO (R447). -/
def R.GAL_PEER_UID_LO : Nat := 0x600014
def F.GAL_PEER_UID_LO.UID : FRef := ⟨R.GAL_PEER_UID_LO, 0, 32⟩
/-- GAL_PEER_UID_HI (R447). -/
def R.GAL_PEER_UID_HI : Nat := 0x600018
def F.GAL_PEER_UID_HI.UID : FRef := ⟨R.GAL_PEER_UID_HI, 0, 32⟩
/-- GAL_MAP_IDX (R447). -/
def R.GAL_MAP_IDX : Nat := 0x60001c
def F.GAL_MAP_IDX.PEER : FRef := ⟨R.GAL_MAP_IDX, 7, 6⟩
def F.GAL_MAP_IDX.WORD : FRef := ⟨R.GAL_MAP_IDX, 0, 7⟩
/-- GAL_MAP_DATA (R447). -/
def R.GAL_MAP_DATA : Nat := 0x600020
def F.GAL_MAP_DATA.MAP : FRef := ⟨R.GAL_MAP_DATA, 0, 32⟩
/-- GAL_RX_DROP (R447). -/
def R.GAL_RX_DROP : Nat := 0x600024
def F.GAL_RX_DROP.SAT : FRef := ⟨R.GAL_RX_DROP, 31, 1⟩
def F.GAL_RX_DROP.COUNT : FRef := ⟨R.GAL_RX_DROP, 0, 31⟩
/-- PORT_LAT (R447). -/
def R.PORT_LAT (p : Nat) : Nat := 0x600030 + 0x4 * p
def F.PORT_LAT.TX (p : Nat) : FRef := ⟨(R.PORT_LAT p), 16, 16⟩
def F.PORT_LAT.RX (p : Nat) : FRef := ⟨(R.PORT_LAT p), 0, 16⟩
/-- TB0_STAT (R447). -/
def R.TB0_STAT : Nat := 0x600040
def F.TB0_STAT.EPOCH : FRef := ⟨R.TB0_STAT, 16, 16⟩
def F.TB0_STAT.NOREF : FRef := ⟨R.TB0_STAT, 4, 1⟩
def F.TB0_STAT.SET : FRef := ⟨R.TB0_STAT, 3, 1⟩
def F.TB0_STAT.STATE : FRef := ⟨R.TB0_STAT, 0, 3⟩
/-- TB0_RATE (R447). -/
def R.TB0_RATE : Nat := 0x600044
def F.TB0_RATE.RATE : FRef := ⟨R.TB0_RATE, 0, 32⟩
/-- TB0_OFFSET (R447). -/
def R.TB0_OFFSET : Nat := 0x600048
def F.TB0_OFFSET.OFFSET : FRef := ⟨R.TB0_OFFSET, 0, 32⟩
/-- PTP_CFG (R447). -/
def R.PTP_CFG : Nat := 0x60004c
def F.PTP_CFG.SERVO_TC : FRef := ⟨R.PTP_CFG, 28, 4⟩
def F.PTP_CFG.LOG_DELAY : FRef := ⟨R.PTP_CFG, 16, 8⟩
def F.PTP_CFG.LOG_SYNC : FRef := ⟨R.PTP_CFG, 8, 8⟩
def F.PTP_CFG.DOMAIN : FRef := ⟨R.PTP_CFG, 0, 8⟩
/-- TB_SNAP (R447). -/
def R.TB_SNAP : Nat := 0x600050
def F.TB_SNAP.GO : FRef := ⟨R.TB_SNAP, 31, 1⟩
/-- TBK_SNAP (R447). -/
def R.TBK_SNAP (k w : Nat) : Nat := 0x600054 + 0xc * k + 0x4 * w
def F.TBK_SNAP.VALUE (k w : Nat) : FRef := ⟨(R.TBK_SNAP k w), 0, 32⟩
/-- GAL_ALAT (R447). -/
def R.GAL_ALAT (h : Nat) : Nat := 0x600100 + 0x4 * h
def F.GAL_ALAT.RESUME (h : Nat) : FRef := ⟨(R.GAL_ALAT h), 24, 8⟩
def F.GAL_ALAT.ALAT_MIN (h : Nat) : FRef := ⟨(R.GAL_ALAT h), 16, 8⟩
def F.GAL_ALAT.ALAT (h : Nat) : FRef := ⟨(R.GAL_ALAT h), 0, 16⟩
/-- TT_CTL (R447). -/
def R.TT_CTL (n : Nat) : Nat := 0x600200 + 0x20 * n
def F.TT_CTL.ARM (n : Nat) : FRef := ⟨(R.TT_CTL n), 31, 1⟩
def F.TT_CTL.DISARM (n : Nat) : FRef := ⟨(R.TT_CTL n), 30, 1⟩
def F.TT_CTL.MODE (n : Nat) : FRef := ⟨(R.TT_CTL n), 29, 1⟩
def F.TT_CTL.ARMED (n : Nat) : FRef := ⟨(R.TT_CTL n), 28, 1⟩
def F.TT_CTL.MISSED (n : Nat) : FRef := ⟨(R.TT_CTL n), 27, 1⟩
def F.TT_CTL.STEPPED (n : Nat) : FRef := ⟨(R.TT_CTL n), 26, 1⟩
def F.TT_CTL.CFG_BUSY (n : Nat) : FRef := ⟨(R.TT_CTL n), 25, 1⟩
/-- TT_AT_LO (R447). -/
def R.TT_AT_LO (n : Nat) : Nat := 0x600204 + 0x20 * n
def F.TT_AT_LO.AT (n : Nat) : FRef := ⟨(R.TT_AT_LO n), 0, 32⟩
/-- TT_AT_HI (R447). -/
def R.TT_AT_HI (n : Nat) : Nat := 0x600208 + 0x20 * n
def F.TT_AT_HI.AT (n : Nat) : FRef := ⟨(R.TT_AT_HI n), 0, 32⟩
/-- TT_PERIOD (R447). -/
def R.TT_PERIOD (n : Nat) : Nat := 0x60020c + 0x20 * n
def F.TT_PERIOD.PERIOD (n : Nat) : FRef := ⟨(R.TT_PERIOD n), 0, 32⟩
/-- TT_WIDTH (R447). -/
def R.TT_WIDTH (n : Nat) : Nat := 0x600210 + 0x20 * n
def F.TT_WIDTH.WIDTH (n : Nat) : FRef := ⟨(R.TT_WIDTH n), 0, 16⟩
/-- THERM_STAT (R468). -/
def R.THERM_STAT : Nat := 0x680000
def F.THERM_STAT.LEVEL : FRef := ⟨R.THERM_STAT, 30, 2⟩
def F.THERM_STAT.SHUTDOWN : FRef := ⟨R.THERM_STAT, 29, 1⟩
def F.THERM_STAT.COOLED : FRef := ⟨R.THERM_STAT, 28, 1⟩
def F.THERM_STAT.SD_SEEN : FRef := ⟨R.THERM_STAT, 27, 1⟩
def F.THERM_STAT.LEVEL_CHG : FRef := ⟨R.THERM_STAT, 26, 1⟩
def F.THERM_STAT.SENSOR_FAIL : FRef := ⟨R.THERM_STAT, 25, 1⟩
def F.THERM_STAT.SD_WRITE : FRef := ⟨R.THERM_STAT, 24, 1⟩
def F.THERM_STAT.CFG_ERR : FRef := ⟨R.THERM_STAT, 23, 1⟩
def F.THERM_STAT.OVERRIDE : FRef := ⟨R.THERM_STAT, 22, 1⟩
def F.THERM_STAT.ZONE_FENCE : FRef := ⟨R.THERM_STAT, 14, 8⟩
def F.THERM_STAT.FAILED : FRef := ⟨R.THERM_STAT, 0, 6⟩
/-- THERM_CTL (R468). -/
def R.THERM_CTL : Nat := 0x680004
def F.THERM_CTL.IRQ_EN : FRef := ⟨R.THERM_CTL, 31, 1⟩
def F.THERM_CTL.VEC : FRef := ⟨R.THERM_CTL, 24, 7⟩
def F.THERM_CTL.LVL_FLOOR : FRef := ⟨R.THERM_CTL, 0, 2⟩
/-- TEMP_MAX (R468). -/
def R.TEMP_MAX : Nat := 0x680008
def F.TEMP_MAX.IDX : FRef := ⟨R.TEMP_MAX, 16, 6⟩
def F.TEMP_MAX.TEMP : FRef := ⟨R.TEMP_MAX, 0, 16⟩
/-- PBUDGET (R468). -/
def R.PBUDGET : Nat := 0x68000c
def F.PBUDGET.WATTS : FRef := ⟨R.PBUDGET, 0, 8⟩
/-- TH_CFG (R468). -/
def R.TH_CFG : Nat := 0x680010
def F.TH_CFG.TRST : FRef := ⟨R.TH_CFG, 24, 8⟩
def F.TH_CFG.TH3 : FRef := ⟨R.TH_CFG, 16, 8⟩
def F.TH_CFG.TH2 : FRef := ⟨R.TH_CFG, 8, 8⟩
def F.TH_CFG.TH1 : FRef := ⟨R.TH_CFG, 0, 8⟩
/-- TSD_CFG (R468). -/
def R.TSD_CFG : Nat := 0x680014
def F.TSD_CFG.TSD : FRef := ⟨R.TSD_CFG, 0, 8⟩
/-- TS_FAIL_LO (R468). -/
def R.TS_FAIL_LO : Nat := 0x680018
def F.TS_FAIL_LO.FAIL : FRef := ⟨R.TS_FAIL_LO, 0, 32⟩
/-- TS_FAIL_HI (R468). -/
def R.TS_FAIL_HI : Nat := 0x68001c
def F.TS_FAIL_HI.FAIL : FRef := ⟨R.TS_FAIL_HI, 0, 8⟩
/-- HK_ROUND (R468). -/
def R.HK_ROUND : Nat := 0x680020
def F.HK_ROUND.COUNT : FRef := ⟨R.HK_ROUND, 0, 32⟩
/-- HK_DATA (R468). -/
def R.HK_DATA (i : Nat) : Nat := 0x680200 + 0x4 * i
def F.HK_DATA.VALID (i : Nat) : FRef := ⟨(R.HK_DATA i), 31, 1⟩
def F.HK_DATA.FAILED (i : Nat) : FRef := ⟨(R.HK_DATA i), 30, 1⟩
def F.HK_DATA.VALUE (i : Nat) : FRef := ⟨(R.HK_DATA i), 0, 16⟩
/-- RAIL_WIN (R468). -/
def R.RAIL_WIN (r : Nat) : Nat := 0x680300 + 0x4 * r
def F.RAIL_WIN.HI (r : Nat) : FRef := ⟨(R.RAIL_WIN r), 16, 16⟩
def F.RAIL_WIN.LO (r : Nat) : FRef := ⟨(R.RAIL_WIN r), 0, 16⟩
/-- FLT_CTL (R483). -/
def R.FLT_CTL : Nat := 0x700000
def F.FLT_CTL.RELEASE_SAFE : FRef := ⟨R.FLT_CTL, 31, 1⟩
def F.FLT_CTL.BANIN_EN : FRef := ⟨R.FLT_CTL, 30, 1⟩
def F.FLT_CTL.IRQ_MINOR : FRef := ⟨R.FLT_CTL, 29, 1⟩
def F.FLT_CTL.IRQ_MAJOR : FRef := ⟨R.FLT_CTL, 28, 1⟩
def F.FLT_CTL.VEC_MINOR : FRef := ⟨R.FLT_CTL, 21, 7⟩
def F.FLT_CTL.VEC_MAJOR : FRef := ⟨R.FLT_CTL, 14, 7⟩
/-- FLT_STATUS (R483). -/
def R.FLT_STATUS : Nat := 0x700004
def F.FLT_STATUS.GRAVE : FRef := ⟨R.FLT_STATUS, 31, 1⟩
def F.FLT_STATUS.BAN_SAFE : FRef := ⟨R.FLT_STATUS, 30, 1⟩
def F.FLT_STATUS.BANIN_SAFE : FRef := ⟨R.FLT_STATUS, 29, 1⟩
def F.FLT_STATUS.RELEASED : FRef := ⟨R.FLT_STATUS, 28, 1⟩
def F.FLT_STATUS.RELEASE_REFUSED : FRef := ⟨R.FLT_STATUS, 27, 1⟩
def F.FLT_STATUS.CFG_ERR : FRef := ⟨R.FLT_STATUS, 26, 1⟩
def F.FLT_STATUS.LOG_COUNT : FRef := ⟨R.FLT_STATUS, 0, 7⟩
/-- FLT_GRAVE_SRC (R483). -/
def R.FLT_GRAVE_SRC : Nat := 0x700008
def F.FLT_GRAVE_SRC.SAT : FRef := ⟨R.FLT_GRAVE_SRC, 31, 1⟩
def F.FLT_GRAVE_SRC.LOST : FRef := ⟨R.FLT_GRAVE_SRC, 16, 15⟩
def F.FLT_GRAVE_SRC.SOURCE : FRef := ⟨R.FLT_GRAVE_SRC, 0, 9⟩
/-- FLT_LOG0 (R483). -/
def R.FLT_LOG0 : Nat := 0x700010
def F.FLT_LOG0.VALID : FRef := ⟨R.FLT_LOG0, 31, 1⟩
def F.FLT_LOG0.CLASS : FRef := ⟨R.FLT_LOG0, 29, 2⟩
def F.FLT_LOG0.ESC : FRef := ⟨R.FLT_LOG0, 28, 1⟩
def F.FLT_LOG0.WIRE : FRef := ⟨R.FLT_LOG0, 27, 1⟩
def F.FLT_LOG0.SOURCE : FRef := ⟨R.FLT_LOG0, 0, 9⟩
/-- FLT_LOG1 (R483). -/
def R.FLT_LOG1 : Nat := 0x700014
def F.FLT_LOG1.TB0_NS : FRef := ⟨R.FLT_LOG1, 0, 32⟩
/-- FLT_LOG2 (R483). -/
def R.FLT_LOG2 : Nat := 0x700018
def F.FLT_LOG2.DETAIL : FRef := ⟨R.FLT_LOG2, 0, 32⟩
/-- FLT_LOG3 (R483). -/
def R.FLT_LOG3 : Nat := 0x70001c
def F.FLT_LOG3.COUNT : FRef := ⟨R.FLT_LOG3, 0, 32⟩
/-- UNIT_STATE (R483). -/
def R.UNIT_STATE (u : Nat) : Nat := 0x700100 + 0x4 * u
def F.UNIT_STATE.STATE (u : Nat) : FRef := ⟨(R.UNIT_STATE u), 30, 2⟩
def F.UNIT_STATE.C_MAJOR (u : Nat) : FRef := ⟨(R.UNIT_STATE u), 29, 1⟩
def F.UNIT_STATE.C_HOST (u : Nat) : FRef := ⟨(R.UNIT_STATE u), 28, 1⟩
def F.UNIT_STATE.C_GRAVE (u : Nat) : FRef := ⟨(R.UNIT_STATE u), 27, 1⟩
def F.UNIT_STATE.C_SHUTDOWN (u : Nat) : FRef := ⟨(R.UNIT_STATE u), 26, 1⟩
def F.UNIT_STATE.HSE_FENCED (u : Nat) : FRef := ⟨(R.UNIT_STATE u), 25, 1⟩
def F.UNIT_STATE.SOURCE (u : Nat) : FRef := ⟨(R.UNIT_STATE u), 0, 9⟩
/-- FLT_CFG (R483). -/
def R.FLT_CFG (s : Nat) : Nat := 0x701000 + 0x4 * s
def F.FLT_CFG.CLASS (s : Nat) : FRef := ⟨(R.FLT_CFG s), 30, 2⟩
def F.FLT_CFG.N (s : Nat) : FRef := ⟨(R.FLT_CFG s), 16, 8⟩
def F.FLT_CFG.W (s : Nat) : FRef := ⟨(R.FLT_CFG s), 0, 16⟩
/-- FLT_SRC_STAT (R483). -/
def R.FLT_SRC_STAT (s : Nat) : Nat := 0x701800 + 0x4 * s
def F.FLT_SRC_STAT.PRESENT (s : Nat) : FRef := ⟨(R.FLT_SRC_STAT s), 31, 1⟩
def F.FLT_SRC_STAT.WIRE (s : Nat) : FRef := ⟨(R.FLT_SRC_STAT s), 30, 1⟩
def F.FLT_SRC_STAT.ESC (s : Nat) : FRef := ⟨(R.FLT_SRC_STAT s), 29, 1⟩
def F.FLT_SRC_STAT.SAT (s : Nat) : FRef := ⟨(R.FLT_SRC_STAT s), 15, 1⟩
def F.FLT_SRC_STAT.COUNT (s : Nat) : FRef := ⟨(R.FLT_SRC_STAT s), 0, 15⟩
/-- CAL_CTL (R499). -/
def R.CAL_CTL : Nat := 0x780000
def F.CAL_CTL.IDLE_GAP : FRef := ⟨R.CAL_CTL, 31, 1⟩
def F.CAL_CTL.OPPORTUNE : FRef := ⟨R.CAL_CTL, 30, 1⟩
def F.CAL_CTL.CAL_STEP : FRef := ⟨R.CAL_CTL, 0, 16⟩
/-- CAL_STAT (R499). -/
def R.CAL_STAT : Nat := 0x780004
def F.CAL_STAT.RUNNING : FRef := ⟨R.CAL_STAT, 31, 1⟩
def F.CAL_STAT.RESTORING : FRef := ⟨R.CAL_STAT, 30, 1⟩
def F.CAL_STAT.WALKING : FRef := ⟨R.CAL_STAT, 29, 1⟩
def F.CAL_STAT.BIST : FRef := ⟨R.CAL_STAT, 28, 1⟩
def F.CAL_STAT.OVERRIDE : FRef := ⟨R.CAL_STAT, 27, 1⟩
def F.CAL_STAT.SLICE_DELAY : FRef := ⟨R.CAL_STAT, 26, 1⟩
/-- CAL_GEN (R499). -/
def R.CAL_GEN : Nat := 0x780008
def F.CAL_GEN.GEN : FRef := ⟨R.CAL_GEN, 0, 32⟩
/-- CAL_HALL (R499). -/
def R.CAL_HALL (h : Nat) : Nat := 0x780100 + 0x4 * h
def F.CAL_HALL.WALK (h : Nat) : FRef := ⟨(R.CAL_HALL h), 31, 1⟩
def F.CAL_HALL.GAP (h : Nat) : FRef := ⟨(R.CAL_HALL h), 30, 1⟩
def F.CAL_HALL.SLICE (h : Nat) : FRef := ⟨(R.CAL_HALL h), 29, 1⟩
def F.CAL_HALL.DEFER (h : Nat) : FRef := ⟨(R.CAL_HALL h), 10, 5⟩
def F.CAL_HALL.FAIL (h : Nat) : FRef := ⟨(R.CAL_HALL h), 5, 5⟩
def F.CAL_HALL.PASS (h : Nat) : FRef := ⟨(R.CAL_HALL h), 0, 5⟩
/-- CAL_GRP (R499). -/
def R.CAL_GRP (g : Nat) : Nat := 0x780180 + 0x4 * g
def F.CAL_GRP.WALK (g : Nat) : FRef := ⟨(R.CAL_GRP g), 31, 1⟩
def F.CAL_GRP.GAP (g : Nat) : FRef := ⟨(R.CAL_GRP g), 30, 1⟩
def F.CAL_GRP.SLICE (g : Nat) : FRef := ⟨(R.CAL_GRP g), 29, 1⟩
def F.CAL_GRP.DEFER (g : Nat) : FRef := ⟨(R.CAL_GRP g), 10, 5⟩
def F.CAL_GRP.FAIL (g : Nat) : FRef := ⟨(R.CAL_GRP g), 5, 5⟩
def F.CAL_GRP.PASS (g : Nat) : FRef := ⟨(R.CAL_GRP g), 0, 5⟩
/-- JNL_STAT (R514). -/
def R.JNL_STAT : Nat := 0x800000
def F.JNL_STAT.REC : FRef := ⟨R.JNL_STAT, 31, 1⟩
def F.JNL_STAT.REPLAY : FRef := ⟨R.JNL_STAT, 30, 1⟩
def F.JNL_STAT.BENCH : FRef := ⟨R.JNL_STAT, 29, 1⟩
def F.JNL_STAT.FWD : FRef := ⟨R.JNL_STAT, 28, 1⟩
def F.JNL_STAT.AGG : FRef := ⟨R.JNL_STAT, 27, 1⟩
def F.JNL_STAT.FIFO : FRef := ⟨R.JNL_STAT, 0, 12⟩
/-- JNL_SEQ (R514). -/
def R.JNL_SEQ : Nat := 0x800004
def F.JNL_SEQ.VALUE : FRef := ⟨R.JNL_SEQ, 0, 32⟩
/-- JNL_DROP (R514). -/
def R.JNL_DROP : Nat := 0x800008
def F.JNL_DROP.SAT : FRef := ⟨R.JNL_DROP, 31, 1⟩
def F.JNL_DROP.COUNT : FRef := ⟨R.JNL_DROP, 0, 31⟩
/-- RPL_POS (R514). -/
def R.RPL_POS : Nat := 0x80000c
def F.RPL_POS.VALUE : FRef := ⟨R.RPL_POS, 0, 32⟩
/-- JNL_DIGEST (R514). -/
def R.JNL_DIGEST (k : Nat) : Nat := 0x800020 + 0x4 * k
def F.JNL_DIGEST.DIGEST (k : Nat) : FRef := ⟨(R.JNL_DIGEST k), 0, 32⟩
/-- RESET_CAUSE (R550). -/
def R.RESET_CAUSE : Nat := 0x18
def F.RESET_CAUSE.THERMAL : FRef := ⟨R.RESET_CAUSE, 6, 1⟩
def F.RESET_CAUSE.FLR : FRef := ⟨R.RESET_CAUSE, 5, 1⟩
def F.RESET_CAUSE.LINK : FRef := ⟨R.RESET_CAUSE, 4, 1⟩
def F.RESET_CAUSE.PERST : FRef := ⟨R.RESET_CAUSE, 3, 1⟩
def F.RESET_CAUSE.WARM : FRef := ⟨R.RESET_CAUSE, 2, 1⟩
def F.RESET_CAUSE.POR_N : FRef := ⟨R.RESET_CAUSE, 1, 1⟩
def F.RESET_CAUSE.VAUX_ON : FRef := ⟨R.RESET_CAUSE, 0, 1⟩
/-- BOOT_ERR (R550). -/
def R.BOOT_ERR : Nat := 0x1c
def F.BOOT_ERR.WARM_REFUSED : FRef := ⟨R.BOOT_ERR, 7, 1⟩
def F.BOOT_ERR.RAIL_WAIT : FRef := ⟨R.BOOT_ERR, 6, 1⟩
def F.BOOT_ERR.PGOOD_WAIT : FRef := ⟨R.BOOT_ERR, 5, 1⟩
def F.BOOT_ERR.HBM_FAIL : FRef := ⟨R.BOOT_ERR, 4, 1⟩
def F.BOOT_ERR.REASON : FRef := ⟨R.BOOT_ERR, 0, 4⟩
/-- BOOT_TIME (R550). -/
def R.BOOT_TIME : Nat := 0x20
def F.BOOT_TIME.US : FRef := ⟨R.BOOT_TIME, 0, 32⟩
/-- RESET_CTL (R550). -/
def R.RESET_CTL : Nat := 0x24
def F.RESET_CTL.WARM : FRef := ⟨R.RESET_CTL, 31, 1⟩
def F.RESET_CTL.KEY : FRef := ⟨R.RESET_CTL, 0, 16⟩

/-! ### The register table, in clusters of neighbouring addresses -/

def regRows0 : List RegRow := [
  ⟨.AXIS_CTL, 0x100000, [(32, 0x10000)], .hall, 0x40400000, [⟨31, 1, .rw⟩, ⟨30, 1, .rw⟩, ⟨29, 1, .wo⟩, ⟨25, 1, .rw⟩, ⟨23, 2, .rw⟩, ⟨20, 3, .rw⟩, ⟨14, 5, .rw⟩, ⟨4, 10, .rw⟩, ⟨0, 2, .rw⟩]⟩,
  ⟨.AXIS_STAT, 0x100004, [(32, 0x10000)], .hall, 0x0, [⟨25, 3, .ro⟩, ⟨22, 3, .ro⟩, ⟨19, 3, .ro⟩, ⟨18, 1, .ro⟩, ⟨17, 1, .w1c⟩, ⟨16, 1, .w1c⟩, ⟨15, 1, .w1c⟩, ⟨14, 1, .w1c⟩, ⟨13, 1, .w1c⟩, ⟨12, 1, .w1c⟩, ⟨11, 1, .w1c⟩, ⟨10, 1, .w1c⟩, ⟨9, 1, .w1c⟩, ⟨8, 1, .w1c⟩, ⟨7, 1, .w1c⟩, ⟨6, 1, .ro⟩, ⟨3, 1, .ro⟩, ⟨0, 2, .ro⟩]⟩,
  ⟨.AXIS_POS_LO, 0x100008, [(32, 0x10000)], .hall, 0x0, [⟨0, 32, .ro⟩]⟩,
  ⟨.AXIS_POS_HI, 0x10000c, [(32, 0x10000)], .hall, 0x0, [⟨0, 16, .ro⟩]⟩]

def regRows1 : List RegRow := [
  ⟨.FOLLOW_FREQ, 0x100010, [(32, 0x10000)], .hall, 0x0, [⟨0, 29, .ro⟩]⟩,
  ⟨.HOLD_TREADS, 0x100014, [(32, 0x10000)], .hall, 0x0, [⟨31, 1, .sat⟩, ⟨0, 31, .cnt⟩]⟩,
  ⟨.RATIO_M, 0x100020, [(32, 0x10000), (8, 0x8)], .hall, 0xa, [⟨0, 24, .rw⟩]⟩,
  ⟨.RATIO_N, 0x100024, [(32, 0x10000), (8, 0x8)], .hall, 0x1, [⟨0, 24, .rw⟩]⟩]

def regRows2 : List RegRow := [
  ⟨.SYN_SCHED, 0x100060, [(32, 0x10000)], .hall, 0x0, [⟨31, 1, .w1s⟩, ⟨30, 1, .rw⟩, ⟨29, 1, .rw⟩, ⟨26, 3, .rw⟩, ⟨25, 1, .rw⟩, ⟨0, 15, .rw⟩]⟩,
  ⟨.SYN_AT_LO, 0x100064, [(32, 0x10000)], .hall, 0x0, [⟨0, 32, .rw⟩]⟩,
  ⟨.SYN_AT_HI, 0x100068, [(32, 0x10000)], .hall, 0x0, [⟨0, 16, .rw⟩]⟩,
  ⟨.FLT_IDX, 0x100080, [(32, 0x10000)], .hall, 0x0, [⟨0, 12, .rw⟩]⟩]

def regRows3 : List RegRow := [
  ⟨.FLT_DESC_LO, 0x100084, [(32, 0x10000)], .hall, 0x0, [⟨30, 2, .ro⟩, ⟨29, 1, .ro⟩, ⟨28, 1, .ro⟩, ⟨27, 1, .ro⟩, ⟨26, 1, .ro⟩, ⟨23, 3, .ro⟩, ⟨0, 18, .ro⟩]⟩,
  ⟨.FLT_DESC_HI, 0x100088, [(32, 0x10000)], .hall, 0x0, [⟨25, 7, .ro⟩, ⟨24, 1, .ro⟩, ⟨0, 19, .ro⟩]⟩,
  ⟨.FLT_CRC, 0x10008c, [(32, 0x10000)], .hall, 0x0, [⟨0, 32, .ro⟩]⟩,
  ⟨.FLT_STAT, 0x100090, [(32, 0x10000)], .hall, 0x0, [⟨7, 1, .w1c⟩, ⟨6, 1, .w1c⟩, ⟨5, 1, .w1c⟩, ⟨4, 1, .w1c⟩, ⟨3, 1, .w1c⟩, ⟨2, 1, .ro⟩, ⟨1, 1, .ro⟩, ⟨0, 1, .ro⟩]⟩]

def regRows4 : List RegRow := [
  ⟨.STALL_CNT, 0x100094, [(32, 0x10000)], .hall, 0x0, [⟨31, 1, .sat⟩, ⟨0, 31, .cnt⟩]⟩,
  ⟨.STALL_RUN, 0x100098, [(32, 0x10000)], .hall, 0x0, [⟨0, 32, .ro⟩]⟩,
  ⟨.STALL_LIMIT, 0x10009c, [(32, 0x10000)], .hall, 0xf4240, [⟨0, 32, .rw⟩]⟩,
  ⟨.WDROP_CNT, 0x1000a0, [(32, 0x10000)], .hall, 0x0, [⟨31, 1, .sat⟩, ⟨0, 31, .cnt⟩]⟩]

def regRows5 : List RegRow := [
  ⟨.LC_STAT, 0x1000a4, [(32, 0x10000)], .hall, 0x0, [⟨16, 11, .ro⟩, ⟨0, 9, .ro⟩]⟩,
  ⟨.FLT_TRIGOUT, 0x1000a8, [(32, 0x10000)], .hall, 0x1, [⟨31, 1, .rw⟩, ⟨8, 3, .rw⟩, ⟨0, 8, .rw⟩]⟩,
  ⟨.FLT_STRETCH, 0x1000ac, [(32, 0x10000)], .hall, 0x100, [⟨0, 16, .rw⟩]⟩,
  ⟨.HOLD_VEC, 0x1000b0, [(32, 0x10000), (4, 0x4)], .hall, 0x33333333, [⟨0, 32, .rw⟩]⟩]

def regRows6 : List RegRow := [
  ⟨.LAND_CFG, 0x1000c0, [(32, 0x10000)], .hall, 0xa000010, [⟨24, 8, .rw⟩, ⟨0, 7, .rw⟩]⟩,
  ⟨.LAND_STAT, 0x1000c4, [(32, 0x10000)], .hall, 0x0, [⟨9, 7, .ro⟩, ⟨8, 1, .w1c⟩, ⟨7, 1, .w1c⟩, ⟨6, 1, .w1c⟩, ⟨5, 1, .w1c⟩, ⟨4, 1, .w1c⟩, ⟨3, 1, .ro⟩, ⟨2, 1, .ro⟩, ⟨1, 1, .ro⟩, ⟨0, 1, .w1c⟩]⟩,
  ⟨.JMP_REQ, 0x1000c8, [(32, 0x10000)], .hall, 0x0, [⟨31, 1, .w1s⟩, ⟨0, 16, .rw⟩]⟩,
  ⟨.LATE_CNT, 0x1000cc, [(32, 0x10000)], .hall, 0x0, [⟨31, 1, .sat⟩, ⟨0, 31, .cnt⟩]⟩]

def regRows7 : List RegRow := [
  ⟨.HEAD_MISS_CNT, 0x1000d0, [(32, 0x10000)], .hall, 0x0, [⟨31, 1, .sat⟩, ⟨0, 31, .cnt⟩]⟩,
  ⟨.SEG_HOLD_CNT, 0x1000d4, [(32, 0x10000)], .hall, 0x0, [⟨31, 1, .sat⟩, ⟨0, 31, .cnt⟩]⟩,
  ⟨.LAND_CNT_LO, 0x1000d8, [(32, 0x10000)], .hall, 0x0, [⟨0, 32, .ro⟩]⟩,
  ⟨.LAND_CNT_HI, 0x1000dc, [(32, 0x10000)], .hall, 0x0, [⟨0, 32, .ro⟩]⟩]

def regRows8 : List RegRow := [
  ⟨.COND_SNAP, 0x1000e0, [(32, 0x10000)], .hall, 0x0, [⟨0, 32, .ro⟩]⟩,
  ⟨.FLOG_LIMIT, 0x1000e4, [(32, 0x10000)], .hall, 0x40, [⟨0, 16, .rw⟩]⟩,
  ⟨.STAIR_STAT, 0x1000e8, [(32, 0x10000)], .hall, 0x0, [⟨16, 16, .ro⟩, ⟨0, 1, .w1c⟩]⟩,
  ⟨.HALL_STAT, 0x100100, [(32, 0x10000)], .hall, 0x80000, [⟨31, 1, .ro⟩, ⟨30, 1, .ro⟩, ⟨28, 2, .ro⟩, ⟨26, 2, .ro⟩, ⟨24, 2, .ro⟩, ⟨21, 3, .ro⟩, ⟨20, 1, .ro⟩, ⟨19, 1, .ro⟩, ⟨18, 1, .w1c⟩, ⟨17, 1, .w1c⟩, ⟨16, 1, .w1c⟩, ⟨15, 1, .w1c⟩, ⟨0, 2, .ro⟩]⟩]

def regRows9 : List RegRow := [
  ⟨.SCHED_CTL, 0x100104, [(32, 0x10000)], .hall, 0x64, [⟨0, 17, .rw⟩]⟩,
  ⟨.SWAP_CNT, 0x100108, [(32, 0x10000)], .hall, 0x0, [⟨31, 1, .sat⟩, ⟨0, 31, .cnt⟩]⟩]

def regRows10 : List RegRow := [
  ⟨.SCHED_BANK, 0x100110, [(32, 0x10000), (3, 0x10)], .hall, 0x1000000, [⟨24, 8, .rw⟩, ⟨21, 3, .rw⟩, ⟨20, 1, .rw⟩, ⟨16, 4, .rw⟩, ⟨0, 8, .rw⟩]⟩,
  ⟨.DEADLINE_LO, 0x100114, [(32, 0x10000), (3, 0x10)], .hall, 0x0, [⟨0, 32, .rw⟩]⟩,
  ⟨.DEADLINE_HI, 0x100118, [(32, 0x10000), (3, 0x10)], .hall, 0x0, [⟨31, 1, .rw⟩, ⟨0, 16, .rw⟩]⟩,
  ⟨.VT, 0x10011c, [(32, 0x10000), (3, 0x10)], .hall, 0x0, [⟨0, 31, .ro⟩]⟩]

def regRows11 : List RegRow := [
  ⟨.PCLASS_PWR, 0x100140, [(32, 0x10000), (8, 0x4)], .hall, 0x0, [⟨0, 12, .rw⟩]⟩,
  ⟨.BCAST_SRC, 0x100160, [(32, 0x10000), (4, 0x4)], .hall, 0x0, [⟨0, 5, .rw⟩]⟩,
  ⟨.BCAST_MEM, 0x100170, [(32, 0x10000), (4, 0x4)], .hall, 0x0, [⟨0, 32, .rw⟩]⟩,
  ⟨.ALC_STATE, 0x100200, [(32, 0x10000), (96, 0x4)], .hall, 0x1, [⟨31, 1, .ro⟩, ⟨30, 1, .ro⟩, ⟨29, 1, .ro⟩, ⟨28, 1, .ro⟩, ⟨27, 1, .ro⟩, ⟨26, 1, .ro⟩, ⟨25, 1, .ro⟩, ⟨24, 1, .ro⟩, ⟨22, 2, .ro⟩, ⟨16, 6, .ro⟩, ⟨10, 6, .ro⟩, ⟨3, 7, .ro⟩, ⟨0, 3, .ro⟩]⟩]

def regRows12 : List RegRow := [
  ⟨.CLEAR_CODE, 0x100400, [(32, 0x10000)], .hall, 0x33336666, [⟨16, 16, .rw⟩, ⟨0, 16, .rw⟩]⟩,
  ⟨.CLEAR_LAD, 0x100404, [(32, 0x10000)], .hall, 0xccc1999, [⟨16, 14, .rw⟩, ⟨0, 14, .rw⟩]⟩,
  ⟨.PE_HALL_STAT, 0x100408, [(32, 0x10000)], .hall, 0x0, [⟨3, 1, .w1c⟩, ⟨2, 1, .ro⟩, ⟨1, 1, .w1c⟩, ⟨0, 1, .ro⟩]⟩,
  ⟨.TRIP_MAP, 0x10040c, [(32, 0x10000)], .hall, 0x0, [⟨0, 32, .w1c⟩]⟩]

def regRows13 : List RegRow := [
  ⟨.PP_CTL, 0x100410, [(32, 0x10000)], .hall, 0x32, [⟨31, 1, .w1s⟩, ⟨29, 2, .rw⟩, ⟨16, 8, .rw⟩, ⟨0, 10, .rw⟩]⟩,
  ⟨.PP_MASK, 0x100414, [(32, 0x10000)], .hall, 0x0, [⟨0, 32, .rw⟩]⟩,
  ⟨.LVL_IDX, 0x100418, [(32, 0x10000)], .hall, 0x0, [⟨5, 6, .rw⟩, ⟨0, 5, .rw⟩]⟩,
  ⟨.LVL_DATA, 0x100420, [(32, 0x10000), (4, 0x4)], .hall, 0x0, [⟨0, 32, .ro⟩]⟩]

def regRows14 : List RegRow := [
  ⟨.TDC_HALL_STAT, 0x100440, [(32, 0x10000)], .hall, 0x0, [⟨28, 4, .w1c⟩, ⟨27, 1, .ro⟩, ⟨26, 1, .w1c⟩, ⟨25, 1, .w1c⟩, ⟨24, 1, .w1c⟩, ⟨23, 1, .w1c⟩, ⟨22, 1, .w1c⟩, ⟨21, 1, .w1c⟩, ⟨0, 6, .ro⟩]⟩,
  ⟨.TDC_HOST, 0x100444, [(32, 0x10000)], .hall, 0x0, [⟨31, 1, .w1s⟩, ⟨30, 1, .w1s⟩, ⟨0, 6, .rw⟩]⟩,
  ⟨.REG_FREQ_LO, 0x100448, [(32, 0x10000)], .hall, 0x0, [⟨0, 32, .ro⟩]⟩,
  ⟨.REG_FREQ_HI, 0x10044c, [(32, 0x10000)], .hall, 0x0, [⟨0, 32, .ro⟩]⟩]

def regRows15 : List RegRow := [
  ⟨.REG_K, 0x100450, [(32, 0x10000)], .hall, 0x0, [⟨0, 25, .ro⟩]⟩]

def regRows16 : List RegRow := [
  ⟨.TDCQ_CFG, 0x100460, [(32, 0x10000), (4, 0x20)], .hall, 0x0, [⟨31, 1, .rw⟩, ⟨28, 3, .rw⟩, ⟨26, 2, .rw⟩, ⟨21, 5, .rw⟩]⟩,
  ⟨.TDCQ_LO_LO, 0x100464, [(32, 0x10000), (4, 0x20)], .hall, 0x0, [⟨0, 32, .rw⟩]⟩,
  ⟨.TDCQ_LO_HI, 0x100468, [(32, 0x10000), (4, 0x20)], .hall, 0x0, [⟨0, 32, .rw⟩]⟩,
  ⟨.TDCQ_HI_LO, 0x10046c, [(32, 0x10000), (4, 0x20)], .hall, 0x0, [⟨0, 32, .rw⟩]⟩,
  ⟨.TDCQ_HI_HI, 0x100470, [(32, 0x10000), (4, 0x20)], .hall, 0x0, [⟨0, 32, .rw⟩]⟩]

def regRows17 : List RegRow := [
  ⟨.TSET_DRV, 0x101000, [(32, 0x10000), (64, 0x100), (32, 0x8)], .hall, 0x0, [⟨28, 4, .rw⟩, ⟨16, 10, .rw⟩, ⟨0, 10, .rw⟩]⟩,
  ⟨.TSET_CMP, 0x101004, [(32, 0x10000), (64, 0x100), (32, 0x8)], .hall, 0x2000000, [⟨30, 2, .rw⟩, ⟨16, 10, .rw⟩, ⟨0, 10, .rw⟩]⟩,
  ⟨.TSET_HDR, 0x105000, [(32, 0x10000), (64, 0x4)], .hall, 0x0, [⟨3, 1, .rw⟩, ⟨0, 3, .rw⟩]⟩,
  ⟨.DESKEW, 0x105100, [(32, 0x10000), (32, 0x4)], .hall, 0x0, [⟨0, 12, .rw⟩]⟩]

def regRows18 : List RegRow := [
  ⟨.PE_CTL, 0x106000, [(32, 0x10000), (32, 0x40)], .hall, 0x0, [⟨31, 1, .rw⟩, ⟨30, 1, .rw⟩, ⟨28, 2, .rw⟩, ⟨27, 1, .rw⟩, ⟨26, 1, .rw⟩, ⟨22, 4, .rw⟩]⟩,
  ⟨.PE_STAT, 0x106004, [(32, 0x10000), (32, 0x40)], .hall, 0x80, [⟨8, 1, .ro⟩, ⟨7, 1, .ro⟩, ⟨6, 1, .w1c⟩, ⟨5, 1, .ro⟩, ⟨4, 1, .w1c⟩, ⟨3, 1, .ro⟩, ⟨2, 1, .w1c⟩, ⟨1, 1, .w1c⟩, ⟨0, 1, .w1c⟩]⟩,
  ⟨.PE_LATCH, 0x106008, [(32, 0x10000), (32, 0x40)], .hall, 0x0, [⟨4, 2, .ro⟩, ⟨2, 1, .w1c⟩, ⟨1, 1, .w1c⟩, ⟨0, 1, .w1c⟩]⟩,
  ⟨.TRIP_CTL, 0x10600c, [(32, 0x10000), (32, 0x40)], .hall, 0x0, [⟨30, 2, .rw⟩, ⟨29, 1, .rw⟩, ⟨28, 1, .rw⟩, ⟨27, 1, .rw⟩, ⟨23, 4, .rw⟩]⟩,
  ⟨.LVL_DRV, 0x106010, [(32, 0x10000), (32, 0x40)], .hall, 0x66666666, [⟨16, 16, .ro⟩, ⟨0, 16, .ro⟩]⟩,
  ⟨.LVL_CMP, 0x106014, [(32, 0x10000), (32, 0x40)], .hall, 0x66666666, [⟨16, 16, .ro⟩, ⟨0, 16, .ro⟩]⟩,
  ⟨.LVL_TERM, 0x106018, [(32, 0x10000), (32, 0x40)], .hall, 0x16666, [⟨26, 6, .ro⟩, ⟨19, 2, .ro⟩, ⟨18, 1, .ro⟩, ⟨17, 1, .ro⟩, ⟨16, 1, .ro⟩, ⟨0, 16, .ro⟩]⟩,
  ⟨.LVL_LOAD, 0x10601c, [(32, 0x10000), (32, 0x40)], .hall, 0x0, [⟨16, 16, .ro⟩, ⟨0, 16, .ro⟩]⟩,
  ⟨.PP_RESULT, 0x106020, [(32, 0x10000), (32, 0x40)], .hall, 0x0, [⟨31, 1, .ro⟩, ⟨30, 1, .ro⟩, ⟨0, 16, .ro⟩]⟩,
  ⟨.BLANK_CNT, 0x106024, [(32, 0x10000), (32, 0x40)], .hall, 0x0, [⟨31, 1, .sat⟩, ⟨0, 31, .cnt⟩]⟩]

def regRows19 : List RegRow := [
  ⟨.TDC_SET_A, 0x107000, [(32, 0x10000), (64, 0x10)], .hall, 0x0, [⟨31, 1, .rw⟩, ⟨30, 1, .rw⟩, ⟨28, 2, .rw⟩, ⟨23, 5, .rw⟩, ⟨21, 2, .rw⟩, ⟨19, 2, .rw⟩, ⟨18, 1, .rw⟩, ⟨15, 3, .rw⟩, ⟨12, 3, .rw⟩, ⟨11, 1, .rw⟩, ⟨7, 4, .rw⟩]⟩,
  ⟨.TDC_SET_B, 0x107004, [(32, 0x10000), (64, 0x10)], .hall, 0x0, [⟨0, 32, .rw⟩]⟩,
  ⟨.TDC_SET_C, 0x107008, [(32, 0x10000), (64, 0x10)], .hall, 0x0, [⟨0, 24, .rw⟩]⟩,
  ⟨.TDC_SET_D, 0x10700c, [(32, 0x10000), (64, 0x10)], .hall, 0x0, [⟨0, 24, .rw⟩]⟩]

def regRows20 : List RegRow := [
  ⟨.TDC_STAT, 0x107800, [(32, 0x10000), (32, 0x10)], .hall, 0x0, [⟨31, 1, .ro⟩, ⟨30, 1, .w1c⟩, ⟨29, 1, .w1c⟩, ⟨28, 1, .w1c⟩, ⟨27, 1, .ro⟩, ⟨0, 6, .ro⟩]⟩,
  ⟨.TDC_N, 0x107804, [(32, 0x10000), (32, 0x10)], .hall, 0x0, [⟨0, 25, .ro⟩]⟩,
  ⟨.TDC_TMO, 0x107808, [(32, 0x10000), (32, 0x10)], .hall, 0x0, [⟨31, 1, .sat⟩, ⟨0, 31, .cnt⟩]⟩,
  ⟨.TDC_SKIP, 0x10780c, [(32, 0x10000), (32, 0x10)], .hall, 0x0, [⟨31, 1, .sat⟩, ⟨0, 31, .cnt⟩]⟩]

def regRows21 : List RegRow := [
  ⟨.ID, 0x0, [], .none, 0x0, [⟨16, 16, .ro⟩, ⟨8, 8, .ro⟩, ⟨0, 8, .ro⟩]⟩,
  ⟨.CAP0, 0x4, [], .none, 0x0, [⟨23, 9, .ro⟩, ⟨18, 5, .ro⟩, ⟨12, 6, .ro⟩, ⟨5, 7, .ro⟩, ⟨2, 3, .ro⟩, ⟨1, 1, .ro⟩, ⟨0, 1, .ro⟩]⟩,
  ⟨.CAP1, 0x8, [], .none, 0x0, [⟨30, 2, .ro⟩, ⟨29, 1, .ro⟩, ⟨16, 13, .ro⟩, ⟨8, 8, .ro⟩]⟩,
  ⟨.BOOT_STAGE, 0xc, [], .none, 0x0, [⟨8, 4, .ro⟩, ⟨0, 4, .ro⟩]⟩]

def regRows22 : List RegRow := [
  ⟨.DEV_UID_LO, 0x10, [], .none, 0x0, [⟨0, 32, .ro⟩]⟩,
  ⟨.DEV_UID_HI, 0x14, [], .none, 0x0, [⟨0, 32, .ro⟩]⟩,
  ⟨.RESET_CAUSE, 0x18, [], .none, 0x1, [⟨6, 1, .w1c⟩, ⟨5, 1, .w1c⟩, ⟨4, 1, .w1c⟩, ⟨3, 1, .w1c⟩, ⟨2, 1, .w1c⟩, ⟨1, 1, .w1c⟩, ⟨0, 1, .w1c⟩]⟩,
  ⟨.BOOT_ERR, 0x1c, [], .none, 0x0, [⟨7, 1, .w1c⟩, ⟨6, 1, .ro⟩, ⟨5, 1, .ro⟩, ⟨4, 1, .ro⟩, ⟨0, 4, .ro⟩]⟩]

def regRows23 : List RegRow := [
  ⟨.BOOT_TIME, 0x20, [], .none, 0x0, [⟨0, 32, .ro⟩]⟩,
  ⟨.RESET_CTL, 0x24, [], .none, 0x0, [⟨31, 1, .wo⟩, ⟨0, 16, .wo⟩]⟩,
  ⟨.DOMAIN_OWN, 0x100, [(64, 0x4)], .dom, 0x0, [⟨0, 3, .rw⟩]⟩]

def regRows24 : List RegRow := [
  ⟨.PORT_CTL, 0x4000, [(103, 0x20)], .port, 0x0, [⟨0, 2, .rw⟩]⟩,
  ⟨.PORT_STAT, 0x4004, [(103, 0x20)], .port, 0x0, [⟨6, 1, .ro⟩, ⟨5, 1, .ro⟩, ⟨4, 1, .w1c⟩, ⟨3, 1, .w1c⟩, ⟨2, 1, .w1c⟩, ⟨1, 1, .w1c⟩, ⟨0, 1, .w1c⟩]⟩,
  ⟨.PORT_ADDR, 0x4008, [(103, 0x20)], .port, 0x0, [⟨0, 32, .rw⟩]⟩,
  ⟨.PORT_APT, 0x400c, [(103, 0x20)], .port, 0x0, [⟨12, 20, .rw⟩]⟩,
  ⟨.PORT_DATA, 0x4010, [(103, 0x20), (4, 0x4)], .port, 0x0, [⟨0, 32, .rw⟩]⟩]

def regRows25 : List RegRow := [
  ⟨.QP_SQ_DB, 0x10000, [(8, 0x1000), (64, 0x8)], .none, 0x0, [⟨0, 20, .wo⟩]⟩,
  ⟨.QP_CQ_DB, 0x10004, [(8, 0x1000), (64, 0x8)], .none, 0x0, [⟨0, 20, .wo⟩]⟩,
  ⟨.RR_HEAD_DB, 0x10200, [(8, 0x1000), (5, 0x4)], .none, 0x0, [⟨0, 20, .wo⟩]⟩,
  ⟨.EVD_SWSET, 0x10800, [(8, 0x1000), (2, 0x4)], .none, 0x0, [⟨0, 32, .wo⟩]⟩,
  ⟨.EVD_FLAG, 0x10808, [(8, 0x1000), (2, 0x4)], .none, 0x0, [⟨0, 32, .w1c⟩]⟩]

def regRows26 : List RegRow := [
  ⟨.QP_CFG, 0x18000, [(64, 0x20)], .none, 0x840000, [⟨31, 1, .rw⟩, ⟨30, 1, .rw⟩, ⟨27, 3, .rw⟩, ⟨21, 5, .rw⟩, ⟨16, 5, .rw⟩, ⟨7, 7, .rw⟩]⟩,
  ⟨.QP_STAT, 0x18004, [(64, 0x20)], .none, 0x0, [⟨30, 2, .ro⟩, ⟨6, 1, .ro⟩, ⟨5, 1, .w1c⟩, ⟨4, 1, .w1c⟩, ⟨3, 1, .w1c⟩, ⟨2, 1, .w1c⟩, ⟨1, 1, .w1c⟩, ⟨0, 1, .w1c⟩]⟩,
  ⟨.QP_SQ_BASE_LO, 0x18008, [(64, 0x20)], .none, 0x0, [⟨12, 20, .rw⟩]⟩,
  ⟨.QP_SQ_BASE_HI, 0x1800c, [(64, 0x20)], .none, 0x0, [⟨0, 32, .rw⟩]⟩,
  ⟨.QP_CQ_BASE_LO, 0x18010, [(64, 0x20)], .none, 0x0, [⟨12, 20, .rw⟩]⟩,
  ⟨.QP_CQ_BASE_HI, 0x18014, [(64, 0x20)], .none, 0x0, [⟨0, 32, .rw⟩]⟩,
  ⟨.QP_PTRS, 0x18018, [(64, 0x20)], .none, 0x0, [⟨16, 16, .ro⟩, ⟨0, 16, .ro⟩]⟩,
  ⟨.QP_LASTERR, 0x1801c, [(64, 0x20)], .none, 0x0, [⟨24, 8, .ro⟩, ⟨0, 16, .ro⟩]⟩]

def regRows27 : List RegRow := [
  ⟨.RR_CFG, 0x19000, [(5, 0x20)], .ring, 0x600000, [⟨31, 1, .rw⟩, ⟨28, 3, .rw⟩, ⟨20, 5, .rw⟩, ⟨7, 7, .rw⟩]⟩,
  ⟨.RR_BASE_LO, 0x19004, [(5, 0x20)], .ring, 0x0, [⟨12, 20, .rw⟩]⟩,
  ⟨.RR_BASE_HI, 0x19008, [(5, 0x20)], .ring, 0x0, [⟨0, 32, .rw⟩]⟩,
  ⟨.RR_WB_LO, 0x1900c, [(5, 0x20)], .ring, 0x0, [⟨2, 30, .rw⟩]⟩,
  ⟨.RR_WB_HI, 0x19010, [(5, 0x20)], .ring, 0x0, [⟨0, 32, .rw⟩]⟩,
  ⟨.RR_TAIL, 0x19014, [(5, 0x20)], .ring, 0x0, [⟨0, 20, .ro⟩]⟩,
  ⟨.RR_HEAD, 0x19018, [(5, 0x20)], .ring, 0x0, [⟨0, 20, .ro⟩]⟩,
  ⟨.RR_STAT, 0x1901c, [(5, 0x20)], .ring, 0x0, [⟨4, 1, .ro⟩, ⟨3, 1, .w1c⟩, ⟨2, 1, .w1c⟩, ⟨1, 1, .w1c⟩, ⟨0, 1, .w1c⟩]⟩]

def regRows28 : List RegRow := [
  ⟨.MSIX_MOD, 0x1a000, [(128, 0x4)], .none, 0x10000, [⟨16, 8, .rw⟩, ⟨0, 10, .rw⟩]⟩,
  ⟨.AXZ_CTL, 0x20000, [], .none, 0x0, [⟨2, 1, .w1c⟩, ⟨1, 1, .ro⟩, ⟨0, 1, .w1s⟩]⟩,
  ⟨.REF_STAT, 0x20004, [], .none, 0x0, [⟨2, 1, .w1c⟩, ⟨1, 1, .ro⟩, ⟨0, 1, .ro⟩]⟩,
  ⟨.AXIN_STAT, 0x20008, [], .none, 0x0, [⟨4, 4, .w1c⟩, ⟨0, 4, .ro⟩]⟩]

def regRows29 : List RegRow := [
  ⟨.SMU_CTL, 0x400000, [(64, 0x40)], .smu, 0x0, [⟨31, 1, .rw⟩, ⟨30, 1, .rw⟩, ⟨27, 3, .rw⟩, ⟨24, 3, .rw⟩, ⟨23, 1, .rw⟩, ⟨22, 1, .rw⟩, ⟨21, 1, .rw⟩, ⟨20, 1, .rw⟩, ⟨15, 5, .rw⟩, ⟨14, 1, .rw⟩]⟩,
  ⟨.SMU_STAT, 0x400004, [(64, 0x40)], .smu, 0x300, [⟨10, 2, .ro⟩, ⟨9, 1, .ro⟩, ⟨8, 1, .ro⟩, ⟨7, 1, .w1c⟩, ⟨6, 1, .ro⟩, ⟨5, 1, .w1c⟩, ⟨4, 1, .ro⟩, ⟨3, 1, .ro⟩, ⟨2, 1, .w1c⟩, ⟨1, 1, .w1c⟩, ⟨0, 1, .w1c⟩]⟩,
  ⟨.SMU_FORCE, 0x400008, [(64, 0x40)], .smu, 0x0, [⟨0, 18, .rw⟩]⟩,
  ⟨.SMU_ICLAMP, 0x40000c, [(64, 0x40)], .smu, 0xffff, [⟨0, 16, .rw⟩]⟩,
  ⟨.SMU_VCLAMP, 0x400010, [(64, 0x40)], .smu, 0xffff0000, [⟨16, 16, .rw⟩, ⟨0, 16, .rw⟩]⟩,
  ⟨.SMU_CLEAR, 0x400014, [(64, 0x40)], .smu, 0x0, [⟨0, 18, .rw⟩]⟩,
  ⟨.DDS_FTW, 0x400018, [(64, 0x40)], .dds, 0x0, [⟨0, 32, .rw⟩]⟩,
  ⟨.DDS_AMPL, 0x40001c, [(64, 0x40)], .dds, 0x0, [⟨0, 17, .rw⟩]⟩,
  ⟨.DDS_PHASE, 0x400020, [(64, 0x40)], .dds, 0x0, [⟨0, 32, .rw⟩]⟩,
  ⟨.MEAS_LAST, 0x400024, [(64, 0x40)], .smu, 0x0, [⟨0, 32, .ro⟩]⟩]

def regRows30 : List RegRow := [
  ⟨.GRP_STAT, 0x402000, [(16, 0x20)], .grp, 0x0, [⟨31, 1, .ro⟩, ⟨30, 1, .ro⟩, ⟨25, 5, .ro⟩, ⟨23, 2, .ro⟩, ⟨17, 6, .ro⟩, ⟨16, 1, .ro⟩, ⟨15, 1, .w1c⟩, ⟨14, 1, .w1c⟩, ⟨13, 1, .w1c⟩, ⟨12, 1, .w1c⟩]⟩,
  ⟨.GRP_PDISS, 0x402004, [(16, 0x20)], .grp, 0x0, [⟨0, 16, .ro⟩]⟩,
  ⟨.QDROP_CNT, 0x402008, [(16, 0x20)], .grp, 0x0, [⟨31, 1, .sat⟩, ⟨0, 31, .cnt⟩]⟩,
  ⟨.DDS_START, 0x40200c, [(16, 0x20)], .ddsg, 0x0, [⟨4, 4, .wo⟩, ⟨0, 4, .wo⟩]⟩]

def regRows31 : List RegRow := [
  ⟨.MSET_CFG, 0x404000, [(16, 0x100), (16, 0x10)], .grp, 0x0, [⟨31, 1, .rw⟩, ⟨30, 1, .rw⟩, ⟨29, 1, .rw⟩, ⟨28, 1, .rw⟩, ⟨25, 3, .rw⟩, ⟨23, 2, .rw⟩, ⟨19, 4, .rw⟩, ⟨0, 16, .rw⟩]⟩,
  ⟨.MSET_FORCE, 0x404004, [(16, 0x100), (16, 0x10)], .grp, 0x0, [⟨0, 18, .rw⟩]⟩,
  ⟨.MSET_LO, 0x404008, [(16, 0x100), (16, 0x10)], .grp, 0x80000000, [⟨0, 32, .rw⟩]⟩,
  ⟨.MSET_HI, 0x40400c, [(16, 0x100), (16, 0x10)], .grp, 0x7fffffff, [⟨0, 32, .rw⟩]⟩]

def regRows32 : List RegRow := [
  ⟨.ACQ_CTL, 0x480000, [(4, 0x100)], .dig, 0x0, [⟨1, 1, .w1s⟩, ⟨0, 1, .w1s⟩]⟩,
  ⟨.ACQ_STAT, 0x480004, [(4, 0x100)], .dig, 0x1000000, [⟨29, 3, .ro⟩, ⟨26, 3, .ro⟩, ⟨25, 1, .ro⟩, ⟨24, 1, .ro⟩, ⟨4, 1, .w1c⟩, ⟨3, 1, .w1c⟩, ⟨2, 1, .w1c⟩, ⟨1, 1, .w1c⟩, ⟨0, 1, .w1c⟩]⟩,
  ⟨.ACQ_CFG, 0x480008, [(4, 0x100)], .dig, 0x0, [⟨0, 32, .ro⟩]⟩,
  ⟨.ACQ_IDX, 0x48000c, [(4, 0x100)], .dig, 0x0, [⟨0, 32, .ro⟩]⟩,
  ⟨.ACQ_DROP, 0x480010, [(4, 0x100)], .dig, 0x0, [⟨31, 1, .sat⟩, ⟨0, 31, .cnt⟩]⟩]

def regRows33 : List RegRow := [
  ⟨.HSE_SLOT_A, 0x500000, [(32, 0x2000), (256, 0x10)], .hall, 0x0, [⟨31, 1, .rw⟩, ⟨30, 1, .rw⟩, ⟨29, 1, .rw⟩, ⟨27, 2, .rw⟩, ⟨24, 3, .rw⟩, ⟨22, 2, .rw⟩, ⟨20, 2, .rw⟩, ⟨18, 2, .rw⟩, ⟨13, 5, .rw⟩, ⟨7, 6, .rw⟩]⟩,
  ⟨.HSE_SLOT_B, 0x500004, [(32, 0x2000), (256, 0x10)], .hall, 0x0, [⟨16, 16, .rw⟩, ⟨8, 8, .rw⟩]⟩,
  ⟨.HSE_SLOT_C, 0x500008, [(32, 0x2000), (256, 0x10)], .hall, 0x0, [⟨0, 32, .rw⟩]⟩,
  ⟨.HSE_SLOT_D, 0x50000c, [(32, 0x2000), (256, 0x10)], .hall, 0x0, [⟨16, 16, .rw⟩, ⟨8, 8, .rw⟩, ⟨0, 8, .rw⟩]⟩,
  ⟨.HSE_CTL, 0x501000, [(32, 0x2000)], .hall, 0x3, [⟨31, 1, .w1s⟩, ⟨8, 5, .rw⟩, ⟨0, 8, .rw⟩]⟩,
  ⟨.HSE_STAT, 0x501004, [(32, 0x2000)], .hall, 0x0, [⟨31, 1, .ro⟩, ⟨24, 7, .ro⟩, ⟨5, 1, .w1c⟩, ⟨4, 1, .w1c⟩, ⟨3, 1, .w1c⟩, ⟨2, 1, .w1c⟩, ⟨1, 1, .w1c⟩, ⟨0, 1, .w1c⟩]⟩,
  ⟨.HSE_LAST, 0x501008, [(32, 0x2000)], .hall, 0x0, [⟨24, 8, .ro⟩, ⟨12, 12, .ro⟩, ⟨0, 5, .ro⟩]⟩,
  ⟨.HSE_CRC, 0x50100c, [(32, 0x2000)], .hall, 0x0, [⟨0, 32, .ro⟩]⟩,
  ⟨.HSE_QDROP, 0x501010, [(32, 0x2000)], .hall, 0x0, [⟨31, 1, .sat⟩, ⟨0, 31, .cnt⟩]⟩,
  ⟨.LMAP_A, 0x501020, [(32, 0x2000), (8, 0x8)], .hall, 0x110c85, [⟨31, 1, .rw⟩, ⟨30, 1, .rw⟩, ⟨25, 5, .rw⟩, ⟨20, 5, .rw⟩, ⟨15, 5, .rw⟩, ⟨10, 5, .rw⟩, ⟨5, 5, .rw⟩, ⟨0, 5, .rw⟩]⟩,
  ⟨.LMAP_B, 0x501024, [(32, 0x2000), (8, 0x8)], .hall, 0x18e8, [⟨10, 5, .rw⟩, ⟨5, 5, .rw⟩, ⟨0, 5, .rw⟩]⟩]

def regRows34 : List RegRow := [
  ⟨.MSPI_WIN, 0x570000, [], .none, 0x0, [⟨0, 18, .ro⟩]⟩,
  ⟨.MSPI_STAT, 0x570004, [], .none, 0x0, [⟨19, 1, .w1c⟩, ⟨18, 1, .w1c⟩, ⟨17, 1, .w1c⟩, ⟨16, 1, .sat⟩, ⟨0, 16, .cnt⟩]⟩,
  ⟨.MSPI_ID, 0x570008, [], .none, 0x0, [⟨0, 32, .ro⟩]⟩,
  ⟨.BSPI_CTL, 0x571000, [], .none, 0x0, [⟨31, 1, .w1s⟩, ⟨30, 1, .rw⟩, ⟨29, 1, .rw⟩, ⟨25, 4, .rw⟩, ⟨17, 8, .rw⟩, ⟨0, 9, .rw⟩]⟩]

def regRows35 : List RegRow := [
  ⟨.BSPI_ADDR, 0x571004, [], .none, 0x0, [⟨0, 24, .rw⟩]⟩,
  ⟨.BSPI_STAT, 0x571008, [], .none, 0x0, [⟨1, 1, .w1c⟩, ⟨0, 1, .ro⟩]⟩,
  ⟨.BSPI_BUF, 0x571100, [(64, 0x4)], .none, 0x0, [⟨0, 32, .rw⟩]⟩]

def regRows36 : List RegRow := [
  ⟨.EV_CFG, 0x580000, [(64, 0x80)], .none, 0x0, [⟨31, 1, .rw⟩, ⟨30, 1, .rw⟩, ⟨27, 3, .rw⟩, ⟨26, 1, .rw⟩, ⟨19, 7, .rw⟩]⟩,
  ⟨.EV_STAT, 0x580004, [(64, 0x80)], .none, 0x0, [⟨1, 1, .w1c⟩, ⟨0, 1, .w1c⟩]⟩,
  ⟨.EV_CNT, 0x580008, [(64, 0x80)], .none, 0x0, [⟨31, 1, .sat⟩, ⟨0, 31, .cnt⟩]⟩,
  ⟨.EV_HALLS, 0x58000c, [(64, 0x80)], .none, 0x0, [⟨0, 32, .rw⟩]⟩,
  ⟨.EV_PMASK, 0x580010, [(64, 0x80), (8, 0x4)], .none, 0x0, [⟨0, 32, .rw⟩]⟩,
  ⟨.EV_CMASK, 0x580030, [(64, 0x80), (5, 0x4)], .none, 0x0, [⟨0, 32, .rw⟩]⟩]

def regRows37 : List RegRow := [
  ⟨.EV_SWSET, 0x582000, [(2, 0x4)], .none, 0x0, [⟨0, 32, .wo⟩]⟩,
  ⟨.EV_FLAGS, 0x582008, [(2, 0x4)], .none, 0x0, [⟨0, 32, .ro⟩]⟩,
  ⟨.EV_LOOP, 0x582010, [], .none, 0x0, [⟨31, 1, .sat⟩, ⟨0, 31, .cnt⟩]⟩,
  ⟨.EV_LOOP_LAST, 0x582014, [], .none, 0x0, [⟨0, 8, .ro⟩]⟩]

def regRows38 : List RegRow := [
  ⟨.EV_TRIGOUT_W, 0x582018, [], .none, 0x4, [⟨0, 8, .rw⟩]⟩,
  ⟨.EV_GSTAT, 0x58201c, [], .none, 0x0, [⟨3, 1, .w1c⟩, ⟨2, 1, .w1c⟩, ⟨1, 1, .w1c⟩, ⟨0, 1, .w1c⟩]⟩,
  ⟨.EV_OVR, 0x582020, [(5, 0x4)], .none, 0x0, [⟨0, 32, .w1c⟩]⟩,
  ⟨.EV_COIN, 0x582040, [(5, 0x4)], .none, 0x0, [⟨0, 32, .w1c⟩]⟩]

def regRows39 : List RegRow := [
  ⟨.EV_REFRACT, 0x582100, [(64, 0x4)], .none, 0x2020202, [⟨24, 8, .rw⟩, ⟨16, 8, .rw⟩, ⟨8, 8, .rw⟩, ⟨0, 8, .rw⟩]⟩]

def regRows40 : List RegRow := [
  ⟨.TM_CTL, 0x583000, [(16, 0x10)], .none, 0x0, [⟨31, 1, .w1s⟩, ⟨30, 1, .w1s⟩, ⟨29, 1, .rw⟩, ⟨28, 1, .rw⟩, ⟨27, 1, .rw⟩, ⟨26, 1, .ro⟩, ⟨25, 1, .ro⟩]⟩,
  ⟨.TM_DELAY, 0x583004, [(16, 0x10)], .none, 0x0, [⟨0, 24, .rw⟩]⟩,
  ⟨.TM_WIDTH, 0x583008, [(16, 0x10)], .none, 0x1, [⟨0, 24, .rw⟩]⟩,
  ⟨.TM_PERIOD, 0x58300c, [(16, 0x10)], .none, 0x2, [⟨0, 24, .rw⟩]⟩]

def regRows41 : List RegRow := [
  ⟨.GAL_CFG, 0x600000, [], .none, 0x3, [⟨16, 16, .rw⟩, ⟨15, 1, .rw⟩, ⟨8, 7, .rw⟩, ⟨3, 1, .rw⟩, ⟨2, 1, .rw⟩, ⟨1, 1, .rw⟩, ⟨0, 1, .rw⟩]⟩,
  ⟨.GAL_STAT, 0x600004, [], .none, 0x10, [⟨13, 1, .w1c⟩, ⟨12, 1, .w1c⟩, ⟨11, 1, .w1c⟩, ⟨10, 1, .w1c⟩, ⟨9, 1, .w1c⟩, ⟨8, 1, .w1c⟩, ⟨7, 1, .w1c⟩, ⟨6, 1, .w1c⟩, ⟨5, 1, .w1c⟩, ⟨4, 1, .ro⟩, ⟨3, 1, .ro⟩, ⟨2, 1, .ro⟩, ⟨1, 1, .ro⟩, ⟨0, 1, .ro⟩]⟩,
  ⟨.GAL_CTL, 0x600008, [], .none, 0x0, [⟨2, 1, .w1s⟩, ⟨1, 1, .w1s⟩, ⟨0, 1, .w1s⟩]⟩,
  ⟨.GAL_PEER_IDX, 0x60000c, [], .none, 0x0, [⟨30, 2, .wo⟩, ⟨0, 6, .rw⟩]⟩]

def regRows42 : List RegRow := [
  ⟨.GAL_PEER_INFO, 0x600010, [], .none, 0x0, [⟨29, 3, .ro⟩, ⟨27, 2, .ro⟩, ⟨19, 8, .ro⟩, ⟨3, 16, .ro⟩]⟩,
  ⟨.GAL_PEER_UID_LO, 0x600014, [], .none, 0x0, [⟨0, 32, .ro⟩]⟩,
  ⟨.GAL_PEER_UID_HI, 0x600018, [], .none, 0x0, [⟨0, 32, .ro⟩]⟩,
  ⟨.GAL_MAP_IDX, 0x60001c, [], .none, 0x0, [⟨7, 6, .rw⟩, ⟨0, 7, .rw⟩]⟩]

def regRows43 : List RegRow := [
  ⟨.GAL_MAP_DATA, 0x600020, [], .none, 0x0, [⟨0, 32, .ro⟩]⟩,
  ⟨.GAL_RX_DROP, 0x600024, [], .none, 0x0, [⟨31, 1, .sat⟩, ⟨0, 31, .cnt⟩]⟩,
  ⟨.PORT_LAT, 0x600030, [(2, 0x4)], .gp, 0x0, [⟨16, 16, .rw⟩, ⟨0, 16, .rw⟩]⟩,
  ⟨.TB0_STAT, 0x600040, [], .none, 0x0, [⟨16, 16, .ro⟩, ⟨4, 1, .ro⟩, ⟨3, 1, .ro⟩, ⟨0, 3, .ro⟩]⟩]

def regRows44 : List RegRow := [
  ⟨.TB0_RATE, 0x600044, [], .none, 0x0, [⟨0, 32, .ro⟩]⟩,
  ⟨.TB0_OFFSET, 0x600048, [], .none, 0x0, [⟨0, 32, .ro⟩]⟩,
  ⟨.PTP_CFG, 0x60004c, [], .none, 0x40fafa00, [⟨28, 4, .rw⟩, ⟨16, 8, .rw⟩, ⟨8, 8, .rw⟩, ⟨0, 8, .rw⟩]⟩,
  ⟨.TB_SNAP, 0x600050, [], .none, 0x0, [⟨31, 1, .w1s⟩]⟩]

def regRows45 : List RegRow := [
  ⟨.TBK_SNAP, 0x600054, [(3, 0xc), (3, 0x4)], .none, 0x0, [⟨0, 32, .ro⟩]⟩,
  ⟨.GAL_ALAT, 0x600100, [(32, 0x4)], .hall, 0x10400000, [⟨24, 8, .rw⟩, ⟨16, 8, .ro⟩, ⟨0, 16, .rw⟩]⟩]

def regRows46 : List RegRow := [
  ⟨.TT_CTL, 0x600200, [(8, 0x20)], .none, 0x0, [⟨31, 1, .w1s⟩, ⟨30, 1, .w1s⟩, ⟨29, 1, .rw⟩, ⟨28, 1, .ro⟩, ⟨27, 1, .w1c⟩, ⟨26, 1, .w1c⟩, ⟨25, 1, .w1c⟩]⟩,
  ⟨.TT_AT_LO, 0x600204, [(8, 0x20)], .none, 0x0, [⟨0, 32, .rw⟩]⟩,
  ⟨.TT_AT_HI, 0x600208, [(8, 0x20)], .none, 0x0, [⟨0, 32, .rw⟩]⟩,
  ⟨.TT_PERIOD, 0x60020c, [(8, 0x20)], .none, 0x8, [⟨0, 32, .rw⟩]⟩,
  ⟨.TT_WIDTH, 0x600210, [(8, 0x20)], .none, 0x4, [⟨0, 16, .rw⟩]⟩]

def regRows47 : List RegRow := [
  ⟨.THERM_STAT, 0x680000, [], .none, 0x0, [⟨30, 2, .ro⟩, ⟨29, 1, .ro⟩, ⟨28, 1, .ro⟩, ⟨27, 1, .w1c⟩, ⟨26, 1, .w1c⟩, ⟨25, 1, .w1c⟩, ⟨24, 1, .w1c⟩, ⟨23, 1, .w1c⟩, ⟨22, 1, .ro⟩, ⟨14, 8, .ro⟩, ⟨0, 6, .ro⟩]⟩,
  ⟨.THERM_CTL, 0x680004, [], .none, 0x0, [⟨31, 1, .rw⟩, ⟨24, 7, .rw⟩, ⟨0, 2, .rw⟩]⟩,
  ⟨.TEMP_MAX, 0x680008, [], .none, 0x0, [⟨16, 6, .ro⟩, ⟨0, 16, .ro⟩]⟩,
  ⟨.PBUDGET, 0x68000c, [], .none, 0x96, [⟨0, 8, .rw⟩]⟩]

def regRows48 : List RegRow := [
  ⟨.TH_CFG, 0x680010, [], .none, 0x6470695f, [⟨24, 8, .rw⟩, ⟨16, 8, .rw⟩, ⟨8, 8, .rw⟩, ⟨0, 8, .rw⟩]⟩,
  ⟨.TSD_CFG, 0x680014, [], .none, 0x7d, [⟨0, 8, .rw⟩]⟩,
  ⟨.TS_FAIL_LO, 0x680018, [], .none, 0x0, [⟨0, 32, .w1c⟩]⟩,
  ⟨.TS_FAIL_HI, 0x68001c, [], .none, 0x0, [⟨0, 8, .w1c⟩]⟩]

def regRows49 : List RegRow := [
  ⟨.HK_ROUND, 0x680020, [], .none, 0x0, [⟨0, 32, .ro⟩]⟩,
  ⟨.SCHED_FLOOR, 0x680100, [], .none, 0x1194, [⟨0, 16, .rw⟩]⟩,
  ⟨.SCHED_LEDGER, 0x680104, [], .none, 0x1194, [⟨0, 16, .ro⟩]⟩,
  ⟨.SCHED_MEAS, 0x680108, [], .none, 0x0, [⟨0, 16, .ro⟩]⟩]

def regRows50 : List RegRow := [
  ⟨.HK_DATA, 0x680200, [(64, 0x4)], .none, 0x0, [⟨31, 1, .ro⟩, ⟨30, 1, .ro⟩, ⟨0, 16, .ro⟩]⟩,
  ⟨.RAIL_WIN, 0x680300, [(9, 0x4)], .none, 0x0, [⟨16, 16, .rw⟩, ⟨0, 16, .rw⟩]⟩,
  ⟨.FLT_CTL, 0x700000, [], .none, 0x0, [⟨31, 1, .w1s⟩, ⟨30, 1, .rw⟩, ⟨29, 1, .rw⟩, ⟨28, 1, .rw⟩, ⟨21, 7, .rw⟩, ⟨14, 7, .rw⟩]⟩,
  ⟨.FLT_STATUS, 0x700004, [], .none, 0x0, [⟨31, 1, .ro⟩, ⟨30, 1, .ro⟩, ⟨29, 1, .ro⟩, ⟨28, 1, .ro⟩, ⟨27, 1, .w1c⟩, ⟨26, 1, .w1c⟩, ⟨0, 7, .ro⟩]⟩]

def regRows51 : List RegRow := [
  ⟨.FLT_GRAVE_SRC, 0x700008, [], .none, 0x0, [⟨31, 1, .sat⟩, ⟨16, 15, .cnt⟩, ⟨0, 9, .ro⟩]⟩,
  ⟨.FLT_LOG0, 0x700010, [], .none, 0x0, [⟨31, 1, .rc⟩, ⟨29, 2, .ro⟩, ⟨28, 1, .ro⟩, ⟨27, 1, .ro⟩, ⟨0, 9, .ro⟩]⟩,
  ⟨.FLT_LOG1, 0x700014, [], .none, 0x0, [⟨0, 32, .ro⟩]⟩,
  ⟨.FLT_LOG2, 0x700018, [], .none, 0x0, [⟨0, 32, .ro⟩]⟩]

def regRows52 : List RegRow := [
  ⟨.FLT_LOG3, 0x70001c, [], .none, 0x0, [⟨0, 32, .ro⟩]⟩,
  ⟨.UNIT_STATE, 0x700100, [(64, 0x4)], .none, 0x0, [⟨30, 2, .ro⟩, ⟨29, 1, .ro⟩, ⟨28, 1, .ro⟩, ⟨27, 1, .ro⟩, ⟨26, 1, .ro⟩, ⟨25, 1, .ro⟩, ⟨0, 9, .ro⟩]⟩,
  ⟨.FLT_CFG, 0x701000, [(512, 0x4)], .none, 0x3e8, [⟨30, 2, .rw⟩, ⟨16, 8, .rw⟩, ⟨0, 16, .rw⟩]⟩,
  ⟨.FLT_SRC_STAT, 0x701800, [(512, 0x4)], .none, 0x0, [⟨31, 1, .ro⟩, ⟨30, 1, .w1c⟩, ⟨29, 1, .w1c⟩, ⟨15, 1, .sat⟩, ⟨0, 15, .cnt⟩]⟩]

def regRows53 : List RegRow := [
  ⟨.CAL_CTL, 0x780000, [], .none, 0x40, [⟨31, 1, .rw⟩, ⟨30, 1, .rw⟩, ⟨0, 16, .rw⟩]⟩,
  ⟨.CAL_STAT, 0x780004, [], .none, 0x0, [⟨31, 1, .ro⟩, ⟨30, 1, .ro⟩, ⟨29, 1, .ro⟩, ⟨28, 1, .ro⟩, ⟨27, 1, .w1c⟩, ⟨26, 1, .w1c⟩]⟩,
  ⟨.CAL_GEN, 0x780008, [], .none, 0x0, [⟨0, 32, .ro⟩]⟩,
  ⟨.CAL_HALL, 0x780100, [(32, 0x4)], .hall, 0x0, [⟨31, 1, .ro⟩, ⟨30, 1, .ro⟩, ⟨29, 1, .ro⟩, ⟨10, 5, .ro⟩, ⟨5, 5, .ro⟩, ⟨0, 5, .ro⟩]⟩]

def regRows54 : List RegRow := [
  ⟨.CAL_GRP, 0x780180, [(16, 0x4)], .grp, 0x0, [⟨31, 1, .ro⟩, ⟨30, 1, .ro⟩, ⟨29, 1, .ro⟩, ⟨10, 5, .ro⟩, ⟨5, 5, .ro⟩, ⟨0, 5, .ro⟩]⟩,
  ⟨.JNL_STAT, 0x800000, [], .none, 0x0, [⟨31, 1, .ro⟩, ⟨30, 1, .ro⟩, ⟨29, 1, .ro⟩, ⟨28, 1, .ro⟩, ⟨27, 1, .ro⟩, ⟨0, 12, .ro⟩]⟩,
  ⟨.JNL_SEQ, 0x800004, [], .none, 0x0, [⟨0, 32, .ro⟩]⟩,
  ⟨.JNL_DROP, 0x800008, [], .none, 0x0, [⟨31, 1, .sat⟩, ⟨0, 31, .cnt⟩]⟩]

def regRows55 : List RegRow := [
  ⟨.RPL_POS, 0x80000c, [], .none, 0x0, [⟨0, 32, .ro⟩]⟩,
  ⟨.JNL_DIGEST, 0x800020, [(8, 0x4)], .none, 0x0, [⟨0, 32, .ro⟩]⟩,
  ⟨.RS_STAT, 0x880000, [], .raster, 0x0, [⟨30, 2, .ro⟩, ⟨29, 1, .ro⟩, ⟨28, 1, .ro⟩, ⟨24, 4, .ro⟩, ⟨6, 1, .w1c⟩, ⟨5, 1, .w1c⟩, ⟨4, 1, .w1c⟩, ⟨3, 1, .w1c⟩, ⟨2, 1, .w1c⟩, ⟨1, 1, .w1c⟩, ⟨0, 1, .w1c⟩]⟩,
  ⟨.RS_FRAME, 0x880004, [], .raster, 0x0, [⟨0, 32, .ro⟩]⟩]

def regRows56 : List RegRow := [
  ⟨.RS_POS, 0x880008, [], .raster, 0x0, [⟨16, 16, .ro⟩, ⟨0, 16, .ro⟩]⟩,
  ⟨.RS_UNDER_CNT, 0x88000c, [], .raster, 0x0, [⟨31, 1, .sat⟩, ⟨0, 31, .cnt⟩]⟩,
  ⟨.RS_RSEQ, 0x880010, [(4, 0x4)], .raster, 0x0, [⟨0, 32, .ro⟩]⟩,
  ⟨.RS_LANE, 0x880100, [(36, 0x4)], .raster, 0x0, [⟨31, 1, .rw⟩, ⟨30, 1, .rw⟩, ⟨28, 2, .rw⟩, ⟨10, 5, .rw⟩, ⟨0, 5, .rw⟩]⟩]

def regRows57 : List RegRow := [
  ⟨.UC_STAT, 0x900000, [], .none, 0x0, [⟨8, 4, .ro⟩, ⟨2, 1, .ro⟩, ⟨1, 1, .ro⟩, ⟨0, 1, .ro⟩]⟩,
  ⟨.UC_ROM_ID, 0x900004, [], .none, 0x0, [⟨0, 32, .ro⟩]⟩,
  ⟨.UC_PATCH_LEVEL, 0x900008, [], .none, 0x0, [⟨0, 32, .ro⟩]⟩,
  ⟨.UC_ROLLBACK, 0x90000c, [], .none, 0x0, [⟨16, 7, .ro⟩, ⟨0, 7, .ro⟩]⟩]

def regRows58 : List RegRow := [
  ⟨.UC_BODY_CRC, 0x900010, [], .none, 0x0, [⟨0, 32, .ro⟩]⟩,
  ⟨.UC_RD_IDX, 0x900014, [], .none, 0x0, [⟨0, 14, .rw⟩]⟩,
  ⟨.UC_RD_DATA, 0x900018, [], .none, 0x0, [⟨0, 32, .ro⟩]⟩,
  ⟨.UC_MATCH, 0x900040, [(16, 0x4)], .match, 0x0, [⟨31, 1, .ro⟩, ⟨16, 13, .ro⟩, ⟨0, 8, .ro⟩]⟩]

def regRows59 : List RegRow := [
  ⟨.UC_ENG, 0x900080, [(32, 0x4)], .hall, 0x0, [⟨30, 2, .ro⟩, ⟨29, 1, .w1c⟩, ⟨16, 6, .ro⟩, ⟨0, 14, .ro⟩]⟩]

/-- The rows that an offset within a hall's register block may belong to. -/
def hallRows (o : Nat) : List RegRow :=
  bif Nat.blt o 0x110 then
    bif Nat.blt o 0xa4 then
      bif Nat.blt o 0x60 then
        bif Nat.blt o 0x10 then
          regRows0
        else
          regRows1
      else
        bif Nat.blt o 0x84 then
          regRows2
        else
          bif Nat.blt o 0x94 then
            regRows3
          else
            regRows4
    else
      bif Nat.blt o 0xd0 then
        bif Nat.blt o 0xc0 then
          regRows5
        else
          regRows6
      else
        bif Nat.blt o 0xe0 then
          regRows7
        else
          bif Nat.blt o 0x104 then
            regRows8
          else
            regRows9
  else
    bif Nat.blt o 0x450 then
      bif Nat.blt o 0x400 then
        bif Nat.blt o 0x140 then
          regRows10
        else
          regRows11
      else
        bif Nat.blt o 0x410 then
          regRows12
        else
          bif Nat.blt o 0x440 then
            regRows13
          else
            regRows14
    else
      bif Nat.blt o 0x6000 then
        bif Nat.blt o 0x460 then
          regRows15
        else
          bif Nat.blt o 0x1000 then
            regRows16
          else
            regRows17
      else
        bif Nat.blt o 0x7000 then
          regRows18
        else
          bif Nat.blt o 0x7800 then
            regRows19
          else
            regRows20

/-- The rows that an address outside the halls' blocks may belong to. -/
def deviceRows (a : Nat) : List RegRow :=
  bif Nat.blt a 0x583000 then
    bif Nat.blt a 0x402000 then
      bif Nat.blt a 0x10000 then
        bif Nat.blt a 0x20 then
          bif Nat.blt a 0x10 then
            regRows21
          else
            regRows22
        else
          bif Nat.blt a 0x4000 then
            regRows23
          else
            regRows24
      else
        bif Nat.blt a 0x19000 then
          bif Nat.blt a 0x18000 then
            regRows25
          else
            regRows26
        else
          bif Nat.blt a 0x1a000 then
            regRows27
          else
            bif Nat.blt a 0x400000 then
              regRows28
            else
              regRows29
    else
      bif Nat.blt a 0x571004 then
        bif Nat.blt a 0x480000 then
          bif Nat.blt a 0x404000 then
            regRows30
          else
            regRows31
        else
          bif Nat.blt a 0x500000 then
            regRows32
          else
            bif Nat.blt a 0x570000 then
              regRows33
            else
              regRows34
      else
        bif Nat.blt a 0x582000 then
          bif Nat.blt a 0x580000 then
            regRows35
          else
            regRows36
        else
          bif Nat.blt a 0x582018 then
            regRows37
          else
            bif Nat.blt a 0x582100 then
              regRows38
            else
              regRows39
  else
    bif Nat.blt a 0x680200 then
      bif Nat.blt a 0x600054 then
        bif Nat.blt a 0x600010 then
          bif Nat.blt a 0x600000 then
            regRows40
          else
            regRows41
        else
          bif Nat.blt a 0x600020 then
            regRows42
          else
            bif Nat.blt a 0x600044 then
              regRows43
            else
              regRows44
      else
        bif Nat.blt a 0x680000 then
          bif Nat.blt a 0x600200 then
            regRows45
          else
            regRows46
        else
          bif Nat.blt a 0x680010 then
            regRows47
          else
            bif Nat.blt a 0x680020 then
              regRows48
            else
              regRows49
    else
      bif Nat.blt a 0x80000c then
        bif Nat.blt a 0x70001c then
          bif Nat.blt a 0x700008 then
            regRows50
          else
            regRows51
        else
          bif Nat.blt a 0x780000 then
            regRows52
          else
            bif Nat.blt a 0x780180 then
              regRows53
            else
              regRows54
      else
        bif Nat.blt a 0x900000 then
          bif Nat.blt a 0x880008 then
            regRows55
          else
            regRows56
        else
          bif Nat.blt a 0x900010 then
            regRows57
          else
            bif Nat.blt a 0x900080 then
              regRows58
            else
              regRows59


/-- The indices of an offset within the ranges of a register's dimensions, or `none` if it is not an instance. -/
def dimIndex : List (Nat × Nat) → Nat → Option (List Nat)
  | [], off => if off = 0 then some [] else none
  | (n, st) :: r, off =>
    if off / st < n then (dimIndex r (off % st)).map (fun l => off / st :: l) else none

/-- The instance of a register row at an address. -/
def RegRow.at? (r : RegRow) (a : Nat) : Option (List Nat) :=
  if a < r.base then none else dimIndex r.dims (a - r.base)

/-- The register at an address, with its indices, from a list of rows. -/
def findReg : List RegRow → Nat → Option (RegRow × List Nat)
  | [], _ => none
  | r :: rs, a =>
    match r.at? a with
    | some ix => some (r, ix)
    | none => findReg rs a

/-- The register at a BAR0 address; `none` for an address that no chapter assigns (R15). -/
def regAt (a : Nat) : Option (RegRow × List Nat) :=
  if 0x100000 ≤ a ∧ a < 0x300000 then findReg (hallRows ((a - 0x100000) % 0x10000)) a else findReg (deviceRows a) a

/-- CAP0 of a part (R267). -/
def cap0 (p : Part) : Nat :=
  p.fltMiB <<< 23 ||| (match p with | .f => 16 | _ => 8) <<< 18 ||| p.halls <<< 12 ||| p.smus <<< 5 |||
    p.digs <<< 2 ||| p.raster.toNat <<< 1 ||| p.dds.toNat

/-- CAP1 of a part (R267). -/
def cap1 (p : Part) : Nat :=
  p.galPorts <<< 30 ||| p.writableStore.toNat <<< 29 ||| (96 * p.halls) <<< 16 |||
    (match p with | .f => 128 | .b => 123 | .s => 63) <<< 8

/-- ID.PART of a part (R215, R266). -/
def partId : Part → Nat
  | .f => 0x7832 | .b => 0x783B | .s => 0x7816

/-- The number of the unit of R269 that a unit-state register index names is present on a part. -/
def unitPresent (p : Part) (u : Nat) : Bool :=
  if u < 32 then u < p.halls
  else if u < 48 then u - 32 < p.groups
  else if u < 52 then u - 48 < p.digs
  else if u = 52 then p.raster
  else u = 53

/-- Data port `i` belongs to a unit present on the part (R253, R4). -/
def portPresent (p : Part) (i : Nat) : Bool :=
  if i < 96 then i % 32 < p.halls
  else if i < 100 then i - 96 < p.digs
  else if i < 102 then true
  else i = 102 && p.raster

/-- The unit behind a register instance is present (R4). -/
def instPresent (p : Part) : UnitKind → List Nat → Bool
  | .none, _ => true
  | .hall, ix => ix.headD 0 < p.halls
  | .smu, ix => ix.headD 0 < p.smus
  | .grp, ix => ix.headD 0 < p.groups
  | .dds, ix => p.dds && decide (ix.headD 0 < p.smus)
  | .ddsg, ix => p.dds && decide (ix.headD 0 < p.groups)
  | .dig, ix => ix.headD 0 < p.digs
  | .raster, _ => p.raster
  | .ring, ix => match ix.headD 0 with | 2 => p.digs != 0 | 3 => p.raster | _ => true
  | .port, ix => portPresent p (ix.headD 0)
  | .dom, ix => unitPresent p (ix.headD 0)
  | .match, _ => !p.writableStore
  | .gp, ix => ix.headD 0 < p.galPorts

/-- STEP_MIN of a data port, as the STEP code (R253). -/
def stepMinCode (i : Nat) : Nat := if i < 32 then 2 else if i < 64 then 1 else 0

/-- The default class of a fault source: 0 NOTE, 1 MINOR, 2 MAJOR, 3 GRAVE (R469). -/
def srcClass (s : Nat) : Nat :=
  if s < 256 then (match s % 8 with | 2 | 6 | 7 => 2 | 3 | 4 => 1 | _ => 0)
  else if s < 320 then (match s % 4 with | 1 => 1 | 3 => 2 | _ => 0)
  else if s < 360 then 2
  else if s < 364 then 0
  else if s < 371 then 2
  else if s < 374 then 3
  else if s = 379 then 2
  else if s = 380 then 3
  else if s = 381 then 2
  else 0

/-- The supply windows of RAIL_WIN at reset: ±5 % of the nominal voltages, rounded inward, in mV (R467, R468). -/
def railWinReset (r : Nat) : Nat :=
  match r with
  | 0 => 0x076206AE
  | 1 => 0x031302C9
  | 2 => 0x04EC0474
  | 3 => 0x04830415
  | 4 => 0x01A4017C
  | 5 => 0x20D01DB0
  | 6 => 0xF4DEF3B2
  | 7 => 0x62705910
  | 8 => 0xA6F09D90
  | _ => 0

/-- Reset word of a register instance whose reset value depends on the index or the part. -/
def resetWord (p : Part) (r : RegRow) (ix : List Nat) : Nat :=
  match r.name with
  | .ID => partId p <<< 16 ||| Config.stepping.toNat
  | .CAP0 => cap0 p
  | .CAP1 => cap1 p
  | .DEV_UID_LO => (Config.devUid.extractLsb' 0 32).toNat
  | .DEV_UID_HI => (Config.devUid.extractLsb' 32 32).toNat
  | .PORT_CTL => stepMinCode (ix.headD 0)
  | .FLT_CFG => srcClass (ix.headD 0) <<< 30 ||| r.reset
  | .UNIT_STATE => r.reset
  | .PCLASS_PWR => 22 * (ix.getD 1 0 + 1)
  | .RAIL_WIN => railWinReset (ix.headD 0)
  | .GAL_CFG => if p.galPorts = 2 then r.reset else r.reset &&& 0xFFFFFFF5
  | _ => r.reset

/-- What a register address reads as until it is written: its reset value; zero for an address no chapter assigns
(R15) and for a register of an absent unit (R4).  UNIT_STATE of an absent unit reads ABSENT (R483). -/
def regReset (p : Part) (a : Nat) : Word :=
  match regAt a with
  | none => 0
  | some (r, ix) =>
    match r.name with
    | .UNIT_STATE => if unitPresent p (ix.headD 0) then BitVec.ofNat 32 (resetWord p r ix) else 0xC0000000
    | _ => if instPresent p r.unit ix then BitVec.ofNat 32 (resetWord p r ix) else 0


end Sys2Proof.Machine
end

