-- ==== Sys2Proof/Machine/Tab.lean ====
section
/-! DEFINITION. Sparse tables: lists of (key, value) pairs in one canonical form, strictly rising keys and no entry
equal to what an unlisted key reads as.  Registers, bulk memory and the per-unit contexts are kept in them. -/
namespace Sys2Proof.Machine

/-- What a table reads at a key; `d` gives the value of an unlisted key. -/
def tabGet {α : Type} (d : Nat → α) : List (Nat × α) → Nat → α
  | [], k => d k
  | (j, v) :: r, k => if j = k then v else tabGet d r k

/-- A table without its entries for a key. -/
def tabErase {α : Type} (k : Nat) : List (Nat × α) → List (Nat × α)
  | [] => []
  | (j, v) :: r => if j = k then tabErase k r else (j, v) :: tabErase k r

/-- A table with an entry put before the first larger key. -/
def tabIns {α : Type} (k : Nat) (v : α) : List (Nat × α) → List (Nat × α)
  | [] => [(k, v)]
  | (j, w) :: r => if j < k then (j, w) :: tabIns k v r else (k, v) :: (j, w) :: r

/-- A table written at a key: a value equal to the default removes the entry. -/
def tabSet {α : Type} [DecidableEq α] (d : Nat → α) (m : List (Nat × α)) (k : Nat) (v : α) : List (Nat × α) :=
  if v = d k then tabErase k m else tabIns k v (tabErase k m)

/-- Every key of the table is above `k`. -/
def tabAbove {α : Type} (k : Nat) : List (Nat × α) → Bool
  | [] => true
  | (j, _) :: r => decide (k < j) && tabAbove k r

/-- The canonical form: keys strictly rising, no entry equal to its default. -/
def tabWf {α : Type} [DecidableEq α] (d : Nat → α) : List (Nat × α) → Bool
  | [] => true
  | (k, v) :: r => tabAbove k r && decide (v ≠ d k) && tabWf d r

end Sys2Proof.Machine
end

