-- ==== Sys2Proof/Machine/State.lean ====
section
/-! DEFINITION. The state of the block, plain data.  Every register of the map lives in `regs` (a sparse table over the
reset values); the structures below hold the state that the manual gives the device besides its registers. -/
namespace Sys2Proof.Machine

/-- No command ends in a fault: the manual gives every row of its table an effect.  The one reason is never raised;
it stands here because the interface asks for a type with its reasons (safe). -/
inductive Fault where
  /-- Raised by nobody.  Safe. -/
  | none
  deriving DecidableEq, Repr

/-- Why a command has no meaning. -/
inductive Refusal where
  /-- Raised by a dispatch arm whose command is not modelled yet.  Safe: the machine stops. -/
  | notModelled (mnemonic : String)
  deriving DecidableEq, Repr

/-- What the device sends out of its pins and links, in the order in which it sends it. -/
inductive Out where
  /-- A write of `len` bytes to host memory, `val` little-endian (R218, R240). -/
  | hostWrite (addr len val : Nat)
  /-- A read of `len` bytes of host memory is issued (R225). -/
  | hostRead (addr len : Nat)
  /-- An MSI-X message of a vector (R251). -/
  | msix (vec : Nat)
  /-- A gallery frame: type, port and payload fields (R427). -/
  | frame (kind port : Nat) (payload : List Nat)
  /-- A word or byte shifted out of a serial port (R381, R385). -/
  | shift (port val : Nat)
  deriving DecidableEq, Repr

/-- A record for a result ring: 32 or 64 bytes, little-endian in `val` (R157, R158, R247, R501). -/
structure RingRec where
  len : Nat
  val : Nat
  deriving DecidableEq, Repr

/-- A descriptor in execution (R233, R239).  `did` tells it from every other descriptor started since reset. -/
structure DescRun where
  did : Nat
  qpos : Nat
  desc : BitVec 512
  acted : Bool
  dom : Nat                                 -- the domain it executes with (R222)
  own : Nat                                 -- the units that this domain owned as it started (R269)
  deriving DecidableEq, Repr

/-- A queue pair besides its registers (R223–R231). -/
structure QueueX where
  fetched : List (Nat × BitVec 512) := []   -- fetched entries not yet started, with their QPOS
  run : Option DescRun := none              -- the descriptor in execution
  held : Option Nat := none                 -- a completion to be written, phase bit clear
  fail : Option Nat := none                 -- QPOS of a failed fetch whose completion is still to come (R231)
  fence : Option (List (Nat × Nat) × Nat) := none  -- a FENCE: queues and counts waited for, WAITED (R241)
  heldVec : Bool := false                   -- that completion's IRQ_NOW
  heldFail : Bool := false                  -- that completion is the one of a failed fetch, which ends no descriptor (R231)
  tail : Nat := 0                           -- submission tail accepted
  cqHead : Nat := 0                         -- completion head accepted
  phase : Nat := 1                          -- phase of the completions written next (R227)
  doneCnt : Nat := 0                        -- descriptors completed since enable, modulo nothing
  startCnt : Nat := 0                       -- entries posted up to the tail since enable
  deriving DecidableEq, Repr

/-- A result ring besides its registers (R247, R248). -/
structure RingX where
  wait : List RingRec := []                 -- records waiting, oldest first
  sinceWb : Nat := 0                        -- records written since the last tail write-back
  drops : List (Nat × Nat × Nat × Nat) := []  -- per hall: records dropped since its last GAP, the first one's AXIS and TB0_NS (R157)
  deriving DecidableEq, Repr

/-- An MSI-X vector: its table entry and what it has counted (R251). -/
structure VecX where
  mask : Bool := true
  pend : Bool := false
  now : Bool := false
  cnt : Nat := 0
  addr : Nat := 0
  data : Nat := 0
  deriving DecidableEq, Repr

/-- A journal record (R501); `data` is bytes 16–27, or bytes 8–31 of a CONT record. -/
structure JRec where
  typ : Nat
  hall : Nat := 0xFF
  subj : Nat := 0
  seq : Nat := 0
  axis : Nat := 0
  arg : Nat := 0
  data : Nat := 0
  tb0 : Nat := 0
  deriving DecidableEq, Repr

/-- A REQUEST or HEV record whose reference snapshot has not been taken (R558): the record and its arrival cycle. -/
structure JDefer where
  hall : Nat
  entry : JRec
  cyc : Nat
  deriving DecidableEq, Repr

/-- The journal engine besides its registers (R500–R506). -/
structure JnlX where
  fifo : List JRec := []
  lost : Nat := 0                           -- records dropped since the last GAP
  lostSeq : Nat := 0                        -- SEQ of the first of them
  defer : List JDefer := []
  markQ : List Nat := []                    -- JOURNAL_MARK's queue of channels (R557)
  hash : List (Nat × Nat) := []             -- digests in computation: SEQ of the CONFIG group, digest (R508)
  frame : List JRec := []                   -- records of the JOURNAL frame being filled (R506)
  frameSeq : Nat := 0
  cycN : Nat := 0                           -- records at the FIFO's end that this core cycle produced (R502)
  deriving DecidableEq, Repr

/-- An occurrence on its way to the fault collector: source, DETAIL, raised by a wire fault. -/
structure FltIn where
  src : Nat
  detail : Nat
  wire : Bool
  alcs : List Nat := []                     -- alcoves of the device that the source acts on (R469)
  deriving DecidableEq, Repr

/-- An entry of the fault log (R479, R483). -/
structure FltLog where
  cls : Nat
  esc : Bool
  wire : Bool
  src : Nat
  tb0 : Nat
  detail : Nat
  count : Nat
  deriving DecidableEq, Repr

/-- The fault collector besides its registers (R469–R479). -/
structure FltX where
  input : List FltIn := []
  arrivals : List (Nat × List Nat) := []    -- per source, core cycles of the last occurrences, newest first
  log : List FltLog := []
  wires : List (Nat × Bool) := []           -- sources whose pair is at fault, and whether they reported by themselves (R473)
  deriving DecidableEq, Repr

/-- A staged ratio or phase change (R66): mode TREAD, the slot if any, the phase in ticks if any, the tread, and how
many landings it still lets pass (an ARM after a lead point skips the landing of that flight). -/
structure SynStage where
  tread : Bool
  slot : Option Nat
  phase : Option Int
  at_ : Nat
  skip : Bool
  deferred : Bool
  deriving DecidableEq, Repr

/-- A hall's follow loop and synthesizer besides their registers (R45–R69). -/
structure AxisX where
  lockFreq : Nat := 0                       -- FOLLOW_FREQ at the last entry into LOCKED (R53)
  rate : Nat := 0                           -- source frequency before the pre-divider in this tread, in Hz (R64)
  hist : List (Nat × Nat) := []             -- that of the last 1,028 treads: frequency and treads, newest first (R58)
  acc : Nat := 0                            -- fraction of a tread elapsed, in units of 1/(500 MHz × (PREDIV + 1)) of it
  pull : Int := 0                           -- distance still to be slewed to the source edges, in 1/65,536 tread (R59)
  zeroNext : Bool := false                  -- the next tread has position 0 (R56)
  sacc : Nat := 0                           -- phase accumulator of the synthesizer, in 2^-64 of a sample period (R61)
  per : Nat := 0                            -- sample periods begun since the present tread started
  stage : Option SynStage := none
  phase : Int := 0                          -- phase offset applied, in ticks (R68)
  phaseRem : Int := 0                       -- phase offset still to be slewed, in ticks (R68)
  landTs : List (Nat × Nat) := []           -- ratio slots that timing sets have named at this landing, by alcove (R65)
  landStaged : Bool := false                -- a staged slot has applied at this landing (R67)
  deskewUse : List (Nat × Nat) := []        -- per channel, the deskew taps its edges use (R75)
  tsUse : List (Nat × Nat) := []            -- per channel, the timing set it used while a bank was last live (R70)
  deriving DecidableEq, Repr

/-- A STOP_RUN that waits for its landings (R245). -/
structure StopRun where
  did : Nat
  halls : Nat
  stopped : Nat := 0
  late : Nat := 0
  alcs : Nat := 0
  deriving DecidableEq, Repr

/-- A START_RUN that waits for the first decisions that slices put off (R243, R244, R487). -/
structure StartWait where
  did : Nat
  halls : Nat
  tb0 : Nat
  deriving DecidableEq, Repr

/-- A flight descriptor (R92); `st` is 0 EMPTY, 1 LOADING, 2 VALID, 3 ACTIVE. -/
structure FlightX where
  st : Nat := 0
  start : Nat := 0
  len : Nat := 0
  pclass : Nat := 0
  pinnable : Bool := false
  trigger : Bool := false
  stretchable : Bool := false
  crc : Nat := 0
  opened : Bool := false                    -- LOADING by MODE OPEN
  dma : Option Nat := none                  -- the descriptor whose DMA load is running
  deriving DecidableEq, Repr

/-- A frame of a loop stack (R130). -/
inductive Frame where
  | loop (addr endA count : Nat) (refs : List Nat)
  | call (ret : Nat)
  deriving DecidableEq, Repr

/-- The part of an alcove's context that a landing engine works on in a copy (R129, R165).  `rep` counts the plays of
the PLAYN at `pc` that have started. -/
structure StairCtx where
  pc : Nat := 0
  stack : List Frame := []                  -- top first
  cnt : List Nat := [0, 0, 0, 0]
  acc : List Int := [0, 0, 0, 0]
  uflags : Nat := 0
  bin : Nat := 0xFFFF
  rep : Nat := 0
  csat : Bool := false
  deriving DecidableEq, Repr

/-- A register of the landing engine (R166): its word, and the operands of the addition or subtraction that gave it, of
which CLAMP forms the exact result (R168): subtraction, first source, second source. -/
structure UReg where
  val : BitVec 32 := 0
  sum : Option (Bool × BitVec 32 × BitVec 32) := none
  deriving DecidableEq, Repr

/-- The work registers, micro return stack and ALU flags of a landing engine (R166). -/
structure MicroX where
  w : List (Nat × UReg) := []
  ret : List Nat := []                      -- top first
  z : Bool := false
  n : Bool := false
  c : Bool := false
  v : Bool := false
  deriving DecidableEq, Repr

/-- What of an alcove's context besides its stair context the last dispatch committed (R165, R188). -/
structure AlcSeen where
  status : Nat := 0
  fails : Nat := 0
  failsSat : Bool := false
  firstEntry : Option Nat := none
  firstFlight : Option Nat := none
  flogCount : Nat := 0
  deriving DecidableEq, Repr

/-- The terminator at which a segment ended (R138), with what the landing needs of it. -/
inductive Term where
  | none
  | play (f : Nat)
  | brw (mode mask target timeout : Nat)
  | sync (line target mode mask : Nat)
  | yield
  | halt
  | stop
  | fault (cause : Nat)
  deriving DecidableEq, Repr

/-- An alcove besides its ALC_STATE word (R129, R156, R185), by its number in the device. -/
structure AlcX where
  own : Nat := 0
  gmask : Nat := 0
  ctx : StairCtx := {}
  termAt : Nat := 0                         -- address of the pending terminator
  term : Term := .none
  joined : Bool := true
  sdone : Bool := false
  smis : Bool := false
  mdone : Bool := false
  mout : Bool := false
  lastMeas : Int := 0                       -- code of the last finished MEAS
  measNo : Nat := 0                         -- MEASs that the alcove has started (R134)
  seen : AlcSeen := {}                      -- what a read of a LIVE alcove returns (R188)
  fails : Nat := 0
  failsSat : Bool := false
  firstEntry : Option Nat := none
  firstFlight : Option Nat := none
  flogCount : Nat := 0
  failEntry : Option Nat := none            -- entry of the flight playing that last counted in FAILS
  winFails : Nat := 0                       -- entries failed since the hall's last lead point
  cur : Option Nat := none                  -- current flight (R96)
  next : Option Nat := none                 -- scheduled next flight (R96)
  resamples : Nat := 0                      -- re-samples taken at the BRW it waits at (R150)
  lastSend : Nat := 0                       -- number of the alcove's last SEND (R374)
  deriving DecidableEq, Repr

/-- Where a member of the engine's cohorts stands. -/
inductive MemSt where
  | run | ended | gone
  deriving DecidableEq, Repr

/-- A member of the cohorts of a landing: its working copy, its snapshot word, the entries it failed in the window, the
instructions it has executed (R137–R140, R165). -/
structure Member where
  i : Nat
  ctx : StairCtx
  cond : Nat
  win : Nat
  n : Nat := 0
  st : MemSt := .run
  termAt : Nat := 0
  term : Term := .none
  status : Nat := 0                         -- SDONE, SMIS, MDONE, MOUT in bits 3 to 0
  wrote : Bool := false                     -- the microcode has written them
  lanes : List (Nat × UReg) := []
  tq : List Nat := []                       -- the test latches that are set
  deriving DecidableEq, Repr

/-- An effect that a segment stages for the landing (R138), in the order of execution. -/
inductive Staged where
  | sett (i ts : Nat) | setl (i ls : Nat) | send (i slot : Nat) | tdc (i mset : Nat) | meas (i ch mset : Nat)
  | emit (ev : Nat) | waita (pos : Nat) | gap (treads : Nat)
  deriving DecidableEq, Repr

/-- The action of a landing, formed from the pacing alcove's terminator (R141). -/
inductive Action where
  | play (f : Nat) (stall : Bool)
  | brw
  | sync (line : Nat)
  | swap                                    -- YIELD, or no alcove left LIVE (R152)
  | park                                    -- thermal park (R172, R212)
  deriving DecidableEq, Repr

/-- A loop-cache reservation (R109). -/
structure CacheRes where
  flight : Nat
  granules : Nat
  pinned : Bool
  deriving DecidableEq, Repr

/-- Drive state of a channel (R87): driver on, last driven data value, and the level that the driver holds after the last
edge of the period, which formats RZ and RO set back (R72). -/
structure DriveSt where
  on : Bool := false
  val : Bool := false
  lvl : Bool := false
  deriving DecidableEq, Repr

/-- What one site bank of a hall keeps (R87, R205, R212). -/
structure BankX where
  drive : List (Nat × DriveSt) := []        -- per channel slot
  park : Option Action := none              -- pending action of a thermal park
  parkStaged : List Staged := []
  seen : Bool := false                      -- has been live since START_RUN
  dlSeen : Bool := false                    -- this deadline has passed since it was written (R206)
  dlTread : Option Nat := none              -- tread in which it was written
  smuClaim : Option Nat := none             -- SMU group claimed (R211)
  weight : Nat := 1                         -- WEIGHT fixed at its last admission (R205, R214)
  deriving DecidableEq, Repr

/-- The landing engine of a hall and the requests that wait for a landing (R137–R147, R165, R172). -/
structure EngX where
  snapCyc : Nat := 0                        -- core cycle of the last snapshot (R558)
  snap : Nat := 0                           -- condition bits 7–27 of the last snapshot
  run : Bool := false                       -- segments are being run
  micro : MicroX := {}
  members : List Member := []
  cycles : Nat := 0                         -- C of R140
  staged : List Staged := []
  maskUsed : Nat := 0                       -- MASK bits named by the instructions of this landing (R144)
  action : Option Action := none            -- the decision, until it acts
  hev : Nat := 0                            -- HEV latches
  hevLate : Nat := 0                        -- HEV inputs asserted after the snapshot and before the landing
  hevStall : Nat := 0                       -- HEV inputs asserted in a stall (R117)
  hevLand : Nat := 0                        -- those of the landing held, for its segments still to run (R144)
  lateDone : Bool := false                  -- LATE_JUMP has been set at the landing held
  jump : Option Nat := none                 -- target of a jump request
  jumpLate : Bool := false                  -- it arrived after the snapshot
  stops : List Nat := []                    -- STOP_RUN descriptors waiting for their landing
  stopLate : Bool := false
  park : Bool := false                      -- thermal park pending (R172)
  xfaults : List (Nat × Nat) := []          -- alcoves faulted by other units at the next ENDI, with cause
  deriving DecidableEq, Repr

/-- Why a hall holds at a landing, and what it then starts. -/
structure HoldX where
  tread : Nat := 0                          -- tread L of the landing (R151)
  tb0 : Nat := 0                            -- TB0 nanoseconds of the landing (R158)
  target : Option Nat := none               -- flight to start when no hold remains
  stretch : Option Nat := none              -- treads after the landing at which the stretch ends (R108)
  release : Option Nat := none              -- treads after the landing at which WAITA or GAP releases (R148, R149)
  stall : Option Nat := none                -- flight a stall waits for (R113)
  stallEnd : Bool := false                  -- the record of a stall's end is still to be written (R118)
  head : Bool := false                      -- head fill after a head miss (R142)
  seg : Bool := false                       -- segment hold (R140)
  segTreads : Nat := 0                      -- its treads so far
  dec : Bool := false                       -- a further decision of this landing is awaited (R145, R150, R151, R199)
  kept : Bool := false                      -- the scheduler has kept the yielding bank (R200)
  brw : Bool := false                       -- the pacing alcove waits at a BRW (R150)
  brwFrom : Nat := 0                        -- tread after which its next re-sample falls
  sync : Option Nat := none                 -- line of the SYNC held for (R151)
  syncSeen : Option Bool := none            -- the sample taken; the first entry waits for its tread (R436)
  swap : Bool := false                      -- a swap has started and has not settled (R198)
  swapWait : Option Nat := none             -- incoming bank of a swap that waits for a SEND (R201)
  selected : Bool := false                  -- the incoming SITESEL has been asserted
  resume : Bool := false                    -- the landing is a resume landing (R199)
  held : Bool := false                      -- the hold vector has played at this landing
  deriving DecidableEq, Repr

/-- A hall's playback, flight bookkeeping and scheduler besides its registers. -/
structure HallX where
  eng : EngX := {}
  hold : HoldX := {}
  play : Option Nat := none                 -- flight playing
  landed : Bool := false                    -- at a landing, with something still to come
  counted : Bool := false                   -- the landing's action on the axis and the levels has been taken
  landDue : Bool := false                   -- the flight's last entry ends in this core cycle (R41)
  entry : Nat := 0                          -- entries of the flight playing that are over
  leadTaken : Bool := false                 -- the lead point of the flight playing has been taken
  stretchNext : Nat := 0                    -- treads of the stretch that lead point asked for (R108)
  heads : List Nat := []                    -- flights in the head buffers (R142)
  cache : List CacheRes := []               -- loop-cache reservations (R109)
  startTread : Nat := 0                     -- tread of the first entry of the flight playing
  bankTread : Nat := 0                      -- tread of the live bank's first entry (R205)
  bankBegun : Bool := false
  resv : Nat := 0                           -- reservation of the live bank, 10 mW (R208)
  admClass : Nat := 0                       -- its admission class, and the load fixed with it (R210)
  admLoad : Nat := 0
  swapTread : Nat := 0                      -- tread of the last swap point (R205)
  backup : List (Nat × AlcX) := []          -- contexts before the last dispatch, until its landing (R42)
  driveLine : Option Nat := none            -- GTL line driven for a SYNC, and the tread of its dispatch (R436)
  driveTread : Nat := 0
  sitesel : Nat := 0                        -- SITESEL asserted: 0 none, 1 A, 2 B, 3 C (R197)
  loopRefs : List (Nat × List Nat) := []    -- reference sets by LOOP address (R128)
  loading : List (Nat × Nat × Nat) := []    -- LOAD_STAIRs copying: descriptor, START, COUNT
  holdUse : List (Nat × Nat) := []          -- HOLD_VEC words in use, over the reset words (R121)
  trigOut : Bool := false                   -- flight pulse on the mapped TRIGOUT pin (R107)
  banks : List (Nat × BankX) := []
  fltSnap : Nat × Nat × Nat := (0, 0, 0)    -- the snapshot that a read of FLT_DESC_LO takes (R121)
  deriving DecidableEq, Repr

/-- The record every level set holds after reset (R275): 0x6666 in the five voltage codes, 0 elsewhere. -/
def lvlReset : BitVec 128 := 0x00000000000066666666666666666666#128

/-- A PE channel besides its registers, keyed by 32 h + c (R270–R300). -/
structure ChX where
  lvl : BitVec 128 := lvlReset              -- record last applied (R277)
  wait : Option (BitVec 128) := none        -- the application that waits for the bridge to end (R283)
  pend : Bool := false                      -- its codes go out at the next converter update
  bridge : Nat := 0                         -- 0 none, 1 requested, 2 crossed over, 3 target applied (R282)
  arch : Nat := 0                           -- architecture in which the voltage DACs run (R271, R273)
  settle : Bool := false                    -- COMP_SETTLE (R288)
  pp : Bool := false                        -- the parametric path acts (R294)
  cal : Bool := false                       -- a calibration slice measures the channel (R486)
  hi : Bool := false                        -- the high comparator reads "above" (R287)
  lo : Bool := false                        -- the low comparator reads "above"
  tripDrv : Bool := false                   -- targets of the latched trip (R291)
  tripHall : Bool := false
  deriving DecidableEq, Repr

/-- A TOUCHDOWN in progress (R194–R196). -/
structure TouchX where
  did : Nat
  banks : List Nat                          -- banks still to test, the current one first
  phase : Nat                               -- 0 select gap, 1 SETTLE, 2 MSETTLE, 3 aperture
  apply : Bool
  vopen : Nat
  vshort : Nat
  result : Nat                              -- three 64-bit fields of 2-bit codes
  done : Nat := 0                           -- mask of the banks tested
  deriving DecidableEq, Repr

/-- The parametric and clear logic of a hall (R195, R295, R297). -/
structure PeHallX where
  ppPhase : Nat := 0                        -- 0 idle, 1 select gap, 2 SETTLE, 3 MSETTLE, 4 aperture
  ppBank : Nat := 0
  ppMask : Nat := 0
  ppWait : Bool := false                    -- a GO waits for the end of a calibration slice (R488)
  touch : Option TouchX := none
  reapply : Bool := false                   -- full levels go out at the next landing or update (R297)
  deriving DecidableEq, Repr

/-- What a force update gives an SMU channel: mode, span, current range, force code and clamps (R304–R308). -/
structure SmuSet where
  mode : Nat := 0
  span : Nat := 0
  irange : Nat := 0
  code : Nat := 0
  iclamp : Nat := 0xFFFF
  vclHi : Nat := 0xFFFF
  vclLo : Nat := 0
  given : Bool := false                     -- its code was forced since the last clear (R324)
  deriving DecidableEq, Repr

/-- An SMU channel besides its registers (R304–R324). -/
structure SmuX where
  dac : Nat := 0                            -- code at the force DAC, the DDS included
  use : SmuSet := {}                        -- in use
  want : SmuSet := {}                       -- asked for by the latest change that has begun
  pend : Bool := false                      -- it goes out at the next force update
  wait : Option SmuSet := none              -- the latest change that waits for a bridge to end
  bridge : Nat := 0                         -- 0 none, 1 requested, 2 crossed over, 3 target applied (R313)
  closed : Bool := false                    -- output switch closed
  stage : Bool := false                     -- output stage on
  tripHall : Option Nat := none             -- hall whose drivers the latched compliance trip holds off
  acc : Nat := 0                            -- phase accumulator
  ph : Nat := 0                             -- phase offset in use
  phTo : Nat := 0                           -- its target, the step and the updates left of the slew (R321)
  phStep : Int := 0
  phLeft : Nat := 0
  rel : Bool := false                       -- released from the safe state, no force update since (R323)
  acts : List Bool := []                    -- starts (true) and stops asked for since the last force update (R320)
  waitActs : List Bool := []                -- those that go out with the change that waits for a bridge (R315)
  stop : Bool := false                      -- a stop waits for the wrap (R322)
  deriving DecidableEq, Repr

/-- A measure request (R315). -/
structure MeasReq where
  hall : Nat
  alc : Nat
  bank : Nat
  ch : Nat
  mset : Nat
  applied : Bool := false                   -- its force has gone out
  delayed : Bool := false                   -- its DELAY has expired
  n : Nat := 0
  sum : Int := 0
  tripped : Bool := false
  no : Nat := 0                             -- number of the MEAS among those of its alcove (R134)
  deriving DecidableEq, Repr

/-- An SMU converter group besides its registers (R302, R312, R315). -/
structure GrpX where
  flight : List MeasReq := []               -- requests on their way to the group
  queue : List MeasReq := []
  adcCh : Option Nat := none                -- channel of the ADC's previous conversion
  deriving DecidableEq, Repr

/-- A channel's stats engine and TDC besides the registers (R332–R336), keyed by 32 h + c. -/
structure TdcX where
  run : Option Nat := none                  -- the set running on the channel
  stops : List Nat := []                    -- stops of the open sample, ps from the start, oldest first
  lastStops : List Nat := []                -- stops of the last sample
  lastStamp : Option Nat := none
  queue : List Int := []                    -- values waiting for the engine
  n : Nat := 0
  ref : Int := 0
  sum : Int := 0
  sumsq : Nat := 0
  sqSat : Bool := false
  min : Int := 0
  max : Int := 0
  last : Int := 0
  byHost : Bool := false                    -- started by GO
  alc : Nat := 0                            -- alcove of the set, for TDCQ records
  deriving DecidableEq, Repr

/-- The sample of a running INTERVAL set, keyed by 64 h + m (R332). -/
structure SampleX where
  start : Option Nat := none                -- start stamp of the open sample, ps
  ended : Option Nat := none                -- stamp at which the last sample ended
  at_ : Option Nat := none                  -- treads since the last AXIS start on the grid
  noref : Bool := false                     -- the open sample overlaps a loss of REFCLK (R341)
  deriving DecidableEq, Repr

/-- A hall's regression engine (R337, R338). -/
structure RegX where
  run : Bool := false
  open_ : Bool := false
  set : Nat := 0
  slot : Nat := 0
  alc : Nat := 0
  byHost : Bool := false
  d : Nat := 1
  events : Nat := 0                         -- events counted since the gate opened
  k : Nat := 0                              -- stamps taken
  first : Nat := 0                          -- first stamp, ps
  firstK : Nat := 0
  last : Nat := 0
  lastAll : Option Nat := none
  a1 : Nat := 0
  a2 : Nat := 0
  s1 : Nat := 0
  s2 : Nat := 0
  q : Nat := 0
  lost : Nat := 0
  klim : Bool := false
  noref : Bool := false
  done : Bool := false
  aborted : Bool := false
  gateTb0 : Nat := 0
  gateAxis : Nat := 0
  freq : Nat := 0
  resid : Nat := 0
  invalid : Bool := false
  gate : Nat := 0
  dec : Nat := 0
  deriving DecidableEq, Repr

/-- A SEND request of a hall serial engine (R373); `seq` tells an alcove's last SEND. -/
structure SendReq where
  alc : Nat
  slot : Nat
  seq : Nat
  bank : Nat
  deriving DecidableEq, Repr

/-- A SERIAL_XFER in progress (R378–R380): waiting for SITESEL's SETTLE, or running. -/
structure XferX where
  did : Nat
  slot : Nat
  bank : Nat
  base : Nat
  running : Bool
  deriving DecidableEq, Repr

/-- A hall serial engine besides its registers. -/
structure HseX where
  flight : List SendReq := []               -- requests on their way to the engine
  queue : List SendReq := []
  run : Option SendReq := none
  xfer : Option XferX := none
  lost : Bool := false                      -- a lane of the transfer running has not been driven (R367, R380)
  sent : Nat := 0                           -- SENDs numbered so far
  deriving DecidableEq, Repr


/-- A digitiser besides its registers (R350–R362). -/
structure DigX where
  desc : BitVec 512 := 0                    -- the ACQ_ARM of the acquisition
  did : Option Nat := none                  -- that ACQ_ARM, until storing begins
  next : Option Nat := none                 -- an ACQ_ARM with ABORT that waits for the record to be written
  nextDesc : BitVec 512 := 0
  settled : Bool := false                   -- raw sample 0 has passed
  tap : Bool := false                       -- the tap to the source is closed (R347)
  since : Nat := 0                          -- core cycle at which the stored samples were last told
  idx : Nat := 0                            -- stored samples
  segs : List (Nat × Nat) := []             -- segments: DEC, first index
  raisedAt : Option Nat := none             -- stored samples when DEC was last raised
  trig : Option Nat := none                 -- trigger sample
  stamp : Nat := 0                          -- trigger stamp, 2^-16 ns
  frac : Nat := 0
  flags : Nat := 0                          -- FLAGS of the record
  firstDrop : Option Nat := none
  dropped : Nat := 0
  slot : Option RingRec := none             -- the single record slot (R351)
  evTrig : Bool := false                    -- ACQ_TRIG_IN asserted, on its way to the digitiser
  aborted : Bool := false                   -- the ACQ_ARM has aborted a running acquisition
  deriving DecidableEq, Repr

/-- A commit that waits for its window (R396); `missed` until the window that it missed has passed, `due` from the
start of blanking at which it applies. -/
structure RsPend where
  did : Nat
  seq : Nat
  block : BitVec 2048
  late : Bool
  missed : Bool
  due : Bool
  deriving DecidableEq, Repr

/-- The raster stimulus unit besides its registers (R387–R404). -/
structure RsX where
  block : BitVec 2048 := 0                  -- the commit block in force
  pend : Option RsPend := none
  kill : Option (Nat × Nat × Nat) := none   -- descriptor, SEQ and KMASK of a kill that waits for the next line
  killed : Nat := 0                         -- layers killed, which show FILL
  retiring : List (Nat × Nat × Bool) := []  -- layer, RSEQ and KILLED of the buffers that await RS_FRAME_DONE
  under : List (Nat × Nat × Nat) := []      -- underruns of the frame: layer, line, pixels that show FILL (R394)
  queue : List RingRec := []                -- retire and underrun records
  drops : Nat × Nat := (0, 0)               -- UNDERRUN records dropped since the last GAP, TB0_NS of the first
  deriving DecidableEq, Repr

/-- An entry of the peer table besides what the registers show of it (R429, R430). -/
structure PeerX where
  st : Nat := 0                             -- 0 FREE, 1 NEW, 2 LOCKED, 3 ADMITTED, 4 LOST
  uid : Nat := 0
  ports : Nat := 0
  flags : Nat := 0
  epoch : Nat := 0
  map : Nat := 0                            -- MAP of its last FAILMAP
  deriving DecidableEq, Repr

/-- The gallery and the PTP engine besides their registers (R427–R446). -/
structure GalX where
  seqHello : Nat := 0                       -- SEQ of the next frame of each TYPE
  seqMap : Nat := 0
  seqJnl : Nat := 0
  lastSync : Option (Int × Int) := none     -- stamp and receive stamp of the last Sync, 2^-16 ns
  reqStamp : Option Int := none             -- transmit stamp of the last Delay_Req
  delay2 : Option Int := none               -- twice the path delay measured
  syncs : Nat := 0                          -- Sync exchanges counted in UNSET
  run : Nat := 0                            -- consecutive Syncs that meet the condition of the state
  off2 : Option Int := none                 -- twice the offset measured at a Sync since the state was entered
  deriving DecidableEq, Repr

/-- A time-trigger output besides its registers (R445): the target it fires at next, and its pin. -/
structure TtX where
  next : Nat := 0
  pin : Bool := false
  fall : Nat := 0                           -- TB1 at which the pulse ends
  deriving DecidableEq, Repr

/-- An ADMIT_UNIT whose unit is warming (R481): of a unit, or of a hall's serial engine alone. -/
structure AdmitX where
  did : Nat
  unit : Nat
  sub : Bool
  deriving DecidableEq, Repr

/-- A temperature sensor besides its registers (R457, R460). -/
structure SensX where
  bad : Nat := 0                            -- consecutive invalid rounds
  good : Nat := 0                           -- consecutive valid rounds
  last : Option Int := none                 -- last valid reading
  failed : Bool := false
  deriving DecidableEq, Repr

/-- A flag A_k with its counts (R452). -/
structure FlagX where
  set : Bool := false
  entry : Nat := 0
  exit : Nat := 0
  deriving DecidableEq, Repr

/-- A supply rail besides its registers (R466, R467). -/
structure RailX where
  out : Nat := 0                            -- consecutive rounds outside its window
  cur : List Nat := []                      -- current readings of the last 8 rounds, newest first, 0 for an invalid one
  volt : Int := 0                           -- the last valid voltage reading
  deriving DecidableEq, Repr

/-- The thermal control besides its registers (R449–R467). -/
structure ThermX where
  sens : List (Nat × SensX) := []
  flags : List (Nat × FlagX) := []          -- A_1 to A_3
  overrides : List Nat := []                -- the sensors of R458 that stay failed
  rails : List (Nat × RailX) := []
  adcBad : Nat := 0                         -- consecutive rounds of HK62 or HK63 outside
  adcBad2 : Nat := 0
  roundLevel : Nat := 0                     -- level in force at the start of the round
  sdRound : Bool := false                   -- the round began before the shutdown
  cool : Option Nat := none                 -- length of the cool period, in 10 µs
  sdLevel : Nat := 0                        -- level at the shutdown
  sdTb1 : Nat := 0                          -- TB1 latched at the shutdown
  deriving DecidableEq, Repr

/-- What a CAL_RUN has measured of one item on one unit (R484, R494): the channels so far, whether they have passed, and
the targets found. -/
structure CalPart where
  item : Nat
  unit : Nat
  mask : Nat := 0
  ok : Bool := true
  targets : List (Nat × Int) := []
  done : Bool := false
  deriving DecidableEq, Repr

/-- A CAL_RUN in progress (R493, R494). -/
structure CalRunX where
  did : Nat
  items : Nat
  halls : Nat
  groups : Nat
  parts : List CalPart
  changed : Bool := false                   -- some target has changed
  due : Nat := 0                            -- its deadline on TB1
  deriving DecidableEq, Repr

/-- A slice in progress (R486): the unit, the item and the channels of the unit that it measures. -/
structure SliceX where
  unit : Nat
  item : Nat
  chans : Nat
  delayed : Bool := false                   -- it has delayed play (R487)
  deriving DecidableEq, Repr

/-- A BIST_RUN in progress (R497, R498).  `held` are the fences that have arrived during it: cause bit and source. -/
structure BistX where
  did : Nat
  unit : Nat
  kind : Nat
  held : List (Nat × Option Nat) := []
  deriving DecidableEq, Repr

/-- The calibration and BIST controller besides its registers (R484–R498).  A correction is named by its address in the
CAL port, where its target stands. -/
structure CalX where
  live : List (Nat × Nat) := []             -- live values, as coded in the port; those of DESKEW stand in its registers
  pend : List Nat := []                     -- corrections whose live value is not the target
  steps : List (Nat × Nat × Nat) := []      -- per hall: tread and core cycle of the last walk step
  wins : List (Nat × Nat) := []             -- INDEX_GAP windows open: unit, core cycle at which it closes
  slices : List SliceX := []
  run : Option CalRunX := none
  bists : List BistX := []
  storeBad : Bool := false                  -- the control store has failed its last check by BIST_RUN (R498)
  deriving DecidableEq, Repr

/-- A PORT_DMA in progress on a port (R262–R265): the next unit's port address, bytes still to move, bytes moved and
dropped, and the CRC of the source bytes so far, before the final complement. -/
structure PortDmaX where
  did : Nat
  toHost : Bool
  host : Nat
  addr : Nat
  left : Nat
  moved : Nat := 0
  dropped : Nat := 0
  crc : Nat := 0xFFFFFFFF
  deriving DecidableEq, Repr

/-- A data port besides its registers (R255): the words staged.  The read latch shows in PORT_DATA. -/
structure PortX where
  stage : List (Nat × Nat) := []
  dma : Option PortDmaX := none
  deriving DecidableEq, Repr

/-- A recorded snapshot or re-sample that the next lead point or re-sample of a hall takes in a replay (R511): condition
bits, FAIL mask, axis position and landing count. -/
structure RplSnap where
  hall : Nat
  resample : Bool
  bits : Nat
  mask : Nat
  axis : Nat
  land : Nat
  deriving DecidableEq, Repr

/-- A replay in progress (R509–R513): the buffer, what of it has been consumed, and the recorded inputs that have not
acted yet. -/
structure ReplayX where
  did : Nat
  base : Nat
  len : Nat
  pos : Nat := 0
  seq : Nat := 0
  diverge : Nat := 0
  level : Nat := 0                          -- throttle level
  seen : List Nat := []                     -- halls whose position has been taken from their first record
  snaps : List RplSnap := []
  wins : List (Nat × Nat) := []             -- fail windows: alcove of the device, entries failed
  notes : List (Nat × Nat × Nat) := []      -- per hall: AXIS ARG 3, 4, 5, 7 or 8 of its next landing, with the slot or the treads
  swaps : List Nat := []                    -- halls at a swap point that wait for the recorded decision
  admits : List (Nat × Nat) := []           -- hall and bank admitted, whose resume snapshot is still to come
  sends : List (Nat × SendReq) := []        -- SENDs whose recorded status is still to come, with their hall
  meas : List MeasReq := []                 -- MEASs whose recorded code is still to come
  deriving DecidableEq, Repr

/-- A microcode image loaded at stage 3 and not yet judged by check 8 (R179). -/
structure UcPend where
  rollback : Nat
  advance : Bool
  level : Nat
  bodyCrc : Nat
  wordCrc : Nat
  deriving DecidableEq, Repr

/-- Start-up (R535–R549): supply and reset pins, the boot in progress, the loaded control-store words, and the fuses of
the OTP rollback counter (R180). -/
structure BootX where
  vaux : Bool := true                       -- VAUX in its band
  porN : Bool := false
  perstN : Bool := false
  pgood : Bool := false
  began : Nat := 0                          -- core cycle at which stage 1 began
  roundPg : Bool := false                   -- PGOOD_IN was high when the present housekeeping round began
  roundOk : Bool := false                   -- the last round of stage 6 began so and had every rail in its window
  image : Option UcPend := none
  store : List Nat := []                    -- words of the patch RAM, or of the writable store
  otp : Nat := 0
  keys : List Nat := []                     -- OTP keys read in stage 1: signing slots 0 to 3, then encryption slots 0 to 3
  imgBad : Bool := false                    -- no valid image of the writable store has been loaded by this start (R181)
  deriving DecidableEq, Repr

/-- An MSPI frame after its byte 0 (R381–R383): direction, the next index, the word fetched for it in a read frame, and
the word sent last. -/
structure MspiFrame where
  read : Bool
  idx : Nat
  fetched : Word := 0
  last : Word := 0
  deriving DecidableEq, Repr

/-- The state of the block. -/
structure State where
  part : Part := .f
  /-- Registers by BAR0 address, over the reset values. -/
  regs : List (Nat × Word) := []
  /-- Bytes of the bulk memories (flight store, stair store, serial buffers, acquisition buffers, calibration image,
  pixel layers), keyed by port × 2^32 + port address; an unlisted byte reads zero. -/
  mem : List Host.Cell := []
  /-- The high-word latches of R19, keyed by path × 2^32 + address of the high register. -/
  latch : List (Nat × Word) := []
  /-- The data returned by the last register, port or doorbell-window read, per path (0 PCIe, 1 MSPI). -/
  rdata : List (Nat × Word) := []
  /-- Core cycles of D116 since the start of the record. -/
  cyc : Nat := 0
  /-- Flags that the hardware has set in this core cycle, by register, and events that it has counted in it (R14). -/
  fresh : List (Nat × Nat) := []
  freshN : List (Nat × Nat) := []
  /-- How many free values have been drawn (the model's own field, assumption 4). -/
  free : Nat := 0
  /-- Descriptors started since reset (the model's own field: it tells one from another). -/
  dids : Nat := 0
  /-- Everything sent out, oldest first. -/
  out : List Out := []
  tb0 : Nat := 0
  tb1 : Nat := 0
  tb2 : Nat := 0
  tb0rem : Nat := 0
  queues : List (Nat × QueueX) := []
  /-- Descriptors in execution whose queue a host-interface reset has turned off: they run to their end (R232). -/
  orphans : List (Nat × DescRun) := []
  /-- Queue that each priority, 0 and 1, started last (R239). -/
  lastQ : Nat × Nat := (63, 63)
  rings : List (Nat × RingX) := []
  vecs : List (Nat × VecX) := []
  jnl : JnlX := {}
  flt : FltX := {}
  /-- Emissions in the event matrix's input stage: producer and core cycle of emission (R406). -/
  evIn : List (Nat × Nat) := []
  axis : List (Nat × AxisX) := []
  /-- AXZ has been sampled high while armed; the zeroing follows 8 REFCLK edges later (R76). -/
  axzPend : Bool := false
  /-- Flights, keyed by 4096 h + f. -/
  flights : List (Nat × FlightX) := []
  /-- Alcoves, keyed by their number in the device. -/
  alcs : List (Nat × AlcX) := []
  halls : List (Nat × HallX) := []
  stopRuns : List StopRun := []
  startRuns : List StartWait := []
  /-- Levels of the gallery trigger lines GTL0–GTL7 as sampled (R134, R433). -/
  gtl : Nat := 0
  chans : List (Nat × ChX) := []
  peHalls : List (Nat × PeHallX) := []
  /-- Level-set records, keyed by (64 h + set) 32 + slot, over the reset record. -/
  levels : List (Nat × BitVec 128) := []
  smus : List (Nat × SmuX) := []
  grps : List (Nat × GrpX) := []
  tdcs : List (Nat × TdcX) := []
  samples : List (Nat × SampleX) := []
  regrs : List (Nat × RegX) := []
  hses : List (Nat × HseX) := []
  /-- REFCLK is lost, or returned less than 1,024 periods ago, so that overlapping samples and gates are NOREF (R341). -/
  noref : Bool := false
  /-- The BOOT_SPI transaction in progress: writes, and data bytes (R385). -/
  bspi : Bool × Nat := (false, 0)
  digs : List (Nat × DigX) := []
  /-- TB0 as latched at the last aligned edge, in 2^-16 ns (R355). -/
  acqEdge : Nat := 0
  rs : RsX := {}
  /-- Configuration words of the event matrix that have been replaced, with the core cycle of the write: an emission in
  that cycle uses the old word (R410). -/
  evOld : List (Nat × Word × Nat) := []
  /-- Core cycle of the last emission that was not suppressed, per producer (R414). -/
  evLast : List (Nat × Nat) := []
  /-- TRIGOUT pins on which a pulse of the event matrix runs (R409). -/
  evPulse : List (Nat × Nat) := []
  tms : List (Nat × Nat) := []
  /-- The core cycle at which NOREF marking ends, 1,024 REFCLK periods after presence has returned (R341). -/
  norefEnd : Option Nat := none
  peers : List (Nat × PeerX) := []
  gal : GalX := {}
  tts : List (Nat × TtX) := []
  admits : List AdmitX := []
  /-- A comparator trip or a GRAVE cause that shuts the device down, within 100 µs (R462). -/
  sdPend : Bool := false
  therm : ThermX := {}
  cal : CalX := {}
  /-- Ports whose region a pattern test has overwritten, with a number that tells one test from another (R497). -/
  scr : List (Nat × Nat) := []
  ports : List (Nat × PortX) := []
  /-- The bytes returned by the last aperture read (R259). -/
  rbytes : List Nat := []
  rpl : Option ReplayX := none
  boot : BootX := {}
  mspi : Option MspiFrame := none
  /-- Commands waiting, first in, first out. -/
  pending : List Instr := []
  deriving DecidableEq, Repr

/-- Right after VAUX has been applied and with POR_N low: every register at its reset value (R535, R550). -/
def State.reset : State := {}

end Sys2Proof.Machine
end

