-- ==== Sys2Proof/Machine/Ops.lean ====
section
/-! DEFINITION. The operations the meanings share: bit fields, registers, bulk memory, counters, time stamps, event
emissions, fault occurrences, journal records, result rings, interrupt counts and completions. -/
namespace Sys2Proof.Machine

/-! ### Bit fields (R7) -/

/-- Bits `[lo + len - 1 : lo]` of a number. -/
def natBits (w lo len : Nat) : Nat := (w >>> lo) % 2 ^ len

/-- A number with bits `[lo + len - 1 : lo]` replaced. -/
def natPut (w lo len v : Nat) : Nat := w - (natBits w lo len) <<< lo + (v % 2 ^ len) <<< lo

/-- The two's complement value of the low `len` bits. -/
def signed (len v : Nat) : Int :=
  if v % 2 ^ len < 2 ^ (len - 1) then (v % 2 ^ len : Nat) else (v % 2 ^ len : Nat) - (2 ^ len : Nat)

/-- The `len`-bit two's complement code of a value. -/
def unsigned (len : Nat) (v : Int) : Nat := (v % (2 ^ len : Nat)).toNat

/-- Fields (lowest bit, length, value) packed into one little-endian number. -/
def pack : List (Nat × Nat × Nat) → Nat
  | [] => 0
  | (lo, len, v) :: r => (v % 2 ^ len) <<< lo ||| pack r

/-- Fields given by (byte, bytes, value). -/
def packB (l : List (Nat × Nat × Nat)) : Nat := pack (l.map (fun (b, n, v) => (8 * b, 8 * n, v)))

/-- A field of a word. -/
def fieldGet (lo len : Nat) (w : Word) : Nat := (w.extractLsb' lo len).toNat

/-- The mask of a field. -/
def fieldMask (lo len : Nat) : Word := BitVec.ofNat 32 ((2 ^ len - 1) <<< lo)

/-- A word with a field replaced. -/
def fieldPut (lo len v : Nat) (w : Word) : Word :=
  (w &&& ~~~ fieldMask lo len) ||| (BitVec.ofNat 32 (v <<< lo) &&& fieldMask lo len)

/-- A field of a word, by its register field. -/
def FRef.of (f : FRef) (w : Word) : Nat := fieldGet f.lo f.len w

/-- A one-bit field of a word is set. -/
def FRef.is (f : FRef) (w : Word) : Bool := fieldGet f.lo f.len w == 1

/-! ### Registers -/

/-- The word a register holds. -/
def State.rd (s : State) (a : Nat) : Word := tabGet (regReset s.part) s.regs a

/-- A register set to a word. -/
def State.wr (s : State) (a : Nat) (w : Word) : State := { s with regs := tabSet (regReset s.part) s.regs a w }

/-- The value of a register field. -/
def State.g (s : State) (f : FRef) : Nat := fieldGet f.lo f.len (s.rd f.addr)

/-- A one-bit register field reads 1. -/
def State.is (s : State) (f : FRef) : Bool := s.g f == 1

/-- A register field set to a value. -/
def State.p (s : State) (f : FRef) (v : Nat) : State := s.wr f.addr (fieldPut f.lo f.len v (s.rd f.addr))

/-- A flag that the hardware sets.  It counts as set in this core cycle (R14). -/
def State.set1 (s : State) (f : FRef) : State :=
  let t := s.p f 1
  { t with fresh := tabSet (fun _ => 0) t.fresh f.addr (tabGet (fun _ => 0) t.fresh f.addr ||| (fieldMask f.lo f.len).toNat) }

/-- Flag `k` of a field of flags, set by the hardware in this core cycle. -/
def State.setBit (s : State) (f : FRef) (k : Nat) : State :=
  let t := s.p f (s.g f ||| 2 ^ k)
  { t with fresh := tabSet (fun _ => 0) t.fresh f.addr (tabGet (fun _ => 0) t.fresh f.addr ||| 2 ^ (f.lo + k)) }

/-- The flags of field `f` that have been set in this core cycle. -/
def State.freshOf (s : State) (f : FRef) : Nat := natBits (tabGet (fun _ => 0) s.fresh f.addr) f.lo f.len

/-- The flag `f` has been set in this core cycle. -/
def State.isFresh (s : State) (f : FRef) : Bool := natBits (tabGet (fun _ => 0) s.fresh f.addr) f.lo 1 == 1

/-- A write of word `v` clears flag `f`: it carries a 1 there, and the hardware has not set the flag in the same core
cycle (R14). -/
def State.clears (s : State) (f : FRef) (v : Word) : Bool := f.is v && !s.isFresh f

/-- A flag cleared. -/
def State.clr (s : State) (f : FRef) : State := s.p f 0

/-- A field set to a Boolean. -/
def State.pb (s : State) (f : FRef) (b : Bool) : State := s.p f b.toNat

/-- Do `f` where `c` holds. -/
def State.when (s : State) (c : Bool) (f : State → State) : State := if c then f s else s

/-- `n` events arrive at a saturating counter and its SAT bit (R16). -/
def State.count (s : State) (c sat : FRef) (n : Nat := 1) : State :=
  let t := if s.g c + n ≤ 2 ^ c.len - 1 then s.p c (s.g c + n) else (s.p c (2 ^ c.len - 1)).set1 sat
  { t with freshN := tabSet (fun _ => 0) t.freshN c.addr (tabGet (fun _ => 0) t.freshN c.addr + n) }

/-- Fold an operation over the numbers below `n`, in rising order. -/
def State.each (s : State) (n : Nat) (f : Nat → State → State) : State := (List.range n).foldl (fun t i => f i t) s

/-- Fold an operation over a list. -/
def State.over {α : Type} (s : State) (l : List α) (f : α → State → State) : State := l.foldl (fun t x => f x t) s

/-! ### Bulk memory: bytes of the data ports -/

/-- What an unlisted byte of bulk memory reads as (assumption 3); in a region that a pattern test has overwritten since,
nothing is known of it (R497). -/
def memDefault (scr : List (Nat × Nat)) (k : Nat) : Byte :=
  match scr.find? (fun e => e.1 == k / 2 ^ 32) with
  | none => 0
  | some e => Config.patternByte e.2 k

/-- Key of a byte of a port's space. -/
def memKey (port a : Nat) : Nat := port * 2 ^ 32 + a

/-- One byte of a port's space. -/
def State.rdByte (s : State) (port a : Nat) : Byte := tabGet (memDefault s.scr) s.mem (memKey port a)

/-- One byte written. -/
def State.wrByte (s : State) (port a : Nat) (b : Byte) : State :=
  { s with mem := tabSet (memDefault s.scr) s.mem (memKey port a) b }

/-- `n` bytes of a port's space, little-endian. -/
def State.rdMem (s : State) (port a : Nat) : Nat → Nat
  | 0 => 0
  | n + 1 => (s.rdByte port a).toNat ||| (s.rdMem port (a + 1) n) <<< 8

/-- `n` bytes written, little-endian. -/
def State.wrMem (s : State) (port a v : Nat) : Nat → State
  | 0 => s
  | n + 1 => (s.wrByte port a (BitVec.ofNat 8 v)).wrMem port (a + 1) (v >>> 8) n

/-- Every byte of a port's space reads as unlisted. -/
def State.dropPort (s : State) (port : Nat) : State :=
  { s with mem := s.mem.filter (fun e => e.1 / 2 ^ 32 != port), scr := s.scr.filter (fun e => e.1 != port) }

/-- A list of bytes written from an address upward. -/
def State.wrBytes (s : State) (port : Nat) : Nat → List Nat → State
  | _, [] => s
  | a, b :: r => (s.wrByte port a (BitVec.ofNat 8 b)).wrBytes port (a + 1) r

/-- `n` bytes as a list. -/
def State.rdBytes (s : State) (port a n : Nat) : List Nat := (List.range n).map (fun i => (s.rdByte port (a + i)).toNat)

/-- One step of CRC-32 with the reflected polynomial 0xEDB8_8320 (R95). -/
def crcBit : Nat → Nat → Nat
  | 0, c => c
  | n + 1, c => crcBit n (if c % 2 = 1 then (c >>> 1) ^^^ 0xEDB88320 else c >>> 1)

/-- CRC-32 of a list of bytes (R95): initial value and final complement 0xFFFF_FFFF. -/
def crc32 (l : List Nat) : Nat :=
  (l.foldl (fun c b => crcBit 8 (c ^^^ (b % 256))) 0xFFFFFFFF) ^^^ 0xFFFFFFFF

/-! ### Presence, time and positions -/

/-- Hall `h` is present (R4, R5). -/
def State.hallOk (s : State) (h : Nat) : Bool := h < s.part.halls

/-- SMU group `g` is present. -/
def State.grpOk (s : State) (g : Nat) : Bool := g < s.part.groups

/-- 32-bit TB0 nanoseconds (R438). -/
def State.tb0ns (s : State) : Nat := natBits s.tb0 16 32

/-- The axis position of hall `h` (R45). -/
def State.pos (s : State) (h : Nat) : Nat := s.g (F.AXIS_POS_LO.POS_LO h) + 2 ^ 32 * s.g (F.AXIS_POS_HI.POS_HI h)

/-- The axis position of hall `h` set (modulo 2^48). -/
def State.setPos (s : State) (h v : Nat) : State :=
  (s.p (F.AXIS_POS_LO.POS_LO h) v).p (F.AXIS_POS_HI.POS_HI h) (v >>> 32)

/-- The position of a hall, or TB1 for 0xFF, as journal records carry it (R501). -/
def State.axisStamp (s : State) (h : Nat) : Nat := if h = 0xFF then natBits s.tb1 16 48 else s.pos h

/-- Draw a free value of `w` bits. -/
def State.draw (s : State) (w : Nat) : Nat × State := ((Config.freeBits w s.free).toNat, { s with free := s.free + 1 })

/-- Something leaves the device. -/
def State.send (s : State) (o : Out) : State := { s with out := s.out ++ [o] }

/-! ### Interrupts (R251) -/

def State.vec (s : State) (v : Nat) : VecX := tabGet (fun _ => ({} : VecX)) s.vecs v
def State.setVec (s : State) (v : Nat) (x : VecX) : State := { s with vecs := tabSet (fun _ => ({} : VecX)) s.vecs v x }

/-- `n` entries are reported to vector `v`; `now` asks for a message at once (IRQ_NOW). -/
def State.vecCount (s : State) (v n : Nat) (now : Bool := false) : State :=
  s.setVec v { s.vec v with cnt := (s.vec v).cnt + n, now := (s.vec v).now || now }

/-- Message condition by count: COUNT reached, 0 acting as 1. -/
def State.vecDue (s : State) (v : Nat) : Bool :=
  (s.vec v).now || decide (max 1 (s.g (F.MSIX_MOD.COUNT v)) ≤ (s.vec v).cnt)

/-- One message of vector `v`: it resets the count; a masked vector becomes pending and keeps counting. -/
def State.vecFire (s : State) (v : Nat) : State :=
  if (s.vec v).mask then s.setVec v { s.vec v with pend := true, now := false }
  else (s.setVec v { s.vec v with cnt := 0, now := false, pend := false }).send (.msix v)

/-! ### Event emissions (R406, R408) -/

/-- The unit of a producer is present, and the producer is one that emits (R408, R4). -/
def producerOk (p : Part) (i : Nat) : Bool :=
  if i < 128 then i / 4 < p.halls
  else if i < 152 then true
  else if i < 200 then (i - 152) % 16 < p.groups
  else if i < 212 then (i - 200) / 3 < p.digs
  else if i < 216 then p.raster
  else i < 236

/-- The unit of R269 whose producer `i` is, if a fence of a unit holds it off (R475). -/
def producerUnit (i : Nat) : Option Nat :=
  if i < 128 then some (i / 4)
  else if i < 152 then none
  else if i < 200 then some (32 + (i - 152) % 16)
  else if i < 212 then some (48 + (i - 200) / 3)
  else if i < 216 then some 52
  else none

/-- A self-test runs on unit `u` (R498). -/
def State.inTest (s : State) (u : Nat) : Bool := s.cal.bists.any (fun b => b.unit == u)

/-- Unit `u` is fenced or warming (R481), or under self-test with its outputs safe (R498). -/
def State.fenced (s : State) (u : Nat) : Bool :=
  let st := s.g (F.UNIT_STATE.STATE u)
  st == 1 || st == 2 || s.inTest u

/-- Producer `i` emits: the emission enters the input stage, unless the unit is absent, fenced or warming (R408, R475,
R481).  Software producers are 256 + channel (R421). -/
def State.emit (s : State) (i : Nat) : State :=
  if (i < 256 && !producerOk s.part i) || ((producerUnit i).map s.fenced).getD false then s
  else { s with evIn := s.evIn ++ [(i, s.cyc)] }

/-! ### Fault occurrences (R469, R470) -/

/-- The unit of a source is present (R469: sources of absent units are never asserted). -/
def sourceOk (p : Part) (i : Nat) : Bool :=
  if i < 256 then i / 8 < p.halls
  else if i < 320 then (i - 256) / 4 < p.groups
  else if i < 360 then true
  else if i < 368 then (i - 360) % 4 < p.digs
  else if i = 368 then p.raster
  else i < 382

/-- The unit of R269 to which source `i` belongs, if it is of one (R469). -/
def srcUnitOf (i : Nat) : Option Nat :=
  if i < 256 then some (i / 8)
  else if i < 320 then some (32 + (i - 256) / 4)
  else if 360 ≤ i && i < 368 then some (48 + (i - 360) % 4)
  else if i = 368 then some 52
  else none

/-- Source `i` is masked by a self-test of its unit (R498). -/
def State.srcMasked (s : State) (i : Nat) : Bool := ((srcUnitOf i).map s.inTest).getD false

/-- Source `i` goes from idle to reporting: the occurrence enters the collector's input, with the alcoves it acts
on. -/
def State.raise (s : State) (i detail : Nat) (alcs : List Nat := []) : State :=
  if sourceOk s.part i && !s.srcMasked i then { s with flt := { s.flt with input := s.flt.input ++ [⟨i, detail, false, alcs⟩] } } else s

/-- A source that stays reporting (R470): one occurrence, PRESENT until `unraise`. -/
def State.raiseLevel (s : State) (i detail : Nat) : State :=
  if s.is (F.FLT_SRC_STAT.PRESENT i) || !sourceOk s.part i || s.srcMasked i then s
  else (s.raise i detail).set1 (F.FLT_SRC_STAT.PRESENT i)

/-- The source goes idle. -/
def State.unraise (s : State) (i : Nat) : State := s.clr (F.FLT_SRC_STAT.PRESENT i)

/-- DETAIL of an occurrence that names nothing (R483). -/
def noDetail : Nat := 0xFFFFFFFF

/-! ### Result rings (R247, R248) -/

def State.ring (s : State) (r : Nat) : RingX := tabGet (fun _ => ({} : RingX)) s.rings r
def State.setRing (s : State) (r : Nat) (x : RingX) : State := { s with rings := tabSet (fun _ => ({} : RingX)) s.rings r x }

/-- Ring `r` exists on the part (R247). -/
def ringOk (p : Part) (r : Nat) : Bool :=
  match r with | 2 => p.digs != 0 | 3 => p.raster | _ => r < 5

/-- Entries of ring `r`. -/
def State.ringSize (s : State) (r : Nat) : Nat := 2 ^ s.g (F.RR_CFG.LOG r)

/-- Ring `r` has a free slot (R248). -/
def State.ringFree (s : State) (r : Nat) : Bool :=
  s.is (F.RR_CFG.EN r) && (s.g (F.RR_TAIL.INDEX r) + 1) % s.ringSize r != s.g (F.RR_HEAD.INDEX r)

/-- No journal record can be written: there is none, or the head record is a CONFIG group whose digest is not ready, for
which it and what is behind it wait (R508). -/
def State.jnlWaits (s : State) : Bool :=
  match s.jnl.fifo with
  | r :: _ => r.typ == 0x63 && s.jnl.hash.any (fun x => x.1 == r.seq)
  | [] => true

/-- Records for ring `r` wait to be written: those of ring 2 also in the record slots of the digitisers, those of ring 3 in
the queue of the raster stimulus unit, and those of ring 4 in the journal FIFO (R351, R400, R505). -/
def State.ringHolds (s : State) (r : Nat) : Bool :=
  match r with
  | 2 => !(s.ring 2).wait.isEmpty || s.digs.any (fun e => e.2.slot.isSome)
  | 3 => !s.rs.queue.isEmpty
  | 4 => !s.jnlWaits
  | _ => !(s.ring r).wait.isEmpty

/-- FULL tells whether records wait for ring space; FULL_SEEN keeps that it did (R252). -/
def State.ringFlags (s : State) (r : Nat) : State :=
  let full := s.is (F.RR_CFG.EN r) && s.ringHolds r && !s.ringFree r
  (s.pb (F.RR_STAT.FULL r) full).when full (fun t => t.set1 (F.RR_STAT.FULL_SEEN r))

/-- A record waits for ring `r`. -/
def State.ringPut (s : State) (r : Nat) (rec : RingRec) : State :=
  if ringOk s.part r then (s.setRing r { s.ring r with wait := (s.ring r).wait ++ [rec] }).ringFlags r else s

/-- A record enters the queue of the raster stimulus unit (R400). -/
def State.rsPut (s : State) (rec : RingRec) : State :=
  ({ s with rs := { s.rs with queue := s.rs.queue ++ [rec] } }).ringFlags 3

/-- Entry size of a ring in bytes (R247). -/
def ringEntry (r : Nat) : Nat := match r with | 1 => 64 | 2 => 64 | _ => 32

/-- A GAP record: hall, records dropped, and the AXIS and TB0_NS of the first (R157). -/
def dropRec (h n axis tb0 : Nat) : RingRec := ⟨32, packB [(0, 1, 3), (1, 1, h), (16, 6, axis), (24, 4, tb0), (28, 4, n)]⟩

/-- The GAP records of fail-log staging (ring 0) and of the raster stimulus unit (ring 3) follow what waits (R157, R400). -/
def State.dropsOut (s : State) (r : Nat) : State :=
  match r with
  | 0 =>
    let x := s.ring 0
    s.setRing 0 { x with drops := [], wait := x.wait ++ x.drops.map (fun d => dropRec d.1 d.2.1 d.2.2.1 d.2.2.2) }
  | 3 =>
    if s.rs.drops.1 = 0 then s
    else { s with rs := { s.rs with drops := (0, 0), queue := s.rs.queue ++ [dropRec 0xFF s.rs.drops.1 0 s.rs.drops.2] } }
  | _ => s

/-- A wrap marker in the layout of R157, in every enabled ring of 0 to 3 that `which` names.  It follows every record stamped
before it, so the GAP records that wait for space precede it (R444). -/
def State.ringMarker (s : State) (which : List Nat) (typ h axis tb0 : Nat) : State :=
  s.over which (fun r t =>
    if t.is (F.RR_CFG.EN r) then
      let m : RingRec := ⟨ringEntry r, packB [(0, 1, typ), (1, 1, h), (16, 6, axis), (24, 4, tb0)]⟩
      if r = 3 then (t.dropsOut 3).rsPut m else (t.dropsOut r).ringPut r m
    else t)

/-! ### The journal (R500–R505) -/

/-- Recording is on. -/
def State.recording (s : State) : Bool := s.is F.JNL_STAT.REC

/-- A replay runs (R511). -/
def State.replaying (s : State) : Bool := s.is F.JNL_STAT.REPLAY

/-- A dry replay runs: every output holds the safe state, and EN is ignored (R512). -/
def State.dryRun (s : State) : Bool := s.replaying && !s.is F.JNL_STAT.BENCH

/-- A journal record of hall `h` (0xFF: device-wide), stamped now. -/
def State.jrec (s : State) (typ h subj arg data : Nat) : JRec :=
  { typ := typ, hall := h, subj := subj, axis := s.axisStamp h, arg := arg, data := data, tb0 := s.tb0ns }

/-- Records numbered from a SEQ. -/
def numberRecs : Nat → List JRec → List JRec
  | _, [] => []
  | n, r :: rs => { r with seq := n % 2 ^ 32 } :: numberRecs (n + 1) rs

/-- The GAP record of the records dropped so far (R505). -/
def State.gapRec (s : State) : JRec :=
  { typ := 0x03, hall := 0xFF, subj := 0, axis := 0, arg := 0, data := packB [(0, 4, s.jnl.lost), (4, 4, s.jnl.lostSeq)],
    tb0 := s.tb0ns }

/-- Set the journal's FIFO and its level in JNL_STAT. -/
def State.setFifo (s : State) (l : List JRec) : State :=
  ({ s with jnl := { s.jnl with fifo := l } }).p F.JNL_STAT.FIFO l.length

/-- SEQ advanced by `n`. -/
def State.seqAdd (s : State) (n : Nat) : State := s.p F.JNL_SEQ.VALUE (s.g F.JNL_SEQ.VALUE + n)

/-- The throttle level that a run sees: in a replay the recorded one (R511). -/
def State.level_ (s : State) : Nat := match s.rpl with | some r => r.level | none => s.g F.THERM_STAT.LEVEL

/-- A group of hall `h` takes its place among the records of its core cycle: behind those of its own and of lower halls
(R502). -/
def insertRecs (h : Nat) (rs : List JRec) : List JRec → List JRec
  | [] => rs
  | x :: xs => if h < x.hall then rs ++ x :: xs else x :: insertRecs h rs xs

/-- A record group enters the FIFO whole or is dropped whole (R504, R505).
Records other than markers leave 32 entries of the 2,048 free.  A GAP record precedes the first record after a drop, once
space has returned.  The records of a core cycle are numbered in ascending hall order, the device-wide ones last (R502);
what follows a GAP, an NS_WRAP or a CONFIG group stays behind it (R444, R505, R508). -/
def State.jforce (s : State) (rs : List JRec) : State :=
  let marker := rs.all (fun r => r.typ == 4 || r.typ == 5)
  if marker || s.jnl.fifo.length + rs.length ≤ 2016 then
    let gaps := s.jnl.lost != 0 && s.jnl.fifo.length + rs.length ≤ 2016
    let n := min s.jnl.cycN s.jnl.fifo.length
    let old := s.jnl.fifo.drop (s.jnl.fifo.length - n)
    let new := if gaps then old ++ s.gapRec :: rs else insertRecs (rs.headD {typ := 0}).hall rs old
    let fence := rs.any (fun r => r.typ == 5 || r.typ == 0x63)
    let cyc := if fence then 0 else if gaps then rs.length else n + rs.length
    let s1 := { s with jnl := { s.jnl with
      cycN := cyc, lost := if gaps then 0 else s.jnl.lost, lostSeq := if gaps then 0 else s.jnl.lostSeq } }
    let s2 := s1.setFifo (s.jnl.fifo.take (s.jnl.fifo.length - n) ++ numberRecs (s.g F.JNL_SEQ.VALUE + 2 ^ 32 - n) new)
    (s2.seqAdd (new.length - n)).ringFlags 4
  else
    let s1 := { s with jnl := { s.jnl with
      cycN := 0, lost := s.jnl.lost + rs.length, lostSeq := if s.jnl.lost = 0 then s.g F.JNL_SEQ.VALUE else s.jnl.lostSeq } }
    (s1.seqAdd rs.length).count F.JNL_DROP.COUNT F.JNL_DROP.SAT rs.length

/-- A record group while recording is on. -/
def State.jput (s : State) (rs : List JRec) : State := if s.recording then s.jforce rs else s

/-- One record, stamped now. -/
def State.j (s : State) (typ h subj arg data : Nat) : State := s.jput [s.jrec typ h subj arg data]

/-- An AXIS record (R503): `arg` per the table, then a slot or flight and a count of treads. -/
def State.jAxis (s : State) (h arg slot treads : Nat) : State :=
  s.j 0x5B h 0 arg (packB [(0, 2, slot), (2, 4, treads)])

/-! ### Descriptors and completions (R233–R236) -/

/-- Bytes `[b, b + n)` of a descriptor, little-endian. -/
def dsc (d : BitVec 512) (b n : Nat) : Nat := natBits d.toNat (8 * b) (8 * n)

/-- Bits `[hi:lo]` of byte `b` of a descriptor, by lowest bit and length. -/
def dscBits (d : BitVec 512) (b lo len : Nat) : Nat := natBits d.toNat (8 * b + lo) len

/-- Bytes `b` to 63 of a descriptor are zero. -/
def dscZeroFrom (d : BitVec 512) (b : Nat) : Bool := d.toNat >>> (8 * b) == 0

def dOpcode (d : BitVec 512) : Nat := dsc d 0 2
def dUnit (d : BitVec 512) : Nat := dsc d 3 1
def dTag (d : BitVec 512) : Nat := dsc d 4 4
def dAddr (d : BitVec 512) : Nat := dsc d 8 8
def dLen (d : BitVec 512) : Nat := dsc d 16 4

/-- The status codes of R236. -/
inductive Status where
  | ok | busy | absent | badlen | denied | deferred | faulted | late | badop | stale
  deriving DecidableEq, Repr

def Status.code : Status → Nat
  | .ok => 0 | .busy => 1 | .absent => 2 | .badlen => 3 | .denied => 4 | .deferred => 5 | .faulted => 6
  | .late => 7 | .badop => 8 | .stale => 9

def State.queue (s : State) (q : Nat) : QueueX := tabGet (fun _ => ({} : QueueX)) s.queues q
def State.setQueue (s : State) (q : Nat) (x : QueueX) : State :=
  { s with queues := tabSet (fun _ => ({} : QueueX)) s.queues q x }

/-- The queue whose descriptor in execution is `did`. -/
def State.queueOf (s : State) (did : Nat) : Option Nat :=
  (List.range 64).find? (fun q => match (s.queue q).run with | some r => r.did == did | none => false)

/-- A descriptor completes: its completion entry (R234, phase bit clear) awaits COMPLETION_WRITE.  A descriptor whose
queue was reset meanwhile writes no completion (R232). -/
def State.complete (s : State) (did : Nat) (st : Status) (res : List (Nat × Nat × Nat)) : State :=
  match s.queueOf did with
  | none => { s with orphans := s.orphans.filter (fun o => o.2.did != did) }
  | some q =>
    match (s.queue q).run with
    | none => s
    | some r =>
      s.setQueue q { s.queue q with
        run := none
        held := some (packB ((0, 4, dTag r.desc) :: (4, 1, st.code) :: (6, 2, r.qpos) :: res))
        heldVec := dscBits r.desc 2 0 1 == 1 }

/-- The units of R269 that domain `d` owns, as a mask. -/
def State.ownMask (s : State) (d : Nat) : Nat :=
  (List.range 54).foldl (fun m u => if s.g (F.DOMAIN_OWN.OWNER u) == d then m ||| 1 <<< u else m) 0

/-- The descriptor may target unit `u` of R269: domain 0 every unit, another domain those that it owned when the
descriptor started (R222, R235, R269). -/
def DescRun.owns (r : DescRun) (u : Nat) : Bool := r.dom == 0 || natBits r.own u 1 == 1

/-- It may target all of them. -/
def DescRun.ownsAll (r : DescRun) (us : List Nat) : Bool := us.all r.owns

/-- QP_LASTERR records a failed check (R235). -/
def State.lastErr (s : State) (q cause qpos : Nat) : State :=
  (s.p (F.QP_LASTERR.CAUSE q) cause).p (F.QP_LASTERR.QPOS q) qpos

/-- The descriptor in execution of queue `q` with opcode `op` that has or has not been acted on: the queue's own, or one
that a host-interface reset has parted from it (R232). -/
def State.findRun (s : State) (q op : Nat) (acted : Bool) : Option DescRun :=
  let fits (r : DescRun) : Bool := r.acted == acted && dOpcode r.desc == op
  match (s.queue q).run.filter fits with
  | some r => some r
  | none => (s.orphans.find? (fun o => o.1 == q && fits o.2)).map (·.2)

/-- A descriptor in execution counts as acted on. -/
def State.setActed (s : State) (q did : Nat) : State :=
  let mark (r : DescRun) : DescRun := if r.did == did then { r with acted := true } else r
  { s.setQueue q { s.queue q with run := (s.queue q).run.map mark } with
    orphans := s.orphans.map (fun o => (o.1, mark o.2)) }

/-- Run `f` on the descriptor that queue `q` has started and not yet executed, if its opcode is `op`; it counts as
executed from then on.  Otherwise the command finds nothing to do. -/
def State.withDesc (s : State) (q op : Nat) (f : DescRun → State → State) : State :=
  match s.findRun q op false with
  | none => s
  | some r => f { r with acted := true } (s.setActed q r.did)

/-- Run `f` on the descriptor that queue `q` is executing, if its opcode is `op` and it waits for what follows. -/
def State.withActed (s : State) (q op : Nat) (f : DescRun → State → State) : State :=
  match s.findRun q op true with
  | none => s
  | some r => f r s

/-! ### Units, halls and alcoves -/

/-- The states of an alcove (R189). -/
def alcFree : Nat := 1
def alcBound : Nat := 2
def alcReady : Nat := 3
def alcLive : Nat := 4
def alcParked : Nat := 5
def alcDone : Nat := 6
def alcFaulted : Nat := 7

/-- The state of alcove `i` of hall `h` (i = 0–95). -/
def State.alcSt (s : State) (h i : Nat) : Nat := s.g (F.ALC_STATE.STATE h i)

/-- Some alcove of hall `h` is LIVE. -/
def State.anyLive (s : State) (h : Nat) : Bool := (List.range 96).any (fun i => s.alcSt h i == alcLive)

/-- The LIVE alcoves of hall `h`, by their index in the hall. -/
def State.lives (s : State) (h : Nat) : List Nat := (List.range 96).filter (fun i => s.alcSt h i == alcLive)

/-- The LIVE alcoves of hall `h`, by their numbers in the device (R24). -/
def State.liveAlcs (s : State) (h : Nat) : List Nat := (s.lives h).map (fun i => 96 * h + i)

/-- Some alcove of hall `h` is READY, LIVE or PARKED. -/
def State.hallRun (s : State) (h : Nat) : Bool :=
  (List.range 96).any (fun i => alcReady ≤ s.alcSt h i && s.alcSt h i ≤ alcParked)

/-- Some hall holds a READY, LIVE or PARKED alcove. -/
def State.anyRun (s : State) : Bool := (List.range s.part.halls).any (fun h => s.hallRun h)

/-- BOOT_STAGE reads READY or COOLED: the host reaches every register (R268, R464, R542). -/
def State.inService (s : State) : Bool := let st := s.g F.BOOT_STAGE.STAGE; st == 8 || st == 9

/-- The core runs: no hardware shutdown is in force (R462). -/
def State.awake (s : State) : Bool := !s.is F.THERM_STAT.SHUTDOWN

/-- What a host write does.  The flags that it sets itself are older than any later write, so they do not count as set in
this core cycle (R14). -/
def State.byHost (s : State) (f : State → State) : State := { f s with fresh := s.fresh, freshN := s.freshN }

/-- A host write through BAR0 to the thermal block acts in service, a shutdown included (R462, R542). -/
def State.hostTh (s : State) (f : State → State) : State := if s.inService then s.byHost f else s

/-- A host write through BAR0 acts only in service (R542), and during a shutdown sets SD_WRITE instead (R463). -/
def State.host (s : State) (f : State → State) : State :=
  if !s.inService then s else s.byHost (fun t => if t.awake then f t else t.set1 F.THERM_STAT.SD_WRITE)

/-- An accepted write to a configuration structure of R507: the word is stored, and while any alcove is READY, LIVE or
PARKED a WRITE record is produced (R508). -/
def State.cfgWr (s : State) (a : Nat) (w : Word) : State :=
  (s.wr a w).when s.anyRun (fun t => t.j 0x64 0xFF 0 0 (packB [(0, 4, a), (4, 4, w.toNat)]))

end Sys2Proof.Machine
end

