-- ==== Sys2Proof/Machine/Axis.lean ====
section
/-! DEFINITION. The axis: follow loop, synthesizer, timing sets and array zero (chapter "The axis", R45–R81). -/
namespace Sys2Proof.Machine

def State.ax (s : State) (h : Nat) : AxisX := tabGet (fun _ => ({} : AxisX)) s.axis h
def State.setAx (s : State) (h : Nat) (x : AxisX) : State := { s with axis := tabSet (fun _ => ({} : AxisX)) s.axis h x }

/-- The states of the axis (AXIS_STAT.STATE). -/
def axOff : Nat := 0
def axAcquiring : Nat := 1
def axLocked : Nat := 2
def axHoldover : Nat := 3

def State.axSt (s : State) (h : Nat) : Nat := s.g (F.AXIS_STAT.STATE h)

/-- The axis counts: LOCKED or HOLDOVER (R46). -/
def State.axRuns (s : State) (h : Nat) : Bool := s.axSt h == axLocked || s.axSt h == axHoldover

/-- A flight is playing on the hall (FLT_STAT.PLAYING). -/
def State.playing (s : State) (h : Nat) : Bool := s.is (F.FLT_STAT.PLAYING h)

/-- The pre-divider ratio (R45). -/
def State.prediv (s : State) (h : Nat) : Nat := s.g (F.AXIS_CTL.PREDIV h) + 1

/-- A follow frequency gives a tread rate inside R47: 50 kHz to 400 MHz. -/
def treadRateOk (freq prediv : Nat) : Bool := 50000 * prediv ≤ freq && freq ≤ 400000000 * prediv

/-- A follow frequency and ratio give a sample rate inside R61: 10 MHz to 1.25 GHz. -/
def sampleRateOk (freq prediv m n : Nat) : Bool :=
  10000000 * n * prediv ≤ freq * m && freq * m ≤ 1250000000 * n * prediv

/-- The sample rate of ratio slot `k` at source frequency `freq` is inside R61. -/
def State.slotOkAt (s : State) (freq h k : Nat) : Bool :=
  sampleRateOk freq (s.prediv h) (s.g (F.RATIO_M.M h k)) (s.g (F.RATIO_N.N h k))

/-- The sample rate of ratio slot `k` at the tread rate measured in this tread is inside R61 (R64).  In OFF and ACQUIRING
there is no tread rate to check against (R62), and a change is let in (assumption 126). -/
def State.slotOk (s : State) (h k : Nat) : Bool := !s.axRuns h || s.slotOkAt (s.ax h).rate h k

/-- `n` treads at frequency `r` join the record of the last treads, newest first. -/
def histAdd (r n : Nat) : List (Nat × Nat) → List (Nat × Nat)
  | (q, k) :: l => if q = r then (q, k + n) :: l else (r, n) :: (q, k) :: l
  | [] => [(r, n)]

/-- The newest `n` treads of a record. -/
def histTake : Nat → List (Nat × Nat) → List (Nat × Nat)
  | _, [] => []
  | n, (q, k) :: l => if n = 0 then [] else (q, min k n) :: histTake (n - min k n) l

/-- A record without its newest `n` treads. -/
def histDrop : Nat → List (Nat × Nat) → List (Nat × Nat)
  | _, [] => []
  | n, (q, k) :: l => if n < k then (q, k - n) :: l else histDrop (n - k) l

/-- The mean of a record, in Hz. -/
def histMean (l : List (Nat × Nat)) : Nat :=
  l.foldl (fun a e => a + e.1 * e.2) 0 / max 1 (l.foldl (fun a e => a + e.2) 0)

/-- The mean over the last 1,024 treads (FOLLOW_FREQ, R81). -/
def AxisX.meanFreq (x : AxisX) : Nat := histMean (histTake 1024 x.hist)

/-- The mean over the 1,024 treads that ended 4 treads ago (R58). -/
def AxisX.holdFreq (x : AxisX) : Nat := histMean (histTake 1024 (histDrop 4 x.hist))

/-- The bandwidths of R50, in Hz. -/
def bwHz : Nat → Nat
  | 0 => 10000 | 1 => 20000 | 2 => 50000 | 3 => 100000 | 4 => 200000 | 5 => 500000 | 6 => 1000000 | _ => 2000000

/-- The bandwidth code in use: the largest not above the selected one and one fifth of the tread rate; 2 MHz for REF
(R50).  Below every entry of the table, code 0. -/
def bwInUse (src sel freq prediv : Nat) : Nat :=
  if src = 0 then 7
  else ((List.range 8).filter (fun k => k ≤ sel && 5 * prediv * bwHz k ≤ freq)).foldl max 0

/-- BW_EFF follows the selected bandwidth and the measured rate.  While the axis acquires, that is the rate last measured
(assumption 127). -/
def State.bwUpdate (s : State) (h : Nat) : State :=
  s.p (F.AXIS_STAT.BW_EFF h)
    (bwInUse (s.g (F.AXIS_CTL.SRC h)) (s.g (F.AXIS_CTL.BW h)) (s.g (F.FOLLOW_FREQ.FREQ h)) (s.prediv h))


/-- AXIS_CTL written with `v` (R48, R52, R55, R56, R79, R551).  SRC = 3 is refused with CFG_ERR; a change of EN or of the
source configuration while an alcove is LIVE, or of the source configuration outside OFF, with SRC_BUSY; otherwise the
fields take their values, EN starts or stops the follow loop, and ZERO makes the next tread the one of position 0.  A
bandwidth comes into use at the next tread, or at once where the loop makes no treads yet. -/
def axisCtlWrite (h : Nat) (v : Word) (s : State) : State :=
  let old := s.rd (R.AXIS_CTL h)
  let diff (f : FRef) := f.of old != f.of v
  let srcChg := diff (F.AXIS_CTL.SRC h) || diff (F.AXIS_CTL.EXT_SEL h) || diff (F.AXIS_CTL.EXT_EDGE h) ||
    diff (F.AXIS_CTL.DUT_CH h) || diff (F.AXIS_CTL.PREDIV h)
  let enChg := diff (F.AXIS_CTL.EN h)
  let en := (F.AXIS_CTL.EN h).is v
  let bad := (F.AXIS_CTL.SRC h).of v == 3
  let busy := ((srcChg || enChg) && s.anyLive h) || (srcChg && !bad && s.axSt h != axOff)
  if bad || busy then
    (s.when busy (fun t => t.set1 (F.AXIS_STAT.SRC_BUSY h))).when bad (fun t => t.set1 (F.AXIS_STAT.CFG_ERR h))
  else
    let s1 := s.cfgWr (R.AXIS_CTL h) (fieldPut 29 1 0 (fieldPut 26 3 0 (fieldPut 19 1 0 (fieldPut 2 2 0 v))))
    let s2 := s1.when srcChg (fun t => t.clr (F.AXIS_STAT.ALIGNED h))
    let s3 :=
      if en && s.axSt h == axOff then s2.p (F.AXIS_STAT.STATE h) axAcquiring
      else if !en && s.axSt h != axOff then (s2.p (F.AXIS_STAT.STATE h) axOff).clr (F.AXIS_STAT.ALIGNED h)
      else s2
    let s4 := s3.when (s3.axSt h == axAcquiring) (fun t => t.bwUpdate h)
    if !(F.AXIS_CTL.ZERO h).is v then s4
    else if s.anyLive h then s4.set1 (F.AXIS_STAT.SRC_BUSY h)
    else (s4.setAx h { s4.ax h with zeroNext := true }).clr (F.AXIS_STAT.ALIGNED h)

/-- AXIS_ENABLE: AXIS_CTL written with EN = 1 (R52). -/
def execAxisEnable (h : Nat) (v : Word) (s : State) : Host.Outcome State Fault Refusal :=
  .next (if s.hallOk h && (F.AXIS_CTL.EN h).is v then s.host (axisCtlWrite h v) else s)

/-- AXIS_DISABLE: AXIS_CTL written with EN = 0 (R52). -/
def execAxisDisable (h : Nat) (v : Word) (s : State) : Host.Outcome State Fault Refusal :=
  .next (if s.hallOk h && !(F.AXIS_CTL.EN h).is v then s.host (axisCtlWrite h v) else s)

/-- AXIS_ZERO: AXIS_CTL written with its present fields and ZERO = 1 (R56). -/
def execAxisZero (h : Nat) (s : State) : Host.Outcome State Fault Refusal :=
  .next (if s.hallOk h then
    s.host (fun t => axisCtlWrite h (fieldPut 29 1 1 (t.rd (R.AXIS_CTL h))) t) else s)

/-- AXIS_CTL_WRITE: any write of AXIS_CTL (R55). -/
def execAxisCtlWrite (h : Nat) (v : Word) (s : State) : Host.Outcome State Fault Refusal :=
  .next (if s.hallOk h then s.host (axisCtlWrite h v) else s)

/-- A source frequency lies in the lock range: ±12.5 % of the rate at the last lock, or ±500 ppm of 100 MHz for REF
(R53). -/
def lockRangeOk (src lockFreq freq : Nat) : Bool :=
  if src = 0 then 99950000 ≤ freq && freq ≤ 100050000
  else 7 * lockFreq ≤ 8 * freq && 8 * freq ≤ 9 * lockFreq

/-- The follow source can be locked to at frequency `freq`: REFCLK is present where it is REF (R60), and the tread rate,
the sample rate and, from HOLDOVER or for REF, the lock range are kept (R47, R53, R61). -/
def State.lockOk (s : State) (h freq : Nat) : Bool :=
  let src := s.g (F.AXIS_CTL.SRC h)
  (src != 0 || s.is F.REF_STAT.REF_PRESENT) && treadRateOk freq (s.prediv h) &&
    s.slotOkAt freq h (s.g (F.AXIS_STAT.SLOT h)) &&
    ((src != 0 && s.axSt h != axHoldover) || lockRangeOk src (s.ax h).lockFreq freq)

/-- The axis enters LOCKED at a source frequency: event, record, and the frequency that R53 measures from (R52, R59). -/
def axisLocks (h freq : Nat) (s : State) : State :=
  let s1 := ((s.p (F.FOLLOW_FREQ.FREQ h) freq).p (F.AXIS_STAT.STATE h) axLocked).bwUpdate h
  let s2 := s1.setAx h { s1.ax h with lockFreq := freq, rate := freq, hist := [(freq, 1028)] }
  (s2.emit (4 * h + 2)).jAxis h 1 (s.g (F.AXIS_STAT.SLOT h)) 0

/-- AXIS_LOCK: the lock criterion of R51 is met at the measured source frequency `freq` in Hz.  A source out of range keeps
the axis in ACQUIRING with cause RANGE (R52, R62). -/
def execAxisLock (h freq : Nat) (s : State) : Host.Outcome State Fault Refusal :=
  .next (
    if s.hallOk h && s.axSt h == axAcquiring then
      if s.lockOk h freq then axisLocks h freq (s.setAx h { s.ax h with acc := 0, sacc := 0, per := 0, pull := 0 })
      else (s.p (F.FOLLOW_FREQ.FREQ h) freq).p (F.AXIS_STAT.CAUSE h) 2
    else s)

/-- The follow source of hall `h` is lost with a cause of R57 (R58): entry into HOLDOVER from LOCKED, where treads go on at
the mean rate of the 1,024 that ended 4 treads before; in HOLDOVER or ACQUIRING only CAUSE changes, and in OFF nothing is
followed. -/
def axisLose (h cause : Nat) (s : State) : State :=
  let ext := s.g (F.AXIS_CTL.SRC h) = 2 && cause = 1
  let s0 := s.when ext (fun t =>
    t.setBit F.AXIN_STAT.AXIN_LOST (s.g (F.AXIS_CTL.EXT_SEL h)))
  let s1 := s0.p (F.AXIS_STAT.CAUSE h) cause
  if s.axSt h = axOff then s
  else if s.axSt h = axLocked then
    let s2 := ((s1.p (F.AXIS_STAT.STATE h) axHoldover).set1 (F.AXIS_STAT.AXIS_LOST h)).clr (F.AXIS_STAT.ALIGNED h)
    let s3 := s2.setAx h { s2.ax h with rate := (s2.ax h).holdFreq, pull := 0 }
    ((s3.emit (4 * h + 3)).raise (8 * h) noDetail (s.liveAlcs h)).jAxis h 2 (s.g (F.AXIS_STAT.SLOT h)) 0
  else s1

/-- AXIS_LOSS (R57, R58): causes 1 to 4, REFLOST only for a REF source. -/
def execAxisLoss (h cause : Nat) (s : State) : Host.Outcome State Fault Refusal :=
  .next (
    if s.hallOk h && 1 ≤ cause && cause ≤ 4 && (cause != 4 || s.g (F.AXIS_CTL.SRC h) == 0)
    then axisLose h cause s else s)

/-- The way from a tread edge to the nearest source edge, where the next one follows it by `edge` of 65,536 parts of a
tread: of two equally near, the later (R59). -/
def nearestEdge (edge : Nat) : Int :=
  let e := edge % 65536
  if e ≤ 32768 then e else (e : Int) - 65536

/-- HOLDOVER_EXIT: the source is back at `freq` Hz and the loop relocks (R59), or it is back outside the lock range
and CAUSE shows RANGE (R52).  A divided source edge follows the present tread edge by `edge` parts of 65,536 of a tread:
the treads slew to it.  The position is neither stepped nor corrected. -/
def execHoldoverExit (h freq edge : Nat) (s : State) : Host.Outcome State Fault Refusal :=
  .next (
    if s.hallOk h && s.axSt h == axHoldover then
      if s.lockOk h freq then axisLocks h freq (s.setAx h { s.ax h with pull := nearestEdge edge })
      else s.p (F.AXIS_STAT.CAUSE h) 2
    else s)

/-- Markers of an axis wrap, in the tread in which the position becomes zero (R46, R157): rings 0 and 1 whenever
enabled, and the journal while recording. -/
def axisWrapMark (h : Nat) (s : State) : State :=
  (s.ringMarker [0, 1] 0x04 h 0 s.tb0ns).j 0x04 h 0 0 0

/-- The source frequency in the tread that starts: REF does not drift, and a DUT or EXT source has any frequency that
keeps it from being lost, which nobody states (R57; assumption 128). -/
def State.sourceRate (s : State) (h : Nat) : Nat :=
  let x := s.ax h
  let f := (Config.sourceHz h s.cyc).toNat
  if s.g (F.AXIS_CTL.SRC h) != 0 && treadRateOk f (s.prediv h) && s.slotOkAt f h (s.g (F.AXIS_STAT.SLOT h)) &&
      lockRangeOk 1 x.lockFreq f then f else x.rate

/-- The slew of the tread that starts, at most 1/64 of it (R59). -/
def AxisX.slew (x : AxisX) : Int := max (-1024) (min 1024 x.pull)

/-- A tread starts in the follow loop: it is measured while LOCKED and counted in HOLDOVER, and a bandwidth written comes
into use (R50, R55, R58, R81). -/
def followTread (h : Nat) (s : State) : State :=
  if s.axSt h == axHoldover then
    let t := s.count (F.HOLD_TREADS.COUNT h) (F.HOLD_TREADS.SAT h)
    (t.p (F.AXIS_STAT.HOLD_SAT h) (t.g (F.HOLD_TREADS.SAT h))).bwUpdate h
  else
    let x := s.ax h
    let x' := { x with rate := s.sourceRate h, hist := histTake 1028 (histAdd (s.sourceRate h) 1 x.hist) }
    ((s.setAx h x').p (F.FOLLOW_FREQ.FREQ h) x'.meanFreq).bwUpdate h

/-- A tread of hall `h` starts: the position advances and wraps at 2^48, or a ZERO makes it 0 (R46, R56).  A replay counts
treads from REFCLK and follows no source (R511). -/
def axisTread (h : Nat) (s : State) : State :=
  let x := s.ax h
  let s1 := (s.setAx h { x with zeroNext := false, per := 0, pull := x.pull - x.slew }).when (s.axRuns h && !s.replaying) (followTread h)
  if x.zeroNext then s1.setPos h 0
  else if s.pos h = 2 ^ 48 - 1 then axisWrapMark h (s1.setPos h 0)
  else s1.setPos h (s.pos h + 1)

/-- `n` sample periods of hall `h` pass: the phase offset slews by a tick in each (R68). -/
def samplePass (h n : Nat) (s : State) : State :=
  let x := s.ax h
  let k : Int := if 0 ≤ x.phaseRem then min x.phaseRem n else max x.phaseRem (-n)
  s.setAx h { x with per := x.per + n, phase := x.phase + k, phaseRem := x.phaseRem - k }

/-- AXIN_ACTIVE (R81): an input that a locked hall follows has shown an edge within 20 µs, since no tread is longer; of
the others nobody states anything (assumption 128). -/
def State.axinActive (s : State) : Nat :=
  (List.range 4).foldl (fun m n =>
    let used := (List.range s.part.halls).any (fun h =>
      s.g (F.AXIS_CTL.SRC h) == 2 && s.g (F.AXIS_CTL.EXT_SEL h) == n && s.axSt h == axLocked)
    m + (used || (Config.axinEdge n s.cyc).getLsbD 0).toNat <<< n) 0

/-- RATIO_M (`isN` false) or RATIO_N of slot `k` written (R62). -/
def ratioWrite (h k : Nat) (isN : Bool) (v : Word) (s : State) : State :=
  let x := fieldGet 0 24 v
  let a := if isN then R.RATIO_N h k else R.RATIO_M h k
  let inUse := s.g (F.AXIS_STAT.SLOT h) == k
  let m := if isN then s.g (F.RATIO_M.M h k) else x
  let n := if isN then x else s.g (F.RATIO_N.N h k)
  let busy := inUse && s.axRuns h && s.anyLive h
  if x = 0 || busy then
    (s.when (x == 0) (fun t => t.set1 (F.AXIS_STAT.RATIO_ERR h))).when busy (fun t => t.set1 (F.AXIS_STAT.RATIO_BUSY h))
  else if inUse && s.axRuns h then
    if sampleRateOk (s.ax h).rate (s.prediv h) m n then
      (s.cfgWr a (BitVec.ofNat 32 x)).jAxis h 3 k 0
    else (s.set1 (F.AXIS_STAT.RATIO_ERR h)).jAxis h 4 k 0
  else s.cfgWr a (BitVec.ofNat 32 x)

/-- RATIO_WRITE (R62). -/
def execRatioWrite (h k : Nat) (isN : Bool) (v : Word) (s : State) : Host.Outcome State Fault Refusal :=
  .next (if s.hallOk h && k < 8 then s.host (ratioWrite h k isN v) else s)

/-- ARMED, which SYN_SCHED.ARM reads as well (R66). -/
def setArmed (h : Nat) (b : Bool) (s : State) : State :=
  (s.pb (F.AXIS_STAT.ARMED h) b).pb (F.SYN_SCHED.ARM h) b

/-- A slot comes into use. -/
def slotUse (h k : Nat) (s : State) : State := (s.p (F.AXIS_STAT.SLOT h) k).setAx h { s.ax h with sacc := 0 }

/-- What an AXIS record of ARG 3 or 4 does in a replay (R511). -/
def rplRatio (h arg slot : Nat) (s : State) : State :=
  if arg = 3 then slotUse h (slot % 8) s else s.set1 (F.AXIS_STAT.RATIO_ERR h)

/-- The changes of ratio that a replay has taken ahead for the landing of hall `h` act there (R511). -/
def rplRatios (h : Nat) (s : State) : State :=
  match s.rpl with
  | some r =>
    let mine (n : Nat × Nat × Nat) : Bool := n.1 == h && (n.2.1 == 3 || n.2.1 == 4)
    ({ s with rpl := some { r with notes := r.notes.filter (fun n => !mine n) } } : State).over (r.notes.filter mine)
      (fun n => rplRatio h n.2.1 n.2.2)
  | none => s

/-- RATIO_APPLY: a slot and a phase offset come into use at a sample-period boundary (R63, R64, R68, R69): the first period
of the new length starts there.  A slot whose rate falls outside R61 refuses the whole change.  A replay takes the
changes from its records (R511). -/
def ratioApply (h : Nat) (slot : Option Nat) (phase : Option Int) (s : State) : State :=
  let ok := match slot with | some k => s.slotOk h k | none => true
  if s.replaying then s
  else if ok then
    let s1 := match slot with | some k => slotUse h k s | none => s
    let s2 := match phase with
      | some p => s1.setAx h { s1.ax h with phaseRem := (s1.ax h).phaseRem + p }
      | none => s1
    s2.jAxis h 3 (s2.g (F.AXIS_STAT.SLOT h)) 0
  else (s.set1 (F.AXIS_STAT.RATIO_ERR h)).jAxis h 4 (slot.getD 0) 0

/-- The staged change applies or is refused, and nothing stays armed. -/
def stageApply (h : Nat) (st : SynStage) (s : State) : State :=
  setArmed h false (ratioApply h st.slot st.phase (s.setAx h { s.ax h with stage := none }))

/-- The staged change of a SYN_SCHED word.  SYN_AT is taken as it stands at the ARM write (assumption 129). -/
def stageOf (s : State) (h : Nat) (v : Word) (afterLead : Bool) : SynStage :=
  { tread := (F.SYN_SCHED.MODE h).is v
    slot := if (F.SYN_SCHED.SLOT_EN h).is v then some ((F.SYN_SCHED.SLOT h).of v) else none
    phase := if (F.SYN_SCHED.PHASE_EN h).is v then some (signed 15 ((F.SYN_SCHED.PHASE h).of v)) else none
    at_ := s.g (F.SYN_AT_LO.AT_LO h) + 2 ^ 32 * s.g (F.SYN_AT_HI.AT_HI h)
    skip := afterLead
    deferred := false }

/-- A tread is reached: at or past `t`. -/
def State.treadDue (s : State) (h t : Nat) : Bool := t ≤ s.pos h

/-- A TREAD change falls due: it applies at once outside a flight, otherwise it is deferred to the landing that ends
the flight playing, with SYN_DEFER (R66). -/
def stageTread (h : Nat) (st : SynStage) (s : State) : State :=
  if s.playing h then
    (s.setAx h { s.ax h with stage := some { st with deferred := true } }).set1 (F.AXIS_STAT.SYN_DEFER h)
  else stageApply h st s

/-- SYN_SCHED written (R66).  `afterLead` tells that the lead point of the flight playing has passed. -/
def synSchedWrite (h : Nat) (v : Word) (afterLead : Bool) (s : State) : State :=
  if s.is (F.AXIS_STAT.ARMED h) then s.set1 (F.AXIS_STAT.SYN_BUSY h)
  else
    let s1 := s.wr (R.SYN_SCHED h) (fieldPut 31 1 0 (fieldPut 15 10 0 v))
    if (F.SYN_SCHED.ARM h).is v then
      let st := stageOf s1 h v afterLead
      let s2 := setArmed h true (s1.setAx h { s1.ax h with stage := some st })
      if st.tread && s2.treadDue h st.at_ then stageTread h st s2 else s2
    else s1

/-- SYN_TREAD_APPLY (R66): the staged TREAD change reaches its tread. -/
def execSynTreadApply (h : Nat) (s : State) : Host.Outcome State Fault Refusal :=
  .next (
    match (s.ax h).stage with
    | some st => if s.hallOk h && st.tread && !st.deferred && s.treadDue h st.at_ then stageTread h st s else s
    | none => s)

/-- The staged change applies at a landing: LANDING mode whose lead point followed the ARM, or deferred. -/
def stageAtLanding (st : SynStage) : Bool := if st.tread then st.deferred else !st.skip

/-- The ratio slot that governs among those named at a landing, by alcove: the lowest alcove's; and whether they
differ (R65). -/
def slotOf (l : List (Nat × Nat)) : Option Nat × Bool :=
  ((l.foldl (fun m e => match m with | some (i, k) => if e.1 < i then some e else some (i, k) | none => some e) none).map (·.2),
    l.any (fun e => l.any (fun d => d.2 != e.2)))

/-- The ratio slots that timing sets name at a decision of a landing, by alcove, join those of its earlier decisions: the
lowest alcove's comes into use, unless a staged slot governs (R65, R67). -/
def slotLanding (h : Nat) (named : List (Nat × Nat)) (s : State) : State :=
  if named.isEmpty then s
  else
    let x := s.ax h
    let all := named ++ x.landTs.filter (fun e => named.all (fun d => d.1 != e.1))
    let (k, diff) := slotOf all
    let s1 := (s.setAx h { x with landTs := all }).when (diff || x.landStaged) (fun t => t.set1 (F.AXIS_STAT.RATIO_CONFLICT h))
    if x.landStaged || (!x.landTs.isEmpty && k == (slotOf x.landTs).1) then s1 else ratioApply h k none s1

/-- The first decision of a landing comes to the axis: every channel's deskew comes into use, and the staged change
applies (R66, R67, R75). -/
def axisLanding (h : Nat) (s0 : State) : State :=
  let s := rplRatios h s0
  let x := s.ax h
  let x' := { x with
    landTs := [], landStaged := false
    deskewUse := (List.range 32).foldl (fun m c => tabSet (fun _ => 0) m c (s.g (F.DESKEW.TAPS h c))) [] }
  match x.stage with
  | none => s.setAx h x'
  | some st =>
    if stageAtLanding st then stageApply h st (s.setAx h { x' with landStaged := st.slot.isSome })
    else s.setAx h { x' with stage := some { st with skip := false } }

/-- A drive word is valid: FMT 0 to 2, and E2 above E1 for RZ and RO (R72). -/
def drvWordOk (h t c : Nat) (v : Word) : Bool :=
  let fmt := (F.TSET_DRV.FMT h t c).of v
  fmt = 0 || ((fmt = 1 || fmt = 2) && (F.TSET_DRV.E1 h t c).of v < (F.TSET_DRV.E2 h t c).of v)

/-- A compare word is valid: EDGE, or WINDOW with W above S (R73). -/
def cmpWordOk (h t c : Nat) (v : Word) : Bool :=
  let m := (F.TSET_CMP.CMODE h t c).of v
  m = 0 || (m = 1 && (F.TSET_CMP.S h t c).of v < (F.TSET_CMP.W h t c).of v)

/-- Some LIVE alcove of the hall has timing set `t` as its current set (R74). -/
def State.tsetLive (s : State) (h t : Nat) : Bool :=
  (List.range 96).any (fun i => s.alcSt h i == alcLive && s.g (F.ALC_STATE.TS h i) == t)

/-- A word of a timing set is valid. -/
def tsWordValid (h t : Nat) (w : TsWord) (v : Word) : Bool :=
  match w with | .drv c => drvWordOk h t c v | .cmp c => cmpWordOk h t c v | .hdr => true

/-- A word of timing set `t` written (R72–R74, R551). -/
def tsetWrite (h t : Nat) (w : TsWord) (v : Word) (s : State) : State :=
  let busy := s.tsetLive h t
  let bad := !tsWordValid h t w v
  if busy || bad then
    (s.when busy (fun u => u.set1 (F.AXIS_STAT.TSET_BUSY h))).when bad (fun u => u.set1 (F.AXIS_STAT.TSET_ERR h))
  else
    match w with
    | .drv c => s.cfgWr (R.TSET_DRV h t c) (v &&& 0xF3FF03FF#32)
    | .cmp c => s.cfgWr (R.TSET_CMP h t c) (v &&& 0xC3FF03FF#32)
    | .hdr => s.cfgWr (R.TSET_HDR h t) (v &&& 0xF#32)

/-- Channel index of a timing-set word in range. -/
def tsWordOk : TsWord → Bool
  | .drv c => c < 32 | .cmp c => c < 32 | .hdr => true

/-- TSET_WRITE (R72–R74). -/
def execTsetWrite (h t : Nat) (w : TsWord) (v : Word) (s : State) : Host.Outcome State Fault Refusal :=
  .next (if s.hallOk h && t < 64 && tsWordOk w then s.host (tsetWrite h t w v) else s)

/-- AXZ_CTL written (R76): ARM arms, SEEN clears by 1. -/
def axzCtlWrite (v : Word) (s : State) : State :=
  let s1 := s.when (s.clears F.AXZ_CTL.SEEN v) (fun t => t.clr F.AXZ_CTL.SEEN)
  s1.when (F.AXZ_CTL.ARM.is v) (fun t => (t.set1 F.AXZ_CTL.ARM).set1 F.AXZ_CTL.ARMED)

/-- AXZ_ARM (R76). -/
def execAxzArm (s : State) : Host.Outcome State Fault Refusal := .next (s.host (axzCtlWrite 1))

/-- AXZ_SAMPLE (R76): an armed device samples AXZ high; with ARM clear the level has no effect (R77). -/
def execAxzSample (s : State) : Host.Outcome State Fault Refusal :=
  .next (if s.is F.AXZ_CTL.ARMED then { s with axzPend := true } else s)

/-- What edge k + 8 does to hall `h` (R76, R77): pre-divider counter and synthesizer phase start anew, an offset that was
still being slewed included (assumption 130). -/
def axzZeroHall (h : Nat) (s : State) : State :=
  if s.g (F.AXIS_CTL.SRC h) = 0 && s.is (F.AXIS_CTL.AXZ_EN h) then
    if s.axSt h = axLocked && !s.anyLive h then
      ((s.setPos h 0).setAx h { s.ax h with acc := 0, sacc := 0, per := 0, phase := 0, phaseRem := 0, zeroNext := false }).set1
        (F.AXIS_STAT.ALIGNED h)
    else s.set1 (F.AXIS_STAT.AXZ_MISSED h)
  else s

/-- AXZ_ZERO (R76, R77). -/
def execAxzZero (s : State) : Host.Outcome State Fault Refusal :=
  .next (
    if s.axzPend then
      ((({ s with axzPend := false }.each s.part.halls axzZeroHall).clr F.AXZ_CTL.ARM).clr F.AXZ_CTL.ARMED).set1
        F.AXZ_CTL.SEEN
    else s)

end Sys2Proof.Machine
end

