-- ==== Sys2Proof/Machine/CalOps.lean ====
section
/-! DEFINITION. Corrections, their targets and live values, walks, slices and INDEX_GAP windows (chapter "Calibration
and built-in self-test"): what the other units call. -/
namespace Sys2Proof.Machine

/-! ### Corrections, by their address in the CAL port (R484, R495) -/

/-- The record of channel slot `c` of hall `h`, and of SMU channel `k`. -/
def calHallRec (h c : Nat) : Nat := 0x1000 + 0x1000 * h + 0x80 * c
def calSmuRec (k : Nat) : Nat := 0x21000 + 0x80 * k

/-- The unit of R269, the channel of the unit and the item of a correction. -/
def calUnit (a : Nat) : Nat := if a < 0x21000 then (a - 0x1000) / 0x1000 else 32 + (a - 0x21000) / 0x200
def calChan (a : Nat) : Nat := if a < 0x21000 then a % 0x1000 / 0x80 else (a - 0x21000) / 0x80 % 4
def calItem (a : Nat) : Nat :=
  let o := a % 0x80
  if 0x21000 ≤ a then 4 else if o < 2 then 0 else if o < 8 then 3 else if o < 88 then 1 else 2

/-- Bytes of a correction, and the number that they code. -/
def calLen (a : Nat) : Nat := if calItem a = 3 then 4 else 2
def calVal (a raw : Nat) : Int := if calItem a = 0 then (raw % 4096 : Nat) else signed (8 * calLen a) raw

/-- The target of a correction. -/
def State.calTarget (s : State) (a : Nat) : Int := calVal a (s.rdMem 100 a (calLen a))

/-- Its live value. -/
def State.calLive (s : State) (a : Nat) : Int :=
  if calItem a = 0 then (s.g (F.DESKEW.TAPS (calUnit a) (calChan a)) : Nat)
  else calVal a (tabGet (fun _ => 0) s.cal.live a)

/-- The live value set. -/
def setLive (a : Nat) (v : Int) (s : State) : State :=
  if calItem a = 0 then s.p (F.DESKEW.TAPS (calUnit a) (calChan a)) (unsigned 12 v)
  else { s with cal := { s.cal with live := tabSet (fun _ => 0) s.cal.live a (unsigned (8 * calLen a) v) } }

/-- The WALK bits follow the corrections that still differ from their targets (R499). -/
def walkFlags (s : State) : State :=
  let on (u : Nat) := s.cal.pend.any (fun a => calUnit a == u)
  let s1 := s.each s.part.halls (fun h t => t.pb (F.CAL_HALL.WALK h) (on h))
  (s1.each s.part.groups (fun g t => t.pb (F.CAL_GRP.WALK g) (on (32 + g)))).pb F.CAL_STAT.WALKING (!s.cal.pend.isEmpty)

/-- A correction walks, or is still to be applied, while its live value is not its target. -/
def calMark (a : Nat) (s : State) : State :=
  let rest := s.cal.pend.filter (fun b => b != a)
  walkFlags { s with cal := { s.cal with pend := if s.calTarget a = s.calLive a then rest else rest ++ [a] } }

/-- The CAL record of a correction (R492, R503). -/
def jCal (a : Nat) (s : State) : State :=
  let u := calUnit a
  s.j 0x62 (if u < 32 then u else 0xFF) (if u < 32 then 32 * u + calChan a else 4 * (u - 32) + calChan a)
    (Config.calCode (a % 0x80)).toNat (packB [(0, 4, unsigned 32 (s.calTarget a)), (4, 4, unsigned 32 (s.calLive a))])

/-- A target set (R485): the change enters the journal, and the live value follows by its rule. -/
def setTarget (a : Nat) (v : Int) (s : State) : State :=
  if s.calTarget a = v then s
  else jCal a (calMark a (s.wrMem 100 a (unsigned (if calItem a = 0 then 12 else 8 * calLen a) v) (calLen a)))

/-! ### Walks (R490, R491) -/

/-- The correction may change now: TDC targets while no set runs on the channel, LEVEL steps while no bridge runs; in
warming all may. -/
def State.calFree (s : State) (warm : Bool) (a : Nat) : Bool :=
  let k := 32 * calUnit a + calChan a
  warm || (match calItem a with
    | 1 => (tabGet (fun _ => ({} : ChX)) s.chans k).bridge == 0
    | 3 => (tabGet (fun _ => ({} : TdcX)) s.tdcs k).run.isNone
    | _ => true)

/-- One step of a correction: one tap toward the target, or whole (R484).  A step of DESKEW is in use at once, since
steps fall at landings. -/
def calStep (a : Nat) (s : State) : State :=
  let t := s.calTarget a
  let l := s.calLive a
  let v := if calItem a = 3 || calItem a = 4 then t else if l < t then l + 1 else if t < l then l - 1 else l
  let s1 := setLive a v s
  let s2 := if calItem a = 0 then
      s1.setAx (calUnit a) { s1.ax (calUnit a) with
        deskewUse := tabSet (fun _ => 0) (s1.ax (calUnit a)).deskewUse (calChan a) (unsigned 12 v) }
    else s1
  jCal a (calMark a s2)

/-- Every correction of unit `u` among `items` that may change takes one step. -/
def calStepAll (u : Nat) (warm : Bool) (items : List Nat) (s : State) : State :=
  s.over (s.cal.pend.filter (fun a => calUnit a == u && items.contains (calItem a) && s.calFree warm a)) calStep

/-- Steps of a warming unit, until none is left: at most the longest walk (R491). -/
def calSettleN (u : Nat) : Nat → State → State
  | 0, s => s
  | n + 1, s => if s.cal.pend.any (fun a => calUnit a == u) then calSettleN u n (calStepAll u true [0, 1, 2, 3, 4] s) else s

/-- The calibration values held for a unit are restored tap by tap (R481, R491).  A target outside its trim range lies at
most 65,535 taps away. -/
def calSettle (u : Nat) (s : State) : State := calSettleN u 65535 s

/-! ### DESKEW (R75, R492) -/

/-- DESKEW written: live value and target, and the channel's walk ends; the taps come into use at the next landing. -/
def deskewWrite (h c : Nat) (v : Word) (s : State) : State :=
  let a := calHallRec h c
  let x := v.toNat % 4096
  let old := s.calTarget a
  let s1 := calMark a ((s.wr (R.DESKEW h c) (v &&& 0xFFF#32)).wrMem 100 a x 2)
  (s1.when (old != (x : Int)) (jCal a)).set1 F.CAL_STAT.OVERRIDE

/-! ### Slices and windows (R486–R489) -/

/-- A calibration slice runs on hall `h` (R486). -/
def State.slice (s : State) (h : Nat) : Bool := s.is (F.CAL_HALL.SLICE h)

/-- The slice that runs on a unit. -/
def State.sliceOf (s : State) (u : Nat) : Option SliceX := s.cal.slices.find? (fun x => x.unit == u)

/-- The channels of a slice are switched to the reference, or back (R486). -/
def sliceSwitch (u chans : Nat) (on : Bool) (s : State) : State :=
  if u < 32 then
    (s.each 32 (fun c t =>
      if natBits chans c 1 = 1 then
        let x := tabGet (fun _ => ({} : ChX)) t.chans (32 * u + c)
        { t with chans := tabSet (fun _ => ({} : ChX)) t.chans (32 * u + c) { x with cal := on } }
      else t)).pb (F.CAL_HALL.SLICE u) on
  else s.pb (F.CAL_GRP.SLICE (u - 32)) on

/-- The slice of a unit is over: its channels are switched back. -/
def sliceStop (u : Nat) (s : State) : State :=
  match s.sliceOf u with
  | some x => sliceSwitch u x.chans false { s with cal := { s.cal with slices := s.cal.slices.filter (fun y => y.unit != u) } }
  | none => s

/-- An entry or a swap start waits for the end of a slice (R487).  The record of the delay is a CAL record of the hall,
whose other fields the manual does not state. -/
def sliceDelay (h : Nat) (s : State) : State :=
  if s.cal.slices.any (fun x => x.unit == h && x.delayed) then s
  else
    let (subj, s1) := s.draw 16
    let (arg, s2) := s1.draw 16
    let (data, s3) := s2.draw 96
    let mark (x : SliceX) : SliceX := if x.unit == h then { x with delayed := true } else x
    let s4 : State := { s3 with cal := { s3.cal with slices := s3.cal.slices.map mark } }
    (s4.set1 F.CAL_STAT.SLICE_DELAY).j 0x62 h subj arg data

/-- The INDEX_GAP window of a unit closes (R489). -/
def winClose (u : Nat) (s : State) : State := { s with cal := { s.cal with wins := s.cal.wins.filter (fun w => w.1 != u) } }

/-- An INDEX_GAP window names the unit. -/
def State.winOpen (s : State) (u : Nat) : Bool := s.cal.wins.any (fun w => w.1 == u)

/-! ### The end of a CAL_RUN (R493, R494, R499) -/

/-- Numbers of a list as a mask. -/
def maskOf (l : List Nat) : Nat := l.foldl (fun m k => m ||| 1 <<< k) 0

/-- The DEFER bits show the last CAL_RUN. -/
def deferShow (r : CalRunX) (s : State) : State :=
  let bits (u : Nat) := maskOf ((r.parts.filter (fun p => p.unit == u && !p.done)).map (·.item))
  (s.each s.part.halls (fun h t => t.p (F.CAL_HALL.DEFER h) (bits h))).each s.part.groups (fun g t =>
    t.p (F.CAL_GRP.DEFER g) (bits (32 + g)))

/-- A CAL_RUN is over: what it has not measured is deferred, and CAL_GEN counts it where a target has changed. -/
def calRunEnd (r : CalRunX) (s : State) : State :=
  ((deferShow r { s with cal := { s.cal with run := none } }).clr F.CAL_STAT.RUNNING).when r.changed (fun t =>
    t.p F.CAL_GEN.GEN (t.g F.CAL_GEN.GEN + 1))

end Sys2Proof.Machine
end

