-- ==== Sys2Proof/Machine/Flights.lean ====
section
/-! DEFINITION. The flight store: the flight table, references, the loop cache, LOAD_FLIGHT, flight-store writes, vector
codes and drive states (chapter "Flights and the flight store", R82–R121). -/
namespace Sys2Proof.Machine

/-! ### Access to flights, alcoves and halls -/

def State.flt_ (s : State) (h f : Nat) : FlightX := tabGet (fun _ => ({} : FlightX)) s.flights (4096 * h + f)
def State.setFlt (s : State) (h f : Nat) (x : FlightX) : State :=
  { s with flights := tabSet (fun _ => ({} : FlightX)) s.flights (4096 * h + f) x }

/-- Alcove `i` (0–95) of hall `h`. -/
def State.alc (s : State) (h i : Nat) : AlcX := tabGet (fun _ => ({} : AlcX)) s.alcs (96 * h + i)
def State.setAlc (s : State) (h i : Nat) (x : AlcX) : State :=
  { s with alcs := tabSet (fun _ => ({} : AlcX)) s.alcs (96 * h + i) x }
def State.modAlc (s : State) (h i : Nat) (f : AlcX → AlcX) : State := s.setAlc h i (f (s.alc h i))

def State.hl (s : State) (h : Nat) : HallX := tabGet (fun _ => ({} : HallX)) s.halls h
def State.setHl (s : State) (h : Nat) (x : HallX) : State := { s with halls := tabSet (fun _ => ({} : HallX)) s.halls h x }
def State.modHl (s : State) (h : Nat) (f : HallX → HallX) : State := s.setHl h (f (s.hl h))
def State.modEng (s : State) (h : Nat) (f : EngX → EngX) : State := s.modHl h (fun x => { x with eng := f x.eng })
def State.modHold (s : State) (h : Nat) (f : HoldX → HoldX) : State := s.modHl h (fun x => { x with hold := f x.hold })

/-- What bank `b` (0–2) of hall `h` keeps. -/
def State.bank (s : State) (h b : Nat) : BankX := tabGet (fun _ => ({} : BankX)) (s.hl h).banks b
def State.modBank (s : State) (h b : Nat) (f : BankX → BankX) : State :=
  s.modHl h (fun x => { x with banks := tabSet (fun _ => ({} : BankX)) x.banks b (f (tabGet (fun _ => ({} : BankX)) x.banks b)) })

/-- The live bank of hall `h`: 0–2, or none. -/
def State.liveBank (s : State) (h : Nat) : Option Nat :=
  let v := s.g (F.HALL_STAT.LIVE_BANK h)
  if v = 0 then none else some (v - 1)

/-- The alcoves of bank `b`, by their index in the hall (R24). -/
def bankAlcs (b : Nat) : List Nat := (List.range 32).map (fun k => 32 * b + k)

/-! ### References (R96) -/

/-- The flights that the LOOP frames of a stack refer to. -/
def stackRefs : List Frame → List Nat
  | [] => []
  | .loop _ _ _ refs :: r => refs ++ stackRefs r
  | .call _ :: r => stackRefs r

/-- Alcove `i` references flight `f`. -/
def State.refers (s : State) (h i f : Nat) : Bool :=
  let a := s.alc h i
  let st := s.alcSt h i
  (st == alcLive && (a.cur == some f || a.next == some f)) ||
    ((st == alcLive || st == alcParked) && (stackRefs a.ctx.stack).contains f)

/-- REFS of flight `f`: the alcoves that reference it. -/
def State.refs (s : State) (h f : Nat) : Nat := ((List.range 96).filter (fun i => s.refers h i f)).length

/-! ### Loop cache (R109–R111) -/

/-- Granules of the loop cache reserved or pinned. -/
def cacheUsed : List CacheRes → Nat
  | [] => 0
  | c :: r => c.granules + cacheUsed r

/-- LC_STAT follows the reservations. -/
def lcStat (h : Nat) (s : State) : State :=
  (s.p (F.LC_STAT.USED h) (cacheUsed (s.hl h).cache)).p (F.LC_STAT.NPIN h) (s.hl h).cache.length

/-- LOOP_CACHE_RESERVE: a PINNABLE flight becoming ACTIVE reserves its granules, or LC_FULL is set (R109, R110). -/
def cacheReserve (h f : Nat) (s : State) : State :=
  let x := s.flt_ h f
  if !x.pinnable then s
  else if cacheUsed (s.hl h).cache + x.len ≤ 1024 then
    lcStat h (s.modHl h (fun y => { y with cache := y.cache ++ [⟨f, x.len, false⟩] }))
  else s.set1 (F.FLT_STAT.LC_FULL h)

/-- The granules of a flight leaving ACTIVE are freed (R111). -/
def cacheFree (h f : Nat) (s : State) : State :=
  lcStat h (s.modHl h (fun y => { y with cache := y.cache.filter (fun c => c.flight != f) }))

/-- Flight `f` plays from the loop cache. -/
def State.pinned (s : State) (h f : Nat) : Bool := (s.hl h).cache.any (fun c => c.flight == f && c.pinned)

/-- One flight of the table after references have changed: VALID and referenced becomes ACTIVE, ACTIVE without a
reference becomes VALID (R97, R111). -/
def refUpdate1 (h f : Nat) (s : State) : State :=
  let x := s.flt_ h f
  let n := s.refs h f
  if x.st = 2 && n != 0 then cacheReserve h f (s.setFlt h f { x with st := 3 })
  else if x.st = 3 && n = 0 then cacheFree h f (s.setFlt h f { x with st := 2 })
  else s

/-- Every flight of hall `h` after references have changed, flights that lose their last reference first, then by
rising number (assumption 14). -/
def refsUpdate (h : Nat) (s : State) : State :=
  let fs := (s.flights.filter (fun e => e.1 / 4096 == h)).map (fun e => e.1 % 4096)
  (s.over (fs.filter (fun f => (s.flt_ h f).st == 3)) (refUpdate1 h)).over fs (refUpdate1 h)

/-! ### Stored flights -/

/-- Two granule ranges share a granule. -/
def overlaps (a la b lb : Nat) : Bool := a < b + lb && b < a + la

/-- The lowest-numbered other flight that is not EMPTY and overlaps a range (R93). -/
def State.conflict (s : State) (h f start len : Nat) : Option Nat :=
  ((s.flights.filter (fun e => e.1 / 4096 == h && e.1 % 4096 != f && e.2.st != 0 && overlaps start len e.2.start e.2.len)).map
    (fun e => e.1 % 4096)).head?

/-- The CRC-32 of a flight's stored range (R95). -/
def State.fltCrc (s : State) (h : Nat) (x : FlightX) : Nat := crc32 (s.rdBytes h (x.start * 1024) (x.len * 1024))

/-- Byte `a` of the flight store lies in a flight that is LOADING and was opened with MODE OPEN (R98). -/
def State.fltOpen (s : State) (h a : Nat) : Bool :=
  s.flights.any (fun e => e.1 / 4096 == h && e.2.st == 1 && e.2.opened && e.2.start * 1024 ≤ a &&
    a < (e.2.start + e.2.len) * 1024)

/-- A write to the flight store lands when every byte lies in an opened LOADING flight; otherwise it is dropped whole
with WPROT and WDROP_CNT (R98).  The Boolean tells whether it landed. -/
def flightWrite (h a : Nat) (bytes : List Nat) (s : State) : State × Bool :=
  if (List.range bytes.length).all (fun i => s.fltOpen h (a + i)) then (s.wrBytes h a bytes, true)
  else ((s.set1 (F.FLT_STAT.WPROT h)).count (F.WDROP_CNT.COUNT h) (F.WDROP_CNT.SAT h), false)

/-! ### LOAD_FLIGHT (R101–R104) -/

/-- The completion result of LOAD_FLIGHT (R103). -/
def loadFlightRes (f st detail crc conflict : Nat) : List (Nat × Nat × Nat) :=
  [(8, 2, f), (10, 1, st), (11, 1, detail), (12, 4, crc), (16, 2, conflict)]

/-- A flight rewritten by MODE DMA or OPEN: LOADING, with the descriptor's operands (R97). -/
def flightOf (d : BitVec 512) : FlightX :=
  { st := 1
    start := dscBits d 24 0 18
    len := dscBits d 28 0 19
    pclass := dscBits d 23 3 3
    pinnable := dscBits d 23 2 1 == 1
    trigger := dscBits d 23 1 1 == 1
    stretchable := dscBits d 23 0 1 == 1 }

/-- Reserved bits of a LOAD_FLIGHT that R101 does not let its MODE ignore are clear. -/
def loadFlightRsv (d : BitVec 512) (mode : Nat) : Bool :=
  dscBits d 21 4 4 == 0 && dscBits d 22 2 6 == 0 && dscZeroFrom d 32 &&
    (2 ≤ mode || (dscBits d 23 6 2 == 0 && dscBits d 24 18 14 == 0 && dscBits d 28 19 13 == 0))

/-- LOAD_FLIGHT on an existing hall, by the order of R102; ownership after the checks of form (R235). -/
def loadFlight (q : Nat) (r : DescRun) (s : State) : State :=
  let d := r.desc
  let h := dUnit d
  let f := dscBits d 20 0 12
  let mode := dscBits d 22 0 2
  let x := s.flt_ h f
  let n := flightOf d
  let load := mode < 2
  let fail (st : Status) (detail : Nat) (conf : Nat := 0) :=
    s.complete r.did st (loadFlightRes f (if s.hallOk h then x.st else 0) detail 0 conf)
  if h < 32 && !s.hallOk h then fail .absent 0
  else if 31 < h || !loadFlightRsv d mode || (mode = 0 && dAddr d % 16 != 0) then fail .badop 1
  else if load && n.len < 4 then fail .badlen 1
  else if load && s.part.granules < n.start + n.len then fail .badlen 2
  else if load && n.pinnable && 1024 < n.len then fail .badlen 3
  else if load && dLen d != (if mode = 0 then n.len * 1024 else 0) then fail .badlen 4
  else if !r.owns h then (s.lastErr q 3 r.qpos).complete r.did .denied []
  else if x.st = 3 then fail .busy 1
  else if x.st = 1 && s.refs h f != 0 && mode != 2 then fail .busy 2
  else if x.st = 1 && x.dma.isSome then fail .busy 3
  else
    match (if load then s.conflict h f n.start n.len else none) with
    | some c => fail .denied 1 c
    | none =>
      match mode with
      | 0 => (s.setFlt h f { n with dma := some r.did }).send (.hostRead (dAddr d) (dLen d))
      | 1 => (s.setFlt h f { n with opened := true }).complete r.did .ok (loadFlightRes f 1 0 0 0)
      | 2 =>
        if x.st != 1 || !x.opened then fail .denied 2
        else
          let crc := s.fltCrc h x
          let s1 := refsUpdate h (s.setFlt h f { x with st := 2, opened := false, crc := crc })
          s1.complete r.did .ok (loadFlightRes f (s1.flt_ h f).st 0 crc 0)
      | _ => (s.setFlt h f {}).complete r.did .ok (loadFlightRes f 0 0 0 0)

/-- LOAD_FLIGHT (R102). -/
def execLoadFlight (q : Nat) (s : State) : Host.Outcome State Fault Refusal :=
  .next (s.withDesc q 0x0002 (loadFlight q))

/-- LOAD_FLIGHT_DMA_DONE: the last entry of a DMA load is stored; `data` are the bytes read from host memory (R97). -/
def execLoadFlightDmaDone (h f : Nat) (data : List Nat) (s : State) : Host.Outcome State Fault Refusal :=
  .next (
    let x := s.flt_ h f
    match x.dma with
    | some did =>
      if x.st = 1 && data.length == x.len * 1024 then
        let s1 := s.wrBytes h (x.start * 1024) data
        let crc := crc32 data
        let s2 := refsUpdate h (s1.setFlt h f { x with st := 2, dma := none, crc := crc })
        s2.complete did .ok (loadFlightRes f (s2.flt_ h f).st 0 crc 0)
      else s
    | none => s)

/-- LOAD_FLIGHT_DMA_FAIL: a host read error frees the range (R97).  DETAIL is not stated for FAULTED (assumption 15). -/
def execLoadFlightDmaFail (h f : Nat) (s : State) : Host.Outcome State Fault Refusal :=
  .next (
    let x := s.flt_ h f
    match x.dma with
    | some did =>
      let (v, s1) := s.draw 8
      (s1.setFlt h f {}).complete did .faulted (loadFlightRes f 0 v 0 0)
    | none => s)

/-! ### Reading a descriptor (R121) -/

/-- FLT_DESC_LO, FLT_DESC_HI and FLT_CRC of a flight as they stand. -/
def State.fltWords (s : State) (h f : Nat) : Nat × Nat × Nat :=
  let x := s.flt_ h f
  (pack [(30, 2, x.st), (29, 1, (s.pinned h f).toNat), (28, 1, x.pinnable.toNat), (27, 1, x.trigger.toNat),
      (26, 1, x.stretchable.toNat), (23, 3, x.pclass), (0, 18, x.start)],
    pack [(25, 7, s.refs h f), (24, 1, x.dma.isSome.toNat), (0, 19, x.len)],
    if 2 ≤ x.st then x.crc else 0)

/-- The data a read returns on an access path: 0 PCIe, 1 MSPI. -/
def State.setRead (s : State) (path : Path) (w : Word) : State :=
  { s with rdata := tabSet (fun _ => 0) s.rdata path.idx w }

/-- A read of the host: before service and during a shutdown it returns zero (R462, R542). -/
def State.hostRead (s : State) (path : Path) (f : State → State) : State :=
  if s.inService && s.awake then f s else s.setRead path 0

/-- The snapshot that a read of FLT_DESC_LO takes. -/
def fltSnapTake (h : Nat) (s : State) : State :=
  s.modHl h (fun x => { x with fltSnap := s.fltWords h (s.g (F.FLT_IDX.IDX h)) })

/-- A read of FLT_DESC_LO. -/
def fltDescLoRead (path : Path) (h : Nat) (s : State) : State :=
  let s1 := fltSnapTake h s
  s1.setRead path (BitVec.ofNat 32 (s1.hl h).fltSnap.1)

/-- FLT_DESC_LO_READ (R121). -/
def execFltDescLoRead (path : Path) (h : Nat) (s : State) : Host.Outcome State Fault Refusal :=
  .next (if s.hallOk h then s.hostRead path (fltDescLoRead path h) else s.setRead path 0)

/-! ### Vector codes and drive states (R85, R87, R91) -/

/-- The code of channel slot `c` in entry `e` (R82, R84). -/
def State.codeAt (s : State) (h e c : Nat) : Nat := natBits (s.rdByte h (16 * e + c / 2)).toNat (4 * (c % 2)) 4

/-- The drive edges of one period at which a driver takes a data value: their ticks and levels (R71, R72). -/
def driveEdges (fmt e1 e2 : Nat) (v : Bool) : List (Nat × Bool) :=
  match fmt with
  | 1 => [(e1, v), (e2, false)]
  | 2 => [(e1, v), (e2, true)]
  | _ => [(e1, v)]

/-- A driver that takes a data value; `w` is FMT, E1 and E2 of its drive word. -/
def DriveSt.drive (w : Nat × Nat × Nat) (v : Bool) : DriveSt :=
  ⟨true, v, ((driveEdges w.1 w.2.1 w.2.2 v).getLastD (0, v)).2⟩

/-- The drive state after a period with a code other than BR (R85, R87). -/
def driveCode (w : Nat × Nat × Nat) (d : DriveSt) (code : Nat) : DriveSt :=
  match code with
  | 0x0 => .drive w false
  | 0x1 => .drive w true
  | 0x9 => .drive w (!d.val)
  | 0xD => ⟨false, false, false⟩
  | 0x3 => d | 0x8 => d | 0xA => d | 0xB => d | 0xE => d | 0xF => d
  | _ => { d with on := false }

/-- The code that a slot of the hold vector acts as (R91): D0CL acts as D0. -/
def holdCode (code : Nat) : Nat := if code = 0xD then 0 else code

/-- The alcove of bank `b` that owns channel slot `c` and is not FREE or ABSENT (R186). -/
def State.owner (s : State) (h b c : Nat) : Option Nat :=
  (bankAlcs b).find? (fun i => 2 ≤ s.alcSt h i && natBits (s.alc h i).own c 1 == 1)

/-- The source slot whose value a BR code on slot `c` takes, if `c` is in a group that its owner subscribes to (R187). -/
def State.brSource (s : State) (h b c : Nat) : Option Nat :=
  match (List.range 4).find? (fun g => natBits (s.g (F.BCAST_MEM.MEM h g)) c 1 == 1) with
  | none => none
  | some g =>
    match s.owner h b c with
    | none => none
    | some i => if natBits (s.alc h i).gmask g 1 == 1 then some (s.g (F.BCAST_SRC.SRC h g)) else none

/-- The drive states of the 32 slots after one entry, from those before, the codes and the drive words; `src` gives each
slot's BR source.  A source itself coded BR supplies its value before the entry (R187). -/
def driveEntry (words : List (Nat × Nat × Nat)) (src : List (Option Nat)) (codes : List Nat) (d : List DriveSt) : List DriveSt :=
  let word (c : Nat) := words.getD c (0, 0, 0)
  let plain := (List.range 32).map (fun c => driveCode (word c) (d.getD c {}) (codes.getD c 3))
  (List.range 32).map (fun c =>
    if codes.getD c 3 = 0xE then
      match src.getD c none with
      | some k => .drive (word c) (if codes.getD k 3 = 0xE then d.getD k {} else plain.getD k {}).val
      | none => d.getD c {}
    else plain.getD c {})

/-- The hold code of slot `c` in use (R91, R121). -/
def State.holdAt (s : State) (h c : Nat) : Nat :=
  natBits (tabGet (fun _ => 0x33333333) (s.hl h).holdUse (c / 8)) (4 * (c % 8)) 4

/-- The drive states of bank `b` as a list over the slots. -/
def State.drives (s : State) (h b : Nat) : List DriveSt :=
  (List.range 32).map (fun c => tabGet (fun _ => ({} : DriveSt)) (s.bank h b).drive c)

def State.setDrives (s : State) (h b : Nat) (l : List DriveSt) : State :=
  s.modBank h b (fun x => { x with
    drive := (List.range 32).foldl (fun m c => tabSet (fun _ => ({} : DriveSt)) m c (l.getD c {})) [] })

/-- Slot `c` plays the hold vector during a flight: its owner in the live bank sits out (R141). -/
def State.slotHeld (s : State) (h b c : Nat) : Bool :=
  match s.owner h b c with
  | some i => s.alcSt h i == alcLive && s.is (F.ALC_STATE.SITOUT h i)
  | none => false

/-- The timing set of channel slot `c` while bank `b` is live (R70). -/
def State.tsOf (s : State) (h b c : Nat) : Nat :=
  let group := (List.range 4).find? (fun g => natBits (s.g (F.BCAST_MEM.MEM h g)) c 1 == 1)
  let sub := match group with
    | some g => (s.lives h).find? (fun i => natBits (s.alc h i).gmask g 1 == 1)
    | none => none
  match s.owner h b c with
  | some i => s.g (F.ALC_STATE.TS h i)
  | none => s.g (F.ALC_STATE.TS h ((sub.orElse (fun _ => (s.lives h).head?)).getD 0))

/-- The timing set that channel slot `c` uses: while no bank is live, the one it used last (R70). -/
def State.tsNow (s : State) (h c : Nat) : Nat :=
  match s.liveBank h with
  | some b => s.tsOf h b c
  | none => tabGet (fun _ => 0) (s.ax h).tsUse c

/-- FMT, E1 and E2 of each slot's drive word in use. -/
def State.driveWords (s : State) (h b : Nat) : List (Nat × Nat × Nat) :=
  (List.range 32).map (fun c =>
    let t := s.tsOf h b c
    (s.g (F.TSET_DRV.FMT h t c), s.g (F.TSET_DRV.E1 h t c), s.g (F.TSET_DRV.E2 h t c)))

/-- The drive states of bank `b` after `n` entries of flight `f` from entry `e` on (R87). -/
def driveFlight (h b f e n : Nat) (s : State) : State :=
  let x := s.flt_ h f
  let src := (List.range 32).map (fun c => s.brSource h b c)
  let held := (List.range 32).map (fun c => s.slotHeld h b c)
  let words := s.driveWords h b
  let codes (e : Nat) := (List.range 32).map (fun c =>
    if held.getD c false then holdCode (s.holdAt h c) else s.codeAt h (64 * x.start + e) c)
  s.setDrives h b ((List.range n).foldl (fun d k => driveEntry words src (codes (e + k)) d) (s.drives h b))

/-- The entries of the flight playing up to entry `e` are over, and their codes have acted. -/
def entriesTo (h e : Nat) (s : State) : State :=
  match (s.hl h).play, s.liveBank h with
  | some f, some b =>
    let x := s.hl h
    let last := min e (64 * (s.flt_ h f).len)
    if last ≤ x.entry then s
    else (driveFlight h b f x.entry (last - x.entry) s).modHl h (fun y => { y with entry := last })
  | _, _ => s

/-- The drive states of bank `b` after a sample period of the hold vector (R91). -/
def driveHold (h b : Nat) (s : State) : State :=
  let src := (List.range 32).map (fun c => s.brSource h b c)
  s.setDrives h b (driveEntry (s.driveWords h b) src ((List.range 32).map (fun c => holdCode (s.holdAt h c))) (s.drives h b))

/-- Some code RS stands in flight `f` (R90). -/
def State.hasRS (s : State) (h f : Nat) : Bool :=
  let x := s.flt_ h f
  (List.range (64 * x.len)).any (fun e => (List.range 32).any (fun c => s.codeAt h (64 * x.start + e) c == 0xB))

/-- The code that channel slot `c` of hall `h` acts on in entry `e` of the flight playing; none where no flight plays or the
slot plays the hold vector (R85, R91, R141). -/
def State.playCode (s : State) (h e c : Nat) : Option Nat :=
  match (s.hl h).play, s.liveBank h with
  | some f, some b => if s.slotHeld h b c then none else some (s.codeAt h (64 * (s.flt_ h f).start + e) c)
  | _, _ => none

/-- The raster stimulus unit is in RESYNC, RUN or SELF_REFRESH, which count as streaming (R391). -/
def State.rsStreaming (s : State) : Bool := s.g F.RS_STAT.STATE != 0

/-- Raster lane `k` is mapped to a channel of hall `h`. -/
def State.rsMapped (s : State) (h k : Nat) : Bool := s.is (F.RS_LANE.EN k) && s.g (F.RS_LANE.HALL k) == h

/-- `n` sample periods of hall `h` are to pass: LANE_LOST is set where the raster stimulus unit streams and a mapped pin is
not coded RS in one of them; an idle or holding hall codes none RS (R91, R391). -/
def rasterWatch (h n : Nat) (s : State) : State :=
  if n = 0 || !s.rsStreaming || s.is F.RS_STAT.LANE_LOST then s
  else
    let e := (s.hl h).entry
    s.when ((List.range 36).any (fun k => s.rsMapped h k && (List.range n).any (fun i =>
        s.playCode h (e + i) (s.g (F.RS_LANE.SLOT k)) != some 0xB)))
      (fun t => t.set1 F.RS_STAT.LANE_LOST)

end Sys2Proof.Machine
end

