-- ==== Sys2Proof/Machine/Trip.lean ====
section
/-! DEFINITION. The trip paths that PE channels and SMU channels share: trip conditions and gates, latches and targets,
blanking and the state of the channel outputs (chapters "Pin electronics channels", R286–R292, and "Precision
source-measure channels", R308–R312). -/
namespace Sys2Proof.Machine

/-! ### Access -/

/-- Channel slot `c` of hall `h`. -/
def State.ch (s : State) (h c : Nat) : ChX := tabGet (fun _ => ({} : ChX)) s.chans (32 * h + c)
def State.setCh (s : State) (h c : Nat) (x : ChX) : State :=
  { s with chans := tabSet (fun _ => ({} : ChX)) s.chans (32 * h + c) x }
def State.modCh (s : State) (h c : Nat) (f : ChX → ChX) : State := s.setCh h c (f (s.ch h c))

/-- SMU channel `k` of the device. -/
def State.smu (s : State) (k : Nat) : SmuX := tabGet (fun _ => ({} : SmuX)) s.smus k
def State.setSmu (s : State) (k : Nat) (x : SmuX) : State := { s with smus := tabSet (fun _ => ({} : SmuX)) s.smus k x }
def State.modSmu (s : State) (k : Nat) (f : SmuX → SmuX) : State := s.setSmu k (f (s.smu k))

/-- SMU group `g`. -/
def State.grp (s : State) (g : Nat) : GrpX := tabGet (fun _ => ({} : GrpX)) s.grps g
def State.setGrp (s : State) (g : Nat) (x : GrpX) : State := { s with grps := tabSet (fun _ => ({} : GrpX)) s.grps g x }
def State.modGrp (s : State) (g : Nat) (f : GrpX → GrpX) : State := s.setGrp g (f (s.grp g))

def State.peh (s : State) (h : Nat) : PeHallX := tabGet (fun _ => ({} : PeHallX)) s.peHalls h
def State.setPeh (s : State) (h : Nat) (x : PeHallX) : State :=
  { s with peHalls := tabSet (fun _ => ({} : PeHallX)) s.peHalls h x }
def State.modPeh (s : State) (h : Nat) (f : PeHallX → PeHallX) : State := s.setPeh h (f (s.peh h))

/-- SMU channel `k` is present (R5). -/
def State.smuOk (s : State) (k : Nat) : Bool := k < s.part.smus

/-- DAC_CLR_N is low: CLR_ACTIVE reads 1 in every hall (R297), and H0 is present on every part. -/
def State.clrLow (s : State) : Bool := s.is (F.PE_HALL_STAT.CLR_ACTIVE 0)

/-! ### The comparators (R271–R273, R287) -/

/-- The comparators of channel slot `c` act on its pin: enabled and not safe, COMP_SETTLE over, neither parametric path nor
calibration reference on the channel (R286, R288, R294, R299, R486). -/
def State.compOn (s : State) (h c : Nat) : Bool :=
  s.is (F.PE_STAT.EN_EFF h c) && !(s.ch h c).settle && !(s.ch h c).cal && !(s.ch h c).pp

/-- The voltage of a code at a voltage DAC of channel slot `c`, in 2^-16 nV (R271, R273). -/
def State.dacVolt (s : State) (h c code : Nat) : Int :=
  let span := if s.is (F.LVL_TERM.VRANGE h c) then 7500000000 else 3750000000
  let step := if (s.ch h c).arch = 1 then 4 * span else span
  ((code * step : Nat) : Int) - 1500000000 * 65536

/-- Half the hysteresis in use, in 2^-16 nV (R275, R287). -/
def State.halfHyst (s : State) (h c : Nat) : Int :=
  65536 * (match s.g (F.LVL_TERM.HYST h c) with | 0 => 0 | 1 => 5000000 | 2 => 12500000 | _ => 25000000)

/-- What a comparator with threshold `t` reads at `v`, both in 2^-16 nV; `above` is what it read before. -/
def compRead (t half v : Int) (above : Bool) : Bool :=
  if above then !decide (v < t - half) else decide (t + half < v)

/-- The pin of channel slot `c` comes to `nv` nanovolts. -/
def compSee (h c : Nat) (nv : Int) (s : State) : State :=
  if s.compOn h c then
    let half := s.halfHyst h c
    s.modCh h c (fun x => { x with
      hi := compRead (s.dacVolt h c (s.g (F.LVL_CMP.VOH h c))) half (65536 * nv) x.hi
      lo := compRead (s.dacVolt h c (s.g (F.LVL_CMP.VOL h c))) half (65536 * nv) x.lo })
  else s

/-- The classification of a channel (R287): 0 LOW, 1 MID, 2 HIGH. -/
def ChX.cls (x : ChX) : Nat := if x.hi then 2 else if x.lo then 1 else 0

/-! ### The trip condition of a PE channel (R290, R291) -/

/-- The path is gated: EN = 0, the safe state, COMP_SETTLE, blanked, or a calibration slice on the channel (R486). -/
def State.peGated (s : State) (h c : Nat) : Bool :=
  !s.is (F.PE_CTL.EN h c) || (s.ch h c).cal || s.is (F.PE_STAT.SAFE h c) || (s.ch h c).settle || s.is (F.PE_STAT.BLANKED h c)

/-- A classification (0 LOW, 1 MID, 2 HIGH) meets a condition of R291. -/
def condHolds (cond cls : Nat) : Bool :=
  match cond with
  | 1 => cls == 2
  | 2 => cls == 0
  | 3 => cls == 2 || cls == 0
  | _ => false

/-- The trip condition of channel slot `c` holds on the comparators as they stand, and the path is not gated. -/
def State.peCond (s : State) (h c : Nat) : Bool :=
  condHolds (s.g (F.TRIP_CTL.COND h c)) (s.ch h c).cls && !s.peGated h c

/-- The alcoves of hall `h` that own channel slot `c`, by their numbers in the device (R186). -/
def State.owners (s : State) (h c : Nat) : List Nat :=
  ((List.range 96).filter (fun i => 2 ≤ s.alcSt h i && natBits (s.alc h i).own c 1 == 1)).map (fun i => 96 * h + i)

/-! ### SMU trips (R309, R310) -/

/-- A DDS stops at once (R322). -/
def ddsStopNow (k : Nat) (s : State) : State :=
  (s.clr (F.SMU_STAT.DDS_RUN k)).modSmu k (fun x => { x with acts := [], stop := false, phLeft := 0 })

/-- A bridge of an SMU channel ends at once (R313): the latest change stays asked for and needs no bridge. -/
def smuBridgeStop (k : Nat) (s : State) : State :=
  (s.clr (F.SMU_STAT.RANGE_BUSY k)).modSmu k (fun x =>
    { x with
      bridge := 0
      want := x.wait.getD x.want
      pend := x.pend || x.bridge != 0 || x.wait.isSome
      wait := none
      acts := x.acts ++ x.waitActs
      waitActs := [] })

/-- The alcoves of the bank that claims group `g`, by their numbers in the device (R469). -/
def State.claimAlcs (s : State) (g : Nat) : List Nat :=
  if s.is (F.GRP_STAT.CLAIMED g) then
    let h := s.g (F.GRP_STAT.CLAIM_HALL g)
    ((bankAlcs (s.g (F.GRP_STAT.CLAIM_BANK g))).filter (fun i => 2 ≤ s.alcSt h i)).map (fun i => 96 * h + i)
  else []

/-- The trip of an SMU channel is gated: the safe state, or EN = 0. -/
def State.smuGated (s : State) (k : Nat) : Bool := !s.is (F.SMU_CTL.EN k) || s.is (F.SMU_STAT.SAFE k)

/-- SMU channel `k` trips from source `src` (0 PE, 1 COMPL, 2 PDISS), whose condition the caller has tested: the output
stage turns off, the DDS stops, a bridge ends, MEAS requests on the channel that have arrived and have conversions left
will finish out of limits (R311), and a trip not latched before is latched and reported (R309, R310). -/
def smuTrip (k src : Nat) (s : State) : State :=
  if s.smuGated k || s.is (F.SMU_STAT.TRIPPED k) then s
  else
    let g := k / 4
    let hall := src == 1 && s.is (F.SMU_CTL.TRIP_COMPL k) && s.is (F.SMU_CTL.COMPL_HALL_EN k)
    let s1 := smuBridgeStop k (ddsStopNow k ((s.set1 (F.SMU_STAT.TRIPPED k)).p (F.SMU_STAT.TRIP_SRC k) src))
    let s2 := s1.modSmu k (fun x =>
      { x with stage := false, tripHall := if hall then some (s.g (F.SMU_CTL.COMPL_HALL k)) else none })
    let s3 := s2.modGrp g (fun x =>
      { x with queue := x.queue.map (fun r =>
        if r.ch = k && r.n < 2 ^ s.g (F.MSET_CFG.NAVG g r.mset) then { r with tripped := true } else r) })
    (s3.emit (152 + g)).raise (256 + 4 * g) k (s.claimAlcs g)

/-- A PE trip reaches group `g`: every channel of it that responds to PE trips turns off (R309). -/
def smuGroupTrip (g : Nat) (s : State) : State :=
  s.each 4 (fun j t => if t.is (F.SMU_CTL.TRIP_IN (4 * g + j)) then smuTrip (4 * g + j) 0 t else t)

/-- A PE channel's condition holds and names group `g` (R291). -/
def State.peTripsGroup (s : State) (g : Nat) : Bool :=
  (List.range s.part.halls).any (fun h => (List.range 32).any (fun c =>
    s.is (F.TRIP_CTL.SMU_EN h c) && s.g (F.TRIP_CTL.SMU_GRP h c) == g && s.peCond h c))

/-- The dissipation limit of R312, in mW. -/
def pdissLimit : Nat := 2375

/-- The trip condition of SMU channel `k` that holds now, lowest source first (R310). -/
def State.smuCond (s : State) (k : Nat) : Option Nat :=
  if s.is (F.SMU_CTL.TRIP_IN k) && s.peTripsGroup (k / 4) then some 0
  else if s.is (F.SMU_CTL.TRIP_COMPL k) && s.is (F.SMU_STAT.COMPL k) then some 1
  else if pdissLimit < s.g (F.GRP_PDISS.MW (k / 4)) then some 2
  else none

/-! ### PE trips (R291, R292) -/

/-- The path of channel slot `c` trips: every target is tripped.  A trip not latched before is latched in PE_STAT and
TRIP_MAP, emits the hall's PE_TRIP and raises its source. -/
def peTrip (h c : Nat) (s : State) : State :=
  let drv := s.is (F.TRIP_CTL.DRV h c)
  let hall := s.is (F.TRIP_CTL.HALL h c)
  let s1 := s.modCh h c (fun x => { x with tripDrv := x.tripDrv || drv, tripHall := x.tripHall || hall })
  let s2 := s1.when (s.is (F.TRIP_CTL.SMU_EN h c)) (smuGroupTrip (s.g (F.TRIP_CTL.SMU_GRP h c)))
  if s.is (F.PE_STAT.TRIPPED h c) then s2
  else
    let s3 := (s2.set1 (F.PE_STAT.TRIPPED h c)).p (F.TRIP_MAP.TRIPPED h) (s.g (F.TRIP_MAP.TRIPPED h) ||| 1 <<< c)
    (s3.emit (4 * h + 1)).raise (8 * h + 1) (32 * h + c) (s.owners h c)

/-- The condition is tested as it stands (R291): the path trips if it holds and nothing gates it. -/
def peTest (h c : Nat) (s : State) : State := if s.peCond h c then peTrip h c s else s

/-- Channel slot `c`'s driver is held off by a latched trip (R292, R309). -/
def State.driverHeld (s : State) (h c : Nat) : Bool :=
  (s.is (F.PE_STAT.TRIPPED h c) && (s.ch h c).tripDrv) ||
    (List.range 32).any (fun d => s.is (F.PE_STAT.TRIPPED h d) && (s.ch h d).tripHall) ||
    (List.range s.part.smus).any (fun k => s.is (F.SMU_STAT.TRIPPED k) && (s.smu k).tripHall == some h)

/-! ### Blanking and EN_EFF -/

/-- Blanking applies to channel slot `c` (R290): a parametric measurement runs from an accepted GO until its results are
stored (R295), and a contact test while its path acts (R294). -/
def State.blankNow (s : State) (h c : Nat) : Bool :=
  (s.is (F.PE_CTL.BLANK_EN h c) && s.is (F.TM_CTL.OUT (s.g (F.PE_CTL.BLANK_TM h c)))) ||
    s.is (F.PE_STAT.RANGE_BUSY h c) || (s.hl h).hold.swap || (s.ch h c).pp ||
    ((s.peh h).ppPhase != 0 && natBits (s.peh h).ppMask c 1 == 1)

/-- BLANKED follows its causes; where blanking ends, the trip condition is tested (R290, R291). -/
def blankUpdate (h c : Nat) (s : State) : State :=
  let b := s.blankNow h c
  let was := s.is (F.PE_STAT.BLANKED h c)
  if b == was then s
  else
    let s1 := s.pb (F.PE_STAT.BLANKED h c) b
    if b then s1 else peTest h c s1

/-- BLANKED of every channel of hall `h`. -/
def blankHall (h : Nat) (s : State) : State := s.each 32 (blankUpdate h)

/-- EN_EFF follows EN and SAFE. -/
def enEff (h c : Nat) (s : State) : State :=
  s.pb (F.PE_STAT.EN_EFF h c) (s.is (F.PE_CTL.EN h c) && !s.is (F.PE_STAT.SAFE h c))

/-- The comparators of channel slot `c` are enabled: forced to "below", which reads LOW, with COMP_SETTLE (R288). -/
def compEnable (h c : Nat) (s : State) : State := s.modCh h c (fun x => { x with settle := true, hi := false, lo := false })

end Sys2Proof.Machine
end

