-- ==== Sys2Proof/Machine/Smu.lean ====
section
/-! DEFINITION. Source-measure channels, converter groups and sine synthesis (chapter "Precision source-measure channels
and sine synthesis", R302–R326). -/
namespace Sys2Proof.Machine

/-! ### Spans, ranges and codes (R304, R305, R324) -/

/-- Span width in volts. -/
def spanWidth : Nat → Int
  | 0 => 5 | 1 => 10 | 2 => 20 | 3 => 10 | 4 => 20 | _ => 40

/-- Lowest voltage of a span, in volts. -/
def spanMin : Nat → Int
  | 3 => -5 | 4 => -10 | 5 => -20 | _ => 0

/-- Full scale of a current range, in µA. -/
def ifs : Nat → Int
  | 0 => 2 | 1 => 20 | 2 => 200 | 3 => 2000 | 4 => 20000 | 5 => 50000 | 6 => 100000 | _ => 200000

/-- `a / b` rounded to the nearest integer, ties upward, for `b > 0`. -/
def roundDiv (a b : Int) : Int := (2 * a + b) / (2 * b)

/-- `a / b` rounded to the nearest integer, ties away from zero, for `b > 0` (R315). -/
def roundAway (a b : Int) : Int := if 0 ≤ a then roundDiv a b else - roundDiv (-a) b

/-- A value limited to a force code. -/
def clampCode (v : Int) : Nat := if v < 0 then 0 else if 262143 < v then 262143 else v.toNat

/-- The clear code for a mode and span, before SMU_CLEAR (R324). -/
def zeroCode (mode span : Nat) : Nat := if mode = 1 || 3 ≤ span then 0x20000 else 0

/-- The clear code of SMU channel `k` in a mode and span (R324). -/
def State.smuClearCode (s : State) (k mode span : Nat) : Nat :=
  if s.is (F.SMU_CTL.CLEAR_SEL k) then s.g (F.SMU_CLEAR.CODE k) else zeroCode mode span

/-- The code of the new range or loop that gives the present output (R313).  Between voltage and current forcing the
present output depends on the load: the code is a free value, given by `v`. -/
def presetCode (u w : SmuSet) (v : Nat) : Nat :=
  if u.mode != w.mode then v
  else if w.mode = 0 then
    clampCode (roundDiv ((spanMin u.span - spanMin w.span) * 262144 + u.code * spanWidth u.span) (spanWidth w.span))
  else clampCode (131072 + roundDiv (((u.code : Int) - 131072) * ifs u.irange) (ifs w.irange))

/-- Two settings differ in a range or in the mode. -/
def SmuSet.bridges (u w : SmuSet) : Bool := u.mode != w.mode || u.span != w.span || u.irange != w.irange

/-- No force code given before this moment counts any more (R324). -/
def SmuX.ungive (x : SmuX) : SmuX :=
  { x with
    use := { x.use with given := false }
    want := { x.want with given := false }
    wait := x.wait.map (fun w => { w with given := false }) }

/-! ### Changes of a channel (R306, R313) -/

/-- A change reaches the channel.  A bridged change sets RANGE_BUSY; during a bridge a change waits, except that a
measure set's (`mset`) joins a bridge that has not crossed over (R315).  In the safe state nothing goes out, and the
first setting after it needs no bridge (R323). -/
def smuRequest (k : Nat) (mset : Bool) (f : SmuSet → SmuSet) (s : State) : State :=
  let x := s.smu k
  let new := f (x.wait.getD x.want)
  if s.is (F.SMU_STAT.SAFE k) then s
  else if mset && x.bridge == 1 then s.setSmu k { x with want := new }
  else if x.bridge != 0 then s.setSmu k { x with wait := some new }
  else if !x.rel && x.use.bridges new then (s.setSmu k { x with want := new, bridge := 1 }).set1 (F.SMU_STAT.RANGE_BUSY k)
  else s.setSmu k { x with want := new, pend := true }

/-- The group of channel `k` is claimed by a live bank (R211). -/
def State.claimed (s : State) (g : Nat) : Bool := s.is (F.GRP_STAT.CLAIMED g)

/-- What the registers ask of a channel. -/
def State.smuRegs (s : State) (k : Nat) : SmuSet :=
  { mode := s.g (F.SMU_CTL.MODE k), span := s.g (F.SMU_CTL.SPAN k), irange := s.g (F.SMU_CTL.IRANGE k)
    code := s.g (F.SMU_FORCE.CODE k), iclamp := s.g (F.SMU_ICLAMP.ICLAMP k)
    vclHi := s.g (F.SMU_VCLAMP.VCL_HI k), vclLo := s.g (F.SMU_VCLAMP.VCL_LO k), given := true }

/-- The level-restore step, or the release of the safe state, for an enabled channel: SMU_CTL, the clamps and SMU_FORCE
go out at the next force update without a bridge, and the output closes unless a trip is latched (R323). -/
def smuRelease (k : Nat) (s : State) : State :=
  let on := !s.is (F.SMU_STAT.TRIPPED k)
  (s.clr (F.SMU_STAT.SAFE k)).modSmu k (fun x =>
    { x with want := s.smuRegs k, pend := true, rel := true, bridge := 0, wait := none, closed := on, stage := on })

/-- The safe state of an SMU channel (R323). -/
def smuSafe (k : Nat) (s : State) : State :=
  let s1 := smuBridgeStop k (ddsStopNow k ((s.set1 (F.SMU_STAT.SAFE k)).set1 (F.SMU_STAT.CLEARED k)))
  let u := (s.smu k).use
  let c := s.smuClearCode k u.mode u.span
  (s1.clr (F.SMU_STAT.COMPL k)).modSmu k (fun x =>
    { x.ungive with dac := c, use := { x.use with code := c, given := false }, closed := false, stage := false, acc := 0 })

/-- A clear of the force DAC by DAC_CLR_N (R324). -/
def smuClear (k : Nat) (s : State) : State :=
  let s1 := smuBridgeStop k (ddsStopNow k (s.set1 (F.SMU_STAT.CLEARED k)))
  let u := (s.smu k).use
  let c := s.smuClearCode k u.mode u.span
  s1.modSmu k (fun x => { x.ungive with dac := c, use := { x.use with code := c, given := false } })

/-- EN of a channel written (R307, R323). -/
def smuEn (k : Nat) (en : Bool) (s : State) : State :=
  if en then
    if !s.inService then s
    else
      let s1 := s.set1 (F.SMU_CTL.EN k)
      if s.is (F.SMU_STAT.SAFE k) then
        if s.fenced (32 + k / 4) || s.dryRun then s1 else smuRelease k s1
      else
        let on := !s.is (F.SMU_STAT.TRIPPED k)
        s1.modSmu k (fun x => { x with closed := on, stage := on })
  else
    (ddsStopNow k ((s.clr (F.SMU_CTL.EN k)).clr (F.SMU_STAT.COMPL k))).modSmu k
      (fun x => { x with closed := false, stage := false })

/-- SMU_CTL written (R304, R307, R313, R323).  Of a write while the group is claimed only EN = 0 acts (assumption 17). -/
def smuCtlWrite (k : Nat) (v : Word) (s : State) : State :=
  let en := (F.SMU_CTL.EN k).is v
  if s.claimed (k / 4) then
    if en then s.set1 (F.SMU_STAT.SMU_BUSY k) else smuEn k false s
  else if 6 ≤ (F.SMU_CTL.SPAN k).of v then s.set1 (F.SMU_STAT.CFG_ERR k)
  else
    let w := fieldPut 31 1 (s.g (F.SMU_CTL.EN k)) (v &&& 0xFFFFC000#32)
    let s1 := smuEn k en (s.cfgWr (R.SMU_CTL k) w)
    if s.is (F.SMU_STAT.SAFE k) then s1
    else smuRequest k false (fun x =>
      { x with mode := (F.SMU_CTL.MODE k).of v, span := (F.SMU_CTL.SPAN k).of v, irange := (F.SMU_CTL.IRANGE k).of v }) s1

/-- SMU_EN_WRITE: SMU_CTL written with its present fields and EN (R307). -/
def execSmuEnWrite (k : Nat) (en : Bool) (s : State) : Host.Outcome State Fault Refusal :=
  .next (if s.smuOk k then
    s.host (fun t => smuCtlWrite k (fieldPut 31 1 en.toNat (t.rd (R.SMU_CTL k))) t) else s)

/-- SMU_CTL_WRITE (R313). -/
def execSmuCtlWrite (k : Nat) (v : Word) (s : State) : Host.Outcome State Fault Refusal :=
  .next (if s.smuOk k then s.host (smuCtlWrite k v) else s)

/-- SMU_FORCE, SMU_ICLAMP or SMU_VCLAMP written (R306, R307). -/
def smuForceWrite (k : Nat) (r : SmuReg) (v : Word) (s : State) : State :=
  if s.claimed (k / 4) then s.set1 (F.SMU_STAT.SMU_BUSY k)
  else
    match r with
    | .force =>
      let w := v &&& 0x3FFFF#32
      smuRequest k false (fun x => { x with code := w.toNat, given := true }) (s.wr (R.SMU_FORCE k) w)
    | .iclamp =>
      let w := v &&& 0xFFFF#32
      smuRequest k false (fun x => { x with iclamp := w.toNat }) (s.cfgWr (R.SMU_ICLAMP k) w)
    | .vclamp =>
      smuRequest k false (fun x => { x with vclHi := fieldGet 16 16 v, vclLo := fieldGet 0 16 v })
        (s.cfgWr (R.SMU_VCLAMP k) v)

/-- SMU_FORCE_WRITE (R306, R307). -/
def execSmuForceWrite (k : Nat) (r : SmuReg) (v : Word) (s : State) : Host.Outcome State Fault Refusal :=
  .next (if s.smuOk k then s.host (smuForceWrite k r v) else s)

/-! ### Sine synthesis (R319–R322) -/

/-- π × 2^80. -/
def piFix : Int := 3797952473636338580787993

/-- Terms of the sine series at scale 2^80: `n` the next index, `t` the last term, `x2` the squared angle. -/
def sinSeries (x2 : Int) : Nat → Nat → Int → Int
  | 0, _, t => t
  | m + 1, n, t => t - sinSeries x2 m (n + 1) (t * x2 / 2 ^ 80 / ((2 * n) * (2 * n + 1) : Nat))

/-- sin (2π j / 4,096) × 2^80 for `j` from 0 to 1,024, by its series. -/
def sinFix (j : Nat) : Int :=
  let x := piFix * 2 * j / 4096
  sinSeries (x * x / 2 ^ 80) 16 1 x

/-- Entry `i` of the sine table: round (131,071 × sin (2π i / 4,096)) (R319). -/
def sineEntry (i : Nat) : Int :=
  let q := i % 2048
  let v := roundDiv (sinFix (if q ≤ 1024 then q else 2048 - q) * 131071) (2 ^ 80)
  if i % 4096 < 2048 then v else -v

/-- What the DDS adds to the force code (R319). -/
def ddsAdd (ampl acc ph : Nat) : Int := ((ampl : Int) * sineEntry (natBits ((acc + ph) % 2 ^ 32) 20 12)) / 131072

/-- One force update of the phase offset (R321). -/
def phaseStep (x : SmuX) : SmuX :=
  match x.phLeft with
  | 0 => x
  | 1 => { x with ph := x.phTo, phLeft := 0 }
  | n + 2 => { x with ph := unsigned 32 ((x.ph : Int) + x.phStep), phLeft := n + 1 }

/-- The starts and stops asked for since the last force update, in their order: `run` whether the DDS runs, `stop`
whether a stop of it waits.  A start of a running channel and a stop of one at rest are ignored (R320, R322); `may` says
whether one may start. -/
def ddsActs (may : Bool) : List Bool → Bool × Bool → Bool × Bool
  | [], p => p
  | true :: l, (run, stop) => ddsActs may l (if run then (run, stop) else (may, false))
  | false :: l, (run, stop) => ddsActs may l (run, stop || run)

/-- A DDS may start: the channel is enabled, not tripped and not held at a clear code (R322; assumption 146). -/
def State.ddsMay (s : State) (k : Nat) : Bool :=
  s.is (F.SMU_CTL.EN k) && !s.is (F.SMU_STAT.TRIPPED k) && !s.clrLow

/-- The DDS of channel `k` at a force update: what was asked for is taken in its order, a start begins at phase 0, a
running DDS advances, and a stop takes effect when the accumulator wraps (R319–R322). -/
def ddsUpdate (k : Nat) (s : State) : State :=
  let x := s.smu k
  let run := s.is (F.SMU_STAT.DDS_RUN k)
  let p := ddsActs (s.ddsMay k) x.acts (run, x.stop)
  if run then
    let a := x.acc + s.g (F.DDS_FTW.VALUE k)
    let y := { phaseStep x with acc := a % 2 ^ 32, acts := [], stop := p.2 }
    if p.2 && 2 ^ 32 ≤ a then (s.setSmu k { y with stop := false, phLeft := 0 }).clr (F.SMU_STAT.DDS_RUN k)
    else s.setSmu k y
  else if p.1 then
    (s.setSmu k { x with acts := [], stop := p.2, acc := 0, ph := s.g (F.DDS_PHASE.VALUE k), phLeft := 0 }).set1
      (F.SMU_STAT.DDS_RUN k)
  else s.setSmu k { x with acts := [] }

/-- What one write or one measure set asks of a DDS: a stop bit stands before a start bit of the same write, so of both a
running channel takes the stop and one at rest the start (R320, R322). -/
def ddsAsked (start stop : Bool) : List Bool := (if stop then [false] else []) ++ (if start then [true] else [])

/-- A DDS start or stop is asked for at the next force update (R320). -/
def ddsAsk (k : Nat) (start stop : Bool) (s : State) : State :=
  s.modSmu k (fun x => { x with acts := x.acts ++ ddsAsked start stop })

/-- DDS_START written (R307, R320, R322): the stop bits act even while the group is claimed. -/
def ddsStartWrite (g : Nat) (v : Word) (s : State) : State :=
  let c := s.claimed g
  let s1 := s.each 4 (fun j t =>
    let st := natBits v.toNat j 1 == 1
    let t1 := t.when (st && c) (fun u => u.set1 (F.SMU_STAT.SMU_BUSY (4 * g + j)))
    ddsAsk (4 * g + j) (st && !c) (natBits v.toNat (4 + j) 1 == 1) t1)
  s1.when s1.anyRun (fun t => t.j 0x64 0xFF 0 0 (packB [(0, 4, R.DDS_START g), (4, 4, natBits v.toNat 0 8)]))

/-- DDS of group `g` exist (R303). -/
def State.ddsOk (s : State) (g : Nat) : Bool := s.part.dds && s.grpOk g

/-- DDS_START: start bits of DDS_START[g] (R320). -/
def execDdsStart (g : Nat) (mask : Nat) (s : State) : Host.Outcome State Fault Refusal :=
  .next (if s.ddsOk g && mask < 16 then s.host (ddsStartWrite g (BitVec.ofNat 32 mask)) else s)

/-- DDS_STOP: stop bits of DDS_START[g] (R322). -/
def execDdsStop (g : Nat) (mask : Nat) (s : State) : Host.Outcome State Fault Refusal :=
  .next (if s.ddsOk g && mask < 16 then s.host (ddsStartWrite g (BitVec.ofNat 32 (16 * mask))) else s)

/-- DDS_FTW written (R319, R321). -/
def ddsFtwWrite (k : Nat) (v : Word) (s : State) : State :=
  if s.claimed (k / 4) then s.set1 (F.SMU_STAT.SMU_BUSY k)
  else if 214748364 < v.toNat then s.set1 (F.SMU_STAT.CFG_ERR k)
  else s.cfgWr (R.DDS_FTW k) v

def execDdsFtwWrite (k : Nat) (v : Word) (s : State) : Host.Outcome State Fault Refusal :=
  .next (if s.smuOk k && s.part.dds then s.host (ddsFtwWrite k v) else s)

/-- DDS_PHASE written: on a running DDS the offset slews over 256 force updates along the shorter way; where both ways
are equal the way is a free value (R321). -/
def ddsPhaseWrite (k : Nat) (v : Word) (s : State) : State :=
  if s.claimed (k / 4) then s.set1 (F.SMU_STAT.SMU_BUSY k)
  else
    let s1 := s.cfgWr (R.DDS_PHASE k) v
    if s.is (F.SMU_STAT.DDS_RUN k) then
      let (up, s2) := s1.draw 1
      let x := s2.smu k
      let d := signed 32 (unsigned 32 ((v.toNat : Int) - x.ph))
      let d1 := if d = -(2 ^ 31) && up = 1 then 2 ^ 31 else d
      s2.setSmu k { x with phTo := v.toNat, phStep := d1.tdiv 256, phLeft := 256 }
    else s1

def execDdsPhaseWrite (k : Nat) (v : Word) (s : State) : Host.Outcome State Fault Refusal :=
  .next (if s.smuOk k && s.part.dds then s.host (ddsPhaseWrite k v) else s)

/-- DDS_AMPL written (R307). -/
def ddsAmplWrite (k : Nat) (v : Word) (s : State) : State :=
  if s.claimed (k / 4) then s.set1 (F.SMU_STAT.SMU_BUSY k) else s.cfgWr (R.DDS_AMPL k) (v &&& 0x1FFFF#32)

/-! ### Force updates (R306) -/

/-- The code at the force DAC after an update: the clear code until a code has been given since the last clear, and
while DAC_CLR_N is low (R324). -/
def smuCodeOut (k : Nat) (s : State) : State :=
  let x := s.smu k
  if x.use.given && !s.clrLow then s.clr (F.SMU_STAT.CLEARED k)
  else if s.is (F.SMU_STAT.CLEARED k) then
    s.setSmu k { x with use := { x.use with code := s.smuClearCode k x.use.mode x.use.span } }
  else s

/-- The changes of channel `k` that a force update lets out.  A channel held at its clear code crosses over to the clear
code of the new range (R324). -/
def smuStep (k : Nat) (s : State) : State :=
  let x := s.smu k
  match x.bridge with
  | 1 =>
    let (v, s1) := s.draw 18
    let code := if s.is (F.SMU_STAT.CLEARED k) then s.smuClearCode k x.want.mode x.want.span else presetCode x.use x.want v
    s1.setSmu k { x with bridge := 2, use := { x.use with
      mode := x.want.mode, span := x.want.span, irange := x.want.irange, code := code } }
  | 2 => smuCodeOut k (s.setSmu k { x with bridge := 3, use := x.want, pend := false })
  | _ => if x.pend then smuCodeOut k (s.setSmu k { x with use := x.want, pend := false, rel := false }) else s

/-- The DAC takes the force code, with the sine limited to the span (R319). -/
def smuOutput (k : Nat) (s : State) : State :=
  let x := s.smu k
  if s.is (F.SMU_STAT.DDS_RUN k) then
    let v := (x.use.code : Int) + ddsAdd (s.g (F.DDS_AMPL.AMPL k)) x.acc x.ph
    (s.setSmu k { x with dac := clampCode v }).when (v < 0 || 262143 < v) (fun t => t.set1 (F.SMU_STAT.DDS_CLIP k))
  else s.setSmu k { x with dac := x.use.code }

/-- A force update of a channel in the safe state (R323): its ranges and loop follow SMU_CTL, the DAC holds the clear code
of the span and mode, and what was asked of its DDS is lost. -/
def smuSafeUpdate (k : Nat) (s : State) : State :=
  let u := s.smuRegs k
  let c := s.smuClearCode k u.mode u.span
  s.modSmu k (fun x => { x with use := { u with code := c, given := false }, dac := c, acts := [], waitActs := [] })

/-- A force update of channel `k`. -/
def smuUpdate (k : Nat) (s : State) : State :=
  if s.is (F.SMU_STAT.SAFE k) then smuSafeUpdate k s else smuOutput k (ddsUpdate k (smuStep k s))

/-- The measure requests whose force goes out at this update: those of a channel with no change waiting for a bridge
(R315). -/
def State.measApplied (s : State) (r : MeasReq) : MeasReq :=
  { r with applied := r.applied || (s.smu r.ch).wait.isNone }

/-- SMU_FORCE_UPDATE of group `g`; `pdiss` is the dissipation the monitor estimates, in mW (R306, R312). -/
def execSmuForceUpdate (g pdiss : Nat) (s : State) : Host.Outcome State Fault Refusal :=
  .next (
    if s.grpOk g then
      let s1 := (s.p (F.GRP_PDISS.MW g) (min pdiss 65535)).each 4 (fun j => smuUpdate (4 * g + j))
      s1.modGrp g (fun x => { x with queue := x.queue.map (s.measApplied) })
    else s)

/-- SMU_BRIDGE_END (R313): RANGE_BUSY clears and a change that waited begins. -/
def execSmuBridgeEnd (k : Nat) (s : State) : Host.Outcome State Fault Refusal :=
  .next (
    let x := s.smu k
    if s.smuOk k && x.bridge == 3 then
      let s1 := (s.setSmu k { x with bridge := 0, wait := none, acts := x.acts ++ x.waitActs, waitActs := [] }).clr
        (F.SMU_STAT.RANGE_BUSY k)
      match x.wait with
      | some w => smuRequest k false (fun _ => w) s1
      | none => s1
    else s)

/-! ### Clamps and trips (R308–R312) -/

/-- A clamp engages (`on`) or lets go (R308); engaging it may trip the channel (R309). -/
def smuClamp (k : Nat) (on : Bool) (s : State) : State :=
  if on then
    if s.is (F.SMU_STAT.COMPL k) || s.smuGated k then s
    else
      let s1 := ((s.set1 (F.SMU_STAT.COMPL k)).set1 (F.SMU_STAT.COMPL_SEEN k)).emit (168 + k / 4)
      if s.is (F.SMU_CTL.TRIP_COMPL k) then smuTrip k 1 s1 else s1
  else s.clr (F.SMU_STAT.COMPL k)

def execSmuClamp (k : Nat) (on : Bool) (s : State) : Host.Outcome State Fault Refusal :=
  .next (if s.smuOk k then smuClamp k on s else s)

/-- SMU_TRIP of channel `k` from source `src`: its configuration lets the source trip it (R309). -/
def execSmuTrip (k src : Nat) (s : State) : Host.Outcome State Fault Refusal :=
  .next (
    if s.smuOk k && ((src = 0 && s.is (F.SMU_CTL.TRIP_IN k)) || (src = 1 && s.is (F.SMU_CTL.TRIP_COMPL k)) || src = 2)
    then smuTrip k src s else s)

/-- SMU_SWITCH_OPEN, 2 µs after a trip (R309). -/
def execSmuSwitchOpen (k : Nat) (s : State) : Host.Outcome State Fault Refusal :=
  .next (
    if s.smuOk k && s.is (F.SMU_STAT.TRIPPED k) then s.modSmu k (fun x => { x with closed := false }) else s)

/-- TRIPPED of a channel cleared by the host (R310); a clear in the core cycle that set it leaves it set (R14). -/
def smuTripClear (k : Nat) (s : State) : State :=
  if s.is (F.SMU_STAT.TRIPPED k) then
    let s1 := (s.clr (F.SMU_STAT.TRIPPED k)).modSmu k (fun x => { x with tripHall := none })
    match s.smuCond k with
    | some src => smuTrip k src s1
    | none =>
      if s.smuGated k then s1 else s1.modSmu k (fun x => { x with closed := true, stage := true })
  else s

def execSmuTripClear (k : Nat) (s : State) : Host.Outcome State Fault Refusal :=
  .next (if s.smuOk k then s.host (fun t => t.when (!t.isFresh (F.SMU_STAT.TRIPPED k)) (smuTripClear k)) else s)

/-- PDISS_TRIP: the estimate of group `g` has exceeded 2.375 W for 100 µs (R312). -/
def execPdissTrip (g : Nat) (s : State) : Host.Outcome State Fault Refusal :=
  .next (
    if s.grpOk g && pdissLimit < s.g (F.GRP_PDISS.MW g) then
      ((s.each 4 (fun j => smuTrip (4 * g + j) 2)).set1 (F.GRP_STAT.PDISS_TRIP g)).raise (257 + 4 * g) noDetail
        (s.claimAlcs g)
    else s)

/-! ### Measuring (R314–R318) -/

/-- QDEPTH and ADC_BUSY follow the queue. -/
def grpStat (g : Nat) (s : State) : State :=
  (s.p (F.GRP_STAT.QDEPTH g) (s.grp g).queue.length).pb (F.GRP_STAT.ADC_BUSY g) (!(s.grp g).queue.isEmpty)

/-- The claim of group `g` ends once its bank is not live with the claim and has no MEAS left on the group (R211). -/
def claimUpdate (g : Nat) (s : State) : State :=
  if s.claimed g then
    let h := s.g (F.GRP_STAT.CLAIM_HALL g)
    let b := s.g (F.GRP_STAT.CLAIM_BANK g)
    let x := s.grp g
    let mine (r : MeasReq) := r.hall == h && r.bank == b
    if (s.bank h b).smuClaim == some g || x.flight.any mine || x.queue.any mine then s
    else s.clr (F.GRP_STAT.CLAIMED g)
  else s

/-- A MEAS finishes with a code (R316, R317).  In a replay the alcove takes the recorded one (R511). -/
def measFinish (g : Nat) (r : MeasReq) (code : Int) (mout : Bool) (s : State) : State :=
  let s1 := s.when (!s.replaying) (fun t => t.modAlc r.hall r.alc (fun a => { a with mdone := true, mout := mout, lastMeas := code }))
  let s2 := s1.p (F.MEAS_LAST.CODE r.ch) (unsigned 32 code)
  (s2.emit (184 + g)).j 0x59 r.hall (96 * r.hall + r.alc) r.ch (unsigned 32 code)

/-- A change of mode, range and force, and a DDS action at the same update, that a measure set asks for (R315). -/
def msetApply (g : Nat) (r : MeasReq) (s : State) : State :=
  let m := r.mset
  let apply := s.is (F.MSET_CFG.APPLY g m)
  let s1 := s.when apply (smuRequest r.ch true (fun x => { x with
    mode := s.g (F.MSET_CFG.MODE g m), irange := s.g (F.MSET_CFG.IRANGE g m), code := s.g (F.MSET_FORCE.CODE g m)
    given := true }))
  let acts := ddsAsked (s.g (F.MSET_CFG.DDS g m) == 1) (s.g (F.MSET_CFG.DDS g m) == 2)
  s1.modSmu r.ch (fun x =>
    if apply && x.wait.isSome then { x with waitActs := x.waitActs ++ acts } else { x with acts := x.acts ++ acts })

/-- The first request on its way reaches group `g` (R315, R317); a trip latched before does not count against it
(R311). -/
def measArrive (g : Nat) (s : State) : State :=
  match (s.grp g).flight with
  | [] => s
  | r :: rest =>
    let s1 := s.modGrp g (fun x => { x with flight := rest })
    if s.fenced (32 + g) then claimUpdate g (measFinish g r 0 true s1)
    else if (s.grp g).queue.length < 32 then
      grpStat g (msetApply g r (s1.modGrp g (fun x => { x with queue := x.queue ++ [{ r with tripped := false }] })))
    else
      let s2 := (s1.set1 (F.GRP_STAT.QOVF g)).count (F.QDROP_CNT.COUNT g) (F.QDROP_CNT.SAT g)
      claimUpdate g ((measFinish g r 0 true s2).raise (258 + 4 * g) (96 * r.hall + r.alc) [96 * r.hall + r.alc])

/-- A request's DELAY counts from its force update where it applies one, and from the end of a bridge (R315). -/
def State.delayOk (s : State) (g : Nat) (r : MeasReq) : Bool :=
  (r.applied || !s.is (F.MSET_CFG.APPLY g r.mset)) && (s.smu r.ch).bridge == 0

/-- MEAS_DELAY_END of the `j`-th request in the queue of group `g` (R315). -/
def execMeasDelayEnd (g j : Nat) (s : State) : Host.Outcome State Fault Refusal :=
  .next (
    match (s.grp g).queue[j]? with
    | some r =>
      if s.grpOk g && s.delayOk g r then
        s.modGrp g (fun x => { x with queue := x.queue.set j { r with delayed := true } }) else s
    | none => s)

/-- MEAS_CONVERT: a conversion slot with the head request ready.  A change of channel spends the slot on settling;
otherwise the slot yields `code` (R315). -/
def execMeasConvert (g : Nat) (code : Int) (s : State) : Host.Outcome State Fault Refusal :=
  .next (
    match (s.grp g).queue with
    | r :: rest =>
      if s.grpOk g && r.delayed && r.n < 2 ^ s.g (F.MSET_CFG.NAVG g r.mset) then
        if (s.grp g).adcCh == some r.ch then
          s.modGrp g (fun x => { x with queue := { r with n := r.n + 1, sum := r.sum + code } :: rest })
        else s.modGrp g (fun x => { x with adcCh := some r.ch })
      else s
    | [] => s)

/-- The averaged code of the head request reaches the core (R311, R315, R316). -/
def measDone (g : Nat) (s : State) : State :=
  match (s.grp g).queue with
  | r :: rest =>
    let n := 2 ^ s.g (F.MSET_CFG.NAVG g r.mset)
    if s.grpOk g && r.n == n then
      let code := roundAway r.sum n
      let lo := signed 32 (s.g (F.MSET_LO.LIMIT g r.mset))
      let hi := signed 32 (s.g (F.MSET_HI.LIMIT g r.mset))
      let s1 := grpStat g (s.modGrp g (fun x => { x with queue := rest }))
      claimUpdate g (measFinish g r code (r.tripped || decide (code < lo) || decide (hi < code)) s1)
    else s
  | [] => s

/-- A fence of group `g` ends its requests, then its claim, and its channels take the safe state (R317, R475). -/
def grpFence (g : Nat) (s : State) : State :=
  let x := s.grp g
  let s1 := (s.setGrp g { x with flight := [], queue := [] }).over (x.queue ++ x.flight) (fun r => measFinish g r 0 true)
  let drop (x : BankX) : BankX := if x.smuClaim == some g then { x with smuClaim := none } else x
  let s2 := ((grpStat g s1).clr (F.GRP_STAT.CLAIMED g)).each s.part.halls (fun h t => t.each 3 (fun b u => u.modBank h b drop))
  (s2.set1 (F.GRP_STAT.FENCE g)).each 4 (fun j => smuSafe (4 * g + j))

/-- A word of measure set `m` of group `g` written (R303, R307, R326). -/
def msetWrite (g m : Nat) (w : Nat) (v : Word) (s : State) : State :=
  if s.claimed g then s.set1 (F.GRP_STAT.MSET_BUSY g)
  else
    match w with
    | 0 =>
      let u := if s.part.dds then v else fieldPut 23 2 0 v
      if (F.MSET_CFG.DDS g m).of u = 3 then s.set1 (F.GRP_STAT.MSET_BUSY g)
      else s.cfgWr (R.MSET_CFG g m) (u &&& 0xFFF8FFFF#32)
    | 1 => s.cfgWr (R.MSET_FORCE g m) (v &&& 0x3FFFF#32)
    | 2 => s.cfgWr (R.MSET_LO g m) v
    | _ => s.cfgWr (R.MSET_HI g m) v

/-- MSET_WRITE: word `w` (0 MSET_CFG, 1 MSET_FORCE, 2 MSET_LO, 3 MSET_HI) (R307). -/
def execMsetWrite (g m w : Nat) (v : Word) (s : State) : Host.Outcome State Fault Refusal :=
  .next (if s.grpOk g && m < 16 && w < 4 then s.host (msetWrite g m w v) else s)

end Sys2Proof.Machine
end

