-- ==== Sys2Proof/Machine/Pins.lean ====
section
/-! DEFINITION. Pin electronics channels: level sets, level DACs, range bridges, enables, comparator latches, trips, the
parametric path, contact tests and clears (chapter "Pin electronics channels", R270–R301; R194–R197). -/
namespace Sys2Proof.Machine

/-! ### Level-set records (R275) -/

/-- The record of slot `c` in level set `n` of hall `h`. -/
def State.level (s : State) (h n c : Nat) : BitVec 128 := tabGet (fun _ => lvlReset) s.levels ((64 * h + n) * 32 + c)
def State.setLevel (s : State) (h n c : Nat) (v : BitVec 128) : State :=
  { s with levels := tabSet (fun _ => lvlReset) s.levels ((64 * h + n) * 32 + c) v }

/-- Code `k` of a record: 0 VIH, 1 VIL, 2 VOH, 3 VOL, 4 VT, 5 IOH, 6 IOL. -/
def lvlCode (r : BitVec 128) (k : Nat) : Nat := (r.extractLsb' (16 * k) 16).toNat
def lvlHyst (r : BitVec 128) : Nat := (r.extractLsb' 114 2).toNat
def lvlIRange (r : BitVec 128) : Nat := (r.extractLsb' 113 1).toNat
def lvlVRange (r : BitVec 128) : Nat := (r.extractLsb' 112 1).toNat
/-- The reserved bits of a record are zero. -/
def lvlRsvOk (r : BitVec 128) : Bool := r.extractLsb' 116 12 == 0

/-! ### The DACs of a channel -/

/-- The code now at DAC `k` of a channel (LVL_DRV, LVL_CMP, LVL_TERM, LVL_LOAD). -/
def State.dacCode (s : State) (h c : Nat) : Nat → Nat
  | 0 => s.g (F.LVL_DRV.VIH h c)
  | 1 => s.g (F.LVL_DRV.VIL h c)
  | 2 => s.g (F.LVL_CMP.VOH h c)
  | 3 => s.g (F.LVL_CMP.VOL h c)
  | 4 => s.g (F.LVL_TERM.VT h c)
  | 5 => s.g (F.LVL_LOAD.IOH h c)
  | _ => s.g (F.LVL_LOAD.IOL h c)

/-- The seven codes put at the DACs. -/
def dacPut (h c : Nat) (f : Nat → Nat) (s : State) : State :=
  let s1 := (s.p (F.LVL_DRV.VIH h c) (f 0)).p (F.LVL_DRV.VIL h c) (f 1)
  let s2 := (s1.p (F.LVL_CMP.VOH h c) (f 2)).p (F.LVL_CMP.VOL h c) (f 3)
  ((s2.p (F.LVL_TERM.VT h c) (f 4)).p (F.LVL_LOAD.IOH h c) (f 5)).p (F.LVL_LOAD.IOL h c) (f 6)

/-- A code as an architecture uses it: the ladder ignores bits 15:14 of a voltage code (R273). -/
def archCode (arch k v : Nat) : Nat := if arch = 1 && k < 5 then v % 16384 else v

/-- The record last applied goes out to the DACs of its ranges (R277). -/
def lvlOut (h c : Nat) (s : State) : State :=
  let x := s.ch h c
  let s1 := dacPut h c (fun k => archCode x.arch k (lvlCode x.lvl k)) s
  let s2 := ((s1.p (F.LVL_TERM.HYST h c) (lvlHyst x.lvl)).p (F.LVL_TERM.VRANGE h c) (lvlVRange x.lvl)).p
    (F.LVL_TERM.IRANGE h c) (lvlIRange x.lvl)
  let s3 := (s2.clr (F.LVL_TERM.CLEARED h c)).when
    (x.arch = 1 && (List.range 5).any (fun k => 16384 ≤ lvlCode x.lvl k)) (fun t => t.set1 (F.PE_STAT.LVL_ERR h c))
  s3.modCh h c (fun y => { y with pend := false })

/-- The record last applied needs other ranges, or the channel another architecture, than the DACs have. -/
def State.lvlBridges (s : State) (h c : Nat) : Bool :=
  let x := s.ch h c
  lvlVRange x.lvl != s.g (F.LVL_TERM.VRANGE h c) || lvlIRange x.lvl != s.g (F.LVL_TERM.IRANGE h c) ||
    x.arch != s.g (F.PE_CTL.DAC_ARCH h c)

/-- RANGE_BRIDGE_START (R282, step 1). -/
def bridgeStart (h c : Nat) (s : State) : State :=
  blankUpdate h c ((s.set1 (F.PE_STAT.RANGE_BUSY h c)).modCh h c (fun x => { x with bridge := 1, pend := false }))

/-- The record last applied is asked for: by a bridge where ranges or the architecture change, else at the next
converter update. -/
def lvlAsk (h c : Nat) (s : State) : State :=
  if s.is (F.PE_STAT.SAFE h c) || s.clrLow then s
  else if s.lvlBridges h c then bridgeStart h c s
  else s.modCh h c (fun x => { x with pend := true })

/-- LEVEL_APPLY of level set `ls` to channel slot `c` (R277, R283, R297, R555). -/
def levelApply (h c ls : Nat) (s : State) : State :=
  let r := s.level h ls c
  let s1 := s.p (F.LVL_TERM.LS h c) ls
  let x := s.ch h c
  if x.bridge != 0 then s1.setCh h c { x with wait := some r }
  else if x.lvl == r then s1
  else lvlAsk h c (s1.setCh h c { x with lvl := r })

/-- The bridge of a channel ends at once (R283): the record that waited becomes the one last applied. -/
def bridgeStop (h c : Nat) (s : State) : State :=
  (s.clr (F.PE_STAT.RANGE_BUSY h c)).modCh h c (fun x =>
    { x with bridge := 0, pend := false, lvl := x.wait.getD x.lvl, wait := none })

/-- The clear code of a voltage DAC (R296). -/
def State.clearCode (s : State) (h c : Nat) : Nat :=
  let r2 := s.is (F.LVL_TERM.VRANGE h c)
  if (s.ch h c).arch = 1 then (if r2 then s.g (F.CLEAR_LAD.LAD_R2 h) else s.g (F.CLEAR_LAD.LAD_R1 h))
  else (if r2 then s.g (F.CLEAR_CODE.CODE_R2 h) else s.g (F.CLEAR_CODE.CODE_R1 h))

/-- A clear of the DACs of a channel (R296, R297); a bridge ends. -/
def chClear (h c : Nat) (s : State) : State :=
  let v := s.clearCode h c
  blankUpdate h c ((dacPut h c (fun k => if k < 5 then v else 0) (bridgeStop h c s)).set1 (F.LVL_TERM.CLEARED h c))

/-- The safe state of a PE channel (R298–R300). -/
def peSafe (h c : Nat) (s : State) : State :=
  let s1 := (s.set1 (F.PE_STAT.SAFE h c)).modCh h c (fun x => { x with settle := false, pp := false })
  enEff h c (chClear h c s1)

/-- An enabled channel leaves the safe state: the full record last applied goes out at the next converter update, and
the comparators are enabled (R299, R300, R555). -/
def peRelease (h c : Nat) (s : State) : State :=
  enEff h c (compEnable h c ((s.clr (F.PE_STAT.SAFE h c)).modCh h c (fun x => { x with pend := true })))

/-- The level set that channel slot `c` uses while bank `b` is live (R276; assumption 18). -/
def State.lsOf (s : State) (h b c : Nat) : Option Nat :=
  let live := (bankAlcs b).filter (fun i => s.alcSt h i == alcLive)
  let sub (g : Nat) := live.find? (fun i => natBits (s.alc h i).gmask g 1 == 1)
  let who :=
    match s.owner h b c with
    | some i => some i
    | none =>
      match (List.range 4).find? (fun g => natBits (s.g (F.BCAST_MEM.MEM h g)) c 1 == 1) with
      | some g => (sub g).or live.head?
      | none => live.head?
  who.map (fun i => s.g (F.ALC_STATE.LS h i))

/-- Every channel's level set as bank `b` uses them is applied; after a clear the full levels go out (R277, R297). -/
def levelsApply (h b : Nat) (s : State) : State :=
  let s1 := s.each 32 (fun c t => match s.lsOf h b c with | some n => levelApply h c n t | none => t)
  if (s.peh h).reapply && !s.clrLow then
    (s1.modPeh h (fun x => { x with reapply := false })).each 32 (fun c t =>
      if (t.ch h c).bridge = 0 then lvlAsk h c t else t)
  else s1

/-! ### Converter updates (R277, R282, R283) -/

/-- LEVEL_UPDATE: a converter update lets out the codes of channel slot `c`; where no bank of the hall is live and a
clear has ended, the full levels of the hall (R297).  While DAC_CLR_N is low nothing reaches a DAC. -/
def levelUpdate (h c : Nat) (s : State) : State :=
  if s.clrLow then s
  else
    let out (d : Nat) (t : State) : State :=
      if t.is (F.PE_STAT.SAFE h d) || (t.ch h d).bridge != 0 then t
      else if t.lvlBridges h d then bridgeStart h d t else lvlOut h d t
    if (s.peh h).reapply && s.liveBank h == none then
      (s.modPeh h (fun x => { x with reapply := false })).each 32 out
    else if (s.ch h c).pend then out c s
    else s

def execLevelUpdate (h c : Nat) (s : State) : Host.Outcome State Fault Refusal :=
  .next (if s.hallOk h && c < 32 then levelUpdate h c s else s)

/-- A code moved to another range or architecture so that the output stays: half-way values go up, and the result is
limited to 16 bits (14 in the ladder) (R271–R273, R282). -/
def reRange (code num den top : Nat) : Nat := min ((2 * code * num + den) / (2 * den)) top

/-- The codes that give the present outputs in the new ranges and architecture (R282, step 2). -/
def presetCodes (fromArch toArch fromV toV fromI toI : Nat) (k v : Nat) : Nat :=
  if k < 5 then
    let den := (if fromArch = 1 then 16384 else 65536) * (if toV = 1 then 2 else 1)
    let num := (if toArch = 1 then 16384 else 65536) * (if fromV = 1 then 2 else 1)
    reRange v num den (if toArch = 1 then 16383 else 65535)
  else reRange v (if fromI = 1 then 10 else 1) (if toI = 1 then 10 else 1) 65535

/-- RANGE_CROSSOVER (R282, step 3). -/
def rangeCross (h c : Nat) (s : State) : State :=
  let x := s.ch h c
  if x.bridge = 1 then
    let a := s.g (F.PE_CTL.DAC_ARCH h c)
    let v := lvlVRange x.lvl
    let i := lvlIRange x.lvl
    let f := presetCodes x.arch a (s.g (F.LVL_TERM.VRANGE h c)) v (s.g (F.LVL_TERM.IRANGE h c)) i
    let s1 := dacPut h c (fun k => f k (s.dacCode h c k)) s
    ((s1.p (F.LVL_TERM.VRANGE h c) v).p (F.LVL_TERM.IRANGE h c) i).setCh h c { x with bridge := 2, arch := a }
  else s

def execRangeCrossover (h c : Nat) (s : State) : Host.Outcome State Fault Refusal :=
  .next (if s.hallOk h && c < 32 then rangeCross h c s else s)

/-- RANGE_TARGET (R282, step 4). -/
def rangeTarget (h c : Nat) (s : State) : State :=
  if (s.ch h c).bridge = 2 then (lvlOut h c s).modCh h c (fun x => { x with bridge := 3 }) else s

def execRangeTarget (h c : Nat) (s : State) : Host.Outcome State Fault Refusal :=
  .next (if s.hallOk h && c < 32 then rangeTarget h c s else s)

/-- RANGE_BRIDGE_END (R282, step 5; R283): a record that waited is applied next. -/
def rangeEnd (h c : Nat) (s : State) : State :=
  let x := s.ch h c
  if x.bridge = 3 then
    let s1 := (s.clr (F.PE_STAT.RANGE_BUSY h c)).setCh h c { x with
      bridge := 0, lvl := x.wait.getD x.lvl, wait := none, pend := x.wait.isSome }
    blankUpdate h c (if s1.lvlBridges h c then bridgeStart h c s1 else s1)
  else s

def execRangeBridgeEnd (h c : Nat) (s : State) : Host.Outcome State Fault Refusal :=
  .next (if s.hallOk h && c < 32 then rangeEnd h c s else s)

/-! ### PE_CTL (R274, R284, R286, R299) -/

/-- PE_CTL of channel slot `c` written with `v`. -/
def peCtlWrite (h c : Nat) (v : Word) (s : State) : State :=
  let old := s.rd (R.PE_CTL h c)
  let archChg := (F.PE_CTL.DAC_ARCH h c).of v != (F.PE_CTL.DAC_ARCH h c).of old
  if (F.PE_CTL.OFF_MODE h c).of v = 3 then s.set1 (F.PE_STAT.CFG_ERR h c)
  else if archChg && s.hallRun h then s.set1 (F.PE_STAT.PE_BUSY h c)
  else
    let wasEn := (F.PE_CTL.EN h c).is old
    let en := (F.PE_CTL.EN h c).is v && (wasEn || s.inService)
    let s1 := s.wr (R.PE_CTL h c) (fieldPut 31 1 en.toNat (v &&& 0xFFC00000#32))
    let s2 :=
      if en && !wasEn then
        if s.is (F.PE_STAT.SAFE h c) then (if s.fenced h || s.dryRun then s1 else peRelease h c s1)
        else enEff h c (compEnable h c s1)
      else if !en && wasEn then enEff h c (s1.modCh h c (fun x => { x with settle := false }))
      else s1
    let s3 := if archChg && (s2.ch h c).bridge = 0 then lvlAsk h c s2 else s2
    blankUpdate h c s3

/-- PE_EN_WRITE: PE_CTL written with its present fields and EN (R286, R299). -/
def execPeEnWrite (h c : Nat) (en : Bool) (s : State) : Host.Outcome State Fault Refusal :=
  .next (if s.hallOk h && c < 32 then
    s.host (fun t => peCtlWrite h c (fieldPut 31 1 en.toNat (t.rd (R.PE_CTL h c))) t) else s)

/-- DAC_ARCH_WRITE: PE_CTL written with its present fields and DAC_ARCH (R274). -/
def execDacArchWrite (h c : Nat) (arch : Bool) (s : State) : Host.Outcome State Fault Refusal :=
  .next (if s.hallOk h && c < 32 then
    s.host (fun t => peCtlWrite h c (fieldPut 30 1 arch.toNat (t.rd (R.PE_CTL h c))) t) else s)

/-- COMP_SETTLE_END, 200 ns after an enable: the comparators read the pin, which is at `nv` nanovolts, and the trip path is
ungated and tested (R288, R291). -/
def execCompSettleEnd (h c : Nat) (nv : Int) (s : State) : Host.Outcome State Fault Refusal :=
  .next (
    if s.hallOk h && c < 32 && (s.ch h c).settle then
      peTest h c (compSee h c nv (s.modCh h c (fun x => { x with settle := false })))
    else s)

/-! ### The latch (R289) -/

/-- The evaluated compare instants of one sample period classify the pin as `seen`, in order of time (R289). -/
def latchRecord (h c : Nat) (seen : List Nat) (s : State) : State :=
  let s1 := s.when (!s.is (F.PE_CTL.LATCH h c)) (fun t => t.wr (R.PE_LATCH h c) 0)
  let s2 := s1.over seen (fun k t =>
    match k with
    | 0 => t.set1 (F.PE_LATCH.SEEN_LOW h c)
    | 1 => t.set1 (F.PE_LATCH.SEEN_MID h c)
    | _ => t.set1 (F.PE_LATCH.SEEN_HIGH h c))
  s2.p (F.PE_LATCH.LAST h c) (seen.getLast?.getD 0)

/-! ### Trips (R291, R292) -/

/-- PE_TRIP: the pin of channel slot `c` comes to `nv` nanovolts; the path trips if the condition of TRIP_CTL holds on the
comparators and nothing gates it. -/
def execPeTrip (h c : Nat) (nv : Int) (s : State) : Host.Outcome State Fault Refusal :=
  .next (if s.hallOk h && c < 32 then peTest h c (compSee h c nv s) else s)

/-- The latched trip of a channel cleared by the host: the condition is judged on the comparators as they stand. -/
def tripClear (h c : Nat) (s : State) : State :=
  if s.is (F.PE_STAT.TRIPPED h c) then
    let m := s.g (F.TRIP_MAP.TRIPPED h)
    let s1 := (s.clr (F.PE_STAT.TRIPPED h c)).p (F.TRIP_MAP.TRIPPED h) (m - 2 ^ c * natBits m c 1)
    peTest h c (s1.modCh h c (fun x => { x with tripDrv := false, tripHall := false }))
  else s

/-- TRIP_CLEAR with the pin of the channel at `nv` nanovolts; a clear in the core cycle that latched the trip leaves it
set (R14). -/
def execTripClear (h c : Nat) (nv : Int) (s : State) : Host.Outcome State Fault Refusal :=
  .next (
    if s.hallOk h && c < 32 then
      s.host (fun t => (compSee h c nv t).when (!t.isFresh (F.PE_STAT.TRIPPED h c)) (tripClear h c))
    else s)

/-- TRIP_CTL written (R291).  A condition that holds under the new word trips at once. -/
def tripCtlWrite (h c : Nat) (v : Word) (s : State) : State :=
  if (F.TRIP_CTL.SMU_EN h c).is v && !s.grpOk ((F.TRIP_CTL.SMU_GRP h c).of v) then s.set1 (F.PE_STAT.CFG_ERR h c)
  else peTest h c (s.wr (R.TRIP_CTL h c) (v &&& 0xFF800000#32))

def execTripCtlWrite (h c : Nat) (v : Word) (s : State) : Host.Outcome State Fault Refusal :=
  .next (if s.hallOk h && c < 32 then s.host (tripCtlWrite h c v) else s)

/-! ### The parametric path (R294, R295) -/

/-- The parametric path acts on the channels of a mask: driver off, blanked.  It stays off on a channel in the safe state
(R299). -/
def ppOn (h mask : Nat) (s : State) : State :=
  s.each 32 (fun c t => if natBits mask c 1 = 1 && !t.is (F.PE_STAT.SAFE h c) then blankUpdate h c (t.modCh h c (fun x => { x with pp := true })) else t)

/-- The path turns off; the comparators of enabled channels are enabled again (R288). -/
def ppOff (h mask : Nat) (s : State) : State :=
  s.each 32 (fun c t =>
    if natBits mask c 1 = 1 && (t.ch h c).pp then
      let t1 := t.modCh h c (fun x => { x with pp := false })
      blankUpdate h c (if t1.is (F.PE_CTL.EN h c) && !t1.is (F.PE_STAT.SAFE h c) then compEnable h c t1 else t1)
    else t)

/-- A pin voltage in mV stored as a parametric result, limited to −2.0 V to +7.0 V (R294). -/
def ppStore (h c : Nat) (mv : Int) (s : State) : State :=
  let v := max (-2000) (min 7000 mv)
  ((s.set1 (F.PP_RESULT.VALID h c)).pb (F.PP_RESULT.OVR h c) (v != mv)).p (F.PP_RESULT.VOLT h c) (unsigned 16 v)

def State.ppStoreAll (s : State) (h mask : Nat) (mv : List Int) : State :=
  s.each 32 (fun c t => if natBits mask c 1 = 1 then ppStore h c (mv.getD c 0) t else t)

/-- SITESEL of bank 1 A, 2 B or 3 C asserted, or none (R197); a dry replay asserts none (R512). -/
def siteSel (h b : Nat) (s : State) : State := s.modHl h (fun x => { x with sitesel := if s.dryRun then 0 else b })

/-- PP_BUSY, which PP_CTL.GO reads as well. -/
def ppBusy (h : Nat) (b : Bool) (s : State) : State := (s.pb (F.PE_HALL_STAT.PP_BUSY h) b).pb (F.PP_CTL.GO h) b

/-- A parametric GO with the fields of PP_CTL as they stand (R295); it waits for the end of a slice (R488). -/
def ppGo (h : Nat) (s : State) : State :=
  let i := signed 8 (s.g (F.PP_CTL.IFORCE h))
  let m := s.g (F.PP_CTL.MSETTLE h)
  let x := s.peh h
  if s.slice h then s.setPeh h { x with ppWait := true }
  else if s.hallRun h || x.touch.isSome || x.ppPhase != 0 || s.fenced h || i = 0 || i < -100 || 100 < i || m < 1 || 1000 < m
  then (s.setPeh h { x with ppWait := false }).set1 (F.PE_HALL_STAT.PP_REFUSED h)
  else
    let b := s.g (F.PP_CTL.BANK h)
    blankHall h (ppBusy h true (s.setPeh h { x with
      ppWait := false, ppPhase := if b = 0 then 2 else 1, ppBank := b, ppMask := s.g (F.PP_MASK.MASK h) }))

/-- PP_CTL written (R295). -/
def ppCtlWrite (h : Nat) (v : Word) (s : State) : State :=
  let s1 := s.wr (R.PP_CTL h) (fieldPut 31 1 (s.g (F.PP_CTL.GO h)) (v &&& 0x60FF03FF#32))
  if (F.PP_CTL.GO h).is v then ppGo h s1 else s1

/-- PP_GO: PP_CTL written with GO = 1 (R295). -/
def execPpGo (h : Nat) (v : Word) (s : State) : Host.Outcome State Fault Refusal :=
  .next (if s.hallOk h then s.host (ppCtlWrite h (fieldPut 31 1 1 v)) else s)

/-- PARAMETRIC_PHASE_END: the SITESEL gap, SETTLE or MSETTLE of a parametric measurement ends (R195, R295). -/
def execParametricPhaseEnd (h : Nat) (s : State) : Host.Outcome State Fault Refusal :=
  .next (
    let x := s.peh h
    if s.hallOk h then
      match x.ppPhase with
      | 1 => siteSel h x.ppBank (s.setPeh h { x with ppPhase := 2 })
      | 2 => ppOn h x.ppMask (s.setPeh h { x with ppPhase := 3 })
      | 3 => s.setPeh h { x with ppPhase := 4 }
      | _ => s
    else s)

/-- The parametric measurement of a hall ends: the path and SITESEL turn off. -/
def ppEnd (h : Nat) (s : State) : State :=
  let x := s.peh h
  if x.ppPhase = 0 then s
  else blankHall h (ppBusy h false (siteSel h 0 (ppOff h x.ppMask (s.setPeh h { x with ppPhase := 0, ppBank := 0, ppMask := 0 }))))

/-- PP_DONE: the aperture ends; `mv` holds the measured voltage of each channel slot in mV (R294, R295). -/
def execPpDone (h : Nat) (mv : List Int) (s : State) : Host.Outcome State Fault Refusal :=
  .next (
    let x := s.peh h
    if s.hallOk h && x.ppPhase == 4 then ppEnd h (s.ppStoreAll h x.ppMask mv) else s)

/-! ### TOUCHDOWN (R194–R196) -/

/-- The completion result of TOUCHDOWN: the contact codes of banks A, B and C. -/
def touchRes (codes : Nat) : List (Nat × Nat × Nat) := [(8, 24, codes)]

/-- TOUCHDOWN on hall `h`, in the order of R195. -/
def touchdown (q : Nat) (r : DescRun) (s : State) : State :=
  let d := r.desc
  let h := dUnit d
  let i := signed 16 (dsc d 22 2)
  let ms := dsc d 28 2
  let banks := dscBits d 20 0 3
  if h < 32 && !s.hallOk h then s.complete r.did .absent []
  else if 31 < h || dAddr d != 0 || dLen d != 0 || dscBits d 20 3 5 != 0 || dscBits d 21 1 7 != 0 || !dscZeroFrom d 30 ||
      banks = 0 || i = 0 || i < -100 || 100 < i || dsc d 24 2 ≤ dsc d 26 2 || ms < 1 || 1000 < ms then
    s.complete r.did .badop []
  else if !r.owns h then (s.lastErr q 3 r.qpos).complete r.did .denied []
  else if s.hallRun h || (s.peh h).touch.isSome || (s.peh h).ppPhase != 0 || (tabGet (fun _ => ({} : HseX)) s.hses h).xfer.isSome
  then s.complete r.did .busy []
  else if s.fenced h then s.complete r.did .denied []
  else s.modPeh h (fun x => { x with touch := some {
    did := r.did, banks := (List.range 3).filter (fun b => natBits banks b 1 = 1), phase := 0
    apply := dscBits d 21 0 1 == 1, vopen := dsc d 24 2, vshort := dsc d 26 2, result := 0 } })

/-- TOUCHDOWN (R195).  While a calibration slice runs on the hall it waits (R488). -/
def execTouchdown (q : Nat) (s : State) : Host.Outcome State Fault Refusal :=
  .next (
    match s.findRun q 0x0006 false with
    | some r => if dUnit r.desc < 32 && s.slice (dUnit r.desc) then s else s.withDesc q 0x0006 (touchdown q)
    | none => s)

/-- Contact code of a channel: 1 CONTACT, 2 OPEN, 3 SHORT (R194). -/
def contactCode (vopen vshort : Nat) (mv : Int) : Nat :=
  let m := (max (-2000) (min 7000 mv)).natAbs
  if vopen ≤ m then 2 else if m ≤ vshort then 3 else 1

/-- The mark of R196 on alcove `i` of a tested bank; `codes` holds the bank's codes. -/
def touchMark (h codes i : Nat) (s : State) : State :=
  let own := (s.alc h i).own
  let slots := (List.range 32).filter (fun c => natBits own c 1 = 1)
  let st := s.alcSt h i
  if own = 0 || !(st = alcBound || (st = 0 && s.g (F.ALC_STATE.CONTACT h i) = 3)) then s
  else
    let set (st' contact : Nat) := (s.p (F.ALC_STATE.STATE h i) st').p (F.ALC_STATE.CONTACT h i) contact
    if slots.all (fun c => natBits codes (2 * c) 2 = 2) then set 0 3
    else if slots.all (fun c => natBits codes (2 * c) 2 = 1) then set alcBound 1
    else set alcBound 2

/-- The codes of one bank as a 64-bit field. -/
def bankCodes (vopen vshort : Nat) (mv : List Int) : Nat :=
  pack ((List.range 32).map (fun c => (2 * c, 2, contactCode vopen vshort (mv.getD c 0))))

/-- TOUCHDOWN_DONE (R196). -/
def touchDone (h : Nat) (banks result : Nat) (x : TouchX) (s : State) : State :=
  let s1 := s.modPeh h (fun y => { y with touch := none })
  let s2 := s1.when x.apply (fun t =>
    t.each 96 (fun i u =>
      if natBits banks (i / 32) 1 = 1 then touchMark h (natBits result (64 * (i / 32)) 64) i u else u))
  s2.complete x.did .ok (touchRes result)

/-- TOUCHDOWN_PHASE_END: the select gap, SETTLE, MSETTLE or the aperture ends; `mv` holds the voltages measured in the
aperture, in mV by channel slot (R195). -/
def touchPhase (h : Nat) (mv : List Int) (x : TouchX) (s : State) : State :=
  let next (y : TouchX) (t : State) : State := t.modPeh h (fun z => { z with touch := some y })
  let b := x.banks.headD 0
  match x.phase with
  | 0 => siteSel h (b + 1) (next { x with phase := 1 } s)
  | 1 => ppOn h 0xFFFFFFFF (next { x with phase := 2 } s)
  | 2 => next { x with phase := 3 } s
  | _ =>
    let res := x.result ||| bankCodes x.vopen x.vshort mv <<< (64 * b)
    let s1 := siteSel h 0 (ppOff h 0xFFFFFFFF (s.ppStoreAll h 0xFFFFFFFF mv))
    let y := { x with result := res, done := x.done ||| 1 <<< b, banks := x.banks.tail, phase := 0 }
    if y.banks.isEmpty then touchDone h y.done res y s1 else next y s1

def execTouchdownPhaseEnd (h : Nat) (mv : List Int) (s : State) : Host.Outcome State Fault Refusal :=
  .next (
    match (s.peh h).touch with
    | some x => if s.hallOk h then touchPhase h mv x s else s
    | none => s)

/-- A fence of the hall ends a contact test or a parametric measurement (R476; assumption 19). -/
def ppAbort (h : Nat) (s : State) : State :=
  let s1 := ppEnd h (s.modPeh h (fun x => { x with ppWait := false }))
  match (s1.peh h).touch with
  | some x =>
    (siteSel h 0 (ppOff h 0xFFFFFFFF (s1.modPeh h (fun y => { y with touch := none })))).complete x.did .faulted
      (touchRes x.result)
  | none => s1

/-! ### SET_LEVELS (R279–R281) -/

/-- The completion result of SET_LEVELS. -/
def setLevelsRes (first count detail busySet crc : Nat) : List (Nat × Nat × Nat) :=
  [(8, 1, first), (9, 1, count), (10, 1, detail), (11, 1, busySet), (12, 4, crc)]

/-- Checks 1 to 5 of R280, then the read of host memory. -/
def setLevels (q : Nat) (r : DescRun) (s : State) : State :=
  let d := r.desc
  let h := dUnit d
  let first := dscBits d 20 0 6
  let count := dscBits d 21 0 7
  let fail (st : Status) (detail : Nat) := s.complete r.did st (setLevelsRes first 0 detail 0 0)
  if h < 32 && !s.hallOk h then fail .absent 0
  else if 31 < h || dscBits d 20 6 2 != 0 || dscBits d 21 7 1 != 0 || !dscZeroFrom d 22 || dAddr d % 16 != 0 then
    fail .badop 1
  else if count = 0 || 64 < first + count then fail .badlen 1
  else if dLen d != 512 * count then fail .badlen 2
  else if !r.owns h then
    (s.lastErr q 3 r.qpos).complete r.did .denied (setLevelsRes first 0 3 0 0)
  else s.send (.hostRead (dAddr d) (dLen d))

def execSetLevels (q : Nat) (s : State) : Host.Outcome State Fault Refusal := .next (s.withDesc q 0x000A (setLevels q))

/-- A little-endian number of a list of bytes. -/
def leNat : List Nat → Nat
  | [] => 0
  | b :: r => b % 256 + 256 * leNat r

/-- Record `j` of the bytes read by SET_LEVELS. -/
def lvlOfBytes (data : List Nat) (j : Nat) : BitVec 128 := BitVec.ofNat 128 (leNat ((data.drop (16 * j)).take 16))

/-- SET_LEVELS_COMMIT: checks 6 to 8 of R280 on the bytes read, and the commit of all sets in one core cycle. -/
def setLevelsCommit (ok : Bool) (data : List Nat) (r : DescRun) (s : State) : State :=
  let d := r.desc
  let h := dUnit d
  let first := dscBits d 20 0 6
  let count := dscBits d 21 0 7
  let crc := crc32 data
  let busy := (List.range count).find? (fun k =>
    (List.range 96).any (fun i => s.alcSt h i == alcLive && s.g (F.ALC_STATE.LS h i) == first + k))
  if !ok || data.length != 512 * count then s.complete r.did .faulted (setLevelsRes first 0 1 0 0)
  else if !(List.range (32 * count)).all (fun j => lvlRsvOk (lvlOfBytes data j)) then
    s.complete r.did .badop (setLevelsRes first 0 2 0 crc)
  else
    match busy with
    | some k => s.complete r.did .busy (setLevelsRes first 0 1 (first + k) crc)
    | none =>
      (s.each (32 * count) (fun j t => t.setLevel h (first + j / 32) (j % 32) (lvlOfBytes data j))).complete r.did .ok
        (setLevelsRes first count 0 0 crc)

/-- SET_LEVELS_COMMIT on the descriptor that queue `q` executes; `ok` tells whether the read succeeded. -/
def execSetLevelsCommit (q : Nat) (ok : Bool) (data : List Nat) (s : State) : Host.Outcome State Fault Refusal :=
  .next (s.withActed q 0x000A (setLevelsCommit ok data))

/-! ### Clear codes (R296, R297, R324) -/

/-- The TIME records of a DAC_CLR_N edge (R297, R558): one per present hall, in hall order. -/
def clrJournal (arg : Nat) (s : State) : State :=
  s.each s.part.halls (fun h t => t.j 0x61 h 0 arg (packB [(0, 8, t.tb1 >>> 16)]))

/-- DAC_CLR_FALL: DAC_CLR_N has been low for at least 50 ns (R297, R324). -/
def execDacClrFall (s : State) : Host.Outcome State Fault Refusal :=
  .next (
    if s.clrLow then s
    else
      let s1 := s.each s.part.halls (fun h t => (t.each 32 (chClear h)).set1 (F.PE_HALL_STAT.CLR_ACTIVE h))
      clrJournal 0 (s1.each s.part.smus smuClear))

/-- DAC_CLR_RISE (R297, R324): every hall applies its full levels at its next landing or converter update; the SMU
DACs keep the clear code until a later force. -/
def execDacClrRise (s : State) : Host.Outcome State Fault Refusal :=
  .next (
    if s.clrLow then
      let s1 := s.each s.part.halls (fun h t =>
        ((t.clr (F.PE_HALL_STAT.CLR_ACTIVE h)).set1 (F.PE_HALL_STAT.CLR_SEEN h)).modPeh h (fun x => { x with reapply := true }))
      clrJournal 1 (s1.each s.part.smus (fun k t => t.modSmu k SmuX.ungive))
    else s)

end Sys2Proof.Machine
end

