-- ==== Sys2Proof/Machine/Tdc.lean ====
section
/-! DEFINITION. Time-interval and frequency measurement: TDC events, interval samples, stats engines, the regression
engine, threshold latches and READ_STATS (chapter "Time-interval and frequency measurement", R327–R345). -/
namespace Sys2Proof.Machine

/-! ### Access -/

def State.tdc (s : State) (h c : Nat) : TdcX := tabGet (fun _ => ({} : TdcX)) s.tdcs (32 * h + c)
def State.setTdc (s : State) (h c : Nat) (x : TdcX) : State :=
  { s with tdcs := tabSet (fun _ => ({} : TdcX)) s.tdcs (32 * h + c) x }
def State.modTdc (s : State) (h c : Nat) (f : TdcX → TdcX) : State := s.setTdc h c (f (s.tdc h c))

def State.smp (s : State) (h m : Nat) : SampleX := tabGet (fun _ => ({} : SampleX)) s.samples (64 * h + m)
def State.setSmp (s : State) (h m : Nat) (x : SampleX) : State :=
  { s with samples := tabSet (fun _ => ({} : SampleX)) s.samples (64 * h + m) x }

def State.reg (s : State) (h : Nat) : RegX := tabGet (fun _ => ({} : RegX)) s.regrs h
def State.setReg (s : State) (h : Nat) (x : RegX) : State := { s with regrs := tabSet (fun _ => ({} : RegX)) s.regrs h x }

/-- The channel slots running under set `m`. -/
def State.runners (s : State) (h m : Nat) : List Nat := (List.range 32).filter (fun c => (s.tdc h c).run == some m)

/-- Stops per sample of set `m` (NSTOP). -/
def State.nstop (s : State) (h m : Nat) : Nat := s.g (F.TDC_SET_A.NSTOP h m) + 1

/-! ### Ends of sets (R336) -/

/-- A channel's set ends as aborted; what it has accumulated stays. -/
def tdcAbort1 (h c : Nat) (s : State) : State :=
  if (s.tdc h c).run.isSome then
    (((s.modTdc h c (fun x => { x with run := none, stops := [], queue := [] })).clr (F.TDC_STAT.RUN h c)).set1
      (F.TDC_STAT.ABORTED h c)).set1 (F.TDC_HALL_STAT.ABORTED h)
  else s

/-- The regression ends as aborted. -/
def regAbort (h : Nat) (s : State) : State :=
  if (s.reg h).run then
    ((s.setReg h { s.reg h with run := false, open_ := false, aborted := true }).clr (F.TDC_HALL_STAT.REG_RUN h)).set1
      (F.TDC_HALL_STAT.ABORTED h)
  else s

/-- Every running set of the hall ends as aborted; sets started by GO only if `host` (R336). -/
def tdcAbort (h : Nat) (host : Bool) (s : State) : State :=
  let s1 := s.each 32 (fun c t => if host || !(t.tdc h c).byHost then tdcAbort1 h c t else t)
  if host || !(s1.reg h).byHost then regAbort h s1 else s1

/-! ### Starts of sets (R330) -/

/-- The stats engine of a channel in its reset state (R334, R343). -/
def statsClear (h c : Nat) (s : State) : State :=
  let s1 := (s.p (F.TDC_STAT.DONE h c) 0).p (F.TDC_STAT.ABORTED h c) 0
  let s2 := (s1.p (F.TDC_STAT.NOREF h c) 0).p (F.TDC_STAT.SQ_SAT h c) 0
  let s3 := ((s2.wr (R.TDC_N h c) 0).wr (R.TDC_TMO h c) 0).wr (R.TDC_SKIP h c) 0
  s3.modTdc h c (fun x => { run := x.run, stops := x.stops, lastStamp := x.lastStamp, byHost := x.byHost, alc := x.alc })

/-- At the start of set `m` the latches named by QCLR clear, but those that set in the same core cycle (R330, R339). -/
def tdcqClear (h m : Nat) (s : State) : State :=
  let q := s.g (F.TDC_HALL_STAT.TDCQ h)
  s.p (F.TDC_HALL_STAT.TDCQ h) (q - (q &&& s.g (F.TDC_SET_A.QCLR h m) &&& (15 - s.freshOf (F.TDC_HALL_STAT.TDCQ h))))

/-- Set `m` of hall `h` starts, by GO or for alcove `alc` of the device (R330). -/
def tdcStart (h m : Nat) (byHost : Bool) (alc : Nat) (s : State) : State :=
  let s1 := (tdcqClear h m s).p (F.TDC_HALL_STAT.LAST_SET h) m
  if s.is (F.TDC_SET_A.KIND h m) then
    let s2 := (s1.when ((s.reg h).set != m) (regAbort h)).set1 (F.TDC_HALL_STAT.REG_RUN h)
    let dec := s.g (F.TDC_SET_C.COUNT h m) % 65536
    s2.setReg h {
      run := true, open_ := true, set := m, slot := s.g (F.TDC_SET_A.START_SLOT h m), alc := alc, byHost := byHost
      d := dec + 1, dec := dec, gate := s.g (F.TDC_SET_D.PERIOD h m), noref := s.noref
      gateTb0 := s.tb0ns, gateAxis := s.pos h }
  else
    let mask := s.g (F.TDC_SET_B.STOPMASK h m)
    let s2 := s1.setSmp h m {}
    s2.each 32 (fun c t =>
      if natBits mask c 1 = 1 then
        let other := match (t.tdc h c).run with | some k => k != m | none => false
        let t1 := statsClear h c t
        let t2 := if other then tdcAbort1 h c t1 else t1
        ((t2.modTdc h c (fun x => { x with run := some m, stops := [], byHost := byHost, alc := alc })).set1
          (F.TDC_STAT.RUN h c)).p (F.TDC_STAT.SET h c) m
      else t)

/-- TDC_HOST written: ABORT, then GO (R330, R336). -/
def tdcHostWrite (h : Nat) (v : Word) (s : State) : State :=
  let m := (F.TDC_HOST.MSET h).of v
  let s1 := s.p (F.TDC_HOST.MSET h) m
  let s2 := if (F.TDC_HOST.ABORT h).is v then tdcAbort h true s1 else s1
  if (F.TDC_HOST.GO h).is v then
    if s2.hallRun h || s2.fenced h || !s2.is (F.TDC_SET_A.VALID h m) then s2.set1 (F.TDC_HALL_STAT.REFUSED h)
    else
      let (a, s3) := s2.draw 16
      tdcStart h m true a s3
  else s2

/-- TDC_GO (R330): the alcove that a TDCQ record of such a set names is a free value (assumption 20). -/
def execTdcGo (h m : Nat) (s : State) : Host.Outcome State Fault Refusal :=
  .next (if s.hallOk h && m < 64 then s.host (tdcHostWrite h (BitVec.ofNat 32 (2 ^ 31 + m))) else s)

/-- TDC_ABORT (R336): TDC_HOST written with its present set and ABORT = 1. -/
def execTdcAbort (h : Nat) (s : State) : Host.Outcome State Fault Refusal :=
  .next (if s.hallOk h then
    s.host (fun t => tdcHostWrite h (BitVec.ofNat 32 (2 ^ 30 + t.g (F.TDC_HOST.MSET h))) t) else s)

/-- Set `m` runs on a channel or in the regression engine. -/
def State.setRuns (s : State) (h m : Nat) : Bool :=
  !(s.runners h m).isEmpty || ((s.reg h).run && (s.reg h).set == m)

/-- A GATE of a REGRESS set, in µs (R331). -/
def gateOk (g : Nat) : Bool := 1 ≤ g && g ≤ 10000000

/-- Word `w` (0 A to 3 D) of a set, written with `v`, makes a valid combination with the words that stand (R331). -/
def tdcSetOk (s : State) (h m w : Nat) (v : Word) : Bool :=
  match w with
  | 0 =>
    (F.TDC_SET_A.START_SRC h m).of v != 3 && (F.TDC_SET_A.START_EDGE h m).of v != 3 &&
      (F.TDC_SET_A.STOP_EDGE h m).of v != 3 &&
      decide ((F.TDC_SET_A.STAT_IDX h m).of v ≤ (F.TDC_SET_A.NSTOP h m).of v) &&
      !((F.TDC_SET_A.STAT_MODE h m).is v && (F.TDC_SET_A.STAT_IDX h m).of v == 0) &&
      (!(F.TDC_SET_A.KIND h m).is v || gateOk (s.g (F.TDC_SET_D.PERIOD h m)))
  | 3 => !s.is (F.TDC_SET_A.KIND h m) || gateOk ((F.TDC_SET_D.PERIOD h m).of v)
  | _ => true

/-- The write leaves a REGRESS set whose bits 23:16 of TDC_SET_C are not 0, as they must be; no response is stated (R345,
R22). -/
def tdcSetMust (s : State) (h m w : Nat) (v : Word) : Bool :=
  match w with
  | 0 => (F.TDC_SET_A.KIND h m).is v && 65536 ≤ s.g (F.TDC_SET_C.COUNT h m)
  | 2 => s.is (F.TDC_SET_A.KIND h m) && 65536 ≤ (F.TDC_SET_C.COUNT h m).of v
  | _ => false

/-- A word of set `m` written (R22, R331, R551): an invalid combination sets CFG_ERR also while the set runs. -/
def tdcSetWrite (h m w : Nat) (v : Word) (s : State) : State :=
  if !tdcSetOk s h m w v then (s.set1 (F.TDC_HALL_STAT.TDC_BUSY h)).set1 (F.TDC_HALL_STAT.CFG_ERR h)
  else if s.setRuns h m then s.set1 (F.TDC_HALL_STAT.TDC_BUSY h)
  else if tdcSetMust s h m w v then s
  else
    match w with
    | 0 => s.cfgWr (R.TDC_SET_A h m) (v &&& 0xFFFFFF80#32)
    | 1 => s.cfgWr (R.TDC_SET_B h m) v
    | 2 => s.cfgWr (R.TDC_SET_C h m) (v &&& 0xFFFFFF#32)
    | _ => s.cfgWr (R.TDC_SET_D h m) (v &&& 0xFFFFFF#32)

/-- TDC_SET_WRITE: word `w` (0 A, 1 B, 2 C, 3 D) of set `m` (R331). -/
def execTdcSetWrite (h m w : Nat) (v : Word) (s : State) : Host.Outcome State Fault Refusal :=
  .next (if s.hallOk h && m < 64 && w < 4 then s.host (tdcSetWrite h m w v) else s)

/-- TDCQ_CFG written (R339): QTY 7 and MODE 3 are ignored with CFG_ERR. -/
def tdcqCfgWrite (h k : Nat) (v : Word) (s : State) : State :=
  if (F.TDCQ_CFG.QTY h k).of v = 7 || (F.TDCQ_CFG.MODE h k).of v = 3 then s.set1 (F.TDC_HALL_STAT.CFG_ERR h)
  else s.cfgWr (R.TDCQ_CFG h k) (v &&& 0xFFE00000#32)

/-! ### Threshold latches (R339) -/

/-- TDCQ_SET: latch `k` is evaluated on a 64-bit value.  `outside` marks a value outside any limits, `invalid` an
INVALID result. -/
def tdcqEval (h k alc v : Nat) (outside invalid : Bool) (s : State) : State :=
  let lo := s.g (F.TDCQ_LO_LO.LIMIT h k) + 2 ^ 32 * s.g (F.TDCQ_LO_HI.LIMIT h k)
  let hi := s.g (F.TDCQ_HI_LO.LIMIT h k) + 2 ^ 32 * s.g (F.TDCQ_HI_HI.LIMIT h k)
  let inside :=
    if outside then false
    else if s.g (F.TDCQ_CFG.QTY h k) = 5 then lo ≤ v && v ≤ hi
    else signed 64 lo ≤ signed 64 v && signed 64 v ≤ signed 64 hi
  let sets :=
    match s.g (F.TDCQ_CFG.MODE h k) with
    | 0 => invalid || !inside
    | 1 => !invalid && inside
    | _ => true
  let q := s.g (F.TDC_HALL_STAT.TDCQ h)
  if sets && natBits q k 1 = 0 && !s.replaying then
    (s.setBit (F.TDC_HALL_STAT.TDCQ h) k).j 0x5A h alc k (packB [(0, 8, v)])
  else s

/-- Latch `k` names slot `c` and a quantity that `f` accepts. -/
def State.tdcqOn (s : State) (h k c : Nat) (f : Nat → Bool) : Bool :=
  s.is (F.TDCQ_CFG.EN h k) && s.g (F.TDCQ_CFG.SLOT h k) == c && f (s.g (F.TDCQ_CFG.QTY h k))

/-! ### The stats engine (R333–R335) -/

/-- Integer square root, bit by bit below 2^b. -/
def isqrt : Nat → Nat → Nat → Nat
  | 0, _, r => r
  | b + 1, n, r => let t := r + 2 ^ b; isqrt b n (if t * t ≤ n then t else r)

/-- 256 × √(p / q) rounded to nearest, ties upward. -/
def sqrt256 (p q : Nat) : Nat := (isqrt 100 (4 * 65536 * p / q) 0 + 1) / 2

/-- MEAN in units of 1/256 ps. -/
def TdcX.mean (x : TdcX) : Int := if x.n = 0 then 0 else roundAway (256 * (x.ref * x.n + x.sum)) x.n

/-- SDEV in units of 1/256 ps. -/
def TdcX.sdev (x : TdcX) : Nat :=
  if x.sqSat then 2 ^ 64 - 1
  else if x.n < 2 then 0
  else sqrt256 ((x.n : Int) * x.sumsq - x.sum * x.sum).toNat (x.n * (x.n - 1))

/-- The quantity of a latch, as 64 bits. -/
def TdcX.quantity (x : TdcX) : Nat → Nat
  | 0 => unsigned 64 x.mean
  | 1 => x.sdev
  | 2 => unsigned 64 (256 * x.min)
  | 3 => unsigned 64 (256 * x.max)
  | _ => unsigned 64 (256 * x.last)

/-- A value accumulated (R334). -/
def TdcX.accept (x : TdcX) (v : Int) : TdcX :=
  let r := if x.n = 0 then v else x.ref
  let q := x.sumsq + ((v - r) * (v - r)).toNat
  { x with
    n := x.n + 1, ref := r, sum := x.sum + (v - r), last := v
    sumsq := if q < 2 ^ 64 then q else 2 ^ 64 - 1
    sqSat := x.sqSat || decide (2 ^ 64 ≤ q)
    min := if x.n = 0 || v < x.min then v else x.min
    max := if x.n = 0 || x.max < v then v else x.max }

/-- STATS_COMPLETE (R335): DONE, and the latches that name the slot. -/
def statsComplete (h c : Nat) (s : State) : State :=
  let x := s.tdc h c
  let s1 := ((s.setTdc h c { x with run := none, queue := [], stops := [] }).clr (F.TDC_STAT.RUN h c)).set1
    (F.TDC_STAT.DONE h c)
  s1.each 4 (fun k t =>
    if t.tdcqOn h k c (fun q => q < 5) then
      let qty := t.g (F.TDCQ_CFG.QTY h k)
      tdcqEval h k x.alc (x.quantity qty) (qty = 1 && x.sqSat) false t
    else t)

/-- STATS_ACCEPT (R333–R335). -/
def statsAccept (h c : Nat) (s : State) : State :=
  let x := s.tdc h c
  match x.run, x.queue with
  | some m, v :: rest =>
    let y := { x.accept v with queue := rest }
    let s1 := ((s.setTdc h c y).p (F.TDC_N.N h c) y.n).pb (F.TDC_STAT.SQ_SAT h c) y.sqSat
    if y.n = s.g (F.TDC_SET_C.COUNT h m) + 1 then statsComplete h c s1 else s1
  | _, _ => s

def execStatsAccept (h c : Nat) (s : State) : Host.Outcome State Fault Refusal :=
  .next (if s.hallOk h && c < 32 then statsAccept h c s else s)

/-! ### Samples (R332, R333) -/

/-- A channel's value at the end of a sample: into the queue, or TDC_TMO or TDC_SKIP counts (R333). -/
def sampleValue (h m c : Nat) (s : State) : State :=
  let x := s.tdc h c
  let i := s.g (F.TDC_SET_A.STAT_IDX h m)
  let v : Option Int :=
    match x.stops[i]? with
    | none => none
    | some a =>
      if s.is (F.TDC_SET_A.STAT_MODE h m) then
        match x.stops[i - 1]? with
        | some b => some ((a : Int) - b)
        | none => none
      else some a
  let s1 := s.setTdc h c { x with lastStops := x.stops, stops := [] }
  match v with
  | none => s1.count (F.TDC_TMO.COUNT h c) (F.TDC_TMO.SAT h c)
  | some w =>
    if x.queue.length < 4 then s1.modTdc h c (fun y => { y with queue := y.queue ++ [w] })
    else s1.count (F.TDC_SKIP.COUNT h c) (F.TDC_SKIP.SAT h c)

/-- Every running channel of the sample has its stops. -/
def State.sampleFull (s : State) (h m : Nat) : Bool :=
  (s.runners h m).all (fun c => (s.tdc h c).stops.length == s.nstop h m)

/-- The longest sample, 8 ms in ps. -/
def sampleMax : Nat := 8000000000

/-- The stamp at which the open sample ends: its last stop, or 8 ms after its start. -/
def State.sampleEndAt (s : State) (h m start : Nat) : Nat :=
  if s.sampleFull h m then start + ((s.runners h m).map (fun c => (s.tdc h c).stops.getLastD 0)).foldl max 0
  else start + sampleMax

/-- SAMPLE_END (R333, R341). -/
def sampleEnd (h m : Nat) (s : State) : State :=
  let y := s.smp h m
  match y.start with
  | none => s
  | some a =>
    let rs := s.runners h m
    let s1 := s.setSmp h m { y with start := none, ended := some (s.sampleEndAt h m a), noref := false }
    let s2 := s1.when y.noref (fun t =>
      (t.over rs (fun c u => u.set1 (F.TDC_STAT.NOREF h c))).set1 (F.TDC_HALL_STAT.NOREF h))
    s2.over rs (sampleValue h m)

def execSampleEnd (h m : Nat) (s : State) : Host.Outcome State Fault Refusal :=
  .next (if s.hallOk h && m < 64 then sampleEnd h m s else s)

/-- A start of set `m` at stamp `t` (R332): taken, or counted in TDC_SKIP.  The Boolean tells whether it was taken. -/
def sampleStart (h m t : Nat) (s : State) : State × Bool :=
  let s1 := if (s.smp h m).start.isSome && s.sampleFull h m then sampleEnd h m s else s
  let y := s1.smp h m
  let early := match y.ended with | some e => decide (t < e + 40000) | none => false
  if y.start.isSome || early then
    (s1.over (s1.runners h m) (fun c u => u.count (F.TDC_SKIP.COUNT h c) (F.TDC_SKIP.SAT h c)), false)
  else
    ((s1.setSmp h m { y with start := some t, noref := s1.noref }).over (s1.runners h m)
      (fun c u => u.modTdc h c (fun x => { x with stops := [] })), true)

/-- A tread starts: it counts on the grid of every set that has had its first AXIS start. -/
def sampleTread (h : Nat) (s : State) : State :=
  { s with samples := s.samples.map (fun e =>
      if e.1 / 64 = h then (e.1, { e.2 with at_ := e.2.at_.map (· + 1) }) else e) }

/-- TDC_AXIS_START: a tread boundary at stamp `t`, the first after the set started or on the grid of EVERY treads counted
from it (R332). -/
def execTdcAxisStart (h m t : Nat) (s : State) : Host.Outcome State Fault Refusal :=
  .next (
    let every := max 1 (s.g (F.TDC_SET_D.PERIOD h m))
    let due := match (s.smp h m).at_ with | some n => 0 < n && n % every == 0 | none => true
    if s.hallOk h && m < 64 && !(s.runners h m).isEmpty && s.g (F.TDC_SET_A.START_SRC h m) == 0 && due then
      let s1 := (sampleStart h m t s).1
      s1.setSmp h m { s1.smp h m with at_ := some 0 }
    else s)

/-! ### Stamps and the regression engine (R327, R328, R337, R338) -/

/-- An edge code accepts an event: `kind` 0 rising, 1 falling. -/
def edgeOk (code kind : Nat) : Bool := kind < 2 && (code == kind || code == 2)

/-- An event of the measured channel while the gate is open (R337); `stamped` tells whether the TDC stamped it. -/
def regEvent (h t : Nat) (stamped : Bool) (s : State) : State :=
  let x := s.reg h
  let n := x.events
  let y := { x with events := n + 1 }
  if n % x.d != 0 then s.setReg h y
  else
    let near := match x.lastAll with | some l => decide (t < l + 40000) | none => false
    if !stamped || near then s.setReg h { y with lost := min (x.lost + 1) (2 ^ 32 - 1) }
    else
      let f := if x.k = 0 then t else x.first
      let fk := if x.k = 0 then n / x.d else x.firstK
      let dt := t - f
      let dk := n / x.d - fk
      let full := x.k + 1 == 16777216
      s.setReg h { y with
        k := x.k + 1, first := f, firstK := fk, last := t, lastAll := some t
        a1 := x.a1 + dk, a2 := x.a2 + dk * dk, s1 := x.s1 + dt, s2 := x.s2 + dk * dt, q := x.q + dt * dt
        klim := x.klim || full, open_ := !full }

/-- A measurement of marks on channel slot `c` is armed (R90): a running set starts at them, or the set that runs on the
channel stops at them. -/
def State.markArmed (s : State) (h c : Nat) : Bool :=
  (List.range 64).any (fun m =>
    (!(s.runners h m).isEmpty && s.g (F.TDC_SET_A.START_SRC h m) == 1 && s.g (F.TDC_SET_A.START_SLOT h m) == c) ||
      ((s.tdc h c).run == some m && s.is (F.TDC_SET_A.STOP_SRC h m)))

/-- Entry `e` of the flight playing marks channel slot `c` (R85, R90, R91): its code is EDGE, the slot does not play the
hold vector, and a measurement is armed. -/
def State.marks (s : State) (h c e : Nat) : Bool :=
  match (s.hl h).play, s.liveBank h with
  | some f, some b =>
    let x := s.flt_ h f
    s.playing h && !s.fenced h && decide (e < 64 * x.len) && s.codeAt h (64 * x.start + e) c == 0xF && !s.slotHeld h b c &&
      s.markArmed h c
  | _, _ => false

/-- A rising event is one of the high comparator, which goes to "above", and a falling one of the low comparator, which goes
to "below"; with VOL not above VOH the other comparator follows the pin.  The trip condition is tested (R287, R291, R327). -/
def compEdge (h c kind : Nat) (s : State) : State :=
  let both := decide (s.dacVolt h c (s.g (F.LVL_CMP.VOL h c)) ≤ s.dacVolt h c (s.g (F.LVL_CMP.VOH h c)))
  match kind with
  | 0 => peTest h c (s.modCh h c (fun x => { x with hi := true, lo := x.lo || both }))
  | 1 => peTest h c (s.modCh h c (fun x => { x with lo := false, hi := x.hi && !both }))
  | _ => s

/-- A stamped event as start and stop of the running sets (R332). -/
def tdcStamped (h c kind t : Nat) (s : State) : State :=
  let starts (u : State) (m : Nat) : Bool :=
    !(u.runners h m).isEmpty && u.g (F.TDC_SET_A.START_SLOT h m) == c &&
      ((u.g (F.TDC_SET_A.START_SRC h m) == 1 && kind == 2) ||
        (u.g (F.TDC_SET_A.START_SRC h m) == 2 && edgeOk (u.g (F.TDC_SET_A.START_EDGE h m)) kind))
  let ms := (List.range 64).filter (starts s)
  let (s1, taken) := ms.foldl (fun (u, l) m => let (v, ok) := sampleStart h m t u; (v, if ok then m :: l else l)) (s, [])
  match (s1.tdc h c).run with
  | none => s1
  | some m =>
    let x := s1.tdc h c
    match (s1.smp h m).start with
    | none => s1
    | some a =>
      let stop := if s1.is (F.TDC_SET_A.STOP_SRC h m) then kind == 2 else edgeOk (s1.g (F.TDC_SET_A.STOP_EDGE h m)) kind
      if stop && !taken.contains m && decide (x.stops.length < s1.nstop h m) && decide (a ≤ t) &&
          decide (t ≤ a + sampleMax) then
        s1.setTdc h c { x with stops := x.stops ++ [t - a] }
      else s1

/-- TDC_EVENT on channel slot `c` at `t` ps: `kind` 0 a rising event, 1 a falling event, 2 a mark (R327, R328).  An event
within 3 ns of the channel's last stamp is not stamped. -/
def tdcEvent (h c kind t : Nat) (s : State) : State :=
  let x := s.tdc h c
  let stamped := match x.lastStamp with | some l => decide (l + 3000 ≤ t) | none => true
  let r := s.reg h
  let s1 := if r.open_ && r.slot == c && edgeOk (s.g (F.TDC_SET_A.START_EDGE h r.set)) kind then regEvent h t stamped s else s
  if stamped then tdcStamped h c kind t (s1.modTdc h c (fun y => { y with lastStamp := some t })) else s1

/-- TDC_EVENT: an event at `t` ps as the channel's TDC sees it, which its live offset corrects (R327), a mark in entry `e`.
Comparators that do not act on the pin make no event. -/
def execTdcEvent (h c kind t e : Nat) (s : State) : Host.Outcome State Fault Refusal :=
  .next (
    if s.hallOk h && c < 32 && (if kind = 2 then s.marks h c e else kind < 2 && s.compOn h c) then
      compEdge h c kind (tdcEvent h c kind (t + s.calLive (calHallRec h c + 4)).toNat s)
    else s)

/-- REG_GATE_CLOSE (R337). -/
def execRegGateClose (h : Nat) (s : State) : Host.Outcome State Fault Refusal :=
  .next (
    if s.hallOk h && (s.reg h).open_ then s.setReg h { s.reg h with open_ := false } else s)

/-- FREQ (Q32.32 Hz) and RESID (1/256 ps) of the sums (R338); `none` with K below 3. -/
def RegX.result (x : RegX) : Option (Nat × Nat) :=
  if x.k < 3 then none
  else
    let bn := x.k * x.s2 - x.a1 * x.s1
    let bd := x.k * x.a2 - x.a1 * x.a1
    let f := (2 * (2 ^ 32 * x.d * 10 ^ 12 * bd) + bn) / (2 * bn)
    some (f, sqrt256 ((x.k * x.q - x.s1 * x.s1) * bd - bn * bn) (x.k * bd * (x.k - 2)))

/-- REG_RESULT (R338, R339, R341). -/
def regResult (h : Nat) (s : State) : State :=
  let x := s.reg h
  let (f, r) := x.result.getD (0, 0)
  let inv := x.result.isNone
  let s1 := s.setReg h { x with run := false, done := true, freq := f, resid := r, invalid := inv }
  let s2 := ((s1.clr (F.TDC_HALL_STAT.REG_RUN h)).set1 (F.TDC_HALL_STAT.REG_DONE h)).when x.noref
    (fun t => t.set1 (F.TDC_HALL_STAT.NOREF h))
  let s3 := ((s2.p (F.REG_FREQ_LO.FREQ h) f).p (F.REG_FREQ_HI.FREQ_HI h) (f >>> 32)).p (F.REG_K.K h) x.k
  s3.each 4 (fun k t =>
    if t.tdcqOn h k x.slot (fun q => q == 5 || q == 6) then
      tdcqEval h k x.alc (if t.g (F.TDCQ_CFG.QTY h k) = 5 then f else r) false inv t
    else t)

def execRegResult (h : Nat) (s : State) : Host.Outcome State Fault Refusal :=
  .next (if s.hallOk h && (s.reg h).run && !(s.reg h).open_ then regResult h s else s)

/-! ### READ_STATS (R342–R344) -/

/-- The channel record of R344, 128 bytes. -/
def State.statsRecord (s : State) (h c : Nat) : Nat :=
  let x := s.tdc h c
  let b (f : FRef) (k : Nat) := if s.is f then 2 ^ k else 0
  let flags := b (F.TDC_STAT.DONE h c) 0 + b (F.TDC_STAT.RUN h c) 1 + b (F.TDC_STAT.ABORTED h c) 2 +
    b (F.TDC_STAT.NOREF h c) 3 + b (F.TDC_STAT.SQ_SAT h c) 4 + (if x.n = 0 then 32 else 0)
  packB ([(0, 1, 0x20), (1, 1, h), (2, 1, c), (3, 1, flags), (4, 1, s.g (F.TDC_STAT.SET h c)), (8, 4, x.n),
    (12, 4, (s.rd (R.TDC_TMO h c)).toNat), (16, 8, unsigned 64 x.sum), (24, 8, x.sumsq), (32, 5, unsigned 40 x.ref),
    (37, 5, unsigned 40 x.min), (42, 5, unsigned 40 x.max), (47, 1, x.lastStops.length), (48, 8, unsigned 64 x.mean),
    (56, 8, x.sdev), (64, 4, (s.rd (R.TDC_SKIP h c)).toNat)] ++
    (List.range 8).map (fun i => (88 + 5 * i, 5, x.lastStops.getD i 0)))

/-- The regression record of R344, 64 bytes. -/
def State.regRecord (s : State) (h : Nat) : Nat :=
  let x := s.reg h
  let flags := x.done.toNat + 2 * x.run.toNat + 4 * x.aborted.toNat + 8 * x.noref.toNat + 16 * x.klim.toNat +
    32 * x.invalid.toNat
  packB [(0, 1, 0x21), (1, 1, h), (2, 1, x.slot), (3, 1, flags), (4, 1, x.set), (8, 4, x.k), (12, 4, x.gate),
    (16, 8, x.freq), (24, 8, x.resid), (32, 8, x.last - x.first), (40, 4, x.lost), (44, 4, x.gateTb0),
    (48, 6, x.gateAxis), (54, 2, x.dec)]

/-- The completion result of READ_STATS (R343). -/
def readStatsRes (s : State) (h n detail busy : Nat) : List (Nat × Nat × Nat) :=
  [(8, 4, n), (12, 4, if n = 0 then 0 else s.tb0ns), (16, 6, if n = 0 then 0 else s.pos h), (22, 1, detail), (24, 4, busy)]

/-- READ_STATS, in the order of R343. -/
def readStats (q : Nat) (r : DescRun) (s : State) : State :=
  let d := r.desc
  let h := dUnit d
  let sel := dscBits d 20 0 1
  let clear := dscBits d 20 1 1 == 1
  let mask := dsc d 24 4
  let cs := (List.range 32).filter (fun c => natBits mask c 1 = 1)
  let fail (st : Status) (detail busy : Nat) := s.complete r.did st (readStatsRes s h 0 detail busy)
  let busy := if sel = 0 then pack (cs.map (fun c => (c, 1, s.g (F.TDC_STAT.RUN h c)))) else 2 ^ 31 * (s.reg h).run.toNat
  if h < 32 && !s.hallOk h then fail .absent 0 0
  else if 31 < h || dscBits d 20 2 6 != 0 || dsc d 21 3 != 0 || !dscZeroFrom d 28 || dAddr d % 64 != 0 ||
      (sel = 0 && mask = 0) || (sel = 1 && mask != 0) then fail .badop 1 0
  else if dLen d != (if sel = 0 then 128 * cs.length else 64) then fail .badlen 1 0
  else if !r.owns h then (s.lastErr q 3 r.qpos).complete r.did .denied (readStatsRes s h 0 3 0)
  else if clear && busy != 0 then fail .busy 1 busy
  else if sel = 0 then
    let s1 := (cs.foldl (fun (t, a) c => (t.send (.hostWrite a 128 (s.statsRecord h c)), a + 128)) (s, dAddr d)).1
    (s1.when clear (fun t => t.over cs (statsClear h))).complete r.did .ok (readStatsRes s h cs.length 0 0)
  else
    let s1 := s.send (.hostWrite (dAddr d) 64 (s.regRecord h))
    (s1.when clear (fun t => t.setReg h {})).complete r.did .ok (readStatsRes s h 1 0 0)

def execReadStats (q : Nat) (s : State) : Host.Outcome State Fault Refusal := .next (s.withDesc q 0x0014 (readStats q))

end Sys2Proof.Machine
end

