-- ==== Sys2Proof/Machine/Serial.lean ====
section
/-! DEFINITION. Hall serial engines, SERIAL_XFER and the host's BOOT_SPI transactions (chapter "Serial engines and the
management port", R364–R386). -/
namespace Sys2Proof.Machine

def State.hse (s : State) (h : Nat) : HseX := tabGet (fun _ => ({} : HseX)) s.hses h
def State.setHse (s : State) (h : Nat) (x : HseX) : State := { s with hses := tabSet (fun _ => ({} : HseX)) s.hses h x }
def State.modHse (s : State) (h : Nat) (f : HseX → HseX) : State := s.setHse h (f (s.hse h))

/-- The hall serial engine is fenced or warming: with its hall, or alone (R475, R481). -/
def State.hseFenced (s : State) (h : Nat) : Bool := s.fenced h || s.is (F.UNIT_STATE.HSE_FENCED h)

/-- A transfer is running or queued. -/
def HseX.busy (x : HseX) : Bool := x.run.isSome || !x.queue.isEmpty || x.xfer.isSome

/-- BUSY and QDEPTH follow the engine. -/
def hseStat (h : Nat) (s : State) : State :=
  (s.pb (F.HSE_STAT.BUSY h) (s.hse h).busy).p (F.HSE_STAT.QDEPTH h) (s.hse h).queue.length

/-! ### Slots and lanes (R365, R368–R372) -/

/-- Lanes of a width code. -/
def lanesOf (w : Nat) : Nat := 2 ^ w

/-- The data lanes that slot `n` needs, as a mask of D0 to D7. -/
def State.slotLanes (s : State) (h n : Nat) : Nat :=
  if !s.is (F.HSE_SLOT_A.MODE h n) then 3
  else
    let cw := lanesOf (s.g (F.HSE_SLOT_A.CMD_W h n))
    let aw := lanesOf (s.g (F.HSE_SLOT_A.ADDR_W h n))
    let dw := lanesOf (s.g (F.HSE_SLOT_A.DATA_W h n))
    let c := if s.g (F.HSE_SLOT_A.CMD_LEN h n) = 0 then 0 else 2 ^ cw - 1
    let a := if s.g (F.HSE_SLOT_A.ADDR_LEN h n) = 0 then 0 else 2 ^ aw - 1
    let d :=
      if s.g (F.HSE_SLOT_D.LEN h n) = 0 then 0
      else if dw = 1 then (if s.is (F.HSE_SLOT_A.DIR h n) then 2 else 1)
      else 2 ^ dw - 1
    c ||| a ||| d

/-- The offset of data lane `k` in lane map `m`. -/
def State.laneOff (s : State) (h m k : Nat) : Nat :=
  if k < 5 then natBits (s.rd (R.LMAP_A h m)).toNat (20 - 5 * k) 5 else natBits (s.rd (R.LMAP_B h m)).toNat (10 - 5 * (k - 5)) 5

/-- The channel slots of the lanes of a transfer: CLK first, then the data lanes it needs. -/
def State.laneSlots (s : State) (h n base : Nat) : List Nat :=
  let m := s.g (F.HSE_SLOT_A.LMAP h n)
  let b := if s.is (F.LMAP_A.REL h m) then base else 0
  let ds := (List.range 8).filter (fun k => natBits (s.slotLanes h n) k 1 = 1)
  (b + s.g (F.LMAP_A.CLK h m)) :: ds.map (fun k => b + s.laneOff h m k)

/-- All numbers of a list differ. -/
def distinct : List Nat → Bool
  | [] => true
  | a :: r => !r.contains a && distinct r

/-- The lowest slot of an OWN mask. -/
def lowestSlot (own : Nat) : Nat := ((List.range 32).find? (fun c => natBits own c 1 == 1)).getD 0

/-- The lanes are distinct and no higher than 31 (R365). -/
def State.lanesOk (s : State) (h n base : Nat) : Bool :=
  let l := s.laneSlots h n base
  distinct l && l.all (fun c => c < 32)

/-- Slot `n` keeps R369 to R372. -/
def State.slotValid (s : State) (h n : Nat) : Bool :=
  let chk := s.g (F.HSE_SLOT_A.CHECK h n)
  if !s.is (F.HSE_SLOT_A.MODE h n) then s.g (F.HSE_SLOT_D.LEN h n) != 0 && chk < 2
  else
    let cl := s.g (F.HSE_SLOT_A.CMD_LEN h n)
    let al := s.g (F.HSE_SLOT_A.ADDR_LEN h n)
    decide (cl ≤ 16) && decide (al ≤ 32) && cl % lanesOf (s.g (F.HSE_SLOT_A.CMD_W h n)) == 0 &&
      al % lanesOf (s.g (F.HSE_SLOT_A.ADDR_W h n)) == 0 && chk < 3 && (s.is (F.HSE_SLOT_A.DIR h n) || chk == 0)

/-- Serial cycles of slot `n` (R371). -/
def State.slotCycles (s : State) (h n : Nat) : Nat :=
  let len := s.g (F.HSE_SLOT_D.LEN h n)
  if !s.is (F.HSE_SLOT_A.MODE h n) then 3 + len
  else 3 + s.g (F.HSE_SLOT_A.CMD_LEN h n) / lanesOf (s.g (F.HSE_SLOT_A.CMD_W h n)) +
    s.g (F.HSE_SLOT_A.ADDR_LEN h n) / lanesOf (s.g (F.HSE_SLOT_A.ADDR_W h n)) + s.g (F.HSE_SLOT_B.DUMMY h n) +
    8 * len / lanesOf (s.g (F.HSE_SLOT_A.DATA_W h n))

/-- Bytes that slot `n` stores in the IN region. -/
def State.slotStores (s : State) (h n : Nat) : Nat :=
  let len := s.g (F.HSE_SLOT_D.LEN h n)
  if !s.is (F.HSE_SLOT_A.MODE h n) then (len + 7) / 8
  else if s.is (F.HSE_SLOT_A.DIR h n) then len else 0

/-- Byte `j` of a region of the OUT buffer (`inBuf` false) or the IN buffer, at offset `off` (R368). -/
def regionAddr (inBuf : Bool) (off j : Nat) : Nat := (if inBuf then 8192 else 0) + (32 * off + j) % 8192

/-- The SERIAL port of hall `h`. -/
def serialPort (h : Nat) : Nat := 64 + h

def State.region (s : State) (h : Nat) (inBuf : Bool) (off j : Nat) : Nat :=
  (s.rdByte (serialPort h) (regionAddr inBuf off j)).toNat

/-- Bytes stored in a region of the IN buffer. -/
def regionStore (h off : Nat) (data : List Nat) (s : State) : State :=
  (data.foldl (fun (t, j) b => (t.wrByte (serialPort h) (regionAddr true off j) (BitVec.ofNat 8 b), j + 1)) (s, 0)).1

/-- Bits beyond BITLEN of the last byte of a LONG transfer read 0 (R369). -/
def trimBits (len : Nat) (data : List Nat) : List Nat :=
  (List.range data.length).map (fun j => natBits (data.getD j 0) 0 (min 8 (len - 8 * j)))

/-- The indices at which the received data mismatch (R366, R372); `mid` lists the stream bits sampled MID. -/
def State.mismatches (s : State) (h n : Nat) (data mid : List Nat) : List Nat :=
  let len := s.g (F.HSE_SLOT_D.LEN h n)
  let out := s.g (F.HSE_SLOT_D.OUT_OFF h n)
  let chk := s.g (F.HSE_SLOT_A.CHECK h n)
  if !s.is (F.HSE_SLOT_A.MODE h n) then
    let e := natBits (s.g (F.HSE_SLOT_C.ADDR h n)) 8 8
    let m := natBits (s.g (F.HSE_SLOT_C.ADDR h n)) 0 8
    if chk = 1 then
      (List.range len).filter (fun i =>
        natBits (s.region h false m (i / 8)) (i % 8) 1 == 1 &&
          (mid.contains i || natBits (s.region h false e (i / 8)) (i % 8) 1 != natBits (data.getD (i / 8) 0) (i % 8) 1))
    else []
  else if !s.is (F.HSE_SLOT_A.DIR h n) then []
  else
    match chk with
    | 1 => (List.range len).filter (fun j => s.region h false out j != data.getD j 0 || mid.any (fun i => i / 8 == j))
    | 2 =>
      let w := (List.range 4).foldl (fun a j => a + s.region h false out j * 2 ^ (8 * j)) 0
      if w = crc32 data then [] else [0]
    | _ => []

/-! ### Ends of transfers (R374–R376, R380) -/

/-- The flags of a transfer (R380, R386). -/
def hseFlags (smis mid lost aborted host : Bool) : Nat :=
  smis.toNat + 2 * mid.toNat + 4 * lost.toNat + 8 * aborted.toNat + 16 * host.toNat

/-- HSE_LAST, HSE_CRC and the sticky bits take a transfer's report. -/
def hseReport (h slot alc flags crc : Nat) (s : State) : State :=
  let s1 := ((s.p (F.HSE_LAST.SLOT h) slot).p (F.HSE_LAST.ALCOVE h) alc).p (F.HSE_LAST.FLAGS h) flags
  let s2 := s1.p (F.HSE_CRC.CRC h) crc
  (s2.when (natBits flags 2 1 == 1) (fun t => t.set1 (F.HSE_STAT.LANE_LOST h))).when (natBits flags 3 1 == 1)
    (fun t => t.set1 (F.HSE_STAT.ABORTED h))

/-- The done and mismatch status of a SEND reaches its alcove, if it is the alcove's last SEND (R374).  In a replay
it comes from the record (R511). -/
def sendStatus (h : Nat) (r : SendReq) (smis : Bool) (s : State) : State :=
  if s.replaying then s
  else if (s.alc h r.alc).lastSend = r.seq then s.modAlc h r.alc (fun a => { a with sdone := true, smis := smis }) else s

/-- A SEND's transfer ends (R374). -/
def sendEnd (h : Nat) (r : SendReq) (flags mism crc : Nat) (s : State) : State :=
  let s1 := sendStatus h r (natBits flags 0 1 == 1) (hseReport h r.slot (96 * h + r.alc) flags crc s)
  s1.j 0x58 h (96 * h + r.alc) r.slot (packB [(0, 1, flags), (1, 4, mism), (5, 4, crc)])

/-- What a transfer that is stopped before its end leaves is not stated: the bytes of its IN region, its flag MID, its
mismatch count and its CRC are free values (assumption 21). -/
def stoppedReport (h n : Nat) (s : State) : Nat × Nat × Nat × State :=
  let k := s.slotStores h n
  let s1 := (List.range k).foldl (fun t j =>
    let (v, u) := t.draw 8
    u.wrByte (serialPort h) (regionAddr true (s.g (F.HSE_SLOT_D.IN_OFF h n)) j) (BitVec.ofNat 8 v)) s
  let (f, s2) := s1.draw 1
  let (m, s3) := s2.draw 32
  let (c, s4) := s3.draw 32
  (9 + 2 * f + 4 * (s.hse h).lost.toNat, m, c, s4)

/-- The completion result of SERIAL_XFER (R380). -/
def xferRes (slot detail flags crc mism first cycles : Nat) : List (Nat × Nat × Nat) :=
  [(8, 1, slot), (9, 1, detail), (10, 1, flags % 16), (12, 4, crc), (16, 4, mism), (20, 4, first), (24, 4, cycles)]

/-- The running SEND ends as aborted. -/
def abortRun (h : Nat) (s : State) : State :=
  match (s.hse h).run with
  | none => s
  | some r =>
    let (f, m, c, s1) := stoppedReport h r.slot s
    hseStat h (sendEnd h r f m c (s1.modHse h (fun x => { x with run := none })))

/-- Queued requests, and those on their way, that `p` names end as aborted (R376). -/
def abortQueued (h : Nat) (p : SendReq → Bool) (s : State) : State :=
  let x := s.hse h
  let gone := (x.queue ++ x.flight).filter p
  let s1 := s.setHse h { x with queue := x.queue.filter (fun r => !p r), flight := x.flight.filter (fun r => !p r) }
  hseStat h (s1.over gone (fun r t => sendEnd h r 9 0 (crc32 []) t))

/-- The transfers that `p` names end as aborted, the running one first. -/
def abortSends (h : Nat) (p : SendReq → Bool) (s : State) : State :=
  let s1 := match (s.hse h).run with | some r => if p r then abortRun h s else s | none => s
  abortQueued h p s1

/-- A SERIAL_XFER ends as aborted; its descriptor completes FAULTED (R380; assumption 22). -/
def abortXfer (h : Nat) (s : State) : State :=
  match (s.hse h).xfer with
  | none => s
  | some x =>
    let s0 := siteSel h 0 (s.modHse h (fun y => { y with xfer := none }))
    if x.running then
      let (f, m, c, s1) := stoppedReport h x.slot s0
      let (i, s2) := s1.draw 32
      let (n, s3) := s2.draw 32
      hseStat h ((hseReport h x.slot 0 (f + 16) c s3).complete x.did .faulted (xferRes x.slot 0 f c m i n))
    else hseStat h ((hseReport h x.slot 0 25 (crc32 []) s0).complete x.did .faulted
      (xferRes x.slot 0 9 (crc32 []) 0 0xFFFFFFFF 0))

/-- Every transfer of the engine ends as aborted: a fence of it or of its hall, or HSE_CTL.ABORT (R376). -/
def hseAbort (h : Nat) (s : State) : State := abortXfer h (abortSends h (fun _ => true) s)

/-- The transfers of an alcove end as aborted (R376). -/
def hseAbortAlc (h i : Nat) (s : State) : State :=
  if (s.hse h).run.isNone && (s.hse h).queue.isEmpty && (s.hse h).flight.isEmpty then s
  else abortSends h (fun r => r.alc == i) s

/-- A transfer of bank `b` is queued, running or on its way (R201). -/
def State.bankSends (s : State) (h b : Nat) : Bool :=
  let x := s.hse h
  (x.queue ++ x.flight ++ x.run.toList).any (fun r => r.bank == b)

/-! ### SENDs (R373) -/

/-- A SEND starts at its landing: the request is on its way to the engine. -/
def sendRequest (h i n : Nat) (s : State) : State :=
  let x := s.hse h
  (s.setHse h { x with flight := x.flight ++ [⟨i, n, x.sent + 1, i / 32⟩], sent := x.sent + 1 }).modAlc h i
    (fun a => { a with lastSend := x.sent + 1 })

/-- HSE_ENQUEUE: the first request on its way reaches the engine (R373, R375).  A fenced engine ends it as aborted. -/
def hseEnqueue (h : Nat) (s : State) : State :=
  let x := s.hse h
  match x.flight with
  | [] => s
  | r :: rest =>
    let s1 := s.setHse h { x with flight := rest }
    if s.hseFenced h then sendEnd h r 9 0 (crc32 []) s1
    else if x.queue.length < 64 then hseStat h (s1.modHse h (fun y => { y with queue := y.queue ++ [r] }))
    else
      let s2 := sendStatus h r true ((s1.set1 (F.HSE_STAT.QOVF h)).count (F.HSE_QDROP.COUNT h) (F.HSE_QDROP.SAT h))
      -- it ran no transfer and leaves HSE_LAST alone (assumption 142)
      (s2.j 0x58 h (96 * h + r.alc) r.slot (packB [(0, 1, 1), (1, 4, 0), (5, 4, crc32 [])])).raise
        (8 * h + 5) (96 * h + r.alc) [96 * h + r.alc]

/-- HSE_TRANSFER_START (R373). -/
def execHseTransferStart (h : Nat) (s : State) : Host.Outcome State Fault Refusal :=
  .next (
    let x := s.hse h
    match x.queue with
    | r :: rest =>
      if s.hallOk h && x.run.isNone && x.xfer.isNone then hseStat h (s.setHse h { x with queue := rest, run := some r, lost := false }) else s
    | [] => s)

/-- Every lane of the SEND that runs is coded SE in entry `e` of the flight playing (R90, R367). -/
def State.sendLanes (s : State) (h e : Nat) : Bool :=
  match (s.hse h).run with
  | some r => (s.laneSlots h r.slot (lowestSlot (s.alc h r.alc).own)).all (fun c => s.playCode h e c == some 0xA)
  | none => false

/-- `n` sample periods of hall `h` are to pass: where the engine runs a SEND and one of them is not coded SE on a lane, the
lane is lost; an idle or holding hall codes none SE (R91, R367). -/
def sendWatch (h n : Nat) (s : State) : State :=
  if (s.hse h).run.isNone || (s.hse h).lost || n = 0 then s
  else
    let e := (s.hl h).entry
    s.when ((List.range n).any (fun k => !s.sendLanes h (e + k))) (fun t => t.modHse h (fun x => { x with lost := true }))

/-- `n` sample periods of hall `h` are to pass on the pins that a serial lane or the raster stimulus unit drives. -/
def lanesPass (h n : Nat) (s : State) : State := rasterWatch h n (sendWatch h n s)

/-- A transfer of slot `n` ends with the bytes received, the stream bits sampled MID, and LANE_LOST: its stored bytes,
flags, mismatch indices and CRC. -/
def transferEnd (h n : Nat) (data mid : List Nat) (lost host : Bool) (s : State) : State × Nat × List Nat × Nat :=
  let k := s.slotStores h n
  let bytes := (List.range k).map (fun j => data.getD j 0 % 256)
  let d := if s.is (F.HSE_SLOT_A.MODE h n) then bytes else trimBits (s.g (F.HSE_SLOT_D.LEN h n)) bytes
  let mis := s.mismatches h n d mid
  (regionStore h (s.g (F.HSE_SLOT_D.IN_OFF h n)) d s, hseFlags (!mis.isEmpty) (!mid.isEmpty && k != 0) lost false host, mis, crc32 d)

/-- A lane of a SERIAL_XFER is not driven: EN = 0 or the safe state (R380). -/
def State.xferLost (s : State) (h n base : Nat) : Bool :=
  (s.laneSlots h n base).any (fun c => !s.is (F.PE_STAT.EN_EFF h c))

/-- A lane of the SERIAL_XFER that runs is watched. -/
def xferWatch (h : Nat) (s : State) : State :=
  match (s.hse h).xfer with
  | some y => s.when (y.running && s.xferLost h y.slot y.base) (fun t => t.modHse h (fun x => { x with lost := true }))
  | none => s

/-- HSE_TRANSFER_END (R374, R380). -/
def hseEnd (h : Nat) (data mid : List Nat) (s0 : State) : State :=
  let s := xferWatch h s0
  let x := s.hse h
  match x.run with
  | some r =>
    let (s1, f, mis, crc) := transferEnd h r.slot data mid x.lost false (s.setHse h { x with run := none })
    hseStat h (sendEnd h r f mis.length crc s1)
  | none =>
    match x.xfer with
    | some y =>
      if y.running then
        let (s1, f, mis, crc) := transferEnd h y.slot data mid x.lost true
          (siteSel h 0 (s.setHse h { x with xfer := none }))
        hseStat h ((hseReport h y.slot 0 f crc s1).complete y.did .ok
          (xferRes y.slot 0 f crc mis.length (mis.headD 0xFFFFFFFF) (s.slotCycles h y.slot)))
      else s
    | none => s

/-! ### Configuration (R377) -/

/-- The engine is busy, or the hall in a run: configuration writes are ignored. -/
def State.hseCfgBusy (s : State) (h : Nat) : Bool := (s.hse h).busy || s.hallRun h

/-- A transfer slot or a lane map written. -/
def hseCfgWrite (h a : Nat) (w : Word) (s : State) : State :=
  if s.hseCfgBusy h then s.set1 (F.HSE_STAT.CFG_BUSY h) else s.cfgWr a w

/-- HSE_CTL written (R376, R377): ABORT acts at any time. -/
def hseCtlWrite (h : Nat) (v : Word) (s : State) : State :=
  if 199 < (F.HSE_CTL.DIV h).of v then s.set1 (F.HSE_STAT.CFG_ERR h)
  else
    let w := v &&& 0x1FFF#32
    let abort := (F.HSE_CTL.ABORT h).is v
    let s1 :=
      if w == s.rd (R.HSE_CTL h) &&& 0x1FFF#32 && abort then s
      else if s.hseCfgBusy h then s.set1 (F.HSE_STAT.CFG_BUSY h)
      else s.cfgWr (R.HSE_CTL h) w
    if abort then hseAbort h s1 else s1

/-- The register that HSE_CONFIG_WRITE names. -/
def hseRegWrite (h : Nat) (r : HseReg) (v : Word) (s : State) : State :=
  match r with
  | .slotA n => if n < 256 then hseCfgWrite h (R.HSE_SLOT_A h n) (v &&& 0xFFFFFF80#32) s else s
  | .slotB n => if n < 256 then hseCfgWrite h (R.HSE_SLOT_B h n) (v &&& 0xFFFFFF00#32) s else s
  | .slotC n => if n < 256 then hseCfgWrite h (R.HSE_SLOT_C h n) v s else s
  | .slotD n => if n < 256 then hseCfgWrite h (R.HSE_SLOT_D h n) v s else s
  | .lmapA m => if m < 8 then hseCfgWrite h (R.LMAP_A h m) v s else s
  | .lmapB m => if m < 8 then hseCfgWrite h (R.LMAP_B h m) (v &&& 0x7FFF#32) s else s
  | .ctl => hseCtlWrite h v s

/-- A write of the SERIAL port (R377): the OUT buffer while the engine is idle.  The Boolean tells whether it landed. -/
def serialWrite (h a : Nat) (bytes : List Nat) (s : State) : State × Bool :=
  if a < 8192 && !(s.hse h).busy then (s.wrBytes (serialPort h) a bytes, true)
  else (s.set1 (F.HSE_STAT.WPROT h), false)

/-! ### SERIAL_XFER (R378–R380) -/

def serialXfer (q : Nat) (r : DescRun) (s : State) : State :=
  let d := r.desc
  let h := dUnit d
  let n := dsc d 20 1
  let bank := dscBits d 21 0 2
  let base := dscBits d 22 0 5
  let fail (st : Status) (detail : Nat) := s.complete r.did st (xferRes n detail 0 0 0 0 0)
  if h < 32 && !s.hallOk h then fail .absent 0
  else if 31 < h || dscBits d 21 2 6 != 0 || dscBits d 22 5 3 != 0 || !dscZeroFrom d 23 || dAddr d != 0 || dLen d != 0 then
    fail .badop 1
  else if !r.owns h then (s.lastErr q 3 r.qpos).complete r.did .denied (xferRes n 3 0 0 0 0 0)
  else if s.hseFenced h then fail .denied 1
  else if s.hallRun h || (s.peh h).touch.isSome || (s.peh h).ppPhase != 0 || (s.hse h).busy then fail .busy 1
  else if !s.is (F.HSE_SLOT_A.VALID h n) then fail .denied 2
  else if !s.slotValid h n || !s.lanesOk h n base then fail .badop 2
  else
    hseStat h (siteSel h bank (s.modHse h (fun x => { x with lost := false, xfer := some ⟨r.did, n, bank, base, bank == 0⟩ })))

/-- SERIAL_XFER (R379).  While a calibration slice runs on the hall it waits (R488). -/
def execSerialXfer (q : Nat) (s : State) : Host.Outcome State Fault Refusal :=
  .next (
    match s.findRun q 0x0011 false with
    | some r => if dUnit r.desc < 32 && s.slice (dUnit r.desc) then s else s.withDesc q 0x0011 (serialXfer q)
    | none => s)

/-- XFER_SETTLE_DONE (R380). -/
def execXferSettleDone (h : Nat) (s : State) : Host.Outcome State Fault Refusal :=
  .next (
    match (s.hse h).xfer with
    | some x => if s.hallOk h then s.modHse h (fun y => { y with xfer := some { x with running := true } }) else s
    | none => s)

/-! ### BOOT_SPI transactions of the host (R385) -/

/-- BSPI_CTL written. -/
def bspiCtlWrite (v : Word) (s : State) : State :=
  let len := F.BSPI_CTL.LEN.of v
  if 256 < len then s.set1 F.BSPI_STAT.REFUSED
  else
    let s1 := s.wr R.BSPI_CTL (v &&& 0x7FFE01FF#32)
    if !F.BSPI_CTL.GO.is v then s1
    else if s.is F.BSPI_STAT.BUSY || !s.inService then s1.set1 F.BSPI_STAT.REFUSED
    else
      let dir := F.BSPI_CTL.DIR.is v
      let sent := (List.range (if dir then len else 0)).map (fun j =>
        (4 + j, 1, natBits (s.g (F.BSPI_BUF.DATA (j / 4))) (8 * (j % 4)) 8))
      let out := packB ((0, 1, F.BSPI_CTL.CMD.of v) ::
        (1, 3, if F.BSPI_CTL.ADDR_EN.is v then s.g F.BSPI_ADDR.ADDR else 0) :: sent)
      ({ s1 with bspi := (dir, len) }.set1 F.BSPI_STAT.BUSY).send (.shift 1 out)

/-- BSPI_GO: BSPI_CTL written with GO = 1. -/
def execBspiGo (v : Word) (s : State) : Host.Outcome State Fault Refusal :=
  .next (s.host (bspiCtlWrite (fieldPut 31 1 1 v)))

/-- BSPI_DONE: `data` holds the bytes a read transaction received. -/
def execBspiDone (data : List Nat) (s : State) : Host.Outcome State Fault Refusal :=
  .next (
    if s.is F.BSPI_STAT.BUSY then
      let (dir, len) := s.bspi
      let put (j : Nat) (t : State) : State :=
        let a := R.BSPI_BUF (j / 4)
        t.wr a (fieldPut (8 * (j % 4)) 8 (data.getD j 0) (t.rd a))
      (if dir then s else s.each len put).clr F.BSPI_STAT.BUSY
    else s)

end Sys2Proof.Machine
end

