-- ==== Sys2Proof/Machine/Micro.lean ====
section
/-! DEFINITION. The landing engine's microcode: the control store as an engine fetches it, the microword formats, the
micro-ops and ENDI, and the micro faults (chapter "Landing engines, control store and patches", R163–R176).  The shipped
routines have the meanings of "Stair programs and landings"; this file runs the words of a patch or of a changed store. -/
namespace Sys2Proof.Machine

/-! ### Conditions (R133, R134) -/

/-- A condition test (R133). -/
def condTest (mode mask w : Nat) : Bool :=
  match mode with
  | 0 => (mask &&& w) != 0
  | 1 => (mask &&& w) == mask
  | 2 => (mask &&& w) == 0
  | _ => (mask &&& w) != mask

/-- CZ0 to CZ3 of a context. -/
def czBits (c : StairCtx) : Nat :=
  pack ((List.range 4).map (fun k => (28 + k, 1, (c.cnt.getD k 0 == 0).toNat)))

/-- The condition word that a test of a member sees: bits 0 to 27 of its snapshot, the counters live (R138). -/
def Member.word (m : Member) : Nat := m.cond % 2 ^ 28 ||| czBits m.ctx

/-! ### Ends of a member's segment -/

/-- A member ends at its instruction. -/
def Member.stop (m : Member) (t : Term) (c : StairCtx) : Member :=
  { m with ctx := c, st := .ended, termAt := m.ctx.pc, term := t }

/-- A member faults (R131). -/
def Member.fault (m : Member) (cause : Nat) : Member := m.stop (.fault cause) m.ctx

/-- The STAIR source reports each alcove that the stair program has faulted (R131, R469). -/
def stairRaise (h : Nat) (is_ : List Nat) (s : State) : State :=
  s.over is_ (fun i t => t.raise (8 * h + 4) (96 * h + i) [96 * h + i])

/-- MICRO_FAULT (R174): the engine stops and UCODE of its hall reports for as long as it stays stopped. -/
def microFault (h addr mop : Nat) (s : State) : State :=
  ((((s.p (F.UC_ENG.STATE h) 2).set1 (F.UC_ENG.UFAULT h)).p (F.UC_ENG.MOP h) mop).p (F.UC_ENG.UADDR h) addr).raiseLevel
    (8 * h + 2) noDetail

/-- The timeout of a BRW in treads (R135). -/
def brwTimeout (t : Nat) : Nat := (t % 16 + 1) * 4 ^ (t / 16)

/-! ### The control store (R175, R176) -/

/-- The patch RAM address that an enabled match register gives for a ROM address. -/
def State.matchOf (s : State) (a : Nat) : Option Nat :=
  ((List.range 16).find? (fun m => s.is (F.UC_MATCH.EN m) && s.g (F.UC_MATCH.ROM_ADDR m) == a)).map
    (fun m => s.g (F.UC_MATCH.PATCH_ADDR m))

/-- The word that an engine fetches at a micro-address; none where no word is loaded. -/
def State.ucFetch (s : State) (a : Nat) : Option (BitVec 32) :=
  if s.part.writableStore then (s.boot.store[a]?).map (BitVec.ofNat 32)
  else if a < 0x2000 then
    match s.matchOf a with
    | some p => (s.boot.store[p]?).map (BitVec.ofNat 32)
    | none => some (Config.ucWord a)
  else if a < 0x2100 then (s.boot.store[a - 0x2000]?).map (BitVec.ofNat 32)
  else none

/-- The routine of an entry (a stair opcode, or 64 for an unsealed page) runs as shipped: nothing that it fetches is
redirected, and of a writable store nothing is changed. -/
def State.ucAsShipped (s : State) (entry : Nat) : Bool :=
  if s.part.writableStore then
    (Config.ucPath entry).all (fun a => s.boot.store[a]? == some (Config.ucShipped a).toNat)
  else
    let ms := (List.range 16).filter (fun m => s.is (F.UC_MATCH.EN m))
    ms.isEmpty || ((entry = 64 || ms.all (fun m => s.g (F.UC_MATCH.ROM_ADDR m) != 8 * entry)) &&
      (Config.ucPath entry).all (fun a => ms.all (fun m => s.g (F.UC_MATCH.ROM_ADDR m) != a)))

/-! ### Registers of the engine (R166) -/

/-- A register as a member sees it: 0 to 15 are work registers, 16 to 31 lanes. -/
def ureg (x : MicroX) (m : Member) (r : Nat) : UReg :=
  if r < 16 then tabGet (fun _ => ({} : UReg)) x.w r else tabGet (fun _ => ({} : UReg)) m.lanes (r - 16)

/-- A work register set. -/
def MicroX.set (x : MicroX) (r : Nat) (v : UReg) : MicroX := { x with w := tabSet (fun _ => ({} : UReg)) x.w r v }

/-- A lane of a member set. -/
def Member.setLane (m : Member) (r : Nat) (v : UReg) : Member :=
  { m with lanes := tabSet (fun _ => ({} : UReg)) m.lanes (r - 16) v }

/-- A test latch of a member set to a result. -/
def Member.setTq (m : Member) (k : Nat) (b : Bool) : Member :=
  { m with tq := if b then (if m.tq.contains k then m.tq else k :: m.tq) else m.tq.filter (fun j => j != k) }

/-- The result of an ALU micro-op (R168): ADD, SUB, AND, OR, XOR, SHL, SHR. -/
def aluOp (mop : Nat) (a b : BitVec 32) (imm : Nat) : UReg :=
  match mop with
  | 0x08 => ⟨a + b, some (false, a, b)⟩
  | 0x09 => ⟨a - b, some (true, a, b)⟩
  | 0x0A => ⟨a &&& b, none⟩
  | 0x0B => ⟨a ||| b, none⟩
  | 0x0C => ⟨a ^^^ b, none⟩
  | 0x0D => ⟨a <<< (imm % 32), none⟩
  | _ => ⟨a >>> (imm % 32), none⟩

/-- The exact result of the sum or difference that a register holds: signed, or an unsigned first operand with a signed
second (R159, R168; assumption 132). -/
def UReg.exact (r : UReg) (sgn : Bool) : Int :=
  match r.sum with
  | some (sub, a, b) =>
    let x : Int := if sgn then a.toInt else a.toNat
    if sub then x - b.toInt else x + b.toInt
  | none => if sgn then r.val.toInt else r.val.toNat

/-- CLAMP: the register saturated, and whether it was. -/
def UReg.clamp (r : UReg) (sgn : Bool) : UReg × Bool :=
  let v := r.exact sgn
  let lo : Int := if sgn then -0x80000000 else 0
  let hi : Int := if sgn then 0x7FFFFFFF else 0xFFFFFFFF
  if v < lo then (⟨BitVec.ofInt 32 lo, none⟩, true)
  else if hi < v then (⟨BitVec.ofInt 32 hi, none⟩, true)
  else (⟨BitVec.ofInt 32 v, none⟩, false)

/-- The flags of an ALU result in a work register; C of anything but ADD, and V of anything but ADD and SUB, are not
stated: `fr` gives free values. -/
def MicroX.flags (x : MicroX) (mop : Nat) (r : UReg) (fr : Nat) : MicroX :=
  let (a, b) := match r.sum with | some (_, a, b) => (a, b) | none => (0, 0)
  let ovf := decide (r.exact true ≠ r.val.toInt)
  { x with
    z := r.val == 0
    n := r.val.msb
    c := if mop = 0x08 then decide (2 ^ 32 ≤ a.toNat + b.toNat) else fr % 2 == 1
    v := if mop = 0x08 || mop = 0x09 then ovf else fr / 2 % 2 == 1 }

/-! ### Multiway branches (R169, R170) -/

/-- MWB (R169): BASE with its low K bits cleared, ORed with the low K bits of the group. -/
def mwb (base k group : Nat) : Nat := (base >>> k) <<< k ||| group % 2 ^ k

/-- A condition group: none for the reserved ones (R170). -/
def condGroup (x : MicroX) (iw g : Nat) : Option Nat :=
  match g with
  | 0 => some (natBits (ureg x { i := 0, ctx := {}, cond := 0, win := 0 } 0).val.toNat 0 4)
  | 1 => some (natBits iw 56 2)
  | 2 => some (natBits iw 55 3)
  | 3 => some (pack [(3, 1, x.z.toNat), (2, 1, x.n.toNat), (1, 1, x.c.toNat), (0, 1, x.v.toNat)])
  | 4 => some (pack [(1, 1, (decide (2 ≤ x.ret.length)).toNat), (0, 1, x.ret.isEmpty.toNat)])
  | _ => none

/-! ### Context fields and frames -/

/-- A context field as CTXR reads it. -/
def Member.field (m : Member) (f : CtxField) : BitVec 32 :=
  match f with
  | .pc => BitVec.ofNat 32 m.ctx.pc
  | .depth => BitVec.ofNat 32 m.ctx.stack.length
  | .cnt k => BitVec.ofNat 32 (m.ctx.cnt.getD k.toNat 0)
  | .acc k => BitVec.ofInt 32 (m.ctx.acc.getD k.toNat 0)
  | .uflags => BitVec.ofNat 32 m.ctx.uflags
  | .bin => BitVec.ofNat 32 m.ctx.bin
  | .status => BitVec.ofNat 32 m.status
  | .none => 0

/-- A context field as CTXW writes it. -/
def Member.setField (m : Member) (f : CtxField) (v : BitVec 32) : Member :=
  match f with
  | .pc => { m with ctx := { m.ctx with pc := v.toNat % 65536 } }
  | .depth => { m with ctx := { m.ctx with stack := m.ctx.stack.drop (m.ctx.stack.length - v.toNat % 16) } }
  | .cnt k => { m with ctx := { m.ctx with cnt := m.ctx.cnt.set k.toNat v.toNat } }
  | .acc k => { m with ctx := { m.ctx with acc := m.ctx.acc.set k.toNat v.toInt } }
  | .uflags => { m with ctx := { m.ctx with uflags := v.toNat % 256 } }
  | .bin => { m with ctx := { m.ctx with bin := v.toNat % 65536 } }
  | .status => { m with status := v.toNat % 16, wrote := true }
  | .none => m

/-- The reference set of the LOOP at `a`: the first 16 flights of its body (R128). -/
def State.loopRef (s : State) (h a : Nat) : List Nat := (tabGet (fun _ => []) (s.hl h).loopRefs a).take 16

/-- SPUSH: a frame is pushed, or a full stack sets TQ3. -/
def Member.push (s : State) (h : Nat) (f : MicroFrame) (m : Member) : Member :=
  if 8 ≤ m.ctx.stack.length then m.setTq 3 true
  else
    let fr := match f with
      | .loop a e n => Frame.loop a.toNat e.toNat n.toNat (s.loopRef h a.toNat)
      | .call r => Frame.call r.toNat
    { m with ctx := { m.ctx with stack := fr :: m.ctx.stack } }

/-- SPOP into lane `dst`: the frame on top, if it is of the kind wanted; otherwise TQ3 is set. -/
def Member.pop (imm : BitVec 11) (dst : Nat) (m : Member) : Member :=
  match m.ctx.stack with
  | .loop a e n _ :: r =>
    if Config.microPops imm then
      { m with ctx := { m.ctx with stack := r } }.setLane dst
        ⟨Config.microPop imm (.loop (BitVec.ofNat 16 a) (BitVec.ofNat 16 e) (BitVec.ofNat 32 n)), none⟩
    else m.setTq 3 true
  | .call p :: r =>
    if Config.microPops imm then m.setTq 3 true
    else { m with ctx := { m.ctx with stack := r } }.setLane dst ⟨Config.microPop imm (.call (BitVec.ofNat 16 p)), none⟩
  | [] => m.setTq 3 true

/-! ### HACT -/

/-- What HACT stages for a member; a flight or a SYNC becomes its terminator. -/
def Member.act (s : State) (a : HallAct) (m : Member) : Member × List Staged :=
  match a with
  | .play f => ({ m with term := .play f.toNat }, [])
  | .sync l t mode mask => ({ m with term := .sync l.toNat t.toNat mode.toNat mask.toNat }, [])
  | .sett ts => (m, [.sett m.i ts.toNat])
  | .setl ls => (m, [.setl m.i ls.toNat])
  | .send n => (m, [.send m.i n.toNat])
  | .meas ch k => (m, if s.smuOk ch.toNat then [.meas m.i ch.toNat k.toNat] else [])
  | _ => (m, [])

/-- What HACT stages once for the cohort, of which `i` is the lowest-numbered member. -/
def actOnce (i : Nat) : HallAct → List Staged
  | .tdc k => [.tdc i k.toNat]
  | .emit ev => [.emit ev.toNat]
  | .waita p => [.waita p.toNat]
  | .gap n => [.gap n.toNat]
  | _ => []

/-! ### Microwords -/

/-- Where the engine goes on after a microword. -/
inductive UNext where
  | at_ (a : Nat) | done | fault

/-- The members of the cohort served change. -/
def modServed (h : Nat) (is_ : List Nat) (f : Member → Member) (s : State) : State :=
  s.modEng h (fun e => { e with members := e.members.map (fun m => if is_.contains m.i then f m else m) })

/-- A register written: a lane with each member's own value, a work register with the value that is the same for every
member.  From a lane to a work register no value is stated: `fr` gives a free one. -/
def setReg (h : Nat) (is_ : List Nat) (dst : Nat) (fromLane : Bool) (fr : Nat) (f : MicroX → Member → UReg) (s : State) : State :=
  let x := (s.hl h).eng.micro
  if 16 ≤ dst then modServed h is_ (fun m => m.setLane dst (f x m)) s
  else
    let v := if fromLane then ⟨BitVec.ofNat 32 fr, none⟩ else f x { i := 0, ctx := {}, cond := 0, win := 0 }
    s.modEng h (fun e => { e with micro := e.micro.set dst v })

/-- The terminator that a stair instruction is, where its routine stages none. -/
def opTerm (iw : Nat) : Term :=
  match natBits iw 58 6 with
  | 0x01 => .halt
  | 0x02 => .play (natBits iw 0 12)
  | 0x03 => .play (natBits iw 32 12)
  | 0x09 => .brw (natBits iw 56 2) (natBits iw 16 32) (natBits iw 0 16) (brwTimeout (natBits iw 48 8))
  | 0x0C => .sync (natBits iw 53 3) (natBits iw 0 16) (natBits iw 56 2) (natBits iw 16 32)
  | 0x15 => .yield
  | _ => .none

/-- ENDI for one member (R171); `pc0` is the address of the stair instruction and `w1` the target. -/
def Member.endi (next cause w1 pc0 iw : Nat) (m : Member) : Member :=
  let tq3 := m.tq.contains 3
  let go (a : Nat) : Member := { m with n := m.n + 1, term := .none, tq := [], ctx := { m.ctx with pc := a % 65536 } }
  let bad : Member := { m with st := .ended, termAt := pc0, term := .fault cause, tq := [] }
  match next with
  | 0 => go (m.ctx.pc + 1)
  | 1 => go w1
  | 2 => if tq3 then bad else if m.tq.contains 0 then go w1 else go (m.ctx.pc + 1)
  | _ => if tq3 then bad
    else { m with st := .ended, termAt := pc0, tq := [], term := if m.term = .none then opTerm iw else m.term }

/-- ENDI (R171). -/
def endi (h : Nat) (is_ : List Nat) (addr next cause pc0 iw : Nat) (s : State) : State :=
  let w1 := (tabGet (fun _ => ({} : UReg)) (s.hl h).eng.micro.w 1).val.toNat
  let hit := ((s.hl h).eng.members.filter (fun m => is_.contains m.i && m.tq.contains 3 && decide (2 ≤ next))).map (·.i)
  (stairRaise h hit (modServed h is_ (Member.endi next cause w1 pc0 iw) s)).p (F.UC_ENG.UADDR h) addr

/-- One microword of the cohort `is_` at micro-address `addr`; `iw` is the stair instruction and `pc0` its address (R167,
R168, R174).  Bits that a format marks RSV are not looked at (assumption 133). -/
def microWord (h : Nat) (is_ : List Nat) (addr pc0 iw u : Nat) (s : State) : UNext × State :=
  let x := (s.hl h).eng.micro
  let mop := natBits u 26 6
  let dst := natBits u 21 5
  let a := natBits u 16 5
  let b := natBits u 11 5
  let imm := natBits u 0 11
  let lane := 16 ≤ a || 16 ≤ b
  let nx : UNext := .at_ ((addr + 1) % 0x4000)
  match mop with
  | 0x00 => (nx, s)
  | 0x01 => if 4 ≤ natBits u 23 3 then (.fault, s) else (.done, endi h is_ addr (natBits u 23 3) (natBits u 0 8) pc0 iw s)
  | 0x02 =>
    match condGroup x iw (natBits u 4 5) with
    | some g => if 5 ≤ natBits u 9 3 then (.fault, s) else (.at_ (mwb (natBits u 12 14) (natBits u 9 3) g), s)
    | none => (.fault, s)
  | 0x03 =>
    if 2 ≤ x.ret.length || 5 ≤ natBits u 9 3 || (condGroup x iw (natBits u 4 5)).isNone then (.fault, s)
    else (.at_ (natBits u 12 14), s.modEng h (fun e => { e with micro := { e.micro with ret := (addr + 1) % 0x4000 :: e.micro.ret } }))
  | 0x04 =>
    match x.ret with
    | r :: rest => (.at_ r, s.modEng h (fun e => { e with micro := { e.micro with ret := rest } }))
    | [] => (.fault, s)
  | 0x0F =>
    let sgn := natBits imm 0 1 == 1
    let s1 := modServed h is_ (fun m => if (UReg.clamp (ureg x m dst) sgn).2 then { m with ctx := { m.ctx with csat := true } } else m) s
    (nx, setReg h is_ dst false 0 (fun y m => (UReg.clamp (ureg y m dst) sgn).1) s1)
  | 0x10 => (nx, setReg h is_ dst false 0 (fun _ _ => ⟨BitVec.ofInt 32 (signed 16 (natBits u 0 16)), none⟩) s)
  | 0x11 => (nx, setReg h is_ dst false 0 (fun _ _ => ⟨BitVec.ofNat 32 (natBits iw (natBits u 6 6) (natBits u 0 6)), none⟩) s)
  | 0x18 =>
    let (fr, s1) := s.draw 32
    (nx, setReg h is_ dst true fr (fun _ m => ⟨m.field (Config.ctxField (BitVec.ofNat 11 imm)), none⟩) s1)
  | 0x19 => (nx, modServed h is_ (fun m => m.setField (Config.ctxField (BitVec.ofNat 11 imm)) (ureg x m a).val) s)
  | 0x1A => (nx, modServed h is_ (fun m => m.push s h (Config.microPush (BitVec.ofNat 11 imm) (ureg x m a).val (ureg x m b).val)) s)
  | 0x1B => (nx, modServed h is_ (Member.pop (BitVec.ofNat 11 imm) dst) s)
  | 0x20 =>
    (nx, modServed h is_ (fun m =>
      m.setTq (imm % 4) (condTest ((ureg x m a).val.toNat % 4) (ureg x m b).val.toNat m.word)) s)
  | 0x21 => (nx, modServed h is_ (fun m => m.setTq (imm % 4) ((ureg x m a).val == 0)) s)
  | 0x28 =>
    let act (m : Member) : HallAct :=
      Config.hallAct (BitVec.ofNat 5 (natBits u 16 5)) (BitVec.ofNat 16 (natBits u 0 16)) (ureg x m dst).val (BitVec.ofNat 64 iw)
    let ms := (s.hl h).eng.members.filter (fun m => is_.contains m.i)
    let own := (ms.map (fun m => (m.act s (act m)).2)).flatten
    let once := match ms with | m :: _ => actOnce m.i (act m) | [] => []
    (nx, (modServed h is_ (fun m => (m.act s (act m)).1) s).modEng h (fun e => { e with staged := e.staged ++ own ++ once }))
  | 0x30 =>
    (nx, s.over ((s.hl h).eng.members.filter (fun m => is_.contains m.i)) (fun m t =>
      let r := Config.microJrec (BitVec.ofNat 5 (natBits u 16 5)) (BitVec.ofNat 16 (natBits u 0 16)) (ureg x m dst).val
      t.j r.typ.toNat h r.subj.toNat r.arg.toNat r.data.toNat))
  | 0x31 =>
    (nx, s.over ((s.hl h).eng.members.filter (fun m => is_.contains m.i)) (fun m t =>
      let r := Config.microRrec (BitVec.ofNat 5 (natBits u 16 5)) (BitVec.ofNat 16 (natBits u 0 16)) (ureg x m dst).val
      if r.1 then t.ringPut 1 ⟨64, r.2.toNat⟩ else t.ringPut 0 ⟨32, r.2.toNat % 2 ^ 256⟩))
  | _ =>
    if 0x08 ≤ mop && mop ≤ 0x0E then
      let (fr, s1) := s.draw 34
      let op (y : MicroX) (m : Member) : UReg := aluOp mop (ureg y m a).val (ureg y m b).val imm
      let s2 := setReg h is_ dst lane fr op s1
      (nx, if 16 ≤ dst then s2
        else s2.modEng h (fun e => { e with
          micro := e.micro.flags mop (tabGet (fun _ => ({} : UReg)) e.micro.w dst) (fr / 2 ^ 32) }))
    else (.fault, s)

/-- Microwords from `addr` on, one in each core cycle; the number left bounds those that run without an ENDI (R163, R174).
MOP of a fault at an address without a word is a free value. -/
def microGo (h : Nat) (is_ : List Nat) (pc0 iw : Nat) : Nat → Nat → State → State
  | n, addr, s =>
    match s.ucFetch addr with
    | none => let (v, s1) := s.draw 6; microFault h addr v s1
    | some u =>
      match n with
      | 0 => microFault h addr (natBits u.toNat 26 6) s
      | k + 1 =>
        match microWord h is_ addr pc0 iw u.toNat (s.modEng h (fun e => { e with cycles := e.cycles + 1 })) with
        | (.at_ a, t) => microGo h is_ pc0 iw k a t
        | (.done, t) => t
        | (.fault, t) => microFault h addr (natBits u.toNat 26 6) t

/-- A routine runs from an entry address for a cohort. -/
def microRun (h : Nat) (is_ : List Nat) (entry pc0 iw : Nat) (s : State) : State := microGo h is_ pc0 iw 64 entry s

end Sys2Proof.Machine
end

