-- ==== Sys2Proof/Machine/Stair.lean ====
section
/-! DEFINITION. The stair store, the landing engine's segments and the stair instructions (chapters "Stair programs and
landings" and "Landing engines, control store and patches", R122–R135, R138–R155, R159–R174). -/
namespace Sys2Proof.Machine

/-! ### The stair store (R122–R124) -/

/-- The STAIR port of hall `h`. -/
def stairPort (h : Nat) : Nat := 32 + h

/-- The instruction at address `pc` (R122). -/
def State.instr (s : State) (h pc : Nat) : Nat := s.rdMem (stairPort h) (8 * (pc % 65536)) 8

/-- The opcode of an instruction word (R132). -/
def opcOf (w : Nat) : Nat := natBits w 58 6

/-- Page `p` is sealed (R123). -/
def State.sealed (s : State) (h p : Nat) : Bool := natBits (s.g (F.STAIR_STAT.SEALED h)) p 1 == 1

/-- The pages that a range of instructions touches. -/
def pagesOf (start count : Nat) : List Nat :=
  (List.range 16).filter (fun p => start < 4096 * (p + 1) && 4096 * p < start + count)

/-- A LOAD_STAIR is copying into page `p` (R126). -/
def State.pageLoading (s : State) (h p : Nat) : Bool :=
  (s.hl h).loading.any (fun l => (pagesOf l.2.1 l.2.2).contains p)

/-- The addresses that lock pages for an alcove: its PC, return addresses and first body instructions (R124). -/
def lockAddrs (c : StairCtx) : List Nat :=
  c.pc :: c.stack.map (fun f => match f with | .loop a _ _ _ => (a + 1) % 65536 | .call r => r)

/-- Page `p` is locked (R124). -/
def State.pageLocked (s : State) (h p : Nat) : Bool :=
  (List.range 96).any (fun i =>
    alcReady ≤ s.alcSt h i && s.alcSt h i ≤ alcParked && (lockAddrs (s.alc h i).ctx).any (fun a => a / 4096 == p))

/-- A write through the STAIR port (R123, R124): it lands and unseals its pages, or is dropped with WPROT.  The Boolean
tells whether it landed. -/
def stairWrite (h a : Nat) (bytes : List Nat) (s : State) : State × Bool :=
  let pages := (List.range 16).filter (fun p => a < 32768 * (p + 1) && 32768 * p < a + bytes.length)
  if pages.any (fun p => s.pageLocked h p) then (s.set1 (F.STAIR_STAT.WPROT h), false)
  else
    let kept := pages.foldl (fun v p => v - (natBits v p 1) <<< p) (s.g (F.STAIR_STAT.SEALED h))
    ((s.wrBytes (stairPort h) a bytes).p (F.STAIR_STAT.SEALED h) kept, true)

/-! ### Power and conditions (R134, R208) -/

/-- The ledger L in 10 mW: the floor and the reservations of the halls (R208). -/
def State.ledgerSum (s : State) : Nat :=
  s.g F.SCHED_FLOOR.VALUE + ((List.range 32).map (fun h => (s.hl h).resv)).foldl (· + ·) 0

/-- The device power estimate, max(L, M), in 10 mW (R208). -/
def State.powerEst (s : State) : Nat := max s.ledgerSum (s.g F.SCHED_MEAS.VALUE)

/-- BTIGHT (R134). -/
def State.btight (s : State) (h : Nat) : Bool :=
  decide ((100 * s.g F.PBUDGET.WATTS : Nat) - (s.powerEst : Nat) < (100 * s.g (F.LAND_CFG.BMARGIN h) : Int))

/-- Bits 7 to 27 of the condition word, the same for every alcove of the hall (R134). -/
def State.hallCond (s : State) (h : Nat) : Nat :=
  pack [(7, 1, (s.btight h).toNat), (8, 8, (s.hl h).eng.hev), (16, 8, s.gtl), (24, 4, s.g (F.TDC_HALL_STAT.TDCQ h))]

/-- Bits 0 to 6 of the condition word of alcove `i`; `hfail` is HFAIL. -/
def AlcX.condLow (a : AlcX) (hfail : Bool) : Nat :=
  pack [(0, 1, (a.winFails != 0).toNat), (1, 1, (a.fails != 0).toNat), (2, 1, hfail.toNat), (3, 1, a.sdone.toNat),
    (4, 1, a.smis.toNat), (5, 1, a.mdone.toNat), (6, 1, a.mout.toNat)]

/-! ### The engine -/

/-- The lowest-numbered member whose segment still runs: its cohort is served (R140). -/
def EngX.front (e : EngX) : Option Member := e.members.find? (fun m => m.st == .run)

/-- A member of the cohort served at address `pc`. -/
def Member.at_ (m : Member) (pc : Nat) : Bool := m.st == .run && m.ctx.pc == pc

/-- The core cycles of each execution (R132, R164). -/
def stairCost (opc : Nat) : Nat :=
  match opc with
  | 0x00 => 3 | 0x01 => 4 | 0x02 => 4 | 0x03 => 5 | 0x04 => 6 | 0x05 => 5 | 0x06 => 4 | 0x07 => 4 | 0x08 => 3
  | 0x09 => 4 | 0x0A => 3 | 0x0B => 4 | 0x0C => 8 | 0x0D => 4 | 0x0E => 6 | 0x0F => 5 | 0x10 => 6 | 0x11 => 3
  | 0x12 => 5 | 0x13 => 4 | 0x14 => 3 | 0x15 => 4 | 0x16 => 4 | _ => 3

/-- The causes of R131. -/
def fcBadop : Nat := 1
def fcStack : Nat := 2
def fcSegment : Nat := 3
def fcUnsealed : Nat := 4
def fcAbsent : Nat := 5
def fcStall : Nat := 6
def fcOther : Nat := 7

/-- The members that `p` names fault with a cause of the stair program. -/
def faultMembers (h cause : Nat) (p : Member → Bool) (s : State) : State :=
  let hit := ((s.hl h).eng.members.filter (fun m => m.st == .run && p m)).map (·.i)
  stairRaise h hit (s.modEng h (fun e => { e with
    members := e.members.map (fun m => if m.st == .run && p m then m.fault cause else m) }))

/-- Fetches from unsealed pages: the cohort served faults with cause UNSEALED at a cost of 3 cycles, then the next
(R123, R164); a routine that is not the shipped one runs instead.  A cohort that meets a page in loading waits (R126), and
one that has executed 64 instructions is SEGMENT_LIMIT's (R139). -/
def settle (h : Nat) : Nat → State → State
  | 0, s => s
  | n + 1, s =>
    match (s.hl h).eng.front with
    | none => s
    | some m =>
      let page := m.ctx.pc / 4096
      let at_ := (s.hl h).eng.members.filter (fun x => x.st == .run && x.ctx.pc == m.ctx.pc)
      if s.sealed h page || s.pageLoading h page || at_.any (fun x => decide (64 ≤ x.n)) || s.g (F.UC_ENG.STATE h) == 2 then s
      else if s.ucAsShipped 64 then
        settle h n ((faultMembers h fcUnsealed (fun x => x.ctx.pc == m.ctx.pc)
          (s.modEng h (fun e => { e with cycles := e.cycles + 3 }))).p (F.UC_ENG.UADDR h) (Config.ucEndi (2 ^ 64)).toNat)
      else settle h n (microRun h (at_.map (·.i)) Config.ucUnsealed.toNat m.ctx.pc (s.instr h m.ctx.pc) s)

/-- ENDI notices the alcoves that other units have faulted: each leaves its cohort, its working copy is discarded, and
it faults (R172, R474). -/
def noticeFaults (h : Nat) (s : State) : State :=
  let xs := (s.hl h).eng.xfaults
  if xs.isEmpty then s
  else
    s.modEng h (fun e => { e with
      xfaults := []
      members := e.members.map (fun m =>
        match xs.find? (fun x => x.1 == m.i) with
        | some x =>
          (match m.term with
           | .fault _ => if m.st == .ended then m else { m with ctx := (s.alc h m.i).ctx, st := .ended, term := .fault x.2 }
           | _ => { m with ctx := (s.alc h m.i).ctx, st := .ended, term := .fault x.2 })
        | none => m) })

/-- What an instruction does with one member. -/
inductive Fate where
  /-- It continues in a context, with effects staged for the landing. -/
  | go (c : StairCtx) (st : List Staged)
  /-- Its segment ends here. -/
  | stop (t : Term) (c : StairCtx)
  /-- It faults. -/
  | fault (cause : Nat)

/-- A member continues at the next address. -/
def StairCtx.seq (c : StairCtx) : StairCtx := { c with pc := (c.pc + 1) % 65536 }

/-- A member continues at an address; a repetition in progress is over. -/
def StairCtx.goto (c : StairCtx) (a : Nat) : StairCtx := { c with pc := a % 65536 }

/-- The instruction at END of the loop on top must be a NEXT (R135). -/
def loopEndWrong (m : Member) (opc : Nat) : Bool :=
  match m.ctx.stack with
  | .loop _ e _ _ :: _ => e == m.ctx.pc && opc != 5
  | _ => false

/-- One member served; `bad` tells of a reserved bit set. -/
def serveMember (opc : Nat) (bad : Bool) (f : Member → Fate) (m : Member) : Member × List Staged :=
  if bad then (m.fault fcBadop, [])
  else if loopEndWrong m opc then (m.fault fcStack, [])
  else
    match f m with
    | .go c st => ({ m with ctx := c, n := m.n + 1 }, st)
    | .stop t c => (m.stop t c, [])
    | .fault k => (m.fault k, [])

/-- The bits of an instruction outside the opcode that its fields name. -/
def fieldBits (fields : List (Nat × Nat)) : Nat := pack ((58, 6, 63) :: fields.map (fun f => (f.1, f.2, 2 ^ f.2 - 1)))

/-- What an instruction is: the fields it names, the mask of conditions it tests, what it does with a member, what it
stages once for the cohort, of which it is given the lowest-numbered member that does not fault, and a further effect on the state where a member faults with cause OTHER. -/
structure Routine where
  fields : List (Nat × Nat) := []
  mask : Nat → Nat := fun _ => 0
  member : State → Nat → Member → Fate
  once : Nat → Nat → List Staged := fun _ _ => []
  onOther : Nat → State → State := fun _ s => s

/-- The engine of hall `h` serves one instruction of the cohort it serves next, if its opcode is one that `is` accepts
(R140, R163, R164, R171).  The page must be sealed and not in loading; a cohort whose segment has executed 64
instructions is SEGMENT_LIMIT's (R139).  A routine that is not the shipped one runs word by word (R168, R176). -/
def serve (h : Nat) (is_ : Nat → Bool) (r : Routine) (s : State) : State :=
  let s0 := settle h 97 s
  match (s0.hl h).eng.front with
  | none => s0
  | some m0 =>
    let pc := m0.ctx.pc
    let w := s0.instr h pc
    let opc := opcOf w
    if !is_ opc || s0.pageLoading h (pc / 4096) || s0.g (F.UC_ENG.STATE h) != 1 ||
        (s0.hl h).eng.members.any (fun m => m.st == .run && decide (64 ≤ m.n)) then s0
    else
      let e := (s0.hl h).eng
      if !s0.ucAsShipped opc then
        let wrong (m : Member) : Bool := m.at_ pc && loopEndWrong m opc
        let s1 := faultMembers h fcStack wrong s0
        let ids := ((s1.hl h).eng.members.filter (fun m => m.at_ pc)).map (·.i)
        let s2 := if ids.isEmpty then s1
          else (microRun h ids (8 * opc) pc w s1).modEng h (fun e => { e with maskUsed := e.maskUsed ||| r.mask w })
        if s2.g (F.UC_ENG.STATE h) == 2 then s2 else settle h 97 (noticeFaults h s2)
      else
        let bad := (w &&& fieldBits r.fields) != w
        let out := e.members.map (fun m => if m.at_ pc then serveMember opc bad (r.member s0 w) m else (m, []))
        let members := out.map (·.1)
        let faults := (members.filter (fun m => m.termAt == pc && (match m.term with | .fault _ => true | _ => false) &&
          e.members.any (fun x => x.i == m.i && x.at_ pc))).map (·.i)
        let gone := members.find? (fun m => e.members.any (fun x => x.i == m.i && x.at_ pc) && !faults.contains m.i)
        let staged := (out.map (·.2)).flatten ++ (match gone with | some m => if bad then [] else r.once w m.i | none => [])
        let s2 := s0.modEng h (fun e => { e with
          members := members
          cycles := e.cycles + stairCost opc
          staged := e.staged ++ staged
          maskUsed := e.maskUsed ||| r.mask w })
        let s3 := (stairRaise h faults s2).p (F.UC_ENG.UADDR h) (Config.ucEndi w).toNat
        let other := members.any (fun m => faults.contains m.i && m.term == .fault fcOther)
        let s4 := if other then r.onOther w s3 else s3
        settle h 97 (noticeFaults h s4)

/-- A stair instruction of one opcode. -/
def stairStep (h opc : Nat) (r : Routine) (s : State) : State :=
  if s.hallOk h && (s.hl h).eng.run && !s.fenced h then serve h (fun o => o == opc) r s else s

/-! ### The instructions (R132, R135, R148–R155, R159, R160) -/

/-- NOP. -/
def execNopInstr (h : Nat) (s : State) : Host.Outcome State Fault Refusal :=
  .next (stairStep h 0x00 { member := fun _ _ m => .go m.ctx.seq [] } s)

/-- HALT (R153). -/
def execHalt (h : Nat) (s : State) : Host.Outcome State Fault Refusal :=
  .next (stairStep h 0x01 { member := fun _ _ m => .stop .halt m.ctx } s)

/-- PLAY (R138): the PC rests at the instruction that follows (R42). -/
def execPlay (h : Nat) (s : State) : Host.Outcome State Fault Refusal :=
  .next (stairStep h 0x02 { fields := [(0, 12)], member := fun _ w m => .stop (.play (natBits w 0 12)) m.ctx.seq } s)

/-- PLAYN (R135, R154): the first arrival plays; each later lead point tests. -/
def execPlayn (h : Nat) (s : State) : Host.Outcome State Fault Refusal :=
  .next (stairStep h 0x03 {
    fields := [(56, 2), (44, 12), (32, 12), (0, 32)]
    mask := fun w => natBits w 0 32
    member := fun _ w m =>
      if m.ctx.rep != 0 &&
          (condTest (natBits w 56 2) (natBits w 0 32) m.word || decide (natBits w 44 12 + 1 ≤ m.ctx.rep)) then
        .go { m.ctx.seq with rep := 0 } []
      else .stop (.play (natBits w 32 12)) { m.ctx with rep := m.ctx.rep + 1 } } s)

/-- LOOP (R130, R135, R155). -/
def execLoop (h : Nat) (s : State) : Host.Outcome State Fault Refusal :=
  .next (stairStep h 0x04 {
    fields := [(57, 1), (55, 2), (32, 16), (0, 32)]
    member := fun t w m =>
      let n := if natBits w 57 1 = 1 then m.ctx.cnt.getD (natBits w 55 2) 0 else natBits w 0 32
      let e := natBits w 32 16
      if n = 0 then .go (m.ctx.goto (e + 1)) []
      else if 8 ≤ m.ctx.stack.length then .fault fcStack
      else .go { m.ctx.seq with stack := .loop m.ctx.pc e n (t.loopRef h m.ctx.pc) :: m.ctx.stack } [] } s)

/-- NEXT (R18, R130, R155). -/
def execNext (h : Nat) (s : State) : Host.Outcome State Fault Refusal :=
  .next (stairStep h 0x05 {
    member := fun _ _ m =>
      match m.ctx.stack with
      | .loop a e n refs :: rest =>
        if n ≤ 1 then .go { m.ctx.seq with stack := rest } []
        else .go { m.ctx.goto (a + 1) with stack := .loop a e (n - 1) refs :: rest } []
      | _ => .fault fcStack } s)

/-- CALL (R130). -/
def execCall (h : Nat) (s : State) : Host.Outcome State Fault Refusal :=
  .next (stairStep h 0x06 {
    fields := [(0, 16)]
    member := fun _ w m =>
      if 8 ≤ m.ctx.stack.length then .fault fcStack
      else .go { m.ctx.goto (natBits w 0 16) with stack := .call ((m.ctx.pc + 1) % 65536) :: m.ctx.stack } [] } s)

/-- RET (R130). -/
def execRet (h : Nat) (s : State) : Host.Outcome State Fault Refusal :=
  .next (stairStep h 0x07 {
    member := fun _ _ m =>
      match m.ctx.stack with
      | .call r :: rest => .go { m.ctx.goto r with stack := rest } []
      | _ => .fault fcStack } s)

/-- BR (R133). -/
def execBr (h : Nat) (s : State) : Host.Outcome State Fault Refusal :=
  .next (stairStep h 0x08 {
    fields := [(56, 2), (16, 32), (0, 16)]
    mask := fun w => natBits w 16 32
    member := fun _ w m =>
      .go (if condTest (natBits w 56 2) (natBits w 16 32) m.word then m.ctx.goto (natBits w 0 16) else m.ctx.seq) [] } s)

/-- BRW (R135, R150). -/
def execBrw (h : Nat) (s : State) : Host.Outcome State Fault Refusal :=
  .next (stairStep h 0x09 {
    fields := [(56, 2), (48, 8), (16, 32), (0, 16)]
    mask := fun w => natBits w 16 32
    member := fun _ w m =>
      let mode := natBits w 56 2
      let mask := natBits w 16 32
      let target := natBits w 0 16
      if condTest mode mask m.word then .go (m.ctx.goto target) []
      else .stop (.brw mode mask target (brwTimeout (natBits w 48 8))) m.ctx } s)

/-- SETT (R138). -/
def execSett (h : Nat) (s : State) : Host.Outcome State Fault Refusal :=
  .next (stairStep h 0x0A {
    fields := [(0, 6)], member := fun _ w m => .go m.ctx.seq [.sett m.i (natBits w 0 6)] } s)

/-- WAITA (R148): the release point concerns the hall. -/
def execWaita (h : Nat) (s : State) : Host.Outcome State Fault Refusal :=
  .next (stairStep h 0x0B {
    fields := [(0, 48)], member := fun _ _ m => .go m.ctx.seq [], once := fun w _ => [.waita (natBits w 0 48)] } s)

/-- SYNC (R151). -/
def execSync (h : Nat) (s : State) : Host.Outcome State Fault Refusal :=
  .next (stairStep h 0x0C {
    fields := [(56, 2), (53, 3), (16, 32), (0, 16)]
    mask := fun w => natBits w 16 32
    member := fun _ w m =>
      .stop (.sync (natBits w 53 3) (natBits w 0 16) (natBits w 56 2) (natBits w 16 32)) m.ctx } s)

/-- SETL (R138). -/
def execSetl (h : Nat) (s : State) : Host.Outcome State Fault Refusal :=
  .next (stairStep h 0x0D {
    fields := [(0, 6)], member := fun _ w m => .go m.ctx.seq [.setl m.i (natBits w 0 6)] } s)

/-- SEND (R373): the slot is checked when it is executed; a faulting SEND queues nothing. -/
def execSend (h : Nat) (s : State) : Host.Outcome State Fault Refusal :=
  .next (stairStep h 0x0E {
    fields := [(0, 8)]
    member := fun t w m =>
      let n := natBits w 0 8
      let own := (t.alc h m.i).own
      if !t.is (F.HSE_SLOT_A.VALID h n) then .fault fcAbsent
      else if (own = 0 && t.is (F.LMAP_A.REL h (t.g (F.HSE_SLOT_A.LMAP h n)))) || !t.lanesOk h n (lowestSlot own) ||
          !t.slotValid h n then .fault fcOther
      else .go m.ctx.seq [.send m.i n] } s)

/-- TDC (R329, R330): the set starts once for the cohort. -/
def execTdc (h : Nat) (s : State) : Host.Outcome State Fault Refusal :=
  .next (stairStep h 0x0F {
    fields := [(0, 6)]
    member := fun t w m =>
      if t.is (F.TDC_SET_A.VALID h (natBits w 0 6)) then .go m.ctx.seq [] else .fault fcAbsent
    once := fun w i => [.tdc i (natBits w 0 6)] } s)

/-- A MEAS names a group that its alcove's bank must claim, and does not (R318). -/
def State.measUnclaimed (s : State) (h i ch m : Nat) : Bool :=
  let g := ch / 4
  (s.is (F.MSET_CFG.APPLY g m) || s.g (F.MSET_CFG.DDS g m) != 0) && (s.bank h (i / 32)).smuClaim != some g

/-- MEAS (R131, R314, R318). -/
def execMeas (h : Nat) (s : State) : Host.Outcome State Fault Refusal :=
  .next (stairStep h 0x10 {
    fields := [(52, 6), (48, 4)]
    member := fun t w m =>
      let ch := natBits w 52 6
      let k := natBits w 48 4
      if !t.smuOk ch || !t.is (F.MSET_CFG.VALID (ch / 4) k) then .fault fcAbsent
      else if t.measUnclaimed h m.i ch k then .fault fcOther
      else .go m.ctx.seq [.meas m.i ch k]
    onOther := fun w t => t.set1 (F.GRP_STAT.CLAIM_ERR (natBits w 52 6 / 4)) } s)

/-- EMIT (R138): the producer is asserted for the hall. -/
def execEmit (h : Nat) (s : State) : Host.Outcome State Fault Refusal :=
  .next (stairStep h 0x11 {
    fields := [(0, 3)], member := fun _ _ m => .go m.ctx.seq [], once := fun w _ => [.emit (natBits w 0 3)] } s)

/-- A value clamped to a range, and whether it was (R159). -/
def clampTo (lo hi v : Int) : Int × Bool := if v < lo then (lo, true) else if hi < v then (hi, true) else (v, false)

/-- Counter `k` set. -/
def StairCtx.setCnt (c : StairCtx) (k : Nat) (v : Int × Bool) : StairCtx :=
  { c with cnt := c.cnt.set k v.1.toNat, csat := c.csat || v.2 }

/-- Accumulator `k` set. -/
def StairCtx.setAcc (c : StairCtx) (k : Nat) (v : Int × Bool) : StairCtx :=
  { c with acc := c.acc.set k v.1, csat := c.csat || v.2 }

/-- The action of ACC for an operation: the shipped routine branches to 0x240 OR OP (R159, R169, R170). -/
def accAct (target : Nat) (k imm win : Nat) (meas : Int) (c : StairCtx) : Option StairCtx :=
  let n : Int := c.cnt.getD k 0
  let a := c.acc.getD k 0
  let u := clampTo 0 0xFFFFFFFF
  let i := clampTo (-0x80000000) 0x7FFFFFFF
  match target with
  | 0x240 => some (c.setCnt k (imm, false))
  | 0x241 => some (c.setCnt k (u (n + signed 32 imm)))
  | 0x242 => some (c.setCnt k (u (n + win)))
  | 0x243 => some (c.setAcc k (i (a + meas)))
  | 0x244 => some (c.setAcc k (signed 32 imm, false))
  | 0x245 => some (c.setAcc k (i (a + signed 32 imm)))
  | _ => none

/-- ACC (R159). -/
def execAcc (h : Nat) (s : State) : Host.Outcome State Fault Refusal :=
  .next (stairStep h 0x12 {
    fields := [(55, 3), (53, 2), (0, 32)]
    member := fun t w m =>
      match accAct (mwb 0x240 3 (natBits w 55 3)) (natBits w 53 2) (natBits w 0 32) m.win (t.alc h m.i).lastMeas m.ctx with
      | some c => .go c.seq []
      | none => .fault fcBadop } s)

/-- BIN (R135, R160). -/
def execBin (h : Nat) (s : State) : Host.Outcome State Fault Refusal :=
  .next (stairStep h 0x13 {
    fields := [(57, 1), (0, 16)]
    member := fun _ w m =>
      if natBits w 57 1 = 1 && m.ctx.bin != 0xFFFF then .go m.ctx.seq []
      else .go { m.ctx.seq with bin := natBits w 0 16 } [] } s)

/-- FLAG (R160). -/
def execFlag (h : Nat) (s : State) : Host.Outcome State Fault Refusal :=
  .next (stairStep h 0x14 {
    fields := [(56, 2), (0, 8)]
    member := fun _ w m =>
      let u := m.ctx.uflags
      let k := natBits w 0 8
      match natBits w 56 2 with
      | 0 => .go { m.ctx.seq with uflags := u ||| k } []
      | 1 => .go { m.ctx.seq with uflags := u - (u &&& k) } []
      | 2 => .go { m.ctx.seq with uflags := u ^^^ k } []
      | _ => .fault fcBadop } s)

/-- YIELD (R152): the PC rests at YIELD + 1. -/
def execYield (h : Nat) (s : State) : Host.Outcome State Fault Refusal :=
  .next (stairStep h 0x15 { member := fun _ _ m => .stop .yield m.ctx.seq } s)

/-- GAP (R149): with TREADS = 0 a NOP. -/
def execGap (h : Nat) (s : State) : Host.Outcome State Fault Refusal :=
  .next (stairStep h 0x16 {
    fields := [(0, 32)]
    member := fun _ _ m => .go m.ctx.seq []
    once := fun w _ => if natBits w 0 32 = 0 then [] else [.gap (natBits w 0 32)] } s)

/-- RESERVED_OPCODE: opcodes 0x17 to 0x3F execute as BADOP (R132, R164). -/
def execReservedOpcode (h : Nat) (s : State) : Host.Outcome State Fault Refusal :=
  .next (
    if s.hallOk h && (s.hl h).eng.run && !s.fenced h then
      serve h (fun o => 0x17 ≤ o) { member := fun _ _ _ => .fault fcBadop } s
    else s)

/-- SEGMENT_LIMIT: a segment that has executed 64 instructions without a terminator faults its alcove (R139). -/
def execSegmentLimit (h : Nat) (s : State) : Host.Outcome State Fault Refusal :=
  .next (
    if s.hallOk h && (s.hl h).eng.run && !s.fenced h then
      settle h 97 (noticeFaults h (faultMembers h fcSegment (fun m => 64 ≤ m.n) s))
    else s)

end Sys2Proof.Machine
end

