-- ==== Sys2Proof/Machine/Sched.lean ====
section
/-! DEFINITION. The scheduler: head walk, candidates, ranking, admission, the power ledger, virtual time and a bank's
leaving (chapter "Alcoves, site banks and the budget-aware scheduler", R142, R202–R212). -/
namespace Sys2Proof.Machine

/-! ### The head walk (R142) -/

/-- One instruction of a walk: the flight it finds, and where its paths go on, of two outcomes the next address first
(assumption 29).  `rep`: the cohort repeats the PLAYN here. -/
def walkStep (s : State) (h : Nat) (rep : Bool) (pc : Nat) (st : List Frame) : Option Nat × List (Nat × List Frame) :=
  let w := s.instr h pc
  let nx : Nat × List Frame := ((pc + 1) % 65536, st)
  match opcOf w with
  | 0x01 => (none, [])
  | 0x02 => (some (natBits w 0 12), [])
  | 0x03 => (some (natBits w 32 12), if rep then [nx] else [])
  | 0x04 =>
    if natBits w 57 1 = 0 && natBits w 0 32 = 0 then (none, [((natBits w 32 16 + 1) % 65536, st)])
    else (none, [((pc + 1) % 65536, .loop pc (natBits w 32 16) 0 [] :: st)])
  | 0x05 =>
    match st with
    | .loop a _ _ _ :: r => (none, [((a + 1) % 65536, st), ((pc + 1) % 65536, r)])
    | _ => (none, [])
  | 0x06 => (none, [(natBits w 0 16, .call ((pc + 1) % 65536) :: st)])
  | 0x07 =>
    match st with
    | .call r :: rest => (none, [(r, rest)])
    | _ => (none, [])
  | 0x08 => (none, [nx, (natBits w 0 16, st)])
  | 0x09 => (none, [nx, (natBits w 0 16, st)])
  | 0x0C => (none, [nx, (natBits w 0 16, st)])
  | o => (none, if 0x17 ≤ o then [] else [nx])

/-- The walk over a queue of paths; the number left bounds the instructions walked. -/
def walkGo (s : State) (h : Nat) : Nat → Bool → List (Nat × List Frame) → List Nat → List Nat
  | 0, _, _, acc => acc
  | _, _, [], acc => acc
  | n + 1, rep, (pc, st) :: q, acc =>
    let (f, nx) := walkStep s h rep pc st
    let acc' := match f with | some x => if acc.contains x then acc else acc ++ [x] | none => acc
    walkGo s h n false (q ++ nx) acc'

/-- The flights found from the PC of a context, in the order found: up to 16 instructions, breadth first. -/
def State.walk (s : State) (h : Nat) (c : StairCtx) : List Nat := walkGo s h 16 (c.rep != 0) [(c.pc, c.stack)] []

/-- The first member of each cohort among alcoves, by their PCs. -/
def State.cohortHeads (s : State) (h : Nat) : List Nat → List Nat → List Nat
  | [], _ => []
  | i :: r, seen =>
    let pc := (s.alc h i).ctx.pc
    if seen.contains pc then s.cohortHeads h r seen else i :: s.cohortHeads h r (pc :: seen)

/-- HEAD_FETCH: the first four distinct flights found that are VALID or ACTIVE and not PINNED fill the head buffers;
`run` lists the alcoves whose PCs are walked, the pacing alcove first. -/
def headFetch (h : Nat) (run : List Nat) (s : State) : State :=
  let found := ((s.cohortHeads h run []).map (fun i => s.walk h (s.alc h i).ctx)).flatten.foldl
    (fun a f => if a.contains f then a else a ++ [f]) []
  let ok := found.filter (fun f => 2 ≤ (s.flt_ h f).st && !s.pinned h f)
  s.modHl h (fun x => { x with heads := ok.take 4 })

/-! ### Banks -/

/-- Alcoves of bank `b` in a state. -/
def State.inBank (s : State) (h b st : Nat) : List Nat := (bankAlcs b).filter (fun i => s.alcSt h i == st)

/-- Bank `b` holds a READY or PARKED alcove. -/
def State.waits (s : State) (h b : Nat) : Bool := (bankAlcs b).any (fun i => s.alcSt h i == alcReady || s.alcSt h i == alcParked)

/-- The yield cause applies to bank `b`. -/
def State.yields (s : State) (h b : Nat) : Bool := natBits (s.g (F.HALL_STAT.YIELD h)) b 1 == 1

/-- The deferral field of bank `b` in HALL_STAT. -/
def deferField (h b : Nat) : FRef :=
  match b with | 0 => F.HALL_STAT.DEFER_A h | 1 => F.HALL_STAT.DEFER_B h | _ => F.HALL_STAT.DEFER_C h

/-- A deferral cause of a bank set, or cleared with 0 (R209). -/
def setDefer (h b cause : Nat) (s : State) : State :=
  (s.p (deferField h b) cause).over (bankAlcs b) (fun i t =>
    t.pb (F.ALC_STATE.BUDGET h i) (cause != 0 && (t.alcSt h i == alcReady || t.alcSt h i == alcParked)))

/-- The yield cause of a bank set on alcoves, or ended (R152, R204). -/
def setYield (h b : Nat) (is_ : List Nat) (s : State) : State :=
  (s.p (F.HALL_STAT.YIELD h) (s.g (F.HALL_STAT.YIELD h) ||| 1 <<< b)).over is_ (fun i t => t.set1 (F.ALC_STATE.YIELD h i))

def endYield (h b : Nat) (s : State) : State :=
  let y := s.g (F.HALL_STAT.YIELD h)
  (s.p (F.HALL_STAT.YIELD h) (y - (y &&& (1 <<< b)))).over (bankAlcs b) (fun i t => t.clr (F.ALC_STATE.YIELD h i))

/-- A SCHED record (R503). -/
def jSched (h b arg cause est : Nat) (s : State) : State :=
  s.j 0x5C h b arg (packB [(0, 1, cause), (1, 4, est), (5, 4, s.g F.SCHED_MEAS.VALUE)])

/-! ### The ledger (R208) -/

/-- SCHED_LEDGER follows the floor and the reservations. -/
def ledger (s : State) : State :=
  s.p F.SCHED_LEDGER.VALUE s.ledgerSum

/-- The reservation of hall `h` ends (R212, R213). -/
def dropResv (h : Nat) (s : State) : State := ledger (s.modHl h (fun x => { x with resv := 0, admLoad := 0 }))

/-- The SMU claim of a bank ends (R211, R212). -/
def dropClaim (h b : Nat) (s : State) : State :=
  match (s.bank h b).smuClaim with
  | some g => claimUpdate g (s.modBank h b (fun x => { x with smuClaim := none }))
  | none => s

/-! ### Virtual time (R205) -/

/-- VT of the three banks after bank `b` has played `t` treads. -/
def vtAfter (vt : Nat → Nat) (b t weight : Nat) (k : Nat) : Nat :=
  let inc := t * 256 / max 1 weight
  let top := 2 ^ 31 - 1
  let m := if top < vt b + inc then min (vt 0) (min (vt 1) (vt 2)) else 0
  if k = b then min top (vt k - m + inc) else vt k - m

/-- The treads that the live bank has played since its first entry. -/
def State.bankTreads (s : State) (h : Nat) : Nat :=
  let x := s.hl h
  let p := if x.hold.swapWait.isSome then x.swapTread else s.pos h
  if x.bankBegun then (p + 2 ^ 48 - x.bankTread) % 2 ^ 48 else 0

/-- The VT of bank `k`, the outgoing bank's carried to the swap point. -/
def State.vtAt (s : State) (h : Nat) (out : Option Nat) (k : Nat) : Nat :=
  let vt (j : Nat) := s.g (F.VT.VT h j)
  match out with
  | some b => vtAfter vt b (s.bankTreads h) (s.bank h b).weight k
  | none => vt k

/-! ### Candidates, ranking and admission (R203–R209) -/

/-- Candidate banks: `out` is the bank live at a swap point (R203).  A hall plays only while its axis runs (R54). -/
def State.candidates (s : State) (h : Nat) (out : Option Nat) : List Nat :=
  if s.fenced h || s.level_ == 3 || !s.axRuns h then []
  else (List.range 3).filter (fun b => s.waits h b || (out == some b && !(s.inBank h b alcLive).isEmpty))

/-- The keys of R204 as one number, lower first. -/
def State.rankKey (s : State) (h : Nat) (out : Option Nat) (b : Nat) : Nat :=
  let dl := if s.is (F.DEADLINE_HI.EN h b) then s.g (F.DEADLINE_LO.DL_LO h b) + 2 ^ 32 * s.g (F.DEADLINE_HI.DL_HI h b)
    else 2 ^ 48
  ((((s.yields h b).toNat * 2 ^ 49 + dl) * 2 ^ 31) + s.vtAt h out b) * 4 + b

/-- Insertion by a key. -/
def insertBy (key : Nat → Nat) (b : Nat) : List Nat → List Nat
  | [] => [b]
  | c :: r => if key b < key c then b :: c :: r else c :: insertBy key b r

/-- Candidates in rank order. -/
def State.ranked (s : State) (h : Nat) (out : Option Nat) : List Nat :=
  (s.candidates h out).foldl (fun l b => insertBy (s.rankKey h out) b l) []

/-- The pacing alcove of a bank: its lowest READY, LIVE or PARKED alcove. -/
def State.bankPace (s : State) (h b : Nat) : Option Nat :=
  (bankAlcs b).find? (fun i => alcReady ≤ s.alcSt h i && s.alcSt h i ≤ alcParked)

/-- The flight that bank `b` would play first: that of its pending action, else the first that the head walk finds from
the PC of its pacing alcove, as for a BRW or SYNC that is pending. -/
def State.firstFlight (s : State) (h b : Nat) : Option Nat :=
  match (s.bank h b).park with
  | some (.play f _) => some f
  | _ =>
    match s.bankPace h b with
    | some i => (s.walk h (s.alc h i).ctx).head?
    | none => none

/-- The admission class of bank `b` (R207). -/
def State.admissionClass (s : State) (h b : Nat) : Nat :=
  let c := s.g (F.SCHED_BANK.CLASS h b)
  match s.firstFlight h b with
  | some f => max c (s.flt_ h f).pclass
  | none => c

/-- The SMU group that bank `b` asks for. -/
def State.wantsGroup (s : State) (h b : Nat) : Option Nat :=
  if s.is (F.SCHED_BANK.SMU_EN h b) then some (s.g (F.SCHED_BANK.SMU_GRP h b)) else none

/-- The declared load of bank `b`, if it claims a group (R208). -/
def State.bankLoad (s : State) (h b : Nat) : Nat :=
  if (s.wantsGroup h b).isSome then s.g (F.SCHED_BANK.SMU_LOAD h b) else 0

/-- The admission test (R209): the deferral cause, 0 to let it in, and the estimate. -/
def State.admission (s : State) (h : Nat) (out : Option Nat) (b : Nat) : Nat × Nat :=
  let k := s.admissionClass h b
  let taken := match s.wantsGroup h b with
    | some g => s.claimed g && s.g (F.GRP_STAT.CLAIM_HALL g) != h
    | none => false
  if (s.level_ = 2 && 2 ≤ k) || (s.level_ = 1 && 4 ≤ k) then (2, s.powerEst)
  else if taken then (3, s.powerEst)
  else if out = some b then (0, s.powerEst)
  else
    let rOut := if out.isSome then (s.hl h).resv else 0
    let est := s.powerEst - rOut + s.g (F.PCLASS_PWR.PWR h k) + s.bankLoad h b
    (if 100 * s.g F.PBUDGET.WATTS < est then 1 else 0, est)

/-- A fence parks, or its end readmits, the READY and PARKED alcoves of the banks of a hall: a record for each such bank
(R44).  The cause code of the record is not stated: a free value (assumption 134). -/
def jFence (h arg : Nat) (s : State) : State :=
  s.over ((List.range 3).filter (fun b => s.waits h b)) (fun b t =>
    let (c, u) := t.draw 8
    jSched h b arg c u.powerEst u)

/-- A bank is admitted: its deferral and its yield end, and unless it is the bank already live its reservation, class,
weight and SMU claim are fixed (R204, R208–R211, R214). -/
def admitBank (h : Nat) (out : Option Nat) (b est : Nat) (s : State) : State :=
  let again := !(s.inBank h b alcParked).isEmpty
  let s1 := endYield h b (setDefer h b 0 s)
  let s2 :=
    if out = some b then s1
    else
      let k := s1.admissionClass h b
      let s2 := ledger ((s1.modBank h b (fun x => { x with weight := s1.g (F.SCHED_BANK.WEIGHT h b) })).modHl h (fun x => { x with
        resv := s1.g (F.PCLASS_PWR.PWR h k) + s1.bankLoad h b
        admLoad := s1.bankLoad h b
        admClass := k }))
      let s3 := match out with | some o => dropClaim h o s2 | none => s2
      match s3.wantsGroup h b with
      | some g =>
        ((((winClose (32 + g) s3).modBank h b (fun x => { x with smuClaim := some g })).set1 (F.GRP_STAT.CLAIMED g)).p
          (F.GRP_STAT.CLAIM_HALL g) h).p (F.GRP_STAT.CLAIM_BANK g) b
      | none => s3
  jSched h b (if again then 3 else 0) 0 est s2

/-- The first of the ranked candidates that passes; those before it are deferred (R209). -/
def decideOver (h : Nat) (out : Option Nat) : List Nat → State → Option Nat × State
  | [], s => (none, s)
  | b :: r, s =>
    match s.admission h out b with
    | (0, est) => (some b, admitBank h out b est s)
    | (c, est) => decideOver h out r (jSched h b 1 c est (setDefer h b c s))

/-- SCHED_DECIDE: the scheduler of hall `h` decides; `out` is the bank live at a swap point. -/
def schedDecide (h : Nat) (out : Option Nat) (s : State) : Option Nat × State :=
  let cs := s.ranked h out
  let s1 := s.over ((List.range 3).filter (fun b => !cs.contains b)) (fun b t => setDefer h b 0 t)
  decideOver h out cs s1

/-! ### A bank leaves (R190, R205) -/

/-- An alcove's state set. -/
def setAlcSt (h i st : Nat) (s : State) : State := s.p (F.ALC_STATE.STATE h i) st

/-- The timing sets that the channels use while bank `b` is live are kept (R70). -/
def tsKeep (h b : Nat) (s : State) : State :=
  s.setAx h { s.ax h with tsUse := (List.range 32).foldl (fun m c => tabSet (fun _ => 0) m c (s.tsOf h b c)) [] }

/-- Bank `b` stops being live: its VT grows, its LIVE alcoves are PARKED, its SMU claim ends, running TDC sets end, a stall
ends with its record, and the channels keep their timing sets (R70, R118, R190, R205, R211, R336; assumption 47). -/
def leaveCore (h b : Nat) (s : State) : State :=
  let t := s.bankTreads h
  let w := (s.bank h b).weight
  let vt (j : Nat) := s.g (F.VT.VT h j)
  let s0 := s.when ((s.hl h).hold.stallEnd) (fun u => u.jAxis h 6 (((s.hl h).hold.target).getD 0) (u.g (F.STALL_RUN.RUN h)))
  let s0 := s0.when (!(s.lives h).isEmpty) (tsKeep h b)
  let s1 := s0.each 3 (fun k u => u.p (F.VT.VT h k) (vtAfter vt b t w k))
  let s2 := s1.over (s1.inBank h b alcLive) (fun i u =>
    ((setAlcSt h i alcParked u).clr (F.ALC_STATE.SITOUT h i)).modAlc h i (fun a => { a with cur := none, next := none }))
  let s3 := s2.modHl h (fun x => { x with bankBegun := false, landed := false, counted := false, hold := {}, heads := [], backup := [], stretchNext := 0 })
  let s4 := ((s3.p (F.HALL_STAT.LIVE_BANK h) 0).set1 (F.HALL_STAT.IDLE h)).clr (F.LAND_STAT.WAITING h)
  let s5 := ((s4.clr (F.HALL_STAT.SWAP h)).clr (F.FLT_STAT.STRETCHING h)).clr (F.FLT_STAT.STALLING h)
  blankHall h (refsUpdate h (dropClaim h b (tdcAbort h false (setDefer h b (s5.g (deferField h b)) s5))))

/-- A bank leaves and is parked: the decision enters the journal (R44).  The cause code of the record is not stated: a
free value. -/
def leaveBank (h b : Nat) (s : State) : State :=
  let s1 := leaveCore h b s
  let (c, s2) := s1.draw 8
  jSched h b 2 c s2.powerEst s2

end Sys2Proof.Machine
end

