-- ==== Sys2Proof/Machine/Landing.lean ====
section
/-! DEFINITION. Landings: lead points and snapshots, dispatch, what a landing does, holds and waits, flights starting,
bank swaps, jump requests and stops (R105–R118, R136–R158, R161, R172, R190, R197–R201, R434–R436). -/
namespace Sys2Proof.Machine

/-! ### Small parts -/

/-- WAITING: the hall is held by WAITA, GAP, BRW or SYNC (R162). -/
def waitStat (h : Nat) (s : State) : State :=
  let x := (s.hl h).hold
  s.pb (F.LAND_STAT.WAITING h) (x.release.isSome || x.brw || x.sync.isSome)

/-- The hall starts to play its hold vector at this landing (R91). -/
def holdBegin (h : Nat) (s : State) : State :=
  if (s.hl h).hold.held || (s.hl h).hold.swap then s
  else
    match s.liveBank h with
    | some b => (driveHold h b s).modHold h (fun x => { x with held := true })
    | none => s

/-- The pending jump request is dropped or has acted (R146). -/
def jumpClear (h : Nat) (s : State) : State :=
  ((s.modEng h (fun e => { e with jump := none, jumpLate := false })).clr (F.JMP_REQ.REQ h)).clr (F.LAND_STAT.JUMP_PEND h)

/-- A request that has acted at this landing no longer stands in JMP_REQ (R146). -/
def jumpDone (h : Nat) (s : State) : State := s.when (s.hl h).eng.jump.isNone (jumpClear h)

/-- Treads of hall `h` since tread `t`, modulo 2^48. -/
def State.treadsSince (s : State) (h t : Nat) : Nat := (s.pos h + 2 ^ 48 - t) % 2 ^ 48

/-- The sample rate of a hall as (FREQ × M, N × PREDIV): the sample rate in Hz is their quotient. -/
def State.rate (s : State) (h : Nat) : Nat × Nat :=
  let k := s.g (F.AXIS_STAT.SLOT h)
  ((s.ax h).rate * s.g (F.RATIO_M.M h k), s.g (F.RATIO_N.N h k) * s.prediv h)

/-- LEAD_EFF at a flight's start (R136). -/
def State.leadEff (s : State) (h : Nat) : Nat :=
  let (p, q) := s.rate h
  max (s.g (F.LAND_CFG.LEAD h)) ((48 * p + 10 ^ 9 * q - 1) / (10 ^ 9 * q))

/-- The decision arrives after the flight's last entry (R140). -/
def State.decisionLate (s : State) (h : Nat) : Bool :=
  let (p, q) := s.rate h
  decide ((s.g (F.LAND_STAT.LEAD_EFF h) - 3) * 10 ^ 9 * q < (4 + 2 * (s.hl h).eng.cycles) * p)

/-! ### STOP_RUN (R245) -/

/-- The completion result of STOP_RUN. -/
def stopRes (stopped late alcs detail fail : Nat) : List (Nat × Nat × Nat) :=
  [(8, 4, stopped), (12, 4, late), (16, 2, alcs), (20, 1, detail), (24, 4, fail)]

/-- STOP_RUN_DONE: each STOP_RUN completes once no named hall holds a READY, LIVE or PARKED alcove. -/
def stopCheck (s : State) : State :=
  s.over s.stopRuns (fun r t =>
    if (List.range 32).any (fun h => natBits r.halls h 1 == 1 && t.hallRun h) then t
    else
      let t1 := { t with stopRuns := t.stopRuns.filter (fun y => y.did != r.did) }
      let t2 := t1.each 32 (fun h u =>
        if (u.hl h).eng.stops.contains r.did then
          let v := u.modEng h (fun e => { e with stops := e.stops.filter (fun d => d != r.did) })
          v.when (v.hl h).eng.stops.isEmpty (fun w => w.clr (F.LAND_STAT.STOP_PEND h))
        else u)
      t2.complete r.did .ok (stopRes r.stopped r.late r.alcs 0 0))

/-! ### Alcoves finish (R131, R153, R158) -/

/-- Axis position and TB0 time that a result carries: those of the landing at which the hall is, else those of now
(R158). -/
def State.resultAt (s : State) (h : Nat) : Nat × Nat :=
  if (s.hl h).landed then ((s.hl h).hold.tread, (s.hl h).hold.tb0) else (s.pos h, s.tb0ns)

/-- The RESULT record of an alcove (R158): `end_` 0 HALT, 1 STOP, 2 FAULT. -/
def State.resultRec (s : State) (h i end_ cause : Nat) : Nat :=
  let a := s.alc h i
  packB [(0, 1, 0x10), (1, 1, h), (2, 2, 96 * h + i), (4, 2, a.ctx.bin), (6, 1, end_), (7, 1, cause),
    (8, 4, a.fails + (if a.failsSat then 2 ^ 31 else 0)), (12, 4, a.firstEntry.getD 0xFFFFFFFF),
    (16, 2, a.firstFlight.getD 0xFFFF), (18, 1, a.ctx.uflags),
    (19, 1, s.g (F.ALC_STATE.FLOG_SAT h i) + 2 * s.g (F.ALC_STATE.INCOMPLETE h i)), (20, 6, (s.resultAt h).1), (28, 4, (s.resultAt h).2),
    (32, 4, a.ctx.cnt.getD 0 0), (36, 4, a.ctx.cnt.getD 1 0), (40, 4, a.ctx.cnt.getD 2 0), (44, 4, a.ctx.cnt.getD 3 0),
    (48, 4, unsigned 32 (a.ctx.acc.getD 0 0)), (52, 4, unsigned 32 (a.ctx.acc.getD 1 0)),
    (56, 4, unsigned 32 (a.ctx.acc.getD 2 0)), (60, 4, unsigned 32 (a.ctx.acc.getD 3 0))]

/-- Alcove `i` becomes DONE or FAULTED: its result record, its transfers and its references end; a bank that
holds no READY or PARKED alcove any more is no candidate and no longer deferred; where the last LIVE alcove leaves, running
TDC sets end (R158, R190, R209, R336, R376). -/
def finishAlc (h i end_ cause : Nat) (s : State) : State :=
  let live := s.alcSt h i == alcLive
  let s1 := s.ringPut 1 ⟨64, s.resultRec h i end_ cause⟩
  let s2 := setAlcSt h i (if end_ = 2 then alcFaulted else alcDone) (s1.p (F.ALC_STATE.FCAUSE h i) cause)
  let s3 := (s2.clr (F.ALC_STATE.SITOUT h i)).clr (F.ALC_STATE.BUDGET h i)
  let s4 := hseAbortAlc h i (s3.modAlc h i (fun a => { a with cur := none, next := none }))
  let s5 := refsUpdate h (s4.modEng h (fun e => { e with xfaults := e.xfaults.filter (fun x => x.1 != i) }))
  let s6 := s5.when (!live && !s5.waits h (i / 32)) (setDefer h (i / 32) 0)
  s6.when (live && !s6.anyLive h) (tdcAbort h false)

/-! ### Idle halls -/

/-- Every READY, LIVE and PARKED alcove of the hall becomes DONE with END = STOP; the hall then holds no candidate, and
its bank, reservation and requests end (R147, R213). -/
def stopAct (h : Nat) (s : State) : State :=
  let run := (List.range 96).filter (fun i => alcReady ≤ s.alcSt h i && s.alcSt h i ≤ alcParked)
  let s1 := s.over run (fun i t => finishAlc h i 1 0 t)
  let first := (s1.hl h).eng.stops.head?
  let s2 := { s1 with stopRuns := s1.stopRuns.map (fun r =>
    if first == some r.did && !run.isEmpty then { r with stopped := r.stopped ||| 1 <<< h, alcs := r.alcs + run.length } else r) }
  let s3 := match s2.liveBank h with | some b => leaveCore h b s2 | none => s2
  let s4 := dropResv h (siteSel h 0 (jumpClear h (s3.each 3 (dropClaim h))))
  let s5 := s4.modEng h (fun e => { e with run := false, members := [], staged := [], action := none, xfaults := [], stopLate := false, stops := [], park := false })
  let s6 := s5.each 3 (fun b t => setDefer h b 0 (endYield h b (t.modBank h b (fun x => { x with park := none, parkStaged := [] }))))
  stopCheck (((blankHall h s6).p (F.UC_ENG.STATE h) (if s6.g (F.UC_ENG.STATE h) = 1 then 0 else s6.g (F.UC_ENG.STATE h))).clr (F.LAND_STAT.STOP_PEND h))

/-- No bank of the hall is live any more: SITESEL off, the jump request ends, a waiting STOP_RUN acts (R146, R197,
R213). -/
def goIdle (h : Nat) (s : State) : State :=
  let s1 := blankHall h (jumpClear h (siteSel h 0 (dropResv h s)))
  if (s1.hl h).eng.stops.isEmpty then s1 else stopAct h s1

/-! ### Snapshots (R137, R161, R199) -/

/-- The FAIL mask by slot of the live bank. -/
def failMask (words : List (Nat × Nat)) : Nat :=
  words.foldl (fun m w => if natBits w.2 0 1 = 1 then m ||| 1 <<< (w.1 % 32) else m) 0

/-- Records of requests and HEV inputs whose reference snapshot is this one (R558). -/
def flushDefer (h : Nat) (s : State) : State :=
  let mine := s.jnl.defer.filter (fun d => d.hall == h)
  let s1 := { s with jnl := { s.jnl with defer := s.jnl.defer.filter (fun d => d.hall != h) } }
  s1.over mine (fun d t =>
    let v := unsigned 32 ((d.cyc : Int) - t.cyc)
    t.jput [{ d.entry with
      data := d.entry.data ||| (if d.entry.typ = 0x54 then v <<< 16 else v), axis := t.pos h, tb0 := t.tb0ns }])

/-- The part of a snapshot or re-sample common to both: COND_SNAP, the record, the HEV latches (R137, R150, R161).
`words` are the condition words of the LIVE alcoves, the pacing alcove first. -/
def snapRecord (h typ : Nat) (words : List (Nat × Nat)) (s : State) : State :=
  let (i, w) := words.headD (0, 0)
  let cz := czBits (s.alc h i).ctx
  let s1 := if words.isEmpty then s else s.p (F.COND_SNAP.COND h) (w ||| cz)
  let bits := w &&& 0x0FFFFF84
  let s2 := s1.j typ h (96 * h + i) ((s.liveBank h).getD 0)
    (packB [(0, 4, bits), (4, 4, failMask words), (8, 4, s.g (F.LAND_CNT_LO.CNT h))])
  flushDefer h (s2.modEng h (fun e => { e with snap := s.hallCond h, snapCyc := s.cyc, hev := 0 }))

/-- The recorded snapshot that hall `h` takes next in a replay. -/
def State.rplSnap (s : State) (h : Nat) : Option RplSnap := s.rpl.bind (fun r => r.snaps.find? (fun x => x.hall == h))

/-- The entries that alcove `i` failed in the window: in a replay the recorded ones (R511). -/
def State.winOf (s : State) (h i : Nat) : Nat :=
  match s.rpl with
  | some r => ((r.wins.find? (fun w => w.1 == 96 * h + i)).map (·.2)).getD 0
  | none => (s.alc h i).winFails

/-- The condition words of the LIVE alcoves with the recorded bits (R503, R511). -/
def State.rplWords (s : State) (h : Nat) (x : RplSnap) : List (Nat × Nat) :=
  (s.lives h).map (fun i => (i, ((s.alc h i).condLow false &&& 0x7A) ||| natBits x.mask (i % 32) 1 ||| (x.bits &&& 0x0FFFFF84)))

/-- The condition words of the LIVE alcoves as they stand; at a resume FAIL and HFAIL are 0 (R134, R199).  In a replay
they are the recorded ones. -/
def State.condWords (s : State) (h : Nat) (resume : Bool) : List (Nat × Nat) :=
  match s.rplSnap h with
  | some x => s.rplWords h x
  | none =>
  let live := s.lives h
  let hfail := live.any (fun i => (s.alc h i).winFails != 0)
  let up := s.hallCond h
  live.map (fun i =>
    let low := (s.alc h i).condLow hfail
    (i, (if resume then low &&& 0x7A else low) ||| up))

/-- DIVERGE: at a snapshot of a bench replay the live FAIL mask differs from the recorded one (R512).  The record is
written although recording is off. -/
def diverge (h : Nat) (words : List (Nat × Nat)) (s : State) : State :=
  match s.rpl, s.rplSnap h with
  | some r, some x =>
    let live := failMask ((s.lives h).map (fun i => (i, if (s.alc h i).winFails = 0 then 0 else 1)))
    if s.is F.JNL_STAT.BENCH && !x.resample && live != x.mask then
      ({ s with rpl := some { r with diverge := r.diverge + 1 } } : State).jforce
        [s.jrec 0x66 h (96 * h + (words.headD (0, 0)).1) 0 (packB [(0, 4, x.mask), (4, 4, live)])]
    else s
  | _, _ => s

/-- The recorded snapshot of a hall, and its fail windows, have been taken. -/
def rplTaken (h : Nat) (s : State) : State :=
  { s with rpl := s.rpl.map (fun r => { r with
    snaps := r.snaps.filter (fun x => x.hall != h), wins := r.wins.filter (fun w => w.1 / 96 != h) }) }

/-- SNAPSHOT (R137): the words, the FWIN records of the alcoves that failed in the window, and the window cleared. -/
def takeSnap (h : Nat) (resume : Bool) (s : State) : State :=
  let words := s.condWords h resume
  let s1 := rplTaken h (diverge h words (snapRecord h 0x50 words s))
  s1.over (s.lives h) (fun i t =>
    let a := t.alc h i
    if a.winFails = 0 then t
    else
      (t.j 0x51 h (96 * h + i) (a.firstFlight.getD 0xFFFF)
        (packB [(0, 4, a.winFails), (4, 4, a.firstEntry.getD 0xFFFFFFFF)])).setAlc h i { a with winFails := 0 })

/-- SDONE, SMIS, MDONE and MOUT in bits 3 to 0 (R188). -/
def AlcX.statusBits (a : AlcX) : Nat := pack [(3, 1, a.sdone.toNat), (2, 1, a.smis.toNat), (1, 1, a.mdone.toNat), (0, 1, a.mout.toNat)]

/-- Segments start after a snapshot: a STOP_RUN that waits acts, unless a thermal park does, else a jump request, else the alcoves in `run` run on
from their PCs (R138, R145, R147, R172).  `words` and `wins` are those of the snapshot. -/
def startSegments (h : Nat) (words : List (Nat × Nat)) (wins : Nat → Nat) (run : Nat → Bool) (s : State) : State :=
  let e := (s.hl h).eng
  let stop := !e.stops.isEmpty && !e.park
  let mk (w : Nat × Nat) : Member :=
    let a := s.alc h w.1
    let c := a.ctx
    let m : Member := { i := w.1, ctx := c, cond := w.2, win := if run w.1 then wins w.1 else 0, status := a.statusBits }
    if stop then { m with st := .ended, term := .stop, termAt := (s.alc h w.1).termAt }
    else
      match e.jump with
      | some t => { m with ctx := { c with stack := [], pc := t, rep := 0 }, win := wins w.1 }
      | none => if run w.1 then m else { m with st := .gone }
  let s1 := s.modEng h (fun e => { e with
    run := true, members := words.map mk, cycles := 1, staged := [], maskUsed := 0, action := none
    jump := none })
  let s2 := s1.p (F.UC_ENG.STATE h) 1
  settle h 97 s2

/-- LEAD_POINT (R137, R143): the snapshot, the throttle level read for a stretch and a park, and the segments. -/
def leadPoint (h : Nat) (s : State) : State :=
  let words := s.condWords h false
  let wins (i : Nat) := s.winOf h i
  let s1 := takeSnap h false (s.modHl h (fun x => { x with leadTaken := true }))
  let f := ((s.hl h).play).getD 0
  let n := s.g (F.FLT_STRETCH.TREADS h)
  let stretch := if (s.flt_ h f).stretchable && s.level_ = 2 then n else 0
  let s2 := s1.modHl h (fun x => { x with stretchNext := stretch, eng := { x.eng with park := s.level_ == 3, hevLate := x.eng.hevStall, hevStall := 0 } })
  -- the record names no sensor (assumption 135)
  let s3 := s2.when (stretch != 0) (fun t =>
    t.j 0x5D h 0 1 (packB [(0, 1, t.level_), (1, 2, t.g F.TEMP_MAX.TEMP), (3, 4, t.g F.HK_ROUND.COUNT)]))
  startSegments h words wins (fun i => (s.alc h i).joined) s3

/-- The result of JOURNAL_CTL (R510, R513). -/
def jnlRes (a b c detail : Nat) : List (Nat × Nat × Nat) := [(8, 4, a), (12, 4, b), (16, 4, c), (20, 1, detail)]

/-- REPLAY_END (R513): the replay stops, every alcove becomes DONE with END = STOP, the outputs come back under EN, and
the REPLAY completes. -/
def replayStop (st : Status) (detail : Nat) (s : State) : State :=
  match s.rpl with
  | none => s
  | some r =>
    let dry := s.dryRun
    let s1 := s.each s.part.halls (fun h t => if t.hallRun h then stopAct h t else t)
    let s2 := (({ s1 with rpl := none } : State).clr F.JNL_STAT.REPLAY).clr F.JNL_STAT.BENCH
    let s3 := s2.when dry (fun t =>
      (t.each t.part.halls (fun h u => if u.fenced h then u else
        blankHall h (u.each 32 (fun c v => v.when (v.is (F.PE_CTL.EN h c)) (peRelease h c))))).each t.part.smus (fun k u =>
          u.when (u.is (F.SMU_CTL.EN k) && !u.fenced (32 + k / 4)) (smuRelease k)))
    s3.complete r.did st (jnlRes r.seq r.pos r.diverge detail)

/-- The lead point of a replay takes the recorded snapshot, once it is there; where axis position or landing count are not
the recorded ones, the replay stops (R513). -/
def rplLead (h : Nat) (s : State) : State :=
  match s.rplSnap h with
  | none => s
  | some x =>
    if x.resample then s
    else if x.axis = s.pos h && x.land = s.g (F.LAND_CNT_LO.CNT h) then leadPoint h s
    else replayStop .faulted 2 s

def execLeadPoint (h : Nat) (s : State) : Host.Outcome State Fault Refusal :=
  .next (if s.hallOk h && s.playing h && !(s.hl h).leadTaken && !s.fenced h then
    (if s.replaying then rplLead h s else leadPoint h s) else s)

/-! ### The action (R141) -/

/-- An alcove's terminator ends its run. -/
def Term.ends : Term → Bool
  | .halt => true
  | .stop => true
  | .fault _ => true
  | _ => false

/-- The members that end their run at this landing, with END and cause. -/
def EngX.ending (e : EngX) : List (Nat × Nat × Nat) :=
  (e.members.filter (fun m => m.st == .ended && m.term.ends)).map (fun m =>
    (m.i, match m.term with | .stop => (1, 0) | .fault k => (2, k) | _ => (0, 0)))

/-- The LIVE alcoves that stay LIVE past this landing: the first is the pacing alcove. -/
def State.staying (s : State) (h : Nat) : List Nat :=
  let out := (s.hl h).eng.ending.map (·.1)
  (s.lives h).filter (fun i => !out.contains i)

/-- The flight that an alcove's terminator names. -/
def AlcX.termFlight (a : AlcX) : Option Nat := match a.term with | .play f => some f | _ => none

/-- The action is formed from the pacing alcove's terminator; the others join or sit out, and next flights are scheduled
(R96, R113, R141, R152). -/
def formAction (h : Nat) (s : State) : Action × State :=
  let live := s.staying h
  match live with
  | [] => (.swap, refsUpdate h s)
  | p :: _ =>
    let pt := (s.alc h p).termAt
    let s1 := s.over live (fun i t =>
      let a := t.alc h i
      t.setAlc h i { a with joined := a.termAt == pt, next := a.termFlight })
    let s2 := refsUpdate h s1
    let act := match (s.alc h p).term with
      | .play f => Action.play f ((s2.flt_ h f).st < 2)
      | .brw _ _ _ _ => .brw
      | .sync l _ _ _ => .sync l
      | _ => .swap
    (act, s2)

/-- The pacing alcove's terminator is a YIELD. -/
def State.paceYields (s : State) (h : Nat) : Bool :=
  match s.staying h with | p :: _ => (s.alc h p).term == .yield | [] => false

/-- The hall takes part in array landings (R80). -/
def State.syncOk (s : State) (h : Nat) : Bool :=
  s.g (F.AXIS_CTL.SRC h) == 0 && s.axSt h == axLocked && s.is (F.AXIS_STAT.ALIGNED h)

/-- A SYNC record: sample level, DENIED, RESUME_LATE (R503). -/
def jSync (h line bits : Nat) (s : State) : State := s.j 0x53 h line 0 bits

/-- The condition word that an alcove had in this landing's snapshot. -/
def State.snapWord (s : State) (h i : Nat) : Nat :=
  match (s.hl h).eng.members.find? (fun m => m.i == i) with
  | some m => m.cond % 2 ^ 28 ||| czBits (s.alc h i).ctx
  | none => 0

/-- SYNC_DRIVE (R434, R436, step 1): the line is driven where the test holds on this landing's snapshot for any joined
alcove (R151). -/
def syncDrive (h line : Nat) (s : State) : State :=
  let fire := (s.staying h).any (fun i => (s.alc h i).joined &&
    (match (s.alc h i).term with | .sync _ _ mode mask => condTest mode mask (s.snapWord h i) | _ => false))
  if !s.is F.GAL_STAT.JOINED then s.set1 F.GAL_STAT.UNJOINED_SYNC
  else if fire then
    (s.modHl h (fun x => { x with driveLine := some line, driveTread := s.pos h })).when (s.hl h).landed (fun t =>
      t.set1 F.GAL_STAT.DRIVE_LATE)
  else s

/-- What a read of a LIVE alcove returns from now on (R165, R188). -/
def AlcX.look (a : AlcX) : AlcX :=
  { a with seen := { status := a.statusBits, fails := a.fails, failsSat := a.failsSat, firstEntry := a.firstEntry,
                     firstFlight := a.firstFlight, flogCount := a.flogCount } }

/-- The working copies are committed together; the contexts before are kept until the landing (R42, R165). -/
def commit (h : Nat) (s : State) : State :=
  let ms := (s.hl h).eng.members.filter (fun m => m.st == .ended)
  let s1 := s.modHl h (fun x => { x with
    backup := x.backup ++ (ms.filter (fun m => !x.backup.any (fun b => b.1 == m.i))).map (fun m => (m.i, s.alc h m.i)) })
  let s2 := s1.over ms (fun m t =>
    let reached := m.term == .halt || !m.term.ends
    (t.modAlc h m.i (fun a =>
      let b := { a with
        ctx := m.ctx, resamples := 0
        termAt := if reached then m.termAt else a.termAt
        term := if reached then m.term else a.term }
      if m.wrote then { b with
        sdone := m.status / 8 % 2 == 1, smis := m.status / 4 % 2 == 1, mdone := m.status / 2 % 2 == 1, mout := m.status % 2 == 1 }
      else b)).when m.ctx.csat (fun u => u.set1 (F.ALC_STATE.CSAT h m.i)))
  s2.over (s2.lives h) (fun i t => t.modAlc h i AlcX.look)

/-- Members run on at addresses, within the same landing (R151, R200). -/
def runOn (h cycles : Nat) (go : Nat → Option Nat) (s : State) : State :=
  let s1 := s.modEng h (fun e => { e with
    run := true, action := none, cycles := e.cycles + cycles
    members := e.members.map (fun m =>
      match go m.i with
      | some pc => { m with st := .run, n := 0, term := .none, ctx := { (s.alc h m.i).ctx with pc := pc % 65536 } }
      | none => m) })
  settle h 97 (s1.p (F.UC_ENG.STATE h) 1)

/-- The decision goes to the hall.  At a SYNC of a hall that takes no part in array landings the joined alcoves take the
DENIED path instead, within the same landing (R80, R151). -/
def sendAction (h : Nat) (act : Action) (s : State) : State :=
  let go (t : State) : State := (t.modEng h (fun e => { e with run := false, action := some act })).p (F.UC_ENG.STATE h) 0
  match act with
  | .sync l =>
    if s.syncOk h then go (syncDrive h l s)
    else
      let s1 := jSync h l 2 (s.set1 (F.LAND_STAT.SYNC_DENIED h))
      runOn h 0 (fun i =>
        if (s1.staying h).contains i && (s1.alc h i).joined then
          (match (s1.alc h i).term with | .sync _ t _ _ => some t | _ => none)
        else none) s1
  | _ => go s

/-! ### What a landing does -/

/-- A flight's first entry plays (R96, R107, R118, R136, R142, R210). -/
def startFlight (h f : Nat) (s : State) : State :=
  let live := s.lives h
  let x := s.flt_ h f
  let s0 := s.when (s.hl h).hold.stallEnd (fun t => t.jAxis h 6 f (t.g (F.STALL_RUN.RUN h)))
  let s1 := s0.over live (fun i t =>
    t.modAlc h i (fun a => { a with
      cur := if a.joined then some f else none, next := if a.joined then none else a.next, failEntry := none }))
  let s2 := refsUpdate h s1
  let s2 : State := { s2 with rpl := s2.rpl.map (fun r => { r with notes := r.notes.filter (fun n => n.1 != h) }) }
  let s3 := s2.modHl h (fun y => { y with
    play := some f, entry := 0, leadTaken := false, stretchNext := 0, landed := false, counted := false, hold := {}, backup := []
    startTread := s.pos h, bankBegun := true, bankTread := if y.bankBegun then y.bankTread else s.pos h })
  let s4 := (s3.set1 (F.FLT_STAT.PLAYING h)).p (F.LAND_STAT.LEAD_EFF h) (s3.leadEff h)
  let s5 := s4.when x.trigger (fun t =>
    (t.emit (4 * h)).when (t.is (F.FLT_TRIGOUT.EN h)) (fun u => u.modHl h (fun y => { y with trigOut := true })))
  let s6 := s5.when ((s5.hl h).admClass < x.pclass) (fun t =>
    let u := (ledger (t.modHl h (fun y => { y with
      admClass := x.pclass, resv := t.g (F.PCLASS_PWR.PWR h x.pclass) + y.admLoad }))).set1 (F.HALL_STAT.CLASS_OVER h)
    jSched h ((u.liveBank h).getD 0) 4 0 u.powerEst u)
  let s7 := s6.when (!s6.part.raster && s6.hasRS h f) (fun t => t.set1 (F.FLT_STAT.CODE_ABSENT h))
  let s8 := match s7.liveBank h with | some b => tsKeep h b s7 | none => s7
  waitStat h (headFetch h live s8)

/-- The flight that the landing has decided starts once no hold remains and no slice runs (R105, R487). -/
def tryStart (h : Nat) (s : State) : State :=
  let x := (s.hl h).hold
  match x.target with
  | none => s
  | some f =>
    if x.stretch.isNone && x.release.isNone && x.stall.isNone && !x.head && !x.seg && !x.dec && !x.kept && !x.brw &&
        x.sync.isNone && !x.swap && x.swapWait.isNone then
      if s.slice h then sliceDelay h (holdBegin h s) else startFlight h f s
    else holdBegin h s

/-- A SEND's start in a replay: its status comes from the record; a bench replay also runs the transfer (R511, R512). -/
def rplSend (h i n : Nat) (s : State) : State :=
  let q : SendReq := ⟨i, n, (s.hse h).sent + 1, i / 32⟩
  ({ s with rpl := s.rpl.map (fun r => { r with sends := r.sends ++ [(h, q)] }) } : State).when (!s.dryRun) (sendRequest h i n)

/-- A MEAS's start in a replay: its code comes from the record; a bench replay also runs it. -/
def rplMeas (r : MeasReq) (s : State) : State :=
  ({ s with rpl := s.rpl.map (fun x => { x with meas := x.meas ++ [r] }) } : State).when (!s.dryRun) (fun t =>
    t.modGrp (r.ch / 4) (fun g => { g with flight := g.flight ++ [r] }))

/-- A set's start in a dry replay: only the latches that it clears. -/
def rplTdc (h m : Nat) (s : State) : State :=
  (tdcqClear h m s).p (F.TDC_HALL_STAT.LAST_SET h) m

/-- A staged effect takes place (R138, R160, R315, R330, R373).  In a replay the results of SEND, TDC and MEAS come from
the record (R511). -/
def stagedAct (h : Nat) (e : Staged) (s : State) : State :=
  match e with
  | .sett i ts => s.p (F.ALC_STATE.TS h i) ts
  | .setl i ls => s.p (F.ALC_STATE.LS h i) ls
  | .send i n => (if s.replaying then rplSend h i n s else sendRequest h i n s).modAlc h i (fun a => { a with sdone := false, smis := false })
  | .tdc i m => if s.dryRun then rplTdc h m s else tdcStart h m false (96 * h + i) s
  | .meas i ch m =>
    let r : MeasReq := { hall := h, alc := i, bank := i / 32, ch := ch, mset := m, no := (s.alc h i).measNo + 1 }
    (if s.replaying then rplMeas r s else s.modGrp (ch / 4) (fun g => { g with flight := g.flight ++ [r] })).modAlc h i
      (fun a => { a with mdone := false, mout := false, measNo := a.measNo + 1 })
  | .emit ev => if s.evIn.contains (128 + ev, s.cyc) then s else s.emit (128 + ev)
  | .waita _ => s
  | .gap _ => s

/-- The release that staged WAITAs and GAPs set at a landing in tread `l`, in treads after it: the latest (R148, R149). -/
def releaseOf (l : Nat) (es : List Staged) : Option Nat :=
  es.foldl (fun r e =>
    let t := match e with | .waita p => if l < p then some (p - l) else none | .gap n => some (n + 1) | _ => none
    match r, t with
    | some a, some b => some (max a b)
    | none, b => b
    | a, none => a) none

/-- The ratio slots that timing sets of alcoves name, by alcove (R65). -/
def State.tsSlots (s : State) (h : Nat) (is_ : List Nat) : List (Nat × Nat) :=
  is_.filterMap (fun i =>
    let t := s.g (F.ALC_STATE.TS h i)
    if s.is (F.TSET_HDR.RATIO_EN h t) then some (i, s.g (F.TSET_HDR.RATIO_SLOT h t)) else none)

/-- The first decision of a landing comes to the axis, whatever it is; further ones leave it (R66, R75). -/
def landAxis (h : Nat) (s : State) : State :=
  if (s.hl h).counted then s else (axisLanding h s).modHl h (fun y => { y with counted := true })

/-- The channel slots' timing, levels and axis as the landing makes them current (R65–R67, R75, R121, R277). -/
def landCurrent (h : Nat) (es : List Staged) (s : State) : State :=
  let x := s.hl h
  let setters := es.filterMap (fun e => match e with | .sett i _ => some i | _ => none)
  let live := s.lives h
  let named := if x.hold.resume && !x.counted then live else live.filter (fun i => setters.contains i)
  let s1 := slotLanding h (s.tsSlots h named) (landAxis h s)
  match s1.liveBank h with | some b => levelsApply h b s1 | none => s1

/-- LATE_JUMP is set and counted, once at a landing (R144). -/
def lateMark (h : Nat) (s : State) : State :=
  if (s.hl h).eng.lateDone then s
  else ((s.set1 (F.LAND_STAT.LATE_JUMP h)).count (F.LATE_CNT.COUNT h) (F.LATE_CNT.SAT h)).modEng h (fun e => { e with lateDone := true })

/-- The first effects of a landing: the count, LATE_JUMP, the hold vector in use (R121, R144, R146, R162).  The HEV inputs
asserted late are kept for the masks of segments that still run. -/
def landCount (h : Nat) (s : State) : State :=
  let e := (s.hl h).eng
  let late := e.jumpLate || e.stopLate || (e.hevLate &&& natBits e.maskUsed 8 8) != 0
  let s1 := (s.modEng h (fun e => { e with
    jumpLate := false, stopLate := false, hevLand := e.hevLate, hevLate := 0, lateDone := false })).when late (lateMark h)
  let n := s1.g (F.LAND_CNT_LO.CNT h) + 2 ^ 32 * s1.g (F.LAND_CNT_HI.CNT h) + 1
  let s2 := (s1.p (F.LAND_CNT_LO.CNT h) n).p (F.LAND_CNT_HI.CNT h) (n >>> 32)
  let s3 := s2.modHl h (fun x => { x with
    holdUse := (List.range 4).foldl (fun m k => tabSet (fun _ => 0x33333333) m k (s2.rd (R.HOLD_VEC h k)).toNat) [] })
  jumpDone h s3

/-- A swap starts, or a bank goes live from idle (R190, R198, R199): drivers off, SITESEL off, the incoming bank LIVE;
its resume landing dispatches a pending action or takes a snapshot and runs segments.  A release point set at a landing at
which the hall swaps ends with the outgoing bank (assumption 136). -/
def swapBegin (h b : Nat) (s : State) : State :=
  let s0 := match s.liveBank h with | some o => leaveBank h o s | none => s
  let s1 := (siteSel h 0 s0).modHl h (fun x => { x with
    hold := { tread := s.pos h, tb0 := s.tb0ns, swap := true, resume := true }, landed := true, counted := false, heads := [], leadTaken := false })
  let s2 := ((s1.set1 (F.HALL_STAT.SWAP h)).count (F.SWAP_CNT.COUNT h) (F.SWAP_CNT.SAT h)).p (F.HALL_STAT.LIVE_BANK h) (b + 1)
  let into := (bankAlcs b).filter (fun i => s2.alcSt h i == alcReady || s2.alcSt h i == alcParked)
  let ready (i : Nat) := s2.alcSt h i == alcReady
  let s3 := (s2.clr (F.HALL_STAT.IDLE h)).over into (fun i t =>
    let j := ready i || (t.alc h i).joined
    (((setAlcSt h i alcLive t).clr (F.ALC_STATE.THERM h i)).pb (F.ALC_STATE.SITOUT h i) (!j)).modAlc h i (fun a => AlcX.look { a with joined := j }))
  let s4 := landCount h (levelsApply h b (refsUpdate h (blankHall h s3)))
  match (s4.bank h b).park with
  | some act =>
    let staged := (s4.bank h b).parkStaged
    let words := s4.condWords h true
    let s5 := s4.modBank h b (fun x => { x with park := none, parkStaged := [] })
    let act' := match act with | .play f _ => Action.play f ((s5.flt_ h f).st < 2) | a => a
    let s6 := s5.over (s5.lives h) (fun i t => t.modAlc h i (fun a => { a with next := a.termFlight }))
    sendAction h act' (refsUpdate h (s6.modEng h (fun e => { e with
      cycles := 1, staged := staged, park := false
      members := words.map (fun w => { i := w.1, ctx := (s6.alc h w.1).ctx, cond := w.2, win := 0, st := .gone }) })))
  | none =>
    let words := s4.condWords h true
    let s5 := takeSnap h true (s4.modEng h (fun e => { e with park := false }))
    let run (i : Nat) := (s5.alc h i).joined
    let s6 := headFetch h ((s5.lives h).filter run) s5
    jumpDone h (startSegments h words (fun _ => 0) run (s6.modHold h (fun x => { x with dec := true })))

/-- The scheduler of a hall without a live bank decides (R202); while a slice runs it waits (R487), and in a shutdown the
core does not run (R43, R462). -/
def idleDecide (h : Nat) (s : State) : State :=
  if (s.liveBank h).isNone && !s.fenced h && !s.replaying && s.awake && (List.range 3).any (fun b => s.waits h b) then
    if s.slice h then sliceDelay h s else
    match schedDecide h none s with
    | (some b, s1) => swapBegin h b s1
    | (none, s1) => s1
  else s

/-- Every hall without a live bank decides, in hall order (R202, R209). -/
def idleAll (s : State) : State := s.each s.part.halls idleDecide

/-- An operation, after which the release of an SMU group claim makes idle schedulers decide (R202). -/
def withClaims (f : State → State) (s : State) : State :=
  let t := f s
  if (List.range 16).any (fun g => s.claimed g && !t.claimed g) then idleAll t else t

/-- The scheduler decides at a swap point of bank `b`: it keeps the bank, swaps once the bank's SENDs have ended, or
leaves the hall idle (R152, R200–R202, R209).  In a replay the hall waits for the recorded decision (R511). -/
def swapPoint (h b : Nat) (again : Bool) (s : State) : State :=
  let joined := (s.lives h).filter (fun i => (s.alc h i).joined)
  let s0 := if s.paceYields h then setYield h b (s.lives h) s else s
  match s0.rpl with
  | some r => holdBegin h { s0 with rpl := some { r with swaps := r.swaps ++ [h] } }
  | none =>
  match schedDecide h (some b) s0 with
  | (some c, s1) =>
    if c = b then
      let s2 := s1.modHold h (fun x => if again then { x with dec := true } else { x with kept := true })
      runOn h 2 (fun i => if joined.contains i then some (s2.alc h i).ctx.pc else none) s2
    else if s1.bankSends h b || s1.slice h then s1.when (s1.slice h) (sliceDelay h) |> fun s1 => holdBegin h (s1.modHl h (fun x => { x with hold := { x.hold with swapWait := some c }, swapTread := s1.pos h }))
    else swapBegin h c s1
  | (none, s1) => goIdle h (leaveBank h b s1)

/-- THERMAL_PARK (R41, R172, R212): the bank parks with its pending action stored; the hall plays nothing. -/
def parkBank (h b : Nat) (es : List Staged) (s : State) : State :=
  let (act, s0) := formAction h s
  let live := s0.lives h
  if live.isEmpty then goIdle h (leaveBank h b s0)
  else
    let s1 :=
      if s0.paceYields h then setYield h b live s0
      else s0.modBank h b (fun x => { x with park := some act, parkStaged := es })
    let s2 := (s1.over live (fun i t => t.set1 (F.ALC_STATE.THERM h i))).set1 (F.HALL_STAT.THERM h)
    goIdle h (leaveBank h b (abortSends h (fun r => r.bank == b) s2))

/-- The record has an AXIS record of this ARG for the landing of hall `h` (R511). -/
def State.rplNote (s : State) (h arg : Nat) : Bool := (s.rpl.map (fun r => r.notes.any (fun n => n.1 == h && n.2.1 == arg))).getD false

/-- The first tread of a stall or hold that begins now: the present one if its first sample period is held (R115). -/
def State.firstHeld (s : State) (h : Nat) : Nat := if (s.ax h).per = 0 then s.pos h else (s.pos h + 1) % 2 ^ 48

/-- A tread in which the hall holds by a segment hold, for a SEND, or in a stall is counted (R115, R140, R201). -/
def holdTread (h : Nat) (s : State) : State :=
  let x := (s.hl h).hold
  let s1 := s.when (x.seg || x.swapWait.isSome) (fun t =>
    (t.count (F.SEG_HOLD_CNT.COUNT h) (F.SEG_HOLD_CNT.SAT h)).modHold h (fun y => { y with segTreads := y.segTreads + 1 }))
  s1.when x.stall.isSome (fun t =>
    (t.count (F.STALL_CNT.COUNT h) (F.STALL_CNT.SAT h)).p (F.STALL_RUN.RUN h) (min (t.g (F.STALL_RUN.RUN h) + 1) 0xFFFFFFFF))

/-- The tread in which a hold begins counts if its first sample period is held. -/
def holdFirst (h : Nat) (s : State) : State := s.when ((s.ax h).per == 0) (holdTread h)

/-- A stall begins: its record is stamped with its first tread (R113, R115, R118). -/
def stallBegin (h f : Nat) (s : State) : State :=
  let t := (s.set1 (F.FLT_STAT.STALLING h)).p (F.STALL_RUN.RUN h) 0
  holdFirst h (t.jput [{ t.jrec 0x5B h 0 5 (packB [(0, 2, f), (2, 4, 0)]) with axis := t.firstHeld h }])

/-- The decided action acts at the landing (R138, R141, R148–R153, R172).  A stretch decided for a landing at which the
hall swaps or goes idle is dropped (assumption 137). -/
def landAct (h : Nat) (s : State) : State :=
  match (s.hl h).eng.action, s.liveBank h with
  | some act, some b =>
    let e := (s.hl h).eng
    let again := (s.hl h).counted
    let park := act == .park
    let late := !again && (e.hevLand &&& natBits e.maskUsed 8 8) != 0
    let s0 := ((jumpDone h s).when late (lateMark h)).modHl h (fun x => { x with
      backup := [], eng := { x.eng with action := none, run := false, staged := [], members := x.eng.members.map (fun m => { m with st := .gone }) } })
    if e.ending.any (fun x => x.2.1 == 1) then stopAct h ((landAxis h s0).modEng h (fun y => { y with members := [] }))
    else
      let s1 := if park && !s0.paceYields h then s0 else s0.over e.staged (stagedAct h)
      let s2 := s1.over e.ending (fun x t => finishAlc h x.1 x.2.1 x.2.2 t)
      if park then stopCheck (parkBank h b e.staged (landAxis h s2))
      else
        let s3 := landCurrent h e.staged
          (s2.over (s2.lives h) (fun i t => t.pb (F.ALC_STATE.SITOUT h i) (!(t.alc h i).joined)))
        let l := (s3.hl h).hold.tread
        let str := (s3.hl h).stretchNext
        let s4 := s3.modHold h (fun x => { x with
          release := match releaseOf l e.staged, x.release with | some a, some c => some (max a c) | a, none => a | none, c => c
          seg := false, dec := false, kept := false
          stretch := if str != 0 && act != .swap then some str else x.stretch })
        let s5 := s4.when (str != 0 && act != .swap) (fun t =>
          (t.modHl h (fun x => { x with stretchNext := 0 })).set1 (F.FLT_STAT.STRETCHING h))
        match act with
        | .play f stall =>
          let stall := if s5.replaying then s5.rplNote h 5 else stall
          let miss := if s5.replaying then s5.rplNote h 8 else !stall && !s5.pinned h f && !(s5.hl h).heads.contains f
          let s6 := s5.modHold h (fun x => { x with target := some f, brw := false, stall := if stall then some f else none, stallEnd := stall, head := miss })
          let s7 := s6.when stall (stallBegin h f)
          let s8 := s7.when miss (fun t =>
            ((t.set1 (F.LAND_STAT.HEAD_MISS h)).count (F.HEAD_MISS_CNT.COUNT h) (F.HEAD_MISS_CNT.SAT h)).jAxis h 8 f 0)
          tryStart h (waitStat h (stopCheck s8))
        | .brw => holdBegin h (waitStat h (s5.modHold h (fun x => { x with target := none, brw := true, brwFrom := s5.pos h })))
        | .sync l => holdBegin h (waitStat h (s5.modHold h (fun x => { x with target := none, brw := false, sync := some l, syncSeen := none })))
        | _ => stopCheck (swapPoint h b again (waitStat h s5))
  | _, _ => s

/-! ### Dispatch -/

/-- Segments remain to be run. -/
def EngX.open_ (e : EngX) : Bool := e.members.any (fun m => m.st == .run)

/-- DISPATCH (R140, R141, R151, R165, R172, R436). -/
def dispatch (h : Nat) (s : State) : State :=
  let s0 := commit h (noticeFaults h (s.modEng h (fun e => { e with cycles := e.cycles + 1 })))
  let (act, s1) := formAction h s0
  sendAction h (if (s1.hl h).eng.park && !(s1.staying h).isEmpty then .park else act) s1

/-- DISPATCH.  Where the scheduler has kept a yielding bank, the decision that arrives in time lets the landing go on
without delay, and a later one makes a segment hold (R140, R200). -/
def execDispatch (h : Nat) (s : State) : Host.Outcome State Fault Refusal :=
  .next (
    let e := (s.hl h).eng
    if s.hallOk h && e.run && !e.open_ && s.g (F.UC_ENG.STATE h) == 1 && !s.fenced h then
      let s1 := dispatch h s
      if (s1.hl h).hold.kept && (s1.hl h).eng.action.isSome then
        if s1.decisionLate h then
          holdBegin h ((s1.modHold h (fun x => { x with kept := false, seg := true })).set1 (F.LAND_STAT.SEG_HOLD h))
        else withClaims (landAct h) s1
      else s1
    else s)

/-! ### The landing -/

/-- A flight ends at its last entry: drive states, and the loop cache keeps what it has filled (R87, R105, R109). -/
def flightEnd (h : Nat) (s : State) : State :=
  let f := ((s.hl h).play).getD 0
  let last := 64 * (s.flt_ h f).len
  let s1 := entriesTo h last (lanesPass h (last - (s.hl h).entry) s)
  let s2 := s1.modHl h (fun x => { x with
    play := none, leadTaken := false
    cache := x.cache.map (fun c => if c.flight == f then { c with pinned := true } else c) })
  s2.clr (F.FLT_STAT.PLAYING h)

/-- LANDING (R105, R140, R144): the flight ends; the decision acts, or the hall holds for it. -/
def landing (h : Nat) (s : State) : State :=
  let l := s.pos h
  let drv := (s.hl h).driveLine.isSome && (s.hl h).driveTread == l
  let s1 := (flightEnd h s).modHl h (fun x => { x with
    landed := true, counted := false, landDue := false, hold := { tread := l, tb0 := s.tb0ns }, driveTread := if x.driveLine.isSome then l else x.driveTread })
  let s2 := landCount h (s1.when (drv && !(s.hl h).eng.run) (fun t => t.set1 F.GAL_STAT.DRIVE_LATE))
  if (s2.hl h).eng.action.isNone || (if s2.replaying then s2.rplNote h 7 else s2.decisionLate h) then
    holdBegin h (holdFirst h ((s2.modHold h (fun x => { x with seg := true })).set1 (F.LAND_STAT.SEG_HOLD h)))
  else landAct h s2

/-- LANDING: the flight's last entry ends in this core cycle.  As the cycle ends the landing takes place (`landingsDue`),
unless a fence that falls in the same cycle has governed (R41; assumption 131). -/
def execLanding (h : Nat) (s : State) : Host.Outcome State Fault Refusal :=
  .next (if s.hallOk h && s.playing h && (s.hl h).leadTaken && !s.fenced h then
    s.modHl h (fun x => { x with landDue := true }) else s)

/-- The landings of a core cycle take place, in hall order. -/
def landingsDue (s : State) : State :=
  s.each s.part.halls (fun h t => if (t.hl h).landDue then withClaims (landing h) t else t)

/-- DECISION_ARRIVAL: a decision that came after the flight's end, or a further decision of the landing, reaches the
hall (R140, R150, R151, R199).  During a swap it waits for the settle (R198, R199). -/
def decisionArrival (h : Nat) (s : State) : State :=
  let x := (s.hl h).hold
  let f := match (s.hl h).eng.action with | some (.play f _) => f | _ => 0
  let s1 := s.when x.seg (fun t =>
    t.jput [{ t.jrec 0x5B h 0 7 (packB [(0, 2, f), (2, 4, x.segTreads)]) with axis := x.tread }])
  let s2 := s1.modHold h (fun y => { y with seg := false, dec := false })
  if x.swap then s2 else landAct h s2

def execDecisionArrival (h : Nat) (s : State) : Host.Outcome State Fault Refusal :=
  .next (
    let x := s.hl h
    let due := match s.rpl with
      | some r => !x.hold.seg || r.notes.all (fun n => n.1 != h || n.2.1 != 7 || n.2.2 ≤ s.treadsSince h x.hold.tread)
      | none => true
    if s.hallOk h && x.landed && x.eng.action.isSome && (x.hold.seg || x.hold.dec) && due then withClaims (decisionArrival h) s else s)

/-! ### Ends of holds -/

/-- HEAD_FILL_DONE (R142). -/
def execHeadFillDone (h : Nat) (s : State) : Host.Outcome State Fault Refusal :=
  .next (if s.hallOk h && (s.hl h).hold.head then tryStart h (s.modHold h (fun x => { x with head := false })) else s)

/-- STALL_END: 64 periods after the awaited flight became VALID (R114).  The record of the end is written in the tread of
the flight's first entry (R118), which a release point may still delay. -/
def stallEnd (h : Nat) (s : State) : State :=
  tryStart h ((s.modHold h (fun x => { x with stall := none })).clr (F.FLT_STAT.STALLING h))

def execStallEnd (h : Nat) (s : State) : Host.Outcome State Fault Refusal :=
  .next (
    match (s.hl h).hold.stall with
    | some f => if s.hallOk h && 2 ≤ (s.flt_ h f).st then stallEnd h s else s
    | none => s)

/-- The action is formed again at the same landing (R116, R141). -/
def reform (h : Nat) (s : State) : State :=
  let (act, s1) := formAction h (s.modEng h (fun e => { e with members := e.members.map (fun m => { m with st := .gone }), staged := [] }))
  landAct h (s1.modHl h (fun x => { x with
    hold := { x.hold with target := none, stall := none, head := false }, eng := { x.eng with action := some act } }))

/-- STALL_LIMIT: the alcoves that wait for the flight fault with cause FLIGHT_STALL (R116); the stall ends with a record
(assumption 47). -/
def stallLimit (h f : Nat) (s : State) : State :=
  let hit := (s.lives h).filter (fun i => (s.alc h i).next == some f)
  let s0 := s.jAxis h 6 f (s.g (F.STALL_RUN.RUN h))
  let s1 := ((s0.set1 (F.FLT_STAT.STALL_FAULT h)).clr (F.FLT_STAT.STALLING h)).modHold h (fun x => { x with stall := none, stallEnd := false })
  let s2 := s1.over hit (fun i t => finishAlc h i 2 fcStall t)
  reform h (s2.raise (8 * h + 3) noDetail (hit.map (fun i => 96 * h + i)))

def execStallLimit (h : Nat) (s : State) : Host.Outcome State Fault Refusal :=
  .next (
    match (s.hl h).hold.stall with
    | some f =>
      let lim := s.g (F.STALL_LIMIT.LIMIT h)
      if s.hallOk h && lim != 0 && lim ≤ s.g (F.STALL_RUN.RUN h) then withClaims (stallLimit h f) s else s
    | none => s)

/-- STRETCH_END (R108). -/
def execStretchEnd (h : Nat) (s : State) : Host.Outcome State Fault Refusal :=
  .next (
    match (s.hl h).hold.stretch with
    | some t =>
      if s.hallOk h && t ≤ s.treadsSince h (s.hl h).hold.tread then
        tryStart h ((s.modHold h (fun x => { x with stretch := none })).clr (F.FLT_STAT.STRETCHING h)) else s
    | none => s)

/-- WAIT_RELEASE: the tread of a WAITA or GAP is reached (R148, R149). -/
def execWaitRelease (h : Nat) (s : State) : Host.Outcome State Fault Refusal :=
  .next (
    match (s.hl h).hold.release with
    | some t =>
      if s.hallOk h && t ≤ s.treadsSince h (s.hl h).hold.tread then
        tryStart h (waitStat h (s.modHold h (fun x => { x with release := none }))) else s
    | none => s)

/-! ### BRW (R150) -/

/-- The alcoves that wait at the pacing alcove's BRW, with its operands. -/
def State.brwWaiters (s : State) (h : Nat) : List (Nat × Nat × Nat × Nat × Nat) :=
  match s.lives h with
  | [] => []
  | p :: _ =>
    let at_ := (s.alc h p).termAt
    (s.lives h).filterMap (fun i =>
      let a := s.alc h i
      let idle := (s.hl h).eng.members.any (fun m => m.i == i && m.st == .gone)
      match a.term with
      | .brw mode mask target timeout => if a.joined && a.termAt == at_ && idle then some (i, mode, mask, target, timeout) else none
      | _ => none)

/-- Some waiting alcove has had its last re-sample. -/
def State.brwExpired (s : State) (h : Nat) : Bool :=
  (s.brwWaiters h).any (fun w => w.2.2.2.2 ≤ (s.alc h w.1).resamples)

/-- Waiting alcoves leave the BRW for addresses; where the pacing alcove leaves, the action is formed again, and
the hall holds for that decision in a segment hold (R140). -/
def brwLeave (h : Nat) (go : List (Nat × Nat)) (s : State) : State :=
  if go.isEmpty then s
  else
    let pace := (s.lives h).headD 96
    let left := go.any (fun x => x.1 == pace)
    let s1 := s.modHl h (fun x => { x with
      hold := { x.hold with dec := !left, seg := left || x.hold.seg, brw := if left then false else x.hold.brw }
      eng := if x.eng.run then x.eng else { x.eng with cycles := 1 } })
    runOn h 0 (fun i => (go.find? (fun x => x.1 == i)).map (·.2))
      (if left then waitStat h (holdFirst h (s1.set1 (F.LAND_STAT.SEG_HOLD h))) else s1)

/-- BRW_RESAMPLE at a tread boundary: every waiting alcove re-samples its condition word; FAIL and HFAIL are those of the
fail window. -/
def brwResample (h : Nat) (s : State) : State :=
  let now := s.condWords h false
  let old (i : Nat) := match (s.hl h).eng.members.find? (fun m => m.i == i) with | some m => m.cond &&& 5 | none => 0
  let words := now.map (fun w => (w.1, w.2 - (w.2 &&& 5) + old w.1))
  let ws := s.brwWaiters h
  let word (i : Nat) := ((words.find? (fun x => x.1 == i)).map (·.2)).getD 0
  let hit := ws.filter (fun w => condTest w.2.1 w.2.2.1 (word w.1 ||| czBits (s.alc h w.1).ctx))
  let s1 := snapRecord h 0x52 words (s.modHold h (fun x => { x with brwFrom := s.pos h }))
  let s2 := s1.over ws (fun w t => t.modAlc h w.1 (fun a => { a with resamples := a.resamples + 1 }))
  let s3 := s2.modEng h (fun e => { e with
    members := e.members.map (fun m => if ws.any (fun w => w.1 == m.i) then { m with cond := word m.i } else m) })
  brwLeave h (hit.map (fun w => (w.1, w.2.2.2.1))) s3

def execBrwResample (h : Nat) (s : State) : Host.Outcome State Fault Refusal :=
  .next (
    let x := (s.hl h).hold
    if s.hallOk h && x.brw && x.brwFrom != s.pos h && !s.brwExpired h &&
        (!s.replaying || ((s.rplSnap h).map (·.resample)).getD false) then rplTaken h (brwResample h s) else s)

/-- BRW_TIMEOUT: after the TIMEOUT-th re-sample without success an alcove goes on at BRW + 1. -/
def execBrwTimeout (h : Nat) (s : State) : Host.Outcome State Fault Refusal :=
  .next (
    if s.hallOk h && (s.hl h).hold.brw then
      brwLeave h (((s.brwWaiters h).filter (fun w => w.2.2.2.2 ≤ (s.alc h w.1).resamples)).map
        (fun w => (w.1, (s.alc h w.1).termAt + 1))) s
    else s)

/-! ### SYNC (R151, R433–R436) -/

/-- ARRAY_LAT of a hall (R435). -/
def State.arrayLat (s : State) (h : Nat) : Nat := max (s.g (F.GAL_ALAT.ALAT h)) ((64 + s.prediv h - 1) / s.prediv h)

/-- SYNC_SAMPLE: the line read at the edge that begins tread L + ARRAY_LAT; the joined alcoves branch on it. -/
def syncSample (h line : Nat) (high : Bool) (s : State) : State :=
  let s1 := jSync h line high.toNat (s.modHl h (fun x => { x with
    hold := { x.hold with syncSeen := some high, dec := true }, eng := { x.eng with cycles := 1 } }))
  runOn h 0 (fun i =>
    let a := s1.alc h i
    if s1.alcSt h i == alcLive && a.joined then
      (match a.term with | .sync _ t _ _ => some (if high then t else a.termAt + 1) | _ => none)
    else none) s1

def execSyncSample (h : Nat) (high : Bool) (s : State) : Host.Outcome State Fault Refusal :=
  .next (
    let x := (s.hl h).hold
    match x.sync with
    | some line =>
      if s.hallOk h && !s.replaying && x.syncSeen.isNone && s.arrayLat h ≤ s.treadsSince h x.tread then syncSample h line high s else s
    | none => s)

/-- SYNC_RELEASE: the line driven is released at the end of tread L + ARRAY_LAT. -/
def execSyncRelease (h : Nat) (s : State) : Host.Outcome State Fault Refusal :=
  .next (
    if s.hallOk h && (s.hl h).driveLine.isSome && s.arrayLat h < s.treadsSince h (s.hl h).driveTread then
      s.modHl h (fun x => { x with driveLine := none })
    else s)

/-- SYNC_RESUME: tread L + ARRAY_LAT + RESUME; a decision not yet there is late. -/
def syncResume (h line : Nat) (high : Bool) (s : State) : State :=
  let s1 := s.when ((s.hl h).hold.dec) (fun t => jSync h line (4 + high.toNat) (t.set1 F.GAL_STAT.RESUME_LATE))
  tryStart h (waitStat h (s1.modHold h (fun x => { x with sync := none })))

def execSyncResume (h : Nat) (s : State) : Host.Outcome State Fault Refusal :=
  .next (
    let x := (s.hl h).hold
    match x.sync, x.syncSeen with
    | some line, some high =>
      if s.hallOk h && s.arrayLat h + s.g (F.GAL_ALAT.RESUME h) ≤ s.treadsSince h x.tread then syncResume h line high s else s
    | _, _ => s)

/-! ### Requests (R143–R147, R558) -/

/-- The reference snapshot of an arrival has been taken: that of the flight playing, or of the landing held (R558). -/
def State.refTaken (s : State) (h : Nat) : Bool :=
  if s.playing h then (s.hl h).leadTaken else (s.hl h).landed

/-- A REQUEST or HEV record, now or at its reference snapshot; `data` without the core cycles. -/
def jArrival (h typ subj arg data : Nat) (s : State) : State :=
  let r := s.jrec typ h subj arg data
  if !s.recording then s
  else if s.refTaken h then
    let v := unsigned 32 ((s.cyc : Int) - (s.hl h).eng.snapCyc)
    s.jput [{ r with data := data ||| (if typ = 0x54 then v <<< 16 else v) }]
  else { s with jnl := { s.jnl with defer := s.jnl.defer ++ [⟨h, r, s.cyc⟩] } }

/-- An arrival now acts at a landing after the one in view and is late there: it came after the snapshot of the flight
playing, or in a stall (R117, R143, R144). -/
def State.lateNow (s : State) (h : Nat) : Bool :=
  (s.playing h && (s.hl h).leadTaken) || (s.hl h).hold.stall.isSome

/-- An arrival now is late for the landing at which the hall holds for its decision (R140, R144). -/
def State.lateHeld (s : State) (h : Nat) : Bool := (s.hl h).landed && (s.hl h).hold.seg

/-- The hall is held by a wait and by no stall (R117, R145). -/
def State.inWait (s : State) (h : Nat) : Bool := s.is (F.LAND_STAT.WAITING h) && (s.hl h).hold.stall.isNone

/-- A jump request ends a wait at once: every LIVE alcove runs from TARGET with the same snapshot (R145). -/
def jumpNow (h target : Nat) (s : State) : State :=
  let live := s.lives h
  let s1 := s.over live (fun i t => t.modAlc h i (fun a => { a with ctx := { a.ctx with stack := [], rep := 0 } }))
  let s2 := s1.modHl h (fun x => { x with
    hold := { x.hold with release := none, brw := false, sync := none, syncSeen := none, target := none, head := false, dec := true }
    eng := { x.eng with cycles := 1, staged := [], maskUsed := 0 } })
  waitStat h (runOn h 0 (fun i => if live.contains i then some target else none) (refsUpdate h s2))

/-- A jump request arrives at a hall that has none pending, from a write or from a replay's record (R145, R146). -/
def jmpArrive (h target : Nat) (s : State) : State :=
  if !s.anyLive h then s.set1 (F.LAND_STAT.JMP_REFUSED h)
  else
    let s1 := jArrival h 0x54 0 0 target (s.p (F.JMP_REQ.TARGET h) target)
    if s1.inWait h then jumpNow h target s1
    else
      let late := s1.lateNow h
      (((s1.when (s1.lateHeld h) (lateMark h)).set1 (F.JMP_REQ.REQ h)).set1 (F.LAND_STAT.JUMP_PEND h)).modEng h (fun e => { e with
        jump := some target, jumpLate := late })

/-- JMP_REQ written (R145, R146).  A replay takes its requests from the record (R511). -/
def jmpReqWrite (h : Nat) (v : Word) (s : State) : State :=
  let target := (F.JMP_REQ.TARGET h).of v
  if s.is (F.JMP_REQ.REQ h) then s
  else if !(F.JMP_REQ.REQ h).is v then s.p (F.JMP_REQ.TARGET h) target
  else if s.replaying then s
  else jmpArrive h target s

/-- JMP_REQ: the register written with REQ = 1.  A replay takes its requests from the record (R511). -/
def execJmpReq (h target : Nat) (s : State) : Host.Outcome State Fault Refusal :=
  .next (if s.hallOk h && !s.replaying then s.host (jmpReqWrite h (BitVec.ofNat 32 (2 ^ 31 + target % 65536))) else s)

/-- A STOP_RUN arrives at hall `h` (R147, R213): at once while the hall is idle or held by a wait, else at its landing. -/
def stopArrive (h did : Nat) (s : State) : State :=
  let s1 := jArrival h 0x54 0 1 0 s
  let late := s1.lateNow h && !s1.inWait h
  let held := s1.lateHeld h && !s1.inWait h
  let s2 := (s1.when held (lateMark h)).modEng h (fun e => { e with stops := e.stops ++ [did], stopLate := e.stopLate || late })
  let s3 := (s2.set1 (F.LAND_STAT.STOP_PEND h)).when (late || held) (fun t => { t with
    stopRuns := t.stopRuns.map (fun r => if r.did == did then { r with late := r.late ||| 1 <<< h } else r) })
  if s3.liveBank h == none || s3.inWait h then stopAct h s3 else s3

/-- HEVn latches of a hall are set (R134, R143, R422). -/
def hevLatch (h n chan : Nat) (s : State) : State :=
  let x := s.hl h
  let bit := 1 <<< n
  (jArrival h 0x55 chan n 0 s).modEng h (fun e => { e with
    hev := e.hev ||| bit
    hevLate := if s.playing h && x.leadTaken then e.hevLate ||| bit else e.hevLate
    hevStall := if x.hold.stall.isSome then e.hevStall ||| bit else e.hevStall
    hevLand := if s.lateHeld h then e.hevLand ||| bit else e.hevLand })

/-- A delivery to HEVn; a replay takes its deliveries from the record (R511). -/
def hevSet (h n chan : Nat) (s : State) : State := if s.replaying then s else hevLatch h n chan s

/-! ### Pins and swaps -/

/-- TRIGOUT_PULSE_END of a flight pulse (R107): see Events for the matrix's pulses. -/
def flightPulseEnd (h : Nat) (s : State) : State := s.modHl h (fun x => { x with trigOut := false })

/-- SWAP_SITESEL: 400 ns after the swap started the incoming SITESEL is asserted (R198). -/
def execSwapSitesel (h : Nat) (s : State) : Host.Outcome State Fault Refusal :=
  .next (
    let x := (s.hl h).hold
    match s.liveBank h with
    | some b =>
      if s.hallOk h && x.swap && !x.selected then siteSel h (b + 1) (s.modHold h (fun y => { y with selected := true })) else s
    | none => s)

/-- SWAP_SETTLE_DONE: the swap is over and, once the resume landing's decision is there, it acts (R198, R199). -/
def swapSettle (h : Nat) (s : State) : State :=
  let s1 := blankHall h ((s.modHold h (fun y => { y with swap := false })).clr (F.HALL_STAT.SWAP h))
  if (s1.hl h).hold.dec then s1 else landAct h s1

def execSwapSettleDone (h : Nat) (s : State) : Host.Outcome State Fault Refusal :=
  .next (if s.hallOk h && (s.hl h).hold.swap && (s.hl h).hold.selected then withClaims (swapSettle h) s else s)

/-- The lead point of the landing to come, or of the one whose decision is awaited, has passed (R66). -/
def State.pastLead (s : State) (h : Nat) : Bool :=
  let x := s.hl h
  if s.playing h then x.leadTaken else x.landed && !x.counted

/-- SYN_ARM: SYN_SCHED written with ARM = 1 (R66). -/
def execSynArm (h : Nat) (v : Word) (s : State) : Host.Outcome State Fault Refusal :=
  .next (if s.hallOk h && (F.SYN_SCHED.ARM h).is v then s.host (fun t => synSchedWrite h v (t.pastLead h) t) else s)

/-- DESKEW_WRITE (R75, R492). -/
def execDeskewWrite (h c : Nat) (v : Word) (s : State) : Host.Outcome State Fault Refusal :=
  .next (if s.hallOk h && c < 32 then s.host (deskewWrite h c v) else s)

/-- A tread of hall `h` starts. -/
def tread (h : Nat) (s : State) : State := holdTread h (sampleTread h (axisTread h s))

/-- AXIS_WRAP: the tread in which a position of 2^48 − 1 becomes zero (R46). -/
def execAxisWrap (h : Nat) (s : State) : Host.Outcome State Fault Refusal :=
  .next (if s.hallOk h && s.axRuns h && s.pos h == 2 ^ 48 - 1 && !(s.ax h).zeroNext then tread h s else s)

end Sys2Proof.Machine
end

