-- ==== Sys2Proof/Machine/Alcoves.lean ====
section
/-! DEFINITION. Alcoves and runs: LOAD_STAIR, binding and release, START_RUN and STOP_RUN, the fence and the admission of
a hall, faults from outside the stair program, compares and fail records, deadlines and scheduler settings, and the
commands of the serial and measure queues that bear on a hall's landing (R42, R85–R89, R122–R128, R156, R157, R185–R193,
R201, R206, R211, R241–R245, R507, R508). -/
namespace Sys2Proof.Machine

/-! ### LOAD_STAIR (R125–R128) -/

/-- The addresses of the store's instructions in `[lo, hi)` that are listed with opcode field bits not all zero, in
rising order: an unlisted instruction is 0, a NOP. -/
def State.listedInstrs (s : State) (h lo hi : Nat) : List Nat :=
  (s.mem.filter (fun c =>
    decide (memKey (stairPort h) (8 * lo) ≤ c.1) && decide (c.1 < memKey (stairPort h) (8 * hi)) && c.1 % 8 == 7)).map
    (fun c => (c.1 - memKey (stairPort h) 0) / 8)

/-- The flight that a PLAY or PLAYN names. -/
def playFlight (w : Nat) : Option Nat :=
  match opcOf w with
  | 0x02 => some (natBits w 0 12)
  | 0x03 => some (natBits w 32 12)
  | _ => none

/-- The distinct flights named in the body `[a + 1, e]` of a LOOP, in address order. -/
def State.bodyFlights (s : State) (h a e : Nat) : List Nat :=
  ((s.listedInstrs h (a + 1) (e + 1)).filterMap (fun n => playFlight (s.instr h n))).foldl
    (fun l f => if l.contains f then l else l ++ [f]) []

/-- The LOOP instructions of the store with their END addresses. -/
def State.loops (s : State) (h : Nat) : List (Nat × Nat) :=
  ((s.listedInstrs h 0 65536).filter (fun n => opcOf (s.instr h n) == 0x04)).map (fun n => (n, natBits (s.instr h n) 32 16))

/-- LOOP_REF_SETS: the reference set of every LOOP whose body overlaps the range loaded (R128). -/
def loopRefSets (h start count : Nat) (s : State) : State :=
  let hit := (s.loops h).filter (fun l => l.1 + 1 ≤ l.2 && l.1 + 1 < start + count && start ≤ l.2)
  let s1 := s.over hit (fun l t => t.modHl h (fun x => { x with
    loopRefs := tabSet (fun _ => []) x.loopRefs l.1 (s.bodyFlights h l.1 l.2) }))
  s1.when (hit.any (fun l => 16 < (s.bodyFlights h l.1 l.2).length)) (fun t => t.set1 (F.LAND_STAT.LOOP_REF_OVF h))

/-- LOOP instructions in the store whose reference set overflowed. -/
def State.loopOvf (s : State) (h : Nat) : Nat :=
  ((s.loops h).filter (fun l => 16 < (tabGet (fun _ => []) (s.hl h).loopRefs l.1).length)).length

/-- The completion result of LOAD_STAIR (R127). -/
def loadStairRes (start detail locked crc ovf : Nat) : List (Nat × Nat × Nat) :=
  [(8, 2, start), (10, 1, detail), (11, 1, locked), (12, 4, crc), (16, 2, ovf)]

/-- The range is sealed, and the descriptor completes OK (R123, R127, R128). -/
def stairSeal (h start count did : Nat) (s : State) : State :=
  let mask := (pagesOf start count).foldl (fun m p => m ||| 1 <<< p) 0
  let s1 := loopRefSets h start count (s.p (F.STAIR_STAT.SEALED h) (s.g (F.STAIR_STAT.SEALED h) ||| mask))
  s1.complete did .ok (loadStairRes start 0 0 (crc32 (s1.rdBytes (stairPort h) (8 * start) (8 * count))) (s1.loopOvf h))

/-- LOAD_STAIR, in the order of R126; ownership after the checks of form (R235). -/
def loadStair (q : Nat) (r : DescRun) (s : State) : State :=
  let d := r.desc
  let h := dUnit d
  let start := dsc d 20 2
  let mode := dscBits d 22 0 1
  let count := dscBits d 24 0 17
  let fail (st : Status) (detail locked : Nat) := s.complete r.did st (loadStairRes start detail locked 0 (s.loopOvf h))
  if h < 32 && !s.hallOk h then s.complete r.did .absent (loadStairRes start 0 0 0 0)
  else if 31 < h || dscBits d 22 1 7 != 0 || dsc d 23 1 != 0 || dscBits d 24 17 15 != 0 || !dscZeroFrom d 28 ||
      (mode = 0 && dAddr d % 8 != 0) then s.complete r.did .badop (loadStairRes start 1 0 0 (if h < 32 then s.loopOvf h else 0))
  else if count = 0 || 65536 < start + count then fail .badlen 1 0
  else if dLen d != (if mode = 0 then 8 * count else 0) then fail .badlen 2 0
  else if !r.owns h then (s.lastErr q 3 r.qpos).complete r.did .denied []
  else
    match (pagesOf start count).find? (s.pageLocked h) with
    | some p => fail .busy 1 p
    | none =>
      if mode = 1 then stairSeal h start count r.did s
      else (s.modHl h (fun x => { x with loading := x.loading ++ [(r.did, start, count)] })).send (.hostRead (dAddr d) (dLen d))

/-- LOAD_STAIR (R126). -/
def execLoadStair (q : Nat) (s : State) : Host.Outcome State Fault Refusal := .next (s.withDesc q 0x0003 (loadStair q))

/-- The copy of queue `q`'s LOAD_STAIR ends: `ok` with the bytes read, which land with the seals, or a read error. -/
def loadStairDone (ok : Bool) (data : List Nat) (r : DescRun) (s : State) : State :=
  let h := dUnit r.desc
  match (s.hl h).loading.find? (fun l => l.1 == r.did) with
  | none => s
  | some (did, start, count) =>
    let s1 := s.modHl h (fun x => { x with loading := x.loading.filter (fun l => l.1 != did) })
    if !ok then s1.complete did .faulted (loadStairRes start 1 0 0 (s1.loopOvf h))
    else if data.length != 8 * count then s
    else
      let s2 := stairSeal h start count did (s1.wrBytes (stairPort h) (8 * start) data)
      settle h 97 s2

/-- LOAD_STAIR_DONE (R126). -/
def execLoadStairDone (q : Nat) (ok : Bool) (data : List Nat) (s : State) : Host.Outcome State Fault Refusal :=
  .next (s.withActed q 0x0003 (loadStairDone ok data))

/-! ### Binding and release (R191–R193) -/

/-- The completion result of BIND_ALCOVE and RELEASE_ALCOVE (R193). -/
def bindRes (a st detail conflict : Nat) : List (Nat × Nat × Nat) := [(8, 2, a), (10, 1, st), (11, 1, detail), (12, 2, conflict)]

/-- The state that an alcove number reads: ABSENT for an alcove of an absent hall (R189). -/
def State.alcStOf (s : State) (a : Nat) : Nat := if s.hallOk (a / 96) then s.alcSt (a / 96) (a % 96) else 0

/-- The lowest other alcove of the bank that owns a slot of `own` and is not FREE or ABSENT (R186). -/
def State.ownConflict (s : State) (h i own : Nat) : Option Nat :=
  (bankAlcs (i / 32)).find? (fun j => j != i && 2 ≤ s.alcSt h j && ((s.alc h j).own &&& own) != 0)

/-- The checks that both descriptors share, in the order of R192, with ownership after those of form; then `f`. -/
def alcoveChecks (q : Nat) (r : DescRun) (rsv : Bool) (f : Nat → Nat → State → State) (s : State) : State :=
  let d := r.desc
  let h := dUnit d
  let a := dscBits d 20 0 12
  let i := a % 96
  let st := s.alcStOf a
  if h < 32 && !s.hallOk h then s.complete r.did .absent (bindRes a st 0 0)
  else if 31 < h || !rsv || dscBits d 20 12 4 != 0 || dAddr d != 0 || dLen d != 0 then s.complete r.did .badop (bindRes a st 1 0)
  else if a / 96 != h then s.complete r.did .badop (bindRes a st 2 0)
  else if !r.owns h then (s.lastErr q 3 r.qpos).complete r.did .denied []
  else if alcReady ≤ st && st ≤ alcParked then s.complete r.did .busy (bindRes a st 1 0)
  else if s.is (F.HALL_STAT.SWAP h) then s.complete r.did .busy (bindRes a st 2 0)
  else f h i s

/-- BIND_ALCOVE: the context of R185 is set and the rest of it cleared (R129, R190). -/
def bindAlcove (q : Nat) (r : DescRun) (s : State) : State :=
  let d := r.desc
  let a := dscBits d 20 0 12
  let own := dsc d 24 4
  alcoveChecks q r (dscBits d 28 6 2 == 0 && dscBits d 29 6 2 == 0 && dscBits d 30 4 4 == 0 && dscZeroFrom d 31) (fun h i t =>
    match t.ownConflict h i own with
    | some c => t.complete r.did .denied (bindRes a (t.alcSt h i) 1 (96 * h + c))
    | none =>
      let t1 := t.setAlc h i { own := own, gmask := dscBits d 30 0 4, ctx := { pc := dsc d 22 2 }, measNo := (t.alc h i).measNo }
      let t2 := t1.wr (R.ALC_STATE h i) (BitVec.ofNat 32 (pack [(0, 3, alcBound), (16, 6, dscBits d 28 0 6), (10, 6, dscBits d 29 0 6)]))
      (refsUpdate h t2).complete r.did .ok (bindRes a alcBound 0 0)) s

def execBindAlcove (q : Nat) (s : State) : Host.Outcome State Fault Refusal := .next (s.withDesc q 0x0004 (bindAlcove q))

/-- RELEASE_ALCOVE: OWN and GMASK cleared. -/
def releaseAlcove (q : Nat) (r : DescRun) (s : State) : State :=
  let d := r.desc
  let a := dscBits d 20 0 12
  alcoveChecks q r (dscZeroFrom d 22) (fun h i t =>
    if t.alcSt h i == alcFree then t.complete r.did .ok (bindRes a alcFree 1 0)
    else
      let t1 := (t.modAlc h i (fun x => { x with own := 0, gmask := 0 })).p (F.ALC_STATE.STATE h i) alcFree
      t1.complete r.did .ok (bindRes a alcFree 0 0)) s

def execReleaseAlcove (q : Nat) (s : State) : Host.Outcome State Fault Refusal := .next (s.withDesc q 0x0005 (releaseAlcove q))

/-! ### CFG_DIGEST (R507, R508) -/

/-- The registers of the structures that enter CFG_DIGEST. -/
def digestReg : RegName → Bool
  | .STAIR_STAT => true | .TSET_DRV => true | .TSET_CMP => true | .TSET_HDR => true | .RATIO_M => true | .RATIO_N => true
  | .AXIS_CTL => true | .HOLD_VEC => true | .LAND_CFG => true | .FLOG_LIMIT => true | .BCAST_SRC => true | .BCAST_MEM => true
  | .SCHED_CTL => true | .SCHED_BANK => true | .DEADLINE_LO => true | .DEADLINE_HI => true | .PCLASS_PWR => true
  | .SCHED_FLOOR => true | .PBUDGET => true | .TDC_SET_A => true | .TDC_SET_B => true | .TDC_SET_C => true
  | .TDC_SET_D => true | .TDCQ_CFG => true | .TDCQ_LO_LO => true | .TDCQ_LO_HI => true | .TDCQ_HI_LO => true
  | .TDCQ_HI_HI => true | .MSET_CFG => true | .MSET_FORCE => true | .MSET_LO => true | .MSET_HI => true | .SMU_CTL => true
  | .SMU_ICLAMP => true | .SMU_VCLAMP => true | .DDS_FTW => true | .DDS_AMPL => true | .DDS_PHASE => true
  | .HSE_SLOT_A => true | .HSE_SLOT_B => true | .HSE_SLOT_C => true | .HSE_SLOT_D => true | .LMAP_A => true
  | .LMAP_B => true | .HSE_CTL => true | .EV_CFG => true | .EV_HALLS => true | .EV_PMASK => true | .EV_CMASK => true
  | .EV_TRIGOUT_W => true | .EV_REFRACT => true | .TM_CTL => true | .TM_DELAY => true | .TM_WIDTH => true
  | .TM_PERIOD => true | .TH_CFG => true | .TSD_CFG => true | .FLT_CFG => true | .GAL_ALAT => true | .GAL_CFG => true
  | .DOMAIN_OWN => true | .ID => true | .UC_ROM_ID => true | .UC_PATCH_LEVEL => true | .UC_BODY_CRC => true | .UC_STAT => true
  | _ => false

/-- The bits of such a register that are configuration: its read-write fields, the seals, ID.PART, UC_STAT.APPLIED and
the microcode identity (R183). -/
def digestMask (r : RegRow) : Nat :=
  match r.name with
  | .STAIR_STAT => 0xFFFF0000
  | .ID => 0xFFFF0000
  | .UC_STAT => 1
  | .UC_ROM_ID => 0xFFFFFFFF | .UC_PATCH_LEVEL => 0xFFFFFFFF | .UC_BODY_CRC => 0xFFFFFFFF
  | _ => r.fields.foldl (fun m f => if f.acc = .rw then m ||| (2 ^ f.len - 1) <<< f.lo else m) 0

/-- What the digest is taken over (R507): the configuration bits of the registers, the stair stores, the flight
descriptors and CRCs, the level sets and the bindings, each set of keys in a range of its own. -/
def State.cfgImage (s : State) : List (Nat × Nat) :=
  s.regs.filterMap (fun e =>
    match regAt e.1 with
    | some (r, _) => if digestReg r.name then some (e.1, e.2.toNat &&& digestMask r) else none
    | none => none) ++
  (s.mem.filter (fun c => decide (memKey 32 0 ≤ c.1) && decide (c.1 < memKey 64 0))).map (fun c => (2 ^ 64 + c.1, c.2.toNat)) ++
  s.flights.map (fun f => (2 * 2 ^ 64 + f.1, packB [(0, 4, f.2.crc), (4, 4, f.2.start), (8, 4, f.2.len), (12, 1, f.2.pclass),
    (13, 1, f.2.pinnable.toNat + 2 * f.2.trigger.toNat + 4 * f.2.stretchable.toNat), (14, 1, f.2.st)])) ++
  s.levels.map (fun l => (3 * 2 ^ 64 + l.1, l.2.toNat)) ++
  s.alcs.map (fun a => (4 * 2 ^ 64 + a.1, a.2.own + 2 ^ 32 * a.2.gmask))

/-- The digest of this device's image with a DEV_UID. -/
def State.digest (s : State) (uid : BitVec 64) : Nat := (Config.cfgDigest uid s.cfgImage).toNat

/-- The CONFIG group of a START_RUN, and the hash that DIGEST_READY stores (R508). -/
def configGroup (halls : Nat) (s : State) : State :=
  let dg := s.digest Config.devUid
  let r := s.jrec 0x63 0xFF 0 0 halls
  let c (v : Nat) := s.jrec 0x5F 0xFF 0 0 v
  let seq := if s.recording then s.g F.JNL_SEQ.VALUE + (if s.jnl.lost = 0 then 0 else 1) else 2 ^ 32
  let s1 := s.jput [r, c (natBits dg 0 192), c (natBits dg 192 64)]
  { s1 with jnl := { s1.jnl with hash := s1.jnl.hash ++ [(seq, dg)] } }

/-! ### START_RUN and STOP_RUN (R242–R245) -/

/-- The completion result of START_RUN. -/
def startRes (started idle tb0 detail fail : Nat) : List (Nat × Nat × Nat) :=
  [(8, 4, started), (12, 4, idle), (16, 4, tb0), (20, 1, detail), (24, 4, fail)]

/-- The halls of a mask that a test holds for, as a mask. -/
def hallMask (halls : Nat) (p : Nat → Bool) : Nat :=
  ((List.range 32).filter (fun h => natBits halls h 1 == 1 && p h)).foldl (fun m h => m + 2 ^ h) 0

/-- Alcove-result records produced and not yet written to ring 1 (R249). -/
def State.backlog (s : State) : Nat := ((s.ring 1).wait.filter (fun r => r.val % 256 == 0x10)).length

/-- A BOUND alcove becomes READY: cause bits, fail data and the record count are cleared (R190). -/
def readyAlcove (h i : Nat) (s : State) : State :=
  if s.alcSt h i == alcBound then
    let s1 := s.modAlc h i (fun a => { a with
      joined := true, fails := 0, failsSat := false, firstEntry := none, firstFlight := none, flogCount := 0
      winFails := 0, failEntry := none, cur := none, next := none, resamples := 0 })
    setAlcSt h i alcReady (s1.wr (R.ALC_STATE h i) (s1.rd (R.ALC_STATE h i) &&& 0x04FFFFFF#32))
  else s

/-- A hall starts: BOUND alcoves become READY, VTs, causes and what the banks kept are cleared (R87, R190, R205). -/
def startHall (h : Nat) (s : State) : State :=
  let s1 := s.each 3 (fun b t =>
    setDefer h b 0 (endYield h b ((t.p (F.VT.VT h b) 0).modBank h b (fun x => { x with
      drive := [], park := none, parkStaged := [], seen := false }))))
  s1.each 96 (readyAlcove h)

/-- A START_RUN completes once the first decision of every named hall has been made: one that a slice puts off comes at
the slice's end (R243, R244, R487; assumption 138). -/
def startCheck (s : State) : State :=
  s.over s.startRuns (fun r t =>
    if (List.range 32).any (fun h => natBits r.halls h 1 == 1 && t.slice h && (t.liveBank h).isNone && t.hallRun h) then t
    else
      ({ t with startRuns := t.startRuns.filter (fun x => x.did != r.did) } : State).complete r.did .ok
        (startRes r.halls (hallMask r.halls (fun h => (t.liveBank h).isNone)) r.tb0 0 0))

/-- START_RUN, in the order of R243. -/
def startRun (q : Nat) (r : DescRun) (s : State) : State :=
  let d := r.desc
  let halls := dsc d 20 4
  let fail (st : Status) (detail mask : Nat) := s.complete r.did st (startRes 0 0 0 detail mask)
  let own := hallMask halls (fun h => !r.owns h)
  let absent := hallMask halls (fun h => !s.hallOk h)
  let busy := hallMask halls s.hallRun
  let off := hallMask halls (fun h => !s.axRuns h)
  let fen := hallMask halls s.fenced
  if halls = 0 || dUnit d != 0 || !dscZeroFrom d 24 || dAddr d != 0 || dLen d != 0 then fail .badop 1 0
  else if absent != 0 then fail .absent 1 absent
  else if own != 0 then (s.lastErr q 3 r.qpos).complete r.did .denied (startRes 0 0 0 0 own)
  else if busy != 0 then fail .busy 1 busy
  else if 13312 < s.backlog then fail .busy 2 halls
  else if off != 0 then fail .denied 1 off
  else if fen != 0 then fail .denied 2 fen
  else
    let named := (List.range 32).filter (fun h => natBits halls h 1 == 1)
    let s0 := s.over named winClose
    let s1 := configGroup halls ((fun (t : State) => { t with tb2 := 0 }) (s0.over named startHall))
    let s2 := s1.over named idleDecide
    startCheck { s2 with startRuns := s2.startRuns ++ [⟨r.did, halls, s.tb0ns⟩] }

def execStartRun (q : Nat) (s : State) : Host.Outcome State Fault Refusal := .next (s.withDesc q 0x0007 (startRun q))

/-- STOP_RUN, in the order of R245. -/
def stopRun (q : Nat) (r : DescRun) (s : State) : State :=
  let d := r.desc
  let halls := dsc d 20 4
  let own := hallMask halls (fun h => !r.owns h)
  let absent := hallMask halls (fun h => !s.hallOk h)
  if halls = 0 || dUnit d != 0 || !dscZeroFrom d 24 || dAddr d != 0 || dLen d != 0 then
    s.complete r.did .badop (stopRes 0 0 0 1 0)
  else if absent != 0 then s.complete r.did .absent (stopRes 0 0 0 1 absent)
  else if own != 0 then (s.lastErr q 3 r.qpos).complete r.did .denied (stopRes 0 0 0 0 own)
  else
    let s1 := { s with stopRuns := s.stopRuns ++ [({ did := r.did, halls := halls } : StopRun)] }
    let s2 := s1.over ((List.range 32).filter (fun h => natBits halls h 1 == 1)) (fun h t =>
      if t.hallRun h then stopArrive h r.did t else t)
    stopCheck s2

def execStopRun (q : Nat) (s : State) : Host.Outcome State Fault Refusal :=
  .next (withClaims (fun t => t.withDesc q 0x0008 (stopRun q)) s)

/-! ### The fence and the admission of a hall (R42, R106, R172, R173, R475) -/

/-- A fail or capture record that waits for ring 0 takes the incomplete mark if it is of hall `h` and flight `f`, from
tread `t` on for `n` treads (R106, R157). -/
def recIncomplete (h f t n : Nat) (r : RingRec) : RingRec :=
  let typ := natBits r.val 0 8
  if (typ == 1 || typ == 2) && natBits r.val 8 8 == h && natBits r.val 32 16 == f &&
      decide ((natBits r.val 128 48 + 2 ^ 48 - t) % 2 ^ 48 ≤ n) then { r with val := r.val ||| 1 <<< 58 }
  else r

/-- The flight playing is stopped at its current entry, before its last: the incomplete marks, and the contexts before a
dispatch made during it (R42, R106).  Records that have left the device carry no mark (assumption 139). -/
def flightStop (h : Nat) (s : State) : State :=
  if s.playing h then
    let f := ((s.hl h).play).getD 0
    let t0 := (s.hl h).startTread
    let s := entriesTo h ((s.hl h).entry + 1) s
    let s := s.setRing 0 { s.ring 0 with wait := (s.ring 0).wait.map (recIncomplete h f t0 (s.treadsSince h t0)) }
    let s1 := (s.set1 (F.FLT_STAT.INCOMPLETE h)).clr (F.FLT_STAT.PLAYING h)
    let s2 := s1.over (s1.lives h) (fun i t => t.when (t.alc h i).cur.isSome (fun u => u.set1 (F.ALC_STATE.INCOMPLETE h i)))
    let s3 := s2.over (s2.hl h).backup (fun b t =>
      t.modAlc h b.1 (fun a => { a with ctx := b.2.ctx, termAt := b.2.termAt, term := b.2.term, joined := b.2.joined }))
    s3.modHl h (fun x => { x with play := none, leadTaken := false, landDue := false })
  else s

/-- The outputs of a hall take the safe state of R476 and what runs in it ends. -/
def hallSafe (h : Nat) (s : State) : State :=
  let s1 := s.each 32 (peSafe h)
  hseAbort h (ppAbort h (siteSel h 0 (tdcAbort h true (s1.modHl h (fun x => { x with driveLine := none, trigOut := false })))))

/-- The bookkeeping of a hall's fence: the landing is abandoned, the live bank leaves and parks, causes are recorded. -/
def hallPark (h : Nat) (s : State) : State :=
  let xs := (s.hl h).eng.xfaults
  let s1 := jFence h 2 (flightStop h s)
  let s2 := (s1.modEng h (fun e => { e with
    run := false, members := [], staged := [], action := none, hevLate := 0, xfaults := [], park := false })).p (F.UC_ENG.STATE h)
      (if s1.g (F.UC_ENG.STATE h) = 1 then 0 else s1.g (F.UC_ENG.STATE h))
  let s3 := match s2.liveBank h with | some b => leaveBank h b s2 | none => s2
  let s4 := (dropResv h s3).each 3 (dropClaim h)
  let s5 := s4.over (xs.filter (fun x => s4.alcSt h x.1 == alcParked)) (fun x t => finishAlc h x.1 2 x.2 t)
  let s6 := s5.each 96 (fun i t =>
    t.when (alcReady ≤ t.alcSt h i && t.alcSt h i ≤ alcParked) (fun u => u.set1 (F.ALC_STATE.FENCE h i)))
  let s7 := s6.each 3 (fun b t => setDefer h b 0 t)
  goIdle h (jumpClear h (s7.set1 (F.HALL_STAT.FENCE h)))

/-- A hall is fenced (R42, R475). -/
def fenceHall (h : Nat) (s : State) : State := stopCheck (blankHall h (hallPark h (hallSafe h s)))

/-- A hall is admitted: enabled channels leave the safe state with their levels, the fence cause ends and the scheduler
decides (R202, R277, R300, R481). -/
def admitHall (h : Nat) (s : State) : State :=
  let s1 := (jFence h 3 (s.clr (F.HALL_STAT.FENCE h))).each 96 (fun i t => t.clr (F.ALC_STATE.FENCE h i))
  let s2 := s1.each 32 (fun c t => t.when (t.is (F.PE_CTL.EN h c)) (peRelease h c))
  idleDecide h (blankHall h s2)

/-! ### Faults from other units (R172, R474) -/

/-- Alcove `a` of the device faults with a cause: a LIVE one at the next ENDI, a READY or PARKED one at once. -/
def alcFault (a cause : Nat) (s : State) : State :=
  let h := a / 96
  let i := a % 96
  let st := s.alcSt h i
  if !s.hallOk h then s
  else if st == alcLive then
    let own := match (s.alc h i).term with | .fault _ => true | _ => false
    if own || (s.hl h).eng.xfaults.any (fun x => x.1 == i) then s
    else s.modEng h (fun e => { e with xfaults := e.xfaults ++ [(i, cause)] })
  else if st == alcReady || st == alcParked then stopCheck (finishAlc h i 2 cause s)
  else s

/-! ### Compares, captures and fails (R85–R89, R156, R157, R287–R290) -/

/-- A compare code fails on a classification (R85). -/
def codeFails (code cls : Nat) : Bool :=
  match code with
  | 0x4 => cls != 0
  | 0xD => cls != 0
  | 0x5 => cls != 2
  | 0x6 => cls != 1
  | 0x7 => cls == 1
  | _ => false

/-- A code that the hall compares or captures. -/
def codeCompares (code : Nat) : Bool := codeFails code 0 || codeFails code 1 || codeFails code 2 || code == 0xC

/-- Records of fail-log staging for ring 0: its share of HBM without the reserve, in 32-byte records (R29, R249). -/
def stagingRecords (p : Part) : Nat := (match p with | .b => 511 | _ => 1023) * 32768

/-- A fail or capture record enters fail-log staging, or is dropped for lack of space (R32, R157). -/
def failPut (h : Nat) (rec : RingRec) (s : State) : State :=
  let x := s.ring 0
  if x.wait.length < stagingRecords s.part then s.ringPut 0 rec
  else
    let old := (x.drops.find? (fun d => d.1 == h)).getD (h, 0, s.pos h, s.tb0ns)
    s.setRing 0 { x with drops := x.drops.filter (fun d => d.1 != h) ++ [(h, old.2.1 + 1, old.2.2)] }

/-- A fail (`typ` 1) or capture (`typ` 2) record of alcove `i`, up to FLOG_LIMIT; a replay writes none (R156, R511). -/
def flogRecord (h i typ f c cls e : Nat) (window first : Bool) (s : State) : State :=
  if s.is F.JNL_STAT.REPLAY then s
  else if (s.alc h i).flogCount < s.g (F.FLOG_LIMIT.LIMIT h) then
    failPut h ⟨32, packB [(0, 1, typ), (1, 1, h), (2, 2, 96 * h + i), (4, 2, f), (6, 1, c + 32 * cls),
        (7, 1, first.toNat + 2 * window.toNat), (8, 3, e), (16, 6, s.pos h), (24, 4, s.tb0ns)]⟩
      (s.modAlc h i (fun a => { a with flogCount := a.flogCount + 1 }))
  else s.set1 (F.ALC_STATE.FLOG_SAT h i)

/-- A failing channel of entry `e` counts against its alcove: an entry counts once (R156).  In a bench replay it counts
only for the live FAIL mask (R512). -/
def failCount (h i f e : Nat) (s : State) : State :=
  let a := s.alc h i
  if a.failEntry == some e then s
  else if s.replaying then s.setAlc h i { a with failEntry := some e, winFails := a.winFails + 1 }
  else
    s.setAlc h i { a with
      failEntry := some e
      fails := if a.fails < 2 ^ 31 - 1 then a.fails + 1 else a.fails
      failsSat := a.failsSat || decide (2 ^ 31 - 1 ≤ a.fails)
      winFails := a.winFails + 1
      firstEntry := some (a.firstEntry.getD e)
      firstFlight := some (a.firstFlight.getD f) }

/-- The pin passes through voltages: the classes that the comparators then show, in order of time. -/
def compSeq (h c : Nat) : List Int → State → List Nat × State
  | [], s => ([], s)
  | v :: r, s =>
    let s1 := compSee h c v s
    let (l, t) := compSeq h c r s1
    ((s1.ch h c).cls :: l, t)

/-- The compare instants of channel slot `c` in entry `e` of the flight playing.  `volts` lists the nanovolts that the pin
passes through, in order of time: the first at tick S, for a window on to tick W.  Comparators that are not enabled give
no classification, and nothing is recorded (R286, R299; assumption 141). -/
def compareInstant (h c e : Nat) (volts : List Int) (s : State) : State :=
  let f := ((s.hl h).play).getD 0
  let b := (s.liveBank h).getD 0
  let code := s.codeAt h (64 * (s.flt_ h f).start + e) c
  let window := s.g (F.TSET_CMP.CMODE h (s.tsOf h b c) c) == 1 && code != 0xC
  if s.is (F.PE_STAT.BLANKED h c) then s.count (F.BLANK_CNT.COUNT h c) (F.BLANK_CNT.SAT h c)
  else if !s.is (F.PE_STAT.EN_EFF h c) || (s.ch h c).cal then s
  else
    let low := (s.ch h c).settle
    let (cls, s) := if low then ([0], s) else compSeq h c (if window then volts else volts.take 1) s
    let s1 := latchRecord h c cls (s.when low (fun t => t.set1 (F.PE_STAT.COMP_UNSETTLED h c)))
    match s1.owner h b c with
    | none => s1
    | some i =>
      if s1.alcSt h i != alcLive then s1
      else if code == 0xC then flogRecord h i 2 f c (cls.headD 0) e false false s1
      else
        match cls.find? (codeFails code) with
        | none => s1
        | some k =>
          let first := (s1.alc h i).firstEntry.isNone
          flogRecord h i 1 f c k e window first (failCount h i f e s1)

def execCompareInstant (h c e : Nat) (volts : List Int) (s : State) : Host.Outcome State Fault Refusal :=
  .next (
    let x := s.hl h
    match x.play, s.liveBank h with
    | some f, some b =>
      if s.hallOk h && c < 32 && s.playing h && e < 64 * (s.flt_ h f).len && !volts.isEmpty &&
          codeCompares (s.codeAt h (64 * (s.flt_ h f).start + e) c) && !s.slotHeld h b c && !s.fenced h && !s.dryRun then
        compareInstant h c e volts s
      else s
    | _, _ => s)

/-! ### Deadlines and settings of the scheduler (R34, R187, R206, R211) -/

/-- The deadline of bank `b`. -/
def State.deadline (s : State) (h b : Nat) : Nat := s.g (F.DEADLINE_LO.DL_LO h b) + 2 ^ 32 * s.g (F.DEADLINE_HI.DL_HI h b)

/-- DEADLINE_PASS: the first tread past the deadline.  It is a miss where the bank is not live and waits. -/
def execDeadlinePass (h b : Nat) (s : State) : Host.Outcome State Fault Refusal :=
  .next (
    if s.hallOk h && b < 3 && s.is (F.DEADLINE_HI.EN h b) && s.deadline h b < s.pos h && !(s.bank h b).dlSeen &&
        (s.bank h b).dlTread != some (s.pos h) then
      let s1 := s.modBank h b (fun x => { x with dlSeen := true })
      if s1.liveBank h != some b && s1.waits h b then jSched h b 5 0 s1.powerEst (s1.set1 (F.HALL_STAT.DL_MISS h)) else s1
    else s)

/-- DEADLINE_LO (`hi` false) or DEADLINE_HI written: the detection is armed again, and a deadline at or below the position
passes in the tread after the write. -/
def deadlineWrite (h b : Nat) (hi : Bool) (v : Word) (s : State) : State :=
  (s.cfgWr (if hi then R.DEADLINE_HI h b else R.DEADLINE_LO h b) (if hi then v &&& 0x8000FFFF#32 else v)).modBank h b
    (fun x => { x with dlSeen := false, dlTread := some (s.pos h) })

def execDeadlineWrite (h b : Nat) (hi : Bool) (v : Word) (s : State) : Host.Outcome State Fault Refusal :=
  .next (if s.hallOk h && b < 3 then s.host (deadlineWrite h b hi v) else s)

/-- PBUDGET written: 40 to 150 W, else ignored; idle schedulers then decide (R34, R202). -/
def pbudgetWrite (v : Word) (s : State) : State :=
  let w := F.PBUDGET.WATTS.of v
  if w < 40 || 150 < w then s else idleAll (s.cfgWr R.PBUDGET (v &&& 0xFF#32))

def execPbudgetWrite (v : Word) (s : State) : Host.Outcome State Fault Refusal := .next (s.hostTh (pbudgetWrite v))

/-- A LIVE alcove subscribes to group `g` (R187). -/
def State.bcastLive (s : State) (h g : Nat) : Bool := (s.lives h).any (fun i => natBits (s.alc h i).gmask g 1 == 1)

/-- BCAST_SRC (`mem` false) or BCAST_MEM written (R187). -/
def bcastWrite (h g : Nat) (mem : Bool) (v : Word) (s : State) : State :=
  let clash := mem && (List.range 4).any (fun k => k != g && (s.g (F.BCAST_MEM.MEM h k) &&& v.toNat) != 0)
  if clash || s.bcastLive h g then s.set1 (F.HALL_STAT.CFG_ERR h)
  else s.cfgWr (if mem then R.BCAST_MEM h g else R.BCAST_SRC h g) (if mem then v else v &&& 0x1F#32)

def execBcastWrite (h g : Nat) (mem : Bool) (v : Word) (s : State) : Host.Outcome State Fault Refusal :=
  .next (if s.hallOk h && g < 4 then s.host (bcastWrite h g mem v) else s)

/-- SCHED_BANK written (R211, R214): a group absent on the part is refused. -/
def schedBankWrite (h b : Nat) (v : Word) (s : State) : State :=
  if s.grpOk ((F.SCHED_BANK.SMU_GRP h b).of v) then s.cfgWr (R.SCHED_BANK h b) (v &&& 0xFFFF00FF#32)
  else s.set1 (F.HALL_STAT.CFG_ERR h)

def execSchedBankWrite (h b : Nat) (v : Word) (s : State) : Host.Outcome State Fault Refusal :=
  .next (if s.hallOk h && b < 3 then s.host (schedBankWrite h b v) else s)

/-! ### Measure and serial commands that a landing waits for (R201, R202) -/

/-- MEAS_ARRIVE (R315). -/
def execMeasArrive (g : Nat) (s : State) : Host.Outcome State Fault Refusal :=
  .next (if s.grpOk g then withClaims (measArrive g) s else s)

/-- MEAS_DONE (R316). -/
def execMeasDone (g : Nat) (s : State) : Host.Outcome State Fault Refusal :=
  .next (if s.grpOk g then withClaims (measDone g) s else s)

/-- SWAP_AFTER_SEND: a swap held for the outgoing bank's transfers begins once none is left (R201). -/
def swapAfterSend (h : Nat) (s : State) : State :=
  match (s.hl h).hold.swapWait, s.liveBank h with
  | some c, some b => if s.bankSends h b || s.slice h then s else withClaims (swapBegin h c) s
  | _, _ => s

/-- HSE_ENQUEUE (R373, R375). -/
def execHseEnqueue (h : Nat) (s : State) : Host.Outcome State Fault Refusal :=
  .next (if s.hallOk h then swapAfterSend h (hseEnqueue h s) else s)

/-- HSE_TRANSFER_END (R374, R380): `data` are the bytes received, `mid` the stream bits sampled MID. -/
def execHseTransferEnd (h : Nat) (data mid : List Nat) (s : State) : Host.Outcome State Fault Refusal :=
  .next (if s.hallOk h then swapAfterSend h (hseEnd h data mid s) else s)

/-- HSE_ABORT: HSE_CTL written with its present fields and ABORT = 1, which changes no field (R376). -/
def execHseAbort (h : Nat) (s : State) : Host.Outcome State Fault Refusal :=
  .next (if s.hallOk h then s.host (fun t => swapAfterSend h (hseAbort h t)) else s)

/-- HSE_CONFIG_WRITE (R377). -/
def execHseConfigWrite (h : Nat) (r : HseReg) (v : Word) (s : State) : Host.Outcome State Fault Refusal :=
  .next (
    if s.hallOk h then
      s.host (fun t => match r with | .ctl => swapAfterSend h (hseRegWrite h r v t) | _ => hseRegWrite h r v t)
    else s)

end Sys2Proof.Machine
end

