-- ==== Sys2Proof/Machine/Host.lean ====
section
/-! DEFINITION. The host interface: doorbells, descriptor fetch and start, completions, queue and ring states, result
records, interrupts, NOP and FENCE (chapter "Host rings, doorbells and completions"). -/
namespace Sys2Proof.Machine

/-- The states of a queue (QP_STAT.STATE). -/
def qOff : Nat := 0
def qRun : Nat := 1
def qDrain : Nat := 2
def qHalted : Nat := 3

def State.qSt (s : State) (q : Nat) : Nat := s.g (F.QP_STAT.STATE q)
def State.sqSize (s : State) (q : Nat) : Nat := 2 ^ s.g (F.QP_CFG.SQ_LOG q)
def State.cqSize (s : State) (q : Nat) : Nat := 2 ^ s.g (F.QP_CFG.CQ_LOG q)
def State.sqHead (s : State) (q : Nat) : Nat := s.g (F.QP_PTRS.SQ_HEAD q)
def State.cqTail (s : State) (q : Nat) : Nat := s.g (F.QP_PTRS.CQ_TAIL q)
def State.modQueue (s : State) (q : Nat) (f : QueueX → QueueX) : State := s.setQueue q (f (s.queue q))

/-- Distance from index `a` forward to `b` in a ring of `n`. -/
def ringDist (n a b : Nat) : Nat := (b + n - a) % n

/-- A 64-bit address register pair. -/
def addr64 (lo hi : Word) : Nat := lo.toNat + 2 ^ 32 * hi.toNat

/-- A slot of the completion ring is free (R226). -/
def State.cqFree (s : State) (q : Nat) : Bool := (s.cqTail q + 1) % s.cqSize q != (s.queue q).cqHead

/-- CQ_FULL tells whether a completion waits for a free slot (R226). -/
def cqFlags (q : Nat) (s : State) : State :=
  let full := (s.queue q).held.isSome && !s.cqFree q
  (s.pb (F.QP_STAT.CQ_FULL q) full).when full (fun t => t.set1 (F.QP_STAT.CQ_FULL_SEEN q))

/-! ### Doorbells (R220, R221, R228, R248) -/

/-- DOORBELL_OWNER: a doorbell or event-window write through a foreign page (R221). -/
def foreignDoorbell (f : FRef) (s : State) : State := (s.set1 f).raise 374 noDetail

/-- An accepted doorbell enters the journal (R238). -/
def jDoorbell (subj dom index : Nat) (s : State) : State := s.j 0x57 0xFF subj dom index

/-- A submission tail written through the page of domain `d`. -/
def sqDoorbell (d q : Nat) (v : Word) (s : State) : State :=
  let t := (F.QP_SQ_DB.INDEX d q).of v
  let x := s.queue q
  let n := s.sqSize q
  if s.g (F.QP_CFG.OWNER q) != d then foreignDoorbell (F.QP_STAT.NONOWNER q) s
  else if s.qSt q = qRun && t < n && ringDist n (s.sqHead q) x.tail ≤ ringDist n (s.sqHead q) t then
    jDoorbell q d t (s.setQueue q { x with tail := t, startCnt := x.startCnt + ringDist n x.tail t })
  else s.set1 (F.QP_STAT.DB_ERR q)

def execSqDoorbell (d q : Nat) (v : Word) (s : State) : Host.Outcome State Fault Refusal :=
  .next (if d < 8 && q < 64 then s.host (sqDoorbell d q v) else s)

/-- A completion head written through the page of domain `d`. -/
def cqDoorbell (d q : Nat) (v : Word) (s : State) : State :=
  let h := (F.QP_CQ_DB.INDEX d q).of v
  let x := s.queue q
  let n := s.cqSize q
  if s.g (F.QP_CFG.OWNER q) != d then foreignDoorbell (F.QP_STAT.NONOWNER q) s
  else if s.qSt q != qOff && h < n && ringDist n x.cqHead h ≤ ringDist n x.cqHead (s.cqTail q) then
    cqFlags q (jDoorbell q d h (s.setQueue q { x with cqHead := h }))
  else s.set1 (F.QP_STAT.DB_ERR q)

def execCqDoorbell (d q : Nat) (v : Word) (s : State) : Host.Outcome State Fault Refusal :=
  .next (if d < 8 && q < 64 then s.host (cqDoorbell d q v) else s)

/-- A result-ring head written through the page of domain `d` (R248). -/
def rrDoorbell (d r : Nat) (v : Word) (s : State) : State :=
  let h := (F.RR_HEAD_DB.INDEX d r).of v
  let n := s.ringSize r
  let old := s.g (F.RR_HEAD.INDEX r)
  if s.g (F.RR_CFG.OWNER r) != d then foreignDoorbell (F.RR_STAT.NONOWNER r) s
  else if s.is (F.RR_CFG.EN r) && h < n && ringDist n old h ≤ ringDist n old (s.g (F.RR_TAIL.INDEX r)) then
    (jDoorbell r d h (s.p (F.RR_HEAD.INDEX r) h)).ringFlags r
  else s.set1 (F.RR_STAT.DB_ERR r)

def execRrHeadDoorbell (d r : Nat) (v : Word) (s : State) : Host.Outcome State Fault Refusal :=
  .next (if d < 8 && r < 5 && ringOk s.part r then s.host (rrDoorbell d r v) else s)

/-! ### Fetching descriptors (R225, R231) -/

/-- A queue that becomes OFF or HALTED counts as complete for every FENCE that waits (R241). -/
def fenceRelease (q : Nat) (s : State) : State :=
  s.each 64 (fun k t =>
    match (t.queue k).fence with
    | some (l, w) => t.modQueue k (fun x => { x with fence := some (l.filter (fun e => e.1 != q), w) })
    | none => t)

/-- A queue enters a state. -/
def qEnter (q st : Nat) (s : State) : State :=
  let s1 := (s.p (F.QP_STAT.STATE q) st).when (st = qOff || st = qHalted) (fenceRelease q)
  s1.when (st != qRun) (fun t => t.modQueue q (fun x => { x with fetched := [] }))

/-- Entries posted and not fetched, in one contiguous read of at most 8. -/
def State.fetchable (s : State) (q : Nat) : Nat :=
  min 8 (min (ringDist (s.sqSize q) (s.sqHead q) (s.queue q).tail) (s.sqSize q - s.sqHead q))

/-- The read of `n` entries at the submission head. -/
def fetchRead (q n : Nat) (s : State) : State :=
  s.send (.hostRead (addr64 (s.rd (R.QP_SQ_BASE_LO q)) (s.rd (R.QP_SQ_BASE_HI q)) + 64 * s.sqHead q) (64 * n))

/-- DESC_FETCH: a read of posted entries, with the entries it returns. -/
def execDescFetch (q : Nat) (descs : List (BitVec 512)) (s : State) : Host.Outcome State Fault Refusal :=
  .next (
    let n := descs.length
    if q < 64 && s.awake && s.qSt q = qRun && 0 < n && n ≤ s.fetchable q then
      let head := s.sqHead q
      let s1 := (fetchRead q n s).modQueue q (fun x => { x with
        fetched := x.fetched ++ ((List.range n).zip descs).map (fun e => (head + e.1, e.2)) })
      s1.p (F.QP_PTRS.SQ_HEAD q) ((head + n) % s.sqSize q)
    else s)

/-- The completion of a failed fetch (R231). -/
def fetchFailure (qpos : Nat) : Nat := packB [(0, 4, 0xFFFFFFFF), (4, 1, Status.faulted.code), (6, 2, qpos)]

/-- The completion of a failed fetch becomes the one to write, once nothing of the queue is before it. -/
def failNext (q : Nat) (s : State) : State :=
  let x := s.queue q
  match x.fail with
  | some p =>
    if x.held.isNone && x.run.isNone then 
      s.setQueue q { x with held := some (fetchFailure p), heldVec := false, heldFail := true, fail := none }
    else s
  | none => s

/-- DESC_FETCH_FAIL: the read of posted entries has failed (R218, R230, R231). -/
def execDescFetchFail (q : Nat) (s : State) : Host.Outcome State Fault Refusal :=
  .next (
    if q < 64 && s.awake && s.qSt q = qRun && 0 < s.fetchable q then
      let p := s.sqHead q
      let s1 := (qEnter q qHalted (fetchRead q (s.fetchable q) s)).set1 (F.QP_STAT.FETCH_ERR q)
      failNext q ((s1.lastErr q 4 p).modQueue q (fun x => { x with fail := some p }))
    else s)

/-! ### Starting descriptors (R235, R238, R239) -/

/-- Queue `q` has a fetched descriptor that may start. -/
def State.qReady (s : State) (q : Nat) : Bool :=
  let x := s.queue q
  s.awake && s.qSt q == qRun && !x.fetched.isEmpty && x.run.isNone && x.held.isNone

/-- The queue that starts next: priority first, then round-robin after the queue started last. -/
def State.nextQueue (s : State) : Option Nat :=
  let pick (prio last : Nat) : Option Nat :=
    ((List.range 64).map (fun i => (last + 1 + i) % 64)).find? (fun q => s.qReady q && s.g (F.QP_CFG.PRIO q) == prio)
  (pick 1 s.lastQ.2).orElse (fun _ => pick 0 s.lastQ.1)

/-- The DESC group of a descriptor that starts (R238). -/
def jDesc (q qpos : Nat) (d : BitVec 512) (s : State) : State :=
  let c (lo len : Nat) := s.jrec 0x5F 0xFF 0 0 (natBits d.toNat lo len)
  s.jput [s.jrec 0x56 0xFF q qpos (s.cyc % 2 ^ 32), c 0 192, c 192 192, c 384 128]

/-- The units of the masks of a descriptor: halls at byte `bh`, groups at byte `bg`. -/
def maskUnits (d : BitVec 512) (bh : Nat) (bg : Option Nat) : List Nat :=
  (List.range 32).filter (fun h => dscBits d bh h 1 == 1) ++
    (match bg with
    | some b => ((List.range 16).filter (fun g => dscBits d b g 1 == 1)).map (· + 32)
    | none => [])

/-- The unit of R269 that data port `p` belongs to (R253, R269). -/
def portUnit (p : Nat) : Nat :=
  if p < 96 then p % 32 else if p < 100 then 48 + (p - 96) else if p = 102 then 52 else if p = 100 then 53 else 63

/-- The units that a descriptor targets (R237). -/
def descUnits (d : BitVec 512) : List Nat :=
  match dOpcode d with
  | 0x02 => [dUnit d] | 0x03 => [dUnit d] | 0x04 => [dUnit d] | 0x05 => [dUnit d] | 0x06 => [dUnit d]
  | 0x07 => maskUnits d 20 none
  | 0x08 => maskUnits d 20 none
  | 0x09 => 53 :: maskUnits d 20 (some 24)
  | 0x0A => [dUnit d]
  | 0x0B => 53 :: maskUnits d 24 (some 28)
  | 0x0C => [53]
  | 0x0D => 53 :: maskUnits d 20 (some 24)
  | 0x0E => [dUnit d]
  | 0x0F => [48 + dUnit d]
  | 0x10 => [52]
  | 0x11 => [dUnit d]
  | 0x12 =>
    if dUnit d = 101 then (List.range 32).filter (fun h => 24576 * h < dsc d 20 4 + dLen d && dsc d 20 4 < 24576 * (h + 1))
    else [portUnit (dUnit d)]
  | 0x14 => [dUnit d] | 0x15 => [dUnit d] | 0x16 => [dUnit d]
  | _ => []

/-- The fields of a completion result that carry operands of the descriptor, by opcode. -/
def resEcho (d : BitVec 512) : List (Nat × Nat × Nat) :=
  match dOpcode d with
  | 0x00 => [(8, 4, dsc d 20 4)]
  | 0x02 => [(8, 2, dscBits d 20 0 12)]
  | 0x03 => [(8, 2, dsc d 20 2)]
  | 0x04 => [(8, 2, dscBits d 20 0 12)] | 0x05 => [(8, 2, dscBits d 20 0 12)]
  | 0x0A => [(8, 1, dscBits d 20 0 6)]
  | 0x0E => [(24, 1, dUnit d), (25, 1, dsc d 20 1)]
  | 0x0F => [(8, 1, dUnit d % 4), (10, 2, dsc d 34 2)]
  | 0x10 => [(16, 2, dsc d 22 2)]
  | 0x11 => [(8, 1, dsc d 20 1)]
  | 0x12 => [(21, 1, dUnit d % 128)]
  | 0x15 => [(8, 1, dUnit d)] | 0x16 => [(8, 1, dUnit d)]
  | _ => []

/-- The other fields of the result layout of an opcode, by lowest bit and length. -/
def resOpen (op : Nat) : List (Nat × Nat) :=
  match op with
  | 0x01 => [(64, 64)]
  | 0x02 => [(80, 2), (88, 8), (96, 32), (128, 12)]
  | 0x03 => [(80, 8), (88, 8), (96, 32), (128, 16)]
  | 0x04 => [(80, 3), (88, 8), (96, 16)] | 0x05 => [(80, 3), (88, 8), (96, 16)]
  | 0x06 => [(64, 192)]
  | 0x07 => [(64, 32), (96, 32), (128, 32), (160, 8), (192, 32)]
  | 0x08 => [(64, 32), (96, 32), (128, 16), (160, 8), (192, 32)]
  | 0x09 => [(64, 32), (96, 32), (128, 16), (144, 16), (160, 32)]
  | 0x0A => [(72, 7), (80, 8), (88, 6), (96, 32)]
  | 0x0B => [(64, 5), (72, 5), (80, 5), (88, 8), (96, 32), (128, 32), (160, 16), (176, 16), (192, 32), (224, 32)]
  | 0x0C => [(64, 32), (96, 32), (128, 1), (136, 8)] | 0x0D => [(64, 32), (96, 32), (128, 1), (136, 8)]
  | 0x0E => [(64, 64), (128, 64), (208, 8), (216, 1), (224, 32)]
  | 0x0F => [(72, 8), (96, 32), (128, 1)]
  | 0x10 => [(64, 32), (96, 32), (144, 8), (152, 3), (160, 4)]
  | 0x11 => [(72, 8), (80, 4), (96, 32), (128, 32), (160, 32), (192, 32)]
  | 0x12 => [(160, 8)]
  | 0x13 => [(64, 32), (96, 32), (128, 32), (160, 8)]
  | 0x14 => [(64, 32), (96, 32), (128, 48), (176, 8), (192, 32)]
  | 0x15 => [(72, 2), (80, 8), (96, 9), (112, 16)] | 0x16 => [(72, 2), (80, 8), (96, 9), (112, 16)]
  | 0x17 => [(64, 64), (128, 16), (144, 8), (152, 7), (160, 32)] | 0x18 => [(64, 64), (128, 16), (144, 8), (152, 7), (160, 32)]
  | _ => []

/-- What the PORT_DMA `did` has moved, in its result (R265): nothing where it has not begun. -/
def State.dmaSoFar (s : State) (did : Nat) : List (Nat × Nat × Nat) :=
  match (s.ports.filterMap (fun e => e.2.dma)).find? (fun x => x.did == did) with
  | some x => [(8, 4, x.moved), (12, 4, x.dropped), (16, 4, x.crc ^^^ 0xFFFFFFFF)]
  | none => []

/-- A descriptor that a rule outside its own chapter ends (R464, R498, R511): its result follows the layout of its opcode;
operands echo, and fields whose value the manual does not state for that end are free (assumption 140). -/
def State.endDesc (s : State) (did : Nat) (d : BitVec 512) (st : Status) : State :=
  let (v, t) := s.draw 256
  t.complete did st (resEcho d ++ s.dmaSoFar did ++ (resOpen (dOpcode d)).map (fun f => (f.1 / 8, (f.2 + 7) / 8, natBits v f.1 f.2)))

/-- COMMON_CHECKS (R235), in order; during a replay only NOP, FENCE and JOURNAL_CTL execute (R511), and a descriptor that
targets a unit under self-test completes BUSY (R498). -/
def commonChecks (q did : Nat) (d : BitVec 512) (qpos dom : Nat) (s : State) : State :=
  let op := dOpcode d
  if 0x18 < op then (s.lastErr q 1 qpos).complete did .badop []
  else if dscBits d 2 1 7 != 0 then (s.lastErr q 2 qpos).complete did .badop []
  else if dom != 0 && (op == 0x13 || op == 0x17 || op == 0x18) then (s.lastErr q 3 qpos).complete did .denied []
  else if s.is F.JNL_STAT.REPLAY && op != 0 && op != 1 && op != 0x13 then s.endDesc did d .busy
  else if (descUnits d).any s.inTest then s.endDesc did d .busy
  else s

/-- Queue `q` starts its oldest fetched descriptor. -/
def descStart (q : Nat) (s : State) : State :=
  let x := s.queue q
  match x.fetched with
  | [] => s
  | (qpos, d) :: rest =>
    let dom := s.g (F.QP_CFG.OWNER q)
    let s1 := { s.setQueue q { x with fetched := rest, run := some { did := s.dids, qpos := qpos, desc := d, acted := false, dom := dom, own := s.ownMask dom } } with
      dids := s.dids + 1
      lastQ := if s.is (F.QP_CFG.PRIO q) then (s.lastQ.1, q) else (q, s.lastQ.2) }
    commonChecks q s.dids d qpos dom (jDesc q qpos d s1)

/-- DESC_START. -/
def execDescStart (s : State) : Host.Outcome State Fault Refusal :=
  .next (match s.nextQueue with | some q => descStart q s | none => s)

/-! ### Completions and queue states (R226, R227, R230, R552) -/

/-- COMPLETION_WRITE: the completion of queue `q` is written at CQ_TAIL, or waits with CQ_FULL. -/
def completionWrite (q : Nat) (s : State) : State :=
  let x := s.queue q
  match x.held with
  | none => s
  | some c =>
    if s.cqFree q then
      let tail := s.cqTail q
      let s1 := s.send (.hostWrite (addr64 (s.rd (R.QP_CQ_BASE_LO q)) (s.rd (R.QP_CQ_BASE_HI q)) + 32 * tail) 32 (c ||| x.phase <<< 40))
      let next := (tail + 1) % s.cqSize q
      let s2 := (s1.setQueue q { x with
        held := none, heldVec := false, heldFail := false, doneCnt := x.doneCnt + (if x.heldFail then 0 else 1)
        phase := if next = 0 then 1 - x.phase else x.phase }).p (F.QP_PTRS.CQ_TAIL q) next
      failNext q (cqFlags q (s2.vecCount (s.g (F.QP_CFG.VEC q)) 1 x.heldVec))
    else cqFlags q s

def execCompletionWrite (q : Nat) (s : State) : Host.Outcome State Fault Refusal :=
  .next (if q < 64 && s.awake && s.qSt q != qOff then completionWrite q s else s)

/-- The fields of QP_CFG besides EN that a write stores. -/
def qpCfgMask : Word := 0x7BFF3F80#32

/-- QP_CFG written (R230, R552). -/
def qpCfgWrite (q : Nat) (v : Word) (s : State) : State :=
  let en := (F.QP_CFG.EN q).is v
  let sizeOk (f : FRef) : Bool := 4 ≤ f.of v && f.of v ≤ 16
  let st := s.qSt q
  if st = qOff then
    if !en then s.wr (R.QP_CFG q) (v &&& qpCfgMask)
    else if sizeOk (F.QP_CFG.SQ_LOG q) && sizeOk (F.QP_CFG.CQ_LOG q) then
      qEnter q qRun (((s.wr (R.QP_CFG q) (v &&& (qpCfgMask ||| 0x80000000#32))).wr (R.QP_PTRS q) 0).setQueue q {})
    else s.set1 (F.QP_STAT.CFG_ERR q)
  else if en then s.set1 (F.QP_STAT.CFG_BUSY q)
  else
    let s1 := s.clr (F.QP_CFG.EN q)
    if st = qRun then qEnter q qDrain s1
    else if st = qHalted then
      qEnter q (if (s.queue q).held.isSome || (s.queue q).fail.isSome || (s.queue q).run.isSome then qDrain else qOff) s1
    else s1

/-- QP_ENABLE: QP_CFG written with EN = 1. -/
def execQpEnable (q : Nat) (v : Word) (s : State) : Host.Outcome State Fault Refusal :=
  .next (if q < 64 && (F.QP_CFG.EN q).is v then s.host (qpCfgWrite q v) else s)

/-- QP_DISABLE: QP_CFG written with EN = 0. -/
def execQpDisable (q : Nat) (v : Word) (s : State) : Host.Outcome State Fault Refusal :=
  .next (if q < 64 && !(F.QP_CFG.EN q).is v then s.host (qpCfgWrite q v) else s)

/-- QP_DRAIN_DONE (R228, R230). -/
def execQpDrainDone (q : Nat) (s : State) : Host.Outcome State Fault Refusal :=
  .next (
    let x := s.queue q
    if q < 64 && s.qSt q = qDrain && x.run.isNone && x.held.isNone && x.fail.isNone then qEnter q qOff s else s)

/-- A base register of a queue written: only while the queue is OFF (R230). -/
def qpBaseWrite (q a : Nat) (v : Word) (s : State) : State :=
  if s.qSt q = qOff then s.wr a v else s.set1 (F.QP_STAT.CFG_BUSY q)

/-! ### Result rings (R247, R248, R553) -/

/-- The fields of RR_CFG besides EN. -/
def rrCfgMask : Word := 0x71F03F80#32

/-- RR_CFG written (R553). -/
def rrCfgWrite (r : Nat) (v : Word) (s : State) : State :=
  let log := (F.RR_CFG.LOG r).of v
  let en := (F.RR_CFG.EN r).is v
  if log < 6 || 20 < log then s.set1 (F.RR_STAT.CFG_ERR r)
  else if s.is (F.RR_CFG.EN r) then
    if !en then (s.clr (F.RR_CFG.EN r)).ringFlags r
    else if v &&& rrCfgMask == s.rd (R.RR_CFG r) &&& rrCfgMask then s
    else s.set1 (F.RR_STAT.CFG_ERR r)
  else if en then
    (((s.wr (R.RR_CFG r) (v &&& (rrCfgMask ||| 0x80000000#32))).wr (R.RR_TAIL r) 0).wr (R.RR_HEAD r) 0).ringFlags r
  else s.wr (R.RR_CFG r) (v &&& rrCfgMask)

/-- RR_ENABLE: RR_CFG written with EN = 1. -/
def execRrEnable (r : Nat) (v : Word) (s : State) : Host.Outcome State Fault Refusal :=
  .next (if r < 5 && ringOk s.part r && (F.RR_CFG.EN r).is v then s.host (rrCfgWrite r v) else s)

/-- RR_DISABLE: RR_CFG written with EN = 0. -/
def execRrDisable (r : Nat) (v : Word) (s : State) : Host.Outcome State Fault Refusal :=
  .next (if r < 5 && ringOk s.part r && !(F.RR_CFG.EN r).is v then s.host (rrCfgWrite r v) else s)

/-- A base or write-back register of a ring written: only while the ring is disabled (R553). -/
def rrAddrWrite (r a : Nat) (v : Word) (s : State) : State :=
  if s.is (F.RR_CFG.EN r) then s.set1 (F.RR_STAT.CFG_ERR r) else s.wr a v

/-- A record is written at the ring's tail. -/
def ringWrite (r : Nat) (rec : RingRec) (s : State) : State :=
  let tail := s.g (F.RR_TAIL.INDEX r)
  let s1 := s.send (.hostWrite (addr64 (s.rd (R.RR_BASE_LO r)) (s.rd (R.RR_BASE_HI r)) + ringEntry r * tail) rec.len rec.val)
  (s1.p (F.RR_TAIL.INDEX r) ((tail + 1) % s.ringSize r)).setRing r { s1.ring r with sinceWb := (s1.ring r).sinceWb + 1 }

/-- The GAP records of fail-log staging, once it has space (R157). -/
def failGaps (s : State) : State :=
  let x := s.ring 0
  if x.drops.isEmpty || stagingRecords s.part ≤ x.wait.length then s else s.dropsOut 0

/-- The oldest waiting record of ring `r` is written (R248). -/
def recordWrite (r : Nat) (s : State) : State :=
  match (s.ring r).wait with
  | [] => s
  | rec :: rest =>
    if s.ringFree r then
      let s1 := ringWrite r rec (s.setRing r { s.ring r with wait := rest })
      (if r = 0 then failGaps s1 else s1).ringFlags r
    else s.ringFlags r

/-- RESULT_RECORD_WRITE of ring 0 to 3; JOURNAL_RING_WRITE writes ring 4. -/
def execResultRecordWrite (r : Nat) (s : State) : Host.Outcome State Fault Refusal :=
  .next (if r < 4 && ringOk s.part r && s.awake then recordWrite r s else s)

/-- RR_WRITEBACK: the tail is written to RR_WB and the records it covers are reported (R248, R251). -/
def execRrWriteback (r : Nat) (s : State) : Host.Outcome State Fault Refusal :=
  .next (
    let x := s.ring r
    if r < 5 && ringOk s.part r && s.awake && s.is (F.RR_CFG.EN r) && x.sinceWb != 0 then
      let s1 := s.send (.hostWrite (addr64 (s.rd (R.RR_WB_LO r)) (s.rd (R.RR_WB_HI r))) 4 (s.g (F.RR_TAIL.INDEX r)))
      (s1.setRing r { x with sinceWb := 0 }).vecCount (s.g (F.RR_CFG.VEC r)) x.sinceWb
    else s)

/-! ### Interrupts (R251) -/

/-- MSIX_MESSAGE: the count reaches COUNT, an IRQ_NOW completion is written, or (`timed`) TIME µs have passed since the
first entry counted. -/
def execMsixMessage (v : Nat) (timed : Bool) (s : State) : Host.Outcome State Fault Refusal :=
  .next (
    let x := s.vec v
    let due := s.vecDue v || (timed && s.g (F.MSIX_MOD.TIME v) != 0)
    if v < 128 && due && (x.cnt != 0 || x.now) then s.vecFire v else s)

/-- MSIX_UNMASK: the vector's mask bit is cleared; a pending vector sends one message. -/
def execMsixUnmask (v : Nat) (s : State) : Host.Outcome State Fault Refusal :=
  .next (
    if v < 128 then
      let s1 := s.setVec v { s.vec v with mask := false }
      if (s1.vec v).pend then s1.vecFire v else s1
    else s)

/-! ### NOP and FENCE (R241, R246) -/

/-- NOP. -/
def execNop (q : Nat) (s : State) : Host.Outcome State Fault Refusal :=
  .next (s.withDesc q 0x0000 (fun r t =>
    if dscZeroFrom r.desc 24 then t.complete r.did .ok [(8, 4, dsc r.desc 20 4)] else t.complete r.did .badop []))

/-- Queue `k` has descriptors outstanding: posted ones, or in DRAIN, which has dropped what it had not started, the one in
execution. -/
def State.outstanding (s : State) (k : Nat) : Bool :=
  let x := s.queue k
  if s.qSt k == qRun || s.qSt k == qHalted then x.startCnt != x.doneCnt
  else s.qSt k != qOff && (x.run.isSome || x.held.isSome)

/-- FENCE: the tails of the named queues that are not OFF are recorded. -/
def fence (q : Nat) (r : DescRun) (s : State) : State :=
  let d := r.desc
  if dUnit d != 0 || dAddr d != 0 || dLen d != 0 || !dscZeroFrom d 28 then s.complete r.did .badop []
  else
    let named := (List.range 64).filter (fun k => k != q && natBits (dsc d 20 8) k 1 == 1)
    let waits := (named.filter (fun k => s.qSt k != qOff)).map (fun k => (k, (s.queue k).startCnt))
    let out := (named.filter s.outstanding).foldl (fun m k => m + 2 ^ k) 0
    s.modQueue q (fun x => { x with fence := some (waits, out) })

def execFence (q : Nat) (s : State) : Host.Outcome State Fault Refusal := .next (s.withDesc q 0x0001 (fence q))

/-- FENCE_DONE. -/
def execFenceDone (q : Nat) (s : State) : Host.Outcome State Fault Refusal :=
  .next (s.withActed q 0x0001 (fun r t =>
    match (t.queue q).fence with
    | some (l, out) =>
      if l.all (fun e => e.2 ≤ (t.queue e.1).doneCnt) then
        (t.modQueue q (fun x => { x with fence := none })).complete r.did .ok [(8, 8, out)]
      else t
    | none => t))

/-! ### Host-interface resets (R232, R548) -/

/-- The registers of the queue, result-ring and moderation block return to their reset values; queues and rings are OFF,
and descriptors in execution run on without a completion. -/
def hostReset (s : State) : State :=
  let runs := (List.range 64).filterMap (fun q => (s.queue q).run.map (fun r => (q, r)))
  { s with
    regs := s.regs.filter (fun e => e.1 < 0x10000 || 0x20000 ≤ e.1)
    orphans := s.orphans ++ runs.filter (fun e => dOpcode e.2.desc != 1)
    queues := []
    rings := s.rings.map (fun e => (e.1, { e.2 with sinceWb := 0 })) }

end Sys2Proof.Machine
end

