-- ==== Sys2Proof/Machine/Acq.lean ====
section
/-! DEFINITION. The digitisers and the acquisition engine (chapter "Digitisers and the acquisition engine").  The
commands bring the stored samples since the last command on the digitiser: they come from the analogue bus. -/
namespace Sys2Proof.Machine

def State.dig (s : State) (d : Nat) : DigX := tabGet (fun _ => ({} : DigX)) s.digs d
def State.setDig (s : State) (d : Nat) (x : DigX) : State := { s with digs := tabSet (fun _ => ({} : DigX)) s.digs d x }
def State.modDig (s : State) (d : Nat) (f : DigX → DigX) : State := s.setDig d (f (s.dig d))

/-- The states of a digitiser (ACQ_STAT.STATE). -/
def acqIdle : Nat := 0
def acqFill : Nat := 1
def acqArmed : Nat := 2
def acqPost : Nat := 3
def acqDone : Nat := 4

def State.acqSt (s : State) (d : Nat) : Nat := s.g (F.ACQ_STAT.STATE d)

/-- The digitiser is in FILL, ARMED or POST. -/
def State.acqRuns (s : State) (d : Nat) : Bool := acqFill ≤ s.acqSt d && s.acqSt d ≤ acqPost

/-! The fields of ACQ_ARM (R360). -/
def aaSource (d : BitVec 512) : Nat := dsc d 20 2
def aaKind (d : BitVec 512) : Nat := dscBits d 20 14 2
def aaIndex (d : BitVec 512) : Nat := dscBits d 20 0 10
def aaRange (d : BitVec 512) : Nat := dscBits d 22 4 2
def aaAuto (d : BitVec 512) : Bool := dscBits d 22 3 1 == 1
def aaDec (d : BitVec 512) : Nat := dscBits d 22 0 3
def aaSlope (d : BitVec 512) : Nat := dscBits d 23 4 2
def aaTsrc (d : BitVec 512) : Nat := dscBits d 23 0 4
def aaLevel (d : BitVec 512) : Int := signed 16 (dsc d 24 2)
def aaHyst (d : BitVec 512) : Int := dsc d 26 2
def aaLevel2 (d : BitVec 512) : Int := signed 16 (dsc d 28 2)
def aaMib (d : BitVec 512) : Nat := dscBits d 32 0 9
def aaSeq (d : BitVec 512) : Nat := dsc d 34 2
def aaPre (d : BitVec 512) : Nat := dsc d 36 4
def aaPost (d : BitVec 512) : Nat := dsc d 40 4
def aaTmo (d : BitVec 512) : Nat := dsc d 44 4
def aaAbort (d : BitVec 512) : Bool := dscBits d 48 0 1 == 1

/-- Capacity of the buffer in samples (R356). -/
def aaCap (d : BitVec 512) : Nat := aaMib d * 524288

/-! ### Storing -/

/-- A flag of the record, and its flag of ACQ_STAT if it has one. -/
def acqFlag (d bit : Nat) (s : State) : State := s.modDig d (fun x => { x with flags := x.flags ||| 2 ^ bit })

/-- ACQ_IDX tells the stored samples, saturating. -/
def acqIdxShow (d : Nat) (s : State) : State := s.p (F.ACQ_IDX.IDX d) (min (s.dig d).idx 0xFFFFFFFF)

/-- One stored sample: its buffer slot is written, unless it is dropped (R356, R359). -/
def acqSample (d : Nat) (v : Option Nat) (s : State) : State :=
  let x := s.dig d
  let s1 := match v with
    | some v => s.wrMem (96 + d) (2 * (x.idx % aaCap x.desc)) v 2
    | none => s
  s1.setDig d (match v with
    | some _ => { x with idx := x.idx + 1 }
    | none => { x with
        idx := x.idx + 1
        firstDrop := some (x.firstDrop.getD x.idx)
        dropped := min (x.dropped + 1) 0xFFFFFFFF })

/-- Stored samples enter the buffer; `clip` tells that a raw sample stood at an end of the ADC's range (R348). -/
def acqStore (d : Nat) (data : List (Option Nat)) (clip : Bool) (s : State) : State :=
  let s1 := (s.over data (acqSample d)).modDig d (fun x => { x with since := s.cyc })
  (acqIdxShow d s1).when clip (fun t => (acqFlag d 6 t).set1 (F.ACQ_STAT.CLIP d))

/-- Samples that have been stored, by the core cycles that have passed, since the last command that told them: one in every
2^DEC raw samples of two core cycles each, up to the state's own end (R349, R350, R357; assumption 144). -/
def State.acqDue (s : State) (d : Nat) : Nat :=
  let x := s.dig d
  let n := (s.cyc - x.since) / 2 ^ (s.g (F.ACQ_STAT.DEC d) + 1)
  if !s.acqRuns d || !x.settled then 0
  else if s.acqSt d = acqFill then min n (aaPre x.desc - x.idx)
  else if s.acqSt d = acqPost then min n (x.trig.getD 0 + aaPost x.desc + 1 - x.idx)
  else n

/-- Those samples enter the buffer with free values. -/
def acqCatch (d : Nat) (s : State) : State :=
  let n := s.acqDue d
  if n = 0 then s
  else
    let s1 := s.each n (fun _ t => let (v, u) := t.draw 16; acqSample d (some v) u)
    let (c, s2) := s1.draw 1
    acqStore d [] (c == 1) s2

/-- The samples that may still be stored before the state's own end. -/
def State.acqRoom (s : State) (d n : Nat) : Bool :=
  let x := s.dig d
  x.settled &&
    (if s.acqSt d = acqFill then x.idx + n ≤ aaPre x.desc
     else if s.acqSt d = acqPost then x.idx + n ≤ x.trig.getD 0 + aaPost x.desc + 1
     else s.acqSt d == acqArmed)

/-- Samples of the commands that drop none. -/
def acqAll (data : List Nat) : List (Option Nat) := data.map some

/-! ### The record (R356, R362) -/

/-- The segments that reach into the record, their indices counted from FIRST. -/
def acqSegs (first : Nat) : List (Nat × Nat) → List (Nat × Nat)
  | [] => []
  | [(dec, i)] => [(dec, i - first)]
  | (dec, i) :: (dec2, i2) :: r =>
    if i2 ≤ first then acqSegs first ((dec2, i2) :: r) else (dec, i - first) :: acqSegs first ((dec2, i2) :: r)

/-- The record of a digitiser's acquisition; `stamp` and `frac` are those of its trigger. -/
def acqRecord (d : Nat) (x : DigX) (stamp frac : Nat) : RingRec :=
  let c := aaCap x.desc
  let first := x.idx - c
  let segs := acqSegs first x.segs
  ⟨64, packB ([
      (0, 1, 0x30), (1, 1, d), (2, 1, x.flags), (3, 1, frac), (4, 2, aaSource x.desc),
      (6, 1, aaRange x.desc <<< 4 ||| segs.length), (7, 1, aaTsrc x.desc), (8, 4, 2 * (first % c)), (12, 4, x.idx - first),
      (16, 4, match x.trig with | some t => t - first | none => 0xFFFFFFFF), (20, 2, aaSeq x.desc),
      (22, 2, stamp), (24, 4, stamp >>> 16), (56, 4, x.firstDrop.getD 0xFFFFFFFF), (60, 4, x.dropped)] ++
    ((List.range segs.length).zip segs).map (fun e => (28 + 4 * e.1, 4, 2 ^ 31 ||| e.2.1 <<< 27 ||| e.2.2 % 2 ^ 27)))⟩

/-- Storing stops, the tap opens (R350; assumption 145), and the record is formed.  A record without a trigger states no stamp: it is a free
value (assumption 23). -/
def acqFinish (d : Nat) (s : State) : State :=
  let x := s.dig d
  let (stamp, frac, s1) :=
    if x.trig.isSome then (x.stamp, x.frac, s)
    else let (a, t) := s.draw 48; let (b, t2) := t.draw 8; (a, b, t2)
  let s2 := s1.setDig d { x with slot := some (acqRecord d x stamp frac), did := none, settled := false, tap := false }
  let s3 := (s2.p (F.ACQ_STAT.STATE d) acqDone).ringFlags 2
  match x.did with
  | none => s3
  | some did => let (v, t) := s3.draw 8; t.complete did .faulted [(8, 1, d), (9, 1, v), (10, 2, aaSeq x.desc)]

/-- A running acquisition is aborted (R350). -/
def acqAbort (d : Nat) (s : State) : State := s.when (s.acqRuns d) (fun t => acqFinish d (acqFlag d 3 t))

/-! ### Arming (R350, R361) -/

/-- The acquisition of `desc` begins: the tap closes and the bus settles. -/
def acqBegin (d did : Nat) (desc : BitVec 512) (aborted : Bool) (s : State) : State :=
  let s1 := s.setDig d { desc := desc, did := some did, segs := [(aaDec desc, 0)], aborted := aborted, tap := true }
  let s2 := ((s1.p (F.ACQ_STAT.STATE d) acqFill).p (F.ACQ_STAT.DEC d) (aaDec desc)).clr (F.ACQ_STAT.SAFE d)
  acqIdxShow d (s2.wr (R.ACQ_CFG d) (BitVec.ofNat 32 (dsc desc 20 4)))

/-- The completion of ACQ_ARM that turns it away. -/
def acqRefuse (d : BitVec 512) (did : Nat) (st : Status) (detail : Nat) (s : State) : State :=
  s.complete did st [(8, 1, dUnit d % 4), (9, 1, detail), (10, 2, aaSeq d)]

/-- The fields that ACQ_ARM must hold (R352, R360, R361); SMU indices go to 63. -/
def acqForm (d : BitVec 512) : Bool :=
  dUnit d ≤ 3 && dAddr d == 0 && dLen d == 0 && dscBits d 20 10 4 == 0 && dscBits d 22 6 2 == 0 && dscBits d 23 6 2 == 0 &&
    dsc d 30 2 == 0 && dscBits d 32 9 7 == 0 && dscBits d 48 1 7 == 0 && dscZeroFrom d 49 && aaKind d != 3 &&
    (aaKind d == 0 || decide (aaIndex d < 64)) && aaRange d != 3 && aaDec d != 7 && aaTsrc d ≤ 4 && aaSlope d != 3 &&
    !(aaTsrc d == 0 && aaSlope d == 2) && !(aaTsrc d == 4 && aaSlope d != 0) &&
    !(aaTsrc d == 2 && decide (aaLevel2 d < aaLevel d))

/-- The unit of R269 of an acquisition's source. -/
def acqSourceUnit (d : BitVec 512) : Nat := if aaKind d = 0 then aaIndex d / 32 else 32 + aaIndex d / 4

/-- ACQ_ARM (R361). -/
def acqArm (q : Nat) (r : DescRun) (s : State) : State :=
  let d := r.desc
  let k := dUnit d
  if s.part.digs = 0 then acqRefuse d r.did .absent 0 s
  else if !acqForm d then acqRefuse d r.did .badop 1 s
  else if aaMib d = 0 || 256 < aaMib d || aaCap d ≤ aaPre d + aaPost d then acqRefuse d r.did .badlen 1 s
  else if !(r.owns (48 + k) && r.owns (acqSourceUnit d)) then acqRefuse d r.did .denied 3 (s.lastErr q 3 r.qpos)
  else if s.fenced (48 + k) then acqRefuse d r.did .denied 1 s
  else if s.acqRuns k && !aaAbort d then acqRefuse d r.did .busy 1 s
  else if s.acqSt k = acqDone then acqRefuse d r.did .busy 2 s
  else if s.acqRuns k then (acqAbort k (acqCatch k s)).modDig k (fun x => { x with next := some r.did, nextDesc := d })
  else acqBegin k r.did d false s

def execAcqArm (q : Nat) (s : State) : Host.Outcome State Fault Refusal := .next (s.withDesc q 0x000F (acqArm q))

/-- ACQ_SETTLE_DONE: raw sample 0; ACQ_ARM completes (R349, R361). -/
def execAcqSettleDone (d : Nat) (s : State) : Host.Outcome State Fault Refusal :=
  .next (
    let x := s.dig d
    if d < s.part.digs && s.acqSt d = acqFill && !x.settled then
      let s1 := s.setDig d { x with settled := true, did := none, since := s.cyc }
      match x.did with
      | none => s1
      | some did => s1.complete did .ok [(8, 1, d), (10, 2, aaSeq x.desc), (12, 4, s.tb0ns), (16, 1, x.aborted.toNat)]
    else s)

/-- ACQ_PRE_DONE: PRE samples have been stored (R350). -/
def execAcqPreDone (d : Nat) (data : List Nat) (clip : Bool) (s : State) : Host.Outcome State Fault Refusal :=
  .next (
    let x := s.dig d
    if d < s.part.digs && s.acqSt d = acqFill && x.settled && x.idx + data.length = aaPre x.desc then
      (acqStore d (acqAll data) clip s).p (F.ACQ_STAT.STATE d) acqArmed
    else s)

/-! ### Triggers (R352, R353, R355) -/

/-- FRAC of a crossing of `t` between two samples: rounded, ties up. -/
def acqFrac (t x0 x1 : Int) : Nat :=
  let num := if x0 ≤ x1 then t - x0 else x0 - t
  let den := if x0 ≤ x1 then x1 - x0 else x0 - x1
  if den = 0 then 0 else ((512 * num + den) / (2 * den)).toNat

/-- The threshold that a pair of samples crosses, if the trigger condition holds on it. -/
def acqCross (d : BitVec 512) (armed x0 x1 : Int) : Option Int :=
  let l := aaLevel d
  let l2 := aaLevel2 d
  let up := armed ≤ l - aaHyst d && x0 ≤ l && l ≤ x1 && x0 < x1
  let down := l + aaHyst d ≤ armed && l ≤ x0 && x1 ≤ l && x1 < x0
  let inside (x : Int) : Bool := l ≤ x && x ≤ l2
  let leave := inside x0 && !inside x1
  let enter := !inside x0 && inside x1
  let opt (c : Bool) (t : Int) : Option Int := if c then some t else none
  match aaTsrc d, aaSlope d with
  | 0, 0 => opt (x0 ≤ l && l < x1) l
  | 0, 1 => opt (l ≤ x0 && x1 < l) l
  | 1, 0 => opt up l
  | 1, 1 => opt down l
  | 1, 2 => opt (up || down) l
  | 2, 0 => opt leave (if x1 < l then l else l2)
  | 2, 1 => opt enter (if x0 < l then l else l2)
  | 2, 2 => opt (leave || enter) (if x1 < l || x0 < l then l else l2)
  | _, _ => none

/-- FRAC of the trigger instant, if the trigger condition of ACQ_ARM is met. -/
def acqMeets (d : BitVec 512) (t : AcqTrig) : Option Nat :=
  match t with
  | .samples armed x0 x1 => (acqCross d armed x0 x1).map (fun v => acqFrac v x0 x1)
  | .first x =>
    if aaTsrc d = 0 && ((aaSlope d = 0 && aaLevel d < x) || (aaSlope d = 1 && x < aaLevel d)) then some 0 else none
  | .pin rising => if aaTsrc d = 3 && (aaSlope d = 2 || rising == (aaSlope d == 0)) then some 0 else none
  | .event => if aaTsrc d = 4 then some 0 else none

/-- ARMED becomes POST.  The instant is `raw` raw samples after the last aligned edge, at which TB0 was latched, and the
samples stored up to it have been given (R353, R355).  A FRAC of 256 is the next raw sample. -/
def acqFire (d raw frac flags : Nat) (s : State) : State :=
  let x := s.dig d
  let ref := if s.noref then 2 ^ 2 else 0
  let s1 := s.setDig d { x with
    trig := some (x.idx - 1)
    stamp := s.acqEdge + raw * 4 * 2 ^ 16 + frac * 1024
    frac := frac % 256
    flags := x.flags ||| flags ||| ref }
  ((s1.when s.noref (fun t => t.set1 (F.ACQ_STAT.NOREF d))).p (F.ACQ_STAT.STATE d) acqPost).emit (200 + 3 * d)

/-- ACQ_TRIGGER: in ARMED the condition of R352 triggers, in FILL it sets EARLY.  While the bus settles nothing is tested
(R349), and of the raw samples at most four follow an aligned edge before the next. -/
def execAcqTrigger (d : Nat) (t : AcqTrig) (raw : Nat) (data : List Nat) (clip : Bool) (s : State) :
    Host.Outcome State Fault Refusal :=
  .next (
    let x := s.dig d
    let here := match t with | .event => x.evTrig | _ => x.settled
    if d < s.part.digs && here && raw < 5 then
      let s0 := match t with | .event => s.setDig d { x with evTrig := false } | _ => s
      match acqMeets x.desc t with
      | none => s0
      | some frac =>
        if !x.settled then s0
        else if s.acqSt d = acqFill then (acqFlag d 7 s0).set1 (F.ACQ_STAT.EARLY d)
        else if s.acqSt d = acqArmed then acqFire d raw frac 0 (acqStore d (acqAll data) clip s0)
        else s0
    else s)

/-- ACQ_TIMEOUT: TMO µs in ARMED have passed. -/
def execAcqTimeout (d raw : Nat) (data : List Nat) (clip : Bool) (s : State) : Host.Outcome State Fault Refusal :=
  .next (
    if d < s.part.digs && s.acqSt d = acqArmed && aaTmo (s.dig d).desc != 0 && raw < 5 then
      acqFire d raw 0 (2 ^ 4 + 2 ^ 5) (acqStore d (acqAll data) clip s)
    else s)

/-- FORCE in ARMED. -/
def acqForce (d raw : Nat) (data : List Nat) (clip : Bool) (s : State) : State :=
  s.when (s.acqSt d = acqArmed) (fun t => acqFire d raw 0 (2 ^ 4) (acqStore d (acqAll data) clip t))

/-- ACQ_FORCE: ACQ_CTL.FORCE written. -/
def execAcqForce (d raw : Nat) (data : List Nat) (clip : Bool) (s : State) : Host.Outcome State Fault Refusal :=
  .next (if d < s.part.digs && raw < 5 then s.host (acqForce d raw data clip) else s)

/-- ACQ_ABORT: ACQ_CTL.ABORT written. -/
def execAcqAbort (d : Nat) (data : List Nat) (clip : Bool) (s : State) : Host.Outcome State Fault Refusal :=
  .next (
    if d < s.part.digs && (s.acqRoom d data.length || data.isEmpty) then
      s.host (fun t => t.when (t.acqRuns d) (fun t => acqAbort d (acqStore d (acqAll data) clip t)))
    else s)

/-- ACQ_POST_DONE: POST samples after the trigger sample are stored. -/
def execAcqPostDone (d : Nat) (data : List Nat) (clip : Bool) (s : State) : Host.Outcome State Fault Refusal :=
  .next (
    let x := s.dig d
    if d < s.part.digs && s.acqSt d = acqPost && x.idx + data.length = x.trig.getD 0 + aaPost x.desc + 1 then
      acqFinish d (acqStore d (acqAll data) clip s)
    else s)

/-- ACQ_RECORD_WRITE: the record goes to ring 2, in the order of the records waiting there; IDLE again (R351). -/
def acqRecordWrite (d : Nat) (s : State) : State :=
  let x := s.dig d
  match x.slot with
  | none => s
  | some rec =>
    if (s.ring 2).wait.isEmpty && s.ringFree 2 then
      let s1 := (((ringWrite 2 rec s).setDig d { x with slot := none, next := none }).p (F.ACQ_STAT.STATE d) acqIdle).ringFlags 2
      let s2 := s1.emit (200 + 3 * d + 1)
      match x.next with
      | none => s2
      | some did => acqBegin d did x.nextDesc true s2
    else s.ringFlags 2

def execAcqRecordWrite (d : Nat) (s : State) : Host.Outcome State Fault Refusal :=
  .next (if d < s.part.digs && s.acqSt d = acqDone then acqRecordWrite d s else s)

/-! ### Rate reduction and overrun (R358, R359) -/

/-- ACQ_DECIM: DEC rises by one; the new segment begins after the samples given. -/
def execAcqDecim (d : Nat) (data : List Nat) (clip : Bool) (s : State) : Host.Outcome State Fault Refusal :=
  .next (
    let x := s.dig d
    let dec := s.g (F.ACQ_STAT.DEC d)
    let i := x.idx + data.length
    let spaced := match x.raisedAt with | some n => n + 1024 ≤ i | none => true
    if d < s.part.digs && s.acqRoom d data.length && aaAuto x.desc && dec < 6 && spaced then
      let s1 := acqFlag d 0 (acqStore d (acqAll data) clip s)
      let s2 := s1.modDig d (fun y => { y with segs := y.segs ++ [(dec + 1, i)], raisedAt := some i })
      ((s2.p (F.ACQ_STAT.DEC d) (dec + 1)).set1 (F.ACQ_STAT.DECIM d)).emit (200 + 3 * d + 2)
    else s)

/-- ACQ_OVERRUN: a full FIFO drops samples (`none` in the list). -/
def execAcqOverrun (d : Nat) (data : List (Option Nat)) (clip : Bool) (s : State) : Host.Outcome State Fault Refusal :=
  .next (
    let n := (data.filter (·.isNone)).length
    if d < s.part.digs && s.acqRoom d data.length && 0 < n then
      let s1 := (acqFlag d 1 (acqStore d data clip s)).set1 (F.ACQ_STAT.OVERRUN d)
      (s1.count (F.ACQ_DROP.COUNT d) (F.ACQ_DROP.SAT d) n).raise (360 + d) noDetail
    else s)

/-! ### Fences (R350, R475) -/

/-- A fence puts the digitiser in its safe state: the acquisition ends with an ABORTED record, and an ACQ_ARM that
waits for the record slot completes FAULTED. -/
def acqFence (d : Nat) (s : State) : State :=
  let s1 := acqAbort d (acqCatch d s)
  let x := s1.dig d
  let s2 := s1.setDig d { x with next := none, evTrig := false }
  let s3 := match x.next with
    | none => s2
    | some did => let (v, t) := s2.draw 8; t.complete did .faulted [(8, 1, d), (9, 1, v), (10, 2, aaSeq x.nextDesc)]
  (s3.set1 (F.ACQ_STAT.FENCE d)).set1 (F.ACQ_STAT.SAFE d)

/-- A GRAVE reaction or a thermal shutdown: the tap opens, the state is IDLE, and there is no record. -/
def acqOff (d : Nat) (s0 : State) : State :=
  let s := acqCatch d s0
  let x := s.dig d
  let s1 := ((s.setDig d {}).p (F.ACQ_STAT.STATE d) acqIdle).set1 (F.ACQ_STAT.SAFE d)
  let done (did : Option Nat) (desc : BitVec 512) (t : State) : State :=
    match did with
    | none => t
    | some did => let (v, u) := t.draw 8; u.complete did .faulted [(8, 1, d), (9, 1, v), (10, 2, aaSeq desc)]
  done x.next x.nextDesc (done x.did x.desc s1)

end Sys2Proof.Machine
end

