-- ==== Sys2Proof/Machine/Raster.lean ====
section
/-! DEFINITION. The raster stimulus unit (chapter "Raster stimulus unit").  Its pixel clock runs outside the core: the
commands bring the points of the raster that it reaches. -/
namespace Sys2Proof.Machine

/-- The states of RS_STAT.STATE. -/
def rsOff : Nat := 0
def rsResync : Nat := 1
def rsRun : Nat := 2
def rsSelf : Nat := 3

def State.rsSt (s : State) : Nat := s.g F.RS_STAT.STATE

def State.setRs (s : State) (x : RsX) : State := { s with rs := x }

/-! ### The commit block (R402) -/

/-- Bytes `[b, b + n)` of a commit block. -/
def rb (k : BitVec 2048) (b n : Nat) : Nat := natBits k.toNat (8 * b) (8 * n)

def rbEn (k : BitVec 2048) : Bool := natBits (rb k 0 1) 0 1 == 1
def rbSr (k : BitVec 2048) : Bool := natBits (rb k 0 1) 2 1 == 1
def rbBpp (k : BitVec 2048) : Nat := if natBits (rb k 0 1) 3 1 = 1 then 30 else 24
def rbLanes (k : BitVec 2048) : Nat := rb k 1 1
/-- HACT, HFP, HSW, HBP, VACT, VFP, VSW, VBP by their order. -/
def rbTime (k : BitVec 2048) (i : Nat) : Nat := rb k (6 + 2 * i) 2
def rbHact (k : BitVec 2048) : Nat := rbTime k 0
def rbVact (k : BitVec 2048) : Nat := rbTime k 4
def rbLine (k : BitVec 2048) : Nat := rb k 22 2
def rbVtotal (k : BitVec 2048) : Nat := rbTime k 4 + rbTime k 5 + rbTime k 6 + rbTime k 7
def rbHtotal (k : BitVec 2048) : Nat := rbTime k 0 + rbTime k 1 + rbTime k 2 + rbTime k 3
/-- A field of the descriptor of layer `l`, by its offset in the descriptor and its bytes. -/
def rbLayer (k : BitVec 2048) (l b n : Nat) : Nat := rb k (64 + 48 * l + b) n
def rbValid (k : BitVec 2048) (l : Nat) : Bool := natBits (rbLayer k l 0 1) 0 1 == 1
def rbRseq (k : BitVec 2048) (l : Nat) : Nat := rbLayer k l 24 4

/-- The block's fields are not reserved and within R388 and R390, and the lane rate is at most 1.25 Gbps (R403, check
9). -/
def rbOk (k : BitVec 2048) : Bool :=
  let m := rb k 2 2
  let n := rb k 4 2
  let bits := (rbBpp k + rbLanes k - 1) / rbLanes k
  natBits (rb k 0 1) 4 4 == 0 && natBits (rb k 0 1) 1 1 == 0 && 1 ≤ rbLanes k && rbLanes k ≤ 32 && 1 ≤ m && 1 ≤ n &&
    n ≤ 4 * m && m ≤ 6 * n && 16 ≤ rbHact k && rbHact k ≤ 3840 && 16 ≤ rbVact k && rbVact k ≤ 2160 &&
    (List.range 8).all (fun i => decide (1 ≤ rbTime k i)) && rbHtotal k ≤ 8192 && rbVtotal k ≤ 4096 &&
    natBits (rb k 24 4) 30 2 == 0 && natBits k.toNat 224 288 == 0 && !(rbSr k && !rbEn k) && 2 * m * bits ≤ 25 * n &&
    (List.range 4).all (fun l =>
      natBits (rbLayer k l 0 1) 3 5 == 0 && rbLayer k l 10 2 == 0 && rbLayer k l 28 20 == 0 &&
        (!rbValid k l || (rbLayer k l 12 4 % 64 == 0 && rbLayer k l 16 4 % 64 == 0 &&
          decide (4 * rbLayer k l 6 2 ≤ rbLayer k l 16 4))))

/-- Every valid layer lies in the PIXEL port (check 10). -/
def rbInside (k : BitVec 2048) : Bool :=
  (List.range 4).all (fun l =>
    let w := rbLayer k l 6 2
    let h := rbLayer k l 8 2
    !rbValid k l || w == 0 || h == 0 || decide (rbLayer k l 12 4 + rbLayer k l 16 4 * (h - 1) + 4 * w ≤ 2 ^ 31))

/-- Layer `l` is valid in what the unit shows. -/
def State.rsValid (s : State) (l : Nat) : Bool := natBits (s.g F.RS_STAT.VALID) l 1 == 1

/-- The layers whose buffer a block replaces (R398). -/
def State.rsReplaced (s : State) (k : BitVec 2048) : List Nat :=
  (List.range 4).filter (fun l => s.rsValid l && (!rbValid k l || rbRseq k l != s.g (F.RS_RSEQ.RSEQ l)))

/-! ### Pixels (R390, R392–R394, R399) -/

/-- An 8-bit component widened to 10 bits (R393). -/
def rsWiden (c : Nat) : Nat := 4 * c + c / 64

/-- Red, green and blue of a 24-bit or a 30-bit colour, in 10-bit components. -/
def rsParts (deep : Bool) (w : Nat) : List Nat :=
  if deep then [natBits w 20 10, natBits w 10 10, natBits w 0 10]
  else [rsWiden (natBits w 16 8), rsWiden (natBits w 8 8), rsWiden (natBits w 0 8)]

/-- The pixel alpha PA of a stored pixel of layer `l` (R392). -/
def rsPixelAlpha (k : BitVec 2048) (l w : Nat) : Nat :=
  if natBits (rbLayer k l 0 1) 2 1 = 0 then 255
  else if natBits (rbLayer k l 0 1) 1 1 = 1 then 85 * natBits w 30 2 else natBits w 24 8

/-- A component of a layer placed over the one below it, with `a` = ALPHA × PA (R393). -/
def rsBlend (a layer below : Nat) : Nat := (a * layer + (65025 - a) * below + 32512) / 65025

/-- The pixels of layer `l` that lie right of `x` on its part of a line: FILL shows there from an underrun on (R394). -/
def State.rsUnder (s : State) (l x y : Nat) : Bool :=
  let right := min (rbHact s.rs.block) (rbLayer s.rs.block l 2 2 + rbLayer s.rs.block l 6 2)
  s.rs.under.any (fun u => u.1 == l && u.2.1 == y && decide (right ≤ x + u.2.2))

/-- The word that layer `l` shows at a pixel of the raster: none outside it, FILL where the layer is killed or its pixels
did not arrive, else the stored pixel (R392, R394, R395, R399). -/
def State.rsLayerAt (s : State) (l x y : Nat) : Option Nat :=
  let k := s.rs.block
  let x0 := rbLayer k l 2 2
  let y0 := rbLayer k l 4 2
  if !rbValid k l || x < x0 || y < y0 || x0 + rbLayer k l 6 2 ≤ x || y0 + rbLayer k l 8 2 ≤ y then none
  else if natBits s.rs.killed l 1 = 1 || s.rsUnder l x y then some (rbLayer k l 20 4)
  else some (s.rdMem 102 (rbLayer k l 12 4 + rbLayer k l 16 4 * (y - y0) + 4 * (x - x0)) 4)

/-- The components shown at a pixel: BG, and layers 0 to 3 in order, each over the result below it (R393). -/
def State.rsPixel (s : State) (x y : Nat) : List Nat :=
  let k := s.rs.block
  (List.range 4).foldl (fun below l =>
    match s.rsLayerAt l x y with
    | some w =>
      List.zipWith (rsBlend (rbLayer k l 1 1 * rsPixelAlpha k l w)) (rsParts (natBits (rbLayer k l 0 1) 1 1 == 1) w) below
    | none => below) (rsParts (rbBpp k == 30) (natBits (rb k 24 4) 0 30))

/-- The output pixel word: OBPP 24 has bits [9:2] of each component (R390, R393). -/
def rsWord (bpp : Nat) (p : List Nat) : Nat :=
  if bpp = 30 then p.getD 0 0 * 2 ^ 20 + p.getD 1 0 * 2 ^ 10 + p.getD 2 0
  else p.getD 0 0 / 4 * 2 ^ 16 + p.getD 1 0 / 4 * 2 ^ 8 + p.getD 2 0 / 4

/-- What data lane `d` carries in bit time `t` of a pixel with output word `w` (R390). -/
def rsDataBit (k : BitVec 2048) (d t w : Nat) : Bool :=
  let b := t * rbLanes k + d
  decide (d < rbLanes k) && decide (b < rbBpp k) && natBits w b 1 == 1

/-! ### Records (R398, R400, R404) -/

/-- A RETIRE record enters the queue; it is never dropped. -/
def rsRetire (e : Nat × Nat × Bool) (s : State) : State :=
  s.rsPut ⟨32, packB [(0, 1, 0x40), (1, 1, e.1), (2, 1, e.2.2.toNat), (4, 4, e.2.1),
    (8, 4, s.g F.RS_FRAME.FRAME), (24, 4, s.tb0ns)]⟩

/-- An UNDERRUN record enters the queue, or is dropped where it holds 256. -/
def rsUnderRec (l line pixels : Nat) (s : State) : State :=
  let x := s.rs
  if x.queue.length < 256 then
    s.rsPut ⟨32, packB [(0, 1, 0x41), (1, 1, l), (4, 4, s.g (F.RS_RSEQ.RSEQ l)),
      (8, 4, s.g F.RS_FRAME.FRAME), (12, 2, line), (24, 4, s.tb0ns), (28, 4, pixels)]⟩
  else (s.setRs { x with drops := (x.drops.1 + 1, if x.drops.1 = 0 then s.tb0ns else x.drops.2) }).set1 F.RS_STAT.GAP

/-- The GAP record of the dropped UNDERRUN records follows once the queue has space (R157, R400). -/
def rsGap (s : State) : State :=
  if 256 ≤ s.rs.queue.length then s else s.dropsOut 3

/-- RS_RECORD_WRITE: the oldest queued record is written to ring 3 (R400). -/
def execRsRecordWrite (s : State) : Host.Outcome State Fault Refusal :=
  .next (
    match s.rs.queue with
    | [] => s
    | rec :: rest =>
      if !s.part.raster || !s.awake then s
      else if s.ringFree 3 then (rsGap ((ringWrite 3 rec s).setRs { s.rs with queue := rest })).ringFlags 3
      else s.ringFlags 3)

/-! ### RASTER_COMMIT (R401, R403) -/

def rcKill (d : BitVec 512) : Bool := dscBits d 20 4 1 == 1
def rcKmask (d : BitVec 512) : Nat := dscBits d 20 0 4
def rcSeq (d : BitVec 512) : Nat := dsc d 22 2

/-- The result of RASTER_COMMIT. -/
def rcRes (frame tb0 seq detail st retiring : Nat) : List (Nat × Nat × Nat) :=
  [(8, 4, frame), (12, 4, tb0), (16, 2, seq), (18, 1, detail), (19, 1, st), (20, 1, retiring)]

/-- Layers whose RSEQ awaits retire. -/
def State.rsRetiring (s : State) : Nat :=
  (List.range 4).foldl (fun m l => if s.rs.retiring.any (fun e => e.1 == l) then m + 2 ^ l else m) 0

/-- A RASTER_COMMIT that acts completes with the unit's state. -/
def rsDone (did seq : Nat) (st : Status) (detail : Nat) (s : State) : State :=
  s.complete did st (rcRes (s.g F.RS_FRAME.FRAME) s.tb0ns seq detail s.rsSt s.rsRetiring)

/-- The unit shows raster lines. -/
def State.rsStreams (s : State) : Bool := s.rsSt == rsRun || s.rsSt == rsResync

/-- The form of a RASTER_COMMIT (check 2). -/
def rcForm (d : BitVec 512) : Bool :=
  dUnit d == 0 && dscBits d 20 5 3 == 0 && dsc d 21 1 == 0 && dscZeroFrom d 24 && (rcKill d || rcKmask d == 0) &&
    (if rcKill d then dAddr d == 0 && dLen d == 0 else dAddr d % 64 == 0)

/-- RASTER_COMMIT: `line` is the raster line in which it reaches the unit, `ok` and `block` what the read of host memory
returns. -/
def rasterCommit (q line : Nat) (ok : Bool) (block : BitVec 2048) (r : DescRun) (s : State) : State :=
  let d := r.desc
  let seq := rcSeq d
  let fail (st : Status) (detail : Nat) (t : State) : State := t.complete r.did st (rcRes 0 0 seq detail 0 0)
  let full := 252 ≤ s.rs.queue.length
  if !s.part.raster then fail .absent 0 s
  else if !rcForm d then fail .badop 1 s
  else if !rcKill d && dLen d != 256 then fail .badlen 1 s
  else if !r.owns 52 then fail .denied 3 (s.lastErr q 3 r.qpos)
  else if s.fenced 52 then fail .denied 1 s
  else if s.rs.pend.isSome || s.rs.kill.isSome then fail .busy 1 s
  else if rcKill d then
    if full && (List.range 4).any (fun l => natBits (rcKmask d) l 1 == 1 && s.rsValid l) then fail .busy 2 s
    else s.setRs { s.rs with kill := some (r.did, seq, rcKmask d) }
  else
    let s1 := s.send (.hostRead (dAddr d) 256)
    if full && ok && !(s.rsReplaced block).isEmpty then fail .busy 2 s1
    else if !ok then fail .faulted 1 s1
    else if !rbOk block then fail .badop 2 s1
    else if !rbInside block then fail .badlen 2 s1
    else
      let late := s.rsStreams && line + 1 == rbVact s.rs.block
      let pend : RsPend := ⟨r.did, seq, block, late, late, !s.rsStreams⟩
      ((s1.setRs { s1.rs with pend := some pend }).set1 F.RS_STAT.PENDING).when s.rsStreams
        (fun t => t.p F.RS_POS.LINE line)

def execRasterCommit (q line : Nat) (ok : Bool) (block : BitVec 2048) (s : State) : Host.Outcome State Fault Refusal :=
  .next (s.withDesc q 0x0010 (rasterCommit q line ok block))

/-- What the registers show of a block. -/
def rsShow (k : BitVec 2048) (s : State) : State :=
  let valid := (List.range 4).foldl (fun m l => if rbValid k l then m + 2 ^ l else m) 0
  (s.p F.RS_STAT.VALID valid).each 4 (fun l t => t.p (F.RS_RSEQ.RSEQ l) (rbRseq k l))

/-- The state after a commit applies (R397). -/
def rsNext (st : Nat) (k : BitVec 2048) : Nat :=
  if !rbEn k then rsOff
  else if st = rsOff then rsResync
  else if rbSr k then rsSelf
  else if st = rsSelf then rsResync
  else st

/-- RS_COMMIT_APPLY: the pending commit applies (R396–R398). -/
def rsCommitApply (p : RsPend) (s : State) : State :=
  let old := (s.rsReplaced p.block).map (fun l => (l, s.g (F.RS_RSEQ.RSEQ l), false))
  let st := rsNext s.rsSt p.block
  let s1 := rsShow p.block (s.setRs { s.rs with block := p.block, pend := none, killed := 0, under := [] })
  let s2 := ((s1.clr F.RS_STAT.PENDING).p F.RS_STAT.STATE st).when p.late (fun t => t.set1 F.RS_STAT.LATE_COMMIT)
  let s3 := if st = rsOff then s2.over old rsRetire else s2.setRs { s2.rs with retiring := s2.rs.retiring ++ old }
  rsDone p.did p.seq (if p.late then .late else .ok) 0 s3

def execRsCommitApply (s : State) : Host.Outcome State Fault Refusal :=
  .next (match s.rs.pend with
    | some p => if p.due then rsCommitApply p s else s
    | none => s)

/-- RS_KILL_APPLY: the next line begins (R399). -/
def execRsKillApply (s : State) : Host.Outcome State Fault Refusal :=
  .next (match s.rs.kill with
    | none => s
    | some (did, seq, mask) =>
      let gone := (List.range 4).filter (fun l => natBits mask l 1 == 1 && s.rsValid l)
      let x := s.rs
      let s1 := s.setRs { x with
        kill := none
        killed := x.killed ||| mask
        retiring := x.retiring ++ gone.map (fun l => (l, s.g (F.RS_RSEQ.RSEQ l), true)) }
      rsDone did seq .ok 0 ((s1.p F.RS_STAT.VALID (s.g F.RS_STAT.VALID &&& (15 ^^^ mask))).set1 F.RS_STAT.LAYER_STALE))

/-! ### The points of the raster (R389, R397, R398) -/

/-- The raster's position. -/
def rsPos (line pixel : Nat) (s : State) : State := (s.p F.RS_POS.LINE line).p F.RS_POS.PIXEL pixel

/-- RS_START_BLANK: a pending commit becomes due, or has passed the window that it missed. -/
def execRsStartBlank (s : State) : Host.Outcome State Fault Refusal :=
  .next (
    if s.part.raster && s.rsStreams then
      let step (p : RsPend) : RsPend := if p.missed then { p with missed := false } else { p with due := true }
      (rsPos (rbVact s.rs.block) 0 (s.setRs { s.rs with pend := s.rs.pend.map step })).emit 212
    else s)

/-- RS_LINE_MATCH. -/
def execRsLineMatch (s : State) : Host.Outcome State Fault Refusal :=
  .next (
    if s.part.raster && s.rsSt = rsRun && rbLine s.rs.block < rbVtotal s.rs.block then
      (rsPos (rbLine s.rs.block) 0 s).emit 213
    else s)

/-- RS_FRAME_DONE: the buffers that await it retire. -/
def execRsFrameDone (s : State) : Host.Outcome State Fault Refusal :=
  .next (
    if s.part.raster && s.rsSt = rsRun then
      let s1 := (rsPos (rbVact s.rs.block - 1) (rbHact s.rs.block - 1) s).setRs { s.rs with retiring := [] }
      (s1.over s.rs.retiring rsRetire).emit 214
    else s)

/-- RS_UNDERRUN: the last `pixels` of layer `l` on `line` show FILL (R394). -/
def execRsUnderrun (l line pixels : Nat) (s : State) : Host.Outcome State Fault Refusal :=
  .next (
    if s.part.raster && s.rsSt = rsRun && l < 4 && s.rsValid l then
      let s1 := s.setRs { s.rs with under := (l, line, pixels) :: s.rs.under }
      ((rsUnderRec l line pixels (s1.set1 F.RS_STAT.UNDERRUN)).count F.RS_UNDER_CNT.COUNT F.RS_UNDER_CNT.SAT).emit 215
    else s)

/-- RS_RESYNC_END. -/
def execRsResyncEnd (s : State) : Host.Outcome State Fault Refusal :=
  .next (if s.part.raster && s.rsSt = rsResync then s.p F.RS_STAT.STATE rsRun else s)

/-- RS_FRAME_INCREMENT: the first pixel of line 0 of a frame in RUN. -/
def execRsFrameIncrement (s : State) : Host.Outcome State Fault Refusal :=
  .next (
    if s.part.raster && s.rsSt = rsRun then 
      rsPos 0 0 ((s.setRs { s.rs with under := [] }).p F.RS_FRAME.FRAME (s.g F.RS_FRAME.FRAME + 1))
    else s)

/-! ### Lanes and fences (R391, R397) -/

/-- RS_LANE[k] written (R391, R551): an invalid word sets CFG_ERR also while the unit is not OFF. -/
def rsLaneWrite (k : Nat) (v : Word) (s : State) : State :=
  let en := (F.RS_LANE.EN k).is v
  let hall := (F.RS_LANE.HALL k).of v
  let slot := (F.RS_LANE.SLOT k).of v
  let clash := en && (List.range 36).any (fun j =>
    j != k && s.is (F.RS_LANE.EN j) && s.g (F.RS_LANE.HALL j) == hall && s.g (F.RS_LANE.SLOT j) == slot)
  let bad := clash || !s.hallOk hall || (F.RS_LANE.IDLE k).of v == 3
  let s1 := s.when bad (fun t => t.set1 F.RS_STAT.CFG_ERR)
  if s.rsSt != rsOff then s1.set1 F.RS_STAT.CFG_BUSY
  else if bad then s1
  else s.wr (R.RS_LANE k) (v &&& 0xF0007C1F#32)

def execRsLaneWrite (k : Nat) (v : Word) (s : State) : Host.Outcome State Fault Refusal :=
  .next (if s.part.raster && k < 36 then s.host (rsLaneWrite k v) else s)

/-- A fence, a GRAVE reaction or a thermal shutdown: OFF, and a commit or kill that waits completes FAULTED, with a free
DETAIL (assumption 4). -/
def rsSafe (s : State) : State :=
  let x := s.rs
  let s1 := ((s.setRs { x with pend := none, kill := none }).clr F.RS_STAT.PENDING).p F.RS_STAT.STATE rsOff
  let fault (did seq : Nat) (t : State) : State := let (v, u) := t.draw 8; rsDone did seq .faulted v u
  let s2 := match x.pend with | some p => fault p.did p.seq s1 | none => s1
  match x.kill with | some (did, seq, _) => fault did seq s2 | none => s2

/-! ### Pins (R284–R286, R292, R367, R390, R391) -/

/-- What a channel does to its pin. -/
inductive PinOut where
  /-- The driver holds VIH (true) or VIL. -/
  | drive (v : Bool)
  /-- The pixel clock through the driver, inverted or not. -/
  | clock (inv : Bool)
  /-- A serial lane puts its bits through the driver; a data lane that the engine does not drive takes the off state. -/
  | serial
  /-- Terminated to VT through the driver's output resistance. -/
  | term
  /-- Unterminated. -/
  | hiz
  /-- The active load. -/
  | load
  /-- The parametric path forces its current. -/
  | force
  deriving DecidableEq, Repr

/-- The off state of a channel (R284). -/
def State.offState (s : State) (h c : Nat) : PinOut :=
  match s.g (F.PE_CTL.OFF_MODE h c) with | 0 => .term | 1 => .hiz | _ => .load

/-- What raster lane `k` puts on its channel in bit time `t` of the pixel that RS_POS shows (R390, R397): lane 0 the pixel
clock, lanes 1 to 3 HSYNC, VSYNC and DE, and the data lanes; in SELF_REFRESH every lane, and in RESYNC every data lane, rests
at its idle level.  POL does not turn an idle level (assumption 143). -/
def State.rsPin (s : State) (h c k t : Nat) : PinOut :=
  let b := s.rs.block
  let x := s.g F.RS_POS.PIXEL
  let y := s.g F.RS_POS.LINE
  let pol := s.is (F.RS_LANE.POL k)
  let idle : PinOut := match s.g (F.RS_LANE.IDLE k) with | 0 => .drive false | 1 => .drive true | _ => s.offState h c
  let level (v : Bool) : PinOut := .drive (v != pol)
  if s.rsSt = rsSelf then idle
  else
    let active := decide (x < rbHact b) && decide (y < rbVact b)
    match k with
    | 0 => .clock pol
    | 1 => level (decide (rbHact b + rbTime b 1 ≤ x) && decide (x < rbHact b + rbTime b 1 + rbTime b 2))
    | 2 => level (decide (rbVact b + rbTime b 5 ≤ y) && decide (y < rbVact b + rbTime b 5 + rbTime b 6))
    | 3 => level (active && s.rsSt == rsRun)
    | d + 4 =>
      if s.rsSt = rsResync then idle
      else if active then level (rsDataBit b d t (rsWord (rbBpp b) (s.rsPixel x y)))
      else .drive (Config.rsBlankBit d t y x == 1)

/-- What channel slot `c` does to its pin, in bit time `t` of the raster's pixel.  Disabled, safe, under calibration or
tripped it is unterminated with its load off (R286, R292, R299, R486); a SERIAL_XFER drives its lanes whatever the vector
codes (R380); a swap turns drivers off (R198); a serial lane drives where the entry is coded SE and a raster lane where it is
coded RS (R367, R391); else the pin follows the drive state of the live bank, or takes the off state (R284, R285). -/
def State.pinOut (s : State) (h c t : Nat) : PinOut :=
  let drives : PinOut :=
    match s.liveBank h with
    | some b =>
      let d := tabGet (fun _ => ({} : DriveSt)) (s.bank h b).drive c
      if d.on then .drive d.lvl else s.offState h c
    | none => s.offState h c
  if (s.ch h c).pp then .force
  else if !s.is (F.PE_STAT.EN_EFF h c) || (s.ch h c).cal || s.driverHeld h c then .hiz
  else if (match (s.hse h).xfer with | some x => x.running && (s.laneSlots h x.slot x.base).contains c | none => false) then .serial
  else if (s.hl h).hold.swap then s.offState h c
  else
    match s.playCode h (s.hl h).entry c with
    | some 0xA =>
      match (s.hse h).run with
      | some r => if (s.laneSlots h r.slot (lowestSlot (s.alc h r.alc).own)).contains c then .serial else drives
      | none => drives
    | some 0xB =>
      match (List.range 36).find? (fun k => s.rsMapped h k && s.g (F.RS_LANE.SLOT k) == c) with
      | some k => if s.rsStreaming then s.rsPin h c k t else drives
      | none => drives
    | _ => drives

end Sys2Proof.Machine
end

