-- ==== Sys2Proof/Machine/Events.lean ====
section
/-! DEFINITION. The event matrix (chapter "Event matrix"): channels, deliveries, refractory windows, the event windows of
the doorbell pages, timers and the TRIGOUT pins. -/
namespace Sys2Proof.Machine

/-! ### Timers (R417–R419) -/

/-- A timer's output changes: it acts on the blanking of the channels that select it (R290, R417). -/
def tmOut (k : Nat) (b : Bool) (s : State) : State :=
  (s.pb (F.TM_CTL.OUT k) b).each s.part.halls blankHall

/-- The output of timer `k` asserts, which is an emission (R417). -/
def tmAssert (k : Nat) (s : State) : State := (tmOut k true s).emit (136 + k)

/-- The core cycle of timer `k`'s next assertion, or while its output is asserted of that assertion (R417). -/
def State.tmAt (s : State) (k : Nat) : Nat := tabGet (fun _ => 0) s.tms k

/-- Timer `k` starts from a trigger in core cycle `c`. -/
def tmStart (k c : Nat) (s : State) : State :=
  let s1 := { s.set1 (F.TM_CTL.RUN k) with tms := tabSet (fun _ => 0) s.tms k (c + s.g (F.TM_DELAY.CYCLES k)) }
  if s.g (F.TM_DELAY.CYCLES k) = 0 then tmAssert k s1
  else s1.when (s.is (F.TM_CTL.OUT k)) (tmOut k false)

/-- Timer `k` is busy for a trigger (R418). -/
def State.tmBusy (s : State) (k : Nat) : Bool := s.is (F.TM_CTL.RUN k) && !s.is (F.TM_CTL.RETRIG k)

/-- A trigger of timer `k` in core cycle `c`, if it is enabled and not busy. -/
def tmTrigger (k c : Nat) (s : State) : State := s.when (s.is (F.TM_CTL.EN k) && !s.tmBusy k) (tmStart k c)

/-- The window of timer `k` ends at once and the timer stops. -/
def tmHalt (k : Nat) (s : State) : State :=
  (s.when (s.is (F.TM_CTL.OUT k)) (tmOut k false)).clr (F.TM_CTL.RUN k)

/-- TM_CTL[k] written (R418): STOP acts before GO. -/
def tmCtlWrite (k : Nat) (v : Word) (s : State) : State :=
  let run := s.is (F.TM_CTL.RUN k)
  let mode := if run then s.g (F.TM_CTL.MODE k) else (F.TM_CTL.MODE k).of v
  if mode = 1 && s.g (F.TM_PERIOD.CYCLES k) ≤ s.g (F.TM_WIDTH.CYCLES k) then s.set1 F.EV_GSTAT.CFG_ERR
  else
    let keep := s.rd (R.TM_CTL k) &&& 0x06000000#32
    let w := fieldPut 28 1 mode (v &&& 0x38000000#32) ||| keep
    let s1 := (s.cfgWr (R.TM_CTL k) w).when (run && (F.TM_CTL.MODE k).of v != mode) (fun t => t.set1 F.EV_GSTAT.CFG_BUSY)
    let s2 := s1.when ((F.TM_CTL.STOP k).is v || !(F.TM_CTL.EN k).is v) (tmHalt k)
    if !(F.TM_CTL.GO k).is v then s2
    else if s2.is (F.TM_CTL.EN k) && s2.tmBusy k then s2.set1 F.EV_GSTAT.TM_BUSY
    else tmTrigger k s2.cyc s2

/-- TM_GO: TM_CTL written with GO = 1; a TM_START delivery triggers within EVENT_EMIT. -/
def execTmGo (k : Nat) (v : Word) (s : State) : Host.Outcome State Fault Refusal :=
  .next (if k < 16 && (F.TM_CTL.GO k).is v then s.host (tmCtlWrite k v) else s)

/-- TM_STOP: TM_CTL written with STOP = 1 or EN = 0. -/
def execTmStop (k : Nat) (v : Word) (s : State) : Host.Outcome State Fault Refusal :=
  .next (if k < 16 && ((F.TM_CTL.STOP k).is v || !(F.TM_CTL.EN k).is v) then s.host (tmCtlWrite k v) else s)

/-- TM_DELAY (0), TM_WIDTH (1) or TM_PERIOD (2) written (R418, R551): an invalid word sets CFG_ERR also while the timer
runs. -/
def tmRegWrite (k which : Nat) (v : Word) (s : State) : State :=
  let n := fieldGet 0 24 v
  let period := if which = 2 then n else s.g (F.TM_PERIOD.CYCLES k)
  let width := if which = 1 then n else s.g (F.TM_WIDTH.CYCLES k)
  let a := if which = 0 then R.TM_DELAY k else if which = 1 then R.TM_WIDTH k else R.TM_PERIOD k
  let bad := which != 0 && (width = 0 || (s.is (F.TM_CTL.MODE k) && period ≤ width))
  let s1 := s.when bad (fun t => t.set1 F.EV_GSTAT.CFG_ERR)
  if s.is (F.TM_CTL.RUN k) then s1.set1 F.EV_GSTAT.CFG_BUSY
  else if bad then s1
  else s.cfgWr a (BitVec.ofNat 32 n)

/-- TIMER_OUTPUT: the core cycle of the next assertion, DELAY after the trigger or PERIOD after the last one, has come
(R417). -/
def execTimerOutput (k : Nat) (s : State) : Host.Outcome State Fault Refusal :=
  .next (if k < 16 && s.is (F.TM_CTL.RUN k) && !s.is (F.TM_CTL.OUT k) && s.tmAt k ≤ s.cyc then tmAssert k s else s)

/-- TIMER_WINDOW_END: WIDTH has passed since the assertion; a one-shot timer stops, a periodic one asserts again PERIOD
after it (R417). -/
def execTimerWindowEnd (k : Nat) (s : State) : Host.Outcome State Fault Refusal :=
  .next (
    if k < 16 && s.is (F.TM_CTL.RUN k) && s.is (F.TM_CTL.OUT k) && s.tmAt k + s.g (F.TM_WIDTH.CYCLES k) ≤ s.cyc then
      let s1 := tmOut k false { s with tms := tabSet (fun _ => 0) s.tms k (s.tmAt k + s.g (F.TM_PERIOD.CYCLES k)) }
      s1.when (!s.is (F.TM_CTL.MODE k)) (fun t => t.clr (F.TM_CTL.RUN k))
    else s)

/-- A GRAVE reaction or a thermal shutdown stops every timer and drives every TRIGOUT pin low (R419). -/
def timersOff (s : State) : State := { (s.each 16 tmHalt) with evPulse := [] }

/-! ### Channels and deliveries (R406–R413) -/

/-- A configuration word of the matrix as an emission that leaves the input stage in core cycle `c` sees it (R410). -/
def State.evWord (s : State) (a c : Nat) : Word :=
  match s.evOld.find? (fun e => e.1 == a && decide (c ≤ e.2.2)) with
  | some e => e.2.1
  | none => s.rd a

/-- Bit `i` of a mask of words from address `a` on. -/
def State.evBit (s : State) (a i c : Nat) : Bool := natBits (s.evWord (a + 4 * (i / 32)) c).toNat (i % 32) 1 == 1

/-- FLAG of channel `e`, with its bit of EV_FLAGS. -/
def evFlag (e : Nat) (b : Bool) (s : State) : State :=
  let f := F.EV_FLAGS.CH (e / 32)
  (if b then s.set1 (F.EV_STAT.FLAG e) else s.clr (F.EV_STAT.FLAG e)).p f (natPut (s.g f) (e % 32) 1 b.toNat)

/-- Channel `e` asserts in core cycle `c`; `merged` tells that several producers emitted (R410, R411, R420). -/
def evAssert (e c : Nat) (merged : Bool) (s : State) : State :=
  let w := s.evWord (R.EV_CFG e) c
  let s1 := s.when (!s.is (F.EV_STAT.FLAG e) && (F.EV_CFG.IRQ_EN e).is w) (fun t => t.vecCount ((F.EV_CFG.VEC e).of w) 1)
  ((evFlag e true s1).when merged (fun t => t.set1 (F.EV_STAT.PCOIN e))).count (F.EV_CNT.COUNT e) (F.EV_CNT.SAT e)

/-- The input of consumer `i` is busy (R409). -/
def State.evBusy (s : State) (i : Nat) : Bool :=
  if 8 ≤ i && i < 24 then s.is (F.TM_CTL.EN (i - 8)) && s.tmBusy (i - 8)
  else if 24 ≤ i && i < 28 then decide (i - 24 < s.part.digs) && (s.acqSt (i - 24) == acqPost || s.acqSt (i - 24) == acqDone)
  else i == 36 && s.recording && decide (16 ≤ s.jnl.markQ.length)

/-- The core cycle in which the event matrix's pulse on pin `n` ends; 0 while there is none (R409). -/
def State.evPulseEnd (s : State) (n : Nat) : Nat := tabGet (fun _ => 0) s.evPulse n
def State.setEvPulse (s : State) (n c : Nat) : State := { s with evPulse := tabSet (fun _ => 0) s.evPulse n c }

/-- Consumer `i` acts on a delivery by the channels `es` in core cycle `c` (R409). -/
def evAct (i c : Nat) (es : List Nat) (s : State) : State :=
  if i < 8 then
    s.over es (fun e t => t.each t.part.halls (fun h u =>
      u.when (natBits (u.evWord (R.EV_HALLS e) c).toNat h 1 == 1) (hevSet h i e)))
  else if i < 24 then tmTrigger (i - 8) c s
  else if i < 28 then
    s.when (decide (i - 24 < s.part.digs) && (s.acqSt (i - 24) == acqFill || s.acqSt (i - 24) == acqArmed))
      (fun t => t.modDig (i - 24) (fun x => { x with evTrig := true }))
  else if i < 36 then s.setEvPulse (i - 28) (max (s.evPulseEnd (i - 28)) (c + max 1 (s.g F.EV_TRIGOUT_W.VALUE)))
  else s.when s.recording (fun t => { t with jnl := { t.jnl with markQ := t.jnl.markQ ++ es.take 1 } })

/-- A bit of a sticky mask of consumers. -/
def evMark (f : Nat → FRef) (i : Nat) (s : State) : State := s.setBit (f (i / 32)) (i % 32)

/-- Consumer `i` receives its deliveries of core cycle `c`: several merge, and a busy input drops them (R412, R413). -/
def evDeliver (c : Nat) (asserted : List Nat) (i : Nat) (s : State) : State :=
  let es := asserted.filter (fun e => s.evBit (R.EV_CMASK e 0) i c)
  if es.isEmpty then s
  else
    let s1 := s.when (1 < es.length) (evMark F.EV_COIN.CONS i)
    if s.evBusy i then evMark F.EV_OVR.CONS i s1 else evAct i c es s1

/-- WIN of a producer (R414). -/
def State.evWin (s : State) (p : Nat) : Nat := natBits (s.rd (R.EV_REFRACT (p / 4))).toNat (8 * (p % 4)) 8

/-- Producer `p`'s emission that leaves in core cycle `c` is suppressed (R414). -/
def State.evSuppressed (s : State) (p c : Nat) : Bool :=
  let last := tabGet (fun _ => 0) s.evLast p
  last != 0 && decide (c ≤ last + s.evWin p)

/-- The refractory windows: a suppressed emission is counted, another one is kept as the producer's last. -/
def evRefract (c : Nat) (ps : List Nat) (s : State) : State :=
  s.over ps (fun p t =>
    if t.evSuppressed p c then (t.count F.EV_LOOP.COUNT F.EV_LOOP.SAT).p F.EV_LOOP_LAST.VALUE p
    else { t with evLast := tabSet (fun _ => 0) t.evLast p c })

/-- The emissions `ps` leave the input stage together in core cycle `c`. -/
def evLeave (c : Nat) (ps : List Nat) (s : State) : State :=
  let hw := ps.filter (· < 256)
  let pass := hw.filter (fun p => !s.evSuppressed p c)
  let s1 := evRefract c hw s
  let hits (e : Nat) : Nat :=
    if (F.EV_CFG.EN e).is (s.evWord (R.EV_CFG e) c) then
      (pass.filter (fun p => s.evBit (R.EV_PMASK e 0) p c)).length + (if ps.contains (256 + e) then 1 else 0)
    else 0
  let asserted := (List.range 64).filter (fun e => 0 < hits e)
  let s2 := s1.over asserted (fun e t => evAssert e c (1 < hits e) t)
  s2.each 37 (evDeliver c asserted)

/-- EVENT_EMIT: the oldest emissions of the input stage leave it, 2 core cycles after they were made; `trigin` adds a
rising edge of the TRIGIN pin (R406, R408). -/
def execEventEmit (trigin : Bool) (s : State) : Host.Outcome State Fault Refusal :=
  .next (
    if !s.awake then s
    else match s.evIn with
    | [] => if trigin then evLeave (s.cyc + 2) [232] s else s
    | (_, c) :: _ =>
      let now := (s.evIn.filter (fun e => e.2 == c)).map (fun e => e.1)
      let ps := (now ++ (if trigin then [232] else [])).eraseDups
      evLeave (c + 2) ps { s with evIn := s.evIn.filter (fun e => e.2 != c) })

/-! ### Configuration (R410, R414, R416) -/

/-- A configuration word of the matrix takes effect from the next core cycle. -/
def evStore (a : Nat) (w : Word) (s : State) : State :=
  { s.cfgWr a w with evOld := (s.evOld.filter (fun e => decide (s.cyc ≤ e.2.2))) ++ [(a, s.rd a, s.cyc)] }

/-- A configuration register of channel `e` written. -/
def evCfgWrite (e : Nat) (r : EvReg) (v : Word) (s : State) : State :=
  match r with
  | .cfg =>
    if s.is (F.EV_CFG.SECURE e) && (F.EV_CFG.OWNER e).of v != 0 then s.set1 F.EV_GSTAT.CFG_ERR
    else
      let w := v &&& 0xFFF80000#32
      evStore (R.EV_CFG e) (if (F.EV_CFG.SECURE e).is v then fieldPut 27 3 0 w else w) s
  | .halls => evStore (R.EV_HALLS e) v s
  | .pmask k => if k < 8 then evStore (R.EV_PMASK e k) v s else s
  | .cmask k =>
    let ok : Word := if k = 0 then 0xFFFFFFFF#32 else if k = 1 then 0x1F#32 else 0#32
    if 5 ≤ k then s else if v &&& ~~~ ok != 0#32 then s.set1 F.EV_GSTAT.CFG_ERR else evStore (R.EV_CMASK e k) v s

def execEvConfigWrite (e : Nat) (r : EvReg) (v : Word) (s : State) : Host.Outcome State Fault Refusal :=
  .next (if e < 64 then s.host (evCfgWrite e r v) else s)

/-- EV_REFRACT[j] written: every window at least 2. -/
def evRefractWrite (j : Nat) (v : Word) (s : State) : State :=
  if (List.range 4).any (fun i => decide (natBits v.toNat (8 * i) 8 < 2)) then s.set1 F.EV_GSTAT.CFG_ERR
  else s.cfgWr (R.EV_REFRACT j) v

/-! ### Software producers and event windows (R415, R421) -/

/-- The channels that a write of a LO or HI word names. -/
def evNamed (hi : Bool) (v : Word) : List Nat :=
  (List.range 32).filterMap (fun i => if natBits v.toNat i 1 = 1 then some (i + if hi then 32 else 0) else none)

/-- EV_SWSET written. -/
def evSwset (hi : Bool) (v : Word) (s : State) : State := s.over (evNamed hi v) (fun e t => t.emit (256 + e))

def execEvSwset (hi : Bool) (v : Word) (s : State) : Host.Outcome State Fault Refusal := .next (s.host (evSwset hi v))

/-- Software of domain `d` may act on channel `e` through its window (R415). -/
def State.evMay (s : State) (d e : Nat) : Bool :=
  s.g (F.EV_CFG.OWNER e) == d && (!s.is (F.EV_CFG.SECURE e) || d == 0)

/-- NONOWNER for the bits that name foreign channels. -/
def evForeign (d : Nat) (hi : Bool) (v : Word) (s : State) : State :=
  s.when ((evNamed hi v).any (fun e => !s.evMay d e)) (foreignDoorbell F.EV_GSTAT.NONOWNER)

/-- An accepted window write enters the journal as a doorbell; the manual gives it no queue and no index: free values
(assumption 4). -/
def jWindow (d : Nat) (s : State) : State :=
  let (subj, s1) := s.draw 8
  let (idx, s2) := s1.draw 32
  jDoorbell subj d idx s2

/-- EVD_SWSET written through the window of domain `d`. -/
def evdSwset (d : Nat) (hi : Bool) (v : Word) (s : State) : State :=
  let may := (evNamed hi v).filter (s.evMay d)
  let s1 := evForeign d hi v s
  if may.isEmpty then s1 else (jWindow d s1).over may (fun e t => t.emit (256 + e))

def execEvdSwset (d : Nat) (hi : Bool) (v : Word) (s : State) : Host.Outcome State Fault Refusal :=
  .next (if d < 8 then s.host (evdSwset d hi v) else s)

/-- EVD_FLAG written through the window of domain `d`: the named flags that it may act on are cleared. -/
def evdFlagWrite (d : Nat) (hi : Bool) (v : Word) (s : State) : State :=
  let may := (evNamed hi v).filter (s.evMay d)
  let s1 := evForeign d hi v s
  if may.isEmpty then s1
  else (jWindow d s1).over may (fun e t => t.when (!t.isFresh (F.EV_STAT.FLAG e)) (evFlag e false))

/-- EVD_FLAG read through the window of domain `d`: zeros for the channels it may not act on. -/
def State.evdFlagRead (s : State) (d : Nat) (hi : Bool) : Word :=
  BitVec.ofNat 32 ((List.range 32).foldl (fun m i =>
    let e := i + if hi then 32 else 0
    if s.evMay d e && s.is (F.EV_STAT.FLAG e) then m + 2 ^ i else m) 0)

/-- EV_STAT[e] written: set flags that it names are cleared. -/
def evStatWrite (e : Nat) (v : Word) (s : State) : State :=
  (s.when (s.clears (F.EV_STAT.FLAG e) v) (evFlag e false)).when (s.clears (F.EV_STAT.PCOIN e) v)
    (fun t => t.clr (F.EV_STAT.PCOIN e))

/-! ### The journal marker and the TRIGOUT pins (R107, R409, R557) -/

/-- JOURNAL_MARK_DRAIN: an entry passes while the FIFO has room outside its reserve. -/
def execJournalMarkDrain (s : State) : Host.Outcome State Fault Refusal :=
  .next (
    match s.jnl.markQ with
    | [] => s
    | e :: rest =>
      if s.recording && s.jnl.fifo.length < 2016 then
        ({ s with jnl := { s.jnl with markQ := rest } }).j 0x60 0xFF e 0 0
      else s)

/-- TRIGOUT_PULSE_END: on pin `n`, the flight pulse of a hall, or the pulse of the event matrix, which lasts EV_TRIGOUT_W
core cycles after its last delivery, ends. -/
def execTrigoutPulseEnd (n : Nat) (hall : Option Nat) (s : State) : Host.Outcome State Fault Refusal :=
  .next (
    match hall with
    | some h => if s.hallOk h && s.g (F.FLT_TRIGOUT.PIN h) == n then flightPulseEnd h s else s
    | none => if n < 8 then (if s.evPulseEnd n ≤ s.cyc then s.setEvPulse n 0 else s) else s)

/-- The level of pin TRIGOUTn: the OR of its pulses, low until READY (R107, R409, R419). -/
def State.trigout (s : State) (n : Nat) : Bool :=
  s.inService && (s.evPulseEnd n != 0 ||
    (List.range s.part.halls).any (fun h => (s.hl h).trigOut && s.g (F.FLT_TRIGOUT.PIN h) == n))

end Sys2Proof.Machine
end

