-- ==== Sys2Proof/Machine/Gallery.lean ====
section
/-! DEFINITION. The gallery and time (chapter "The gallery: discovery, array landings and time"), and the reference
clock's presence (R340, R554). -/
namespace Sys2Proof.Machine

/-- The states of TB0 (TB0_STAT.STATE). -/
def tbUnset : Nat := 0
def tbTracking : Nat := 1
def tbLocked : Nat := 2
def tbHoldover : Nat := 3
def tbBehind : Nat := 4

def State.tbSt (s : State) : Nat := s.g F.TB0_STAT.STATE
def tbEnter (st : Nat) (s : State) : State :=
  { (s.p F.TB0_STAT.STATE st) with gal := { s.gal with run := 0, syncs := 0, off2 := none } }
def State.newel (s : State) : Bool := s.is F.GAL_CFG.ROLE
def State.modGal (s : State) (f : GalX → GalX) : State := { s with gal := f s.gal }

/-- The device is quiesced (R427). -/
def State.quiesced (s : State) : Bool :=
  !s.anyRun && !(List.range s.part.digs).any s.acqRuns && !(List.range 8).any (fun n => s.is (F.TT_CTL.ARMED n))

/-! ### The peer table (R429, R430) -/

def State.peer (s : State) (i : Nat) : PeerX := tabGet (fun _ => ({} : PeerX)) s.peers i

/-- What the registers show of the entry and word that the index registers select (R447). -/
def peerShow (s : State) : State :=
  let x := s.peer (s.g F.GAL_PEER_IDX.IDX)
  let y := s.peer (s.g F.GAL_MAP_IDX.PEER)
  let s1 := ((s.p F.GAL_PEER_INFO.STATE x.st).p F.GAL_PEER_INFO.PORTS x.ports).p F.GAL_PEER_INFO.FLAGS x.flags
  let s2 := ((s1.p F.GAL_PEER_INFO.EPOCH x.epoch).p F.GAL_PEER_UID_LO.UID x.uid).p F.GAL_PEER_UID_HI.UID (x.uid >>> 32)
  s2.p F.GAL_MAP_DATA.MAP (natBits y.map (32 * s.g F.GAL_MAP_IDX.WORD) 32)

def State.setPeer (s : State) (i : Nat) (x : PeerX) : State :=
  peerShow { s with peers := tabSet (fun _ => ({} : PeerX)) s.peers i x }

/-- The entry of a peer by its UID. -/
def State.findPeer (s : State) (uid : Nat) : Option Nat :=
  (List.range 64).find? (fun i => (s.peer i).st != 0 && (s.peer i).uid == uid)

/-- A record of a peer's admission or loss (R430, R503); its value is the peer's UID (assumption 25). -/
def jPeer (i : Nat) (s : State) : State := s.j 0x61 0xFF 0 5 (packB [(0, 8, (s.peer i).uid)])

/-- An interrupt entry for the gallery's vector. -/
def galVec (s : State) : State := s.vecCount (s.g F.GAL_CFG.VEC) 1

/-- A gallery fault source reports (R430, R432, R434). -/
def galFault (src : Nat) (s : State) : State := galVec (s.raise src noDetail)

/-- REF_LOCK, ALIGNED and TB0_LOCK are all set in HELLO flags. -/
def helloGood (flags : Nat) : Bool := natBits flags 1 1 == 1 && natBits flags 2 1 == 1 && natBits flags 6 1 == 1

/-- JOINED is cleared, and the lines driven are released; by the device itself it is a fault (R434). -/
def unjoin (byDevice : Bool) (s : State) : State :=
  if !s.is F.GAL_STAT.JOINED then s
  else
    let s1 := (s.clr F.GAL_STAT.JOINED).each s.part.halls (fun h t => t.modHl h (fun x => { x with driveLine := none }))
    s1.when byDevice (galFault 377)

/-- The newel that the peer table knows, with its last HELLO. -/
def State.newelPeer (s : State) : Option PeerX :=
  ((List.range 64).map s.peer).find? (fun x => x.st != 0 && x.st != 4 && natBits x.flags 0 1 == 1)

/-- The newel's epoch is greater than the device's own (R441). -/
def State.epochNewer (s : State) : Bool :=
  match s.newelPeer with
  | some x => let d := (x.epoch + 65536 - s.g F.TB0_STAT.EPOCH) % 65536; 1 ≤ d && d ≤ 32767
  | none => false

/-- A member that is not quiesced falls behind a greater epoch (R441). -/
def epochCheck (s : State) : State :=
  let st := s.tbSt
  if !s.newel && s.epochNewer && (st = tbTracking || st = tbLocked || st = tbHoldover) && !s.quiesced then
    unjoin true (tbEnter tbBehind s)
  else s

/-- The device becomes a member (R431). -/
def becomeMember (s : State) : State :=
  let s1 := s.clr F.GAL_CFG.ROLE
  if s1.tbSt = tbLocked || s1.tbSt = tbHoldover then tbEnter tbTracking s1 else s1

/-- A second newel (R432). -/
def newelConflict (uid flags : Nat) (s : State) : State :=
  if s.newel && natBits flags 0 1 == 1 then
    let s1 := galFault 376 (s.set1 F.GAL_STAT.NEWEL_CONFLICT)
    if uid < Config.devUid.toNat then becomeMember s1 else s1
  else s

/-- A HELLO updates the sender's entry and moves its state (R430). -/
def helloEntry (i port uid flags epoch : Nat) (s : State) : State :=
  let x := s.peer i
  let y : PeerX := { x with uid := uid, ports := x.ports ||| 2 ^ port, flags := flags, epoch := epoch }
  let good := helloGood flags
  match x.st with
  | 0 => galVec (s.setPeer i { y with st := 1 })
  | 1 => s.setPeer i { y with st := if good then 2 else 1 }
  | 2 => s.setPeer i { y with st := if good then 2 else 1 }
  | 3 => if good then s.setPeer i y else jPeer i (galFault 375 (s.setPeer i { y with st := 1 }))
  | _ => s.setPeer i { y with st := 1 }

/-- HELLO_RX: a HELLO with UID, FLAGS and EPOCH arrives on a port. -/
def helloRx (port uid flags epoch : Nat) (s : State) : State :=
  if uid = Config.devUid.toNat then s
  else
    let s1 := newelConflict uid flags s
    match (s1.findPeer uid).orElse (fun _ => (List.range 64).find? (fun i => (s1.peer i).st == 0)) with
    | some i => epochCheck (helloEntry i port uid flags epoch s1)
    | none => s1.set1 F.GAL_STAT.TABLE_FULL

/-- The link of a port is up, and the gallery's clocks run (R462). -/
def State.linkUp (s : State) (port : Nat) : Bool :=
  s.awake && if port = 0 then s.is F.GAL_STAT.LINK0 else port == 1 && s.is F.GAL_STAT.LINK1

def execHelloRx (port uid flags epoch : Nat) (s : State) : Host.Outcome State Fault Refusal :=
  .next (if s.linkUp port then helloRx port (uid % 2 ^ 64) (flags % 256) (epoch % 65536) s else s)

/-- PEER_MISSED: no HELLO from entry `i` for 32 ms (R430). -/
def execPeerMissed (i : Nat) (s : State) : Host.Outcome State Fault Refusal :=
  .next (
    let x := s.peer i
    if i < 64 && 1 ≤ x.st && x.st ≤ 3 then jPeer i (galFault 375 (s.setPeer i { x with st := 4 })) else s)

/-- FRAME_RX_DROP (R425). -/
def execFrameRxDrop (s : State) : Host.Outcome State Fault Refusal :=
  .next (s.count F.GAL_RX_DROP.COUNT F.GAL_RX_DROP.SAT)

/-- GAL_PEER_IDX written: CMD 1 admits and 2 removes the entry that it selects (R430). -/
def peerIdxWrite (v : Word) (s : State) : State :=
  let i := F.GAL_PEER_IDX.IDX.of v
  let cmd := F.GAL_PEER_IDX.CMD.of v
  let s1 := peerShow (s.p F.GAL_PEER_IDX.IDX i)
  let x := s1.peer i
  if cmd = 1 then
    if x.st = 2 then jPeer i (s1.setPeer i { x with st := 3 }) else s1.set1 F.GAL_STAT.ADMIT_ERR
  else if cmd = 2 then s1.setPeer i {}
  else s1

/-- PEER_ADMIT. -/
def execPeerAdmit (i : Nat) (s : State) : Host.Outcome State Fault Refusal :=
  .next (if i < 64 then s.host (peerIdxWrite (BitVec.ofNat 32 (2 ^ 30 + i))) else s)

/-- PEER_REMOVE. -/
def execPeerRemove (i : Nat) (s : State) : Host.Outcome State Fault Refusal :=
  .next (if i < 64 then s.host (peerIdxWrite (BitVec.ofNat 32 (2 ^ 31 + i))) else s)

/-! ### Array frames (R427–R429) -/

/-- `n` bytes of a number, most significant first. -/
def bigEndian : Nat → Nat → List Nat
  | 0, _ => []
  | n + 1, v => natBits v (8 * n) 8 :: bigEndian n v

/-- The first 16 bytes of an array frame. -/
def State.frameHead (s : State) (typ seq : Nat) : List Nat :=
  [1, typ] ++ bigEndian 2 (s.g F.GAL_CFG.ARRAY_ID) ++ bigEndian 8 Config.devUid.toNat ++ bigEndian 4 seq

/-- An array frame from port `port` with a payload: destination, source address and EtherType before it, zeros behind it up
to 60 bytes, which the frame check sequence makes 64 (R427). -/
def arrayFrame (port : Nat) (payload : List Nat) : List Nat :=
  let f := bigEndian 6 0x030000007832 ++ bigEndian 6 (Config.macAddr port).toNat ++ bigEndian 2 0x88B5 ++ payload
  f ++ List.replicate (60 - f.length) 0

/-- A hall on the REF axis is aligned. -/
def State.anyAligned (s : State) : Bool :=
  (List.range s.part.halls).any (fun h => s.g (F.AXIS_CTL.SRC h) == 0 && s.is (F.AXIS_STAT.ALIGNED h))

/-- FLAGS of a HELLO. -/
def State.helloFlags (s : State) : Nat :=
  pack [(0, 1, s.newel.toNat), (1, 1, s.g F.REF_STAT.REF_LOCK), (2, 1, s.anyAligned.toNat), (3, 1, s.quiesced.toNat),
    (4, 1, s.g F.GAL_STAT.JOINED), (5, 1, s.g F.TB0_STAT.SET), (6, 1, (s.tbSt == tbLocked).toNat)]

/-- HELLO_SEND: every 10 ms on a port whose link is up, from discovery on (R268, R429). -/
def execHelloSend (port : Nat) (s : State) : Host.Outcome State Fault Refusal :=
  .next (
    if s.linkUp port && 7 ≤ s.g F.BOOT_STAGE.STAGE && s.g F.BOOT_STAGE.STAGE ≤ 9 then
      let bytes := s.frameHead 1 s.gal.seqHello ++ bigEndian 2 (partId s.part) ++ [s.helloFlags, port] ++
        bigEndian 2 (s.g F.TB0_STAT.EPOCH) ++ [s.gtl, 0] ++ bigEndian 8 (s.tb0 >>> 16)
      (s.modGal (fun x => { x with seqHello := (x.seqHello + 1) % 2 ^ 32 })).send (.frame 1 port (arrayFrame port bytes))
    else s)

/-- The device's own fail map: the alcoves with a non-zero fail count (R427). -/
def State.ownMap (s : State) : Nat :=
  (List.range (96 * s.part.halls)).foldl (fun m a => if (s.alc (a / 96) (a % 96)).fails != 0 then m + 2 ^ a else m) 0

/-- GAL_CTL.SEND_MAP: one FAILMAP frame on the active port (R428). -/
def failmapSend (s : State) : State :=
  let port := s.g F.GAL_STAT.ACTIVE
  if s.linkUp port then
    let map := s.ownMap
    let bytes := s.frameHead 2 s.gal.seqMap ++ (List.range 384).map (fun b => natBits map (8 * b) 8)
    (s.modGal (fun x => { x with seqMap := (x.seqMap + 1) % 2 ^ 32 })).send (.frame 2 port (arrayFrame port bytes))
  else s

def execFailmapSend (s : State) : Host.Outcome State Fault Refusal := .next (s.host failmapSend)

/-- FAILMAP_RX: bit `a` of `map` is alcove `a` of the sender. -/
def execFailmapRx (uid map : Nat) (s : State) : Host.Outcome State Fault Refusal :=
  .next (match (if s.awake then s.findPeer uid else none) with
    | some i => s.setPeer i { s.peer i with map := map % 2 ^ 3072 }
    | none => s)

/-! ### Roles, joining, links and lines (R426, R431, R433, R434) -/

/-- GAL_CFG written: ROLE changes only while quiesced, the other fields at once (R431). -/
def galCfgWrite (v : Word) (s : State) : State :=
  let w := v &&& (if s.part.galPorts = 2 then 0xFFFFFF0F#32 else 0xFFFFFF05#32)
  let change := F.GAL_CFG.ROLE.is v != s.newel
  if change && !s.quiesced then
    (s.cfgWr R.GAL_CFG (fieldPut 15 1 s.newel.toNat w)).set1 F.GAL_STAT.CFG_BUSY
  else
    let member := change && !F.GAL_CFG.ROLE.is v
    (s.cfgWr R.GAL_CFG w).when member becomeMember

/-- ROLE_WRITE. -/
def execRoleWrite (v : Word) (s : State) : Host.Outcome State Fault Refusal := .next (s.host (galCfgWrite v))

/-- JOIN (R434). -/
def galJoin (s : State) : State :=
  if s.is F.REF_STAT.REF_LOCK && s.tbSt = tbLocked then s.set1 F.GAL_STAT.JOINED else s.set1 F.GAL_STAT.JOIN_ERR

/-- GAL_CTL written: LEAVE before JOIN, then SEND_MAP. -/
def galCtlWrite (v : Word) (s : State) : State :=
  ((s.when (F.GAL_CTL.LEAVE.is v) (unjoin false)).when (F.GAL_CTL.JOIN.is v) galJoin).when (F.GAL_CTL.SEND_MAP.is v) failmapSend

def execGalJoin (s : State) : Host.Outcome State Fault Refusal := .next (s.host (galCtlWrite 1))
def execGalLeave (s : State) : Host.Outcome State Fault Refusal := .next (s.host (galCtlWrite 2))

/-- GAL_LINK_CHANGE: GP0 is active while its link is up, otherwise GP1 (R426). -/
def execGalLinkChange (port : Nat) (up : Bool) (s : State) : Host.Outcome State Fault Refusal :=
  .next (
    if port < s.part.galPorts then
      let s1 := s.pb (if port = 0 then F.GAL_STAT.LINK0 else F.GAL_STAT.LINK1) up
      let active := if s1.is F.GAL_STAT.LINK0 || s.part.galPorts = 1 then 0 else 1
      if active = s.g F.GAL_STAT.ACTIVE then s1
      else (s1.p F.GAL_STAT.ACTIVE active).j 0x61 0xFF 0 4 (packB [(0, 8, active)])
    else s)

/-- Line `n` is driven by the device itself (R434). -/
def State.drivesLine (s : State) (n : Nat) : Bool :=
  (List.range s.part.halls).any (fun h => (s.hl h).driveLine == some n)

/-- GTL_RISE: the lines are sampled, `sample` as other devices drive them; each rising edge emits (R433). -/
def execGtlRise (sample : Nat) (s : State) : Host.Outcome State Fault Refusal :=
  .next (
    let now := (List.range 8).foldl (fun m n => if natBits sample n 1 = 1 || s.drivesLine n then m + 2 ^ n else m) 0
    ({ s with gtl := now }).each 8 (fun n t =>
      t.when (natBits now n 1 == 1 && natBits s.gtl n 1 == 0) (fun u => u.emit (216 + n))))

/-! ### Time bases (R438, R439, R444) -/

/-- An NS_WRAP marker in each time-stamped ring (R444). -/
def nsMark (s : State) : State :=
  let t := (s.ringMarker [0, 1, 2, 3] 0x05 0xFF (natBits s.tb0 48 32) s.tb0ns)
  t.jput [{ t.jrec 0x05 0xFF 0 0 0 with axis := natBits s.tb0 48 32 }]

/-- TB0 stepped to a value (R438): markers follow every step. -/
def tbStep (v : Nat) (s : State) : State := nsMark { s with tb0 := v % 2 ^ 80, tb0rem := 0 }

/-- What a core cycle of 2 ns adds to TB0, in 2^-16 ns, with the remainder in 2^-31 ns (R438). -/
def State.tbAdd (s : State) : Nat × Nat :=
  let x := (131072 * 32768 + (s.tb0rem : Int) + signed 32 (s.g F.TB0_RATE.RATE)).toNat
  (x / 32768, x % 32768)

/-- The time bases advance by a core cycle; a carry into bit 32 of whole nanoseconds writes the markers. -/
def tbTick (s : State) : State :=
  let (n, rem) := s.tbAdd
  let s1 := { s with tb0 := (s.tb0 + n) % 2 ^ 80, tb0rem := rem, tb1 := (s.tb1 + 131072) % 2 ^ 80, tb2 := (s.tb2 + n) % 2 ^ 80 }
  s1.when (natBits s1.tb0 48 32 != natBits s.tb0 48 32) nsMark

/-- NS_WRAP: the core cycle in which TB0 carries. -/
def execNsWrap (s : State) : Host.Outcome State Fault Refusal :=
  .next (if s.inService && natBits (s.tb0 + s.tbAdd.1) 48 32 != natBits s.tb0 48 32 then tbTick s else s)

/-- TB_SNAP.GO latches the three bases (R439). -/
def tbSnap (s : State) : State :=
  let put (k v : Nat) (t : State) : State :=
    ((t.p (F.TBK_SNAP.VALUE k 0) (v >>> 16)).p (F.TBK_SNAP.VALUE k 1) (v >>> 48)).p (F.TBK_SNAP.VALUE k 2) (v % 65536)
  put 2 s.tb2 (put 1 s.tb1 (put 0 s.tb0 s))

def execTbSnap (s : State) : Host.Outcome State Fault Refusal := .next (s.host tbSnap)

/-! ### PTP (R440, R441, R446) -/

/-- A PTP message is accepted: on the active port, in the domain. -/
def State.ptpOk (s : State) (port dom : Nat) : Bool :=
  s.linkUp port && port == s.g F.GAL_STAT.ACTIVE && dom == s.g F.PTP_CFG.DOMAIN

/-- A transmit stamp now: TB0 plus PORT_LAT.TX. -/
def State.txStamp (s : State) : Int := s.tb0 + s.g (F.PORT_LAT.TX (s.g F.GAL_STAT.ACTIVE)) * 4096

/-- A receive stamp now: TB0 minus PORT_LAT.RX. -/
def State.rxStamp (s : State) : Int := (s.tb0 : Int) - s.g (F.PORT_LAT.RX (s.g F.GAL_STAT.ACTIVE)) * 4096

/-- A PTP message leaves on the active port, if its link is up: message type, domain and stamp. -/
def ptpSend (typ : Nat) (stamp : Int) (s : State) : State :=
  let port := s.g F.GAL_STAT.ACTIVE
  s.when (s.linkUp port && s.inService) (fun t =>
    t.send (.frame (0x88F700 + typ) port [s.g F.PTP_CFG.DOMAIN, unsigned 80 stamp]))

/-- PTP_SYNC_SEND: the newel's Sync (message type 0). -/
def execPtpSyncSend (s : State) : Host.Outcome State Fault Refusal :=
  .next (if s.newel then ptpSend 0 s.txStamp s else s)

/-- PTP_ANNOUNCE_SEND: the newel's Announce (message type 11). -/
def execPtpAnnounceSend (s : State) : Host.Outcome State Fault Refusal :=
  .next (if s.newel then ptpSend 11 s.txStamp s else s)

/-- PTP_DELAY_REQ_SEND: a member's Delay_Req (message type 1). -/
def execPtpDelayReqSend (s : State) : Host.Outcome State Fault Refusal :=
  .next (
    if !s.newel && s.linkUp (s.g F.GAL_STAT.ACTIVE) && s.inService then
      (ptpSend 1 s.txStamp s).modGal (fun x => { x with reqStamp := some s.txStamp })
    else s)

/-- PTP_DELAY_REQ_RX: the newel answers with a Delay_Resp (message type 9) that carries its receive stamp. -/
def execPtpDelayReqRx (port dom : Nat) (s : State) : Host.Outcome State Fault Refusal :=
  .next (if s.newel && s.ptpOk port dom then ptpSend 9 s.rxStamp s else s)

/-- PTP_DELAY_RESP_RX: the path delay is half the sum of both directions. -/
def execPtpDelayRespRx (port dom : Nat) (stamp : Int) (s : State) : Host.Outcome State Fault Refusal :=
  .next (
    match s.gal.lastSync, s.gal.reqStamp with
    | some (t1, t2), some t3 =>
      if !s.newel && s.ptpOk port dom then
        s.modGal (fun x => { x with delay2 := some (stamp - t3 + (t2 - t1)), reqStamp := none })
      else s
    | _, _ => s)

/-- The servo sets RATE within ±500 ppm; the manual gives no gains, so its value is free (R441, assumption 4). -/
def servo (s : State) : State :=
  let (v, t) := s.draw 32
  t.p F.TB0_RATE.RATE (unsigned 32 ((v % 4294967 : Nat) - (2147483 : Int)))

/-- TB0_OFFSET reports an offset; how a fraction of a nanosecond is rounded is free. -/
def offsetShow (off2 : Int) (s : State) : State :=
  let (b, t) := s.draw 1
  let whole := off2 / 131072
  t.p F.TB0_OFFSET.OFFSET (unsigned 32 (if off2 % 131072 = 0 then whole else whole + b))

/-- One step to the newel's time, its epoch taken (R441). -/
def memberStep (off2 : Int) (epoch : Nat) (s : State) : State :=
  tbEnter tbTracking ((tbStep (unsigned 80 ((s.tb0 : Int) + off2 / 2)) (s.p F.TB0_STAT.EPOCH epoch)).set1 F.TB0_STAT.SET)

/-- A condition that must hold for 16 consecutive Syncs. -/
def sixteen (c : Bool) (next : Nat) (f : State → State) (s : State) : State :=
  if !c then s.modGal (fun x => { x with run := 0 })
  else if 16 ≤ s.gal.run + 1 then f (tbEnter next s)
  else s.modGal (fun x => { x with run := x.run + 1 })

/-- A measured offset of twice `off2` · 2^-16 ns moves the member's state (R441). -/
def memberSync (off2 : Int) (s : State) : State :=
  let mag := off2.natAbs
  let st := s.tbSt
  let set := match s.newelPeer with | some x => natBits x.flags 5 1 == 1 | none => false
  let epoch := match s.newelPeer with | some x => x.epoch | none => s.g F.TB0_STAT.EPOCH
  let s1 := offsetShow off2 s
  if st = tbUnset then
    if !set then s1
    else if 8 ≤ s.gal.syncs + 1 then memberStep off2 epoch s1
    else s1.modGal (fun x => { x with syncs := x.syncs + 1 })
  else if st = tbBehind || s.epochNewer then
    if s.quiesced then memberStep off2 epoch s1
    else (if st = tbBehind then s1 else unjoin true (tbEnter tbBehind s1)).modGal (fun x => { x with off2 := some off2 })
  else if st = tbTracking then servo (sixteen (mag < 100 * 131072) tbLocked id s1)
  else if st = tbLocked then servo (sixteen (1000 * 131072 < mag) tbTracking (galFault 378) s1)
  else tbEnter tbTracking s1

/-- A member behind its newel that has become quiesced takes its one step, by the offset measured last since it fell
behind (R441). -/
def behindStep (s : State) : State :=
  match s.gal.off2 with
  | some off2 =>
    let epoch := match s.newelPeer with | some x => x.epoch | none => s.g F.TB0_STAT.EPOCH
    if !s.newel && s.tbSt = tbBehind && s.quiesced then memberStep off2 epoch s else s
  | none => s

/-- PTP_SYNC_RX: a Sync with the stamp of its transmission, corrections included (R440, R441). -/
def execPtpSyncRx (port dom : Nat) (stamp : Int) (s : State) : Host.Outcome State Fault Refusal :=
  .next (
    if !s.newel && s.ptpOk port dom then
      let t2 := s.rxStamp
      let s1 := s.modGal (fun x => { x with lastSync := some (stamp, t2) })
      match s.gal.delay2 with
      | some d2 => memberSync (2 * stamp + d2 - 2 * t2) s1
      | none => if s.tbSt = tbHoldover then tbEnter tbTracking s1 else s1
    else s)

/-- PTP_SYNC_LOSS: no Sync for 8 intervals (R441). -/
def execPtpSyncLoss (s : State) : Host.Outcome State Fault Refusal :=
  .next (
    if !s.newel && (s.tbSt = tbTracking || s.tbSt = tbLocked) then unjoin true (tbEnter tbHoldover s) else s)

/-! ### TIME_STEP and TIME_RATE (R442, R443) -/

/-- The result of both descriptors. -/
def timeRes (old epoch detail notq rate : Nat) : List (Nat × Nat × Nat) :=
  [(8, 8, old), (16, 2, epoch), (18, 1, detail), (19, 1, notq), (20, 4, rate)]

/-- ADMITTED peers that are not quiesced per their last HELLO, counting this device. -/
def State.notQuiet (s : State) : Nat :=
  ((List.range 64).filter (fun i => (s.peer i).st == 3 && natBits (s.peer i).flags 3 1 == 0)).length + (!s.quiesced).toNat

/-- Every armed time-trigger output is disarmed by a step. -/
def ttStepped (s : State) : State :=
  s.each 8 (fun n t => t.when (t.is (F.TT_CTL.ARMED n)) (fun u => (u.clr (F.TT_CTL.ARMED n)).set1 (F.TT_CTL.STEPPED n)))

/-- TIME_STEP. -/
def timeStep (r : DescRun) (s : State) : State :=
  let d := r.desc
  let epoch := s.g F.TB0_STAT.EPOCH
  let re := dscBits d 30 0 1 == 1
  let fail (st : Status) (detail notq : Nat) : State := s.complete r.did st (timeRes 0 epoch detail notq 0)
  if dUnit d != 0 || dAddr d != 0 || dLen d != 0 || dscBits d 30 1 7 != 0 || dsc d 31 1 != 0 || !dscZeroFrom d 34 then fail .badop 1 0
  else if !s.newel then fail .denied 1 0
  else if dsc d 32 2 != epoch then fail .stale 1 0
  else if s.tbSt != tbUnset && !re then fail .denied 2 0
  else if re && s.notQuiet != 0 then fail .busy 1 s.notQuiet
  else
    let old := s.tb0 >>> 16
    let s1 := tbStep (dsc d 20 8 <<< 16 ||| dsc d 28 2) ((s.set1 F.TB0_STAT.SET).when (s.tbSt = tbUnset) (tbEnter tbLocked))
    let s2 := (ttStepped s1).when re (fun t => t.p F.TB0_STAT.EPOCH (epoch + 1))
    (s2.j 0x61 0xFF 0 2 (packB [(0, 8, dsc d 20 8)])).complete r.did .ok (timeRes old (s2.g F.TB0_STAT.EPOCH) 0 0 0)

def execTimeStep (q : Nat) (s : State) : Host.Outcome State Fault Refusal := .next (s.withDesc q 0x0017 timeStep)

/-- TIME_RATE. -/
def timeRate (r : DescRun) (s : State) : State :=
  let d := r.desc
  let epoch := s.g F.TB0_STAT.EPOCH
  let fail (st : Status) (detail : Nat) : State := s.complete r.did st (timeRes 0 epoch detail 0 0)
  let rate := dsc d 20 4
  if dUnit d != 0 || dAddr d != 0 || dLen d != 0 || !dscZeroFrom d 24 then fail .badop 1
  else if !s.newel then fail .denied 1
  else if 2147483 < (signed 32 rate).natAbs then fail .badlen 1
  else
    ((s.p F.TB0_RATE.RATE rate).j 0x61 0xFF 0 3 (packB [(0, 8, unsigned 64 (signed 32 rate))])).complete r.did .ok
      (timeRes (s.tb0 >>> 16) epoch 0 0 (s.g F.TB0_RATE.RATE))

def execTimeRate (q : Nat) (s : State) : Host.Outcome State Fault Refusal := .next (s.withDesc q 0x0018 timeRate)

/-! ### Time-trigger outputs (R445) -/

def State.tt (s : State) (n : Nat) : TtX := tabGet (fun _ => ({} : TtX)) s.tts n
def State.setTt (s : State) (n : Nat) (x : TtX) : State := { s with tts := tabSet (fun _ => ({} : TtX)) s.tts n x }

/-- The target of output `n`. -/
def State.ttTarget (s : State) (n : Nat) : Nat := s.g (F.TT_AT_LO.AT n) + 2 ^ 32 * s.g (F.TT_AT_HI.AT n)

/-- The first instant T + k × PERIOD that has not passed. -/
def ttLater (t period now : Nat) : Nat := t + (now - t + period - 1) / period * period

/-- TT_CTL[n] written: DISARM acts on a running output, and nothing else does; ARM arms one that is not. -/
def ttCtlWrite (n : Nat) (v : Word) (s : State) : State :=
  let flags (t : State) : State :=
    (((t.when ((F.TT_CTL.MISSED n).is v) (fun u => u.clr (F.TT_CTL.MISSED n))).when ((F.TT_CTL.STEPPED n).is v)
      (fun u => u.clr (F.TT_CTL.STEPPED n)))).when ((F.TT_CTL.CFG_BUSY n).is v) (fun u => u.clr (F.TT_CTL.CFG_BUSY n))
  let periodic := (F.TT_CTL.MODE n).is v
  let period := s.g (F.TT_PERIOD.PERIOD n)
  if s.is (F.TT_CTL.ARMED n) then
    if (F.TT_CTL.DISARM n).is v then (flags s).clr (F.TT_CTL.ARMED n) else s.set1 (F.TT_CTL.CFG_BUSY n)
  else if (F.TT_CTL.ARM n).is v && !(F.TT_CTL.DISARM n).is v then
    if periodic && period ≤ s.g (F.TT_WIDTH.WIDTH n) then s
    else
      let s1 := (flags s).pb (F.TT_CTL.MODE n) periodic
      let t := s.ttTarget n
      let missed := decide (t * 65536 < s.tb0)
      let now := (s.tb0 + 65535) / 65536
      let s2 := s1.when missed (fun u => u.set1 (F.TT_CTL.MISSED n))
      if missed && !periodic then s2
      else (s2.set1 (F.TT_CTL.ARMED n)).setTt n { s2.tt n with next := if missed then ttLater t period now else t }
  else (flags s).pb (F.TT_CTL.MODE n) periodic

/-- TT_ARM: TT_CTL written with ARM = 1. -/
def execTtArm (n : Nat) (v : Word) (s : State) : Host.Outcome State Fault Refusal :=
  .next (if n < 8 && (F.TT_CTL.ARM n).is v then s.host (ttCtlWrite n v) else s)

/-- TT_DISARM: TT_CTL written with DISARM = 1. -/
def execTtDisarm (n : Nat) (v : Word) (s : State) : Host.Outcome State Fault Refusal :=
  .next (if n < 8 && (F.TT_CTL.DISARM n).is v then s.host (ttCtlWrite n v) else s)

/-- Another register of an output written: not while it runs, and only values in range. -/
def ttRegWrite (n a : Nat) (ok : Word → Bool) (v : Word) (s : State) : State :=
  if s.is (F.TT_CTL.ARMED n) then s.set1 (F.TT_CTL.CFG_BUSY n) else if ok v then s.wr a v else s

/-- TB0 reaches the target of output `n` in this core cycle, or has passed it (R445). -/
def State.ttDue (s : State) (n : Nat) : Bool := decide ((s.tt n).next * 65536 < s.tb0 + s.tbAdd.1)

/-- TT_FIRE: TB0 reaches the target; the pin rises for WIDTH ns. -/
def execTtFire (n : Nat) (s : State) : Host.Outcome State Fault Refusal :=
  .next (
    if n < 8 && s.is (F.TT_CTL.ARMED n) && s.ttDue n then
      let x := s.tt n
      let y : TtX := { x with pin := true, fall := s.tb1 + s.g (F.TT_WIDTH.WIDTH n) * 65536 }
      if s.is (F.TT_CTL.MODE n) then (s.setTt n { y with next := x.next + s.g (F.TT_PERIOD.PERIOD n) }).emit (224 + n)
      else ((s.setTt n y).emit (224 + n)).clr (F.TT_CTL.ARMED n)
    else s)

/-- TT_PULSE_END: WIDTH ns have passed. -/
def execTtPulseEnd (n : Nat) (s : State) : Host.Outcome State Fault Refusal :=
  .next (if n < 8 && (s.tt n).pin && (s.tt n).fall ≤ s.tb1 then s.setTt n { s.tt n with pin := false } else s)

/-- A GRAVE reaction or a thermal shutdown disarms every output and drives the pins low. -/
def ttOff (s : State) : State :=
  s.each 8 (fun n t => (t.clr (F.TT_CTL.ARMED n)).setTt n { t.tt n with pin := false })

/-! ### The reference clock (R58, R60, R340, R341, R554) -/

/-- Open samples and gates overlap a loss of REFCLK (R341). -/
def markNoref (s : State) : State :=
  { s with
    noref := true
    norefEnd := none
    samples := s.samples.map (fun e => (e.1, if e.2.start.isSome then { e.2 with noref := true } else e.2))
    regrs := s.regrs.map (fun e => (e.1, if e.2.open_ then { e.2 with noref := true } else e.2)) }

/-- REFCLK_LOSS: the presence detector declares a loss. -/
def refclkLoss (s : State) : State :=
  let s1 := (((s.clr F.REF_STAT.REF_PRESENT).clr F.REF_STAT.REF_LOCK).set1 F.REF_STAT.REF_LOST).set1 F.TB0_STAT.NOREF
  let s2 := (markNoref s1).each s.part.halls (fun h t => t.when (t.g (F.AXIS_CTL.SRC h) = 0) (axisLose h 4))
  (unjoin true s2).emit 234

def execRefclkLoss (s : State) : Host.Outcome State Fault Refusal :=
  .next (if s.is F.REF_STAT.REF_PRESENT then refclkLoss s else s)

/-- REFCLK_PRESENT: 1,024 good edges; NOREF marking ends 1,024 REFCLK periods later. -/
def execRefclkPresent (s : State) : Host.Outcome State Fault Refusal :=
  .next (
    if s.is F.REF_STAT.REF_PRESENT then s
    else { ((s.set1 F.REF_STAT.REF_PRESENT).clr F.TB0_STAT.NOREF) with norefEnd := some (s.cyc + 5120) })

/-- REF_LOOP_LOCK. -/
def execRefLoopLock (s : State) : Host.Outcome State Fault Refusal :=
  .next (if s.is F.REF_STAT.REF_PRESENT then s.set1 F.REF_STAT.REF_LOCK else s)

end Sys2Proof.Machine
end

