-- ==== Sys2Proof/Machine/Faults.lean ====
section
/-! DEFINITION. The fault collector (chapter "Fault collection and reaction"): occurrences, escalation, reactions, the
safe state, fences, admissions, the banister lines and the fault log. -/
namespace Sys2Proof.Machine

/-! ### The end of a boot (R539) -/

def State.modBoot (s : State) (f : BootX → BootX) : State := { s with boot := f s.boot }

/-- BOOT_TIME: the µs since stage 1 began, saturating (R550). -/
def bootTime (s : State) : State := s.p F.BOOT_TIME.US (min ((s.cyc - s.boot.began) / 500) 0xFFFFFFFF)

/-- The boot ends in FAILED at the stage that it is in. -/
def bootFail (s : State) : State :=
  bootTime ((s.p F.BOOT_STAGE.FAIL_AT (s.g F.BOOT_STAGE.STAGE)).p F.BOOT_STAGE.STAGE 15)

/-- A boot is in progress: stages 1 to 7. -/
def State.booting (s : State) : Bool := let st := s.g F.BOOT_STAGE.STAGE; 1 ≤ st && st ≤ 7

/-! ### The banister lines (R478) -/

/-- The conditions of R478 besides RELEASED. -/
def State.banOk (s : State) : Bool :=
  s.g F.BOOT_STAGE.STAGE == 8 && !s.is F.FLT_STATUS.GRAVE && !s.is F.THERM_STAT.SHUTDOWN &&
    (!s.is F.FLT_CTL.BANIN_EN || s.is F.FLT_STATUS.BANIN_SAFE)

/-- RELEASED, which FLT_CTL.RELEASE_SAFE reads as well. -/
def setReleased (b : Bool) (s : State) : State := (s.pb F.FLT_STATUS.RELEASED b).pb F.FLT_CTL.RELEASE_SAFE b

/-- RELEASED clears when a condition fails; the output is safe only while all hold. -/
def banUpdate (s : State) : State :=
  let s1 := s.when (!s.banOk) (setReleased false)
  s1.pb F.FLT_STATUS.BAN_SAFE (s1.is F.FLT_STATUS.RELEASED && s1.banOk)

/-- The source BANIN reports while BANIN_EN = 1 and the pair does not read safe. -/
def baninSource (s : State) : State :=
  if s.is F.FLT_CTL.BANIN_EN && !s.is F.FLT_STATUS.BANIN_SAFE then s.raiseLevel 379 noDetail else s.unraise 379

/-- FLT_CTL written. -/
def fltCtlWrite (v : Word) (s : State) : State :=
  let keep := s.rd R.FLT_CTL &&& 0x80000000#32
  let s1 := banUpdate (baninSource (s.wr R.FLT_CTL ((v &&& 0x7FFFC000#32) ||| keep)))
  if !F.FLT_CTL.RELEASE_SAFE.is v then s1
  else if s1.banOk then banUpdate (setReleased true s1)
  else s1.set1 F.FLT_STATUS.RELEASE_REFUSED

/-- RELEASE_SAFE: FLT_CTL written with RELEASE_SAFE = 1. -/
def execReleaseSafe (v : Word) (s : State) : Host.Outcome State Fault Refusal :=
  .next (if F.FLT_CTL.RELEASE_SAFE.is v then s.host (fltCtlWrite v) else s)

/-- BANIN_UNSAFE: the pair has read not safe, or not complementary, for more than 2 collector cycles. -/
def execBaninUnsafe (s : State) : Host.Outcome State Fault Refusal :=
  .next (banUpdate (baninSource (s.clr F.FLT_STATUS.BANIN_SAFE)))

/-- BANIN_RETURN_SAFE: the pair reads safe again. -/
def execBaninReturnSafe (s : State) : Host.Outcome State Fault Refusal :=
  .next (banUpdate (baninSource (s.set1 F.FLT_STATUS.BANIN_SAFE)))

/-! ### What a source acts on (R469) -/

/-- The units that source `i` acts on at MAJOR, and whether only the hall's serial engine. -/
def srcUnits (p : Part) (i : Nat) : List (Nat × Bool) :=
  let halls := (List.range p.halls).map (fun h => (h, false))
  let groups := (List.range p.groups).map (fun g => (32 + g, false))
  if i < 256 then
    match i % 8 with | 2 => [(i / 8, false)] | 6 => [(i / 8, false)] | 5 => [(i / 8, true)] | 7 => [(i / 8, true)] | _ => []
  else if i < 320 then [(32 + (i - 256) / 4, false)]
  else if 364 ≤ i && i < 368 then [(48 + (i - 364), false)]
  else if i = 368 then [(52, false)]
  else if i = 369 then halls
  else if i = 370 then groups
  else if i = 379 then halls ++ groups
  else []

/-- The class of source `i` is fixed. -/
def srcFixed (i : Nat) : Bool := i == 371 || i == 372 || i == 373 || i == 380 || i == 381

/-- A source that shuts the device down (R462, R477). -/
def srcShutdown (i : Nat) : Bool := i == 371 || i == 372 || i == 373 || i == 380

/-- The sources that internal checks of a unit raise (R469): they come from outside the model. -/
def srcInternal (i : Nat) : Bool :=
  (i < 256 && i % 8 == 7) || (256 ≤ i && i < 320 && i % 4 == 3) || (364 ≤ i && i ≤ 368) || i == 380

/-- The alcoves that a source acts on when its pair, and not its rule, makes it report. -/
def State.srcAlcs (s : State) (i : Nat) : List Nat :=
  if i < 256 && i % 8 = 0 then s.liveAlcs (i / 8)
  else if 256 ≤ i && i < 320 && i % 4 < 2 then s.claimAlcs ((i - 256) / 4)
  else []

/-! ### Fences (R475–R477, R481) -/

/-- The result of FENCE_UNIT and ADMIT_UNIT. -/
def unitRes (u st detail src us : Nat) : List (Nat × Nat × Nat) := [(8, 1, u), (9, 1, st), (10, 1, detail), (12, 2, src), (14, 2, us)]

/-- The ADMIT_UNIT of a warming unit, or of a hall's serial engine alone. -/
def State.admitOf (s : State) (u : Nat) (sub : Bool) : Option AdmitX := s.admits.find? (fun a => a.unit == u && a.sub == sub)

/-- The ADMIT_UNIT ends. -/
def admitEnd (a : AdmitX) (st : Status) (stCode detail src us : Nat) (s : State) : State :=
  { s with admits := s.admits.filter (fun b => b.did != a.did) }.complete a.did st (unitRes a.unit stCode detail src us)

/-- A warming unit is fenced again by source `src`; WARM_US is the time it has warmed, which the model does not measure:
a free value. -/
def admitFail (u : Nat) (sub : Bool) (detail src : Nat) (s : State) : State :=
  match s.admitOf u sub with
  | some a => let (us, t) := s.draw 16; admitEnd a .faulted 1 detail src us t
  | none => s

/-- The bookkeeping and the safe state of a unit that is fenced (R475, R476); its calibration slice is aborted (R488). -/
def unitSafe (u : Nat) (s : State) : State :=
  let s := sliceStop u s
  if u < 32 then startCheck (withClaims (fenceHall u) s)
  else if u < 48 then withClaims (grpFence (u - 32)) s
  else if u < 52 then acqFence (u - 48) s
  else (rsSafe s).set1 F.RS_STAT.FENCE

/-- Unit `u` is fenced with a cause; a fenced unit only gains the cause.  A fence that arrives during a self-test of the
unit waits for its end (R498). -/
def fenceUnit (u : Nat) (cause : FRef) (src : Option Nat) (s : State) : State :=
  let st := s.g (F.UNIT_STATE.STATE u)
  if !unitPresent s.part u || 53 ≤ u then s
  else if s.inTest u then
    let hold (b : BistX) : BistX := if b.unit == u then { b with held := b.held ++ [(cause.lo, src)] } else b
    { s with cal := { s.cal with bists := s.cal.bists.map hold } }
  else
    let s1 := match src with
      | some i => s.when (!s.is (F.UNIT_STATE.C_MAJOR u)) (fun t => t.p (F.UNIT_STATE.SOURCE u) i)
      | none => s
    let s2 := (s1.set1 cause).p (F.UNIT_STATE.STATE u) 1
    if st = 0 then unitSafe u s2 else if st = 2 then admitFail u false 1 (src.getD 0) s2 else s2

/-- The serial engine of an admitted hall is fenced alone. -/
def fenceHse (h : Nat) (src : Nat) (s : State) : State :=
  if s.fenced h || !s.hallOk h then s
  else if s.is (F.UNIT_STATE.HSE_FENCED h) then admitFail h true 1 src s
  else swapAfterSend h (hseAbort h (s.set1 (F.UNIT_STATE.HSE_FENCED h)))

/-- The MAJOR reaction on a unit, or on a hall's serial engine alone. -/
def majorOn (src : Nat) (e : Nat × Bool) (s : State) : State :=
  if e.2 then fenceHse e.1 src s else fenceUnit e.1 (F.UNIT_STATE.C_MAJOR e.1) (some src) s

/-- The MAJOR reaction of source `src` whose rule names the alcoves `alcs`: the units of R469, or where it names none
the halls of those alcoves. -/
def majorReaction (src : Nat) (alcs : List Nat) (s : State) : State :=
  let named := srcUnits s.part src
  let halls := (alcs.map (fun a => (a / 96, false))).eraseDups
  s.over (if named.isEmpty then halls else named) (majorOn src)

/-- Every output takes its safe state (R476), the groups' fence flags aside. -/
def outputsSafe (s : State) : State :=
  let s0 := s.over s.cal.slices (fun x => sliceStop x.unit)
  let s1 := s0.each s.part.halls fenceHall
  let s2 := s1.each s.part.groups (fun g t => (grpFence g t).pb (F.GRP_STAT.FENCE g) (t.fenced (32 + g)))
  let s3 := (s2.each s.part.digs acqOff).when s.part.raster rsSafe
  ttOff (timersOff s3)

/-- A unit is fenced with cause GRAVE, its outputs having been made safe. -/
def graveUnit (u : Nat) (s : State) : State :=
  if !unitPresent s.part u then s
  else
    let s1 := (s.set1 (F.UNIT_STATE.C_GRAVE u)).p (F.UNIT_STATE.STATE u) 1
    if u < 32 then s1
    else if u < 48 then s1.set1 (F.GRP_STAT.FENCE (u - 32))
    else if u < 52 then s1.set1 (F.ACQ_STAT.FENCE (u - 48))
    else s1.set1 F.RS_STAT.FENCE

/-- The GRAVE reaction (R477): every unit is fenced and every output safe, the banister turns not safe, and GRAVE is
latched with its first source; some sources then shut the device down (R462).  During a boot it ends the boot (R539). -/
def graveReaction (src : Nat) (s : State) : State :=
  let s1 := s.over s.admits (fun a t => admitFail a.unit a.sub 1 src t)
  let s2 := outputsSafe (s1.each 53 graveUnit)
  let s3 := s2.when (!s.is F.FLT_STATUS.GRAVE) (fun t => (t.set1 F.FLT_STATUS.GRAVE).p F.FLT_GRAVE_SRC.SOURCE src)
  (banUpdate { s3 with sdPend := s3.sdPend || srcShutdown src }).when s.booting bootFail

/-! ### Occurrences (R470, R471, R473, R474, R479) -/

/-- The core cycles of W ms. -/
def msCycles (w : Nat) : Nat := w * 500000

/-- The arrivals of a source that its window keeps, the newest first, this one included; at most N. -/
def State.fltWindow (s : State) (src : Nat) : List Nat :=
  let n := s.g (F.FLT_CFG.N src)
  let all := s.cyc :: tabGet (fun _ => []) s.flt.arrivals src
  (all.take n).filter (fun c => s.cyc ≤ c + msCycles (s.g (F.FLT_CFG.W src)))

/-- A log entry, or a lost occurrence where the log holds 64 (R479). -/
def logFault (e : FltLog) (s : State) : State :=
  if s.flt.log.length < 64 then
    ({ s with flt := { s.flt with log := s.flt.log ++ [e] } }).p F.FLT_STATUS.LOG_COUNT (s.flt.log.length + 1)
  else s.count F.FLT_GRAVE_SRC.LOST F.FLT_GRAVE_SRC.SAT

/-- The unit that a FAULT record names; one that acts on no single unit has none stated: a free value. -/
def faultUnit (src : Nat) (s : State) : Nat × State :=
  if src < 256 then (src / 8, s)
  else match srcUnits s.part src with | [(u, _)] => (u, s) | _ => s.draw 8

/-- What a reaction at MINOR or above does besides its units and alcoves: the event FAULT, the journal, the vectors. -/
def faultNotice (src cls detail : Nat) (s : State) : State :=
  let (u, s1) := faultUnit src (s.emit 235)
  let s2 := s1.j 0x5E (if src < 256 then src / 8 else 0xFF) src cls (packB [(0, 1, u), (1, 4, detail)])
  let s3 := s2.when (s2.is F.FLT_CTL.IRQ_MINOR) (fun t => t.vecCount (t.g F.FLT_CTL.VEC_MINOR) 1)
  s3.when (2 ≤ cls && s3.is F.FLT_CTL.IRQ_MAJOR) (fun t => t.vecCount (t.g F.FLT_CTL.VEC_MAJOR) 1)

/-- The collector reacts to an occurrence.  WIRE_ANY carries in `detail` the source of the pair and fences what that
source acts on. -/
def collect (x : FltIn) (s : State) : State :=
  let src := x.src
  let win := s.fltWindow src
  let cls := s.g (F.FLT_CFG.CLASS src)
  let n := s.g (F.FLT_CFG.N src)
  let esc := n != 0 && n ≤ win.length && cls < 3
  let rep := if esc then cls + 1 else cls
  let any := src == 381
  let s1 := { s with flt := { s.flt with arrivals := tabSet (fun _ => []) s.flt.arrivals src win } }
  let s2 := (s1.count (F.FLT_SRC_STAT.COUNT src) (F.FLT_SRC_STAT.SAT src)).when esc (fun t => t.set1 (F.FLT_SRC_STAT.ESC src))
  let s3 := logFault ⟨rep, esc, x.wire, if any then x.detail else src, s.tb0ns, if any then noDetail else x.detail, max 1 win.length⟩ s2
  let s4 := s3.when (1 ≤ rep) (fun t => faultNotice src rep (if any then noDetail else x.detail) (t.over x.alcs (fun a u => alcFault a 7 u)))
  let s5 := s4.when (2 ≤ rep) (majorReaction (if any then x.detail else src) x.alcs)
  s5.when (rep = 3) (graveReaction src)

/-- FAULT_OCCURRENCE: the oldest occurrence on its way to the collector, or one of a unit's internal checks (`hw`). -/
def execFaultOccurrence (hw : Option Nat) (s : State) : Host.Outcome State Fault Refusal :=
  .next (if !s.boot.vaux then s else
    match hw with
    | some i => if srcInternal i && sourceOk s.part i && !s.srcMasked i then collect ⟨i, noDetail, false, []⟩ s else s
    | none =>
      match s.flt.input with
      | [] => s
      | x :: rest => collect x { s with flt := { s.flt with input := rest } })

/-- WIRE_FAULT: the lines of a source have agreed for more than 2 collector cycles (R473). -/
def execWireFault (src : Nat) (s : State) : Host.Outcome State Fault Refusal :=
  .next (
    if s.boot.vaux && sourceOk s.part src && !s.srcMasked src && src != 381 && !s.flt.wires.any (fun w => w.1 == src) then
      let s1 := { s with flt := { s.flt with wires := s.flt.wires ++ [(src, s.is (F.FLT_SRC_STAT.PRESENT src))] } }
      let s2 := ((s1.set1 (F.FLT_SRC_STAT.WIRE src)).set1 (F.FLT_SRC_STAT.PRESENT src)).set1 (F.FLT_SRC_STAT.PRESENT 381)
      collect ⟨381, src, true, []⟩ (collect ⟨src, noDetail, true, s.srcAlcs src⟩ s2)
    else s)

/-- WIRE_HEALTHY: the pair has been complementary for 16 collector cycles. -/
def execWireHealthy (src : Nat) (s : State) : Host.Outcome State Fault Refusal :=
  .next (
    match s.flt.wires.find? (fun w => w.1 == src) with
    | some w =>
      let rest := s.flt.wires.filter (fun w => w.1 != src)
      ((({ s with flt := { s.flt with wires := rest } }).pb (F.FLT_SRC_STAT.PRESENT src) w.2)).pb (F.FLT_SRC_STAT.PRESENT 381)
        (!rest.isEmpty)
    | none => s)

/-- FLT_CFG[src] written (R469, R471, R472). -/
def fltCfgWrite (src : Nat) (v : Word) (s : State) : State :=
  let w := (F.FLT_CFG.W src).of v
  if w = 0 || 60000 < w || (srcFixed src && (F.FLT_CFG.CLASS src).of v != s.g (F.FLT_CFG.CLASS src)) then s.set1 F.FLT_STATUS.CFG_ERR
  else
    let t := s.cfgWr (R.FLT_CFG src) (v &&& 0xC0FFFFFF#32)
    { t with flt := { t.flt with arrivals := tabErase src t.flt.arrivals } }

def execFltCfgWrite (src : Nat) (v : Word) (s : State) : Host.Outcome State Fault Refusal :=
  .next (if src < 512 then s.host (fltCfgWrite src v) else s)

/-- A read of FLT_LOG0 takes the oldest entry (R479). -/
def fltLogRead (p : Path) (s : State) : State :=
  match s.flt.log with
  | [] => s.setRead p 0
  | e :: rest =>
    let w := pack [(0, 9, e.src), (27, 1, e.wire.toNat), (28, 1, e.esc.toNat), (29, 2, e.cls), (31, 1, 1)]
    let s1 := ({ s with flt := { s.flt with log := rest } }).p F.FLT_STATUS.LOG_COUNT rest.length
    let s2 := ((s1.wr R.FLT_LOG1 (BitVec.ofNat 32 e.tb0)).wr R.FLT_LOG2 (BitVec.ofNat 32 e.detail)).wr R.FLT_LOG3 (BitVec.ofNat 32 e.count)
    s2.setRead p (BitVec.ofNat 32 w)

def execFltLogRead (path : Path) (s : State) : Host.Outcome State Fault Refusal := .next (s.hostRead path (fltLogRead path))

/-! ### FENCE_UNIT and ADMIT_UNIT (R480–R482) -/

/-- The control store counts as failed: its image was no valid one at this start, or it has failed its check since (R181,
R498). -/
def State.storeFails (s : State) : Bool := s.cal.storeBad || s.boot.imgBad

/-- Source `i` acts on unit `u`, or on a hall's serial engine alone, and is present.  A control store that counts as
failed holds every hall off (R181, R498); a micro fault of a stopped engine
does not hold its hall's admission off: the admission ends it (R174); excess dissipation of a group does (R312). -/
def State.srcHolds (s : State) (u : Nat) (sub : Bool) (i : Nat) : Bool :=
  (srcUnits s.part i).contains (u, sub) &&
    ((s.is (F.FLT_SRC_STAT.PRESENT i) && !(i < 256 && i % 8 = 2 && s.g (F.UC_ENG.STATE (i / 8)) = 2)) ||
      (s.storeFails && i < 256 && i % 8 == 2) ||
      (256 ≤ i && i < 320 && i % 4 = 1 && pdissLimit < s.g (F.GRP_PDISS.MW ((i - 256) / 4))))

/-- The lowest present source that acts on a unit. -/
def State.holding (s : State) (u : Nat) (sub : Bool) : Option Nat := (List.range 382).find? (s.srcHolds u sub)

/-- The checks of R482 up to the fifth, for FENCE_UNIT (`fence`) and ADMIT_UNIT, then `act`. -/
def unitChecks (q : Nat) (r : DescRun) (fence : Bool) (act : Nat → Bool → State → State) (s : State) : State :=
  let d := r.desc
  let u := dUnit d
  let sub := dscBits d 20 0 1 == 1
  let refuse (st : Status) (stCode detail : Nat) (t : State) : State := t.complete r.did st (unitRes u stCode detail 0 0)
  let st := s.g (F.UNIT_STATE.STATE u)
  let off := if sub then (if fence then s.hseFenced u else s.is (F.UNIT_STATE.HSE_FENCED u)) else st != 0
  if 52 < u || dscBits d 20 1 7 != 0 || !dscZeroFrom d 21 || (sub && 32 ≤ u) || dAddr d != 0 || dLen d != 0 then refuse .badop 0 1 s
  else if !unitPresent s.part u then refuse .absent 0 0 s
  else if !r.owns u then refuse .denied 0 3 (s.lastErr q 3 r.qpos)
  else if st = 2 || (s.admitOf u sub).isSome then refuse .busy 0 1 s
  else if fence && off then refuse .ok 1 1 s
  else if !fence && !off then refuse .ok 0 1 s
  else act u sub s

/-- FENCE_UNIT. -/
def fenceUnitCmd (q : Nat) (r : DescRun) (s : State) : State :=
  unitChecks q r true (fun u sub t =>
    let t1 := if sub then fenceHse u 0 t else fenceUnit u (F.UNIT_STATE.C_HOST u) none t
    t1.complete r.did .ok (unitRes u 1 0 0 0)) s

def execFenceUnit (q : Nat) (s : State) : Host.Outcome State Fault Refusal := .next (s.withDesc q 0x0015 (fenceUnitCmd q))

/-- ADMIT_UNIT. -/
def admitUnitCmd (q : Nat) (r : DescRun) (s : State) : State :=
  unitChecks q r false (fun u sub t =>
    if t.is F.FLT_STATUS.GRAVE then t.complete r.did .faulted (unitRes u 1 2 0 0)
    else
      match t.holding u sub with
      | some i => t.complete r.did .faulted (unitRes u 1 1 i 0)
      | none =>
        ({ t with admits := t.admits ++ [AdmitX.mk r.did u sub] } : State).when (!sub) (fun x => x.p (F.UNIT_STATE.STATE u) 2)) s

def execAdmitUnit (q : Nat) (s : State) : Host.Outcome State Fault Refusal := .next (s.withDesc q 0x0016 (admitUnitCmd q))

/-- The level-restore step of a unit that is admitted (R174, R277, R323). -/
def unitRestore (u : Nat) (s : State) : State :=
  if u < 32 then
    let stopped := s.g (F.UC_ENG.STATE u) = 2
    admitHall u (s.when stopped (fun t => (t.p (F.UC_ENG.STATE u) 0).unraise (8 * u + 2)))
  else if u < 48 then
    (s.clr (F.GRP_STAT.FENCE (u - 32))).each 4 (fun j t =>
      let k := 4 * (u - 32) + j
      t.when (t.is (F.SMU_CTL.EN k)) (smuRelease k))
  else if u < 52 then s.clr (F.ACQ_STAT.FENCE (u - 48))
  else s.clr F.RS_STAT.FENCE

/-- WARMING_DONE: unit `u`, or a hall's serial engine alone, has warmed for `us` µs; `pass` tells that BIST-lite and the
restores have passed. -/
def execWarmingDone (u : Nat) (sub pass : Bool) (us : Nat) (s : State) : Host.Outcome State Fault Refusal :=
  .next (
    match s.admitOf u sub with
    | none => s
    | some a =>
      if 2500 < us then s
      else if sub then
        if pass then admitEnd a .ok 0 0 0 us (s.clr (F.UNIT_STATE.HSE_FENCED u)) else admitEnd a .faulted 1 3 0 us s
      else if pass then
        let s1 := s.wr (R.UNIT_STATE u) (s.rd (R.UNIT_STATE u) &&& 0x02000000#32)
        idleAll (admitEnd a .ok 0 0 0 us (unitRestore u (calSettle u s1)))
      else admitEnd a .faulted 1 3 0 us (s.p (F.UNIT_STATE.STATE u) 1))

end Sys2Proof.Machine
end

