-- ==== Sys2Proof/Machine/Thermal.lean ====
section
/-! DEFINITION. Temperature, power and throttling (chapter "Temperature, power and throttling"): the housekeeping round,
the throttle levels, failed sensors, the supply windows, hardware shutdown and restart.  A round's readings come from
the housekeeping ADC: per channel, whether the reading is sound, and its value. -/
namespace Sys2Proof.Machine

def State.modTherm (s : State) (f : ThermX → ThermX) : State := { s with therm := f s.therm }
def State.sens (s : State) (i : Nat) : SensX := tabGet (fun _ => ({} : SensX)) s.therm.sens i
def State.setSens (s : State) (i : Nat) (x : SensX) : State :=
  s.modTherm (fun t => { t with sens := tabSet (fun _ => ({} : SensX)) t.sens i x })
def State.flag (s : State) (k : Nat) : FlagX := tabGet (fun _ => ({} : FlagX)) s.therm.flags k
def State.setFlag (s : State) (k : Nat) (x : FlagX) : State :=
  s.modTherm (fun t => { t with flags := tabSet (fun _ => ({} : FlagX)) t.flags k x })
def State.rail (s : State) (r : Nat) : RailX := tabGet (fun _ => ({} : RailX)) s.therm.rails r
def State.setRail (s : State) (r : Nat) (x : RailX) : State :=
  s.modTherm (fun t => { t with rails := tabSet (fun _ => ({} : RailX)) t.rails r x })

/-- Sensor TSi is present (R450). -/
def sensOk (p : Part) (i : Nat) : Bool :=
  i < 40 && !(p == .s && ((16 ≤ i && i < 32) || (33 ≤ i && i < 36)))

/-- Housekeeping channel `i` is present (R450). -/
def hkOk (p : Part) (i : Nat) : Bool :=
  if i < 40 then sensOk p i else i < 64 && !(p == .s && 59 ≤ i && i < 62)

/-- The zone of a sensor (R448). -/
def sensZone (i : Nat) : Nat := if i < 32 then i / 4 else i - 32

/-- TH1 to TH3 in 0.125 °C. -/
def State.th (s : State) (k : Nat) : Int :=
  8 * (match k with | 1 => s.g F.TH_CFG.TH1 | 2 => s.g F.TH_CFG.TH2 | _ => s.g F.TH_CFG.TH3 : Nat)

/-- A temperature in 0.125 °C is a valid reading (R457). -/
def tempOk (e : Bool × Int) : Bool := e.1 && -320 ≤ e.2 && e.2 ≤ 1200

/-- TEMP_MAX as a signed value. -/
def State.tempMax (s : State) : Int := signed 16 (s.g F.TEMP_MAX.TEMP)

/-- Data of a THERM record (R503). -/
def State.thermData (s : State) : Nat := packB [(0, 1, s.g F.THERM_STAT.LEVEL), (1, 2, s.g F.TEMP_MAX.TEMP), (3, 4, s.g F.HK_ROUND.COUNT)]

/-! ### Throttle levels (R452–R455) -/

/-- The level that the flags and the floor form. -/
def State.levelFormed (s : State) : Nat :=
  max (if (s.flag 3).set then 3 else if (s.flag 2).set then 2 else if (s.flag 1).set then 1 else 0) (s.g F.THERM_CTL.LVL_FLOOR)

/-- What a level change does in the core (R454). -/
def levelEffects (s : State) : State :=
  let s1 := (s.emit 233).when (s.is F.THERM_CTL.IRQ_EN) (fun t => t.vecCount (t.g F.THERM_CTL.VEC) 1)
  s1.j 0x5D 0xFF (s1.g F.TEMP_MAX.IDX) 0 s1.thermData

/-- A thermal park ends: the THERM cause is cleared everywhere (R40, R202). -/
def thermEnd (s : State) : State :=
  idleAll (s.each s.part.halls (fun h t =>
    if t.is (F.HALL_STAT.THERM h) then (t.clr (F.HALL_STAT.THERM h)).each 96 (fun i u => u.clr (F.ALC_STATE.THERM h i)) else t))

/-- The level is formed again and takes effect if it differs (R452, R454). -/
def levelForm (s : State) : State :=
  let new := s.levelFormed
  let old := s.g F.THERM_STAT.LEVEL
  if new = old then s
  else
    let s1 := (s.p F.THERM_STAT.LEVEL new).set1 F.THERM_STAT.LEVEL_CHG
    if !s.awake then s1
    else
      let s2 := levelEffects s1
      if old = 3 then thermEnd s2 else idleAll s2

/-- One round of the machine of A_k (R452). -/
def flagStep (temp th : Int) (x : FlagX) : FlagX :=
  if x.set then
    if temp < th - 24 then (if 8 ≤ x.exit + 1 then {} else { x with exit := x.exit + 1 }) else { x with exit := 0 }
  else if th < temp then (if 2 ≤ x.entry + 1 then { set := true } else { x with entry := x.entry + 1 })
  else { x with entry := 0 }

/-! ### Sensors (R451, R457–R460) -/

/-- A sensor's contribution to TEMP_MAX: its reading, its last valid one, or TH3 + 1 °C once it is failed. -/
def State.contribution (s : State) (i : Nat) : Option Int :=
  let x := s.sens i
  if !sensOk s.part i then none else if x.failed then some (s.th 3 + 8) else x.last

/-- The largest contribution and the lowest sensor that gives it. -/
def State.hottest (s : State) : Option (Nat × Int) :=
  (List.range 40).foldl (fun best i =>
    match s.contribution i, best with
    | some v, some (j, w) => if w < v then some (i, v) else some (j, w)
    | some v, none => some (i, v)
    | none, _ => best) none

/-- Failed sensors, of a zone or of all. -/
def State.failedCount (s : State) (zone : Option Nat) : Nat :=
  ((List.range 40).filter (fun i => (s.sens i).failed && (zone.isNone || zone == some (sensZone i)))).length

/-- The bit of TS_FAIL of a sensor. -/
def tsBit (i : Nat) (b : Bool) (s : State) : State :=
  if i < 32 then s.p F.TS_FAIL_LO.FAIL (natPut (s.g F.TS_FAIL_LO.FAIL) i 1 b.toNat)
  else s.p F.TS_FAIL_HI.FAIL (natPut (s.g F.TS_FAIL_HI.FAIL) (i - 32) 1 b.toNat)

/-- The registers and sources that follow the set of failed sensors (R457, R459). -/
def failedShow (s : State) : State :=
  let held := s.therm.overrides.filter (fun i => (s.sens i).failed)
  let s0 := s.modTherm (fun t => { t with overrides := held })
  let s1 := (s0.p F.THERM_STAT.FAILED (s.failedCount none)).pb F.THERM_STAT.OVERRIDE (!held.isEmpty)
  let s2 := s1.each 8 (fun z t =>
    let two := 2 ≤ t.failedCount (some z)
    let t1 := t.p F.THERM_STAT.ZONE_FENCE (natPut (t.g F.THERM_STAT.ZONE_FENCE) z 1
      (two && (List.range 4).any (fun j => t.hallOk (4 * z + j))).toNat)
    t1.each 4 (fun j u =>
      let h := 4 * z + j
      if !u.hallOk h then u else if two then u.raiseLevel (8 * h + 6) noDetail else u.unraise (8 * h + 6)))
  if 5 ≤ s2.failedCount none then s2.raiseLevel 372 noDetail else s2.unraise 372

/-- One sensor's reading of a round. -/
def sensRound (i : Nat) (e : Bool × Int) (s : State) : State :=
  if !sensOk s.part i then s
  else
    let x := s.sens i
    let ok := tempOk e
    let y : SensX :=
      { x with bad := if ok then 0 else x.bad + 1, good := if ok then min (x.good + 1) 8 else 0, last := if ok then some e.2 else x.last }
    let fails := !x.failed && 2 ≤ y.bad
    let s1 := s.setSens i { y with failed := x.failed || fails }
    if fails then ((tsBit i true s1).set1 F.THERM_STAT.SENSOR_FAIL).raiseLevel (320 + i) i else s1

/-- A reading enters HK_DATA (R449, R468). -/
def hkStore (i : Nat) (e : Bool × Int) (s : State) : State :=
  let ok := hkOk s.part i && (if i < 40 then tempOk e else e.1)
  let s1 := (s.pb (F.HK_DATA.VALID i) ok).p (F.HK_DATA.VALUE i) (if hkOk s.part i then unsigned 16 e.2 else 0)
  s1.pb (F.HK_DATA.FAILED i) (i < 40 && (s1.sens i).failed)

/-! ### Supplies (R466, R467) -/

/-- One rail's readings of a round: its window and its part of M, in µW.  An invalid current counts as the largest valid
one of the last 8 rounds (R466); an invalid voltage as the last valid one (assumption 148). -/
def railRound (r : Nat) (v c : Bool × Int) (s : State) : Nat × State :=
  let x := s.rail r
  let lo := signed 16 (s.g (F.RAIL_WIN.LO r))
  let hi := signed 16 (s.g (F.RAIL_WIN.HI r))
  let out := v.1 && (v.2 < lo || hi < v.2)
  let ok := v.1 && c.1
  let volt := if v.1 then v.2 else x.volt
  let cur := if ok then c.2.toNat else x.cur.foldl max 0
  (volt.natAbs * (4 * cur), s.setRail r {
    out := if out then x.out + 1 else 0, cur := ((if c.1 then c.2.toNat else 0) :: x.cur).take 8, volt := volt })

/-- The source of a rail (R467). -/
def railSource (r : Nat) : Nat := if r = 5 || r = 6 then 369 else if r = 7 || r = 8 then 370 else 371

/-- The supply sources follow their rails, and from READY onward those of the analogue supplies PGOOD_IN (R537). -/
def railFaults (s : State) : State :=
  s.over [369, 370, 371] (fun src t =>
    if (List.range 9).any (fun r => railSource r == src && decide (2 ≤ (t.rail r).out)) ||
        (src != 371 && t.inService && !t.boot.pgood) then t.raiseLevel src noDetail
    else t.unraise src)

/-- Every rail lies within its window, by the readings of the last round. -/
def State.railsIn (s : State) : Bool :=
  (List.range 9).all (fun r =>
    let v := signed 16 (s.g (F.HK_DATA.VALUE (40 + 2 * r)))
    s.is (F.HK_DATA.VALID (40 + 2 * r)) && decide (signed 16 (s.g (F.RAIL_WIN.LO r)) ≤ v) &&
      decide (v ≤ signed 16 (s.g (F.RAIL_WIN.HI r))))

/-- What the end of a round means for stage 6 (R539): it may end after a round that began with PGOOD_IN high and had
every rail in its window. -/
def bootRound (s : State) : State :=
  let b := s.boot
  let s1 := s.modBoot (fun x => { x with roundOk := b.roundPg && s.railsIn, roundPg := b.pgood })
  if s.g F.BOOT_STAGE.STAGE = 6 then
    (s1.pb F.BOOT_ERR.RAIL_WAIT (!s.railsIn)).pb F.BOOT_ERR.PGOOD_WAIT (!b.roundPg)
  else s1

/-- Housekeeping rounds run from stage 6 on (R539), in FAILED if the boot had come so far. -/
def State.hkRuns (s : State) : Bool :=
  let st := s.g F.BOOT_STAGE.STAGE
  s.boot.vaux && 6 ≤ st && (st != 15 || 6 ≤ s.g F.BOOT_STAGE.FAIL_AT)

/-- All rails: M in units of 10 mW. -/
def railsRound (data : List (Bool × Int)) (s : State) : State :=
  let get (i : Nat) : Bool × Int := data.getD i (false, 0)
  let (uw, s1) := (List.range 9).foldl (fun (a : Nat × State) r =>
    let (p, t) := railRound r (get (40 + 2 * r)) (get (41 + 2 * r)) a.2
    (a.1 + p, t)) (0, s)
  railFaults (s1.p F.SCHED_MEAS.VALUE (min (uw / 10000) 65535))

/-- HK62 and HK63 against their factory windows (R459). -/
def adcCheck (a b : Bool) (s : State) : State :=
  let n := if a then 0 else s.therm.adcBad + 1
  let m := if b then 0 else s.therm.adcBad2 + 1
  let s1 := s.modTherm (fun t => { t with adcBad := n, adcBad2 := m })
  if 2 ≤ n || 2 ≤ m then s1.raiseLevel 373 noDetail else s1.unraise 373

/-! ### Shutdown and restart (R461–R465) -/

/-- SD_COMPARATOR_TRIP: the comparator of a sensor in service trips. -/
def execSdComparatorTrip (i : Nat) (s : State) : Host.Outcome State Fault Refusal :=
  .next (if s.boot.vaux && sensOk s.part i && !(s.sens i).failed then { s with sdPend := true } else s)

/-- THERMAL_SHUTDOWN. -/
def thermalShutdown (s : State) : State :=
  let s1 := outputsSafe s
  let s2 := (s1.set1 F.THERM_STAT.SHUTDOWN).set1 F.THERM_STAT.SD_SEEN
  banUpdate { s2.modTherm (fun t => { t with sdRound := true, cool := none, sdLevel := s.g F.THERM_STAT.LEVEL, sdTb1 := natBits s.tb1 16 48 }) with
    sdPend := false }

def execThermalShutdown (s : State) : Host.Outcome State Fault Refusal :=
  .next (if s.sdPend && s.awake then thermalShutdown s else s)

/-- A shutdown or restart record, stamped with a latched TB1 (R464). -/
def jShutdown (arg stamp : Nat) (s : State) : State :=
  s.jput [{ s.jrec 0x5D 0xFF (s.g F.TEMP_MAX.IDX) arg s.thermData with axis := stamp }]

/-- Every descriptor in execution completes FAULTED (R464): what it was doing ends, and a port whose DMA ran opens again
(R260). -/
def runsFault (s : State) : State :=
  let (v, s) := s.draw 8
  let s := replayStop .faulted v s
  let s1 := { s with
    stopRuns := [], startRuns := [], admits := [], orphans := []
    flights := s.flights.map (fun (e : Nat × FlightX) => (e.1, if e.2.dma.isSome then {} else e.2))
    halls := s.halls.map (fun (e : Nat × HallX) => (e.1, { e.2 with loading := [] })) }
  let s2 := s1.each 64 (fun q t =>
    match (t.queue q).run with
    | some r => (t.modQueue q (fun x => { x with fence := none })).endDesc r.did r.desc .faulted
    | none => t)
  let s3 := s2.over (s2.ports.filter (fun e => e.2.dma.isSome)) (fun e t =>
    ({ t with ports := tabSet (fun _ => ({} : PortX)) t.ports e.1 { e.2 with dma := none } } : State).clr (F.PORT_STAT.DMA e.1))
  match s3.cal.run with | some r => calRunEnd r s3 | none => s3

/-- The device restarts into COOLED: every present hall is fenced (R464). -/
def restart (s : State) : State :=
  let level := s.g F.THERM_STAT.LEVEL
  let s1 := ((s.clr F.THERM_STAT.SHUTDOWN).set1 F.THERM_STAT.COOLED).set1 F.RESET_CAUSE.THERMAL
  let s2 := runsFault <| s1.each s.part.halls (fun h t =>
    let t1 := (t.set1 (F.UNIT_STATE.C_SHUTDOWN h)).p (F.UNIT_STATE.STATE h) 1
    (t1.set1 (F.HALL_STAT.FENCE h)).each 96 (fun i u =>
      u.when (alcReady ≤ u.alcSt h i && u.alcSt h i ≤ alcParked) (fun w => w.set1 (F.ALC_STATE.FENCE h i))))
  let s3 := jShutdown 5 (natBits s.tb1 16 48) (jShutdown 4 s.therm.sdTb1 (s2.p F.BOOT_STAGE.STAGE 9))
  banUpdate (s3.when (s.therm.sdLevel != level) (fun t => if s.therm.sdLevel = 3 then thermEnd (levelEffects t) else levelEffects t))

/-- Length of a round in 10 µs, by the level at its start (R449). -/
def roundLength (level : Nat) : Nat := if level = 3 then 512 else if level = 2 then 256 else 128

/-- The cool period after a round (R464): only rounds begun after the shutdown count. -/
def coolRound (s : State) : State :=
  let cool := (List.range 40).all (fun i =>
    !sensOk s.part i || !s.is (F.HK_DATA.VALID i) || decide (signed 16 (s.g (F.HK_DATA.VALUE i)) < 8 * (s.g F.TH_CFG.TRST : Int)))
  let n := if cool && !s.therm.sdRound then some (s.therm.cool.getD 0 + roundLength s.therm.roundLevel) else none
  let s1 := s.modTherm (fun t => { t with cool := n, sdRound := false })
  if 25000 ≤ n.getD 0 && !s.is F.FLT_STATUS.GRAVE then restart (s1.modTherm (fun t => { t with cool := none })) else s1

/-! ### The end of a round (R449) -/

/-- The flags after a round: the override of R458, or the machine of R452. -/
def flagsRound (newly : List Nat) (prev : Nat) (s : State) : State :=
  let hit := newly.contains prev && s.therm.roundLevel != 0
  if hit then
    (s.modTherm (fun t => { t with overrides := t.overrides ++ [prev] })).over [1, 2, 3] (fun k t => t.setFlag k { set := true })
  else s.over [1, 2, 3] (fun k t => t.setFlag k (flagStep t.tempMax (t.th k) (t.flag k)))

/-- HK_ROUND_END. -/
def hkRoundEnd (data : List (Bool × Int)) (s : State) : State :=
  let prev := s.g F.TEMP_MAX.IDX
  let get (i : Nat) : Bool × Int := data.getD i (false, 0)
  let s1 := s.each 40 (fun i t => sensRound i (get i) t)
  let newly := (List.range 40).filter (fun i => (s1.sens i).failed && !(s.sens i).failed)
  let s2 := (s1.each 64 (fun i t => hkStore i (get i) t)).p F.HK_ROUND.COUNT (s.g F.HK_ROUND.COUNT + 1)
  let s3 := match s2.hottest with
    | some (i, v) => (s2.p F.TEMP_MAX.IDX i).p F.TEMP_MAX.TEMP (unsigned 16 v)
    | none => s2
  let s4 := flagsRound newly prev s3
  let s5 := s4.over newly (fun i t => t.when t.awake (fun u => u.j 0x5D 0xFF i 2 u.thermData))
  let s6 := adcCheck (get 62).1 (get 63).1 (railsRound data (failedShow s5))
  let s7 := levelForm s6
  let s8 := if s7.awake then idleAll s7 else coolRound s7
  bootRound (s8.modTherm (fun t => { t with roundLevel := s8.g F.THERM_STAT.LEVEL }))

def execHkRoundEnd (data : List (Bool × Int)) (s : State) : Host.Outcome State Fault Refusal :=
  .next (if data.length = 64 && s.hkRuns then hkRoundEnd data s else s)

/-! ### Host writes (R452, R453, R460, R461, R464) -/

/-- THERM_CTL written: the floor acts at once. -/
def thermCtlWrite (v : Word) (s : State) : State := levelForm (s.wr R.THERM_CTL (v &&& 0xFF000003#32))

def execLvlFloorWrite (v : Word) (s : State) : Host.Outcome State Fault Refusal := .next (s.hostTh (thermCtlWrite v))

/-- TH_CFG written. -/
def thCfgWrite (v : Word) (s : State) : State :=
  let tsd := s.g F.TSD_CFG.TSD
  if F.TH_CFG.TH1.of v < F.TH_CFG.TH2.of v && F.TH_CFG.TH2.of v < F.TH_CFG.TH3.of v && F.TH_CFG.TH3.of v < tsd &&
      F.TH_CFG.TRST.of v < tsd then s.cfgWr R.TH_CFG v
  else s.set1 F.THERM_STAT.CFG_ERR

def execThCfgWrite (v : Word) (s : State) : Host.Outcome State Fault Refusal := .next (s.hostTh (thCfgWrite v))

/-- TSD_CFG written: at most 125, above TH3 and TRST. -/
def tsdWrite (v : Word) (s : State) : State :=
  let tsd := F.TSD_CFG.TSD.of v
  if tsd ≤ 125 && s.g F.TH_CFG.TH3 < tsd && s.g F.TH_CFG.TRST < tsd then s.cfgWr R.TSD_CFG (v &&& 0xFF#32)
  else s.set1 F.THERM_STAT.CFG_ERR

def execTsdWrite (v : Word) (s : State) : Host.Outcome State Fault Refusal := .next (s.hostTh (tsdWrite v))

/-- TS_FAIL_LO or TS_FAIL_HI written: the named sensors that have read valid for 8 rounds return to service. -/
def tsFailWrite (hi : Bool) (v : Word) (s : State) : State :=
  let named := (List.range 40).filter (fun i =>
    (hi == decide (32 ≤ i)) && natBits v.toNat (i % 32) 1 == 1 && (s.sens i).failed && 8 ≤ (s.sens i).good)
  if named.isEmpty then s
  else
    failedShow (s.over named (fun i t =>
      let t1 := (tsBit i false (t.setSens i { t.sens i with failed := false })).clr (F.HK_DATA.FAILED i)
      (t1.unraise (320 + i)).when t1.awake (fun u => u.j 0x5D 0xFF i 3 u.thermData)))

def execTsReturn (hi : Bool) (v : Word) (s : State) : Host.Outcome State Fault Refusal := .next (s.hostTh (tsFailWrite hi v))

/-- THERM_STAT.SD_SEEN cleared: BOOT_STAGE returns from COOLED to READY. -/
def sdSeenClear (s : State) : State :=
  let s1 := s.clr F.THERM_STAT.SD_SEEN
  if s.g F.BOOT_STAGE.STAGE = 9 then banUpdate ((s1.p F.BOOT_STAGE.STAGE 8).clr F.THERM_STAT.COOLED) else s1

/-- SD_SEEN cleared by the host; a clear in the core cycle that set it leaves it set (R14). -/
def execSdSeenClear (s : State) : Host.Outcome State Fault Refusal :=
  .next (s.hostTh (fun t => t.when (!t.isFresh F.THERM_STAT.SD_SEEN) sdSeenClear))

/-- RAIL_WIN[r] written. -/
def railWinWrite (r : Nat) (v : Word) (s : State) : State := s.wr (R.RAIL_WIN r) v

end Sys2Proof.Machine
end

