-- ==== Sys2Proof/Machine/Calib.lean ====
section
/-! DEFINITION. The calibration and BIST controller (chapter "Calibration and built-in self-test"): gaps, slices, walks,
CAL_RUN, the image, CAL_SAVE and CAL_RESTORE, INDEX_GAP and self-tests. -/
namespace Sys2Proof.Machine

/-! ### Items (R484) -/

/-- Slice length in core cycles, channels per slice, tolerance in taps. -/
def itemSlice (i : Nat) : Nat := match i with | 0 => 1000 | 1 => 2500 | 2 => 1500 | 3 => 1000 | _ => 100000
def itemChans (i : Nat) : Nat := match i with | 0 => 8 | 1 => 8 | 2 => 16 | 3 => 32 | _ => 1
def itemTol (i : Nat) : Int := if i = 3 then 3 else 2

/-- The trim range of a correction. -/
def trimOk (a : Nat) (v : Int) : Bool :=
  let lim : Int := match calItem a with
    | 1 => if (a % 0x80 - 8) % 4 = 0 then 1023 else 511
    | 2 => 511
    | 3 => 32767
    | _ => 4095
  if calItem a = 0 then decide (0 ≤ v ∧ v ≤ 4095) else decide (-lim ≤ v ∧ v ≤ lim)

/-- The corrections that an item measures on channel `c` of unit `u`: for the ranges, architecture, span or current range
in use. -/
def State.itemAddrs (s : State) (u item c : Nat) : List Nat :=
  let b := calHallRec u c
  let r := s.g (F.LVL_TERM.VRANGE u c)
  match item with
  | 0 => [b]
  | 1 => (List.range 5).flatMap (fun k => let o := b + 8 + 40 * (s.ch u c).arch + 8 * k + 4 * r; [o, o + 2])
  | 2 => [b + 88 + 2 * r, b + 92 + 2 * r]
  | 3 => [b + 4]
  | _ =>
    let k := 4 * (u - 32) + c
    let x := (s.smu k).use
    let o := calSmuRec k + (if x.mode = 0 then 8 * x.span else 48 + 8 * x.irange)
    [o, o + 2, o + 4, o + 6]

/-- Channels of a unit. -/
def unitChans (u : Nat) : Nat := if u < 32 then 32 else 4

/-- The channels of a mask. -/
def maskList (n m : Nat) : List Nat := (List.range n).filter (fun c => natBits m c 1 == 1)

/-- Every correction of unit `u`, in address order (R495). -/
def unitCorrections (u : Nat) : List Nat :=
  if u < 32 then
    (List.range 32).flatMap (fun c => let b := calHallRec u c; b :: (b + 4) :: (List.range 44).map (fun k => b + 8 + 2 * k))
  else (List.range 4).flatMap (fun j => (List.range 56).map (fun k => calSmuRec (4 * (u - 32) + j) + 2 * k))

/-! ### Gaps (R487) -/

/-- The gap of a unit: the channels available, whether its length is known, and the core cycles left where it is known to
end. -/
structure Gap where
  chans : Nat
  known : Bool
  left : Option Nat
  deriving DecidableEq, Repr

/-- Core cycles left of the unit's INDEX_GAP window. -/
def State.winLeft (s : State) (u : Nat) : Option Nat := (s.cal.wins.find? (fun w => w.1 == u)).map (fun w => w.2 - s.cyc)

/-- Core cycles that `n` treads of hall `h` last. -/
def State.treadCycles (s : State) (h n : Nat) : Nat := n * s.prediv h * 500000000 / max 1 (s.g (F.FOLLOW_FREQ.FREQ h))

/-- The channel slots whose driver is off and whose hold code does not drive. -/
def State.quietChans (s : State) (h b : Nat) : Nat :=
  pack ((List.range 32).map (fun c =>
    let k := s.holdAt h c
    (c, 1, if !(tabGet (fun _ => ({} : DriveSt)) (s.bank h b).drive c).on && !([0x0, 0x1, 0x9, 0xE, 0xD].contains k) then 1 else 0)))

def State.hallGap (s : State) (h : Nat) : Option Gap :=
  let all := 0xFFFFFFFF
  let x := (s.hl h).hold
  if s.fenced h then none
  else if !s.hallRun h then
    if s.is F.CAL_CTL.IDLE_GAP then some ⟨all, true, none⟩
    else (s.winLeft h).map (fun n => ⟨all, true, some n⟩)
  else
    match s.liveBank h with
    | none => some ⟨all, false, none⟩
    | some b =>
      match x.release with
      | some t => some ⟨all, true, some (s.treadCycles h (t - s.pos h))⟩
      | none =>
        if x.stall.isSome || x.seg || x.head || x.brw || x.sync.isSome then some ⟨s.quietChans h b, false, none⟩ else none

def State.grpGap (s : State) (g : Nat) : Option Gap :=
  if !s.claimed g && !s.fenced (32 + g) && (List.range 4).all (fun j => !(s.smu (4 * g + j)).closed) then some ⟨0xF, true, none⟩
  else (s.winLeft (32 + g)).map (fun n => ⟨0xF, true, some n⟩)

def State.gap (s : State) (u : Nat) : Option Gap := if u < 32 then s.hallGap u else s.grpGap (u - 32)

/-- A slice of an item fits the gap, or CAL_CTL.OPPORTUNE permits it (R486, R487). -/
def State.gapFits (s : State) (x : Gap) (item : Nat) : Bool :=
  if x.known then (match x.left with | some n => itemSlice item ≤ n | none => true) else s.is F.CAL_CTL.OPPORTUNE

/-- A contact test, a transfer between host and die, or a parametric measurement runs on the hall (R488). -/
def State.hallMeasures (s : State) (h : Nat) : Bool :=
  (s.peh h).touch.isSome || (s.peh h).ppPhase != 0 || (s.hse h).xfer.isSome

/-! ### Slices (R486, R488) -/

/-- The part of the CAL_RUN that measures an item on a unit and is not done. -/
def State.calPart (s : State) (u item : Nat) : Option CalPart :=
  s.cal.run.bind (fun r => r.parts.find? (fun p => p.unit == u && p.item == item && !p.done))

/-- CAL_SLICE_START: the controller measures `item` on the channels `chans` of unit `u`. -/
def execCalSliceStart (u item chans : Nat) (s : State) : Host.Outcome State Fault Refusal :=
  .next (
    match s.calPart u item, s.gap u with
    | some p, some x =>
      let l := maskList 32 chans
      if s.awake && chans != 0 && chans < 2 ^ unitChans u && l.length ≤ itemChans item && chans &&& p.mask == 0 &&
          chans &&& x.chans == chans && (s.sliceOf u).isNone && !(u < 32 && s.hallMeasures u) && !s.inTest u && s.gapFits x item then
        sliceSwitch u chans true { s with cal := { s.cal with slices := s.cal.slices ++ [SliceX.mk u item chans false] } }
      else s
    | _, _ => s)

/-- A CAL_HALL or CAL_GRP bit field of a unit. -/
def calUnitBit (u : Nat) (fh fg : Nat → FRef) (item : Nat) (b : Bool) (s : State) : State :=
  let f := if u < 32 then fh u else fg (u - 32)
  s.wr f.addr (fieldPut (f.lo + item) 1 b.toNat (s.rd f.addr))

/-- An item is measured for a unit: it passes and sets its targets, or fails and leaves them (R484, R494). -/
def partDone (p : CalPart) (s : State) : State :=
  let changed := p.ok && p.targets.any (fun e => s.calTarget e.1 != e.2)
  let s1 := s.when p.ok (fun t => t.over p.targets (fun e => setTarget e.1 e.2))
  let s2 := calUnitBit p.unit F.CAL_HALL.PASS F.CAL_GRP.PASS p.item p.ok
    (calUnitBit p.unit F.CAL_HALL.FAIL F.CAL_GRP.FAIL p.item (!p.ok)
      (calUnitBit p.unit F.CAL_HALL.DEFER F.CAL_GRP.DEFER p.item false s1))
  { s2 with cal := { s2.cal with run := s2.cal.run.map (fun r => { r with changed := r.changed || changed }) } }

/-- A target from a correction: the board delay is added to DESKEW and TDC (R484).  DESKEW and BOARD count 0.5 ps; the
half tap of a TDC target is rounded by a free choice. -/
def boardTarget (a : Nat) (v : Int) (s : State) : Int × State :=
  let board := signed 16 (s.rdMem 100 (a - a % 0x80 + 2) 2)
  match calItem a with
  | 0 => (v + board, s)
  | 3 => let (r, t) := s.draw 1; (v + (board + (r : Int)) / 2, t)
  | _ => (v, s)

/-- One correction measured twice, with the value found: whether it passes, and its target. -/
def judge (e : Nat × Int × Int × Int) (acc : Bool × List (Nat × Int) × State) : Bool × List (Nat × Int) × State :=
  let (a, m1, m2, v) := e
  let (ok, ts, s) := acc
  let (t, s1) := boardTarget a v s
  (ok && trimOk a t && decide (m1 - m2 ≤ itemTol (calItem a)) && decide (m2 - m1 ≤ itemTol (calItem a)), ts ++ [(a, t)], s1)

/-- What a slice of the CAL_RUN has measured. -/
def sliceMeasured (x : SliceX) (ms : List (Int × Int × Int)) (p : CalPart) (s : State) : State :=
  let as := (maskList 32 x.chans).flatMap (s.itemAddrs x.unit x.item)
  let (ok, ts, s1) := (as.zip ms).foldl (fun acc e => judge e acc) (p.ok, p.targets, s)
  let mask := p.mask ||| x.chans
  let p1 : CalPart := { p with mask := mask, ok := ok, targets := ts, done := mask == 2 ^ unitChans x.unit - 1 }
  let put (q : CalPart) : CalPart := if q.unit == p.unit && q.item == p.item then p1 else q
  let s2 : State := { s1 with cal := { s1.cal with run := s1.cal.run.map (fun r => { r with parts := r.parts.map put }) } }
  if p1.done then partDone p1 s2 else s2

/-- What waited for a slice of a hall proceeds (R487, R488). -/
def sliceRelease (h : Nat) (delayed : Bool) (s : State) : State :=
  let s1 := s.when (s.peh h).ppWait (ppGo h)
  startCheck (s1.when delayed (fun t => idleDecide h (swapAfterSend h (tryStart h t))))

/-- The slice of a unit ends and its channels are switched back: their trip paths are tested as they stand (R290). -/
def sliceEnd (x : SliceX) (s : State) : State :=
  let s1 := sliceStop x.unit s
  if x.unit < 32 then
    sliceRelease x.unit x.delayed (s1.over (maskList 32 x.chans) (peTest x.unit))
  else s1

/-- CAL_SLICE_END, after the recovery: for each correction measured, in order of channel and address, its two
measurements and the value found. -/
def execCalSliceEnd (u : Nat) (ms : List (Int × Int × Int)) (s : State) : Host.Outcome State Fault Refusal :=
  .next (
    match s.sliceOf u with
    | some x =>
      match s.calPart u x.item with
      | some p =>
        if ms.length == ((maskList 32 x.chans).flatMap (s.itemAddrs u x.item)).length then sliceEnd x (sliceMeasured x ms p s) else s
      | none => sliceEnd x s
    | none => s)

/-! ### Walks (R490) -/

/-- The tread at which a walk step of a hall falls: that of its last landing while it plays flights, else the present
one. -/
def State.stepTread (s : State) (h : Nat) : Nat :=
  let x := s.hl h
  if x.landed then x.hold.tread else if x.play.isSome then x.startTread else s.pos h

/-- CAL_STEP treads, or cycles of REFCLK while the axis is OFF or ACQUIRING, have passed since the previous step. -/
def State.stepDue (s : State) (h : Nat) : Bool :=
  match s.cal.steps.find? (fun e => e.1 == h) with
  | none => true
  | some (_, tread, cyc) =>
    let n := s.g F.CAL_CTL.CAL_STEP
    if s.axRuns h || s.playing h then n ≤ (s.stepTread h + 2 ^ 48 - tread) % 2 ^ 48 else 5 * n ≤ s.cyc - cyc

/-- WALK_STEP on unit `u`: a hall's walking corrections move one tap, and its TDC targets are applied whole; the targets
of an SMU group are applied whole at the force update at which the command stands.  A warming unit walks without waiting
(R491). -/
def calWalk (u : Nat) (s : State) : State :=
  if s.g (F.UNIT_STATE.STATE u) = 2 then calStepAll u true [0, 1, 2, 3, 4] s
  else if 32 ≤ u then calStepAll u false [4] s
  else
    let s1 := calStepAll u false [3] s
    if s1.stepDue u && s1.cal.pend.any (fun a => calUnit a == u && calItem a != 3) then
      let s2 := calStepAll u false [0, 1, 2] s1
      { s2 with cal := { s2.cal with
        steps := (s2.cal.steps.filter (fun e => e.1 != u)) ++ [(u, s1.stepTread u, s1.cyc)] } }
    else s1

def execWalkStep (u : Nat) (s : State) : Host.Outcome State Fault Refusal :=
  .next (if u < 48 && unitPresent s.part u && s.awake && s.g (F.UNIT_STATE.STATE u) != 1 then calWalk u s else s)

/-! ### CAL_RUN (R493, R494) -/

/-- Some unit that masks name is absent. -/
def State.unitsAbsent (s : State) (us : List Nat) : Bool := us.any (fun u => !unitPresent s.part u)

/-- A CAL_RUN completion that a check sets. -/
def calRunFail (r : DescRun) (st : Status) (detail : Nat) (s : State) : State := s.complete r.did st [(11, 1, detail)]

/-- CAL_RUN. -/
def calRun (q : Nat) (r : DescRun) (s : State) : State :=
  let d := r.desc
  let items := dscBits d 20 0 5
  let halls := dsc d 24 4
  let groups := dsc d 28 2
  let us := maskUnits d 24 (some 28)
  let low := items % 16 != 0
  let smu := 16 ≤ items
  if dUnit d != 0 || dAddr d != 0 || dLen d != 0 || dscBits d 20 5 3 != 0 || dsc d 21 1 != 0 || !dscZeroFrom d 30 || items = 0 ||
      dsc d 22 2 = 0 || low != (halls != 0) || smu != (groups != 0) then calRunFail r .badop 1 s
  else if s.unitsAbsent us then calRunFail r .absent 1 s
  else if !r.ownsAll (53 :: us) then calRunFail r .denied 3 (s.lastErr q 3 r.qpos)
  else if s.is F.CAL_STAT.RUNNING || s.is F.CAL_STAT.RESTORING then calRunFail r .busy 1 s
  else
    let part (i u : Nat) : CalPart := { item := i, unit := u }
    let parts := (List.range 4).flatMap (fun i => if natBits items i 1 = 1 then (us.filter (· < 32)).map (part i) else []) ++
      (us.filter (32 ≤ ·)).map (part 4)
    ({ s with cal := { s.cal with run := some ⟨r.did, items, halls, groups, parts, false, s.tb1 + dsc d 22 2 * 1000000 * 65536⟩ } } : State).set1 F.CAL_STAT.RUNNING

def execCalRun (q : Nat) (s : State) : Host.Outcome State Fault Refusal := .next (s.withDesc q 0x000B (calRun q))

/-- The completion of a CAL_RUN: every part is measured, or its deadline has come and the rest is deferred. -/
def calRunDone (r : CalRunX) (s : State) : State :=
  let failed := r.parts.filter (fun p => p.done && !p.ok)
  let late := r.parts.filter (fun p => !p.done)
  let s0 := s.over s.cal.slices (fun x t => sliceEnd x t)
  let s2 := calRunEnd r s0
  let st := if !failed.isEmpty then Status.faulted else if !late.isEmpty then .deferred else .ok
  let bad := maskOf ((failed ++ late).map (·.item))
  let un (l : List CalPart) (lo : Nat) := maskOf (((l.map (·.unit)).filter (fun u => lo ≤ u && u < lo + 32)).map (· - lo))
  s2.complete r.did st [(8, 1, r.items &&& (31 - bad)), (9, 1, maskOf (failed.map (·.item))), (10, 1, maskOf (late.map (·.item))),
    (11, 1, if failed.isEmpty then 0 else 4), (12, 4, un (failed.filter (·.unit < 32)) 0), (16, 4, un (late.filter (·.unit < 32)) 0),
    (20, 2, un failed 32), (22, 2, un late 32), (24, 4, s2.g F.CAL_GEN.GEN), (28, 4, s2.tb0ns)]

/-- CAL_RUN_DONE: every part is measured, or DEADLINE ms have passed on TB1 since the descriptor started (R493, R494). -/
def execCalRunDone (s : State) : Host.Outcome State Fault Refusal :=
  .next (match s.cal.run with
    | some r => if s.awake && (r.parts.all (·.done) || decide (r.due ≤ s.tb1)) then calRunDone r s else s
    | none => s)

/-! ### INDEX_GAP (R489) -/

/-- INDEX_GAP.  Its result layout has no DETAIL. -/
def indexGap (q : Nat) (r : DescRun) (s : State) : State :=
  let d := r.desc
  let us := maskUnits d 20 (some 24)
  let dur := dsc d 28 4
  if dUnit d != 0 || dAddr d != 0 || dLen d != 0 || dsc d 26 2 != 0 || !dscZeroFrom d 32 || dur = 0 || 10000000 < dur || us.isEmpty then
    s.complete r.did .badop []
  else if s.unitsAbsent us then s.complete r.did .absent []
  else if !r.ownsAll (53 :: us) then (s.lastErr q 3 r.qpos).complete r.did .denied []
  else
    let off (u : Nat) := s.fenced u || (if u < 32 then s.hallRun u else s.claimed (u - 32))
    let go := us.filter (fun u => !off u)
    let no := us.filter off
    let s1 := s.over go (fun u t => { winClose u t with cal := { (winClose u t).cal with
      wins := (winClose u t).cal.wins ++ [(u, s.cyc + 500 * dur)] } })
    let m (l : List Nat) := maskOf (l.filter (· < 32))
    let g (l : List Nat) := maskOf ((l.filter (32 ≤ ·)).map (· - 32))
    s1.complete r.did .ok [(8, 4, m go), (12, 4, m no), (16, 2, g go), (18, 2, g no), (20, 4, s.tb0ns)]

def execIndexGap (q : Nat) (s : State) : Host.Outcome State Fault Refusal := .next (s.withDesc q 0x0009 (indexGap q))

/-- INDEX_GAP_CLOSE: the window of a unit closes DURATION µs after it opened. -/
def execIndexGapClose (u : Nat) (s : State) : Host.Outcome State Fault Refusal :=
  .next (if s.winLeft u == some 0 then winClose u s else s)

/-! ### The image (R495, R496) -/

/-- Addresses of the image that are neither the header nor reserved, on a part. -/
def calNamed (p : Part) (a : Nat) : Bool :=
  if 0x1000 ≤ a && a < 0x21000 then (a - 0x1000) / 0x1000 < p.halls && a % 0x80 < 96
  else if 0x21000 ≤ a && a < 0x23000 then (a - 0x21000) / 0x80 < p.smus && a % 0x80 < 112
  else false

/-- CRC-32 of addresses 0x0_0100 to 0x2_2FFF. -/
def State.calCrc (s : State) : Nat := crc32 (s.rdBytes 100 0x100 0x22F00)

/-- The header with a save time. -/
def State.calHeader (s : State) (time : Nat) : Nat :=
  packB [(0, 4, 1), (4, 2, s.g F.ID.PART), (8, 8, Config.devUid.toNat), (16, 4, s.g F.CAL_GEN.GEN), (20, 4, s.calCrc), (24, 8, time)]

/-- A byte of the CAL port: the header is formed as it is read, with the time of the last save. -/
def State.calByte (s : State) (a : Nat) : Nat :=
  if a < 0x100 then (if a < 32 then natBits (s.calHeader (s.rdMem 100 24 8)) (8 * a) 8 else 0) else (s.rdByte 100 a).toNat

/-- A write of bytes into the CAL port; the answer tells whether it lands (R495).  Bits 15:12 of a DESKEW target are not
kept. -/
def calWrite (a : Nat) (bytes : List Nat) (s : State) : State × Bool :=
  let as := (List.range bytes.length).map (a + ·)
  if s.is F.CAL_STAT.RUNNING || s.is F.CAL_STAT.RESTORING || !as.all (calNamed s.part) then (s, false)
  else
    let clip (i b : Nat) := if (a + i) < 0x21000 && (a + i) % 0x80 = 1 then b % 16 else b
    let s1 := s.wrBytes 100 a ((List.range bytes.length).zip bytes |>.map (fun e => clip e.1 e.2))
    let cs := (unitCorrections (calUnit a)).filter (fun c => c < a + bytes.length && a < c + calLen c)
    (s1.over cs (fun c t => if s.calTarget c = t.calTarget c then t else jCal c (calMark c t)), true)

/-- A CAL_SAVE or CAL_RESTORE completion: GEN, CRC, WALKING, DETAIL. -/
def calImgRes (gen crc walking detail : Nat) : List (Nat × Nat × Nat) :=
  [(8, 4, gen), (12, 4, crc), (16, 1, walking), (17, 1, detail)]

/-- Length of the image. -/
def calImgLen : Nat := 143360

/-- The checks of R496 up to the fifth, then `act`. -/
def calImgChecks (q : Nat) (r : DescRun) (restore : Bool) (act : State → State) (s : State) : State :=
  let d := r.desc
  let us := maskUnits d 20 (some 24)
  let fail (st : Status) (detail : Nat) (t : State) : State := t.complete r.did st (calImgRes 0 0 0 detail)
  if dUnit d != 0 || !dscZeroFrom d 26 || dAddr d % 64 != 0 || (!restore && !us.isEmpty) then fail .badop 1 s
  else if s.unitsAbsent us then fail .absent 1 s
  else if dLen d != calImgLen then fail .badlen 1 s
  else if !r.ownsAll (53 :: us) then fail .denied 3 (s.lastErr q 3 r.qpos)
  else if restore && (s.is F.CAL_STAT.RUNNING || s.is F.CAL_STAT.RESTORING) then fail .busy 1 s
  else act s

/-- CAL_SAVE; `ok` tells whether host memory could be written. -/
def calSave (q : Nat) (ok : Bool) (r : DescRun) (s : State) : State :=
  calImgChecks q r false (fun t =>
    if !ok then t.complete r.did .faulted (calImgRes 0 0 0 1)
    else
      let time := t.tb0 >>> 16
      let t1 := t.wrMem 100 24 time 8
      (t1.send (.hostWrite (dAddr r.desc) calImgLen (t1.calHeader time ||| t1.rdMem 100 0x100 0x22F00 <<< 0x800))).complete r.did .ok
        (calImgRes (t.g F.CAL_GEN.GEN) t1.calCrc (t.is F.CAL_STAT.WALKING).toNat 0)) s

def execCalSave (q : Nat) (ok : Bool) (s : State) : Host.Outcome State Fault Refusal := .next (s.withDesc q 0x000C (calSave q ok))

/-- A number in the bytes read by CAL_RESTORE. -/
def imgNat (data : List Nat) (a n : Nat) : Nat := leNat ((data.drop a).take n)

/-- CAL_RESTORE; `ok` and `data` are what the read of host memory gives. -/
def calRestore (q : Nat) (ok : Bool) (data : List Nat) (r : DescRun) (s : State) : State :=
  calImgChecks q r true (fun t =>
    let t0 := t.send (.hostRead (dAddr r.desc) calImgLen)
    let fail (st : Status) (detail : Nat) := t0.complete r.did st (calImgRes 0 0 0 detail)
    let crc := crc32 ((data.drop 0x100).take 0x22F00)
    if !ok || data.length != calImgLen then fail .faulted 1
    else if imgNat data 0 4 != 1 || imgNat data 4 2 != t.g F.ID.PART then fail .badop 2
    else if imgNat data 8 8 != Config.devUid.toNat then fail .denied 2
    else if imgNat data 20 4 != crc then fail .faulted 2
    else
      let t1 := t0.over (maskUnits r.desc 20 (some 24)) (fun u x =>
        x.over (unitCorrections u) (fun a => setTarget a (calVal a (imgNat data a (calLen a)))))
      let t2 := t1.p F.CAL_GEN.GEN (t1.g F.CAL_GEN.GEN + 1)
      t2.complete r.did .ok (calImgRes (t2.g F.CAL_GEN.GEN) crc (t2.is F.CAL_STAT.WALKING).toNat 0)) s

def execCalRestore (q : Nat) (ok : Bool) (data : List Nat) (s : State) : Host.Outcome State Fault Refusal :=
  .next (s.withDesc q 0x000D (calRestore q ok data))

/-- Factory values from OTP (R485): targets and live values are equal. -/
def calFactory (data : List Nat) (s : State) : State :=
  let us := (List.range 48).filter (unitPresent s.part)
  s.over us (fun u t => t.over (unitCorrections u) (fun a x =>
    let v := calVal a (imgNat data a (calLen a))
    setLive a v (x.wrMem 100 a (unsigned (if calItem a = 0 then 12 else 8 * calLen a) v) (calLen a))))

/-! ### Self-tests (R497, R498) -/

/-- The result of BIST_RUN. -/
def bistRes (u kind detail : Nat) (sig expect : Nat) (pass : Bool) (us : Nat) : List (Nat × Nat × Nat) :=
  [(8, 8, sig), (16, 8, expect), (24, 1, u), (25, 1, kind), (26, 1, detail), (27, 1, pass.toNat), (28, 4, us)]

/-- KIND is valid for a unit. -/
def kindOk (u kind : Nat) : Bool :=
  match kind with
  | 0 => true
  | 1 => u < 32
  | 2 => 32 ≤ u && u < 53
  | 3 => u == 53
  | 4 => u < 32 || (48 ≤ u && u < 53)
  | _ => false

/-- A descriptor other than `did` runs on unit `u`. -/
def State.descOn (s : State) (u did : Nat) : Bool :=
  let on (r : DescRun) : Bool := r.did != did && (descUnits r.desc).contains u
  (List.range 64).any (fun q => (((s.queue q).run).map on).getD false) || s.orphans.any (fun o => on o.2)

/-- The unit is idle (R498). -/
def State.unitIdle (s : State) (u did : Nat) : Bool :=
  if u < 32 then
    s.g (F.UNIT_STATE.STATE u) == 0 && !s.hallRun u && !s.descOn u did && !s.slice u && !s.hallMeasures u && !(s.hse u).busy
  else if u < 48 then s.g (F.UNIT_STATE.STATE u) == 0 && !s.claimed (u - 32)
  else if u < 52 then s.g (F.UNIT_STATE.STATE u) == 0 && s.acqSt (u - 48) == acqIdle
  else if u = 52 then s.g (F.UNIT_STATE.STATE u) == 0 && s.rsSt == rsOff
  else s.cal.run.isNone && !s.is F.CAL_STAT.RESTORING && s.cal.bists.isEmpty

/-- A BIST_RUN is accepted on the unit: fenced, or idle; KIND 1 needs every alcove of the hall FREE or ABSENT. -/
def State.bistOk (s : State) (u kind did : Nat) : Bool :=
  (s.g (F.UNIT_STATE.STATE u) == 1 || s.unitIdle u did) &&
    !(kind == 1 && (List.range 96).any (fun i => 2 ≤ s.alcSt u i))

/-- The ports whose region the pattern test of a unit overwrites. -/
def bistPort (u : Nat) : Nat := if u < 32 then u else if u < 52 then 96 + (u - 48) else 102

/-- The effect of a test on contents: the loop cache emptied, the stair store zeroed and unsealed; a region overwritten,
a hall's flights EMPTY. -/
def bistContents (u kind did : Nat) (s : State) : State :=
  match kind with
  | 1 => lcStat u (((s.dropPort (32 + u)).p (F.STAIR_STAT.SEALED u) 0).modHl u (fun x => { x with cache := [], loopRefs := [] }))
  | 4 =>
    let s1 := s.dropPort (bistPort u)
    let s2 := { s1 with scr := s1.scr ++ [(bistPort u, did)] }
    if u < 32 then { s2 with flights := s2.flights.filter (fun e => e.1 / 4096 != u) } else s2
  | _ => s

/-- The outputs of a unit under test hold the safe state (R476). -/
def bistSafe (u : Nat) (s : State) : State :=
  if u < 32 then blankHall u (hallSafe u s)
  else if u < 48 then s.each 4 (fun j => smuSafe (4 * (u - 32) + j))
  else if u < 52 then s.set1 (F.ACQ_STAT.SAFE (u - 48))
  else if u = 52 then rsSafe s
  else s

/-- BIST_RUN. -/
def bistRun (q : Nat) (r : DescRun) (s : State) : State :=
  let d := r.desc
  let u := dUnit d
  let kind := dsc d 20 1
  let fail (st : Status) (detail : Nat) (t : State) : State := t.complete r.did st (bistRes u kind detail 0 0 false 0)
  if 53 < u || dAddr d != 0 || dLen d != 0 || !dscZeroFrom d 21 then fail .badop 1 s
  else if !unitPresent s.part u then fail .absent 1 s
  else if !kindOk u kind then fail .badop 2 s
  else if !r.ownsAll [53, u] then fail .denied 3 (s.lastErr q 3 r.qpos)
  else if !s.bistOk u kind r.did then fail .busy 1 s
  else
    let s1 := bistContents u kind r.did (bistSafe u s)
    ({ s1 with cal := { s1.cal with bists := s1.cal.bists ++ [BistX.mk r.did u kind []] } } : State).set1 F.CAL_STAT.BIST

def execBistRun (q : Nat) (s : State) : Host.Outcome State Fault Refusal := .next (s.withDesc q 0x000E (bistRun q))

/-- UCODE of every present hall follows the control store: it reports while the store counts as failed, and for a hall whose
engine has stopped (R174, R181, R498). -/
def storeSource (s : State) : State :=
  if s.storeFails then s.each s.part.halls (fun h t => t.raiseLevel (8 * h + 2) noDetail)
  else s.each s.part.halls (fun h t => t.when (t.g (F.UC_ENG.STATE h) != 2) (fun x => x.unraise (8 * h + 2)))

/-- The control-store check has passed or failed (R498).  A pass leaves an image that was not valid as it is (R181). -/
def storeCheck (pass : Bool) (s : State) : State := storeSource { s with cal := { s.cal with storeBad := !pass } }

/-- The end of a test on its unit: a fence that has arrived takes effect, a failing unit is left fenced as by FENCE_UNIT,
and an idle unit that passes is restored. -/
def bistEnd (b : BistX) (pass : Bool) (s : State) : State :=
  let u := b.unit
  if u = 53 then s.when (b.kind == 3) (storeCheck pass)
  else
    let idle := s.g (F.UNIT_STATE.STATE u) == 0
    let s1 := s.over b.held (fun c t => fenceUnit u ⟨R.UNIT_STATE u, c.1, 1⟩ c.2 t)
    if !pass then fenceUnit u (F.UNIT_STATE.C_HOST u) none s1
    else if idle && b.held.isEmpty then unitRestore u (calSettle u s1)
    else s1

/-- BIST_DONE of the test of unit `u`, with the signature obtained and the duration. -/
def bistDone (b : BistX) (sig : BitVec 64) (us : Nat) (s : State) : State :=
  let expect := Config.bistExpect b.unit b.kind
  let pass := sig == expect
  let rest := s.cal.bists.filter (fun x => x.did != b.did)
  let s1 := ({ s with cal := { s.cal with bists := rest } } : State).pb F.CAL_STAT.BIST (!rest.isEmpty)
  (bistEnd b pass s1).complete b.did (if pass then .ok else .faulted)
    (bistRes b.unit b.kind (if pass then 0 else 4) sig.toNat expect.toNat pass us)

def execBistDone (u : Nat) (sig : BitVec 64) (us : Nat) (s : State) : Host.Outcome State Fault Refusal :=
  .next (match s.cal.bists.find? (fun b => b.unit == u) with | some b => if s.awake then bistDone b sig us s else s | none => s)

end Sys2Proof.Machine
end

