-- ==== Sys2Proof/Machine/Ports.lean ====
section
/-! DEFINITION. The data ports: the register path, the burst apertures and PORT_DMA (chapter "Data ports and register
space", R253–R265), and the alcove image (R188). -/
namespace Sys2Proof.Machine

def State.portX (s : State) (p : Nat) : PortX := tabGet (fun _ => ({} : PortX)) s.ports p
def State.setPortX (s : State) (p : Nat) (x : PortX) : State :=
  { s with ports := tabSet (fun _ => ({} : PortX)) s.ports p x }

/-- Size of a port in bytes (R253). -/
def portSize (part : Part) (p : Nat) : Nat :=
  if p < 32 then part.granules * 1024
  else if p < 64 then 0x80000
  else if p < 96 then 0x4000
  else if p < 100 then 0x10000000
  else if p = 100 then 0x100000
  else if p = 101 then 0xC0000
  else 0x80000000

/-- STEP_MIN in bytes. -/
def stepMin (p : Nat) : Nat := 4 * 2 ^ stepMinCode p

/-- Host access is read only (R253). -/
def portReadOnly (p : Nat) : Bool := (96 ≤ p && p < 100) || p == 101

/-! ### What a port holds -/

/-- A frame of the alcove image. -/
def alcFrame : Frame → Nat
  | .loop a _ n _ => packB [(0, 2, a), (4, 4, n)]
  | .call r => packB [(0, 2, r), (2, 1, 1)]

/-- The 256-byte image of alcove `a` of the device (R188). -/
def State.alcImage (s : State) (a : Nat) : Nat :=
  let h := a / 96
  let i := a % 96
  let x := s.alc h i
  let c := x.ctx
  let fs := c.stack.reverse
  if !s.hallOk h then 0
  else
    packB ([(0, 4, (s.rd (R.ALC_STATE h i)).toNat), (4, 4, x.own), (8, 1, s.g (F.ALC_STATE.TS h i)), (9, 1, s.g (F.ALC_STATE.LS h i)),
      (10, 1, x.gmask), (11, 1, c.uflags), (12, 2, c.bin), (14, 2, c.pc), (16, 2, x.termAt), (18, 1, fs.length),
      (19, 1, pack [(3, 1, x.sdone.toNat), (2, 1, x.smis.toNat), (1, 1, x.mdone.toNat), (0, 1, x.mout.toNat)])] ++
      (List.range 4).map (fun k => (20 + 4 * k, 4, c.cnt.getD k 0)) ++
      (List.range 4).map (fun k => (36 + 4 * k, 4, unsigned 32 (c.acc.getD k 0))) ++
      [(52, 4, x.fails + (if x.failsSat then 2 ^ 31 else 0)), (56, 4, x.firstEntry.getD 0xFFFFFFFF),
        (60, 2, x.firstFlight.getD 0xFFFF), (62, 2, x.flogCount)] ++
      (List.range 8).map (fun k => (64 + 8 * k, 8, ((fs[k]?).map alcFrame).getD 0)))

/-- One byte as a port presents it. -/
def State.portByte (s : State) (p a : Nat) : Nat :=
  if portSize s.part p ≤ a then 0
  else if p = 100 then s.calByte a
  else if p = 101 then natBits (s.alcImage (a / 256)) (8 * (a % 256)) 8
  else (s.rdByte p a).toNat

/-- Bytes of a port. -/
def State.portBytes (s : State) (p a n : Nat) : List Nat := (List.range n).map (fun i => s.portByte p (a + i))

/-- One write under the rules of the owning chapter; the answer tells whether it landed. -/
def portWrite (p a : Nat) (bytes : List Nat) (s : State) : State × Bool :=
  if p < 32 then flightWrite p a bytes s
  else if p < 64 then stairWrite (p - 32) a bytes s
  else if p < 96 then serialWrite (p - 64) a bytes s
  else if p < 100 then (s.set1 (F.PORT_STAT.WPROT p), false)
  else if p = 100 then
    match calWrite a bytes s with
    | (t, true) => (t, true)
    | (t, false) => (t.set1 (F.PORT_STAT.WPROT 100), false)
  else if p = 101 then (s.when (s.hallOk (a / 24576)) (fun t => t.set1 (F.HALL_STAT.ALC_WPROT (a / 24576))), false)
  else (s.wrBytes p a bytes, true)

/-! ### The register path (R255–R257) -/

/-- The access unit in bytes, and its last data register. -/
def State.portStep (s : State) (p : Nat) : Nat := 4 * 2 ^ s.g (F.PORT_CTL.STEP p)
def State.portLast (s : State) (p : Nat) : Nat := s.portStep p / 4 - 1

/-- A PORT_DMA closes the port's other paths (R260). -/
def State.portClosed (s : State) (p : Nat) : Bool := (s.portX p).dma.isSome
def portBusy (p : Nat) (s : State) : State := s.set1 (F.PORT_STAT.PORT_BUSY p)

/-- The staged words of a port set, with STAGED. -/
def portStage (p : Nat) (l : List (Nat × Nat)) (s : State) : State :=
  (s.setPortX p { s.portX p with stage := l }).pb (F.PORT_STAT.STAGED p) (!l.isEmpty)

/-- A staged unit that has not been completed is discarded (R256). -/
def portDiscard (p : Nat) (s : State) : State :=
  portStage p [] (s.when (!(s.portX p).stage.isEmpty) (fun t => t.set1 (F.PORT_STAT.PARTIAL p)))

/-- A unit of words as bytes. -/
def wordBytes (ws : List Nat) : List Nat := ws.flatMap (fun w => (List.range 4).map (fun i => natBits w (8 * i) 8))

/-- PORT_DATAk written. -/
def portDataWrite (p k : Nat) (v : Word) (s : State) : State :=
  let last := s.portLast p
  let a := s.g (F.PORT_ADDR.ADDR p)
  if s.portClosed p then portBusy p s
  else if last < k then s
  else if k < last then portStage p (((s.portX p).stage.filter (fun e => e.1 != k)) ++ [(k, v.toNat)]) s
  else
    let st := (s.portX p).stage
    let word (j : Nat) : Nat := if j = k then v.toNat else ((st.find? (fun e => e.1 == j)).map (·.2)).getD 0
    let s1 := portStage p [] s
    if portSize s.part p ≤ a then s1.set1 (F.PORT_STAT.PORT_OVF p)
    else ((portWrite p a (wordBytes ((List.range (last + 1)).map word)) s1).1).p (F.PORT_ADDR.ADDR p) (a + s.portStep p)

def execPortDataWrite (p k : Nat) (v : Word) (s : State) : Host.Outcome State Fault Refusal :=
  .next (if portPresent s.part p && p < 103 && k < 4 then s.host (portDataWrite p k v) else s)

/-- PORT_DATAk read. -/
def portDataRead (path : Path) (p k : Nat) (s : State) : State :=
  let last := s.portLast p
  let a := s.g (F.PORT_ADDR.ADDR p)
  if s.portClosed p then (portBusy p s).setRead path 0
  else
    let fin := portSize s.part p ≤ a
    let s1 :=
      if k = 0 then s.over (List.range (last + 1)) (fun j t => t.wr (R.PORT_DATA p j) (BitVec.ofNat 32 (leNat (s.portBytes p (a + 4 * j) 4))))
      else s
    let s2 := s1.setRead path (if fin then 0 else s1.rd (R.PORT_DATA p k))
    if fin then s2.set1 (F.PORT_STAT.PORT_OVF p)
    else if k = last then s2.p (F.PORT_ADDR.ADDR p) (a + s.portStep p)
    else s2

/-- PORT_DATA_READ: the registers of the global block return their values before service and during a shutdown too, and
then fetch nothing (R463, R542). -/
def execPortDataRead (path : Path) (p k : Nat) (s : State) : Host.Outcome State Fault Refusal :=
  .next (
    if portPresent s.part p && p < 103 && k < 4 then
      if s.inService && s.awake then portDataRead path p k s else s.setRead path (s.rd (R.PORT_DATA p k))
    else s.setRead path 0)

/-- PORT_ADDR written. -/
def portAddrWrite (p : Nat) (v : Word) (s : State) : State :=
  if s.portClosed p then portBusy p s
  else (portDiscard p s).p (F.PORT_ADDR.ADDR p) (v.toNat - v.toNat % s.portStep p)

def execPortAddrWrite (p : Nat) (v : Word) (s : State) : Host.Outcome State Fault Refusal :=
  .next (if portPresent s.part p && p < 103 then s.host (portAddrWrite p v) else s)

/-- PORT_CTL written. -/
def portCtlWrite (p : Nat) (v : Word) (s : State) : State :=
  let st := (F.PORT_CTL.STEP p).of v
  if s.portClosed p then portBusy p s
  else if st = 3 || st < stepMinCode p then s.set1 (F.PORT_STAT.CFG_ERR p)
  else if st = s.g (F.PORT_CTL.STEP p) then s
  else
    let s1 := (portDiscard p s).p (F.PORT_CTL.STEP p) st
    let a := s1.g (F.PORT_ADDR.ADDR p)
    s1.p (F.PORT_ADDR.ADDR p) (a - a % s1.portStep p)

def execPortCtlWrite (p : Nat) (v : Word) (s : State) : Host.Outcome State Fault Refusal :=
  .next (if portPresent s.part p && p < 103 then s.host (portCtlWrite p v) else s)

/-! ### Apertures (R258–R260) -/

/-- PORT_APT written. -/
def portAptWrite (p : Nat) (v : Word) (s : State) : State :=
  if s.portClosed p then portBusy p s else s.wr (R.PORT_APT p) (v &&& 0xFFFFF000#32)

def execPortAptWrite (p : Nat) (v : Word) (s : State) : Host.Outcome State Fault Refusal :=
  .next (if portPresent s.part p && p < 103 then s.host (portAptWrite p v) else s)

/-- The port address of aperture offset 0. -/
def State.aptBase (s : State) (p : Nat) : Nat := 4096 * s.g (F.PORT_APT.BASE p)

/-- An aperture access at offset `o` of `n` bytes is inside the aperture and serves a port that is present. -/
def aptOk (part : Part) (p o n : Nat) : Bool := p < 103 && portPresent part p && 0 < n && o + n ≤ 0x800000

/-- A posted write into the aperture of port `p` at offset `o`. -/
def aptWrite (p o : Nat) (bytes : List Nat) (s : State) : State :=
  let a := s.aptBase p + o
  if s.portClosed p then portBusy p s
  else if a % stepMin p != 0 || bytes.length % stepMin p != 0 then s.set1 (F.PORT_STAT.PARTIAL p)
  else if portSize s.part p < a + bytes.length then s.set1 (F.PORT_STAT.PORT_OVF p)
  else (portWrite p a bytes s).1

def execApertureWrite (p o : Nat) (bytes : List Nat) (s : State) : Host.Outcome State Fault Refusal :=
  .next (if aptOk s.part p o bytes.length then s.host (aptWrite p o bytes) else s)

/-- A read of `n` bytes through the aperture of port `p` at offset `o`. -/
def aptRead (p o n : Nat) (s : State) : State :=
  let a := s.aptBase p + o
  if s.portClosed p then portBusy p { s with rbytes := List.replicate n 0 }
  else
    ({ s with rbytes := s.portBytes p a n } : State).when (portSize s.part p < a + n) (fun t => t.set1 (F.PORT_STAT.PORT_OVF p))

def execApertureRead (p o n : Nat) (s : State) : Host.Outcome State Fault Refusal :=
  .next (if aptOk s.part p o n && s.inService && s.awake then aptRead p o n s else { s with rbytes := List.replicate n 0 })

/-! ### PORT_DMA (R262–R265) -/

/-- The result of PORT_DMA. -/
def portDmaRes (p moved dropped crc detail : Nat) : List (Nat × Nat × Nat) :=
  [(8, 4, moved), (12, 4, dropped), (16, 4, crc), (20, 1, detail), (21, 1, p)]

/-- The units that the range of a PORT_DMA covers (R253, R263). -/
def dmaUnits (p a n : Nat) : List Nat :=
  if p = 101 then (List.range 32).filter (fun h => 24576 * h < a + n && a < 24576 * (h + 1)) else [portUnit p]

/-- PORT_DMA: the checks of R263 in order; then the transfer starts. -/
def portDma (q : Nat) (r : DescRun) (s : State) : State :=
  let d := r.desc
  let p := dUnit d
  let a := dsc d 20 4
  let n := dLen d
  let toHost := dscBits d 24 0 1 == 1
  let fail (st : Status) (detail : Nat) (t : State) : State := t.complete r.did st (portDmaRes (p % 128) 0 0 0 detail)
  if 102 < p || dscBits d 24 1 7 != 0 || !dscZeroFrom d 25 || dAddr d % stepMin p != 0 || a % stepMin p != 0 then fail .badop 1 s
  else if !portPresent s.part p || (dmaUnits p a (max 1 n)).any (fun u => u < 54 && !unitPresent s.part u) then fail .absent 0 s
  else if n = 0 || n % stepMin p != 0 then fail .badlen 1 s
  else if portSize s.part p < a + n then fail .badlen 2 s
  else if !r.ownsAll (dmaUnits p a n) then fail .denied 3 (s.lastErr q 3 r.qpos)
  else if !toHost && portReadOnly p then fail .denied 2 s
  else if s.portClosed p then fail .busy 1 s
  else
    let s1 := (s.setPortX p { s.portX p with dma := some { did := r.did, toHost := toHost, host := dAddr d, addr := a, left := n } }).set1
      (F.PORT_STAT.DMA p)
    s1.when (!toHost) (fun t => t.send (.hostRead (dAddr d) n))

def execPortDma (q : Nat) (s : State) : Host.Outcome State Fault Refusal := .next (s.withDesc q 0x0012 (portDma q))

/-- The running CRC over more bytes. -/
def crcMore (c : Nat) (bytes : List Nat) : Nat := bytes.foldl (fun c b => crcBit 8 (c ^^^ (b % 256))) c

/-- PORT_DMA_DONE: the transfer ends. -/
def portDmaDone (p : Nat) (x : PortDmaX) (failed : Bool) (s : State) : State :=
  let (st, detail) := if failed then (Status.faulted, 2) else if x.dropped != 0 then (.deferred, 1) else (.ok, 0)
  ((s.setPortX p { s.portX p with dma := none }).clr (F.PORT_STAT.DMA p)).complete x.did st
    (portDmaRes p x.moved x.dropped (x.crc ^^^ 0xFFFFFFFF) detail)

/-- One unit moves. -/
def portDmaUnit (p : Nat) (x : PortDmaX) (data : List Nat) (s : State) : State :=
  let n := stepMin p
  let src := if x.toHost then s.portBytes p x.addr n else data
  let (s1, ok) := if x.toHost then (s.send (.hostWrite (x.host + x.moved) n (leNat src)), true) else portWrite p x.addr src s
  let y := { x with
    addr := x.addr + n, left := x.left - n, moved := x.moved + n, dropped := x.dropped + (if ok then 0 else n), crc := crcMore x.crc src }
  if y.left = 0 then portDmaDone p y false s1 else s1.setPortX p { s1.portX p with dma := some y }

/-- PORT_DMA_UNIT of the descriptor that queue `q` executes: a unit arrives from host memory (`data`), or leaves for it;
`ok` false is a failed read of host memory. -/
def execPortDmaUnit (q : Nat) (ok : Bool) (data : List Nat) (s : State) : Host.Outcome State Fault Refusal :=
  .next (
    if !s.awake then s else
    s.withActed q 0x0012 (fun r t =>
      let p := dUnit r.desc
      match (t.portX p).dma with
      | some x =>
        if x.did != r.did then t
        else if !ok && !x.toHost then portDmaDone p x true t
        else if !x.toHost && data.length != stepMin p then t
        else portDmaUnit p x data t
      | none => t))

end Sys2Proof.Machine
end

