-- ==== Sys2Proof/Machine/Journal.lean ====
section
/-! DEFINITION. The journal engine and JOURNAL_CTL (chapter "Record and replay", R500–R513); what a record does in a
replay stands in Replay. -/
namespace Sys2Proof.Machine

/-! ### The ring and the gallery (R500, R502, R505, R506) -/

/-- The 32 bytes of a journal record (R501); a CONT record carries 24 bytes of data from byte 8 (R503). -/
def JRec.bytes (r : JRec) : Nat :=
  packB ([(0, 1, r.typ), (1, 1, r.hall), (2, 2, r.subj), (4, 4, r.seq)] ++
    (if r.typ = 0x5F then [(8, 24, r.data)] else [(8, 6, r.axis), (14, 2, r.arg), (16, 12, r.data), (28, 4, r.tb0)]))

/-- The records being put into a JOURNAL frame leave (R506). -/
def frameSend (s : State) : State :=
  let rs := s.jnl.frame
  let port := s.g F.GAL_STAT.ACTIVE
  let s1 : State := { s with jnl := { s.jnl with frame := [] } }
  if rs.isEmpty || !s.linkUp port then s1
  else
    let body := rs.flatMap (fun r => (List.range 32).map (fun i => natBits r.bytes (8 * i) 8))
    (s1.modGal (fun x => { x with seqJnl := (x.seqJnl + 1) % 2 ^ 32 })).send
      (.frame 3 port (arrayFrame port (s.frameHead 3 s.gal.seqJnl ++ bigEndian 2 rs.length ++ [0, 0] ++ body)))

/-- A record that a forwarding member has written is placed in its JOURNAL frame, which leaves when it holds 40. -/
def frameAdd (r : JRec) (s : State) : State :=
  if s.is F.JNL_STAT.FWD && !s.newel then
    let s1 : State := { s with jnl := { s.jnl with frame := s.jnl.frame ++ [r] } }
    if 40 ≤ s1.jnl.frame.length then frameSend s1 else s1
  else s

/-- JOURNAL_RING_WRITE: the oldest record goes to ring 4. -/
def execJournalRingWrite (s : State) : Host.Outcome State Fault Refusal :=
  .next (
    match s.jnl.fifo with
    | [] => s
    | r :: rest =>
      if !s.awake || s.jnlWaits then s
      else if s.ringFree 4 then (frameAdd r (ringWrite 4 ⟨32, r.bytes⟩ (s.setFifo rest))).ringFlags 4
      else s.ringFlags 4)

/-- JOURNAL_FRAME_SEND: 100 µs after the first record of the frame. -/
def execJournalFrameSend (s : State) : Host.Outcome State Fault Refusal :=
  .next (if s.awake && !s.jnl.frame.isEmpty then frameSend s else s)

/-- A record from its 32 bytes. -/
def recOf (w : Nat) : JRec :=
  let b (lo n : Nat) := natBits w (8 * lo) (8 * n)
  if b 0 1 = 0x5F then { typ := 0x5F, hall := b 1 1, subj := b 2 2, seq := b 4 4, data := b 8 24 }
  else { typ := b 0 1, hall := b 1 1, subj := b 2 2, seq := b 4 4, axis := b 8 6, arg := b 14 2, data := b 16 12, tb0 := b 28 4 }

/-- JOURNAL_FRAME_RX: the records of a frame from the peer `uid` enter the FIFO behind a PEER record, or the frame is
dropped whole. -/
def frameRx (i uid : Nat) (recs : List (BitVec 256)) (s : State) : State :=
  if s.jnl.fifo.length + recs.length + 1 ≤ 2016 then
    let s1 := s.jput [s.jrec 0x65 0xFF i 0 (packB [(0, 8, uid)])]
    let s2 := s1.setFifo (s1.jnl.fifo ++ recs.map (fun w => recOf w.toNat))
    ({ s2 with jnl := { s2.jnl with cycN := 0 } }).ringFlags 4
  else s.count F.JNL_DROP.COUNT F.JNL_DROP.SAT

def execJournalFrameRx (port uid : Nat) (recs : List (BitVec 256)) (s : State) : Host.Outcome State Fault Refusal :=
  .next (
    match s.findPeer uid with
    | some i =>
      if s.linkUp port && s.recording && s.is F.JNL_STAT.AGG && !recs.isEmpty && recs.length ≤ 40 then frameRx i uid recs s else s
    | none => s)

/-! ### CFG_DIGEST (R508) -/

/-- A digest as the JNL_DIGEST registers show it. -/
def digestShow (dg : Nat) (s : State) : State :=
  s.each 8 (fun k t => t.wr (R.JNL_DIGEST k) (BitVec.ofNat 32 (natBits dg (32 * k) 32)))

/-- DIGEST_READY: the oldest hash in computation is ready. -/
def execDigestReady (s : State) : Host.Outcome State Fault Refusal :=
  .next (
    match s.jnl.hash with
    | [] => s
    | (_, dg) :: rest => (digestShow dg { s with jnl := { s.jnl with hash := rest } }).ringFlags 4)

/-! ### JOURNAL_CTL (R509, R510) -/

/-- OP START. -/
def jnlStart (r : DescRun) (s : State) : State :=
  let d := r.desc
  let s1 := ((s.set1 F.JNL_STAT.REC).pb F.JNL_STAT.FWD (dscBits d 21 0 1 == 1)).pb F.JNL_STAT.AGG (dscBits d 21 1 1 == 1)
  s1.complete r.did .ok (jnlRes (s.g F.JNL_SEQ.VALUE) (natBits s.tb0 48 32) 0 0)

/-- OP STOP: records whose reference snapshot has not been taken are produced with 0x8000_0000 (R558), and what
JOURNAL_MARK has queued is discarded (R557). -/
def jnlStop (r : DescRun) (s : State) : State :=
  let s1 := s.over s.jnl.defer (fun d t =>
    t.jput [{ d.entry with data := d.entry.data ||| (if d.entry.typ = 0x54 then 0x80000000 <<< 16 else 0x80000000) }])
  let s2 : State := { s1 with jnl := { s1.jnl with defer := [], markQ := [] } }
  let s3 := ((s2.clr F.JNL_STAT.REC).clr F.JNL_STAT.FWD).clr F.JNL_STAT.AGG
  s3.complete r.did .ok (jnlRes ((s3.g F.JNL_SEQ.VALUE + (2 ^ 32 - 1)) % 2 ^ 32) 0 0 0)

/-- The outputs of every unit take the safe state for a dry replay (R512). -/
def drySafe (s : State) : State :=
  (s.each s.part.halls (fun h t => blankHall h (hallSafe h t))).each s.part.smus smuSafe

/-- The head of a journal buffer: a CONFIG group, a head record and two CONT records, and the digest that it carries. -/
def configHead (head : List (BitVec 256)) : Option Nat :=
  match head with
  | a :: b :: c :: _ =>
    let ra := recOf a.toNat
    let rb := recOf b.toNat
    let rc := recOf c.toNat
    if ra.typ == 0x63 && rb.typ == 0x5F && rc.typ == 0x5F then some (rb.data ||| (natBits rc.data 0 64) <<< 192) else none
  | _ => none

/-- OP REPLAY from the fourth check on: `ok` and `head` are what the read of the buffer's head gives, `uid` the recorded
DEV_UID. -/
def jnlReplay (r : DescRun) (ok : Bool) (head : List (BitVec 256)) (uid : BitVec 64) (s : State) : State :=
  let d := r.desc
  let s0 := s.send (.hostRead (dAddr d) (min 96 (dLen d)))
  if !ok then s0.complete r.did .faulted (jnlRes 0 0 0 1)
  else
    match configHead head with
    | none => s0.complete r.did .badop (jnlRes 0 0 0 2)
    | some dg =>
      let mine := s.digest uid
      let s1 := digestShow mine s0
      if dg != mine then s1.complete r.did .denied (jnlRes 0 0 0 2)
      else
        let bench := dscBits d 21 2 1 == 1
        let s2 := ((s1.set1 F.JNL_STAT.REPLAY).pb F.JNL_STAT.BENCH bench).p F.RPL_POS.VALUE 0
        let s3 : State := { s2 with rpl := some { did := r.did, base := dAddr d, len := dLen d } }
        if bench then s3 else drySafe s3

/-- JOURNAL_CTL. -/
def journalCtl (ok : Bool) (head : List (BitVec 256)) (uid : BitVec 64) (r : DescRun) (s : State) : State :=
  let d := r.desc
  let op := dscBits d 20 0 2
  let fail (st : Status) (detail : Nat) : State := s.complete r.did st (jnlRes 0 0 0 detail)
  let bufOk := if op = 2 then dAddr d % 64 == 0 && dLen d != 0 && dLen d % 32 == 0 else dAddr d == 0 && dLen d == 0
  if dUnit d != 0 || dscBits d 20 2 6 != 0 || dscBits d 21 3 5 != 0 || !dscZeroFrom d 22 || (op != 2 && dscBits d 21 2 1 == 1) ||
      (op != 0 && dscBits d 21 0 2 != 0) || !bufOk then fail .badop 1
  else if (op = 0 && s.recording) || (op = 2 && (s.recording || s.replaying)) then fail .busy 1
  else if op = 2 && s.anyRun then fail .busy 2
  else if op = 2 then jnlReplay r ok head uid s
  else if (op = 1 && !s.recording) || (op = 3 && !s.replaying) then fail .ok 1
  else if op = 0 then jnlStart r s
  else if op = 1 then jnlStop r s
  else (replayStop .deferred 3 s).complete r.did .ok (jnlRes 0 0 0 0)

def execJournalCtl (q : Nat) (ok : Bool) (head : List (BitVec 256)) (uid : BitVec 64) (s : State) : Host.Outcome State Fault Refusal :=
  .next (s.withDesc q 0x0013 (journalCtl ok head uid))

/-- REPLAY_END: the end of the buffer (R513).  The other stops stand where they arise. -/
def execReplayEnd (s : State) : Host.Outcome State Fault Refusal :=
  .next (match s.rpl with | some r => if r.len ≤ r.pos && s.awake then replayStop .ok 0 s else s | none => s)

end Sys2Proof.Machine
end

