-- ==== Sys2Proof/Machine/Boot.lean ====
section
/-! DEFINITION. Power-up, reset and boot (chapter 22): the supplies and reset pins, the boot stages with the checks of the
boot firmware and microcode images (R177–R182), and what each reset keeps (R545). -/
namespace Sys2Proof.Machine

/-! ### What resets keep (R545) -/

/-- A loss of everything but the pins, OTP and, where `keep` says so, the GRAVE latch with FLT_GRAVE_SRC and RESET_CAUSE.
Every register takes its reset value and every output its safe state; HBM and the stores lose their contents.  A DAC_CLR_N
and a BANIN pair that have not moved keep acting. -/
def coldReset (keep : Bool) (s : State) : State :=
  let s1 : State :=
    { part := s.part, cyc := s.cyc, free := s.free, dids := s.dids, out := s.out, pending := s.pending, gtl := s.gtl
      boot := { vaux := s.boot.vaux, porN := s.boot.porN, perstN := s.boot.perstN, pgood := s.boot.pgood, otp := s.boot.otp } }
  let s2 := s1.pb F.FLT_STATUS.BANIN_SAFE (s.is F.FLT_STATUS.BANIN_SAFE)
  let s3 := s2.when s.clrLow (fun t => t.each t.part.halls (fun h u => u.set1 (F.PE_HALL_STAT.CLR_ACTIVE h)))
  if keep then
    ((s3.pb F.FLT_STATUS.GRAVE (s.is F.FLT_STATUS.GRAVE)).wr R.FLT_GRAVE_SRC (s.rd R.FLT_GRAVE_SRC)).wr R.RESET_CAUSE
      (s.rd R.RESET_CAUSE)
  else s3.wr R.RESET_CAUSE 0

/-- Stage `n` begins. -/
def stageTo (n : Nat) (s : State) : State := s.p F.BOOT_STAGE.STAGE n

/-- The boot ROM starts in stage 1. -/
def bootStart (s : State) : State := stageTo 1 (s.modBoot (fun b => { b with began := s.cyc }))

/-! ### Supplies and pins (R535–R538, R546, R548) -/

/-- VAUX_APPLY: the always-on domain and the fault collector start. -/
def execVauxApply (s : State) : Host.Outcome State Fault Refusal :=
  .next (if s.boot.vaux then s else (s.modBoot (fun b => { b with vaux := true })).set1 F.RESET_CAUSE.VAUX_ON)

/-- VAUX_REMOVE clears the GRAVE latch, RESET_CAUSE and every other state of the always-on domain. -/
def execVauxRemove (s : State) : Host.Outcome State Fault Refusal :=
  .next ((coldReset false s).modBoot (fun b => { b with vaux := false }))

/-- POR_N_FALL: after stage 0 it acts at once and holds the device in stage 0. -/
def porFall (s : State) : State :=
  let s1 := s.modBoot (fun b => { b with porN := false })
  if s.boot.vaux && s.g F.BOOT_STAGE.STAGE != 0 then (coldReset true s1).set1 F.RESET_CAUSE.POR_N else s1

def execPorNFall (s : State) : Host.Outcome State Fault Refusal := .next (if s.boot.porN then porFall s else s)

/-- POR_N_RISE starts the boot ROM. -/
def execPorNRise (s : State) : Host.Outcome State Fault Refusal :=
  .next (if s.boot.porN then s else (s.modBoot (fun b => { b with porN := true })).when s.boot.vaux bootStart)

/-- PGOOD_IN_CHANGE: the pin rises, or has been low for more than 1 µs. -/
def pgoodChange (up : Bool) (s : State) : State :=
  let s1 := s.modBoot (fun b => { b with pgood := up })
  (s1.when (s1.g F.BOOT_STAGE.STAGE == 6 && !up) (fun t => t.set1 F.BOOT_ERR.PGOOD_WAIT)).when s1.inService railFaults

def execPgoodInChange (up : Bool) (s : State) : Host.Outcome State Fault Refusal := .next (pgoodChange up s)

/-- What a reset of the PCIe function adds to R232: the MSI-X table is masked and its pending bits are clear. -/
def fnReset (s : State) : State :=
  { hostReset s with vecs := s.vecs.map (fun (e : Nat × VecX) => (e.1, { cnt := e.2.cnt })) }

/-- PERST_N_ASSERT: after READY, a host-interface reset (R548). -/
def execPerstNAssert (s : State) : Host.Outcome State Fault Refusal :=
  .next (
    let s1 := s.modBoot (fun b => { b with perstN := false })
    if s.boot.perstN && s.inService then (fnReset s1).set1 F.RESET_CAUSE.PERST else s1)

/-- PERST_N_RELEASE: link training may begin (R542); the link is not part of the state. -/
def execPerstNRelease (s : State) : Host.Outcome State Fault Refusal :=
  .next (s.modBoot (fun b => { b with perstN := true }))

/-- PCIE_LINK_LOSS: the link has been lost for more than 1 ms with PERST_N high (R548). -/
def execPcieLinkLoss (s : State) : Host.Outcome State Fault Refusal :=
  .next (if s.inService then (fnReset s).set1 F.RESET_CAUSE.LINK else s)

/-- FLR: Function Level Reset (R232). -/
def execFlr (s : State) : Host.Outcome State Fault Refusal :=
  .next (if s.inService then (fnReset s).set1 F.RESET_CAUSE.FLR else s)

/-! ### Warm reset (R547) -/

/-- Every output takes its safe state, the state is reset, and the device boots from stage 1. -/
def warmReset (s : State) : State := bootStart ((coldReset true s).set1 F.RESET_CAUSE.WARM)

/-- RESET_CTL written.  The register takes writes in service and in FAILED (R542, R550); during a shutdown the write also
sets SD_WRITE (R463). -/
def resetCtlWrite (v : Word) (s : State) : State :=
  let failed := s.g F.BOOT_STAGE.STAGE == 15
  if !s.inService && !failed then s
  else if F.RESET_CTL.WARM.is v && F.RESET_CTL.KEY.of v = 0x5741 && (failed || s.quiesced) && s.awake then warmReset s
  else (s.when (!s.awake) (fun t => t.set1 F.THERM_STAT.SD_WRITE)).set1 F.BOOT_ERR.WARM_REFUSED

def execWarmReset (v : Word) (s : State) : Host.Outcome State Fault Refusal := .next (resetCtlWrite v s)

/-! ### Quetus images (R177–R180, R540) -/

/-- A field of an image header, little-endian. -/
def hdrNat (hdr : List Nat) (b n : Nat) : Nat := imgNat hdr b n

/-- The bit of PARTS for a part. -/
def partBit : Part → Nat
  | .f => 0 | .b => 1 | .s => 2

/-- The reserved fields of a header are 0. -/
def hdrReserved (hdr : List Nat) : Bool :=
  natBits (hdrNat hdr 7 1) 3 5 == 0 && hdrNat hdr 53 3 == 0 && natBits (hdrNat hdr 56 1) 1 7 == 0 && hdrNat hdr 57 7 == 0

/-- The key in OTP slot `k` of the signing keys (`base` 0) or the encryption keys (4); a slot above 3 names no key. -/
def State.otpKey (s : State) (base k : Nat) : Option Nat := if k < 4 then s.boot.keys[base + k]? else none

/-- A big-endian number of a list of bytes. -/
def beNat (l : List Nat) : Nat := l.foldl (fun v b => 256 * v + b % 256) 0

/-- The signature, r and then s, is valid over header and ciphertext with the key in slot SIG_KEY (R177, R179). -/
def State.sigOk (s : State) (q : Quetus) : Bool :=
  match s.otpKey 0 (natBits (hdrNat q.hdr 52 1) 4 4) with
  | some k => Config.ecdsaP384 (BitVec.ofNat 768 k) (q.hdr ++ q.text) (BitVec.ofNat 384 (beNat (q.sig.take 48)))
      (BitVec.ofNat 384 (beNat ((q.sig.drop 48).take 48)))
  | none => false

/-- Body and tag of an image, with the key in slot ENC_KEY, the header's IV, and header bytes 0 to 23 as additional data. -/
def State.decrypt (s : State) (q : Quetus) : Option (List Nat × BitVec 128) :=
  (s.otpKey 4 (natBits (hdrNat q.hdr 52 1) 0 4)).map (fun k =>
    Config.aesGcm256 (BitVec.ofNat 256 k) (BitVec.ofNat 96 (hdrNat q.hdr 24 12)) (q.hdr.take 24) q.text)

/-- The GCM tag is the header's. -/
def State.tagOk (s : State) (q : Quetus) : Bool :=
  match s.decrypt q with | some x => x.2 == BitVec.ofNat 128 (hdrNat q.hdr 36 16) | none => false

/-- The decrypted body of an image. -/
def State.imageBody (s : State) (q : Quetus) : List Nat := match s.decrypt q with | some x => x.1 | none => []

/-- Checks 1 to 6 of R179 for an image of a TYPE: the code of the first that fails, 0 if none does.  Check 3 is made
where an identity is given. -/
def imageCheck (typ : Nat) (romId : Option Nat) (q : Quetus) (s : State) : Nat :=
  let hdr := q.hdr
  if hdrNat hdr 0 4 ≠ 0x53555451 || hdrNat hdr 4 2 ≠ 1 then 1
  else if hdrNat hdr 6 1 ≠ typ || natBits (hdrNat hdr 7 1) (partBit s.part) 1 ≠ 1 || !hdrReserved hdr then 2
  else if romId.isSome && romId ≠ some (hdrNat hdr 20 4) then 3
  else if hdrNat hdr 8 4 < s.boot.otp then 4
  else if !s.sigOk q then 5
  else if !s.tagOk q then 6
  else 0

/-- ADVANCE of a header. -/
def hdrAdvance (hdr : List Nat) : Bool := natBits (hdrNat hdr 56 1) 0 1 == 1

/-- The OTP rollback counter raised to a value of at most 64 (R180). -/
def otpRaise (top : Nat) (s : State) : State :=
  if s.boot.otp < min top 64 then
    ((s.modBoot (fun b => { b with otp := min top 64 })).p F.UC_ROLLBACK.OTP (min top 64)).set1 F.UC_STAT.ADVANCED
  else s

/-! ### The boot stages (R539) -/

/-- Stage 1: the ROM self-check and the OTP read. -/
def bootRom (ok : Bool) (keys calib pwr : List Nat) (s0 : State) : State :=
  if !ok then bootFail (s0.p F.BOOT_ERR.REASON 15)
  else
    let s := s0.modBoot (fun b => { b with keys := keys })
    let store := s.part.writableStore
    let s1 := (s.p F.UC_ROM_ID.VALUE (if store then 0 else Config.ucRomId.toNat)).pb F.UC_STAT.WRITABLE store
    let s2 := s1.p F.UC_ROLLBACK.OTP s.boot.otp
    let s3 := s2.each s.part.halls (fun h t => t.each 8 (fun k u =>
      match pwr[8 * h + k]? with | some v => u.p (F.PCLASS_PWR.PWR h k) v | none => u))
    stageTo 2 (calFactory calib s3)

/-- Stage 2: the boot firmware image (R540). -/
def bootFetch (q : Quetus) (s : State) : State :=
  let hdr := q.hdr
  let c := imageCheck 1 none q s
  let reason := if c = 0 && 0x40000 < 64 + hdrNat hdr 16 4 + 96 then 7 else c
  if reason ≠ 0 then bootFail (s.p F.BOOT_ERR.REASON reason)
  else stageTo 3 (s.when (hdrAdvance hdr) (otpRaise (hdrNat hdr 8 4)))

/-- The outcome of a failed microcode image (R181): the ROM runs unpatched, or every hall is held off by UCODE. -/
def imageFail (reason : Nat) (s : State) : State :=
  let s1 := s.p F.UC_STAT.REASON reason
  if s.part.writableStore then storeSource (s1.modBoot (fun b => { b with image := none, store := [], imgBad := true }))
  else (s1.each 16 (fun m t => t.wr (R.UC_MATCH m) 0)).modBoot (fun b => { b with image := none, store := [] })

/-- Word `i` of a decrypted body. -/
def bodyWord (body : List Nat) (b : Nat) : Nat := imgNat body b 4

/-- MATCH0 to MATCH15 of a patch body (R178). -/
def bodyMatches (body : List Nat) : List Nat := (List.range 16).map (fun m => bodyWord body (4 + 4 * m))

/-- Check 7 of R179. -/
def bodyOk (part : Part) (hdr body : List Nat) : Bool :=
  let len := hdrNat hdr 16 4
  let n := bodyWord body 0
  if part.writableStore then n == 8192 && len == 32772
  else
    let ms := bodyMatches body
    let on := (ms.filter (fun m => natBits m 31 1 == 1)).map (fun m => natBits m 16 13)
    1 ≤ n && n ≤ 256 && len == 68 + 4 * n && ms.all (fun m => natBits m 29 2 == 0 && natBits m 8 8 == 0) &&
      on.eraseDups.length == on.length

/-- A microcode image that passes checks 1 to 7 is loaded, and awaits check 8. -/
def imageLoad (hdr body : List Nat) (s : State) : State :=
  let first := if s.part.writableStore then 4 else 68
  let words := (List.range (bodyWord body 0)).map (fun i => bodyWord body (first + 4 * i))
  let s1 := if s.part.writableStore then s
    else s.each 16 (fun m t => t.wr (R.UC_MATCH m) (BitVec.ofNat 32 ((bodyMatches body).getD m 0)))
  s1.modBoot (fun b => { b with
    store := words
    image := some ⟨hdrNat hdr 8 4, hdrAdvance hdr, hdrNat hdr 12 4, crc32 (body.take (hdrNat hdr 16 4)),
      crc32 ((body.drop first).take (4 * bodyWord body 0))⟩ })

/-- Stage 3: the microcode image; the boot continues whatever its checks find. -/
def bootPatch (q : Quetus) (s : State) : State :=
  let hdr := q.hdr
  let body := s.imageBody q
  let store := s.part.writableStore
  let c := imageCheck (if store then 3 else 2) (if store then none else some Config.ucRomId.toNat) q s
  let reason := if c = 0 && !bodyOk s.part hdr body then 7 else c
  let s1 := s.when (reason != 1) (fun t => t.p F.UC_ROLLBACK.IMAGE (hdrNat hdr 8 4))
  stageTo 4 (if reason ≠ 0 then imageFail reason s1 else imageLoad hdr body s1)

/-- Check 8 has passed: the image is applied. -/
def imageApply (x : UcPend) (s : State) : State :=
  let s1 := ((s.set1 F.UC_STAT.APPLIED).p F.UC_PATCH_LEVEL.VALUE x.level).p F.UC_BODY_CRC.VALUE x.bodyCrc
  (s1.when x.advance (otpRaise x.rollback)).modBoot (fun b => { b with image := none })

/-- Stage 4: check 8 of R179, then the CRC-32 of the mask ROM where there is one. -/
def bootBist (readback rom : Nat) (s : State) : State :=
  let s1 := match s.boot.image with
    | none => s
    | some x => if readback = x.wordCrc then imageApply x s else imageFail 8 s
  if !s.part.writableStore && rom ≠ Config.ucRomId.toNat then bootFail (s1.p F.BOOT_ERR.REASON 15) else stageTo 5 s1

/-- HBM3 regions, by their ports (R29). -/
def hbmPorts : List Nat := List.range 32 ++ [96, 97, 98, 99, 102]

/-- Stage 5: HBM training; the regions of R29 read as zero afterwards.  Stage 6 begins with its first round. -/
def bootHbm (ok : Bool) (s : State) : State :=
  if !ok then bootFail (s.set1 F.BOOT_ERR.HBM_FAIL)
  else
    let s1 := { s.over hbmPorts (fun p t => t.dropPort p) with flights := [] }
    stageTo 6 ((s1.modBoot (fun b => { b with roundPg := b.pgood, roundOk := false })).pb F.BOOT_ERR.PGOOD_WAIT (!s.boot.pgood))

/-- Stage 6 ends after a round that allows it. -/
def bootHousekeeping (s : State) : State :=
  if s.boot.roundOk then stageTo 7 ((s.clr F.BOOT_ERR.RAIL_WAIT).clr F.BOOT_ERR.PGOOD_WAIT) else s

/-- READY: the time bases are zeroed; what holds the units off at that moment fences them (R181, R537, R549). -/
def bootReady (s : State) : State :=
  let s1 := bootTime (stageTo 8 { s with tb0 := 0, tb1 := 0, tb2 := 0, tb0rem := 0 })
  let s2 := s1.when s.storeFails (fun t => t.each t.part.halls (fun h u =>
    fenceUnit h (F.UNIT_STATE.C_MAJOR h) (some (8 * h + 2)) u))
  railFaults (s2.when (s.is F.FLT_STATUS.GRAVE) (fun t => outputsSafe (t.each 53 graveUnit)))

/-- BOOT_STAGE_END: the present stage has done its work, or failed. -/
def bootStageEnd (r : BootRes) (s : State) : State :=
  match s.g F.BOOT_STAGE.STAGE, r with
  | 1, .rom ok keys calib pwr => bootRom ok keys calib pwr s
  | 2, .fetch q => bootFetch q s
  | 3, .patch q => bootPatch q s
  | 4, .bist readback rom => bootBist readback rom s
  | 5, .hbm ok => bootHbm ok s
  | 6, .work => bootHousekeeping s
  | 7, .work => bootReady s
  | _, _ => s

def execBootStageEnd (r : BootRes) (s : State) : Host.Outcome State Fault Refusal := .next (bootStageEnd r s)

end Sys2Proof.Machine
end

