-- ==== Sys2Proof/Machine/Bus.lean ====
section
/-! DEFINITION. Register accesses of the host (R10–R19, R217, R463, R542, R551): the write and the read of every register,
and the management port MSPI (R381–R383). -/
namespace Sys2Proof.Machine

/-! ### Writes by access code (R13, R16) -/

/-- What a write leaves of a register's word, field by field.  `keep` are the flags that the hardware has set in the same
core cycle, and `n` the events that it has counted in it: the write clears neither (R14). -/
def fieldWrite (keep : Word) (n : Nat) (v : Word) (w : Word) (f : FieldRow) : Word :=
  let x := fieldGet f.lo f.len v
  match f.acc with
  | .rw => fieldPut f.lo f.len x w
  | .w1c => w &&& ~~~ (v &&& ~~~ keep &&& fieldMask f.lo f.len)
  | .cnt => if x = 0 then w else fieldPut f.lo f.len (min n (2 ^ f.len - 1)) w
  | _ => w

/-- A saturating counter of the register is cleared by the write, and its SAT bit with it. -/
def clearsCount (r : RegRow) (v : Word) : Bool := r.fields.any (fun f => f.acc == .cnt && fieldGet f.lo f.len v != 0)

/-- The word of a register after a write to fields that nothing else governs. -/
def wordWrite (keep : Word) (n : Nat) (r : RegRow) (v w : Word) : Word :=
  let w1 := r.fields.foldl (fieldWrite keep n v) w
  if clearsCount r v then r.fields.foldl (fun u f => if f.acc = .sat then fieldPut f.lo f.len 0 u else u) w1 else w1

/-- A register written by the access codes of its fields; a configuration structure is recorded (R508). -/
def plainWrite (r : RegRow) (a : Nat) (v : Word) (s : State) : State :=
  let w := wordWrite (BitVec.ofNat 32 (tabGet (fun _ => 0) s.fresh a)) (tabGet (fun _ => 0) s.freshN a) r v (s.rd a)
  if digestReg r.name then s.cfgWr a w else s.wr a w

/-- HOLD_TREADS written: AXIS_STAT.HOLD_SAT is a copy of its SAT bit (R81). -/
def holdTreadsWrite (r : RegRow) (h : Nat) (v : Word) (s : State) : State :=
  let t := plainWrite r (R.HOLD_TREADS h) v s
  t.p (F.AXIS_STAT.HOLD_SAT h) (t.g (F.HOLD_TREADS.SAT h))

/-- A register written only if the write carries no value that its description excludes; `no` sets the error bit. -/
def checkedWrite (ok : Bool) (no : State → State) (r : RegRow) (a : Nat) (v : Word) (s : State) : State :=
  if ok then plainWrite r a v s else no s

/-! ### Registers with a rule of their own -/

/-- PE_STAT: TRIPPED is cleared by R292, the other bits as they stand. -/
def peStatWrite (r : RegRow) (h c : Nat) (v : Word) (s : State) : State :=
  plainWrite r (R.PE_STAT h c) (fieldPut 6 1 0 v) (s.when (s.clears (F.PE_STAT.TRIPPED h c) v) (tripClear h c))

/-- SMU_STAT: TRIPPED is cleared by R310; COMPL_SEEN stays while a clamp limits (R308). -/
def smuStatWrite (r : RegRow) (k : Nat) (v : Word) (s : State) : State :=
  let t := plainWrite r (R.SMU_STAT k) (fieldPut 7 1 0 v) (s.when (s.clears (F.SMU_STAT.TRIPPED k) v) (smuTripClear k))
  t.when (t.is (F.SMU_STAT.COMPL k)) (fun u => u.p (F.SMU_STAT.COMPL_SEEN k) 1)

/-- TRIP_MAP: every named channel's trip is cleared (R292). -/
def tripMapWrite (h : Nat) (v : Word) (s : State) : State :=
  s.each 32 (fun c t => t.when (natBits v.toNat c 1 == 1 && !s.isFresh (F.PE_STAT.TRIPPED h c)) (tripClear h c))

/-- THERM_STAT: SD_SEEN is cleared by R464. -/
def thermStatWrite (r : RegRow) (v : Word) (s : State) : State :=
  plainWrite r R.THERM_STAT (fieldPut 27 1 0 v) (s.when (s.clears F.THERM_STAT.SD_SEEN v) sdSeenClear)

/-- ACQ_CTL: ABORT before FORCE, on the samples stored until then.  The raw sample after the last aligned edge at which a
forced trigger falls is a free value of 0 to 4 (assumption 4). -/
def acqCtlWrite (d : Nat) (v : Word) (s : State) : State :=
  let s1 := s.when ((F.ACQ_CTL.ABORT d).is v) (fun t => acqAbort d (acqCatch d t))
  let (raw, s2) := s1.draw 3
  if (F.ACQ_CTL.FORCE d).is v then acqForce d (raw % 5) [] false (acqCatch d s2) else s1

/-- MSPI_WIN, which only MSPI writes (R382). -/
def mspiWin (path : Path) (v : Word) (s : State) : State := s.when (path == .mspi) (fun t => t.p F.MSPI_WIN.WIN (F.MSPI_WIN.WIN.of v))

/-- An exponent of PTP_CFG lies in −7 to 0. -/
def ptpExp (x : Nat) : Bool := x == 0 || 0xF9 ≤ x

/-- A write of a register of a present unit, by the name of the register; `i`, `j`, `k` are its indices. -/
def regWriteAt (path : Path) (r : RegRow) (i j k : Nat) (a : Nat) (v : Word) (s : State) : State :=
  let keep (t : State) : State := t
  match r.name with
  | .AXIS_CTL => axisCtlWrite i v s
  | .RATIO_M => ratioWrite i j false v s
  | .RATIO_N => ratioWrite i j true v s
  | .HOLD_TREADS => holdTreadsWrite r i v s
  | .SYN_SCHED => synSchedWrite i v (s.pastLead i) s
  | .TSET_DRV => tsetWrite i j (.drv k) v s
  | .TSET_CMP => tsetWrite i j (.cmp k) v s
  | .TSET_HDR => tsetWrite i j .hdr v s
  | .DESKEW => deskewWrite i j v s
  | .AXZ_CTL => axzCtlWrite v s
  | .LAND_CFG => checkedWrite (8 ≤ (F.LAND_CFG.LEAD i).of v && (F.LAND_CFG.LEAD i).of v ≤ 64) keep r a v s
  | .JMP_REQ => jmpReqWrite i v s
  | .SCHED_CTL => checkedWrite (5 ≤ (F.SCHED_CTL.SETTLE i).of v && (F.SCHED_CTL.SETTLE i).of v ≤ 100000) keep r a v s
  | .SCHED_BANK => schedBankWrite i j v s
  | .DEADLINE_LO => deadlineWrite i j false v s
  | .DEADLINE_HI => deadlineWrite i j true v s
  | .BCAST_SRC => bcastWrite i j false v s
  | .BCAST_MEM => bcastWrite i j true v s
  | .SCHED_FLOOR => ledger (plainWrite r a v s)
  | .QP_SQ_DB => sqDoorbell i j v s
  | .QP_CQ_DB => cqDoorbell i j v s
  | .RR_HEAD_DB => if ringOk s.part j then rrDoorbell i j v s else s
  | .QP_CFG => qpCfgWrite i v s
  | .QP_SQ_BASE_LO => qpBaseWrite i a (v &&& 0xFFFFF000#32) s
  | .QP_SQ_BASE_HI => qpBaseWrite i a v s
  | .QP_CQ_BASE_LO => qpBaseWrite i a (v &&& 0xFFFFF000#32) s
  | .QP_CQ_BASE_HI => qpBaseWrite i a v s
  | .RR_CFG => rrCfgWrite i v s
  | .RR_BASE_LO => rrAddrWrite i a (v &&& 0xFFFFF000#32) s
  | .RR_BASE_HI => rrAddrWrite i a v s
  | .RR_WB_LO => rrAddrWrite i a (v &&& 0xFFFFFFFC#32) s
  | .RR_WB_HI => rrAddrWrite i a v s
  | .PORT_CTL => portCtlWrite i v s
  | .PORT_ADDR => portAddrWrite i v s
  | .PORT_APT => portAptWrite i v s
  | .PORT_DATA => portDataWrite i j v s
  | .TRIP_MAP => tripMapWrite i v s
  | .PP_CTL => ppCtlWrite i v s
  | .PE_CTL => peCtlWrite i j v s
  | .PE_STAT => peStatWrite r i j v s
  | .TRIP_CTL => tripCtlWrite i j v s
  | .SMU_CTL => smuCtlWrite i v s
  | .SMU_STAT => smuStatWrite r i v s
  | .SMU_FORCE => smuForceWrite i .force v s
  | .SMU_ICLAMP => smuForceWrite i .iclamp v s
  | .SMU_VCLAMP => smuForceWrite i .vclamp v s
  | .DDS_FTW => ddsFtwWrite i v s
  | .DDS_AMPL => ddsAmplWrite i v s
  | .DDS_PHASE => ddsPhaseWrite i v s
  | .DDS_START => ddsStartWrite i v s
  | .MSET_CFG => msetWrite i j 0 v s
  | .MSET_FORCE => msetWrite i j 1 v s
  | .MSET_LO => msetWrite i j 2 v s
  | .MSET_HI => msetWrite i j 3 v s
  | .TDC_HOST => tdcHostWrite i v s
  | .TDCQ_CFG => tdcqCfgWrite i j v s
  | .TDC_SET_A => tdcSetWrite i j 0 v s
  | .TDC_SET_B => tdcSetWrite i j 1 v s
  | .TDC_SET_C => tdcSetWrite i j 2 v s
  | .TDC_SET_D => tdcSetWrite i j 3 v s
  | .ACQ_CTL => acqCtlWrite i v s
  | .HSE_SLOT_A => hseRegWrite i (.slotA j) v s
  | .HSE_SLOT_B => hseRegWrite i (.slotB j) v s
  | .HSE_SLOT_C => hseRegWrite i (.slotC j) v s
  | .HSE_SLOT_D => hseRegWrite i (.slotD j) v s
  | .LMAP_A => hseRegWrite i (.lmapA j) v s
  | .LMAP_B => hseRegWrite i (.lmapB j) v s
  | .HSE_CTL => swapAfterSend i (hseCtlWrite i v s)
  | .MSPI_WIN => mspiWin path v s
  | .BSPI_CTL => bspiCtlWrite v s
  | .RS_LANE => rsLaneWrite i v s
  | .EV_CFG => evCfgWrite i .cfg v s
  | .EV_STAT => evStatWrite i v s
  | .EV_HALLS => evCfgWrite i .halls v s
  | .EV_PMASK => evCfgWrite i (.pmask j) v s
  | .EV_CMASK => evCfgWrite i (.cmask j) v s
  | .EV_SWSET => evSwset (i == 1) v s
  | .EV_REFRACT => evRefractWrite i v s
  | .TM_CTL => tmCtlWrite i v s
  | .TM_DELAY => tmRegWrite i 0 v s
  | .TM_WIDTH => tmRegWrite i 1 v s
  | .TM_PERIOD => tmRegWrite i 2 v s
  | .EVD_SWSET => evdSwset i (j == 1) v s
  | .EVD_FLAG => evdFlagWrite i (j == 1) v s
  | .GAL_CFG => galCfgWrite v s
  | .GAL_CTL => galCtlWrite v s
  | .GAL_PEER_IDX => peerIdxWrite v s
  | .PTP_CFG => checkedWrite (ptpExp (F.PTP_CFG.LOG_DELAY.of v) && ptpExp (F.PTP_CFG.LOG_SYNC.of v)) keep r a v s
  | .TB_SNAP => s.when (F.TB_SNAP.GO.is v) tbSnap
  | .GAL_ALAT => checkedWrite ((F.GAL_ALAT.RESUME i).of v != 0) (fun t => t.set1 F.GAL_STAT.CFG_ERR) r a v s
  | .TT_CTL => ttCtlWrite i v s
  | .TT_AT_LO => ttRegWrite i a (fun _ => true) v s
  | .TT_AT_HI => ttRegWrite i a (fun _ => true) v s
  | .TT_PERIOD => ttRegWrite i a (fun w => 8 ≤ w.toNat && w.toNat ≤ 4000000000) v s
  | .TT_WIDTH => ttRegWrite i a (fun w => 4 ≤ w.toNat) (v &&& 0xFFFF#32) s
  | .THERM_STAT => thermStatWrite r v s
  | .THERM_CTL => thermCtlWrite v s
  | .PBUDGET => pbudgetWrite v s
  | .TH_CFG => thCfgWrite v s
  | .TSD_CFG => tsdWrite v s
  | .TS_FAIL_LO => tsFailWrite false v s
  | .TS_FAIL_HI => tsFailWrite true v s
  | .RAIL_WIN => railWinWrite i v s
  | .FLT_CTL => fltCtlWrite v s
  | .FLT_CFG => fltCfgWrite i v s
  | .CAL_CTL => checkedWrite (F.CAL_CTL.CAL_STEP.of v != 0) keep r a v s
  | .RESET_CTL => resetCtlWrite v s
  | _ => plainWrite r a v s

/-- A write at a BAR0 address that the device takes: nothing where no chapter assigns the address (R15) or the unit is
absent (R4). -/
def regWrite (path : Path) (a : Nat) (v : Word) (s : State) : State :=
  match regAt a with
  | none => s
  | some (r, ix) =>
    if instPresent s.part r.unit ix then regWriteAt path r (ix.getD 0 0) (ix.getD 1 0) (ix.getD 2 0) a v s else s

/-- The thermal block (R463, R468). -/
def thermBlock (a : Nat) : Bool := 0x680000 ≤ a && a < 0x690000

/-- The registers besides RESET_CTL that take writes in FAILED (R550). -/
def failedReg (a : Nat) : Bool := a == R.RESET_CAUSE || a == R.BOOT_ERR

/-- A 32-bit write of the host: whether the device takes it at all (R463, R542). -/
def hostWrite (path : Path) (a : Nat) (v : Word) (s : State) : State :=
  if a == R.RESET_CTL then s.byHost (resetCtlWrite v)
  else if failedReg a && s.g F.BOOT_STAGE.STAGE == 15 then
    s.byHost (fun t => if t.awake then regWrite path a v t else t.set1 F.THERM_STAT.SD_WRITE)
  else if thermBlock a then s.hostTh (regWrite path a v)
  else s.host (regWrite path a v)

/-! ### The PCIe function (R215, R216) -/

/-- The identifiers of the function (R215): the subsystem identifiers are the same two. -/
def pciVendor : Nat := 0x1F3A
def pciDevice (p : Part) : Nat := partId p
def pciClass : Nat := 0x118000

/-- The revision identifier: the low four bits of STEP_MAJOR over those of STEP_MINOR (R215). -/
def State.pciRevision (s : State) : Nat := (s.g F.ID.STEP_MAJOR % 16) * 16 + s.g F.ID.STEP_MINOR % 16

/-- The largest payload in bytes, the tag bits and the non-posted requests outstanding (R215). -/
def pciMaxPayload : Nat := 512
def pciTagBits : Nat := 10
def pciOutstanding : Nat := 256

/-- The sizes of BAR0, BAR2 and BAR4 in bytes (R216). -/
def barSizes : List Nat := [128 * 1024 * 1024, 1024 * 1024 * 1024, 16 * 1024]

/-- A word read in BAR4 (R216, R251): the MSI-X table of 128 entries, address, data and mask bit, the pending bits from
0x2000 on, and 0 elsewhere. -/
def State.bar4Read (s : State) (a : Nat) : Word :=
  let x := s.vec (a / 16)
  if a < 2048 then
    match a % 16 / 4 with
    | 0 => BitVec.ofNat 32 (natBits x.addr 0 32)
    | 1 => BitVec.ofNat 32 (natBits x.addr 32 32)
    | 2 => BitVec.ofNat 32 x.data
    | _ => if x.mask then 1#32 else 0#32
  else if 0x2000 ≤ a && a < 0x2010 then
    BitVec.ofNat 32 (((List.range 32).filter (fun j => (s.vec ((a - 0x2000) / 4 * 32 + j)).pend)).foldl (fun m j => m + 2 ^ j) 0)
  else 0#32

/-- A word of the MSI-X table written (R216, R251): address, data, or the mask bit, whose clearing sends a pending
message. -/
def msixWrite (a : Nat) (v : Word) (s : State) : State :=
  let n := a / 16
  let x := s.vec n
  match a % 16 / 4 with
  | 0 => s.setVec n { x with addr := natPut x.addr 0 32 v.toNat }
  | 1 => s.setVec n { x with addr := natPut x.addr 32 32 v.toNat }
  | 2 => s.setVec n { x with data := v.toNat }
  | _ =>
    let s1 := s.setVec n { x with mask := v.getLsbD 0 }
    if !v.getLsbD 0 && x.pend then s1.vecFire n else s1

/-- REG_WRITE: a PCIe write of `n` bytes.  One of another width or alignment is ignored (R10); the function answers in
its BARs from stage 2 on (R542). -/
def execRegWrite (bar : Bar) (a n : Nat) (v : Word) (s : State) : Host.Outcome State Fault Refusal :=
  .next (
    if a % 4 != 0 || n != 4 then s
    else
      match bar with
      | .bar0 => hostWrite .pcie a v s
      | .bar4 => if a < 2048 && 2 ≤ s.g F.BOOT_STAGE.STAGE then msixWrite a v s else s)

/-! ### Reads (R13, R19) -/

/-- The word a register shows, without the effects of reading it. -/
def State.regShow (s : State) (r : RegRow) (i j : Nat) (a : Nat) : Word :=
  let w := s.rd a
  match r.name with
  | .LVL_DATA => BitVec.ofNat 32 (natBits (s.level i (s.g (F.LVL_IDX.SET i)) (s.g (F.LVL_IDX.SLOT i))).toNat (32 * j) 32)
  | .UC_RD_DATA =>
    let m := s.g F.UC_RD_IDX.ADDR
    if s.part.writableStore || 0x2000 ≤ m then 0 else Config.ucWord m
  | .FLT_DESC_LO => BitVec.ofNat 32 (s.hl i).fltSnap.1
  | .FLT_DESC_HI => BitVec.ofNat 32 (s.hl i).fltSnap.2.1
  | .FLT_CRC => BitVec.ofNat 32 (s.hl i).fltSnap.2.2
  | .AXIN_STAT => fieldPut 0 4 s.axinActive w
  | .GAL_STAT => fieldPut 4 1 s.quiesced.toNat w
  | .GAL_ALAT => fieldPut 16 8 ((64 + s.prediv i - 1) / s.prediv i) w
  | .GAL_MAP_DATA => BitVec.ofNat 32 (natBits (s.peer (s.g F.GAL_MAP_IDX.PEER)).map (32 * s.g F.GAL_MAP_IDX.WORD) 32)
  | .CAL_HALL => fieldPut 30 1 (s.gap i).isSome.toNat w
  | .CAL_GRP => fieldPut 30 1 (s.gap (32 + i)).isSome.toNat w
  | .EVD_FLAG => s.evdFlagRead i (j == 1)
  | .MSPI_ID => s.rd R.ID
  | .ACQ_IDX => BitVec.ofNat 32 (min ((s.dig i).idx + s.acqDue i) 0xFFFFFFFF)
  | _ => w

/-- The word at a BAR0 address; zero where nothing is assigned (R15). -/
def State.wordAt (s : State) (a : Nat) : Word :=
  match regAt a with
  | none => 0
  | some (r, ix) => if instPresent s.part r.unit ix then s.regShow r (ix.getD 0 0) (ix.getD 1 0) a else s.rd a

/-- The low words of the 64-bit values that R19 governs; the high word stands 4 above. -/
def pairLow : RegName → Bool
  | .AXIS_POS_LO => true | .LAND_CNT_LO => true | .REG_FREQ_LO => true | .DEV_UID_LO => true | _ => false

def pairHigh : RegName → Bool
  | .AXIS_POS_HI => true | .LAND_CNT_HI => true | .REG_FREQ_HI => true | .DEV_UID_HI => true | _ => false

/-- Key of the latch of a high word on a path. -/
def latchKey (path : Path) (a : Nat) : Nat := path.idx * 2 ^ 32 + a

/-- A read of a low word latches the high word; a read of a high word returns the latch, zero if none. -/
def pairRead (path : Path) (low : Bool) (a : Nat) (s : State) : State :=
  if low then { s with latch := tabSet (fun _ => 0) s.latch (latchKey path (a + 4)) (s.wordAt (a + 4)) }.setRead path (s.wordAt a)
  else s.setRead path (tabGet (fun _ => 0) s.latch (latchKey path a))

/-- A read at a BAR0 address that the device answers, with its effects. -/
def regRead (path : Path) (a : Nat) (s : State) : State :=
  match regAt a with
  | none => s.setRead path 0
  | some (r, ix) =>
    let i := ix.getD 0 0
    if !instPresent s.part r.unit ix then s.setRead path (s.wordAt a)
    else if pairLow r.name || pairHigh r.name then pairRead path (pairLow r.name) a s
    else
      match r.name with
      | .FLT_DESC_LO => fltDescLoRead path i s
      | .FLT_LOG0 => fltLogRead path s
      | .PORT_DATA => if s.inService && s.awake then portDataRead path i (ix.getD 1 0) s else s.setRead path (s.wordAt a)
      | _ => s.setRead path (s.wordAt a)

/-- A 32-bit read of the host: the global block answers always, the thermal block in service, the rest in service while no
shutdown is in force (R463, R542). -/
def hostReadReg (path : Path) (a : Nat) (s : State) : State :=
  if a < 0x10000 || (s.inService && (thermBlock a || s.awake)) then regRead path a s else s.setRead path 0

/-- COUNTER_LOW_READ: `n` bytes are read at the address of either word of a 64-bit value (R19).  A PCIe read of another
width or alignment returns zero and latches nothing (R10). -/
def execCounterLowRead (path : Path) (a n : Nat) (s : State) : Host.Outcome State Fault Refusal :=
  .next (
    if path == .pcie && (a % 4 != 0 || n != 4) then s.setRead path 0
    else
      match regAt a with
      | some (r, _) => if pairLow r.name || pairHigh r.name then hostReadReg path a s else s
      | none => s)

/-! ### The management port (R381–R383) -/

/-- The BAR0 address of an index in the present window; index 0 is MSPI_WIN itself. -/
def State.mspiAddr (s : State) (i : Nat) : Nat := if i = 0 then R.MSPI_WIN else s.g F.MSPI_WIN.WIN * 512 + 4 * i

/-- A doorbell page. -/
def doorbellPage (a : Nat) : Bool := 0x10000 ≤ a && a < 0x18000

/-- The word at index `i` is fetched into the frame, with the effects of its read. -/
def mspiFetch (i : Nat) (s : State) : State :=
  let a := s.mspiAddr i
  let s1 :=
    if 0x7F < i || doorbellPage a || s.g F.BOOT_STAGE.STAGE == 0 then s.setRead .mspi 0 else hostReadReg .mspi a s
  { s1 with mspi := s1.mspi.map (fun f => { f with fetched := tabGet (fun _ => 0) s1.rdata Path.mspi.idx }) }

/-- MSPI_FRAME_HEADER: byte 0.  A read frame sends the status word, which consumes no index. -/
def execMspiFrameHeader (b : Nat) (s : State) : Host.Outcome State Fault Refusal :=
  .next (
    if s.mspi.isSome || 256 ≤ b then s
    else
      let i := b % 128
      let status := if s.g F.BOOT_STAGE.STAGE = 0 then 0 else s.rd R.MSPI_STAT
      let s1 := { s with mspi := some { read := decide (128 ≤ b), idx := i, last := status } }
      if b < 128 then s1 else mspiFetch i (s1.send (.shift 0 status.toNat)))

/-- A write word lands at the frame's index, which then advances. -/
def mspiWord (f : MspiFrame) (v : Word) (s : State) : State :=
  let a := s.mspiAddr f.idx
  let s1 := { s with mspi := some { f with idx := f.idx + 1 } }
  if s.g F.BOOT_STAGE.STAGE = 0 then s1
  else if 0x7F < f.idx then s1.set1 F.MSPI_STAT.ADDR_OVF
  else if doorbellPage a then s1.set1 F.MSPI_STAT.DENIED
  else hostWrite .mspi a v s1

/-- MSPI_WRITE_WORD. -/
def execMspiWriteWord (v : Word) (s : State) : Host.Outcome State Fault Refusal :=
  .next (match s.mspi with | some f => if f.read then s else mspiWord f v s | none => s)

/-- MSPI_WIN_WRITE: a write word that addresses MSPI_WIN; the new window serves from the next word. -/
def execMspiWinWrite (v : Word) (s : State) : Host.Outcome State Fault Refusal :=
  .next (match s.mspi with
    | some f => if !f.read && f.idx ≤ 0x7F && s.mspiAddr f.idx == R.MSPI_WIN then mspiWord f v s else s
    | none => s)

/-- Registers that answer within 2 µs, so that a fast SCK may find their words not ready (R383). -/
def slowReg : RegName → Bool
  | .PORT_DATA => true | .LVL_DATA => true | .FLT_DESC_LO => true | .FLT_DESC_HI => true | .FLT_CRC => true
  | .UC_RD_DATA => true | _ => false

/-- The word at an index may be late. -/
def State.mspiSlow (s : State) (i : Nat) : Bool :=
  match regAt (s.mspiAddr i) with | some (r, _) => slowReg r.name | none => false

/-- MSPI_READ_WORD: the word of the present index is shifted out, or the previous one again if it is not ready, and the
next index is fetched. -/
def mspiSend (f : MspiFrame) (ready : Bool) (s : State) : State :=
  let late := f.idx ≤ 0x7F && !ready && s.mspiSlow f.idx
  let w := if late then f.last else f.fetched
  let s1 := (s.when (0x7F < f.idx) (fun t => t.set1 F.MSPI_STAT.ADDR_OVF)).when late (fun t => t.set1 F.MSPI_STAT.UNDERRUN)
  mspiFetch (f.idx + 1) ({ s1 with mspi := some { f with idx := f.idx + 1, last := w } }.send (.shift 0 w.toNat))

def execMspiReadWord (ready : Bool) (s : State) : Host.Outcome State Fault Refusal :=
  .next (match s.mspi with | some f => if f.read then mspiSend f ready s else s | none => s)

/-- MSPI_FRAME_END: CS_N rises, within byte 0 or a word if `part`. -/
def execMspiFrameEnd (part : Bool) (s : State) : Host.Outcome State Fault Refusal :=
  .next ({ s with mspi := none }.when part (fun t => t.count F.MSPI_STAT.PARTIAL F.MSPI_STAT.SAT))

end Sys2Proof.Machine
end

