-- ==== Sys2Proof/Machine/Replay.lean ====
section
/-! DEFINITION. The inputs of a replay (chapter "Record and replay", R511–R513): one record of the buffer at a time, in
SEQ order, acts in place of the live input. -/
namespace Sys2Proof.Machine

/-- The replay in progress changed. -/
def modRpl (f : ReplayX → ReplayX) (s : State) : State := { s with rpl := s.rpl.map f }

/-- Bytes of a record's DATA. -/
def JRec.dat (r : JRec) (lo n : Nat) : Nat := natBits r.data (8 * lo) (8 * n)

/-- The record is of a kind that acts at its axis position, where the hall has to be; the others are taken ahead and wait
for their landing, or act on the device. -/
def JRec.acts (r : JRec) : Bool :=
  r.hall < 32 && ([0x53, 0x54, 0x55, 0x58, 0x59, 0x5A, 0x5C, 0x5E].contains r.typ || (r.typ == 0x5B && [1, 2, 6].contains r.arg))

/-- A request or HEV input that acts after its reference snapshot waits until the replay has taken that one (R558). -/
def State.rplRefReady (s : State) (r : JRec) : Bool :=
  let v := if r.typ = 0x54 then r.dat 2 4 else r.dat 0 4
  !(r.typ == 0x54 || r.typ == 0x55) || 2 ^ 31 ≤ v || (s.rplSnap r.hall).isNone

/-- The record can act now. -/
def State.rplReady (s : State) (r : JRec) : Bool :=
  (!r.acts && !(r.typ == 0x5B && [3, 4].contains r.arg && !s.playing r.hall)) || ((r.axis ≤ s.pos r.hall || !((s.rpl.map (·.seen)).getD []).contains r.hall) && s.rplRefReady r)

/-- The first hall record of a hall sets its axis position. -/
def rplSeat (r : JRec) (s : State) : State :=
  match s.rpl with
  | some x => if s.hallOk r.hall && !x.seen.contains r.hall then modRpl (fun x => { x with seen := r.hall :: x.seen }) (s.setPos r.hall r.axis) else s
  | none => s

/-- CONFIG: the recorded START_RUN of the named halls. -/
def rplConfig (halls : Nat) (s : State) : State :=
  let named := (List.range 32).filter (fun h => s.hallOk h && natBits halls h 1 == 1)
  ({ (s.over named winClose).over named startHall with tb2 := 0 } : State)

/-- SNAPSHOT or RESAMPLE: the next lead point or re-sample takes it.  The snapshot of a resume landing starts the swap
that the scheduler record has announced (R199). -/
def rplSnapshot (r : JRec) (s : State) : State :=
  let x : RplSnap := {
    hall := r.hall, resample := r.typ == 0x52, bits := r.dat 0 4, mask := r.dat 4 4, axis := r.axis, land := r.dat 8 4 }
  let s1 := modRpl (fun y => { y with snaps := y.snaps ++ [x] }) s
  match (s.rpl.map (·.admits)).getD [] |>.find? (fun a => a.1 == r.hall) with
  | some (h, b) =>
    if x.resample then s1 else swapBegin h b (modRpl (fun y => { y with admits := y.admits.filter (fun a => a.1 != h) }) s1)
  | none => s1

/-- FWIN: the fail window of an alcove. -/
def rplFwin (r : JRec) (s : State) : State :=
  let h := r.subj / 96
  let n := r.dat 0 4
  if !s.hallOk h then s
  else
    (modRpl (fun y => { y with wins := y.wins ++ [(r.subj, n)] }) s).modAlc h (r.subj % 96) (fun a => { a with
      fails := min (a.fails + n) (2 ^ 31 - 1), failsSat := a.failsSat || decide (2 ^ 31 - 1 < a.fails + n)
      firstEntry := if r.dat 4 4 = 0xFFFFFFFF then a.firstEntry else some (r.dat 4 4)
      firstFlight := if r.arg = 0xFFFF then a.firstFlight else some r.arg })

/-- SYNC: the recorded level of the line. -/
def rplSync (r : JRec) (s : State) : State :=
  let x := (s.hl r.hall).hold
  if r.dat 0 1 &&& 6 == 0 && x.sync == some r.subj && x.syncSeen.isNone then syncSample r.hall r.subj (r.dat 0 1 % 2 == 1) s else s

/-- SERIAL: the status of a SEND; one of an earlier SEND leaves SDONE and SMIS unchanged (R374). -/
def rplSerial (r : JRec) (s : State) : State :=
  let i := r.subj % 96
  let mine (q : Nat × SendReq) : Bool := q.1 == r.hall && q.2.alc == i
  let ss := (s.rpl.map (·.sends)).getD []
  match ss.find? mine with
  | some (_, q) =>
    let s1 := modRpl (fun y => { y with sends := ss.filter (fun x => !(mine x && x.2.seq == q.seq)) }) s
    let s2 := s1.when s.dryRun (hseReport r.hall r.arg r.subj (r.dat 0 1) (r.dat 5 4))
    s2.when (decide ((s.alc r.hall i).lastSend = q.seq)) (fun t =>
      t.modAlc r.hall i (fun a => { a with sdone := true, smis := r.dat 0 1 % 2 == 1 }))
  | none => s

/-- The first element that satisfies a test, and the list without it. -/
def takeFirst {α : Type} (p : α → Bool) : List α → Option α × List α
  | [] => (none, [])
  | x :: xs => if p x then (some x, xs) else let (y, r) := takeFirst p xs; (y, x :: r)

/-- MEAS: the code of a measurement; MOUT follows from the limits of its set, or from a fence or trip of its channel
(R316, R317). -/
def rplMeasEnd (r : JRec) (s : State) : State :=
  let i := r.subj % 96
  let code := signed 32 (r.dat 0 4)
  match takeFirst (fun (m : MeasReq) => m.hall == r.hall && m.alc == i && m.ch == r.arg) ((s.rpl.map (·.meas)).getD []) with
  | (some m, rest) =>
    let g := m.ch / 4
    let out := decide (code < signed 32 (s.g (F.MSET_LO.LIMIT g m.mset))) || decide (signed 32 (s.g (F.MSET_HI.LIMIT g m.mset)) < code) ||
      s.fenced (32 + g) || s.is (F.SMU_STAT.TRIPPED m.ch)
    let s1 := (modRpl (fun y => { y with meas := rest }) s).modAlc r.hall i (fun a => { a with
      mdone := true, mout := out, lastMeas := code })
    s1.when s.dryRun (fun t => (t.p (F.MEAS_LAST.CODE m.ch) (r.dat 0 4)).emit (184 + g))
  | (none, _) => s

/-- TDCQ: a threshold latch. -/
def rplTdcq (r : JRec) (s : State) : State :=
  s.when (r.arg < 4) (fun t => t.setBit (F.TDC_HALL_STAT.TDCQ r.hall) r.arg)

/-- AXIS: lock and holdover show in AXIS_STAT; stall starts, segment holds, head misses and in a flight changes of ratio
wait for their landing; a stall ends. -/
def rplAxis (r : JRec) (s : State) : State :=
  let h := r.hall
  match r.arg with
  | 1 => s.p (F.AXIS_STAT.STATE h) axLocked
  | 2 => ((s.p (F.AXIS_STAT.STATE h) axHoldover).set1 (F.AXIS_STAT.AXIS_LOST h)).clr (F.AXIS_STAT.ALIGNED h)
  | 6 => match (s.hl h).hold.stall with | some _ => stallEnd h s | none => s
  | 3 => if s.playing h then modRpl (fun y => { y with notes := y.notes ++ [(h, 3, r.dat 0 2)] }) s else rplRatio h 3 (r.dat 0 2) s
  | 4 => if s.playing h then modRpl (fun y => { y with notes := y.notes ++ [(h, 4, 0)] }) s else rplRatio h 4 0 s
  | n => modRpl (fun y => { y with notes := y.notes ++ [(h, n, r.dat 2 4)] }) s

/-- The recorded decision to keep bank `b` or let it in (R511): the bank goes on at its swap point, or goes live, at once where
it resumes a stored action and else with the snapshot of its resume landing. -/
def rplAdmit (h b : Nat) (s : State) : State :=
  let out := s.liveBank h
  let at_ := ((s.rpl.map (·.swaps)).getD []).contains h
  let s0 := modRpl (fun y => { y with swaps := y.swaps.filter (fun x => x != h) }) s
  if out == some b then
    if at_ then
      let s1 := admitBank h out b 0 s0
      let joined := (s.lives h).filter (fun i => (s.alc h i).joined)
      runOn h 2 (fun i => if joined.contains i then some (s1.alc h i).ctx.pc else none) (s1.modHold h (fun x => { x with dec := true }))
    else s0
  else
    let s1 := admitBank h out b 0 s0
    if (s.bank h b).park.isSome && out.isNone then swapBegin h b s1
    else modRpl (fun y => { y with admits := y.admits ++ [(h, b)] }) s1

/-- The recorded leaving of bank `b`: a bank admitted with a stored action goes live; with none admitted the hall goes
idle. -/
def rplPark (h b : Nat) (s : State) : State :=
  match (s.rpl.map (·.admits)).getD [] |>.find? (fun a => a.1 == h) with
  | some (_, c) =>
    if (s.bank h c).park.isSome then swapBegin h c (modRpl (fun y => { y with admits := y.admits.filter (fun a => a.1 != h) }) s) else s
  | none =>
    if s.liveBank h == some b && ((s.rpl.map (·.swaps)).getD []).contains h then
      goIdle h (leaveBank h b (modRpl (fun y => { y with swaps := y.swaps.filter (fun x => x != h) }) s))
    else s

/-- SCHED: the decisions are applied as recorded and not recomputed. -/
def rplSched (r : JRec) (s : State) : State :=
  if 3 ≤ r.subj then s
  else match r.arg with
  | 0 => rplAdmit r.hall r.subj s
  | 3 => rplAdmit r.hall r.subj s
  | 1 => setDefer r.hall r.subj (r.dat 0 1) s
  | 2 => rplPark r.hall r.subj s
  | _ => s

/-- FAULT: what a recorded fault does to alcoves and halls; a SEND that found its queue full also takes its status here
(R375, R474). -/
def rplFault (r : JRec) (s : State) : State :=
  let src := r.subj
  let u := r.dat 0 1
  let d := r.dat 1 4
  let s1 :=
    if src < 256 && src % 8 = 5 then
      match takeFirst (fun (q : Nat × SendReq) => 96 * q.1 + q.2.alc == d) ((s.rpl.map (·.sends)).getD []) with
      | (some q, rest) => (modRpl (fun y => { y with sends := rest }) s).when (decide ((s.alc q.1 q.2.alc).lastSend = q.2.seq)) (fun t =>
          t.modAlc q.1 q.2.alc (fun a => { a with sdone := true, smis := true }))
      | (none, _) => s
    else s
  if r.arg = 0 then s1
  else
    let s2 := s1.over (s1.srcAlcs src) (fun a t => alcFault a fcOther t)
    if r.arg = 1 then s2
    else if r.arg = 2 then s2.when (u < 32 && s2.hallOk u) (hallPark u)
    else s2.each s2.part.halls hallPark

/-- What a record does in a replay.  DESC, DOORBELL, MARK, TIME, CAL, PEER, DIVERGE, CONT and marker records carry no input
that this device's run depends on. -/
def rplInput (r : JRec) (s : State) : State :=
  match r.typ with
  | 0x50 => rplSnapshot r s
  | 0x51 => rplFwin r s
  | 0x52 => rplSnapshot r s
  | 0x53 => rplSync r s
  | 0x54 => if r.arg = 1 then stopArrive r.hall 0 s else s.when (!s.is (F.JMP_REQ.REQ r.hall)) (jmpArrive r.hall (r.dat 0 2))
  | 0x55 => hevLatch r.hall (r.arg % 8) r.subj s
  | 0x58 => rplSerial r s
  | 0x59 => rplMeasEnd r s
  | 0x5A => rplTdcq r s
  | 0x5B => rplAxis r s
  | 0x5C => rplSched r s
  | 0x5D => s.when (r.arg == 0) (modRpl (fun y => { y with level := r.dat 0 1 }))
  | 0x5E => rplFault r s
  | 0x63 => rplConfig (r.dat 0 4) s
  | 0x64 => regWrite .pcie (r.dat 0 4) (BitVec.ofNat 32 (r.dat 4 4)) s
  | _ => s

/-- A hall record of a type that acts on its hall, for a hall that the part lacks. -/
def State.rplForeign (s : State) (r : JRec) : Bool :=
  !s.hallOk r.hall && ([0x50, 0x52, 0x53, 0x54, 0x55, 0x58, 0x59, 0x5A, 0x5B, 0x5C].contains r.typ)

/-- REPLAY_INPUT: the next record of the buffer is read and acts; a GAP ends the replay (R513). -/
def replayInput (w : BitVec 256) (x : ReplayX) (s : State) : State :=
  let r := recOf w.toNat
  if r.typ != 0x5F && !s.rplForeign r && !s.rplReady r then s
  else
    let s1 := (s.send (.hostRead (x.base + x.pos) 32)).p F.RPL_POS.VALUE (x.pos + 32)
    let s2 := modRpl (fun y => { y with pos := x.pos + 32, seq := r.seq }) s1
    if r.typ = 0x03 then replayStop .deferred 1 s2
    else if r.typ = 0x5F || s.rplForeign r then s2
    else withClaims (rplInput r) (rplSeat r s2)

def execReplayInput (rec : BitVec 256) (s : State) : Host.Outcome State Fault Refusal :=
  .next (match s.rpl with | some x => if x.pos < x.len && s.awake then replayInput rec x s else s | none => s)

end Sys2Proof.Machine
end

