-- ==== Sys2Proof/Machine/Dispatch.lean ====
section
/-! DEFINITION. The meaning of each command: one arm per constructor, one direct call of its meaning. -/
namespace Sys2Proof.Machine

def exec (i : Instr) (s : State) : Host.Outcome State Fault Refusal :=
  match i with
  | .axisEnable h v => Sys2Proof.Machine.execAxisEnable h v s
  | .axisDisable h v => Sys2Proof.Machine.execAxisDisable h v s
  | .axisZero h => Sys2Proof.Machine.execAxisZero h s
  | .axisCtlWrite h v => Sys2Proof.Machine.execAxisCtlWrite h v s
  | .axisLock h freq => Sys2Proof.Machine.execAxisLock h freq s
  | .axisLoss h cause => Sys2Proof.Machine.execAxisLoss h cause s
  | .holdoverExit h freq edge => Sys2Proof.Machine.execHoldoverExit h freq edge s
  | .axisWrap h => Sys2Proof.Machine.execAxisWrap h s
  | .ratioWrite h k isN v => Sys2Proof.Machine.execRatioWrite h k isN v s
  | .synArm h v => Sys2Proof.Machine.execSynArm h v s
  | .synTreadApply h => Sys2Proof.Machine.execSynTreadApply h s
  | .tsetWrite h t w v => Sys2Proof.Machine.execTsetWrite h t w v s
  | .axzArm => Sys2Proof.Machine.execAxzArm s
  | .axzSample => Sys2Proof.Machine.execAxzSample s
  | .axzZero => Sys2Proof.Machine.execAxzZero s
  | .loadFlight q => Sys2Proof.Machine.execLoadFlight q s
  | .loadFlightDmaDone h f data => Sys2Proof.Machine.execLoadFlightDmaDone h f data s
  | .loadFlightDmaFail h f => Sys2Proof.Machine.execLoadFlightDmaFail h f s
  | .fltDescLoRead path h => Sys2Proof.Machine.execFltDescLoRead path h s
  | .smuEnWrite k en => Sys2Proof.Machine.execSmuEnWrite k en s
  | .smuCtlWrite k v => Sys2Proof.Machine.execSmuCtlWrite k v s
  | .smuForceWrite k r v => Sys2Proof.Machine.execSmuForceWrite k r v s
  | .smuForceUpdate g pdiss => Sys2Proof.Machine.execSmuForceUpdate g pdiss s
  | .smuBridgeEnd k => Sys2Proof.Machine.execSmuBridgeEnd k s
  | .smuClamp k on => Sys2Proof.Machine.execSmuClamp k on s
  | .smuTrip k src => Sys2Proof.Machine.execSmuTrip k src s
  | .smuSwitchOpen k => Sys2Proof.Machine.execSmuSwitchOpen k s
  | .smuTripClear k => Sys2Proof.Machine.execSmuTripClear k s
  | .pdissTrip g => Sys2Proof.Machine.execPdissTrip g s
  | .measDelayEnd g j => Sys2Proof.Machine.execMeasDelayEnd g j s
  | .measConvert g code => Sys2Proof.Machine.execMeasConvert g code s
  | .msetWrite g m w v => Sys2Proof.Machine.execMsetWrite g m w v s
  | .ddsStart g mask => Sys2Proof.Machine.execDdsStart g mask s
  | .ddsStop g mask => Sys2Proof.Machine.execDdsStop g mask s
  | .ddsFtwWrite k v => Sys2Proof.Machine.execDdsFtwWrite k v s
  | .ddsPhaseWrite k v => Sys2Proof.Machine.execDdsPhaseWrite k v s
  | .peEnWrite h c en => Sys2Proof.Machine.execPeEnWrite h c en s
  | .dacArchWrite h c arch => Sys2Proof.Machine.execDacArchWrite h c arch s
  | .levelUpdate h c => Sys2Proof.Machine.execLevelUpdate h c s
  | .rangeCrossover h c => Sys2Proof.Machine.execRangeCrossover h c s
  | .rangeTarget h c => Sys2Proof.Machine.execRangeTarget h c s
  | .rangeBridgeEnd h c => Sys2Proof.Machine.execRangeBridgeEnd h c s
  | .compSettleEnd h c nv => Sys2Proof.Machine.execCompSettleEnd h c nv s
  | .peTrip h c nv => Sys2Proof.Machine.execPeTrip h c nv s
  | .tripClear h c nv => Sys2Proof.Machine.execTripClear h c nv s
  | .tripCtlWrite h c v => Sys2Proof.Machine.execTripCtlWrite h c v s
  | .ppGo h v => Sys2Proof.Machine.execPpGo h v s
  | .ppDone h mv => Sys2Proof.Machine.execPpDone h mv s
  | .parametricPhaseEnd h => Sys2Proof.Machine.execParametricPhaseEnd h s
  | .touchdown q => Sys2Proof.Machine.execTouchdown q s
  | .touchdownPhaseEnd h mv => Sys2Proof.Machine.execTouchdownPhaseEnd h mv s
  | .setLevels q => Sys2Proof.Machine.execSetLevels q s
  | .setLevelsCommit q ok data => Sys2Proof.Machine.execSetLevelsCommit q ok data s
  | .dacClrFall => Sys2Proof.Machine.execDacClrFall s
  | .dacClrRise => Sys2Proof.Machine.execDacClrRise s
  | .tdcGo h m => Sys2Proof.Machine.execTdcGo h m s
  | .tdcAbort h => Sys2Proof.Machine.execTdcAbort h s
  | .tdcSetWrite h m w v => Sys2Proof.Machine.execTdcSetWrite h m w v s
  | .tdcEvent h c kind t e => Sys2Proof.Machine.execTdcEvent h c kind t e s
  | .tdcAxisStart h m t => Sys2Proof.Machine.execTdcAxisStart h m t s
  | .sampleEnd h m => Sys2Proof.Machine.execSampleEnd h m s
  | .statsAccept h c => Sys2Proof.Machine.execStatsAccept h c s
  | .regGateClose h => Sys2Proof.Machine.execRegGateClose h s
  | .regResult h => Sys2Proof.Machine.execRegResult h s
  | .readStats q => Sys2Proof.Machine.execReadStats q s
  | .hseTransferStart h => Sys2Proof.Machine.execHseTransferStart h s
  | .serialXfer q => Sys2Proof.Machine.execSerialXfer q s
  | .xferSettleDone h => Sys2Proof.Machine.execXferSettleDone h s
  | .bspiGo v => Sys2Proof.Machine.execBspiGo v s
  | .bspiDone data => Sys2Proof.Machine.execBspiDone data s
  | .nopInstr h => Sys2Proof.Machine.execNopInstr h s
  | .halt h => Sys2Proof.Machine.execHalt h s
  | .play h => Sys2Proof.Machine.execPlay h s
  | .playn h => Sys2Proof.Machine.execPlayn h s
  | .loop h => Sys2Proof.Machine.execLoop h s
  | .next h => Sys2Proof.Machine.execNext h s
  | .call h => Sys2Proof.Machine.execCall h s
  | .ret h => Sys2Proof.Machine.execRet h s
  | .br h => Sys2Proof.Machine.execBr h s
  | .brw h => Sys2Proof.Machine.execBrw h s
  | .sett h => Sys2Proof.Machine.execSett h s
  | .waita h => Sys2Proof.Machine.execWaita h s
  | .sync h => Sys2Proof.Machine.execSync h s
  | .setl h => Sys2Proof.Machine.execSetl h s
  | .send h => Sys2Proof.Machine.execSend h s
  | .tdc h => Sys2Proof.Machine.execTdc h s
  | .meas h => Sys2Proof.Machine.execMeas h s
  | .emit h => Sys2Proof.Machine.execEmit h s
  | .acc h => Sys2Proof.Machine.execAcc h s
  | .bin h => Sys2Proof.Machine.execBin h s
  | .flag h => Sys2Proof.Machine.execFlag h s
  | .yield h => Sys2Proof.Machine.execYield h s
  | .gap h => Sys2Proof.Machine.execGap h s
  | .reservedOpcode h => Sys2Proof.Machine.execReservedOpcode h s
  | .segmentLimit h => Sys2Proof.Machine.execSegmentLimit h s
  | .leadPoint h => Sys2Proof.Machine.execLeadPoint h s
  | .dispatch h => Sys2Proof.Machine.execDispatch h s
  | .landing h => Sys2Proof.Machine.execLanding h s
  | .decisionArrival h => Sys2Proof.Machine.execDecisionArrival h s
  | .headFillDone h => Sys2Proof.Machine.execHeadFillDone h s
  | .stallEnd h => Sys2Proof.Machine.execStallEnd h s
  | .stallLimit h => Sys2Proof.Machine.execStallLimit h s
  | .stretchEnd h => Sys2Proof.Machine.execStretchEnd h s
  | .waitRelease h => Sys2Proof.Machine.execWaitRelease h s
  | .brwResample h => Sys2Proof.Machine.execBrwResample h s
  | .brwTimeout h => Sys2Proof.Machine.execBrwTimeout h s
  | .syncSample h high => Sys2Proof.Machine.execSyncSample h high s
  | .syncRelease h => Sys2Proof.Machine.execSyncRelease h s
  | .syncResume h => Sys2Proof.Machine.execSyncResume h s
  | .jmpReq h target => Sys2Proof.Machine.execJmpReq h target s
  | .swapSitesel h => Sys2Proof.Machine.execSwapSitesel h s
  | .swapSettleDone h => Sys2Proof.Machine.execSwapSettleDone h s
  | .deskewWrite h c v => Sys2Proof.Machine.execDeskewWrite h c v s
  | .loadStair q => Sys2Proof.Machine.execLoadStair q s
  | .loadStairDone q ok data => Sys2Proof.Machine.execLoadStairDone q ok data s
  | .bindAlcove q => Sys2Proof.Machine.execBindAlcove q s
  | .releaseAlcove q => Sys2Proof.Machine.execReleaseAlcove q s
  | .startRun q => Sys2Proof.Machine.execStartRun q s
  | .stopRun q => Sys2Proof.Machine.execStopRun q s
  | .compareInstant h c e volts => Sys2Proof.Machine.execCompareInstant h c e volts s
  | .deadlinePass h b => Sys2Proof.Machine.execDeadlinePass h b s
  | .deadlineWrite h b hi v => Sys2Proof.Machine.execDeadlineWrite h b hi v s
  | .pbudgetWrite v => Sys2Proof.Machine.execPbudgetWrite v s
  | .bcastWrite h g mem v => Sys2Proof.Machine.execBcastWrite h g mem v s
  | .schedBankWrite h b v => Sys2Proof.Machine.execSchedBankWrite h b v s
  | .measArrive g => Sys2Proof.Machine.execMeasArrive g s
  | .measDone g => Sys2Proof.Machine.execMeasDone g s
  | .hseEnqueue h => Sys2Proof.Machine.execHseEnqueue h s
  | .hseTransferEnd h data mid => Sys2Proof.Machine.execHseTransferEnd h data mid s
  | .hseAbort h => Sys2Proof.Machine.execHseAbort h s
  | .hseConfigWrite h r v => Sys2Proof.Machine.execHseConfigWrite h r v s
  | .sqDoorbell d q v => Sys2Proof.Machine.execSqDoorbell d q v s
  | .cqDoorbell d q v => Sys2Proof.Machine.execCqDoorbell d q v s
  | .rrHeadDoorbell d r v => Sys2Proof.Machine.execRrHeadDoorbell d r v s
  | .descFetch q descs => Sys2Proof.Machine.execDescFetch q descs s
  | .descFetchFail q => Sys2Proof.Machine.execDescFetchFail q s
  | .descStart => Sys2Proof.Machine.execDescStart s
  | .completionWrite q => Sys2Proof.Machine.execCompletionWrite q s
  | .qpEnable q v => Sys2Proof.Machine.execQpEnable q v s
  | .qpDisable q v => Sys2Proof.Machine.execQpDisable q v s
  | .qpDrainDone q => Sys2Proof.Machine.execQpDrainDone q s
  | .rrEnable r v => Sys2Proof.Machine.execRrEnable r v s
  | .rrDisable r v => Sys2Proof.Machine.execRrDisable r v s
  | .resultRecordWrite r => Sys2Proof.Machine.execResultRecordWrite r s
  | .rrWriteback r => Sys2Proof.Machine.execRrWriteback r s
  | .msixMessage v timed => Sys2Proof.Machine.execMsixMessage v timed s
  | .msixUnmask v => Sys2Proof.Machine.execMsixUnmask v s
  | .nop q => Sys2Proof.Machine.execNop q s
  | .fence q => Sys2Proof.Machine.execFence q s
  | .fenceDone q => Sys2Proof.Machine.execFenceDone q s
  | .acqArm q => Sys2Proof.Machine.execAcqArm q s
  | .acqSettleDone d => Sys2Proof.Machine.execAcqSettleDone d s
  | .acqPreDone d data clip => Sys2Proof.Machine.execAcqPreDone d data clip s
  | .acqTrigger d t raw data clip => Sys2Proof.Machine.execAcqTrigger d t raw data clip s
  | .acqTimeout d raw data clip => Sys2Proof.Machine.execAcqTimeout d raw data clip s
  | .acqForce d raw data clip => Sys2Proof.Machine.execAcqForce d raw data clip s
  | .acqAbort d data clip => Sys2Proof.Machine.execAcqAbort d data clip s
  | .acqPostDone d data clip => Sys2Proof.Machine.execAcqPostDone d data clip s
  | .acqRecordWrite d => Sys2Proof.Machine.execAcqRecordWrite d s
  | .acqDecim d data clip => Sys2Proof.Machine.execAcqDecim d data clip s
  | .acqOverrun d data clip => Sys2Proof.Machine.execAcqOverrun d data clip s
  | .rasterCommit q line ok block => Sys2Proof.Machine.execRasterCommit q line ok block s
  | .rsCommitApply => Sys2Proof.Machine.execRsCommitApply s
  | .rsKillApply => Sys2Proof.Machine.execRsKillApply s
  | .rsStartBlank => Sys2Proof.Machine.execRsStartBlank s
  | .rsLineMatch => Sys2Proof.Machine.execRsLineMatch s
  | .rsFrameDone => Sys2Proof.Machine.execRsFrameDone s
  | .rsUnderrun l line pixels => Sys2Proof.Machine.execRsUnderrun l line pixels s
  | .rsResyncEnd => Sys2Proof.Machine.execRsResyncEnd s
  | .rsFrameIncrement => Sys2Proof.Machine.execRsFrameIncrement s
  | .rsRecordWrite => Sys2Proof.Machine.execRsRecordWrite s
  | .rsLaneWrite k v => Sys2Proof.Machine.execRsLaneWrite k v s
  | .eventEmit trigin => Sys2Proof.Machine.execEventEmit trigin s
  | .evSwset hi v => Sys2Proof.Machine.execEvSwset hi v s
  | .evdSwset d hi v => Sys2Proof.Machine.execEvdSwset d hi v s
  | .evConfigWrite e r v => Sys2Proof.Machine.execEvConfigWrite e r v s
  | .tmGo k v => Sys2Proof.Machine.execTmGo k v s
  | .tmStop k v => Sys2Proof.Machine.execTmStop k v s
  | .timerOutput k => Sys2Proof.Machine.execTimerOutput k s
  | .timerWindowEnd k => Sys2Proof.Machine.execTimerWindowEnd k s
  | .journalMarkDrain => Sys2Proof.Machine.execJournalMarkDrain s
  | .trigoutPulseEnd n hall => Sys2Proof.Machine.execTrigoutPulseEnd n hall s
  | .helloSend port => Sys2Proof.Machine.execHelloSend port s
  | .helloRx port uid flags epoch => Sys2Proof.Machine.execHelloRx port uid flags epoch s
  | .peerMissed j => Sys2Proof.Machine.execPeerMissed j s
  | .frameRxDrop => Sys2Proof.Machine.execFrameRxDrop s
  | .failmapSend => Sys2Proof.Machine.execFailmapSend s
  | .failmapRx uid map => Sys2Proof.Machine.execFailmapRx uid map s
  | .peerAdmit j => Sys2Proof.Machine.execPeerAdmit j s
  | .peerRemove j => Sys2Proof.Machine.execPeerRemove j s
  | .roleWrite v => Sys2Proof.Machine.execRoleWrite v s
  | .galJoin => Sys2Proof.Machine.execGalJoin s
  | .galLeave => Sys2Proof.Machine.execGalLeave s
  | .galLinkChange port up => Sys2Proof.Machine.execGalLinkChange port up s
  | .gtlRise sample => Sys2Proof.Machine.execGtlRise sample s
  | .ptpSyncSend => Sys2Proof.Machine.execPtpSyncSend s
  | .ptpAnnounceSend => Sys2Proof.Machine.execPtpAnnounceSend s
  | .ptpDelayReqSend => Sys2Proof.Machine.execPtpDelayReqSend s
  | .ptpDelayReqRx port dom => Sys2Proof.Machine.execPtpDelayReqRx port dom s
  | .ptpDelayRespRx port dom stamp => Sys2Proof.Machine.execPtpDelayRespRx port dom stamp s
  | .ptpSyncRx port dom stamp => Sys2Proof.Machine.execPtpSyncRx port dom stamp s
  | .ptpSyncLoss => Sys2Proof.Machine.execPtpSyncLoss s
  | .tbSnap => Sys2Proof.Machine.execTbSnap s
  | .nsWrap => Sys2Proof.Machine.execNsWrap s
  | .timeStep q => Sys2Proof.Machine.execTimeStep q s
  | .timeRate q => Sys2Proof.Machine.execTimeRate q s
  | .ttArm n v => Sys2Proof.Machine.execTtArm n v s
  | .ttDisarm n v => Sys2Proof.Machine.execTtDisarm n v s
  | .ttFire n => Sys2Proof.Machine.execTtFire n s
  | .ttPulseEnd n => Sys2Proof.Machine.execTtPulseEnd n s
  | .refclkLoss => Sys2Proof.Machine.execRefclkLoss s
  | .refclkPresent => Sys2Proof.Machine.execRefclkPresent s
  | .refLoopLock => Sys2Proof.Machine.execRefLoopLock s
  | .faultOccurrence hw => Sys2Proof.Machine.execFaultOccurrence hw s
  | .wireFault src => Sys2Proof.Machine.execWireFault src s
  | .wireHealthy src => Sys2Proof.Machine.execWireHealthy src s
  | .baninUnsafe => Sys2Proof.Machine.execBaninUnsafe s
  | .baninReturnSafe => Sys2Proof.Machine.execBaninReturnSafe s
  | .releaseSafe v => Sys2Proof.Machine.execReleaseSafe v s
  | .fltCfgWrite src v => Sys2Proof.Machine.execFltCfgWrite src v s
  | .fltLogRead path => Sys2Proof.Machine.execFltLogRead path s
  | .fenceUnit q => Sys2Proof.Machine.execFenceUnit q s
  | .admitUnit q => Sys2Proof.Machine.execAdmitUnit q s
  | .warmingDone u sub pass us => Sys2Proof.Machine.execWarmingDone u sub pass us s
  | .hkRoundEnd data => Sys2Proof.Machine.execHkRoundEnd data s
  | .lvlFloorWrite v => Sys2Proof.Machine.execLvlFloorWrite v s
  | .thCfgWrite v => Sys2Proof.Machine.execThCfgWrite v s
  | .tsdWrite v => Sys2Proof.Machine.execTsdWrite v s
  | .tsReturn hi v => Sys2Proof.Machine.execTsReturn hi v s
  | .sdComparatorTrip j => Sys2Proof.Machine.execSdComparatorTrip j s
  | .thermalShutdown => Sys2Proof.Machine.execThermalShutdown s
  | .sdSeenClear => Sys2Proof.Machine.execSdSeenClear s
  | .indexGap q => Sys2Proof.Machine.execIndexGap q s
  | .indexGapClose u => Sys2Proof.Machine.execIndexGapClose u s
  | .calRun q => Sys2Proof.Machine.execCalRun q s
  | .calRunDone => Sys2Proof.Machine.execCalRunDone s
  | .calSave q ok => Sys2Proof.Machine.execCalSave q ok s
  | .calRestore q ok data => Sys2Proof.Machine.execCalRestore q ok data s
  | .bistRun q => Sys2Proof.Machine.execBistRun q s
  | .bistDone u sig us => Sys2Proof.Machine.execBistDone u sig us s
  | .calSliceStart u item chans => Sys2Proof.Machine.execCalSliceStart u item chans s
  | .calSliceEnd u ms => Sys2Proof.Machine.execCalSliceEnd u ms s
  | .walkStep u => Sys2Proof.Machine.execWalkStep u s
  | .portDma q => Sys2Proof.Machine.execPortDma q s
  | .portDmaUnit q ok data => Sys2Proof.Machine.execPortDmaUnit q ok data s
  | .portDataWrite p k v => Sys2Proof.Machine.execPortDataWrite p k v s
  | .portDataRead path p k => Sys2Proof.Machine.execPortDataRead path p k s
  | .portAddrWrite p v => Sys2Proof.Machine.execPortAddrWrite p v s
  | .portCtlWrite p v => Sys2Proof.Machine.execPortCtlWrite p v s
  | .portAptWrite p v => Sys2Proof.Machine.execPortAptWrite p v s
  | .apertureWrite p o bytes => Sys2Proof.Machine.execApertureWrite p o bytes s
  | .apertureRead p o n => Sys2Proof.Machine.execApertureRead p o n s
  | .journalCtl q ok head uid => Sys2Proof.Machine.execJournalCtl q ok head uid s
  | .journalRingWrite => Sys2Proof.Machine.execJournalRingWrite s
  | .journalFrameSend => Sys2Proof.Machine.execJournalFrameSend s
  | .journalFrameRx port uid recs => Sys2Proof.Machine.execJournalFrameRx port uid recs s
  | .digestReady => Sys2Proof.Machine.execDigestReady s
  | .replayEnd => Sys2Proof.Machine.execReplayEnd s
  | .vauxApply => Sys2Proof.Machine.execVauxApply s
  | .vauxRemove => Sys2Proof.Machine.execVauxRemove s
  | .porNFall => Sys2Proof.Machine.execPorNFall s
  | .porNRise => Sys2Proof.Machine.execPorNRise s
  | .bootStageEnd r => Sys2Proof.Machine.execBootStageEnd r s
  | .pgoodInChange up => Sys2Proof.Machine.execPgoodInChange up s
  | .perstNAssert => Sys2Proof.Machine.execPerstNAssert s
  | .perstNRelease => Sys2Proof.Machine.execPerstNRelease s
  | .pcieLinkLoss => Sys2Proof.Machine.execPcieLinkLoss s
  | .flr => Sys2Proof.Machine.execFlr s
  | .warmReset v => Sys2Proof.Machine.execWarmReset v s
  | .regWrite bar a n v => Sys2Proof.Machine.execRegWrite bar a n v s
  | .counterLowRead path a n => Sys2Proof.Machine.execCounterLowRead path a n s
  | .mspiFrameHeader b => Sys2Proof.Machine.execMspiFrameHeader b s
  | .mspiWriteWord v => Sys2Proof.Machine.execMspiWriteWord v s
  | .mspiReadWord ready => Sys2Proof.Machine.execMspiReadWord ready s
  | .mspiFrameEnd part => Sys2Proof.Machine.execMspiFrameEnd part s
  | .mspiWinWrite v => Sys2Proof.Machine.execMspiWinWrite v s
  | .replayInput rec => Sys2Proof.Machine.execReplayInput rec s

end Sys2Proof.Machine
end

