-- ==== Sys2Proof/Machine/Tick.lean ====
section
/-! DEFINITION. A core cycle in which no command waits: the time bases advance and treads of the axes start (R46, R438).
Every other event is a command (assumption 1). -/
namespace Sys2Proof.Machine

/-- The divider through which a hall counts treads from REFCLK in a replay: the smallest with which every ratio slot gives
at most 1.25 GHz (R511; assumption 2). -/
def State.rplDivider (s : State) (h : Nat) : Nat :=
  (List.range 8).foldl (fun d k =>
    let n := max 1 (s.g (F.RATIO_N.N h k))
    max d ((2 * s.g (F.RATIO_M.M h k) + 25 * n - 1) / (25 * n))) 1

/-- `n` sample periods of hall `h` pass: the phase slews, and the entries of the flight playing or the hold vector act on
the drive states (R68, R87, R91).  The hold vector after the period in which it began repeats itself but for DN, whose
values alternate. -/
def periodsPass (h n : Nat) (s : State) : State :=
  let x := s.hl h
  let left := match x.play with | some f => 64 * (s.flt_ h f).len - x.entry | none => n
  let s1 := samplePass h n (lanesPass h (if s.playing h then min n left else n) s)
  if n = 0 then s1
  else if s1.playing h then entriesTo h (x.entry + n) s1
  else if x.hold.held then
    match s1.liveBank h with
    | some b => if n % 2 = 1 then driveHold h b s1 else driveHold h b (driveHold h b s1)
    | none => s1
  else s1

/-- A core cycle of the axis of hall `h`: the sample periods of the cycle pass, and a tread starts when a whole one has
elapsed, by the frequency followed and slewed by R59, or in a replay by REFCLK, of which a period has 5 core cycles (R45,
R61, R511).  A cycle is the fraction `p` / `q` of a tread that is not slewed. -/
def axisTick (h : Nat) (s : State) : State :=
  let x := s.ax h
  if !s.replaying && !s.axRuns h then s
  else
    let p := if s.replaying then 1 else x.rate
    let q := if s.replaying then 5 * s.rplDivider h else 500000000 * s.prediv h
    let len := (65536 + x.slew).toNat
    let k := s.g (F.AXIS_STAT.SLOT h)
    let sub := x.sacc + p * s.g (F.RATIO_M.M h k) * 65536 * 2 ^ 64 / max 1 (q * s.g (F.RATIO_N.N h k) * len)
    let acc := x.acc + p
    let whole := q * len / 65536
    let s1 := periodsPass h (sub / 2 ^ 64) (s.setAx h { x with sacc := sub % 2 ^ 64, acc := if whole ≤ acc then acc - whole else acc })
    if whole ≤ acc then tread h s1 else s1

/-- Every second rising edge of REFCLK is aligned, and TB0 is latched there (R349, R355): once in ten core cycles, whose
phase is the model's (assumption 144). -/
def acqEdgeTick (s : State) : State := if s.cyc % 10 = 0 then { s with acqEdge := s.tb0 } else s

/-- A core cycle.  The landings of the cycle that ends take place, and what the hardware sets from now on belongs to the
next (R14, R41).  NOREF marking ends 1,024 REFCLK periods after the reference has returned (R341); in a thermal shutdown
TB0 runs on and the core does not (R462). -/
def tick (s : State) : State :=
  if !s.boot.vaux then s
  else
    let s0 := if s.inService && s.awake then landingsDue s else s
    let s1 := { s0 with cyc := s0.cyc + 1, fresh := [], freshN := [], jnl := { s0.jnl with cycN := 0 } }
    let s2 := match s1.norefEnd with
      | some n => if n ≤ s1.cyc then { s1 with noref := false, norefEnd := none } else s1
      | none => s1
    if !s2.inService then s2
    else
      let s3 := behindStep (acqEdgeTick (tbTick s2))
      if s3.awake then s3.each s3.part.halls (fun h t => axisTick h (xferWatch h t)) else s3

end Sys2Proof.Machine
end

