-- ==== Sys2Proof/Safety.lean ====
section
/-! DEFINITION. What claims call a safe step and a sound state. -/
namespace Sys2Proof.Machine

/-- The tables of registers and of bulk memory are in their canonical form: keys strictly rising, and no entry that equals
what an unlisted key reads as. -/
def Memory.wf (s : State) : Bool := tabWf (memDefault s.scr) s.mem

/-- The register table is canonical. -/
def Registers.wf (s : State) : Bool := tabWf (regReset s.part) s.regs

/-- A step goes on to a next state: it neither faults nor refuses. -/
def GoesOn (o : Host.Outcome State Fault Refusal) : Prop := ∃ t, o = .next t

/-- The device is in service and its core runs: host writes act (R462, R463, R542). -/
abbrev Ready (s : State) : Prop := s.inService = true ∧ s.awake = true

/-- Queue `q` executes the descriptor `r`, of opcode `op`, which has been acted on or not. -/
abbrev Executes (s : State) (q op : Nat) (acted : Bool) (r : DescRun) : Prop :=
  (s.queue q).run = some r ∧ r.acted = acted ∧ dOpcode r.desc = op ∧ s.queueOf r.did = some q

/-- The descriptors that the units' operations in progress will complete: runs that start or stop, admissions, loads, contact
tests, transfers, acquisitions and raster commits. -/
def State.unitDids (s : State) : List Nat :=
  s.stopRuns.map (fun x => x.did) ++ s.startRuns.map (fun x => x.did) ++ s.admits.map (fun x => x.did) ++
    s.flights.filterMap (fun e => e.2.dma) ++ s.halls.flatMap (fun e => e.2.loading.map (fun l => l.1)) ++
    s.peHalls.filterMap (fun e => e.2.touch.map (fun x => x.did)) ++ s.hses.filterMap (fun e => e.2.xfer.map (fun x => x.did)) ++
    s.digs.flatMap (fun e => e.2.did.toList ++ e.2.next.toList) ++ s.rs.pend.toList.map (fun x => x.did) ++
    s.rs.kill.toList.map (fun x => x.1)

/-- Queue `q` no longer executes, and holds the completion entry of `r` (R234) with a status and the result fields,
given by (byte, bytes, value). -/
abbrev Completed (t : State) (q : Nat) (r : DescRun) (st : Status) (res : List (Nat × Nat × Nat)) : Prop :=
  (t.queue q).run = none ∧
    (t.queue q).held = some (packB ((0, 4, dTag r.desc) :: (4, 1, st.code) :: (6, 2, r.qpos) :: res))

/-- The landing engine of hall `h` runs segments and fetches next instruction `w` for the cohort of member `m` (R122, R140,
R163): every page is sealed and none is being loaded, no running segment has reached its 64 instructions (R139), and no
other unit has faulted an alcove of the hall (R172). -/
abbrev Fetches (s : State) (h w : Nat) (m : Member) : Prop :=
  h < s.part.halls ∧ (s.hl h).eng.run = true ∧ s.fenced h = false ∧ (s.hl h).eng.front = some m ∧
    s.g (F.STAIR_STAT.SEALED h) = 0xFFFF ∧ (s.hl h).loading = [] ∧ s.g (F.UC_ENG.STATE h) = 1 ∧
    ((s.hl h).eng.members.all fun x => x.st != .run || x.n < 64) = true ∧ (s.hl h).eng.xfaults = [] ∧
    s.instr h m.ctx.pc = w

/-- The landing engine serves next instruction `w` for the cohort of `m`, by the routine that was shipped (R164, R176). -/
abbrev Serves (s : State) (h w : Nat) (m : Member) : Prop := Fetches s h w m ∧ s.ucAsShipped (opcOf w) = true

/-- Member `k` of hall `h`'s engine is `x`. -/
abbrev MemberIs (s : State) (h k : Nat) (x : Member) : Prop := (s.hl h).eng.members[k]? = some x

/-- Member `k` is `x`, in the cohort of `m`, and its loop on top does not end at this instruction of opcode `op` (R135). -/
abbrev InCohort (s : State) (h k op : Nat) (m x : Member) : Prop :=
  MemberIs s h k x ∧ x.at_ m.ctx.pc = true ∧ loopEndWrong x op = false

/-- The three records at the head of a journal buffer whose CONFIG group carries the digest `dg` (R503, R508). -/
def replayHead (dg : Nat) : List (BitVec 256) :=
  [0x63#256, BitVec.ofNat 256 (packB [(0, 1, 0x5F), (8, 24, natBits dg 0 192)]),
    BitVec.ofNat 256 (packB [(0, 1, 0x5F), (8, 8, natBits dg 192 64)])]

/-- The registers that a write changes field by field under their access codes (R13); the others have a rule of their own. -/
def plainReg (n : RegName) : Bool :=
  !([.AXIS_CTL, .RATIO_M, .RATIO_N, .HOLD_TREADS, .SYN_SCHED, .TSET_DRV, .TSET_CMP, .TSET_HDR, .DESKEW, .AXZ_CTL,
    .LAND_CFG, .JMP_REQ, .SCHED_CTL, .SCHED_BANK, .DEADLINE_LO, .DEADLINE_HI, .BCAST_SRC, .BCAST_MEM,
    .SCHED_FLOOR, .QP_SQ_DB, .QP_CQ_DB, .RR_HEAD_DB, .QP_CFG, .QP_SQ_BASE_LO, .QP_SQ_BASE_HI, .QP_CQ_BASE_LO,
    .QP_CQ_BASE_HI, .RR_CFG, .RR_BASE_LO, .RR_BASE_HI, .RR_WB_LO, .RR_WB_HI, .PORT_CTL, .PORT_ADDR, .PORT_APT,
    .PORT_DATA, .TRIP_MAP, .PP_CTL, .PE_CTL, .PE_STAT, .TRIP_CTL, .SMU_CTL, .SMU_STAT, .SMU_FORCE, .SMU_ICLAMP,
    .SMU_VCLAMP, .DDS_FTW, .DDS_AMPL, .DDS_PHASE, .DDS_START, .MSET_CFG, .MSET_FORCE, .MSET_LO, .MSET_HI,
    .TDC_HOST, .TDCQ_CFG, .TDC_SET_A, .TDC_SET_B, .TDC_SET_C, .TDC_SET_D, .ACQ_CTL, .HSE_SLOT_A, .HSE_SLOT_B,
    .HSE_SLOT_C, .HSE_SLOT_D, .LMAP_A, .LMAP_B, .HSE_CTL, .MSPI_WIN, .BSPI_CTL, .RS_LANE, .EV_CFG, .EV_STAT,
    .EV_HALLS, .EV_PMASK, .EV_CMASK, .EV_SWSET, .EV_REFRACT, .TM_CTL, .TM_DELAY, .TM_WIDTH, .TM_PERIOD,
    .EVD_SWSET, .EVD_FLAG, .GAL_CFG, .GAL_CTL, .GAL_PEER_IDX, .PTP_CFG, .TB_SNAP, .GAL_ALAT, .TT_CTL, .TT_AT_LO,
    .TT_AT_HI, .TT_PERIOD, .TT_WIDTH, .THERM_STAT, .THERM_CTL, .PBUDGET, .TH_CFG, .TSD_CFG, .TS_FAIL_LO,
    .TS_FAIL_HI, .RAIL_WIN, .FLT_CTL, .FLT_CFG, .CAL_CTL, .RESET_CTL] : List RegName).contains n

/-- What every step keeps: both tables are in their canonical form. -/
def Inv (s : State) : Prop := Registers.wf s = true ∧ Memory.wf s = true

/-- Ports of the serial engines, whose IN regions a transfer stopped by a fence or a stop may fill. -/
def serialData (p : Nat) : Bool := 64 ≤ p && p < 96

/-- The command may store in the bulk memory of data port `p` (R253): resets, tests and any access of the host everywhere;
loads, acquisitions and calibration in their own regions; what plays, stops or fences a hall in the IN regions of the serial
engines, whose transfer it may stop, and a fence of a unit also in the buffer of a digitizer, whose acquisition it ends.  No other command stores in bulk memory. -/
def mayStore (i : Instr) (p : Nat) : Bool :=
  match i with
  | .portDmaUnit _ _ _ | .vauxRemove | .porNFall | .warmReset _ | .bootStageEnd _ | .regWrite _ _ _ _
  | .mspiWriteWord _ | .mspiWinWrite _ | .bistRun _ | .bistDone _ _ _ | .replayInput _ => true
  | .portDataWrite q _ _ => q == p
  | .apertureWrite q _ _ => q == p
  | .deskewWrite _ _ _ => p == 100
  | .calSliceEnd _ _ | .calRunDone | .calSave _ _ | .calRestore _ _ _ => p == 100 || serialData p
  | .acqArm _ | .acqPreDone _ _ _ | .acqTrigger _ _ _ _ _ | .acqTimeout _ _ _ _ | .acqForce _ _ _ _ | .acqAbort _ _ _
  | .acqPostDone _ _ _ | .acqDecim _ _ _ | .acqOverrun _ _ _ => 96 ≤ p && p < 100
  | .loadFlightDmaDone _ _ _ => p < 32 || serialData p
  | .loadStairDone _ _ _ => (32 ≤ p && p < 64) || serialData p
  | .nopInstr _ | .halt _ | .play _ | .playn _ | .loop _ | .next _ | .call _ | .ret _ | .br _
  | .brw _ | .sett _ | .waita _ | .sync _ | .setl _ | .send _ | .tdc _ | .meas _ | .emit _
  | .acc _ | .bin _ | .flag _ | .yield _ | .gap _ | .reservedOpcode _ | .leadPoint _ | .dispatch _
  | .decisionArrival _ | .stallLimit _ | .swapSettleDone _ | .startRun _ | .stopRun _
  | .pbudgetWrite _ | .measArrive _ | .measDone _ | .hseEnqueue _ | .hseTransferEnd _ _ _ | .hseAbort _
  | .hseConfigWrite _ _ _ | .warmingDone _ _ _ _ | .hkRoundEnd _
  | .lvlFloorWrite _ | .journalCtl _ _ _ _ | .replayEnd => serialData p
  | .faultOccurrence _ | .wireFault _ | .fenceUnit _ | .thermalShutdown => serialData p || (96 ≤ p && p < 100)
  | _ => false

/-- The registers of hall `h` in BAR0: its block and that of its serial engine. -/
def hallPage (h a : Nat) : Bool :=
  (0x100000 + 0x10000 * h ≤ a && a < 0x110000 + 0x10000 * h) || (0x500000 + 0x2000 * h ≤ a && a < 0x502000 + 0x2000 * h)

/-- The registers that show the journal and its ring. -/
def journalRegs : List Nat := [R.JNL_STAT, R.JNL_SEQ, R.JNL_DROP, R.RR_STAT 4]

/-- The registers outside a hall that a command of the hall may change besides: the write refused in a shutdown, the lost
external sources, rings 0 and 1 filling, and the journal. -/
def sharedRegs : List Nat := [R.THERM_STAT, R.AXIN_STAT, R.RR_STAT 0, R.RR_STAT 1] ++ journalRegs

/-- The axis and set-up commands of hall `h`. -/
def actsOnHall (h : Nat) (i : Instr) : Bool :=
  match i with
  | .axisEnable g _ => g == h
  | .axisDisable g _ => g == h
  | .axisZero g => g == h
  | .axisCtlWrite g _ => g == h
  | .axisLock g _ => g == h
  | .axisLoss g _ => g == h
  | .holdoverExit g _ _ => g == h
  | .axisWrap g => g == h
  | .ratioWrite g _ _ _ => g == h
  | .synArm g _ => g == h
  | .synTreadApply g => g == h
  | .tsetWrite g _ _ _ => g == h
  | .tdcSetWrite g _ _ _ => g == h
  | .hseTransferStart g => g == h
  | .xferSettleDone g => g == h
  | .fltDescLoRead _ g => g == h
  | _ => false

/-- The value of a next state; a stop has none. -/
def nextOf (o : Host.Outcome State Fault Refusal) : Option State := match o with | .next t => some t | _ => none

end Sys2Proof.Machine
end

