-- ==== Sys2Proof/Certificates/Slice0/Obligations.lean ====
section
/-! DEFINITION. The statements for the provers. -/
open Sys2Proof Sys2Proof.Machine

/-- What a write of AXIS_CTL by each of its commands leaves (R48, R52, R55, R56): enabling an axis that is OFF starts the
follow loop, disabling one that is not OFF stops it and loses alignment, ZERO makes the next tread the one of position
zero, and a write that keeps the source fields stores the bandwidth and AXZ_EN. What a write of AXIS_CTL does where it
is turned away (R48, R52, R55): SRC = 3 sets CFG_ERR; a change of the enable while an alcove is LIVE, or of the
pre-divider outside OFF, sets SRC_BUSY; nothing else changes. -/
def Obligations.AxisControl : Prop :=
  (∀ (s : State) (h : Nat) (v : Word), Ready s → h < s.part.halls → (F.AXIS_CTL.EN h).is v = true → (F.AXIS_CTL.SRC h).of
    v ≠ 3 → s.anyLive h = false → s.axSt h = axOff → ∃ t, exec (.axisEnable h v) s = .next t ∧ t.axSt h = axAcquiring ∧
    t.is (F.AXIS_CTL.EN h) = true ∧ t.g (F.AXIS_CTL.SRC h) = (F.AXIS_CTL.SRC h).of v) ∧
  (∀ (s : State) (h : Nat) (v : Word), Ready s → h < s.part.halls → (F.AXIS_CTL.EN h).is v = false → (F.AXIS_CTL.SRC h).of
    v ≠ 3 → s.anyLive h = false → s.axSt h ≠ axOff → (∀ f ∈ [F.AXIS_CTL.SRC h, F.AXIS_CTL.EXT_SEL h, F.AXIS_CTL.EXT_EDGE
    h, F.AXIS_CTL.DUT_CH h, F.AXIS_CTL.PREDIV h], f.of v = s.g f) → ∃ t, exec (.axisDisable h v) s = .next t ∧ t.axSt h =
    axOff ∧ t.is (F.AXIS_STAT.ALIGNED h) = false ∧ t.is (F.AXIS_CTL.EN h) = false) ∧
  (∀ (s : State) (h : Nat), Ready s → h < s.part.halls → s.g (F.AXIS_CTL.SRC h) ≠ 3 → s.anyLive h = false → ∃ t, exec
    (.axisZero h) s = .next t ∧ t.is (F.AXIS_STAT.ALIGNED h) = false ∧ (axisTread h t).pos h = 0) ∧
  (∀ (s : State) (h : Nat) (v : Word), Ready s → h < s.part.halls → (F.AXIS_CTL.SRC h).of v ≠ 3 → s.anyLive h = false → (∀
    f ∈ [F.AXIS_CTL.SRC h, F.AXIS_CTL.EXT_SEL h, F.AXIS_CTL.EXT_EDGE h, F.AXIS_CTL.DUT_CH h, F.AXIS_CTL.PREDIV h], f.of v
    = s.g f) → ∃ t, exec (.axisCtlWrite h v) s = .next t ∧ t.g (F.AXIS_CTL.BW h) = (F.AXIS_CTL.BW h).of v ∧ t.g
    (F.AXIS_CTL.AXZ_EN h) = (F.AXIS_CTL.AXZ_EN h).of v) ∧
  (∀ (s : State) (h : Nat) (v : Word), Ready s → h < s.part.halls → s.anyLive h = false → (F.AXIS_CTL.SRC h).of v = 3 →
    exec (.axisCtlWrite h v) s = .next (s.p (F.AXIS_STAT.CFG_ERR h) 1)) ∧
  (∀ (s : State) (h : Nat) (v : Word), Ready s → h < s.part.halls → s.anyLive h = true → (F.AXIS_CTL.SRC h).of v ≠ 3 →
    (F.AXIS_CTL.EN h).of v ≠ s.g (F.AXIS_CTL.EN h) → exec (.axisCtlWrite h v) s = .next (s.p (F.AXIS_STAT.SRC_BUSY h) 1)) ∧
  (∀ (s : State) (h : Nat) (v : Word), Ready s → h < s.part.halls → s.anyLive h = false → (F.AXIS_CTL.SRC h).of v ≠ 3 →
    (F.AXIS_CTL.PREDIV h).of v ≠ s.g (F.AXIS_CTL.PREDIV h) → s.axSt h ≠ axOff → exec (.axisCtlWrite h v) s = .next (s.p
    (F.AXIS_STAT.SRC_BUSY h) 1))

/-- The follow loop (R46, R51, R53, R57–R59): a lock within the ranges enters LOCKED and measures the rate, a loss in
LOCKED enters HOLDOVER with its cause, loses alignment and takes the mean rate of the 1,024 treads that ended 4 treads
before, a return within the ranges relocks and is pulled in to the nearest edge, and the tread after the last of 2^48
positions is position zero. -/
def Obligations.AxisFollowLoop : Prop :=
  (∀ (s : State) (h freq : Nat), h < s.part.halls → s.axSt h = axAcquiring → freq < 2 ^ 29 → s.lockOk h freq = true → ∃ t,
    exec (.axisLock h freq) s = .next t ∧ t.axSt h = axLocked ∧ t.g (F.FOLLOW_FREQ.FREQ h) = freq ∧ (t.ax h).lockFreq =
    freq ∧ t.pos h = s.pos h) ∧
  (∀ (s : State) (h cause : Nat), h < s.part.halls → s.axSt h = axLocked → 1 ≤ cause → cause ≤ 4 → (cause = 4 → s.g
    (F.AXIS_CTL.SRC h) = 0) → ∃ t, exec (.axisLoss h cause) s = .next t ∧ t.axSt h = axHoldover ∧ t.g (F.AXIS_STAT.CAUSE
    h) = cause ∧ t.is (F.AXIS_STAT.AXIS_LOST h) = true ∧ t.is (F.AXIS_STAT.ALIGNED h) = false ∧ (t.ax h).rate = (s.ax
    h).holdFreq ∧ t.pos h = s.pos h) ∧
  (∀ (s : State) (h freq edge : Nat), h < s.part.halls → s.axSt h = axHoldover → freq < 2 ^ 29 → s.lockOk h freq = true →
    ∃ t, exec (.holdoverExit h freq edge) s = .next t ∧ t.axSt h = axLocked ∧ t.g (F.FOLLOW_FREQ.FREQ h) = freq ∧ (t.ax
    h).pull = nearestEdge edge ∧ t.pos h = s.pos h) ∧
  (∀ (s : State) (h : Nat), h < s.part.halls → s.axRuns h = true → s.pos h = 2 ^ 48 - 1 → (s.ax h).zeroNext = false → ∃ t,
    exec (.axisWrap h) s = .next t ∧ t.pos h = 0)

/-- Ratio words, staged changes and timing-set words (R62, R64, R66, R68, R72–R74): a ratio word is stored, or refused
with RATIO_ERR or RATIO_BUSY; a staged tread change that falls due outside a flight applies or is refused whole and
leaves nothing armed, and during a flight it is deferred; a valid timing-set word of a set that no LIVE alcove has
current is stored, an invalid one sets TSET_ERR, and a valid one of a set in use TSET_BUSY. The array zero (R76, R77):
ARM arms; the level sampled while armed is kept until the edge that acts on it; then every LOCKED hall that takes part
and has no LIVE alcove is at position zero, its synthesizer phase is reset, and it is aligned; another hall that takes
part has missed it; and the device is no longer armed. -/
def Obligations.AxisSettingsAndZero : Prop :=
  (∀ (s : State) (h k : Nat) (isN : Bool) (v : Word), Ready s → h < s.part.halls → k < 8 → fieldGet 0 24 v ≠ 0 → (s.g
    (F.AXIS_STAT.SLOT h) ≠ k ∨ s.axRuns h = false) → ∃ t, exec (.ratioWrite h k isN v) s = .next t ∧ t.rd (if isN then
    R.RATIO_N h k else R.RATIO_M h k) = BitVec.ofNat 32 (fieldGet 0 24 v)) ∧
  (∀ (s : State) (h k : Nat) (isN : Bool) (v : Word), Ready s → h < s.part.halls → k < 8 → fieldGet 0 24 v = 0 → (s.g
    (F.AXIS_STAT.SLOT h) ≠ k ∨ s.axRuns h = false) → exec (.ratioWrite h k isN v) s = .next (s.p (F.AXIS_STAT.RATIO_ERR h)
    1)) ∧
  (∀ (s : State) (h k : Nat) (isN : Bool) (v : Word), Ready s → h < s.part.halls → k < 8 → fieldGet 0 24 v ≠ 0 → s.g
    (F.AXIS_STAT.SLOT h) = k → s.axRuns h = true → s.anyLive h = false → sampleRateOk (s.ax h).rate (s.prediv h) (if isN
    then s.g (F.RATIO_M.M h k) else fieldGet 0 24 v) (if isN then fieldGet 0 24 v else s.g (F.RATIO_N.N h k)) = true → ∃
    t, exec (.ratioWrite h k isN v) s = .next t ∧ t.rd (if isN then R.RATIO_N h k else R.RATIO_M h k) = BitVec.ofNat 32
    (fieldGet 0 24 v)) ∧
  (∀ (s : State) (h k : Nat) (isN : Bool) (v : Word), Ready s → h < s.part.halls → k < 8 → fieldGet 0 24 v ≠ 0 → s.g
    (F.AXIS_STAT.SLOT h) = k → s.axRuns h = true → s.anyLive h = false → sampleRateOk (s.ax h).rate (s.prediv h) (if isN
    then s.g (F.RATIO_M.M h k) else fieldGet 0 24 v) (if isN then fieldGet 0 24 v else s.g (F.RATIO_N.N h k)) = false → ∃
    t, exec (.ratioWrite h k isN v) s = .next t ∧ t.is (F.AXIS_STAT.RATIO_ERR h) = true ∧ t.rd (if isN then R.RATIO_N h k
    else R.RATIO_M h k) = s.rd (if isN then R.RATIO_N h k else R.RATIO_M h k)) ∧
  (∀ (s : State) (h k : Nat) (isN : Bool) (v : Word), Ready s → h < s.part.halls → k < 8 → fieldGet 0 24 v ≠ 0 → s.g
    (F.AXIS_STAT.SLOT h) = k → s.axRuns h = true → s.anyLive h = true → exec (.ratioWrite h k isN v) s = .next (s.p
    (F.AXIS_STAT.RATIO_BUSY h) 1)) ∧
  (∀ (s : State) (h : Nat) (st : SynStage), h < s.part.halls → (s.ax h).stage = some st → st.tread = true → st.deferred =
    false → st.at_ ≤ s.pos h → (∀ k, st.slot = some k → k < 8 ∧ s.slotOk h k = true) → s.playing h = false → s.replaying =
    false → ∃ t, exec (.synTreadApply h) s = .next t ∧ (t.ax h).stage = none ∧ t.g (F.AXIS_STAT.SLOT h) = st.slot.getD
    (s.g (F.AXIS_STAT.SLOT h)) ∧ (t.ax h).phaseRem = (s.ax h).phaseRem + st.phase.getD 0 ∧ t.is (F.AXIS_STAT.ARMED h) =
    false) ∧
  (∀ (s : State) (h k : Nat) (st : SynStage), h < s.part.halls → (s.ax h).stage = some st → st.tread = true → st.deferred
    = false → st.at_ ≤ s.pos h → st.slot = some k → s.slotOk h k = false → s.playing h = false → s.replaying = false → ∃
    t, exec (.synTreadApply h) s = .next t ∧ (t.ax h).stage = none ∧ t.is (F.AXIS_STAT.RATIO_ERR h) = true ∧ t.g
    (F.AXIS_STAT.SLOT h) = s.g (F.AXIS_STAT.SLOT h) ∧ (t.ax h).phaseRem = (s.ax h).phaseRem ∧ t.is (F.AXIS_STAT.ARMED h) =
    false) ∧
  (∀ (s : State) (h : Nat) (st : SynStage), h < s.part.halls → (s.ax h).stage = some st → st.tread = true → st.deferred =
    false → st.at_ ≤ s.pos h → s.playing h = true → ∃ t, exec (.synTreadApply h) s = .next t ∧ (t.ax h).stage = some
    { st with deferred := true } ∧ t.is (F.AXIS_STAT.SYN_DEFER h) = true ∧ t.g (F.AXIS_STAT.SLOT h) = s.g
    (F.AXIS_STAT.SLOT h)) ∧
  (∀ (s : State) (h n c : Nat) (v : Word), Ready s → h < s.part.halls → n < 64 → c < 32 → s.tsetLive h n = false →
    drvWordOk h n c v = true → ∃ t, exec (.tsetWrite h n (.drv c) v) s = .next t ∧ t.rd (R.TSET_DRV h n c) = v &&&
    0xF3FF03FF#32) ∧
  (∀ (s : State) (h n c : Nat) (v : Word), Ready s → h < s.part.halls → n < 64 → c < 32 → s.tsetLive h n = false →
    cmpWordOk h n c v = true → ∃ t, exec (.tsetWrite h n (.cmp c) v) s = .next t ∧ t.rd (R.TSET_CMP h n c) = v &&&
    0xC3FF03FF#32) ∧
  (∀ (s : State) (h n : Nat) (v : Word), Ready s → h < s.part.halls → n < 64 → s.tsetLive h n = false → ∃ t, exec
    (.tsetWrite h n .hdr v) s = .next t ∧ t.rd (R.TSET_HDR h n) = v &&& 0xF#32) ∧
  (∀ (s : State) (h n : Nat) (w : TsWord) (v : Word), Ready s → h < s.part.halls → n < 64 → tsWordOk w = true → s.tsetLive
    h n = false → tsWordValid h n w v = false → exec (.tsetWrite h n w v) s = .next (s.p (F.AXIS_STAT.TSET_ERR h) 1)) ∧
  (∀ (s : State) (h n : Nat) (w : TsWord) (v : Word), Ready s → h < s.part.halls → n < 64 → tsWordOk w = true → s.tsetLive
    h n = true → tsWordValid h n w v = true → exec (.tsetWrite h n w v) s = .next (s.p (F.AXIS_STAT.TSET_BUSY h) 1)) ∧
  (∀ (s : State), Ready s → ∃ t, exec .axzArm s = .next t ∧ t.is F.AXZ_CTL.ARM = true ∧ t.is F.AXZ_CTL.ARMED = true) ∧
  (∀ (s : State), s.is F.AXZ_CTL.ARMED = true → exec .axzSample s = .next ({ s with axzPend := true })) ∧
  (∀ (s : State), s.is F.AXZ_CTL.ARMED = false → exec .axzSample s = .next (s)) ∧
  (∀ (s : State) (h : Nat), s.axzPend = true → h < s.part.halls → s.g (F.AXIS_CTL.SRC h) = 0 → s.is (F.AXIS_CTL.AXZ_EN h)
    = true → s.axSt h = axLocked → s.anyLive h = false → ∃ t, exec .axzZero s = .next t ∧ t.pos h = 0 ∧ (t.ax h).phase = 0
    ∧ (t.ax h).phaseRem = 0 ∧ t.is (F.AXIS_STAT.ALIGNED h) = true ∧ t.is F.AXZ_CTL.ARMED = false ∧ t.is F.AXZ_CTL.SEEN =
    true ∧ t.axzPend = false) ∧
  (∀ (s : State) (h : Nat), s.axzPend = true → h < s.part.halls → s.g (F.AXIS_CTL.SRC h) = 0 → s.is (F.AXIS_CTL.AXZ_EN h)
    = true → (s.axSt h ≠ axLocked ∨ s.anyLive h = true) → ∃ t, exec .axzZero s = .next t ∧ t.is (F.AXIS_STAT.AXZ_MISSED h)
    = true ∧ t.pos h = s.pos h ∧ t.is F.AXZ_CTL.ARMED = false ∧ t.is F.AXZ_CTL.SEEN = true ∧ t.axzPend = false)

/-- LOAD_FLIGHT (R97, R101–R103): with a legal range of granules that no other flight overlaps, MODE DMA makes an EMPTY
flight LOADING and asks for the host memory named, MODE OPEN makes it LOADING and open to writes and completes OK, MODE
CLOSE makes an opened flight that is not referenced VALID with the CRC-32 of its range, MODE FREE empties a VALID
flight, and a unit that is absent completes ABSENT. How a DMA load ends (R95, R97, R103): the bytes read are stored from
the first granule on, the flight is VALID with their CRC-32, and the descriptor completes OK, where no alcove references
the flight; a host read error empties the flight and stores nothing; the DETAIL of its FAULTED completion is a free
value of the model (log entry 15). A read of FLT_DESC_LO returns the flight that FLT_IDX names (R121). -/
def Obligations.FlightLoading : Prop :=
  (∀ (s : State) (q : Nat) (r : DescRun), Executes s q 2 false r → dUnit r.desc < s.part.halls → r.owns (dUnit r.desc) =
    true → dscBits r.desc 22 0 2 = 0 → loadFlightRsv r.desc 0 = true → 4 ≤ (flightOf r.desc).len → (flightOf r.desc).start
    + (flightOf r.desc).len ≤ s.part.granules → ((flightOf r.desc).pinnable = true → (flightOf r.desc).len ≤ 1024) → dAddr
    r.desc % 16 = 0 → dLen r.desc = (flightOf r.desc).len * 1024 → (s.flt_ (dUnit r.desc) (dscBits r.desc 20 0 12)).st = 0
    → s.conflict (dUnit r.desc) (dscBits r.desc 20 0 12) (flightOf r.desc).start (flightOf r.desc).len = none → ∃ t, exec
    (.loadFlight q) s = .next t ∧ (t.flt_ (dUnit r.desc) (dscBits r.desc 20 0 12)).st = 1 ∧ (t.flt_ (dUnit r.desc)
    (dscBits r.desc 20 0 12)).dma = some r.did ∧ t.out = s.out ++ [.hostRead (dAddr r.desc) (dLen r.desc)]) ∧
  (∀ (s : State) (q : Nat) (r : DescRun), Executes s q 2 false r → dUnit r.desc < s.part.halls → r.owns (dUnit r.desc) =
    true → dscBits r.desc 22 0 2 = 1 → loadFlightRsv r.desc 1 = true → 4 ≤ (flightOf r.desc).len → (flightOf r.desc).start
    + (flightOf r.desc).len ≤ s.part.granules → ((flightOf r.desc).pinnable = true → (flightOf r.desc).len ≤ 1024) → dLen
    r.desc = 0 → (s.flt_ (dUnit r.desc) (dscBits r.desc 20 0 12)).st = 0 → s.conflict (dUnit r.desc) (dscBits r.desc 20 0
    12) (flightOf r.desc).start (flightOf r.desc).len = none → ∃ t, exec (.loadFlight q) s = .next t ∧ (t.flt_ (dUnit
    r.desc) (dscBits r.desc 20 0 12)).st = 1 ∧ (t.flt_ (dUnit r.desc) (dscBits r.desc 20 0 12)).opened = true ∧ Completed
    t q r .ok (loadFlightRes (dscBits r.desc 20 0 12) 1 0 0 0)) ∧
  (∀ (s : State) (q : Nat) (r : DescRun), Executes s q 2 false r → dUnit r.desc < s.part.halls → r.owns (dUnit r.desc) =
    true → dscBits r.desc 22 0 2 = 3 → loadFlightRsv r.desc 3 = true → (s.flt_ (dUnit r.desc) (dscBits r.desc 20 0 12)).st
    = 2 → ∃ t, exec (.loadFlight q) s = .next t ∧ t.flt_ (dUnit r.desc) (dscBits r.desc 20 0 12) = {} ∧ Completed t q r
    .ok (loadFlightRes (dscBits r.desc 20 0 12) 0 0 0 0)) ∧
  (∀ (s : State) (q : Nat) (r : DescRun), Executes s q 2 false r → dUnit r.desc < s.part.halls → r.owns (dUnit r.desc) =
    true → dscBits r.desc 22 0 2 = 2 → loadFlightRsv r.desc 2 = true → (s.flt_ (dUnit r.desc) (dscBits r.desc 20 0 12)).st
    = 1 → (s.flt_ (dUnit r.desc) (dscBits r.desc 20 0 12)).opened = true → (s.flt_ (dUnit r.desc) (dscBits r.desc 20 0
    12)).dma = none → s.refs (dUnit r.desc) (dscBits r.desc 20 0 12) = 0 → ∃ t, exec (.loadFlight q) s = .next t ∧ (t.flt_
    (dUnit r.desc) (dscBits r.desc 20 0 12)).st = 2 ∧ (t.flt_ (dUnit r.desc) (dscBits r.desc 20 0 12)).opened = false ∧
    (t.flt_ (dUnit r.desc) (dscBits r.desc 20 0 12)).crc = s.fltCrc (dUnit r.desc) (s.flt_ (dUnit r.desc) (dscBits r.desc
    20 0 12)) ∧ Completed t q r .ok (loadFlightRes (dscBits r.desc 20 0 12) 2 0 (s.fltCrc (dUnit r.desc) (s.flt_ (dUnit
    r.desc) (dscBits r.desc 20 0 12))) 0)) ∧
  (∀ (s : State) (q : Nat) (r : DescRun), Executes s q 2 false r → dUnit r.desc < 32 → s.part.halls ≤ dUnit r.desc → ∃ t,
    exec (.loadFlight q) s = .next t ∧ Completed t q r .absent (loadFlightRes (dscBits r.desc 20 0 12) 0 0 0 0) ∧ t.mem =
    s.mem) ∧
  (∀ (s : State) (h f q did : Nat) (data : List Nat) (r : DescRun), (s.flt_ h f).dma = some did → (s.flt_ h f).st = 1 →
    data.length = (s.flt_ h f).len * 1024 → s.refs h f = 0 → s.queueOf did = some q → (s.queue q).run = some r → ∃ t, exec
    (.loadFlightDmaDone h f data) s = .next t ∧ (t.flt_ h f).st = 2 ∧ (t.flt_ h f).crc = crc32 data ∧ (t.flt_ h f).dma =
    none ∧ t.mem = (s.wrBytes h ((s.flt_ h f).start * 1024) data).mem ∧ Completed t q r .ok (loadFlightRes f 2 0 (crc32
    data) 0)) ∧
  (∀ (s : State) (h f q did : Nat) (r : DescRun), (s.flt_ h f).dma = some did → s.queueOf did = some q → (s.queue q).run =
    some r → ∃ t, exec (.loadFlightDmaFail h f) s = .next t ∧ t.flt_ h f = {} ∧ t.mem = s.mem ∧ Completed t q r .faulted
    (loadFlightRes f 0 (s.draw 8).1 0 0)) ∧
  (∀ (s : State) (path : Path) (h : Nat), Ready s → h < s.part.halls → ∃ t, exec (.fltDescLoRead path h) s = .next t ∧
    tabGet (fun _ => 0) t.rdata path.idx = BitVec.ofNat 32 (s.fltWords h (s.g (F.FLT_IDX.IDX h))).1 ∧ t.mem = s.mem)

/-- What writes of SMU_CTL leave (R304, R307, R323): EN = 1 turns the output of an untripped channel on, EN = 0 turns it
off and acts even while the group is claimed, mode, span, range and EN take the values written, a span of 6 or 7 sets
CFG_ERR, and while the group is claimed a write with EN = 0 turns the output off and one with EN = 1 sets SMU_BUSY. That
only EN = 0 acts of a write while the group is claimed is the model's reading (assumption 17). Force writes and updates
(R306, R307, R312, R313, R323, R324): a word written outside a claim is stored, and a force code waits for the next
update; a force update shows the dissipation estimated, lets a pending change of a channel without bridge, DDS and DAC
clear out, moves a bridge on by one of its two updates, and holds a channel in the safe state at the clear code of its
span and mode; the end of a bridge clears RANGE_BUSY unless a change that waited needs a bridge too. -/
def Obligations.SmuControl : Prop :=
  (∀ (s : State) (k : Nat), Ready s → k < s.part.smus → s.claimed (k / 4) = false → s.g (F.SMU_CTL.SPAN k) < 6 → s.is
    (F.SMU_STAT.SAFE k) = false → s.is (F.SMU_STAT.TRIPPED k) = false → ∃ t, exec (.smuEnWrite k true) s = .next t ∧ t.is
    (F.SMU_CTL.EN k) = true ∧ (t.smu k).closed = true ∧ (t.smu k).stage = true) ∧
  (∀ (s : State) (k : Nat), Ready s → k < s.part.smus → (s.claimed (k / 4) = true ∨ s.g (F.SMU_CTL.SPAN k) < 6) → ∃ t,
    exec (.smuEnWrite k false) s = .next t ∧ t.is (F.SMU_CTL.EN k) = false ∧ (t.smu k).closed = false ∧ (t.smu k).stage =
    false) ∧
  (∀ (s : State) (k : Nat) (v : Word), Ready s → k < s.part.smus → s.claimed (k / 4) = false → (F.SMU_CTL.SPAN k).of v < 6
    → ∃ t, exec (.smuCtlWrite k v) s = .next t ∧ t.g (F.SMU_CTL.MODE k) = (F.SMU_CTL.MODE k).of v ∧ t.g (F.SMU_CTL.SPAN k)
    = (F.SMU_CTL.SPAN k).of v ∧ t.g (F.SMU_CTL.IRANGE k) = (F.SMU_CTL.IRANGE k).of v ∧ t.g (F.SMU_CTL.EN k) =
    (F.SMU_CTL.EN k).of v) ∧
  (∀ (s : State) (k : Nat) (v : Word), Ready s → k < s.part.smus → s.claimed (k / 4) = false → 6 ≤ (F.SMU_CTL.SPAN k).of v
    → exec (.smuCtlWrite k v) s = .next (s.p (F.SMU_STAT.CFG_ERR k) 1)) ∧
  (∀ (s : State) (k : Nat) (v : Word), Ready s → k < s.part.smus → s.claimed (k / 4) = true → (F.SMU_CTL.EN k).is v =
    false → ∃ t, exec (.smuCtlWrite k v) s = .next t ∧ t.is (F.SMU_CTL.EN k) = false ∧ (t.smu k).closed = false ∧ (t.smu
    k).stage = false ∧ t.g (F.SMU_CTL.MODE k) = s.g (F.SMU_CTL.MODE k)) ∧
  (∀ (s : State) (k : Nat) (v : Word), Ready s → k < s.part.smus → s.claimed (k / 4) = true → (F.SMU_CTL.EN k).is v = true
    → exec (.smuCtlWrite k v) s = .next (s.p (F.SMU_STAT.SMU_BUSY k) 1)) ∧
  (∀ (s : State) (k : Nat) (v : Word), Ready s → k < s.part.smus → s.claimed (k / 4) = false → ∃ t, exec (.smuForceWrite k
    .force v) s = .next t ∧ t.rd (R.SMU_FORCE k) = v &&& 0x3FFFF#32) ∧
  (∀ (s : State) (k : Nat) (v : Word), Ready s → k < s.part.smus → s.claimed (k / 4) = false → s.is (F.SMU_STAT.SAFE k) =
    false → (s.smu k).bridge = 0 → (s.smu k).wait = none → (s.smu k).use.bridges (s.smu k).want = false → ∃ t, exec
    (.smuForceWrite k .force v) s = .next t ∧ (t.smu k).want =
    { (s.smu k).want with code := (v &&& 0x3FFFF#32).toNat, given := true } ∧ (t.smu k).pend = true) ∧
  (∀ (s : State) (k : Nat) (v : Word), Ready s → k < s.part.smus → s.claimed (k / 4) = false → ∃ t, exec (.smuForceWrite k
    .iclamp v) s = .next t ∧ t.rd (R.SMU_ICLAMP k) = v &&& 0xFFFF#32) ∧
  (∀ (s : State) (k : Nat) (v : Word), Ready s → k < s.part.smus → s.claimed (k / 4) = false → ∃ t, exec (.smuForceWrite k
    .vclamp v) s = .next t ∧ t.rd (R.SMU_VCLAMP k) = v) ∧
  (∀ (s : State) (k : Nat) (r : SmuReg) (v : Word), Ready s → k < s.part.smus → s.claimed (k / 4) = true → exec
    (.smuForceWrite k r v) s = .next (s.p (F.SMU_STAT.SMU_BUSY k) 1)) ∧
  (∀ (s : State) (g j pdiss : Nat), g < s.part.groups → j < 4 → s.is (F.SMU_STAT.SAFE (4 * g + j)) = false → (s.smu (4 * g
    + j)).bridge = 0 → (s.smu (4 * g + j)).pend = true → (s.smu (4 * g + j)).want.given = true → (s.smu (4 * g + j)).acts
    = [] → s.is (F.SMU_STAT.DDS_RUN (4 * g + j)) = false → s.clrLow = false → ∃ t, exec (.smuForceUpdate g pdiss) s =
    .next t ∧ (t.smu (4 * g + j)).use = (s.smu (4 * g + j)).want ∧ (t.smu (4 * g + j)).dac = (s.smu (4 * g + j)).want.code
    ∧ (t.smu (4 * g + j)).pend = false ∧ t.g (F.GRP_PDISS.MW g) = min pdiss 65535) ∧
  (∀ (s : State) (g j pdiss : Nat), g < s.part.groups → j < 4 → s.is (F.SMU_STAT.SAFE (4 * g + j)) = false → (s.smu (4 * g
    + j)).bridge = 1 → ∃ t, exec (.smuForceUpdate g pdiss) s = .next t ∧ (t.smu (4 * g + j)).bridge = 2 ∧ (t.smu (4 * g +
    j)).use.mode = (s.smu (4 * g + j)).want.mode ∧ (t.smu (4 * g + j)).use.span = (s.smu (4 * g + j)).want.span ∧ (t.smu
    (4 * g + j)).use.irange = (s.smu (4 * g + j)).want.irange) ∧
  (∀ (s : State) (g j pdiss : Nat), g < s.part.groups → j < 4 → s.is (F.SMU_STAT.SAFE (4 * g + j)) = false → (s.smu (4 * g
    + j)).bridge = 2 → (s.smu (4 * g + j)).want.given = true → s.clrLow = false → ∃ t, exec (.smuForceUpdate g pdiss) s =
    .next t ∧ (t.smu (4 * g + j)).bridge = 3 ∧ (t.smu (4 * g + j)).use = (s.smu (4 * g + j)).want ∧ (t.smu (4 * g +
    j)).pend = false) ∧
  (∀ (s : State) (g j pdiss : Nat), g < s.part.groups → j < 4 → s.is (F.SMU_STAT.SAFE (4 * g + j)) = true → ∃ t, exec
    (.smuForceUpdate g pdiss) s = .next t ∧ (t.smu (4 * g + j)).dac = s.smuClearCode (4 * g + j) (s.g (F.SMU_CTL.MODE (4 *
    g + j))) (s.g (F.SMU_CTL.SPAN (4 * g + j))) ∧ (t.smu (4 * g + j)).acts = []) ∧
  (∀ (s : State) (k : Nat), k < s.part.smus → (s.smu k).bridge = 3 → (s.smu k).wait = none → ∃ t, exec (.smuBridgeEnd k) s
    = .next t ∧ t.is (F.SMU_STAT.RANGE_BUSY k) = false ∧ (t.smu k).bridge = 0) ∧
  (∀ (s : State) (k : Nat) (w : SmuSet), k < s.part.smus → s.is (F.SMU_STAT.SAFE k) = false → (s.smu k).bridge = 3 →
    (s.smu k).wait = some w → ∃ t, exec (.smuBridgeEnd k) s = .next t ∧ (t.smu k).want = w ∧ (t.smu k).wait = none ∧ t.is
    (F.SMU_STAT.RANGE_BUSY k) = (!(s.smu k).rel && (s.smu k).use.bridges w))

/-- Clamps and trips (R308–R312): an engaging clamp sets COMPL and COMPL_SEEN; a trip latches TRIPPED with its source,
turns the output stage off, stops the DDS and ends a bridge, and the switch opens after it; a host clear with no
condition left turns the output on again, and with one left the channel trips again; over-dissipation trips every
enabled channel of the group. -/
def Obligations.SmuClampsAndTrips : Prop :=
  (∀ (s : State) (k : Nat), k < s.part.smus → s.is (F.SMU_CTL.EN k) = true → s.is (F.SMU_STAT.SAFE k) = false → s.is
    (F.SMU_STAT.COMPL k) = false → ∃ t, exec (.smuClamp k true) s = .next t ∧ t.is (F.SMU_STAT.COMPL k) = true ∧ t.is
    (F.SMU_STAT.COMPL_SEEN k) = true) ∧
  (∀ (s : State) (k : Nat), k < s.part.smus → exec (.smuClamp k false) s = .next (s.clr (F.SMU_STAT.COMPL k))) ∧
  (∀ (s : State) (k src : Nat), k < s.part.smus → s.is (F.SMU_CTL.EN k) = true → s.is (F.SMU_STAT.SAFE k) = false → s.is
    (F.SMU_STAT.TRIPPED k) = false → ((src = 0 ∧ s.is (F.SMU_CTL.TRIP_IN k) = true) ∨ (src = 1 ∧ s.is
    (F.SMU_CTL.TRIP_COMPL k) = true) ∨ src = 2) → ∃ t, exec (.smuTrip k src) s = .next t ∧ t.is (F.SMU_STAT.TRIPPED k) =
    true ∧ t.g (F.SMU_STAT.TRIP_SRC k) = src ∧ (t.smu k).stage = false ∧ t.is (F.SMU_STAT.DDS_RUN k) = false ∧ t.is
    (F.SMU_STAT.RANGE_BUSY k) = false) ∧
  (∀ (s : State) (k : Nat), k < s.part.smus → s.is (F.SMU_STAT.TRIPPED k) = true → ∃ t, exec (.smuSwitchOpen k) s = .next
    t ∧ t.smu k = { s.smu k with closed := false } ∧ t.is (F.SMU_STAT.TRIPPED k) = true) ∧
  (∀ (s : State) (k : Nat), Ready s → k < s.part.smus → s.is (F.SMU_CTL.EN k) = true → s.is (F.SMU_STAT.SAFE k) = false →
    s.is (F.SMU_STAT.TRIPPED k) = true → s.isFresh (F.SMU_STAT.TRIPPED k) = false → s.smuCond k = none → ∃ t, exec
    (.smuTripClear k) s = .next t ∧ t.is (F.SMU_STAT.TRIPPED k) = false ∧ (t.smu k).closed = true ∧ (t.smu k).stage =
    true) ∧
  (∀ (s : State) (k src : Nat), Ready s → k < s.part.smus → s.is (F.SMU_CTL.EN k) = true → s.is (F.SMU_STAT.SAFE k) =
    false → s.is (F.SMU_STAT.TRIPPED k) = true → s.isFresh (F.SMU_STAT.TRIPPED k) = false → s.smuCond k = some src → ∃ t,
    exec (.smuTripClear k) s = .next t ∧ t.is (F.SMU_STAT.TRIPPED k) = true ∧ t.g (F.SMU_STAT.TRIP_SRC k) = src ∧ (t.smu
    k).stage = false) ∧
  (∀ (s : State) (g j : Nat), g < s.part.groups → j < 4 → 2375 < s.g (F.GRP_PDISS.MW g) → s.is (F.SMU_CTL.EN (4 * g + j))
    = true → s.is (F.SMU_STAT.SAFE (4 * g + j)) = false → s.is (F.SMU_STAT.TRIPPED (4 * g + j)) = false → ∃ t, exec
    (.pdissTrip g) s = .next t ∧ t.is (F.SMU_STAT.TRIPPED (4 * g + j)) = true ∧ t.g (F.SMU_STAT.TRIP_SRC (4 * g + j)) = 2
    ∧ t.is (F.GRP_STAT.PDISS_TRIP g) = true)

/-- Measure requests (R307, R311, R315–R317): the end of a DELAY, conversions that add to the head request or settle on a
change of channel, the arrival of a request at a group with room and at one without or fenced, the end of one with all
its conversions, whose alcove gets the mean and whether it was out of limits or tripped, and the words of a measure set,
which a claim protects with MSET_BUSY. -/
def Obligations.SmuMeasures : Prop :=
  (∀ (s : State) (g j : Nat) (r : MeasReq), g < s.part.groups → (s.grp g).queue[j]? = some r → s.delayOk g r = true → ∃ t,
    exec (.measDelayEnd g j) s = .next t ∧ (t.grp g).queue = (s.grp g).queue.set j { r with delayed := true } ∧ t.regs =
    s.regs) ∧
  (∀ (s : State) (g : Nat) (code : Int) (r : MeasReq) (l : List MeasReq), g < s.part.groups → (s.grp g).queue = r :: l →
    r.delayed = true → r.n < 2 ^ s.g (F.MSET_CFG.NAVG g r.mset) → (s.grp g).adcCh = some r.ch → ∃ t, exec (.measConvert g
    code) s = .next t ∧ (t.grp g).queue = { r with n := r.n + 1, sum := r.sum + code } :: l) ∧
  (∀ (s : State) (g : Nat) (code : Int) (r : MeasReq) (l : List MeasReq), g < s.part.groups → (s.grp g).queue = r :: l →
    r.delayed = true → r.n < 2 ^ s.g (F.MSET_CFG.NAVG g r.mset) → (s.grp g).adcCh ≠ some r.ch → ∃ t, exec (.measConvert g
    code) s = .next t ∧ (t.grp g).queue = (s.grp g).queue ∧ (t.grp g).adcCh = some r.ch) ∧
  (∀ (s : State) (g : Nat) (r : MeasReq) (l : List MeasReq), g < s.part.groups → (s.grp g).flight = r :: l → s.fenced (32
    + g) = false → (s.grp g).queue.length < 32 → ∃ t, exec (.measArrive g) s = .next t ∧ (t.grp g).flight = l ∧ (t.grp
    g).queue = (s.grp g).queue ++ [{ r with tripped := false }] ∧ t.g (F.GRP_STAT.QDEPTH g) = (s.grp g).queue.length + 1) ∧
  (∀ (s : State) (g : Nat) (r : MeasReq) (l : List MeasReq), g < s.part.groups → (s.grp g).flight = r :: l → (s.fenced (32
    + g) = true ∨ 32 ≤ (s.grp g).queue.length) → ∃ t, exec (.measArrive g) s = .next t ∧ (t.grp g).flight = l ∧ (t.grp
    g).queue = (s.grp g).queue ∧ t.g (F.MEAS_LAST.CODE r.ch) = 0 ∧ (s.replaying = false → (t.alc r.hall r.alc).mdone =
    true ∧ (t.alc r.hall r.alc).mout = true)) ∧
  (∀ (s : State) (g : Nat) (r : MeasReq) (l : List MeasReq), g < s.part.groups → (s.grp g).queue = r :: l → r.n = 2 ^ s.g
    (F.MSET_CFG.NAVG g r.mset) → r.ch / 4 = g → ∃ t, exec (.measDone g) s = .next t ∧ (t.grp g).queue = l ∧ t.g
    (F.MEAS_LAST.CODE r.ch) = unsigned 32 (roundAway r.sum r.n) ∧ (s.replaying = false → (t.alc r.hall r.alc).mdone = true
    ∧ (t.alc r.hall r.alc).lastMeas = roundAway r.sum r.n ∧ (t.alc r.hall r.alc).mout = (r.tripped || decide (roundAway
    r.sum r.n < signed 32 (s.g (F.MSET_LO.LIMIT g r.mset))) || decide (signed 32 (s.g (F.MSET_HI.LIMIT g r.mset)) <
    roundAway r.sum r.n)))) ∧
  (∀ (s : State) (g m : Nat) (v : Word), Ready s → g < s.part.groups → m < 16 → s.claimed g = false → s.part.dds = true →
    (F.MSET_CFG.DDS g m).of v ≠ 3 → ∃ t, exec (.msetWrite g m 0 v) s = .next t ∧ t.rd (R.MSET_CFG g m) = v &&&
    0xFFF8FFFF#32) ∧
  (∀ (s : State) (g m : Nat) (v : Word), Ready s → g < s.part.groups → m < 16 → s.claimed g = false → ∃ t, exec
    (.msetWrite g m 1 v) s = .next t ∧ t.rd (R.MSET_FORCE g m) = v &&& 0x3FFFF#32) ∧
  (∀ (s : State) (g m w : Nat) (v : Word), Ready s → g < s.part.groups → m < 16 → (w = 2 ∨ w = 3) → s.claimed g = false →
    ∃ t, exec (.msetWrite g m w v) s = .next t ∧ t.rd (if w = 2 then R.MSET_LO g m else R.MSET_HI g m) = v) ∧
  (∀ (s : State) (g m w : Nat) (v : Word), Ready s → g < s.part.groups → m < 16 → w < 4 → s.claimed g = true → exec
    (.msetWrite g m w v) s = .next (s.p (F.GRP_STAT.MSET_BUSY g) 1))

/-- DDS commands (R307, R319–R322): a start and a stop are asked for and act at the next force update in their order, a
start is refused while its group is claimed; a frequency word up to 214,748,364 is stored and a larger one refused; a
phase is stored, which a running DDS reaches over 256 updates; a claim protects frequency and phase with SMU_BUSY. -/
def Obligations.SineSynthesis : Prop :=
  (∀ (s : State) (g j mask : Nat), Ready s → s.ddsOk g = true → j < 4 → mask < 16 → natBits mask j 1 = 1 → s.claimed g =
    false → ∃ t, exec (.ddsStart g mask) s = .next t ∧ (t.smu (4 * g + j)).acts = (s.smu (4 * g + j)).acts ++ [true]) ∧
  (∀ (s : State) (g j mask : Nat), Ready s → s.ddsOk g = true → j < 4 → mask < 16 → natBits mask j 1 = 1 → s.claimed g =
    true → ∃ t, exec (.ddsStart g mask) s = .next t ∧ t.is (F.SMU_STAT.SMU_BUSY (4 * g + j)) = true ∧ (t.smu (4 * g +
    j)).acts = (s.smu (4 * g + j)).acts) ∧
  (∀ (s : State) (g j mask : Nat), Ready s → s.ddsOk g = true → j < 4 → mask < 16 → natBits mask j 1 = 1 → ∃ t, exec
    (.ddsStop g mask) s = .next t ∧ (t.smu (4 * g + j)).acts = (s.smu (4 * g + j)).acts ++ [false]) ∧
  (∀ (s : State) (k : Nat) (v : Word), Ready s → k < s.part.smus → s.part.dds = true → s.claimed (k / 4) = false → v.toNat
    ≤ 214748364 → ∃ t, exec (.ddsFtwWrite k v) s = .next t ∧ t.rd (R.DDS_FTW k) = v) ∧
  (∀ (s : State) (k : Nat) (v : Word), Ready s → k < s.part.smus → s.part.dds = true → s.claimed (k / 4) = false →
    214748364 < v.toNat → exec (.ddsFtwWrite k v) s = .next (s.p (F.SMU_STAT.CFG_ERR k) 1)) ∧
  (∀ (s : State) (k : Nat) (v : Word), Ready s → k < s.part.smus → s.part.dds = true → s.claimed (k / 4) = true → exec
    (.ddsFtwWrite k v) s = .next (s.p (F.SMU_STAT.SMU_BUSY k) 1)) ∧
  (∀ (s : State) (k : Nat) (v : Word), Ready s → k < s.part.smus → s.part.dds = true → s.claimed (k / 4) = false → ∃ t,
    exec (.ddsPhaseWrite k v) s = .next t ∧ t.rd (R.DDS_PHASE k) = v) ∧
  (∀ (s : State) (k : Nat) (v : Word), Ready s → k < s.part.smus → s.part.dds = true → s.claimed (k / 4) = false → s.is
    (F.SMU_STAT.DDS_RUN k) = true → ∃ t, exec (.ddsPhaseWrite k v) s = .next t ∧ (t.smu k).phLeft = 256 ∧ (t.smu k).phTo =
    v.toNat) ∧
  (∀ (s : State) (k : Nat) (v : Word), Ready s → k < s.part.smus → s.part.dds = true → s.claimed (k / 4) = true → exec
    (.ddsPhaseWrite k v) s = .next (s.p (F.SMU_STAT.SMU_BUSY k) 1))

/-- Writes of PE_CTL (R274, R286, R288, R299): an enable outside the safe state shows in EN_EFF and starts COMP_SETTLE, in
the safe state it also leaves it unless a fence or a dry replay holds it there, a disable clears EN_EFF, and an
architecture change is stored unless an alcove of the hall is READY, LIVE or PARKED, which sets PE_BUSY only. Converter
updates and range bridges (R277, R282, R283, R297): an update lets the record that is pending, or is to be applied again
after a clear, out to the DACs or starts a bridge; a bridge crosses over to the ranges of the record, puts the record
out, and ends, and a record that waited is applied next. -/
def Obligations.PinsAndLevels : Prop :=
  (∀ (s : State) (h c : Nat), Ready s → h < s.part.halls → c < 32 → s.g (F.PE_CTL.OFF_MODE h c) ≠ 3 → s.is (F.PE_STAT.SAFE
    h c) = false → s.is (F.PE_CTL.EN h c) = false → ∃ t, exec (.peEnWrite h c true) s = .next t ∧ t.is (F.PE_CTL.EN h c) =
    true ∧ t.is (F.PE_STAT.EN_EFF h c) = true ∧ (t.ch h c).settle = true) ∧
  (∀ (s : State) (h c : Nat), Ready s → h < s.part.halls → c < 32 → s.g (F.PE_CTL.OFF_MODE h c) ≠ 3 → s.is (F.PE_STAT.SAFE
    h c) = true → s.is (F.PE_CTL.EN h c) = false → s.fenced h = false → s.dryRun = false → ∃ t, exec (.peEnWrite h c true)
    s = .next t ∧ t.is (F.PE_CTL.EN h c) = true ∧ t.is (F.PE_STAT.SAFE h c) = false ∧ t.is (F.PE_STAT.EN_EFF h c) = true ∧
    (t.ch h c).settle = true) ∧
  (∀ (s : State) (h c : Nat), Ready s → h < s.part.halls → c < 32 → s.g (F.PE_CTL.OFF_MODE h c) ≠ 3 → s.is (F.PE_STAT.SAFE
    h c) = true → s.is (F.PE_CTL.EN h c) = false → (s.fenced h = true ∨ s.dryRun = true) → s.is (F.PE_STAT.EN_EFF h c) =
    false → ∃ t, exec (.peEnWrite h c true) s = .next t ∧ t.is (F.PE_CTL.EN h c) = true ∧ t.is (F.PE_STAT.SAFE h c) = true
    ∧ t.is (F.PE_STAT.EN_EFF h c) = false) ∧
  (∀ (s : State) (h c : Nat), Ready s → h < s.part.halls → c < 32 → s.g (F.PE_CTL.OFF_MODE h c) ≠ 3 → s.is (F.PE_CTL.EN h
    c) = true → ∃ t, exec (.peEnWrite h c false) s = .next t ∧ t.is (F.PE_CTL.EN h c) = false ∧ t.is (F.PE_STAT.EN_EFF h
    c) = false ∧ (t.ch h c).settle = false) ∧
  (∀ (s : State) (h c : Nat) (arch : Bool), Ready s → h < s.part.halls → c < 32 → s.g (F.PE_CTL.OFF_MODE h c) ≠ 3 →
    (s.hallRun h = false ∨ s.is (F.PE_CTL.DAC_ARCH h c) = arch) → ∃ t, exec (.dacArchWrite h c arch) s = .next t ∧ t.is
    (F.PE_CTL.DAC_ARCH h c) = arch) ∧
  (∀ (s : State) (h c : Nat) (arch : Bool), Ready s → h < s.part.halls → c < 32 → s.g (F.PE_CTL.OFF_MODE h c) ≠ 3 →
    s.hallRun h = true → s.is (F.PE_CTL.DAC_ARCH h c) ≠ arch → exec (.dacArchWrite h c arch) s = .next (s.p
    (F.PE_STAT.PE_BUSY h c) 1)) ∧
  (∀ (s : State) (h c : Nat), h < s.part.halls → c < 32 → s.clrLow = false → ((s.ch h c).pend = true ∨ ((s.peh h).reapply
    = true ∧ s.liveBank h = none)) → s.is (F.PE_STAT.SAFE h c) = false → (s.ch h c).bridge = 0 → s.lvlBridges h c = false
    → ∃ t, exec (.levelUpdate h c) s = .next t ∧ (∀ k ∈ List.range 7, t.dacCode h c k = archCode (s.ch h c).arch k
    (lvlCode (s.ch h c).lvl k)) ∧ (t.ch h c).pend = false ∧ t.is (F.LVL_TERM.CLEARED h c) = false) ∧
  (∀ (s : State) (h c : Nat), h < s.part.halls → c < 32 → s.clrLow = false → ((s.ch h c).pend = true ∨ ((s.peh h).reapply
    = true ∧ s.liveBank h = none)) → s.is (F.PE_STAT.SAFE h c) = false → (s.ch h c).bridge = 0 → s.lvlBridges h c = true →
    ∃ t, exec (.levelUpdate h c) s = .next t ∧ t.is (F.PE_STAT.RANGE_BUSY h c) = true ∧ (t.ch h c).bridge = 1) ∧
  (∀ (s : State) (h c : Nat), h < s.part.halls → c < 32 → (s.ch h c).bridge = 1 → ∃ t, exec (.rangeCrossover h c) s =
    .next t ∧ t.g (F.LVL_TERM.VRANGE h c) = lvlVRange (s.ch h c).lvl ∧ t.g (F.LVL_TERM.IRANGE h c) = lvlIRange (s.ch h
    c).lvl ∧ (t.ch h c).arch = s.g (F.PE_CTL.DAC_ARCH h c) ∧ (t.ch h c).bridge = 2) ∧
  (∀ (s : State) (h c : Nat), h < s.part.halls → c < 32 → (s.ch h c).bridge = 2 → ∃ t, exec (.rangeTarget h c) s = .next t
    ∧ (∀ k ∈ List.range 7, t.dacCode h c k = archCode (s.ch h c).arch k (lvlCode (s.ch h c).lvl k)) ∧ (t.ch h c).bridge =
    3) ∧
  (∀ (s : State) (h c : Nat), h < s.part.halls → c < 32 → (s.ch h c).bridge = 3 → (s.ch h c).wait = none → s.lvlBridges h
    c = false → ∃ t, exec (.rangeBridgeEnd h c) s = .next t ∧ t.is (F.PE_STAT.RANGE_BUSY h c) = false ∧ (t.ch h c).bridge
    = 0) ∧
  (∀ (s : State) (h c : Nat) (r : BitVec 128), h < s.part.halls → c < 32 → (s.ch h c).bridge = 3 → (s.ch h c).wait = some
    r → lvlVRange r = s.g (F.LVL_TERM.VRANGE h c) → lvlIRange r = s.g (F.LVL_TERM.IRANGE h c) → (s.ch h c).arch = s.g
    (F.PE_CTL.DAC_ARCH h c) → ∃ t, exec (.rangeBridgeEnd h c) s = .next t ∧ t.is (F.PE_STAT.RANGE_BUSY h c) = false ∧
    (t.ch h c).bridge = 0 ∧ (t.ch h c).lvl = r ∧ (t.ch h c).wait = none ∧ (t.ch h c).pend = true) ∧
  (∀ (s : State) (h c : Nat) (r : BitVec 128), h < s.part.halls → c < 32 → (s.ch h c).bridge = 3 → (s.ch h c).wait = some
    r → lvlVRange r ≠ s.g (F.LVL_TERM.VRANGE h c) → ∃ t, exec (.rangeBridgeEnd h c) s = .next t ∧ t.is
    (F.PE_STAT.RANGE_BUSY h c) = true ∧ (t.ch h c).bridge = 1 ∧ (t.ch h c).lvl = r ∧ (t.ch h c).wait = none)

/-- Trips of PE channels (R287, R288, R290–R292, R309): the comparators judge the voltage of the pin, a condition that
holds on an ungated path latches TRIPPED in PE_STAT and the bit of TRIP_MAP and trips the group that TRIP_CTL names, the
end of COMP_SETTLE ungates the path, a host clear with the condition gone clears the latch, and a TRIP_CTL that names an
absent SMU group is refused with CFG_ERR. That a clear in the core cycle of the trip leaves the latch is R14. -/
def Obligations.PinTrips : Prop :=
  (∀ (s : State) (h c : Nat) (nv : Int), h < s.part.halls → c < 32 → (compSee h c nv s).peCond h c = true → s.is
    (F.PE_STAT.TRIPPED h c) = false → ∃ t, exec (.peTrip h c nv) s = .next t ∧ t.is (F.PE_STAT.TRIPPED h c) = true ∧
    natBits (t.g (F.TRIP_MAP.TRIPPED h)) c 1 = 1) ∧
  (∀ (s : State) (h c j : Nat) (nv : Int), h < s.part.halls → c < 32 → (compSee h c nv s).peCond h c = true → s.is
    (F.TRIP_CTL.SMU_EN h c) = true → j < 4 → 4 * s.g (F.TRIP_CTL.SMU_GRP h c) + j < s.part.smus → s.is (F.SMU_CTL.TRIP_IN
    (4 * s.g (F.TRIP_CTL.SMU_GRP h c) + j)) = true → s.smuGated (4 * s.g (F.TRIP_CTL.SMU_GRP h c) + j) = false → ∃ t, exec
    (.peTrip h c nv) s = .next t ∧ t.is (F.SMU_STAT.TRIPPED (4 * s.g (F.TRIP_CTL.SMU_GRP h c) + j)) = true) ∧
  (∀ (s : State) (h c : Nat) (nv : Int), h < s.part.halls → c < 32 → (compSee h c nv s).peCond h c = false → exec (.peTrip
    h c nv) s = .next (compSee h c nv s)) ∧
  (∀ (s : State) (h c : Nat) (nv : Int), h < s.part.halls → c < 32 → (s.ch h c).settle = true → (compSee h c nv (s.modCh h
    c (fun x => { x with settle := false }))).peCond h c = false → exec (.compSettleEnd h c nv) s = .next (compSee h c nv
    (s.modCh h c (fun x => { x with settle := false })))) ∧
  (∀ (s : State) (h c : Nat) (nv : Int), h < s.part.halls → c < 32 → (s.ch h c).settle = true → (compSee h c nv (s.modCh h
    c (fun x => { x with settle := false }))).peCond h c = true → s.is (F.PE_STAT.TRIPPED h c) = false → ∃ t, exec
    (.compSettleEnd h c nv) s = .next t ∧ (t.ch h c).settle = false ∧ t.is (F.PE_STAT.TRIPPED h c) = true ∧ natBits (t.g
    (F.TRIP_MAP.TRIPPED h)) c 1 = 1) ∧
  (∀ (s : State) (h c : Nat) (nv : Int), Ready s → h < s.part.halls → c < 32 → s.is (F.PE_STAT.TRIPPED h c) = true →
    s.isFresh (F.PE_STAT.TRIPPED h c) = false → (compSee h c nv s).peCond h c = false → ∃ t, exec (.tripClear h c nv) s =
    .next t ∧ t.is (F.PE_STAT.TRIPPED h c) = false ∧ natBits (t.g (F.TRIP_MAP.TRIPPED h)) c 1 = 0 ∧ (t.ch h c).tripDrv =
    false ∧ (t.ch h c).tripHall = false) ∧
  (∀ (s : State) (h c : Nat) (nv : Int), Ready s → h < s.part.halls → c < 32 → s.is (F.PE_STAT.TRIPPED h c) = true →
    (compSee h c nv s).peCond h c = true → natBits (s.g (F.TRIP_MAP.TRIPPED h)) c 1 = 1 → ∃ t, exec (.tripClear h c nv) s
    = .next t ∧ t.is (F.PE_STAT.TRIPPED h c) = true ∧ natBits (t.g (F.TRIP_MAP.TRIPPED h)) c 1 = 1) ∧
  (∀ (s : State) (h c : Nat) (v : Word), Ready s → h < s.part.halls → c < 32 → ((F.TRIP_CTL.SMU_EN h c).is v = false ∨
    (F.TRIP_CTL.SMU_GRP h c).of v < s.part.groups) → ∃ t, exec (.tripCtlWrite h c v) s = .next t ∧ t.rd (R.TRIP_CTL h c) =
    v &&& 0xFF800000#32 ∧ ((s.wr (R.TRIP_CTL h c) (v &&& 0xFF800000#32)).peCond h c = true → t.is (F.PE_STAT.TRIPPED h c)
    = true)) ∧
  (∀ (s : State) (h c : Nat) (v : Word), Ready s → h < s.part.halls → c < 32 → (F.TRIP_CTL.SMU_EN h c).is v = true →
    s.part.groups ≤ (F.TRIP_CTL.SMU_GRP h c).of v → exec (.tripCtlWrite h c v) s = .next (s.p (F.PE_STAT.CFG_ERR h c) 1))

/-- Parametric measurements and contact tests (R194–R197, R294, R295, R488): a GO with legal fields on an idle hall begins
and sets PP_BUSY, on a busy one it is refused, and it waits for the end of a slice; SITESEL, SETTLE and MSETTLE end in
turn; at the end the voltages are stored, limited to the range, and PP_BUSY clears; TOUCHDOWN begins with its lowest
bank, and the last aperture completes it OK with the codes of its banks and marks its alcoves if APPLY asks for it. -/
def Obligations.ParametricAndContactTests : Prop :=
  (∀ (s : State) (h : Nat) (v : Word), Ready s → h < s.part.halls → s.slice h = false → s.hallRun h = false → (s.peh
    h).touch = none → (s.peh h).ppPhase = 0 → s.fenced h = false → signed 8 ((F.PP_CTL.IFORCE h).of v) ≠ 0 → -100 ≤ signed
    8 ((F.PP_CTL.IFORCE h).of v) → signed 8 ((F.PP_CTL.IFORCE h).of v) ≤ 100 → 1 ≤ (F.PP_CTL.MSETTLE h).of v →
    (F.PP_CTL.MSETTLE h).of v ≤ 1000 → ∃ t, exec (.ppGo h v) s = .next t ∧ t.is (F.PE_HALL_STAT.PP_BUSY h) = true ∧ (t.peh
    h).ppPhase = (if (F.PP_CTL.BANK h).of v = 0 then 2 else 1) ∧ (t.peh h).ppBank = (F.PP_CTL.BANK h).of v ∧ (t.peh
    h).ppMask = s.g (F.PP_MASK.MASK h)) ∧
  (∀ (s : State) (h : Nat) (v : Word), Ready s → h < s.part.halls → s.slice h = false → s.hallRun h = true → ∃ t, exec
    (.ppGo h v) s = .next t ∧ t.is (F.PE_HALL_STAT.PP_REFUSED h) = true ∧ (t.peh h).ppPhase = (s.peh h).ppPhase) ∧
  (∀ (s : State) (h : Nat) (v : Word), Ready s → h < s.part.halls → s.slice h = true → ∃ t, exec (.ppGo h v) s = .next t ∧
    t.peh h = { s.peh h with ppWait := true }) ∧
  (∀ (s : State) (h : Nat), h < s.part.halls → (s.peh h).ppPhase = 1 → s.dryRun = false → ∃ t, exec (.parametricPhaseEnd
    h) s = .next t ∧ (t.peh h).ppPhase = 2 ∧ (t.hl h).sitesel = (s.peh h).ppBank) ∧
  (∀ (s : State) (h c : Nat), h < s.part.halls → c < 32 → (s.peh h).ppPhase = 2 → natBits (s.peh h).ppMask c 1 = 1 → s.is
    (F.PE_STAT.SAFE h c) = false → ∃ t, exec (.parametricPhaseEnd h) s = .next t ∧ (t.peh h).ppPhase = 3 ∧ (t.ch h c).pp =
    true) ∧
  (∀ (s : State) (h : Nat), h < s.part.halls → (s.peh h).ppPhase = 3 → ∃ t, exec (.parametricPhaseEnd h) s = .next t ∧
    t.peh h = { s.peh h with ppPhase := 4 } ∧ t.regs = s.regs) ∧
  (∀ (s : State) (h c : Nat) (mv : List Int), h < s.part.halls → c < 32 → (s.peh h).ppPhase = 4 → natBits (s.peh h).ppMask
    c 1 = 1 → ∃ t, exec (.ppDone h mv) s = .next t ∧ t.is (F.PP_RESULT.VALID h c) = true ∧ t.g (F.PP_RESULT.VOLT h c) =
    unsigned 16 (max (-2000) (min 7000 (mv.getD c 0))) ∧ (t.ch h c).pp = false ∧ t.is (F.PE_HALL_STAT.PP_BUSY h) = false ∧
    (t.peh h).ppPhase = 0) ∧
  (∀ (s : State) (q : Nat) (r : DescRun), Executes s q 6 false r → dUnit r.desc < s.part.halls → s.slice (dUnit r.desc) =
    false → dAddr r.desc = 0 → dLen r.desc = 0 → dscBits r.desc 20 0 3 ≠ 0 → dscBits r.desc 20 3 5 = 0 → dscBits r.desc 21
    1 7 = 0 → dscZeroFrom r.desc 30 = true → signed 16 (dsc r.desc 22 2) ≠ 0 → -100 ≤ signed 16 (dsc r.desc 22 2) → signed
    16 (dsc r.desc 22 2) ≤ 100 → dsc r.desc 26 2 < dsc r.desc 24 2 → 1 ≤ dsc r.desc 28 2 → dsc r.desc 28 2 ≤ 1000 → r.owns
    (dUnit r.desc) = true → s.hallRun (dUnit r.desc) = false → (s.peh (dUnit r.desc)).touch = none → (s.peh (dUnit
    r.desc)).ppPhase = 0 → (s.hse (dUnit r.desc)).xfer = none → s.fenced (dUnit r.desc) = false → ∃ t, exec (.touchdown q)
    s = .next t ∧ (t.peh (dUnit r.desc)).touch = some
    { did := r.did, banks := (List.range 3).filter (fun i => natBits (dscBits r.desc 20 0 3) i 1 = 1), phase := 0, apply
        := dscBits r.desc 21 0 1 == 1, vopen := dsc r.desc 24 2, vshort := dsc r.desc 26 2, result := 0 } ∧ t.regs =
    s.regs) ∧
  (∀ (s : State) (h n : Nat) (mv : List Int) (x : TouchX) (l : List Nat), h < s.part.halls → (s.peh h).touch = some x →
    x.phase = 0 → x.banks = n :: l → s.dryRun = false → ∃ t, exec (.touchdownPhaseEnd h mv) s = .next t ∧ (t.peh h).touch
    = some { x with phase := 1 } ∧ (t.hl h).sitesel = n + 1) ∧
  (∀ (s : State) (h c : Nat) (mv : List Int) (x : TouchX), h < s.part.halls → c < 32 → (s.peh h).touch = some x → x.phase
    = 1 → s.is (F.PE_STAT.SAFE h c) = false → ∃ t, exec (.touchdownPhaseEnd h mv) s = .next t ∧ (t.peh h).touch = some
    { x with phase := 2 } ∧ (t.ch h c).pp = true) ∧
  (∀ (s : State) (h : Nat) (mv : List Int) (x : TouchX), h < s.part.halls → (s.peh h).touch = some x → x.phase = 2 → ∃ t,
    exec (.touchdownPhaseEnd h mv) s = .next t ∧ (t.peh h).touch = some { x with phase := 3 }) ∧
  (∀ (s : State) (h q k : Nat) (mv : List Int) (x : TouchX) (r : DescRun), h < s.part.halls → (s.peh h).touch = some x →
    x.phase = 3 → x.banks = [k] → s.queueOf x.did = some q → (s.queue q).run = some r → ∃ t, exec (.touchdownPhaseEnd h
    mv) s = .next t ∧ (t.peh h).touch = none ∧ Completed t q r .ok [(8, 24, x.result ||| (bankCodes x.vopen x.vshort mv)
    <<< (64 * k))]) ∧
  (∀ (s : State) (h k i : Nat) (mv : List Int) (x : TouchX), h < s.part.halls → (s.peh h).touch = some x → x.phase = 3 →
    x.banks = [k] → x.apply = true → x.result = 0 → x.done = 0 → k < 3 → i < 96 → i / 32 = k → (s.alc h i).own ≠ 0 →
    s.alcSt h i = alcBound → ∃ t, exec (.touchdownPhaseEnd h mv) s = .next t ∧ t.alcSt h i = (if ((List.range 32).filter
    (fun c => natBits (s.alc h i).own c 1 = 1)).all (fun c => natBits (bankCodes x.vopen x.vshort mv) (2 * c) 2 = 2) then
    0 else alcBound) ∧ t.g (F.ALC_STATE.CONTACT h i) = (if ((List.range 32).filter (fun c => natBits (s.alc h i).own c 1 =
    1)).all (fun c => natBits (bankCodes x.vopen x.vshort mv) (2 * c) 2 = 2) then 3 else if ((List.range 32).filter (fun c
    => natBits (s.alc h i).own c 1 = 1)).all (fun c => natBits (bankCodes x.vopen x.vshort mv) (2 * c) 2 = 1) then 1 else
    2))

/-- SET_LEVELS (R279, R280): with legal fields the host memory is read; the records read are committed together unless a
set is in use by a LIVE alcove or a record has a reserved bit, and a failed read commits none. DAC_CLR_N (R296, R297,
R324): its fall clears every channel and its rise asks for the full levels again. -/
def Obligations.SetLevels : Prop :=
  (∀ (s : State) (q : Nat) (r : DescRun), Executes s q 10 false r → dUnit r.desc < s.part.halls → dscBits r.desc 20 6 2 =
    0 → dscBits r.desc 21 7 1 = 0 → dscZeroFrom r.desc 22 = true → dAddr r.desc % 16 = 0 → dscBits r.desc 21 0 7 ≠ 0 →
    dscBits r.desc 20 0 6 + dscBits r.desc 21 0 7 ≤ 64 → dLen r.desc = 512 * dscBits r.desc 21 0 7 → r.owns (dUnit r.desc)
    = true → ∃ t, exec (.setLevels q) s = .next t ∧ t.out = s.out ++ [.hostRead (dAddr r.desc) (dLen r.desc)] ∧ t.regs =
    s.regs ∧ t.levels = s.levels) ∧
  (∀ (s : State) (q j : Nat) (data : List Nat) (r : DescRun), Executes s q 10 true r → data.length = 512 * dscBits r.desc
    21 0 7 → dscBits r.desc 20 0 6 + dscBits r.desc 21 0 7 ≤ 64 → (List.range (32 * dscBits r.desc 21 0 7)).all (fun j =>
    lvlRsvOk (lvlOfBytes data j)) = true → (List.range (dscBits r.desc 21 0 7)).any (fun n => (List.range 96).any (fun i
    => s.alcSt (dUnit r.desc) i == alcLive && s.g (F.ALC_STATE.LS (dUnit r.desc) i) == dscBits r.desc 20 0 6 + n)) = false
    → j < 32 * dscBits r.desc 21 0 7 → ∃ t, exec (.setLevelsCommit q true data) s = .next t ∧ t.level (dUnit r.desc)
    (dscBits r.desc 20 0 6 + j / 32) (j % 32) = lvlOfBytes data j ∧ Completed t q r .ok (setLevelsRes (dscBits r.desc 20 0
    6) (dscBits r.desc 21 0 7) 0 0 (crc32 data))) ∧
  (∀ (s : State) (q k : Nat) (data : List Nat) (r : DescRun), Executes s q 10 true r → data.length = 512 * dscBits r.desc
    21 0 7 → (List.range (32 * dscBits r.desc 21 0 7)).all (fun j => lvlRsvOk (lvlOfBytes data j)) = true → (List.range
    (dscBits r.desc 21 0 7)).find? (fun n => (List.range 96).any (fun i => s.alcSt (dUnit r.desc) i == alcLive && s.g
    (F.ALC_STATE.LS (dUnit r.desc) i) == dscBits r.desc 20 0 6 + n)) = some k → ∃ t, exec (.setLevelsCommit q true data) s
    = .next t ∧ t.levels = s.levels ∧ Completed t q r .busy (setLevelsRes (dscBits r.desc 20 0 6) 0 1 (dscBits r.desc 20 0
    6 + k) (crc32 data))) ∧
  (∀ (s : State) (q : Nat) (data : List Nat) (r : DescRun), Executes s q 10 true r → data.length = 512 * dscBits r.desc 21
    0 7 → (List.range (32 * dscBits r.desc 21 0 7)).all (fun j => lvlRsvOk (lvlOfBytes data j)) = false → ∃ t, exec
    (.setLevelsCommit q true data) s = .next t ∧ t.levels = s.levels ∧ Completed t q r .badop (setLevelsRes (dscBits
    r.desc 20 0 6) 0 2 0 (crc32 data))) ∧
  (∀ (s : State) (q : Nat) (data : List Nat) (r : DescRun), Executes s q 10 true r → ∃ t, exec (.setLevelsCommit q false
    data) s = .next t ∧ t.levels = s.levels ∧ Completed t q r .faulted (setLevelsRes (dscBits r.desc 20 0 6) 0 1 0 0)) ∧
  (∀ (s : State) (h c : Nat), s.clrLow = false → h < s.part.halls → c < 32 → ∃ t, exec .dacClrFall s = .next t ∧ t.is
    (F.PE_HALL_STAT.CLR_ACTIVE h) = true ∧ t.is (F.LVL_TERM.CLEARED h c) = true ∧ (∀ k ∈ List.range 7, t.dacCode h c k =
    (if k < 5 then s.clearCode h c else 0))) ∧
  (∀ (s : State) (k : Nat), s.clrLow = false → k < s.part.smus → ∃ t, exec .dacClrFall s = .next t ∧ (t.smu k).dac =
    s.smuClearCode k (s.smu k).use.mode (s.smu k).use.span ∧ t.is (F.SMU_STAT.CLEARED k) = true) ∧
  (∀ (s : State) (h : Nat), s.clrLow = true → h < s.part.halls → ∃ t, exec .dacClrRise s = .next t ∧ t.is
    (F.PE_HALL_STAT.CLR_ACTIVE h) = false ∧ t.is (F.PE_HALL_STAT.CLR_SEEN h) = true ∧ (t.peh h).reapply = true)

/-- Sets of the TDC (R330, R331, R336): GO starts the set on the channels of its STOPMASK or in the regression engine,
with the latches of QCLR cleared, or is refused; ABORT ends every set that runs; a word is stored only into an idle set
and if legal. That bits 23:16 of TDC_SET_C of a REGRESS set must be 0 is R345, and that a write with no stated response
is ignored R22. -/
def Obligations.TdcSetControl : Prop :=
  (∀ (s : State) (h m c : Nat), Ready s → h < s.part.halls → m < 64 → s.hallRun h = false → s.fenced h = false → s.is
    (F.TDC_SET_A.VALID h m) = true → s.is (F.TDC_SET_A.KIND h m) = false → c < 32 → natBits (s.g (F.TDC_SET_B.STOPMASK h
    m)) c 1 = 1 → ∃ t, exec (.tdcGo h m) s = .next t ∧ (t.tdc h c).run = some m ∧ (t.tdc h c).n = 0 ∧ t.is (F.TDC_STAT.RUN
    h c) = true ∧ t.g (F.TDC_STAT.SET h c) = m ∧ t.g (F.TDC_HALL_STAT.LAST_SET h) = m ∧ t.rd (R.TDC_N h c) = 0 ∧ (t.tdc h
    c).byHost = true ∧ t.g (F.TDC_HALL_STAT.TDCQ h) = s.g (F.TDC_HALL_STAT.TDCQ h) - (s.g (F.TDC_HALL_STAT.TDCQ h) &&& s.g
    (F.TDC_SET_A.QCLR h m) &&& (15 - s.freshOf (F.TDC_HALL_STAT.TDCQ h)))) ∧
  (∀ (s : State) (h m : Nat), Ready s → h < s.part.halls → m < 64 → s.hallRun h = false → s.fenced h = false → s.is
    (F.TDC_SET_A.VALID h m) = true → s.is (F.TDC_SET_A.KIND h m) = true → ∃ t, exec (.tdcGo h m) s = .next t ∧ (t.reg
    h).run = true ∧ (t.reg h).open_ = true ∧ (t.reg h).set = m ∧ (t.reg h).k = 0 ∧ (t.reg h).slot = s.g
    (F.TDC_SET_A.START_SLOT h m) ∧ t.is (F.TDC_HALL_STAT.REG_RUN h) = true ∧ t.g (F.TDC_HALL_STAT.LAST_SET h) = m ∧ t.g
    (F.TDC_HALL_STAT.TDCQ h) = s.g (F.TDC_HALL_STAT.TDCQ h) - (s.g (F.TDC_HALL_STAT.TDCQ h) &&& s.g (F.TDC_SET_A.QCLR h m)
    &&& (15 - s.freshOf (F.TDC_HALL_STAT.TDCQ h)))) ∧
  (∀ (s : State) (h m : Nat), Ready s → h < s.part.halls → m < 64 → (s.hallRun h = true ∨ s.fenced h = true ∨ s.is
    (F.TDC_SET_A.VALID h m) = false) → exec (.tdcGo h m) s = .next ((s.p (F.TDC_HOST.MSET h) m).p (F.TDC_HALL_STAT.REFUSED
    h) 1)) ∧
  (∀ (s : State) (h c m : Nat), Ready s → h < s.part.halls → c < 32 → (s.tdc h c).run = some m → ∃ t, exec (.tdcAbort h) s
    = .next t ∧ (t.tdc h c).run = none ∧ t.is (F.TDC_STAT.RUN h c) = false ∧ t.is (F.TDC_STAT.ABORTED h c) = true ∧ t.is
    (F.TDC_HALL_STAT.ABORTED h) = true ∧ (t.tdc h c).n = (s.tdc h c).n) ∧
  (∀ (s : State) (h : Nat), Ready s → h < s.part.halls → (s.reg h).run = true → ∃ t, exec (.tdcAbort h) s = .next t ∧
    t.reg h = { s.reg h with run := false, open_ := false, aborted := true } ∧ t.is (F.TDC_HALL_STAT.REG_RUN h) = false ∧
    t.is (F.TDC_HALL_STAT.ABORTED h) = true) ∧
  (∀ (s : State) (h m w : Nat) (v : Word), Ready s → h < s.part.halls → m < 64 → w < 4 → tdcSetOk s h m w v = true →
    s.setRuns h m = false → tdcSetMust s h m w v = false → ∃ t, exec (.tdcSetWrite h m w v) s = .next t ∧ t.rd
    (match w with | 0 => R.TDC_SET_A h m | 1 => R.TDC_SET_B h m | 2 => R.TDC_SET_C h m | _ => R.TDC_SET_D h m) =
    (match w with | 0 => v &&& 0xFFFFFF80#32 | 1 => v | _ => v &&& 0xFFFFFF#32)) ∧
  (∀ (s : State) (h m w : Nat) (v : Word), Ready s → h < s.part.halls → m < 64 → tdcSetOk s h m w v = true → s.setRuns h m
    = false → tdcSetMust s h m w v = true → exec (.tdcSetWrite h m w v) s = .next (s)) ∧
  (∀ (s : State) (h m w : Nat) (v : Word), Ready s → h < s.part.halls → m < 64 → w < 4 → tdcSetOk s h m w v = true →
    s.setRuns h m = true → exec (.tdcSetWrite h m w v) s = .next (s.p (F.TDC_HALL_STAT.TDC_BUSY h) 1)) ∧
  (∀ (s : State) (h m w : Nat) (v : Word), Ready s → h < s.part.halls → m < 64 → w < 4 → tdcSetOk s h m w v = false → exec
    (.tdcSetWrite h m w v) s = .next ((s.p (F.TDC_HALL_STAT.TDC_BUSY h) 1).p (F.TDC_HALL_STAT.CFG_ERR h) 1))

/-- Stamps and samples (R327, R328, R332, R333) and the stats engines (R334, R335): an axis start on the grid opens a
sample, or is skipped too early, a stop adds its interval, an event within 3 ns of the last is not stamped, the end of a
sample queues its value or counts a timeout or a skip, and the engine accumulates the oldest value and completes at
COUNT + 1. -/
def Obligations.TdcSamples : Prop :=
  (∀ (s : State) (h m t0 c : Nat), h < s.part.halls → m < 64 → c < 32 → (s.tdc h c).run = some m → s.g
    (F.TDC_SET_A.START_SRC h m) = 0 → ((s.smp h m).at_ = none ∨ ∃ n, (s.smp h m).at_ = some n ∧ 0 < n ∧ n % (max 1 (s.g
    (F.TDC_SET_D.PERIOD h m))) = 0) → (s.smp h m).start = none → (∀ x, (s.smp h m).ended = some x → x + 40000 ≤ t0) → ∃ t,
    exec (.tdcAxisStart h m t0) s = .next t ∧ (t.smp h m).start = some t0 ∧ (t.smp h m).at_ = some 0 ∧ (t.tdc h c).stops =
    [] ∧ t.regs = s.regs) ∧
  (∀ (s : State) (h m t0 x c : Nat), h < s.part.halls → m < 64 → c < 32 → (s.tdc h c).run = some m → s.g
    (F.TDC_SET_A.START_SRC h m) = 0 → ((s.smp h m).at_ = none ∨ ∃ n, (s.smp h m).at_ = some n ∧ 0 < n ∧ n % (max 1 (s.g
    (F.TDC_SET_D.PERIOD h m))) = 0) → (s.smp h m).start = none → (s.smp h m).ended = some x → t0 < x + 40000 → s.g
    (F.TDC_SKIP.COUNT h c) < 2 ^ 31 - 1 → ∃ t, exec (.tdcAxisStart h m t0) s = .next t ∧ (t.smp h m).start = none ∧ (t.smp
    h m).at_ = some 0 ∧ t.g (F.TDC_SKIP.COUNT h c) = s.g (F.TDC_SKIP.COUNT h c) + 1) ∧
  (∀ (s : State) (h m t0 n : Nat), (s.smp h m).at_ = some n → n % (max 1 (s.g (F.TDC_SET_D.PERIOD h m))) ≠ 0 → exec
    (.tdcAxisStart h m t0) s = .next (s)) ∧
  (∀ (s : State) (h m c k t0 e a i : Nat), h < s.part.halls → m < 64 → c < 32 → k < 2 → s.compOn h c = true → (s.tdc h
    c).run = some m → (s.tdc h c).lastStamp = none → (s.smp h m).start = some a → (s.reg h).open_ = false → s.is
    (F.TDC_SET_A.STOP_SRC h m) = false → edgeOk (s.g (F.TDC_SET_A.STOP_EDGE h m)) k = true → (s.tdc h c).stops.length <
    s.nstop h m → (t0 + s.calLive (calHallRec h c + 4)).toNat = a + i → i ≤ sampleMax → (List.range 64).all (fun n =>
    (s.runners h n).isEmpty || s.g (F.TDC_SET_A.START_SLOT h n) != c || s.g (F.TDC_SET_A.START_SRC h n) == 0) = true → ∃
    t, exec (.tdcEvent h c k t0 e) s = .next t ∧ (t.tdc h c).stops = (s.tdc h c).stops ++ [i] ∧ (t.tdc h c).lastStamp =
    some (a + i)) ∧
  (∀ (s : State) (h c k t0 e l : Nat), h < s.part.halls → c < 32 → (k < 2 ∧ s.compOn h c = true ∨ k = 2 ∧ s.marks h c e =
    true) → (s.tdc h c).lastStamp = some l → (t0 + s.calLive (calHallRec h c + 4)).toNat < l + 3000 → (s.reg h).open_ =
    false → exec (.tdcEvent h c k t0 e) s = .next (compEdge h c k s)) ∧
  (∀ (s : State) (h m c a v : Nat), h < s.part.halls → m < 64 → c < 32 → (s.smp h m).start = some a → (s.tdc h c).run =
    some m → s.is (F.TDC_SET_A.STAT_MODE h m) = false → (s.tdc h c).stops[s.g (F.TDC_SET_A.STAT_IDX h m)]? = some v →
    (s.tdc h c).queue.length < 4 → ∃ t, exec (.sampleEnd h m) s = .next t ∧ (t.smp h m).start = none ∧ (t.smp h m).ended =
    some (s.sampleEndAt h m a) ∧ (t.tdc h c).queue = (s.tdc h c).queue ++ [(v : Int)] ∧ (t.tdc h c).lastStops = (s.tdc h
    c).stops ∧ (t.tdc h c).stops = []) ∧
  (∀ (s : State) (h m c a v u : Nat), h < s.part.halls → m < 64 → c < 32 → (s.smp h m).start = some a → (s.tdc h c).run =
    some m → s.is (F.TDC_SET_A.STAT_MODE h m) = true → (s.tdc h c).stops[s.g (F.TDC_SET_A.STAT_IDX h m)]? = some v →
    (s.tdc h c).stops[s.g (F.TDC_SET_A.STAT_IDX h m) - 1]? = some u → (s.tdc h c).queue = [] → ∃ t, exec (.sampleEnd h m)
    s = .next t ∧ (t.tdc h c).queue = [(v : Int) - u]) ∧
  (∀ (s : State) (h m c a : Nat), h < s.part.halls → m < 64 → c < 32 → (s.smp h m).start = some a → (s.tdc h c).run = some
    m → (s.tdc h c).stops = [] → s.g (F.TDC_TMO.COUNT h c) < 2 ^ 31 - 1 → ∃ t, exec (.sampleEnd h m) s = .next t ∧ t.g
    (F.TDC_TMO.COUNT h c) = s.g (F.TDC_TMO.COUNT h c) + 1 ∧ (t.tdc h c).queue = (s.tdc h c).queue) ∧
  (∀ (s : State) (h m c a v : Nat), h < s.part.halls → m < 64 → c < 32 → (s.smp h m).start = some a → (s.tdc h c).run =
    some m → s.is (F.TDC_SET_A.STAT_MODE h m) = false → (s.tdc h c).stops[s.g (F.TDC_SET_A.STAT_IDX h m)]? = some v →
    (s.tdc h c).queue.length = 4 → s.g (F.TDC_SKIP.COUNT h c) < 2 ^ 31 - 1 → ∃ t, exec (.sampleEnd h m) s = .next t ∧ t.g
    (F.TDC_SKIP.COUNT h c) = s.g (F.TDC_SKIP.COUNT h c) + 1 ∧ (t.tdc h c).queue = (s.tdc h c).queue) ∧
  (∀ (s : State) (h m c : Nat) (v : Int) (rest : List Int), h < s.part.halls → c < 32 → (s.tdc h c).run = some m → (s.tdc
    h c).queue = v :: rest → (s.tdc h c).n < s.g (F.TDC_SET_C.COUNT h m) → m < 64 → ∃ t, exec (.statsAccept h c) s = .next
    t ∧ t.tdc h c = { (s.tdc h c).accept v with queue := rest } ∧ t.g (F.TDC_N.N h c) = ((s.tdc h c).n + 1) % 2 ^
    (F.TDC_N.N h c).len ∧ t.is (F.TDC_STAT.SQ_SAT h c) = ((s.tdc h c).accept v).sqSat) ∧
  (∀ (s : State) (h m c : Nat) (v : Int) (rest : List Int), h < s.part.halls → c < 32 → (s.tdc h c).run = some m → (s.tdc
    h c).queue = v :: rest → (s.tdc h c).n = s.g (F.TDC_SET_C.COUNT h m) → m < 64 → ∃ t, exec (.statsAccept h c) s = .next
    t ∧ (t.tdc h c).run = none ∧ (t.tdc h c).n = (s.tdc h c).n + 1 ∧ t.is (F.TDC_STAT.DONE h c) = true ∧ t.is
    (F.TDC_STAT.RUN h c) = false)

/-- The regression engine (R337, R338) and READ_STATS (R342, R343): the gate closes, the result is stored and REG_DONE
set; READ_STATS writes the regression record, or the records of channels 0 and 31 for the mask that names them, and
completes OK, or BUSY where CLEAR meets a running regression. -/
def Obligations.RegressionAndStatsReads : Prop :=
  (∀ (s : State) (h : Nat), h < s.part.halls → (s.reg h).open_ = true → ∃ t, exec (.regGateClose h) s = .next t ∧ t.reg h
    = { s.reg h with open_ := false } ∧ t.regs = s.regs) ∧
  (∀ (s : State) (h : Nat), h < s.part.halls → (s.reg h).run = true → (s.reg h).open_ = false → ∃ t, exec (.regResult h) s
    = .next t ∧ (t.reg h).run = false ∧ t.is (F.TDC_HALL_STAT.REG_DONE h) = true ∧ t.is (F.TDC_HALL_STAT.REG_RUN h) =
    false ∧ (t.reg h).freq = ((s.reg h).result.getD (0, 0)).1 ∧ (t.reg h).invalid = decide ((s.reg h).k < 3) ∧ t.g
    (F.REG_FREQ_LO.FREQ h) = ((s.reg h).result.getD (0, 0)).1 % 2 ^ 32 ∧ t.g (F.REG_FREQ_HI.FREQ_HI h) = ((s.reg
    h).result.getD (0, 0)).1 / 2 ^ 32 % 2 ^ 32 ∧ t.g (F.REG_K.K h) = (s.reg h).k % 2 ^ (F.REG_K.K h).len) ∧
  (∀ (s : State) (q : Nat) (r : DescRun), Executes s q 20 false r → dUnit r.desc < s.part.halls → dscBits r.desc 20 2 6 =
    0 → dsc r.desc 21 3 = 0 → dscZeroFrom r.desc 28 = true → dAddr r.desc % 64 = 0 → r.owns (dUnit r.desc) = true →
    dscBits r.desc 20 0 1 = 1 → dsc r.desc 24 4 = 0 → dLen r.desc = 64 → (dscBits r.desc 20 1 1 = 0 ∨ (s.reg (dUnit
    r.desc)).run = false) → ∃ t, exec (.readStats q) s = .next t ∧ t.out = s.out ++ [.hostWrite (dAddr r.desc) 64
    (s.regRecord (dUnit r.desc))] ∧ t.reg (dUnit r.desc) = (if dscBits r.desc 20 1 1 = 1 then {} else s.reg (dUnit
    r.desc)) ∧ t.regs = s.regs ∧ Completed t q r .ok (readStatsRes s (dUnit r.desc) 1 0 0)) ∧
  (∀ (s : State) (q : Nat) (r : DescRun), Executes s q 20 false r → dUnit r.desc < s.part.halls → dscBits r.desc 20 2 6 =
    0 → dsc r.desc 21 3 = 0 → dscZeroFrom r.desc 28 = true → dAddr r.desc % 64 = 0 → r.owns (dUnit r.desc) = true →
    dscBits r.desc 20 0 2 = 2 → dsc r.desc 24 4 = 0x80000001 → dLen r.desc = 256 → s.is (F.TDC_STAT.RUN (dUnit r.desc) 0)
    = false → s.is (F.TDC_STAT.RUN (dUnit r.desc) 31) = false → ∃ t, exec (.readStats q) s = .next t ∧ t.out = s.out ++
    [.hostWrite (dAddr r.desc) 128 (s.statsRecord (dUnit r.desc) 0), .hostWrite (dAddr r.desc + 128) 128 (s.statsRecord
    (dUnit r.desc) 31)] ∧ t.tdc (dUnit r.desc) 31 =
    { run := (s.tdc (dUnit r.desc) 31).run, stops := (s.tdc (dUnit r.desc) 31).stops, lastStamp := (s.tdc (dUnit r.desc)
        31).lastStamp, byHost := (s.tdc (dUnit r.desc) 31).byHost, alc := (s.tdc (dUnit r.desc) 31).alc } ∧ t.tdc (dUnit
    r.desc) 0 =
    { run := (s.tdc (dUnit r.desc) 0).run, stops := (s.tdc (dUnit r.desc) 0).stops, lastStamp := (s.tdc (dUnit r.desc)
        0).lastStamp, byHost := (s.tdc (dUnit r.desc) 0).byHost, alc := (s.tdc (dUnit r.desc) 0).alc } ∧ t.rd (R.TDC_TMO
    (dUnit r.desc) 31) = 0 ∧ t.rd (R.TDC_TMO (dUnit r.desc) 0) = 0 ∧ t.rd (R.TDC_SKIP (dUnit r.desc) 31) = 0 ∧ t.rd
    (R.TDC_SKIP (dUnit r.desc) 0) = 0 ∧ t.is (F.TDC_STAT.DONE (dUnit r.desc) 31) = false ∧ t.is (F.TDC_STAT.DONE (dUnit
    r.desc) 0) = false ∧ Completed t q r .ok (readStatsRes s (dUnit r.desc) 2 0 0)) ∧
  (∀ (s : State) (q : Nat) (r : DescRun), Executes s q 20 false r → dUnit r.desc < s.part.halls → dscBits r.desc 20 2 6 =
    0 → dsc r.desc 21 3 = 0 → dscZeroFrom r.desc 28 = true → dAddr r.desc % 64 = 0 → r.owns (dUnit r.desc) = true →
    dscBits r.desc 20 0 2 = 3 → dsc r.desc 24 4 = 0 → dLen r.desc = 64 → (s.reg (dUnit r.desc)).run = true → ∃ t, exec
    (.readStats q) s = .next t ∧ t.out = s.out ∧ t.reg (dUnit r.desc) = s.reg (dUnit r.desc) ∧ Completed t q r .busy
    (readStatsRes s (dUnit r.desc) 0 1 0x80000000))

/-- Requests of a serial engine (R373, R375, R376): a request reaches the queue, in order; a full queue drops it with
QOVF, SDONE and SMIS; a fenced engine ends it as aborted; an idle engine starts the oldest. Ends of transfers (R374,
R376, R380): the bytes received are stored, HSE_LAST and HSE_CRC report, the alcove of the last SEND takes its status or
the descriptor of a SERIAL_XFER completes OK; an abort ends the transfers that run and that wait with ABORTED set. The
swap that waits for the last transfer of a bank is R201. BOOT_SPI (R385): GO with a legal length while idle stores the
control word, sets BUSY and shifts out; a GO in a transaction or with a length over 256 is refused; the end of a read
stores its bytes, and the end of any clears BUSY. -/
def Obligations.SerialEngines : Prop :=
  (∀ (s : State) (h : Nat) (r : SendReq) (rest : List SendReq), h < s.part.halls → ((s.hl h).hold.swapWait = none ∨ ∃ b,
    s.liveBank h = some b ∧ s.bankSends h b = true) → (s.hse h).flight = r :: rest → s.hseFenced h = false → (s.hse
    h).queue.length < 64 → ∃ t, exec (.hseEnqueue h) s = .next t ∧ (t.hse h).queue = (s.hse h).queue ++ [r] ∧ (t.hse
    h).flight = rest ∧ t.g (F.HSE_STAT.QDEPTH h) = (s.hse h).queue.length + 1 ∧ t.is (F.HSE_STAT.BUSY h) = true) ∧
  (∀ (s : State) (h : Nat) (r : SendReq) (rest : List SendReq), h < s.part.halls → (s.hl h).hold.swapWait = none → (s.hse
    h).flight = r :: rest → s.hseFenced h = false → (s.hse h).queue.length = 64 → s.g (F.HSE_QDROP.COUNT h) < 2 ^ 31 - 1 →
    (s.alc h r.alc).lastSend = r.seq → s.replaying = false → ∃ t, exec (.hseEnqueue h) s = .next t ∧ (t.hse h).queue =
    (s.hse h).queue ∧ (t.hse h).flight = rest ∧ t.is (F.HSE_STAT.QOVF h) = true ∧ t.g (F.HSE_QDROP.COUNT h) = s.g
    (F.HSE_QDROP.COUNT h) + 1 ∧ (t.alc h r.alc).sdone = true ∧ (t.alc h r.alc).smis = true) ∧
  (∀ (s : State) (h : Nat) (r : SendReq) (rest : List SendReq), h < s.part.halls → (s.hl h).hold.swapWait = none → (s.hse
    h).flight = r :: rest → s.hseFenced h = true → (s.alc h r.alc).lastSend = r.seq → s.replaying = false → ∃ t, exec
    (.hseEnqueue h) s = .next t ∧ (t.hse h).queue = (s.hse h).queue ∧ (t.hse h).flight = rest ∧ t.is (F.HSE_STAT.ABORTED
    h) = true ∧ t.g (F.HSE_LAST.FLAGS h) = 9 ∧ (t.alc h r.alc).sdone = true ∧ (t.alc h r.alc).smis = true) ∧
  (∀ (s : State) (h : Nat) (r : SendReq) (rest : List SendReq), h < s.part.halls → (s.hse h).queue = r :: rest → (s.hse
    h).run = none → (s.hse h).xfer = none → ∃ t, exec (.hseTransferStart h) s = .next t ∧ (t.hse h).run = some r ∧ (t.hse
    h).queue = rest ∧ (t.hse h).lost = false ∧ t.g (F.HSE_STAT.QDEPTH h) = rest.length % 128 ∧ t.is (F.HSE_STAT.BUSY h) =
    true) ∧
  (∀ (s : State) (h j : Nat) (data : List Nat) (r : SendReq), h < s.part.halls → (s.hl h).hold.swapWait = none → (s.hse
    h).run = some r → (s.hse h).xfer = none → r.slot < 256 → r.alc < 96 → s.is (F.HSE_SLOT_A.MODE h r.slot) = false → s.g
    (F.HSE_SLOT_A.CHECK h r.slot) = 0 → 0 < s.g (F.HSE_SLOT_D.LEN h r.slot) → j < (s.g (F.HSE_SLOT_D.LEN h r.slot) + 7) /
    8 → (s.alc h r.alc).lastSend = r.seq → s.replaying = false → ∃ t, exec (.hseTransferEnd h data []) s = .next t ∧
    (t.hse h).run = none ∧ t.region h true (s.g (F.HSE_SLOT_D.IN_OFF h r.slot)) j = natBits (data.getD j 0 % 256) 0 (min 8
    (s.g (F.HSE_SLOT_D.LEN h r.slot) - 8 * j)) ∧ t.g (F.HSE_LAST.SLOT h) = r.slot ∧ t.g (F.HSE_LAST.ALCOVE h) = (96 * h +
    r.alc) % 4096 ∧ t.g (F.HSE_LAST.FLAGS h) = 4 * (s.hse h).lost.toNat ∧ t.g (F.HSE_CRC.CRC h) = crc32 (trimBits (s.g
    (F.HSE_SLOT_D.LEN h r.slot)) ((List.range ((s.g (F.HSE_SLOT_D.LEN h r.slot) + 7) / 8)).map (fun n => data.getD n 0 %
    256))) % 2 ^ 32 ∧ (t.alc h r.alc).sdone = true ∧ (t.alc h r.alc).smis = false) ∧
  (∀ (s : State) (h n c : Nat) (data mid : List Nat), h < s.part.halls → (s.hl h).hold.swapWait = some c → (hseEnd h data
    mid s).liveBank h = some n → (hseEnd h data mid s).hl h = s.hl h → (hseEnd h data mid s).bankSends h n = false →
    (hseEnd h data mid s).slice h = false → exec (.hseTransferEnd h data mid) s = .next (withClaims (swapBegin h c)
    (hseEnd h data mid s))) ∧
  (∀ (s : State) (h q : Nat) (data : List Nat) (x : XferX) (r : DescRun), h < s.part.halls → (s.hl h).hold.swapWait = none
    → (s.hse h).run = none → (s.hse h).queue = [] → (s.hse h).xfer = some x → x.running = true → s.is (F.HSE_SLOT_A.MODE h
    x.slot) = false → s.g (F.HSE_SLOT_A.CHECK h x.slot) = 0 → s.queueOf x.did = some q → (s.queue q).run = some r → x.slot
    < 256 → ∃ t, exec (.hseTransferEnd h data []) s = .next t ∧ (t.hse h).xfer = none ∧ (t.hl h).sitesel = 0 ∧ t.is
    (F.HSE_STAT.BUSY h) = false ∧ t.g (F.HSE_LAST.FLAGS h) = 16 + 4 * ((s.hse h).lost || s.xferLost h x.slot x.base).toNat
    ∧ Completed t q r .ok (xferRes x.slot 0 (16 + 4 * ((s.hse h).lost || s.xferLost h x.slot x.base).toNat) (t.rd
    (R.HSE_CRC h)).toNat 0 0xFFFFFFFF (3 + s.g (F.HSE_SLOT_D.LEN h x.slot)))) ∧
  (∀ (s : State) (h : Nat), Ready s → h < s.part.halls → (s.hl h).hold.swapWait = none → (s.hse h).xfer = none → ((s.hse
    h).run ≠ none ∨ (s.hse h).queue ≠ []) → s.replaying = false → ∃ t, exec (.hseAbort h) s = .next t ∧ (t.hse h).run =
    none ∧ (t.hse h).queue = [] ∧ (t.hse h).flight = [] ∧ t.is (F.HSE_STAT.ABORTED h) = true ∧ t.is (F.HSE_STAT.BUSY h) =
    false ∧ t.g (F.HSE_STAT.QDEPTH h) = 0 ∧ t.rd (R.HSE_CTL h) = s.rd (R.HSE_CTL h) ∧ ((s.hse h).queue.all (fun r =>
    (s.alc h r.alc).lastSend != r.seq || ((t.alc h r.alc).sdone && (t.alc h r.alc).smis)) = true)) ∧
  (∀ (s : State) (h q : Nat) (x : XferX) (r : DescRun), Ready s → h < s.part.halls → (s.hl h).hold.swapWait = none →
    (s.hse h).run = none → (s.hse h).queue = [] → (s.hse h).flight = [] → (s.hse h).xfer = some x → x.running = false →
    s.queueOf x.did = some q → (s.queue q).run = some r → ∃ t, exec (.hseAbort h) s = .next t ∧ (t.hse h).xfer = none ∧
    t.is (F.HSE_STAT.ABORTED h) = true ∧ (t.hl h).sitesel = 0 ∧ Completed t q r .faulted (xferRes x.slot 0 9 (crc32 []) 0
    0xFFFFFFFF 0)) ∧
  (∀ (s : State) (v : Word), Ready s → F.BSPI_CTL.LEN.of v ≤ 256 → s.is F.BSPI_STAT.BUSY = false → F.BSPI_CTL.DIR.is v =
    false → ∃ t, exec (.bspiGo v) s = .next t ∧ t.is F.BSPI_STAT.BUSY = true ∧ t.rd R.BSPI_CTL = v &&& 0x7FFE01FF#32 ∧
    t.bspi = (false, F.BSPI_CTL.LEN.of v) ∧ t.out = s.out ++ [.shift 1 (packB [(0, 1, F.BSPI_CTL.CMD.of v), (1, 3, if
    F.BSPI_CTL.ADDR_EN.is v = true then s.g F.BSPI_ADDR.ADDR else 0)])]) ∧
  (∀ (s : State) (v : Word), Ready s → F.BSPI_CTL.LEN.of v ≤ 256 → s.is F.BSPI_STAT.BUSY = false → F.BSPI_CTL.DIR.is v =
    true → ∃ t, exec (.bspiGo v) s = .next t ∧ t.is F.BSPI_STAT.BUSY = true ∧ t.rd R.BSPI_CTL = v &&& 0x7FFE01FF#32 ∧
    t.bspi = (true, F.BSPI_CTL.LEN.of v) ∧ t.out = s.out ++ [.shift 1 (packB ((0, 1, F.BSPI_CTL.CMD.of v) :: (1, 3, if
    F.BSPI_CTL.ADDR_EN.is v = true then s.g F.BSPI_ADDR.ADDR else 0) :: (List.range (F.BSPI_CTL.LEN.of v)).map (fun j =>
    (4 + j, 1, natBits (s.g (F.BSPI_BUF.DATA (j / 4))) (8 * (j % 4)) 8))))]) ∧
  (∀ (s : State) (v : Word), Ready s → F.BSPI_CTL.LEN.of v ≤ 256 → s.is F.BSPI_STAT.BUSY = true → ∃ t, exec (.bspiGo v) s
    = .next t ∧ t.is F.BSPI_STAT.REFUSED = true ∧ t.is F.BSPI_STAT.BUSY = true ∧ t.bspi = s.bspi ∧ t.out = s.out) ∧
  (∀ (s : State) (v : Word), Ready s → 256 < F.BSPI_CTL.LEN.of v → exec (.bspiGo v) s = .next (s.p F.BSPI_STAT.REFUSED 1)) ∧
  (∀ (s : State) (data : List Nat) (j n : Nat), s.is F.BSPI_STAT.BUSY = true → s.bspi = (false, n) → n ≤ 256 → j < n → ∃
    t, exec (.bspiDone data) s = .next t ∧ t.is F.BSPI_STAT.BUSY = false ∧ natBits (t.g (F.BSPI_BUF.DATA (j / 4))) (8 * (j
    % 4)) 8 = data.getD j 0 % 256) ∧
  (∀ (s : State) (data : List Nat) (n : Nat), s.is F.BSPI_STAT.BUSY = true → s.bspi = (true, n) → exec (.bspiDone data) s
    = .next (s.p F.BSPI_STAT.BUSY 0))

/-- SERIAL_XFER (R379, R380): with every check passed the transfer takes the engine, its bank reaches SITESEL, and it runs
after the settle time. Configuration (R377): a word is stored only while the engine is idle and the hall out of a run; a
DIV above 199 is refused (R386). -/
def Obligations.SerialXferAndConfig : Prop :=
  (∀ (s : State) (q : Nat) (r : DescRun), Executes s q 17 false r → dUnit r.desc < s.part.halls → s.slice (dUnit r.desc) =
    false → dscBits r.desc 21 2 6 = 0 → dscBits r.desc 22 5 3 = 0 → dscZeroFrom r.desc 23 = true → dAddr r.desc = 0 → dLen
    r.desc = 0 → r.owns (dUnit r.desc) = true → s.hseFenced (dUnit r.desc) = false → s.hallRun (dUnit r.desc) = false →
    (s.peh (dUnit r.desc)).touch = none → (s.peh (dUnit r.desc)).ppPhase = 0 → (s.hse (dUnit r.desc)).busy = false → s.is
    (F.HSE_SLOT_A.VALID (dUnit r.desc) (dsc r.desc 20 1)) = true → s.slotValid (dUnit r.desc) (dsc r.desc 20 1) = true →
    s.lanesOk (dUnit r.desc) (dsc r.desc 20 1) (dscBits r.desc 22 0 5) = true → s.dryRun = false → ∃ t, exec (.serialXfer
    q) s = .next t ∧ (t.hse (dUnit r.desc)).xfer = some ⟨r.did, dsc r.desc 20 1, dscBits r.desc 21 0 2, dscBits r.desc 22
    0 5, dscBits r.desc 21 0 2 == 0⟩ ∧ (t.hl (dUnit r.desc)).sitesel = dscBits r.desc 21 0 2 ∧ t.is (F.HSE_STAT.BUSY
    (dUnit r.desc)) = true ∧ (t.queue q).run = some { r with acted := true }) ∧
  (∀ (s : State) (q : Nat) (r : DescRun), Executes s q 17 false r → dUnit r.desc < s.part.halls → s.slice (dUnit r.desc) =
    false → dscBits r.desc 21 2 6 = 0 → dscBits r.desc 22 5 3 = 0 → dscZeroFrom r.desc 23 = true → dAddr r.desc = 0 → dLen
    r.desc = 0 → r.owns (dUnit r.desc) = true → s.hseFenced (dUnit r.desc) = false → s.hallRun (dUnit r.desc) = false →
    (s.peh (dUnit r.desc)).touch = none → (s.peh (dUnit r.desc)).ppPhase = 0 → (s.hse (dUnit r.desc)).busy = false → s.is
    (F.HSE_SLOT_A.VALID (dUnit r.desc) (dsc r.desc 20 1)) = false → ∃ t, exec (.serialXfer q) s = .next t ∧ t.regs =
    s.regs ∧ (t.hse (dUnit r.desc)).xfer = (s.hse (dUnit r.desc)).xfer ∧ Completed t q r .denied (xferRes (dsc r.desc 20
    1) 2 0 0 0 0 0)) ∧
  (∀ (s : State) (h : Nat) (x : XferX), h < s.part.halls → (s.hse h).xfer = some x → ∃ t, exec (.xferSettleDone h) s =
    .next t ∧ t.hse h = { s.hse h with xfer := some { x with running := true } } ∧ t.regs = s.regs ∧ t.mem = s.mem) ∧
  (∀ (s : State) (h n k a : Nat) (r : HseReg) (m v : Word), Ready s → h < s.part.halls → n < 256 → k < 8 → (r, a, m) ∈
    ([(.slotA n, R.HSE_SLOT_A h n, 0xFFFFFF80#32), (.slotB n, R.HSE_SLOT_B h n, 0xFFFFFF00#32), (.slotC n, R.HSE_SLOT_C h
    n, 0xFFFFFFFF#32), (.slotD n, R.HSE_SLOT_D h n, 0xFFFFFFFF#32), (.lmapA k, R.LMAP_A h k, 0xFFFFFFFF#32), (.lmapB k,
    R.LMAP_B h k, 0x7FFF#32)] : List (HseReg × Nat × Word)) → s.hseCfgBusy h = false → ∃ t, exec (.hseConfigWrite h r v) s
    = .next t ∧ t.rd a = v &&& m) ∧
  (∀ (s : State) (h n k a : Nat) (r : HseReg) (m v : Word), Ready s → h < s.part.halls → n < 256 → k < 8 → (r, a, m) ∈
    ([(.slotA n, R.HSE_SLOT_A h n, 0xFFFFFF80#32), (.slotB n, R.HSE_SLOT_B h n, 0xFFFFFF00#32), (.slotC n, R.HSE_SLOT_C h
    n, 0xFFFFFFFF#32), (.slotD n, R.HSE_SLOT_D h n, 0xFFFFFFFF#32), (.lmapA k, R.LMAP_A h k, 0xFFFFFFFF#32), (.lmapB k,
    R.LMAP_B h k, 0x7FFF#32)] : List (HseReg × Nat × Word)) → s.hseCfgBusy h = true → exec (.hseConfigWrite h r v) s =
    .next (s.p (F.HSE_STAT.CFG_BUSY h) 1)) ∧
  (∀ (s : State) (h : Nat) (v : Word), Ready s → h < s.part.halls → (s.hl h).hold.swapWait = none → (F.HSE_CTL.ABORT h).is
    v = false → (F.HSE_CTL.DIV h).of v ≤ 199 → s.hseCfgBusy h = false → ∃ t, exec (.hseConfigWrite h .ctl v) s = .next t ∧
    t.rd (R.HSE_CTL h) = v &&& 0x1FFF#32) ∧
  (∀ (s : State) (h : Nat) (v : Word), Ready s → h < s.part.halls → (s.hl h).hold.swapWait = none → (F.HSE_CTL.ABORT h).is
    v = false → (F.HSE_CTL.DIV h).of v ≤ 199 → s.hseCfgBusy h = true → exec (.hseConfigWrite h .ctl v) s = .next (s.p
    (F.HSE_STAT.CFG_BUSY h) 1)) ∧
  (∀ (s : State) (h : Nat) (v : Word), Ready s → h < s.part.halls → (s.hl h).hold.swapWait = none → 199 < (F.HSE_CTL.DIV
    h).of v → exec (.hseConfigWrite h .ctl v) s = .next (s.p (F.HSE_STAT.CFG_ERR h) 1))

/-- Control flow of stair programs (R130–R133, R135, R139, R155): the effect of NOP, BR, CALL, RET, LOOP and NEXT on each
member of the cohort served and its cycles, the faults of the stack, of a reserved opcode and of a segment of 64
instructions.  Contexts in alcoves and memory are unchanged. Terminators (R135, R138, R150–R154): where HALT, PLAY,
PLAYN, BRW, SYNC and YIELD leave each member, and the terminator that the landing takes from it. -/
def Obligations.StairRuns : Prop :=
  (∀ (s : State) (h k : Nat) (m x : Member), Serves s h (pack [(58, 6, 0x00)]) m → InCohort s h k 0x00 m x → ∃ t, exec
    (.nopInstr h) s = .next t ∧ MemberIs t h k ({ x with ctx := x.ctx.seq, n := x.n + 1 }) ∧ (t.hl h).eng.cycles = (s.hl
    h).eng.cycles + 3 ∧ t.alcs = s.alcs ∧ t.mem = s.mem) ∧
  (∀ (s : State) (h k : Nat) (m x : Member) (mode mask target : Nat), Serves s h (pack [(58, 6, 0x08), (56, 2, mode), (16,
    32, mask), (0, 16, target)]) m → InCohort s h k 0x08 m x → mode < 4 → mask < 2 ^ 32 → target < 2 ^ 16 → ∃ t, exec (.br
    h) s = .next t ∧ MemberIs t h k
    ({ x with ctx := if condTest mode mask x.word = true then x.ctx.goto target else x.ctx.seq, n := x.n + 1 }) ∧ (t.hl
    h).eng.cycles = (s.hl h).eng.cycles + 3 ∧ t.alcs = s.alcs ∧ t.mem = s.mem) ∧
  (∀ (s : State) (h k : Nat) (m x : Member) (target : Nat), Serves s h (pack [(58, 6, 0x06), (0, 16, target)]) m →
    InCohort s h k 0x06 m x → target < 2 ^ 16 → x.ctx.stack.length < 8 → ∃ t, exec (.call h) s = .next t ∧ MemberIs t h k
    ({ x with ctx := { x.ctx.goto target with stack := .call ((x.ctx.pc + 1) % 65536) :: x.ctx.stack }, n := x.n + 1 }) ∧
    (t.hl h).eng.cycles = (s.hl h).eng.cycles + 4 ∧ t.alcs = s.alcs ∧ t.mem = s.mem) ∧
  (∀ (s : State) (h k : Nat) (m x : Member) (target : Nat), Serves s h (pack [(58, 6, 0x06), (0, 16, target)]) m →
    InCohort s h k 0x06 m x → target < 2 ^ 16 → 8 ≤ x.ctx.stack.length → ∃ t, exec (.call h) s = .next t ∧ MemberIs t h k
    (x.fault fcStack) ∧ (t.hl h).eng.cycles = (s.hl h).eng.cycles + 4 ∧ t.alcs = s.alcs ∧ t.mem = s.mem) ∧
  (∀ (s : State) (h k : Nat) (m x : Member) (r : Nat) (rest : List Frame), Serves s h (pack [(58, 6, 0x07)]) m → InCohort
    s h k 0x07 m x → x.ctx.stack = .call r :: rest → ∃ t, exec (.ret h) s = .next t ∧ MemberIs t h k
    ({ x with ctx := { x.ctx.goto r with stack := rest }, n := x.n + 1 }) ∧ (t.hl h).eng.cycles = (s.hl h).eng.cycles + 4
    ∧ t.alcs = s.alcs ∧ t.mem = s.mem) ∧
  (∀ (s : State) (h k : Nat) (m x : Member), Serves s h (pack [(58, 6, 0x07)]) m → InCohort s h k 0x07 m x →
    (match x.ctx.stack with | .call _ :: _ => true | _ => false) = false → ∃ t, exec (.ret h) s = .next t ∧ MemberIs t h k
    (x.fault fcStack) ∧ (t.hl h).eng.cycles = (s.hl h).eng.cycles + 4 ∧ t.alcs = s.alcs ∧ t.mem = s.mem) ∧
  (∀ (s : State) (h k : Nat) (m x : Member) (e n : Nat), Serves s h (pack [(58, 6, 0x04), (57, 1, 0), (32, 16, e), (0, 32,
    n)]) m → InCohort s h k 0x04 m x → e < 2 ^ 16 → n < 2 ^ 32 → n ≠ 0 → x.ctx.stack.length < 8 → ∃ t, exec (.loop h) s =
    .next t ∧ MemberIs t h k
    ({ x with ctx := { x.ctx.seq with stack := .loop x.ctx.pc e n (s.loopRef h x.ctx.pc) :: x.ctx.stack }, n := x.n + 1 })
    ∧ (t.hl h).eng.cycles = (s.hl h).eng.cycles + 6 ∧ t.alcs = s.alcs ∧ t.mem = s.mem) ∧
  (∀ (s : State) (h k : Nat) (m x : Member) (e : Nat), Serves s h (pack [(58, 6, 0x04), (57, 1, 0), (32, 16, e)]) m →
    InCohort s h k 0x04 m x → e < 2 ^ 16 → ∃ t, exec (.loop h) s = .next t ∧ MemberIs t h k
    ({ x with ctx := x.ctx.goto (e + 1), n := x.n + 1 }) ∧ (t.hl h).eng.cycles = (s.hl h).eng.cycles + 6 ∧ t.alcs = s.alcs
    ∧ t.mem = s.mem) ∧
  (∀ (s : State) (h k : Nat) (m x : Member) (c e : Nat), Serves s h (pack [(58, 6, 0x04), (57, 1, 1), (55, 2, c), (32, 16,
    e)]) m → InCohort s h k 0x04 m x → e < 2 ^ 16 → c < 4 → x.ctx.cnt.getD c 0 ≠ 0 → x.ctx.stack.length < 8 → ∃ t, exec
    (.loop h) s = .next t ∧ MemberIs t h k
    ({ x with ctx := { x.ctx.seq with stack := .loop x.ctx.pc e (x.ctx.cnt.getD c 0) (s.loopRef h x.ctx.pc) :: x.ctx.stack
                                        }, n := x.n + 1 }) ∧ (t.hl h).eng.cycles = (s.hl h).eng.cycles + 6 ∧ t.alcs =
    s.alcs ∧ t.mem = s.mem) ∧
  (∀ (s : State) (h k : Nat) (m x : Member) (c e : Nat), Serves s h (pack [(58, 6, 0x04), (57, 1, 1), (55, 2, c), (32, 16,
    e)]) m → InCohort s h k 0x04 m x → e < 2 ^ 16 → c < 4 → x.ctx.cnt.getD c 0 = 0 → ∃ t, exec (.loop h) s = .next t ∧
    MemberIs t h k ({ x with ctx := x.ctx.goto (e + 1), n := x.n + 1 }) ∧ (t.hl h).eng.cycles = (s.hl h).eng.cycles + 6 ∧
    t.alcs = s.alcs ∧ t.mem = s.mem) ∧
  (∀ (s : State) (h k : Nat) (m x : Member) (e n : Nat), Serves s h (pack [(58, 6, 0x04), (57, 1, 0), (32, 16, e), (0, 32,
    n)]) m → InCohort s h k 0x04 m x → e < 2 ^ 16 → n < 2 ^ 32 → n ≠ 0 → 8 ≤ x.ctx.stack.length → ∃ t, exec (.loop h) s =
    .next t ∧ MemberIs t h k (x.fault fcStack) ∧ (t.hl h).eng.cycles = (s.hl h).eng.cycles + 6 ∧ t.alcs = s.alcs ∧ t.mem =
    s.mem) ∧
  (∀ (s : State) (h k : Nat) (m x : Member) (a e n : Nat) (refs : List Nat) (rest : List Frame), Serves s h (pack [(58, 6,
    0x05)]) m → InCohort s h k 0x05 m x → x.ctx.stack = .loop a e n refs :: rest → 1 < n → ∃ t, exec (.next h) s = .next t
    ∧ MemberIs t h k
    ({ x with ctx := { x.ctx.goto (a + 1) with stack := .loop a e (n - 1) refs :: rest }, n := x.n + 1 }) ∧ (t.hl
    h).eng.cycles = (s.hl h).eng.cycles + 5 ∧ t.alcs = s.alcs ∧ t.mem = s.mem) ∧
  (∀ (s : State) (h k : Nat) (m x : Member) (a e n : Nat) (refs : List Nat) (rest : List Frame), Serves s h (pack [(58, 6,
    0x05)]) m → InCohort s h k 0x05 m x → x.ctx.stack = .loop a e n refs :: rest → n ≤ 1 → ∃ t, exec (.next h) s = .next t
    ∧ MemberIs t h k ({ x with ctx := { x.ctx.seq with stack := rest }, n := x.n + 1 }) ∧ (t.hl h).eng.cycles = (s.hl
    h).eng.cycles + 5 ∧ t.alcs = s.alcs ∧ t.mem = s.mem) ∧
  (∀ (s : State) (h k : Nat) (m x : Member), Serves s h (pack [(58, 6, 0x05)]) m → InCohort s h k 0x05 m x →
    (match x.ctx.stack with | .loop _ _ _ _ :: _ => true | _ => false) = false → ∃ t, exec (.next h) s = .next t ∧
    MemberIs t h k (x.fault fcStack) ∧ (t.hl h).eng.cycles = (s.hl h).eng.cycles + 5 ∧ t.alcs = s.alcs ∧ t.mem = s.mem) ∧
  (∀ (s : State) (h k : Nat) (m x : Member), Serves s h (pack [(58, 6, 0x00), (0, 1, 1)]) m → InCohort s h k 0x00 m x → ∃
    t, exec (.nopInstr h) s = .next t ∧ MemberIs t h k (x.fault fcBadop) ∧ (t.hl h).eng.cycles = (s.hl h).eng.cycles + 3 ∧
    t.alcs = s.alcs ∧ t.mem = s.mem) ∧
  (∀ (s : State) (h k op v : Nat) (m x : Member), 0x17 ≤ op → op < 64 → v < 2 ^ 58 → Serves s h (2 ^ 58 * op + v) m →
    InCohort s h k op m x → ∃ t, exec (.reservedOpcode h) s = .next t ∧ MemberIs t h k (x.fault fcBadop) ∧ (t.hl
    h).eng.cycles = (s.hl h).eng.cycles + 3 ∧ t.alcs = s.alcs ∧ t.mem = s.mem) ∧
  (∀ (s : State) (h k : Nat) (x : Member), h < s.part.halls → (s.hl h).eng.run = true → s.fenced h = false → (s.hl
    h).eng.xfaults = [] → s.g (F.STAIR_STAT.SEALED h) = 0xFFFF → MemberIs s h k x → x.st = .run → 64 ≤ x.n → ∃ t, exec
    (.segmentLimit h) s = .next t ∧ MemberIs t h k (x.fault fcSegment) ∧ t.alcs = s.alcs ∧ t.mem = s.mem) ∧
  (∀ (s : State) (h k : Nat) (m x : Member), Serves s h (pack [(58, 6, 0x01)]) m → InCohort s h k 0x01 m x → ∃ t, exec
    (.halt h) s = .next t ∧ MemberIs t h k (x.stop (.halt) x.ctx) ∧ (t.hl h).eng.cycles = (s.hl h).eng.cycles + 4 ∧ t.alcs
    = s.alcs ∧ t.mem = s.mem) ∧
  (∀ (s : State) (h k : Nat) (m x : Member) (f : Nat), Serves s h (pack [(58, 6, 0x02), (0, 12, f)]) m → InCohort s h k
    0x02 m x → f < 4096 → ∃ t, exec (.play h) s = .next t ∧ MemberIs t h k (x.stop (.play f) x.ctx.seq) ∧ (t.hl
    h).eng.cycles = (s.hl h).eng.cycles + 4 ∧ t.alcs = s.alcs ∧ t.mem = s.mem) ∧
  (∀ (s : State) (h k : Nat) (m x : Member), Serves s h (pack [(58, 6, 0x15)]) m → InCohort s h k 0x15 m x → ∃ t, exec
    (.yield h) s = .next t ∧ MemberIs t h k (x.stop (.yield) x.ctx.seq) ∧ (t.hl h).eng.cycles = (s.hl h).eng.cycles + 4 ∧
    t.alcs = s.alcs ∧ t.mem = s.mem) ∧
  (∀ (s : State) (h k : Nat) (m x : Member) (mode cnt f mask : Nat), Serves s h (pack [(58, 6, 0x03), (56, 2, mode), (44,
    12, cnt), (32, 12, f), (0, 32, mask)]) m → InCohort s h k 0x03 m x → mode < 4 → cnt < 4096 → f < 4096 → mask < 2 ^ 32
    → (x.ctx.rep = 0 ∨ (condTest mode mask x.word = false ∧ x.ctx.rep < cnt + 1)) → ∃ t, exec (.playn h) s = .next t ∧
    MemberIs t h k (x.stop (.play f) { x.ctx with rep := x.ctx.rep + 1 }) ∧ (t.hl h).eng.cycles = (s.hl h).eng.cycles + 5
    ∧ t.alcs = s.alcs ∧ t.mem = s.mem) ∧
  (∀ (s : State) (h k : Nat) (m x : Member) (mode cnt f mask : Nat), Serves s h (pack [(58, 6, 0x03), (56, 2, mode), (44,
    12, cnt), (32, 12, f), (0, 32, mask)]) m → InCohort s h k 0x03 m x → mode < 4 → cnt < 4096 → f < 4096 → mask < 2 ^ 32
    → x.ctx.rep ≠ 0 → (condTest mode mask x.word = true ∨ cnt + 1 ≤ x.ctx.rep) → ∃ t, exec (.playn h) s = .next t ∧
    MemberIs t h k ({ x with ctx := { x.ctx.seq with rep := 0 }, n := x.n + 1 }) ∧ (t.hl h).eng.cycles = (s.hl
    h).eng.cycles + 5 ∧ t.alcs = s.alcs ∧ t.mem = s.mem) ∧
  (∀ (s : State) (h k : Nat) (m x : Member) (mode tmo mask target : Nat), Serves s h (pack [(58, 6, 0x09), (56, 2, mode),
    (48, 8, tmo), (16, 32, mask), (0, 16, target)]) m → InCohort s h k 0x09 m x → mode < 4 → tmo < 256 → mask < 2 ^ 32 →
    target < 2 ^ 16 → condTest mode mask x.word = true → ∃ t, exec (.brw h) s = .next t ∧ MemberIs t h k
    ({ x with ctx := x.ctx.goto target, n := x.n + 1 }) ∧ (t.hl h).eng.cycles = (s.hl h).eng.cycles + 4 ∧ t.alcs = s.alcs
    ∧ t.mem = s.mem) ∧
  (∀ (s : State) (h k : Nat) (m x : Member) (mode tmo mask target : Nat), Serves s h (pack [(58, 6, 0x09), (56, 2, mode),
    (48, 8, tmo), (16, 32, mask), (0, 16, target)]) m → InCohort s h k 0x09 m x → mode < 4 → tmo < 256 → mask < 2 ^ 32 →
    target < 2 ^ 16 → condTest mode mask x.word = false → ∃ t, exec (.brw h) s = .next t ∧ MemberIs t h k (x.stop (.brw
    mode mask target ((tmo % 16 + 1) * 4 ^ (tmo / 16))) x.ctx) ∧ (t.hl h).eng.cycles = (s.hl h).eng.cycles + 4 ∧ t.alcs =
    s.alcs ∧ t.mem = s.mem) ∧
  (∀ (s : State) (h k : Nat) (m x : Member) (mode line mask target : Nat), Serves s h (pack [(58, 6, 0x0C), (56, 2, mode),
    (53, 3, line), (16, 32, mask), (0, 16, target)]) m → InCohort s h k 0x0C m x → mode < 4 → line < 8 → mask < 2 ^ 32 →
    target < 2 ^ 16 → ∃ t, exec (.sync h) s = .next t ∧ MemberIs t h k (x.stop (.sync line target mode mask) x.ctx) ∧
    (t.hl h).eng.cycles = (s.hl h).eng.cycles + 8 ∧ t.alcs = s.alcs ∧ t.mem = s.mem)

/-- Instructions without control flow (R131, R132, R138, R148, R149, R159, R160, R314, R318, R330, R373): what each stages
for the landing or changes in the working copy, and where it faults. -/
def Obligations.StairEffects : Prop :=
  (∀ (s : State) (h k : Nat) (m x : Member) (v : Nat), Serves s h (pack [(58, 6, 0x0A), (0, 6, v)]) m → InCohort s h k
    0x0A m x → v < 64 → ∃ t, exec (.sett h) s = .next t ∧ MemberIs t h k ({ x with ctx := x.ctx.seq, n := x.n + 1 }) ∧
    (.sett x.i v : Staged) ∈ (t.hl h).eng.staged ∧ (t.hl h).eng.cycles = (s.hl h).eng.cycles + 3 ∧ t.alcs = s.alcs ∧ t.mem
    = s.mem) ∧
  (∀ (s : State) (h k : Nat) (m x : Member) (v : Nat), Serves s h (pack [(58, 6, 0x0D), (0, 6, v)]) m → InCohort s h k
    0x0D m x → v < 64 → ∃ t, exec (.setl h) s = .next t ∧ MemberIs t h k ({ x with ctx := x.ctx.seq, n := x.n + 1 }) ∧
    (.setl x.i v : Staged) ∈ (t.hl h).eng.staged ∧ (t.hl h).eng.cycles = (s.hl h).eng.cycles + 4 ∧ t.alcs = s.alcs ∧ t.mem
    = s.mem) ∧
  (∀ (s : State) (h k : Nat) (m x : Member) (v : Nat), Serves s h (pack [(58, 6, 0x0B), (0, 48, v)]) m → InCohort s h k
    0x0B m x → v < 2 ^ 48 → ∃ t, exec (.waita h) s = .next t ∧ MemberIs t h k ({ x with ctx := x.ctx.seq, n := x.n + 1 })
    ∧ (.waita v : Staged) ∈ (t.hl h).eng.staged ∧ (t.hl h).eng.cycles = (s.hl h).eng.cycles + 4 ∧ t.alcs = s.alcs ∧ t.mem
    = s.mem) ∧
  (∀ (s : State) (h k : Nat) (m x : Member) (v : Nat), Serves s h (pack [(58, 6, 0x16), (0, 32, v)]) m → InCohort s h k
    0x16 m x → v < 2 ^ 32 → v ≠ 0 → ∃ t, exec (.gap h) s = .next t ∧ MemberIs t h k
    ({ x with ctx := x.ctx.seq, n := x.n + 1 }) ∧ (.gap v : Staged) ∈ (t.hl h).eng.staged ∧ (t.hl h).eng.cycles = (s.hl
    h).eng.cycles + 4 ∧ t.alcs = s.alcs ∧ t.mem = s.mem) ∧
  (∀ (s : State) (h k : Nat) (m x : Member), Serves s h (pack [(58, 6, 0x16)]) m → InCohort s h k 0x16 m x → ∃ t, exec
    (.gap h) s = .next t ∧ MemberIs t h k ({ x with ctx := x.ctx.seq, n := x.n + 1 }) ∧ (t.hl h).eng.staged = (s.hl
    h).eng.staged ∧ (t.hl h).eng.cycles = (s.hl h).eng.cycles + 4 ∧ t.alcs = s.alcs ∧ t.mem = s.mem) ∧
  (∀ (s : State) (h k : Nat) (m x : Member) (v : Nat), Serves s h (pack [(58, 6, 0x11), (0, 3, v)]) m → InCohort s h k
    0x11 m x → v < 8 → ∃ t, exec (.emit h) s = .next t ∧ MemberIs t h k ({ x with ctx := x.ctx.seq, n := x.n + 1 }) ∧
    (.emit v : Staged) ∈ (t.hl h).eng.staged ∧ (t.hl h).eng.cycles = (s.hl h).eng.cycles + 3 ∧ t.alcs = s.alcs ∧ t.mem =
    s.mem) ∧
  (∀ (s : State) (h k : Nat) (m x : Member) (v : Nat), Serves s h (pack [(58, 6, 0x0F), (0, 6, v)]) m → InCohort s h k
    0x0F m x → v < 64 → s.is (F.TDC_SET_A.VALID h v) = true → loopEndWrong m 0x0F = false → ∃ t, exec (.tdc h) s = .next t
    ∧ MemberIs t h k ({ x with ctx := x.ctx.seq, n := x.n + 1 }) ∧ (.tdc m.i v : Staged) ∈ (t.hl h).eng.staged ∧ (t.hl
    h).eng.cycles = (s.hl h).eng.cycles + 5 ∧ t.alcs = s.alcs ∧ t.mem = s.mem) ∧
  (∀ (s : State) (h k : Nat) (m x : Member) (v : Nat), Serves s h (pack [(58, 6, 0x0F), (0, 6, v)]) m → InCohort s h k
    0x0F m x → v < 64 → s.is (F.TDC_SET_A.VALID h v) = false → ∃ t, exec (.tdc h) s = .next t ∧ MemberIs t h k (x.fault
    fcAbsent) ∧ (t.hl h).eng.cycles = (s.hl h).eng.cycles + 5 ∧ t.alcs = s.alcs ∧ t.mem = s.mem) ∧
  (∀ (s : State) (h k : Nat) (m x : Member) (v : Nat), Serves s h (pack [(58, 6, 0x0E), (0, 8, v)]) m → InCohort s h k
    0x0E m x → v < 256 → s.is (F.HSE_SLOT_A.VALID h v) = true → s.slotValid h v = true → s.lanesOk h v (lowestSlot (s.alc
    h x.i).own) = true → (s.alc h x.i).own ≠ 0 → ∃ t, exec (.send h) s = .next t ∧ MemberIs t h k
    ({ x with ctx := x.ctx.seq, n := x.n + 1 }) ∧ (.send x.i v : Staged) ∈ (t.hl h).eng.staged ∧ (t.hl h).eng.cycles =
    (s.hl h).eng.cycles + 6 ∧ t.alcs = s.alcs ∧ t.mem = s.mem) ∧
  (∀ (s : State) (h k : Nat) (m x : Member) (v : Nat), Serves s h (pack [(58, 6, 0x0E), (0, 8, v)]) m → InCohort s h k
    0x0E m x → v < 256 → s.is (F.HSE_SLOT_A.VALID h v) = false → ∃ t, exec (.send h) s = .next t ∧ MemberIs t h k (x.fault
    fcAbsent) ∧ (t.hl h).eng.cycles = (s.hl h).eng.cycles + 6 ∧ t.alcs = s.alcs ∧ t.mem = s.mem) ∧
  (∀ (s : State) (h k : Nat) (m x : Member) (v : Nat), Serves s h (pack [(58, 6, 0x0E), (0, 8, v)]) m → InCohort s h k
    0x0E m x → v < 256 → s.is (F.HSE_SLOT_A.VALID h v) = true → ((s.alc h x.i).own = 0 ∧ s.is (F.LMAP_A.REL h (s.g
    (F.HSE_SLOT_A.LMAP h v))) = true ∨ s.lanesOk h v (lowestSlot (s.alc h x.i).own) = false ∨ s.slotValid h v = false) → ∃
    t, exec (.send h) s = .next t ∧ MemberIs t h k (x.fault fcOther) ∧ (t.hl h).eng.cycles = (s.hl h).eng.cycles + 6 ∧
    t.alcs = s.alcs ∧ t.mem = s.mem) ∧
  (∀ (s : State) (h k : Nat) (m x : Member) (ch v : Nat), Serves s h (pack [(58, 6, 0x10), (52, 6, ch), (48, 4, v)]) m →
    InCohort s h k 0x10 m x → ch < 64 → v < 16 → s.smuOk ch = true → s.is (F.MSET_CFG.VALID (ch / 4) v) = true →
    s.measUnclaimed h x.i ch v = false → ∃ t, exec (.meas h) s = .next t ∧ MemberIs t h k
    ({ x with ctx := x.ctx.seq, n := x.n + 1 }) ∧ (.meas x.i ch v : Staged) ∈ (t.hl h).eng.staged ∧ (t.hl h).eng.cycles =
    (s.hl h).eng.cycles + 6 ∧ t.alcs = s.alcs ∧ t.mem = s.mem) ∧
  (∀ (s : State) (h k : Nat) (m x : Member) (ch v : Nat), Serves s h (pack [(58, 6, 0x10), (52, 6, ch), (48, 4, v)]) m →
    InCohort s h k 0x10 m x → ch < 64 → v < 16 → (s.smuOk ch = false ∨ s.is (F.MSET_CFG.VALID (ch / 4) v) = false) → ∃ t,
    exec (.meas h) s = .next t ∧ MemberIs t h k (x.fault fcAbsent) ∧ (t.hl h).eng.cycles = (s.hl h).eng.cycles + 6 ∧
    t.alcs = s.alcs ∧ t.mem = s.mem) ∧
  (∀ (s : State) (h k : Nat) (m x : Member) (ch v : Nat), Serves s h (pack [(58, 6, 0x10), (52, 6, ch), (48, 4, v)]) m →
    InCohort s h k 0x10 m x → ch < 64 → v < 16 → s.smuOk ch = true → s.is (F.MSET_CFG.VALID (ch / 4) v) = true →
    s.measUnclaimed h x.i ch v = true → ∃ t, exec (.meas h) s = .next t ∧ MemberIs t h k (x.fault fcOther) ∧ t.is
    (F.GRP_STAT.CLAIM_ERR (ch / 4)) = true ∧ (t.hl h).eng.cycles = (s.hl h).eng.cycles + 6 ∧ t.alcs = s.alcs ∧ t.mem =
    s.mem) ∧
  (∀ (s : State) (h k : Nat) (m x : Member) (c v : Nat), Serves s h (pack [(58, 6, 0x12), (55, 3, 0), (53, 2, c), (0, 32,
    v)]) m → InCohort s h k 0x12 m x → c < 4 → v < 2 ^ 32 → ∃ t, exec (.acc h) s = .next t ∧ MemberIs t h k
    ({ x with ctx := { x.ctx.seq with cnt := x.ctx.cnt.set c v }, n := x.n + 1 }) ∧ (t.hl h).eng.cycles = (s.hl
    h).eng.cycles + 5 ∧ t.alcs = s.alcs ∧ t.mem = s.mem) ∧
  (∀ (s : State) (h k : Nat) (m x : Member) (c v : Nat), Serves s h (pack [(58, 6, 0x12), (55, 3, 1), (53, 2, c), (0, 32,
    v)]) m → InCohort s h k 0x12 m x → c < 4 → v < 2 ^ 32 → ∃ t, exec (.acc h) s = .next t ∧ MemberIs t h k
    ({ x with ctx := { x.ctx.seq with cnt := x.ctx.cnt.set c (max 0 (min (2 ^ 32 - 1) ((x.ctx.cnt.getD c 0 : Int) + signed
                                        32 v))).toNat, csat := x.ctx.csat || decide ((x.ctx.cnt.getD c 0 : Int) + signed
                                        32 v < 0) || decide (2 ^ 32 ≤ (x.ctx.cnt.getD c 0 : Int) + signed 32 v) }, n :=
                x.n + 1 }) ∧ (t.hl h).eng.cycles = (s.hl h).eng.cycles + 5 ∧ t.alcs = s.alcs ∧ t.mem = s.mem) ∧
  (∀ (s : State) (h k : Nat) (m x : Member) (c v : Nat), Serves s h (pack [(58, 6, 0x12), (55, 3, 1), (53, 2, c), (0, 32,
    v)]) m → InCohort s h k 0x12 m x → c < 4 → v < 2 ^ 32 → (x.ctx.cnt.getD c 0 : Int) + signed 32 v < 0 → ∃ t, exec (.acc
    h) s = .next t ∧ MemberIs t h k
    ({ x with ctx := { x.ctx.seq with cnt := x.ctx.cnt.set c 0, csat := true }, n := x.n + 1 }) ∧ (t.hl h).eng.cycles =
    (s.hl h).eng.cycles + 5 ∧ t.alcs = s.alcs ∧ t.mem = s.mem) ∧
  (∀ (s : State) (h k : Nat) (m x : Member) (c : Nat), Serves s h (pack [(58, 6, 0x12), (55, 3, 2), (53, 2, c)]) m →
    InCohort s h k 0x12 m x → c < 4 → ∃ t, exec (.acc h) s = .next t ∧ MemberIs t h k
    ({ x with ctx := { x.ctx.seq with cnt := x.ctx.cnt.set c (max 0 (min (2 ^ 32 - 1) ((x.ctx.cnt.getD c 0 : Int) +
                                        x.win))).toNat, csat := x.ctx.csat || decide ((x.ctx.cnt.getD c 0 : Int) + x.win <
                                        0) || decide (2 ^ 32 ≤ (x.ctx.cnt.getD c 0 : Int) + x.win) }, n := x.n + 1 }) ∧
    (t.hl h).eng.cycles = (s.hl h).eng.cycles + 5 ∧ t.alcs = s.alcs ∧ t.mem = s.mem) ∧
  (∀ (s : State) (h k : Nat) (m x : Member) (c : Nat), Serves s h (pack [(58, 6, 0x12), (55, 3, 3), (53, 2, c)]) m →
    InCohort s h k 0x12 m x → c < 4 → ∃ t, exec (.acc h) s = .next t ∧ MemberIs t h k
    ({ x with ctx := { x.ctx.seq with acc := x.ctx.acc.set c (max (-2 ^ 31) (min (2 ^ 31 - 1) (x.ctx.acc.getD c 0 + (s.alc
                                        h x.i).lastMeas))), csat := x.ctx.csat || decide (x.ctx.acc.getD c 0 + (s.alc h
                                        x.i).lastMeas < -2 ^ 31) || decide (2 ^ 31 ≤ x.ctx.acc.getD c 0 + (s.alc h
                                        x.i).lastMeas) }, n := x.n + 1 }) ∧ (t.hl h).eng.cycles = (s.hl h).eng.cycles + 5
    ∧ t.alcs = s.alcs ∧ t.mem = s.mem) ∧
  (∀ (s : State) (h k : Nat) (m x : Member) (c v : Nat), Serves s h (pack [(58, 6, 0x12), (55, 3, 4), (53, 2, c), (0, 32,
    v)]) m → InCohort s h k 0x12 m x → c < 4 → v < 2 ^ 32 → ∃ t, exec (.acc h) s = .next t ∧ MemberIs t h k
    ({ x with ctx := { x.ctx.seq with acc := x.ctx.acc.set c (signed 32 v) }, n := x.n + 1 }) ∧ (t.hl h).eng.cycles =
    (s.hl h).eng.cycles + 5 ∧ t.alcs = s.alcs ∧ t.mem = s.mem) ∧
  (∀ (s : State) (h k : Nat) (m x : Member) (c v : Nat), Serves s h (pack [(58, 6, 0x12), (55, 3, 5), (53, 2, c), (0, 32,
    v)]) m → InCohort s h k 0x12 m x → c < 4 → v < 2 ^ 32 → ∃ t, exec (.acc h) s = .next t ∧ MemberIs t h k
    ({ x with ctx := { x.ctx.seq with acc := x.ctx.acc.set c (max (-2 ^ 31) (min (2 ^ 31 - 1) (x.ctx.acc.getD c 0 + signed
                                        32 v))), csat := x.ctx.csat || decide (x.ctx.acc.getD c 0 + signed 32 v < -2 ^ 31)
                                        || decide (2 ^ 31 ≤ x.ctx.acc.getD c 0 + signed 32 v) }, n := x.n + 1 }) ∧ (t.hl
    h).eng.cycles = (s.hl h).eng.cycles + 5 ∧ t.alcs = s.alcs ∧ t.mem = s.mem) ∧
  (∀ (s : State) (h k : Nat) (m x : Member) (o c v : Nat), Serves s h (pack [(58, 6, 0x12), (55, 3, o), (53, 2, c), (0,
    32, v)]) m → InCohort s h k 0x12 m x → 6 ≤ o → o < 8 → c < 4 → v < 2 ^ 32 → ∃ t, exec (.acc h) s = .next t ∧ MemberIs
    t h k (x.fault fcBadop) ∧ (t.hl h).eng.cycles = (s.hl h).eng.cycles + 5 ∧ t.alcs = s.alcs ∧ t.mem = s.mem) ∧
  (∀ (s : State) (h k : Nat) (m x : Member) (c v : Nat), Serves s h (pack [(58, 6, 0x13), (57, 1, c), (0, 16, v)]) m →
    InCohort s h k 0x13 m x → c < 2 → v < 2 ^ 16 → ∃ t, exec (.bin h) s = .next t ∧ MemberIs t h k
    ({ x with ctx := { x.ctx.seq with bin := if c = 1 ∧ x.ctx.bin ≠ 0xFFFF then x.ctx.bin else v }, n := x.n + 1 }) ∧
    (t.hl h).eng.cycles = (s.hl h).eng.cycles + 4 ∧ t.alcs = s.alcs ∧ t.mem = s.mem) ∧
  (∀ (s : State) (h k : Nat) (m x : Member) (o v : Nat), Serves s h (pack [(58, 6, 0x14), (56, 2, o), (0, 8, v)]) m →
    InCohort s h k 0x14 m x → o < 3 → v < 256 → ∃ t, exec (.flag h) s = .next t ∧ MemberIs t h k
    ({ x with ctx := { x.ctx.seq with uflags := if o = 0 then x.ctx.uflags ||| v else if o = 1 then x.ctx.uflags -
                                        (x.ctx.uflags &&& v) else x.ctx.uflags ^^^ v }, n := x.n + 1 }) ∧ (t.hl
    h).eng.cycles = (s.hl h).eng.cycles + 3 ∧ t.alcs = s.alcs ∧ t.mem = s.mem) ∧
  (∀ (s : State) (h k : Nat) (m x : Member) (v : Nat), Serves s h (pack [(58, 6, 0x14), (56, 2, 3), (0, 8, v)]) m →
    InCohort s h k 0x14 m x → v < 256 → ∃ t, exec (.flag h) s = .next t ∧ MemberIs t h k (x.fault fcBadop) ∧ (t.hl
    h).eng.cycles = (s.hl h).eng.cycles + 3 ∧ t.alcs = s.alcs ∧ t.mem = s.mem)

/-- Microcode (R163, R164, R167–R169, R171, R174, R176), shown for the routine of NOP at micro-address 0 when it does not
run as shipped: ENDI ends the routine at the next or the taken address, LDI and MWB do what their words say, a cycle for
each word, and a reserved or missing word stops the engine with a micro fault. -/
def Obligations.PatchedMicrocode : Prop :=
  (∀ (s : State) (h k v : Nat) (m x : Member) (u : BitVec 32), Fetches s h v m → v < 2 ^ 58 → s.ucAsShipped 0 = false →
    InCohort s h k 0 m x → s.ucFetch 0 = some u → natBits u.toNat 26 6 = 1 → natBits u.toNat 23 3 = 0 → ∃ t, exec
    (.nopInstr h) s = .next t ∧ MemberIs t h k { x with n := x.n + 1, term := .none, tq := [], ctx := x.ctx.seq } ∧ (t.hl
    h).eng.cycles = (s.hl h).eng.cycles + 1 ∧ t.g (F.UC_ENG.UADDR h) = 0 ∧ t.alcs = s.alcs ∧ t.mem = s.mem) ∧
  (∀ (s : State) (h k v : Nat) (m x : Member) (u : BitVec 32), Fetches s h v m → v < 2 ^ 58 → s.ucAsShipped 0 = false →
    InCohort s h k 0 m x → s.ucFetch 0 = some u → (natBits u.toNat 26 6 ∉ [0x00, 0x01, 0x02, 0x03, 0x04, 0x08, 0x09, 0x0A,
    0x0B, 0x0C, 0x0D, 0x0E, 0x0F, 0x10, 0x11, 0x18, 0x19, 0x1A, 0x1B, 0x20, 0x21, 0x28, 0x30, 0x31] ∨ natBits u.toNat 26 6
    = 1 ∧ 4 ≤ natBits u.toNat 23 3) → ∃ t, exec (.nopInstr h) s = .next t ∧ t.g (F.UC_ENG.STATE h) = 2 ∧ t.is
    (F.UC_ENG.UFAULT h) = true ∧ t.g (F.UC_ENG.UADDR h) = 0 ∧ MemberIs t h k x ∧ t.alcs = s.alcs ∧ t.mem = s.mem ∧ t.g
    (F.UC_ENG.MOP h) = natBits u.toNat 26 6) ∧
  (∀ (s : State) (h k v : Nat) (m x : Member), Fetches s h v m → v < 2 ^ 58 → s.ucAsShipped 0 = false → InCohort s h k 0 m
    x → s.ucFetch 0 = none → ∃ t, exec (.nopInstr h) s = .next t ∧ t.g (F.UC_ENG.STATE h) = 2 ∧ t.is (F.UC_ENG.UFAULT h) =
    true ∧ t.g (F.UC_ENG.UADDR h) = 0 ∧ MemberIs t h k x ∧ t.alcs = s.alcs ∧ t.mem = s.mem) ∧
  (∀ (s : State) (h k v a : Nat) (m x : Member) (u w : BitVec 32), Fetches s h v m → v < 2 ^ 58 → s.ucAsShipped 0 = false
    → InCohort s h k 0 m x → s.ucFetch 0 = some u → natBits u.toNat 26 6 = 0x10 → natBits u.toNat 21 5 = 1 → a = 1 →
    s.ucFetch a = some w → natBits w.toNat 26 6 = 1 → natBits w.toNat 23 3 = 1 → ∃ t, exec (.nopInstr h) s = .next t ∧
    MemberIs t h k { x with n := x.n + 1, term := .none, tq := [], ctx := { x.ctx with pc := natBits u.toNat 0 16 } } ∧
    (t.hl h).eng.cycles = (s.hl h).eng.cycles + 2 ∧ t.g (F.UC_ENG.UADDR h) = 1) ∧
  (∀ (s : State) (h k v a : Nat) (m x : Member) (u w : BitVec 32), Fetches s h v m → v < 2 ^ 58 → s.ucAsShipped 0 = false
    → InCohort s h k 0 m x → s.ucFetch 0 = some u → natBits u.toNat 26 6 = 2 → natBits u.toNat 9 3 = 0 → natBits u.toNat 4
    5 < 5 → a = natBits u.toNat 12 14 → s.ucFetch a = some w → natBits w.toNat 26 6 = 1 → natBits w.toNat 23 3 = 0 → ∃ t,
    exec (.nopInstr h) s = .next t ∧ MemberIs t h k { x with n := x.n + 1, term := .none, tq := [], ctx := x.ctx.seq } ∧
    (t.hl h).eng.cycles = (s.hl h).eng.cycles + 2 ∧ t.g (F.UC_ENG.UADDR h) = a)

/-- Lead points (R137, R138, R143, R147) and dispatch (R140, R141, R165): the snapshot starts segments; once all have
ended the working copies are committed and the pacing alcove determines the action. -/
def Obligations.LeadPointAndDispatch : Prop :=
  (∀ (s : State) (h k i : Nat), h < s.part.halls → s.playing h = true → (s.hl h).leadTaken = false → s.fenced h = false →
    s.replaying = false → s.g (F.STAIR_STAT.SEALED h) = 0xFFFF → (s.hl h).eng.stops = [] → (s.hl h).eng.jump = none →
    (s.lives h)[k]? = some i → (s.alc h i).joined = true → ∃ t, exec (.leadPoint h) s = .next t ∧ (t.hl h).leadTaken =
    true ∧ (t.hl h).eng.run = true ∧ (t.hl h).eng.hev = 0 ∧ (t.hl h).eng.snap = s.hallCond h ∧ t.g (F.UC_ENG.STATE h) = 1
    ∧ (t.hl h).eng.cycles = 1 ∧ (t.hl h).eng.staged = [] ∧ (t.hl h).eng.members.map (fun m => m.i) = s.lives h ∧ ((t.hl
    h).eng.members[k]?).map (fun m => (m.ctx, m.st, m.n)) = some ((s.alc h i).ctx, .run, 0) ∧ (t.alc h i).winFails = 0) ∧
  (∀ (s : State) (h k i : Nat), h < s.part.halls → s.playing h = true → (s.hl h).leadTaken = false → s.fenced h = false →
    s.replaying = false → s.g (F.STAIR_STAT.SEALED h) = 0xFFFF → (s.hl h).eng.stops ≠ [] → s.level_ ≠ 3 → (s.lives h)[k]?
    = some i → ∃ t, exec (.leadPoint h) s = .next t ∧ ((t.hl h).eng.members[k]?).map (fun m => (m.st, m.term)) = some
    (.ended, .stop)) ∧
  (∀ (s : State) (h k i a : Nat), h < s.part.halls → s.playing h = true → (s.hl h).leadTaken = false → s.fenced h = false
    → s.replaying = false → s.g (F.STAIR_STAT.SEALED h) = 0xFFFF → ((s.hl h).eng.stops = [] ∨ s.level_ = 3) → (s.hl
    h).eng.jump = some a → (s.lives h)[k]? = some i → ∃ t, exec (.leadPoint h) s = .next t ∧ ((t.hl
    h).eng.members[k]?).map (fun m => (m.ctx, m.st, m.n)) = some
    ({ (s.alc h i).ctx with stack := [], pc := a, rep := 0 }, .run, 0) ∧ (t.hl h).eng.jump = none) ∧
  (∀ (s : State) (h : Nat) (m : Member) (f : Nat), h < s.part.halls → (s.hl h).eng.run = true → (s.hl h).eng.members = [m]
    → m.st = .ended → m.term = .play f → s.lives h = [m.i] → (s.hl h).eng.xfaults = [] → s.g (F.UC_ENG.STATE h) = 1 →
    s.fenced h = false → (s.hl h).hold.kept = false → f < 4096 → ∃ t, exec (.dispatch h) s = .next t ∧ (t.hl h).eng.action
    = some (if (s.hl h).eng.park = true then .park else .play f ((t.flt_ h f).st < 2)) ∧ (t.hl h).eng.run = false ∧ t.g
    (F.UC_ENG.STATE h) = 0 ∧ (t.alc h m.i).ctx = m.ctx ∧ (t.alc h m.i).termAt = m.termAt ∧ (t.alc h m.i).next = some f ∧
    (t.alc h m.i).joined = true ∧ t.alcSt h m.i = alcLive ∧ (t.hl h).eng.cycles = (s.hl h).eng.cycles + 1) ∧
  (∀ (s : State) (h : Nat) (m : Member), h < s.part.halls → (s.hl h).eng.run = true → (s.hl h).eng.members = [m] → m.st =
    .ended → m.term = .halt → s.lives h = [m.i] → (s.hl h).eng.xfaults = [] → s.g (F.UC_ENG.STATE h) = 1 → s.fenced h =
    false → (s.hl h).hold.kept = false → ∃ t, exec (.dispatch h) s = .next t ∧ (t.hl h).eng.action = some .swap ∧ (t.alc h
    m.i).ctx = m.ctx ∧ t.alcSt h m.i = alcLive)

/-- Landings (R41, R105, R140, R144), late decisions (R140, R150, R199) and the ends of holds (R108, R113–R116, R142,
R148, R149). That a LANDING takes place at the end of its core cycle is the model's choice (assumption 131). -/
def Obligations.LandingsAndDecisions : Prop :=
  (∀ (s : State) (h : Nat), h < s.part.halls → s.playing h = true → (s.hl h).leadTaken = true → s.fenced h = false → exec
    (.landing h) s = .next (s.modHl h (fun x => { x with landDue := true }))) ∧
  (∀ (s : State) (h : Nat), h < s.part.halls → s.playing h = true → (s.hl h).leadTaken = true → s.fenced h = false → (s.hl
    h).eng.action = none → ((landing h s).hl h).play = none ∧ ((landing h s).hl h).landed = true ∧ ((landing h s).hl
    h).landDue = false ∧ (landing h s).is (F.FLT_STAT.PLAYING h) = false ∧ ((landing h s).hl h).hold.seg = true ∧
    ((landing h s).hl h).hold.tread = s.pos h ∧ (landing h s).is (F.LAND_STAT.SEG_HOLD h) = true ∧ (landing h s).g
    (F.LAND_CNT_LO.CNT h) = (s.g (F.LAND_CNT_LO.CNT h) + 1) % 2 ^ 32) ∧
  (∀ (s : State) (h i f : Nat), h < s.part.halls → s.playing h = true → (s.hl h).leadTaken = true → s.fenced h = false →
    s.replaying = false → s.lives h = [i] → s.liveBank h = some (i / 32) → (s.hl h).eng.action = some (.play f false) →
    (s.hl h).eng.members = [] → (s.hl h).eng.staged = [] → (s.hl h).stretchNext = 0 → s.decisionLate h = false → s.pinned
    h f = true → f < 4096 → s.slice h = false → s.rpl = none → (s.alc h i).joined = true → s.stopRuns = [] → (s.ax
    h).stage = none → (s.hl h).eng.park = false → (s.hl h).driveLine = none → ((s.hl h).play = none ∨ (s.hl h).play = some
    f) → (s.flt_ h f).st = 3 → ((landing h s).hl h).play = some f ∧ (landing h s).is (F.FLT_STAT.PLAYING h) = true ∧
    ((landing h s).hl h).leadTaken = false ∧ ((landing h s).hl h).eng.action = none ∧ ((landing h s).hl h).startTread =
    s.pos h ∧ ((landing h s).alc h i).cur = some f ∧ (landing h s).g (F.LAND_CNT_LO.CNT h) = (s.g (F.LAND_CNT_LO.CNT h) +
    1) % 2 ^ 32) ∧
  (∀ (s : State) (h : Nat) (act : Action), h < s.part.halls → (s.hl h).landed = true → (s.hl h).eng.action = some act →
    (s.hl h).hold.dec = true → (s.hl h).hold.seg = false → s.rpl = none → (s.hl h).hold.swap = true → ∃ t, exec
    (.decisionArrival h) s = .next t ∧ t.hl h = { s.hl h with hold := { (s.hl h).hold with seg := false, dec := false } }
    ∧ t.regs = s.regs) ∧
  (∀ (s : State) (h n : Nat), h < s.part.halls → (s.hl h).landed = true → (s.hl h).eng.action = some .brw → (s.hl
    h).hold.seg = true → s.rpl = none → (s.hl h).hold.swap = false → s.liveBank h = some n → (s.hl h).eng.members = [] →
    (s.hl h).eng.staged = [] → (s.hl h).stretchNext = 0 → ∃ t, exec (.decisionArrival h) s = .next t ∧ (t.hl h).hold.brw =
    true ∧ (t.hl h).hold.brwFrom = s.pos h ∧ (t.hl h).hold.seg = false ∧ (t.hl h).eng.action = none ∧ t.is
    (F.LAND_STAT.WAITING h) = true) ∧
  (∀ (s : State) (h f : Nat), h < s.part.halls → (s.hl h).hold.head = true → (s.hl h).hold.target = some f → s.slice h =
    false → f < 4096 → (s.hl h).hold.stretch = none → (s.hl h).hold.release = none → (s.hl h).hold.stall = none → (s.hl
    h).hold.seg = false → (s.hl h).hold.dec = false → (s.hl h).hold.kept = false → (s.hl h).hold.brw = false → (s.hl
    h).hold.sync = none → (s.hl h).hold.swap = false → (s.hl h).hold.swapWait = none → ∃ t, exec (.headFillDone h) s =
    .next t ∧ (t.hl h).play = some f ∧ (t.hl h).hold = {} ∧ t.is (F.FLT_STAT.PLAYING h) = true ∧ (t.hl h).startTread =
    s.pos h ∧ (t.hl h).entry = 0) ∧
  (∀ (s : State) (h : Nat), h < s.part.halls → (s.hl h).hold.head = true → ((s.hl h).hold.seg = true ∨ (s.hl h).hold.swap
    = true ∨ (s.hl h).hold.swapWait ≠ none ∨ (s.hl h).hold.sync ≠ none) ∧ (s.hl h).hold.held = true → ∃ t, exec
    (.headFillDone h) s = .next t ∧ (t.hl h).hold = { (s.hl h).hold with head := false } ∧ (t.hl h).play = (s.hl h).play ∧
    t.regs = s.regs) ∧
  (∀ (s : State) (h f n : Nat), h < s.part.halls → (s.hl h).hold.stall = some n → 2 ≤ (s.flt_ h n).st → (s.hl
    h).hold.target = some f → s.slice h = false → f < 4096 → (s.hl h).hold.stretch = none → (s.hl h).hold.release = none →
    (s.hl h).hold.head = false → (s.hl h).hold.seg = false → (s.hl h).hold.dec = false → (s.hl h).hold.kept = false →
    (s.hl h).hold.brw = false → (s.hl h).hold.sync = none → (s.hl h).hold.swap = false → (s.hl h).hold.swapWait = none → ∃
    t, exec (.stallEnd h) s = .next t ∧ (t.hl h).play = some f ∧ (t.hl h).hold = {} ∧ t.is (F.FLT_STAT.PLAYING h) = true ∧
    (t.hl h).startTread = s.pos h ∧ (t.hl h).entry = 0 ∧ t.is (F.FLT_STAT.STALLING h) = false) ∧
  (∀ (s : State) (h n : Nat), h < s.part.halls → (s.hl h).hold.stall = some n → 2 ≤ (s.flt_ h n).st → ((s.hl h).hold.seg =
    true ∨ (s.hl h).hold.swap = true ∨ (s.hl h).hold.swapWait ≠ none ∨ (s.hl h).hold.sync ≠ none) ∧ (s.hl h).hold.held =
    true → ∃ t, exec (.stallEnd h) s = .next t ∧ (t.hl h).hold = { (s.hl h).hold with stall := none } ∧ (t.hl h).play =
    (s.hl h).play ∧ t.is (F.FLT_STAT.STALLING h) = false) ∧
  (∀ (s : State) (h f i : Nat), h < s.part.halls → (s.hl h).hold.stall = some f → s.g (F.STALL_LIMIT.LIMIT h) ≠ 0 → s.g
    (F.STALL_LIMIT.LIMIT h) ≤ s.g (F.STALL_RUN.RUN h) → s.lives h = [i] → (s.alc h i).next = some f → s.liveBank h = some
    (i / 32) → (s.hl h).eng.action = none → (s.hl h).eng.members = [] → (s.hl h).eng.stops = [] → s.replaying = false →
    s.rpl = none → s.stopRuns = [] → ∃ t, exec (.stallLimit h) s = .next t ∧ t.is (F.FLT_STAT.STALL_FAULT h) = true ∧ t.is
    (F.FLT_STAT.STALLING h) = false ∧ t.alcSt h i = alcFaulted ∧ t.g (F.ALC_STATE.FCAUSE h i) = 6 ∧ (t.hl h).hold.stall =
    none) ∧
  (∀ (s : State) (h f x : Nat), h < s.part.halls → (s.hl h).hold.stretch = some x → x ≤ s.treadsSince h (s.hl
    h).hold.tread → (s.hl h).hold.target = some f → s.slice h = false → f < 4096 → (s.hl h).hold.release = none → (s.hl
    h).hold.stall = none → (s.hl h).hold.head = false → (s.hl h).hold.seg = false → (s.hl h).hold.dec = false → (s.hl
    h).hold.kept = false → (s.hl h).hold.brw = false → (s.hl h).hold.sync = none → (s.hl h).hold.swap = false → (s.hl
    h).hold.swapWait = none → ∃ t, exec (.stretchEnd h) s = .next t ∧ (t.hl h).play = some f ∧ (t.hl h).hold = {} ∧ t.is
    (F.FLT_STAT.PLAYING h) = true ∧ (t.hl h).startTread = s.pos h ∧ (t.hl h).entry = 0 ∧ t.is (F.FLT_STAT.STRETCHING h) =
    false) ∧
  (∀ (s : State) (h x : Nat), h < s.part.halls → (s.hl h).hold.stretch = some x → x ≤ s.treadsSince h (s.hl h).hold.tread
    → ((s.hl h).hold.seg = true ∨ (s.hl h).hold.swap = true ∨ (s.hl h).hold.swapWait ≠ none ∨ (s.hl h).hold.sync ≠ none) ∧
    (s.hl h).hold.held = true → ∃ t, exec (.stretchEnd h) s = .next t ∧ (t.hl h).hold =
    { (s.hl h).hold with stretch := none } ∧ (t.hl h).play = (s.hl h).play ∧ t.is (F.FLT_STAT.STRETCHING h) = false) ∧
  (∀ (s : State) (h f x : Nat), h < s.part.halls → (s.hl h).hold.release = some x → x ≤ s.treadsSince h (s.hl
    h).hold.tread → (s.hl h).hold.target = some f → s.slice h = false → f < 4096 → (s.hl h).hold.stretch = none → (s.hl
    h).hold.stall = none → (s.hl h).hold.head = false → (s.hl h).hold.seg = false → (s.hl h).hold.dec = false → (s.hl
    h).hold.kept = false → (s.hl h).hold.brw = false → (s.hl h).hold.sync = none → (s.hl h).hold.swap = false → (s.hl
    h).hold.swapWait = none → ∃ t, exec (.waitRelease h) s = .next t ∧ (t.hl h).play = some f ∧ (t.hl h).hold = {} ∧ t.is
    (F.FLT_STAT.PLAYING h) = true ∧ (t.hl h).startTread = s.pos h ∧ (t.hl h).entry = 0 ∧ t.is (F.LAND_STAT.WAITING h) =
    false) ∧
  (∀ (s : State) (h x : Nat), h < s.part.halls → (s.hl h).hold.release = some x → x ≤ s.treadsSince h (s.hl h).hold.tread
    → (s.hl h).hold.brw = false → (s.hl h).hold.sync = none → ((s.hl h).hold.seg = true ∨ (s.hl h).hold.swap = true) ∧
    (s.hl h).hold.held = true → ∃ t, exec (.waitRelease h) s = .next t ∧ (t.hl h).hold =
    { (s.hl h).hold with release := none } ∧ (t.hl h).play = (s.hl h).play ∧ t.is (F.LAND_STAT.WAITING h) = false)

/-- Waits at BRW (R150) and at SYNC (R151, R433–R436). -/
def Obligations.WaitsAtBrwAndSync : Prop :=
  (∀ (s : State) (h i mode mask target tmo : Nat), h < s.part.halls → s.lives h = [i] → (s.alc h i).term = .brw mode mask
    target tmo → (s.alc h i).joined = true → ((s.hl h).eng.members.any (fun m => m.i == i && m.st == .gone)) = true →
    (s.hl h).eng.members.length = 1 → (s.alc h i).resamples < tmo → condTest mode mask ((s.condWords h false).foldl (fun a
    w => if w.1 = i then w.2 - (w.2 &&& 5) + ((s.hl h).eng.members.map (fun m => m.cond &&& 5)).headD 0 else a) 0 |||
    czBits (s.alc h i).ctx) = true → (s.hl h).hold.brw = true → (s.hl h).hold.brwFrom ≠ s.pos h → (s.hl h).eng.run = false
    → s.g (F.STAIR_STAT.SEALED h) = 0xFFFF → s.replaying = false → s.rpl = none → target < 2 ^ 16 → ∃ t, exec
    (.brwResample h) s = .next t ∧ (t.alc h i).resamples = (s.alc h i).resamples + 1 ∧ (t.hl h).hold.brwFrom = s.pos h ∧
    (t.hl h).eng.run = true ∧ (t.hl h).eng.members.map (fun m => (m.i, m.ctx, m.st, m.n)) = [(i,
    { (s.alc h i).ctx with pc := target }, .run, 0)] ∧ (t.hl h).hold.brw = false ∧ (t.hl h).hold.seg = true ∧ t.is
    (F.LAND_STAT.SEG_HOLD h) = true ∧ t.g (F.UC_ENG.STATE h) = 1) ∧
  (∀ (s : State) (h i mode mask target tmo : Nat), h < s.part.halls → s.lives h = [i] → (s.alc h i).term = .brw mode mask
    target tmo → (s.alc h i).joined = true → ((s.hl h).eng.members.any (fun m => m.i == i && m.st == .gone)) = true →
    (s.hl h).eng.members.length = 1 → (s.alc h i).resamples < tmo → condTest mode mask ((s.condWords h false).foldl (fun a
    w => if w.1 = i then w.2 - (w.2 &&& 5) + ((s.hl h).eng.members.map (fun m => m.cond &&& 5)).headD 0 else a) 0 |||
    czBits (s.alc h i).ctx) = false → (s.hl h).hold.brw = true → (s.hl h).hold.brwFrom ≠ s.pos h → s.replaying = false →
    s.rpl = none → ∃ t, exec (.brwResample h) s = .next t ∧ (t.alc h i).resamples = (s.alc h i).resamples + 1 ∧ (t.hl
    h).eng.run = (s.hl h).eng.run ∧ (t.hl h).hold.brw = true ∧ (t.hl h).hold.brwFrom = s.pos h) ∧
  (∀ (s : State) (h i mode mask target tmo : Nat), h < s.part.halls → s.lives h = [i] → (s.alc h i).term = .brw mode mask
    target tmo → (s.alc h i).joined = true → (s.hl h).eng.members.map (fun m => (m.i, m.st)) = [(i, .gone)] → tmo ≤ (s.alc
    h i).resamples → (s.hl h).hold.brw = true → (s.hl h).eng.run = false → s.g (F.STAIR_STAT.SEALED h) = 0xFFFF → ∃ t,
    exec (.brwTimeout h) s = .next t ∧ (t.hl h).eng.run = true ∧ (t.hl h).eng.members.map (fun m => (m.i, m.ctx, m.st)) =
    [(i, { (s.alc h i).ctx with pc := ((s.alc h i).termAt + 1) % 65536 }, .run)] ∧ (t.hl h).hold.brw = false ∧ t.alcs =
    s.alcs) ∧
  (∀ (s : State) (h i line target mode mask : Nat) (high : Bool), h < s.part.halls → s.replaying = false → (s.hl
    h).hold.sync = some line → (s.hl h).hold.syncSeen = none → s.arrayLat h ≤ s.treadsSince h (s.hl h).hold.tread →
    s.lives h = [i] → (s.alc h i).joined = true → (s.alc h i).term = .sync line target mode mask → target < 2 ^ 16 →
    (s.alc h i).termAt < 2 ^ 16 - 1 → (s.hl h).eng.members.map (fun m => m.i) = [i] → s.g (F.STAIR_STAT.SEALED h) = 0xFFFF
    → ∃ t, exec (.syncSample h high) s = .next t ∧ (t.hl h).hold.syncSeen = some high ∧ (t.hl h).hold.dec = true ∧ (t.hl
    h).eng.run = true ∧ (t.hl h).eng.members.map (fun m => (m.i, m.ctx.pc, m.st)) = [(i, if high = true then target else
    (s.alc h i).termAt + 1, .run)]) ∧
  (∀ (s : State) (h : Nat), h < s.part.halls → (s.hl h).driveLine ≠ none → s.arrayLat h < s.treadsSince h (s.hl
    h).driveTread → ∃ t, exec (.syncRelease h) s = .next t ∧ t.hl h = { s.hl h with driveLine := none } ∧ t.regs = s.regs) ∧
  (∀ (s : State) (h line : Nat) (high : Bool), h < s.part.halls → (s.hl h).hold.sync = some line → (s.hl h).hold.syncSeen
    = some high → (s.hl h).hold.dec = true → (s.hl h).hold.target = none → s.arrayLat h + s.g (F.GAL_ALAT.RESUME h) ≤
    s.treadsSince h (s.hl h).hold.tread → ∃ t, exec (.syncResume h) s = .next t ∧ (t.hl h).hold =
    { (s.hl h).hold with sync := none } ∧ t.is F.GAL_STAT.RESUME_LATE = true ∧ (t.hl h).play = (s.hl h).play) ∧
  (∀ (s : State) (h line f : Nat) (high : Bool), h < s.part.halls → (s.hl h).hold.sync = some line → (s.hl
    h).hold.syncSeen = some high → s.arrayLat h + s.g (F.GAL_ALAT.RESUME h) ≤ s.treadsSince h (s.hl h).hold.tread → (s.hl
    h).hold.target = some f → s.slice h = false → f < 4096 → (s.hl h).hold.stretch = none → (s.hl h).hold.release = none →
    (s.hl h).hold.stall = none → (s.hl h).hold.head = false → (s.hl h).hold.seg = false → (s.hl h).hold.dec = false →
    (s.hl h).hold.kept = false → (s.hl h).hold.brw = false → (s.hl h).hold.swap = false → (s.hl h).hold.swapWait = none →
    ∃ t, exec (.syncResume h) s = .next t ∧ (t.hl h).play = some f ∧ (t.hl h).hold = {} ∧ t.is (F.FLT_STAT.PLAYING h) =
    true ∧ (t.hl h).startTread = s.pos h ∧ (t.hl h).entry = 0)

/-- Requests (R145, R146), swaps (R198, R199), staged synthesis changes (R66) and deskew targets (R75, R492). -/
def Obligations.HallRequests : Prop :=
  (∀ (s : State) (h target : Nat), Ready s → h < s.part.halls → s.replaying = false → s.is (F.JMP_REQ.REQ h) = false →
    s.anyLive h = true → s.inWait h = false → target < 2 ^ 16 → ∃ t, exec (.jmpReq h target) s = .next t ∧ t.is
    (F.JMP_REQ.REQ h) = true ∧ t.g (F.JMP_REQ.TARGET h) = target ∧ t.is (F.LAND_STAT.JUMP_PEND h) = true ∧ (t.hl
    h).eng.jump = some target ∧ (t.hl h).eng.jumpLate = s.lateNow h) ∧
  (∀ (s : State) (h target : Nat), Ready s → h < s.part.halls → s.replaying = false → s.is (F.JMP_REQ.REQ h) = false →
    s.anyLive h = false → target < 2 ^ 16 → exec (.jmpReq h target) s = .next (s.p (F.LAND_STAT.JMP_REFUSED h) 1)) ∧
  (∀ (s : State) (h target : Nat), s.is (F.JMP_REQ.REQ h) = true → exec (.jmpReq h target) s = .next (s)) ∧
  (∀ (s : State) (h target i : Nat), Ready s → h < s.part.halls → s.replaying = false → s.is (F.JMP_REQ.REQ h) = false →
    s.lives h = [i] → s.inWait h = true → target < 2 ^ 16 → (s.hl h).eng.members.map (fun m => m.i) = [i] → s.g
    (F.STAIR_STAT.SEALED h) = 0xFFFF → ∃ t, exec (.jmpReq h target) s = .next t ∧ (t.hl h).eng.run = true ∧ (t.hl
    h).eng.members.map (fun m => (m.i, m.ctx.pc, m.ctx.stack, m.st)) = [(i, target, [], .run)] ∧ (t.hl h).hold.brw = false
    ∧ (t.hl h).hold.release = none ∧ t.is (F.LAND_STAT.WAITING h) = false) ∧
  (∀ (s : State) (h bk : Nat), h < s.part.halls → s.liveBank h = some bk → (s.hl h).hold.swap = true → (s.hl
    h).hold.selected = false → s.dryRun = false → ∃ t, exec (.swapSitesel h) s = .next t ∧ (t.hl h).sitesel = bk + 1 ∧
    (t.hl h).hold = { (s.hl h).hold with selected := true } ∧ t.regs = s.regs) ∧
  (∀ (s : State) (h : Nat), h < s.part.halls → (s.hl h).hold.swap = true → (s.hl h).hold.selected = true → (s.hl
    h).hold.dec = true → ∃ t, exec (.swapSettleDone h) s = .next t ∧ t.is (F.HALL_STAT.SWAP h) = false ∧ (t.hl h).hold =
    { (s.hl h).hold with swap := false } ∧ (t.hl h).eng = (s.hl h).eng) ∧
  (∀ (s : State) (h : Nat) (v : Word), Ready s → h < s.part.halls → (F.SYN_SCHED.ARM h).is v = true → s.is
    (F.AXIS_STAT.ARMED h) = true → exec (.synArm h v) s = .next (s.p (F.AXIS_STAT.SYN_BUSY h) 1)) ∧
  (∀ (s : State) (h : Nat) (v : Word), Ready s → h < s.part.halls → (F.SYN_SCHED.ARM h).is v = true → s.is
    (F.AXIS_STAT.ARMED h) = false → ((F.SYN_SCHED.MODE h).of v = 0 ∨ s.pos h < s.g (F.SYN_AT_LO.AT_LO h) + 2 ^ 32 * s.g
    (F.SYN_AT_HI.AT_HI h)) → ∃ t, exec (.synArm h v) s = .next t ∧ t.is (F.AXIS_STAT.ARMED h) = true ∧ (t.ax h).stage =
    some (stageOf s h v (s.pastLead h)) ∧ t.is (F.SYN_SCHED.ARM h) = true) ∧
  (∀ (s : State) (h c : Nat) (v : Word), Ready s → h < s.part.halls → c < 32 → ∃ t, exec (.deskewWrite h c v) s = .next t
    ∧ t.rd (R.DESKEW h c) = v &&& 0xFFF#32 ∧ t.rdMem 100 (calHallRec h c) 2 = v.toNat % 4096 ∧ t.is F.CAL_STAT.OVERRIDE =
    true)

/-- LOAD_STAIR (R126, R127): with the checks passed a copy reads the host memory, a seal seals the pages; the end of a
copy lands the words with the seals, a read error changes nothing. -/
def Obligations.StairLoads : Prop :=
  (∀ (s : State) (q : Nat) (r : DescRun), Executes s q 3 false r → dUnit r.desc < s.part.halls → dscBits r.desc 22 1 7 = 0
    → dsc r.desc 23 1 = 0 → dscBits r.desc 24 17 15 = 0 → dscZeroFrom r.desc 28 = true → dscBits r.desc 24 0 17 ≠ 0 → dsc
    r.desc 20 2 + dscBits r.desc 24 0 17 ≤ 65536 → r.owns (dUnit r.desc) = true → (pagesOf (dsc r.desc 20 2) (dscBits
    r.desc 24 0 17)).any (s.pageLocked (dUnit r.desc)) = false → dscBits r.desc 22 0 1 = 0 → dAddr r.desc % 8 = 0 → dLen
    r.desc = 8 * dscBits r.desc 24 0 17 → ∃ t, exec (.loadStair q) s = .next t ∧ t.out = s.out ++ [.hostRead (dAddr
    r.desc) (dLen r.desc)] ∧ t.regs = s.regs ∧ t.mem = s.mem ∧ (r.did, dsc r.desc 20 2, dscBits r.desc 24 0 17) ∈ (t.hl
    (dUnit r.desc)).loading ∧ (t.queue q).run = some { r with acted := true }) ∧
  (∀ (s : State) (q : Nat) (r : DescRun), Executes s q 3 false r → dUnit r.desc < s.part.halls → dscBits r.desc 22 1 7 = 0
    → dsc r.desc 23 1 = 0 → dscBits r.desc 24 17 15 = 0 → dscZeroFrom r.desc 28 = true → dscBits r.desc 24 0 17 ≠ 0 → dsc
    r.desc 20 2 + dscBits r.desc 24 0 17 ≤ 65536 → r.owns (dUnit r.desc) = true → (pagesOf (dsc r.desc 20 2) (dscBits
    r.desc 24 0 17)).any (s.pageLocked (dUnit r.desc)) = false → dscBits r.desc 22 0 1 = 1 → dLen r.desc = 0 → ∃ t, exec
    (.loadStair q) s = .next t ∧ t.g (F.STAIR_STAT.SEALED (dUnit r.desc)) = s.g (F.STAIR_STAT.SEALED (dUnit r.desc)) |||
    (pagesOf (dsc r.desc 20 2) (dscBits r.desc 24 0 17)).foldl (fun m p => m ||| 1 <<< p) 0 ∧ t.mem = s.mem ∧ Completed t
    q r .ok (loadStairRes (dsc r.desc 20 2) 0 0 (crc32 (s.rdBytes (stairPort (dUnit r.desc)) (8 * dsc r.desc 20 2) (8 *
    dscBits r.desc 24 0 17))) (t.loopOvf (dUnit r.desc)))) ∧
  (∀ (s : State) (q st c j : Nat) (data : List Nat) (r : DescRun), Executes s q 3 true r → dUnit r.desc < 32 → (s.hl
    (dUnit r.desc)).loading = [(r.did, st, c)] → data.length = 8 * c → st + c ≤ 65536 → j < 8 * c → ∃ t, exec
    (.loadStairDone q true data) s = .next t ∧ (t.rdByte (stairPort (dUnit r.desc)) (8 * st + j)).toNat = data.getD j 0 %
    256 ∧ t.g (F.STAIR_STAT.SEALED (dUnit r.desc)) = s.g (F.STAIR_STAT.SEALED (dUnit r.desc)) ||| (pagesOf st c).foldl
    (fun m p => m ||| 1 <<< p) 0 ∧ (t.hl (dUnit r.desc)).loading = [] ∧ Completed t q r .ok (loadStairRes st 0 0 (crc32
    (t.rdBytes (stairPort (dUnit r.desc)) (8 * st) (8 * c))) (t.loopOvf (dUnit r.desc)))) ∧
  (∀ (s : State) (q st c : Nat) (data : List Nat) (r : DescRun), Executes s q 3 true r → dUnit r.desc < 32 → (s.hl (dUnit
    r.desc)).loading = [(r.did, st, c)] → ∃ t, exec (.loadStairDone q false data) s = .next t ∧ t.mem = s.mem ∧ t.regs =
    s.regs ∧ (t.hl (dUnit r.desc)).loading = [] ∧ Completed t q r .faulted (loadStairRes st 1 0 0 (s.loopOvf (dUnit
    r.desc))))

/-- BIND_ALCOVE and RELEASE_ALCOVE (R185, R186, R192, R193): the context set and the rest cleared, the conflict named, the
ownership given up. -/
def Obligations.AlcoveBinding : Prop :=
  (∀ (s : State) (q : Nat) (r : DescRun), Executes s q 4 false r → dUnit r.desc < s.part.halls → dscBits r.desc 20 12 4 =
    0 → dAddr r.desc = 0 → dLen r.desc = 0 → dscBits r.desc 20 0 12 / 96 = dUnit r.desc → r.owns (dUnit r.desc) = true →
    (s.alcSt (dUnit r.desc) (dscBits r.desc 20 0 12 % 96) < alcReady ∨ alcParked < s.alcSt (dUnit r.desc) (dscBits r.desc
    20 0 12 % 96)) → s.is (F.HALL_STAT.SWAP (dUnit r.desc)) = false → dscBits r.desc 28 6 2 = 0 → dscBits r.desc 29 6 2 =
    0 → dscBits r.desc 30 4 4 = 0 → dscZeroFrom r.desc 31 = true → s.ownConflict (dUnit r.desc) (dscBits r.desc 20 0 12 %
    96) (dsc r.desc 24 4) = none → ∃ t, exec (.bindAlcove q) s = .next t ∧ t.alc (dUnit r.desc) (dscBits r.desc 20 0 12 %
    96) = { own := dsc r.desc 24 4, gmask := dscBits r.desc 30 0 4, ctx := { pc := dsc r.desc 22 2 } } ∧ t.alcSt (dUnit
    r.desc) (dscBits r.desc 20 0 12 % 96) = alcBound ∧ t.g (F.ALC_STATE.TS (dUnit r.desc) (dscBits r.desc 20 0 12 % 96)) =
    dscBits r.desc 28 0 6 ∧ t.g (F.ALC_STATE.LS (dUnit r.desc) (dscBits r.desc 20 0 12 % 96)) = dscBits r.desc 29 0 6 ∧
    Completed t q r .ok (bindRes (dscBits r.desc 20 0 12) alcBound 0 0)) ∧
  (∀ (s : State) (q o : Nat) (r : DescRun), Executes s q 4 false r → dUnit r.desc < s.part.halls → dscBits r.desc 20 12 4
    = 0 → dAddr r.desc = 0 → dLen r.desc = 0 → dscBits r.desc 20 0 12 / 96 = dUnit r.desc → r.owns (dUnit r.desc) = true →
    (s.alcSt (dUnit r.desc) (dscBits r.desc 20 0 12 % 96) < alcReady ∨ alcParked < s.alcSt (dUnit r.desc) (dscBits r.desc
    20 0 12 % 96)) → s.is (F.HALL_STAT.SWAP (dUnit r.desc)) = false → dscBits r.desc 28 6 2 = 0 → dscBits r.desc 29 6 2 =
    0 → dscBits r.desc 30 4 4 = 0 → dscZeroFrom r.desc 31 = true → s.ownConflict (dUnit r.desc) (dscBits r.desc 20 0 12 %
    96) (dsc r.desc 24 4) = some o → ∃ t, exec (.bindAlcove q) s = .next t ∧ t.alcs = s.alcs ∧ t.regs = s.regs ∧ Completed
    t q r .denied (bindRes (dscBits r.desc 20 0 12) (s.alcSt (dUnit r.desc) (dscBits r.desc 20 0 12 % 96)) 1 (96 * dUnit
    r.desc + o))) ∧
  (∀ (s : State) (q : Nat) (r : DescRun), Executes s q 5 false r → dUnit r.desc < s.part.halls → dscBits r.desc 20 12 4 =
    0 → dAddr r.desc = 0 → dLen r.desc = 0 → dscBits r.desc 20 0 12 / 96 = dUnit r.desc → r.owns (dUnit r.desc) = true →
    (s.alcSt (dUnit r.desc) (dscBits r.desc 20 0 12 % 96) < alcReady ∨ alcParked < s.alcSt (dUnit r.desc) (dscBits r.desc
    20 0 12 % 96)) → s.is (F.HALL_STAT.SWAP (dUnit r.desc)) = false → dscZeroFrom r.desc 22 = true → s.alcSt (dUnit
    r.desc) (dscBits r.desc 20 0 12 % 96) ≠ alcFree → ∃ t, exec (.releaseAlcove q) s = .next t ∧ t.alc (dUnit r.desc)
    (dscBits r.desc 20 0 12 % 96) = { s.alc (dUnit r.desc) (dscBits r.desc 20 0 12 % 96) with own := 0, gmask := 0 } ∧
    t.alcSt (dUnit r.desc) (dscBits r.desc 20 0 12 % 96) = alcFree ∧ Completed t q r .ok (bindRes (dscBits r.desc 20 0 12)
    alcFree 0 0))

/-- START_RUN (R243) and STOP_RUN (R147, R213, R245): a hall whose checks pass starts its BOUND alcoves; a hall in a run
is BUSY; an idle hall stops at once. That START_RUN waits where a slice puts the first decision off is R243 with R487.
Compares (R85, R86, R156, R286, R287, R289, R290), deadlines (R206) and settings (R34, R187, R211). -/
def Obligations.RunsAndSettings : Prop :=
  (∀ (s : State) (q h i : Nat) (r : DescRun), Executes s q 7 false r → dUnit r.desc = 0 → dscZeroFrom r.desc 24 = true →
    dAddr r.desc = 0 → dLen r.desc = 0 → dsc r.desc 20 4 = 2 ^ h → h < s.part.halls → h < 32 → r.owns h = true → s.hallRun
    h = false → s.backlog ≤ 13312 → s.axRuns h = true → s.fenced h = false → s.slice h = false → r.did ∉ s.unitDids → i <
    96 → s.alcSt h i = alcBound → ∃ t, exec (.startRun q) s = .next t ∧ t.alcSt h i = alcReady ∨ t.alcSt h i = alcLive ∧
    (t.alc h i).fails = 0 ∧ (t.alc h i).firstEntry = none ∧ (t.alc h i).own = (s.alc h i).own ∧ t.tb2 = 0 ∧ Completed t q
    r .ok (startRes (2 ^ h) (if t.liveBank h = none then 2 ^ h else 0) s.tb0ns 0 0)) ∧
  (∀ (s : State) (q h i : Nat) (r : DescRun), Executes s q 7 false r → dUnit r.desc = 0 → dscZeroFrom r.desc 24 = true →
    dAddr r.desc = 0 → dLen r.desc = 0 → dsc r.desc 20 4 = 2 ^ h → h < s.part.halls → h < 32 → r.owns h = true → s.hallRun
    h = false → s.backlog ≤ 13312 → s.axRuns h = true → s.fenced h = false → s.slice h = true → s.liveBank h = none →
    s.replaying = false → s.startRuns = [] → i < 96 → s.alcSt h i = alcBound → ∃ t, exec (.startRun q) s = .next t ∧
    t.alcSt h i = alcReady ∧ t.startRuns = [⟨r.did, 2 ^ h, s.tb0ns⟩] ∧ (t.queue q).run = some { r with acted := true } ∧
    t.tb2 = 0) ∧
  (∀ (s : State) (q h : Nat) (r : DescRun), Executes s q 7 false r → dUnit r.desc = 0 → dscZeroFrom r.desc 24 = true →
    dAddr r.desc = 0 → dLen r.desc = 0 → dsc r.desc 20 4 = 2 ^ h → h < s.part.halls → h < 32 → r.owns h = true → s.hallRun
    h = true → ∃ t, exec (.startRun q) s = .next t ∧ t.alcs = s.alcs ∧ t.regs = s.regs ∧ Completed t q r .busy (startRes 0
    0 0 1 (2 ^ h))) ∧
  (∀ (s : State) (q h : Nat) (r : DescRun), Executes s q 8 false r → dUnit r.desc = 0 → dscZeroFrom r.desc 24 = true →
    dAddr r.desc = 0 → dLen r.desc = 0 → dsc r.desc 20 4 = 2 ^ h → h < s.part.halls → h < 32 → r.owns h = true → s.hallRun
    h = false → s.stopRuns = [] → ∃ t, exec (.stopRun q) s = .next t ∧ t.stopRuns = [] ∧ t.alcs = s.alcs ∧ Completed t q r
    .ok (stopRes 0 0 0 0 0)) ∧
  (∀ (s : State) (q h i : Nat) (r : DescRun), Executes s q 8 false r → dUnit r.desc = 0 → dscZeroFrom r.desc 24 = true →
    dAddr r.desc = 0 → dLen r.desc = 0 → dsc r.desc 20 4 = 2 ^ h → h < s.part.halls → h < 32 → r.owns h = true →
    (List.range 96).filter (fun j => decide (alcReady ≤ s.alcSt h j ∧ s.alcSt h j ≤ alcParked)) = [i] → s.liveBank h =
    none → s.lateNow h = false → s.stopRuns = [] → (s.hl h).eng.stops = [] → r.did ∉ s.unitDids → ∃ t, exec (.stopRun q) s
    = .next t ∧ t.stopRuns = [] ∧ t.alcSt h i = alcDone ∧ Completed t q r .ok (stopRes (2 ^ h) 0 1 0 0)) ∧
  (∀ (s : State) (h c e f bk a n i k : Nat) (v : Int) (rest : List Int), (s.hl h).play = some f → s.liveBank h = some bk →
    (s.flt_ h f).start = a → (s.flt_ h f).len = n → h < s.part.halls → c < 32 → s.playing h = true → e < 64 * n → s.codeAt
    h (64 * a + e) c = 5 → s.slotHeld h bk c = false → s.fenced h = false → s.replaying = false → s.is (F.PE_STAT.BLANKED
    h c) = false → s.is (F.PE_STAT.EN_EFF h c) = true → (s.ch h c).cal = false → s.owner h bk c = some i → s.alcSt h i =
    alcLive → (s.ch h c).settle = false → s.g (F.TSET_CMP.CMODE h (s.tsOf h bk c) c) = 0 → ((compSee h c v s).ch h c).cls
    = k → k < 2 → (s.alc h i).failEntry ≠ some e → (s.alc h i).fails < 2 ^ 31 - 1 → (s.alc h i).firstEntry = none → (s.alc
    h i).firstFlight = none → ∃ t, exec (.compareInstant h c e (v :: rest)) s = .next t ∧ (t.alc h i).fails = (s.alc h
    i).fails + 1 ∧ (t.alc h i).winFails = (s.alc h i).winFails + 1 ∧ (t.alc h i).firstEntry = some e ∧ (t.alc h
    i).firstFlight = some f ∧ (t.alc h i).failEntry = some e ∧ t.g (F.PE_LATCH.LAST h c) = k ∧ t.is (if k = 0 then
    F.PE_LATCH.SEEN_LOW h c else F.PE_LATCH.SEEN_MID h c) = true) ∧
  (∀ (s : State) (h c e f bk a n i : Nat) (v : Int), (s.hl h).play = some f → s.liveBank h = some bk → (s.flt_ h f).start
    = a → (s.flt_ h f).len = n → h < s.part.halls → c < 32 → s.playing h = true → e < 64 * n → s.codeAt h (64 * a + e) c =
    5 → s.slotHeld h bk c = false → s.fenced h = false → s.replaying = false → s.is (F.PE_STAT.BLANKED h c) = false → s.is
    (F.PE_STAT.EN_EFF h c) = true → (s.ch h c).cal = false → s.owner h bk c = some i → s.alcSt h i = alcLive → (s.ch h
    c).settle = false → s.g (F.TSET_CMP.CMODE h (s.tsOf h bk c) c) = 0 → ((compSee h c v s).ch h c).cls = 2 → ∃ t, exec
    (.compareInstant h c e [v]) s = .next t ∧ t.alcs = s.alcs ∧ t.g (F.PE_LATCH.LAST h c) = 2 ∧ t.is (F.PE_LATCH.SEEN_HIGH
    h c) = true ∧ t.rings = s.rings) ∧
  (∀ (s : State) (h c e f bk a n : Nat) (v : Int), (s.hl h).play = some f → s.liveBank h = some bk → (s.flt_ h f).start =
    a → (s.flt_ h f).len = n → h < s.part.halls → c < 32 → s.playing h = true → e < 64 * n → codeCompares (s.codeAt h (64
    * a + e) c) = true → s.slotHeld h bk c = false → s.fenced h = false → s.replaying = false → s.is (F.PE_STAT.BLANKED h
    c) = true → s.g (F.BLANK_CNT.COUNT h c) < 2 ^ 31 - 1 → ∃ t, exec (.compareInstant h c e [v]) s = .next t ∧ t.g
    (F.BLANK_CNT.COUNT h c) = s.g (F.BLANK_CNT.COUNT h c) + 1 ∧ t.alcs = s.alcs ∧ t.rings = s.rings ∧ t.rd (R.PE_LATCH h
    c) = s.rd (R.PE_LATCH h c)) ∧
  (∀ (s : State) (h c e f bk a n : Nat) (v : Int), (s.hl h).play = some f → s.liveBank h = some bk → (s.flt_ h f).start =
    a → (s.flt_ h f).len = n → h < s.part.halls → c < 32 → s.playing h = true → e < 64 * n → codeCompares (s.codeAt h (64
    * a + e) c) = true → s.slotHeld h bk c = false → s.fenced h = false → s.replaying = false → s.is (F.PE_STAT.BLANKED h
    c) = false → s.is (F.PE_STAT.EN_EFF h c) = false → exec (.compareInstant h c e [v]) s = .next (s)) ∧
  (∀ (s : State) (h k : Nat), h < s.part.halls → k < 3 → s.is (F.DEADLINE_HI.EN h k) = true → s.deadline h k < s.pos h →
    (s.bank h k).dlSeen = false → (s.bank h k).dlTread ≠ some (s.pos h) → s.liveBank h ≠ some k → s.waits h k = true → ∃
    t, exec (.deadlinePass h k) s = .next t ∧ t.is (F.HALL_STAT.DL_MISS h) = true ∧ (t.bank h k).dlSeen = true) ∧
  (∀ (s : State) (h k : Nat), h < s.part.halls → k < 3 → s.is (F.DEADLINE_HI.EN h k) = true → s.deadline h k < s.pos h →
    (s.bank h k).dlSeen = false → (s.bank h k).dlTread ≠ some (s.pos h) → (s.liveBank h = some k ∨ s.waits h k = false) →
    exec (.deadlinePass h k) s = .next (s.modBank h k (fun x => { x with dlSeen := true }))) ∧
  (∀ (s : State) (h k : Nat) (v : Word), Ready s → h < s.part.halls → k < 3 → ∃ t, exec (.deadlineWrite h k true v) s =
    .next t ∧ t.rd (R.DEADLINE_HI h k) = v &&& 0x8000FFFF#32 ∧ (t.bank h k).dlSeen = false) ∧
  (∀ (s : State) (h k : Nat) (v : Word), Ready s → h < s.part.halls → k < 3 → ∃ t, exec (.deadlineWrite h k false v) s =
    .next t ∧ t.rd (R.DEADLINE_LO h k) = v ∧ (t.bank h k).dlSeen = false) ∧
  (∀ (s : State) (v : Word), s.inService = true → 40 ≤ F.PBUDGET.WATTS.of v → F.PBUDGET.WATTS.of v ≤ 150 → ∃ t, exec
    (.pbudgetWrite v) s = .next t ∧ t.rd R.PBUDGET = v &&& 0xFF#32) ∧
  (∀ (s : State) (v : Word), s.inService = true → (F.PBUDGET.WATTS.of v < 40 ∨ 150 < F.PBUDGET.WATTS.of v) → exec
    (.pbudgetWrite v) s = .next (s)) ∧
  (∀ (s : State) (h g : Nat) (v : Word), Ready s → h < s.part.halls → g < 4 → s.bcastLive h g = false → ∃ t, exec
    (.bcastWrite h g false v) s = .next t ∧ t.rd (R.BCAST_SRC h g) = v &&& 0x1F#32) ∧
  (∀ (s : State) (h g : Nat) (v : Word), Ready s → h < s.part.halls → g < 4 → s.bcastLive h g = false → ((List.range
    4).any (fun k => k != g && (s.g (F.BCAST_MEM.MEM h k) &&& v.toNat) != 0)) = false → ∃ t, exec (.bcastWrite h g true v)
    s = .next t ∧ t.rd (R.BCAST_MEM h g) = v) ∧
  (∀ (s : State) (h g : Nat) (mem : Bool) (v : Word), Ready s → h < s.part.halls → g < 4 → s.bcastLive h g = true → exec
    (.bcastWrite h g mem v) s = .next (s.p (F.HALL_STAT.CFG_ERR h) 1)) ∧
  (∀ (s : State) (h g : Nat) (v : Word), Ready s → h < s.part.halls → g < 4 → ((List.range 4).any (fun k => k != g && (s.g
    (F.BCAST_MEM.MEM h k) &&& v.toNat) != 0)) = true → exec (.bcastWrite h g true v) s = .next (s.p (F.HALL_STAT.CFG_ERR
    h) 1)) ∧
  (∀ (s : State) (h k : Nat) (v : Word), Ready s → h < s.part.halls → k < 3 → (F.SCHED_BANK.SMU_GRP h k).of v <
    s.part.groups → ∃ t, exec (.schedBankWrite h k v) s = .next t ∧ t.rd (R.SCHED_BANK h k) = v &&& 0xFFFF00FF#32) ∧
  (∀ (s : State) (h k : Nat) (v : Word), Ready s → h < s.part.halls → k < 3 → s.part.groups ≤ (F.SCHED_BANK.SMU_GRP h
    k).of v → exec (.schedBankWrite h k v) s = .next (s.p (F.HALL_STAT.CFG_ERR h) 1))

/-- Doorbells (R220, R221, R228, R248): through the owner's page an index within the ring and in order is taken and any
other sets DB_ERR; through a foreign page it sets NONOWNER. Queue states (R230, R552) and ring states (R553). -/
def Obligations.QueuesAndDoorbells : Prop :=
  (∀ (s : State) (d q : Nat) (v : Word), Ready s → q < 64 → d < 8 → s.g (F.QP_CFG.OWNER q) = d → s.qSt q = qRun →
    (F.QP_SQ_DB.INDEX d q).of v < s.sqSize q → ringDist (s.sqSize q) (s.sqHead q) (s.queue q).tail ≤ ringDist (s.sqSize q)
    (s.sqHead q) ((F.QP_SQ_DB.INDEX d q).of v) → ∃ t, exec (.sqDoorbell d q v) s = .next t ∧ (t.queue q).tail =
    (F.QP_SQ_DB.INDEX d q).of v ∧ (t.queue q).startCnt = (s.queue q).startCnt + ringDist (s.sqSize q) (s.queue q).tail
    ((F.QP_SQ_DB.INDEX d q).of v) ∧ (t.queue q).run = (s.queue q).run ∧ (t.queue q).cqHead = (s.queue q).cqHead ∧ t.out =
    s.out) ∧
  (∀ (s : State) (d q : Nat) (v : Word), Ready s → q < 64 → d < 8 → s.g (F.QP_CFG.OWNER q) = d → ¬(s.qSt q = qRun ∧
    (F.QP_SQ_DB.INDEX d q).of v < s.sqSize q ∧ ringDist (s.sqSize q) (s.sqHead q) (s.queue q).tail ≤ ringDist (s.sqSize q)
    (s.sqHead q) ((F.QP_SQ_DB.INDEX d q).of v)) → exec (.sqDoorbell d q v) s = .next (s.p (F.QP_STAT.DB_ERR q) 1)) ∧
  (∀ (s : State) (d q : Nat) (v : Word), Ready s → q < 64 → d < 8 → s.g (F.QP_CFG.OWNER q) ≠ d → ∃ t, exec (.sqDoorbell d
    q v) s = .next t ∧ t.is (F.QP_STAT.NONOWNER q) = true ∧ t.queues = s.queues ∧ t.rd (R.QP_PTRS q) = s.rd (R.QP_PTRS q)) ∧
  (∀ (s : State) (d q : Nat) (v : Word), Ready s → q < 64 → d < 8 → s.g (F.QP_CFG.OWNER q) = d → s.qSt q ≠ qOff →
    (F.QP_CQ_DB.INDEX d q).of v < s.cqSize q → ringDist (s.cqSize q) (s.queue q).cqHead ((F.QP_CQ_DB.INDEX d q).of v) ≤
    ringDist (s.cqSize q) (s.queue q).cqHead (s.cqTail q) → ∃ t, exec (.cqDoorbell d q v) s = .next t ∧ (t.queue q).cqHead
    = (F.QP_CQ_DB.INDEX d q).of v ∧ (t.queue q).tail = (s.queue q).tail ∧ t.is (F.QP_STAT.CQ_FULL q) = ((s.queue
    q).held.isSome && !t.cqFree q)) ∧
  (∀ (s : State) (d q : Nat) (v : Word), Ready s → q < 64 → d < 8 → s.g (F.QP_CFG.OWNER q) = d → ¬(s.qSt q ≠ qOff ∧
    (F.QP_CQ_DB.INDEX d q).of v < s.cqSize q ∧ ringDist (s.cqSize q) (s.queue q).cqHead ((F.QP_CQ_DB.INDEX d q).of v) ≤
    ringDist (s.cqSize q) (s.queue q).cqHead (s.cqTail q)) → exec (.cqDoorbell d q v) s = .next (s.p (F.QP_STAT.DB_ERR q)
    1)) ∧
  (∀ (s : State) (d q : Nat) (v : Word), Ready s → q < 64 → d < 8 → s.g (F.QP_CFG.OWNER q) ≠ d → ∃ t, exec (.cqDoorbell d
    q v) s = .next t ∧ t.is (F.QP_STAT.NONOWNER q) = true ∧ t.queues = s.queues ∧ t.rd (R.QP_PTRS q) = s.rd (R.QP_PTRS q)) ∧
  (∀ (s : State) (d r : Nat) (v : Word), Ready s → r < 5 → ringOk s.part r = true → d < 8 → s.g (F.RR_CFG.OWNER r) = d →
    s.g (F.RR_CFG.LOG r) ≤ 20 → s.is (F.RR_CFG.EN r) = true → (F.RR_HEAD_DB.INDEX d r).of v < s.ringSize r → ringDist
    (s.ringSize r) (s.g (F.RR_HEAD.INDEX r)) ((F.RR_HEAD_DB.INDEX d r).of v) ≤ ringDist (s.ringSize r) (s.g
    (F.RR_HEAD.INDEX r)) (s.g (F.RR_TAIL.INDEX r)) → ∃ t, exec (.rrHeadDoorbell d r v) s = .next t ∧ t.g (F.RR_HEAD.INDEX
    r) = (F.RR_HEAD_DB.INDEX d r).of v ∧ t.g (F.RR_TAIL.INDEX r) = s.g (F.RR_TAIL.INDEX r) ∧ t.ring r = s.ring r) ∧
  (∀ (s : State) (d r : Nat) (v : Word), Ready s → r < 5 → ringOk s.part r = true → d < 8 → s.g (F.RR_CFG.OWNER r) = d →
    ¬(s.is (F.RR_CFG.EN r) = true ∧ (F.RR_HEAD_DB.INDEX d r).of v < s.ringSize r ∧ ringDist (s.ringSize r) (s.g
    (F.RR_HEAD.INDEX r)) ((F.RR_HEAD_DB.INDEX d r).of v) ≤ ringDist (s.ringSize r) (s.g (F.RR_HEAD.INDEX r)) (s.g
    (F.RR_TAIL.INDEX r))) → exec (.rrHeadDoorbell d r v) s = .next (s.p (F.RR_STAT.DB_ERR r) 1)) ∧
  (∀ (s : State) (d r : Nat) (v : Word), Ready s → r < 5 → ringOk s.part r = true → d < 8 → s.g (F.RR_CFG.OWNER r) ≠ d → ∃
    t, exec (.rrHeadDoorbell d r v) s = .next t ∧ t.is (F.RR_STAT.NONOWNER r) = true ∧ t.rd (R.RR_HEAD r) = s.rd
    (R.RR_HEAD r) ∧ t.rd (R.RR_TAIL r) = s.rd (R.RR_TAIL r)) ∧
  (∀ (s : State) (q : Nat) (v : Word), Ready s → q < 64 → (F.QP_CFG.EN q).is v = true → s.qSt q = qOff → 4 ≤
    (F.QP_CFG.SQ_LOG q).of v → (F.QP_CFG.SQ_LOG q).of v ≤ 16 → 4 ≤ (F.QP_CFG.CQ_LOG q).of v → (F.QP_CFG.CQ_LOG q).of v ≤
    16 → ∃ t, exec (.qpEnable q v) s = .next t ∧ t.qSt q = qRun ∧ t.rd (R.QP_CFG q) = v &&& 0xFBFF3F80#32 ∧ t.rd
    (R.QP_PTRS q) = 0 ∧ t.queue q = {}) ∧
  (∀ (s : State) (q : Nat) (v : Word), Ready s → q < 64 → (F.QP_CFG.EN q).is v = true → s.qSt q = qOff → ((F.QP_CFG.SQ_LOG
    q).of v < 4 ∨ 16 < (F.QP_CFG.SQ_LOG q).of v ∨ (F.QP_CFG.CQ_LOG q).of v < 4 ∨ 16 < (F.QP_CFG.CQ_LOG q).of v) → exec
    (.qpEnable q v) s = .next (s.p (F.QP_STAT.CFG_ERR q) 1)) ∧
  (∀ (s : State) (q : Nat) (v : Word), Ready s → q < 64 → (F.QP_CFG.EN q).is v = true → s.qSt q ≠ qOff → exec (.qpEnable q
    v) s = .next (s.p (F.QP_STAT.CFG_BUSY q) 1)) ∧
  (∀ (s : State) (q : Nat) (v : Word), Ready s → q < 64 → (F.QP_CFG.EN q).is v = false → s.qSt q = qOff → ∃ t, exec
    (.qpDisable q v) s = .next t ∧ t.qSt q = qOff ∧ t.rd (R.QP_CFG q) = v &&& 0x7BFF3F80#32 ∧ t.queue q = s.queue q) ∧
  (∀ (s : State) (q : Nat) (v : Word), Ready s → q < 64 → (F.QP_CFG.EN q).is v = false → s.qSt q = qRun → ∃ t, exec
    (.qpDisable q v) s = .next t ∧ t.qSt q = qDrain ∧ t.rd (R.QP_CFG q) = s.rd (R.QP_CFG q) &&& 0x7FFFFFFF#32 ∧ (t.queue
    q).fetched = [] ∧ (t.queue q).run = (s.queue q).run ∧ (t.queue q).held = (s.queue q).held) ∧
  (∀ (s : State) (q : Nat) (v : Word), Ready s → q < 64 → (F.QP_CFG.EN q).is v = false → s.qSt q = qHalted → ∃ t, exec
    (.qpDisable q v) s = .next t ∧ t.qSt q = (if (s.queue q).held = none ∧ (s.queue q).fail = none ∧ (s.queue q).run =
    none then qOff else qDrain) ∧ t.rd (R.QP_CFG q) = s.rd (R.QP_CFG q) &&& 0x7FFFFFFF#32 ∧ (t.queue q).held = (s.queue
    q).held) ∧
  (∀ (s : State) (q : Nat) (v : Word), Ready s → q < 64 → (F.QP_CFG.EN q).is v = false → s.qSt q = qDrain → exec
    (.qpDisable q v) s = .next (s.p (F.QP_CFG.EN q) 0)) ∧
  (∀ (s : State) (q : Nat), q < 64 → s.qSt q = qDrain → (s.queue q).run = none → (s.queue q).held = none → (s.queue
    q).fail = none → ∃ t, exec (.qpDrainDone q) s = .next t ∧ t.qSt q = qOff ∧ (t.queue q).tail = (s.queue q).tail) ∧
  (∀ (s : State) (q : Nat), q < 64 → (s.qSt q ≠ qDrain ∨ (s.queue q).run ≠ none ∨ (s.queue q).held ≠ none ∨ (s.queue
    q).fail ≠ none) → exec (.qpDrainDone q) s = .next (s)) ∧
  (∀ (s : State) (r : Nat) (v : Word), Ready s → r < 5 → ringOk s.part r = true → (F.RR_CFG.EN r).is v = true → s.is
    (F.RR_CFG.EN r) = false → 6 ≤ (F.RR_CFG.LOG r).of v → (F.RR_CFG.LOG r).of v ≤ 20 → ∃ t, exec (.rrEnable r v) s = .next
    t ∧ t.rd (R.RR_CFG r) = v &&& 0xF1F03F80#32 ∧ t.rd (R.RR_HEAD r) = 0 ∧ t.rd (R.RR_TAIL r) = 0 ∧ t.ring r = s.ring r) ∧
  (∀ (s : State) (r : Nat) (v : Word), Ready s → r < 5 → ringOk s.part r = true → (F.RR_CFG.EN r).is v = true → s.is
    (F.RR_CFG.EN r) = true → 6 ≤ (F.RR_CFG.LOG r).of v → (F.RR_CFG.LOG r).of v ≤ 20 → (v &&& 0x71F03F80#32) = (s.rd
    (R.RR_CFG r) &&& 0x71F03F80#32) → exec (.rrEnable r v) s = .next (s)) ∧
  (∀ (s : State) (r : Nat) (v : Word), Ready s → r < 5 → ringOk s.part r = true → (F.RR_CFG.EN r).is v = true → s.is
    (F.RR_CFG.EN r) = true → 6 ≤ (F.RR_CFG.LOG r).of v → (F.RR_CFG.LOG r).of v ≤ 20 → (v &&& 0x71F03F80#32) ≠ (s.rd
    (R.RR_CFG r) &&& 0x71F03F80#32) → exec (.rrEnable r v) s = .next (s.p (F.RR_STAT.CFG_ERR r) 1)) ∧
  (∀ (s : State) (r : Nat) (v : Word), Ready s → r < 5 → ringOk s.part r = true → (F.RR_CFG.EN r).is v = true →
    ((F.RR_CFG.LOG r).of v < 6 ∨ 20 < (F.RR_CFG.LOG r).of v) → exec (.rrEnable r v) s = .next (s.p (F.RR_STAT.CFG_ERR r)
    1)) ∧
  (∀ (s : State) (r : Nat) (v : Word), Ready s → r < 5 → ringOk s.part r = true → (F.RR_CFG.EN r).is v = false → s.is
    (F.RR_CFG.EN r) = true → 6 ≤ (F.RR_CFG.LOG r).of v → (F.RR_CFG.LOG r).of v ≤ 20 → ∃ t, exec (.rrDisable r v) s = .next
    t ∧ t.rd (R.RR_CFG r) = s.rd (R.RR_CFG r) &&& 0x7FFFFFFF#32 ∧ t.is (F.RR_STAT.FULL r) = false ∧ t.ring r = s.ring r ∧
    t.rd (R.RR_TAIL r) = s.rd (R.RR_TAIL r)) ∧
  (∀ (s : State) (r : Nat) (v : Word), Ready s → r < 5 → ringOk s.part r = true → (F.RR_CFG.EN r).is v = false → s.is
    (F.RR_CFG.EN r) = false → 6 ≤ (F.RR_CFG.LOG r).of v → (F.RR_CFG.LOG r).of v ≤ 20 → exec (.rrDisable r v) s = .next
    (s.wr (R.RR_CFG r) (v &&& 0x71F03F80#32))) ∧
  (∀ (s : State) (r : Nat) (v : Word), Ready s → r < 5 → ringOk s.part r = true → (F.RR_CFG.EN r).is v = false →
    ((F.RR_CFG.LOG r).of v < 6 ∨ 20 < (F.RR_CFG.LOG r).of v) → exec (.rrDisable r v) s = .next (s.p (F.RR_STAT.CFG_ERR r)
    1))

/-- Fetch (R225, R230, R231), start (R222, R235, R239) and completion (R226, R227, R251) of descriptors. -/
def Obligations.DescriptorFlow : Prop :=
  (∀ (s : State) (q : Nat) (descs : List (BitVec 512)), q < 64 → s.awake = true → s.qSt q = qRun → descs ≠ [] →
    descs.length ≤ s.fetchable q → ∃ t, exec (.descFetch q descs) s = .next t ∧ t.g (F.QP_PTRS.SQ_HEAD q) = (s.sqHead q +
    descs.length) % s.sqSize q % 2 ^ 16 ∧ (t.queue q).fetched = (s.queue q).fetched ++ ((List.range descs.length).zip
    descs).map (fun e => (s.sqHead q + e.1, e.2)) ∧ t.out = s.out ++ [.hostRead (addr64 (s.rd (R.QP_SQ_BASE_LO q)) (s.rd
    (R.QP_SQ_BASE_HI q)) + 64 * s.sqHead q) (64 * descs.length)]) ∧
  (∀ (s : State) (q : Nat), q < 64 → s.awake = true → s.qSt q = qRun → 0 < s.fetchable q → (s.queue q).run = none →
    (s.queue q).held = none → ∃ t, exec (.descFetchFail q) s = .next t ∧ t.qSt q = qHalted ∧ t.is (F.QP_STAT.FETCH_ERR q)
    = true ∧ (t.queue q).fetched = [] ∧ (t.queue q).held = some (fetchFailure (s.sqHead q)) ∧ t.g (F.QP_LASTERR.CAUSE q) =
    4 ∧ t.g (F.QP_LASTERR.QPOS q) = s.sqHead q) ∧
  (∀ (s : State) (q : Nat), q < 64 → s.awake = true → s.qSt q = qRun → 0 < s.fetchable q → ((s.queue q).run ≠ none ∨
    (s.queue q).held ≠ none) → ∃ t, exec (.descFetchFail q) s = .next t ∧ t.qSt q = qHalted ∧ t.is (F.QP_STAT.FETCH_ERR q)
    = true ∧ (t.queue q).fetched = [] ∧ (t.queue q).held = (s.queue q).held ∧ (t.queue q).run = (s.queue q).run ∧ (t.queue
    q).fail = some (s.sqHead q) ∧ t.g (F.QP_LASTERR.CAUSE q) = 4 ∧ t.g (F.QP_LASTERR.QPOS q) = s.sqHead q) ∧
  (∀ (s : State) (q p : Nat) (d : BitVec 512) (rest : List (Nat × BitVec 512)), s.nextQueue = some q → (s.queue q).fetched
    = (p, d) :: rest → dOpcode d ≤ 0x18 → dscBits d 2 1 7 = 0 → s.g (F.QP_CFG.OWNER q) = 0 → s.replaying = false →
    (descUnits d).any s.inTest = false → ∃ t, exec .descStart s = .next t ∧ (t.queue q).run = some ⟨s.dids, p, d, false,
    0, s.ownMask 0⟩ ∧ (t.queue q).fetched = rest ∧ t.dids = s.dids + 1 ∧ (t.queue q).held = (s.queue q).held) ∧
  (∀ (s : State) (q p : Nat) (d : BitVec 512) (rest : List (Nat × BitVec 512)), s.nextQueue = some q → q < 64 → (s.queue
    q).fetched = (p, d) :: rest → 0x18 < dOpcode d → p < 2 ^ 16 → ((List.range 64).all (fun k => ((s.queue k).run.map (fun
    r => decide (r.did < s.dids))).getD true)) = true → ∃ t, exec .descStart s = .next t ∧ (t.queue q).run = none ∧
    (t.queue q).fetched = rest ∧ (t.queue q).held = some (packB [(0, 4, dTag d), (4, 1, Status.badop.code), (6, 2, p)]) ∧
    t.g (F.QP_LASTERR.CAUSE q) = 1 ∧ t.g (F.QP_LASTERR.QPOS q) = p ∧ t.alcs = s.alcs ∧ t.mem = s.mem) ∧
  (∀ (s : State) (q p : Nat) (d : BitVec 512) (rest : List (Nat × BitVec 512)), s.nextQueue = some q → q < 64 → (s.queue
    q).fetched = (p, d) :: rest → dOpcode d ≤ 0x18 → dscBits d 2 1 7 ≠ 0 → p < 2 ^ 16 → ((List.range 64).all (fun k =>
    ((s.queue k).run.map (fun r => decide (r.did < s.dids))).getD true)) = true → ∃ t, exec .descStart s = .next t ∧
    (t.queue q).run = none ∧ (t.queue q).fetched = rest ∧ (t.queue q).held = some (packB [(0, 4, dTag d), (4, 1,
    Status.badop.code), (6, 2, p)]) ∧ t.g (F.QP_LASTERR.CAUSE q) = 2 ∧ t.g (F.QP_LASTERR.QPOS q) = p ∧ t.alcs = s.alcs ∧
    t.mem = s.mem) ∧
  (∀ (s : State) (q p : Nat) (d : BitVec 512) (rest : List (Nat × BitVec 512)), s.nextQueue = some q → q < 64 → (s.queue
    q).fetched = (p, d) :: rest → dscBits d 2 1 7 = 0 → s.g (F.QP_CFG.OWNER q) ≠ 0 → (dOpcode d = 0x13 ∨ dOpcode d = 0x17
    ∨ dOpcode d = 0x18) → p < 2 ^ 16 → ((List.range 64).all (fun k => ((s.queue k).run.map (fun r => decide (r.did <
    s.dids))).getD true)) = true → ∃ t, exec .descStart s = .next t ∧ (t.queue q).run = none ∧ (t.queue q).fetched = rest
    ∧ (t.queue q).held = some (packB [(0, 4, dTag d), (4, 1, Status.denied.code), (6, 2, p)]) ∧ t.g (F.QP_LASTERR.CAUSE q)
    = 3 ∧ t.g (F.QP_LASTERR.QPOS q) = p ∧ t.alcs = s.alcs ∧ t.mem = s.mem) ∧
  (∀ (s : State) (q c : Nat), q < 64 → s.awake = true → s.qSt q ≠ qOff → (s.queue q).held = some c → s.cqFree q = true →
    (s.queue q).fail = none → s.g (F.QP_CFG.CQ_LOG q) ≤ 16 → ∃ t, exec (.completionWrite q) s = .next t ∧ t.out.take
    (s.out.length + 1) = s.out ++ [.hostWrite (addr64 (s.rd (R.QP_CQ_BASE_LO q)) (s.rd (R.QP_CQ_BASE_HI q)) + 32 *
    s.cqTail q) 32 (c ||| (s.queue q).phase <<< 40)] ∧ (t.queue q).held = none ∧ (t.queue q).doneCnt = (s.queue q).doneCnt
    + (if (s.queue q).heldFail then 0 else 1) ∧ t.g (F.QP_PTRS.CQ_TAIL q) = (s.cqTail q + 1) % s.cqSize q ∧ (t.queue
    q).phase = (if (s.cqTail q + 1) % s.cqSize q = 0 then 1 - (s.queue q).phase else (s.queue q).phase) ∧ t.is
    (F.QP_STAT.CQ_FULL q) = false ∧ (t.vec (s.g (F.QP_CFG.VEC q))).cnt = (s.vec (s.g (F.QP_CFG.VEC q))).cnt + 1 ∧ ((t.vec
    (s.g (F.QP_CFG.VEC q))).now = ((s.vec (s.g (F.QP_CFG.VEC q))).now || (s.queue q).heldVec))) ∧
  (∀ (s : State) (q c : Nat), q < 64 → s.awake = true → s.qSt q ≠ qOff → (s.queue q).held = some c → s.cqFree q = false →
    ∃ t, exec (.completionWrite q) s = .next t ∧ t.out = s.out ∧ t.queues = s.queues ∧ t.is (F.QP_STAT.CQ_FULL q) = true ∧
    t.is (F.QP_STAT.CQ_FULL_SEEN q) = true)

/-- Result records (R248), interrupts (R251) and FENCE (R241). -/
def Obligations.RecordsInterruptsAndFences : Prop :=
  (∀ (s : State) (r : Nat) (rc : RingRec) (rest : List RingRec), r < 4 → ringOk s.part r = true → s.awake = true → (s.ring
    r).wait = rc :: rest → s.ringFree r = true → s.g (F.RR_CFG.LOG r) ≤ 20 → ∃ t, exec (.resultRecordWrite r) s = .next t
    ∧ t.out = s.out ++ [.hostWrite (addr64 (s.rd (R.RR_BASE_LO r)) (s.rd (R.RR_BASE_HI r)) + ringEntry r * s.g
    (F.RR_TAIL.INDEX r)) rc.len rc.val] ∧ t.g (F.RR_TAIL.INDEX r) = (s.g (F.RR_TAIL.INDEX r) + 1) % s.ringSize r % 2 ^ 20
    ∧ (t.ring r).wait.take rest.length = rest ∧ (r ≠ 0 → (t.ring r).wait = rest) ∧ (t.ring r).sinceWb = (s.ring r).sinceWb
    + 1) ∧
  (∀ (s : State) (r : Nat), r < 4 → ringOk s.part r = true → s.awake = true → s.ringFree r = false → ∃ t, exec
    (.resultRecordWrite r) s = .next t ∧ t.out = s.out ∧ t.rings = s.rings ∧ t.rd (R.RR_TAIL r) = s.rd (R.RR_TAIL r)) ∧
  (∀ (s : State) (r : Nat), r < 5 → ringOk s.part r = true → s.awake = true → s.is (F.RR_CFG.EN r) = true → (s.ring
    r).sinceWb ≠ 0 → ∃ t, exec (.rrWriteback r) s = .next t ∧ t.out = s.out ++ [.hostWrite (addr64 (s.rd (R.RR_WB_LO r))
    (s.rd (R.RR_WB_HI r))) 4 (s.g (F.RR_TAIL.INDEX r))] ∧ (t.ring r).sinceWb = 0 ∧ (t.vec (s.g (F.RR_CFG.VEC r))).cnt =
    (s.vec (s.g (F.RR_CFG.VEC r))).cnt + (s.ring r).sinceWb ∧ t.regs = s.regs) ∧
  (∀ (s : State) (v : Nat) (timed : Bool), v < 128 → (s.vecDue v = true ∨ (timed = true ∧ s.g (F.MSIX_MOD.TIME v) ≠ 0)) →
    ((s.vec v).cnt ≠ 0 ∨ (s.vec v).now = true) → (s.vec v).mask = false → ∃ t, exec (.msixMessage v timed) s = .next t ∧
    t.out = s.out ++ [.msix v] ∧ (t.vec v).cnt = 0 ∧ (t.vec v).now = false ∧ t.regs = s.regs) ∧
  (∀ (s : State) (v : Nat) (timed : Bool), v < 128 → (s.vecDue v = true ∨ (timed = true ∧ s.g (F.MSIX_MOD.TIME v) ≠ 0)) →
    ((s.vec v).cnt ≠ 0 ∨ (s.vec v).now = true) → (s.vec v).mask = true → ∃ t, exec (.msixMessage v timed) s = .next t ∧
    t.out = s.out ∧ (t.vec v).pend = true ∧ (t.vec v).cnt = (s.vec v).cnt ∧ t.regs = s.regs) ∧
  (∀ (s : State) (v : Nat), v < 128 → s.vecDue v = false → exec (.msixMessage v false) s = .next (s)) ∧
  (∀ (s : State) (v : Nat), v < 128 → (s.vec v).pend = true → ∃ t, exec (.msixUnmask v) s = .next t ∧ t.out = s.out ++
    [.msix v] ∧ (t.vec v).mask = false ∧ (t.vec v).pend = false) ∧
  (∀ (s : State) (v : Nat), v < 128 → (s.vec v).pend = false → ∃ t, exec (.msixUnmask v) s = .next t ∧ t.out = s.out ∧
    t.vec v = { s.vec v with mask := false }) ∧
  (∀ (s : State) (q : Nat) (r : DescRun), Executes s q 1 false r → dUnit r.desc = 0 → dAddr r.desc = 0 → dLen r.desc = 0 →
    dscZeroFrom r.desc 28 = true → ∃ t, exec (.fence q) s = .next t ∧ (t.queue q).fence.map (fun e => e.1) = some
    (((List.range 64).filter (fun k => decide (k ≠ q ∧ natBits (dsc r.desc 20 8) k 1 = 1 ∧ s.qSt k ≠ qOff))).map (fun k =>
    (k, (s.queue k).startCnt))) ∧ ∀ k ∈ List.range 64, natBits (((t.queue q).fence.map (fun e => e.2)).getD 0) k 1 = 1 ↔
    (k ≠ q ∧ natBits (dsc r.desc 20 8) k 1 = 1 ∧ s.outstanding k = true) ∧ (t.queue q).run = some
    { r with acted := true } ∧ t.regs = s.regs) ∧
  (∀ (s : State) (q o : Nat) (l : List (Nat × Nat)) (r : DescRun), Executes s q 1 true r → (s.queue q).fence = some (l, o)
    → (l.all (fun e => e.2 ≤ (s.queue e.1).doneCnt)) = true → ∃ t, exec (.fenceDone q) s = .next t ∧ (t.queue q).fence =
    none ∧ Completed t q r .ok [(8, 8, o)] ∧ t.regs = s.regs) ∧
  (∀ (s : State) (q o : Nat) (l : List (Nat × Nat)) (r : DescRun), Executes s q 1 true r → (s.queue q).fence = some (l, o)
    → (l.all (fun e => e.2 ≤ (s.queue e.1).doneCnt)) = false → exec (.fenceDone q) s = .next (s))

/-- ACQ_ARM (R347, R349, R350, R351, R361): FILL begins, the bus settles, the descriptor completes OK, and after PRE
samples the digitiser is ARMED; a running digitiser is BUSY or is aborted, one in DONE is BUSY. Triggers (R352, R353,
R355), ends and records (R350, R351), rate reduction and overrun (R358, R359). -/
def Obligations.Acquisitions : Prop :=
  (∀ (s : State) (q : Nat) (r : DescRun), Executes s q 15 false r → 0 < s.part.digs → acqForm r.desc = true → aaMib r.desc
    ≠ 0 → aaMib r.desc ≤ 256 → aaPre r.desc + aaPost r.desc < aaCap r.desc → r.owns (48 + dUnit r.desc) = true → r.owns
    (acqSourceUnit r.desc) = true → s.fenced (48 + dUnit r.desc) = false → s.acqSt (dUnit r.desc) = acqIdle → ∃ t, exec
    (.acqArm q) s = .next t ∧ t.acqSt (dUnit r.desc) = acqFill ∧ t.dig (dUnit r.desc) =
    { desc := r.desc, did := some r.did, segs := [(aaDec r.desc, 0)], tap := true } ∧ t.rd (R.ACQ_CFG (dUnit r.desc)) =
    BitVec.ofNat 32 (dsc r.desc 20 4) ∧ t.g (F.ACQ_IDX.IDX (dUnit r.desc)) = 0 ∧ t.is (F.ACQ_STAT.SAFE (dUnit r.desc)) =
    false ∧ (t.queue q).run = some { r with acted := true }) ∧
  (∀ (s : State) (q : Nat) (r : DescRun), Executes s q 15 false r → 0 < s.part.digs → acqForm r.desc = true → aaMib r.desc
    ≠ 0 → aaMib r.desc ≤ 256 → aaPre r.desc + aaPost r.desc < aaCap r.desc → r.owns (48 + dUnit r.desc) = true → r.owns
    (acqSourceUnit r.desc) = true → s.fenced (48 + dUnit r.desc) = false → s.acqRuns (dUnit r.desc) = true → aaAbort
    r.desc = false → ∃ t, exec (.acqArm q) s = .next t ∧ t.digs = s.digs ∧ t.regs = s.regs ∧ Completed t q r .busy [(8, 1,
    dUnit r.desc % 4), (9, 1, 1), (10, 2, aaSeq r.desc)]) ∧
  (∀ (s : State) (q : Nat) (r : DescRun), Executes s q 15 false r → 0 < s.part.digs → acqForm r.desc = true → aaMib r.desc
    ≠ 0 → aaMib r.desc ≤ 256 → aaPre r.desc + aaPost r.desc < aaCap r.desc → r.owns (48 + dUnit r.desc) = true → r.owns
    (acqSourceUnit r.desc) = true → s.fenced (48 + dUnit r.desc) = false → s.acqRuns (dUnit r.desc) = true → aaAbort
    r.desc = true → (s.dig (dUnit r.desc)).did = none → ∃ t, exec (.acqArm q) s = .next t ∧ t.acqSt (dUnit r.desc) =
    acqDone ∧ natBits (t.dig (dUnit r.desc)).flags 3 1 = 1 ∧ (t.dig (dUnit r.desc)).slot.isSome = true ∧ (t.dig (dUnit
    r.desc)).next = some r.did ∧ (t.dig (dUnit r.desc)).nextDesc = r.desc ∧ (t.queue q).run = some
    { r with acted := true }) ∧
  (∀ (s : State) (q : Nat) (r : DescRun), Executes s q 15 false r → 0 < s.part.digs → acqForm r.desc = true → aaMib r.desc
    ≠ 0 → aaMib r.desc ≤ 256 → aaPre r.desc + aaPost r.desc < aaCap r.desc → r.owns (48 + dUnit r.desc) = true → r.owns
    (acqSourceUnit r.desc) = true → s.fenced (48 + dUnit r.desc) = false → s.acqSt (dUnit r.desc) = acqDone → ∃ t, exec
    (.acqArm q) s = .next t ∧ t.digs = s.digs ∧ t.regs = s.regs ∧ Completed t q r .busy [(8, 1, dUnit r.desc % 4), (9, 1,
    2), (10, 2, aaSeq r.desc)]) ∧
  (∀ (s : State) (d q did : Nat) (r : DescRun), d < s.part.digs → s.acqSt d = acqFill → (s.dig d).settled = false → (s.dig
    d).did = some did → s.queueOf did = some q → (s.queue q).run = some r → ∃ t, exec (.acqSettleDone d) s = .next t ∧
    t.dig d = { s.dig d with settled := true, did := none, since := s.cyc } ∧ t.regs = s.regs ∧ Completed t q r .ok [(8,
    1, d), (10, 2, aaSeq (s.dig d).desc), (12, 4, s.tb0ns), (16, 1, (s.dig d).aborted.toNat)]) ∧
  (∀ (s : State) (d : Nat) (data : List Nat) (clip : Bool), d < s.part.digs → d < 4 → s.acqSt d = acqFill → (s.dig
    d).settled = true → (s.dig d).idx + data.length = aaPre (s.dig d).desc → 0 < aaMib (s.dig d).desc → aaPre (s.dig
    d).desc ≤ aaCap (s.dig d).desc → aaMib (s.dig d).desc ≤ 256 → ∃ t, exec (.acqPreDone d data clip) s = .next t ∧
    t.acqSt d = acqArmed ∧ (t.dig d).idx = aaPre (s.dig d).desc ∧ ∀ j ∈ List.range data.length, t.rdMem (96 + d) (2 *
    ((s.dig d).idx + j)) 2 = data.getD j 0 % 65536 ∧ t.g (F.ACQ_IDX.IDX d) = min (aaPre (s.dig d).desc) 0xFFFFFFFF ∧
    (t.dig d).flags = (s.dig d).flags ||| (if clip then 64 else 0)) ∧
  (∀ (s : State) (d raw frac : Nat) (c : AcqTrig) (data : List Nat) (clip : Bool), d < s.part.digs → raw < 5 → c ≠ .event
    → s.acqSt d = acqArmed → (s.dig d).settled = true → acqMeets (s.dig d).desc c = some frac → ∃ t, exec (.acqTrigger d c
    raw data clip) s = .next t ∧ t.acqSt d = acqPost ∧ (t.dig d).trig = some ((s.dig d).idx + data.length - 1) ∧ (t.dig
    d).idx = (s.dig d).idx + data.length ∧ (t.dig d).stamp = s.acqEdge + raw * 4 * 65536 + frac * 1024 ∧ (t.dig d).frac =
    frac % 256 ∧ (t.dig d).flags = (s.dig d).flags ||| (if clip then 64 else 0) ||| (if s.noref then 4 else 0)) ∧
  (∀ (s : State) (d raw : Nat) (data : List Nat) (clip : Bool), d < s.part.digs → raw < 5 → s.acqSt d = acqArmed → (s.dig
    d).settled = true → (s.dig d).evTrig = true → aaTsrc (s.dig d).desc = 4 → ∃ t, exec (.acqTrigger d .event raw data
    clip) s = .next t ∧ t.acqSt d = acqPost ∧ (t.dig d).trig = some ((s.dig d).idx + data.length - 1) ∧ (t.dig d).idx =
    (s.dig d).idx + data.length ∧ (t.dig d).stamp = s.acqEdge + raw * 4 * 65536 ∧ (t.dig d).frac = 0 ∧ (t.dig d).flags =
    (s.dig d).flags ||| (if clip then 64 else 0) ||| (if s.noref then 4 else 0) ∧ (t.dig d).evTrig = false) ∧
  (∀ (s : State) (d raw frac : Nat) (c : AcqTrig) (data : List Nat) (clip : Bool), d < s.part.digs → raw < 5 → c ≠ .event
    → s.acqSt d = acqFill → (s.dig d).settled = true → acqMeets (s.dig d).desc c = some frac → ∃ t, exec (.acqTrigger d c
    raw data clip) s = .next t ∧ t.acqSt d = acqFill ∧ t.is (F.ACQ_STAT.EARLY d) = true ∧ (t.dig d).flags = (s.dig
    d).flags ||| 128 ∧ (t.dig d).trig = (s.dig d).trig ∧ (t.dig d).idx = (s.dig d).idx) ∧
  (∀ (s : State) (d raw : Nat) (c : AcqTrig) (data : List Nat) (clip : Bool), c ≠ .event → acqMeets (s.dig d).desc c =
    none → exec (.acqTrigger d c raw data clip) s = .next (s)) ∧
  (∀ (s : State) (d raw : Nat) (data : List Nat) (clip : Bool), d < s.part.digs → raw < 5 → s.acqSt d = acqArmed → aaTmo
    (s.dig d).desc ≠ 0 → ∃ t, exec (.acqTimeout d raw data clip) s = .next t ∧ t.acqSt d = acqPost ∧ (t.dig d).trig = some
    ((s.dig d).idx + data.length - 1) ∧ (t.dig d).idx = (s.dig d).idx + data.length ∧ (t.dig d).stamp = s.acqEdge + raw *
    4 * 65536 ∧ (t.dig d).frac = 0 ∧ (t.dig d).flags = (s.dig d).flags ||| (if clip then 64 else 0) ||| 48 ||| (if s.noref
    then 4 else 0)) ∧
  (∀ (s : State) (d raw : Nat) (data : List Nat) (clip : Bool), Ready s → d < s.part.digs → raw < 5 → s.acqSt d = acqArmed
    → ∃ t, exec (.acqForce d raw data clip) s = .next t ∧ t.acqSt d = acqPost ∧ (t.dig d).trig = some ((s.dig d).idx +
    data.length - 1) ∧ (t.dig d).idx = (s.dig d).idx + data.length ∧ (t.dig d).stamp = s.acqEdge + raw * 4 * 65536 ∧
    (t.dig d).frac = 0 ∧ (t.dig d).flags = (s.dig d).flags ||| (if clip then 64 else 0) ||| 16 ||| (if s.noref then 4 else
    0)) ∧
  (∀ (s : State) (d raw : Nat) (data : List Nat) (clip : Bool), Ready s → d < s.part.digs → raw < 5 → s.acqSt d ≠ acqArmed
    → exec (.acqForce d raw data clip) s = .next (s)) ∧
  (∀ (s : State) (d tr : Nat) (data : List Nat) (clip : Bool), d < s.part.digs → s.acqSt d = acqPost → (s.dig d).trig =
    some tr → (s.dig d).idx + data.length = tr + aaPost (s.dig d).desc + 1 → (s.dig d).did = none → ∃ t, exec
    (.acqPostDone d data clip) s = .next t ∧ t.acqSt d = acqDone ∧ (t.dig d).slot = some (acqRecord d
    { s.dig d with idx := tr + aaPost (s.dig d).desc + 1, flags := (s.dig d).flags ||| (if clip then 64 else 0) } (s.dig
    d).stamp (s.dig d).frac) ∧ (t.dig d).settled = false) ∧
  (∀ (s : State) (d tr : Nat) (data : List Nat) (clip : Bool), Ready s → d < s.part.digs → s.acqRuns d = true → s.acqRoom
    d data.length = true → (s.dig d).trig = some tr → (s.dig d).did = none → ∃ t, exec (.acqAbort d data clip) s = .next t
    ∧ t.acqSt d = acqDone ∧ (t.dig d).slot = some (acqRecord d
    { s.dig d with idx := (s.dig d).idx + data.length, flags := (s.dig d).flags ||| (if clip then 64 else 0) ||| 8 }
    (s.dig d).stamp (s.dig d).frac)) ∧
  (∀ (s : State) (d : Nat) (data : List Nat) (clip : Bool), Ready s → d < s.part.digs → s.acqRuns d = true → (s.acqRoom d
    data.length = true ∨ data = []) → (s.dig d).trig = none → (s.dig d).did = none → ∃ t, exec (.acqAbort d data clip) s =
    .next t ∧ t.acqSt d = acqDone ∧ (t.dig d).flags = (s.dig d).flags ||| (if clip then 64 else 0) ||| 8 ∧ (t.dig
    d).slot.isSome = true ∧ (t.dig d).idx = (s.dig d).idx + data.length) ∧
  (∀ (s : State) (d q did : Nat) (clip : Bool) (r : DescRun), Ready s → d < s.part.digs → s.acqSt d = acqFill → (s.dig
    d).did = some did → s.queueOf did = some q → (s.queue q).run = some r → ∃ t, exec (.acqAbort d [] clip) s = .next t ∧
    t.acqSt d = acqDone ∧ (t.dig d).slot.isSome = true ∧ (t.queue q).run = none ∧ (t.queue q).held.map (fun c => (natBits
    c 0 32, natBits c 32 8)) = some (dTag r.desc, Status.faulted.code)) ∧
  (∀ (s : State) (d : Nat) (data : List Nat) (clip : Bool), Ready s → d < s.part.digs → s.acqRuns d = false → exec
    (.acqAbort d data clip) s = .next (s)) ∧
  (∀ (s : State) (d : Nat) (rc : RingRec), d < s.part.digs → s.acqSt d = acqDone → (s.dig d).slot = some rc → (s.ring
    2).wait = [] → s.ringFree 2 = true → (s.dig d).next = none → ∃ t, exec (.acqRecordWrite d) s = .next t ∧ t.acqSt d =
    acqIdle ∧ (t.dig d).slot = none ∧ t.out = s.out ++ [.hostWrite (addr64 (s.rd (R.RR_BASE_LO 2)) (s.rd (R.RR_BASE_HI 2))
    + 64 * s.g (F.RR_TAIL.INDEX 2)) rc.len rc.val]) ∧
  (∀ (s : State) (d did : Nat) (rc : RingRec), d < s.part.digs → s.acqSt d = acqDone → (s.dig d).slot = some rc → (s.ring
    2).wait = [] → s.ringFree 2 = true → (s.dig d).next = some did → ∃ t, exec (.acqRecordWrite d) s = .next t ∧ t.acqSt d
    = acqFill ∧ t.dig d =
    { desc := (s.dig d).nextDesc, did := some did, segs := [(aaDec (s.dig d).nextDesc, 0)], aborted := true, tap := true
        }) ∧
  (∀ (s : State) (d : Nat), d < s.part.digs → s.acqSt d = acqDone → ((s.ring 2).wait ≠ [] ∨ s.ringFree 2 = false) → ∃ t,
    exec (.acqRecordWrite d) s = .next t ∧ t.acqSt d = acqDone ∧ t.digs = s.digs ∧ t.out = s.out) ∧
  (∀ (s : State) (d i : Nat) (data : List Nat) (clip : Bool), d < s.part.digs → s.acqRoom d data.length = true → aaAuto
    (s.dig d).desc = true → s.g (F.ACQ_STAT.DEC d) < 6 → (s.dig d).idx + data.length = i → ((s.dig d).raisedAt.map (fun n
    => decide (n + 1024 ≤ i))).getD true = true → ∃ t, exec (.acqDecim d data clip) s = .next t ∧ t.g (F.ACQ_STAT.DEC d) =
    s.g (F.ACQ_STAT.DEC d) + 1 ∧ t.is (F.ACQ_STAT.DECIM d) = true ∧ (t.dig d).segs = (s.dig d).segs ++ [(s.g
    (F.ACQ_STAT.DEC d) + 1, i)] ∧ (t.dig d).raisedAt = some i ∧ (t.dig d).flags = (s.dig d).flags ||| (if clip then 64
    else 0) ||| 1) ∧
  (∀ (s : State) (d n : Nat) (data : List Nat) (clip : Bool), (s.dig d).raisedAt = some n → (s.dig d).idx + data.length <
    n + 1024 → exec (.acqDecim d data clip) s = .next (s)) ∧
  (∀ (s : State) (d n : Nat) (data : List (Option Nat)) (clip : Bool), d < s.part.digs → s.acqRoom d data.length = true →
    (data.filter (fun e => e.isNone)).length = n → 0 < n → s.g (F.ACQ_DROP.COUNT d) + n < 2 ^ 31 - 1 → (s.dig d).dropped +
    n ≤ 0xFFFFFFFF → ∃ t, exec (.acqOverrun d data clip) s = .next t ∧ t.is (F.ACQ_STAT.OVERRUN d) = true ∧ t.g
    (F.ACQ_DROP.COUNT d) = s.g (F.ACQ_DROP.COUNT d) + n ∧ (t.dig d).idx = (s.dig d).idx + data.length ∧ (t.dig d).dropped
    = (s.dig d).dropped + n ∧ (t.dig d).flags = (s.dig d).flags ||| (if clip then 64 else 0) ||| 2) ∧
  (∀ (s : State) (d : Nat), d < s.part.digs → s.acqRoom d 1 = true → (s.dig d).firstDrop = none → ∃ t, exec (.acqOverrun d
    [none] false) s = .next t ∧ (t.dig d).firstDrop = some (s.dig d).idx ∧ t.mem = s.mem)

/-- RASTER_COMMIT (R401, R403), its application (R396–R398) and kills (R399). The points of the raster (R389, R397, R398),
underruns (R394), records (R400) and lanes (R391, R551). -/
def Obligations.RasterStimulus : Prop :=
  (∀ (s : State) (q line : Nat) (block : BitVec 2048) (r : DescRun), Executes s q 16 false r → s.part.raster = true →
    rcForm r.desc = true → r.owns 52 = true → s.fenced 52 = false → s.rs.pend = none → s.rs.kill = none → rcKill r.desc =
    false → dLen r.desc = 256 → rbOk block = true → rbInside block = true → (s.rs.queue.length < 252 ∨ s.rsReplaced block
    = []) → ∃ t, exec (.rasterCommit q line true block) s = .next t ∧ t.out = s.out ++ [.hostRead (dAddr r.desc) 256] ∧
    t.rs.pend = some ⟨r.did, rcSeq r.desc, block, s.rsStreams && line + 1 == rbVact s.rs.block, s.rsStreams && line + 1 ==
    rbVact s.rs.block, !s.rsStreams⟩ ∧ t.is F.RS_STAT.PENDING = true ∧ t.rs.block = s.rs.block ∧ t.rsSt = s.rsSt ∧
    (t.queue q).run = some { r with acted := true }) ∧
  (∀ (s : State) (q line : Nat) (block : BitVec 2048) (r : DescRun), Executes s q 16 false r → s.part.raster = true →
    rcForm r.desc = true → r.owns 52 = true → s.fenced 52 = false → s.rs.pend = none → s.rs.kill = none → rcKill r.desc =
    false → dLen r.desc = 256 → (s.rs.queue.length < 252 ∨ s.rsReplaced block = []) → ∃ t, exec (.rasterCommit q line
    false block) s = .next t ∧ t.rs = s.rs ∧ t.regs = s.regs ∧ Completed t q r .faulted (rcRes 0 0 (rcSeq r.desc) 1 0 0)) ∧
  (∀ (s : State) (q line : Nat) (block : BitVec 2048) (r : DescRun), Executes s q 16 false r → s.part.raster = true →
    rcForm r.desc = true → r.owns 52 = true → s.fenced 52 = false → s.rs.pend = none → s.rs.kill = none → rcKill r.desc =
    false → dLen r.desc = 256 → rbOk block = false → (s.rs.queue.length < 252 ∨ s.rsReplaced block = []) → ∃ t, exec
    (.rasterCommit q line true block) s = .next t ∧ t.rs = s.rs ∧ t.regs = s.regs ∧ Completed t q r .badop (rcRes 0 0
    (rcSeq r.desc) 2 0 0)) ∧
  (∀ (s : State) (q line : Nat) (block : BitVec 2048) (r : DescRun), Executes s q 16 false r → s.part.raster = true →
    rcForm r.desc = true → r.owns 52 = true → s.fenced 52 = false → s.rs.pend = none → s.rs.kill = none → rcKill r.desc =
    false → dLen r.desc = 256 → rbOk block = true → rbInside block = false → (s.rs.queue.length < 252 ∨ s.rsReplaced block
    = []) → ∃ t, exec (.rasterCommit q line true block) s = .next t ∧ t.rs = s.rs ∧ t.regs = s.regs ∧ Completed t q r
    .badlen (rcRes 0 0 (rcSeq r.desc) 2 0 0)) ∧
  (∀ (s : State) (q line : Nat) (block : BitVec 2048) (r : DescRun) (ok : Bool), Executes s q 16 false r → s.part.raster =
    true → rcForm r.desc = true → r.owns 52 = true → s.fenced 52 = false → (s.rs.pend ≠ none ∨ s.rs.kill ≠ none) → (rcKill
    r.desc = true ∨ dLen r.desc = 256) → ∃ t, exec (.rasterCommit q line ok block) s = .next t ∧ t.rs = s.rs ∧ t.regs =
    s.regs ∧ t.out = s.out ∧ Completed t q r .busy (rcRes 0 0 (rcSeq r.desc) 1 0 0)) ∧
  (∀ (s : State) (q line : Nat) (block : BitVec 2048) (r : DescRun), Executes s q 16 false r → s.part.raster = true →
    rcForm r.desc = true → r.owns 52 = true → s.fenced 52 = false → s.rs.pend = none → s.rs.kill = none → rcKill r.desc =
    false → dLen r.desc = 256 → 252 ≤ s.rs.queue.length → s.rsReplaced block ≠ [] → ∃ t, exec (.rasterCommit q line true
    block) s = .next t ∧ t.rs = s.rs ∧ t.regs = s.regs ∧ Completed t q r .busy (rcRes 0 0 (rcSeq r.desc) 2 0 0)) ∧
  (∀ (s : State) (q line : Nat) (block : BitVec 2048) (r : DescRun) (ok : Bool), Executes s q 16 false r → s.part.raster =
    true → rcForm r.desc = true → r.owns 52 = true → s.fenced 52 = false → s.rs.pend = none → s.rs.kill = none → rcKill
    r.desc = true → 252 ≤ s.rs.queue.length → (List.range 4).any (fun l => natBits (rcKmask r.desc) l 1 == 1 && s.rsValid
    l) = true → ∃ t, exec (.rasterCommit q line ok block) s = .next t ∧ t.rs = s.rs ∧ t.regs = s.regs ∧ Completed t q r
    .busy (rcRes 0 0 (rcSeq r.desc) 2 0 0)) ∧
  (∀ (s : State) (q line : Nat) (block : BitVec 2048) (r : DescRun) (ok : Bool), Executes s q 16 false r → s.part.raster =
    true → rcForm r.desc = true → r.owns 52 = true → s.fenced 52 = false → s.rs.pend = none → s.rs.kill = none → rcKill
    r.desc = true → (s.rs.queue.length < 252 ∨ (List.range 4).any (fun l => natBits (rcKmask r.desc) l 1 == 1 && s.rsValid
    l) = false) → ∃ t, exec (.rasterCommit q line ok block) s = .next t ∧ t.rs =
    { s.rs with kill := some (r.did, rcSeq r.desc, rcKmask r.desc) } ∧ t.regs = s.regs ∧ t.out = s.out ∧ (t.queue q).run =
    some { r with acted := true }) ∧
  (∀ (s : State) (p : RsPend) (q : Nat) (r : DescRun), s.rs.pend = some p → p.due = true → s.queueOf p.did = some q →
    (s.queue q).run = some r → s.rsSt < 4 → ∃ t, exec .rsCommitApply s = .next t ∧ t.rs.block = p.block ∧ t.rs.pend = none
    ∧ t.rs.killed = 0 ∧ t.rsSt = rsNext s.rsSt p.block ∧ t.is F.RS_STAT.PENDING = false ∧ ∀ l ∈ List.range 4, t.g
    (F.RS_RSEQ.RSEQ l) = rbRseq p.block l % 2 ^ 32 ∧ t.rsValid l = rbValid p.block l ∧ t.rs.retiring = s.rs.retiring ++
    (if rsNext s.rsSt p.block = rsOff then [] else (s.rsReplaced p.block).map (fun l => (l, s.g (F.RS_RSEQ.RSEQ l),
    false))) ∧ t.rs.queue.length = s.rs.queue.length + (if rsNext s.rsSt p.block = rsOff then (s.rsReplaced
    p.block).length else 0) ∧ Completed t q r (if p.late = true then .late else .ok) (rcRes (s.g F.RS_FRAME.FRAME) s.tb0ns
    p.seq 0 t.rsSt t.rsRetiring)) ∧
  (∀ (s : State) (p : RsPend), s.rs.pend = some p → p.due = false → exec .rsCommitApply s = .next (s)) ∧
  (∀ (s : State) (did seq mask q : Nat) (r : DescRun), s.rs.kill = some (did, seq, mask) → mask < 16 → s.queueOf did =
    some q → (s.queue q).run = some r → ∃ t, exec .rsKillApply s = .next t ∧ t.rs.kill = none ∧ t.rs.killed = s.rs.killed
    ||| mask ∧ t.g F.RS_STAT.VALID = s.g F.RS_STAT.VALID &&& (15 ^^^ mask) ∧ t.is F.RS_STAT.LAYER_STALE = true ∧
    t.rs.retiring = s.rs.retiring ++ ((List.range 4).filter (fun l => natBits mask l 1 == 1 && s.rsValid l)).map (fun l =>
    (l, s.g (F.RS_RSEQ.RSEQ l), true)) ∧ Completed t q r .ok (rcRes (s.g F.RS_FRAME.FRAME) s.tb0ns seq 0 s.rsSt
    t.rsRetiring)) ∧
  (∀ (s : State), s.part.raster = true → s.rsStreams = true → ∃ t, exec .rsStartBlank s = .next t ∧ t.rs.pend =
    s.rs.pend.map (fun p => if p.missed = true then { p with missed := false } else { p with due := true }) ∧ t.g
    F.RS_POS.LINE = rbVact s.rs.block % 2 ^ (F.RS_POS.LINE).len ∧ t.g F.RS_POS.PIXEL = 0 ∧ t.rs.block = s.rs.block) ∧
  (∀ (s : State), s.part.raster = true → s.rsSt = rsRun → ∃ t, exec .rsFrameDone s = .next t ∧ t.rs.retiring = [] ∧
    t.rs.queue.length = s.rs.queue.length + s.rs.retiring.length ∧ t.rs.queue.take s.rs.queue.length = s.rs.queue ∧
    t.rs.block = s.rs.block) ∧
  (∀ (s : State), s.part.raster = true → s.rsSt = rsRun → ∃ t, exec .rsFrameIncrement s = .next t ∧ t.g F.RS_FRAME.FRAME =
    (s.g F.RS_FRAME.FRAME + 1) % 2 ^ (F.RS_FRAME.FRAME).len ∧ t.g F.RS_POS.LINE = 0 ∧ t.g F.RS_POS.PIXEL = 0) ∧
  (∀ (s : State), s.part.raster = true → s.rsSt = rsResync → exec .rsResyncEnd s = .next (s.p F.RS_STAT.STATE rsRun)) ∧
  (∀ (s : State), s.part.raster = true → s.rsSt = rsRun → rbLine s.rs.block < rbVtotal s.rs.block → ∃ t, exec .rsLineMatch
    s = .next t ∧ t.g F.RS_POS.LINE = rbLine s.rs.block % 2 ^ (F.RS_POS.LINE).len ∧ t.g F.RS_POS.PIXEL = 0 ∧ t.rs = s.rs) ∧
  (∀ (s : State) (l line px : Nat), s.part.raster = true → s.rsSt = rsRun → l < 4 → s.rsValid l = true → s.g
    F.RS_UNDER_CNT.COUNT < 2 ^ 31 - 1 → ∃ t, exec (.rsUnderrun l line px) s = .next t ∧ t.is F.RS_STAT.UNDERRUN = true ∧
    t.g F.RS_UNDER_CNT.COUNT = s.g F.RS_UNDER_CNT.COUNT + 1 ∧ t.rs.queue.length = s.rs.queue.length + (if
    s.rs.queue.length < 256 then 1 else 0) ∧ (256 ≤ s.rs.queue.length → t.is F.RS_STAT.GAP = true) ∧ t.rs.under = (l,
    line, px) :: s.rs.under) ∧
  (∀ (s : State) (rc : RingRec) (rest : List RingRec), s.part.raster = true → s.awake = true → s.rs.queue = rc :: rest →
    s.ringFree 3 = true → ∃ t, exec .rsRecordWrite s = .next t ∧ t.rs.queue.take rest.length = rest ∧ (s.rs.drops = (0, 0)
    → t.rs.queue = rest) ∧ t.out = s.out ++ [.hostWrite (addr64 (s.rd (R.RR_BASE_LO 3)) (s.rd (R.RR_BASE_HI 3)) + 32 * s.g
    (F.RR_TAIL.INDEX 3)) rc.len rc.val]) ∧
  (∀ (s : State), s.ringFree 3 = false → ∃ t, exec .rsRecordWrite s = .next t ∧ t.rs = s.rs ∧ t.out = s.out ∧ t.rd
    (R.RR_TAIL 3) = s.rd (R.RR_TAIL 3)) ∧
  (∀ (s : State) (k : Nat) (v : Word), Ready s → s.part.raster = true → k < 36 → s.rsSt = rsOff → (F.RS_LANE.HALL k).of v
    < s.part.halls → (F.RS_LANE.IDLE k).of v ≠ 3 → ((F.RS_LANE.EN k).is v && (List.range 36).any (fun j => j != k && s.is
    (F.RS_LANE.EN j) && s.g (F.RS_LANE.HALL j) == (F.RS_LANE.HALL k).of v && s.g (F.RS_LANE.SLOT j) == (F.RS_LANE.SLOT
    k).of v)) = false → exec (.rsLaneWrite k v) s = .next (s.wr (R.RS_LANE k) (v &&& 0xF0007C1F#32))) ∧
  (∀ (s : State) (k : Nat) (v : Word), Ready s → s.part.raster = true → k < 36 → s.rsSt = rsOff → (((F.RS_LANE.EN k).is v
    && (List.range 36).any (fun j => j != k && s.is (F.RS_LANE.EN j) && s.g (F.RS_LANE.HALL j) == (F.RS_LANE.HALL k).of v
    && s.g (F.RS_LANE.SLOT j) == (F.RS_LANE.SLOT k).of v)) = true ∨ s.part.halls ≤ (F.RS_LANE.HALL k).of v ∨
    (F.RS_LANE.IDLE k).of v = 3) → exec (.rsLaneWrite k v) s = .next (s.p F.RS_STAT.CFG_ERR 1)) ∧
  (∀ (s : State) (k : Nat) (v : Word), Ready s → s.part.raster = true → k < 36 → s.rsSt ≠ rsOff → (F.RS_LANE.HALL k).of v
    < s.part.halls → (F.RS_LANE.IDLE k).of v ≠ 3 → ((F.RS_LANE.EN k).is v && (List.range 36).any (fun j => j != k && s.is
    (F.RS_LANE.EN j) && s.g (F.RS_LANE.HALL j) == (F.RS_LANE.HALL k).of v && s.g (F.RS_LANE.SLOT j) == (F.RS_LANE.SLOT
    k).of v)) = false → exec (.rsLaneWrite k v) s = .next (s.p F.RS_STAT.CFG_BUSY 1)) ∧
  (∀ (s : State) (k : Nat) (v : Word), Ready s → s.part.raster = true → k < 36 → s.rsSt ≠ rsOff → (((F.RS_LANE.EN k).is v
    && (List.range 36).any (fun j => j != k && s.is (F.RS_LANE.EN j) && s.g (F.RS_LANE.HALL j) == (F.RS_LANE.HALL k).of v
    && s.g (F.RS_LANE.SLOT j) == (F.RS_LANE.SLOT k).of v)) = true ∨ s.part.halls ≤ (F.RS_LANE.HALL k).of v ∨
    (F.RS_LANE.IDLE k).of v = 3) → exec (.rsLaneWrite k v) s = .next ((s.p F.RS_STAT.CFG_ERR 1).p F.RS_STAT.CFG_BUSY 1))

/-- Timers (R417, R418): start, stop, output and the end of the window. Emissions and deliveries (R406, R409–R411, R414,
R415, R421), configuration (R410, R416), the journal marker (R557) and TRIGOUT (R107). -/
def Obligations.EventsAndTimers : Prop :=
  (∀ (s : State) (k : Nat) (v : Word), Ready s → k < 16 → (F.TM_CTL.GO k).is v = true → (F.TM_CTL.EN k).is v = true → s.is
    (F.TM_CTL.RUN k) = false → ((F.TM_CTL.MODE k).of v = 0 ∨ s.g (F.TM_WIDTH.CYCLES k) < s.g (F.TM_PERIOD.CYCLES k)) → ∃
    t, exec (.tmGo k v) s = .next t ∧ t.is (F.TM_CTL.RUN k) = true ∧ t.is (F.TM_CTL.EN k) = true ∧ t.is (F.TM_CTL.RETRIG
    k) = (F.TM_CTL.RETRIG k).is v ∧ t.g (F.TM_CTL.MODE k) = (F.TM_CTL.MODE k).of v ∧ t.is (F.TM_CTL.OUT k) = decide (s.g
    (F.TM_DELAY.CYCLES k) = 0) ∧ t.tmAt k = s.cyc + s.g (F.TM_DELAY.CYCLES k)) ∧
  (∀ (s : State) (k : Nat) (v : Word), Ready s → k < 16 → (F.TM_CTL.GO k).is v = true → (F.TM_CTL.EN k).is v = true →
    (F.TM_CTL.STOP k).is v = false → (F.TM_CTL.RETRIG k).is v = false → s.is (F.TM_CTL.RUN k) = true → (s.g (F.TM_CTL.MODE
    k) = 0 ∨ s.g (F.TM_WIDTH.CYCLES k) < s.g (F.TM_PERIOD.CYCLES k)) → ∃ t, exec (.tmGo k v) s = .next t ∧ t.is
    F.EV_GSTAT.TM_BUSY = true ∧ t.is (F.TM_CTL.RUN k) = true ∧ t.is (F.TM_CTL.OUT k) = s.is (F.TM_CTL.OUT k) ∧ t.g
    (F.TM_CTL.MODE k) = s.g (F.TM_CTL.MODE k) ∧ t.tms = s.tms) ∧
  (∀ (s : State) (k : Nat) (v : Word), Ready s → k < 16 → (F.TM_CTL.GO k).is v = true → (F.TM_CTL.EN k).is v = true →
    (F.TM_CTL.RETRIG k).is v = true → s.is (F.TM_CTL.RUN k) = true → (s.g (F.TM_CTL.MODE k) = 0 ∨ s.g (F.TM_WIDTH.CYCLES
    k) < s.g (F.TM_PERIOD.CYCLES k)) → ∃ t, exec (.tmGo k v) s = .next t ∧ t.is (F.TM_CTL.RUN k) = true ∧ t.is
    (F.TM_CTL.OUT k) = decide (s.g (F.TM_DELAY.CYCLES k) = 0) ∧ t.tmAt k = s.cyc + s.g (F.TM_DELAY.CYCLES k) ∧ t.g
    (F.TM_CTL.MODE k) = s.g (F.TM_CTL.MODE k)) ∧
  (∀ (s : State) (k : Nat) (v : Word), Ready s → k < 16 → (F.TM_CTL.GO k).is v = true → (F.TM_CTL.EN k).is v = false →
    ((if s.is (F.TM_CTL.RUN k) = true then s.g (F.TM_CTL.MODE k) else (F.TM_CTL.MODE k).of v) = 0 ∨ s.g (F.TM_WIDTH.CYCLES
    k) < s.g (F.TM_PERIOD.CYCLES k)) → ∃ t, exec (.tmGo k v) s = .next t ∧ t.is (F.TM_CTL.RUN k) = false ∧ t.is
    (F.TM_CTL.OUT k) = false ∧ t.is (F.TM_CTL.EN k) = false) ∧
  (∀ (s : State) (k : Nat) (v : Word), Ready s → k < 16 → (F.TM_CTL.GO k).is v = true → (if s.is (F.TM_CTL.RUN k) = true
    then s.g (F.TM_CTL.MODE k) else (F.TM_CTL.MODE k).of v) = 1 → s.g (F.TM_PERIOD.CYCLES k) ≤ s.g (F.TM_WIDTH.CYCLES k) →
    exec (.tmGo k v) s = .next (s.p F.EV_GSTAT.CFG_ERR 1)) ∧
  (∀ (s : State) (k : Nat) (v : Word), Ready s → k < 16 → ((F.TM_CTL.STOP k).is v = true ∨ (F.TM_CTL.EN k).is v = false) →
    (if s.is (F.TM_CTL.RUN k) = true then s.g (F.TM_CTL.MODE k) else (F.TM_CTL.MODE k).of v) = 1 → s.g (F.TM_PERIOD.CYCLES
    k) ≤ s.g (F.TM_WIDTH.CYCLES k) → exec (.tmStop k v) s = .next (s.p F.EV_GSTAT.CFG_ERR 1)) ∧
  (∀ (s : State) (k : Nat) (v : Word), Ready s → k < 16 → ((F.TM_CTL.STOP k).is v = true ∨ (F.TM_CTL.EN k).is v = false) →
    (F.TM_CTL.GO k).is v = false → ((if s.is (F.TM_CTL.RUN k) = true then s.g (F.TM_CTL.MODE k) else (F.TM_CTL.MODE k).of
    v) = 0 ∨ s.g (F.TM_WIDTH.CYCLES k) < s.g (F.TM_PERIOD.CYCLES k)) → ∃ t, exec (.tmStop k v) s = .next t ∧ t.is
    (F.TM_CTL.RUN k) = false ∧ t.is (F.TM_CTL.OUT k) = false ∧ t.is (F.TM_CTL.EN k) = (F.TM_CTL.EN k).is v) ∧
  (∀ (s : State) (k : Nat), k < 16 → s.is (F.TM_CTL.RUN k) = true → s.is (F.TM_CTL.OUT k) = false → s.tmAt k ≤ s.cyc → ∃
    t, exec (.timerOutput k) s = .next t ∧ t.is (F.TM_CTL.OUT k) = true ∧ t.is (F.TM_CTL.RUN k) = true ∧ t.evIn = s.evIn
    ++ [(136 + k, s.cyc)]) ∧
  (∀ (s : State) (k : Nat), s.cyc < s.tmAt k → exec (.timerOutput k) s = .next (s)) ∧
  (∀ (s : State) (k : Nat), k < 16 → s.is (F.TM_CTL.RUN k) = true → s.is (F.TM_CTL.OUT k) = true → s.tmAt k + s.g
    (F.TM_WIDTH.CYCLES k) ≤ s.cyc → ∃ t, exec (.timerWindowEnd k) s = .next t ∧ t.is (F.TM_CTL.OUT k) = false ∧ t.is
    (F.TM_CTL.RUN k) = s.is (F.TM_CTL.MODE k) ∧ t.tmAt k = s.tmAt k + s.g (F.TM_PERIOD.CYCLES k)) ∧
  (∀ (s : State) (k : Nat), s.cyc < s.tmAt k + s.g (F.TM_WIDTH.CYCLES k) → exec (.timerWindowEnd k) s = .next (s)) ∧
  (∀ (s : State) (e i c : Nat) (tr : Bool), s.awake = true → e < 64 → s.evIn = [(i, c)] → (F.EV_CFG.EN e).is (s.evWord
    (R.EV_CFG e) (c + 2)) = true → (i = 256 + e ∨ (i < 256 ∧ s.evSuppressed i (c + 2) = false ∧ s.evBit (R.EV_PMASK e 0) i
    (c + 2) = true)) → s.g (F.EV_CNT.COUNT e) < 2 ^ 31 - 1 → ∃ t, exec (.eventEmit tr) s = .next t ∧ t.is (F.EV_STAT.FLAG
    e) = true ∧ natBits (t.g (F.EV_FLAGS.CH (e / 32))) (e % 32) 1 = 1 ∧ t.g (F.EV_CNT.COUNT e) = s.g (F.EV_CNT.COUNT e) +
    1) ∧
  (∀ (s : State) (e i c n : Nat) (tr : Bool), s.awake = true → e < 64 → s.evIn = [(i, c)] → (F.EV_CFG.EN e).is (s.evWord
    (R.EV_CFG e) (c + 2)) = true → (i = 256 + e ∨ (i < 256 ∧ s.evSuppressed i (c + 2) = false ∧ s.evBit (R.EV_PMASK e 0) i
    (c + 2) = true)) → s.is (F.EV_STAT.FLAG e) = false → (F.EV_CFG.IRQ_EN e).is (s.evWord (R.EV_CFG e) (c + 2)) = true →
    (F.EV_CFG.VEC e).of (s.evWord (R.EV_CFG e) (c + 2)) = n → ∃ t, exec (.eventEmit tr) s = .next t ∧ (s.vec n).cnt + 1 ≤
    (t.vec n).cnt) ∧
  (∀ (s : State) (e i c k : Nat) (tr : Bool), s.awake = true → e < 64 → s.evIn = [(i, c)] → k < 8 → (F.EV_CFG.EN e).is
    (s.evWord (R.EV_CFG e) (c + 2)) = true → (i = 256 + e ∨ (i < 256 ∧ s.evSuppressed i (c + 2) = false ∧ s.evBit
    (R.EV_PMASK e 0) i (c + 2) = true)) → s.evBit (R.EV_CMASK e 0) (28 + k) (c + 2) = true → ∃ t, exec (.eventEmit tr) s =
    .next t ∧ c + 2 + max 1 (s.g F.EV_TRIGOUT_W.VALUE) ≤ t.evPulseEnd k ∧ s.evPulseEnd k ≤ t.evPulseEnd k) ∧
  (∀ (s : State) (e i c : Nat) (tr : Bool), s.awake = true → e < 64 → s.evIn = [(i, c)] → (F.EV_CFG.EN e).is (s.evWord
    (R.EV_CFG e) (c + 2)) = false → ∃ t, exec (.eventEmit tr) s = .next t ∧ t.rd (R.EV_STAT e) = s.rd (R.EV_STAT e) ∧ t.rd
    (R.EV_CNT e) = s.rd (R.EV_CNT e)) ∧
  (∀ (s : State) (i c : Nat), s.awake = true → i < 256 → s.evIn = [(i, c)] → s.evSuppressed i (c + 2) = true → s.g
    F.EV_LOOP.COUNT < 2 ^ 31 - 1 → ∃ t, exec (.eventEmit false) s = .next t ∧ t.g F.EV_LOOP.COUNT = s.g F.EV_LOOP.COUNT +
    1 ∧ t.g F.EV_LOOP_LAST.VALUE = i ∧ ∀ e ∈ List.range 64, t.rd (R.EV_STAT e) = s.rd (R.EV_STAT e)) ∧
  (∀ (s : State), s.evIn = [] → exec (.eventEmit false) s = .next (s)) ∧
  (∀ (s : State) (hi : Bool) (v : Word), Ready s → ∃ t, exec (.evSwset hi v) s = .next t ∧ t.evIn = s.evIn ++ (evNamed hi
    v).map (fun e => (256 + e, s.cyc)) ∧ t.regs = s.regs) ∧
  (∀ (s : State) (d : Nat) (hi : Bool) (v : Word), Ready s → d < 8 → ∃ t, exec (.evdSwset d hi v) s = .next t ∧
    t.evIn.filter (fun e => decide (256 ≤ e.1)) = (s.evIn ++ ((evNamed hi v).filter (s.evMay d)).map (fun e => (256 + e,
    s.cyc))).filter (fun e => decide (256 ≤ e.1)) ∧ t.is F.EV_GSTAT.NONOWNER = (s.is F.EV_GSTAT.NONOWNER || (evNamed hi
    v).any (fun e => !s.evMay d e)) ∧ ∀ e ∈ List.range 64, t.rd (R.EV_STAT e) = s.rd (R.EV_STAT e)) ∧
  (∀ (s : State) (e k : Nat) (v : Word), Ready s → e < 64 → k < 8 → ∃ t, exec (.evConfigWrite e (.pmask k) v) s = .next t
    ∧ t.rd (R.EV_PMASK e k) = v ∧ t.evWord (R.EV_PMASK e k) (s.cyc + 1) = v ∧ t.evWord (R.EV_PMASK e k) s.cyc = s.evWord
    (R.EV_PMASK e k) s.cyc) ∧
  (∀ (s : State) (e : Nat) (v : Word), Ready s → e < 64 → ∃ t, exec (.evConfigWrite e .halls v) s = .next t ∧ t.rd
    (R.EV_HALLS e) = v ∧ t.evWord (R.EV_HALLS e) (s.cyc + 1) = v ∧ t.evWord (R.EV_HALLS e) s.cyc = s.evWord (R.EV_HALLS e)
    s.cyc) ∧
  (∀ (s : State) (e k : Nat) (v : Word), Ready s → e < 64 → k < 5 → v &&& (if k = 0 then 0#32 else if k = 1 then
    0xFFFFFFE0#32 else 0xFFFFFFFF#32) = 0#32 → ∃ t, exec (.evConfigWrite e (.cmask k) v) s = .next t ∧ t.rd (R.EV_CMASK e
    k) = v ∧ t.evWord (R.EV_CMASK e k) (s.cyc + 1) = v ∧ t.evWord (R.EV_CMASK e k) s.cyc = s.evWord (R.EV_CMASK e k)
    s.cyc) ∧
  (∀ (s : State) (e k : Nat) (v : Word), Ready s → e < 64 → k < 5 → v &&& (if k = 0 then 0#32 else if k = 1 then
    0xFFFFFFE0#32 else 0xFFFFFFFF#32) ≠ 0#32 → exec (.evConfigWrite e (.cmask k) v) s = .next (s.p F.EV_GSTAT.CFG_ERR 1)) ∧
  (∀ (s : State) (e : Nat) (v : Word), Ready s → e < 64 → s.is (F.EV_CFG.SECURE e) = true → (F.EV_CFG.OWNER e).of v ≠ 0 →
    exec (.evConfigWrite e .cfg v) s = .next (s.p F.EV_GSTAT.CFG_ERR 1)) ∧
  (∀ (s : State) (e : Nat) (v : Word), Ready s → e < 64 → (s.is (F.EV_CFG.SECURE e) = false ∨ (F.EV_CFG.OWNER e).of v = 0)
    → ∃ t, exec (.evConfigWrite e .cfg v) s = .next t ∧ t.rd (R.EV_CFG e) = (if (F.EV_CFG.SECURE e).is v = true then
    fieldPut 27 3 0 (v &&& 0xFFF80000#32) else v &&& 0xFFF80000#32) ∧ t.evWord (R.EV_CFG e) (s.cyc + 1) = (if
    (F.EV_CFG.SECURE e).is v = true then fieldPut 27 3 0 (v &&& 0xFFF80000#32) else v &&& 0xFFF80000#32) ∧ t.evWord
    (R.EV_CFG e) s.cyc = s.evWord (R.EV_CFG e) s.cyc) ∧
  (∀ (s : State) (e : Nat) (rest : List Nat), s.jnl.markQ = e :: rest → s.recording = true → s.jnl.fifo.length < 2016 →
    s.jnl.lost = 0 → ∃ t, exec .journalMarkDrain s = .next t ∧ t.jnl.markQ = rest ∧ (t.jnl.fifo.getLast?).map (fun x =>
    (x.typ, x.hall, x.subj)) = some (0x60, 0xFF, e) ∧ t.jnl.fifo.take s.jnl.fifo.length = s.jnl.fifo) ∧
  (∀ (s : State), (s.jnl.markQ = [] ∨ s.recording = false ∨ 2016 ≤ s.jnl.fifo.length) → exec .journalMarkDrain s = .next
    (s)) ∧
  (∀ (s : State) (n : Nat), n < 8 → s.evPulseEnd n ≤ s.cyc → ∃ t, exec (.trigoutPulseEnd n none) s = .next t ∧
    t.evPulseEnd n = 0 ∧ ∀ m ∈ List.range 8, m ≠ n → t.evPulseEnd m = s.evPulseEnd m ∧ t.regs = s.regs ∧ t.halls =
    s.halls) ∧
  (∀ (s : State) (n : Nat), s.cyc < s.evPulseEnd n → exec (.trigoutPulseEnd n none) s = .next (s)) ∧
  (∀ (s : State) (h : Nat), h < s.part.halls → ∃ t, exec (.trigoutPulseEnd (s.g (F.FLT_TRIGOUT.PIN h)) (some h)) s = .next
    t ∧ (t.hl h).trigOut = false ∧ t.regs = s.regs ∧ t.evPulse = s.evPulse) ∧
  (∀ (s : State) (h n : Nat), s.g (F.FLT_TRIGOUT.PIN h) ≠ n → exec (.trigoutPulseEnd n (some h)) s = .next (s))

/-- The peer table (R429, R430), fail maps (R427, R428) and dropped frames (R425). -/
def Obligations.GalleryPeers : Prop :=
  (∀ (s : State) (port uid flags epoch i : Nat), s.linkUp port = true → uid < 2 ^ 64 → uid ≠ Config.devUid.toNat → flags <
    256 → epoch < 2 ^ 16 → s.findPeer uid = none → (List.range 64).find? (fun k => (s.peer k).st == 0) = some i → ∃ t,
    exec (.helloRx port uid flags epoch) s = .next t ∧ (t.peer i).st = 1 ∧ (t.peer i).uid = uid ∧ (t.peer i).flags = flags
    ∧ (t.peer i).epoch = epoch ∧ (t.peer i).ports = (s.peer i).ports ||| 2 ^ port) ∧
  (∀ (s : State) (port uid flags epoch i : Nat), s.linkUp port = true → uid < 2 ^ 64 → uid ≠ Config.devUid.toNat → flags <
    256 → epoch < 2 ^ 16 → s.findPeer uid = some i → ((s.peer i).st = 1 ∨ (s.peer i).st = 2) → ∃ t, exec (.helloRx port
    uid flags epoch) s = .next t ∧ (t.peer i).st = (if helloGood flags = true then 2 else 1) ∧ (t.peer i).flags = flags ∧
    (t.peer i).epoch = epoch ∧ (t.peer i).map = (s.peer i).map) ∧
  (∀ (s : State) (port uid flags epoch i : Nat), s.linkUp port = true → uid < 2 ^ 64 → uid ≠ Config.devUid.toNat → flags <
    256 → epoch < 2 ^ 16 → s.findPeer uid = some i → (s.peer i).st = 3 → ∃ t, exec (.helloRx port uid flags epoch) s =
    .next t ∧ (t.peer i).st = (if helloGood flags = true then 3 else 1) ∧ (t.peer i).flags = flags ∧ (t.peer i).epoch =
    epoch) ∧
  (∀ (s : State) (port uid flags epoch i : Nat), s.linkUp port = true → uid < 2 ^ 64 → uid ≠ Config.devUid.toNat → flags <
    256 → epoch < 2 ^ 16 → s.findPeer uid = some i → (s.peer i).st = 4 → ∃ t, exec (.helloRx port uid flags epoch) s =
    .next t ∧ (t.peer i).st = 1 ∧ (t.peer i).flags = flags ∧ (t.peer i).epoch = epoch) ∧
  (∀ (s : State) (port uid flags epoch : Nat), s.linkUp port = true → uid < 2 ^ 64 → uid ≠ Config.devUid.toNat → flags <
    256 → epoch < 2 ^ 16 → s.findPeer uid = none → (List.range 64).find? (fun k => (s.peer k).st == 0) = none → ∃ t, exec
    (.helloRx port uid flags epoch) s = .next t ∧ t.is F.GAL_STAT.TABLE_FULL = true ∧ t.peers = s.peers) ∧
  (∀ (s : State) (port flags epoch : Nat), s.linkUp port = true → exec (.helloRx port Config.devUid.toNat flags epoch) s =
    .next (s)) ∧
  (∀ (s : State) (i : Nat), i < 64 → 1 ≤ (s.peer i).st → (s.peer i).st ≤ 3 → ∃ t, exec (.peerMissed i) s = .next t ∧
    t.peer i = { s.peer i with st := 4 }) ∧
  (∀ (s : State) (i : Nat), ((s.peer i).st = 0 ∨ (s.peer i).st = 4) → exec (.peerMissed i) s = .next (s)) ∧
  (∀ (s : State) (i : Nat), Ready s → i < 64 → (s.peer i).st = 2 → ∃ t, exec (.peerAdmit i) s = .next t ∧ t.peer i =
    { s.peer i with st := 3 } ∧ t.g F.GAL_PEER_IDX.IDX = i) ∧
  (∀ (s : State) (i : Nat), Ready s → i < 64 → (s.peer i).st ≠ 2 → ∃ t, exec (.peerAdmit i) s = .next t ∧ t.peers =
    s.peers ∧ t.is F.GAL_STAT.ADMIT_ERR = true ∧ t.g F.GAL_PEER_IDX.IDX = i) ∧
  (∀ (s : State) (i : Nat), Ready s → i < 64 → ∃ t, exec (.peerRemove i) s = .next t ∧ t.peer i = {} ∧ t.g
    F.GAL_PEER_IDX.IDX = i) ∧
  (∀ (s : State) (uid map i : Nat), s.awake = true → s.findPeer uid = some i → map < 2 ^ 3072 → ∃ t, exec (.failmapRx uid
    map) s = .next t ∧ t.peer i = { s.peer i with map := map }) ∧
  (∀ (s : State) (uid map : Nat), s.findPeer uid = none → exec (.failmapRx uid map) s = .next (s)) ∧
  (∀ (s : State) (port : Nat), s.linkUp port = true → 7 ≤ s.g F.BOOT_STAGE.STAGE → s.g F.BOOT_STAGE.STAGE ≤ 9 → ∃ t, exec (.helloSend port) s = .next t ∧ t.out.length = s.out.length + 1 ∧ (t.out.getLast?).map (fun o => match o with | .frame k p l => (k, p, l.length, (l.drop 12).take 4) | _ => (0, 0, 0, [])) = some (1, port, 60, [0x88, 0xB5, 1, 1]) ∧ t.gal.seqHello = (s.gal.seqHello + 1) % 2 ^ 32 ∧ t.regs = s.regs) ∧
  (∀ (s : State), Ready s → s.linkUp (s.g F.GAL_STAT.ACTIVE) = true → ∃ t, exec .failmapSend s = .next t ∧ t.out.length = s.out.length + 1 ∧ (t.out.getLast?).map (fun o => match o with | .frame k p l => (k, p, l.length, (l.drop 12).take 4) | _ => (0, 0, 0, [])) = some (2, s.g F.GAL_STAT.ACTIVE, 414, [0x88, 0xB5, 1, 2]) ∧ t.gal.seqMap = (s.gal.seqMap + 1) % 2 ^ 32 ∧ t.regs = s.regs) ∧
  (∀ (s : State), s.g F.GAL_RX_DROP.COUNT < 2 ^ 31 - 1 → ∃ t, exec .frameRxDrop s = .next t ∧ t.g F.GAL_RX_DROP.COUNT =
    s.g F.GAL_RX_DROP.COUNT + 1 ∧ t.is F.GAL_RX_DROP.SAT = s.is F.GAL_RX_DROP.SAT ∧ t.peers = s.peers) ∧
  (∀ (s : State), s.g F.GAL_RX_DROP.COUNT = 2 ^ 31 - 1 → ∃ t, exec .frameRxDrop s = .next t ∧ t.g F.GAL_RX_DROP.COUNT = 2
    ^ 31 - 1 ∧ t.is F.GAL_RX_DROP.SAT = true ∧ t.peers = s.peers)

/-- Roles (R431, R432), joining (R434), links (R426) and lines (R433). -/
def Obligations.GalleryRoles : Prop :=
  (∀ (s : State) (v : Word), Ready s → (F.GAL_CFG.ROLE.is v = s.newel ∨ s.quiesced = true) → ∃ t, exec (.roleWrite v) s =
    .next t ∧ t.rd R.GAL_CFG = v &&& (if s.part.galPorts = 2 then 0xFFFFFF0F#32 else 0xFFFFFF05#32)) ∧
  (∀ (s : State) (v : Word), Ready s → F.GAL_CFG.ROLE.is v ≠ s.newel → s.quiesced = false → ∃ t, exec (.roleWrite v) s =
    .next t ∧ t.rd R.GAL_CFG = fieldPut 15 1 s.newel.toNat (v &&& (if s.part.galPorts = 2 then 0xFFFFFF0F#32 else
    0xFFFFFF05#32)) ∧ t.newel = s.newel ∧ t.is F.GAL_STAT.CFG_BUSY = true) ∧
  (∀ (s : State) (port uid flags epoch : Nat), s.linkUp port = true → uid < 2 ^ 64 → uid ≠ Config.devUid.toNat → natBits
    flags 0 1 = 1 → s.newel = true → ∃ t, exec (.helloRx port uid flags epoch) s = .next t ∧ t.is
    F.GAL_STAT.NEWEL_CONFLICT = true ∧ t.newel = decide (Config.devUid.toNat < uid)) ∧
  (∀ (s : State), Ready s → s.is F.REF_STAT.REF_LOCK = true → s.tbSt = tbLocked → exec .galJoin s = .next (s.p
    F.GAL_STAT.JOINED 1)) ∧
  (∀ (s : State), Ready s → (s.is F.REF_STAT.REF_LOCK = false ∨ s.tbSt ≠ tbLocked) → exec .galJoin s = .next (s.p
    F.GAL_STAT.JOIN_ERR 1)) ∧
  (∀ (s : State) (h : Nat), Ready s → s.is F.GAL_STAT.JOINED = true → h < s.part.halls → ∃ t, exec .galLeave s = .next t ∧
    t.is F.GAL_STAT.JOINED = false ∧ (t.hl h).driveLine = none) ∧
  (∀ (s : State), Ready s → s.is F.GAL_STAT.JOINED = false → exec .galLeave s = .next (s)) ∧
  (∀ (s : State) (port : Nat) (up : Bool), port < s.part.galPorts → ∃ t, exec (.galLinkChange port up) s = .next t ∧ t.is
    (if port = 0 then F.GAL_STAT.LINK0 else F.GAL_STAT.LINK1) = up ∧ t.is (if port = 0 then F.GAL_STAT.LINK1 else
    F.GAL_STAT.LINK0) = s.is (if port = 0 then F.GAL_STAT.LINK1 else F.GAL_STAT.LINK0) ∧ t.g F.GAL_STAT.ACTIVE = (if t.is
    F.GAL_STAT.LINK0 = true ∨ s.part.galPorts = 1 then 0 else 1)) ∧
  (∀ (s : State) (port : Nat) (up : Bool), s.part.galPorts ≤ port → exec (.galLinkChange port up) s = .next (s)) ∧
  (∀ (s : State) (sample : Nat), s.awake = true → ∃ t, exec (.gtlRise sample) s = .next t ∧ ∀ n ∈ List.range 8, natBits
    t.gtl n 1 = (if natBits sample n 1 = 1 ∨ s.drivesLine n = true then 1 else 0) ∧ t.evIn = s.evIn ++ ((List.range
    8).filter (fun n => natBits t.gtl n 1 == 1 && natBits s.gtl n 1 == 0)).map (fun n => (216 + n, s.cyc)) ∧ t.regs =
    s.regs)

/-- Time bases (R438, R439, R444), PTP (R440) and the member's states (R441).  The servo's rate and the rounding of the
offset are free values of the model (log entry 4). -/
def Obligations.TimeBasesAndPtp : Prop :=
  (∀ (s : State), Ready s → ∃ t, exec .tbSnap s = .next t ∧ t.rd (R.TBK_SNAP 0 0) = BitVec.ofNat 32 (s.tb0 >>> 16) ∧ t.rd
    (R.TBK_SNAP 0 1) = BitVec.ofNat 32 (s.tb0 >>> 48) ∧ t.rd (R.TBK_SNAP 0 2) = BitVec.ofNat 32 (s.tb0 % 65536) ∧ t.rd
    (R.TBK_SNAP 1 0) = BitVec.ofNat 32 (s.tb1 >>> 16) ∧ t.rd (R.TBK_SNAP 1 1) = BitVec.ofNat 32 (s.tb1 >>> 48) ∧ t.rd
    (R.TBK_SNAP 1 2) = BitVec.ofNat 32 (s.tb1 % 65536) ∧ t.rd (R.TBK_SNAP 2 0) = BitVec.ofNat 32 (s.tb2 >>> 16) ∧ t.rd
    (R.TBK_SNAP 2 1) = BitVec.ofNat 32 (s.tb2 >>> 48) ∧ t.rd (R.TBK_SNAP 2 2) = BitVec.ofNat 32 (s.tb2 % 65536) ∧ t.tb0 =
    s.tb0) ∧
  (∀ (s : State), s.inService = true → natBits (s.tb0 + s.tbAdd.1) 48 32 ≠ natBits s.tb0 48 32 → ∃ t, exec .nsWrap s =
    .next t ∧ t.tb0 = (s.tb0 + s.tbAdd.1) % 2 ^ 80 ∧ t.tb1 = (s.tb1 + 131072) % 2 ^ 80 ∧ t.tb0rem = s.tbAdd.2) ∧
  (∀ (s : State), s.inService = true → natBits (s.tb0 + s.tbAdd.1) 48 32 = natBits s.tb0 48 32 → exec .nsWrap s = .next
    (s)) ∧
  (∀ (s : State), s.newel = true → s.linkUp (s.g F.GAL_STAT.ACTIVE) = true → s.inService = true → exec .ptpSyncSend s =
    .next (s.send (.frame 0x88F700 (s.g F.GAL_STAT.ACTIVE) [s.g F.PTP_CFG.DOMAIN, unsigned 80 s.txStamp]))) ∧
  (∀ (s : State), s.newel = true → s.linkUp (s.g F.GAL_STAT.ACTIVE) = true → s.inService = true → exec .ptpAnnounceSend s
    = .next (s.send (.frame 0x88F70B (s.g F.GAL_STAT.ACTIVE) [s.g F.PTP_CFG.DOMAIN, unsigned 80 s.txStamp]))) ∧
  (∀ (s : State), s.newel = false → s.linkUp (s.g F.GAL_STAT.ACTIVE) = true → s.inService = true → ∃ t, exec
    .ptpDelayReqSend s = .next t ∧ t.gal.reqStamp = some s.txStamp ∧ t.out = s.out ++ [.frame 0x88F701 (s.g
    F.GAL_STAT.ACTIVE) [s.g F.PTP_CFG.DOMAIN, unsigned 80 s.txStamp]] ∧ t.regs = s.regs) ∧
  (∀ (s : State) (port dom : Nat), s.newel = true → s.ptpOk port dom = true → s.inService = true → exec (.ptpDelayReqRx
    port dom) s = .next (s.send (.frame 0x88F709 port [dom, unsigned 80 s.rxStamp]))) ∧
  (∀ (s : State) (port dom : Nat) (stamp t1 t2 t3 : Int), s.newel = false → s.ptpOk port dom = true → s.gal.lastSync =
    some (t1, t2) → s.gal.reqStamp = some t3 → ∃ t, exec (.ptpDelayRespRx port dom stamp) s = .next t ∧ t.gal.delay2 =
    some (stamp - t3 + (t2 - t1)) ∧ t.gal.reqStamp = none ∧ t.regs = s.regs) ∧
  (∀ (s : State) (port dom : Nat) (stamp d2 : Int) (x : PeerX), s.newel = false → s.ptpOk port dom = true → s.gal.delay2 =
    some d2 → s.tbSt = tbUnset → s.newelPeer = some x → natBits x.flags 5 1 = 1 → 7 ≤ s.gal.syncs → x.epoch < 2 ^ 16 → ∃
    t, exec (.ptpSyncRx port dom stamp) s = .next t ∧ t.tbSt = tbTracking ∧ t.tb0 = unsigned 80 ((s.tb0 : Int) + (2 *
    stamp + d2 - 2 * s.rxStamp) / 2) ∧ t.g F.TB0_STAT.EPOCH = x.epoch ∧ t.is F.TB0_STAT.SET = true ∧ t.gal.lastSync = some
    (stamp, s.rxStamp)) ∧
  (∀ (s : State) (port dom : Nat) (stamp d2 : Int), s.newel = false → s.ptpOk port dom = true → s.gal.delay2 = some d2 →
    s.tbSt = tbHoldover → s.epochNewer = false → ∃ t, exec (.ptpSyncRx port dom stamp) s = .next t ∧ t.tbSt = tbTracking ∧
    t.tb0 = s.tb0) ∧
  (∀ (s : State), s.newel = false → (s.tbSt = tbTracking ∨ s.tbSt = tbLocked) → ∃ t, exec .ptpSyncLoss s = .next t ∧
    t.tbSt = tbHoldover ∧ t.is F.GAL_STAT.JOINED = false ∧ t.tb0 = s.tb0) ∧
  (∀ (s : State), (s.newel = true ∨ (s.tbSt ≠ tbTracking ∧ s.tbSt ≠ tbLocked)) → exec .ptpSyncLoss s = .next (s)) ∧
  (∀ (s : State), s.newel = false → exec .ptpSyncSend s = .next (s)) ∧
  (∀ (s : State), s.newel = false → exec .ptpAnnounceSend s = .next (s)) ∧
  (∀ (s : State), s.newel = true → exec .ptpDelayReqSend s = .next (s)) ∧
  (∀ (s : State) (port dom : Nat), (s.newel = false ∨ s.ptpOk port dom = false) → exec (.ptpDelayReqRx port dom) s = .next
    (s)) ∧
  (∀ (s : State) (port dom : Nat) (stamp : Int), (s.newel = true ∨ s.ptpOk port dom = false ∨ s.gal.lastSync = none ∨
    s.gal.reqStamp = none) → exec (.ptpDelayRespRx port dom stamp) s = .next (s)) ∧
  (∀ (s : State) (port dom : Nat) (stamp d2 : Int) (x : PeerX), s.newel = false → s.ptpOk port dom = true → s.gal.delay2 =
    some d2 → s.tbSt = tbUnset → s.newelPeer = some x → natBits x.flags 5 1 = 1 → s.gal.syncs < 7 → ∃ t, exec (.ptpSyncRx
    port dom stamp) s = .next t ∧ t.tbSt = tbUnset ∧ t.tb0 = s.tb0 ∧ t.gal.syncs = s.gal.syncs + 1) ∧
  (∀ (s : State) (port dom : Nat) (stamp d2 : Int), s.newel = false → s.ptpOk port dom = true → s.gal.delay2 = some d2 →
    s.tbSt = tbTracking → s.epochNewer = false → (2 * stamp + d2 - 2 * s.rxStamp).natAbs < 100 * 131072 → ∃ t, exec
    (.ptpSyncRx port dom stamp) s = .next t ∧ t.tbSt = (if s.gal.run < 15 then tbTracking else tbLocked) ∧ (s.gal.run < 15
    → t.gal.run = s.gal.run + 1) ∧ t.tb0 = s.tb0) ∧
  (∀ (s : State) (port dom : Nat) (stamp d2 : Int), s.newel = false → s.ptpOk port dom = true → s.gal.delay2 = some d2 →
    s.tbSt = tbLocked → s.epochNewer = false → 1000 * 131072 < (2 * stamp + d2 - 2 * s.rxStamp).natAbs → ∃ t, exec
    (.ptpSyncRx port dom stamp) s = .next t ∧ t.tbSt = (if s.gal.run < 15 then tbLocked else tbTracking) ∧ (s.gal.run < 15
    → t.gal.run = s.gal.run + 1) ∧ t.tb0 = s.tb0)

/-- TIME_STEP and TIME_RATE (R442, R443), the time-trigger outputs (R445) and the reference clock (R57, R60, R340, R554).
-/
def Obligations.TimeCommands : Prop :=
  (∀ (s : State) (q : Nat) (r : DescRun), Executes s q 23 false r → dUnit r.desc = 0 → dAddr r.desc = 0 → dLen r.desc = 0
    → dscBits r.desc 30 1 7 = 0 → dsc r.desc 31 1 = 0 → dscZeroFrom r.desc 34 = true → s.newel = true → dsc r.desc 32 2 =
    s.g F.TB0_STAT.EPOCH → dscBits r.desc 30 0 1 = 0 → s.tbSt = tbUnset → ∃ t, exec (.timeStep q) s = .next t ∧ t.tb0 =
    dsc r.desc 20 8 * 65536 + dsc r.desc 28 2 ∧ t.is F.TB0_STAT.SET = true ∧ t.tbSt = tbLocked ∧ t.tb0rem = 0 ∧ t.tb1 =
    s.tb1 ∧ t.g F.TB0_STAT.EPOCH = s.g F.TB0_STAT.EPOCH ∧ Completed t q r .ok (timeRes (s.tb0 >>> 16) (s.g
    F.TB0_STAT.EPOCH) 0 0 0)) ∧
  (∀ (s : State) (q : Nat) (r : DescRun), Executes s q 23 false r → dUnit r.desc = 0 → dAddr r.desc = 0 → dLen r.desc = 0
    → dscBits r.desc 30 1 7 = 0 → dsc r.desc 31 1 = 0 → dscZeroFrom r.desc 34 = true → s.newel = true → dsc r.desc 32 2 =
    s.g F.TB0_STAT.EPOCH → dscBits r.desc 30 0 1 = 1 → s.notQuiet = 0 → ∃ t, exec (.timeStep q) s = .next t ∧ t.tb0 = dsc
    r.desc 20 8 * 65536 + dsc r.desc 28 2 ∧ t.g F.TB0_STAT.EPOCH = (s.g F.TB0_STAT.EPOCH + 1) % 2 ^ 16 ∧ ∀ n ∈ List.range
    8, t.is (F.TT_CTL.ARMED n) = false ∧ (s.is (F.TT_CTL.ARMED n) = true → t.is (F.TT_CTL.STEPPED n) = true) ∧ Completed t
    q r .ok (timeRes (s.tb0 >>> 16) (t.g F.TB0_STAT.EPOCH) 0 0 0)) ∧
  (∀ (s : State) (q : Nat) (r : DescRun), Executes s q 23 false r → dUnit r.desc = 0 → dAddr r.desc = 0 → dLen r.desc = 0
    → dscBits r.desc 30 1 7 = 0 → dsc r.desc 31 1 = 0 → dscZeroFrom r.desc 34 = true → s.newel = true → dsc r.desc 32 2 ≠
    s.g F.TB0_STAT.EPOCH → ∃ t, exec (.timeStep q) s = .next t ∧ t.tb0 = s.tb0 ∧ t.regs = s.regs ∧ Completed t q r .stale
    (timeRes 0 (s.g F.TB0_STAT.EPOCH) 1 0 0)) ∧
  (∀ (s : State) (q : Nat) (r : DescRun), Executes s q 23 false r → dUnit r.desc = 0 → dAddr r.desc = 0 → dLen r.desc = 0
    → dscBits r.desc 30 1 7 = 0 → dsc r.desc 31 1 = 0 → dscZeroFrom r.desc 34 = true → s.newel = false → ∃ t, exec
    (.timeStep q) s = .next t ∧ t.tb0 = s.tb0 ∧ t.regs = s.regs ∧ Completed t q r .denied (timeRes 0 (s.g
    F.TB0_STAT.EPOCH) 1 0 0)) ∧
  (∀ (s : State) (q : Nat) (r : DescRun), Executes s q 23 false r → dUnit r.desc = 0 → dAddr r.desc = 0 → dLen r.desc = 0
    → dscBits r.desc 30 1 7 = 0 → dsc r.desc 31 1 = 0 → dscZeroFrom r.desc 34 = true → s.newel = true → dsc r.desc 32 2 =
    s.g F.TB0_STAT.EPOCH → dscBits r.desc 30 0 1 = 0 → s.tbSt ≠ tbUnset → ∃ t, exec (.timeStep q) s = .next t ∧ t.tb0 =
    s.tb0 ∧ t.regs = s.regs ∧ Completed t q r .denied (timeRes 0 (s.g F.TB0_STAT.EPOCH) 2 0 0)) ∧
  (∀ (s : State) (q : Nat) (r : DescRun), Executes s q 23 false r → dUnit r.desc = 0 → dAddr r.desc = 0 → dLen r.desc = 0
    → dscBits r.desc 30 1 7 = 0 → dsc r.desc 31 1 = 0 → dscZeroFrom r.desc 34 = true → s.newel = true → dsc r.desc 32 2 =
    s.g F.TB0_STAT.EPOCH → dscBits r.desc 30 0 1 = 1 → s.notQuiet ≠ 0 → ∃ t, exec (.timeStep q) s = .next t ∧ t.tb0 =
    s.tb0 ∧ t.regs = s.regs ∧ Completed t q r .busy (timeRes 0 (s.g F.TB0_STAT.EPOCH) 1 s.notQuiet 0)) ∧
  (∀ (s : State) (q : Nat) (r : DescRun), Executes s q 24 false r → dUnit r.desc = 0 → dAddr r.desc = 0 → dLen r.desc = 0
    → dscZeroFrom r.desc 24 = true → s.newel = true → (signed 32 (dsc r.desc 20 4)).natAbs ≤ 2147483 → ∃ t, exec
    (.timeRate q) s = .next t ∧ t.g F.TB0_RATE.RATE = dsc r.desc 20 4 ∧ t.tb0 = s.tb0 ∧ Completed t q r .ok (timeRes
    (s.tb0 >>> 16) (s.g F.TB0_STAT.EPOCH) 0 0 (s.g F.TB0_RATE.RATE))) ∧
  (∀ (s : State) (q : Nat) (r : DescRun), Executes s q 24 false r → dUnit r.desc = 0 → dAddr r.desc = 0 → dLen r.desc = 0
    → dscZeroFrom r.desc 24 = true → s.newel = true → 2147483 < (signed 32 (dsc r.desc 20 4)).natAbs → ∃ t, exec
    (.timeRate q) s = .next t ∧ t.tb0 = s.tb0 ∧ t.regs = s.regs ∧ Completed t q r .badlen (timeRes 0 (s.g
    F.TB0_STAT.EPOCH) 1 0 0)) ∧
  (∀ (s : State) (q : Nat) (r : DescRun), Executes s q 24 false r → dUnit r.desc = 0 → dAddr r.desc = 0 → dLen r.desc = 0
    → dscZeroFrom r.desc 24 = true → s.newel = false → ∃ t, exec (.timeRate q) s = .next t ∧ t.tb0 = s.tb0 ∧ t.regs =
    s.regs ∧ Completed t q r .denied (timeRes 0 (s.g F.TB0_STAT.EPOCH) 1 0 0)) ∧
  (∀ (s : State) (n : Nat) (v : Word), Ready s → n < 8 → (F.TT_CTL.ARM n).is v = true → (F.TT_CTL.DISARM n).is v = false →
    s.is (F.TT_CTL.ARMED n) = false → ((F.TT_CTL.MODE n).is v = false ∨ s.g (F.TT_WIDTH.WIDTH n) < s.g (F.TT_PERIOD.PERIOD
    n)) → s.tb0 ≤ s.ttTarget n * 65536 → ∃ t, exec (.ttArm n v) s = .next t ∧ t.is (F.TT_CTL.ARMED n) = true ∧ (t.tt
    n).next = s.ttTarget n ∧ t.is (F.TT_CTL.MODE n) = (F.TT_CTL.MODE n).is v) ∧
  (∀ (s : State) (n : Nat) (v : Word), Ready s → n < 8 → (F.TT_CTL.ARM n).is v = true → (F.TT_CTL.DISARM n).is v = false →
    s.is (F.TT_CTL.ARMED n) = false → (F.TT_CTL.MODE n).is v = false → s.ttTarget n * 65536 < s.tb0 → ∃ t, exec (.ttArm n
    v) s = .next t ∧ t.is (F.TT_CTL.ARMED n) = false ∧ t.is (F.TT_CTL.MISSED n) = true ∧ t.tts = s.tts) ∧
  (∀ (s : State) (n : Nat) (v : Word), Ready s → n < 8 → (F.TT_CTL.ARM n).is v = true → (F.TT_CTL.DISARM n).is v = false →
    s.is (F.TT_CTL.ARMED n) = false → (F.TT_CTL.MODE n).is v = true → s.g (F.TT_WIDTH.WIDTH n) < s.g (F.TT_PERIOD.PERIOD
    n) → s.ttTarget n * 65536 < s.tb0 → ∃ t, exec (.ttArm n v) s = .next t ∧ t.is (F.TT_CTL.ARMED n) = true ∧ t.is
    (F.TT_CTL.MISSED n) = true ∧ (t.tt n).next = ttLater (s.ttTarget n) (s.g (F.TT_PERIOD.PERIOD n)) ((s.tb0 + 65535) /
    65536)) ∧
  (∀ (s : State) (n : Nat) (v : Word), Ready s → n < 8 → (F.TT_CTL.ARM n).is v = true → (F.TT_CTL.DISARM n).is v = false →
    s.is (F.TT_CTL.ARMED n) = false → (F.TT_CTL.MODE n).is v = true → s.g (F.TT_PERIOD.PERIOD n) ≤ s.g (F.TT_WIDTH.WIDTH
    n) → exec (.ttArm n v) s = .next (s)) ∧
  (∀ (s : State) (n : Nat) (v : Word), Ready s → n < 8 → (F.TT_CTL.ARM n).is v = true → (F.TT_CTL.DISARM n).is v = false →
    s.is (F.TT_CTL.ARMED n) = true → exec (.ttArm n v) s = .next (s.p (F.TT_CTL.CFG_BUSY n) 1)) ∧
  (∀ (s : State) (n : Nat) (v : Word), Ready s → n < 8 → (F.TT_CTL.DISARM n).is v = true → s.is (F.TT_CTL.ARMED n) = true
    → ∃ t, exec (.ttDisarm n v) s = .next t ∧ t.is (F.TT_CTL.ARMED n) = false ∧ t.tts = s.tts) ∧
  (∀ (s : State) (n : Nat), n < 8 → s.is (F.TT_CTL.ARMED n) = true → s.ttDue n = true → ∃ t, exec (.ttFire n) s = .next t
    ∧ (t.tt n).pin = true ∧ (t.tt n).fall = s.tb1 + s.g (F.TT_WIDTH.WIDTH n) * 65536 ∧ t.is (F.TT_CTL.ARMED n) = s.is
    (F.TT_CTL.MODE n) ∧ (t.tt n).next = (s.tt n).next + (if s.is (F.TT_CTL.MODE n) = true then s.g (F.TT_PERIOD.PERIOD n)
    else 0)) ∧
  (∀ (s : State) (n : Nat), s.ttDue n = false → exec (.ttFire n) s = .next (s)) ∧
  (∀ (s : State) (n : Nat), n < 8 → (s.tt n).pin = true → (s.tt n).fall ≤ s.tb1 → exec (.ttPulseEnd n) s = .next (s.setTt
    n { s.tt n with pin := false })) ∧
  (∀ (s : State) (n : Nat), s.tb1 < (s.tt n).fall → exec (.ttPulseEnd n) s = .next (s)) ∧
  (∀ (s : State) (h : Nat), s.is F.REF_STAT.REF_PRESENT = true → ∃ t, exec .refclkLoss s = .next t ∧ t.is
    F.REF_STAT.REF_PRESENT = false ∧ t.is F.REF_STAT.REF_LOCK = false ∧ t.is F.REF_STAT.REF_LOST = true ∧ t.is
    F.TB0_STAT.NOREF = true ∧ t.is F.GAL_STAT.JOINED = false ∧ t.noref = true ∧ t.norefEnd = none ∧ (h < s.part.halls ∧
    s.g (F.AXIS_CTL.SRC h) = 0 ∧ s.g (F.AXIS_STAT.STATE h) = axLocked → t.g (F.AXIS_STAT.STATE h) = axHoldover)) ∧
  (∀ (s : State), s.is F.REF_STAT.REF_PRESENT = false → ∃ t, exec .refclkPresent s = .next t ∧ t.is F.REF_STAT.REF_PRESENT
    = true ∧ t.is F.TB0_STAT.NOREF = false ∧ t.noref = s.noref ∧ t.norefEnd = some (s.cyc + 5120)) ∧
  (∀ (s : State), s.is F.REF_STAT.REF_PRESENT = true → ∃ t, exec .refLoopLock s = .next t ∧ t.is F.REF_STAT.REF_LOCK =
    true ∧ t.is F.REF_STAT.REF_LOST = s.is F.REF_STAT.REF_LOST) ∧
  (∀ (s : State), s.is F.REF_STAT.REF_PRESENT = false → exec .refLoopLock s = .next (s))

/-- The collector (R469–R472, R474), wire faults (R473), GRAVE (R477, R478), the log (R479) and FLT_CFG (R469, R472). -/
def Obligations.FaultCollector : Prop :=
  (∀ (s : State) (x : FltIn) (rest : List FltIn), s.boot.vaux = true → s.flt.input = x :: rest → x.src < 381 → s.g
    (F.FLT_CFG.CLASS x.src) = 0 → s.g (F.FLT_CFG.N x.src) = 0 → s.flt.log.length < 64 → s.g (F.FLT_SRC_STAT.COUNT x.src) <
    2 ^ (F.FLT_SRC_STAT.COUNT x.src).len - 1 → ∃ t, exec (.faultOccurrence none) s = .next t ∧ t.flt.input = rest ∧
    t.flt.log = s.flt.log ++ [⟨0, false, x.wire, x.src, s.tb0ns, x.detail, 1⟩] ∧ t.g (F.FLT_SRC_STAT.COUNT x.src) = s.g
    (F.FLT_SRC_STAT.COUNT x.src) + 1 ∧ t.g F.FLT_STATUS.LOG_COUNT = s.flt.log.length + 1 ∧ t.evIn = s.evIn ∧ t.vecs =
    s.vecs ∧ t.alcs = s.alcs) ∧
  (∀ (s : State) (x : FltIn) (rest : List FltIn), s.boot.vaux = true → s.flt.input = x :: rest → x.src < 381 → s.g
    (F.FLT_CFG.CLASS x.src) = 0 → s.g (F.FLT_CFG.N x.src) = 0 → 64 ≤ s.flt.log.length → s.g F.FLT_GRAVE_SRC.LOST < 2 ^
    (F.FLT_GRAVE_SRC.LOST).len - 1 → ∃ t, exec (.faultOccurrence none) s = .next t ∧ t.flt.input = rest ∧ t.flt.log =
    s.flt.log ∧ t.g F.FLT_GRAVE_SRC.LOST = s.g F.FLT_GRAVE_SRC.LOST + 1) ∧
  (∀ (s : State) (i : Nat), s.boot.vaux = true → srcInternal i = true → sourceOk s.part i = true → s.srcMasked i = false →
    s.g (F.FLT_CFG.CLASS i) = 0 → s.g (F.FLT_CFG.N i) = 0 → s.flt.log.length < 64 → ∃ t, exec (.faultOccurrence (some i))
    s = .next t ∧ t.flt.input = s.flt.input ∧ t.flt.log = s.flt.log ++ [⟨0, false, false, i, s.tb0ns, noDetail, 1⟩] ∧
    t.evIn = s.evIn) ∧
  (∀ (s : State) (i : Nat), (srcInternal i = false ∨ s.srcMasked i = true) → exec (.faultOccurrence (some i)) s = .next
    (s)) ∧
  (∀ (s : State), s.flt.input = [] → exec (.faultOccurrence none) s = .next (s)) ∧
  (∀ (s : State) (x : FltIn) (rest : List FltIn), s.boot.vaux = true → s.flt.input = x :: rest → x.src < 381 → s.g
    (F.FLT_CFG.CLASS x.src) = 1 → s.g (F.FLT_CFG.N x.src) = 0 → s.flt.log.length < 64 → ∃ t, exec (.faultOccurrence none)
    s = .next t ∧ t.flt.input.take rest.length = rest ∧ (t.flt.log.getLast?).map (fun e => (e.cls, e.esc, e.src, e.detail,
    e.count)) = some (1, false, x.src, x.detail, 1) ∧ (235, s.cyc) ∈ t.evIn ∧ (s.is F.FLT_CTL.IRQ_MINOR = true → (s.vec
    (s.g F.FLT_CTL.VEC_MINOR)).cnt + 1 ≤ (t.vec (s.g F.FLT_CTL.VEC_MINOR)).cnt)) ∧
  (∀ (s : State) (a : Nat) (x : FltIn) (rest : List FltIn), s.boot.vaux = true → s.flt.input = x :: rest → x.src < 381 →
    s.g (F.FLT_CFG.CLASS x.src) = 1 → s.g (F.FLT_CFG.N x.src) = 0 → x.alcs = [a] → a / 96 < s.part.halls → (s.alcSt (a /
    96) (a % 96) = alcReady ∨ s.alcSt (a / 96) (a % 96) = alcParked) → ∃ t, exec (.faultOccurrence none) s = .next t ∧
    t.alcSt (a / 96) (a % 96) = alcFaulted) ∧
  (∀ (s : State) (x : FltIn) (rest : List FltIn), s.boot.vaux = true → s.flt.input = x :: rest → x.src < 381 → s.g
    (F.FLT_CFG.CLASS x.src) < 3 → s.g (F.FLT_CFG.N x.src) ≠ 0 → s.g (F.FLT_CFG.N x.src) ≤ (s.fltWindow x.src).length →
    s.flt.log.length < 64 → ∃ t, exec (.faultOccurrence none) s = .next t ∧ t.is (F.FLT_SRC_STAT.ESC x.src) = true ∧
    (t.flt.log.getLast?).map (fun e => (e.cls, e.esc, e.src, e.detail, e.count)) = some (s.g (F.FLT_CFG.CLASS x.src) + 1,
    true, x.src, x.detail, (s.fltWindow x.src).length)) ∧
  (∀ (s : State) (u : Nat) (x : FltIn) (rest : List FltIn), s.boot.vaux = true → s.flt.input = x :: rest → x.src < 381 →
    s.g (F.FLT_CFG.CLASS x.src) = 2 → s.g (F.FLT_CFG.N x.src) = 0 → (u, false) ∈ srcUnits s.part x.src → unitPresent
    s.part u = true → s.inTest u = false → ∃ t, exec (.faultOccurrence none) s = .next t ∧ t.g (F.UNIT_STATE.STATE u) = 1
    ∧ t.is (F.UNIT_STATE.C_MAJOR u) = true ∧ (s.is (F.UNIT_STATE.C_MAJOR u) = true ∨ t.g (F.UNIT_STATE.SOURCE u) = x.src)) ∧
  (∀ (s : State) (u : Nat) (x : FltIn) (rest : List FltIn), s.boot.vaux = true → s.flt.input = x :: rest → x.src < 381 →
    s.g (F.FLT_CFG.CLASS x.src) = 3 → u < 53 → unitPresent s.part u = true → ∃ t, exec (.faultOccurrence none) s = .next t
    ∧ t.g (F.UNIT_STATE.STATE u) = 1 ∧ t.is (F.UNIT_STATE.C_GRAVE u) = true ∧ t.is F.FLT_STATUS.GRAVE = true ∧ t.is
    F.FLT_STATUS.BAN_SAFE = false ∧ (s.is F.FLT_STATUS.GRAVE = true ∨ t.g F.FLT_GRAVE_SRC.SOURCE = x.src)) ∧
  (∀ (s : State) (src : Nat), s.boot.vaux = true → src < 381 → sourceOk s.part src = true → s.srcMasked src = false →
    s.flt.wires.any (fun w => w.1 == src) = false → ∃ t, exec (.wireFault src) s = .next t ∧ t.is (F.FLT_SRC_STAT.WIRE
    src) = true ∧ t.is (F.FLT_SRC_STAT.PRESENT src) = true ∧ t.is (F.FLT_SRC_STAT.PRESENT 381) = true ∧ t.flt.wires =
    s.flt.wires ++ [(src, s.is (F.FLT_SRC_STAT.PRESENT src))]) ∧
  (∀ (s : State) (src : Nat), (s.srcMasked src = true ∨ s.flt.wires.any (fun w => w.1 == src) = true) → exec (.wireFault
    src) s = .next (s)) ∧
  (∀ (s : State) (src : Nat) (p : Bool), src < 381 → s.flt.wires.find? (fun w => w.1 == src) = some (src, p) → ∃ t, exec
    (.wireHealthy src) s = .next t ∧ t.is (F.FLT_SRC_STAT.PRESENT src) = p ∧ t.flt.wires = s.flt.wires.filter (fun w =>
    w.1 != src) ∧ t.is (F.FLT_SRC_STAT.PRESENT 381) = !t.flt.wires.isEmpty ∧ t.is (F.FLT_SRC_STAT.WIRE src) = s.is
    (F.FLT_SRC_STAT.WIRE src)) ∧
  (∀ (s : State) (src : Nat), s.flt.wires.find? (fun w => w.1 == src) = none → exec (.wireHealthy src) s = .next (s)) ∧
  (∀ (s : State) (src : Nat) (v : Word), Ready s → src < 512 → 1 ≤ (F.FLT_CFG.W src).of v → (F.FLT_CFG.W src).of v ≤ 60000
    → (srcFixed src = false ∨ (F.FLT_CFG.CLASS src).of v = s.g (F.FLT_CFG.CLASS src)) → ∃ t, exec (.fltCfgWrite src v) s =
    .next t ∧ t.rd (R.FLT_CFG src) = v &&& 0xC0FFFFFF#32 ∧ tabGet (fun _ => []) t.flt.arrivals src = []) ∧
  (∀ (s : State) (src : Nat) (v : Word), Ready s → src < 512 → ((F.FLT_CFG.W src).of v = 0 ∨ 60000 < (F.FLT_CFG.W src).of
    v ∨ (srcFixed src = true ∧ (F.FLT_CFG.CLASS src).of v ≠ s.g (F.FLT_CFG.CLASS src))) → exec (.fltCfgWrite src v) s =
    .next (s.p F.FLT_STATUS.CFG_ERR 1)) ∧
  (∀ (s : State) (path : Path) (e : FltLog) (rest : List FltLog), Ready s → s.flt.log = e :: rest → e.src < 512 → e.cls <
    4 → rest.length < 64 → ∃ t, exec (.fltLogRead path) s = .next t ∧ t.flt.log = rest ∧ t.g F.FLT_STATUS.LOG_COUNT =
    rest.length ∧ t.rd R.FLT_LOG1 = BitVec.ofNat 32 e.tb0 ∧ t.rd R.FLT_LOG2 = BitVec.ofNat 32 e.detail ∧ t.rd R.FLT_LOG3 =
    BitVec.ofNat 32 e.count ∧ tabGet (fun _ => 0) t.rdata path.idx = BitVec.ofNat 32 (pack [(0, 9, e.src), (27, 1,
    e.wire.toNat), (28, 1, e.esc.toNat), (29, 2, e.cls), (31, 1, 1)])) ∧
  (∀ (s : State) (path : Path), Ready s → s.flt.log = [] → ∃ t, exec (.fltLogRead path) s = .next t ∧ tabGet (fun _ => 0)
    t.rdata path.idx = 0 ∧ t.regs = s.regs)

/-- FENCE_UNIT and ADMIT_UNIT (R475, R480–R482) and the banister lines (R478). -/
def Obligations.UnitFencesAndAdmission : Prop :=
  (∀ (s : State) (q : Nat) (r : DescRun), Executes s q 21 false r → dscBits r.desc 20 1 7 = 0 → dscZeroFrom r.desc 21 =
    true → dAddr r.desc = 0 → dLen r.desc = 0 → dUnit r.desc < 53 → unitPresent s.part (dUnit r.desc) = true → r.owns
    (dUnit r.desc) = true → dscBits r.desc 20 0 1 = 0 → s.g (F.UNIT_STATE.STATE (dUnit r.desc)) = 0 → s.admitOf (dUnit
    r.desc) false = none → s.inTest (dUnit r.desc) = false → r.did ∉ s.unitDids → ∃ t, exec (.fenceUnit q) s = .next t ∧
    t.g (F.UNIT_STATE.STATE (dUnit r.desc)) = 1 ∧ t.is (F.UNIT_STATE.C_HOST (dUnit r.desc)) = true ∧ Completed t q r .ok
    (unitRes (dUnit r.desc) 1 0 0 0)) ∧
  (∀ (s : State) (q : Nat) (r : DescRun), Executes s q 21 false r → dscBits r.desc 20 1 7 = 0 → dscZeroFrom r.desc 21 =
    true → dAddr r.desc = 0 → dLen r.desc = 0 → dUnit r.desc < 53 → unitPresent s.part (dUnit r.desc) = true → r.owns
    (dUnit r.desc) = true → dscBits r.desc 20 0 1 = 1 → dUnit r.desc < 32 → s.g (F.UNIT_STATE.STATE (dUnit r.desc)) = 0 →
    s.is (F.UNIT_STATE.HSE_FENCED (dUnit r.desc)) = false → s.admitOf (dUnit r.desc) true = none → r.did ∉ s.unitDids → ∃
    t, exec (.fenceUnit q) s = .next t ∧ t.is (F.UNIT_STATE.HSE_FENCED (dUnit r.desc)) = true ∧ t.g (F.UNIT_STATE.STATE
    (dUnit r.desc)) = 0 ∧ Completed t q r .ok (unitRes (dUnit r.desc) 1 0 0 0)) ∧
  (∀ (s : State) (q : Nat) (r : DescRun), Executes s q 21 false r → dscBits r.desc 20 1 7 = 0 → dscZeroFrom r.desc 21 =
    true → dAddr r.desc = 0 → dLen r.desc = 0 → dUnit r.desc < 53 → unitPresent s.part (dUnit r.desc) = true → r.owns
    (dUnit r.desc) = true → s.g (F.UNIT_STATE.STATE (dUnit r.desc)) = 1 → s.admitOf (dUnit r.desc) (decide (dscBits r.desc
    20 0 1 = 1)) = none → (dscBits r.desc 20 0 1 = 0 ∨ dUnit r.desc < 32) → ∃ t, exec (.fenceUnit q) s = .next t ∧ t.regs
    = s.regs ∧ Completed t q r .ok (unitRes (dUnit r.desc) 1 1 0 0)) ∧
  (∀ (s : State) (q : Nat) (r : DescRun), Executes s q 21 false r → dscBits r.desc 20 1 7 = 0 → dscZeroFrom r.desc 21 =
    true → dAddr r.desc = 0 → dLen r.desc = 0 → dUnit r.desc < 53 → unitPresent s.part (dUnit r.desc) = true → r.owns
    (dUnit r.desc) = true → (dscBits r.desc 20 0 1 = 0 ∨ dUnit r.desc < 32) → s.g (F.UNIT_STATE.STATE (dUnit r.desc)) = 2
    → ∃ t, exec (.fenceUnit q) s = .next t ∧ t.regs = s.regs ∧ t.admits = s.admits ∧ Completed t q r .busy (unitRes (dUnit
    r.desc) 0 1 0 0)) ∧
  (∀ (s : State) (q : Nat) (r : DescRun), Executes s q 22 false r → dscBits r.desc 20 1 7 = 0 → dscZeroFrom r.desc 21 =
    true → dAddr r.desc = 0 → dLen r.desc = 0 → dUnit r.desc < 53 → unitPresent s.part (dUnit r.desc) = true → r.owns
    (dUnit r.desc) = true → (dscBits r.desc 20 0 1 = 0 ∨ dUnit r.desc < 32) → s.g (F.UNIT_STATE.STATE (dUnit r.desc)) = 2
    → ∃ t, exec (.admitUnit q) s = .next t ∧ t.regs = s.regs ∧ t.admits = s.admits ∧ Completed t q r .busy (unitRes (dUnit
    r.desc) 0 1 0 0)) ∧
  (∀ (s : State) (q : Nat) (r : DescRun), Executes s q 22 false r → dscBits r.desc 20 1 7 = 0 → dscZeroFrom r.desc 21 =
    true → dAddr r.desc = 0 → dLen r.desc = 0 → dUnit r.desc < 53 → unitPresent s.part (dUnit r.desc) = true → r.owns
    (dUnit r.desc) = true → dscBits r.desc 20 0 1 = 0 → s.g (F.UNIT_STATE.STATE (dUnit r.desc)) = 1 → s.admitOf (dUnit
    r.desc) false = none → s.is F.FLT_STATUS.GRAVE = false → s.holding (dUnit r.desc) false = none → ∃ t, exec (.admitUnit
    q) s = .next t ∧ t.g (F.UNIT_STATE.STATE (dUnit r.desc)) = 2 ∧ t.admitOf (dUnit r.desc) false = some ⟨r.did, dUnit
    r.desc, false⟩ ∧ (t.queue q).run = some { r with acted := true }) ∧
  (∀ (s : State) (q : Nat) (r : DescRun), Executes s q 22 false r → dscBits r.desc 20 1 7 = 0 → dscZeroFrom r.desc 21 =
    true → dAddr r.desc = 0 → dLen r.desc = 0 → dUnit r.desc < 53 → unitPresent s.part (dUnit r.desc) = true → r.owns
    (dUnit r.desc) = true → dscBits r.desc 20 0 1 = 1 → dUnit r.desc < 32 → s.g (F.UNIT_STATE.STATE (dUnit r.desc)) ≠ 2 →
    s.is (F.UNIT_STATE.HSE_FENCED (dUnit r.desc)) = true → s.admitOf (dUnit r.desc) true = none → s.is F.FLT_STATUS.GRAVE
    = false → s.holding (dUnit r.desc) true = none → ∃ t, exec (.admitUnit q) s = .next t ∧ t.regs = s.regs ∧ t.admitOf
    (dUnit r.desc) true = some ⟨r.did, dUnit r.desc, true⟩ ∧ (t.queue q).run = some { r with acted := true }) ∧
  (∀ (s : State) (q i : Nat) (r : DescRun), Executes s q 22 false r → dscBits r.desc 20 1 7 = 0 → dscZeroFrom r.desc 21 =
    true → dAddr r.desc = 0 → dLen r.desc = 0 → dUnit r.desc < 53 → unitPresent s.part (dUnit r.desc) = true → r.owns
    (dUnit r.desc) = true → dscBits r.desc 20 0 1 = 0 → s.g (F.UNIT_STATE.STATE (dUnit r.desc)) = 1 → s.admitOf (dUnit
    r.desc) false = none → s.is F.FLT_STATUS.GRAVE = false → s.holding (dUnit r.desc) false = some i → ∃ t, exec
    (.admitUnit q) s = .next t ∧ t.regs = s.regs ∧ t.admits = s.admits ∧ Completed t q r .faulted (unitRes (dUnit r.desc)
    1 1 i 0)) ∧
  (∀ (s : State) (q : Nat) (r : DescRun), Executes s q 22 false r → dscBits r.desc 20 1 7 = 0 → dscZeroFrom r.desc 21 =
    true → dAddr r.desc = 0 → dLen r.desc = 0 → dUnit r.desc < 53 → unitPresent s.part (dUnit r.desc) = true → r.owns
    (dUnit r.desc) = true → dscBits r.desc 20 0 1 = 0 → s.g (F.UNIT_STATE.STATE (dUnit r.desc)) = 1 → s.admitOf (dUnit
    r.desc) false = none → s.is F.FLT_STATUS.GRAVE = true → ∃ t, exec (.admitUnit q) s = .next t ∧ t.regs = s.regs ∧
    t.admits = s.admits ∧ Completed t q r .faulted (unitRes (dUnit r.desc) 1 2 0 0)) ∧
  (∀ (s : State) (q : Nat) (r : DescRun), Executes s q 22 false r → dscBits r.desc 20 1 7 = 0 → dscZeroFrom r.desc 21 =
    true → dAddr r.desc = 0 → dLen r.desc = 0 → dUnit r.desc < 53 → unitPresent s.part (dUnit r.desc) = true → r.owns
    (dUnit r.desc) = true → (dscBits r.desc 20 0 1 = 0 ∨ dUnit r.desc < 32) → s.g (F.UNIT_STATE.STATE (dUnit r.desc)) = 0
    → s.admitOf (dUnit r.desc) (decide (dscBits r.desc 20 0 1 = 1)) = none → (dscBits r.desc 20 0 1 = 1 → s.is
    (F.UNIT_STATE.HSE_FENCED (dUnit r.desc)) = false) → ∃ t, exec (.admitUnit q) s = .next t ∧ t.regs = s.regs ∧ t.admits
    = s.admits ∧ Completed t q r .ok (unitRes (dUnit r.desc) 0 1 0 0)) ∧
  (∀ (s : State) (u q us : Nat) (a : AdmitX) (r : DescRun), u < 53 → s.admitOf u false = some a → us ≤ 2500 → s.queueOf
    a.did = some q → (s.queue q).run = some r → a.unit = u → ∃ t, exec (.warmingDone u false true us) s = .next t ∧ t.g
    (F.UNIT_STATE.STATE u) = 0 ∧ t.is (F.UNIT_STATE.C_MAJOR u) = false ∧ t.is (F.UNIT_STATE.C_HOST u) = false ∧ t.is
    (F.UNIT_STATE.C_GRAVE u) = false ∧ t.is (F.UNIT_STATE.C_SHUTDOWN u) = false ∧ Completed t q r .ok (unitRes u 0 0 0
    us)) ∧
  (∀ (s : State) (u q us : Nat) (a : AdmitX) (r : DescRun), u < 53 → s.admitOf u false = some a → us ≤ 2500 → s.queueOf
    a.did = some q → (s.queue q).run = some r → a.unit = u → ∃ t, exec (.warmingDone u false false us) s = .next t ∧ t.g
    (F.UNIT_STATE.STATE u) = 1 ∧ Completed t q r .faulted (unitRes u 1 3 0 us)) ∧
  (∀ (s : State) (u q us : Nat) (pass : Bool) (a : AdmitX) (r : DescRun), u < 32 → s.admitOf u true = some a → us ≤ 2500 →
    s.queueOf a.did = some q → (s.queue q).run = some r → a.unit = u → ∃ t, exec (.warmingDone u true pass us) s = .next t
    ∧ t.is (F.UNIT_STATE.HSE_FENCED u) = (s.is (F.UNIT_STATE.HSE_FENCED u) && !pass) ∧ t.g (F.UNIT_STATE.STATE u) = s.g
    (F.UNIT_STATE.STATE u) ∧ Completed t q r (if pass = true then .ok else .faulted) (if pass = true then unitRes u 0 0 0
    us else unitRes u 1 3 0 us)) ∧
  (∀ (s : State) (u us : Nat) (sub pass : Bool), s.admitOf u sub = none → exec (.warmingDone u sub pass us) s = .next (s)) ∧
  (∀ (s : State) (v : Word), Ready s → F.FLT_CTL.RELEASE_SAFE.is v = true → s.g F.BOOT_STAGE.STAGE = 8 → s.is
    F.FLT_STATUS.GRAVE = false → (F.FLT_CTL.BANIN_EN.is v = false ∨ s.is F.FLT_STATUS.BANIN_SAFE = true) → ∃ t, exec
    (.releaseSafe v) s = .next t ∧ t.is F.FLT_STATUS.RELEASED = true ∧ t.is F.FLT_STATUS.BAN_SAFE = true ∧ t.is
    F.FLT_STATUS.RELEASE_REFUSED = s.is F.FLT_STATUS.RELEASE_REFUSED) ∧
  (∀ (s : State) (v : Word), Ready s → F.FLT_CTL.RELEASE_SAFE.is v = true → ¬(s.g F.BOOT_STAGE.STAGE = 8 ∧ s.is
    F.FLT_STATUS.GRAVE = false ∧ (F.FLT_CTL.BANIN_EN.is v = false ∨ s.is F.FLT_STATUS.BANIN_SAFE = true)) → ∃ t, exec
    (.releaseSafe v) s = .next t ∧ t.is F.FLT_STATUS.RELEASE_REFUSED = true ∧ t.is F.FLT_STATUS.BAN_SAFE = false ∧ t.is
    F.FLT_STATUS.RELEASED = false) ∧
  (∀ (s : State), s.is F.FLT_CTL.BANIN_EN = true → ∃ t, exec .baninUnsafe s = .next t ∧ t.is F.FLT_STATUS.BANIN_SAFE =
    false ∧ t.is F.FLT_STATUS.BAN_SAFE = false ∧ t.is F.FLT_STATUS.RELEASED = false) ∧
  (∀ (s : State), s.is F.FLT_CTL.BANIN_EN = false → ∃ t, exec .baninUnsafe s = .next t ∧ t.is F.FLT_STATUS.BANIN_SAFE =
    false ∧ t.is F.FLT_STATUS.RELEASED = (s.is F.FLT_STATUS.RELEASED && s.banOk) ∧ t.is F.FLT_STATUS.BAN_SAFE = t.is
    F.FLT_STATUS.RELEASED) ∧
  (∀ (s : State), ∃ t, exec .baninReturnSafe s = .next t ∧ t.is F.FLT_STATUS.BANIN_SAFE = true ∧ t.is
    F.FLT_STATUS.RELEASED = (s.is F.FLT_STATUS.RELEASED && t.banOk) ∧ t.is F.FLT_STATUS.BAN_SAFE = t.is
    F.FLT_STATUS.RELEASED)

/-- The housekeeping round (R449), levels (R452, R454), the shutdown threshold (R461), returning sensors (R460), the
shutdown (R462, R464) and the end of COOLED (R14, R464). -/
def Obligations.ThermalControl : Prop :=
  (∀ (s : State) (data : List (Bool × Int)) (i : Nat) (k : Bool) (v : Int), data.length = 64 → s.hkRuns = true → i < 64 →
    hkOk s.part i = true → data[i]? = some (k, v) → ∃ t, exec (.hkRoundEnd data) s = .next t ∧ t.is (F.HK_DATA.VALID i) =
    (if i < 40 then tempOk (k, v) else k) ∧ t.g (F.HK_DATA.VALUE i) = unsigned 16 v ∧ t.g F.HK_ROUND.COUNT = (s.g
    F.HK_ROUND.COUNT + 1) % 2 ^ 32 ∧ t.therm.roundLevel = t.g F.THERM_STAT.LEVEL) ∧
  (∀ (s : State) (data : List (Bool × Int)), (data.length ≠ 64 ∨ s.hkRuns = false) → exec (.hkRoundEnd data) s = .next
    (s)) ∧
  (∀ (s : State) (v : Word), s.inService = true → ∃ t, exec (.lvlFloorWrite v) s = .next t ∧ t.g F.THERM_STAT.LEVEL = max
    (if (s.flag 3).set = true then 3 else if (s.flag 2).set = true then 2 else if (s.flag 1).set = true then 1 else 0)
    (F.THERM_CTL.LVL_FLOOR.of v) ∧ t.is F.THERM_STAT.LEVEL_CHG = (s.is F.THERM_STAT.LEVEL_CHG || t.g F.THERM_STAT.LEVEL !=
    s.g F.THERM_STAT.LEVEL) ∧ t.g F.THERM_CTL.LVL_FLOOR = F.THERM_CTL.LVL_FLOOR.of v) ∧
  (∀ (s : State) (v : Word), s.inService = true → F.TSD_CFG.TSD.of v ≤ 125 → s.g F.TH_CFG.TH3 < F.TSD_CFG.TSD.of v → s.g
    F.TH_CFG.TRST < F.TSD_CFG.TSD.of v → ∃ t, exec (.tsdWrite v) s = .next t ∧ t.rd R.TSD_CFG = v &&& 0xFF#32) ∧
  (∀ (s : State) (v : Word), s.inService = true → ¬(F.TSD_CFG.TSD.of v ≤ 125 ∧ s.g F.TH_CFG.TH3 < F.TSD_CFG.TSD.of v ∧ s.g
    F.TH_CFG.TRST < F.TSD_CFG.TSD.of v) → exec (.tsdWrite v) s = .next (s.p F.THERM_STAT.CFG_ERR 1)) ∧
  (∀ (s : State) (i : Nat) (hi : Bool) (v : Word), s.inService = true → i < 40 → hi = decide (32 ≤ i) → natBits v.toNat (i
    % 32) 1 = 1 → (s.sens i).failed = true → 8 ≤ (s.sens i).good → ∃ t, exec (.tsReturn hi v) s = .next t ∧ (t.sens
    i).failed = false ∧ natBits (t.g (if hi = true then F.TS_FAIL_HI.FAIL else F.TS_FAIL_LO.FAIL)) (i % 32) 1 = 0 ∧ t.is
    (F.HK_DATA.FAILED i) = false) ∧
  (∀ (s : State) (i : Nat) (hi : Bool) (v : Word), s.inService = true → ¬(hi = decide (32 ≤ i) ∧ natBits v.toNat (i % 32)
    1 = 1 ∧ (s.sens i).failed = true ∧ 8 ≤ (s.sens i).good) → ∃ t, exec (.tsReturn hi v) s = .next t ∧ t.sens i = s.sens
    i) ∧
  (∀ (s : State), s.g F.BOOT_STAGE.STAGE = 9 → s.isFresh F.THERM_STAT.SD_SEEN = false → ∃ t, exec .sdSeenClear s = .next t
    ∧ t.is F.THERM_STAT.SD_SEEN = false ∧ t.g F.BOOT_STAGE.STAGE = 8 ∧ t.is F.THERM_STAT.COOLED = false) ∧
  (∀ (s : State), s.g F.BOOT_STAGE.STAGE = 8 → s.isFresh F.THERM_STAT.SD_SEEN = false → exec .sdSeenClear s = .next (s.p
    F.THERM_STAT.SD_SEEN 0)) ∧
  (∀ (s : State), s.isFresh F.THERM_STAT.SD_SEEN = true → exec .sdSeenClear s = .next (s)) ∧
  (∀ (s : State) (i : Nat), s.boot.vaux = true → sensOk s.part i = true → (s.sens i).failed = false → exec
    (.sdComparatorTrip i) s = .next ({ s with sdPend := true })) ∧
  (∀ (s : State) (i : Nat), (sensOk s.part i = false ∨ (s.sens i).failed = true) → exec (.sdComparatorTrip i) s = .next
    (s)) ∧
  (∀ (s : State) (h c : Nat), s.sdPend = true → s.awake = true → h < s.part.halls → c < 32 → ∃ t, exec .thermalShutdown s
    = .next t ∧ t.is F.THERM_STAT.SHUTDOWN = true ∧ t.is F.THERM_STAT.SD_SEEN = true ∧ t.sdPend = false ∧ t.is
    F.FLT_STATUS.BAN_SAFE = false ∧ t.is (F.PE_STAT.SAFE h c) = true ∧ t.therm.sdTb1 = natBits s.tb1 16 48 ∧ t.therm.cool
    = none) ∧
  (∀ (s : State), (s.sdPend = false ∨ s.awake = false) → exec .thermalShutdown s = .next (s))

/-- INDEX_GAP (R489), slices in gaps (R486–R488), and the steps of a walk (R484, R490, R499). -/
def Obligations.GapsAndSlices : Prop :=
  (∀ (s : State) (q : Nat) (r : DescRun), Executes s q 9 false r → dUnit r.desc = 0 → dAddr r.desc = 0 → dLen r.desc = 0 →
    dsc r.desc 26 2 = 0 → dscZeroFrom r.desc 32 = true → dsc r.desc 28 4 ≠ 0 → dsc r.desc 28 4 ≤ 10000000 → maskUnits
    r.desc 20 (some 24) ≠ [] → s.unitsAbsent (maskUnits r.desc 20 (some 24)) = false → r.ownsAll (53 :: maskUnits r.desc
    20 (some 24)) = true → ∃ t, exec (.indexGap q) s = .next t ∧ (((maskUnits r.desc 20 (some 24)).filter (fun u =>
    !(s.fenced u || (if u < 32 then s.hallRun u else s.claimed (u - 32))))).all fun u => t.winLeft u == some (500 * dsc
    r.desc 28 4)) = true ∧ (((maskUnits r.desc 20 (some 24)).filter (fun u => s.fenced u || (if u < 32 then s.hallRun u
    else s.claimed (u - 32)))).all fun u => t.winLeft u == s.winLeft u) = true ∧ t.regs = s.regs ∧ Completed t q r .ok
    [(8, 4, maskOf (((maskUnits r.desc 20 (some 24)).filter (fun u => !(s.fenced u || (if u < 32 then s.hallRun u else
    s.claimed (u - 32))))).filter (· < 32))), (12, 4, maskOf (((maskUnits r.desc 20 (some 24)).filter (fun u => s.fenced u
    || (if u < 32 then s.hallRun u else s.claimed (u - 32)))).filter (· < 32))), (16, 2, maskOf ((((maskUnits r.desc 20
    (some 24)).filter (fun u => !(s.fenced u || (if u < 32 then s.hallRun u else s.claimed (u - 32))))).filter (32 ≤
    ·)).map (· - 32))), (18, 2, maskOf ((((maskUnits r.desc 20 (some 24)).filter (fun u => s.fenced u || (if u < 32 then
    s.hallRun u else s.claimed (u - 32)))).filter (32 ≤ ·)).map (· - 32))), (20, 4, s.tb0ns)]) ∧
  (∀ (s : State) (q : Nat) (r : DescRun), Executes s q 9 false r → (dsc r.desc 28 4 = 0 ∨ 10000000 < dsc r.desc 28 4) → ∃
    t, exec (.indexGap q) s = .next t ∧ t.cal = s.cal ∧ t.regs = s.regs ∧ Completed t q r .badop []) ∧
  (∀ (s : State) (u : Nat), s.winLeft u = some 0 → ∃ t, exec (.indexGapClose u) s = .next t ∧ t.winOpen u = false ∧
    t.cal.wins = s.cal.wins.filter (fun w => w.1 != u) ∧ t.regs = s.regs ∧ t.mem = s.mem) ∧
  (∀ (s : State) (u : Nat), s.winLeft u ≠ some 0 → exec (.indexGapClose u) s = .next (s)) ∧
  (∀ (s : State) (u item chans : Nat) (p : CalPart) (x : Gap), s.awake = true → s.calPart u item = some p → s.gap u = some
    x → 0 < chans → chans < 2 ^ unitChans u → (maskList 32 chans).length ≤ itemChans item → chans &&& p.mask = 0 → chans
    &&& x.chans = chans → s.sliceOf u = none → (u < 32 && s.hallMeasures u) = false → s.inTest u = false → s.gapFits x
    item = true → u < 32 + s.part.groups → (32 ≤ u ∨ u < s.part.halls) → ∃ t, exec (.calSliceStart u item chans) s = .next
    t ∧ t.sliceOf u = some ⟨u, item, chans, false⟩ ∧ t.is (if u < 32 then F.CAL_HALL.SLICE u else F.CAL_GRP.SLICE (u -
    32)) = true ∧ t.mem = s.mem ∧ t.calPart u item = some p) ∧
  (∀ (s : State) (u item chans : Nat), (s.awake = false ∨ s.calPart u item = none ∨ s.gap u = none ∨ s.sliceOf u ≠ none ∨
    (u < 32 ∧ s.hallMeasures u = true) ∨ s.inTest u = true ∨ (s.gap u).map (fun x => s.gapFits x item) = some false) →
    exec (.calSliceStart u item chans) s = .next (s)) ∧
  (∀ (s : State) (u : Nat) (ms : List (Int × Int × Int)) (x : SliceX) (p : CalPart), unitPresent s.part u = true → u < 48
    → s.sliceOf u = some x → x.unit = u → s.calPart u x.item = some p → ms.length = ((maskList 32 x.chans).flatMap
    (s.itemAddrs u x.item)).length → p.mask ||| x.chans ≠ 2 ^ unitChans u - 1 → ∃ t, exec (.calSliceEnd u ms) s = .next t
    ∧ t.sliceOf u = none ∧ t.is (if u < 32 then F.CAL_HALL.SLICE u else F.CAL_GRP.SLICE (u - 32)) = false ∧ (t.calPart u
    x.item).map (·.mask) = some (p.mask ||| x.chans)) ∧
  (∀ (s : State) (u : Nat) (m1 m2 v : Int) (x : SliceX) (p : CalPart), u < s.part.halls → s.sliceOf u = some x → x.unit =
    u → x.item = 3 → (maskList 32 x.chans).length = 1 → s.calPart u 3 = some p → p.unit = u → p.item = 3 → p.ok = true →
    p.mask ||| x.chans = 2 ^ 32 - 1 → ∃ t, exec (.calSliceEnd u [(m1, m2, v)]) s = .next t ∧ t.sliceOf u = none ∧
    t.calPart u 3 = none ∧ (natBits (t.g (F.CAL_HALL.PASS u)) 3 1 = 1 ↔ natBits (t.g (F.CAL_HALL.FAIL u)) 3 1 = 0) ∧
    (natBits (t.g (F.CAL_HALL.PASS u)) 3 1 = 1 → m1 - m2 ≤ 3 ∧ m2 - m1 ≤ 3)) ∧
  (∀ (s : State) (u : Nat) (ms : List (Int × Int × Int)) (x : SliceX), unitPresent s.part u = true → u < 48 → s.sliceOf u
    = some x → x.unit = u → s.cal.run = none → ∃ t, exec (.calSliceEnd u ms) s = .next t ∧ t.sliceOf u = none ∧ t.is (if u
    < 32 then F.CAL_HALL.SLICE u else F.CAL_GRP.SLICE (u - 32)) = false) ∧
  (∀ (s : State) (u : Nat) (ms : List (Int × Int × Int)), s.sliceOf u = none → exec (.calSliceEnd u ms) s = .next (s)) ∧
  (∀ (s : State) (h c : Nat), h < s.part.halls → c < 32 → s.awake = true → s.g (F.UNIT_STATE.STATE h) = 0 → s.cal.pend =
    [calHallRec h c] → s.stepDue h = true → s.calLive (calHallRec h c) < s.calTarget (calHallRec h c) → ∃ t, exec
    (.walkStep h) s = .next t ∧ t.g (F.DESKEW.TAPS h c) = s.g (F.DESKEW.TAPS h c) + 1 ∧ t.calTarget (calHallRec h c) =
    s.calTarget (calHallRec h c) ∧ t.is (F.CAL_HALL.WALK h) = decide ((s.g (F.DESKEW.TAPS h c) : Int) + 1 ≠ s.calTarget
    (calHallRec h c)) ∧ tabGet (fun _ => 0) (t.ax h).deskewUse c = s.g (F.DESKEW.TAPS h c) + 1) ∧
  (∀ (s : State) (h c : Nat), h < s.part.halls → c < 32 → s.awake = true → s.g (F.UNIT_STATE.STATE h) = 0 → s.cal.pend =
    [calHallRec h c] → s.stepDue h = true → s.calTarget (calHallRec h c) < s.calLive (calHallRec h c) → ∃ t, exec
    (.walkStep h) s = .next t ∧ t.g (F.DESKEW.TAPS h c) + 1 = s.g (F.DESKEW.TAPS h c) ∧ t.calTarget (calHallRec h c) =
    s.calTarget (calHallRec h c) ∧ tabGet (fun _ => 0) (t.ax h).deskewUse c + 1 = s.g (F.DESKEW.TAPS h c)) ∧
  (∀ (s : State) (k j : Nat), k < 4 * s.part.groups → k < 64 → j < 56 → s.awake = true → s.g (F.UNIT_STATE.STATE (32 + k /
    4)) = 0 → s.cal.pend = [calSmuRec k + 2 * j] → ∃ t, exec (.walkStep (32 + k / 4)) s = .next t ∧ t.calLive (calSmuRec k
    + 2 * j) = s.calTarget (calSmuRec k + 2 * j) ∧ t.cal.pend = [] ∧ t.is (F.CAL_GRP.WALK (k / 4)) = false ∧ t.is
    F.CAL_STAT.WALKING = false ∧ t.mem = s.mem) ∧
  (∀ (s : State) (u : Nat), s.g (F.UNIT_STATE.STATE u) = 1 → exec (.walkStep u) s = .next (s))

/-- CAL_RUN (R493, R494) and the calibration image (R495, R496). Self-tests (R476, R497, R498). -/
def Obligations.CalibrationAndTests : Prop :=
  (∀ (s : State) (q : Nat) (r : DescRun), Executes s q 11 false r → dUnit r.desc = 0 → dAddr r.desc = 0 → dLen r.desc = 0
    → dscBits r.desc 20 5 3 = 0 → dsc r.desc 21 1 = 0 → dscZeroFrom r.desc 30 = true → 0 < dsc r.desc 22 2 → dscBits
    r.desc 20 0 5 ≠ 0 → (dscBits r.desc 20 0 5 % 16 ≠ 0 ↔ dsc r.desc 24 4 ≠ 0) → (16 ≤ dscBits r.desc 20 0 5 ↔ dsc r.desc
    28 2 ≠ 0) → s.unitsAbsent (maskUnits r.desc 24 (some 28)) = false → r.ownsAll (53 :: maskUnits r.desc 24 (some 28)) =
    true → s.is F.CAL_STAT.RUNNING = false → s.is F.CAL_STAT.RESTORING = false → ∃ t, exec (.calRun q) s = .next t ∧ t.is
    F.CAL_STAT.RUNNING = true ∧ t.cal.run.map (fun x => (x.did, x.items, x.halls, x.groups, x.changed, x.due)) = some
    (r.did, dscBits r.desc 20 0 5, dsc r.desc 24 4, dsc r.desc 28 2, false, s.tb1 + dsc r.desc 22 2 * 1000000 * 65536) ∧
    (t.queue q).run = some { r with acted := true } ∧ t.mem = s.mem) ∧
  (∀ (s : State) (q : Nat) (r : DescRun), Executes s q 11 false r → dUnit r.desc = 0 → dAddr r.desc = 0 → dLen r.desc = 0
    → dscBits r.desc 20 5 3 = 0 → dsc r.desc 21 1 = 0 → dscZeroFrom r.desc 30 = true → 0 < dsc r.desc 22 2 → dscBits
    r.desc 20 0 5 ≠ 0 → (dscBits r.desc 20 0 5 % 16 ≠ 0 ↔ dsc r.desc 24 4 ≠ 0) → (16 ≤ dscBits r.desc 20 0 5 ↔ dsc r.desc
    28 2 ≠ 0) → s.unitsAbsent (maskUnits r.desc 24 (some 28)) = false → r.ownsAll (53 :: maskUnits r.desc 24 (some 28)) =
    true → (s.is F.CAL_STAT.RUNNING = true ∨ s.is F.CAL_STAT.RESTORING = true) → ∃ t, exec (.calRun q) s = .next t ∧ t.cal
    = s.cal ∧ t.regs = s.regs ∧ Completed t q r .busy [(11, 1, 1)]) ∧
  (∀ (s : State) (q : Nat) (x : CalRunX) (r : DescRun), s.awake = true → s.cal.run = some x → s.cal.slices = [] →
    (x.parts.all (fun p => p.done && p.ok)) = true → x.changed = true → s.g F.CAL_GEN.GEN < 2 ^ 31 → s.queueOf x.did =
    some q → (s.queue q).run = some r → x.items < 32 → ∃ t, exec .calRunDone s = .next t ∧ Completed t q r .ok [(8, 1,
    x.items), (9, 1, 0), (10, 1, 0), (11, 1, 0), (12, 4, 0), (16, 4, 0), (20, 2, 0), (22, 2, 0), (24, 4, s.g F.CAL_GEN.GEN
    + 1), (28, 4, s.tb0ns)]) ∧
  (∀ (s : State) (q : Nat) (x : CalRunX) (r : DescRun), s.awake = true → s.cal.run = some x → s.cal.slices = [] →
    ((x.parts.all (fun p => p.done)) = true ∨ x.due ≤ s.tb1) → (x.parts.all (fun p => decide (p.item < 5))) = true →
    s.queueOf x.did = some q → (s.queue q).run = some r → ∃ t, exec .calRunDone s = .next t ∧ (t.queue q).run = none ∧
    (t.queue q).held.map (fun e => (natBits e 32 8, natBits e 72 8, natBits e 80 8)) = some ((if (x.parts.filter (fun p =>
    p.done && !p.ok)) ≠ [] then Status.faulted else if (x.parts.filter (fun p => !p.done)) ≠ [] then .deferred else
    .ok).code, maskOf ((x.parts.filter (fun p => p.done && !p.ok)).map (·.item)), maskOf ((x.parts.filter (fun p =>
    !p.done)).map (·.item)))) ∧
  (∀ (s : State) (x : CalRunX), s.awake = true → s.cal.run = some x → ((x.parts.all (fun p => p.done)) = true ∨ x.due ≤
    s.tb1) → ∃ t, exec .calRunDone s = .next t ∧ t.is F.CAL_STAT.RUNNING = false ∧ t.cal.run = none ∧ t.g F.CAL_GEN.GEN =
    (s.g F.CAL_GEN.GEN + (if x.changed = true then 1 else 0)) % 2 ^ 32) ∧
  (∀ (s : State) (x : CalRunX), s.cal.run = some x → (x.parts.all (fun p => p.done)) = false → s.tb1 < x.due → exec
    .calRunDone s = .next (s)) ∧
  (∀ (s : State) (q : Nat) (r : DescRun), Executes s q 12 false r → dUnit r.desc = 0 → dscZeroFrom r.desc 26 = true →
    dAddr r.desc % 64 = 0 → dLen r.desc = calImgLen → maskUnits r.desc 20 (some 24) = [] → r.ownsAll (53 :: maskUnits
    r.desc 20 (some 24)) = true → ∃ t, exec (.calSave q true) s = .next t ∧ t.rdMem 100 24 8 = s.tb0 >>> 16 % 2 ^ 64 ∧
    t.regs = s.regs ∧ Completed t q r .ok (calImgRes (s.g F.CAL_GEN.GEN) s.calCrc (s.is F.CAL_STAT.WALKING).toNat 0) ∧
    t.out = s.out ++ [.hostWrite (dAddr r.desc) calImgLen (t.calHeader (s.tb0 >>> 16) ||| t.rdMem 100 0x100 0x22F00 <<<
    0x800)]) ∧
  (∀ (s : State) (q : Nat) (r : DescRun), Executes s q 12 false r → dUnit r.desc = 0 → dscZeroFrom r.desc 26 = true →
    dAddr r.desc % 64 = 0 → dLen r.desc = calImgLen → maskUnits r.desc 20 (some 24) = [] → r.ownsAll (53 :: maskUnits
    r.desc 20 (some 24)) = true → ∃ t, exec (.calSave q false) s = .next t ∧ t.mem = s.mem ∧ t.regs = s.regs ∧ Completed t
    q r .faulted (calImgRes 0 0 0 1)) ∧
  (∀ (s : State) (q : Nat) (data : List Nat) (r : DescRun), Executes s q 13 false r → dUnit r.desc = 0 → dscZeroFrom
    r.desc 26 = true → dAddr r.desc % 64 = 0 → dLen r.desc = calImgLen → s.unitsAbsent (maskUnits r.desc 20 (some 24)) =
    false → r.ownsAll (53 :: maskUnits r.desc 20 (some 24)) = true → s.is F.CAL_STAT.RUNNING = false → s.is
    F.CAL_STAT.RESTORING = false → data.length = calImgLen → imgNat data 0 4 = 1 → imgNat data 4 2 = s.g F.ID.PART →
    imgNat data 8 8 = Config.devUid.toNat → imgNat data 20 4 = crc32 ((data.drop 0x100).take 0x22F00) → s.g F.CAL_GEN.GEN
    < 2 ^ 31 → ∃ t, exec (.calRestore q true data) s = .next t ∧ t.g F.CAL_GEN.GEN = s.g F.CAL_GEN.GEN + 1 ∧ (∀ u ∈
    maskUnits r.desc 20 (some 24), ∀ a ∈ unitCorrections u, t.calTarget a = calVal a (imgNat data a (calLen a))) ∧
    Completed t q r .ok (calImgRes (s.g F.CAL_GEN.GEN + 1) (imgNat data 20 4) (t.is F.CAL_STAT.WALKING).toNat 0) ∧ t.out =
    s.out ++ [.hostRead (dAddr r.desc) calImgLen]) ∧
  (∀ (s : State) (q : Nat) (data : List Nat) (r : DescRun), Executes s q 13 false r → dUnit r.desc = 0 → dscZeroFrom
    r.desc 26 = true → dAddr r.desc % 64 = 0 → dLen r.desc = calImgLen → s.unitsAbsent (maskUnits r.desc 20 (some 24)) =
    false → r.ownsAll (53 :: maskUnits r.desc 20 (some 24)) = true → s.is F.CAL_STAT.RUNNING = false → s.is
    F.CAL_STAT.RESTORING = false → data.length = calImgLen → (imgNat data 0 4 ≠ 1 ∨ imgNat data 4 2 ≠ s.g F.ID.PART) → ∃
    t, exec (.calRestore q true data) s = .next t ∧ t.mem = s.mem ∧ t.regs = s.regs ∧ Completed t q r .badop (calImgRes 0
    0 0 2)) ∧
  (∀ (s : State) (q : Nat) (data : List Nat) (r : DescRun), Executes s q 13 false r → dUnit r.desc = 0 → dscZeroFrom
    r.desc 26 = true → dAddr r.desc % 64 = 0 → dLen r.desc = calImgLen → s.unitsAbsent (maskUnits r.desc 20 (some 24)) =
    false → r.ownsAll (53 :: maskUnits r.desc 20 (some 24)) = true → s.is F.CAL_STAT.RUNNING = false → s.is
    F.CAL_STAT.RESTORING = false → data.length = calImgLen → imgNat data 0 4 = 1 → imgNat data 4 2 = s.g F.ID.PART →
    imgNat data 8 8 ≠ Config.devUid.toNat → ∃ t, exec (.calRestore q true data) s = .next t ∧ t.mem = s.mem ∧ t.regs =
    s.regs ∧ Completed t q r .denied (calImgRes 0 0 0 2)) ∧
  (∀ (s : State) (q : Nat) (data : List Nat) (r : DescRun), Executes s q 13 false r → dUnit r.desc = 0 → dscZeroFrom
    r.desc 26 = true → dAddr r.desc % 64 = 0 → dLen r.desc = calImgLen → s.unitsAbsent (maskUnits r.desc 20 (some 24)) =
    false → r.ownsAll (53 :: maskUnits r.desc 20 (some 24)) = true → s.is F.CAL_STAT.RUNNING = false → s.is
    F.CAL_STAT.RESTORING = false → data.length = calImgLen → imgNat data 0 4 = 1 → imgNat data 4 2 = s.g F.ID.PART →
    imgNat data 8 8 = Config.devUid.toNat → imgNat data 20 4 ≠ crc32 ((data.drop 0x100).take 0x22F00) → ∃ t, exec
    (.calRestore q true data) s = .next t ∧ t.mem = s.mem ∧ t.regs = s.regs ∧ Completed t q r .faulted (calImgRes 0 0 0
    2)) ∧
  (∀ (s : State) (q : Nat) (data : List Nat) (r : DescRun) (ok : Bool), Executes s q 13 false r → dUnit r.desc = 0 →
    dscZeroFrom r.desc 26 = true → dAddr r.desc % 64 = 0 → dLen r.desc = calImgLen → s.unitsAbsent (maskUnits r.desc 20
    (some 24)) = false → r.ownsAll (53 :: maskUnits r.desc 20 (some 24)) = true → (s.is F.CAL_STAT.RUNNING = true ∨ s.is
    F.CAL_STAT.RESTORING = true) → ∃ t, exec (.calRestore q ok data) s = .next t ∧ t.mem = s.mem ∧ t.regs = s.regs ∧
    Completed t q r .busy (calImgRes 0 0 0 1)) ∧
  (∀ (s : State) (q : Nat) (data : List Nat) (r : DescRun), Executes s q 13 false r → dUnit r.desc = 0 → dscZeroFrom
    r.desc 26 = true → dAddr r.desc % 64 = 0 → dLen r.desc = calImgLen → s.unitsAbsent (maskUnits r.desc 20 (some 24)) =
    false → r.ownsAll (53 :: maskUnits r.desc 20 (some 24)) = true → s.is F.CAL_STAT.RUNNING = false → s.is
    F.CAL_STAT.RESTORING = false → ∃ t, exec (.calRestore q false data) s = .next t ∧ t.mem = s.mem ∧ t.regs = s.regs ∧
    Completed t q r .faulted (calImgRes 0 0 0 1)) ∧
  (∀ (s : State) (q : Nat) (r : DescRun), Executes s q 14 false r → dAddr r.desc = 0 → dLen r.desc = 0 → dscZeroFrom
    r.desc 21 = true → dUnit r.desc ≤ 53 → unitPresent s.part (dUnit r.desc) = true → kindOk (dUnit r.desc) (dsc r.desc 20
    1) = true → r.ownsAll [53, dUnit r.desc] = true → s.bistOk (dUnit r.desc) (dsc r.desc 20 1) r.did = true → r.did ∉
    s.unitDids → ∃ t, exec (.bistRun q) s = .next t ∧ t.inTest (dUnit r.desc) = true ∧ t.is F.CAL_STAT.BIST = true ∧
    (t.queue q).run = some { r with acted := true } ∧ t.cal.bists = s.cal.bists ++ [⟨r.did, dUnit r.desc, dsc r.desc 20 1,
    []⟩]) ∧
  (∀ (s : State) (q : Nat) (r : DescRun), Executes s q 14 false r → dAddr r.desc = 0 → dLen r.desc = 0 → dscZeroFrom
    r.desc 21 = true → dUnit r.desc ≤ 53 → unitPresent s.part (dUnit r.desc) = true → kindOk (dUnit r.desc) (dsc r.desc 20
    1) = true → r.ownsAll [53, dUnit r.desc] = true → s.bistOk (dUnit r.desc) (dsc r.desc 20 1) r.did = false → ∃ t, exec
    (.bistRun q) s = .next t ∧ t.cal = s.cal ∧ t.regs = s.regs ∧ t.mem = s.mem ∧ Completed t q r .busy (bistRes (dUnit
    r.desc) (dsc r.desc 20 1) 1 0 0 false 0)) ∧
  (∀ (s : State) (u q us : Nat) (sig : BitVec 64) (x : BistX) (r : DescRun), s.awake = true → s.cal.bists.find? (fun e =>
    e.unit == u) = some x → x.unit = u → s.queueOf x.did = some q → (s.queue q).run = some r → x.did ∉ s.unitDids → sig =
    Config.bistExpect u x.kind → ∃ t, exec (.bistDone u sig us) s = .next t ∧ t.cal.bists = s.cal.bists.filter (fun e =>
    e.did != x.did) ∧ t.is F.CAL_STAT.BIST = !t.cal.bists.isEmpty ∧ Completed t q r .ok (bistRes u x.kind 0 sig.toNat
    sig.toNat true us)) ∧
  (∀ (s : State) (u q us : Nat) (sig : BitVec 64) (x : BistX) (r : DescRun), s.awake = true → s.cal.bists.find? (fun e =>
    e.unit == u) = some x → x.unit = u → s.queueOf x.did = some q → (s.queue q).run = some r → x.did ∉ s.unitDids → sig ≠
    Config.bistExpect u x.kind → ∃ t, exec (.bistDone u sig us) s = .next t ∧ t.cal.bists = s.cal.bists.filter (fun e =>
    e.did != x.did) ∧ t.is F.CAL_STAT.BIST = !t.cal.bists.isEmpty ∧ (unitPresent s.part u = true ∧ u < 53 ∧ t.cal.bists =
    [] → t.g (F.UNIT_STATE.STATE u) = 1) ∧ Completed t q r .faulted (bistRes u x.kind 4 sig.toNat (Config.bistExpect u
    x.kind).toNat false us)) ∧
  (∀ (s : State) (u us : Nat) (sig : BitVec 64) (x : BistX) (src : Option Nat), s.awake = true → s.cal.bists = [x] →
    x.unit = u → x.held = [((F.UNIT_STATE.C_HOST u).lo, src)] → unitPresent s.part u = true → u < 53 → ∃ t, exec
    (.bistDone u sig us) s = .next t ∧ t.g (F.UNIT_STATE.STATE u) = 1 ∧ t.is (F.UNIT_STATE.C_HOST u) = true) ∧
  (∀ (s : State) (u us : Nat) (sig : BitVec 64), s.inTest u = false → exec (.bistDone u sig us) s = .next (s))

/-- The register path (R254–R257) and the apertures (R253, R258–R260) of the data ports. PORT_DMA (R262–R265). -/
def Obligations.DataPortsAndDma : Prop :=
  (∀ (s : State) (p k : Nat) (v : Word), Ready s → p < 103 → portPresent s.part p = true → s.portClosed p = false → k < 4
    → k < s.portLast p → ∃ t, exec (.portDataWrite p k v) s = .next t ∧ (t.portX p).stage = (s.portX p).stage.filter (fun
    e => e.1 != k) ++ [(k, v.toNat)] ∧ t.is (F.PORT_STAT.STAGED p) = true ∧ t.mem = s.mem ∧ t.g (F.PORT_ADDR.ADDR p) = s.g
    (F.PORT_ADDR.ADDR p)) ∧
  (∀ (s : State) (p k : Nat) (v : Word), Ready s → p < 103 → portPresent s.part p = true → s.portClosed p = false → k < 4
    → s.portLast p < k → exec (.portDataWrite p k v) s = .next (s)) ∧
  (∀ (s : State) (p k : Nat) (v : Word), Ready s → p < 103 → portPresent s.part p = true → s.portClosed p = false → k < 4
    → k = s.portLast p → portSize s.part p ≤ s.g (F.PORT_ADDR.ADDR p) → ∃ t, exec (.portDataWrite p k v) s = .next t ∧
    t.is (F.PORT_STAT.PORT_OVF p) = true ∧ t.mem = s.mem ∧ t.g (F.PORT_ADDR.ADDR p) = s.g (F.PORT_ADDR.ADDR p) ∧ (t.portX
    p).stage = [] ∧ t.is (F.PORT_STAT.STAGED p) = false) ∧
  (∀ (s : State) (k : Nat) (v : Word), Ready s → portPresent s.part 102 = true → s.portClosed 102 = false → k < 4 → k =
    s.portLast 102 → s.g (F.PORT_ADDR.ADDR 102) + s.portStep 102 ≤ 0x80000000 → ∃ t, exec (.portDataWrite 102 k v) s =
    .next t ∧ ((List.range (k + 1)).all fun j => t.rdMem 102 (s.g (F.PORT_ADDR.ADDR 102) + 4 * j) 4 == (if j = k then
    v.toNat else (((s.portX 102).stage.find? (fun e => e.1 == j)).map (·.2)).getD 0) % 2 ^ 32) = true ∧ t.g
    (F.PORT_ADDR.ADDR 102) = s.g (F.PORT_ADDR.ADDR 102) + s.portStep 102 ∧ t.is (F.PORT_STAT.STAGED 102) = false ∧
    (t.portX 102).stage = []) ∧
  (∀ (s : State) (p k : Nat) (v : Word), Ready s → p < 103 → portPresent s.part p = true → s.portClosed p = false → k < 4
    → k = s.portLast p → s.g (F.PORT_ADDR.ADDR p) < portSize s.part p → ∃ t, exec (.portDataWrite p k v) s = .next t ∧
    t.mem = (portWrite p (s.g (F.PORT_ADDR.ADDR p)) (wordBytes ((List.range (k + 1)).map fun j => if j = k then v.toNat
    else (((s.portX p).stage.find? (fun e => e.1 == j)).map (·.2)).getD 0)) s).1.mem ∧ (t.portX p).stage = []) ∧
  (∀ (s : State) (p k : Nat) (v : Word), Ready s → p < 103 → portPresent s.part p = true → s.portClosed p = true → k < 4 →
    exec (.portDataWrite p k v) s = .next (s.p (F.PORT_STAT.PORT_BUSY p) 1)) ∧
  (∀ (s : State) (p k : Nat) (v : Word), Ready s → portPresent s.part p = false → exec (.portDataWrite p k v) s = .next
    (s)) ∧
  (∀ (s : State) (path : Path) (p k : Nat), Ready s → p < 103 → portPresent s.part p = true → s.portClosed p = false → k <
    4 → k ≤ s.portLast p → k ≠ 0 → s.g (F.PORT_ADDR.ADDR p) < portSize s.part p → ∃ t, exec (.portDataRead path p k) s =
    .next t ∧ tabGet (fun _ => 0) t.rdata path.idx = s.rd (R.PORT_DATA p k) ∧ t.g (F.PORT_ADDR.ADDR p) = s.g
    (F.PORT_ADDR.ADDR p) + (if k = s.portLast p then s.portStep p else 0) ∧ t.mem = s.mem) ∧
  (∀ (s : State) (path : Path) (p : Nat), Ready s → p < 103 → portPresent s.part p = true → s.portClosed p = false → s.g
    (F.PORT_ADDR.ADDR p) < portSize s.part p → ∃ t, exec (.portDataRead path p 0) s = .next t ∧ tabGet (fun _ => 0)
    t.rdata path.idx = BitVec.ofNat 32 (leNat (s.portBytes p (s.g (F.PORT_ADDR.ADDR p)) 4)) ∧ ((List.range (s.portLast p +
    1)).all fun j => t.rd (R.PORT_DATA p j) == BitVec.ofNat 32 (leNat (s.portBytes p (s.g (F.PORT_ADDR.ADDR p) + 4 * j)
    4))) = true ∧ t.g (F.PORT_ADDR.ADDR p) = s.g (F.PORT_ADDR.ADDR p) + (if s.portLast p = 0 then s.portStep p else 0) ∧
    t.mem = s.mem) ∧
  (∀ (s : State) (path : Path) (p k : Nat), Ready s → p < 103 → portPresent s.part p = true → s.portClosed p = false → k <
    4 → portSize s.part p ≤ s.g (F.PORT_ADDR.ADDR p) → ∃ t, exec (.portDataRead path p k) s = .next t ∧ tabGet (fun _ =>
    0) t.rdata path.idx = 0#32 ∧ t.g (F.PORT_ADDR.ADDR p) = s.g (F.PORT_ADDR.ADDR p) ∧ t.is (F.PORT_STAT.PORT_OVF p) =
    true ∧ t.mem = s.mem) ∧
  (∀ (s : State) (path : Path) (p k : Nat), Ready s → p < 103 → portPresent s.part p = true → s.portClosed p = true → k <
    4 → exec (.portDataRead path p k) s = .next ((s.set1 (F.PORT_STAT.PORT_BUSY p)).setRead path 0)) ∧
  (∀ (s : State) (path : Path) (p k : Nat), portPresent s.part p = false → exec (.portDataRead path p k) s = .next
    (s.setRead path 0)) ∧
  (∀ (s : State) (p : Nat) (v : Word), Ready s → p < 103 → portPresent s.part p = true → s.portClosed p = false → ∃ t,
    exec (.portAddrWrite p v) s = .next t ∧ t.g (F.PORT_ADDR.ADDR p) = v.toNat - v.toNat % s.portStep p ∧ (t.portX
    p).stage = [] ∧ t.is (F.PORT_STAT.STAGED p) = false ∧ t.is (F.PORT_STAT.PARTIAL p) = (s.is (F.PORT_STAT.PARTIAL p) ||
    !(s.portX p).stage.isEmpty)) ∧
  (∀ (s : State) (p : Nat) (v : Word), Ready s → p < 103 → portPresent s.part p = true → s.portClosed p = true → exec
    (.portAddrWrite p v) s = .next (s.p (F.PORT_STAT.PORT_BUSY p) 1)) ∧
  (∀ (s : State) (p : Nat) (v : Word), Ready s → p < 103 → portPresent s.part p = true → s.portClosed p = false →
    (F.PORT_CTL.STEP p).of v ≠ 3 → stepMinCode p ≤ (F.PORT_CTL.STEP p).of v → (F.PORT_CTL.STEP p).of v ≠ s.g
    (F.PORT_CTL.STEP p) → ∃ t, exec (.portCtlWrite p v) s = .next t ∧ t.g (F.PORT_CTL.STEP p) = (F.PORT_CTL.STEP p).of v ∧
    t.is (F.PORT_STAT.CFG_ERR p) = s.is (F.PORT_STAT.CFG_ERR p) ∧ t.g (F.PORT_ADDR.ADDR p) = s.g (F.PORT_ADDR.ADDR p) -
    s.g (F.PORT_ADDR.ADDR p) % t.portStep p ∧ (t.portX p).stage = [] ∧ t.is (F.PORT_STAT.STAGED p) = false ∧ t.is
    (F.PORT_STAT.PARTIAL p) = (s.is (F.PORT_STAT.PARTIAL p) || !(s.portX p).stage.isEmpty)) ∧
  (∀ (s : State) (p : Nat) (v : Word), Ready s → p < 103 → portPresent s.part p = true → s.portClosed p = false →
    (F.PORT_CTL.STEP p).of v ≠ 3 → stepMinCode p ≤ (F.PORT_CTL.STEP p).of v → (F.PORT_CTL.STEP p).of v = s.g
    (F.PORT_CTL.STEP p) → exec (.portCtlWrite p v) s = .next (s)) ∧
  (∀ (s : State) (p : Nat) (v : Word), Ready s → p < 103 → portPresent s.part p = true → s.portClosed p = false →
    ((F.PORT_CTL.STEP p).of v = 3 ∨ (F.PORT_CTL.STEP p).of v < stepMinCode p) → exec (.portCtlWrite p v) s = .next (s.p
    (F.PORT_STAT.CFG_ERR p) 1)) ∧
  (∀ (s : State) (p : Nat) (v : Word), Ready s → p < 103 → portPresent s.part p = true → s.portClosed p = true → exec
    (.portCtlWrite p v) s = .next (s.p (F.PORT_STAT.PORT_BUSY p) 1)) ∧
  (∀ (s : State) (p : Nat) (v : Word), Ready s → p < 103 → portPresent s.part p = true → s.portClosed p = false → exec
    (.portAptWrite p v) s = .next (s.wr (R.PORT_APT p) (v &&& 0xFFFFF000#32))) ∧
  (∀ (s : State) (p : Nat) (v : Word), Ready s → p < 103 → portPresent s.part p = true → s.portClosed p = true → exec
    (.portAptWrite p v) s = .next (s.p (F.PORT_STAT.PORT_BUSY p) 1)) ∧
  (∀ (s : State) (o : Nat) (data : List Nat), Ready s → portPresent s.part (102) = true → s.portClosed (102) = false →
    aptOk s.part (102) o data.length = true → (s.aptBase (102) + o) % stepMin (102) = 0 → data.length % stepMin (102) = 0
    → s.aptBase (102) + o + data.length ≤ 0x80000000 → ∃ t, exec (.apertureWrite 102 o data) s = .next t ∧ t.rdBytes 102
    (s.aptBase 102 + o) data.length = data.map (· % 256) ∧ t.regs = s.regs) ∧
  (∀ (s : State) (d o : Nat) (data : List Nat), d < s.part.digs → Ready s → portPresent s.part (96 + d) = true →
    s.portClosed (96 + d) = false → aptOk s.part (96 + d) o data.length = true → (s.aptBase (96 + d) + o) % stepMin (96 +
    d) = 0 → data.length % stepMin (96 + d) = 0 → s.aptBase (96 + d) + o + data.length ≤ 0x10000000 → exec (.apertureWrite
    (96 + d) o data) s = .next (s.p (F.PORT_STAT.WPROT (96 + d)) 1)) ∧
  (∀ (s : State) (h o : Nat) (data : List Nat), h < s.part.halls → Ready s → portPresent s.part (h) = true → s.portClosed
    (h) = false → aptOk s.part (h) o data.length = true → (s.aptBase (h) + o) % stepMin (h) = 0 → data.length % stepMin
    (h) = 0 → s.aptBase (h) + o + data.length ≤ portSize s.part h → (List.range data.length).all (fun i => s.fltOpen h
    (s.aptBase h + o + i)) = true → ∃ t, exec (.apertureWrite h o data) s = .next t ∧ t.rdBytes h (s.aptBase h + o)
    data.length = data.map (· % 256) ∧ t.regs = s.regs) ∧
  (∀ (s : State) (h o : Nat) (data : List Nat), h < s.part.halls → Ready s → portPresent s.part (h) = true → s.portClosed
    (h) = false → aptOk s.part (h) o data.length = true → (s.aptBase (h) + o) % stepMin (h) = 0 → data.length % stepMin
    (h) = 0 → s.aptBase (h) + o + data.length ≤ portSize s.part h → (List.range data.length).all (fun i => s.fltOpen h
    (s.aptBase h + o + i)) = false → ∃ t, exec (.apertureWrite h o data) s = .next t ∧ t.mem = s.mem ∧ t.is
    (F.FLT_STAT.WPROT h) = true ∧ (t.g (F.WDROP_CNT.COUNT h) = s.g (F.WDROP_CNT.COUNT h) + 1 ∨ t.is (F.WDROP_CNT.SAT h) =
    true)) ∧
  (∀ (s : State) (h o : Nat) (data : List Nat), h < s.part.halls → Ready s → portPresent s.part (32 + h) = true →
    s.portClosed (32 + h) = false → aptOk s.part (32 + h) o data.length = true → (s.aptBase (32 + h) + o) % stepMin (32 +
    h) = 0 → data.length % stepMin (32 + h) = 0 → s.aptBase (32 + h) + o + data.length ≤ 0x80000 → (List.range 16).any
    (fun k => decide ((s.aptBase (32 + h) + o) < 32768 * (k + 1) ∧ 32768 * k < (s.aptBase (32 + h) + o) + data.length) &&
    s.pageLocked h k) = false → ∃ t, exec (.apertureWrite (32 + h) o data) s = .next t ∧ t.rdBytes (32 + h) (s.aptBase (32
    + h) + o) data.length = data.map (· % 256) ∧ ((List.range 16).all fun k => natBits (t.g (F.STAIR_STAT.SEALED h)) k 1
    == (if (s.aptBase (32 + h) + o) < 32768 * (k + 1) ∧ 32768 * k < (s.aptBase (32 + h) + o) + data.length then 0 else
    natBits (s.g (F.STAIR_STAT.SEALED h)) k 1)) = true) ∧
  (∀ (s : State) (h o : Nat) (data : List Nat), h < s.part.halls → Ready s → portPresent s.part (32 + h) = true →
    s.portClosed (32 + h) = false → aptOk s.part (32 + h) o data.length = true → (s.aptBase (32 + h) + o) % stepMin (32 +
    h) = 0 → data.length % stepMin (32 + h) = 0 → s.aptBase (32 + h) + o + data.length ≤ 0x80000 → (List.range 16).any
    (fun k => decide ((s.aptBase (32 + h) + o) < 32768 * (k + 1) ∧ 32768 * k < (s.aptBase (32 + h) + o) + data.length) &&
    s.pageLocked h k) = true → exec (.apertureWrite (32 + h) o data) s = .next (s.p (F.STAIR_STAT.WPROT h) 1)) ∧
  (∀ (s : State) (h o : Nat) (data : List Nat), h < s.part.halls → Ready s → portPresent s.part (64 + h) = true →
    s.portClosed (64 + h) = false → aptOk s.part (64 + h) o data.length = true → (s.aptBase (64 + h) + o) % stepMin (64 +
    h) = 0 → data.length % stepMin (64 + h) = 0 → s.aptBase (64 + h) + o + data.length ≤ 0x4000 → s.aptBase (64 + h) + o <
    8192 → (s.hse h).busy = false → ∃ t, exec (.apertureWrite (64 + h) o data) s = .next t ∧ t.rdBytes (64 + h) (s.aptBase
    (64 + h) + o) data.length = data.map (· % 256) ∧ t.regs = s.regs) ∧
  (∀ (s : State) (h o : Nat) (data : List Nat), h < s.part.halls → Ready s → portPresent s.part (64 + h) = true →
    s.portClosed (64 + h) = false → aptOk s.part (64 + h) o data.length = true → (s.aptBase (64 + h) + o) % stepMin (64 +
    h) = 0 → data.length % stepMin (64 + h) = 0 → s.aptBase (64 + h) + o + data.length ≤ 0x4000 → (8192 ≤ s.aptBase (64 +
    h) + o ∨ (s.hse h).busy = true) → exec (.apertureWrite (64 + h) o data) s = .next (s.p (F.HSE_STAT.WPROT h) 1)) ∧
  (∀ (s : State) (o : Nat) (data : List Nat), Ready s → portPresent s.part (101) = true → s.portClosed (101) = false →
    aptOk s.part (101) o data.length = true → (s.aptBase (101) + o) % stepMin (101) = 0 → data.length % stepMin (101) = 0
    → s.aptBase (101) + o + data.length ≤ portSize s.part 101 → s.hallOk ((s.aptBase 101 + o) / 24576) = true → exec
    (.apertureWrite 101 o data) s = .next (s.p (F.HALL_STAT.ALC_WPROT ((s.aptBase 101 + o) / 24576)) 1)) ∧
  (∀ (s : State) (o : Nat) (data : List Nat), Ready s → portPresent s.part (100) = true → s.portClosed (100) = false →
    aptOk s.part (100) o data.length = true → (s.aptBase (100) + o) % stepMin (100) = 0 → data.length % stepMin (100) = 0
    → s.aptBase (100) + o + data.length ≤ 0x100000 → (s.is F.CAL_STAT.RUNNING = true ∨ s.is F.CAL_STAT.RESTORING = true ∨
    ((List.range data.length).all fun i => calNamed s.part (s.aptBase 100 + o + i)) = false) → exec (.apertureWrite 100 o
    data) s = .next (s.p (F.PORT_STAT.WPROT 100) 1)) ∧
  (∀ (s : State) (p o : Nat) (data : List Nat), Ready s → aptOk s.part p o data.length = true → s.portClosed p = false →
    ((s.aptBase p + o) % stepMin p ≠ 0 ∨ data.length % stepMin p ≠ 0) → exec (.apertureWrite p o data) s = .next (s.p
    (F.PORT_STAT.PARTIAL p) 1)) ∧
  (∀ (s : State) (p o : Nat) (data : List Nat), Ready s → aptOk s.part p o data.length = true → s.portClosed p = false →
    (s.aptBase p + o) % stepMin p = 0 → data.length % stepMin p = 0 → portSize s.part p < s.aptBase p + o + data.length →
    exec (.apertureWrite p o data) s = .next (s.p (F.PORT_STAT.PORT_OVF p) 1)) ∧
  (∀ (s : State) (p o : Nat) (data : List Nat), Ready s → aptOk s.part p o data.length = true → s.portClosed p = true →
    exec (.apertureWrite p o data) s = .next (s.p (F.PORT_STAT.PORT_BUSY p) 1)) ∧
  (∀ (s : State) (p o : Nat) (data : List Nat), aptOk s.part p o data.length = false → exec (.apertureWrite p o data) s =
    .next (s)) ∧
  (∀ (s : State) (p o n : Nat), Ready s → aptOk s.part p o n = true → s.portClosed p = false → ∃ t, exec (.apertureRead p
    o n) s = .next t ∧ t.rbytes = (List.range n).map (fun i => if s.aptBase p + o + i < portSize s.part p then s.portByte
    p (s.aptBase p + o + i) else 0) ∧ t.is (F.PORT_STAT.PORT_OVF p) = (s.is (F.PORT_STAT.PORT_OVF p) || decide (portSize
    s.part p < s.aptBase p + o + n)) ∧ t.mem = s.mem) ∧
  (∀ (s : State) (p o n : Nat), Ready s → aptOk s.part p o n = true → s.portClosed p = true → exec (.apertureRead p o n) s
    = .next (({ s with rbytes := List.replicate n 0 } : State).set1 (F.PORT_STAT.PORT_BUSY p))) ∧
  (∀ (s : State) (p o n : Nat), aptOk s.part p o n = false → exec (.apertureRead p o n) s = .next
    ({ s with rbytes := List.replicate n 0 })) ∧
  (∀ (s : State) (q : Nat) (r : DescRun), Executes s q 18 false r → dUnit r.desc ≤ 102 → dscBits r.desc 24 1 7 = 0 →
    dscZeroFrom r.desc 25 = true → dAddr r.desc % stepMin (dUnit r.desc) = 0 → dsc r.desc 20 4 % stepMin (dUnit r.desc) =
    0 → portPresent s.part (dUnit r.desc) = true → ((dmaUnits (dUnit r.desc) (dsc r.desc 20 4) (max 1 (dLen r.desc))).any
    (fun u => decide (u < 54) && !unitPresent s.part u)) = false → dLen r.desc ≠ 0 → dLen r.desc % stepMin (dUnit r.desc)
    = 0 → dsc r.desc 20 4 + dLen r.desc ≤ portSize s.part (dUnit r.desc) → r.ownsAll (dmaUnits (dUnit r.desc) (dsc r.desc
    20 4) (dLen r.desc)) = true → (dscBits r.desc 24 0 1 = 1 ∨ portReadOnly (dUnit r.desc) = false) → s.portClosed (dUnit
    r.desc) = false → ∃ t, exec (.portDma q) s = .next t ∧ (t.portX (dUnit r.desc)).dma = some
    { did := r.did, toHost := dscBits r.desc 24 0 1 == 1, host := dAddr r.desc, addr := dsc r.desc 20 4, left := dLen
        r.desc } ∧ t.is (F.PORT_STAT.DMA (dUnit r.desc)) = true ∧ (t.queue q).run = some { r with acted := true } ∧ t.out
    = s.out ++ (if dscBits r.desc 24 0 1 = 1 then [] else [.hostRead (dAddr r.desc) (dLen r.desc)]) ∧ t.mem = s.mem) ∧
  (∀ (s : State) (q : Nat) (r : DescRun), Executes s q 18 false r → (102 < dUnit r.desc ∨ dscBits r.desc 24 1 7 ≠ 0 ∨
    dscZeroFrom r.desc 25 = false ∨ dAddr r.desc % stepMin (dUnit r.desc) ≠ 0 ∨ dsc r.desc 20 4 % stepMin (dUnit r.desc) ≠
    0) → ∃ t, exec (.portDma q) s = .next t ∧ t.ports = s.ports ∧ t.mem = s.mem ∧ t.regs = s.regs ∧ Completed t q r .badop
    (portDmaRes (dUnit r.desc % 128) 0 0 0 1)) ∧
  (∀ (s : State) (q : Nat) (r : DescRun), Executes s q 18 false r → dUnit r.desc ≤ 102 → dscBits r.desc 24 1 7 = 0 →
    dscZeroFrom r.desc 25 = true → dAddr r.desc % stepMin (dUnit r.desc) = 0 → dsc r.desc 20 4 % stepMin (dUnit r.desc) =
    0 → (portPresent s.part (dUnit r.desc) = false ∨ ((dmaUnits (dUnit r.desc) (dsc r.desc 20 4) (max 1 (dLen
    r.desc))).any (fun u => decide (u < 54) && !unitPresent s.part u)) = true) → ∃ t, exec (.portDma q) s = .next t ∧
    t.ports = s.ports ∧ t.mem = s.mem ∧ t.regs = s.regs ∧ Completed t q r .absent (portDmaRes (dUnit r.desc % 128) 0 0 0
    0)) ∧
  (∀ (s : State) (q : Nat) (r : DescRun), Executes s q 18 false r → dUnit r.desc ≤ 102 → dscBits r.desc 24 1 7 = 0 →
    dscZeroFrom r.desc 25 = true → dAddr r.desc % stepMin (dUnit r.desc) = 0 → dsc r.desc 20 4 % stepMin (dUnit r.desc) =
    0 → portPresent s.part (dUnit r.desc) = true → ((dmaUnits (dUnit r.desc) (dsc r.desc 20 4) (max 1 (dLen r.desc))).any
    (fun u => decide (u < 54) && !unitPresent s.part u)) = false → (dLen r.desc = 0 ∨ dLen r.desc % stepMin (dUnit r.desc)
    ≠ 0) → ∃ t, exec (.portDma q) s = .next t ∧ t.ports = s.ports ∧ t.mem = s.mem ∧ t.regs = s.regs ∧ Completed t q r
    .badlen (portDmaRes (dUnit r.desc % 128) 0 0 0 1)) ∧
  (∀ (s : State) (q : Nat) (r : DescRun), Executes s q 18 false r → dUnit r.desc ≤ 102 → dscBits r.desc 24 1 7 = 0 →
    dscZeroFrom r.desc 25 = true → dAddr r.desc % stepMin (dUnit r.desc) = 0 → dsc r.desc 20 4 % stepMin (dUnit r.desc) =
    0 → portPresent s.part (dUnit r.desc) = true → ((dmaUnits (dUnit r.desc) (dsc r.desc 20 4) (max 1 (dLen r.desc))).any
    (fun u => decide (u < 54) && !unitPresent s.part u)) = false → dLen r.desc ≠ 0 → dLen r.desc % stepMin (dUnit r.desc)
    = 0 → portSize s.part (dUnit r.desc) < dsc r.desc 20 4 + dLen r.desc → ∃ t, exec (.portDma q) s = .next t ∧ t.ports =
    s.ports ∧ t.mem = s.mem ∧ t.regs = s.regs ∧ Completed t q r .badlen (portDmaRes (dUnit r.desc % 128) 0 0 0 2)) ∧
  (∀ (s : State) (q : Nat) (r : DescRun), Executes s q 18 false r → dUnit r.desc ≤ 102 → dscBits r.desc 24 1 7 = 0 →
    dscZeroFrom r.desc 25 = true → dAddr r.desc % stepMin (dUnit r.desc) = 0 → dsc r.desc 20 4 % stepMin (dUnit r.desc) =
    0 → portPresent s.part (dUnit r.desc) = true → ((dmaUnits (dUnit r.desc) (dsc r.desc 20 4) (max 1 (dLen r.desc))).any
    (fun u => decide (u < 54) && !unitPresent s.part u)) = false → dLen r.desc ≠ 0 → dLen r.desc % stepMin (dUnit r.desc)
    = 0 → dsc r.desc 20 4 + dLen r.desc ≤ portSize s.part (dUnit r.desc) → r.ownsAll (dmaUnits (dUnit r.desc) (dsc r.desc
    20 4) (dLen r.desc)) = false → ∃ t, exec (.portDma q) s = .next t ∧ t.ports = s.ports ∧ t.mem = s.mem ∧ t.g
    (F.QP_LASTERR.CAUSE q) = 3 ∧ t.g (F.QP_LASTERR.QPOS q) = r.qpos ∧ Completed t q r .denied (portDmaRes (dUnit r.desc %
    128) 0 0 0 3)) ∧
  (∀ (s : State) (q : Nat) (r : DescRun), Executes s q 18 false r → dUnit r.desc ≤ 102 → dscBits r.desc 24 1 7 = 0 →
    dscZeroFrom r.desc 25 = true → dAddr r.desc % stepMin (dUnit r.desc) = 0 → dsc r.desc 20 4 % stepMin (dUnit r.desc) =
    0 → portPresent s.part (dUnit r.desc) = true → ((dmaUnits (dUnit r.desc) (dsc r.desc 20 4) (max 1 (dLen r.desc))).any
    (fun u => decide (u < 54) && !unitPresent s.part u)) = false → dLen r.desc ≠ 0 → dLen r.desc % stepMin (dUnit r.desc)
    = 0 → dsc r.desc 20 4 + dLen r.desc ≤ portSize s.part (dUnit r.desc) → r.ownsAll (dmaUnits (dUnit r.desc) (dsc r.desc
    20 4) (dLen r.desc)) = true → dscBits r.desc 24 0 1 = 0 → portReadOnly (dUnit r.desc) = true → ∃ t, exec (.portDma q)
    s = .next t ∧ t.ports = s.ports ∧ t.mem = s.mem ∧ t.regs = s.regs ∧ Completed t q r .denied (portDmaRes (dUnit r.desc
    % 128) 0 0 0 2)) ∧
  (∀ (s : State) (q : Nat) (r : DescRun), Executes s q 18 false r → dUnit r.desc ≤ 102 → dscBits r.desc 24 1 7 = 0 →
    dscZeroFrom r.desc 25 = true → dAddr r.desc % stepMin (dUnit r.desc) = 0 → dsc r.desc 20 4 % stepMin (dUnit r.desc) =
    0 → portPresent s.part (dUnit r.desc) = true → ((dmaUnits (dUnit r.desc) (dsc r.desc 20 4) (max 1 (dLen r.desc))).any
    (fun u => decide (u < 54) && !unitPresent s.part u)) = false → dLen r.desc ≠ 0 → dLen r.desc % stepMin (dUnit r.desc)
    = 0 → dsc r.desc 20 4 + dLen r.desc ≤ portSize s.part (dUnit r.desc) → r.ownsAll (dmaUnits (dUnit r.desc) (dsc r.desc
    20 4) (dLen r.desc)) = true → (dscBits r.desc 24 0 1 = 1 ∨ portReadOnly (dUnit r.desc) = false) → s.portClosed (dUnit
    r.desc) = true → ∃ t, exec (.portDma q) s = .next t ∧ t.ports = s.ports ∧ t.mem = s.mem ∧ t.regs = s.regs ∧ Completed
    t q r .busy (portDmaRes (dUnit r.desc % 128) 0 0 0 1)) ∧
  (∀ (s : State) (q : Nat) (r : DescRun) (x : PortDmaX), s.awake = true → Executes s q 18 true r → dUnit r.desc ≤ 102 →
    (s.portX (dUnit r.desc)).dma = some x → x.did = r.did → x.toHost = true → stepMin (dUnit r.desc) < x.left → ∃ t, exec
    (.portDmaUnit q true []) s = .next t ∧ t.out = s.out ++ [.hostWrite (x.host + x.moved) (stepMin (dUnit r.desc)) (leNat
    (s.portBytes (dUnit r.desc) x.addr (stepMin (dUnit r.desc))))] ∧ (t.portX (dUnit r.desc)).dma.map (fun y => (y.addr,
    y.left, y.moved, y.dropped)) = some (x.addr + stepMin (dUnit r.desc), x.left - stepMin (dUnit r.desc), x.moved +
    stepMin (dUnit r.desc), x.dropped) ∧ t.mem = s.mem ∧ t.regs = s.regs) ∧
  (∀ (s : State) (q : Nat) (r : DescRun) (x : PortDmaX), s.awake = true → Executes s q 18 true r → dUnit r.desc ≤ 102 →
    (s.portX (dUnit r.desc)).dma = some x → x.did = r.did → x.toHost = true → x.left = stepMin (dUnit r.desc) → ∃ t, exec
    (.portDmaUnit q true []) s = .next t ∧ (t.portX (dUnit r.desc)).dma = none ∧ t.is (F.PORT_STAT.DMA (dUnit r.desc)) =
    false ∧ t.mem = s.mem ∧ Completed t q r (if x.dropped = 0 then .ok else .deferred) (portDmaRes (dUnit r.desc) (x.moved
    + stepMin (dUnit r.desc)) x.dropped (crcMore x.crc (s.portBytes (dUnit r.desc) x.addr (stepMin (dUnit r.desc))) ^^^
    0xFFFFFFFF) (if x.dropped = 0 then 0 else 1))) ∧
  (∀ (s : State) (q : Nat) (data : List Nat) (r : DescRun) (x : PortDmaX), s.awake = true → Executes s q 18 true r → dUnit
    r.desc ≤ 102 → (s.portX (dUnit r.desc)).dma = some x → x.did = r.did → x.toHost = false → stepMin (dUnit r.desc) <
    x.left → data.length = stepMin (dUnit r.desc) → ∃ t, exec (.portDmaUnit q true data) s = .next t ∧ t.mem = (portWrite
    (dUnit r.desc) x.addr data s).1.mem ∧ (t.portX (dUnit r.desc)).dma.map (fun y => (y.addr, y.left, y.moved, y.dropped))
    = some (x.addr + stepMin (dUnit r.desc), x.left - stepMin (dUnit r.desc), x.moved + stepMin (dUnit r.desc), x.dropped
    + (if (portWrite (dUnit r.desc) x.addr data s).2 = true then 0 else stepMin (dUnit r.desc)))) ∧
  (∀ (s : State) (q : Nat) (data : List Nat) (r : DescRun) (x : PortDmaX), s.awake = true → Executes s q 18 true r → dUnit
    r.desc = 102 → (s.portX 102).dma = some x → x.did = r.did → x.toHost = false → x.left = stepMin 102 → x.dropped = 0 →
    data.length = stepMin 102 → ∃ t, exec (.portDmaUnit q true data) s = .next t ∧ t.rdBytes 102 x.addr data.length =
    data.map (· % 256) ∧ (t.portX 102).dma = none ∧ t.is (F.PORT_STAT.DMA 102) = false ∧ Completed t q r .ok (portDmaRes
    102 (x.moved + stepMin 102) 0 (crcMore x.crc data ^^^ 0xFFFFFFFF) 0)) ∧
  (∀ (s : State) (q : Nat) (data : List Nat) (r : DescRun) (x : PortDmaX), s.awake = true → Executes s q 18 true r → dUnit
    r.desc < 32 → s.hallOk (dUnit r.desc) = true → (s.portX (dUnit r.desc)).dma = some x → x.did = r.did → x.toHost =
    false → x.left = 16 → data.length = 16 → ((List.range 16).all fun i => s.fltOpen (dUnit r.desc) (x.addr + i)) = false
    → ∃ t, exec (.portDmaUnit q true data) s = .next t ∧ t.mem = s.mem ∧ t.is (F.FLT_STAT.WPROT (dUnit r.desc)) = true ∧
    (t.portX (dUnit r.desc)).dma = none ∧ t.is (F.PORT_STAT.DMA (dUnit r.desc)) = false ∧ Completed t q r .deferred
    (portDmaRes (dUnit r.desc) (x.moved + 16) (x.dropped + 16) (crcMore x.crc data ^^^ 0xFFFFFFFF) 1)) ∧
  (∀ (s : State) (q : Nat) (data : List Nat) (r : DescRun) (x : PortDmaX), s.awake = true → Executes s q 18 true r → dUnit
    r.desc ≤ 102 → (s.portX (dUnit r.desc)).dma = some x → x.did = r.did → x.toHost = false → ∃ t, exec (.portDmaUnit q
    false data) s = .next t ∧ t.mem = s.mem ∧ (t.portX (dUnit r.desc)).dma = none ∧ t.is (F.PORT_STAT.DMA (dUnit r.desc))
    = false ∧ Completed t q r .faulted (portDmaRes (dUnit r.desc) x.moved x.dropped (x.crc ^^^ 0xFFFFFFFF) 2)) ∧
  (∀ (s : State) (q : Nat) (ok : Bool) (data : List Nat) (r : DescRun), Executes s q 18 true r → ((s.portX (dUnit
    r.desc)).dma.map (·.did)) ≠ some r.did → exec (.portDmaUnit q ok data) s = .next (s))

/-- JOURNAL_CTL (R509, R510, R513).  The FAULTED completion for a failed read of the head is the model's choice
(assumption 107). -/
def Obligations.JournalControl : Prop :=
  (∀ (s : State) (q : Nat) (ok : Bool) (head : List (BitVec 256)) (uid : BitVec 64) (r : DescRun), Executes s q 19 false r
    → (dUnit r.desc ≠ 0 ∨ dscBits r.desc 20 2 6 ≠ 0 ∨ dscBits r.desc 21 3 5 ≠ 0 ∨ dscZeroFrom r.desc 22 = false ∨ (dscBits
    r.desc 20 0 2 ≠ 2 ∧ dscBits r.desc 21 2 1 = 1) ∨ (dscBits r.desc 20 0 2 ≠ 0 ∧ dscBits r.desc 21 0 2 ≠ 0) ∨ (dscBits
    r.desc 20 0 2 = 2 ∧ (dAddr r.desc % 64 ≠ 0 ∨ dLen r.desc = 0 ∨ dLen r.desc % 32 ≠ 0)) ∨ (dscBits r.desc 20 0 2 ≠ 2 ∧
    (dAddr r.desc ≠ 0 ∨ dLen r.desc ≠ 0))) → ∃ t, exec (.journalCtl q ok head uid) s = .next t ∧ t.rpl = s.rpl ∧ t.halls =
    s.halls ∧ t.regs = s.regs ∧ Completed t q r .badop (jnlRes 0 0 0 1)) ∧
  (∀ (s : State) (q : Nat) (ok : Bool) (head : List (BitVec 256)) (uid : BitVec 64) (r : DescRun), Executes s q 19 false r
    → dUnit r.desc = 0 → dscBits r.desc 20 0 2 = 0 → dscBits r.desc 20 2 6 = 0 → dscBits r.desc 21 3 5 = 0 → dscZeroFrom
    r.desc 22 = true → dscBits r.desc 21 2 1 = 0 → dAddr r.desc = 0 → dLen r.desc = 0 → s.recording = false → ∃ t, exec
    (.journalCtl q ok head uid) s = .next t ∧ t.recording = true ∧ t.is F.JNL_STAT.FWD = (dscBits r.desc 21 0 1 == 1) ∧
    t.is F.JNL_STAT.AGG = (dscBits r.desc 21 1 1 == 1) ∧ t.jnl = s.jnl ∧ Completed t q r .ok (jnlRes (s.g F.JNL_SEQ.VALUE)
    (natBits s.tb0 48 32) 0 0)) ∧
  (∀ (s : State) (q : Nat) (ok : Bool) (head : List (BitVec 256)) (uid : BitVec 64) (r : DescRun), Executes s q 19 false r
    → dUnit r.desc = 0 → dscBits r.desc 20 0 2 = 0 → dscBits r.desc 20 2 6 = 0 → dscBits r.desc 21 3 5 = 0 → dscZeroFrom
    r.desc 22 = true → dscBits r.desc 21 2 1 = 0 → dAddr r.desc = 0 → dLen r.desc = 0 → s.recording = true → ∃ t, exec
    (.journalCtl q ok head uid) s = .next t ∧ t.rpl = s.rpl ∧ t.halls = s.halls ∧ t.regs = s.regs ∧ t.jnl = s.jnl ∧
    Completed t q r .busy (jnlRes 0 0 0 1)) ∧
  (∀ (s : State) (q : Nat) (ok : Bool) (head : List (BitVec 256)) (uid : BitVec 64) (r : DescRun), Executes s q 19 false r
    → dUnit r.desc = 0 → dscBits r.desc 20 0 2 = 1 → dscBits r.desc 20 2 6 = 0 → dscBits r.desc 21 3 5 = 0 → dscZeroFrom
    r.desc 22 = true → dscBits r.desc 21 0 3 = 0 → dAddr r.desc = 0 → dLen r.desc = 0 → s.recording = true → s.jnl.defer =
    [] → ∃ t, exec (.journalCtl q ok head uid) s = .next t ∧ t.recording = false ∧ t.is F.JNL_STAT.FWD = false ∧ t.is
    F.JNL_STAT.AGG = false ∧ t.jnl = { s.jnl with markQ := [] } ∧ Completed t q r .ok (jnlRes ((s.g F.JNL_SEQ.VALUE + (2 ^
    32 - 1)) % 2 ^ 32) 0 0 0)) ∧
  (∀ (s : State) (q : Nat) (ok : Bool) (head : List (BitVec 256)) (uid : BitVec 64) (r : DescRun), Executes s q 19 false r
    → dUnit r.desc = 0 → dscBits r.desc 20 0 2 = 1 → dscBits r.desc 20 2 6 = 0 → dscBits r.desc 21 3 5 = 0 → dscZeroFrom
    r.desc 22 = true → dscBits r.desc 21 0 3 = 0 → dAddr r.desc = 0 → dLen r.desc = 0 → s.recording = false → ∃ t, exec
    (.journalCtl q ok head uid) s = .next t ∧ t.rpl = s.rpl ∧ t.halls = s.halls ∧ t.regs = s.regs ∧ Completed t q r .ok
    (jnlRes 0 0 0 1)) ∧
  (∀ (s : State) (q : Nat) (ok : Bool) (head : List (BitVec 256)) (uid : BitVec 64) (r : DescRun), Executes s q 19 false r
    → dUnit r.desc = 0 → dscBits r.desc 20 0 2 = 2 → dscBits r.desc 20 2 6 = 0 → dscBits r.desc 21 3 5 = 0 → dscZeroFrom
    r.desc 22 = true → dscBits r.desc 21 0 2 = 0 → dAddr r.desc % 64 = 0 → dLen r.desc ≠ 0 → dLen r.desc % 32 = 0 →
    (s.recording = true ∨ s.replaying = true) → ∃ t, exec (.journalCtl q ok head uid) s = .next t ∧ t.rpl = s.rpl ∧
    t.halls = s.halls ∧ t.regs = s.regs ∧ Completed t q r .busy (jnlRes 0 0 0 1)) ∧
  (∀ (s : State) (q : Nat) (ok : Bool) (head : List (BitVec 256)) (uid : BitVec 64) (r : DescRun), Executes s q 19 false r
    → dUnit r.desc = 0 → dscBits r.desc 20 0 2 = 2 → dscBits r.desc 20 2 6 = 0 → dscBits r.desc 21 3 5 = 0 → dscZeroFrom
    r.desc 22 = true → dscBits r.desc 21 0 2 = 0 → dAddr r.desc % 64 = 0 → dLen r.desc ≠ 0 → dLen r.desc % 32 = 0 →
    s.recording = false → s.replaying = false → s.anyRun = true → ∃ t, exec (.journalCtl q ok head uid) s = .next t ∧
    t.rpl = s.rpl ∧ t.halls = s.halls ∧ t.regs = s.regs ∧ Completed t q r .busy (jnlRes 0 0 0 2)) ∧
  (∀ (s : State) (q : Nat) (ok : Bool) (head : List (BitVec 256)) (uid : BitVec 64) (r : DescRun), Executes s q 19 false r
    → dUnit r.desc = 0 → dscBits r.desc 20 0 2 = 2 → dscBits r.desc 20 2 6 = 0 → dscBits r.desc 21 3 5 = 0 → dscZeroFrom
    r.desc 22 = true → dscBits r.desc 21 0 2 = 0 → dAddr r.desc % 64 = 0 → dLen r.desc ≠ 0 → dLen r.desc % 32 = 0 →
    s.recording = false → s.replaying = false → s.anyRun = false → ok = true → configHead head = none → ∃ t, exec
    (.journalCtl q ok head uid) s = .next t ∧ t.rpl = s.rpl ∧ t.halls = s.halls ∧ t.regs = s.regs ∧ Completed t q r .badop
    (jnlRes 0 0 0 2)) ∧
  (∀ (s : State) (q : Nat) (ok : Bool) (head : List (BitVec 256)) (uid : BitVec 64) (r : DescRun), Executes s q 19 false r
    → dUnit r.desc = 0 → dscBits r.desc 20 0 2 = 2 → dscBits r.desc 20 2 6 = 0 → dscBits r.desc 21 3 5 = 0 → dscZeroFrom
    r.desc 22 = true → dscBits r.desc 21 0 2 = 0 → dAddr r.desc % 64 = 0 → dLen r.desc ≠ 0 → dLen r.desc % 32 = 0 →
    s.recording = false → s.replaying = false → s.anyRun = false → ok = true → (configHead head).isSome = true →
    configHead head ≠ some (s.digest uid) → ∃ t, exec (.journalCtl q ok head uid) s = .next t ∧ t.rpl = s.rpl ∧ t.halls =
    s.halls ∧ t.replaying = false ∧ ((List.range 8).all fun k => t.rd (R.JNL_DIGEST k) == BitVec.ofNat 32 (natBits
    (s.digest uid) (32 * k) 32)) = true ∧ Completed t q r .denied (jnlRes 0 0 0 2)) ∧
  (∀ (s : State) (q : Nat) (uid : BitVec 64) (r : DescRun), Executes s q 19 false r → dUnit r.desc = 0 → dscBits r.desc 20
    0 2 = 2 → dscBits r.desc 20 2 6 = 0 → dscBits r.desc 21 3 5 = 0 → dscZeroFrom r.desc 22 = true → dscBits r.desc 21 0 2
    = 0 → dscBits r.desc 21 2 1 = 1 → dAddr r.desc % 64 = 0 → dLen r.desc ≠ 0 → dLen r.desc % 32 = 0 → s.recording = false
    → s.replaying = false → s.anyRun = false → ∃ t, exec (.journalCtl q true (replayHead (s.digest uid)) uid) s = .next t
    ∧ t.replaying = true ∧ t.is F.JNL_STAT.BENCH = true ∧ t.g F.RPL_POS.VALUE = 0 ∧ t.rpl = some
    { did := r.did, base := dAddr r.desc, len := dLen r.desc } ∧ (t.queue q).run = some { r with acted := true } ∧ t.out =
    s.out ++ [.hostRead (dAddr r.desc) (min 96 (dLen r.desc))] ∧ t.halls = s.halls) ∧
  (∀ (s : State) (q : Nat) (uid : BitVec 64) (r : DescRun), Executes s q 19 false r → dUnit r.desc = 0 → dscBits r.desc 20
    0 2 = 2 → dscBits r.desc 20 2 6 = 0 → dscBits r.desc 21 3 5 = 0 → dscZeroFrom r.desc 22 = true → dscBits r.desc 21 0 2
    = 0 → dscBits r.desc 21 2 1 = 0 → dAddr r.desc % 64 = 0 → dLen r.desc ≠ 0 → dLen r.desc % 32 = 0 → s.recording = false
    → s.replaying = false → s.anyRun = false → r.did ∉ s.unitDids → ∃ t, exec (.journalCtl q true (replayHead (s.digest
    uid)) uid) s = .next t ∧ t.replaying = true ∧ t.is F.JNL_STAT.BENCH = false ∧ t.g F.RPL_POS.VALUE = 0 ∧ t.rpl = some
    { did := r.did, base := dAddr r.desc, len := dLen r.desc } ∧ (t.queue q).run = some { r with acted := true } ∧
    ((List.range s.part.halls).all fun h => (List.range 32).all fun c => t.is (F.PE_STAT.SAFE h c) && !t.is
    (F.PE_STAT.EN_EFF h c)) = true ∧ ((List.range s.part.smus).all fun k => t.is (F.SMU_STAT.SAFE k)) = true) ∧
  (∀ (s : State) (q : Nat) (head : List (BitVec 256)) (uid : BitVec 64) (r : DescRun), Executes s q 19 false r → dUnit
    r.desc = 0 → dscBits r.desc 20 0 2 = 2 → dscBits r.desc 20 2 6 = 0 → dscBits r.desc 21 3 5 = 0 → dscZeroFrom r.desc 22
    = true → dscBits r.desc 21 0 2 = 0 → dAddr r.desc % 64 = 0 → dLen r.desc ≠ 0 → dLen r.desc % 32 = 0 → s.recording =
    false → s.replaying = false → s.anyRun = false → ∃ t, exec (.journalCtl q false head uid) s = .next t ∧ t.rpl = s.rpl
    ∧ t.halls = s.halls ∧ t.regs = s.regs ∧ Completed t q r .faulted (jnlRes 0 0 0 1)) ∧
  (∀ (s : State) (q : Nat) (ok : Bool) (head : List (BitVec 256)) (uid : BitVec 64) (r : DescRun), Executes s q 19 false r
    → dUnit r.desc = 0 → dscBits r.desc 20 0 2 = 3 → dscBits r.desc 20 2 6 = 0 → dscBits r.desc 21 3 5 = 0 → dscZeroFrom
    r.desc 22 = true → dscBits r.desc 21 0 3 = 0 → dAddr r.desc = 0 → dLen r.desc = 0 → s.replaying = false → ∃ t, exec
    (.journalCtl q ok head uid) s = .next t ∧ t.rpl = s.rpl ∧ t.halls = s.halls ∧ t.regs = s.regs ∧ Completed t q r .ok
    (jnlRes 0 0 0 1)) ∧
  (∀ (s : State) (q : Nat) (ok : Bool) (head : List (BitVec 256)) (uid : BitVec 64) (r : DescRun) (x : ReplayX) (q2 : Nat)
    (r2 : DescRun), Executes s q 19 false r → dUnit r.desc = 0 → dscBits r.desc 20 0 2 = 3 → dscBits r.desc 20 2 6 = 0 →
    dscBits r.desc 21 3 5 = 0 → dscZeroFrom r.desc 22 = true → dscBits r.desc 21 0 3 = 0 → dAddr r.desc = 0 → dLen r.desc
    = 0 → s.replaying = true → s.rpl = some x → s.queueOf x.did = some q2 → (s.queue q2).run = some r2 → q2 ≠ q → x.did ≠
    r.did → x.did ∉ s.unitDids → r.did ∉ s.unitDids → ∃ t, exec (.journalCtl q ok head uid) s = .next t ∧ t.rpl = none ∧
    t.replaying = false ∧ t.is F.JNL_STAT.BENCH = false ∧ Completed t q2 r2 .deferred (jnlRes x.seq x.pos x.diverge 3) ∧
    Completed t q r .ok (jnlRes 0 0 0 0) ∧ ((List.range s.part.halls).all fun h => (List.range 96).all fun i => !(alcReady
    ≤ s.alcSt h i && s.alcSt h i ≤ alcParked) || t.alcSt h i == alcDone) = true)

/-- The journal ring (R500, R505), journal frames (R506), the digest (R508), and the inputs and the end of a replay (R511,
R513). -/
def Obligations.JournalEngineAndReplay : Prop :=
  (∀ (s : State) (rc : JRec) (rest : List JRec), s.awake = true → s.jnl.fifo = rc :: rest → s.jnlWaits = false →
    s.ringFree 4 = true → s.is F.JNL_STAT.FWD = false → rest.length < 2048 → ∃ t, exec .journalRingWrite s = .next t ∧
    t.jnl = { s.jnl with fifo := rest } ∧ t.out = s.out ++ [.hostWrite (addr64 (s.rd (R.RR_BASE_LO 4)) (s.rd (R.RR_BASE_HI
    4)) + 32 * s.g (F.RR_TAIL.INDEX 4)) 32 rc.bytes] ∧ t.g (F.RR_TAIL.INDEX 4) = (s.g (F.RR_TAIL.INDEX 4) + 1) %
    s.ringSize 4 ∧ t.g F.JNL_STAT.FIFO = rest.length) ∧
  (∀ (s : State), s.jnlWaits = true → exec .journalRingWrite s = .next (s)) ∧
  (∀ (s : State), s.awake = true → s.jnl.frame ≠ [] → s.linkUp (s.g F.GAL_STAT.ACTIVE) = true → ∃ t, exec
    .journalFrameSend s = .next t ∧ t.jnl = { s.jnl with frame := [] } ∧ t.regs = s.regs ∧ t.gal =
    { s.gal with seqJnl := (s.gal.seqJnl + 1) % 2 ^ 32 } ∧ t.out = s.out ++ [.frame 3 (s.g F.GAL_STAT.ACTIVE) (arrayFrame
    (s.g F.GAL_STAT.ACTIVE) (s.frameHead 3 s.gal.seqJnl ++ bigEndian 2 s.jnl.frame.length ++ [0, 0] ++ s.jnl.frame.flatMap
    (fun rc => (List.range 32).map (fun i => natBits rc.bytes (8 * i) 8))))]) ∧
  (∀ (s : State), s.jnl.frame = [] → exec .journalFrameSend s = .next (s)) ∧
  (∀ (s : State) (port uid i : Nat) (ws : List (BitVec 256)), s.findPeer uid = some i → s.linkUp port = true → s.recording
    = true → s.is F.JNL_STAT.AGG = true → ws ≠ [] → ws.length ≤ 40 → s.jnl.fifo.length + ws.length ≤ 2015 → s.jnl.lost = 0
    → ∃ t, exec (.journalFrameRx port uid ws) s = .next t ∧ t.jnl.fifo = s.jnl.fifo ++
    { s.jrec 0x65 0xFF i 0 (packB [(0, 8, uid)]) with seq := s.g F.JNL_SEQ.VALUE } :: ws.map (fun w => recOf w.toNat) ∧
    t.g F.JNL_SEQ.VALUE = (s.g F.JNL_SEQ.VALUE + 1) % 2 ^ 32) ∧
  (∀ (s : State) (port uid i : Nat) (ws : List (BitVec 256)), s.findPeer uid = some i → s.linkUp port = true → s.recording
    = true → s.is F.JNL_STAT.AGG = true → ws ≠ [] → ws.length ≤ 40 → 2015 < s.jnl.fifo.length + ws.length → exec
    (.journalFrameRx port uid ws) s = .next (s.count F.JNL_DROP.COUNT F.JNL_DROP.SAT)) ∧
  (∀ (s : State) (port uid : Nat) (ws : List (BitVec 256)), (s.findPeer uid = none ∨ s.linkUp port = false ∨ s.recording =
    false ∨ s.is F.JNL_STAT.AGG = false ∨ ws = [] ∨ 40 < ws.length) → exec (.journalFrameRx port uid ws) s = .next (s)) ∧
  (∀ (s : State) (n dg : Nat) (rest : List (Nat × Nat)), s.awake = true → s.jnl.hash = (n, dg) :: rest → ∃ t, exec
    .digestReady s = .next t ∧ ((List.range 8).all fun k => t.rd (R.JNL_DIGEST k) == BitVec.ofNat 32 (dg / 2 ^ (32 * k)))
    = true ∧ t.jnl = { s.jnl with hash := rest } ∧ t.out = s.out) ∧
  (∀ (s : State) (w : BitVec 256) (x : ReplayX) (r : JRec), s.awake = true → s.rpl = some x → x.pos < x.len → recOf
    w.toNat = r → (s.rplForeign r = true ∨ r.typ = 0x5F) → r.typ ≠ 3 → ∃ t, exec (.replayInput w) s = .next t ∧ t.rpl =
    some { x with pos := x.pos + 32, seq := r.seq } ∧ t.g F.RPL_POS.VALUE = (x.pos + 32) % 2 ^ 32 ∧ t.out = s.out ++
    [.hostRead (x.base + x.pos) 32] ∧ t.halls = s.halls ∧ t.mem = s.mem) ∧
  (∀ (s : State) (w : BitVec 256) (x : ReplayX) (r : JRec), s.awake = true → s.rpl = some x → x.pos < x.len → recOf
    w.toNat = r → s.rplForeign r = false → s.rplReady r = false → r.typ ≠ 0x5F → exec (.replayInput w) s = .next (s)) ∧
  (∀ (s : State) (w : BitVec 256) (x : ReplayX) (r : JRec), s.awake = true → s.rpl = some x → x.pos < x.len → recOf
    w.toNat = r → s.rplForeign r = false → s.rplReady r = true → (s.hallOk r.hall = false ∨ x.seen.contains r.hall = true)
    → r.typ ∈ [4, 5, 0x56, 0x57, 0x60, 0x61, 0x62, 0x65, 0x66] → ∃ t, exec (.replayInput w) s = .next t ∧ t.rpl = some
    { x with pos := x.pos + 32, seq := r.seq } ∧ t.g F.RPL_POS.VALUE = (x.pos + 32) % 2 ^ 32 ∧ t.out = s.out ++ [.hostRead
    (x.base + x.pos) 32] ∧ t.halls = s.halls ∧ t.mem = s.mem ∧ t.alcs = s.alcs) ∧
  (∀ (s : State) (w : BitVec 256) (x : ReplayX) (r : JRec), s.awake = true → s.rpl = some x → x.pos < x.len → recOf
    w.toNat = r → s.rplForeign r = false → s.rplReady r = true → (s.hallOk r.hall = false ∨ x.seen.contains r.hall = true)
    → r.typ = 0x50 → (x.admits.find? (fun a => a.1 == r.hall)) = none → ∃ t, exec (.replayInput w) s = .next t ∧ t.rpl.map
    (·.snaps) = some (x.snaps ++ [{ hall := r.hall, resample := false, bits := r.dat 0 4, mask := r.dat 4 4, axis :=
                                      r.axis, land := r.dat 8 4 }]) ∧ t.halls = s.halls ∧ t.alcs = s.alcs ∧ t.rpl.map (fun
    y => (y.pos, y.seq)) = some (x.pos + 32, r.seq) ∧ t.g F.RPL_POS.VALUE = (x.pos + 32) % 2 ^ 32 ∧ t.out = s.out ++
    [.hostRead (x.base + x.pos) 32]) ∧
  (∀ (s : State) (w : BitVec 256) (x : ReplayX) (r : JRec), s.awake = true → s.rpl = some x → x.pos < x.len → recOf
    w.toNat = r → s.rplForeign r = false → s.rplReady r = true → (s.hallOk r.hall = false ∨ x.seen.contains r.hall = true)
    → r.typ = 0x52 → ∃ t, exec (.replayInput w) s = .next t ∧ t.rpl.map (·.snaps) = some (x.snaps ++ [{ hall := r.hall,
                                                                                                          resample :=
                                                                                                          true, bits :=
                                                                                                          r.dat 0 4, mask
                                                                                                          := r.dat 4 4,
                                                                                                          axis := r.axis,
                                                                                                          land := r.dat 8
                                                                                                          4 }]) ∧ t.halls
    = s.halls ∧ t.alcs = s.alcs ∧ t.rpl.map (fun y => (y.pos, y.seq)) = some (x.pos + 32, r.seq) ∧ t.g F.RPL_POS.VALUE =
    (x.pos + 32) % 2 ^ 32 ∧ t.out = s.out ++ [.hostRead (x.base + x.pos) 32]) ∧
  (∀ (s : State) (w : BitVec 256) (x : ReplayX) (r : JRec), s.awake = true → s.rpl = some x → x.pos < x.len → recOf
    w.toNat = r → s.rplForeign r = false → s.rplReady r = true → (s.hallOk r.hall = false ∨ x.seen.contains r.hall = true)
    → r.typ = 0x51 → s.hallOk (r.subj / 96) = true → (s.alc (r.subj / 96) (r.subj % 96)).fails + r.dat 0 4 < 2 ^ 31 → ∃ t,
    exec (.replayInput w) s = .next t ∧ (t.alc (r.subj / 96) (r.subj % 96)).fails = (s.alc (r.subj / 96) (r.subj %
    96)).fails + r.dat 0 4 ∧ (t.alc (r.subj / 96) (r.subj % 96)).firstEntry = (if r.dat 4 4 = 0xFFFFFFFF then (s.alc
    (r.subj / 96) (r.subj % 96)).firstEntry else some (r.dat 4 4)) ∧ (t.alc (r.subj / 96) (r.subj % 96)).firstFlight = (if
    r.arg = 0xFFFF then (s.alc (r.subj / 96) (r.subj % 96)).firstFlight else some r.arg) ∧ t.rpl.map (·.wins) = some
    (x.wins ++ [(r.subj, r.dat 0 4)]) ∧ t.rpl.map (fun y => (y.pos, y.seq)) = some (x.pos + 32, r.seq) ∧ t.g
    F.RPL_POS.VALUE = (x.pos + 32) % 2 ^ 32 ∧ t.out = s.out ++ [.hostRead (x.base + x.pos) 32]) ∧
  (∀ (s : State) (w : BitVec 256) (x : ReplayX) (r : JRec), s.awake = true → s.rpl = some x → x.pos < x.len → recOf
    w.toNat = r → s.rplForeign r = false → s.rplReady r = true → (s.hallOk r.hall = false ∨ x.seen.contains r.hall = true)
    → r.typ = 0x54 → r.arg = 0 → r.hall < s.part.halls → s.is (F.JMP_REQ.REQ r.hall) = false → s.anyLive r.hall = true →
    s.inWait r.hall = false → ∃ t, exec (.replayInput w) s = .next t ∧ (t.hl r.hall).eng.jump = some (r.dat 0 2) ∧ t.is
    (F.LAND_STAT.JUMP_PEND r.hall) = true ∧ t.g (F.JMP_REQ.TARGET r.hall) = r.dat 0 2 ∧ t.rpl.map (fun y => (y.pos,
    y.seq)) = some (x.pos + 32, r.seq) ∧ t.g F.RPL_POS.VALUE = (x.pos + 32) % 2 ^ 32 ∧ t.out = s.out ++ [.hostRead (x.base
    + x.pos) 32]) ∧
  (∀ (s : State) (w : BitVec 256) (x : ReplayX) (r : JRec), s.awake = true → s.rpl = some x → x.pos < x.len → recOf
    w.toNat = r → s.rplForeign r = false → s.rplReady r = true → (s.hallOk r.hall = false ∨ x.seen.contains r.hall = true)
    → r.typ = 0x54 → r.arg = 1 → r.hall < s.part.halls → s.liveBank r.hall ≠ none → s.inWait r.hall = false → ∃ t, exec
    (.replayInput w) s = .next t ∧ (t.hl r.hall).eng.stops = (s.hl r.hall).eng.stops ++ [0] ∧ t.is (F.LAND_STAT.STOP_PEND
    r.hall) = true ∧ t.rpl.map (fun y => (y.pos, y.seq)) = some (x.pos + 32, r.seq) ∧ t.g F.RPL_POS.VALUE = (x.pos + 32) %
    2 ^ 32 ∧ t.out = s.out ++ [.hostRead (x.base + x.pos) 32]) ∧
  (∀ (s : State) (w : BitVec 256) (x : ReplayX) (r : JRec), s.awake = true → s.rpl = some x → x.pos < x.len → recOf
    w.toNat = r → s.rplForeign r = false → s.rplReady r = true → (s.hallOk r.hall = false ∨ x.seen.contains r.hall = true)
    → r.typ = 0x55 → r.hall < s.part.halls → ∃ t, exec (.replayInput w) s = .next t ∧ (t.hl r.hall).eng.hev = ((s.hl
    r.hall).eng.hev ||| 1 <<< (r.arg % 8)) ∧ t.alcs = s.alcs ∧ t.rpl.map (fun y => (y.pos, y.seq)) = some (x.pos + 32,
    r.seq) ∧ t.g F.RPL_POS.VALUE = (x.pos + 32) % 2 ^ 32 ∧ t.out = s.out ++ [.hostRead (x.base + x.pos) 32]) ∧
  (∀ (s : State) (w : BitVec 256) (x : ReplayX) (r : JRec) (y : SendReq), s.awake = true → s.rpl = some x → x.pos < x.len
    → recOf w.toNat = r → s.rplForeign r = false → s.rplReady r = true → (s.hallOk r.hall = false ∨ x.seen.contains r.hall
    = true) → r.typ = 0x58 → r.hall < s.part.halls → s.dryRun = false → x.sends = [(r.hall, y)] → y.alc = r.subj % 96 →
    (s.alc r.hall (r.subj % 96)).lastSend = y.seq → ∃ t, exec (.replayInput w) s = .next t ∧ (t.alc r.hall (r.subj %
    96)).sdone = true ∧ (t.alc r.hall (r.subj % 96)).smis = (r.dat 0 1 % 2 == 1) ∧ t.rpl.map (·.sends) = some [] ∧
    t.rpl.map (fun y => (y.pos, y.seq)) = some (x.pos + 32, r.seq) ∧ t.g F.RPL_POS.VALUE = (x.pos + 32) % 2 ^ 32 ∧ t.out =
    s.out ++ [.hostRead (x.base + x.pos) 32]) ∧
  (∀ (s : State) (w : BitVec 256) (x : ReplayX) (r : JRec) (y : MeasReq), s.awake = true → s.rpl = some x → x.pos < x.len
    → recOf w.toNat = r → s.rplForeign r = false → s.rplReady r = true → (s.hallOk r.hall = false ∨ x.seen.contains r.hall
    = true) → r.typ = 0x59 → r.hall < s.part.halls → s.dryRun = false → x.meas = [y] → y.hall = r.hall → y.alc = r.subj %
    96 → y.ch = r.arg → ∃ t, exec (.replayInput w) s = .next t ∧ (t.alc r.hall (r.subj % 96)).mdone = true ∧ (t.alc r.hall
    (r.subj % 96)).mout = (decide (signed 32 (r.dat 0 4) < signed 32 (s.g (F.MSET_LO.LIMIT (y.ch / 4) y.mset))) || decide
    (signed 32 (s.g (F.MSET_HI.LIMIT (y.ch / 4) y.mset)) < signed 32 (r.dat 0 4)) || s.fenced (32 + y.ch / 4) || s.is
    (F.SMU_STAT.TRIPPED y.ch)) ∧ (t.alc r.hall (r.subj % 96)).lastMeas = signed 32 (r.dat 0 4) ∧ t.rpl.map (·.meas) = some
    [] ∧ t.rpl.map (fun y => (y.pos, y.seq)) = some (x.pos + 32, r.seq) ∧ t.g F.RPL_POS.VALUE = (x.pos + 32) % 2 ^ 32 ∧
    t.out = s.out ++ [.hostRead (x.base + x.pos) 32]) ∧
  (∀ (s : State) (w : BitVec 256) (x : ReplayX) (r : JRec), s.awake = true → s.rpl = some x → x.pos < x.len → recOf
    w.toNat = r → s.rplForeign r = false → s.rplReady r = true → (s.hallOk r.hall = false ∨ x.seen.contains r.hall = true)
    → r.typ = 0x5A → r.hall < s.part.halls → r.arg < 4 → ∃ t, exec (.replayInput w) s = .next t ∧ natBits (t.g
    (F.TDC_HALL_STAT.TDCQ r.hall)) r.arg 1 = 1 ∧ (List.range 4).all (fun k => k == r.arg || natBits (t.g
    (F.TDC_HALL_STAT.TDCQ r.hall)) k 1 == natBits (s.g (F.TDC_HALL_STAT.TDCQ r.hall)) k 1) = true ∧ t.halls = s.halls ∧
    t.rpl.map (fun y => (y.pos, y.seq)) = some (x.pos + 32, r.seq) ∧ t.g F.RPL_POS.VALUE = (x.pos + 32) % 2 ^ 32 ∧ t.out =
    s.out ++ [.hostRead (x.base + x.pos) 32]) ∧
  (∀ (s : State) (w : BitVec 256) (x : ReplayX) (r : JRec), s.awake = true → s.rpl = some x → x.pos < x.len → recOf
    w.toNat = r → s.rplForeign r = false → s.rplReady r = true → (s.hallOk r.hall = false ∨ x.seen.contains r.hall = true)
    → r.typ = 0x5B → r.hall < s.part.halls → r.arg = 1 → ∃ t, exec (.replayInput w) s = .next t ∧ t.g (F.AXIS_STAT.STATE
    r.hall) = axLocked ∧ t.halls = s.halls ∧ t.rpl.map (fun y => (y.pos, y.seq)) = some (x.pos + 32, r.seq) ∧ t.g
    F.RPL_POS.VALUE = (x.pos + 32) % 2 ^ 32 ∧ t.out = s.out ++ [.hostRead (x.base + x.pos) 32]) ∧
  (∀ (s : State) (w : BitVec 256) (x : ReplayX) (r : JRec), s.awake = true → s.rpl = some x → x.pos < x.len → recOf
    w.toNat = r → s.rplForeign r = false → s.rplReady r = true → (s.hallOk r.hall = false ∨ x.seen.contains r.hall = true)
    → r.typ = 0x5B → r.hall < s.part.halls → r.arg = 2 → ∃ t, exec (.replayInput w) s = .next t ∧ t.g (F.AXIS_STAT.STATE
    r.hall) = axHoldover ∧ t.is (F.AXIS_STAT.AXIS_LOST r.hall) = true ∧ t.is (F.AXIS_STAT.ALIGNED r.hall) = false ∧
    t.halls = s.halls ∧ t.rpl.map (fun y => (y.pos, y.seq)) = some (x.pos + 32, r.seq) ∧ t.g F.RPL_POS.VALUE = (x.pos +
    32) % 2 ^ 32 ∧ t.out = s.out ++ [.hostRead (x.base + x.pos) 32]) ∧
  (∀ (s : State) (w : BitVec 256) (x : ReplayX) (r : JRec), s.awake = true → s.rpl = some x → x.pos < x.len → recOf
    w.toNat = r → s.rplForeign r = false → s.rplReady r = true → (s.hallOk r.hall = false ∨ x.seen.contains r.hall = true)
    → r.typ = 0x5B → r.hall < s.part.halls → r.arg ∈ [5, 7, 8] → ∃ t, exec (.replayInput w) s = .next t ∧ t.rpl.map
    (·.notes) = some (x.notes ++ [(r.hall, r.arg, r.dat 2 4)]) ∧ t.halls = s.halls ∧ t.rpl.map (fun y => (y.pos, y.seq)) =
    some (x.pos + 32, r.seq) ∧ t.g F.RPL_POS.VALUE = (x.pos + 32) % 2 ^ 32 ∧ t.out = s.out ++ [.hostRead (x.base + x.pos)
    32]) ∧
  (∀ (s : State) (w : BitVec 256) (x : ReplayX) (r : JRec), s.awake = true → s.rpl = some x → x.pos < x.len → recOf
    w.toNat = r → s.rplForeign r = false → s.rplReady r = true → (s.hallOk r.hall = false ∨ x.seen.contains r.hall = true)
    → r.typ = 0x5C → r.hall < s.part.halls → r.subj < 3 → r.arg = 1 → r.dat 0 1 < 8 → ∃ t, exec (.replayInput w) s = .next
    t ∧ t.g (deferField r.hall r.subj) = r.dat 0 1 ∧ t.halls = s.halls ∧ t.rpl.map (fun y => (y.pos, y.seq)) = some (x.pos
    + 32, r.seq) ∧ t.g F.RPL_POS.VALUE = (x.pos + 32) % 2 ^ 32 ∧ t.out = s.out ++ [.hostRead (x.base + x.pos) 32]) ∧
  (∀ (s : State) (w : BitVec 256) (x : ReplayX) (r : JRec), s.awake = true → s.rpl = some x → x.pos < x.len → recOf
    w.toNat = r → s.rplForeign r = false → s.rplReady r = true → (s.hallOk r.hall = false ∨ x.seen.contains r.hall = true)
    → r.typ = 0x5D → r.arg = 0 → ∃ t, exec (.replayInput w) s = .next t ∧ t.rpl.map (·.level) = some (r.dat 0 1) ∧ t.halls
    = s.halls ∧ t.rpl.map (fun y => (y.pos, y.seq)) = some (x.pos + 32, r.seq) ∧ t.g F.RPL_POS.VALUE = (x.pos + 32) % 2 ^
    32 ∧ t.out = s.out ++ [.hostRead (x.base + x.pos) 32]) ∧
  (∀ (s : State) (w : BitVec 256) (x : ReplayX) (r : JRec), s.awake = true → s.rpl = some x → x.pos < x.len → recOf
    w.toNat = r → s.rplForeign r = false → s.rplReady r = true → (s.hallOk r.hall = false ∨ x.seen.contains r.hall = true)
    → r.typ = 0x5E → r.arg = 0 → r.subj % 8 ≠ 5 → ∃ t, exec (.replayInput w) s = .next t ∧ t.rpl = some
    { x with pos := x.pos + 32, seq := r.seq } ∧ t.halls = s.halls ∧ t.alcs = s.alcs ∧ t.rpl.map (fun y => (y.pos, y.seq))
    = some (x.pos + 32, r.seq) ∧ t.g F.RPL_POS.VALUE = (x.pos + 32) % 2 ^ 32 ∧ t.out = s.out ++ [.hostRead (x.base +
    x.pos) 32]) ∧
  (∀ (s : State) (w : BitVec 256) (x : ReplayX) (r : JRec), s.awake = true → s.rpl = some x → x.pos < x.len → recOf
    w.toNat = r → s.rplForeign r = false → s.rplReady r = true → (s.hallOk r.hall = false ∨ x.seen.contains r.hall = true)
    → r.typ = 0x5E → r.arg = 2 → r.subj % 8 ≠ 5 → s.srcAlcs r.subj = [] → r.dat 0 1 < 32 → s.hallOk (r.dat 0 1) = true → ∃
    t, exec (.replayInput w) s = .next t ∧ t.fenced (r.dat 0 1) = s.fenced (r.dat 0 1) ∧ ((List.range 96).all fun i =>
    t.alcSt (r.dat 0 1) i != alcLive) = true ∧ t.rpl.map (fun y => (y.pos, y.seq)) = some (x.pos + 32, r.seq) ∧ t.g
    F.RPL_POS.VALUE = (x.pos + 32) % 2 ^ 32) ∧
  (∀ (s : State) (w : BitVec 256) (x : ReplayX) (r : JRec), s.awake = true → s.rpl = some x → x.pos < x.len → recOf
    w.toNat = r → s.rplForeign r = false → s.rplReady r = true → (s.hallOk r.hall = false ∨ x.seen.contains r.hall = true)
    → r.typ = 0x64 → s.inService = true → 31 < s.part.halls → r.dat 0 4 = R.HOLD_VEC 31 3 → ∃ t, exec (.replayInput w) s =
    .next t ∧ t.rd (R.HOLD_VEC 31 3) = BitVec.ofNat 32 (r.dat 4 4) ∧ t.rpl.map (fun y => (y.pos, y.seq)) = some (x.pos +
    32, r.seq) ∧ t.g F.RPL_POS.VALUE = (x.pos + 32) % 2 ^ 32) ∧
  (∀ (s : State) (w : BitVec 256) (x : ReplayX) (r : JRec), s.awake = true → s.rpl = some x → x.pos < x.len → recOf
    w.toNat = r → s.rplForeign r = false → s.rplReady r = true → (s.hallOk r.hall = false ∨ x.seen.contains r.hall = true)
    → r.typ = 0x63 → r.dat 0 4 = 0 → ∃ t, exec (.replayInput w) s = .next t ∧ t.tb2 = 0 ∧ t.halls = s.halls ∧ t.rpl.map
    (fun y => (y.pos, y.seq)) = some (x.pos + 32, r.seq) ∧ t.g F.RPL_POS.VALUE = (x.pos + 32) % 2 ^ 32 ∧ t.out = s.out ++
    [.hostRead (x.base + x.pos) 32]) ∧
  (∀ (s : State) (w : BitVec 256) (x : ReplayX) (r : JRec) (q : Nat) (r2 : DescRun), s.awake = true → s.rpl = some x →
    x.pos < x.len → recOf w.toNat = r → s.rplForeign r = false → s.rplReady r = true → (s.hallOk r.hall = false ∨
    x.seen.contains r.hall = true) → r.typ = 3 → s.queueOf x.did = some q → (s.queue q).run = some r2 → x.did ∉ s.unitDids
    → ∃ t, exec (.replayInput w) s = .next t ∧ t.rpl = none ∧ t.replaying = false ∧ t.is F.JNL_STAT.BENCH = false ∧
    ((List.range s.part.halls).all fun h => (List.range 96).all fun i => !(alcReady ≤ s.alcSt h i && s.alcSt h i ≤
    alcParked) || t.alcSt h i == alcDone) = true ∧ Completed t q r2 .deferred (jnlRes r.seq (x.pos + 32) x.diverge 1)) ∧
  (∀ (s : State) (q : Nat) (x : ReplayX) (r : DescRun), s.awake = true → s.rpl = some x → x.len ≤ x.pos → s.queueOf x.did
    = some q → (s.queue q).run = some r → x.did ∉ s.unitDids → ∃ t, exec .replayEnd s = .next t ∧ t.rpl = none ∧
    t.replaying = false ∧ t.is F.JNL_STAT.BENCH = false ∧ ((List.range s.part.halls).all fun h => (List.range 96).all fun
    i => !(alcReady ≤ s.alcSt h i && s.alcSt h i ≤ alcParked) || t.alcSt h i == alcDone) = true ∧ Completed t q r .ok
    (jnlRes x.seq x.pos x.diverge 0)) ∧
  (∀ (s : State), (s.rpl.map (fun x => decide (x.len ≤ x.pos))) ≠ some true → exec .replayEnd s = .next (s))

/-- Supplies and reset pins (R535–R538, R545–R548, R550), and the host-interface resets (R232, R548). -/
def Obligations.SuppliesAndResetPins : Prop :=
  (∀ (s : State), s.boot.vaux = false → ∃ t, exec .vauxApply s = .next t ∧ t.boot = { s.boot with vaux := true } ∧ t.is
    F.RESET_CAUSE.VAUX_ON = true ∧ t.mem = s.mem) ∧
  (∀ (s : State), s.boot.vaux = true → exec .vauxApply s = .next (s)) ∧
  (∀ (s : State), ∃ t, exec .vauxRemove s = .next t ∧ t.boot.vaux = false ∧ t.boot.otp = s.boot.otp ∧ t.g
    F.BOOT_STAGE.STAGE = 0 ∧ t.rd R.RESET_CAUSE = 0 ∧ t.is F.FLT_STATUS.GRAVE = false ∧ t.mem = [] ∧ t.halls = [] ∧ t.alcs
    = [] ∧ t.flights = [] ∧ t.queues = []) ∧
  (∀ (s : State), s.boot.porN = true → s.boot.vaux = true → s.g F.BOOT_STAGE.STAGE ≠ 0 → ∃ t, exec .porNFall s = .next t ∧
    t.boot.porN = false ∧ t.g F.BOOT_STAGE.STAGE = 0 ∧ t.is F.RESET_CAUSE.POR_N = true ∧ t.is F.FLT_STATUS.GRAVE = s.is
    F.FLT_STATUS.GRAVE ∧ t.rd R.FLT_GRAVE_SRC = s.rd R.FLT_GRAVE_SRC ∧ t.boot.otp = s.boot.otp ∧ t.mem = [] ∧ t.halls = []
    ∧ t.alcs = [] ∧ t.flights = [] ∧ t.queues = []) ∧
  (∀ (s : State), s.boot.porN = true → (s.boot.vaux = false ∨ s.g F.BOOT_STAGE.STAGE = 0) → exec .porNFall s = .next
    ({ s with boot := { s.boot with porN := false } })) ∧
  (∀ (s : State), s.boot.porN = false → exec .porNFall s = .next (s)) ∧
  (∀ (s : State), s.boot.porN = false → s.boot.vaux = true → ∃ t, exec .porNRise s = .next t ∧ t.boot =
    { s.boot with porN := true, began := s.cyc } ∧ t.g F.BOOT_STAGE.STAGE = 1 ∧ t.mem = s.mem) ∧
  (∀ (s : State), s.boot.porN = false → s.boot.vaux = false → exec .porNRise s = .next
    ({ s with boot := { s.boot with porN := true } })) ∧
  (∀ (s : State), s.boot.porN = true → exec .porNRise s = .next (s)) ∧
  (∀ (s : State), s.g F.BOOT_STAGE.STAGE = 6 → ∃ t, exec (.pgoodInChange false) s = .next t ∧ t.boot =
    { s.boot with pgood := false } ∧ t.is F.BOOT_ERR.PGOOD_WAIT = true ∧ t.mem = s.mem) ∧
  (∀ (s : State) (up : Bool), s.inService = false → (s.g F.BOOT_STAGE.STAGE ≠ 6 ∨ up = true) → exec (.pgoodInChange up) s
    = .next ({ s with boot := { s.boot with pgood := up } })) ∧
  (∀ (s : State) (src : Nat), s.inService = true → src ∈ [369, 370] → s.srcMasked src = false → ∃ t, exec (.pgoodInChange
    false) s = .next t ∧ t.boot = { s.boot with pgood := false } ∧ t.is (F.FLT_SRC_STAT.PRESENT src) = true ∧ (s.is
    (F.FLT_SRC_STAT.PRESENT src) = true ∨ (t.flt.input.any fun x => x.src == src) = true)) ∧
  (∀ (s : State), s.inService = true → ∃ t, exec (.pgoodInChange true) s = .next t ∧ t.boot =
    { s.boot with pgood := true } ∧ t.halls = s.halls ∧ t.mem = s.mem) ∧
  (∀ (s : State), s.inService = true → s.boot.perstN = true → ∃ t, exec .perstNAssert s = .next t ∧ t.boot =
    { s.boot with perstN := false } ∧ t.is F.RESET_CAUSE.PERST = true ∧ t.queues = [] ∧ t.halls = s.halls ∧ t.flights =
    s.flights ∧ t.alcs = s.alcs ∧ t.mem = s.mem ∧ t.g F.BOOT_STAGE.STAGE = s.g F.BOOT_STAGE.STAGE ∧ ((List.range 128).all
    fun n => (t.vec n).mask && !(t.vec n).pend) = true) ∧
  (∀ (s : State), (s.inService = false ∨ s.boot.perstN = false) → exec .perstNAssert s = .next
    ({ s with boot := { s.boot with perstN := false } })) ∧
  (∀ (s : State), exec .perstNRelease s = .next ({ s with boot := { s.boot with perstN := true } })) ∧
  (∀ (s : State), s.inService = true → ∃ t, exec .pcieLinkLoss s = .next t ∧ t.is F.RESET_CAUSE.LINK = true ∧ t.queues =
    [] ∧ t.halls = s.halls ∧ t.flights = s.flights ∧ t.alcs = s.alcs ∧ t.mem = s.mem ∧ t.g F.BOOT_STAGE.STAGE = s.g
    F.BOOT_STAGE.STAGE ∧ ((List.range 128).all fun n => (t.vec n).mask && !(t.vec n).pend) = true) ∧
  (∀ (s : State), s.inService = false → exec .pcieLinkLoss s = .next (s)) ∧
  (∀ (s : State), s.inService = true → ∃ t, exec .flr s = .next t ∧ t.is F.RESET_CAUSE.FLR = true ∧ t.queues = [] ∧
    t.halls = s.halls ∧ t.flights = s.flights ∧ t.alcs = s.alcs ∧ t.mem = s.mem ∧ t.g F.BOOT_STAGE.STAGE = s.g
    F.BOOT_STAGE.STAGE ∧ ((List.range 128).all fun n => (t.vec n).mask && !(t.vec n).pend) = true) ∧
  (∀ (s : State), s.inService = false → exec .flr s = .next (s))

/-- The boot stages (R537, R539, R540, R549), the microcode image (R179, R181), and the warm reset (R545, R547). -/
def Obligations.BootAndWarmReset : Prop :=
  (∀ (s : State) (keys calib pwr : List Nat), s.g F.BOOT_STAGE.STAGE = 1 → ∃ t, exec (.bootStageEnd (.rom false keys calib
    pwr)) s = .next t ∧ t.g F.BOOT_STAGE.STAGE = 15 ∧ t.g F.BOOT_STAGE.FAIL_AT = 1 ∧ t.g F.BOOT_ERR.REASON = 15 ∧ t.mem =
    s.mem) ∧
  (∀ (s : State) (keys calib pwr : List Nat), s.g F.BOOT_STAGE.STAGE = 1 → ∃ t, exec (.bootStageEnd (.rom true keys calib
    pwr)) s = .next t ∧ t.g F.BOOT_STAGE.STAGE = 2 ∧ t.boot.keys = keys ∧ t.is F.UC_STAT.WRITABLE = s.part.writableStore ∧
    t.g F.UC_ROLLBACK.OTP = s.boot.otp % 256 ∧ ((List.range s.part.halls).all fun h => (List.range 8).all fun k => t.g
    (F.PCLASS_PWR.PWR h k) == (if 8 * h + k < pwr.length then pwr.getD (8 * h + k) 0 % 4096 else s.g (F.PCLASS_PWR.PWR h
    k))) = true) ∧
  (∀ (s : State) (q : Quetus), s.g F.BOOT_STAGE.STAGE = 2 → ∃ t, exec (.bootStageEnd (.fetch q)) s = .next t ∧ t.g
    F.BOOT_STAGE.STAGE = (if (if imageCheck 1 none q s = 0 ∧ 0x40000 < 64 + hdrNat q.hdr 16 4 + 96 then 7 else imageCheck
    1 none q s) = 0 then 3 else 15) ∧ t.g F.BOOT_STAGE.FAIL_AT = (if (if imageCheck 1 none q s = 0 ∧ 0x40000 < 64 + hdrNat
    q.hdr 16 4 + 96 then 7 else imageCheck 1 none q s) = 0 then s.g F.BOOT_STAGE.FAIL_AT else 2) ∧ t.g F.BOOT_ERR.REASON =
    (if (if imageCheck 1 none q s = 0 ∧ 0x40000 < 64 + hdrNat q.hdr 16 4 + 96 then 7 else imageCheck 1 none q s) = 0 then
    s.g F.BOOT_ERR.REASON else (if imageCheck 1 none q s = 0 ∧ 0x40000 < 64 + hdrNat q.hdr 16 4 + 96 then 7 else
    imageCheck 1 none q s)) ∧ t.boot.otp = (if (if imageCheck 1 none q s = 0 ∧ 0x40000 < 64 + hdrNat q.hdr 16 4 + 96 then
    7 else imageCheck 1 none q s) = 0 ∧ hdrAdvance q.hdr = true then max s.boot.otp (min 64 (hdrNat q.hdr 8 4)) else
    s.boot.otp)) ∧
  (∀ (s : State) (q : Quetus), s.g F.BOOT_STAGE.STAGE = 2 → (hdrNat q.hdr 0 4 ≠ 0x53555451 ∨ hdrNat q.hdr 4 2 ≠ 1) → ∃ t,
    exec (.bootStageEnd (.fetch q)) s = .next t ∧ t.g F.BOOT_ERR.REASON = 1) ∧
  (∀ (s : State) (q : Quetus), s.g F.BOOT_STAGE.STAGE = 2 → hdrNat q.hdr 0 4 = 0x53555451 → hdrNat q.hdr 4 2 = 1 → (hdrNat
    q.hdr 6 1 ≠ 1 ∨ natBits (hdrNat q.hdr 7 1) (partBit s.part) 1 = 0 ∨ hdrReserved q.hdr = false) → ∃ t, exec
    (.bootStageEnd (.fetch q)) s = .next t ∧ t.g F.BOOT_ERR.REASON = 2) ∧
  (∀ (s : State) (q : Quetus), s.g F.BOOT_STAGE.STAGE = 2 → hdrNat q.hdr 0 4 = 0x53555451 → hdrNat q.hdr 4 2 = 1 → hdrNat
    q.hdr 6 1 = 1 → natBits (hdrNat q.hdr 7 1) (partBit s.part) 1 = 1 → hdrReserved q.hdr = true → ∃ t, exec
    (.bootStageEnd (.fetch q)) s = .next t ∧ t.g F.BOOT_ERR.REASON = (if hdrNat q.hdr 8 4 < s.boot.otp then 4 else if
    s.sigOk q = false then 5 else if s.tagOk q = false then 6 else if 0x40000 < 64 + hdrNat q.hdr 16 4 + 96 then 7 else
    s.g F.BOOT_ERR.REASON)) ∧
  (∀ (s : State) (q : Quetus), s.g F.BOOT_STAGE.STAGE = 3 → ∃ t, exec (.bootStageEnd (.patch q)) s = .next t ∧ t.g
    F.BOOT_STAGE.STAGE = 4 ∧ t.g F.UC_STAT.REASON = (if (if imageCheck (if s.part.writableStore then 3 else 2) (if
    s.part.writableStore then none else some Config.ucRomId.toNat) q s = 0 ∧ bodyOk s.part q.hdr (s.imageBody q) = false
    then 7 else imageCheck (if s.part.writableStore then 3 else 2) (if s.part.writableStore then none else some
    Config.ucRomId.toNat) q s) = 0 then s.g F.UC_STAT.REASON else (if imageCheck (if s.part.writableStore then 3 else 2)
    (if s.part.writableStore then none else some Config.ucRomId.toNat) q s = 0 ∧ bodyOk s.part q.hdr (s.imageBody q) =
    false then 7 else imageCheck (if s.part.writableStore then 3 else 2) (if s.part.writableStore then none else some
    Config.ucRomId.toNat) q s)) ∧ ((if imageCheck (if s.part.writableStore then 3 else 2) (if s.part.writableStore then
    none else some Config.ucRomId.toNat) q s = 0 ∧ bodyOk s.part q.hdr (s.imageBody q) = false then 7 else imageCheck (if
    s.part.writableStore then 3 else 2) (if s.part.writableStore then none else some Config.ucRomId.toNat) q s) ≠ 0 →
    t.boot.store = [] ∧ t.boot.image = none ∧ (s.part.writableStore = true ∨ ((List.range 16).all fun m => t.rd
    (R.UC_MATCH m) == 0) = true)) ∧ ((if imageCheck (if s.part.writableStore then 3 else 2) (if s.part.writableStore then
    none else some Config.ucRomId.toNat) q s = 0 ∧ bodyOk s.part q.hdr (s.imageBody q) = false then 7 else imageCheck (if
    s.part.writableStore then 3 else 2) (if s.part.writableStore then none else some Config.ucRomId.toNat) q s) = 0 →
    t.boot.store = (List.range (bodyWord (s.imageBody q) 0)).map (fun i => bodyWord (s.imageBody q) ((if
    s.part.writableStore then 4 else 68) + 4 * i)))) ∧
  (∀ (s : State) (readback rom : Nat) (x : UcPend), s.g F.BOOT_STAGE.STAGE = 4 → s.boot.image = some x → readback =
    x.wordCrc → ∃ t, exec (.bootStageEnd (.bist readback rom)) s = .next t ∧ t.g F.BOOT_STAGE.STAGE = (if
    s.part.writableStore = false ∧ rom ≠ Config.ucRomId.toNat then 15 else 5) ∧ t.is F.UC_STAT.APPLIED = true ∧ t.g
    F.UC_PATCH_LEVEL.VALUE = x.level % 2 ^ 32 ∧ t.g F.UC_BODY_CRC.VALUE = x.bodyCrc % 2 ^ 32 ∧ t.boot.image = none ∧
    t.boot.store = s.boot.store) ∧
  (∀ (s : State) (readback rom : Nat) (x : UcPend), s.g F.BOOT_STAGE.STAGE = 4 → s.boot.image = some x → readback ≠
    x.wordCrc → ∃ t, exec (.bootStageEnd (.bist readback rom)) s = .next t ∧ t.g F.BOOT_STAGE.STAGE = (if
    s.part.writableStore = false ∧ rom ≠ Config.ucRomId.toNat then 15 else 5) ∧ t.g F.UC_STAT.REASON = 8 ∧ t.boot.store =
    [] ∧ t.boot.image = none) ∧
  (∀ (s : State) (readback rom : Nat), s.g F.BOOT_STAGE.STAGE = 4 → s.boot.image = none → ∃ t, exec (.bootStageEnd (.bist
    readback rom)) s = .next t ∧ t.g F.BOOT_STAGE.STAGE = (if s.part.writableStore = false ∧ rom ≠ Config.ucRomId.toNat
    then 15 else 5) ∧ t.boot = s.boot) ∧
  (∀ (s : State) (p a : Nat), s.g F.BOOT_STAGE.STAGE = 5 → p ∈ hbmPorts → a < 2 ^ 32 → ∃ t, exec (.bootStageEnd (.hbm
    true)) s = .next t ∧ t.g F.BOOT_STAGE.STAGE = 6 ∧ t.rdByte p a = 0 ∧ t.flights = [] ∧ t.is F.BOOT_ERR.PGOOD_WAIT =
    !s.boot.pgood) ∧
  (∀ (s : State), s.g F.BOOT_STAGE.STAGE = 5 → ∃ t, exec (.bootStageEnd (.hbm false)) s = .next t ∧ t.g F.BOOT_STAGE.STAGE
    = 15 ∧ t.g F.BOOT_STAGE.FAIL_AT = 5 ∧ t.is F.BOOT_ERR.HBM_FAIL = true ∧ t.mem = s.mem) ∧
  (∀ (s : State), s.g F.BOOT_STAGE.STAGE = 6 → s.boot.roundOk = true → ∃ t, exec (.bootStageEnd .work) s = .next t ∧ t.g
    F.BOOT_STAGE.STAGE = 7 ∧ t.is F.BOOT_ERR.RAIL_WAIT = false ∧ t.is F.BOOT_ERR.PGOOD_WAIT = false ∧ t.boot = s.boot ∧
    t.mem = s.mem) ∧
  (∀ (s : State), s.g F.BOOT_STAGE.STAGE = 6 → s.boot.roundOk = false → exec (.bootStageEnd .work) s = .next (s)) ∧
  (∀ (s : State), s.g F.BOOT_STAGE.STAGE = 7 → s.storeFails = false → s.is F.FLT_STATUS.GRAVE = false → ∃ t, exec
    (.bootStageEnd .work) s = .next t ∧ t.g F.BOOT_STAGE.STAGE = 8 ∧ t.tb0 = 0 ∧ t.tb1 = 0 ∧ t.tb2 = 0 ∧ t.g
    F.BOOT_TIME.US = min ((s.cyc - s.boot.began) / 500) 0xFFFFFFFF ∧ t.mem = s.mem) ∧
  (∀ (s : State), s.g F.BOOT_STAGE.STAGE = 7 → s.storeFails = false → s.is F.FLT_STATUS.GRAVE = true → ∃ t, exec
    (.bootStageEnd .work) s = .next t ∧ t.g F.BOOT_STAGE.STAGE = 8 ∧ ((List.range 53).all fun u => !unitPresent s.part u
    || (t.is (F.UNIT_STATE.C_GRAVE u) && t.fenced u)) = true) ∧
  (∀ (s : State) (r : BootRes),
    (match r with | .rom _ _ _ _ => s.g F.BOOT_STAGE.STAGE ≠ 1 | .fetch _ => s.g F.BOOT_STAGE.STAGE ≠ 2 | .patch _ => s.g F.BOOT_STAGE.STAGE ≠ 3 | .bist _ _ => s.g F.BOOT_STAGE.STAGE ≠ 4 | .hbm _ => s.g F.BOOT_STAGE.STAGE ≠ 5 | .work => s.g F.BOOT_STAGE.STAGE ≠ 6 ∧ s.g F.BOOT_STAGE.STAGE ≠ 7)
    → exec (.bootStageEnd r) s = .next (s)) ∧
  (∀ (s : State) (v : Word), (s.g F.BOOT_STAGE.STAGE = 15 ∨ (s.inService = true ∧ s.quiesced = true)) → s.awake = true →
    F.RESET_CTL.WARM.is v = true → F.RESET_CTL.KEY.of v = 0x5741 → ∃ t, exec (.warmReset v) s = .next t ∧ t.g
    F.BOOT_STAGE.STAGE = 1 ∧ t.is F.RESET_CAUSE.WARM = true ∧ t.is F.FLT_STATUS.GRAVE = s.is F.FLT_STATUS.GRAVE ∧
    t.boot.otp = s.boot.otp ∧ t.boot.store = [] ∧ t.mem = [] ∧ t.halls = [] ∧ t.alcs = [] ∧ t.flights = [] ∧ t.queues =
    []) ∧
  (∀ (s : State) (v : Word), (s.inService = true ∨ s.g F.BOOT_STAGE.STAGE = 15) → s.awake = true → (F.RESET_CTL.WARM.is v
    = false ∨ F.RESET_CTL.KEY.of v ≠ 0x5741 ∨ (s.g F.BOOT_STAGE.STAGE ≠ 15 ∧ s.quiesced = false)) → exec (.warmReset v) s
    = .next (s.set1 F.BOOT_ERR.WARM_REFUSED)) ∧
  (∀ (s : State) (v : Word), s.inService = true → s.awake = false → exec (.warmReset v) s = .next ((s.set1
    F.THERM_STAT.SD_WRITE).set1 F.BOOT_ERR.WARM_REFUSED)) ∧
  (∀ (s : State) (v : Word), s.inService = false → s.g F.BOOT_STAGE.STAGE ≠ 15 → exec (.warmReset v) s = .next (s))

/-- Accesses of the host (R10, R13, R15, R19, R217, R251, R463, R542) and the frames of the management port (R381–R383).
-/
def Obligations.HostAndManagementAccess : Prop :=
  (∀ (s : State) (bar : Bar) (a n : Nat) (v : Word), (a % 4 ≠ 0 ∨ n ≠ 4) → exec (.regWrite bar a n v) s = .next (s)) ∧
  (∀ (s : State) (a : Nat) (v : Word), regAt a = none → ∃ t, exec (.regWrite .bar0 a 4 v) s = .next t ∧ t.mem = s.mem ∧
    t.halls = s.halls ∧ t.queues = s.queues ∧ t.out = s.out) ∧
  (∀ (s : State) (a : Nat) (v : Word) (r : RegRow) (ix : List Nat), regAt a = some (r, ix) → instPresent s.part r.unit ix
    = false → Ready s → exec (.regWrite .bar0 a 4 v) s = .next (s)) ∧
  (∀ (s : State) (a : Nat) (v : Word), s.inService = false → s.g F.BOOT_STAGE.STAGE ≠ 15 → exec (.regWrite .bar0 a 4 v) s
    = .next (s)) ∧
  (∀ (s : State) (a : Nat) (v : Word), s.inService = true → s.awake = false → thermBlock a = false → a ≠ R.RESET_CTL → a %
    4 = 0 → exec (.regWrite .bar0 a 4 v) s = .next (s.p F.THERM_STAT.SD_WRITE 1)) ∧
  (∀ (s : State) (a : Nat) (v : Word) (r : RegRow) (ix : List Nat), Ready s → thermBlock a = false → a ≠ R.RESET_CTL → a %
    4 = 0 → regAt a = some (r, ix) → instPresent s.part r.unit ix = true → exec (.regWrite .bar0 a 4 v) s = .next
    (s.byHost (regWriteAt .pcie r (ix.getD 0 0) (ix.getD 1 0) (ix.getD 2 0) a v))) ∧
  (∀ (s : State) (a : Nat) (v : Word) (r : RegRow) (ix : List Nat), Ready s → thermBlock a = false → a ≠ R.RESET_CTL → a %
    4 = 0 → plainReg r.name = true → regAt a = some (r, ix) → instPresent s.part r.unit ix = true → ∃ t, exec (.regWrite
    .bar0 a 4 v) s = .next t ∧ t.rd a = wordWrite (BitVec.ofNat 32 (tabGet (fun _ => 0) s.fresh a)) (tabGet (fun _ => 0)
    s.freshN a) r v (s.rd a) ∧ t.mem = s.mem ∧ t.halls = s.halls ∧ t.queues = s.queues) ∧
  (∀ (s : State) (n : Nat) (v : Word), Ready s → n < 128 → exec (.regWrite .bar0 (R.MSIX_MOD n) 4 v) s = .next (s.wr
    (R.MSIX_MOD n) (v &&& 0x00FF03FF#32))) ∧
  (∀ (s : State) (v : Word), Ready s → tabGet (fun _ => 0) s.fresh R.RESET_CAUSE = 0 → exec (.regWrite .bar0 R.RESET_CAUSE
    4 v) s = .next (s.wr R.RESET_CAUSE (s.rd R.RESET_CAUSE &&& ~~~ (v &&& 0x7F#32)))) ∧
  (∀ (s : State) (n : Nat) (v : Word), 2 ≤ s.g F.BOOT_STAGE.STAGE → n < 128 → ∃ t, exec (.regWrite .bar4 (16 * n) 4 v) s =
    .next t ∧ (t.vec n).addr % 2 ^ 32 = v.toNat ∧ (t.vec n).addr / 2 ^ 32 = (s.vec n).addr / 2 ^ 32 ∧ (t.vec n).data =
    (s.vec n).data ∧ t.regs = s.regs) ∧
  (∀ (s : State) (n : Nat) (v : Word), 2 ≤ s.g F.BOOT_STAGE.STAGE → n < 128 → (s.vec n).addr < 2 ^ 64 → ∃ t, exec
    (.regWrite .bar4 (16 * n + 4) 4 v) s = .next t ∧ (t.vec n).addr % 2 ^ 32 = (s.vec n).addr % 2 ^ 32 ∧ (t.vec n).addr /
    2 ^ 32 = v.toNat ∧ (t.vec n).data = (s.vec n).data ∧ t.regs = s.regs) ∧
  (∀ (s : State) (n : Nat) (v : Word), 2 ≤ s.g F.BOOT_STAGE.STAGE → n < 128 → ∃ t, exec (.regWrite .bar4 (16 * n + 8) 4 v)
    s = .next t ∧ t.vec n = { s.vec n with data := v.toNat } ∧ t.regs = s.regs) ∧
  (∀ (s : State) (n : Nat) (v : Word), 2 ≤ s.g F.BOOT_STAGE.STAGE → n < 128 → (v.getLsbD 0 = true ∨ (s.vec n).pend =
    false) → ∃ t, exec (.regWrite .bar4 (16 * n + 12) 4 v) s = .next t ∧ t.vec n = { s.vec n with mask := v.getLsbD 0 } ∧
    t.regs = s.regs ∧ t.out = s.out) ∧
  (∀ (s : State) (n : Nat) (v : Word), 2 ≤ s.g F.BOOT_STAGE.STAGE → n < 128 → v.getLsbD 0 = false → (s.vec n).pend = true
    → ∃ t, exec (.regWrite .bar4 (16 * n + 12) 4 v) s = .next t ∧ (t.vec n).mask = false ∧ (t.vec n).pend = false ∧ t.out
    ≠ s.out ∧ t.regs = s.regs) ∧
  (∀ (s : State) (a : Nat) (v : Word), (2048 ≤ a ∨ s.g F.BOOT_STAGE.STAGE < 2) → exec (.regWrite .bar4 a 4 v) s = .next
    (s)) ∧
  (∀ (s : State) (path : Path) (a n : Nat) (r : RegRow) (ix : List Nat), Ready s → regAt a = some (r, ix) → instPresent
    s.part r.unit ix = true → pairLow r.name = true → (path = .mspi ∨ (a % 4 = 0 ∧ n = 4)) → ∃ t, exec (.counterLowRead
    path a n) s = .next t ∧ tabGet (fun _ => 0) t.rdata path.idx = s.wordAt a ∧ tabGet (fun _ => 0) t.latch (latchKey path
    (a + 4)) = s.wordAt (a + 4) ∧ t.regs = s.regs ∧ t.mem = s.mem) ∧
  (∀ (s : State) (path : Path) (a n : Nat) (r : RegRow) (ix : List Nat), Ready s → regAt a = some (r, ix) → instPresent
    s.part r.unit ix = true → pairHigh r.name = true → (path = .mspi ∨ (a % 4 = 0 ∧ n = 4)) → ∃ t, exec (.counterLowRead
    path a n) s = .next t ∧ tabGet (fun _ => 0) t.rdata path.idx = tabGet (fun _ => 0) s.latch (latchKey path a) ∧ t.latch
    = s.latch ∧ t.regs = s.regs) ∧
  (∀ (s : State) (a n : Nat), (a % 4 ≠ 0 ∨ n ≠ 4) → exec (.counterLowRead .pcie a n) s = .next (s.setRead .pcie 0)) ∧
  (∀ (s : State) (i : Nat), s.mspi = none → i < 128 → ∃ t, exec (.mspiFrameHeader i) s = .next t ∧ t.mspi.map (fun f =>
    (f.read, f.idx)) = some (false, i) ∧ t.regs = s.regs ∧ t.out = s.out) ∧
  (∀ (s : State) (i : Nat), s.mspi = none → i < 128 → ∃ t, exec (.mspiFrameHeader (128 + i)) s = .next t ∧ t.mspi.map (fun
    f => (f.read, f.idx)) = some (true, i) ∧ t.out = s.out ++ [.shift 0 (if s.g F.BOOT_STAGE.STAGE = 0 then 0 else (s.rd
    R.MSPI_STAT).toNat)]) ∧
  (∀ (s : State) (i : Nat), s.mspi = none → i < 128 → s.g F.BOOT_STAGE.STAGE ≠ 0 → s.mspiAddr i = R.RESET_CAUSE → ∃ t,
    exec (.mspiFrameHeader (128 + i)) s = .next t ∧ t.mspi.map (fun f => (f.read, f.idx, f.fetched)) = some (true, i, s.rd
    R.RESET_CAUSE) ∧ t.regs = s.regs) ∧
  (∀ (s : State) (i : Nat), s.mspi ≠ none → exec (.mspiFrameHeader i) s = .next (s)) ∧
  (∀ (s : State) (f : MspiFrame) (v : Word), s.mspi = some f → f.read = false → f.idx ≤ 0x7F → s.g F.BOOT_STAGE.STAGE ≠ 0
    → doorbellPage (s.mspiAddr f.idx) = true → ∃ t, exec (.mspiWriteWord v) s = .next t ∧ t.mspi = some
    { f with idx := f.idx + 1 } ∧ t.is F.MSPI_STAT.DENIED = true ∧ t.queues = s.queues) ∧
  (∀ (s : State) (f : MspiFrame) (v : Word), s.mspi = some f → f.read = false → 0x7F < f.idx → s.g F.BOOT_STAGE.STAGE ≠ 0
    → ∃ t, exec (.mspiWriteWord v) s = .next t ∧ t.mspi = some { f with idx := f.idx + 1 } ∧ t.is F.MSPI_STAT.ADDR_OVF =
    true ∧ t.mem = s.mem) ∧
  (∀ (s : State) (f : MspiFrame) (v : Word), s.mspi = some f → f.read = false → s.g F.BOOT_STAGE.STAGE = 0 → exec
    (.mspiWriteWord v) s = .next ({ s with mspi := some { f with idx := f.idx + 1 } })) ∧
  (∀ (s : State) (f : MspiFrame) (v : Word), s.mspi = some f → f.read = false → f.idx ≤ 0x7F → s.g F.BOOT_STAGE.STAGE ≠ 0
    → doorbellPage (s.mspiAddr f.idx) = false → exec (.mspiWriteWord v) s = .next (hostWrite .mspi (s.mspiAddr f.idx) v
    { s with mspi := some { f with idx := f.idx + 1 } })) ∧
  (∀ (s : State) (f : MspiFrame) (n : Nat) (v : Word), Ready s → n < 128 → s.mspi = some f → f.read = false → f.idx ≤ 0x7F
    → s.mspiAddr f.idx = R.MSIX_MOD n → ∃ t, exec (.mspiWriteWord v) s = .next t ∧ t.mspi = some
    { f with idx := f.idx + 1 } ∧ t.rd (R.MSIX_MOD n) = v &&& 0x00FF03FF#32) ∧
  (∀ (s : State) (v : Word), (s.mspi.map (·.read)) ≠ some false → exec (.mspiWriteWord v) s = .next (s)) ∧
  (∀ (s : State) (f : MspiFrame) (v : Word), Ready s → s.mspi = some f → f.read = false → f.idx ≤ 0x7F → s.mspiAddr f.idx
    = R.MSPI_WIN → ∃ t, exec (.mspiWinWrite v) s = .next t ∧ t.mspi = some { f with idx := f.idx + 1 } ∧ t.g
    F.MSPI_WIN.WIN = F.MSPI_WIN.WIN.of v) ∧
  (∀ (s : State) (f : MspiFrame) (v : Word), s.mspi = some f → (f.read = true ∨ 0x7F < f.idx ∨ s.mspiAddr f.idx ≠
    R.MSPI_WIN) → exec (.mspiWinWrite v) s = .next (s)) ∧
  (∀ (s : State) (f : MspiFrame), s.mspi = some f → f.read = true → f.idx ≤ 0x7F → ∃ t, exec (.mspiReadWord true) s =
    .next t ∧ t.mspi.map (fun x => (x.read, x.idx, x.last)) = some (true, f.idx + 1, f.fetched) ∧ t.out = s.out ++ [.shift
    0 f.fetched.toNat]) ∧
  (∀ (s : State) (f : MspiFrame) (ready : Bool), s.mspi = some f → f.read = true → 0x7F < f.idx → ∃ t, exec (.mspiReadWord
    ready) s = .next t ∧ t.mspi.map (fun x => (x.read, x.idx, x.last, x.fetched)) = some (true, f.idx + 1, f.fetched, 0) ∧
    t.out = s.out ++ [.shift 0 f.fetched.toNat] ∧ t.is F.MSPI_STAT.ADDR_OVF = true) ∧
  (∀ (s : State) (f : MspiFrame), s.mspi = some f → f.read = true → f.idx ≤ 0x7F → ∃ t, exec (.mspiReadWord false) s =
    .next t ∧ t.out = s.out ++ [.shift 0 (if s.mspiSlow f.idx = true then f.last.toNat else f.fetched.toNat)] ∧ t.is
    F.MSPI_STAT.UNDERRUN = (s.is F.MSPI_STAT.UNDERRUN || s.mspiSlow f.idx) ∧ t.mspi.map (fun x => (x.read, x.idx)) = some
    (true, f.idx + 1)) ∧
  (∀ (s : State) (ready : Bool), (s.mspi.map (·.read)) ≠ some true → exec (.mspiReadWord ready) s = .next (s)) ∧
  (∀ (s : State), exec (.mspiFrameEnd false) s = .next ({ s with mspi := none })) ∧
  (∀ (s : State), exec (.mspiFrameEnd true) s = .next (({ s with mspi := none } : State).count F.MSPI_STAT.PARTIAL
    F.MSPI_STAT.SAT))

/-- The command at the front of the queue is taken and run on the rest of the queue (the queue of commands is the model's;
assumption 1). -/
def Obligations.StepRunsTheFront : Prop :=
  ∀ (c : Instr) (rest : List Instr) (s : State), step { s with pending := c :: rest } = exec c { s with pending := rest }

/-- On an empty queue a core cycle of 2 ns passes (R438); that a tick is what an empty queue does is the model's choice
(assumption 1). -/
def Obligations.EmptyQueueTicks : Prop :=
  (∀ s : State, s.pending = [] → s.boot.vaux = true → s.inService = false →
      ∃ t, step s = .next t ∧ t.cyc = s.cyc + 1 ∧ t.regs = s.regs ∧ t.mem = s.mem ∧ t.pending = []) ∧
    (∀ s : State, s.pending = [] → s.boot.vaux = false → step s = .next s) ∧
    (∀ s : State, s.pending = [] → s.boot.vaux = true → s.inService = true →
      ∃ t, step s = .next t ∧ t.cyc = s.cyc + 1 ∧ t.pending = [] ∧
        ∀ p a : Nat, p < 103 → a < 2 ^ 32 → serialData p = false → t.rdByte p a = s.rdByte p a)

/-- Every command of the table has an effect (no rule of the manual names a command without one): from every state a step
goes on, the part stays, and the queue loses exactly its front. -/
def Obligations.EveryStepGoesOn : Prop :=
  ∀ s : State, ∃ t, step s = .next t ∧ t.part = s.part ∧ t.pending = s.pending.tail

/-- The invariant Inv of the model holds at State.reset (assumption 3: unlisted bytes read zero). -/
def Obligations.ResetIsCanonical : Prop :=
  Inv State.reset

/-- The invariant that every step keeps, over all 277 commands and the core cycle. -/
def Obligations.EveryStepKeepsTheTables : Prop :=
  ∀ s t : State, Inv s → step s = .next t → Inv t

/-- The frame of bulk memory (R253), byte by byte, for every command and every state. -/
def Obligations.BulkMemoryFrame : Prop :=
  ∀ (i : Instr) (s t : State) (p a : Nat), p < 103 → a < 2 ^ 32 → mayStore i p = false → exec i s = .next t →
    t.rdByte p a = s.rdByte p a

/-- The frame of registers of the axis and set-up commands of a hall (chapters on the axis, flights, TDC and serial
engines). -/
def Obligations.HallRegisterFrame : Prop :=
  ∀ (i : Instr) (h a : Nat) (s t : State), actsOnHall h i = true → exec i s = .next t → hallPage h a = false →
    a ∉ sharedRegs → t.rd a = s.rd a

/-- Frames of registers of the configuration commands (R221, R255, R258, R410). -/
def Obligations.ConfigurationFrames : Prop :=
  (∀ (p : Nat) (v : Word) (i : Instr) (s t : State) (a : Nat), i ∈ [.portAddrWrite p v, .portCtlWrite p v, .portAptWrite p v] →
    exec i s = .next t → a ∉ [R.PORT_ADDR p, R.PORT_CTL p, R.PORT_STAT p, R.PORT_APT p, R.THERM_STAT] → t.rd a = s.rd a) ∧
  (∀ (path : Path) (p k : Nat) (s t : State) (a : Nat), exec (.portDataRead path p k) s = .next t →
    a ∉ [R.PORT_ADDR p, R.PORT_STAT p, R.PORT_DATA p 0, R.PORT_DATA p 1, R.PORT_DATA p 2, R.PORT_DATA p 3] → s.portLast p < 4 →
    t.rd a = s.rd a) ∧
  (∀ (e : Nat) (r : EvReg) (v : Word) (s t : State) (a : Nat), exec (.evConfigWrite e r v) s = .next t →
    a ∉ [R.EV_CFG e, R.EV_HALLS e, R.EV_GSTAT, R.THERM_STAT] ++ journalRegs → (∀ k < 8, a ≠ R.EV_PMASK e k) →
    (∀ k < 5, a ≠ R.EV_CMASK e k) → t.rd a = s.rd a) ∧
  (∀ (d q : Nat) (v : Word) (s t : State) (a : Nat), exec (.sqDoorbell d q v) s = .next t →
    a ∉ [R.QP_STAT q, R.THERM_STAT] ++ journalRegs → t.rd a = s.rd a) ∧
  (∀ (i : Instr) (u : Nat) (s t : State), i ∈ [.perstNRelease, .indexGapClose u, .xferSettleDone u, .journalFrameSend, .helloSend u] →
    exec i s = .next t → t.regs = s.regs)

/-- The reset values that the register chapters state (R81, R121, R162, R214, R266, R468, R550), for every hall, channel
group and alcove; the empty queue is the model's (assumption 1). -/
def Obligations.ResetValues : Prop :=
  State.reset.g F.BOOT_STAGE.STAGE = 0 ∧ State.reset.rd R.RESET_CAUSE = 1#32 ∧ State.reset.rd R.BOOT_ERR = 0#32 ∧
    (∀ h < 32, State.reset.g (F.AXIS_STAT.STATE h) = 0 ∧ State.reset.g (F.LAND_CFG.LEAD h) = 16 ∧
      (∀ k < 4, State.reset.rd (R.HOLD_VEC h k) = 0x33333333#32) ∧
      (∀ i < 96, State.reset.g (F.ALC_STATE.STATE h i) = 1 ∧ State.reset.g (F.ALC_STATE.FCAUSE h i) = 0)) ∧
    State.reset.g F.TH_CFG.TH1 = 95 ∧ State.reset.g F.TH_CFG.TH2 = 105 ∧ State.reset.g F.TH_CFG.TH3 = 112 ∧
    State.reset.g F.TH_CFG.TRST = 100 ∧ State.reset.g F.TSD_CFG.TSD = 125 ∧ State.reset.pending = []

/-- R246: NOP checks its reserved operand bytes only, and returns operand bytes 20 to 23. -/
def Obligations.NopDescriptor : Prop :=
  (∀ (s : State) (q : Nat) (r : DescRun), Executes s q 0 false r → dscZeroFrom r.desc 24 = true → ∃ t, exec (.nop q) s =
    .next t ∧ Completed t q r .ok [(8, 4, dsc r.desc 20 4)] ∧ t.regs = s.regs ∧ t.mem = s.mem ∧ t.halls = s.halls) ∧
  (∀ (s : State) (q : Nat) (r : DescRun), Executes s q 0 false r → dscZeroFrom r.desc 24 = false → ∃ t, exec (.nop q) s =
    .next t ∧ Completed t q r .badop [] ∧ t.regs = s.regs ∧ t.mem = s.mem)

/-- R221, for the three kinds of doorbell. -/
def Obligations.ForeignDoorbells : Prop :=
  (∀ (s : State) (d q : Nat) (v : Word), Ready s → q < 64 → d < 8 → s.g (F.QP_CFG.OWNER q) ≠ d → exec (.sqDoorbell d q v)
    s = .next ((s.p (F.QP_STAT.NONOWNER q) 1).raise 374 noDetail)) ∧
  (∀ (s : State) (d q : Nat) (v : Word), Ready s → q < 64 → d < 8 → s.g (F.QP_CFG.OWNER q) ≠ d → exec (.cqDoorbell d q v)
    s = .next ((s.p (F.QP_STAT.NONOWNER q) 1).raise 374 noDetail)) ∧
  (∀ (s : State) (d r : Nat) (v : Word), Ready s → r < 5 → ringOk s.part r = true → d < 8 → s.g (F.RR_CFG.OWNER r) ≠ d →
    exec (.rrHeadDoorbell d r v) s = .next ((s.p (F.RR_STAT.NONOWNER r) 1).raise 374 noDetail))

/-- R453: the order of the thresholds, what an accepted write leaves, and the refusal. -/
def Obligations.ThermalThresholds : Prop :=
  (∀ (s : State) (v : Word), s.inService = true → F.TH_CFG.TH1.of v < F.TH_CFG.TH2.of v ∧ F.TH_CFG.TH2.of v <
    F.TH_CFG.TH3.of v ∧ F.TH_CFG.TH3.of v < s.g F.TSD_CFG.TSD ∧ F.TH_CFG.TRST.of v < s.g F.TSD_CFG.TSD → ∃ t, exec
    (.thCfgWrite v) s = .next t ∧ t.rd R.TH_CFG = v ∧ t.therm = s.therm ∧ t.rd R.THERM_STAT = s.rd R.THERM_STAT ∧ t.halls
    = s.halls) ∧
  (∀ (s : State) (v : Word), s.inService = true → ¬ (F.TH_CFG.TH1.of v < F.TH_CFG.TH2.of v ∧ F.TH_CFG.TH2.of v <
    F.TH_CFG.TH3.of v ∧ F.TH_CFG.TH3.of v < s.g F.TSD_CFG.TSD ∧ F.TH_CFG.TRST.of v < s.g F.TSD_CFG.TSD) → exec
    (.thCfgWrite v) s = .next (s.p F.THERM_STAT.CFG_ERR 1))
end

