-- ==== Sys2Proof/Laws/State.lean ====
section
/-! SUPPORT. What each primitive update of the state leaves in each field: one lemma a field and update, true by definition. -/
namespace Sys2Proof.Machine
variable (s : State)

/-! ### `State.setVec` -/
@[simp] theorem State.setVec_part (v : Nat) (x : VecX) : (s.setVec v x).part = s.part := rfl
@[simp] theorem State.setVec_regs (v : Nat) (x : VecX) : (s.setVec v x).regs = s.regs := rfl
@[simp] theorem State.setVec_mem (v : Nat) (x : VecX) : (s.setVec v x).mem = s.mem := rfl
@[simp] theorem State.setVec_latch (v : Nat) (x : VecX) : (s.setVec v x).latch = s.latch := rfl
@[simp] theorem State.setVec_rdata (v : Nat) (x : VecX) : (s.setVec v x).rdata = s.rdata := rfl
@[simp] theorem State.setVec_cyc (v : Nat) (x : VecX) : (s.setVec v x).cyc = s.cyc := rfl
@[simp] theorem State.setVec_fresh (v : Nat) (x : VecX) : (s.setVec v x).fresh = s.fresh := rfl
@[simp] theorem State.setVec_freshN (v : Nat) (x : VecX) : (s.setVec v x).freshN = s.freshN := rfl
@[simp] theorem State.setVec_free (v : Nat) (x : VecX) : (s.setVec v x).free = s.free := rfl
@[simp] theorem State.setVec_dids (v : Nat) (x : VecX) : (s.setVec v x).dids = s.dids := rfl
@[simp] theorem State.setVec_out (v : Nat) (x : VecX) : (s.setVec v x).out = s.out := rfl
@[simp] theorem State.setVec_tb0 (v : Nat) (x : VecX) : (s.setVec v x).tb0 = s.tb0 := rfl
@[simp] theorem State.setVec_tb1 (v : Nat) (x : VecX) : (s.setVec v x).tb1 = s.tb1 := rfl
@[simp] theorem State.setVec_tb2 (v : Nat) (x : VecX) : (s.setVec v x).tb2 = s.tb2 := rfl
@[simp] theorem State.setVec_tb0rem (v : Nat) (x : VecX) : (s.setVec v x).tb0rem = s.tb0rem := rfl
@[simp] theorem State.setVec_queues (v : Nat) (x : VecX) : (s.setVec v x).queues = s.queues := rfl
@[simp] theorem State.setVec_orphans (v : Nat) (x : VecX) : (s.setVec v x).orphans = s.orphans := rfl
@[simp] theorem State.setVec_lastQ (v : Nat) (x : VecX) : (s.setVec v x).lastQ = s.lastQ := rfl
@[simp] theorem State.setVec_rings (v : Nat) (x : VecX) : (s.setVec v x).rings = s.rings := rfl
@[simp] theorem State.setVec_vecs (v : Nat) (x : VecX) : (s.setVec v x).vecs = tabSet (fun _ => ({} : VecX)) s.vecs v x := rfl
@[simp] theorem State.setVec_jnl (v : Nat) (x : VecX) : (s.setVec v x).jnl = s.jnl := rfl
@[simp] theorem State.setVec_flt (v : Nat) (x : VecX) : (s.setVec v x).flt = s.flt := rfl
@[simp] theorem State.setVec_evIn (v : Nat) (x : VecX) : (s.setVec v x).evIn = s.evIn := rfl
@[simp] theorem State.setVec_axis (v : Nat) (x : VecX) : (s.setVec v x).axis = s.axis := rfl
@[simp] theorem State.setVec_axzPend (v : Nat) (x : VecX) : (s.setVec v x).axzPend = s.axzPend := rfl
@[simp] theorem State.setVec_flights (v : Nat) (x : VecX) : (s.setVec v x).flights = s.flights := rfl
@[simp] theorem State.setVec_alcs (v : Nat) (x : VecX) : (s.setVec v x).alcs = s.alcs := rfl
@[simp] theorem State.setVec_halls (v : Nat) (x : VecX) : (s.setVec v x).halls = s.halls := rfl
@[simp] theorem State.setVec_stopRuns (v : Nat) (x : VecX) : (s.setVec v x).stopRuns = s.stopRuns := rfl
@[simp] theorem State.setVec_startRuns (v : Nat) (x : VecX) : (s.setVec v x).startRuns = s.startRuns := rfl
@[simp] theorem State.setVec_gtl (v : Nat) (x : VecX) : (s.setVec v x).gtl = s.gtl := rfl
@[simp] theorem State.setVec_chans (v : Nat) (x : VecX) : (s.setVec v x).chans = s.chans := rfl
@[simp] theorem State.setVec_peHalls (v : Nat) (x : VecX) : (s.setVec v x).peHalls = s.peHalls := rfl
@[simp] theorem State.setVec_levels (v : Nat) (x : VecX) : (s.setVec v x).levels = s.levels := rfl
@[simp] theorem State.setVec_smus (v : Nat) (x : VecX) : (s.setVec v x).smus = s.smus := rfl
@[simp] theorem State.setVec_grps (v : Nat) (x : VecX) : (s.setVec v x).grps = s.grps := rfl
@[simp] theorem State.setVec_tdcs (v : Nat) (x : VecX) : (s.setVec v x).tdcs = s.tdcs := rfl
@[simp] theorem State.setVec_samples (v : Nat) (x : VecX) : (s.setVec v x).samples = s.samples := rfl
@[simp] theorem State.setVec_regrs (v : Nat) (x : VecX) : (s.setVec v x).regrs = s.regrs := rfl
@[simp] theorem State.setVec_hses (v : Nat) (x : VecX) : (s.setVec v x).hses = s.hses := rfl
@[simp] theorem State.setVec_noref (v : Nat) (x : VecX) : (s.setVec v x).noref = s.noref := rfl
@[simp] theorem State.setVec_bspi (v : Nat) (x : VecX) : (s.setVec v x).bspi = s.bspi := rfl
@[simp] theorem State.setVec_digs (v : Nat) (x : VecX) : (s.setVec v x).digs = s.digs := rfl
@[simp] theorem State.setVec_acqEdge (v : Nat) (x : VecX) : (s.setVec v x).acqEdge = s.acqEdge := rfl
@[simp] theorem State.setVec_rs (v : Nat) (x : VecX) : (s.setVec v x).rs = s.rs := rfl
@[simp] theorem State.setVec_evOld (v : Nat) (x : VecX) : (s.setVec v x).evOld = s.evOld := rfl
@[simp] theorem State.setVec_evLast (v : Nat) (x : VecX) : (s.setVec v x).evLast = s.evLast := rfl
@[simp] theorem State.setVec_evPulse (v : Nat) (x : VecX) : (s.setVec v x).evPulse = s.evPulse := rfl
@[simp] theorem State.setVec_tms (v : Nat) (x : VecX) : (s.setVec v x).tms = s.tms := rfl
@[simp] theorem State.setVec_norefEnd (v : Nat) (x : VecX) : (s.setVec v x).norefEnd = s.norefEnd := rfl
@[simp] theorem State.setVec_peers (v : Nat) (x : VecX) : (s.setVec v x).peers = s.peers := rfl
@[simp] theorem State.setVec_gal (v : Nat) (x : VecX) : (s.setVec v x).gal = s.gal := rfl
@[simp] theorem State.setVec_tts (v : Nat) (x : VecX) : (s.setVec v x).tts = s.tts := rfl
@[simp] theorem State.setVec_admits (v : Nat) (x : VecX) : (s.setVec v x).admits = s.admits := rfl
@[simp] theorem State.setVec_sdPend (v : Nat) (x : VecX) : (s.setVec v x).sdPend = s.sdPend := rfl
@[simp] theorem State.setVec_therm (v : Nat) (x : VecX) : (s.setVec v x).therm = s.therm := rfl
@[simp] theorem State.setVec_cal (v : Nat) (x : VecX) : (s.setVec v x).cal = s.cal := rfl
@[simp] theorem State.setVec_scr (v : Nat) (x : VecX) : (s.setVec v x).scr = s.scr := rfl
@[simp] theorem State.setVec_ports (v : Nat) (x : VecX) : (s.setVec v x).ports = s.ports := rfl
@[simp] theorem State.setVec_rbytes (v : Nat) (x : VecX) : (s.setVec v x).rbytes = s.rbytes := rfl
@[simp] theorem State.setVec_rpl (v : Nat) (x : VecX) : (s.setVec v x).rpl = s.rpl := rfl
@[simp] theorem State.setVec_boot (v : Nat) (x : VecX) : (s.setVec v x).boot = s.boot := rfl
@[simp] theorem State.setVec_mspi (v : Nat) (x : VecX) : (s.setVec v x).mspi = s.mspi := rfl
@[simp] theorem State.setVec_pending (v : Nat) (x : VecX) : (s.setVec v x).pending = s.pending := rfl
@[simp] theorem State.setVec_rd (v : Nat) (x : VecX) (i1 : Nat) : (s.setVec v x).rd i1 = s.rd i1 := rfl
@[simp] theorem State.setVec_g (v : Nat) (x : VecX) (i1 : FRef) : (s.setVec v x).g i1 = s.g i1 := rfl
@[simp] theorem State.setVec_rdByte (v : Nat) (x : VecX) (p1 i1 : Nat) : (s.setVec v x).rdByte p1 i1 = s.rdByte p1 i1 := rfl

/-! ### `State.setRing` -/
@[simp] theorem State.setRing_part (r : Nat) (x : RingX) : (s.setRing r x).part = s.part := rfl
@[simp] theorem State.setRing_regs (r : Nat) (x : RingX) : (s.setRing r x).regs = s.regs := rfl
@[simp] theorem State.setRing_mem (r : Nat) (x : RingX) : (s.setRing r x).mem = s.mem := rfl
@[simp] theorem State.setRing_latch (r : Nat) (x : RingX) : (s.setRing r x).latch = s.latch := rfl
@[simp] theorem State.setRing_rdata (r : Nat) (x : RingX) : (s.setRing r x).rdata = s.rdata := rfl
@[simp] theorem State.setRing_cyc (r : Nat) (x : RingX) : (s.setRing r x).cyc = s.cyc := rfl
@[simp] theorem State.setRing_fresh (r : Nat) (x : RingX) : (s.setRing r x).fresh = s.fresh := rfl
@[simp] theorem State.setRing_freshN (r : Nat) (x : RingX) : (s.setRing r x).freshN = s.freshN := rfl
@[simp] theorem State.setRing_free (r : Nat) (x : RingX) : (s.setRing r x).free = s.free := rfl
@[simp] theorem State.setRing_dids (r : Nat) (x : RingX) : (s.setRing r x).dids = s.dids := rfl
@[simp] theorem State.setRing_out (r : Nat) (x : RingX) : (s.setRing r x).out = s.out := rfl
@[simp] theorem State.setRing_tb0 (r : Nat) (x : RingX) : (s.setRing r x).tb0 = s.tb0 := rfl
@[simp] theorem State.setRing_tb1 (r : Nat) (x : RingX) : (s.setRing r x).tb1 = s.tb1 := rfl
@[simp] theorem State.setRing_tb2 (r : Nat) (x : RingX) : (s.setRing r x).tb2 = s.tb2 := rfl
@[simp] theorem State.setRing_tb0rem (r : Nat) (x : RingX) : (s.setRing r x).tb0rem = s.tb0rem := rfl
@[simp] theorem State.setRing_queues (r : Nat) (x : RingX) : (s.setRing r x).queues = s.queues := rfl
@[simp] theorem State.setRing_orphans (r : Nat) (x : RingX) : (s.setRing r x).orphans = s.orphans := rfl
@[simp] theorem State.setRing_lastQ (r : Nat) (x : RingX) : (s.setRing r x).lastQ = s.lastQ := rfl
@[simp] theorem State.setRing_rings (r : Nat) (x : RingX) : (s.setRing r x).rings = tabSet (fun _ => ({} : RingX)) s.rings r x := rfl
@[simp] theorem State.setRing_vecs (r : Nat) (x : RingX) : (s.setRing r x).vecs = s.vecs := rfl
@[simp] theorem State.setRing_jnl (r : Nat) (x : RingX) : (s.setRing r x).jnl = s.jnl := rfl
@[simp] theorem State.setRing_flt (r : Nat) (x : RingX) : (s.setRing r x).flt = s.flt := rfl
@[simp] theorem State.setRing_evIn (r : Nat) (x : RingX) : (s.setRing r x).evIn = s.evIn := rfl
@[simp] theorem State.setRing_axis (r : Nat) (x : RingX) : (s.setRing r x).axis = s.axis := rfl
@[simp] theorem State.setRing_axzPend (r : Nat) (x : RingX) : (s.setRing r x).axzPend = s.axzPend := rfl
@[simp] theorem State.setRing_flights (r : Nat) (x : RingX) : (s.setRing r x).flights = s.flights := rfl
@[simp] theorem State.setRing_alcs (r : Nat) (x : RingX) : (s.setRing r x).alcs = s.alcs := rfl
@[simp] theorem State.setRing_halls (r : Nat) (x : RingX) : (s.setRing r x).halls = s.halls := rfl
@[simp] theorem State.setRing_stopRuns (r : Nat) (x : RingX) : (s.setRing r x).stopRuns = s.stopRuns := rfl
@[simp] theorem State.setRing_startRuns (r : Nat) (x : RingX) : (s.setRing r x).startRuns = s.startRuns := rfl
@[simp] theorem State.setRing_gtl (r : Nat) (x : RingX) : (s.setRing r x).gtl = s.gtl := rfl
@[simp] theorem State.setRing_chans (r : Nat) (x : RingX) : (s.setRing r x).chans = s.chans := rfl
@[simp] theorem State.setRing_peHalls (r : Nat) (x : RingX) : (s.setRing r x).peHalls = s.peHalls := rfl
@[simp] theorem State.setRing_levels (r : Nat) (x : RingX) : (s.setRing r x).levels = s.levels := rfl
@[simp] theorem State.setRing_smus (r : Nat) (x : RingX) : (s.setRing r x).smus = s.smus := rfl
@[simp] theorem State.setRing_grps (r : Nat) (x : RingX) : (s.setRing r x).grps = s.grps := rfl
@[simp] theorem State.setRing_tdcs (r : Nat) (x : RingX) : (s.setRing r x).tdcs = s.tdcs := rfl
@[simp] theorem State.setRing_samples (r : Nat) (x : RingX) : (s.setRing r x).samples = s.samples := rfl
@[simp] theorem State.setRing_regrs (r : Nat) (x : RingX) : (s.setRing r x).regrs = s.regrs := rfl
@[simp] theorem State.setRing_hses (r : Nat) (x : RingX) : (s.setRing r x).hses = s.hses := rfl
@[simp] theorem State.setRing_noref (r : Nat) (x : RingX) : (s.setRing r x).noref = s.noref := rfl
@[simp] theorem State.setRing_bspi (r : Nat) (x : RingX) : (s.setRing r x).bspi = s.bspi := rfl
@[simp] theorem State.setRing_digs (r : Nat) (x : RingX) : (s.setRing r x).digs = s.digs := rfl
@[simp] theorem State.setRing_acqEdge (r : Nat) (x : RingX) : (s.setRing r x).acqEdge = s.acqEdge := rfl
@[simp] theorem State.setRing_rs (r : Nat) (x : RingX) : (s.setRing r x).rs = s.rs := rfl
@[simp] theorem State.setRing_evOld (r : Nat) (x : RingX) : (s.setRing r x).evOld = s.evOld := rfl
@[simp] theorem State.setRing_evLast (r : Nat) (x : RingX) : (s.setRing r x).evLast = s.evLast := rfl
@[simp] theorem State.setRing_evPulse (r : Nat) (x : RingX) : (s.setRing r x).evPulse = s.evPulse := rfl
@[simp] theorem State.setRing_tms (r : Nat) (x : RingX) : (s.setRing r x).tms = s.tms := rfl
@[simp] theorem State.setRing_norefEnd (r : Nat) (x : RingX) : (s.setRing r x).norefEnd = s.norefEnd := rfl
@[simp] theorem State.setRing_peers (r : Nat) (x : RingX) : (s.setRing r x).peers = s.peers := rfl
@[simp] theorem State.setRing_gal (r : Nat) (x : RingX) : (s.setRing r x).gal = s.gal := rfl
@[simp] theorem State.setRing_tts (r : Nat) (x : RingX) : (s.setRing r x).tts = s.tts := rfl
@[simp] theorem State.setRing_admits (r : Nat) (x : RingX) : (s.setRing r x).admits = s.admits := rfl
@[simp] theorem State.setRing_sdPend (r : Nat) (x : RingX) : (s.setRing r x).sdPend = s.sdPend := rfl
@[simp] theorem State.setRing_therm (r : Nat) (x : RingX) : (s.setRing r x).therm = s.therm := rfl
@[simp] theorem State.setRing_cal (r : Nat) (x : RingX) : (s.setRing r x).cal = s.cal := rfl
@[simp] theorem State.setRing_scr (r : Nat) (x : RingX) : (s.setRing r x).scr = s.scr := rfl
@[simp] theorem State.setRing_ports (r : Nat) (x : RingX) : (s.setRing r x).ports = s.ports := rfl
@[simp] theorem State.setRing_rbytes (r : Nat) (x : RingX) : (s.setRing r x).rbytes = s.rbytes := rfl
@[simp] theorem State.setRing_rpl (r : Nat) (x : RingX) : (s.setRing r x).rpl = s.rpl := rfl
@[simp] theorem State.setRing_boot (r : Nat) (x : RingX) : (s.setRing r x).boot = s.boot := rfl
@[simp] theorem State.setRing_mspi (r : Nat) (x : RingX) : (s.setRing r x).mspi = s.mspi := rfl
@[simp] theorem State.setRing_pending (r : Nat) (x : RingX) : (s.setRing r x).pending = s.pending := rfl
@[simp] theorem State.setRing_rd (r : Nat) (x : RingX) (i1 : Nat) : (s.setRing r x).rd i1 = s.rd i1 := rfl
@[simp] theorem State.setRing_g (r : Nat) (x : RingX) (i1 : FRef) : (s.setRing r x).g i1 = s.g i1 := rfl
@[simp] theorem State.setRing_rdByte (r : Nat) (x : RingX) (p1 i1 : Nat) : (s.setRing r x).rdByte p1 i1 = s.rdByte p1 i1 := rfl

/-! ### `State.setQueue` -/
@[simp] theorem State.setQueue_part (q : Nat) (x : QueueX) : (s.setQueue q x).part = s.part := rfl
@[simp] theorem State.setQueue_regs (q : Nat) (x : QueueX) : (s.setQueue q x).regs = s.regs := rfl
@[simp] theorem State.setQueue_mem (q : Nat) (x : QueueX) : (s.setQueue q x).mem = s.mem := rfl
@[simp] theorem State.setQueue_latch (q : Nat) (x : QueueX) : (s.setQueue q x).latch = s.latch := rfl
@[simp] theorem State.setQueue_rdata (q : Nat) (x : QueueX) : (s.setQueue q x).rdata = s.rdata := rfl
@[simp] theorem State.setQueue_cyc (q : Nat) (x : QueueX) : (s.setQueue q x).cyc = s.cyc := rfl
@[simp] theorem State.setQueue_fresh (q : Nat) (x : QueueX) : (s.setQueue q x).fresh = s.fresh := rfl
@[simp] theorem State.setQueue_freshN (q : Nat) (x : QueueX) : (s.setQueue q x).freshN = s.freshN := rfl
@[simp] theorem State.setQueue_free (q : Nat) (x : QueueX) : (s.setQueue q x).free = s.free := rfl
@[simp] theorem State.setQueue_dids (q : Nat) (x : QueueX) : (s.setQueue q x).dids = s.dids := rfl
@[simp] theorem State.setQueue_out (q : Nat) (x : QueueX) : (s.setQueue q x).out = s.out := rfl
@[simp] theorem State.setQueue_tb0 (q : Nat) (x : QueueX) : (s.setQueue q x).tb0 = s.tb0 := rfl
@[simp] theorem State.setQueue_tb1 (q : Nat) (x : QueueX) : (s.setQueue q x).tb1 = s.tb1 := rfl
@[simp] theorem State.setQueue_tb2 (q : Nat) (x : QueueX) : (s.setQueue q x).tb2 = s.tb2 := rfl
@[simp] theorem State.setQueue_tb0rem (q : Nat) (x : QueueX) : (s.setQueue q x).tb0rem = s.tb0rem := rfl
@[simp] theorem State.setQueue_queues (q : Nat) (x : QueueX) : (s.setQueue q x).queues = tabSet (fun _ => ({} : QueueX)) s.queues q x := rfl
@[simp] theorem State.setQueue_orphans (q : Nat) (x : QueueX) : (s.setQueue q x).orphans = s.orphans := rfl
@[simp] theorem State.setQueue_lastQ (q : Nat) (x : QueueX) : (s.setQueue q x).lastQ = s.lastQ := rfl
@[simp] theorem State.setQueue_rings (q : Nat) (x : QueueX) : (s.setQueue q x).rings = s.rings := rfl
@[simp] theorem State.setQueue_vecs (q : Nat) (x : QueueX) : (s.setQueue q x).vecs = s.vecs := rfl
@[simp] theorem State.setQueue_jnl (q : Nat) (x : QueueX) : (s.setQueue q x).jnl = s.jnl := rfl
@[simp] theorem State.setQueue_flt (q : Nat) (x : QueueX) : (s.setQueue q x).flt = s.flt := rfl
@[simp] theorem State.setQueue_evIn (q : Nat) (x : QueueX) : (s.setQueue q x).evIn = s.evIn := rfl
@[simp] theorem State.setQueue_axis (q : Nat) (x : QueueX) : (s.setQueue q x).axis = s.axis := rfl
@[simp] theorem State.setQueue_axzPend (q : Nat) (x : QueueX) : (s.setQueue q x).axzPend = s.axzPend := rfl
@[simp] theorem State.setQueue_flights (q : Nat) (x : QueueX) : (s.setQueue q x).flights = s.flights := rfl
@[simp] theorem State.setQueue_alcs (q : Nat) (x : QueueX) : (s.setQueue q x).alcs = s.alcs := rfl
@[simp] theorem State.setQueue_halls (q : Nat) (x : QueueX) : (s.setQueue q x).halls = s.halls := rfl
@[simp] theorem State.setQueue_stopRuns (q : Nat) (x : QueueX) : (s.setQueue q x).stopRuns = s.stopRuns := rfl
@[simp] theorem State.setQueue_startRuns (q : Nat) (x : QueueX) : (s.setQueue q x).startRuns = s.startRuns := rfl
@[simp] theorem State.setQueue_gtl (q : Nat) (x : QueueX) : (s.setQueue q x).gtl = s.gtl := rfl
@[simp] theorem State.setQueue_chans (q : Nat) (x : QueueX) : (s.setQueue q x).chans = s.chans := rfl
@[simp] theorem State.setQueue_peHalls (q : Nat) (x : QueueX) : (s.setQueue q x).peHalls = s.peHalls := rfl
@[simp] theorem State.setQueue_levels (q : Nat) (x : QueueX) : (s.setQueue q x).levels = s.levels := rfl
@[simp] theorem State.setQueue_smus (q : Nat) (x : QueueX) : (s.setQueue q x).smus = s.smus := rfl
@[simp] theorem State.setQueue_grps (q : Nat) (x : QueueX) : (s.setQueue q x).grps = s.grps := rfl
@[simp] theorem State.setQueue_tdcs (q : Nat) (x : QueueX) : (s.setQueue q x).tdcs = s.tdcs := rfl
@[simp] theorem State.setQueue_samples (q : Nat) (x : QueueX) : (s.setQueue q x).samples = s.samples := rfl
@[simp] theorem State.setQueue_regrs (q : Nat) (x : QueueX) : (s.setQueue q x).regrs = s.regrs := rfl
@[simp] theorem State.setQueue_hses (q : Nat) (x : QueueX) : (s.setQueue q x).hses = s.hses := rfl
@[simp] theorem State.setQueue_noref (q : Nat) (x : QueueX) : (s.setQueue q x).noref = s.noref := rfl
@[simp] theorem State.setQueue_bspi (q : Nat) (x : QueueX) : (s.setQueue q x).bspi = s.bspi := rfl
@[simp] theorem State.setQueue_digs (q : Nat) (x : QueueX) : (s.setQueue q x).digs = s.digs := rfl
@[simp] theorem State.setQueue_acqEdge (q : Nat) (x : QueueX) : (s.setQueue q x).acqEdge = s.acqEdge := rfl
@[simp] theorem State.setQueue_rs (q : Nat) (x : QueueX) : (s.setQueue q x).rs = s.rs := rfl
@[simp] theorem State.setQueue_evOld (q : Nat) (x : QueueX) : (s.setQueue q x).evOld = s.evOld := rfl
@[simp] theorem State.setQueue_evLast (q : Nat) (x : QueueX) : (s.setQueue q x).evLast = s.evLast := rfl
@[simp] theorem State.setQueue_evPulse (q : Nat) (x : QueueX) : (s.setQueue q x).evPulse = s.evPulse := rfl
@[simp] theorem State.setQueue_tms (q : Nat) (x : QueueX) : (s.setQueue q x).tms = s.tms := rfl
@[simp] theorem State.setQueue_norefEnd (q : Nat) (x : QueueX) : (s.setQueue q x).norefEnd = s.norefEnd := rfl
@[simp] theorem State.setQueue_peers (q : Nat) (x : QueueX) : (s.setQueue q x).peers = s.peers := rfl
@[simp] theorem State.setQueue_gal (q : Nat) (x : QueueX) : (s.setQueue q x).gal = s.gal := rfl
@[simp] theorem State.setQueue_tts (q : Nat) (x : QueueX) : (s.setQueue q x).tts = s.tts := rfl
@[simp] theorem State.setQueue_admits (q : Nat) (x : QueueX) : (s.setQueue q x).admits = s.admits := rfl
@[simp] theorem State.setQueue_sdPend (q : Nat) (x : QueueX) : (s.setQueue q x).sdPend = s.sdPend := rfl
@[simp] theorem State.setQueue_therm (q : Nat) (x : QueueX) : (s.setQueue q x).therm = s.therm := rfl
@[simp] theorem State.setQueue_cal (q : Nat) (x : QueueX) : (s.setQueue q x).cal = s.cal := rfl
@[simp] theorem State.setQueue_scr (q : Nat) (x : QueueX) : (s.setQueue q x).scr = s.scr := rfl
@[simp] theorem State.setQueue_ports (q : Nat) (x : QueueX) : (s.setQueue q x).ports = s.ports := rfl
@[simp] theorem State.setQueue_rbytes (q : Nat) (x : QueueX) : (s.setQueue q x).rbytes = s.rbytes := rfl
@[simp] theorem State.setQueue_rpl (q : Nat) (x : QueueX) : (s.setQueue q x).rpl = s.rpl := rfl
@[simp] theorem State.setQueue_boot (q : Nat) (x : QueueX) : (s.setQueue q x).boot = s.boot := rfl
@[simp] theorem State.setQueue_mspi (q : Nat) (x : QueueX) : (s.setQueue q x).mspi = s.mspi := rfl
@[simp] theorem State.setQueue_pending (q : Nat) (x : QueueX) : (s.setQueue q x).pending = s.pending := rfl
@[simp] theorem State.setQueue_rd (q : Nat) (x : QueueX) (i1 : Nat) : (s.setQueue q x).rd i1 = s.rd i1 := rfl
@[simp] theorem State.setQueue_g (q : Nat) (x : QueueX) (i1 : FRef) : (s.setQueue q x).g i1 = s.g i1 := rfl
@[simp] theorem State.setQueue_rdByte (q : Nat) (x : QueueX) (p1 i1 : Nat) : (s.setQueue q x).rdByte p1 i1 = s.rdByte p1 i1 := rfl

/-! ### `State.send` -/
@[simp] theorem State.send_part (o : Out) : (s.send o).part = s.part := rfl
@[simp] theorem State.send_regs (o : Out) : (s.send o).regs = s.regs := rfl
@[simp] theorem State.send_mem (o : Out) : (s.send o).mem = s.mem := rfl
@[simp] theorem State.send_latch (o : Out) : (s.send o).latch = s.latch := rfl
@[simp] theorem State.send_rdata (o : Out) : (s.send o).rdata = s.rdata := rfl
@[simp] theorem State.send_cyc (o : Out) : (s.send o).cyc = s.cyc := rfl
@[simp] theorem State.send_fresh (o : Out) : (s.send o).fresh = s.fresh := rfl
@[simp] theorem State.send_freshN (o : Out) : (s.send o).freshN = s.freshN := rfl
@[simp] theorem State.send_free (o : Out) : (s.send o).free = s.free := rfl
@[simp] theorem State.send_dids (o : Out) : (s.send o).dids = s.dids := rfl
@[simp] theorem State.send_out (o : Out) : (s.send o).out = s.out ++ [o] := rfl
@[simp] theorem State.send_tb0 (o : Out) : (s.send o).tb0 = s.tb0 := rfl
@[simp] theorem State.send_tb1 (o : Out) : (s.send o).tb1 = s.tb1 := rfl
@[simp] theorem State.send_tb2 (o : Out) : (s.send o).tb2 = s.tb2 := rfl
@[simp] theorem State.send_tb0rem (o : Out) : (s.send o).tb0rem = s.tb0rem := rfl
@[simp] theorem State.send_queues (o : Out) : (s.send o).queues = s.queues := rfl
@[simp] theorem State.send_orphans (o : Out) : (s.send o).orphans = s.orphans := rfl
@[simp] theorem State.send_lastQ (o : Out) : (s.send o).lastQ = s.lastQ := rfl
@[simp] theorem State.send_rings (o : Out) : (s.send o).rings = s.rings := rfl
@[simp] theorem State.send_vecs (o : Out) : (s.send o).vecs = s.vecs := rfl
@[simp] theorem State.send_jnl (o : Out) : (s.send o).jnl = s.jnl := rfl
@[simp] theorem State.send_flt (o : Out) : (s.send o).flt = s.flt := rfl
@[simp] theorem State.send_evIn (o : Out) : (s.send o).evIn = s.evIn := rfl
@[simp] theorem State.send_axis (o : Out) : (s.send o).axis = s.axis := rfl
@[simp] theorem State.send_axzPend (o : Out) : (s.send o).axzPend = s.axzPend := rfl
@[simp] theorem State.send_flights (o : Out) : (s.send o).flights = s.flights := rfl
@[simp] theorem State.send_alcs (o : Out) : (s.send o).alcs = s.alcs := rfl
@[simp] theorem State.send_halls (o : Out) : (s.send o).halls = s.halls := rfl
@[simp] theorem State.send_stopRuns (o : Out) : (s.send o).stopRuns = s.stopRuns := rfl
@[simp] theorem State.send_startRuns (o : Out) : (s.send o).startRuns = s.startRuns := rfl
@[simp] theorem State.send_gtl (o : Out) : (s.send o).gtl = s.gtl := rfl
@[simp] theorem State.send_chans (o : Out) : (s.send o).chans = s.chans := rfl
@[simp] theorem State.send_peHalls (o : Out) : (s.send o).peHalls = s.peHalls := rfl
@[simp] theorem State.send_levels (o : Out) : (s.send o).levels = s.levels := rfl
@[simp] theorem State.send_smus (o : Out) : (s.send o).smus = s.smus := rfl
@[simp] theorem State.send_grps (o : Out) : (s.send o).grps = s.grps := rfl
@[simp] theorem State.send_tdcs (o : Out) : (s.send o).tdcs = s.tdcs := rfl
@[simp] theorem State.send_samples (o : Out) : (s.send o).samples = s.samples := rfl
@[simp] theorem State.send_regrs (o : Out) : (s.send o).regrs = s.regrs := rfl
@[simp] theorem State.send_hses (o : Out) : (s.send o).hses = s.hses := rfl
@[simp] theorem State.send_noref (o : Out) : (s.send o).noref = s.noref := rfl
@[simp] theorem State.send_bspi (o : Out) : (s.send o).bspi = s.bspi := rfl
@[simp] theorem State.send_digs (o : Out) : (s.send o).digs = s.digs := rfl
@[simp] theorem State.send_acqEdge (o : Out) : (s.send o).acqEdge = s.acqEdge := rfl
@[simp] theorem State.send_rs (o : Out) : (s.send o).rs = s.rs := rfl
@[simp] theorem State.send_evOld (o : Out) : (s.send o).evOld = s.evOld := rfl
@[simp] theorem State.send_evLast (o : Out) : (s.send o).evLast = s.evLast := rfl
@[simp] theorem State.send_evPulse (o : Out) : (s.send o).evPulse = s.evPulse := rfl
@[simp] theorem State.send_tms (o : Out) : (s.send o).tms = s.tms := rfl
@[simp] theorem State.send_norefEnd (o : Out) : (s.send o).norefEnd = s.norefEnd := rfl
@[simp] theorem State.send_peers (o : Out) : (s.send o).peers = s.peers := rfl
@[simp] theorem State.send_gal (o : Out) : (s.send o).gal = s.gal := rfl
@[simp] theorem State.send_tts (o : Out) : (s.send o).tts = s.tts := rfl
@[simp] theorem State.send_admits (o : Out) : (s.send o).admits = s.admits := rfl
@[simp] theorem State.send_sdPend (o : Out) : (s.send o).sdPend = s.sdPend := rfl
@[simp] theorem State.send_therm (o : Out) : (s.send o).therm = s.therm := rfl
@[simp] theorem State.send_cal (o : Out) : (s.send o).cal = s.cal := rfl
@[simp] theorem State.send_scr (o : Out) : (s.send o).scr = s.scr := rfl
@[simp] theorem State.send_ports (o : Out) : (s.send o).ports = s.ports := rfl
@[simp] theorem State.send_rbytes (o : Out) : (s.send o).rbytes = s.rbytes := rfl
@[simp] theorem State.send_rpl (o : Out) : (s.send o).rpl = s.rpl := rfl
@[simp] theorem State.send_boot (o : Out) : (s.send o).boot = s.boot := rfl
@[simp] theorem State.send_mspi (o : Out) : (s.send o).mspi = s.mspi := rfl
@[simp] theorem State.send_pending (o : Out) : (s.send o).pending = s.pending := rfl
@[simp] theorem State.send_rd (o : Out) (i1 : Nat) : (s.send o).rd i1 = s.rd i1 := rfl
@[simp] theorem State.send_g (o : Out) (i1 : FRef) : (s.send o).g i1 = s.g i1 := rfl
@[simp] theorem State.send_rdByte (o : Out) (p1 i1 : Nat) : (s.send o).rdByte p1 i1 = s.rdByte p1 i1 := rfl

/-! ### `State.wr` -/
@[simp] theorem State.wr_part (a : Nat) (w : Word) : (s.wr a w).part = s.part := rfl
@[simp] theorem State.wr_regs (a : Nat) (w : Word) : (s.wr a w).regs = tabSet (regReset s.part) s.regs a w := rfl
@[simp] theorem State.wr_mem (a : Nat) (w : Word) : (s.wr a w).mem = s.mem := rfl
@[simp] theorem State.wr_latch (a : Nat) (w : Word) : (s.wr a w).latch = s.latch := rfl
@[simp] theorem State.wr_rdata (a : Nat) (w : Word) : (s.wr a w).rdata = s.rdata := rfl
@[simp] theorem State.wr_cyc (a : Nat) (w : Word) : (s.wr a w).cyc = s.cyc := rfl
@[simp] theorem State.wr_fresh (a : Nat) (w : Word) : (s.wr a w).fresh = s.fresh := rfl
@[simp] theorem State.wr_freshN (a : Nat) (w : Word) : (s.wr a w).freshN = s.freshN := rfl
@[simp] theorem State.wr_free (a : Nat) (w : Word) : (s.wr a w).free = s.free := rfl
@[simp] theorem State.wr_dids (a : Nat) (w : Word) : (s.wr a w).dids = s.dids := rfl
@[simp] theorem State.wr_out (a : Nat) (w : Word) : (s.wr a w).out = s.out := rfl
@[simp] theorem State.wr_tb0 (a : Nat) (w : Word) : (s.wr a w).tb0 = s.tb0 := rfl
@[simp] theorem State.wr_tb1 (a : Nat) (w : Word) : (s.wr a w).tb1 = s.tb1 := rfl
@[simp] theorem State.wr_tb2 (a : Nat) (w : Word) : (s.wr a w).tb2 = s.tb2 := rfl
@[simp] theorem State.wr_tb0rem (a : Nat) (w : Word) : (s.wr a w).tb0rem = s.tb0rem := rfl
@[simp] theorem State.wr_queues (a : Nat) (w : Word) : (s.wr a w).queues = s.queues := rfl
@[simp] theorem State.wr_orphans (a : Nat) (w : Word) : (s.wr a w).orphans = s.orphans := rfl
@[simp] theorem State.wr_lastQ (a : Nat) (w : Word) : (s.wr a w).lastQ = s.lastQ := rfl
@[simp] theorem State.wr_rings (a : Nat) (w : Word) : (s.wr a w).rings = s.rings := rfl
@[simp] theorem State.wr_vecs (a : Nat) (w : Word) : (s.wr a w).vecs = s.vecs := rfl
@[simp] theorem State.wr_jnl (a : Nat) (w : Word) : (s.wr a w).jnl = s.jnl := rfl
@[simp] theorem State.wr_flt (a : Nat) (w : Word) : (s.wr a w).flt = s.flt := rfl
@[simp] theorem State.wr_evIn (a : Nat) (w : Word) : (s.wr a w).evIn = s.evIn := rfl
@[simp] theorem State.wr_axis (a : Nat) (w : Word) : (s.wr a w).axis = s.axis := rfl
@[simp] theorem State.wr_axzPend (a : Nat) (w : Word) : (s.wr a w).axzPend = s.axzPend := rfl
@[simp] theorem State.wr_flights (a : Nat) (w : Word) : (s.wr a w).flights = s.flights := rfl
@[simp] theorem State.wr_alcs (a : Nat) (w : Word) : (s.wr a w).alcs = s.alcs := rfl
@[simp] theorem State.wr_halls (a : Nat) (w : Word) : (s.wr a w).halls = s.halls := rfl
@[simp] theorem State.wr_stopRuns (a : Nat) (w : Word) : (s.wr a w).stopRuns = s.stopRuns := rfl
@[simp] theorem State.wr_startRuns (a : Nat) (w : Word) : (s.wr a w).startRuns = s.startRuns := rfl
@[simp] theorem State.wr_gtl (a : Nat) (w : Word) : (s.wr a w).gtl = s.gtl := rfl
@[simp] theorem State.wr_chans (a : Nat) (w : Word) : (s.wr a w).chans = s.chans := rfl
@[simp] theorem State.wr_peHalls (a : Nat) (w : Word) : (s.wr a w).peHalls = s.peHalls := rfl
@[simp] theorem State.wr_levels (a : Nat) (w : Word) : (s.wr a w).levels = s.levels := rfl
@[simp] theorem State.wr_smus (a : Nat) (w : Word) : (s.wr a w).smus = s.smus := rfl
@[simp] theorem State.wr_grps (a : Nat) (w : Word) : (s.wr a w).grps = s.grps := rfl
@[simp] theorem State.wr_tdcs (a : Nat) (w : Word) : (s.wr a w).tdcs = s.tdcs := rfl
@[simp] theorem State.wr_samples (a : Nat) (w : Word) : (s.wr a w).samples = s.samples := rfl
@[simp] theorem State.wr_regrs (a : Nat) (w : Word) : (s.wr a w).regrs = s.regrs := rfl
@[simp] theorem State.wr_hses (a : Nat) (w : Word) : (s.wr a w).hses = s.hses := rfl
@[simp] theorem State.wr_noref (a : Nat) (w : Word) : (s.wr a w).noref = s.noref := rfl
@[simp] theorem State.wr_bspi (a : Nat) (w : Word) : (s.wr a w).bspi = s.bspi := rfl
@[simp] theorem State.wr_digs (a : Nat) (w : Word) : (s.wr a w).digs = s.digs := rfl
@[simp] theorem State.wr_acqEdge (a : Nat) (w : Word) : (s.wr a w).acqEdge = s.acqEdge := rfl
@[simp] theorem State.wr_rs (a : Nat) (w : Word) : (s.wr a w).rs = s.rs := rfl
@[simp] theorem State.wr_evOld (a : Nat) (w : Word) : (s.wr a w).evOld = s.evOld := rfl
@[simp] theorem State.wr_evLast (a : Nat) (w : Word) : (s.wr a w).evLast = s.evLast := rfl
@[simp] theorem State.wr_evPulse (a : Nat) (w : Word) : (s.wr a w).evPulse = s.evPulse := rfl
@[simp] theorem State.wr_tms (a : Nat) (w : Word) : (s.wr a w).tms = s.tms := rfl
@[simp] theorem State.wr_norefEnd (a : Nat) (w : Word) : (s.wr a w).norefEnd = s.norefEnd := rfl
@[simp] theorem State.wr_peers (a : Nat) (w : Word) : (s.wr a w).peers = s.peers := rfl
@[simp] theorem State.wr_gal (a : Nat) (w : Word) : (s.wr a w).gal = s.gal := rfl
@[simp] theorem State.wr_tts (a : Nat) (w : Word) : (s.wr a w).tts = s.tts := rfl
@[simp] theorem State.wr_admits (a : Nat) (w : Word) : (s.wr a w).admits = s.admits := rfl
@[simp] theorem State.wr_sdPend (a : Nat) (w : Word) : (s.wr a w).sdPend = s.sdPend := rfl
@[simp] theorem State.wr_therm (a : Nat) (w : Word) : (s.wr a w).therm = s.therm := rfl
@[simp] theorem State.wr_cal (a : Nat) (w : Word) : (s.wr a w).cal = s.cal := rfl
@[simp] theorem State.wr_scr (a : Nat) (w : Word) : (s.wr a w).scr = s.scr := rfl
@[simp] theorem State.wr_ports (a : Nat) (w : Word) : (s.wr a w).ports = s.ports := rfl
@[simp] theorem State.wr_rbytes (a : Nat) (w : Word) : (s.wr a w).rbytes = s.rbytes := rfl
@[simp] theorem State.wr_rpl (a : Nat) (w : Word) : (s.wr a w).rpl = s.rpl := rfl
@[simp] theorem State.wr_boot (a : Nat) (w : Word) : (s.wr a w).boot = s.boot := rfl
@[simp] theorem State.wr_mspi (a : Nat) (w : Word) : (s.wr a w).mspi = s.mspi := rfl
@[simp] theorem State.wr_pending (a : Nat) (w : Word) : (s.wr a w).pending = s.pending := rfl

/-! ### `State.wrByte` -/
@[simp] theorem State.wrByte_part (port a : Nat) (b : Byte) : (s.wrByte port a b).part = s.part := rfl
@[simp] theorem State.wrByte_regs (port a : Nat) (b : Byte) : (s.wrByte port a b).regs = s.regs := rfl
@[simp] theorem State.wrByte_mem (port a : Nat) (b : Byte) : (s.wrByte port a b).mem = tabSet (memDefault s.scr) s.mem (memKey port a) b := rfl
@[simp] theorem State.wrByte_latch (port a : Nat) (b : Byte) : (s.wrByte port a b).latch = s.latch := rfl
@[simp] theorem State.wrByte_rdata (port a : Nat) (b : Byte) : (s.wrByte port a b).rdata = s.rdata := rfl
@[simp] theorem State.wrByte_cyc (port a : Nat) (b : Byte) : (s.wrByte port a b).cyc = s.cyc := rfl
@[simp] theorem State.wrByte_fresh (port a : Nat) (b : Byte) : (s.wrByte port a b).fresh = s.fresh := rfl
@[simp] theorem State.wrByte_freshN (port a : Nat) (b : Byte) : (s.wrByte port a b).freshN = s.freshN := rfl
@[simp] theorem State.wrByte_free (port a : Nat) (b : Byte) : (s.wrByte port a b).free = s.free := rfl
@[simp] theorem State.wrByte_dids (port a : Nat) (b : Byte) : (s.wrByte port a b).dids = s.dids := rfl
@[simp] theorem State.wrByte_out (port a : Nat) (b : Byte) : (s.wrByte port a b).out = s.out := rfl
@[simp] theorem State.wrByte_tb0 (port a : Nat) (b : Byte) : (s.wrByte port a b).tb0 = s.tb0 := rfl
@[simp] theorem State.wrByte_tb1 (port a : Nat) (b : Byte) : (s.wrByte port a b).tb1 = s.tb1 := rfl
@[simp] theorem State.wrByte_tb2 (port a : Nat) (b : Byte) : (s.wrByte port a b).tb2 = s.tb2 := rfl
@[simp] theorem State.wrByte_tb0rem (port a : Nat) (b : Byte) : (s.wrByte port a b).tb0rem = s.tb0rem := rfl
@[simp] theorem State.wrByte_queues (port a : Nat) (b : Byte) : (s.wrByte port a b).queues = s.queues := rfl
@[simp] theorem State.wrByte_orphans (port a : Nat) (b : Byte) : (s.wrByte port a b).orphans = s.orphans := rfl
@[simp] theorem State.wrByte_lastQ (port a : Nat) (b : Byte) : (s.wrByte port a b).lastQ = s.lastQ := rfl
@[simp] theorem State.wrByte_rings (port a : Nat) (b : Byte) : (s.wrByte port a b).rings = s.rings := rfl
@[simp] theorem State.wrByte_vecs (port a : Nat) (b : Byte) : (s.wrByte port a b).vecs = s.vecs := rfl
@[simp] theorem State.wrByte_jnl (port a : Nat) (b : Byte) : (s.wrByte port a b).jnl = s.jnl := rfl
@[simp] theorem State.wrByte_flt (port a : Nat) (b : Byte) : (s.wrByte port a b).flt = s.flt := rfl
@[simp] theorem State.wrByte_evIn (port a : Nat) (b : Byte) : (s.wrByte port a b).evIn = s.evIn := rfl
@[simp] theorem State.wrByte_axis (port a : Nat) (b : Byte) : (s.wrByte port a b).axis = s.axis := rfl
@[simp] theorem State.wrByte_axzPend (port a : Nat) (b : Byte) : (s.wrByte port a b).axzPend = s.axzPend := rfl
@[simp] theorem State.wrByte_flights (port a : Nat) (b : Byte) : (s.wrByte port a b).flights = s.flights := rfl
@[simp] theorem State.wrByte_alcs (port a : Nat) (b : Byte) : (s.wrByte port a b).alcs = s.alcs := rfl
@[simp] theorem State.wrByte_halls (port a : Nat) (b : Byte) : (s.wrByte port a b).halls = s.halls := rfl
@[simp] theorem State.wrByte_stopRuns (port a : Nat) (b : Byte) : (s.wrByte port a b).stopRuns = s.stopRuns := rfl
@[simp] theorem State.wrByte_startRuns (port a : Nat) (b : Byte) : (s.wrByte port a b).startRuns = s.startRuns := rfl
@[simp] theorem State.wrByte_gtl (port a : Nat) (b : Byte) : (s.wrByte port a b).gtl = s.gtl := rfl
@[simp] theorem State.wrByte_chans (port a : Nat) (b : Byte) : (s.wrByte port a b).chans = s.chans := rfl
@[simp] theorem State.wrByte_peHalls (port a : Nat) (b : Byte) : (s.wrByte port a b).peHalls = s.peHalls := rfl
@[simp] theorem State.wrByte_levels (port a : Nat) (b : Byte) : (s.wrByte port a b).levels = s.levels := rfl
@[simp] theorem State.wrByte_smus (port a : Nat) (b : Byte) : (s.wrByte port a b).smus = s.smus := rfl
@[simp] theorem State.wrByte_grps (port a : Nat) (b : Byte) : (s.wrByte port a b).grps = s.grps := rfl
@[simp] theorem State.wrByte_tdcs (port a : Nat) (b : Byte) : (s.wrByte port a b).tdcs = s.tdcs := rfl
@[simp] theorem State.wrByte_samples (port a : Nat) (b : Byte) : (s.wrByte port a b).samples = s.samples := rfl
@[simp] theorem State.wrByte_regrs (port a : Nat) (b : Byte) : (s.wrByte port a b).regrs = s.regrs := rfl
@[simp] theorem State.wrByte_hses (port a : Nat) (b : Byte) : (s.wrByte port a b).hses = s.hses := rfl
@[simp] theorem State.wrByte_noref (port a : Nat) (b : Byte) : (s.wrByte port a b).noref = s.noref := rfl
@[simp] theorem State.wrByte_bspi (port a : Nat) (b : Byte) : (s.wrByte port a b).bspi = s.bspi := rfl
@[simp] theorem State.wrByte_digs (port a : Nat) (b : Byte) : (s.wrByte port a b).digs = s.digs := rfl
@[simp] theorem State.wrByte_acqEdge (port a : Nat) (b : Byte) : (s.wrByte port a b).acqEdge = s.acqEdge := rfl
@[simp] theorem State.wrByte_rs (port a : Nat) (b : Byte) : (s.wrByte port a b).rs = s.rs := rfl
@[simp] theorem State.wrByte_evOld (port a : Nat) (b : Byte) : (s.wrByte port a b).evOld = s.evOld := rfl
@[simp] theorem State.wrByte_evLast (port a : Nat) (b : Byte) : (s.wrByte port a b).evLast = s.evLast := rfl
@[simp] theorem State.wrByte_evPulse (port a : Nat) (b : Byte) : (s.wrByte port a b).evPulse = s.evPulse := rfl
@[simp] theorem State.wrByte_tms (port a : Nat) (b : Byte) : (s.wrByte port a b).tms = s.tms := rfl
@[simp] theorem State.wrByte_norefEnd (port a : Nat) (b : Byte) : (s.wrByte port a b).norefEnd = s.norefEnd := rfl
@[simp] theorem State.wrByte_peers (port a : Nat) (b : Byte) : (s.wrByte port a b).peers = s.peers := rfl
@[simp] theorem State.wrByte_gal (port a : Nat) (b : Byte) : (s.wrByte port a b).gal = s.gal := rfl
@[simp] theorem State.wrByte_tts (port a : Nat) (b : Byte) : (s.wrByte port a b).tts = s.tts := rfl
@[simp] theorem State.wrByte_admits (port a : Nat) (b : Byte) : (s.wrByte port a b).admits = s.admits := rfl
@[simp] theorem State.wrByte_sdPend (port a : Nat) (b : Byte) : (s.wrByte port a b).sdPend = s.sdPend := rfl
@[simp] theorem State.wrByte_therm (port a : Nat) (b : Byte) : (s.wrByte port a b).therm = s.therm := rfl
@[simp] theorem State.wrByte_cal (port a : Nat) (b : Byte) : (s.wrByte port a b).cal = s.cal := rfl
@[simp] theorem State.wrByte_scr (port a : Nat) (b : Byte) : (s.wrByte port a b).scr = s.scr := rfl
@[simp] theorem State.wrByte_ports (port a : Nat) (b : Byte) : (s.wrByte port a b).ports = s.ports := rfl
@[simp] theorem State.wrByte_rbytes (port a : Nat) (b : Byte) : (s.wrByte port a b).rbytes = s.rbytes := rfl
@[simp] theorem State.wrByte_rpl (port a : Nat) (b : Byte) : (s.wrByte port a b).rpl = s.rpl := rfl
@[simp] theorem State.wrByte_boot (port a : Nat) (b : Byte) : (s.wrByte port a b).boot = s.boot := rfl
@[simp] theorem State.wrByte_mspi (port a : Nat) (b : Byte) : (s.wrByte port a b).mspi = s.mspi := rfl
@[simp] theorem State.wrByte_pending (port a : Nat) (b : Byte) : (s.wrByte port a b).pending = s.pending := rfl
@[simp] theorem State.wrByte_rd (port a : Nat) (b : Byte) (i1 : Nat) : (s.wrByte port a b).rd i1 = s.rd i1 := rfl
@[simp] theorem State.wrByte_g (port a : Nat) (b : Byte) (i1 : FRef) : (s.wrByte port a b).g i1 = s.g i1 := rfl

/-! ### `State.setAx` -/
@[simp] theorem State.setAx_part (h : Nat) (x : AxisX) : (s.setAx h x).part = s.part := rfl
@[simp] theorem State.setAx_regs (h : Nat) (x : AxisX) : (s.setAx h x).regs = s.regs := rfl
@[simp] theorem State.setAx_mem (h : Nat) (x : AxisX) : (s.setAx h x).mem = s.mem := rfl
@[simp] theorem State.setAx_latch (h : Nat) (x : AxisX) : (s.setAx h x).latch = s.latch := rfl
@[simp] theorem State.setAx_rdata (h : Nat) (x : AxisX) : (s.setAx h x).rdata = s.rdata := rfl
@[simp] theorem State.setAx_cyc (h : Nat) (x : AxisX) : (s.setAx h x).cyc = s.cyc := rfl
@[simp] theorem State.setAx_fresh (h : Nat) (x : AxisX) : (s.setAx h x).fresh = s.fresh := rfl
@[simp] theorem State.setAx_freshN (h : Nat) (x : AxisX) : (s.setAx h x).freshN = s.freshN := rfl
@[simp] theorem State.setAx_free (h : Nat) (x : AxisX) : (s.setAx h x).free = s.free := rfl
@[simp] theorem State.setAx_dids (h : Nat) (x : AxisX) : (s.setAx h x).dids = s.dids := rfl
@[simp] theorem State.setAx_out (h : Nat) (x : AxisX) : (s.setAx h x).out = s.out := rfl
@[simp] theorem State.setAx_tb0 (h : Nat) (x : AxisX) : (s.setAx h x).tb0 = s.tb0 := rfl
@[simp] theorem State.setAx_tb1 (h : Nat) (x : AxisX) : (s.setAx h x).tb1 = s.tb1 := rfl
@[simp] theorem State.setAx_tb2 (h : Nat) (x : AxisX) : (s.setAx h x).tb2 = s.tb2 := rfl
@[simp] theorem State.setAx_tb0rem (h : Nat) (x : AxisX) : (s.setAx h x).tb0rem = s.tb0rem := rfl
@[simp] theorem State.setAx_queues (h : Nat) (x : AxisX) : (s.setAx h x).queues = s.queues := rfl
@[simp] theorem State.setAx_orphans (h : Nat) (x : AxisX) : (s.setAx h x).orphans = s.orphans := rfl
@[simp] theorem State.setAx_lastQ (h : Nat) (x : AxisX) : (s.setAx h x).lastQ = s.lastQ := rfl
@[simp] theorem State.setAx_rings (h : Nat) (x : AxisX) : (s.setAx h x).rings = s.rings := rfl
@[simp] theorem State.setAx_vecs (h : Nat) (x : AxisX) : (s.setAx h x).vecs = s.vecs := rfl
@[simp] theorem State.setAx_jnl (h : Nat) (x : AxisX) : (s.setAx h x).jnl = s.jnl := rfl
@[simp] theorem State.setAx_flt (h : Nat) (x : AxisX) : (s.setAx h x).flt = s.flt := rfl
@[simp] theorem State.setAx_evIn (h : Nat) (x : AxisX) : (s.setAx h x).evIn = s.evIn := rfl
@[simp] theorem State.setAx_axis (h : Nat) (x : AxisX) : (s.setAx h x).axis = tabSet (fun _ => ({} : AxisX)) s.axis h x := rfl
@[simp] theorem State.setAx_axzPend (h : Nat) (x : AxisX) : (s.setAx h x).axzPend = s.axzPend := rfl
@[simp] theorem State.setAx_flights (h : Nat) (x : AxisX) : (s.setAx h x).flights = s.flights := rfl
@[simp] theorem State.setAx_alcs (h : Nat) (x : AxisX) : (s.setAx h x).alcs = s.alcs := rfl
@[simp] theorem State.setAx_halls (h : Nat) (x : AxisX) : (s.setAx h x).halls = s.halls := rfl
@[simp] theorem State.setAx_stopRuns (h : Nat) (x : AxisX) : (s.setAx h x).stopRuns = s.stopRuns := rfl
@[simp] theorem State.setAx_startRuns (h : Nat) (x : AxisX) : (s.setAx h x).startRuns = s.startRuns := rfl
@[simp] theorem State.setAx_gtl (h : Nat) (x : AxisX) : (s.setAx h x).gtl = s.gtl := rfl
@[simp] theorem State.setAx_chans (h : Nat) (x : AxisX) : (s.setAx h x).chans = s.chans := rfl
@[simp] theorem State.setAx_peHalls (h : Nat) (x : AxisX) : (s.setAx h x).peHalls = s.peHalls := rfl
@[simp] theorem State.setAx_levels (h : Nat) (x : AxisX) : (s.setAx h x).levels = s.levels := rfl
@[simp] theorem State.setAx_smus (h : Nat) (x : AxisX) : (s.setAx h x).smus = s.smus := rfl
@[simp] theorem State.setAx_grps (h : Nat) (x : AxisX) : (s.setAx h x).grps = s.grps := rfl
@[simp] theorem State.setAx_tdcs (h : Nat) (x : AxisX) : (s.setAx h x).tdcs = s.tdcs := rfl
@[simp] theorem State.setAx_samples (h : Nat) (x : AxisX) : (s.setAx h x).samples = s.samples := rfl
@[simp] theorem State.setAx_regrs (h : Nat) (x : AxisX) : (s.setAx h x).regrs = s.regrs := rfl
@[simp] theorem State.setAx_hses (h : Nat) (x : AxisX) : (s.setAx h x).hses = s.hses := rfl
@[simp] theorem State.setAx_noref (h : Nat) (x : AxisX) : (s.setAx h x).noref = s.noref := rfl
@[simp] theorem State.setAx_bspi (h : Nat) (x : AxisX) : (s.setAx h x).bspi = s.bspi := rfl
@[simp] theorem State.setAx_digs (h : Nat) (x : AxisX) : (s.setAx h x).digs = s.digs := rfl
@[simp] theorem State.setAx_acqEdge (h : Nat) (x : AxisX) : (s.setAx h x).acqEdge = s.acqEdge := rfl
@[simp] theorem State.setAx_rs (h : Nat) (x : AxisX) : (s.setAx h x).rs = s.rs := rfl
@[simp] theorem State.setAx_evOld (h : Nat) (x : AxisX) : (s.setAx h x).evOld = s.evOld := rfl
@[simp] theorem State.setAx_evLast (h : Nat) (x : AxisX) : (s.setAx h x).evLast = s.evLast := rfl
@[simp] theorem State.setAx_evPulse (h : Nat) (x : AxisX) : (s.setAx h x).evPulse = s.evPulse := rfl
@[simp] theorem State.setAx_tms (h : Nat) (x : AxisX) : (s.setAx h x).tms = s.tms := rfl
@[simp] theorem State.setAx_norefEnd (h : Nat) (x : AxisX) : (s.setAx h x).norefEnd = s.norefEnd := rfl
@[simp] theorem State.setAx_peers (h : Nat) (x : AxisX) : (s.setAx h x).peers = s.peers := rfl
@[simp] theorem State.setAx_gal (h : Nat) (x : AxisX) : (s.setAx h x).gal = s.gal := rfl
@[simp] theorem State.setAx_tts (h : Nat) (x : AxisX) : (s.setAx h x).tts = s.tts := rfl
@[simp] theorem State.setAx_admits (h : Nat) (x : AxisX) : (s.setAx h x).admits = s.admits := rfl
@[simp] theorem State.setAx_sdPend (h : Nat) (x : AxisX) : (s.setAx h x).sdPend = s.sdPend := rfl
@[simp] theorem State.setAx_therm (h : Nat) (x : AxisX) : (s.setAx h x).therm = s.therm := rfl
@[simp] theorem State.setAx_cal (h : Nat) (x : AxisX) : (s.setAx h x).cal = s.cal := rfl
@[simp] theorem State.setAx_scr (h : Nat) (x : AxisX) : (s.setAx h x).scr = s.scr := rfl
@[simp] theorem State.setAx_ports (h : Nat) (x : AxisX) : (s.setAx h x).ports = s.ports := rfl
@[simp] theorem State.setAx_rbytes (h : Nat) (x : AxisX) : (s.setAx h x).rbytes = s.rbytes := rfl
@[simp] theorem State.setAx_rpl (h : Nat) (x : AxisX) : (s.setAx h x).rpl = s.rpl := rfl
@[simp] theorem State.setAx_boot (h : Nat) (x : AxisX) : (s.setAx h x).boot = s.boot := rfl
@[simp] theorem State.setAx_mspi (h : Nat) (x : AxisX) : (s.setAx h x).mspi = s.mspi := rfl
@[simp] theorem State.setAx_pending (h : Nat) (x : AxisX) : (s.setAx h x).pending = s.pending := rfl
@[simp] theorem State.setAx_rd (h : Nat) (x : AxisX) (i1 : Nat) : (s.setAx h x).rd i1 = s.rd i1 := rfl
@[simp] theorem State.setAx_g (h : Nat) (x : AxisX) (i1 : FRef) : (s.setAx h x).g i1 = s.g i1 := rfl
@[simp] theorem State.setAx_rdByte (h : Nat) (x : AxisX) (p1 i1 : Nat) : (s.setAx h x).rdByte p1 i1 = s.rdByte p1 i1 := rfl

/-! ### `State.setFlt` -/
@[simp] theorem State.setFlt_part (h f : Nat) (x : FlightX) : (s.setFlt h f x).part = s.part := rfl
@[simp] theorem State.setFlt_regs (h f : Nat) (x : FlightX) : (s.setFlt h f x).regs = s.regs := rfl
@[simp] theorem State.setFlt_mem (h f : Nat) (x : FlightX) : (s.setFlt h f x).mem = s.mem := rfl
@[simp] theorem State.setFlt_latch (h f : Nat) (x : FlightX) : (s.setFlt h f x).latch = s.latch := rfl
@[simp] theorem State.setFlt_rdata (h f : Nat) (x : FlightX) : (s.setFlt h f x).rdata = s.rdata := rfl
@[simp] theorem State.setFlt_cyc (h f : Nat) (x : FlightX) : (s.setFlt h f x).cyc = s.cyc := rfl
@[simp] theorem State.setFlt_fresh (h f : Nat) (x : FlightX) : (s.setFlt h f x).fresh = s.fresh := rfl
@[simp] theorem State.setFlt_freshN (h f : Nat) (x : FlightX) : (s.setFlt h f x).freshN = s.freshN := rfl
@[simp] theorem State.setFlt_free (h f : Nat) (x : FlightX) : (s.setFlt h f x).free = s.free := rfl
@[simp] theorem State.setFlt_dids (h f : Nat) (x : FlightX) : (s.setFlt h f x).dids = s.dids := rfl
@[simp] theorem State.setFlt_out (h f : Nat) (x : FlightX) : (s.setFlt h f x).out = s.out := rfl
@[simp] theorem State.setFlt_tb0 (h f : Nat) (x : FlightX) : (s.setFlt h f x).tb0 = s.tb0 := rfl
@[simp] theorem State.setFlt_tb1 (h f : Nat) (x : FlightX) : (s.setFlt h f x).tb1 = s.tb1 := rfl
@[simp] theorem State.setFlt_tb2 (h f : Nat) (x : FlightX) : (s.setFlt h f x).tb2 = s.tb2 := rfl
@[simp] theorem State.setFlt_tb0rem (h f : Nat) (x : FlightX) : (s.setFlt h f x).tb0rem = s.tb0rem := rfl
@[simp] theorem State.setFlt_queues (h f : Nat) (x : FlightX) : (s.setFlt h f x).queues = s.queues := rfl
@[simp] theorem State.setFlt_orphans (h f : Nat) (x : FlightX) : (s.setFlt h f x).orphans = s.orphans := rfl
@[simp] theorem State.setFlt_lastQ (h f : Nat) (x : FlightX) : (s.setFlt h f x).lastQ = s.lastQ := rfl
@[simp] theorem State.setFlt_rings (h f : Nat) (x : FlightX) : (s.setFlt h f x).rings = s.rings := rfl
@[simp] theorem State.setFlt_vecs (h f : Nat) (x : FlightX) : (s.setFlt h f x).vecs = s.vecs := rfl
@[simp] theorem State.setFlt_jnl (h f : Nat) (x : FlightX) : (s.setFlt h f x).jnl = s.jnl := rfl
@[simp] theorem State.setFlt_flt (h f : Nat) (x : FlightX) : (s.setFlt h f x).flt = s.flt := rfl
@[simp] theorem State.setFlt_evIn (h f : Nat) (x : FlightX) : (s.setFlt h f x).evIn = s.evIn := rfl
@[simp] theorem State.setFlt_axis (h f : Nat) (x : FlightX) : (s.setFlt h f x).axis = s.axis := rfl
@[simp] theorem State.setFlt_axzPend (h f : Nat) (x : FlightX) : (s.setFlt h f x).axzPend = s.axzPend := rfl
@[simp] theorem State.setFlt_flights (h f : Nat) (x : FlightX) : (s.setFlt h f x).flights = tabSet (fun _ => ({} : FlightX)) s.flights (4096 * h + f) x := rfl
@[simp] theorem State.setFlt_alcs (h f : Nat) (x : FlightX) : (s.setFlt h f x).alcs = s.alcs := rfl
@[simp] theorem State.setFlt_halls (h f : Nat) (x : FlightX) : (s.setFlt h f x).halls = s.halls := rfl
@[simp] theorem State.setFlt_stopRuns (h f : Nat) (x : FlightX) : (s.setFlt h f x).stopRuns = s.stopRuns := rfl
@[simp] theorem State.setFlt_startRuns (h f : Nat) (x : FlightX) : (s.setFlt h f x).startRuns = s.startRuns := rfl
@[simp] theorem State.setFlt_gtl (h f : Nat) (x : FlightX) : (s.setFlt h f x).gtl = s.gtl := rfl
@[simp] theorem State.setFlt_chans (h f : Nat) (x : FlightX) : (s.setFlt h f x).chans = s.chans := rfl
@[simp] theorem State.setFlt_peHalls (h f : Nat) (x : FlightX) : (s.setFlt h f x).peHalls = s.peHalls := rfl
@[simp] theorem State.setFlt_levels (h f : Nat) (x : FlightX) : (s.setFlt h f x).levels = s.levels := rfl
@[simp] theorem State.setFlt_smus (h f : Nat) (x : FlightX) : (s.setFlt h f x).smus = s.smus := rfl
@[simp] theorem State.setFlt_grps (h f : Nat) (x : FlightX) : (s.setFlt h f x).grps = s.grps := rfl
@[simp] theorem State.setFlt_tdcs (h f : Nat) (x : FlightX) : (s.setFlt h f x).tdcs = s.tdcs := rfl
@[simp] theorem State.setFlt_samples (h f : Nat) (x : FlightX) : (s.setFlt h f x).samples = s.samples := rfl
@[simp] theorem State.setFlt_regrs (h f : Nat) (x : FlightX) : (s.setFlt h f x).regrs = s.regrs := rfl
@[simp] theorem State.setFlt_hses (h f : Nat) (x : FlightX) : (s.setFlt h f x).hses = s.hses := rfl
@[simp] theorem State.setFlt_noref (h f : Nat) (x : FlightX) : (s.setFlt h f x).noref = s.noref := rfl
@[simp] theorem State.setFlt_bspi (h f : Nat) (x : FlightX) : (s.setFlt h f x).bspi = s.bspi := rfl
@[simp] theorem State.setFlt_digs (h f : Nat) (x : FlightX) : (s.setFlt h f x).digs = s.digs := rfl
@[simp] theorem State.setFlt_acqEdge (h f : Nat) (x : FlightX) : (s.setFlt h f x).acqEdge = s.acqEdge := rfl
@[simp] theorem State.setFlt_rs (h f : Nat) (x : FlightX) : (s.setFlt h f x).rs = s.rs := rfl
@[simp] theorem State.setFlt_evOld (h f : Nat) (x : FlightX) : (s.setFlt h f x).evOld = s.evOld := rfl
@[simp] theorem State.setFlt_evLast (h f : Nat) (x : FlightX) : (s.setFlt h f x).evLast = s.evLast := rfl
@[simp] theorem State.setFlt_evPulse (h f : Nat) (x : FlightX) : (s.setFlt h f x).evPulse = s.evPulse := rfl
@[simp] theorem State.setFlt_tms (h f : Nat) (x : FlightX) : (s.setFlt h f x).tms = s.tms := rfl
@[simp] theorem State.setFlt_norefEnd (h f : Nat) (x : FlightX) : (s.setFlt h f x).norefEnd = s.norefEnd := rfl
@[simp] theorem State.setFlt_peers (h f : Nat) (x : FlightX) : (s.setFlt h f x).peers = s.peers := rfl
@[simp] theorem State.setFlt_gal (h f : Nat) (x : FlightX) : (s.setFlt h f x).gal = s.gal := rfl
@[simp] theorem State.setFlt_tts (h f : Nat) (x : FlightX) : (s.setFlt h f x).tts = s.tts := rfl
@[simp] theorem State.setFlt_admits (h f : Nat) (x : FlightX) : (s.setFlt h f x).admits = s.admits := rfl
@[simp] theorem State.setFlt_sdPend (h f : Nat) (x : FlightX) : (s.setFlt h f x).sdPend = s.sdPend := rfl
@[simp] theorem State.setFlt_therm (h f : Nat) (x : FlightX) : (s.setFlt h f x).therm = s.therm := rfl
@[simp] theorem State.setFlt_cal (h f : Nat) (x : FlightX) : (s.setFlt h f x).cal = s.cal := rfl
@[simp] theorem State.setFlt_scr (h f : Nat) (x : FlightX) : (s.setFlt h f x).scr = s.scr := rfl
@[simp] theorem State.setFlt_ports (h f : Nat) (x : FlightX) : (s.setFlt h f x).ports = s.ports := rfl
@[simp] theorem State.setFlt_rbytes (h f : Nat) (x : FlightX) : (s.setFlt h f x).rbytes = s.rbytes := rfl
@[simp] theorem State.setFlt_rpl (h f : Nat) (x : FlightX) : (s.setFlt h f x).rpl = s.rpl := rfl
@[simp] theorem State.setFlt_boot (h f : Nat) (x : FlightX) : (s.setFlt h f x).boot = s.boot := rfl
@[simp] theorem State.setFlt_mspi (h f : Nat) (x : FlightX) : (s.setFlt h f x).mspi = s.mspi := rfl
@[simp] theorem State.setFlt_pending (h f : Nat) (x : FlightX) : (s.setFlt h f x).pending = s.pending := rfl
@[simp] theorem State.setFlt_rd (h f : Nat) (x : FlightX) (i1 : Nat) : (s.setFlt h f x).rd i1 = s.rd i1 := rfl
@[simp] theorem State.setFlt_g (h f : Nat) (x : FlightX) (i1 : FRef) : (s.setFlt h f x).g i1 = s.g i1 := rfl
@[simp] theorem State.setFlt_rdByte (h f : Nat) (x : FlightX) (p1 i1 : Nat) : (s.setFlt h f x).rdByte p1 i1 = s.rdByte p1 i1 := rfl

/-! ### `State.setAlc` -/
@[simp] theorem State.setAlc_part (h i : Nat) (x : AlcX) : (s.setAlc h i x).part = s.part := rfl
@[simp] theorem State.setAlc_regs (h i : Nat) (x : AlcX) : (s.setAlc h i x).regs = s.regs := rfl
@[simp] theorem State.setAlc_mem (h i : Nat) (x : AlcX) : (s.setAlc h i x).mem = s.mem := rfl
@[simp] theorem State.setAlc_latch (h i : Nat) (x : AlcX) : (s.setAlc h i x).latch = s.latch := rfl
@[simp] theorem State.setAlc_rdata (h i : Nat) (x : AlcX) : (s.setAlc h i x).rdata = s.rdata := rfl
@[simp] theorem State.setAlc_cyc (h i : Nat) (x : AlcX) : (s.setAlc h i x).cyc = s.cyc := rfl
@[simp] theorem State.setAlc_fresh (h i : Nat) (x : AlcX) : (s.setAlc h i x).fresh = s.fresh := rfl
@[simp] theorem State.setAlc_freshN (h i : Nat) (x : AlcX) : (s.setAlc h i x).freshN = s.freshN := rfl
@[simp] theorem State.setAlc_free (h i : Nat) (x : AlcX) : (s.setAlc h i x).free = s.free := rfl
@[simp] theorem State.setAlc_dids (h i : Nat) (x : AlcX) : (s.setAlc h i x).dids = s.dids := rfl
@[simp] theorem State.setAlc_out (h i : Nat) (x : AlcX) : (s.setAlc h i x).out = s.out := rfl
@[simp] theorem State.setAlc_tb0 (h i : Nat) (x : AlcX) : (s.setAlc h i x).tb0 = s.tb0 := rfl
@[simp] theorem State.setAlc_tb1 (h i : Nat) (x : AlcX) : (s.setAlc h i x).tb1 = s.tb1 := rfl
@[simp] theorem State.setAlc_tb2 (h i : Nat) (x : AlcX) : (s.setAlc h i x).tb2 = s.tb2 := rfl
@[simp] theorem State.setAlc_tb0rem (h i : Nat) (x : AlcX) : (s.setAlc h i x).tb0rem = s.tb0rem := rfl
@[simp] theorem State.setAlc_queues (h i : Nat) (x : AlcX) : (s.setAlc h i x).queues = s.queues := rfl
@[simp] theorem State.setAlc_orphans (h i : Nat) (x : AlcX) : (s.setAlc h i x).orphans = s.orphans := rfl
@[simp] theorem State.setAlc_lastQ (h i : Nat) (x : AlcX) : (s.setAlc h i x).lastQ = s.lastQ := rfl
@[simp] theorem State.setAlc_rings (h i : Nat) (x : AlcX) : (s.setAlc h i x).rings = s.rings := rfl
@[simp] theorem State.setAlc_vecs (h i : Nat) (x : AlcX) : (s.setAlc h i x).vecs = s.vecs := rfl
@[simp] theorem State.setAlc_jnl (h i : Nat) (x : AlcX) : (s.setAlc h i x).jnl = s.jnl := rfl
@[simp] theorem State.setAlc_flt (h i : Nat) (x : AlcX) : (s.setAlc h i x).flt = s.flt := rfl
@[simp] theorem State.setAlc_evIn (h i : Nat) (x : AlcX) : (s.setAlc h i x).evIn = s.evIn := rfl
@[simp] theorem State.setAlc_axis (h i : Nat) (x : AlcX) : (s.setAlc h i x).axis = s.axis := rfl
@[simp] theorem State.setAlc_axzPend (h i : Nat) (x : AlcX) : (s.setAlc h i x).axzPend = s.axzPend := rfl
@[simp] theorem State.setAlc_flights (h i : Nat) (x : AlcX) : (s.setAlc h i x).flights = s.flights := rfl
@[simp] theorem State.setAlc_alcs (h i : Nat) (x : AlcX) : (s.setAlc h i x).alcs = tabSet (fun _ => ({} : AlcX)) s.alcs (96 * h + i) x := rfl
@[simp] theorem State.setAlc_halls (h i : Nat) (x : AlcX) : (s.setAlc h i x).halls = s.halls := rfl
@[simp] theorem State.setAlc_stopRuns (h i : Nat) (x : AlcX) : (s.setAlc h i x).stopRuns = s.stopRuns := rfl
@[simp] theorem State.setAlc_startRuns (h i : Nat) (x : AlcX) : (s.setAlc h i x).startRuns = s.startRuns := rfl
@[simp] theorem State.setAlc_gtl (h i : Nat) (x : AlcX) : (s.setAlc h i x).gtl = s.gtl := rfl
@[simp] theorem State.setAlc_chans (h i : Nat) (x : AlcX) : (s.setAlc h i x).chans = s.chans := rfl
@[simp] theorem State.setAlc_peHalls (h i : Nat) (x : AlcX) : (s.setAlc h i x).peHalls = s.peHalls := rfl
@[simp] theorem State.setAlc_levels (h i : Nat) (x : AlcX) : (s.setAlc h i x).levels = s.levels := rfl
@[simp] theorem State.setAlc_smus (h i : Nat) (x : AlcX) : (s.setAlc h i x).smus = s.smus := rfl
@[simp] theorem State.setAlc_grps (h i : Nat) (x : AlcX) : (s.setAlc h i x).grps = s.grps := rfl
@[simp] theorem State.setAlc_tdcs (h i : Nat) (x : AlcX) : (s.setAlc h i x).tdcs = s.tdcs := rfl
@[simp] theorem State.setAlc_samples (h i : Nat) (x : AlcX) : (s.setAlc h i x).samples = s.samples := rfl
@[simp] theorem State.setAlc_regrs (h i : Nat) (x : AlcX) : (s.setAlc h i x).regrs = s.regrs := rfl
@[simp] theorem State.setAlc_hses (h i : Nat) (x : AlcX) : (s.setAlc h i x).hses = s.hses := rfl
@[simp] theorem State.setAlc_noref (h i : Nat) (x : AlcX) : (s.setAlc h i x).noref = s.noref := rfl
@[simp] theorem State.setAlc_bspi (h i : Nat) (x : AlcX) : (s.setAlc h i x).bspi = s.bspi := rfl
@[simp] theorem State.setAlc_digs (h i : Nat) (x : AlcX) : (s.setAlc h i x).digs = s.digs := rfl
@[simp] theorem State.setAlc_acqEdge (h i : Nat) (x : AlcX) : (s.setAlc h i x).acqEdge = s.acqEdge := rfl
@[simp] theorem State.setAlc_rs (h i : Nat) (x : AlcX) : (s.setAlc h i x).rs = s.rs := rfl
@[simp] theorem State.setAlc_evOld (h i : Nat) (x : AlcX) : (s.setAlc h i x).evOld = s.evOld := rfl
@[simp] theorem State.setAlc_evLast (h i : Nat) (x : AlcX) : (s.setAlc h i x).evLast = s.evLast := rfl
@[simp] theorem State.setAlc_evPulse (h i : Nat) (x : AlcX) : (s.setAlc h i x).evPulse = s.evPulse := rfl
@[simp] theorem State.setAlc_tms (h i : Nat) (x : AlcX) : (s.setAlc h i x).tms = s.tms := rfl
@[simp] theorem State.setAlc_norefEnd (h i : Nat) (x : AlcX) : (s.setAlc h i x).norefEnd = s.norefEnd := rfl
@[simp] theorem State.setAlc_peers (h i : Nat) (x : AlcX) : (s.setAlc h i x).peers = s.peers := rfl
@[simp] theorem State.setAlc_gal (h i : Nat) (x : AlcX) : (s.setAlc h i x).gal = s.gal := rfl
@[simp] theorem State.setAlc_tts (h i : Nat) (x : AlcX) : (s.setAlc h i x).tts = s.tts := rfl
@[simp] theorem State.setAlc_admits (h i : Nat) (x : AlcX) : (s.setAlc h i x).admits = s.admits := rfl
@[simp] theorem State.setAlc_sdPend (h i : Nat) (x : AlcX) : (s.setAlc h i x).sdPend = s.sdPend := rfl
@[simp] theorem State.setAlc_therm (h i : Nat) (x : AlcX) : (s.setAlc h i x).therm = s.therm := rfl
@[simp] theorem State.setAlc_cal (h i : Nat) (x : AlcX) : (s.setAlc h i x).cal = s.cal := rfl
@[simp] theorem State.setAlc_scr (h i : Nat) (x : AlcX) : (s.setAlc h i x).scr = s.scr := rfl
@[simp] theorem State.setAlc_ports (h i : Nat) (x : AlcX) : (s.setAlc h i x).ports = s.ports := rfl
@[simp] theorem State.setAlc_rbytes (h i : Nat) (x : AlcX) : (s.setAlc h i x).rbytes = s.rbytes := rfl
@[simp] theorem State.setAlc_rpl (h i : Nat) (x : AlcX) : (s.setAlc h i x).rpl = s.rpl := rfl
@[simp] theorem State.setAlc_boot (h i : Nat) (x : AlcX) : (s.setAlc h i x).boot = s.boot := rfl
@[simp] theorem State.setAlc_mspi (h i : Nat) (x : AlcX) : (s.setAlc h i x).mspi = s.mspi := rfl
@[simp] theorem State.setAlc_pending (h i : Nat) (x : AlcX) : (s.setAlc h i x).pending = s.pending := rfl
@[simp] theorem State.setAlc_rd (h i : Nat) (x : AlcX) (i1 : Nat) : (s.setAlc h i x).rd i1 = s.rd i1 := rfl
@[simp] theorem State.setAlc_g (h i : Nat) (x : AlcX) (i1 : FRef) : (s.setAlc h i x).g i1 = s.g i1 := rfl
@[simp] theorem State.setAlc_rdByte (h i : Nat) (x : AlcX) (p1 i1 : Nat) : (s.setAlc h i x).rdByte p1 i1 = s.rdByte p1 i1 := rfl

/-! ### `State.setHl` -/
@[simp] theorem State.setHl_part (h : Nat) (x : HallX) : (s.setHl h x).part = s.part := rfl
@[simp] theorem State.setHl_regs (h : Nat) (x : HallX) : (s.setHl h x).regs = s.regs := rfl
@[simp] theorem State.setHl_mem (h : Nat) (x : HallX) : (s.setHl h x).mem = s.mem := rfl
@[simp] theorem State.setHl_latch (h : Nat) (x : HallX) : (s.setHl h x).latch = s.latch := rfl
@[simp] theorem State.setHl_rdata (h : Nat) (x : HallX) : (s.setHl h x).rdata = s.rdata := rfl
@[simp] theorem State.setHl_cyc (h : Nat) (x : HallX) : (s.setHl h x).cyc = s.cyc := rfl
@[simp] theorem State.setHl_fresh (h : Nat) (x : HallX) : (s.setHl h x).fresh = s.fresh := rfl
@[simp] theorem State.setHl_freshN (h : Nat) (x : HallX) : (s.setHl h x).freshN = s.freshN := rfl
@[simp] theorem State.setHl_free (h : Nat) (x : HallX) : (s.setHl h x).free = s.free := rfl
@[simp] theorem State.setHl_dids (h : Nat) (x : HallX) : (s.setHl h x).dids = s.dids := rfl
@[simp] theorem State.setHl_out (h : Nat) (x : HallX) : (s.setHl h x).out = s.out := rfl
@[simp] theorem State.setHl_tb0 (h : Nat) (x : HallX) : (s.setHl h x).tb0 = s.tb0 := rfl
@[simp] theorem State.setHl_tb1 (h : Nat) (x : HallX) : (s.setHl h x).tb1 = s.tb1 := rfl
@[simp] theorem State.setHl_tb2 (h : Nat) (x : HallX) : (s.setHl h x).tb2 = s.tb2 := rfl
@[simp] theorem State.setHl_tb0rem (h : Nat) (x : HallX) : (s.setHl h x).tb0rem = s.tb0rem := rfl
@[simp] theorem State.setHl_queues (h : Nat) (x : HallX) : (s.setHl h x).queues = s.queues := rfl
@[simp] theorem State.setHl_orphans (h : Nat) (x : HallX) : (s.setHl h x).orphans = s.orphans := rfl
@[simp] theorem State.setHl_lastQ (h : Nat) (x : HallX) : (s.setHl h x).lastQ = s.lastQ := rfl
@[simp] theorem State.setHl_rings (h : Nat) (x : HallX) : (s.setHl h x).rings = s.rings := rfl
@[simp] theorem State.setHl_vecs (h : Nat) (x : HallX) : (s.setHl h x).vecs = s.vecs := rfl
@[simp] theorem State.setHl_jnl (h : Nat) (x : HallX) : (s.setHl h x).jnl = s.jnl := rfl
@[simp] theorem State.setHl_flt (h : Nat) (x : HallX) : (s.setHl h x).flt = s.flt := rfl
@[simp] theorem State.setHl_evIn (h : Nat) (x : HallX) : (s.setHl h x).evIn = s.evIn := rfl
@[simp] theorem State.setHl_axis (h : Nat) (x : HallX) : (s.setHl h x).axis = s.axis := rfl
@[simp] theorem State.setHl_axzPend (h : Nat) (x : HallX) : (s.setHl h x).axzPend = s.axzPend := rfl
@[simp] theorem State.setHl_flights (h : Nat) (x : HallX) : (s.setHl h x).flights = s.flights := rfl
@[simp] theorem State.setHl_alcs (h : Nat) (x : HallX) : (s.setHl h x).alcs = s.alcs := rfl
@[simp] theorem State.setHl_halls (h : Nat) (x : HallX) : (s.setHl h x).halls = tabSet (fun _ => ({} : HallX)) s.halls h x := rfl
@[simp] theorem State.setHl_stopRuns (h : Nat) (x : HallX) : (s.setHl h x).stopRuns = s.stopRuns := rfl
@[simp] theorem State.setHl_startRuns (h : Nat) (x : HallX) : (s.setHl h x).startRuns = s.startRuns := rfl
@[simp] theorem State.setHl_gtl (h : Nat) (x : HallX) : (s.setHl h x).gtl = s.gtl := rfl
@[simp] theorem State.setHl_chans (h : Nat) (x : HallX) : (s.setHl h x).chans = s.chans := rfl
@[simp] theorem State.setHl_peHalls (h : Nat) (x : HallX) : (s.setHl h x).peHalls = s.peHalls := rfl
@[simp] theorem State.setHl_levels (h : Nat) (x : HallX) : (s.setHl h x).levels = s.levels := rfl
@[simp] theorem State.setHl_smus (h : Nat) (x : HallX) : (s.setHl h x).smus = s.smus := rfl
@[simp] theorem State.setHl_grps (h : Nat) (x : HallX) : (s.setHl h x).grps = s.grps := rfl
@[simp] theorem State.setHl_tdcs (h : Nat) (x : HallX) : (s.setHl h x).tdcs = s.tdcs := rfl
@[simp] theorem State.setHl_samples (h : Nat) (x : HallX) : (s.setHl h x).samples = s.samples := rfl
@[simp] theorem State.setHl_regrs (h : Nat) (x : HallX) : (s.setHl h x).regrs = s.regrs := rfl
@[simp] theorem State.setHl_hses (h : Nat) (x : HallX) : (s.setHl h x).hses = s.hses := rfl
@[simp] theorem State.setHl_noref (h : Nat) (x : HallX) : (s.setHl h x).noref = s.noref := rfl
@[simp] theorem State.setHl_bspi (h : Nat) (x : HallX) : (s.setHl h x).bspi = s.bspi := rfl
@[simp] theorem State.setHl_digs (h : Nat) (x : HallX) : (s.setHl h x).digs = s.digs := rfl
@[simp] theorem State.setHl_acqEdge (h : Nat) (x : HallX) : (s.setHl h x).acqEdge = s.acqEdge := rfl
@[simp] theorem State.setHl_rs (h : Nat) (x : HallX) : (s.setHl h x).rs = s.rs := rfl
@[simp] theorem State.setHl_evOld (h : Nat) (x : HallX) : (s.setHl h x).evOld = s.evOld := rfl
@[simp] theorem State.setHl_evLast (h : Nat) (x : HallX) : (s.setHl h x).evLast = s.evLast := rfl
@[simp] theorem State.setHl_evPulse (h : Nat) (x : HallX) : (s.setHl h x).evPulse = s.evPulse := rfl
@[simp] theorem State.setHl_tms (h : Nat) (x : HallX) : (s.setHl h x).tms = s.tms := rfl
@[simp] theorem State.setHl_norefEnd (h : Nat) (x : HallX) : (s.setHl h x).norefEnd = s.norefEnd := rfl
@[simp] theorem State.setHl_peers (h : Nat) (x : HallX) : (s.setHl h x).peers = s.peers := rfl
@[simp] theorem State.setHl_gal (h : Nat) (x : HallX) : (s.setHl h x).gal = s.gal := rfl
@[simp] theorem State.setHl_tts (h : Nat) (x : HallX) : (s.setHl h x).tts = s.tts := rfl
@[simp] theorem State.setHl_admits (h : Nat) (x : HallX) : (s.setHl h x).admits = s.admits := rfl
@[simp] theorem State.setHl_sdPend (h : Nat) (x : HallX) : (s.setHl h x).sdPend = s.sdPend := rfl
@[simp] theorem State.setHl_therm (h : Nat) (x : HallX) : (s.setHl h x).therm = s.therm := rfl
@[simp] theorem State.setHl_cal (h : Nat) (x : HallX) : (s.setHl h x).cal = s.cal := rfl
@[simp] theorem State.setHl_scr (h : Nat) (x : HallX) : (s.setHl h x).scr = s.scr := rfl
@[simp] theorem State.setHl_ports (h : Nat) (x : HallX) : (s.setHl h x).ports = s.ports := rfl
@[simp] theorem State.setHl_rbytes (h : Nat) (x : HallX) : (s.setHl h x).rbytes = s.rbytes := rfl
@[simp] theorem State.setHl_rpl (h : Nat) (x : HallX) : (s.setHl h x).rpl = s.rpl := rfl
@[simp] theorem State.setHl_boot (h : Nat) (x : HallX) : (s.setHl h x).boot = s.boot := rfl
@[simp] theorem State.setHl_mspi (h : Nat) (x : HallX) : (s.setHl h x).mspi = s.mspi := rfl
@[simp] theorem State.setHl_pending (h : Nat) (x : HallX) : (s.setHl h x).pending = s.pending := rfl
@[simp] theorem State.setHl_rd (h : Nat) (x : HallX) (i1 : Nat) : (s.setHl h x).rd i1 = s.rd i1 := rfl
@[simp] theorem State.setHl_g (h : Nat) (x : HallX) (i1 : FRef) : (s.setHl h x).g i1 = s.g i1 := rfl
@[simp] theorem State.setHl_rdByte (h : Nat) (x : HallX) (p1 i1 : Nat) : (s.setHl h x).rdByte p1 i1 = s.rdByte p1 i1 := rfl

/-! ### `State.setRead` -/
@[simp] theorem State.setRead_part (path : Path) (w : Word) : (s.setRead path w).part = s.part := rfl
@[simp] theorem State.setRead_regs (path : Path) (w : Word) : (s.setRead path w).regs = s.regs := rfl
@[simp] theorem State.setRead_mem (path : Path) (w : Word) : (s.setRead path w).mem = s.mem := rfl
@[simp] theorem State.setRead_latch (path : Path) (w : Word) : (s.setRead path w).latch = s.latch := rfl
@[simp] theorem State.setRead_rdata (path : Path) (w : Word) : (s.setRead path w).rdata = tabSet (fun _ => 0) s.rdata path.idx w := rfl
@[simp] theorem State.setRead_cyc (path : Path) (w : Word) : (s.setRead path w).cyc = s.cyc := rfl
@[simp] theorem State.setRead_fresh (path : Path) (w : Word) : (s.setRead path w).fresh = s.fresh := rfl
@[simp] theorem State.setRead_freshN (path : Path) (w : Word) : (s.setRead path w).freshN = s.freshN := rfl
@[simp] theorem State.setRead_free (path : Path) (w : Word) : (s.setRead path w).free = s.free := rfl
@[simp] theorem State.setRead_dids (path : Path) (w : Word) : (s.setRead path w).dids = s.dids := rfl
@[simp] theorem State.setRead_out (path : Path) (w : Word) : (s.setRead path w).out = s.out := rfl
@[simp] theorem State.setRead_tb0 (path : Path) (w : Word) : (s.setRead path w).tb0 = s.tb0 := rfl
@[simp] theorem State.setRead_tb1 (path : Path) (w : Word) : (s.setRead path w).tb1 = s.tb1 := rfl
@[simp] theorem State.setRead_tb2 (path : Path) (w : Word) : (s.setRead path w).tb2 = s.tb2 := rfl
@[simp] theorem State.setRead_tb0rem (path : Path) (w : Word) : (s.setRead path w).tb0rem = s.tb0rem := rfl
@[simp] theorem State.setRead_queues (path : Path) (w : Word) : (s.setRead path w).queues = s.queues := rfl
@[simp] theorem State.setRead_orphans (path : Path) (w : Word) : (s.setRead path w).orphans = s.orphans := rfl
@[simp] theorem State.setRead_lastQ (path : Path) (w : Word) : (s.setRead path w).lastQ = s.lastQ := rfl
@[simp] theorem State.setRead_rings (path : Path) (w : Word) : (s.setRead path w).rings = s.rings := rfl
@[simp] theorem State.setRead_vecs (path : Path) (w : Word) : (s.setRead path w).vecs = s.vecs := rfl
@[simp] theorem State.setRead_jnl (path : Path) (w : Word) : (s.setRead path w).jnl = s.jnl := rfl
@[simp] theorem State.setRead_flt (path : Path) (w : Word) : (s.setRead path w).flt = s.flt := rfl
@[simp] theorem State.setRead_evIn (path : Path) (w : Word) : (s.setRead path w).evIn = s.evIn := rfl
@[simp] theorem State.setRead_axis (path : Path) (w : Word) : (s.setRead path w).axis = s.axis := rfl
@[simp] theorem State.setRead_axzPend (path : Path) (w : Word) : (s.setRead path w).axzPend = s.axzPend := rfl
@[simp] theorem State.setRead_flights (path : Path) (w : Word) : (s.setRead path w).flights = s.flights := rfl
@[simp] theorem State.setRead_alcs (path : Path) (w : Word) : (s.setRead path w).alcs = s.alcs := rfl
@[simp] theorem State.setRead_halls (path : Path) (w : Word) : (s.setRead path w).halls = s.halls := rfl
@[simp] theorem State.setRead_stopRuns (path : Path) (w : Word) : (s.setRead path w).stopRuns = s.stopRuns := rfl
@[simp] theorem State.setRead_startRuns (path : Path) (w : Word) : (s.setRead path w).startRuns = s.startRuns := rfl
@[simp] theorem State.setRead_gtl (path : Path) (w : Word) : (s.setRead path w).gtl = s.gtl := rfl
@[simp] theorem State.setRead_chans (path : Path) (w : Word) : (s.setRead path w).chans = s.chans := rfl
@[simp] theorem State.setRead_peHalls (path : Path) (w : Word) : (s.setRead path w).peHalls = s.peHalls := rfl
@[simp] theorem State.setRead_levels (path : Path) (w : Word) : (s.setRead path w).levels = s.levels := rfl
@[simp] theorem State.setRead_smus (path : Path) (w : Word) : (s.setRead path w).smus = s.smus := rfl
@[simp] theorem State.setRead_grps (path : Path) (w : Word) : (s.setRead path w).grps = s.grps := rfl
@[simp] theorem State.setRead_tdcs (path : Path) (w : Word) : (s.setRead path w).tdcs = s.tdcs := rfl
@[simp] theorem State.setRead_samples (path : Path) (w : Word) : (s.setRead path w).samples = s.samples := rfl
@[simp] theorem State.setRead_regrs (path : Path) (w : Word) : (s.setRead path w).regrs = s.regrs := rfl
@[simp] theorem State.setRead_hses (path : Path) (w : Word) : (s.setRead path w).hses = s.hses := rfl
@[simp] theorem State.setRead_noref (path : Path) (w : Word) : (s.setRead path w).noref = s.noref := rfl
@[simp] theorem State.setRead_bspi (path : Path) (w : Word) : (s.setRead path w).bspi = s.bspi := rfl
@[simp] theorem State.setRead_digs (path : Path) (w : Word) : (s.setRead path w).digs = s.digs := rfl
@[simp] theorem State.setRead_acqEdge (path : Path) (w : Word) : (s.setRead path w).acqEdge = s.acqEdge := rfl
@[simp] theorem State.setRead_rs (path : Path) (w : Word) : (s.setRead path w).rs = s.rs := rfl
@[simp] theorem State.setRead_evOld (path : Path) (w : Word) : (s.setRead path w).evOld = s.evOld := rfl
@[simp] theorem State.setRead_evLast (path : Path) (w : Word) : (s.setRead path w).evLast = s.evLast := rfl
@[simp] theorem State.setRead_evPulse (path : Path) (w : Word) : (s.setRead path w).evPulse = s.evPulse := rfl
@[simp] theorem State.setRead_tms (path : Path) (w : Word) : (s.setRead path w).tms = s.tms := rfl
@[simp] theorem State.setRead_norefEnd (path : Path) (w : Word) : (s.setRead path w).norefEnd = s.norefEnd := rfl
@[simp] theorem State.setRead_peers (path : Path) (w : Word) : (s.setRead path w).peers = s.peers := rfl
@[simp] theorem State.setRead_gal (path : Path) (w : Word) : (s.setRead path w).gal = s.gal := rfl
@[simp] theorem State.setRead_tts (path : Path) (w : Word) : (s.setRead path w).tts = s.tts := rfl
@[simp] theorem State.setRead_admits (path : Path) (w : Word) : (s.setRead path w).admits = s.admits := rfl
@[simp] theorem State.setRead_sdPend (path : Path) (w : Word) : (s.setRead path w).sdPend = s.sdPend := rfl
@[simp] theorem State.setRead_therm (path : Path) (w : Word) : (s.setRead path w).therm = s.therm := rfl
@[simp] theorem State.setRead_cal (path : Path) (w : Word) : (s.setRead path w).cal = s.cal := rfl
@[simp] theorem State.setRead_scr (path : Path) (w : Word) : (s.setRead path w).scr = s.scr := rfl
@[simp] theorem State.setRead_ports (path : Path) (w : Word) : (s.setRead path w).ports = s.ports := rfl
@[simp] theorem State.setRead_rbytes (path : Path) (w : Word) : (s.setRead path w).rbytes = s.rbytes := rfl
@[simp] theorem State.setRead_rpl (path : Path) (w : Word) : (s.setRead path w).rpl = s.rpl := rfl
@[simp] theorem State.setRead_boot (path : Path) (w : Word) : (s.setRead path w).boot = s.boot := rfl
@[simp] theorem State.setRead_mspi (path : Path) (w : Word) : (s.setRead path w).mspi = s.mspi := rfl
@[simp] theorem State.setRead_pending (path : Path) (w : Word) : (s.setRead path w).pending = s.pending := rfl
@[simp] theorem State.setRead_rd (path : Path) (w : Word) (i1 : Nat) : (s.setRead path w).rd i1 = s.rd i1 := rfl
@[simp] theorem State.setRead_g (path : Path) (w : Word) (i1 : FRef) : (s.setRead path w).g i1 = s.g i1 := rfl
@[simp] theorem State.setRead_rdByte (path : Path) (w : Word) (p1 i1 : Nat) : (s.setRead path w).rdByte p1 i1 = s.rdByte p1 i1 := rfl

/-! ### `State.setCh` -/
@[simp] theorem State.setCh_part (h c : Nat) (x : ChX) : (s.setCh h c x).part = s.part := rfl
@[simp] theorem State.setCh_regs (h c : Nat) (x : ChX) : (s.setCh h c x).regs = s.regs := rfl
@[simp] theorem State.setCh_mem (h c : Nat) (x : ChX) : (s.setCh h c x).mem = s.mem := rfl
@[simp] theorem State.setCh_latch (h c : Nat) (x : ChX) : (s.setCh h c x).latch = s.latch := rfl
@[simp] theorem State.setCh_rdata (h c : Nat) (x : ChX) : (s.setCh h c x).rdata = s.rdata := rfl
@[simp] theorem State.setCh_cyc (h c : Nat) (x : ChX) : (s.setCh h c x).cyc = s.cyc := rfl
@[simp] theorem State.setCh_fresh (h c : Nat) (x : ChX) : (s.setCh h c x).fresh = s.fresh := rfl
@[simp] theorem State.setCh_freshN (h c : Nat) (x : ChX) : (s.setCh h c x).freshN = s.freshN := rfl
@[simp] theorem State.setCh_free (h c : Nat) (x : ChX) : (s.setCh h c x).free = s.free := rfl
@[simp] theorem State.setCh_dids (h c : Nat) (x : ChX) : (s.setCh h c x).dids = s.dids := rfl
@[simp] theorem State.setCh_out (h c : Nat) (x : ChX) : (s.setCh h c x).out = s.out := rfl
@[simp] theorem State.setCh_tb0 (h c : Nat) (x : ChX) : (s.setCh h c x).tb0 = s.tb0 := rfl
@[simp] theorem State.setCh_tb1 (h c : Nat) (x : ChX) : (s.setCh h c x).tb1 = s.tb1 := rfl
@[simp] theorem State.setCh_tb2 (h c : Nat) (x : ChX) : (s.setCh h c x).tb2 = s.tb2 := rfl
@[simp] theorem State.setCh_tb0rem (h c : Nat) (x : ChX) : (s.setCh h c x).tb0rem = s.tb0rem := rfl
@[simp] theorem State.setCh_queues (h c : Nat) (x : ChX) : (s.setCh h c x).queues = s.queues := rfl
@[simp] theorem State.setCh_orphans (h c : Nat) (x : ChX) : (s.setCh h c x).orphans = s.orphans := rfl
@[simp] theorem State.setCh_lastQ (h c : Nat) (x : ChX) : (s.setCh h c x).lastQ = s.lastQ := rfl
@[simp] theorem State.setCh_rings (h c : Nat) (x : ChX) : (s.setCh h c x).rings = s.rings := rfl
@[simp] theorem State.setCh_vecs (h c : Nat) (x : ChX) : (s.setCh h c x).vecs = s.vecs := rfl
@[simp] theorem State.setCh_jnl (h c : Nat) (x : ChX) : (s.setCh h c x).jnl = s.jnl := rfl
@[simp] theorem State.setCh_flt (h c : Nat) (x : ChX) : (s.setCh h c x).flt = s.flt := rfl
@[simp] theorem State.setCh_evIn (h c : Nat) (x : ChX) : (s.setCh h c x).evIn = s.evIn := rfl
@[simp] theorem State.setCh_axis (h c : Nat) (x : ChX) : (s.setCh h c x).axis = s.axis := rfl
@[simp] theorem State.setCh_axzPend (h c : Nat) (x : ChX) : (s.setCh h c x).axzPend = s.axzPend := rfl
@[simp] theorem State.setCh_flights (h c : Nat) (x : ChX) : (s.setCh h c x).flights = s.flights := rfl
@[simp] theorem State.setCh_alcs (h c : Nat) (x : ChX) : (s.setCh h c x).alcs = s.alcs := rfl
@[simp] theorem State.setCh_halls (h c : Nat) (x : ChX) : (s.setCh h c x).halls = s.halls := rfl
@[simp] theorem State.setCh_stopRuns (h c : Nat) (x : ChX) : (s.setCh h c x).stopRuns = s.stopRuns := rfl
@[simp] theorem State.setCh_startRuns (h c : Nat) (x : ChX) : (s.setCh h c x).startRuns = s.startRuns := rfl
@[simp] theorem State.setCh_gtl (h c : Nat) (x : ChX) : (s.setCh h c x).gtl = s.gtl := rfl
@[simp] theorem State.setCh_chans (h c : Nat) (x : ChX) : (s.setCh h c x).chans = tabSet (fun _ => ({} : ChX)) s.chans (32 * h + c) x := rfl
@[simp] theorem State.setCh_peHalls (h c : Nat) (x : ChX) : (s.setCh h c x).peHalls = s.peHalls := rfl
@[simp] theorem State.setCh_levels (h c : Nat) (x : ChX) : (s.setCh h c x).levels = s.levels := rfl
@[simp] theorem State.setCh_smus (h c : Nat) (x : ChX) : (s.setCh h c x).smus = s.smus := rfl
@[simp] theorem State.setCh_grps (h c : Nat) (x : ChX) : (s.setCh h c x).grps = s.grps := rfl
@[simp] theorem State.setCh_tdcs (h c : Nat) (x : ChX) : (s.setCh h c x).tdcs = s.tdcs := rfl
@[simp] theorem State.setCh_samples (h c : Nat) (x : ChX) : (s.setCh h c x).samples = s.samples := rfl
@[simp] theorem State.setCh_regrs (h c : Nat) (x : ChX) : (s.setCh h c x).regrs = s.regrs := rfl
@[simp] theorem State.setCh_hses (h c : Nat) (x : ChX) : (s.setCh h c x).hses = s.hses := rfl
@[simp] theorem State.setCh_noref (h c : Nat) (x : ChX) : (s.setCh h c x).noref = s.noref := rfl
@[simp] theorem State.setCh_bspi (h c : Nat) (x : ChX) : (s.setCh h c x).bspi = s.bspi := rfl
@[simp] theorem State.setCh_digs (h c : Nat) (x : ChX) : (s.setCh h c x).digs = s.digs := rfl
@[simp] theorem State.setCh_acqEdge (h c : Nat) (x : ChX) : (s.setCh h c x).acqEdge = s.acqEdge := rfl
@[simp] theorem State.setCh_rs (h c : Nat) (x : ChX) : (s.setCh h c x).rs = s.rs := rfl
@[simp] theorem State.setCh_evOld (h c : Nat) (x : ChX) : (s.setCh h c x).evOld = s.evOld := rfl
@[simp] theorem State.setCh_evLast (h c : Nat) (x : ChX) : (s.setCh h c x).evLast = s.evLast := rfl
@[simp] theorem State.setCh_evPulse (h c : Nat) (x : ChX) : (s.setCh h c x).evPulse = s.evPulse := rfl
@[simp] theorem State.setCh_tms (h c : Nat) (x : ChX) : (s.setCh h c x).tms = s.tms := rfl
@[simp] theorem State.setCh_norefEnd (h c : Nat) (x : ChX) : (s.setCh h c x).norefEnd = s.norefEnd := rfl
@[simp] theorem State.setCh_peers (h c : Nat) (x : ChX) : (s.setCh h c x).peers = s.peers := rfl
@[simp] theorem State.setCh_gal (h c : Nat) (x : ChX) : (s.setCh h c x).gal = s.gal := rfl
@[simp] theorem State.setCh_tts (h c : Nat) (x : ChX) : (s.setCh h c x).tts = s.tts := rfl
@[simp] theorem State.setCh_admits (h c : Nat) (x : ChX) : (s.setCh h c x).admits = s.admits := rfl
@[simp] theorem State.setCh_sdPend (h c : Nat) (x : ChX) : (s.setCh h c x).sdPend = s.sdPend := rfl
@[simp] theorem State.setCh_therm (h c : Nat) (x : ChX) : (s.setCh h c x).therm = s.therm := rfl
@[simp] theorem State.setCh_cal (h c : Nat) (x : ChX) : (s.setCh h c x).cal = s.cal := rfl
@[simp] theorem State.setCh_scr (h c : Nat) (x : ChX) : (s.setCh h c x).scr = s.scr := rfl
@[simp] theorem State.setCh_ports (h c : Nat) (x : ChX) : (s.setCh h c x).ports = s.ports := rfl
@[simp] theorem State.setCh_rbytes (h c : Nat) (x : ChX) : (s.setCh h c x).rbytes = s.rbytes := rfl
@[simp] theorem State.setCh_rpl (h c : Nat) (x : ChX) : (s.setCh h c x).rpl = s.rpl := rfl
@[simp] theorem State.setCh_boot (h c : Nat) (x : ChX) : (s.setCh h c x).boot = s.boot := rfl
@[simp] theorem State.setCh_mspi (h c : Nat) (x : ChX) : (s.setCh h c x).mspi = s.mspi := rfl
@[simp] theorem State.setCh_pending (h c : Nat) (x : ChX) : (s.setCh h c x).pending = s.pending := rfl
@[simp] theorem State.setCh_rd (h c : Nat) (x : ChX) (i1 : Nat) : (s.setCh h c x).rd i1 = s.rd i1 := rfl
@[simp] theorem State.setCh_g (h c : Nat) (x : ChX) (i1 : FRef) : (s.setCh h c x).g i1 = s.g i1 := rfl
@[simp] theorem State.setCh_rdByte (h c : Nat) (x : ChX) (p1 i1 : Nat) : (s.setCh h c x).rdByte p1 i1 = s.rdByte p1 i1 := rfl

/-! ### `State.setSmu` -/
@[simp] theorem State.setSmu_part (k : Nat) (x : SmuX) : (s.setSmu k x).part = s.part := rfl
@[simp] theorem State.setSmu_regs (k : Nat) (x : SmuX) : (s.setSmu k x).regs = s.regs := rfl
@[simp] theorem State.setSmu_mem (k : Nat) (x : SmuX) : (s.setSmu k x).mem = s.mem := rfl
@[simp] theorem State.setSmu_latch (k : Nat) (x : SmuX) : (s.setSmu k x).latch = s.latch := rfl
@[simp] theorem State.setSmu_rdata (k : Nat) (x : SmuX) : (s.setSmu k x).rdata = s.rdata := rfl
@[simp] theorem State.setSmu_cyc (k : Nat) (x : SmuX) : (s.setSmu k x).cyc = s.cyc := rfl
@[simp] theorem State.setSmu_fresh (k : Nat) (x : SmuX) : (s.setSmu k x).fresh = s.fresh := rfl
@[simp] theorem State.setSmu_freshN (k : Nat) (x : SmuX) : (s.setSmu k x).freshN = s.freshN := rfl
@[simp] theorem State.setSmu_free (k : Nat) (x : SmuX) : (s.setSmu k x).free = s.free := rfl
@[simp] theorem State.setSmu_dids (k : Nat) (x : SmuX) : (s.setSmu k x).dids = s.dids := rfl
@[simp] theorem State.setSmu_out (k : Nat) (x : SmuX) : (s.setSmu k x).out = s.out := rfl
@[simp] theorem State.setSmu_tb0 (k : Nat) (x : SmuX) : (s.setSmu k x).tb0 = s.tb0 := rfl
@[simp] theorem State.setSmu_tb1 (k : Nat) (x : SmuX) : (s.setSmu k x).tb1 = s.tb1 := rfl
@[simp] theorem State.setSmu_tb2 (k : Nat) (x : SmuX) : (s.setSmu k x).tb2 = s.tb2 := rfl
@[simp] theorem State.setSmu_tb0rem (k : Nat) (x : SmuX) : (s.setSmu k x).tb0rem = s.tb0rem := rfl
@[simp] theorem State.setSmu_queues (k : Nat) (x : SmuX) : (s.setSmu k x).queues = s.queues := rfl
@[simp] theorem State.setSmu_orphans (k : Nat) (x : SmuX) : (s.setSmu k x).orphans = s.orphans := rfl
@[simp] theorem State.setSmu_lastQ (k : Nat) (x : SmuX) : (s.setSmu k x).lastQ = s.lastQ := rfl
@[simp] theorem State.setSmu_rings (k : Nat) (x : SmuX) : (s.setSmu k x).rings = s.rings := rfl
@[simp] theorem State.setSmu_vecs (k : Nat) (x : SmuX) : (s.setSmu k x).vecs = s.vecs := rfl
@[simp] theorem State.setSmu_jnl (k : Nat) (x : SmuX) : (s.setSmu k x).jnl = s.jnl := rfl
@[simp] theorem State.setSmu_flt (k : Nat) (x : SmuX) : (s.setSmu k x).flt = s.flt := rfl
@[simp] theorem State.setSmu_evIn (k : Nat) (x : SmuX) : (s.setSmu k x).evIn = s.evIn := rfl
@[simp] theorem State.setSmu_axis (k : Nat) (x : SmuX) : (s.setSmu k x).axis = s.axis := rfl
@[simp] theorem State.setSmu_axzPend (k : Nat) (x : SmuX) : (s.setSmu k x).axzPend = s.axzPend := rfl
@[simp] theorem State.setSmu_flights (k : Nat) (x : SmuX) : (s.setSmu k x).flights = s.flights := rfl
@[simp] theorem State.setSmu_alcs (k : Nat) (x : SmuX) : (s.setSmu k x).alcs = s.alcs := rfl
@[simp] theorem State.setSmu_halls (k : Nat) (x : SmuX) : (s.setSmu k x).halls = s.halls := rfl
@[simp] theorem State.setSmu_stopRuns (k : Nat) (x : SmuX) : (s.setSmu k x).stopRuns = s.stopRuns := rfl
@[simp] theorem State.setSmu_startRuns (k : Nat) (x : SmuX) : (s.setSmu k x).startRuns = s.startRuns := rfl
@[simp] theorem State.setSmu_gtl (k : Nat) (x : SmuX) : (s.setSmu k x).gtl = s.gtl := rfl
@[simp] theorem State.setSmu_chans (k : Nat) (x : SmuX) : (s.setSmu k x).chans = s.chans := rfl
@[simp] theorem State.setSmu_peHalls (k : Nat) (x : SmuX) : (s.setSmu k x).peHalls = s.peHalls := rfl
@[simp] theorem State.setSmu_levels (k : Nat) (x : SmuX) : (s.setSmu k x).levels = s.levels := rfl
@[simp] theorem State.setSmu_smus (k : Nat) (x : SmuX) : (s.setSmu k x).smus = tabSet (fun _ => ({} : SmuX)) s.smus k x := rfl
@[simp] theorem State.setSmu_grps (k : Nat) (x : SmuX) : (s.setSmu k x).grps = s.grps := rfl
@[simp] theorem State.setSmu_tdcs (k : Nat) (x : SmuX) : (s.setSmu k x).tdcs = s.tdcs := rfl
@[simp] theorem State.setSmu_samples (k : Nat) (x : SmuX) : (s.setSmu k x).samples = s.samples := rfl
@[simp] theorem State.setSmu_regrs (k : Nat) (x : SmuX) : (s.setSmu k x).regrs = s.regrs := rfl
@[simp] theorem State.setSmu_hses (k : Nat) (x : SmuX) : (s.setSmu k x).hses = s.hses := rfl
@[simp] theorem State.setSmu_noref (k : Nat) (x : SmuX) : (s.setSmu k x).noref = s.noref := rfl
@[simp] theorem State.setSmu_bspi (k : Nat) (x : SmuX) : (s.setSmu k x).bspi = s.bspi := rfl
@[simp] theorem State.setSmu_digs (k : Nat) (x : SmuX) : (s.setSmu k x).digs = s.digs := rfl
@[simp] theorem State.setSmu_acqEdge (k : Nat) (x : SmuX) : (s.setSmu k x).acqEdge = s.acqEdge := rfl
@[simp] theorem State.setSmu_rs (k : Nat) (x : SmuX) : (s.setSmu k x).rs = s.rs := rfl
@[simp] theorem State.setSmu_evOld (k : Nat) (x : SmuX) : (s.setSmu k x).evOld = s.evOld := rfl
@[simp] theorem State.setSmu_evLast (k : Nat) (x : SmuX) : (s.setSmu k x).evLast = s.evLast := rfl
@[simp] theorem State.setSmu_evPulse (k : Nat) (x : SmuX) : (s.setSmu k x).evPulse = s.evPulse := rfl
@[simp] theorem State.setSmu_tms (k : Nat) (x : SmuX) : (s.setSmu k x).tms = s.tms := rfl
@[simp] theorem State.setSmu_norefEnd (k : Nat) (x : SmuX) : (s.setSmu k x).norefEnd = s.norefEnd := rfl
@[simp] theorem State.setSmu_peers (k : Nat) (x : SmuX) : (s.setSmu k x).peers = s.peers := rfl
@[simp] theorem State.setSmu_gal (k : Nat) (x : SmuX) : (s.setSmu k x).gal = s.gal := rfl
@[simp] theorem State.setSmu_tts (k : Nat) (x : SmuX) : (s.setSmu k x).tts = s.tts := rfl
@[simp] theorem State.setSmu_admits (k : Nat) (x : SmuX) : (s.setSmu k x).admits = s.admits := rfl
@[simp] theorem State.setSmu_sdPend (k : Nat) (x : SmuX) : (s.setSmu k x).sdPend = s.sdPend := rfl
@[simp] theorem State.setSmu_therm (k : Nat) (x : SmuX) : (s.setSmu k x).therm = s.therm := rfl
@[simp] theorem State.setSmu_cal (k : Nat) (x : SmuX) : (s.setSmu k x).cal = s.cal := rfl
@[simp] theorem State.setSmu_scr (k : Nat) (x : SmuX) : (s.setSmu k x).scr = s.scr := rfl
@[simp] theorem State.setSmu_ports (k : Nat) (x : SmuX) : (s.setSmu k x).ports = s.ports := rfl
@[simp] theorem State.setSmu_rbytes (k : Nat) (x : SmuX) : (s.setSmu k x).rbytes = s.rbytes := rfl
@[simp] theorem State.setSmu_rpl (k : Nat) (x : SmuX) : (s.setSmu k x).rpl = s.rpl := rfl
@[simp] theorem State.setSmu_boot (k : Nat) (x : SmuX) : (s.setSmu k x).boot = s.boot := rfl
@[simp] theorem State.setSmu_mspi (k : Nat) (x : SmuX) : (s.setSmu k x).mspi = s.mspi := rfl
@[simp] theorem State.setSmu_pending (k : Nat) (x : SmuX) : (s.setSmu k x).pending = s.pending := rfl
@[simp] theorem State.setSmu_rd (k : Nat) (x : SmuX) (i1 : Nat) : (s.setSmu k x).rd i1 = s.rd i1 := rfl
@[simp] theorem State.setSmu_g (k : Nat) (x : SmuX) (i1 : FRef) : (s.setSmu k x).g i1 = s.g i1 := rfl
@[simp] theorem State.setSmu_rdByte (k : Nat) (x : SmuX) (p1 i1 : Nat) : (s.setSmu k x).rdByte p1 i1 = s.rdByte p1 i1 := rfl

/-! ### `State.setGrp` -/
@[simp] theorem State.setGrp_part (g : Nat) (x : GrpX) : (s.setGrp g x).part = s.part := rfl
@[simp] theorem State.setGrp_regs (g : Nat) (x : GrpX) : (s.setGrp g x).regs = s.regs := rfl
@[simp] theorem State.setGrp_mem (g : Nat) (x : GrpX) : (s.setGrp g x).mem = s.mem := rfl
@[simp] theorem State.setGrp_latch (g : Nat) (x : GrpX) : (s.setGrp g x).latch = s.latch := rfl
@[simp] theorem State.setGrp_rdata (g : Nat) (x : GrpX) : (s.setGrp g x).rdata = s.rdata := rfl
@[simp] theorem State.setGrp_cyc (g : Nat) (x : GrpX) : (s.setGrp g x).cyc = s.cyc := rfl
@[simp] theorem State.setGrp_fresh (g : Nat) (x : GrpX) : (s.setGrp g x).fresh = s.fresh := rfl
@[simp] theorem State.setGrp_freshN (g : Nat) (x : GrpX) : (s.setGrp g x).freshN = s.freshN := rfl
@[simp] theorem State.setGrp_free (g : Nat) (x : GrpX) : (s.setGrp g x).free = s.free := rfl
@[simp] theorem State.setGrp_dids (g : Nat) (x : GrpX) : (s.setGrp g x).dids = s.dids := rfl
@[simp] theorem State.setGrp_out (g : Nat) (x : GrpX) : (s.setGrp g x).out = s.out := rfl
@[simp] theorem State.setGrp_tb0 (g : Nat) (x : GrpX) : (s.setGrp g x).tb0 = s.tb0 := rfl
@[simp] theorem State.setGrp_tb1 (g : Nat) (x : GrpX) : (s.setGrp g x).tb1 = s.tb1 := rfl
@[simp] theorem State.setGrp_tb2 (g : Nat) (x : GrpX) : (s.setGrp g x).tb2 = s.tb2 := rfl
@[simp] theorem State.setGrp_tb0rem (g : Nat) (x : GrpX) : (s.setGrp g x).tb0rem = s.tb0rem := rfl
@[simp] theorem State.setGrp_queues (g : Nat) (x : GrpX) : (s.setGrp g x).queues = s.queues := rfl
@[simp] theorem State.setGrp_orphans (g : Nat) (x : GrpX) : (s.setGrp g x).orphans = s.orphans := rfl
@[simp] theorem State.setGrp_lastQ (g : Nat) (x : GrpX) : (s.setGrp g x).lastQ = s.lastQ := rfl
@[simp] theorem State.setGrp_rings (g : Nat) (x : GrpX) : (s.setGrp g x).rings = s.rings := rfl
@[simp] theorem State.setGrp_vecs (g : Nat) (x : GrpX) : (s.setGrp g x).vecs = s.vecs := rfl
@[simp] theorem State.setGrp_jnl (g : Nat) (x : GrpX) : (s.setGrp g x).jnl = s.jnl := rfl
@[simp] theorem State.setGrp_flt (g : Nat) (x : GrpX) : (s.setGrp g x).flt = s.flt := rfl
@[simp] theorem State.setGrp_evIn (g : Nat) (x : GrpX) : (s.setGrp g x).evIn = s.evIn := rfl
@[simp] theorem State.setGrp_axis (g : Nat) (x : GrpX) : (s.setGrp g x).axis = s.axis := rfl
@[simp] theorem State.setGrp_axzPend (g : Nat) (x : GrpX) : (s.setGrp g x).axzPend = s.axzPend := rfl
@[simp] theorem State.setGrp_flights (g : Nat) (x : GrpX) : (s.setGrp g x).flights = s.flights := rfl
@[simp] theorem State.setGrp_alcs (g : Nat) (x : GrpX) : (s.setGrp g x).alcs = s.alcs := rfl
@[simp] theorem State.setGrp_halls (g : Nat) (x : GrpX) : (s.setGrp g x).halls = s.halls := rfl
@[simp] theorem State.setGrp_stopRuns (g : Nat) (x : GrpX) : (s.setGrp g x).stopRuns = s.stopRuns := rfl
@[simp] theorem State.setGrp_startRuns (g : Nat) (x : GrpX) : (s.setGrp g x).startRuns = s.startRuns := rfl
@[simp] theorem State.setGrp_gtl (g : Nat) (x : GrpX) : (s.setGrp g x).gtl = s.gtl := rfl
@[simp] theorem State.setGrp_chans (g : Nat) (x : GrpX) : (s.setGrp g x).chans = s.chans := rfl
@[simp] theorem State.setGrp_peHalls (g : Nat) (x : GrpX) : (s.setGrp g x).peHalls = s.peHalls := rfl
@[simp] theorem State.setGrp_levels (g : Nat) (x : GrpX) : (s.setGrp g x).levels = s.levels := rfl
@[simp] theorem State.setGrp_smus (g : Nat) (x : GrpX) : (s.setGrp g x).smus = s.smus := rfl
@[simp] theorem State.setGrp_grps (g : Nat) (x : GrpX) : (s.setGrp g x).grps = tabSet (fun _ => ({} : GrpX)) s.grps g x := rfl
@[simp] theorem State.setGrp_tdcs (g : Nat) (x : GrpX) : (s.setGrp g x).tdcs = s.tdcs := rfl
@[simp] theorem State.setGrp_samples (g : Nat) (x : GrpX) : (s.setGrp g x).samples = s.samples := rfl
@[simp] theorem State.setGrp_regrs (g : Nat) (x : GrpX) : (s.setGrp g x).regrs = s.regrs := rfl
@[simp] theorem State.setGrp_hses (g : Nat) (x : GrpX) : (s.setGrp g x).hses = s.hses := rfl
@[simp] theorem State.setGrp_noref (g : Nat) (x : GrpX) : (s.setGrp g x).noref = s.noref := rfl
@[simp] theorem State.setGrp_bspi (g : Nat) (x : GrpX) : (s.setGrp g x).bspi = s.bspi := rfl
@[simp] theorem State.setGrp_digs (g : Nat) (x : GrpX) : (s.setGrp g x).digs = s.digs := rfl
@[simp] theorem State.setGrp_acqEdge (g : Nat) (x : GrpX) : (s.setGrp g x).acqEdge = s.acqEdge := rfl
@[simp] theorem State.setGrp_rs (g : Nat) (x : GrpX) : (s.setGrp g x).rs = s.rs := rfl
@[simp] theorem State.setGrp_evOld (g : Nat) (x : GrpX) : (s.setGrp g x).evOld = s.evOld := rfl
@[simp] theorem State.setGrp_evLast (g : Nat) (x : GrpX) : (s.setGrp g x).evLast = s.evLast := rfl
@[simp] theorem State.setGrp_evPulse (g : Nat) (x : GrpX) : (s.setGrp g x).evPulse = s.evPulse := rfl
@[simp] theorem State.setGrp_tms (g : Nat) (x : GrpX) : (s.setGrp g x).tms = s.tms := rfl
@[simp] theorem State.setGrp_norefEnd (g : Nat) (x : GrpX) : (s.setGrp g x).norefEnd = s.norefEnd := rfl
@[simp] theorem State.setGrp_peers (g : Nat) (x : GrpX) : (s.setGrp g x).peers = s.peers := rfl
@[simp] theorem State.setGrp_gal (g : Nat) (x : GrpX) : (s.setGrp g x).gal = s.gal := rfl
@[simp] theorem State.setGrp_tts (g : Nat) (x : GrpX) : (s.setGrp g x).tts = s.tts := rfl
@[simp] theorem State.setGrp_admits (g : Nat) (x : GrpX) : (s.setGrp g x).admits = s.admits := rfl
@[simp] theorem State.setGrp_sdPend (g : Nat) (x : GrpX) : (s.setGrp g x).sdPend = s.sdPend := rfl
@[simp] theorem State.setGrp_therm (g : Nat) (x : GrpX) : (s.setGrp g x).therm = s.therm := rfl
@[simp] theorem State.setGrp_cal (g : Nat) (x : GrpX) : (s.setGrp g x).cal = s.cal := rfl
@[simp] theorem State.setGrp_scr (g : Nat) (x : GrpX) : (s.setGrp g x).scr = s.scr := rfl
@[simp] theorem State.setGrp_ports (g : Nat) (x : GrpX) : (s.setGrp g x).ports = s.ports := rfl
@[simp] theorem State.setGrp_rbytes (g : Nat) (x : GrpX) : (s.setGrp g x).rbytes = s.rbytes := rfl
@[simp] theorem State.setGrp_rpl (g : Nat) (x : GrpX) : (s.setGrp g x).rpl = s.rpl := rfl
@[simp] theorem State.setGrp_boot (g : Nat) (x : GrpX) : (s.setGrp g x).boot = s.boot := rfl
@[simp] theorem State.setGrp_mspi (g : Nat) (x : GrpX) : (s.setGrp g x).mspi = s.mspi := rfl
@[simp] theorem State.setGrp_pending (g : Nat) (x : GrpX) : (s.setGrp g x).pending = s.pending := rfl
@[simp] theorem State.setGrp_rd (g : Nat) (x : GrpX) (i1 : Nat) : (s.setGrp g x).rd i1 = s.rd i1 := rfl
@[simp] theorem State.setGrp_g (g : Nat) (x : GrpX) (i1 : FRef) : (s.setGrp g x).g i1 = s.g i1 := rfl
@[simp] theorem State.setGrp_rdByte (g : Nat) (x : GrpX) (p1 i1 : Nat) : (s.setGrp g x).rdByte p1 i1 = s.rdByte p1 i1 := rfl

/-! ### `State.setPeh` -/
@[simp] theorem State.setPeh_part (h : Nat) (x : PeHallX) : (s.setPeh h x).part = s.part := rfl
@[simp] theorem State.setPeh_regs (h : Nat) (x : PeHallX) : (s.setPeh h x).regs = s.regs := rfl
@[simp] theorem State.setPeh_mem (h : Nat) (x : PeHallX) : (s.setPeh h x).mem = s.mem := rfl
@[simp] theorem State.setPeh_latch (h : Nat) (x : PeHallX) : (s.setPeh h x).latch = s.latch := rfl
@[simp] theorem State.setPeh_rdata (h : Nat) (x : PeHallX) : (s.setPeh h x).rdata = s.rdata := rfl
@[simp] theorem State.setPeh_cyc (h : Nat) (x : PeHallX) : (s.setPeh h x).cyc = s.cyc := rfl
@[simp] theorem State.setPeh_fresh (h : Nat) (x : PeHallX) : (s.setPeh h x).fresh = s.fresh := rfl
@[simp] theorem State.setPeh_freshN (h : Nat) (x : PeHallX) : (s.setPeh h x).freshN = s.freshN := rfl
@[simp] theorem State.setPeh_free (h : Nat) (x : PeHallX) : (s.setPeh h x).free = s.free := rfl
@[simp] theorem State.setPeh_dids (h : Nat) (x : PeHallX) : (s.setPeh h x).dids = s.dids := rfl
@[simp] theorem State.setPeh_out (h : Nat) (x : PeHallX) : (s.setPeh h x).out = s.out := rfl
@[simp] theorem State.setPeh_tb0 (h : Nat) (x : PeHallX) : (s.setPeh h x).tb0 = s.tb0 := rfl
@[simp] theorem State.setPeh_tb1 (h : Nat) (x : PeHallX) : (s.setPeh h x).tb1 = s.tb1 := rfl
@[simp] theorem State.setPeh_tb2 (h : Nat) (x : PeHallX) : (s.setPeh h x).tb2 = s.tb2 := rfl
@[simp] theorem State.setPeh_tb0rem (h : Nat) (x : PeHallX) : (s.setPeh h x).tb0rem = s.tb0rem := rfl
@[simp] theorem State.setPeh_queues (h : Nat) (x : PeHallX) : (s.setPeh h x).queues = s.queues := rfl
@[simp] theorem State.setPeh_orphans (h : Nat) (x : PeHallX) : (s.setPeh h x).orphans = s.orphans := rfl
@[simp] theorem State.setPeh_lastQ (h : Nat) (x : PeHallX) : (s.setPeh h x).lastQ = s.lastQ := rfl
@[simp] theorem State.setPeh_rings (h : Nat) (x : PeHallX) : (s.setPeh h x).rings = s.rings := rfl
@[simp] theorem State.setPeh_vecs (h : Nat) (x : PeHallX) : (s.setPeh h x).vecs = s.vecs := rfl
@[simp] theorem State.setPeh_jnl (h : Nat) (x : PeHallX) : (s.setPeh h x).jnl = s.jnl := rfl
@[simp] theorem State.setPeh_flt (h : Nat) (x : PeHallX) : (s.setPeh h x).flt = s.flt := rfl
@[simp] theorem State.setPeh_evIn (h : Nat) (x : PeHallX) : (s.setPeh h x).evIn = s.evIn := rfl
@[simp] theorem State.setPeh_axis (h : Nat) (x : PeHallX) : (s.setPeh h x).axis = s.axis := rfl
@[simp] theorem State.setPeh_axzPend (h : Nat) (x : PeHallX) : (s.setPeh h x).axzPend = s.axzPend := rfl
@[simp] theorem State.setPeh_flights (h : Nat) (x : PeHallX) : (s.setPeh h x).flights = s.flights := rfl
@[simp] theorem State.setPeh_alcs (h : Nat) (x : PeHallX) : (s.setPeh h x).alcs = s.alcs := rfl
@[simp] theorem State.setPeh_halls (h : Nat) (x : PeHallX) : (s.setPeh h x).halls = s.halls := rfl
@[simp] theorem State.setPeh_stopRuns (h : Nat) (x : PeHallX) : (s.setPeh h x).stopRuns = s.stopRuns := rfl
@[simp] theorem State.setPeh_startRuns (h : Nat) (x : PeHallX) : (s.setPeh h x).startRuns = s.startRuns := rfl
@[simp] theorem State.setPeh_gtl (h : Nat) (x : PeHallX) : (s.setPeh h x).gtl = s.gtl := rfl
@[simp] theorem State.setPeh_chans (h : Nat) (x : PeHallX) : (s.setPeh h x).chans = s.chans := rfl
@[simp] theorem State.setPeh_peHalls (h : Nat) (x : PeHallX) : (s.setPeh h x).peHalls = tabSet (fun _ => ({} : PeHallX)) s.peHalls h x := rfl
@[simp] theorem State.setPeh_levels (h : Nat) (x : PeHallX) : (s.setPeh h x).levels = s.levels := rfl
@[simp] theorem State.setPeh_smus (h : Nat) (x : PeHallX) : (s.setPeh h x).smus = s.smus := rfl
@[simp] theorem State.setPeh_grps (h : Nat) (x : PeHallX) : (s.setPeh h x).grps = s.grps := rfl
@[simp] theorem State.setPeh_tdcs (h : Nat) (x : PeHallX) : (s.setPeh h x).tdcs = s.tdcs := rfl
@[simp] theorem State.setPeh_samples (h : Nat) (x : PeHallX) : (s.setPeh h x).samples = s.samples := rfl
@[simp] theorem State.setPeh_regrs (h : Nat) (x : PeHallX) : (s.setPeh h x).regrs = s.regrs := rfl
@[simp] theorem State.setPeh_hses (h : Nat) (x : PeHallX) : (s.setPeh h x).hses = s.hses := rfl
@[simp] theorem State.setPeh_noref (h : Nat) (x : PeHallX) : (s.setPeh h x).noref = s.noref := rfl
@[simp] theorem State.setPeh_bspi (h : Nat) (x : PeHallX) : (s.setPeh h x).bspi = s.bspi := rfl
@[simp] theorem State.setPeh_digs (h : Nat) (x : PeHallX) : (s.setPeh h x).digs = s.digs := rfl
@[simp] theorem State.setPeh_acqEdge (h : Nat) (x : PeHallX) : (s.setPeh h x).acqEdge = s.acqEdge := rfl
@[simp] theorem State.setPeh_rs (h : Nat) (x : PeHallX) : (s.setPeh h x).rs = s.rs := rfl
@[simp] theorem State.setPeh_evOld (h : Nat) (x : PeHallX) : (s.setPeh h x).evOld = s.evOld := rfl
@[simp] theorem State.setPeh_evLast (h : Nat) (x : PeHallX) : (s.setPeh h x).evLast = s.evLast := rfl
@[simp] theorem State.setPeh_evPulse (h : Nat) (x : PeHallX) : (s.setPeh h x).evPulse = s.evPulse := rfl
@[simp] theorem State.setPeh_tms (h : Nat) (x : PeHallX) : (s.setPeh h x).tms = s.tms := rfl
@[simp] theorem State.setPeh_norefEnd (h : Nat) (x : PeHallX) : (s.setPeh h x).norefEnd = s.norefEnd := rfl
@[simp] theorem State.setPeh_peers (h : Nat) (x : PeHallX) : (s.setPeh h x).peers = s.peers := rfl
@[simp] theorem State.setPeh_gal (h : Nat) (x : PeHallX) : (s.setPeh h x).gal = s.gal := rfl
@[simp] theorem State.setPeh_tts (h : Nat) (x : PeHallX) : (s.setPeh h x).tts = s.tts := rfl
@[simp] theorem State.setPeh_admits (h : Nat) (x : PeHallX) : (s.setPeh h x).admits = s.admits := rfl
@[simp] theorem State.setPeh_sdPend (h : Nat) (x : PeHallX) : (s.setPeh h x).sdPend = s.sdPend := rfl
@[simp] theorem State.setPeh_therm (h : Nat) (x : PeHallX) : (s.setPeh h x).therm = s.therm := rfl
@[simp] theorem State.setPeh_cal (h : Nat) (x : PeHallX) : (s.setPeh h x).cal = s.cal := rfl
@[simp] theorem State.setPeh_scr (h : Nat) (x : PeHallX) : (s.setPeh h x).scr = s.scr := rfl
@[simp] theorem State.setPeh_ports (h : Nat) (x : PeHallX) : (s.setPeh h x).ports = s.ports := rfl
@[simp] theorem State.setPeh_rbytes (h : Nat) (x : PeHallX) : (s.setPeh h x).rbytes = s.rbytes := rfl
@[simp] theorem State.setPeh_rpl (h : Nat) (x : PeHallX) : (s.setPeh h x).rpl = s.rpl := rfl
@[simp] theorem State.setPeh_boot (h : Nat) (x : PeHallX) : (s.setPeh h x).boot = s.boot := rfl
@[simp] theorem State.setPeh_mspi (h : Nat) (x : PeHallX) : (s.setPeh h x).mspi = s.mspi := rfl
@[simp] theorem State.setPeh_pending (h : Nat) (x : PeHallX) : (s.setPeh h x).pending = s.pending := rfl
@[simp] theorem State.setPeh_rd (h : Nat) (x : PeHallX) (i1 : Nat) : (s.setPeh h x).rd i1 = s.rd i1 := rfl
@[simp] theorem State.setPeh_g (h : Nat) (x : PeHallX) (i1 : FRef) : (s.setPeh h x).g i1 = s.g i1 := rfl
@[simp] theorem State.setPeh_rdByte (h : Nat) (x : PeHallX) (p1 i1 : Nat) : (s.setPeh h x).rdByte p1 i1 = s.rdByte p1 i1 := rfl

/-! ### `State.setLevel` -/
@[simp] theorem State.setLevel_part (h n c : Nat) (v : BitVec 128) : (s.setLevel h n c v).part = s.part := rfl
@[simp] theorem State.setLevel_regs (h n c : Nat) (v : BitVec 128) : (s.setLevel h n c v).regs = s.regs := rfl
@[simp] theorem State.setLevel_mem (h n c : Nat) (v : BitVec 128) : (s.setLevel h n c v).mem = s.mem := rfl
@[simp] theorem State.setLevel_latch (h n c : Nat) (v : BitVec 128) : (s.setLevel h n c v).latch = s.latch := rfl
@[simp] theorem State.setLevel_rdata (h n c : Nat) (v : BitVec 128) : (s.setLevel h n c v).rdata = s.rdata := rfl
@[simp] theorem State.setLevel_cyc (h n c : Nat) (v : BitVec 128) : (s.setLevel h n c v).cyc = s.cyc := rfl
@[simp] theorem State.setLevel_fresh (h n c : Nat) (v : BitVec 128) : (s.setLevel h n c v).fresh = s.fresh := rfl
@[simp] theorem State.setLevel_freshN (h n c : Nat) (v : BitVec 128) : (s.setLevel h n c v).freshN = s.freshN := rfl
@[simp] theorem State.setLevel_free (h n c : Nat) (v : BitVec 128) : (s.setLevel h n c v).free = s.free := rfl
@[simp] theorem State.setLevel_dids (h n c : Nat) (v : BitVec 128) : (s.setLevel h n c v).dids = s.dids := rfl
@[simp] theorem State.setLevel_out (h n c : Nat) (v : BitVec 128) : (s.setLevel h n c v).out = s.out := rfl
@[simp] theorem State.setLevel_tb0 (h n c : Nat) (v : BitVec 128) : (s.setLevel h n c v).tb0 = s.tb0 := rfl
@[simp] theorem State.setLevel_tb1 (h n c : Nat) (v : BitVec 128) : (s.setLevel h n c v).tb1 = s.tb1 := rfl
@[simp] theorem State.setLevel_tb2 (h n c : Nat) (v : BitVec 128) : (s.setLevel h n c v).tb2 = s.tb2 := rfl
@[simp] theorem State.setLevel_tb0rem (h n c : Nat) (v : BitVec 128) : (s.setLevel h n c v).tb0rem = s.tb0rem := rfl
@[simp] theorem State.setLevel_queues (h n c : Nat) (v : BitVec 128) : (s.setLevel h n c v).queues = s.queues := rfl
@[simp] theorem State.setLevel_orphans (h n c : Nat) (v : BitVec 128) : (s.setLevel h n c v).orphans = s.orphans := rfl
@[simp] theorem State.setLevel_lastQ (h n c : Nat) (v : BitVec 128) : (s.setLevel h n c v).lastQ = s.lastQ := rfl
@[simp] theorem State.setLevel_rings (h n c : Nat) (v : BitVec 128) : (s.setLevel h n c v).rings = s.rings := rfl
@[simp] theorem State.setLevel_vecs (h n c : Nat) (v : BitVec 128) : (s.setLevel h n c v).vecs = s.vecs := rfl
@[simp] theorem State.setLevel_jnl (h n c : Nat) (v : BitVec 128) : (s.setLevel h n c v).jnl = s.jnl := rfl
@[simp] theorem State.setLevel_flt (h n c : Nat) (v : BitVec 128) : (s.setLevel h n c v).flt = s.flt := rfl
@[simp] theorem State.setLevel_evIn (h n c : Nat) (v : BitVec 128) : (s.setLevel h n c v).evIn = s.evIn := rfl
@[simp] theorem State.setLevel_axis (h n c : Nat) (v : BitVec 128) : (s.setLevel h n c v).axis = s.axis := rfl
@[simp] theorem State.setLevel_axzPend (h n c : Nat) (v : BitVec 128) : (s.setLevel h n c v).axzPend = s.axzPend := rfl
@[simp] theorem State.setLevel_flights (h n c : Nat) (v : BitVec 128) : (s.setLevel h n c v).flights = s.flights := rfl
@[simp] theorem State.setLevel_alcs (h n c : Nat) (v : BitVec 128) : (s.setLevel h n c v).alcs = s.alcs := rfl
@[simp] theorem State.setLevel_halls (h n c : Nat) (v : BitVec 128) : (s.setLevel h n c v).halls = s.halls := rfl
@[simp] theorem State.setLevel_stopRuns (h n c : Nat) (v : BitVec 128) : (s.setLevel h n c v).stopRuns = s.stopRuns := rfl
@[simp] theorem State.setLevel_startRuns (h n c : Nat) (v : BitVec 128) : (s.setLevel h n c v).startRuns = s.startRuns := rfl
@[simp] theorem State.setLevel_gtl (h n c : Nat) (v : BitVec 128) : (s.setLevel h n c v).gtl = s.gtl := rfl
@[simp] theorem State.setLevel_chans (h n c : Nat) (v : BitVec 128) : (s.setLevel h n c v).chans = s.chans := rfl
@[simp] theorem State.setLevel_peHalls (h n c : Nat) (v : BitVec 128) : (s.setLevel h n c v).peHalls = s.peHalls := rfl
@[simp] theorem State.setLevel_levels (h n c : Nat) (v : BitVec 128) : (s.setLevel h n c v).levels = tabSet (fun _ => lvlReset) s.levels ((64 * h + n) * 32 + c) v := rfl
@[simp] theorem State.setLevel_smus (h n c : Nat) (v : BitVec 128) : (s.setLevel h n c v).smus = s.smus := rfl
@[simp] theorem State.setLevel_grps (h n c : Nat) (v : BitVec 128) : (s.setLevel h n c v).grps = s.grps := rfl
@[simp] theorem State.setLevel_tdcs (h n c : Nat) (v : BitVec 128) : (s.setLevel h n c v).tdcs = s.tdcs := rfl
@[simp] theorem State.setLevel_samples (h n c : Nat) (v : BitVec 128) : (s.setLevel h n c v).samples = s.samples := rfl
@[simp] theorem State.setLevel_regrs (h n c : Nat) (v : BitVec 128) : (s.setLevel h n c v).regrs = s.regrs := rfl
@[simp] theorem State.setLevel_hses (h n c : Nat) (v : BitVec 128) : (s.setLevel h n c v).hses = s.hses := rfl
@[simp] theorem State.setLevel_noref (h n c : Nat) (v : BitVec 128) : (s.setLevel h n c v).noref = s.noref := rfl
@[simp] theorem State.setLevel_bspi (h n c : Nat) (v : BitVec 128) : (s.setLevel h n c v).bspi = s.bspi := rfl
@[simp] theorem State.setLevel_digs (h n c : Nat) (v : BitVec 128) : (s.setLevel h n c v).digs = s.digs := rfl
@[simp] theorem State.setLevel_acqEdge (h n c : Nat) (v : BitVec 128) : (s.setLevel h n c v).acqEdge = s.acqEdge := rfl
@[simp] theorem State.setLevel_rs (h n c : Nat) (v : BitVec 128) : (s.setLevel h n c v).rs = s.rs := rfl
@[simp] theorem State.setLevel_evOld (h n c : Nat) (v : BitVec 128) : (s.setLevel h n c v).evOld = s.evOld := rfl
@[simp] theorem State.setLevel_evLast (h n c : Nat) (v : BitVec 128) : (s.setLevel h n c v).evLast = s.evLast := rfl
@[simp] theorem State.setLevel_evPulse (h n c : Nat) (v : BitVec 128) : (s.setLevel h n c v).evPulse = s.evPulse := rfl
@[simp] theorem State.setLevel_tms (h n c : Nat) (v : BitVec 128) : (s.setLevel h n c v).tms = s.tms := rfl
@[simp] theorem State.setLevel_norefEnd (h n c : Nat) (v : BitVec 128) : (s.setLevel h n c v).norefEnd = s.norefEnd := rfl
@[simp] theorem State.setLevel_peers (h n c : Nat) (v : BitVec 128) : (s.setLevel h n c v).peers = s.peers := rfl
@[simp] theorem State.setLevel_gal (h n c : Nat) (v : BitVec 128) : (s.setLevel h n c v).gal = s.gal := rfl
@[simp] theorem State.setLevel_tts (h n c : Nat) (v : BitVec 128) : (s.setLevel h n c v).tts = s.tts := rfl
@[simp] theorem State.setLevel_admits (h n c : Nat) (v : BitVec 128) : (s.setLevel h n c v).admits = s.admits := rfl
@[simp] theorem State.setLevel_sdPend (h n c : Nat) (v : BitVec 128) : (s.setLevel h n c v).sdPend = s.sdPend := rfl
@[simp] theorem State.setLevel_therm (h n c : Nat) (v : BitVec 128) : (s.setLevel h n c v).therm = s.therm := rfl
@[simp] theorem State.setLevel_cal (h n c : Nat) (v : BitVec 128) : (s.setLevel h n c v).cal = s.cal := rfl
@[simp] theorem State.setLevel_scr (h n c : Nat) (v : BitVec 128) : (s.setLevel h n c v).scr = s.scr := rfl
@[simp] theorem State.setLevel_ports (h n c : Nat) (v : BitVec 128) : (s.setLevel h n c v).ports = s.ports := rfl
@[simp] theorem State.setLevel_rbytes (h n c : Nat) (v : BitVec 128) : (s.setLevel h n c v).rbytes = s.rbytes := rfl
@[simp] theorem State.setLevel_rpl (h n c : Nat) (v : BitVec 128) : (s.setLevel h n c v).rpl = s.rpl := rfl
@[simp] theorem State.setLevel_boot (h n c : Nat) (v : BitVec 128) : (s.setLevel h n c v).boot = s.boot := rfl
@[simp] theorem State.setLevel_mspi (h n c : Nat) (v : BitVec 128) : (s.setLevel h n c v).mspi = s.mspi := rfl
@[simp] theorem State.setLevel_pending (h n c : Nat) (v : BitVec 128) : (s.setLevel h n c v).pending = s.pending := rfl
@[simp] theorem State.setLevel_rd (h n c : Nat) (v : BitVec 128) (i1 : Nat) : (s.setLevel h n c v).rd i1 = s.rd i1 := rfl
@[simp] theorem State.setLevel_g (h n c : Nat) (v : BitVec 128) (i1 : FRef) : (s.setLevel h n c v).g i1 = s.g i1 := rfl
@[simp] theorem State.setLevel_rdByte (h n c : Nat) (v : BitVec 128) (p1 i1 : Nat) : (s.setLevel h n c v).rdByte p1 i1 = s.rdByte p1 i1 := rfl

/-! ### `State.setTdc` -/
@[simp] theorem State.setTdc_part (h c : Nat) (x : TdcX) : (s.setTdc h c x).part = s.part := rfl
@[simp] theorem State.setTdc_regs (h c : Nat) (x : TdcX) : (s.setTdc h c x).regs = s.regs := rfl
@[simp] theorem State.setTdc_mem (h c : Nat) (x : TdcX) : (s.setTdc h c x).mem = s.mem := rfl
@[simp] theorem State.setTdc_latch (h c : Nat) (x : TdcX) : (s.setTdc h c x).latch = s.latch := rfl
@[simp] theorem State.setTdc_rdata (h c : Nat) (x : TdcX) : (s.setTdc h c x).rdata = s.rdata := rfl
@[simp] theorem State.setTdc_cyc (h c : Nat) (x : TdcX) : (s.setTdc h c x).cyc = s.cyc := rfl
@[simp] theorem State.setTdc_fresh (h c : Nat) (x : TdcX) : (s.setTdc h c x).fresh = s.fresh := rfl
@[simp] theorem State.setTdc_freshN (h c : Nat) (x : TdcX) : (s.setTdc h c x).freshN = s.freshN := rfl
@[simp] theorem State.setTdc_free (h c : Nat) (x : TdcX) : (s.setTdc h c x).free = s.free := rfl
@[simp] theorem State.setTdc_dids (h c : Nat) (x : TdcX) : (s.setTdc h c x).dids = s.dids := rfl
@[simp] theorem State.setTdc_out (h c : Nat) (x : TdcX) : (s.setTdc h c x).out = s.out := rfl
@[simp] theorem State.setTdc_tb0 (h c : Nat) (x : TdcX) : (s.setTdc h c x).tb0 = s.tb0 := rfl
@[simp] theorem State.setTdc_tb1 (h c : Nat) (x : TdcX) : (s.setTdc h c x).tb1 = s.tb1 := rfl
@[simp] theorem State.setTdc_tb2 (h c : Nat) (x : TdcX) : (s.setTdc h c x).tb2 = s.tb2 := rfl
@[simp] theorem State.setTdc_tb0rem (h c : Nat) (x : TdcX) : (s.setTdc h c x).tb0rem = s.tb0rem := rfl
@[simp] theorem State.setTdc_queues (h c : Nat) (x : TdcX) : (s.setTdc h c x).queues = s.queues := rfl
@[simp] theorem State.setTdc_orphans (h c : Nat) (x : TdcX) : (s.setTdc h c x).orphans = s.orphans := rfl
@[simp] theorem State.setTdc_lastQ (h c : Nat) (x : TdcX) : (s.setTdc h c x).lastQ = s.lastQ := rfl
@[simp] theorem State.setTdc_rings (h c : Nat) (x : TdcX) : (s.setTdc h c x).rings = s.rings := rfl
@[simp] theorem State.setTdc_vecs (h c : Nat) (x : TdcX) : (s.setTdc h c x).vecs = s.vecs := rfl
@[simp] theorem State.setTdc_jnl (h c : Nat) (x : TdcX) : (s.setTdc h c x).jnl = s.jnl := rfl
@[simp] theorem State.setTdc_flt (h c : Nat) (x : TdcX) : (s.setTdc h c x).flt = s.flt := rfl
@[simp] theorem State.setTdc_evIn (h c : Nat) (x : TdcX) : (s.setTdc h c x).evIn = s.evIn := rfl
@[simp] theorem State.setTdc_axis (h c : Nat) (x : TdcX) : (s.setTdc h c x).axis = s.axis := rfl
@[simp] theorem State.setTdc_axzPend (h c : Nat) (x : TdcX) : (s.setTdc h c x).axzPend = s.axzPend := rfl
@[simp] theorem State.setTdc_flights (h c : Nat) (x : TdcX) : (s.setTdc h c x).flights = s.flights := rfl
@[simp] theorem State.setTdc_alcs (h c : Nat) (x : TdcX) : (s.setTdc h c x).alcs = s.alcs := rfl
@[simp] theorem State.setTdc_halls (h c : Nat) (x : TdcX) : (s.setTdc h c x).halls = s.halls := rfl
@[simp] theorem State.setTdc_stopRuns (h c : Nat) (x : TdcX) : (s.setTdc h c x).stopRuns = s.stopRuns := rfl
@[simp] theorem State.setTdc_startRuns (h c : Nat) (x : TdcX) : (s.setTdc h c x).startRuns = s.startRuns := rfl
@[simp] theorem State.setTdc_gtl (h c : Nat) (x : TdcX) : (s.setTdc h c x).gtl = s.gtl := rfl
@[simp] theorem State.setTdc_chans (h c : Nat) (x : TdcX) : (s.setTdc h c x).chans = s.chans := rfl
@[simp] theorem State.setTdc_peHalls (h c : Nat) (x : TdcX) : (s.setTdc h c x).peHalls = s.peHalls := rfl
@[simp] theorem State.setTdc_levels (h c : Nat) (x : TdcX) : (s.setTdc h c x).levels = s.levels := rfl
@[simp] theorem State.setTdc_smus (h c : Nat) (x : TdcX) : (s.setTdc h c x).smus = s.smus := rfl
@[simp] theorem State.setTdc_grps (h c : Nat) (x : TdcX) : (s.setTdc h c x).grps = s.grps := rfl
@[simp] theorem State.setTdc_tdcs (h c : Nat) (x : TdcX) : (s.setTdc h c x).tdcs = tabSet (fun _ => ({} : TdcX)) s.tdcs (32 * h + c) x := rfl
@[simp] theorem State.setTdc_samples (h c : Nat) (x : TdcX) : (s.setTdc h c x).samples = s.samples := rfl
@[simp] theorem State.setTdc_regrs (h c : Nat) (x : TdcX) : (s.setTdc h c x).regrs = s.regrs := rfl
@[simp] theorem State.setTdc_hses (h c : Nat) (x : TdcX) : (s.setTdc h c x).hses = s.hses := rfl
@[simp] theorem State.setTdc_noref (h c : Nat) (x : TdcX) : (s.setTdc h c x).noref = s.noref := rfl
@[simp] theorem State.setTdc_bspi (h c : Nat) (x : TdcX) : (s.setTdc h c x).bspi = s.bspi := rfl
@[simp] theorem State.setTdc_digs (h c : Nat) (x : TdcX) : (s.setTdc h c x).digs = s.digs := rfl
@[simp] theorem State.setTdc_acqEdge (h c : Nat) (x : TdcX) : (s.setTdc h c x).acqEdge = s.acqEdge := rfl
@[simp] theorem State.setTdc_rs (h c : Nat) (x : TdcX) : (s.setTdc h c x).rs = s.rs := rfl
@[simp] theorem State.setTdc_evOld (h c : Nat) (x : TdcX) : (s.setTdc h c x).evOld = s.evOld := rfl
@[simp] theorem State.setTdc_evLast (h c : Nat) (x : TdcX) : (s.setTdc h c x).evLast = s.evLast := rfl
@[simp] theorem State.setTdc_evPulse (h c : Nat) (x : TdcX) : (s.setTdc h c x).evPulse = s.evPulse := rfl
@[simp] theorem State.setTdc_tms (h c : Nat) (x : TdcX) : (s.setTdc h c x).tms = s.tms := rfl
@[simp] theorem State.setTdc_norefEnd (h c : Nat) (x : TdcX) : (s.setTdc h c x).norefEnd = s.norefEnd := rfl
@[simp] theorem State.setTdc_peers (h c : Nat) (x : TdcX) : (s.setTdc h c x).peers = s.peers := rfl
@[simp] theorem State.setTdc_gal (h c : Nat) (x : TdcX) : (s.setTdc h c x).gal = s.gal := rfl
@[simp] theorem State.setTdc_tts (h c : Nat) (x : TdcX) : (s.setTdc h c x).tts = s.tts := rfl
@[simp] theorem State.setTdc_admits (h c : Nat) (x : TdcX) : (s.setTdc h c x).admits = s.admits := rfl
@[simp] theorem State.setTdc_sdPend (h c : Nat) (x : TdcX) : (s.setTdc h c x).sdPend = s.sdPend := rfl
@[simp] theorem State.setTdc_therm (h c : Nat) (x : TdcX) : (s.setTdc h c x).therm = s.therm := rfl
@[simp] theorem State.setTdc_cal (h c : Nat) (x : TdcX) : (s.setTdc h c x).cal = s.cal := rfl
@[simp] theorem State.setTdc_scr (h c : Nat) (x : TdcX) : (s.setTdc h c x).scr = s.scr := rfl
@[simp] theorem State.setTdc_ports (h c : Nat) (x : TdcX) : (s.setTdc h c x).ports = s.ports := rfl
@[simp] theorem State.setTdc_rbytes (h c : Nat) (x : TdcX) : (s.setTdc h c x).rbytes = s.rbytes := rfl
@[simp] theorem State.setTdc_rpl (h c : Nat) (x : TdcX) : (s.setTdc h c x).rpl = s.rpl := rfl
@[simp] theorem State.setTdc_boot (h c : Nat) (x : TdcX) : (s.setTdc h c x).boot = s.boot := rfl
@[simp] theorem State.setTdc_mspi (h c : Nat) (x : TdcX) : (s.setTdc h c x).mspi = s.mspi := rfl
@[simp] theorem State.setTdc_pending (h c : Nat) (x : TdcX) : (s.setTdc h c x).pending = s.pending := rfl
@[simp] theorem State.setTdc_rd (h c : Nat) (x : TdcX) (i1 : Nat) : (s.setTdc h c x).rd i1 = s.rd i1 := rfl
@[simp] theorem State.setTdc_g (h c : Nat) (x : TdcX) (i1 : FRef) : (s.setTdc h c x).g i1 = s.g i1 := rfl
@[simp] theorem State.setTdc_rdByte (h c : Nat) (x : TdcX) (p1 i1 : Nat) : (s.setTdc h c x).rdByte p1 i1 = s.rdByte p1 i1 := rfl

/-! ### `State.setSmp` -/
@[simp] theorem State.setSmp_part (h m : Nat) (x : SampleX) : (s.setSmp h m x).part = s.part := rfl
@[simp] theorem State.setSmp_regs (h m : Nat) (x : SampleX) : (s.setSmp h m x).regs = s.regs := rfl
@[simp] theorem State.setSmp_mem (h m : Nat) (x : SampleX) : (s.setSmp h m x).mem = s.mem := rfl
@[simp] theorem State.setSmp_latch (h m : Nat) (x : SampleX) : (s.setSmp h m x).latch = s.latch := rfl
@[simp] theorem State.setSmp_rdata (h m : Nat) (x : SampleX) : (s.setSmp h m x).rdata = s.rdata := rfl
@[simp] theorem State.setSmp_cyc (h m : Nat) (x : SampleX) : (s.setSmp h m x).cyc = s.cyc := rfl
@[simp] theorem State.setSmp_fresh (h m : Nat) (x : SampleX) : (s.setSmp h m x).fresh = s.fresh := rfl
@[simp] theorem State.setSmp_freshN (h m : Nat) (x : SampleX) : (s.setSmp h m x).freshN = s.freshN := rfl
@[simp] theorem State.setSmp_free (h m : Nat) (x : SampleX) : (s.setSmp h m x).free = s.free := rfl
@[simp] theorem State.setSmp_dids (h m : Nat) (x : SampleX) : (s.setSmp h m x).dids = s.dids := rfl
@[simp] theorem State.setSmp_out (h m : Nat) (x : SampleX) : (s.setSmp h m x).out = s.out := rfl
@[simp] theorem State.setSmp_tb0 (h m : Nat) (x : SampleX) : (s.setSmp h m x).tb0 = s.tb0 := rfl
@[simp] theorem State.setSmp_tb1 (h m : Nat) (x : SampleX) : (s.setSmp h m x).tb1 = s.tb1 := rfl
@[simp] theorem State.setSmp_tb2 (h m : Nat) (x : SampleX) : (s.setSmp h m x).tb2 = s.tb2 := rfl
@[simp] theorem State.setSmp_tb0rem (h m : Nat) (x : SampleX) : (s.setSmp h m x).tb0rem = s.tb0rem := rfl
@[simp] theorem State.setSmp_queues (h m : Nat) (x : SampleX) : (s.setSmp h m x).queues = s.queues := rfl
@[simp] theorem State.setSmp_orphans (h m : Nat) (x : SampleX) : (s.setSmp h m x).orphans = s.orphans := rfl
@[simp] theorem State.setSmp_lastQ (h m : Nat) (x : SampleX) : (s.setSmp h m x).lastQ = s.lastQ := rfl
@[simp] theorem State.setSmp_rings (h m : Nat) (x : SampleX) : (s.setSmp h m x).rings = s.rings := rfl
@[simp] theorem State.setSmp_vecs (h m : Nat) (x : SampleX) : (s.setSmp h m x).vecs = s.vecs := rfl
@[simp] theorem State.setSmp_jnl (h m : Nat) (x : SampleX) : (s.setSmp h m x).jnl = s.jnl := rfl
@[simp] theorem State.setSmp_flt (h m : Nat) (x : SampleX) : (s.setSmp h m x).flt = s.flt := rfl
@[simp] theorem State.setSmp_evIn (h m : Nat) (x : SampleX) : (s.setSmp h m x).evIn = s.evIn := rfl
@[simp] theorem State.setSmp_axis (h m : Nat) (x : SampleX) : (s.setSmp h m x).axis = s.axis := rfl
@[simp] theorem State.setSmp_axzPend (h m : Nat) (x : SampleX) : (s.setSmp h m x).axzPend = s.axzPend := rfl
@[simp] theorem State.setSmp_flights (h m : Nat) (x : SampleX) : (s.setSmp h m x).flights = s.flights := rfl
@[simp] theorem State.setSmp_alcs (h m : Nat) (x : SampleX) : (s.setSmp h m x).alcs = s.alcs := rfl
@[simp] theorem State.setSmp_halls (h m : Nat) (x : SampleX) : (s.setSmp h m x).halls = s.halls := rfl
@[simp] theorem State.setSmp_stopRuns (h m : Nat) (x : SampleX) : (s.setSmp h m x).stopRuns = s.stopRuns := rfl
@[simp] theorem State.setSmp_startRuns (h m : Nat) (x : SampleX) : (s.setSmp h m x).startRuns = s.startRuns := rfl
@[simp] theorem State.setSmp_gtl (h m : Nat) (x : SampleX) : (s.setSmp h m x).gtl = s.gtl := rfl
@[simp] theorem State.setSmp_chans (h m : Nat) (x : SampleX) : (s.setSmp h m x).chans = s.chans := rfl
@[simp] theorem State.setSmp_peHalls (h m : Nat) (x : SampleX) : (s.setSmp h m x).peHalls = s.peHalls := rfl
@[simp] theorem State.setSmp_levels (h m : Nat) (x : SampleX) : (s.setSmp h m x).levels = s.levels := rfl
@[simp] theorem State.setSmp_smus (h m : Nat) (x : SampleX) : (s.setSmp h m x).smus = s.smus := rfl
@[simp] theorem State.setSmp_grps (h m : Nat) (x : SampleX) : (s.setSmp h m x).grps = s.grps := rfl
@[simp] theorem State.setSmp_tdcs (h m : Nat) (x : SampleX) : (s.setSmp h m x).tdcs = s.tdcs := rfl
@[simp] theorem State.setSmp_samples (h m : Nat) (x : SampleX) : (s.setSmp h m x).samples = tabSet (fun _ => ({} : SampleX)) s.samples (64 * h + m) x := rfl
@[simp] theorem State.setSmp_regrs (h m : Nat) (x : SampleX) : (s.setSmp h m x).regrs = s.regrs := rfl
@[simp] theorem State.setSmp_hses (h m : Nat) (x : SampleX) : (s.setSmp h m x).hses = s.hses := rfl
@[simp] theorem State.setSmp_noref (h m : Nat) (x : SampleX) : (s.setSmp h m x).noref = s.noref := rfl
@[simp] theorem State.setSmp_bspi (h m : Nat) (x : SampleX) : (s.setSmp h m x).bspi = s.bspi := rfl
@[simp] theorem State.setSmp_digs (h m : Nat) (x : SampleX) : (s.setSmp h m x).digs = s.digs := rfl
@[simp] theorem State.setSmp_acqEdge (h m : Nat) (x : SampleX) : (s.setSmp h m x).acqEdge = s.acqEdge := rfl
@[simp] theorem State.setSmp_rs (h m : Nat) (x : SampleX) : (s.setSmp h m x).rs = s.rs := rfl
@[simp] theorem State.setSmp_evOld (h m : Nat) (x : SampleX) : (s.setSmp h m x).evOld = s.evOld := rfl
@[simp] theorem State.setSmp_evLast (h m : Nat) (x : SampleX) : (s.setSmp h m x).evLast = s.evLast := rfl
@[simp] theorem State.setSmp_evPulse (h m : Nat) (x : SampleX) : (s.setSmp h m x).evPulse = s.evPulse := rfl
@[simp] theorem State.setSmp_tms (h m : Nat) (x : SampleX) : (s.setSmp h m x).tms = s.tms := rfl
@[simp] theorem State.setSmp_norefEnd (h m : Nat) (x : SampleX) : (s.setSmp h m x).norefEnd = s.norefEnd := rfl
@[simp] theorem State.setSmp_peers (h m : Nat) (x : SampleX) : (s.setSmp h m x).peers = s.peers := rfl
@[simp] theorem State.setSmp_gal (h m : Nat) (x : SampleX) : (s.setSmp h m x).gal = s.gal := rfl
@[simp] theorem State.setSmp_tts (h m : Nat) (x : SampleX) : (s.setSmp h m x).tts = s.tts := rfl
@[simp] theorem State.setSmp_admits (h m : Nat) (x : SampleX) : (s.setSmp h m x).admits = s.admits := rfl
@[simp] theorem State.setSmp_sdPend (h m : Nat) (x : SampleX) : (s.setSmp h m x).sdPend = s.sdPend := rfl
@[simp] theorem State.setSmp_therm (h m : Nat) (x : SampleX) : (s.setSmp h m x).therm = s.therm := rfl
@[simp] theorem State.setSmp_cal (h m : Nat) (x : SampleX) : (s.setSmp h m x).cal = s.cal := rfl
@[simp] theorem State.setSmp_scr (h m : Nat) (x : SampleX) : (s.setSmp h m x).scr = s.scr := rfl
@[simp] theorem State.setSmp_ports (h m : Nat) (x : SampleX) : (s.setSmp h m x).ports = s.ports := rfl
@[simp] theorem State.setSmp_rbytes (h m : Nat) (x : SampleX) : (s.setSmp h m x).rbytes = s.rbytes := rfl
@[simp] theorem State.setSmp_rpl (h m : Nat) (x : SampleX) : (s.setSmp h m x).rpl = s.rpl := rfl
@[simp] theorem State.setSmp_boot (h m : Nat) (x : SampleX) : (s.setSmp h m x).boot = s.boot := rfl
@[simp] theorem State.setSmp_mspi (h m : Nat) (x : SampleX) : (s.setSmp h m x).mspi = s.mspi := rfl
@[simp] theorem State.setSmp_pending (h m : Nat) (x : SampleX) : (s.setSmp h m x).pending = s.pending := rfl
@[simp] theorem State.setSmp_rd (h m : Nat) (x : SampleX) (i1 : Nat) : (s.setSmp h m x).rd i1 = s.rd i1 := rfl
@[simp] theorem State.setSmp_g (h m : Nat) (x : SampleX) (i1 : FRef) : (s.setSmp h m x).g i1 = s.g i1 := rfl
@[simp] theorem State.setSmp_rdByte (h m : Nat) (x : SampleX) (p1 i1 : Nat) : (s.setSmp h m x).rdByte p1 i1 = s.rdByte p1 i1 := rfl

/-! ### `State.setReg` -/
@[simp] theorem State.setReg_part (h : Nat) (x : RegX) : (s.setReg h x).part = s.part := rfl
@[simp] theorem State.setReg_regs (h : Nat) (x : RegX) : (s.setReg h x).regs = s.regs := rfl
@[simp] theorem State.setReg_mem (h : Nat) (x : RegX) : (s.setReg h x).mem = s.mem := rfl
@[simp] theorem State.setReg_latch (h : Nat) (x : RegX) : (s.setReg h x).latch = s.latch := rfl
@[simp] theorem State.setReg_rdata (h : Nat) (x : RegX) : (s.setReg h x).rdata = s.rdata := rfl
@[simp] theorem State.setReg_cyc (h : Nat) (x : RegX) : (s.setReg h x).cyc = s.cyc := rfl
@[simp] theorem State.setReg_fresh (h : Nat) (x : RegX) : (s.setReg h x).fresh = s.fresh := rfl
@[simp] theorem State.setReg_freshN (h : Nat) (x : RegX) : (s.setReg h x).freshN = s.freshN := rfl
@[simp] theorem State.setReg_free (h : Nat) (x : RegX) : (s.setReg h x).free = s.free := rfl
@[simp] theorem State.setReg_dids (h : Nat) (x : RegX) : (s.setReg h x).dids = s.dids := rfl
@[simp] theorem State.setReg_out (h : Nat) (x : RegX) : (s.setReg h x).out = s.out := rfl
@[simp] theorem State.setReg_tb0 (h : Nat) (x : RegX) : (s.setReg h x).tb0 = s.tb0 := rfl
@[simp] theorem State.setReg_tb1 (h : Nat) (x : RegX) : (s.setReg h x).tb1 = s.tb1 := rfl
@[simp] theorem State.setReg_tb2 (h : Nat) (x : RegX) : (s.setReg h x).tb2 = s.tb2 := rfl
@[simp] theorem State.setReg_tb0rem (h : Nat) (x : RegX) : (s.setReg h x).tb0rem = s.tb0rem := rfl
@[simp] theorem State.setReg_queues (h : Nat) (x : RegX) : (s.setReg h x).queues = s.queues := rfl
@[simp] theorem State.setReg_orphans (h : Nat) (x : RegX) : (s.setReg h x).orphans = s.orphans := rfl
@[simp] theorem State.setReg_lastQ (h : Nat) (x : RegX) : (s.setReg h x).lastQ = s.lastQ := rfl
@[simp] theorem State.setReg_rings (h : Nat) (x : RegX) : (s.setReg h x).rings = s.rings := rfl
@[simp] theorem State.setReg_vecs (h : Nat) (x : RegX) : (s.setReg h x).vecs = s.vecs := rfl
@[simp] theorem State.setReg_jnl (h : Nat) (x : RegX) : (s.setReg h x).jnl = s.jnl := rfl
@[simp] theorem State.setReg_flt (h : Nat) (x : RegX) : (s.setReg h x).flt = s.flt := rfl
@[simp] theorem State.setReg_evIn (h : Nat) (x : RegX) : (s.setReg h x).evIn = s.evIn := rfl
@[simp] theorem State.setReg_axis (h : Nat) (x : RegX) : (s.setReg h x).axis = s.axis := rfl
@[simp] theorem State.setReg_axzPend (h : Nat) (x : RegX) : (s.setReg h x).axzPend = s.axzPend := rfl
@[simp] theorem State.setReg_flights (h : Nat) (x : RegX) : (s.setReg h x).flights = s.flights := rfl
@[simp] theorem State.setReg_alcs (h : Nat) (x : RegX) : (s.setReg h x).alcs = s.alcs := rfl
@[simp] theorem State.setReg_halls (h : Nat) (x : RegX) : (s.setReg h x).halls = s.halls := rfl
@[simp] theorem State.setReg_stopRuns (h : Nat) (x : RegX) : (s.setReg h x).stopRuns = s.stopRuns := rfl
@[simp] theorem State.setReg_startRuns (h : Nat) (x : RegX) : (s.setReg h x).startRuns = s.startRuns := rfl
@[simp] theorem State.setReg_gtl (h : Nat) (x : RegX) : (s.setReg h x).gtl = s.gtl := rfl
@[simp] theorem State.setReg_chans (h : Nat) (x : RegX) : (s.setReg h x).chans = s.chans := rfl
@[simp] theorem State.setReg_peHalls (h : Nat) (x : RegX) : (s.setReg h x).peHalls = s.peHalls := rfl
@[simp] theorem State.setReg_levels (h : Nat) (x : RegX) : (s.setReg h x).levels = s.levels := rfl
@[simp] theorem State.setReg_smus (h : Nat) (x : RegX) : (s.setReg h x).smus = s.smus := rfl
@[simp] theorem State.setReg_grps (h : Nat) (x : RegX) : (s.setReg h x).grps = s.grps := rfl
@[simp] theorem State.setReg_tdcs (h : Nat) (x : RegX) : (s.setReg h x).tdcs = s.tdcs := rfl
@[simp] theorem State.setReg_samples (h : Nat) (x : RegX) : (s.setReg h x).samples = s.samples := rfl
@[simp] theorem State.setReg_regrs (h : Nat) (x : RegX) : (s.setReg h x).regrs = tabSet (fun _ => ({} : RegX)) s.regrs h x := rfl
@[simp] theorem State.setReg_hses (h : Nat) (x : RegX) : (s.setReg h x).hses = s.hses := rfl
@[simp] theorem State.setReg_noref (h : Nat) (x : RegX) : (s.setReg h x).noref = s.noref := rfl
@[simp] theorem State.setReg_bspi (h : Nat) (x : RegX) : (s.setReg h x).bspi = s.bspi := rfl
@[simp] theorem State.setReg_digs (h : Nat) (x : RegX) : (s.setReg h x).digs = s.digs := rfl
@[simp] theorem State.setReg_acqEdge (h : Nat) (x : RegX) : (s.setReg h x).acqEdge = s.acqEdge := rfl
@[simp] theorem State.setReg_rs (h : Nat) (x : RegX) : (s.setReg h x).rs = s.rs := rfl
@[simp] theorem State.setReg_evOld (h : Nat) (x : RegX) : (s.setReg h x).evOld = s.evOld := rfl
@[simp] theorem State.setReg_evLast (h : Nat) (x : RegX) : (s.setReg h x).evLast = s.evLast := rfl
@[simp] theorem State.setReg_evPulse (h : Nat) (x : RegX) : (s.setReg h x).evPulse = s.evPulse := rfl
@[simp] theorem State.setReg_tms (h : Nat) (x : RegX) : (s.setReg h x).tms = s.tms := rfl
@[simp] theorem State.setReg_norefEnd (h : Nat) (x : RegX) : (s.setReg h x).norefEnd = s.norefEnd := rfl
@[simp] theorem State.setReg_peers (h : Nat) (x : RegX) : (s.setReg h x).peers = s.peers := rfl
@[simp] theorem State.setReg_gal (h : Nat) (x : RegX) : (s.setReg h x).gal = s.gal := rfl
@[simp] theorem State.setReg_tts (h : Nat) (x : RegX) : (s.setReg h x).tts = s.tts := rfl
@[simp] theorem State.setReg_admits (h : Nat) (x : RegX) : (s.setReg h x).admits = s.admits := rfl
@[simp] theorem State.setReg_sdPend (h : Nat) (x : RegX) : (s.setReg h x).sdPend = s.sdPend := rfl
@[simp] theorem State.setReg_therm (h : Nat) (x : RegX) : (s.setReg h x).therm = s.therm := rfl
@[simp] theorem State.setReg_cal (h : Nat) (x : RegX) : (s.setReg h x).cal = s.cal := rfl
@[simp] theorem State.setReg_scr (h : Nat) (x : RegX) : (s.setReg h x).scr = s.scr := rfl
@[simp] theorem State.setReg_ports (h : Nat) (x : RegX) : (s.setReg h x).ports = s.ports := rfl
@[simp] theorem State.setReg_rbytes (h : Nat) (x : RegX) : (s.setReg h x).rbytes = s.rbytes := rfl
@[simp] theorem State.setReg_rpl (h : Nat) (x : RegX) : (s.setReg h x).rpl = s.rpl := rfl
@[simp] theorem State.setReg_boot (h : Nat) (x : RegX) : (s.setReg h x).boot = s.boot := rfl
@[simp] theorem State.setReg_mspi (h : Nat) (x : RegX) : (s.setReg h x).mspi = s.mspi := rfl
@[simp] theorem State.setReg_pending (h : Nat) (x : RegX) : (s.setReg h x).pending = s.pending := rfl
@[simp] theorem State.setReg_rd (h : Nat) (x : RegX) (i1 : Nat) : (s.setReg h x).rd i1 = s.rd i1 := rfl
@[simp] theorem State.setReg_g (h : Nat) (x : RegX) (i1 : FRef) : (s.setReg h x).g i1 = s.g i1 := rfl
@[simp] theorem State.setReg_rdByte (h : Nat) (x : RegX) (p1 i1 : Nat) : (s.setReg h x).rdByte p1 i1 = s.rdByte p1 i1 := rfl

/-! ### `State.setHse` -/
@[simp] theorem State.setHse_part (h : Nat) (x : HseX) : (s.setHse h x).part = s.part := rfl
@[simp] theorem State.setHse_regs (h : Nat) (x : HseX) : (s.setHse h x).regs = s.regs := rfl
@[simp] theorem State.setHse_mem (h : Nat) (x : HseX) : (s.setHse h x).mem = s.mem := rfl
@[simp] theorem State.setHse_latch (h : Nat) (x : HseX) : (s.setHse h x).latch = s.latch := rfl
@[simp] theorem State.setHse_rdata (h : Nat) (x : HseX) : (s.setHse h x).rdata = s.rdata := rfl
@[simp] theorem State.setHse_cyc (h : Nat) (x : HseX) : (s.setHse h x).cyc = s.cyc := rfl
@[simp] theorem State.setHse_fresh (h : Nat) (x : HseX) : (s.setHse h x).fresh = s.fresh := rfl
@[simp] theorem State.setHse_freshN (h : Nat) (x : HseX) : (s.setHse h x).freshN = s.freshN := rfl
@[simp] theorem State.setHse_free (h : Nat) (x : HseX) : (s.setHse h x).free = s.free := rfl
@[simp] theorem State.setHse_dids (h : Nat) (x : HseX) : (s.setHse h x).dids = s.dids := rfl
@[simp] theorem State.setHse_out (h : Nat) (x : HseX) : (s.setHse h x).out = s.out := rfl
@[simp] theorem State.setHse_tb0 (h : Nat) (x : HseX) : (s.setHse h x).tb0 = s.tb0 := rfl
@[simp] theorem State.setHse_tb1 (h : Nat) (x : HseX) : (s.setHse h x).tb1 = s.tb1 := rfl
@[simp] theorem State.setHse_tb2 (h : Nat) (x : HseX) : (s.setHse h x).tb2 = s.tb2 := rfl
@[simp] theorem State.setHse_tb0rem (h : Nat) (x : HseX) : (s.setHse h x).tb0rem = s.tb0rem := rfl
@[simp] theorem State.setHse_queues (h : Nat) (x : HseX) : (s.setHse h x).queues = s.queues := rfl
@[simp] theorem State.setHse_orphans (h : Nat) (x : HseX) : (s.setHse h x).orphans = s.orphans := rfl
@[simp] theorem State.setHse_lastQ (h : Nat) (x : HseX) : (s.setHse h x).lastQ = s.lastQ := rfl
@[simp] theorem State.setHse_rings (h : Nat) (x : HseX) : (s.setHse h x).rings = s.rings := rfl
@[simp] theorem State.setHse_vecs (h : Nat) (x : HseX) : (s.setHse h x).vecs = s.vecs := rfl
@[simp] theorem State.setHse_jnl (h : Nat) (x : HseX) : (s.setHse h x).jnl = s.jnl := rfl
@[simp] theorem State.setHse_flt (h : Nat) (x : HseX) : (s.setHse h x).flt = s.flt := rfl
@[simp] theorem State.setHse_evIn (h : Nat) (x : HseX) : (s.setHse h x).evIn = s.evIn := rfl
@[simp] theorem State.setHse_axis (h : Nat) (x : HseX) : (s.setHse h x).axis = s.axis := rfl
@[simp] theorem State.setHse_axzPend (h : Nat) (x : HseX) : (s.setHse h x).axzPend = s.axzPend := rfl
@[simp] theorem State.setHse_flights (h : Nat) (x : HseX) : (s.setHse h x).flights = s.flights := rfl
@[simp] theorem State.setHse_alcs (h : Nat) (x : HseX) : (s.setHse h x).alcs = s.alcs := rfl
@[simp] theorem State.setHse_halls (h : Nat) (x : HseX) : (s.setHse h x).halls = s.halls := rfl
@[simp] theorem State.setHse_stopRuns (h : Nat) (x : HseX) : (s.setHse h x).stopRuns = s.stopRuns := rfl
@[simp] theorem State.setHse_startRuns (h : Nat) (x : HseX) : (s.setHse h x).startRuns = s.startRuns := rfl
@[simp] theorem State.setHse_gtl (h : Nat) (x : HseX) : (s.setHse h x).gtl = s.gtl := rfl
@[simp] theorem State.setHse_chans (h : Nat) (x : HseX) : (s.setHse h x).chans = s.chans := rfl
@[simp] theorem State.setHse_peHalls (h : Nat) (x : HseX) : (s.setHse h x).peHalls = s.peHalls := rfl
@[simp] theorem State.setHse_levels (h : Nat) (x : HseX) : (s.setHse h x).levels = s.levels := rfl
@[simp] theorem State.setHse_smus (h : Nat) (x : HseX) : (s.setHse h x).smus = s.smus := rfl
@[simp] theorem State.setHse_grps (h : Nat) (x : HseX) : (s.setHse h x).grps = s.grps := rfl
@[simp] theorem State.setHse_tdcs (h : Nat) (x : HseX) : (s.setHse h x).tdcs = s.tdcs := rfl
@[simp] theorem State.setHse_samples (h : Nat) (x : HseX) : (s.setHse h x).samples = s.samples := rfl
@[simp] theorem State.setHse_regrs (h : Nat) (x : HseX) : (s.setHse h x).regrs = s.regrs := rfl
@[simp] theorem State.setHse_hses (h : Nat) (x : HseX) : (s.setHse h x).hses = tabSet (fun _ => ({} : HseX)) s.hses h x := rfl
@[simp] theorem State.setHse_noref (h : Nat) (x : HseX) : (s.setHse h x).noref = s.noref := rfl
@[simp] theorem State.setHse_bspi (h : Nat) (x : HseX) : (s.setHse h x).bspi = s.bspi := rfl
@[simp] theorem State.setHse_digs (h : Nat) (x : HseX) : (s.setHse h x).digs = s.digs := rfl
@[simp] theorem State.setHse_acqEdge (h : Nat) (x : HseX) : (s.setHse h x).acqEdge = s.acqEdge := rfl
@[simp] theorem State.setHse_rs (h : Nat) (x : HseX) : (s.setHse h x).rs = s.rs := rfl
@[simp] theorem State.setHse_evOld (h : Nat) (x : HseX) : (s.setHse h x).evOld = s.evOld := rfl
@[simp] theorem State.setHse_evLast (h : Nat) (x : HseX) : (s.setHse h x).evLast = s.evLast := rfl
@[simp] theorem State.setHse_evPulse (h : Nat) (x : HseX) : (s.setHse h x).evPulse = s.evPulse := rfl
@[simp] theorem State.setHse_tms (h : Nat) (x : HseX) : (s.setHse h x).tms = s.tms := rfl
@[simp] theorem State.setHse_norefEnd (h : Nat) (x : HseX) : (s.setHse h x).norefEnd = s.norefEnd := rfl
@[simp] theorem State.setHse_peers (h : Nat) (x : HseX) : (s.setHse h x).peers = s.peers := rfl
@[simp] theorem State.setHse_gal (h : Nat) (x : HseX) : (s.setHse h x).gal = s.gal := rfl
@[simp] theorem State.setHse_tts (h : Nat) (x : HseX) : (s.setHse h x).tts = s.tts := rfl
@[simp] theorem State.setHse_admits (h : Nat) (x : HseX) : (s.setHse h x).admits = s.admits := rfl
@[simp] theorem State.setHse_sdPend (h : Nat) (x : HseX) : (s.setHse h x).sdPend = s.sdPend := rfl
@[simp] theorem State.setHse_therm (h : Nat) (x : HseX) : (s.setHse h x).therm = s.therm := rfl
@[simp] theorem State.setHse_cal (h : Nat) (x : HseX) : (s.setHse h x).cal = s.cal := rfl
@[simp] theorem State.setHse_scr (h : Nat) (x : HseX) : (s.setHse h x).scr = s.scr := rfl
@[simp] theorem State.setHse_ports (h : Nat) (x : HseX) : (s.setHse h x).ports = s.ports := rfl
@[simp] theorem State.setHse_rbytes (h : Nat) (x : HseX) : (s.setHse h x).rbytes = s.rbytes := rfl
@[simp] theorem State.setHse_rpl (h : Nat) (x : HseX) : (s.setHse h x).rpl = s.rpl := rfl
@[simp] theorem State.setHse_boot (h : Nat) (x : HseX) : (s.setHse h x).boot = s.boot := rfl
@[simp] theorem State.setHse_mspi (h : Nat) (x : HseX) : (s.setHse h x).mspi = s.mspi := rfl
@[simp] theorem State.setHse_pending (h : Nat) (x : HseX) : (s.setHse h x).pending = s.pending := rfl
@[simp] theorem State.setHse_rd (h : Nat) (x : HseX) (i1 : Nat) : (s.setHse h x).rd i1 = s.rd i1 := rfl
@[simp] theorem State.setHse_g (h : Nat) (x : HseX) (i1 : FRef) : (s.setHse h x).g i1 = s.g i1 := rfl
@[simp] theorem State.setHse_rdByte (h : Nat) (x : HseX) (p1 i1 : Nat) : (s.setHse h x).rdByte p1 i1 = s.rdByte p1 i1 := rfl

/-! ### `State.setDig` -/
@[simp] theorem State.setDig_part (d : Nat) (x : DigX) : (s.setDig d x).part = s.part := rfl
@[simp] theorem State.setDig_regs (d : Nat) (x : DigX) : (s.setDig d x).regs = s.regs := rfl
@[simp] theorem State.setDig_mem (d : Nat) (x : DigX) : (s.setDig d x).mem = s.mem := rfl
@[simp] theorem State.setDig_latch (d : Nat) (x : DigX) : (s.setDig d x).latch = s.latch := rfl
@[simp] theorem State.setDig_rdata (d : Nat) (x : DigX) : (s.setDig d x).rdata = s.rdata := rfl
@[simp] theorem State.setDig_cyc (d : Nat) (x : DigX) : (s.setDig d x).cyc = s.cyc := rfl
@[simp] theorem State.setDig_fresh (d : Nat) (x : DigX) : (s.setDig d x).fresh = s.fresh := rfl
@[simp] theorem State.setDig_freshN (d : Nat) (x : DigX) : (s.setDig d x).freshN = s.freshN := rfl
@[simp] theorem State.setDig_free (d : Nat) (x : DigX) : (s.setDig d x).free = s.free := rfl
@[simp] theorem State.setDig_dids (d : Nat) (x : DigX) : (s.setDig d x).dids = s.dids := rfl
@[simp] theorem State.setDig_out (d : Nat) (x : DigX) : (s.setDig d x).out = s.out := rfl
@[simp] theorem State.setDig_tb0 (d : Nat) (x : DigX) : (s.setDig d x).tb0 = s.tb0 := rfl
@[simp] theorem State.setDig_tb1 (d : Nat) (x : DigX) : (s.setDig d x).tb1 = s.tb1 := rfl
@[simp] theorem State.setDig_tb2 (d : Nat) (x : DigX) : (s.setDig d x).tb2 = s.tb2 := rfl
@[simp] theorem State.setDig_tb0rem (d : Nat) (x : DigX) : (s.setDig d x).tb0rem = s.tb0rem := rfl
@[simp] theorem State.setDig_queues (d : Nat) (x : DigX) : (s.setDig d x).queues = s.queues := rfl
@[simp] theorem State.setDig_orphans (d : Nat) (x : DigX) : (s.setDig d x).orphans = s.orphans := rfl
@[simp] theorem State.setDig_lastQ (d : Nat) (x : DigX) : (s.setDig d x).lastQ = s.lastQ := rfl
@[simp] theorem State.setDig_rings (d : Nat) (x : DigX) : (s.setDig d x).rings = s.rings := rfl
@[simp] theorem State.setDig_vecs (d : Nat) (x : DigX) : (s.setDig d x).vecs = s.vecs := rfl
@[simp] theorem State.setDig_jnl (d : Nat) (x : DigX) : (s.setDig d x).jnl = s.jnl := rfl
@[simp] theorem State.setDig_flt (d : Nat) (x : DigX) : (s.setDig d x).flt = s.flt := rfl
@[simp] theorem State.setDig_evIn (d : Nat) (x : DigX) : (s.setDig d x).evIn = s.evIn := rfl
@[simp] theorem State.setDig_axis (d : Nat) (x : DigX) : (s.setDig d x).axis = s.axis := rfl
@[simp] theorem State.setDig_axzPend (d : Nat) (x : DigX) : (s.setDig d x).axzPend = s.axzPend := rfl
@[simp] theorem State.setDig_flights (d : Nat) (x : DigX) : (s.setDig d x).flights = s.flights := rfl
@[simp] theorem State.setDig_alcs (d : Nat) (x : DigX) : (s.setDig d x).alcs = s.alcs := rfl
@[simp] theorem State.setDig_halls (d : Nat) (x : DigX) : (s.setDig d x).halls = s.halls := rfl
@[simp] theorem State.setDig_stopRuns (d : Nat) (x : DigX) : (s.setDig d x).stopRuns = s.stopRuns := rfl
@[simp] theorem State.setDig_startRuns (d : Nat) (x : DigX) : (s.setDig d x).startRuns = s.startRuns := rfl
@[simp] theorem State.setDig_gtl (d : Nat) (x : DigX) : (s.setDig d x).gtl = s.gtl := rfl
@[simp] theorem State.setDig_chans (d : Nat) (x : DigX) : (s.setDig d x).chans = s.chans := rfl
@[simp] theorem State.setDig_peHalls (d : Nat) (x : DigX) : (s.setDig d x).peHalls = s.peHalls := rfl
@[simp] theorem State.setDig_levels (d : Nat) (x : DigX) : (s.setDig d x).levels = s.levels := rfl
@[simp] theorem State.setDig_smus (d : Nat) (x : DigX) : (s.setDig d x).smus = s.smus := rfl
@[simp] theorem State.setDig_grps (d : Nat) (x : DigX) : (s.setDig d x).grps = s.grps := rfl
@[simp] theorem State.setDig_tdcs (d : Nat) (x : DigX) : (s.setDig d x).tdcs = s.tdcs := rfl
@[simp] theorem State.setDig_samples (d : Nat) (x : DigX) : (s.setDig d x).samples = s.samples := rfl
@[simp] theorem State.setDig_regrs (d : Nat) (x : DigX) : (s.setDig d x).regrs = s.regrs := rfl
@[simp] theorem State.setDig_hses (d : Nat) (x : DigX) : (s.setDig d x).hses = s.hses := rfl
@[simp] theorem State.setDig_noref (d : Nat) (x : DigX) : (s.setDig d x).noref = s.noref := rfl
@[simp] theorem State.setDig_bspi (d : Nat) (x : DigX) : (s.setDig d x).bspi = s.bspi := rfl
@[simp] theorem State.setDig_digs (d : Nat) (x : DigX) : (s.setDig d x).digs = tabSet (fun _ => ({} : DigX)) s.digs d x := rfl
@[simp] theorem State.setDig_acqEdge (d : Nat) (x : DigX) : (s.setDig d x).acqEdge = s.acqEdge := rfl
@[simp] theorem State.setDig_rs (d : Nat) (x : DigX) : (s.setDig d x).rs = s.rs := rfl
@[simp] theorem State.setDig_evOld (d : Nat) (x : DigX) : (s.setDig d x).evOld = s.evOld := rfl
@[simp] theorem State.setDig_evLast (d : Nat) (x : DigX) : (s.setDig d x).evLast = s.evLast := rfl
@[simp] theorem State.setDig_evPulse (d : Nat) (x : DigX) : (s.setDig d x).evPulse = s.evPulse := rfl
@[simp] theorem State.setDig_tms (d : Nat) (x : DigX) : (s.setDig d x).tms = s.tms := rfl
@[simp] theorem State.setDig_norefEnd (d : Nat) (x : DigX) : (s.setDig d x).norefEnd = s.norefEnd := rfl
@[simp] theorem State.setDig_peers (d : Nat) (x : DigX) : (s.setDig d x).peers = s.peers := rfl
@[simp] theorem State.setDig_gal (d : Nat) (x : DigX) : (s.setDig d x).gal = s.gal := rfl
@[simp] theorem State.setDig_tts (d : Nat) (x : DigX) : (s.setDig d x).tts = s.tts := rfl
@[simp] theorem State.setDig_admits (d : Nat) (x : DigX) : (s.setDig d x).admits = s.admits := rfl
@[simp] theorem State.setDig_sdPend (d : Nat) (x : DigX) : (s.setDig d x).sdPend = s.sdPend := rfl
@[simp] theorem State.setDig_therm (d : Nat) (x : DigX) : (s.setDig d x).therm = s.therm := rfl
@[simp] theorem State.setDig_cal (d : Nat) (x : DigX) : (s.setDig d x).cal = s.cal := rfl
@[simp] theorem State.setDig_scr (d : Nat) (x : DigX) : (s.setDig d x).scr = s.scr := rfl
@[simp] theorem State.setDig_ports (d : Nat) (x : DigX) : (s.setDig d x).ports = s.ports := rfl
@[simp] theorem State.setDig_rbytes (d : Nat) (x : DigX) : (s.setDig d x).rbytes = s.rbytes := rfl
@[simp] theorem State.setDig_rpl (d : Nat) (x : DigX) : (s.setDig d x).rpl = s.rpl := rfl
@[simp] theorem State.setDig_boot (d : Nat) (x : DigX) : (s.setDig d x).boot = s.boot := rfl
@[simp] theorem State.setDig_mspi (d : Nat) (x : DigX) : (s.setDig d x).mspi = s.mspi := rfl
@[simp] theorem State.setDig_pending (d : Nat) (x : DigX) : (s.setDig d x).pending = s.pending := rfl
@[simp] theorem State.setDig_rd (d : Nat) (x : DigX) (i1 : Nat) : (s.setDig d x).rd i1 = s.rd i1 := rfl
@[simp] theorem State.setDig_g (d : Nat) (x : DigX) (i1 : FRef) : (s.setDig d x).g i1 = s.g i1 := rfl
@[simp] theorem State.setDig_rdByte (d : Nat) (x : DigX) (p1 i1 : Nat) : (s.setDig d x).rdByte p1 i1 = s.rdByte p1 i1 := rfl

/-! ### `State.setRs` -/
@[simp] theorem State.setRs_part (x : RsX) : (s.setRs x).part = s.part := rfl
@[simp] theorem State.setRs_regs (x : RsX) : (s.setRs x).regs = s.regs := rfl
@[simp] theorem State.setRs_mem (x : RsX) : (s.setRs x).mem = s.mem := rfl
@[simp] theorem State.setRs_latch (x : RsX) : (s.setRs x).latch = s.latch := rfl
@[simp] theorem State.setRs_rdata (x : RsX) : (s.setRs x).rdata = s.rdata := rfl
@[simp] theorem State.setRs_cyc (x : RsX) : (s.setRs x).cyc = s.cyc := rfl
@[simp] theorem State.setRs_fresh (x : RsX) : (s.setRs x).fresh = s.fresh := rfl
@[simp] theorem State.setRs_freshN (x : RsX) : (s.setRs x).freshN = s.freshN := rfl
@[simp] theorem State.setRs_free (x : RsX) : (s.setRs x).free = s.free := rfl
@[simp] theorem State.setRs_dids (x : RsX) : (s.setRs x).dids = s.dids := rfl
@[simp] theorem State.setRs_out (x : RsX) : (s.setRs x).out = s.out := rfl
@[simp] theorem State.setRs_tb0 (x : RsX) : (s.setRs x).tb0 = s.tb0 := rfl
@[simp] theorem State.setRs_tb1 (x : RsX) : (s.setRs x).tb1 = s.tb1 := rfl
@[simp] theorem State.setRs_tb2 (x : RsX) : (s.setRs x).tb2 = s.tb2 := rfl
@[simp] theorem State.setRs_tb0rem (x : RsX) : (s.setRs x).tb0rem = s.tb0rem := rfl
@[simp] theorem State.setRs_queues (x : RsX) : (s.setRs x).queues = s.queues := rfl
@[simp] theorem State.setRs_orphans (x : RsX) : (s.setRs x).orphans = s.orphans := rfl
@[simp] theorem State.setRs_lastQ (x : RsX) : (s.setRs x).lastQ = s.lastQ := rfl
@[simp] theorem State.setRs_rings (x : RsX) : (s.setRs x).rings = s.rings := rfl
@[simp] theorem State.setRs_vecs (x : RsX) : (s.setRs x).vecs = s.vecs := rfl
@[simp] theorem State.setRs_jnl (x : RsX) : (s.setRs x).jnl = s.jnl := rfl
@[simp] theorem State.setRs_flt (x : RsX) : (s.setRs x).flt = s.flt := rfl
@[simp] theorem State.setRs_evIn (x : RsX) : (s.setRs x).evIn = s.evIn := rfl
@[simp] theorem State.setRs_axis (x : RsX) : (s.setRs x).axis = s.axis := rfl
@[simp] theorem State.setRs_axzPend (x : RsX) : (s.setRs x).axzPend = s.axzPend := rfl
@[simp] theorem State.setRs_flights (x : RsX) : (s.setRs x).flights = s.flights := rfl
@[simp] theorem State.setRs_alcs (x : RsX) : (s.setRs x).alcs = s.alcs := rfl
@[simp] theorem State.setRs_halls (x : RsX) : (s.setRs x).halls = s.halls := rfl
@[simp] theorem State.setRs_stopRuns (x : RsX) : (s.setRs x).stopRuns = s.stopRuns := rfl
@[simp] theorem State.setRs_startRuns (x : RsX) : (s.setRs x).startRuns = s.startRuns := rfl
@[simp] theorem State.setRs_gtl (x : RsX) : (s.setRs x).gtl = s.gtl := rfl
@[simp] theorem State.setRs_chans (x : RsX) : (s.setRs x).chans = s.chans := rfl
@[simp] theorem State.setRs_peHalls (x : RsX) : (s.setRs x).peHalls = s.peHalls := rfl
@[simp] theorem State.setRs_levels (x : RsX) : (s.setRs x).levels = s.levels := rfl
@[simp] theorem State.setRs_smus (x : RsX) : (s.setRs x).smus = s.smus := rfl
@[simp] theorem State.setRs_grps (x : RsX) : (s.setRs x).grps = s.grps := rfl
@[simp] theorem State.setRs_tdcs (x : RsX) : (s.setRs x).tdcs = s.tdcs := rfl
@[simp] theorem State.setRs_samples (x : RsX) : (s.setRs x).samples = s.samples := rfl
@[simp] theorem State.setRs_regrs (x : RsX) : (s.setRs x).regrs = s.regrs := rfl
@[simp] theorem State.setRs_hses (x : RsX) : (s.setRs x).hses = s.hses := rfl
@[simp] theorem State.setRs_noref (x : RsX) : (s.setRs x).noref = s.noref := rfl
@[simp] theorem State.setRs_bspi (x : RsX) : (s.setRs x).bspi = s.bspi := rfl
@[simp] theorem State.setRs_digs (x : RsX) : (s.setRs x).digs = s.digs := rfl
@[simp] theorem State.setRs_acqEdge (x : RsX) : (s.setRs x).acqEdge = s.acqEdge := rfl
@[simp] theorem State.setRs_rs (x : RsX) : (s.setRs x).rs = x := rfl
@[simp] theorem State.setRs_evOld (x : RsX) : (s.setRs x).evOld = s.evOld := rfl
@[simp] theorem State.setRs_evLast (x : RsX) : (s.setRs x).evLast = s.evLast := rfl
@[simp] theorem State.setRs_evPulse (x : RsX) : (s.setRs x).evPulse = s.evPulse := rfl
@[simp] theorem State.setRs_tms (x : RsX) : (s.setRs x).tms = s.tms := rfl
@[simp] theorem State.setRs_norefEnd (x : RsX) : (s.setRs x).norefEnd = s.norefEnd := rfl
@[simp] theorem State.setRs_peers (x : RsX) : (s.setRs x).peers = s.peers := rfl
@[simp] theorem State.setRs_gal (x : RsX) : (s.setRs x).gal = s.gal := rfl
@[simp] theorem State.setRs_tts (x : RsX) : (s.setRs x).tts = s.tts := rfl
@[simp] theorem State.setRs_admits (x : RsX) : (s.setRs x).admits = s.admits := rfl
@[simp] theorem State.setRs_sdPend (x : RsX) : (s.setRs x).sdPend = s.sdPend := rfl
@[simp] theorem State.setRs_therm (x : RsX) : (s.setRs x).therm = s.therm := rfl
@[simp] theorem State.setRs_cal (x : RsX) : (s.setRs x).cal = s.cal := rfl
@[simp] theorem State.setRs_scr (x : RsX) : (s.setRs x).scr = s.scr := rfl
@[simp] theorem State.setRs_ports (x : RsX) : (s.setRs x).ports = s.ports := rfl
@[simp] theorem State.setRs_rbytes (x : RsX) : (s.setRs x).rbytes = s.rbytes := rfl
@[simp] theorem State.setRs_rpl (x : RsX) : (s.setRs x).rpl = s.rpl := rfl
@[simp] theorem State.setRs_boot (x : RsX) : (s.setRs x).boot = s.boot := rfl
@[simp] theorem State.setRs_mspi (x : RsX) : (s.setRs x).mspi = s.mspi := rfl
@[simp] theorem State.setRs_pending (x : RsX) : (s.setRs x).pending = s.pending := rfl
@[simp] theorem State.setRs_rd (x : RsX) (i1 : Nat) : (s.setRs x).rd i1 = s.rd i1 := rfl
@[simp] theorem State.setRs_g (x : RsX) (i1 : FRef) : (s.setRs x).g i1 = s.g i1 := rfl
@[simp] theorem State.setRs_rdByte (x : RsX) (p1 i1 : Nat) : (s.setRs x).rdByte p1 i1 = s.rdByte p1 i1 := rfl

/-! ### `State.modGal` -/
@[simp] theorem State.modGal_part (f : GalX → GalX) : (s.modGal f).part = s.part := rfl
@[simp] theorem State.modGal_regs (f : GalX → GalX) : (s.modGal f).regs = s.regs := rfl
@[simp] theorem State.modGal_mem (f : GalX → GalX) : (s.modGal f).mem = s.mem := rfl
@[simp] theorem State.modGal_latch (f : GalX → GalX) : (s.modGal f).latch = s.latch := rfl
@[simp] theorem State.modGal_rdata (f : GalX → GalX) : (s.modGal f).rdata = s.rdata := rfl
@[simp] theorem State.modGal_cyc (f : GalX → GalX) : (s.modGal f).cyc = s.cyc := rfl
@[simp] theorem State.modGal_fresh (f : GalX → GalX) : (s.modGal f).fresh = s.fresh := rfl
@[simp] theorem State.modGal_freshN (f : GalX → GalX) : (s.modGal f).freshN = s.freshN := rfl
@[simp] theorem State.modGal_free (f : GalX → GalX) : (s.modGal f).free = s.free := rfl
@[simp] theorem State.modGal_dids (f : GalX → GalX) : (s.modGal f).dids = s.dids := rfl
@[simp] theorem State.modGal_out (f : GalX → GalX) : (s.modGal f).out = s.out := rfl
@[simp] theorem State.modGal_tb0 (f : GalX → GalX) : (s.modGal f).tb0 = s.tb0 := rfl
@[simp] theorem State.modGal_tb1 (f : GalX → GalX) : (s.modGal f).tb1 = s.tb1 := rfl
@[simp] theorem State.modGal_tb2 (f : GalX → GalX) : (s.modGal f).tb2 = s.tb2 := rfl
@[simp] theorem State.modGal_tb0rem (f : GalX → GalX) : (s.modGal f).tb0rem = s.tb0rem := rfl
@[simp] theorem State.modGal_queues (f : GalX → GalX) : (s.modGal f).queues = s.queues := rfl
@[simp] theorem State.modGal_orphans (f : GalX → GalX) : (s.modGal f).orphans = s.orphans := rfl
@[simp] theorem State.modGal_lastQ (f : GalX → GalX) : (s.modGal f).lastQ = s.lastQ := rfl
@[simp] theorem State.modGal_rings (f : GalX → GalX) : (s.modGal f).rings = s.rings := rfl
@[simp] theorem State.modGal_vecs (f : GalX → GalX) : (s.modGal f).vecs = s.vecs := rfl
@[simp] theorem State.modGal_jnl (f : GalX → GalX) : (s.modGal f).jnl = s.jnl := rfl
@[simp] theorem State.modGal_flt (f : GalX → GalX) : (s.modGal f).flt = s.flt := rfl
@[simp] theorem State.modGal_evIn (f : GalX → GalX) : (s.modGal f).evIn = s.evIn := rfl
@[simp] theorem State.modGal_axis (f : GalX → GalX) : (s.modGal f).axis = s.axis := rfl
@[simp] theorem State.modGal_axzPend (f : GalX → GalX) : (s.modGal f).axzPend = s.axzPend := rfl
@[simp] theorem State.modGal_flights (f : GalX → GalX) : (s.modGal f).flights = s.flights := rfl
@[simp] theorem State.modGal_alcs (f : GalX → GalX) : (s.modGal f).alcs = s.alcs := rfl
@[simp] theorem State.modGal_halls (f : GalX → GalX) : (s.modGal f).halls = s.halls := rfl
@[simp] theorem State.modGal_stopRuns (f : GalX → GalX) : (s.modGal f).stopRuns = s.stopRuns := rfl
@[simp] theorem State.modGal_startRuns (f : GalX → GalX) : (s.modGal f).startRuns = s.startRuns := rfl
@[simp] theorem State.modGal_gtl (f : GalX → GalX) : (s.modGal f).gtl = s.gtl := rfl
@[simp] theorem State.modGal_chans (f : GalX → GalX) : (s.modGal f).chans = s.chans := rfl
@[simp] theorem State.modGal_peHalls (f : GalX → GalX) : (s.modGal f).peHalls = s.peHalls := rfl
@[simp] theorem State.modGal_levels (f : GalX → GalX) : (s.modGal f).levels = s.levels := rfl
@[simp] theorem State.modGal_smus (f : GalX → GalX) : (s.modGal f).smus = s.smus := rfl
@[simp] theorem State.modGal_grps (f : GalX → GalX) : (s.modGal f).grps = s.grps := rfl
@[simp] theorem State.modGal_tdcs (f : GalX → GalX) : (s.modGal f).tdcs = s.tdcs := rfl
@[simp] theorem State.modGal_samples (f : GalX → GalX) : (s.modGal f).samples = s.samples := rfl
@[simp] theorem State.modGal_regrs (f : GalX → GalX) : (s.modGal f).regrs = s.regrs := rfl
@[simp] theorem State.modGal_hses (f : GalX → GalX) : (s.modGal f).hses = s.hses := rfl
@[simp] theorem State.modGal_noref (f : GalX → GalX) : (s.modGal f).noref = s.noref := rfl
@[simp] theorem State.modGal_bspi (f : GalX → GalX) : (s.modGal f).bspi = s.bspi := rfl
@[simp] theorem State.modGal_digs (f : GalX → GalX) : (s.modGal f).digs = s.digs := rfl
@[simp] theorem State.modGal_acqEdge (f : GalX → GalX) : (s.modGal f).acqEdge = s.acqEdge := rfl
@[simp] theorem State.modGal_rs (f : GalX → GalX) : (s.modGal f).rs = s.rs := rfl
@[simp] theorem State.modGal_evOld (f : GalX → GalX) : (s.modGal f).evOld = s.evOld := rfl
@[simp] theorem State.modGal_evLast (f : GalX → GalX) : (s.modGal f).evLast = s.evLast := rfl
@[simp] theorem State.modGal_evPulse (f : GalX → GalX) : (s.modGal f).evPulse = s.evPulse := rfl
@[simp] theorem State.modGal_tms (f : GalX → GalX) : (s.modGal f).tms = s.tms := rfl
@[simp] theorem State.modGal_norefEnd (f : GalX → GalX) : (s.modGal f).norefEnd = s.norefEnd := rfl
@[simp] theorem State.modGal_peers (f : GalX → GalX) : (s.modGal f).peers = s.peers := rfl
@[simp] theorem State.modGal_gal (f : GalX → GalX) : (s.modGal f).gal = f s.gal := rfl
@[simp] theorem State.modGal_tts (f : GalX → GalX) : (s.modGal f).tts = s.tts := rfl
@[simp] theorem State.modGal_admits (f : GalX → GalX) : (s.modGal f).admits = s.admits := rfl
@[simp] theorem State.modGal_sdPend (f : GalX → GalX) : (s.modGal f).sdPend = s.sdPend := rfl
@[simp] theorem State.modGal_therm (f : GalX → GalX) : (s.modGal f).therm = s.therm := rfl
@[simp] theorem State.modGal_cal (f : GalX → GalX) : (s.modGal f).cal = s.cal := rfl
@[simp] theorem State.modGal_scr (f : GalX → GalX) : (s.modGal f).scr = s.scr := rfl
@[simp] theorem State.modGal_ports (f : GalX → GalX) : (s.modGal f).ports = s.ports := rfl
@[simp] theorem State.modGal_rbytes (f : GalX → GalX) : (s.modGal f).rbytes = s.rbytes := rfl
@[simp] theorem State.modGal_rpl (f : GalX → GalX) : (s.modGal f).rpl = s.rpl := rfl
@[simp] theorem State.modGal_boot (f : GalX → GalX) : (s.modGal f).boot = s.boot := rfl
@[simp] theorem State.modGal_mspi (f : GalX → GalX) : (s.modGal f).mspi = s.mspi := rfl
@[simp] theorem State.modGal_pending (f : GalX → GalX) : (s.modGal f).pending = s.pending := rfl
@[simp] theorem State.modGal_rd (f : GalX → GalX) (i1 : Nat) : (s.modGal f).rd i1 = s.rd i1 := rfl
@[simp] theorem State.modGal_g (f : GalX → GalX) (i1 : FRef) : (s.modGal f).g i1 = s.g i1 := rfl
@[simp] theorem State.modGal_rdByte (f : GalX → GalX) (p1 i1 : Nat) : (s.modGal f).rdByte p1 i1 = s.rdByte p1 i1 := rfl

/-! ### `State.setTt` -/
@[simp] theorem State.setTt_part (n : Nat) (x : TtX) : (s.setTt n x).part = s.part := rfl
@[simp] theorem State.setTt_regs (n : Nat) (x : TtX) : (s.setTt n x).regs = s.regs := rfl
@[simp] theorem State.setTt_mem (n : Nat) (x : TtX) : (s.setTt n x).mem = s.mem := rfl
@[simp] theorem State.setTt_latch (n : Nat) (x : TtX) : (s.setTt n x).latch = s.latch := rfl
@[simp] theorem State.setTt_rdata (n : Nat) (x : TtX) : (s.setTt n x).rdata = s.rdata := rfl
@[simp] theorem State.setTt_cyc (n : Nat) (x : TtX) : (s.setTt n x).cyc = s.cyc := rfl
@[simp] theorem State.setTt_fresh (n : Nat) (x : TtX) : (s.setTt n x).fresh = s.fresh := rfl
@[simp] theorem State.setTt_freshN (n : Nat) (x : TtX) : (s.setTt n x).freshN = s.freshN := rfl
@[simp] theorem State.setTt_free (n : Nat) (x : TtX) : (s.setTt n x).free = s.free := rfl
@[simp] theorem State.setTt_dids (n : Nat) (x : TtX) : (s.setTt n x).dids = s.dids := rfl
@[simp] theorem State.setTt_out (n : Nat) (x : TtX) : (s.setTt n x).out = s.out := rfl
@[simp] theorem State.setTt_tb0 (n : Nat) (x : TtX) : (s.setTt n x).tb0 = s.tb0 := rfl
@[simp] theorem State.setTt_tb1 (n : Nat) (x : TtX) : (s.setTt n x).tb1 = s.tb1 := rfl
@[simp] theorem State.setTt_tb2 (n : Nat) (x : TtX) : (s.setTt n x).tb2 = s.tb2 := rfl
@[simp] theorem State.setTt_tb0rem (n : Nat) (x : TtX) : (s.setTt n x).tb0rem = s.tb0rem := rfl
@[simp] theorem State.setTt_queues (n : Nat) (x : TtX) : (s.setTt n x).queues = s.queues := rfl
@[simp] theorem State.setTt_orphans (n : Nat) (x : TtX) : (s.setTt n x).orphans = s.orphans := rfl
@[simp] theorem State.setTt_lastQ (n : Nat) (x : TtX) : (s.setTt n x).lastQ = s.lastQ := rfl
@[simp] theorem State.setTt_rings (n : Nat) (x : TtX) : (s.setTt n x).rings = s.rings := rfl
@[simp] theorem State.setTt_vecs (n : Nat) (x : TtX) : (s.setTt n x).vecs = s.vecs := rfl
@[simp] theorem State.setTt_jnl (n : Nat) (x : TtX) : (s.setTt n x).jnl = s.jnl := rfl
@[simp] theorem State.setTt_flt (n : Nat) (x : TtX) : (s.setTt n x).flt = s.flt := rfl
@[simp] theorem State.setTt_evIn (n : Nat) (x : TtX) : (s.setTt n x).evIn = s.evIn := rfl
@[simp] theorem State.setTt_axis (n : Nat) (x : TtX) : (s.setTt n x).axis = s.axis := rfl
@[simp] theorem State.setTt_axzPend (n : Nat) (x : TtX) : (s.setTt n x).axzPend = s.axzPend := rfl
@[simp] theorem State.setTt_flights (n : Nat) (x : TtX) : (s.setTt n x).flights = s.flights := rfl
@[simp] theorem State.setTt_alcs (n : Nat) (x : TtX) : (s.setTt n x).alcs = s.alcs := rfl
@[simp] theorem State.setTt_halls (n : Nat) (x : TtX) : (s.setTt n x).halls = s.halls := rfl
@[simp] theorem State.setTt_stopRuns (n : Nat) (x : TtX) : (s.setTt n x).stopRuns = s.stopRuns := rfl
@[simp] theorem State.setTt_startRuns (n : Nat) (x : TtX) : (s.setTt n x).startRuns = s.startRuns := rfl
@[simp] theorem State.setTt_gtl (n : Nat) (x : TtX) : (s.setTt n x).gtl = s.gtl := rfl
@[simp] theorem State.setTt_chans (n : Nat) (x : TtX) : (s.setTt n x).chans = s.chans := rfl
@[simp] theorem State.setTt_peHalls (n : Nat) (x : TtX) : (s.setTt n x).peHalls = s.peHalls := rfl
@[simp] theorem State.setTt_levels (n : Nat) (x : TtX) : (s.setTt n x).levels = s.levels := rfl
@[simp] theorem State.setTt_smus (n : Nat) (x : TtX) : (s.setTt n x).smus = s.smus := rfl
@[simp] theorem State.setTt_grps (n : Nat) (x : TtX) : (s.setTt n x).grps = s.grps := rfl
@[simp] theorem State.setTt_tdcs (n : Nat) (x : TtX) : (s.setTt n x).tdcs = s.tdcs := rfl
@[simp] theorem State.setTt_samples (n : Nat) (x : TtX) : (s.setTt n x).samples = s.samples := rfl
@[simp] theorem State.setTt_regrs (n : Nat) (x : TtX) : (s.setTt n x).regrs = s.regrs := rfl
@[simp] theorem State.setTt_hses (n : Nat) (x : TtX) : (s.setTt n x).hses = s.hses := rfl
@[simp] theorem State.setTt_noref (n : Nat) (x : TtX) : (s.setTt n x).noref = s.noref := rfl
@[simp] theorem State.setTt_bspi (n : Nat) (x : TtX) : (s.setTt n x).bspi = s.bspi := rfl
@[simp] theorem State.setTt_digs (n : Nat) (x : TtX) : (s.setTt n x).digs = s.digs := rfl
@[simp] theorem State.setTt_acqEdge (n : Nat) (x : TtX) : (s.setTt n x).acqEdge = s.acqEdge := rfl
@[simp] theorem State.setTt_rs (n : Nat) (x : TtX) : (s.setTt n x).rs = s.rs := rfl
@[simp] theorem State.setTt_evOld (n : Nat) (x : TtX) : (s.setTt n x).evOld = s.evOld := rfl
@[simp] theorem State.setTt_evLast (n : Nat) (x : TtX) : (s.setTt n x).evLast = s.evLast := rfl
@[simp] theorem State.setTt_evPulse (n : Nat) (x : TtX) : (s.setTt n x).evPulse = s.evPulse := rfl
@[simp] theorem State.setTt_tms (n : Nat) (x : TtX) : (s.setTt n x).tms = s.tms := rfl
@[simp] theorem State.setTt_norefEnd (n : Nat) (x : TtX) : (s.setTt n x).norefEnd = s.norefEnd := rfl
@[simp] theorem State.setTt_peers (n : Nat) (x : TtX) : (s.setTt n x).peers = s.peers := rfl
@[simp] theorem State.setTt_gal (n : Nat) (x : TtX) : (s.setTt n x).gal = s.gal := rfl
@[simp] theorem State.setTt_tts (n : Nat) (x : TtX) : (s.setTt n x).tts = tabSet (fun _ => ({} : TtX)) s.tts n x := rfl
@[simp] theorem State.setTt_admits (n : Nat) (x : TtX) : (s.setTt n x).admits = s.admits := rfl
@[simp] theorem State.setTt_sdPend (n : Nat) (x : TtX) : (s.setTt n x).sdPend = s.sdPend := rfl
@[simp] theorem State.setTt_therm (n : Nat) (x : TtX) : (s.setTt n x).therm = s.therm := rfl
@[simp] theorem State.setTt_cal (n : Nat) (x : TtX) : (s.setTt n x).cal = s.cal := rfl
@[simp] theorem State.setTt_scr (n : Nat) (x : TtX) : (s.setTt n x).scr = s.scr := rfl
@[simp] theorem State.setTt_ports (n : Nat) (x : TtX) : (s.setTt n x).ports = s.ports := rfl
@[simp] theorem State.setTt_rbytes (n : Nat) (x : TtX) : (s.setTt n x).rbytes = s.rbytes := rfl
@[simp] theorem State.setTt_rpl (n : Nat) (x : TtX) : (s.setTt n x).rpl = s.rpl := rfl
@[simp] theorem State.setTt_boot (n : Nat) (x : TtX) : (s.setTt n x).boot = s.boot := rfl
@[simp] theorem State.setTt_mspi (n : Nat) (x : TtX) : (s.setTt n x).mspi = s.mspi := rfl
@[simp] theorem State.setTt_pending (n : Nat) (x : TtX) : (s.setTt n x).pending = s.pending := rfl
@[simp] theorem State.setTt_rd (n : Nat) (x : TtX) (i1 : Nat) : (s.setTt n x).rd i1 = s.rd i1 := rfl
@[simp] theorem State.setTt_g (n : Nat) (x : TtX) (i1 : FRef) : (s.setTt n x).g i1 = s.g i1 := rfl
@[simp] theorem State.setTt_rdByte (n : Nat) (x : TtX) (p1 i1 : Nat) : (s.setTt n x).rdByte p1 i1 = s.rdByte p1 i1 := rfl

/-! ### `State.modBoot` -/
@[simp] theorem State.modBoot_part (f : BootX → BootX) : (s.modBoot f).part = s.part := rfl
@[simp] theorem State.modBoot_regs (f : BootX → BootX) : (s.modBoot f).regs = s.regs := rfl
@[simp] theorem State.modBoot_mem (f : BootX → BootX) : (s.modBoot f).mem = s.mem := rfl
@[simp] theorem State.modBoot_latch (f : BootX → BootX) : (s.modBoot f).latch = s.latch := rfl
@[simp] theorem State.modBoot_rdata (f : BootX → BootX) : (s.modBoot f).rdata = s.rdata := rfl
@[simp] theorem State.modBoot_cyc (f : BootX → BootX) : (s.modBoot f).cyc = s.cyc := rfl
@[simp] theorem State.modBoot_fresh (f : BootX → BootX) : (s.modBoot f).fresh = s.fresh := rfl
@[simp] theorem State.modBoot_freshN (f : BootX → BootX) : (s.modBoot f).freshN = s.freshN := rfl
@[simp] theorem State.modBoot_free (f : BootX → BootX) : (s.modBoot f).free = s.free := rfl
@[simp] theorem State.modBoot_dids (f : BootX → BootX) : (s.modBoot f).dids = s.dids := rfl
@[simp] theorem State.modBoot_out (f : BootX → BootX) : (s.modBoot f).out = s.out := rfl
@[simp] theorem State.modBoot_tb0 (f : BootX → BootX) : (s.modBoot f).tb0 = s.tb0 := rfl
@[simp] theorem State.modBoot_tb1 (f : BootX → BootX) : (s.modBoot f).tb1 = s.tb1 := rfl
@[simp] theorem State.modBoot_tb2 (f : BootX → BootX) : (s.modBoot f).tb2 = s.tb2 := rfl
@[simp] theorem State.modBoot_tb0rem (f : BootX → BootX) : (s.modBoot f).tb0rem = s.tb0rem := rfl
@[simp] theorem State.modBoot_queues (f : BootX → BootX) : (s.modBoot f).queues = s.queues := rfl
@[simp] theorem State.modBoot_orphans (f : BootX → BootX) : (s.modBoot f).orphans = s.orphans := rfl
@[simp] theorem State.modBoot_lastQ (f : BootX → BootX) : (s.modBoot f).lastQ = s.lastQ := rfl
@[simp] theorem State.modBoot_rings (f : BootX → BootX) : (s.modBoot f).rings = s.rings := rfl
@[simp] theorem State.modBoot_vecs (f : BootX → BootX) : (s.modBoot f).vecs = s.vecs := rfl
@[simp] theorem State.modBoot_jnl (f : BootX → BootX) : (s.modBoot f).jnl = s.jnl := rfl
@[simp] theorem State.modBoot_flt (f : BootX → BootX) : (s.modBoot f).flt = s.flt := rfl
@[simp] theorem State.modBoot_evIn (f : BootX → BootX) : (s.modBoot f).evIn = s.evIn := rfl
@[simp] theorem State.modBoot_axis (f : BootX → BootX) : (s.modBoot f).axis = s.axis := rfl
@[simp] theorem State.modBoot_axzPend (f : BootX → BootX) : (s.modBoot f).axzPend = s.axzPend := rfl
@[simp] theorem State.modBoot_flights (f : BootX → BootX) : (s.modBoot f).flights = s.flights := rfl
@[simp] theorem State.modBoot_alcs (f : BootX → BootX) : (s.modBoot f).alcs = s.alcs := rfl
@[simp] theorem State.modBoot_halls (f : BootX → BootX) : (s.modBoot f).halls = s.halls := rfl
@[simp] theorem State.modBoot_stopRuns (f : BootX → BootX) : (s.modBoot f).stopRuns = s.stopRuns := rfl
@[simp] theorem State.modBoot_startRuns (f : BootX → BootX) : (s.modBoot f).startRuns = s.startRuns := rfl
@[simp] theorem State.modBoot_gtl (f : BootX → BootX) : (s.modBoot f).gtl = s.gtl := rfl
@[simp] theorem State.modBoot_chans (f : BootX → BootX) : (s.modBoot f).chans = s.chans := rfl
@[simp] theorem State.modBoot_peHalls (f : BootX → BootX) : (s.modBoot f).peHalls = s.peHalls := rfl
@[simp] theorem State.modBoot_levels (f : BootX → BootX) : (s.modBoot f).levels = s.levels := rfl
@[simp] theorem State.modBoot_smus (f : BootX → BootX) : (s.modBoot f).smus = s.smus := rfl
@[simp] theorem State.modBoot_grps (f : BootX → BootX) : (s.modBoot f).grps = s.grps := rfl
@[simp] theorem State.modBoot_tdcs (f : BootX → BootX) : (s.modBoot f).tdcs = s.tdcs := rfl
@[simp] theorem State.modBoot_samples (f : BootX → BootX) : (s.modBoot f).samples = s.samples := rfl
@[simp] theorem State.modBoot_regrs (f : BootX → BootX) : (s.modBoot f).regrs = s.regrs := rfl
@[simp] theorem State.modBoot_hses (f : BootX → BootX) : (s.modBoot f).hses = s.hses := rfl
@[simp] theorem State.modBoot_noref (f : BootX → BootX) : (s.modBoot f).noref = s.noref := rfl
@[simp] theorem State.modBoot_bspi (f : BootX → BootX) : (s.modBoot f).bspi = s.bspi := rfl
@[simp] theorem State.modBoot_digs (f : BootX → BootX) : (s.modBoot f).digs = s.digs := rfl
@[simp] theorem State.modBoot_acqEdge (f : BootX → BootX) : (s.modBoot f).acqEdge = s.acqEdge := rfl
@[simp] theorem State.modBoot_rs (f : BootX → BootX) : (s.modBoot f).rs = s.rs := rfl
@[simp] theorem State.modBoot_evOld (f : BootX → BootX) : (s.modBoot f).evOld = s.evOld := rfl
@[simp] theorem State.modBoot_evLast (f : BootX → BootX) : (s.modBoot f).evLast = s.evLast := rfl
@[simp] theorem State.modBoot_evPulse (f : BootX → BootX) : (s.modBoot f).evPulse = s.evPulse := rfl
@[simp] theorem State.modBoot_tms (f : BootX → BootX) : (s.modBoot f).tms = s.tms := rfl
@[simp] theorem State.modBoot_norefEnd (f : BootX → BootX) : (s.modBoot f).norefEnd = s.norefEnd := rfl
@[simp] theorem State.modBoot_peers (f : BootX → BootX) : (s.modBoot f).peers = s.peers := rfl
@[simp] theorem State.modBoot_gal (f : BootX → BootX) : (s.modBoot f).gal = s.gal := rfl
@[simp] theorem State.modBoot_tts (f : BootX → BootX) : (s.modBoot f).tts = s.tts := rfl
@[simp] theorem State.modBoot_admits (f : BootX → BootX) : (s.modBoot f).admits = s.admits := rfl
@[simp] theorem State.modBoot_sdPend (f : BootX → BootX) : (s.modBoot f).sdPend = s.sdPend := rfl
@[simp] theorem State.modBoot_therm (f : BootX → BootX) : (s.modBoot f).therm = s.therm := rfl
@[simp] theorem State.modBoot_cal (f : BootX → BootX) : (s.modBoot f).cal = s.cal := rfl
@[simp] theorem State.modBoot_scr (f : BootX → BootX) : (s.modBoot f).scr = s.scr := rfl
@[simp] theorem State.modBoot_ports (f : BootX → BootX) : (s.modBoot f).ports = s.ports := rfl
@[simp] theorem State.modBoot_rbytes (f : BootX → BootX) : (s.modBoot f).rbytes = s.rbytes := rfl
@[simp] theorem State.modBoot_rpl (f : BootX → BootX) : (s.modBoot f).rpl = s.rpl := rfl
@[simp] theorem State.modBoot_boot (f : BootX → BootX) : (s.modBoot f).boot = f s.boot := rfl
@[simp] theorem State.modBoot_mspi (f : BootX → BootX) : (s.modBoot f).mspi = s.mspi := rfl
@[simp] theorem State.modBoot_pending (f : BootX → BootX) : (s.modBoot f).pending = s.pending := rfl
@[simp] theorem State.modBoot_rd (f : BootX → BootX) (i1 : Nat) : (s.modBoot f).rd i1 = s.rd i1 := rfl
@[simp] theorem State.modBoot_g (f : BootX → BootX) (i1 : FRef) : (s.modBoot f).g i1 = s.g i1 := rfl
@[simp] theorem State.modBoot_rdByte (f : BootX → BootX) (p1 i1 : Nat) : (s.modBoot f).rdByte p1 i1 = s.rdByte p1 i1 := rfl

/-! ### `State.modTherm` -/
@[simp] theorem State.modTherm_part (f : ThermX → ThermX) : (s.modTherm f).part = s.part := rfl
@[simp] theorem State.modTherm_regs (f : ThermX → ThermX) : (s.modTherm f).regs = s.regs := rfl
@[simp] theorem State.modTherm_mem (f : ThermX → ThermX) : (s.modTherm f).mem = s.mem := rfl
@[simp] theorem State.modTherm_latch (f : ThermX → ThermX) : (s.modTherm f).latch = s.latch := rfl
@[simp] theorem State.modTherm_rdata (f : ThermX → ThermX) : (s.modTherm f).rdata = s.rdata := rfl
@[simp] theorem State.modTherm_cyc (f : ThermX → ThermX) : (s.modTherm f).cyc = s.cyc := rfl
@[simp] theorem State.modTherm_fresh (f : ThermX → ThermX) : (s.modTherm f).fresh = s.fresh := rfl
@[simp] theorem State.modTherm_freshN (f : ThermX → ThermX) : (s.modTherm f).freshN = s.freshN := rfl
@[simp] theorem State.modTherm_free (f : ThermX → ThermX) : (s.modTherm f).free = s.free := rfl
@[simp] theorem State.modTherm_dids (f : ThermX → ThermX) : (s.modTherm f).dids = s.dids := rfl
@[simp] theorem State.modTherm_out (f : ThermX → ThermX) : (s.modTherm f).out = s.out := rfl
@[simp] theorem State.modTherm_tb0 (f : ThermX → ThermX) : (s.modTherm f).tb0 = s.tb0 := rfl
@[simp] theorem State.modTherm_tb1 (f : ThermX → ThermX) : (s.modTherm f).tb1 = s.tb1 := rfl
@[simp] theorem State.modTherm_tb2 (f : ThermX → ThermX) : (s.modTherm f).tb2 = s.tb2 := rfl
@[simp] theorem State.modTherm_tb0rem (f : ThermX → ThermX) : (s.modTherm f).tb0rem = s.tb0rem := rfl
@[simp] theorem State.modTherm_queues (f : ThermX → ThermX) : (s.modTherm f).queues = s.queues := rfl
@[simp] theorem State.modTherm_orphans (f : ThermX → ThermX) : (s.modTherm f).orphans = s.orphans := rfl
@[simp] theorem State.modTherm_lastQ (f : ThermX → ThermX) : (s.modTherm f).lastQ = s.lastQ := rfl
@[simp] theorem State.modTherm_rings (f : ThermX → ThermX) : (s.modTherm f).rings = s.rings := rfl
@[simp] theorem State.modTherm_vecs (f : ThermX → ThermX) : (s.modTherm f).vecs = s.vecs := rfl
@[simp] theorem State.modTherm_jnl (f : ThermX → ThermX) : (s.modTherm f).jnl = s.jnl := rfl
@[simp] theorem State.modTherm_flt (f : ThermX → ThermX) : (s.modTherm f).flt = s.flt := rfl
@[simp] theorem State.modTherm_evIn (f : ThermX → ThermX) : (s.modTherm f).evIn = s.evIn := rfl
@[simp] theorem State.modTherm_axis (f : ThermX → ThermX) : (s.modTherm f).axis = s.axis := rfl
@[simp] theorem State.modTherm_axzPend (f : ThermX → ThermX) : (s.modTherm f).axzPend = s.axzPend := rfl
@[simp] theorem State.modTherm_flights (f : ThermX → ThermX) : (s.modTherm f).flights = s.flights := rfl
@[simp] theorem State.modTherm_alcs (f : ThermX → ThermX) : (s.modTherm f).alcs = s.alcs := rfl
@[simp] theorem State.modTherm_halls (f : ThermX → ThermX) : (s.modTherm f).halls = s.halls := rfl
@[simp] theorem State.modTherm_stopRuns (f : ThermX → ThermX) : (s.modTherm f).stopRuns = s.stopRuns := rfl
@[simp] theorem State.modTherm_startRuns (f : ThermX → ThermX) : (s.modTherm f).startRuns = s.startRuns := rfl
@[simp] theorem State.modTherm_gtl (f : ThermX → ThermX) : (s.modTherm f).gtl = s.gtl := rfl
@[simp] theorem State.modTherm_chans (f : ThermX → ThermX) : (s.modTherm f).chans = s.chans := rfl
@[simp] theorem State.modTherm_peHalls (f : ThermX → ThermX) : (s.modTherm f).peHalls = s.peHalls := rfl
@[simp] theorem State.modTherm_levels (f : ThermX → ThermX) : (s.modTherm f).levels = s.levels := rfl
@[simp] theorem State.modTherm_smus (f : ThermX → ThermX) : (s.modTherm f).smus = s.smus := rfl
@[simp] theorem State.modTherm_grps (f : ThermX → ThermX) : (s.modTherm f).grps = s.grps := rfl
@[simp] theorem State.modTherm_tdcs (f : ThermX → ThermX) : (s.modTherm f).tdcs = s.tdcs := rfl
@[simp] theorem State.modTherm_samples (f : ThermX → ThermX) : (s.modTherm f).samples = s.samples := rfl
@[simp] theorem State.modTherm_regrs (f : ThermX → ThermX) : (s.modTherm f).regrs = s.regrs := rfl
@[simp] theorem State.modTherm_hses (f : ThermX → ThermX) : (s.modTherm f).hses = s.hses := rfl
@[simp] theorem State.modTherm_noref (f : ThermX → ThermX) : (s.modTherm f).noref = s.noref := rfl
@[simp] theorem State.modTherm_bspi (f : ThermX → ThermX) : (s.modTherm f).bspi = s.bspi := rfl
@[simp] theorem State.modTherm_digs (f : ThermX → ThermX) : (s.modTherm f).digs = s.digs := rfl
@[simp] theorem State.modTherm_acqEdge (f : ThermX → ThermX) : (s.modTherm f).acqEdge = s.acqEdge := rfl
@[simp] theorem State.modTherm_rs (f : ThermX → ThermX) : (s.modTherm f).rs = s.rs := rfl
@[simp] theorem State.modTherm_evOld (f : ThermX → ThermX) : (s.modTherm f).evOld = s.evOld := rfl
@[simp] theorem State.modTherm_evLast (f : ThermX → ThermX) : (s.modTherm f).evLast = s.evLast := rfl
@[simp] theorem State.modTherm_evPulse (f : ThermX → ThermX) : (s.modTherm f).evPulse = s.evPulse := rfl
@[simp] theorem State.modTherm_tms (f : ThermX → ThermX) : (s.modTherm f).tms = s.tms := rfl
@[simp] theorem State.modTherm_norefEnd (f : ThermX → ThermX) : (s.modTherm f).norefEnd = s.norefEnd := rfl
@[simp] theorem State.modTherm_peers (f : ThermX → ThermX) : (s.modTherm f).peers = s.peers := rfl
@[simp] theorem State.modTherm_gal (f : ThermX → ThermX) : (s.modTherm f).gal = s.gal := rfl
@[simp] theorem State.modTherm_tts (f : ThermX → ThermX) : (s.modTherm f).tts = s.tts := rfl
@[simp] theorem State.modTherm_admits (f : ThermX → ThermX) : (s.modTherm f).admits = s.admits := rfl
@[simp] theorem State.modTherm_sdPend (f : ThermX → ThermX) : (s.modTherm f).sdPend = s.sdPend := rfl
@[simp] theorem State.modTherm_therm (f : ThermX → ThermX) : (s.modTherm f).therm = f s.therm := rfl
@[simp] theorem State.modTherm_cal (f : ThermX → ThermX) : (s.modTherm f).cal = s.cal := rfl
@[simp] theorem State.modTherm_scr (f : ThermX → ThermX) : (s.modTherm f).scr = s.scr := rfl
@[simp] theorem State.modTherm_ports (f : ThermX → ThermX) : (s.modTherm f).ports = s.ports := rfl
@[simp] theorem State.modTherm_rbytes (f : ThermX → ThermX) : (s.modTherm f).rbytes = s.rbytes := rfl
@[simp] theorem State.modTherm_rpl (f : ThermX → ThermX) : (s.modTherm f).rpl = s.rpl := rfl
@[simp] theorem State.modTherm_boot (f : ThermX → ThermX) : (s.modTherm f).boot = s.boot := rfl
@[simp] theorem State.modTherm_mspi (f : ThermX → ThermX) : (s.modTherm f).mspi = s.mspi := rfl
@[simp] theorem State.modTherm_pending (f : ThermX → ThermX) : (s.modTherm f).pending = s.pending := rfl
@[simp] theorem State.modTherm_rd (f : ThermX → ThermX) (i1 : Nat) : (s.modTherm f).rd i1 = s.rd i1 := rfl
@[simp] theorem State.modTherm_g (f : ThermX → ThermX) (i1 : FRef) : (s.modTherm f).g i1 = s.g i1 := rfl
@[simp] theorem State.modTherm_rdByte (f : ThermX → ThermX) (p1 i1 : Nat) : (s.modTherm f).rdByte p1 i1 = s.rdByte p1 i1 := rfl

/-! ### `State.setPortX` -/
@[simp] theorem State.setPortX_part (p : Nat) (x : PortX) : (s.setPortX p x).part = s.part := rfl
@[simp] theorem State.setPortX_regs (p : Nat) (x : PortX) : (s.setPortX p x).regs = s.regs := rfl
@[simp] theorem State.setPortX_mem (p : Nat) (x : PortX) : (s.setPortX p x).mem = s.mem := rfl
@[simp] theorem State.setPortX_latch (p : Nat) (x : PortX) : (s.setPortX p x).latch = s.latch := rfl
@[simp] theorem State.setPortX_rdata (p : Nat) (x : PortX) : (s.setPortX p x).rdata = s.rdata := rfl
@[simp] theorem State.setPortX_cyc (p : Nat) (x : PortX) : (s.setPortX p x).cyc = s.cyc := rfl
@[simp] theorem State.setPortX_fresh (p : Nat) (x : PortX) : (s.setPortX p x).fresh = s.fresh := rfl
@[simp] theorem State.setPortX_freshN (p : Nat) (x : PortX) : (s.setPortX p x).freshN = s.freshN := rfl
@[simp] theorem State.setPortX_free (p : Nat) (x : PortX) : (s.setPortX p x).free = s.free := rfl
@[simp] theorem State.setPortX_dids (p : Nat) (x : PortX) : (s.setPortX p x).dids = s.dids := rfl
@[simp] theorem State.setPortX_out (p : Nat) (x : PortX) : (s.setPortX p x).out = s.out := rfl
@[simp] theorem State.setPortX_tb0 (p : Nat) (x : PortX) : (s.setPortX p x).tb0 = s.tb0 := rfl
@[simp] theorem State.setPortX_tb1 (p : Nat) (x : PortX) : (s.setPortX p x).tb1 = s.tb1 := rfl
@[simp] theorem State.setPortX_tb2 (p : Nat) (x : PortX) : (s.setPortX p x).tb2 = s.tb2 := rfl
@[simp] theorem State.setPortX_tb0rem (p : Nat) (x : PortX) : (s.setPortX p x).tb0rem = s.tb0rem := rfl
@[simp] theorem State.setPortX_queues (p : Nat) (x : PortX) : (s.setPortX p x).queues = s.queues := rfl
@[simp] theorem State.setPortX_orphans (p : Nat) (x : PortX) : (s.setPortX p x).orphans = s.orphans := rfl
@[simp] theorem State.setPortX_lastQ (p : Nat) (x : PortX) : (s.setPortX p x).lastQ = s.lastQ := rfl
@[simp] theorem State.setPortX_rings (p : Nat) (x : PortX) : (s.setPortX p x).rings = s.rings := rfl
@[simp] theorem State.setPortX_vecs (p : Nat) (x : PortX) : (s.setPortX p x).vecs = s.vecs := rfl
@[simp] theorem State.setPortX_jnl (p : Nat) (x : PortX) : (s.setPortX p x).jnl = s.jnl := rfl
@[simp] theorem State.setPortX_flt (p : Nat) (x : PortX) : (s.setPortX p x).flt = s.flt := rfl
@[simp] theorem State.setPortX_evIn (p : Nat) (x : PortX) : (s.setPortX p x).evIn = s.evIn := rfl
@[simp] theorem State.setPortX_axis (p : Nat) (x : PortX) : (s.setPortX p x).axis = s.axis := rfl
@[simp] theorem State.setPortX_axzPend (p : Nat) (x : PortX) : (s.setPortX p x).axzPend = s.axzPend := rfl
@[simp] theorem State.setPortX_flights (p : Nat) (x : PortX) : (s.setPortX p x).flights = s.flights := rfl
@[simp] theorem State.setPortX_alcs (p : Nat) (x : PortX) : (s.setPortX p x).alcs = s.alcs := rfl
@[simp] theorem State.setPortX_halls (p : Nat) (x : PortX) : (s.setPortX p x).halls = s.halls := rfl
@[simp] theorem State.setPortX_stopRuns (p : Nat) (x : PortX) : (s.setPortX p x).stopRuns = s.stopRuns := rfl
@[simp] theorem State.setPortX_startRuns (p : Nat) (x : PortX) : (s.setPortX p x).startRuns = s.startRuns := rfl
@[simp] theorem State.setPortX_gtl (p : Nat) (x : PortX) : (s.setPortX p x).gtl = s.gtl := rfl
@[simp] theorem State.setPortX_chans (p : Nat) (x : PortX) : (s.setPortX p x).chans = s.chans := rfl
@[simp] theorem State.setPortX_peHalls (p : Nat) (x : PortX) : (s.setPortX p x).peHalls = s.peHalls := rfl
@[simp] theorem State.setPortX_levels (p : Nat) (x : PortX) : (s.setPortX p x).levels = s.levels := rfl
@[simp] theorem State.setPortX_smus (p : Nat) (x : PortX) : (s.setPortX p x).smus = s.smus := rfl
@[simp] theorem State.setPortX_grps (p : Nat) (x : PortX) : (s.setPortX p x).grps = s.grps := rfl
@[simp] theorem State.setPortX_tdcs (p : Nat) (x : PortX) : (s.setPortX p x).tdcs = s.tdcs := rfl
@[simp] theorem State.setPortX_samples (p : Nat) (x : PortX) : (s.setPortX p x).samples = s.samples := rfl
@[simp] theorem State.setPortX_regrs (p : Nat) (x : PortX) : (s.setPortX p x).regrs = s.regrs := rfl
@[simp] theorem State.setPortX_hses (p : Nat) (x : PortX) : (s.setPortX p x).hses = s.hses := rfl
@[simp] theorem State.setPortX_noref (p : Nat) (x : PortX) : (s.setPortX p x).noref = s.noref := rfl
@[simp] theorem State.setPortX_bspi (p : Nat) (x : PortX) : (s.setPortX p x).bspi = s.bspi := rfl
@[simp] theorem State.setPortX_digs (p : Nat) (x : PortX) : (s.setPortX p x).digs = s.digs := rfl
@[simp] theorem State.setPortX_acqEdge (p : Nat) (x : PortX) : (s.setPortX p x).acqEdge = s.acqEdge := rfl
@[simp] theorem State.setPortX_rs (p : Nat) (x : PortX) : (s.setPortX p x).rs = s.rs := rfl
@[simp] theorem State.setPortX_evOld (p : Nat) (x : PortX) : (s.setPortX p x).evOld = s.evOld := rfl
@[simp] theorem State.setPortX_evLast (p : Nat) (x : PortX) : (s.setPortX p x).evLast = s.evLast := rfl
@[simp] theorem State.setPortX_evPulse (p : Nat) (x : PortX) : (s.setPortX p x).evPulse = s.evPulse := rfl
@[simp] theorem State.setPortX_tms (p : Nat) (x : PortX) : (s.setPortX p x).tms = s.tms := rfl
@[simp] theorem State.setPortX_norefEnd (p : Nat) (x : PortX) : (s.setPortX p x).norefEnd = s.norefEnd := rfl
@[simp] theorem State.setPortX_peers (p : Nat) (x : PortX) : (s.setPortX p x).peers = s.peers := rfl
@[simp] theorem State.setPortX_gal (p : Nat) (x : PortX) : (s.setPortX p x).gal = s.gal := rfl
@[simp] theorem State.setPortX_tts (p : Nat) (x : PortX) : (s.setPortX p x).tts = s.tts := rfl
@[simp] theorem State.setPortX_admits (p : Nat) (x : PortX) : (s.setPortX p x).admits = s.admits := rfl
@[simp] theorem State.setPortX_sdPend (p : Nat) (x : PortX) : (s.setPortX p x).sdPend = s.sdPend := rfl
@[simp] theorem State.setPortX_therm (p : Nat) (x : PortX) : (s.setPortX p x).therm = s.therm := rfl
@[simp] theorem State.setPortX_cal (p : Nat) (x : PortX) : (s.setPortX p x).cal = s.cal := rfl
@[simp] theorem State.setPortX_scr (p : Nat) (x : PortX) : (s.setPortX p x).scr = s.scr := rfl
@[simp] theorem State.setPortX_ports (p : Nat) (x : PortX) : (s.setPortX p x).ports = tabSet (fun _ => ({} : PortX)) s.ports p x := rfl
@[simp] theorem State.setPortX_rbytes (p : Nat) (x : PortX) : (s.setPortX p x).rbytes = s.rbytes := rfl
@[simp] theorem State.setPortX_rpl (p : Nat) (x : PortX) : (s.setPortX p x).rpl = s.rpl := rfl
@[simp] theorem State.setPortX_boot (p : Nat) (x : PortX) : (s.setPortX p x).boot = s.boot := rfl
@[simp] theorem State.setPortX_mspi (p : Nat) (x : PortX) : (s.setPortX p x).mspi = s.mspi := rfl
@[simp] theorem State.setPortX_pending (p : Nat) (x : PortX) : (s.setPortX p x).pending = s.pending := rfl
@[simp] theorem State.setPortX_rd (p : Nat) (x : PortX) (i1 : Nat) : (s.setPortX p x).rd i1 = s.rd i1 := rfl
@[simp] theorem State.setPortX_g (p : Nat) (x : PortX) (i1 : FRef) : (s.setPortX p x).g i1 = s.g i1 := rfl
@[simp] theorem State.setPortX_rdByte (p : Nat) (x : PortX) (p1 i1 : Nat) : (s.setPortX p x).rdByte p1 i1 = s.rdByte p1 i1 := rfl

end Sys2Proof.Machine
end

