-- ==== Sys2Proof/Laws/Tab.lean ====
section
/-! SUPPORT. The laws of the sparse tables: a read after a write, and the canonical form kept. -/
namespace Sys2Proof.Machine
variable {α : Type}

theorem tabGet_erase_ne (d : Nat → α) (m : List (Nat × α)) {k j : Nat} (h : j ≠ k) :
    tabGet d (tabErase k m) j = tabGet d m j := by
  induction m with
  | nil => rfl
  | cons e r ih =>
    obtain ⟨i, v⟩ := e
    by_cases hi : i = k
    · subst hi; simp [tabErase, tabGet, ih, Ne.symm h]
    · by_cases hj : i = j
      · subst hj; simp [tabErase, tabGet, hi]
      · simp [tabErase, tabGet, hi, hj, ih]

theorem tabGet_erase_same (d : Nat → α) (m : List (Nat × α)) (k : Nat) : tabGet d (tabErase k m) k = d k := by
  induction m with
  | nil => rfl
  | cons e r ih =>
    obtain ⟨i, v⟩ := e
    by_cases hi : i = k <;> simp [tabErase, tabGet, hi, ih]

theorem tabGet_ins_ne (d : Nat → α) (m : List (Nat × α)) {k j : Nat} (v : α) (h : j ≠ k) :
    tabGet d (tabIns k v m) j = tabGet d m j := by
  induction m with
  | nil => simp [tabIns, tabGet, Ne.symm h]
  | cons e r ih =>
    obtain ⟨i, w⟩ := e
    by_cases hi : i < k
    · by_cases hj : i = j
      · subst hj; simp [tabIns, tabGet, hi]
      · simp [tabIns, tabGet, hi, hj, ih]
    · simp [tabIns, tabGet, hi, Ne.symm h]

theorem tabGet_ins_erase (d : Nat → α) (m : List (Nat × α)) (k : Nat) (v : α) :
    tabGet d (tabIns k v (tabErase k m)) k = v := by
  induction m with
  | nil => simp [tabErase, tabIns, tabGet]
  | cons e r ih =>
    obtain ⟨i, w⟩ := e
    by_cases hi : i = k
    · simp [tabErase, hi, ih]
    · by_cases hk : i < k <;> simp [tabErase, tabIns, tabGet, hi, hk, ih]

/-- A read after a write to the same key gives the value written. -/
theorem tabGet_set_same [DecidableEq α] (d : Nat → α) (m : List (Nat × α)) (k : Nat) (v : α) :
    tabGet d (tabSet d m k v) k = v := by
  unfold tabSet
  split
  · rename_i h; rw [tabGet_erase_same, h]
  · exact tabGet_ins_erase d m k v

/-- A write leaves every other key as it was. -/
theorem tabGet_set_ne [DecidableEq α] (d : Nat → α) (m : List (Nat × α)) {k j : Nat} (v : α) (h : j ≠ k) :
    tabGet d (tabSet d m k v) j = tabGet d m j := by
  unfold tabSet
  split
  · exact tabGet_erase_ne d m h
  · rw [tabGet_ins_ne _ _ _ h, tabGet_erase_ne _ _ h]

theorem tabAbove_erase {k j : Nat} {m : List (Nat × α)} (h : tabAbove k m = true) : tabAbove k (tabErase j m) = true := by
  induction m with
  | nil => rfl
  | cons e r ih =>
    obtain ⟨i, v⟩ := e
    simp only [tabAbove, Bool.and_eq_true, decide_eq_true_eq] at h
    by_cases hi : i = j <;> simp [tabErase, tabAbove, hi, ih h.2]
    omega

theorem tabAbove_ins {k j : Nat} {v : α} {m : List (Nat × α)} (h : tabAbove k m = true) (hk : k < j) :
    tabAbove k (tabIns j v m) = true := by
  induction m with
  | nil => simp [tabIns, tabAbove, hk]
  | cons e r ih =>
    obtain ⟨i, w⟩ := e
    simp only [tabAbove, Bool.and_eq_true, decide_eq_true_eq] at h
    by_cases hi : i < j <;> simp [tabIns, tabAbove, hi, h, hk, ih h.2]

theorem tabAbove_trans {k j : Nat} {m : List (Nat × α)} (h : tabAbove j m = true) (hk : k < j) :
    tabAbove k m = true := by
  induction m with
  | nil => rfl
  | cons e r ih =>
    obtain ⟨i, w⟩ := e
    simp only [tabAbove, Bool.and_eq_true, decide_eq_true_eq] at h ⊢
    exact ⟨by omega, ih h.2⟩

theorem tabWf_erase [DecidableEq α] {d : Nat → α} {m : List (Nat × α)} {k : Nat} (h : tabWf d m = true) :
    tabWf d (tabErase k m) = true := by
  induction m with
  | nil => rfl
  | cons e r ih =>
    obtain ⟨i, v⟩ := e
    simp only [tabWf, Bool.and_eq_true] at h
    by_cases hi : i = k
    · simp [tabErase, hi, ih h.2]
    · simp [tabErase, hi, tabWf, ih h.2, tabAbove_erase h.1.1]
      simpa using h.1.2

theorem tabWf_ins [DecidableEq α] {d : Nat → α} {m : List (Nat × α)} {k : Nat} {v : α}
    (h : tabWf d m = true) (hv : v ≠ d k) : tabWf d (tabIns k v (tabErase k m)) = true := by
  induction m with
  | nil => simp [tabErase, tabIns, tabWf, tabAbove, hv]
  | cons e r ih =>
    obtain ⟨i, w⟩ := e
    simp only [tabWf, Bool.and_eq_true] at h
    by_cases hi : i = k
    · simp [tabErase, hi, ih h.2]
    · by_cases hk : i < k
      · simp [tabErase, hi, tabIns, hk, tabWf, ih h.2, tabAbove_ins (tabAbove_erase h.1.1) hk]
        simpa using h.1.2
      · have hki : k < i := by omega
        have ha := tabAbove_erase (j := k) h.1.1
        have hw := tabWf_erase (k := k) h.2
        have h2 : w ≠ d i := by simpa using h.1.2
        simp [tabErase, hi, tabIns, hk, tabWf, tabAbove, hki, hv, ha, hw, h2, tabAbove_trans ha hki]

/-- A write keeps the canonical form. -/
theorem tabWf_set [DecidableEq α] {d : Nat → α} {m : List (Nat × α)} (k : Nat) (v : α) (h : tabWf d m = true) :
    tabWf d (tabSet d m k v) = true := by
  unfold tabSet
  split
  · exact tabWf_erase h
  · rename_i hv; exact tabWf_ins h hv

end Sys2Proof.Machine
end

