-- ==== Sys2Proof/Laws/Ops.lean ====
section
/-! SUPPORT. The laws of the shared operations: bit fields, registers, bulk memory, and the guards of host writes. -/
namespace Sys2Proof.Machine

/-! ### Bit fields -/

theorem fieldGet_lt (lo len : Nat) (w : Word) : fieldGet lo len w < 2 ^ len := (w.extractLsb' lo len).isLt

/-- Each bit of a word in which a field has been put. -/
theorem fieldPut_bit (lo len v : Nat) (w : Word) {i : Nat} (h : i < 32) :
    (fieldPut lo len v w).getLsbD i = if lo ≤ i ∧ i < lo + len then v.testBit (i - lo) else w.getLsbD i := by
  have hm : ((2 ^ len - 1) <<< lo).testBit i = (decide (lo ≤ i) && decide (i - lo < len)) := by
    rw [Nat.testBit_shiftLeft, Nat.testBit_two_pow_sub_one]
  simp only [fieldPut, fieldMask, BitVec.getLsbD_or, BitVec.getLsbD_and, BitVec.getLsbD_not, BitVec.getLsbD_ofNat, hm, h,
    decide_true, Bool.true_and, Nat.testBit_shiftLeft]
  by_cases h1 : lo ≤ i
  · by_cases h2 : i < lo + len
    · have h3 : i - lo < len := by omega
      simp [h1, h2, h3]
    · have h3 : ¬ i - lo < len := by omega
      simp [h2, h3]
  · simp [h1]

/-- A field just put reads back, modulo its width. -/
theorem fieldGet_put_same {lo len : Nat} (h : lo + len ≤ 32) (v : Nat) (w : Word) :
    fieldGet lo len (fieldPut lo len v w) = v % 2 ^ len := by
  have e : (fieldPut lo len v w).extractLsb' lo len = BitVec.ofNat len v := by
    apply BitVec.eq_of_getLsbD_eq
    intro i hi
    rw [BitVec.getLsbD_extractLsb', fieldPut_bit _ _ _ _ (by omega), BitVec.getLsbD_ofNat]
    simp [hi]
  simp [fieldGet, e]

/-- A field put leaves every field that shares no bit with it. -/
theorem fieldGet_put_ne {lo len lo' len' : Nat} (h : lo + len ≤ lo' ∨ lo' + len' ≤ lo) (v : Nat) (w : Word) :
    fieldGet lo' len' (fieldPut lo len v w) = fieldGet lo' len' w := by
  have e : (fieldPut lo len v w).extractLsb' lo' len' = w.extractLsb' lo' len' := by
    apply BitVec.eq_of_getLsbD_eq
    intro i hi
    simp only [BitVec.getLsbD_extractLsb', hi, decide_true, Bool.true_and]
    by_cases h1 : lo' + i < 32
    · rw [fieldPut_bit _ _ _ _ h1, if_neg (by omega)]
    · rw [BitVec.getLsbD_of_ge _ _ (by omega), BitVec.getLsbD_of_ge _ _ (by omega)]
  simp [fieldGet, e]

/-! ### Registers -/

@[simp] theorem State.rd_wr_same (s : State) (a : Nat) (w : Word) : (s.wr a w).rd a = w := tabGet_set_same _ _ _ _

theorem State.rd_wr_ne (s : State) {a b : Nat} (w : Word) (h : b ≠ a) : (s.wr a w).rd b = s.rd b := tabGet_set_ne _ _ _ h

/-- A field just set reads as the value set, modulo its width. -/
theorem State.g_p_same (s : State) (f : FRef) (v : Nat) (h : f.lo + f.len ≤ 32) : (s.p f v).g f = v % 2 ^ f.len := by
  unfold State.g State.p; rw [State.rd_wr_same, fieldGet_put_same h]

/-- A field set leaves every field of another register and every field of the same register that shares no bit with it. -/
theorem State.g_p_ne (s : State) {f k : FRef} (v : Nat)
    (h : k.addr ≠ f.addr ∨ f.lo + f.len ≤ k.lo ∨ k.lo + k.len ≤ f.lo) : (s.p f v).g k = s.g k := by
  unfold State.g State.p
  by_cases e : k.addr = f.addr
  · rw [e, State.rd_wr_same, fieldGet_put_ne (by omega), ← e]
  · rw [State.rd_wr_ne _ _ e]

/-- A field set leaves every other register. -/
theorem State.rd_p_ne (s : State) {f : FRef} {a : Nat} (v : Nat) (h : a ≠ f.addr) : (s.p f v).rd a = s.rd a :=
  State.rd_wr_ne _ _ h

theorem State.g_lt (s : State) (f : FRef) : s.g f < 2 ^ f.len := fieldGet_lt ..

/-- A one-bit flag is 0 or 1. -/
theorem State.is_eq_false (s : State) (f : FRef) (h : f.len = 1) : s.is f = false ↔ s.g f = 0 := by
  have := s.g_lt f
  rw [h] at this
  simp only [State.is, beq_eq_false_iff_ne]
  omega

/-- What `p` does to the fields of the state. -/
@[simp] theorem State.p_part (s : State) (f : FRef) (v : Nat) : (s.p f v).part = s.part := rfl
@[simp] theorem State.set1_part (s : State) (f : FRef) : (s.set1 f).part = s.part := rfl
@[simp] theorem State.clr_part (s : State) (f : FRef) : (s.clr f).part = s.part := rfl
@[simp] theorem State.pb_part (s : State) (f : FRef) (b : Bool) : (s.pb f b).part = s.part := rfl
/-- A flag that the hardware sets is a field put to 1; besides, it is marked as set in this core cycle (R14). -/
theorem State.set1_regs (s : State) (f : FRef) : (s.set1 f).regs = (s.p f 1).regs := rfl
theorem State.set1_rd (s : State) (f : FRef) (a : Nat) : (s.set1 f).rd a = (s.p f 1).rd a := rfl
theorem State.set1_g (s : State) (f k : FRef) : (s.set1 f).g k = (s.p f 1).g k := rfl
theorem State.set1_is (s : State) (f k : FRef) : (s.set1 f).is k = (s.p f 1).is k := rfl
/-- One flag of a field that the hardware sets. -/
@[simp] theorem State.setBit_part (s : State) (f : FRef) (k : Nat) : (s.setBit f k).part = s.part := rfl
theorem State.setBit_regs (s : State) (f : FRef) (k : Nat) : (s.setBit f k).regs = (s.p f (s.g f ||| 2 ^ k)).regs := rfl
theorem State.setBit_rd (s : State) (f : FRef) (k a : Nat) : (s.setBit f k).rd a = (s.p f (s.g f ||| 2 ^ k)).rd a := rfl
theorem State.setBit_g (s : State) (f : FRef) (k : Nat) (j : FRef) : (s.setBit f k).g j = (s.p f (s.g f ||| 2 ^ k)).g j := rfl
theorem State.clr_def (s : State) (f : FRef) : s.clr f = s.p f 0 := rfl
theorem State.pb_def (s : State) (f : FRef) (b : Bool) : s.pb f b = s.p f b.toNat := rfl

/-! ### Combinators -/

@[simp] theorem State.when_true (s : State) (f : State → State) : s.when true f = f s := rfl
@[simp] theorem State.when_false (s : State) (f : State → State) : s.when false f = s := rfl

/-- What a host write does to the registers is what its effect does to them. -/
@[simp] theorem State.byHost_regs (s : State) (f : State → State) : (s.byHost f).regs = (f s).regs := rfl
@[simp] theorem State.byHost_rd (s : State) (f : State → State) (a : Nat) : (s.byHost f).rd a = (f s).rd a := rfl
@[simp] theorem State.byHost_g (s : State) (f : State → State) (k : FRef) : (s.byHost f).g k = (f s).g k := rfl
@[simp] theorem State.byHost_is (s : State) (f : State → State) (k : FRef) : (s.byHost f).is k = (f s).is k := rfl
@[simp] theorem State.byHost_part (s : State) (f : State → State) : (s.byHost f).part = (f s).part := rfl
@[simp] theorem State.byHost_mem (s : State) (f : State → State) : (s.byHost f).mem = (f s).mem := rfl
@[simp] theorem State.byHost_scr (s : State) (f : State → State) : (s.byHost f).scr = (f s).scr := rfl
@[simp] theorem State.byHost_pending (s : State) (f : State → State) : (s.byHost f).pending = (f s).pending := rfl
@[simp] theorem State.byHost_rdByte (s : State) (f : State → State) (p a : Nat) : (s.byHost f).rdByte p a = (f s).rdByte p a := rfl

/-- A host write acts in service while the core runs. -/
theorem State.host_run {s : State} (h : s.inService = true) (k : s.awake = true) (f : State → State) :
    s.host f = s.byHost f := by
  simp [State.host, State.byHost, h, k]

/-- Before service a host write does nothing. -/
theorem State.host_before {s : State} (h : s.inService = false) (f : State → State) : s.host f = s := by
  simp [State.host, h]

/-- During a shutdown a host write sets SD_WRITE and does nothing else. -/
theorem State.host_shut {s : State} (h : s.inService = true) (k : s.awake = false) (f : State → State) :
    s.host f = s.p F.THERM_STAT.SD_WRITE 1 := by
  simp [State.host, State.byHost, State.set1, State.p, State.wr, h, k]

/-! ### Bulk memory -/

theorem memKey_inj {p p' a a' : Nat} (h : a < 2 ^ 32) (h' : a' < 2 ^ 32) (e : memKey p a = memKey p' a') : p = p' ∧ a = a' := by
  unfold memKey at e; omega

/-- A byte just written reads back. -/
theorem State.rdByte_wrByte_same (s : State) (p a : Nat) (b : Byte) : (s.wrByte p a b).rdByte p a = b :=
  tabGet_set_same _ _ _ _

/-- A byte written leaves every other byte. -/
theorem State.rdByte_wrByte_ne (s : State) {p a p' a' : Nat} (b : Byte) (h : memKey p' a' ≠ memKey p a) :
    (s.wrByte p a b).rdByte p' a' = s.rdByte p' a' := tabGet_set_ne _ _ _ h

/-- Bytes are equal where memory and the overwritten regions are. -/
theorem State.rdByte_congr {s t : State} (h : t.mem = s.mem) (k : t.scr = s.scr) (p a : Nat) : t.rdByte p a = s.rdByte p a := by
  unfold State.rdByte; rw [h, k]

end Sys2Proof.Machine
end

