-- ==== Sys2Proof/Laws/Off.lean ====
section
/-! SUPPORT. Frames of registers: `Off P` says that every register whose address is outside `P` reads as before; and what
the shared operations of Machine.Ops leave of the registers. -/
namespace Sys2Proof.Machine

/-- Every register outside `P` reads as before. -/
structure Off (P : Nat → Prop) (s t : State) : Prop where
  part : t.part = s.part
  regs : ∀ a, ¬ P a → t.rd a = s.rd a

variable {P : Nat → Prop} {z s : State}

theorem Off.refl (s : State) : Off P s s := ⟨rfl, fun _ _ => rfl⟩
theorem Off.after {u v : State} (h : Off P u v) (k : Off P s u) : Off P s v :=
  ⟨h.part.trans k.part, fun a n => (h.regs a n).trans (k.regs a n)⟩
theorem Off.mono {Q : Nat → Prop} (h : ∀ a, P a → Q a) (k : Off P s z) : Off Q s z :=
  ⟨k.part, fun a n => k.regs a (fun p => n (h a p))⟩
/-- A field of a register outside `P` reads as before. -/
theorem Off.g (k : Off P s z) (f : FRef) (h : ¬ P f.addr) : z.g f = s.g f := by unfold State.g; rw [k.regs _ h]
theorem Off.is (k : Off P s z) (f : FRef) (h : ¬ P f.addr) : z.is f = s.is f := by unfold State.is; rw [k.g f h]
theorem Off.ite {c : Prop} [Decidable c] {a b : State} (h : Off P z a) (k : Off P z b) : Off P z (if c then a else b) := by
  split
  · exact h
  · exact k

/-- A state that differs from `u` in other fields only. -/
theorem Off.base {P : Nat → Prop} {s u : State}
    {v0 : List Host.Cell} {v1 : List (Nat × Word)} {v2 : List (Nat × Word)} {v3 : Nat} {v4 : List (Nat × Nat)} {v5 : List
    (Nat × Nat)} {v6 : Nat} {v7 : Nat} {v8 : List Out} {v9 : Nat} {v10 : Nat} {v11 : Nat} {v12 : Nat} {v13 : List (Nat ×
    QueueX)} {v14 : List (Nat × DescRun)} {v15 : Nat × Nat} {v16 : List (Nat × RingX)} {v17 : List (Nat × VecX)} {v18 :
    JnlX} {v19 : FltX} {v20 : List (Nat × Nat)} {v21 : List (Nat × AxisX)} {v22 : Bool} {v23 : List (Nat × FlightX)} {v24
    : List (Nat × AlcX)} {v25 : List (Nat × HallX)} {v26 : List StopRun} {v27 : List StartWait} {v28 : Nat} {v29 : List
    (Nat × ChX)} {v30 : List (Nat × PeHallX)} {v31 : List (Nat × BitVec 128)} {v32 : List (Nat × SmuX)} {v33 : List (Nat ×
    GrpX)} {v34 : List (Nat × TdcX)} {v35 : List (Nat × SampleX)} {v36 : List (Nat × RegX)} {v37 : List (Nat × HseX)} {v38
    : Bool} {v39 : Bool × Nat} {v40 : List (Nat × DigX)} {v41 : Nat} {v42 : RsX} {v43 : List (Nat × Word × Nat)} {v44 :
    List (Nat × Nat)} {v45 : List (Nat × Nat)} {v46 : List (Nat × Nat)} {v47 : Option Nat} {v48 : List (Nat × PeerX)} {v49
    : GalX} {v50 : List (Nat × TtX)} {v51 : List AdmitX} {v52 : Bool} {v53 : ThermX} {v54 : CalX} {v55 : List (Nat × Nat)}
    {v56 : List (Nat × PortX)} {v57 : List Nat} {v58 : Option ReplayX} {v59 : BootX} {v60 : Option MspiFrame} {v61 : List
    Instr}
    (k : Off P s u) : Off P s { u with
    mem := v0, latch := v1, rdata := v2, cyc := v3, fresh := v4, freshN := v5, free := v6, dids := v7, out := v8, tb0 :=
    v9, tb1 := v10, tb2 := v11, tb0rem := v12, queues := v13, orphans := v14, lastQ := v15, rings := v16, vecs := v17, jnl
    := v18, flt := v19, evIn := v20, axis := v21, axzPend := v22, flights := v23, alcs := v24, halls := v25, stopRuns :=
    v26, startRuns := v27, gtl := v28, chans := v29, peHalls := v30, levels := v31, smus := v32, grps := v33, tdcs := v34,
    samples := v35, regrs := v36, hses := v37, noref := v38, bspi := v39, digs := v40, acqEdge := v41, rs := v42, evOld :=
    v43, evLast := v44, evPulse := v45, tms := v46, norefEnd := v47, peers := v48, gal := v49, tts := v50, admits := v51,
    sdPend := v52, therm := v53, cal := v54, scr := v55, ports := v56, rbytes := v57, rpl := v58, boot := v59, mspi :=
    v60, pending := v61 } :=
  ⟨k.part, k.regs⟩

theorem State.wr_off (kz : Off P z s) {a : Nat} (w : Word) (h : P a) : Off P z (s.wr a w) :=
  ⟨kz.part, fun b n => (State.rd_wr_ne s w (fun e => n (by rw [e]; exact h))).trans (kz.regs b n)⟩
theorem State.p_off (kz : Off P z s) {f : FRef} (v : Nat) (h : P f.addr) : Off P z (s.p f v) := State.wr_off kz _ h
theorem State.set1_off (kz : Off P z s) {f : FRef} (h : P f.addr) : Off P z (s.set1 f) := Off.base (State.wr_off kz _ h)
theorem State.setBit_off (kz : Off P z s) {f : FRef} (k : Nat) (h : P f.addr) : Off P z (s.setBit f k) := Off.base (State.wr_off kz _ h)
theorem State.clr_off (kz : Off P z s) {f : FRef} (h : P f.addr) : Off P z (s.clr f) := State.wr_off kz _ h
theorem State.pb_off (kz : Off P z s) {f : FRef} (b : Bool) (h : P f.addr) : Off P z (s.pb f b) := State.wr_off kz _ h
theorem State.when_off {c : Bool} {f : State → State} (h : ∀ t, Off P t (f t)) (kz : Off P z s) : Off P z (s.when c f) := by
  unfold State.when
  split
  · exact (h s).after kz
  · exact kz
theorem foldl_off {α : Type} {l : List α} {f : State → α → State} (h : ∀ t x, Off P t (f t x)) {s : State} (k : Off P z s) :
    Off P z (l.foldl f s) := by
  induction l generalizing s with
  | nil => exact k
  | cons x r ih => exact ih ((h s x).after k)
theorem State.over_off {α : Type} {l : List α} {f : α → State → State} (h : ∀ x t, Off P t (f x t)) (k : Off P z s) :
    Off P z (s.over l f) := foldl_off (fun t x => h x t) k
theorem State.each_off {n : Nat} {f : Nat → State → State} (h : ∀ i t, Off P t (f i t)) (k : Off P z s) :
    Off P z (s.each n f) := foldl_off (fun t x => h x t) k
theorem State.count_off (kz : Off P z s) {c sat : FRef} (n : Nat) (h : P c.addr) (h2 : P sat.addr) : Off P z (s.count c sat n) := by
  unfold State.count
  exact Off.base (Off.ite (State.p_off kz _ h) (State.set1_off (State.p_off kz _ h) h2))

theorem State.setVec_off (kz : Off P z s) (v : Nat) (x : VecX) : Off P z (s.setVec v x) := Off.base kz
theorem State.send_off (kz : Off P z s) (o : Out) : Off P z (s.send o) := Off.base kz
theorem State.vecCount_off (kz : Off P z s) (v n : Nat) (b : Bool) : Off P z (s.vecCount v n b) := Off.base kz
theorem State.vecFire_off (kz : Off P z s) (v : Nat) : Off P z (s.vecFire v) := by
  unfold State.vecFire
  exact Off.ite (State.setVec_off kz ..) (State.send_off (State.setVec_off kz ..) ..)
theorem State.emit_off (kz : Off P z s) (i : Nat) : Off P z (s.emit i) := by
  unfold State.emit
  exact Off.ite kz (Off.base kz)
theorem State.raise_off (kz : Off P z s) (i d : Nat) (l : List Nat) : Off P z (s.raise i d l) := by
  unfold State.raise
  exact Off.ite (Off.base kz) kz

theorem State.setRing_off (kz : Off P z s) (r : Nat) (x : RingX) : Off P z (s.setRing r x) := Off.base kz
theorem State.ringFlags_off (kz : Off P z s) {r : Nat} (h : P (R.RR_STAT r)) : Off P z (s.ringFlags r) := by
  unfold State.ringFlags
  exact State.when_off (fun t => State.set1_off (.refl t) h) (State.pb_off kz _ h)

/-- The registers in which the journal's records show. -/
def jnlReg (a : Nat) : Prop := a = R.JNL_STAT ∨ a = R.JNL_SEQ ∨ a = R.JNL_DROP ∨ a = R.RR_STAT 4

theorem State.setFifo_off (kz : Off P z s) (l : List JRec) (h : ∀ a, jnlReg a → P a) : Off P z (s.setFifo l) :=
  State.p_off (Off.base kz) _ (h _ (.inl rfl))
theorem State.seqAdd_off (kz : Off P z s) (n : Nat) (h : ∀ a, jnlReg a → P a) : Off P z (s.seqAdd n) :=
  State.p_off kz _ (h _ (.inr (.inl rfl)))
/-- A group of records changes no register but those of the journal that show it. -/
theorem State.jforce_off (kz : Off P z s) (l : List JRec) (h : ∀ a, jnlReg a → P a) : Off P z (s.jforce l) := by
  unfold State.jforce
  have h3 : P R.JNL_DROP := h _ (.inr (.inr (.inl rfl)))
  have h4 : P (R.RR_STAT 4) := h _ (.inr (.inr (.inr rfl)))
  refine Off.ite (State.ringFlags_off (State.seqAdd_off (State.setFifo_off (Off.base kz) _ h) _ h) h4) ?_
  exact State.count_off (State.seqAdd_off (Off.base kz) _ h) _ h3 h3
theorem State.jput_off (kz : Off P z s) (l : List JRec) (h : ∀ a, jnlReg a → P a) : Off P z (s.jput l) := by
  unfold State.jput
  exact Off.ite (State.jforce_off kz l h) kz
theorem State.j_off (kz : Off P z s) (a b c d e : Nat) (h : ∀ a, jnlReg a → P a) : Off P z (s.j a b c d e) := State.jput_off kz _ h
theorem State.jAxis_off (kz : Off P z s) (a b c d : Nat) (h : ∀ a, jnlReg a → P a) : Off P z (s.jAxis a b c d) := State.j_off kz _ _ _ _ _ h
theorem State.cfgWr_off (kz : Off P z s) {a : Nat} (w : Word) (h : P a) (hj : ∀ a, jnlReg a → P a) : Off P z (s.cfgWr a w) := by
  unfold State.cfgWr
  exact State.when_off (fun t => State.j_off (.refl t) _ _ _ _ _ hj) (State.wr_off kz _ h)

/-- A record put changes no register but its ring's status. -/
theorem State.ringPut_off (kz : Off P z s) {r : Nat} (x : RingRec) (h : P (R.RR_STAT r)) : Off P z (s.ringPut r x) := by
  unfold State.ringPut
  exact Off.ite (State.ringFlags_off (State.setRing_off kz ..) h) kz
theorem State.rsPut_off (kz : Off P z s) (x : RingRec) (h : P (R.RR_STAT 3)) : Off P z (s.rsPut x) :=
  State.ringFlags_off (Off.base kz) h
theorem State.dropsOut_off (kz : Off P z s) (r : Nat) : Off P z (s.dropsOut r) := by
  unfold State.dropsOut
  split
  · exact Off.base kz
  · exact Off.ite kz (Off.base kz)
  · exact kz
theorem State.ringMarker_off (kz : Off P z s) (w : List Nat) (a b c d : Nat) (h : ∀ r, P (R.RR_STAT r)) :
    Off P z (s.ringMarker w a b c d) := by
  unfold State.ringMarker
  refine State.over_off (fun r t => Off.ite (Off.ite ?_ ?_) (.refl t)) kz
  · exact State.rsPut_off (State.dropsOut_off (.refl t) 3) _ (h 3)
  · exact State.ringPut_off (State.dropsOut_off (.refl t) r) _ (h r)

theorem State.setQueue_off (kz : Off P z s) (q : Nat) (x : QueueX) : Off P z (s.setQueue q x) := Off.base kz
/-- A completion changes no register. -/
theorem State.complete_off (kz : Off P z s) (d : Nat) (st : Status) (res : List (Nat × Nat × Nat)) : Off P z (s.complete d st res) := by
  unfold State.complete
  split
  · exact Off.base kz
  · split
    · exact kz
    · exact State.setQueue_off kz ..
theorem State.setActed_off (kz : Off P z s) (q d : Nat) : Off P z (s.setActed q d) := Off.base (State.setQueue_off kz ..)
theorem State.withDesc_off (kz : Off P z s) (q op : Nat) {f : DescRun → State → State} (h : ∀ r t, Off P t (f r t)) :
    Off P z (s.withDesc q op f) := by
  unfold State.withDesc
  split
  · exact kz
  · exact (h _ _).after (State.setActed_off kz ..)
theorem State.withActed_off (kz : Off P z s) (q op : Nat) {f : DescRun → State → State} (h : ∀ r t, Off P t (f r t)) :
    Off P z (s.withActed q op f) := by
  unfold State.withActed
  split
  · exact kz
  · exact (h _ _).after kz

end Sys2Proof.Machine
end

