-- ==== Sys2Proof/Laws/Same.lean ====
section
/-! SUPPORT. Two relations between a state and a later one that every operation keeps: `Same`, which leaves the part, the
queue and bulk memory as they were, and `Keeps`, which allows bulk memory to be written.  Both keep the tables canonical. -/
namespace Sys2Proof.Machine

/-- Nothing of bulk memory, the queue or the part has changed, and the register table stays canonical. -/
structure Same (s t : State) : Prop where
  part : t.part = s.part
  pending : t.pending = s.pending
  mem : t.mem = s.mem
  scr : t.scr = s.scr
  regs : Registers.wf s = true → Registers.wf t = true

/-- Nothing of the queue or the part has changed, and the tables of registers and bulk memory stay canonical. -/
structure Keeps (s t : State) : Prop where
  part : t.part = s.part
  pending : t.pending = s.pending
  mem : Memory.wf s = true → Memory.wf t = true
  regs : Registers.wf s = true → Registers.wf t = true

theorem Same.keeps {s t : State} (h : Same s t) : Keeps s t :=
  ⟨h.part, h.pending, fun w => by unfold Memory.wf; rw [h.mem, h.scr]; exact w, h.regs⟩

theorem Same.refl (s : State) : Same s s := ⟨rfl, rfl, rfl, rfl, id⟩
theorem Keeps.refl (s : State) : Keeps s s := ⟨rfl, rfl, id, id⟩
theorem Same.ident (s : State) : Same s (id s) := Same.refl s
theorem Keeps.ident (s : State) : Keeps s (id s) := Keeps.refl s

theorem Same.after {s u v : State} (h : Same u v) (k : Same s u) : Same s v :=
  ⟨h.part.trans k.part, h.pending.trans k.pending, h.mem.trans k.mem, h.scr.trans k.scr, fun w => h.regs (k.regs w)⟩

theorem Keeps.after {s u v : State} (h : Keeps u v) (k : Keeps s u) : Keeps s v :=
  ⟨h.part.trans k.part, h.pending.trans k.pending, fun w => h.mem (k.mem w), fun w => h.regs (k.regs w)⟩

theorem Same.cut {s t : State} {G : Prop} (h : Same s t) (k : Same s t → G) : G := k h
theorem Keeps.cut {s t : State} {G : Prop} (h : Keeps s t) (k : Keeps s t → G) : G := k h

/-- A state that differs from `u` in other fields only. -/
theorem Same.base {s u : State}
    {v0 : List (Nat × Word)} {v1 : List (Nat × Word)} {v2 : Nat} {v3 : List (Nat × Nat)} {v4 : List (Nat × Nat)} {v5 :
    Nat} {v6 : Nat} {v7 : List Out} {v8 : Nat} {v9 : Nat} {v10 : Nat} {v11 : Nat} {v12 : List (Nat × QueueX)} {v13 : List
    (Nat × DescRun)} {v14 : Nat × Nat} {v15 : List (Nat × RingX)} {v16 : List (Nat × VecX)} {v17 : JnlX} {v18 : FltX} {v19
    : List (Nat × Nat)} {v20 : List (Nat × AxisX)} {v21 : Bool} {v22 : List (Nat × FlightX)} {v23 : List (Nat × AlcX)}
    {v24 : List (Nat × HallX)} {v25 : List StopRun} {v26 : List StartWait} {v27 : Nat} {v28 : List (Nat × ChX)} {v29 :
    List (Nat × PeHallX)} {v30 : List (Nat × BitVec 128)} {v31 : List (Nat × SmuX)} {v32 : List (Nat × GrpX)} {v33 : List
    (Nat × TdcX)} {v34 : List (Nat × SampleX)} {v35 : List (Nat × RegX)} {v36 : List (Nat × HseX)} {v37 : Bool} {v38 :
    Bool × Nat} {v39 : List (Nat × DigX)} {v40 : Nat} {v41 : RsX} {v42 : List (Nat × Word × Nat)} {v43 : List (Nat × Nat)}
    {v44 : List (Nat × Nat)} {v45 : List (Nat × Nat)} {v46 : Option Nat} {v47 : List (Nat × PeerX)} {v48 : GalX} {v49 :
    List (Nat × TtX)} {v50 : List AdmitX} {v51 : Bool} {v52 : ThermX} {v53 : CalX} {v54 : List (Nat × PortX)} {v55 : List
    Nat} {v56 : Option ReplayX} {v57 : BootX} {v58 : Option MspiFrame}
    (k : Same s u) : Same s { u with
    latch := v0, rdata := v1, cyc := v2, fresh := v3, freshN := v4, free := v5, dids := v6, out := v7, tb0 := v8, tb1 :=
    v9, tb2 := v10, tb0rem := v11, queues := v12, orphans := v13, lastQ := v14, rings := v15, vecs := v16, jnl := v17, flt
    := v18, evIn := v19, axis := v20, axzPend := v21, flights := v22, alcs := v23, halls := v24, stopRuns := v25,
    startRuns := v26, gtl := v27, chans := v28, peHalls := v29, levels := v30, smus := v31, grps := v32, tdcs := v33,
    samples := v34, regrs := v35, hses := v36, noref := v37, bspi := v38, digs := v39, acqEdge := v40, rs := v41, evOld :=
    v42, evLast := v43, evPulse := v44, tms := v45, norefEnd := v46, peers := v47, gal := v48, tts := v49, admits := v50,
    sdPend := v51, therm := v52, cal := v53, ports := v54, rbytes := v55, rpl := v56, boot := v57, mspi := v58 } :=
  Same.after (u := u) ⟨rfl, rfl, rfl, rfl, id⟩ k

theorem Keeps.base {s u : State}
    {v0 : List (Nat × Word)} {v1 : List (Nat × Word)} {v2 : Nat} {v3 : List (Nat × Nat)} {v4 : List (Nat × Nat)} {v5 :
    Nat} {v6 : Nat} {v7 : List Out} {v8 : Nat} {v9 : Nat} {v10 : Nat} {v11 : Nat} {v12 : List (Nat × QueueX)} {v13 : List
    (Nat × DescRun)} {v14 : Nat × Nat} {v15 : List (Nat × RingX)} {v16 : List (Nat × VecX)} {v17 : JnlX} {v18 : FltX} {v19
    : List (Nat × Nat)} {v20 : List (Nat × AxisX)} {v21 : Bool} {v22 : List (Nat × FlightX)} {v23 : List (Nat × AlcX)}
    {v24 : List (Nat × HallX)} {v25 : List StopRun} {v26 : List StartWait} {v27 : Nat} {v28 : List (Nat × ChX)} {v29 :
    List (Nat × PeHallX)} {v30 : List (Nat × BitVec 128)} {v31 : List (Nat × SmuX)} {v32 : List (Nat × GrpX)} {v33 : List
    (Nat × TdcX)} {v34 : List (Nat × SampleX)} {v35 : List (Nat × RegX)} {v36 : List (Nat × HseX)} {v37 : Bool} {v38 :
    Bool × Nat} {v39 : List (Nat × DigX)} {v40 : Nat} {v41 : RsX} {v42 : List (Nat × Word × Nat)} {v43 : List (Nat × Nat)}
    {v44 : List (Nat × Nat)} {v45 : List (Nat × Nat)} {v46 : Option Nat} {v47 : List (Nat × PeerX)} {v48 : GalX} {v49 :
    List (Nat × TtX)} {v50 : List AdmitX} {v51 : Bool} {v52 : ThermX} {v53 : CalX} {v54 : List (Nat × PortX)} {v55 : List
    Nat} {v56 : Option ReplayX} {v57 : BootX} {v58 : Option MspiFrame}
    (k : Keeps s u) : Keeps s { u with
    latch := v0, rdata := v1, cyc := v2, fresh := v3, freshN := v4, free := v5, dids := v6, out := v7, tb0 := v8, tb1 :=
    v9, tb2 := v10, tb0rem := v11, queues := v12, orphans := v13, lastQ := v14, rings := v15, vecs := v16, jnl := v17, flt
    := v18, evIn := v19, axis := v20, axzPend := v21, flights := v22, alcs := v23, halls := v24, stopRuns := v25,
    startRuns := v26, gtl := v27, chans := v28, peHalls := v29, levels := v30, smus := v31, grps := v32, tdcs := v33,
    samples := v34, regrs := v35, hses := v36, noref := v37, bspi := v38, digs := v39, acqEdge := v40, rs := v41, evOld :=
    v42, evLast := v43, evPulse := v44, tms := v45, norefEnd := v46, peers := v47, gal := v48, tts := v49, admits := v50,
    sdPend := v51, therm := v52, cal := v53, ports := v54, rbytes := v55, rpl := v56, boot := v57, mspi := v58 } :=
  Keeps.after (u := u) ⟨rfl, rfl, id, id⟩ k

theorem Same.pair1 {α : Type} {s t : State} {p : State × α} {x : α} (e : p = (t, x)) (h : Same s p.1) : Same s t := by
  subst e; exact h
theorem Same.pair2 {α : Type} {s t : State} {p : α × State} {x : α} (e : p = (x, t)) (h : Same s p.2) : Same s t := by
  subst e; exact h
theorem Same.pair3 {α β : Type} {s t : State} {p : α × β × State} {x : α} {y : β} (e : p = (x, y, t)) (h : Same s p.2.2) :
    Same s t := by subst e; exact h
theorem Same.pair4 {α β γ : Type} {s t : State} {p : α × β × γ × State} {x : α} {y : β} {w : γ} (e : p = (x, y, w, t))
    (h : Same s p.2.2.2) : Same s t := by subst e; exact h
theorem Keeps.pair1 {α : Type} {s t : State} {p : State × α} {x : α} (e : p = (t, x)) (h : Keeps s p.1) : Keeps s t := by
  subst e; exact h
theorem Keeps.pair2 {α : Type} {s t : State} {p : α × State} {x : α} (e : p = (x, t)) (h : Keeps s p.2) : Keeps s t := by
  subst e; exact h
theorem Keeps.pair3 {α β : Type} {s t : State} {p : α × β × State} {x : α} {y : β} (e : p = (x, y, t)) (h : Keeps s p.2.2) :
    Keeps s t := by subst e; exact h
theorem Keeps.pair4 {α β γ : Type} {s t : State} {p : α × β × γ × State} {x : α} {y : β} {w : γ} (e : p = (x, y, w, t))
    (h : Keeps s p.2.2.2) : Keeps s t := by subst e; exact h

theorem Same.ite {c : Prop} [Decidable c] {z a b : State} (h : Same z a) (k : Same z b) : Same z (if c then a else b) := by
  split
  · exact h
  · exact k
theorem Keeps.ite {c : Prop} [Decidable c] {z a b : State} (h : Keeps z a) (k : Keeps z b) : Keeps z (if c then a else b) := by
  split
  · exact h
  · exact k

/-- An outcome that is a next state with `Same`. -/
def RunsSame (s : State) (o : Host.Outcome State Fault Refusal) : Prop := ∃ t, o = .next t ∧ Same s t
/-- An outcome that is a next state with `Keeps`. -/
def RunsKeeps (s : State) (o : Host.Outcome State Fault Refusal) : Prop := ∃ t, o = .next t ∧ Keeps s t

theorem RunsSame.keeps {s : State} {o : Host.Outcome State Fault Refusal} (h : RunsSame s o) : RunsKeeps s o := by
  obtain ⟨t, e, k⟩ := h; exact ⟨t, e, k.keeps⟩

/-! ### The primitive writes and the combinators -/

theorem State.wr_same {z s : State} (k : Same z s) (a : Nat) (w : Word) : Same z (s.wr a w) :=
  Same.after (u := s) ⟨rfl, rfl, rfl, rfl, fun h => tabWf_set a w h⟩ k

theorem State.wr_keeps {z s : State} (k : Keeps z s) (a : Nat) (w : Word) : Keeps z (s.wr a w) :=
  (State.wr_same (.refl _) a w).keeps.after k

theorem State.wrByte_keeps {z s : State} (k : Keeps z s) (port a : Nat) (b : Byte) : Keeps z (s.wrByte port a b) :=
  Keeps.after (u := s) ⟨rfl, rfl, fun h => tabWf_set (memKey port a) b h, id⟩ k

theorem State.when_same {z s : State} {c : Bool} {f : State → State} (h : ∀ t, Same t (f t)) (k : Same z s) : Same z (s.when c f) := by
  unfold State.when; split
  · exact (h s).after k
  · exact k

theorem foldl_same {α : Type} {l : List α} {f : State → α → State} (h : ∀ t x, Same t (f t x)) {z s : State} (k : Same z s) :
    Same z (l.foldl f s) := by
  induction l generalizing s with
  | nil => exact k
  | cons x r ih => exact ih ((h s x).after k)

theorem State.over_same {α : Type} {z s : State} {l : List α} {f : α → State → State} (h : ∀ x t, Same t (f x t)) (k : Same z s) :
    Same z (s.over l f) := foldl_same (fun t x => h x t) k
theorem State.each_same {z s : State} {n : Nat} {f : Nat → State → State} (h : ∀ i t, Same t (f i t)) (k : Same z s) :
    Same z (s.each n f) := foldl_same (fun t x => h x t) k

theorem State.when_keeps {z s : State} {c : Bool} {f : State → State} (h : ∀ t, Keeps t (f t)) (k : Keeps z s) : Keeps z (s.when c f) := by
  unfold State.when; split
  · exact (h s).after k
  · exact k

theorem foldl_keeps {α : Type} {l : List α} {f : State → α → State} (h : ∀ t x, Keeps t (f t x)) {z s : State} (k : Keeps z s) :
    Keeps z (l.foldl f s) := by
  induction l generalizing s with
  | nil => exact k
  | cons x r ih => exact ih ((h s x).after k)

theorem State.over_keeps {α : Type} {z s : State} {l : List α} {f : α → State → State} (h : ∀ x t, Keeps t (f x t)) (k : Keeps z s) :
    Keeps z (s.over l f) := foldl_keeps (fun t x => h x t) k
theorem State.each_keeps {z s : State} {n : Nat} {f : Nat → State → State} (h : ∀ i t, Keeps t (f i t)) (k : Keeps z s) :
    Keeps z (s.each n f) := foldl_keeps (fun t x => h x t) k

theorem foldl_fst_same {α β : Type} {l : List α} {f : State × β → α → State × β} (h : ∀ p x, Same p.1 (f p x).1) {z : State}
    {p : State × β} (k : Same z p.1) : Same z (l.foldl f p).1 := by
  induction l generalizing p with
  | nil => exact k
  | cons x r ih => exact ih ((h p x).after k)

theorem foldl_snd_same {α β : Type} {l : List α} {f : β × State → α → β × State} (h : ∀ p x, Same p.2 (f p x).2) {z : State}
    {p : β × State} (k : Same z p.2) : Same z (l.foldl f p).2 := by
  induction l generalizing p with
  | nil => exact k
  | cons x r ih => exact ih ((h p x).after k)

theorem foldl_fst_keeps {α β : Type} {l : List α} {f : State × β → α → State × β} (h : ∀ p x, Keeps p.1 (f p x).1) {z : State}
    {p : State × β} (k : Keeps z p.1) : Keeps z (l.foldl f p).1 := by
  induction l generalizing p with
  | nil => exact k
  | cons x r ih => exact ih ((h p x).after k)

theorem foldl_snd_keeps {α β : Type} {l : List α} {f : β × State → α → β × State} (h : ∀ p x, Keeps p.2 (f p x).2) {z : State}
    {p : β × State} (k : Keeps z p.2) : Keeps z (l.foldl f p).2 := by
  induction l generalizing p with
  | nil => exact k
  | cons x r ih => exact ih ((h p x).after k)

end Sys2Proof.Machine
end

