-- ==== Sys2Proof/Laws/SameOps.lean ====
section
/-! SUPPORT. What the operations of Machine.Ops keep: the part, the queue, the canonical tables, and where they store no bulk
memory all of it. -/
set_option linter.unreachableTactic false
set_option linter.unusedTactic false
namespace Sys2Proof.Machine

theorem State.p_same {z s : State} (kz : Same z s) (f : FRef) (v : Nat) :
    Same z (State.p s f v) := by
  unfold State.p
  repeat' first
    | lift_lets -underBinder
    | (with_reducible first | assumption | exact Same.refl _ | apply Same.ite | apply State.wr_same)
theorem State.p_keeps {z s : State} (kz : Keeps z s) (f : FRef) (v : Nat) :
    Keeps z (State.p s f v) :=
  (State.p_same (.refl _) _ _).keeps.after kz

theorem State.set1_same {z s : State} (kz : Same z s) (f : FRef) :
    Same z (State.set1 s f) := by
  unfold State.set1
  repeat' first
    | lift_lets -underBinder
    | (intro x; refine Same.cut (s := z) (t := x) ?_ ?_; unfold x; clear x; rotate_left; intro _; clear_value x; rotate_right)
    | (with_reducible first | assumption | exact Same.refl _ | apply Same.ite | apply State.p_same)
    | (with_reducible apply Same.base; with_reducible assumption)
theorem State.set1_keeps {z s : State} (kz : Keeps z s) (f : FRef) :
    Keeps z (State.set1 s f) :=
  (State.set1_same (.refl _) _).keeps.after kz

theorem State.setBit_same {z s : State} (kz : Same z s) (f : FRef) (k : Nat) :
    Same z (State.setBit s f k) := by
  unfold State.setBit
  repeat' first
    | lift_lets -underBinder
    | (intro x; refine Same.cut (s := z) (t := x) ?_ ?_; unfold x; clear x; rotate_left; intro _; clear_value x; rotate_right)
    | (with_reducible first | assumption | exact Same.refl _ | apply Same.ite | apply State.p_same)
    | (with_reducible apply Same.base; with_reducible assumption)
theorem State.setBit_keeps {z s : State} (kz : Keeps z s) (f : FRef) (k : Nat) :
    Keeps z (State.setBit s f k) :=
  (State.setBit_same (.refl _) _ _).keeps.after kz

theorem State.clr_same {z s : State} (kz : Same z s) (f : FRef) :
    Same z (State.clr s f) := by
  unfold State.clr
  repeat' first
    | lift_lets -underBinder
    | (with_reducible first | assumption | exact Same.refl _ | apply Same.ite | apply State.p_same)
theorem State.clr_keeps {z s : State} (kz : Keeps z s) (f : FRef) :
    Keeps z (State.clr s f) :=
  (State.clr_same (.refl _) _).keeps.after kz

theorem State.pb_same {z s : State} (kz : Same z s) (f : FRef) (b : Bool) :
    Same z (State.pb s f b) := by
  unfold State.pb
  repeat' first
    | lift_lets -underBinder
    | (with_reducible first | assumption | exact Same.refl _ | apply Same.ite | apply State.p_same)
theorem State.pb_keeps {z s : State} (kz : Keeps z s) (f : FRef) (b : Bool) :
    Keeps z (State.pb s f b) :=
  (State.pb_same (.refl _) _ _).keeps.after kz

theorem State.count_same {z s : State} (kz : Same z s) (c sat : FRef) (n : Nat) :
    Same z (State.count s c sat n) := by
  unfold State.count
  repeat' first
    | lift_lets -underBinder
    | (intro x; refine Same.cut (s := z) (t := x) ?_ ?_; unfold x; clear x; rotate_left; intro _; clear_value x; rotate_right)
    | (with_reducible first
        | assumption | exact Same.refl _ | apply Same.ite | apply State.p_same | apply State.set1_same)
    | (with_reducible apply Same.base; with_reducible assumption)
theorem State.count_keeps {z s : State} (kz : Keeps z s) (c sat : FRef) (n : Nat) :
    Keeps z (State.count s c sat n) :=
  (State.count_same (.refl _) _ _ _).keeps.after kz

theorem State.wrMem_keeps {z s : State} (k : Keeps z s) (port a v n : Nat) : Keeps z (s.wrMem port a v n) := by
  induction n generalizing s a v with
  | zero => exact k
  | succ n ih => exact ih (State.wrByte_keeps k ..) ..

theorem find_filter_ne {l : List (Nat × Nat)} {p k : Nat} (h : k ≠ p) :
    (l.filter (fun e => e.1 != p)).find? (fun e => e.1 == k) = l.find? (fun e => e.1 == k) := by
  induction l with
  | nil => rfl
  | cons e r ih =>
    by_cases he : e.1 = p
    · have hk : (e.1 == k) = false := by simpa using fun x => h (x.symm.trans he)
      have hp : (e.1 != p) = false := by simpa using he
      simp only [List.filter, List.find?, hp, hk, ih]
    · have hp : (e.1 != p) = true := by simpa using he
      simp only [List.filter, hp, List.find?, ih]

theorem memDefault_filter {l : List (Nat × Nat)} {p k : Nat} (h : k / 2 ^ 32 ≠ p) :
    memDefault (l.filter (fun e => e.1 != p)) k = memDefault l k := by
  unfold memDefault; rw [find_filter_ne h]

theorem tabAbove_filter {α : Type} {k : Nat} {f : Nat × α → Bool} {m : List (Nat × α)} (h : tabAbove k m = true) :
    tabAbove k (m.filter f) = true := by
  induction m with
  | nil => rfl
  | cons e r ih =>
    obtain ⟨i, v⟩ := e
    simp only [tabAbove, Bool.and_eq_true, decide_eq_true_eq] at h
    simp only [List.filter]
    split
    · simp [tabAbove, h.1, ih h.2]
    · exact ih h.2

theorem tabWf_filter {α : Type} [DecidableEq α] {d d' : Nat → α} {f : Nat × α → Bool} {m : List (Nat × α)}
    (hd : ∀ e, f e = true → d' e.1 = d e.1) (h : tabWf d m = true) : tabWf d' (m.filter f) = true := by
  induction m with
  | nil => rfl
  | cons e r ih =>
    obtain ⟨i, v⟩ := e
    simp only [tabWf, Bool.and_eq_true, decide_eq_true_eq] at h
    simp only [List.filter]
    split
    · rename_i hf
      have e1 : d' i = d i := hd (i, v) hf
      simp [tabWf, tabAbove_filter h.1.1, ih h.2, e1, h.1.2]
    · exact ih h.2

theorem State.dropPort_keeps {z s : State} (k : Keeps z s) (port : Nat) : Keeps z (s.dropPort port) := by
  refine Keeps.after (u := s) ⟨rfl, rfl, fun h => ?_, id⟩ k
  unfold Memory.wf at h
  unfold Memory.wf State.dropPort
  refine tabWf_filter (fun e he => memDefault_filter ?_) h
  simpa using he

theorem State.wrBytes_keeps {z s : State} (k : Keeps z s) (port a : Nat) (l : List Nat) : Keeps z (s.wrBytes port a l) := by
  induction l generalizing s a with
  | nil => exact k
  | cons b r ih => exact ih (State.wrByte_keeps k ..) ..

theorem State.setPos_same {z s : State} (kz : Same z s) (h v : Nat) :
    Same z (State.setPos s h v) := by
  unfold State.setPos
  repeat' first
    | lift_lets -underBinder
    | (with_reducible first | assumption | exact Same.refl _ | apply Same.ite | apply State.p_same)
theorem State.setPos_keeps {z s : State} (kz : Keeps z s) (h v : Nat) :
    Keeps z (State.setPos s h v) :=
  (State.setPos_same (.refl _) _ _).keeps.after kz

theorem State.draw_same {z s : State} (kz : Same z s) (w : Nat) :
    Same z (State.draw s w).2 := by
  unfold State.draw
  repeat' first
    | lift_lets -underBinder
    | (with_reducible first | assumption | exact Same.refl _ | apply Same.ite)
    | (with_reducible apply Same.base; with_reducible assumption)
theorem State.draw_keeps {z s : State} (kz : Keeps z s) (w : Nat) :
    Keeps z (State.draw s w).2 :=
  (State.draw_same (.refl _) _).keeps.after kz

theorem State.send_same {z s : State} (kz : Same z s) (o : Out) :
    Same z (State.send s o) := by
  unfold State.send
  repeat' first
    | lift_lets -underBinder
    | (with_reducible first | assumption | exact Same.refl _ | apply Same.ite)
    | (with_reducible apply Same.base; with_reducible assumption)
theorem State.send_keeps {z s : State} (kz : Keeps z s) (o : Out) :
    Keeps z (State.send s o) :=
  (State.send_same (.refl _) _).keeps.after kz

theorem State.setVec_same {z s : State} (kz : Same z s) (v : Nat) (x : VecX) :
    Same z (State.setVec s v x) := by
  unfold State.setVec
  repeat' first
    | lift_lets -underBinder
    | (with_reducible first | assumption | exact Same.refl _ | apply Same.ite)
    | (with_reducible apply Same.base; with_reducible assumption)
theorem State.setVec_keeps {z s : State} (kz : Keeps z s) (v : Nat) (x : VecX) :
    Keeps z (State.setVec s v x) :=
  (State.setVec_same (.refl _) _ _).keeps.after kz

theorem State.vecCount_same {z s : State} (kz : Same z s) (v n : Nat) (now : Bool) :
    Same z (State.vecCount s v n now) := by
  unfold State.vecCount
  repeat' first
    | lift_lets -underBinder
    | (intro x; clear_value x)
    | (with_reducible first | assumption | exact Same.refl _ | apply Same.ite | apply State.setVec_same)
theorem State.vecCount_keeps {z s : State} (kz : Keeps z s) (v n : Nat) (now : Bool) :
    Keeps z (State.vecCount s v n now) :=
  (State.vecCount_same (.refl _) _ _ _).keeps.after kz

theorem State.vecFire_same {z s : State} (kz : Same z s) (v : Nat) :
    Same z (State.vecFire s v) := by
  unfold State.vecFire
  repeat' first
    | lift_lets -underBinder
    | (intro x; clear_value x)
    | (with_reducible first
        | assumption | exact Same.refl _ | apply Same.ite | apply State.setVec_same | apply State.send_same)
theorem State.vecFire_keeps {z s : State} (kz : Keeps z s) (v : Nat) :
    Keeps z (State.vecFire s v) :=
  (State.vecFire_same (.refl _) _).keeps.after kz

theorem State.emit_same {z s : State} (kz : Same z s) (i : Nat) :
    Same z (State.emit s i) := by
  unfold State.emit
  repeat' first
    | lift_lets -underBinder
    | (with_reducible first | assumption | exact Same.refl _ | apply Same.ite)
    | (with_reducible apply Same.base; with_reducible assumption)
theorem State.emit_keeps {z s : State} (kz : Keeps z s) (i : Nat) :
    Keeps z (State.emit s i) :=
  (State.emit_same (.refl _) _).keeps.after kz

theorem State.raise_same {z s : State} (kz : Same z s) (i detail : Nat) (alcs : List Nat) :
    Same z (State.raise s i detail alcs) := by
  unfold State.raise
  repeat' first
    | lift_lets -underBinder
    | (intro x; clear_value x)
    | (with_reducible first | assumption | exact Same.refl _ | apply Same.ite)
    | (with_reducible apply Same.base; with_reducible assumption)
theorem State.raise_keeps {z s : State} (kz : Keeps z s) (i detail : Nat) (alcs : List Nat) :
    Keeps z (State.raise s i detail alcs) :=
  (State.raise_same (.refl _) _ _ _).keeps.after kz

theorem State.raiseLevel_same {z s : State} (kz : Same z s) (i detail : Nat) :
    Same z (State.raiseLevel s i detail) := by
  unfold State.raiseLevel
  repeat' first
    | lift_lets -underBinder
    | (with_reducible first
        | assumption | exact Same.refl _ | apply Same.ite | apply State.raise_same | apply State.set1_same)
theorem State.raiseLevel_keeps {z s : State} (kz : Keeps z s) (i detail : Nat) :
    Keeps z (State.raiseLevel s i detail) :=
  (State.raiseLevel_same (.refl _) _ _).keeps.after kz

theorem State.unraise_same {z s : State} (kz : Same z s) (i : Nat) :
    Same z (State.unraise s i) := by
  unfold State.unraise
  repeat' first
    | lift_lets -underBinder
    | (with_reducible first | assumption | exact Same.refl _ | apply Same.ite | apply State.clr_same)
theorem State.unraise_keeps {z s : State} (kz : Keeps z s) (i : Nat) :
    Keeps z (State.unraise s i) :=
  (State.unraise_same (.refl _) _).keeps.after kz

theorem State.setRing_same {z s : State} (kz : Same z s) (r : Nat) (x : RingX) :
    Same z (State.setRing s r x) := by
  unfold State.setRing
  repeat' first
    | lift_lets -underBinder
    | (with_reducible first | assumption | exact Same.refl _ | apply Same.ite)
    | (with_reducible apply Same.base; with_reducible assumption)
theorem State.setRing_keeps {z s : State} (kz : Keeps z s) (r : Nat) (x : RingX) :
    Keeps z (State.setRing s r x) :=
  (State.setRing_same (.refl _) _ _).keeps.after kz

theorem State.ringFlags_same {z s : State} (kz : Same z s) (r : Nat) :
    Same z (State.ringFlags s r) := by
  unfold State.ringFlags
  repeat' first
    | lift_lets -underBinder
    | (intro x; clear_value x)
    | (with_reducible first
        | assumption | exact Same.refl _ | apply Same.ite | apply State.pb_same
        | (apply State.when_same; intro z; rotate_left; rotate_right) | apply State.set1_same)
theorem State.ringFlags_keeps {z s : State} (kz : Keeps z s) (r : Nat) :
    Keeps z (State.ringFlags s r) :=
  (State.ringFlags_same (.refl _) _).keeps.after kz

theorem State.ringPut_same {z s : State} (kz : Same z s) (r : Nat) (rec : RingRec) :
    Same z (State.ringPut s r rec) := by
  unfold State.ringPut
  repeat' first
    | lift_lets -underBinder
    | (intro x; clear_value x)
    | (with_reducible first
        | assumption | exact Same.refl _ | apply Same.ite | apply State.setRing_same | apply State.ringFlags_same)
theorem State.ringPut_keeps {z s : State} (kz : Keeps z s) (r : Nat) (rec : RingRec) :
    Keeps z (State.ringPut s r rec) :=
  (State.ringPut_same (.refl _) _ _).keeps.after kz

theorem State.rsPut_same {z s : State} (kz : Same z s) (rec : RingRec) :
    Same z (State.rsPut s rec) := by
  unfold State.rsPut
  repeat' first
    | lift_lets -underBinder
    | (intro x; clear_value x)
    | (with_reducible first | assumption | exact Same.refl _ | apply Same.ite | apply State.ringFlags_same)
    | (with_reducible apply Same.base; with_reducible assumption)
theorem State.rsPut_keeps {z s : State} (kz : Keeps z s) (rec : RingRec) :
    Keeps z (State.rsPut s rec) :=
  (State.rsPut_same (.refl _) _).keeps.after kz

theorem State.dropsOut_same {z s : State} (kz : Same z s) (r : Nat) :
    Same z (State.dropsOut s r) := by
  unfold State.dropsOut
  repeat' first
    | lift_lets -underBinder
    | (intro x; clear_value x)
    | (with_reducible first | assumption | exact Same.refl _ | apply Same.ite | apply State.setRing_same)
    | (with_reducible apply Same.base; with_reducible first
        | assumption | exact Same.refl _ | apply Same.ite | apply State.setRing_same)
    | split
theorem State.dropsOut_keeps {z s : State} (kz : Keeps z s) (r : Nat) :
    Keeps z (State.dropsOut s r) :=
  (State.dropsOut_same (.refl _) _).keeps.after kz

theorem State.ringMarker_same {z s : State} (kz : Same z s) (which : List Nat) (typ h axis tb0 : Nat) :
    Same z (State.ringMarker s which typ h axis tb0) := by
  unfold State.ringMarker
  repeat' first
    | lift_lets -underBinder
    | (intro x; clear_value x)
    | (with_reducible first
        | assumption | exact Same.refl _ | apply Same.ite
        | (apply State.over_same; intro _ z; rotate_left; rotate_right) | apply State.dropsOut_same
        | apply State.rsPut_same | apply State.ringPut_same)
theorem State.ringMarker_keeps {z s : State} (kz : Keeps z s) (which : List Nat) (typ h axis tb0 : Nat) :
    Keeps z (State.ringMarker s which typ h axis tb0) :=
  (State.ringMarker_same (.refl _) _ _ _ _ _).keeps.after kz

theorem State.setFifo_same {z s : State} (kz : Same z s) (l : List JRec) :
    Same z (State.setFifo s l) := by
  unfold State.setFifo
  repeat' first
    | lift_lets -underBinder
    | (intro x; clear_value x)
    | (with_reducible first | assumption | exact Same.refl _ | apply Same.ite | apply State.p_same)
    | (with_reducible apply Same.base; with_reducible assumption)
theorem State.setFifo_keeps {z s : State} (kz : Keeps z s) (l : List JRec) :
    Keeps z (State.setFifo s l) :=
  (State.setFifo_same (.refl _) _).keeps.after kz

theorem State.seqAdd_same {z s : State} (kz : Same z s) (n : Nat) :
    Same z (State.seqAdd s n) := by
  unfold State.seqAdd
  repeat' first
    | lift_lets -underBinder
    | (with_reducible first | assumption | exact Same.refl _ | apply Same.ite | apply State.p_same)
theorem State.seqAdd_keeps {z s : State} (kz : Keeps z s) (n : Nat) :
    Keeps z (State.seqAdd s n) :=
  (State.seqAdd_same (.refl _) _).keeps.after kz

theorem State.jforce_same {z s : State} (kz : Same z s) (rs : List JRec) :
    Same z (State.jforce s rs) := by
  unfold State.jforce
  repeat' first
    | lift_lets -underBinder
    | (intro x; refine Same.cut (s := z) (t := x) ?_ ?_; unfold x; clear x; rotate_left; intro _; clear_value x; rotate_right)
    | (intro x; clear_value x)
    | (with_reducible first
        | assumption | exact Same.refl _ | apply Same.ite | apply fence_same | apply State.setFifo_same
        | apply State.seqAdd_same | apply State.ringFlags_same | apply State.count_same)
    | (with_reducible apply Same.base; with_reducible assumption)
theorem State.jforce_keeps {z s : State} (kz : Keeps z s) (rs : List JRec) :
    Keeps z (State.jforce s rs) :=
  (State.jforce_same (.refl _) _).keeps.after kz

theorem State.jput_same {z s : State} (kz : Same z s) (rs : List JRec) :
    Same z (State.jput s rs) := by
  unfold State.jput
  repeat' first
    | lift_lets -underBinder
    | (with_reducible first | assumption | exact Same.refl _ | apply Same.ite | apply State.jforce_same)
theorem State.jput_keeps {z s : State} (kz : Keeps z s) (rs : List JRec) :
    Keeps z (State.jput s rs) :=
  (State.jput_same (.refl _) _).keeps.after kz

theorem State.j_same {z s : State} (kz : Same z s) (typ h subj arg data : Nat) :
    Same z (State.j s typ h subj arg data) := by
  unfold State.j
  repeat' first
    | lift_lets -underBinder
    | (with_reducible first | assumption | exact Same.refl _ | apply Same.ite | apply State.jput_same)
theorem State.j_keeps {z s : State} (kz : Keeps z s) (typ h subj arg data : Nat) :
    Keeps z (State.j s typ h subj arg data) :=
  (State.j_same (.refl _) _ _ _ _ _).keeps.after kz

theorem State.jAxis_same {z s : State} (kz : Same z s) (h arg slot treads : Nat) :
    Same z (State.jAxis s h arg slot treads) := by
  unfold State.jAxis
  repeat' first
    | lift_lets -underBinder
    | (with_reducible first | assumption | exact Same.refl _ | apply Same.ite | apply State.j_same)
theorem State.jAxis_keeps {z s : State} (kz : Keeps z s) (h arg slot treads : Nat) :
    Keeps z (State.jAxis s h arg slot treads) :=
  (State.jAxis_same (.refl _) _ _ _ _).keeps.after kz

theorem State.setQueue_same {z s : State} (kz : Same z s) (q : Nat) (x : QueueX) :
    Same z (State.setQueue s q x) := by
  unfold State.setQueue
  repeat' first
    | lift_lets -underBinder
    | (with_reducible first | assumption | exact Same.refl _ | apply Same.ite)
    | (with_reducible apply Same.base; with_reducible assumption)
theorem State.setQueue_keeps {z s : State} (kz : Keeps z s) (q : Nat) (x : QueueX) :
    Keeps z (State.setQueue s q x) :=
  (State.setQueue_same (.refl _) _ _).keeps.after kz

theorem State.complete_same {z s : State} (kz : Same z s) (did : Nat) (st : Status) (res : List (Nat × Nat × Nat)) :
    Same z (State.complete s did st res) := by
  unfold State.complete
  repeat' first
    | lift_lets -underBinder
    | (intro x; clear_value x)
    | (with_reducible first | assumption | exact Same.refl _ | apply Same.ite | apply State.setQueue_same)
    | (with_reducible apply Same.base; with_reducible first
        | assumption | exact Same.refl _ | apply Same.ite | apply State.setQueue_same)
    | split
theorem State.complete_keeps {z s : State} (kz : Keeps z s) (did : Nat) (st : Status) (res : List (Nat × Nat × Nat)) :
    Keeps z (State.complete s did st res) :=
  (State.complete_same (.refl _) _ _ _).keeps.after kz

theorem State.lastErr_same {z s : State} (kz : Same z s) (q cause qpos : Nat) :
    Same z (State.lastErr s q cause qpos) := by
  unfold State.lastErr
  repeat' first
    | lift_lets -underBinder
    | (with_reducible first | assumption | exact Same.refl _ | apply Same.ite | apply State.p_same)
theorem State.lastErr_keeps {z s : State} (kz : Keeps z s) (q cause qpos : Nat) :
    Keeps z (State.lastErr s q cause qpos) :=
  (State.lastErr_same (.refl _) _ _ _).keeps.after kz

theorem State.setActed_same {z s : State} (kz : Same z s) (q did : Nat) :
    Same z (State.setActed s q did) := by
  unfold State.setActed
  repeat' first
    | lift_lets -underBinder
    | (intro x; refine Same.cut (s := z) (t := x) ?_ ?_; unfold x; clear x; rotate_left; intro _; clear_value x; rotate_right)
    | (intro x; clear_value x)
    | (with_reducible first | assumption | exact Same.refl _ | apply Same.ite | apply State.setQueue_same)
    | (with_reducible apply Same.base; with_reducible assumption)
theorem State.setActed_keeps {z s : State} (kz : Keeps z s) (q did : Nat) :
    Keeps z (State.setActed s q did) :=
  (State.setActed_same (.refl _) _ _).keeps.after kz

theorem State.withDesc_same {f : DescRun → State → State} {z s : State} (hf : ∀ a0 t, Same t (f a0 t)) (kz : Same z s) (q op : Nat) :
    Same z (State.withDesc s q op f) := by
  unfold State.withDesc
  repeat' first
    | lift_lets -underBinder
    | (with_reducible first
        | assumption | exact Same.refl _ | apply Same.ite | refine Same.after (hf ..) ?_ | apply State.setActed_same)
    | (with_reducible apply Same.base; with_reducible first
        | assumption | exact Same.refl _ | apply Same.ite | refine Same.after (hf ..) ?_ | apply State.setActed_same)
    | split

theorem State.withDesc_keeps {f : DescRun → State → State} {z s : State} (hf : ∀ a0 t, Keeps t (f a0 t)) (kz : Keeps z s) (q op : Nat) :
    Keeps z (State.withDesc s q op f) := by
  unfold State.withDesc
  repeat' first
    | lift_lets -underBinder
    | (with_reducible first
        | assumption | exact Keeps.refl _ | apply Keeps.ite | refine Keeps.after (hf ..) ?_
        | apply State.setActed_keeps)
    | (with_reducible apply Keeps.base; with_reducible first
        | assumption | exact Keeps.refl _ | apply Keeps.ite | refine Keeps.after (hf ..) ?_
        | apply State.setActed_keeps)
    | split

theorem State.withActed_same {f : DescRun → State → State} {z s : State} (hf : ∀ a0 t, Same t (f a0 t)) (kz : Same z s) (q op : Nat) :
    Same z (State.withActed s q op f) := by
  unfold State.withActed
  repeat' first
    | lift_lets -underBinder
    | (with_reducible first | assumption | exact Same.refl _ | apply Same.ite | refine Same.after (hf ..) ?_)
    | (with_reducible apply Same.base; with_reducible first
        | assumption | exact Same.refl _ | apply Same.ite | refine Same.after (hf ..) ?_)
    | split

theorem State.withActed_keeps {f : DescRun → State → State} {z s : State} (hf : ∀ a0 t, Keeps t (f a0 t)) (kz : Keeps z s) (q op : Nat) :
    Keeps z (State.withActed s q op f) := by
  unfold State.withActed
  repeat' first
    | lift_lets -underBinder
    | (with_reducible first | assumption | exact Keeps.refl _ | apply Keeps.ite | refine Keeps.after (hf ..) ?_)
    | (with_reducible apply Keeps.base; with_reducible first
        | assumption | exact Keeps.refl _ | apply Keeps.ite | refine Keeps.after (hf ..) ?_)
    | split

theorem State.byHost_keeps {f : State → State} {z s : State} (hf : ∀ t, Keeps t (f t)) (kz : Keeps z s) : Keeps z (s.byHost f) :=
  Keeps.base ((hf s).after kz)

theorem State.byHost_same {f : State → State} {z s : State} (hf : ∀ t, Same t (f t)) (kz : Same z s) : Same z (s.byHost f) :=
  Same.base ((hf s).after kz)


theorem State.hostTh_keeps {f : State → State} {z s : State} (hf : ∀ t, Keeps t (f t)) (kz : Keeps z s) : Keeps z (s.hostTh f) := by
  unfold State.hostTh
  split
  · exact State.byHost_keeps hf kz
  · exact kz

theorem State.hostTh_same {f : State → State} {z s : State} (hf : ∀ t, Same t (f t)) (kz : Same z s) : Same z (s.hostTh f) := by
  unfold State.hostTh
  split
  · exact State.byHost_same hf kz
  · exact kz


theorem State.host_keeps {f : State → State} {z s : State} (hf : ∀ t, Keeps t (f t)) (kz : Keeps z s) : Keeps z (s.host f) := by
  unfold State.host
  split
  · exact kz
  · refine State.byHost_keeps (fun t => ?_) kz
    split
    · exact hf t
    · exact State.set1_keeps (.refl _) ..

theorem State.host_same {f : State → State} {z s : State} (hf : ∀ t, Same t (f t)) (kz : Same z s) : Same z (s.host f) := by
  unfold State.host
  split
  · exact kz
  · refine State.byHost_same (fun t => ?_) kz
    split
    · exact hf t
    · exact State.set1_same (.refl _) ..


theorem State.cfgWr_same {z s : State} (kz : Same z s) (a : Nat) (w : Word) :
    Same z (State.cfgWr s a w) := by
  unfold State.cfgWr
  repeat' first
    | lift_lets -underBinder
    | (with_reducible first
        | assumption | exact Same.refl _ | apply Same.ite | apply State.wr_same
        | (apply State.when_same; intro z; rotate_left; rotate_right) | apply State.j_same)
theorem State.cfgWr_keeps {z s : State} (kz : Keeps z s) (a : Nat) (w : Word) :
    Keeps z (State.cfgWr s a w) :=
  (State.cfgWr_same (.refl _) _ _).keeps.after kz

end Sys2Proof.Machine
end

