-- ==== Sys2Proof/Laws/SameAxis.lean ====
section
/-! SUPPORT. What the operations of Machine.Axis keep: the part, the queue, the canonical tables, and where they store no bulk
memory all of it. -/
set_option linter.unreachableTactic false
set_option linter.unusedTactic false
namespace Sys2Proof.Machine

theorem State.setAx_same {z s : State} (kz : Same z s) (h : Nat) (x : AxisX) :
    Same z (State.setAx s h x) := by
  unfold State.setAx
  repeat' first
    | lift_lets -underBinder
    | (with_reducible first | assumption | exact Same.refl _ | apply Same.ite)
    | (with_reducible apply Same.base; with_reducible assumption)
theorem State.setAx_keeps {z s : State} (kz : Keeps z s) (h : Nat) (x : AxisX) :
    Keeps z (State.setAx s h x) :=
  (State.setAx_same (.refl _) _ _).keeps.after kz

theorem State.bwUpdate_same {z s : State} (kz : Same z s) (h : Nat) :
    Same z (State.bwUpdate s h) := by
  unfold State.bwUpdate
  repeat' first
    | lift_lets -underBinder
    | (with_reducible first | assumption | exact Same.refl _ | apply Same.ite | apply State.p_same)
theorem State.bwUpdate_keeps {z s : State} (kz : Keeps z s) (h : Nat) :
    Keeps z (State.bwUpdate s h) :=
  (State.bwUpdate_same (.refl _) _).keeps.after kz

theorem axisCtlWrite_same {z s : State} (kz : Same z s) (h : Nat) (v : Word) :
    Same z (axisCtlWrite h v s) := by
  unfold axisCtlWrite
  repeat' first
    | lift_lets -underBinder
    | (intro x; refine Same.cut (s := z) (t := x) ?_ ?_; unfold x; clear x; rotate_left; intro _; clear_value x; rotate_right)
    | (intro x; clear_value x)
    | (with_reducible first
        | assumption | exact Same.refl _ | apply Same.ite
        | (apply State.when_same; intro z; rotate_left; rotate_right) | apply State.set1_same | apply State.cfgWr_same
        | apply State.clr_same | apply State.p_same | apply State.bwUpdate_same | apply State.setAx_same)
theorem axisCtlWrite_keeps {z s : State} (kz : Keeps z s) (h : Nat) (v : Word) :
    Keeps z (axisCtlWrite h v s) :=
  (axisCtlWrite_same (.refl _) _ _).keeps.after kz

theorem execAxisEnable_same {z : State} (h : Nat) (v : Word) : RunsSame z (execAxisEnable h v z) := by
  refine ⟨_, rfl, ?_⟩
  repeat' first
    | lift_lets -underBinder
    | (with_reducible first
        | assumption | exact Same.refl _ | apply Same.ite
        | (apply State.host_same; intro z; rotate_left; rotate_right) | apply axisCtlWrite_same)

theorem execAxisDisable_same {z : State} (h : Nat) (v : Word) : RunsSame z (execAxisDisable h v z) := by
  refine ⟨_, rfl, ?_⟩
  repeat' first
    | lift_lets -underBinder
    | (with_reducible first
        | assumption | exact Same.refl _ | apply Same.ite
        | (apply State.host_same; intro z; rotate_left; rotate_right) | apply axisCtlWrite_same)

theorem execAxisZero_same {z : State} (h : Nat) : RunsSame z (execAxisZero h z) := by
  refine ⟨_, rfl, ?_⟩
  repeat' first
    | lift_lets -underBinder
    | (with_reducible first
        | assumption | exact Same.refl _ | apply Same.ite
        | (apply State.host_same; intro z; rotate_left; rotate_right) | apply axisCtlWrite_same)

theorem execAxisCtlWrite_same {z : State} (h : Nat) (v : Word) : RunsSame z (execAxisCtlWrite h v z) := by
  refine ⟨_, rfl, ?_⟩
  repeat' first
    | lift_lets -underBinder
    | (with_reducible first
        | assumption | exact Same.refl _ | apply Same.ite
        | (apply State.host_same; intro z; rotate_left; rotate_right) | apply axisCtlWrite_same)

theorem axisLocks_same {z s : State} (kz : Same z s) (h freq : Nat) :
    Same z (axisLocks h freq s) := by
  unfold axisLocks
  repeat' first
    | lift_lets -underBinder
    | (intro x; refine Same.cut (s := z) (t := x) ?_ ?_; unfold x; clear x; rotate_left; intro _; clear_value x; rotate_right)
    | (intro x; clear_value x)
    | (with_reducible first
        | assumption | exact Same.refl _ | apply Same.ite | apply State.p_same | apply State.bwUpdate_same
        | apply State.setAx_same | apply State.emit_same | apply State.jAxis_same)
theorem axisLocks_keeps {z s : State} (kz : Keeps z s) (h freq : Nat) :
    Keeps z (axisLocks h freq s) :=
  (axisLocks_same (.refl _) _ _).keeps.after kz

theorem execAxisLock_same {z : State} (h freq : Nat) : RunsSame z (execAxisLock h freq z) := by
  refine ⟨_, rfl, ?_⟩
  repeat' first
    | lift_lets -underBinder
    | (intro x; clear_value x)
    | (with_reducible first
        | assumption | exact Same.refl _ | apply Same.ite | apply axisLocks_same | apply State.setAx_same
        | apply State.p_same)

theorem axisLose_same {z s : State} (kz : Same z s) (h cause : Nat) :
    Same z (axisLose h cause s) := by
  unfold axisLose
  repeat' first
    | lift_lets -underBinder
    | (intro x; refine Same.cut (s := z) (t := x) ?_ ?_; unfold x; clear x; rotate_left; intro _; clear_value x; rotate_right)
    | (intro x; clear_value x)
    | (with_reducible first
        | assumption | exact Same.refl _ | apply Same.ite
        | (apply State.when_same; intro z; rotate_left; rotate_right) | apply State.setBit_same | apply State.p_same
        | apply State.set1_same | apply State.clr_same | apply State.setAx_same | apply State.emit_same
        | apply State.raise_same | apply State.jAxis_same)
theorem axisLose_keeps {z s : State} (kz : Keeps z s) (h cause : Nat) :
    Keeps z (axisLose h cause s) :=
  (axisLose_same (.refl _) _ _).keeps.after kz

theorem execAxisLoss_same {z : State} (h cause : Nat) : RunsSame z (execAxisLoss h cause z) := by
  refine ⟨_, rfl, ?_⟩
  repeat' first
    | lift_lets -underBinder
    | (with_reducible first | assumption | exact Same.refl _ | apply Same.ite | apply axisLose_same)

theorem execHoldoverExit_same {z : State} (h freq edge : Nat) : RunsSame z (execHoldoverExit h freq edge z) := by
  refine ⟨_, rfl, ?_⟩
  repeat' first
    | lift_lets -underBinder
    | (intro x; clear_value x)
    | (with_reducible first
        | assumption | exact Same.refl _ | apply Same.ite | apply axisLocks_same | apply State.setAx_same
        | apply State.p_same)

theorem axisWrapMark_same {z s : State} (kz : Same z s) (h : Nat) :
    Same z (axisWrapMark h s) := by
  unfold axisWrapMark
  repeat' first
    | lift_lets -underBinder
    | (with_reducible first
        | assumption | exact Same.refl _ | apply Same.ite | apply State.ringMarker_same | apply State.j_same)
theorem axisWrapMark_keeps {z s : State} (kz : Keeps z s) (h : Nat) :
    Keeps z (axisWrapMark h s) :=
  (axisWrapMark_same (.refl _) _).keeps.after kz

theorem followTread_same {z s : State} (kz : Same z s) (h : Nat) :
    Same z (followTread h s) := by
  unfold followTread
  repeat' first
    | lift_lets -underBinder
    | (intro x; refine Same.cut (s := z) (t := x) ?_ ?_; unfold x; clear x; rotate_left; intro _; clear_value x; rotate_right)
    | (intro x; clear_value x)
    | (with_reducible first
        | assumption | exact Same.refl _ | apply Same.ite | apply State.count_same | apply State.p_same
        | apply State.bwUpdate_same | apply State.setAx_same)
theorem followTread_keeps {z s : State} (kz : Keeps z s) (h : Nat) :
    Keeps z (followTread h s) :=
  (followTread_same (.refl _) _).keeps.after kz

theorem axisTread_same {z s : State} (kz : Same z s) (h : Nat) :
    Same z (axisTread h s) := by
  unfold axisTread
  repeat' first
    | lift_lets -underBinder
    | (intro x; refine Same.cut (s := z) (t := x) ?_ ?_; unfold x; clear x; rotate_left; intro _; clear_value x; rotate_right)
    | (intro x; clear_value x)
    | (with_reducible first
        | assumption | exact Same.refl _ | apply Same.ite | apply State.setAx_same
        | (apply State.when_same; intro z; rotate_left; rotate_right) | apply followTread_same
        | apply State.setPos_same | apply axisWrapMark_same)
theorem axisTread_keeps {z s : State} (kz : Keeps z s) (h : Nat) :
    Keeps z (axisTread h s) :=
  (axisTread_same (.refl _) _).keeps.after kz

theorem samplePass_same {z s : State} (kz : Same z s) (h n : Nat) :
    Same z (samplePass h n s) := by
  unfold samplePass
  repeat' first
    | lift_lets -underBinder
    | (intro x; clear_value x)
    | (with_reducible first | assumption | exact Same.refl _ | apply Same.ite | apply State.setAx_same)
theorem samplePass_keeps {z s : State} (kz : Keeps z s) (h n : Nat) :
    Keeps z (samplePass h n s) :=
  (samplePass_same (.refl _) _ _).keeps.after kz

theorem ratioWrite_same {z s : State} (kz : Same z s) (h k : Nat) (isN : Bool) (v : Word) :
    Same z (ratioWrite h k isN v s) := by
  unfold ratioWrite
  repeat' first
    | lift_lets -underBinder
    | (intro x; clear_value x)
    | (with_reducible first
        | assumption | exact Same.refl _ | apply Same.ite
        | (apply State.when_same; intro z; rotate_left; rotate_right) | apply State.set1_same | apply State.cfgWr_same
        | apply State.jAxis_same)
theorem ratioWrite_keeps {z s : State} (kz : Keeps z s) (h k : Nat) (isN : Bool) (v : Word) :
    Keeps z (ratioWrite h k isN v s) :=
  (ratioWrite_same (.refl _) _ _ _ _).keeps.after kz

theorem execRatioWrite_same {z : State} (h k : Nat) (isN : Bool) (v : Word) : RunsSame z (execRatioWrite h k isN v z) := by
  refine ⟨_, rfl, ?_⟩
  repeat' first
    | lift_lets -underBinder
    | (with_reducible first
        | assumption | exact Same.refl _ | apply Same.ite
        | (apply State.host_same; intro z; rotate_left; rotate_right) | apply ratioWrite_same)

theorem setArmed_same {z s : State} (kz : Same z s) (h : Nat) (b : Bool) :
    Same z (setArmed h b s) := by
  unfold setArmed
  repeat' first
    | lift_lets -underBinder
    | (with_reducible first | assumption | exact Same.refl _ | apply Same.ite | apply State.pb_same)
theorem setArmed_keeps {z s : State} (kz : Keeps z s) (h : Nat) (b : Bool) :
    Keeps z (setArmed h b s) :=
  (setArmed_same (.refl _) _ _).keeps.after kz

theorem slotUse_same {z s : State} (kz : Same z s) (h k : Nat) :
    Same z (slotUse h k s) := by
  unfold slotUse
  repeat' first
    | lift_lets -underBinder
    | (intro x; clear_value x)
    | (with_reducible first
        | assumption | exact Same.refl _ | apply Same.ite | apply State.p_same | apply State.setAx_same)
theorem slotUse_keeps {z s : State} (kz : Keeps z s) (h k : Nat) :
    Keeps z (slotUse h k s) :=
  (slotUse_same (.refl _) _ _).keeps.after kz

theorem rplRatio_same {z s : State} (kz : Same z s) (h arg slot : Nat) :
    Same z (rplRatio h arg slot s) := by
  unfold rplRatio
  repeat' first
    | lift_lets -underBinder
    | (with_reducible first
        | assumption | exact Same.refl _ | apply Same.ite | apply slotUse_same | apply State.set1_same)
theorem rplRatio_keeps {z s : State} (kz : Keeps z s) (h arg slot : Nat) :
    Keeps z (rplRatio h arg slot s) :=
  (rplRatio_same (.refl _) _ _ _).keeps.after kz

theorem rplRatios_same {z s : State} (kz : Same z s) (h : Nat) :
    Same z (rplRatios h s) := by
  unfold rplRatios
  repeat' first
    | lift_lets -underBinder
    | (intro x; clear_value x)
    | (with_reducible first
        | assumption | exact Same.refl _ | apply Same.ite
        | (apply State.over_same; intro _ z; rotate_left; rotate_right) | apply rplRatio_same)
    | (with_reducible apply Same.base; with_reducible first
        | assumption | exact Same.refl _ | apply Same.ite | apply rplRatio_same)
    | split
theorem rplRatios_keeps {z s : State} (kz : Keeps z s) (h : Nat) :
    Keeps z (rplRatios h s) :=
  (rplRatios_same (.refl _) _).keeps.after kz

theorem ratioApply_same {z s : State} (kz : Same z s) (h : Nat) (slot : Option Nat) (phase : Option Int) :
    Same z (ratioApply h slot phase s) := by
  unfold ratioApply
  repeat' first
    | lift_lets -underBinder
    | (intro x; refine Same.cut (s := z) (t := x) ?_ ?_; unfold x; clear x; rotate_left; intro _; clear_value x; rotate_right)
    | (intro x; clear_value x)
    | (with_reducible first
        | assumption | exact Same.refl _ | apply Same.ite | apply slotUse_same | apply State.setAx_same
        | apply State.jAxis_same | apply State.set1_same)
    | (with_reducible apply Same.base; with_reducible first
        | assumption | exact Same.refl _ | apply Same.ite | apply slotUse_same | apply State.setAx_same
        | apply State.jAxis_same | apply State.set1_same)
    | split
theorem ratioApply_keeps {z s : State} (kz : Keeps z s) (h : Nat) (slot : Option Nat) (phase : Option Int) :
    Keeps z (ratioApply h slot phase s) :=
  (ratioApply_same (.refl _) _ _ _).keeps.after kz

theorem stageApply_same {z s : State} (kz : Same z s) (h : Nat) (st : SynStage) :
    Same z (stageApply h st s) := by
  unfold stageApply
  repeat' first
    | lift_lets -underBinder
    | (intro x; clear_value x)
    | (with_reducible first
        | assumption | exact Same.refl _ | apply Same.ite | apply setArmed_same | apply ratioApply_same
        | apply State.setAx_same)
theorem stageApply_keeps {z s : State} (kz : Keeps z s) (h : Nat) (st : SynStage) :
    Keeps z (stageApply h st s) :=
  (stageApply_same (.refl _) _ _).keeps.after kz

theorem stageTread_same {z s : State} (kz : Same z s) (h : Nat) (st : SynStage) :
    Same z (stageTread h st s) := by
  unfold stageTread
  repeat' first
    | lift_lets -underBinder
    | (intro x; clear_value x)
    | (with_reducible first
        | assumption | exact Same.refl _ | apply Same.ite | apply State.setAx_same | apply State.set1_same
        | apply stageApply_same)
theorem stageTread_keeps {z s : State} (kz : Keeps z s) (h : Nat) (st : SynStage) :
    Keeps z (stageTread h st s) :=
  (stageTread_same (.refl _) _ _).keeps.after kz

theorem synSchedWrite_same {z s : State} (kz : Same z s) (h : Nat) (v : Word) (afterLead : Bool) :
    Same z (synSchedWrite h v afterLead s) := by
  unfold synSchedWrite
  repeat' first
    | lift_lets -underBinder
    | (intro x; refine Same.cut (s := z) (t := x) ?_ ?_; unfold x; clear x; rotate_left; intro _; clear_value x; rotate_right)
    | (intro x; clear_value x)
    | (with_reducible first
        | assumption | exact Same.refl _ | apply Same.ite | apply State.set1_same | apply State.wr_same
        | apply setArmed_same | apply State.setAx_same | apply stageTread_same)
theorem synSchedWrite_keeps {z s : State} (kz : Keeps z s) (h : Nat) (v : Word) (afterLead : Bool) :
    Keeps z (synSchedWrite h v afterLead s) :=
  (synSchedWrite_same (.refl _) _ _ _).keeps.after kz

theorem execSynTreadApply_same {z : State} (h : Nat) : RunsSame z (execSynTreadApply h z) := by
  refine ⟨_, rfl, ?_⟩
  repeat' first
    | lift_lets -underBinder
    | (with_reducible first | assumption | exact Same.refl _ | apply Same.ite | apply stageTread_same)
    | (with_reducible apply Same.base; with_reducible first
        | assumption | exact Same.refl _ | apply Same.ite | apply stageTread_same)
    | split

theorem slotLanding_same {z s : State} (kz : Same z s) (h : Nat) (named : List (Nat × Nat)) :
    Same z (slotLanding h named s) := by
  unfold slotLanding
  repeat' first
    | lift_lets -underBinder
    | (intro x; clear_value x)
    | (with_reducible first
        | assumption | exact Same.refl _ | apply Same.ite | apply State.setAx_same
        | (apply State.when_same; intro z; rotate_left; rotate_right) | apply State.set1_same | apply ratioApply_same)
theorem slotLanding_keeps {z s : State} (kz : Keeps z s) (h : Nat) (named : List (Nat × Nat)) :
    Keeps z (slotLanding h named s) :=
  (slotLanding_same (.refl _) _ _).keeps.after kz

theorem axisLanding_same {z s0 : State} (kz : Same z s0) (h : Nat) :
    Same z (axisLanding h s0) := by
  unfold axisLanding
  repeat' first
    | lift_lets -underBinder
    | (intro x; refine Same.cut (s := z) (t := x) ?_ ?_; unfold x; clear x; rotate_left; intro _; clear_value x; rotate_right)
    | (intro x; clear_value x)
    | (with_reducible first
        | assumption | exact Same.refl _ | apply Same.ite | apply rplRatios_same | apply State.setAx_same
        | apply stageApply_same | refine Same.pair1 (by assumption) ?_ | refine Same.pair2 (by assumption) ?_)
    | (with_reducible apply Same.base; with_reducible first
        | assumption | exact Same.refl _ | apply Same.ite | apply rplRatios_same | apply State.setAx_same
        | apply stageApply_same | refine Same.pair1 (by assumption) ?_ | refine Same.pair2 (by assumption) ?_)
    | dsimp -zeta only
    | split
theorem axisLanding_keeps {z s0 : State} (kz : Keeps z s0) (h : Nat) :
    Keeps z (axisLanding h s0) :=
  (axisLanding_same (.refl _) _).keeps.after kz

theorem tsetWrite_same {z s : State} (kz : Same z s) (h t : Nat) (w : TsWord) (v : Word) :
    Same z (tsetWrite h t w v s) := by
  unfold tsetWrite
  repeat' first
    | lift_lets -underBinder
    | (intro x; clear_value x)
    | (with_reducible first
        | assumption | exact Same.refl _ | apply Same.ite
        | (apply State.when_same; intro z; rotate_left; rotate_right) | apply State.set1_same
        | apply State.cfgWr_same)
    | (with_reducible apply Same.base; with_reducible first
        | assumption | exact Same.refl _ | apply Same.ite | apply State.set1_same | apply State.cfgWr_same)
    | split
theorem tsetWrite_keeps {z s : State} (kz : Keeps z s) (h t : Nat) (w : TsWord) (v : Word) :
    Keeps z (tsetWrite h t w v s) :=
  (tsetWrite_same (.refl _) _ _ _ _).keeps.after kz

theorem execTsetWrite_same {z : State} (h t : Nat) (w : TsWord) (v : Word) : RunsSame z (execTsetWrite h t w v z) := by
  refine ⟨_, rfl, ?_⟩
  repeat' first
    | lift_lets -underBinder
    | (with_reducible first
        | assumption | exact Same.refl _ | apply Same.ite
        | (apply State.host_same; intro z; rotate_left; rotate_right) | apply tsetWrite_same)

theorem axzCtlWrite_same {z s : State} (kz : Same z s) (v : Word) :
    Same z (axzCtlWrite v s) := by
  unfold axzCtlWrite
  repeat' first
    | lift_lets -underBinder
    | (intro x; refine Same.cut (s := z) (t := x) ?_ ?_; unfold x; clear x; rotate_left; intro _; clear_value x; rotate_right)
    | (with_reducible first
        | assumption | exact Same.refl _ | apply Same.ite
        | (apply State.when_same; intro z; rotate_left; rotate_right) | apply State.clr_same | apply State.set1_same)
theorem axzCtlWrite_keeps {z s : State} (kz : Keeps z s) (v : Word) :
    Keeps z (axzCtlWrite v s) :=
  (axzCtlWrite_same (.refl _) _).keeps.after kz

theorem execAxzArm_same {z : State}  : RunsSame z (execAxzArm z) := by
  refine ⟨_, rfl, ?_⟩
  repeat' first
    | lift_lets -underBinder
    | (with_reducible first
        | assumption | exact Same.refl _ | apply Same.ite
        | (apply State.host_same; intro z; rotate_left; rotate_right) | apply axzCtlWrite_same)

theorem execAxzSample_same {z : State}  : RunsSame z (execAxzSample z) := by
  refine ⟨_, rfl, ?_⟩
  repeat' first
    | lift_lets -underBinder
    | (with_reducible first | assumption | exact Same.refl _ | apply Same.ite)
    | (with_reducible apply Same.base; with_reducible first | assumption | exact Same.refl _)

theorem axzZeroHall_same {z s : State} (kz : Same z s) (h : Nat) :
    Same z (axzZeroHall h s) := by
  unfold axzZeroHall
  repeat' first
    | lift_lets -underBinder
    | (intro x; clear_value x)
    | (with_reducible first
        | assumption | exact Same.refl _ | apply Same.ite | apply State.setPos_same | apply State.setAx_same
        | apply State.set1_same)
theorem axzZeroHall_keeps {z s : State} (kz : Keeps z s) (h : Nat) :
    Keeps z (axzZeroHall h s) :=
  (axzZeroHall_same (.refl _) _).keeps.after kz

theorem execAxzZero_same {z : State}  : RunsSame z (execAxzZero z) := by
  refine ⟨_, rfl, ?_⟩
  repeat' first
    | lift_lets -underBinder
    | (with_reducible first
        | assumption | exact Same.refl _ | apply Same.ite
        | (apply State.each_same; intro _ z; rotate_left; rotate_right) | apply axzZeroHall_same
        | apply State.clr_same | apply State.set1_same)
    | (with_reducible apply Same.base; with_reducible first
        | assumption | exact Same.refl _ | (apply State.each_same; intro _ z; rotate_left; rotate_right))

end Sys2Proof.Machine
end

