-- ==== Sys2Proof/Laws/SameCalOps.lean ====
section
/-! SUPPORT. What the operations of Machine.CalOps keep: the part, the queue, the canonical tables, and where they store no bulk
memory all of it. -/
set_option linter.unreachableTactic false
set_option linter.unusedTactic false
namespace Sys2Proof.Machine

theorem setLive_same {z s : State} (kz : Same z s) (a : Nat) (v : Int) :
    Same z (setLive a v s) := by
  unfold setLive
  repeat' first
    | lift_lets -underBinder
    | (intro x; clear_value x)
    | (with_reducible first | assumption | exact Same.refl _ | apply Same.ite | apply State.p_same)
    | (with_reducible apply Same.base; with_reducible assumption)
theorem setLive_keeps {z s : State} (kz : Keeps z s) (a : Nat) (v : Int) :
    Keeps z (setLive a v s) :=
  (setLive_same (.refl _) _ _).keeps.after kz

theorem walkFlags_same {z s : State} (kz : Same z s) :
    Same z (walkFlags s) := by
  unfold walkFlags
  repeat' first
    | lift_lets -underBinder
    | (intro x; refine Same.cut (s := z) (t := x) ?_ ?_; unfold x; clear x; rotate_left; intro _; clear_value x; rotate_right)
    | (intro x; clear_value x)
    | (with_reducible first
        | assumption | exact Same.refl _ | apply Same.ite
        | (apply State.each_same; intro _ z; rotate_left; rotate_right) | apply State.pb_same)
theorem walkFlags_keeps {z s : State} (kz : Keeps z s) :
    Keeps z (walkFlags s) :=
  (walkFlags_same (.refl _)).keeps.after kz

theorem calMark_same {z s : State} (kz : Same z s) (a : Nat) :
    Same z (calMark a s) := by
  unfold calMark
  repeat' first
    | lift_lets -underBinder
    | (intro x; clear_value x)
    | (with_reducible first | assumption | exact Same.refl _ | apply Same.ite | apply walkFlags_same)
    | (with_reducible apply Same.base; with_reducible assumption)
theorem calMark_keeps {z s : State} (kz : Keeps z s) (a : Nat) :
    Keeps z (calMark a s) :=
  (calMark_same (.refl _) _).keeps.after kz

theorem jCal_same {z s : State} (kz : Same z s) (a : Nat) :
    Same z (jCal a s) := by
  unfold jCal
  repeat' first
    | lift_lets -underBinder
    | (intro x; clear_value x)
    | (with_reducible first | assumption | exact Same.refl _ | apply Same.ite | apply State.j_same)
theorem jCal_keeps {z s : State} (kz : Keeps z s) (a : Nat) :
    Keeps z (jCal a s) :=
  (jCal_same (.refl _) _).keeps.after kz

theorem setTarget_keeps {z s : State} (kz : Keeps z s) (a : Nat) (v : Int) :
    Keeps z (setTarget a v s) := by
  unfold setTarget
  repeat' first
    | lift_lets -underBinder
    | (with_reducible first
        | assumption | exact Keeps.refl _ | apply Keeps.ite | apply jCal_keeps | apply calMark_keeps
        | apply State.wrMem_keeps)

theorem calStep_same {z s : State} (kz : Same z s) (a : Nat) :
    Same z (calStep a s) := by
  unfold calStep
  repeat' first
    | lift_lets -underBinder
    | (intro x; refine Same.cut (s := z) (t := x) ?_ ?_; unfold x; clear x; rotate_left; intro _; clear_value x; rotate_right)
    | (intro x; clear_value x)
    | (with_reducible first
        | assumption | exact Same.refl _ | apply Same.ite | apply setLive_same | apply State.setAx_same
        | apply jCal_same | apply calMark_same)
theorem calStep_keeps {z s : State} (kz : Keeps z s) (a : Nat) :
    Keeps z (calStep a s) :=
  (calStep_same (.refl _) _).keeps.after kz

theorem calStepAll_same {z s : State} (kz : Same z s) (u : Nat) (warm : Bool) (items : List Nat) :
    Same z (calStepAll u warm items s) := by
  unfold calStepAll
  repeat' first
    | lift_lets -underBinder
    | (with_reducible first
        | assumption | exact Same.refl _ | apply Same.ite
        | (apply State.over_same; intro _ z; rotate_left; rotate_right) | apply calStep_same)
theorem calStepAll_keeps {z s : State} (kz : Keeps z s) (u : Nat) (warm : Bool) (items : List Nat) :
    Keeps z (calStepAll u warm items s) :=
  (calStepAll_same (.refl _) _ _ _).keeps.after kz

theorem calSettleN_keeps {z s : State} (kz : Keeps z s) (u n : Nat) : Keeps z (calSettleN u n s) := by
  induction n generalizing s with
  | zero => exact kz
  | succ n ih =>
    unfold calSettleN
    split
    · exact ih (calStepAll_keeps kz ..)
    · exact kz

theorem calSettle_keeps {z s : State} (kz : Keeps z s) (u : Nat) :
    Keeps z (calSettle u s) := by
  unfold calSettle
  repeat' first
    | lift_lets -underBinder
    | (with_reducible first | assumption | exact Keeps.refl _ | apply Keeps.ite | apply calSettleN_keeps)

theorem deskewWrite_keeps {z s : State} (kz : Keeps z s) (h c : Nat) (v : Word) :
    Keeps z (deskewWrite h c v s) := by
  unfold deskewWrite
  repeat' first
    | lift_lets -underBinder
    | (intro x; refine Keeps.cut (s := z) (t := x) ?_ ?_; unfold x; clear x; rotate_left; intro _; clear_value x; rotate_right)
    | (intro x; clear_value x)
    | (with_reducible first
        | assumption | exact Keeps.refl _ | apply Keeps.ite | apply calMark_keeps | apply State.wr_keeps
        | apply State.wrMem_keeps | (apply State.when_keeps; intro z; rotate_left; rotate_right) | apply jCal_keeps
        | apply State.set1_keeps)

theorem sliceSwitch_same {z s : State} (kz : Same z s) (u chans : Nat) (on : Bool) :
    Same z (sliceSwitch u chans on s) := by
  unfold sliceSwitch
  repeat' first
    | lift_lets -underBinder
    | (intro x; clear_value x)
    | (with_reducible first
        | assumption | exact Same.refl _ | apply Same.ite
        | (apply State.each_same; intro _ z; rotate_left; rotate_right) | apply State.pb_same)
    | (with_reducible apply Same.base; with_reducible first
        | assumption | exact Same.refl _ | (apply State.each_same; intro _ z; rotate_left; rotate_right))
theorem sliceSwitch_keeps {z s : State} (kz : Keeps z s) (u chans : Nat) (on : Bool) :
    Keeps z (sliceSwitch u chans on s) :=
  (sliceSwitch_same (.refl _) _ _ _).keeps.after kz

theorem sliceStop_same {z s : State} (kz : Same z s) (u : Nat) :
    Same z (sliceStop u s) := by
  unfold sliceStop
  repeat' first
    | lift_lets -underBinder
    | (intro x; clear_value x)
    | (with_reducible first | assumption | exact Same.refl _ | apply Same.ite | apply sliceSwitch_same)
    | (with_reducible apply Same.base; with_reducible first
        | assumption | exact Same.refl _ | apply Same.ite | apply sliceSwitch_same)
    | split
theorem sliceStop_keeps {z s : State} (kz : Keeps z s) (u : Nat) :
    Keeps z (sliceStop u s) :=
  (sliceStop_same (.refl _) _).keeps.after kz

theorem sliceDelay_same {z s : State} (kz : Same z s) (h : Nat) :
    Same z (sliceDelay h s) := by
  unfold sliceDelay
  repeat' first
    | lift_lets -underBinder
    | (intro x; clear_value x)
    | (with_reducible first
        | assumption | exact Same.refl _ | apply Same.ite | apply State.draw_same | apply State.set1_same
        | apply State.j_same | refine Same.pair2 (by assumption) ?_)
    | (with_reducible apply Same.base; with_reducible first
        | assumption | exact Same.refl _ | apply Same.ite | apply State.draw_same)
theorem sliceDelay_keeps {z s : State} (kz : Keeps z s) (h : Nat) :
    Keeps z (sliceDelay h s) :=
  (sliceDelay_same (.refl _) _).keeps.after kz

theorem winClose_same {z s : State} (kz : Same z s) (u : Nat) :
    Same z (winClose u s) := by
  unfold winClose
  repeat' first
    | lift_lets -underBinder
    | (intro x; clear_value x)
    | (with_reducible first | assumption | exact Same.refl _ | apply Same.ite)
    | (with_reducible apply Same.base; with_reducible assumption)
theorem winClose_keeps {z s : State} (kz : Keeps z s) (u : Nat) :
    Keeps z (winClose u s) :=
  (winClose_same (.refl _) _).keeps.after kz

theorem deferShow_same {z s : State} (kz : Same z s) (r : CalRunX) :
    Same z (deferShow r s) := by
  unfold deferShow
  repeat' first
    | lift_lets -underBinder
    | (intro x; clear_value x)
    | (with_reducible first
        | assumption | exact Same.refl _ | apply Same.ite
        | (apply State.each_same; intro _ z; rotate_left; rotate_right) | apply State.p_same)
theorem deferShow_keeps {z s : State} (kz : Keeps z s) (r : CalRunX) :
    Keeps z (deferShow r s) :=
  (deferShow_same (.refl _) _).keeps.after kz

theorem calRunEnd_same {z s : State} (kz : Same z s) (r : CalRunX) :
    Same z (calRunEnd r s) := by
  unfold calRunEnd
  repeat' first
    | lift_lets -underBinder
    | (intro x; clear_value x)
    | (with_reducible first
        | assumption | exact Same.refl _ | apply Same.ite | apply deferShow_same | apply State.clr_same
        | (apply State.when_same; intro z; rotate_left; rotate_right) | apply State.p_same)
    | (with_reducible apply Same.base; with_reducible first
        | assumption | (apply State.when_same; intro z; rotate_left; rotate_right))
theorem calRunEnd_keeps {z s : State} (kz : Keeps z s) (r : CalRunX) :
    Keeps z (calRunEnd r s) :=
  (calRunEnd_same (.refl _) _).keeps.after kz

end Sys2Proof.Machine
end

