-- ==== Sys2Proof/Laws/SameFlights.lean ====
section
/-! SUPPORT. What the operations of Machine.Flights keep: the part, the queue, the canonical tables, and where they store no bulk
memory all of it. -/
set_option linter.unreachableTactic false
set_option linter.unusedTactic false
namespace Sys2Proof.Machine

theorem State.setFlt_same {z s : State} (kz : Same z s) (h f : Nat) (x : FlightX) :
    Same z (State.setFlt s h f x) := by
  unfold State.setFlt
  repeat' first
    | lift_lets -underBinder
    | (with_reducible first | assumption | exact Same.refl _ | apply Same.ite)
    | (with_reducible apply Same.base; with_reducible assumption)
theorem State.setFlt_keeps {z s : State} (kz : Keeps z s) (h f : Nat) (x : FlightX) :
    Keeps z (State.setFlt s h f x) :=
  (State.setFlt_same (.refl _) _ _ _).keeps.after kz

theorem State.setAlc_same {z s : State} (kz : Same z s) (h i : Nat) (x : AlcX) :
    Same z (State.setAlc s h i x) := by
  unfold State.setAlc
  repeat' first
    | lift_lets -underBinder
    | (with_reducible first | assumption | exact Same.refl _ | apply Same.ite)
    | (with_reducible apply Same.base; with_reducible assumption)
theorem State.setAlc_keeps {z s : State} (kz : Keeps z s) (h i : Nat) (x : AlcX) :
    Keeps z (State.setAlc s h i x) :=
  (State.setAlc_same (.refl _) _ _ _).keeps.after kz

theorem State.modAlc_same {z s : State} (kz : Same z s) (h i : Nat) (f : AlcX → AlcX) :
    Same z (State.modAlc s h i f) := by
  unfold State.modAlc
  repeat' first
    | lift_lets -underBinder
    | (with_reducible first | assumption | exact Same.refl _ | apply Same.ite | apply State.setAlc_same)
theorem State.modAlc_keeps {z s : State} (kz : Keeps z s) (h i : Nat) (f : AlcX → AlcX) :
    Keeps z (State.modAlc s h i f) :=
  (State.modAlc_same (.refl _) _ _ _).keeps.after kz

theorem State.setHl_same {z s : State} (kz : Same z s) (h : Nat) (x : HallX) :
    Same z (State.setHl s h x) := by
  unfold State.setHl
  repeat' first
    | lift_lets -underBinder
    | (with_reducible first | assumption | exact Same.refl _ | apply Same.ite)
    | (with_reducible apply Same.base; with_reducible assumption)
theorem State.setHl_keeps {z s : State} (kz : Keeps z s) (h : Nat) (x : HallX) :
    Keeps z (State.setHl s h x) :=
  (State.setHl_same (.refl _) _ _).keeps.after kz

theorem State.modHl_same {z s : State} (kz : Same z s) (h : Nat) (f : HallX → HallX) :
    Same z (State.modHl s h f) := by
  unfold State.modHl
  repeat' first
    | lift_lets -underBinder
    | (with_reducible first | assumption | exact Same.refl _ | apply Same.ite | apply State.setHl_same)
theorem State.modHl_keeps {z s : State} (kz : Keeps z s) (h : Nat) (f : HallX → HallX) :
    Keeps z (State.modHl s h f) :=
  (State.modHl_same (.refl _) _ _).keeps.after kz

theorem State.modEng_same {z s : State} (kz : Same z s) (h : Nat) (f : EngX → EngX) :
    Same z (State.modEng s h f) := by
  unfold State.modEng
  repeat' first
    | lift_lets -underBinder
    | (with_reducible first | assumption | exact Same.refl _ | apply Same.ite | apply State.modHl_same)
theorem State.modEng_keeps {z s : State} (kz : Keeps z s) (h : Nat) (f : EngX → EngX) :
    Keeps z (State.modEng s h f) :=
  (State.modEng_same (.refl _) _ _).keeps.after kz

theorem State.modHold_same {z s : State} (kz : Same z s) (h : Nat) (f : HoldX → HoldX) :
    Same z (State.modHold s h f) := by
  unfold State.modHold
  repeat' first
    | lift_lets -underBinder
    | (with_reducible first | assumption | exact Same.refl _ | apply Same.ite | apply State.modHl_same)
theorem State.modHold_keeps {z s : State} (kz : Keeps z s) (h : Nat) (f : HoldX → HoldX) :
    Keeps z (State.modHold s h f) :=
  (State.modHold_same (.refl _) _ _).keeps.after kz

theorem State.modBank_same {z s : State} (kz : Same z s) (h b : Nat) (f : BankX → BankX) :
    Same z (State.modBank s h b f) := by
  unfold State.modBank
  repeat' first
    | lift_lets -underBinder
    | (with_reducible first | assumption | exact Same.refl _ | apply Same.ite | apply State.modHl_same)
theorem State.modBank_keeps {z s : State} (kz : Keeps z s) (h b : Nat) (f : BankX → BankX) :
    Keeps z (State.modBank s h b f) :=
  (State.modBank_same (.refl _) _ _ _).keeps.after kz

theorem lcStat_same {z s : State} (kz : Same z s) (h : Nat) :
    Same z (lcStat h s) := by
  unfold lcStat
  repeat' first
    | lift_lets -underBinder
    | (with_reducible first | assumption | exact Same.refl _ | apply Same.ite | apply State.p_same)
theorem lcStat_keeps {z s : State} (kz : Keeps z s) (h : Nat) :
    Keeps z (lcStat h s) :=
  (lcStat_same (.refl _) _).keeps.after kz

theorem cacheReserve_same {z s : State} (kz : Same z s) (h f : Nat) :
    Same z (cacheReserve h f s) := by
  unfold cacheReserve
  repeat' first
    | lift_lets -underBinder
    | (intro x; clear_value x)
    | (with_reducible first
        | assumption | exact Same.refl _ | apply Same.ite | apply lcStat_same | apply State.modHl_same
        | apply State.set1_same)
theorem cacheReserve_keeps {z s : State} (kz : Keeps z s) (h f : Nat) :
    Keeps z (cacheReserve h f s) :=
  (cacheReserve_same (.refl _) _ _).keeps.after kz

theorem cacheFree_same {z s : State} (kz : Same z s) (h f : Nat) :
    Same z (cacheFree h f s) := by
  unfold cacheFree
  repeat' first
    | lift_lets -underBinder
    | (with_reducible first
        | assumption | exact Same.refl _ | apply Same.ite | apply lcStat_same | apply State.modHl_same)
theorem cacheFree_keeps {z s : State} (kz : Keeps z s) (h f : Nat) :
    Keeps z (cacheFree h f s) :=
  (cacheFree_same (.refl _) _ _).keeps.after kz

theorem refUpdate1_same {z s : State} (kz : Same z s) (h f : Nat) :
    Same z (refUpdate1 h f s) := by
  unfold refUpdate1
  repeat' first
    | lift_lets -underBinder
    | (intro x; clear_value x)
    | (with_reducible first
        | assumption | exact Same.refl _ | apply Same.ite | apply cacheReserve_same | apply State.setFlt_same
        | apply cacheFree_same)
theorem refUpdate1_keeps {z s : State} (kz : Keeps z s) (h f : Nat) :
    Keeps z (refUpdate1 h f s) :=
  (refUpdate1_same (.refl _) _ _).keeps.after kz

theorem refsUpdate_same {z s : State} (kz : Same z s) (h : Nat) :
    Same z (refsUpdate h s) := by
  unfold refsUpdate
  repeat' first
    | lift_lets -underBinder
    | (intro x; clear_value x)
    | (with_reducible first
        | assumption | exact Same.refl _ | apply Same.ite
        | (apply State.over_same; intro _ z; rotate_left; rotate_right) | apply refUpdate1_same)
theorem refsUpdate_keeps {z s : State} (kz : Keeps z s) (h : Nat) :
    Keeps z (refsUpdate h s) :=
  (refsUpdate_same (.refl _) _).keeps.after kz

theorem flightWrite_keeps {z s : State} (kz : Keeps z s) (h a : Nat) (bytes : List Nat) :
    Keeps z (flightWrite h a bytes s).1 := by
  unfold flightWrite
  repeat' first
    | lift_lets -underBinder
    | (with_reducible first
        | assumption | exact Keeps.refl _ | apply Keeps.ite | apply State.wrBytes_keeps | apply State.set1_keeps
        | apply State.count_keeps)
    | (with_reducible apply Keeps.base; with_reducible first
        | assumption | exact Keeps.refl _ | apply Keeps.ite | apply State.wrBytes_keeps | apply State.set1_keeps
        | apply State.count_keeps)
    | split

theorem loadFlight_same {z s : State} (kz : Same z s) (q : Nat) (r : DescRun) :
    Same z (loadFlight q r s) := by
  unfold loadFlight
  repeat' first
    | lift_lets -underBinder
    | (intro x; refine Same.cut (s := z) (t := x) ?_ ?_; unfold x; clear x; rotate_left; intro _; clear_value x; rotate_right)
    | (intro (x : _ → _ → _ → State); unfold x; clear x)
    | (intro x; clear_value x)
    | (intro x; unfold x; clear x)
    | (with_reducible first
        | assumption | exact Same.refl _ | apply Same.ite | apply State.complete_same | apply State.lastErr_same
        | apply State.setFlt_same | apply State.send_same | apply refsUpdate_same)
    | (with_reducible apply Same.base; with_reducible first
        | assumption | exact Same.refl _ | apply Same.ite | apply State.complete_same | apply State.lastErr_same
        | apply State.setFlt_same | apply State.send_same | apply refsUpdate_same)
    | split
theorem loadFlight_keeps {z s : State} (kz : Keeps z s) (q : Nat) (r : DescRun) :
    Keeps z (loadFlight q r s) :=
  (loadFlight_same (.refl _) _ _).keeps.after kz

theorem execLoadFlight_same {z : State} (q : Nat) : RunsSame z (execLoadFlight q z) := by
  refine ⟨_, rfl, ?_⟩
  repeat' first
    | lift_lets -underBinder
    | (with_reducible first
        | assumption | exact Same.refl _ | apply Same.ite
        | (apply State.withDesc_same; intro _ z; rotate_left; rotate_right) | apply loadFlight_same)

theorem execLoadFlightDmaDone_keeps {z : State} (h f : Nat) (data : List Nat) : RunsKeeps z (execLoadFlightDmaDone h f data z) := by
  refine ⟨_, rfl, ?_⟩
  repeat' first
    | lift_lets -underBinder
    | (intro x; refine Keeps.cut (s := z) (t := x) ?_ ?_; unfold x; clear x; rotate_left; intro _; clear_value x; rotate_right)
    | (intro x; clear_value x)
    | (with_reducible first
        | assumption | exact Keeps.refl _ | apply Keeps.ite | apply State.wrBytes_keeps | apply refsUpdate_keeps
        | apply State.setFlt_keeps | apply State.complete_keeps)
    | (with_reducible apply Keeps.base; with_reducible first
        | assumption | exact Keeps.refl _ | apply Keeps.ite | apply State.wrBytes_keeps | apply refsUpdate_keeps
        | apply State.setFlt_keeps | apply State.complete_keeps)
    | split

theorem execLoadFlightDmaFail_same {z : State} (h f : Nat) : RunsSame z (execLoadFlightDmaFail h f z) := by
  refine ⟨_, rfl, ?_⟩
  repeat' first
    | lift_lets -underBinder
    | (intro x; clear_value x)
    | (with_reducible first
        | assumption | exact Same.refl _ | apply Same.ite | apply State.draw_same | apply State.setFlt_same
        | apply State.complete_same | refine Same.pair2 (by assumption) ?_)
    | (with_reducible apply Same.base; with_reducible first
        | assumption | exact Same.refl _ | apply Same.ite | apply State.draw_same | apply State.setFlt_same
        | apply State.complete_same | refine Same.pair2 (by assumption) ?_)
    | split

theorem State.setRead_same {z s : State} (kz : Same z s) (path : Path) (w : Word) :
    Same z (State.setRead s path w) := by
  unfold State.setRead
  repeat' first
    | lift_lets -underBinder
    | (with_reducible first | assumption | exact Same.refl _ | apply Same.ite)
    | (with_reducible apply Same.base; with_reducible assumption)
theorem State.setRead_keeps {z s : State} (kz : Keeps z s) (path : Path) (w : Word) :
    Keeps z (State.setRead s path w) :=
  (State.setRead_same (.refl _) _ _).keeps.after kz

theorem State.hostRead_same {f : State → State} {z s : State} (hf : ∀ t, Same t (f t)) (kz : Same z s) (path : Path) :
    Same z (State.hostRead s path f) := by
  unfold State.hostRead
  repeat' first
    | lift_lets -underBinder
    | (with_reducible first
        | assumption | exact Same.refl _ | apply Same.ite | refine Same.after (hf ..) ?_ | apply State.setRead_same)

theorem State.hostRead_keeps {f : State → State} {z s : State} (hf : ∀ t, Keeps t (f t)) (kz : Keeps z s) (path : Path) :
    Keeps z (State.hostRead s path f) := by
  unfold State.hostRead
  repeat' first
    | lift_lets -underBinder
    | (with_reducible first
        | assumption | exact Keeps.refl _ | apply Keeps.ite | refine Keeps.after (hf ..) ?_
        | apply State.setRead_keeps)

theorem fltSnapTake_same {z s : State} (kz : Same z s) (h : Nat) :
    Same z (fltSnapTake h s) := by
  unfold fltSnapTake
  repeat' first
    | lift_lets -underBinder
    | (with_reducible first | assumption | exact Same.refl _ | apply Same.ite | apply State.modHl_same)
theorem fltSnapTake_keeps {z s : State} (kz : Keeps z s) (h : Nat) :
    Keeps z (fltSnapTake h s) :=
  (fltSnapTake_same (.refl _) _).keeps.after kz

theorem fltDescLoRead_same {z s : State} (kz : Same z s) (path : Path) (h : Nat) :
    Same z (fltDescLoRead path h s) := by
  unfold fltDescLoRead
  repeat' first
    | lift_lets -underBinder
    | (intro x; refine Same.cut (s := z) (t := x) ?_ ?_; unfold x; clear x; rotate_left; intro _; clear_value x; rotate_right)
    | (with_reducible first
        | assumption | exact Same.refl _ | apply Same.ite | apply fltSnapTake_same | apply State.setRead_same)
theorem fltDescLoRead_keeps {z s : State} (kz : Keeps z s) (path : Path) (h : Nat) :
    Keeps z (fltDescLoRead path h s) :=
  (fltDescLoRead_same (.refl _) _ _).keeps.after kz

theorem execFltDescLoRead_same {z : State} (path : Path) (h : Nat) : RunsSame z (execFltDescLoRead path h z) := by
  refine ⟨_, rfl, ?_⟩
  repeat' first
    | lift_lets -underBinder
    | (with_reducible first
        | assumption | exact Same.refl _ | apply Same.ite
        | (apply State.hostRead_same; intro z; rotate_left; rotate_right) | apply fltDescLoRead_same
        | apply State.setRead_same)

theorem State.setDrives_same {z s : State} (kz : Same z s) (h b : Nat) (l : List DriveSt) :
    Same z (State.setDrives s h b l) := by
  unfold State.setDrives
  repeat' first
    | lift_lets -underBinder
    | (with_reducible first | assumption | exact Same.refl _ | apply Same.ite | apply State.modBank_same)
theorem State.setDrives_keeps {z s : State} (kz : Keeps z s) (h b : Nat) (l : List DriveSt) :
    Keeps z (State.setDrives s h b l) :=
  (State.setDrives_same (.refl _) _ _ _).keeps.after kz

theorem driveFlight_same {z s : State} (kz : Same z s) (h b f e n : Nat) :
    Same z (driveFlight h b f e n s) := by
  unfold driveFlight
  repeat' first
    | lift_lets -underBinder
    | (intro x; clear_value x)
    | (with_reducible first | assumption | exact Same.refl _ | apply Same.ite | apply State.setDrives_same)
theorem driveFlight_keeps {z s : State} (kz : Keeps z s) (h b f e n : Nat) :
    Keeps z (driveFlight h b f e n s) :=
  (driveFlight_same (.refl _) _ _ _ _ _).keeps.after kz

theorem entriesTo_same {z s : State} (kz : Same z s) (h e : Nat) :
    Same z (entriesTo h e s) := by
  unfold entriesTo
  repeat' first
    | lift_lets -underBinder
    | (intro x; clear_value x)
    | (with_reducible first
        | assumption | exact Same.refl _ | apply Same.ite | apply driveFlight_same | apply State.modHl_same)
    | (with_reducible apply Same.base; with_reducible first
        | assumption | exact Same.refl _ | apply Same.ite | apply driveFlight_same | apply State.modHl_same)
    | split
theorem entriesTo_keeps {z s : State} (kz : Keeps z s) (h e : Nat) :
    Keeps z (entriesTo h e s) :=
  (entriesTo_same (.refl _) _ _).keeps.after kz

theorem driveHold_same {z s : State} (kz : Same z s) (h b : Nat) :
    Same z (driveHold h b s) := by
  unfold driveHold
  repeat' first
    | lift_lets -underBinder
    | (intro x; clear_value x)
    | (with_reducible first | assumption | exact Same.refl _ | apply Same.ite | apply State.setDrives_same)
theorem driveHold_keeps {z s : State} (kz : Keeps z s) (h b : Nat) :
    Keeps z (driveHold h b s) :=
  (driveHold_same (.refl _) _ _).keeps.after kz

theorem rasterWatch_same {z s : State} (kz : Same z s) (h n : Nat) :
    Same z (rasterWatch h n s) := by
  unfold rasterWatch
  repeat' first
    | lift_lets -underBinder
    | (intro x; clear_value x)
    | (with_reducible first
        | assumption | exact Same.refl _ | apply Same.ite
        | (apply State.when_same; intro z; rotate_left; rotate_right) | apply State.set1_same)
theorem rasterWatch_keeps {z s : State} (kz : Keeps z s) (h n : Nat) :
    Keeps z (rasterWatch h n s) :=
  (rasterWatch_same (.refl _) _ _).keeps.after kz

end Sys2Proof.Machine
end

