-- ==== Sys2Proof/Laws/SameTrip.lean ====
section
/-! SUPPORT. What the operations of Machine.Trip keep: the part, the queue, the canonical tables, and where they store no bulk
memory all of it. -/
set_option linter.unreachableTactic false
set_option linter.unusedTactic false
namespace Sys2Proof.Machine

theorem State.setCh_same {z s : State} (kz : Same z s) (h c : Nat) (x : ChX) :
    Same z (State.setCh s h c x) := by
  unfold State.setCh
  repeat' first
    | lift_lets -underBinder
    | (with_reducible first | assumption | exact Same.refl _ | apply Same.ite)
    | (with_reducible apply Same.base; with_reducible assumption)
theorem State.setCh_keeps {z s : State} (kz : Keeps z s) (h c : Nat) (x : ChX) :
    Keeps z (State.setCh s h c x) :=
  (State.setCh_same (.refl _) _ _ _).keeps.after kz

theorem State.modCh_same {z s : State} (kz : Same z s) (h c : Nat) (f : ChX → ChX) :
    Same z (State.modCh s h c f) := by
  unfold State.modCh
  repeat' first
    | lift_lets -underBinder
    | (with_reducible first | assumption | exact Same.refl _ | apply Same.ite | apply State.setCh_same)
theorem State.modCh_keeps {z s : State} (kz : Keeps z s) (h c : Nat) (f : ChX → ChX) :
    Keeps z (State.modCh s h c f) :=
  (State.modCh_same (.refl _) _ _ _).keeps.after kz

theorem State.setSmu_same {z s : State} (kz : Same z s) (k : Nat) (x : SmuX) :
    Same z (State.setSmu s k x) := by
  unfold State.setSmu
  repeat' first
    | lift_lets -underBinder
    | (with_reducible first | assumption | exact Same.refl _ | apply Same.ite)
    | (with_reducible apply Same.base; with_reducible assumption)
theorem State.setSmu_keeps {z s : State} (kz : Keeps z s) (k : Nat) (x : SmuX) :
    Keeps z (State.setSmu s k x) :=
  (State.setSmu_same (.refl _) _ _).keeps.after kz

theorem State.modSmu_same {z s : State} (kz : Same z s) (k : Nat) (f : SmuX → SmuX) :
    Same z (State.modSmu s k f) := by
  unfold State.modSmu
  repeat' first
    | lift_lets -underBinder
    | (with_reducible first | assumption | exact Same.refl _ | apply Same.ite | apply State.setSmu_same)
theorem State.modSmu_keeps {z s : State} (kz : Keeps z s) (k : Nat) (f : SmuX → SmuX) :
    Keeps z (State.modSmu s k f) :=
  (State.modSmu_same (.refl _) _ _).keeps.after kz

theorem State.setGrp_same {z s : State} (kz : Same z s) (g : Nat) (x : GrpX) :
    Same z (State.setGrp s g x) := by
  unfold State.setGrp
  repeat' first
    | lift_lets -underBinder
    | (with_reducible first | assumption | exact Same.refl _ | apply Same.ite)
    | (with_reducible apply Same.base; with_reducible assumption)
theorem State.setGrp_keeps {z s : State} (kz : Keeps z s) (g : Nat) (x : GrpX) :
    Keeps z (State.setGrp s g x) :=
  (State.setGrp_same (.refl _) _ _).keeps.after kz

theorem State.modGrp_same {z s : State} (kz : Same z s) (g : Nat) (f : GrpX → GrpX) :
    Same z (State.modGrp s g f) := by
  unfold State.modGrp
  repeat' first
    | lift_lets -underBinder
    | (with_reducible first | assumption | exact Same.refl _ | apply Same.ite | apply State.setGrp_same)
theorem State.modGrp_keeps {z s : State} (kz : Keeps z s) (g : Nat) (f : GrpX → GrpX) :
    Keeps z (State.modGrp s g f) :=
  (State.modGrp_same (.refl _) _ _).keeps.after kz

theorem State.setPeh_same {z s : State} (kz : Same z s) (h : Nat) (x : PeHallX) :
    Same z (State.setPeh s h x) := by
  unfold State.setPeh
  repeat' first
    | lift_lets -underBinder
    | (with_reducible first | assumption | exact Same.refl _ | apply Same.ite)
    | (with_reducible apply Same.base; with_reducible assumption)
theorem State.setPeh_keeps {z s : State} (kz : Keeps z s) (h : Nat) (x : PeHallX) :
    Keeps z (State.setPeh s h x) :=
  (State.setPeh_same (.refl _) _ _).keeps.after kz

theorem State.modPeh_same {z s : State} (kz : Same z s) (h : Nat) (f : PeHallX → PeHallX) :
    Same z (State.modPeh s h f) := by
  unfold State.modPeh
  repeat' first
    | lift_lets -underBinder
    | (with_reducible first | assumption | exact Same.refl _ | apply Same.ite | apply State.setPeh_same)
theorem State.modPeh_keeps {z s : State} (kz : Keeps z s) (h : Nat) (f : PeHallX → PeHallX) :
    Keeps z (State.modPeh s h f) :=
  (State.modPeh_same (.refl _) _ _).keeps.after kz

theorem compSee_same {z s : State} (kz : Same z s) (h c : Nat) (nv : Int) :
    Same z (compSee h c nv s) := by
  unfold compSee
  repeat' first
    | lift_lets -underBinder
    | (intro x; clear_value x)
    | (with_reducible first | assumption | exact Same.refl _ | apply Same.ite | apply State.modCh_same)
theorem compSee_keeps {z s : State} (kz : Keeps z s) (h c : Nat) (nv : Int) :
    Keeps z (compSee h c nv s) :=
  (compSee_same (.refl _) _ _ _).keeps.after kz

theorem ddsStopNow_same {z s : State} (kz : Same z s) (k : Nat) :
    Same z (ddsStopNow k s) := by
  unfold ddsStopNow
  repeat' first
    | lift_lets -underBinder
    | (with_reducible first
        | assumption | exact Same.refl _ | apply Same.ite | apply State.clr_same | apply State.modSmu_same)
theorem ddsStopNow_keeps {z s : State} (kz : Keeps z s) (k : Nat) :
    Keeps z (ddsStopNow k s) :=
  (ddsStopNow_same (.refl _) _).keeps.after kz

theorem smuBridgeStop_same {z s : State} (kz : Same z s) (k : Nat) :
    Same z (smuBridgeStop k s) := by
  unfold smuBridgeStop
  repeat' first
    | lift_lets -underBinder
    | (with_reducible first
        | assumption | exact Same.refl _ | apply Same.ite | apply State.clr_same | apply State.modSmu_same)
theorem smuBridgeStop_keeps {z s : State} (kz : Keeps z s) (k : Nat) :
    Keeps z (smuBridgeStop k s) :=
  (smuBridgeStop_same (.refl _) _).keeps.after kz

theorem smuTrip_same {z s : State} (kz : Same z s) (k src : Nat) :
    Same z (smuTrip k src s) := by
  unfold smuTrip
  repeat' first
    | lift_lets -underBinder
    | (intro x; refine Same.cut (s := z) (t := x) ?_ ?_; unfold x; clear x; rotate_left; intro _; clear_value x; rotate_right)
    | (intro x; clear_value x)
    | (with_reducible first
        | assumption | exact Same.refl _ | apply Same.ite | apply smuBridgeStop_same | apply ddsStopNow_same
        | apply State.set1_same | apply State.p_same | apply State.modSmu_same | apply State.modGrp_same
        | apply State.emit_same | apply State.raise_same)
theorem smuTrip_keeps {z s : State} (kz : Keeps z s) (k src : Nat) :
    Keeps z (smuTrip k src s) :=
  (smuTrip_same (.refl _) _ _).keeps.after kz

theorem smuGroupTrip_same {z s : State} (kz : Same z s) (g : Nat) :
    Same z (smuGroupTrip g s) := by
  unfold smuGroupTrip
  repeat' first
    | lift_lets -underBinder
    | (with_reducible first
        | assumption | exact Same.refl _ | apply Same.ite
        | (apply State.each_same; intro _ z; rotate_left; rotate_right) | apply smuTrip_same)
theorem smuGroupTrip_keeps {z s : State} (kz : Keeps z s) (g : Nat) :
    Keeps z (smuGroupTrip g s) :=
  (smuGroupTrip_same (.refl _) _).keeps.after kz

theorem peTrip_same {z s : State} (kz : Same z s) (h c : Nat) :
    Same z (peTrip h c s) := by
  unfold peTrip
  repeat' first
    | lift_lets -underBinder
    | (intro x; refine Same.cut (s := z) (t := x) ?_ ?_; unfold x; clear x; rotate_left; intro _; clear_value x; rotate_right)
    | (intro x; clear_value x)
    | (with_reducible first
        | assumption | exact Same.refl _ | apply Same.ite | apply State.modCh_same
        | (apply State.when_same; intro z; rotate_left; rotate_right) | apply smuGroupTrip_same
        | apply State.set1_same | apply State.p_same | apply State.emit_same | apply State.raise_same)
theorem peTrip_keeps {z s : State} (kz : Keeps z s) (h c : Nat) :
    Keeps z (peTrip h c s) :=
  (peTrip_same (.refl _) _ _).keeps.after kz

theorem peTest_same {z s : State} (kz : Same z s) (h c : Nat) :
    Same z (peTest h c s) := by
  unfold peTest
  repeat' first
    | lift_lets -underBinder
    | (with_reducible first | assumption | exact Same.refl _ | apply Same.ite | apply peTrip_same)
theorem peTest_keeps {z s : State} (kz : Keeps z s) (h c : Nat) :
    Keeps z (peTest h c s) :=
  (peTest_same (.refl _) _ _).keeps.after kz

theorem blankUpdate_same {z s : State} (kz : Same z s) (h c : Nat) :
    Same z (blankUpdate h c s) := by
  unfold blankUpdate
  repeat' first
    | lift_lets -underBinder
    | (intro x; refine Same.cut (s := z) (t := x) ?_ ?_; unfold x; clear x; rotate_left; intro _; clear_value x; rotate_right)
    | (intro x; clear_value x)
    | (with_reducible first
        | assumption | exact Same.refl _ | apply Same.ite | apply State.pb_same | apply peTest_same)
theorem blankUpdate_keeps {z s : State} (kz : Keeps z s) (h c : Nat) :
    Keeps z (blankUpdate h c s) :=
  (blankUpdate_same (.refl _) _ _).keeps.after kz

theorem blankHall_same {z s : State} (kz : Same z s) (h : Nat) :
    Same z (blankHall h s) := by
  unfold blankHall
  repeat' first
    | lift_lets -underBinder
    | (with_reducible first
        | assumption | exact Same.refl _ | apply Same.ite
        | (apply State.each_same; intro _ z; rotate_left; rotate_right) | apply blankUpdate_same)
theorem blankHall_keeps {z s : State} (kz : Keeps z s) (h : Nat) :
    Keeps z (blankHall h s) :=
  (blankHall_same (.refl _) _).keeps.after kz

theorem enEff_same {z s : State} (kz : Same z s) (h c : Nat) :
    Same z (enEff h c s) := by
  unfold enEff
  repeat' first
    | lift_lets -underBinder
    | (with_reducible first | assumption | exact Same.refl _ | apply Same.ite | apply State.pb_same)
theorem enEff_keeps {z s : State} (kz : Keeps z s) (h c : Nat) :
    Keeps z (enEff h c s) :=
  (enEff_same (.refl _) _ _).keeps.after kz

theorem compEnable_same {z s : State} (kz : Same z s) (h c : Nat) :
    Same z (compEnable h c s) := by
  unfold compEnable
  repeat' first
    | lift_lets -underBinder
    | (with_reducible first | assumption | exact Same.refl _ | apply Same.ite | apply State.modCh_same)
theorem compEnable_keeps {z s : State} (kz : Keeps z s) (h c : Nat) :
    Keeps z (compEnable h c s) :=
  (compEnable_same (.refl _) _ _).keeps.after kz

end Sys2Proof.Machine
end

