-- ==== Sys2Proof/Laws/SameSmu.lean ====
section
/-! SUPPORT. What the operations of Machine.Smu keep: the part, the queue, the canonical tables, and where they store no bulk
memory all of it. -/
set_option linter.unreachableTactic false
set_option linter.unusedTactic false
namespace Sys2Proof.Machine

theorem smuRequest_same {z s : State} (kz : Same z s) (k : Nat) (mset : Bool) (f : SmuSet → SmuSet) :
    Same z (smuRequest k mset f s) := by
  unfold smuRequest
  repeat' first
    | lift_lets -underBinder
    | (intro x; clear_value x)
    | (with_reducible first
        | assumption | exact Same.refl _ | apply Same.ite | apply State.setSmu_same | apply State.set1_same)
theorem smuRequest_keeps {z s : State} (kz : Keeps z s) (k : Nat) (mset : Bool) (f : SmuSet → SmuSet) :
    Keeps z (smuRequest k mset f s) :=
  (smuRequest_same (.refl _) _ _ _).keeps.after kz

theorem smuRelease_same {z s : State} (kz : Same z s) (k : Nat) :
    Same z (smuRelease k s) := by
  unfold smuRelease
  repeat' first
    | lift_lets -underBinder
    | (intro x; clear_value x)
    | (with_reducible first
        | assumption | exact Same.refl _ | apply Same.ite | apply State.clr_same | apply State.modSmu_same)
theorem smuRelease_keeps {z s : State} (kz : Keeps z s) (k : Nat) :
    Keeps z (smuRelease k s) :=
  (smuRelease_same (.refl _) _).keeps.after kz

theorem smuSafe_same {z s : State} (kz : Same z s) (k : Nat) :
    Same z (smuSafe k s) := by
  unfold smuSafe
  repeat' first
    | lift_lets -underBinder
    | (intro x; refine Same.cut (s := z) (t := x) ?_ ?_; unfold x; clear x; rotate_left; intro _; clear_value x; rotate_right)
    | (intro x; clear_value x)
    | (with_reducible first
        | assumption | exact Same.refl _ | apply Same.ite | apply smuBridgeStop_same | apply ddsStopNow_same
        | apply State.set1_same | apply State.clr_same | apply State.modSmu_same)
theorem smuSafe_keeps {z s : State} (kz : Keeps z s) (k : Nat) :
    Keeps z (smuSafe k s) :=
  (smuSafe_same (.refl _) _).keeps.after kz

theorem smuClear_same {z s : State} (kz : Same z s) (k : Nat) :
    Same z (smuClear k s) := by
  unfold smuClear
  repeat' first
    | lift_lets -underBinder
    | (intro x; refine Same.cut (s := z) (t := x) ?_ ?_; unfold x; clear x; rotate_left; intro _; clear_value x; rotate_right)
    | (intro x; clear_value x)
    | (with_reducible first
        | assumption | exact Same.refl _ | apply Same.ite | apply smuBridgeStop_same | apply ddsStopNow_same
        | apply State.set1_same | apply State.modSmu_same)
theorem smuClear_keeps {z s : State} (kz : Keeps z s) (k : Nat) :
    Keeps z (smuClear k s) :=
  (smuClear_same (.refl _) _).keeps.after kz

theorem smuEn_same {z s : State} (kz : Same z s) (k : Nat) (en : Bool) :
    Same z (smuEn k en s) := by
  unfold smuEn
  repeat' first
    | lift_lets -underBinder
    | (intro x; refine Same.cut (s := z) (t := x) ?_ ?_; unfold x; clear x; rotate_left; intro _; clear_value x; rotate_right)
    | (intro x; clear_value x)
    | (with_reducible first
        | assumption | exact Same.refl _ | apply Same.ite | apply State.set1_same | apply smuRelease_same
        | apply State.modSmu_same | apply ddsStopNow_same | apply State.clr_same)
theorem smuEn_keeps {z s : State} (kz : Keeps z s) (k : Nat) (en : Bool) :
    Keeps z (smuEn k en s) :=
  (smuEn_same (.refl _) _ _).keeps.after kz

theorem smuCtlWrite_same {z s : State} (kz : Same z s) (k : Nat) (v : Word) :
    Same z (smuCtlWrite k v s) := by
  unfold smuCtlWrite
  repeat' first
    | lift_lets -underBinder
    | (intro x; refine Same.cut (s := z) (t := x) ?_ ?_; unfold x; clear x; rotate_left; intro _; clear_value x; rotate_right)
    | (intro x; clear_value x)
    | (with_reducible first
        | assumption | exact Same.refl _ | apply Same.ite | apply State.set1_same | apply smuEn_same
        | apply State.cfgWr_same | apply smuRequest_same)
theorem smuCtlWrite_keeps {z s : State} (kz : Keeps z s) (k : Nat) (v : Word) :
    Keeps z (smuCtlWrite k v s) :=
  (smuCtlWrite_same (.refl _) _ _).keeps.after kz

theorem execSmuEnWrite_same {z : State} (k : Nat) (en : Bool) : RunsSame z (execSmuEnWrite k en z) := by
  refine ⟨_, rfl, ?_⟩
  repeat' first
    | lift_lets -underBinder
    | (with_reducible first
        | assumption | exact Same.refl _ | apply Same.ite
        | (apply State.host_same; intro z; rotate_left; rotate_right) | apply smuCtlWrite_same)

theorem execSmuCtlWrite_same {z : State} (k : Nat) (v : Word) : RunsSame z (execSmuCtlWrite k v z) := by
  refine ⟨_, rfl, ?_⟩
  repeat' first
    | lift_lets -underBinder
    | (with_reducible first
        | assumption | exact Same.refl _ | apply Same.ite
        | (apply State.host_same; intro z; rotate_left; rotate_right) | apply smuCtlWrite_same)

theorem smuForceWrite_same {z s : State} (kz : Same z s) (k : Nat) (r : SmuReg) (v : Word) :
    Same z (smuForceWrite k r v s) := by
  unfold smuForceWrite
  repeat' first
    | lift_lets -underBinder
    | (intro x; clear_value x)
    | (with_reducible first
        | assumption | exact Same.refl _ | apply Same.ite | apply State.set1_same | apply smuRequest_same
        | apply State.wr_same | apply State.cfgWr_same)
    | (with_reducible apply Same.base; with_reducible first
        | assumption | exact Same.refl _ | apply Same.ite | apply State.set1_same | apply smuRequest_same
        | apply State.wr_same | apply State.cfgWr_same)
    | split
theorem smuForceWrite_keeps {z s : State} (kz : Keeps z s) (k : Nat) (r : SmuReg) (v : Word) :
    Keeps z (smuForceWrite k r v s) :=
  (smuForceWrite_same (.refl _) _ _ _).keeps.after kz

theorem execSmuForceWrite_same {z : State} (k : Nat) (r : SmuReg) (v : Word) : RunsSame z (execSmuForceWrite k r v z) := by
  refine ⟨_, rfl, ?_⟩
  repeat' first
    | lift_lets -underBinder
    | (with_reducible first
        | assumption | exact Same.refl _ | apply Same.ite
        | (apply State.host_same; intro z; rotate_left; rotate_right) | apply smuForceWrite_same)

theorem ddsUpdate_same {z s : State} (kz : Same z s) (k : Nat) :
    Same z (ddsUpdate k s) := by
  unfold ddsUpdate
  repeat' first
    | lift_lets -underBinder
    | (intro x; clear_value x)
    | (with_reducible first
        | assumption | exact Same.refl _ | apply Same.ite | apply State.setSmu_same | apply State.clr_same
        | apply State.set1_same)
theorem ddsUpdate_keeps {z s : State} (kz : Keeps z s) (k : Nat) :
    Keeps z (ddsUpdate k s) :=
  (ddsUpdate_same (.refl _) _).keeps.after kz

theorem ddsAsk_same {z s : State} (kz : Same z s) (k : Nat) (start stop : Bool) :
    Same z (ddsAsk k start stop s) := by
  unfold ddsAsk
  repeat' first
    | lift_lets -underBinder
    | (with_reducible first | assumption | exact Same.refl _ | apply Same.ite | apply State.modSmu_same)
theorem ddsAsk_keeps {z s : State} (kz : Keeps z s) (k : Nat) (start stop : Bool) :
    Keeps z (ddsAsk k start stop s) :=
  (ddsAsk_same (.refl _) _ _ _).keeps.after kz

theorem ddsStartWrite_same {z s : State} (kz : Same z s) (g : Nat) (v : Word) :
    Same z (ddsStartWrite g v s) := by
  unfold ddsStartWrite
  repeat' first
    | lift_lets -underBinder
    | (intro x; refine Same.cut (s := z) (t := x) ?_ ?_; unfold x; clear x; rotate_left; intro _; clear_value x; rotate_right)
    | (intro x; clear_value x)
    | (with_reducible first
        | assumption | exact Same.refl _ | apply Same.ite
        | (apply State.each_same; intro _ z; rotate_left; rotate_right)
        | (apply State.when_same; intro z; rotate_left; rotate_right) | apply State.set1_same | apply ddsAsk_same
        | apply State.j_same)
theorem ddsStartWrite_keeps {z s : State} (kz : Keeps z s) (g : Nat) (v : Word) :
    Keeps z (ddsStartWrite g v s) :=
  (ddsStartWrite_same (.refl _) _ _).keeps.after kz

theorem execDdsStart_same {z : State} (g : Nat) (mask : Nat) : RunsSame z (execDdsStart g mask z) := by
  refine ⟨_, rfl, ?_⟩
  repeat' first
    | lift_lets -underBinder
    | (with_reducible first
        | assumption | exact Same.refl _ | apply Same.ite
        | (apply State.host_same; intro z; rotate_left; rotate_right) | apply ddsStartWrite_same)

theorem execDdsStop_same {z : State} (g : Nat) (mask : Nat) : RunsSame z (execDdsStop g mask z) := by
  refine ⟨_, rfl, ?_⟩
  repeat' first
    | lift_lets -underBinder
    | (with_reducible first
        | assumption | exact Same.refl _ | apply Same.ite
        | (apply State.host_same; intro z; rotate_left; rotate_right) | apply ddsStartWrite_same)

theorem ddsFtwWrite_same {z s : State} (kz : Same z s) (k : Nat) (v : Word) :
    Same z (ddsFtwWrite k v s) := by
  unfold ddsFtwWrite
  repeat' first
    | lift_lets -underBinder
    | (with_reducible first
        | assumption | exact Same.refl _ | apply Same.ite | apply State.set1_same | apply State.cfgWr_same)
theorem ddsFtwWrite_keeps {z s : State} (kz : Keeps z s) (k : Nat) (v : Word) :
    Keeps z (ddsFtwWrite k v s) :=
  (ddsFtwWrite_same (.refl _) _ _).keeps.after kz

theorem execDdsFtwWrite_same {z : State} (k : Nat) (v : Word) : RunsSame z (execDdsFtwWrite k v z) := by
  refine ⟨_, rfl, ?_⟩
  repeat' first
    | lift_lets -underBinder
    | (with_reducible first
        | assumption | exact Same.refl _ | apply Same.ite
        | (apply State.host_same; intro z; rotate_left; rotate_right) | apply ddsFtwWrite_same)

theorem ddsPhaseWrite_same {z s : State} (kz : Same z s) (k : Nat) (v : Word) :
    Same z (ddsPhaseWrite k v s) := by
  unfold ddsPhaseWrite
  repeat' first
    | lift_lets -underBinder
    | (intro x; refine Same.cut (s := z) (t := x) ?_ ?_; unfold x; clear x; rotate_left; intro _; clear_value x; rotate_right)
    | (with_reducible first
        | assumption | exact Same.refl _ | apply Same.ite | apply State.set1_same | apply State.cfgWr_same
        | apply State.draw_same | apply State.setSmu_same)
theorem ddsPhaseWrite_keeps {z s : State} (kz : Keeps z s) (k : Nat) (v : Word) :
    Keeps z (ddsPhaseWrite k v s) :=
  (ddsPhaseWrite_same (.refl _) _ _).keeps.after kz

theorem execDdsPhaseWrite_same {z : State} (k : Nat) (v : Word) : RunsSame z (execDdsPhaseWrite k v z) := by
  refine ⟨_, rfl, ?_⟩
  repeat' first
    | lift_lets -underBinder
    | (with_reducible first
        | assumption | exact Same.refl _ | apply Same.ite
        | (apply State.host_same; intro z; rotate_left; rotate_right) | apply ddsPhaseWrite_same)

theorem ddsAmplWrite_same {z s : State} (kz : Same z s) (k : Nat) (v : Word) :
    Same z (ddsAmplWrite k v s) := by
  unfold ddsAmplWrite
  repeat' first
    | lift_lets -underBinder
    | (with_reducible first
        | assumption | exact Same.refl _ | apply Same.ite | apply State.set1_same | apply State.cfgWr_same)
theorem ddsAmplWrite_keeps {z s : State} (kz : Keeps z s) (k : Nat) (v : Word) :
    Keeps z (ddsAmplWrite k v s) :=
  (ddsAmplWrite_same (.refl _) _ _).keeps.after kz

theorem smuCodeOut_same {z s : State} (kz : Same z s) (k : Nat) :
    Same z (smuCodeOut k s) := by
  unfold smuCodeOut
  repeat' first
    | lift_lets -underBinder
    | (intro x; clear_value x)
    | (with_reducible first
        | assumption | exact Same.refl _ | apply Same.ite | apply State.clr_same | apply State.setSmu_same)
theorem smuCodeOut_keeps {z s : State} (kz : Keeps z s) (k : Nat) :
    Keeps z (smuCodeOut k s) :=
  (smuCodeOut_same (.refl _) _).keeps.after kz

theorem smuStep_same {z s : State} (kz : Same z s) (k : Nat) :
    Same z (smuStep k s) := by
  unfold smuStep
  repeat' first
    | lift_lets -underBinder
    | (intro x; clear_value x)
    | (with_reducible first
        | assumption | exact Same.refl _ | apply Same.ite | apply State.draw_same | apply State.setSmu_same
        | apply smuCodeOut_same | refine Same.pair2 (by assumption) ?_)
    | (with_reducible apply Same.base; with_reducible first
        | assumption | exact Same.refl _ | apply Same.ite | apply State.draw_same | apply State.setSmu_same
        | apply smuCodeOut_same | refine Same.pair2 (by assumption) ?_)
    | split
theorem smuStep_keeps {z s : State} (kz : Keeps z s) (k : Nat) :
    Keeps z (smuStep k s) :=
  (smuStep_same (.refl _) _).keeps.after kz

theorem smuOutput_same {z s : State} (kz : Same z s) (k : Nat) :
    Same z (smuOutput k s) := by
  unfold smuOutput
  repeat' first
    | lift_lets -underBinder
    | (intro x; clear_value x)
    | (with_reducible first
        | assumption | exact Same.refl _ | apply Same.ite | apply State.setSmu_same
        | (apply State.when_same; intro z; rotate_left; rotate_right) | apply State.set1_same)
theorem smuOutput_keeps {z s : State} (kz : Keeps z s) (k : Nat) :
    Keeps z (smuOutput k s) :=
  (smuOutput_same (.refl _) _).keeps.after kz

theorem smuSafeUpdate_same {z s : State} (kz : Same z s) (k : Nat) :
    Same z (smuSafeUpdate k s) := by
  unfold smuSafeUpdate
  repeat' first
    | lift_lets -underBinder
    | (intro x; clear_value x)
    | (with_reducible first | assumption | exact Same.refl _ | apply Same.ite | apply State.modSmu_same)
theorem smuSafeUpdate_keeps {z s : State} (kz : Keeps z s) (k : Nat) :
    Keeps z (smuSafeUpdate k s) :=
  (smuSafeUpdate_same (.refl _) _).keeps.after kz

theorem smuUpdate_same {z s : State} (kz : Same z s) (k : Nat) :
    Same z (smuUpdate k s) := by
  unfold smuUpdate
  repeat' first
    | lift_lets -underBinder
    | (with_reducible first
        | assumption | exact Same.refl _ | apply Same.ite | apply smuSafeUpdate_same | apply smuOutput_same
        | apply ddsUpdate_same | apply smuStep_same)
theorem smuUpdate_keeps {z s : State} (kz : Keeps z s) (k : Nat) :
    Keeps z (smuUpdate k s) :=
  (smuUpdate_same (.refl _) _).keeps.after kz

theorem execSmuForceUpdate_same {z : State} (g pdiss : Nat) : RunsSame z (execSmuForceUpdate g pdiss z) := by
  refine ⟨_, rfl, ?_⟩
  repeat' first
    | lift_lets -underBinder
    | (intro x; refine Same.cut (s := z) (t := x) ?_ ?_; unfold x; clear x; rotate_left; intro _; clear_value x; rotate_right)
    | (with_reducible first
        | assumption | exact Same.refl _ | apply Same.ite | apply State.p_same
        | (apply State.each_same; intro _ z; rotate_left; rotate_right) | apply smuUpdate_same
        | apply State.modGrp_same)

theorem execSmuBridgeEnd_same {z : State} (k : Nat) : RunsSame z (execSmuBridgeEnd k z) := by
  refine ⟨_, rfl, ?_⟩
  repeat' first
    | lift_lets -underBinder
    | (intro x; refine Same.cut (s := z) (t := x) ?_ ?_; unfold x; clear x; rotate_left; intro _; clear_value x; rotate_right)
    | (intro x; clear_value x)
    | (with_reducible first
        | assumption | exact Same.refl _ | apply Same.ite | apply State.setSmu_same | apply State.clr_same
        | apply smuRequest_same)
    | (with_reducible apply Same.base; with_reducible first
        | assumption | exact Same.refl _ | apply Same.ite | apply State.setSmu_same | apply State.clr_same
        | apply smuRequest_same)
    | split

theorem smuClamp_same {z s : State} (kz : Same z s) (k : Nat) (on : Bool) :
    Same z (smuClamp k on s) := by
  unfold smuClamp
  repeat' first
    | lift_lets -underBinder
    | (intro x; refine Same.cut (s := z) (t := x) ?_ ?_; unfold x; clear x; rotate_left; intro _; clear_value x; rotate_right)
    | (with_reducible first
        | assumption | exact Same.refl _ | apply Same.ite | apply State.set1_same | apply State.emit_same
        | apply smuTrip_same | apply State.clr_same)
theorem smuClamp_keeps {z s : State} (kz : Keeps z s) (k : Nat) (on : Bool) :
    Keeps z (smuClamp k on s) :=
  (smuClamp_same (.refl _) _ _).keeps.after kz

theorem execSmuClamp_same {z : State} (k : Nat) (on : Bool) : RunsSame z (execSmuClamp k on z) := by
  refine ⟨_, rfl, ?_⟩
  repeat' first
    | lift_lets -underBinder
    | (with_reducible first | assumption | exact Same.refl _ | apply Same.ite | apply smuClamp_same)

theorem execSmuTrip_same {z : State} (k src : Nat) : RunsSame z (execSmuTrip k src z) := by
  refine ⟨_, rfl, ?_⟩
  repeat' first
    | lift_lets -underBinder
    | (with_reducible first | assumption | exact Same.refl _ | apply Same.ite | apply smuTrip_same)

theorem execSmuSwitchOpen_same {z : State} (k : Nat) : RunsSame z (execSmuSwitchOpen k z) := by
  refine ⟨_, rfl, ?_⟩
  repeat' first
    | lift_lets -underBinder
    | (with_reducible first | assumption | exact Same.refl _ | apply Same.ite | apply State.modSmu_same)

theorem smuTripClear_same {z s : State} (kz : Same z s) (k : Nat) :
    Same z (smuTripClear k s) := by
  unfold smuTripClear
  repeat' first
    | lift_lets -underBinder
    | (intro x; refine Same.cut (s := z) (t := x) ?_ ?_; unfold x; clear x; rotate_left; intro _; clear_value x; rotate_right)
    | (with_reducible first
        | assumption | exact Same.refl _ | apply Same.ite | apply State.clr_same | apply State.modSmu_same
        | apply smuTrip_same)
    | (with_reducible apply Same.base; with_reducible first
        | assumption | exact Same.refl _ | apply Same.ite | apply State.clr_same | apply State.modSmu_same
        | apply smuTrip_same)
    | split
theorem smuTripClear_keeps {z s : State} (kz : Keeps z s) (k : Nat) :
    Keeps z (smuTripClear k s) :=
  (smuTripClear_same (.refl _) _).keeps.after kz

theorem execSmuTripClear_same {z : State} (k : Nat) : RunsSame z (execSmuTripClear k z) := by
  refine ⟨_, rfl, ?_⟩
  repeat' first
    | lift_lets -underBinder
    | (with_reducible first
        | assumption | exact Same.refl _ | apply Same.ite
        | (apply State.host_same; intro z; rotate_left; rotate_right)
        | (apply State.when_same; intro z; rotate_left; rotate_right) | apply smuTripClear_same)

theorem execPdissTrip_same {z : State} (g : Nat) : RunsSame z (execPdissTrip g z) := by
  refine ⟨_, rfl, ?_⟩
  repeat' first
    | lift_lets -underBinder
    | (with_reducible first
        | assumption | exact Same.refl _ | apply Same.ite
        | (apply State.each_same; intro _ z; rotate_left; rotate_right) | apply smuTrip_same | apply State.set1_same
        | apply State.raise_same)

theorem grpStat_same {z s : State} (kz : Same z s) (g : Nat) :
    Same z (grpStat g s) := by
  unfold grpStat
  repeat' first
    | lift_lets -underBinder
    | (with_reducible first
        | assumption | exact Same.refl _ | apply Same.ite | apply State.p_same | apply State.pb_same)
theorem grpStat_keeps {z s : State} (kz : Keeps z s) (g : Nat) :
    Keeps z (grpStat g s) :=
  (grpStat_same (.refl _) _).keeps.after kz

theorem claimUpdate_same {z s : State} (kz : Same z s) (g : Nat) :
    Same z (claimUpdate g s) := by
  unfold claimUpdate
  repeat' first
    | lift_lets -underBinder
    | (intro x; clear_value x)
    | (with_reducible first | assumption | exact Same.refl _ | apply Same.ite | apply State.clr_same)
theorem claimUpdate_keeps {z s : State} (kz : Keeps z s) (g : Nat) :
    Keeps z (claimUpdate g s) :=
  (claimUpdate_same (.refl _) _).keeps.after kz

theorem measFinish_same {z s : State} (kz : Same z s) (g : Nat) (r : MeasReq) (code : Int) (mout : Bool) :
    Same z (measFinish g r code mout s) := by
  unfold measFinish
  repeat' first
    | lift_lets -underBinder
    | (intro x; refine Same.cut (s := z) (t := x) ?_ ?_; unfold x; clear x; rotate_left; intro _; clear_value x; rotate_right)
    | (with_reducible first
        | assumption | exact Same.refl _ | apply Same.ite
        | (apply State.when_same; intro z; rotate_left; rotate_right) | apply State.modAlc_same | apply State.p_same
        | apply State.emit_same | apply State.j_same)
theorem measFinish_keeps {z s : State} (kz : Keeps z s) (g : Nat) (r : MeasReq) (code : Int) (mout : Bool) :
    Keeps z (measFinish g r code mout s) :=
  (measFinish_same (.refl _) _ _ _ _).keeps.after kz

theorem msetApply_same {z s : State} (kz : Same z s) (g : Nat) (r : MeasReq) :
    Same z (msetApply g r s) := by
  unfold msetApply
  repeat' first
    | lift_lets -underBinder
    | (intro x; refine Same.cut (s := z) (t := x) ?_ ?_; unfold x; clear x; rotate_left; intro _; clear_value x; rotate_right)
    | (intro x; clear_value x)
    | (with_reducible first
        | assumption | exact Same.refl _ | apply Same.ite
        | (apply State.when_same; intro z; rotate_left; rotate_right) | apply smuRequest_same
        | apply State.modSmu_same)
theorem msetApply_keeps {z s : State} (kz : Keeps z s) (g : Nat) (r : MeasReq) :
    Keeps z (msetApply g r s) :=
  (msetApply_same (.refl _) _ _).keeps.after kz

theorem measArrive_same {z s : State} (kz : Same z s) (g : Nat) :
    Same z (measArrive g s) := by
  unfold measArrive
  repeat' first
    | lift_lets -underBinder
    | (intro x; refine Same.cut (s := z) (t := x) ?_ ?_; unfold x; clear x; rotate_left; intro _; clear_value x; rotate_right)
    | (with_reducible first
        | assumption | exact Same.refl _ | apply Same.ite | apply State.modGrp_same | apply claimUpdate_same
        | apply measFinish_same | apply grpStat_same | apply msetApply_same | apply State.set1_same
        | apply State.count_same | apply State.raise_same)
    | (with_reducible apply Same.base; with_reducible first
        | assumption | exact Same.refl _ | apply Same.ite | apply State.modGrp_same | apply claimUpdate_same
        | apply measFinish_same | apply grpStat_same | apply msetApply_same | apply State.set1_same
        | apply State.count_same | apply State.raise_same)
    | split
theorem measArrive_keeps {z s : State} (kz : Keeps z s) (g : Nat) :
    Keeps z (measArrive g s) :=
  (measArrive_same (.refl _) _).keeps.after kz

theorem execMeasDelayEnd_same {z : State} (g j : Nat) : RunsSame z (execMeasDelayEnd g j z) := by
  refine ⟨_, rfl, ?_⟩
  repeat' first
    | lift_lets -underBinder
    | (with_reducible first | assumption | exact Same.refl _ | apply Same.ite | apply State.modGrp_same)
    | (with_reducible apply Same.base; with_reducible first
        | assumption | exact Same.refl _ | apply Same.ite | apply State.modGrp_same)
    | split

theorem execMeasConvert_same {z : State} (g : Nat) (code : Int) : RunsSame z (execMeasConvert g code z) := by
  refine ⟨_, rfl, ?_⟩
  repeat' first
    | lift_lets -underBinder
    | (with_reducible first | assumption | exact Same.refl _ | apply Same.ite | apply State.modGrp_same)
    | (with_reducible apply Same.base; with_reducible first
        | assumption | exact Same.refl _ | apply Same.ite | apply State.modGrp_same)
    | split

theorem measDone_same {z s : State} (kz : Same z s) (g : Nat) :
    Same z (measDone g s) := by
  unfold measDone
  repeat' first
    | lift_lets -underBinder
    | (intro x; refine Same.cut (s := z) (t := x) ?_ ?_; unfold x; clear x; rotate_left; intro _; clear_value x; rotate_right)
    | (intro x; clear_value x)
    | (with_reducible first
        | assumption | exact Same.refl _ | apply Same.ite | apply grpStat_same | apply State.modGrp_same
        | apply claimUpdate_same | apply measFinish_same)
    | (with_reducible apply Same.base; with_reducible first
        | assumption | exact Same.refl _ | apply Same.ite | apply grpStat_same | apply State.modGrp_same
        | apply claimUpdate_same | apply measFinish_same)
    | split
theorem measDone_keeps {z s : State} (kz : Keeps z s) (g : Nat) :
    Keeps z (measDone g s) :=
  (measDone_same (.refl _) _).keeps.after kz

theorem grpFence_same {z s : State} (kz : Same z s) (g : Nat) :
    Same z (grpFence g s) := by
  unfold grpFence
  repeat' first
    | lift_lets -underBinder
    | (intro x; refine Same.cut (s := z) (t := x) ?_ ?_; unfold x; clear x; rotate_left; intro _; clear_value x; rotate_right)
    | (intro x; clear_value x)
    | (with_reducible first
        | assumption | exact Same.refl _ | apply Same.ite | apply State.setGrp_same
        | (apply State.over_same; intro _ z; rotate_left; rotate_right) | apply measFinish_same | apply grpStat_same
        | apply State.clr_same | (apply State.each_same; intro _ z; rotate_left; rotate_right)
        | apply State.modBank_same | apply State.set1_same | apply smuSafe_same)
theorem grpFence_keeps {z s : State} (kz : Keeps z s) (g : Nat) :
    Keeps z (grpFence g s) :=
  (grpFence_same (.refl _) _).keeps.after kz

theorem msetWrite_same {z s : State} (kz : Same z s) (g m : Nat) (w : Nat) (v : Word) :
    Same z (msetWrite g m w v s) := by
  unfold msetWrite
  repeat' first
    | lift_lets -underBinder
    | (intro x; clear_value x)
    | (with_reducible first
        | assumption | exact Same.refl _ | apply Same.ite | apply State.set1_same | apply State.cfgWr_same)
    | (with_reducible apply Same.base; with_reducible first
        | assumption | exact Same.refl _ | apply Same.ite | apply State.set1_same | apply State.cfgWr_same)
    | split
theorem msetWrite_keeps {z s : State} (kz : Keeps z s) (g m : Nat) (w : Nat) (v : Word) :
    Keeps z (msetWrite g m w v s) :=
  (msetWrite_same (.refl _) _ _ _ _).keeps.after kz

theorem execMsetWrite_same {z : State} (g m w : Nat) (v : Word) : RunsSame z (execMsetWrite g m w v z) := by
  refine ⟨_, rfl, ?_⟩
  repeat' first
    | lift_lets -underBinder
    | (with_reducible first
        | assumption | exact Same.refl _ | apply Same.ite
        | (apply State.host_same; intro z; rotate_left; rotate_right) | apply msetWrite_same)

end Sys2Proof.Machine
end

