-- ==== Sys2Proof/Laws/SamePins.lean ====
section
/-! SUPPORT. What the operations of Machine.Pins keep: the part, the queue, the canonical tables, and where they store no bulk
memory all of it. -/
set_option linter.unreachableTactic false
set_option linter.unusedTactic false
namespace Sys2Proof.Machine

theorem State.setLevel_same {z s : State} (kz : Same z s) (h n c : Nat) (v : BitVec 128) :
    Same z (State.setLevel s h n c v) := by
  unfold State.setLevel
  repeat' first
    | lift_lets -underBinder
    | (with_reducible first | assumption | exact Same.refl _ | apply Same.ite)
    | (with_reducible apply Same.base; with_reducible assumption)
theorem State.setLevel_keeps {z s : State} (kz : Keeps z s) (h n c : Nat) (v : BitVec 128) :
    Keeps z (State.setLevel s h n c v) :=
  (State.setLevel_same (.refl _) _ _ _ _).keeps.after kz

theorem dacPut_same {z s : State} (kz : Same z s) (h c : Nat) (f : Nat → Nat) :
    Same z (dacPut h c f s) := by
  unfold dacPut
  repeat' first
    | lift_lets -underBinder
    | (intro x; refine Same.cut (s := z) (t := x) ?_ ?_; unfold x; clear x; rotate_left; intro _; clear_value x; rotate_right)
    | (with_reducible first | assumption | exact Same.refl _ | apply Same.ite | apply State.p_same)
theorem dacPut_keeps {z s : State} (kz : Keeps z s) (h c : Nat) (f : Nat → Nat) :
    Keeps z (dacPut h c f s) :=
  (dacPut_same (.refl _) _ _ _).keeps.after kz

theorem lvlOut_same {z s : State} (kz : Same z s) (h c : Nat) :
    Same z (lvlOut h c s) := by
  unfold lvlOut
  repeat' first
    | lift_lets -underBinder
    | (intro x; refine Same.cut (s := z) (t := x) ?_ ?_; unfold x; clear x; rotate_left; intro _; clear_value x; rotate_right)
    | (intro x; clear_value x)
    | (with_reducible first
        | assumption | exact Same.refl _ | apply Same.ite | apply dacPut_same | apply State.p_same
        | apply State.clr_same | (apply State.when_same; intro z; rotate_left; rotate_right) | apply State.set1_same
        | apply State.modCh_same)
theorem lvlOut_keeps {z s : State} (kz : Keeps z s) (h c : Nat) :
    Keeps z (lvlOut h c s) :=
  (lvlOut_same (.refl _) _ _).keeps.after kz

theorem bridgeStart_same {z s : State} (kz : Same z s) (h c : Nat) :
    Same z (bridgeStart h c s) := by
  unfold bridgeStart
  repeat' first
    | lift_lets -underBinder
    | (with_reducible first
        | assumption | exact Same.refl _ | apply Same.ite | apply blankUpdate_same | apply State.set1_same
        | apply State.modCh_same)
theorem bridgeStart_keeps {z s : State} (kz : Keeps z s) (h c : Nat) :
    Keeps z (bridgeStart h c s) :=
  (bridgeStart_same (.refl _) _ _).keeps.after kz

theorem lvlAsk_same {z s : State} (kz : Same z s) (h c : Nat) :
    Same z (lvlAsk h c s) := by
  unfold lvlAsk
  repeat' first
    | lift_lets -underBinder
    | (with_reducible first
        | assumption | exact Same.refl _ | apply Same.ite | apply bridgeStart_same | apply State.modCh_same)
theorem lvlAsk_keeps {z s : State} (kz : Keeps z s) (h c : Nat) :
    Keeps z (lvlAsk h c s) :=
  (lvlAsk_same (.refl _) _ _).keeps.after kz

theorem levelApply_same {z s : State} (kz : Same z s) (h c ls : Nat) :
    Same z (levelApply h c ls s) := by
  unfold levelApply
  repeat' first
    | lift_lets -underBinder
    | (intro x; refine Same.cut (s := z) (t := x) ?_ ?_; unfold x; clear x; rotate_left; intro _; clear_value x; rotate_right)
    | (intro x; clear_value x)
    | (with_reducible first
        | assumption | exact Same.refl _ | apply Same.ite | apply State.p_same | apply State.setCh_same
        | apply lvlAsk_same)
theorem levelApply_keeps {z s : State} (kz : Keeps z s) (h c ls : Nat) :
    Keeps z (levelApply h c ls s) :=
  (levelApply_same (.refl _) _ _ _).keeps.after kz

theorem bridgeStop_same {z s : State} (kz : Same z s) (h c : Nat) :
    Same z (bridgeStop h c s) := by
  unfold bridgeStop
  repeat' first
    | lift_lets -underBinder
    | (with_reducible first
        | assumption | exact Same.refl _ | apply Same.ite | apply State.clr_same | apply State.modCh_same)
theorem bridgeStop_keeps {z s : State} (kz : Keeps z s) (h c : Nat) :
    Keeps z (bridgeStop h c s) :=
  (bridgeStop_same (.refl _) _ _).keeps.after kz

theorem chClear_same {z s : State} (kz : Same z s) (h c : Nat) :
    Same z (chClear h c s) := by
  unfold chClear
  repeat' first
    | lift_lets -underBinder
    | (intro x; clear_value x)
    | (with_reducible first
        | assumption | exact Same.refl _ | apply Same.ite | apply blankUpdate_same | apply dacPut_same
        | apply bridgeStop_same | apply State.set1_same)
theorem chClear_keeps {z s : State} (kz : Keeps z s) (h c : Nat) :
    Keeps z (chClear h c s) :=
  (chClear_same (.refl _) _ _).keeps.after kz

theorem peSafe_same {z s : State} (kz : Same z s) (h c : Nat) :
    Same z (peSafe h c s) := by
  unfold peSafe
  repeat' first
    | lift_lets -underBinder
    | (intro x; refine Same.cut (s := z) (t := x) ?_ ?_; unfold x; clear x; rotate_left; intro _; clear_value x; rotate_right)
    | (with_reducible first
        | assumption | exact Same.refl _ | apply Same.ite | apply State.set1_same | apply State.modCh_same
        | apply settle_same | apply enEff_same | apply chClear_same)
theorem peSafe_keeps {z s : State} (kz : Keeps z s) (h c : Nat) :
    Keeps z (peSafe h c s) :=
  (peSafe_same (.refl _) _ _).keeps.after kz

theorem peRelease_same {z s : State} (kz : Same z s) (h c : Nat) :
    Same z (peRelease h c s) := by
  unfold peRelease
  repeat' first
    | lift_lets -underBinder
    | (with_reducible first
        | assumption | exact Same.refl _ | apply Same.ite | apply enEff_same | apply compEnable_same
        | apply State.clr_same | apply State.modCh_same)
theorem peRelease_keeps {z s : State} (kz : Keeps z s) (h c : Nat) :
    Keeps z (peRelease h c s) :=
  (peRelease_same (.refl _) _ _).keeps.after kz

theorem levelsApply_same {z s : State} (kz : Same z s) (h b : Nat) :
    Same z (levelsApply h b s) := by
  unfold levelsApply
  repeat' first
    | lift_lets -underBinder
    | (intro x; refine Same.cut (s := z) (t := x) ?_ ?_; unfold x; clear x; rotate_left; intro _; clear_value x; rotate_right)
    | (with_reducible first
        | assumption | exact Same.refl _ | apply Same.ite
        | (apply State.each_same; intro _ z; rotate_left; rotate_right) | apply levelApply_same
        | apply State.modPeh_same | apply lvlAsk_same)
    | (with_reducible apply Same.base; with_reducible first
        | assumption | exact Same.refl _ | apply Same.ite | apply levelApply_same | apply State.modPeh_same
        | apply lvlAsk_same)
    | split
theorem levelsApply_keeps {z s : State} (kz : Keeps z s) (h b : Nat) :
    Keeps z (levelsApply h b s) :=
  (levelsApply_same (.refl _) _ _).keeps.after kz

theorem levelUpdate_same {z s : State} (kz : Same z s) (h c : Nat) :
    Same z (levelUpdate h c s) := by
  unfold levelUpdate
  repeat' first
    | lift_lets -underBinder
    | (intro (x : _ → _ → State); unfold x; clear x)
    | (with_reducible first
        | assumption | exact Same.refl _ | apply Same.ite | apply bridgeStart_same | apply lvlOut_same
        | apply State.modPeh_same | (apply State.each_same; intro _ z; rotate_left; rotate_right))
theorem levelUpdate_keeps {z s : State} (kz : Keeps z s) (h c : Nat) :
    Keeps z (levelUpdate h c s) :=
  (levelUpdate_same (.refl _) _ _).keeps.after kz

theorem execLevelUpdate_same {z : State} (h c : Nat) : RunsSame z (execLevelUpdate h c z) := by
  refine ⟨_, rfl, ?_⟩
  repeat' first
    | lift_lets -underBinder
    | (with_reducible first | assumption | exact Same.refl _ | apply Same.ite | apply levelUpdate_same)

theorem rangeCross_same {z s : State} (kz : Same z s) (h c : Nat) :
    Same z (rangeCross h c s) := by
  unfold rangeCross
  repeat' first
    | lift_lets -underBinder
    | (intro x; refine Same.cut (s := z) (t := x) ?_ ?_; unfold x; clear x; rotate_left; intro _; clear_value x; rotate_right)
    | (intro x; clear_value x)
    | (with_reducible first
        | assumption | exact Same.refl _ | apply Same.ite | apply dacPut_same | apply State.p_same
        | apply State.setCh_same)
theorem rangeCross_keeps {z s : State} (kz : Keeps z s) (h c : Nat) :
    Keeps z (rangeCross h c s) :=
  (rangeCross_same (.refl _) _ _).keeps.after kz

theorem execRangeCrossover_same {z : State} (h c : Nat) : RunsSame z (execRangeCrossover h c z) := by
  refine ⟨_, rfl, ?_⟩
  repeat' first
    | lift_lets -underBinder
    | (with_reducible first | assumption | exact Same.refl _ | apply Same.ite | apply rangeCross_same)

theorem rangeTarget_same {z s : State} (kz : Same z s) (h c : Nat) :
    Same z (rangeTarget h c s) := by
  unfold rangeTarget
  repeat' first
    | lift_lets -underBinder
    | (with_reducible first
        | assumption | exact Same.refl _ | apply Same.ite | apply lvlOut_same | apply State.modCh_same)
theorem rangeTarget_keeps {z s : State} (kz : Keeps z s) (h c : Nat) :
    Keeps z (rangeTarget h c s) :=
  (rangeTarget_same (.refl _) _ _).keeps.after kz

theorem execRangeTarget_same {z : State} (h c : Nat) : RunsSame z (execRangeTarget h c z) := by
  refine ⟨_, rfl, ?_⟩
  repeat' first
    | lift_lets -underBinder
    | (with_reducible first | assumption | exact Same.refl _ | apply Same.ite | apply rangeTarget_same)

theorem rangeEnd_same {z s : State} (kz : Same z s) (h c : Nat) :
    Same z (rangeEnd h c s) := by
  unfold rangeEnd
  repeat' first
    | lift_lets -underBinder
    | (intro x; refine Same.cut (s := z) (t := x) ?_ ?_; unfold x; clear x; rotate_left; intro _; clear_value x; rotate_right)
    | (intro x; clear_value x)
    | (with_reducible first
        | assumption | exact Same.refl _ | apply Same.ite | apply State.clr_same | apply State.setCh_same
        | apply blankUpdate_same | apply bridgeStart_same)
theorem rangeEnd_keeps {z s : State} (kz : Keeps z s) (h c : Nat) :
    Keeps z (rangeEnd h c s) :=
  (rangeEnd_same (.refl _) _ _).keeps.after kz

theorem execRangeBridgeEnd_same {z : State} (h c : Nat) : RunsSame z (execRangeBridgeEnd h c z) := by
  refine ⟨_, rfl, ?_⟩
  repeat' first
    | lift_lets -underBinder
    | (with_reducible first | assumption | exact Same.refl _ | apply Same.ite | apply rangeEnd_same)

theorem peCtlWrite_same {z s : State} (kz : Same z s) (h c : Nat) (v : Word) :
    Same z (peCtlWrite h c v s) := by
  unfold peCtlWrite
  repeat' first
    | lift_lets -underBinder
    | (intro x; refine Same.cut (s := z) (t := x) ?_ ?_; unfold x; clear x; rotate_left; intro _; clear_value x; rotate_right)
    | (intro x; clear_value x)
    | (with_reducible first
        | assumption | exact Same.refl _ | apply Same.ite | apply State.set1_same | apply State.wr_same
        | apply peRelease_same | apply enEff_same | apply compEnable_same | apply State.modCh_same | apply settle_same
        | apply lvlAsk_same | apply blankUpdate_same)
theorem peCtlWrite_keeps {z s : State} (kz : Keeps z s) (h c : Nat) (v : Word) :
    Keeps z (peCtlWrite h c v s) :=
  (peCtlWrite_same (.refl _) _ _ _).keeps.after kz

theorem execPeEnWrite_same {z : State} (h c : Nat) (en : Bool) : RunsSame z (execPeEnWrite h c en z) := by
  refine ⟨_, rfl, ?_⟩
  repeat' first
    | lift_lets -underBinder
    | (with_reducible first
        | assumption | exact Same.refl _ | apply Same.ite
        | (apply State.host_same; intro z; rotate_left; rotate_right) | apply peCtlWrite_same)

theorem execDacArchWrite_same {z : State} (h c : Nat) (arch : Bool) : RunsSame z (execDacArchWrite h c arch z) := by
  refine ⟨_, rfl, ?_⟩
  repeat' first
    | lift_lets -underBinder
    | (with_reducible first
        | assumption | exact Same.refl _ | apply Same.ite
        | (apply State.host_same; intro z; rotate_left; rotate_right) | apply peCtlWrite_same)

theorem execCompSettleEnd_same {z : State} (h c : Nat) (nv : Int) : RunsSame z (execCompSettleEnd h c nv z) := by
  refine ⟨_, rfl, ?_⟩
  repeat' first
    | lift_lets -underBinder
    | (with_reducible first
        | assumption | exact Same.refl _ | apply Same.ite | apply peTest_same | apply compSee_same
        | apply State.modCh_same)

theorem latchRecord_same {z s : State} (kz : Same z s) (h c : Nat) (seen : List Nat) :
    Same z (latchRecord h c seen s) := by
  unfold latchRecord
  repeat' first
    | lift_lets -underBinder
    | (intro x; refine Same.cut (s := z) (t := x) ?_ ?_; unfold x; clear x; rotate_left; intro _; clear_value x; rotate_right)
    | (with_reducible first
        | assumption | exact Same.refl _ | apply Same.ite
        | (apply State.when_same; intro z; rotate_left; rotate_right) | apply State.wr_same
        | (apply State.over_same; intro _ z; rotate_left; rotate_right) | apply State.set1_same | apply State.p_same)
    | (with_reducible apply Same.base; with_reducible first
        | assumption | exact Same.refl _ | apply Same.ite | apply State.wr_same | apply State.set1_same
        | apply State.p_same)
    | split
theorem latchRecord_keeps {z s : State} (kz : Keeps z s) (h c : Nat) (seen : List Nat) :
    Keeps z (latchRecord h c seen s) :=
  (latchRecord_same (.refl _) _ _ _).keeps.after kz

theorem execPeTrip_same {z : State} (h c : Nat) (nv : Int) : RunsSame z (execPeTrip h c nv z) := by
  refine ⟨_, rfl, ?_⟩
  repeat' first
    | lift_lets -underBinder
    | (with_reducible first
        | assumption | exact Same.refl _ | apply Same.ite | apply peTest_same | apply compSee_same)

theorem tripClear_same {z s : State} (kz : Same z s) (h c : Nat) :
    Same z (tripClear h c s) := by
  unfold tripClear
  repeat' first
    | lift_lets -underBinder
    | (intro x; refine Same.cut (s := z) (t := x) ?_ ?_; unfold x; clear x; rotate_left; intro _; clear_value x; rotate_right)
    | (intro x; clear_value x)
    | (with_reducible first
        | assumption | exact Same.refl _ | apply Same.ite | apply State.clr_same | apply State.p_same
        | apply peTest_same | apply State.modCh_same)
theorem tripClear_keeps {z s : State} (kz : Keeps z s) (h c : Nat) :
    Keeps z (tripClear h c s) :=
  (tripClear_same (.refl _) _ _).keeps.after kz

theorem execTripClear_same {z : State} (h c : Nat) (nv : Int) : RunsSame z (execTripClear h c nv z) := by
  refine ⟨_, rfl, ?_⟩
  repeat' first
    | lift_lets -underBinder
    | (with_reducible first
        | assumption | exact Same.refl _ | apply Same.ite
        | (apply State.host_same; intro z; rotate_left; rotate_right) | apply compSee_same
        | (apply State.when_same; intro z; rotate_left; rotate_right) | apply tripClear_same)

theorem tripCtlWrite_same {z s : State} (kz : Same z s) (h c : Nat) (v : Word) :
    Same z (tripCtlWrite h c v s) := by
  unfold tripCtlWrite
  repeat' first
    | lift_lets -underBinder
    | (with_reducible first
        | assumption | exact Same.refl _ | apply Same.ite | apply State.set1_same | apply peTest_same
        | apply State.wr_same)
theorem tripCtlWrite_keeps {z s : State} (kz : Keeps z s) (h c : Nat) (v : Word) :
    Keeps z (tripCtlWrite h c v s) :=
  (tripCtlWrite_same (.refl _) _ _ _).keeps.after kz

theorem execTripCtlWrite_same {z : State} (h c : Nat) (v : Word) : RunsSame z (execTripCtlWrite h c v z) := by
  refine ⟨_, rfl, ?_⟩
  repeat' first
    | lift_lets -underBinder
    | (with_reducible first
        | assumption | exact Same.refl _ | apply Same.ite
        | (apply State.host_same; intro z; rotate_left; rotate_right) | apply tripCtlWrite_same)

theorem ppOn_same {z s : State} (kz : Same z s) (h mask : Nat) :
    Same z (ppOn h mask s) := by
  unfold ppOn
  repeat' first
    | lift_lets -underBinder
    | (with_reducible first
        | assumption | exact Same.refl _ | apply Same.ite
        | (apply State.each_same; intro _ z; rotate_left; rotate_right) | apply blankUpdate_same
        | apply State.modCh_same)
theorem ppOn_keeps {z s : State} (kz : Keeps z s) (h mask : Nat) :
    Keeps z (ppOn h mask s) :=
  (ppOn_same (.refl _) _ _).keeps.after kz

theorem ppOff_same {z s : State} (kz : Same z s) (h mask : Nat) :
    Same z (ppOff h mask s) := by
  unfold ppOff
  repeat' first
    | lift_lets -underBinder
    | (intro x; refine Same.cut (s := z) (t := x) ?_ ?_; unfold x; clear x; rotate_left; intro _; clear_value x; rotate_right)
    | (with_reducible first
        | assumption | exact Same.refl _ | apply Same.ite
        | (apply State.each_same; intro _ z; rotate_left; rotate_right) | apply State.modCh_same
        | apply blankUpdate_same | apply compEnable_same)
theorem ppOff_keeps {z s : State} (kz : Keeps z s) (h mask : Nat) :
    Keeps z (ppOff h mask s) :=
  (ppOff_same (.refl _) _ _).keeps.after kz

theorem ppStore_same {z s : State} (kz : Same z s) (h c : Nat) (mv : Int) :
    Same z (ppStore h c mv s) := by
  unfold ppStore
  repeat' first
    | lift_lets -underBinder
    | (intro x; clear_value x)
    | (with_reducible first
        | assumption | exact Same.refl _ | apply Same.ite | apply State.set1_same | apply State.pb_same
        | apply State.p_same)
theorem ppStore_keeps {z s : State} (kz : Keeps z s) (h c : Nat) (mv : Int) :
    Keeps z (ppStore h c mv s) :=
  (ppStore_same (.refl _) _ _ _).keeps.after kz

theorem State.ppStoreAll_same {z s : State} (kz : Same z s) (h mask : Nat) (mv : List Int) :
    Same z (State.ppStoreAll s h mask mv) := by
  unfold State.ppStoreAll
  repeat' first
    | lift_lets -underBinder
    | (with_reducible first
        | assumption | exact Same.refl _ | apply Same.ite
        | (apply State.each_same; intro _ z; rotate_left; rotate_right) | apply ppStore_same)
theorem State.ppStoreAll_keeps {z s : State} (kz : Keeps z s) (h mask : Nat) (mv : List Int) :
    Keeps z (State.ppStoreAll s h mask mv) :=
  (State.ppStoreAll_same (.refl _) _ _ _).keeps.after kz

theorem siteSel_same {z s : State} (kz : Same z s) (h b : Nat) :
    Same z (siteSel h b s) := by
  unfold siteSel
  repeat' first
    | lift_lets -underBinder
    | (with_reducible first | assumption | exact Same.refl _ | apply Same.ite | apply State.modHl_same)
theorem siteSel_keeps {z s : State} (kz : Keeps z s) (h b : Nat) :
    Keeps z (siteSel h b s) :=
  (siteSel_same (.refl _) _ _).keeps.after kz

theorem ppBusy_same {z s : State} (kz : Same z s) (h : Nat) (b : Bool) :
    Same z (ppBusy h b s) := by
  unfold ppBusy
  repeat' first
    | lift_lets -underBinder
    | (with_reducible first | assumption | exact Same.refl _ | apply Same.ite | apply State.pb_same)
theorem ppBusy_keeps {z s : State} (kz : Keeps z s) (h : Nat) (b : Bool) :
    Keeps z (ppBusy h b s) :=
  (ppBusy_same (.refl _) _ _).keeps.after kz

theorem ppGo_same {z s : State} (kz : Same z s) (h : Nat) :
    Same z (ppGo h s) := by
  unfold ppGo
  repeat' first
    | lift_lets -underBinder
    | (intro x; clear_value x)
    | (with_reducible first
        | assumption | exact Same.refl _ | apply Same.ite | apply State.setPeh_same | apply State.set1_same
        | apply blankHall_same | apply ppBusy_same)
theorem ppGo_keeps {z s : State} (kz : Keeps z s) (h : Nat) :
    Keeps z (ppGo h s) :=
  (ppGo_same (.refl _) _).keeps.after kz

theorem ppCtlWrite_same {z s : State} (kz : Same z s) (h : Nat) (v : Word) :
    Same z (ppCtlWrite h v s) := by
  unfold ppCtlWrite
  repeat' first
    | lift_lets -underBinder
    | (intro x; refine Same.cut (s := z) (t := x) ?_ ?_; unfold x; clear x; rotate_left; intro _; clear_value x; rotate_right)
    | (with_reducible first | assumption | exact Same.refl _ | apply Same.ite | apply State.wr_same | apply ppGo_same)
theorem ppCtlWrite_keeps {z s : State} (kz : Keeps z s) (h : Nat) (v : Word) :
    Keeps z (ppCtlWrite h v s) :=
  (ppCtlWrite_same (.refl _) _ _).keeps.after kz

theorem execPpGo_same {z : State} (h : Nat) (v : Word) : RunsSame z (execPpGo h v z) := by
  refine ⟨_, rfl, ?_⟩
  repeat' first
    | lift_lets -underBinder
    | (with_reducible first
        | assumption | exact Same.refl _ | apply Same.ite
        | (apply State.host_same; intro z; rotate_left; rotate_right) | apply ppCtlWrite_same)

theorem execParametricPhaseEnd_same {z : State} (h : Nat) : RunsSame z (execParametricPhaseEnd h z) := by
  refine ⟨_, rfl, ?_⟩
  repeat' first
    | lift_lets -underBinder
    | (intro x; clear_value x)
    | (with_reducible first
        | assumption | exact Same.refl _ | apply Same.ite | apply siteSel_same | apply State.setPeh_same
        | apply ppOn_same)
    | (with_reducible apply Same.base; with_reducible first
        | assumption | exact Same.refl _ | apply Same.ite | apply siteSel_same | apply State.setPeh_same
        | apply ppOn_same)
    | split

theorem ppEnd_same {z s : State} (kz : Same z s) (h : Nat) :
    Same z (ppEnd h s) := by
  unfold ppEnd
  repeat' first
    | lift_lets -underBinder
    | (intro x; clear_value x)
    | (with_reducible first
        | assumption | exact Same.refl _ | apply Same.ite | apply blankHall_same | apply ppBusy_same
        | apply siteSel_same | apply ppOff_same | apply State.setPeh_same)
theorem ppEnd_keeps {z s : State} (kz : Keeps z s) (h : Nat) :
    Keeps z (ppEnd h s) :=
  (ppEnd_same (.refl _) _).keeps.after kz

theorem execPpDone_same {z : State} (h : Nat) (mv : List Int) : RunsSame z (execPpDone h mv z) := by
  refine ⟨_, rfl, ?_⟩
  repeat' first
    | lift_lets -underBinder
    | (intro x; clear_value x)
    | (with_reducible first
        | assumption | exact Same.refl _ | apply Same.ite | apply ppEnd_same | apply State.ppStoreAll_same)

theorem touchdown_same {z s : State} (kz : Same z s) (q : Nat) (r : DescRun) :
    Same z (touchdown q r s) := by
  unfold touchdown
  repeat' first
    | lift_lets -underBinder
    | (intro x; clear_value x)
    | (with_reducible first
        | assumption | exact Same.refl _ | apply Same.ite | apply State.complete_same | apply State.lastErr_same
        | apply State.modPeh_same)
theorem touchdown_keeps {z s : State} (kz : Keeps z s) (q : Nat) (r : DescRun) :
    Keeps z (touchdown q r s) :=
  (touchdown_same (.refl _) _ _).keeps.after kz

theorem execTouchdown_same {z : State} (q : Nat) : RunsSame z (execTouchdown q z) := by
  refine ⟨_, rfl, ?_⟩
  repeat' first
    | lift_lets -underBinder
    | (with_reducible first
        | assumption | exact Same.refl _ | apply Same.ite
        | (apply State.withDesc_same; intro _ z; rotate_left; rotate_right) | apply touchdown_same)
    | (with_reducible apply Same.base; with_reducible first
        | assumption | exact Same.refl _ | apply Same.ite | apply touchdown_same)
    | split

theorem touchMark_same {z s : State} (kz : Same z s) (h codes i : Nat) :
    Same z (touchMark h codes i s) := by
  unfold touchMark
  repeat' first
    | lift_lets -underBinder
    | (intro (x : _ → _ → State); unfold x; clear x)
    | (intro x; clear_value x)
    | (with_reducible first | assumption | exact Same.refl _ | apply Same.ite | apply State.p_same)
theorem touchMark_keeps {z s : State} (kz : Keeps z s) (h codes i : Nat) :
    Keeps z (touchMark h codes i s) :=
  (touchMark_same (.refl _) _ _ _).keeps.after kz

theorem touchDone_same {z s : State} (kz : Same z s) (h : Nat) (banks result : Nat) (x : TouchX) :
    Same z (touchDone h banks result x s) := by
  unfold touchDone
  repeat' first
    | lift_lets -underBinder
    | (intro x; refine Same.cut (s := z) (t := x) ?_ ?_; unfold x; clear x; rotate_left; intro _; clear_value x; rotate_right)
    | (with_reducible first
        | assumption | exact Same.refl _ | apply Same.ite | apply State.modPeh_same
        | (apply State.when_same; intro z; rotate_left; rotate_right)
        | (apply State.each_same; intro _ z; rotate_left; rotate_right) | apply touchMark_same
        | apply State.complete_same)
theorem touchDone_keeps {z s : State} (kz : Keeps z s) (h : Nat) (banks result : Nat) (x : TouchX) :
    Keeps z (touchDone h banks result x s) :=
  (touchDone_same (.refl _) _ _ _ _).keeps.after kz

theorem touchPhase_same {z s : State} (kz : Same z s) (h : Nat) (mv : List Int) (x : TouchX) :
    Same z (touchPhase h mv x s) := by
  unfold touchPhase
  repeat' first
    | lift_lets -underBinder
    | (intro x; refine Same.cut (s := z) (t := x) ?_ ?_; unfold x; clear x; rotate_left; intro _; clear_value x; rotate_right)
    | (intro (x : _ → _ → State); unfold x; clear x)
    | (intro x; clear_value x)
    | (with_reducible first
        | assumption | exact Same.refl _ | apply Same.ite | apply State.modPeh_same | apply siteSel_same
        | apply ppOn_same | apply ppOff_same | apply State.ppStoreAll_same | apply touchDone_same)
    | (with_reducible apply Same.base; with_reducible first
        | assumption | exact Same.refl _ | apply Same.ite | apply State.modPeh_same | apply siteSel_same
        | apply ppOn_same | apply ppOff_same | apply State.ppStoreAll_same | apply touchDone_same)
    | split
theorem touchPhase_keeps {z s : State} (kz : Keeps z s) (h : Nat) (mv : List Int) (x : TouchX) :
    Keeps z (touchPhase h mv x s) :=
  (touchPhase_same (.refl _) _ _ _).keeps.after kz

theorem execTouchdownPhaseEnd_same {z : State} (h : Nat) (mv : List Int) : RunsSame z (execTouchdownPhaseEnd h mv z) := by
  refine ⟨_, rfl, ?_⟩
  repeat' first
    | lift_lets -underBinder
    | (with_reducible first | assumption | exact Same.refl _ | apply Same.ite | apply touchPhase_same)
    | (with_reducible apply Same.base; with_reducible first
        | assumption | exact Same.refl _ | apply Same.ite | apply touchPhase_same)
    | split

theorem ppAbort_same {z s : State} (kz : Same z s) (h : Nat) :
    Same z (ppAbort h s) := by
  unfold ppAbort
  repeat' first
    | lift_lets -underBinder
    | (intro x; refine Same.cut (s := z) (t := x) ?_ ?_; unfold x; clear x; rotate_left; intro _; clear_value x; rotate_right)
    | (with_reducible first
        | assumption | exact Same.refl _ | apply Same.ite | apply ppEnd_same | apply State.modPeh_same
        | apply siteSel_same | apply ppOff_same | apply State.complete_same)
    | (with_reducible apply Same.base; with_reducible first
        | assumption | exact Same.refl _ | apply Same.ite | apply ppEnd_same | apply State.modPeh_same
        | apply siteSel_same | apply ppOff_same | apply State.complete_same)
    | split
theorem ppAbort_keeps {z s : State} (kz : Keeps z s) (h : Nat) :
    Keeps z (ppAbort h s) :=
  (ppAbort_same (.refl _) _).keeps.after kz

theorem setLevels_same {z s : State} (kz : Same z s) (q : Nat) (r : DescRun) :
    Same z (setLevels q r s) := by
  unfold setLevels
  repeat' first
    | lift_lets -underBinder
    | (intro (x : _ → _ → State); unfold x; clear x)
    | (intro x; clear_value x)
    | (with_reducible first
        | assumption | exact Same.refl _ | apply Same.ite | apply State.complete_same | apply State.lastErr_same
        | apply State.send_same | (apply State.hostRead_same; intro z; rotate_left; rotate_right))
theorem setLevels_keeps {z s : State} (kz : Keeps z s) (q : Nat) (r : DescRun) :
    Keeps z (setLevels q r s) :=
  (setLevels_same (.refl _) _ _).keeps.after kz

theorem execSetLevels_same {z : State} (q : Nat) : RunsSame z (execSetLevels q z) := by
  refine ⟨_, rfl, ?_⟩
  repeat' first
    | lift_lets -underBinder
    | (with_reducible first
        | assumption | exact Same.refl _ | apply Same.ite
        | (apply State.withDesc_same; intro _ z; rotate_left; rotate_right) | apply setLevels_same)

theorem setLevelsCommit_same {z s : State} (kz : Same z s) (ok : Bool) (data : List Nat) (r : DescRun) :
    Same z (setLevelsCommit ok data r s) := by
  unfold setLevelsCommit
  repeat' first
    | lift_lets -underBinder
    | (intro x; clear_value x)
    | (with_reducible first
        | assumption | exact Same.refl _ | apply Same.ite | apply State.complete_same
        | (apply State.each_same; intro _ z; rotate_left; rotate_right) | apply State.setLevel_same)
    | (with_reducible apply Same.base; with_reducible first
        | assumption | exact Same.refl _ | apply Same.ite | apply State.complete_same | apply State.setLevel_same)
    | split
theorem setLevelsCommit_keeps {z s : State} (kz : Keeps z s) (ok : Bool) (data : List Nat) (r : DescRun) :
    Keeps z (setLevelsCommit ok data r s) :=
  (setLevelsCommit_same (.refl _) _ _ _).keeps.after kz

theorem execSetLevelsCommit_same {z : State} (q : Nat) (ok : Bool) (data : List Nat) : RunsSame z (execSetLevelsCommit q ok data z) := by
  refine ⟨_, rfl, ?_⟩
  repeat' first
    | lift_lets -underBinder
    | (with_reducible first
        | assumption | exact Same.refl _ | apply Same.ite
        | (apply State.withActed_same; intro _ z; rotate_left; rotate_right) | apply setLevelsCommit_same)

theorem clrJournal_same {z s : State} (kz : Same z s) (arg : Nat) :
    Same z (clrJournal arg s) := by
  unfold clrJournal
  repeat' first
    | lift_lets -underBinder
    | (with_reducible first
        | assumption | exact Same.refl _ | apply Same.ite
        | (apply State.each_same; intro _ z; rotate_left; rotate_right) | apply State.j_same)
theorem clrJournal_keeps {z s : State} (kz : Keeps z s) (arg : Nat) :
    Keeps z (clrJournal arg s) :=
  (clrJournal_same (.refl _) _).keeps.after kz

theorem execDacClrFall_same {z : State}  : RunsSame z (execDacClrFall z) := by
  refine ⟨_, rfl, ?_⟩
  repeat' first
    | lift_lets -underBinder
    | (intro x; refine Same.cut (s := z) (t := x) ?_ ?_; unfold x; clear x; rotate_left; intro _; clear_value x; rotate_right)
    | (with_reducible first
        | assumption | exact Same.refl _ | apply Same.ite
        | (apply State.each_same; intro _ z; rotate_left; rotate_right) | apply chClear_same | apply State.set1_same
        | apply clrJournal_same | apply smuClear_same)

theorem execDacClrRise_same {z : State}  : RunsSame z (execDacClrRise z) := by
  refine ⟨_, rfl, ?_⟩
  repeat' first
    | lift_lets -underBinder
    | (intro x; refine Same.cut (s := z) (t := x) ?_ ?_; unfold x; clear x; rotate_left; intro _; clear_value x; rotate_right)
    | (with_reducible first
        | assumption | exact Same.refl _ | apply Same.ite
        | (apply State.each_same; intro _ z; rotate_left; rotate_right) | apply State.clr_same | apply State.set1_same
        | apply State.modPeh_same | apply clrJournal_same | apply State.modSmu_same)

end Sys2Proof.Machine
end

