-- ==== Sys2Proof/Laws/SameTdc.lean ====
section
/-! SUPPORT. What the operations of Machine.Tdc keep: the part, the queue, the canonical tables, and where they store no bulk
memory all of it. -/
set_option linter.unreachableTactic false
set_option linter.unusedTactic false
namespace Sys2Proof.Machine

theorem State.setTdc_same {z s : State} (kz : Same z s) (h c : Nat) (x : TdcX) :
    Same z (State.setTdc s h c x) := by
  unfold State.setTdc
  repeat' first
    | lift_lets -underBinder
    | (with_reducible first | assumption | exact Same.refl _ | apply Same.ite)
    | (with_reducible apply Same.base; with_reducible assumption)
theorem State.setTdc_keeps {z s : State} (kz : Keeps z s) (h c : Nat) (x : TdcX) :
    Keeps z (State.setTdc s h c x) :=
  (State.setTdc_same (.refl _) _ _ _).keeps.after kz

theorem State.modTdc_same {z s : State} (kz : Same z s) (h c : Nat) (f : TdcX → TdcX) :
    Same z (State.modTdc s h c f) := by
  unfold State.modTdc
  repeat' first
    | lift_lets -underBinder
    | (with_reducible first | assumption | exact Same.refl _ | apply Same.ite | apply State.setTdc_same)
theorem State.modTdc_keeps {z s : State} (kz : Keeps z s) (h c : Nat) (f : TdcX → TdcX) :
    Keeps z (State.modTdc s h c f) :=
  (State.modTdc_same (.refl _) _ _ _).keeps.after kz

theorem State.setSmp_same {z s : State} (kz : Same z s) (h m : Nat) (x : SampleX) :
    Same z (State.setSmp s h m x) := by
  unfold State.setSmp
  repeat' first
    | lift_lets -underBinder
    | (with_reducible first | assumption | exact Same.refl _ | apply Same.ite)
    | (with_reducible apply Same.base; with_reducible assumption)
theorem State.setSmp_keeps {z s : State} (kz : Keeps z s) (h m : Nat) (x : SampleX) :
    Keeps z (State.setSmp s h m x) :=
  (State.setSmp_same (.refl _) _ _ _).keeps.after kz

theorem State.setReg_same {z s : State} (kz : Same z s) (h : Nat) (x : RegX) :
    Same z (State.setReg s h x) := by
  unfold State.setReg
  repeat' first
    | lift_lets -underBinder
    | (with_reducible first | assumption | exact Same.refl _ | apply Same.ite)
    | (with_reducible apply Same.base; with_reducible assumption)
theorem State.setReg_keeps {z s : State} (kz : Keeps z s) (h : Nat) (x : RegX) :
    Keeps z (State.setReg s h x) :=
  (State.setReg_same (.refl _) _ _).keeps.after kz

theorem tdcAbort1_same {z s : State} (kz : Same z s) (h c : Nat) :
    Same z (tdcAbort1 h c s) := by
  unfold tdcAbort1
  repeat' first
    | lift_lets -underBinder
    | (with_reducible first
        | assumption | exact Same.refl _ | apply Same.ite | apply State.modTdc_same | apply State.clr_same
        | apply State.set1_same)
theorem tdcAbort1_keeps {z s : State} (kz : Keeps z s) (h c : Nat) :
    Keeps z (tdcAbort1 h c s) :=
  (tdcAbort1_same (.refl _) _ _).keeps.after kz

theorem regAbort_same {z s : State} (kz : Same z s) (h : Nat) :
    Same z (regAbort h s) := by
  unfold regAbort
  repeat' first
    | lift_lets -underBinder
    | (intro x; clear_value x)
    | (with_reducible first
        | assumption | exact Same.refl _ | apply Same.ite | apply State.setReg_same | apply State.clr_same
        | apply State.set1_same)
theorem regAbort_keeps {z s : State} (kz : Keeps z s) (h : Nat) :
    Keeps z (regAbort h s) :=
  (regAbort_same (.refl _) _).keeps.after kz

theorem tdcAbort_same {z s : State} (kz : Same z s) (h : Nat) (host : Bool) :
    Same z (tdcAbort h host s) := by
  unfold tdcAbort
  repeat' first
    | lift_lets -underBinder
    | (intro x; refine Same.cut (s := z) (t := x) ?_ ?_; unfold x; clear x; rotate_left; intro _; clear_value x; rotate_right)
    | (with_reducible first
        | assumption | exact Same.refl _ | apply Same.ite
        | (apply State.each_same; intro _ z; rotate_left; rotate_right) | apply tdcAbort1_same | apply regAbort_same)
theorem tdcAbort_keeps {z s : State} (kz : Keeps z s) (h : Nat) (host : Bool) :
    Keeps z (tdcAbort h host s) :=
  (tdcAbort_same (.refl _) _ _).keeps.after kz

theorem statsClear_same {z s : State} (kz : Same z s) (h c : Nat) :
    Same z (statsClear h c s) := by
  unfold statsClear
  repeat' first
    | lift_lets -underBinder
    | (intro x; refine Same.cut (s := z) (t := x) ?_ ?_; unfold x; clear x; rotate_left; intro _; clear_value x; rotate_right)
    | (with_reducible first
        | assumption | exact Same.refl _ | apply Same.ite | apply State.p_same | apply State.wr_same
        | apply State.modTdc_same | (apply State.byHost_same; intro z; rotate_left; rotate_right))
theorem statsClear_keeps {z s : State} (kz : Keeps z s) (h c : Nat) :
    Keeps z (statsClear h c s) :=
  (statsClear_same (.refl _) _ _).keeps.after kz

theorem tdcqClear_same {z s : State} (kz : Same z s) (h m : Nat) :
    Same z (tdcqClear h m s) := by
  unfold tdcqClear
  repeat' first
    | lift_lets -underBinder
    | (intro x; clear_value x)
    | (with_reducible first | assumption | exact Same.refl _ | apply Same.ite | apply State.p_same)
theorem tdcqClear_keeps {z s : State} (kz : Keeps z s) (h m : Nat) :
    Keeps z (tdcqClear h m s) :=
  (tdcqClear_same (.refl _) _ _).keeps.after kz

theorem tdcStart_same {z s : State} (kz : Same z s) (h m : Nat) (byHost : Bool) (alc : Nat) :
    Same z (tdcStart h m byHost alc s) := by
  unfold tdcStart
  repeat' first
    | lift_lets -underBinder
    | (intro x; refine Same.cut (s := z) (t := x) ?_ ?_; unfold x; clear x; rotate_left; intro _; clear_value x; rotate_right)
    | (intro x; clear_value x)
    | (with_reducible first
        | assumption | exact Same.refl _ | apply Same.ite | apply tdcqClear_same | apply State.p_same
        | (apply State.when_same; intro z; rotate_left; rotate_right) | apply regAbort_same | apply State.set1_same
        | apply State.setReg_same | apply State.setSmp_same
        | (apply State.each_same; intro _ z; rotate_left; rotate_right) | apply statsClear_same | apply tdcAbort1_same
        | apply State.modTdc_same)
theorem tdcStart_keeps {z s : State} (kz : Keeps z s) (h m : Nat) (byHost : Bool) (alc : Nat) :
    Keeps z (tdcStart h m byHost alc s) :=
  (tdcStart_same (.refl _) _ _ _ _).keeps.after kz

theorem tdcHostWrite_same {z s : State} (kz : Same z s) (h : Nat) (v : Word) :
    Same z (tdcHostWrite h v s) := by
  unfold tdcHostWrite
  repeat' first
    | lift_lets -underBinder
    | (intro x; refine Same.cut (s := z) (t := x) ?_ ?_; unfold x; clear x; rotate_left; intro _; clear_value x; rotate_right)
    | (intro x; clear_value x)
    | (with_reducible first
        | assumption | exact Same.refl _ | apply Same.ite | apply State.p_same | apply tdcAbort_same
        | apply State.set1_same | apply State.draw_same | apply tdcStart_same)
theorem tdcHostWrite_keeps {z s : State} (kz : Keeps z s) (h : Nat) (v : Word) :
    Keeps z (tdcHostWrite h v s) :=
  (tdcHostWrite_same (.refl _) _ _).keeps.after kz

theorem execTdcGo_same {z : State} (h m : Nat) : RunsSame z (execTdcGo h m z) := by
  refine ⟨_, rfl, ?_⟩
  repeat' first
    | lift_lets -underBinder
    | (with_reducible first
        | assumption | exact Same.refl _ | apply Same.ite
        | (apply State.host_same; intro z; rotate_left; rotate_right) | apply tdcHostWrite_same)

theorem execTdcAbort_same {z : State} (h : Nat) : RunsSame z (execTdcAbort h z) := by
  refine ⟨_, rfl, ?_⟩
  repeat' first
    | lift_lets -underBinder
    | (with_reducible first
        | assumption | exact Same.refl _ | apply Same.ite
        | (apply State.host_same; intro z; rotate_left; rotate_right) | apply tdcHostWrite_same)

theorem tdcSetWrite_same {z s : State} (kz : Same z s) (h m w : Nat) (v : Word) :
    Same z (tdcSetWrite h m w v s) := by
  unfold tdcSetWrite
  repeat' first
    | lift_lets -underBinder
    | (with_reducible first
        | assumption | exact Same.refl _ | apply Same.ite | apply State.set1_same | apply State.cfgWr_same)
    | (with_reducible apply Same.base; with_reducible first
        | assumption | exact Same.refl _ | apply Same.ite | apply State.set1_same | apply State.cfgWr_same)
    | split
theorem tdcSetWrite_keeps {z s : State} (kz : Keeps z s) (h m w : Nat) (v : Word) :
    Keeps z (tdcSetWrite h m w v s) :=
  (tdcSetWrite_same (.refl _) _ _ _ _).keeps.after kz

theorem execTdcSetWrite_same {z : State} (h m w : Nat) (v : Word) : RunsSame z (execTdcSetWrite h m w v z) := by
  refine ⟨_, rfl, ?_⟩
  repeat' first
    | lift_lets -underBinder
    | (with_reducible first
        | assumption | exact Same.refl _ | apply Same.ite
        | (apply State.host_same; intro z; rotate_left; rotate_right) | apply tdcSetWrite_same)

theorem tdcqCfgWrite_same {z s : State} (kz : Same z s) (h k : Nat) (v : Word) :
    Same z (tdcqCfgWrite h k v s) := by
  unfold tdcqCfgWrite
  repeat' first
    | lift_lets -underBinder
    | (with_reducible first
        | assumption | exact Same.refl _ | apply Same.ite | apply State.set1_same | apply State.cfgWr_same)
theorem tdcqCfgWrite_keeps {z s : State} (kz : Keeps z s) (h k : Nat) (v : Word) :
    Keeps z (tdcqCfgWrite h k v s) :=
  (tdcqCfgWrite_same (.refl _) _ _ _).keeps.after kz

theorem tdcqEval_same {z s : State} (kz : Same z s) (h k alc v : Nat) (outside invalid : Bool) :
    Same z (tdcqEval h k alc v outside invalid s) := by
  unfold tdcqEval
  repeat' first
    | lift_lets -underBinder
    | (intro x; clear_value x)
    | (with_reducible first
        | assumption | exact Same.refl _ | apply Same.ite | apply State.setBit_same | apply State.j_same)
theorem tdcqEval_keeps {z s : State} (kz : Keeps z s) (h k alc v : Nat) (outside invalid : Bool) :
    Keeps z (tdcqEval h k alc v outside invalid s) :=
  (tdcqEval_same (.refl _) _ _ _ _ _ _).keeps.after kz

theorem statsComplete_same {z s : State} (kz : Same z s) (h c : Nat) :
    Same z (statsComplete h c s) := by
  unfold statsComplete
  repeat' first
    | lift_lets -underBinder
    | (intro x; refine Same.cut (s := z) (t := x) ?_ ?_; unfold x; clear x; rotate_left; intro _; clear_value x; rotate_right)
    | (intro x; clear_value x)
    | (with_reducible first
        | assumption | exact Same.refl _ | apply Same.ite | apply State.setTdc_same | apply State.clr_same
        | apply State.set1_same | (apply State.each_same; intro _ z; rotate_left; rotate_right) | apply tdcqEval_same)
theorem statsComplete_keeps {z s : State} (kz : Keeps z s) (h c : Nat) :
    Keeps z (statsComplete h c s) :=
  (statsComplete_same (.refl _) _ _).keeps.after kz

theorem statsAccept_same {z s : State} (kz : Same z s) (h c : Nat) :
    Same z (statsAccept h c s) := by
  unfold statsAccept
  repeat' first
    | lift_lets -underBinder
    | (intro x; refine Same.cut (s := z) (t := x) ?_ ?_; unfold x; clear x; rotate_left; intro _; clear_value x; rotate_right)
    | (intro x; clear_value x)
    | (with_reducible first
        | assumption | exact Same.refl _ | apply Same.ite | apply State.setTdc_same | apply State.p_same
        | apply State.pb_same | apply statsComplete_same)
    | (with_reducible apply Same.base; with_reducible first
        | assumption | exact Same.refl _ | apply Same.ite | apply State.setTdc_same | apply State.p_same
        | apply State.pb_same | apply statsComplete_same)
    | split
theorem statsAccept_keeps {z s : State} (kz : Keeps z s) (h c : Nat) :
    Keeps z (statsAccept h c s) :=
  (statsAccept_same (.refl _) _ _).keeps.after kz

theorem execStatsAccept_same {z : State} (h c : Nat) : RunsSame z (execStatsAccept h c z) := by
  refine ⟨_, rfl, ?_⟩
  repeat' first
    | lift_lets -underBinder
    | (with_reducible first | assumption | exact Same.refl _ | apply Same.ite | apply statsAccept_same)

theorem sampleValue_same {z s : State} (kz : Same z s) (h m c : Nat) :
    Same z (sampleValue h m c s) := by
  unfold sampleValue
  repeat' first
    | lift_lets -underBinder
    | (intro x; refine Same.cut (s := z) (t := x) ?_ ?_; unfold x; clear x; rotate_left; intro _; clear_value x; rotate_right)
    | (intro x; clear_value x)
    | (with_reducible first
        | assumption | exact Same.refl _ | apply Same.ite | apply State.setTdc_same | apply State.count_same
        | apply State.modTdc_same)
    | (with_reducible apply Same.base; with_reducible first
        | assumption | exact Same.refl _ | apply Same.ite | apply State.setTdc_same | apply State.count_same
        | apply State.modTdc_same)
    | split
theorem sampleValue_keeps {z s : State} (kz : Keeps z s) (h m c : Nat) :
    Keeps z (sampleValue h m c s) :=
  (sampleValue_same (.refl _) _ _ _).keeps.after kz

theorem sampleEnd_same {z s : State} (kz : Same z s) (h m : Nat) :
    Same z (sampleEnd h m s) := by
  unfold sampleEnd
  repeat' first
    | lift_lets -underBinder
    | (intro x; refine Same.cut (s := z) (t := x) ?_ ?_; unfold x; clear x; rotate_left; intro _; clear_value x; rotate_right)
    | (intro x; clear_value x)
    | (with_reducible first
        | assumption | exact Same.refl _ | apply Same.ite | apply State.setSmp_same
        | (apply State.when_same; intro z; rotate_left; rotate_right)
        | (apply State.over_same; intro _ z; rotate_left; rotate_right) | apply State.set1_same
        | apply sampleValue_same)
    | (with_reducible apply Same.base; with_reducible first
        | assumption | exact Same.refl _ | apply Same.ite | apply State.setSmp_same | apply State.set1_same
        | apply sampleValue_same)
    | split
theorem sampleEnd_keeps {z s : State} (kz : Keeps z s) (h m : Nat) :
    Keeps z (sampleEnd h m s) :=
  (sampleEnd_same (.refl _) _ _).keeps.after kz

theorem execSampleEnd_same {z : State} (h m : Nat) : RunsSame z (execSampleEnd h m z) := by
  refine ⟨_, rfl, ?_⟩
  repeat' first
    | lift_lets -underBinder
    | (with_reducible first | assumption | exact Same.refl _ | apply Same.ite | apply sampleEnd_same)

theorem sampleStart_same {z s : State} (kz : Same z s) (h m t : Nat) :
    Same z (sampleStart h m t s).1 := by
  unfold sampleStart
  repeat' first
    | lift_lets -underBinder
    | (intro x; refine Same.cut (s := z) (t := x) ?_ ?_; unfold x; clear x; rotate_left; intro _; clear_value x; rotate_right)
    | (intro x; clear_value x)
    | (with_reducible first
        | assumption | exact Same.refl _ | apply Same.ite | apply sampleEnd_same
        | (apply State.over_same; intro _ z; rotate_left; rotate_right) | apply State.count_same
        | apply State.setSmp_same | apply State.modTdc_same)
    | (with_reducible apply Same.base; with_reducible first
        | assumption | exact Same.refl _ | apply Same.ite | apply sampleEnd_same | apply State.count_same
        | apply State.setSmp_same | apply State.modTdc_same)
    | split
theorem sampleStart_keeps {z s : State} (kz : Keeps z s) (h m t : Nat) :
    Keeps z (sampleStart h m t s).1 :=
  (sampleStart_same (.refl _) _ _ _).keeps.after kz

theorem sampleTread_same {z s : State} (kz : Same z s) (h : Nat) :
    Same z (sampleTread h s) := by
  unfold sampleTread
  repeat' first
    | lift_lets -underBinder
    | (with_reducible first | assumption | exact Same.refl _ | apply Same.ite)
    | (with_reducible apply Same.base; with_reducible assumption)
theorem sampleTread_keeps {z s : State} (kz : Keeps z s) (h : Nat) :
    Keeps z (sampleTread h s) :=
  (sampleTread_same (.refl _) _).keeps.after kz

theorem execTdcAxisStart_same {z : State} (h m t : Nat) : RunsSame z (execTdcAxisStart h m t z) := by
  refine ⟨_, rfl, ?_⟩
  repeat' first
    | lift_lets -underBinder
    | (intro x; refine Same.cut (s := z) (t := x) ?_ ?_; unfold x; clear x; rotate_left; intro _; clear_value x; rotate_right)
    | (intro x; clear_value x)
    | (with_reducible first
        | assumption | exact Same.refl _ | apply Same.ite | apply sampleStart_same | apply State.setSmp_same)

theorem regEvent_same {z s : State} (kz : Same z s) (h t : Nat) (stamped : Bool) :
    Same z (regEvent h t stamped s) := by
  unfold regEvent
  repeat' first
    | lift_lets -underBinder
    | (intro x; clear_value x)
    | (with_reducible first | assumption | exact Same.refl _ | apply Same.ite | apply State.setReg_same)
theorem regEvent_keeps {z s : State} (kz : Keeps z s) (h t : Nat) (stamped : Bool) :
    Keeps z (regEvent h t stamped s) :=
  (regEvent_same (.refl _) _ _ _).keeps.after kz

theorem compEdge_same {z s : State} (kz : Same z s) (h c kind : Nat) :
    Same z (compEdge h c kind s) := by
  unfold compEdge
  repeat' first
    | lift_lets -underBinder
    | (intro x; clear_value x)
    | (with_reducible first
        | assumption | exact Same.refl _ | apply Same.ite | apply peTest_same | apply State.modCh_same)
    | (with_reducible apply Same.base; with_reducible first
        | assumption | exact Same.refl _ | apply Same.ite | apply peTest_same | apply State.modCh_same)
    | split
theorem compEdge_keeps {z s : State} (kz : Keeps z s) (h c kind : Nat) :
    Keeps z (compEdge h c kind s) :=
  (compEdge_same (.refl _) _ _ _).keeps.after kz

theorem tdcStamped_same {z s : State} (kz : Same z s) (h c kind t : Nat) :
    Same z (tdcStamped h c kind t s) := by
  unfold tdcStamped
  repeat' first
    | lift_lets -underBinder
    | (intro x; clear_value x)
    | (with_reducible first
        | assumption | exact Same.refl _ | apply Same.ite
        | (apply foldl_fst_same; intro p _; obtain ⟨z, _⟩ := p; rotate_left; rotate_right) | apply sampleStart_same
        | apply State.setTdc_same | refine Same.pair1 (by assumption) ?_ | refine Same.pair2 (by assumption) ?_
        | refine Same.pair3 (by assumption) ?_)
    | (with_reducible apply Same.base; with_reducible first
        | assumption | exact Same.refl _ | apply Same.ite | apply sampleStart_same | apply State.setTdc_same
        | refine Same.pair1 (by assumption) ?_ | refine Same.pair2 (by assumption) ?_
        | refine Same.pair3 (by assumption) ?_)
    | dsimp -zeta only
    | split
theorem tdcStamped_keeps {z s : State} (kz : Keeps z s) (h c kind t : Nat) :
    Keeps z (tdcStamped h c kind t s) :=
  (tdcStamped_same (.refl _) _ _ _ _).keeps.after kz

theorem tdcEvent_same {z s : State} (kz : Same z s) (h c kind t : Nat) :
    Same z (tdcEvent h c kind t s) := by
  unfold tdcEvent
  repeat' first
    | lift_lets -underBinder
    | (intro x; refine Same.cut (s := z) (t := x) ?_ ?_; unfold x; clear x; rotate_left; intro _; clear_value x; rotate_right)
    | (intro x; clear_value x)
    | (intro x; unfold x; clear x)
    | (with_reducible first
        | assumption | exact Same.refl _ | apply Same.ite | apply regEvent_same | apply tdcStamped_same
        | apply State.modTdc_same)
theorem tdcEvent_keeps {z s : State} (kz : Keeps z s) (h c kind t : Nat) :
    Keeps z (tdcEvent h c kind t s) :=
  (tdcEvent_same (.refl _) _ _ _ _).keeps.after kz

theorem execTdcEvent_same {z : State} (h c kind t e : Nat) : RunsSame z (execTdcEvent h c kind t e z) := by
  refine ⟨_, rfl, ?_⟩
  repeat' first
    | lift_lets -underBinder
    | (with_reducible first
        | assumption | exact Same.refl _ | apply Same.ite | apply compEdge_same | apply tdcEvent_same)

theorem execRegGateClose_same {z : State} (h : Nat) : RunsSame z (execRegGateClose h z) := by
  refine ⟨_, rfl, ?_⟩
  repeat' first
    | lift_lets -underBinder
    | (intro x; clear_value x)
    | (with_reducible first | assumption | exact Same.refl _ | apply Same.ite | apply State.setReg_same)

theorem regResult_same {z s : State} (kz : Same z s) (h : Nat) :
    Same z (regResult h s) := by
  unfold regResult
  repeat' first
    | lift_lets -underBinder
    | (intro x; clear_value x)
    | (with_reducible first
        | assumption | exact Same.refl _ | apply Same.ite | apply State.setReg_same | apply State.clr_same
        | apply State.set1_same | (apply State.when_same; intro z; rotate_left; rotate_right) | apply State.p_same
        | (apply State.each_same; intro _ z; rotate_left; rotate_right) | apply tdcqEval_same)
theorem regResult_keeps {z s : State} (kz : Keeps z s) (h : Nat) :
    Keeps z (regResult h s) :=
  (regResult_same (.refl _) _).keeps.after kz

theorem execRegResult_same {z : State} (h : Nat) : RunsSame z (execRegResult h z) := by
  refine ⟨_, rfl, ?_⟩
  repeat' first
    | lift_lets -underBinder
    | (with_reducible first | assumption | exact Same.refl _ | apply Same.ite | apply regResult_same)

theorem readStats_same {z s : State} (kz : Same z s) (q : Nat) (r : DescRun) :
    Same z (readStats q r s) := by
  unfold readStats
  repeat' first
    | lift_lets -underBinder
    | (intro x; refine Same.cut (s := z) (t := x) ?_ ?_; unfold x; clear x; rotate_left; intro _; clear_value x; rotate_right)
    | (intro (x : _ → _ → _ → State); unfold x; clear x)
    | (intro x; clear_value x)
    | (with_reducible first
        | assumption | exact Same.refl _ | apply Same.ite
        | (apply foldl_fst_same; intro p _; obtain ⟨z, _⟩ := p; rotate_left; rotate_right) | apply State.complete_same
        | apply State.lastErr_same | apply State.send_same
        | (apply State.when_same; intro z; rotate_left; rotate_right)
        | (apply State.over_same; intro _ z; rotate_left; rotate_right) | apply statsClear_same
        | apply State.setReg_same)
theorem readStats_keeps {z s : State} (kz : Keeps z s) (q : Nat) (r : DescRun) :
    Keeps z (readStats q r s) :=
  (readStats_same (.refl _) _ _).keeps.after kz

theorem execReadStats_same {z : State} (q : Nat) : RunsSame z (execReadStats q z) := by
  refine ⟨_, rfl, ?_⟩
  repeat' first
    | lift_lets -underBinder
    | (with_reducible first
        | assumption | exact Same.refl _ | apply Same.ite
        | (apply State.withDesc_same; intro _ z; rotate_left; rotate_right) | apply readStats_same)

end Sys2Proof.Machine
end

