-- ==== Sys2Proof/Laws/SameSerial.lean ====
section
/-! SUPPORT. What the operations of Machine.Serial keep: the part, the queue, the canonical tables, and where they store no bulk
memory all of it. -/
set_option linter.unreachableTactic false
set_option linter.unusedTactic false
namespace Sys2Proof.Machine

theorem State.setHse_same {z s : State} (kz : Same z s) (h : Nat) (x : HseX) :
    Same z (State.setHse s h x) := by
  unfold State.setHse
  repeat' first
    | lift_lets -underBinder
    | (with_reducible first | assumption | exact Same.refl _ | apply Same.ite)
    | (with_reducible apply Same.base; with_reducible assumption)
theorem State.setHse_keeps {z s : State} (kz : Keeps z s) (h : Nat) (x : HseX) :
    Keeps z (State.setHse s h x) :=
  (State.setHse_same (.refl _) _ _).keeps.after kz

theorem State.modHse_same {z s : State} (kz : Same z s) (h : Nat) (f : HseX → HseX) :
    Same z (State.modHse s h f) := by
  unfold State.modHse
  repeat' first
    | lift_lets -underBinder
    | (with_reducible first | assumption | exact Same.refl _ | apply Same.ite | apply State.setHse_same)
theorem State.modHse_keeps {z s : State} (kz : Keeps z s) (h : Nat) (f : HseX → HseX) :
    Keeps z (State.modHse s h f) :=
  (State.modHse_same (.refl _) _ _).keeps.after kz

theorem hseStat_same {z s : State} (kz : Same z s) (h : Nat) :
    Same z (hseStat h s) := by
  unfold hseStat
  repeat' first
    | lift_lets -underBinder
    | (with_reducible first
        | assumption | exact Same.refl _ | apply Same.ite | apply State.pb_same | apply State.p_same)
theorem hseStat_keeps {z s : State} (kz : Keeps z s) (h : Nat) :
    Keeps z (hseStat h s) :=
  (hseStat_same (.refl _) _).keeps.after kz

theorem regionStore_keeps {z s : State} (kz : Keeps z s) (h off : Nat) (data : List Nat) :
    Keeps z (regionStore h off data s) := by
  unfold regionStore
  repeat' first
    | lift_lets -underBinder
    | (with_reducible first
        | assumption | exact Keeps.refl _ | apply Keeps.ite
        | (apply foldl_fst_keeps; intro p _; obtain ⟨z, _⟩ := p; rotate_left; rotate_right)
        | apply State.wrByte_keeps)

theorem hseReport_same {z s : State} (kz : Same z s) (h slot alc flags crc : Nat) :
    Same z (hseReport h slot alc flags crc s) := by
  unfold hseReport
  repeat' first
    | lift_lets -underBinder
    | (intro x; refine Same.cut (s := z) (t := x) ?_ ?_; unfold x; clear x; rotate_left; intro _; clear_value x; rotate_right)
    | (with_reducible first
        | assumption | exact Same.refl _ | apply Same.ite | apply State.p_same
        | (apply State.when_same; intro z; rotate_left; rotate_right) | apply State.set1_same)
theorem hseReport_keeps {z s : State} (kz : Keeps z s) (h slot alc flags crc : Nat) :
    Keeps z (hseReport h slot alc flags crc s) :=
  (hseReport_same (.refl _) _ _ _ _ _).keeps.after kz

theorem sendStatus_same {z s : State} (kz : Same z s) (h : Nat) (r : SendReq) (smis : Bool) :
    Same z (sendStatus h r smis s) := by
  unfold sendStatus
  repeat' first
    | lift_lets -underBinder
    | (with_reducible first | assumption | exact Same.refl _ | apply Same.ite | apply State.modAlc_same)
theorem sendStatus_keeps {z s : State} (kz : Keeps z s) (h : Nat) (r : SendReq) (smis : Bool) :
    Keeps z (sendStatus h r smis s) :=
  (sendStatus_same (.refl _) _ _ _).keeps.after kz

theorem sendEnd_same {z s : State} (kz : Same z s) (h : Nat) (r : SendReq) (flags mism crc : Nat) :
    Same z (sendEnd h r flags mism crc s) := by
  unfold sendEnd
  repeat' first
    | lift_lets -underBinder
    | (intro x; refine Same.cut (s := z) (t := x) ?_ ?_; unfold x; clear x; rotate_left; intro _; clear_value x; rotate_right)
    | (with_reducible first
        | assumption | exact Same.refl _ | apply Same.ite | apply sendStatus_same | apply hseReport_same
        | apply State.j_same)
theorem sendEnd_keeps {z s : State} (kz : Keeps z s) (h : Nat) (r : SendReq) (flags mism crc : Nat) :
    Keeps z (sendEnd h r flags mism crc s) :=
  (sendEnd_same (.refl _) _ _ _ _ _).keeps.after kz

theorem stoppedReport_keeps {z s : State} (kz : Keeps z s) (h n : Nat) :
    Keeps z (stoppedReport h n s).2.2.2 := by
  unfold stoppedReport
  repeat' first
    | lift_lets -underBinder
    | (intro x; refine Keeps.cut (s := z) (t := x) ?_ ?_; unfold x; clear x; rotate_left; intro _; clear_value x; rotate_right)
    | (intro x; clear_value x)
    | (with_reducible first
        | assumption | exact Keeps.refl _ | apply Keeps.ite
        | (apply foldl_keeps; intro z _; rotate_left; rotate_right) | apply State.draw_keeps
        | apply State.wrByte_keeps)

theorem abortRun_keeps {z s : State} (kz : Keeps z s) (h : Nat) :
    Keeps z (abortRun h s) := by
  unfold abortRun
  repeat' first
    | lift_lets -underBinder
    | (with_reducible first
        | assumption | exact Keeps.refl _ | apply Keeps.ite | apply stoppedReport_keeps | apply hseStat_keeps
        | apply sendEnd_keeps | apply State.modHse_keeps | refine Keeps.pair4 (by assumption) ?_)
    | (with_reducible apply Keeps.base; with_reducible first
        | assumption | exact Keeps.refl _ | apply Keeps.ite | apply stoppedReport_keeps | apply hseStat_keeps
        | apply sendEnd_keeps | apply State.modHse_keeps | refine Keeps.pair4 (by assumption) ?_)
    | split

theorem abortQueued_same {z s : State} (kz : Same z s) (h : Nat) (p : SendReq → Bool) :
    Same z (abortQueued h p s) := by
  unfold abortQueued
  repeat' first
    | lift_lets -underBinder
    | (intro x; refine Same.cut (s := z) (t := x) ?_ ?_; unfold x; clear x; rotate_left; intro _; clear_value x; rotate_right)
    | (intro x; clear_value x)
    | (with_reducible first
        | assumption | exact Same.refl _ | apply Same.ite | apply State.setHse_same | apply hseStat_same
        | (apply State.over_same; intro _ z; rotate_left; rotate_right) | apply sendEnd_same)
theorem abortQueued_keeps {z s : State} (kz : Keeps z s) (h : Nat) (p : SendReq → Bool) :
    Keeps z (abortQueued h p s) :=
  (abortQueued_same (.refl _) _ _).keeps.after kz

theorem abortSends_keeps {z s : State} (kz : Keeps z s) (h : Nat) (p : SendReq → Bool) :
    Keeps z (abortSends h p s) := by
  unfold abortSends
  repeat' first
    | lift_lets -underBinder
    | (intro x; refine Keeps.cut (s := z) (t := x) ?_ ?_; unfold x; clear x; rotate_left; intro _; clear_value x; rotate_right)
    | (with_reducible first
        | assumption | exact Keeps.refl _ | apply Keeps.ite | apply abortRun_keeps | apply abortQueued_keeps)
    | (with_reducible apply Keeps.base; with_reducible first
        | assumption | exact Keeps.refl _ | apply Keeps.ite | apply abortRun_keeps | apply abortQueued_keeps)
    | split

theorem abortXfer_keeps {z s : State} (kz : Keeps z s) (h : Nat) :
    Keeps z (abortXfer h s) := by
  unfold abortXfer
  repeat' first
    | lift_lets -underBinder
    | (intro x; refine Keeps.cut (s := z) (t := x) ?_ ?_; unfold x; clear x; rotate_left; intro _; clear_value x; rotate_right)
    | (with_reducible first
        | assumption | exact Keeps.refl _ | apply Keeps.ite | apply siteSel_keeps | apply State.modHse_keeps
        | apply stoppedReport_keeps | apply State.draw_keeps | apply hseStat_keeps | apply hseReport_keeps
        | apply State.complete_keeps | refine Keeps.pair2 (by assumption) ?_ | refine Keeps.pair3 (by assumption) ?_
        | refine Keeps.pair4 (by assumption) ?_)
    | (with_reducible apply Keeps.base; with_reducible first
        | assumption | exact Keeps.refl _ | apply Keeps.ite | apply siteSel_keeps | apply State.modHse_keeps
        | apply stoppedReport_keeps | apply State.draw_keeps | apply hseStat_keeps | apply hseReport_keeps
        | apply State.complete_keeps | refine Keeps.pair2 (by assumption) ?_ | refine Keeps.pair3 (by assumption) ?_
        | refine Keeps.pair4 (by assumption) ?_)
    | split

theorem hseAbort_keeps {z s : State} (kz : Keeps z s) (h : Nat) :
    Keeps z (hseAbort h s) := by
  unfold hseAbort
  repeat' first
    | lift_lets -underBinder
    | (with_reducible first
        | assumption | exact Keeps.refl _ | apply Keeps.ite | apply abortXfer_keeps | apply abortSends_keeps)

theorem hseAbortAlc_keeps {z s : State} (kz : Keeps z s) (h i : Nat) :
    Keeps z (hseAbortAlc h i s) := by
  unfold hseAbortAlc
  repeat' first
    | lift_lets -underBinder
    | (with_reducible first | assumption | exact Keeps.refl _ | apply Keeps.ite | apply abortSends_keeps)

theorem sendRequest_same {z s : State} (kz : Same z s) (h i n : Nat) :
    Same z (sendRequest h i n s) := by
  unfold sendRequest
  repeat' first
    | lift_lets -underBinder
    | (intro x; clear_value x)
    | (with_reducible first
        | assumption | exact Same.refl _ | apply Same.ite | apply State.setHse_same | apply State.modAlc_same)
theorem sendRequest_keeps {z s : State} (kz : Keeps z s) (h i n : Nat) :
    Keeps z (sendRequest h i n s) :=
  (sendRequest_same (.refl _) _ _ _).keeps.after kz

theorem hseEnqueue_same {z s : State} (kz : Same z s) (h : Nat) :
    Same z (hseEnqueue h s) := by
  unfold hseEnqueue
  repeat' first
    | lift_lets -underBinder
    | (intro x; refine Same.cut (s := z) (t := x) ?_ ?_; unfold x; clear x; rotate_left; intro _; clear_value x; rotate_right)
    | (intro x; clear_value x)
    | (with_reducible first
        | assumption | exact Same.refl _ | apply Same.ite | apply State.setHse_same | apply sendEnd_same
        | apply hseStat_same | apply State.modHse_same | apply sendStatus_same | apply State.set1_same
        | apply State.count_same | apply State.j_same | apply State.raise_same)
    | (with_reducible apply Same.base; with_reducible first
        | assumption | exact Same.refl _ | apply Same.ite | apply State.setHse_same | apply sendEnd_same
        | apply hseStat_same | apply State.modHse_same | apply sendStatus_same | apply State.set1_same
        | apply State.count_same | apply State.j_same | apply State.raise_same)
    | split
theorem hseEnqueue_keeps {z s : State} (kz : Keeps z s) (h : Nat) :
    Keeps z (hseEnqueue h s) :=
  (hseEnqueue_same (.refl _) _).keeps.after kz

theorem execHseTransferStart_same {z : State} (h : Nat) : RunsSame z (execHseTransferStart h z) := by
  refine ⟨_, rfl, ?_⟩
  repeat' first
    | lift_lets -underBinder
    | (intro x; clear_value x)
    | (with_reducible first
        | assumption | exact Same.refl _ | apply Same.ite | apply hseStat_same | apply State.setHse_same)
    | (with_reducible apply Same.base; with_reducible first
        | assumption | exact Same.refl _ | apply Same.ite | apply hseStat_same | apply State.setHse_same)
    | split

theorem sendWatch_same {z s : State} (kz : Same z s) (h n : Nat) :
    Same z (sendWatch h n s) := by
  unfold sendWatch
  repeat' first
    | lift_lets -underBinder
    | (intro x; clear_value x)
    | (with_reducible first
        | assumption | exact Same.refl _ | apply Same.ite
        | (apply State.when_same; intro z; rotate_left; rotate_right) | apply State.modHse_same)
theorem sendWatch_keeps {z s : State} (kz : Keeps z s) (h n : Nat) :
    Keeps z (sendWatch h n s) :=
  (sendWatch_same (.refl _) _ _).keeps.after kz

theorem lanesPass_same {z s : State} (kz : Same z s) (h n : Nat) :
    Same z (lanesPass h n s) := by
  unfold lanesPass
  repeat' first
    | lift_lets -underBinder
    | (with_reducible first
        | assumption | exact Same.refl _ | apply Same.ite | apply rasterWatch_same | apply sendWatch_same)
theorem lanesPass_keeps {z s : State} (kz : Keeps z s) (h n : Nat) :
    Keeps z (lanesPass h n s) :=
  (lanesPass_same (.refl _) _ _).keeps.after kz

theorem transferEnd_keeps {z s : State} (kz : Keeps z s) (h n : Nat) (data mid : List Nat) (lost host : Bool) :
    Keeps z (transferEnd h n data mid lost host s).1 := by
  unfold transferEnd
  repeat' first
    | lift_lets -underBinder
    | (intro x; clear_value x)
    | (with_reducible first | assumption | exact Keeps.refl _ | apply Keeps.ite | apply regionStore_keeps)

theorem xferWatch_same {z s : State} (kz : Same z s) (h : Nat) :
    Same z (xferWatch h s) := by
  unfold xferWatch
  repeat' first
    | lift_lets -underBinder
    | (with_reducible first
        | assumption | exact Same.refl _ | apply Same.ite
        | (apply State.when_same; intro z; rotate_left; rotate_right) | apply State.modHse_same)
    | (with_reducible apply Same.base; with_reducible first
        | assumption | exact Same.refl _ | apply Same.ite | apply State.modHse_same)
    | split
theorem xferWatch_keeps {z s : State} (kz : Keeps z s) (h : Nat) :
    Keeps z (xferWatch h s) :=
  (xferWatch_same (.refl _) _).keeps.after kz

theorem hseEnd_keeps {z s0 : State} (kz : Keeps z s0) (h : Nat) (data mid : List Nat) :
    Keeps z (hseEnd h data mid s0) := by
  unfold hseEnd
  repeat' first
    | lift_lets -underBinder
    | (intro x; refine Keeps.cut (s := z) (t := x) ?_ ?_; unfold x; clear x; rotate_left; intro _; clear_value x; rotate_right)
    | (intro x; clear_value x)
    | (with_reducible first
        | assumption | exact Keeps.refl _ | apply Keeps.ite | apply xferWatch_keeps | apply transferEnd_keeps
        | apply State.setHse_keeps | apply hseStat_keeps | apply sendEnd_keeps | apply siteSel_keeps
        | apply hseReport_keeps | apply State.complete_keeps | refine Keeps.pair1 (by assumption) ?_
        | refine Keeps.pair3 (by assumption) ?_)
    | (with_reducible apply Keeps.base; with_reducible first
        | assumption | exact Keeps.refl _ | apply Keeps.ite | apply xferWatch_keeps | apply transferEnd_keeps
        | apply State.setHse_keeps | apply hseStat_keeps | apply sendEnd_keeps | apply siteSel_keeps
        | apply hseReport_keeps | apply State.complete_keeps | refine Keeps.pair1 (by assumption) ?_
        | refine Keeps.pair3 (by assumption) ?_)
    | split

theorem hseCfgWrite_same {z s : State} (kz : Same z s) (h a : Nat) (w : Word) :
    Same z (hseCfgWrite h a w s) := by
  unfold hseCfgWrite
  repeat' first
    | lift_lets -underBinder
    | (with_reducible first
        | assumption | exact Same.refl _ | apply Same.ite | apply State.set1_same | apply State.cfgWr_same)
theorem hseCfgWrite_keeps {z s : State} (kz : Keeps z s) (h a : Nat) (w : Word) :
    Keeps z (hseCfgWrite h a w s) :=
  (hseCfgWrite_same (.refl _) _ _ _).keeps.after kz

theorem hseCtlWrite_keeps {z s : State} (kz : Keeps z s) (h : Nat) (v : Word) :
    Keeps z (hseCtlWrite h v s) := by
  unfold hseCtlWrite
  repeat' first
    | lift_lets -underBinder
    | (intro x; refine Keeps.cut (s := z) (t := x) ?_ ?_; unfold x; clear x; rotate_left; intro _; clear_value x; rotate_right)
    | (intro x; clear_value x)
    | (with_reducible first
        | assumption | exact Keeps.refl _ | apply Keeps.ite | apply State.set1_keeps | apply State.cfgWr_keeps
        | apply hseAbort_keeps)

theorem hseRegWrite_keeps {z s : State} (kz : Keeps z s) (h : Nat) (r : HseReg) (v : Word) :
    Keeps z (hseRegWrite h r v s) := by
  unfold hseRegWrite
  repeat' first
    | lift_lets -underBinder
    | (with_reducible first
        | assumption | exact Keeps.refl _ | apply Keeps.ite | apply hseCfgWrite_keeps | apply hseCtlWrite_keeps)
    | (with_reducible apply Keeps.base; with_reducible first
        | assumption | exact Keeps.refl _ | apply Keeps.ite | apply hseCfgWrite_keeps | apply hseCtlWrite_keeps)
    | split

theorem serialWrite_keeps {z s : State} (kz : Keeps z s) (h a : Nat) (bytes : List Nat) :
    Keeps z (serialWrite h a bytes s).1 := by
  unfold serialWrite
  repeat' first
    | lift_lets -underBinder
    | (with_reducible first
        | assumption | exact Keeps.refl _ | apply Keeps.ite | apply State.wrBytes_keeps | apply State.set1_keeps)
    | (with_reducible apply Keeps.base; with_reducible first
        | assumption | exact Keeps.refl _ | apply Keeps.ite | apply State.wrBytes_keeps | apply State.set1_keeps)
    | split

theorem serialXfer_same {z s : State} (kz : Same z s) (q : Nat) (r : DescRun) :
    Same z (serialXfer q r s) := by
  unfold serialXfer
  repeat' first
    | lift_lets -underBinder
    | (intro (x : _ → _ → State); unfold x; clear x)
    | (intro x; clear_value x)
    | (with_reducible first
        | assumption | exact Same.refl _ | apply Same.ite | apply State.complete_same | apply State.lastErr_same
        | apply hseStat_same | apply siteSel_same | apply State.modHse_same)
theorem serialXfer_keeps {z s : State} (kz : Keeps z s) (q : Nat) (r : DescRun) :
    Keeps z (serialXfer q r s) :=
  (serialXfer_same (.refl _) _ _).keeps.after kz

theorem execSerialXfer_same {z : State} (q : Nat) : RunsSame z (execSerialXfer q z) := by
  refine ⟨_, rfl, ?_⟩
  repeat' first
    | lift_lets -underBinder
    | (with_reducible first
        | assumption | exact Same.refl _ | apply Same.ite
        | (apply State.withDesc_same; intro _ z; rotate_left; rotate_right) | apply serialXfer_same)
    | (with_reducible apply Same.base; with_reducible first
        | assumption | exact Same.refl _ | apply Same.ite | apply serialXfer_same)
    | split

theorem execXferSettleDone_same {z : State} (h : Nat) : RunsSame z (execXferSettleDone h z) := by
  refine ⟨_, rfl, ?_⟩
  repeat' first
    | lift_lets -underBinder
    | (with_reducible first | assumption | exact Same.refl _ | apply Same.ite | apply State.modHse_same)
    | (with_reducible apply Same.base; with_reducible first
        | assumption | exact Same.refl _ | apply Same.ite | apply State.modHse_same)
    | split

theorem bspiCtlWrite_same {z s : State} (kz : Same z s) (v : Word) :
    Same z (bspiCtlWrite v s) := by
  unfold bspiCtlWrite
  repeat' first
    | lift_lets -underBinder
    | (intro x; refine Same.cut (s := z) (t := x) ?_ ?_; unfold x; clear x; rotate_left; intro _; clear_value x; rotate_right)
    | (intro x; clear_value x)
    | (with_reducible first
        | assumption | exact Same.refl _ | apply Same.ite | apply State.set1_same | apply State.wr_same
        | apply State.send_same)
    | (with_reducible apply Same.base; with_reducible assumption)
theorem bspiCtlWrite_keeps {z s : State} (kz : Keeps z s) (v : Word) :
    Keeps z (bspiCtlWrite v s) :=
  (bspiCtlWrite_same (.refl _) _).keeps.after kz

theorem execBspiGo_same {z : State} (v : Word) : RunsSame z (execBspiGo v z) := by
  refine ⟨_, rfl, ?_⟩
  repeat' first
    | lift_lets -underBinder
    | (with_reducible first
        | assumption | exact Same.refl _ | apply Same.ite
        | (apply State.host_same; intro z; rotate_left; rotate_right) | apply bspiCtlWrite_same)

theorem execBspiDone_same {z : State} (data : List Nat) : RunsSame z (execBspiDone data z) := by
  refine ⟨_, rfl, ?_⟩
  repeat' first
    | lift_lets -underBinder
    | (intro x; clear_value x)
    | (with_reducible first
        | assumption | exact Same.refl _ | apply Same.ite | apply State.wr_same
        | (apply State.each_same; intro _ z; rotate_left; rotate_right) | apply State.clr_same)

end Sys2Proof.Machine
end

