-- ==== Sys2Proof/Laws/SameMicro.lean ====
section
/-! SUPPORT. What the operations of Machine.Micro keep: the part, the queue, the canonical tables, and where they store no bulk
memory all of it. -/
set_option linter.unreachableTactic false
set_option linter.unusedTactic false
namespace Sys2Proof.Machine

theorem stairRaise_same {z s : State} (kz : Same z s) (h : Nat) (is_ : List Nat) :
    Same z (stairRaise h is_ s) := by
  unfold stairRaise
  repeat' first
    | lift_lets -underBinder
    | (with_reducible first
        | assumption | exact Same.refl _ | apply Same.ite
        | (apply State.over_same; intro _ z; rotate_left; rotate_right) | apply State.raise_same)
theorem stairRaise_keeps {z s : State} (kz : Keeps z s) (h : Nat) (is_ : List Nat) :
    Keeps z (stairRaise h is_ s) :=
  (stairRaise_same (.refl _) _ _).keeps.after kz

theorem microFault_same {z s : State} (kz : Same z s) (h addr mop : Nat) :
    Same z (microFault h addr mop s) := by
  unfold microFault
  repeat' first
    | lift_lets -underBinder
    | (with_reducible first
        | assumption | exact Same.refl _ | apply Same.ite | apply State.p_same | apply State.set1_same
        | apply State.raiseLevel_same)
theorem microFault_keeps {z s : State} (kz : Keeps z s) (h addr mop : Nat) :
    Keeps z (microFault h addr mop s) :=
  (microFault_same (.refl _) _ _ _).keeps.after kz

theorem modServed_same {z s : State} (kz : Same z s) (h : Nat) (is_ : List Nat) (f : Member → Member) :
    Same z (modServed h is_ f s) := by
  unfold modServed
  repeat' first
    | lift_lets -underBinder
    | (with_reducible first | assumption | exact Same.refl _ | apply Same.ite | apply State.modEng_same)
theorem modServed_keeps {z s : State} (kz : Keeps z s) (h : Nat) (is_ : List Nat) (f : Member → Member) :
    Keeps z (modServed h is_ f s) :=
  (modServed_same (.refl _) _ _ _).keeps.after kz

theorem setReg_same {z s : State} (kz : Same z s) (h : Nat) (is_ : List Nat) (dst : Nat) (fromLane : Bool) (fr : Nat) (f : MicroX → Member → UReg) :
    Same z (setReg h is_ dst fromLane fr f s) := by
  unfold setReg
  repeat' first
    | lift_lets -underBinder
    | (intro x; clear_value x)
    | (with_reducible first
        | assumption | exact Same.refl _ | apply Same.ite | apply modServed_same | apply State.modEng_same)
theorem setReg_keeps {z s : State} (kz : Keeps z s) (h : Nat) (is_ : List Nat) (dst : Nat) (fromLane : Bool) (fr : Nat) (f : MicroX → Member → UReg) :
    Keeps z (setReg h is_ dst fromLane fr f s) :=
  (setReg_same (.refl _) _ _ _ _ _ _).keeps.after kz

theorem endi_same {z s : State} (kz : Same z s) (h : Nat) (is_ : List Nat) (addr next cause pc0 iw : Nat) :
    Same z (endi h is_ addr next cause pc0 iw s) := by
  unfold endi
  repeat' first
    | lift_lets -underBinder
    | (intro x; clear_value x)
    | (with_reducible first
        | assumption | exact Same.refl _ | apply Same.ite | apply stairRaise_same | apply modServed_same
        | apply State.p_same)
theorem endi_keeps {z s : State} (kz : Keeps z s) (h : Nat) (is_ : List Nat) (addr next cause pc0 iw : Nat) :
    Keeps z (endi h is_ addr next cause pc0 iw s) :=
  (endi_same (.refl _) _ _ _ _ _ _ _).keeps.after kz

theorem microWord_same {z s : State} (kz : Same z s) (h : Nat) (is_ : List Nat) (addr pc0 iw u : Nat) :
    Same z (microWord h is_ addr pc0 iw u s).2 := by
  unfold microWord
  repeat' first
    | lift_lets -underBinder
    | (intro x; refine Same.cut (s := z) (t := x) ?_ ?_; unfold x; clear x; rotate_left; intro _; clear_value x; rotate_right)
    | (intro x; clear_value x)
    | (with_reducible first
        | assumption | exact Same.refl _ | apply Same.ite | apply endi_same | apply State.modEng_same
        | apply modServed_same | apply setReg_same | apply State.draw_same
        | (apply State.over_same; intro _ z; rotate_left; rotate_right) | apply State.j_same
        | apply State.ringPut_same | refine Same.pair2 (by assumption) ?_)
    | (with_reducible apply Same.base; with_reducible first
        | assumption | exact Same.refl _ | apply Same.ite | apply endi_same | apply State.modEng_same
        | apply modServed_same | apply setReg_same | apply State.draw_same | apply State.j_same
        | apply State.ringPut_same | refine Same.pair2 (by assumption) ?_)
    | split
theorem microWord_keeps {z s : State} (kz : Keeps z s) (h : Nat) (is_ : List Nat) (addr pc0 iw u : Nat) :
    Keeps z (microWord h is_ addr pc0 iw u s).2 :=
  (microWord_same (.refl _) _ _ _ _ _ _).keeps.after kz

theorem microGo_keeps {z s : State} (kz : Keeps z s) (h : Nat) (is_ : List Nat) (pc0 iw n addr : Nat) :
    Keeps z (microGo h is_ pc0 iw n addr s) := by
  induction n generalizing addr s with
  | zero =>
    unfold microGo
    split
    · exact microFault_keeps (State.draw_keeps kz 6) ..
    · exact microFault_keeps kz ..
  | succ n ih =>
    unfold microGo
    split
    · exact microFault_keeps (State.draw_keeps kz 6) ..
    · have k := microWord_keeps (State.modEng_keeps kz h (fun e => { e with cycles := e.cycles + 1 })) h is_ addr pc0 iw
      dsimp only
      split
      · rename_i e; exact ih (Keeps.pair2 e (k _)) _
      · rename_i e; exact Keeps.pair2 e (k _)
      · rename_i e; exact microFault_keeps (Keeps.pair2 e (k _)) ..

theorem microGo_same {z s : State} (kz : Same z s) (h : Nat) (is_ : List Nat) (pc0 iw n addr : Nat) :
    Same z (microGo h is_ pc0 iw n addr s) := by
  induction n generalizing addr s with
  | zero =>
    unfold microGo
    split
    · exact microFault_same (State.draw_same kz 6) ..
    · exact microFault_same kz ..
  | succ n ih =>
    unfold microGo
    split
    · exact microFault_same (State.draw_same kz 6) ..
    · have k := microWord_same (State.modEng_same kz h (fun e => { e with cycles := e.cycles + 1 })) h is_ addr pc0 iw
      dsimp only
      split
      · rename_i e; exact ih (Same.pair2 e (k _)) _
      · rename_i e; exact Same.pair2 e (k _)
      · rename_i e; exact microFault_same (Same.pair2 e (k _)) ..


theorem microRun_same {z s : State} (kz : Same z s) (h : Nat) (is_ : List Nat) (entry pc0 iw : Nat) :
    Same z (microRun h is_ entry pc0 iw s) := by
  unfold microRun
  repeat' first
    | lift_lets -underBinder
    | (with_reducible first | assumption | exact Same.refl _ | apply Same.ite | apply microGo_same)
theorem microRun_keeps {z s : State} (kz : Keeps z s) (h : Nat) (is_ : List Nat) (entry pc0 iw : Nat) :
    Keeps z (microRun h is_ entry pc0 iw s) :=
  (microRun_same (.refl _) _ _ _ _ _).keeps.after kz

end Sys2Proof.Machine
end

