-- ==== Sys2Proof/Laws/SameStair.lean ====
section
/-! SUPPORT. What the operations of Machine.Stair keep: the part, the queue, the canonical tables, and where they store no bulk
memory all of it. -/
set_option linter.unreachableTactic false
set_option linter.unusedTactic false
namespace Sys2Proof.Machine

theorem stairWrite_keeps {z s : State} (kz : Keeps z s) (h a : Nat) (bytes : List Nat) :
    Keeps z (stairWrite h a bytes s).1 := by
  unfold stairWrite
  repeat' first
    | lift_lets -underBinder
    | (intro x; clear_value x)
    | (with_reducible first
        | assumption | exact Keeps.refl _ | apply Keeps.ite | apply State.set1_keeps | apply State.wrBytes_keeps
        | apply State.p_keeps | refine Keeps.pair1 (by assumption) ?_ | refine Keeps.pair2 (by assumption) ?_)
    | (with_reducible apply Keeps.base; with_reducible first
        | assumption | exact Keeps.refl _ | apply Keeps.ite | apply State.set1_keeps | apply State.wrBytes_keeps
        | apply State.p_keeps | refine Keeps.pair1 (by assumption) ?_ | refine Keeps.pair2 (by assumption) ?_)
    | dsimp -zeta only
    | split

theorem faultMembers_same {z s : State} (kz : Same z s) (h cause : Nat) (p : Member → Bool) :
    Same z (faultMembers h cause p s) := by
  unfold faultMembers
  repeat' first
    | lift_lets -underBinder
    | (intro x; clear_value x)
    | (with_reducible first
        | assumption | exact Same.refl _ | apply Same.ite | apply stairRaise_same | apply State.modEng_same)
theorem faultMembers_keeps {z s : State} (kz : Keeps z s) (h cause : Nat) (p : Member → Bool) :
    Keeps z (faultMembers h cause p s) :=
  (faultMembers_same (.refl _) _ _ _).keeps.after kz

theorem settle_keeps {z s : State} (kz : Keeps z s) (h n : Nat) : Keeps z (settle h n s) := by
  induction n generalizing s with
  | zero => exact kz
  | succ n ih =>
    unfold settle
    split
    · exact kz
    · dsimp only
      split
      · exact kz
      · split
        · exact ih (State.p_keeps (faultMembers_keeps (State.modEng_keeps kz ..) ..) ..)
        · exact ih (microRun_keeps kz ..)

theorem settle_same {z s : State} (kz : Same z s) (h n : Nat) : Same z (settle h n s) := by
  induction n generalizing s with
  | zero => exact kz
  | succ n ih =>
    unfold settle
    split
    · exact kz
    · dsimp only
      split
      · exact kz
      · split
        · exact ih (State.p_same (faultMembers_same (State.modEng_same kz ..) ..) ..)
        · exact ih (microRun_same kz ..)

theorem noticeFaults_same {z s : State} (kz : Same z s) (h : Nat) :
    Same z (noticeFaults h s) := by
  unfold noticeFaults
  repeat' first
    | lift_lets -underBinder
    | (intro x; clear_value x)
    | (with_reducible first | assumption | exact Same.refl _ | apply Same.ite | apply State.modEng_same)
theorem noticeFaults_keeps {z s : State} (kz : Keeps z s) (h : Nat) :
    Keeps z (noticeFaults h s) :=
  (noticeFaults_same (.refl _) _).keeps.after kz

theorem serve_keeps {z s : State} {r : Routine} (hr : ∀ w t, Keeps t (r.onOther w t)) (kz : Keeps z s) (h : Nat) (is_ : Nat → Bool) :
    Keeps z (serve h is_ r s) := by
  unfold serve
  repeat' first
    | lift_lets -underBinder
    | (intro x; refine Keeps.cut (s := z) (t := x) ?_ ?_; unfold x; clear x; rotate_left; intro _; clear_value x; rotate_right)
    | (intro x; clear_value x)
    | (with_reducible first
        | assumption | exact Keeps.refl _ | apply Keeps.ite | refine Keeps.after (hr ..) ?_ | exact hr
        | apply settle_keeps | apply faultMembers_keeps | apply microRun_keeps | apply State.modEng_keeps
        | apply noticeFaults_keeps | apply stairRaise_keeps | apply State.p_keeps)
    | (with_reducible apply Keeps.base; with_reducible first
        | assumption | exact Keeps.refl _ | apply Keeps.ite | refine Keeps.after (hr ..) ?_ | exact hr
        | apply settle_keeps | apply faultMembers_keeps | apply microRun_keeps | apply State.modEng_keeps
        | apply noticeFaults_keeps | apply stairRaise_keeps | apply State.p_keeps)
    | split

theorem stairStep_keeps {z s : State} {r : Routine} (hr : ∀ w t, Keeps t (r.onOther w t)) (kz : Keeps z s) (h opc : Nat) :
    Keeps z (stairStep h opc r s) := by
  unfold stairStep
  repeat' first
    | lift_lets -underBinder
    | (with_reducible first
        | assumption | exact Keeps.refl _ | apply Keeps.ite | refine Keeps.after (hr ..) ?_ | exact hr
        | (apply serve_keeps; intro _ z; rotate_left; rotate_right))

theorem execNopInstr_keeps {z : State} (h : Nat) : RunsKeeps z (execNopInstr h z) := by
  refine ⟨_, rfl, ?_⟩
  repeat' first
    | lift_lets -underBinder
    | (with_reducible first
        | assumption | exact Keeps.refl _ | apply Keeps.ite
        | (apply stairStep_keeps; intro _ z; rotate_left; rotate_right))

theorem execHalt_keeps {z : State} (h : Nat) : RunsKeeps z (execHalt h z) := by
  refine ⟨_, rfl, ?_⟩
  repeat' first
    | lift_lets -underBinder
    | (with_reducible first
        | assumption | exact Keeps.refl _ | apply Keeps.ite
        | (apply stairStep_keeps; intro _ z; rotate_left; rotate_right))

theorem execPlay_keeps {z : State} (h : Nat) : RunsKeeps z (execPlay h z) := by
  refine ⟨_, rfl, ?_⟩
  repeat' first
    | lift_lets -underBinder
    | (with_reducible first
        | assumption | exact Keeps.refl _ | apply Keeps.ite
        | (apply stairStep_keeps; intro _ z; rotate_left; rotate_right))

theorem execPlayn_keeps {z : State} (h : Nat) : RunsKeeps z (execPlayn h z) := by
  refine ⟨_, rfl, ?_⟩
  repeat' first
    | lift_lets -underBinder
    | (with_reducible first
        | assumption | exact Keeps.refl _ | apply Keeps.ite
        | (apply stairStep_keeps; intro _ z; rotate_left; rotate_right))

theorem execLoop_keeps {z : State} (h : Nat) : RunsKeeps z (execLoop h z) := by
  refine ⟨_, rfl, ?_⟩
  repeat' first
    | lift_lets -underBinder
    | (with_reducible first
        | assumption | exact Keeps.refl _ | apply Keeps.ite
        | (apply stairStep_keeps; intro _ z; rotate_left; rotate_right))

theorem execNext_keeps {z : State} (h : Nat) : RunsKeeps z (execNext h z) := by
  refine ⟨_, rfl, ?_⟩
  repeat' first
    | lift_lets -underBinder
    | (with_reducible first
        | assumption | exact Keeps.refl _ | apply Keeps.ite
        | (apply stairStep_keeps; intro _ z; rotate_left; rotate_right))

theorem execCall_keeps {z : State} (h : Nat) : RunsKeeps z (execCall h z) := by
  refine ⟨_, rfl, ?_⟩
  repeat' first
    | lift_lets -underBinder
    | (with_reducible first
        | assumption | exact Keeps.refl _ | apply Keeps.ite
        | (apply stairStep_keeps; intro _ z; rotate_left; rotate_right))

theorem execRet_keeps {z : State} (h : Nat) : RunsKeeps z (execRet h z) := by
  refine ⟨_, rfl, ?_⟩
  repeat' first
    | lift_lets -underBinder
    | (with_reducible first
        | assumption | exact Keeps.refl _ | apply Keeps.ite
        | (apply stairStep_keeps; intro _ z; rotate_left; rotate_right))

theorem execBr_keeps {z : State} (h : Nat) : RunsKeeps z (execBr h z) := by
  refine ⟨_, rfl, ?_⟩
  repeat' first
    | lift_lets -underBinder
    | (with_reducible first
        | assumption | exact Keeps.refl _ | apply Keeps.ite
        | (apply stairStep_keeps; intro _ z; rotate_left; rotate_right))

theorem execBrw_keeps {z : State} (h : Nat) : RunsKeeps z (execBrw h z) := by
  refine ⟨_, rfl, ?_⟩
  repeat' first
    | lift_lets -underBinder
    | (with_reducible first
        | assumption | exact Keeps.refl _ | apply Keeps.ite
        | (apply stairStep_keeps; intro _ z; rotate_left; rotate_right))

theorem execSett_keeps {z : State} (h : Nat) : RunsKeeps z (execSett h z) := by
  refine ⟨_, rfl, ?_⟩
  repeat' first
    | lift_lets -underBinder
    | (with_reducible first
        | assumption | exact Keeps.refl _ | apply Keeps.ite
        | (apply stairStep_keeps; intro _ z; rotate_left; rotate_right))

theorem execWaita_keeps {z : State} (h : Nat) : RunsKeeps z (execWaita h z) := by
  refine ⟨_, rfl, ?_⟩
  repeat' first
    | lift_lets -underBinder
    | (with_reducible first
        | assumption | exact Keeps.refl _ | apply Keeps.ite
        | (apply stairStep_keeps; intro _ z; rotate_left; rotate_right))

theorem execSync_keeps {z : State} (h : Nat) : RunsKeeps z (execSync h z) := by
  refine ⟨_, rfl, ?_⟩
  repeat' first
    | lift_lets -underBinder
    | (with_reducible first
        | assumption | exact Keeps.refl _ | apply Keeps.ite
        | (apply stairStep_keeps; intro _ z; rotate_left; rotate_right))

theorem execSetl_keeps {z : State} (h : Nat) : RunsKeeps z (execSetl h z) := by
  refine ⟨_, rfl, ?_⟩
  repeat' first
    | lift_lets -underBinder
    | (with_reducible first
        | assumption | exact Keeps.refl _ | apply Keeps.ite
        | (apply stairStep_keeps; intro _ z; rotate_left; rotate_right))

theorem execSend_keeps {z : State} (h : Nat) : RunsKeeps z (execSend h z) := by
  refine ⟨_, rfl, ?_⟩
  repeat' first
    | lift_lets -underBinder
    | (with_reducible first
        | assumption | exact Keeps.refl _ | apply Keeps.ite
        | (apply stairStep_keeps; intro _ z; rotate_left; rotate_right))

theorem execTdc_keeps {z : State} (h : Nat) : RunsKeeps z (execTdc h z) := by
  refine ⟨_, rfl, ?_⟩
  repeat' first
    | lift_lets -underBinder
    | (with_reducible first
        | assumption | exact Keeps.refl _ | apply Keeps.ite
        | (apply stairStep_keeps; intro _ z; rotate_left; rotate_right))

theorem execMeas_keeps {z : State} (h : Nat) : RunsKeeps z (execMeas h z) := by
  refine ⟨_, rfl, ?_⟩
  repeat' first
    | lift_lets -underBinder
    | (with_reducible first
        | assumption | exact Keeps.refl _ | apply Keeps.ite
        | (apply stairStep_keeps; intro _ z; rotate_left; rotate_right) | apply State.set1_keeps)

theorem execEmit_keeps {z : State} (h : Nat) : RunsKeeps z (execEmit h z) := by
  refine ⟨_, rfl, ?_⟩
  repeat' first
    | lift_lets -underBinder
    | (with_reducible first
        | assumption | exact Keeps.refl _ | apply Keeps.ite
        | (apply stairStep_keeps; intro _ z; rotate_left; rotate_right))

theorem execAcc_keeps {z : State} (h : Nat) : RunsKeeps z (execAcc h z) := by
  refine ⟨_, rfl, ?_⟩
  repeat' first
    | lift_lets -underBinder
    | (with_reducible first
        | assumption | exact Keeps.refl _ | apply Keeps.ite
        | (apply stairStep_keeps; intro _ z; rotate_left; rotate_right))

theorem execBin_keeps {z : State} (h : Nat) : RunsKeeps z (execBin h z) := by
  refine ⟨_, rfl, ?_⟩
  repeat' first
    | lift_lets -underBinder
    | (with_reducible first
        | assumption | exact Keeps.refl _ | apply Keeps.ite
        | (apply stairStep_keeps; intro _ z; rotate_left; rotate_right))

theorem execFlag_keeps {z : State} (h : Nat) : RunsKeeps z (execFlag h z) := by
  refine ⟨_, rfl, ?_⟩
  repeat' first
    | lift_lets -underBinder
    | (with_reducible first
        | assumption | exact Keeps.refl _ | apply Keeps.ite
        | (apply stairStep_keeps; intro _ z; rotate_left; rotate_right))

theorem execYield_keeps {z : State} (h : Nat) : RunsKeeps z (execYield h z) := by
  refine ⟨_, rfl, ?_⟩
  repeat' first
    | lift_lets -underBinder
    | (with_reducible first
        | assumption | exact Keeps.refl _ | apply Keeps.ite
        | (apply stairStep_keeps; intro _ z; rotate_left; rotate_right))

theorem execGap_keeps {z : State} (h : Nat) : RunsKeeps z (execGap h z) := by
  refine ⟨_, rfl, ?_⟩
  repeat' first
    | lift_lets -underBinder
    | (with_reducible first
        | assumption | exact Keeps.refl _ | apply Keeps.ite
        | (apply stairStep_keeps; intro _ z; rotate_left; rotate_right))

theorem execReservedOpcode_keeps {z : State} (h : Nat) : RunsKeeps z (execReservedOpcode h z) := by
  refine ⟨_, rfl, ?_⟩
  repeat' first
    | lift_lets -underBinder
    | (with_reducible first
        | assumption | exact Keeps.refl _ | apply Keeps.ite
        | (apply serve_keeps; intro _ z; rotate_left; rotate_right))

theorem execSegmentLimit_same {z : State} (h : Nat) : RunsSame z (execSegmentLimit h z) := by
  refine ⟨_, rfl, ?_⟩
  repeat' first
    | lift_lets -underBinder
    | (with_reducible first
        | assumption | exact Same.refl _ | apply Same.ite | apply settle_same | apply noticeFaults_same
        | apply faultMembers_same)

end Sys2Proof.Machine
end

