-- ==== Sys2Proof/Laws/SameSched.lean ====
section
/-! SUPPORT. What the operations of Machine.Sched keep: the part, the queue, the canonical tables, and where they store no bulk
memory all of it. -/
set_option linter.unreachableTactic false
set_option linter.unusedTactic false
namespace Sys2Proof.Machine

theorem headFetch_same {z s : State} (kz : Same z s) (h : Nat) (run : List Nat) :
    Same z (headFetch h run s) := by
  unfold headFetch
  repeat' first
    | lift_lets -underBinder
    | (intro x; clear_value x)
    | (with_reducible first | assumption | exact Same.refl _ | apply Same.ite | apply State.modHl_same)
theorem headFetch_keeps {z s : State} (kz : Keeps z s) (h : Nat) (run : List Nat) :
    Keeps z (headFetch h run s) :=
  (headFetch_same (.refl _) _ _).keeps.after kz

theorem setDefer_same {z s : State} (kz : Same z s) (h b cause : Nat) :
    Same z (setDefer h b cause s) := by
  unfold setDefer
  repeat' first
    | lift_lets -underBinder
    | (with_reducible first
        | assumption | exact Same.refl _ | apply Same.ite | apply State.p_same
        | (apply State.over_same; intro _ z; rotate_left; rotate_right) | apply State.pb_same)
theorem setDefer_keeps {z s : State} (kz : Keeps z s) (h b cause : Nat) :
    Keeps z (setDefer h b cause s) :=
  (setDefer_same (.refl _) _ _ _).keeps.after kz

theorem setYield_same {z s : State} (kz : Same z s) (h b : Nat) (is_ : List Nat) :
    Same z (setYield h b is_ s) := by
  unfold setYield
  repeat' first
    | lift_lets -underBinder
    | (with_reducible first
        | assumption | exact Same.refl _ | apply Same.ite | apply State.p_same
        | (apply State.over_same; intro _ z; rotate_left; rotate_right) | apply State.set1_same)
theorem setYield_keeps {z s : State} (kz : Keeps z s) (h b : Nat) (is_ : List Nat) :
    Keeps z (setYield h b is_ s) :=
  (setYield_same (.refl _) _ _ _).keeps.after kz

theorem endYield_same {z s : State} (kz : Same z s) (h b : Nat) :
    Same z (endYield h b s) := by
  unfold endYield
  repeat' first
    | lift_lets -underBinder
    | (intro x; clear_value x)
    | (with_reducible first
        | assumption | exact Same.refl _ | apply Same.ite | apply State.p_same
        | (apply State.over_same; intro _ z; rotate_left; rotate_right) | apply State.clr_same)
theorem endYield_keeps {z s : State} (kz : Keeps z s) (h b : Nat) :
    Keeps z (endYield h b s) :=
  (endYield_same (.refl _) _ _).keeps.after kz

theorem jSched_same {z s : State} (kz : Same z s) (h b arg cause est : Nat) :
    Same z (jSched h b arg cause est s) := by
  unfold jSched
  repeat' first
    | lift_lets -underBinder
    | (with_reducible first | assumption | exact Same.refl _ | apply Same.ite | apply State.j_same)
theorem jSched_keeps {z s : State} (kz : Keeps z s) (h b arg cause est : Nat) :
    Keeps z (jSched h b arg cause est s) :=
  (jSched_same (.refl _) _ _ _ _ _).keeps.after kz

theorem ledger_same {z s : State} (kz : Same z s) :
    Same z (ledger s) := by
  unfold ledger
  repeat' first
    | lift_lets -underBinder
    | (with_reducible first | assumption | exact Same.refl _ | apply Same.ite | apply State.p_same)
theorem ledger_keeps {z s : State} (kz : Keeps z s) :
    Keeps z (ledger s) :=
  (ledger_same (.refl _)).keeps.after kz

theorem dropResv_same {z s : State} (kz : Same z s) (h : Nat) :
    Same z (dropResv h s) := by
  unfold dropResv
  repeat' first
    | lift_lets -underBinder
    | (with_reducible first
        | assumption | exact Same.refl _ | apply Same.ite | apply ledger_same | apply State.modHl_same)
theorem dropResv_keeps {z s : State} (kz : Keeps z s) (h : Nat) :
    Keeps z (dropResv h s) :=
  (dropResv_same (.refl _) _).keeps.after kz

theorem dropClaim_same {z s : State} (kz : Same z s) (h b : Nat) :
    Same z (dropClaim h b s) := by
  unfold dropClaim
  repeat' first
    | lift_lets -underBinder
    | (with_reducible first
        | assumption | exact Same.refl _ | apply Same.ite | apply claimUpdate_same | apply State.modBank_same)
    | (with_reducible apply Same.base; with_reducible first
        | assumption | exact Same.refl _ | apply Same.ite | apply claimUpdate_same | apply State.modBank_same)
    | split
theorem dropClaim_keeps {z s : State} (kz : Keeps z s) (h b : Nat) :
    Keeps z (dropClaim h b s) :=
  (dropClaim_same (.refl _) _ _).keeps.after kz

theorem jFence_same {z s : State} (kz : Same z s) (h arg : Nat) :
    Same z (jFence h arg s) := by
  unfold jFence
  repeat' first
    | lift_lets -underBinder
    | (with_reducible first
        | assumption | exact Same.refl _ | apply Same.ite
        | (apply State.over_same; intro _ z; rotate_left; rotate_right) | apply State.draw_same | apply jSched_same)
theorem jFence_keeps {z s : State} (kz : Keeps z s) (h arg : Nat) :
    Keeps z (jFence h arg s) :=
  (jFence_same (.refl _) _ _).keeps.after kz

theorem admitBank_same {z s : State} (kz : Same z s) (h : Nat) (out : Option Nat) (b est : Nat) :
    Same z (admitBank h out b est s) := by
  unfold admitBank
  repeat' first
    | lift_lets -underBinder
    | (intro x; refine Same.cut (s := z) (t := x) ?_ ?_; unfold x; clear x; rotate_left; intro _; clear_value x; rotate_right)
    | (intro x; clear_value x)
    | (with_reducible first
        | assumption | exact Same.refl _ | apply Same.ite | apply endYield_same | apply setDefer_same
        | apply ledger_same | apply State.modBank_same | apply State.modHl_same | apply dropClaim_same
        | apply winClose_same | apply State.set1_same | apply State.p_same | apply jSched_same)
    | (with_reducible apply Same.base; with_reducible first
        | assumption | exact Same.refl _ | apply Same.ite | apply endYield_same | apply setDefer_same
        | apply ledger_same | apply State.modBank_same | apply State.modHl_same | apply dropClaim_same
        | apply winClose_same | apply State.set1_same | apply State.p_same | apply jSched_same)
    | split
theorem admitBank_keeps {z s : State} (kz : Keeps z s) (h : Nat) (out : Option Nat) (b est : Nat) :
    Keeps z (admitBank h out b est s) :=
  (admitBank_same (.refl _) _ _ _ _).keeps.after kz

theorem decideOver_keeps {z s : State} (kz : Keeps z s) (h : Nat) (out : Option Nat) (bs : List Nat) :
    Keeps z (decideOver h out bs s).2 := by
  induction bs generalizing s with
  | nil => exact kz
  | cons b r ih =>
    unfold decideOver
    split
    · exact admitBank_keeps kz ..
    · exact ih (jSched_keeps (setDefer_keeps kz ..) ..)


theorem decideOver_same {z s : State} (kz : Same z s) (h : Nat) (out : Option Nat) (bs : List Nat) :
    Same z (decideOver h out bs s).2 := by
  induction bs generalizing s with
  | nil => exact kz
  | cons b r ih =>
    unfold decideOver
    split
    · exact admitBank_same kz ..
    · exact ih (jSched_same (setDefer_same kz ..) ..)

theorem schedDecide_same {z s : State} (kz : Same z s) (h : Nat) (out : Option Nat) :
    Same z (schedDecide h out s).2 := by
  unfold schedDecide
  repeat' first
    | lift_lets -underBinder
    | (intro x; refine Same.cut (s := z) (t := x) ?_ ?_; unfold x; clear x; rotate_left; intro _; clear_value x; rotate_right)
    | (intro x; clear_value x)
    | (with_reducible first
        | assumption | exact Same.refl _ | apply Same.ite
        | (apply State.over_same; intro _ z; rotate_left; rotate_right) | apply setDefer_same | apply decideOver_same)
theorem schedDecide_keeps {z s : State} (kz : Keeps z s) (h : Nat) (out : Option Nat) :
    Keeps z (schedDecide h out s).2 :=
  (schedDecide_same (.refl _) _ _).keeps.after kz

theorem setAlcSt_same {z s : State} (kz : Same z s) (h i st : Nat) :
    Same z (setAlcSt h i st s) := by
  unfold setAlcSt
  repeat' first
    | lift_lets -underBinder
    | (with_reducible first | assumption | exact Same.refl _ | apply Same.ite | apply State.p_same)
theorem setAlcSt_keeps {z s : State} (kz : Keeps z s) (h i st : Nat) :
    Keeps z (setAlcSt h i st s) :=
  (setAlcSt_same (.refl _) _ _ _).keeps.after kz

theorem tsKeep_same {z s : State} (kz : Same z s) (h b : Nat) :
    Same z (tsKeep h b s) := by
  unfold tsKeep
  repeat' first
    | lift_lets -underBinder
    | (intro x; clear_value x)
    | (with_reducible first | assumption | exact Same.refl _ | apply Same.ite | apply State.setAx_same)
theorem tsKeep_keeps {z s : State} (kz : Keeps z s) (h b : Nat) :
    Keeps z (tsKeep h b s) :=
  (tsKeep_same (.refl _) _ _).keeps.after kz

theorem leaveCore_same {z s : State} (kz : Same z s) (h b : Nat) :
    Same z (leaveCore h b s) := by
  unfold leaveCore
  repeat' first
    | lift_lets -underBinder
    | (intro x; refine Same.cut (s := z) (t := x) ?_ ?_; unfold x; clear x; rotate_left; intro _; clear_value x; rotate_right)
    | (intro x; clear_value x)
    | (with_reducible first
        | assumption | exact Same.refl _ | apply Same.ite
        | (apply State.when_same; intro z; rotate_left; rotate_right) | apply State.jAxis_same | apply tsKeep_same
        | (apply State.each_same; intro _ z; rotate_left; rotate_right) | apply State.p_same
        | (apply State.over_same; intro _ z; rotate_left; rotate_right) | apply setAlcSt_same | apply State.clr_same
        | apply State.modAlc_same | apply State.modHl_same | apply State.set1_same | apply blankHall_same
        | apply refsUpdate_same | apply dropClaim_same | apply tdcAbort_same | apply setDefer_same)
theorem leaveCore_keeps {z s : State} (kz : Keeps z s) (h b : Nat) :
    Keeps z (leaveCore h b s) :=
  (leaveCore_same (.refl _) _ _).keeps.after kz

theorem leaveBank_same {z s : State} (kz : Same z s) (h b : Nat) :
    Same z (leaveBank h b s) := by
  unfold leaveBank
  repeat' first
    | lift_lets -underBinder
    | (intro x; refine Same.cut (s := z) (t := x) ?_ ?_; unfold x; clear x; rotate_left; intro _; clear_value x; rotate_right)
    | (with_reducible first
        | assumption | exact Same.refl _ | apply Same.ite | apply leaveCore_same | apply State.draw_same
        | apply jSched_same)
theorem leaveBank_keeps {z s : State} (kz : Keeps z s) (h b : Nat) :
    Keeps z (leaveBank h b s) :=
  (leaveBank_same (.refl _) _ _).keeps.after kz

end Sys2Proof.Machine
end

