-- ==== Sys2Proof/Laws/SameLanding.lean ====
section
/-! SUPPORT. What the operations of Machine.Landing keep: the part, the queue, the canonical tables, and where they store no bulk
memory all of it. -/
set_option linter.unreachableTactic false
set_option linter.unusedTactic false
namespace Sys2Proof.Machine

theorem waitStat_same {z s : State} (kz : Same z s) (h : Nat) :
    Same z (waitStat h s) := by
  unfold waitStat
  repeat' first
    | lift_lets -underBinder
    | (intro x; clear_value x)
    | (with_reducible first | assumption | exact Same.refl _ | apply Same.ite | apply State.pb_same)
theorem waitStat_keeps {z s : State} (kz : Keeps z s) (h : Nat) :
    Keeps z (waitStat h s) :=
  (waitStat_same (.refl _) _).keeps.after kz

theorem holdBegin_same {z s : State} (kz : Same z s) (h : Nat) :
    Same z (holdBegin h s) := by
  unfold holdBegin
  repeat' first
    | lift_lets -underBinder
    | (with_reducible first
        | assumption | exact Same.refl _ | apply Same.ite | apply driveHold_same | apply State.modHold_same)
    | (with_reducible apply Same.base; with_reducible first
        | assumption | exact Same.refl _ | apply Same.ite | apply driveHold_same | apply State.modHold_same)
    | split
theorem holdBegin_keeps {z s : State} (kz : Keeps z s) (h : Nat) :
    Keeps z (holdBegin h s) :=
  (holdBegin_same (.refl _) _).keeps.after kz

theorem jumpClear_same {z s : State} (kz : Same z s) (h : Nat) :
    Same z (jumpClear h s) := by
  unfold jumpClear
  repeat' first
    | lift_lets -underBinder
    | (with_reducible first
        | assumption | exact Same.refl _ | apply Same.ite | apply State.modEng_same | apply State.clr_same)
theorem jumpClear_keeps {z s : State} (kz : Keeps z s) (h : Nat) :
    Keeps z (jumpClear h s) :=
  (jumpClear_same (.refl _) _).keeps.after kz

theorem jumpDone_same {z s : State} (kz : Same z s) (h : Nat) :
    Same z (jumpDone h s) := by
  unfold jumpDone
  repeat' first
    | lift_lets -underBinder
    | (with_reducible first
        | assumption | exact Same.refl _ | apply Same.ite
        | (apply State.when_same; intro z; rotate_left; rotate_right) | apply jumpClear_same)
theorem jumpDone_keeps {z s : State} (kz : Keeps z s) (h : Nat) :
    Keeps z (jumpDone h s) :=
  (jumpDone_same (.refl _) _).keeps.after kz

theorem stopCheck_same {z s : State} (kz : Same z s) :
    Same z (stopCheck s) := by
  unfold stopCheck
  repeat' first
    | lift_lets -underBinder
    | (intro x; refine Same.cut (s := z) (t := x) ?_ ?_; unfold x; clear x; rotate_left; intro _; clear_value x; rotate_right)
    | (with_reducible first
        | assumption | exact Same.refl _ | apply Same.ite
        | (apply State.over_same; intro _ z; rotate_left; rotate_right)
        | (apply State.each_same; intro _ z; rotate_left; rotate_right) | apply State.modEng_same
        | (apply State.when_same; intro z; rotate_left; rotate_right) | apply State.clr_same
        | apply State.complete_same)
    | (with_reducible apply Same.base; with_reducible first
        | assumption | exact Same.refl _ | (apply State.over_same; intro _ z; rotate_left; rotate_right)
        | (apply State.each_same; intro _ z; rotate_left; rotate_right)
        | (apply State.when_same; intro z; rotate_left; rotate_right))
theorem stopCheck_keeps {z s : State} (kz : Keeps z s) :
    Keeps z (stopCheck s) :=
  (stopCheck_same (.refl _)).keeps.after kz

theorem finishAlc_keeps {z s : State} (kz : Keeps z s) (h i end_ cause : Nat) :
    Keeps z (finishAlc h i end_ cause s) := by
  unfold finishAlc
  repeat' first
    | lift_lets -underBinder
    | (intro x; refine Keeps.cut (s := z) (t := x) ?_ ?_; unfold x; clear x; rotate_left; intro _; clear_value x; rotate_right)
    | (intro x; clear_value x)
    | (with_reducible first
        | assumption | exact Keeps.refl _ | apply Keeps.ite | apply State.ringPut_keeps | apply setAlcSt_keeps
        | apply State.p_keeps | apply State.clr_keeps | apply hseAbortAlc_keeps | apply State.modAlc_keeps
        | apply refsUpdate_keeps | apply State.modEng_keeps
        | (apply State.when_keeps; intro z; rotate_left; rotate_right) | apply setDefer_keeps | apply tdcAbort_keeps)

theorem stopAct_keeps {z s : State} (kz : Keeps z s) (h : Nat) :
    Keeps z (stopAct h s) := by
  unfold stopAct
  repeat' first
    | lift_lets -underBinder
    | (intro x; refine Keeps.cut (s := z) (t := x) ?_ ?_; unfold x; clear x; rotate_left; intro _; clear_value x; rotate_right)
    | (intro x; clear_value x)
    | (with_reducible first
        | assumption | exact Keeps.refl _ | apply Keeps.ite
        | (apply State.over_keeps; intro _ z; rotate_left; rotate_right) | apply finishAlc_keeps
        | apply leaveCore_keeps | apply dropResv_keeps | apply siteSel_keeps | apply jumpClear_keeps
        | (apply State.each_keeps; intro _ z; rotate_left; rotate_right) | apply dropClaim_keeps
        | apply State.modEng_keeps | apply setDefer_keeps | apply endYield_keeps | apply State.modBank_keeps
        | apply stopCheck_keeps | apply blankHall_keeps | apply State.p_keeps | apply State.clr_keeps)
    | (with_reducible apply Keeps.base; with_reducible first
        | assumption | exact Keeps.refl _ | apply Keeps.ite | apply finishAlc_keeps | apply leaveCore_keeps
        | apply dropResv_keeps | apply siteSel_keeps | apply jumpClear_keeps | apply dropClaim_keeps
        | apply State.modEng_keeps | apply setDefer_keeps | apply endYield_keeps | apply State.modBank_keeps
        | apply stopCheck_keeps | apply blankHall_keeps | apply State.p_keeps | apply State.clr_keeps)
    | split

theorem goIdle_keeps {z s : State} (kz : Keeps z s) (h : Nat) :
    Keeps z (goIdle h s) := by
  unfold goIdle
  repeat' first
    | lift_lets -underBinder
    | (intro x; refine Keeps.cut (s := z) (t := x) ?_ ?_; unfold x; clear x; rotate_left; intro _; clear_value x; rotate_right)
    | (with_reducible first
        | assumption | exact Keeps.refl _ | apply Keeps.ite | apply blankHall_keeps | apply jumpClear_keeps
        | apply siteSel_keeps | apply dropResv_keeps | apply stopAct_keeps)

theorem flushDefer_same {z s : State} (kz : Same z s) (h : Nat) :
    Same z (flushDefer h s) := by
  unfold flushDefer
  repeat' first
    | lift_lets -underBinder
    | (intro x; refine Same.cut (s := z) (t := x) ?_ ?_; unfold x; clear x; rotate_left; intro _; clear_value x; rotate_right)
    | (intro x; clear_value x)
    | (with_reducible first
        | assumption | exact Same.refl _ | apply Same.ite
        | (apply State.over_same; intro _ z; rotate_left; rotate_right) | apply State.jput_same)
    | (with_reducible apply Same.base; with_reducible first
        | assumption | (apply State.over_same; intro _ z; rotate_left; rotate_right))
theorem flushDefer_keeps {z s : State} (kz : Keeps z s) (h : Nat) :
    Keeps z (flushDefer h s) :=
  (flushDefer_same (.refl _) _).keeps.after kz

theorem snapRecord_same {z s : State} (kz : Same z s) (h typ : Nat) (words : List (Nat × Nat)) :
    Same z (snapRecord h typ words s) := by
  unfold snapRecord
  repeat' first
    | lift_lets -underBinder
    | (with_reducible first
        | assumption | exact Same.refl _ | apply Same.ite | apply State.p_same | apply State.j_same
        | apply flushDefer_same | apply State.modEng_same)
theorem snapRecord_keeps {z s : State} (kz : Keeps z s) (h typ : Nat) (words : List (Nat × Nat)) :
    Keeps z (snapRecord h typ words s) :=
  (snapRecord_same (.refl _) _ _ _).keeps.after kz

theorem diverge_same {z s : State} (kz : Same z s) (h : Nat) (words : List (Nat × Nat)) :
    Same z (diverge h words s) := by
  unfold diverge
  repeat' first
    | lift_lets -underBinder
    | (intro x; clear_value x)
    | (with_reducible first | assumption | exact Same.refl _ | apply Same.ite | apply State.jforce_same)
    | (with_reducible apply Same.base; with_reducible first
        | assumption | exact Same.refl _ | apply Same.ite | apply State.jforce_same)
    | split
theorem diverge_keeps {z s : State} (kz : Keeps z s) (h : Nat) (words : List (Nat × Nat)) :
    Keeps z (diverge h words s) :=
  (diverge_same (.refl _) _ _).keeps.after kz

theorem rplTaken_same {z s : State} (kz : Same z s) (h : Nat) :
    Same z (rplTaken h s) := by
  unfold rplTaken
  repeat' first
    | lift_lets -underBinder
    | (with_reducible first | assumption | exact Same.refl _ | apply Same.ite)
    | (with_reducible apply Same.base; with_reducible assumption)
theorem rplTaken_keeps {z s : State} (kz : Keeps z s) (h : Nat) :
    Keeps z (rplTaken h s) :=
  (rplTaken_same (.refl _) _).keeps.after kz

theorem takeSnap_same {z s : State} (kz : Same z s) (h : Nat) (resume : Bool) :
    Same z (takeSnap h resume s) := by
  unfold takeSnap
  repeat' first
    | lift_lets -underBinder
    | (intro x; refine Same.cut (s := z) (t := x) ?_ ?_; unfold x; clear x; rotate_left; intro _; clear_value x; rotate_right)
    | (intro x; clear_value x)
    | (with_reducible first
        | assumption | exact Same.refl _ | apply Same.ite | apply rplTaken_same | apply diverge_same
        | apply snapRecord_same | (apply State.over_same; intro _ z; rotate_left; rotate_right) | apply State.j_same
        | apply State.setAlc_same)
theorem takeSnap_keeps {z s : State} (kz : Keeps z s) (h : Nat) (resume : Bool) :
    Keeps z (takeSnap h resume s) :=
  (takeSnap_same (.refl _) _ _).keeps.after kz

theorem startSegments_keeps {z s : State} (kz : Keeps z s) (h : Nat) (words : List (Nat × Nat)) (wins : Nat → Nat) (run : Nat → Bool) :
    Keeps z (startSegments h words wins run s) := by
  unfold startSegments
  repeat' first
    | lift_lets -underBinder
    | (intro x; refine Keeps.cut (s := z) (t := x) ?_ ?_; unfold x; clear x; rotate_left; intro _; clear_value x; rotate_right)
    | (intro x; clear_value x)
    | (with_reducible first
        | assumption | exact Keeps.refl _ | apply Keeps.ite | apply State.modEng_keeps | apply State.p_keeps
        | apply settle_keeps)

theorem leadPoint_keeps {z s : State} (kz : Keeps z s) (h : Nat) :
    Keeps z (leadPoint h s) := by
  unfold leadPoint
  repeat' first
    | lift_lets -underBinder
    | (intro x; refine Keeps.cut (s := z) (t := x) ?_ ?_; unfold x; clear x; rotate_left; intro _; clear_value x; rotate_right)
    | (intro x; clear_value x)
    | (with_reducible first
        | assumption | exact Keeps.refl _ | apply Keeps.ite | apply takeSnap_keeps | apply State.modHl_keeps
        | (apply State.when_keeps; intro z; rotate_left; rotate_right) | apply State.j_keeps
        | apply startSegments_keeps)

theorem replayStop_keeps {z s : State} (kz : Keeps z s) (st : Status) (detail : Nat) :
    Keeps z (replayStop st detail s) := by
  unfold replayStop
  repeat' first
    | lift_lets -underBinder
    | (intro x; refine Keeps.cut (s := z) (t := x) ?_ ?_; unfold x; clear x; rotate_left; intro _; clear_value x; rotate_right)
    | (intro x; clear_value x)
    | (with_reducible first
        | assumption | exact Keeps.refl _ | apply Keeps.ite
        | (apply State.each_keeps; intro _ z; rotate_left; rotate_right) | apply stopAct_keeps | apply State.clr_keeps
        | (apply State.when_keeps; intro z; rotate_left; rotate_right) | apply blankHall_keeps | apply peRelease_keeps
        | apply smuRelease_keeps | apply State.complete_keeps)
    | (with_reducible apply Keeps.base; with_reducible first
        | assumption | exact Keeps.refl _ | apply Keeps.ite | apply stopAct_keeps | apply State.clr_keeps
        | apply blankHall_keeps | apply peRelease_keeps | apply smuRelease_keeps | apply State.complete_keeps)
    | split

theorem rplLead_keeps {z s : State} (kz : Keeps z s) (h : Nat) :
    Keeps z (rplLead h s) := by
  unfold rplLead
  repeat' first
    | lift_lets -underBinder
    | (with_reducible first
        | assumption | exact Keeps.refl _ | apply Keeps.ite | apply leadPoint_keeps | apply replayStop_keeps)
    | (with_reducible apply Keeps.base; with_reducible first
        | assumption | exact Keeps.refl _ | apply Keeps.ite | apply leadPoint_keeps | apply replayStop_keeps)
    | split

theorem execLeadPoint_keeps {z : State} (h : Nat) : RunsKeeps z (execLeadPoint h z) := by
  refine ⟨_, rfl, ?_⟩
  repeat' first
    | lift_lets -underBinder
    | (with_reducible first
        | assumption | exact Keeps.refl _ | apply Keeps.ite | apply rplLead_keeps | apply leadPoint_keeps)

theorem formAction_same {z s : State} (kz : Same z s) (h : Nat) :
    Same z (formAction h s).2 := by
  unfold formAction
  repeat' first
    | lift_lets -underBinder
    | (intro x; refine Same.cut (s := z) (t := x) ?_ ?_; unfold x; clear x; rotate_left; intro _; clear_value x; rotate_right)
    | (intro x; clear_value x)
    | (with_reducible first
        | assumption | exact Same.refl _ | apply Same.ite | apply refsUpdate_same
        | (apply State.over_same; intro _ z; rotate_left; rotate_right) | apply State.setAlc_same)
    | (with_reducible apply Same.base; with_reducible first
        | assumption | exact Same.refl _ | apply Same.ite | apply refsUpdate_same | apply State.setAlc_same)
    | split
theorem formAction_keeps {z s : State} (kz : Keeps z s) (h : Nat) :
    Keeps z (formAction h s).2 :=
  (formAction_same (.refl _) _).keeps.after kz

theorem jSync_same {z s : State} (kz : Same z s) (h line bits : Nat) :
    Same z (jSync h line bits s) := by
  unfold jSync
  repeat' first
    | lift_lets -underBinder
    | (with_reducible first | assumption | exact Same.refl _ | apply Same.ite | apply State.j_same)
theorem jSync_keeps {z s : State} (kz : Keeps z s) (h line bits : Nat) :
    Keeps z (jSync h line bits s) :=
  (jSync_same (.refl _) _ _ _).keeps.after kz

theorem syncDrive_same {z s : State} (kz : Same z s) (h line : Nat) :
    Same z (syncDrive h line s) := by
  unfold syncDrive
  repeat' first
    | lift_lets -underBinder
    | (intro x; clear_value x)
    | (with_reducible first
        | assumption | exact Same.refl _ | apply Same.ite | apply State.set1_same | apply State.modHl_same
        | (apply State.when_same; intro z; rotate_left; rotate_right))
theorem syncDrive_keeps {z s : State} (kz : Keeps z s) (h line : Nat) :
    Keeps z (syncDrive h line s) :=
  (syncDrive_same (.refl _) _ _).keeps.after kz

theorem commit_same {z s : State} (kz : Same z s) (h : Nat) :
    Same z (commit h s) := by
  unfold commit
  repeat' first
    | lift_lets -underBinder
    | (intro x; refine Same.cut (s := z) (t := x) ?_ ?_; unfold x; clear x; rotate_left; intro _; clear_value x; rotate_right)
    | (intro x; clear_value x)
    | (with_reducible first
        | assumption | exact Same.refl _ | apply Same.ite | apply State.modHl_same
        | (apply State.over_same; intro _ z; rotate_left; rotate_right) | apply State.modAlc_same
        | (apply State.when_same; intro z; rotate_left; rotate_right) | apply State.set1_same)
theorem commit_keeps {z s : State} (kz : Keeps z s) (h : Nat) :
    Keeps z (commit h s) :=
  (commit_same (.refl _) _).keeps.after kz

theorem runOn_same {z s : State} (kz : Same z s) (h cycles : Nat) (go : Nat → Option Nat) :
    Same z (runOn h cycles go s) := by
  unfold runOn
  repeat' first
    | lift_lets -underBinder
    | (intro x; refine Same.cut (s := z) (t := x) ?_ ?_; unfold x; clear x; rotate_left; intro _; clear_value x; rotate_right)
    | (with_reducible first
        | assumption | exact Same.refl _ | apply Same.ite | apply State.modEng_same | apply settle_same
        | apply State.p_same)
theorem runOn_keeps {z s : State} (kz : Keeps z s) (h cycles : Nat) (go : Nat → Option Nat) :
    Keeps z (runOn h cycles go s) :=
  (runOn_same (.refl _) _ _ _).keeps.after kz

theorem sendAction_same {z s : State} (kz : Same z s) (h : Nat) (act : Action) :
    Same z (sendAction h act s) := by
  unfold sendAction
  repeat' first
    | lift_lets -underBinder
    | (intro x; refine Same.cut (s := z) (t := x) ?_ ?_; unfold x; clear x; rotate_left; intro _; clear_value x; rotate_right)
    | (intro (x : _ → State); unfold x; clear x)
    | (with_reducible first
        | assumption | exact Same.refl _ | apply Same.ite | apply State.modEng_same | apply State.p_same
        | apply syncDrive_same | apply jSync_same | apply State.set1_same | apply runOn_same)
    | (with_reducible apply Same.base; with_reducible first
        | assumption | exact Same.refl _ | apply Same.ite | apply State.modEng_same | apply State.p_same
        | apply syncDrive_same | apply jSync_same | apply State.set1_same | apply runOn_same)
    | split
theorem sendAction_keeps {z s : State} (kz : Keeps z s) (h : Nat) (act : Action) :
    Keeps z (sendAction h act s) :=
  (sendAction_same (.refl _) _ _).keeps.after kz

theorem startFlight_same {z s : State} (kz : Same z s) (h f : Nat) :
    Same z (startFlight h f s) := by
  unfold startFlight
  repeat' first
    | lift_lets -underBinder
    | (intro x; refine Same.cut (s := z) (t := x) ?_ ?_; unfold x; clear x; rotate_left; intro _; clear_value x; rotate_right)
    | (intro x; clear_value x)
    | (with_reducible first
        | assumption | exact Same.refl _ | apply Same.ite
        | (apply State.when_same; intro z; rotate_left; rotate_right) | apply State.jAxis_same
        | (apply State.over_same; intro _ z; rotate_left; rotate_right) | apply State.modAlc_same
        | apply refsUpdate_same | apply State.modHl_same | apply State.set1_same | apply State.p_same
        | apply State.emit_same | apply ledger_same | apply jSched_same | apply tsKeep_same | apply waitStat_same
        | apply headFetch_same)
    | (with_reducible apply Same.base; with_reducible first
        | assumption | exact Same.refl _ | apply Same.ite | apply State.jAxis_same | apply State.modAlc_same
        | apply refsUpdate_same | apply State.modHl_same | apply State.set1_same | apply State.p_same
        | apply State.emit_same | apply ledger_same | apply jSched_same | apply tsKeep_same | apply waitStat_same
        | apply headFetch_same)
    | split
theorem startFlight_keeps {z s : State} (kz : Keeps z s) (h f : Nat) :
    Keeps z (startFlight h f s) :=
  (startFlight_same (.refl _) _ _).keeps.after kz

theorem tryStart_same {z s : State} (kz : Same z s) (h : Nat) :
    Same z (tryStart h s) := by
  unfold tryStart
  repeat' first
    | lift_lets -underBinder
    | (intro x; clear_value x)
    | (with_reducible first
        | assumption | exact Same.refl _ | apply Same.ite | apply sliceDelay_same | apply holdBegin_same
        | apply startFlight_same)
    | (with_reducible apply Same.base; with_reducible first
        | assumption | exact Same.refl _ | apply Same.ite | apply sliceDelay_same | apply holdBegin_same
        | apply startFlight_same)
    | split
theorem tryStart_keeps {z s : State} (kz : Keeps z s) (h : Nat) :
    Keeps z (tryStart h s) :=
  (tryStart_same (.refl _) _).keeps.after kz

theorem rplSend_same {z s : State} (kz : Same z s) (h i n : Nat) :
    Same z (rplSend h i n s) := by
  unfold rplSend
  repeat' first
    | lift_lets -underBinder
    | (intro x; clear_value x)
    | (with_reducible first
        | assumption | exact Same.refl _ | apply Same.ite
        | (apply State.when_same; intro z; rotate_left; rotate_right) | apply sendRequest_same)
    | (with_reducible apply Same.base; with_reducible first
        | assumption | (apply State.when_same; intro z; rotate_left; rotate_right))
theorem rplSend_keeps {z s : State} (kz : Keeps z s) (h i n : Nat) :
    Keeps z (rplSend h i n s) :=
  (rplSend_same (.refl _) _ _ _).keeps.after kz

theorem rplMeas_same {z s : State} (kz : Same z s) (r : MeasReq) :
    Same z (rplMeas r s) := by
  unfold rplMeas
  repeat' first
    | lift_lets -underBinder
    | (with_reducible first
        | assumption | exact Same.refl _ | apply Same.ite
        | (apply State.when_same; intro z; rotate_left; rotate_right) | apply State.modGrp_same)
    | (with_reducible apply Same.base; with_reducible first
        | assumption | (apply State.when_same; intro z; rotate_left; rotate_right))
theorem rplMeas_keeps {z s : State} (kz : Keeps z s) (r : MeasReq) :
    Keeps z (rplMeas r s) :=
  (rplMeas_same (.refl _) _).keeps.after kz

theorem rplTdc_same {z s : State} (kz : Same z s) (h m : Nat) :
    Same z (rplTdc h m s) := by
  unfold rplTdc
  repeat' first
    | lift_lets -underBinder
    | (with_reducible first
        | assumption | exact Same.refl _ | apply Same.ite | apply tdcqClear_same | apply State.p_same)
theorem rplTdc_keeps {z s : State} (kz : Keeps z s) (h m : Nat) :
    Keeps z (rplTdc h m s) :=
  (rplTdc_same (.refl _) _ _).keeps.after kz

theorem stagedAct_same {z s : State} (kz : Same z s) (h : Nat) (e : Staged) :
    Same z (stagedAct h e s) := by
  unfold stagedAct
  repeat' first
    | lift_lets -underBinder
    | (intro x; clear_value x)
    | (with_reducible first
        | assumption | exact Same.refl _ | apply Same.ite | apply State.p_same | apply State.send_same
        | apply rplSend_same | apply sendRequest_same | apply State.modAlc_same | apply rplTdc_same
        | apply tdcStart_same | apply rplMeas_same | apply State.modGrp_same | apply State.emit_same)
    | (with_reducible apply Same.base; with_reducible first
        | assumption | exact Same.refl _ | apply Same.ite | apply State.p_same | apply State.send_same
        | apply rplSend_same | apply sendRequest_same | apply State.modAlc_same | apply rplTdc_same
        | apply tdcStart_same | apply rplMeas_same | apply State.modGrp_same | apply State.emit_same)
    | split
theorem stagedAct_keeps {z s : State} (kz : Keeps z s) (h : Nat) (e : Staged) :
    Keeps z (stagedAct h e s) :=
  (stagedAct_same (.refl _) _ _).keeps.after kz

theorem landAxis_same {z s : State} (kz : Same z s) (h : Nat) :
    Same z (landAxis h s) := by
  unfold landAxis
  repeat' first
    | lift_lets -underBinder
    | (with_reducible first
        | assumption | exact Same.refl _ | apply Same.ite | apply axisLanding_same | apply State.modHl_same)
theorem landAxis_keeps {z s : State} (kz : Keeps z s) (h : Nat) :
    Keeps z (landAxis h s) :=
  (landAxis_same (.refl _) _).keeps.after kz

theorem landCurrent_same {z s : State} (kz : Same z s) (h : Nat) (es : List Staged) :
    Same z (landCurrent h es s) := by
  unfold landCurrent
  repeat' first
    | lift_lets -underBinder
    | (intro x; refine Same.cut (s := z) (t := x) ?_ ?_; unfold x; clear x; rotate_left; intro _; clear_value x; rotate_right)
    | (intro x; clear_value x)
    | (with_reducible first
        | assumption | exact Same.refl _ | apply Same.ite | apply slotLanding_same | apply landAxis_same
        | apply levelsApply_same)
    | (with_reducible apply Same.base; with_reducible first
        | assumption | exact Same.refl _ | apply Same.ite | apply slotLanding_same | apply landAxis_same
        | apply levelsApply_same)
    | split
theorem landCurrent_keeps {z s : State} (kz : Keeps z s) (h : Nat) (es : List Staged) :
    Keeps z (landCurrent h es s) :=
  (landCurrent_same (.refl _) _ _).keeps.after kz

theorem lateMark_same {z s : State} (kz : Same z s) (h : Nat) :
    Same z (lateMark h s) := by
  unfold lateMark
  repeat' first
    | lift_lets -underBinder
    | (with_reducible first
        | assumption | exact Same.refl _ | apply Same.ite | apply State.set1_same | apply State.count_same
        | apply State.modEng_same)
theorem lateMark_keeps {z s : State} (kz : Keeps z s) (h : Nat) :
    Keeps z (lateMark h s) :=
  (lateMark_same (.refl _) _).keeps.after kz

theorem landCount_same {z s : State} (kz : Same z s) (h : Nat) :
    Same z (landCount h s) := by
  unfold landCount
  repeat' first
    | lift_lets -underBinder
    | (intro x; refine Same.cut (s := z) (t := x) ?_ ?_; unfold x; clear x; rotate_left; intro _; clear_value x; rotate_right)
    | (intro x; clear_value x)
    | (with_reducible first
        | assumption | exact Same.refl _ | apply Same.ite | apply State.modEng_same
        | (apply State.when_same; intro z; rotate_left; rotate_right) | apply lateMark_same | apply State.p_same
        | apply State.modHl_same | apply jumpDone_same)
theorem landCount_keeps {z s : State} (kz : Keeps z s) (h : Nat) :
    Keeps z (landCount h s) :=
  (landCount_same (.refl _) _).keeps.after kz

theorem swapBegin_keeps {z s : State} (kz : Keeps z s) (h b : Nat) :
    Keeps z (swapBegin h b s) := by
  unfold swapBegin
  repeat' first
    | lift_lets -underBinder
    | (intro x; refine Keeps.cut (s := z) (t := x) ?_ ?_; unfold x; clear x; rotate_left; intro _; clear_value x; rotate_right)
    | (intro x; clear_value x)
    | (with_reducible first
        | assumption | exact Keeps.refl _ | apply Keeps.ite | apply leaveBank_keeps | apply siteSel_keeps
        | apply State.modHl_keeps | apply tread_keeps | apply State.set1_keeps | apply State.count_keeps
        | apply State.p_keeps | apply State.clr_keeps | (apply State.over_keeps; intro _ z; rotate_left; rotate_right)
        | apply setAlcSt_keeps | apply State.pb_keeps | apply State.modAlc_keeps | apply landCount_keeps
        | apply levelsApply_keeps | apply refsUpdate_keeps | apply blankHall_keeps | apply State.modBank_keeps
        | apply sendAction_keeps | apply State.modEng_keeps | apply takeSnap_keeps | apply headFetch_keeps
        | apply jumpDone_keeps | apply startSegments_keeps | apply State.modHold_keeps)
    | (with_reducible apply Keeps.base; with_reducible first
        | assumption | exact Keeps.refl _ | apply Keeps.ite | apply leaveBank_keeps | apply siteSel_keeps
        | apply State.modHl_keeps | apply tread_keeps | apply State.set1_keeps | apply State.count_keeps
        | apply State.p_keeps | apply State.clr_keeps | apply setAlcSt_keeps | apply State.pb_keeps
        | apply State.modAlc_keeps | apply landCount_keeps | apply levelsApply_keeps | apply refsUpdate_keeps
        | apply blankHall_keeps | apply State.modBank_keeps | apply sendAction_keeps | apply State.modEng_keeps
        | apply takeSnap_keeps | apply headFetch_keeps | apply jumpDone_keeps | apply startSegments_keeps
        | apply State.modHold_keeps)
    | split

theorem idleDecide_keeps {z s : State} (kz : Keeps z s) (h : Nat) :
    Keeps z (idleDecide h s) := by
  unfold idleDecide
  repeat' first
    | lift_lets -underBinder
    | (with_reducible first
        | assumption | exact Keeps.refl _ | apply Keeps.ite | apply sliceDelay_keeps | apply schedDecide_keeps
        | apply swapBegin_keeps | refine Keeps.pair2 (by assumption) ?_)
    | (with_reducible apply Keeps.base; with_reducible first
        | assumption | exact Keeps.refl _ | apply Keeps.ite | apply sliceDelay_keeps | apply schedDecide_keeps
        | apply swapBegin_keeps | refine Keeps.pair2 (by assumption) ?_)
    | split

theorem idleAll_keeps {z s : State} (kz : Keeps z s) :
    Keeps z (idleAll s) := by
  unfold idleAll
  repeat' first
    | lift_lets -underBinder
    | (with_reducible first
        | assumption | exact Keeps.refl _ | apply Keeps.ite
        | (apply State.each_keeps; intro _ z; rotate_left; rotate_right) | apply idleDecide_keeps)

theorem withClaims_keeps {f : State → State} {z s : State} (hf : ∀ t, Keeps t (f t)) (kz : Keeps z s) :
    Keeps z (withClaims f s) := by
  unfold withClaims
  repeat' first
    | lift_lets -underBinder
    | (intro x; refine Keeps.cut (s := z) (t := x) ?_ ?_; unfold x; clear x; rotate_left; intro _; clear_value x; rotate_right)
    | (with_reducible first
        | assumption | exact Keeps.refl _ | apply Keeps.ite | refine Keeps.after (hf ..) ?_ | apply idleAll_keeps)

theorem swapPoint_keeps {z s : State} (kz : Keeps z s) (h b : Nat) (again : Bool) :
    Keeps z (swapPoint h b again s) := by
  unfold swapPoint
  repeat' first
    | lift_lets -underBinder
    | (intro x; refine Keeps.cut (s := z) (t := x) ?_ ?_; unfold x; clear x; rotate_left; intro _; clear_value x; rotate_right)
    | (intro x; clear_value x)
    | (with_reducible first
        | assumption | exact Keeps.refl _ | apply Keeps.ite | apply setYield_keeps | apply holdBegin_keeps
        | apply schedDecide_keeps | apply State.modHold_keeps | apply runOn_keeps
        | (apply State.when_keeps; intro z; rotate_left; rotate_right) | apply sliceDelay_keeps
        | apply State.modHl_keeps | apply swapBegin_keeps | apply goIdle_keeps | apply leaveBank_keeps
        | refine Keeps.pair2 (by assumption) ?_)
    | (with_reducible apply Keeps.base; with_reducible first
        | assumption | exact Keeps.refl _ | apply Keeps.ite | apply setYield_keeps | apply holdBegin_keeps
        | apply schedDecide_keeps | apply State.modHold_keeps | apply runOn_keeps | apply sliceDelay_keeps
        | apply State.modHl_keeps | apply swapBegin_keeps | apply goIdle_keeps | apply leaveBank_keeps
        | refine Keeps.pair2 (by assumption) ?_)
    | split

theorem parkBank_keeps {z s : State} (kz : Keeps z s) (h b : Nat) (es : List Staged) :
    Keeps z (parkBank h b es s) := by
  unfold parkBank
  repeat' first
    | lift_lets -underBinder
    | (intro x; refine Keeps.cut (s := z) (t := x) ?_ ?_; unfold x; clear x; rotate_left; intro _; clear_value x; rotate_right)
    | (with_reducible first
        | assumption | exact Keeps.refl _ | apply Keeps.ite | apply formAction_keeps | apply goIdle_keeps
        | apply leaveBank_keeps | apply setYield_keeps | apply State.modBank_keeps
        | (apply State.over_keeps; intro _ z; rotate_left; rotate_right) | apply State.set1_keeps
        | apply abortSends_keeps)

theorem holdTread_same {z s : State} (kz : Same z s) (h : Nat) :
    Same z (holdTread h s) := by
  unfold holdTread
  repeat' first
    | lift_lets -underBinder
    | (intro x; refine Same.cut (s := z) (t := x) ?_ ?_; unfold x; clear x; rotate_left; intro _; clear_value x; rotate_right)
    | (intro x; clear_value x)
    | (with_reducible first
        | assumption | exact Same.refl _ | apply Same.ite
        | (apply State.when_same; intro z; rotate_left; rotate_right) | apply State.count_same
        | apply State.modHold_same | apply State.p_same)
theorem holdTread_keeps {z s : State} (kz : Keeps z s) (h : Nat) :
    Keeps z (holdTread h s) :=
  (holdTread_same (.refl _) _).keeps.after kz

theorem holdFirst_same {z s : State} (kz : Same z s) (h : Nat) :
    Same z (holdFirst h s) := by
  unfold holdFirst
  repeat' first
    | lift_lets -underBinder
    | (with_reducible first
        | assumption | exact Same.refl _ | apply Same.ite
        | (apply State.when_same; intro z; rotate_left; rotate_right) | apply holdTread_same)
theorem holdFirst_keeps {z s : State} (kz : Keeps z s) (h : Nat) :
    Keeps z (holdFirst h s) :=
  (holdFirst_same (.refl _) _).keeps.after kz

theorem stallBegin_same {z s : State} (kz : Same z s) (h f : Nat) :
    Same z (stallBegin h f s) := by
  unfold stallBegin
  repeat' first
    | lift_lets -underBinder
    | (intro x; refine Same.cut (s := z) (t := x) ?_ ?_; unfold x; clear x; rotate_left; intro _; clear_value x; rotate_right)
    | (intro x; clear_value x)
    | (with_reducible first
        | assumption | exact Same.refl _ | apply Same.ite | apply State.set1_same | apply State.p_same
        | apply holdFirst_same | apply State.jput_same)
theorem stallBegin_keeps {z s : State} (kz : Keeps z s) (h f : Nat) :
    Keeps z (stallBegin h f s) :=
  (stallBegin_same (.refl _) _ _).keeps.after kz

theorem landAct_keeps {z s : State} (kz : Keeps z s) (h : Nat) :
    Keeps z (landAct h s) := by
  unfold landAct
  repeat' first
    | lift_lets -underBinder
    | (intro x; refine Keeps.cut (s := z) (t := x) ?_ ?_; unfold x; clear x; rotate_left; intro _; clear_value x; rotate_right)
    | (intro x; clear_value x)
    | (with_reducible first
        | assumption | exact Keeps.refl _ | apply Keeps.ite | apply jumpDone_keeps
        | (apply State.when_keeps; intro z; rotate_left; rotate_right) | apply lateMark_keeps
        | apply State.modHl_keeps | apply stopAct_keeps | apply landAxis_keeps | apply State.modEng_keeps
        | (apply State.over_keeps; intro _ z; rotate_left; rotate_right) | apply stagedAct_keeps
        | apply finishAlc_keeps | apply stopCheck_keeps | apply parkBank_keeps | apply landCurrent_keeps
        | apply State.pb_keeps | apply State.modHold_keeps | apply State.set1_keeps | apply stallEnd_keeps
        | apply stallBegin_keeps | apply State.count_keeps | apply State.jAxis_keeps | apply tryStart_keeps
        | apply waitStat_keeps | apply holdBegin_keeps | apply swapPoint_keeps)
    | (with_reducible apply Keeps.base; with_reducible first
        | assumption | exact Keeps.refl _ | apply Keeps.ite | apply jumpDone_keeps | apply lateMark_keeps
        | apply State.modHl_keeps | apply stopAct_keeps | apply landAxis_keeps | apply State.modEng_keeps
        | apply stagedAct_keeps | apply finishAlc_keeps | apply stopCheck_keeps | apply parkBank_keeps
        | apply landCurrent_keeps | apply State.pb_keeps | apply State.modHold_keeps | apply State.set1_keeps
        | apply stallEnd_keeps | apply stallBegin_keeps | apply State.count_keeps | apply State.jAxis_keeps
        | apply tryStart_keeps | apply waitStat_keeps | apply holdBegin_keeps | apply swapPoint_keeps)
    | split

theorem dispatch_same {z s : State} (kz : Same z s) (h : Nat) :
    Same z (dispatch h s) := by
  unfold dispatch
  repeat' first
    | lift_lets -underBinder
    | (intro x; refine Same.cut (s := z) (t := x) ?_ ?_; unfold x; clear x; rotate_left; intro _; clear_value x; rotate_right)
    | (with_reducible first
        | assumption | exact Same.refl _ | apply Same.ite | apply commit_same | apply noticeFaults_same
        | apply State.modEng_same | apply formAction_same | apply sendAction_same)
theorem dispatch_keeps {z s : State} (kz : Keeps z s) (h : Nat) :
    Keeps z (dispatch h s) :=
  (dispatch_same (.refl _) _).keeps.after kz

theorem execDispatch_keeps {z : State} (h : Nat) : RunsKeeps z (execDispatch h z) := by
  refine ⟨_, rfl, ?_⟩
  repeat' first
    | lift_lets -underBinder
    | (intro x; refine Keeps.cut (s := z) (t := x) ?_ ?_; unfold x; clear x; rotate_left; intro _; clear_value x; rotate_right)
    | (intro x; clear_value x)
    | (with_reducible first
        | assumption | exact Keeps.refl _ | apply Keeps.ite | apply dispatch_keeps | apply holdBegin_keeps
        | apply State.modHold_keeps | apply State.set1_keeps
        | (apply withClaims_keeps; intro z; rotate_left; rotate_right) | apply landAct_keeps)

theorem flightEnd_same {z s : State} (kz : Same z s) (h : Nat) :
    Same z (flightEnd h s) := by
  unfold flightEnd
  repeat' first
    | lift_lets -underBinder
    | (intro x; refine Same.cut (s := z) (t := x) ?_ ?_; unfold x; clear x; rotate_left; intro _; clear_value x; rotate_right)
    | (intro x; clear_value x)
    | (with_reducible first
        | assumption | exact Same.refl _ | apply Same.ite | apply entriesTo_same | apply lanesPass_same
        | apply State.modHl_same | apply State.clr_same)
theorem flightEnd_keeps {z s : State} (kz : Keeps z s) (h : Nat) :
    Keeps z (flightEnd h s) :=
  (flightEnd_same (.refl _) _).keeps.after kz

theorem landing_keeps {z s : State} (kz : Keeps z s) (h : Nat) :
    Keeps z (landing h s) := by
  unfold landing
  repeat' first
    | lift_lets -underBinder
    | (intro x; refine Keeps.cut (s := z) (t := x) ?_ ?_; unfold x; clear x; rotate_left; intro _; clear_value x; rotate_right)
    | (intro x; clear_value x)
    | (with_reducible first
        | assumption | exact Keeps.refl _ | apply Keeps.ite | apply flightEnd_keeps | apply State.modHl_keeps
        | apply tread_keeps | apply landCount_keeps | (apply State.when_keeps; intro z; rotate_left; rotate_right)
        | apply State.set1_keeps | apply holdBegin_keeps | apply holdFirst_keeps | apply State.modHold_keeps
        | apply landAct_keeps)

theorem execLanding_same {z : State} (h : Nat) : RunsSame z (execLanding h z) := by
  refine ⟨_, rfl, ?_⟩
  repeat' first
    | lift_lets -underBinder
    | (with_reducible first | assumption | exact Same.refl _ | apply Same.ite | apply State.modHl_same)

theorem landingsDue_keeps {z s : State} (kz : Keeps z s) :
    Keeps z (landingsDue s) := by
  unfold landingsDue
  repeat' first
    | lift_lets -underBinder
    | (with_reducible first
        | assumption | exact Keeps.refl _ | apply Keeps.ite
        | (apply State.each_keeps; intro _ z; rotate_left; rotate_right)
        | (apply withClaims_keeps; intro z; rotate_left; rotate_right) | apply landing_keeps)

theorem decisionArrival_keeps {z s : State} (kz : Keeps z s) (h : Nat) :
    Keeps z (decisionArrival h s) := by
  unfold decisionArrival
  repeat' first
    | lift_lets -underBinder
    | (intro x; refine Keeps.cut (s := z) (t := x) ?_ ?_; unfold x; clear x; rotate_left; intro _; clear_value x; rotate_right)
    | (intro x; clear_value x)
    | (with_reducible first
        | assumption | exact Keeps.refl _ | apply Keeps.ite
        | (apply State.when_keeps; intro z; rotate_left; rotate_right) | apply State.jput_keeps
        | apply State.modHold_keeps | apply landAct_keeps)

theorem execDecisionArrival_keeps {z : State} (h : Nat) : RunsKeeps z (execDecisionArrival h z) := by
  refine ⟨_, rfl, ?_⟩
  repeat' first
    | lift_lets -underBinder
    | (intro x; clear_value x)
    | (with_reducible first
        | assumption | exact Keeps.refl _ | apply Keeps.ite
        | (apply withClaims_keeps; intro z; rotate_left; rotate_right) | apply decisionArrival_keeps)

theorem execHeadFillDone_same {z : State} (h : Nat) : RunsSame z (execHeadFillDone h z) := by
  refine ⟨_, rfl, ?_⟩
  repeat' first
    | lift_lets -underBinder
    | (with_reducible first
        | assumption | exact Same.refl _ | apply Same.ite | apply tryStart_same | apply State.modHold_same)

theorem stallEnd_same {z s : State} (kz : Same z s) (h : Nat) :
    Same z (stallEnd h s) := by
  unfold stallEnd
  repeat' first
    | lift_lets -underBinder
    | (with_reducible first
        | assumption | exact Same.refl _ | apply Same.ite | apply tryStart_same | apply State.modHold_same
        | apply State.clr_same)
theorem stallEnd_keeps {z s : State} (kz : Keeps z s) (h : Nat) :
    Keeps z (stallEnd h s) :=
  (stallEnd_same (.refl _) _).keeps.after kz

theorem execStallEnd_same {z : State} (h : Nat) : RunsSame z (execStallEnd h z) := by
  refine ⟨_, rfl, ?_⟩
  repeat' first
    | lift_lets -underBinder
    | (with_reducible first | assumption | exact Same.refl _ | apply Same.ite | apply stallEnd_same)
    | (with_reducible apply Same.base; with_reducible first
        | assumption | exact Same.refl _ | apply Same.ite | apply stallEnd_same)
    | split

theorem reform_keeps {z s : State} (kz : Keeps z s) (h : Nat) :
    Keeps z (reform h s) := by
  unfold reform
  repeat' first
    | lift_lets -underBinder
    | (with_reducible first
        | assumption | exact Keeps.refl _ | apply Keeps.ite | apply formAction_keeps | apply State.modEng_keeps
        | apply landAct_keeps | apply State.modHl_keeps)

theorem stallLimit_keeps {z s : State} (kz : Keeps z s) (h f : Nat) :
    Keeps z (stallLimit h f s) := by
  unfold stallLimit
  repeat' first
    | lift_lets -underBinder
    | (intro x; refine Keeps.cut (s := z) (t := x) ?_ ?_; unfold x; clear x; rotate_left; intro _; clear_value x; rotate_right)
    | (intro x; clear_value x)
    | (with_reducible first
        | assumption | exact Keeps.refl _ | apply Keeps.ite | apply State.jAxis_keeps | apply State.set1_keeps
        | apply State.clr_keeps | apply State.modHold_keeps | apply stallEnd_keeps
        | (apply State.over_keeps; intro _ z; rotate_left; rotate_right) | apply finishAlc_keeps | apply reform_keeps
        | apply State.raise_keeps)

theorem execStallLimit_keeps {z : State} (h : Nat) : RunsKeeps z (execStallLimit h z) := by
  refine ⟨_, rfl, ?_⟩
  repeat' first
    | lift_lets -underBinder
    | (intro x; clear_value x)
    | (with_reducible first
        | assumption | exact Keeps.refl _ | apply Keeps.ite
        | (apply withClaims_keeps; intro z; rotate_left; rotate_right) | apply stallLimit_keeps)
    | (with_reducible apply Keeps.base; with_reducible first
        | assumption | exact Keeps.refl _ | apply Keeps.ite | apply stallLimit_keeps)
    | split

theorem execStretchEnd_same {z : State} (h : Nat) : RunsSame z (execStretchEnd h z) := by
  refine ⟨_, rfl, ?_⟩
  repeat' first
    | lift_lets -underBinder
    | (with_reducible first
        | assumption | exact Same.refl _ | apply Same.ite | apply tryStart_same | apply State.modHold_same
        | apply State.clr_same)
    | (with_reducible apply Same.base; with_reducible first
        | assumption | exact Same.refl _ | apply Same.ite | apply tryStart_same | apply State.modHold_same
        | apply State.clr_same)
    | split

theorem execWaitRelease_same {z : State} (h : Nat) : RunsSame z (execWaitRelease h z) := by
  refine ⟨_, rfl, ?_⟩
  repeat' first
    | lift_lets -underBinder
    | (with_reducible first
        | assumption | exact Same.refl _ | apply Same.ite | apply tryStart_same | apply waitStat_same
        | apply State.modHold_same)
    | (with_reducible apply Same.base; with_reducible first
        | assumption | exact Same.refl _ | apply Same.ite | apply tryStart_same | apply waitStat_same
        | apply State.modHold_same)
    | split

theorem brwLeave_same {z s : State} (kz : Same z s) (h : Nat) (go : List (Nat × Nat)) :
    Same z (brwLeave h go s) := by
  unfold brwLeave
  repeat' first
    | lift_lets -underBinder
    | (intro x; refine Same.cut (s := z) (t := x) ?_ ?_; unfold x; clear x; rotate_left; intro _; clear_value x; rotate_right)
    | (intro x; clear_value x)
    | (with_reducible first
        | assumption | exact Same.refl _ | apply Same.ite | apply State.modHl_same | apply runOn_same
        | apply waitStat_same | apply holdFirst_same | apply State.set1_same)
theorem brwLeave_keeps {z s : State} (kz : Keeps z s) (h : Nat) (go : List (Nat × Nat)) :
    Keeps z (brwLeave h go s) :=
  (brwLeave_same (.refl _) _ _).keeps.after kz

theorem brwResample_same {z s : State} (kz : Same z s) (h : Nat) :
    Same z (brwResample h s) := by
  unfold brwResample
  repeat' first
    | lift_lets -underBinder
    | (intro x; refine Same.cut (s := z) (t := x) ?_ ?_; unfold x; clear x; rotate_left; intro _; clear_value x; rotate_right)
    | (intro x; clear_value x)
    | (with_reducible first
        | assumption | exact Same.refl _ | apply Same.ite | apply snapRecord_same | apply State.modHold_same
        | (apply State.over_same; intro _ z; rotate_left; rotate_right) | apply State.modAlc_same
        | apply State.modEng_same | apply brwLeave_same)
theorem brwResample_keeps {z s : State} (kz : Keeps z s) (h : Nat) :
    Keeps z (brwResample h s) :=
  (brwResample_same (.refl _) _).keeps.after kz

theorem execBrwResample_same {z : State} (h : Nat) : RunsSame z (execBrwResample h z) := by
  refine ⟨_, rfl, ?_⟩
  repeat' first
    | lift_lets -underBinder
    | (intro x; clear_value x)
    | (with_reducible first
        | assumption | exact Same.refl _ | apply Same.ite | apply rplTaken_same | apply brwResample_same)

theorem execBrwTimeout_same {z : State} (h : Nat) : RunsSame z (execBrwTimeout h z) := by
  refine ⟨_, rfl, ?_⟩
  repeat' first
    | lift_lets -underBinder
    | (with_reducible first | assumption | exact Same.refl _ | apply Same.ite | apply brwLeave_same)

theorem syncSample_same {z s : State} (kz : Same z s) (h line : Nat) (high : Bool) :
    Same z (syncSample h line high s) := by
  unfold syncSample
  repeat' first
    | lift_lets -underBinder
    | (intro x; refine Same.cut (s := z) (t := x) ?_ ?_; unfold x; clear x; rotate_left; intro _; clear_value x; rotate_right)
    | (with_reducible first
        | assumption | exact Same.refl _ | apply Same.ite | apply jSync_same | apply State.modHl_same
        | apply runOn_same)
theorem syncSample_keeps {z s : State} (kz : Keeps z s) (h line : Nat) (high : Bool) :
    Keeps z (syncSample h line high s) :=
  (syncSample_same (.refl _) _ _ _).keeps.after kz

theorem execSyncSample_same {z : State} (h : Nat) (high : Bool) : RunsSame z (execSyncSample h high z) := by
  refine ⟨_, rfl, ?_⟩
  repeat' first
    | lift_lets -underBinder
    | (intro x; clear_value x)
    | (with_reducible first | assumption | exact Same.refl _ | apply Same.ite | apply syncSample_same)
    | (with_reducible apply Same.base; with_reducible first
        | assumption | exact Same.refl _ | apply Same.ite | apply syncSample_same)
    | split

theorem execSyncRelease_same {z : State} (h : Nat) : RunsSame z (execSyncRelease h z) := by
  refine ⟨_, rfl, ?_⟩
  repeat' first
    | lift_lets -underBinder
    | (with_reducible first | assumption | exact Same.refl _ | apply Same.ite | apply State.modHl_same)

theorem syncResume_same {z s : State} (kz : Same z s) (h line : Nat) (high : Bool) :
    Same z (syncResume h line high s) := by
  unfold syncResume
  repeat' first
    | lift_lets -underBinder
    | (intro x; refine Same.cut (s := z) (t := x) ?_ ?_; unfold x; clear x; rotate_left; intro _; clear_value x; rotate_right)
    | (with_reducible first
        | assumption | exact Same.refl _ | apply Same.ite
        | (apply State.when_same; intro z; rotate_left; rotate_right) | apply jSync_same | apply State.set1_same
        | apply tryStart_same | apply waitStat_same | apply State.modHold_same)
theorem syncResume_keeps {z s : State} (kz : Keeps z s) (h line : Nat) (high : Bool) :
    Keeps z (syncResume h line high s) :=
  (syncResume_same (.refl _) _ _ _).keeps.after kz

theorem execSyncResume_same {z : State} (h : Nat) : RunsSame z (execSyncResume h z) := by
  refine ⟨_, rfl, ?_⟩
  repeat' first
    | lift_lets -underBinder
    | (intro x; clear_value x)
    | (with_reducible first | assumption | exact Same.refl _ | apply Same.ite | apply syncResume_same)
    | (with_reducible apply Same.base; with_reducible first
        | assumption | exact Same.refl _ | apply Same.ite | apply syncResume_same)
    | split

theorem jArrival_same {z s : State} (kz : Same z s) (h typ subj arg data : Nat) :
    Same z (jArrival h typ subj arg data s) := by
  unfold jArrival
  repeat' first
    | lift_lets -underBinder
    | (intro x; clear_value x)
    | (with_reducible first | assumption | exact Same.refl _ | apply Same.ite | apply State.jput_same)
    | (with_reducible apply Same.base; with_reducible assumption)
theorem jArrival_keeps {z s : State} (kz : Keeps z s) (h typ subj arg data : Nat) :
    Keeps z (jArrival h typ subj arg data s) :=
  (jArrival_same (.refl _) _ _ _ _ _).keeps.after kz

theorem jumpNow_same {z s : State} (kz : Same z s) (h target : Nat) :
    Same z (jumpNow h target s) := by
  unfold jumpNow
  repeat' first
    | lift_lets -underBinder
    | (intro x; refine Same.cut (s := z) (t := x) ?_ ?_; unfold x; clear x; rotate_left; intro _; clear_value x; rotate_right)
    | (intro x; clear_value x)
    | (with_reducible first
        | assumption | exact Same.refl _ | apply Same.ite
        | (apply State.over_same; intro _ z; rotate_left; rotate_right) | apply State.modAlc_same
        | apply State.modHl_same | apply waitStat_same | apply runOn_same | apply refsUpdate_same)
theorem jumpNow_keeps {z s : State} (kz : Keeps z s) (h target : Nat) :
    Keeps z (jumpNow h target s) :=
  (jumpNow_same (.refl _) _ _).keeps.after kz

theorem jmpArrive_same {z s : State} (kz : Same z s) (h target : Nat) :
    Same z (jmpArrive h target s) := by
  unfold jmpArrive
  repeat' first
    | lift_lets -underBinder
    | (intro x; refine Same.cut (s := z) (t := x) ?_ ?_; unfold x; clear x; rotate_left; intro _; clear_value x; rotate_right)
    | (intro x; clear_value x)
    | (with_reducible first
        | assumption | exact Same.refl _ | apply Same.ite | apply State.set1_same | apply jArrival_same
        | apply State.p_same | apply jumpNow_same | (apply State.when_same; intro z; rotate_left; rotate_right)
        | apply lateMark_same | apply State.modEng_same)
theorem jmpArrive_keeps {z s : State} (kz : Keeps z s) (h target : Nat) :
    Keeps z (jmpArrive h target s) :=
  (jmpArrive_same (.refl _) _ _).keeps.after kz

theorem jmpReqWrite_same {z s : State} (kz : Same z s) (h : Nat) (v : Word) :
    Same z (jmpReqWrite h v s) := by
  unfold jmpReqWrite
  repeat' first
    | lift_lets -underBinder
    | (intro x; clear_value x)
    | (with_reducible first
        | assumption | exact Same.refl _ | apply Same.ite | apply State.p_same | apply jmpArrive_same)
theorem jmpReqWrite_keeps {z s : State} (kz : Keeps z s) (h : Nat) (v : Word) :
    Keeps z (jmpReqWrite h v s) :=
  (jmpReqWrite_same (.refl _) _ _).keeps.after kz

theorem execJmpReq_same {z : State} (h target : Nat) : RunsSame z (execJmpReq h target z) := by
  refine ⟨_, rfl, ?_⟩
  repeat' first
    | lift_lets -underBinder
    | (with_reducible first
        | assumption | exact Same.refl _ | apply Same.ite
        | (apply State.host_same; intro z; rotate_left; rotate_right) | apply jmpReqWrite_same)

theorem stopArrive_keeps {z s : State} (kz : Keeps z s) (h did : Nat) :
    Keeps z (stopArrive h did s) := by
  unfold stopArrive
  repeat' first
    | lift_lets -underBinder
    | (intro x; refine Keeps.cut (s := z) (t := x) ?_ ?_; unfold x; clear x; rotate_left; intro _; clear_value x; rotate_right)
    | (intro x; clear_value x)
    | (with_reducible first
        | assumption | exact Keeps.refl _ | apply Keeps.ite | apply jArrival_keeps
        | (apply State.when_keeps; intro z; rotate_left; rotate_right) | apply lateMark_keeps
        | apply State.modEng_keeps | apply State.set1_keeps | apply stopAct_keeps)
    | (with_reducible apply Keeps.base; with_reducible first
        | assumption | exact Keeps.refl _ | (apply State.when_keeps; intro z; rotate_left; rotate_right))

theorem hevLatch_same {z s : State} (kz : Same z s) (h n chan : Nat) :
    Same z (hevLatch h n chan s) := by
  unfold hevLatch
  repeat' first
    | lift_lets -underBinder
    | (intro x; clear_value x)
    | (with_reducible first
        | assumption | exact Same.refl _ | apply Same.ite | apply jArrival_same | apply State.modEng_same)
theorem hevLatch_keeps {z s : State} (kz : Keeps z s) (h n chan : Nat) :
    Keeps z (hevLatch h n chan s) :=
  (hevLatch_same (.refl _) _ _ _).keeps.after kz

theorem hevSet_same {z s : State} (kz : Same z s) (h n chan : Nat) :
    Same z (hevSet h n chan s) := by
  unfold hevSet
  repeat' first
    | lift_lets -underBinder
    | (with_reducible first | assumption | exact Same.refl _ | apply Same.ite | apply hevLatch_same)
theorem hevSet_keeps {z s : State} (kz : Keeps z s) (h n chan : Nat) :
    Keeps z (hevSet h n chan s) :=
  (hevSet_same (.refl _) _ _ _).keeps.after kz

theorem flightPulseEnd_same {z s : State} (kz : Same z s) (h : Nat) :
    Same z (flightPulseEnd h s) := by
  unfold flightPulseEnd
  repeat' first
    | lift_lets -underBinder
    | (with_reducible first | assumption | exact Same.refl _ | apply Same.ite | apply State.modHl_same)
theorem flightPulseEnd_keeps {z s : State} (kz : Keeps z s) (h : Nat) :
    Keeps z (flightPulseEnd h s) :=
  (flightPulseEnd_same (.refl _) _).keeps.after kz

theorem execSwapSitesel_same {z : State} (h : Nat) : RunsSame z (execSwapSitesel h z) := by
  refine ⟨_, rfl, ?_⟩
  repeat' first
    | lift_lets -underBinder
    | (intro x; clear_value x)
    | (with_reducible first
        | assumption | exact Same.refl _ | apply Same.ite | apply siteSel_same | apply State.modHold_same)
    | (with_reducible apply Same.base; with_reducible first
        | assumption | exact Same.refl _ | apply Same.ite | apply siteSel_same | apply State.modHold_same)
    | split

theorem swapSettle_keeps {z s : State} (kz : Keeps z s) (h : Nat) :
    Keeps z (swapSettle h s) := by
  unfold swapSettle
  repeat' first
    | lift_lets -underBinder
    | (intro x; refine Keeps.cut (s := z) (t := x) ?_ ?_; unfold x; clear x; rotate_left; intro _; clear_value x; rotate_right)
    | (with_reducible first
        | assumption | exact Keeps.refl _ | apply Keeps.ite | apply blankHall_keeps | apply State.modHold_keeps
        | apply State.clr_keeps | apply landAct_keeps)

theorem execSwapSettleDone_keeps {z : State} (h : Nat) : RunsKeeps z (execSwapSettleDone h z) := by
  refine ⟨_, rfl, ?_⟩
  repeat' first
    | lift_lets -underBinder
    | (with_reducible first
        | assumption | exact Keeps.refl _ | apply Keeps.ite
        | (apply withClaims_keeps; intro z; rotate_left; rotate_right) | apply swapSettle_keeps)

theorem execSynArm_same {z : State} (h : Nat) (v : Word) : RunsSame z (execSynArm h v z) := by
  refine ⟨_, rfl, ?_⟩
  repeat' first
    | lift_lets -underBinder
    | (with_reducible first
        | assumption | exact Same.refl _ | apply Same.ite
        | (apply State.host_same; intro z; rotate_left; rotate_right) | apply synSchedWrite_same)

theorem execDeskewWrite_keeps {z : State} (h c : Nat) (v : Word) : RunsKeeps z (execDeskewWrite h c v z) := by
  refine ⟨_, rfl, ?_⟩
  repeat' first
    | lift_lets -underBinder
    | (with_reducible first
        | assumption | exact Keeps.refl _ | apply Keeps.ite
        | (apply State.host_keeps; intro z; rotate_left; rotate_right) | apply deskewWrite_keeps)

theorem tread_same {z s : State} (kz : Same z s) (h : Nat) :
    Same z (tread h s) := by
  unfold tread
  repeat' first
    | lift_lets -underBinder
    | (with_reducible first
        | assumption | exact Same.refl _ | apply Same.ite | apply holdTread_same | apply sampleTread_same
        | apply axisTread_same)
theorem tread_keeps {z s : State} (kz : Keeps z s) (h : Nat) :
    Keeps z (tread h s) :=
  (tread_same (.refl _) _).keeps.after kz

theorem execAxisWrap_same {z : State} (h : Nat) : RunsSame z (execAxisWrap h z) := by
  refine ⟨_, rfl, ?_⟩
  repeat' first
    | lift_lets -underBinder
    | (with_reducible first | assumption | exact Same.refl _ | apply Same.ite | apply tread_same)

end Sys2Proof.Machine
end

