-- ==== Sys2Proof/Laws/SameAlcoves.lean ====
section
/-! SUPPORT. What the operations of Machine.Alcoves keep: the part, the queue, the canonical tables, and where they store no bulk
memory all of it. -/
set_option linter.unreachableTactic false
set_option linter.unusedTactic false
namespace Sys2Proof.Machine

theorem loopRefSets_same {z s : State} (kz : Same z s) (h start count : Nat) :
    Same z (loopRefSets h start count s) := by
  unfold loopRefSets
  repeat' first
    | lift_lets -underBinder
    | (intro x; refine Same.cut (s := z) (t := x) ?_ ?_; unfold x; clear x; rotate_left; intro _; clear_value x; rotate_right)
    | (intro x; clear_value x)
    | (with_reducible first
        | assumption | exact Same.refl _ | apply Same.ite
        | (apply State.over_same; intro _ z; rotate_left; rotate_right) | apply State.modHl_same
        | (apply State.when_same; intro z; rotate_left; rotate_right) | apply State.set1_same)
theorem loopRefSets_keeps {z s : State} (kz : Keeps z s) (h start count : Nat) :
    Keeps z (loopRefSets h start count s) :=
  (loopRefSets_same (.refl _) _ _ _).keeps.after kz

theorem stairSeal_same {z s : State} (kz : Same z s) (h start count did : Nat) :
    Same z (stairSeal h start count did s) := by
  unfold stairSeal
  repeat' first
    | lift_lets -underBinder
    | (intro x; refine Same.cut (s := z) (t := x) ?_ ?_; unfold x; clear x; rotate_left; intro _; clear_value x; rotate_right)
    | (intro x; clear_value x)
    | (with_reducible first
        | assumption | exact Same.refl _ | apply Same.ite | apply loopRefSets_same | apply State.p_same
        | apply State.complete_same)
theorem stairSeal_keeps {z s : State} (kz : Keeps z s) (h start count did : Nat) :
    Keeps z (stairSeal h start count did s) :=
  (stairSeal_same (.refl _) _ _ _ _).keeps.after kz

theorem loadStair_same {z s : State} (kz : Same z s) (q : Nat) (r : DescRun) :
    Same z (loadStair q r s) := by
  unfold loadStair
  repeat' first
    | lift_lets -underBinder
    | (intro (x : _ → _ → _ → State); unfold x; clear x)
    | (intro x; clear_value x)
    | (with_reducible first
        | assumption | exact Same.refl _ | apply Same.ite | apply State.complete_same | apply State.lastErr_same
        | apply stairSeal_same | apply State.modHl_same | apply State.send_same)
    | (with_reducible apply Same.base; with_reducible first
        | assumption | exact Same.refl _ | apply Same.ite | apply State.complete_same | apply State.lastErr_same
        | apply stairSeal_same | apply State.modHl_same | apply State.send_same)
    | split
theorem loadStair_keeps {z s : State} (kz : Keeps z s) (q : Nat) (r : DescRun) :
    Keeps z (loadStair q r s) :=
  (loadStair_same (.refl _) _ _).keeps.after kz

theorem execLoadStair_same {z : State} (q : Nat) : RunsSame z (execLoadStair q z) := by
  refine ⟨_, rfl, ?_⟩
  repeat' first
    | lift_lets -underBinder
    | (with_reducible first
        | assumption | exact Same.refl _ | apply Same.ite
        | (apply State.withDesc_same; intro _ z; rotate_left; rotate_right) | apply loadStair_same)

theorem loadStairDone_keeps {z s : State} (kz : Keeps z s) (ok : Bool) (data : List Nat) (r : DescRun) :
    Keeps z (loadStairDone ok data r s) := by
  unfold loadStairDone
  repeat' first
    | lift_lets -underBinder
    | (intro x; refine Keeps.cut (s := z) (t := x) ?_ ?_; unfold x; clear x; rotate_left; intro _; clear_value x; rotate_right)
    | (intro x; clear_value x)
    | (with_reducible first
        | assumption | exact Keeps.refl _ | apply Keeps.ite | apply State.modHl_keeps | apply State.complete_keeps
        | apply stairSeal_keeps | apply State.wrBytes_keeps | apply settle_keeps)
    | (with_reducible apply Keeps.base; with_reducible first
        | assumption | exact Keeps.refl _ | apply Keeps.ite | apply State.modHl_keeps | apply State.complete_keeps
        | apply stairSeal_keeps | apply State.wrBytes_keeps | apply settle_keeps)
    | split

theorem execLoadStairDone_keeps {z : State} (q : Nat) (ok : Bool) (data : List Nat) : RunsKeeps z (execLoadStairDone q ok data z) := by
  refine ⟨_, rfl, ?_⟩
  repeat' first
    | lift_lets -underBinder
    | (with_reducible first
        | assumption | exact Keeps.refl _ | apply Keeps.ite
        | (apply State.withActed_keeps; intro _ z; rotate_left; rotate_right) | apply loadStairDone_keeps)

theorem alcoveChecks_same {f : Nat → Nat → State → State} {z s : State} (hf : ∀ a0 a1 t, Same t (f a0 a1 t)) (kz : Same z s) (q : Nat) (r : DescRun) (rsv : Bool) :
    Same z (alcoveChecks q r rsv f s) := by
  unfold alcoveChecks
  repeat' first
    | lift_lets -underBinder
    | (intro x; clear_value x)
    | (with_reducible first
        | assumption | exact Same.refl _ | apply Same.ite | refine Same.after (hf ..) ?_ | apply State.complete_same
        | apply State.lastErr_same)

theorem alcoveChecks_keeps {f : Nat → Nat → State → State} {z s : State} (hf : ∀ a0 a1 t, Keeps t (f a0 a1 t)) (kz : Keeps z s) (q : Nat) (r : DescRun) (rsv : Bool) :
    Keeps z (alcoveChecks q r rsv f s) := by
  unfold alcoveChecks
  repeat' first
    | lift_lets -underBinder
    | (intro x; clear_value x)
    | (with_reducible first
        | assumption | exact Keeps.refl _ | apply Keeps.ite | refine Keeps.after (hf ..) ?_
        | apply State.complete_keeps | apply State.lastErr_keeps)

theorem bindAlcove_same {z s : State} (kz : Same z s) (q : Nat) (r : DescRun) :
    Same z (bindAlcove q r s) := by
  unfold bindAlcove
  repeat' first
    | lift_lets -underBinder
    | (intro x; refine Same.cut (s := z) (t := x) ?_ ?_; unfold x; clear x; rotate_left; intro _; clear_value x; rotate_right)
    | (intro x; clear_value x)
    | (with_reducible first
        | assumption | exact Same.refl _ | apply Same.ite
        | (apply alcoveChecks_same; intro _ _ z; rotate_left; rotate_right) | apply State.complete_same
        | apply State.setAlc_same | apply State.wr_same | apply refsUpdate_same)
    | (with_reducible apply Same.base; with_reducible first
        | assumption | exact Same.refl _ | apply Same.ite | apply State.complete_same | apply State.setAlc_same
        | apply State.wr_same | apply refsUpdate_same)
    | split
theorem bindAlcove_keeps {z s : State} (kz : Keeps z s) (q : Nat) (r : DescRun) :
    Keeps z (bindAlcove q r s) :=
  (bindAlcove_same (.refl _) _ _).keeps.after kz

theorem execBindAlcove_same {z : State} (q : Nat) : RunsSame z (execBindAlcove q z) := by
  refine ⟨_, rfl, ?_⟩
  repeat' first
    | lift_lets -underBinder
    | (with_reducible first
        | assumption | exact Same.refl _ | apply Same.ite
        | (apply State.withDesc_same; intro _ z; rotate_left; rotate_right) | apply bindAlcove_same)

theorem releaseAlcove_same {z s : State} (kz : Same z s) (q : Nat) (r : DescRun) :
    Same z (releaseAlcove q r s) := by
  unfold releaseAlcove
  repeat' first
    | lift_lets -underBinder
    | (intro x; refine Same.cut (s := z) (t := x) ?_ ?_; unfold x; clear x; rotate_left; intro _; clear_value x; rotate_right)
    | (intro x; clear_value x)
    | (with_reducible first
        | assumption | exact Same.refl _ | apply Same.ite
        | (apply alcoveChecks_same; intro _ _ z; rotate_left; rotate_right) | apply State.complete_same
        | apply State.modAlc_same | apply State.p_same)
theorem releaseAlcove_keeps {z s : State} (kz : Keeps z s) (q : Nat) (r : DescRun) :
    Keeps z (releaseAlcove q r s) :=
  (releaseAlcove_same (.refl _) _ _).keeps.after kz

theorem execReleaseAlcove_same {z : State} (q : Nat) : RunsSame z (execReleaseAlcove q z) := by
  refine ⟨_, rfl, ?_⟩
  repeat' first
    | lift_lets -underBinder
    | (with_reducible first
        | assumption | exact Same.refl _ | apply Same.ite
        | (apply State.withDesc_same; intro _ z; rotate_left; rotate_right) | apply releaseAlcove_same)

theorem configGroup_same {z s : State} (kz : Same z s) (halls : Nat) :
    Same z (configGroup halls s) := by
  unfold configGroup
  repeat' first
    | lift_lets -underBinder
    | (intro x; refine Same.cut (s := z) (t := x) ?_ ?_; unfold x; clear x; rotate_left; intro _; clear_value x; rotate_right)
    | (intro x; clear_value x)
    | (with_reducible first | assumption | exact Same.refl _ | apply Same.ite | apply State.jput_same)
    | (with_reducible apply Same.base; with_reducible assumption)
theorem configGroup_keeps {z s : State} (kz : Keeps z s) (halls : Nat) :
    Keeps z (configGroup halls s) :=
  (configGroup_same (.refl _) _).keeps.after kz

theorem readyAlcove_same {z s : State} (kz : Same z s) (h i : Nat) :
    Same z (readyAlcove h i s) := by
  unfold readyAlcove
  repeat' first
    | lift_lets -underBinder
    | (intro x; refine Same.cut (s := z) (t := x) ?_ ?_; unfold x; clear x; rotate_left; intro _; clear_value x; rotate_right)
    | (with_reducible first
        | assumption | exact Same.refl _ | apply Same.ite | apply State.modAlc_same | apply setAlcSt_same
        | apply State.wr_same)
theorem readyAlcove_keeps {z s : State} (kz : Keeps z s) (h i : Nat) :
    Keeps z (readyAlcove h i s) :=
  (readyAlcove_same (.refl _) _ _).keeps.after kz

theorem startHall_same {z s : State} (kz : Same z s) (h : Nat) :
    Same z (startHall h s) := by
  unfold startHall
  repeat' first
    | lift_lets -underBinder
    | (intro x; refine Same.cut (s := z) (t := x) ?_ ?_; unfold x; clear x; rotate_left; intro _; clear_value x; rotate_right)
    | (with_reducible first
        | assumption | exact Same.refl _ | apply Same.ite
        | (apply State.each_same; intro _ z; rotate_left; rotate_right) | apply setDefer_same | apply endYield_same
        | apply State.p_same | apply State.modBank_same | apply readyAlcove_same)
theorem startHall_keeps {z s : State} (kz : Keeps z s) (h : Nat) :
    Keeps z (startHall h s) :=
  (startHall_same (.refl _) _).keeps.after kz

theorem startCheck_same {z s : State} (kz : Same z s) :
    Same z (startCheck s) := by
  unfold startCheck
  repeat' first
    | lift_lets -underBinder
    | (with_reducible first
        | assumption | exact Same.refl _ | apply Same.ite
        | (apply State.over_same; intro _ z; rotate_left; rotate_right) | apply State.complete_same)
    | (with_reducible apply Same.base; with_reducible first
        | assumption | exact Same.refl _ | (apply State.over_same; intro _ z; rotate_left; rotate_right))
theorem startCheck_keeps {z s : State} (kz : Keeps z s) :
    Keeps z (startCheck s) :=
  (startCheck_same (.refl _)).keeps.after kz

theorem startRun_keeps {z s : State} (kz : Keeps z s) (q : Nat) (r : DescRun) :
    Keeps z (startRun q r s) := by
  unfold startRun
  repeat' first
    | lift_lets -underBinder
    | (intro x; refine Keeps.cut (s := z) (t := x) ?_ ?_; unfold x; clear x; rotate_left; intro _; clear_value x; rotate_right)
    | (intro (x : _ → _ → _ → State); unfold x; clear x)
    | (intro x; clear_value x)
    | (with_reducible first
        | assumption | exact Keeps.refl _ | apply Keeps.ite | apply State.complete_keeps | apply State.lastErr_keeps
        | (apply State.over_keeps; intro _ z; rotate_left; rotate_right) | apply winClose_keeps
        | apply configGroup_keeps | apply startHall_keeps | apply idleDecide_keeps | apply startCheck_keeps)
    | (with_reducible apply Keeps.base; with_reducible first
        | assumption | exact Keeps.refl _ | apply Keeps.ite | apply State.complete_keeps | apply State.lastErr_keeps
        | (apply State.over_keeps; intro _ z; rotate_left; rotate_right))

theorem execStartRun_keeps {z : State} (q : Nat) : RunsKeeps z (execStartRun q z) := by
  refine ⟨_, rfl, ?_⟩
  repeat' first
    | lift_lets -underBinder
    | (with_reducible first
        | assumption | exact Keeps.refl _ | apply Keeps.ite
        | (apply State.withDesc_keeps; intro _ z; rotate_left; rotate_right) | apply startRun_keeps)

theorem stopRun_keeps {z s : State} (kz : Keeps z s) (q : Nat) (r : DescRun) :
    Keeps z (stopRun q r s) := by
  unfold stopRun
  repeat' first
    | lift_lets -underBinder
    | (intro x; refine Keeps.cut (s := z) (t := x) ?_ ?_; unfold x; clear x; rotate_left; intro _; clear_value x; rotate_right)
    | (intro x; clear_value x)
    | (with_reducible first
        | assumption | exact Keeps.refl _ | apply Keeps.ite | apply State.complete_keeps | apply State.lastErr_keeps
        | (apply State.over_keeps; intro _ z; rotate_left; rotate_right) | apply stopArrive_keeps
        | apply stopCheck_keeps)
    | (with_reducible apply Keeps.base; with_reducible first
        | assumption | (apply State.over_keeps; intro _ z; rotate_left; rotate_right))

theorem execStopRun_keeps {z : State} (q : Nat) : RunsKeeps z (execStopRun q z) := by
  refine ⟨_, rfl, ?_⟩
  repeat' first
    | lift_lets -underBinder
    | (with_reducible first
        | assumption | exact Keeps.refl _ | apply Keeps.ite
        | (apply withClaims_keeps; intro z; rotate_left; rotate_right)
        | (apply State.withDesc_keeps; intro _ z; rotate_left; rotate_right) | apply stopRun_keeps)

theorem flightStop_same {z s : State} (kz : Same z s) (h : Nat) :
    Same z (flightStop h s) := by
  unfold flightStop
  repeat' first
    | lift_lets -underBinder
    | (intro x; refine Same.cut (s := z) (t := x) ?_ ?_; unfold x; clear x; rotate_left; intro _; clear_value x; rotate_right)
    | (intro x; clear_value x)
    | (with_reducible first
        | assumption | exact Same.refl _ | apply Same.ite | apply entriesTo_same | apply State.setRing_same
        | apply State.set1_same | apply State.clr_same | (apply State.over_same; intro _ z; rotate_left; rotate_right)
        | (apply State.when_same; intro z; rotate_left; rotate_right) | apply State.modAlc_same
        | apply State.modHl_same)
theorem flightStop_keeps {z s : State} (kz : Keeps z s) (h : Nat) :
    Keeps z (flightStop h s) :=
  (flightStop_same (.refl _) _).keeps.after kz

theorem hallSafe_keeps {z s : State} (kz : Keeps z s) (h : Nat) :
    Keeps z (hallSafe h s) := by
  unfold hallSafe
  repeat' first
    | lift_lets -underBinder
    | (intro x; refine Keeps.cut (s := z) (t := x) ?_ ?_; unfold x; clear x; rotate_left; intro _; clear_value x; rotate_right)
    | (with_reducible first
        | assumption | exact Keeps.refl _ | apply Keeps.ite
        | (apply State.each_keeps; intro _ z; rotate_left; rotate_right) | apply peSafe_keeps | apply hseAbort_keeps
        | apply ppAbort_keeps | apply siteSel_keeps | apply tdcAbort_keeps | apply State.modHl_keeps)

theorem hallPark_keeps {z s : State} (kz : Keeps z s) (h : Nat) :
    Keeps z (hallPark h s) := by
  unfold hallPark
  repeat' first
    | lift_lets -underBinder
    | (intro x; refine Keeps.cut (s := z) (t := x) ?_ ?_; unfold x; clear x; rotate_left; intro _; clear_value x; rotate_right)
    | (intro x; clear_value x)
    | (with_reducible first
        | assumption | exact Keeps.refl _ | apply Keeps.ite | apply jFence_keeps | apply flightStop_keeps
        | apply State.modEng_keeps | apply State.p_keeps | apply leaveBank_keeps | apply dropResv_keeps
        | (apply State.each_keeps; intro _ z; rotate_left; rotate_right) | apply dropClaim_keeps
        | (apply State.over_keeps; intro _ z; rotate_left; rotate_right) | apply finishAlc_keeps
        | (apply State.when_keeps; intro z; rotate_left; rotate_right) | apply State.set1_keeps | apply setDefer_keeps
        | apply goIdle_keeps | apply jumpClear_keeps)
    | (with_reducible apply Keeps.base; with_reducible first
        | assumption | exact Keeps.refl _ | apply Keeps.ite | apply jFence_keeps | apply flightStop_keeps
        | apply State.modEng_keeps | apply State.p_keeps | apply leaveBank_keeps | apply dropResv_keeps
        | apply dropClaim_keeps | apply finishAlc_keeps | apply State.set1_keeps | apply setDefer_keeps
        | apply goIdle_keeps | apply jumpClear_keeps)
    | split

theorem fenceHall_keeps {z s : State} (kz : Keeps z s) (h : Nat) :
    Keeps z (fenceHall h s) := by
  unfold fenceHall
  repeat' first
    | lift_lets -underBinder
    | (with_reducible first
        | assumption | exact Keeps.refl _ | apply Keeps.ite | apply stopCheck_keeps | apply blankHall_keeps
        | apply hallPark_keeps | apply hallSafe_keeps)

theorem admitHall_keeps {z s : State} (kz : Keeps z s) (h : Nat) :
    Keeps z (admitHall h s) := by
  unfold admitHall
  repeat' first
    | lift_lets -underBinder
    | (intro x; refine Keeps.cut (s := z) (t := x) ?_ ?_; unfold x; clear x; rotate_left; intro _; clear_value x; rotate_right)
    | (with_reducible first
        | assumption | exact Keeps.refl _ | apply Keeps.ite | apply jFence_keeps | apply State.clr_keeps
        | (apply State.each_keeps; intro _ z; rotate_left; rotate_right)
        | (apply State.when_keeps; intro z; rotate_left; rotate_right) | apply peRelease_keeps
        | apply idleDecide_keeps | apply blankHall_keeps)

theorem alcFault_keeps {z s : State} (kz : Keeps z s) (a cause : Nat) :
    Keeps z (alcFault a cause s) := by
  unfold alcFault
  repeat' first
    | lift_lets -underBinder
    | (intro x; clear_value x)
    | (with_reducible first
        | assumption | exact Keeps.refl _ | apply Keeps.ite | apply State.modEng_keeps | apply stopCheck_keeps
        | apply finishAlc_keeps)

theorem failPut_same {z s : State} (kz : Same z s) (h : Nat) (rec : RingRec) :
    Same z (failPut h rec s) := by
  unfold failPut
  repeat' first
    | lift_lets -underBinder
    | (intro x; clear_value x)
    | (with_reducible first
        | assumption | exact Same.refl _ | apply Same.ite | apply State.ringPut_same | apply State.setRing_same)
theorem failPut_keeps {z s : State} (kz : Keeps z s) (h : Nat) (rec : RingRec) :
    Keeps z (failPut h rec s) :=
  (failPut_same (.refl _) _ _).keeps.after kz

theorem flogRecord_same {z s : State} (kz : Same z s) (h i typ f c cls e : Nat) (window first : Bool) :
    Same z (flogRecord h i typ f c cls e window first s) := by
  unfold flogRecord
  repeat' first
    | lift_lets -underBinder
    | (with_reducible first
        | assumption | exact Same.refl _ | apply Same.ite | apply failPut_same | apply State.modAlc_same
        | apply State.set1_same)
theorem flogRecord_keeps {z s : State} (kz : Keeps z s) (h i typ f c cls e : Nat) (window first : Bool) :
    Keeps z (flogRecord h i typ f c cls e window first s) :=
  (flogRecord_same (.refl _) _ _ _ _ _ _ _ _ _).keeps.after kz

theorem failCount_same {z s : State} (kz : Same z s) (h i f e : Nat) :
    Same z (failCount h i f e s) := by
  unfold failCount
  repeat' first
    | lift_lets -underBinder
    | (intro x; clear_value x)
    | (with_reducible first | assumption | exact Same.refl _ | apply Same.ite | apply State.setAlc_same)
theorem failCount_keeps {z s : State} (kz : Keeps z s) (h i f e : Nat) :
    Keeps z (failCount h i f e s) :=
  (failCount_same (.refl _) _ _ _ _).keeps.after kz

theorem compSeq_keeps {z s : State} (kz : Keeps z s) (h c : Nat) (l : List Int) : Keeps z (compSeq h c l s).2 := by
  induction l generalizing s with
  | nil => exact kz
  | cons v r ih => exact ih (compSee_keeps kz ..)

theorem compSeq_same {z s : State} (kz : Same z s) (h c : Nat) (l : List Int) : Same z (compSeq h c l s).2 := by
  induction l generalizing s with
  | nil => exact kz
  | cons v r ih => exact ih (compSee_same kz ..)


theorem compareInstant_same {z s : State} (kz : Same z s) (h c e : Nat) (volts : List Int) :
    Same z (compareInstant h c e volts s) := by
  unfold compareInstant
  repeat' first
    | lift_lets -underBinder
    | (intro x; refine Same.cut (s := z) (t := x) ?_ ?_; unfold x; clear x; rotate_left; intro _; clear_value x; rotate_right)
    | (intro x; clear_value x)
    | (with_reducible first
        | assumption | exact Same.refl _ | apply Same.ite | apply State.count_same | apply compSeq_same
        | apply latchRecord_same | (apply State.when_same; intro z; rotate_left; rotate_right) | apply State.set1_same
        | apply flogRecord_same | apply failCount_same | refine Same.pair2 (by assumption) ?_
        | refine Same.pair3 (by assumption) ?_)
    | (with_reducible apply Same.base; with_reducible first
        | assumption | exact Same.refl _ | apply Same.ite | apply State.count_same | apply compSeq_same
        | apply latchRecord_same | apply State.set1_same | apply flogRecord_same | apply failCount_same
        | refine Same.pair2 (by assumption) ?_ | refine Same.pair3 (by assumption) ?_)
    | split
theorem compareInstant_keeps {z s : State} (kz : Keeps z s) (h c e : Nat) (volts : List Int) :
    Keeps z (compareInstant h c e volts s) :=
  (compareInstant_same (.refl _) _ _ _ _).keeps.after kz

theorem execCompareInstant_same {z : State} (h c e : Nat) (volts : List Int) : RunsSame z (execCompareInstant h c e volts z) := by
  refine ⟨_, rfl, ?_⟩
  repeat' first
    | lift_lets -underBinder
    | (intro x; clear_value x)
    | (with_reducible first | assumption | exact Same.refl _ | apply Same.ite | apply compareInstant_same)
    | (with_reducible apply Same.base; with_reducible first
        | assumption | exact Same.refl _ | apply Same.ite | apply compareInstant_same)
    | split

theorem execDeadlinePass_same {z : State} (h b : Nat) : RunsSame z (execDeadlinePass h b z) := by
  refine ⟨_, rfl, ?_⟩
  repeat' first
    | lift_lets -underBinder
    | (intro x; refine Same.cut (s := z) (t := x) ?_ ?_; unfold x; clear x; rotate_left; intro _; clear_value x; rotate_right)
    | (with_reducible first
        | assumption | exact Same.refl _ | apply Same.ite | apply State.modBank_same | apply jSched_same
        | apply State.set1_same)

theorem deadlineWrite_same {z s : State} (kz : Same z s) (h b : Nat) (hi : Bool) (v : Word) :
    Same z (deadlineWrite h b hi v s) := by
  unfold deadlineWrite
  repeat' first
    | lift_lets -underBinder
    | (with_reducible first
        | assumption | exact Same.refl _ | apply Same.ite | apply State.cfgWr_same | apply State.modBank_same)
theorem deadlineWrite_keeps {z s : State} (kz : Keeps z s) (h b : Nat) (hi : Bool) (v : Word) :
    Keeps z (deadlineWrite h b hi v s) :=
  (deadlineWrite_same (.refl _) _ _ _ _).keeps.after kz

theorem execDeadlineWrite_same {z : State} (h b : Nat) (hi : Bool) (v : Word) : RunsSame z (execDeadlineWrite h b hi v z) := by
  refine ⟨_, rfl, ?_⟩
  repeat' first
    | lift_lets -underBinder
    | (with_reducible first
        | assumption | exact Same.refl _ | apply Same.ite
        | (apply State.host_same; intro z; rotate_left; rotate_right) | apply deadlineWrite_same)

theorem pbudgetWrite_keeps {z s : State} (kz : Keeps z s) (v : Word) :
    Keeps z (pbudgetWrite v s) := by
  unfold pbudgetWrite
  repeat' first
    | lift_lets -underBinder
    | (intro x; clear_value x)
    | (with_reducible first
        | assumption | exact Keeps.refl _ | apply Keeps.ite | apply idleAll_keeps | apply State.cfgWr_keeps)

theorem execPbudgetWrite_keeps {z : State} (v : Word) : RunsKeeps z (execPbudgetWrite v z) := by
  refine ⟨_, rfl, ?_⟩
  repeat' first
    | lift_lets -underBinder
    | (with_reducible first
        | assumption | exact Keeps.refl _ | apply Keeps.ite
        | (apply State.hostTh_keeps; intro z; rotate_left; rotate_right) | apply pbudgetWrite_keeps)

theorem bcastWrite_same {z s : State} (kz : Same z s) (h g : Nat) (mem : Bool) (v : Word) :
    Same z (bcastWrite h g mem v s) := by
  unfold bcastWrite
  repeat' first
    | lift_lets -underBinder
    | (intro x; clear_value x)
    | (with_reducible first
        | assumption | exact Same.refl _ | apply Same.ite | apply State.set1_same | apply State.cfgWr_same)
theorem bcastWrite_keeps {z s : State} (kz : Keeps z s) (h g : Nat) (mem : Bool) (v : Word) :
    Keeps z (bcastWrite h g mem v s) :=
  (bcastWrite_same (.refl _) _ _ _ _).keeps.after kz

theorem execBcastWrite_same {z : State} (h g : Nat) (mem : Bool) (v : Word) : RunsSame z (execBcastWrite h g mem v z) := by
  refine ⟨_, rfl, ?_⟩
  repeat' first
    | lift_lets -underBinder
    | (with_reducible first
        | assumption | exact Same.refl _ | apply Same.ite
        | (apply State.host_same; intro z; rotate_left; rotate_right) | apply bcastWrite_same)

theorem schedBankWrite_same {z s : State} (kz : Same z s) (h b : Nat) (v : Word) :
    Same z (schedBankWrite h b v s) := by
  unfold schedBankWrite
  repeat' first
    | lift_lets -underBinder
    | (with_reducible first
        | assumption | exact Same.refl _ | apply Same.ite | apply State.cfgWr_same | apply State.set1_same)
theorem schedBankWrite_keeps {z s : State} (kz : Keeps z s) (h b : Nat) (v : Word) :
    Keeps z (schedBankWrite h b v s) :=
  (schedBankWrite_same (.refl _) _ _ _).keeps.after kz

theorem execSchedBankWrite_same {z : State} (h b : Nat) (v : Word) : RunsSame z (execSchedBankWrite h b v z) := by
  refine ⟨_, rfl, ?_⟩
  repeat' first
    | lift_lets -underBinder
    | (with_reducible first
        | assumption | exact Same.refl _ | apply Same.ite
        | (apply State.host_same; intro z; rotate_left; rotate_right) | apply schedBankWrite_same)

theorem execMeasArrive_keeps {z : State} (g : Nat) : RunsKeeps z (execMeasArrive g z) := by
  refine ⟨_, rfl, ?_⟩
  repeat' first
    | lift_lets -underBinder
    | (with_reducible first
        | assumption | exact Keeps.refl _ | apply Keeps.ite
        | (apply withClaims_keeps; intro z; rotate_left; rotate_right) | apply measArrive_keeps)

theorem execMeasDone_keeps {z : State} (g : Nat) : RunsKeeps z (execMeasDone g z) := by
  refine ⟨_, rfl, ?_⟩
  repeat' first
    | lift_lets -underBinder
    | (with_reducible first
        | assumption | exact Keeps.refl _ | apply Keeps.ite
        | (apply withClaims_keeps; intro z; rotate_left; rotate_right) | apply measDone_keeps)

theorem swapAfterSend_keeps {z s : State} (kz : Keeps z s) (h : Nat) :
    Keeps z (swapAfterSend h s) := by
  unfold swapAfterSend
  repeat' first
    | lift_lets -underBinder
    | (with_reducible first
        | assumption | exact Keeps.refl _ | apply Keeps.ite
        | (apply withClaims_keeps; intro z; rotate_left; rotate_right) | apply swapBegin_keeps)
    | (with_reducible apply Keeps.base; with_reducible first
        | assumption | exact Keeps.refl _ | apply Keeps.ite | apply swapBegin_keeps)
    | split

theorem execHseEnqueue_keeps {z : State} (h : Nat) : RunsKeeps z (execHseEnqueue h z) := by
  refine ⟨_, rfl, ?_⟩
  repeat' first
    | lift_lets -underBinder
    | (with_reducible first
        | assumption | exact Keeps.refl _ | apply Keeps.ite | apply swapAfterSend_keeps | apply hseEnqueue_keeps)

theorem execHseTransferEnd_keeps {z : State} (h : Nat) (data mid : List Nat) : RunsKeeps z (execHseTransferEnd h data mid z) := by
  refine ⟨_, rfl, ?_⟩
  repeat' first
    | lift_lets -underBinder
    | (with_reducible first
        | assumption | exact Keeps.refl _ | apply Keeps.ite | apply swapAfterSend_keeps | apply hseEnd_keeps)

theorem execHseAbort_keeps {z : State} (h : Nat) : RunsKeeps z (execHseAbort h z) := by
  refine ⟨_, rfl, ?_⟩
  repeat' first
    | lift_lets -underBinder
    | (with_reducible first
        | assumption | exact Keeps.refl _ | apply Keeps.ite
        | (apply State.host_keeps; intro z; rotate_left; rotate_right) | apply swapAfterSend_keeps
        | apply hseAbort_keeps)

theorem execHseConfigWrite_keeps {z : State} (h : Nat) (r : HseReg) (v : Word) : RunsKeeps z (execHseConfigWrite h r v z) := by
  refine ⟨_, rfl, ?_⟩
  repeat' first
    | lift_lets -underBinder
    | (with_reducible first
        | assumption | exact Keeps.refl _ | apply Keeps.ite
        | (apply State.host_keeps; intro z; rotate_left; rotate_right) | apply swapAfterSend_keeps
        | apply hseRegWrite_keeps)
    | (with_reducible apply Keeps.base; with_reducible first
        | assumption | exact Keeps.refl _ | apply Keeps.ite | apply swapAfterSend_keeps | apply hseRegWrite_keeps)
    | split

end Sys2Proof.Machine
end

