-- ==== Sys2Proof/Laws/SameHost.lean ====
section
/-! SUPPORT. What the operations of Machine.Host keep: the part, the queue, the canonical tables, and where they store no bulk
memory all of it. -/
set_option linter.unreachableTactic false
set_option linter.unusedTactic false
namespace Sys2Proof.Machine

theorem State.modQueue_same {z s : State} (kz : Same z s) (q : Nat) (f : QueueX → QueueX) :
    Same z (State.modQueue s q f) := by
  unfold State.modQueue
  repeat' first
    | lift_lets -underBinder
    | (with_reducible first | assumption | exact Same.refl _ | apply Same.ite | apply State.setQueue_same)
theorem State.modQueue_keeps {z s : State} (kz : Keeps z s) (q : Nat) (f : QueueX → QueueX) :
    Keeps z (State.modQueue s q f) :=
  (State.modQueue_same (.refl _) _ _).keeps.after kz

theorem cqFlags_same {z s : State} (kz : Same z s) (q : Nat) :
    Same z (cqFlags q s) := by
  unfold cqFlags
  repeat' first
    | lift_lets -underBinder
    | (intro x; clear_value x)
    | (with_reducible first
        | assumption | exact Same.refl _ | apply Same.ite | apply State.pb_same
        | (apply State.when_same; intro z; rotate_left; rotate_right) | apply State.set1_same)
theorem cqFlags_keeps {z s : State} (kz : Keeps z s) (q : Nat) :
    Keeps z (cqFlags q s) :=
  (cqFlags_same (.refl _) _).keeps.after kz

theorem foreignDoorbell_same {z s : State} (kz : Same z s) (f : FRef) :
    Same z (foreignDoorbell f s) := by
  unfold foreignDoorbell
  repeat' first
    | lift_lets -underBinder
    | (with_reducible first
        | assumption | exact Same.refl _ | apply Same.ite | apply State.set1_same | apply State.raise_same)
theorem foreignDoorbell_keeps {z s : State} (kz : Keeps z s) (f : FRef) :
    Keeps z (foreignDoorbell f s) :=
  (foreignDoorbell_same (.refl _) _).keeps.after kz

theorem jDoorbell_same {z s : State} (kz : Same z s) (subj dom index : Nat) :
    Same z (jDoorbell subj dom index s) := by
  unfold jDoorbell
  repeat' first
    | lift_lets -underBinder
    | (with_reducible first | assumption | exact Same.refl _ | apply Same.ite | apply State.j_same)
theorem jDoorbell_keeps {z s : State} (kz : Keeps z s) (subj dom index : Nat) :
    Keeps z (jDoorbell subj dom index s) :=
  (jDoorbell_same (.refl _) _ _ _).keeps.after kz

theorem sqDoorbell_same {z s : State} (kz : Same z s) (d q : Nat) (v : Word) :
    Same z (sqDoorbell d q v s) := by
  unfold sqDoorbell
  repeat' first
    | lift_lets -underBinder
    | (intro x; clear_value x)
    | (with_reducible first
        | assumption | exact Same.refl _ | apply Same.ite | apply foreignDoorbell_same | apply jDoorbell_same
        | apply State.setQueue_same | apply State.set1_same)
theorem sqDoorbell_keeps {z s : State} (kz : Keeps z s) (d q : Nat) (v : Word) :
    Keeps z (sqDoorbell d q v s) :=
  (sqDoorbell_same (.refl _) _ _ _).keeps.after kz

theorem execSqDoorbell_same {z : State} (d q : Nat) (v : Word) : RunsSame z (execSqDoorbell d q v z) := by
  refine ⟨_, rfl, ?_⟩
  repeat' first
    | lift_lets -underBinder
    | (with_reducible first
        | assumption | exact Same.refl _ | apply Same.ite
        | (apply State.host_same; intro z; rotate_left; rotate_right) | apply sqDoorbell_same)

theorem cqDoorbell_same {z s : State} (kz : Same z s) (d q : Nat) (v : Word) :
    Same z (cqDoorbell d q v s) := by
  unfold cqDoorbell
  repeat' first
    | lift_lets -underBinder
    | (intro x; clear_value x)
    | (with_reducible first
        | assumption | exact Same.refl _ | apply Same.ite | apply foreignDoorbell_same | apply cqFlags_same
        | apply jDoorbell_same | apply State.setQueue_same | apply State.set1_same)
theorem cqDoorbell_keeps {z s : State} (kz : Keeps z s) (d q : Nat) (v : Word) :
    Keeps z (cqDoorbell d q v s) :=
  (cqDoorbell_same (.refl _) _ _ _).keeps.after kz

theorem execCqDoorbell_same {z : State} (d q : Nat) (v : Word) : RunsSame z (execCqDoorbell d q v z) := by
  refine ⟨_, rfl, ?_⟩
  repeat' first
    | lift_lets -underBinder
    | (with_reducible first
        | assumption | exact Same.refl _ | apply Same.ite
        | (apply State.host_same; intro z; rotate_left; rotate_right) | apply cqDoorbell_same)

theorem rrDoorbell_same {z s : State} (kz : Same z s) (d r : Nat) (v : Word) :
    Same z (rrDoorbell d r v s) := by
  unfold rrDoorbell
  repeat' first
    | lift_lets -underBinder
    | (intro x; clear_value x)
    | (with_reducible first
        | assumption | exact Same.refl _ | apply Same.ite | apply foreignDoorbell_same | apply jDoorbell_same
        | apply State.p_same | apply State.ringFlags_same | apply State.set1_same)
theorem rrDoorbell_keeps {z s : State} (kz : Keeps z s) (d r : Nat) (v : Word) :
    Keeps z (rrDoorbell d r v s) :=
  (rrDoorbell_same (.refl _) _ _ _).keeps.after kz

theorem execRrHeadDoorbell_same {z : State} (d r : Nat) (v : Word) : RunsSame z (execRrHeadDoorbell d r v z) := by
  refine ⟨_, rfl, ?_⟩
  repeat' first
    | lift_lets -underBinder
    | (with_reducible first
        | assumption | exact Same.refl _ | apply Same.ite
        | (apply State.host_same; intro z; rotate_left; rotate_right) | apply rrDoorbell_same)

theorem fenceRelease_same {z s : State} (kz : Same z s) (q : Nat) :
    Same z (fenceRelease q s) := by
  unfold fenceRelease
  repeat' first
    | lift_lets -underBinder
    | (with_reducible first
        | assumption | exact Same.refl _ | apply Same.ite
        | (apply State.each_same; intro _ z; rotate_left; rotate_right) | apply State.modQueue_same
        | apply fence_same)
    | (with_reducible apply Same.base; with_reducible first
        | assumption | exact Same.refl _ | apply Same.ite | apply State.modQueue_same | apply fence_same)
    | split
theorem fenceRelease_keeps {z s : State} (kz : Keeps z s) (q : Nat) :
    Keeps z (fenceRelease q s) :=
  (fenceRelease_same (.refl _) _).keeps.after kz

theorem qEnter_same {z s : State} (kz : Same z s) (q st : Nat) :
    Same z (qEnter q st s) := by
  unfold qEnter
  repeat' first
    | lift_lets -underBinder
    | (intro x; refine Same.cut (s := z) (t := x) ?_ ?_; unfold x; clear x; rotate_left; intro _; clear_value x; rotate_right)
    | (with_reducible first
        | assumption | exact Same.refl _ | apply Same.ite | apply State.p_same
        | (apply State.when_same; intro z; rotate_left; rotate_right) | apply fenceRelease_same
        | apply State.modQueue_same)
theorem qEnter_keeps {z s : State} (kz : Keeps z s) (q st : Nat) :
    Keeps z (qEnter q st s) :=
  (qEnter_same (.refl _) _ _).keeps.after kz

theorem fetchRead_same {z s : State} (kz : Same z s) (q n : Nat) :
    Same z (fetchRead q n s) := by
  unfold fetchRead
  repeat' first
    | lift_lets -underBinder
    | (with_reducible first
        | assumption | exact Same.refl _ | apply Same.ite | apply State.send_same
        | (apply State.hostRead_same; intro z; rotate_left; rotate_right))
theorem fetchRead_keeps {z s : State} (kz : Keeps z s) (q n : Nat) :
    Keeps z (fetchRead q n s) :=
  (fetchRead_same (.refl _) _ _).keeps.after kz

theorem execDescFetch_same {z : State} (q : Nat) (descs : List (BitVec 512)) : RunsSame z (execDescFetch q descs z) := by
  refine ⟨_, rfl, ?_⟩
  repeat' first
    | lift_lets -underBinder
    | (intro x; refine Same.cut (s := z) (t := x) ?_ ?_; unfold x; clear x; rotate_left; intro _; clear_value x; rotate_right)
    | (intro x; clear_value x)
    | (with_reducible first
        | assumption | exact Same.refl _ | apply Same.ite | apply fetchRead_same | apply State.modQueue_same
        | apply State.p_same)

theorem failNext_same {z s : State} (kz : Same z s) (q : Nat) :
    Same z (failNext q s) := by
  unfold failNext
  repeat' first
    | lift_lets -underBinder
    | (intro x; clear_value x)
    | (with_reducible first | assumption | exact Same.refl _ | apply Same.ite | apply State.setQueue_same)
    | (with_reducible apply Same.base; with_reducible first
        | assumption | exact Same.refl _ | apply Same.ite | apply State.setQueue_same)
    | split
theorem failNext_keeps {z s : State} (kz : Keeps z s) (q : Nat) :
    Keeps z (failNext q s) :=
  (failNext_same (.refl _) _).keeps.after kz

theorem execDescFetchFail_same {z : State} (q : Nat) : RunsSame z (execDescFetchFail q z) := by
  refine ⟨_, rfl, ?_⟩
  repeat' first
    | lift_lets -underBinder
    | (intro x; refine Same.cut (s := z) (t := x) ?_ ?_; unfold x; clear x; rotate_left; intro _; clear_value x; rotate_right)
    | (intro x; clear_value x)
    | (with_reducible first
        | assumption | exact Same.refl _ | apply Same.ite | apply qEnter_same | apply fetchRead_same
        | apply State.set1_same | apply failNext_same | apply State.lastErr_same | apply State.modQueue_same)

theorem jDesc_same {z s : State} (kz : Same z s) (q qpos : Nat) (d : BitVec 512) :
    Same z (jDesc q qpos d s) := by
  unfold jDesc
  repeat' first
    | lift_lets -underBinder
    | (intro x; clear_value x)
    | (with_reducible first | assumption | exact Same.refl _ | apply Same.ite | apply State.jput_same)
theorem jDesc_keeps {z s : State} (kz : Keeps z s) (q qpos : Nat) (d : BitVec 512) :
    Keeps z (jDesc q qpos d s) :=
  (jDesc_same (.refl _) _ _ _).keeps.after kz

theorem State.endDesc_same {z s : State} (kz : Same z s) (did : Nat) (d : BitVec 512) (st : Status) :
    Same z (State.endDesc s did d st) := by
  unfold State.endDesc
  repeat' first
    | lift_lets -underBinder
    | (with_reducible first
        | assumption | exact Same.refl _ | apply Same.ite | apply State.draw_same | apply State.complete_same)
theorem State.endDesc_keeps {z s : State} (kz : Keeps z s) (did : Nat) (d : BitVec 512) (st : Status) :
    Keeps z (State.endDesc s did d st) :=
  (State.endDesc_same (.refl _) _ _ _).keeps.after kz

theorem commonChecks_same {z s : State} (kz : Same z s) (q did : Nat) (d : BitVec 512) (qpos dom : Nat) :
    Same z (commonChecks q did d qpos dom s) := by
  unfold commonChecks
  repeat' first
    | lift_lets -underBinder
    | (intro x; clear_value x)
    | (with_reducible first
        | assumption | exact Same.refl _ | apply Same.ite | apply State.lastErr_same | apply State.complete_same
        | apply State.endDesc_same)
theorem commonChecks_keeps {z s : State} (kz : Keeps z s) (q did : Nat) (d : BitVec 512) (qpos dom : Nat) :
    Keeps z (commonChecks q did d qpos dom s) :=
  (commonChecks_same (.refl _) _ _ _ _ _).keeps.after kz

theorem descStart_same {z s : State} (kz : Same z s) (q : Nat) :
    Same z (descStart q s) := by
  unfold descStart
  repeat' first
    | lift_lets -underBinder
    | (intro x; refine Same.cut (s := z) (t := x) ?_ ?_; unfold x; clear x; rotate_left; intro _; clear_value x; rotate_right)
    | (intro x; clear_value x)
    | (with_reducible first
        | assumption | exact Same.refl _ | apply Same.ite | apply State.setQueue_same | apply commonChecks_same
        | apply jDesc_same)
    | (with_reducible apply Same.base; with_reducible first
        | assumption | exact Same.refl _ | apply Same.ite | apply State.setQueue_same | apply commonChecks_same
        | apply jDesc_same)
    | split
theorem descStart_keeps {z s : State} (kz : Keeps z s) (q : Nat) :
    Keeps z (descStart q s) :=
  (descStart_same (.refl _) _).keeps.after kz

theorem execDescStart_same {z : State}  : RunsSame z (execDescStart z) := by
  refine ⟨_, rfl, ?_⟩
  repeat' first
    | lift_lets -underBinder
    | (with_reducible first | assumption | exact Same.refl _ | apply Same.ite | apply descStart_same)
    | (with_reducible apply Same.base; with_reducible first
        | assumption | exact Same.refl _ | apply Same.ite | apply descStart_same)
    | split

theorem completionWrite_same {z s : State} (kz : Same z s) (q : Nat) :
    Same z (completionWrite q s) := by
  unfold completionWrite
  repeat' first
    | lift_lets -underBinder
    | (intro x; refine Same.cut (s := z) (t := x) ?_ ?_; unfold x; clear x; rotate_left; intro _; clear_value x; rotate_right)
    | (intro x; clear_value x)
    | (with_reducible first
        | assumption | exact Same.refl _ | apply Same.ite | apply State.send_same | apply State.setQueue_same
        | apply State.p_same | apply failNext_same | apply cqFlags_same | apply State.vecCount_same)
    | (with_reducible apply Same.base; with_reducible first
        | assumption | exact Same.refl _ | apply Same.ite | apply State.send_same | apply State.setQueue_same
        | apply State.p_same | apply failNext_same | apply cqFlags_same | apply State.vecCount_same)
    | split
theorem completionWrite_keeps {z s : State} (kz : Keeps z s) (q : Nat) :
    Keeps z (completionWrite q s) :=
  (completionWrite_same (.refl _) _).keeps.after kz

theorem execCompletionWrite_same {z : State} (q : Nat) : RunsSame z (execCompletionWrite q z) := by
  refine ⟨_, rfl, ?_⟩
  repeat' first
    | lift_lets -underBinder
    | (with_reducible first | assumption | exact Same.refl _ | apply Same.ite | apply completionWrite_same)

theorem qpCfgWrite_same {z s : State} (kz : Same z s) (q : Nat) (v : Word) :
    Same z (qpCfgWrite q v s) := by
  unfold qpCfgWrite
  repeat' first
    | lift_lets -underBinder
    | (intro x; refine Same.cut (s := z) (t := x) ?_ ?_; unfold x; clear x; rotate_left; intro _; clear_value x; rotate_right)
    | (intro x; clear_value x)
    | (with_reducible first
        | assumption | exact Same.refl _ | apply Same.ite | apply State.wr_same | apply qEnter_same
        | apply State.setQueue_same | apply State.set1_same | apply State.clr_same)
theorem qpCfgWrite_keeps {z s : State} (kz : Keeps z s) (q : Nat) (v : Word) :
    Keeps z (qpCfgWrite q v s) :=
  (qpCfgWrite_same (.refl _) _ _).keeps.after kz

theorem execQpEnable_same {z : State} (q : Nat) (v : Word) : RunsSame z (execQpEnable q v z) := by
  refine ⟨_, rfl, ?_⟩
  repeat' first
    | lift_lets -underBinder
    | (with_reducible first
        | assumption | exact Same.refl _ | apply Same.ite
        | (apply State.host_same; intro z; rotate_left; rotate_right) | apply qpCfgWrite_same)

theorem execQpDisable_same {z : State} (q : Nat) (v : Word) : RunsSame z (execQpDisable q v z) := by
  refine ⟨_, rfl, ?_⟩
  repeat' first
    | lift_lets -underBinder
    | (with_reducible first
        | assumption | exact Same.refl _ | apply Same.ite
        | (apply State.host_same; intro z; rotate_left; rotate_right) | apply qpCfgWrite_same)

theorem execQpDrainDone_same {z : State} (q : Nat) : RunsSame z (execQpDrainDone q z) := by
  refine ⟨_, rfl, ?_⟩
  repeat' first
    | lift_lets -underBinder
    | (intro x; clear_value x)
    | (with_reducible first | assumption | exact Same.refl _ | apply Same.ite | apply qEnter_same)

theorem qpBaseWrite_same {z s : State} (kz : Same z s) (q a : Nat) (v : Word) :
    Same z (qpBaseWrite q a v s) := by
  unfold qpBaseWrite
  repeat' first
    | lift_lets -underBinder
    | (with_reducible first
        | assumption | exact Same.refl _ | apply Same.ite | apply State.wr_same | apply State.set1_same)
theorem qpBaseWrite_keeps {z s : State} (kz : Keeps z s) (q a : Nat) (v : Word) :
    Keeps z (qpBaseWrite q a v s) :=
  (qpBaseWrite_same (.refl _) _ _ _).keeps.after kz

theorem rrCfgWrite_same {z s : State} (kz : Same z s) (r : Nat) (v : Word) :
    Same z (rrCfgWrite r v s) := by
  unfold rrCfgWrite
  repeat' first
    | lift_lets -underBinder
    | (intro x; clear_value x)
    | (with_reducible first
        | assumption | exact Same.refl _ | apply Same.ite | apply State.set1_same | apply State.clr_same
        | apply State.ringFlags_same | apply State.wr_same)
theorem rrCfgWrite_keeps {z s : State} (kz : Keeps z s) (r : Nat) (v : Word) :
    Keeps z (rrCfgWrite r v s) :=
  (rrCfgWrite_same (.refl _) _ _).keeps.after kz

theorem execRrEnable_same {z : State} (r : Nat) (v : Word) : RunsSame z (execRrEnable r v z) := by
  refine ⟨_, rfl, ?_⟩
  repeat' first
    | lift_lets -underBinder
    | (with_reducible first
        | assumption | exact Same.refl _ | apply Same.ite
        | (apply State.host_same; intro z; rotate_left; rotate_right) | apply rrCfgWrite_same)

theorem execRrDisable_same {z : State} (r : Nat) (v : Word) : RunsSame z (execRrDisable r v z) := by
  refine ⟨_, rfl, ?_⟩
  repeat' first
    | lift_lets -underBinder
    | (with_reducible first
        | assumption | exact Same.refl _ | apply Same.ite
        | (apply State.host_same; intro z; rotate_left; rotate_right) | apply rrCfgWrite_same)

theorem rrAddrWrite_same {z s : State} (kz : Same z s) (r a : Nat) (v : Word) :
    Same z (rrAddrWrite r a v s) := by
  unfold rrAddrWrite
  repeat' first
    | lift_lets -underBinder
    | (with_reducible first
        | assumption | exact Same.refl _ | apply Same.ite | apply State.set1_same | apply State.wr_same)
theorem rrAddrWrite_keeps {z s : State} (kz : Keeps z s) (r a : Nat) (v : Word) :
    Keeps z (rrAddrWrite r a v s) :=
  (rrAddrWrite_same (.refl _) _ _ _).keeps.after kz

theorem ringWrite_same {z s : State} (kz : Same z s) (r : Nat) (rec : RingRec) :
    Same z (ringWrite r rec s) := by
  unfold ringWrite
  repeat' first
    | lift_lets -underBinder
    | (intro x; refine Same.cut (s := z) (t := x) ?_ ?_; unfold x; clear x; rotate_left; intro _; clear_value x; rotate_right)
    | (intro x; clear_value x)
    | (with_reducible first
        | assumption | exact Same.refl _ | apply Same.ite | apply State.send_same | apply State.p_same
        | apply State.setRing_same)
theorem ringWrite_keeps {z s : State} (kz : Keeps z s) (r : Nat) (rec : RingRec) :
    Keeps z (ringWrite r rec s) :=
  (ringWrite_same (.refl _) _ _).keeps.after kz

theorem failGaps_same {z s : State} (kz : Same z s) :
    Same z (failGaps s) := by
  unfold failGaps
  repeat' first
    | lift_lets -underBinder
    | (intro x; clear_value x)
    | (with_reducible first | assumption | exact Same.refl _ | apply Same.ite | apply State.dropsOut_same)
theorem failGaps_keeps {z s : State} (kz : Keeps z s) :
    Keeps z (failGaps s) :=
  (failGaps_same (.refl _)).keeps.after kz

theorem recordWrite_same {z s : State} (kz : Same z s) (r : Nat) :
    Same z (recordWrite r s) := by
  unfold recordWrite
  repeat' first
    | lift_lets -underBinder
    | (intro x; refine Same.cut (s := z) (t := x) ?_ ?_; unfold x; clear x; rotate_left; intro _; clear_value x; rotate_right)
    | (intro x; clear_value x)
    | (with_reducible first
        | assumption | exact Same.refl _ | apply Same.ite | apply ringWrite_same | apply State.setRing_same
        | apply failGaps_same | apply State.ringFlags_same)
    | (with_reducible apply Same.base; with_reducible first
        | assumption | exact Same.refl _ | apply Same.ite | apply ringWrite_same | apply State.setRing_same
        | apply failGaps_same | apply State.ringFlags_same)
    | split
theorem recordWrite_keeps {z s : State} (kz : Keeps z s) (r : Nat) :
    Keeps z (recordWrite r s) :=
  (recordWrite_same (.refl _) _).keeps.after kz

theorem execResultRecordWrite_same {z : State} (r : Nat) : RunsSame z (execResultRecordWrite r z) := by
  refine ⟨_, rfl, ?_⟩
  repeat' first
    | lift_lets -underBinder
    | (with_reducible first | assumption | exact Same.refl _ | apply Same.ite | apply recordWrite_same)

theorem execRrWriteback_same {z : State} (r : Nat) : RunsSame z (execRrWriteback r z) := by
  refine ⟨_, rfl, ?_⟩
  repeat' first
    | lift_lets -underBinder
    | (intro x; refine Same.cut (s := z) (t := x) ?_ ?_; unfold x; clear x; rotate_left; intro _; clear_value x; rotate_right)
    | (intro x; clear_value x)
    | (with_reducible first
        | assumption | exact Same.refl _ | apply Same.ite | apply State.send_same | apply State.setRing_same
        | apply State.vecCount_same)

theorem execMsixMessage_same {z : State} (v : Nat) (timed : Bool) : RunsSame z (execMsixMessage v timed z) := by
  refine ⟨_, rfl, ?_⟩
  repeat' first
    | lift_lets -underBinder
    | (intro x; clear_value x)
    | (with_reducible first | assumption | exact Same.refl _ | apply Same.ite | apply State.vecFire_same)

theorem execMsixUnmask_same {z : State} (v : Nat) : RunsSame z (execMsixUnmask v z) := by
  refine ⟨_, rfl, ?_⟩
  repeat' first
    | lift_lets -underBinder
    | (intro x; refine Same.cut (s := z) (t := x) ?_ ?_; unfold x; clear x; rotate_left; intro _; clear_value x; rotate_right)
    | (intro x; clear_value x)
    | (with_reducible first
        | assumption | exact Same.refl _ | apply Same.ite | apply State.setVec_same | apply State.vecFire_same)

theorem execNop_same {z : State} (q : Nat) : RunsSame z (execNop q z) := by
  refine ⟨_, rfl, ?_⟩
  repeat' first
    | lift_lets -underBinder
    | (with_reducible first
        | assumption | exact Same.refl _ | apply Same.ite
        | (apply State.withDesc_same; intro _ z; rotate_left; rotate_right) | apply State.complete_same)

theorem fence_same {z s : State} (kz : Same z s) (q : Nat) (r : DescRun) :
    Same z (fence q r s) := by
  unfold fence
  repeat' first
    | lift_lets -underBinder
    | (intro x; clear_value x)
    | (with_reducible first
        | assumption | exact Same.refl _ | apply Same.ite | apply State.complete_same | apply State.modQueue_same)
theorem fence_keeps {z s : State} (kz : Keeps z s) (q : Nat) (r : DescRun) :
    Keeps z (fence q r s) :=
  (fence_same (.refl _) _ _).keeps.after kz

theorem execFence_same {z : State} (q : Nat) : RunsSame z (execFence q z) := by
  refine ⟨_, rfl, ?_⟩
  repeat' first
    | lift_lets -underBinder
    | (with_reducible first
        | assumption | exact Same.refl _ | apply Same.ite
        | (apply State.withDesc_same; intro _ z; rotate_left; rotate_right) | apply fence_same)

theorem execFenceDone_same {z : State} (q : Nat) : RunsSame z (execFenceDone q z) := by
  refine ⟨_, rfl, ?_⟩
  repeat' first
    | lift_lets -underBinder
    | (with_reducible first
        | assumption | exact Same.refl _ | apply Same.ite
        | (apply State.withActed_same; intro _ z; rotate_left; rotate_right) | apply State.modQueue_same
        | apply fence_same | apply State.complete_same)
    | (with_reducible apply Same.base; with_reducible first
        | assumption | exact Same.refl _ | apply Same.ite | apply State.modQueue_same | apply fence_same
        | apply State.complete_same)
    | split

theorem tabWf_keep {α : Type} [DecidableEq α] {d : Nat → α} {f : Nat × α → Bool} {m : List (Nat × α)}
    (h : tabWf d m = true) : tabWf d (m.filter f) = true := tabWf_filter (fun _ _ => rfl) h

theorem hostReset_same {z s : State} (kz : Same z s) : Same z (hostReset s) :=
  Same.after (u := s) ⟨rfl, rfl, rfl, rfl, fun h => tabWf_keep h⟩ kz

theorem hostReset_keeps {z s : State} (kz : Keeps z s) : Keeps z (hostReset s) :=
  (hostReset_same (.refl _)).keeps.after kz

end Sys2Proof.Machine
end

