-- ==== Sys2Proof/Laws/SameAcq.lean ====
section
/-! SUPPORT. What the operations of Machine.Acq keep: the part, the queue, the canonical tables, and where they store no bulk
memory all of it. -/
set_option linter.unreachableTactic false
set_option linter.unusedTactic false
namespace Sys2Proof.Machine

theorem State.setDig_same {z s : State} (kz : Same z s) (d : Nat) (x : DigX) :
    Same z (State.setDig s d x) := by
  unfold State.setDig
  repeat' first
    | lift_lets -underBinder
    | (with_reducible first | assumption | exact Same.refl _ | apply Same.ite)
    | (with_reducible apply Same.base; with_reducible assumption)
theorem State.setDig_keeps {z s : State} (kz : Keeps z s) (d : Nat) (x : DigX) :
    Keeps z (State.setDig s d x) :=
  (State.setDig_same (.refl _) _ _).keeps.after kz

theorem State.modDig_same {z s : State} (kz : Same z s) (d : Nat) (f : DigX → DigX) :
    Same z (State.modDig s d f) := by
  unfold State.modDig
  repeat' first
    | lift_lets -underBinder
    | (with_reducible first | assumption | exact Same.refl _ | apply Same.ite | apply State.setDig_same)
theorem State.modDig_keeps {z s : State} (kz : Keeps z s) (d : Nat) (f : DigX → DigX) :
    Keeps z (State.modDig s d f) :=
  (State.modDig_same (.refl _) _ _).keeps.after kz

theorem acqFlag_same {z s : State} (kz : Same z s) (d bit : Nat) :
    Same z (acqFlag d bit s) := by
  unfold acqFlag
  repeat' first
    | lift_lets -underBinder
    | (with_reducible first | assumption | exact Same.refl _ | apply Same.ite | apply State.modDig_same)
theorem acqFlag_keeps {z s : State} (kz : Keeps z s) (d bit : Nat) :
    Keeps z (acqFlag d bit s) :=
  (acqFlag_same (.refl _) _ _).keeps.after kz

theorem acqIdxShow_same {z s : State} (kz : Same z s) (d : Nat) :
    Same z (acqIdxShow d s) := by
  unfold acqIdxShow
  repeat' first
    | lift_lets -underBinder
    | (with_reducible first | assumption | exact Same.refl _ | apply Same.ite | apply State.p_same)
theorem acqIdxShow_keeps {z s : State} (kz : Keeps z s) (d : Nat) :
    Keeps z (acqIdxShow d s) :=
  (acqIdxShow_same (.refl _) _).keeps.after kz

theorem acqSample_keeps {z s : State} (kz : Keeps z s) (d : Nat) (v : Option Nat) :
    Keeps z (acqSample d v s) := by
  unfold acqSample
  repeat' first
    | lift_lets -underBinder
    | (intro x; refine Keeps.cut (s := z) (t := x) ?_ ?_; unfold x; clear x; rotate_left; intro _; clear_value x; rotate_right)
    | (intro x; clear_value x)
    | (with_reducible first
        | assumption | exact Keeps.refl _ | apply Keeps.ite | apply State.wrMem_keeps | apply State.setDig_keeps)
    | (with_reducible apply Keeps.base; with_reducible first
        | assumption | exact Keeps.refl _ | apply Keeps.ite | apply State.wrMem_keeps | apply State.setDig_keeps)
    | split

theorem acqStore_keeps {z s : State} (kz : Keeps z s) (d : Nat) (data : List (Option Nat)) (clip : Bool) :
    Keeps z (acqStore d data clip s) := by
  unfold acqStore
  repeat' first
    | lift_lets -underBinder
    | (intro x; refine Keeps.cut (s := z) (t := x) ?_ ?_; unfold x; clear x; rotate_left; intro _; clear_value x; rotate_right)
    | (with_reducible first
        | assumption | exact Keeps.refl _ | apply Keeps.ite
        | (apply State.over_keeps; intro _ z; rotate_left; rotate_right) | apply acqSample_keeps
        | apply State.modDig_keeps | apply acqIdxShow_keeps
        | (apply State.when_keeps; intro z; rotate_left; rotate_right) | apply acqFlag_keeps | apply State.set1_keeps)

theorem acqCatch_keeps {z s : State} (kz : Keeps z s) (d : Nat) :
    Keeps z (acqCatch d s) := by
  unfold acqCatch
  repeat' first
    | lift_lets -underBinder
    | (intro x; refine Keeps.cut (s := z) (t := x) ?_ ?_; unfold x; clear x; rotate_left; intro _; clear_value x; rotate_right)
    | (intro x; clear_value x)
    | (with_reducible first
        | assumption | exact Keeps.refl _ | apply Keeps.ite
        | (apply State.each_keeps; intro _ z; rotate_left; rotate_right) | apply State.draw_keeps
        | apply acqSample_keeps | apply acqStore_keeps)

theorem acqFinish_same {z s : State} (kz : Same z s) (d : Nat) :
    Same z (acqFinish d s) := by
  unfold acqFinish
  repeat' first
    | lift_lets -underBinder
    | (intro x; refine Same.cut (s := z) (t := x) ?_ ?_; unfold x; clear x; rotate_left; intro _; clear_value x; rotate_right)
    | (intro x; clear_value x)
    | (with_reducible first
        | assumption | exact Same.refl _ | apply Same.ite | apply State.draw_same | apply State.setDig_same
        | apply State.p_same | apply State.ringFlags_same | apply State.complete_same
        | refine Same.pair2 (by assumption) ?_ | refine Same.pair3 (by assumption) ?_)
    | (with_reducible apply Same.base; with_reducible first
        | assumption | exact Same.refl _ | apply Same.ite | apply State.draw_same | apply State.setDig_same
        | apply State.p_same | apply State.ringFlags_same | apply State.complete_same
        | refine Same.pair2 (by assumption) ?_ | refine Same.pair3 (by assumption) ?_)
    | split
theorem acqFinish_keeps {z s : State} (kz : Keeps z s) (d : Nat) :
    Keeps z (acqFinish d s) :=
  (acqFinish_same (.refl _) _).keeps.after kz

theorem acqAbort_same {z s : State} (kz : Same z s) (d : Nat) :
    Same z (acqAbort d s) := by
  unfold acqAbort
  repeat' first
    | lift_lets -underBinder
    | (with_reducible first
        | assumption | exact Same.refl _ | apply Same.ite
        | (apply State.when_same; intro z; rotate_left; rotate_right) | apply acqFinish_same | apply acqFlag_same)
theorem acqAbort_keeps {z s : State} (kz : Keeps z s) (d : Nat) :
    Keeps z (acqAbort d s) :=
  (acqAbort_same (.refl _) _).keeps.after kz

theorem acqBegin_same {z s : State} (kz : Same z s) (d did : Nat) (desc : BitVec 512) (aborted : Bool) :
    Same z (acqBegin d did desc aborted s) := by
  unfold acqBegin
  repeat' first
    | lift_lets -underBinder
    | (intro x; refine Same.cut (s := z) (t := x) ?_ ?_; unfold x; clear x; rotate_left; intro _; clear_value x; rotate_right)
    | (with_reducible first
        | assumption | exact Same.refl _ | apply Same.ite | apply State.setDig_same | apply State.p_same
        | apply State.clr_same | apply acqIdxShow_same | apply State.wr_same)
theorem acqBegin_keeps {z s : State} (kz : Keeps z s) (d did : Nat) (desc : BitVec 512) (aborted : Bool) :
    Keeps z (acqBegin d did desc aborted s) :=
  (acqBegin_same (.refl _) _ _ _ _).keeps.after kz

theorem acqRefuse_same {z s : State} (kz : Same z s) (d : BitVec 512) (did : Nat) (st : Status) (detail : Nat) :
    Same z (acqRefuse d did st detail s) := by
  unfold acqRefuse
  repeat' first
    | lift_lets -underBinder
    | (with_reducible first | assumption | exact Same.refl _ | apply Same.ite | apply State.complete_same)
theorem acqRefuse_keeps {z s : State} (kz : Keeps z s) (d : BitVec 512) (did : Nat) (st : Status) (detail : Nat) :
    Keeps z (acqRefuse d did st detail s) :=
  (acqRefuse_same (.refl _) _ _ _ _).keeps.after kz

theorem acqArm_keeps {z s : State} (kz : Keeps z s) (q : Nat) (r : DescRun) :
    Keeps z (acqArm q r s) := by
  unfold acqArm
  repeat' first
    | lift_lets -underBinder
    | (intro x; clear_value x)
    | (with_reducible first
        | assumption | exact Keeps.refl _ | apply Keeps.ite | apply acqRefuse_keeps | apply State.lastErr_keeps
        | apply acqAbort_keeps | apply acqCatch_keeps | apply State.modDig_keeps | apply acqBegin_keeps)

theorem execAcqArm_keeps {z : State} (q : Nat) : RunsKeeps z (execAcqArm q z) := by
  refine ⟨_, rfl, ?_⟩
  repeat' first
    | lift_lets -underBinder
    | (with_reducible first
        | assumption | exact Keeps.refl _ | apply Keeps.ite
        | (apply State.withDesc_keeps; intro _ z; rotate_left; rotate_right) | apply acqArm_keeps)

theorem execAcqSettleDone_same {z : State} (d : Nat) : RunsSame z (execAcqSettleDone d z) := by
  refine ⟨_, rfl, ?_⟩
  repeat' first
    | lift_lets -underBinder
    | (intro x; refine Same.cut (s := z) (t := x) ?_ ?_; unfold x; clear x; rotate_left; intro _; clear_value x; rotate_right)
    | (intro x; clear_value x)
    | (with_reducible first
        | assumption | exact Same.refl _ | apply Same.ite | apply State.setDig_same | apply State.complete_same)
    | (with_reducible apply Same.base; with_reducible first
        | assumption | exact Same.refl _ | apply Same.ite | apply State.setDig_same | apply State.complete_same)
    | split

theorem execAcqPreDone_keeps {z : State} (d : Nat) (data : List Nat) (clip : Bool) : RunsKeeps z (execAcqPreDone d data clip z) := by
  refine ⟨_, rfl, ?_⟩
  repeat' first
    | lift_lets -underBinder
    | (intro x; clear_value x)
    | (with_reducible first
        | assumption | exact Keeps.refl _ | apply Keeps.ite | apply acqStore_keeps | apply State.p_keeps)

theorem acqFire_same {z s : State} (kz : Same z s) (d raw frac flags : Nat) :
    Same z (acqFire d raw frac flags s) := by
  unfold acqFire
  repeat' first
    | lift_lets -underBinder
    | (intro x; refine Same.cut (s := z) (t := x) ?_ ?_; unfold x; clear x; rotate_left; intro _; clear_value x; rotate_right)
    | (intro x; clear_value x)
    | (with_reducible first
        | assumption | exact Same.refl _ | apply Same.ite | apply State.setDig_same
        | (apply State.when_same; intro z; rotate_left; rotate_right) | apply State.set1_same | apply State.p_same
        | apply State.emit_same)
theorem acqFire_keeps {z s : State} (kz : Keeps z s) (d raw frac flags : Nat) :
    Keeps z (acqFire d raw frac flags s) :=
  (acqFire_same (.refl _) _ _ _ _).keeps.after kz

theorem execAcqTrigger_keeps {z : State} (d : Nat) (t : AcqTrig) (raw : Nat) (data : List Nat) (clip : Bool) : RunsKeeps z (execAcqTrigger d t raw data clip z) := by
  refine ⟨_, rfl, ?_⟩
  repeat' first
    | lift_lets -underBinder
    | (intro x; refine Keeps.cut (s := z) (t := x) ?_ ?_; unfold x; clear x; rotate_left; intro _; clear_value x; rotate_right)
    | (intro x; clear_value x)
    | (with_reducible first
        | assumption | exact Keeps.refl _ | apply Keeps.ite | apply State.setDig_keeps | apply acqFlag_keeps
        | apply State.set1_keeps | apply acqFire_keeps | apply acqStore_keeps)
    | (with_reducible apply Keeps.base; with_reducible first
        | assumption | exact Keeps.refl _ | apply Keeps.ite | apply State.setDig_keeps | apply acqFlag_keeps
        | apply State.set1_keeps | apply acqFire_keeps | apply acqStore_keeps)
    | split

theorem execAcqTimeout_keeps {z : State} (d raw : Nat) (data : List Nat) (clip : Bool) : RunsKeeps z (execAcqTimeout d raw data clip z) := by
  refine ⟨_, rfl, ?_⟩
  repeat' first
    | lift_lets -underBinder
    | (with_reducible first
        | assumption | exact Keeps.refl _ | apply Keeps.ite | apply acqFire_keeps | apply acqStore_keeps)

theorem acqForce_keeps {z s : State} (kz : Keeps z s) (d raw : Nat) (data : List Nat) (clip : Bool) :
    Keeps z (acqForce d raw data clip s) := by
  unfold acqForce
  repeat' first
    | lift_lets -underBinder
    | (with_reducible first
        | assumption | exact Keeps.refl _ | apply Keeps.ite
        | (apply State.when_keeps; intro z; rotate_left; rotate_right) | apply acqFire_keeps | apply acqStore_keeps)

theorem execAcqForce_keeps {z : State} (d raw : Nat) (data : List Nat) (clip : Bool) : RunsKeeps z (execAcqForce d raw data clip z) := by
  refine ⟨_, rfl, ?_⟩
  repeat' first
    | lift_lets -underBinder
    | (with_reducible first
        | assumption | exact Keeps.refl _ | apply Keeps.ite
        | (apply State.host_keeps; intro z; rotate_left; rotate_right) | apply acqForce_keeps)

theorem execAcqAbort_keeps {z : State} (d : Nat) (data : List Nat) (clip : Bool) : RunsKeeps z (execAcqAbort d data clip z) := by
  refine ⟨_, rfl, ?_⟩
  repeat' first
    | lift_lets -underBinder
    | (with_reducible first
        | assumption | exact Keeps.refl _ | apply Keeps.ite
        | (apply State.host_keeps; intro z; rotate_left; rotate_right)
        | (apply State.when_keeps; intro z; rotate_left; rotate_right) | apply acqAbort_keeps | apply acqStore_keeps)

theorem execAcqPostDone_keeps {z : State} (d : Nat) (data : List Nat) (clip : Bool) : RunsKeeps z (execAcqPostDone d data clip z) := by
  refine ⟨_, rfl, ?_⟩
  repeat' first
    | lift_lets -underBinder
    | (intro x; clear_value x)
    | (with_reducible first
        | assumption | exact Keeps.refl _ | apply Keeps.ite | apply acqFinish_keeps | apply acqStore_keeps)

theorem acqRecordWrite_same {z s : State} (kz : Same z s) (d : Nat) :
    Same z (acqRecordWrite d s) := by
  unfold acqRecordWrite
  repeat' first
    | lift_lets -underBinder
    | (intro x; refine Same.cut (s := z) (t := x) ?_ ?_; unfold x; clear x; rotate_left; intro _; clear_value x; rotate_right)
    | (intro x; clear_value x)
    | (with_reducible first
        | assumption | exact Same.refl _ | apply Same.ite | apply ringWrite_same | apply State.setDig_same
        | apply State.p_same | apply State.ringFlags_same | apply State.emit_same | apply acqBegin_same)
    | (with_reducible apply Same.base; with_reducible first
        | assumption | exact Same.refl _ | apply Same.ite | apply ringWrite_same | apply State.setDig_same
        | apply State.p_same | apply State.ringFlags_same | apply State.emit_same | apply acqBegin_same)
    | split
theorem acqRecordWrite_keeps {z s : State} (kz : Keeps z s) (d : Nat) :
    Keeps z (acqRecordWrite d s) :=
  (acqRecordWrite_same (.refl _) _).keeps.after kz

theorem execAcqRecordWrite_same {z : State} (d : Nat) : RunsSame z (execAcqRecordWrite d z) := by
  refine ⟨_, rfl, ?_⟩
  repeat' first
    | lift_lets -underBinder
    | (with_reducible first | assumption | exact Same.refl _ | apply Same.ite | apply acqRecordWrite_same)

theorem execAcqDecim_keeps {z : State} (d : Nat) (data : List Nat) (clip : Bool) : RunsKeeps z (execAcqDecim d data clip z) := by
  refine ⟨_, rfl, ?_⟩
  repeat' first
    | lift_lets -underBinder
    | (intro x; refine Keeps.cut (s := z) (t := x) ?_ ?_; unfold x; clear x; rotate_left; intro _; clear_value x; rotate_right)
    | (intro x; clear_value x)
    | (with_reducible first
        | assumption | exact Keeps.refl _ | apply Keeps.ite | apply acqFlag_keeps | apply acqStore_keeps
        | apply State.modDig_keeps | apply State.p_keeps | apply State.set1_keeps | apply State.emit_keeps)

theorem execAcqOverrun_keeps {z : State} (d : Nat) (data : List (Option Nat)) (clip : Bool) : RunsKeeps z (execAcqOverrun d data clip z) := by
  refine ⟨_, rfl, ?_⟩
  repeat' first
    | lift_lets -underBinder
    | (intro x; refine Keeps.cut (s := z) (t := x) ?_ ?_; unfold x; clear x; rotate_left; intro _; clear_value x; rotate_right)
    | (intro x; clear_value x)
    | (with_reducible first
        | assumption | exact Keeps.refl _ | apply Keeps.ite | apply acqFlag_keeps | apply acqStore_keeps
        | apply State.set1_keeps | apply State.count_keeps | apply State.raise_keeps)

theorem acqFence_keeps {z s : State} (kz : Keeps z s) (d : Nat) :
    Keeps z (acqFence d s) := by
  unfold acqFence
  repeat' first
    | lift_lets -underBinder
    | (intro x; refine Keeps.cut (s := z) (t := x) ?_ ?_; unfold x; clear x; rotate_left; intro _; clear_value x; rotate_right)
    | (intro x; clear_value x)
    | (with_reducible first
        | assumption | exact Keeps.refl _ | apply Keeps.ite | apply acqAbort_keeps | apply acqCatch_keeps
        | apply State.setDig_keeps | apply State.draw_keeps | apply State.complete_keeps | apply State.set1_keeps
        | refine Keeps.pair2 (by assumption) ?_)
    | (with_reducible apply Keeps.base; with_reducible first
        | assumption | exact Keeps.refl _ | apply Keeps.ite | apply acqAbort_keeps | apply acqCatch_keeps
        | apply State.setDig_keeps | apply State.draw_keeps | apply State.complete_keeps | apply State.set1_keeps
        | refine Keeps.pair2 (by assumption) ?_)
    | split

theorem acqOff_keeps {z s0 : State} (kz : Keeps z s0) (d : Nat) :
    Keeps z (acqOff d s0) := by
  unfold acqOff
  repeat' first
    | lift_lets -underBinder
    | (intro x; refine Keeps.cut (s := z) (t := x) ?_ ?_; unfold x; clear x; rotate_left; intro _; clear_value x; rotate_right)
    | (intro (x : _ → _ → _ → State); unfold x; clear x)
    | (intro x; clear_value x)
    | (with_reducible first
        | assumption | exact Keeps.refl _ | apply Keeps.ite | apply acqCatch_keeps | apply State.setDig_keeps
        | apply State.p_keeps | apply State.set1_keeps | apply State.draw_keeps | apply State.complete_keeps
        | refine Keeps.pair2 (by assumption) ?_)
    | (with_reducible apply Keeps.base; with_reducible first
        | assumption | exact Keeps.refl _ | apply Keeps.ite | apply acqCatch_keeps | apply State.setDig_keeps
        | apply State.p_keeps | apply State.set1_keeps | apply State.draw_keeps | apply State.complete_keeps
        | refine Keeps.pair2 (by assumption) ?_)
    | split

end Sys2Proof.Machine
end

