-- ==== Sys2Proof/Laws/SameRaster.lean ====
section
/-! SUPPORT. What the operations of Machine.Raster keep: the part, the queue, the canonical tables, and where they store no bulk
memory all of it. -/
set_option linter.unreachableTactic false
set_option linter.unusedTactic false
namespace Sys2Proof.Machine

theorem State.setRs_same {z s : State} (kz : Same z s) (x : RsX) :
    Same z (State.setRs s x) := by
  unfold State.setRs
  repeat' first
    | lift_lets -underBinder
    | (with_reducible first | assumption | exact Same.refl _ | apply Same.ite)
    | (with_reducible apply Same.base; with_reducible assumption)
theorem State.setRs_keeps {z s : State} (kz : Keeps z s) (x : RsX) :
    Keeps z (State.setRs s x) :=
  (State.setRs_same (.refl _) _).keeps.after kz

theorem rsRetire_same {z s : State} (kz : Same z s) (e : Nat × Nat × Bool) :
    Same z (rsRetire e s) := by
  unfold rsRetire
  repeat' first
    | lift_lets -underBinder
    | (with_reducible first | assumption | exact Same.refl _ | apply Same.ite | apply State.rsPut_same)
theorem rsRetire_keeps {z s : State} (kz : Keeps z s) (e : Nat × Nat × Bool) :
    Keeps z (rsRetire e s) :=
  (rsRetire_same (.refl _) _).keeps.after kz

theorem rsUnderRec_same {z s : State} (kz : Same z s) (l line pixels : Nat) :
    Same z (rsUnderRec l line pixels s) := by
  unfold rsUnderRec
  repeat' first
    | lift_lets -underBinder
    | (intro x; clear_value x)
    | (with_reducible first
        | assumption | exact Same.refl _ | apply Same.ite | apply State.rsPut_same | apply State.setRs_same
        | apply State.set1_same)
theorem rsUnderRec_keeps {z s : State} (kz : Keeps z s) (l line pixels : Nat) :
    Keeps z (rsUnderRec l line pixels s) :=
  (rsUnderRec_same (.refl _) _ _ _).keeps.after kz

theorem rsGap_same {z s : State} (kz : Same z s) :
    Same z (rsGap s) := by
  unfold rsGap
  repeat' first
    | lift_lets -underBinder
    | (with_reducible first | assumption | exact Same.refl _ | apply Same.ite | apply State.dropsOut_same)
theorem rsGap_keeps {z s : State} (kz : Keeps z s) :
    Keeps z (rsGap s) :=
  (rsGap_same (.refl _)).keeps.after kz

theorem execRsRecordWrite_same {z : State}  : RunsSame z (execRsRecordWrite z) := by
  refine ⟨_, rfl, ?_⟩
  repeat' first
    | lift_lets -underBinder
    | (intro x; clear_value x)
    | (with_reducible first
        | assumption | exact Same.refl _ | apply Same.ite | apply rsGap_same | apply ringWrite_same
        | apply State.setRs_same | apply State.ringFlags_same)
    | (with_reducible apply Same.base; with_reducible first
        | assumption | exact Same.refl _ | apply Same.ite | apply rsGap_same | apply ringWrite_same
        | apply State.setRs_same | apply State.ringFlags_same)
    | split

theorem rsDone_same {z s : State} (kz : Same z s) (did seq : Nat) (st : Status) (detail : Nat) :
    Same z (rsDone did seq st detail s) := by
  unfold rsDone
  repeat' first
    | lift_lets -underBinder
    | (with_reducible first | assumption | exact Same.refl _ | apply Same.ite | apply State.complete_same)
theorem rsDone_keeps {z s : State} (kz : Keeps z s) (did seq : Nat) (st : Status) (detail : Nat) :
    Keeps z (rsDone did seq st detail s) :=
  (rsDone_same (.refl _) _ _ _ _).keeps.after kz

theorem rasterCommit_same {z s : State} (kz : Same z s) (q line : Nat) (ok : Bool) (block : BitVec 2048) (r : DescRun) :
    Same z (rasterCommit q line ok block r s) := by
  unfold rasterCommit
  repeat' first
    | lift_lets -underBinder
    | (intro x; refine Same.cut (s := z) (t := x) ?_ ?_; unfold x; clear x; rotate_left; intro _; clear_value x; rotate_right)
    | (intro (x : _ → _ → _ → State); unfold x; clear x)
    | (intro x; clear_value x)
    | (intro x; unfold x; clear x)
    | (with_reducible first
        | assumption | exact Same.refl _ | apply Same.ite | apply State.complete_same | apply State.lastErr_same
        | apply State.setRs_same | apply State.send_same | apply State.set1_same
        | (apply State.when_same; intro z; rotate_left; rotate_right) | apply State.p_same)
theorem rasterCommit_keeps {z s : State} (kz : Keeps z s) (q line : Nat) (ok : Bool) (block : BitVec 2048) (r : DescRun) :
    Keeps z (rasterCommit q line ok block r s) :=
  (rasterCommit_same (.refl _) _ _ _ _ _).keeps.after kz

theorem execRasterCommit_same {z : State} (q line : Nat) (ok : Bool) (block : BitVec 2048) : RunsSame z (execRasterCommit q line ok block z) := by
  refine ⟨_, rfl, ?_⟩
  repeat' first
    | lift_lets -underBinder
    | (with_reducible first
        | assumption | exact Same.refl _ | apply Same.ite
        | (apply State.withDesc_same; intro _ z; rotate_left; rotate_right) | apply rasterCommit_same)

theorem rsShow_same {z s : State} (kz : Same z s) (k : BitVec 2048) :
    Same z (rsShow k s) := by
  unfold rsShow
  repeat' first
    | lift_lets -underBinder
    | (intro x; clear_value x)
    | (with_reducible first
        | assumption | exact Same.refl _ | apply Same.ite | apply State.p_same
        | (apply State.each_same; intro _ z; rotate_left; rotate_right))
theorem rsShow_keeps {z s : State} (kz : Keeps z s) (k : BitVec 2048) :
    Keeps z (rsShow k s) :=
  (rsShow_same (.refl _) _).keeps.after kz

theorem rsCommitApply_same {z s : State} (kz : Same z s) (p : RsPend) :
    Same z (rsCommitApply p s) := by
  unfold rsCommitApply
  repeat' first
    | lift_lets -underBinder
    | (intro x; refine Same.cut (s := z) (t := x) ?_ ?_; unfold x; clear x; rotate_left; intro _; clear_value x; rotate_right)
    | (intro x; clear_value x)
    | (with_reducible first
        | assumption | exact Same.refl _ | apply Same.ite | apply rsShow_same | apply State.setRs_same
        | apply State.clr_same | apply State.p_same | (apply State.when_same; intro z; rotate_left; rotate_right)
        | apply State.set1_same | (apply State.over_same; intro _ z; rotate_left; rotate_right) | apply rsRetire_same
        | apply rsDone_same)
theorem rsCommitApply_keeps {z s : State} (kz : Keeps z s) (p : RsPend) :
    Keeps z (rsCommitApply p s) :=
  (rsCommitApply_same (.refl _) _).keeps.after kz

theorem execRsCommitApply_same {z : State}  : RunsSame z (execRsCommitApply z) := by
  refine ⟨_, rfl, ?_⟩
  repeat' first
    | lift_lets -underBinder
    | (with_reducible first | assumption | exact Same.refl _ | apply Same.ite | apply rsCommitApply_same)
    | (with_reducible apply Same.base; with_reducible first
        | assumption | exact Same.refl _ | apply Same.ite | apply rsCommitApply_same)
    | split

theorem execRsKillApply_same {z : State}  : RunsSame z (execRsKillApply z) := by
  refine ⟨_, rfl, ?_⟩
  repeat' first
    | lift_lets -underBinder
    | (intro x; refine Same.cut (s := z) (t := x) ?_ ?_; unfold x; clear x; rotate_left; intro _; clear_value x; rotate_right)
    | (intro x; clear_value x)
    | (with_reducible first
        | assumption | exact Same.refl _ | apply Same.ite | apply State.setRs_same | apply rsDone_same
        | apply State.p_same | apply State.set1_same)
    | (with_reducible apply Same.base; with_reducible first
        | assumption | exact Same.refl _ | apply Same.ite | apply State.setRs_same | apply rsDone_same
        | apply State.p_same | apply State.set1_same)
    | split

theorem rsPos_same {z s : State} (kz : Same z s) (line pixel : Nat) :
    Same z (rsPos line pixel s) := by
  unfold rsPos
  repeat' first
    | lift_lets -underBinder
    | (with_reducible first | assumption | exact Same.refl _ | apply Same.ite | apply State.p_same)
theorem rsPos_keeps {z s : State} (kz : Keeps z s) (line pixel : Nat) :
    Keeps z (rsPos line pixel s) :=
  (rsPos_same (.refl _) _ _).keeps.after kz

theorem execRsStartBlank_same {z : State}  : RunsSame z (execRsStartBlank z) := by
  refine ⟨_, rfl, ?_⟩
  repeat' first
    | lift_lets -underBinder
    | (intro x; clear_value x)
    | (with_reducible first
        | assumption | exact Same.refl _ | apply Same.ite | apply rsPos_same | apply State.setRs_same
        | apply State.emit_same)

theorem execRsLineMatch_same {z : State}  : RunsSame z (execRsLineMatch z) := by
  refine ⟨_, rfl, ?_⟩
  repeat' first
    | lift_lets -underBinder
    | (with_reducible first
        | assumption | exact Same.refl _ | apply Same.ite | apply rsPos_same | apply State.emit_same)

theorem execRsFrameDone_same {z : State}  : RunsSame z (execRsFrameDone z) := by
  refine ⟨_, rfl, ?_⟩
  repeat' first
    | lift_lets -underBinder
    | (intro x; refine Same.cut (s := z) (t := x) ?_ ?_; unfold x; clear x; rotate_left; intro _; clear_value x; rotate_right)
    | (intro x; clear_value x)
    | (with_reducible first
        | assumption | exact Same.refl _ | apply Same.ite | apply rsPos_same | apply State.setRs_same
        | (apply State.over_same; intro _ z; rotate_left; rotate_right) | apply rsRetire_same | apply State.emit_same)

theorem execRsUnderrun_same {z : State} (l line pixels : Nat) : RunsSame z (execRsUnderrun l line pixels z) := by
  refine ⟨_, rfl, ?_⟩
  repeat' first
    | lift_lets -underBinder
    | (intro x; refine Same.cut (s := z) (t := x) ?_ ?_; unfold x; clear x; rotate_left; intro _; clear_value x; rotate_right)
    | (intro x; clear_value x)
    | (with_reducible first
        | assumption | exact Same.refl _ | apply Same.ite | apply State.setRs_same | apply rsUnderRec_same
        | apply State.set1_same | apply State.count_same | apply State.emit_same)

theorem execRsResyncEnd_same {z : State}  : RunsSame z (execRsResyncEnd z) := by
  refine ⟨_, rfl, ?_⟩
  repeat' first
    | lift_lets -underBinder
    | (with_reducible first | assumption | exact Same.refl _ | apply Same.ite | apply State.p_same)

theorem execRsFrameIncrement_same {z : State}  : RunsSame z (execRsFrameIncrement z) := by
  refine ⟨_, rfl, ?_⟩
  repeat' first
    | lift_lets -underBinder
    | (intro x; clear_value x)
    | (with_reducible first
        | assumption | exact Same.refl _ | apply Same.ite | apply rsPos_same | apply State.setRs_same
        | apply State.p_same)

theorem rsLaneWrite_same {z s : State} (kz : Same z s) (k : Nat) (v : Word) :
    Same z (rsLaneWrite k v s) := by
  unfold rsLaneWrite
  repeat' first
    | lift_lets -underBinder
    | (intro x; refine Same.cut (s := z) (t := x) ?_ ?_; unfold x; clear x; rotate_left; intro _; clear_value x; rotate_right)
    | (intro x; clear_value x)
    | (with_reducible first
        | assumption | exact Same.refl _ | apply Same.ite
        | (apply State.when_same; intro z; rotate_left; rotate_right) | apply State.set1_same | apply State.wr_same)
theorem rsLaneWrite_keeps {z s : State} (kz : Keeps z s) (k : Nat) (v : Word) :
    Keeps z (rsLaneWrite k v s) :=
  (rsLaneWrite_same (.refl _) _ _).keeps.after kz

theorem execRsLaneWrite_same {z : State} (k : Nat) (v : Word) : RunsSame z (execRsLaneWrite k v z) := by
  refine ⟨_, rfl, ?_⟩
  repeat' first
    | lift_lets -underBinder
    | (with_reducible first
        | assumption | exact Same.refl _ | apply Same.ite
        | (apply State.host_same; intro z; rotate_left; rotate_right) | apply rsLaneWrite_same)

theorem rsSafe_same {z s : State} (kz : Same z s) :
    Same z (rsSafe s) := by
  unfold rsSafe
  repeat' first
    | lift_lets -underBinder
    | (intro x; refine Same.cut (s := z) (t := x) ?_ ?_; unfold x; clear x; rotate_left; intro _; clear_value x; rotate_right)
    | (intro (x : _ → _ → _ → State); unfold x; clear x)
    | (intro x; clear_value x)
    | (with_reducible first
        | assumption | exact Same.refl _ | apply Same.ite | apply State.setRs_same | apply State.clr_same
        | apply State.p_same | apply State.draw_same | apply rsDone_same | refine Same.pair2 (by assumption) ?_)
    | (with_reducible apply Same.base; with_reducible first
        | assumption | exact Same.refl _ | apply Same.ite | apply State.setRs_same | apply State.clr_same
        | apply State.p_same | apply State.draw_same | apply rsDone_same | refine Same.pair2 (by assumption) ?_)
    | split
theorem rsSafe_keeps {z s : State} (kz : Keeps z s) :
    Keeps z (rsSafe s) :=
  (rsSafe_same (.refl _)).keeps.after kz

end Sys2Proof.Machine
end

