-- ==== Sys2Proof/Laws/SameEvents.lean ====
section
/-! SUPPORT. What the operations of Machine.Events keep: the part, the queue, the canonical tables, and where they store no bulk
memory all of it. -/
set_option linter.unreachableTactic false
set_option linter.unusedTactic false
namespace Sys2Proof.Machine

theorem tmOut_same {z s : State} (kz : Same z s) (k : Nat) (b : Bool) :
    Same z (tmOut k b s) := by
  unfold tmOut
  repeat' first
    | lift_lets -underBinder
    | (with_reducible first
        | assumption | exact Same.refl _ | apply Same.ite | apply State.pb_same
        | (apply State.each_same; intro _ z; rotate_left; rotate_right) | apply blankHall_same)
theorem tmOut_keeps {z s : State} (kz : Keeps z s) (k : Nat) (b : Bool) :
    Keeps z (tmOut k b s) :=
  (tmOut_same (.refl _) _ _).keeps.after kz

theorem tmAssert_same {z s : State} (kz : Same z s) (k : Nat) :
    Same z (tmAssert k s) := by
  unfold tmAssert
  repeat' first
    | lift_lets -underBinder
    | (with_reducible first
        | assumption | exact Same.refl _ | apply Same.ite | apply tmOut_same | apply State.emit_same)
theorem tmAssert_keeps {z s : State} (kz : Keeps z s) (k : Nat) :
    Keeps z (tmAssert k s) :=
  (tmAssert_same (.refl _) _).keeps.after kz

theorem tmStart_same {z s : State} (kz : Same z s) (k c : Nat) :
    Same z (tmStart k c s) := by
  unfold tmStart
  repeat' first
    | lift_lets -underBinder
    | (intro x; refine Same.cut (s := z) (t := x) ?_ ?_; unfold x; clear x; rotate_left; intro _; clear_value x; rotate_right)
    | (with_reducible first
        | assumption | exact Same.refl _ | apply Same.ite | apply State.set1_same | apply tmAssert_same
        | (apply State.when_same; intro z; rotate_left; rotate_right) | apply tmOut_same)
    | (with_reducible apply Same.base; with_reducible first
        | assumption | (apply State.when_same; intro z; rotate_left; rotate_right))
theorem tmStart_keeps {z s : State} (kz : Keeps z s) (k c : Nat) :
    Keeps z (tmStart k c s) :=
  (tmStart_same (.refl _) _ _).keeps.after kz

theorem tmTrigger_same {z s : State} (kz : Same z s) (k c : Nat) :
    Same z (tmTrigger k c s) := by
  unfold tmTrigger
  repeat' first
    | lift_lets -underBinder
    | (with_reducible first
        | assumption | exact Same.refl _ | apply Same.ite
        | (apply State.when_same; intro z; rotate_left; rotate_right) | apply tmStart_same)
theorem tmTrigger_keeps {z s : State} (kz : Keeps z s) (k c : Nat) :
    Keeps z (tmTrigger k c s) :=
  (tmTrigger_same (.refl _) _ _).keeps.after kz

theorem tmHalt_same {z s : State} (kz : Same z s) (k : Nat) :
    Same z (tmHalt k s) := by
  unfold tmHalt
  repeat' first
    | lift_lets -underBinder
    | (with_reducible first
        | assumption | exact Same.refl _ | apply Same.ite
        | (apply State.when_same; intro z; rotate_left; rotate_right) | apply tmOut_same | apply State.clr_same)
theorem tmHalt_keeps {z s : State} (kz : Keeps z s) (k : Nat) :
    Keeps z (tmHalt k s) :=
  (tmHalt_same (.refl _) _).keeps.after kz

theorem tmCtlWrite_same {z s : State} (kz : Same z s) (k : Nat) (v : Word) :
    Same z (tmCtlWrite k v s) := by
  unfold tmCtlWrite
  repeat' first
    | lift_lets -underBinder
    | (intro x; refine Same.cut (s := z) (t := x) ?_ ?_; unfold x; clear x; rotate_left; intro _; clear_value x; rotate_right)
    | (intro x; clear_value x)
    | (with_reducible first
        | assumption | exact Same.refl _ | apply Same.ite | apply State.set1_same | apply State.cfgWr_same
        | (apply State.when_same; intro z; rotate_left; rotate_right) | apply tmHalt_same | apply tmTrigger_same)
theorem tmCtlWrite_keeps {z s : State} (kz : Keeps z s) (k : Nat) (v : Word) :
    Keeps z (tmCtlWrite k v s) :=
  (tmCtlWrite_same (.refl _) _ _).keeps.after kz

theorem execTmGo_same {z : State} (k : Nat) (v : Word) : RunsSame z (execTmGo k v z) := by
  refine ⟨_, rfl, ?_⟩
  repeat' first
    | lift_lets -underBinder
    | (with_reducible first
        | assumption | exact Same.refl _ | apply Same.ite
        | (apply State.host_same; intro z; rotate_left; rotate_right) | apply tmCtlWrite_same)

theorem execTmStop_same {z : State} (k : Nat) (v : Word) : RunsSame z (execTmStop k v z) := by
  refine ⟨_, rfl, ?_⟩
  repeat' first
    | lift_lets -underBinder
    | (with_reducible first
        | assumption | exact Same.refl _ | apply Same.ite
        | (apply State.host_same; intro z; rotate_left; rotate_right) | apply tmCtlWrite_same)

theorem tmRegWrite_same {z s : State} (kz : Same z s) (k which : Nat) (v : Word) :
    Same z (tmRegWrite k which v s) := by
  unfold tmRegWrite
  repeat' first
    | lift_lets -underBinder
    | (intro x; refine Same.cut (s := z) (t := x) ?_ ?_; unfold x; clear x; rotate_left; intro _; clear_value x; rotate_right)
    | (intro x; clear_value x)
    | (with_reducible first
        | assumption | exact Same.refl _ | apply Same.ite
        | (apply State.when_same; intro z; rotate_left; rotate_right) | apply State.set1_same
        | apply State.cfgWr_same)
theorem tmRegWrite_keeps {z s : State} (kz : Keeps z s) (k which : Nat) (v : Word) :
    Keeps z (tmRegWrite k which v s) :=
  (tmRegWrite_same (.refl _) _ _ _).keeps.after kz

theorem execTimerOutput_same {z : State} (k : Nat) : RunsSame z (execTimerOutput k z) := by
  refine ⟨_, rfl, ?_⟩
  repeat' first
    | lift_lets -underBinder
    | (with_reducible first | assumption | exact Same.refl _ | apply Same.ite | apply tmAssert_same)

theorem execTimerWindowEnd_same {z : State} (k : Nat) : RunsSame z (execTimerWindowEnd k z) := by
  refine ⟨_, rfl, ?_⟩
  repeat' first
    | lift_lets -underBinder
    | (intro x; refine Same.cut (s := z) (t := x) ?_ ?_; unfold x; clear x; rotate_left; intro _; clear_value x; rotate_right)
    | (with_reducible first
        | assumption | exact Same.refl _ | apply Same.ite | apply tmOut_same
        | (apply State.when_same; intro z; rotate_left; rotate_right) | apply State.clr_same)
    | (with_reducible apply Same.base; with_reducible first
        | assumption | exact Same.refl _ | (apply State.when_same; intro z; rotate_left; rotate_right))

theorem timersOff_same {z s : State} (kz : Same z s) :
    Same z (timersOff s) := by
  unfold timersOff
  repeat' first
    | lift_lets -underBinder
    | (intro x; refine Same.cut (s := z) (t := x) ?_ ?_; unfold x; clear x; rotate_left; intro _; clear_value x; rotate_right)
    | (with_reducible first
        | assumption | exact Same.refl _ | apply Same.ite
        | (apply State.each_same; intro _ z; rotate_left; rotate_right) | apply tmHalt_same)
    | (with_reducible apply Same.base; with_reducible first
        | assumption | (apply State.each_same; intro _ z; rotate_left; rotate_right))
theorem timersOff_keeps {z s : State} (kz : Keeps z s) :
    Keeps z (timersOff s) :=
  (timersOff_same (.refl _)).keeps.after kz

theorem evFlag_same {z s : State} (kz : Same z s) (e : Nat) (b : Bool) :
    Same z (evFlag e b s) := by
  unfold evFlag
  repeat' first
    | lift_lets -underBinder
    | (intro x; clear_value x)
    | (with_reducible first
        | assumption | exact Same.refl _ | apply Same.ite | apply State.set1_same | apply State.clr_same
        | apply State.p_same)
theorem evFlag_keeps {z s : State} (kz : Keeps z s) (e : Nat) (b : Bool) :
    Keeps z (evFlag e b s) :=
  (evFlag_same (.refl _) _ _).keeps.after kz

theorem evAssert_same {z s : State} (kz : Same z s) (e c : Nat) (merged : Bool) :
    Same z (evAssert e c merged s) := by
  unfold evAssert
  repeat' first
    | lift_lets -underBinder
    | (intro x; refine Same.cut (s := z) (t := x) ?_ ?_; unfold x; clear x; rotate_left; intro _; clear_value x; rotate_right)
    | (intro x; clear_value x)
    | (with_reducible first
        | assumption | exact Same.refl _ | apply Same.ite
        | (apply State.when_same; intro z; rotate_left; rotate_right) | apply State.vecCount_same | apply evFlag_same
        | apply State.set1_same | apply State.count_same)
theorem evAssert_keeps {z s : State} (kz : Keeps z s) (e c : Nat) (merged : Bool) :
    Keeps z (evAssert e c merged s) :=
  (evAssert_same (.refl _) _ _ _).keeps.after kz

theorem State.setEvPulse_same {z s : State} (kz : Same z s) (n c : Nat) :
    Same z (State.setEvPulse s n c) := by
  unfold State.setEvPulse
  repeat' first
    | lift_lets -underBinder
    | (with_reducible first | assumption | exact Same.refl _ | apply Same.ite)
    | (with_reducible apply Same.base; with_reducible assumption)
theorem State.setEvPulse_keeps {z s : State} (kz : Keeps z s) (n c : Nat) :
    Keeps z (State.setEvPulse s n c) :=
  (State.setEvPulse_same (.refl _) _ _).keeps.after kz

theorem evAct_same {z s : State} (kz : Same z s) (i c : Nat) (es : List Nat) :
    Same z (evAct i c es s) := by
  unfold evAct
  repeat' first
    | lift_lets -underBinder
    | (intro x; clear_value x)
    | (with_reducible first
        | assumption | exact Same.refl _ | apply Same.ite
        | (apply State.over_same; intro _ z; rotate_left; rotate_right)
        | (apply State.each_same; intro _ z; rotate_left; rotate_right)
        | (apply State.when_same; intro z; rotate_left; rotate_right) | apply hevSet_same | apply tmTrigger_same
        | apply State.modDig_same | apply State.setEvPulse_same)
    | (with_reducible apply Same.base; with_reducible first
        | assumption | exact Same.refl _ | (apply State.over_same; intro _ z; rotate_left; rotate_right)
        | (apply State.each_same; intro _ z; rotate_left; rotate_right)
        | (apply State.when_same; intro z; rotate_left; rotate_right))
theorem evAct_keeps {z s : State} (kz : Keeps z s) (i c : Nat) (es : List Nat) :
    Keeps z (evAct i c es s) :=
  (evAct_same (.refl _) _ _ _).keeps.after kz

theorem evMark_same {z s : State} (kz : Same z s) (f : Nat → FRef) (i : Nat) :
    Same z (evMark f i s) := by
  unfold evMark
  repeat' first
    | lift_lets -underBinder
    | (with_reducible first | assumption | exact Same.refl _ | apply Same.ite | apply State.setBit_same)
theorem evMark_keeps {z s : State} (kz : Keeps z s) (f : Nat → FRef) (i : Nat) :
    Keeps z (evMark f i s) :=
  (evMark_same (.refl _) _ _).keeps.after kz

theorem evDeliver_same {z s : State} (kz : Same z s) (c : Nat) (asserted : List Nat) (i : Nat) :
    Same z (evDeliver c asserted i s) := by
  unfold evDeliver
  repeat' first
    | lift_lets -underBinder
    | (intro x; refine Same.cut (s := z) (t := x) ?_ ?_; unfold x; clear x; rotate_left; intro _; clear_value x; rotate_right)
    | (intro x; clear_value x)
    | (with_reducible first
        | assumption | exact Same.refl _ | apply Same.ite
        | (apply State.when_same; intro z; rotate_left; rotate_right) | apply evMark_same | apply evAct_same)
theorem evDeliver_keeps {z s : State} (kz : Keeps z s) (c : Nat) (asserted : List Nat) (i : Nat) :
    Keeps z (evDeliver c asserted i s) :=
  (evDeliver_same (.refl _) _ _ _).keeps.after kz

theorem evRefract_same {z s : State} (kz : Same z s) (c : Nat) (ps : List Nat) :
    Same z (evRefract c ps s) := by
  unfold evRefract
  repeat' first
    | lift_lets -underBinder
    | (with_reducible first
        | assumption | exact Same.refl _ | apply Same.ite
        | (apply State.over_same; intro _ z; rotate_left; rotate_right) | apply State.count_same | apply State.p_same)
    | (with_reducible apply Same.base; with_reducible first
        | assumption | exact Same.refl _ | (apply State.over_same; intro _ z; rotate_left; rotate_right))
theorem evRefract_keeps {z s : State} (kz : Keeps z s) (c : Nat) (ps : List Nat) :
    Keeps z (evRefract c ps s) :=
  (evRefract_same (.refl _) _ _).keeps.after kz

theorem evLeave_same {z s : State} (kz : Same z s) (c : Nat) (ps : List Nat) :
    Same z (evLeave c ps s) := by
  unfold evLeave
  repeat' first
    | lift_lets -underBinder
    | (intro x; refine Same.cut (s := z) (t := x) ?_ ?_; unfold x; clear x; rotate_left; intro _; clear_value x; rotate_right)
    | (intro x; clear_value x)
    | (with_reducible first
        | assumption | exact Same.refl _ | apply Same.ite | apply evRefract_same
        | (apply State.over_same; intro _ z; rotate_left; rotate_right) | apply evAssert_same
        | (apply State.each_same; intro _ z; rotate_left; rotate_right) | apply evDeliver_same)
theorem evLeave_keeps {z s : State} (kz : Keeps z s) (c : Nat) (ps : List Nat) :
    Keeps z (evLeave c ps s) :=
  (evLeave_same (.refl _) _ _).keeps.after kz

theorem execEventEmit_same {z : State} (trigin : Bool) : RunsSame z (execEventEmit trigin z) := by
  refine ⟨_, rfl, ?_⟩
  repeat' first
    | lift_lets -underBinder
    | (intro x; clear_value x)
    | (with_reducible first | assumption | exact Same.refl _ | apply Same.ite | apply evLeave_same)
    | (with_reducible apply Same.base; with_reducible first
        | assumption | exact Same.refl _ | apply Same.ite | apply evLeave_same)
    | split

theorem evStore_same {z s : State} (kz : Same z s) (a : Nat) (w : Word) :
    Same z (evStore a w s) := by
  unfold evStore
  repeat' first
    | lift_lets -underBinder
    | (intro x; refine Same.cut (s := z) (t := x) ?_ ?_; unfold x; clear x; rotate_left; intro _; clear_value x; rotate_right)
    | (with_reducible first | assumption | exact Same.refl _ | apply Same.ite | apply State.cfgWr_same)
    | (with_reducible apply Same.base; with_reducible assumption)
theorem evStore_keeps {z s : State} (kz : Keeps z s) (a : Nat) (w : Word) :
    Keeps z (evStore a w s) :=
  (evStore_same (.refl _) _ _).keeps.after kz

theorem evCfgWrite_same {z s : State} (kz : Same z s) (e : Nat) (r : EvReg) (v : Word) :
    Same z (evCfgWrite e r v s) := by
  unfold evCfgWrite
  repeat' first
    | lift_lets -underBinder
    | (intro x; clear_value x)
    | (with_reducible first
        | assumption | exact Same.refl _ | apply Same.ite | apply State.set1_same | apply evStore_same)
    | (with_reducible apply Same.base; with_reducible first
        | assumption | exact Same.refl _ | apply Same.ite | apply State.set1_same | apply evStore_same)
    | split
theorem evCfgWrite_keeps {z s : State} (kz : Keeps z s) (e : Nat) (r : EvReg) (v : Word) :
    Keeps z (evCfgWrite e r v s) :=
  (evCfgWrite_same (.refl _) _ _ _).keeps.after kz

theorem execEvConfigWrite_same {z : State} (e : Nat) (r : EvReg) (v : Word) : RunsSame z (execEvConfigWrite e r v z) := by
  refine ⟨_, rfl, ?_⟩
  repeat' first
    | lift_lets -underBinder
    | (with_reducible first
        | assumption | exact Same.refl _ | apply Same.ite
        | (apply State.host_same; intro z; rotate_left; rotate_right) | apply evCfgWrite_same)

theorem evRefractWrite_same {z s : State} (kz : Same z s) (j : Nat) (v : Word) :
    Same z (evRefractWrite j v s) := by
  unfold evRefractWrite
  repeat' first
    | lift_lets -underBinder
    | (with_reducible first
        | assumption | exact Same.refl _ | apply Same.ite | apply State.set1_same | apply State.cfgWr_same)
theorem evRefractWrite_keeps {z s : State} (kz : Keeps z s) (j : Nat) (v : Word) :
    Keeps z (evRefractWrite j v s) :=
  (evRefractWrite_same (.refl _) _ _).keeps.after kz

theorem evSwset_same {z s : State} (kz : Same z s) (hi : Bool) (v : Word) :
    Same z (evSwset hi v s) := by
  unfold evSwset
  repeat' first
    | lift_lets -underBinder
    | (with_reducible first
        | assumption | exact Same.refl _ | apply Same.ite
        | (apply State.over_same; intro _ z; rotate_left; rotate_right) | apply State.emit_same)
theorem evSwset_keeps {z s : State} (kz : Keeps z s) (hi : Bool) (v : Word) :
    Keeps z (evSwset hi v s) :=
  (evSwset_same (.refl _) _ _).keeps.after kz

theorem execEvSwset_same {z : State} (hi : Bool) (v : Word) : RunsSame z (execEvSwset hi v z) := by
  refine ⟨_, rfl, ?_⟩
  repeat' first
    | lift_lets -underBinder
    | (with_reducible first
        | assumption | exact Same.refl _ | apply Same.ite
        | (apply State.host_same; intro z; rotate_left; rotate_right) | apply evSwset_same)

theorem evForeign_same {z s : State} (kz : Same z s) (d : Nat) (hi : Bool) (v : Word) :
    Same z (evForeign d hi v s) := by
  unfold evForeign
  repeat' first
    | lift_lets -underBinder
    | (with_reducible first
        | assumption | exact Same.refl _ | apply Same.ite
        | (apply State.when_same; intro z; rotate_left; rotate_right) | apply foreignDoorbell_same)
theorem evForeign_keeps {z s : State} (kz : Keeps z s) (d : Nat) (hi : Bool) (v : Word) :
    Keeps z (evForeign d hi v s) :=
  (evForeign_same (.refl _) _ _ _).keeps.after kz

theorem jWindow_same {z s : State} (kz : Same z s) (d : Nat) :
    Same z (jWindow d s) := by
  unfold jWindow
  repeat' first
    | lift_lets -underBinder
    | (with_reducible first
        | assumption | exact Same.refl _ | apply Same.ite | apply State.draw_same | apply jDoorbell_same)
theorem jWindow_keeps {z s : State} (kz : Keeps z s) (d : Nat) :
    Keeps z (jWindow d s) :=
  (jWindow_same (.refl _) _).keeps.after kz

theorem evdSwset_same {z s : State} (kz : Same z s) (d : Nat) (hi : Bool) (v : Word) :
    Same z (evdSwset d hi v s) := by
  unfold evdSwset
  repeat' first
    | lift_lets -underBinder
    | (intro x; refine Same.cut (s := z) (t := x) ?_ ?_; unfold x; clear x; rotate_left; intro _; clear_value x; rotate_right)
    | (intro x; clear_value x)
    | (with_reducible first
        | assumption | exact Same.refl _ | apply Same.ite | apply evForeign_same | apply jWindow_same
        | (apply State.over_same; intro _ z; rotate_left; rotate_right) | apply State.emit_same)
theorem evdSwset_keeps {z s : State} (kz : Keeps z s) (d : Nat) (hi : Bool) (v : Word) :
    Keeps z (evdSwset d hi v s) :=
  (evdSwset_same (.refl _) _ _ _).keeps.after kz

theorem execEvdSwset_same {z : State} (d : Nat) (hi : Bool) (v : Word) : RunsSame z (execEvdSwset d hi v z) := by
  refine ⟨_, rfl, ?_⟩
  repeat' first
    | lift_lets -underBinder
    | (with_reducible first
        | assumption | exact Same.refl _ | apply Same.ite
        | (apply State.host_same; intro z; rotate_left; rotate_right) | apply evdSwset_same)

theorem evdFlagWrite_same {z s : State} (kz : Same z s) (d : Nat) (hi : Bool) (v : Word) :
    Same z (evdFlagWrite d hi v s) := by
  unfold evdFlagWrite
  repeat' first
    | lift_lets -underBinder
    | (intro x; refine Same.cut (s := z) (t := x) ?_ ?_; unfold x; clear x; rotate_left; intro _; clear_value x; rotate_right)
    | (intro x; clear_value x)
    | (with_reducible first
        | assumption | exact Same.refl _ | apply Same.ite | apply evForeign_same | apply jWindow_same
        | (apply State.over_same; intro _ z; rotate_left; rotate_right)
        | (apply State.when_same; intro z; rotate_left; rotate_right) | apply evFlag_same)
theorem evdFlagWrite_keeps {z s : State} (kz : Keeps z s) (d : Nat) (hi : Bool) (v : Word) :
    Keeps z (evdFlagWrite d hi v s) :=
  (evdFlagWrite_same (.refl _) _ _ _).keeps.after kz

theorem evStatWrite_same {z s : State} (kz : Same z s) (e : Nat) (v : Word) :
    Same z (evStatWrite e v s) := by
  unfold evStatWrite
  repeat' first
    | lift_lets -underBinder
    | (with_reducible first
        | assumption | exact Same.refl _ | apply Same.ite
        | (apply State.when_same; intro z; rotate_left; rotate_right) | apply evFlag_same | apply State.clr_same)
theorem evStatWrite_keeps {z s : State} (kz : Keeps z s) (e : Nat) (v : Word) :
    Keeps z (evStatWrite e v s) :=
  (evStatWrite_same (.refl _) _ _).keeps.after kz

theorem execJournalMarkDrain_same {z : State}  : RunsSame z (execJournalMarkDrain z) := by
  refine ⟨_, rfl, ?_⟩
  repeat' first
    | lift_lets -underBinder
    | (intro x; clear_value x)
    | (with_reducible first | assumption | exact Same.refl _ | apply Same.ite | apply State.j_same)
    | (with_reducible apply Same.base; with_reducible first
        | assumption | exact Same.refl _ | apply Same.ite | apply State.j_same)
    | split

theorem execTrigoutPulseEnd_same {z : State} (n : Nat) (hall : Option Nat) : RunsSame z (execTrigoutPulseEnd n hall z) := by
  refine ⟨_, rfl, ?_⟩
  repeat' first
    | lift_lets -underBinder
    | (with_reducible first
        | assumption | exact Same.refl _ | apply Same.ite | apply flightPulseEnd_same | apply State.setEvPulse_same)
    | (with_reducible apply Same.base; with_reducible first
        | assumption | exact Same.refl _ | apply Same.ite | apply flightPulseEnd_same | apply State.setEvPulse_same)
    | split

end Sys2Proof.Machine
end

