-- ==== Sys2Proof/Laws/SameGallery.lean ====
section
/-! SUPPORT. What the operations of Machine.Gallery keep: the part, the queue, the canonical tables, and where they store no bulk
memory all of it. -/
set_option linter.unreachableTactic false
set_option linter.unusedTactic false
namespace Sys2Proof.Machine

theorem tbEnter_same {z s : State} (kz : Same z s) (st : Nat) :
    Same z (tbEnter st s) := by
  unfold tbEnter
  repeat' first
    | lift_lets -underBinder
    | (intro x; refine Same.cut (s := z) (t := x) ?_ ?_; unfold x; clear x; rotate_left; intro _; clear_value x; rotate_right)
    | (intro x; clear_value x)
    | (with_reducible first | assumption | exact Same.refl _ | apply Same.ite | apply State.p_same)
    | (with_reducible apply Same.base; with_reducible assumption)
theorem tbEnter_keeps {z s : State} (kz : Keeps z s) (st : Nat) :
    Keeps z (tbEnter st s) :=
  (tbEnter_same (.refl _) _).keeps.after kz

theorem State.modGal_same {z s : State} (kz : Same z s) (f : GalX → GalX) :
    Same z (State.modGal s f) := by
  unfold State.modGal
  repeat' first
    | lift_lets -underBinder
    | (with_reducible first | assumption | exact Same.refl _ | apply Same.ite)
    | (with_reducible apply Same.base; with_reducible assumption)
theorem State.modGal_keeps {z s : State} (kz : Keeps z s) (f : GalX → GalX) :
    Keeps z (State.modGal s f) :=
  (State.modGal_same (.refl _) _).keeps.after kz

theorem peerShow_same {z s : State} (kz : Same z s) :
    Same z (peerShow s) := by
  unfold peerShow
  repeat' first
    | lift_lets -underBinder
    | (intro x; refine Same.cut (s := z) (t := x) ?_ ?_; unfold x; clear x; rotate_left; intro _; clear_value x; rotate_right)
    | (intro x; clear_value x)
    | (with_reducible first | assumption | exact Same.refl _ | apply Same.ite | apply State.p_same)
theorem peerShow_keeps {z s : State} (kz : Keeps z s) :
    Keeps z (peerShow s) :=
  (peerShow_same (.refl _)).keeps.after kz

theorem State.setPeer_same {z s : State} (kz : Same z s) (i : Nat) (x : PeerX) :
    Same z (State.setPeer s i x) := by
  unfold State.setPeer
  repeat' first
    | lift_lets -underBinder
    | (with_reducible first | assumption | exact Same.refl _ | apply Same.ite | apply peerShow_same)
    | (with_reducible apply Same.base; with_reducible assumption)
theorem State.setPeer_keeps {z s : State} (kz : Keeps z s) (i : Nat) (x : PeerX) :
    Keeps z (State.setPeer s i x) :=
  (State.setPeer_same (.refl _) _ _).keeps.after kz

theorem jPeer_same {z s : State} (kz : Same z s) (i : Nat) :
    Same z (jPeer i s) := by
  unfold jPeer
  repeat' first
    | lift_lets -underBinder
    | (with_reducible first | assumption | exact Same.refl _ | apply Same.ite | apply State.j_same)
theorem jPeer_keeps {z s : State} (kz : Keeps z s) (i : Nat) :
    Keeps z (jPeer i s) :=
  (jPeer_same (.refl _) _).keeps.after kz

theorem galVec_same {z s : State} (kz : Same z s) :
    Same z (galVec s) := by
  unfold galVec
  repeat' first
    | lift_lets -underBinder
    | (with_reducible first | assumption | exact Same.refl _ | apply Same.ite | apply State.vecCount_same)
theorem galVec_keeps {z s : State} (kz : Keeps z s) :
    Keeps z (galVec s) :=
  (galVec_same (.refl _)).keeps.after kz

theorem galFault_same {z s : State} (kz : Same z s) (src : Nat) :
    Same z (galFault src s) := by
  unfold galFault
  repeat' first
    | lift_lets -underBinder
    | (with_reducible first
        | assumption | exact Same.refl _ | apply Same.ite | apply galVec_same | apply State.raise_same)
theorem galFault_keeps {z s : State} (kz : Keeps z s) (src : Nat) :
    Keeps z (galFault src s) :=
  (galFault_same (.refl _) _).keeps.after kz

theorem unjoin_same {z s : State} (kz : Same z s) (byDevice : Bool) :
    Same z (unjoin byDevice s) := by
  unfold unjoin
  repeat' first
    | lift_lets -underBinder
    | (intro x; refine Same.cut (s := z) (t := x) ?_ ?_; unfold x; clear x; rotate_left; intro _; clear_value x; rotate_right)
    | (with_reducible first
        | assumption | exact Same.refl _ | apply Same.ite | apply State.clr_same
        | (apply State.each_same; intro _ z; rotate_left; rotate_right) | apply State.modHl_same
        | (apply State.when_same; intro z; rotate_left; rotate_right) | apply galFault_same)
theorem unjoin_keeps {z s : State} (kz : Keeps z s) (byDevice : Bool) :
    Keeps z (unjoin byDevice s) :=
  (unjoin_same (.refl _) _).keeps.after kz

theorem epochCheck_same {z s : State} (kz : Same z s) :
    Same z (epochCheck s) := by
  unfold epochCheck
  repeat' first
    | lift_lets -underBinder
    | (intro x; clear_value x)
    | (with_reducible first
        | assumption | exact Same.refl _ | apply Same.ite | apply unjoin_same | apply tbEnter_same)
theorem epochCheck_keeps {z s : State} (kz : Keeps z s) :
    Keeps z (epochCheck s) :=
  (epochCheck_same (.refl _)).keeps.after kz

theorem becomeMember_same {z s : State} (kz : Same z s) :
    Same z (becomeMember s) := by
  unfold becomeMember
  repeat' first
    | lift_lets -underBinder
    | (intro x; refine Same.cut (s := z) (t := x) ?_ ?_; unfold x; clear x; rotate_left; intro _; clear_value x; rotate_right)
    | (with_reducible first
        | assumption | exact Same.refl _ | apply Same.ite | apply State.clr_same | apply tbEnter_same)
theorem becomeMember_keeps {z s : State} (kz : Keeps z s) :
    Keeps z (becomeMember s) :=
  (becomeMember_same (.refl _)).keeps.after kz

theorem newelConflict_same {z s : State} (kz : Same z s) (uid flags : Nat) :
    Same z (newelConflict uid flags s) := by
  unfold newelConflict
  repeat' first
    | lift_lets -underBinder
    | (intro x; refine Same.cut (s := z) (t := x) ?_ ?_; unfold x; clear x; rotate_left; intro _; clear_value x; rotate_right)
    | (with_reducible first
        | assumption | exact Same.refl _ | apply Same.ite | apply galFault_same | apply State.set1_same
        | apply becomeMember_same)
theorem newelConflict_keeps {z s : State} (kz : Keeps z s) (uid flags : Nat) :
    Keeps z (newelConflict uid flags s) :=
  (newelConflict_same (.refl _) _ _).keeps.after kz

theorem helloEntry_same {z s : State} (kz : Same z s) (i port uid flags epoch : Nat) :
    Same z (helloEntry i port uid flags epoch s) := by
  unfold helloEntry
  repeat' first
    | lift_lets -underBinder
    | (intro x; clear_value x)
    | (with_reducible first
        | assumption | exact Same.refl _ | apply Same.ite | apply galVec_same | apply State.setPeer_same
        | apply jPeer_same | apply galFault_same)
    | (with_reducible apply Same.base; with_reducible first
        | assumption | exact Same.refl _ | apply Same.ite | apply galVec_same | apply State.setPeer_same
        | apply jPeer_same | apply galFault_same)
    | split
theorem helloEntry_keeps {z s : State} (kz : Keeps z s) (i port uid flags epoch : Nat) :
    Keeps z (helloEntry i port uid flags epoch s) :=
  (helloEntry_same (.refl _) _ _ _ _ _).keeps.after kz

theorem helloRx_same {z s : State} (kz : Same z s) (port uid flags epoch : Nat) :
    Same z (helloRx port uid flags epoch s) := by
  unfold helloRx
  repeat' first
    | lift_lets -underBinder
    | (intro x; refine Same.cut (s := z) (t := x) ?_ ?_; unfold x; clear x; rotate_left; intro _; clear_value x; rotate_right)
    | (with_reducible first
        | assumption | exact Same.refl _ | apply Same.ite | apply newelConflict_same | apply epochCheck_same
        | apply helloEntry_same | apply State.set1_same)
    | (with_reducible apply Same.base; with_reducible first
        | assumption | exact Same.refl _ | apply Same.ite | apply newelConflict_same | apply epochCheck_same
        | apply helloEntry_same | apply State.set1_same)
    | split
theorem helloRx_keeps {z s : State} (kz : Keeps z s) (port uid flags epoch : Nat) :
    Keeps z (helloRx port uid flags epoch s) :=
  (helloRx_same (.refl _) _ _ _ _).keeps.after kz

theorem execHelloRx_same {z : State} (port uid flags epoch : Nat) : RunsSame z (execHelloRx port uid flags epoch z) := by
  refine ⟨_, rfl, ?_⟩
  repeat' first
    | lift_lets -underBinder
    | (with_reducible first | assumption | exact Same.refl _ | apply Same.ite | apply helloRx_same)

theorem execPeerMissed_same {z : State} (i : Nat) : RunsSame z (execPeerMissed i z) := by
  refine ⟨_, rfl, ?_⟩
  repeat' first
    | lift_lets -underBinder
    | (intro x; clear_value x)
    | (with_reducible first
        | assumption | exact Same.refl _ | apply Same.ite | apply jPeer_same | apply galFault_same
        | apply State.setPeer_same)

theorem execFrameRxDrop_same {z : State}  : RunsSame z (execFrameRxDrop z) := by
  refine ⟨_, rfl, ?_⟩
  repeat' first
    | lift_lets -underBinder
    | (with_reducible first | assumption | exact Same.refl _ | apply Same.ite | apply State.count_same)

theorem peerIdxWrite_same {z s : State} (kz : Same z s) (v : Word) :
    Same z (peerIdxWrite v s) := by
  unfold peerIdxWrite
  repeat' first
    | lift_lets -underBinder
    | (intro x; refine Same.cut (s := z) (t := x) ?_ ?_; unfold x; clear x; rotate_left; intro _; clear_value x; rotate_right)
    | (intro x; clear_value x)
    | (with_reducible first
        | assumption | exact Same.refl _ | apply Same.ite | apply peerShow_same | apply State.p_same
        | apply jPeer_same | apply State.setPeer_same | apply State.set1_same)
theorem peerIdxWrite_keeps {z s : State} (kz : Keeps z s) (v : Word) :
    Keeps z (peerIdxWrite v s) :=
  (peerIdxWrite_same (.refl _) _).keeps.after kz

theorem execPeerAdmit_same {z : State} (i : Nat) : RunsSame z (execPeerAdmit i z) := by
  refine ⟨_, rfl, ?_⟩
  repeat' first
    | lift_lets -underBinder
    | (with_reducible first
        | assumption | exact Same.refl _ | apply Same.ite
        | (apply State.host_same; intro z; rotate_left; rotate_right) | apply peerIdxWrite_same)

theorem execPeerRemove_same {z : State} (i : Nat) : RunsSame z (execPeerRemove i z) := by
  refine ⟨_, rfl, ?_⟩
  repeat' first
    | lift_lets -underBinder
    | (with_reducible first
        | assumption | exact Same.refl _ | apply Same.ite
        | (apply State.host_same; intro z; rotate_left; rotate_right) | apply peerIdxWrite_same)

theorem execHelloSend_same {z : State} (port : Nat) : RunsSame z (execHelloSend port z) := by
  refine ⟨_, rfl, ?_⟩
  repeat' first
    | lift_lets -underBinder
    | (intro x; clear_value x)
    | (with_reducible first
        | assumption | exact Same.refl _ | apply Same.ite | apply State.modGal_same | apply State.send_same)

theorem failmapSend_same {z s : State} (kz : Same z s) :
    Same z (failmapSend s) := by
  unfold failmapSend
  repeat' first
    | lift_lets -underBinder
    | (intro x; clear_value x)
    | (with_reducible first
        | assumption | exact Same.refl _ | apply Same.ite | apply State.modGal_same | apply State.send_same)
theorem failmapSend_keeps {z s : State} (kz : Keeps z s) :
    Keeps z (failmapSend s) :=
  (failmapSend_same (.refl _)).keeps.after kz

theorem execFailmapSend_same {z : State}  : RunsSame z (execFailmapSend z) := by
  refine ⟨_, rfl, ?_⟩
  repeat' first
    | lift_lets -underBinder
    | (with_reducible first
        | assumption | exact Same.refl _ | apply Same.ite
        | (apply State.host_same; intro z; rotate_left; rotate_right) | apply failmapSend_same)

theorem execFailmapRx_same {z : State} (uid map : Nat) : RunsSame z (execFailmapRx uid map z) := by
  refine ⟨_, rfl, ?_⟩
  repeat' first
    | lift_lets -underBinder
    | (intro x; clear_value x)
    | (with_reducible first | assumption | exact Same.refl _ | apply Same.ite | apply State.setPeer_same)
    | (with_reducible apply Same.base; with_reducible first
        | assumption | exact Same.refl _ | apply Same.ite | apply State.setPeer_same)
    | split

theorem galCfgWrite_same {z s : State} (kz : Same z s) (v : Word) :
    Same z (galCfgWrite v s) := by
  unfold galCfgWrite
  repeat' first
    | lift_lets -underBinder
    | (intro x; clear_value x)
    | (with_reducible first
        | assumption | exact Same.refl _ | apply Same.ite | apply State.cfgWr_same | apply State.set1_same
        | (apply State.when_same; intro z; rotate_left; rotate_right) | apply becomeMember_same)
theorem galCfgWrite_keeps {z s : State} (kz : Keeps z s) (v : Word) :
    Keeps z (galCfgWrite v s) :=
  (galCfgWrite_same (.refl _) _).keeps.after kz

theorem execRoleWrite_same {z : State} (v : Word) : RunsSame z (execRoleWrite v z) := by
  refine ⟨_, rfl, ?_⟩
  repeat' first
    | lift_lets -underBinder
    | (with_reducible first
        | assumption | exact Same.refl _ | apply Same.ite
        | (apply State.host_same; intro z; rotate_left; rotate_right) | apply galCfgWrite_same)

theorem galJoin_same {z s : State} (kz : Same z s) :
    Same z (galJoin s) := by
  unfold galJoin
  repeat' first
    | lift_lets -underBinder
    | (with_reducible first | assumption | exact Same.refl _ | apply Same.ite | apply State.set1_same)
theorem galJoin_keeps {z s : State} (kz : Keeps z s) :
    Keeps z (galJoin s) :=
  (galJoin_same (.refl _)).keeps.after kz

theorem galCtlWrite_same {z s : State} (kz : Same z s) (v : Word) :
    Same z (galCtlWrite v s) := by
  unfold galCtlWrite
  repeat' first
    | lift_lets -underBinder
    | (with_reducible first
        | assumption | exact Same.refl _ | apply Same.ite
        | (apply State.when_same; intro z; rotate_left; rotate_right) | apply unjoin_same | apply galJoin_same
        | apply failmapSend_same)
theorem galCtlWrite_keeps {z s : State} (kz : Keeps z s) (v : Word) :
    Keeps z (galCtlWrite v s) :=
  (galCtlWrite_same (.refl _) _).keeps.after kz

theorem execGalJoin_same {z : State}  : RunsSame z (execGalJoin z) := by
  refine ⟨_, rfl, ?_⟩
  repeat' first
    | lift_lets -underBinder
    | (with_reducible first
        | assumption | exact Same.refl _ | apply Same.ite
        | (apply State.host_same; intro z; rotate_left; rotate_right) | apply galCtlWrite_same)

theorem execGalLeave_same {z : State}  : RunsSame z (execGalLeave z) := by
  refine ⟨_, rfl, ?_⟩
  repeat' first
    | lift_lets -underBinder
    | (with_reducible first
        | assumption | exact Same.refl _ | apply Same.ite
        | (apply State.host_same; intro z; rotate_left; rotate_right) | apply galCtlWrite_same)

theorem execGalLinkChange_same {z : State} (port : Nat) (up : Bool) : RunsSame z (execGalLinkChange port up z) := by
  refine ⟨_, rfl, ?_⟩
  repeat' first
    | lift_lets -underBinder
    | (intro x; refine Same.cut (s := z) (t := x) ?_ ?_; unfold x; clear x; rotate_left; intro _; clear_value x; rotate_right)
    | (intro x; clear_value x)
    | (with_reducible first
        | assumption | exact Same.refl _ | apply Same.ite | apply State.pb_same | apply State.p_same
        | apply State.j_same)

theorem execGtlRise_same {z : State} (sample : Nat) : RunsSame z (execGtlRise sample z) := by
  refine ⟨_, rfl, ?_⟩
  repeat' first
    | lift_lets -underBinder
    | (intro x; clear_value x)
    | (with_reducible first
        | assumption | exact Same.refl _ | apply Same.ite
        | (apply State.each_same; intro _ z; rotate_left; rotate_right)
        | (apply State.when_same; intro z; rotate_left; rotate_right) | apply State.emit_same
        | refine Same.pair1 (by assumption) ?_ | refine Same.pair2 (by assumption) ?_)
    | (with_reducible apply Same.base; with_reducible first
        | assumption | exact Same.refl _ | (apply foldl_same; intro z _; rotate_left; rotate_right)
        | (apply foldl_fst_same; intro p _; obtain ⟨z, _⟩ := p; rotate_left; rotate_right)
        | (apply foldl_snd_same; intro p _; obtain ⟨_, z⟩ := p; rotate_left; rotate_right)
        | (apply State.each_same; intro _ z; rotate_left; rotate_right)
        | (apply State.when_same; intro z; rotate_left; rotate_right))

theorem nsMark_same {z s : State} (kz : Same z s) :
    Same z (nsMark s) := by
  unfold nsMark
  repeat' first
    | lift_lets -underBinder
    | (intro x; refine Same.cut (s := z) (t := x) ?_ ?_; unfold x; clear x; rotate_left; intro _; clear_value x; rotate_right)
    | (intro x; clear_value x)
    | (with_reducible first
        | assumption | exact Same.refl _ | apply Same.ite | apply State.ringMarker_same | apply State.jput_same)
theorem nsMark_keeps {z s : State} (kz : Keeps z s) :
    Keeps z (nsMark s) :=
  (nsMark_same (.refl _)).keeps.after kz

theorem tbStep_same {z s : State} (kz : Same z s) (v : Nat) :
    Same z (tbStep v s) := by
  unfold tbStep
  repeat' first
    | lift_lets -underBinder
    | (with_reducible first | assumption | exact Same.refl _ | apply Same.ite | apply nsMark_same)
    | (with_reducible apply Same.base; with_reducible assumption)
theorem tbStep_keeps {z s : State} (kz : Keeps z s) (v : Nat) :
    Keeps z (tbStep v s) :=
  (tbStep_same (.refl _) _).keeps.after kz

theorem tbTick_same {z s : State} (kz : Same z s) :
    Same z (tbTick s) := by
  unfold tbTick
  repeat' first
    | lift_lets -underBinder
    | (with_reducible first
        | assumption | exact Same.refl _ | apply Same.ite
        | (apply State.when_same; intro z; rotate_left; rotate_right) | apply nsMark_same)
    | (with_reducible apply Same.base; with_reducible first
        | assumption | (apply State.when_same; intro z; rotate_left; rotate_right))
theorem tbTick_keeps {z s : State} (kz : Keeps z s) :
    Keeps z (tbTick s) :=
  (tbTick_same (.refl _)).keeps.after kz

theorem execNsWrap_same {z : State}  : RunsSame z (execNsWrap z) := by
  refine ⟨_, rfl, ?_⟩
  repeat' first
    | lift_lets -underBinder
    | (with_reducible first | assumption | exact Same.refl _ | apply Same.ite | apply tbTick_same)

theorem tbSnap_same {z s : State} (kz : Same z s) :
    Same z (tbSnap s) := by
  unfold tbSnap
  repeat' first
    | lift_lets -underBinder
    | (intro (x : _ → _ → _ → State); unfold x; clear x)
    | (with_reducible first | assumption | exact Same.refl _ | apply Same.ite | apply State.p_same)
theorem tbSnap_keeps {z s : State} (kz : Keeps z s) :
    Keeps z (tbSnap s) :=
  (tbSnap_same (.refl _)).keeps.after kz

theorem execTbSnap_same {z : State}  : RunsSame z (execTbSnap z) := by
  refine ⟨_, rfl, ?_⟩
  repeat' first
    | lift_lets -underBinder
    | (with_reducible first
        | assumption | exact Same.refl _ | apply Same.ite
        | (apply State.host_same; intro z; rotate_left; rotate_right) | apply tbSnap_same)

theorem ptpSend_same {z s : State} (kz : Same z s) (typ : Nat) (stamp : Int) :
    Same z (ptpSend typ stamp s) := by
  unfold ptpSend
  repeat' first
    | lift_lets -underBinder
    | (intro x; clear_value x)
    | (with_reducible first
        | assumption | exact Same.refl _ | apply Same.ite
        | (apply State.when_same; intro z; rotate_left; rotate_right) | apply State.send_same)
theorem ptpSend_keeps {z s : State} (kz : Keeps z s) (typ : Nat) (stamp : Int) :
    Keeps z (ptpSend typ stamp s) :=
  (ptpSend_same (.refl _) _ _).keeps.after kz

theorem execPtpSyncSend_same {z : State}  : RunsSame z (execPtpSyncSend z) := by
  refine ⟨_, rfl, ?_⟩
  repeat' first
    | lift_lets -underBinder
    | (with_reducible first | assumption | exact Same.refl _ | apply Same.ite | apply ptpSend_same)

theorem execPtpAnnounceSend_same {z : State}  : RunsSame z (execPtpAnnounceSend z) := by
  refine ⟨_, rfl, ?_⟩
  repeat' first
    | lift_lets -underBinder
    | (with_reducible first | assumption | exact Same.refl _ | apply Same.ite | apply ptpSend_same)

theorem execPtpDelayReqSend_same {z : State}  : RunsSame z (execPtpDelayReqSend z) := by
  refine ⟨_, rfl, ?_⟩
  repeat' first
    | lift_lets -underBinder
    | (with_reducible first
        | assumption | exact Same.refl _ | apply Same.ite | apply ptpSend_same | apply State.modGal_same)

theorem execPtpDelayReqRx_same {z : State} (port dom : Nat) : RunsSame z (execPtpDelayReqRx port dom z) := by
  refine ⟨_, rfl, ?_⟩
  repeat' first
    | lift_lets -underBinder
    | (with_reducible first | assumption | exact Same.refl _ | apply Same.ite | apply ptpSend_same)

theorem execPtpDelayRespRx_same {z : State} (port dom : Nat) (stamp : Int) : RunsSame z (execPtpDelayRespRx port dom stamp z) := by
  refine ⟨_, rfl, ?_⟩
  repeat' first
    | lift_lets -underBinder
    | (with_reducible first | assumption | exact Same.refl _ | apply Same.ite | apply State.modGal_same)
    | (with_reducible apply Same.base; with_reducible first
        | assumption | exact Same.refl _ | apply Same.ite | apply State.modGal_same)
    | split

theorem servo_same {z s : State} (kz : Same z s) :
    Same z (servo s) := by
  unfold servo
  repeat' first
    | lift_lets -underBinder
    | (with_reducible first
        | assumption | exact Same.refl _ | apply Same.ite | apply State.draw_same | apply State.p_same)
theorem servo_keeps {z s : State} (kz : Keeps z s) :
    Keeps z (servo s) :=
  (servo_same (.refl _)).keeps.after kz

theorem offsetShow_same {z s : State} (kz : Same z s) (off2 : Int) :
    Same z (offsetShow off2 s) := by
  unfold offsetShow
  repeat' first
    | lift_lets -underBinder
    | (with_reducible first
        | assumption | exact Same.refl _ | apply Same.ite | apply State.draw_same | apply State.p_same)
theorem offsetShow_keeps {z s : State} (kz : Keeps z s) (off2 : Int) :
    Keeps z (offsetShow off2 s) :=
  (offsetShow_same (.refl _) _).keeps.after kz

theorem memberStep_same {z s : State} (kz : Same z s) (off2 : Int) (epoch : Nat) :
    Same z (memberStep off2 epoch s) := by
  unfold memberStep
  repeat' first
    | lift_lets -underBinder
    | (with_reducible first
        | assumption | exact Same.refl _ | apply Same.ite | apply tbEnter_same | apply tbStep_same
        | apply State.p_same | apply State.set1_same)
theorem memberStep_keeps {z s : State} (kz : Keeps z s) (off2 : Int) (epoch : Nat) :
    Keeps z (memberStep off2 epoch s) :=
  (memberStep_same (.refl _) _ _).keeps.after kz

theorem sixteen_same {f : State → State} {z s : State} (hf : ∀ t, Same t (f t)) (kz : Same z s) (c : Bool) (next : Nat) :
    Same z (sixteen c next f s) := by
  unfold sixteen
  repeat' first
    | lift_lets -underBinder
    | (with_reducible first
        | assumption | exact Same.refl _ | apply Same.ite | refine Same.after (hf ..) ?_ | apply State.modGal_same
        | apply tbEnter_same)

theorem sixteen_keeps {f : State → State} {z s : State} (hf : ∀ t, Keeps t (f t)) (kz : Keeps z s) (c : Bool) (next : Nat) :
    Keeps z (sixteen c next f s) := by
  unfold sixteen
  repeat' first
    | lift_lets -underBinder
    | (with_reducible first
        | assumption | exact Keeps.refl _ | apply Keeps.ite | refine Keeps.after (hf ..) ?_ | apply State.modGal_keeps
        | apply tbEnter_keeps)

theorem memberSync_same {z s : State} (kz : Same z s) (off2 : Int) :
    Same z (memberSync off2 s) := by
  unfold memberSync
  repeat' first
    | lift_lets -underBinder
    | (intro x; refine Same.cut (s := z) (t := x) ?_ ?_; unfold x; clear x; rotate_left; intro _; clear_value x; rotate_right)
    | (intro x; clear_value x)
    | (with_reducible first
        | assumption | exact Same.refl _ | apply Same.ite | exact Same.ident _ | apply offsetShow_same
        | apply memberStep_same | apply State.modGal_same | apply unjoin_same | apply tbEnter_same | apply servo_same
        | (apply sixteen_same; intro z; rotate_left; rotate_right) | apply galFault_same)
theorem memberSync_keeps {z s : State} (kz : Keeps z s) (off2 : Int) :
    Keeps z (memberSync off2 s) :=
  (memberSync_same (.refl _) _).keeps.after kz

theorem behindStep_same {z s : State} (kz : Same z s) :
    Same z (behindStep s) := by
  unfold behindStep
  repeat' first
    | lift_lets -underBinder
    | (intro x; clear_value x)
    | (with_reducible first | assumption | exact Same.refl _ | apply Same.ite | apply memberStep_same)
    | (with_reducible apply Same.base; with_reducible first
        | assumption | exact Same.refl _ | apply Same.ite | apply memberStep_same)
    | split
theorem behindStep_keeps {z s : State} (kz : Keeps z s) :
    Keeps z (behindStep s) :=
  (behindStep_same (.refl _)).keeps.after kz

theorem execPtpSyncRx_same {z : State} (port dom : Nat) (stamp : Int) : RunsSame z (execPtpSyncRx port dom stamp z) := by
  refine ⟨_, rfl, ?_⟩
  repeat' first
    | lift_lets -underBinder
    | (intro x; refine Same.cut (s := z) (t := x) ?_ ?_; unfold x; clear x; rotate_left; intro _; clear_value x; rotate_right)
    | (intro x; clear_value x)
    | (with_reducible first
        | assumption | exact Same.refl _ | apply Same.ite | apply State.modGal_same | apply memberSync_same
        | apply tbEnter_same)
    | (with_reducible apply Same.base; with_reducible first
        | assumption | exact Same.refl _ | apply Same.ite | apply State.modGal_same | apply memberSync_same
        | apply tbEnter_same)
    | split

theorem execPtpSyncLoss_same {z : State}  : RunsSame z (execPtpSyncLoss z) := by
  refine ⟨_, rfl, ?_⟩
  repeat' first
    | lift_lets -underBinder
    | (with_reducible first
        | assumption | exact Same.refl _ | apply Same.ite | apply unjoin_same | apply tbEnter_same)

theorem ttStepped_same {z s : State} (kz : Same z s) :
    Same z (ttStepped s) := by
  unfold ttStepped
  repeat' first
    | lift_lets -underBinder
    | (with_reducible first
        | assumption | exact Same.refl _ | apply Same.ite
        | (apply State.each_same; intro _ z; rotate_left; rotate_right)
        | (apply State.when_same; intro z; rotate_left; rotate_right) | apply State.clr_same | apply State.set1_same)
theorem ttStepped_keeps {z s : State} (kz : Keeps z s) :
    Keeps z (ttStepped s) :=
  (ttStepped_same (.refl _)).keeps.after kz

theorem timeStep_same {z s : State} (kz : Same z s) (r : DescRun) :
    Same z (timeStep r s) := by
  unfold timeStep
  repeat' first
    | lift_lets -underBinder
    | (intro x; refine Same.cut (s := z) (t := x) ?_ ?_; unfold x; clear x; rotate_left; intro _; clear_value x; rotate_right)
    | (intro (x : _ → _ → _ → State); unfold x; clear x)
    | (intro x; clear_value x)
    | (with_reducible first
        | assumption | exact Same.refl _ | apply Same.ite | apply State.complete_same | apply tbStep_same
        | apply State.set1_same | (apply State.when_same; intro z; rotate_left; rotate_right) | apply tbEnter_same
        | apply ttStepped_same | apply State.p_same | apply State.j_same)
theorem timeStep_keeps {z s : State} (kz : Keeps z s) (r : DescRun) :
    Keeps z (timeStep r s) :=
  (timeStep_same (.refl _) _).keeps.after kz

theorem execTimeStep_same {z : State} (q : Nat) : RunsSame z (execTimeStep q z) := by
  refine ⟨_, rfl, ?_⟩
  repeat' first
    | lift_lets -underBinder
    | (with_reducible first
        | assumption | exact Same.refl _ | apply Same.ite
        | (apply State.withDesc_same; intro _ z; rotate_left; rotate_right) | apply timeStep_same)

theorem timeRate_same {z s : State} (kz : Same z s) (r : DescRun) :
    Same z (timeRate r s) := by
  unfold timeRate
  repeat' first
    | lift_lets -underBinder
    | (intro (x : _ → _ → State); unfold x; clear x)
    | (intro x; clear_value x)
    | (with_reducible first
        | assumption | exact Same.refl _ | apply Same.ite | apply State.complete_same | apply State.p_same
        | apply State.j_same)
theorem timeRate_keeps {z s : State} (kz : Keeps z s) (r : DescRun) :
    Keeps z (timeRate r s) :=
  (timeRate_same (.refl _) _).keeps.after kz

theorem execTimeRate_same {z : State} (q : Nat) : RunsSame z (execTimeRate q z) := by
  refine ⟨_, rfl, ?_⟩
  repeat' first
    | lift_lets -underBinder
    | (with_reducible first
        | assumption | exact Same.refl _ | apply Same.ite
        | (apply State.withDesc_same; intro _ z; rotate_left; rotate_right) | apply timeRate_same)

theorem State.setTt_same {z s : State} (kz : Same z s) (n : Nat) (x : TtX) :
    Same z (State.setTt s n x) := by
  unfold State.setTt
  repeat' first
    | lift_lets -underBinder
    | (with_reducible first | assumption | exact Same.refl _ | apply Same.ite)
    | (with_reducible apply Same.base; with_reducible assumption)
theorem State.setTt_keeps {z s : State} (kz : Keeps z s) (n : Nat) (x : TtX) :
    Keeps z (State.setTt s n x) :=
  (State.setTt_same (.refl _) _ _).keeps.after kz

theorem ttCtlWrite_same {z s : State} (kz : Same z s) (n : Nat) (v : Word) :
    Same z (ttCtlWrite n v s) := by
  unfold ttCtlWrite
  repeat' first
    | lift_lets -underBinder
    | (intro x; refine Same.cut (s := z) (t := x) ?_ ?_; unfold x; clear x; rotate_left; intro _; clear_value x; rotate_right)
    | (intro (x : _ → State); unfold x; clear x)
    | (intro x; clear_value x)
    | (with_reducible first
        | assumption | exact Same.refl _ | apply Same.ite
        | (apply State.when_same; intro z; rotate_left; rotate_right) | apply State.clr_same | apply State.set1_same
        | apply State.pb_same | apply State.setTt_same)
theorem ttCtlWrite_keeps {z s : State} (kz : Keeps z s) (n : Nat) (v : Word) :
    Keeps z (ttCtlWrite n v s) :=
  (ttCtlWrite_same (.refl _) _ _).keeps.after kz

theorem execTtArm_same {z : State} (n : Nat) (v : Word) : RunsSame z (execTtArm n v z) := by
  refine ⟨_, rfl, ?_⟩
  repeat' first
    | lift_lets -underBinder
    | (with_reducible first
        | assumption | exact Same.refl _ | apply Same.ite
        | (apply State.host_same; intro z; rotate_left; rotate_right) | apply ttCtlWrite_same)

theorem execTtDisarm_same {z : State} (n : Nat) (v : Word) : RunsSame z (execTtDisarm n v z) := by
  refine ⟨_, rfl, ?_⟩
  repeat' first
    | lift_lets -underBinder
    | (with_reducible first
        | assumption | exact Same.refl _ | apply Same.ite
        | (apply State.host_same; intro z; rotate_left; rotate_right) | apply ttCtlWrite_same)

theorem ttRegWrite_same {z s : State} (kz : Same z s) (n a : Nat) (ok : Word → Bool) (v : Word) :
    Same z (ttRegWrite n a ok v s) := by
  unfold ttRegWrite
  repeat' first
    | lift_lets -underBinder
    | (with_reducible first
        | assumption | exact Same.refl _ | apply Same.ite | apply State.set1_same | apply State.wr_same)
theorem ttRegWrite_keeps {z s : State} (kz : Keeps z s) (n a : Nat) (ok : Word → Bool) (v : Word) :
    Keeps z (ttRegWrite n a ok v s) :=
  (ttRegWrite_same (.refl _) _ _ _ _).keeps.after kz

theorem execTtFire_same {z : State} (n : Nat) : RunsSame z (execTtFire n z) := by
  refine ⟨_, rfl, ?_⟩
  repeat' first
    | lift_lets -underBinder
    | (intro x; clear_value x)
    | (with_reducible first
        | assumption | exact Same.refl _ | apply Same.ite | apply State.setTt_same | apply State.emit_same
        | apply State.clr_same)

theorem execTtPulseEnd_same {z : State} (n : Nat) : RunsSame z (execTtPulseEnd n z) := by
  refine ⟨_, rfl, ?_⟩
  repeat' first
    | lift_lets -underBinder
    | (intro x; clear_value x)
    | (with_reducible first | assumption | exact Same.refl _ | apply Same.ite | apply State.setTt_same)

theorem ttOff_same {z s : State} (kz : Same z s) :
    Same z (ttOff s) := by
  unfold ttOff
  repeat' first
    | lift_lets -underBinder
    | (intro x; clear_value x)
    | (with_reducible first
        | assumption | exact Same.refl _ | apply Same.ite
        | (apply State.each_same; intro _ z; rotate_left; rotate_right) | apply State.clr_same
        | apply State.setTt_same)
theorem ttOff_keeps {z s : State} (kz : Keeps z s) :
    Keeps z (ttOff s) :=
  (ttOff_same (.refl _)).keeps.after kz

theorem markNoref_same {z s : State} (kz : Same z s) :
    Same z (markNoref s) := by
  unfold markNoref
  repeat' first
    | lift_lets -underBinder
    | (with_reducible first | assumption | exact Same.refl _ | apply Same.ite)
    | (with_reducible apply Same.base; with_reducible assumption)
theorem markNoref_keeps {z s : State} (kz : Keeps z s) :
    Keeps z (markNoref s) :=
  (markNoref_same (.refl _)).keeps.after kz

theorem refclkLoss_same {z s : State} (kz : Same z s) :
    Same z (refclkLoss s) := by
  unfold refclkLoss
  repeat' first
    | lift_lets -underBinder
    | (intro x; refine Same.cut (s := z) (t := x) ?_ ?_; unfold x; clear x; rotate_left; intro _; clear_value x; rotate_right)
    | (with_reducible first
        | assumption | exact Same.refl _ | apply Same.ite | apply State.clr_same | apply State.set1_same
        | apply markNoref_same | (apply State.each_same; intro _ z; rotate_left; rotate_right)
        | (apply State.when_same; intro z; rotate_left; rotate_right) | apply axisLose_same | apply unjoin_same
        | apply State.emit_same)
theorem refclkLoss_keeps {z s : State} (kz : Keeps z s) :
    Keeps z (refclkLoss s) :=
  (refclkLoss_same (.refl _)).keeps.after kz

theorem execRefclkLoss_same {z : State}  : RunsSame z (execRefclkLoss z) := by
  refine ⟨_, rfl, ?_⟩
  repeat' first
    | lift_lets -underBinder
    | (with_reducible first | assumption | exact Same.refl _ | apply Same.ite | apply refclkLoss_same)

theorem execRefclkPresent_same {z : State}  : RunsSame z (execRefclkPresent z) := by
  refine ⟨_, rfl, ?_⟩
  repeat' first
    | lift_lets -underBinder
    | (intro x; refine Same.cut (s := z) (t := x) ?_ ?_; unfold x; clear x; rotate_left; intro _; clear_value x; rotate_right)
    | (with_reducible first
        | assumption | exact Same.refl _ | apply Same.ite | apply State.set1_same | apply State.clr_same)
    | (with_reducible apply Same.base; with_reducible assumption)

theorem execRefLoopLock_same {z : State}  : RunsSame z (execRefLoopLock z) := by
  refine ⟨_, rfl, ?_⟩
  repeat' first
    | lift_lets -underBinder
    | (with_reducible first | assumption | exact Same.refl _ | apply Same.ite | apply State.set1_same)

end Sys2Proof.Machine
end

