-- ==== Sys2Proof/Laws/SameFaults.lean ====
section
/-! SUPPORT. What the operations of Machine.Faults keep: the part, the queue, the canonical tables, and where they store no bulk
memory all of it. -/
set_option linter.unreachableTactic false
set_option linter.unusedTactic false
namespace Sys2Proof.Machine

theorem State.modBoot_same {z s : State} (kz : Same z s) (f : BootX → BootX) :
    Same z (State.modBoot s f) := by
  unfold State.modBoot
  repeat' first
    | lift_lets -underBinder
    | (with_reducible first | assumption | exact Same.refl _ | apply Same.ite)
    | (with_reducible apply Same.base; with_reducible assumption)
theorem State.modBoot_keeps {z s : State} (kz : Keeps z s) (f : BootX → BootX) :
    Keeps z (State.modBoot s f) :=
  (State.modBoot_same (.refl _) _).keeps.after kz

theorem bootTime_same {z s : State} (kz : Same z s) :
    Same z (bootTime s) := by
  unfold bootTime
  repeat' first
    | lift_lets -underBinder
    | (with_reducible first | assumption | exact Same.refl _ | apply Same.ite | apply State.p_same)
theorem bootTime_keeps {z s : State} (kz : Keeps z s) :
    Keeps z (bootTime s) :=
  (bootTime_same (.refl _)).keeps.after kz

theorem bootFail_same {z s : State} (kz : Same z s) :
    Same z (bootFail s) := by
  unfold bootFail
  repeat' first
    | lift_lets -underBinder
    | (with_reducible first
        | assumption | exact Same.refl _ | apply Same.ite | apply bootTime_same | apply State.p_same)
theorem bootFail_keeps {z s : State} (kz : Keeps z s) :
    Keeps z (bootFail s) :=
  (bootFail_same (.refl _)).keeps.after kz

theorem setReleased_same {z s : State} (kz : Same z s) (b : Bool) :
    Same z (setReleased b s) := by
  unfold setReleased
  repeat' first
    | lift_lets -underBinder
    | (with_reducible first | assumption | exact Same.refl _ | apply Same.ite | apply State.pb_same)
theorem setReleased_keeps {z s : State} (kz : Keeps z s) (b : Bool) :
    Keeps z (setReleased b s) :=
  (setReleased_same (.refl _) _).keeps.after kz

theorem banUpdate_same {z s : State} (kz : Same z s) :
    Same z (banUpdate s) := by
  unfold banUpdate
  repeat' first
    | lift_lets -underBinder
    | (intro x; refine Same.cut (s := z) (t := x) ?_ ?_; unfold x; clear x; rotate_left; intro _; clear_value x; rotate_right)
    | (with_reducible first
        | assumption | exact Same.refl _ | apply Same.ite
        | (apply State.when_same; intro z; rotate_left; rotate_right) | apply setReleased_same | apply State.pb_same)
theorem banUpdate_keeps {z s : State} (kz : Keeps z s) :
    Keeps z (banUpdate s) :=
  (banUpdate_same (.refl _)).keeps.after kz

theorem baninSource_same {z s : State} (kz : Same z s) :
    Same z (baninSource s) := by
  unfold baninSource
  repeat' first
    | lift_lets -underBinder
    | (with_reducible first
        | assumption | exact Same.refl _ | apply Same.ite | apply State.raiseLevel_same | apply State.unraise_same)
theorem baninSource_keeps {z s : State} (kz : Keeps z s) :
    Keeps z (baninSource s) :=
  (baninSource_same (.refl _)).keeps.after kz

theorem fltCtlWrite_same {z s : State} (kz : Same z s) (v : Word) :
    Same z (fltCtlWrite v s) := by
  unfold fltCtlWrite
  repeat' first
    | lift_lets -underBinder
    | (intro x; refine Same.cut (s := z) (t := x) ?_ ?_; unfold x; clear x; rotate_left; intro _; clear_value x; rotate_right)
    | (intro x; clear_value x)
    | (with_reducible first
        | assumption | exact Same.refl _ | apply Same.ite | apply banUpdate_same | apply baninSource_same
        | apply State.wr_same | apply setReleased_same | apply State.set1_same)
theorem fltCtlWrite_keeps {z s : State} (kz : Keeps z s) (v : Word) :
    Keeps z (fltCtlWrite v s) :=
  (fltCtlWrite_same (.refl _) _).keeps.after kz

theorem execReleaseSafe_same {z : State} (v : Word) : RunsSame z (execReleaseSafe v z) := by
  refine ⟨_, rfl, ?_⟩
  repeat' first
    | lift_lets -underBinder
    | (with_reducible first
        | assumption | exact Same.refl _ | apply Same.ite
        | (apply State.host_same; intro z; rotate_left; rotate_right) | apply fltCtlWrite_same)

theorem execBaninUnsafe_same {z : State}  : RunsSame z (execBaninUnsafe z) := by
  refine ⟨_, rfl, ?_⟩
  repeat' first
    | lift_lets -underBinder
    | (with_reducible first
        | assumption | exact Same.refl _ | apply Same.ite | apply banUpdate_same | apply baninSource_same
        | apply State.clr_same)

theorem execBaninReturnSafe_same {z : State}  : RunsSame z (execBaninReturnSafe z) := by
  refine ⟨_, rfl, ?_⟩
  repeat' first
    | lift_lets -underBinder
    | (with_reducible first
        | assumption | exact Same.refl _ | apply Same.ite | apply banUpdate_same | apply baninSource_same
        | apply State.set1_same)

theorem admitEnd_same {z s : State} (kz : Same z s) (a : AdmitX) (st : Status) (stCode detail src us : Nat) :
    Same z (admitEnd a st stCode detail src us s) := by
  unfold admitEnd
  repeat' first
    | lift_lets -underBinder
    | (with_reducible first | assumption | exact Same.refl _ | apply Same.ite | apply State.complete_same)
    | (with_reducible apply Same.base; with_reducible assumption)
theorem admitEnd_keeps {z s : State} (kz : Keeps z s) (a : AdmitX) (st : Status) (stCode detail src us : Nat) :
    Keeps z (admitEnd a st stCode detail src us s) :=
  (admitEnd_same (.refl _) _ _ _ _ _ _).keeps.after kz

theorem admitFail_same {z s : State} (kz : Same z s) (u : Nat) (sub : Bool) (detail src : Nat) :
    Same z (admitFail u sub detail src s) := by
  unfold admitFail
  repeat' first
    | lift_lets -underBinder
    | (with_reducible first
        | assumption | exact Same.refl _ | apply Same.ite | apply State.draw_same | apply admitEnd_same
        | refine Same.pair2 (by assumption) ?_)
    | (with_reducible apply Same.base; with_reducible first
        | assumption | exact Same.refl _ | apply Same.ite | apply State.draw_same | apply admitEnd_same
        | refine Same.pair2 (by assumption) ?_)
    | split
theorem admitFail_keeps {z s : State} (kz : Keeps z s) (u : Nat) (sub : Bool) (detail src : Nat) :
    Keeps z (admitFail u sub detail src s) :=
  (admitFail_same (.refl _) _ _ _ _).keeps.after kz

theorem unitSafe_keeps {z s : State} (kz : Keeps z s) (u : Nat) :
    Keeps z (unitSafe u s) := by
  unfold unitSafe
  repeat' first
    | lift_lets -underBinder
    | (intro x; refine Keeps.cut (s := z) (t := x) ?_ ?_; unfold x; clear x; rotate_left; intro _; clear_value x; rotate_right)
    | (with_reducible first
        | assumption | exact Keeps.refl _ | apply Keeps.ite | apply sliceStop_keeps | apply startCheck_keeps
        | (apply withClaims_keeps; intro z; rotate_left; rotate_right) | apply fenceHall_keeps | apply grpFence_keeps
        | apply acqFence_keeps | apply rsSafe_keeps | apply State.set1_keeps)

theorem fenceUnit_keeps {z s : State} (kz : Keeps z s) (u : Nat) (cause : FRef) (src : Option Nat) :
    Keeps z (fenceUnit u cause src s) := by
  unfold fenceUnit
  repeat' first
    | lift_lets -underBinder
    | (intro x; refine Keeps.cut (s := z) (t := x) ?_ ?_; unfold x; clear x; rotate_left; intro _; clear_value x; rotate_right)
    | (intro x; clear_value x)
    | (with_reducible first
        | assumption | exact Keeps.refl _ | apply Keeps.ite
        | (apply State.when_keeps; intro z; rotate_left; rotate_right) | apply State.p_keeps | apply State.set1_keeps
        | apply unitSafe_keeps | apply admitFail_keeps)
    | (with_reducible apply Keeps.base; with_reducible first
        | assumption | exact Keeps.refl _ | apply Keeps.ite | apply State.p_keeps | apply State.set1_keeps
        | apply unitSafe_keeps | apply admitFail_keeps)
    | split

theorem fenceHse_keeps {z s : State} (kz : Keeps z s) (h : Nat) (src : Nat) :
    Keeps z (fenceHse h src s) := by
  unfold fenceHse
  repeat' first
    | lift_lets -underBinder
    | (with_reducible first
        | assumption | exact Keeps.refl _ | apply Keeps.ite | apply admitFail_keeps | apply swapAfterSend_keeps
        | apply hseAbort_keeps | apply State.set1_keeps)

theorem majorOn_keeps {z s : State} (kz : Keeps z s) (src : Nat) (e : Nat × Bool) :
    Keeps z (majorOn src e s) := by
  unfold majorOn
  repeat' first
    | lift_lets -underBinder
    | (with_reducible first
        | assumption | exact Keeps.refl _ | apply Keeps.ite | apply fenceHse_keeps | apply fenceUnit_keeps)

theorem majorReaction_keeps {z s : State} (kz : Keeps z s) (src : Nat) (alcs : List Nat) :
    Keeps z (majorReaction src alcs s) := by
  unfold majorReaction
  repeat' first
    | lift_lets -underBinder
    | (intro x; clear_value x)
    | (with_reducible first
        | assumption | exact Keeps.refl _ | apply Keeps.ite
        | (apply State.over_keeps; intro _ z; rotate_left; rotate_right) | apply majorOn_keeps)

theorem outputsSafe_keeps {z s : State} (kz : Keeps z s) :
    Keeps z (outputsSafe s) := by
  unfold outputsSafe
  repeat' first
    | lift_lets -underBinder
    | (intro x; refine Keeps.cut (s := z) (t := x) ?_ ?_; unfold x; clear x; rotate_left; intro _; clear_value x; rotate_right)
    | (with_reducible first
        | assumption | exact Keeps.refl _ | apply Keeps.ite
        | (apply State.over_keeps; intro _ z; rotate_left; rotate_right) | apply sliceStop_keeps
        | (apply State.each_keeps; intro _ z; rotate_left; rotate_right) | apply fenceHall_keeps
        | apply grpFence_keeps | apply State.pb_keeps | apply acqOff_keeps
        | (apply State.when_keeps; intro z; rotate_left; rotate_right) | apply rsSafe_keeps | apply ttOff_keeps
        | apply timersOff_keeps)

theorem graveUnit_same {z s : State} (kz : Same z s) (u : Nat) :
    Same z (graveUnit u s) := by
  unfold graveUnit
  repeat' first
    | lift_lets -underBinder
    | (intro x; refine Same.cut (s := z) (t := x) ?_ ?_; unfold x; clear x; rotate_left; intro _; clear_value x; rotate_right)
    | (with_reducible first
        | assumption | exact Same.refl _ | apply Same.ite | apply State.set1_same | apply State.p_same)
theorem graveUnit_keeps {z s : State} (kz : Keeps z s) (u : Nat) :
    Keeps z (graveUnit u s) :=
  (graveUnit_same (.refl _) _).keeps.after kz

theorem graveReaction_keeps {z s : State} (kz : Keeps z s) (src : Nat) :
    Keeps z (graveReaction src s) := by
  unfold graveReaction
  repeat' first
    | lift_lets -underBinder
    | (intro x; refine Keeps.cut (s := z) (t := x) ?_ ?_; unfold x; clear x; rotate_left; intro _; clear_value x; rotate_right)
    | (with_reducible first
        | assumption | exact Keeps.refl _ | apply Keeps.ite
        | (apply State.over_keeps; intro _ z; rotate_left; rotate_right) | apply admitFail_keeps
        | apply outputsSafe_keeps | (apply State.each_keeps; intro _ z; rotate_left; rotate_right)
        | apply graveUnit_keeps | (apply State.when_keeps; intro z; rotate_left; rotate_right)
        | apply State.set1_keeps | apply State.p_keeps | apply banUpdate_keeps | apply bootFail_keeps)
    | (with_reducible apply Keeps.base; with_reducible first
        | assumption | (apply State.over_keeps; intro _ z; rotate_left; rotate_right)
        | (apply State.each_keeps; intro _ z; rotate_left; rotate_right)
        | (apply State.when_keeps; intro z; rotate_left; rotate_right))

theorem logFault_same {z s : State} (kz : Same z s) (e : FltLog) :
    Same z (logFault e s) := by
  unfold logFault
  repeat' first
    | lift_lets -underBinder
    | (intro x; clear_value x)
    | (with_reducible first
        | assumption | exact Same.refl _ | apply Same.ite | apply State.p_same | apply State.count_same)
    | (with_reducible apply Same.base; with_reducible assumption)
theorem logFault_keeps {z s : State} (kz : Keeps z s) (e : FltLog) :
    Keeps z (logFault e s) :=
  (logFault_same (.refl _) _).keeps.after kz

theorem faultUnit_same {z s : State} (kz : Same z s) (src : Nat) :
    Same z (faultUnit src s).2 := by
  unfold faultUnit
  repeat' first
    | lift_lets -underBinder
    | (with_reducible first
        | assumption | exact Same.refl _ | apply Same.ite | apply State.draw_same
        | refine Same.pair2 (by assumption) ?_)
    | (with_reducible apply Same.base; with_reducible first
        | assumption | exact Same.refl _ | apply Same.ite | apply State.draw_same
        | refine Same.pair2 (by assumption) ?_)
    | split
theorem faultUnit_keeps {z s : State} (kz : Keeps z s) (src : Nat) :
    Keeps z (faultUnit src s).2 :=
  (faultUnit_same (.refl _) _).keeps.after kz

theorem faultNotice_same {z s : State} (kz : Same z s) (src cls detail : Nat) :
    Same z (faultNotice src cls detail s) := by
  unfold faultNotice
  repeat' first
    | lift_lets -underBinder
    | (with_reducible first
        | assumption | exact Same.refl _ | apply Same.ite | apply faultUnit_same | apply State.emit_same
        | apply State.j_same | (apply State.when_same; intro z; rotate_left; rotate_right)
        | apply State.vecCount_same)
theorem faultNotice_keeps {z s : State} (kz : Keeps z s) (src cls detail : Nat) :
    Keeps z (faultNotice src cls detail s) :=
  (faultNotice_same (.refl _) _ _ _).keeps.after kz

theorem collect_keeps {z s : State} (kz : Keeps z s) (x : FltIn) :
    Keeps z (collect x s) := by
  unfold collect
  repeat' first
    | lift_lets -underBinder
    | (intro x; refine Keeps.cut (s := z) (t := x) ?_ ?_; unfold x; clear x; rotate_left; intro _; clear_value x; rotate_right)
    | (intro x; clear_value x)
    | (with_reducible first
        | assumption | exact Keeps.refl _ | apply Keeps.ite | apply State.count_keeps
        | (apply State.when_keeps; intro z; rotate_left; rotate_right) | apply State.set1_keeps | apply logFault_keeps
        | apply faultNotice_keeps | (apply State.over_keeps; intro _ z; rotate_left; rotate_right)
        | apply alcFault_keeps | apply majorReaction_keeps | apply graveReaction_keeps)
    | (with_reducible apply Keeps.base; with_reducible first
        | assumption | (apply State.when_keeps; intro z; rotate_left; rotate_right)
        | (apply State.over_keeps; intro _ z; rotate_left; rotate_right))

theorem execFaultOccurrence_keeps {z : State} (hw : Option Nat) : RunsKeeps z (execFaultOccurrence hw z) := by
  refine ⟨_, rfl, ?_⟩
  repeat' first
    | lift_lets -underBinder
    | (intro x; clear_value x)
    | (with_reducible first | assumption | exact Keeps.refl _ | apply Keeps.ite | apply collect_keeps)
    | (with_reducible apply Keeps.base; with_reducible first
        | assumption | exact Keeps.refl _ | apply Keeps.ite | apply collect_keeps)
    | split

theorem execWireFault_keeps {z : State} (src : Nat) : RunsKeeps z (execWireFault src z) := by
  refine ⟨_, rfl, ?_⟩
  repeat' first
    | lift_lets -underBinder
    | (intro x; refine Keeps.cut (s := z) (t := x) ?_ ?_; unfold x; clear x; rotate_left; intro _; clear_value x; rotate_right)
    | (intro x; clear_value x)
    | (with_reducible first
        | assumption | exact Keeps.refl _ | apply Keeps.ite | apply State.set1_keeps | apply collect_keeps)
    | (with_reducible apply Keeps.base; with_reducible first | assumption | exact Keeps.refl _)

theorem execWireHealthy_same {z : State} (src : Nat) : RunsSame z (execWireHealthy src z) := by
  refine ⟨_, rfl, ?_⟩
  repeat' first
    | lift_lets -underBinder
    | (intro x; clear_value x)
    | (with_reducible first | assumption | exact Same.refl _ | apply Same.ite | apply State.pb_same)
    | (with_reducible apply Same.base; with_reducible first
        | assumption | exact Same.refl _ | apply Same.ite | apply State.pb_same)
    | split

theorem fltCfgWrite_same {z s : State} (kz : Same z s) (src : Nat) (v : Word) :
    Same z (fltCfgWrite src v s) := by
  unfold fltCfgWrite
  repeat' first
    | lift_lets -underBinder
    | (intro x; refine Same.cut (s := z) (t := x) ?_ ?_; unfold x; clear x; rotate_left; intro _; clear_value x; rotate_right)
    | (intro x; clear_value x)
    | (with_reducible first
        | assumption | exact Same.refl _ | apply Same.ite | apply State.set1_same | apply State.cfgWr_same)
    | (with_reducible apply Same.base; with_reducible assumption)
theorem fltCfgWrite_keeps {z s : State} (kz : Keeps z s) (src : Nat) (v : Word) :
    Keeps z (fltCfgWrite src v s) :=
  (fltCfgWrite_same (.refl _) _ _).keeps.after kz

theorem execFltCfgWrite_same {z : State} (src : Nat) (v : Word) : RunsSame z (execFltCfgWrite src v z) := by
  refine ⟨_, rfl, ?_⟩
  repeat' first
    | lift_lets -underBinder
    | (with_reducible first
        | assumption | exact Same.refl _ | apply Same.ite
        | (apply State.host_same; intro z; rotate_left; rotate_right) | apply fltCfgWrite_same)

theorem fltLogRead_same {z s : State} (kz : Same z s) (p : Path) :
    Same z (fltLogRead p s) := by
  unfold fltLogRead
  repeat' first
    | lift_lets -underBinder
    | (intro x; refine Same.cut (s := z) (t := x) ?_ ?_; unfold x; clear x; rotate_left; intro _; clear_value x; rotate_right)
    | (intro x; clear_value x)
    | (with_reducible first
        | assumption | exact Same.refl _ | apply Same.ite | apply State.setRead_same | apply State.p_same
        | apply State.wr_same | apply State.count_same)
    | (with_reducible apply Same.base; with_reducible first
        | assumption | exact Same.refl _ | apply Same.ite | apply State.setRead_same | apply State.p_same
        | apply State.wr_same | apply State.count_same)
    | split
theorem fltLogRead_keeps {z s : State} (kz : Keeps z s) (p : Path) :
    Keeps z (fltLogRead p s) :=
  (fltLogRead_same (.refl _) _).keeps.after kz

theorem execFltLogRead_same {z : State} (path : Path) : RunsSame z (execFltLogRead path z) := by
  refine ⟨_, rfl, ?_⟩
  repeat' first
    | lift_lets -underBinder
    | (with_reducible first
        | assumption | exact Same.refl _ | apply Same.ite
        | (apply State.hostRead_same; intro z; rotate_left; rotate_right) | apply fltLogRead_same)

theorem unitChecks_same {act : Nat → Bool → State → State} {z s : State} (hact : ∀ a0 a1 t, Same t (act a0 a1 t)) (kz : Same z s) (q : Nat) (r : DescRun) (fence : Bool) :
    Same z (unitChecks q r fence act s) := by
  unfold unitChecks
  repeat' first
    | lift_lets -underBinder
    | (intro (x : _ → _ → _ → _ → State); unfold x; clear x)
    | (intro x; clear_value x)
    | (with_reducible first
        | assumption | exact Same.refl _ | apply Same.ite | refine Same.after (hact ..) ?_ | apply State.complete_same
        | apply fence_same | apply State.lastErr_same)

theorem unitChecks_keeps {act : Nat → Bool → State → State} {z s : State} (hact : ∀ a0 a1 t, Keeps t (act a0 a1 t)) (kz : Keeps z s) (q : Nat) (r : DescRun) (fence : Bool) :
    Keeps z (unitChecks q r fence act s) := by
  unfold unitChecks
  repeat' first
    | lift_lets -underBinder
    | (intro (x : _ → _ → _ → _ → State); unfold x; clear x)
    | (intro x; clear_value x)
    | (with_reducible first
        | assumption | exact Keeps.refl _ | apply Keeps.ite | refine Keeps.after (hact ..) ?_
        | apply State.complete_keeps | apply fence_keeps | apply State.lastErr_keeps)

theorem fenceUnitCmd_keeps {z s : State} (kz : Keeps z s) (q : Nat) (r : DescRun) :
    Keeps z (fenceUnitCmd q r s) := by
  unfold fenceUnitCmd
  repeat' first
    | lift_lets -underBinder
    | (intro x; refine Keeps.cut (s := z) (t := x) ?_ ?_; unfold x; clear x; rotate_left; intro _; clear_value x; rotate_right)
    | (with_reducible first
        | assumption | exact Keeps.refl _ | apply Keeps.ite
        | (apply unitChecks_keeps; intro _ _ z; rotate_left; rotate_right) | apply fenceHse_keeps
        | apply fenceUnit_keeps | apply State.complete_keeps)

theorem execFenceUnit_keeps {z : State} (q : Nat) : RunsKeeps z (execFenceUnit q z) := by
  refine ⟨_, rfl, ?_⟩
  repeat' first
    | lift_lets -underBinder
    | (with_reducible first
        | assumption | exact Keeps.refl _ | apply Keeps.ite
        | (apply State.withDesc_keeps; intro _ z; rotate_left; rotate_right) | apply fenceUnitCmd_keeps)

theorem admitUnitCmd_same {z s : State} (kz : Same z s) (q : Nat) (r : DescRun) :
    Same z (admitUnitCmd q r s) := by
  unfold admitUnitCmd
  repeat' first
    | lift_lets -underBinder
    | (with_reducible first
        | assumption | exact Same.refl _ | apply Same.ite
        | (apply unitChecks_same; intro _ _ z; rotate_left; rotate_right) | apply State.complete_same
        | (apply State.when_same; intro z; rotate_left; rotate_right) | apply State.p_same)
    | (with_reducible apply Same.base; with_reducible first
        | assumption | exact Same.refl _ | apply Same.ite | apply State.complete_same | apply State.p_same)
    | split
theorem admitUnitCmd_keeps {z s : State} (kz : Keeps z s) (q : Nat) (r : DescRun) :
    Keeps z (admitUnitCmd q r s) :=
  (admitUnitCmd_same (.refl _) _ _).keeps.after kz

theorem execAdmitUnit_same {z : State} (q : Nat) : RunsSame z (execAdmitUnit q z) := by
  refine ⟨_, rfl, ?_⟩
  repeat' first
    | lift_lets -underBinder
    | (with_reducible first
        | assumption | exact Same.refl _ | apply Same.ite
        | (apply State.withDesc_same; intro _ z; rotate_left; rotate_right) | apply admitUnitCmd_same)

theorem unitRestore_keeps {z s : State} (kz : Keeps z s) (u : Nat) :
    Keeps z (unitRestore u s) := by
  unfold unitRestore
  repeat' first
    | lift_lets -underBinder
    | (intro x; clear_value x)
    | (intro x; unfold x; clear x)
    | (with_reducible first
        | assumption | exact Keeps.refl _ | apply Keeps.ite | apply admitHall_keeps
        | (apply State.when_keeps; intro z; rotate_left; rotate_right) | apply State.p_keeps
        | apply State.unraise_keeps | apply State.clr_keeps
        | (apply State.each_keeps; intro _ z; rotate_left; rotate_right) | apply smuRelease_keeps)

theorem execWarmingDone_keeps {z : State} (u : Nat) (sub pass : Bool) (us : Nat) : RunsKeeps z (execWarmingDone u sub pass us z) := by
  refine ⟨_, rfl, ?_⟩
  repeat' first
    | lift_lets -underBinder
    | (intro x; refine Keeps.cut (s := z) (t := x) ?_ ?_; unfold x; clear x; rotate_left; intro _; clear_value x; rotate_right)
    | (with_reducible first
        | assumption | exact Keeps.refl _ | apply Keeps.ite | apply admitEnd_keeps | apply State.clr_keeps
        | apply State.wr_keeps | apply idleAll_keeps | apply unitRestore_keeps | apply calSettle_keeps
        | apply State.p_keeps)
    | (with_reducible apply Keeps.base; with_reducible first
        | assumption | exact Keeps.refl _ | apply Keeps.ite | apply admitEnd_keeps | apply State.clr_keeps
        | apply State.wr_keeps | apply idleAll_keeps | apply unitRestore_keeps | apply calSettle_keeps
        | apply State.p_keeps)
    | split

end Sys2Proof.Machine
end

