-- ==== Sys2Proof/Laws/SameThermal.lean ====
section
/-! SUPPORT. What the operations of Machine.Thermal keep: the part, the queue, the canonical tables, and where they store no bulk
memory all of it. -/
set_option linter.unreachableTactic false
set_option linter.unusedTactic false
namespace Sys2Proof.Machine

theorem State.modTherm_same {z s : State} (kz : Same z s) (f : ThermX → ThermX) :
    Same z (State.modTherm s f) := by
  unfold State.modTherm
  repeat' first
    | lift_lets -underBinder
    | (with_reducible first | assumption | exact Same.refl _ | apply Same.ite)
    | (with_reducible apply Same.base; with_reducible assumption)
theorem State.modTherm_keeps {z s : State} (kz : Keeps z s) (f : ThermX → ThermX) :
    Keeps z (State.modTherm s f) :=
  (State.modTherm_same (.refl _) _).keeps.after kz

theorem State.setSens_same {z s : State} (kz : Same z s) (i : Nat) (x : SensX) :
    Same z (State.setSens s i x) := by
  unfold State.setSens
  repeat' first
    | lift_lets -underBinder
    | (with_reducible first | assumption | exact Same.refl _ | apply Same.ite | apply State.modTherm_same)
theorem State.setSens_keeps {z s : State} (kz : Keeps z s) (i : Nat) (x : SensX) :
    Keeps z (State.setSens s i x) :=
  (State.setSens_same (.refl _) _ _).keeps.after kz

theorem State.setFlag_same {z s : State} (kz : Same z s) (k : Nat) (x : FlagX) :
    Same z (State.setFlag s k x) := by
  unfold State.setFlag
  repeat' first
    | lift_lets -underBinder
    | (with_reducible first | assumption | exact Same.refl _ | apply Same.ite | apply State.modTherm_same)
theorem State.setFlag_keeps {z s : State} (kz : Keeps z s) (k : Nat) (x : FlagX) :
    Keeps z (State.setFlag s k x) :=
  (State.setFlag_same (.refl _) _ _).keeps.after kz

theorem State.setRail_same {z s : State} (kz : Same z s) (r : Nat) (x : RailX) :
    Same z (State.setRail s r x) := by
  unfold State.setRail
  repeat' first
    | lift_lets -underBinder
    | (with_reducible first | assumption | exact Same.refl _ | apply Same.ite | apply State.modTherm_same)
theorem State.setRail_keeps {z s : State} (kz : Keeps z s) (r : Nat) (x : RailX) :
    Keeps z (State.setRail s r x) :=
  (State.setRail_same (.refl _) _ _).keeps.after kz

theorem levelEffects_same {z s : State} (kz : Same z s) :
    Same z (levelEffects s) := by
  unfold levelEffects
  repeat' first
    | lift_lets -underBinder
    | (intro x; refine Same.cut (s := z) (t := x) ?_ ?_; unfold x; clear x; rotate_left; intro _; clear_value x; rotate_right)
    | (with_reducible first
        | assumption | exact Same.refl _ | apply Same.ite | apply State.emit_same
        | (apply State.when_same; intro z; rotate_left; rotate_right) | apply State.vecCount_same
        | apply State.j_same)
theorem levelEffects_keeps {z s : State} (kz : Keeps z s) :
    Keeps z (levelEffects s) :=
  (levelEffects_same (.refl _)).keeps.after kz

theorem thermEnd_keeps {z s : State} (kz : Keeps z s) :
    Keeps z (thermEnd s) := by
  unfold thermEnd
  repeat' first
    | lift_lets -underBinder
    | (with_reducible first
        | assumption | exact Keeps.refl _ | apply Keeps.ite | apply idleAll_keeps
        | (apply State.each_keeps; intro _ z; rotate_left; rotate_right) | apply State.clr_keeps)

theorem levelForm_keeps {z s : State} (kz : Keeps z s) :
    Keeps z (levelForm s) := by
  unfold levelForm
  repeat' first
    | lift_lets -underBinder
    | (intro x; refine Keeps.cut (s := z) (t := x) ?_ ?_; unfold x; clear x; rotate_left; intro _; clear_value x; rotate_right)
    | (intro x; clear_value x)
    | (with_reducible first
        | assumption | exact Keeps.refl _ | apply Keeps.ite | apply State.p_keeps | apply State.set1_keeps
        | apply levelEffects_keeps | apply thermEnd_keeps | apply idleAll_keeps)

theorem tsBit_same {z s : State} (kz : Same z s) (i : Nat) (b : Bool) :
    Same z (tsBit i b s) := by
  unfold tsBit
  repeat' first
    | lift_lets -underBinder
    | (with_reducible first | assumption | exact Same.refl _ | apply Same.ite | apply State.p_same)
theorem tsBit_keeps {z s : State} (kz : Keeps z s) (i : Nat) (b : Bool) :
    Keeps z (tsBit i b s) :=
  (tsBit_same (.refl _) _ _).keeps.after kz

theorem failedShow_same {z s : State} (kz : Same z s) :
    Same z (failedShow s) := by
  unfold failedShow
  repeat' first
    | lift_lets -underBinder
    | (intro x; refine Same.cut (s := z) (t := x) ?_ ?_; unfold x; clear x; rotate_left; intro _; clear_value x; rotate_right)
    | (intro x; clear_value x)
    | (intro x; unfold x; clear x)
    | (with_reducible first
        | assumption | exact Same.refl _ | apply Same.ite | apply State.modTherm_same | apply State.p_same
        | apply State.pb_same | (apply State.each_same; intro _ z; rotate_left; rotate_right)
        | apply State.raiseLevel_same | apply State.unraise_same)
theorem failedShow_keeps {z s : State} (kz : Keeps z s) :
    Keeps z (failedShow s) :=
  (failedShow_same (.refl _)).keeps.after kz

theorem sensRound_same {z s : State} (kz : Same z s) (i : Nat) (e : Bool × Int) :
    Same z (sensRound i e s) := by
  unfold sensRound
  repeat' first
    | lift_lets -underBinder
    | (intro x; refine Same.cut (s := z) (t := x) ?_ ?_; unfold x; clear x; rotate_left; intro _; clear_value x; rotate_right)
    | (intro x; clear_value x)
    | (with_reducible first
        | assumption | exact Same.refl _ | apply Same.ite | apply State.setSens_same | apply tsBit_same
        | apply State.set1_same | apply State.raiseLevel_same)
theorem sensRound_keeps {z s : State} (kz : Keeps z s) (i : Nat) (e : Bool × Int) :
    Keeps z (sensRound i e s) :=
  (sensRound_same (.refl _) _ _).keeps.after kz

theorem hkStore_same {z s : State} (kz : Same z s) (i : Nat) (e : Bool × Int) :
    Same z (hkStore i e s) := by
  unfold hkStore
  repeat' first
    | lift_lets -underBinder
    | (intro x; refine Same.cut (s := z) (t := x) ?_ ?_; unfold x; clear x; rotate_left; intro _; clear_value x; rotate_right)
    | (intro x; clear_value x)
    | (with_reducible first
        | assumption | exact Same.refl _ | apply Same.ite | apply State.pb_same | apply State.p_same)
theorem hkStore_keeps {z s : State} (kz : Keeps z s) (i : Nat) (e : Bool × Int) :
    Keeps z (hkStore i e s) :=
  (hkStore_same (.refl _) _ _).keeps.after kz

theorem railRound_same {z s : State} (kz : Same z s) (r : Nat) (v c : Bool × Int) :
    Same z (railRound r v c s).2 := by
  unfold railRound
  repeat' first
    | lift_lets -underBinder
    | (intro x; clear_value x)
    | (with_reducible first | assumption | exact Same.refl _ | apply Same.ite | apply State.setRail_same)
theorem railRound_keeps {z s : State} (kz : Keeps z s) (r : Nat) (v c : Bool × Int) :
    Keeps z (railRound r v c s).2 :=
  (railRound_same (.refl _) _ _ _).keeps.after kz

theorem railFaults_same {z s : State} (kz : Same z s) :
    Same z (railFaults s) := by
  unfold railFaults
  repeat' first
    | lift_lets -underBinder
    | (with_reducible first
        | assumption | exact Same.refl _ | apply Same.ite
        | (apply State.over_same; intro _ z; rotate_left; rotate_right) | apply State.raiseLevel_same
        | apply State.unraise_same)
theorem railFaults_keeps {z s : State} (kz : Keeps z s) :
    Keeps z (railFaults s) :=
  (railFaults_same (.refl _)).keeps.after kz

theorem bootRound_same {z s : State} (kz : Same z s) :
    Same z (bootRound s) := by
  unfold bootRound
  repeat' first
    | lift_lets -underBinder
    | (intro x; refine Same.cut (s := z) (t := x) ?_ ?_; unfold x; clear x; rotate_left; intro _; clear_value x; rotate_right)
    | (intro x; clear_value x)
    | (with_reducible first
        | assumption | exact Same.refl _ | apply Same.ite | apply State.modBoot_same | apply State.pb_same)
theorem bootRound_keeps {z s : State} (kz : Keeps z s) :
    Keeps z (bootRound s) :=
  (bootRound_same (.refl _)).keeps.after kz

theorem railsRound_same {z s : State} (kz : Same z s) (data : List (Bool × Int)) :
    Same z (railsRound data s) := by
  unfold railsRound
  repeat' first
    | lift_lets -underBinder
    | (intro x; clear_value x)
    | (with_reducible first
        | assumption | exact Same.refl _ | apply Same.ite
        | (apply foldl_snd_same; intro p _; obtain ⟨_, z⟩ := p; rotate_left; rotate_right) | apply railRound_same
        | apply railFaults_same | apply State.p_same)
theorem railsRound_keeps {z s : State} (kz : Keeps z s) (data : List (Bool × Int)) :
    Keeps z (railsRound data s) :=
  (railsRound_same (.refl _) _).keeps.after kz

theorem adcCheck_same {z s : State} (kz : Same z s) (a b : Bool) :
    Same z (adcCheck a b s) := by
  unfold adcCheck
  repeat' first
    | lift_lets -underBinder
    | (intro x; refine Same.cut (s := z) (t := x) ?_ ?_; unfold x; clear x; rotate_left; intro _; clear_value x; rotate_right)
    | (intro x; clear_value x)
    | (with_reducible first
        | assumption | exact Same.refl _ | apply Same.ite | apply State.modTherm_same | apply State.raiseLevel_same
        | apply State.unraise_same)
theorem adcCheck_keeps {z s : State} (kz : Keeps z s) (a b : Bool) :
    Keeps z (adcCheck a b s) :=
  (adcCheck_same (.refl _) _ _).keeps.after kz

theorem execSdComparatorTrip_same {z : State} (i : Nat) : RunsSame z (execSdComparatorTrip i z) := by
  refine ⟨_, rfl, ?_⟩
  repeat' first
    | lift_lets -underBinder
    | (with_reducible first | assumption | exact Same.refl _ | apply Same.ite)
    | (with_reducible apply Same.base; with_reducible first | assumption | exact Same.refl _)

theorem thermalShutdown_keeps {z s : State} (kz : Keeps z s) :
    Keeps z (thermalShutdown s) := by
  unfold thermalShutdown
  repeat' first
    | lift_lets -underBinder
    | (intro x; refine Keeps.cut (s := z) (t := x) ?_ ?_; unfold x; clear x; rotate_left; intro _; clear_value x; rotate_right)
    | (with_reducible first
        | assumption | exact Keeps.refl _ | apply Keeps.ite | apply outputsSafe_keeps | apply State.set1_keeps
        | apply banUpdate_keeps | apply State.modTherm_keeps)
    | (with_reducible apply Keeps.base; with_reducible assumption)

theorem execThermalShutdown_keeps {z : State}  : RunsKeeps z (execThermalShutdown z) := by
  refine ⟨_, rfl, ?_⟩
  repeat' first
    | lift_lets -underBinder
    | (with_reducible first | assumption | exact Keeps.refl _ | apply Keeps.ite | apply thermalShutdown_keeps)

theorem jShutdown_same {z s : State} (kz : Same z s) (arg stamp : Nat) :
    Same z (jShutdown arg stamp s) := by
  unfold jShutdown
  repeat' first
    | lift_lets -underBinder
    | (intro x; clear_value x)
    | (with_reducible first | assumption | exact Same.refl _ | apply Same.ite | apply State.jput_same)
theorem jShutdown_keeps {z s : State} (kz : Keeps z s) (arg stamp : Nat) :
    Keeps z (jShutdown arg stamp s) :=
  (jShutdown_same (.refl _) _ _).keeps.after kz

theorem runsFault_keeps {z s : State} (kz : Keeps z s) :
    Keeps z (runsFault s) := by
  unfold runsFault
  repeat' first
    | lift_lets -underBinder
    | (intro x; refine Keeps.cut (s := z) (t := x) ?_ ?_; unfold x; clear x; rotate_left; intro _; clear_value x; rotate_right)
    | (intro x; clear_value x)
    | (with_reducible first
        | assumption | exact Keeps.refl _ | apply Keeps.ite | apply State.draw_keeps | apply replayStop_keeps
        | (apply State.each_keeps; intro _ z; rotate_left; rotate_right) | apply State.modQueue_keeps
        | apply fence_keeps | apply State.endDesc_keeps
        | (apply State.over_keeps; intro _ z; rotate_left; rotate_right) | apply State.clr_keeps
        | apply calRunEnd_keeps | refine Keeps.pair2 (by assumption) ?_)
    | (with_reducible apply Keeps.base; with_reducible first
        | assumption | exact Keeps.refl _ | apply Keeps.ite | apply State.draw_keeps | apply replayStop_keeps
        | apply State.modQueue_keeps | apply fence_keeps | apply State.endDesc_keeps | apply State.clr_keeps
        | apply calRunEnd_keeps | refine Keeps.pair2 (by assumption) ?_)
    | split

theorem restart_keeps {z s : State} (kz : Keeps z s) :
    Keeps z (restart s) := by
  unfold restart
  repeat' first
    | lift_lets -underBinder
    | (intro x; refine Keeps.cut (s := z) (t := x) ?_ ?_; unfold x; clear x; rotate_left; intro _; clear_value x; rotate_right)
    | (intro x; clear_value x)
    | (with_reducible first
        | assumption | exact Keeps.refl _ | apply Keeps.ite | apply State.clr_keeps | apply State.set1_keeps
        | apply runsFault_keeps | (apply State.each_keeps; intro _ z; rotate_left; rotate_right) | apply State.p_keeps
        | (apply State.when_keeps; intro z; rotate_left; rotate_right) | apply jShutdown_keeps | apply banUpdate_keeps
        | apply thermEnd_keeps | apply levelEffects_keeps)

theorem coolRound_keeps {z s : State} (kz : Keeps z s) :
    Keeps z (coolRound s) := by
  unfold coolRound
  repeat' first
    | lift_lets -underBinder
    | (intro x; refine Keeps.cut (s := z) (t := x) ?_ ?_; unfold x; clear x; rotate_left; intro _; clear_value x; rotate_right)
    | (intro x; clear_value x)
    | (with_reducible first
        | assumption | exact Keeps.refl _ | apply Keeps.ite | apply State.modTherm_keeps | apply restart_keeps)

theorem flagsRound_same {z s : State} (kz : Same z s) (newly : List Nat) (prev : Nat) :
    Same z (flagsRound newly prev s) := by
  unfold flagsRound
  repeat' first
    | lift_lets -underBinder
    | (intro x; clear_value x)
    | (with_reducible first
        | assumption | exact Same.refl _ | apply Same.ite | apply State.modTherm_same
        | (apply State.over_same; intro _ z; rotate_left; rotate_right) | apply State.setFlag_same)
theorem flagsRound_keeps {z s : State} (kz : Keeps z s) (newly : List Nat) (prev : Nat) :
    Keeps z (flagsRound newly prev s) :=
  (flagsRound_same (.refl _) _ _).keeps.after kz

theorem hkRoundEnd_keeps {z s : State} (kz : Keeps z s) (data : List (Bool × Int)) :
    Keeps z (hkRoundEnd data s) := by
  unfold hkRoundEnd
  repeat' first
    | lift_lets -underBinder
    | (intro x; refine Keeps.cut (s := z) (t := x) ?_ ?_; unfold x; clear x; rotate_left; intro _; clear_value x; rotate_right)
    | (intro x; clear_value x)
    | (with_reducible first
        | assumption | exact Keeps.refl _ | apply Keeps.ite
        | (apply State.each_keeps; intro _ z; rotate_left; rotate_right) | apply sensRound_keeps | apply hkStore_keeps
        | apply State.p_keeps | apply flagsRound_keeps
        | (apply State.over_keeps; intro _ z; rotate_left; rotate_right)
        | (apply State.when_keeps; intro z; rotate_left; rotate_right) | apply State.j_keeps | apply adcCheck_keeps
        | apply railsRound_keeps | apply failedShow_keeps | apply levelForm_keeps | apply idleAll_keeps
        | apply coolRound_keeps | apply bootRound_keeps | apply State.modTherm_keeps)
    | (with_reducible apply Keeps.base; with_reducible first
        | assumption | exact Keeps.refl _ | apply Keeps.ite | apply sensRound_keeps | apply hkStore_keeps
        | apply State.p_keeps | apply flagsRound_keeps | apply State.j_keeps | apply adcCheck_keeps
        | apply railsRound_keeps | apply failedShow_keeps | apply levelForm_keeps | apply idleAll_keeps
        | apply coolRound_keeps | apply bootRound_keeps | apply State.modTherm_keeps)
    | split

theorem execHkRoundEnd_keeps {z : State} (data : List (Bool × Int)) : RunsKeeps z (execHkRoundEnd data z) := by
  refine ⟨_, rfl, ?_⟩
  repeat' first
    | lift_lets -underBinder
    | (with_reducible first | assumption | exact Keeps.refl _ | apply Keeps.ite | apply hkRoundEnd_keeps)

theorem thermCtlWrite_keeps {z s : State} (kz : Keeps z s) (v : Word) :
    Keeps z (thermCtlWrite v s) := by
  unfold thermCtlWrite
  repeat' first
    | lift_lets -underBinder
    | (with_reducible first
        | assumption | exact Keeps.refl _ | apply Keeps.ite | apply levelForm_keeps | apply State.wr_keeps)

theorem execLvlFloorWrite_keeps {z : State} (v : Word) : RunsKeeps z (execLvlFloorWrite v z) := by
  refine ⟨_, rfl, ?_⟩
  repeat' first
    | lift_lets -underBinder
    | (with_reducible first
        | assumption | exact Keeps.refl _ | apply Keeps.ite
        | (apply State.hostTh_keeps; intro z; rotate_left; rotate_right) | apply thermCtlWrite_keeps)

theorem thCfgWrite_same {z s : State} (kz : Same z s) (v : Word) :
    Same z (thCfgWrite v s) := by
  unfold thCfgWrite
  repeat' first
    | lift_lets -underBinder
    | (intro x; clear_value x)
    | (with_reducible first
        | assumption | exact Same.refl _ | apply Same.ite | apply State.cfgWr_same | apply State.set1_same)
theorem thCfgWrite_keeps {z s : State} (kz : Keeps z s) (v : Word) :
    Keeps z (thCfgWrite v s) :=
  (thCfgWrite_same (.refl _) _).keeps.after kz

theorem execThCfgWrite_same {z : State} (v : Word) : RunsSame z (execThCfgWrite v z) := by
  refine ⟨_, rfl, ?_⟩
  repeat' first
    | lift_lets -underBinder
    | (with_reducible first
        | assumption | exact Same.refl _ | apply Same.ite
        | (apply State.hostTh_same; intro z; rotate_left; rotate_right) | apply thCfgWrite_same)

theorem tsdWrite_same {z s : State} (kz : Same z s) (v : Word) :
    Same z (tsdWrite v s) := by
  unfold tsdWrite
  repeat' first
    | lift_lets -underBinder
    | (intro x; clear_value x)
    | (with_reducible first
        | assumption | exact Same.refl _ | apply Same.ite | apply State.cfgWr_same | apply State.set1_same)
theorem tsdWrite_keeps {z s : State} (kz : Keeps z s) (v : Word) :
    Keeps z (tsdWrite v s) :=
  (tsdWrite_same (.refl _) _).keeps.after kz

theorem execTsdWrite_same {z : State} (v : Word) : RunsSame z (execTsdWrite v z) := by
  refine ⟨_, rfl, ?_⟩
  repeat' first
    | lift_lets -underBinder
    | (with_reducible first
        | assumption | exact Same.refl _ | apply Same.ite
        | (apply State.hostTh_same; intro z; rotate_left; rotate_right) | apply tsdWrite_same)

theorem tsFailWrite_same {z s : State} (kz : Same z s) (hi : Bool) (v : Word) :
    Same z (tsFailWrite hi v s) := by
  unfold tsFailWrite
  repeat' first
    | lift_lets -underBinder
    | (intro x; refine Same.cut (s := z) (t := x) ?_ ?_; unfold x; clear x; rotate_left; intro _; clear_value x; rotate_right)
    | (intro x; clear_value x)
    | (with_reducible first
        | assumption | exact Same.refl _ | apply Same.ite | apply failedShow_same
        | (apply State.over_same; intro _ z; rotate_left; rotate_right) | apply tsBit_same | apply State.setSens_same
        | apply State.clr_same | apply State.unraise_same
        | (apply State.when_same; intro z; rotate_left; rotate_right) | apply State.j_same)
theorem tsFailWrite_keeps {z s : State} (kz : Keeps z s) (hi : Bool) (v : Word) :
    Keeps z (tsFailWrite hi v s) :=
  (tsFailWrite_same (.refl _) _ _).keeps.after kz

theorem execTsReturn_same {z : State} (hi : Bool) (v : Word) : RunsSame z (execTsReturn hi v z) := by
  refine ⟨_, rfl, ?_⟩
  repeat' first
    | lift_lets -underBinder
    | (with_reducible first
        | assumption | exact Same.refl _ | apply Same.ite
        | (apply State.hostTh_same; intro z; rotate_left; rotate_right) | apply tsFailWrite_same)

theorem sdSeenClear_same {z s : State} (kz : Same z s) :
    Same z (sdSeenClear s) := by
  unfold sdSeenClear
  repeat' first
    | lift_lets -underBinder
    | (intro x; refine Same.cut (s := z) (t := x) ?_ ?_; unfold x; clear x; rotate_left; intro _; clear_value x; rotate_right)
    | (with_reducible first
        | assumption | exact Same.refl _ | apply Same.ite | apply State.clr_same | apply banUpdate_same
        | apply State.p_same)
theorem sdSeenClear_keeps {z s : State} (kz : Keeps z s) :
    Keeps z (sdSeenClear s) :=
  (sdSeenClear_same (.refl _)).keeps.after kz

theorem execSdSeenClear_same {z : State}  : RunsSame z (execSdSeenClear z) := by
  refine ⟨_, rfl, ?_⟩
  repeat' first
    | lift_lets -underBinder
    | (with_reducible first
        | assumption | exact Same.refl _ | apply Same.ite
        | (apply State.hostTh_same; intro z; rotate_left; rotate_right)
        | (apply State.when_same; intro z; rotate_left; rotate_right) | apply sdSeenClear_same)

theorem railWinWrite_same {z s : State} (kz : Same z s) (r : Nat) (v : Word) :
    Same z (railWinWrite r v s) := by
  unfold railWinWrite
  repeat' first
    | lift_lets -underBinder
    | (with_reducible first | assumption | exact Same.refl _ | apply Same.ite | apply State.wr_same)
theorem railWinWrite_keeps {z s : State} (kz : Keeps z s) (r : Nat) (v : Word) :
    Keeps z (railWinWrite r v s) :=
  (railWinWrite_same (.refl _) _ _).keeps.after kz

end Sys2Proof.Machine
end

