-- ==== Sys2Proof/Laws/SameCalib.lean ====
section
/-! SUPPORT. What the operations of Machine.Calib keep: the part, the queue, the canonical tables, and where they store no bulk
memory all of it. -/
set_option linter.unreachableTactic false
set_option linter.unusedTactic false
namespace Sys2Proof.Machine

theorem execCalSliceStart_same {z : State} (u item chans : Nat) : RunsSame z (execCalSliceStart u item chans z) := by
  refine ⟨_, rfl, ?_⟩
  repeat' first
    | lift_lets -underBinder
    | (intro x; clear_value x)
    | (with_reducible first | assumption | exact Same.refl _ | apply Same.ite | apply sliceSwitch_same)
    | (with_reducible apply Same.base; with_reducible first
        | assumption | exact Same.refl _ | apply Same.ite | apply sliceSwitch_same)
    | split

theorem calUnitBit_same {z s : State} (kz : Same z s) (u : Nat) (fh fg : Nat → FRef) (item : Nat) (b : Bool) :
    Same z (calUnitBit u fh fg item b s) := by
  unfold calUnitBit
  repeat' first
    | lift_lets -underBinder
    | (intro x; clear_value x)
    | (with_reducible first | assumption | exact Same.refl _ | apply Same.ite | apply State.wr_same)
theorem calUnitBit_keeps {z s : State} (kz : Keeps z s) (u : Nat) (fh fg : Nat → FRef) (item : Nat) (b : Bool) :
    Keeps z (calUnitBit u fh fg item b s) :=
  (calUnitBit_same (.refl _) _ _ _ _ _).keeps.after kz

theorem partDone_keeps {z s : State} (kz : Keeps z s) (p : CalPart) :
    Keeps z (partDone p s) := by
  unfold partDone
  repeat' first
    | lift_lets -underBinder
    | (intro x; refine Keeps.cut (s := z) (t := x) ?_ ?_; unfold x; clear x; rotate_left; intro _; clear_value x; rotate_right)
    | (intro x; clear_value x)
    | (with_reducible first
        | assumption | exact Keeps.refl _ | apply Keeps.ite
        | (apply State.when_keeps; intro z; rotate_left; rotate_right)
        | (apply State.over_keeps; intro _ z; rotate_left; rotate_right) | apply setTarget_keeps
        | apply calUnitBit_keeps)
    | (with_reducible apply Keeps.base; with_reducible first
        | assumption | (apply State.when_keeps; intro z; rotate_left; rotate_right)
        | (apply State.over_keeps; intro _ z; rotate_left; rotate_right))

theorem boardTarget_same {z s : State} (kz : Same z s) (a : Nat) (v : Int) :
    Same z (boardTarget a v s).2 := by
  unfold boardTarget
  repeat' first
    | lift_lets -underBinder
    | (intro x; clear_value x)
    | (with_reducible first
        | assumption | exact Same.refl _ | apply Same.ite | apply State.draw_same
        | refine Same.pair2 (by assumption) ?_)
    | (with_reducible apply Same.base; with_reducible first
        | assumption | exact Same.refl _ | apply Same.ite | apply State.draw_same
        | refine Same.pair2 (by assumption) ?_)
    | split
theorem boardTarget_keeps {z s : State} (kz : Keeps z s) (a : Nat) (v : Int) :
    Keeps z (boardTarget a v s).2 :=
  (boardTarget_same (.refl _) _ _).keeps.after kz

theorem judge_same {z : State} {acc : Bool × List (Nat × Int) × State} (kz : Same z acc.2.2) (e : Nat × Int × Int × Int) :
    Same z (judge e acc).2.2 := by
  obtain ⟨a, m1, m2, v⟩ := e
  obtain ⟨ok, ts, s⟩ := acc
  exact boardTarget_same kz ..

theorem judge_all_same {z : State} {l : List (Nat × Int × Int × Int)} {acc : Bool × List (Nat × Int) × State} (kz : Same z acc.2.2) :
    Same z (l.foldl (fun acc e => judge e acc) acc).2.2 := by
  induction l generalizing acc with
  | nil => exact kz
  | cons e r ih => exact ih (judge_same kz e)

theorem sliceMeasured_keeps {z s : State} (kz : Keeps z s) (x : SliceX) (ms : List (Int × Int × Int)) (p : CalPart) :
    Keeps z (sliceMeasured x ms p s) := by
  refine Keeps.after (u := s) ?_ kz
  unfold sliceMeasured
  dsimp only
  split
  · refine partDone_keeps ?_ ..
    exact Keeps.base (judge_all_same (acc := (p.ok, p.targets, s)) (Same.refl s)).keeps
  · exact Keeps.base (judge_all_same (acc := (p.ok, p.targets, s)) (Same.refl s)).keeps

theorem sliceRelease_keeps {z s : State} (kz : Keeps z s) (h : Nat) (delayed : Bool) :
    Keeps z (sliceRelease h delayed s) := by
  unfold sliceRelease
  repeat' first
    | lift_lets -underBinder
    | (intro x; refine Keeps.cut (s := z) (t := x) ?_ ?_; unfold x; clear x; rotate_left; intro _; clear_value x; rotate_right)
    | (with_reducible first
        | assumption | exact Keeps.refl _ | apply Keeps.ite
        | (apply State.when_keeps; intro z; rotate_left; rotate_right) | apply ppGo_keeps | apply startCheck_keeps
        | apply idleDecide_keeps | apply swapAfterSend_keeps | apply tryStart_keeps)

theorem sliceEnd_keeps {z s : State} (kz : Keeps z s) (x : SliceX) :
    Keeps z (sliceEnd x s) := by
  unfold sliceEnd
  repeat' first
    | lift_lets -underBinder
    | (intro x; refine Keeps.cut (s := z) (t := x) ?_ ?_; unfold x; clear x; rotate_left; intro _; clear_value x; rotate_right)
    | (with_reducible first
        | assumption | exact Keeps.refl _ | apply Keeps.ite | apply sliceStop_keeps | apply sliceRelease_keeps
        | (apply State.over_keeps; intro _ z; rotate_left; rotate_right) | apply peTest_keeps)

theorem execCalSliceEnd_keeps {z : State} (u : Nat) (ms : List (Int × Int × Int)) : RunsKeeps z (execCalSliceEnd u ms z) := by
  refine ⟨_, rfl, ?_⟩
  repeat' first
    | lift_lets -underBinder
    | (with_reducible first
        | assumption | exact Keeps.refl _ | apply Keeps.ite | apply sliceEnd_keeps | apply sliceMeasured_keeps)
    | (with_reducible apply Keeps.base; with_reducible first
        | assumption | exact Keeps.refl _ | apply Keeps.ite | apply sliceEnd_keeps | apply sliceMeasured_keeps)
    | split

theorem calWalk_same {z s : State} (kz : Same z s) (u : Nat) :
    Same z (calWalk u s) := by
  unfold calWalk
  repeat' first
    | lift_lets -underBinder
    | (intro x; refine Same.cut (s := z) (t := x) ?_ ?_; unfold x; clear x; rotate_left; intro _; clear_value x; rotate_right)
    | (intro x; clear_value x)
    | (with_reducible first | assumption | exact Same.refl _ | apply Same.ite | apply calStepAll_same)
    | (with_reducible apply Same.base; with_reducible assumption)
theorem calWalk_keeps {z s : State} (kz : Keeps z s) (u : Nat) :
    Keeps z (calWalk u s) :=
  (calWalk_same (.refl _) _).keeps.after kz

theorem execWalkStep_same {z : State} (u : Nat) : RunsSame z (execWalkStep u z) := by
  refine ⟨_, rfl, ?_⟩
  repeat' first
    | lift_lets -underBinder
    | (with_reducible first | assumption | exact Same.refl _ | apply Same.ite | apply calWalk_same)

theorem calRunFail_same {z s : State} (kz : Same z s) (r : DescRun) (st : Status) (detail : Nat) :
    Same z (calRunFail r st detail s) := by
  unfold calRunFail
  repeat' first
    | lift_lets -underBinder
    | (with_reducible first | assumption | exact Same.refl _ | apply Same.ite | apply State.complete_same)
theorem calRunFail_keeps {z s : State} (kz : Keeps z s) (r : DescRun) (st : Status) (detail : Nat) :
    Keeps z (calRunFail r st detail s) :=
  (calRunFail_same (.refl _) _ _ _).keeps.after kz

theorem calRun_same {z s : State} (kz : Same z s) (q : Nat) (r : DescRun) :
    Same z (calRun q r s) := by
  unfold calRun
  repeat' first
    | lift_lets -underBinder
    | (intro x; clear_value x)
    | (intro x; unfold x; clear x)
    | (with_reducible first
        | assumption | exact Same.refl _ | apply Same.ite | apply calRunFail_same | apply State.lastErr_same
        | apply State.set1_same)
    | (with_reducible apply Same.base; with_reducible assumption)
theorem calRun_keeps {z s : State} (kz : Keeps z s) (q : Nat) (r : DescRun) :
    Keeps z (calRun q r s) :=
  (calRun_same (.refl _) _ _).keeps.after kz

theorem execCalRun_same {z : State} (q : Nat) : RunsSame z (execCalRun q z) := by
  refine ⟨_, rfl, ?_⟩
  repeat' first
    | lift_lets -underBinder
    | (with_reducible first
        | assumption | exact Same.refl _ | apply Same.ite
        | (apply State.withDesc_same; intro _ z; rotate_left; rotate_right) | apply calRun_same)

theorem calRunDone_keeps {z s : State} (kz : Keeps z s) (r : CalRunX) :
    Keeps z (calRunDone r s) := by
  unfold calRunDone
  repeat' first
    | lift_lets -underBinder
    | (intro x; refine Keeps.cut (s := z) (t := x) ?_ ?_; unfold x; clear x; rotate_left; intro _; clear_value x; rotate_right)
    | (intro x; clear_value x)
    | (with_reducible first
        | assumption | exact Keeps.refl _ | apply Keeps.ite
        | (apply State.over_keeps; intro _ z; rotate_left; rotate_right) | apply sliceEnd_keeps
        | apply calRunEnd_keeps | apply State.complete_keeps)

theorem execCalRunDone_keeps {z : State}  : RunsKeeps z (execCalRunDone z) := by
  refine ⟨_, rfl, ?_⟩
  repeat' first
    | lift_lets -underBinder
    | (with_reducible first | assumption | exact Keeps.refl _ | apply Keeps.ite | apply calRunDone_keeps)
    | (with_reducible apply Keeps.base; with_reducible first
        | assumption | exact Keeps.refl _ | apply Keeps.ite | apply calRunDone_keeps)
    | split

theorem indexGap_same {z s : State} (kz : Same z s) (q : Nat) (r : DescRun) :
    Same z (indexGap q r s) := by
  unfold indexGap
  repeat' first
    | lift_lets -underBinder
    | (intro x; refine Same.cut (s := z) (t := x) ?_ ?_; unfold x; clear x; rotate_left; intro _; clear_value x; rotate_right)
    | (intro x; clear_value x)
    | (with_reducible first
        | assumption | exact Same.refl _ | apply Same.ite | apply State.complete_same | apply State.lastErr_same
        | (apply State.over_same; intro _ z; rotate_left; rotate_right) | apply winClose_same)
    | (with_reducible apply Same.base; with_reducible first
        | assumption | (apply State.over_same; intro _ z; rotate_left; rotate_right))
theorem indexGap_keeps {z s : State} (kz : Keeps z s) (q : Nat) (r : DescRun) :
    Keeps z (indexGap q r s) :=
  (indexGap_same (.refl _) _ _).keeps.after kz

theorem execIndexGap_same {z : State} (q : Nat) : RunsSame z (execIndexGap q z) := by
  refine ⟨_, rfl, ?_⟩
  repeat' first
    | lift_lets -underBinder
    | (with_reducible first
        | assumption | exact Same.refl _ | apply Same.ite
        | (apply State.withDesc_same; intro _ z; rotate_left; rotate_right) | apply indexGap_same)

theorem execIndexGapClose_same {z : State} (u : Nat) : RunsSame z (execIndexGapClose u z) := by
  refine ⟨_, rfl, ?_⟩
  repeat' first
    | lift_lets -underBinder
    | (with_reducible first | assumption | exact Same.refl _ | apply Same.ite | apply winClose_same)

theorem calWrite_keeps {z s : State} (kz : Keeps z s) (a : Nat) (bytes : List Nat) :
    Keeps z (calWrite a bytes s).1 := by
  unfold calWrite
  repeat' first
    | lift_lets -underBinder
    | (intro x; refine Keeps.cut (s := z) (t := x) ?_ ?_; unfold x; clear x; rotate_left; intro _; clear_value x; rotate_right)
    | (intro x; clear_value x)
    | (with_reducible first
        | assumption | exact Keeps.refl _ | apply Keeps.ite | apply State.wrBytes_keeps
        | (apply State.over_keeps; intro _ z; rotate_left; rotate_right) | apply jCal_keeps | apply calMark_keeps)
    | (with_reducible apply Keeps.base; with_reducible first
        | assumption | exact Keeps.refl _ | apply Keeps.ite | apply State.wrBytes_keeps | apply jCal_keeps
        | apply calMark_keeps)
    | split

theorem calImgChecks_same {act : State → State} {z s : State} (hact : ∀ t, Same t (act t)) (kz : Same z s) (q : Nat) (r : DescRun) (restore : Bool) :
    Same z (calImgChecks q r restore act s) := by
  unfold calImgChecks
  repeat' first
    | lift_lets -underBinder
    | (intro (x : _ → _ → _ → State); unfold x; clear x)
    | (intro x; clear_value x)
    | (with_reducible first
        | assumption | exact Same.refl _ | apply Same.ite | refine Same.after (hact ..) ?_ | apply State.complete_same
        | apply State.lastErr_same)

theorem calImgChecks_keeps {act : State → State} {z s : State} (hact : ∀ t, Keeps t (act t)) (kz : Keeps z s) (q : Nat) (r : DescRun) (restore : Bool) :
    Keeps z (calImgChecks q r restore act s) := by
  unfold calImgChecks
  repeat' first
    | lift_lets -underBinder
    | (intro (x : _ → _ → _ → State); unfold x; clear x)
    | (intro x; clear_value x)
    | (with_reducible first
        | assumption | exact Keeps.refl _ | apply Keeps.ite | refine Keeps.after (hact ..) ?_
        | apply State.complete_keeps | apply State.lastErr_keeps)

theorem calSave_keeps {z s : State} (kz : Keeps z s) (q : Nat) (ok : Bool) (r : DescRun) :
    Keeps z (calSave q ok r s) := by
  unfold calSave
  repeat' first
    | lift_lets -underBinder
    | (intro x; refine Keeps.cut (s := z) (t := x) ?_ ?_; unfold x; clear x; rotate_left; intro _; clear_value x; rotate_right)
    | (intro x; clear_value x)
    | (with_reducible first
        | assumption | exact Keeps.refl _ | apply Keeps.ite
        | (apply calImgChecks_keeps; intro z; rotate_left; rotate_right) | apply State.complete_keeps
        | apply State.wrMem_keeps | apply State.send_keeps)

theorem execCalSave_keeps {z : State} (q : Nat) (ok : Bool) : RunsKeeps z (execCalSave q ok z) := by
  refine ⟨_, rfl, ?_⟩
  repeat' first
    | lift_lets -underBinder
    | (with_reducible first
        | assumption | exact Keeps.refl _ | apply Keeps.ite
        | (apply State.withDesc_keeps; intro _ z; rotate_left; rotate_right) | apply calSave_keeps)

theorem calRestore_keeps {z s : State} (kz : Keeps z s) (q : Nat) (ok : Bool) (data : List Nat) (r : DescRun) :
    Keeps z (calRestore q ok data r s) := by
  unfold calRestore
  repeat' first
    | lift_lets -underBinder
    | (intro x; refine Keeps.cut (s := z) (t := x) ?_ ?_; unfold x; clear x; rotate_left; intro _; clear_value x; rotate_right)
    | (intro (x : _ → _ → State); unfold x; clear x)
    | (intro x; clear_value x)
    | (with_reducible first
        | assumption | exact Keeps.refl _ | apply Keeps.ite
        | (apply calImgChecks_keeps; intro z; rotate_left; rotate_right) | apply State.send_keeps
        | apply State.complete_keeps | (apply State.over_keeps; intro _ z; rotate_left; rotate_right)
        | apply setTarget_keeps | apply State.p_keeps)

theorem execCalRestore_keeps {z : State} (q : Nat) (ok : Bool) (data : List Nat) : RunsKeeps z (execCalRestore q ok data z) := by
  refine ⟨_, rfl, ?_⟩
  repeat' first
    | lift_lets -underBinder
    | (with_reducible first
        | assumption | exact Keeps.refl _ | apply Keeps.ite
        | (apply State.withDesc_keeps; intro _ z; rotate_left; rotate_right) | apply calRestore_keeps)

theorem calFactory_keeps {z s : State} (kz : Keeps z s) (data : List Nat) :
    Keeps z (calFactory data s) := by
  unfold calFactory
  repeat' first
    | lift_lets -underBinder
    | (intro x; clear_value x)
    | (with_reducible first
        | assumption | exact Keeps.refl _ | apply Keeps.ite
        | (apply State.over_keeps; intro _ z; rotate_left; rotate_right) | apply setLive_keeps
        | apply State.wrMem_keeps)

theorem scrubbed_keeps {z s : State} (k : Keeps z s) (port did : Nat) :
    Keeps z { s.dropPort port with scr := (s.dropPort port).scr ++ [(port, did)] } := by
  refine Keeps.after (u := s) ⟨rfl, rfl, fun h => ?_, id⟩ k
  unfold Memory.wf at h
  unfold Memory.wf State.dropPort
  refine tabWf_filter (fun e he => ?_) h
  have hk : ¬ port = e.1 / 4294967296 := fun x => (by simpa using he : ¬ e.1 / 4294967296 = port) x.symm
  have e1 : memDefault (s.scr.filter (fun e => e.1 != port) ++ [(port, did)]) e.1 =
      memDefault (s.scr.filter (fun e => e.1 != port)) e.1 := by
    unfold memDefault
    rw [List.find?_append]
    cases h : (s.scr.filter (fun e => e.1 != port)).find? (fun x => x.1 == e.1 / 2 ^ 32) <;> simp [hk]
  rw [e1]
  exact memDefault_filter (by simpa using he)

theorem bistContents_keeps {z s : State} (kz : Keeps z s) (u kind did : Nat) : Keeps z (bistContents u kind did s) := by
  unfold bistContents
  split
  · exact lcStat_keeps (State.modHl_keeps (State.p_keeps (State.dropPort_keeps kz ..) ..) ..) ..
  · dsimp only
    split
    · exact Keeps.base (scrubbed_keeps kz _ did)
    · exact scrubbed_keeps kz _ did
  · exact kz

theorem bistSafe_keeps {z s : State} (kz : Keeps z s) (u : Nat) :
    Keeps z (bistSafe u s) := by
  unfold bistSafe
  repeat' first
    | lift_lets -underBinder
    | (with_reducible first
        | assumption | exact Keeps.refl _ | apply Keeps.ite | apply blankHall_keeps | apply hallSafe_keeps
        | (apply State.each_keeps; intro _ z; rotate_left; rotate_right) | apply smuSafe_keeps
        | apply State.set1_keeps | apply rsSafe_keeps)

theorem bistRun_keeps {z s : State} (kz : Keeps z s) (q : Nat) (r : DescRun) :
    Keeps z (bistRun q r s) := by
  unfold bistRun
  repeat' first
    | lift_lets -underBinder
    | (intro x; refine Keeps.cut (s := z) (t := x) ?_ ?_; unfold x; clear x; rotate_left; intro _; clear_value x; rotate_right)
    | (intro (x : _ → _ → _ → State); unfold x; clear x)
    | (intro x; clear_value x)
    | (with_reducible first
        | assumption | exact Keeps.refl _ | apply Keeps.ite | apply State.complete_keeps | apply State.lastErr_keeps
        | apply bistContents_keeps | apply bistSafe_keeps | apply State.set1_keeps)
    | (with_reducible apply Keeps.base; with_reducible assumption)

theorem execBistRun_keeps {z : State} (q : Nat) : RunsKeeps z (execBistRun q z) := by
  refine ⟨_, rfl, ?_⟩
  repeat' first
    | lift_lets -underBinder
    | (with_reducible first
        | assumption | exact Keeps.refl _ | apply Keeps.ite
        | (apply State.withDesc_keeps; intro _ z; rotate_left; rotate_right) | apply bistRun_keeps)

theorem storeSource_same {z s : State} (kz : Same z s) :
    Same z (storeSource s) := by
  unfold storeSource
  repeat' first
    | lift_lets -underBinder
    | (with_reducible first
        | assumption | exact Same.refl _ | apply Same.ite
        | (apply State.each_same; intro _ z; rotate_left; rotate_right) | apply State.raiseLevel_same
        | (apply State.when_same; intro z; rotate_left; rotate_right) | apply State.unraise_same)
theorem storeSource_keeps {z s : State} (kz : Keeps z s) :
    Keeps z (storeSource s) :=
  (storeSource_same (.refl _)).keeps.after kz

theorem storeCheck_same {z s : State} (kz : Same z s) (pass : Bool) :
    Same z (storeCheck pass s) := by
  unfold storeCheck
  repeat' first
    | lift_lets -underBinder
    | (intro x; clear_value x)
    | (with_reducible first | assumption | exact Same.refl _ | apply Same.ite | apply storeSource_same)
    | (with_reducible apply Same.base; with_reducible assumption)
theorem storeCheck_keeps {z s : State} (kz : Keeps z s) (pass : Bool) :
    Keeps z (storeCheck pass s) :=
  (storeCheck_same (.refl _) _).keeps.after kz

theorem bistEnd_keeps {z s : State} (kz : Keeps z s) (b : BistX) (pass : Bool) :
    Keeps z (bistEnd b pass s) := by
  unfold bistEnd
  repeat' first
    | lift_lets -underBinder
    | (intro x; refine Keeps.cut (s := z) (t := x) ?_ ?_; unfold x; clear x; rotate_left; intro _; clear_value x; rotate_right)
    | (intro x; clear_value x)
    | (with_reducible first
        | assumption | exact Keeps.refl _ | apply Keeps.ite
        | (apply State.when_keeps; intro z; rotate_left; rotate_right) | apply storeCheck_keeps
        | (apply State.over_keeps; intro _ z; rotate_left; rotate_right) | apply fenceUnit_keeps
        | apply unitRestore_keeps | apply calSettle_keeps)

theorem bistDone_keeps {z s : State} (kz : Keeps z s) (b : BistX) (sig : BitVec 64) (us : Nat) :
    Keeps z (bistDone b sig us s) := by
  unfold bistDone
  repeat' first
    | lift_lets -underBinder
    | (intro x; refine Keeps.cut (s := z) (t := x) ?_ ?_; unfold x; clear x; rotate_left; intro _; clear_value x; rotate_right)
    | (intro x; clear_value x)
    | (with_reducible first
        | assumption | exact Keeps.refl _ | apply Keeps.ite | apply State.pb_keeps | apply bistEnd_keeps
        | apply State.complete_keeps)
    | (with_reducible apply Keeps.base; with_reducible assumption)

theorem execBistDone_keeps {z : State} (u : Nat) (sig : BitVec 64) (us : Nat) : RunsKeeps z (execBistDone u sig us z) := by
  refine ⟨_, rfl, ?_⟩
  repeat' first
    | lift_lets -underBinder
    | (with_reducible first | assumption | exact Keeps.refl _ | apply Keeps.ite | apply bistDone_keeps)
    | (with_reducible apply Keeps.base; with_reducible first
        | assumption | exact Keeps.refl _ | apply Keeps.ite | apply bistDone_keeps)
    | split

end Sys2Proof.Machine
end

