-- ==== Sys2Proof/Laws/SamePorts.lean ====
section
/-! SUPPORT. What the operations of Machine.Ports keep: the part, the queue, the canonical tables, and where they store no bulk
memory all of it. -/
set_option linter.unreachableTactic false
set_option linter.unusedTactic false
namespace Sys2Proof.Machine

theorem State.setPortX_same {z s : State} (kz : Same z s) (p : Nat) (x : PortX) :
    Same z (State.setPortX s p x) := by
  unfold State.setPortX
  repeat' first
    | lift_lets -underBinder
    | (with_reducible first | assumption | exact Same.refl _ | apply Same.ite)
    | (with_reducible apply Same.base; with_reducible assumption)
theorem State.setPortX_keeps {z s : State} (kz : Keeps z s) (p : Nat) (x : PortX) :
    Keeps z (State.setPortX s p x) :=
  (State.setPortX_same (.refl _) _ _).keeps.after kz

theorem portWrite_keeps {z s : State} (kz : Keeps z s) (p a : Nat) (bytes : List Nat) :
    Keeps z (portWrite p a bytes s).1 := by
  unfold portWrite
  repeat' first
    | lift_lets -underBinder
    | (with_reducible first
        | assumption | exact Keeps.refl _ | apply Keeps.ite | apply flightWrite_keeps | apply stairWrite_keeps
        | apply serialWrite_keeps | apply State.set1_keeps | apply calWrite_keeps
        | (apply State.when_keeps; intro z; rotate_left; rotate_right) | apply State.wrBytes_keeps
        | refine Keeps.pair1 (by assumption) ?_)
    | (with_reducible apply Keeps.base; with_reducible first
        | assumption | exact Keeps.refl _ | apply Keeps.ite | apply flightWrite_keeps | apply stairWrite_keeps
        | apply serialWrite_keeps | apply State.set1_keeps | apply calWrite_keeps | apply State.wrBytes_keeps
        | refine Keeps.pair1 (by assumption) ?_)
    | split

theorem portBusy_same {z s : State} (kz : Same z s) (p : Nat) :
    Same z (portBusy p s) := by
  unfold portBusy
  repeat' first
    | lift_lets -underBinder
    | (with_reducible first | assumption | exact Same.refl _ | apply Same.ite | apply State.set1_same)
theorem portBusy_keeps {z s : State} (kz : Keeps z s) (p : Nat) :
    Keeps z (portBusy p s) :=
  (portBusy_same (.refl _) _).keeps.after kz

theorem portStage_same {z s : State} (kz : Same z s) (p : Nat) (l : List (Nat × Nat)) :
    Same z (portStage p l s) := by
  unfold portStage
  repeat' first
    | lift_lets -underBinder
    | (intro x; clear_value x)
    | (with_reducible first
        | assumption | exact Same.refl _ | apply Same.ite | apply State.setPortX_same | apply State.pb_same)
theorem portStage_keeps {z s : State} (kz : Keeps z s) (p : Nat) (l : List (Nat × Nat)) :
    Keeps z (portStage p l s) :=
  (portStage_same (.refl _) _ _).keeps.after kz

theorem portDiscard_same {z s : State} (kz : Same z s) (p : Nat) :
    Same z (portDiscard p s) := by
  unfold portDiscard
  repeat' first
    | lift_lets -underBinder
    | (with_reducible first
        | assumption | exact Same.refl _ | apply Same.ite | apply portStage_same
        | (apply State.when_same; intro z; rotate_left; rotate_right) | apply State.set1_same)
theorem portDiscard_keeps {z s : State} (kz : Keeps z s) (p : Nat) :
    Keeps z (portDiscard p s) :=
  (portDiscard_same (.refl _) _).keeps.after kz

theorem portDataWrite_keeps {z s : State} (kz : Keeps z s) (p k : Nat) (v : Word) :
    Keeps z (portDataWrite p k v s) := by
  unfold portDataWrite
  repeat' first
    | lift_lets -underBinder
    | (intro x; refine Keeps.cut (s := z) (t := x) ?_ ?_; unfold x; clear x; rotate_left; intro _; clear_value x; rotate_right)
    | (intro x; clear_value x)
    | (with_reducible first
        | assumption | exact Keeps.refl _ | apply Keeps.ite | apply portBusy_keeps | apply portStage_keeps
        | apply State.set1_keeps | apply portWrite_keeps | apply State.p_keeps)

theorem execPortDataWrite_keeps {z : State} (p k : Nat) (v : Word) : RunsKeeps z (execPortDataWrite p k v z) := by
  refine ⟨_, rfl, ?_⟩
  repeat' first
    | lift_lets -underBinder
    | (with_reducible first
        | assumption | exact Keeps.refl _ | apply Keeps.ite
        | (apply State.host_keeps; intro z; rotate_left; rotate_right) | apply portDataWrite_keeps)

theorem portDataRead_same {z s : State} (kz : Same z s) (path : Path) (p k : Nat) :
    Same z (portDataRead path p k s) := by
  unfold portDataRead
  repeat' first
    | lift_lets -underBinder
    | (intro x; refine Same.cut (s := z) (t := x) ?_ ?_; unfold x; clear x; rotate_left; intro _; clear_value x; rotate_right)
    | (intro x; clear_value x)
    | (intro x; unfold x; clear x)
    | (with_reducible first
        | assumption | exact Same.refl _ | apply Same.ite | apply portBusy_same | apply State.setRead_same
        | (apply State.over_same; intro _ z; rotate_left; rotate_right) | apply State.wr_same | apply State.set1_same
        | apply State.p_same)
theorem portDataRead_keeps {z s : State} (kz : Keeps z s) (path : Path) (p k : Nat) :
    Keeps z (portDataRead path p k s) :=
  (portDataRead_same (.refl _) _ _ _).keeps.after kz

theorem execPortDataRead_same {z : State} (path : Path) (p k : Nat) : RunsSame z (execPortDataRead path p k z) := by
  refine ⟨_, rfl, ?_⟩
  repeat' first
    | lift_lets -underBinder
    | (with_reducible first
        | assumption | exact Same.refl _ | apply Same.ite | apply portDataRead_same | apply State.setRead_same)

theorem portAddrWrite_same {z s : State} (kz : Same z s) (p : Nat) (v : Word) :
    Same z (portAddrWrite p v s) := by
  unfold portAddrWrite
  repeat' first
    | lift_lets -underBinder
    | (with_reducible first
        | assumption | exact Same.refl _ | apply Same.ite | apply portBusy_same | apply portDiscard_same
        | apply State.p_same)
theorem portAddrWrite_keeps {z s : State} (kz : Keeps z s) (p : Nat) (v : Word) :
    Keeps z (portAddrWrite p v s) :=
  (portAddrWrite_same (.refl _) _ _).keeps.after kz

theorem execPortAddrWrite_same {z : State} (p : Nat) (v : Word) : RunsSame z (execPortAddrWrite p v z) := by
  refine ⟨_, rfl, ?_⟩
  repeat' first
    | lift_lets -underBinder
    | (with_reducible first
        | assumption | exact Same.refl _ | apply Same.ite
        | (apply State.host_same; intro z; rotate_left; rotate_right) | apply portAddrWrite_same)

theorem portCtlWrite_same {z s : State} (kz : Same z s) (p : Nat) (v : Word) :
    Same z (portCtlWrite p v s) := by
  unfold portCtlWrite
  repeat' first
    | lift_lets -underBinder
    | (intro x; refine Same.cut (s := z) (t := x) ?_ ?_; unfold x; clear x; rotate_left; intro _; clear_value x; rotate_right)
    | (intro x; clear_value x)
    | (with_reducible first
        | assumption | exact Same.refl _ | apply Same.ite | apply portBusy_same | apply State.set1_same
        | apply portDiscard_same | apply State.p_same)
theorem portCtlWrite_keeps {z s : State} (kz : Keeps z s) (p : Nat) (v : Word) :
    Keeps z (portCtlWrite p v s) :=
  (portCtlWrite_same (.refl _) _ _).keeps.after kz

theorem execPortCtlWrite_same {z : State} (p : Nat) (v : Word) : RunsSame z (execPortCtlWrite p v z) := by
  refine ⟨_, rfl, ?_⟩
  repeat' first
    | lift_lets -underBinder
    | (with_reducible first
        | assumption | exact Same.refl _ | apply Same.ite
        | (apply State.host_same; intro z; rotate_left; rotate_right) | apply portCtlWrite_same)

theorem portAptWrite_same {z s : State} (kz : Same z s) (p : Nat) (v : Word) :
    Same z (portAptWrite p v s) := by
  unfold portAptWrite
  repeat' first
    | lift_lets -underBinder
    | (with_reducible first
        | assumption | exact Same.refl _ | apply Same.ite | apply portBusy_same | apply State.wr_same)
theorem portAptWrite_keeps {z s : State} (kz : Keeps z s) (p : Nat) (v : Word) :
    Keeps z (portAptWrite p v s) :=
  (portAptWrite_same (.refl _) _ _).keeps.after kz

theorem execPortAptWrite_same {z : State} (p : Nat) (v : Word) : RunsSame z (execPortAptWrite p v z) := by
  refine ⟨_, rfl, ?_⟩
  repeat' first
    | lift_lets -underBinder
    | (with_reducible first
        | assumption | exact Same.refl _ | apply Same.ite
        | (apply State.host_same; intro z; rotate_left; rotate_right) | apply portAptWrite_same)

theorem aptWrite_keeps {z s : State} (kz : Keeps z s) (p o : Nat) (bytes : List Nat) :
    Keeps z (aptWrite p o bytes s) := by
  unfold aptWrite
  repeat' first
    | lift_lets -underBinder
    | (intro x; clear_value x)
    | (with_reducible first
        | assumption | exact Keeps.refl _ | apply Keeps.ite | apply portBusy_keeps | apply State.set1_keeps
        | apply portWrite_keeps)

theorem execApertureWrite_keeps {z : State} (p o : Nat) (bytes : List Nat) : RunsKeeps z (execApertureWrite p o bytes z) := by
  refine ⟨_, rfl, ?_⟩
  repeat' first
    | lift_lets -underBinder
    | (with_reducible first
        | assumption | exact Keeps.refl _ | apply Keeps.ite
        | (apply State.host_keeps; intro z; rotate_left; rotate_right) | apply aptWrite_keeps)

theorem aptRead_same {z s : State} (kz : Same z s) (p o n : Nat) :
    Same z (aptRead p o n s) := by
  unfold aptRead
  repeat' first
    | lift_lets -underBinder
    | (intro x; clear_value x)
    | (with_reducible first
        | assumption | exact Same.refl _ | apply Same.ite | apply portBusy_same
        | (apply State.when_same; intro z; rotate_left; rotate_right) | apply State.set1_same)
    | (with_reducible apply Same.base; with_reducible first
        | assumption | (apply State.when_same; intro z; rotate_left; rotate_right))
theorem aptRead_keeps {z s : State} (kz : Keeps z s) (p o n : Nat) :
    Keeps z (aptRead p o n s) :=
  (aptRead_same (.refl _) _ _ _).keeps.after kz

theorem execApertureRead_same {z : State} (p o n : Nat) : RunsSame z (execApertureRead p o n z) := by
  refine ⟨_, rfl, ?_⟩
  repeat' first
    | lift_lets -underBinder
    | (with_reducible first | assumption | exact Same.refl _ | apply Same.ite | apply aptRead_same)
    | (with_reducible apply Same.base; with_reducible first | assumption | exact Same.refl _)

theorem portDma_same {z s : State} (kz : Same z s) (q : Nat) (r : DescRun) :
    Same z (portDma q r s) := by
  unfold portDma
  repeat' first
    | lift_lets -underBinder
    | (intro x; refine Same.cut (s := z) (t := x) ?_ ?_; unfold x; clear x; rotate_left; intro _; clear_value x; rotate_right)
    | (intro (x : _ → _ → _ → State); unfold x; clear x)
    | (intro x; clear_value x)
    | (with_reducible first
        | assumption | exact Same.refl _ | apply Same.ite | apply State.complete_same | apply State.lastErr_same
        | apply State.setPortX_same | apply State.set1_same
        | (apply State.when_same; intro z; rotate_left; rotate_right) | apply State.send_same
        | (apply State.hostRead_same; intro z; rotate_left; rotate_right))
theorem portDma_keeps {z s : State} (kz : Keeps z s) (q : Nat) (r : DescRun) :
    Keeps z (portDma q r s) :=
  (portDma_same (.refl _) _ _).keeps.after kz

theorem execPortDma_same {z : State} (q : Nat) : RunsSame z (execPortDma q z) := by
  refine ⟨_, rfl, ?_⟩
  repeat' first
    | lift_lets -underBinder
    | (with_reducible first
        | assumption | exact Same.refl _ | apply Same.ite
        | (apply State.withDesc_same; intro _ z; rotate_left; rotate_right) | apply portDma_same)

theorem portDmaDone_same {z s : State} (kz : Same z s) (p : Nat) (x : PortDmaX) (failed : Bool) :
    Same z (portDmaDone p x failed s) := by
  unfold portDmaDone
  repeat' first
    | lift_lets -underBinder
    | (intro x; clear_value x)
    | (with_reducible first
        | assumption | exact Same.refl _ | apply Same.ite | apply State.setPortX_same | apply State.clr_same
        | apply State.complete_same)
theorem portDmaDone_keeps {z s : State} (kz : Keeps z s) (p : Nat) (x : PortDmaX) (failed : Bool) :
    Keeps z (portDmaDone p x failed s) :=
  (portDmaDone_same (.refl _) _ _ _).keeps.after kz

theorem portDmaUnit_keeps {z s : State} (kz : Keeps z s) (p : Nat) (x : PortDmaX) (data : List Nat) :
    Keeps z (portDmaUnit p x data s) := by
  unfold portDmaUnit
  repeat' first
    | lift_lets -underBinder
    | (intro x; clear_value x)
    | (with_reducible first
        | assumption | exact Keeps.refl _ | apply Keeps.ite | apply State.send_keeps | apply portWrite_keeps
        | apply portDmaDone_keeps | apply State.setPortX_keeps | refine Keeps.pair1 (by assumption) ?_
        | refine Keeps.pair3 (by assumption) ?_)
    | (with_reducible apply Keeps.base; with_reducible first
        | assumption | exact Keeps.refl _ | apply Keeps.ite | apply State.send_keeps | apply portWrite_keeps
        | apply portDmaDone_keeps | apply State.setPortX_keeps | refine Keeps.pair1 (by assumption) ?_
        | refine Keeps.pair3 (by assumption) ?_)
    | split

theorem execPortDmaUnit_keeps {z : State} (q : Nat) (ok : Bool) (data : List Nat) : RunsKeeps z (execPortDmaUnit q ok data z) := by
  refine ⟨_, rfl, ?_⟩
  repeat' first
    | lift_lets -underBinder
    | (intro x; clear_value x)
    | (with_reducible first
        | assumption | exact Keeps.refl _ | apply Keeps.ite
        | (apply State.withActed_keeps; intro _ z; rotate_left; rotate_right) | apply portDmaDone_keeps
        | apply portDmaUnit_keeps)
    | (with_reducible apply Keeps.base; with_reducible first
        | assumption | exact Keeps.refl _ | apply Keeps.ite | apply portDmaDone_keeps | apply portDmaUnit_keeps)
    | split

end Sys2Proof.Machine
end

