-- ==== Sys2Proof/Laws/SameJournal.lean ====
section
/-! SUPPORT. What the operations of Machine.Journal keep: the part, the queue, the canonical tables, and where they store no bulk
memory all of it. -/
set_option linter.unreachableTactic false
set_option linter.unusedTactic false
namespace Sys2Proof.Machine

theorem frameSend_same {z s : State} (kz : Same z s) :
    Same z (frameSend s) := by
  unfold frameSend
  repeat' first
    | lift_lets -underBinder
    | (intro x; refine Same.cut (s := z) (t := x) ?_ ?_; unfold x; clear x; rotate_left; intro _; clear_value x; rotate_right)
    | (intro x; clear_value x)
    | (with_reducible first
        | assumption | exact Same.refl _ | apply Same.ite | apply State.modGal_same | apply State.send_same)
    | (with_reducible apply Same.base; with_reducible assumption)
theorem frameSend_keeps {z s : State} (kz : Keeps z s) :
    Keeps z (frameSend s) :=
  (frameSend_same (.refl _)).keeps.after kz

theorem frameAdd_same {z s : State} (kz : Same z s) (r : JRec) :
    Same z (frameAdd r s) := by
  unfold frameAdd
  repeat' first
    | lift_lets -underBinder
    | (intro x; refine Same.cut (s := z) (t := x) ?_ ?_; unfold x; clear x; rotate_left; intro _; clear_value x; rotate_right)
    | (intro x; clear_value x)
    | (with_reducible first | assumption | exact Same.refl _ | apply Same.ite | apply frameSend_same)
    | (with_reducible apply Same.base; with_reducible assumption)
theorem frameAdd_keeps {z s : State} (kz : Keeps z s) (r : JRec) :
    Keeps z (frameAdd r s) :=
  (frameAdd_same (.refl _) _).keeps.after kz

theorem execJournalRingWrite_same {z : State}  : RunsSame z (execJournalRingWrite z) := by
  refine ⟨_, rfl, ?_⟩
  repeat' first
    | lift_lets -underBinder
    | (with_reducible first
        | assumption | exact Same.refl _ | apply Same.ite | apply frameAdd_same | apply ringWrite_same
        | apply State.setFifo_same | apply State.ringFlags_same)
    | (with_reducible apply Same.base; with_reducible first
        | assumption | exact Same.refl _ | apply Same.ite | apply frameAdd_same | apply ringWrite_same
        | apply State.setFifo_same | apply State.ringFlags_same)
    | split

theorem execJournalFrameSend_same {z : State}  : RunsSame z (execJournalFrameSend z) := by
  refine ⟨_, rfl, ?_⟩
  repeat' first
    | lift_lets -underBinder
    | (with_reducible first | assumption | exact Same.refl _ | apply Same.ite | apply frameSend_same)

theorem frameRx_same {z s : State} (kz : Same z s) (i uid : Nat) (recs : List (BitVec 256)) :
    Same z (frameRx i uid recs s) := by
  unfold frameRx
  repeat' first
    | lift_lets -underBinder
    | (intro x; refine Same.cut (s := z) (t := x) ?_ ?_; unfold x; clear x; rotate_left; intro _; clear_value x; rotate_right)
    | (intro x; clear_value x)
    | (with_reducible first
        | assumption | exact Same.refl _ | apply Same.ite | apply State.jput_same | apply State.setFifo_same
        | apply State.ringFlags_same | apply State.count_same)
    | (with_reducible apply Same.base; with_reducible assumption)
theorem frameRx_keeps {z s : State} (kz : Keeps z s) (i uid : Nat) (recs : List (BitVec 256)) :
    Keeps z (frameRx i uid recs s) :=
  (frameRx_same (.refl _) _ _ _).keeps.after kz

theorem execJournalFrameRx_same {z : State} (port uid : Nat) (recs : List (BitVec 256)) : RunsSame z (execJournalFrameRx port uid recs z) := by
  refine ⟨_, rfl, ?_⟩
  repeat' first
    | lift_lets -underBinder
    | (with_reducible first | assumption | exact Same.refl _ | apply Same.ite | apply frameRx_same)
    | (with_reducible apply Same.base; with_reducible first
        | assumption | exact Same.refl _ | apply Same.ite | apply frameRx_same)
    | split

theorem digestShow_same {z s : State} (kz : Same z s) (dg : Nat) :
    Same z (digestShow dg s) := by
  unfold digestShow
  repeat' first
    | lift_lets -underBinder
    | (with_reducible first
        | assumption | exact Same.refl _ | apply Same.ite
        | (apply State.each_same; intro _ z; rotate_left; rotate_right) | apply State.wr_same)
theorem digestShow_keeps {z s : State} (kz : Keeps z s) (dg : Nat) :
    Keeps z (digestShow dg s) :=
  (digestShow_same (.refl _) _).keeps.after kz

theorem execDigestReady_same {z : State}  : RunsSame z (execDigestReady z) := by
  refine ⟨_, rfl, ?_⟩
  repeat' first
    | lift_lets -underBinder
    | (intro x; clear_value x)
    | (with_reducible first
        | assumption | exact Same.refl _ | apply Same.ite | apply digestShow_same | apply State.ringFlags_same)
    | (with_reducible apply Same.base; with_reducible first
        | assumption | exact Same.refl _ | apply Same.ite | apply digestShow_same | apply State.ringFlags_same)
    | split

theorem jnlStart_same {z s : State} (kz : Same z s) (r : DescRun) :
    Same z (jnlStart r s) := by
  unfold jnlStart
  repeat' first
    | lift_lets -underBinder
    | (intro x; refine Same.cut (s := z) (t := x) ?_ ?_; unfold x; clear x; rotate_left; intro _; clear_value x; rotate_right)
    | (intro x; clear_value x)
    | (with_reducible first
        | assumption | exact Same.refl _ | apply Same.ite | apply State.set1_same | apply State.pb_same
        | apply State.complete_same)
theorem jnlStart_keeps {z s : State} (kz : Keeps z s) (r : DescRun) :
    Keeps z (jnlStart r s) :=
  (jnlStart_same (.refl _) _).keeps.after kz

theorem jnlStop_same {z s : State} (kz : Same z s) (r : DescRun) :
    Same z (jnlStop r s) := by
  unfold jnlStop
  repeat' first
    | lift_lets -underBinder
    | (intro x; refine Same.cut (s := z) (t := x) ?_ ?_; unfold x; clear x; rotate_left; intro _; clear_value x; rotate_right)
    | (intro x; clear_value x)
    | (with_reducible first
        | assumption | exact Same.refl _ | apply Same.ite
        | (apply State.over_same; intro _ z; rotate_left; rotate_right) | apply State.jput_same | apply State.clr_same
        | apply State.complete_same)
    | (with_reducible apply Same.base; with_reducible first
        | assumption | (apply State.over_same; intro _ z; rotate_left; rotate_right))
theorem jnlStop_keeps {z s : State} (kz : Keeps z s) (r : DescRun) :
    Keeps z (jnlStop r s) :=
  (jnlStop_same (.refl _) _).keeps.after kz

theorem drySafe_keeps {z s : State} (kz : Keeps z s) :
    Keeps z (drySafe s) := by
  unfold drySafe
  repeat' first
    | lift_lets -underBinder
    | (with_reducible first
        | assumption | exact Keeps.refl _ | apply Keeps.ite
        | (apply State.each_keeps; intro _ z; rotate_left; rotate_right) | apply blankHall_keeps
        | apply hallSafe_keeps | apply smuSafe_keeps)

theorem jnlReplay_keeps {z s : State} (kz : Keeps z s) (r : DescRun) (ok : Bool) (head : List (BitVec 256)) (uid : BitVec 64) :
    Keeps z (jnlReplay r ok head uid s) := by
  unfold jnlReplay
  repeat' first
    | lift_lets -underBinder
    | (intro x; refine Keeps.cut (s := z) (t := x) ?_ ?_; unfold x; clear x; rotate_left; intro _; clear_value x; rotate_right)
    | (intro x; clear_value x)
    | (with_reducible first
        | assumption | exact Keeps.refl _ | apply Keeps.ite | apply State.send_keeps | apply State.complete_keeps
        | apply digestShow_keeps | apply State.set1_keeps | apply State.pb_keeps | apply State.p_keeps
        | apply drySafe_keeps)
    | (with_reducible apply Keeps.base; with_reducible first
        | assumption | exact Keeps.refl _ | apply Keeps.ite | apply State.send_keeps | apply State.complete_keeps
        | apply digestShow_keeps | apply State.set1_keeps | apply State.pb_keeps | apply State.p_keeps
        | apply drySafe_keeps)
    | split

theorem journalCtl_keeps {z s : State} (kz : Keeps z s) (ok : Bool) (head : List (BitVec 256)) (uid : BitVec 64) (r : DescRun) :
    Keeps z (journalCtl ok head uid r s) := by
  unfold journalCtl
  repeat' first
    | lift_lets -underBinder
    | (intro (x : _ → _ → State); unfold x; clear x)
    | (intro x; clear_value x)
    | (with_reducible first
        | assumption | exact Keeps.refl _ | apply Keeps.ite | apply State.complete_keeps | apply jnlReplay_keeps
        | apply jnlStart_keeps | apply jnlStop_keeps | apply replayStop_keeps)

theorem execJournalCtl_keeps {z : State} (q : Nat) (ok : Bool) (head : List (BitVec 256)) (uid : BitVec 64) : RunsKeeps z (execJournalCtl q ok head uid z) := by
  refine ⟨_, rfl, ?_⟩
  repeat' first
    | lift_lets -underBinder
    | (with_reducible first
        | assumption | exact Keeps.refl _ | apply Keeps.ite
        | (apply State.withDesc_keeps; intro _ z; rotate_left; rotate_right) | apply journalCtl_keeps)

theorem execReplayEnd_keeps {z : State}  : RunsKeeps z (execReplayEnd z) := by
  refine ⟨_, rfl, ?_⟩
  repeat' first
    | lift_lets -underBinder
    | (with_reducible first | assumption | exact Keeps.refl _ | apply Keeps.ite | apply replayStop_keeps)
    | (with_reducible apply Keeps.base; with_reducible first
        | assumption | exact Keeps.refl _ | apply Keeps.ite | apply replayStop_keeps)
    | split

end Sys2Proof.Machine
end

