-- ==== Sys2Proof/Laws/SameBoot.lean ====
section
/-! SUPPORT. What the operations of Machine.Boot keep: the part, the queue, the canonical tables, and where they store no bulk
memory all of it. -/
set_option linter.unreachableTactic false
set_option linter.unusedTactic false
namespace Sys2Proof.Machine

theorem coldReset_keeps {z s : State} (kz : Keeps z s) (keep : Bool) : Keeps z (coldReset keep s) := by
  have h0 : ∀ b : BootX, Keeps z { part := s.part, cyc := s.cyc, free := s.free, dids := s.dids, out := s.out, pending := s.pending, gtl := s.gtl, boot := b } :=
    fun b => ⟨kz.part, kz.pending, fun _ => rfl, fun _ => rfl⟩
  unfold coldReset
  lift_lets -underBinder
  intro s1 s2 s3
  have h1 : Keeps z s1 := h0 _
  have h2 : Keeps z s2 := State.pb_keeps h1 ..
  have h3 : Keeps z s3 := State.when_keeps (fun t => State.each_keeps (fun _ u => State.set1_keeps (.refl _) ..) (.refl _)) h2
  clear_value s3
  split
  · exact State.wr_keeps (State.wr_keeps (State.pb_keeps h3 ..) ..) ..
  · exact State.wr_keeps h3 ..

theorem stageTo_same {z s : State} (kz : Same z s) (n : Nat) :
    Same z (stageTo n s) := by
  unfold stageTo
  repeat' first
    | lift_lets -underBinder
    | (with_reducible first | assumption | exact Same.refl _ | apply Same.ite | apply State.p_same)
theorem stageTo_keeps {z s : State} (kz : Keeps z s) (n : Nat) :
    Keeps z (stageTo n s) :=
  (stageTo_same (.refl _) _).keeps.after kz

theorem bootStart_same {z s : State} (kz : Same z s) :
    Same z (bootStart s) := by
  unfold bootStart
  repeat' first
    | lift_lets -underBinder
    | (with_reducible first
        | assumption | exact Same.refl _ | apply Same.ite | apply stageTo_same | apply State.modBoot_same)
theorem bootStart_keeps {z s : State} (kz : Keeps z s) :
    Keeps z (bootStart s) :=
  (bootStart_same (.refl _)).keeps.after kz

theorem execVauxApply_same {z : State}  : RunsSame z (execVauxApply z) := by
  refine ⟨_, rfl, ?_⟩
  repeat' first
    | lift_lets -underBinder
    | (with_reducible first
        | assumption | exact Same.refl _ | apply Same.ite | apply State.modBoot_same | apply State.set1_same)

theorem execVauxRemove_keeps {z : State}  : RunsKeeps z (execVauxRemove z) := by
  refine ⟨_, rfl, ?_⟩
  repeat' first
    | lift_lets -underBinder
    | (with_reducible first
        | assumption | exact Keeps.refl _ | apply Keeps.ite | apply coldReset_keeps | apply State.modBoot_keeps)

theorem porFall_keeps {z s : State} (kz : Keeps z s) :
    Keeps z (porFall s) := by
  unfold porFall
  repeat' first
    | lift_lets -underBinder
    | (intro x; refine Keeps.cut (s := z) (t := x) ?_ ?_; unfold x; clear x; rotate_left; intro _; clear_value x; rotate_right)
    | (with_reducible first
        | assumption | exact Keeps.refl _ | apply Keeps.ite | apply State.modBoot_keeps | apply coldReset_keeps
        | apply State.set1_keeps)

theorem execPorNFall_keeps {z : State}  : RunsKeeps z (execPorNFall z) := by
  refine ⟨_, rfl, ?_⟩
  repeat' first
    | lift_lets -underBinder
    | (with_reducible first | assumption | exact Keeps.refl _ | apply Keeps.ite | apply porFall_keeps)

theorem execPorNRise_same {z : State}  : RunsSame z (execPorNRise z) := by
  refine ⟨_, rfl, ?_⟩
  repeat' first
    | lift_lets -underBinder
    | (with_reducible first
        | assumption | exact Same.refl _ | apply Same.ite | apply State.modBoot_same
        | (apply State.when_same; intro z; rotate_left; rotate_right) | apply bootStart_same)

theorem pgoodChange_same {z s : State} (kz : Same z s) (up : Bool) :
    Same z (pgoodChange up s) := by
  unfold pgoodChange
  repeat' first
    | lift_lets -underBinder
    | (intro x; refine Same.cut (s := z) (t := x) ?_ ?_; unfold x; clear x; rotate_left; intro _; clear_value x; rotate_right)
    | (with_reducible first
        | assumption | exact Same.refl _ | apply Same.ite | apply State.modBoot_same
        | (apply State.when_same; intro z; rotate_left; rotate_right) | apply State.set1_same | apply railFaults_same)
theorem pgoodChange_keeps {z s : State} (kz : Keeps z s) (up : Bool) :
    Keeps z (pgoodChange up s) :=
  (pgoodChange_same (.refl _) _).keeps.after kz

theorem execPgoodInChange_same {z : State} (up : Bool) : RunsSame z (execPgoodInChange up z) := by
  refine ⟨_, rfl, ?_⟩
  repeat' first
    | lift_lets -underBinder
    | (with_reducible first | assumption | exact Same.refl _ | apply Same.ite | apply pgoodChange_same)

theorem fnReset_same {z s : State} (kz : Same z s) :
    Same z (fnReset s) := by
  unfold fnReset
  repeat' first
    | lift_lets -underBinder
    | (intro x; refine Same.cut (s := z) (t := x) ?_ ?_; unfold x; clear x; rotate_left; intro _; clear_value x; rotate_right)
    | (with_reducible first | assumption | exact Same.refl _ | apply Same.ite | apply hostReset_same)
    | (with_reducible apply Same.base; with_reducible assumption)
theorem fnReset_keeps {z s : State} (kz : Keeps z s) :
    Keeps z (fnReset s) :=
  (fnReset_same (.refl _)).keeps.after kz

theorem execPerstNAssert_same {z : State}  : RunsSame z (execPerstNAssert z) := by
  refine ⟨_, rfl, ?_⟩
  repeat' first
    | lift_lets -underBinder
    | (intro x; refine Same.cut (s := z) (t := x) ?_ ?_; unfold x; clear x; rotate_left; intro _; clear_value x; rotate_right)
    | (with_reducible first
        | assumption | exact Same.refl _ | apply Same.ite | apply State.modBoot_same | apply fnReset_same
        | apply State.set1_same)

theorem execPerstNRelease_same {z : State}  : RunsSame z (execPerstNRelease z) := by
  refine ⟨_, rfl, ?_⟩
  repeat' first
    | lift_lets -underBinder
    | (with_reducible first | assumption | exact Same.refl _ | apply Same.ite | apply State.modBoot_same)

theorem execPcieLinkLoss_same {z : State}  : RunsSame z (execPcieLinkLoss z) := by
  refine ⟨_, rfl, ?_⟩
  repeat' first
    | lift_lets -underBinder
    | (with_reducible first
        | assumption | exact Same.refl _ | apply Same.ite | apply fnReset_same | apply State.set1_same)

theorem execFlr_same {z : State}  : RunsSame z (execFlr z) := by
  refine ⟨_, rfl, ?_⟩
  repeat' first
    | lift_lets -underBinder
    | (with_reducible first
        | assumption | exact Same.refl _ | apply Same.ite | apply fnReset_same | apply State.set1_same)

theorem warmReset_keeps {z s : State} (kz : Keeps z s) :
    Keeps z (warmReset s) := by
  unfold warmReset
  repeat' first
    | lift_lets -underBinder
    | (with_reducible first
        | assumption | exact Keeps.refl _ | apply Keeps.ite | apply bootStart_keeps | apply coldReset_keeps
        | apply State.set1_keeps)

theorem resetCtlWrite_keeps {z s : State} (kz : Keeps z s) (v : Word) :
    Keeps z (resetCtlWrite v s) := by
  unfold resetCtlWrite
  repeat' first
    | lift_lets -underBinder
    | (intro x; clear_value x)
    | (with_reducible first
        | assumption | exact Keeps.refl _ | apply Keeps.ite | apply warmReset_keeps
        | (apply State.when_keeps; intro z; rotate_left; rotate_right) | apply State.set1_keeps)

theorem execWarmReset_keeps {z : State} (v : Word) : RunsKeeps z (execWarmReset v z) := by
  refine ⟨_, rfl, ?_⟩
  repeat' first
    | lift_lets -underBinder
    | (with_reducible first | assumption | exact Keeps.refl _ | apply Keeps.ite | apply resetCtlWrite_keeps)

theorem otpRaise_same {z s : State} (kz : Same z s) (top : Nat) :
    Same z (otpRaise top s) := by
  unfold otpRaise
  repeat' first
    | lift_lets -underBinder
    | (with_reducible first
        | assumption | exact Same.refl _ | apply Same.ite | apply State.modBoot_same | apply State.p_same
        | apply State.set1_same)
theorem otpRaise_keeps {z s : State} (kz : Keeps z s) (top : Nat) :
    Keeps z (otpRaise top s) :=
  (otpRaise_same (.refl _) _).keeps.after kz

theorem bootRom_keeps {z s0 : State} (kz : Keeps z s0) (ok : Bool) (keys calib pwr : List Nat) :
    Keeps z (bootRom ok keys calib pwr s0) := by
  unfold bootRom
  repeat' first
    | lift_lets -underBinder
    | (intro x; refine Keeps.cut (s := z) (t := x) ?_ ?_; unfold x; clear x; rotate_left; intro _; clear_value x; rotate_right)
    | (intro x; clear_value x)
    | (with_reducible first
        | assumption | exact Keeps.refl _ | apply Keeps.ite | apply bootFail_keeps | apply State.p_keeps
        | apply State.modBoot_keeps | apply State.pb_keeps
        | (apply State.each_keeps; intro _ z; rotate_left; rotate_right) | apply stageTo_keeps
        | apply calFactory_keeps)
    | (with_reducible apply Keeps.base; with_reducible first
        | assumption | exact Keeps.refl _ | apply Keeps.ite | apply bootFail_keeps | apply State.p_keeps
        | apply State.modBoot_keeps | apply State.pb_keeps | apply stageTo_keeps | apply calFactory_keeps)
    | split

theorem bootFetch_same {z s : State} (kz : Same z s) (q : Quetus) :
    Same z (bootFetch q s) := by
  unfold bootFetch
  repeat' first
    | lift_lets -underBinder
    | (intro x; clear_value x)
    | (with_reducible first
        | assumption | exact Same.refl _ | apply Same.ite | apply bootFail_same | apply State.p_same
        | apply stageTo_same | (apply State.when_same; intro z; rotate_left; rotate_right) | apply otpRaise_same)
theorem bootFetch_keeps {z s : State} (kz : Keeps z s) (q : Quetus) :
    Keeps z (bootFetch q s) :=
  (bootFetch_same (.refl _) _).keeps.after kz

theorem imageFail_same {z s : State} (kz : Same z s) (reason : Nat) :
    Same z (imageFail reason s) := by
  unfold imageFail
  repeat' first
    | lift_lets -underBinder
    | (intro x; refine Same.cut (s := z) (t := x) ?_ ?_; unfold x; clear x; rotate_left; intro _; clear_value x; rotate_right)
    | (with_reducible first
        | assumption | exact Same.refl _ | apply Same.ite | apply State.p_same | apply storeSource_same
        | apply State.modBoot_same | (apply State.each_same; intro _ z; rotate_left; rotate_right)
        | apply State.wr_same)
theorem imageFail_keeps {z s : State} (kz : Keeps z s) (reason : Nat) :
    Keeps z (imageFail reason s) :=
  (imageFail_same (.refl _) _).keeps.after kz

theorem imageLoad_same {z s : State} (kz : Same z s) (hdr body : List Nat) :
    Same z (imageLoad hdr body s) := by
  unfold imageLoad
  repeat' first
    | lift_lets -underBinder
    | (intro x; refine Same.cut (s := z) (t := x) ?_ ?_; unfold x; clear x; rotate_left; intro _; clear_value x; rotate_right)
    | (intro x; clear_value x)
    | (with_reducible first
        | assumption | exact Same.refl _ | apply Same.ite
        | (apply State.each_same; intro _ z; rotate_left; rotate_right) | apply State.wr_same
        | apply State.modBoot_same)
theorem imageLoad_keeps {z s : State} (kz : Keeps z s) (hdr body : List Nat) :
    Keeps z (imageLoad hdr body s) :=
  (imageLoad_same (.refl _) _ _).keeps.after kz

theorem bootPatch_same {z s : State} (kz : Same z s) (q : Quetus) :
    Same z (bootPatch q s) := by
  unfold bootPatch
  repeat' first
    | lift_lets -underBinder
    | (intro x; refine Same.cut (s := z) (t := x) ?_ ?_; unfold x; clear x; rotate_left; intro _; clear_value x; rotate_right)
    | (intro x; clear_value x)
    | (with_reducible first
        | assumption | exact Same.refl _ | apply Same.ite
        | (apply State.when_same; intro z; rotate_left; rotate_right) | apply State.p_same | apply stageTo_same
        | apply imageFail_same | apply imageLoad_same)
theorem bootPatch_keeps {z s : State} (kz : Keeps z s) (q : Quetus) :
    Keeps z (bootPatch q s) :=
  (bootPatch_same (.refl _) _).keeps.after kz

theorem imageApply_same {z s : State} (kz : Same z s) (x : UcPend) :
    Same z (imageApply x s) := by
  unfold imageApply
  repeat' first
    | lift_lets -underBinder
    | (intro x; refine Same.cut (s := z) (t := x) ?_ ?_; unfold x; clear x; rotate_left; intro _; clear_value x; rotate_right)
    | (with_reducible first
        | assumption | exact Same.refl _ | apply Same.ite | apply State.set1_same | apply State.p_same
        | (apply State.when_same; intro z; rotate_left; rotate_right) | apply otpRaise_same
        | apply State.modBoot_same)
theorem imageApply_keeps {z s : State} (kz : Keeps z s) (x : UcPend) :
    Keeps z (imageApply x s) :=
  (imageApply_same (.refl _) _).keeps.after kz

theorem bootBist_same {z s : State} (kz : Same z s) (readback rom : Nat) :
    Same z (bootBist readback rom s) := by
  unfold bootBist
  repeat' first
    | lift_lets -underBinder
    | (intro x; refine Same.cut (s := z) (t := x) ?_ ?_; unfold x; clear x; rotate_left; intro _; clear_value x; rotate_right)
    | (with_reducible first
        | assumption | exact Same.refl _ | apply Same.ite | apply imageApply_same | apply imageFail_same
        | apply bootFail_same | apply State.p_same | apply stageTo_same)
    | (with_reducible apply Same.base; with_reducible first
        | assumption | exact Same.refl _ | apply Same.ite | apply imageApply_same | apply imageFail_same
        | apply bootFail_same | apply State.p_same | apply stageTo_same)
    | split
theorem bootBist_keeps {z s : State} (kz : Keeps z s) (readback rom : Nat) :
    Keeps z (bootBist readback rom s) :=
  (bootBist_same (.refl _) _ _).keeps.after kz

theorem bootHbm_keeps {z s : State} (kz : Keeps z s) (ok : Bool) :
    Keeps z (bootHbm ok s) := by
  unfold bootHbm
  repeat' first
    | lift_lets -underBinder
    | (intro x; refine Keeps.cut (s := z) (t := x) ?_ ?_; unfold x; clear x; rotate_left; intro _; clear_value x; rotate_right)
    | (with_reducible first
        | assumption | exact Keeps.refl _ | apply Keeps.ite | apply bootFail_keeps | apply State.set1_keeps
        | (apply State.over_keeps; intro _ z; rotate_left; rotate_right) | apply State.dropPort_keeps
        | apply stageTo_keeps | apply State.modBoot_keeps | apply State.pb_keeps)
    | (with_reducible apply Keeps.base; with_reducible first
        | assumption | (apply State.over_keeps; intro _ z; rotate_left; rotate_right))

theorem bootHousekeeping_same {z s : State} (kz : Same z s) :
    Same z (bootHousekeeping s) := by
  unfold bootHousekeeping
  repeat' first
    | lift_lets -underBinder
    | (with_reducible first
        | assumption | exact Same.refl _ | apply Same.ite | apply stageTo_same | apply State.clr_same)
theorem bootHousekeeping_keeps {z s : State} (kz : Keeps z s) :
    Keeps z (bootHousekeeping s) :=
  (bootHousekeeping_same (.refl _)).keeps.after kz

theorem bootReady_keeps {z s : State} (kz : Keeps z s) :
    Keeps z (bootReady s) := by
  unfold bootReady
  repeat' first
    | lift_lets -underBinder
    | (intro x; refine Keeps.cut (s := z) (t := x) ?_ ?_; unfold x; clear x; rotate_left; intro _; clear_value x; rotate_right)
    | (with_reducible first
        | assumption | exact Keeps.refl _ | apply Keeps.ite | apply bootTime_keeps | apply stageTo_keeps
        | (apply State.when_keeps; intro z; rotate_left; rotate_right)
        | (apply State.each_keeps; intro _ z; rotate_left; rotate_right) | apply fenceUnit_keeps
        | apply railFaults_keeps | apply outputsSafe_keeps | apply graveUnit_keeps)
    | (with_reducible apply Keeps.base; with_reducible first
        | assumption | (apply State.when_keeps; intro z; rotate_left; rotate_right)
        | (apply State.each_keeps; intro _ z; rotate_left; rotate_right))

theorem bootStageEnd_keeps {z s : State} (kz : Keeps z s) (r : BootRes) :
    Keeps z (bootStageEnd r s) := by
  unfold bootStageEnd
  repeat' first
    | lift_lets -underBinder
    | (with_reducible first
        | assumption | exact Keeps.refl _ | apply Keeps.ite | apply bootRom_keeps | apply bootFetch_keeps
        | apply bootPatch_keeps | apply bootBist_keeps | apply bootHbm_keeps | apply bootHousekeeping_keeps
        | apply bootReady_keeps)
    | (with_reducible apply Keeps.base; with_reducible first
        | assumption | exact Keeps.refl _ | apply Keeps.ite | apply bootRom_keeps | apply bootFetch_keeps
        | apply bootPatch_keeps | apply bootBist_keeps | apply bootHbm_keeps | apply bootHousekeeping_keeps
        | apply bootReady_keeps)
    | split

theorem execBootStageEnd_keeps {z : State} (r : BootRes) : RunsKeeps z (execBootStageEnd r z) := by
  refine ⟨_, rfl, ?_⟩
  repeat' first
    | lift_lets -underBinder
    | (with_reducible first | assumption | exact Keeps.refl _ | apply Keeps.ite | apply bootStageEnd_keeps)

end Sys2Proof.Machine
end

