-- ==== Sys2Proof/Laws/SameBus.lean ====
section
/-! SUPPORT. What the operations of Machine.Bus keep: the part, the queue, the canonical tables, and where they store no bulk
memory all of it. -/
set_option linter.unreachableTactic false
set_option linter.unusedTactic false
namespace Sys2Proof.Machine

theorem plainWrite_same {z s : State} (kz : Same z s) (r : RegRow) (a : Nat) (v : Word) :
    Same z (plainWrite r a v s) := by
  unfold plainWrite
  repeat' first
    | lift_lets -underBinder
    | (intro x; clear_value x)
    | (with_reducible first
        | assumption | exact Same.refl _ | apply Same.ite | apply State.cfgWr_same | apply State.wr_same)
theorem plainWrite_keeps {z s : State} (kz : Keeps z s) (r : RegRow) (a : Nat) (v : Word) :
    Keeps z (plainWrite r a v s) :=
  (plainWrite_same (.refl _) _ _ _).keeps.after kz

theorem holdTreadsWrite_same {z s : State} (kz : Same z s) (r : RegRow) (h : Nat) (v : Word) :
    Same z (holdTreadsWrite r h v s) := by
  unfold holdTreadsWrite
  repeat' first
    | lift_lets -underBinder
    | (intro x; refine Same.cut (s := z) (t := x) ?_ ?_; unfold x; clear x; rotate_left; intro _; clear_value x; rotate_right)
    | (with_reducible first
        | assumption | exact Same.refl _ | apply Same.ite | apply plainWrite_same | apply State.p_same)
theorem holdTreadsWrite_keeps {z s : State} (kz : Keeps z s) (r : RegRow) (h : Nat) (v : Word) :
    Keeps z (holdTreadsWrite r h v s) :=
  (holdTreadsWrite_same (.refl _) _ _ _).keeps.after kz

theorem checkedWrite_same {no : State → State} {z s : State} (hno : ∀ t, Same t (no t)) (kz : Same z s) (ok : Bool) (r : RegRow) (a : Nat) (v : Word) :
    Same z (checkedWrite ok no r a v s) := by
  unfold checkedWrite
  repeat' first
    | lift_lets -underBinder
    | (with_reducible first
        | assumption | exact Same.refl _ | apply Same.ite | refine Same.after (hno ..) ?_ | apply plainWrite_same)

theorem checkedWrite_keeps {no : State → State} {z s : State} (hno : ∀ t, Keeps t (no t)) (kz : Keeps z s) (ok : Bool) (r : RegRow) (a : Nat) (v : Word) :
    Keeps z (checkedWrite ok no r a v s) := by
  unfold checkedWrite
  repeat' first
    | lift_lets -underBinder
    | (with_reducible first
        | assumption | exact Keeps.refl _ | apply Keeps.ite | refine Keeps.after (hno ..) ?_ | apply plainWrite_keeps)

theorem peStatWrite_same {z s : State} (kz : Same z s) (r : RegRow) (h c : Nat) (v : Word) :
    Same z (peStatWrite r h c v s) := by
  unfold peStatWrite
  repeat' first
    | lift_lets -underBinder
    | (with_reducible first
        | assumption | exact Same.refl _ | apply Same.ite | apply plainWrite_same
        | (apply State.when_same; intro z; rotate_left; rotate_right) | apply tripClear_same)
theorem peStatWrite_keeps {z s : State} (kz : Keeps z s) (r : RegRow) (h c : Nat) (v : Word) :
    Keeps z (peStatWrite r h c v s) :=
  (peStatWrite_same (.refl _) _ _ _ _).keeps.after kz

theorem smuStatWrite_same {z s : State} (kz : Same z s) (r : RegRow) (k : Nat) (v : Word) :
    Same z (smuStatWrite r k v s) := by
  unfold smuStatWrite
  repeat' first
    | lift_lets -underBinder
    | (intro x; refine Same.cut (s := z) (t := x) ?_ ?_; unfold x; clear x; rotate_left; intro _; clear_value x; rotate_right)
    | (with_reducible first
        | assumption | exact Same.refl _ | apply Same.ite | apply plainWrite_same
        | (apply State.when_same; intro z; rotate_left; rotate_right) | apply smuTripClear_same | apply State.p_same)
theorem smuStatWrite_keeps {z s : State} (kz : Keeps z s) (r : RegRow) (k : Nat) (v : Word) :
    Keeps z (smuStatWrite r k v s) :=
  (smuStatWrite_same (.refl _) _ _ _).keeps.after kz

theorem tripMapWrite_same {z s : State} (kz : Same z s) (h : Nat) (v : Word) :
    Same z (tripMapWrite h v s) := by
  unfold tripMapWrite
  repeat' first
    | lift_lets -underBinder
    | (with_reducible first
        | assumption | exact Same.refl _ | apply Same.ite
        | (apply State.each_same; intro _ z; rotate_left; rotate_right)
        | (apply State.when_same; intro z; rotate_left; rotate_right) | apply tripClear_same)
theorem tripMapWrite_keeps {z s : State} (kz : Keeps z s) (h : Nat) (v : Word) :
    Keeps z (tripMapWrite h v s) :=
  (tripMapWrite_same (.refl _) _ _).keeps.after kz

theorem thermStatWrite_same {z s : State} (kz : Same z s) (r : RegRow) (v : Word) :
    Same z (thermStatWrite r v s) := by
  unfold thermStatWrite
  repeat' first
    | lift_lets -underBinder
    | (with_reducible first
        | assumption | exact Same.refl _ | apply Same.ite | apply plainWrite_same
        | (apply State.when_same; intro z; rotate_left; rotate_right) | apply sdSeenClear_same)
theorem thermStatWrite_keeps {z s : State} (kz : Keeps z s) (r : RegRow) (v : Word) :
    Keeps z (thermStatWrite r v s) :=
  (thermStatWrite_same (.refl _) _ _).keeps.after kz

theorem acqCtlWrite_keeps {z s : State} (kz : Keeps z s) (d : Nat) (v : Word) :
    Keeps z (acqCtlWrite d v s) := by
  unfold acqCtlWrite
  repeat' first
    | lift_lets -underBinder
    | (intro x; refine Keeps.cut (s := z) (t := x) ?_ ?_; unfold x; clear x; rotate_left; intro _; clear_value x; rotate_right)
    | (with_reducible first
        | assumption | exact Keeps.refl _ | apply Keeps.ite
        | (apply State.when_keeps; intro z; rotate_left; rotate_right) | apply acqAbort_keeps | apply acqCatch_keeps
        | apply State.draw_keeps | apply acqForce_keeps)

theorem mspiWin_same {z s : State} (kz : Same z s) (path : Path) (v : Word) :
    Same z (mspiWin path v s) := by
  unfold mspiWin
  repeat' first
    | lift_lets -underBinder
    | (with_reducible first
        | assumption | exact Same.refl _ | apply Same.ite
        | (apply State.when_same; intro z; rotate_left; rotate_right) | apply State.p_same)
theorem mspiWin_keeps {z s : State} (kz : Keeps z s) (path : Path) (v : Word) :
    Keeps z (mspiWin path v s) :=
  (mspiWin_same (.refl _) _ _).keeps.after kz

theorem regWriteAt_keeps {z s : State} (kz : Keeps z s) (path : Path) (r : RegRow) (i j k : Nat) (a : Nat) (v : Word) :
    Keeps z (regWriteAt path r i j k a v s) := by
  unfold regWriteAt
  dsimp only
  generalize r.name = n
  cases n
  case AXIS_CTL => exact axisCtlWrite_keeps kz ..
  case RATIO_M => exact ratioWrite_keeps kz ..
  case RATIO_N => exact ratioWrite_keeps kz ..
  case SYN_SCHED => exact synSchedWrite_keeps kz ..
  case TSET_DRV => exact tsetWrite_keeps kz ..
  case TSET_CMP => exact tsetWrite_keeps kz ..
  case TSET_HDR => exact tsetWrite_keeps kz ..
  case DESKEW => exact deskewWrite_keeps kz ..
  case AXZ_CTL => exact axzCtlWrite_keeps kz ..
  case LAND_CFG => exact checkedWrite_keeps (fun _ => .refl _) kz ..
  case JMP_REQ => exact jmpReqWrite_keeps kz ..
  case HOLD_TREADS => exact holdTreadsWrite_keeps kz ..
  case SCHED_CTL => exact checkedWrite_keeps (fun _ => .refl _) kz ..
  case SCHED_BANK => exact schedBankWrite_keeps kz ..
  case DEADLINE_LO => exact deadlineWrite_keeps kz ..
  case DEADLINE_HI => exact deadlineWrite_keeps kz ..
  case BCAST_SRC => exact bcastWrite_keeps kz ..
  case BCAST_MEM => exact bcastWrite_keeps kz ..
  case SCHED_FLOOR => exact ledger_keeps (plainWrite_keeps kz ..)
  case QP_SQ_DB => exact sqDoorbell_keeps kz ..
  case QP_CQ_DB => exact cqDoorbell_keeps kz ..
  case RR_HEAD_DB => dsimp only; split <;> first | exact kz | exact rrDoorbell_keeps kz ..
  case QP_CFG => exact qpCfgWrite_keeps kz ..
  case QP_SQ_BASE_LO => exact qpBaseWrite_keeps kz ..
  case QP_SQ_BASE_HI => exact qpBaseWrite_keeps kz ..
  case QP_CQ_BASE_LO => exact qpBaseWrite_keeps kz ..
  case QP_CQ_BASE_HI => exact qpBaseWrite_keeps kz ..
  case RR_CFG => exact rrCfgWrite_keeps kz ..
  case RR_BASE_LO => exact rrAddrWrite_keeps kz ..
  case RR_BASE_HI => exact rrAddrWrite_keeps kz ..
  case RR_WB_LO => exact rrAddrWrite_keeps kz ..
  case RR_WB_HI => exact rrAddrWrite_keeps kz ..
  case PORT_CTL => exact portCtlWrite_keeps kz ..
  case PORT_ADDR => exact portAddrWrite_keeps kz ..
  case PORT_APT => exact portAptWrite_keeps kz ..
  case PORT_DATA => exact portDataWrite_keeps kz ..
  case TRIP_MAP => exact tripMapWrite_keeps kz ..
  case PP_CTL => exact ppCtlWrite_keeps kz ..
  case PE_CTL => exact peCtlWrite_keeps kz ..
  case PE_STAT => exact peStatWrite_keeps kz ..
  case TRIP_CTL => exact tripCtlWrite_keeps kz ..
  case SMU_CTL => exact smuCtlWrite_keeps kz ..
  case SMU_STAT => exact smuStatWrite_keeps kz ..
  case SMU_FORCE => exact smuForceWrite_keeps kz ..
  case SMU_ICLAMP => exact smuForceWrite_keeps kz ..
  case SMU_VCLAMP => exact smuForceWrite_keeps kz ..
  case DDS_FTW => exact ddsFtwWrite_keeps kz ..
  case DDS_AMPL => exact ddsAmplWrite_keeps kz ..
  case DDS_PHASE => exact ddsPhaseWrite_keeps kz ..
  case DDS_START => exact ddsStartWrite_keeps kz ..
  case MSET_CFG => exact msetWrite_keeps kz ..
  case MSET_FORCE => exact msetWrite_keeps kz ..
  case MSET_LO => exact msetWrite_keeps kz ..
  case MSET_HI => exact msetWrite_keeps kz ..
  case TDC_HOST => exact tdcHostWrite_keeps kz ..
  case TDCQ_CFG => exact tdcqCfgWrite_keeps kz ..
  case TDC_SET_A => exact tdcSetWrite_keeps kz ..
  case TDC_SET_B => exact tdcSetWrite_keeps kz ..
  case TDC_SET_C => exact tdcSetWrite_keeps kz ..
  case TDC_SET_D => exact tdcSetWrite_keeps kz ..
  case ACQ_CTL => exact acqCtlWrite_keeps kz ..
  case HSE_SLOT_A => exact hseRegWrite_keeps kz ..
  case HSE_SLOT_B => exact hseRegWrite_keeps kz ..
  case HSE_SLOT_C => exact hseRegWrite_keeps kz ..
  case HSE_SLOT_D => exact hseRegWrite_keeps kz ..
  case LMAP_A => exact hseRegWrite_keeps kz ..
  case LMAP_B => exact hseRegWrite_keeps kz ..
  case HSE_CTL => exact swapAfterSend_keeps (hseCtlWrite_keeps kz ..) ..
  case MSPI_WIN => exact mspiWin_keeps kz ..
  case BSPI_CTL => exact bspiCtlWrite_keeps kz ..
  case RS_LANE => exact rsLaneWrite_keeps kz ..
  case EV_CFG => exact evCfgWrite_keeps kz ..
  case EV_STAT => exact evStatWrite_keeps kz ..
  case EV_HALLS => exact evCfgWrite_keeps kz ..
  case EV_PMASK => exact evCfgWrite_keeps kz ..
  case EV_CMASK => exact evCfgWrite_keeps kz ..
  case EV_SWSET => exact evSwset_keeps kz ..
  case EV_REFRACT => exact evRefractWrite_keeps kz ..
  case TM_CTL => exact tmCtlWrite_keeps kz ..
  case TM_DELAY => exact tmRegWrite_keeps kz ..
  case TM_WIDTH => exact tmRegWrite_keeps kz ..
  case TM_PERIOD => exact tmRegWrite_keeps kz ..
  case EVD_SWSET => exact evdSwset_keeps kz ..
  case EVD_FLAG => exact evdFlagWrite_keeps kz ..
  case GAL_CFG => exact galCfgWrite_keeps kz ..
  case GAL_CTL => exact galCtlWrite_keeps kz ..
  case GAL_PEER_IDX => exact peerIdxWrite_keeps kz ..
  case PTP_CFG => exact checkedWrite_keeps (fun _ => .refl _) kz ..
  case TB_SNAP => exact State.when_keeps (fun _ => tbSnap_keeps (.refl _) ..) kz
  case GAL_ALAT => exact checkedWrite_keeps (fun _ => State.set1_keeps (.refl _) ..) kz ..
  case TT_CTL => exact ttCtlWrite_keeps kz ..
  case TT_AT_LO => exact ttRegWrite_keeps kz ..
  case TT_AT_HI => exact ttRegWrite_keeps kz ..
  case TT_PERIOD => exact ttRegWrite_keeps kz ..
  case TT_WIDTH => exact ttRegWrite_keeps kz ..
  case THERM_STAT => exact thermStatWrite_keeps kz ..
  case THERM_CTL => exact thermCtlWrite_keeps kz ..
  case PBUDGET => exact pbudgetWrite_keeps kz ..
  case TH_CFG => exact thCfgWrite_keeps kz ..
  case TSD_CFG => exact tsdWrite_keeps kz ..
  case TS_FAIL_LO => exact tsFailWrite_keeps kz ..
  case TS_FAIL_HI => exact tsFailWrite_keeps kz ..
  case RAIL_WIN => exact railWinWrite_keeps kz ..
  case FLT_CTL => exact fltCtlWrite_keeps kz ..
  case FLT_CFG => exact fltCfgWrite_keeps kz ..
  case CAL_CTL => exact checkedWrite_keeps (fun _ => .refl _) kz ..
  case RESET_CTL => exact resetCtlWrite_keeps kz ..
  all_goals exact plainWrite_keeps kz ..

theorem regWrite_keeps {z s : State} (kz : Keeps z s) (path : Path) (a : Nat) (v : Word) :
    Keeps z (regWrite path a v s) := by
  unfold regWrite
  repeat' first
    | lift_lets -underBinder
    | (with_reducible first | assumption | exact Keeps.refl _ | apply Keeps.ite | apply regWriteAt_keeps)
    | (with_reducible apply Keeps.base; with_reducible first
        | assumption | exact Keeps.refl _ | apply Keeps.ite | apply regWriteAt_keeps)
    | split

theorem hostWrite_keeps {z s : State} (kz : Keeps z s) (path : Path) (a : Nat) (v : Word) :
    Keeps z (hostWrite path a v s) := by
  unfold hostWrite
  repeat' first
    | lift_lets -underBinder
    | (with_reducible first
        | assumption | exact Keeps.refl _ | apply Keeps.ite
        | (apply State.byHost_keeps; intro z; rotate_left; rotate_right) | apply resetCtlWrite_keeps
        | apply regWrite_keeps | apply State.set1_keeps
        | (apply State.hostTh_keeps; intro z; rotate_left; rotate_right)
        | (apply State.host_keeps; intro z; rotate_left; rotate_right))

theorem msixWrite_same {z s : State} (kz : Same z s) (a : Nat) (v : Word) :
    Same z (msixWrite a v s) := by
  unfold msixWrite
  repeat' first
    | lift_lets -underBinder
    | (intro x; refine Same.cut (s := z) (t := x) ?_ ?_; unfold x; clear x; rotate_left; intro _; clear_value x; rotate_right)
    | (intro x; clear_value x)
    | (with_reducible first
        | assumption | exact Same.refl _ | apply Same.ite | apply State.setVec_same | apply State.vecFire_same)
    | (with_reducible apply Same.base; with_reducible first
        | assumption | exact Same.refl _ | apply Same.ite | apply State.setVec_same | apply State.vecFire_same)
    | split
theorem msixWrite_keeps {z s : State} (kz : Keeps z s) (a : Nat) (v : Word) :
    Keeps z (msixWrite a v s) :=
  (msixWrite_same (.refl _) _ _).keeps.after kz

theorem execRegWrite_keeps {z : State} (bar : Bar) (a n : Nat) (v : Word) : RunsKeeps z (execRegWrite bar a n v z) := by
  refine ⟨_, rfl, ?_⟩
  repeat' first
    | lift_lets -underBinder
    | (with_reducible first
        | assumption | exact Keeps.refl _ | apply Keeps.ite | apply hostWrite_keeps | apply msixWrite_keeps)
    | (with_reducible apply Keeps.base; with_reducible first
        | assumption | exact Keeps.refl _ | apply Keeps.ite | apply hostWrite_keeps | apply msixWrite_keeps)
    | split

theorem pairRead_same {z s : State} (kz : Same z s) (path : Path) (low : Bool) (a : Nat) :
    Same z (pairRead path low a s) := by
  unfold pairRead
  repeat' first
    | lift_lets -underBinder
    | (with_reducible first | assumption | exact Same.refl _ | apply Same.ite | apply State.setRead_same)
    | (with_reducible apply Same.base; with_reducible assumption)
theorem pairRead_keeps {z s : State} (kz : Keeps z s) (path : Path) (low : Bool) (a : Nat) :
    Keeps z (pairRead path low a s) :=
  (pairRead_same (.refl _) _ _ _).keeps.after kz

theorem regRead_same {z s : State} (kz : Same z s) (path : Path) (a : Nat) :
    Same z (regRead path a s) := by
  unfold regRead
  repeat' first
    | lift_lets -underBinder
    | (intro x; clear_value x)
    | (with_reducible first
        | assumption | exact Same.refl _ | apply Same.ite | apply State.setRead_same | apply pairRead_same
        | apply fltDescLoRead_same | apply fltLogRead_same | apply portDataRead_same)
    | (with_reducible apply Same.base; with_reducible first
        | assumption | exact Same.refl _ | apply Same.ite | apply State.setRead_same | apply pairRead_same
        | apply fltDescLoRead_same | apply fltLogRead_same | apply portDataRead_same)
    | split
theorem regRead_keeps {z s : State} (kz : Keeps z s) (path : Path) (a : Nat) :
    Keeps z (regRead path a s) :=
  (regRead_same (.refl _) _ _).keeps.after kz

theorem hostReadReg_same {z s : State} (kz : Same z s) (path : Path) (a : Nat) :
    Same z (hostReadReg path a s) := by
  unfold hostReadReg
  repeat' first
    | lift_lets -underBinder
    | (with_reducible first
        | assumption | exact Same.refl _ | apply Same.ite | apply regRead_same | apply State.setRead_same)
theorem hostReadReg_keeps {z s : State} (kz : Keeps z s) (path : Path) (a : Nat) :
    Keeps z (hostReadReg path a s) :=
  (hostReadReg_same (.refl _) _ _).keeps.after kz

theorem execCounterLowRead_same {z : State} (path : Path) (a n : Nat) : RunsSame z (execCounterLowRead path a n z) := by
  refine ⟨_, rfl, ?_⟩
  repeat' first
    | lift_lets -underBinder
    | (with_reducible first
        | assumption | exact Same.refl _ | apply Same.ite | apply State.setRead_same | apply hostReadReg_same)
    | (with_reducible apply Same.base; with_reducible first
        | assumption | exact Same.refl _ | apply Same.ite | apply State.setRead_same | apply hostReadReg_same)
    | split

theorem mspiFetch_same {z s : State} (kz : Same z s) (i : Nat) :
    Same z (mspiFetch i s) := by
  unfold mspiFetch
  repeat' first
    | lift_lets -underBinder
    | (intro x; refine Same.cut (s := z) (t := x) ?_ ?_; unfold x; clear x; rotate_left; intro _; clear_value x; rotate_right)
    | (intro x; clear_value x)
    | (with_reducible first
        | assumption | exact Same.refl _ | apply Same.ite | apply State.setRead_same | apply hostReadReg_same)
    | (with_reducible apply Same.base; with_reducible assumption)
theorem mspiFetch_keeps {z s : State} (kz : Keeps z s) (i : Nat) :
    Keeps z (mspiFetch i s) :=
  (mspiFetch_same (.refl _) _).keeps.after kz

theorem execMspiFrameHeader_same {z : State} (b : Nat) : RunsSame z (execMspiFrameHeader b z) := by
  refine ⟨_, rfl, ?_⟩
  repeat' first
    | lift_lets -underBinder
    | (intro x; refine Same.cut (s := z) (t := x) ?_ ?_; unfold x; clear x; rotate_left; intro _; clear_value x; rotate_right)
    | (intro x; clear_value x)
    | (with_reducible first
        | assumption | exact Same.refl _ | apply Same.ite | apply mspiFetch_same | apply State.send_same)
    | (with_reducible apply Same.base; with_reducible first | assumption | exact Same.refl _)

theorem mspiWord_keeps {z s : State} (kz : Keeps z s) (f : MspiFrame) (v : Word) :
    Keeps z (mspiWord f v s) := by
  unfold mspiWord
  repeat' first
    | lift_lets -underBinder
    | (intro x; refine Keeps.cut (s := z) (t := x) ?_ ?_; unfold x; clear x; rotate_left; intro _; clear_value x; rotate_right)
    | (intro x; clear_value x)
    | (with_reducible first
        | assumption | exact Keeps.refl _ | apply Keeps.ite | apply State.set1_keeps | apply hostWrite_keeps)
    | (with_reducible apply Keeps.base; with_reducible assumption)

theorem execMspiWriteWord_keeps {z : State} (v : Word) : RunsKeeps z (execMspiWriteWord v z) := by
  refine ⟨_, rfl, ?_⟩
  repeat' first
    | lift_lets -underBinder
    | (with_reducible first | assumption | exact Keeps.refl _ | apply Keeps.ite | apply mspiWord_keeps)
    | (with_reducible apply Keeps.base; with_reducible first
        | assumption | exact Keeps.refl _ | apply Keeps.ite | apply mspiWord_keeps)
    | split

theorem execMspiWinWrite_keeps {z : State} (v : Word) : RunsKeeps z (execMspiWinWrite v z) := by
  refine ⟨_, rfl, ?_⟩
  repeat' first
    | lift_lets -underBinder
    | (with_reducible first | assumption | exact Keeps.refl _ | apply Keeps.ite | apply mspiWord_keeps)
    | (with_reducible apply Keeps.base; with_reducible first
        | assumption | exact Keeps.refl _ | apply Keeps.ite | apply mspiWord_keeps)
    | split

theorem mspiSend_same {z s : State} (kz : Same z s) (f : MspiFrame) (ready : Bool) :
    Same z (mspiSend f ready s) := by
  unfold mspiSend
  repeat' first
    | lift_lets -underBinder
    | (intro x; refine Same.cut (s := z) (t := x) ?_ ?_; unfold x; clear x; rotate_left; intro _; clear_value x; rotate_right)
    | (intro x; clear_value x)
    | (with_reducible first
        | assumption | exact Same.refl _ | apply Same.ite
        | (apply State.when_same; intro z; rotate_left; rotate_right) | apply State.set1_same | apply mspiFetch_same
        | apply State.send_same)
    | (with_reducible apply Same.base; with_reducible first
        | assumption | (apply State.when_same; intro z; rotate_left; rotate_right))
theorem mspiSend_keeps {z s : State} (kz : Keeps z s) (f : MspiFrame) (ready : Bool) :
    Keeps z (mspiSend f ready s) :=
  (mspiSend_same (.refl _) _ _).keeps.after kz

theorem execMspiReadWord_same {z : State} (ready : Bool) : RunsSame z (execMspiReadWord ready z) := by
  refine ⟨_, rfl, ?_⟩
  repeat' first
    | lift_lets -underBinder
    | (with_reducible first | assumption | exact Same.refl _ | apply Same.ite | apply mspiSend_same)
    | (with_reducible apply Same.base; with_reducible first
        | assumption | exact Same.refl _ | apply Same.ite | apply mspiSend_same)
    | split

theorem execMspiFrameEnd_same {z : State} (part : Bool) : RunsSame z (execMspiFrameEnd part z) := by
  refine ⟨_, rfl, ?_⟩
  repeat' first
    | lift_lets -underBinder
    | (with_reducible first
        | assumption | exact Same.refl _ | apply Same.ite
        | (apply State.when_same; intro z; rotate_left; rotate_right) | apply State.count_same)
    | (with_reducible apply Same.base; with_reducible first
        | assumption | exact Same.refl _ | (apply State.when_same; intro z; rotate_left; rotate_right))

end Sys2Proof.Machine
end

