-- ==== Sys2Proof/Laws/SameReplay.lean ====
section
/-! SUPPORT. What the operations of Machine.Replay keep: the part, the queue, the canonical tables, and where they store no bulk
memory all of it. -/
set_option linter.unreachableTactic false
set_option linter.unusedTactic false
namespace Sys2Proof.Machine

theorem modRpl_same {z s : State} (kz : Same z s) (f : ReplayX → ReplayX) :
    Same z (modRpl f s) := by
  unfold modRpl
  repeat' first
    | lift_lets -underBinder
    | (with_reducible first | assumption | exact Same.refl _ | apply Same.ite)
    | (with_reducible apply Same.base; with_reducible assumption)
theorem modRpl_keeps {z s : State} (kz : Keeps z s) (f : ReplayX → ReplayX) :
    Keeps z (modRpl f s) :=
  (modRpl_same (.refl _) _).keeps.after kz

theorem rplSeat_same {z s : State} (kz : Same z s) (r : JRec) :
    Same z (rplSeat r s) := by
  unfold rplSeat
  repeat' first
    | lift_lets -underBinder
    | (with_reducible first
        | assumption | exact Same.refl _ | apply Same.ite | apply modRpl_same | apply State.setPos_same)
    | (with_reducible apply Same.base; with_reducible first
        | assumption | exact Same.refl _ | apply Same.ite | apply modRpl_same | apply State.setPos_same)
    | split
theorem rplSeat_keeps {z s : State} (kz : Keeps z s) (r : JRec) :
    Keeps z (rplSeat r s) :=
  (rplSeat_same (.refl _) _).keeps.after kz

theorem rplConfig_same {z s : State} (kz : Same z s) (halls : Nat) :
    Same z (rplConfig halls s) := by
  unfold rplConfig
  repeat' first
    | lift_lets -underBinder
    | (intro x; refine Same.cut (s := z) (t := x) ?_ ?_; unfold x; clear x; rotate_left; intro _; clear_value x; rotate_right)
    | (intro x; clear_value x)
    | (with_reducible first
        | assumption | exact Same.refl _ | apply Same.ite
        | (apply State.over_same; intro _ z; rotate_left; rotate_right) | apply winClose_same | apply startHall_same)
    | (with_reducible apply Same.base; with_reducible first
        | assumption | (apply State.over_same; intro _ z; rotate_left; rotate_right))
theorem rplConfig_keeps {z s : State} (kz : Keeps z s) (halls : Nat) :
    Keeps z (rplConfig halls s) :=
  (rplConfig_same (.refl _) _).keeps.after kz

theorem rplSnapshot_keeps {z s : State} (kz : Keeps z s) (r : JRec) :
    Keeps z (rplSnapshot r s) := by
  unfold rplSnapshot
  repeat' first
    | lift_lets -underBinder
    | (intro x; refine Keeps.cut (s := z) (t := x) ?_ ?_; unfold x; clear x; rotate_left; intro _; clear_value x; rotate_right)
    | (intro x; clear_value x)
    | (with_reducible first
        | assumption | exact Keeps.refl _ | apply Keeps.ite | apply modRpl_keeps | apply swapBegin_keeps)
    | (with_reducible apply Keeps.base; with_reducible first
        | assumption | exact Keeps.refl _ | apply Keeps.ite | apply modRpl_keeps | apply swapBegin_keeps)
    | split

theorem rplFwin_same {z s : State} (kz : Same z s) (r : JRec) :
    Same z (rplFwin r s) := by
  unfold rplFwin
  repeat' first
    | lift_lets -underBinder
    | (intro x; clear_value x)
    | (with_reducible first
        | assumption | exact Same.refl _ | apply Same.ite | apply modRpl_same | apply State.modAlc_same)
theorem rplFwin_keeps {z s : State} (kz : Keeps z s) (r : JRec) :
    Keeps z (rplFwin r s) :=
  (rplFwin_same (.refl _) _).keeps.after kz

theorem rplSync_same {z s : State} (kz : Same z s) (r : JRec) :
    Same z (rplSync r s) := by
  unfold rplSync
  repeat' first
    | lift_lets -underBinder
    | (intro x; clear_value x)
    | (with_reducible first | assumption | exact Same.refl _ | apply Same.ite | apply syncSample_same)
theorem rplSync_keeps {z s : State} (kz : Keeps z s) (r : JRec) :
    Keeps z (rplSync r s) :=
  (rplSync_same (.refl _) _).keeps.after kz

theorem rplSerial_same {z s : State} (kz : Same z s) (r : JRec) :
    Same z (rplSerial r s) := by
  unfold rplSerial
  repeat' first
    | lift_lets -underBinder
    | (intro x; refine Same.cut (s := z) (t := x) ?_ ?_; unfold x; clear x; rotate_left; intro _; clear_value x; rotate_right)
    | (intro x; clear_value x)
    | (with_reducible first
        | assumption | exact Same.refl _ | apply Same.ite | apply modRpl_same
        | (apply State.when_same; intro z; rotate_left; rotate_right) | apply hseReport_same
        | apply State.modAlc_same)
    | (with_reducible apply Same.base; with_reducible first
        | assumption | exact Same.refl _ | apply Same.ite | apply modRpl_same | apply hseReport_same
        | apply State.modAlc_same)
    | split
theorem rplSerial_keeps {z s : State} (kz : Keeps z s) (r : JRec) :
    Keeps z (rplSerial r s) :=
  (rplSerial_same (.refl _) _).keeps.after kz

theorem rplMeasEnd_same {z s : State} (kz : Same z s) (r : JRec) :
    Same z (rplMeasEnd r s) := by
  unfold rplMeasEnd
  repeat' first
    | lift_lets -underBinder
    | (intro x; refine Same.cut (s := z) (t := x) ?_ ?_; unfold x; clear x; rotate_left; intro _; clear_value x; rotate_right)
    | (intro x; clear_value x)
    | (with_reducible first
        | assumption | exact Same.refl _ | apply Same.ite | apply modRpl_same | apply State.modAlc_same
        | (apply State.when_same; intro z; rotate_left; rotate_right) | apply State.p_same | apply State.emit_same)
    | (with_reducible apply Same.base; with_reducible first
        | assumption | exact Same.refl _ | apply Same.ite | apply modRpl_same | apply State.modAlc_same
        | apply State.p_same | apply State.emit_same)
    | split
theorem rplMeasEnd_keeps {z s : State} (kz : Keeps z s) (r : JRec) :
    Keeps z (rplMeasEnd r s) :=
  (rplMeasEnd_same (.refl _) _).keeps.after kz

theorem rplTdcq_same {z s : State} (kz : Same z s) (r : JRec) :
    Same z (rplTdcq r s) := by
  unfold rplTdcq
  repeat' first
    | lift_lets -underBinder
    | (with_reducible first
        | assumption | exact Same.refl _ | apply Same.ite
        | (apply State.when_same; intro z; rotate_left; rotate_right) | apply State.setBit_same)
theorem rplTdcq_keeps {z s : State} (kz : Keeps z s) (r : JRec) :
    Keeps z (rplTdcq r s) :=
  (rplTdcq_same (.refl _) _).keeps.after kz

theorem rplAxis_same {z s : State} (kz : Same z s) (r : JRec) :
    Same z (rplAxis r s) := by
  unfold rplAxis
  repeat' first
    | lift_lets -underBinder
    | (intro x; clear_value x)
    | (with_reducible first
        | assumption | exact Same.refl _ | apply Same.ite | apply State.p_same | apply State.set1_same
        | apply State.clr_same | apply stallEnd_same | apply modRpl_same | apply rplRatio_same)
    | (with_reducible apply Same.base; with_reducible first
        | assumption | exact Same.refl _ | apply Same.ite | apply State.p_same | apply State.set1_same
        | apply State.clr_same | apply stallEnd_same | apply modRpl_same | apply rplRatio_same)
    | split
theorem rplAxis_keeps {z s : State} (kz : Keeps z s) (r : JRec) :
    Keeps z (rplAxis r s) :=
  (rplAxis_same (.refl _) _).keeps.after kz

theorem rplAdmit_keeps {z s : State} (kz : Keeps z s) (h b : Nat) :
    Keeps z (rplAdmit h b s) := by
  unfold rplAdmit
  repeat' first
    | lift_lets -underBinder
    | (intro x; refine Keeps.cut (s := z) (t := x) ?_ ?_; unfold x; clear x; rotate_left; intro _; clear_value x; rotate_right)
    | (intro x; clear_value x)
    | (with_reducible first
        | assumption | exact Keeps.refl _ | apply Keeps.ite | apply modRpl_keeps | apply admitBank_keeps
        | apply runOn_keeps | apply State.modHold_keeps | apply swapBegin_keeps)

theorem rplPark_keeps {z s : State} (kz : Keeps z s) (h b : Nat) :
    Keeps z (rplPark h b s) := by
  unfold rplPark
  repeat' first
    | lift_lets -underBinder
    | (with_reducible first
        | assumption | exact Keeps.refl _ | apply Keeps.ite | apply swapBegin_keeps | apply modRpl_keeps
        | apply goIdle_keeps | apply leaveBank_keeps)
    | (with_reducible apply Keeps.base; with_reducible first
        | assumption | exact Keeps.refl _ | apply Keeps.ite | apply swapBegin_keeps | apply modRpl_keeps
        | apply goIdle_keeps | apply leaveBank_keeps)
    | split

theorem rplSched_keeps {z s : State} (kz : Keeps z s) (r : JRec) :
    Keeps z (rplSched r s) := by
  unfold rplSched
  repeat' first
    | lift_lets -underBinder
    | (with_reducible first
        | assumption | exact Keeps.refl _ | apply Keeps.ite | apply rplAdmit_keeps | apply setDefer_keeps
        | apply rplPark_keeps)
    | (with_reducible apply Keeps.base; with_reducible first
        | assumption | exact Keeps.refl _ | apply Keeps.ite | apply rplAdmit_keeps | apply setDefer_keeps
        | apply rplPark_keeps)
    | split

theorem rplFault_keeps {z s : State} (kz : Keeps z s) (r : JRec) :
    Keeps z (rplFault r s) := by
  unfold rplFault
  repeat' first
    | lift_lets -underBinder
    | (intro x; refine Keeps.cut (s := z) (t := x) ?_ ?_; unfold x; clear x; rotate_left; intro _; clear_value x; rotate_right)
    | (intro x; clear_value x)
    | (with_reducible first
        | assumption | exact Keeps.refl _ | apply Keeps.ite | apply modRpl_keeps
        | (apply State.when_keeps; intro z; rotate_left; rotate_right) | apply State.modAlc_keeps
        | (apply State.over_keeps; intro _ z; rotate_left; rotate_right) | apply alcFault_keeps | apply hallPark_keeps
        | (apply State.each_keeps; intro _ z; rotate_left; rotate_right))
    | (with_reducible apply Keeps.base; with_reducible first
        | assumption | exact Keeps.refl _ | apply Keeps.ite | apply modRpl_keeps | apply State.modAlc_keeps
        | apply alcFault_keeps | apply hallPark_keeps)
    | split

theorem rplInput_keeps {z s : State} (kz : Keeps z s) (r : JRec) :
    Keeps z (rplInput r s) := by
  unfold rplInput
  repeat' first
    | lift_lets -underBinder
    | (with_reducible first
        | assumption | exact Keeps.refl _ | apply Keeps.ite | apply rplSnapshot_keeps | apply rplFwin_keeps
        | apply rplSync_keeps | apply stopArrive_keeps | (apply State.when_keeps; intro z; rotate_left; rotate_right)
        | apply jmpArrive_keeps | apply hevLatch_keeps | apply rplSerial_keeps | apply rplMeasEnd_keeps
        | apply rplTdcq_keeps | apply rplAxis_keeps | apply rplSched_keeps | apply modRpl_keeps | apply rplFault_keeps
        | apply rplConfig_keeps | apply regWrite_keeps)
    | (with_reducible apply Keeps.base; with_reducible first
        | assumption | exact Keeps.refl _ | apply Keeps.ite | apply rplSnapshot_keeps | apply rplFwin_keeps
        | apply rplSync_keeps | apply stopArrive_keeps | apply jmpArrive_keeps | apply hevLatch_keeps
        | apply rplSerial_keeps | apply rplMeasEnd_keeps | apply rplTdcq_keeps | apply rplAxis_keeps
        | apply rplSched_keeps | apply modRpl_keeps | apply rplFault_keeps | apply rplConfig_keeps
        | apply regWrite_keeps)
    | split

theorem replayInput_keeps {z s : State} (kz : Keeps z s) (w : BitVec 256) (x : ReplayX) :
    Keeps z (replayInput w x s) := by
  unfold replayInput
  repeat' first
    | lift_lets -underBinder
    | (intro x; refine Keeps.cut (s := z) (t := x) ?_ ?_; unfold x; clear x; rotate_left; intro _; clear_value x; rotate_right)
    | (intro x; clear_value x)
    | (with_reducible first
        | assumption | exact Keeps.refl _ | apply Keeps.ite | apply State.send_keeps | apply State.p_keeps
        | apply modRpl_keeps | apply replayStop_keeps | (apply withClaims_keeps; intro z; rotate_left; rotate_right)
        | apply rplInput_keeps | apply rplSeat_keeps)

theorem execReplayInput_keeps {z : State} (rec : BitVec 256) : RunsKeeps z (execReplayInput rec z) := by
  refine ⟨_, rfl, ?_⟩
  repeat' first
    | lift_lets -underBinder
    | (with_reducible first | assumption | exact Keeps.refl _ | apply Keeps.ite | apply replayInput_keeps)
    | (with_reducible apply Keeps.base; with_reducible first
        | assumption | exact Keeps.refl _ | apply Keeps.ite | apply replayInput_keeps)
    | split

end Sys2Proof.Machine
end

