-- ==== Sys2Proof/Laws/SameTick.lean ====
section
/-! SUPPORT. What the operations of Machine.Tick keep: the part, the queue, the canonical tables, and where they store no bulk
memory all of it. -/
set_option linter.unreachableTactic false
set_option linter.unusedTactic false
namespace Sys2Proof.Machine

theorem periodsPass_same {z s : State} (kz : Same z s) (h n : Nat) :
    Same z (periodsPass h n s) := by
  unfold periodsPass
  repeat' first
    | lift_lets -underBinder
    | (intro x; refine Same.cut (s := z) (t := x) ?_ ?_; unfold x; clear x; rotate_left; intro _; clear_value x; rotate_right)
    | (intro x; clear_value x)
    | (with_reducible first
        | assumption | exact Same.refl _ | apply Same.ite | apply samplePass_same | apply lanesPass_same
        | apply entriesTo_same | apply driveHold_same)
    | (with_reducible apply Same.base; with_reducible first
        | assumption | exact Same.refl _ | apply Same.ite | apply samplePass_same | apply lanesPass_same
        | apply entriesTo_same | apply driveHold_same)
    | split
theorem periodsPass_keeps {z s : State} (kz : Keeps z s) (h n : Nat) :
    Keeps z (periodsPass h n s) :=
  (periodsPass_same (.refl _) _ _).keeps.after kz

theorem axisTick_same {z s : State} (kz : Same z s) (h : Nat) :
    Same z (axisTick h s) := by
  unfold axisTick
  repeat' first
    | lift_lets -underBinder
    | (intro x; refine Same.cut (s := z) (t := x) ?_ ?_; unfold x; clear x; rotate_left; intro _; clear_value x; rotate_right)
    | (intro x; clear_value x)
    | (with_reducible first
        | assumption | exact Same.refl _ | apply Same.ite | apply periodsPass_same | apply State.setAx_same
        | apply tread_same)
theorem axisTick_keeps {z s : State} (kz : Keeps z s) (h : Nat) :
    Keeps z (axisTick h s) :=
  (axisTick_same (.refl _) _).keeps.after kz

theorem acqEdgeTick_same {z s : State} (kz : Same z s) :
    Same z (acqEdgeTick s) := by
  unfold acqEdgeTick
  repeat' first
    | lift_lets -underBinder
    | (with_reducible first | assumption | exact Same.refl _ | apply Same.ite)
    | (with_reducible apply Same.base; with_reducible assumption)
theorem acqEdgeTick_keeps {z s : State} (kz : Keeps z s) :
    Keeps z (acqEdgeTick s) :=
  (acqEdgeTick_same (.refl _)).keeps.after kz

theorem tick_keeps {z s : State} (kz : Keeps z s) :
    Keeps z (tick s) := by
  unfold tick
  repeat' first
    | lift_lets -underBinder
    | (intro x; refine Keeps.cut (s := z) (t := x) ?_ ?_; unfold x; clear x; rotate_left; intro _; clear_value x; rotate_right)
    | (intro x; clear_value x)
    | (with_reducible first
        | assumption | exact Keeps.refl _ | apply Keeps.ite | apply landingsDue_keeps | apply behindStep_keeps
        | apply acqEdgeTick_keeps | apply tbTick_keeps
        | (apply State.each_keeps; intro _ z; rotate_left; rotate_right) | apply axisTick_keeps
        | apply xferWatch_keeps)
    | (with_reducible apply Keeps.base; with_reducible first
        | assumption | exact Keeps.refl _ | apply Keeps.ite | apply landingsDue_keeps | apply behindStep_keeps
        | apply acqEdgeTick_keeps | apply tbTick_keeps | apply axisTick_keeps | apply xferWatch_keeps)
    | split

end Sys2Proof.Machine
end

