-- ==== Sys2Proof/Tests/Slice0.lean ====
section
/-! SUPPORT. The author's own tests: for each obligation with hypotheses a state and operands that meet those of every
clause; a term that each check of WellFormed refuses; and a few steps worked by hand from the manual. -/
namespace Sys2Proof.Tests
open Sys2Proof Sys2Proof.Machine
set_option Elab.async false

/-- The device in service, right after READY: every other register as reset leaves it. -/
def ready : State := ({} : State).p F.BOOT_STAGE.STAGE 8

/-- A descriptor from its fields, given by (bit, length, value). -/
def dk (l : List (Nat × Nat × Nat)) : BitVec 512 := BitVec.ofNat 512 (pack l)

/-- Queue `q` executes the descriptor `d`. -/
def run_ (b : State) (q : Nat) (acted : Bool) (d : BitVec 512) : State := b.setQueue q { run := some ⟨5, 7, d, acted, 0, 0⟩ }

/-- Hall 31 runs segments: the members of its engine stand at the instruction `w` with context `c`. -/
def stairW (b : State) (w : Nat) (c : StairCtx) : State :=
  ((((b.p (F.STAIR_STAT.SEALED 31) 0xFFFF).p (F.UC_ENG.STATE 31) 1).p (F.UNIT_STATE.STATE 31) 0).wrMem (stairPort 31) (8 * c.pc) w 8).modEng 31
    (fun e => { e with run := true, xfaults := [], members := [{ i := 85, ctx := c, cond := 1, win := 3, n := 5, st := .gone }, { i := 90, ctx := c, cond := 0xF1234, win := 3, n := 5, st := .run }, { i := 95, ctx := c, cond := 1, win := 2, n := 7, st := .run }] })

/-- Alcove `i` of hall 31 is the only LIVE one. -/
def live1 (b : State) (i : Nat) (a : AlcX) : State :=
  (((((((b.p (F.ALC_STATE.STATE 31 i) alcLive).p (F.HALL_STAT.LIVE_BANK 31) (i / 32 + 1)).p (F.UNIT_STATE.STATE 31) 0).p (F.STAIR_STAT.SEALED 31) 0xFFFF).p F.JNL_STAT.REPLAY 0).p (F.CAL_HALL.SLICE 31) 0).p (F.UC_ENG.STATE 31) 1).setAlc 31 i a

/-- The replay `x` is under way. -/
def replayBy (b : State) (x : ReplayX) : State := { b with rpl := some x }

/-- Bytes of a number, lowest first. -/
def bytesOf : Nat → Nat → List Nat
  | 0, _ => []
  | n + 1, v => v % 256 :: bytesOf n (v / 256)

theorem leNat_bytesOf (n v : Nat) (r : List Nat) : leNat ((bytesOf n v ++ r).take n) = v % 256 ^ n := by
  induction n generalizing v with
  | zero => simp [bytesOf, leNat, Nat.mod_one]
  | succ n ih =>
    simp only [bytesOf, List.cons_append, List.take_succ_cons, leNat, ih]
    rw [Nat.pow_succ, Nat.mul_comm (256 ^ n) 256, Nat.mod_mul, Nat.mod_mod]

theorem bytesOf_length (n v : Nat) : (bytesOf n v).length = n := by
  induction n generalizing v with
  | zero => rfl
  | succ n ih => simp [bytesOf, ih]

theorem crcBit_lt (n c : Nat) (h : c < 2 ^ 32) : crcBit n c < 2 ^ 32 := by
  induction n generalizing c with
  | zero => exact h
  | succ n ih =>
    have hs : c >>> 1 < 2 ^ 32 := by rw [Nat.shiftRight_eq_div_pow]; omega
    unfold crcBit
    split
    · exact ih _ (Nat.xor_lt_two_pow hs (by decide))
    · exact ih _ hs

theorem crc32_lt (l : List Nat) : crc32 l < 2 ^ 32 := by
  have h : ∀ (l : List Nat) (c : Nat), c < 2 ^ 32 → l.foldl (fun c b => crcBit 8 (c ^^^ (b % 256))) c < 2 ^ 32 := by
    intro l
    induction l with
    | nil => exact fun c h => h
    | cons b l ih => exact fun c h => ih _ (crcBit_lt 8 _ (Nat.xor_lt_two_pow h (by omega)))
  exact Nat.xor_lt_two_pow (h l _ (by decide)) (by decide)

/-- The body of a calibration image, all zero, and images of a version, a device and a CRC (R495). -/
def calBody : List Nat := List.replicate 0x22F00 0
def imageOf (v u c : Nat) : List Nat :=
  bytesOf 4 v ++ (bytesOf 2 (ready.g F.ID.PART) ++ (bytesOf 2 0 ++ (bytesOf 8 u ++ (bytesOf 4 0 ++ (bytesOf 4 c ++
    (List.replicate 232 0 ++ calBody))))))

theorem imageOf_length (v u c : Nat) : (imageOf v u c).length = calImgLen := by
  simp only [imageOf, calBody, List.length_append, bytesOf_length, List.length_replicate, calImgLen]

/-- A field that follows `n` bytes. -/
theorem drop_past (l r : List Nat) (n k : Nat) (h : l.length = n) : (l ++ r).drop (n + k) = r.drop k := by
  subst h; rw [← List.drop_drop, List.drop_left]

theorem imageOf_version (v u c : Nat) : imgNat (imageOf v u c) 0 4 = v % 256 ^ 4 := leNat_bytesOf 4 v _
theorem imageOf_part (v u c : Nat) : imgNat (imageOf v u c) 4 2 = ready.g F.ID.PART := by
  have e : (imageOf v u c).drop 4 = _ := drop_past _ _ 4 0 (bytesOf_length 4 v)
  unfold imgNat
  rw [e, List.drop_zero, leNat_bytesOf]
  exact Nat.mod_eq_of_lt (BitVec.isLt _)
theorem imageOf_uid (v u c : Nat) : imgNat (imageOf v u c) 8 8 = u % 256 ^ 8 := by
  have e : (imageOf v u c).drop 8 = _ :=
    (drop_past _ _ 4 4 (bytesOf_length 4 v)).trans ((drop_past _ _ 2 2 (bytesOf_length 2 _)).trans
      (drop_past _ _ 2 0 (bytesOf_length 2 0)))
  unfold imgNat
  rw [e, List.drop_zero, leNat_bytesOf]
theorem imageOf_crcAt (v u c : Nat) : (imageOf v u c).drop 20 = bytesOf 4 c ++ (List.replicate 232 0 ++ calBody) :=
  (drop_past _ _ 4 16 (bytesOf_length 4 v)).trans ((drop_past _ _ 2 14 (bytesOf_length 2 _)).trans
    ((drop_past _ _ 2 12 (bytesOf_length 2 0)).trans ((drop_past _ _ 8 4 (bytesOf_length 8 _)).trans
      (drop_past _ _ 4 0 (bytesOf_length 4 0)))))
theorem imageOf_crc (v u c : Nat) : imgNat (imageOf v u c) 20 4 = c % 256 ^ 4 := by
  unfold imgNat
  rw [imageOf_crcAt, leNat_bytesOf]
theorem imageOf_body (v u c : Nat) : ((imageOf v u c).drop 0x100).take 0x22F00 = calBody := by
  have f : (imageOf v u c).drop 0x100 = calBody := by
    have : (imageOf v u c).drop (20 + 236) = ((imageOf v u c).drop 20).drop 236 := by rw [List.drop_drop]
    rw [show (0x100 : Nat) = 20 + 236 from rfl, this, imageOf_crcAt]
    exact (drop_past _ _ 4 232 (bytesOf_length 4 _)).trans (drop_past _ _ 232 0 List.length_replicate)
  rw [f, show calBody.take 0x22F00 = calBody from List.take_of_length_le (Nat.le_of_eq List.length_replicate)]
theorem uid_lt : Config.devUid.toNat < 256 ^ 8 := Config.devUid.isLt
theorem imageOf_uid_same (v c : Nat) : imgNat (imageOf v Config.devUid.toNat c) 8 8 = Config.devUid.toNat := by
  rw [imageOf_uid, Nat.mod_eq_of_lt uid_lt]
theorem imageOf_uid_other (v c : Nat) : imgNat (imageOf v (Config.devUid.toNat + 1) c) 8 8 ≠ Config.devUid.toNat := by
  rw [imageOf_uid]
  have := uid_lt
  omega
theorem imageOf_crc_right (v u : Nat) : imgNat (imageOf v u (crc32 calBody)) 20 4 =
    crc32 (((imageOf v u (crc32 calBody)).drop 0x100).take 0x22F00) := by
  rw [imageOf_crc, imageOf_body, Nat.mod_eq_of_lt (show crc32 calBody < 256 ^ 4 from crc32_lt _)]
theorem imageOf_crc_wrong (v u : Nat) : imgNat (imageOf v u (crc32 calBody + 1)) 20 4 ≠
    crc32 (((imageOf v u (crc32 calBody + 1)).drop 0x100).take 0x22F00) := by
  rw [imageOf_crc, imageOf_body]
  have := crc32_lt calBody
  omega

/-- States and operands that meet the hypotheses of AxisControl, clause by clause. -/
theorem test_meets_axis_control :
    (∃ (s : State) (h : Nat) (v : Word), Ready s ∧ h < s.part.halls ∧ (F.AXIS_CTL.EN h).is v = true ∧ (F.AXIS_CTL.SRC
      h).of v ≠ 3 ∧ s.anyLive h = false ∧ s.axSt h = axOff) ∧
    (∃ (s : State) (h : Nat) (v : Word), Ready s ∧ h < s.part.halls ∧ (F.AXIS_CTL.EN h).is v = false ∧ (F.AXIS_CTL.SRC
      h).of v ≠ 3 ∧ s.anyLive h = false ∧ s.axSt h ≠ axOff ∧ (∀ f ∈ [F.AXIS_CTL.SRC h, F.AXIS_CTL.EXT_SEL h,
      F.AXIS_CTL.EXT_EDGE h, F.AXIS_CTL.DUT_CH h, F.AXIS_CTL.PREDIV h], f.of v = s.g f)) ∧
    (∃ (s : State) (h : Nat), Ready s ∧ h < s.part.halls ∧ s.g (F.AXIS_CTL.SRC h) ≠ 3 ∧ s.anyLive h = false) ∧
    (∃ (s : State) (h : Nat) (v : Word), Ready s ∧ h < s.part.halls ∧ (F.AXIS_CTL.SRC h).of v ≠ 3 ∧ s.anyLive h = false ∧
      (∀ f ∈ [F.AXIS_CTL.SRC h, F.AXIS_CTL.EXT_SEL h, F.AXIS_CTL.EXT_EDGE h, F.AXIS_CTL.DUT_CH h, F.AXIS_CTL.PREDIV h],
      f.of v = s.g f)) ∧
    (∃ (s : State) (h : Nat) (v : Word), Ready s ∧ h < s.part.halls ∧ s.anyLive h = false ∧ (F.AXIS_CTL.SRC h).of v = 3) ∧
    (∃ (s : State) (h : Nat) (v : Word), Ready s ∧ h < s.part.halls ∧ s.anyLive h = true ∧ (F.AXIS_CTL.SRC h).of v ≠ 3 ∧
      (F.AXIS_CTL.EN h).of v ≠ s.g (F.AXIS_CTL.EN h)) ∧
    (∃ (s : State) (h : Nat) (v : Word), Ready s ∧ h < s.part.halls ∧ s.anyLive h = false ∧ (F.AXIS_CTL.SRC h).of v ≠ 3 ∧
      (F.AXIS_CTL.PREDIV h).of v ≠ s.g (F.AXIS_CTL.PREDIV h) ∧ s.axSt h ≠ axOff) :=
  ⟨
    ⟨ready.p (F.AXIS_STAT.STATE 0) 0, (0 : Nat), (0x80000001#32 : Word), by decide +kernel⟩,
    ⟨(ready.p (F.AXIS_STAT.STATE 0) 2).wr (R.AXIS_CTL 0) 0x80000000#32, (0 : Nat), (0x20300000#32 : Word),
      by decide +kernel⟩,
    ⟨(ready.p (F.AXIS_CTL.SRC 31) 1).setPos 31 77, (31 : Nat), by decide +kernel⟩,
    ⟨ready.wr (R.AXIS_CTL 0) 0x80000000#32, (0 : Nat), (0x40500000#32 : Word), by decide +kernel⟩,
    ⟨ready, (0 : Nat), (0x80000003#32 : Word), by decide +kernel⟩,
    ⟨(ready.p (F.ALC_STATE.STATE 0 95) 4).p (F.AXIS_CTL.EN 0) 0, (0 : Nat), (0x80000001#32 : Word), by decide +kernel⟩,
    ⟨(ready.p (F.AXIS_CTL.PREDIV 0) 7).p (F.AXIS_STAT.STATE 0) 1, (0 : Nat), (0x80000080#32 : Word), by decide +kernel⟩⟩

/-- States and operands that meet the hypotheses of AxisFollowLoop, clause by clause. -/
theorem test_meets_axis_follow_loop :
    (∃ (s : State) (h : Nat) (freq : Nat), h < s.part.halls ∧ s.axSt h = axAcquiring ∧ freq < 2 ^ 29 ∧ s.lockOk h freq =
      true) ∧
    (∃ (s : State) (h : Nat) (cause : Nat), h < s.part.halls ∧ s.axSt h = axLocked ∧ 1 ≤ cause ∧ cause ≤ 4 ∧ (cause = 4 →
      s.g (F.AXIS_CTL.SRC h) = 0)) ∧
    (∃ (s : State) (h : Nat) (freq : Nat), h < s.part.halls ∧ s.axSt h = axHoldover ∧ freq < 2 ^ 29 ∧ s.lockOk h freq =
      true) ∧
    (∃ (s : State) (h : Nat), h < s.part.halls ∧ s.axRuns h = true ∧ s.pos h = 2 ^ 48 - 1 ∧ (s.ax h).zeroNext = false) :=
  ⟨
    ⟨(((((ready.p (F.AXIS_STAT.STATE 0) 1).p (F.AXIS_STAT.SLOT 0) 7).p (F.RATIO_M.M 0 7) 1).p (F.RATIO_N.N 0 7) 1).p
      (F.AXIS_CTL.PREDIV 0) 0).p (F.AXIS_CTL.SRC 0) 1, (0 : Nat), (100000000 : Nat), by decide +kernel⟩,
    ⟨(ready.p (F.AXIS_STAT.STATE 31) 2).p (F.AXIS_CTL.SRC 31) 0, (31 : Nat), (4 : Nat), by decide +kernel⟩,
    ⟨((((((ready.p (F.AXIS_STAT.STATE 0) 3).p (F.AXIS_STAT.SLOT 0) 7).p (F.RATIO_M.M 0 7) 1).p (F.RATIO_N.N 0 7) 1).p
      (F.AXIS_CTL.PREDIV 0) 0).p (F.AXIS_CTL.SRC 0) 1).setAx 0 { lockFreq := 100000000 }, (0 : Nat), (112500000 : Nat),
      by decide +kernel⟩,
    ⟨(ready.p (F.AXIS_STAT.STATE 0) 3).setPos 0 (2 ^ 48 - 1), (0 : Nat), by decide +kernel⟩⟩

/-- States and operands that meet the hypotheses of AxisSettingsAndZero, clause by clause. -/
theorem test_meets_axis_settings_and_zero :
    (∃ (s : State) (h : Nat) (k : Nat) (v : Word), Ready s ∧ h < s.part.halls ∧ k < 8 ∧ fieldGet 0 24 v ≠ 0 ∧ (s.g
      (F.AXIS_STAT.SLOT h) ≠ k ∨ s.axRuns h = false)) ∧
    (∃ (s : State) (h : Nat) (k : Nat) (v : Word), Ready s ∧ h < s.part.halls ∧ k < 8 ∧ fieldGet 0 24 v = 0 ∧ (s.g
      (F.AXIS_STAT.SLOT h) ≠ k ∨ s.axRuns h = false)) ∧
    (∃ (s : State) (h : Nat) (k : Nat) (isN : Bool) (v : Word), Ready s ∧ h < s.part.halls ∧ k < 8 ∧ fieldGet 0 24 v ≠ 0 ∧
      s.g (F.AXIS_STAT.SLOT h) = k ∧ s.axRuns h = true ∧ s.anyLive h = false ∧ sampleRateOk (s.ax h).rate (s.prediv h) (if
      isN then s.g (F.RATIO_M.M h k) else fieldGet 0 24 v) (if isN then fieldGet 0 24 v else s.g (F.RATIO_N.N h k)) =
      true) ∧
    (∃ (s : State) (h : Nat) (k : Nat) (isN : Bool) (v : Word), Ready s ∧ h < s.part.halls ∧ k < 8 ∧ fieldGet 0 24 v ≠ 0 ∧
      s.g (F.AXIS_STAT.SLOT h) = k ∧ s.axRuns h = true ∧ s.anyLive h = false ∧ sampleRateOk (s.ax h).rate (s.prediv h) (if
      isN then s.g (F.RATIO_M.M h k) else fieldGet 0 24 v) (if isN then fieldGet 0 24 v else s.g (F.RATIO_N.N h k)) =
      false) ∧
    (∃ (s : State) (h : Nat) (k : Nat) (v : Word), Ready s ∧ h < s.part.halls ∧ k < 8 ∧ fieldGet 0 24 v ≠ 0 ∧ s.g
      (F.AXIS_STAT.SLOT h) = k ∧ s.axRuns h = true ∧ s.anyLive h = true) ∧
    (∃ (s : State) (h : Nat) (st : SynStage), h < s.part.halls ∧ (s.ax h).stage = some st ∧ st.tread = true ∧ st.deferred
      = false ∧ st.at_ ≤ s.pos h ∧ (∀ k, st.slot = some k → k < 8 ∧ s.slotOk h k = true) ∧ s.playing h = false ∧
      s.replaying = false) ∧
    (∃ (s : State) (h : Nat) (k : Nat) (st : SynStage), h < s.part.halls ∧ (s.ax h).stage = some st ∧ st.tread = true ∧
      st.deferred = false ∧ st.at_ ≤ s.pos h ∧ st.slot = some k ∧ s.slotOk h k = false ∧ s.playing h = false ∧ s.replaying
      = false) ∧
    (∃ (s : State) (h : Nat) (st : SynStage), h < s.part.halls ∧ (s.ax h).stage = some st ∧ st.tread = true ∧ st.deferred
      = false ∧ st.at_ ≤ s.pos h ∧ s.playing h = true) ∧
    (∃ (s : State) (h : Nat) (n : Nat) (c : Nat) (v : Word), Ready s ∧ h < s.part.halls ∧ n < 64 ∧ c < 32 ∧ s.tsetLive h n
      = false ∧ drvWordOk h n c v = true) ∧
    (∃ (s : State) (h : Nat) (n : Nat) (c : Nat) (v : Word), Ready s ∧ h < s.part.halls ∧ n < 64 ∧ c < 32 ∧ s.tsetLive h n
      = false ∧ cmpWordOk h n c v = true) ∧
    (∃ (s : State) (h : Nat) (n : Nat), Ready s ∧ h < s.part.halls ∧ n < 64 ∧ s.tsetLive h n = false) ∧
    (∃ (s : State) (h : Nat) (n : Nat) (w : TsWord) (v : Word), Ready s ∧ h < s.part.halls ∧ n < 64 ∧ tsWordOk w = true ∧
      s.tsetLive h n = false ∧ tsWordValid h n w v = false) ∧
    (∃ (s : State) (h : Nat) (n : Nat) (w : TsWord) (v : Word), Ready s ∧ h < s.part.halls ∧ n < 64 ∧ tsWordOk w = true ∧
      s.tsetLive h n = true ∧ tsWordValid h n w v = true) ∧
    (∃ (s : State), Ready s) ∧
    (∃ (s : State), s.is F.AXZ_CTL.ARMED = true) ∧
    (∃ (s : State), s.is F.AXZ_CTL.ARMED = false) ∧
    (∃ (s : State) (h : Nat), s.axzPend = true ∧ h < s.part.halls ∧ s.g (F.AXIS_CTL.SRC h) = 0 ∧ s.is (F.AXIS_CTL.AXZ_EN
      h) = true ∧ s.axSt h = axLocked ∧ s.anyLive h = false) ∧
    (∃ (s : State) (h : Nat), s.axzPend = true ∧ h < s.part.halls ∧ s.g (F.AXIS_CTL.SRC h) = 0 ∧ s.is (F.AXIS_CTL.AXZ_EN
      h) = true ∧ (s.axSt h ≠ axLocked ∨ s.anyLive h = true)) :=
  ⟨
    ⟨ready.p (F.AXIS_STAT.SLOT 0) 2, (0 : Nat), (7 : Nat), (0xFF000001#32 : Word), by decide +kernel⟩,
    ⟨ready.p (F.AXIS_STAT.SLOT 0) 2, (0 : Nat), (0 : Nat), (0xFF000000#32 : Word), by decide +kernel⟩,
    ⟨(((ready.p (F.AXIS_STAT.SLOT 0) 2).p (F.AXIS_STAT.STATE 0) 2).p (F.AXIS_CTL.PREDIV 0) 0).p (F.RATIO_N.N 0 2) 1
      |>.setAx 0 { rate := 10000000 }, (0 : Nat), (2 : Nat), (false : Bool), (125#32 : Word), by decide +kernel⟩,
    ⟨(((ready.p (F.AXIS_STAT.SLOT 0) 2).p (F.AXIS_STAT.STATE 0) 2).p (F.AXIS_CTL.PREDIV 0) 0).p (F.RATIO_N.N 0 2) 1
      |>.setAx 0 { rate := 10000000 }, (0 : Nat), (2 : Nat), (false : Bool), (126#32 : Word), by decide +kernel⟩,
    ⟨((ready.p (F.ALC_STATE.STATE 0 95) 4).p (F.AXIS_STAT.SLOT 0) 2).p (F.AXIS_STAT.STATE 0) 3, (0 : Nat), (2 : Nat),
      (126#32 : Word), by decide +kernel⟩,
    ⟨(((ready.p (F.FLT_STAT.PLAYING 0) 0).p F.JNL_STAT.REPLAY 0).setPos 0 5).p (F.AXIS_STAT.STATE 0) 0 |>.setAx 0
      { stage := some ⟨true, some 3, some (-7), 5, false, false⟩, phaseRem := 9 }, (0 : Nat), (⟨true, some 3, some (-7),
      5, false, false⟩ : SynStage), by decide +kernel⟩,
    ⟨(((ready.p (F.FLT_STAT.PLAYING 0) 0).p F.JNL_STAT.REPLAY 0).setPos 0 5).p (F.AXIS_STAT.STATE 0) 2 |>.p (F.RATIO_N.N 0
      3) 1 |>.setAx 0 { stage := some ⟨true, some 3, some (-7), 5, false, false⟩, phaseRem := 9, rate := 0 }, (0 : Nat),
      (3 : Nat), (⟨true, some 3, some (-7), 5, false, false⟩ : SynStage), by decide +kernel⟩,
    ⟨((ready.p (F.FLT_STAT.PLAYING 0) 1).setPos 0 5).setAx 0
      { stage := some ⟨true, some 3, some (-7), 5, false, false⟩ }, (0 : Nat), (⟨true, some 3, some (-7), 5, false, false⟩
      : SynStage), by decide +kernel⟩,
    ⟨ready, (0 : Nat), (63 : Nat), (31 : Nat), (0x10010002#32 : Word), by decide +kernel⟩,
    ⟨ready, (0 : Nat), (63 : Nat), (31 : Nat), (0x00010002#32 : Word), by decide +kernel⟩,
    ⟨ready, (0 : Nat), (63 : Nat), by decide +kernel⟩,
    ⟨ready, (0 : Nat), (63 : Nat), (.drv 31 : TsWord), (0x10020002#32 : Word), by decide +kernel⟩,
    ⟨(ready.p (F.ALC_STATE.STATE 0 0) 4).p (F.ALC_STATE.TS 0 0) 5, (0 : Nat), (5 : Nat), (.hdr : TsWord), (0#32 : Word),
      by decide +kernel⟩,
    ⟨ready, by decide +kernel⟩,
    ⟨ready.p F.AXZ_CTL.ARMED 1, by decide +kernel⟩,
    ⟨ready.p F.AXZ_CTL.ARMED 0, by decide +kernel⟩,
    ⟨{ ((ready.p (F.AXIS_CTL.SRC 3) 0).p (F.AXIS_CTL.AXZ_EN 3) 1).p (F.AXIS_STAT.STATE 3) 2 with axzPend := true }, (3 :
      Nat), by decide +kernel⟩,
    ⟨{ ((ready.p (F.AXIS_CTL.SRC 3) 0).p (F.AXIS_CTL.AXZ_EN 3) 1).p (F.AXIS_STAT.STATE 3) 3 with axzPend := true }, (3 :
      Nat), by decide +kernel⟩⟩

/-- States and operands that meet the hypotheses of FlightLoading, clause by clause. -/
theorem test_meets_flight_loading :
    (∃ (s : State) (q : Nat) (r : DescRun), Executes s q 2 false r ∧ dUnit r.desc < s.part.halls ∧ r.owns (dUnit r.desc) =
      true ∧ dscBits r.desc 22 0 2 = 0 ∧ loadFlightRsv r.desc 0 = true ∧ 4 ≤ (flightOf r.desc).len ∧ (flightOf
      r.desc).start + (flightOf r.desc).len ≤ s.part.granules ∧ ((flightOf r.desc).pinnable = true → (flightOf r.desc).len
      ≤ 1024) ∧ dAddr r.desc % 16 = 0 ∧ dLen r.desc = (flightOf r.desc).len * 1024 ∧ (s.flt_ (dUnit r.desc) (dscBits
      r.desc 20 0 12)).st = 0 ∧ s.conflict (dUnit r.desc) (dscBits r.desc 20 0 12) (flightOf r.desc).start (flightOf
      r.desc).len = none) ∧
    (∃ (s : State) (q : Nat) (r : DescRun), Executes s q 2 false r ∧ dUnit r.desc < s.part.halls ∧ r.owns (dUnit r.desc) =
      true ∧ dscBits r.desc 22 0 2 = 1 ∧ loadFlightRsv r.desc 1 = true ∧ 4 ≤ (flightOf r.desc).len ∧ (flightOf
      r.desc).start + (flightOf r.desc).len ≤ s.part.granules ∧ ((flightOf r.desc).pinnable = true → (flightOf r.desc).len
      ≤ 1024) ∧ dLen r.desc = 0 ∧ (s.flt_ (dUnit r.desc) (dscBits r.desc 20 0 12)).st = 0 ∧ s.conflict (dUnit r.desc)
      (dscBits r.desc 20 0 12) (flightOf r.desc).start (flightOf r.desc).len = none) ∧
    (∃ (s : State) (q : Nat) (r : DescRun), Executes s q 2 false r ∧ dUnit r.desc < s.part.halls ∧ r.owns (dUnit r.desc) =
      true ∧ dscBits r.desc 22 0 2 = 3 ∧ loadFlightRsv r.desc 3 = true ∧ (s.flt_ (dUnit r.desc) (dscBits r.desc 20 0
      12)).st = 2) ∧
    (∃ (s : State) (q : Nat) (r : DescRun), Executes s q 2 false r ∧ dUnit r.desc < s.part.halls ∧ r.owns (dUnit r.desc) =
      true ∧ dscBits r.desc 22 0 2 = 2 ∧ loadFlightRsv r.desc 2 = true ∧ (s.flt_ (dUnit r.desc) (dscBits r.desc 20 0
      12)).st = 1 ∧ (s.flt_ (dUnit r.desc) (dscBits r.desc 20 0 12)).opened = true ∧ (s.flt_ (dUnit r.desc) (dscBits
      r.desc 20 0 12)).dma = none ∧ s.refs (dUnit r.desc) (dscBits r.desc 20 0 12) = 0) ∧
    (∃ (s : State) (q : Nat) (r : DescRun), Executes s q 2 false r ∧ dUnit r.desc < 32 ∧ s.part.halls ≤ dUnit r.desc) ∧
    (∃ (s : State) (h : Nat) (f : Nat) (q : Nat) (did : Nat) (data : List Nat) (r : DescRun), (s.flt_ h f).dma = some did
      ∧ (s.flt_ h f).st = 1 ∧ data.length = (s.flt_ h f).len * 1024 ∧ s.refs h f = 0 ∧ s.queueOf did = some q ∧ (s.queue
      q).run = some r) ∧
    (∃ (s : State) (h : Nat) (f : Nat) (q : Nat) (did : Nat) (r : DescRun), (s.flt_ h f).dma = some did ∧ s.queueOf did =
      some q ∧ (s.queue q).run = some r) ∧
    (∃ (s : State) (h : Nat), Ready s ∧ h < s.part.halls) :=
  ⟨
    ⟨run_ ready 63 false (dk [(0, 16, 2), (24, 8, 3), (32, 32, 0xABCD), (64, 64, 32), (128, 32, 4096), (160, 12, 9), (176,
      2, 0), (192, 18, 8), (224, 19, 4)]), (63 : Nat), (⟨5, 7, dk [(0, 16, 2), (24, 8, 3), (32, 32, 0xABCD), (64, 64, 32),
      (128, 32, 4096), (160, 12, 9), (176, 2, 0), (192, 18, 8), (224, 19, 4)], false, 0, 0⟩ : DescRun), by decide +kernel⟩,
    ⟨run_ ready 0 false (dk [(0, 16, 2), (24, 8, 0), (32, 32, 0xABCD), (64, 64, 0), (128, 32, 0), (160, 12, 9), (176, 2,
      1), (192, 18, 8), (224, 19, 4)]), (0 : Nat), (⟨5, 7, dk [(0, 16, 2), (24, 8, 0), (32, 32, 0xABCD), (64, 64, 0),
      (128, 32, 0), (160, 12, 9), (176, 2, 1), (192, 18, 8), (224, 19, 4)], false, 0, 0⟩ : DescRun), by decide +kernel⟩,
    ⟨run_ (ready.setFlt 0 9 { st := 2 }) 0 false (dk [(0, 16, 2), (24, 8, 0), (32, 32, 0xABCD), (64, 64, 0), (128, 32, 0),
      (160, 12, 9), (176, 2, 3), (192, 18, 8), (224, 19, 4)]), (0 : Nat), (⟨5, 7, dk [(0, 16, 2), (24, 8, 0), (32, 32,
      0xABCD), (64, 64, 0), (128, 32, 0), (160, 12, 9), (176, 2, 3), (192, 18, 8), (224, 19, 4)], false, 0, 0⟩ : DescRun),
      by decide +kernel⟩,
    ⟨run_ (ready.setFlt 0 9 { st := 1, start := 8, len := 4, opened := true }) 0 false (dk [(0, 16, 2), (24, 8, 0), (32,
      32, 0xABCD), (64, 64, 0), (128, 32, 0), (160, 12, 9), (176, 2, 2), (192, 18, 8), (224, 19, 4)]), (0 : Nat), (⟨5, 7,
      dk [(0, 16, 2), (24, 8, 0), (32, 32, 0xABCD), (64, 64, 0), (128, 32, 0), (160, 12, 9), (176, 2, 2), (192, 18, 8),
      (224, 19, 4)], false, 0, 0⟩ : DescRun), by decide +kernel⟩,
    ⟨run_ { ready with part := .s } 0 false (dk [(0, 16, 2), (24, 8, 31), (32, 32, 0xABCD), (64, 64, 0), (128, 32, 0),
      (160, 12, 9), (176, 2, 3), (192, 18, 8), (224, 19, 4)]), (0 : Nat), (⟨5, 7, dk [(0, 16, 2), (24, 8, 31), (32, 32,
      0xABCD), (64, 64, 0), (128, 32, 0), (160, 12, 9), (176, 2, 3), (192, 18, 8), (224, 19, 4)], false, 0, 0⟩ : DescRun),
      by decide +kernel⟩,
    ⟨(run_ ready 4 true (dk [])).setFlt 2 4095 { st := 1, start := 4, len := 4, dma := some 5 }, (2 : Nat), (4095 : Nat),
      (4 : Nat), (5 : Nat), (List.replicate 4096 37 : List Nat), (⟨5, 7, dk [], true, 0, 0⟩ : DescRun), by decide +kernel⟩,
    ⟨(run_ ready 4 true (dk [])).setFlt 2 4095 { st := 1, start := 4, len := 4, dma := some 5 }, (2 : Nat), (4095 : Nat),
      (4 : Nat), (5 : Nat), (⟨5, 7, dk [], true, 0, 0⟩ : DescRun), by decide +kernel⟩,
    ⟨ready, (31 : Nat), by decide +kernel⟩⟩

/-- States and operands that meet the hypotheses of SmuControl, clause by clause. -/
theorem test_meets_smu_control :
    (∃ (s : State) (k : Nat), Ready s ∧ k < s.part.smus ∧ s.claimed (k / 4) = false ∧ s.g (F.SMU_CTL.SPAN k) < 6 ∧ s.is
      (F.SMU_STAT.SAFE k) = false ∧ s.is (F.SMU_STAT.TRIPPED k) = false) ∧
    (∃ (s : State) (k : Nat), Ready s ∧ k < s.part.smus ∧ (s.claimed (k / 4) = true ∨ s.g (F.SMU_CTL.SPAN k) < 6)) ∧
    (∃ (s : State) (k : Nat) (v : Word), Ready s ∧ k < s.part.smus ∧ s.claimed (k / 4) = false ∧ (F.SMU_CTL.SPAN k).of v <
      6) ∧
    (∃ (s : State) (k : Nat) (v : Word), Ready s ∧ k < s.part.smus ∧ s.claimed (k / 4) = false ∧ 6 ≤ (F.SMU_CTL.SPAN k).of
      v) ∧
    (∃ (s : State) (k : Nat) (v : Word), Ready s ∧ k < s.part.smus ∧ s.claimed (k / 4) = true ∧ (F.SMU_CTL.EN k).is v =
      false) ∧
    (∃ (s : State) (k : Nat) (v : Word), Ready s ∧ k < s.part.smus ∧ s.claimed (k / 4) = true ∧ (F.SMU_CTL.EN k).is v =
      true) ∧
    (∃ (s : State) (k : Nat), Ready s ∧ k < s.part.smus ∧ s.claimed (k / 4) = false) ∧
    (∃ (s : State) (k : Nat), Ready s ∧ k < s.part.smus ∧ s.claimed (k / 4) = false ∧ s.is (F.SMU_STAT.SAFE k) = false ∧
      (s.smu k).bridge = 0 ∧ (s.smu k).wait = none ∧ (s.smu k).use.bridges (s.smu k).want = false) ∧
    (∃ (s : State) (k : Nat), Ready s ∧ k < s.part.smus ∧ s.claimed (k / 4) = false) ∧
    (∃ (s : State) (k : Nat), Ready s ∧ k < s.part.smus ∧ s.claimed (k / 4) = false) ∧
    (∃ (s : State) (k : Nat), Ready s ∧ k < s.part.smus ∧ s.claimed (k / 4) = true) ∧
    (∃ (s : State) (g : Nat) (j : Nat), g < s.part.groups ∧ j < 4 ∧ s.is (F.SMU_STAT.SAFE (4 * g + j)) = false ∧ (s.smu (4
      * g + j)).bridge = 0 ∧ (s.smu (4 * g + j)).pend = true ∧ (s.smu (4 * g + j)).want.given = true ∧ (s.smu (4 * g +
      j)).acts = [] ∧ s.is (F.SMU_STAT.DDS_RUN (4 * g + j)) = false ∧ s.clrLow = false) ∧
    (∃ (s : State) (g : Nat) (j : Nat), g < s.part.groups ∧ j < 4 ∧ s.is (F.SMU_STAT.SAFE (4 * g + j)) = false ∧ (s.smu (4
      * g + j)).bridge = 1) ∧
    (∃ (s : State) (g : Nat) (j : Nat), g < s.part.groups ∧ j < 4 ∧ s.is (F.SMU_STAT.SAFE (4 * g + j)) = false ∧ (s.smu (4
      * g + j)).bridge = 2 ∧ (s.smu (4 * g + j)).want.given = true ∧ s.clrLow = false) ∧
    (∃ (s : State) (g : Nat) (j : Nat), g < s.part.groups ∧ j < 4 ∧ s.is (F.SMU_STAT.SAFE (4 * g + j)) = true) ∧
    (∃ (s : State) (k : Nat), k < s.part.smus ∧ (s.smu k).bridge = 3 ∧ (s.smu k).wait = none) ∧
    (∃ (s : State) (k : Nat) (w : SmuSet), k < s.part.smus ∧ s.is (F.SMU_STAT.SAFE k) = false ∧ (s.smu k).bridge = 3 ∧
      (s.smu k).wait = some w) :=
  ⟨
    ⟨(((ready.p (F.GRP_STAT.CLAIMED 15) 0).p (F.SMU_CTL.SPAN 63) 5).p (F.SMU_STAT.SAFE 63) 0).p (F.SMU_STAT.TRIPPED 63) 0,
      (63 : Nat), by decide +kernel⟩,
    ⟨(ready.p (F.GRP_STAT.CLAIMED 0) 1).p (F.SMU_CTL.EN 1) 1, (1 : Nat), by decide +kernel⟩,
    ⟨(ready.p (F.GRP_STAT.CLAIMED 15) 0), (63 : Nat), (0xC5400000#32 : Word), by decide +kernel⟩,
    ⟨(ready.p (F.GRP_STAT.CLAIMED 15) 0), (63 : Nat), (0xFFFFFFFF#32 : Word), by decide +kernel⟩,
    ⟨(ready.p (F.GRP_STAT.CLAIMED 0) 1).p (F.SMU_CTL.EN 0) 1, (0 : Nat), (0x40000000#32 : Word), by decide +kernel⟩,
    ⟨ready.p (F.GRP_STAT.CLAIMED 0) 1, (0 : Nat), (0x80000000#32 : Word), by decide +kernel⟩,
    ⟨(ready.p (F.GRP_STAT.CLAIMED 15) 0), (63 : Nat), by decide +kernel⟩,
    ⟨((ready.p (F.GRP_STAT.CLAIMED 15) 0).p (F.SMU_STAT.SAFE 63) 0), (63 : Nat), by decide +kernel⟩,
    ⟨(ready.p (F.GRP_STAT.CLAIMED 15) 0), (63 : Nat), by decide +kernel⟩,
    ⟨(ready.p (F.GRP_STAT.CLAIMED 15) 0), (63 : Nat), by decide +kernel⟩,
    ⟨ready.p (F.GRP_STAT.CLAIMED 0) 1, (3 : Nat), by decide +kernel⟩,
    ⟨(((ready.p (F.SMU_STAT.SAFE 63) 0).p (F.SMU_STAT.DDS_RUN 63) 0).p (F.PE_HALL_STAT.CLR_ACTIVE 0) 0).setSmu 63
      { pend := true, want := { code := 77, span := 3, given := true } }, (15 : Nat), (3 : Nat), by decide +kernel⟩,
    ⟨(ready.p (F.SMU_STAT.SAFE 63) 0).setSmu 63 { bridge := 1, want := { mode := 1, span := 3, irange := 2 } }, (15 :
      Nat), (3 : Nat), by decide +kernel⟩,
    ⟨((ready.p (F.SMU_STAT.SAFE 63) 0).p (F.PE_HALL_STAT.CLR_ACTIVE 0) 0).setSmu 63
      { bridge := 2, want := { mode := 1, code := 9, given := true } }, (15 : Nat), (3 : Nat), by decide +kernel⟩,
    ⟨((ready.p (F.SMU_STAT.SAFE 63) 1).p (F.SMU_CTL.SPAN 63) 3).setSmu 63 { acts := [true] }, (15 : Nat), (3 : Nat),
      by decide +kernel⟩,
    ⟨(ready.p (F.SMU_STAT.RANGE_BUSY 0) 1).setSmu 0 { bridge := 3 }, (0 : Nat), by decide +kernel⟩,
    ⟨((ready.p (F.SMU_STAT.SAFE 0) 0).p (F.SMU_STAT.RANGE_BUSY 0) 1).setSmu 0
      { bridge := 3, wait := some { code := 4 } }, (0 : Nat), ({ code := 4 } : SmuSet), by decide +kernel⟩⟩

/-- States and operands that meet the hypotheses of SmuClampsAndTrips, clause by clause. -/
theorem test_meets_smu_clamps_and_trips :
    (∃ (s : State) (k : Nat), k < s.part.smus ∧ s.is (F.SMU_CTL.EN k) = true ∧ s.is (F.SMU_STAT.SAFE k) = false ∧ s.is
      (F.SMU_STAT.COMPL k) = false) ∧
    (∃ (s : State) (k : Nat), k < s.part.smus) ∧
    (∃ (s : State) (k : Nat) (src : Nat), k < s.part.smus ∧ s.is (F.SMU_CTL.EN k) = true ∧ s.is (F.SMU_STAT.SAFE k) =
      false ∧ s.is (F.SMU_STAT.TRIPPED k) = false ∧ ((src = 0 ∧ s.is (F.SMU_CTL.TRIP_IN k) = true) ∨ (src = 1 ∧ s.is
      (F.SMU_CTL.TRIP_COMPL k) = true) ∨ src = 2)) ∧
    (∃ (s : State) (k : Nat), k < s.part.smus ∧ s.is (F.SMU_STAT.TRIPPED k) = true) ∧
    (∃ (s : State) (k : Nat), Ready s ∧ k < s.part.smus ∧ s.is (F.SMU_CTL.EN k) = true ∧ s.is (F.SMU_STAT.SAFE k) = false
      ∧ s.is (F.SMU_STAT.TRIPPED k) = true ∧ s.isFresh (F.SMU_STAT.TRIPPED k) = false ∧ s.smuCond k = none) ∧
    (∃ (s : State) (k : Nat) (src : Nat), Ready s ∧ k < s.part.smus ∧ s.is (F.SMU_CTL.EN k) = true ∧ s.is (F.SMU_STAT.SAFE
      k) = false ∧ s.is (F.SMU_STAT.TRIPPED k) = true ∧ s.isFresh (F.SMU_STAT.TRIPPED k) = false ∧ s.smuCond k = some src) ∧
    (∃ (s : State) (g : Nat) (j : Nat), g < s.part.groups ∧ j < 4 ∧ 2375 < s.g (F.GRP_PDISS.MW g) ∧ s.is (F.SMU_CTL.EN (4
      * g + j)) = true ∧ s.is (F.SMU_STAT.SAFE (4 * g + j)) = false ∧ s.is (F.SMU_STAT.TRIPPED (4 * g + j)) = false) :=
  ⟨
    ⟨((ready.p (F.SMU_CTL.EN 63) 1).p (F.SMU_STAT.SAFE 63) 0).p (F.SMU_STAT.COMPL 63) 0, (63 : Nat), by decide +kernel⟩,
    ⟨ready.p (F.SMU_STAT.COMPL 3) 1, (3 : Nat), by decide +kernel⟩,
    ⟨(((ready.p (F.SMU_CTL.EN 63) 1).p (F.SMU_STAT.SAFE 63) 0).p (F.SMU_STAT.TRIPPED 63) 0).p (F.SMU_CTL.TRIP_COMPL 63) 1,
      (63 : Nat), (1 : Nat), by decide +kernel⟩,
    ⟨(ready.p (F.SMU_STAT.TRIPPED 0) 1).setSmu 0 { closed := true }, (0 : Nat), by decide +kernel⟩,
    ⟨((((((ready.p (F.SMU_CTL.EN 63) 1).p (F.SMU_STAT.SAFE 63) 0).p (F.SMU_STAT.TRIPPED 63) 1).p (F.SMU_CTL.TRIP_IN 63)
      0).p (F.SMU_CTL.TRIP_COMPL 63) 0).p (F.GRP_PDISS.MW 15) 2375), (63 : Nat), by decide +kernel⟩,
    ⟨(((((ready.p (F.SMU_CTL.EN 63) 1).p (F.SMU_STAT.SAFE 63) 0).p (F.SMU_STAT.TRIPPED 63) 1).p (F.SMU_CTL.TRIP_IN 63)
      0).p (F.SMU_CTL.TRIP_COMPL 63) 1).p (F.SMU_STAT.COMPL 63) 1, (63 : Nat), (1 : Nat), by decide +kernel⟩,
    ⟨(((ready.p (F.SMU_CTL.EN 63) 1).p (F.SMU_STAT.SAFE 63) 0).p (F.SMU_STAT.TRIPPED 63) 0).p (F.GRP_PDISS.MW 15) 2376,
      (15 : Nat), (3 : Nat), by decide +kernel⟩⟩

/-- States and operands that meet the hypotheses of SmuMeasures, clause by clause. -/
theorem test_meets_smu_measures :
    (∃ (s : State) (g : Nat) (j : Nat) (r : MeasReq), g < s.part.groups ∧ (s.grp g).queue[j]? = some r ∧ s.delayOk g r =
      true) ∧
    (∃ (s : State) (g : Nat) (r : MeasReq) (l : List MeasReq), g < s.part.groups ∧ (s.grp g).queue = r :: l ∧ r.delayed =
      true ∧ r.n < 2 ^ s.g (F.MSET_CFG.NAVG g r.mset) ∧ (s.grp g).adcCh = some r.ch) ∧
    (∃ (s : State) (g : Nat) (r : MeasReq) (l : List MeasReq), g < s.part.groups ∧ (s.grp g).queue = r :: l ∧ r.delayed =
      true ∧ r.n < 2 ^ s.g (F.MSET_CFG.NAVG g r.mset) ∧ (s.grp g).adcCh ≠ some r.ch) ∧
    (∃ (s : State) (g : Nat) (r : MeasReq) (l : List MeasReq), g < s.part.groups ∧ (s.grp g).flight = r :: l ∧ s.fenced
      (32 + g) = false ∧ (s.grp g).queue.length < 32) ∧
    (∃ (s : State) (g : Nat) (r : MeasReq) (l : List MeasReq), g < s.part.groups ∧ (s.grp g).flight = r :: l ∧ (s.fenced
      (32 + g) = true ∨ 32 ≤ (s.grp g).queue.length)) ∧
    (∃ (s : State) (g : Nat) (r : MeasReq) (l : List MeasReq), g < s.part.groups ∧ (s.grp g).queue = r :: l ∧ r.n = 2 ^
      s.g (F.MSET_CFG.NAVG g r.mset) ∧ r.ch / 4 = g) ∧
    (∃ (s : State) (g : Nat) (m : Nat) (v : Word), Ready s ∧ g < s.part.groups ∧ m < 16 ∧ s.claimed g = false ∧ s.part.dds
      = true ∧ (F.MSET_CFG.DDS g m).of v ≠ 3) ∧
    (∃ (s : State) (g : Nat) (m : Nat), Ready s ∧ g < s.part.groups ∧ m < 16 ∧ s.claimed g = false) ∧
    (∃ (s : State) (g : Nat) (m : Nat) (w : Nat), Ready s ∧ g < s.part.groups ∧ m < 16 ∧ (w = 2 ∨ w = 3) ∧ s.claimed g =
      false) ∧
    (∃ (s : State) (g : Nat) (m : Nat) (w : Nat), Ready s ∧ g < s.part.groups ∧ m < 16 ∧ w < 4 ∧ s.claimed g = true) :=
  ⟨
    ⟨(ready.p (F.MSET_CFG.APPLY 15 5) 0).setGrp 15
      { queue := [{ hall := 0, alc := 1, bank := 0, ch := 60, mset := 5, applied := false, delayed := false, n := 0, sum
                      := 0 }] }, (15 : Nat), (0 : Nat),
      ({ hall := 0, alc := 1, bank := 0, ch := 60, mset := 5, applied := false, delayed := false, n := 0, sum := 0 } :
      MeasReq), by decide +kernel⟩,
    ⟨(ready.p (F.MSET_CFG.NAVG 15 5) 1).setGrp 15
      { queue := [{ hall := 0, alc := 1, bank := 0, ch := 60, mset := 5, applied := true, delayed := true, n := 1, sum :=
                      9 }], adcCh := some 60 }, (15 : Nat),
      ({ hall := 0, alc := 1, bank := 0, ch := 60, mset := 5, applied := true, delayed := true, n := 1, sum := 9 } :
      MeasReq), ([] : List MeasReq), by decide +kernel⟩,
    ⟨(ready.p (F.MSET_CFG.NAVG 15 5) 1).setGrp 15
      { queue := [{ hall := 0, alc := 1, bank := 0, ch := 60, mset := 5, applied := true, delayed := true, n := 1, sum :=
                      9 }], adcCh := some 61 }, (15 : Nat),
      ({ hall := 0, alc := 1, bank := 0, ch := 60, mset := 5, applied := true, delayed := true, n := 1, sum := 9 } :
      MeasReq), ([] : List MeasReq), by decide +kernel⟩,
    ⟨(ready.p (F.UNIT_STATE.STATE 47) 0).setGrp 15
      { flight := [{ hall := 0, alc := 1, bank := 0, ch := 60, mset := 5, applied := false, delayed := false, n := 0, sum
                       := 0 }] }, (15 : Nat),
      ({ hall := 0, alc := 1, bank := 0, ch := 60, mset := 5, applied := false, delayed := false, n := 0, sum := 0 } :
      MeasReq), ([] : List MeasReq), by decide +kernel⟩,
    ⟨(ready.p (F.UNIT_STATE.STATE 47) 1).setGrp 15
      { flight := [{ hall := 0, alc := 1, bank := 0, ch := 60, mset := 5, applied := false, delayed := false, n := 0, sum
                       := 0 }] }, (15 : Nat),
      ({ hall := 0, alc := 1, bank := 0, ch := 60, mset := 5, applied := false, delayed := false, n := 0, sum := 0 } :
      MeasReq), ([] : List MeasReq), by decide +kernel⟩,
    ⟨(ready.p (F.MSET_CFG.NAVG 15 5) 1).setGrp 15
      { queue := [{ hall := 0, alc := 1, bank := 0, ch := 60, mset := 5, applied := true, delayed := true, n := 2, sum :=
                      -9 }] }, (15 : Nat),
      ({ hall := 0, alc := 1, bank := 0, ch := 60, mset := 5, applied := true, delayed := true, n := 2, sum := -9 } :
      MeasReq), ([] : List MeasReq), by decide +kernel⟩,
    ⟨ready.p (F.GRP_STAT.CLAIMED 15) 0, (15 : Nat), (15 : Nat), (0xFF7FFFFF#32 : Word), by decide +kernel⟩,
    ⟨ready.p (F.GRP_STAT.CLAIMED 15) 0, (15 : Nat), (15 : Nat), by decide +kernel⟩,
    ⟨ready.p (F.GRP_STAT.CLAIMED 15) 0, (15 : Nat), (15 : Nat), (3 : Nat), by decide +kernel⟩,
    ⟨ready.p (F.GRP_STAT.CLAIMED 0) 1, (0 : Nat), (0 : Nat), (3 : Nat), by decide +kernel⟩⟩

/-- States and operands that meet the hypotheses of SineSynthesis, clause by clause. -/
theorem test_meets_sine_synthesis :
    (∃ (s : State) (g : Nat) (j : Nat) (mask : Nat), Ready s ∧ s.ddsOk g = true ∧ j < 4 ∧ mask < 16 ∧ natBits mask j 1 = 1
      ∧ s.claimed g = false) ∧
    (∃ (s : State) (g : Nat) (j : Nat) (mask : Nat), Ready s ∧ s.ddsOk g = true ∧ j < 4 ∧ mask < 16 ∧ natBits mask j 1 = 1
      ∧ s.claimed g = true) ∧
    (∃ (s : State) (g : Nat) (j : Nat) (mask : Nat), Ready s ∧ s.ddsOk g = true ∧ j < 4 ∧ mask < 16 ∧ natBits mask j 1 =
      1) ∧
    (∃ (s : State) (k : Nat) (v : Word), Ready s ∧ k < s.part.smus ∧ s.part.dds = true ∧ s.claimed (k / 4) = false ∧
      v.toNat ≤ 214748364) ∧
    (∃ (s : State) (k : Nat) (v : Word), Ready s ∧ k < s.part.smus ∧ s.part.dds = true ∧ s.claimed (k / 4) = false ∧
      214748364 < v.toNat) ∧
    (∃ (s : State) (k : Nat), Ready s ∧ k < s.part.smus ∧ s.part.dds = true ∧ s.claimed (k / 4) = true) ∧
    (∃ (s : State) (k : Nat), Ready s ∧ k < s.part.smus ∧ s.part.dds = true ∧ s.claimed (k / 4) = false) ∧
    (∃ (s : State) (k : Nat), Ready s ∧ k < s.part.smus ∧ s.part.dds = true ∧ s.claimed (k / 4) = false ∧ s.is
      (F.SMU_STAT.DDS_RUN k) = true) ∧
    (∃ (s : State) (k : Nat), Ready s ∧ k < s.part.smus ∧ s.part.dds = true ∧ s.claimed (k / 4) = true) :=
  ⟨
    ⟨(ready.p (F.GRP_STAT.CLAIMED 15) 0), (15 : Nat), (3 : Nat), (8 : Nat), by decide +kernel⟩,
    ⟨(ready.p (F.GRP_STAT.CLAIMED 15) 1), (15 : Nat), (3 : Nat), (15 : Nat), by decide +kernel⟩,
    ⟨(ready.p (F.GRP_STAT.CLAIMED 15) 1), (15 : Nat), (0 : Nat), (1 : Nat), by decide +kernel⟩,
    ⟨(ready.p (F.GRP_STAT.CLAIMED 15) 0), (63 : Nat), (214748364#32 : Word), by decide +kernel⟩,
    ⟨(ready.p (F.GRP_STAT.CLAIMED 15) 0), (63 : Nat), (214748365#32 : Word), by decide +kernel⟩,
    ⟨ready.p (F.GRP_STAT.CLAIMED 15) 1, (63 : Nat), by decide +kernel⟩,
    ⟨(ready.p (F.GRP_STAT.CLAIMED 15) 0), (63 : Nat), by decide +kernel⟩,
    ⟨(ready.p (F.GRP_STAT.CLAIMED 15) 0).p (F.SMU_STAT.DDS_RUN 63) 1, (63 : Nat), by decide +kernel⟩,
    ⟨ready.p (F.GRP_STAT.CLAIMED 15) 1, (63 : Nat), by decide +kernel⟩⟩

/-- States and operands that meet the hypotheses of PinsAndLevels, clause by clause. -/
theorem test_meets_pins_and_levels :
    (∃ (s : State) (h : Nat) (c : Nat), Ready s ∧ h < s.part.halls ∧ c < 32 ∧ s.g (F.PE_CTL.OFF_MODE h c) ≠ 3 ∧ s.is
      (F.PE_STAT.SAFE h c) = false ∧ s.is (F.PE_CTL.EN h c) = false) ∧
    (∃ (s : State) (h : Nat) (c : Nat), Ready s ∧ h < s.part.halls ∧ c < 32 ∧ s.g (F.PE_CTL.OFF_MODE h c) ≠ 3 ∧ s.is
      (F.PE_STAT.SAFE h c) = true ∧ s.is (F.PE_CTL.EN h c) = false ∧ s.fenced h = false ∧ s.dryRun = false) ∧
    (∃ (s : State) (h : Nat) (c : Nat), Ready s ∧ h < s.part.halls ∧ c < 32 ∧ s.g (F.PE_CTL.OFF_MODE h c) ≠ 3 ∧ s.is
      (F.PE_STAT.SAFE h c) = true ∧ s.is (F.PE_CTL.EN h c) = false ∧ (s.fenced h = true ∨ s.dryRun = true) ∧ s.is
      (F.PE_STAT.EN_EFF h c) = false) ∧
    (∃ (s : State) (h : Nat) (c : Nat), Ready s ∧ h < s.part.halls ∧ c < 32 ∧ s.g (F.PE_CTL.OFF_MODE h c) ≠ 3 ∧ s.is
      (F.PE_CTL.EN h c) = true) ∧
    (∃ (s : State) (h : Nat) (c : Nat) (arch : Bool), Ready s ∧ h < s.part.halls ∧ c < 32 ∧ s.g (F.PE_CTL.OFF_MODE h c) ≠
      3 ∧ (s.hallRun h = false ∨ s.is (F.PE_CTL.DAC_ARCH h c) = arch)) ∧
    (∃ (s : State) (h : Nat) (c : Nat) (arch : Bool), Ready s ∧ h < s.part.halls ∧ c < 32 ∧ s.g (F.PE_CTL.OFF_MODE h c) ≠
      3 ∧ s.hallRun h = true ∧ s.is (F.PE_CTL.DAC_ARCH h c) ≠ arch) ∧
    (∃ (s : State) (h : Nat) (c : Nat), h < s.part.halls ∧ c < 32 ∧ s.clrLow = false ∧ ((s.ch h c).pend = true ∨ ((s.peh
      h).reapply = true ∧ s.liveBank h = none)) ∧ s.is (F.PE_STAT.SAFE h c) = false ∧ (s.ch h c).bridge = 0 ∧ s.lvlBridges
      h c = false) ∧
    (∃ (s : State) (h : Nat) (c : Nat), h < s.part.halls ∧ c < 32 ∧ s.clrLow = false ∧ ((s.ch h c).pend = true ∨ ((s.peh
      h).reapply = true ∧ s.liveBank h = none)) ∧ s.is (F.PE_STAT.SAFE h c) = false ∧ (s.ch h c).bridge = 0 ∧ s.lvlBridges
      h c = true) ∧
    (∃ (s : State) (h : Nat) (c : Nat), h < s.part.halls ∧ c < 32 ∧ (s.ch h c).bridge = 1) ∧
    (∃ (s : State) (h : Nat) (c : Nat), h < s.part.halls ∧ c < 32 ∧ (s.ch h c).bridge = 2) ∧
    (∃ (s : State) (h : Nat) (c : Nat), h < s.part.halls ∧ c < 32 ∧ (s.ch h c).bridge = 3 ∧ (s.ch h c).wait = none ∧
      s.lvlBridges h c = false) ∧
    (∃ (s : State) (h : Nat) (c : Nat) (r : BitVec 128), h < s.part.halls ∧ c < 32 ∧ (s.ch h c).bridge = 3 ∧ (s.ch h
      c).wait = some r ∧ lvlVRange r = s.g (F.LVL_TERM.VRANGE h c) ∧ lvlIRange r = s.g (F.LVL_TERM.IRANGE h c) ∧ (s.ch h
      c).arch = s.g (F.PE_CTL.DAC_ARCH h c)) ∧
    (∃ (s : State) (h : Nat) (c : Nat) (r : BitVec 128), h < s.part.halls ∧ c < 32 ∧ (s.ch h c).bridge = 3 ∧ (s.ch h
      c).wait = some r ∧ lvlVRange r ≠ s.g (F.LVL_TERM.VRANGE h c)) :=
  ⟨
    ⟨((ready.p (F.PE_CTL.OFF_MODE 31 31) 2).p (F.PE_STAT.SAFE 31 31) 0).p (F.PE_CTL.EN 31 31) 0, (31 : Nat), (31 : Nat),
      by decide +kernel⟩,
    ⟨((((ready.p (F.PE_CTL.OFF_MODE 31 31) 2).p (F.PE_STAT.SAFE 31 31) 1).p (F.PE_CTL.EN 31 31) 0).p (F.UNIT_STATE.STATE
      31) 0).p F.JNL_STAT.REPLAY 0, (31 : Nat), (31 : Nat), by decide +kernel⟩,
    ⟨((((ready.p (F.PE_CTL.OFF_MODE 31 31) 2).p (F.PE_STAT.SAFE 31 31) 1).p (F.PE_CTL.EN 31 31) 0).p (F.UNIT_STATE.STATE
      31) 1).p (F.PE_STAT.EN_EFF 31 31) 0, (31 : Nat), (31 : Nat), by decide +kernel⟩,
    ⟨(ready.p (F.PE_CTL.OFF_MODE 31 31) 2).p (F.PE_CTL.EN 31 31) 1, (31 : Nat), (31 : Nat), by decide +kernel⟩,
    ⟨ready.p (F.PE_CTL.OFF_MODE 31 31) 0, (31 : Nat), (31 : Nat), (true : Bool), by decide +kernel⟩,
    ⟨((ready.p (F.ALC_STATE.STATE 31 95) 3).p (F.PE_CTL.OFF_MODE 31 31) 0).p (F.PE_CTL.DAC_ARCH 31 31) 0, (31 : Nat), (31
      : Nat), (true : Bool), by decide +kernel⟩,
    ⟨(((((ready.p (F.PE_HALL_STAT.CLR_ACTIVE 0) 0).p (F.PE_STAT.SAFE 31 31) 0).p (F.LVL_TERM.VRANGE 31 31) 0).p
      (F.LVL_TERM.IRANGE 31 31) 0).p (F.PE_CTL.DAC_ARCH 31 31) 1).setCh 31 31
      { pend := true, arch := 1, lvl := 0x0FFC222233334444555566667777FFFF#128 &&& 0x000CFFFFFFFFFFFFFFFFFFFFFFFFFFFF#128
          }, (31 : Nat), (31 : Nat), by decide +kernel⟩,
    ⟨(((((ready.p (F.PE_HALL_STAT.CLR_ACTIVE 0) 0).p (F.PE_STAT.SAFE 31 31) 0).p (F.LVL_TERM.VRANGE 31 31) 0).p
      (F.LVL_TERM.IRANGE 31 31) 0).p (F.PE_CTL.DAC_ARCH 31 31) 1).setCh 31 31 { pend := true, arch := 0 }, (31 : Nat), (31
      : Nat), by decide +kernel⟩,
    ⟨ready.setCh 31 31 { bridge := 1, lvl := 0x00030000000000000000000000000000#128 }, (31 : Nat), (31 : Nat),
      by decide +kernel⟩,
    ⟨ready.setCh 0 0
      { bridge := 2, lvl := 0x0FFC222233334444555566667777FFFF#128 &&& 0x000CFFFFFFFFFFFFFFFFFFFFFFFFFFFF#128 }, (0 :
      Nat), (0 : Nat), by decide +kernel⟩,
    ⟨(((ready.p (F.LVL_TERM.VRANGE 31 31) 0).p (F.LVL_TERM.IRANGE 31 31) 0).p (F.PE_CTL.DAC_ARCH 31 31) 0).setCh 31 31
      { bridge := 3 }, (31 : Nat), (31 : Nat), by decide +kernel⟩,
    ⟨(((ready.p (F.LVL_TERM.VRANGE 31 31) 0).p (F.LVL_TERM.IRANGE 31 31) 0).p (F.PE_CTL.DAC_ARCH 31 31) 0).setCh 31 31
      { bridge := 3, wait := some 7 }, (31 : Nat), (31 : Nat), (7 : BitVec 128), by decide +kernel⟩,
    ⟨(ready.p (F.LVL_TERM.VRANGE 31 31) 1).setCh 31 31 { bridge := 3, wait := some 7 }, (31 : Nat), (31 : Nat), (7 :
      BitVec 128), by decide +kernel⟩⟩

/-- States and operands that meet the hypotheses of PinTrips, clause by clause. -/
theorem test_meets_pin_trips :
    (∃ (s : State) (h : Nat) (c : Nat) (nv : Int), h < s.part.halls ∧ c < 32 ∧ (compSee h c nv s).peCond h c = true ∧ s.is
      (F.PE_STAT.TRIPPED h c) = false) ∧
    (∃ (s : State) (h : Nat) (c : Nat) (j : Nat) (nv : Int), h < s.part.halls ∧ c < 32 ∧ (compSee h c nv s).peCond h c =
      true ∧ s.is (F.TRIP_CTL.SMU_EN h c) = true ∧ j < 4 ∧ 4 * s.g (F.TRIP_CTL.SMU_GRP h c) + j < s.part.smus ∧ s.is
      (F.SMU_CTL.TRIP_IN (4 * s.g (F.TRIP_CTL.SMU_GRP h c) + j)) = true ∧ s.smuGated (4 * s.g (F.TRIP_CTL.SMU_GRP h c) +
      j) = false) ∧
    (∃ (s : State) (h : Nat) (c : Nat) (nv : Int), h < s.part.halls ∧ c < 32 ∧ (compSee h c nv s).peCond h c = false) ∧
    (∃ (s : State) (h : Nat) (c : Nat) (nv : Int), h < s.part.halls ∧ c < 32 ∧ (s.ch h c).settle = true ∧ (compSee h c nv
      (s.modCh h c (fun x => { x with settle := false }))).peCond h c = false) ∧
    (∃ (s : State) (h : Nat) (c : Nat) (nv : Int), h < s.part.halls ∧ c < 32 ∧ (s.ch h c).settle = true ∧ (compSee h c nv
      (s.modCh h c (fun x => { x with settle := false }))).peCond h c = true ∧ s.is (F.PE_STAT.TRIPPED h c) = false) ∧
    (∃ (s : State) (h : Nat) (c : Nat) (nv : Int), Ready s ∧ h < s.part.halls ∧ c < 32 ∧ s.is (F.PE_STAT.TRIPPED h c) =
      true ∧ s.isFresh (F.PE_STAT.TRIPPED h c) = false ∧ (compSee h c nv s).peCond h c = false) ∧
    (∃ (s : State) (h : Nat) (c : Nat) (nv : Int), Ready s ∧ h < s.part.halls ∧ c < 32 ∧ s.is (F.PE_STAT.TRIPPED h c) =
      true ∧ (compSee h c nv s).peCond h c = true ∧ natBits (s.g (F.TRIP_MAP.TRIPPED h)) c 1 = 1) ∧
    (∃ (s : State) (h : Nat) (c : Nat) (v : Word), Ready s ∧ h < s.part.halls ∧ c < 32 ∧ ((F.TRIP_CTL.SMU_EN h c).is v =
      false ∨ (F.TRIP_CTL.SMU_GRP h c).of v < s.part.groups)) ∧
    (∃ (s : State) (h : Nat) (c : Nat) (v : Word), Ready s ∧ h < s.part.halls ∧ c < 32 ∧ (F.TRIP_CTL.SMU_EN h c).is v =
      true ∧ s.part.groups ≤ (F.TRIP_CTL.SMU_GRP h c).of v) :=
  ⟨
    ⟨((((((((ready.p (F.PE_CTL.EN 31 31) 1).p (F.PE_STAT.EN_EFF 31 31) 1).p (F.PE_STAT.SAFE 31 31) 0).p (F.PE_STAT.BLANKED
      31 31) 0).p (F.TRIP_CTL.COND 31 31) 1).p (F.TRIP_CTL.SMU_EN 31 31) 0).p (F.PE_STAT.TRIPPED 31 31) 0).p
      (F.LVL_TERM.VRANGE 31 31) 0).p (F.LVL_CMP.VOH 31 31) 0 |>.p (F.LVL_CMP.VOL 31 31) 0, (31 : Nat), (31 : Nat),
      (1000000000 : Int), by decide +kernel⟩,
    ⟨(((((((((((((ready.p (F.PE_CTL.EN 31 31) 1).p (F.PE_STAT.EN_EFF 31 31) 1).p (F.PE_STAT.SAFE 31 31) 0).p
      (F.PE_STAT.BLANKED 31 31) 0).p (F.TRIP_CTL.COND 31 31) 1).p (F.TRIP_CTL.SMU_EN 31 31) 0).p (F.PE_STAT.TRIPPED 31 31)
      0).p (F.LVL_TERM.VRANGE 31 31) 0).p (F.LVL_CMP.VOH 31 31) 0 |>.p (F.LVL_CMP.VOL 31 31) 0).p (F.TRIP_CTL.SMU_EN 31
      31) 1).p (F.TRIP_CTL.SMU_GRP 31 31) 15).p (F.SMU_CTL.TRIP_IN 63) 1).p (F.SMU_CTL.EN 63) 1).p (F.SMU_STAT.SAFE 63) 0,
      (31 : Nat), (31 : Nat), (3 : Nat), (1000000000 : Int), by decide +kernel⟩,
    ⟨((((((((ready.p (F.PE_CTL.EN 31 31) 1).p (F.PE_STAT.EN_EFF 31 31) 1).p (F.PE_STAT.SAFE 31 31) 0).p (F.PE_STAT.BLANKED
      31 31) 0).p (F.TRIP_CTL.COND 31 31) 1).p (F.TRIP_CTL.SMU_EN 31 31) 0).p (F.PE_STAT.TRIPPED 31 31) 0).p
      (F.LVL_TERM.VRANGE 31 31) 0).p (F.LVL_CMP.VOH 31 31) 0 |>.p (F.LVL_CMP.VOL 31 31) 0, (31 : Nat), (31 : Nat),
      (-1500000000 : Int), by decide +kernel⟩,
    ⟨(ready.p (F.TRIP_CTL.COND 31 31) 0).setCh 31 31 { settle := true }, (31 : Nat), (31 : Nat), (1 : Int),
      by decide +kernel⟩,
    ⟨(((((((((ready.p (F.PE_CTL.EN 31 31) 1).p (F.PE_STAT.EN_EFF 31 31) 1).p (F.PE_STAT.SAFE 31 31) 0).p
      (F.PE_STAT.BLANKED 31 31) 0).p (F.TRIP_CTL.COND 31 31) 1).p (F.TRIP_CTL.SMU_EN 31 31) 0).p (F.PE_STAT.TRIPPED 31 31)
      0).p (F.LVL_TERM.VRANGE 31 31) 0).p (F.LVL_CMP.VOH 31 31) 0 |>.p (F.LVL_CMP.VOL 31 31) 0).setCh 31 31
      { settle := true }, (31 : Nat), (31 : Nat), (1000000000 : Int), by decide +kernel⟩,
    ⟨((((((((ready.p (F.PE_CTL.EN 31 31) 1).p (F.PE_STAT.EN_EFF 31 31) 1).p (F.PE_STAT.SAFE 31 31) 0).p (F.PE_STAT.BLANKED
      31 31) 0).p (F.TRIP_CTL.COND 31 31) 1).p (F.TRIP_CTL.SMU_EN 31 31) 0).p (F.PE_STAT.TRIPPED 31 31) 1).p
      (F.LVL_TERM.VRANGE 31 31) 0).p (F.LVL_CMP.VOH 31 31) 0 |>.p (F.LVL_CMP.VOL 31 31) 0, (31 : Nat), (31 : Nat),
      (-1500000000 : Int), by decide +kernel⟩,
    ⟨(((((((((ready.p (F.PE_CTL.EN 31 31) 1).p (F.PE_STAT.EN_EFF 31 31) 1).p (F.PE_STAT.SAFE 31 31) 0).p
      (F.PE_STAT.BLANKED 31 31) 0).p (F.TRIP_CTL.COND 31 31) 1).p (F.TRIP_CTL.SMU_EN 31 31) 0).p (F.PE_STAT.TRIPPED 31 31)
      1).p (F.LVL_TERM.VRANGE 31 31) 0).p (F.LVL_CMP.VOH 31 31) 0 |>.p (F.LVL_CMP.VOL 31 31) 0).p (F.TRIP_MAP.TRIPPED 31)
      0x80000000, (31 : Nat), (31 : Nat), (1000000000 : Int), by decide +kernel⟩,
    ⟨ready, (31 : Nat), (31 : Nat), (0xFFFFFFFF#32 : Word), by decide +kernel⟩,
    ⟨{ ready with part := .s }, (15 : Nat), (31 : Nat), (0xFFFFFFFF#32 : Word), by decide +kernel⟩⟩

/-- States and operands that meet the hypotheses of ParametricAndContactTests, clause by clause. -/
theorem test_meets_parametric_and_contact_tests :
    (∃ (s : State) (h : Nat) (v : Word), Ready s ∧ h < s.part.halls ∧ s.slice h = false ∧ s.hallRun h = false ∧ (s.peh
      h).touch = none ∧ (s.peh h).ppPhase = 0 ∧ s.fenced h = false ∧ signed 8 ((F.PP_CTL.IFORCE h).of v) ≠ 0 ∧ -100 ≤
      signed 8 ((F.PP_CTL.IFORCE h).of v) ∧ signed 8 ((F.PP_CTL.IFORCE h).of v) ≤ 100 ∧ 1 ≤ (F.PP_CTL.MSETTLE h).of v ∧
      (F.PP_CTL.MSETTLE h).of v ≤ 1000) ∧
    (∃ (s : State) (h : Nat), Ready s ∧ h < s.part.halls ∧ s.slice h = false ∧ s.hallRun h = true) ∧
    (∃ (s : State) (h : Nat), Ready s ∧ h < s.part.halls ∧ s.slice h = true) ∧
    (∃ (s : State) (h : Nat), h < s.part.halls ∧ (s.peh h).ppPhase = 1 ∧ s.dryRun = false) ∧
    (∃ (s : State) (h : Nat) (c : Nat), h < s.part.halls ∧ c < 32 ∧ (s.peh h).ppPhase = 2 ∧ natBits (s.peh h).ppMask c 1 =
      1 ∧ s.is (F.PE_STAT.SAFE h c) = false) ∧
    (∃ (s : State) (h : Nat), h < s.part.halls ∧ (s.peh h).ppPhase = 3) ∧
    (∃ (s : State) (h : Nat) (c : Nat), h < s.part.halls ∧ c < 32 ∧ (s.peh h).ppPhase = 4 ∧ natBits (s.peh h).ppMask c 1 =
      1) ∧
    (∃ (s : State) (q : Nat) (r : DescRun), Executes s q 6 false r ∧ dUnit r.desc < s.part.halls ∧ s.slice (dUnit r.desc)
      = false ∧ dAddr r.desc = 0 ∧ dLen r.desc = 0 ∧ dscBits r.desc 20 0 3 ≠ 0 ∧ dscBits r.desc 20 3 5 = 0 ∧ dscBits
      r.desc 21 1 7 = 0 ∧ dscZeroFrom r.desc 30 = true ∧ signed 16 (dsc r.desc 22 2) ≠ 0 ∧ -100 ≤ signed 16 (dsc r.desc 22
      2) ∧ signed 16 (dsc r.desc 22 2) ≤ 100 ∧ dsc r.desc 26 2 < dsc r.desc 24 2 ∧ 1 ≤ dsc r.desc 28 2 ∧ dsc r.desc 28 2 ≤
      1000 ∧ r.owns (dUnit r.desc) = true ∧ s.hallRun (dUnit r.desc) = false ∧ (s.peh (dUnit r.desc)).touch = none ∧
      (s.peh (dUnit r.desc)).ppPhase = 0 ∧ (s.hse (dUnit r.desc)).xfer = none ∧ s.fenced (dUnit r.desc) = false) ∧
    (∃ (s : State) (h : Nat) (n : Nat) (x : TouchX) (l : List Nat), h < s.part.halls ∧ (s.peh h).touch = some x ∧ x.phase
      = 0 ∧ x.banks = n :: l ∧ s.dryRun = false) ∧
    (∃ (s : State) (h : Nat) (c : Nat) (x : TouchX), h < s.part.halls ∧ c < 32 ∧ (s.peh h).touch = some x ∧ x.phase = 1 ∧
      s.is (F.PE_STAT.SAFE h c) = false) ∧
    (∃ (s : State) (h : Nat) (x : TouchX), h < s.part.halls ∧ (s.peh h).touch = some x ∧ x.phase = 2) ∧
    (∃ (s : State) (h : Nat) (q : Nat) (k : Nat) (x : TouchX) (r : DescRun), h < s.part.halls ∧ (s.peh h).touch = some x ∧
      x.phase = 3 ∧ x.banks = [k] ∧ s.queueOf x.did = some q ∧ (s.queue q).run = some r) ∧
    (∃ (s : State) (h : Nat) (k : Nat) (i : Nat) (x : TouchX), h < s.part.halls ∧ (s.peh h).touch = some x ∧ x.phase = 3 ∧
      x.banks = [k] ∧ x.apply = true ∧ x.result = 0 ∧ x.done = 0 ∧ k < 3 ∧ i < 96 ∧ i / 32 = k ∧ (s.alc h i).own ≠ 0 ∧
      s.alcSt h i = alcBound) :=
  ⟨
    ⟨ready.p (F.UNIT_STATE.STATE 31) 0 |>.p (F.CAL_HALL.SLICE 31) 0, (31 : Nat), (0x009C03E8#32 : Word),
      by decide +kernel⟩,
    ⟨(ready.p (F.ALC_STATE.STATE 31 95) 3).p (F.CAL_HALL.SLICE 31) 0, (31 : Nat), by decide +kernel⟩,
    ⟨ready.p (F.CAL_HALL.SLICE 31) 1, (31 : Nat), by decide +kernel⟩,
    ⟨(ready.p F.JNL_STAT.REPLAY 0).setPeh 31 { ppPhase := 1, ppBank := 3, ppMask := 5 }, (31 : Nat), by decide +kernel⟩,
    ⟨(ready.p (F.PE_STAT.SAFE 31 31) 0).setPeh 31 { ppPhase := 2, ppMask := 0x80000001 }, (31 : Nat), (31 : Nat),
      by decide +kernel⟩,
    ⟨ready.setPeh 31 { ppPhase := 3, ppMask := 5 }, (31 : Nat), by decide +kernel⟩,
    ⟨ready.setPeh 31 { ppPhase := 4, ppMask := 0x80000001 } |>.setCh 31 31 { pp := true }, (31 : Nat), (31 : Nat),
      by decide +kernel⟩,
    ⟨run_ ((ready.p (F.UNIT_STATE.STATE 31) 0).p (F.CAL_HALL.SLICE 31) 0) 9 false (dk [(0, 16, 6), (24, 8, 31), (160, 3,
      5), (176, 16, 65436), (192, 16, 900), (208, 16, 100), (224, 16, 1000)]), (9 : Nat), (⟨5, 7, dk [(0, 16, 6), (24, 8,
      31), (160, 3, 5), (176, 16, 65436), (192, 16, 900), (208, 16, 100), (224, 16, 1000)], false, 0, 0⟩ : DescRun),
      by decide +kernel⟩,
    ⟨(ready.p F.JNL_STAT.REPLAY 0).setPeh 31
      { touch := some { did := 5, banks := [2], phase := 0, apply := false, vopen := 900, vshort := 100, result := 0 } },
      (31 : Nat), (2 : Nat),
      ({ did := 5, banks := [2], phase := 0, apply := false, vopen := 900, vshort := 100, result := 0 } : TouchX), ([] :
      List Nat), by decide +kernel⟩,
    ⟨(ready.p (F.PE_STAT.SAFE 31 31) 0).setPeh 31
      { touch := some { did := 5, banks := [2], phase := 1, apply := false, vopen := 900, vshort := 100, result := 0 } },
      (31 : Nat), (31 : Nat),
      ({ did := 5, banks := [2], phase := 1, apply := false, vopen := 900, vshort := 100, result := 0 } : TouchX),
      by decide +kernel⟩,
    ⟨ready.setPeh 31
      { touch := some { did := 5, banks := [2], phase := 2, apply := false, vopen := 900, vshort := 100, result := 0 } },
      (31 : Nat), ({ did := 5, banks := [2], phase := 2, apply := false, vopen := 900, vshort := 100, result := 0 } :
      TouchX), by decide +kernel⟩,
    ⟨(run_ ready 9 true (dk [])).setPeh 31
      { touch := some { did := 5, banks := [2], phase := 3, apply := false, vopen := 900, vshort := 100, result := 21 } },
      (31 : Nat), (9 : Nat), (2 : Nat),
      ({ did := 5, banks := [2], phase := 3, apply := false, vopen := 900, vshort := 100, result := 21 } : TouchX), (⟨5,
      7, dk [], true, 0, 0⟩ : DescRun), by decide +kernel⟩,
    ⟨((ready.p (F.ALC_STATE.STATE 31 95) alcBound).setAlc 31 95 { own := 5 }).setPeh 31
      { touch := some { did := 5, banks := [2], phase := 3, apply := true, vopen := 900, vshort := 100, result := 0 } },
      (31 : Nat), (2 : Nat), (95 : Nat),
      ({ did := 5, banks := [2], phase := 3, apply := true, vopen := 900, vshort := 100, result := 0 } : TouchX),
      by decide +kernel⟩⟩

/-- States and operands that meet the hypotheses of SetLevels, clause by clause. -/
theorem test_meets_set_levels :
    (∃ (s : State) (q : Nat) (r : DescRun), Executes s q 10 false r ∧ dUnit r.desc < s.part.halls ∧ dscBits r.desc 20 6 2
      = 0 ∧ dscBits r.desc 21 7 1 = 0 ∧ dscZeroFrom r.desc 22 = true ∧ dAddr r.desc % 16 = 0 ∧ dscBits r.desc 21 0 7 ≠ 0 ∧
      dscBits r.desc 20 0 6 + dscBits r.desc 21 0 7 ≤ 64 ∧ dLen r.desc = 512 * dscBits r.desc 21 0 7 ∧ r.owns (dUnit
      r.desc) = true) ∧
    (∃ (s : State) (q : Nat) (j : Nat) (data : List Nat) (r : DescRun), Executes s q 10 true r ∧ data.length = 512 *
      dscBits r.desc 21 0 7 ∧ dscBits r.desc 20 0 6 + dscBits r.desc 21 0 7 ≤ 64 ∧ (List.range (32 * dscBits r.desc 21 0
      7)).all (fun j => lvlRsvOk (lvlOfBytes data j)) = true ∧ (List.range (dscBits r.desc 21 0 7)).any (fun n =>
      (List.range 96).any (fun i => s.alcSt (dUnit r.desc) i == alcLive && s.g (F.ALC_STATE.LS (dUnit r.desc) i) ==
      dscBits r.desc 20 0 6 + n)) = false ∧ j < 32 * dscBits r.desc 21 0 7) ∧
    (∃ (s : State) (q : Nat) (k : Nat) (data : List Nat) (r : DescRun), Executes s q 10 true r ∧ data.length = 512 *
      dscBits r.desc 21 0 7 ∧ (List.range (32 * dscBits r.desc 21 0 7)).all (fun j => lvlRsvOk (lvlOfBytes data j)) = true
      ∧ (List.range (dscBits r.desc 21 0 7)).find? (fun n => (List.range 96).any (fun i => s.alcSt (dUnit r.desc) i ==
      alcLive && s.g (F.ALC_STATE.LS (dUnit r.desc) i) == dscBits r.desc 20 0 6 + n)) = some k) ∧
    (∃ (s : State) (q : Nat) (data : List Nat) (r : DescRun), Executes s q 10 true r ∧ data.length = 512 * dscBits r.desc
      21 0 7 ∧ (List.range (32 * dscBits r.desc 21 0 7)).all (fun j => lvlRsvOk (lvlOfBytes data j)) = false) ∧
    (∃ (s : State) (q : Nat) (r : DescRun), Executes s q 10 true r) ∧
    (∃ (s : State) (h : Nat) (c : Nat), s.clrLow = false ∧ h < s.part.halls ∧ c < 32) ∧
    (∃ (s : State) (k : Nat), s.clrLow = false ∧ k < s.part.smus) ∧
    (∃ (s : State) (h : Nat), s.clrLow = true ∧ h < s.part.halls) :=
  ⟨
    ⟨run_ ready 9 false (dk [(0, 16, 10), (24, 8, 31), (32, 32, 0xABCD), (64, 64, 4096), (128, 32, 1024), (160, 6, 62),
      (168, 7, 2)]), (9 : Nat), (⟨5, 7, dk [(0, 16, 10), (24, 8, 31), (32, 32, 0xABCD), (64, 64, 4096), (128, 32, 1024),
      (160, 6, 62), (168, 7, 2)], false, 0, 0⟩ : DescRun), by decide +kernel⟩,
    ⟨run_ ready 9 true (dk [(0, 16, 10), (24, 8, 31), (32, 32, 0xABCD), (64, 64, 4096), (128, 32, 1024), (160, 6, 62),
      (168, 7, 2)]), (9 : Nat), (63 : Nat), ((List.replicate 1016 0) ++ [1, 2, 3, 4, 5, 6, 7, 0] : List Nat), (⟨5, 7, dk
      [(0, 16, 10), (24, 8, 31), (32, 32, 0xABCD), (64, 64, 4096), (128, 32, 1024), (160, 6, 62), (168, 7, 2)], true, 0,
      0⟩ : DescRun), by decide +kernel⟩,
    ⟨run_ ((ready.p (F.ALC_STATE.STATE 31 95) 4).p (F.ALC_STATE.LS 31 95) 63) 9 true (dk [(0, 16, 10), (24, 8, 31), (32,
      32, 0xABCD), (64, 64, 4096), (128, 32, 1024), (160, 6, 62), (168, 7, 2)]), (9 : Nat), (1 : Nat), (List.replicate
      1024 0 : List Nat), (⟨5, 7, dk [(0, 16, 10), (24, 8, 31), (32, 32, 0xABCD), (64, 64, 4096), (128, 32, 1024), (160,
      6, 62), (168, 7, 2)], true, 0, 0⟩ : DescRun), by decide +kernel⟩,
    ⟨run_ ready 9 true (dk [(0, 16, 10), (24, 8, 31), (32, 32, 0xABCD), (64, 64, 4096), (128, 32, 1024), (160, 6, 62),
      (168, 7, 2)]), (9 : Nat), (List.replicate 1024 255 : List Nat), (⟨5, 7, dk [(0, 16, 10), (24, 8, 31), (32, 32,
      0xABCD), (64, 64, 4096), (128, 32, 1024), (160, 6, 62), (168, 7, 2)], true, 0, 0⟩ : DescRun), by decide +kernel⟩,
    ⟨run_ ready 9 true (dk [(0, 16, 10), (24, 8, 31), (32, 32, 0xABCD), (64, 64, 4096), (128, 32, 1024), (160, 6, 62),
      (168, 7, 2)]), (9 : Nat), (⟨5, 7, dk [(0, 16, 10), (24, 8, 31), (32, 32, 0xABCD), (64, 64, 4096), (128, 32, 1024),
      (160, 6, 62), (168, 7, 2)], true, 0, 0⟩ : DescRun), by decide +kernel⟩,
    ⟨ready.p (F.PE_HALL_STAT.CLR_ACTIVE 0) 0, (31 : Nat), (31 : Nat), by decide +kernel⟩,
    ⟨ready.p (F.PE_HALL_STAT.CLR_ACTIVE 0) 0 |>.setSmu 63 { dac := 7, use := { span := 4 } }, (63 : Nat),
      by decide +kernel⟩,
    ⟨ready.p (F.PE_HALL_STAT.CLR_ACTIVE 0) 1, (31 : Nat), by decide +kernel⟩⟩

/-- States and operands that meet the hypotheses of TdcSetControl, clause by clause. -/
theorem test_meets_tdc_set_control :
    (∃ (s : State) (h : Nat) (m : Nat) (c : Nat), Ready s ∧ h < s.part.halls ∧ m < 64 ∧ s.hallRun h = false ∧ s.fenced h =
      false ∧ s.is (F.TDC_SET_A.VALID h m) = true ∧ s.is (F.TDC_SET_A.KIND h m) = false ∧ c < 32 ∧ natBits (s.g
      (F.TDC_SET_B.STOPMASK h m)) c 1 = 1) ∧
    (∃ (s : State) (h : Nat) (m : Nat), Ready s ∧ h < s.part.halls ∧ m < 64 ∧ s.hallRun h = false ∧ s.fenced h = false ∧
      s.is (F.TDC_SET_A.VALID h m) = true ∧ s.is (F.TDC_SET_A.KIND h m) = true) ∧
    (∃ (s : State) (h : Nat) (m : Nat), Ready s ∧ h < s.part.halls ∧ m < 64 ∧ (s.hallRun h = true ∨ s.fenced h = true ∨
      s.is (F.TDC_SET_A.VALID h m) = false)) ∧
    (∃ (s : State) (h : Nat) (c : Nat) (m : Nat), Ready s ∧ h < s.part.halls ∧ c < 32 ∧ (s.tdc h c).run = some m) ∧
    (∃ (s : State) (h : Nat), Ready s ∧ h < s.part.halls ∧ (s.reg h).run = true) ∧
    (∃ (s : State) (h : Nat) (m : Nat) (w : Nat) (v : Word), Ready s ∧ h < s.part.halls ∧ m < 64 ∧ w < 4 ∧ tdcSetOk s h m
      w v = true ∧ s.setRuns h m = false ∧ tdcSetMust s h m w v = false) ∧
    (∃ (s : State) (h : Nat) (m : Nat) (w : Nat) (v : Word), Ready s ∧ h < s.part.halls ∧ m < 64 ∧ tdcSetOk s h m w v =
      true ∧ s.setRuns h m = false ∧ tdcSetMust s h m w v = true) ∧
    (∃ (s : State) (h : Nat) (m : Nat) (w : Nat) (v : Word), Ready s ∧ h < s.part.halls ∧ m < 64 ∧ w < 4 ∧ tdcSetOk s h m
      w v = true ∧ s.setRuns h m = true) ∧
    (∃ (s : State) (h : Nat) (m : Nat) (w : Nat) (v : Word), Ready s ∧ h < s.part.halls ∧ m < 64 ∧ w < 4 ∧ tdcSetOk s h m
      w v = false) :=
  ⟨
    ⟨((((ready.p (F.UNIT_STATE.STATE 31) 0).p (F.TDC_SET_A.VALID 31 63) 1).p (F.TDC_SET_A.KIND 31 63) 0).p
      (F.TDC_SET_B.STOPMASK 31 63) 0x80000001), (31 : Nat), (63 : Nat), (31 : Nat), by decide +kernel⟩,
    ⟨(((ready.p (F.UNIT_STATE.STATE 31) 0).p (F.TDC_SET_A.VALID 31 63) 1).p (F.TDC_SET_A.KIND 31 63) 1), (31 : Nat), (63 :
      Nat), by decide +kernel⟩,
    ⟨(ready.p (F.TDC_SET_A.VALID 31 63) 0), (31 : Nat), (63 : Nat), by decide +kernel⟩,
    ⟨ready.setTdc 31 31 { run := some 63, n := 9 }, (31 : Nat), (31 : Nat), (63 : Nat), by decide +kernel⟩,
    ⟨ready.setReg 31 { run := true, open_ := true, set := 63, k := 9 }, (31 : Nat), by decide +kernel⟩,
    ⟨ready.p (F.TDC_SET_A.KIND 31 63) 0, (31 : Nat), (63 : Nat), (3 : Nat), (0xFFFFFFFF#32 : Word), by decide +kernel⟩,
    ⟨ready.p (F.TDC_SET_A.KIND 31 63) 1, (31 : Nat), (63 : Nat), (2 : Nat), (0x10000#32 : Word), by decide +kernel⟩,
    ⟨ready.setTdc 31 0 { run := some 63 }, (31 : Nat), (63 : Nat), (1 : Nat), (5#32 : Word), by decide +kernel⟩,
    ⟨ready.p (F.TDC_SET_A.KIND 31 63) 1, (31 : Nat), (63 : Nat), (3 : Nat), (0#32 : Word), by decide +kernel⟩⟩

/-- States and operands that meet the hypotheses of TdcSamples, clause by clause. -/
theorem test_meets_tdc_samples :
    (∃ (s : State) (h : Nat) (m : Nat) (t0 : Nat) (c : Nat), h < s.part.halls ∧ m < 64 ∧ c < 32 ∧ (s.tdc h c).run = some m
      ∧ s.g (F.TDC_SET_A.START_SRC h m) = 0 ∧ ((s.smp h m).at_ = none ∨ ∃ n, (s.smp h m).at_ = some n ∧ 0 < n ∧ n % (max 1
      (s.g (F.TDC_SET_D.PERIOD h m))) = 0) ∧ (s.smp h m).start = none ∧ (∀ x, (s.smp h m).ended = some x → x + 40000 ≤
      t0)) ∧
    (∃ (s : State) (h : Nat) (m : Nat) (t0 : Nat) (x : Nat) (c : Nat), h < s.part.halls ∧ m < 64 ∧ c < 32 ∧ (s.tdc h
      c).run = some m ∧ s.g (F.TDC_SET_A.START_SRC h m) = 0 ∧ ((s.smp h m).at_ = none ∨ ∃ n, (s.smp h m).at_ = some n ∧ 0
      < n ∧ n % (max 1 (s.g (F.TDC_SET_D.PERIOD h m))) = 0) ∧ (s.smp h m).start = none ∧ (s.smp h m).ended = some x ∧ t0 <
      x + 40000 ∧ s.g (F.TDC_SKIP.COUNT h c) < 2 ^ 31 - 1) ∧
    (∃ (s : State) (h : Nat) (m : Nat) (n : Nat), (s.smp h m).at_ = some n ∧ n % (max 1 (s.g (F.TDC_SET_D.PERIOD h m))) ≠
      0) ∧
    (∃ (s : State) (h : Nat) (m : Nat) (c : Nat) (k : Nat) (t0 : Nat) (a : Nat) (i : Nat), h < s.part.halls ∧ m < 64 ∧ c <
      32 ∧ k < 2 ∧ s.compOn h c = true ∧ (s.tdc h c).run = some m ∧ (s.tdc h c).lastStamp = none ∧ (s.smp h m).start =
      some a ∧ (s.reg h).open_ = false ∧ s.is (F.TDC_SET_A.STOP_SRC h m) = false ∧ edgeOk (s.g (F.TDC_SET_A.STOP_EDGE h
      m)) k = true ∧ (s.tdc h c).stops.length < s.nstop h m ∧ (t0 + s.calLive (calHallRec h c + 4)).toNat = a + i ∧ i ≤
      sampleMax ∧ (List.range 64).all (fun n => (s.runners h n).isEmpty || s.g (F.TDC_SET_A.START_SLOT h n) != c || s.g
      (F.TDC_SET_A.START_SRC h n) == 0) = true) ∧
    (∃ (s : State) (h : Nat) (c : Nat) (k : Nat) (t0 : Nat) (e : Nat) (l : Nat), h < s.part.halls ∧ c < 32 ∧ (k < 2 ∧
      s.compOn h c = true ∨ k = 2 ∧ s.marks h c e = true) ∧ (s.tdc h c).lastStamp = some l ∧ (t0 + s.calLive (calHallRec h
      c + 4)).toNat < l + 3000 ∧ (s.reg h).open_ = false) ∧
    (∃ (s : State) (h : Nat) (m : Nat) (c : Nat) (a : Nat) (v : Nat), h < s.part.halls ∧ m < 64 ∧ c < 32 ∧ (s.smp h
      m).start = some a ∧ (s.tdc h c).run = some m ∧ s.is (F.TDC_SET_A.STAT_MODE h m) = false ∧ (s.tdc h c).stops[s.g
      (F.TDC_SET_A.STAT_IDX h m)]? = some v ∧ (s.tdc h c).queue.length < 4) ∧
    (∃ (s : State) (h : Nat) (m : Nat) (c : Nat) (a : Nat) (v : Nat) (u : Nat), h < s.part.halls ∧ m < 64 ∧ c < 32 ∧
      (s.smp h m).start = some a ∧ (s.tdc h c).run = some m ∧ s.is (F.TDC_SET_A.STAT_MODE h m) = true ∧ (s.tdc h
      c).stops[s.g (F.TDC_SET_A.STAT_IDX h m)]? = some v ∧ (s.tdc h c).stops[s.g (F.TDC_SET_A.STAT_IDX h m) - 1]? = some u
      ∧ (s.tdc h c).queue = []) ∧
    (∃ (s : State) (h : Nat) (m : Nat) (c : Nat) (a : Nat), h < s.part.halls ∧ m < 64 ∧ c < 32 ∧ (s.smp h m).start = some
      a ∧ (s.tdc h c).run = some m ∧ (s.tdc h c).stops = [] ∧ s.g (F.TDC_TMO.COUNT h c) < 2 ^ 31 - 1) ∧
    (∃ (s : State) (h : Nat) (m : Nat) (c : Nat) (a : Nat) (v : Nat), h < s.part.halls ∧ m < 64 ∧ c < 32 ∧ (s.smp h
      m).start = some a ∧ (s.tdc h c).run = some m ∧ s.is (F.TDC_SET_A.STAT_MODE h m) = false ∧ (s.tdc h c).stops[s.g
      (F.TDC_SET_A.STAT_IDX h m)]? = some v ∧ (s.tdc h c).queue.length = 4 ∧ s.g (F.TDC_SKIP.COUNT h c) < 2 ^ 31 - 1) ∧
    (∃ (s : State) (h : Nat) (m : Nat) (c : Nat) (v : Int) (rest : List Int), h < s.part.halls ∧ c < 32 ∧ (s.tdc h c).run
      = some m ∧ (s.tdc h c).queue = v :: rest ∧ (s.tdc h c).n < s.g (F.TDC_SET_C.COUNT h m) ∧ m < 64) ∧
    (∃ (s : State) (h : Nat) (m : Nat) (c : Nat) (v : Int) (rest : List Int), h < s.part.halls ∧ c < 32 ∧ (s.tdc h c).run
      = some m ∧ (s.tdc h c).queue = v :: rest ∧ (s.tdc h c).n = s.g (F.TDC_SET_C.COUNT h m) ∧ m < 64) :=
  ⟨
    ⟨(ready.p (F.TDC_SET_A.START_SRC 31 63) 0).setTdc 31 31 { run := some 63, stops := [4] }, (31 : Nat), (63 : Nat),
      (1000 : Nat), (31 : Nat), by decide +kernel⟩,
    ⟨(((ready.p (F.TDC_SET_A.START_SRC 31 63) 0).p (F.TDC_SKIP.COUNT 31 31) 8).setTdc 31 31
      { run := some 63, stops := [4] }).setSmp 31 63 { ended := some 5 }, (31 : Nat), (63 : Nat), (40004 : Nat), (5 :
      Nat), (31 : Nat), by decide +kernel⟩,
    ⟨(ready.p (F.TDC_SET_D.PERIOD 31 63) 3).setTdc 31 31 { run := some 63 } |>.setSmp 31 63 { at_ := some 5 }, (31 : Nat),
      (63 : Nat), (5 : Nat), by decide +kernel⟩,
    ⟨((((((ready.p (F.TDC_SET_A.START_SRC 31 63) 0).p (F.TDC_SET_A.STOP_SRC 31 63) 0).p (F.TDC_SET_A.STOP_EDGE 31 63) 2).p
      (F.TDC_SET_A.NSTOP 31 63) 1).p (F.PE_STAT.EN_EFF 31 31) 1).p (F.PE_STAT.SAFE 31 31) 0) |> (fun s => (s.setTdc 31 31
      { run := some 63 }).setSmp 31 63 { start := some (1000 + ready.calLive (calHallRec 31 31 + 4)).toNat }), (31 : Nat),
      (63 : Nat), (31 : Nat), (1 : Nat), (8000001000 : Nat), ((1000 + ready.calLive (calHallRec 31 31 + 4)).toNat : Nat),
      (8000000000 : Nat), by decide +kernel⟩,
    ⟨((ready.p (F.PE_STAT.EN_EFF 31 31) 1).p (F.PE_STAT.SAFE 31 31) 0).setTdc 31 31
      { lastStamp := some (1000000 + ready.calLive (calHallRec 31 31 + 4)).toNat }, (31 : Nat), (31 : Nat), (1 : Nat),
      (1002999 : Nat), (0 : Nat), ((1000000 + ready.calLive (calHallRec 31 31 + 4)).toNat : Nat), by decide +kernel⟩,
    ⟨(((ready.p (F.TDC_SET_A.STAT_MODE 31 63) 0).p (F.TDC_SET_A.STAT_IDX 31 63) 1).setTdc 31 31
      { run := some 63, stops := [5, 9], queue := [1, 2, 3] }).setSmp 31 63 { start := some 1000 }, (31 : Nat), (63 :
      Nat), (31 : Nat), (1000 : Nat), (9 : Nat), by decide +kernel⟩,
    ⟨(((ready.p (F.TDC_SET_A.STAT_MODE 31 63) 1).p (F.TDC_SET_A.STAT_IDX 31 63) 1).setTdc 31 31
      { run := some 63, stops := [5, 9] }).setSmp 31 63 { start := some 1000 }, (31 : Nat), (63 : Nat), (31 : Nat), (1000
      : Nat), (9 : Nat), (5 : Nat), by decide +kernel⟩,
    ⟨((ready.p (F.TDC_TMO.COUNT 31 31) 5).setTdc 31 31 { run := some 63 }).setSmp 31 63 { start := some 1000 }, (31 :
      Nat), (63 : Nat), (31 : Nat), (1000 : Nat), by decide +kernel⟩,
    ⟨((((ready.p (F.TDC_SET_A.STAT_MODE 31 63) 0).p (F.TDC_SET_A.STAT_IDX 31 63) 1).p (F.TDC_SKIP.COUNT 31 31) 5).setTdc
      31 31 { run := some 63, stops := [5, 9], queue := [1, 2, 3, 4] }).setSmp 31 63 { start := some 1000 }, (31 : Nat),
      (63 : Nat), (31 : Nat), (1000 : Nat), (9 : Nat), by decide +kernel⟩,
    ⟨(ready.p (F.TDC_SET_C.COUNT 31 63) 7).setTdc 31 31 { run := some 63, queue := [-5, 3], n := 6, ref := 2, sum := 8 },
      (31 : Nat), (63 : Nat), (31 : Nat), ((-5) : Int), ([3] : List Int), by decide +kernel⟩,
    ⟨(ready.p (F.TDC_SET_C.COUNT 31 63) 6).setTdc 31 31 { run := some 63, queue := [-5, 3], n := 6, ref := 2, sum := 8 },
      (31 : Nat), (63 : Nat), (31 : Nat), ((-5) : Int), ([3] : List Int), by decide +kernel⟩⟩

/-- States and operands that meet the hypotheses of RegressionAndStatsReads, clause by clause. -/
theorem test_meets_regression_and_stats_reads :
    (∃ (s : State) (h : Nat), h < s.part.halls ∧ (s.reg h).open_ = true) ∧
    (∃ (s : State) (h : Nat), h < s.part.halls ∧ (s.reg h).run = true ∧ (s.reg h).open_ = false) ∧
    (∃ (s : State) (q : Nat) (r : DescRun), Executes s q 20 false r ∧ dUnit r.desc < s.part.halls ∧ dscBits r.desc 20 2 6
      = 0 ∧ dsc r.desc 21 3 = 0 ∧ dscZeroFrom r.desc 28 = true ∧ dAddr r.desc % 64 = 0 ∧ r.owns (dUnit r.desc) = true ∧
      dscBits r.desc 20 0 1 = 1 ∧ dsc r.desc 24 4 = 0 ∧ dLen r.desc = 64 ∧ (dscBits r.desc 20 1 1 = 0 ∨ (s.reg (dUnit
      r.desc)).run = false)) ∧
    (∃ (s : State) (q : Nat) (r : DescRun), Executes s q 20 false r ∧ dUnit r.desc < s.part.halls ∧ dscBits r.desc 20 2 6
      = 0 ∧ dsc r.desc 21 3 = 0 ∧ dscZeroFrom r.desc 28 = true ∧ dAddr r.desc % 64 = 0 ∧ r.owns (dUnit r.desc) = true ∧
      dscBits r.desc 20 0 2 = 2 ∧ dsc r.desc 24 4 = 0x80000001 ∧ dLen r.desc = 256 ∧ s.is (F.TDC_STAT.RUN (dUnit r.desc)
      0) = false ∧ s.is (F.TDC_STAT.RUN (dUnit r.desc) 31) = false) ∧
    (∃ (s : State) (q : Nat) (r : DescRun), Executes s q 20 false r ∧ dUnit r.desc < s.part.halls ∧ dscBits r.desc 20 2 6
      = 0 ∧ dsc r.desc 21 3 = 0 ∧ dscZeroFrom r.desc 28 = true ∧ dAddr r.desc % 64 = 0 ∧ r.owns (dUnit r.desc) = true ∧
      dscBits r.desc 20 0 2 = 3 ∧ dsc r.desc 24 4 = 0 ∧ dLen r.desc = 64 ∧ (s.reg (dUnit r.desc)).run = true) :=
  ⟨
    ⟨ready.setReg 31 { run := true, open_ := true, k := 5 }, (31 : Nat), by decide +kernel⟩,
    ⟨ready.setReg 31 { run := true, slot := 3, set := 63, k := 4, a1 := 6, a2 := 14, s1 := 60, s2 := 141, q := 1420 }, (31
      : Nat), by decide +kernel⟩,
    ⟨run_ ready 9 false (dk [(0, 16, 20), (24, 8, 31), (64, 64, 4096), (128, 32, 64), (160, 8, 3), (192, 32, 0)]), (9 :
      Nat), (⟨5, 7, dk [(0, 16, 20), (24, 8, 31), (64, 64, 4096), (128, 32, 64), (160, 8, 3), (192, 32, 0)], false, 0, 0⟩
      : DescRun), by decide +kernel⟩,
    ⟨run_ ((ready.p (F.TDC_STAT.RUN 31 0) 0).p (F.TDC_STAT.RUN 31 31) 0) 9 false (dk [(0, 16, 20), (24, 8, 31), (64, 64,
      4096), (128, 32, 256), (160, 8, 2), (192, 32, 2147483649)]), (9 : Nat), (⟨5, 7, dk [(0, 16, 20), (24, 8, 31), (64,
      64, 4096), (128, 32, 256), (160, 8, 2), (192, 32, 2147483649)], false, 0, 0⟩ : DescRun), by decide +kernel⟩,
    ⟨(run_ ready 9 false (dk [(0, 16, 20), (24, 8, 31), (64, 64, 4096), (128, 32, 64), (160, 8, 3), (192, 32, 0)])).setReg
      31 { run := true, slot := 3, set := 63, k := 4, a1 := 6, a2 := 14, s1 := 60, s2 := 141, q := 1420 }, (9 : Nat), (⟨5,
      7, dk [(0, 16, 20), (24, 8, 31), (64, 64, 4096), (128, 32, 64), (160, 8, 3), (192, 32, 0)], false, 0, 0⟩ : DescRun),
      by decide +kernel⟩⟩

/-- States and operands that meet the hypotheses of SerialEngines, clause by clause. -/
theorem test_meets_serial_engines :
    (∃ (s : State) (h : Nat) (r : SendReq) (rest : List SendReq), h < s.part.halls ∧ ((s.hl h).hold.swapWait = none ∨ ∃ b,
      s.liveBank h = some b ∧ s.bankSends h b = true) ∧ (s.hse h).flight = r :: rest ∧ s.hseFenced h = false ∧ (s.hse
      h).queue.length < 64) ∧
    (∃ (s : State) (h : Nat) (r : SendReq) (rest : List SendReq), h < s.part.halls ∧ (s.hl h).hold.swapWait = none ∧
      (s.hse h).flight = r :: rest ∧ s.hseFenced h = false ∧ (s.hse h).queue.length = 64 ∧ s.g (F.HSE_QDROP.COUNT h) < 2 ^
      31 - 1 ∧ (s.alc h r.alc).lastSend = r.seq ∧ s.replaying = false) ∧
    (∃ (s : State) (h : Nat) (r : SendReq) (rest : List SendReq), h < s.part.halls ∧ (s.hl h).hold.swapWait = none ∧
      (s.hse h).flight = r :: rest ∧ s.hseFenced h = true ∧ (s.alc h r.alc).lastSend = r.seq ∧ s.replaying = false) ∧
    (∃ (s : State) (h : Nat) (r : SendReq) (rest : List SendReq), h < s.part.halls ∧ (s.hse h).queue = r :: rest ∧ (s.hse
      h).run = none ∧ (s.hse h).xfer = none) ∧
    (∃ (s : State) (h : Nat) (j : Nat) (r : SendReq), h < s.part.halls ∧ (s.hl h).hold.swapWait = none ∧ (s.hse h).run =
      some r ∧ (s.hse h).xfer = none ∧ r.slot < 256 ∧ r.alc < 96 ∧ s.is (F.HSE_SLOT_A.MODE h r.slot) = false ∧ s.g
      (F.HSE_SLOT_A.CHECK h r.slot) = 0 ∧ 0 < s.g (F.HSE_SLOT_D.LEN h r.slot) ∧ j < (s.g (F.HSE_SLOT_D.LEN h r.slot) + 7)
      / 8 ∧ (s.alc h r.alc).lastSend = r.seq ∧ s.replaying = false) ∧
    (∃ (s : State) (h : Nat) (n : Nat) (c : Nat) (data : List Nat) (mid : List Nat), h < s.part.halls ∧ (s.hl
      h).hold.swapWait = some c ∧ (hseEnd h data mid s).liveBank h = some n ∧ (hseEnd h data mid s).hl h = s.hl h ∧
      (hseEnd h data mid s).bankSends h n = false ∧ (hseEnd h data mid s).slice h = false) ∧
    (∃ (s : State) (h : Nat) (q : Nat) (x : XferX) (r : DescRun), h < s.part.halls ∧ (s.hl h).hold.swapWait = none ∧
      (s.hse h).run = none ∧ (s.hse h).queue = [] ∧ (s.hse h).xfer = some x ∧ x.running = true ∧ s.is (F.HSE_SLOT_A.MODE h
      x.slot) = false ∧ s.g (F.HSE_SLOT_A.CHECK h x.slot) = 0 ∧ s.queueOf x.did = some q ∧ (s.queue q).run = some r ∧
      x.slot < 256) ∧
    (∃ (s : State) (h : Nat), Ready s ∧ h < s.part.halls ∧ (s.hl h).hold.swapWait = none ∧ (s.hse h).xfer = none ∧ ((s.hse
      h).run ≠ none ∨ (s.hse h).queue ≠ []) ∧ s.replaying = false) ∧
    (∃ (s : State) (h : Nat) (q : Nat) (x : XferX) (r : DescRun), Ready s ∧ h < s.part.halls ∧ (s.hl h).hold.swapWait =
      none ∧ (s.hse h).run = none ∧ (s.hse h).queue = [] ∧ (s.hse h).flight = [] ∧ (s.hse h).xfer = some x ∧ x.running =
      false ∧ s.queueOf x.did = some q ∧ (s.queue q).run = some r) ∧
    (∃ (s : State) (v : Word), Ready s ∧ F.BSPI_CTL.LEN.of v ≤ 256 ∧ s.is F.BSPI_STAT.BUSY = false ∧ F.BSPI_CTL.DIR.is v =
      false) ∧
    (∃ (s : State) (v : Word), Ready s ∧ F.BSPI_CTL.LEN.of v ≤ 256 ∧ s.is F.BSPI_STAT.BUSY = false ∧ F.BSPI_CTL.DIR.is v =
      true) ∧
    (∃ (s : State) (v : Word), Ready s ∧ F.BSPI_CTL.LEN.of v ≤ 256 ∧ s.is F.BSPI_STAT.BUSY = true) ∧
    (∃ (s : State) (v : Word), Ready s ∧ 256 < F.BSPI_CTL.LEN.of v) ∧
    (∃ (s : State) (j : Nat) (n : Nat), s.is F.BSPI_STAT.BUSY = true ∧ s.bspi = (false, n) ∧ n ≤ 256 ∧ j < n) ∧
    (∃ (s : State) (n : Nat), s.is F.BSPI_STAT.BUSY = true ∧ s.bspi = (true, n)) :=
  ⟨
    ⟨((ready.p (F.UNIT_STATE.STATE 31) 0).p (F.UNIT_STATE.HSE_FENCED 31) 0).setHse 31
      { flight := [⟨90, 200, 4, 2⟩, ⟨2, 7, 3, 0⟩], queue := [⟨2, 7, 3, 0⟩] }, (31 : Nat), (⟨90, 200, 4, 2⟩ : SendReq),
      ([⟨2, 7, 3, 0⟩] : List SendReq), by decide +kernel⟩,
    ⟨((((ready.p (F.UNIT_STATE.STATE 31) 0).p (F.UNIT_STATE.HSE_FENCED 31) 0).p F.JNL_STAT.REPLAY 0).p (F.HSE_QDROP.COUNT
      31) 8).setHse 31 { flight := [⟨90, 200, 4, 2⟩, ⟨2, 7, 3, 0⟩], queue := List.replicate 64 ⟨2, 7, 3, 0⟩ } |> (fun s =>
      s.modAlc 31 90 (fun a => { a with lastSend := 4 })), (31 : Nat), (⟨90, 200, 4, 2⟩ : SendReq), ([⟨2, 7, 3, 0⟩] : List
      SendReq), by decide +kernel⟩,
    ⟨((ready.p (F.UNIT_STATE.HSE_FENCED 31) 1).p F.JNL_STAT.REPLAY 0).setHse 31
      { flight := [⟨90, 200, 4, 2⟩, ⟨2, 7, 3, 0⟩], queue := [⟨2, 7, 3, 0⟩] } |> (fun s => s.modAlc 31 90 (fun a =>
      { a with lastSend := 4 })), (31 : Nat), (⟨90, 200, 4, 2⟩ : SendReq), ([⟨2, 7, 3, 0⟩] : List SendReq),
      by decide +kernel⟩,
    ⟨ready.setHse 31 { queue := [⟨90, 200, 4, 2⟩, ⟨2, 7, 3, 0⟩] }, (31 : Nat), (⟨90, 200, 4, 2⟩ : SendReq), ([⟨2, 7, 3,
      0⟩] : List SendReq), by decide +kernel⟩,
    ⟨((((ready.p (F.HSE_SLOT_A.MODE 31 200) 0).p (F.HSE_SLOT_A.CHECK 31 200) 0).p (F.HSE_SLOT_D.LEN 31 200) 12).p
      F.JNL_STAT.REPLAY 0).setHse 31 { run := some ⟨90, 200, 4, 2⟩ } |> (fun s => s.modAlc 31 90 (fun a =>
      { a with lastSend := 4 })), (31 : Nat), (1 : Nat), (⟨90, 200, 4, 2⟩ : SendReq), by decide +kernel⟩,
    ⟨((((((ready.p (F.HSE_SLOT_A.MODE 31 200) 0).p (F.HSE_SLOT_A.CHECK 31 200) 0).p (F.HSE_SLOT_D.LEN 31 200) 12).p
      (F.HALL_STAT.LIVE_BANK 31) 1).p (F.CAL_HALL.SLICE 31) 0).setHse 31 { run := some ⟨10, 200, 4, 0⟩ }).modHl 31 (fun x
      => { x with hold := { x.hold with swapWait := some 2 } }), (31 : Nat), (0 : Nat), (2 : Nat), ([1, 2] : List Nat),
      ([] : List Nat), by decide +kernel⟩,
    ⟨(run_ (((((((ready.p (F.HSE_SLOT_A.MODE 31 200) 0).p (F.HSE_SLOT_A.CHECK 31 200) 0).p (F.HSE_SLOT_D.LEN 31 200) 12).p
      (F.HSE_SLOT_A.LMAP 31 200) 7).wr (R.LMAP_A 31 7) 0x02110000#32).p (F.PE_STAT.EN_EFF 31 1) 1).p (F.PE_STAT.EN_EFF 31
      2) 1 |> (fun s => (s.p (F.PE_STAT.EN_EFF 31 1) 1).p (F.PE_STAT.EN_EFF 31 2) 1)) 9 true (dk [])).setHse 31
      { xfer := some ⟨5, 200, 2, 4, true⟩ }, (31 : Nat), (9 : Nat), (⟨5, 200, 2, 4, true⟩ : XferX), (⟨5, 7, dk [], true,
      0, 0⟩ : DescRun), by decide +kernel⟩,
    ⟨(ready.p F.JNL_STAT.REPLAY 0).setHse 31 { queue := [⟨90, 200, 4, 2⟩, ⟨2, 7, 3, 0⟩], flight := [⟨90, 200, 4, 2⟩] } |>
      (fun s => s.modAlc 31 90 (fun a => { a with lastSend := 4 })), (31 : Nat), by decide +kernel⟩,
    ⟨(run_ ready 9 true (dk [])).setHse 31 { xfer := some ⟨5, 200, 2, 4, false⟩ }, (31 : Nat), (9 : Nat), (⟨5, 200, 2, 4,
      false⟩ : XferX), (⟨5, 7, dk [], true, 0, 0⟩ : DescRun), by decide +kernel⟩,
    ⟨ready.p F.BSPI_STAT.BUSY 0, (0x2D660100#32 : Word), by decide +kernel⟩,
    ⟨(ready.p F.BSPI_STAT.BUSY 0).wr (R.BSPI_BUF 0) 0x04030201#32, (0x6D660003#32 : Word), by decide +kernel⟩,
    ⟨ready.p F.BSPI_STAT.BUSY 1, (0x2D660100#32 : Word), by decide +kernel⟩,
    ⟨ready, (0x00000101#32 : Word), by decide +kernel⟩,
    ⟨{ ready.p F.BSPI_STAT.BUSY 1 with bspi := (false, 6) }, (5 : Nat), (6 : Nat), by decide +kernel⟩,
    ⟨{ ready.p F.BSPI_STAT.BUSY 1 with bspi := (true, 6) }, (6 : Nat), by decide +kernel⟩⟩

/-- States and operands that meet the hypotheses of SerialXferAndConfig, clause by clause. -/
theorem test_meets_serial_xfer_and_config :
    (∃ (s : State) (q : Nat) (r : DescRun), Executes s q 17 false r ∧ dUnit r.desc < s.part.halls ∧ s.slice (dUnit r.desc)
      = false ∧ dscBits r.desc 21 2 6 = 0 ∧ dscBits r.desc 22 5 3 = 0 ∧ dscZeroFrom r.desc 23 = true ∧ dAddr r.desc = 0 ∧
      dLen r.desc = 0 ∧ r.owns (dUnit r.desc) = true ∧ s.hseFenced (dUnit r.desc) = false ∧ s.hallRun (dUnit r.desc) =
      false ∧ (s.peh (dUnit r.desc)).touch = none ∧ (s.peh (dUnit r.desc)).ppPhase = 0 ∧ (s.hse (dUnit r.desc)).busy =
      false ∧ s.is (F.HSE_SLOT_A.VALID (dUnit r.desc) (dsc r.desc 20 1)) = true ∧ s.slotValid (dUnit r.desc) (dsc r.desc
      20 1) = true ∧ s.lanesOk (dUnit r.desc) (dsc r.desc 20 1) (dscBits r.desc 22 0 5) = true ∧ s.dryRun = false) ∧
    (∃ (s : State) (q : Nat) (r : DescRun), Executes s q 17 false r ∧ dUnit r.desc < s.part.halls ∧ s.slice (dUnit r.desc)
      = false ∧ dscBits r.desc 21 2 6 = 0 ∧ dscBits r.desc 22 5 3 = 0 ∧ dscZeroFrom r.desc 23 = true ∧ dAddr r.desc = 0 ∧
      dLen r.desc = 0 ∧ r.owns (dUnit r.desc) = true ∧ s.hseFenced (dUnit r.desc) = false ∧ s.hallRun (dUnit r.desc) =
      false ∧ (s.peh (dUnit r.desc)).touch = none ∧ (s.peh (dUnit r.desc)).ppPhase = 0 ∧ (s.hse (dUnit r.desc)).busy =
      false ∧ s.is (F.HSE_SLOT_A.VALID (dUnit r.desc) (dsc r.desc 20 1)) = false) ∧
    (∃ (s : State) (h : Nat) (x : XferX), h < s.part.halls ∧ (s.hse h).xfer = some x) ∧
    (∃ (s : State) (h : Nat) (n : Nat) (k : Nat) (a : Nat) (r : HseReg) (m : Word), Ready s ∧ h < s.part.halls ∧ n < 256 ∧
      k < 8 ∧ (r, a, m) ∈ ([(.slotA n, R.HSE_SLOT_A h n, 0xFFFFFF80#32), (.slotB n, R.HSE_SLOT_B h n, 0xFFFFFF00#32),
      (.slotC n, R.HSE_SLOT_C h n, 0xFFFFFFFF#32), (.slotD n, R.HSE_SLOT_D h n, 0xFFFFFFFF#32), (.lmapA k, R.LMAP_A h k,
      0xFFFFFFFF#32), (.lmapB k, R.LMAP_B h k, 0x7FFF#32)] : List (HseReg × Nat × Word)) ∧ s.hseCfgBusy h = false) ∧
    (∃ (s : State) (h : Nat) (n : Nat) (k : Nat) (a : Nat) (r : HseReg) (m : Word), Ready s ∧ h < s.part.halls ∧ n < 256 ∧
      k < 8 ∧ (r, a, m) ∈ ([(.slotA n, R.HSE_SLOT_A h n, 0xFFFFFF80#32), (.slotB n, R.HSE_SLOT_B h n, 0xFFFFFF00#32),
      (.slotC n, R.HSE_SLOT_C h n, 0xFFFFFFFF#32), (.slotD n, R.HSE_SLOT_D h n, 0xFFFFFFFF#32), (.lmapA k, R.LMAP_A h k,
      0xFFFFFFFF#32), (.lmapB k, R.LMAP_B h k, 0x7FFF#32)] : List (HseReg × Nat × Word)) ∧ s.hseCfgBusy h = true) ∧
    (∃ (s : State) (h : Nat) (v : Word), Ready s ∧ h < s.part.halls ∧ (s.hl h).hold.swapWait = none ∧ (F.HSE_CTL.ABORT
      h).is v = false ∧ (F.HSE_CTL.DIV h).of v ≤ 199 ∧ s.hseCfgBusy h = false) ∧
    (∃ (s : State) (h : Nat) (v : Word), Ready s ∧ h < s.part.halls ∧ (s.hl h).hold.swapWait = none ∧ (F.HSE_CTL.ABORT
      h).is v = false ∧ (F.HSE_CTL.DIV h).of v ≤ 199 ∧ s.hseCfgBusy h = true) ∧
    (∃ (s : State) (h : Nat) (v : Word), Ready s ∧ h < s.part.halls ∧ (s.hl h).hold.swapWait = none ∧ 199 < (F.HSE_CTL.DIV
      h).of v) :=
  ⟨
    ⟨run_ ((((((ready.p (F.UNIT_STATE.STATE 31) 0).p (F.UNIT_STATE.HSE_FENCED 31) 0).wr (R.HSE_SLOT_A 31 200)
      0x87000000#32).p (F.HSE_SLOT_D.LEN 31 200) 12).wr (R.LMAP_A 31 7) 0x02218000#32).p F.JNL_STAT.REPLAY 0) 9 false (dk
      [(0, 16, 17), (24, 8, 31), (160, 8, 200), (168, 2, 2), (176, 5, 4)]), (9 : Nat), (⟨5, 7, dk [(0, 16, 17), (24, 8,
      31), (160, 8, 200), (168, 2, 2), (176, 5, 4)], false, 0, 0⟩ : DescRun), by decide +kernel⟩,
    ⟨run_ (((((ready.p (F.UNIT_STATE.STATE 31) 0).p (F.UNIT_STATE.HSE_FENCED 31) 0).wr (R.HSE_SLOT_A 31 200)
      0x07000000#32).p (F.HSE_SLOT_D.LEN 31 200) 12).wr (R.LMAP_A 31 7) 0x02218000#32) 9 false (dk [(0, 16, 17), (24, 8,
      31), (160, 8, 200), (168, 2, 2), (176, 5, 4)]), (9 : Nat), (⟨5, 7, dk [(0, 16, 17), (24, 8, 31), (160, 8, 200),
      (168, 2, 2), (176, 5, 4)], false, 0, 0⟩ : DescRun), by decide +kernel⟩,
    ⟨ready.setHse 31 { xfer := some ⟨5, 200, 2, 4, false⟩ }, (31 : Nat), (⟨5, 200, 2, 4, false⟩ : XferX),
      by decide +kernel⟩,
    ⟨ready, (31 : Nat), (255 : Nat), (7 : Nat), (R.HSE_SLOT_A 31 255 : Nat), (.slotA 255 : HseReg), (0xFFFFFF80#32 :
      Word), by decide +kernel⟩,
    ⟨ready.setHse 31 { run := some ⟨90, 200, 4, 2⟩ }, (31 : Nat), (255 : Nat), (7 : Nat), (R.HSE_SLOT_C 31 255 : Nat),
      (.slotC 255 : HseReg), (0xFFFFFFFF#32 : Word), by decide +kernel⟩,
    ⟨ready.modHl 31 (fun x => { x with hold := { x.hold with swapWait := none } }), (31 : Nat), (0x7FFFFFC7#32 &&&
      0x7FFF1FC7#32 : Word), by decide +kernel⟩,
    ⟨ready.setHse 31 { run := some ⟨90, 200, 4, 2⟩ }, (31 : Nat), (1#32 : Word), by decide +kernel⟩,
    ⟨ready, (31 : Nat), (0x80000000#32 ||| BitVec.ofNat 32 (200 * 2 ^ (F.HSE_CTL.DIV 0).lo) : Word), by decide +kernel⟩⟩

/-- States and operands that meet the hypotheses of StairRuns, clause by clause. -/
theorem test_meets_stair_runs :
    (∃ (s : State) (h : Nat) (k : Nat) (m : Member) (x : Member), Serves s h (pack [(58, 6, 0x00)]) m ∧ InCohort s h k
      0x00 m x) ∧
    (∃ (s : State) (h : Nat) (k : Nat) (m : Member) (x : Member) (mode : Nat) (mask : Nat) (target : Nat), Serves s h
      (pack [(58, 6, 0x08), (56, 2, mode), (16, 32, mask), (0, 16, target)]) m ∧ InCohort s h k 0x08 m x ∧ mode < 4 ∧ mask
      < 2 ^ 32 ∧ target < 2 ^ 16) ∧
    (∃ (s : State) (h : Nat) (k : Nat) (m : Member) (x : Member) (target : Nat), Serves s h (pack [(58, 6, 0x06), (0, 16,
      target)]) m ∧ InCohort s h k 0x06 m x ∧ target < 2 ^ 16 ∧ x.ctx.stack.length < 8) ∧
    (∃ (s : State) (h : Nat) (k : Nat) (m : Member) (x : Member) (target : Nat), Serves s h (pack [(58, 6, 0x06), (0, 16,
      target)]) m ∧ InCohort s h k 0x06 m x ∧ target < 2 ^ 16 ∧ 8 ≤ x.ctx.stack.length) ∧
    (∃ (s : State) (h : Nat) (k : Nat) (m : Member) (x : Member) (r : Nat) (rest : List Frame), Serves s h (pack [(58, 6,
      0x07)]) m ∧ InCohort s h k 0x07 m x ∧ x.ctx.stack = .call r :: rest) ∧
    (∃ (s : State) (h : Nat) (k : Nat) (m : Member) (x : Member), Serves s h (pack [(58, 6, 0x07)]) m ∧ InCohort s h k
      0x07 m x ∧ (match x.ctx.stack with | .call _ :: _ => true | _ => false) = false) ∧
    (∃ (s : State) (h : Nat) (k : Nat) (m : Member) (x : Member) (e : Nat) (n : Nat), Serves s h (pack [(58, 6, 0x04),
      (57, 1, 0), (32, 16, e), (0, 32, n)]) m ∧ InCohort s h k 0x04 m x ∧ e < 2 ^ 16 ∧ n < 2 ^ 32 ∧ n ≠ 0 ∧
      x.ctx.stack.length < 8) ∧
    (∃ (s : State) (h : Nat) (k : Nat) (m : Member) (x : Member) (e : Nat), Serves s h (pack [(58, 6, 0x04), (57, 1, 0),
      (32, 16, e)]) m ∧ InCohort s h k 0x04 m x ∧ e < 2 ^ 16) ∧
    (∃ (s : State) (h : Nat) (k : Nat) (m : Member) (x : Member) (c : Nat) (e : Nat), Serves s h (pack [(58, 6, 0x04),
      (57, 1, 1), (55, 2, c), (32, 16, e)]) m ∧ InCohort s h k 0x04 m x ∧ e < 2 ^ 16 ∧ c < 4 ∧ x.ctx.cnt.getD c 0 ≠ 0 ∧
      x.ctx.stack.length < 8) ∧
    (∃ (s : State) (h : Nat) (k : Nat) (m : Member) (x : Member) (c : Nat) (e : Nat), Serves s h (pack [(58, 6, 0x04),
      (57, 1, 1), (55, 2, c), (32, 16, e)]) m ∧ InCohort s h k 0x04 m x ∧ e < 2 ^ 16 ∧ c < 4 ∧ x.ctx.cnt.getD c 0 = 0) ∧
    (∃ (s : State) (h : Nat) (k : Nat) (m : Member) (x : Member) (e : Nat) (n : Nat), Serves s h (pack [(58, 6, 0x04),
      (57, 1, 0), (32, 16, e), (0, 32, n)]) m ∧ InCohort s h k 0x04 m x ∧ e < 2 ^ 16 ∧ n < 2 ^ 32 ∧ n ≠ 0 ∧ 8 ≤
      x.ctx.stack.length) ∧
    (∃ (s : State) (h : Nat) (k : Nat) (m : Member) (x : Member) (a : Nat) (e : Nat) (n : Nat) (refs : List Nat) (rest :
      List Frame), Serves s h (pack [(58, 6, 0x05)]) m ∧ InCohort s h k 0x05 m x ∧ x.ctx.stack = .loop a e n refs :: rest
      ∧ 1 < n) ∧
    (∃ (s : State) (h : Nat) (k : Nat) (m : Member) (x : Member) (a : Nat) (e : Nat) (n : Nat) (refs : List Nat) (rest :
      List Frame), Serves s h (pack [(58, 6, 0x05)]) m ∧ InCohort s h k 0x05 m x ∧ x.ctx.stack = .loop a e n refs :: rest
      ∧ n ≤ 1) ∧
    (∃ (s : State) (h : Nat) (k : Nat) (m : Member) (x : Member), Serves s h (pack [(58, 6, 0x05)]) m ∧ InCohort s h k
      0x05 m x ∧ (match x.ctx.stack with | .loop _ _ _ _ :: _ => true | _ => false) = false) ∧
    (∃ (s : State) (h : Nat) (k : Nat) (m : Member) (x : Member), Serves s h (pack [(58, 6, 0x00), (0, 1, 1)]) m ∧
      InCohort s h k 0x00 m x) ∧
    (∃ (s : State) (h : Nat) (k : Nat) (op : Nat) (v : Nat) (m : Member) (x : Member), 0x17 ≤ op ∧ op < 64 ∧ v < 2 ^ 58 ∧
      Serves s h (2 ^ 58 * op + v) m ∧ InCohort s h k op m x) ∧
    (∃ (s : State) (h : Nat) (k : Nat) (x : Member), h < s.part.halls ∧ (s.hl h).eng.run = true ∧ s.fenced h = false ∧
      (s.hl h).eng.xfaults = [] ∧ s.g (F.STAIR_STAT.SEALED h) = 0xFFFF ∧ MemberIs s h k x ∧ x.st = .run ∧ 64 ≤ x.n) ∧
    (∃ (s : State) (h : Nat) (k : Nat) (m : Member) (x : Member), Serves s h (pack [(58, 6, 0x01)]) m ∧ InCohort s h k
      0x01 m x) ∧
    (∃ (s : State) (h : Nat) (k : Nat) (m : Member) (x : Member) (f : Nat), Serves s h (pack [(58, 6, 0x02), (0, 12, f)])
      m ∧ InCohort s h k 0x02 m x ∧ f < 4096) ∧
    (∃ (s : State) (h : Nat) (k : Nat) (m : Member) (x : Member), Serves s h (pack [(58, 6, 0x15)]) m ∧ InCohort s h k
      0x15 m x) ∧
    (∃ (s : State) (h : Nat) (k : Nat) (m : Member) (x : Member) (mode : Nat) (cnt : Nat) (f : Nat) (mask : Nat), Serves s
      h (pack [(58, 6, 0x03), (56, 2, mode), (44, 12, cnt), (32, 12, f), (0, 32, mask)]) m ∧ InCohort s h k 0x03 m x ∧
      mode < 4 ∧ cnt < 4096 ∧ f < 4096 ∧ mask < 2 ^ 32 ∧ (x.ctx.rep = 0 ∨ (condTest mode mask x.word = false ∧ x.ctx.rep <
      cnt + 1))) ∧
    (∃ (s : State) (h : Nat) (k : Nat) (m : Member) (x : Member) (mode : Nat) (cnt : Nat) (f : Nat) (mask : Nat), Serves s
      h (pack [(58, 6, 0x03), (56, 2, mode), (44, 12, cnt), (32, 12, f), (0, 32, mask)]) m ∧ InCohort s h k 0x03 m x ∧
      mode < 4 ∧ cnt < 4096 ∧ f < 4096 ∧ mask < 2 ^ 32 ∧ x.ctx.rep ≠ 0 ∧ (condTest mode mask x.word = true ∨ cnt + 1 ≤
      x.ctx.rep)) ∧
    (∃ (s : State) (h : Nat) (k : Nat) (m : Member) (x : Member) (mode : Nat) (tmo : Nat) (mask : Nat) (target : Nat),
      Serves s h (pack [(58, 6, 0x09), (56, 2, mode), (48, 8, tmo), (16, 32, mask), (0, 16, target)]) m ∧ InCohort s h k
      0x09 m x ∧ mode < 4 ∧ tmo < 256 ∧ mask < 2 ^ 32 ∧ target < 2 ^ 16 ∧ condTest mode mask x.word = true) ∧
    (∃ (s : State) (h : Nat) (k : Nat) (m : Member) (x : Member) (mode : Nat) (tmo : Nat) (mask : Nat) (target : Nat),
      Serves s h (pack [(58, 6, 0x09), (56, 2, mode), (48, 8, tmo), (16, 32, mask), (0, 16, target)]) m ∧ InCohort s h k
      0x09 m x ∧ mode < 4 ∧ tmo < 256 ∧ mask < 2 ^ 32 ∧ target < 2 ^ 16 ∧ condTest mode mask x.word = false) ∧
    (∃ (s : State) (h : Nat) (k : Nat) (m : Member) (x : Member) (mode : Nat) (line : Nat) (mask : Nat) (target : Nat),
      Serves s h (pack [(58, 6, 0x0C), (56, 2, mode), (53, 3, line), (16, 32, mask), (0, 16, target)]) m ∧ InCohort s h k
      0x0C m x ∧ mode < 4 ∧ line < 8 ∧ mask < 2 ^ 32 ∧ target < 2 ^ 16) :=
  ⟨
    ⟨(stairW ready (pack [(58, 6, 0x00)]) { pc := 5 }), (31 : Nat), (1 : Nat),
      ({ i := 90, ctx := { pc := 5 }, cond := 0xF1234, win := 3, n := 5 } : Member),
      ({ i := 90, ctx := { pc := 5 }, cond := 0xF1234, win := 3, n := 5 } : Member), by decide +kernel⟩,
    ⟨(stairW ready (pack [(58, 6, 0x08), (56, 2, 1), (16, 32, 0x10000030), (0, 16, 65535)])
      { pc := 5, stack := [.loop 2 9 4 [7], .call 77], cnt := [5, 0, 9, 4294967290], acc := [0, -7, 2147483647, 3], rep :=
          2 }), (31 : Nat), (1 : Nat),
      ({ i := 90, ctx := { pc := 5, stack := [.loop 2 9 4 [7], .call 77], cnt := [5, 0, 9, 4294967290], acc := [0, -7,
                             2147483647, 3], rep := 2 }, cond := 0xF1234, win := 3, n := 5 } : Member),
      ({ i := 90, ctx := { pc := 5, stack := [.loop 2 9 4 [7], .call 77], cnt := [5, 0, 9, 4294967290], acc := [0, -7,
                             2147483647, 3], rep := 2 }, cond := 0xF1234, win := 3, n := 5 } : Member), (1 : Nat),
      (0x10000030 : Nat), (65535 : Nat), by decide +kernel⟩,
    ⟨(stairW ready (pack [(58, 6, 0x06), (0, 16, 65535)])
      { pc := 5, stack := [.loop 2 9 4 [7], .call 77], cnt := [5, 0, 9, 4294967290], acc := [0, -7, 2147483647, 3], rep :=
          2 }), (31 : Nat), (1 : Nat),
      ({ i := 90, ctx := { pc := 5, stack := [.loop 2 9 4 [7], .call 77], cnt := [5, 0, 9, 4294967290], acc := [0, -7,
                             2147483647, 3], rep := 2 }, cond := 0xF1234, win := 3, n := 5 } : Member),
      ({ i := 90, ctx := { pc := 5, stack := [.loop 2 9 4 [7], .call 77], cnt := [5, 0, 9, 4294967290], acc := [0, -7,
                             2147483647, 3], rep := 2 }, cond := 0xF1234, win := 3, n := 5 } : Member), (65535 : Nat),
      by decide +kernel⟩,
    ⟨(stairW ready (pack [(58, 6, 0x06), (0, 16, 65535)]) { pc := 5, stack := List.replicate 8 (.call 3) }), (31 : Nat),
      (1 : Nat), ({ i := 90, ctx := { pc := 5, stack := List.replicate 8 (.call 3) }, cond := 0xF1234, win := 3, n := 5 }
      : Member), ({ i := 90, ctx := { pc := 5, stack := List.replicate 8 (.call 3) }, cond := 0xF1234, win := 3, n := 5 }
      : Member), (65535 : Nat), by decide +kernel⟩,
    ⟨(stairW ready (pack [(58, 6, 0x07)]) { pc := 5, stack := [.call 77, .loop 2 9 4 [7]] }), (31 : Nat), (1 : Nat),
      ({ i := 90, ctx := { pc := 5, stack := [.call 77, .loop 2 9 4 [7]] }, cond := 0xF1234, win := 3, n := 5 } : Member),
      ({ i := 90, ctx := { pc := 5, stack := [.call 77, .loop 2 9 4 [7]] }, cond := 0xF1234, win := 3, n := 5 } : Member),
      (77 : Nat), ([.loop 2 9 4 [7]] : List Frame), by decide +kernel⟩,
    ⟨(stairW ready (pack [(58, 6, 0x07)]) { pc := 5, stack := [.loop 2 9 4 [7]] }), (31 : Nat), (1 : Nat),
      ({ i := 90, ctx := { pc := 5, stack := [.loop 2 9 4 [7]] }, cond := 0xF1234, win := 3, n := 5 } : Member),
      ({ i := 90, ctx := { pc := 5, stack := [.loop 2 9 4 [7]] }, cond := 0xF1234, win := 3, n := 5 } : Member),
      by decide +kernel⟩,
    ⟨(stairW ready (pack [(58, 6, 0x04), (57, 1, 0), (32, 16, 65535), (0, 32, 4294967295)])
      { pc := 5, stack := [.loop 2 9 4 [7], .call 77], cnt := [5, 0, 9, 4294967290], acc := [0, -7, 2147483647, 3], rep :=
          2 }), (31 : Nat), (1 : Nat),
      ({ i := 90, ctx := { pc := 5, stack := [.loop 2 9 4 [7], .call 77], cnt := [5, 0, 9, 4294967290], acc := [0, -7,
                             2147483647, 3], rep := 2 }, cond := 0xF1234, win := 3, n := 5 } : Member),
      ({ i := 90, ctx := { pc := 5, stack := [.loop 2 9 4 [7], .call 77], cnt := [5, 0, 9, 4294967290], acc := [0, -7,
                             2147483647, 3], rep := 2 }, cond := 0xF1234, win := 3, n := 5 } : Member), (65535 : Nat),
      (4294967295 : Nat), by decide +kernel⟩,
    ⟨(stairW ready (pack [(58, 6, 0x04), (57, 1, 0), (32, 16, 65535)])
      { pc := 5, stack := [.loop 2 9 4 [7], .call 77], cnt := [5, 0, 9, 4294967290], acc := [0, -7, 2147483647, 3], rep :=
          2 }), (31 : Nat), (1 : Nat),
      ({ i := 90, ctx := { pc := 5, stack := [.loop 2 9 4 [7], .call 77], cnt := [5, 0, 9, 4294967290], acc := [0, -7,
                             2147483647, 3], rep := 2 }, cond := 0xF1234, win := 3, n := 5 } : Member),
      ({ i := 90, ctx := { pc := 5, stack := [.loop 2 9 4 [7], .call 77], cnt := [5, 0, 9, 4294967290], acc := [0, -7,
                             2147483647, 3], rep := 2 }, cond := 0xF1234, win := 3, n := 5 } : Member), (65535 : Nat),
      by decide +kernel⟩,
    ⟨(stairW ready (pack [(58, 6, 0x04), (57, 1, 1), (55, 2, 2), (32, 16, 65535)])
      { pc := 5, stack := [.loop 2 9 4 [7], .call 77], cnt := [5, 0, 9, 4294967290], acc := [0, -7, 2147483647, 3], rep :=
          2 }), (31 : Nat), (1 : Nat),
      ({ i := 90, ctx := { pc := 5, stack := [.loop 2 9 4 [7], .call 77], cnt := [5, 0, 9, 4294967290], acc := [0, -7,
                             2147483647, 3], rep := 2 }, cond := 0xF1234, win := 3, n := 5 } : Member),
      ({ i := 90, ctx := { pc := 5, stack := [.loop 2 9 4 [7], .call 77], cnt := [5, 0, 9, 4294967290], acc := [0, -7,
                             2147483647, 3], rep := 2 }, cond := 0xF1234, win := 3, n := 5 } : Member), (2 : Nat), (65535
      : Nat), by decide +kernel⟩,
    ⟨(stairW ready (pack [(58, 6, 0x04), (57, 1, 1), (55, 2, 1), (32, 16, 65535)])
      { pc := 5, stack := [.loop 2 9 4 [7], .call 77], cnt := [5, 0, 9, 4294967290], acc := [0, -7, 2147483647, 3], rep :=
          2 }), (31 : Nat), (1 : Nat),
      ({ i := 90, ctx := { pc := 5, stack := [.loop 2 9 4 [7], .call 77], cnt := [5, 0, 9, 4294967290], acc := [0, -7,
                             2147483647, 3], rep := 2 }, cond := 0xF1234, win := 3, n := 5 } : Member),
      ({ i := 90, ctx := { pc := 5, stack := [.loop 2 9 4 [7], .call 77], cnt := [5, 0, 9, 4294967290], acc := [0, -7,
                             2147483647, 3], rep := 2 }, cond := 0xF1234, win := 3, n := 5 } : Member), (1 : Nat), (65535
      : Nat), by decide +kernel⟩,
    ⟨(stairW ready (pack [(58, 6, 0x04), (57, 1, 0), (32, 16, 9), (0, 32, 2)])
      { pc := 5, stack := List.replicate 8 (.call 3) }), (31 : Nat), (1 : Nat),
      ({ i := 90, ctx := { pc := 5, stack := List.replicate 8 (.call 3) }, cond := 0xF1234, win := 3, n := 5 } : Member),
      ({ i := 90, ctx := { pc := 5, stack := List.replicate 8 (.call 3) }, cond := 0xF1234, win := 3, n := 5 } : Member),
      (9 : Nat), (2 : Nat), by decide +kernel⟩,
    ⟨(stairW ready (pack [(58, 6, 0x05)])
      { pc := 5, stack := [.loop 2 9 4 [7], .call 77], cnt := [5, 0, 9, 4294967290], acc := [0, -7, 2147483647, 3], rep :=
          2 }), (31 : Nat), (1 : Nat),
      ({ i := 90, ctx := { pc := 5, stack := [.loop 2 9 4 [7], .call 77], cnt := [5, 0, 9, 4294967290], acc := [0, -7,
                             2147483647, 3], rep := 2 }, cond := 0xF1234, win := 3, n := 5 } : Member),
      ({ i := 90, ctx := { pc := 5, stack := [.loop 2 9 4 [7], .call 77], cnt := [5, 0, 9, 4294967290], acc := [0, -7,
                             2147483647, 3], rep := 2 }, cond := 0xF1234, win := 3, n := 5 } : Member), (2 : Nat), (9 :
      Nat), (4 : Nat), ([7] : List Nat), ([.call 77] : List Frame), by decide +kernel⟩,
    ⟨(stairW ready (pack [(58, 6, 0x05)]) { pc := 5, stack := [.loop 2 5 1 [7], .call 77] }), (31 : Nat), (1 : Nat),
      ({ i := 90, ctx := { pc := 5, stack := [.loop 2 5 1 [7], .call 77] }, cond := 0xF1234, win := 3, n := 5 } : Member),
      ({ i := 90, ctx := { pc := 5, stack := [.loop 2 5 1 [7], .call 77] }, cond := 0xF1234, win := 3, n := 5 } : Member),
      (2 : Nat), (5 : Nat), (1 : Nat), ([7] : List Nat), ([.call 77] : List Frame), by decide +kernel⟩,
    ⟨(stairW ready (pack [(58, 6, 0x05)]) { pc := 5, stack := [.call 77] }), (31 : Nat), (1 : Nat),
      ({ i := 90, ctx := { pc := 5, stack := [.call 77] }, cond := 0xF1234, win := 3, n := 5 } : Member),
      ({ i := 90, ctx := { pc := 5, stack := [.call 77] }, cond := 0xF1234, win := 3, n := 5 } : Member),
      by decide +kernel⟩,
    ⟨(stairW ready (pack [(58, 6, 0x00), (0, 1, 1)]) { pc := 5 }), (31 : Nat), (1 : Nat),
      ({ i := 90, ctx := { pc := 5 }, cond := 0xF1234, win := 3, n := 5 } : Member),
      ({ i := 90, ctx := { pc := 5 }, cond := 0xF1234, win := 3, n := 5 } : Member), by decide +kernel⟩,
    ⟨stairW ready (2 ^ 58 * 0x3F + 7) {}, (31 : Nat), (1 : Nat), (0x3F : Nat), (7 : Nat),
      ({ i := 90, ctx := {}, cond := 0xF1234, win := 3, n := 5 } : Member),
      ({ i := 90, ctx := {}, cond := 0xF1234, win := 3, n := 5 } : Member), by decide +kernel⟩,
    ⟨(stairW ready 0 {}).modEng 31 (fun e =>
      { e with members := [{ i := 1, ctx := { pc := 9 }, cond := 0, win := 0, n := 63 }, { i := 2, ctx := { pc := 8 },
                                                                                             cond := 0, win := 0, n := 64
                                                                                             }] }), (31 : Nat), (1 : Nat),
      ({ i := 2, ctx := { pc := 8 }, cond := 0, win := 0, n := 64 } : Member), by decide +kernel⟩,
    ⟨(stairW ready (pack [(58, 6, 0x01)]) { pc := 5 }), (31 : Nat), (1 : Nat),
      ({ i := 90, ctx := { pc := 5 }, cond := 0xF1234, win := 3, n := 5 } : Member),
      ({ i := 90, ctx := { pc := 5 }, cond := 0xF1234, win := 3, n := 5 } : Member), by decide +kernel⟩,
    ⟨(stairW ready (pack [(58, 6, 0x02), (0, 12, 4095)]) { pc := 5 }), (31 : Nat), (1 : Nat),
      ({ i := 90, ctx := { pc := 5 }, cond := 0xF1234, win := 3, n := 5 } : Member),
      ({ i := 90, ctx := { pc := 5 }, cond := 0xF1234, win := 3, n := 5 } : Member), (4095 : Nat), by decide +kernel⟩,
    ⟨(stairW ready (pack [(58, 6, 0x15)]) { pc := 5 }), (31 : Nat), (1 : Nat),
      ({ i := 90, ctx := { pc := 5 }, cond := 0xF1234, win := 3, n := 5 } : Member),
      ({ i := 90, ctx := { pc := 5 }, cond := 0xF1234, win := 3, n := 5 } : Member), by decide +kernel⟩,
    ⟨(stairW ready (pack [(58, 6, 0x03), (56, 2, 3), (44, 12, 2), (32, 12, 4095), (0, 32, 0xF1234)])
      { pc := 5, rep := 2, cnt := [1, 1, 1, 1] }), (31 : Nat), (1 : Nat),
      ({ i := 90, ctx := { pc := 5, rep := 2, cnt := [1, 1, 1, 1] }, cond := 0xF1234, win := 3, n := 5 } : Member),
      ({ i := 90, ctx := { pc := 5, rep := 2, cnt := [1, 1, 1, 1] }, cond := 0xF1234, win := 3, n := 5 } : Member), (3 :
      Nat), (2 : Nat), (4095 : Nat), (0xF1234 : Nat), by decide +kernel⟩,
    ⟨(stairW ready (pack [(58, 6, 0x03), (56, 2, 3), (44, 12, 1), (32, 12, 4095), (0, 32, 0xF1234)])
      { pc := 5, rep := 2, cnt := [1, 1, 1, 1] }), (31 : Nat), (1 : Nat),
      ({ i := 90, ctx := { pc := 5, rep := 2, cnt := [1, 1, 1, 1] }, cond := 0xF1234, win := 3, n := 5 } : Member),
      ({ i := 90, ctx := { pc := 5, rep := 2, cnt := [1, 1, 1, 1] }, cond := 0xF1234, win := 3, n := 5 } : Member), (3 :
      Nat), (1 : Nat), (4095 : Nat), (0xF1234 : Nat), by decide +kernel⟩,
    ⟨(stairW ready (pack [(58, 6, 0x09), (56, 2, 1), (48, 8, 9), (16, 32, 0x10000030), (0, 16, 65535)]) { pc := 5 }), (31
      : Nat), (1 : Nat), ({ i := 90, ctx := { pc := 5 }, cond := 0xF1234, win := 3, n := 5 } : Member),
      ({ i := 90, ctx := { pc := 5 }, cond := 0xF1234, win := 3, n := 5 } : Member), (1 : Nat), (9 : Nat), (0x10000030 :
      Nat), (65535 : Nat), by decide +kernel⟩,
    ⟨(stairW ready (pack [(58, 6, 0x09), (56, 2, 2), (48, 8, 255), (16, 32, 0x10000030), (0, 16, 65535)]) { pc := 5 }),
      (31 : Nat), (1 : Nat), ({ i := 90, ctx := { pc := 5 }, cond := 0xF1234, win := 3, n := 5 } : Member),
      ({ i := 90, ctx := { pc := 5 }, cond := 0xF1234, win := 3, n := 5 } : Member), (2 : Nat), (255 : Nat), (0x10000030 :
      Nat), (65535 : Nat), by decide +kernel⟩,
    ⟨(stairW ready (pack [(58, 6, 0x0C), (56, 2, 1), (53, 3, 7), (16, 32, 0x10000030), (0, 16, 65535)]) { pc := 5 }), (31
      : Nat), (1 : Nat), ({ i := 90, ctx := { pc := 5 }, cond := 0xF1234, win := 3, n := 5 } : Member),
      ({ i := 90, ctx := { pc := 5 }, cond := 0xF1234, win := 3, n := 5 } : Member), (1 : Nat), (7 : Nat), (0x10000030 :
      Nat), (65535 : Nat), by decide +kernel⟩⟩

/-- States and operands that meet the hypotheses of StairEffects, clause by clause. -/
theorem test_meets_stair_effects :
    (∃ (s : State) (h : Nat) (k : Nat) (m : Member) (x : Member) (v : Nat), Serves s h (pack [(58, 6, 0x0A), (0, 6, v)]) m
      ∧ InCohort s h k 0x0A m x ∧ v < 64) ∧
    (∃ (s : State) (h : Nat) (k : Nat) (m : Member) (x : Member) (v : Nat), Serves s h (pack [(58, 6, 0x0D), (0, 6, v)]) m
      ∧ InCohort s h k 0x0D m x ∧ v < 64) ∧
    (∃ (s : State) (h : Nat) (k : Nat) (m : Member) (x : Member) (v : Nat), Serves s h (pack [(58, 6, 0x0B), (0, 48, v)])
      m ∧ InCohort s h k 0x0B m x ∧ v < 2 ^ 48) ∧
    (∃ (s : State) (h : Nat) (k : Nat) (m : Member) (x : Member) (v : Nat), Serves s h (pack [(58, 6, 0x16), (0, 32, v)])
      m ∧ InCohort s h k 0x16 m x ∧ v < 2 ^ 32 ∧ v ≠ 0) ∧
    (∃ (s : State) (h : Nat) (k : Nat) (m : Member) (x : Member), Serves s h (pack [(58, 6, 0x16)]) m ∧ InCohort s h k
      0x16 m x) ∧
    (∃ (s : State) (h : Nat) (k : Nat) (m : Member) (x : Member) (v : Nat), Serves s h (pack [(58, 6, 0x11), (0, 3, v)]) m
      ∧ InCohort s h k 0x11 m x ∧ v < 8) ∧
    (∃ (s : State) (h : Nat) (k : Nat) (m : Member) (x : Member) (v : Nat), Serves s h (pack [(58, 6, 0x0F), (0, 6, v)]) m
      ∧ InCohort s h k 0x0F m x ∧ v < 64 ∧ s.is (F.TDC_SET_A.VALID h v) = true ∧ loopEndWrong m 0x0F = false) ∧
    (∃ (s : State) (h : Nat) (k : Nat) (m : Member) (x : Member) (v : Nat), Serves s h (pack [(58, 6, 0x0F), (0, 6, v)]) m
      ∧ InCohort s h k 0x0F m x ∧ v < 64 ∧ s.is (F.TDC_SET_A.VALID h v) = false) ∧
    (∃ (s : State) (h : Nat) (k : Nat) (m : Member) (x : Member) (v : Nat), Serves s h (pack [(58, 6, 0x0E), (0, 8, v)]) m
      ∧ InCohort s h k 0x0E m x ∧ v < 256 ∧ s.is (F.HSE_SLOT_A.VALID h v) = true ∧ s.slotValid h v = true ∧ s.lanesOk h v
      (lowestSlot (s.alc h x.i).own) = true ∧ (s.alc h x.i).own ≠ 0) ∧
    (∃ (s : State) (h : Nat) (k : Nat) (m : Member) (x : Member) (v : Nat), Serves s h (pack [(58, 6, 0x0E), (0, 8, v)]) m
      ∧ InCohort s h k 0x0E m x ∧ v < 256 ∧ s.is (F.HSE_SLOT_A.VALID h v) = false) ∧
    (∃ (s : State) (h : Nat) (k : Nat) (m : Member) (x : Member) (v : Nat), Serves s h (pack [(58, 6, 0x0E), (0, 8, v)]) m
      ∧ InCohort s h k 0x0E m x ∧ v < 256 ∧ s.is (F.HSE_SLOT_A.VALID h v) = true ∧ ((s.alc h x.i).own = 0 ∧ s.is
      (F.LMAP_A.REL h (s.g (F.HSE_SLOT_A.LMAP h v))) = true ∨ s.lanesOk h v (lowestSlot (s.alc h x.i).own) = false ∨
      s.slotValid h v = false)) ∧
    (∃ (s : State) (h : Nat) (k : Nat) (m : Member) (x : Member) (ch : Nat) (v : Nat), Serves s h (pack [(58, 6, 0x10),
      (52, 6, ch), (48, 4, v)]) m ∧ InCohort s h k 0x10 m x ∧ ch < 64 ∧ v < 16 ∧ s.smuOk ch = true ∧ s.is
      (F.MSET_CFG.VALID (ch / 4) v) = true ∧ s.measUnclaimed h x.i ch v = false) ∧
    (∃ (s : State) (h : Nat) (k : Nat) (m : Member) (x : Member) (ch : Nat) (v : Nat), Serves s h (pack [(58, 6, 0x10),
      (52, 6, ch), (48, 4, v)]) m ∧ InCohort s h k 0x10 m x ∧ ch < 64 ∧ v < 16 ∧ (s.smuOk ch = false ∨ s.is
      (F.MSET_CFG.VALID (ch / 4) v) = false)) ∧
    (∃ (s : State) (h : Nat) (k : Nat) (m : Member) (x : Member) (ch : Nat) (v : Nat), Serves s h (pack [(58, 6, 0x10),
      (52, 6, ch), (48, 4, v)]) m ∧ InCohort s h k 0x10 m x ∧ ch < 64 ∧ v < 16 ∧ s.smuOk ch = true ∧ s.is
      (F.MSET_CFG.VALID (ch / 4) v) = true ∧ s.measUnclaimed h x.i ch v = true) ∧
    (∃ (s : State) (h : Nat) (k : Nat) (m : Member) (x : Member) (c : Nat) (v : Nat), Serves s h (pack [(58, 6, 0x12),
      (55, 3, 0), (53, 2, c), (0, 32, v)]) m ∧ InCohort s h k 0x12 m x ∧ c < 4 ∧ v < 2 ^ 32) ∧
    (∃ (s : State) (h : Nat) (k : Nat) (m : Member) (x : Member) (c : Nat) (v : Nat), Serves s h (pack [(58, 6, 0x12),
      (55, 3, 1), (53, 2, c), (0, 32, v)]) m ∧ InCohort s h k 0x12 m x ∧ c < 4 ∧ v < 2 ^ 32) ∧
    (∃ (s : State) (h : Nat) (k : Nat) (m : Member) (x : Member) (c : Nat) (v : Nat), Serves s h (pack [(58, 6, 0x12),
      (55, 3, 1), (53, 2, c), (0, 32, v)]) m ∧ InCohort s h k 0x12 m x ∧ c < 4 ∧ v < 2 ^ 32 ∧ (x.ctx.cnt.getD c 0 : Int) +
      signed 32 v < 0) ∧
    (∃ (s : State) (h : Nat) (k : Nat) (m : Member) (x : Member) (c : Nat), Serves s h (pack [(58, 6, 0x12), (55, 3, 2),
      (53, 2, c)]) m ∧ InCohort s h k 0x12 m x ∧ c < 4) ∧
    (∃ (s : State) (h : Nat) (k : Nat) (m : Member) (x : Member) (c : Nat), Serves s h (pack [(58, 6, 0x12), (55, 3, 3),
      (53, 2, c)]) m ∧ InCohort s h k 0x12 m x ∧ c < 4) ∧
    (∃ (s : State) (h : Nat) (k : Nat) (m : Member) (x : Member) (c : Nat) (v : Nat), Serves s h (pack [(58, 6, 0x12),
      (55, 3, 4), (53, 2, c), (0, 32, v)]) m ∧ InCohort s h k 0x12 m x ∧ c < 4 ∧ v < 2 ^ 32) ∧
    (∃ (s : State) (h : Nat) (k : Nat) (m : Member) (x : Member) (c : Nat) (v : Nat), Serves s h (pack [(58, 6, 0x12),
      (55, 3, 5), (53, 2, c), (0, 32, v)]) m ∧ InCohort s h k 0x12 m x ∧ c < 4 ∧ v < 2 ^ 32) ∧
    (∃ (s : State) (h : Nat) (k : Nat) (m : Member) (x : Member) (o : Nat) (c : Nat) (v : Nat), Serves s h (pack [(58, 6,
      0x12), (55, 3, o), (53, 2, c), (0, 32, v)]) m ∧ InCohort s h k 0x12 m x ∧ 6 ≤ o ∧ o < 8 ∧ c < 4 ∧ v < 2 ^ 32) ∧
    (∃ (s : State) (h : Nat) (k : Nat) (m : Member) (x : Member) (c : Nat) (v : Nat), Serves s h (pack [(58, 6, 0x13),
      (57, 1, c), (0, 16, v)]) m ∧ InCohort s h k 0x13 m x ∧ c < 2 ∧ v < 2 ^ 16) ∧
    (∃ (s : State) (h : Nat) (k : Nat) (m : Member) (x : Member) (o : Nat) (v : Nat), Serves s h (pack [(58, 6, 0x14),
      (56, 2, o), (0, 8, v)]) m ∧ InCohort s h k 0x14 m x ∧ o < 3 ∧ v < 256) ∧
    (∃ (s : State) (h : Nat) (k : Nat) (m : Member) (x : Member) (v : Nat), Serves s h (pack [(58, 6, 0x14), (56, 2, 3),
      (0, 8, v)]) m ∧ InCohort s h k 0x14 m x ∧ v < 256) :=
  ⟨
    ⟨(stairW ready (pack [(58, 6, 0x0A), (0, 6, 63)]) { pc := 5 }), (31 : Nat), (1 : Nat),
      ({ i := 90, ctx := { pc := 5 }, cond := 0xF1234, win := 3, n := 5 } : Member),
      ({ i := 90, ctx := { pc := 5 }, cond := 0xF1234, win := 3, n := 5 } : Member), (63 : Nat), by decide +kernel⟩,
    ⟨(stairW ready (pack [(58, 6, 0x0D), (0, 6, 63)]) { pc := 5 }), (31 : Nat), (1 : Nat),
      ({ i := 90, ctx := { pc := 5 }, cond := 0xF1234, win := 3, n := 5 } : Member),
      ({ i := 90, ctx := { pc := 5 }, cond := 0xF1234, win := 3, n := 5 } : Member), (63 : Nat), by decide +kernel⟩,
    ⟨(stairW ready (pack [(58, 6, 0x0B), (0, 48, 2 ^ 48 - 1)]) { pc := 5 }), (31 : Nat), (1 : Nat),
      ({ i := 90, ctx := { pc := 5 }, cond := 0xF1234, win := 3, n := 5 } : Member),
      ({ i := 90, ctx := { pc := 5 }, cond := 0xF1234, win := 3, n := 5 } : Member), (2 ^ 48 - 1 : Nat),
      by decide +kernel⟩,
    ⟨(stairW ready (pack [(58, 6, 0x16), (0, 32, 2 ^ 32 - 1)]) { pc := 5 }), (31 : Nat), (1 : Nat),
      ({ i := 90, ctx := { pc := 5 }, cond := 0xF1234, win := 3, n := 5 } : Member),
      ({ i := 90, ctx := { pc := 5 }, cond := 0xF1234, win := 3, n := 5 } : Member), (2 ^ 32 - 1 : Nat),
      by decide +kernel⟩,
    ⟨(stairW ready (pack [(58, 6, 0x16)]) { pc := 5 }), (31 : Nat), (1 : Nat),
      ({ i := 90, ctx := { pc := 5 }, cond := 0xF1234, win := 3, n := 5 } : Member),
      ({ i := 90, ctx := { pc := 5 }, cond := 0xF1234, win := 3, n := 5 } : Member), by decide +kernel⟩,
    ⟨(stairW ready (pack [(58, 6, 0x11), (0, 3, 7)]) { pc := 5 }), (31 : Nat), (1 : Nat),
      ({ i := 90, ctx := { pc := 5 }, cond := 0xF1234, win := 3, n := 5 } : Member),
      ({ i := 90, ctx := { pc := 5 }, cond := 0xF1234, win := 3, n := 5 } : Member), (7 : Nat), by decide +kernel⟩,
    ⟨(stairW ready (pack [(58, 6, 0x0F), (0, 6, 63)]) { pc := 5 }).p (F.TDC_SET_A.VALID 31 63) 1, (31 : Nat), (1 : Nat),
      ({ i := 90, ctx := { pc := 5 }, cond := 0xF1234, win := 3, n := 5 } : Member),
      ({ i := 90, ctx := { pc := 5 }, cond := 0xF1234, win := 3, n := 5 } : Member), (63 : Nat), by decide +kernel⟩,
    ⟨(stairW ready (pack [(58, 6, 0x0F), (0, 6, 63)]) { pc := 5 }).p (F.TDC_SET_A.VALID 31 63) 0, (31 : Nat), (1 : Nat),
      ({ i := 90, ctx := { pc := 5 }, cond := 0xF1234, win := 3, n := 5 } : Member),
      ({ i := 90, ctx := { pc := 5 }, cond := 0xF1234, win := 3, n := 5 } : Member), (63 : Nat), by decide +kernel⟩,
    ⟨(((((stairW ready (pack [(58, 6, 0x0E), (0, 8, 200)]) { pc := 5 }).wr (R.HSE_SLOT_A 31 200) 0x87000000#32).p
      (F.HSE_SLOT_D.LEN 31 200) 12).wr (R.LMAP_A 31 7) 0x82218000#32).modAlc 31 90 (fun a => { a with own := 0xF00 })),
      (31 : Nat), (1 : Nat), ({ i := 90, ctx := { pc := 5 }, cond := 0xF1234, win := 3, n := 5 } : Member),
      ({ i := 90, ctx := { pc := 5 }, cond := 0xF1234, win := 3, n := 5 } : Member), (200 : Nat), by decide +kernel⟩,
    ⟨(stairW ready (pack [(58, 6, 0x0E), (0, 8, 200)]) { pc := 5 }).p (F.HSE_SLOT_A.VALID 31 200) 0, (31 : Nat), (1 :
      Nat), ({ i := 90, ctx := { pc := 5 }, cond := 0xF1234, win := 3, n := 5 } : Member),
      ({ i := 90, ctx := { pc := 5 }, cond := 0xF1234, win := 3, n := 5 } : Member), (200 : Nat), by decide +kernel⟩,
    ⟨(stairW ready (pack [(58, 6, 0x0E), (0, 8, 200)]) { pc := 5 }).wr (R.HSE_SLOT_A 31 200) 0x87000000#32 |>.p
      (F.HSE_SLOT_D.LEN 31 200) 0, (31 : Nat), (1 : Nat),
      ({ i := 90, ctx := { pc := 5 }, cond := 0xF1234, win := 3, n := 5 } : Member),
      ({ i := 90, ctx := { pc := 5 }, cond := 0xF1234, win := 3, n := 5 } : Member), (200 : Nat), by decide +kernel⟩,
    ⟨(((stairW ready (pack [(58, 6, 0x10), (52, 6, 63), (48, 4, 15)]) { pc := 5 }).p (F.MSET_CFG.VALID 15 15) 1).p
      (F.MSET_CFG.DDS 15 15) 0).p (F.MSET_CFG.APPLY 15 15) 0, (31 : Nat), (1 : Nat),
      ({ i := 90, ctx := { pc := 5 }, cond := 0xF1234, win := 3, n := 5 } : Member),
      ({ i := 90, ctx := { pc := 5 }, cond := 0xF1234, win := 3, n := 5 } : Member), (63 : Nat), (15 : Nat),
      by decide +kernel⟩,
    ⟨(stairW ready (pack [(58, 6, 0x10), (52, 6, 63), (48, 4, 15)]) { pc := 5 }).p (F.MSET_CFG.VALID 15 15) 0, (31 : Nat),
      (1 : Nat), ({ i := 90, ctx := { pc := 5 }, cond := 0xF1234, win := 3, n := 5 } : Member),
      ({ i := 90, ctx := { pc := 5 }, cond := 0xF1234, win := 3, n := 5 } : Member), (63 : Nat), (15 : Nat),
      by decide +kernel⟩,
    ⟨(((stairW ready (pack [(58, 6, 0x10), (52, 6, 63), (48, 4, 15)]) { pc := 5 }).p (F.MSET_CFG.VALID 15 15) 1).p
      (F.MSET_CFG.DDS 15 15) 0).p (F.MSET_CFG.APPLY 15 15) 1, (31 : Nat), (1 : Nat),
      ({ i := 90, ctx := { pc := 5 }, cond := 0xF1234, win := 3, n := 5 } : Member),
      ({ i := 90, ctx := { pc := 5 }, cond := 0xF1234, win := 3, n := 5 } : Member), (63 : Nat), (15 : Nat),
      by decide +kernel⟩,
    ⟨(stairW ready (pack [(58, 6, 0x12), (55, 3, 0), (53, 2, 3), (0, 32, 2 ^ 32 - 1)]) { pc := 5 }), (31 : Nat), (1 :
      Nat), ({ i := 90, ctx := { pc := 5 }, cond := 0xF1234, win := 3, n := 5 } : Member),
      ({ i := 90, ctx := { pc := 5 }, cond := 0xF1234, win := 3, n := 5 } : Member), (3 : Nat), (2 ^ 32 - 1 : Nat),
      by decide +kernel⟩,
    ⟨(stairW ready (pack [(58, 6, 0x12), (55, 3, 1), (53, 2, 3), (0, 32, 2 ^ 31 - 1)])
      { pc := 5, cnt := [5, 0, 9, 4294967290], acc := [0, -7, 2147483647, 3] }), (31 : Nat), (1 : Nat),
      ({ i := 90, ctx := { pc := 5, cnt := [5, 0, 9, 4294967290], acc := [0, -7, 2147483647, 3] }, cond := 0xF1234, win :=
           3, n := 5 } : Member),
      ({ i := 90, ctx := { pc := 5, cnt := [5, 0, 9, 4294967290], acc := [0, -7, 2147483647, 3] }, cond := 0xF1234, win :=
           3, n := 5 } : Member), (3 : Nat), (2 ^ 31 - 1 : Nat), by decide +kernel⟩,
    ⟨(stairW ready (pack [(58, 6, 0x12), (55, 3, 1), (53, 2, 0), (0, 32, 0xFFFFFFFA)])
      { pc := 5, cnt := [5, 0, 9, 4294967290], acc := [0, -7, 2147483647, 3] }), (31 : Nat), (1 : Nat),
      ({ i := 90, ctx := { pc := 5, cnt := [5, 0, 9, 4294967290], acc := [0, -7, 2147483647, 3] }, cond := 0xF1234, win :=
           3, n := 5 } : Member),
      ({ i := 90, ctx := { pc := 5, cnt := [5, 0, 9, 4294967290], acc := [0, -7, 2147483647, 3] }, cond := 0xF1234, win :=
           3, n := 5 } : Member), (0 : Nat), (0xFFFFFFFA : Nat), by decide +kernel⟩,
    ⟨(stairW ready (pack [(58, 6, 0x12), (55, 3, 2), (53, 2, 3)])
      { pc := 5, cnt := [5, 0, 9, 4294967290], acc := [0, -7, 2147483647, 3] }), (31 : Nat), (1 : Nat),
      ({ i := 90, ctx := { pc := 5, cnt := [5, 0, 9, 4294967290], acc := [0, -7, 2147483647, 3] }, cond := 0xF1234, win :=
           3, n := 5 } : Member),
      ({ i := 90, ctx := { pc := 5, cnt := [5, 0, 9, 4294967290], acc := [0, -7, 2147483647, 3] }, cond := 0xF1234, win :=
           3, n := 5 } : Member), (3 : Nat), by decide +kernel⟩,
    ⟨(stairW ready (pack [(58, 6, 0x12), (55, 3, 3), (53, 2, 2)])
      { pc := 5, cnt := [5, 0, 9, 4294967290], acc := [0, -7, 2147483647, 3] }), (31 : Nat), (1 : Nat),
      ({ i := 90, ctx := { pc := 5, cnt := [5, 0, 9, 4294967290], acc := [0, -7, 2147483647, 3] }, cond := 0xF1234, win :=
           3, n := 5 } : Member),
      ({ i := 90, ctx := { pc := 5, cnt := [5, 0, 9, 4294967290], acc := [0, -7, 2147483647, 3] }, cond := 0xF1234, win :=
           3, n := 5 } : Member), (2 : Nat), by decide +kernel⟩,
    ⟨(stairW ready (pack [(58, 6, 0x12), (55, 3, 4), (53, 2, 3), (0, 32, 0xFFFFFFFA)])
      { pc := 5, cnt := [5, 0, 9, 4294967290], acc := [0, -7, 2147483647, 3] }), (31 : Nat), (1 : Nat),
      ({ i := 90, ctx := { pc := 5, cnt := [5, 0, 9, 4294967290], acc := [0, -7, 2147483647, 3] }, cond := 0xF1234, win :=
           3, n := 5 } : Member),
      ({ i := 90, ctx := { pc := 5, cnt := [5, 0, 9, 4294967290], acc := [0, -7, 2147483647, 3] }, cond := 0xF1234, win :=
           3, n := 5 } : Member), (3 : Nat), (0xFFFFFFFA : Nat), by decide +kernel⟩,
    ⟨(stairW ready (pack [(58, 6, 0x12), (55, 3, 5), (53, 2, 1), (0, 32, 2 ^ 31)])
      { pc := 5, acc := [0, -7, 2147483647, 3] }), (31 : Nat), (1 : Nat),
      ({ i := 90, ctx := { pc := 5, acc := [0, -7, 2147483647, 3] }, cond := 0xF1234, win := 3, n := 5 } : Member),
      ({ i := 90, ctx := { pc := 5, acc := [0, -7, 2147483647, 3] }, cond := 0xF1234, win := 3, n := 5 } : Member), (1 :
      Nat), (2 ^ 31 : Nat), by decide +kernel⟩,
    ⟨(stairW ready (pack [(58, 6, 0x12), (55, 3, 7), (53, 2, 1), (0, 32, 2 ^ 31)]) { pc := 5 }), (31 : Nat), (1 : Nat),
      ({ i := 90, ctx := { pc := 5 }, cond := 0xF1234, win := 3, n := 5 } : Member),
      ({ i := 90, ctx := { pc := 5 }, cond := 0xF1234, win := 3, n := 5 } : Member), (7 : Nat), (1 : Nat), (2 ^ 31 : Nat),
      by decide +kernel⟩,
    ⟨(stairW ready (pack [(58, 6, 0x13), (57, 1, 0), (0, 16, 65535)]) { pc := 5, bin := 7 }), (31 : Nat), (1 : Nat),
      ({ i := 90, ctx := { pc := 5, bin := 7 }, cond := 0xF1234, win := 3, n := 5 } : Member),
      ({ i := 90, ctx := { pc := 5, bin := 7 }, cond := 0xF1234, win := 3, n := 5 } : Member), (0 : Nat), (65535 : Nat),
      by decide +kernel⟩,
    ⟨(stairW ready (pack [(58, 6, 0x14), (56, 2, 2), (0, 8, 255)]) { pc := 5, uflags := 0x5A }), (31 : Nat), (1 : Nat),
      ({ i := 90, ctx := { pc := 5, uflags := 0x5A }, cond := 0xF1234, win := 3, n := 5 } : Member),
      ({ i := 90, ctx := { pc := 5, uflags := 0x5A }, cond := 0xF1234, win := 3, n := 5 } : Member), (2 : Nat), (255 :
      Nat), by decide +kernel⟩,
    ⟨(stairW ready (pack [(58, 6, 0x14), (56, 2, 3), (0, 8, 255)]) { pc := 5 }), (31 : Nat), (1 : Nat),
      ({ i := 90, ctx := { pc := 5 }, cond := 0xF1234, win := 3, n := 5 } : Member),
      ({ i := 90, ctx := { pc := 5 }, cond := 0xF1234, win := 3, n := 5 } : Member), (255 : Nat), by decide +kernel⟩⟩

/-- States and operands that meet the hypotheses of PatchedMicrocode, clause by clause. -/
theorem test_meets_patched_microcode :
    (∃ (s : State) (h : Nat) (k : Nat) (v : Nat) (m : Member) (x : Member) (u : BitVec 32), Fetches s h v m ∧ v < 2 ^ 58 ∧
      s.ucAsShipped 0 = false ∧ InCohort s h k 0 m x ∧ s.ucFetch 0 = some u ∧ natBits u.toNat 26 6 = 1 ∧ natBits u.toNat
      23 3 = 0) ∧
    (∃ (s : State) (h : Nat) (k : Nat) (v : Nat) (m : Member) (x : Member) (u : BitVec 32), Fetches s h v m ∧ v < 2 ^ 58 ∧
      s.ucAsShipped 0 = false ∧ InCohort s h k 0 m x ∧ s.ucFetch 0 = some u ∧ (natBits u.toNat 26 6 ∉ [0x00, 0x01, 0x02,
      0x03, 0x04, 0x08, 0x09, 0x0A, 0x0B, 0x0C, 0x0D, 0x0E, 0x0F, 0x10, 0x11, 0x18, 0x19, 0x1A, 0x1B, 0x20, 0x21, 0x28,
      0x30, 0x31] ∨ natBits u.toNat 26 6 = 1 ∧ 4 ≤ natBits u.toNat 23 3)) ∧
    (∃ (s : State) (h : Nat) (k : Nat) (v : Nat) (m : Member) (x : Member), Fetches s h v m ∧ v < 2 ^ 58 ∧ s.ucAsShipped 0
      = false ∧ InCohort s h k 0 m x ∧ s.ucFetch 0 = none) ∧
    (∃ (s : State) (h : Nat) (k : Nat) (v : Nat) (a : Nat) (m : Member) (x : Member) (u : BitVec 32) (w : BitVec 32),
      Fetches s h v m ∧ v < 2 ^ 58 ∧ s.ucAsShipped 0 = false ∧ InCohort s h k 0 m x ∧ s.ucFetch 0 = some u ∧ natBits
      u.toNat 26 6 = 0x10 ∧ natBits u.toNat 21 5 = 1 ∧ a = 1 ∧ s.ucFetch a = some w ∧ natBits w.toNat 26 6 = 1 ∧ natBits
      w.toNat 23 3 = 1) ∧
    (∃ (s : State) (h : Nat) (k : Nat) (v : Nat) (a : Nat) (m : Member) (x : Member) (u : BitVec 32) (w : BitVec 32),
      Fetches s h v m ∧ v < 2 ^ 58 ∧ s.ucAsShipped 0 = false ∧ InCohort s h k 0 m x ∧ s.ucFetch 0 = some u ∧ natBits
      u.toNat 26 6 = 2 ∧ natBits u.toNat 9 3 = 0 ∧ natBits u.toNat 4 5 < 5 ∧ a = natBits u.toNat 12 14 ∧ s.ucFetch a =
      some w ∧ natBits w.toNat 26 6 = 1 ∧ natBits w.toNat 23 3 = 0) :=
  ⟨
    ⟨(stairW ({ ready with part := .b } : State) 7 { pc := 5 } |> (fun s =>
      ({ s with boot := { s.boot with store := [(0x04000000#32 : BitVec 32).toNat] } } : State))) |>.p (F.UC_MATCH.EN 0) 1
      |>.p (F.UC_MATCH.ROM_ADDR 0) 0 |>.p (F.UC_MATCH.PATCH_ADDR 0) 0 |>.p (F.UC_MATCH.EN 1) 1 |>.p (F.UC_MATCH.ROM_ADDR
      1) 1 |>.p (F.UC_MATCH.PATCH_ADDR 1) 1, (31 : Nat), (1 : Nat), (7 : Nat),
      ({ i := 90, ctx := { pc := 5 }, cond := 0xF1234, win := 3, n := 5 } : Member),
      ({ i := 90, ctx := { pc := 5 }, cond := 0xF1234, win := 3, n := 5 } : Member), (0x04000000#32 : BitVec 32),
      by decide +kernel⟩,
    ⟨(stairW ({ ready with part := .b } : State) 7 { pc := 5 } |> (fun s =>
      ({ s with boot := { s.boot with store := [(0xFC000000#32 : BitVec 32).toNat] } } : State))) |>.p (F.UC_MATCH.EN 0) 1
      |>.p (F.UC_MATCH.ROM_ADDR 0) 0 |>.p (F.UC_MATCH.PATCH_ADDR 0) 0 |>.p (F.UC_MATCH.EN 1) 1 |>.p (F.UC_MATCH.ROM_ADDR
      1) 1 |>.p (F.UC_MATCH.PATCH_ADDR 1) 1, (31 : Nat), (1 : Nat), (7 : Nat),
      ({ i := 90, ctx := { pc := 5 }, cond := 0xF1234, win := 3, n := 5 } : Member),
      ({ i := 90, ctx := { pc := 5 }, cond := 0xF1234, win := 3, n := 5 } : Member), (0xFC000000#32 : BitVec 32),
      by decide +kernel⟩,
    ⟨(stairW ({ ready with part := .b } : State) 7 { pc := 5 } |> (fun s =>
      ({ s with boot := { s.boot with store := [] } } : State))) |>.p (F.UC_MATCH.EN 0) 1 |>.p (F.UC_MATCH.ROM_ADDR 0) 0
      |>.p (F.UC_MATCH.PATCH_ADDR 0) 0 |>.p (F.UC_MATCH.EN 1) 1 |>.p (F.UC_MATCH.ROM_ADDR 1) 1 |>.p (F.UC_MATCH.PATCH_ADDR
      1) 1, (31 : Nat), (1 : Nat), (7 : Nat), ({ i := 90, ctx := { pc := 5 }, cond := 0xF1234, win := 3, n := 5 } :
      Member), ({ i := 90, ctx := { pc := 5 }, cond := 0xF1234, win := 3, n := 5 } : Member), by decide +kernel⟩,
    ⟨(stairW ({ ready with part := .b } : State) 7 { pc := 5 } |> (fun s =>
      ({ s with boot := { s.boot with store := [(0x4020FEDC#32 : BitVec 32).toNat, (0x04800000#32 : BitVec 32).toNat] } }
      : State))) |>.p (F.UC_MATCH.EN 0) 1 |>.p (F.UC_MATCH.ROM_ADDR 0) 0 |>.p (F.UC_MATCH.PATCH_ADDR 0) 0 |>.p
      (F.UC_MATCH.EN 1) 1 |>.p (F.UC_MATCH.ROM_ADDR 1) 1 |>.p (F.UC_MATCH.PATCH_ADDR 1) 1, (31 : Nat), (1 : Nat), (7 :
      Nat), (1 : Nat), ({ i := 90, ctx := { pc := 5 }, cond := 0xF1234, win := 3, n := 5 } : Member),
      ({ i := 90, ctx := { pc := 5 }, cond := 0xF1234, win := 3, n := 5 } : Member), (0x4020FEDC#32 : BitVec 32),
      (0x04800000#32 : BitVec 32), by decide +kernel⟩,
    ⟨(stairW ({ ready with part := .b } : State) 7 { pc := 5 } |> (fun s =>
      ({ s with boot := { s.boot with store := [(0x0A001040#32 : BitVec 32).toNat, (0x04000000#32 : BitVec 32).toNat] } }
      : State))) |>.p (F.UC_MATCH.EN 0) 1 |>.p (F.UC_MATCH.ROM_ADDR 0) 0 |>.p (F.UC_MATCH.PATCH_ADDR 0) 0 |>.p
      (F.UC_MATCH.EN 1) 1 |>.p (F.UC_MATCH.ROM_ADDR 1) 1 |>.p (F.UC_MATCH.PATCH_ADDR 1) 1, (31 : Nat), (1 : Nat), (7 :
      Nat), (0x2001 : Nat), ({ i := 90, ctx := { pc := 5 }, cond := 0xF1234, win := 3, n := 5 } : Member),
      ({ i := 90, ctx := { pc := 5 }, cond := 0xF1234, win := 3, n := 5 } : Member), (0x0A001040#32 : BitVec 32),
      (0x04000000#32 : BitVec 32), by decide +kernel⟩⟩

/-- States and operands that meet the hypotheses of LeadPointAndDispatch, clause by clause. -/
theorem test_meets_lead_point_and_dispatch :
    (∃ (s : State) (h : Nat) (k : Nat) (i : Nat), h < s.part.halls ∧ s.playing h = true ∧ (s.hl h).leadTaken = false ∧
      s.fenced h = false ∧ s.replaying = false ∧ s.g (F.STAIR_STAT.SEALED h) = 0xFFFF ∧ (s.hl h).eng.stops = [] ∧ (s.hl
      h).eng.jump = none ∧ (s.lives h)[k]? = some i ∧ (s.alc h i).joined = true) ∧
    (∃ (s : State) (h : Nat) (k : Nat) (i : Nat), h < s.part.halls ∧ s.playing h = true ∧ (s.hl h).leadTaken = false ∧
      s.fenced h = false ∧ s.replaying = false ∧ s.g (F.STAIR_STAT.SEALED h) = 0xFFFF ∧ (s.hl h).eng.stops ≠ [] ∧ s.level_
      ≠ 3 ∧ (s.lives h)[k]? = some i) ∧
    (∃ (s : State) (h : Nat) (k : Nat) (i : Nat) (a : Nat), h < s.part.halls ∧ s.playing h = true ∧ (s.hl h).leadTaken =
      false ∧ s.fenced h = false ∧ s.replaying = false ∧ s.g (F.STAIR_STAT.SEALED h) = 0xFFFF ∧ ((s.hl h).eng.stops = [] ∨
      s.level_ = 3) ∧ (s.hl h).eng.jump = some a ∧ (s.lives h)[k]? = some i) ∧
    (∃ (s : State) (h : Nat) (m : Member) (f : Nat), h < s.part.halls ∧ (s.hl h).eng.run = true ∧ (s.hl h).eng.members =
      [m] ∧ m.st = .ended ∧ m.term = .play f ∧ s.lives h = [m.i] ∧ (s.hl h).eng.xfaults = [] ∧ s.g (F.UC_ENG.STATE h) = 1
      ∧ s.fenced h = false ∧ (s.hl h).hold.kept = false ∧ f < 4096) ∧
    (∃ (s : State) (h : Nat) (m : Member), h < s.part.halls ∧ (s.hl h).eng.run = true ∧ (s.hl h).eng.members = [m] ∧ m.st
      = .ended ∧ m.term = .halt ∧ s.lives h = [m.i] ∧ (s.hl h).eng.xfaults = [] ∧ s.g (F.UC_ENG.STATE h) = 1 ∧ s.fenced h
      = false ∧ (s.hl h).hold.kept = false) :=
  ⟨
    ⟨((live1 ready 70 { ctx := { pc := 77, rep := 3 }, winFails := 2, firstEntry := some 5 }).p (F.FLT_STAT.PLAYING 31)
      1).modEng 31 (fun e => { e with hev := 9 }), (31 : Nat), (0 : Nat), (70 : Nat), by decide +kernel⟩,
    ⟨((live1 ready 70 {}).p (F.FLT_STAT.PLAYING 31) 1 |>.p F.THERM_STAT.LEVEL 0).modEng 31 (fun e =>
      { e with stops := [5] }), (31 : Nat), (0 : Nat), (70 : Nat), by decide +kernel⟩,
    ⟨((live1 ready 70 { ctx := { pc := 77, rep := 3, stack := [.call 4] } }).p (F.FLT_STAT.PLAYING 31) 1).modEng 31 (fun e
      => { e with jump := some 65535 }), (31 : Nat), (0 : Nat), (70 : Nat), (65535 : Nat), by decide +kernel⟩,
    ⟨(live1 ready 70 {}).modEng 31 (fun e =>
      { e with run := true, members := [{ i := 70, ctx := { pc := 9 }, cond := 5, win := 0, n := 3, st := .ended, termAt
                                            := 8, term := (.play 4095) }] }), (31 : Nat),
      ({ i := 70, ctx := { pc := 9 }, cond := 5, win := 0, n := 3, st := .ended, termAt := 8, term := (.play 4095) } :
      Member), (4095 : Nat), by decide +kernel⟩,
    ⟨(live1 ready 70 {}).modEng 31 (fun e =>
      { e with run := true, members := [{ i := 70, ctx := { pc := 9 }, cond := 5, win := 0, n := 3, st := .ended, termAt
                                            := 8, term := .halt }] }), (31 : Nat),
      ({ i := 70, ctx := { pc := 9 }, cond := 5, win := 0, n := 3, st := .ended, termAt := 8, term := .halt } : Member),
      by decide +kernel⟩⟩

/-- States and operands that meet the hypotheses of LandingsAndDecisions, clause by clause. -/
theorem test_meets_landings_and_decisions :
    (∃ (s : State) (h : Nat), h < s.part.halls ∧ s.playing h = true ∧ (s.hl h).leadTaken = true ∧ s.fenced h = false) ∧
    (∃ (s : State) (h : Nat), h < s.part.halls ∧ s.playing h = true ∧ (s.hl h).leadTaken = true ∧ s.fenced h = false ∧
      (s.hl h).eng.action = none) ∧
    (∃ (s : State) (h : Nat) (i : Nat) (f : Nat), h < s.part.halls ∧ s.playing h = true ∧ (s.hl h).leadTaken = true ∧
      s.fenced h = false ∧ s.replaying = false ∧ s.lives h = [i] ∧ s.liveBank h = some (i / 32) ∧ (s.hl h).eng.action =
      some (.play f false) ∧ (s.hl h).eng.members = [] ∧ (s.hl h).eng.staged = [] ∧ (s.hl h).stretchNext = 0 ∧
      s.decisionLate h = false ∧ s.pinned h f = true ∧ f < 4096 ∧ s.slice h = false ∧ s.rpl = none ∧ (s.alc h i).joined =
      true ∧ s.stopRuns = [] ∧ (s.ax h).stage = none ∧ (s.hl h).eng.park = false ∧ (s.hl h).driveLine = none ∧ ((s.hl
      h).play = none ∨ (s.hl h).play = some f) ∧ (s.flt_ h f).st = 3) ∧
    (∃ (s : State) (h : Nat) (act : Action), h < s.part.halls ∧ (s.hl h).landed = true ∧ (s.hl h).eng.action = some act ∧
      (s.hl h).hold.dec = true ∧ (s.hl h).hold.seg = false ∧ s.rpl = none ∧ (s.hl h).hold.swap = true) ∧
    (∃ (s : State) (h : Nat) (n : Nat), h < s.part.halls ∧ (s.hl h).landed = true ∧ (s.hl h).eng.action = some .brw ∧
      (s.hl h).hold.seg = true ∧ s.rpl = none ∧ (s.hl h).hold.swap = false ∧ s.liveBank h = some n ∧ (s.hl h).eng.members
      = [] ∧ (s.hl h).eng.staged = [] ∧ (s.hl h).stretchNext = 0) ∧
    (∃ (s : State) (h : Nat) (f : Nat), h < s.part.halls ∧ (s.hl h).hold.head = true ∧ (s.hl h).hold.target = some f ∧
      s.slice h = false ∧ f < 4096 ∧ (s.hl h).hold.stretch = none ∧ (s.hl h).hold.release = none ∧ (s.hl h).hold.stall =
      none ∧ (s.hl h).hold.seg = false ∧ (s.hl h).hold.dec = false ∧ (s.hl h).hold.kept = false ∧ (s.hl h).hold.brw =
      false ∧ (s.hl h).hold.sync = none ∧ (s.hl h).hold.swap = false ∧ (s.hl h).hold.swapWait = none) ∧
    (∃ (s : State) (h : Nat), h < s.part.halls ∧ (s.hl h).hold.head = true ∧ ((s.hl h).hold.seg = true ∨ (s.hl
      h).hold.swap = true ∨ (s.hl h).hold.swapWait ≠ none ∨ (s.hl h).hold.sync ≠ none) ∧ (s.hl h).hold.held = true) ∧
    (∃ (s : State) (h : Nat) (f : Nat) (n : Nat), h < s.part.halls ∧ (s.hl h).hold.stall = some n ∧ 2 ≤ (s.flt_ h n).st ∧
      (s.hl h).hold.target = some f ∧ s.slice h = false ∧ f < 4096 ∧ (s.hl h).hold.stretch = none ∧ (s.hl h).hold.release
      = none ∧ (s.hl h).hold.head = false ∧ (s.hl h).hold.seg = false ∧ (s.hl h).hold.dec = false ∧ (s.hl h).hold.kept =
      false ∧ (s.hl h).hold.brw = false ∧ (s.hl h).hold.sync = none ∧ (s.hl h).hold.swap = false ∧ (s.hl h).hold.swapWait
      = none) ∧
    (∃ (s : State) (h : Nat) (n : Nat), h < s.part.halls ∧ (s.hl h).hold.stall = some n ∧ 2 ≤ (s.flt_ h n).st ∧ ((s.hl
      h).hold.seg = true ∨ (s.hl h).hold.swap = true ∨ (s.hl h).hold.swapWait ≠ none ∨ (s.hl h).hold.sync ≠ none) ∧ (s.hl
      h).hold.held = true) ∧
    (∃ (s : State) (h : Nat) (f : Nat) (i : Nat), h < s.part.halls ∧ (s.hl h).hold.stall = some f ∧ s.g
      (F.STALL_LIMIT.LIMIT h) ≠ 0 ∧ s.g (F.STALL_LIMIT.LIMIT h) ≤ s.g (F.STALL_RUN.RUN h) ∧ s.lives h = [i] ∧ (s.alc h
      i).next = some f ∧ s.liveBank h = some (i / 32) ∧ (s.hl h).eng.action = none ∧ (s.hl h).eng.members = [] ∧ (s.hl
      h).eng.stops = [] ∧ s.replaying = false ∧ s.rpl = none ∧ s.stopRuns = []) ∧
    (∃ (s : State) (h : Nat) (f : Nat) (x : Nat), h < s.part.halls ∧ (s.hl h).hold.stretch = some x ∧ x ≤ s.treadsSince h
      (s.hl h).hold.tread ∧ (s.hl h).hold.target = some f ∧ s.slice h = false ∧ f < 4096 ∧ (s.hl h).hold.release = none ∧
      (s.hl h).hold.stall = none ∧ (s.hl h).hold.head = false ∧ (s.hl h).hold.seg = false ∧ (s.hl h).hold.dec = false ∧
      (s.hl h).hold.kept = false ∧ (s.hl h).hold.brw = false ∧ (s.hl h).hold.sync = none ∧ (s.hl h).hold.swap = false ∧
      (s.hl h).hold.swapWait = none) ∧
    (∃ (s : State) (h : Nat) (x : Nat), h < s.part.halls ∧ (s.hl h).hold.stretch = some x ∧ x ≤ s.treadsSince h (s.hl
      h).hold.tread ∧ ((s.hl h).hold.seg = true ∨ (s.hl h).hold.swap = true ∨ (s.hl h).hold.swapWait ≠ none ∨ (s.hl
      h).hold.sync ≠ none) ∧ (s.hl h).hold.held = true) ∧
    (∃ (s : State) (h : Nat) (f : Nat) (x : Nat), h < s.part.halls ∧ (s.hl h).hold.release = some x ∧ x ≤ s.treadsSince h
      (s.hl h).hold.tread ∧ (s.hl h).hold.target = some f ∧ s.slice h = false ∧ f < 4096 ∧ (s.hl h).hold.stretch = none ∧
      (s.hl h).hold.stall = none ∧ (s.hl h).hold.head = false ∧ (s.hl h).hold.seg = false ∧ (s.hl h).hold.dec = false ∧
      (s.hl h).hold.kept = false ∧ (s.hl h).hold.brw = false ∧ (s.hl h).hold.sync = none ∧ (s.hl h).hold.swap = false ∧
      (s.hl h).hold.swapWait = none) ∧
    (∃ (s : State) (h : Nat) (x : Nat), h < s.part.halls ∧ (s.hl h).hold.release = some x ∧ x ≤ s.treadsSince h (s.hl
      h).hold.tread ∧ (s.hl h).hold.brw = false ∧ (s.hl h).hold.sync = none ∧ ((s.hl h).hold.seg = true ∨ (s.hl
      h).hold.swap = true) ∧ (s.hl h).hold.held = true) :=
  ⟨
    ⟨((live1 ready 70 {}).p (F.FLT_STAT.PLAYING 31) 1).modHl 31 (fun x => { x with leadTaken := true, play := some 3 }),
      (31 : Nat), by decide +kernel⟩,
    ⟨(((live1 ready 70 {}).p (F.FLT_STAT.PLAYING 31) 1).p (F.LAND_CNT_LO.CNT 31) 0xFFFFFFFF).modHl 31 (fun x =>
      { x with leadTaken := true, play := some 3, eng := { x.eng with jump := some 5 } }), (31 : Nat), by decide +kernel⟩,
    ⟨(((live1 ready 70 { next := some 9 }).p (F.FLT_STAT.PLAYING 31) 1).p (F.LAND_STAT.LEAD_EFF 31) 0xFFFF).setFlt 31 9
      { st := 3, len := 1 } |> (fun s => s.modHl 31 (fun x =>
      { x with leadTaken := true, play := some 9, cache := [{ flight := 9, granules := 1, pinned := true }], eng := {
                 x.eng with action := some (.play 9 false), cycles := 1 } })), (31 : Nat), (70 : Nat), (9 : Nat),
      by decide +kernel⟩,
    ⟨ready.modHl 31 (fun x =>
      { x with landed := true, hold := { dec := true, swap := true }, eng := { x.eng with action := some .brw } }), (31 :
      Nat), (.brw : Action), by decide +kernel⟩,
    ⟨(live1 ready 70 {}).modHl 31 (fun x =>
      { x with landed := true, hold := { seg := true, segTreads := 4 }, eng := { x.eng with action := some .brw } }), (31
      : Nat), (2 : Nat), by decide +kernel⟩,
    ⟨((live1 ready 70 {}).setPos 31 70).modHl 31 (fun x =>
      { x with hold := { tread := 60, tb0 := 5, target := some 9, head := true } }), (31 : Nat), (9 : Nat),
      by decide +kernel⟩,
    ⟨((live1 ready 70 {}).setPos 31 70).modHl 31 (fun x =>
      { x with hold := { tread := 60, tb0 := 5, target := some 9, head := true, seg := true, held := true } }), (31 :
      Nat), by decide +kernel⟩,
    ⟨((((live1 ready 70 {}).setPos 31 70).p (F.FLT_STAT.STALLING 31) 1).modHl 31 (fun x =>
      { x with hold := { tread := 60, tb0 := 5, target := some 9, stall := some 9, stallEnd := true } })).setFlt 31 9
      { st := 2, len := 1 }, (31 : Nat), (9 : Nat), (9 : Nat), by decide +kernel⟩,
    ⟨((((live1 ready 70 {}).setPos 31 70).p (F.FLT_STAT.STALLING 31) 1).modHl 31 (fun x =>
      { x with hold := { tread := 60, tb0 := 5, target := some 9, stall := some 9, seg := true, held := true } })).setFlt
      31 9 { st := 2, len := 1 }, (31 : Nat), (9 : Nat), by decide +kernel⟩,
    ⟨((((live1 ready 70 { next := some 9 }).p (F.FLT_STAT.STALLING 31) 1).p (F.STALL_LIMIT.LIMIT 31) 5).p (F.STALL_RUN.RUN
      31) 5).modHl 31 (fun x => { x with hold := { target := some 9, stall := some 9 } }), (31 : Nat), (9 : Nat), (70 :
      Nat), by decide +kernel⟩,
    ⟨((live1 ready 70 {}).setPos 31 70).modHl 31 (fun x =>
      { x with hold := { tread := 60, tb0 := 5, target := some 9, stretch := some 10 } }), (31 : Nat), (9 : Nat), (10 :
      Nat), by decide +kernel⟩,
    ⟨((live1 ready 70 {}).setPos 31 70).modHl 31 (fun x =>
      { x with hold := { tread := 60, tb0 := 5, target := some 9, stretch := some 10, seg := true, held := true } }), (31
      : Nat), (10 : Nat), by decide +kernel⟩,
    ⟨((live1 ready 70 {}).setPos 31 70).modHl 31 (fun x =>
      { x with hold := { tread := 60, tb0 := 5, target := some 9, release := some 10 } }), (31 : Nat), (9 : Nat), (10 :
      Nat), by decide +kernel⟩,
    ⟨((live1 ready 70 {}).setPos 31 70).modHl 31 (fun x =>
      { x with hold := { tread := 60, tb0 := 5, target := some 9, release := some 10, seg := true, held := true } }), (31
      : Nat), (10 : Nat), by decide +kernel⟩⟩

/-- States and operands that meet the hypotheses of WaitsAtBrwAndSync, clause by clause. -/
theorem test_meets_waits_at_brw_and_sync :
    (∃ (s : State) (h : Nat) (i : Nat) (mode : Nat) (mask : Nat) (target : Nat) (tmo : Nat), h < s.part.halls ∧ s.lives h
      = [i] ∧ (s.alc h i).term = .brw mode mask target tmo ∧ (s.alc h i).joined = true ∧ ((s.hl h).eng.members.any (fun m
      => m.i == i && m.st == .gone)) = true ∧ (s.hl h).eng.members.length = 1 ∧ (s.alc h i).resamples < tmo ∧ condTest
      mode mask ((s.condWords h false).foldl (fun a w => if w.1 = i then w.2 - (w.2 &&& 5) + ((s.hl h).eng.members.map
      (fun m => m.cond &&& 5)).headD 0 else a) 0 ||| czBits (s.alc h i).ctx) = true ∧ (s.hl h).hold.brw = true ∧ (s.hl
      h).hold.brwFrom ≠ s.pos h ∧ (s.hl h).eng.run = false ∧ s.g (F.STAIR_STAT.SEALED h) = 0xFFFF ∧ s.replaying = false ∧
      s.rpl = none ∧ target < 2 ^ 16) ∧
    (∃ (s : State) (h : Nat) (i : Nat) (mode : Nat) (mask : Nat) (target : Nat) (tmo : Nat), h < s.part.halls ∧ s.lives h
      = [i] ∧ (s.alc h i).term = .brw mode mask target tmo ∧ (s.alc h i).joined = true ∧ ((s.hl h).eng.members.any (fun m
      => m.i == i && m.st == .gone)) = true ∧ (s.hl h).eng.members.length = 1 ∧ (s.alc h i).resamples < tmo ∧ condTest
      mode mask ((s.condWords h false).foldl (fun a w => if w.1 = i then w.2 - (w.2 &&& 5) + ((s.hl h).eng.members.map
      (fun m => m.cond &&& 5)).headD 0 else a) 0 ||| czBits (s.alc h i).ctx) = false ∧ (s.hl h).hold.brw = true ∧ (s.hl
      h).hold.brwFrom ≠ s.pos h ∧ s.replaying = false ∧ s.rpl = none) ∧
    (∃ (s : State) (h : Nat) (i : Nat) (mode : Nat) (mask : Nat) (target : Nat) (tmo : Nat), h < s.part.halls ∧ s.lives h
      = [i] ∧ (s.alc h i).term = .brw mode mask target tmo ∧ (s.alc h i).joined = true ∧ (s.hl h).eng.members.map (fun m
      => (m.i, m.st)) = [(i, .gone)] ∧ tmo ≤ (s.alc h i).resamples ∧ (s.hl h).hold.brw = true ∧ (s.hl h).eng.run = false ∧
      s.g (F.STAIR_STAT.SEALED h) = 0xFFFF) ∧
    (∃ (s : State) (h : Nat) (i : Nat) (line : Nat) (target : Nat) (mode : Nat) (mask : Nat), h < s.part.halls ∧
      s.replaying = false ∧ (s.hl h).hold.sync = some line ∧ (s.hl h).hold.syncSeen = none ∧ s.arrayLat h ≤ s.treadsSince
      h (s.hl h).hold.tread ∧ s.lives h = [i] ∧ (s.alc h i).joined = true ∧ (s.alc h i).term = .sync line target mode mask
      ∧ target < 2 ^ 16 ∧ (s.alc h i).termAt < 2 ^ 16 - 1 ∧ (s.hl h).eng.members.map (fun m => m.i) = [i] ∧ s.g
      (F.STAIR_STAT.SEALED h) = 0xFFFF) ∧
    (∃ (s : State) (h : Nat), h < s.part.halls ∧ (s.hl h).driveLine ≠ none ∧ s.arrayLat h < s.treadsSince h (s.hl
      h).driveTread) ∧
    (∃ (s : State) (h : Nat) (line : Nat) (high : Bool), h < s.part.halls ∧ (s.hl h).hold.sync = some line ∧ (s.hl
      h).hold.syncSeen = some high ∧ (s.hl h).hold.dec = true ∧ (s.hl h).hold.target = none ∧ s.arrayLat h + s.g
      (F.GAL_ALAT.RESUME h) ≤ s.treadsSince h (s.hl h).hold.tread) ∧
    (∃ (s : State) (h : Nat) (line : Nat) (f : Nat) (high : Bool), h < s.part.halls ∧ (s.hl h).hold.sync = some line ∧
      (s.hl h).hold.syncSeen = some high ∧ s.arrayLat h + s.g (F.GAL_ALAT.RESUME h) ≤ s.treadsSince h (s.hl h).hold.tread
      ∧ (s.hl h).hold.target = some f ∧ s.slice h = false ∧ f < 4096 ∧ (s.hl h).hold.stretch = none ∧ (s.hl
      h).hold.release = none ∧ (s.hl h).hold.stall = none ∧ (s.hl h).hold.head = false ∧ (s.hl h).hold.seg = false ∧ (s.hl
      h).hold.dec = false ∧ (s.hl h).hold.kept = false ∧ (s.hl h).hold.brw = false ∧ (s.hl h).hold.swap = false ∧ (s.hl
      h).hold.swapWait = none) :=
  ⟨
    ⟨((live1 ready 70 { ctx := { pc := 9 }, term := .brw 0 0x8 500 5, termAt := 9, resamples := 4, sdone := true }).p
      (F.AXIS_POS_LO.POS_LO 31) 70).modHl 31 (fun x =>
      { x with hold := { brw := true, brwFrom := 69 }, eng := { x.eng with members := [{ i := 70, ctx := { pc := 9 }, cond
                                                                                           := 5, win := 0, n := 3, st :=
                                                                                           .gone, termAt := 9 }] } }), (31
      : Nat), (70 : Nat), (0 : Nat), (8 : Nat), (500 : Nat), (5 : Nat), by decide +kernel⟩,
    ⟨((live1 ready 70 { ctx := { pc := 9 }, term := .brw 2 0x8 500 5, termAt := 9, resamples := 4, sdone := true }).p
      (F.AXIS_POS_LO.POS_LO 31) 70).modHl 31 (fun x =>
      { x with hold := { brw := true, brwFrom := 69 }, eng := { x.eng with members := [{ i := 70, ctx := { pc := 9 }, cond
                                                                                           := 5, win := 0, n := 3, st :=
                                                                                           .gone, termAt := 9 }] } }), (31
      : Nat), (70 : Nat), (2 : Nat), (8 : Nat), (500 : Nat), (5 : Nat), by decide +kernel⟩,
    ⟨((live1 ready 70
      { ctx := { pc := 9 }, term := .brw 2 0x8 500 5, termAt := 9, resamples := 5, sdone := true })).modHl 31 (fun x =>
      { x with hold := { brw := true, brwFrom := 69 }, eng := { x.eng with members := [{ i := 70, ctx := { pc := 9 }, cond
                                                                                           := 5, win := 0, n := 3, st :=
                                                                                           .gone, termAt := 9 }] } }), (31
      : Nat), (70 : Nat), (2 : Nat), (8 : Nat), (500 : Nat), (5 : Nat), by decide +kernel⟩,
    ⟨((live1 ready 70 { ctx := { pc := 9 }, term := .sync 3 500 1 8, termAt := 9 }).p (F.AXIS_POS_LO.POS_LO 31)
      0x7FFFFFFF).modHl 31 (fun x =>
      { x with hold := { tread := 5, sync := some 3 }, eng := { x.eng with members := [{ i := 70, ctx := { pc := 9 }, cond
                                                                                           := 5, win := 0, n := 3, st :=
                                                                                           .gone, termAt := 9 }] } }), (31
      : Nat), (70 : Nat), (3 : Nat), (500 : Nat), (1 : Nat), (8 : Nat), by decide +kernel⟩,
    ⟨(ready.p (F.AXIS_POS_LO.POS_LO 31) 0x7FFFFFFF).modHl 31 (fun x => { x with driveLine := some 3, driveTread := 5 }),
      (31 : Nat), by decide +kernel⟩,
    ⟨(ready.p (F.AXIS_POS_LO.POS_LO 31) 0x7FFFFFFF).modHl 31 (fun x =>
      { x with hold := { tread := 5, sync := some 3, syncSeen := some true, dec := true } }), (31 : Nat), (3 : Nat), (true
      : Bool), by decide +kernel⟩,
    ⟨((live1 ready 70 {}).p (F.AXIS_POS_LO.POS_LO 31) 0x7FFFFFFF).modHl 31 (fun x =>
      { x with hold := { tread := 5, target := some 9, sync := some 3, syncSeen := some true } }), (31 : Nat), (3 : Nat),
      (9 : Nat), (true : Bool), by decide +kernel⟩⟩

/-- States and operands that meet the hypotheses of HallRequests, clause by clause. -/
theorem test_meets_hall_requests :
    (∃ (s : State) (h : Nat) (target : Nat), Ready s ∧ h < s.part.halls ∧ s.replaying = false ∧ s.is (F.JMP_REQ.REQ h) =
      false ∧ s.anyLive h = true ∧ s.inWait h = false ∧ target < 2 ^ 16) ∧
    (∃ (s : State) (h : Nat) (target : Nat), Ready s ∧ h < s.part.halls ∧ s.replaying = false ∧ s.is (F.JMP_REQ.REQ h) =
      false ∧ s.anyLive h = false ∧ target < 2 ^ 16) ∧
    (∃ (s : State) (h : Nat), s.is (F.JMP_REQ.REQ h) = true) ∧
    (∃ (s : State) (h : Nat) (target : Nat) (i : Nat), Ready s ∧ h < s.part.halls ∧ s.replaying = false ∧ s.is
      (F.JMP_REQ.REQ h) = false ∧ s.lives h = [i] ∧ s.inWait h = true ∧ target < 2 ^ 16 ∧ (s.hl h).eng.members.map (fun m
      => m.i) = [i] ∧ s.g (F.STAIR_STAT.SEALED h) = 0xFFFF) ∧
    (∃ (s : State) (h : Nat) (bk : Nat), h < s.part.halls ∧ s.liveBank h = some bk ∧ (s.hl h).hold.swap = true ∧ (s.hl
      h).hold.selected = false ∧ s.dryRun = false) ∧
    (∃ (s : State) (h : Nat), h < s.part.halls ∧ (s.hl h).hold.swap = true ∧ (s.hl h).hold.selected = true ∧ (s.hl
      h).hold.dec = true) ∧
    (∃ (s : State) (h : Nat) (v : Word), Ready s ∧ h < s.part.halls ∧ (F.SYN_SCHED.ARM h).is v = true ∧ s.is
      (F.AXIS_STAT.ARMED h) = true) ∧
    (∃ (s : State) (h : Nat) (v : Word), Ready s ∧ h < s.part.halls ∧ (F.SYN_SCHED.ARM h).is v = true ∧ s.is
      (F.AXIS_STAT.ARMED h) = false ∧ ((F.SYN_SCHED.MODE h).of v = 0 ∨ s.pos h < s.g (F.SYN_AT_LO.AT_LO h) + 2 ^ 32 * s.g
      (F.SYN_AT_HI.AT_HI h))) ∧
    (∃ (s : State) (h : Nat) (c : Nat), Ready s ∧ h < s.part.halls ∧ c < 32) :=
  ⟨
    ⟨((live1 ready 70 {}).p (F.LAND_STAT.WAITING 31) 0).p (F.JMP_REQ.REQ 31) 0, (31 : Nat), (65535 : Nat),
      by decide +kernel⟩,
    ⟨(ready.p F.JNL_STAT.REPLAY 0).p (F.JMP_REQ.REQ 31) 0, (31 : Nat), (65535 : Nat), by decide +kernel⟩,
    ⟨ready.p (F.JMP_REQ.REQ 31) 1, (31 : Nat), by decide +kernel⟩,
    ⟨(((live1 ready 70 { ctx := { pc := 9, stack := [.call 3] } }).p (F.LAND_STAT.WAITING 31) 1).p (F.JMP_REQ.REQ 31)
      0).modHl 31 (fun x =>
      { x with hold := { release := some 5 }, eng := { x.eng with members := [{ i := 70, ctx := { pc := 9 }, cond := 5,
                                                                                  win := 0, n := 3, st := .gone, termAt :=
                                                                                  9 }] } }), (31 : Nat), (65535 : Nat),
      (70 : Nat), by decide +kernel⟩,
    ⟨(live1 ready 70 {}).modHl 31 (fun x => { x with hold := { swap := true } }), (31 : Nat), (2 : Nat),
      by decide +kernel⟩,
    ⟨((live1 ready 70 {}).p (F.HALL_STAT.SWAP 31) 1).modHl 31 (fun x =>
      { x with hold := { swap := true, selected := true, dec := true } }), (31 : Nat), by decide +kernel⟩,
    ⟨ready.p (F.AXIS_STAT.ARMED 31) 1, (31 : Nat), ((fieldPut 31 1 1 0) : Word), by decide +kernel⟩,
    ⟨ready.p (F.AXIS_STAT.ARMED 31) 0, (31 : Nat), ((fieldPut 31 1 1 0) : Word), by decide +kernel⟩,
    ⟨ready, (31 : Nat), (31 : Nat), by decide +kernel⟩⟩

/-- States and operands that meet the hypotheses of StairLoads, clause by clause. -/
theorem test_meets_stair_loads :
    (∃ (s : State) (q : Nat) (r : DescRun), Executes s q 3 false r ∧ dUnit r.desc < s.part.halls ∧ dscBits r.desc 22 1 7 =
      0 ∧ dsc r.desc 23 1 = 0 ∧ dscBits r.desc 24 17 15 = 0 ∧ dscZeroFrom r.desc 28 = true ∧ dscBits r.desc 24 0 17 ≠ 0 ∧
      dsc r.desc 20 2 + dscBits r.desc 24 0 17 ≤ 65536 ∧ r.owns (dUnit r.desc) = true ∧ (pagesOf (dsc r.desc 20 2)
      (dscBits r.desc 24 0 17)).any (s.pageLocked (dUnit r.desc)) = false ∧ dscBits r.desc 22 0 1 = 0 ∧ dAddr r.desc % 8 =
      0 ∧ dLen r.desc = 8 * dscBits r.desc 24 0 17) ∧
    (∃ (s : State) (q : Nat) (r : DescRun), Executes s q 3 false r ∧ dUnit r.desc < s.part.halls ∧ dscBits r.desc 22 1 7 =
      0 ∧ dsc r.desc 23 1 = 0 ∧ dscBits r.desc 24 17 15 = 0 ∧ dscZeroFrom r.desc 28 = true ∧ dscBits r.desc 24 0 17 ≠ 0 ∧
      dsc r.desc 20 2 + dscBits r.desc 24 0 17 ≤ 65536 ∧ r.owns (dUnit r.desc) = true ∧ (pagesOf (dsc r.desc 20 2)
      (dscBits r.desc 24 0 17)).any (s.pageLocked (dUnit r.desc)) = false ∧ dscBits r.desc 22 0 1 = 1 ∧ dLen r.desc = 0) ∧
    (∃ (s : State) (q : Nat) (st : Nat) (c : Nat) (j : Nat) (data : List Nat) (r : DescRun), Executes s q 3 true r ∧ dUnit
      r.desc < 32 ∧ (s.hl (dUnit r.desc)).loading = [(r.did, st, c)] ∧ data.length = 8 * c ∧ st + c ≤ 65536 ∧ j < 8 * c) ∧
    (∃ (s : State) (q : Nat) (st : Nat) (c : Nat) (r : DescRun), Executes s q 3 true r ∧ dUnit r.desc < 32 ∧ (s.hl (dUnit
      r.desc)).loading = [(r.did, st, c)]) :=
  ⟨
    ⟨run_ (ready.p (F.STAIR_STAT.SEALED 31) 1) 9 false (dk [(0, 16, 3), (24, 8, 31), (64, 64, 4096), (128, 32, 16), (160,
      16, 65534), (176, 1, 0), (192, 17, 2)]), (9 : Nat), (⟨5, 7, dk [(0, 16, 3), (24, 8, 31), (64, 64, 4096), (128, 32,
      16), (160, 16, 65534), (176, 1, 0), (192, 17, 2)], false, 0, 0⟩ : DescRun), by decide +kernel⟩,
    ⟨run_ (ready.p (F.STAIR_STAT.SEALED 31) 1) 9 false (dk [(0, 16, 3), (24, 8, 31), (64, 64, 4096), (128, 32, 0), (160,
      16, 65534), (176, 1, 1), (192, 17, 2)]), (9 : Nat), (⟨5, 7, dk [(0, 16, 3), (24, 8, 31), (64, 64, 4096), (128, 32,
      0), (160, 16, 65534), (176, 1, 1), (192, 17, 2)], false, 0, 0⟩ : DescRun), by decide +kernel⟩,
    ⟨(run_ (ready.p (F.STAIR_STAT.SEALED 31) 1) 9 true (dk [(0, 16, 3), (24, 8, 31), (64, 64, 4096), (128, 32, 16), (160,
      16, 65534), (176, 1, 0), (192, 17, 2)])).modHl 31 (fun x => { x with loading := [(5, 65534, 2)] }), (9 : Nat),
      (65534 : Nat), (2 : Nat), (15 : Nat), ([1, 2, 3, 4, 5, 6, 7, 8, 9, 10, 11, 12, 13, 14, 15, 0x1F0] : List Nat), (⟨5,
      7, dk [(0, 16, 3), (24, 8, 31), (64, 64, 4096), (128, 32, 16), (160, 16, 65534), (176, 1, 0), (192, 17, 2)], true,
      0, 0⟩ : DescRun), by decide +kernel⟩,
    ⟨(run_ (ready.p (F.STAIR_STAT.SEALED 31) 1) 9 true (dk [(0, 16, 3), (24, 8, 31), (64, 64, 4096), (128, 32, 16), (160,
      16, 65534), (176, 1, 0), (192, 17, 2)])).modHl 31 (fun x => { x with loading := [(5, 65534, 2)] }), (9 : Nat),
      (65534 : Nat), (2 : Nat), (⟨5, 7, dk [(0, 16, 3), (24, 8, 31), (64, 64, 4096), (128, 32, 16), (160, 16, 65534),
      (176, 1, 0), (192, 17, 2)], true, 0, 0⟩ : DescRun), by decide +kernel⟩⟩

/-- States and operands that meet the hypotheses of AlcoveBinding, clause by clause. -/
theorem test_meets_alcove_binding :
    (∃ (s : State) (q : Nat) (r : DescRun), Executes s q 4 false r ∧ dUnit r.desc < s.part.halls ∧ dscBits r.desc 20 12 4
      = 0 ∧ dAddr r.desc = 0 ∧ dLen r.desc = 0 ∧ dscBits r.desc 20 0 12 / 96 = dUnit r.desc ∧ r.owns (dUnit r.desc) = true
      ∧ (s.alcSt (dUnit r.desc) (dscBits r.desc 20 0 12 % 96) < alcReady ∨ alcParked < s.alcSt (dUnit r.desc) (dscBits
      r.desc 20 0 12 % 96)) ∧ s.is (F.HALL_STAT.SWAP (dUnit r.desc)) = false ∧ dscBits r.desc 28 6 2 = 0 ∧ dscBits r.desc
      29 6 2 = 0 ∧ dscBits r.desc 30 4 4 = 0 ∧ dscZeroFrom r.desc 31 = true ∧ s.ownConflict (dUnit r.desc) (dscBits r.desc
      20 0 12 % 96) (dsc r.desc 24 4) = none) ∧
    (∃ (s : State) (q : Nat) (o : Nat) (r : DescRun), Executes s q 4 false r ∧ dUnit r.desc < s.part.halls ∧ dscBits
      r.desc 20 12 4 = 0 ∧ dAddr r.desc = 0 ∧ dLen r.desc = 0 ∧ dscBits r.desc 20 0 12 / 96 = dUnit r.desc ∧ r.owns (dUnit
      r.desc) = true ∧ (s.alcSt (dUnit r.desc) (dscBits r.desc 20 0 12 % 96) < alcReady ∨ alcParked < s.alcSt (dUnit
      r.desc) (dscBits r.desc 20 0 12 % 96)) ∧ s.is (F.HALL_STAT.SWAP (dUnit r.desc)) = false ∧ dscBits r.desc 28 6 2 = 0
      ∧ dscBits r.desc 29 6 2 = 0 ∧ dscBits r.desc 30 4 4 = 0 ∧ dscZeroFrom r.desc 31 = true ∧ s.ownConflict (dUnit
      r.desc) (dscBits r.desc 20 0 12 % 96) (dsc r.desc 24 4) = some o) ∧
    (∃ (s : State) (q : Nat) (r : DescRun), Executes s q 5 false r ∧ dUnit r.desc < s.part.halls ∧ dscBits r.desc 20 12 4
      = 0 ∧ dAddr r.desc = 0 ∧ dLen r.desc = 0 ∧ dscBits r.desc 20 0 12 / 96 = dUnit r.desc ∧ r.owns (dUnit r.desc) = true
      ∧ (s.alcSt (dUnit r.desc) (dscBits r.desc 20 0 12 % 96) < alcReady ∨ alcParked < s.alcSt (dUnit r.desc) (dscBits
      r.desc 20 0 12 % 96)) ∧ s.is (F.HALL_STAT.SWAP (dUnit r.desc)) = false ∧ dscZeroFrom r.desc 22 = true ∧ s.alcSt
      (dUnit r.desc) (dscBits r.desc 20 0 12 % 96) ≠ alcFree) :=
  ⟨
    ⟨run_ (ready.p (F.HALL_STAT.SWAP 31) 0) 9 false (dk [(0, 16, 4), (24, 8, 31), (160, 12, 3066), (176, 16, 65535), (192,
      32, 0xF0000000), (224, 6, 63), (232, 6, 62), (240, 4, 9)]), (9 : Nat), (⟨5, 7, dk [(0, 16, 4), (24, 8, 31), (160,
      12, 3066), (176, 16, 65535), (192, 32, 0xF0000000), (224, 6, 63), (232, 6, 62), (240, 4, 9)], false, 0, 0⟩ :
      DescRun), by decide +kernel⟩,
    ⟨run_ (((ready.p (F.HALL_STAT.SWAP 31) 0).p (F.ALC_STATE.STATE 31 95) 2).setAlc 31 95 { own := 0x80000000 }) 9 false
      (dk [(0, 16, 4), (24, 8, 31), (160, 12, 3066), (176, 16, 65535), (192, 32, 0xF0000000), (224, 6, 63), (232, 6, 62),
      (240, 4, 9)]), (9 : Nat), (95 : Nat), (⟨5, 7, dk [(0, 16, 4), (24, 8, 31), (160, 12, 3066), (176, 16, 65535), (192,
      32, 0xF0000000), (224, 6, 63), (232, 6, 62), (240, 4, 9)], false, 0, 0⟩ : DescRun), by decide +kernel⟩,
    ⟨run_ (((ready.p (F.HALL_STAT.SWAP 31) 0).p (F.ALC_STATE.STATE 31 90) 6).setAlc 31 90 { own := 9, gmask := 3 }) 9
      false (dk [(0, 16, 5), (24, 8, 31), (160, 12, 3066)]), (9 : Nat), (⟨5, 7, dk [(0, 16, 5), (24, 8, 31), (160, 12,
      3066)], false, 0, 0⟩ : DescRun), by decide +kernel⟩⟩

/-- States and operands that meet the hypotheses of RunsAndSettings, clause by clause. -/
theorem test_meets_runs_and_settings :
    (∃ (s : State) (q : Nat) (h : Nat) (i : Nat) (r : DescRun), Executes s q 7 false r ∧ dUnit r.desc = 0 ∧ dscZeroFrom
      r.desc 24 = true ∧ dAddr r.desc = 0 ∧ dLen r.desc = 0 ∧ dsc r.desc 20 4 = 2 ^ h ∧ h < s.part.halls ∧ h < 32 ∧ r.owns
      h = true ∧ s.hallRun h = false ∧ s.backlog ≤ 13312 ∧ s.axRuns h = true ∧ s.fenced h = false ∧ s.slice h = false ∧
      r.did ∉ s.unitDids ∧ i < 96 ∧ s.alcSt h i = alcBound) ∧
    (∃ (s : State) (q : Nat) (h : Nat) (i : Nat) (r : DescRun), Executes s q 7 false r ∧ dUnit r.desc = 0 ∧ dscZeroFrom
      r.desc 24 = true ∧ dAddr r.desc = 0 ∧ dLen r.desc = 0 ∧ dsc r.desc 20 4 = 2 ^ h ∧ h < s.part.halls ∧ h < 32 ∧ r.owns
      h = true ∧ s.hallRun h = false ∧ s.backlog ≤ 13312 ∧ s.axRuns h = true ∧ s.fenced h = false ∧ s.slice h = true ∧
      s.liveBank h = none ∧ s.replaying = false ∧ s.startRuns = [] ∧ i < 96 ∧ s.alcSt h i = alcBound) ∧
    (∃ (s : State) (q : Nat) (h : Nat) (r : DescRun), Executes s q 7 false r ∧ dUnit r.desc = 0 ∧ dscZeroFrom r.desc 24 =
      true ∧ dAddr r.desc = 0 ∧ dLen r.desc = 0 ∧ dsc r.desc 20 4 = 2 ^ h ∧ h < s.part.halls ∧ h < 32 ∧ r.owns h = true ∧
      s.hallRun h = true) ∧
    (∃ (s : State) (q : Nat) (h : Nat) (r : DescRun), Executes s q 8 false r ∧ dUnit r.desc = 0 ∧ dscZeroFrom r.desc 24 =
      true ∧ dAddr r.desc = 0 ∧ dLen r.desc = 0 ∧ dsc r.desc 20 4 = 2 ^ h ∧ h < s.part.halls ∧ h < 32 ∧ r.owns h = true ∧
      s.hallRun h = false ∧ s.stopRuns = []) ∧
    (∃ (s : State) (q : Nat) (h : Nat) (i : Nat) (r : DescRun), Executes s q 8 false r ∧ dUnit r.desc = 0 ∧ dscZeroFrom
      r.desc 24 = true ∧ dAddr r.desc = 0 ∧ dLen r.desc = 0 ∧ dsc r.desc 20 4 = 2 ^ h ∧ h < s.part.halls ∧ h < 32 ∧ r.owns
      h = true ∧ (List.range 96).filter (fun j => decide (alcReady ≤ s.alcSt h j ∧ s.alcSt h j ≤ alcParked)) = [i] ∧
      s.liveBank h = none ∧ s.lateNow h = false ∧ s.stopRuns = [] ∧ (s.hl h).eng.stops = [] ∧ r.did ∉ s.unitDids) ∧
    (∃ (s : State) (h : Nat) (c : Nat) (e : Nat) (f : Nat) (bk : Nat) (a : Nat) (n : Nat) (i : Nat) (k : Nat) (v : Int),
      (s.hl h).play = some f ∧ s.liveBank h = some bk ∧ (s.flt_ h f).start = a ∧ (s.flt_ h f).len = n ∧ h < s.part.halls ∧
      c < 32 ∧ s.playing h = true ∧ e < 64 * n ∧ s.codeAt h (64 * a + e) c = 5 ∧ s.slotHeld h bk c = false ∧ s.fenced h =
      false ∧ s.replaying = false ∧ s.is (F.PE_STAT.BLANKED h c) = false ∧ s.is (F.PE_STAT.EN_EFF h c) = true ∧ (s.ch h
      c).cal = false ∧ s.owner h bk c = some i ∧ s.alcSt h i = alcLive ∧ (s.ch h c).settle = false ∧ s.g (F.TSET_CMP.CMODE
      h (s.tsOf h bk c) c) = 0 ∧ ((compSee h c v s).ch h c).cls = k ∧ k < 2 ∧ (s.alc h i).failEntry ≠ some e ∧ (s.alc h
      i).fails < 2 ^ 31 - 1 ∧ (s.alc h i).firstEntry = none ∧ (s.alc h i).firstFlight = none) ∧
    (∃ (s : State) (h : Nat) (c : Nat) (e : Nat) (f : Nat) (bk : Nat) (a : Nat) (n : Nat) (i : Nat) (v : Int), (s.hl
      h).play = some f ∧ s.liveBank h = some bk ∧ (s.flt_ h f).start = a ∧ (s.flt_ h f).len = n ∧ h < s.part.halls ∧ c <
      32 ∧ s.playing h = true ∧ e < 64 * n ∧ s.codeAt h (64 * a + e) c = 5 ∧ s.slotHeld h bk c = false ∧ s.fenced h =
      false ∧ s.replaying = false ∧ s.is (F.PE_STAT.BLANKED h c) = false ∧ s.is (F.PE_STAT.EN_EFF h c) = true ∧ (s.ch h
      c).cal = false ∧ s.owner h bk c = some i ∧ s.alcSt h i = alcLive ∧ (s.ch h c).settle = false ∧ s.g (F.TSET_CMP.CMODE
      h (s.tsOf h bk c) c) = 0 ∧ ((compSee h c v s).ch h c).cls = 2) ∧
    (∃ (s : State) (h : Nat) (c : Nat) (e : Nat) (f : Nat) (bk : Nat) (a : Nat) (n : Nat), (s.hl h).play = some f ∧
      s.liveBank h = some bk ∧ (s.flt_ h f).start = a ∧ (s.flt_ h f).len = n ∧ h < s.part.halls ∧ c < 32 ∧ s.playing h =
      true ∧ e < 64 * n ∧ codeCompares (s.codeAt h (64 * a + e) c) = true ∧ s.slotHeld h bk c = false ∧ s.fenced h = false
      ∧ s.replaying = false ∧ s.is (F.PE_STAT.BLANKED h c) = true ∧ s.g (F.BLANK_CNT.COUNT h c) < 2 ^ 31 - 1) ∧
    (∃ (s : State) (h : Nat) (c : Nat) (e : Nat) (f : Nat) (bk : Nat) (a : Nat) (n : Nat), (s.hl h).play = some f ∧
      s.liveBank h = some bk ∧ (s.flt_ h f).start = a ∧ (s.flt_ h f).len = n ∧ h < s.part.halls ∧ c < 32 ∧ s.playing h =
      true ∧ e < 64 * n ∧ codeCompares (s.codeAt h (64 * a + e) c) = true ∧ s.slotHeld h bk c = false ∧ s.fenced h = false
      ∧ s.replaying = false ∧ s.is (F.PE_STAT.BLANKED h c) = false ∧ s.is (F.PE_STAT.EN_EFF h c) = false) ∧
    (∃ (s : State) (h : Nat) (k : Nat), h < s.part.halls ∧ k < 3 ∧ s.is (F.DEADLINE_HI.EN h k) = true ∧ s.deadline h k <
      s.pos h ∧ (s.bank h k).dlSeen = false ∧ (s.bank h k).dlTread ≠ some (s.pos h) ∧ s.liveBank h ≠ some k ∧ s.waits h k
      = true) ∧
    (∃ (s : State) (h : Nat) (k : Nat), h < s.part.halls ∧ k < 3 ∧ s.is (F.DEADLINE_HI.EN h k) = true ∧ s.deadline h k <
      s.pos h ∧ (s.bank h k).dlSeen = false ∧ (s.bank h k).dlTread ≠ some (s.pos h) ∧ (s.liveBank h = some k ∨ s.waits h k
      = false)) ∧
    (∃ (s : State) (h : Nat) (k : Nat), Ready s ∧ h < s.part.halls ∧ k < 3) ∧
    (∃ (s : State) (h : Nat) (k : Nat), Ready s ∧ h < s.part.halls ∧ k < 3) ∧
    (∃ (s : State) (v : Word), s.inService = true ∧ 40 ≤ F.PBUDGET.WATTS.of v ∧ F.PBUDGET.WATTS.of v ≤ 150) ∧
    (∃ (s : State) (v : Word), s.inService = true ∧ (F.PBUDGET.WATTS.of v < 40 ∨ 150 < F.PBUDGET.WATTS.of v)) ∧
    (∃ (s : State) (h : Nat) (g : Nat), Ready s ∧ h < s.part.halls ∧ g < 4 ∧ s.bcastLive h g = false) ∧
    (∃ (s : State) (h : Nat) (g : Nat) (v : Word), Ready s ∧ h < s.part.halls ∧ g < 4 ∧ s.bcastLive h g = false ∧
      ((List.range 4).any (fun k => k != g && (s.g (F.BCAST_MEM.MEM h k) &&& v.toNat) != 0)) = false) ∧
    (∃ (s : State) (h : Nat) (g : Nat), Ready s ∧ h < s.part.halls ∧ g < 4 ∧ s.bcastLive h g = true) ∧
    (∃ (s : State) (h : Nat) (g : Nat) (v : Word), Ready s ∧ h < s.part.halls ∧ g < 4 ∧ ((List.range 4).any (fun k => k !=
      g && (s.g (F.BCAST_MEM.MEM h k) &&& v.toNat) != 0)) = true) ∧
    (∃ (s : State) (h : Nat) (k : Nat) (v : Word), Ready s ∧ h < s.part.halls ∧ k < 3 ∧ (F.SCHED_BANK.SMU_GRP h k).of v <
      s.part.groups) ∧
    (∃ (s : State) (h : Nat) (k : Nat) (v : Word), Ready s ∧ h < s.part.halls ∧ k < 3 ∧ s.part.groups ≤
      (F.SCHED_BANK.SMU_GRP h k).of v) :=
  ⟨
    ⟨run_ ((((ready.p (F.ALC_STATE.STATE 31 90) 2).p (F.UNIT_STATE.STATE 31) 0).p (F.AXIS_STAT.STATE 31) 2).p
      (F.CAL_HALL.SLICE 31) 0) 9 false (dk [(0, 16, 7), (160, 32, 0x80000000)]), (9 : Nat), (31 : Nat), (90 : Nat), (⟨5,
      7, dk [(0, 16, 7), (160, 32, 0x80000000)], false, 0, 0⟩ : DescRun), by decide +kernel⟩,
    ⟨run_ (((((ready.p (F.ALC_STATE.STATE 31 90) 2).p (F.UNIT_STATE.STATE 31) 0).p (F.AXIS_STAT.STATE 31) 2).p
      (F.CAL_HALL.SLICE 31) 1).p (F.HALL_STAT.LIVE_BANK 31) 0 |>.p F.JNL_STAT.REPLAY 0) 9 false (dk [(0, 16, 7), (160, 32,
      0x80000000)]), (9 : Nat), (31 : Nat), (90 : Nat), (⟨5, 7, dk [(0, 16, 7), (160, 32, 0x80000000)], false, 0, 0⟩ :
      DescRun), by decide +kernel⟩,
    ⟨run_ (ready.p (F.ALC_STATE.STATE 31 90) 3) 9 false (dk [(0, 16, 7), (160, 32, 0x80000000)]), (9 : Nat), (31 : Nat),
      (⟨5, 7, dk [(0, 16, 7), (160, 32, 0x80000000)], false, 0, 0⟩ : DescRun), by decide +kernel⟩,
    ⟨run_ ready 9 false (dk [(0, 16, 8), (160, 32, 0x80000000)]), (9 : Nat), (31 : Nat), (⟨5, 7, dk [(0, 16, 8), (160, 32,
      0x80000000)], false, 0, 0⟩ : DescRun), by decide +kernel⟩,
    ⟨run_ (((ready.p (F.ALC_STATE.STATE 31 90) 3).p (F.HALL_STAT.LIVE_BANK 31) 0).p (F.FLT_STAT.PLAYING 31) 0) 9 false (dk
      [(0, 16, 8), (160, 32, 0x80000000)]), (9 : Nat), (31 : Nat), (90 : Nat), (⟨5, 7, dk [(0, 16, 8), (160, 32,
      0x80000000)], false, 0, 0⟩ : DescRun), by decide +kernel⟩,
    ⟨((((live1 ready 90 { own := 0x80000000, fails := 6, winFails := 1 }).p (F.PE_STAT.BLANKED 31 31) 0).p
      (F.BCAST_MEM.MEM 31 0) 0).p (F.TSET_CMP.CMODE 31 0 31) 0).p (F.FLT_STAT.PLAYING 31) 1 |> (fun (s : State) =>
      ((((((((s.p (F.PE_STAT.EN_EFF 31 31) 1).p (F.PE_STAT.SAFE 31 31) 0).p (F.LVL_TERM.VRANGE 31 31) 0).p (F.LVL_CMP.VOH
      31 31) 0xFFFF).p (F.LVL_CMP.VOL 31 31) 0x8000).p (F.LVL_TERM.HYST 31 31) 0).p (F.ALC_STATE.TS 31 90) 0).p
      (F.FLOG_LIMIT.LIMIT 31) 0).setFlt 31 9 { st := 3, start := 2, len := 1 } |>.modHl 31 (fun x =>
      { x with play := some 9 })) |> (fun (s : State) => s.wrByte 31 (16 * 133 + 15) 0x50#8), (31 : Nat), (31 : Nat), (5 :
      Nat), (9 : Nat), (2 : Nat), (2 : Nat), (1 : Nat), (90 : Nat), (1 : Nat), (1000000000 : Int), by decide +kernel⟩,
    ⟨((((((live1 ready 90 { own := 0x80000000, fails := 6, winFails := 1 }).p (F.PE_STAT.BLANKED 31 31) 0).p
      (F.BCAST_MEM.MEM 31 0) 0).p (F.TSET_CMP.CMODE 31 0 31) 0).p (F.FLT_STAT.PLAYING 31) 1 |> (fun (s : State) =>
      ((((((((s.p (F.PE_STAT.EN_EFF 31 31) 1).p (F.PE_STAT.SAFE 31 31) 0).p (F.LVL_TERM.VRANGE 31 31) 0).p (F.LVL_CMP.VOH
      31 31) 0xFFFF).p (F.LVL_CMP.VOL 31 31) 0x8000).p (F.LVL_TERM.HYST 31 31) 0).p (F.ALC_STATE.TS 31 90) 0).p
      (F.FLOG_LIMIT.LIMIT 31) 0).setFlt 31 9 { st := 3, start := 2, len := 1 } |>.modHl 31 (fun x =>
      { x with play := some 9 })) |> (fun (s : State) => s.wrByte 31 (16 * 133 + 15) 0x50#8)) : State).p (F.LVL_CMP.VOH 31
      31) 0, (31 : Nat), (31 : Nat), (5 : Nat), (9 : Nat), (2 : Nat), (2 : Nat), (1 : Nat), (90 : Nat), (6900000000 :
      Int), by decide +kernel⟩,
    ⟨((((((live1 ready 90 { own := 0x80000000, fails := 6, winFails := 1 }).p (F.PE_STAT.BLANKED 31 31) 0).p
      (F.BCAST_MEM.MEM 31 0) 0).p (F.TSET_CMP.CMODE 31 0 31) 0).p (F.FLT_STAT.PLAYING 31) 1 |> (fun (s : State) =>
      ((((((((s.p (F.PE_STAT.EN_EFF 31 31) 1).p (F.PE_STAT.SAFE 31 31) 0).p (F.LVL_TERM.VRANGE 31 31) 0).p (F.LVL_CMP.VOH
      31 31) 0xFFFF).p (F.LVL_CMP.VOL 31 31) 0x8000).p (F.LVL_TERM.HYST 31 31) 0).p (F.ALC_STATE.TS 31 90) 0).p
      (F.FLOG_LIMIT.LIMIT 31) 0).setFlt 31 9 { st := 3, start := 2, len := 1 } |>.modHl 31 (fun x =>
      { x with play := some 9 })) |> (fun (s : State) => s.wrByte 31 (16 * 133 + 15) 0x50#8)) : State).p
      (F.PE_STAT.BLANKED 31 31) 1 |>.p (F.BLANK_CNT.COUNT 31 31) 4, (31 : Nat), (31 : Nat), (5 : Nat), (9 : Nat), (2 :
      Nat), (2 : Nat), (1 : Nat), by decide +kernel⟩,
    ⟨((((((live1 ready 90 { own := 0x80000000, fails := 6, winFails := 1 }).p (F.PE_STAT.BLANKED 31 31) 0).p
      (F.BCAST_MEM.MEM 31 0) 0).p (F.TSET_CMP.CMODE 31 0 31) 0).p (F.FLT_STAT.PLAYING 31) 1 |> (fun (s : State) =>
      ((((((((s.p (F.PE_STAT.EN_EFF 31 31) 1).p (F.PE_STAT.SAFE 31 31) 0).p (F.LVL_TERM.VRANGE 31 31) 0).p (F.LVL_CMP.VOH
      31 31) 0xFFFF).p (F.LVL_CMP.VOL 31 31) 0x8000).p (F.LVL_TERM.HYST 31 31) 0).p (F.ALC_STATE.TS 31 90) 0).p
      (F.FLOG_LIMIT.LIMIT 31) 0).setFlt 31 9 { st := 3, start := 2, len := 1 } |>.modHl 31 (fun x =>
      { x with play := some 9 })) |> (fun (s : State) => s.wrByte 31 (16 * 133 + 15) 0x50#8)) : State).p (F.PE_STAT.EN_EFF
      31 31) 0, (31 : Nat), (31 : Nat), (5 : Nat), (9 : Nat), (2 : Nat), (2 : Nat), (1 : Nat), by decide +kernel⟩,
    ⟨((((ready.p (F.ALC_STATE.STATE 31 90) 3).p (F.HALL_STAT.LIVE_BANK 31) 0).wr (R.DEADLINE_HI 31 2) 0x80000000#32).wr
      (R.DEADLINE_LO 31 2) 5).p (F.AXIS_POS_LO.POS_LO 31) 6, (31 : Nat), (2 : Nat), by decide +kernel⟩,
    ⟨(((ready.p (F.HALL_STAT.LIVE_BANK 31) 0).wr (R.DEADLINE_HI 31 2) 0x80000000#32).wr (R.DEADLINE_LO 31 2) 5).p
      (F.AXIS_POS_LO.POS_LO 31) 6, (31 : Nat), (2 : Nat), by decide +kernel⟩,
    ⟨ready, (31 : Nat), (2 : Nat), by decide +kernel⟩,
    ⟨ready, (31 : Nat), (2 : Nat), by decide +kernel⟩,
    ⟨ready, (0xFFFFFF96#32 : Word), by decide +kernel⟩,
    ⟨ready, (151#32 : Word), by decide +kernel⟩,
    ⟨ready, (31 : Nat), (3 : Nat), by decide +kernel⟩,
    ⟨((ready.wr (R.BCAST_MEM 31 0) 0).wr (R.BCAST_MEM 31 1) 0).wr (R.BCAST_MEM 31 2) 0, (31 : Nat), (3 : Nat),
      (0xFFFFFFFF#32 : Word), by decide +kernel⟩,
    ⟨(live1 ready 90 { gmask := 8 }), (31 : Nat), (3 : Nat), by decide +kernel⟩,
    ⟨ready.wr (R.BCAST_MEM 31 0) 0x80000000, (31 : Nat), (3 : Nat), (0xFFFFFFFF#32 : Word), by decide +kernel⟩,
    ⟨ready, (31 : Nat), (2 : Nat), (0xFFFFFFFF#32 : Word), by decide +kernel⟩,
    ⟨{ ready with part := .s }, (15 : Nat), (2 : Nat), (0xFFFFFFFF#32 : Word), by decide +kernel⟩⟩

/-- States and operands that meet the hypotheses of QueuesAndDoorbells, clause by clause. -/
theorem test_meets_queues_and_doorbells :
    (∃ (s : State) (d : Nat) (q : Nat) (v : Word), Ready s ∧ q < 64 ∧ d < 8 ∧ s.g (F.QP_CFG.OWNER q) = d ∧ s.qSt q = qRun
      ∧ (F.QP_SQ_DB.INDEX d q).of v < s.sqSize q ∧ ringDist (s.sqSize q) (s.sqHead q) (s.queue q).tail ≤ ringDist
      (s.sqSize q) (s.sqHead q) ((F.QP_SQ_DB.INDEX d q).of v)) ∧
    (∃ (s : State) (d : Nat) (q : Nat) (v : Word), Ready s ∧ q < 64 ∧ d < 8 ∧ s.g (F.QP_CFG.OWNER q) = d ∧ ¬(s.qSt q =
      qRun ∧ (F.QP_SQ_DB.INDEX d q).of v < s.sqSize q ∧ ringDist (s.sqSize q) (s.sqHead q) (s.queue q).tail ≤ ringDist
      (s.sqSize q) (s.sqHead q) ((F.QP_SQ_DB.INDEX d q).of v))) ∧
    (∃ (s : State) (d : Nat) (q : Nat), Ready s ∧ q < 64 ∧ d < 8 ∧ s.g (F.QP_CFG.OWNER q) ≠ d) ∧
    (∃ (s : State) (d : Nat) (q : Nat) (v : Word), Ready s ∧ q < 64 ∧ d < 8 ∧ s.g (F.QP_CFG.OWNER q) = d ∧ s.qSt q ≠ qOff
      ∧ (F.QP_CQ_DB.INDEX d q).of v < s.cqSize q ∧ ringDist (s.cqSize q) (s.queue q).cqHead ((F.QP_CQ_DB.INDEX d q).of v)
      ≤ ringDist (s.cqSize q) (s.queue q).cqHead (s.cqTail q)) ∧
    (∃ (s : State) (d : Nat) (q : Nat) (v : Word), Ready s ∧ q < 64 ∧ d < 8 ∧ s.g (F.QP_CFG.OWNER q) = d ∧ ¬(s.qSt q ≠
      qOff ∧ (F.QP_CQ_DB.INDEX d q).of v < s.cqSize q ∧ ringDist (s.cqSize q) (s.queue q).cqHead ((F.QP_CQ_DB.INDEX d
      q).of v) ≤ ringDist (s.cqSize q) (s.queue q).cqHead (s.cqTail q))) ∧
    (∃ (s : State) (d : Nat) (q : Nat), Ready s ∧ q < 64 ∧ d < 8 ∧ s.g (F.QP_CFG.OWNER q) ≠ d) ∧
    (∃ (s : State) (d : Nat) (r : Nat) (v : Word), Ready s ∧ r < 5 ∧ ringOk s.part r = true ∧ d < 8 ∧ s.g (F.RR_CFG.OWNER
      r) = d ∧ s.g (F.RR_CFG.LOG r) ≤ 20 ∧ s.is (F.RR_CFG.EN r) = true ∧ (F.RR_HEAD_DB.INDEX d r).of v < s.ringSize r ∧
      ringDist (s.ringSize r) (s.g (F.RR_HEAD.INDEX r)) ((F.RR_HEAD_DB.INDEX d r).of v) ≤ ringDist (s.ringSize r) (s.g
      (F.RR_HEAD.INDEX r)) (s.g (F.RR_TAIL.INDEX r))) ∧
    (∃ (s : State) (d : Nat) (r : Nat) (v : Word), Ready s ∧ r < 5 ∧ ringOk s.part r = true ∧ d < 8 ∧ s.g (F.RR_CFG.OWNER
      r) = d ∧ ¬(s.is (F.RR_CFG.EN r) = true ∧ (F.RR_HEAD_DB.INDEX d r).of v < s.ringSize r ∧ ringDist (s.ringSize r) (s.g
      (F.RR_HEAD.INDEX r)) ((F.RR_HEAD_DB.INDEX d r).of v) ≤ ringDist (s.ringSize r) (s.g (F.RR_HEAD.INDEX r)) (s.g
      (F.RR_TAIL.INDEX r)))) ∧
    (∃ (s : State) (d : Nat) (r : Nat), Ready s ∧ r < 5 ∧ ringOk s.part r = true ∧ d < 8 ∧ s.g (F.RR_CFG.OWNER r) ≠ d) ∧
    (∃ (s : State) (q : Nat) (v : Word), Ready s ∧ q < 64 ∧ (F.QP_CFG.EN q).is v = true ∧ s.qSt q = qOff ∧ 4 ≤
      (F.QP_CFG.SQ_LOG q).of v ∧ (F.QP_CFG.SQ_LOG q).of v ≤ 16 ∧ 4 ≤ (F.QP_CFG.CQ_LOG q).of v ∧ (F.QP_CFG.CQ_LOG q).of v ≤
      16) ∧
    (∃ (s : State) (q : Nat) (v : Word), Ready s ∧ q < 64 ∧ (F.QP_CFG.EN q).is v = true ∧ s.qSt q = qOff ∧
      ((F.QP_CFG.SQ_LOG q).of v < 4 ∨ 16 < (F.QP_CFG.SQ_LOG q).of v ∨ (F.QP_CFG.CQ_LOG q).of v < 4 ∨ 16 < (F.QP_CFG.CQ_LOG
      q).of v)) ∧
    (∃ (s : State) (q : Nat) (v : Word), Ready s ∧ q < 64 ∧ (F.QP_CFG.EN q).is v = true ∧ s.qSt q ≠ qOff) ∧
    (∃ (s : State) (q : Nat) (v : Word), Ready s ∧ q < 64 ∧ (F.QP_CFG.EN q).is v = false ∧ s.qSt q = qOff) ∧
    (∃ (s : State) (q : Nat) (v : Word), Ready s ∧ q < 64 ∧ (F.QP_CFG.EN q).is v = false ∧ s.qSt q = qRun) ∧
    (∃ (s : State) (q : Nat) (v : Word), Ready s ∧ q < 64 ∧ (F.QP_CFG.EN q).is v = false ∧ s.qSt q = qHalted) ∧
    (∃ (s : State) (q : Nat) (v : Word), Ready s ∧ q < 64 ∧ (F.QP_CFG.EN q).is v = false ∧ s.qSt q = qDrain) ∧
    (∃ (s : State) (q : Nat), q < 64 ∧ s.qSt q = qDrain ∧ (s.queue q).run = none ∧ (s.queue q).held = none ∧ (s.queue
      q).fail = none) ∧
    (∃ (s : State) (q : Nat), q < 64 ∧ (s.qSt q ≠ qDrain ∨ (s.queue q).run ≠ none ∨ (s.queue q).held ≠ none ∨ (s.queue
      q).fail ≠ none)) ∧
    (∃ (s : State) (r : Nat) (v : Word), Ready s ∧ r < 5 ∧ ringOk s.part r = true ∧ (F.RR_CFG.EN r).is v = true ∧ s.is
      (F.RR_CFG.EN r) = false ∧ 6 ≤ (F.RR_CFG.LOG r).of v ∧ (F.RR_CFG.LOG r).of v ≤ 20) ∧
    (∃ (s : State) (r : Nat) (v : Word), Ready s ∧ r < 5 ∧ ringOk s.part r = true ∧ (F.RR_CFG.EN r).is v = true ∧ s.is
      (F.RR_CFG.EN r) = true ∧ 6 ≤ (F.RR_CFG.LOG r).of v ∧ (F.RR_CFG.LOG r).of v ≤ 20 ∧ (v &&& 0x71F03F80#32) = (s.rd
      (R.RR_CFG r) &&& 0x71F03F80#32)) ∧
    (∃ (s : State) (r : Nat) (v : Word), Ready s ∧ r < 5 ∧ ringOk s.part r = true ∧ (F.RR_CFG.EN r).is v = true ∧ s.is
      (F.RR_CFG.EN r) = true ∧ 6 ≤ (F.RR_CFG.LOG r).of v ∧ (F.RR_CFG.LOG r).of v ≤ 20 ∧ (v &&& 0x71F03F80#32) ≠ (s.rd
      (R.RR_CFG r) &&& 0x71F03F80#32)) ∧
    (∃ (s : State) (r : Nat) (v : Word), Ready s ∧ r < 5 ∧ ringOk s.part r = true ∧ (F.RR_CFG.EN r).is v = true ∧
      ((F.RR_CFG.LOG r).of v < 6 ∨ 20 < (F.RR_CFG.LOG r).of v)) ∧
    (∃ (s : State) (r : Nat) (v : Word), Ready s ∧ r < 5 ∧ ringOk s.part r = true ∧ (F.RR_CFG.EN r).is v = false ∧ s.is
      (F.RR_CFG.EN r) = true ∧ 6 ≤ (F.RR_CFG.LOG r).of v ∧ (F.RR_CFG.LOG r).of v ≤ 20) ∧
    (∃ (s : State) (r : Nat) (v : Word), Ready s ∧ r < 5 ∧ ringOk s.part r = true ∧ (F.RR_CFG.EN r).is v = false ∧ s.is
      (F.RR_CFG.EN r) = false ∧ 6 ≤ (F.RR_CFG.LOG r).of v ∧ (F.RR_CFG.LOG r).of v ≤ 20) ∧
    (∃ (s : State) (r : Nat) (v : Word), Ready s ∧ r < 5 ∧ ringOk s.part r = true ∧ (F.RR_CFG.EN r).is v = false ∧
      ((F.RR_CFG.LOG r).of v < 6 ∨ 20 < (F.RR_CFG.LOG r).of v)) :=
  ⟨
    ⟨((((((ready.wr (R.QP_CFG 63) 0).p (F.QP_CFG.SQ_LOG 63) 5).p (F.QP_CFG.CQ_LOG 63) 4).p (F.QP_CFG.OWNER 63) 7).p
      (F.QP_STAT.STATE 63) 1).p (F.QP_PTRS.SQ_HEAD 63) 30).setQueue 63 { tail := 31 }, (7 : Nat), (63 : Nat), (29#32 :
      Word), by decide +kernel⟩,
    ⟨((((((ready.wr (R.QP_CFG 63) 0).p (F.QP_CFG.SQ_LOG 63) 5).p (F.QP_CFG.CQ_LOG 63) 4).p (F.QP_CFG.OWNER 63) 7).p
      (F.QP_STAT.STATE 63) 1).p (F.QP_PTRS.SQ_HEAD 63) 30).setQueue 63 { tail := 31 }, (7 : Nat), (63 : Nat), (30#32 :
      Word), by decide +kernel⟩,
    ⟨((((((ready.wr (R.QP_CFG 63) 0).p (F.QP_CFG.SQ_LOG 63) 5).p (F.QP_CFG.CQ_LOG 63) 4).p (F.QP_CFG.OWNER 63) 7).p
      (F.QP_STAT.STATE 63) 1).p (F.QP_PTRS.SQ_HEAD 63) 30).setQueue 63 { tail := 31 }, (6 : Nat), (63 : Nat),
      by decide +kernel⟩,
    ⟨((((((ready.wr (R.QP_CFG 63) 0).p (F.QP_CFG.SQ_LOG 63) 5).p (F.QP_CFG.CQ_LOG 63) 4).p (F.QP_CFG.OWNER 63) 7).p
      (F.QP_STAT.STATE 63) 3).p (F.QP_PTRS.CQ_TAIL 63) 2).setQueue 63 { cqHead := 14, held := some 5 }, (7 : Nat), (63 :
      Nat), (1#32 : Word), by decide +kernel⟩,
    ⟨((((((ready.wr (R.QP_CFG 63) 0).p (F.QP_CFG.SQ_LOG 63) 5).p (F.QP_CFG.CQ_LOG 63) 4).p (F.QP_CFG.OWNER 63) 7).p
      (F.QP_STAT.STATE 63) 3).p (F.QP_PTRS.CQ_TAIL 63) 2).setQueue 63 { cqHead := 14, held := some 5 }, (7 : Nat), (63 :
      Nat), (3#32 : Word), by decide +kernel⟩,
    ⟨((((((ready.wr (R.QP_CFG 63) 0).p (F.QP_CFG.SQ_LOG 63) 5).p (F.QP_CFG.CQ_LOG 63) 4).p (F.QP_CFG.OWNER 63) 7).p
      (F.QP_STAT.STATE 63) 3).p (F.QP_PTRS.CQ_TAIL 63) 2).setQueue 63 { cqHead := 14, held := some 5 }, (6 : Nat), (63 :
      Nat), by decide +kernel⟩,
    ⟨((((ready.p (F.RR_CFG.OWNER 4) 7).p (F.RR_CFG.EN 4) 1).p (F.RR_CFG.LOG 4) 6).p (F.RR_HEAD.INDEX 4) 60).p
      (F.RR_TAIL.INDEX 4) 9, (7 : Nat), (4 : Nat), (3#32 : Word), by decide +kernel⟩,
    ⟨((((ready.p (F.RR_CFG.OWNER 4) 7).p (F.RR_CFG.EN 4) 1).p (F.RR_CFG.LOG 4) 6).p (F.RR_HEAD.INDEX 4) 60).p
      (F.RR_TAIL.INDEX 4) 9, (7 : Nat), (4 : Nat), (10#32 : Word), by decide +kernel⟩,
    ⟨((((ready.p (F.RR_CFG.OWNER 4) 7).p (F.RR_CFG.EN 4) 1).p (F.RR_CFG.LOG 4) 6).p (F.RR_HEAD.INDEX 4) 60).p
      (F.RR_TAIL.INDEX 4) 9, (6 : Nat), (4 : Nat), by decide +kernel⟩,
    ⟨ready.p (F.QP_STAT.STATE 63) 0, (63 : Nat), (fieldPut 31 1 1 (fieldPut 16 5 4 (fieldPut 21 5 16 0x7FFFFFFF#32)) :
      Word), by decide +kernel⟩,
    ⟨ready.p (F.QP_STAT.STATE 63) 0, (63 : Nat), (0x80000000#32 : Word), by decide +kernel⟩,
    ⟨ready.p (F.QP_STAT.STATE 63) 3, (63 : Nat), (0x80000000#32 : Word), by decide +kernel⟩,
    ⟨(ready.p (F.QP_STAT.STATE 63) 0), (63 : Nat), (0x7FFFFFFF#32 : Word), by decide +kernel⟩,
    ⟨(ready.p (F.QP_STAT.STATE 63) 1).setQueue 63 { fetched := [(1, 2)], held := some 5 }, (63 : Nat), (0x7FFFFFFF#32 :
      Word), by decide +kernel⟩,
    ⟨(ready.p (F.QP_STAT.STATE 63) 3).setQueue 63 { fail := some 5 }, (63 : Nat), (0x7FFFFFFF#32 : Word),
      by decide +kernel⟩,
    ⟨(ready.p (F.QP_STAT.STATE 63) 2).setQueue 63 { held := some 5 }, (63 : Nat), (0x7FFFFFFF#32 : Word),
      by decide +kernel⟩,
    ⟨(ready.p (F.QP_STAT.STATE 63) 2), (63 : Nat), by decide +kernel⟩,
    ⟨(ready.p (F.QP_STAT.STATE 63) 2).setQueue 63 { held := some 5 }, (63 : Nat), by decide +kernel⟩,
    ⟨ready.p (F.RR_CFG.EN 4) 0, (4 : Nat), ((fieldPut 31 1 1 (fieldPut (F.RR_CFG.LOG 4).lo (F.RR_CFG.LOG 4).len 20
      0xFFFFFFFF#32)) : Word), by decide +kernel⟩,
    ⟨(ready.wr (R.RR_CFG 4) ((fieldPut 31 1 1 (fieldPut (F.RR_CFG.LOG 4).lo (F.RR_CFG.LOG 4).len 20 0xFFFFFFFF#32)) &&&
      0xF1F03F80#32)), (4 : Nat), ((fieldPut 31 1 1 (fieldPut (F.RR_CFG.LOG 4).lo (F.RR_CFG.LOG 4).len 20 0xFFFFFFFF#32))
      : Word), by decide +kernel⟩,
    ⟨(ready.wr (R.RR_CFG 4) ((fieldPut 31 1 1 (fieldPut (F.RR_CFG.LOG 4).lo (F.RR_CFG.LOG 4).len 20 0xFFFFFFFF#32)) &&&
      0xF1F03F80#32)), (4 : Nat), ((fieldPut 31 1 1 (fieldPut (F.RR_CFG.LOG 4).lo (F.RR_CFG.LOG 4).len 19 0xFFFFFFFF#32))
      : Word), by decide +kernel⟩,
    ⟨ready, (4 : Nat), (0x80000000#32 : Word), by decide +kernel⟩,
    ⟨ready.p (F.RR_CFG.EN 4) 1, (4 : Nat), ((fieldPut 31 1 0 (fieldPut (F.RR_CFG.LOG 4).lo (F.RR_CFG.LOG 4).len 20
      0xFFFFFFFF#32)) : Word), by decide +kernel⟩,
    ⟨ready.p (F.RR_CFG.EN 4) 0, (4 : Nat), ((fieldPut 31 1 0 (fieldPut (F.RR_CFG.LOG 4).lo (F.RR_CFG.LOG 4).len 20
      0xFFFFFFFF#32)) : Word), by decide +kernel⟩,
    ⟨ready, (4 : Nat), ((fieldPut 31 1 0 (fieldPut (F.RR_CFG.LOG 4).lo (F.RR_CFG.LOG 4).len 5 0xFFFFFFFF#32)) : Word),
      by decide +kernel⟩⟩

/-- States and operands that meet the hypotheses of DescriptorFlow, clause by clause. -/
theorem test_meets_descriptor_flow :
    (∃ (s : State) (q : Nat) (descs : List (BitVec 512)), q < 64 ∧ s.awake = true ∧ s.qSt q = qRun ∧ descs ≠ [] ∧
      descs.length ≤ s.fetchable q) ∧
    (∃ (s : State) (q : Nat), q < 64 ∧ s.awake = true ∧ s.qSt q = qRun ∧ 0 < s.fetchable q ∧ (s.queue q).run = none ∧
      (s.queue q).held = none) ∧
    (∃ (s : State) (q : Nat), q < 64 ∧ s.awake = true ∧ s.qSt q = qRun ∧ 0 < s.fetchable q ∧ ((s.queue q).run ≠ none ∨
      (s.queue q).held ≠ none)) ∧
    (∃ (s : State) (q : Nat) (p : Nat) (d : BitVec 512) (rest : List (Nat × BitVec 512)), s.nextQueue = some q ∧ (s.queue
      q).fetched = (p, d) :: rest ∧ dOpcode d ≤ 0x18 ∧ dscBits d 2 1 7 = 0 ∧ s.g (F.QP_CFG.OWNER q) = 0 ∧ s.replaying =
      false ∧ (descUnits d).any s.inTest = false) ∧
    (∃ (s : State) (q : Nat) (p : Nat) (d : BitVec 512) (rest : List (Nat × BitVec 512)), s.nextQueue = some q ∧ q < 64 ∧
      (s.queue q).fetched = (p, d) :: rest ∧ 0x18 < dOpcode d ∧ p < 2 ^ 16 ∧ ((List.range 64).all (fun k => ((s.queue
      k).run.map (fun r => decide (r.did < s.dids))).getD true)) = true) ∧
    (∃ (s : State) (q : Nat) (p : Nat) (d : BitVec 512) (rest : List (Nat × BitVec 512)), s.nextQueue = some q ∧ q < 64 ∧
      (s.queue q).fetched = (p, d) :: rest ∧ dOpcode d ≤ 0x18 ∧ dscBits d 2 1 7 ≠ 0 ∧ p < 2 ^ 16 ∧ ((List.range 64).all
      (fun k => ((s.queue k).run.map (fun r => decide (r.did < s.dids))).getD true)) = true) ∧
    (∃ (s : State) (q : Nat) (p : Nat) (d : BitVec 512) (rest : List (Nat × BitVec 512)), s.nextQueue = some q ∧ q < 64 ∧
      (s.queue q).fetched = (p, d) :: rest ∧ dscBits d 2 1 7 = 0 ∧ s.g (F.QP_CFG.OWNER q) ≠ 0 ∧ (dOpcode d = 0x13 ∨
      dOpcode d = 0x17 ∨ dOpcode d = 0x18) ∧ p < 2 ^ 16 ∧ ((List.range 64).all (fun k => ((s.queue k).run.map (fun r =>
      decide (r.did < s.dids))).getD true)) = true) ∧
    (∃ (s : State) (q : Nat) (c : Nat), q < 64 ∧ s.awake = true ∧ s.qSt q ≠ qOff ∧ (s.queue q).held = some c ∧ s.cqFree q
      = true ∧ (s.queue q).fail = none ∧ s.g (F.QP_CFG.CQ_LOG q) ≤ 16) ∧
    (∃ (s : State) (q : Nat) (c : Nat), q < 64 ∧ s.awake = true ∧ s.qSt q ≠ qOff ∧ (s.queue q).held = some c ∧ s.cqFree q
      = false) :=
  ⟨
    ⟨((((((ready.wr (R.QP_CFG 63) 0).p (F.QP_CFG.SQ_LOG 63) 5).p (F.QP_CFG.CQ_LOG 63) 4).p (F.QP_CFG.OWNER 63) 7).p
      (F.QP_STAT.STATE 63) 1).p (F.QP_PTRS.SQ_HEAD 63) 30).setQueue 63 { tail := 3 }, (63 : Nat), ([5, 6] : List (BitVec
      512)), by decide +kernel⟩,
    ⟨((((((ready.wr (R.QP_CFG 63) 0).p (F.QP_CFG.SQ_LOG 63) 5).p (F.QP_CFG.CQ_LOG 63) 4).p (F.QP_CFG.OWNER 63) 7).p
      (F.QP_STAT.STATE 63) 1).p (F.QP_PTRS.SQ_HEAD 63) 30).setQueue 63 { tail := 3 }, (63 : Nat), by decide +kernel⟩,
    ⟨((((((ready.wr (R.QP_CFG 63) 0).p (F.QP_CFG.SQ_LOG 63) 5).p (F.QP_CFG.CQ_LOG 63) 4).p (F.QP_CFG.OWNER 63) 7).p
      (F.QP_STAT.STATE 63) 1).p (F.QP_PTRS.SQ_HEAD 63) 30).setQueue 63 { tail := 3, held := some 6 }, (63 : Nat),
      by decide +kernel⟩,
    ⟨((ready.p (F.QP_STAT.STATE 63) 1).p (F.QP_CFG.OWNER 63) 0).p F.JNL_STAT.REPLAY 0 |> (fun s =>
      ({ s with queues := [], lastQ := (62, 62) } : State).setQueue 63
      { fetched := [(4, dk [(0, 16, 0), (32, 32, 0xABCD), (160, 32, 0x12345678)]), (5, 9)] }), (63 : Nat), (4 : Nat), (dk
      [(0, 16, 0), (32, 32, 0xABCD), (160, 32, 0x12345678)] : BitVec 512), ([(5, 9)] : List (Nat × BitVec 512)),
      by decide +kernel⟩,
    ⟨((ready.p (F.QP_STAT.STATE 63) 1).p (F.QP_CFG.OWNER 63) 5) |> (fun s => ({ s with queues := [], lastQ := (62, 62) } :
      State).setQueue 63 { fetched := [(4, 0xFFFF), (5, 9)] }), (63 : Nat), (4 : Nat), (0xFFFF : BitVec 512), ([(5, 9)] :
      List (Nat × BitVec 512)), by decide +kernel⟩,
    ⟨((ready.p (F.QP_STAT.STATE 63) 1).p (F.QP_CFG.OWNER 63) 5) |> (fun s => ({ s with queues := [], lastQ := (62, 62) } :
      State).setQueue 63 { fetched := [(4, 0x800000), (5, 9)] }), (63 : Nat), (4 : Nat), (0x800000 : BitVec 512), ([(5,
      9)] : List (Nat × BitVec 512)), by decide +kernel⟩,
    ⟨((ready.p (F.QP_STAT.STATE 63) 1).p (F.QP_CFG.OWNER 63) 5) |> (fun s => ({ s with queues := [], lastQ := (62, 62) } :
      State).setQueue 63 { fetched := [(4, 0x17), (5, 9)] }), (63 : Nat), (4 : Nat), (0x17 : BitVec 512), ([(5, 9)] : List
      (Nat × BitVec 512)), by decide +kernel⟩,
    ⟨((((((ready.wr (R.QP_CFG 63) 0).p (F.QP_CFG.SQ_LOG 63) 5).p (F.QP_CFG.CQ_LOG 63) 4).p (F.QP_CFG.OWNER 63) 7).p
      (F.QP_STAT.STATE 63) 2).p (F.QP_PTRS.CQ_TAIL 63) 15).setQueue 63 { cqHead := 14, held := some 5, heldVec := true },
      (63 : Nat), (5 : Nat), by decide +kernel⟩,
    ⟨((((((ready.wr (R.QP_CFG 63) 0).p (F.QP_CFG.SQ_LOG 63) 5).p (F.QP_CFG.CQ_LOG 63) 4).p (F.QP_CFG.OWNER 63) 7).p
      (F.QP_STAT.STATE 63) 2).p (F.QP_PTRS.CQ_TAIL 63) 15).setQueue 63 { cqHead := 0, held := some 5 }, (63 : Nat), (5 :
      Nat), by decide +kernel⟩⟩

/-- States and operands that meet the hypotheses of RecordsInterruptsAndFences, clause by clause. -/
theorem test_meets_records_interrupts_and_fences :
    (∃ (s : State) (r : Nat) (rc : RingRec) (rest : List RingRec), r < 4 ∧ ringOk s.part r = true ∧ s.awake = true ∧
      (s.ring r).wait = rc :: rest ∧ s.ringFree r = true ∧ s.g (F.RR_CFG.LOG r) ≤ 20) ∧
    (∃ (s : State) (r : Nat), r < 4 ∧ ringOk s.part r = true ∧ s.awake = true ∧ s.ringFree r = false) ∧
    (∃ (s : State) (r : Nat), r < 5 ∧ ringOk s.part r = true ∧ s.awake = true ∧ s.is (F.RR_CFG.EN r) = true ∧ (s.ring
      r).sinceWb ≠ 0) ∧
    (∃ (s : State) (v : Nat) (timed : Bool), v < 128 ∧ (s.vecDue v = true ∨ (timed = true ∧ s.g (F.MSIX_MOD.TIME v) ≠ 0))
      ∧ ((s.vec v).cnt ≠ 0 ∨ (s.vec v).now = true) ∧ (s.vec v).mask = false) ∧
    (∃ (s : State) (v : Nat) (timed : Bool), v < 128 ∧ (s.vecDue v = true ∨ (timed = true ∧ s.g (F.MSIX_MOD.TIME v) ≠ 0))
      ∧ ((s.vec v).cnt ≠ 0 ∨ (s.vec v).now = true) ∧ (s.vec v).mask = true) ∧
    (∃ (s : State) (v : Nat), v < 128 ∧ s.vecDue v = false) ∧
    (∃ (s : State) (v : Nat), v < 128 ∧ (s.vec v).pend = true) ∧
    (∃ (s : State) (v : Nat), v < 128 ∧ (s.vec v).pend = false) ∧
    (∃ (s : State) (q : Nat) (r : DescRun), Executes s q 1 false r ∧ dUnit r.desc = 0 ∧ dAddr r.desc = 0 ∧ dLen r.desc = 0
      ∧ dscZeroFrom r.desc 28 = true) ∧
    (∃ (s : State) (q : Nat) (o : Nat) (l : List (Nat × Nat)) (r : DescRun), Executes s q 1 true r ∧ (s.queue q).fence =
      some (l, o) ∧ (l.all (fun e => e.2 ≤ (s.queue e.1).doneCnt)) = true) ∧
    (∃ (s : State) (q : Nat) (o : Nat) (l : List (Nat × Nat)) (r : DescRun), Executes s q 1 true r ∧ (s.queue q).fence =
      some (l, o) ∧ (l.all (fun e => e.2 ≤ (s.queue e.1).doneCnt)) = false) :=
  ⟨
    ⟨((((ready.p (F.RR_CFG.EN 3) 1).p (F.RR_CFG.LOG 3) 6).p (F.RR_HEAD.INDEX 3) 60).p (F.RR_TAIL.INDEX 3) 63).setRing 3
      { wait := [⟨32, 77⟩, ⟨32, 5⟩] }, (3 : Nat), (⟨32, 77⟩ : RingRec), ([⟨32, 5⟩] : List RingRec), by decide +kernel⟩,
    ⟨((((ready.p (F.RR_CFG.EN 3) 0).p (F.RR_CFG.LOG 3) 6).p (F.RR_HEAD.INDEX 3) 60).p (F.RR_TAIL.INDEX 3) 63).setRing 3
      { wait := [⟨32, 77⟩, ⟨32, 5⟩] }, (3 : Nat), by decide +kernel⟩,
    ⟨(ready.p (F.RR_CFG.EN 4) 1).setRing 4 { sinceWb := 3 }, (4 : Nat), by decide +kernel⟩,
    ⟨(ready.wr (R.MSIX_MOD 127) 0).setVec 127 { mask := false, cnt := 4 }, (127 : Nat), (false : Bool), by decide +kernel⟩,
    ⟨(ready.wr (R.MSIX_MOD 127) 0).setVec 127 { mask := true, cnt := 4 }, (127 : Nat), (false : Bool), by decide +kernel⟩,
    ⟨(ready.p (F.MSIX_MOD.COUNT 127) 9).setVec 127 { mask := false, cnt := 4 }, (127 : Nat), by decide +kernel⟩,
    ⟨ready.setVec 127 { pend := true }, (127 : Nat), by decide +kernel⟩,
    ⟨ready.setVec 127 { cnt := 4 }, (127 : Nat), by decide +kernel⟩,
    ⟨(run_ ((ready.p (F.QP_STAT.STATE 63) 3).p (F.QP_STAT.STATE 0) 0) 9 false (dk [(0, 16, 1), (160, 64,
      0x8000000000000201)])).setQueue 63 { startCnt := 8, doneCnt := 7 }, (9 : Nat), (⟨5, 7, dk [(0, 16, 1), (160, 64,
      0x8000000000000201)], false, 0, 0⟩ : DescRun), by decide +kernel⟩,
    ⟨((run_ ready 9 true (dk [(0, 16, 1), (160, 64, 0x8000000000000201)])).setQueue 63 { startCnt := 9, doneCnt := 8 }) |>
      (fun s => s.modQueue 9 (fun x => { x with fence := some ([(63, 8)], 2 ^ 63) })), (9 : Nat), (2 ^ 63 : Nat), ([(63,
      8)] : List (Nat × Nat)), (⟨5, 7, dk [(0, 16, 1), (160, 64, 0x8000000000000201)], true, 0, 0⟩ : DescRun),
      by decide +kernel⟩,
    ⟨((run_ ready 9 true (dk [(0, 16, 1), (160, 64, 0x8000000000000201)])).setQueue 63 { startCnt := 9, doneCnt := 7 }) |>
      (fun s => s.modQueue 9 (fun x => { x with fence := some ([(63, 8)], 2 ^ 63) })), (9 : Nat), (2 ^ 63 : Nat), ([(63,
      8)] : List (Nat × Nat)), (⟨5, 7, dk [(0, 16, 1), (160, 64, 0x8000000000000201)], true, 0, 0⟩ : DescRun),
      by decide +kernel⟩⟩

/-- States and operands that meet the hypotheses of Acquisitions, clause by clause. -/
theorem test_meets_acquisitions :
    (∃ (s : State) (q : Nat) (r : DescRun), Executes s q 15 false r ∧ 0 < s.part.digs ∧ acqForm r.desc = true ∧ aaMib
      r.desc ≠ 0 ∧ aaMib r.desc ≤ 256 ∧ aaPre r.desc + aaPost r.desc < aaCap r.desc ∧ r.owns (48 + dUnit r.desc) = true ∧
      r.owns (acqSourceUnit r.desc) = true ∧ s.fenced (48 + dUnit r.desc) = false ∧ s.acqSt (dUnit r.desc) = acqIdle) ∧
    (∃ (s : State) (q : Nat) (r : DescRun), Executes s q 15 false r ∧ 0 < s.part.digs ∧ acqForm r.desc = true ∧ aaMib
      r.desc ≠ 0 ∧ aaMib r.desc ≤ 256 ∧ aaPre r.desc + aaPost r.desc < aaCap r.desc ∧ r.owns (48 + dUnit r.desc) = true ∧
      r.owns (acqSourceUnit r.desc) = true ∧ s.fenced (48 + dUnit r.desc) = false ∧ s.acqRuns (dUnit r.desc) = true ∧
      aaAbort r.desc = false) ∧
    (∃ (s : State) (q : Nat) (r : DescRun), Executes s q 15 false r ∧ 0 < s.part.digs ∧ acqForm r.desc = true ∧ aaMib
      r.desc ≠ 0 ∧ aaMib r.desc ≤ 256 ∧ aaPre r.desc + aaPost r.desc < aaCap r.desc ∧ r.owns (48 + dUnit r.desc) = true ∧
      r.owns (acqSourceUnit r.desc) = true ∧ s.fenced (48 + dUnit r.desc) = false ∧ s.acqRuns (dUnit r.desc) = true ∧
      aaAbort r.desc = true ∧ (s.dig (dUnit r.desc)).did = none) ∧
    (∃ (s : State) (q : Nat) (r : DescRun), Executes s q 15 false r ∧ 0 < s.part.digs ∧ acqForm r.desc = true ∧ aaMib
      r.desc ≠ 0 ∧ aaMib r.desc ≤ 256 ∧ aaPre r.desc + aaPost r.desc < aaCap r.desc ∧ r.owns (48 + dUnit r.desc) = true ∧
      r.owns (acqSourceUnit r.desc) = true ∧ s.fenced (48 + dUnit r.desc) = false ∧ s.acqSt (dUnit r.desc) = acqDone) ∧
    (∃ (s : State) (d : Nat) (q : Nat) (did : Nat) (r : DescRun), d < s.part.digs ∧ s.acqSt d = acqFill ∧ (s.dig
      d).settled = false ∧ (s.dig d).did = some did ∧ s.queueOf did = some q ∧ (s.queue q).run = some r) ∧
    (∃ (s : State) (d : Nat) (data : List Nat), d < s.part.digs ∧ d < 4 ∧ s.acqSt d = acqFill ∧ (s.dig d).settled = true ∧
      (s.dig d).idx + data.length = aaPre (s.dig d).desc ∧ 0 < aaMib (s.dig d).desc ∧ aaPre (s.dig d).desc ≤ aaCap (s.dig
      d).desc ∧ aaMib (s.dig d).desc ≤ 256) ∧
    (∃ (s : State) (d : Nat) (raw : Nat) (frac : Nat) (c : AcqTrig), d < s.part.digs ∧ raw < 5 ∧ c ≠ .event ∧ s.acqSt d =
      acqArmed ∧ (s.dig d).settled = true ∧ acqMeets (s.dig d).desc c = some frac) ∧
    (∃ (s : State) (d : Nat) (raw : Nat), d < s.part.digs ∧ raw < 5 ∧ s.acqSt d = acqArmed ∧ (s.dig d).settled = true ∧
      (s.dig d).evTrig = true ∧ aaTsrc (s.dig d).desc = 4) ∧
    (∃ (s : State) (d : Nat) (raw : Nat) (frac : Nat) (c : AcqTrig), d < s.part.digs ∧ raw < 5 ∧ c ≠ .event ∧ s.acqSt d =
      acqFill ∧ (s.dig d).settled = true ∧ acqMeets (s.dig d).desc c = some frac) ∧
    (∃ (s : State) (d : Nat) (c : AcqTrig), c ≠ .event ∧ acqMeets (s.dig d).desc c = none) ∧
    (∃ (s : State) (d : Nat) (raw : Nat), d < s.part.digs ∧ raw < 5 ∧ s.acqSt d = acqArmed ∧ aaTmo (s.dig d).desc ≠ 0) ∧
    (∃ (s : State) (d : Nat) (raw : Nat), Ready s ∧ d < s.part.digs ∧ raw < 5 ∧ s.acqSt d = acqArmed) ∧
    (∃ (s : State) (d : Nat) (raw : Nat), Ready s ∧ d < s.part.digs ∧ raw < 5 ∧ s.acqSt d ≠ acqArmed) ∧
    (∃ (s : State) (d : Nat) (tr : Nat) (data : List Nat), d < s.part.digs ∧ s.acqSt d = acqPost ∧ (s.dig d).trig = some
      tr ∧ (s.dig d).idx + data.length = tr + aaPost (s.dig d).desc + 1 ∧ (s.dig d).did = none) ∧
    (∃ (s : State) (d : Nat) (tr : Nat) (data : List Nat), Ready s ∧ d < s.part.digs ∧ s.acqRuns d = true ∧ s.acqRoom d
      data.length = true ∧ (s.dig d).trig = some tr ∧ (s.dig d).did = none) ∧
    (∃ (s : State) (d : Nat) (data : List Nat), Ready s ∧ d < s.part.digs ∧ s.acqRuns d = true ∧ (s.acqRoom d data.length
      = true ∨ data = []) ∧ (s.dig d).trig = none ∧ (s.dig d).did = none) ∧
    (∃ (s : State) (d : Nat) (q : Nat) (did : Nat) (r : DescRun), Ready s ∧ d < s.part.digs ∧ s.acqSt d = acqFill ∧ (s.dig
      d).did = some did ∧ s.queueOf did = some q ∧ (s.queue q).run = some r) ∧
    (∃ (s : State) (d : Nat), Ready s ∧ d < s.part.digs ∧ s.acqRuns d = false) ∧
    (∃ (s : State) (d : Nat) (rc : RingRec), d < s.part.digs ∧ s.acqSt d = acqDone ∧ (s.dig d).slot = some rc ∧ (s.ring
      2).wait = [] ∧ s.ringFree 2 = true ∧ (s.dig d).next = none) ∧
    (∃ (s : State) (d : Nat) (did : Nat) (rc : RingRec), d < s.part.digs ∧ s.acqSt d = acqDone ∧ (s.dig d).slot = some rc
      ∧ (s.ring 2).wait = [] ∧ s.ringFree 2 = true ∧ (s.dig d).next = some did) ∧
    (∃ (s : State) (d : Nat), d < s.part.digs ∧ s.acqSt d = acqDone ∧ ((s.ring 2).wait ≠ [] ∨ s.ringFree 2 = false)) ∧
    (∃ (s : State) (d : Nat) (i : Nat) (data : List Nat), d < s.part.digs ∧ s.acqRoom d data.length = true ∧ aaAuto (s.dig
      d).desc = true ∧ s.g (F.ACQ_STAT.DEC d) < 6 ∧ (s.dig d).idx + data.length = i ∧ ((s.dig d).raisedAt.map (fun n =>
      decide (n + 1024 ≤ i))).getD true = true) ∧
    (∃ (s : State) (d : Nat) (n : Nat) (data : List Nat), (s.dig d).raisedAt = some n ∧ (s.dig d).idx + data.length < n +
      1024) ∧
    (∃ (s : State) (d : Nat) (n : Nat) (data : List (Option Nat)), d < s.part.digs ∧ s.acqRoom d data.length = true ∧
      (data.filter (fun e => e.isNone)).length = n ∧ 0 < n ∧ s.g (F.ACQ_DROP.COUNT d) + n < 2 ^ 31 - 1 ∧ (s.dig d).dropped
      + n ≤ 0xFFFFFFFF) ∧
    (∃ (s : State) (d : Nat), d < s.part.digs ∧ s.acqRoom d 1 = true ∧ (s.dig d).firstDrop = none) :=
  ⟨
    ⟨run_ ((({ ready with digs := [] } : State).p (F.ACQ_STAT.STATE 3) 0).p (F.UNIT_STATE.STATE 51) 0) 9 false (dk [(0,
      16, 15), (24, 8, 3), (32, 32, 5), (160, 10, 1023), (183, 4, 0), (192, 16, 100), (208, 16, 10), (256, 9, 1), (272,
      16, 7), (288, 32, 4), (320, 32, 6), (352, 32, 9), (176, 3, 0), (184, 4, 1)]), (9 : Nat), (⟨5, 7, dk [(0, 16, 15),
      (24, 8, 3), (32, 32, 5), (160, 10, 1023), (183, 4, 0), (192, 16, 100), (208, 16, 10), (256, 9, 1), (272, 16, 7),
      (288, 32, 4), (320, 32, 6), (352, 32, 9), (176, 3, 0), (184, 4, 1)], false, 0, 0⟩ : DescRun), by decide +kernel⟩,
    ⟨run_ ((({ ready with digs := [] } : State).p (F.ACQ_STAT.STATE 3) 2).p (F.UNIT_STATE.STATE 51) 0) 9 false (dk [(0,
      16, 15), (24, 8, 3), (32, 32, 5), (160, 10, 1023), (183, 4, 0), (192, 16, 100), (208, 16, 10), (256, 9, 1), (272,
      16, 7), (288, 32, 4), (320, 32, 6), (352, 32, 9), (176, 3, 0), (184, 4, 1)]), (9 : Nat), (⟨5, 7, dk [(0, 16, 15),
      (24, 8, 3), (32, 32, 5), (160, 10, 1023), (183, 4, 0), (192, 16, 100), (208, 16, 10), (256, 9, 1), (272, 16, 7),
      (288, 32, 4), (320, 32, 6), (352, 32, 9), (176, 3, 0), (184, 4, 1)], false, 0, 0⟩ : DescRun), by decide +kernel⟩,
    ⟨run_ ((({ ready with digs := [] } : State).p (F.ACQ_STAT.STATE 3) 2).p (F.UNIT_STATE.STATE 51) 0) 9 false (dk [(0,
      16, 15), (24, 8, 3), (32, 32, 5), (160, 10, 1023), (183, 4, 0), (192, 16, 100), (208, 16, 10), (256, 9, 1), (272,
      16, 7), (288, 32, 4), (320, 32, 6), (352, 32, 9), (176, 3, 0), (184, 4, 1), (384, 1, 1)]), (9 : Nat), (⟨5, 7, dk
      [(0, 16, 15), (24, 8, 3), (32, 32, 5), (160, 10, 1023), (183, 4, 0), (192, 16, 100), (208, 16, 10), (256, 9, 1),
      (272, 16, 7), (288, 32, 4), (320, 32, 6), (352, 32, 9), (176, 3, 0), (184, 4, 1), (384, 1, 1)], false, 0, 0⟩ :
      DescRun), by decide +kernel⟩,
    ⟨run_ ((({ ready with digs := [] } : State).p (F.ACQ_STAT.STATE 3) 4).p (F.UNIT_STATE.STATE 51) 0) 9 false (dk [(0,
      16, 15), (24, 8, 3), (32, 32, 5), (160, 10, 1023), (183, 4, 0), (192, 16, 100), (208, 16, 10), (256, 9, 1), (272,
      16, 7), (288, 32, 4), (320, 32, 6), (352, 32, 9), (176, 3, 0), (184, 4, 1), (384, 1, 1)]), (9 : Nat), (⟨5, 7, dk
      [(0, 16, 15), (24, 8, 3), (32, 32, 5), (160, 10, 1023), (183, 4, 0), (192, 16, 100), (208, 16, 10), (256, 9, 1),
      (272, 16, 7), (288, 32, 4), (320, 32, 6), (352, 32, 9), (176, 3, 0), (184, 4, 1), (384, 1, 1)], false, 0, 0⟩ :
      DescRun), by decide +kernel⟩,
    ⟨(run_ (({ ready with digs := [] } : State).p (F.ACQ_STAT.STATE 3) 1) 9 true (dk [(0, 16, 15), (24, 8, 3), (32, 32,
      5), (160, 10, 1023), (183, 4, 0), (192, 16, 100), (208, 16, 10), (256, 9, 1), (272, 16, 7), (288, 32, 4), (320, 32,
      6), (352, 32, 9), (176, 3, 0), (184, 4, 1)])).setDig 3
      ({ desc := dk [(0, 16, 15), (24, 8, 3), (32, 32, 5), (160, 10, 1023), (183, 4, 0), (192, 16, 100), (208, 16, 10),
           (256, 9, 1), (272, 16, 7), (288, 32, 4), (320, 32, 6), (352, 32, 9), (176, 3, 0), (184, 4, 1)], did := some 5,
           aborted := true }), (3 : Nat), (9 : Nat), (5 : Nat), (⟨5, 7, dk [(0, 16, 15), (24, 8, 3), (32, 32, 5), (160,
      10, 1023), (183, 4, 0), (192, 16, 100), (208, 16, 10), (256, 9, 1), (272, 16, 7), (288, 32, 4), (320, 32, 6), (352,
      32, 9), (176, 3, 0), (184, 4, 1)], true, 0, 0⟩ : DescRun), by decide +kernel⟩,
    ⟨(({ ready with digs := [], noref := false } : State).p (F.ACQ_STAT.STATE 3) 1).setDig 3
      ({ desc := dk [(0, 16, 15), (24, 8, 3), (32, 32, 5), (160, 10, 1023), (183, 4, 0), (192, 16, 100), (208, 16, 10),
           (256, 9, 1), (272, 16, 7), (288, 32, 4), (320, 32, 6), (352, 32, 9), (176, 3, 0), (184, 4, 1)], settled :=
           true, idx := 2 }), (3 : Nat), ([0x18001, 77] : List Nat), by decide +kernel⟩,
    ⟨(({ ready with digs := [], noref := false } : State).p (F.ACQ_STAT.STATE 3) 2).setDig 3
      ({ desc := dk [(0, 16, 15), (24, 8, 3), (32, 32, 5), (160, 10, 1023), (183, 4, 0), (192, 16, 100), (208, 16, 10),
           (256, 9, 1), (272, 16, 7), (288, 32, 4), (320, 32, 6), (352, 32, 9), (176, 3, 0), (184, 4, 1)], settled :=
           true, idx := 9, flags := 1, since := 4 }), (3 : Nat), (4 : Nat), (160 : Nat), (.samples 90 95 103 : AcqTrig),
      by decide +kernel⟩,
    ⟨(({ ready with digs := [], noref := false } : State).p (F.ACQ_STAT.STATE 3) 2).setDig 3
      ({ desc := dk [(0, 16, 15), (24, 8, 3), (32, 32, 5), (160, 10, 1023), (183, 4, 0), (192, 16, 100), (208, 16, 10),
           (256, 9, 1), (272, 16, 7), (288, 32, 4), (320, 32, 6), (352, 32, 9), (176, 3, 0), (184, 4, 4)], settled :=
           true, idx := 9, evTrig := true }), (3 : Nat), (4 : Nat), by decide +kernel⟩,
    ⟨(({ ready with digs := [], noref := false } : State).p (F.ACQ_STAT.STATE 3) 1).setDig 3
      ({ desc := dk [(0, 16, 15), (24, 8, 3), (32, 32, 5), (160, 10, 1023), (183, 4, 0), (192, 16, 100), (208, 16, 10),
           (256, 9, 1), (272, 16, 7), (288, 32, 4), (320, 32, 6), (352, 32, 9), (176, 3, 0), (184, 4, 1)], settled := true
           }), (3 : Nat), (3 : Nat), (160 : Nat), (.samples 90 95 103 : AcqTrig), by decide +kernel⟩,
    ⟨(({ ready with digs := [], noref := false } : State).p (F.ACQ_STAT.STATE 3) 2).setDig 3
      ({ desc := dk [(0, 16, 15), (24, 8, 3), (32, 32, 5), (160, 10, 1023), (183, 4, 0), (192, 16, 100), (208, 16, 10),
           (256, 9, 1), (272, 16, 7), (288, 32, 4), (320, 32, 6), (352, 32, 9), (176, 3, 0), (184, 4, 1)], settled := true
           }), (3 : Nat), (.samples 91 95 103 : AcqTrig), by decide +kernel⟩,
    ⟨(({ ready with digs := [], noref := false } : State).p (F.ACQ_STAT.STATE 3) 2).setDig 3
      ({ desc := dk [(0, 16, 15), (24, 8, 3), (32, 32, 5), (160, 10, 1023), (183, 4, 0), (192, 16, 100), (208, 16, 10),
           (256, 9, 1), (272, 16, 7), (288, 32, 4), (320, 32, 6), (352, 32, 9), (176, 3, 0), (184, 4, 1)], settled :=
           true, idx := 9, flags := 1, since := 4 }), (3 : Nat), (3 : Nat), by decide +kernel⟩,
    ⟨(({ ready with digs := [], noref := false } : State).p (F.ACQ_STAT.STATE 3) 2).setDig 3
      ({ desc := dk [(0, 16, 15), (24, 8, 3), (32, 32, 5), (160, 10, 1023), (183, 4, 0), (192, 16, 100), (208, 16, 10),
           (256, 9, 1), (272, 16, 7), (288, 32, 4), (320, 32, 6), (352, 32, 9), (176, 3, 0), (184, 4, 1)], settled :=
           true, idx := 9, flags := 1, since := 4 }), (3 : Nat), (0 : Nat), by decide +kernel⟩,
    ⟨(({ ready with digs := [], noref := false } : State).p (F.ACQ_STAT.STATE 3) 3).setDig 3
      ({ desc := dk [(0, 16, 15), (24, 8, 3), (32, 32, 5), (160, 10, 1023), (183, 4, 0), (192, 16, 100), (208, 16, 10),
           (256, 9, 1), (272, 16, 7), (288, 32, 4), (320, 32, 6), (352, 32, 9), (176, 3, 0), (184, 4, 1)], settled := true
           }), (3 : Nat), (0 : Nat), by decide +kernel⟩,
    ⟨(({ ready with digs := [], noref := false } : State).p (F.ACQ_STAT.STATE 3) 3).setDig 3
      ({ desc := dk [(0, 16, 15), (24, 8, 3), (32, 32, 5), (160, 10, 1023), (183, 4, 0), (192, 16, 100), (208, 16, 10),
           (256, 9, 1), (272, 16, 7), (288, 32, 4), (320, 32, 6), (352, 32, 9), (176, 3, 0), (184, 4, 1)], settled :=
           true, idx := 14, trig := some 8, stamp := 700, frac := 3 }), (3 : Nat), (8 : Nat), ([6] : List Nat),
      by decide +kernel⟩,
    ⟨(({ ready with digs := [], noref := false } : State).p (F.ACQ_STAT.STATE 3) 3).setDig 3
      ({ desc := dk [(0, 16, 15), (24, 8, 3), (32, 32, 5), (160, 10, 1023), (183, 4, 0), (192, 16, 100), (208, 16, 10),
           (256, 9, 1), (272, 16, 7), (288, 32, 4), (320, 32, 6), (352, 32, 9), (176, 3, 0), (184, 4, 1)], settled :=
           true, idx := 11, trig := some 8, stamp := 700, frac := 3 }), (3 : Nat), (8 : Nat), ([6] : List Nat),
      by decide +kernel⟩,
    ⟨(({ ready with digs := [], noref := false } : State).p (F.ACQ_STAT.STATE 3) 2).setDig 3
      ({ desc := dk [(0, 16, 15), (24, 8, 3), (32, 32, 5), (160, 10, 1023), (183, 4, 0), (192, 16, 100), (208, 16, 10),
           (256, 9, 1), (272, 16, 7), (288, 32, 4), (320, 32, 6), (352, 32, 9), (176, 3, 0), (184, 4, 1)], settled :=
           true, idx := 9, flags := 1, since := 4 }), (3 : Nat), ([7] : List Nat), by decide +kernel⟩,
    ⟨(run_ (({ ready with digs := [] } : State).p (F.ACQ_STAT.STATE 3) 1) 9 true (dk [(0, 16, 15), (24, 8, 3), (32, 32,
      5), (160, 10, 1023), (183, 4, 0), (192, 16, 100), (208, 16, 10), (256, 9, 1), (272, 16, 7), (288, 32, 4), (320, 32,
      6), (352, 32, 9), (176, 3, 0), (184, 4, 1)])).setDig 3
      ({ desc := dk [(0, 16, 15), (24, 8, 3), (32, 32, 5), (160, 10, 1023), (183, 4, 0), (192, 16, 100), (208, 16, 10),
           (256, 9, 1), (272, 16, 7), (288, 32, 4), (320, 32, 6), (352, 32, 9), (176, 3, 0), (184, 4, 1)], did := some 5
           }), (3 : Nat), (9 : Nat), (5 : Nat), (⟨5, 7, dk [(0, 16, 15), (24, 8, 3), (32, 32, 5), (160, 10, 1023), (183,
      4, 0), (192, 16, 100), (208, 16, 10), (256, 9, 1), (272, 16, 7), (288, 32, 4), (320, 32, 6), (352, 32, 9), (176, 3,
      0), (184, 4, 1)], true, 0, 0⟩ : DescRun), by decide +kernel⟩,
    ⟨(({ ready with digs := [], noref := false } : State).p (F.ACQ_STAT.STATE 3) 4).setDig 3
      ({ desc := dk [(0, 16, 15), (24, 8, 3), (32, 32, 5), (160, 10, 1023), (183, 4, 0), (192, 16, 100), (208, 16, 10),
           (256, 9, 1), (272, 16, 7), (288, 32, 4), (320, 32, 6), (352, 32, 9), (176, 3, 0), (184, 4, 1)] }), (3 : Nat),
      by decide +kernel⟩,
    ⟨(((((({ ready with digs := [], noref := false } : State).p (F.ACQ_STAT.STATE 3) 4).setDig 3
      ({ desc := dk [(0, 16, 15), (24, 8, 3), (32, 32, 5), (160, 10, 1023), (183, 4, 0), (192, 16, 100), (208, 16, 10),
           (256, 9, 1), (272, 16, 7), (288, 32, 4), (320, 32, 6), (352, 32, 9), (176, 3, 0), (184, 4, 1)], slot := some
           ⟨64, 77⟩ })).p (F.RR_CFG.EN 2) 1).p (F.RR_CFG.LOG 2) 6).p (F.RR_HEAD.INDEX 2) 60).p (F.RR_TAIL.INDEX 2) 63, (3
      : Nat), (⟨64, 77⟩ : RingRec), by decide +kernel⟩,
    ⟨(((((({ ready with digs := [], noref := false } : State).p (F.ACQ_STAT.STATE 3) 4).setDig 3
      ({ desc := dk [(0, 16, 15), (24, 8, 3), (32, 32, 5), (160, 10, 1023), (183, 4, 0), (192, 16, 100), (208, 16, 10),
           (256, 9, 1), (272, 16, 7), (288, 32, 4), (320, 32, 6), (352, 32, 9), (176, 3, 0), (184, 4, 1)], slot := some
           ⟨64, 77⟩, next := some 4, nextDesc := 9 })).p (F.RR_CFG.EN 2) 1).p (F.RR_CFG.LOG 2) 6).p (F.RR_HEAD.INDEX 2)
      60).p (F.RR_TAIL.INDEX 2) 63, (3 : Nat), (4 : Nat), (⟨64, 77⟩ : RingRec), by decide +kernel⟩,
    ⟨(((({ ready with digs := [], noref := false } : State).p (F.ACQ_STAT.STATE 3) 4).setDig 3
      ({ desc := dk [(0, 16, 15), (24, 8, 3), (32, 32, 5), (160, 10, 1023), (183, 4, 0), (192, 16, 100), (208, 16, 10),
           (256, 9, 1), (272, 16, 7), (288, 32, 4), (320, 32, 6), (352, 32, 9), (176, 3, 0), (184, 4, 1)], slot := some
           ⟨64, 77⟩ })).p (F.RR_CFG.EN 2) 0), (3 : Nat), by decide +kernel⟩,
    ⟨((({ ready with digs := [] } : State).p (F.ACQ_STAT.STATE 3) 2).p (F.ACQ_STAT.DEC 3) 5).setDig 3
      ({ desc := dk [(0, 16, 15), (24, 8, 3), (32, 32, 5), (160, 10, 1023), (183, 4, 0), (192, 16, 100), (208, 16, 10),
           (256, 9, 1), (272, 16, 7), (288, 32, 4), (320, 32, 6), (352, 32, 9), (176, 3, 0), (179, 1, 1), (184, 4, 1)],
           settled := true, idx := 1032, raisedAt := some 9 }), (3 : Nat), (1033 : Nat), ([7] : List Nat),
      by decide +kernel⟩,
    ⟨((({ ready with digs := [] } : State).p (F.ACQ_STAT.STATE 3) 2).p (F.ACQ_STAT.DEC 3) 5).setDig 3
      ({ desc := dk [(0, 16, 15), (24, 8, 3), (32, 32, 5), (160, 10, 1023), (183, 4, 0), (192, 16, 100), (208, 16, 10),
           (256, 9, 1), (272, 16, 7), (288, 32, 4), (320, 32, 6), (352, 32, 9), (176, 3, 0), (179, 1, 1), (184, 4, 1)],
           settled := true, idx := 1031, raisedAt := some 9 }), (3 : Nat), (9 : Nat), ([7] : List Nat), by decide +kernel⟩,
    ⟨((({ ready with digs := [], noref := false } : State).p (F.ACQ_STAT.STATE 3) 2).p (F.ACQ_DROP.COUNT 3) 8).setDig 3
      ({ desc := dk [(0, 16, 15), (24, 8, 3), (32, 32, 5), (160, 10, 1023), (183, 4, 0), (192, 16, 100), (208, 16, 10),
           (256, 9, 1), (272, 16, 7), (288, 32, 4), (320, 32, 6), (352, 32, 9), (176, 3, 0), (184, 4, 1)], settled :=
           true, idx := 9 }), (3 : Nat), (2 : Nat), ([none, some 4, none] : List (Option Nat)), by decide +kernel⟩,
    ⟨(({ ready with digs := [], noref := false } : State).p (F.ACQ_STAT.STATE 3) 2).setDig 3
      ({ desc := dk [(0, 16, 15), (24, 8, 3), (32, 32, 5), (160, 10, 1023), (183, 4, 0), (192, 16, 100), (208, 16, 10),
           (256, 9, 1), (272, 16, 7), (288, 32, 4), (320, 32, 6), (352, 32, 9), (176, 3, 0), (184, 4, 1)], settled :=
           true, idx := 9, flags := 1, since := 4 }), (3 : Nat), by decide +kernel⟩⟩

/-- States and operands that meet the hypotheses of RasterStimulus, clause by clause. -/
theorem test_meets_raster_stimulus :
    (∃ (s : State) (q : Nat) (block : BitVec 2048) (r : DescRun), Executes s q 16 false r ∧ s.part.raster = true ∧ rcForm
      r.desc = true ∧ r.owns 52 = true ∧ s.fenced 52 = false ∧ s.rs.pend = none ∧ s.rs.kill = none ∧ rcKill r.desc = false
      ∧ dLen r.desc = 256 ∧ rbOk block = true ∧ rbInside block = true ∧ (s.rs.queue.length < 252 ∨ s.rsReplaced block =
      [])) ∧
    (∃ (s : State) (q : Nat) (block : BitVec 2048) (r : DescRun), Executes s q 16 false r ∧ s.part.raster = true ∧ rcForm
      r.desc = true ∧ r.owns 52 = true ∧ s.fenced 52 = false ∧ s.rs.pend = none ∧ s.rs.kill = none ∧ rcKill r.desc = false
      ∧ dLen r.desc = 256 ∧ (s.rs.queue.length < 252 ∨ s.rsReplaced block = [])) ∧
    (∃ (s : State) (q : Nat) (block : BitVec 2048) (r : DescRun), Executes s q 16 false r ∧ s.part.raster = true ∧ rcForm
      r.desc = true ∧ r.owns 52 = true ∧ s.fenced 52 = false ∧ s.rs.pend = none ∧ s.rs.kill = none ∧ rcKill r.desc = false
      ∧ dLen r.desc = 256 ∧ rbOk block = false ∧ (s.rs.queue.length < 252 ∨ s.rsReplaced block = [])) ∧
    (∃ (s : State) (q : Nat) (block : BitVec 2048) (r : DescRun), Executes s q 16 false r ∧ s.part.raster = true ∧ rcForm
      r.desc = true ∧ r.owns 52 = true ∧ s.fenced 52 = false ∧ s.rs.pend = none ∧ s.rs.kill = none ∧ rcKill r.desc = false
      ∧ dLen r.desc = 256 ∧ rbOk block = true ∧ rbInside block = false ∧ (s.rs.queue.length < 252 ∨ s.rsReplaced block =
      [])) ∧
    (∃ (s : State) (q : Nat) (r : DescRun), Executes s q 16 false r ∧ s.part.raster = true ∧ rcForm r.desc = true ∧ r.owns
      52 = true ∧ s.fenced 52 = false ∧ (s.rs.pend ≠ none ∨ s.rs.kill ≠ none) ∧ (rcKill r.desc = true ∨ dLen r.desc =
      256)) ∧
    (∃ (s : State) (q : Nat) (block : BitVec 2048) (r : DescRun), Executes s q 16 false r ∧ s.part.raster = true ∧ rcForm
      r.desc = true ∧ r.owns 52 = true ∧ s.fenced 52 = false ∧ s.rs.pend = none ∧ s.rs.kill = none ∧ rcKill r.desc = false
      ∧ dLen r.desc = 256 ∧ 252 ≤ s.rs.queue.length ∧ s.rsReplaced block ≠ []) ∧
    (∃ (s : State) (q : Nat) (r : DescRun), Executes s q 16 false r ∧ s.part.raster = true ∧ rcForm r.desc = true ∧ r.owns
      52 = true ∧ s.fenced 52 = false ∧ s.rs.pend = none ∧ s.rs.kill = none ∧ rcKill r.desc = true ∧ 252 ≤
      s.rs.queue.length ∧ (List.range 4).any (fun l => natBits (rcKmask r.desc) l 1 == 1 && s.rsValid l) = true) ∧
    (∃ (s : State) (q : Nat) (r : DescRun), Executes s q 16 false r ∧ s.part.raster = true ∧ rcForm r.desc = true ∧ r.owns
      52 = true ∧ s.fenced 52 = false ∧ s.rs.pend = none ∧ s.rs.kill = none ∧ rcKill r.desc = true ∧ (s.rs.queue.length <
      252 ∨ (List.range 4).any (fun l => natBits (rcKmask r.desc) l 1 == 1 && s.rsValid l) = false)) ∧
    (∃ (s : State) (p : RsPend) (q : Nat) (r : DescRun), s.rs.pend = some p ∧ p.due = true ∧ s.queueOf p.did = some q ∧
      (s.queue q).run = some r ∧ s.rsSt < 4) ∧
    (∃ (s : State) (p : RsPend), s.rs.pend = some p ∧ p.due = false) ∧
    (∃ (s : State) (did : Nat) (seq : Nat) (mask : Nat) (q : Nat) (r : DescRun), s.rs.kill = some (did, seq, mask) ∧ mask
      < 16 ∧ s.queueOf did = some q ∧ (s.queue q).run = some r) ∧
    (∃ (s : State), s.part.raster = true ∧ s.rsStreams = true) ∧
    (∃ (s : State), s.part.raster = true ∧ s.rsSt = rsRun) ∧
    (∃ (s : State), s.part.raster = true ∧ s.rsSt = rsRun) ∧
    (∃ (s : State), s.part.raster = true ∧ s.rsSt = rsResync) ∧
    (∃ (s : State), s.part.raster = true ∧ s.rsSt = rsRun ∧ rbLine s.rs.block < rbVtotal s.rs.block) ∧
    (∃ (s : State) (l : Nat), s.part.raster = true ∧ s.rsSt = rsRun ∧ l < 4 ∧ s.rsValid l = true ∧ s.g
      F.RS_UNDER_CNT.COUNT < 2 ^ 31 - 1) ∧
    (∃ (s : State) (rc : RingRec) (rest : List RingRec), s.part.raster = true ∧ s.awake = true ∧ s.rs.queue = rc :: rest ∧
      s.ringFree 3 = true) ∧
    (∃ (s : State), s.ringFree 3 = false) ∧
    (∃ (s : State) (k : Nat) (v : Word), Ready s ∧ s.part.raster = true ∧ k < 36 ∧ s.rsSt = rsOff ∧ (F.RS_LANE.HALL k).of
      v < s.part.halls ∧ (F.RS_LANE.IDLE k).of v ≠ 3 ∧ ((F.RS_LANE.EN k).is v && (List.range 36).any (fun j => j != k &&
      s.is (F.RS_LANE.EN j) && s.g (F.RS_LANE.HALL j) == (F.RS_LANE.HALL k).of v && s.g (F.RS_LANE.SLOT j) ==
      (F.RS_LANE.SLOT k).of v)) = false) ∧
    (∃ (s : State) (k : Nat) (v : Word), Ready s ∧ s.part.raster = true ∧ k < 36 ∧ s.rsSt = rsOff ∧ (((F.RS_LANE.EN k).is
      v && (List.range 36).any (fun j => j != k && s.is (F.RS_LANE.EN j) && s.g (F.RS_LANE.HALL j) == (F.RS_LANE.HALL
      k).of v && s.g (F.RS_LANE.SLOT j) == (F.RS_LANE.SLOT k).of v)) = true ∨ s.part.halls ≤ (F.RS_LANE.HALL k).of v ∨
      (F.RS_LANE.IDLE k).of v = 3)) ∧
    (∃ (s : State) (k : Nat) (v : Word), Ready s ∧ s.part.raster = true ∧ k < 36 ∧ s.rsSt ≠ rsOff ∧ (F.RS_LANE.HALL k).of
      v < s.part.halls ∧ (F.RS_LANE.IDLE k).of v ≠ 3 ∧ ((F.RS_LANE.EN k).is v && (List.range 36).any (fun j => j != k &&
      s.is (F.RS_LANE.EN j) && s.g (F.RS_LANE.HALL j) == (F.RS_LANE.HALL k).of v && s.g (F.RS_LANE.SLOT j) ==
      (F.RS_LANE.SLOT k).of v)) = false) ∧
    (∃ (s : State) (k : Nat) (v : Word), Ready s ∧ s.part.raster = true ∧ k < 36 ∧ s.rsSt ≠ rsOff ∧ (((F.RS_LANE.EN k).is
      v && (List.range 36).any (fun j => j != k && s.is (F.RS_LANE.EN j) && s.g (F.RS_LANE.HALL j) == (F.RS_LANE.HALL
      k).of v && s.g (F.RS_LANE.SLOT j) == (F.RS_LANE.SLOT k).of v)) = true ∨ s.part.halls ≤ (F.RS_LANE.HALL k).of v ∨
      (F.RS_LANE.IDLE k).of v = 3)) :=
  ⟨
    ⟨run_ ((((({ ready with rs := {} } : State)).p (F.UNIT_STATE.STATE 52) 0)).p F.RS_STAT.STATE 0) 9 false (dk [(0, 16,
      16), (64, 64, 4096), (128, 32, 256), (176, 16, 3)]), (9 : Nat), (BitVec.ofNat 2048 (pack [(0, 1, 1), (8, 8, 32),
      (16, 16, 1), (32, 16, 1), (48, 16, 1000), (64, 16, 1), (80, 16, 1), (96, 16, 1), (112, 16, 100), (128, 16, 1), (144,
      16, 1), (160, 16, 1), (176, 16, 102), (512, 1, 1), (704, 32, 77)]) : BitVec 2048), (⟨5, 7, dk [(0, 16, 16), (64, 64,
      4096), (128, 32, 256), (176, 16, 3)], false, 0, 0⟩ : DescRun), by decide +kernel⟩,
    ⟨run_ ((((({ ready with rs := {} } : State)).p (F.UNIT_STATE.STATE 52) 0)).p F.RS_STAT.STATE 0) 9 false (dk [(0, 16,
      16), (64, 64, 4096), (128, 32, 256), (176, 16, 3)]), (9 : Nat), (BitVec.ofNat 2048 (pack [(0, 1, 1), (8, 8, 32),
      (16, 16, 1), (32, 16, 1), (48, 16, 1000), (64, 16, 1), (80, 16, 1), (96, 16, 1), (112, 16, 100), (128, 16, 1), (144,
      16, 1), (160, 16, 1), (176, 16, 102), (512, 1, 1), (704, 32, 77)]) : BitVec 2048), (⟨5, 7, dk [(0, 16, 16), (64, 64,
      4096), (128, 32, 256), (176, 16, 3)], false, 0, 0⟩ : DescRun), by decide +kernel⟩,
    ⟨run_ ((((({ ready with rs := {} } : State)).p (F.UNIT_STATE.STATE 52) 0)).p F.RS_STAT.STATE 0) 9 false (dk [(0, 16,
      16), (64, 64, 4096), (128, 32, 256), (176, 16, 3)]), (9 : Nat), (0 : BitVec 2048), (⟨5, 7, dk [(0, 16, 16), (64, 64,
      4096), (128, 32, 256), (176, 16, 3)], false, 0, 0⟩ : DescRun), by decide +kernel⟩,
    ⟨run_ ((((({ ready with rs := {} } : State)).p (F.UNIT_STATE.STATE 52) 0)).p F.RS_STAT.STATE 0) 9 false (dk [(0, 16,
      16), (64, 64, 4096), (128, 32, 256), (176, 16, 3)]), (9 : Nat), ((BitVec.ofNat 2048 (pack [(0, 1, 1), (8, 8, 32),
      (16, 16, 1), (32, 16, 1), (48, 16, 1000), (64, 16, 1), (80, 16, 1), (96, 16, 1), (112, 16, 100), (128, 16, 1), (144,
      16, 1), (160, 16, 1), (176, 16, 102), (512, 1, 1), (704, 32, 77)]) ||| BitVec.ofNat 2048 (pack [(560, 16, 100),
      (576, 16, 100), (640, 32, 0xFFFFFFC0)])) : BitVec 2048), (⟨5, 7, dk [(0, 16, 16), (64, 64, 4096), (128, 32, 256),
      (176, 16, 3)], false, 0, 0⟩ : DescRun), by decide +kernel⟩,
    ⟨run_ ((((({ ready with rs := {} } : State).setRs ({ kill := some (4, 3, 9) } : RsX)).p (F.UNIT_STATE.STATE 52) 0)).p
      F.RS_STAT.STATE 0) 9 false (dk [(0, 16, 16), (64, 64, 4096), (128, 32, 256), (176, 16, 3)]), (9 : Nat), (⟨5, 7, dk
      [(0, 16, 16), (64, 64, 4096), (128, 32, 256), (176, 16, 3)], false, 0, 0⟩ : DescRun), by decide +kernel⟩,
    ⟨run_ ((((({ ready with rs := {} } : State).setRs { queue := (List.range 252).map (fun _ => ⟨32, 7⟩) }).p
      F.RS_STAT.VALID 15).p (F.UNIT_STATE.STATE 52) 0)) 9 false (dk [(0, 16, 16), (64, 64, 4096), (128, 32, 256), (176,
      16, 3)]), (9 : Nat), (BitVec.ofNat 2048 (pack [(0, 1, 1), (8, 8, 32), (16, 16, 1), (32, 16, 1), (48, 16, 1000), (64,
      16, 1), (80, 16, 1), (96, 16, 1), (112, 16, 100), (128, 16, 1), (144, 16, 1), (160, 16, 1), (176, 16, 102), (512, 1,
      1), (704, 32, 77)]) : BitVec 2048), (⟨5, 7, dk [(0, 16, 16), (64, 64, 4096), (128, 32, 256), (176, 16, 3)], false,
      0, 0⟩ : DescRun), by decide +kernel⟩,
    ⟨run_ ((((({ ready with rs := {} } : State).setRs { queue := (List.range 252).map (fun _ => ⟨32, 7⟩) }).p
      F.RS_STAT.VALID 15).p (F.UNIT_STATE.STATE 52) 0)) 9 false (dk [(0, 16, 16), (160, 5, 0x19), (176, 16, 3)]), (9 :
      Nat), (⟨5, 7, dk [(0, 16, 16), (160, 5, 0x19), (176, 16, 3)], false, 0, 0⟩ : DescRun), by decide +kernel⟩,
    ⟨run_ ((((({ ready with rs := {} } : State)).p (F.UNIT_STATE.STATE 52) 0)).p F.RS_STAT.STATE 0) 9 false (dk [(0, 16,
      16), (160, 5, 0x19), (176, 16, 3)]), (9 : Nat), (⟨5, 7, dk [(0, 16, 16), (160, 5, 0x19), (176, 16, 3)], false, 0, 0⟩
      : DescRun), by decide +kernel⟩,
    ⟨(run_ (({ ready with rs := {} } : State).p F.RS_STAT.STATE 0) 9 true (dk [(0, 16, 16), (64, 64, 4096), (128, 32,
      256), (176, 16, 3)])).setRs
      { pend := some ⟨5, 3, BitVec.ofNat 2048 (pack [(0, 1, 1), (8, 8, 32), (16, 16, 1), (32, 16, 1), (48, 16, 1000), (64,
          16, 1), (80, 16, 1), (96, 16, 1), (112, 16, 100), (128, 16, 1), (144, 16, 1), (160, 16, 1), (176, 16, 102),
          (512, 1, 1), (704, 32, 77)]), false, false, true⟩ }, (⟨5, 3, BitVec.ofNat 2048 (pack [(0, 1, 1), (8, 8, 32),
      (16, 16, 1), (32, 16, 1), (48, 16, 1000), (64, 16, 1), (80, 16, 1), (96, 16, 1), (112, 16, 100), (128, 16, 1), (144,
      16, 1), (160, 16, 1), (176, 16, 102), (512, 1, 1), (704, 32, 77)]), false, false, true⟩ : RsPend), (9 : Nat), (⟨5,
      7, dk [(0, 16, 16), (64, 64, 4096), (128, 32, 256), (176, 16, 3)], true, 0, 0⟩ : DescRun), by decide +kernel⟩,
    ⟨({ ready with rs := {} } : State).setRs
      { pend := some ⟨5, 3, BitVec.ofNat 2048 (pack [(0, 1, 1), (8, 8, 32), (16, 16, 1), (32, 16, 1), (48, 16, 1000), (64,
          16, 1), (80, 16, 1), (96, 16, 1), (112, 16, 100), (128, 16, 1), (144, 16, 1), (160, 16, 1), (176, 16, 102),
          (512, 1, 1), (704, 32, 77)]), false, false, false⟩ }, (⟨5, 3, BitVec.ofNat 2048 (pack [(0, 1, 1), (8, 8, 32),
      (16, 16, 1), (32, 16, 1), (48, 16, 1000), (64, 16, 1), (80, 16, 1), (96, 16, 1), (112, 16, 100), (128, 16, 1), (144,
      16, 1), (160, 16, 1), (176, 16, 102), (512, 1, 1), (704, 32, 77)]), false, false, false⟩ : RsPend),
      by decide +kernel⟩,
    ⟨(run_ (({ ready with rs := {} } : State).p F.RS_STAT.VALID 9) 9 true (dk [(0, 16, 16), (160, 5, 0x19), (176, 16,
      3)])).setRs { kill := some (5, 3, 9) }, (5 : Nat), (3 : Nat), (9 : Nat), (9 : Nat), (⟨5, 7, dk [(0, 16, 16), (160,
      5, 0x19), (176, 16, 3)], true, 0, 0⟩ : DescRun), by decide +kernel⟩,
    ⟨(({ ready with rs := {} } : State).p F.RS_STAT.STATE 2).setRs
      { block := BitVec.ofNat 2048 (pack [(0, 1, 1), (8, 8, 32), (16, 16, 1), (32, 16, 1), (48, 16, 1000), (64, 16, 1),
          (80, 16, 1), (96, 16, 1), (112, 16, 100), (128, 16, 1), (144, 16, 1), (160, 16, 1), (176, 16, 102), (512, 1, 1),
          (704, 32, 77)]), pend := some ⟨5, 3, BitVec.ofNat 2048 (pack [(0, 1, 1), (8, 8, 32), (16, 16, 1), (32, 16, 1),
          (48, 16, 1000), (64, 16, 1), (80, 16, 1), (96, 16, 1), (112, 16, 100), (128, 16, 1), (144, 16, 1), (160, 16, 1),
          (176, 16, 102), (512, 1, 1), (704, 32, 77)]), false, false, false⟩ }, by decide +kernel⟩,
    ⟨(({ ready with rs := {} } : State).p F.RS_STAT.STATE 2).setRs
      { block := BitVec.ofNat 2048 (pack [(0, 1, 1), (8, 8, 32), (16, 16, 1), (32, 16, 1), (48, 16, 1000), (64, 16, 1),
          (80, 16, 1), (96, 16, 1), (112, 16, 100), (128, 16, 1), (144, 16, 1), (160, 16, 1), (176, 16, 102), (512, 1, 1),
          (704, 32, 77)]), retiring := [(0, 77, false), (3, 5, true)], queue := [⟨32, 1⟩] }, by decide +kernel⟩,
    ⟨(({ ready with rs := {} } : State).p F.RS_STAT.STATE 2).wr R.RS_FRAME 0xFFFFFFFF#32, by decide +kernel⟩,
    ⟨({ ready with rs := {} } : State).p F.RS_STAT.STATE 1, by decide +kernel⟩,
    ⟨(({ ready with rs := {} } : State).p F.RS_STAT.STATE 2).setRs
      ({ block := BitVec.ofNat 2048 (pack [(0, 1, 1), (8, 8, 32), (16, 16, 1), (32, 16, 1), (48, 16, 1000), (64, 16, 1),
           (80, 16, 1), (96, 16, 1), (112, 16, 100), (128, 16, 1), (144, 16, 1), (160, 16, 1), (176, 16, 102), (512, 1,
           1), (704, 32, 77)]) }), by decide +kernel⟩,
    ⟨((({ ready with rs := {} } : State).p F.RS_STAT.STATE 2).p F.RS_STAT.VALID 8).p F.RS_UNDER_CNT.COUNT 5, (3 : Nat),
      by decide +kernel⟩,
    ⟨(((((({ ready with rs := {} } : State).p (F.RR_CFG.EN 3) 1).p (F.RR_CFG.LOG 3) 6).p (F.RR_HEAD.INDEX 3) 60).p
      (F.RR_TAIL.INDEX 3) 63)).setRs { queue := [⟨32, 7⟩, ⟨32, 8⟩] }, (⟨32, 7⟩ : RingRec), ([⟨32, 8⟩] : List RingRec),
      by decide +kernel⟩,
    ⟨(((((({ ready with rs := {} } : State).p (F.RR_CFG.EN 3) 0).p (F.RR_CFG.LOG 3) 6).p (F.RR_HEAD.INDEX 3) 60).p
      (F.RR_TAIL.INDEX 3) 63)).setRs { queue := [⟨32, 7⟩, ⟨32, 8⟩] }, by decide +kernel⟩,
    ⟨({ ready with rs := {} } : State).p F.RS_STAT.STATE 0, (35 : Nat), (fieldPut (F.RS_LANE.IDLE 0).lo 2 2 (fieldPut
      (F.RS_LANE.EN 0).lo 1 0 0xFFFFFFFF#32) : Word), by decide +kernel⟩,
    ⟨({ ready with rs := {} } : State).p F.RS_STAT.STATE 0, (35 : Nat), (fieldPut (F.RS_LANE.IDLE 0).lo 2 3 (fieldPut
      (F.RS_LANE.EN 0).lo 1 0 0xFFFFFFFF#32) : Word), by decide +kernel⟩,
    ⟨({ ready with rs := {} } : State).p F.RS_STAT.STATE 2, (35 : Nat), (5#32 : Word), by decide +kernel⟩,
    ⟨({ ready with rs := {} } : State).p F.RS_STAT.STATE 2, (35 : Nat), (fieldPut (F.RS_LANE.IDLE 0).lo 2 3 (fieldPut
      (F.RS_LANE.EN 0).lo 1 0 0xFFFFFFFF#32) : Word), by decide +kernel⟩⟩

/-- States and operands that meet the hypotheses of EventsAndTimers, clause by clause. -/
theorem test_meets_events_and_timers :
    (∃ (s : State) (k : Nat) (v : Word), Ready s ∧ k < 16 ∧ (F.TM_CTL.GO k).is v = true ∧ (F.TM_CTL.EN k).is v = true ∧
      s.is (F.TM_CTL.RUN k) = false ∧ ((F.TM_CTL.MODE k).of v = 0 ∨ s.g (F.TM_WIDTH.CYCLES k) < s.g (F.TM_PERIOD.CYCLES
      k))) ∧
    (∃ (s : State) (k : Nat) (v : Word), Ready s ∧ k < 16 ∧ (F.TM_CTL.GO k).is v = true ∧ (F.TM_CTL.EN k).is v = true ∧
      (F.TM_CTL.STOP k).is v = false ∧ (F.TM_CTL.RETRIG k).is v = false ∧ s.is (F.TM_CTL.RUN k) = true ∧ (s.g
      (F.TM_CTL.MODE k) = 0 ∨ s.g (F.TM_WIDTH.CYCLES k) < s.g (F.TM_PERIOD.CYCLES k))) ∧
    (∃ (s : State) (k : Nat) (v : Word), Ready s ∧ k < 16 ∧ (F.TM_CTL.GO k).is v = true ∧ (F.TM_CTL.EN k).is v = true ∧
      (F.TM_CTL.RETRIG k).is v = true ∧ s.is (F.TM_CTL.RUN k) = true ∧ (s.g (F.TM_CTL.MODE k) = 0 ∨ s.g (F.TM_WIDTH.CYCLES
      k) < s.g (F.TM_PERIOD.CYCLES k))) ∧
    (∃ (s : State) (k : Nat) (v : Word), Ready s ∧ k < 16 ∧ (F.TM_CTL.GO k).is v = true ∧ (F.TM_CTL.EN k).is v = false ∧
      ((if s.is (F.TM_CTL.RUN k) = true then s.g (F.TM_CTL.MODE k) else (F.TM_CTL.MODE k).of v) = 0 ∨ s.g
      (F.TM_WIDTH.CYCLES k) < s.g (F.TM_PERIOD.CYCLES k))) ∧
    (∃ (s : State) (k : Nat) (v : Word), Ready s ∧ k < 16 ∧ (F.TM_CTL.GO k).is v = true ∧ (if s.is (F.TM_CTL.RUN k) = true
      then s.g (F.TM_CTL.MODE k) else (F.TM_CTL.MODE k).of v) = 1 ∧ s.g (F.TM_PERIOD.CYCLES k) ≤ s.g (F.TM_WIDTH.CYCLES
      k)) ∧
    (∃ (s : State) (k : Nat) (v : Word), Ready s ∧ k < 16 ∧ ((F.TM_CTL.STOP k).is v = true ∨ (F.TM_CTL.EN k).is v = false)
      ∧ (if s.is (F.TM_CTL.RUN k) = true then s.g (F.TM_CTL.MODE k) else (F.TM_CTL.MODE k).of v) = 1 ∧ s.g
      (F.TM_PERIOD.CYCLES k) ≤ s.g (F.TM_WIDTH.CYCLES k)) ∧
    (∃ (s : State) (k : Nat) (v : Word), Ready s ∧ k < 16 ∧ ((F.TM_CTL.STOP k).is v = true ∨ (F.TM_CTL.EN k).is v = false)
      ∧ (F.TM_CTL.GO k).is v = false ∧ ((if s.is (F.TM_CTL.RUN k) = true then s.g (F.TM_CTL.MODE k) else (F.TM_CTL.MODE
      k).of v) = 0 ∨ s.g (F.TM_WIDTH.CYCLES k) < s.g (F.TM_PERIOD.CYCLES k))) ∧
    (∃ (s : State) (k : Nat), k < 16 ∧ s.is (F.TM_CTL.RUN k) = true ∧ s.is (F.TM_CTL.OUT k) = false ∧ s.tmAt k ≤ s.cyc) ∧
    (∃ (s : State) (k : Nat), s.cyc < s.tmAt k) ∧
    (∃ (s : State) (k : Nat), k < 16 ∧ s.is (F.TM_CTL.RUN k) = true ∧ s.is (F.TM_CTL.OUT k) = true ∧ s.tmAt k + s.g
      (F.TM_WIDTH.CYCLES k) ≤ s.cyc) ∧
    (∃ (s : State) (k : Nat), s.cyc < s.tmAt k + s.g (F.TM_WIDTH.CYCLES k)) ∧
    (∃ (s : State) (e : Nat) (i : Nat) (c : Nat), s.awake = true ∧ e < 64 ∧ s.evIn = [(i, c)] ∧ (F.EV_CFG.EN e).is
      (s.evWord (R.EV_CFG e) (c + 2)) = true ∧ (i = 256 + e ∨ (i < 256 ∧ s.evSuppressed i (c + 2) = false ∧ s.evBit
      (R.EV_PMASK e 0) i (c + 2) = true)) ∧ s.g (F.EV_CNT.COUNT e) < 2 ^ 31 - 1) ∧
    (∃ (s : State) (e : Nat) (i : Nat) (c : Nat) (n : Nat), s.awake = true ∧ e < 64 ∧ s.evIn = [(i, c)] ∧ (F.EV_CFG.EN
      e).is (s.evWord (R.EV_CFG e) (c + 2)) = true ∧ (i = 256 + e ∨ (i < 256 ∧ s.evSuppressed i (c + 2) = false ∧ s.evBit
      (R.EV_PMASK e 0) i (c + 2) = true)) ∧ s.is (F.EV_STAT.FLAG e) = false ∧ (F.EV_CFG.IRQ_EN e).is (s.evWord (R.EV_CFG
      e) (c + 2)) = true ∧ (F.EV_CFG.VEC e).of (s.evWord (R.EV_CFG e) (c + 2)) = n) ∧
    (∃ (s : State) (e : Nat) (i : Nat) (c : Nat) (k : Nat), s.awake = true ∧ e < 64 ∧ s.evIn = [(i, c)] ∧ k < 8 ∧
      (F.EV_CFG.EN e).is (s.evWord (R.EV_CFG e) (c + 2)) = true ∧ (i = 256 + e ∨ (i < 256 ∧ s.evSuppressed i (c + 2) =
      false ∧ s.evBit (R.EV_PMASK e 0) i (c + 2) = true)) ∧ s.evBit (R.EV_CMASK e 0) (28 + k) (c + 2) = true) ∧
    (∃ (s : State) (e : Nat) (i : Nat) (c : Nat), s.awake = true ∧ e < 64 ∧ s.evIn = [(i, c)] ∧ (F.EV_CFG.EN e).is
      (s.evWord (R.EV_CFG e) (c + 2)) = false) ∧
    (∃ (s : State) (i : Nat) (c : Nat), s.awake = true ∧ i < 256 ∧ s.evIn = [(i, c)] ∧ s.evSuppressed i (c + 2) = true ∧
      s.g F.EV_LOOP.COUNT < 2 ^ 31 - 1) ∧
    (∃ (s : State), s.evIn = []) ∧
    (∃ (s : State), Ready s) ∧
    (∃ (s : State) (d : Nat), Ready s ∧ d < 8) ∧
    (∃ (s : State) (e : Nat) (k : Nat), Ready s ∧ e < 64 ∧ k < 8) ∧
    (∃ (s : State) (e : Nat), Ready s ∧ e < 64) ∧
    (∃ (s : State) (e : Nat) (k : Nat) (v : Word), Ready s ∧ e < 64 ∧ k < 5 ∧ v &&& (if k = 0 then 0#32 else if k = 1 then
      0xFFFFFFE0#32 else 0xFFFFFFFF#32) = 0#32) ∧
    (∃ (s : State) (e : Nat) (k : Nat) (v : Word), Ready s ∧ e < 64 ∧ k < 5 ∧ v &&& (if k = 0 then 0#32 else if k = 1 then
      0xFFFFFFE0#32 else 0xFFFFFFFF#32) ≠ 0#32) ∧
    (∃ (s : State) (e : Nat) (v : Word), Ready s ∧ e < 64 ∧ s.is (F.EV_CFG.SECURE e) = true ∧ (F.EV_CFG.OWNER e).of v ≠ 0) ∧
    (∃ (s : State) (e : Nat) (v : Word), Ready s ∧ e < 64 ∧ (s.is (F.EV_CFG.SECURE e) = false ∨ (F.EV_CFG.OWNER e).of v =
      0)) ∧
    (∃ (s : State) (e : Nat) (rest : List Nat), s.jnl.markQ = e :: rest ∧ s.recording = true ∧ s.jnl.fifo.length < 2016 ∧
      s.jnl.lost = 0) ∧
    (∃ (s : State), (s.jnl.markQ = [] ∨ s.recording = false ∨ 2016 ≤ s.jnl.fifo.length)) ∧
    (∃ (s : State) (n : Nat), n < 8 ∧ s.evPulseEnd n ≤ s.cyc) ∧
    (∃ (s : State) (n : Nat), s.cyc < s.evPulseEnd n) ∧
    (∃ (s : State) (h : Nat), h < s.part.halls) ∧
    (∃ (s : State) (h : Nat) (n : Nat), s.g (F.FLT_TRIGOUT.PIN h) ≠ n) :=
  ⟨
    ⟨((ready.p (F.TM_CTL.RUN 15) 0)).p (F.TM_DELAY.CYCLES 15) 0, (15 : Nat), (BitVec.ofNat 32 (2 ^ (F.TM_CTL.GO 0).lo + 2
      ^ (F.TM_CTL.EN 0).lo) : Word), by decide +kernel⟩,
    ⟨((ready.p (F.TM_CTL.RUN 15) 1).p (F.TM_CTL.MODE 15) 0), (15 : Nat), (BitVec.ofNat 32 (2 ^ (F.TM_CTL.GO 0).lo + 2 ^
      (F.TM_CTL.EN 0).lo) : Word), by decide +kernel⟩,
    ⟨(((ready.p (F.TM_CTL.RUN 15) 1).p (F.TM_CTL.MODE 15) 0).p (F.TM_CTL.OUT 15) 1), (15 : Nat), (BitVec.ofNat 32 (2 ^
      (F.TM_CTL.GO 0).lo + 2 ^ (F.TM_CTL.EN 0).lo + 2 ^ (F.TM_CTL.RETRIG 0).lo) : Word), by decide +kernel⟩,
    ⟨(((ready.p (F.TM_CTL.RUN 15) 1).p (F.TM_CTL.MODE 15) 0).p (F.TM_CTL.OUT 15) 1), (15 : Nat), (BitVec.ofNat 32 (2 ^
      (F.TM_CTL.GO 0).lo) : Word), by decide +kernel⟩,
    ⟨(((ready.p (F.TM_CTL.RUN 15) 0)).wr (R.TM_PERIOD 15) 7).wr (R.TM_WIDTH 15) 7, (15 : Nat), (0xFFFFFFFF#32 : Word),
      by decide +kernel⟩,
    ⟨(((ready.p (F.TM_CTL.RUN 15) 0)).wr (R.TM_PERIOD 15) 7).wr (R.TM_WIDTH 15) 7, (15 : Nat), (0xFFFFFFFF#32 : Word),
      by decide +kernel⟩,
    ⟨(((ready.p (F.TM_CTL.RUN 15) 1).p (F.TM_CTL.OUT 15) 1).p (F.TM_CTL.MODE 15) 0), (15 : Nat), (BitVec.ofNat 32 (2 ^
      (F.TM_CTL.STOP 0).lo + 2 ^ (F.TM_CTL.EN 0).lo) : Word), by decide +kernel⟩,
    ⟨{ ((ready.p (F.TM_CTL.RUN 15) 1).p (F.TM_CTL.OUT 15) 0) with tms := [(15, 4)], cyc := 4 }, (15 : Nat),
      by decide +kernel⟩,
    ⟨{ ((ready.p (F.TM_CTL.RUN 15) 1).p (F.TM_CTL.OUT 15) 0) with tms := [(15, 5)], cyc := 4 }, (15 : Nat),
      by decide +kernel⟩,
    ⟨{ ((ready.p (F.TM_CTL.RUN 15) 1).p (F.TM_CTL.OUT 15) 1) with tms := [(15, 4)], cyc := 2 ^ 33 }, (15 : Nat),
      by decide +kernel⟩,
    ⟨{ ((ready.p (F.TM_CTL.RUN 15) 1).p (F.TM_CTL.OUT 15) 1) with tms := [(15, 5)], cyc := 4 }, (15 : Nat),
      by decide +kernel⟩,
    ⟨{ ((((((((({ ready with evIn := [], evOld := [], evLast := [] } : State).p (F.EV_CFG.EN 63) 1).wr (R.EV_PMASK 63 0)
         0).wr (R.EV_PMASK 63 7) 0).wr (R.EV_PMASK 63 4) 0x80#32).wr (R.EV_CMASK 63 0) 0x10000000#32).wr (R.EV_CMASK 63 1)
         0).p (F.EV_STAT.FLAG 63) 0).p (F.EV_CFG.IRQ_EN 63) 1).p (F.EV_CNT.COUNT 63) 5 with evIn := [(319, 9)] }, (63 :
      Nat), (319 : Nat), (9 : Nat), by decide +kernel⟩,
    ⟨({ ((((((((({ ready with evIn := [], evOld := [], evLast := [] } : State).p (F.EV_CFG.EN 63) 1).wr (R.EV_PMASK 63 0)
          0).wr (R.EV_PMASK 63 7) 0).wr (R.EV_PMASK 63 4) 0x80#32).wr (R.EV_CMASK 63 0) 0x10000000#32).wr (R.EV_CMASK 63
          1) 0).p (F.EV_STAT.FLAG 63) 0).p (F.EV_CFG.IRQ_EN 63) 1).p (F.EV_CNT.COUNT 63) 5 with evIn := [(319, 9)] } :
      State).p (F.EV_CFG.VEC 63) 127, (63 : Nat), (319 : Nat), (9 : Nat), (127 : Nat), by decide +kernel⟩,
    ⟨{ ((((((((({ ready with evIn := [], evOld := [], evLast := [] } : State).p (F.EV_CFG.EN 63) 1).wr (R.EV_PMASK 63 0)
         0).wr (R.EV_PMASK 63 7) 0).wr (R.EV_PMASK 63 4) 0x80#32).wr (R.EV_CMASK 63 0) 0x10000000#32).wr (R.EV_CMASK 63 1)
         0).p (F.EV_STAT.FLAG 63) 0).p (F.EV_CFG.IRQ_EN 63) 1).p (F.EV_CNT.COUNT 63) 5 with evIn := [(319, 9)] }, (63 :
      Nat), (319 : Nat), (9 : Nat), (0 : Nat), by decide +kernel⟩,
    ⟨({ ((((((((({ ready with evIn := [], evOld := [], evLast := [] } : State).p (F.EV_CFG.EN 63) 1).wr (R.EV_PMASK 63 0)
          0).wr (R.EV_PMASK 63 7) 0).wr (R.EV_PMASK 63 4) 0x80#32).wr (R.EV_CMASK 63 0) 0x10000000#32).wr (R.EV_CMASK 63
          1) 0).p (F.EV_STAT.FLAG 63) 0).p (F.EV_CFG.IRQ_EN 63) 1).p (F.EV_CNT.COUNT 63) 5 with evIn := [(319, 9)] } :
      State).p (F.EV_CFG.EN 63) 0, (63 : Nat), (319 : Nat), (9 : Nat), by decide +kernel⟩,
    ⟨(({ ready with evIn := [(255, 9)], evLast := [(255, 10)] } : State).wr (R.EV_REFRACT 63) 0x02020202#32).p
      F.EV_LOOP.COUNT 7, (255 : Nat), (9 : Nat), by decide +kernel⟩,
    ⟨({ ready with evIn := [], evOld := [], evLast := [] } : State), by decide +kernel⟩,
    ⟨ready, by decide +kernel⟩,
    ⟨(ready.p (F.EV_CFG.OWNER 63) 7).p (F.EV_CFG.SECURE 63) 0, (7 : Nat), by decide +kernel⟩,
    ⟨ready, (63 : Nat), (7 : Nat), by decide +kernel⟩,
    ⟨ready, (63 : Nat), by decide +kernel⟩,
    ⟨ready, (63 : Nat), (1 : Nat), (0x1F#32 : Word), by decide +kernel⟩,
    ⟨ready, (63 : Nat), (1 : Nat), (0x20#32 : Word), by decide +kernel⟩,
    ⟨ready.p (F.EV_CFG.SECURE 63) 1, (63 : Nat), (0xFFFFFFFF#32 : Word), by decide +kernel⟩,
    ⟨ready.p (F.EV_CFG.SECURE 63) 0, (63 : Nat), (fieldPut (F.EV_CFG.SECURE 0).lo 1 0 0xFFFFFFFF#32 : Word),
      by decide +kernel⟩,
    ⟨{ (ready.p F.JNL_STAT.REC 1).p F.JNL_STAT.REPLAY 0 with jnl := { markQ := [63, 5] } }, (63 : Nat), ([5] : List Nat),
      by decide +kernel⟩,
    ⟨{ (ready.p F.JNL_STAT.REC 0) with jnl := { markQ := [63, 5] } }, by decide +kernel⟩,
    ⟨{ ready with evPulse := [(6, 5), (7, 4)], cyc := 4 }, (7 : Nat), by decide +kernel⟩,
    ⟨{ ready with evPulse := [(6, 5), (7, 4)], cyc := 3 }, (7 : Nat), by decide +kernel⟩,
    ⟨ready.modHl 31 (fun x => { x with trigOut := true }), (31 : Nat), by decide +kernel⟩,
    ⟨ready.p (F.FLT_TRIGOUT.PIN 31) 6, (31 : Nat), (7 : Nat), by decide +kernel⟩⟩

/-- States and operands that meet the hypotheses of GalleryPeers, clause by clause. -/
theorem test_meets_gallery_peers :
    (∃ (s : State) (port : Nat) (uid : Nat) (flags : Nat) (epoch : Nat) (i : Nat), s.linkUp port = true ∧ uid < 2 ^ 64 ∧
      uid ≠ Config.devUid.toNat ∧ flags < 256 ∧ epoch < 2 ^ 16 ∧ s.findPeer uid = none ∧ (List.range 64).find? (fun k =>
      (s.peer k).st == 0) = some i) ∧
    (∃ (s : State) (port : Nat) (uid : Nat) (flags : Nat) (epoch : Nat) (i : Nat), s.linkUp port = true ∧ uid < 2 ^ 64 ∧
      uid ≠ Config.devUid.toNat ∧ flags < 256 ∧ epoch < 2 ^ 16 ∧ s.findPeer uid = some i ∧ ((s.peer i).st = 1 ∨ (s.peer
      i).st = 2)) ∧
    (∃ (s : State) (port : Nat) (uid : Nat) (flags : Nat) (epoch : Nat) (i : Nat), s.linkUp port = true ∧ uid < 2 ^ 64 ∧
      uid ≠ Config.devUid.toNat ∧ flags < 256 ∧ epoch < 2 ^ 16 ∧ s.findPeer uid = some i ∧ (s.peer i).st = 3) ∧
    (∃ (s : State) (port : Nat) (uid : Nat) (flags : Nat) (epoch : Nat) (i : Nat), s.linkUp port = true ∧ uid < 2 ^ 64 ∧
      uid ≠ Config.devUid.toNat ∧ flags < 256 ∧ epoch < 2 ^ 16 ∧ s.findPeer uid = some i ∧ (s.peer i).st = 4) ∧
    (∃ (s : State) (port : Nat) (uid : Nat) (flags : Nat) (epoch : Nat), s.linkUp port = true ∧ uid < 2 ^ 64 ∧ uid ≠
      Config.devUid.toNat ∧ flags < 256 ∧ epoch < 2 ^ 16 ∧ s.findPeer uid = none ∧ (List.range 64).find? (fun k => (s.peer
      k).st == 0) = none) ∧
    (∃ (s : State) (port : Nat), s.linkUp port = true) ∧
    (∃ (s : State) (i : Nat), i < 64 ∧ 1 ≤ (s.peer i).st ∧ (s.peer i).st ≤ 3) ∧
    (∃ (s : State) (i : Nat), ((s.peer i).st = 0 ∨ (s.peer i).st = 4)) ∧
    (∃ (s : State) (i : Nat), Ready s ∧ i < 64 ∧ (s.peer i).st = 2) ∧
    (∃ (s : State) (i : Nat), Ready s ∧ i < 64 ∧ (s.peer i).st ≠ 2) ∧
    (∃ (s : State) (i : Nat), Ready s ∧ i < 64) ∧
    (∃ (s : State) (uid : Nat) (map : Nat) (i : Nat), s.awake = true ∧ s.findPeer uid = some i ∧ map < 2 ^ 3072) ∧
    (∃ (s : State) (uid : Nat), s.findPeer uid = none) ∧
    (∃ (s : State) (port : Nat), s.linkUp port = true ∧ 7 ≤ s.g F.BOOT_STAGE.STAGE ∧ s.g F.BOOT_STAGE.STAGE ≤ 9) ∧
    (∃ (s : State), Ready s ∧ s.linkUp (s.g F.GAL_STAT.ACTIVE) = true) ∧
    (∃ (s : State), s.g F.GAL_RX_DROP.COUNT < 2 ^ 31 - 1) ∧
    (∃ (s : State), s.g F.GAL_RX_DROP.COUNT = 2 ^ 31 - 1) :=
  ⟨
    (by
    by_cases u : Config.devUid.toNat = 5
    · refine ⟨((({ ready with gal := {}, peers := [] } : State).p F.GAL_CFG.ROLE 0).p F.GAL_STAT.LINK0 1), (0 : Nat), (6 : Nat), (4 : Nat), (7 : Nat), (0 : Nat), ?_, ?_, ?_, ?_, ?_, ?_, ?_⟩ <;> first | decide +kernel | omega
    · refine ⟨((({ ready with gal := {}, peers := [] } : State).p F.GAL_CFG.ROLE 0).p F.GAL_STAT.LINK0 1), (0 : Nat), (5 : Nat), (4 : Nat), (7 : Nat), (0 : Nat), ?_, ?_, ?_, ?_, ?_, ?_, ?_⟩ <;> first | decide +kernel | omega),
    (by
    by_cases u : Config.devUid.toNat = 5
    · refine ⟨((({ ready with gal := {}, peers := [] } : State).p F.GAL_CFG.ROLE 0).p F.GAL_STAT.LINK0 1) |> (fun s => ({ s with peers := [(63, { st := 1, uid := 6, ports := 1, flags := 0, epoch := 4 })] } : State)), (0 : Nat), (6 : Nat), (0x46 : Nat), (7 : Nat), (63 : Nat), ?_, ?_, ?_, ?_, ?_, ?_, ?_⟩ <;> first | decide +kernel | omega
    · refine ⟨((({ ready with gal := {}, peers := [] } : State).p F.GAL_CFG.ROLE 0).p F.GAL_STAT.LINK0 1) |> (fun s => ({ s with peers := [(63, { st := 1, uid := 5, ports := 1, flags := 0, epoch := 4 })] } : State)), (0 : Nat), (5 : Nat), (0x46 : Nat), (7 : Nat), (63 : Nat), ?_, ?_, ?_, ?_, ?_, ?_, ?_⟩ <;> first | decide +kernel | omega),
    (by
    by_cases u : Config.devUid.toNat = 5
    · refine ⟨((({ ready with gal := {}, peers := [] } : State).p F.GAL_CFG.ROLE 0).p F.GAL_STAT.LINK0 1) |> (fun s => ({ s with peers := [(63, { st := 3, uid := 6, ports := 1, flags := 0, epoch := 4 })] } : State)), (0 : Nat), (6 : Nat), (0x46 : Nat), (7 : Nat), (63 : Nat), ?_, ?_, ?_, ?_, ?_, ?_, ?_⟩ <;> first | decide +kernel | omega
    · refine ⟨((({ ready with gal := {}, peers := [] } : State).p F.GAL_CFG.ROLE 0).p F.GAL_STAT.LINK0 1) |> (fun s => ({ s with peers := [(63, { st := 3, uid := 5, ports := 1, flags := 0, epoch := 4 })] } : State)), (0 : Nat), (5 : Nat), (0x46 : Nat), (7 : Nat), (63 : Nat), ?_, ?_, ?_, ?_, ?_, ?_, ?_⟩ <;> first | decide +kernel | omega),
    (by
    by_cases u : Config.devUid.toNat = 5
    · refine ⟨((({ ready with gal := {}, peers := [] } : State).p F.GAL_CFG.ROLE 0).p F.GAL_STAT.LINK0 1) |> (fun s => ({ s with peers := [(63, { st := 4, uid := 6, ports := 1, flags := 0, epoch := 4 })] } : State)), (0 : Nat), (6 : Nat), (0x46 : Nat), (7 : Nat), (63 : Nat), ?_, ?_, ?_, ?_, ?_, ?_, ?_⟩ <;> first | decide +kernel | omega
    · refine ⟨((({ ready with gal := {}, peers := [] } : State).p F.GAL_CFG.ROLE 0).p F.GAL_STAT.LINK0 1) |> (fun s => ({ s with peers := [(63, { st := 4, uid := 5, ports := 1, flags := 0, epoch := 4 })] } : State)), (0 : Nat), (5 : Nat), (0x46 : Nat), (7 : Nat), (63 : Nat), ?_, ?_, ?_, ?_, ?_, ?_, ?_⟩ <;> first | decide +kernel | omega),
    (by
    by_cases u : Config.devUid.toNat = 5
    · refine ⟨((({ ready with gal := {}, peers := [] } : State).p F.GAL_CFG.ROLE 0).p F.GAL_STAT.LINK0 1) |> (fun s => ({ s with peers := (List.range 64).map (fun i => (i, { st := 4, uid := 2 ^ 70 + i })) } : State)), (0 : Nat), (6 : Nat), (0x42 : Nat), (7 : Nat), ?_, ?_, ?_, ?_, ?_, ?_, ?_⟩ <;> first | decide +kernel | omega
    · refine ⟨((({ ready with gal := {}, peers := [] } : State).p F.GAL_CFG.ROLE 0).p F.GAL_STAT.LINK0 1) |> (fun s => ({ s with peers := (List.range 64).map (fun i => (i, { st := 4, uid := 2 ^ 70 + i })) } : State)), (0 : Nat), (5 : Nat), (0x42 : Nat), (7 : Nat), ?_, ?_, ?_, ?_, ?_, ?_, ?_⟩ <;> first | decide +kernel | omega),
    ⟨((({ ready with gal := {}, peers := [] } : State).p F.GAL_CFG.ROLE 0).p F.GAL_STAT.LINK0 1), (0 : Nat),
      by decide +kernel⟩,
    ⟨{ ready with peers := [(63, { st := 3, uid := 9 })] }, (63 : Nat), by decide +kernel⟩,
    ⟨{ ready with peers := [(63, { st := 4, uid := 9 })] }, (63 : Nat), by decide +kernel⟩,
    ⟨{ ready with peers := [(63, { st := 2, uid := 9 })] }, (63 : Nat), by decide +kernel⟩,
    ⟨{ ready with peers := [(63, { st := 1, uid := 9 })] }, (63 : Nat), by decide +kernel⟩,
    ⟨{ ready with peers := [(63, { st := 1, uid := 9 })] }, (63 : Nat), by decide +kernel⟩,
    ⟨{ ready with peers := [(63, { st := 3, uid := 9 })] }, (9 : Nat), (2 ^ 3071 + 5 : Nat), (63 : Nat),
      by decide +kernel⟩,
    ⟨{ ready with peers := [(63, { st := 3, uid := 9 })] }, (8 : Nat), by decide +kernel⟩,
    ⟨({ ready with gal := {}, peers := [] } : State).p F.GAL_STAT.LINK1 1, (1 : Nat), by decide +kernel⟩,
    ⟨(({ ready with gal := {}, peers := [] } : State).p F.GAL_STAT.LINK0 1).p F.GAL_STAT.ACTIVE 0, by decide +kernel⟩,
    ⟨ready.wr R.GAL_RX_DROP 5, by decide +kernel⟩,
    ⟨ready.wr R.GAL_RX_DROP 0x7FFFFFFF#32, by decide +kernel⟩⟩

/-- States and operands that meet the hypotheses of GalleryRoles, clause by clause. -/
theorem test_meets_gallery_roles :
    (∃ (s : State) (v : Word), Ready s ∧ (F.GAL_CFG.ROLE.is v = s.newel ∨ s.quiesced = true)) ∧
    (∃ (s : State) (v : Word), Ready s ∧ F.GAL_CFG.ROLE.is v ≠ s.newel ∧ s.quiesced = false) ∧
    (∃ (s : State) (port : Nat) (uid : Nat) (flags : Nat), s.linkUp port = true ∧ uid < 2 ^ 64 ∧ uid ≠ Config.devUid.toNat
      ∧ natBits flags 0 1 = 1 ∧ s.newel = true) ∧
    (∃ (s : State), Ready s ∧ s.is F.REF_STAT.REF_LOCK = true ∧ s.tbSt = tbLocked) ∧
    (∃ (s : State), Ready s ∧ (s.is F.REF_STAT.REF_LOCK = false ∨ s.tbSt ≠ tbLocked)) ∧
    (∃ (s : State) (h : Nat), Ready s ∧ s.is F.GAL_STAT.JOINED = true ∧ h < s.part.halls) ∧
    (∃ (s : State), Ready s ∧ s.is F.GAL_STAT.JOINED = false) ∧
    (∃ (s : State) (port : Nat), port < s.part.galPorts) ∧
    (∃ (s : State) (port : Nat), s.part.galPorts ≤ port) ∧
    (∃ (s : State), s.awake = true) :=
  ⟨
    ⟨ready.p F.GAL_CFG.ROLE 1, (0xFFFFFFFF#32 : Word), by decide +kernel⟩,
    ⟨(ready.p F.GAL_CFG.ROLE 1).p (F.TT_CTL.ARMED 7) 1, (0xFFFF0000#32 : Word), by decide +kernel⟩,
    (by
    by_cases u : Config.devUid.toNat = 5
    · refine ⟨((({ ready with gal := {}, peers := [] } : State).p F.GAL_CFG.ROLE 1).p F.GAL_STAT.LINK0 1), (0 : Nat), (6 : Nat), (0x1 : Nat), ?_, ?_, ?_, ?_, ?_⟩ <;> first | decide +kernel | omega
    · refine ⟨((({ ready with gal := {}, peers := [] } : State).p F.GAL_CFG.ROLE 1).p F.GAL_STAT.LINK0 1), (0 : Nat), (5 : Nat), (0x1 : Nat), ?_, ?_, ?_, ?_, ?_⟩ <;> first | decide +kernel | omega),
    ⟨(ready.p F.REF_STAT.REF_LOCK 1).p F.TB0_STAT.STATE 2, by decide +kernel⟩,
    ⟨(ready.p F.REF_STAT.REF_LOCK 1).p F.TB0_STAT.STATE 1, by decide +kernel⟩,
    ⟨(ready.p F.GAL_STAT.JOINED 1).modHl 31 (fun x => { x with driveLine := some 3 }), (31 : Nat), by decide +kernel⟩,
    ⟨(ready.p F.GAL_STAT.JOINED 0), by decide +kernel⟩,
    ⟨(ready.p F.GAL_STAT.LINK0 1).p F.GAL_STAT.ACTIVE 0, (0 : Nat), by decide +kernel⟩,
    ⟨ready, (2 : Nat), by decide +kernel⟩,
    ⟨{ ready with gtl := 4, halls := [] }, by decide +kernel⟩⟩

/-- States and operands that meet the hypotheses of TimeBasesAndPtp, clause by clause. -/
theorem test_meets_time_bases_and_ptp :
    (∃ (s : State), Ready s) ∧
    (∃ (s : State), s.inService = true ∧ natBits (s.tb0 + s.tbAdd.1) 48 32 ≠ natBits s.tb0 48 32) ∧
    (∃ (s : State), s.inService = true ∧ natBits (s.tb0 + s.tbAdd.1) 48 32 = natBits s.tb0 48 32) ∧
    (∃ (s : State), s.newel = true ∧ s.linkUp (s.g F.GAL_STAT.ACTIVE) = true ∧ s.inService = true) ∧
    (∃ (s : State), s.newel = true ∧ s.linkUp (s.g F.GAL_STAT.ACTIVE) = true ∧ s.inService = true) ∧
    (∃ (s : State), s.newel = false ∧ s.linkUp (s.g F.GAL_STAT.ACTIVE) = true ∧ s.inService = true) ∧
    (∃ (s : State) (port : Nat) (dom : Nat), s.newel = true ∧ s.ptpOk port dom = true ∧ s.inService = true) ∧
    (∃ (s : State) (port : Nat) (dom : Nat) (t1 : Int) (t2 : Int) (t3 : Int), s.newel = false ∧ s.ptpOk port dom = true ∧
      s.gal.lastSync = some (t1, t2) ∧ s.gal.reqStamp = some t3) ∧
    (∃ (s : State) (port : Nat) (dom : Nat) (d2 : Int) (x : PeerX), s.newel = false ∧ s.ptpOk port dom = true ∧
      s.gal.delay2 = some d2 ∧ s.tbSt = tbUnset ∧ s.newelPeer = some x ∧ natBits x.flags 5 1 = 1 ∧ 7 ≤ s.gal.syncs ∧
      x.epoch < 2 ^ 16) ∧
    (∃ (s : State) (port : Nat) (dom : Nat) (d2 : Int), s.newel = false ∧ s.ptpOk port dom = true ∧ s.gal.delay2 = some d2
      ∧ s.tbSt = tbHoldover ∧ s.epochNewer = false) ∧
    (∃ (s : State), s.newel = false ∧ (s.tbSt = tbTracking ∨ s.tbSt = tbLocked)) ∧
    (∃ (s : State), (s.newel = true ∨ (s.tbSt ≠ tbTracking ∧ s.tbSt ≠ tbLocked))) ∧
    (∃ (s : State), s.newel = false) ∧
    (∃ (s : State), s.newel = false) ∧
    (∃ (s : State), s.newel = true) ∧
    (∃ (s : State) (port : Nat) (dom : Nat), (s.newel = false ∨ s.ptpOk port dom = false)) ∧
    (∃ (s : State) (port : Nat) (dom : Nat), (s.newel = true ∨ s.ptpOk port dom = false ∨ s.gal.lastSync = none ∨
      s.gal.reqStamp = none)) ∧
    (∃ (s : State) (port : Nat) (dom : Nat) (d2 : Int) (x : PeerX), s.newel = false ∧ s.ptpOk port dom = true ∧
      s.gal.delay2 = some d2 ∧ s.tbSt = tbUnset ∧ s.newelPeer = some x ∧ natBits x.flags 5 1 = 1 ∧ s.gal.syncs < 7) ∧
    (∃ (s : State) (port : Nat) (dom : Nat) (stamp : Int) (d2 : Int), s.newel = false ∧ s.ptpOk port dom = true ∧
      s.gal.delay2 = some d2 ∧ s.tbSt = tbTracking ∧ s.epochNewer = false ∧ (2 * stamp + d2 - 2 * s.rxStamp).natAbs < 100
      * 131072) ∧
    (∃ (s : State) (port : Nat) (dom : Nat) (stamp : Int) (d2 : Int), s.newel = false ∧ s.ptpOk port dom = true ∧
      s.gal.delay2 = some d2 ∧ s.tbSt = tbLocked ∧ s.epochNewer = false ∧ 1000 * 131072 < (2 * stamp + d2 - 2 *
      s.rxStamp).natAbs) :=
  ⟨
    ⟨{ ready with tb0 := 2 ^ 80 - 5, tb1 := 7 * 2 ^ 40, tb2 := 2 ^ 79 + 9 }, by decide +kernel⟩,
    ⟨{ ready with tb0 := 2 ^ 48 - 1 }, by decide +kernel⟩,
    ⟨{ ready.wr R.TB0_RATE 0 with tb0 := 7 }, by decide +kernel⟩,
    ⟨((({ ready with gal := {}, peers := [] } : State).p F.GAL_CFG.ROLE 1).p F.GAL_STAT.LINK0 1).p F.GAL_STAT.ACTIVE 0,
      by decide +kernel⟩,
    ⟨((({ ready with gal := {}, peers := [] } : State).p F.GAL_CFG.ROLE 1).p F.GAL_STAT.LINK0 1).p F.GAL_STAT.ACTIVE 0,
      by decide +kernel⟩,
    ⟨((({ ready with gal := {}, peers := [] } : State).p F.GAL_CFG.ROLE 0).p F.GAL_STAT.LINK0 1).p F.GAL_STAT.ACTIVE 0,
      by decide +kernel⟩,
    ⟨(((({ ready with gal := {}, peers := [] } : State).p F.GAL_CFG.ROLE 1).p F.GAL_STAT.LINK0 1).p F.GAL_STAT.ACTIVE 0).p
      F.PTP_CFG.DOMAIN 9, (0 : Nat), (9 : Nat), by decide +kernel⟩,
    ⟨(((({ ready with gal := {}, peers := [] } : State).p F.GAL_CFG.ROLE 0).p F.GAL_STAT.LINK0 1).p F.GAL_STAT.ACTIVE 0).p
      F.PTP_CFG.DOMAIN 9 |> (fun s => s.modGal (fun x => { x with lastSync := some (5, 9), reqStamp := some 70 })), (0 :
      Nat), (9 : Nat), (5 : Int), (9 : Int), (70 : Int), by decide +kernel⟩,
    ⟨((((({ ready with gal := {}, peers := [] } : State).p F.GAL_CFG.ROLE 0).p F.GAL_STAT.LINK0 1).p F.GAL_STAT.ACTIVE
      0).p F.PTP_CFG.DOMAIN 9).p F.TB0_STAT.STATE 0 |> (fun s =>
      ({ s with peers := [(63, { st := 3, uid := 9, flags := 0x21, epoch := 65535 })] } : State).modGal (fun x =>
      { x with delay2 := some 70, syncs := 7 })), (0 : Nat), (9 : Nat), (70 : Int),
      ({ st := 3, uid := 9, flags := 0x21, epoch := 65535 } : PeerX), by decide +kernel⟩,
    ⟨((((({ ready with gal := {}, peers := [] } : State).p F.GAL_CFG.ROLE 0).p F.GAL_STAT.LINK0 1).p F.GAL_STAT.ACTIVE
      0).p F.PTP_CFG.DOMAIN 9).p F.TB0_STAT.STATE 3 |> (fun s => s.modGal (fun x => { x with delay2 := some 70 })), (0 :
      Nat), (9 : Nat), (70 : Int), by decide +kernel⟩,
    ⟨(({ ready with gal := {}, peers := [] } : State).p F.GAL_CFG.ROLE 0).p F.TB0_STAT.STATE 2, by decide +kernel⟩,
    ⟨(({ ready with gal := {}, peers := [] } : State).p F.GAL_CFG.ROLE 0).p F.TB0_STAT.STATE 3, by decide +kernel⟩,
    ⟨(({ ready with gal := {}, peers := [] } : State).p F.GAL_CFG.ROLE 0), by decide +kernel⟩,
    ⟨(({ ready with gal := {}, peers := [] } : State).p F.GAL_CFG.ROLE 0), by decide +kernel⟩,
    ⟨(({ ready with gal := {}, peers := [] } : State).p F.GAL_CFG.ROLE 1), by decide +kernel⟩,
    ⟨(({ ready with gal := {}, peers := [] } : State).p F.GAL_CFG.ROLE 0), (0 : Nat), (9 : Nat), by decide +kernel⟩,
    ⟨(({ ready with gal := {}, peers := [] } : State).p F.GAL_CFG.ROLE 0), (0 : Nat), (9 : Nat), by decide +kernel⟩,
    ⟨((((({ ready with gal := {}, peers := [] } : State).p F.GAL_CFG.ROLE 0).p F.GAL_STAT.LINK0 1).p F.GAL_STAT.ACTIVE
      0).p F.PTP_CFG.DOMAIN 9).p F.TB0_STAT.STATE 0 |> (fun s =>
      ({ s with peers := [(63, { st := 3, uid := 9, flags := 0x21, epoch := 65535 })] } : State).modGal (fun x =>
      { x with delay2 := some 70, syncs := 6 })), (0 : Nat), (9 : Nat), (70 : Int),
      ({ st := 3, uid := 9, flags := 0x21, epoch := 65535 } : PeerX), by decide +kernel⟩,
    ⟨((((({ ready with gal := {}, peers := [] } : State).p F.GAL_CFG.ROLE 0).p F.GAL_STAT.LINK0 1).p F.GAL_STAT.ACTIVE
      0).p F.PTP_CFG.DOMAIN 9).p F.TB0_STAT.STATE 1 |> (fun s => s.modGal (fun x =>
      { x with delay2 := some 70, run := 15 })), (0 : Nat), (9 : Nat), (((ready.p F.GAL_STAT.ACTIVE 0).rxStamp) : Int),
      (70 : Int), by decide +kernel⟩,
    ⟨((((({ ready with gal := {}, peers := [] } : State).p F.GAL_CFG.ROLE 0).p F.GAL_STAT.LINK0 1).p F.GAL_STAT.ACTIVE
      0).p F.PTP_CFG.DOMAIN 9).p F.TB0_STAT.STATE 2 |> (fun s => s.modGal (fun x =>
      { x with delay2 := some 70, run := 15 })), (0 : Nat), (9 : Nat), (2 ^ 60 : Int), (70 : Int), by decide +kernel⟩⟩

/-- States and operands that meet the hypotheses of TimeCommands, clause by clause. -/
theorem test_meets_time_commands :
    (∃ (s : State) (q : Nat) (r : DescRun), Executes s q 23 false r ∧ dUnit r.desc = 0 ∧ dAddr r.desc = 0 ∧ dLen r.desc =
      0 ∧ dscBits r.desc 30 1 7 = 0 ∧ dsc r.desc 31 1 = 0 ∧ dscZeroFrom r.desc 34 = true ∧ s.newel = true ∧ dsc r.desc 32
      2 = s.g F.TB0_STAT.EPOCH ∧ dscBits r.desc 30 0 1 = 0 ∧ s.tbSt = tbUnset) ∧
    (∃ (s : State) (q : Nat) (r : DescRun), Executes s q 23 false r ∧ dUnit r.desc = 0 ∧ dAddr r.desc = 0 ∧ dLen r.desc =
      0 ∧ dscBits r.desc 30 1 7 = 0 ∧ dsc r.desc 31 1 = 0 ∧ dscZeroFrom r.desc 34 = true ∧ s.newel = true ∧ dsc r.desc 32
      2 = s.g F.TB0_STAT.EPOCH ∧ dscBits r.desc 30 0 1 = 1 ∧ s.notQuiet = 0) ∧
    (∃ (s : State) (q : Nat) (r : DescRun), Executes s q 23 false r ∧ dUnit r.desc = 0 ∧ dAddr r.desc = 0 ∧ dLen r.desc =
      0 ∧ dscBits r.desc 30 1 7 = 0 ∧ dsc r.desc 31 1 = 0 ∧ dscZeroFrom r.desc 34 = true ∧ s.newel = true ∧ dsc r.desc 32
      2 ≠ s.g F.TB0_STAT.EPOCH) ∧
    (∃ (s : State) (q : Nat) (r : DescRun), Executes s q 23 false r ∧ dUnit r.desc = 0 ∧ dAddr r.desc = 0 ∧ dLen r.desc =
      0 ∧ dscBits r.desc 30 1 7 = 0 ∧ dsc r.desc 31 1 = 0 ∧ dscZeroFrom r.desc 34 = true ∧ s.newel = false) ∧
    (∃ (s : State) (q : Nat) (r : DescRun), Executes s q 23 false r ∧ dUnit r.desc = 0 ∧ dAddr r.desc = 0 ∧ dLen r.desc =
      0 ∧ dscBits r.desc 30 1 7 = 0 ∧ dsc r.desc 31 1 = 0 ∧ dscZeroFrom r.desc 34 = true ∧ s.newel = true ∧ dsc r.desc 32
      2 = s.g F.TB0_STAT.EPOCH ∧ dscBits r.desc 30 0 1 = 0 ∧ s.tbSt ≠ tbUnset) ∧
    (∃ (s : State) (q : Nat) (r : DescRun), Executes s q 23 false r ∧ dUnit r.desc = 0 ∧ dAddr r.desc = 0 ∧ dLen r.desc =
      0 ∧ dscBits r.desc 30 1 7 = 0 ∧ dsc r.desc 31 1 = 0 ∧ dscZeroFrom r.desc 34 = true ∧ s.newel = true ∧ dsc r.desc 32
      2 = s.g F.TB0_STAT.EPOCH ∧ dscBits r.desc 30 0 1 = 1 ∧ s.notQuiet ≠ 0) ∧
    (∃ (s : State) (q : Nat) (r : DescRun), Executes s q 24 false r ∧ dUnit r.desc = 0 ∧ dAddr r.desc = 0 ∧ dLen r.desc =
      0 ∧ dscZeroFrom r.desc 24 = true ∧ s.newel = true ∧ (signed 32 (dsc r.desc 20 4)).natAbs ≤ 2147483) ∧
    (∃ (s : State) (q : Nat) (r : DescRun), Executes s q 24 false r ∧ dUnit r.desc = 0 ∧ dAddr r.desc = 0 ∧ dLen r.desc =
      0 ∧ dscZeroFrom r.desc 24 = true ∧ s.newel = true ∧ 2147483 < (signed 32 (dsc r.desc 20 4)).natAbs) ∧
    (∃ (s : State) (q : Nat) (r : DescRun), Executes s q 24 false r ∧ dUnit r.desc = 0 ∧ dAddr r.desc = 0 ∧ dLen r.desc =
      0 ∧ dscZeroFrom r.desc 24 = true ∧ s.newel = false) ∧
    (∃ (s : State) (n : Nat) (v : Word), Ready s ∧ n < 8 ∧ (F.TT_CTL.ARM n).is v = true ∧ (F.TT_CTL.DISARM n).is v = false
      ∧ s.is (F.TT_CTL.ARMED n) = false ∧ ((F.TT_CTL.MODE n).is v = false ∨ s.g (F.TT_WIDTH.WIDTH n) < s.g
      (F.TT_PERIOD.PERIOD n)) ∧ s.tb0 ≤ s.ttTarget n * 65536) ∧
    (∃ (s : State) (n : Nat) (v : Word), Ready s ∧ n < 8 ∧ (F.TT_CTL.ARM n).is v = true ∧ (F.TT_CTL.DISARM n).is v = false
      ∧ s.is (F.TT_CTL.ARMED n) = false ∧ (F.TT_CTL.MODE n).is v = false ∧ s.ttTarget n * 65536 < s.tb0) ∧
    (∃ (s : State) (n : Nat) (v : Word), Ready s ∧ n < 8 ∧ (F.TT_CTL.ARM n).is v = true ∧ (F.TT_CTL.DISARM n).is v = false
      ∧ s.is (F.TT_CTL.ARMED n) = false ∧ (F.TT_CTL.MODE n).is v = true ∧ s.g (F.TT_WIDTH.WIDTH n) < s.g
      (F.TT_PERIOD.PERIOD n) ∧ s.ttTarget n * 65536 < s.tb0) ∧
    (∃ (s : State) (n : Nat) (v : Word), Ready s ∧ n < 8 ∧ (F.TT_CTL.ARM n).is v = true ∧ (F.TT_CTL.DISARM n).is v = false
      ∧ s.is (F.TT_CTL.ARMED n) = false ∧ (F.TT_CTL.MODE n).is v = true ∧ s.g (F.TT_PERIOD.PERIOD n) ≤ s.g
      (F.TT_WIDTH.WIDTH n)) ∧
    (∃ (s : State) (n : Nat) (v : Word), Ready s ∧ n < 8 ∧ (F.TT_CTL.ARM n).is v = true ∧ (F.TT_CTL.DISARM n).is v = false
      ∧ s.is (F.TT_CTL.ARMED n) = true) ∧
    (∃ (s : State) (n : Nat) (v : Word), Ready s ∧ n < 8 ∧ (F.TT_CTL.DISARM n).is v = true ∧ s.is (F.TT_CTL.ARMED n) =
      true) ∧
    (∃ (s : State) (n : Nat), n < 8 ∧ s.is (F.TT_CTL.ARMED n) = true ∧ s.ttDue n = true) ∧
    (∃ (s : State) (n : Nat), s.ttDue n = false) ∧
    (∃ (s : State) (n : Nat), n < 8 ∧ (s.tt n).pin = true ∧ (s.tt n).fall ≤ s.tb1) ∧
    (∃ (s : State) (n : Nat), s.tb1 < (s.tt n).fall) ∧
    (∃ (s : State), s.is F.REF_STAT.REF_PRESENT = true) ∧
    (∃ (s : State), s.is F.REF_STAT.REF_PRESENT = false) ∧
    (∃ (s : State), s.is F.REF_STAT.REF_PRESENT = true) ∧
    (∃ (s : State), s.is F.REF_STAT.REF_PRESENT = false) :=
  ⟨
    ⟨run_ (((({ ready with gal := {}, peers := [] } : State).p F.GAL_CFG.ROLE 1).p F.TB0_STAT.EPOCH 5).p F.TB0_STAT.STATE
      0) 9 false (dk [(0, 16, 23), (160, 64, 0x123456789ABCDEF), (224, 16, 0x8001), (240, 1, 0), (256, 16, 5)]), (9 :
      Nat), (⟨5, 7, dk [(0, 16, 23), (160, 64, 0x123456789ABCDEF), (224, 16, 0x8001), (240, 1, 0), (256, 16, 5)], false,
      0, 0⟩ : DescRun), by decide +kernel⟩,
    ⟨run_ ((((({ ready with gal := {}, peers := [] } : State).p F.GAL_CFG.ROLE 1)).p F.TB0_STAT.EPOCH 5).p
      F.TB0_STAT.STATE 2) 9 false (dk [(0, 16, 23), (160, 64, 0x123456789ABCDEF), (224, 16, 0x8001), (240, 1, 1), (256,
      16, 5)]), (9 : Nat), (⟨5, 7, dk [(0, 16, 23), (160, 64, 0x123456789ABCDEF), (224, 16, 0x8001), (240, 1, 1), (256,
      16, 5)], false, 0, 0⟩ : DescRun), by decide +kernel⟩,
    ⟨run_ ((({ ready with gal := {}, peers := [] } : State).p F.GAL_CFG.ROLE 1).p F.TB0_STAT.EPOCH 6) 9 false (dk [(0, 16,
      23), (160, 64, 0x123456789ABCDEF), (224, 16, 0x8001), (240, 1, 1), (256, 16, 5)]), (9 : Nat), (⟨5, 7, dk [(0, 16,
      23), (160, 64, 0x123456789ABCDEF), (224, 16, 0x8001), (240, 1, 1), (256, 16, 5)], false, 0, 0⟩ : DescRun),
      by decide +kernel⟩,
    ⟨run_ ((({ ready with gal := {}, peers := [] } : State).p F.GAL_CFG.ROLE 0)) 9 false (dk [(0, 16, 23), (160, 64,
      0x123456789ABCDEF), (224, 16, 0x8001), (240, 1, 1), (256, 16, 5)]), (9 : Nat), (⟨5, 7, dk [(0, 16, 23), (160, 64,
      0x123456789ABCDEF), (224, 16, 0x8001), (240, 1, 1), (256, 16, 5)], false, 0, 0⟩ : DescRun), by decide +kernel⟩,
    ⟨run_ (((({ ready with gal := {}, peers := [] } : State).p F.GAL_CFG.ROLE 1).p F.TB0_STAT.EPOCH 5).p F.TB0_STAT.STATE
      2) 9 false (dk [(0, 16, 23), (160, 64, 0x123456789ABCDEF), (224, 16, 0x8001), (240, 1, 0), (256, 16, 5)]), (9 :
      Nat), (⟨5, 7, dk [(0, 16, 23), (160, 64, 0x123456789ABCDEF), (224, 16, 0x8001), (240, 1, 0), (256, 16, 5)], false,
      0, 0⟩ : DescRun), by decide +kernel⟩,
    ⟨run_ (((({ ready with gal := {}, peers := [] } : State).p F.GAL_CFG.ROLE 1).p F.TB0_STAT.EPOCH 5).p (F.TT_CTL.ARMED
      7) 1) 9 false (dk [(0, 16, 23), (160, 64, 0x123456789ABCDEF), (224, 16, 0x8001), (240, 1, 1), (256, 16, 5)]), (9 :
      Nat), (⟨5, 7, dk [(0, 16, 23), (160, 64, 0x123456789ABCDEF), (224, 16, 0x8001), (240, 1, 1), (256, 16, 5)], false,
      0, 0⟩ : DescRun), by decide +kernel⟩,
    ⟨run_ ((({ ready with gal := {}, peers := [] } : State).p F.GAL_CFG.ROLE 1)) 9 false (dk [(0, 16, 24), (160, 32,
      0xFFDF3B65)]), (9 : Nat), (⟨5, 7, dk [(0, 16, 24), (160, 32, 0xFFDF3B65)], false, 0, 0⟩ : DescRun),
      by decide +kernel⟩,
    ⟨run_ ((({ ready with gal := {}, peers := [] } : State).p F.GAL_CFG.ROLE 1)) 9 false (dk [(0, 16, 24), (160, 32,
      0xFFDF3B64)]), (9 : Nat), (⟨5, 7, dk [(0, 16, 24), (160, 32, 0xFFDF3B64)], false, 0, 0⟩ : DescRun),
      by decide +kernel⟩,
    ⟨run_ ((({ ready with gal := {}, peers := [] } : State).p F.GAL_CFG.ROLE 0)) 9 false (dk [(0, 16, 24), (160, 32,
      0xFFDF3B65)]), (9 : Nat), (⟨5, 7, dk [(0, 16, 24), (160, 32, 0xFFDF3B65)], false, 0, 0⟩ : DescRun),
      by decide +kernel⟩,
    ⟨({ ready.p (F.TT_CTL.ARMED 7) 0 with tb0 := 9 * 65536 } : State).wr (R.TT_AT_LO 7) 9, (7 : Nat), (BitVec.ofNat 32 (2
      ^ (F.TT_CTL.ARM 0).lo) : Word), by decide +kernel⟩,
    ⟨({ ready.p (F.TT_CTL.ARMED 7) 0 with tb0 := 2 ^ 80 - 1 } : State).wr (R.TT_AT_LO 7) 9, (7 : Nat), (BitVec.ofNat 32 (2
      ^ (F.TT_CTL.ARM 0).lo) : Word), by decide +kernel⟩,
    ⟨(((({ ready.p (F.TT_CTL.ARMED 7) 0 with tb0 := 2 ^ 80 - 1 } : State)).wr (R.TT_AT_LO 7) 9).p (F.TT_PERIOD.PERIOD 7)
      9).p (F.TT_WIDTH.WIDTH 7) 8, (7 : Nat), (BitVec.ofNat 32 (2 ^ (F.TT_CTL.ARM 0).lo + 2 ^ (F.TT_CTL.MODE 0).lo) :
      Word), by decide +kernel⟩,
    ⟨(((ready.p (F.TT_CTL.ARMED 7) 0).wr (R.TT_AT_LO 7) 9).p (F.TT_PERIOD.PERIOD 7) 9).p (F.TT_WIDTH.WIDTH 7) 9, (7 :
      Nat), (BitVec.ofNat 32 (2 ^ (F.TT_CTL.ARM 0).lo + 2 ^ (F.TT_CTL.MODE 0).lo) : Word), by decide +kernel⟩,
    ⟨ready.p (F.TT_CTL.ARMED 7) 1, (7 : Nat), (BitVec.ofNat 32 (2 ^ (F.TT_CTL.ARM 0).lo) : Word), by decide +kernel⟩,
    ⟨ready.p (F.TT_CTL.ARMED 7) 1, (7 : Nat), (0xFFFFFFFF#32 : Word), by decide +kernel⟩,
    ⟨{ (ready.p (F.TT_CTL.ARMED 7) 1).p (F.TT_CTL.MODE 7) 1 with tb0 := 9 * 65536 } |>.setTt 7 { next := 9 }, (7 : Nat),
      by decide +kernel⟩,
    ⟨{ (ready.p (F.TT_CTL.ARMED 7) 1).p (F.TT_CTL.MODE 7) 1 with tb0 := 9 * 65536 } |>.setTt 7 { next := 2 ^ 40 }, (7 :
      Nat), by decide +kernel⟩,
    ⟨{ ready with tb1 := 6 } |>.setTt 7 { next := 5, pin := true, fall := 6 }, (7 : Nat), by decide +kernel⟩,
    ⟨{ ready with tb1 := 6 } |>.setTt 7 { next := 5, pin := true, fall := 7 }, (7 : Nat), by decide +kernel⟩,
    ⟨((ready.p F.REF_STAT.REF_PRESENT 1).p (F.AXIS_STAT.STATE 31) 2).p (F.AXIS_CTL.SRC 31) 0, by decide +kernel⟩,
    ⟨ready.p F.REF_STAT.REF_PRESENT 0, by decide +kernel⟩,
    ⟨ready.p F.REF_STAT.REF_PRESENT 1, by decide +kernel⟩,
    ⟨ready.p F.REF_STAT.REF_PRESENT 0, by decide +kernel⟩⟩

/-- States and operands that meet the hypotheses of FaultCollector, clause by clause. -/
theorem test_meets_fault_collector :
    (∃ (s : State) (x : FltIn) (rest : List FltIn), s.boot.vaux = true ∧ s.flt.input = x :: rest ∧ x.src < 381 ∧ s.g
      (F.FLT_CFG.CLASS x.src) = 0 ∧ s.g (F.FLT_CFG.N x.src) = 0 ∧ s.flt.log.length < 64 ∧ s.g (F.FLT_SRC_STAT.COUNT x.src)
      < 2 ^ (F.FLT_SRC_STAT.COUNT x.src).len - 1) ∧
    (∃ (s : State) (x : FltIn) (rest : List FltIn), s.boot.vaux = true ∧ s.flt.input = x :: rest ∧ x.src < 381 ∧ s.g
      (F.FLT_CFG.CLASS x.src) = 0 ∧ s.g (F.FLT_CFG.N x.src) = 0 ∧ 64 ≤ s.flt.log.length ∧ s.g F.FLT_GRAVE_SRC.LOST < 2 ^
      (F.FLT_GRAVE_SRC.LOST).len - 1) ∧
    (∃ (s : State) (i : Nat), s.boot.vaux = true ∧ srcInternal i = true ∧ sourceOk s.part i = true ∧ s.srcMasked i = false
      ∧ s.g (F.FLT_CFG.CLASS i) = 0 ∧ s.g (F.FLT_CFG.N i) = 0 ∧ s.flt.log.length < 64) ∧
    (∃ (s : State) (i : Nat), (srcInternal i = false ∨ s.srcMasked i = true)) ∧
    (∃ (s : State), s.flt.input = []) ∧
    (∃ (s : State) (x : FltIn) (rest : List FltIn), s.boot.vaux = true ∧ s.flt.input = x :: rest ∧ x.src < 381 ∧ s.g
      (F.FLT_CFG.CLASS x.src) = 1 ∧ s.g (F.FLT_CFG.N x.src) = 0 ∧ s.flt.log.length < 64) ∧
    (∃ (s : State) (a : Nat) (x : FltIn) (rest : List FltIn), s.boot.vaux = true ∧ s.flt.input = x :: rest ∧ x.src < 381 ∧
      s.g (F.FLT_CFG.CLASS x.src) = 1 ∧ s.g (F.FLT_CFG.N x.src) = 0 ∧ x.alcs = [a] ∧ a / 96 < s.part.halls ∧ (s.alcSt (a /
      96) (a % 96) = alcReady ∨ s.alcSt (a / 96) (a % 96) = alcParked)) ∧
    (∃ (s : State) (x : FltIn) (rest : List FltIn), s.boot.vaux = true ∧ s.flt.input = x :: rest ∧ x.src < 381 ∧ s.g
      (F.FLT_CFG.CLASS x.src) < 3 ∧ s.g (F.FLT_CFG.N x.src) ≠ 0 ∧ s.g (F.FLT_CFG.N x.src) ≤ (s.fltWindow x.src).length ∧
      s.flt.log.length < 64) ∧
    (∃ (s : State) (u : Nat) (x : FltIn) (rest : List FltIn), s.boot.vaux = true ∧ s.flt.input = x :: rest ∧ x.src < 381 ∧
      s.g (F.FLT_CFG.CLASS x.src) = 2 ∧ s.g (F.FLT_CFG.N x.src) = 0 ∧ (u, false) ∈ srcUnits s.part x.src ∧ unitPresent
      s.part u = true ∧ s.inTest u = false) ∧
    (∃ (s : State) (u : Nat) (x : FltIn) (rest : List FltIn), s.boot.vaux = true ∧ s.flt.input = x :: rest ∧ x.src < 381 ∧
      s.g (F.FLT_CFG.CLASS x.src) = 3 ∧ u < 53 ∧ unitPresent s.part u = true) ∧
    (∃ (s : State) (src : Nat), s.boot.vaux = true ∧ src < 381 ∧ sourceOk s.part src = true ∧ s.srcMasked src = false ∧
      s.flt.wires.any (fun w => w.1 == src) = false) ∧
    (∃ (s : State) (src : Nat), (s.srcMasked src = true ∨ s.flt.wires.any (fun w => w.1 == src) = true)) ∧
    (∃ (s : State) (src : Nat) (p : Bool), src < 381 ∧ s.flt.wires.find? (fun w => w.1 == src) = some (src, p)) ∧
    (∃ (s : State) (src : Nat), s.flt.wires.find? (fun w => w.1 == src) = none) ∧
    (∃ (s : State) (src : Nat) (v : Word), Ready s ∧ src < 512 ∧ 1 ≤ (F.FLT_CFG.W src).of v ∧ (F.FLT_CFG.W src).of v ≤
      60000 ∧ (srcFixed src = false ∨ (F.FLT_CFG.CLASS src).of v = s.g (F.FLT_CFG.CLASS src))) ∧
    (∃ (s : State) (src : Nat) (v : Word), Ready s ∧ src < 512 ∧ ((F.FLT_CFG.W src).of v = 0 ∨ 60000 < (F.FLT_CFG.W
      src).of v ∨ (srcFixed src = true ∧ (F.FLT_CFG.CLASS src).of v ≠ s.g (F.FLT_CFG.CLASS src)))) ∧
    (∃ (s : State) (e : FltLog) (rest : List FltLog), Ready s ∧ s.flt.log = e :: rest ∧ e.src < 512 ∧ e.cls < 4 ∧
      rest.length < 64) ∧
    (∃ (s : State), Ready s ∧ s.flt.log = []) :=
  ⟨
    ⟨((({ ({ ready with boot := { ready.boot with vaux := true }, flt := {}, cal := {} } : State) with flt := { input :=
                                                                                                                  [⟨320,
                                                                                                                  77,
                                                                                                                  false,
                                                                                                                  []⟩, ⟨4,
                                                                                                                  0,
                                                                                                                  false,
                                                                                                                  []⟩] } }
      : State).wr (R.FLT_CFG 320) 0 |> (fun s => ((s.p (F.FLT_CFG.CLASS 320) 0).p (F.FLT_CFG.N 320) 0).p (F.FLT_CFG.W 320)
      1)) : State).wr (R.FLT_SRC_STAT 320) 0, (⟨320, 77, false, []⟩ : FltIn), ([⟨4, 0, false, []⟩] : List FltIn),
      by decide +kernel⟩,
    ⟨((({ ({ ready with boot := { ready.boot with vaux := true }, flt := {}, cal := {} } : State) with flt := { input :=
                                                                                                                  [⟨320,
                                                                                                                  77,
                                                                                                                  false,
                                                                                                                  []⟩],
                                                                                                                  log :=
                                                                                                                  List.replicate
                                                                                                                  64 ⟨0,
                                                                                                                  false,
                                                                                                                  false,
                                                                                                                  3, 0, 0,
                                                                                                                  1⟩ } } :
      State).wr (R.FLT_CFG 320) 0 |> (fun s => ((s.p (F.FLT_CFG.CLASS 320) 0).p (F.FLT_CFG.N 320) 0).p (F.FLT_CFG.W 320)
      1)) : State).wr R.FLT_GRAVE_SRC 0, (⟨320, 77, false, []⟩ : FltIn), ([] : List FltIn), by decide +kernel⟩,
    ⟨{ ((({ ready with boot := { ready.boot with vaux := true }, flt := {}, cal := {} } : State)).wr (R.FLT_CFG 368) 0)
         with regs := [] } |>.wr (R.FLT_CFG 368) 0 |>.p F.BOOT_STAGE.STAGE 8, (368 : Nat), by decide +kernel⟩,
    ⟨({ ready with boot := { ready.boot with vaux := true }, flt := {}, cal := {} } : State), (369 : Nat),
      by decide +kernel⟩,
    ⟨({ ready with boot := { ready.boot with vaux := true }, flt := {}, cal := {} } : State), by decide +kernel⟩,
    ⟨((({ ({ ready with boot := { ready.boot with vaux := true }, flt := {}, cal := {} } : State) with flt := { input :=
                                                                                                                  [⟨250,
                                                                                                                  77,
                                                                                                                  false,
                                                                                                                  []⟩] } }
      : State).wr (R.FLT_CFG 250) 0 |> (fun s => ((s.p (F.FLT_CFG.CLASS 250) 1).p (F.FLT_CFG.N 250) 0).p (F.FLT_CFG.W 250)
      1)) : State).p F.FLT_CTL.IRQ_MINOR 1, (⟨250, 77, false, []⟩ : FltIn), ([] : List FltIn), by decide +kernel⟩,
    ⟨((({ ({ ready with boot := { ready.boot with vaux := true }, flt := {}, cal := {} } : State) with flt := { input :=
                                                                                                                  [⟨250,
                                                                                                                  77,
                                                                                                                  false,
                                                                                                                  [3066]⟩]
                                                                                                                  } } :
      State).wr (R.FLT_CFG 250) 0 |> (fun s => ((s.p (F.FLT_CFG.CLASS 250) 1).p (F.FLT_CFG.N 250) 0).p (F.FLT_CFG.W 250)
      1)) : State).p (F.ALC_STATE.STATE 31 90) 5, (3066 : Nat), (⟨250, 77, false, [3066]⟩ : FltIn), ([] : List FltIn),
      by decide +kernel⟩,
    ⟨(({ ({ ready with boot := { ready.boot with vaux := true }, flt := {}, cal := {} } : State) with cyc := 900, flt := {
                                                                                                        input := [⟨250,
                                                                                                          77, false, []⟩],
                                                                                                          arrivals :=
                                                                                                          [(250, [899])] }
                                                                                                        } : State).wr
      (R.FLT_CFG 250) 0 |> (fun s => ((s.p (F.FLT_CFG.CLASS 250) 0).p (F.FLT_CFG.N 250) 2).p (F.FLT_CFG.W 250) 1)), (⟨250,
      77, false, []⟩ : FltIn), ([] : List FltIn), by decide +kernel⟩,
    ⟨(({ ({ ready with boot := { ready.boot with vaux := true }, flt := {}, cal := {} } : State) with flt := { input :=
                                                                                                                 [⟨250,
                                                                                                                 77,
                                                                                                                 false,
                                                                                                                 []⟩] } }
      : State).wr (R.FLT_CFG 250) 0 |> (fun s => ((s.p (F.FLT_CFG.CLASS 250) 2).p (F.FLT_CFG.N 250) 0).p (F.FLT_CFG.W 250)
      1)), (31 : Nat), (⟨250, 77, false, []⟩ : FltIn), ([] : List FltIn), by decide +kernel⟩,
    ⟨(({ ({ ready with boot := { ready.boot with vaux := true }, flt := {}, cal := {} } : State) with flt := { input :=
                                                                                                                 [⟨371,
                                                                                                                 77,
                                                                                                                 false,
                                                                                                                 []⟩] } }
      : State).wr (R.FLT_CFG 371) 0 |> (fun s => ((s.p (F.FLT_CFG.CLASS 371) 3).p (F.FLT_CFG.N 371) 0).p (F.FLT_CFG.W 371)
      1)), (52 : Nat), (⟨371, 77, false, []⟩ : FltIn), ([] : List FltIn), by decide +kernel⟩,
    ⟨({ ready with boot := { ready.boot with vaux := true }, flt := {}, cal := {} } : State), (320 : Nat),
      by decide +kernel⟩,
    ⟨{ ({ ready with boot := { ready.boot with vaux := true }, flt := {}, cal := {} } : State) with flt := { wires :=
                                                                                                               [(320,
                                                                                                               false)] }
                                                                                                      }, (320 : Nat),
      by decide +kernel⟩,
    ⟨{ ({ ready with boot := { ready.boot with vaux := true }, flt := {}, cal := {} } : State) with flt := { wires :=
                                                                                                               [(320,
                                                                                                               false)] }
                                                                                                      }, (320 : Nat),
      (false : Bool), by decide +kernel⟩,
    ⟨({ ready with boot := { ready.boot with vaux := true }, flt := {}, cal := {} } : State), (320 : Nat),
      by decide +kernel⟩,
    ⟨({ ready with boot := { ready.boot with vaux := true }, flt := {}, cal := {} } : State), (381 : Nat), (fieldPut
      (F.FLT_CFG.CLASS 0).lo 2 (ready.g (F.FLT_CFG.CLASS 381)) (fieldPut (F.FLT_CFG.W 0).lo 16 60000 0xFFFFFFFF#32) :
      Word), by decide +kernel⟩,
    ⟨ready, (381 : Nat), (0xFFFFFFFF#32 : Word), by decide +kernel⟩,
    ⟨{ ready with flt := { log := [⟨3, true, true, 381, 9, 8, 7⟩] } }, (⟨3, true, true, 381, 9, 8, 7⟩ : FltLog), ([] :
      List FltLog), by decide +kernel⟩,
    ⟨({ ready with boot := { ready.boot with vaux := true }, flt := {}, cal := {} } : State), by decide +kernel⟩⟩

/-- States and operands that meet the hypotheses of UnitFencesAndAdmission, clause by clause. -/
theorem test_meets_unit_fences_and_admission :
    (∃ (s : State) (q : Nat) (r : DescRun), Executes s q 21 false r ∧ dscBits r.desc 20 1 7 = 0 ∧ dscZeroFrom r.desc 21 =
      true ∧ dAddr r.desc = 0 ∧ dLen r.desc = 0 ∧ dUnit r.desc < 53 ∧ unitPresent s.part (dUnit r.desc) = true ∧ r.owns
      (dUnit r.desc) = true ∧ dscBits r.desc 20 0 1 = 0 ∧ s.g (F.UNIT_STATE.STATE (dUnit r.desc)) = 0 ∧ s.admitOf (dUnit
      r.desc) false = none ∧ s.inTest (dUnit r.desc) = false ∧ r.did ∉ s.unitDids) ∧
    (∃ (s : State) (q : Nat) (r : DescRun), Executes s q 21 false r ∧ dscBits r.desc 20 1 7 = 0 ∧ dscZeroFrom r.desc 21 =
      true ∧ dAddr r.desc = 0 ∧ dLen r.desc = 0 ∧ dUnit r.desc < 53 ∧ unitPresent s.part (dUnit r.desc) = true ∧ r.owns
      (dUnit r.desc) = true ∧ dscBits r.desc 20 0 1 = 1 ∧ dUnit r.desc < 32 ∧ s.g (F.UNIT_STATE.STATE (dUnit r.desc)) = 0
      ∧ s.is (F.UNIT_STATE.HSE_FENCED (dUnit r.desc)) = false ∧ s.admitOf (dUnit r.desc) true = none ∧ r.did ∉ s.unitDids) ∧
    (∃ (s : State) (q : Nat) (r : DescRun), Executes s q 21 false r ∧ dscBits r.desc 20 1 7 = 0 ∧ dscZeroFrom r.desc 21 =
      true ∧ dAddr r.desc = 0 ∧ dLen r.desc = 0 ∧ dUnit r.desc < 53 ∧ unitPresent s.part (dUnit r.desc) = true ∧ r.owns
      (dUnit r.desc) = true ∧ s.g (F.UNIT_STATE.STATE (dUnit r.desc)) = 1 ∧ s.admitOf (dUnit r.desc) (decide (dscBits
      r.desc 20 0 1 = 1)) = none ∧ (dscBits r.desc 20 0 1 = 0 ∨ dUnit r.desc < 32)) ∧
    (∃ (s : State) (q : Nat) (r : DescRun), Executes s q 21 false r ∧ dscBits r.desc 20 1 7 = 0 ∧ dscZeroFrom r.desc 21 =
      true ∧ dAddr r.desc = 0 ∧ dLen r.desc = 0 ∧ dUnit r.desc < 53 ∧ unitPresent s.part (dUnit r.desc) = true ∧ r.owns
      (dUnit r.desc) = true ∧ (dscBits r.desc 20 0 1 = 0 ∨ dUnit r.desc < 32) ∧ s.g (F.UNIT_STATE.STATE (dUnit r.desc)) =
      2) ∧
    (∃ (s : State) (q : Nat) (r : DescRun), Executes s q 22 false r ∧ dscBits r.desc 20 1 7 = 0 ∧ dscZeroFrom r.desc 21 =
      true ∧ dAddr r.desc = 0 ∧ dLen r.desc = 0 ∧ dUnit r.desc < 53 ∧ unitPresent s.part (dUnit r.desc) = true ∧ r.owns
      (dUnit r.desc) = true ∧ (dscBits r.desc 20 0 1 = 0 ∨ dUnit r.desc < 32) ∧ s.g (F.UNIT_STATE.STATE (dUnit r.desc)) =
      2) ∧
    (∃ (s : State) (q : Nat) (r : DescRun), Executes s q 22 false r ∧ dscBits r.desc 20 1 7 = 0 ∧ dscZeroFrom r.desc 21 =
      true ∧ dAddr r.desc = 0 ∧ dLen r.desc = 0 ∧ dUnit r.desc < 53 ∧ unitPresent s.part (dUnit r.desc) = true ∧ r.owns
      (dUnit r.desc) = true ∧ dscBits r.desc 20 0 1 = 0 ∧ s.g (F.UNIT_STATE.STATE (dUnit r.desc)) = 1 ∧ s.admitOf (dUnit
      r.desc) false = none ∧ s.is F.FLT_STATUS.GRAVE = false ∧ s.holding (dUnit r.desc) false = none) ∧
    (∃ (s : State) (q : Nat) (r : DescRun), Executes s q 22 false r ∧ dscBits r.desc 20 1 7 = 0 ∧ dscZeroFrom r.desc 21 =
      true ∧ dAddr r.desc = 0 ∧ dLen r.desc = 0 ∧ dUnit r.desc < 53 ∧ unitPresent s.part (dUnit r.desc) = true ∧ r.owns
      (dUnit r.desc) = true ∧ dscBits r.desc 20 0 1 = 1 ∧ dUnit r.desc < 32 ∧ s.g (F.UNIT_STATE.STATE (dUnit r.desc)) ≠ 2
      ∧ s.is (F.UNIT_STATE.HSE_FENCED (dUnit r.desc)) = true ∧ s.admitOf (dUnit r.desc) true = none ∧ s.is
      F.FLT_STATUS.GRAVE = false ∧ s.holding (dUnit r.desc) true = none) ∧
    (∃ (s : State) (q : Nat) (i : Nat) (r : DescRun), Executes s q 22 false r ∧ dscBits r.desc 20 1 7 = 0 ∧ dscZeroFrom
      r.desc 21 = true ∧ dAddr r.desc = 0 ∧ dLen r.desc = 0 ∧ dUnit r.desc < 53 ∧ unitPresent s.part (dUnit r.desc) = true
      ∧ r.owns (dUnit r.desc) = true ∧ dscBits r.desc 20 0 1 = 0 ∧ s.g (F.UNIT_STATE.STATE (dUnit r.desc)) = 1 ∧ s.admitOf
      (dUnit r.desc) false = none ∧ s.is F.FLT_STATUS.GRAVE = false ∧ s.holding (dUnit r.desc) false = some i) ∧
    (∃ (s : State) (q : Nat) (r : DescRun), Executes s q 22 false r ∧ dscBits r.desc 20 1 7 = 0 ∧ dscZeroFrom r.desc 21 =
      true ∧ dAddr r.desc = 0 ∧ dLen r.desc = 0 ∧ dUnit r.desc < 53 ∧ unitPresent s.part (dUnit r.desc) = true ∧ r.owns
      (dUnit r.desc) = true ∧ dscBits r.desc 20 0 1 = 0 ∧ s.g (F.UNIT_STATE.STATE (dUnit r.desc)) = 1 ∧ s.admitOf (dUnit
      r.desc) false = none ∧ s.is F.FLT_STATUS.GRAVE = true) ∧
    (∃ (s : State) (q : Nat) (r : DescRun), Executes s q 22 false r ∧ dscBits r.desc 20 1 7 = 0 ∧ dscZeroFrom r.desc 21 =
      true ∧ dAddr r.desc = 0 ∧ dLen r.desc = 0 ∧ dUnit r.desc < 53 ∧ unitPresent s.part (dUnit r.desc) = true ∧ r.owns
      (dUnit r.desc) = true ∧ (dscBits r.desc 20 0 1 = 0 ∨ dUnit r.desc < 32) ∧ s.g (F.UNIT_STATE.STATE (dUnit r.desc)) =
      0 ∧ s.admitOf (dUnit r.desc) (decide (dscBits r.desc 20 0 1 = 1)) = none ∧ (dscBits r.desc 20 0 1 = 1 → s.is
      (F.UNIT_STATE.HSE_FENCED (dUnit r.desc)) = false)) ∧
    (∃ (s : State) (u : Nat) (q : Nat) (us : Nat) (a : AdmitX) (r : DescRun), u < 53 ∧ s.admitOf u false = some a ∧ us ≤
      2500 ∧ s.queueOf a.did = some q ∧ (s.queue q).run = some r ∧ a.unit = u) ∧
    (∃ (s : State) (u : Nat) (q : Nat) (us : Nat) (a : AdmitX) (r : DescRun), u < 53 ∧ s.admitOf u false = some a ∧ us ≤
      2500 ∧ s.queueOf a.did = some q ∧ (s.queue q).run = some r ∧ a.unit = u) ∧
    (∃ (s : State) (u : Nat) (q : Nat) (us : Nat) (a : AdmitX) (r : DescRun), u < 32 ∧ s.admitOf u true = some a ∧ us ≤
      2500 ∧ s.queueOf a.did = some q ∧ (s.queue q).run = some r ∧ a.unit = u) ∧
    (∃ (s : State) (u : Nat) (sub : Bool), s.admitOf u sub = none) ∧
    (∃ (s : State) (v : Word), Ready s ∧ F.FLT_CTL.RELEASE_SAFE.is v = true ∧ s.g F.BOOT_STAGE.STAGE = 8 ∧ s.is
      F.FLT_STATUS.GRAVE = false ∧ (F.FLT_CTL.BANIN_EN.is v = false ∨ s.is F.FLT_STATUS.BANIN_SAFE = true)) ∧
    (∃ (s : State) (v : Word), Ready s ∧ F.FLT_CTL.RELEASE_SAFE.is v = true ∧ (¬(s.g F.BOOT_STAGE.STAGE = 8 ∧ s.is
      F.FLT_STATUS.GRAVE = false ∧ (F.FLT_CTL.BANIN_EN.is v = false ∨ s.is F.FLT_STATUS.BANIN_SAFE = true)))) ∧
    (∃ (s : State), s.is F.FLT_CTL.BANIN_EN = true) ∧
    (∃ (s : State), s.is F.FLT_CTL.BANIN_EN = false) :=
  ⟨
    ⟨run_ (((({ ready with boot := { ready.boot with vaux := true }, flt := {}, cal := {} } : State).p (F.UNIT_STATE.STATE
      52) 0).p F.FLT_STATUS.GRAVE 0 |> (fun s => ({ s with queues := [], admits := [], stopRuns := [], rs := {} } :
      State).p (F.FLT_SRC_STAT.PRESENT 368) 0))) 9 false (dk [(0, 16, 21), (24, 8, 52), (160, 1, 0)]), (9 : Nat), (⟨5, 7,
      dk [(0, 16, 21), (24, 8, 52), (160, 1, 0)], false, 0, 0⟩ : DescRun), by decide +kernel⟩,
    ⟨run_ (((({ ready with queues := [], admits := [], stopRuns := [], hses := [], cal := {} }) : State).p
      (F.UNIT_STATE.STATE 31) 0).p (F.UNIT_STATE.HSE_FENCED 31) 0) 9 false (dk [(0, 16, 21), (24, 8, 31), (160, 1, 1)]),
      (9 : Nat), (⟨5, 7, dk [(0, 16, 21), (24, 8, 31), (160, 1, 1)], false, 0, 0⟩ : DescRun), by decide +kernel⟩,
    ⟨run_ (((({ ready with boot := { ready.boot with vaux := true }, flt := {}, cal := {} } : State).p (F.UNIT_STATE.STATE
      52) 1).p F.FLT_STATUS.GRAVE 0 |> (fun s => ({ s with queues := [], admits := [], stopRuns := [], rs := {} } :
      State).p (F.FLT_SRC_STAT.PRESENT 368) 0))) 9 false (dk [(0, 16, 21), (24, 8, 52), (160, 1, 0)]), (9 : Nat), (⟨5, 7,
      dk [(0, 16, 21), (24, 8, 52), (160, 1, 0)], false, 0, 0⟩ : DescRun), by decide +kernel⟩,
    ⟨run_ (((({ ready with boot := { ready.boot with vaux := true }, flt := {}, cal := {} } : State).p (F.UNIT_STATE.STATE
      52) 2).p F.FLT_STATUS.GRAVE 0 |> (fun s => ({ s with queues := [], admits := [], stopRuns := [], rs := {} } :
      State).p (F.FLT_SRC_STAT.PRESENT 368) 0))) 9 false (dk [(0, 16, 21), (24, 8, 52), (160, 1, 0)]), (9 : Nat), (⟨5, 7,
      dk [(0, 16, 21), (24, 8, 52), (160, 1, 0)], false, 0, 0⟩ : DescRun), by decide +kernel⟩,
    ⟨run_ (((({ ready with boot := { ready.boot with vaux := true }, flt := {}, cal := {} } : State).p (F.UNIT_STATE.STATE
      52) 2).p F.FLT_STATUS.GRAVE 0 |> (fun s => ({ s with queues := [], admits := [], stopRuns := [], rs := {} } :
      State).p (F.FLT_SRC_STAT.PRESENT 368) 0))) 9 false (dk [(0, 16, 22), (24, 8, 52), (160, 1, 0)]), (9 : Nat), (⟨5, 7,
      dk [(0, 16, 22), (24, 8, 52), (160, 1, 0)], false, 0, 0⟩ : DescRun), by decide +kernel⟩,
    ⟨run_ (((({ ready with boot := { ready.boot with vaux := true }, flt := {}, cal := {} } : State).p (F.UNIT_STATE.STATE
      52) 1).p F.FLT_STATUS.GRAVE 0 |> (fun s => ({ s with queues := [], admits := [], stopRuns := [], rs := {} } :
      State).p (F.FLT_SRC_STAT.PRESENT 368) 0))) 9 false (dk [(0, 16, 22), (24, 8, 52), (160, 1, 0)]), (9 : Nat), (⟨5, 7,
      dk [(0, 16, 22), (24, 8, 52), (160, 1, 0)], false, 0, 0⟩ : DescRun), by decide +kernel⟩,
    ⟨run_ ((((((({ ready with queues := [], admits := [], stopRuns := [], hses := [], cal := {} }) : State).p
      (F.UNIT_STATE.STATE 31) 0).p (F.UNIT_STATE.HSE_FENCED 31) 1).p F.FLT_STATUS.GRAVE 0).p (F.FLT_SRC_STAT.PRESENT 253)
      0).p (F.FLT_SRC_STAT.PRESENT 255) 0) 9 false (dk [(0, 16, 22), (24, 8, 31), (160, 1, 1)]), (9 : Nat), (⟨5, 7, dk
      [(0, 16, 22), (24, 8, 31), (160, 1, 1)], false, 0, 0⟩ : DescRun), by decide +kernel⟩,
    ⟨run_ (((({ ready with boot := { ready.boot with vaux := true }, flt := {}, cal := {} } : State).p (F.UNIT_STATE.STATE
      52) 1).p F.FLT_STATUS.GRAVE 0 |> (fun s => ({ s with queues := [], admits := [], stopRuns := [], rs := {} } :
      State).p (F.FLT_SRC_STAT.PRESENT 368) 0)).p (F.FLT_SRC_STAT.PRESENT 368) 1) 9 false (dk [(0, 16, 22), (24, 8, 52),
      (160, 1, 0)]), (9 : Nat), (368 : Nat), (⟨5, 7, dk [(0, 16, 22), (24, 8, 52), (160, 1, 0)], false, 0, 0⟩ : DescRun),
      by decide +kernel⟩,
    ⟨run_ (((({ ready with boot := { ready.boot with vaux := true }, flt := {}, cal := {} } : State).p (F.UNIT_STATE.STATE
      52) 1).p F.FLT_STATUS.GRAVE 0 |> (fun s => ({ s with queues := [], admits := [], stopRuns := [], rs := {} } :
      State).p (F.FLT_SRC_STAT.PRESENT 368) 0)).p F.FLT_STATUS.GRAVE 1) 9 false (dk [(0, 16, 22), (24, 8, 52), (160, 1,
      0)]), (9 : Nat), (⟨5, 7, dk [(0, 16, 22), (24, 8, 52), (160, 1, 0)], false, 0, 0⟩ : DescRun), by decide +kernel⟩,
    ⟨run_ (((({ ready with boot := { ready.boot with vaux := true }, flt := {}, cal := {} } : State).p (F.UNIT_STATE.STATE
      52) 0).p F.FLT_STATUS.GRAVE 0 |> (fun s => ({ s with queues := [], admits := [], stopRuns := [], rs := {} } :
      State).p (F.FLT_SRC_STAT.PRESENT 368) 0))) 9 false (dk [(0, 16, 22), (24, 8, 52), (160, 1, 0)]), (9 : Nat), (⟨5, 7,
      dk [(0, 16, 22), (24, 8, 52), (160, 1, 0)], false, 0, 0⟩ : DescRun), by decide +kernel⟩,
    ⟨{ run_ (({ ready with boot := { ready.boot with vaux := true }, flt := {}, cal := {} } : State).wr (R.UNIT_STATE 52)
         0xFFFFFFFF#32) 9 true (dk [(0, 16, 22), (24, 8, 52), (160, 1, 0)]) with admits := [⟨5, 52, false⟩] }, (52 : Nat),
      (9 : Nat), (2500 : Nat), (⟨5, 52, false⟩ : AdmitX), (⟨5, 7, dk [(0, 16, 22), (24, 8, 52), (160, 1, 0)], true, 0, 0⟩
      : DescRun), by decide +kernel⟩,
    ⟨{ run_ (({ ready with boot := { ready.boot with vaux := true }, flt := {}, cal := {} } : State).wr (R.UNIT_STATE 52)
         0xFFFFFFFF#32) 9 true (dk [(0, 16, 22), (24, 8, 52), (160, 1, 0)]) with admits := [⟨5, 52, false⟩] }, (52 : Nat),
      (9 : Nat), (2500 : Nat), (⟨5, 52, false⟩ : AdmitX), (⟨5, 7, dk [(0, 16, 22), (24, 8, 52), (160, 1, 0)], true, 0, 0⟩
      : DescRun), by decide +kernel⟩,
    ⟨{ run_ (({ ready with boot := { ready.boot with vaux := true }, flt := {}, cal := {} } : State).p
         (F.UNIT_STATE.HSE_FENCED 31) 1) 9 true (dk [(0, 16, 22), (24, 8, 31), (160, 1, 1)]) with admits := [⟨5, 31,
                                                                                                    true⟩] }, (31 : Nat),
      (9 : Nat), (2500 : Nat), (⟨5, 31, true⟩ : AdmitX), (⟨5, 7, dk [(0, 16, 22), (24, 8, 31), (160, 1, 1)], true, 0, 0⟩ :
      DescRun), by decide +kernel⟩,
    ⟨{ ready with admits := [] }, (31 : Nat), (false : Bool), by decide +kernel⟩,
    ⟨((ready.p F.FLT_STATUS.GRAVE 0).p F.BOOT_STAGE.STAGE 8).p F.FLT_STATUS.BANIN_SAFE 1, (BitVec.ofNat 32 (2 ^
      F.FLT_CTL.RELEASE_SAFE.lo) : Word), by decide +kernel⟩,
    ⟨ready.p F.FLT_STATUS.GRAVE 1, (BitVec.ofNat 32 (2 ^ F.FLT_CTL.RELEASE_SAFE.lo) : Word), by decide +kernel⟩,
    ⟨((ready.p F.FLT_CTL.BANIN_EN 1).p F.FLT_STATUS.BANIN_SAFE 1).p F.FLT_STATUS.RELEASED 1, by decide +kernel⟩,
    ⟨((ready.p F.FLT_CTL.BANIN_EN 0).p F.FLT_STATUS.BANIN_SAFE 1).p F.FLT_STATUS.RELEASED 1, by decide +kernel⟩⟩

/-- States and operands that meet the hypotheses of ThermalControl, clause by clause. -/
theorem test_meets_thermal_control :
    (∃ (s : State) (data : List (Bool × Int)) (i : Nat) (k : Bool) (v : Int), data.length = 64 ∧ s.hkRuns = true ∧ i < 64
      ∧ hkOk s.part i = true ∧ data[i]? = some (k, v)) ∧
    (∃ (s : State) (data : List (Bool × Int)), (data.length ≠ 64 ∨ s.hkRuns = false)) ∧
    (∃ (s : State), s.inService = true) ∧
    (∃ (s : State) (v : Word), s.inService = true ∧ F.TSD_CFG.TSD.of v ≤ 125 ∧ s.g F.TH_CFG.TH3 < F.TSD_CFG.TSD.of v ∧ s.g
      F.TH_CFG.TRST < F.TSD_CFG.TSD.of v) ∧
    (∃ (s : State) (v : Word), s.inService = true ∧ ¬(F.TSD_CFG.TSD.of v ≤ 125 ∧ s.g F.TH_CFG.TH3 < F.TSD_CFG.TSD.of v ∧
      s.g F.TH_CFG.TRST < F.TSD_CFG.TSD.of v)) ∧
    (∃ (s : State) (i : Nat) (hi : Bool) (v : Word), s.inService = true ∧ i < 40 ∧ hi = decide (32 ≤ i) ∧ natBits v.toNat
      (i % 32) 1 = 1 ∧ (s.sens i).failed = true ∧ 8 ≤ (s.sens i).good) ∧
    (∃ (s : State) (i : Nat) (hi : Bool) (v : Word), s.inService = true ∧ ¬(hi = decide (32 ≤ i) ∧ natBits v.toNat (i %
      32) 1 = 1 ∧ (s.sens i).failed = true ∧ 8 ≤ (s.sens i).good)) ∧
    (∃ (s : State), s.g F.BOOT_STAGE.STAGE = 9 ∧ s.isFresh F.THERM_STAT.SD_SEEN = false) ∧
    (∃ (s : State), s.g F.BOOT_STAGE.STAGE = 8 ∧ s.isFresh F.THERM_STAT.SD_SEEN = false) ∧
    (∃ (s : State), s.isFresh F.THERM_STAT.SD_SEEN = true) ∧
    (∃ (s : State) (i : Nat), s.boot.vaux = true ∧ sensOk s.part i = true ∧ (s.sens i).failed = false) ∧
    (∃ (s : State) (i : Nat), (sensOk s.part i = false ∨ (s.sens i).failed = true)) ∧
    (∃ (s : State) (h : Nat) (c : Nat), s.sdPend = true ∧ s.awake = true ∧ h < s.part.halls ∧ c < 32) ∧
    (∃ (s : State), (s.sdPend = false ∨ s.awake = false)) :=
  ⟨
    ⟨(({ ready with therm := {}, boot := { ready.boot with vaux := true } } : State).p F.BOOT_STAGE.STAGE 8),
      (List.replicate 64 (true, -400) : List (Bool × Int)), (63 : Nat), (true : Bool), ((-400) : Int), by decide +kernel⟩,
    ⟨ready.p F.BOOT_STAGE.STAGE 5, (List.replicate 64 (true, 400) : List (Bool × Int)), by decide +kernel⟩,
    ⟨({ ready with therm := {} } : State).p F.THERM_STAT.LEVEL 0, by decide +kernel⟩,
    ⟨(ready.p F.TH_CFG.TH3 124).p F.TH_CFG.TRST 50, (0xFFFFFF7D#32 : Word), by decide +kernel⟩,
    ⟨ready.p F.TH_CFG.TH3 100, (126#32 : Word), by decide +kernel⟩,
    ⟨(({ ready with therm := {} } : State).wr R.TS_FAIL_LO 0x80000000#32).setSens 31 { failed := true, good := 8 }, (31 :
      Nat), (false : Bool), (0x80000000#32 : Word), by decide +kernel⟩,
    ⟨(({ ready with therm := {} } : State).wr R.TS_FAIL_LO 0x80000000#32).setSens 31 { failed := true, good := 7 }, (31 :
      Nat), (false : Bool), (0x80000000#32 : Word), by decide +kernel⟩,
    ⟨(ready.p F.BOOT_STAGE.STAGE 9).p F.THERM_STAT.SD_SEEN 1, by decide +kernel⟩,
    ⟨(ready.p F.BOOT_STAGE.STAGE 8).p F.THERM_STAT.SD_SEEN 1, by decide +kernel⟩,
    ⟨(ready.p F.BOOT_STAGE.STAGE 9).set1 F.THERM_STAT.SD_SEEN, by decide +kernel⟩,
    ⟨{ ready with therm := {}, boot := { ready.boot with vaux := true } }, (39 : Nat), by decide +kernel⟩,
    ⟨{ ready with therm := {}, boot := { ready.boot with vaux := true } }, (40 : Nat), by decide +kernel⟩,
    ⟨{ ready with sdPend := true }, (31 : Nat), (31 : Nat), by decide +kernel⟩,
    ⟨{ ready with sdPend := false }, by decide +kernel⟩⟩

/-- States and operands that meet the hypotheses of GapsAndSlices, clause by clause. -/
theorem test_meets_gaps_and_slices :
    (∃ (s : State) (q : Nat) (r : DescRun), Executes s q 9 false r ∧ dUnit r.desc = 0 ∧ dAddr r.desc = 0 ∧ dLen r.desc = 0
      ∧ dsc r.desc 26 2 = 0 ∧ dscZeroFrom r.desc 32 = true ∧ dsc r.desc 28 4 ≠ 0 ∧ dsc r.desc 28 4 ≤ 10000000 ∧ maskUnits
      r.desc 20 (some 24) ≠ [] ∧ s.unitsAbsent (maskUnits r.desc 20 (some 24)) = false ∧ r.ownsAll (53 :: maskUnits r.desc
      20 (some 24)) = true) ∧
    (∃ (s : State) (q : Nat) (r : DescRun), Executes s q 9 false r ∧ (dsc r.desc 28 4 = 0 ∨ 10000000 < dsc r.desc 28 4)) ∧
    (∃ (s : State) (u : Nat), s.winLeft u = some 0) ∧
    (∃ (s : State) (u : Nat), s.winLeft u ≠ some 0) ∧
    (∃ (s : State) (u : Nat) (item : Nat) (chans : Nat) (p : CalPart) (x : Gap), s.awake = true ∧ s.calPart u item = some
      p ∧ s.gap u = some x ∧ 0 < chans ∧ chans < 2 ^ unitChans u ∧ (maskList 32 chans).length ≤ itemChans item ∧ chans &&&
      p.mask = 0 ∧ chans &&& x.chans = chans ∧ s.sliceOf u = none ∧ (u < 32 && s.hallMeasures u) = false ∧ s.inTest u =
      false ∧ s.gapFits x item = true ∧ u < 32 + s.part.groups ∧ (32 ≤ u ∨ u < s.part.halls)) ∧
    (∃ (s : State) (u : Nat) (item : Nat), (s.awake = false ∨ s.calPart u item = none ∨ s.gap u = none ∨ s.sliceOf u ≠
      none ∨ (u < 32 ∧ s.hallMeasures u = true) ∨ s.inTest u = true ∨ (s.gap u).map (fun x => s.gapFits x item) = some
      false)) ∧
    (∃ (s : State) (u : Nat) (ms : List (Int × Int × Int)) (x : SliceX) (p : CalPart), unitPresent s.part u = true ∧ u <
      48 ∧ s.sliceOf u = some x ∧ x.unit = u ∧ s.calPart u x.item = some p ∧ ms.length = ((maskList 32 x.chans).flatMap
      (s.itemAddrs u x.item)).length ∧ p.mask ||| x.chans ≠ 2 ^ unitChans u - 1) ∧
    (∃ (s : State) (u : Nat) (x : SliceX) (p : CalPart), u < s.part.halls ∧ s.sliceOf u = some x ∧ x.unit = u ∧ x.item = 3
      ∧ (maskList 32 x.chans).length = 1 ∧ s.calPart u 3 = some p ∧ p.unit = u ∧ p.item = 3 ∧ p.ok = true ∧ p.mask |||
      x.chans = 2 ^ 32 - 1) ∧
    (∃ (s : State) (u : Nat) (x : SliceX), unitPresent s.part u = true ∧ u < 48 ∧ s.sliceOf u = some x ∧ x.unit = u ∧
      s.cal.run = none) ∧
    (∃ (s : State) (u : Nat), s.sliceOf u = none) ∧
    (∃ (s : State) (h : Nat) (c : Nat), h < s.part.halls ∧ c < 32 ∧ s.awake = true ∧ s.g (F.UNIT_STATE.STATE h) = 0 ∧
      s.cal.pend = [calHallRec h c] ∧ s.stepDue h = true ∧ s.calLive (calHallRec h c) < s.calTarget (calHallRec h c)) ∧
    (∃ (s : State) (h : Nat) (c : Nat), h < s.part.halls ∧ c < 32 ∧ s.awake = true ∧ s.g (F.UNIT_STATE.STATE h) = 0 ∧
      s.cal.pend = [calHallRec h c] ∧ s.stepDue h = true ∧ s.calTarget (calHallRec h c) < s.calLive (calHallRec h c)) ∧
    (∃ (s : State) (k : Nat) (j : Nat), k < 4 * s.part.groups ∧ k < 64 ∧ j < 56 ∧ s.awake = true ∧ s.g (F.UNIT_STATE.STATE
      (32 + k / 4)) = 0 ∧ s.cal.pend = [calSmuRec k + 2 * j]) ∧
    (∃ (s : State) (u : Nat), s.g (F.UNIT_STATE.STATE u) = 1) :=
  ⟨
    ⟨run_ ((((ready.p (F.UNIT_STATE.STATE 31) 0).p (F.GRP_STAT.CLAIMED 15) 0).p (F.UNIT_STATE.STATE 47) 0).p
      (F.UNIT_STATE.STATE 47) 1) 9 false (dk [(0, 16, 9), (160, 32, 0x80000000), (192, 16, 0x8000), (224, 32, 10000000)]),
      (9 : Nat), (⟨5, 7, dk [(0, 16, 9), (160, 32, 0x80000000), (192, 16, 0x8000), (224, 32, 10000000)], false, 0, 0⟩ :
      DescRun), by decide +kernel⟩,
    ⟨run_ (((ready.p (F.UNIT_STATE.STATE 31) 0).p (F.GRP_STAT.CLAIMED 15) 0).p (F.UNIT_STATE.STATE 47) 0) 9 false (dk [(0,
      16, 9), (160, 32, 0x80000000), (192, 16, 0x8000), (224, 32, 10000001)]), (9 : Nat), (⟨5, 7, dk [(0, 16, 9), (160,
      32, 0x80000000), (192, 16, 0x8000), (224, 32, 10000001)], false, 0, 0⟩ : DescRun), by decide +kernel⟩,
    ⟨{ ready with cyc := 9, cal := { wins := [(47, 9), (3, 8)] } }, (47 : Nat), by decide +kernel⟩,
    ⟨{ ready with cyc := 8, cal := { wins := [(47, 9), (3, 8)] } }, (47 : Nat), by decide +kernel⟩,
    ⟨(List.range 4).foldl (fun s j => s.setSmu (60 + j) {}) ((((({ ready with cal := {} } : State).p (F.GRP_STAT.CLAIMED
      15) 0).p (F.UNIT_STATE.STATE 47) 0)) |> (fun s =>
      { s with cal := { run := some ⟨5, 16, 0, 0x8000, [{ item := 4, unit := 47 }], false, 0⟩ } })), (47 : Nat), (4 :
      Nat), (8 : Nat), ({ item := 4, unit := 47 } : CalPart), (⟨15, true, none⟩ : Gap), by decide +kernel⟩,
    ⟨(List.range 4).foldl (fun s j => s.setSmu (60 + j) {}) ((((({ ready with cal := {} } : State).p (F.GRP_STAT.CLAIMED
      15) 1).p (F.UNIT_STATE.STATE 47) 0)) |> (fun s =>
      { s with cal := { run := some ⟨5, 16, 0, 0x8000, [{ item := 4, unit := 47 }], false, 0⟩ } })), (47 : Nat), (4 :
      Nat), by decide +kernel⟩,
    ⟨{ ready with cal := { run := some ⟨5, 16, 0, 0x8000, [{ item := 4, unit := 47 }], false, 0⟩, slices := [⟨47, 4, 8,
                             false⟩] } }, (47 : Nat), ([(3, 4, 5), (3, 4, 5), (3, 9, 5), (1, 1, 1)] : List (Int × Int ×
      Int)), (⟨47, 4, 8, false⟩ : SliceX), ({ item := 4, unit := 47 } : CalPart), by decide +kernel⟩,
    ⟨{ ready with cal := { run := some ⟨5, 8, 0x80000000, 0, [{ item := 3, unit := 31, mask := 0x7FFFFFFF, ok := true }],
                             false, 0⟩, slices := [⟨31, 3, 0x80000000, false⟩] } }, (31 : Nat), (⟨31, 3, 0x80000000,
      false⟩ : SliceX), ({ item := 3, unit := 31, mask := 0x7FFFFFFF, ok := true } : CalPart), by decide +kernel⟩,
    ⟨{ ready with cal := { slices := [⟨31, 0, 0x80000001, false⟩] } }, (31 : Nat), (⟨31, 0, 0x80000001, false⟩ : SliceX),
      by decide +kernel⟩,
    ⟨{ ready with cal := { slices := [⟨31, 0, 0x80000001, false⟩] } }, (30 : Nat), by decide +kernel⟩,
    ⟨((((ready.p (F.UNIT_STATE.STATE 31) 0).p (F.DESKEW.TAPS 31 31) 1204)).wrMem 100 (calHallRec 31 31) 1205 2) |> (fun s
      => { s with cal := { pend := [calHallRec 31 31] } }), (31 : Nat), (31 : Nat), by decide +kernel⟩,
    ⟨((((ready.p (F.UNIT_STATE.STATE 31) 0).p (F.DESKEW.TAPS 31 31) 1204)).wrMem 100 (calHallRec 31 31) 1203 2) |> (fun s
      => { s with cal := { pend := [calHallRec 31 31] } }), (31 : Nat), (31 : Nat), by decide +kernel⟩,
    ⟨((ready.p (F.UNIT_STATE.STATE 47) 0).wrMem 100 (calSmuRec 63 + 110) 0xFFFE 2) |> (fun s =>
      { s with cal := { pend := [calSmuRec 63 + 110] } }), (63 : Nat), (55 : Nat), by decide +kernel⟩,
    ⟨(ready.p (F.UNIT_STATE.STATE 47) 1) |> (fun s => { s with cal := { pend := [calSmuRec 63 + 110] } }), (47 : Nat),
      by decide +kernel⟩⟩

/-- States and operands that meet the hypotheses of CalibrationAndTests, clause by clause. -/
theorem test_meets_calibration_and_tests :
    (∃ (s : State) (q : Nat) (r : DescRun), Executes s q 11 false r ∧ dUnit r.desc = 0 ∧ dAddr r.desc = 0 ∧ dLen r.desc =
      0 ∧ dscBits r.desc 20 5 3 = 0 ∧ dsc r.desc 21 1 = 0 ∧ dscZeroFrom r.desc 30 = true ∧ 0 < dsc r.desc 22 2 ∧ dscBits
      r.desc 20 0 5 ≠ 0 ∧ (dscBits r.desc 20 0 5 % 16 ≠ 0 ↔ dsc r.desc 24 4 ≠ 0) ∧ (16 ≤ dscBits r.desc 20 0 5 ↔ dsc
      r.desc 28 2 ≠ 0) ∧ s.unitsAbsent (maskUnits r.desc 24 (some 28)) = false ∧ r.ownsAll (53 :: maskUnits r.desc 24
      (some 28)) = true ∧ s.is F.CAL_STAT.RUNNING = false ∧ s.is F.CAL_STAT.RESTORING = false) ∧
    (∃ (s : State) (q : Nat) (r : DescRun), Executes s q 11 false r ∧ dUnit r.desc = 0 ∧ dAddr r.desc = 0 ∧ dLen r.desc =
      0 ∧ dscBits r.desc 20 5 3 = 0 ∧ dsc r.desc 21 1 = 0 ∧ dscZeroFrom r.desc 30 = true ∧ 0 < dsc r.desc 22 2 ∧ dscBits
      r.desc 20 0 5 ≠ 0 ∧ (dscBits r.desc 20 0 5 % 16 ≠ 0 ↔ dsc r.desc 24 4 ≠ 0) ∧ (16 ≤ dscBits r.desc 20 0 5 ↔ dsc
      r.desc 28 2 ≠ 0) ∧ s.unitsAbsent (maskUnits r.desc 24 (some 28)) = false ∧ r.ownsAll (53 :: maskUnits r.desc 24
      (some 28)) = true ∧ (s.is F.CAL_STAT.RUNNING = true ∨ s.is F.CAL_STAT.RESTORING = true)) ∧
    (∃ (s : State) (q : Nat) (x : CalRunX) (r : DescRun), s.awake = true ∧ s.cal.run = some x ∧ s.cal.slices = [] ∧
      (x.parts.all (fun p => p.done && p.ok)) = true ∧ x.changed = true ∧ s.g F.CAL_GEN.GEN < 2 ^ 31 ∧ s.queueOf x.did =
      some q ∧ (s.queue q).run = some r ∧ x.items < 32) ∧
    (∃ (s : State) (q : Nat) (x : CalRunX) (r : DescRun), s.awake = true ∧ s.cal.run = some x ∧ s.cal.slices = [] ∧
      ((x.parts.all (fun p => p.done)) = true ∨ x.due ≤ s.tb1) ∧ (x.parts.all (fun p => decide (p.item < 5))) = true ∧
      s.queueOf x.did = some q ∧ (s.queue q).run = some r) ∧
    (∃ (s : State) (x : CalRunX), s.awake = true ∧ s.cal.run = some x ∧ ((x.parts.all (fun p => p.done)) = true ∨ x.due ≤
      s.tb1)) ∧
    (∃ (s : State) (x : CalRunX), s.cal.run = some x ∧ (x.parts.all (fun p => p.done)) = false ∧ s.tb1 < x.due) ∧
    (∃ (s : State) (q : Nat) (r : DescRun), Executes s q 12 false r ∧ dUnit r.desc = 0 ∧ dscZeroFrom r.desc 26 = true ∧
      dAddr r.desc % 64 = 0 ∧ dLen r.desc = calImgLen ∧ maskUnits r.desc 20 (some 24) = [] ∧ r.ownsAll (53 :: maskUnits
      r.desc 20 (some 24)) = true) ∧
    (∃ (s : State) (q : Nat) (r : DescRun), Executes s q 12 false r ∧ dUnit r.desc = 0 ∧ dscZeroFrom r.desc 26 = true ∧
      dAddr r.desc % 64 = 0 ∧ dLen r.desc = calImgLen ∧ maskUnits r.desc 20 (some 24) = [] ∧ r.ownsAll (53 :: maskUnits
      r.desc 20 (some 24)) = true) ∧
    (∃ (s : State) (q : Nat) (data : List Nat) (r : DescRun), Executes s q 13 false r ∧ dUnit r.desc = 0 ∧ dscZeroFrom
      r.desc 26 = true ∧ dAddr r.desc % 64 = 0 ∧ dLen r.desc = calImgLen ∧ s.unitsAbsent (maskUnits r.desc 20 (some 24)) =
      false ∧ r.ownsAll (53 :: maskUnits r.desc 20 (some 24)) = true ∧ s.is F.CAL_STAT.RUNNING = false ∧ s.is
      F.CAL_STAT.RESTORING = false ∧ data.length = calImgLen ∧ imgNat data 0 4 = 1 ∧ imgNat data 4 2 = s.g F.ID.PART ∧
      imgNat data 8 8 = Config.devUid.toNat ∧ imgNat data 20 4 = crc32 ((data.drop 0x100).take 0x22F00) ∧ s.g
      F.CAL_GEN.GEN < 2 ^ 31) ∧
    (∃ (s : State) (q : Nat) (data : List Nat) (r : DescRun), Executes s q 13 false r ∧ dUnit r.desc = 0 ∧ dscZeroFrom
      r.desc 26 = true ∧ dAddr r.desc % 64 = 0 ∧ dLen r.desc = calImgLen ∧ s.unitsAbsent (maskUnits r.desc 20 (some 24)) =
      false ∧ r.ownsAll (53 :: maskUnits r.desc 20 (some 24)) = true ∧ s.is F.CAL_STAT.RUNNING = false ∧ s.is
      F.CAL_STAT.RESTORING = false ∧ data.length = calImgLen ∧ (imgNat data 0 4 ≠ 1 ∨ imgNat data 4 2 ≠ s.g F.ID.PART)) ∧
    (∃ (s : State) (q : Nat) (data : List Nat) (r : DescRun), Executes s q 13 false r ∧ dUnit r.desc = 0 ∧ dscZeroFrom
      r.desc 26 = true ∧ dAddr r.desc % 64 = 0 ∧ dLen r.desc = calImgLen ∧ s.unitsAbsent (maskUnits r.desc 20 (some 24)) =
      false ∧ r.ownsAll (53 :: maskUnits r.desc 20 (some 24)) = true ∧ s.is F.CAL_STAT.RUNNING = false ∧ s.is
      F.CAL_STAT.RESTORING = false ∧ data.length = calImgLen ∧ imgNat data 0 4 = 1 ∧ imgNat data 4 2 = s.g F.ID.PART ∧
      imgNat data 8 8 ≠ Config.devUid.toNat) ∧
    (∃ (s : State) (q : Nat) (data : List Nat) (r : DescRun), Executes s q 13 false r ∧ dUnit r.desc = 0 ∧ dscZeroFrom
      r.desc 26 = true ∧ dAddr r.desc % 64 = 0 ∧ dLen r.desc = calImgLen ∧ s.unitsAbsent (maskUnits r.desc 20 (some 24)) =
      false ∧ r.ownsAll (53 :: maskUnits r.desc 20 (some 24)) = true ∧ s.is F.CAL_STAT.RUNNING = false ∧ s.is
      F.CAL_STAT.RESTORING = false ∧ data.length = calImgLen ∧ imgNat data 0 4 = 1 ∧ imgNat data 4 2 = s.g F.ID.PART ∧
      imgNat data 8 8 = Config.devUid.toNat ∧ imgNat data 20 4 ≠ crc32 ((data.drop 0x100).take 0x22F00)) ∧
    (∃ (s : State) (q : Nat) (r : DescRun), Executes s q 13 false r ∧ dUnit r.desc = 0 ∧ dscZeroFrom r.desc 26 = true ∧
      dAddr r.desc % 64 = 0 ∧ dLen r.desc = calImgLen ∧ s.unitsAbsent (maskUnits r.desc 20 (some 24)) = false ∧ r.ownsAll
      (53 :: maskUnits r.desc 20 (some 24)) = true ∧ (s.is F.CAL_STAT.RUNNING = true ∨ s.is F.CAL_STAT.RESTORING = true)) ∧
    (∃ (s : State) (q : Nat) (r : DescRun), Executes s q 13 false r ∧ dUnit r.desc = 0 ∧ dscZeroFrom r.desc 26 = true ∧
      dAddr r.desc % 64 = 0 ∧ dLen r.desc = calImgLen ∧ s.unitsAbsent (maskUnits r.desc 20 (some 24)) = false ∧ r.ownsAll
      (53 :: maskUnits r.desc 20 (some 24)) = true ∧ s.is F.CAL_STAT.RUNNING = false ∧ s.is F.CAL_STAT.RESTORING = false) ∧
    (∃ (s : State) (q : Nat) (r : DescRun), Executes s q 14 false r ∧ dAddr r.desc = 0 ∧ dLen r.desc = 0 ∧ dscZeroFrom
      r.desc 21 = true ∧ dUnit r.desc ≤ 53 ∧ unitPresent s.part (dUnit r.desc) = true ∧ kindOk (dUnit r.desc) (dsc r.desc
      20 1) = true ∧ r.ownsAll [53, dUnit r.desc] = true ∧ s.bistOk (dUnit r.desc) (dsc r.desc 20 1) r.did = true ∧ r.did
      ∉ s.unitDids) ∧
    (∃ (s : State) (q : Nat) (r : DescRun), Executes s q 14 false r ∧ dAddr r.desc = 0 ∧ dLen r.desc = 0 ∧ dscZeroFrom
      r.desc 21 = true ∧ dUnit r.desc ≤ 53 ∧ unitPresent s.part (dUnit r.desc) = true ∧ kindOk (dUnit r.desc) (dsc r.desc
      20 1) = true ∧ r.ownsAll [53, dUnit r.desc] = true ∧ s.bistOk (dUnit r.desc) (dsc r.desc 20 1) r.did = false) ∧
    (∃ (s : State) (u : Nat) (q : Nat) (sig : BitVec 64) (x : BistX) (r : DescRun), s.awake = true ∧ s.cal.bists.find?
      (fun e => e.unit == u) = some x ∧ x.unit = u ∧ s.queueOf x.did = some q ∧ (s.queue q).run = some r ∧ x.did ∉
      s.unitDids ∧ sig = Config.bistExpect u x.kind) ∧
    (∃ (s : State) (u : Nat) (q : Nat) (sig : BitVec 64) (x : BistX) (r : DescRun), s.awake = true ∧ s.cal.bists.find?
      (fun e => e.unit == u) = some x ∧ x.unit = u ∧ s.queueOf x.did = some q ∧ (s.queue q).run = some r ∧ x.did ∉
      s.unitDids ∧ sig ≠ Config.bistExpect u x.kind) ∧
    (∃ (s : State) (u : Nat) (x : BistX) (src : Option Nat), s.awake = true ∧ s.cal.bists = [x] ∧ x.unit = u ∧ x.held =
      [((F.UNIT_STATE.C_HOST u).lo, src)] ∧ unitPresent s.part u = true ∧ u < 53) ∧
    (∃ (s : State) (u : Nat), s.inTest u = false) :=
  ⟨
    ⟨run_ ((ready.p F.CAL_STAT.RUNNING 0).p F.CAL_STAT.RESTORING 0) 9 false (dk [(0, 16, 11), (160, 5, 31), (176, 16, 9),
      (192, 32, 0x80000001), (224, 16, 0x8000)]), (9 : Nat), (⟨5, 7, dk [(0, 16, 11), (160, 5, 31), (176, 16, 9), (192,
      32, 0x80000001), (224, 16, 0x8000)], false, 0, 0⟩ : DescRun), by decide +kernel⟩,
    ⟨run_ (ready.p F.CAL_STAT.RUNNING 1) 9 false (dk [(0, 16, 11), (160, 5, 31), (176, 16, 9), (192, 32, 0x80000001),
      (224, 16, 0x8000)]), (9 : Nat), (⟨5, 7, dk [(0, 16, 11), (160, 5, 31), (176, 16, 9), (192, 32, 0x80000001), (224,
      16, 0x8000)], false, 0, 0⟩ : DescRun), by decide +kernel⟩,
    ⟨(run_ ({ ready with cal := {} } : State) 9 true (dk [])).p F.CAL_GEN.GEN 6 |> (fun s =>
      { s with tb1 := 77, cal := { run := some ⟨5, 17, 0x80000000, 0x8000, [{ item := 0, unit := 31, mask := 0, ok :=
                                                                                true, done := true }, { item := 4, unit :=
                                                                                                          47, mask := 0,
                                                                                                          ok := true, done
                                                                                                          := true }],
                                     true, 2 ^ 70⟩ } }), (9 : Nat), (⟨5, 17, 0x80000000, 0x8000, [{ item := 0, unit := 31,
                                                                                                      mask := 0, ok :=
                                                                                                      true, done := true
                                                                                                      },
      { item := 4, unit := 47, mask := 0, ok := true, done := true }], true, 2 ^ 70⟩ : CalRunX), (⟨5, 7, dk [], true, 0,
      0⟩ : DescRun), by decide +kernel⟩,
    ⟨(run_ ({ ready with cal := {} } : State) 9 true (dk [])).p F.CAL_GEN.GEN 6 |> (fun s =>
      { s with tb1 := 77, cal := { run := some ⟨5, 17, 0x80000000, 0x8000, [{ item := 4, unit := 47, mask := 0, ok :=
                                                                                true, done := false }, { item := 1, unit
                                                                                                           := 30, mask :=
                                                                                                           0, ok := false,
                                                                                                           done := true
                                                                                                           }], false, 77⟩
                                     } }), (9 : Nat), (⟨5, 17, 0x80000000, 0x8000, [{ item := 4, unit := 47, mask := 0, ok
                                                                                        := true, done := false },
      { item := 1, unit := 30, mask := 0, ok := false, done := true }], false, 77⟩ : CalRunX), (⟨5, 7, dk [], true, 0, 0⟩
      : DescRun), by decide +kernel⟩,
    ⟨(run_ ({ ready with cal := {} } : State) 9 true (dk [])).p F.CAL_GEN.GEN 6 |> (fun s =>
      { s with tb1 := 77, cal := { run := some ⟨5, 17, 0x80000000, 0x8000, [{ item := 0, unit := 31, mask := 0, ok :=
                                                                                true, done := true }, { item := 4, unit :=
                                                                                                          47, mask := 0,
                                                                                                          ok := true, done
                                                                                                          := true }],
                                     true, 2 ^ 70⟩ } }), (⟨5, 17, 0x80000000, 0x8000, [{ item := 0, unit := 31, mask := 0,
                                                                                           ok := true, done := true },
      { item := 4, unit := 47, mask := 0, ok := true, done := true }], true, 2 ^ 70⟩ : CalRunX), by decide +kernel⟩,
    ⟨(run_ ({ ready with cal := {} } : State) 9 true (dk [])).p F.CAL_GEN.GEN 6 |> (fun s =>
      { s with tb1 := 77, cal := { run := some ⟨5, 17, 0x80000000, 0x8000, [{ item := 4, unit := 47, mask := 0, ok :=
                                                                                true, done := false }], true, 78⟩ } }),
      (⟨5, 17, 0x80000000, 0x8000, [{ item := 4, unit := 47, mask := 0, ok := true, done := false }], true, 78⟩ :
      CalRunX), by decide +kernel⟩,
    ⟨run_ ready 9 false (dk [(0, 16, 12), (64, 64, 0x12340), (128, 32, 143360)]), (9 : Nat), (⟨5, 7, dk [(0, 16, 12), (64,
      64, 0x12340), (128, 32, 143360)], false, 0, 0⟩ : DescRun), by decide +kernel⟩,
    ⟨run_ ready 9 false (dk [(0, 16, 12), (64, 64, 0x12340), (128, 32, 143360)]), (9 : Nat), (⟨5, 7, dk [(0, 16, 12), (64,
      64, 0x12340), (128, 32, 143360)], false, 0, 0⟩ : DescRun), by decide +kernel⟩,
    ⟨run_ (((ready.p F.CAL_STAT.RUNNING 0).p F.CAL_STAT.RESTORING 0).p F.CAL_GEN.GEN 6) 9 false (dk [(0, 16, 13), (64, 64,
      0x12340), (128, 32, 143360), (160, 32, 0x80000000)]), (9 : Nat), (imageOf 1 Config.devUid.toNat (crc32 calBody) :
      List Nat), (⟨5, 7, dk [(0, 16, 13), (64, 64, 0x12340), (128, 32, 143360), (160, 32, 0x80000000)], false, 0, 0⟩ :
      DescRun), by decide +kernel, by decide +kernel, by decide +kernel, by decide +kernel, by decide +kernel,
      by decide +kernel, by decide +kernel, by decide +kernel, by decide +kernel, imageOf_length 1 _ _,
      imageOf_version 1 _ _, imageOf_part _ _ _, imageOf_uid_same _ _, imageOf_crc_right _ _, by decide +kernel⟩,
    ⟨run_ (((ready.p F.CAL_STAT.RUNNING 0).p F.CAL_STAT.RESTORING 0).p F.CAL_GEN.GEN 6) 9 false (dk [(0, 16, 13), (64, 64,
      0x12340), (128, 32, 143360), (160, 32, 0x80000000)]), (9 : Nat), (imageOf 2 Config.devUid.toNat (crc32 calBody) :
      List Nat), (⟨5, 7, dk [(0, 16, 13), (64, 64, 0x12340), (128, 32, 143360), (160, 32, 0x80000000)], false, 0, 0⟩ :
      DescRun), by decide +kernel, by decide +kernel, by decide +kernel, by decide +kernel, by decide +kernel,
      by decide +kernel, by decide +kernel, by decide +kernel, by decide +kernel, imageOf_length 2 _ _,
      Or.inl (by rw [imageOf_version]; decide)⟩,
    ⟨run_ (((ready.p F.CAL_STAT.RUNNING 0).p F.CAL_STAT.RESTORING 0).p F.CAL_GEN.GEN 6) 9 false (dk [(0, 16, 13), (64, 64,
      0x12340), (128, 32, 143360), (160, 32, 0x80000000)]), (9 : Nat), (imageOf 1 (Config.devUid.toNat + 1) (crc32
      calBody) : List Nat), (⟨5, 7, dk [(0, 16, 13), (64, 64, 0x12340), (128, 32, 143360), (160, 32, 0x80000000)], false,
      0, 0⟩ : DescRun), by decide +kernel, by decide +kernel, by decide +kernel, by decide +kernel, by decide +kernel,
      by decide +kernel, by decide +kernel, by decide +kernel, by decide +kernel, imageOf_length 1 _ _,
      imageOf_version 1 _ _, imageOf_part _ _ _, imageOf_uid_other _ _⟩,
    ⟨run_ (((ready.p F.CAL_STAT.RUNNING 0).p F.CAL_STAT.RESTORING 0).p F.CAL_GEN.GEN 6) 9 false (dk [(0, 16, 13), (64, 64,
      0x12340), (128, 32, 143360), (160, 32, 0x80000000)]), (9 : Nat), (imageOf 1 Config.devUid.toNat (crc32 calBody + 1)
      : List Nat), (⟨5, 7, dk [(0, 16, 13), (64, 64, 0x12340), (128, 32, 143360), (160, 32, 0x80000000)], false, 0, 0⟩ :
      DescRun), by decide +kernel, by decide +kernel, by decide +kernel, by decide +kernel, by decide +kernel,
      by decide +kernel, by decide +kernel, by decide +kernel, by decide +kernel, imageOf_length 1 _ _,
      imageOf_version 1 _ _, imageOf_part _ _ _, imageOf_uid_same _ _, imageOf_crc_wrong _ _⟩,
    ⟨run_ (((ready.p F.CAL_STAT.RUNNING 1).p F.CAL_STAT.RESTORING 0).p F.CAL_GEN.GEN 6) 9 false (dk [(0, 16, 13), (64, 64,
      0x12340), (128, 32, 143360), (160, 32, 0x80000000)]), (9 : Nat), (⟨5, 7, dk [(0, 16, 13), (64, 64, 0x12340), (128,
      32, 143360), (160, 32, 0x80000000)], false, 0, 0⟩ : DescRun), by decide +kernel⟩,
    ⟨run_ (((ready.p F.CAL_STAT.RUNNING 0).p F.CAL_STAT.RESTORING 0).p F.CAL_GEN.GEN 6) 9 false (dk [(0, 16, 13), (64, 64,
      0x12340), (128, 32, 143360), (160, 32, 0x80000000)]), (9 : Nat), (⟨5, 7, dk [(0, 16, 13), (64, 64, 0x12340), (128,
      32, 143360), (160, 32, 0x80000000)], false, 0, 0⟩ : DescRun), by decide +kernel⟩,
    ⟨run_ ((({ ready with cal := {} } : State).p F.CAL_STAT.RESTORING 0).p (F.UNIT_STATE.STATE 53) 0) 9 false (dk [(0, 16,
      14), (24, 8, 53), (160, 8, 3)]), (9 : Nat), (⟨5, 7, dk [(0, 16, 14), (24, 8, 53), (160, 8, 3)], false, 0, 0⟩ :
      DescRun), by decide +kernel⟩,
    ⟨run_ ((ready.p (F.ALC_STATE.STATE 31 5) 4).p (F.UNIT_STATE.STATE 31) 0) 9 false (dk [(0, 16, 14), (24, 8, 31), (160,
      8, 1)]), (9 : Nat), (⟨5, 7, dk [(0, 16, 14), (24, 8, 31), (160, 8, 1)], false, 0, 0⟩ : DescRun), by decide +kernel⟩,
    ⟨(run_ ready 9 true (dk [])) |> (fun s =>
      { s with cal := { bists := [⟨5, 53, 3, []⟩] }, stopRuns := [], startRuns := [], admits := [], flights := [], halls
                 := [], peHalls := [], hses := [], digs := [], rs := {} }), (53 : Nat), (9 : Nat), (Config.bistExpect 53 3
      : BitVec 64), (⟨5, 53, 3, []⟩ : BistX), (⟨5, 7, dk [], true, 0, 0⟩ : DescRun), by decide +kernel, by decide +kernel,
      by decide +kernel, by decide +kernel, by decide +kernel, by decide +kernel, rfl⟩,
    ⟨(run_ ready 9 true (dk [])) |> (fun s =>
      { s with cal := { bists := [⟨5, 53, 3, []⟩] }, stopRuns := [], startRuns := [], admits := [], flights := [], halls
                 := [], peHalls := [], hses := [], digs := [], rs := {} }), (53 : Nat), (9 : Nat), (Config.bistExpect 53 3
      + 1 : BitVec 64), (⟨5, 53, 3, []⟩ : BistX), (⟨5, 7, dk [], true, 0, 0⟩ : DescRun), by decide +kernel,
      by decide +kernel, by decide +kernel, by decide +kernel, by decide +kernel, by decide +kernel,
      by show Config.bistExpect 53 3 + 1 ≠ Config.bistExpect 53 3; bv_omega⟩,
    ⟨(run_ ready 9 true (dk [])) |> (fun s =>
      { s with cal := { bists := [⟨5, 31, 1, [((F.UNIT_STATE.C_HOST 31).lo, none)]⟩] }, stopRuns := [], startRuns := [],
                 admits := [], flights := [], halls := [], peHalls := [], hses := [], digs := [], rs := {} }), (31 : Nat),
      (⟨5, 31, 1, [((F.UNIT_STATE.C_HOST 31).lo, none)]⟩ : BistX), (none : Option Nat), by decide +kernel⟩,
    ⟨{ ready with cal := {} }, (31 : Nat), by decide +kernel⟩⟩

/-- States and operands that meet the hypotheses of DataPortsAndDma, clause by clause. -/
theorem test_meets_data_ports_and_dma :
    (∃ (s : State) (p : Nat) (k : Nat), Ready s ∧ p < 103 ∧ portPresent s.part p = true ∧ s.portClosed p = false ∧ k < 4 ∧
      k < s.portLast p) ∧
    (∃ (s : State) (p : Nat) (k : Nat), Ready s ∧ p < 103 ∧ portPresent s.part p = true ∧ s.portClosed p = false ∧ k < 4 ∧
      s.portLast p < k) ∧
    (∃ (s : State) (p : Nat) (k : Nat), Ready s ∧ p < 103 ∧ portPresent s.part p = true ∧ s.portClosed p = false ∧ k < 4 ∧
      k = s.portLast p ∧ portSize s.part p ≤ s.g (F.PORT_ADDR.ADDR p)) ∧
    (∃ (s : State) (k : Nat), Ready s ∧ portPresent s.part 102 = true ∧ s.portClosed 102 = false ∧ k < 4 ∧ k = s.portLast
      102 ∧ s.g (F.PORT_ADDR.ADDR 102) + s.portStep 102 ≤ 0x80000000) ∧
    (∃ (s : State) (p : Nat) (k : Nat), Ready s ∧ p < 103 ∧ portPresent s.part p = true ∧ s.portClosed p = false ∧ k < 4 ∧
      k = s.portLast p ∧ s.g (F.PORT_ADDR.ADDR p) < portSize s.part p) ∧
    (∃ (s : State) (p : Nat) (k : Nat), Ready s ∧ p < 103 ∧ portPresent s.part p = true ∧ s.portClosed p = true ∧ k < 4) ∧
    (∃ (s : State) (p : Nat), Ready s ∧ portPresent s.part p = false) ∧
    (∃ (s : State) (p : Nat) (k : Nat), Ready s ∧ p < 103 ∧ portPresent s.part p = true ∧ s.portClosed p = false ∧ k < 4 ∧
      k ≤ s.portLast p ∧ k ≠ 0 ∧ s.g (F.PORT_ADDR.ADDR p) < portSize s.part p) ∧
    (∃ (s : State) (p : Nat), Ready s ∧ p < 103 ∧ portPresent s.part p = true ∧ s.portClosed p = false ∧ s.g
      (F.PORT_ADDR.ADDR p) < portSize s.part p) ∧
    (∃ (s : State) (p : Nat) (k : Nat), Ready s ∧ p < 103 ∧ portPresent s.part p = true ∧ s.portClosed p = false ∧ k < 4 ∧
      portSize s.part p ≤ s.g (F.PORT_ADDR.ADDR p)) ∧
    (∃ (s : State) (p : Nat) (k : Nat), Ready s ∧ p < 103 ∧ portPresent s.part p = true ∧ s.portClosed p = true ∧ k < 4) ∧
    (∃ (s : State) (p : Nat), portPresent s.part p = false) ∧
    (∃ (s : State) (p : Nat), Ready s ∧ p < 103 ∧ portPresent s.part p = true ∧ s.portClosed p = false) ∧
    (∃ (s : State) (p : Nat), Ready s ∧ p < 103 ∧ portPresent s.part p = true ∧ s.portClosed p = true) ∧
    (∃ (s : State) (p : Nat) (v : Word), Ready s ∧ p < 103 ∧ portPresent s.part p = true ∧ s.portClosed p = false ∧
      (F.PORT_CTL.STEP p).of v ≠ 3 ∧ stepMinCode p ≤ (F.PORT_CTL.STEP p).of v ∧ (F.PORT_CTL.STEP p).of v ≠ s.g
      (F.PORT_CTL.STEP p)) ∧
    (∃ (s : State) (p : Nat) (v : Word), Ready s ∧ p < 103 ∧ portPresent s.part p = true ∧ s.portClosed p = false ∧
      (F.PORT_CTL.STEP p).of v ≠ 3 ∧ stepMinCode p ≤ (F.PORT_CTL.STEP p).of v ∧ (F.PORT_CTL.STEP p).of v = s.g
      (F.PORT_CTL.STEP p)) ∧
    (∃ (s : State) (p : Nat) (v : Word), Ready s ∧ p < 103 ∧ portPresent s.part p = true ∧ s.portClosed p = false ∧
      ((F.PORT_CTL.STEP p).of v = 3 ∨ (F.PORT_CTL.STEP p).of v < stepMinCode p)) ∧
    (∃ (s : State) (p : Nat), Ready s ∧ p < 103 ∧ portPresent s.part p = true ∧ s.portClosed p = true) ∧
    (∃ (s : State) (p : Nat), Ready s ∧ p < 103 ∧ portPresent s.part p = true ∧ s.portClosed p = false) ∧
    (∃ (s : State) (p : Nat), Ready s ∧ p < 103 ∧ portPresent s.part p = true ∧ s.portClosed p = true) ∧
    (∃ (s : State) (o : Nat) (data : List Nat), Ready s ∧ portPresent s.part (102) = true ∧ s.portClosed (102) = false ∧
      aptOk s.part (102) o data.length = true ∧ (s.aptBase (102) + o) % stepMin (102) = 0 ∧ data.length % stepMin (102) =
      0 ∧ s.aptBase (102) + o + data.length ≤ 0x80000000) ∧
    (∃ (s : State) (d : Nat) (o : Nat) (data : List Nat), d < s.part.digs ∧ Ready s ∧ portPresent s.part (96 + d) = true ∧
      s.portClosed (96 + d) = false ∧ aptOk s.part (96 + d) o data.length = true ∧ (s.aptBase (96 + d) + o) % stepMin (96
      + d) = 0 ∧ data.length % stepMin (96 + d) = 0 ∧ s.aptBase (96 + d) + o + data.length ≤ 0x10000000) ∧
    (∃ (s : State) (h : Nat) (o : Nat) (data : List Nat), h < s.part.halls ∧ Ready s ∧ portPresent s.part (h) = true ∧
      s.portClosed (h) = false ∧ aptOk s.part (h) o data.length = true ∧ (s.aptBase (h) + o) % stepMin (h) = 0 ∧
      data.length % stepMin (h) = 0 ∧ s.aptBase (h) + o + data.length ≤ portSize s.part h ∧ (List.range data.length).all
      (fun i => s.fltOpen h (s.aptBase h + o + i)) = true) ∧
    (∃ (s : State) (h : Nat) (o : Nat) (data : List Nat), h < s.part.halls ∧ Ready s ∧ portPresent s.part (h) = true ∧
      s.portClosed (h) = false ∧ aptOk s.part (h) o data.length = true ∧ (s.aptBase (h) + o) % stepMin (h) = 0 ∧
      data.length % stepMin (h) = 0 ∧ s.aptBase (h) + o + data.length ≤ portSize s.part h ∧ (List.range data.length).all
      (fun i => s.fltOpen h (s.aptBase h + o + i)) = false) ∧
    (∃ (s : State) (h : Nat) (o : Nat) (data : List Nat), h < s.part.halls ∧ Ready s ∧ portPresent s.part (32 + h) = true
      ∧ s.portClosed (32 + h) = false ∧ aptOk s.part (32 + h) o data.length = true ∧ (s.aptBase (32 + h) + o) % stepMin
      (32 + h) = 0 ∧ data.length % stepMin (32 + h) = 0 ∧ s.aptBase (32 + h) + o + data.length ≤ 0x80000 ∧ (List.range
      16).any (fun k => decide ((s.aptBase (32 + h) + o) < 32768 * (k + 1) ∧ 32768 * k < (s.aptBase (32 + h) + o) +
      data.length) && s.pageLocked h k) = false) ∧
    (∃ (s : State) (h : Nat) (o : Nat) (data : List Nat), h < s.part.halls ∧ Ready s ∧ portPresent s.part (32 + h) = true
      ∧ s.portClosed (32 + h) = false ∧ aptOk s.part (32 + h) o data.length = true ∧ (s.aptBase (32 + h) + o) % stepMin
      (32 + h) = 0 ∧ data.length % stepMin (32 + h) = 0 ∧ s.aptBase (32 + h) + o + data.length ≤ 0x80000 ∧ (List.range
      16).any (fun k => decide ((s.aptBase (32 + h) + o) < 32768 * (k + 1) ∧ 32768 * k < (s.aptBase (32 + h) + o) +
      data.length) && s.pageLocked h k) = true) ∧
    (∃ (s : State) (h : Nat) (o : Nat) (data : List Nat), h < s.part.halls ∧ Ready s ∧ portPresent s.part (64 + h) = true
      ∧ s.portClosed (64 + h) = false ∧ aptOk s.part (64 + h) o data.length = true ∧ (s.aptBase (64 + h) + o) % stepMin
      (64 + h) = 0 ∧ data.length % stepMin (64 + h) = 0 ∧ s.aptBase (64 + h) + o + data.length ≤ 0x4000 ∧ s.aptBase (64 +
      h) + o < 8192 ∧ (s.hse h).busy = false) ∧
    (∃ (s : State) (h : Nat) (o : Nat) (data : List Nat), h < s.part.halls ∧ Ready s ∧ portPresent s.part (64 + h) = true
      ∧ s.portClosed (64 + h) = false ∧ aptOk s.part (64 + h) o data.length = true ∧ (s.aptBase (64 + h) + o) % stepMin
      (64 + h) = 0 ∧ data.length % stepMin (64 + h) = 0 ∧ s.aptBase (64 + h) + o + data.length ≤ 0x4000 ∧ (8192 ≤
      s.aptBase (64 + h) + o ∨ (s.hse h).busy = true)) ∧
    (∃ (s : State) (o : Nat) (data : List Nat), Ready s ∧ portPresent s.part (101) = true ∧ s.portClosed (101) = false ∧
      aptOk s.part (101) o data.length = true ∧ (s.aptBase (101) + o) % stepMin (101) = 0 ∧ data.length % stepMin (101) =
      0 ∧ s.aptBase (101) + o + data.length ≤ portSize s.part 101 ∧ s.hallOk ((s.aptBase 101 + o) / 24576) = true) ∧
    (∃ (s : State) (o : Nat) (data : List Nat), Ready s ∧ portPresent s.part (100) = true ∧ s.portClosed (100) = false ∧
      aptOk s.part (100) o data.length = true ∧ (s.aptBase (100) + o) % stepMin (100) = 0 ∧ data.length % stepMin (100) =
      0 ∧ s.aptBase (100) + o + data.length ≤ 0x100000 ∧ (s.is F.CAL_STAT.RUNNING = true ∨ s.is F.CAL_STAT.RESTORING =
      true ∨ ((List.range data.length).all fun i => calNamed s.part (s.aptBase 100 + o + i)) = false)) ∧
    (∃ (s : State) (p : Nat) (o : Nat) (data : List Nat), Ready s ∧ aptOk s.part p o data.length = true ∧ s.portClosed p =
      false ∧ ((s.aptBase p + o) % stepMin p ≠ 0 ∨ data.length % stepMin p ≠ 0)) ∧
    (∃ (s : State) (p : Nat) (o : Nat) (data : List Nat), Ready s ∧ aptOk s.part p o data.length = true ∧ s.portClosed p =
      false ∧ (s.aptBase p + o) % stepMin p = 0 ∧ data.length % stepMin p = 0 ∧ portSize s.part p < s.aptBase p + o +
      data.length) ∧
    (∃ (s : State) (p : Nat) (o : Nat) (data : List Nat), Ready s ∧ aptOk s.part p o data.length = true ∧ s.portClosed p =
      true) ∧
    (∃ (s : State) (p : Nat) (o : Nat) (data : List Nat), aptOk s.part p o data.length = false) ∧
    (∃ (s : State) (p : Nat) (o : Nat) (n : Nat), Ready s ∧ aptOk s.part p o n = true ∧ s.portClosed p = false) ∧
    (∃ (s : State) (p : Nat) (o : Nat) (n : Nat), Ready s ∧ aptOk s.part p o n = true ∧ s.portClosed p = true) ∧
    (∃ (s : State) (p : Nat) (o : Nat) (n : Nat), aptOk s.part p o n = false) ∧
    (∃ (s : State) (q : Nat) (r : DescRun), Executes s q 18 false r ∧ dUnit r.desc ≤ 102 ∧ dscBits r.desc 24 1 7 = 0 ∧
      dscZeroFrom r.desc 25 = true ∧ dAddr r.desc % stepMin (dUnit r.desc) = 0 ∧ dsc r.desc 20 4 % stepMin (dUnit r.desc)
      = 0 ∧ portPresent s.part (dUnit r.desc) = true ∧ ((dmaUnits (dUnit r.desc) (dsc r.desc 20 4) (max 1 (dLen
      r.desc))).any (fun u => decide (u < 54) && !unitPresent s.part u)) = false ∧ dLen r.desc ≠ 0 ∧ dLen r.desc % stepMin
      (dUnit r.desc) = 0 ∧ dsc r.desc 20 4 + dLen r.desc ≤ portSize s.part (dUnit r.desc) ∧ r.ownsAll (dmaUnits (dUnit
      r.desc) (dsc r.desc 20 4) (dLen r.desc)) = true ∧ (dscBits r.desc 24 0 1 = 1 ∨ portReadOnly (dUnit r.desc) = false)
      ∧ s.portClosed (dUnit r.desc) = false) ∧
    (∃ (s : State) (q : Nat) (r : DescRun), Executes s q 18 false r ∧ (102 < dUnit r.desc ∨ dscBits r.desc 24 1 7 ≠ 0 ∨
      dscZeroFrom r.desc 25 = false ∨ dAddr r.desc % stepMin (dUnit r.desc) ≠ 0 ∨ dsc r.desc 20 4 % stepMin (dUnit r.desc)
      ≠ 0)) ∧
    (∃ (s : State) (q : Nat) (r : DescRun), Executes s q 18 false r ∧ dUnit r.desc ≤ 102 ∧ dscBits r.desc 24 1 7 = 0 ∧
      dscZeroFrom r.desc 25 = true ∧ dAddr r.desc % stepMin (dUnit r.desc) = 0 ∧ dsc r.desc 20 4 % stepMin (dUnit r.desc)
      = 0 ∧ (portPresent s.part (dUnit r.desc) = false ∨ ((dmaUnits (dUnit r.desc) (dsc r.desc 20 4) (max 1 (dLen
      r.desc))).any (fun u => decide (u < 54) && !unitPresent s.part u)) = true)) ∧
    (∃ (s : State) (q : Nat) (r : DescRun), Executes s q 18 false r ∧ dUnit r.desc ≤ 102 ∧ dscBits r.desc 24 1 7 = 0 ∧
      dscZeroFrom r.desc 25 = true ∧ dAddr r.desc % stepMin (dUnit r.desc) = 0 ∧ dsc r.desc 20 4 % stepMin (dUnit r.desc)
      = 0 ∧ portPresent s.part (dUnit r.desc) = true ∧ ((dmaUnits (dUnit r.desc) (dsc r.desc 20 4) (max 1 (dLen
      r.desc))).any (fun u => decide (u < 54) && !unitPresent s.part u)) = false ∧ (dLen r.desc = 0 ∨ dLen r.desc %
      stepMin (dUnit r.desc) ≠ 0)) ∧
    (∃ (s : State) (q : Nat) (r : DescRun), Executes s q 18 false r ∧ dUnit r.desc ≤ 102 ∧ dscBits r.desc 24 1 7 = 0 ∧
      dscZeroFrom r.desc 25 = true ∧ dAddr r.desc % stepMin (dUnit r.desc) = 0 ∧ dsc r.desc 20 4 % stepMin (dUnit r.desc)
      = 0 ∧ portPresent s.part (dUnit r.desc) = true ∧ ((dmaUnits (dUnit r.desc) (dsc r.desc 20 4) (max 1 (dLen
      r.desc))).any (fun u => decide (u < 54) && !unitPresent s.part u)) = false ∧ dLen r.desc ≠ 0 ∧ dLen r.desc % stepMin
      (dUnit r.desc) = 0 ∧ portSize s.part (dUnit r.desc) < dsc r.desc 20 4 + dLen r.desc) ∧
    (∃ (s : State) (q : Nat) (r : DescRun), Executes s q 18 false r ∧ dUnit r.desc ≤ 102 ∧ dscBits r.desc 24 1 7 = 0 ∧
      dscZeroFrom r.desc 25 = true ∧ dAddr r.desc % stepMin (dUnit r.desc) = 0 ∧ dsc r.desc 20 4 % stepMin (dUnit r.desc)
      = 0 ∧ portPresent s.part (dUnit r.desc) = true ∧ ((dmaUnits (dUnit r.desc) (dsc r.desc 20 4) (max 1 (dLen
      r.desc))).any (fun u => decide (u < 54) && !unitPresent s.part u)) = false ∧ dLen r.desc ≠ 0 ∧ dLen r.desc % stepMin
      (dUnit r.desc) = 0 ∧ dsc r.desc 20 4 + dLen r.desc ≤ portSize s.part (dUnit r.desc) ∧ r.ownsAll (dmaUnits (dUnit
      r.desc) (dsc r.desc 20 4) (dLen r.desc)) = false) ∧
    (∃ (s : State) (q : Nat) (r : DescRun), Executes s q 18 false r ∧ dUnit r.desc ≤ 102 ∧ dscBits r.desc 24 1 7 = 0 ∧
      dscZeroFrom r.desc 25 = true ∧ dAddr r.desc % stepMin (dUnit r.desc) = 0 ∧ dsc r.desc 20 4 % stepMin (dUnit r.desc)
      = 0 ∧ portPresent s.part (dUnit r.desc) = true ∧ ((dmaUnits (dUnit r.desc) (dsc r.desc 20 4) (max 1 (dLen
      r.desc))).any (fun u => decide (u < 54) && !unitPresent s.part u)) = false ∧ dLen r.desc ≠ 0 ∧ dLen r.desc % stepMin
      (dUnit r.desc) = 0 ∧ dsc r.desc 20 4 + dLen r.desc ≤ portSize s.part (dUnit r.desc) ∧ r.ownsAll (dmaUnits (dUnit
      r.desc) (dsc r.desc 20 4) (dLen r.desc)) = true ∧ dscBits r.desc 24 0 1 = 0 ∧ portReadOnly (dUnit r.desc) = true) ∧
    (∃ (s : State) (q : Nat) (r : DescRun), Executes s q 18 false r ∧ dUnit r.desc ≤ 102 ∧ dscBits r.desc 24 1 7 = 0 ∧
      dscZeroFrom r.desc 25 = true ∧ dAddr r.desc % stepMin (dUnit r.desc) = 0 ∧ dsc r.desc 20 4 % stepMin (dUnit r.desc)
      = 0 ∧ portPresent s.part (dUnit r.desc) = true ∧ ((dmaUnits (dUnit r.desc) (dsc r.desc 20 4) (max 1 (dLen
      r.desc))).any (fun u => decide (u < 54) && !unitPresent s.part u)) = false ∧ dLen r.desc ≠ 0 ∧ dLen r.desc % stepMin
      (dUnit r.desc) = 0 ∧ dsc r.desc 20 4 + dLen r.desc ≤ portSize s.part (dUnit r.desc) ∧ r.ownsAll (dmaUnits (dUnit
      r.desc) (dsc r.desc 20 4) (dLen r.desc)) = true ∧ (dscBits r.desc 24 0 1 = 1 ∨ portReadOnly (dUnit r.desc) = false)
      ∧ s.portClosed (dUnit r.desc) = true) ∧
    (∃ (s : State) (q : Nat) (r : DescRun) (x : PortDmaX), s.awake = true ∧ Executes s q 18 true r ∧ dUnit r.desc ≤ 102 ∧
      (s.portX (dUnit r.desc)).dma = some x ∧ x.did = r.did ∧ x.toHost = true ∧ stepMin (dUnit r.desc) < x.left) ∧
    (∃ (s : State) (q : Nat) (r : DescRun) (x : PortDmaX), s.awake = true ∧ Executes s q 18 true r ∧ dUnit r.desc ≤ 102 ∧
      (s.portX (dUnit r.desc)).dma = some x ∧ x.did = r.did ∧ x.toHost = true ∧ x.left = stepMin (dUnit r.desc)) ∧
    (∃ (s : State) (q : Nat) (data : List Nat) (r : DescRun) (x : PortDmaX), s.awake = true ∧ Executes s q 18 true r ∧
      dUnit r.desc ≤ 102 ∧ (s.portX (dUnit r.desc)).dma = some x ∧ x.did = r.did ∧ x.toHost = false ∧ stepMin (dUnit
      r.desc) < x.left ∧ data.length = stepMin (dUnit r.desc)) ∧
    (∃ (s : State) (q : Nat) (data : List Nat) (r : DescRun) (x : PortDmaX), s.awake = true ∧ Executes s q 18 true r ∧
      dUnit r.desc = 102 ∧ (s.portX 102).dma = some x ∧ x.did = r.did ∧ x.toHost = false ∧ x.left = stepMin 102 ∧
      x.dropped = 0 ∧ data.length = stepMin 102) ∧
    (∃ (s : State) (q : Nat) (data : List Nat) (r : DescRun) (x : PortDmaX), s.awake = true ∧ Executes s q 18 true r ∧
      dUnit r.desc < 32 ∧ s.hallOk (dUnit r.desc) = true ∧ (s.portX (dUnit r.desc)).dma = some x ∧ x.did = r.did ∧
      x.toHost = false ∧ x.left = 16 ∧ data.length = 16 ∧ ((List.range 16).all fun i => s.fltOpen (dUnit r.desc) (x.addr +
      i)) = false) ∧
    (∃ (s : State) (q : Nat) (r : DescRun) (x : PortDmaX), s.awake = true ∧ Executes s q 18 true r ∧ dUnit r.desc ≤ 102 ∧
      (s.portX (dUnit r.desc)).dma = some x ∧ x.did = r.did ∧ x.toHost = false) ∧
    (∃ (s : State) (q : Nat) (r : DescRun), Executes s q 18 true r ∧ ((s.portX (dUnit r.desc)).dma.map (·.did)) ≠ some
      r.did) :=
  ⟨
    ⟨({ ready with ports := [] } : State).p (F.PORT_CTL.STEP 102) 2, (102 : Nat), (2 : Nat), by decide +kernel⟩,
    ⟨({ ready with ports := [] } : State).p (F.PORT_CTL.STEP 100) 0, (100 : Nat), (1 : Nat), by decide +kernel⟩,
    ⟨(({ ready with ports := [] } : State).p (F.PORT_CTL.STEP 36) 1).p (F.PORT_ADDR.ADDR 36) 0x80000, (36 : Nat), (1 :
      Nat), by decide +kernel⟩,
    ⟨((({ ready with ports := [] } : State).p (F.PORT_CTL.STEP 102) 2).p (F.PORT_ADDR.ADDR 102) 0x7FFFFFF0).setPortX 102
      { stage := [(2, 0x01020304)] }, (3 : Nat), by decide +kernel⟩,
    ⟨((({ ready with ports := [] } : State).p (F.PORT_CTL.STEP 36) 1).p (F.PORT_ADDR.ADDR 36) 0x7FFF8), (36 : Nat), (1 :
      Nat), by decide +kernel⟩,
    ⟨ready.setPortX 102
      { dma := some { did := 5, toHost := true, host := 0x1000, addr := 0x7FFFFF80, left := 64, moved := 64 } }, (102 :
      Nat), (3 : Nat), by decide +kernel⟩,
    ⟨({ ready with ports := [] } : State), (127 : Nat), by decide +kernel⟩,
    ⟨((({ ready with ports := [] } : State).p (F.PORT_CTL.STEP 102) 2).p (F.PORT_ADDR.ADDR 102) 0x7FFFFFF0).wr
      (R.PORT_DATA 102 3) 7#32, (102 : Nat), (3 : Nat), by decide +kernel⟩,
    ⟨((({ ready with ports := [] } : State).p (F.PORT_CTL.STEP 102) 2).p (F.PORT_ADDR.ADDR 102) 0x7FFFFFF0).wrMem 102
      0x7FFFFFF0 0x89ABCDEF 4, (102 : Nat), by decide +kernel⟩,
    ⟨(({ ready with ports := [] } : State).p (F.PORT_CTL.STEP 36) 1).p (F.PORT_ADDR.ADDR 36) 0x80000, (36 : Nat), (0 :
      Nat), by decide +kernel⟩,
    ⟨ready.setPortX 102
      { dma := some { did := 5, toHost := true, host := 0x1000, addr := 0x7FFFFF80, left := 64, moved := 64 } }, (102 :
      Nat), (0 : Nat), by decide +kernel⟩,
    ⟨({ ready with ports := [] } : State), (127 : Nat), by decide +kernel⟩,
    ⟨(({ ready with ports := [] } : State).p (F.PORT_CTL.STEP 102) 2).setPortX 102 { stage := [(1, 7)] }, (102 : Nat),
      by decide +kernel⟩,
    ⟨ready.setPortX 102
      { dma := some { did := 5, toHost := true, host := 0x1000, addr := 0x7FFFFF80, left := 64, moved := 64 } }, (102 :
      Nat), by decide +kernel⟩,
    ⟨((({ ready with ports := [] } : State).p (F.PORT_CTL.STEP 102) 0).p (F.PORT_ADDR.ADDR 102) 4).setPortX 102
      { stage := [(1, 7)] }, (102 : Nat), (2#32 : Word), by decide +kernel⟩,
    ⟨((({ ready with ports := [] } : State).p (F.PORT_CTL.STEP 102) 2).p (F.PORT_ADDR.ADDR 102) 16).setPortX 102
      { stage := [(1, 7)] }, (102 : Nat), (2#32 : Word), by decide +kernel⟩,
    ⟨({ ready with ports := [] } : State), (102 : Nat), (3#32 : Word), by decide +kernel⟩,
    ⟨ready.setPortX 102
      { dma := some { did := 5, toHost := true, host := 0x1000, addr := 0x7FFFFF80, left := 64, moved := 64 } }, (102 :
      Nat), by decide +kernel⟩,
    ⟨({ ready with ports := [] } : State), (102 : Nat), by decide +kernel⟩,
    ⟨ready.setPortX 102
      { dma := some { did := 5, toHost := true, host := 0x1000, addr := 0x7FFFFF80, left := 64, moved := 64 } }, (102 :
      Nat), by decide +kernel⟩,
    ⟨({ ready with ports := [] } : State).p (F.PORT_APT.BASE 102) 0x7F800, (0x7FFFF0 : Nat), ([1, 2, 3, 4, 5, 6, 7, 8, 9,
      10, 11, 12, 13, 14, 15, 0x110] : List Nat), by decide +kernel⟩,
    ⟨({ ready with ports := [] } : State).p (F.PORT_APT.BASE 99) 0, (3 : Nat), (64 : Nat), (List.replicate 64 1 : List
      Nat), by decide +kernel⟩,
    ⟨(({ ready with ports := [] } : State).p (F.PORT_APT.BASE 31) 0xFF80).setFlt 31 4095
      { st := 1, opened := true, start := 0x3FFFE, len := 2 }, (31 : Nat), (0x7FFF0 : Nat), (List.replicate 16 0x107 :
      List Nat), by decide +kernel⟩,
    ⟨(({ ready with ports := [] } : State).p (F.PORT_APT.BASE 31) 0xFF80).setFlt 31 4095
      { st := 1, opened := true, start := 0x3FFFE, len := 1 }, (31 : Nat), (0x7FFF0 : Nat), (List.replicate 16 0x107 :
      List Nat), by decide +kernel⟩,
    ⟨((({ ready with ports := [] } : State)).p (F.PORT_APT.BASE 63) 0).p (F.STAIR_STAT.SEALED 31) 0xFFFF, (31 : Nat),
      (0x7FFF8 : Nat), (List.replicate 8 0x107 : List Nat), by decide +kernel⟩,
    ⟨((({ ready with ports := [] } : State).p (F.PORT_APT.BASE 63) 0).p (F.ALC_STATE.STATE 31 95) 3).setAlc 31 95
      { ctx := { pc := 0xFFFF } }, (31 : Nat), (0x7FFF8 : Nat), (List.replicate 8 0x107 : List Nat), by decide +kernel⟩,
    ⟨(({ ready with ports := [] } : State).setHse 31 {}).p (F.PORT_APT.BASE 95) 0, (31 : Nat), (8188 : Nat),
      (List.replicate 4 0x107 : List Nat), by decide +kernel⟩,
    ⟨(({ ready with ports := [] } : State).setHse 31 {}).p (F.PORT_APT.BASE 95) 0, (31 : Nat), (8192 : Nat),
      (List.replicate 4 0x107 : List Nat), by decide +kernel⟩,
    ⟨({ ready with ports := [] } : State).p (F.PORT_APT.BASE 101) 0, (0xBFFFC : Nat), ([1, 2, 3, 4] : List Nat),
      by decide +kernel⟩,
    ⟨({ ready with ports := [] } : State).p (F.PORT_APT.BASE 100) 0, (0xFFFFC : Nat), ([1, 2, 3, 4] : List Nat),
      by decide +kernel⟩,
    ⟨({ ready with ports := [] } : State), (31 : Nat), (8 : Nat), (List.replicate 16 0 : List Nat), by decide +kernel⟩,
    ⟨({ ready with ports := [] } : State).p (F.PORT_APT.BASE 100) 0xFF, (100 : Nat), (4092 : Nat), (List.replicate 8 1 :
      List Nat), by decide +kernel⟩,
    ⟨ready.setPortX 102
      { dma := some { did := 5, toHost := true, host := 0x1000, addr := 0x7FFFFF80, left := 64, moved := 64 } }, (102 :
      Nat), (0 : Nat), ([1, 2, 3, 4] : List Nat), by decide +kernel⟩,
    ⟨({ ready with ports := [] } : State), (103 : Nat), (0 : Nat), ([1, 2, 3, 4] : List Nat), by decide +kernel⟩,
    ⟨({ ready with ports := [] } : State).p (F.PORT_APT.BASE 102) 0x7F800, (102 : Nat), (0x7FFFF0 : Nat), (16 : Nat),
      by decide +kernel⟩,
    ⟨ready.setPortX 102
      { dma := some { did := 5, toHost := true, host := 0x1000, addr := 0x7FFFFF80, left := 64, moved := 64 } }, (102 :
      Nat), (0 : Nat), (4 : Nat), by decide +kernel⟩,
    ⟨({ ready with ports := [] } : State), (103 : Nat), (0 : Nat), (4 : Nat), by decide +kernel⟩,
    ⟨(({ ready with ports := [] } : State)).setQueue 9
      { run := some ⟨5, 7, dk [(0, 16, 18), (24, 8, 102), (64, 64, 0x1000), (128, 32, 128), (160, 32, 0x7FFFFF80), (192,
          1, 1)], false, 0, 0⟩ }, (9 : Nat), (⟨5, 7, dk [(0, 16, 18), (24, 8, 102), (64, 64, 0x1000), (128, 32, 128),
      (160, 32, 0x7FFFFF80), (192, 1, 1)], false, 0, 0⟩ : DescRun), by decide +kernel⟩,
    ⟨(({ ready with ports := [] } : State)).setQueue 9
      { run := some ⟨5, 7, dk [(0, 16, 18), (24, 8, 102), (64, 64, 4096), (128, 32, 128), (160, 32, 2147483520), (192, 1,
          1), (193, 1, 1)], false, 0, 0⟩ }, (9 : Nat), (⟨5, 7, dk [(0, 16, 18), (24, 8, 102), (64, 64, 4096), (128, 32,
      128), (160, 32, 2147483520), (192, 1, 1), (193, 1, 1)], false, 0, 0⟩ : DescRun), by decide +kernel⟩,
    ⟨(({ ready with ports := [], part := .s } : State)).setQueue 9
      { run := some ⟨5, 7, dk [(0, 16, 18), (24, 8, 52), (64, 64, 4096), (128, 32, 8), (160, 32, 0), (192, 1, 1)], false,
          0, 0⟩ }, (9 : Nat), (⟨5, 7, dk [(0, 16, 18), (24, 8, 52), (64, 64, 4096), (128, 32, 8), (160, 32, 0), (192, 1,
      1)], false, 0, 0⟩ : DescRun), by decide +kernel⟩,
    ⟨(({ ready with ports := [] } : State)).setQueue 9
      { run := some ⟨5, 7, dk [(0, 16, 18), (24, 8, 102), (64, 64, 4096), (128, 32, 0), (160, 32, 2147483520), (192, 1,
          1)], false, 0, 0⟩ }, (9 : Nat), (⟨5, 7, dk [(0, 16, 18), (24, 8, 102), (64, 64, 4096), (128, 32, 0), (160, 32,
      2147483520), (192, 1, 1)], false, 0, 0⟩ : DescRun), by decide +kernel⟩,
    ⟨(({ ready with ports := [] } : State)).setQueue 9
      { run := some ⟨5, 7, dk [(0, 16, 18), (24, 8, 102), (64, 64, 4096), (128, 32, 132), (160, 32, 2147483520), (192, 1,
          1)], false, 0, 0⟩ }, (9 : Nat), (⟨5, 7, dk [(0, 16, 18), (24, 8, 102), (64, 64, 4096), (128, 32, 132), (160, 32,
      2147483520), (192, 1, 1)], false, 0, 0⟩ : DescRun), by decide +kernel⟩,
    ⟨(({ ready with ports := [] } : State)).setQueue 9
      { run := some ⟨5, 7, dk [(0, 16, 18), (24, 8, 102), (64, 64, 4096), (128, 32, 128), (160, 32, 2147483520), (192, 1,
          1)], false, 3, 15⟩ }, (9 : Nat), (⟨5, 7, dk [(0, 16, 18), (24, 8, 102), (64, 64, 4096), (128, 32, 128), (160,
      32, 2147483520), (192, 1, 1)], false, 3, 15⟩ : DescRun), by decide +kernel⟩,
    ⟨(({ ready with ports := [] } : State)).setQueue 9
      { run := some ⟨5, 7, dk [(0, 16, 18), (24, 8, 101), (64, 64, 4096), (128, 32, 128), (160, 32, 0), (192, 1, 0)],
          false, 0, 0⟩ }, (9 : Nat), (⟨5, 7, dk [(0, 16, 18), (24, 8, 101), (64, 64, 4096), (128, 32, 128), (160, 32, 0),
      (192, 1, 0)], false, 0, 0⟩ : DescRun), by decide +kernel⟩,
    ⟨(ready.setPortX 102
      { dma := some { did := 5, toHost := true, host := 0x1000, addr := 0x7FFFFF80, left := 64, moved := 64 } }).setQueue
      9 { run := some ⟨5, 7, dk [(0, 16, 18), (24, 8, 102), (64, 64, 0x1000), (128, 32, 128), (160, 32, 0x7FFFFF80), (192,
            1, 1)], false, 0, 0⟩ }, (9 : Nat), (⟨5, 7, dk [(0, 16, 18), (24, 8, 102), (64, 64, 0x1000), (128, 32, 128),
      (160, 32, 0x7FFFFF80), (192, 1, 1)], false, 0, 0⟩ : DescRun), by decide +kernel⟩,
    ⟨(run_ ready 9 true (dk [(0, 16, 18), (24, 8, 102), (64, 64, 0x1000), (128, 32, 128), (160, 32, 0x7FFFFF80), (192, 1,
      1)])).setPortX 102
      { dma := some { did := 5, toHost := true, host := 0x1000, addr := 0x7FFFFF80, left := 128, moved := 64 } }, (9 :
      Nat), (⟨5, 7, dk [(0, 16, 18), (24, 8, 102), (64, 64, 0x1000), (128, 32, 128), (160, 32, 0x7FFFFF80), (192, 1, 1)],
      true, 0, 0⟩ : DescRun), ({ did := 5, toHost := true, host := 0x1000, addr := 0x7FFFFF80, left := 128, moved := 64 }
      : PortDmaX), by decide +kernel⟩,
    ⟨(run_ ready 9 true (dk [(0, 16, 18), (24, 8, 102), (64, 64, 0x1000), (128, 32, 128), (160, 32, 0x7FFFFF80), (192, 1,
      1)])).setPortX 102
      { dma := some { did := 5, toHost := true, host := 0x1000, addr := 0x7FFFFF80, left := 4, moved := 64 } }, (9 : Nat),
      (⟨5, 7, dk [(0, 16, 18), (24, 8, 102), (64, 64, 0x1000), (128, 32, 128), (160, 32, 0x7FFFFF80), (192, 1, 1)], true,
      0, 0⟩ : DescRun), ({ did := 5, toHost := true, host := 0x1000, addr := 0x7FFFFF80, left := 4, moved := 64 } :
      PortDmaX), by decide +kernel⟩,
    ⟨(run_ ready 9 true (dk [(0, 16, 18), (24, 8, 31), (64, 64, 4096), (128, 32, 128), (160, 32, 0), (192, 1,
      0)])).setPortX 31
      { dma := some { did := 5, toHost := false, host := 0x1000, addr := 0x7FFFFF80, left := 32, moved := 64 } }, (9 :
      Nat), (List.replicate 16 7 : List Nat), (⟨5, 7, dk [(0, 16, 18), (24, 8, 31), (64, 64, 4096), (128, 32, 128), (160,
      32, 0), (192, 1, 0)], true, 0, 0⟩ : DescRun),
      ({ did := 5, toHost := false, host := 0x1000, addr := 0x7FFFFF80, left := 32, moved := 64 } : PortDmaX),
      by decide +kernel⟩,
    ⟨(run_ ready 9 true (dk [(0, 16, 18), (24, 8, 102), (64, 64, 0x1000), (128, 32, 128), (160, 32,
      0x7FFFFF80)])).setPortX 102
      { dma := some { did := 5, toHost := false, host := 0x1000, addr := 0x7FFFFF80, left := 4, moved := 64 } }, (9 :
      Nat), (List.replicate 3 7 ++ [0x1FF] : List Nat), (⟨5, 7, dk [(0, 16, 18), (24, 8, 102), (64, 64, 0x1000), (128, 32,
      128), (160, 32, 0x7FFFFF80)], true, 0, 0⟩ : DescRun),
      ({ did := 5, toHost := false, host := 0x1000, addr := 0x7FFFFF80, left := 4, moved := 64 } : PortDmaX),
      by decide +kernel⟩,
    ⟨{ ((run_ ready 9 true (dk [(0, 16, 18), (24, 8, 31), (64, 64, 4096), (128, 32, 128), (160, 32, 0), (192, 1,
         0)])).setPortX 31 { dma := some { did := 5, toHost := false, host := 0x1000, addr := 0x7FFFFF80, left := 16,
                                             moved := 64 } }) with flights := [] }, (9 : Nat), (List.replicate 16 7 : List
      Nat), (⟨5, 7, dk [(0, 16, 18), (24, 8, 31), (64, 64, 4096), (128, 32, 128), (160, 32, 0), (192, 1, 0)], true, 0, 0⟩
      : DescRun), ({ did := 5, toHost := false, host := 0x1000, addr := 0x7FFFFF80, left := 16, moved := 64 } : PortDmaX),
      by decide +kernel⟩,
    ⟨(run_ ready 9 true (dk [(0, 16, 18), (24, 8, 102), (64, 64, 0x1000), (128, 32, 128), (160, 32,
      0x7FFFFF80)])).setPortX 102
      { dma := some { did := 5, toHost := false, host := 0x1000, addr := 0x7FFFFF80, left := 64, moved := 64 } }, (9 :
      Nat), (⟨5, 7, dk [(0, 16, 18), (24, 8, 102), (64, 64, 0x1000), (128, 32, 128), (160, 32, 0x7FFFFF80)], true, 0, 0⟩ :
      DescRun), ({ did := 5, toHost := false, host := 0x1000, addr := 0x7FFFFF80, left := 64, moved := 64 } : PortDmaX),
      by decide +kernel⟩,
    ⟨run_ ({ ready with ports := [] } : State) 9 true (dk [(0, 16, 18), (24, 8, 102), (64, 64, 0x1000), (128, 32, 128),
      (160, 32, 0x7FFFFF80)]), (9 : Nat), (⟨5, 7, dk [(0, 16, 18), (24, 8, 102), (64, 64, 0x1000), (128, 32, 128), (160,
      32, 0x7FFFFF80)], true, 0, 0⟩ : DescRun), by decide +kernel⟩⟩

/-- States and operands that meet the hypotheses of JournalControl, clause by clause. -/
theorem test_meets_journal_control_1 :
    (∃ (s : State) (q : Nat) (r : DescRun), Executes s q 19 false r ∧ (dUnit r.desc ≠ 0 ∨ dscBits r.desc 20 2 6 ≠ 0 ∨
      dscBits r.desc 21 3 5 ≠ 0 ∨ dscZeroFrom r.desc 22 = false ∨ (dscBits r.desc 20 0 2 ≠ 2 ∧ dscBits r.desc 21 2 1 = 1)
      ∨ (dscBits r.desc 20 0 2 ≠ 0 ∧ dscBits r.desc 21 0 2 ≠ 0) ∨ (dscBits r.desc 20 0 2 = 2 ∧ (dAddr r.desc % 64 ≠ 0 ∨
      dLen r.desc = 0 ∨ dLen r.desc % 32 ≠ 0)) ∨ (dscBits r.desc 20 0 2 ≠ 2 ∧ (dAddr r.desc ≠ 0 ∨ dLen r.desc ≠ 0)))) ∧
    (∃ (s : State) (q : Nat) (r : DescRun), Executes s q 19 false r ∧ dUnit r.desc = 0 ∧ dscBits r.desc 20 0 2 = 0 ∧
      dscBits r.desc 20 2 6 = 0 ∧ dscBits r.desc 21 3 5 = 0 ∧ dscZeroFrom r.desc 22 = true ∧ dscBits r.desc 21 2 1 = 0 ∧
      dAddr r.desc = 0 ∧ dLen r.desc = 0 ∧ s.recording = false) ∧
    (∃ (s : State) (q : Nat) (r : DescRun), Executes s q 19 false r ∧ dUnit r.desc = 0 ∧ dscBits r.desc 20 0 2 = 0 ∧
      dscBits r.desc 20 2 6 = 0 ∧ dscBits r.desc 21 3 5 = 0 ∧ dscZeroFrom r.desc 22 = true ∧ dscBits r.desc 21 2 1 = 0 ∧
      dAddr r.desc = 0 ∧ dLen r.desc = 0 ∧ s.recording = true) ∧
    (∃ (s : State) (q : Nat) (r : DescRun), Executes s q 19 false r ∧ dUnit r.desc = 0 ∧ dscBits r.desc 20 0 2 = 1 ∧
      dscBits r.desc 20 2 6 = 0 ∧ dscBits r.desc 21 3 5 = 0 ∧ dscZeroFrom r.desc 22 = true ∧ dscBits r.desc 21 0 3 = 0 ∧
      dAddr r.desc = 0 ∧ dLen r.desc = 0 ∧ s.recording = true ∧ s.jnl.defer = []) ∧
    (∃ (s : State) (q : Nat) (r : DescRun), Executes s q 19 false r ∧ dUnit r.desc = 0 ∧ dscBits r.desc 20 0 2 = 1 ∧
      dscBits r.desc 20 2 6 = 0 ∧ dscBits r.desc 21 3 5 = 0 ∧ dscZeroFrom r.desc 22 = true ∧ dscBits r.desc 21 0 3 = 0 ∧
      dAddr r.desc = 0 ∧ dLen r.desc = 0 ∧ s.recording = false) :=
  ⟨
    ⟨run_ (ready) 9 false (dk [(0, 16, 19), (160, 2, 0), (170, 1, 1)]), (9 : Nat), (⟨5, 7, dk [(0, 16, 19), (160, 2, 0),
      (170, 1, 1)], false, 0, 0⟩ : DescRun), by decide +kernel⟩,
    ⟨run_ (ready.p F.JNL_STAT.REC 0) 9 false (dk [(0, 16, 19), (160, 2, 0), (168, 2, 3)]), (9 : Nat), (⟨5, 7, dk [(0, 16,
      19), (160, 2, 0), (168, 2, 3)], false, 0, 0⟩ : DescRun), by decide +kernel⟩,
    ⟨run_ (ready.p F.JNL_STAT.REC 1) 9 false (dk [(0, 16, 19), (160, 2, 0), (168, 2, 3)]), (9 : Nat), (⟨5, 7, dk [(0, 16,
      19), (160, 2, 0), (168, 2, 3)], false, 0, 0⟩ : DescRun), by decide +kernel⟩,
    ⟨run_ ({ ready.p F.JNL_STAT.REC 1 with jnl := { markQ := [4] } }) 9 false (dk [(0, 16, 19), (160, 2, 1)]), (9 : Nat),
      (⟨5, 7, dk [(0, 16, 19), (160, 2, 1)], false, 0, 0⟩ : DescRun), by decide +kernel⟩,
    ⟨run_ (ready.p F.JNL_STAT.REC 0) 9 false (dk [(0, 16, 19), (160, 2, 1)]), (9 : Nat), (⟨5, 7, dk [(0, 16, 19), (160, 2,
      1)], false, 0, 0⟩ : DescRun), by decide +kernel⟩⟩

/-- States and operands that meet the hypotheses of JournalControl, clause by clause. -/
theorem test_meets_journal_control_2 :
    (∃ (s : State) (q : Nat) (r : DescRun), Executes s q 19 false r ∧ dUnit r.desc = 0 ∧ dscBits r.desc 20 0 2 = 2 ∧
      dscBits r.desc 20 2 6 = 0 ∧ dscBits r.desc 21 3 5 = 0 ∧ dscZeroFrom r.desc 22 = true ∧ dscBits r.desc 21 0 2 = 0 ∧
      dAddr r.desc % 64 = 0 ∧ dLen r.desc ≠ 0 ∧ dLen r.desc % 32 = 0 ∧ (s.recording = true ∨ s.replaying = true)) ∧
    (∃ (s : State) (q : Nat) (r : DescRun), Executes s q 19 false r ∧ dUnit r.desc = 0 ∧ dscBits r.desc 20 0 2 = 2 ∧
      dscBits r.desc 20 2 6 = 0 ∧ dscBits r.desc 21 3 5 = 0 ∧ dscZeroFrom r.desc 22 = true ∧ dscBits r.desc 21 0 2 = 0 ∧
      dAddr r.desc % 64 = 0 ∧ dLen r.desc ≠ 0 ∧ dLen r.desc % 32 = 0 ∧ s.recording = false ∧ s.replaying = false ∧
      s.anyRun = true) ∧
    (∃ (s : State) (q : Nat) (ok : Bool) (head : List (BitVec 256)) (r : DescRun), Executes s q 19 false r ∧ dUnit r.desc
      = 0 ∧ dscBits r.desc 20 0 2 = 2 ∧ dscBits r.desc 20 2 6 = 0 ∧ dscBits r.desc 21 3 5 = 0 ∧ dscZeroFrom r.desc 22 =
      true ∧ dscBits r.desc 21 0 2 = 0 ∧ dAddr r.desc % 64 = 0 ∧ dLen r.desc ≠ 0 ∧ dLen r.desc % 32 = 0 ∧ s.recording =
      false ∧ s.replaying = false ∧ s.anyRun = false ∧ ok = true ∧ configHead head = none) ∧
    (∃ (s : State) (q : Nat) (ok : Bool) (head : List (BitVec 256)) (uid : BitVec 64) (r : DescRun), Executes s q 19 false
      r ∧ dUnit r.desc = 0 ∧ dscBits r.desc 20 0 2 = 2 ∧ dscBits r.desc 20 2 6 = 0 ∧ dscBits r.desc 21 3 5 = 0 ∧
      dscZeroFrom r.desc 22 = true ∧ dscBits r.desc 21 0 2 = 0 ∧ dAddr r.desc % 64 = 0 ∧ dLen r.desc ≠ 0 ∧ dLen r.desc %
      32 = 0 ∧ s.recording = false ∧ s.replaying = false ∧ s.anyRun = false ∧ ok = true ∧ (configHead head).isSome = true
      ∧ configHead head ≠ some (s.digest uid)) ∧
    (∃ (s : State) (q : Nat) (r : DescRun), Executes s q 19 false r ∧ dUnit r.desc = 0 ∧ dscBits r.desc 20 0 2 = 2 ∧
      dscBits r.desc 20 2 6 = 0 ∧ dscBits r.desc 21 3 5 = 0 ∧ dscZeroFrom r.desc 22 = true ∧ dscBits r.desc 21 0 2 = 0 ∧
      dscBits r.desc 21 2 1 = 1 ∧ dAddr r.desc % 64 = 0 ∧ dLen r.desc ≠ 0 ∧ dLen r.desc % 32 = 0 ∧ s.recording = false ∧
      s.replaying = false ∧ s.anyRun = false) :=
  ⟨
    ⟨run_ (ready.p F.JNL_STAT.REC 1 |> (fun s => s.p F.JNL_STAT.REPLAY 0)) 9 false (dk [(0, 16, 19), (160, 2, 2), (64, 64,
      0x4000), (128, 32, 4096), (170, 1, 1)]), (9 : Nat), (⟨5, 7, dk [(0, 16, 19), (160, 2, 2), (64, 64, 0x4000), (128,
      32, 4096), (170, 1, 1)], false, 0, 0⟩ : DescRun), by decide +kernel⟩,
    ⟨run_ ((((ready.p F.JNL_STAT.REC 0).p F.JNL_STAT.REPLAY 0)).p (F.ALC_STATE.STATE 31 95) 5) 9 false (dk [(0, 16, 19),
      (160, 2, 2), (64, 64, 0x4000), (128, 32, 4096)]), (9 : Nat), (⟨5, 7, dk [(0, 16, 19), (160, 2, 2), (64, 64, 0x4000),
      (128, 32, 4096)], false, 0, 0⟩ : DescRun), by decide +kernel⟩,
    ⟨run_ (ready.p F.JNL_STAT.REC 0 |> (fun s => s.p F.JNL_STAT.REPLAY 0)) 9 false (dk [(0, 16, 19), (160, 2, 2), (64, 64,
      0x4000), (128, 32, 4096)]), (9 : Nat), (true : Bool), ([0x63#256, 0x5F#256, 0x5E#256] : List (BitVec 256)), (⟨5, 7,
      dk [(0, 16, 19), (160, 2, 2), (64, 64, 0x4000), (128, 32, 4096)], false, 0, 0⟩ : DescRun), by decide +kernel⟩,
    (by
    by_cases u : ((run_ (ready.p F.JNL_STAT.REC 0 |> (fun s => s.p F.JNL_STAT.REPLAY 0)) 9 false (dk [(0, 16, 19), (160, 2, 2), (64, 64, 0x4000), (128, 32, 4096)])) : State).digest 3 = 5
    · refine ⟨run_ (ready.p F.JNL_STAT.REC 0 |> (fun s => s.p F.JNL_STAT.REPLAY 0)) 9 false (dk [(0, 16, 19), (160, 2, 2), (64, 64, 0x4000), (128, 32, 4096)]), (9 : Nat), (true : Bool), (replayHead 6 : List (BitVec 256)), (3 : BitVec 64), (⟨5, 7, dk [(0, 16, 19), (160, 2, 2), (64, 64, 0x4000), (128, 32, 4096)], false, 0, 0⟩ : DescRun), ?_, ?_, ?_, ?_, ?_, ?_, ?_, ?_, ?_, ?_, ?_, ?_, ?_, ?_, ?_, ?_⟩ <;> first | decide +kernel | (rw [u]; decide +kernel)
    · refine ⟨run_ (ready.p F.JNL_STAT.REC 0 |> (fun s => s.p F.JNL_STAT.REPLAY 0)) 9 false (dk [(0, 16, 19), (160, 2, 2), (64, 64, 0x4000), (128, 32, 4096)]), (9 : Nat), (true : Bool), (replayHead 5 : List (BitVec 256)), (3 : BitVec 64), (⟨5, 7, dk [(0, 16, 19), (160, 2, 2), (64, 64, 0x4000), (128, 32, 4096)], false, 0, 0⟩ : DescRun), ?_, ?_, ?_, ?_, ?_, ?_, ?_, ?_, ?_, ?_, ?_, ?_, ?_, ?_, ?_, ?_⟩ <;> first | decide +kernel | exact fun e => u (Option.some.inj ((show configHead (replayHead 5) = some 5 by decide +kernel).symm.trans e)).symm),
    ⟨run_ (ready.p F.JNL_STAT.REC 0 |> (fun s => s.p F.JNL_STAT.REPLAY 0)) 9 false (dk [(0, 16, 19), (160, 2, 2), (64, 64,
      0x4000), (128, 32, 4096), (170, 1, 1)]), (9 : Nat), (⟨5, 7, dk [(0, 16, 19), (160, 2, 2), (64, 64, 0x4000), (128,
      32, 4096), (170, 1, 1)], false, 0, 0⟩ : DescRun), by decide +kernel⟩⟩

/-- States and operands that meet the hypotheses of JournalControl, clause by clause. -/
theorem test_meets_journal_control_3 :
    (∃ (s : State) (q : Nat) (r : DescRun), Executes s q 19 false r ∧ dUnit r.desc = 0 ∧ dscBits r.desc 20 0 2 = 2 ∧
      dscBits r.desc 20 2 6 = 0 ∧ dscBits r.desc 21 3 5 = 0 ∧ dscZeroFrom r.desc 22 = true ∧ dscBits r.desc 21 0 2 = 0 ∧
      dscBits r.desc 21 2 1 = 0 ∧ dAddr r.desc % 64 = 0 ∧ dLen r.desc ≠ 0 ∧ dLen r.desc % 32 = 0 ∧ s.recording = false ∧
      s.replaying = false ∧ s.anyRun = false ∧ r.did ∉ s.unitDids) ∧
    (∃ (s : State) (q : Nat) (r : DescRun), Executes s q 19 false r ∧ dUnit r.desc = 0 ∧ dscBits r.desc 20 0 2 = 2 ∧
      dscBits r.desc 20 2 6 = 0 ∧ dscBits r.desc 21 3 5 = 0 ∧ dscZeroFrom r.desc 22 = true ∧ dscBits r.desc 21 0 2 = 0 ∧
      dAddr r.desc % 64 = 0 ∧ dLen r.desc ≠ 0 ∧ dLen r.desc % 32 = 0 ∧ s.recording = false ∧ s.replaying = false ∧
      s.anyRun = false) ∧
    (∃ (s : State) (q : Nat) (r : DescRun), Executes s q 19 false r ∧ dUnit r.desc = 0 ∧ dscBits r.desc 20 0 2 = 3 ∧
      dscBits r.desc 20 2 6 = 0 ∧ dscBits r.desc 21 3 5 = 0 ∧ dscZeroFrom r.desc 22 = true ∧ dscBits r.desc 21 0 3 = 0 ∧
      dAddr r.desc = 0 ∧ dLen r.desc = 0 ∧ s.replaying = false) ∧
    (∃ (s : State) (q : Nat) (r : DescRun) (x : ReplayX) (q2 : Nat) (r2 : DescRun), Executes s q 19 false r ∧ dUnit r.desc
      = 0 ∧ dscBits r.desc 20 0 2 = 3 ∧ dscBits r.desc 20 2 6 = 0 ∧ dscBits r.desc 21 3 5 = 0 ∧ dscZeroFrom r.desc 22 =
      true ∧ dscBits r.desc 21 0 3 = 0 ∧ dAddr r.desc = 0 ∧ dLen r.desc = 0 ∧ s.replaying = true ∧ s.rpl = some x ∧
      s.queueOf x.did = some q2 ∧ (s.queue q2).run = some r2 ∧ q2 ≠ q ∧ x.did ≠ r.did ∧ x.did ∉ s.unitDids ∧ r.did ∉
      s.unitDids) :=
  ⟨
    ⟨run_ (ready.p F.JNL_STAT.REC 0 |> (fun s => s.p F.JNL_STAT.REPLAY 0)) 9 false (dk [(0, 16, 19), (160, 2, 2), (64, 64,
      0x4000), (128, 32, 4096)]), (9 : Nat), (⟨5, 7, dk [(0, 16, 19), (160, 2, 2), (64, 64, 0x4000), (128, 32, 4096)],
      false, 0, 0⟩ : DescRun), by decide +kernel⟩,
    ⟨run_ (ready.p F.JNL_STAT.REC 0 |> (fun s => s.p F.JNL_STAT.REPLAY 0)) 9 false (dk [(0, 16, 19), (160, 2, 2), (64, 64,
      0x4000), (128, 32, 4096), (170, 1, 1)]), (9 : Nat), (⟨5, 7, dk [(0, 16, 19), (160, 2, 2), (64, 64, 0x4000), (128,
      32, 4096), (170, 1, 1)], false, 0, 0⟩ : DescRun), by decide +kernel⟩,
    ⟨run_ ({ ready.p F.JNL_STAT.REPLAY 0 with rpl := none }) 9 false (dk [(0, 16, 19), (160, 2, 3)]), (9 : Nat), (⟨5, 7,
      dk [(0, 16, 19), (160, 2, 3)], false, 0, 0⟩ : DescRun), by decide +kernel⟩,
    ⟨replayBy (((run_ ready 9 false (dk [(0, 16, 19), (160, 2, 3)])).setQueue 7
      { run := some ⟨6, 7, dk [(0, 16, 19), (160, 2, 2)], true, 0, 0⟩ }).p F.JNL_STAT.REPLAY 1)
      { did := 6, base := 0x4000, len := 96, pos := 64, seq := 3, diverge := 2 }, (9 : Nat), (⟨5, 7, dk [(0, 16, 19),
      (160, 2, 3)], false, 0, 0⟩ : DescRun), ({ did := 6, base := 0x4000, len := 96, pos := 64, seq := 3, diverge := 2 } :
      ReplayX), (7 : Nat), (⟨6, 7, dk [(0, 16, 19), (160, 2, 2)], true, 0, 0⟩ : DescRun), by decide +kernel⟩⟩

/-- States and operands that meet the hypotheses of JournalEngineAndReplay, clause by clause. -/
theorem test_meets_journal_engine_and_replay :
    (∃ (s : State) (rc : JRec) (rest : List JRec), s.awake = true ∧ s.jnl.fifo = rc :: rest ∧ s.jnlWaits = false ∧
      s.ringFree 4 = true ∧ s.is F.JNL_STAT.FWD = false ∧ rest.length < 2048) ∧
    (∃ (s : State), s.jnlWaits = true) ∧
    (∃ (s : State), s.awake = true ∧ s.jnl.frame ≠ [] ∧ s.linkUp (s.g F.GAL_STAT.ACTIVE) = true) ∧
    (∃ (s : State), s.jnl.frame = []) ∧
    (∃ (s : State) (port : Nat) (uid : Nat) (i : Nat) (ws : List (BitVec 256)), s.findPeer uid = some i ∧ s.linkUp port =
      true ∧ s.recording = true ∧ s.is F.JNL_STAT.AGG = true ∧ ws ≠ [] ∧ ws.length ≤ 40 ∧ s.jnl.fifo.length + ws.length ≤
      2015 ∧ s.jnl.lost = 0) ∧
    (∃ (s : State) (port : Nat) (uid : Nat) (i : Nat) (ws : List (BitVec 256)), s.findPeer uid = some i ∧ s.linkUp port =
      true ∧ s.recording = true ∧ s.is F.JNL_STAT.AGG = true ∧ ws ≠ [] ∧ ws.length ≤ 40 ∧ 2015 < s.jnl.fifo.length +
      ws.length) ∧
    (∃ (s : State) (port : Nat) (uid : Nat) (ws : List (BitVec 256)), (s.findPeer uid = none ∨ s.linkUp port = false ∨
      s.recording = false ∨ s.is F.JNL_STAT.AGG = false ∨ ws = [] ∨ 40 < ws.length)) ∧
    (∃ (s : State) (n : Nat) (dg : Nat) (rest : List (Nat × Nat)), s.awake = true ∧ s.jnl.hash = (n, dg) :: rest) ∧
    (∃ (s : State) (w : BitVec 256) (x : ReplayX) (r : JRec), s.awake = true ∧ s.rpl = some x ∧ x.pos < x.len ∧ recOf
      w.toNat = r ∧ (s.rplForeign r = true ∨ r.typ = 0x5F) ∧ r.typ ≠ 3) ∧
    (∃ (s : State) (w : BitVec 256) (x : ReplayX) (r : JRec), s.awake = true ∧ s.rpl = some x ∧ x.pos < x.len ∧ recOf
      w.toNat = r ∧ s.rplForeign r = false ∧ s.rplReady r = false ∧ r.typ ≠ 0x5F) ∧
    (∃ (s : State) (w : BitVec 256) (x : ReplayX) (r : JRec), s.awake = true ∧ s.rpl = some x ∧ x.pos < x.len ∧ recOf
      w.toNat = r ∧ s.rplForeign r = false ∧ s.rplReady r = true ∧ (s.hallOk r.hall = false ∨ x.seen.contains r.hall =
      true) ∧ r.typ ∈ [4, 5, 0x56, 0x57, 0x60, 0x61, 0x62, 0x65, 0x66]) ∧
    (∃ (s : State) (w : BitVec 256) (x : ReplayX) (r : JRec), s.awake = true ∧ s.rpl = some x ∧ x.pos < x.len ∧ recOf
      w.toNat = r ∧ s.rplForeign r = false ∧ s.rplReady r = true ∧ (s.hallOk r.hall = false ∨ x.seen.contains r.hall =
      true) ∧ r.typ = 0x50 ∧ (x.admits.find? (fun a => a.1 == r.hall)) = none) ∧
    (∃ (s : State) (w : BitVec 256) (x : ReplayX) (r : JRec), s.awake = true ∧ s.rpl = some x ∧ x.pos < x.len ∧ recOf
      w.toNat = r ∧ s.rplForeign r = false ∧ s.rplReady r = true ∧ (s.hallOk r.hall = false ∨ x.seen.contains r.hall =
      true) ∧ r.typ = 0x52) ∧
    (∃ (s : State) (w : BitVec 256) (x : ReplayX) (r : JRec), s.awake = true ∧ s.rpl = some x ∧ x.pos < x.len ∧ recOf
      w.toNat = r ∧ s.rplForeign r = false ∧ s.rplReady r = true ∧ (s.hallOk r.hall = false ∨ x.seen.contains r.hall =
      true) ∧ r.typ = 0x51 ∧ s.hallOk (r.subj / 96) = true ∧ (s.alc (r.subj / 96) (r.subj % 96)).fails + r.dat 0 4 < 2 ^
      31) ∧
    (∃ (s : State) (w : BitVec 256) (x : ReplayX) (r : JRec), s.awake = true ∧ s.rpl = some x ∧ x.pos < x.len ∧ recOf
      w.toNat = r ∧ s.rplForeign r = false ∧ s.rplReady r = true ∧ (s.hallOk r.hall = false ∨ x.seen.contains r.hall =
      true) ∧ r.typ = 0x54 ∧ r.arg = 0 ∧ r.hall < s.part.halls ∧ s.is (F.JMP_REQ.REQ r.hall) = false ∧ s.anyLive r.hall =
      true ∧ s.inWait r.hall = false) ∧
    (∃ (s : State) (w : BitVec 256) (x : ReplayX) (r : JRec), s.awake = true ∧ s.rpl = some x ∧ x.pos < x.len ∧ recOf
      w.toNat = r ∧ s.rplForeign r = false ∧ s.rplReady r = true ∧ (s.hallOk r.hall = false ∨ x.seen.contains r.hall =
      true) ∧ r.typ = 0x54 ∧ r.arg = 1 ∧ r.hall < s.part.halls ∧ s.liveBank r.hall ≠ none ∧ s.inWait r.hall = false) ∧
    (∃ (s : State) (w : BitVec 256) (x : ReplayX) (r : JRec), s.awake = true ∧ s.rpl = some x ∧ x.pos < x.len ∧ recOf
      w.toNat = r ∧ s.rplForeign r = false ∧ s.rplReady r = true ∧ (s.hallOk r.hall = false ∨ x.seen.contains r.hall =
      true) ∧ r.typ = 0x55 ∧ r.hall < s.part.halls) ∧
    (∃ (s : State) (w : BitVec 256) (x : ReplayX) (r : JRec) (y : SendReq), s.awake = true ∧ s.rpl = some x ∧ x.pos <
      x.len ∧ recOf w.toNat = r ∧ s.rplForeign r = false ∧ s.rplReady r = true ∧ (s.hallOk r.hall = false ∨
      x.seen.contains r.hall = true) ∧ r.typ = 0x58 ∧ r.hall < s.part.halls ∧ s.dryRun = false ∧ x.sends = [(r.hall, y)] ∧
      y.alc = r.subj % 96 ∧ (s.alc r.hall (r.subj % 96)).lastSend = y.seq) ∧
    (∃ (s : State) (w : BitVec 256) (x : ReplayX) (r : JRec) (y : MeasReq), s.awake = true ∧ s.rpl = some x ∧ x.pos <
      x.len ∧ recOf w.toNat = r ∧ s.rplForeign r = false ∧ s.rplReady r = true ∧ (s.hallOk r.hall = false ∨
      x.seen.contains r.hall = true) ∧ r.typ = 0x59 ∧ r.hall < s.part.halls ∧ s.dryRun = false ∧ x.meas = [y] ∧ y.hall =
      r.hall ∧ y.alc = r.subj % 96 ∧ y.ch = r.arg) ∧
    (∃ (s : State) (w : BitVec 256) (x : ReplayX) (r : JRec), s.awake = true ∧ s.rpl = some x ∧ x.pos < x.len ∧ recOf
      w.toNat = r ∧ s.rplForeign r = false ∧ s.rplReady r = true ∧ (s.hallOk r.hall = false ∨ x.seen.contains r.hall =
      true) ∧ r.typ = 0x5A ∧ r.hall < s.part.halls ∧ r.arg < 4) ∧
    (∃ (s : State) (w : BitVec 256) (x : ReplayX) (r : JRec), s.awake = true ∧ s.rpl = some x ∧ x.pos < x.len ∧ recOf
      w.toNat = r ∧ s.rplForeign r = false ∧ s.rplReady r = true ∧ (s.hallOk r.hall = false ∨ x.seen.contains r.hall =
      true) ∧ r.typ = 0x5B ∧ r.hall < s.part.halls ∧ r.arg = 1) ∧
    (∃ (s : State) (w : BitVec 256) (x : ReplayX) (r : JRec), s.awake = true ∧ s.rpl = some x ∧ x.pos < x.len ∧ recOf
      w.toNat = r ∧ s.rplForeign r = false ∧ s.rplReady r = true ∧ (s.hallOk r.hall = false ∨ x.seen.contains r.hall =
      true) ∧ r.typ = 0x5B ∧ r.hall < s.part.halls ∧ r.arg = 2) ∧
    (∃ (s : State) (w : BitVec 256) (x : ReplayX) (r : JRec), s.awake = true ∧ s.rpl = some x ∧ x.pos < x.len ∧ recOf
      w.toNat = r ∧ s.rplForeign r = false ∧ s.rplReady r = true ∧ (s.hallOk r.hall = false ∨ x.seen.contains r.hall =
      true) ∧ r.typ = 0x5B ∧ r.hall < s.part.halls ∧ r.arg ∈ [5, 7, 8]) ∧
    (∃ (s : State) (w : BitVec 256) (x : ReplayX) (r : JRec), s.awake = true ∧ s.rpl = some x ∧ x.pos < x.len ∧ recOf
      w.toNat = r ∧ s.rplForeign r = false ∧ s.rplReady r = true ∧ (s.hallOk r.hall = false ∨ x.seen.contains r.hall =
      true) ∧ r.typ = 0x5C ∧ r.hall < s.part.halls ∧ r.subj < 3 ∧ r.arg = 1 ∧ r.dat 0 1 < 8) ∧
    (∃ (s : State) (w : BitVec 256) (x : ReplayX) (r : JRec), s.awake = true ∧ s.rpl = some x ∧ x.pos < x.len ∧ recOf
      w.toNat = r ∧ s.rplForeign r = false ∧ s.rplReady r = true ∧ (s.hallOk r.hall = false ∨ x.seen.contains r.hall =
      true) ∧ r.typ = 0x5D ∧ r.arg = 0) ∧
    (∃ (s : State) (w : BitVec 256) (x : ReplayX) (r : JRec), s.awake = true ∧ s.rpl = some x ∧ x.pos < x.len ∧ recOf
      w.toNat = r ∧ s.rplForeign r = false ∧ s.rplReady r = true ∧ (s.hallOk r.hall = false ∨ x.seen.contains r.hall =
      true) ∧ r.typ = 0x5E ∧ r.arg = 0 ∧ r.subj % 8 ≠ 5) ∧
    (∃ (s : State) (w : BitVec 256) (x : ReplayX) (r : JRec), s.awake = true ∧ s.rpl = some x ∧ x.pos < x.len ∧ recOf
      w.toNat = r ∧ s.rplForeign r = false ∧ s.rplReady r = true ∧ (s.hallOk r.hall = false ∨ x.seen.contains r.hall =
      true) ∧ r.typ = 0x5E ∧ r.arg = 2 ∧ r.subj % 8 ≠ 5 ∧ s.srcAlcs r.subj = [] ∧ r.dat 0 1 < 32 ∧ s.hallOk (r.dat 0 1) =
      true) ∧
    (∃ (s : State) (w : BitVec 256) (x : ReplayX) (r : JRec), s.awake = true ∧ s.rpl = some x ∧ x.pos < x.len ∧ recOf
      w.toNat = r ∧ s.rplForeign r = false ∧ s.rplReady r = true ∧ (s.hallOk r.hall = false ∨ x.seen.contains r.hall =
      true) ∧ r.typ = 0x64 ∧ s.inService = true ∧ 31 < s.part.halls ∧ r.dat 0 4 = R.HOLD_VEC 31 3) ∧
    (∃ (s : State) (w : BitVec 256) (x : ReplayX) (r : JRec), s.awake = true ∧ s.rpl = some x ∧ x.pos < x.len ∧ recOf
      w.toNat = r ∧ s.rplForeign r = false ∧ s.rplReady r = true ∧ (s.hallOk r.hall = false ∨ x.seen.contains r.hall =
      true) ∧ r.typ = 0x63 ∧ r.dat 0 4 = 0) ∧
    (∃ (s : State) (w : BitVec 256) (x : ReplayX) (r : JRec) (q : Nat) (r2 : DescRun), s.awake = true ∧ s.rpl = some x ∧
      x.pos < x.len ∧ recOf w.toNat = r ∧ s.rplForeign r = false ∧ s.rplReady r = true ∧ (s.hallOk r.hall = false ∨
      x.seen.contains r.hall = true) ∧ r.typ = 3 ∧ s.queueOf x.did = some q ∧ (s.queue q).run = some r2 ∧ x.did ∉
      s.unitDids) ∧
    (∃ (s : State) (q : Nat) (x : ReplayX) (r : DescRun), s.awake = true ∧ s.rpl = some x ∧ x.len ≤ x.pos ∧ s.queueOf
      x.did = some q ∧ (s.queue q).run = some r ∧ x.did ∉ s.unitDids) ∧
    (∃ (s : State), (s.rpl.map (fun x => decide (x.len ≤ x.pos))) ≠ some true) :=
  ⟨
    ⟨{ ((((({ ready with jnl := {}, rings := [] } : State).p (F.RR_CFG.EN 4) 1).p (F.RR_CFG.LOG 4) 6).p (F.RR_HEAD.INDEX
         4) 60).p (F.RR_TAIL.INDEX 4) 63).p F.JNL_STAT.FWD 0 with jnl := { fifo := [{ typ := 0x5A, hall := 31, subj := 9,
                                                                                        seq := 4 }, { typ := 0x5A, hall :=
                                                                                                        31, subj := 9, seq
                                                                                                        := 4 }] } },
      ({ typ := 0x5A, hall := 31, subj := 9, seq := 4 } : JRec), ([{ typ := 0x5A, hall := 31, subj := 9, seq := 4 }] :
      List JRec), by decide +kernel⟩,
    ⟨{ ready with jnl := { fifo := [{ typ := 0x63, hall := 255, subj := 0, seq := 4 }], hash := [(4, 1)] } },
      by decide +kernel⟩,
    ⟨{ (ready.p F.GAL_STAT.ACTIVE 1).p F.GAL_STAT.LINK1 1 with jnl := { frame := [{ typ := 0x5A, hall := 31, subj := 9,
                                                                                      seq := 4 }] } }, by decide +kernel⟩,
    ⟨{ ready with jnl := {} }, by decide +kernel⟩,
    ⟨{ ((ready.p F.GAL_STAT.LINK1 1).p F.JNL_STAT.REC 1).p F.JNL_STAT.AGG 1 with jnl := {}, gal := {} } |> (fun s =>
      s.setPeer 63 { st := 1, uid := 0x123456789 }), (1 : Nat), (0x123456789 : Nat), (63 : Nat), ([0x5A#256, 0x5B#256] :
      List (BitVec 256)), by decide +kernel⟩,
    ⟨{ ((ready.p F.GAL_STAT.LINK1 1).p F.JNL_STAT.REC 1).p F.JNL_STAT.AGG 1 with jnl := { fifo := List.replicate 2015 {
                                                                                            typ := 0x5A, hall := 31, subj
                                                                                              := 9, seq := 4 } }, gal :=
                                                                                   {} } |> (fun s => s.setPeer 63
      { st := 1, uid := 0x123456789 }), (1 : Nat), (0x123456789 : Nat), (63 : Nat), ([0x5A#256] : List (BitVec 256)),
      by decide +kernel⟩,
    ⟨ready.p F.JNL_STAT.AGG 0, (1 : Nat), (3 : Nat), ([0x5A#256] : List (BitVec 256)), by decide +kernel⟩,
    ⟨{ ready with jnl := { hash := [(4, 2 ^ 255 + 5)] } }, (4 : Nat), (2 ^ 255 + 5 : Nat), ([] : List (Nat × Nat)),
      by decide +kernel⟩,
    ⟨{ ready with rpl := some { did := 5, base := 0x4000, len := 96, pos := 64, seq := 3, diverge := 2 } }, (0x5F : BitVec
      256), ({ did := 5, base := 0x4000, len := 96, pos := 64, seq := 3, diverge := 2 } : ReplayX), (recOf 0x5F : JRec),
      by decide +kernel⟩,
    ⟨{ ready.setPos 31 8 with rpl := some { did := 5, base := 0x4000, len := 96, pos := 64, seq := 3, diverge := 2, seen
                                              := [31] } }, (BitVec.ofNat 256 (packB [(0, 1, 90), (1, 1, 31), (2, 2, 0),
      (4, 4, 4), (8, 6, 9), (14, 2, 3)]) : BitVec 256),
      ({ did := 5, base := 0x4000, len := 96, pos := 64, seq := 3, diverge := 2, seen := [31] } : ReplayX), (recOf
      (BitVec.ofNat 256 (packB [(0, 1, 90), (1, 1, 31), (2, 2, 0), (4, 4, 4), (8, 6, 9), (14, 2, 3)])).toNat : JRec),
      by decide +kernel⟩,
    ⟨{ ready with rpl := some { did := 5, base := 0x4000, len := 96, pos := 64, seq := 3, diverge := 2 } }, (BitVec.ofNat
      256 (packB [(0, 1, 102), (1, 1, 255), (2, 2, 0), (4, 4, 4), (8, 6, 0), (14, 2, 0)]) : BitVec 256),
      ({ did := 5, base := 0x4000, len := 96, pos := 64, seq := 3, diverge := 2 } : ReplayX), (recOf (BitVec.ofNat 256
      (packB [(0, 1, 102), (1, 1, 255), (2, 2, 0), (4, 4, 4), (8, 6, 0), (14, 2, 0)])).toNat : JRec), by decide +kernel⟩,
    ⟨{ (ready).p F.JNL_STAT.REPLAY 1 with rpl := some { did := 5, base := 0x4000, len := 96, pos := 64, seq := 3, diverge
                                                          := 2, seen := [31] } }, (BitVec.ofNat 256 (packB [(0, 1, 80),
      (1, 1, 31), (2, 2, 9), (4, 4, 4), (8, 6, 77), (14, 2, 1), (16, 4, 3968), (20, 4, 5), (24, 4, 9)]) : BitVec 256),
      ({ did := 5, base := 0x4000, len := 96, pos := 64, seq := 3, diverge := 2, seen := [31] } : ReplayX), (recOf
      (BitVec.ofNat 256 (packB [(0, 1, 80), (1, 1, 31), (2, 2, 9), (4, 4, 4), (8, 6, 77), (14, 2, 1), (16, 4, 3968), (20,
      4, 5), (24, 4, 9)])).toNat : JRec), by decide +kernel⟩,
    ⟨{ (ready).p F.JNL_STAT.REPLAY 1 with rpl := some { did := 5, base := 0x4000, len := 96, pos := 64, seq := 3, diverge
                                                          := 2, seen := [31] } }, (BitVec.ofNat 256 (packB [(0, 1, 82),
      (1, 1, 31), (2, 2, 9), (4, 4, 4), (8, 6, 0), (14, 2, 1), (16, 4, 3968), (20, 4, 5), (24, 4, 9)]) : BitVec 256),
      ({ did := 5, base := 0x4000, len := 96, pos := 64, seq := 3, diverge := 2, seen := [31] } : ReplayX), (recOf
      (BitVec.ofNat 256 (packB [(0, 1, 82), (1, 1, 31), (2, 2, 9), (4, 4, 4), (8, 6, 0), (14, 2, 1), (16, 4, 3968), (20,
      4, 5), (24, 4, 9)])).toNat : JRec), by decide +kernel⟩,
    ⟨{ (ready.setAlc 31 95 {}).p F.JNL_STAT.REPLAY 1 with rpl := some { did := 5, base := 0x4000, len := 96, pos := 64,
                                                                          seq := 3, diverge := 2, seen := [31] } },
      (BitVec.ofNat 256 (packB [(0, 1, 81), (1, 1, 31), (2, 2, 3071), (4, 4, 4), (8, 6, 0), (14, 2, 20), (16, 4, 3), (20,
      4, 500)]) : BitVec 256), ({ did := 5, base := 0x4000, len := 96, pos := 64, seq := 3, diverge := 2, seen := [31] } :
      ReplayX), (recOf (BitVec.ofNat 256 (packB [(0, 1, 81), (1, 1, 31), (2, 2, 3071), (4, 4, 4), (8, 6, 0), (14, 2, 20),
      (16, 4, 3), (20, 4, 500)])).toNat : JRec), by decide +kernel⟩,
    ⟨{ (((((ready.p (F.ALC_STATE.STATE 31 85) 4).p (F.JMP_REQ.REQ 31) 0).p (F.LAND_STAT.WAITING 31) 0).modHl 31 (fun x =>
         { x with hold := {} }))).p F.JNL_STAT.REPLAY 1 with rpl := some { did := 5, base := 0x4000, len := 96, pos := 64,
                                                                             seq := 3, diverge := 2, seen := [31] } },
      (BitVec.ofNat 256 (packB [(0, 1, 84), (1, 1, 31), (2, 2, 0), (4, 4, 4), (8, 6, 0), (14, 2, 0), (16, 2, 65535), (18,
      4, 2147483648)]) : BitVec 256),
      ({ did := 5, base := 0x4000, len := 96, pos := 64, seq := 3, diverge := 2, seen := [31] } : ReplayX), (recOf
      (BitVec.ofNat 256 (packB [(0, 1, 84), (1, 1, 31), (2, 2, 0), (4, 4, 4), (8, 6, 0), (14, 2, 0), (16, 2, 65535), (18,
      4, 2147483648)])).toNat : JRec), by decide +kernel⟩,
    ⟨{ (((ready.p (F.HALL_STAT.LIVE_BANK 31) 2).p (F.LAND_STAT.WAITING 31) 0).modHl 31 (fun x => { x with hold := {} })).p
         F.JNL_STAT.REPLAY 1 with rpl := some { did := 5, base := 0x4000, len := 96, pos := 64, seq := 3, diverge := 2,
                                                  seen := [31] } }, (BitVec.ofNat 256 (packB [(0, 1, 84), (1, 1, 31), (2,
      2, 0), (4, 4, 4), (8, 6, 0), (14, 2, 1), (18, 4, 2147483648)]) : BitVec 256),
      ({ did := 5, base := 0x4000, len := 96, pos := 64, seq := 3, diverge := 2, seen := [31] } : ReplayX), (recOf
      (BitVec.ofNat 256 (packB [(0, 1, 84), (1, 1, 31), (2, 2, 0), (4, 4, 4), (8, 6, 0), (14, 2, 1), (18, 4,
      2147483648)])).toNat : JRec), by decide +kernel⟩,
    ⟨{ (ready.modHl 31 (fun x => { x with hold := {} })).p F.JNL_STAT.REPLAY 1 with rpl := some { did := 5, base :=
                                                                                                    0x4000, len := 96, pos
                                                                                                    := 64, seq := 3,
                                                                                                    diverge := 2, seen :=
                                                                                                    [31] } },
      (BitVec.ofNat 256 (packB [(0, 1, 85), (1, 1, 31), (2, 2, 100), (4, 4, 4), (8, 6, 0), (14, 2, 7), (16, 4,
      2147483648)]) : BitVec 256),
      ({ did := 5, base := 0x4000, len := 96, pos := 64, seq := 3, diverge := 2, seen := [31] } : ReplayX), (recOf
      (BitVec.ofNat 256 (packB [(0, 1, 85), (1, 1, 31), (2, 2, 100), (4, 4, 4), (8, 6, 0), (14, 2, 7), (16, 4,
      2147483648)])).toNat : JRec), by decide +kernel⟩,
    ⟨{ ((ready.p F.JNL_STAT.BENCH 1).setAlc 31 95 { lastSend := 7 }).p F.JNL_STAT.REPLAY 1 with rpl := some { did := 5,
                                                                                                                base :=
                                                                                                                0x4000,
                                                                                                                len := 96,
                                                                                                                pos := 64,
                                                                                                                seq := 3,
                                                                                                                diverge :=
                                                                                                                2, seen :=
                                                                                                                [31],
                                                                                                                sends :=
                                                                                                                [(31, {
                                                                                                                alc := 95,
                                                                                                                  slot :=
                                                                                                                  7, seq
                                                                                                                  := 7,
                                                                                                                  bank :=
                                                                                                                  3 })] }
                                                                                                  }, (BitVec.ofNat 256
      (packB [(0, 1, 88), (1, 1, 31), (2, 2, 3071), (4, 4, 4), (8, 6, 0), (14, 2, 7), (16, 1, 1)]) : BitVec 256),
      ({ did := 5, base := 0x4000, len := 96, pos := 64, seq := 3, diverge := 2, seen := [31], sends := [(31, { alc := 95,
                                                                                                                  slot :=
                                                                                                                  7, seq
                                                                                                                  := 7,
                                                                                                                  bank :=
                                                                                                                  3 })] }
      : ReplayX), (recOf (BitVec.ofNat 256 (packB [(0, 1, 88), (1, 1, 31), (2, 2, 3071), (4, 4, 4), (8, 6, 0), (14, 2, 7),
      (16, 1, 1)])).toNat : JRec), ({ alc := 95, slot := 7, seq := 7, bank := 3 } : SendReq), by decide +kernel⟩,
    ⟨{ ((ready.p F.JNL_STAT.BENCH 1).setAlc 31 95 {}).p F.JNL_STAT.REPLAY 1 with rpl := some { did := 5, base := 0x4000,
                                                                                                 len := 96, pos := 64, seq
                                                                                                 := 3, diverge := 2, seen
                                                                                                 := [31], meas := [{ hall
                                                                                                                       :=
                                                                                                                       31,
                                                                                                                       alc
                                                                                                                       :=
                                                                                                                       95,
                                                                                                                       bank
                                                                                                                       :=
                                                                                                                       3,
                                                                                                                       ch
                                                                                                                       :=
                                                                                                                       63,
                                                                                                                       mset
                                                                                                                       :=
                                                                                                                       7
                                                                                                                       }]
                                                                                                 } }, (BitVec.ofNat 256
      (packB [(0, 1, 89), (1, 1, 31), (2, 2, 3071), (4, 4, 4), (8, 6, 0), (14, 2, 63), (16, 4, 2147483648)]) : BitVec
      256), ({ did := 5, base := 0x4000, len := 96, pos := 64, seq := 3, diverge := 2, seen := [31], meas := [{ hall :=
                                                                                                                  31, alc
                                                                                                                  := 95,
                                                                                                                  bank :=
                                                                                                                  3, ch :=
                                                                                                                  63, mset
                                                                                                                  := 7 }]
                 } : ReplayX), (recOf (BitVec.ofNat 256 (packB [(0, 1, 89), (1, 1, 31), (2, 2, 3071), (4, 4, 4), (8, 6,
      0), (14, 2, 63), (16, 4, 2147483648)])).toNat : JRec), ({ hall := 31, alc := 95, bank := 3, ch := 63, mset := 7 } :
      MeasReq), by decide +kernel⟩,
    ⟨{ (ready).p F.JNL_STAT.REPLAY 1 with rpl := some { did := 5, base := 0x4000, len := 96, pos := 64, seq := 3, diverge
                                                          := 2, seen := [31] } }, (BitVec.ofNat 256 (packB [(0, 1, 90),
      (1, 1, 31), (2, 2, 9), (4, 4, 4), (8, 6, 0), (14, 2, 3)]) : BitVec 256),
      ({ did := 5, base := 0x4000, len := 96, pos := 64, seq := 3, diverge := 2, seen := [31] } : ReplayX), (recOf
      (BitVec.ofNat 256 (packB [(0, 1, 90), (1, 1, 31), (2, 2, 9), (4, 4, 4), (8, 6, 0), (14, 2, 3)])).toNat : JRec),
      by decide +kernel⟩,
    ⟨{ (ready).p F.JNL_STAT.REPLAY 1 with rpl := some { did := 5, base := 0x4000, len := 96, pos := 64, seq := 3, diverge
                                                          := 2, seen := [31] } }, (BitVec.ofNat 256 (packB [(0, 1, 91),
      (1, 1, 31), (2, 2, 0), (4, 4, 4), (8, 6, 0), (14, 2, 1)]) : BitVec 256),
      ({ did := 5, base := 0x4000, len := 96, pos := 64, seq := 3, diverge := 2, seen := [31] } : ReplayX), (recOf
      (BitVec.ofNat 256 (packB [(0, 1, 91), (1, 1, 31), (2, 2, 0), (4, 4, 4), (8, 6, 0), (14, 2, 1)])).toNat : JRec),
      by decide +kernel⟩,
    ⟨{ (ready).p F.JNL_STAT.REPLAY 1 with rpl := some { did := 5, base := 0x4000, len := 96, pos := 64, seq := 3, diverge
                                                          := 2, seen := [31] } }, (BitVec.ofNat 256 (packB [(0, 1, 91),
      (1, 1, 31), (2, 2, 0), (4, 4, 4), (8, 6, 0), (14, 2, 2)]) : BitVec 256),
      ({ did := 5, base := 0x4000, len := 96, pos := 64, seq := 3, diverge := 2, seen := [31] } : ReplayX), (recOf
      (BitVec.ofNat 256 (packB [(0, 1, 91), (1, 1, 31), (2, 2, 0), (4, 4, 4), (8, 6, 0), (14, 2, 2)])).toNat : JRec),
      by decide +kernel⟩,
    ⟨{ (ready).p F.JNL_STAT.REPLAY 1 with rpl := some { did := 5, base := 0x4000, len := 96, pos := 64, seq := 3, diverge
                                                          := 2, seen := [31] } }, (BitVec.ofNat 256 (packB [(0, 1, 91),
      (1, 1, 31), (2, 2, 0), (4, 4, 4), (8, 6, 0), (14, 2, 8), (18, 4, 100)]) : BitVec 256),
      ({ did := 5, base := 0x4000, len := 96, pos := 64, seq := 3, diverge := 2, seen := [31] } : ReplayX), (recOf
      (BitVec.ofNat 256 (packB [(0, 1, 91), (1, 1, 31), (2, 2, 0), (4, 4, 4), (8, 6, 0), (14, 2, 8), (18, 4, 100)])).toNat
      : JRec), by decide +kernel⟩,
    ⟨{ (ready).p F.JNL_STAT.REPLAY 1 with rpl := some { did := 5, base := 0x4000, len := 96, pos := 64, seq := 3, diverge
                                                          := 2, seen := [31] } }, (BitVec.ofNat 256 (packB [(0, 1, 92),
      (1, 1, 31), (2, 2, 2), (4, 4, 4), (8, 6, 0), (14, 2, 1), (16, 1, 3)]) : BitVec 256),
      ({ did := 5, base := 0x4000, len := 96, pos := 64, seq := 3, diverge := 2, seen := [31] } : ReplayX), (recOf
      (BitVec.ofNat 256 (packB [(0, 1, 92), (1, 1, 31), (2, 2, 2), (4, 4, 4), (8, 6, 0), (14, 2, 1), (16, 1, 3)])).toNat :
      JRec), by decide +kernel⟩,
    ⟨{ (ready).p F.JNL_STAT.REPLAY 1 with rpl := some { did := 5, base := 0x4000, len := 96, pos := 64, seq := 3, diverge
                                                          := 2, seen := [31] } }, (BitVec.ofNat 256 (packB [(0, 1, 93),
      (1, 1, 255), (2, 2, 0), (4, 4, 4), (8, 6, 0), (14, 2, 0), (16, 1, 3)]) : BitVec 256),
      ({ did := 5, base := 0x4000, len := 96, pos := 64, seq := 3, diverge := 2, seen := [31] } : ReplayX), (recOf
      (BitVec.ofNat 256 (packB [(0, 1, 93), (1, 1, 255), (2, 2, 0), (4, 4, 4), (8, 6, 0), (14, 2, 0), (16, 1, 3)])).toNat
      : JRec), by decide +kernel⟩,
    ⟨{ (ready).p F.JNL_STAT.REPLAY 1 with rpl := some { did := 5, base := 0x4000, len := 96, pos := 64, seq := 3, diverge
                                                          := 2, seen := [31] } }, (BitVec.ofNat 256 (packB [(0, 1, 94),
      (1, 1, 255), (2, 2, 16), (4, 4, 4), (8, 6, 0), (14, 2, 0)]) : BitVec 256),
      ({ did := 5, base := 0x4000, len := 96, pos := 64, seq := 3, diverge := 2, seen := [31] } : ReplayX), (recOf
      (BitVec.ofNat 256 (packB [(0, 1, 94), (1, 1, 255), (2, 2, 16), (4, 4, 4), (8, 6, 0), (14, 2, 0)])).toNat : JRec),
      by decide +kernel⟩,
    ⟨{ ((ready.p (F.ALC_STATE.STATE 31 85) 4).p (F.HALL_STAT.LIVE_BANK 31) 3).p F.JNL_STAT.REPLAY 1 with rpl := some { did
                                                                                                                         :=
                                                                                                                         5,
                                                                                                                         base
                                                                                                                         :=
                                                                                                                         0x4000,
                                                                                                                         len
                                                                                                                         :=
                                                                                                                         96,
                                                                                                                         pos
                                                                                                                         :=
                                                                                                                         64,
                                                                                                                         seq
                                                                                                                         :=
                                                                                                                         3,
                                                                                                                         diverge
                                                                                                                         :=
                                                                                                                         2,
                                                                                                                         seen
                                                                                                                         :=
                                                                                                                         [31]
                                                                                                                         }
                                                                                                           },
      (BitVec.ofNat 256 (packB [(0, 1, 94), (1, 1, 255), (2, 2, 258), (4, 4, 4), (8, 6, 0), (14, 2, 2), (16, 1, 31)]) :
      BitVec 256), ({ did := 5, base := 0x4000, len := 96, pos := 64, seq := 3, diverge := 2, seen := [31] } : ReplayX),
      (recOf (BitVec.ofNat 256 (packB [(0, 1, 94), (1, 1, 255), (2, 2, 258), (4, 4, 4), (8, 6, 0), (14, 2, 2), (16, 1,
      31)])).toNat : JRec), by decide +kernel⟩,
    ⟨{ (ready).p F.JNL_STAT.REPLAY 1 with rpl := some { did := 5, base := 0x4000, len := 96, pos := 64, seq := 3, diverge
                                                          := 2, seen := [31] } }, (BitVec.ofNat 256 (packB [(0, 1, 100),
      (1, 1, 255), (2, 2, 0), (4, 4, 4), (8, 6, 0), (14, 2, 0), (16, 4, R.HOLD_VEC 31 3), (20, 4, 19088743)]) : BitVec
      256), ({ did := 5, base := 0x4000, len := 96, pos := 64, seq := 3, diverge := 2, seen := [31] } : ReplayX), (recOf
      (BitVec.ofNat 256 (packB [(0, 1, 100), (1, 1, 255), (2, 2, 0), (4, 4, 4), (8, 6, 0), (14, 2, 0), (16, 4, R.HOLD_VEC
      31 3), (20, 4, 19088743)])).toNat : JRec), by decide +kernel⟩,
    ⟨{ (ready).p F.JNL_STAT.REPLAY 1 with rpl := some { did := 5, base := 0x4000, len := 96, pos := 64, seq := 3, diverge
                                                          := 2, seen := [31] } }, (BitVec.ofNat 256 (packB [(0, 1, 99),
      (1, 1, 255), (2, 2, 0), (4, 4, 4), (8, 6, 0), (14, 2, 0)]) : BitVec 256),
      ({ did := 5, base := 0x4000, len := 96, pos := 64, seq := 3, diverge := 2, seen := [31] } : ReplayX), (recOf
      (BitVec.ofNat 256 (packB [(0, 1, 99), (1, 1, 255), (2, 2, 0), (4, 4, 4), (8, 6, 0), (14, 2, 0)])).toNat : JRec),
      by decide +kernel⟩,
    ⟨{ (run_ ready 9 true (dk [])).p F.JNL_STAT.REPLAY 1 with rpl := some { did := 5, base := 0x4000, len := 96, pos :=
                                                                              64, seq := 3, diverge := 2 } },
      (BitVec.ofNat 256 (packB [(0, 1, 3), (1, 1, 255), (2, 2, 0), (4, 4, 4), (8, 6, 0), (14, 2, 0)]) : BitVec 256),
      ({ did := 5, base := 0x4000, len := 96, pos := 64, seq := 3, diverge := 2 } : ReplayX), (recOf (BitVec.ofNat 256
      (packB [(0, 1, 3), (1, 1, 255), (2, 2, 0), (4, 4, 4), (8, 6, 0), (14, 2, 0)])).toNat : JRec), (9 : Nat), (⟨5, 7, dk
      [], true, 0, 0⟩ : DescRun), by decide +kernel⟩,
    ⟨{ (run_ ready 9 true (dk [])).p F.JNL_STAT.BENCH 1 with rpl := some { did := 5, base := 0x4000, len := 96, pos := 96,
                                                                             seq := 3, diverge := 2 } }, (9 : Nat),
      ({ did := 5, base := 0x4000, len := 96, pos := 96, seq := 3, diverge := 2 } : ReplayX), (⟨5, 7, dk [], true, 0, 0⟩ :
      DescRun), by decide +kernel⟩,
    ⟨{ ready with rpl := some { did := 5, base := 0x4000, len := 96, pos := 95, seq := 3, diverge := 2 } },
      by decide +kernel⟩⟩

/-- States and operands that meet the hypotheses of SuppliesAndResetPins, clause by clause. -/
theorem test_meets_supplies_and_reset_pins :
    (∃ (s : State), s.boot.vaux = false) ∧
    (∃ (s : State), s.boot.vaux = true) ∧
    (∃ (s : State), s.boot.porN = true ∧ s.boot.vaux = true ∧ s.g F.BOOT_STAGE.STAGE ≠ 0) ∧
    (∃ (s : State), s.boot.porN = true ∧ (s.boot.vaux = false ∨ s.g F.BOOT_STAGE.STAGE = 0)) ∧
    (∃ (s : State), s.boot.porN = false) ∧
    (∃ (s : State), s.boot.porN = false ∧ s.boot.vaux = true) ∧
    (∃ (s : State), s.boot.porN = false ∧ s.boot.vaux = false) ∧
    (∃ (s : State), s.boot.porN = true) ∧
    (∃ (s : State), s.g F.BOOT_STAGE.STAGE = 6) ∧
    (∃ (s : State) (up : Bool), s.inService = false ∧ (s.g F.BOOT_STAGE.STAGE ≠ 6 ∨ up = true)) ∧
    (∃ (s : State) (src : Nat), s.inService = true ∧ src ∈ [369, 370] ∧ s.srcMasked src = false) ∧
    (∃ (s : State), s.inService = true) ∧
    (∃ (s : State), s.inService = true ∧ s.boot.perstN = true) ∧
    (∃ (s : State), (s.inService = false ∨ s.boot.perstN = false)) ∧
    (∃ (s : State), s.inService = true) ∧
    (∃ (s : State), s.inService = false) ∧
    (∃ (s : State), s.inService = true) ∧
    (∃ (s : State), s.inService = false) :=
  ⟨
    ⟨ready.p F.RESET_CAUSE.VAUX_ON 0 |> (fun s => { s with boot := { s.boot with vaux := false } }), by decide +kernel⟩,
    ⟨ready |> (fun s => { s with boot := { s.boot with vaux := true } }), by decide +kernel⟩,
    ⟨ready |> (fun s => { s with boot := { s.boot with porN := true } }), by decide +kernel⟩,
    ⟨ready.p F.BOOT_STAGE.STAGE 0 |> (fun s => { s with boot := { s.boot with porN := true } }), by decide +kernel⟩,
    ⟨ready |> (fun s => { s with boot := { s.boot with porN := false } }), by decide +kernel⟩,
    ⟨ready |> (fun s => { s with boot := { s.boot with porN := false } }), by decide +kernel⟩,
    ⟨ready |> (fun s => { s with boot := { s.boot with porN := false, vaux := false } }), by decide +kernel⟩,
    ⟨ready |> (fun s => { s with boot := { s.boot with porN := true } }), by decide +kernel⟩,
    ⟨ready.p F.BOOT_STAGE.STAGE 6, by decide +kernel⟩,
    ⟨ready.p F.BOOT_STAGE.STAGE 5, (false : Bool), by decide +kernel⟩,
    ⟨(ready.p (F.FLT_SRC_STAT.PRESENT 370) 0) |> (fun s => s.wr (R.FLT_CFG 370) 0), (370 : Nat), by decide +kernel⟩,
    ⟨ready |> (fun s => { s with boot := { s.boot with pgood := false } }), by decide +kernel⟩,
    ⟨(ready.setQueue 9 { run := none }).setVec 127 { cnt := 1, pend := true, mask := false } |> (fun s =>
      { s with boot := { s.boot with perstN := true } }), by decide +kernel⟩,
    ⟨ready.p F.BOOT_STAGE.STAGE 7 |> (fun s => { s with boot := { s.boot with perstN := true } }), by decide +kernel⟩,
    ⟨ready.setQueue 9 { run := none }, by decide +kernel⟩,
    ⟨ready.p F.BOOT_STAGE.STAGE 7, by decide +kernel⟩,
    ⟨ready.setQueue 9 { run := none }, by decide +kernel⟩,
    ⟨ready.p F.BOOT_STAGE.STAGE 15, by decide +kernel⟩⟩

/-- States and operands that meet the hypotheses of BootAndWarmReset, clause by clause. -/
theorem test_meets_boot_and_warm_reset :
    (∃ (s : State), s.g F.BOOT_STAGE.STAGE = 1) ∧
    (∃ (s : State), s.g F.BOOT_STAGE.STAGE = 1) ∧
    (∃ (s : State), s.g F.BOOT_STAGE.STAGE = 2) ∧
    (∃ (s : State) (q : Quetus), s.g F.BOOT_STAGE.STAGE = 2 ∧ (hdrNat q.hdr 0 4 ≠ 0x53555451 ∨ hdrNat q.hdr 4 2 ≠ 1)) ∧
    (∃ (s : State) (q : Quetus), s.g F.BOOT_STAGE.STAGE = 2 ∧ hdrNat q.hdr 0 4 = 0x53555451 ∧ hdrNat q.hdr 4 2 = 1 ∧
      (hdrNat q.hdr 6 1 ≠ 1 ∨ natBits (hdrNat q.hdr 7 1) (partBit s.part) 1 = 0 ∨ hdrReserved q.hdr = false)) ∧
    (∃ (s : State) (q : Quetus), s.g F.BOOT_STAGE.STAGE = 2 ∧ hdrNat q.hdr 0 4 = 0x53555451 ∧ hdrNat q.hdr 4 2 = 1 ∧
      hdrNat q.hdr 6 1 = 1 ∧ natBits (hdrNat q.hdr 7 1) (partBit s.part) 1 = 1 ∧ hdrReserved q.hdr = true) ∧
    (∃ (s : State), s.g F.BOOT_STAGE.STAGE = 3) ∧
    (∃ (s : State) (readback : Nat) (x : UcPend), s.g F.BOOT_STAGE.STAGE = 4 ∧ s.boot.image = some x ∧ readback =
      x.wordCrc) ∧
    (∃ (s : State) (readback : Nat) (x : UcPend), s.g F.BOOT_STAGE.STAGE = 4 ∧ s.boot.image = some x ∧ readback ≠
      x.wordCrc) ∧
    (∃ (s : State), s.g F.BOOT_STAGE.STAGE = 4 ∧ s.boot.image = none) ∧
    (∃ (s : State) (p : Nat) (a : Nat), s.g F.BOOT_STAGE.STAGE = 5 ∧ p ∈ hbmPorts ∧ a < 2 ^ 32) ∧
    (∃ (s : State), s.g F.BOOT_STAGE.STAGE = 5) ∧
    (∃ (s : State), s.g F.BOOT_STAGE.STAGE = 6 ∧ s.boot.roundOk = true) ∧
    (∃ (s : State), s.g F.BOOT_STAGE.STAGE = 6 ∧ s.boot.roundOk = false) ∧
    (∃ (s : State), s.g F.BOOT_STAGE.STAGE = 7 ∧ s.storeFails = false ∧ s.is F.FLT_STATUS.GRAVE = false) ∧
    (∃ (s : State), s.g F.BOOT_STAGE.STAGE = 7 ∧ s.storeFails = false ∧ s.is F.FLT_STATUS.GRAVE = true) ∧
    (∃ (s : State) (r : BootRes),
      (match r with | .rom _ _ _ _ => s.g F.BOOT_STAGE.STAGE ≠ 1 | .fetch _ => s.g F.BOOT_STAGE.STAGE ≠ 2 | .patch _ => s.g F.BOOT_STAGE.STAGE ≠ 3 | .bist _ _ => s.g F.BOOT_STAGE.STAGE ≠ 4 | .hbm _ => s.g F.BOOT_STAGE.STAGE ≠ 5 | .work => s.g F.BOOT_STAGE.STAGE ≠ 6 ∧ s.g F.BOOT_STAGE.STAGE ≠ 7)) ∧
    (∃ (s : State) (v : Word), (s.g F.BOOT_STAGE.STAGE = 15 ∨ (s.inService = true ∧ s.quiesced = true)) ∧ s.awake = true ∧
      F.RESET_CTL.WARM.is v = true ∧ F.RESET_CTL.KEY.of v = 0x5741) ∧
    (∃ (s : State) (v : Word), (s.inService = true ∨ s.g F.BOOT_STAGE.STAGE = 15) ∧ s.awake = true ∧ (F.RESET_CTL.WARM.is
      v = false ∨ F.RESET_CTL.KEY.of v ≠ 0x5741 ∨ (s.g F.BOOT_STAGE.STAGE ≠ 15 ∧ s.quiesced = false))) ∧
    (∃ (s : State), s.inService = true ∧ s.awake = false) ∧
    (∃ (s : State), s.inService = false ∧ s.g F.BOOT_STAGE.STAGE ≠ 15) :=
  ⟨
    ⟨ready.p F.BOOT_STAGE.STAGE 1, by decide +kernel⟩,
    ⟨ready.p F.BOOT_STAGE.STAGE 1, by decide +kernel⟩,
    ⟨ready.p F.BOOT_STAGE.STAGE 2 |> (fun s => { s with boot := { s.boot with otp := 0 } }), by decide +kernel⟩,
    ⟨ready.p F.BOOT_STAGE.STAGE 2, (⟨[0x51], [], []⟩ : Quetus), by decide +kernel⟩,
    ⟨ready.p F.BOOT_STAGE.STAGE 2, (⟨[0x51, 0x54, 0x55, 0x53, 1, 0, 2, 7] ++ List.replicate 56 0, [], []⟩ : Quetus),
      by decide +kernel⟩,
    ⟨ready.p F.BOOT_STAGE.STAGE 2 |> (fun s => { s with boot := { s.boot with otp := 1 } }), (⟨[0x51, 0x54, 0x55, 0x53, 1,
      0, 1, 7] ++ List.replicate 56 0, [], []⟩ : Quetus), by decide +kernel⟩,
    ⟨ready.p F.BOOT_STAGE.STAGE 3, by decide +kernel⟩,
    ⟨ready.p F.BOOT_STAGE.STAGE 4 |> (fun s =>
      { s with boot := { s.boot with image := some ⟨1, true, 5, 7, 9⟩, otp := 0 } }), (9 : Nat), (⟨1, true, 5, 7, 9⟩ :
      UcPend), by decide +kernel⟩,
    ⟨ready.p F.BOOT_STAGE.STAGE 4 |> (fun s => { s with boot := { s.boot with image := some ⟨1, true, 5, 7, 9⟩ } }), (8 :
      Nat), (⟨1, true, 5, 7, 9⟩ : UcPend), by decide +kernel⟩,
    ⟨ready.p F.BOOT_STAGE.STAGE 4 |> (fun s => { s with boot := { s.boot with image := none } }), by decide +kernel⟩,
    ⟨(ready.p F.BOOT_STAGE.STAGE 5).wrByte 102 9 7, (102 : Nat), (9 : Nat), by decide +kernel⟩,
    ⟨ready.p F.BOOT_STAGE.STAGE 5, by decide +kernel⟩,
    ⟨ready.p F.BOOT_STAGE.STAGE 6 |> (fun s => { s with boot := { s.boot with roundOk := true } }), by decide +kernel⟩,
    ⟨ready.p F.BOOT_STAGE.STAGE 6 |> (fun s => { s with boot := { s.boot with roundOk := false } }), by decide +kernel⟩,
    ⟨{ (ready.p F.BOOT_STAGE.STAGE 7).p F.FLT_STATUS.GRAVE 0 with tb0 := 8 }, by decide +kernel⟩,
    ⟨(ready.p F.BOOT_STAGE.STAGE 7).p F.FLT_STATUS.GRAVE 1, by decide +kernel⟩,
    ⟨ready, (.hbm true : BootRes), by decide +kernel⟩,
    ⟨ready, (BitVec.ofNat 32 (0x5741 * 2 ^ F.RESET_CTL.KEY.lo + 2 ^ F.RESET_CTL.WARM.lo) : Word), by decide +kernel⟩,
    ⟨ready, (1#32 : Word), by decide +kernel⟩,
    ⟨ready.p F.THERM_STAT.SHUTDOWN 1, by decide +kernel⟩,
    ⟨ready.p F.BOOT_STAGE.STAGE 7, by decide +kernel⟩⟩

/-- States and operands that meet the hypotheses of HostAndManagementAccess, clause by clause. -/
theorem test_meets_host_and_management_access :
    (∃ (s : State) (a : Nat) (n : Nat), (a % 4 ≠ 0 ∨ n ≠ 4)) ∧
    (∃ (s : State) (a : Nat), regAt a = none) ∧
    (∃ (s : State) (a : Nat) (r : RegRow) (ix : List Nat), regAt a = some (r, ix) ∧ instPresent s.part r.unit ix = false ∧
      Ready s) ∧
    (∃ (s : State), s.inService = false ∧ s.g F.BOOT_STAGE.STAGE ≠ 15) ∧
    (∃ (s : State) (a : Nat), s.inService = true ∧ s.awake = false ∧ thermBlock a = false ∧ a ≠ R.RESET_CTL ∧ a % 4 = 0) ∧
    (∃ (s : State) (a : Nat) (r : RegRow) (ix : List Nat), Ready s ∧ thermBlock a = false ∧ a ≠ R.RESET_CTL ∧ a % 4 = 0 ∧
      regAt a = some (r, ix) ∧ instPresent s.part r.unit ix = true) ∧
    (∃ (s : State) (a : Nat) (r : RegRow) (ix : List Nat), Ready s ∧ thermBlock a = false ∧ a ≠ R.RESET_CTL ∧ a % 4 = 0 ∧
      plainReg r.name = true ∧ regAt a = some (r, ix) ∧ instPresent s.part r.unit ix = true) ∧
    (∃ (s : State) (n : Nat), Ready s ∧ n < 128) ∧
    (∃ (s : State), Ready s ∧ tabGet (fun _ => 0) s.fresh R.RESET_CAUSE = 0) ∧
    (∃ (s : State) (n : Nat), 2 ≤ s.g F.BOOT_STAGE.STAGE ∧ n < 128) ∧
    (∃ (s : State) (n : Nat), 2 ≤ s.g F.BOOT_STAGE.STAGE ∧ n < 128 ∧ (s.vec n).addr < 2 ^ 64) ∧
    (∃ (s : State) (n : Nat), 2 ≤ s.g F.BOOT_STAGE.STAGE ∧ n < 128) ∧
    (∃ (s : State) (n : Nat) (v : Word), 2 ≤ s.g F.BOOT_STAGE.STAGE ∧ n < 128 ∧ (v.getLsbD 0 = true ∨ (s.vec n).pend =
      false)) ∧
    (∃ (s : State) (n : Nat) (v : Word), 2 ≤ s.g F.BOOT_STAGE.STAGE ∧ n < 128 ∧ v.getLsbD 0 = false ∧ (s.vec n).pend =
      true) ∧
    (∃ (s : State) (a : Nat), (2048 ≤ a ∨ s.g F.BOOT_STAGE.STAGE < 2)) ∧
    (∃ (s : State) (path : Path) (a : Nat) (n : Nat) (r : RegRow) (ix : List Nat), Ready s ∧ regAt a = some (r, ix) ∧
      instPresent s.part r.unit ix = true ∧ pairLow r.name = true ∧ (path = .mspi ∨ (a % 4 = 0 ∧ n = 4))) ∧
    (∃ (s : State) (path : Path) (a : Nat) (n : Nat) (r : RegRow) (ix : List Nat), Ready s ∧ regAt a = some (r, ix) ∧
      instPresent s.part r.unit ix = true ∧ pairHigh r.name = true ∧ (path = .mspi ∨ (a % 4 = 0 ∧ n = 4))) ∧
    (∃ (s : State) (a : Nat) (n : Nat), (a % 4 ≠ 0 ∨ n ≠ 4)) ∧
    (∃ (s : State) (i : Nat), s.mspi = none ∧ i < 128) ∧
    (∃ (s : State) (i : Nat), s.mspi = none ∧ i < 128) ∧
    (∃ (s : State) (i : Nat), s.mspi = none ∧ i < 128 ∧ s.g F.BOOT_STAGE.STAGE ≠ 0 ∧ s.mspiAddr i = R.RESET_CAUSE) ∧
    (∃ (s : State), s.mspi ≠ none) ∧
    (∃ (s : State) (f : MspiFrame), s.mspi = some f ∧ f.read = false ∧ f.idx ≤ 0x7F ∧ s.g F.BOOT_STAGE.STAGE ≠ 0 ∧
      doorbellPage (s.mspiAddr f.idx) = true) ∧
    (∃ (s : State) (f : MspiFrame), s.mspi = some f ∧ f.read = false ∧ 0x7F < f.idx ∧ s.g F.BOOT_STAGE.STAGE ≠ 0) ∧
    (∃ (s : State) (f : MspiFrame), s.mspi = some f ∧ f.read = false ∧ s.g F.BOOT_STAGE.STAGE = 0) ∧
    (∃ (s : State) (f : MspiFrame), s.mspi = some f ∧ f.read = false ∧ f.idx ≤ 0x7F ∧ s.g F.BOOT_STAGE.STAGE ≠ 0 ∧
      doorbellPage (s.mspiAddr f.idx) = false) ∧
    (∃ (s : State) (f : MspiFrame) (n : Nat), Ready s ∧ n < 128 ∧ s.mspi = some f ∧ f.read = false ∧ f.idx ≤ 0x7F ∧
      s.mspiAddr f.idx = R.MSIX_MOD n) ∧
    (∃ (s : State), (s.mspi.map (·.read)) ≠ some false) ∧
    (∃ (s : State) (f : MspiFrame), Ready s ∧ s.mspi = some f ∧ f.read = false ∧ f.idx ≤ 0x7F ∧ s.mspiAddr f.idx =
      R.MSPI_WIN) ∧
    (∃ (s : State) (f : MspiFrame), s.mspi = some f ∧ (f.read = true ∨ 0x7F < f.idx ∨ s.mspiAddr f.idx ≠ R.MSPI_WIN)) ∧
    (∃ (s : State) (f : MspiFrame), s.mspi = some f ∧ f.read = true ∧ f.idx ≤ 0x7F) ∧
    (∃ (s : State) (f : MspiFrame), s.mspi = some f ∧ f.read = true ∧ 0x7F < f.idx) ∧
    (∃ (s : State) (f : MspiFrame), s.mspi = some f ∧ f.read = true ∧ f.idx ≤ 0x7F) ∧
    (∃ (s : State), (s.mspi.map (·.read)) ≠ some true) :=
  ⟨
    ⟨ready, (0x1A000 : Nat), (2 : Nat), by decide +kernel⟩,
    ⟨ready, (0x7FFFFFC : Nat), by decide +kernel⟩,
    ⟨{ ready with part := .s }, (R.HOLD_VEC 31 3 : Nat), (((regAt (R.HOLD_VEC 31 3)).map (·.1)).getD
      ({ name := .ID, base := 0, dims := [], unit := .none, reset := 0, fields := [] } : RegRow) : RegRow), (((regAt
      (R.HOLD_VEC 31 3)).map (·.2)).getD [] : List Nat), by decide +kernel⟩,
    ⟨ready.p F.BOOT_STAGE.STAGE 7, by decide +kernel⟩,
    ⟨ready.p F.THERM_STAT.SHUTDOWN 1, (R.HOLD_VEC 31 3 : Nat), by decide +kernel⟩,
    ⟨ready, (R.HOLD_VEC 31 3 : Nat), (((regAt (R.HOLD_VEC 31 3)).map (·.1)).getD
      ({ name := .ID, base := 0, dims := [], unit := .none, reset := 0, fields := [] } : RegRow) : RegRow), (((regAt
      (R.HOLD_VEC 31 3)).map (·.2)).getD [] : List Nat), by decide +kernel⟩,
    ⟨ready, (R.HOLD_VEC 31 3 : Nat), (((regAt (R.HOLD_VEC 31 3)).map (·.1)).getD
      ({ name := .ID, base := 0, dims := [], unit := .none, reset := 0, fields := [] } : RegRow) : RegRow), (((regAt
      (R.HOLD_VEC 31 3)).map (·.2)).getD [] : List Nat), by decide +kernel⟩,
    ⟨ready, (127 : Nat), by decide +kernel⟩,
    ⟨ready.wr R.RESET_CAUSE 0x7F#32, by decide +kernel⟩,
    ⟨ready, (127 : Nat), by decide +kernel⟩,
    ⟨ready, (127 : Nat), by decide +kernel⟩,
    ⟨ready, (127 : Nat), by decide +kernel⟩,
    ⟨ready.setVec 127 { pend := true }, (127 : Nat), (0xFFFFFFFF#32 : Word), by decide +kernel⟩,
    ⟨ready.setVec 127 { pend := true }, (127 : Nat), (0xFFFFFFFE#32 : Word), by decide +kernel⟩,
    ⟨ready, (0x2000 : Nat), by decide +kernel⟩,
    ⟨ready.p (F.LAND_CNT_LO.CNT 31) 0xFFFFFFFF, (.mspi : Path), (R.LAND_CNT_LO 31 : Nat), (4 : Nat), (((regAt
      (R.LAND_CNT_LO 31)).map (·.1)).getD
      ({ name := .ID, base := 0, dims := [], unit := .none, reset := 0, fields := [] } : RegRow) : RegRow), (((regAt
      (R.LAND_CNT_LO 31)).map (·.2)).getD [] : List Nat), by decide +kernel⟩,
    ⟨ready, (.mspi : Path), (R.LAND_CNT_HI 31 : Nat), (4 : Nat), (((regAt (R.LAND_CNT_HI 31)).map (·.1)).getD
      ({ name := .ID, base := 0, dims := [], unit := .none, reset := 0, fields := [] } : RegRow) : RegRow), (((regAt
      (R.LAND_CNT_HI 31)).map (·.2)).getD [] : List Nat), by decide +kernel⟩,
    ⟨ready, (R.LAND_CNT_LO 31 + 2 : Nat), (4 : Nat), by decide +kernel⟩,
    ⟨ready, (127 : Nat), by decide +kernel⟩,
    ⟨ready, (0 : Nat), by decide +kernel⟩,
    ⟨ready.p F.MSPI_WIN.WIN 0, (6 : Nat), by decide +kernel⟩,
    ⟨{ ready with mspi := some { read := true, idx := 3, fetched := 0x89ABCDEF#32, last := 5#32 } }, by decide +kernel⟩,
    ⟨{ ready.p F.MSPI_WIN.WIN 128 with mspi := some { read := false, idx := 127, fetched := 0x89ABCDEF#32, last := 5#32 }
                                         }, ({ read := false, idx := 127, fetched := 0x89ABCDEF#32, last := 5#32 } :
      MspiFrame), by decide +kernel⟩,
    ⟨{ ready with mspi := some { read := false, idx := 128, fetched := 0x89ABCDEF#32, last := 5#32 } },
      ({ read := false, idx := 128, fetched := 0x89ABCDEF#32, last := 5#32 } : MspiFrame), by decide +kernel⟩,
    ⟨{ ready.p F.BOOT_STAGE.STAGE 0 with mspi := some { read := false, idx := 128, fetched := 0x89ABCDEF#32, last := 5#32
                                                          } },
      ({ read := false, idx := 128, fetched := 0x89ABCDEF#32, last := 5#32 } : MspiFrame), by decide +kernel⟩,
    ⟨{ ready.p F.MSPI_WIN.WIN 208 with mspi := some { read := false, idx := 127, fetched := 0x89ABCDEF#32, last := 5#32 }
                                         }, ({ read := false, idx := 127, fetched := 0x89ABCDEF#32, last := 5#32 } :
      MspiFrame), by decide +kernel⟩,
    ⟨{ ready.p F.MSPI_WIN.WIN 208 with mspi := some { read := false, idx := 127, fetched := 0x89ABCDEF#32, last := 5#32 }
                                         }, ({ read := false, idx := 127, fetched := 0x89ABCDEF#32, last := 5#32 } :
      MspiFrame), (127 : Nat), by decide +kernel⟩,
    ⟨{ ready with mspi := some { read := true, idx := 127, fetched := 0x89ABCDEF#32, last := 5#32 } }, by decide +kernel⟩,
    ⟨{ ready with mspi := some { read := false, idx := 0, fetched := 0x89ABCDEF#32, last := 5#32 } },
      ({ read := false, idx := 0, fetched := 0x89ABCDEF#32, last := 5#32 } : MspiFrame), by decide +kernel⟩,
    ⟨{ ready with mspi := some { read := true, idx := 0, fetched := 0x89ABCDEF#32, last := 5#32 } },
      ({ read := true, idx := 0, fetched := 0x89ABCDEF#32, last := 5#32 } : MspiFrame), by decide +kernel⟩,
    ⟨{ ready with mspi := some { read := true, idx := 127, fetched := 0x89ABCDEF#32, last := 5#32 } },
      ({ read := true, idx := 127, fetched := 0x89ABCDEF#32, last := 5#32 } : MspiFrame), by decide +kernel⟩,
    ⟨{ ready with mspi := some { read := true, idx := 128, fetched := 0x89ABCDEF#32, last := 5#32 } },
      ({ read := true, idx := 128, fetched := 0x89ABCDEF#32, last := 5#32 } : MspiFrame), by decide +kernel⟩,
    ⟨{ ready.p F.MSPI_WIN.WIN 32 with mspi := some { read := true, idx := 4, fetched := 0x89ABCDEF#32, last := 5#32 } },
      ({ read := true, idx := 4, fetched := 0x89ABCDEF#32, last := 5#32 } : MspiFrame), by decide +kernel⟩,
    ⟨{ ready with mspi := none }, by decide +kernel⟩⟩

/-- States and operands that meet the hypotheses of NopDescriptor, clause by clause. -/
theorem test_meets_nop_descriptor :
    (∃ (s : State) (q : Nat) (r : DescRun), Executes s q 0 false r ∧ dscZeroFrom r.desc 24 = true) ∧
    (∃ (s : State) (q : Nat) (r : DescRun), Executes s q 0 false r ∧ dscZeroFrom r.desc 24 = false) :=
  ⟨
    ⟨run_ ready 9 false (dk [(0, 16, 0), (32, 32, 0xABCD), (160, 32, 0x12345678)]), (9 : Nat), (⟨5, 7, dk [(0, 16, 0),
      (32, 32, 0xABCD), (160, 32, 0x12345678)], false, 0, 0⟩ : DescRun), by decide +kernel⟩,
    ⟨run_ ready 9 false (dk [(0, 16, 0), (192, 1, 1)]), (9 : Nat), (⟨5, 7, dk [(0, 16, 0), (192, 1, 1)], false, 0, 0⟩ :
      DescRun), by decide +kernel⟩⟩

/-- States and operands that meet the hypotheses of ForeignDoorbells, clause by clause. -/
theorem test_meets_foreign_doorbells :
    (∃ (s : State) (d : Nat) (q : Nat), Ready s ∧ q < 64 ∧ d < 8 ∧ s.g (F.QP_CFG.OWNER q) ≠ d) ∧
    (∃ (s : State) (d : Nat) (q : Nat), Ready s ∧ q < 64 ∧ d < 8 ∧ s.g (F.QP_CFG.OWNER q) ≠ d) ∧
    (∃ (s : State) (d : Nat) (r : Nat), Ready s ∧ r < 5 ∧ ringOk s.part r = true ∧ d < 8 ∧ s.g (F.RR_CFG.OWNER r) ≠ d) :=
  ⟨
    ⟨(((ready.wr (R.QP_CFG 63) 0).p (F.QP_CFG.OWNER 63) 7).p (F.RR_CFG.OWNER 4) 6), (0 : Nat), (63 : Nat),
      by decide +kernel⟩,
    ⟨(((ready.wr (R.QP_CFG 63) 0).p (F.QP_CFG.OWNER 63) 7).p (F.RR_CFG.OWNER 4) 6), (6 : Nat), (63 : Nat),
      by decide +kernel⟩,
    ⟨(((ready.wr (R.QP_CFG 63) 0).p (F.QP_CFG.OWNER 63) 7).p (F.RR_CFG.OWNER 4) 6), (0 : Nat), (4 : Nat),
      by decide +kernel⟩⟩

/-- States and operands that meet the hypotheses of ThermalThresholds, clause by clause. -/
theorem test_meets_thermal_thresholds :
    (∃ (s : State) (v : Word), s.inService = true ∧ F.TH_CFG.TH1.of v < F.TH_CFG.TH2.of v ∧ F.TH_CFG.TH2.of v <
      F.TH_CFG.TH3.of v ∧ F.TH_CFG.TH3.of v < s.g F.TSD_CFG.TSD ∧ F.TH_CFG.TRST.of v < s.g F.TSD_CFG.TSD) ∧
    (∃ (s : State) (v : Word), s.inService = true ∧ ¬ (F.TH_CFG.TH1.of v < F.TH_CFG.TH2.of v ∧ F.TH_CFG.TH2.of v <
      F.TH_CFG.TH3.of v ∧ F.TH_CFG.TH3.of v < s.g F.TSD_CFG.TSD ∧ F.TH_CFG.TRST.of v < s.g F.TSD_CFG.TSD)) :=
  ⟨
    ⟨ready.p F.TSD_CFG.TSD 105, (BitVec.ofNat 32 (pack [(F.TH_CFG.TH1.lo, 8, 80), (F.TH_CFG.TH2.lo, 8, 90),
      (F.TH_CFG.TH3.lo, 8, 104), (F.TH_CFG.TRST.lo, 8, 104)]) : Word), by decide +kernel⟩,
    ⟨ready.p F.TSD_CFG.TSD 105, (BitVec.ofNat 32 (pack [(F.TH_CFG.TH1.lo, 8, 80), (F.TH_CFG.TH2.lo, 8, 104),
      (F.TH_CFG.TH3.lo, 8, 104), (F.TH_CFG.TRST.lo, 8, 104)]) : Word), by decide +kernel⟩⟩

/-! ### Statements about the whole device: states and commands that meet their hypotheses -/

/-- States that meet the hypotheses of EmptyQueueTicks, clause by clause. -/
theorem test_meets_empty_queue_ticks :
    (∃ s : State, s.pending = [] ∧ s.boot.vaux = true ∧ s.inService = false) ∧
    (∃ s : State, s.pending = [] ∧ s.boot.vaux = false) ∧
    (∃ s : State, s.pending = [] ∧ s.boot.vaux = true ∧ s.inService = true) :=
  ⟨⟨State.reset, by decide +kernel⟩, ⟨{ ready with boot := { ready.boot with vaux := false } }, by decide +kernel⟩,
    ⟨ready, by decide +kernel⟩⟩

/-- A state, its step and the state after it that meet the hypotheses of EveryStepKeepsTheTables. -/
theorem test_meets_every_step_keeps_the_tables : ∃ s t : State, Inv s ∧ step s = .next t :=
  ⟨{ State.reset with pending := [.perstNRelease] }, _, ⟨by decide +kernel, by decide +kernel⟩, rfl⟩

/-- A command that stores nothing in the port named, and its run. -/
theorem test_meets_bulk_memory_frame :
    ∃ (i : Instr) (s t : State) (p a : Nat), p < 103 ∧ a < 2 ^ 32 ∧ mayStore i p = false ∧ exec i s = .next t :=
  ⟨.portDataWrite 102 0 5#32, ready, _, 101, 7, by decide, by decide, by decide +kernel, rfl⟩

/-- A command of hall 31, and a register of hall 30. -/
theorem test_meets_hall_register_frame :
    ∃ (i : Instr) (h a : Nat) (s t : State), actsOnHall h i = true ∧ exec i s = .next t ∧ hallPage h a = false ∧ a ∉ sharedRegs :=
  ⟨.axisCtlWrite 31 5#32, 31, R.AXIS_CTL 30, ready, _, by decide +kernel, rfl, by decide +kernel, by decide +kernel⟩

/-- Commands and registers that meet the hypotheses of ConfigurationFrames, clause by clause. -/
theorem test_meets_configuration_frames :
    (∃ (p : Nat) (v : Word) (i : Instr) (s t : State) (a : Nat), i ∈ [.portAddrWrite p v, .portCtlWrite p v, .portAptWrite p v] ∧
      exec i s = .next t ∧ a ∉ [R.PORT_ADDR p, R.PORT_CTL p, R.PORT_STAT p, R.PORT_APT p, R.THERM_STAT]) ∧
    (∃ (path : Path) (p k : Nat) (s t : State) (a : Nat), exec (.portDataRead path p k) s = .next t ∧
      a ∉ [R.PORT_ADDR p, R.PORT_STAT p, R.PORT_DATA p 0, R.PORT_DATA p 1, R.PORT_DATA p 2, R.PORT_DATA p 3] ∧ s.portLast p < 4) ∧
    (∃ (e : Nat) (r : EvReg) (v : Word) (s t : State) (a : Nat), exec (.evConfigWrite e r v) s = .next t ∧
      a ∉ [R.EV_CFG e, R.EV_HALLS e, R.EV_GSTAT, R.THERM_STAT] ++ journalRegs ∧ (∀ k < 8, a ≠ R.EV_PMASK e k) ∧
      (∀ k < 5, a ≠ R.EV_CMASK e k)) ∧
    (∃ (d q : Nat) (v : Word) (s t : State) (a : Nat), exec (.sqDoorbell d q v) s = .next t ∧
      a ∉ [R.QP_STAT q, R.THERM_STAT] ++ journalRegs) ∧
    (∃ (i : Instr) (u : Nat) (s t : State),
      i ∈ [.perstNRelease, .indexGapClose u, .xferSettleDone u, .journalFrameSend, .helloSend u] ∧ exec i s = .next t) :=
  ⟨⟨102, 8#32, .portAddrWrite 102 8#32, ready, _, R.PORT_ADDR 101, by decide, rfl, by decide +kernel⟩,
    ⟨.pcie, 102, 0, ready, _, R.PORT_ADDR 101, rfl, by decide +kernel, by decide +kernel⟩,
    ⟨63, .halls, 9#32, ready, _, R.EV_HALLS 62, rfl, by decide +kernel, by decide +kernel, by decide +kernel⟩,
    ⟨0, 63, 9#32, ready, _, R.QP_STAT 62, rfl, by decide +kernel⟩,
    ⟨.helloSend 0, 0, ready, _, by decide, rfl⟩⟩

/-! ### Commands that WellFormed refuses: one for each of its checks -/

/-- Halls, banks, channels, slots and sets out of range. -/
theorem test_wf_refuses_halls :
    ([.axisEnable 32 0, .axisLoss 0 5, .ratioWrite 0 8 false 0, .tsetWrite 0 64 .hdr 0, .tsetWrite 0 0 (.drv 32) 0,
      .tsetWrite 0 0 (.cmp 32) 0, .peEnWrite 0 32 true, .compSettleEnd 0 32 3, .peTrip 32 0 3, .tdcGo 0 64, .tdcSetWrite 0 0 4 0,
      .tdcEvent 0 0 3 0 0, .jmpReq 0 65536, .deadlinePass 0 3, .bcastWrite 0 4 false 0, .compareInstant 0 0 262144 [0],
      .compareInstant 0 0 0 [], .loadFlightDmaDone 0 4096 [], .hseConfigWrite 0 (.slotA 256) 0] : List Instr).all
      (fun i => !i.wf) = true := by decide
/-- SMU, serial-engine, queue, ring and vector numbers out of range. -/
theorem test_wf_refuses_host :
    ([.smuEnWrite 64 true, .smuTrip 0 3, .pdissTrip 16, .measDelayEnd 0 32, .msetWrite 0 16 0 0, .msetWrite 0 0 4 0, .ddsStart 0 16,
      .hseConfigWrite 0 (.slotB 256) 0, .hseConfigWrite 0 (.slotC 256) 0, .hseConfigWrite 0 (.slotD 256) 0,
      .hseConfigWrite 0 (.lmapA 8) 0, .hseConfigWrite 0 (.lmapB 8) 0, .nop 64, .sqDoorbell 8 0 0, .rrHeadDoorbell 0 5 0,
      .msixMessage 128 false] : List Instr).all (fun i => !i.wf) = true := by decide
/-- Numbers of the remaining units out of range. -/
theorem test_wf_refuses_units :
    ([.acqSettleDone 4, .rsUnderrun 4 0 0, .rsLaneWrite 36 0, .evConfigWrite 64 .cfg 0, .evConfigWrite 0 (.pmask 8) 0,
      .evConfigWrite 0 (.cmask 5) 0, .tmGo 16 0, .trigoutPulseEnd 8 none, .helloSend 2, .peerMissed 64, .gtlRise 256, .ttArm 8 0,
      .wireFault 512, .warmingDone 54 true 0 0, .sdComparatorTrip 64, .calSliceStart 0 8 1, .calSliceStart 54 0 1,
      .portAddrWrite 103 0, .portDataWrite 0 4 0, .regWrite .bar0 (2 ^ 27) 4 0, .regWrite .bar0 0 5 0, .regWrite .bar0 0 0 0,
      .mspiFrameHeader 256] : List Instr).all (fun i => !i.wf) = true := by decide
/-- The largest numbers are taken. -/
theorem test_wf_takes_the_last :
    ([.axisEnable 31 0, .ratioWrite 31 7 true 0, .smuEnWrite 63 true, .nop 63, .rrHeadDoorbell 7 4 0, .portDataWrite 102 3 0,
      .jmpReq 31 65535, .warmingDone 53 true 0 0] : List Instr).all (fun i => i.wf) = true := by decide

/-! ### A few steps worked from the manual -/

/-- No table row has bits, so no word spells a command. -/
theorem test_no_word_spells_a_command (n w : Nat) : decodeTableWord n w = none := rfl
/-- R95: the check value of CRC-32 with the reflected polynomial 0xEDB8_8320, of the digits 1 to 9. -/
theorem test_crc32 : crc32 [0x31, 0x32, 0x33, 0x34, 0x35, 0x36, 0x37, 0x38, 0x39] = 0xCBF43926 := by decide +kernel
/-- R46: a position of 2^48 − 1 becomes zero. -/
theorem test_axis_wraps :
    (nextOf (exec (.axisWrap 31) ((ready.p (F.AXIS_STAT.STATE 31) axLocked).setPos 31 (2 ^ 48 - 1)))).map (fun t => t.pos 31) =
      some 0 := by decide +kernel
/-- R228: a tail doorbell beyond a ring of 32 entries changes no index and sets DB_ERR. -/
theorem test_doorbell_beyond_the_ring :
    (nextOf (exec (.sqDoorbell 0 9 32#32) ((ready.p (F.QP_CFG.SQ_LOG 9) 5).p (F.QP_STAT.STATE 9) 1))).map
      (fun t => (t.is (F.QP_STAT.DB_ERR 9), (t.queue 9).tail)) = some (true, 0) := by decide +kernel
/-- R453: thresholds out of order are refused. -/
theorem test_thresholds_out_of_order :
    (nextOf (exec (.thCfgWrite 0x50605A5A#32) ready)).map (fun t => (t.rd R.TH_CFG, t.is F.THERM_STAT.CFG_ERR)) =
      some (ready.rd R.TH_CFG, true) := by decide +kernel
/-- R10: a halfword write changes nothing. -/
theorem test_halfword_write : exec (.regWrite .bar0 (R.MSIX_MOD 3) 2 7#32) ready = .next ready := rfl
/-- The command in front runs and leaves the queue. -/
theorem test_queue_runs_in_order :
    (nextOf (step { State.reset with pending := [.perstNRelease, .axzSample] })).map (fun t => (t.boot.perstN, t.pending.length)) =
      some (true, 1) := by decide +kernel

end Sys2Proof.Tests
end

section
/-! PROOF. Every command goes on to a next state (the table of `exec` against the `Same` and `Keeps` laws of Laws). -/
namespace Sys2Proof.Machine

/-- Every command goes on to a next state that leaves the part and the queue as they were. -/
theorem exec_runsKeeps (i : Instr) (s : State) : RunsKeeps s (exec i s) :=
  match i with
  | .axisEnable .. => (execAxisEnable_same ..).keeps
  | .axisDisable .. => (execAxisDisable_same ..).keeps
  | .axisZero .. => (execAxisZero_same ..).keeps
  | .axisCtlWrite .. => (execAxisCtlWrite_same ..).keeps
  | .axisLock .. => (execAxisLock_same ..).keeps
  | .axisLoss .. => (execAxisLoss_same ..).keeps
  | .holdoverExit .. => (execHoldoverExit_same ..).keeps
  | .axisWrap .. => (execAxisWrap_same ..).keeps
  | .ratioWrite .. => (execRatioWrite_same ..).keeps
  | .synArm .. => (execSynArm_same ..).keeps
  | .synTreadApply .. => (execSynTreadApply_same ..).keeps
  | .tsetWrite .. => (execTsetWrite_same ..).keeps
  | .axzArm => execAxzArm_same.keeps
  | .axzSample => execAxzSample_same.keeps
  | .axzZero => execAxzZero_same.keeps
  | .loadFlight .. => (execLoadFlight_same ..).keeps
  | .loadFlightDmaDone .. => execLoadFlightDmaDone_keeps ..
  | .loadFlightDmaFail .. => (execLoadFlightDmaFail_same ..).keeps
  | .fltDescLoRead .. => (execFltDescLoRead_same ..).keeps
  | .smuEnWrite .. => (execSmuEnWrite_same ..).keeps
  | .smuCtlWrite .. => (execSmuCtlWrite_same ..).keeps
  | .smuForceWrite .. => (execSmuForceWrite_same ..).keeps
  | .smuForceUpdate .. => (execSmuForceUpdate_same ..).keeps
  | .smuBridgeEnd .. => (execSmuBridgeEnd_same ..).keeps
  | .smuClamp .. => (execSmuClamp_same ..).keeps
  | .smuTrip .. => (execSmuTrip_same ..).keeps
  | .smuSwitchOpen .. => (execSmuSwitchOpen_same ..).keeps
  | .smuTripClear .. => (execSmuTripClear_same ..).keeps
  | .pdissTrip .. => (execPdissTrip_same ..).keeps
  | .measDelayEnd .. => (execMeasDelayEnd_same ..).keeps
  | .measConvert .. => (execMeasConvert_same ..).keeps
  | .msetWrite .. => (execMsetWrite_same ..).keeps
  | .ddsStart .. => (execDdsStart_same ..).keeps
  | .ddsStop .. => (execDdsStop_same ..).keeps
  | .ddsFtwWrite .. => (execDdsFtwWrite_same ..).keeps
  | .ddsPhaseWrite .. => (execDdsPhaseWrite_same ..).keeps
  | .peEnWrite .. => (execPeEnWrite_same ..).keeps
  | .dacArchWrite .. => (execDacArchWrite_same ..).keeps
  | .levelUpdate .. => (execLevelUpdate_same ..).keeps
  | .rangeCrossover .. => (execRangeCrossover_same ..).keeps
  | .rangeTarget .. => (execRangeTarget_same ..).keeps
  | .rangeBridgeEnd .. => (execRangeBridgeEnd_same ..).keeps
  | .compSettleEnd .. => (execCompSettleEnd_same ..).keeps
  | .peTrip .. => (execPeTrip_same ..).keeps
  | .tripClear .. => (execTripClear_same ..).keeps
  | .tripCtlWrite .. => (execTripCtlWrite_same ..).keeps
  | .ppGo .. => (execPpGo_same ..).keeps
  | .ppDone .. => (execPpDone_same ..).keeps
  | .parametricPhaseEnd .. => (execParametricPhaseEnd_same ..).keeps
  | .touchdown .. => (execTouchdown_same ..).keeps
  | .touchdownPhaseEnd .. => (execTouchdownPhaseEnd_same ..).keeps
  | .setLevels .. => (execSetLevels_same ..).keeps
  | .setLevelsCommit .. => (execSetLevelsCommit_same ..).keeps
  | .dacClrFall => execDacClrFall_same.keeps
  | .dacClrRise => execDacClrRise_same.keeps
  | .tdcGo .. => (execTdcGo_same ..).keeps
  | .tdcAbort .. => (execTdcAbort_same ..).keeps
  | .tdcSetWrite .. => (execTdcSetWrite_same ..).keeps
  | .tdcEvent .. => (execTdcEvent_same ..).keeps
  | .tdcAxisStart .. => (execTdcAxisStart_same ..).keeps
  | .sampleEnd .. => (execSampleEnd_same ..).keeps
  | .statsAccept .. => (execStatsAccept_same ..).keeps
  | .regGateClose .. => (execRegGateClose_same ..).keeps
  | .regResult .. => (execRegResult_same ..).keeps
  | .readStats .. => (execReadStats_same ..).keeps
  | .hseTransferStart .. => (execHseTransferStart_same ..).keeps
  | .serialXfer .. => (execSerialXfer_same ..).keeps
  | .xferSettleDone .. => (execXferSettleDone_same ..).keeps
  | .bspiGo .. => (execBspiGo_same ..).keeps
  | .bspiDone .. => (execBspiDone_same ..).keeps
  | .nopInstr .. => execNopInstr_keeps ..
  | .halt .. => execHalt_keeps ..
  | .play .. => execPlay_keeps ..
  | .playn .. => execPlayn_keeps ..
  | .loop .. => execLoop_keeps ..
  | .next .. => execNext_keeps ..
  | .call .. => execCall_keeps ..
  | .ret .. => execRet_keeps ..
  | .br .. => execBr_keeps ..
  | .brw .. => execBrw_keeps ..
  | .sett .. => execSett_keeps ..
  | .waita .. => execWaita_keeps ..
  | .sync .. => execSync_keeps ..
  | .setl .. => execSetl_keeps ..
  | .send .. => execSend_keeps ..
  | .tdc .. => execTdc_keeps ..
  | .meas .. => execMeas_keeps ..
  | .emit .. => execEmit_keeps ..
  | .acc .. => execAcc_keeps ..
  | .bin .. => execBin_keeps ..
  | .flag .. => execFlag_keeps ..
  | .yield .. => execYield_keeps ..
  | .gap .. => execGap_keeps ..
  | .reservedOpcode .. => execReservedOpcode_keeps ..
  | .segmentLimit .. => (execSegmentLimit_same ..).keeps
  | .leadPoint .. => execLeadPoint_keeps ..
  | .dispatch .. => execDispatch_keeps ..
  | .landing .. => (execLanding_same ..).keeps
  | .decisionArrival .. => execDecisionArrival_keeps ..
  | .headFillDone .. => (execHeadFillDone_same ..).keeps
  | .stallEnd .. => (execStallEnd_same ..).keeps
  | .stallLimit .. => execStallLimit_keeps ..
  | .stretchEnd .. => (execStretchEnd_same ..).keeps
  | .waitRelease .. => (execWaitRelease_same ..).keeps
  | .brwResample .. => (execBrwResample_same ..).keeps
  | .brwTimeout .. => (execBrwTimeout_same ..).keeps
  | .syncSample .. => (execSyncSample_same ..).keeps
  | .syncRelease .. => (execSyncRelease_same ..).keeps
  | .syncResume .. => (execSyncResume_same ..).keeps
  | .jmpReq .. => (execJmpReq_same ..).keeps
  | .swapSitesel .. => (execSwapSitesel_same ..).keeps
  | .swapSettleDone .. => execSwapSettleDone_keeps ..
  | .deskewWrite .. => execDeskewWrite_keeps ..
  | .loadStair .. => (execLoadStair_same ..).keeps
  | .loadStairDone .. => execLoadStairDone_keeps ..
  | .bindAlcove .. => (execBindAlcove_same ..).keeps
  | .releaseAlcove .. => (execReleaseAlcove_same ..).keeps
  | .startRun .. => execStartRun_keeps ..
  | .stopRun .. => execStopRun_keeps ..
  | .compareInstant .. => (execCompareInstant_same ..).keeps
  | .deadlinePass .. => (execDeadlinePass_same ..).keeps
  | .deadlineWrite .. => (execDeadlineWrite_same ..).keeps
  | .pbudgetWrite .. => execPbudgetWrite_keeps ..
  | .bcastWrite .. => (execBcastWrite_same ..).keeps
  | .schedBankWrite .. => (execSchedBankWrite_same ..).keeps
  | .measArrive .. => execMeasArrive_keeps ..
  | .measDone .. => execMeasDone_keeps ..
  | .hseEnqueue .. => execHseEnqueue_keeps ..
  | .hseTransferEnd .. => execHseTransferEnd_keeps ..
  | .hseAbort .. => execHseAbort_keeps ..
  | .hseConfigWrite .. => execHseConfigWrite_keeps ..
  | .sqDoorbell .. => (execSqDoorbell_same ..).keeps
  | .cqDoorbell .. => (execCqDoorbell_same ..).keeps
  | .rrHeadDoorbell .. => (execRrHeadDoorbell_same ..).keeps
  | .descFetch .. => (execDescFetch_same ..).keeps
  | .descFetchFail .. => (execDescFetchFail_same ..).keeps
  | .descStart => execDescStart_same.keeps
  | .completionWrite .. => (execCompletionWrite_same ..).keeps
  | .qpEnable .. => (execQpEnable_same ..).keeps
  | .qpDisable .. => (execQpDisable_same ..).keeps
  | .qpDrainDone .. => (execQpDrainDone_same ..).keeps
  | .rrEnable .. => (execRrEnable_same ..).keeps
  | .rrDisable .. => (execRrDisable_same ..).keeps
  | .resultRecordWrite .. => (execResultRecordWrite_same ..).keeps
  | .rrWriteback .. => (execRrWriteback_same ..).keeps
  | .msixMessage .. => (execMsixMessage_same ..).keeps
  | .msixUnmask .. => (execMsixUnmask_same ..).keeps
  | .nop .. => (execNop_same ..).keeps
  | .fence .. => (execFence_same ..).keeps
  | .fenceDone .. => (execFenceDone_same ..).keeps
  | .acqArm .. => execAcqArm_keeps ..
  | .acqSettleDone .. => (execAcqSettleDone_same ..).keeps
  | .acqPreDone .. => execAcqPreDone_keeps ..
  | .acqTrigger .. => execAcqTrigger_keeps ..
  | .acqTimeout .. => execAcqTimeout_keeps ..
  | .acqForce .. => execAcqForce_keeps ..
  | .acqAbort .. => execAcqAbort_keeps ..
  | .acqPostDone .. => execAcqPostDone_keeps ..
  | .acqRecordWrite .. => (execAcqRecordWrite_same ..).keeps
  | .acqDecim .. => execAcqDecim_keeps ..
  | .acqOverrun .. => execAcqOverrun_keeps ..
  | .rasterCommit .. => (execRasterCommit_same ..).keeps
  | .rsCommitApply => execRsCommitApply_same.keeps
  | .rsKillApply => execRsKillApply_same.keeps
  | .rsStartBlank => execRsStartBlank_same.keeps
  | .rsLineMatch => execRsLineMatch_same.keeps
  | .rsFrameDone => execRsFrameDone_same.keeps
  | .rsUnderrun .. => (execRsUnderrun_same ..).keeps
  | .rsResyncEnd => execRsResyncEnd_same.keeps
  | .rsFrameIncrement => execRsFrameIncrement_same.keeps
  | .rsRecordWrite => execRsRecordWrite_same.keeps
  | .rsLaneWrite .. => (execRsLaneWrite_same ..).keeps
  | .eventEmit .. => (execEventEmit_same ..).keeps
  | .evSwset .. => (execEvSwset_same ..).keeps
  | .evdSwset .. => (execEvdSwset_same ..).keeps
  | .evConfigWrite .. => (execEvConfigWrite_same ..).keeps
  | .tmGo .. => (execTmGo_same ..).keeps
  | .tmStop .. => (execTmStop_same ..).keeps
  | .timerOutput .. => (execTimerOutput_same ..).keeps
  | .timerWindowEnd .. => (execTimerWindowEnd_same ..).keeps
  | .journalMarkDrain => execJournalMarkDrain_same.keeps
  | .trigoutPulseEnd .. => (execTrigoutPulseEnd_same ..).keeps
  | .helloSend .. => (execHelloSend_same ..).keeps
  | .helloRx .. => (execHelloRx_same ..).keeps
  | .peerMissed .. => (execPeerMissed_same ..).keeps
  | .frameRxDrop => execFrameRxDrop_same.keeps
  | .failmapSend => execFailmapSend_same.keeps
  | .failmapRx .. => (execFailmapRx_same ..).keeps
  | .peerAdmit .. => (execPeerAdmit_same ..).keeps
  | .peerRemove .. => (execPeerRemove_same ..).keeps
  | .roleWrite .. => (execRoleWrite_same ..).keeps
  | .galJoin => execGalJoin_same.keeps
  | .galLeave => execGalLeave_same.keeps
  | .galLinkChange .. => (execGalLinkChange_same ..).keeps
  | .gtlRise .. => (execGtlRise_same ..).keeps
  | .ptpSyncSend => execPtpSyncSend_same.keeps
  | .ptpAnnounceSend => execPtpAnnounceSend_same.keeps
  | .ptpDelayReqSend => execPtpDelayReqSend_same.keeps
  | .ptpDelayReqRx .. => (execPtpDelayReqRx_same ..).keeps
  | .ptpDelayRespRx .. => (execPtpDelayRespRx_same ..).keeps
  | .ptpSyncRx .. => (execPtpSyncRx_same ..).keeps
  | .ptpSyncLoss => execPtpSyncLoss_same.keeps
  | .tbSnap => execTbSnap_same.keeps
  | .nsWrap => execNsWrap_same.keeps
  | .timeStep .. => (execTimeStep_same ..).keeps
  | .timeRate .. => (execTimeRate_same ..).keeps
  | .ttArm .. => (execTtArm_same ..).keeps
  | .ttDisarm .. => (execTtDisarm_same ..).keeps
  | .ttFire .. => (execTtFire_same ..).keeps
  | .ttPulseEnd .. => (execTtPulseEnd_same ..).keeps
  | .refclkLoss => execRefclkLoss_same.keeps
  | .refclkPresent => execRefclkPresent_same.keeps
  | .refLoopLock => execRefLoopLock_same.keeps
  | .faultOccurrence .. => execFaultOccurrence_keeps ..
  | .wireFault .. => execWireFault_keeps ..
  | .wireHealthy .. => (execWireHealthy_same ..).keeps
  | .baninUnsafe => execBaninUnsafe_same.keeps
  | .baninReturnSafe => execBaninReturnSafe_same.keeps
  | .releaseSafe .. => (execReleaseSafe_same ..).keeps
  | .fltCfgWrite .. => (execFltCfgWrite_same ..).keeps
  | .fltLogRead .. => (execFltLogRead_same ..).keeps
  | .fenceUnit .. => execFenceUnit_keeps ..
  | .admitUnit .. => (execAdmitUnit_same ..).keeps
  | .warmingDone .. => execWarmingDone_keeps ..
  | .hkRoundEnd .. => execHkRoundEnd_keeps ..
  | .lvlFloorWrite .. => execLvlFloorWrite_keeps ..
  | .thCfgWrite .. => (execThCfgWrite_same ..).keeps
  | .tsdWrite .. => (execTsdWrite_same ..).keeps
  | .tsReturn .. => (execTsReturn_same ..).keeps
  | .sdComparatorTrip .. => (execSdComparatorTrip_same ..).keeps
  | .thermalShutdown => execThermalShutdown_keeps
  | .sdSeenClear => execSdSeenClear_same.keeps
  | .indexGap .. => (execIndexGap_same ..).keeps
  | .indexGapClose .. => (execIndexGapClose_same ..).keeps
  | .calRun .. => (execCalRun_same ..).keeps
  | .calRunDone => execCalRunDone_keeps
  | .calSave .. => execCalSave_keeps ..
  | .calRestore .. => execCalRestore_keeps ..
  | .bistRun .. => execBistRun_keeps ..
  | .bistDone .. => execBistDone_keeps ..
  | .calSliceStart .. => (execCalSliceStart_same ..).keeps
  | .calSliceEnd .. => execCalSliceEnd_keeps ..
  | .walkStep .. => (execWalkStep_same ..).keeps
  | .portDma .. => (execPortDma_same ..).keeps
  | .portDmaUnit .. => execPortDmaUnit_keeps ..
  | .portDataWrite .. => execPortDataWrite_keeps ..
  | .portDataRead .. => (execPortDataRead_same ..).keeps
  | .portAddrWrite .. => (execPortAddrWrite_same ..).keeps
  | .portCtlWrite .. => (execPortCtlWrite_same ..).keeps
  | .portAptWrite .. => (execPortAptWrite_same ..).keeps
  | .apertureWrite .. => execApertureWrite_keeps ..
  | .apertureRead .. => (execApertureRead_same ..).keeps
  | .journalCtl .. => execJournalCtl_keeps ..
  | .journalRingWrite => execJournalRingWrite_same.keeps
  | .journalFrameSend => execJournalFrameSend_same.keeps
  | .journalFrameRx .. => (execJournalFrameRx_same ..).keeps
  | .digestReady => execDigestReady_same.keeps
  | .replayEnd => execReplayEnd_keeps
  | .vauxApply => execVauxApply_same.keeps
  | .vauxRemove => execVauxRemove_keeps
  | .porNFall => execPorNFall_keeps
  | .porNRise => execPorNRise_same.keeps
  | .bootStageEnd .. => execBootStageEnd_keeps ..
  | .pgoodInChange .. => (execPgoodInChange_same ..).keeps
  | .perstNAssert => execPerstNAssert_same.keeps
  | .perstNRelease => execPerstNRelease_same.keeps
  | .pcieLinkLoss => execPcieLinkLoss_same.keeps
  | .flr => execFlr_same.keeps
  | .warmReset .. => execWarmReset_keeps ..
  | .regWrite .. => execRegWrite_keeps ..
  | .counterLowRead .. => (execCounterLowRead_same ..).keeps
  | .mspiFrameHeader .. => (execMspiFrameHeader_same ..).keeps
  | .mspiWriteWord .. => execMspiWriteWord_keeps ..
  | .mspiReadWord .. => (execMspiReadWord_same ..).keeps
  | .mspiFrameEnd .. => (execMspiFrameEnd_same ..).keeps
  | .mspiWinWrite .. => execMspiWinWrite_keeps ..
  | .replayInput .. => execReplayInput_keeps ..

/-- A core cycle and a command alike leave a next state, with the part as it was and the front of the queue gone. -/
theorem step_goesOn (s : State) : ∃ t, step s = .next t ∧ t.part = s.part ∧ t.pending = s.pending.tail := by
  unfold step
  split
  case h_1 c rest hq =>
    obtain ⟨t, he, hk⟩ := exec_runsKeeps c { s with pending := rest }
    exact ⟨t, he, hk.part, by rw [hk.pending, hq]; rfl⟩
  case h_2 hq =>
    have hk := tick_keeps (.refl s)
    exact ⟨tick s, rfl, hk.part, by rw [hk.pending, hq]; rfl⟩

/-- Settles O51. -/
theorem everyStepGoesOn : Obligations.EveryStepGoesOn := step_goesOn

end Sys2Proof.Machine
end

section
/-! PROOF. Shared layer: folds over the units of a range, and reads of registers after the shared operations. -/
namespace Sys2Proof.Machine

/-! ### Folds over a range -/

theorem State.each_succ (s : State) (n : Nat) (f : Nat → State → State) : s.each (n + 1) f = f n (s.each n f) := by
  simp [State.each, List.range_succ]

/-- What every step of a fold keeps holds after the fold. -/
theorem State.each_inv {I : State → Prop} {s : State} {n : Nat} {f : Nat → State → State} (h0 : I s)
    (step : ∀ k < n, ∀ t, I t → I (f k t)) : I (s.each n f) := by
  induction n with
  | zero => exact h0
  | succ n ih =>
    rw [State.each_succ]
    exact step n (by omega) _ (ih fun k hk => step k (by omega))

/-- One step of a fold establishes `P`: the steps before it keep what it needs, and those after it keep `P`. -/
theorem State.each_reaches {I P : State → Prop} {s : State} {n i : Nat} {f : Nat → State → State} (hi : i < n) (h0 : I s)
    (before : ∀ k < n, k ≠ i → ∀ t, I t → I (f k t)) (here : ∀ t, I t → P (f i t))
    (after : ∀ k < n, k ≠ i → ∀ t, P t → P (f k t)) : P (s.each n f) := by
  induction n with
  | zero => omega
  | succ n ih =>
    rw [State.each_succ]
    by_cases hn : i = n
    · subst hn
      exact here _ (State.each_inv h0 fun k hk => before k (by omega) (by omega))
    · exact after n (by omega) (Ne.symm hn) _
        (ih (by omega) (fun k hk => before k (by omega)) (fun k hk => after k (by omega)))

/-! ### Flags -/

/-- A flag just put reads the lowest bit of the value; for a flag of the map the bounds hold by evaluation. -/
theorem State.is_p_same (s : State) (f : FRef) (v : Nat) (h : (Nat.ble (f.lo + 1) 32 && Nat.beq f.len 1) = true) :
    (s.p f v).is f = (v % 2 == 1) := by
  simp only [Bool.and_eq_true, Nat.ble_eq, Nat.beq_eq] at h
  rw [State.is, State.g_p_same _ _ _ (by omega), h.2, pow_one]

/-- A field set leaves the fields of other registers. -/
theorem State.is_p_reg (s : State) {f k : FRef} (v : Nat) (h : k.addr ≠ f.addr) : (s.p f v).is k = s.is k := by
  rw [State.is, State.g_p_ne _ _ (.inl h), State.is]

/-- A field set leaves the fields that share no bit with it; for two fields of the map the bits decide by evaluation. -/
theorem State.g_p_field (s : State) {f k : FRef} (v : Nat)
    (h : (Nat.ble (f.lo + f.len) k.lo || Nat.ble (k.lo + k.len) f.lo) = true) : (s.p f v).g k = s.g k := by
  simp only [Bool.or_eq_true, Nat.ble_eq] at h
  exact State.g_p_ne _ _ (.inr h)
theorem State.is_p_field (s : State) {f k : FRef} (v : Nat)
    (h : (Nat.ble (f.lo + f.len) k.lo || Nat.ble (k.lo + k.len) f.lo) = true) : (s.p f v).is k = s.is k := by
  rw [State.is, State.g_p_field _ _ h, State.is]

/-! ### Emissions and sources -/

@[simp] theorem State.emit_regs (s : State) (i : Nat) : (s.emit i).regs = s.regs := by unfold State.emit; split <;> rfl
@[simp] theorem State.emit_part (s : State) (i : Nat) : (s.emit i).part = s.part := by unfold State.emit; split <;> rfl
@[simp] theorem State.emit_chans (s : State) (i : Nat) : (s.emit i).chans = s.chans := by unfold State.emit; split <;> rfl
@[simp] theorem State.raise_regs (s : State) (i d : Nat) (l : List Nat) : (s.raise i d l).regs = s.regs := by
  unfold State.raise; split <;> rfl
@[simp] theorem State.raise_part (s : State) (i d : Nat) (l : List Nat) : (s.raise i d l).part = s.part := by
  unfold State.raise; split <;> rfl
@[simp] theorem State.raise_chans (s : State) (i d : Nat) (l : List Nat) : (s.raise i d l).chans = s.chans := by
  unfold State.raise; split <;> rfl

/-- States with one register table and one part read alike. -/
theorem State.rd_congr {s t : State} (h : t.regs = s.regs) (k : t.part = s.part) (a : Nat) : t.rd a = s.rd a := by
  unfold State.rd; rw [h, k]
theorem State.g_congr {s t : State} (h : t.regs = s.regs) (k : t.part = s.part) (f : FRef) : t.g f = s.g f := by
  unfold State.g; rw [State.rd_congr h k]
theorem State.is_congr {s t : State} (h : t.regs = s.regs) (k : t.part = s.part) (f : FRef) : t.is f = s.is f := by
  unfold State.is; rw [State.g_congr h k]

@[simp] theorem State.emit_g (s : State) (i : Nat) (f : FRef) : (s.emit i).g f = s.g f := State.g_congr (by simp) (by simp) f
@[simp] theorem State.emit_is (s : State) (i : Nat) (f : FRef) : (s.emit i).is f = s.is f := State.is_congr (by simp) (by simp) f
@[simp] theorem State.raise_g (s : State) (i d : Nat) (l : List Nat) (f : FRef) : (s.raise i d l).g f = s.g f :=
  State.g_congr (by simp) (by simp) f
@[simp] theorem State.raise_is (s : State) (i d : Nat) (l : List Nat) (f : FRef) : (s.raise i d l).is f = s.is f :=
  State.is_congr (by simp) (by simp) f

/-- A field put gives one register table on states that read alike. -/
theorem State.p_regs_congr {s t : State} (h : t.regs = s.regs) (k : t.part = s.part) (f : FRef) (v : Nat) :
    (t.p f v).regs = (s.p f v).regs := by
  unfold State.p State.wr; simp only [State.rd_congr h k, h, k]

/-- No part has more than 32 halls. -/
theorem Part_halls_le (p : Part) : p.halls ≤ 32 := by cases p <;> decide

theorem State.hallOk_of_lt {s : State} {h : Nat} (hh : h < s.part.halls) : s.hallOk h = true := by
  simpa [State.hallOk] using hh

/-- A field of one bit is that bit. -/
theorem natBits_one (m c : Nat) : natBits m c 1 = (m.testBit c).toNat := by
  rw [Nat.toNat_testBit, natBits, Nat.shiftRight_eq_div_pow, pow_one]

/-- Bit `c` of a number from which it has been taken. -/
theorem natBits_sub_bit (m c : Nat) : natBits (m - 2 ^ c * natBits m c 1) c 1 = 0 := by
  have hd := Nat.div_add_mod m (2 ^ c)
  have hlt := Nat.mod_lt m (Nat.two_pow_pos c)
  have hq := Nat.div_add_mod (m / 2 ^ c) 2
  simp only [natBits, Nat.shiftRight_eq_div_pow, pow_one]
  have he : m - 2 ^ c * (m / 2 ^ c % 2) = m % 2 ^ c + 2 ^ c * (2 * (m / 2 ^ c / 2)) := by
    have h1 : 2 ^ c * (m / 2 ^ c) = 2 ^ c * (2 * (m / 2 ^ c / 2)) + 2 ^ c * (m / 2 ^ c % 2) := by
      rw [← Nat.mul_add, hq]
    omega
  rw [he, Nat.add_mul_div_left _ _ (Nat.two_pow_pos c), Nat.div_eq_of_lt hlt]
  omega

end Sys2Proof.Machine
end

section
/-! PROOF. Trips of SMU and PE channels (R287–R292, R309): what a trip latches and what it leaves, and O10. -/
namespace Sys2Proof.Machine

/-! ### Trips of SMU channels -/

theorem State.modSmu_regs (s : State) (k : Nat) (f : SmuX → SmuX) : (s.modSmu k f).regs = s.regs := rfl
theorem State.modGrp_regs (s : State) (g : Nat) (f : GrpX → GrpX) : (s.modGrp g f).regs = s.regs := rfl
theorem ddsStopNow_regs (k : Nat) (s : State) : (ddsStopNow k s).regs = (s.p (F.SMU_STAT.DDS_RUN k) 0).regs := rfl
theorem ddsStopNow_part (k : Nat) (s : State) : (ddsStopNow k s).part = s.part := rfl
theorem smuBridgeStop_regs (k : Nat) (s : State) : (smuBridgeStop k s).regs = (s.p (F.SMU_STAT.RANGE_BUSY k) 0).regs := rfl

/-- The end of the sine and of a bridge clear one flag each. -/
theorem smuStops_regs (k : Nat) (s : State) : ((ddsStopNow k s).p (F.SMU_STAT.RANGE_BUSY k) 0).regs =
    ((s.p (F.SMU_STAT.DDS_RUN k) 0).p (F.SMU_STAT.RANGE_BUSY k) 0).regs :=
  State.p_regs_congr (ddsStopNow_regs _ _) (ddsStopNow_part _ _) _ _

/-- A trip that is neither gated nor latched writes the status of its channel and no other register (R309). -/
theorem smuTrip_regs {k src : Nat} {s : State} (hg : s.smuGated k = false) (ht : s.is (F.SMU_STAT.TRIPPED k) = false) :
    (smuTrip k src s).regs = ((((s.set1 (F.SMU_STAT.TRIPPED k)).p (F.SMU_STAT.TRIP_SRC k) src).p
      (F.SMU_STAT.DDS_RUN k) 0).p (F.SMU_STAT.RANGE_BUSY k) 0).regs := by
  unfold smuTrip
  rw [if_neg (by simp [hg, ht]), State.raise_regs, State.emit_regs, State.modGrp_regs, State.modSmu_regs, smuBridgeStop_regs]
  rw [smuStops_regs]

theorem smuTrip_idle {k src : Nat} {s : State} (h : (s.smuGated k || s.is (F.SMU_STAT.TRIPPED k)) = true) :
    smuTrip k src s = s := by
  unfold smuTrip; rw [if_pos h]

theorem smuTrip_part (k src : Nat) (s : State) : (smuTrip k src s).part = s.part := (smuTrip_same (.refl s) k src).part

/-- A trip of an SMU channel shows in its status register alone. -/
theorem smuTrip_off (k src : Nat) (s : State) : Off (· = R.SMU_STAT k) s (smuTrip k src s) := by
  cases hg : s.smuGated k || s.is (F.SMU_STAT.TRIPPED k)
  case true => rw [smuTrip_idle hg]; exact .refl s
  case false =>
    obtain ⟨hg, ht⟩ := Bool.or_eq_false_iff.mp hg
    have ho : Off (· = R.SMU_STAT k) s ((((s.set1 (F.SMU_STAT.TRIPPED k)).p (F.SMU_STAT.TRIP_SRC k) src).p
        (F.SMU_STAT.DDS_RUN k) 0).p (F.SMU_STAT.RANGE_BUSY k) 0) := by
      refine State.p_off (State.p_off (State.p_off (State.set1_off (.refl s) ?_) _ ?_) _ ?_) _ ?_ <;> rfl
    exact ⟨smuTrip_part k src s, fun a n => (State.rd_congr (smuTrip_regs hg ht) (smuTrip_part k src s) a).trans (ho.regs a n)⟩

theorem smuTrip_chans (k src : Nat) (s : State) : (smuTrip k src s).chans = s.chans := by
  unfold smuTrip; split
  · rfl
  · simp only [State.raise_chans, State.emit_chans]; rfl

/-- A trip that nothing gates is latched (R309). -/
theorem smuTrip_latches {k : Nat} (src : Nat) {s : State} (hg : s.smuGated k = false) :
    (smuTrip k src s).is (F.SMU_STAT.TRIPPED k) = true := by
  cases ht : s.is (F.SMU_STAT.TRIPPED k)
  case true => rw [smuTrip_idle (by simp [ht])]; exact ht
  case false =>
    rw [State.is_congr (smuTrip_regs hg ht) (smuTrip_part k src s), State.is_p_field _ _ rfl,
      State.is_p_field _ _ rfl, State.is_p_field _ _ rfl, State.set1_is, State.is_p_same _ _ _ rfl]
    rfl


/-- A trip of a group shows in the status registers of SMU channels alone. -/
theorem smuGroupTrip_off (g : Nat) (s : State) : Off (fun a => ∃ k, a = R.SMU_STAT k) s (smuGroupTrip g s) :=
  State.each_off (fun j t => Off.ite ((smuTrip_off (4 * g + j) 0 t).mono fun _ e => ⟨_, e⟩) (.refl t)) (.refl s)

theorem smuGroupTrip_chans (g : Nat) (s : State) : (smuGroupTrip g s).chans = s.chans :=
  State.each_inv (I := fun t => t.chans = s.chans) rfl fun j _ t ht => by
    split
    · rw [smuTrip_chans, ht]
    · exact ht

/-- The trip of a group latches each of its channels that responds to PE trips and is not gated (R309). -/
theorem smuGroupTrip_latches {g j : Nat} {s : State} (hj : j < 4) (hin : s.is (F.SMU_CTL.TRIP_IN (4 * g + j)) = true)
    (hg : s.smuGated (4 * g + j) = false) : (smuGroupTrip g s).is (F.SMU_STAT.TRIPPED (4 * g + j)) = true := by
  have apart (i : Nat) (t : State) (hi : i ≠ j) (f : FRef) (hf : f.addr = R.SMU_STAT (4 * g + j) ∨ f.addr = R.SMU_CTL (4 * g + j)) :
      (if t.is (F.SMU_CTL.TRIP_IN (4 * g + i)) then smuTrip (4 * g + i) 0 t else t).is f = t.is f := by
    split
    · refine (smuTrip_off (4 * g + i) 0 t).is f ?_
      unfold R.SMU_STAT R.SMU_CTL at *
      omega
    · rfl
  refine State.each_reaches (I := fun t => t.is (F.SMU_CTL.TRIP_IN (4 * g + j)) = true ∧ t.smuGated (4 * g + j) = false)
    (P := fun t => t.is (F.SMU_STAT.TRIPPED (4 * g + j)) = true) hj ⟨hin, hg⟩ (fun i _ hi t ht => ?_) (fun t ht => ?_) (fun i _ hi t ht => ?_)
  · unfold State.smuGated at ht ⊢
    rw [apart i t hi _ (.inr rfl), apart i t hi _ (.inr rfl), apart i t hi _ (.inl rfl)]
    exact ht
  · rw [if_pos ht.1]
    exact smuTrip_latches 0 ht.2
  · rw [apart i t hi _ (.inl rfl)]
    exact ht

/-! ### The comparators -/

theorem compSee_regs (h c : Nat) (nv : Int) (s : State) : (compSee h c nv s).regs = s.regs := by
  unfold compSee; split <;> rfl
theorem compSee_part (h c : Nat) (nv : Int) (s : State) : (compSee h c nv s).part = s.part := by
  unfold compSee; split <;> rfl
@[simp] theorem compSee_g (h c : Nat) (nv : Int) (s : State) (f : FRef) : (compSee h c nv s).g f = s.g f :=
  State.g_congr (compSee_regs ..) (compSee_part ..) f
@[simp] theorem compSee_is (h c : Nat) (nv : Int) (s : State) (f : FRef) : (compSee h c nv s).is f = s.is f :=
  State.is_congr (compSee_regs ..) (compSee_part ..) f

/-- A channel just set reads back. -/
@[simp] theorem State.ch_setCh (s : State) (h c : Nat) (x : ChX) : (s.setCh h c x).ch h c = x := tabGet_set_same _ _ _ _

@[simp] theorem State.modCh_g (s : State) (h c : Nat) (x : ChX → ChX) (f : FRef) : (s.modCh h c x).g f = s.g f := rfl
@[simp] theorem State.modCh_is (s : State) (h c : Nat) (x : ChX → ChX) (f : FRef) : (s.modCh h c x).is f = s.is f := rfl
@[simp] theorem State.ch_modCh (s : State) (h c : Nat) (x : ChX → ChX) : (s.modCh h c x).ch h c = x (s.ch h c) :=
  tabGet_set_same _ _ _ _

/-- The comparators are all that a voltage at the pin changes of a channel. -/
theorem compSee_settle (h c : Nat) (nv : Int) (s : State) : ((compSee h c nv s).ch h c).settle = (s.ch h c).settle := by
  unfold compSee; split
  · simp only [State.modCh, State.ch_setCh]
  · rfl

/-! ### Trips of PE channels -/

/-- A trip of a PE channel writes its status, the trip map of its hall and the status of SMU channels (R291). -/
def peTripReg (h c a : Nat) : Prop := a = R.PE_STAT h c ∨ a = R.TRIP_MAP h ∨ ∃ k, a = R.SMU_STAT k

/-- The targets of a trip: the driver flags of the channel, and the group that TRIP_CTL names. -/
def peTargets (h c : Nat) (s : State) : State :=
  (s.modCh h c (fun x => { x with
    tripDrv := x.tripDrv || s.is (F.TRIP_CTL.DRV h c), tripHall := x.tripHall || s.is (F.TRIP_CTL.HALL h c) })).when
    (s.is (F.TRIP_CTL.SMU_EN h c)) (smuGroupTrip (s.g (F.TRIP_CTL.SMU_GRP h c)))

/-- A trip that is latched trips its targets again and nothing more. -/
theorem peTrip_latched {h c : Nat} {s : State} (ht : s.is (F.PE_STAT.TRIPPED h c) = true) : peTrip h c s = peTargets h c s := by
  unfold peTrip; rw [if_pos ht]; rfl

/-- A trip that is not latched is latched in PE_STAT and in TRIP_MAP, emitted and reported (R291). -/
theorem peTrip_fresh {h c : Nat} {s : State} (ht : s.is (F.PE_STAT.TRIPPED h c) = false) :
    peTrip h c s = ((((peTargets h c s).set1 (F.PE_STAT.TRIPPED h c)).p (F.TRIP_MAP.TRIPPED h)
      (s.g (F.TRIP_MAP.TRIPPED h) ||| 1 <<< c)).emit (4 * h + 1)).raise (8 * h + 1) (32 * h + c) (s.owners h c) := by
  unfold peTrip; rw [if_neg (by simp [ht])]; rfl

theorem peTargets_off (h c : Nat) (s : State) : Off (fun a => ∃ k, a = R.SMU_STAT k) s (peTargets h c s) :=
  State.when_off (smuGroupTrip_off _) (Off.base (.refl s))

theorem peTrip_off (h c : Nat) (s : State) : Off (peTripReg h c) s (peTrip h c s) := by
  have ho := (peTargets_off h c s).mono (Q := peTripReg h c) fun _ e => .inr (.inr e)
  cases ht : s.is (F.PE_STAT.TRIPPED h c)
  case true => rw [peTrip_latched ht]; exact ho
  case false =>
    rw [peTrip_fresh ht]
    exact State.raise_off (State.emit_off (State.p_off (State.set1_off ho (.inl rfl)) _ (.inr (.inl rfl))) _) _ _ _

theorem peTargets_chans (h c : Nat) (s : State) : (peTargets h c s).ch h c = { s.ch h c with
    tripDrv := (s.ch h c).tripDrv || s.is (F.TRIP_CTL.DRV h c), tripHall := (s.ch h c).tripHall || s.is (F.TRIP_CTL.HALL h c) } := by
  unfold peTargets State.when
  split
  · rw [State.ch, smuGroupTrip_chans]; exact State.ch_setCh ..
  · exact State.ch_setCh ..

/-- A trip leaves COMP_SETTLE. -/
theorem peTrip_settle (h c : Nat) (s : State) : ((peTrip h c s).ch h c).settle = (s.ch h c).settle := by
  have hc : ((peTargets h c s).ch h c).settle = (s.ch h c).settle := by rw [peTargets_chans]
  cases ht : s.is (F.PE_STAT.TRIPPED h c)
  case true => rw [peTrip_latched ht, hc]
  case false => rw [peTrip_fresh ht, State.ch, State.raise_chans, State.emit_chans]; exact hc

/-- After a trip PE_STAT shows it. -/
theorem peTrip_tripped {h c : Nat} (hh : h < 32) (hc : c < 32) (s : State) :
    (peTrip h c s).is (F.PE_STAT.TRIPPED h c) = true := by
  cases ht : s.is (F.PE_STAT.TRIPPED h c)
  case true =>
    rw [peTrip_latched ht, (peTargets_off h c s).is _ (by
      rintro ⟨k, e⟩; simp only [F.PE_STAT.TRIPPED, R.PE_STAT, R.SMU_STAT] at e; omega), ht]
  case false =>
    rw [peTrip_fresh ht, State.raise_is, State.emit_is,
      State.is_p_reg _ _ (by simp only [F.PE_STAT.TRIPPED, F.TRIP_MAP.TRIPPED, R.PE_STAT, R.TRIP_MAP]; omega), State.set1_is,
      State.is_p_same _ _ _ rfl]
    rfl

/-- A trip not latched before is latched in the trip map of the hall. -/
theorem peTrip_mapped {h c : Nat} {s : State} (hc : c < 32) (ht : s.is (F.PE_STAT.TRIPPED h c) = false) :
    natBits ((peTrip h c s).g (F.TRIP_MAP.TRIPPED h)) c 1 = 1 := by
  rw [peTrip_fresh ht, State.raise_g, State.emit_g, State.g_p_same _ _ _ (Nat.le_of_ble_eq_true rfl), natBits_one]
  have hb : ((s.g (F.TRIP_MAP.TRIPPED h) ||| 1 <<< c) % 2 ^ 32).testBit c = true := by
    rw [Nat.testBit_mod_two_pow]
    simp [hc, Nat.testBit_or, Nat.testBit_shiftLeft]
  exact congrArg Bool.toNat hb

/-- A trip turns off the channels of the group it names that respond and are not gated. -/
theorem peTrip_smu {h c j : Nat} {s : State} (hh : h < 32) (hc : c < 32) (hen : s.is (F.TRIP_CTL.SMU_EN h c) = true) (hj : j < 4)
    (hin : s.is (F.SMU_CTL.TRIP_IN (4 * s.g (F.TRIP_CTL.SMU_GRP h c) + j)) = true)
    (hg : s.smuGated (4 * s.g (F.TRIP_CTL.SMU_GRP h c) + j) = false) :
    (peTrip h c s).is (F.SMU_STAT.TRIPPED (4 * s.g (F.TRIP_CTL.SMU_GRP h c) + j)) = true := by
  have hl : (peTargets h c s).is (F.SMU_STAT.TRIPPED (4 * s.g (F.TRIP_CTL.SMU_GRP h c) + j)) = true := by
    unfold peTargets
    rw [hen, State.when_true]
    refine smuGroupTrip_latches hj ((State.modCh_is ..).trans hin) ?_
    simpa only [State.smuGated, State.modCh_is] using hg
  cases ht : s.is (F.PE_STAT.TRIPPED h c)
  case true => rw [peTrip_latched ht, hl]
  case false =>
    rw [peTrip_fresh ht, State.raise_is, State.emit_is,
      State.is_p_reg _ _ (by simp only [F.SMU_STAT.TRIPPED, F.TRIP_MAP.TRIPPED, R.SMU_STAT, R.TRIP_MAP]; omega), State.set1_is,
      State.is_p_reg _ _ (by simp only [F.SMU_STAT.TRIPPED, F.PE_STAT.TRIPPED, R.SMU_STAT, R.PE_STAT]; omega), hl]

/-! ### The commands (R288, R291, R292) -/

theorem peTest_trips {h c : Nat} {s : State} (hc : s.peCond h c = true) : peTest h c s = peTrip h c s := if_pos hc
theorem peTest_quiet {h c : Nat} {s : State} (hc : s.peCond h c = false) : peTest h c s = s := if_neg (by simp [hc])

/-- A test writes the registers of a trip at most. -/
theorem peTest_off (h c : Nat) (s : State) : Off (peTripReg h c) s (peTest h c s) := Off.ite (peTrip_off h c s) (.refl s)

theorem exec_peTrip {s : State} {h c : Nat} (nv : Int) (hh : h < s.part.halls) (hc : c < 32) :
    exec (.peTrip h c nv) s = .next (peTest h c (compSee h c nv s)) := by
  simp [exec, execPeTrip, State.hallOk_of_lt hh, hc]

theorem exec_compSettleEnd {s : State} {h c : Nat} (nv : Int) (hh : h < s.part.halls) (hc : c < 32) (hs : (s.ch h c).settle = true) :
    exec (.compSettleEnd h c nv) s = .next (peTest h c (compSee h c nv (s.modCh h c (fun x => { x with settle := false })))) := by
  simp [exec, execCompSettleEnd, State.hallOk_of_lt hh, hc, hs]

theorem exec_tripClear {s : State} {h c : Nat} (nv : Int) (hr : Ready s) (hh : h < s.part.halls) (hc : c < 32) :
    exec (.tripClear h c nv) s = .next (s.byHost fun t =>
      (compSee h c nv t).when (!t.isFresh (F.PE_STAT.TRIPPED h c)) (tripClear h c)) := by
  simp [exec, execTripClear, State.hallOk_of_lt hh, hc, State.host_run hr.1 hr.2]

theorem exec_tripCtlWrite {s : State} {h c : Nat} (v : Word) (hr : Ready s) (hh : h < s.part.halls) (hc : c < 32) :
    exec (.tripCtlWrite h c v) s = .next (s.byHost (tripCtlWrite h c v)) := by
  simp [exec, execTripCtlWrite, State.hallOk_of_lt hh, hc, State.host_run hr.1 hr.2]

/-- The latches of a trip, cleared before the condition is judged again. -/
def tripUnlatch (h c : Nat) (s : State) : State :=
  ((s.clr (F.PE_STAT.TRIPPED h c)).p (F.TRIP_MAP.TRIPPED h)
    (s.g (F.TRIP_MAP.TRIPPED h) - 2 ^ c * natBits (s.g (F.TRIP_MAP.TRIPPED h)) c 1)).modCh h c
    (fun x => { x with tripDrv := false, tripHall := false })

theorem tripClear_eq {h c : Nat} {s : State} (ht : s.is (F.PE_STAT.TRIPPED h c) = true) :
    tripClear h c s = peTest h c (tripUnlatch h c s) := by
  unfold tripClear; rw [if_pos ht]; rfl

/-- The condition does not depend on the latches. -/
theorem tripUnlatch_peCond {h c : Nat} (hc : c < 32) (s : State) : (tripUnlatch h c s).peCond h c = s.peCond h c := by
  have hx : (tripUnlatch h c s).ch h c = { s.ch h c with tripDrv := false, tripHall := false } := State.ch_modCh ..
  have apart (f : FRef) (hm : f.addr ≠ R.TRIP_MAP h) (hp : f.addr ≠ R.PE_STAT h c ∨
      (Nat.ble 7 f.lo || Nat.ble (f.lo + f.len) 6) = true) : (tripUnlatch h c s).g f = s.g f := by
    simp only [Bool.or_eq_true, Nat.ble_eq] at hp
    exact (State.modCh_g ..).trans ((State.g_p_ne _ _ (.inl hm)).trans (State.g_p_ne _ _ hp))
  have hcond := apart (F.TRIP_CTL.COND h c) (by simp only [F.TRIP_CTL.COND, R.TRIP_CTL, R.TRIP_MAP]; omega)
    (.inl (by simp only [F.TRIP_CTL.COND, R.TRIP_CTL, R.PE_STAT]; omega))
  have hen := apart (F.PE_CTL.EN h c) (by simp only [F.PE_CTL.EN, R.PE_CTL, R.TRIP_MAP]; omega)
    (.inl (by simp only [F.PE_CTL.EN, R.PE_CTL, R.PE_STAT]; omega))
  have hstat : R.PE_STAT h c ≠ R.TRIP_MAP h := by simp only [R.PE_STAT, R.TRIP_MAP]; omega
  have hsafe := apart (F.PE_STAT.SAFE h c) hstat (.inr rfl)
  have hblank := apart (F.PE_STAT.BLANKED h c) hstat (.inr rfl)
  simp only [State.peCond, State.peGated, State.is, ChX.cls, hx, hcond, hen, hsafe, hblank]

theorem tripUnlatch_tripped {h c : Nat} (s : State) : (tripUnlatch h c s).is (F.PE_STAT.TRIPPED h c) = false := by
  refine (State.modCh_is ..).trans ?_
  rw [State.is_p_reg _ _ (by simp only [F.PE_STAT.TRIPPED, F.TRIP_MAP.TRIPPED, R.PE_STAT, R.TRIP_MAP]; omega), State.clr_def,
    State.is_p_same _ _ _ rfl]
  rfl

theorem tripUnlatch_mapped {h c : Nat} (s : State) :
    natBits ((tripUnlatch h c s).g (F.TRIP_MAP.TRIPPED h)) c 1 = 0 := by
  have hlt : s.g (F.TRIP_MAP.TRIPPED h) < 2 ^ 32 := s.g_lt _
  refine (congrArg (natBits · c 1) ((State.modCh_g ..).trans (State.g_p_same _ _ _ (Nat.le_of_ble_eq_true rfl)))).trans ?_
  rw [show (F.TRIP_MAP.TRIPPED h).len = 32 from rfl, Nat.mod_eq_of_lt (by omega)]
  exact natBits_sub_bit _ c

/-! ### The clauses of O10 -/

theorem peTrip_of_condition {s : State} {h c : Nat} {nv : Int} (hh : h < s.part.halls) (hc : c < 32)
    (hp : (compSee h c nv s).peCond h c = true) (ht : s.is (F.PE_STAT.TRIPPED h c) = false) :
    ∃ t, exec (.peTrip h c nv) s = .next t ∧ t.is (F.PE_STAT.TRIPPED h c) = true ∧
      natBits (t.g (F.TRIP_MAP.TRIPPED h)) c 1 = 1 := by
  have h32 := lt_of_lt_of_le hh (Part_halls_le _)
  refine ⟨_, exec_peTrip nv hh hc, ?_⟩
  rw [peTest_trips hp]
  exact ⟨peTrip_tripped h32 hc _, peTrip_mapped hc ((compSee_is ..).trans ht)⟩

theorem peTrip_reaches_group {s : State} {h c j : Nat} {nv : Int} (hh : h < s.part.halls) (hc : c < 32)
    (hp : (compSee h c nv s).peCond h c = true) (hen : s.is (F.TRIP_CTL.SMU_EN h c) = true) (hj : j < 4)
    (hin : s.is (F.SMU_CTL.TRIP_IN (4 * s.g (F.TRIP_CTL.SMU_GRP h c) + j)) = true)
    (hg : s.smuGated (4 * s.g (F.TRIP_CTL.SMU_GRP h c) + j) = false) :
    ∃ t, exec (.peTrip h c nv) s = .next t ∧ t.is (F.SMU_STAT.TRIPPED (4 * s.g (F.TRIP_CTL.SMU_GRP h c) + j)) = true := by
  have h32 := lt_of_lt_of_le hh (Part_halls_le _)
  refine ⟨_, exec_peTrip nv hh hc, ?_⟩
  rw [peTest_trips hp]
  have hl := peTrip_smu (s := compSee h c nv s) (h := h) (c := c) (j := j) h32 hc
  simp only [State.smuGated, compSee_is, compSee_g] at hl
  exact hl hen hj hin hg

theorem compSettleEnd_of_condition {s : State} {h c : Nat} {nv : Int} (hh : h < s.part.halls) (hc : c < 32)
    (hs : (s.ch h c).settle = true)
    (hp : (compSee h c nv (s.modCh h c (fun x => { x with settle := false }))).peCond h c = true)
    (ht : s.is (F.PE_STAT.TRIPPED h c) = false) :
    ∃ t, exec (.compSettleEnd h c nv) s = .next t ∧ (t.ch h c).settle = false ∧ t.is (F.PE_STAT.TRIPPED h c) = true ∧
      natBits (t.g (F.TRIP_MAP.TRIPPED h)) c 1 = 1 := by
  have h32 := lt_of_lt_of_le hh (Part_halls_le _)
  refine ⟨_, exec_compSettleEnd nv hh hc hs, ?_⟩
  rw [peTest_trips hp]
  refine ⟨?_, peTrip_tripped h32 hc _, peTrip_mapped hc ?_⟩
  · rw [peTrip_settle, compSee_settle, State.ch_modCh]
  · rw [compSee_is, State.modCh_is, ht]

theorem tripClear_of_gone {s : State} {h c : Nat} {nv : Int} (hr : Ready s) (hh : h < s.part.halls) (hc : c < 32)
    (ht : s.is (F.PE_STAT.TRIPPED h c) = true) (hf : s.isFresh (F.PE_STAT.TRIPPED h c) = false)
    (hp : (compSee h c nv s).peCond h c = false) :
    ∃ t, exec (.tripClear h c nv) s = .next t ∧ t.is (F.PE_STAT.TRIPPED h c) = false ∧
      natBits (t.g (F.TRIP_MAP.TRIPPED h)) c 1 = 0 ∧ (t.ch h c).tripDrv = false ∧ (t.ch h c).tripHall = false := by
  have he : (compSee h c nv s).when (!s.isFresh (F.PE_STAT.TRIPPED h c)) (tripClear h c) = tripUnlatch h c (compSee h c nv s) := by
    rw [hf, Bool.not_false, State.when_true, tripClear_eq ((compSee_is ..).trans ht),
      peTest_quiet ((tripUnlatch_peCond hc _).trans hp)]
  have hx : (tripUnlatch h c (compSee h c nv s)).ch h c = { (compSee h c nv s).ch h c with tripDrv := false, tripHall := false } :=
    State.ch_modCh ..
  refine ⟨_, exec_tripClear nv hr hh hc, ?_⟩
  rw [State.byHost_is, State.byHost_g]
  simp only [State.byHost, State.ch, he]
  exact ⟨tripUnlatch_tripped _, tripUnlatch_mapped _, congrArg ChX.tripDrv hx, congrArg ChX.tripHall hx⟩

theorem tripClear_of_condition {s : State} {h c : Nat} {nv : Int} (hr : Ready s) (hh : h < s.part.halls) (hc : c < 32)
    (ht : s.is (F.PE_STAT.TRIPPED h c) = true) (hp : (compSee h c nv s).peCond h c = true)
    (hm : natBits (s.g (F.TRIP_MAP.TRIPPED h)) c 1 = 1) :
    ∃ t, exec (.tripClear h c nv) s = .next t ∧ t.is (F.PE_STAT.TRIPPED h c) = true ∧
      natBits (t.g (F.TRIP_MAP.TRIPPED h)) c 1 = 1 := by
  have h32 := lt_of_lt_of_le hh (Part_halls_le _)
  refine ⟨_, exec_tripClear nv hr hh hc, ?_⟩
  rw [State.byHost_is, State.byHost_g]
  cases s.isFresh (F.PE_STAT.TRIPPED h c)
  case true => rw [Bool.not_true, State.when_false, compSee_is, compSee_g]; exact ⟨ht, hm⟩
  case false =>
    rw [Bool.not_false, State.when_true, tripClear_eq ((compSee_is ..).trans ht),
      peTest_trips ((tripUnlatch_peCond hc _).trans hp)]
    exact ⟨peTrip_tripped h32 hc _, peTrip_mapped hc (tripUnlatch_tripped _)⟩

theorem tripCtlWrite_stores {s : State} {h c : Nat} {v : Word} (hr : Ready s) (hh : h < s.part.halls) (hc : c < 32)
    (hv : (F.TRIP_CTL.SMU_EN h c).is v = false ∨ (F.TRIP_CTL.SMU_GRP h c).of v < s.part.groups) :
    ∃ t, exec (.tripCtlWrite h c v) s = .next t ∧ t.rd (R.TRIP_CTL h c) = v &&& 0xFF800000#32 ∧
      ((s.wr (R.TRIP_CTL h c) (v &&& 0xFF800000#32)).peCond h c = true → t.is (F.PE_STAT.TRIPPED h c) = true) := by
  have h32 := lt_of_lt_of_le hh (Part_halls_le _)
  have he : tripCtlWrite h c v s = peTest h c (s.wr (R.TRIP_CTL h c) (v &&& 0xFF800000#32)) := by
    unfold tripCtlWrite
    refine if_neg ?_
    obtain hv | hv := hv <;> simp [hv, State.grpOk]
  refine ⟨_, exec_tripCtlWrite v hr hh hc, ?_⟩
  rw [State.byHost_rd, State.byHost_is, he]
  refine ⟨?_, fun hp => ?_⟩
  · rw [(peTest_off h c _).regs _ ?_, State.rd_wr_same]
    rintro (e | e | ⟨k, e⟩) <;> simp only [R.TRIP_CTL, R.PE_STAT, R.TRIP_MAP, R.SMU_STAT] at e <;> omega
  · rw [peTest_trips hp]
    exact peTrip_tripped h32 hc _

theorem tripCtlWrite_refused {s : State} {h c : Nat} {v : Word} (hr : Ready s) (hh : h < s.part.halls) (hc : c < 32)
    (hen : (F.TRIP_CTL.SMU_EN h c).is v = true) (hg : s.part.groups ≤ (F.TRIP_CTL.SMU_GRP h c).of v) :
    exec (.tripCtlWrite h c v) s = .next (s.p (F.PE_STAT.CFG_ERR h c) 1) := by
  have he : tripCtlWrite h c v s = s.set1 (F.PE_STAT.CFG_ERR h c) := by
    unfold tripCtlWrite
    exact if_pos (by simp [hen, State.grpOk, hg])
  rw [exec_tripCtlWrite v hr hh hc, State.byHost, he]
  rfl

/-- Settles O10: each clause from what a trip latches (`peTrip_tripped`, `peTrip_mapped`, `peTrip_smu`) and what it leaves. -/
theorem pinTrips : Obligations.PinTrips :=
  ⟨fun _ _ _ _ hh hc hp ht => peTrip_of_condition hh hc hp ht,
    fun _ _ _ _ _ hh hc hp hen hj _ hin hg => peTrip_reaches_group hh hc hp hen hj hin hg,
    fun _ _ _ nv hh hc hp => (exec_peTrip nv hh hc).trans (congrArg _ (peTest_quiet hp)),
    fun _ _ _ nv hh hc hs hp => (exec_compSettleEnd nv hh hc hs).trans (congrArg _ (peTest_quiet hp)),
    fun _ _ _ _ hh hc hs hp ht => compSettleEnd_of_condition hh hc hs hp ht,
    fun _ _ _ _ hr hh hc ht hf hp => tripClear_of_gone hr hh hc ht hf hp,
    fun _ _ _ _ hr hh hc ht hp hm => tripClear_of_condition hr hh hc ht hp hm,
    fun _ _ _ _ hr hh hc hv => tripCtlWrite_stores hr hh hc hv,
    fun _ _ _ _ hr hh hc hen hg => tripCtlWrite_refused hr hh hc hen hg⟩

end Sys2Proof.Machine
end

section
/-! PROOF. Sets of the TDC (R330, R331, R336): what a start, an abort and a write of a word do to a channel, to the regression
and to the status of the hall, and O13. -/
namespace Sys2Proof.Machine

/-! ### Channels and the regression engine -/

@[simp] theorem State.tdc_setTdc (s : State) (h c : Nat) (x : TdcX) : (s.setTdc h c x).tdc h c = x := tabGet_set_same _ _ _ _
@[simp] theorem State.tdc_modTdc (s : State) (h c : Nat) (f : TdcX → TdcX) : (s.modTdc h c f).tdc h c = f (s.tdc h c) :=
  tabGet_set_same _ _ _ _
@[simp] theorem State.modTdc_rd (s : State) (h c : Nat) (f : TdcX → TdcX) (a : Nat) : (s.modTdc h c f).rd a = s.rd a := rfl
@[simp] theorem State.modTdc_g (s : State) (h c : Nat) (f : TdcX → TdcX) (k : FRef) : (s.modTdc h c f).g k = s.g k := rfl
theorem State.modTdc_off {P : Nat → Prop} {z s : State} (kz : Off P z s) (h c : Nat) (f : TdcX → TdcX) :
    Off P z (s.modTdc h c f) := ⟨kz.part, kz.regs⟩
theorem State.tdc_modTdc_ne (s : State) {h c k : Nat} (f : TdcX → TdcX) (hk : k ≠ c) : (s.modTdc h c f).tdc h k = s.tdc h k :=
  tabGet_set_ne _ _ _ (by omega)
@[simp] theorem State.byHost_tdc (s : State) (f : State → State) (h c : Nat) : (s.byHost f).tdc h c = (f s).tdc h c := rfl
@[simp] theorem State.byHost_reg (s : State) (f : State → State) (h : Nat) : (s.byHost f).reg h = (f s).reg h := rfl
@[simp] theorem State.p_tdc (s : State) (f : FRef) (v h c : Nat) : (s.p f v).tdc h c = s.tdc h c := rfl
@[simp] theorem State.wr_tdc (s : State) (a : Nat) (w : Word) (h c : Nat) : (s.wr a w).tdc h c = s.tdc h c := rfl
@[simp] theorem State.clr_tdc (s : State) (f : FRef) (h c : Nat) : (s.clr f).tdc h c = s.tdc h c := rfl
@[simp] theorem State.set1_tdc (s : State) (f : FRef) (h c : Nat) : (s.set1 f).tdc h c = s.tdc h c := rfl
@[simp] theorem State.clr_reg (s : State) (f : FRef) (h : Nat) : (s.clr f).reg h = s.reg h := rfl
@[simp] theorem State.set1_reg (s : State) (f : FRef) (h : Nat) : (s.set1 f).reg h = s.reg h := rfl
@[simp] theorem State.reg_setReg (s : State) (h : Nat) (x : RegX) : (s.setReg h x).reg h = x := tabGet_set_same _ _ _ _

/-- The registers of channel `c`. -/
def tdcChReg (h c a : Nat) : Prop :=
  a = R.TDC_STAT h c ∨ a = R.TDC_N h c ∨ a = R.TDC_TMO h c ∨ a = R.TDC_SKIP h c

/-- A field of the status of the hall that the end of a set leaves. -/
def tdcHallField (h : Nat) (f : FRef) : Prop := f.addr = R.TDC_HALL_STAT h ∧ (25 ≤ f.lo ∨ f.lo + f.len ≤ 24)

theorem tdcChReg_hall {h c : Nat} (hc : c < 32) : ¬ tdcChReg h c (R.TDC_HALL_STAT h) := by
  unfold tdcChReg R.TDC_STAT R.TDC_N R.TDC_TMO R.TDC_SKIP R.TDC_HALL_STAT; omega

/-! ### The end of the set of a channel (R336) -/

theorem tdcAbort1_idle {h c : Nat} {s : State} (hr : (s.tdc h c).run = none) : tdcAbort1 h c s = s := if_neg (by simp [hr])

theorem tdcAbort1_run {h c m : Nat} {s : State} (hr : (s.tdc h c).run = some m) :
    tdcAbort1 h c s = (((s.modTdc h c (fun x => { x with run := none, stops := [], queue := [] })).clr (F.TDC_STAT.RUN h c)).set1
      (F.TDC_STAT.ABORTED h c)).set1 (F.TDC_HALL_STAT.ABORTED h) := if_pos (by simp [hr])

theorem tdcAbort1_tdc_ne {h c k : Nat} (hk : k ≠ c) (s : State) : (tdcAbort1 h c s).tdc h k = s.tdc h k := by
  cases hr : (s.tdc h c).run with
  | none => rw [tdcAbort1_idle hr]
  | some m => rw [tdcAbort1_run hr, State.set1_tdc, State.set1_tdc, State.clr_tdc, State.tdc_modTdc_ne _ _ hk]

/-- An abort leaves what the channel has accumulated. -/
theorem tdcAbort1_n (h c : Nat) (s : State) : ((tdcAbort1 h c s).tdc h c).n = (s.tdc h c).n := by
  cases hr : (s.tdc h c).run with
  | none => rw [tdcAbort1_idle hr]
  | some m => simp [tdcAbort1_run hr]

theorem tdcAbort1_reg (h c k : Nat) (s : State) : (tdcAbort1 h c s).reg k = s.reg k := by
  unfold tdcAbort1; split <;> rfl

theorem tdcAbort1_off (h c : Nat) (s : State) : Off (fun a => a = R.TDC_STAT h c ∨ a = R.TDC_HALL_STAT h) s (tdcAbort1 h c s) :=
  Off.ite (State.set1_off (State.set1_off (State.clr_off (Off.base (.refl s)) (.inl rfl)) (.inl rfl)) (.inr rfl)) (.refl s)

/-- The end of a set sets ABORTED in the status of the hall and nothing else there. -/
theorem tdcAbort1_hall {h c : Nat} (hc : c < 32) {f : FRef} (hf : tdcHallField h f) (s : State) :
    (tdcAbort1 h c s).g f = s.g f := by
  obtain ⟨ha, hb⟩ := hf
  have hn : f.addr ≠ R.TDC_STAT h c := by rw [ha]; unfold R.TDC_STAT R.TDC_HALL_STAT; omega
  cases hr : (s.tdc h c).run with
  | none => rw [tdcAbort1_idle hr]
  | some m =>
    rw [tdcAbort1_run hr, State.set1_g, State.g_p_ne _ _ (.inr (by simp only [F.TDC_HALL_STAT.ABORTED]; omega)), State.set1_g,
      State.g_p_ne _ _ (.inl hn), State.clr_def,
      State.g_p_ne _ _ (.inl hn)]
    rfl

/-- What the abort of the set of a channel shows. -/
structure TdcAborted (h c n : Nat) (t : State) : Prop where
  run : (t.tdc h c).run = none
  n : (t.tdc h c).n = n
  idle : t.is (F.TDC_STAT.RUN h c) = false
  aborted : t.is (F.TDC_STAT.ABORTED h c) = true
  hall : t.is (F.TDC_HALL_STAT.ABORTED h) = true

/-- An abort by a host write shows the same. -/
theorem TdcAborted.byHost {h c n : Nat} {s : State} {f : State → State} (ha : TdcAborted h c n (f s)) :
    TdcAborted h c n (s.byHost f) :=
  ⟨(congrArg TdcX.run (State.byHost_tdc ..)).trans ha.run, (congrArg TdcX.n (State.byHost_tdc ..)).trans ha.n,
    (State.byHost_is ..).trans ha.idle, (State.byHost_is ..).trans ha.aborted, (State.byHost_is ..).trans ha.hall⟩

theorem tdcAbort1_aborts {h c m : Nat} (hc : c < 32) {s : State} (hr : (s.tdc h c).run = some m) :
    TdcAborted h c (s.tdc h c).n (tdcAbort1 h c s) := by
  have hn : R.TDC_STAT h c ≠ R.TDC_HALL_STAT h := by unfold R.TDC_STAT R.TDC_HALL_STAT; omega
  have hx := tdcAbort1_n h c s
  rw [tdcAbort1_run hr] at hx ⊢
  refine ⟨by simp, hx, ?_, ?_, ?_⟩
  · rw [State.set1_is, State.is_p_reg _ _ hn, State.set1_is, State.is_p_field _ _ rfl, State.clr_def, State.is_p_same _ _ _ rfl]
    rfl
  · rw [State.set1_is, State.is_p_reg _ _ hn, State.set1_is, State.is_p_same _ _ _ rfl]
    rfl
  · rw [State.set1_is, State.is_p_same _ _ _ rfl]
    rfl

/-- A hall that shows an abort shows it also after the next. -/
theorem tdcAbort1_hall_aborted {h c : Nat} {s : State} (ha : s.is (F.TDC_HALL_STAT.ABORTED h) = true) :
    (tdcAbort1 h c s).is (F.TDC_HALL_STAT.ABORTED h) = true := by
  cases hr : (s.tdc h c).run with
  | none => rw [tdcAbort1_idle hr, ha]
  | some m =>
    rw [tdcAbort1_run hr, State.set1_is, State.is_p_same _ _ _ rfl]
    rfl

theorem TdcAborted.of_other {h c k n : Nat} (hc : c < 32) (hne : k ≠ c) {s : State} (ha : TdcAborted h c n s) :
    TdcAborted h c n (tdcAbort1 h k s) := by
  have hx := tdcAbort1_tdc_ne (h := h) hne.symm s
  have hn : ¬ (R.TDC_STAT h c = R.TDC_STAT h k ∨ R.TDC_STAT h c = R.TDC_HALL_STAT h) := by
    unfold R.TDC_STAT R.TDC_HALL_STAT; omega
  exact ⟨hx ▸ ha.run, hx ▸ ha.n, ((tdcAbort1_off h k s).is _ hn).trans ha.idle, ((tdcAbort1_off h k s).is _ hn).trans ha.aborted,
    tdcAbort1_hall_aborted ha.hall⟩

/-! ### The end of the regression (R336) -/

theorem regAbort_idle {h : Nat} {s : State} (hr : (s.reg h).run = false) : regAbort h s = s := if_neg (by simp [hr])

theorem regAbort_run {h : Nat} {s : State} (hr : (s.reg h).run = true) :
    regAbort h s = ((s.setReg h { s.reg h with run := false, open_ := false, aborted := true }).clr
      (F.TDC_HALL_STAT.REG_RUN h)).set1 (F.TDC_HALL_STAT.ABORTED h) := if_pos hr

theorem regAbort_tdc (h c : Nat) (s : State) : (regAbort h s).tdc h c = s.tdc h c := by
  unfold regAbort; split <;> rfl

theorem regAbort_off (h : Nat) (s : State) : Off (· = R.TDC_HALL_STAT h) s (regAbort h s) := by
  refine Off.ite (State.set1_off (State.clr_off (Off.base (.refl s)) ?_) ?_) (.refl s) <;> rfl

theorem regAbort_aborts {h : Nat} {s : State} (hr : (s.reg h).run = true) :
    (regAbort h s).reg h = { s.reg h with run := false, open_ := false, aborted := true } ∧
      (regAbort h s).is (F.TDC_HALL_STAT.REG_RUN h) = false ∧ (regAbort h s).is (F.TDC_HALL_STAT.ABORTED h) = true := by
  rw [regAbort_run hr]
  refine ⟨by simp, ?_, ?_⟩
  · rw [State.set1_is, State.is_p_field _ _ rfl, State.clr_def, State.is_p_same _ _ _ rfl]
    rfl
  · rw [State.set1_is, State.is_p_same _ _ _ rfl]
    rfl

theorem regAbort_hall_aborted {h : Nat} {s : State} (ha : s.is (F.TDC_HALL_STAT.ABORTED h) = true) :
    (regAbort h s).is (F.TDC_HALL_STAT.ABORTED h) = true := by
  cases hr : (s.reg h).run
  case false => rw [regAbort_idle hr, ha]
  case true => exact (regAbort_aborts hr).2.2

/-- The end of the regression changes REG_RUN and ABORTED of the status of the hall. -/
theorem regAbort_hall {h : Nat} {f : FRef} (hf : 28 ≤ f.lo ∨ f.lo + f.len ≤ 24) (s : State) : (regAbort h s).g f = s.g f := by
  cases hr : (s.reg h).run
  case false => rw [regAbort_idle hr]
  case true =>
    rw [regAbort_run hr, State.set1_g, State.g_p_ne _ _ (.inr (by simp only [F.TDC_HALL_STAT.ABORTED]; omega)), State.clr_def,
      State.g_p_ne _ _ (.inr (by simp only [F.TDC_HALL_STAT.REG_RUN]; omega))]
    rfl

/-! ### ABORT of a hall -/

theorem tdcAbort_host (h : Nat) (s : State) : tdcAbort h true s = regAbort h (s.each 32 (tdcAbort1 h)) := by
  simp only [tdcAbort, Bool.true_or, if_true]

theorem tdcAbort_aborts {h c m : Nat} (hc : c < 32) {s : State} (hr : (s.tdc h c).run = some m) :
    TdcAborted h c (s.tdc h c).n (tdcAbort h true s) := by
  have he : TdcAborted h c (s.tdc h c).n (s.each 32 (tdcAbort1 h)) :=
    State.each_reaches (I := fun t => t.tdc h c = s.tdc h c) hc rfl
      (fun _ _ hk t ht => (tdcAbort1_tdc_ne hk.symm t).trans ht)
      (fun t ht => ht ▸ tdcAbort1_aborts hc (by rw [ht, hr]))
      (fun _ _ hne _ ht => ht.of_other hc hne)
  have hx := regAbort_tdc h c (s.each 32 (tdcAbort1 h))
  have hn : R.TDC_STAT h c ≠ R.TDC_HALL_STAT h := by unfold R.TDC_STAT R.TDC_HALL_STAT; omega
  have ho := regAbort_off h (s.each 32 (tdcAbort1 h))
  rw [tdcAbort_host]
  exact ⟨by rw [hx, he.run], by rw [hx, he.n], (ho.is _ hn).trans he.idle, (ho.is _ hn).trans he.aborted, regAbort_hall_aborted he.hall⟩

theorem tdcAbort_regression {h : Nat} {s : State} (hr : (s.reg h).run = true) :
    (tdcAbort h true s).reg h = { s.reg h with run := false, open_ := false, aborted := true } ∧
      (tdcAbort h true s).is (F.TDC_HALL_STAT.REG_RUN h) = false ∧ (tdcAbort h true s).is (F.TDC_HALL_STAT.ABORTED h) = true := by
  have he : (s.each 32 (tdcAbort1 h)).reg h = s.reg h :=
    State.each_inv (I := fun t => t.reg h = s.reg h) rfl fun k _ t ht => (tdcAbort1_reg h k h t).trans ht
  have ha := regAbort_aborts (s := s.each 32 (tdcAbort1 h)) (h := h) (by rw [he, hr])
  rw [tdcAbort_host, ← he]
  exact ha

/-! ### The start of a set on a channel (R330) -/

theorem statsClear_n (h c : Nat) (s : State) : ((statsClear h c s).tdc h c).n = 0 := by
  simp only [statsClear, State.tdc_modTdc]

theorem statsClear_tdc_ne {h c k : Nat} (hk : k ≠ c) (s : State) : (statsClear h c s).tdc h k = s.tdc h k := by
  rw [statsClear, State.tdc_modTdc_ne _ _ hk]; rfl

theorem statsClear_off (h c : Nat) (s : State) : Off (tdcChReg h c) s (statsClear h c s) := by
  have h1 := State.p_off (P := tdcChReg h c) (f := F.TDC_STAT.DONE h c) (.refl s) 0 (.inl rfl)
  have h2 := State.p_off (f := F.TDC_STAT.ABORTED h c) h1 0 (.inl rfl)
  have h3 := State.p_off (f := F.TDC_STAT.NOREF h c) h2 0 (.inl rfl)
  have h4 := State.p_off (f := F.TDC_STAT.SQ_SAT h c) h3 0 (.inl rfl)
  have h5 := State.wr_off (State.wr_off (State.wr_off h4 0 (.inr (.inl rfl))) 0 (.inr (.inr (.inl rfl)))) 0 (.inr (.inr (.inr rfl)))
  rw [statsClear]
  exact State.modTdc_off h5 _ _ _

/-- The count of samples starts at zero. -/
theorem statsClear_count (h c : Nat) (s : State) : (statsClear h c s).rd (R.TDC_N h c) = 0 := by
  have htmo : R.TDC_N h c ≠ R.TDC_TMO h c := by unfold R.TDC_N R.TDC_TMO; omega
  have hskip : R.TDC_N h c ≠ R.TDC_SKIP h c := by unfold R.TDC_N R.TDC_SKIP; omega
  rw [statsClear, State.modTdc_rd, State.rd_wr_ne _ _ hskip, State.rd_wr_ne _ _ htmo, State.rd_wr_same]

/-- Set `m` starts on channel `c`: what another set has accumulated is discarded, and that set ends as aborted. -/
def tdcJoin (h m : Nat) (byHost : Bool) (alc c : Nat) (s : State) : State :=
  let t := (statsClear h c s).when ((s.tdc h c).run.any (· != m)) (tdcAbort1 h c)
  ((t.modTdc h c (fun x => { x with run := some m, stops := [], byHost := byHost, alc := alc })).set1
    (F.TDC_STAT.RUN h c)).p (F.TDC_STAT.SET h c) m

/-- A start of an INTERVAL set: a fresh sample, then each channel of STOPMASK. -/
theorem tdcStart_interval {h m alc : Nat} {byHost : Bool} {s : State} (hk : s.is (F.TDC_SET_A.KIND h m) = false) :
    tdcStart h m byHost alc s = ((((tdcqClear h m s).p (F.TDC_HALL_STAT.LAST_SET h) m).setSmp h m {}).each 32 (fun c t =>
      if natBits (s.g (F.TDC_SET_B.STOPMASK h m)) c 1 = 1 then tdcJoin h m byHost alc c t else t)) := by
  unfold tdcStart
  rw [if_neg (by simp [hk])]
  refine congrArg (State.each _ 32) (funext fun c => funext fun t => ?_)
  unfold tdcJoin
  cases hr : (t.tdc h c).run <;> rfl

/-- What a channel shows on which set `m` has started. -/
structure TdcStarted (h c m : Nat) (byHost : Bool) (t : State) : Prop where
  run : (t.tdc h c).run = some m
  n : (t.tdc h c).n = 0
  byHost : (t.tdc h c).byHost = byHost
  stat : t.is (F.TDC_STAT.RUN h c) = true
  set : t.g (F.TDC_STAT.SET h c) = m
  count : t.rd (R.TDC_N h c) = 0

/-- The channel before the set is noted in it: cleared, and without another set. -/
theorem tdcCleared_off (h c : Nat) (b : Bool) (s : State) :
    Off (fun a => tdcChReg h c a ∨ a = R.TDC_HALL_STAT h) s ((statsClear h c s).when b (tdcAbort1 h c)) :=
  State.when_off (fun t => (tdcAbort1_off h c t).mono fun _ e => e.imp .inl id) ((statsClear_off h c s).mono fun _ => .inl)

theorem tdcCleared_n (h c : Nat) (b : Bool) (s : State) : (((statsClear h c s).when b (tdcAbort1 h c)).tdc h c).n = 0 := by
  cases b
  case false => rw [State.when_false, statsClear_n]
  case true => rw [State.when_true, tdcAbort1_n, statsClear_n]

theorem tdcCleared_count {h c : Nat} (b : Bool) (s : State) :
    ((statsClear h c s).when b (tdcAbort1 h c)).rd (R.TDC_N h c) = 0 := by
  cases b
  case false => exact statsClear_count h c s
  case true =>
    refine ((tdcAbort1_off h c _).regs _ ?_).trans (statsClear_count h c s)
    unfold R.TDC_N R.TDC_STAT R.TDC_HALL_STAT; omega

theorem tdcJoin_starts {h c m alc : Nat} {byHost : Bool} (hm : m < 64) (s : State) :
    TdcStarted h c m byHost (tdcJoin h m byHost alc c s) := by
  have hn := tdcCleared_n h c ((s.tdc h c).run.any (· != m)) s
  have hz := tdcCleared_count (h := h) (c := c) ((s.tdc h c).run.any (· != m)) s
  unfold tdcJoin
  generalize (statsClear h c s).when ((s.tdc h c).run.any (· != m)) (tdcAbort1 h c) = t at *
  have hx : (((t.modTdc h c (fun x => { x with run := some m, stops := [], byHost := byHost, alc := alc })).set1
      (F.TDC_STAT.RUN h c)).p (F.TDC_STAT.SET h c) m).tdc h c =
      { t.tdc h c with run := some m, stops := [], byHost := byHost, alc := alc } := by simp
  refine ⟨congrArg TdcX.run hx, (congrArg TdcX.n hx).trans hn, congrArg TdcX.byHost hx, ?_, ?_, ?_⟩
  · rw [State.is_p_field _ _ rfl, State.set1_is, State.is_p_same _ _ _ rfl]
    rfl
  · rw [State.g_p_same _ _ _ (Nat.le_of_ble_eq_true rfl)]
    exact Nat.mod_eq_of_lt hm
  · have hne : R.TDC_N h c ≠ R.TDC_STAT h c := by unfold R.TDC_N R.TDC_STAT; omega
    rw [State.rd_p_ne _ _ hne, State.set1_rd, State.rd_p_ne _ _ hne, State.modTdc_rd, hz]

theorem tdcJoin_off (h m : Nat) (byHost : Bool) (alc c : Nat) (s : State) :
    Off (fun a => tdcChReg h c a ∨ a = R.TDC_HALL_STAT h) s (tdcJoin h m byHost alc c s) := by
  unfold tdcJoin
  have h1 := State.modTdc_off (tdcCleared_off h c ((s.tdc h c).run.any (· != m)) s) h c
    (fun x => { x with run := some m, stops := [], byHost := byHost, alc := alc })
  exact State.p_off (State.set1_off h1 (.inl (.inl rfl))) _ (.inl (.inl rfl))

theorem tdcJoin_tdc_ne {h m alc c k : Nat} {byHost : Bool} (hk : k ≠ c) (s : State) :
    (tdcJoin h m byHost alc c s).tdc h k = s.tdc h k := by
  have hb (b : Bool) : ((statsClear h c s).when b (tdcAbort1 h c)).tdc h k = s.tdc h k := by
    cases b
    · exact statsClear_tdc_ne hk s
    · exact (tdcAbort1_tdc_ne hk _).trans (statsClear_tdc_ne hk s)
  rw [tdcJoin, State.p_tdc, State.set1_tdc, State.tdc_modTdc_ne _ _ hk, hb]

/-- A start on a channel sets ABORTED at most in the status of the hall. -/
theorem tdcJoin_hall {h m alc c : Nat} {byHost : Bool} (hc : c < 32) {f : FRef} (hf : tdcHallField h f) (s : State) :
    (tdcJoin h m byHost alc c s).g f = s.g f := by
  have ha : ¬ tdcChReg h c f.addr := by rw [hf.1]; exact tdcChReg_hall hc
  have hb (b : Bool) : ((statsClear h c s).when b (tdcAbort1 h c)).g f = s.g f := by
    cases b
    · exact (statsClear_off h c s).g f ha
    · exact (tdcAbort1_hall hc hf _).trans ((statsClear_off h c s).g f ha)
  have hn : f.addr ≠ R.TDC_STAT h c := fun e => ha (.inl e)
  rw [tdcJoin, State.g_p_ne _ _ (.inl hn), State.set1_g, State.g_p_ne _ _ (.inl hn), State.modTdc_g, hb]

theorem TdcStarted.of_other {h c k m j alc : Nat} {byHost b : Bool} (hc : c < 32) (hne : k ≠ c) {s : State}
    (ht : TdcStarted h c m b s) : TdcStarted h c m b (tdcJoin h j byHost alc k s) := by
  have hx := tdcJoin_tdc_ne (h := h) (m := j) (alc := alc) (byHost := byHost) hne.symm s
  have ho := tdcJoin_off h j byHost alc k s
  have hs : ¬ (tdcChReg h k (R.TDC_STAT h c) ∨ R.TDC_STAT h c = R.TDC_HALL_STAT h) := by
    unfold tdcChReg R.TDC_STAT R.TDC_N R.TDC_TMO R.TDC_SKIP R.TDC_HALL_STAT; omega
  have hn : ¬ (tdcChReg h k (R.TDC_N h c) ∨ R.TDC_N h c = R.TDC_HALL_STAT h) := by
    unfold tdcChReg R.TDC_STAT R.TDC_N R.TDC_TMO R.TDC_SKIP R.TDC_HALL_STAT; omega
  exact ⟨hx ▸ ht.run, hx ▸ ht.n, hx ▸ ht.byHost,
    (ho.is _ hs).trans ht.stat, (ho.g _ hs).trans ht.set, (ho.regs _ hn).trans ht.count⟩

/-! ### The status of the hall at a start -/

/-- The latches named by QCLR clear, but those that set in the same core cycle (R330, R339). -/
def tdcqAfter (h m : Nat) (s : State) : Nat :=
  s.g (F.TDC_HALL_STAT.TDCQ h) -
    (s.g (F.TDC_HALL_STAT.TDCQ h) &&& s.g (F.TDC_SET_A.QCLR h m) &&& (15 - s.freshOf (F.TDC_HALL_STAT.TDCQ h)))

/-- The hall shows the set last started, and its latches. -/
def TdcHallShows (h m q : Nat) (t : State) : Prop := t.g (F.TDC_HALL_STAT.LAST_SET h) = m ∧ t.g (F.TDC_HALL_STAT.TDCQ h) = q

theorem tdcqClear_shows {h m : Nat} (hm : m < 64) (s : State) :
    TdcHallShows h m (tdcqAfter h m s) ((tdcqClear h m s).p (F.TDC_HALL_STAT.LAST_SET h) m) := by
  constructor
  · rw [State.g_p_same _ _ _ (Nat.le_of_ble_eq_true rfl)]
    exact Nat.mod_eq_of_lt hm
  · rw [State.g_p_field _ _ rfl]
    refine (State.g_p_same _ _ _ (Nat.le_of_ble_eq_true rfl)).trans (Nat.mod_eq_of_lt ?_)
    exact lt_of_le_of_lt (Nat.sub_le _ _) (s.g_lt (F.TDC_HALL_STAT.TDCQ h))

theorem TdcHallShows.of_join {h m q j alc c : Nat} {byHost : Bool} (hc : c < 32) {s : State} (hs : TdcHallShows h m q s) :
    TdcHallShows h m q (tdcJoin h j byHost alc c s) :=
  ⟨(tdcJoin_hall hc ⟨rfl, .inr (Nat.le_of_ble_eq_true rfl)⟩ s).trans hs.1,
    (tdcJoin_hall hc ⟨rfl, .inl (Nat.le_of_ble_eq_true rfl)⟩ s).trans hs.2⟩

/-- An INTERVAL set starts on each channel of its STOPMASK (R330). -/
theorem tdcStart_channels {h m c alc : Nat} {byHost : Bool} {s : State} (hm : m < 64) (hc : c < 32)
    (hk : s.is (F.TDC_SET_A.KIND h m) = false) (hb : natBits (s.g (F.TDC_SET_B.STOPMASK h m)) c 1 = 1) :
    TdcStarted h c m byHost (tdcStart h m byHost alc s) ∧ TdcHallShows h m (tdcqAfter h m s) (tdcStart h m byHost alc s) := by
  rw [tdcStart_interval hk]
  constructor
  · refine State.each_reaches (I := fun _ => True) hc trivial (fun _ _ _ _ _ => trivial) (fun t _ => ?_) (fun k _ hne t ht => ?_)
    · rw [if_pos hb]
      exact tdcJoin_starts hm t
    · split
      · exact ht.of_other hc hne
      · exact ht
  · refine State.each_inv (I := TdcHallShows h m (tdcqAfter h m s)) ?_ fun k hk t ht => ?_
    · rw [TdcHallShows, State.setSmp_g, State.setSmp_g]
      exact tdcqClear_shows hm s
    split
    · exact ht.of_join hk
    · exact ht

/-- What the regression shows once set `m` has started in it. -/
structure RegStarted (h m slot : Nat) (t : State) : Prop where
  run : (t.reg h).run = true
  opened : (t.reg h).open_ = true
  set : (t.reg h).set = m
  k : (t.reg h).k = 0
  slot : (t.reg h).slot = slot
  stat : t.is (F.TDC_HALL_STAT.REG_RUN h) = true

/-- A REGRESS set starts in the regression engine (R330). -/
theorem tdcStart_regression {h m alc : Nat} {byHost : Bool} {s : State} (hm : m < 64) (hk : s.is (F.TDC_SET_A.KIND h m) = true) :
    RegStarted h m (s.g (F.TDC_SET_A.START_SLOT h m)) (tdcStart h m byHost alc s) ∧
      TdcHallShows h m (tdcqAfter h m s) (tdcStart h m byHost alc s) := by
  have hs := tdcqClear_shows (h := h) hm s
  unfold tdcStart
  rw [if_pos hk]
  generalize (tdcqClear h m s).p (F.TDC_HALL_STAT.LAST_SET h) m = u at *
  have hu (f : FRef) (hf : 28 ≤ f.lo ∨ f.lo + f.len ≤ 24) :
      ((u.when ((s.reg h).set != m) (regAbort h)).set1 (F.TDC_HALL_STAT.REG_RUN h)).g f = u.g f := by
    have hw (b : Bool) : (u.when b (regAbort h)).g f = u.g f := by
      cases b
      · rfl
      · exact regAbort_hall hf u
    rw [State.set1_g, State.g_p_ne _ _ (.inr (by simp only [F.TDC_HALL_STAT.REG_RUN]; omega)), hw]
  refine ⟨⟨by simp, by simp, by simp, by simp, by simp, ?_⟩, ?_, ?_⟩
  · refine (State.is_p_same (u.when ((s.reg h).set != m) (regAbort h)) (F.TDC_HALL_STAT.REG_RUN h) 1 rfl).trans rfl
  · exact (hu _ (.inr (Nat.le_of_ble_eq_true rfl))).trans hs.1
  · exact (hu _ (.inl (Nat.le_of_ble_eq_true rfl))).trans hs.2

/-! ### TDC_HOST written (R330, R336) -/

/-- TDC_HOST with GO holds the set and no ABORT; with ABORT, the set and no GO. -/
theorem tdcHost_go (m : Fin 64) : fieldGet 0 6 (BitVec.ofNat 32 (2 ^ 31 + m)) = m ∧
    fieldGet 30 1 (BitVec.ofNat 32 (2 ^ 31 + m)) = 0 ∧ fieldGet 31 1 (BitVec.ofNat 32 (2 ^ 31 + m)) = 1 := by
  revert m; decide
theorem tdcHost_abort (m : Fin 64) : fieldGet 0 6 (BitVec.ofNat 32 (2 ^ 30 + m)) = m ∧
    fieldGet 30 1 (BitVec.ofNat 32 (2 ^ 30 + m)) = 1 ∧ fieldGet 31 1 (BitVec.ofNat 32 (2 ^ 30 + m)) = 0 := by
  revert m; decide

/-- The state in which a GO acts: the set is noted in TDC_HOST. -/
def tdcNoted (h m : Nat) (s : State) : State := s.p (F.TDC_HOST.MSET h) m

theorem tdcHostWrite_go {h m : Nat} (hm : m < 64) (s : State) : tdcHostWrite h (BitVec.ofNat 32 (2 ^ 31 + m)) s =
    if (tdcNoted h m s).hallRun h || (tdcNoted h m s).fenced h || !(tdcNoted h m s).is (F.TDC_SET_A.VALID h m) then
      (tdcNoted h m s).set1 (F.TDC_HALL_STAT.REFUSED h)
    else tdcStart h m true ((tdcNoted h m s).draw 16).1 ((tdcNoted h m s).draw 16).2 := by
  obtain ⟨hset, habort, hgo⟩ := tdcHost_go ⟨m, hm⟩
  unfold tdcHostWrite
  simp only [FRef.of, FRef.is, F.TDC_HOST.MSET, F.TDC_HOST.ABORT, F.TDC_HOST.GO, hset, habort, hgo, Nat.reduceBEq,
    Bool.false_eq_true, if_false, if_true]
  rfl

theorem tdcHostWrite_abort {h m : Nat} (hm : m < 64) (s : State) :
    tdcHostWrite h (BitVec.ofNat 32 (2 ^ 30 + m)) s = tdcAbort h true (tdcNoted h m s) := by
  obtain ⟨hset, habort, hgo⟩ := tdcHost_abort ⟨m, hm⟩
  unfold tdcHostWrite
  simp only [FRef.of, FRef.is, F.TDC_HOST.MSET, F.TDC_HOST.ABORT, F.TDC_HOST.GO, hset, habort, hgo, Nat.reduceBEq,
    Bool.false_eq_true, if_false, if_true]
  rfl

theorem tdcNoted_off (h m : Nat) (s : State) : Off (· = R.TDC_HOST h) s (tdcNoted h m s) := State.p_off (.refl s) _ rfl

theorem tdcNoted_tdc (h m k c : Nat) (s : State) : (tdcNoted h m s).tdc k c = s.tdc k c := rfl
theorem tdcNoted_reg (h m k : Nat) (s : State) : (tdcNoted h m s).reg k = s.reg k := rfl

/-- What a state and one that differs in TDC_HOST have in common. -/
theorem Off.hallRun {h k : Nat} {s t : State} (ho : Off (· = R.TDC_HOST k) s t) : t.hallRun h = s.hallRun h := by
  have hg (i : Nat) (hi : i < 96) : t.alcSt h i = s.alcSt h i :=
    ho.g _ (by simp only [F.ALC_STATE.STATE, R.ALC_STATE, R.TDC_HOST]; omega)
  unfold State.hallRun
  rw [Bool.eq_iff_iff, List.any_eq_true, List.any_eq_true]
  exact exists_congr fun i => and_congr_right fun hi => by rw [hg i (List.mem_range.mp hi)]

theorem tdcNoted_fenced {h m : Nat} (hh : h < 32) (s : State) : (tdcNoted h m s).fenced h = s.fenced h := by
  unfold State.fenced
  rw [(tdcNoted_off h m s).g _ (by simp only [F.UNIT_STATE.STATE, R.UNIT_STATE, R.TDC_HOST]; omega)]
  rfl

theorem tdcSetA_ne_host (h m : Nat) : R.TDC_SET_A h m ≠ R.TDC_HOST h := by unfold R.TDC_SET_A R.TDC_HOST; omega
theorem tdcSetB_ne_host (h m : Nat) : R.TDC_SET_B h m ≠ R.TDC_HOST h := by unfold R.TDC_SET_B R.TDC_HOST; omega

theorem tdcqAfter_congr {h m : Nat} {s t : State} (ho : Off (· = R.TDC_HOST h) s t) (hf : t.fresh = s.fresh) :
    tdcqAfter h m t = tdcqAfter h m s := by
  unfold tdcqAfter State.freshOf
  rw [ho.g (F.TDC_SET_A.QCLR h m) (tdcSetA_ne_host h m), hf,
    ho.g (F.TDC_HALL_STAT.TDCQ h) (by simp only [F.TDC_HALL_STAT.TDCQ, R.TDC_HALL_STAT, R.TDC_HOST]; omega)]

/-! ### The commands -/

theorem exec_tdcGo {s : State} {h m : Nat} (hr : Ready s) (hh : h < s.part.halls) (hm : m < 64) :
    exec (.tdcGo h m) s = .next (s.byHost (tdcHostWrite h (BitVec.ofNat 32 (2 ^ 31 + m)))) := by
  simp only [exec, execTdcGo, State.hallOk_of_lt hh, hm, State.host_run hr.1 hr.2, decide_true, Bool.and_self, if_true]

theorem exec_tdcAbort {s : State} {h : Nat} (hr : Ready s) (hh : h < s.part.halls) :
    exec (.tdcAbort h) s = .next (s.byHost fun t => tdcAbort h true (tdcNoted h (t.g (F.TDC_HOST.MSET h)) t)) := by
  simp only [exec, execTdcAbort, State.hallOk_of_lt hh, State.host_run hr.1 hr.2, if_true,
    tdcHostWrite_abort (State.g_lt _ (F.TDC_HOST.MSET h))]

theorem exec_tdcSetWrite {s : State} {h m w : Nat} {v : Word} (hr : Ready s) (hh : h < s.part.halls) (hm : m < 64) (hw : w < 4) :
    exec (.tdcSetWrite h m w v) s = .next (s.byHost (tdcSetWrite h m w v)) := by
  simp only [exec, execTdcSetWrite, State.hallOk_of_lt hh, hm, hw, State.host_run hr.1 hr.2, decide_true, Bool.and_self, if_true]

/-- GO of a VALID set in an idle unfenced hall starts the set, on a state that differs in TDC_HOST. -/
theorem tdcGo_starts {s : State} {h m : Nat} (hr : Ready s) (hh : h < s.part.halls) (hm : m < 64) (hrun : s.hallRun h = false)
    (hfence : s.fenced h = false) (hvalid : s.is (F.TDC_SET_A.VALID h m) = true) :
    ∃ alc u, exec (.tdcGo h m) s = .next (s.byHost fun _ => tdcStart h m true alc u) ∧ Off (· = R.TDC_HOST h) s u ∧
      u.fresh = s.fresh := by
  have h32 := lt_of_lt_of_le hh (Part_halls_le _)
  have ho := tdcNoted_off h m s
  refine ⟨((tdcNoted h m s).draw 16).1, ((tdcNoted h m s).draw 16).2, (exec_tdcGo hr hh hm).trans ?_, ⟨ho.part, ho.regs⟩, rfl⟩
  unfold State.byHost
  have hv := ho.is (F.TDC_SET_A.VALID h m) (tdcSetA_ne_host h m)
  rw [tdcHostWrite_go hm, if_neg (by simp [ho.hallRun, tdcNoted_fenced h32, hv, hrun, hfence, hvalid])]

theorem tdcGo_channel {s : State} {h m c : Nat} (hr : Ready s) (hh : h < s.part.halls) (hm : m < 64) (hrun : s.hallRun h = false)
    (hfence : s.fenced h = false) (hvalid : s.is (F.TDC_SET_A.VALID h m) = true) (hk : s.is (F.TDC_SET_A.KIND h m) = false)
    (hc : c < 32) (hb : natBits (s.g (F.TDC_SET_B.STOPMASK h m)) c 1 = 1) :
    ∃ t, exec (.tdcGo h m) s = .next t ∧ TdcStarted h c m true t ∧ TdcHallShows h m (tdcqAfter h m s) t := by
  obtain ⟨alc, u, he, ho, hf⟩ := tdcGo_starts hr hh hm hrun hfence hvalid
  obtain ⟨hch, hall⟩ := tdcStart_channels (alc := alc) (byHost := true) hm hc ((ho.is _ (tdcSetA_ne_host h m)).trans hk)
    (by rw [ho.g _ (tdcSetB_ne_host h m), hb])
  rw [tdcqAfter_congr ho hf] at hall
  exact ⟨_, he, ⟨hch.run, hch.n, hch.byHost, hch.stat, hch.set, hch.count⟩, hall⟩

theorem tdcGo_regression {s : State} {h m : Nat} (hr : Ready s) (hh : h < s.part.halls) (hm : m < 64) (hrun : s.hallRun h = false)
    (hfence : s.fenced h = false) (hvalid : s.is (F.TDC_SET_A.VALID h m) = true) (hk : s.is (F.TDC_SET_A.KIND h m) = true) :
    ∃ t, exec (.tdcGo h m) s = .next t ∧ RegStarted h m (s.g (F.TDC_SET_A.START_SLOT h m)) t ∧
      TdcHallShows h m (tdcqAfter h m s) t := by
  obtain ⟨alc, u, he, ho, hf⟩ := tdcGo_starts hr hh hm hrun hfence hvalid
  obtain ⟨hreg, hall⟩ := tdcStart_regression (alc := alc) (byHost := true) hm ((ho.is _ (tdcSetA_ne_host h m)).trans hk)
  rw [tdcqAfter_congr ho hf] at hall
  rw [ho.g _ (tdcSetA_ne_host h m)] at hreg
  exact ⟨_, he, ⟨hreg.run, hreg.opened, hreg.set, hreg.k, hreg.slot, hreg.stat⟩, hall⟩

theorem tdcGo_refused {s : State} {h m : Nat} (hr : Ready s) (hh : h < s.part.halls) (hm : m < 64)
    (hno : s.hallRun h = true ∨ s.fenced h = true ∨ s.is (F.TDC_SET_A.VALID h m) = false) :
    exec (.tdcGo h m) s = .next ((s.p (F.TDC_HOST.MSET h) m).p (F.TDC_HALL_STAT.REFUSED h) 1) := by
  have h32 := lt_of_lt_of_le hh (Part_halls_le _)
  have ho := tdcNoted_off h m s
  rw [exec_tdcGo hr hh hm, State.byHost, tdcHostWrite_go hm, if_pos]
  · rfl
  · rw [ho.hallRun, tdcNoted_fenced h32, ho.is _ (tdcSetA_ne_host h m)]
    rcases hno with hno | hno | hno <;> simp [hno]

theorem tdcAbort_channel {s : State} {h c m : Nat} (hr : Ready s) (hh : h < s.part.halls) (hc : c < 32)
    (hrun : (s.tdc h c).run = some m) : ∃ t, exec (.tdcAbort h) s = .next t ∧ TdcAborted h c (s.tdc h c).n t := by
  have ha := tdcAbort_aborts (s := tdcNoted h (s.g (F.TDC_HOST.MSET h)) s) hc ((congrArg TdcX.run (tdcNoted_tdc ..)).trans hrun)
  rw [tdcNoted_tdc] at ha
  exact ⟨_, exec_tdcAbort hr hh, ha.byHost⟩

theorem tdcAbort_ends_regression {s : State} {h : Nat} (hr : Ready s) (hh : h < s.part.halls) (hrun : (s.reg h).run = true) :
    ∃ t, exec (.tdcAbort h) s = .next t ∧ t.reg h = { s.reg h with run := false, open_ := false, aborted := true } ∧
      t.is (F.TDC_HALL_STAT.REG_RUN h) = false ∧ t.is (F.TDC_HALL_STAT.ABORTED h) = true := by
  have ha := tdcAbort_regression (s := tdcNoted h (s.g (F.TDC_HOST.MSET h)) s) ((congrArg RegX.run (tdcNoted_reg ..)).trans hrun)
  rw [tdcNoted_reg] at ha
  refine ⟨_, exec_tdcAbort hr hh, ?_⟩
  rw [State.byHost_reg, State.byHost_is, State.byHost_is]
  exact ha

/-! ### Words of a set (R22, R331) -/

theorem tdcSetWrite_bad {h m w : Nat} {v : Word} {s : State} (hok : tdcSetOk s h m w v = false) :
    tdcSetWrite h m w v s = (s.set1 (F.TDC_HALL_STAT.TDC_BUSY h)).set1 (F.TDC_HALL_STAT.CFG_ERR h) := by
  unfold tdcSetWrite; rw [if_pos (by simp [hok])]

theorem tdcSetWrite_busy {h m w : Nat} {v : Word} {s : State} (hok : tdcSetOk s h m w v = true) (hrun : s.setRuns h m = true) :
    tdcSetWrite h m w v s = s.set1 (F.TDC_HALL_STAT.TDC_BUSY h) := by
  unfold tdcSetWrite; rw [if_neg (by simp [hok]), if_pos hrun]

theorem tdcSetWrite_ignored {h m w : Nat} {v : Word} {s : State} (hok : tdcSetOk s h m w v = true) (hrun : s.setRuns h m = false)
    (hmust : tdcSetMust s h m w v = true) : tdcSetWrite h m w v s = s := by
  unfold tdcSetWrite; rw [if_neg (by simp [hok]), if_neg (by simp [hrun]), if_pos hmust]

/-- What the hardware requires of a word of a set is stated of words A and C alone. -/
theorem tdcSetMust_word {s : State} {h m w : Nat} {v : Word} (hmust : tdcSetMust s h m w v = true) : w < 4 := by
  unfold tdcSetMust at hmust
  split at hmust
  · decide
  · decide
  · exact absurd hmust (by decide)

/-- A word stored in a configuration register reads back. -/
theorem State.cfgWr_rd {a : Nat} (ha : ¬ jnlReg a) (s : State) (w : Word) : (s.cfgWr a w).rd a = w := by
  have ho : Off jnlReg (s.wr a w) (s.cfgWr a w) := State.when_off (fun t => State.j_off (.refl t) _ _ _ _ _ fun _ => id) (.refl _)
  rw [ho.regs a ha, State.rd_wr_same]

theorem tdcSetReg_not_jnl {h m a : Nat} (hm : m < 64) (ha : R.TDC_SET_A h m ≤ a) (hb : a ≤ R.TDC_SET_D h m) :
    ¬ jnlReg a := by
  unfold jnlReg R.JNL_STAT R.JNL_SEQ R.JNL_DROP R.RR_STAT
  unfold R.TDC_SET_A at ha
  unfold R.TDC_SET_D at hb
  omega

theorem tdcSetWrite_stores {s : State} {h m w : Nat} {v : Word} (hr : Ready s) (hh : h < s.part.halls) (hm : m < 64) (hw : w < 4)
    (hok : tdcSetOk s h m w v = true) (hrun : s.setRuns h m = false) (hmust : tdcSetMust s h m w v = false) :
    ∃ t, exec (.tdcSetWrite h m w v) s = .next t ∧
      t.rd (match (generalizing := false) w with
        | 0 => R.TDC_SET_A h m | 1 => R.TDC_SET_B h m | 2 => R.TDC_SET_C h m | _ => R.TDC_SET_D h m) =
        (match (generalizing := false) w with | 0 => v &&& 0xFFFFFF80#32 | 1 => v | _ => v &&& 0xFFFFFF#32) := by
  have h32 := lt_of_lt_of_le hh (Part_halls_le _)
  have hj {a : Nat} (ha : R.TDC_SET_A h m ≤ a ∧ a ≤ R.TDC_SET_D h m) : ¬ jnlReg a := tdcSetReg_not_jnl hm ha.1 ha.2
  refine ⟨_, exec_tdcSetWrite hr hh hm hw, ?_⟩
  rw [State.byHost_rd]
  unfold tdcSetWrite
  rw [if_neg (by simp [hok]), if_neg (by simp [hrun]), if_neg (by simp [hmust])]
  unfold R.TDC_SET_A R.TDC_SET_D at hj
  match w, hw with
  | 0, _ => exact State.cfgWr_rd (hj (by unfold R.TDC_SET_A; omega)) s _
  | 1, _ => exact State.cfgWr_rd (hj (by unfold R.TDC_SET_B; omega)) s _
  | 2, _ => exact State.cfgWr_rd (hj (by unfold R.TDC_SET_C; omega)) s _
  | 3, _ => exact State.cfgWr_rd (hj (by unfold R.TDC_SET_D; omega)) s _

/-- Settles O13: a start by `tdcStart_channels` and `tdcStart_regression`, an abort by `tdcAbort_aborts` and
`tdcAbort_regression`, a word of a set by the four outcomes of `tdcSetWrite`. -/
theorem tdcSetControl : Obligations.TdcSetControl := by
  refine ⟨fun s h m c hr hh hm hrun hf hv hk hc hb => ?_, fun s h m hr hh hm hrun hf hv hk => ?_,
    fun s h m hr hh hm hno => tdcGo_refused hr hh hm hno, fun s h c m hr hh hc hrun => ?_,
    fun s h hr hh hrun => tdcAbort_ends_regression hr hh hrun,
    fun s h m w v hr hh hm hw hok hrun hmust => tdcSetWrite_stores hr hh hm hw hok hrun hmust,
    fun s h m w v hr hh hm hok hrun hmust => ?_, fun s h m w v hr hh hm hw hok hrun => ?_,
    fun s h m w v hr hh hm hw hok => ?_⟩
  · obtain ⟨t, he, hch, hall⟩ := tdcGo_channel hr hh hm hrun hf hv hk hc hb
    exact ⟨t, he, hch.run, hch.n, hch.stat, hch.set, hall.1, hch.count, hch.byHost, hall.2⟩
  · obtain ⟨t, he, hreg, hall⟩ := tdcGo_regression hr hh hm hrun hf hv hk
    exact ⟨t, he, hreg.run, hreg.opened, hreg.set, hreg.k, hreg.slot, hreg.stat, hall.1, hall.2⟩
  · obtain ⟨t, he, ha⟩ := tdcAbort_channel hr hh hc hrun
    exact ⟨t, he, ha.run, ha.idle, ha.aborted, ha.hall, ha.n⟩
  · rw [exec_tdcSetWrite hr hh hm (tdcSetMust_word hmust), State.byHost, tdcSetWrite_ignored hok hrun hmust]
  · rw [exec_tdcSetWrite hr hh hm hw, State.byHost, tdcSetWrite_busy hok hrun]
    rfl
  · rw [exec_tdcSetWrite hr hh hm hw, State.byHost, tdcSetWrite_bad hok]
    rfl

end Sys2Proof.Machine
end

section
/-! PROOF. The gallery (R425–R430): what keeps the peer table, what a HELLO, a loss and the index register do to an entry of
it, the array frames sent, and O34. -/
namespace Sys2Proof.Machine

/-! ### What keeps the peer table -/

@[simp] theorem State.p_peers (s : State) (f : FRef) (v : Nat) : (s.p f v).peers = s.peers := rfl
@[simp] theorem State.set1_peers (s : State) (f : FRef) : (s.set1 f).peers = s.peers := rfl
@[simp] theorem State.byHost_peers (s : State) (f : State → State) : (s.byHost f).peers = (f s).peers := rfl
@[simp] theorem State.setFifo_peers (s : State) (l : List JRec) : (s.setFifo l).peers = s.peers := rfl
@[simp] theorem State.seqAdd_peers (s : State) (n : Nat) : (s.seqAdd n).peers = s.peers := rfl
@[simp] theorem State.raise_peers (s : State) (i d : Nat) (l : List Nat) : (s.raise i d l).peers = s.peers := by
  unfold State.raise; split <;> rfl
@[simp] theorem State.count_peers (s : State) (c sat : FRef) (n : Nat) : (s.count c sat n).peers = s.peers := by
  change (if s.g c + n ≤ 2 ^ c.len - 1 then s.p c (s.g c + n) else (s.p c (2 ^ c.len - 1)).set1 sat).peers = s.peers
  split <;> simp
@[simp] theorem State.ringFlags_peers (s : State) (r : Nat) : (s.ringFlags r).peers = s.peers := by
  unfold State.ringFlags State.when
  dsimp only
  split <;> rfl
@[simp] theorem State.jforce_peers (s : State) (l : List JRec) : (s.jforce l).peers = s.peers := by
  unfold State.jforce
  dsimp only
  split
  · rw [State.ringFlags_peers, State.seqAdd_peers, State.setFifo_peers]
  · rw [State.count_peers, State.seqAdd_peers]
@[simp] theorem State.jput_peers (s : State) (l : List JRec) : (s.jput l).peers = s.peers := by
  unfold State.jput
  split
  · exact State.jforce_peers s l
  · rfl
@[simp] theorem State.each_peers (s : State) (n : Nat) {f : Nat → State → State} (hf : ∀ k t, (f k t).peers = t.peers) :
    (s.each n f).peers = s.peers :=
  State.each_inv (I := fun t => t.peers = s.peers) rfl fun k _ t ht => (hf k t).trans ht

@[simp] theorem jPeer_peers (i : Nat) (s : State) : (jPeer i s).peers = s.peers := State.jput_peers ..
@[simp] theorem galVec_peers (s : State) : (galVec s).peers = s.peers := rfl
@[simp] theorem galFault_peers (src : Nat) (s : State) : (galFault src s).peers = s.peers := State.raise_peers ..

theorem unjoin_peers (b : Bool) (s : State) : (unjoin b s).peers = s.peers := by
  have he : ((s.clr F.GAL_STAT.JOINED).each s.part.halls (fun h t => t.modHl h (fun x => { x with driveLine := none }))).peers =
      s.peers := State.each_peers _ _ fun _ _ => rfl
  unfold unjoin
  split
  · rfl
  · cases b
    · exact he
    · exact (galFault_peers 377 _).trans he

theorem epochCheck_peers (s : State) : (epochCheck s).peers = s.peers := by
  unfold epochCheck
  dsimp only
  split
  · exact unjoin_peers true _
  · rfl

theorem becomeMember_peers (s : State) : (becomeMember s).peers = s.peers := by
  unfold becomeMember; dsimp only; split <;> rfl

theorem newelConflict_peers (uid flags : Nat) (s : State) : (newelConflict uid flags s).peers = s.peers := by
  unfold newelConflict
  dsimp only
  split
  · split <;> simp [becomeMember_peers]
  · rfl

/-! ### Entries of the table -/

theorem State.peer_congr {s t : State} (h : t.peers = s.peers) (i : Nat) : t.peer i = s.peer i := by unfold State.peer; rw [h]

theorem State.findPeer_congr {s t : State} (h : t.peers = s.peers) (uid : Nat) : t.findPeer uid = s.findPeer uid := by
  unfold State.findPeer; simp only [State.peer_congr h]

/-- An entry just set reads back. -/
@[simp] theorem State.peer_setPeer (s : State) (i : Nat) (x : PeerX) : (s.setPeer i x).peer i = x := tabGet_set_same _ _ _ _

/-- The registers that show an entry (R447). -/
def peerReg (a : Nat) : Prop :=
  a = R.GAL_PEER_INFO ∨ a = R.GAL_PEER_UID_LO ∨ a = R.GAL_PEER_UID_HI ∨ a = R.GAL_MAP_DATA

theorem peerReg_not_idx : ¬ peerReg R.GAL_PEER_IDX := by unfold peerReg; decide

theorem peerShow_off (s : State) : Off peerReg s (peerShow s) := by
  have h1 := State.p_off (State.p_off (State.p_off (P := peerReg) (f := F.GAL_PEER_INFO.STATE) (.refl s)
    (s.peer (s.g F.GAL_PEER_IDX.IDX)).st (.inl rfl)) (f := F.GAL_PEER_INFO.PORTS) (s.peer (s.g F.GAL_PEER_IDX.IDX)).ports (.inl rfl))
    (f := F.GAL_PEER_INFO.FLAGS) (s.peer (s.g F.GAL_PEER_IDX.IDX)).flags (.inl rfl)
  have h2 := State.p_off h1 (f := F.GAL_PEER_INFO.EPOCH) (s.peer (s.g F.GAL_PEER_IDX.IDX)).epoch (.inl rfl)
  have h3 := State.p_off h2 (f := F.GAL_PEER_UID_LO.UID) (s.peer (s.g F.GAL_PEER_IDX.IDX)).uid (.inr (.inl rfl))
  have h4 := State.p_off h3 (f := F.GAL_PEER_UID_HI.UID) ((s.peer (s.g F.GAL_PEER_IDX.IDX)).uid >>> 32) (.inr (.inr (.inl rfl)))
  exact State.p_off h4 _ (.inr (.inr (.inr rfl)))

theorem State.setPeer_off (s : State) (i : Nat) (x : PeerX) : Off peerReg s (s.setPeer i x) :=
  (peerShow_off _).after ⟨rfl, fun _ _ => rfl⟩

/-! ### HELLO frames (R430) -/

/-- The state of an entry after a HELLO, with REF_LOCK, ALIGNED and TB0_LOCK all set or not. -/
def helloState (st : Nat) (good : Bool) : Nat :=
  if st = 1 ∨ st = 2 then (if good then 2 else 1) else if st = 3 ∧ good then 3 else 1

theorem helloEntry_peer (i port uid flags epoch : Nat) (s : State) : (helloEntry i port uid flags epoch s).peer i =
    { s.peer i with st := helloState (s.peer i).st (helloGood flags), uid := uid, ports := (s.peer i).ports ||| 2 ^ port,
                    flags := flags, epoch := epoch } := by
  unfold helloEntry
  dsimp only
  split
  case h_1 h0 => rw [State.peer_congr (galVec_peers _), State.peer_setPeer]; simp [helloState, h0]
  case h_2 h1 => rw [State.peer_setPeer]; simp [helloState, h1]
  case h_3 h2 => rw [State.peer_setPeer]; simp [helloState, h2]
  case h_4 h3 =>
    cases helloGood flags
    · rw [if_neg (by decide), State.peer_congr (jPeer_peers ..), State.peer_congr (galFault_peers ..), State.peer_setPeer]
      simp [helloState, h3]
    · rw [if_pos rfl, State.peer_setPeer]; simp [helloState, h3]
  case h_5 h1 h2 h3 =>
    rw [State.peer_setPeer, helloState, if_neg fun h => h.elim h1 h2, if_neg fun h => h3 h.1]

/-- The entry that a HELLO takes: that of its sender, or the lowest empty one. -/
def State.helloSlot (s : State) (uid : Nat) : Option Nat :=
  (s.findPeer uid).orElse (fun _ => (List.range 64).find? (fun i => (s.peer i).st == 0))

theorem State.helloSlot_congr {s t : State} (h : t.peers = s.peers) (uid : Nat) : t.helloSlot uid = s.helloSlot uid := by
  unfold State.helloSlot; simp only [State.findPeer_congr h, State.peer_congr h]

theorem State.helloSlot_of_known {s : State} {uid i : Nat} (h : s.findPeer uid = some i) : s.helloSlot uid = some i := by
  rw [State.helloSlot, h]; rfl

theorem State.helloSlot_of_unknown {s : State} {uid : Nat} (h : s.findPeer uid = none) :
    s.helloSlot uid = (List.range 64).find? (fun i => (s.peer i).st == 0) := by
  rw [State.helloSlot, h]; rfl

/-- A HELLO with an entry updates it. -/
theorem helloRx_slot {port uid flags epoch i : Nat} {s : State} (hu : uid ≠ Config.devUid.toNat) (hi : s.helloSlot uid = some i) :
    helloRx port uid flags epoch s = epochCheck (helloEntry i port uid flags epoch (newelConflict uid flags s)) := by
  rw [← State.helloSlot_congr (newelConflict_peers uid flags s), State.helloSlot] at hi
  unfold helloRx
  rw [if_neg hu]
  dsimp only
  rw [hi]

/-- A HELLO of an unknown device finds the table full. -/
theorem helloRx_full {port uid flags epoch : Nat} {s : State} (hu : uid ≠ Config.devUid.toNat) (hi : s.helloSlot uid = none) :
    helloRx port uid flags epoch s = (newelConflict uid flags s).set1 F.GAL_STAT.TABLE_FULL := by
  rw [← State.helloSlot_congr (newelConflict_peers uid flags s), State.helloSlot] at hi
  unfold helloRx
  rw [if_neg hu]
  dsimp only
  rw [hi]

theorem exec_helloRx {s : State} {port uid flags epoch : Nat} (hl : s.linkUp port = true) (hu : uid < 2 ^ 64) (hf : flags < 256)
    (he : epoch < 2 ^ 16) : exec (.helloRx port uid flags epoch) s = .next (helloRx port uid flags epoch s) := by
  simp only [exec, execHelloRx, hl, if_true, Nat.mod_eq_of_lt hu, Nat.mod_eq_of_lt hf,
    Nat.mod_eq_of_lt (show epoch < 65536 from he)]

/-- What a HELLO makes of the entry it takes (R430). -/
theorem helloRx_peer {s : State} {port uid flags epoch i : Nat} (hl : s.linkUp port = true) (hu : uid < 2 ^ 64)
    (hd : uid ≠ Config.devUid.toNat) (hf : flags < 256) (he : epoch < 2 ^ 16) (hi : s.helloSlot uid = some i) :
    ∃ t, exec (.helloRx port uid flags epoch) s = .next t ∧ t.peer i =
      { s.peer i with st := helloState (s.peer i).st (helloGood flags), uid := uid, ports := (s.peer i).ports ||| 2 ^ port,
                      flags := flags, epoch := epoch } := by
  refine ⟨_, exec_helloRx hl hu hf he, ?_⟩
  rw [helloRx_slot hd hi, State.peer_congr (epochCheck_peers _), helloEntry_peer, State.peer_congr (newelConflict_peers ..)]

theorem helloRx_known {s : State} {port uid flags epoch i st : Nat} (hl : s.linkUp port = true) (hu : uid < 2 ^ 64)
    (hd : uid ≠ Config.devUid.toNat) (hf : flags < 256) (he : epoch < 2 ^ 16) (hi : s.findPeer uid = some i)
    (hst : helloState (s.peer i).st (helloGood flags) = st) : ∃ t, exec (.helloRx port uid flags epoch) s = .next t ∧
      (t.peer i).st = st ∧ (t.peer i).flags = flags ∧ (t.peer i).epoch = epoch ∧ (t.peer i).map = (s.peer i).map := by
  obtain ⟨t, ht, hp⟩ := helloRx_peer hl hu hd hf he (State.helloSlot_of_known hi)
  exact ⟨t, ht, by simp [hp, hst]⟩

theorem helloRx_new {s : State} {port uid flags epoch i : Nat} (hl : s.linkUp port = true) (hu : uid < 2 ^ 64)
    (hd : uid ≠ Config.devUid.toNat) (hf : flags < 256) (he : epoch < 2 ^ 16) (hn : s.findPeer uid = none)
    (hi : (List.range 64).find? (fun k => (s.peer k).st == 0) = some i) :
    ∃ t, exec (.helloRx port uid flags epoch) s = .next t ∧ t.peer i =
      { s.peer i with st := 1, uid := uid, ports := (s.peer i).ports ||| 2 ^ port, flags := flags, epoch := epoch } := by
  obtain ⟨t, ht, hp⟩ := helloRx_peer hl hu hd hf he ((State.helloSlot_of_unknown hn).trans hi)
  have h0 : (s.peer i).st = 0 := by simpa using List.find?_some hi
  refine ⟨t, ht, hp.trans ?_⟩
  simp [helloState, h0]

theorem helloRx_full_table {s : State} {port uid flags epoch : Nat} (hl : s.linkUp port = true) (hu : uid < 2 ^ 64)
    (hd : uid ≠ Config.devUid.toNat) (hf : flags < 256) (he : epoch < 2 ^ 16) (hn : s.findPeer uid = none)
    (hi : (List.range 64).find? (fun k => (s.peer k).st == 0) = none) :
    ∃ t, exec (.helloRx port uid flags epoch) s = .next t ∧ t.is F.GAL_STAT.TABLE_FULL = true ∧ t.peers = s.peers := by
  refine ⟨_, exec_helloRx hl hu hf he, ?_⟩
  rw [helloRx_full hd ((State.helloSlot_of_unknown hn).trans hi), State.set1_is, State.is_p_same _ _ _ rfl, State.set1_peers]
  exact ⟨rfl, newelConflict_peers uid flags s⟩

theorem helloRx_own {s : State} {port flags epoch : Nat} (hl : s.linkUp port = true) :
    exec (.helloRx port Config.devUid.toNat flags epoch) s = .next s := by
  simp only [exec, execHelloRx, hl, if_true, helloRx, Nat.mod_eq_of_lt (BitVec.isLt Config.devUid)]

/-! ### Losses (R430) -/

theorem peerMissed_lost {s : State} {i : Nat} (hi : i < 64) (h1 : 1 ≤ (s.peer i).st) (h3 : (s.peer i).st ≤ 3) :
    ∃ t, exec (.peerMissed i) s = .next t ∧ t.peer i = { s.peer i with st := 4 } := by
  have he : exec (.peerMissed i) s = .next (jPeer i (galFault 375 (s.setPeer i { s.peer i with st := 4 }))) := by
    simp only [exec, execPeerMissed, hi, h1, h3, decide_true, Bool.and_self, if_true]
  refine ⟨_, he, ?_⟩
  rw [State.peer_congr (jPeer_peers ..), State.peer_congr (galFault_peers ..), State.peer_setPeer]

theorem peerMissed_idle {s : State} {i : Nat} (h : (s.peer i).st = 0 ∨ (s.peer i).st = 4) : exec (.peerMissed i) s = .next s := by
  obtain h | h := h <;> simp [exec, execPeerMissed, h]

/-! ### The index register: admission and removal (R430) -/

/-- The words that the commands write to GAL_PEER_IDX: the entry, and CMD 1 or 2. -/
theorem peerIdx_admit (i : Fin 64) : fieldGet 0 6 (BitVec.ofNat 32 (2 ^ 30 + i)) = i ∧
    fieldGet 30 2 (BitVec.ofNat 32 (2 ^ 30 + i)) = 1 := by
  revert i; decide
theorem peerIdx_remove (i : Fin 64) : fieldGet 0 6 (BitVec.ofNat 32 (2 ^ 31 + i)) = i ∧
    fieldGet 30 2 (BitVec.ofNat 32 (2 ^ 31 + i)) = 2 := by
  revert i; decide

/-- The entry selected, and shown. -/
def peerSelect (i : Nat) (s : State) : State := peerShow (s.p F.GAL_PEER_IDX.IDX i)


theorem peerSelect_idx {i : Nat} (hi : i < 64) (s : State) : (peerSelect i s).g F.GAL_PEER_IDX.IDX = i := by
  rw [peerSelect, (peerShow_off _).g F.GAL_PEER_IDX.IDX peerReg_not_idx, State.g_p_same _ _ _ (by decide)]
  exact Nat.mod_eq_of_lt hi

theorem peerIdxWrite_admit {i : Nat} (hi : i < 64) {s : State} : peerIdxWrite (BitVec.ofNat 32 (2 ^ 30 + i)) s =
    if (s.peer i).st = 2 then jPeer i ((peerSelect i s).setPeer i { s.peer i with st := 3 })
    else (peerSelect i s).set1 F.GAL_STAT.ADMIT_ERR := by
  obtain ⟨hidx, hcmd⟩ := peerIdx_admit ⟨i, hi⟩
  unfold peerIdxWrite
  simp only [FRef.of, F.GAL_PEER_IDX.IDX, F.GAL_PEER_IDX.CMD, hidx, hcmd, if_true]
  rfl

theorem peerIdxWrite_remove {i : Nat} (hi : i < 64) {s : State} :
    peerIdxWrite (BitVec.ofNat 32 (2 ^ 31 + i)) s = (peerSelect i s).setPeer i {} := by
  obtain ⟨hidx, hcmd⟩ := peerIdx_remove ⟨i, hi⟩
  unfold peerIdxWrite
  simp only [FRef.of, F.GAL_PEER_IDX.IDX, F.GAL_PEER_IDX.CMD, hidx, hcmd]
  rfl

theorem exec_peerAdmit {s : State} {i : Nat} (hr : Ready s) (hi : i < 64) :
    exec (.peerAdmit i) s = .next (s.byHost (peerIdxWrite (BitVec.ofNat 32 (2 ^ 30 + i)))) := by
  simp only [exec, execPeerAdmit, hi, if_true, State.host_run hr.1 hr.2]

theorem exec_peerRemove {s : State} {i : Nat} (hr : Ready s) (hi : i < 64) :
    exec (.peerRemove i) s = .next (s.byHost (peerIdxWrite (BitVec.ofNat 32 (2 ^ 31 + i)))) := by
  simp only [exec, execPeerRemove, hi, if_true, State.host_run hr.1 hr.2]

theorem State.byHost_peer (s : State) (f : State → State) (i : Nat) : (s.byHost f).peer i = (f s).peer i := rfl

theorem peerAdmit_locked {s : State} {i : Nat} (hr : Ready s) (hi : i < 64) (h2 : (s.peer i).st = 2) :
    ∃ t, exec (.peerAdmit i) s = .next t ∧ t.peer i = { s.peer i with st := 3 } ∧ t.g F.GAL_PEER_IDX.IDX = i := by
  refine ⟨_, exec_peerAdmit hr hi, ?_⟩
  rw [State.byHost_peer, State.byHost_g, peerIdxWrite_admit hi, if_pos h2]
  constructor
  · rw [State.peer_congr (jPeer_peers ..), State.peer_setPeer]
  · have hj := State.j_off (P := jnlReg) (.refl ((peerSelect i s).setPeer i { s.peer i with st := 3 })) 0x61 0xFF 0 5
      (packB [(0, 8, (((peerSelect i s).setPeer i { s.peer i with st := 3 }).peer i).uid)]) fun _ => id
    rw [jPeer, hj.g _ (by unfold jnlReg; decide), (State.setPeer_off ..).g F.GAL_PEER_IDX.IDX peerReg_not_idx, peerSelect_idx hi]

theorem peerAdmit_other {s : State} {i : Nat} (hr : Ready s) (hi : i < 64) (h2 : (s.peer i).st ≠ 2) :
    ∃ t, exec (.peerAdmit i) s = .next t ∧ t.peers = s.peers ∧ t.is F.GAL_STAT.ADMIT_ERR = true ∧ t.g F.GAL_PEER_IDX.IDX = i := by
  refine ⟨_, exec_peerAdmit hr hi, ?_⟩
  rw [State.byHost_peers, State.byHost_is, State.byHost_g, peerIdxWrite_admit hi, if_neg h2]
  refine ⟨rfl, ?_, ?_⟩
  · rw [State.set1_is, State.is_p_same _ _ _ rfl]
    rfl
  · rw [State.set1_g, State.g_p_ne _ _ (.inl (by decide)), peerSelect_idx hi]

theorem peerRemove_empties {s : State} {i : Nat} (hr : Ready s) (hi : i < 64) :
    ∃ t, exec (.peerRemove i) s = .next t ∧ t.peer i = {} ∧ t.g F.GAL_PEER_IDX.IDX = i := by
  refine ⟨_, exec_peerRemove hr hi, ?_⟩
  rw [State.byHost_peer, State.byHost_g, peerIdxWrite_remove hi, State.peer_setPeer,
    (State.setPeer_off ..).g F.GAL_PEER_IDX.IDX peerReg_not_idx, peerSelect_idx hi]
  exact ⟨rfl, rfl⟩

/-! ### Fail maps and frames (R425, R427–R429) -/

theorem failmapRx_known {s : State} {uid map i : Nat} (ha : s.awake = true) (hi : s.findPeer uid = some i) (hm : map < 2 ^ 3072) :
    ∃ t, exec (.failmapRx uid map) s = .next t ∧ t.peer i = { s.peer i with map := map } := by
  have he : exec (.failmapRx uid map) s = .next (s.setPeer i { s.peer i with map := map }) := by
    simp only [exec, execFailmapRx, ha, if_true, hi, Nat.mod_eq_of_lt hm]
  exact ⟨_, he, State.peer_setPeer ..⟩

theorem failmapRx_unknown {s : State} {uid map : Nat} (hn : s.findPeer uid = none) : exec (.failmapRx uid map) s = .next s := by
  simp only [exec, execFailmapRx, hn, ite_self]

theorem bigEndian_length (n v : Nat) : (bigEndian n v).length = n := by
  induction n with
  | zero => rfl
  | succ n ih => rw [bigEndian, List.length_cons, ih]

theorem arrayFrame_length (port : Nat) (payload : List Nat) : (arrayFrame port payload).length = max 60 (14 + payload.length) := by
  simp only [arrayFrame, List.length_append, bigEndian_length, List.length_replicate]
  omega

/-- Behind the addresses of an array frame stand its EtherType and the first bytes of the payload. -/
theorem arrayFrame_type (port a b : Nat) (rest : List Nat) : ((arrayFrame port (a :: b :: rest)).drop 12).take 4 = [0x88, 0xB5, a, b] :=
  rfl

theorem frameHead_length (s : State) (typ seq : Nat) : (s.frameHead typ seq).length = 16 := by
  simp only [State.frameHead, List.length_append, bigEndian_length]
  rfl

theorem helloSend_sends {s : State} {port : Nat} (hl : s.linkUp port = true) (h7 : 7 ≤ s.g F.BOOT_STAGE.STAGE)
    (h9 : s.g F.BOOT_STAGE.STAGE ≤ 9) : ∃ t l, exec (.helloSend port) s = .next t ∧ t.out = s.out ++ [.frame 1 port l] ∧
      l.length = 60 ∧ (l.drop 12).take 4 = [0x88, 0xB5, 1, 1] ∧ t.gal.seqHello = (s.gal.seqHello + 1) % 2 ^ 32 ∧ t.regs = s.regs := by
  have hc : (s.linkUp port && decide (7 ≤ s.g F.BOOT_STAGE.STAGE) && decide (s.g F.BOOT_STAGE.STAGE ≤ 9)) = true := by
    simp [hl, h7, h9]
  refine ⟨_, _, congrArg Host.Outcome.next (if_pos hc), rfl, ?_, rfl, rfl, rfl⟩
  simp only [arrayFrame_length, List.length_append, frameHead_length, bigEndian_length, List.length_cons, List.length_nil]
  rfl

theorem failmapSend_sends {s : State} (hr : Ready s) (hl : s.linkUp (s.g F.GAL_STAT.ACTIVE) = true) :
    ∃ t l, exec .failmapSend s = .next t ∧ t.out = s.out ++ [.frame 2 (s.g F.GAL_STAT.ACTIVE) l] ∧
      l.length = 414 ∧ (l.drop 12).take 4 = [0x88, 0xB5, 1, 2] ∧ t.gal.seqMap = (s.gal.seqMap + 1) % 2 ^ 32 ∧ t.regs = s.regs := by
  have he : exec .failmapSend s = .next (s.byHost failmapSend) := by simp only [exec, execFailmapSend, State.host_run hr.1 hr.2]
  rw [he, State.byHost, failmapSend]
  dsimp only
  rw [if_pos hl]
  refine ⟨_, _, rfl, rfl, ?_, rfl, rfl, rfl⟩
  simp only [arrayFrame_length, List.length_append, frameHead_length, List.length_map, List.length_range]
  rfl

/-- A frame that leaves the device is the last of what left it. -/
theorem frame_last {s t : State} {kind port : Nat} {l : List Nat} (ho : t.out = s.out ++ [.frame kind port l]) :
    t.out.length = s.out.length + 1 ∧ t.out.getLast? = some (.frame kind port l) := by
  rw [ho]
  exact ⟨List.length_append, List.getLast?_concat ..⟩

/-- A counter below its ceiling counts. -/
theorem frameRxDrop_counts {s : State} (hn : s.g F.GAL_RX_DROP.COUNT < 2 ^ 31 - 1) :
    ∃ t, exec .frameRxDrop s = .next t ∧ t.g F.GAL_RX_DROP.COUNT = s.g F.GAL_RX_DROP.COUNT + 1 ∧
      t.is F.GAL_RX_DROP.SAT = s.is F.GAL_RX_DROP.SAT ∧ t.peers = s.peers := by
  have hg (f : FRef) : (s.count F.GAL_RX_DROP.COUNT F.GAL_RX_DROP.SAT).g f =
      (s.p F.GAL_RX_DROP.COUNT (s.g F.GAL_RX_DROP.COUNT + 1)).g f := by
    change (ite _ _ _ : State).g f = _
    rw [if_pos (by simp only [F.GAL_RX_DROP.COUNT] at *; omega)]
  refine ⟨_, rfl, ?_, ?_, State.count_peers ..⟩
  · rw [hg, State.g_p_same _ _ _ (by decide)]
    exact Nat.mod_eq_of_lt (by simp only [F.GAL_RX_DROP.COUNT] at *; omega)
  · rw [State.is, hg, ← State.is, State.is_p_field _ _ rfl]

/-- A counter at its ceiling saturates. -/
theorem frameRxDrop_saturates {s : State} (hn : s.g F.GAL_RX_DROP.COUNT = 2 ^ 31 - 1) :
    ∃ t, exec .frameRxDrop s = .next t ∧ t.g F.GAL_RX_DROP.COUNT = 2 ^ 31 - 1 ∧ t.is F.GAL_RX_DROP.SAT = true ∧
      t.peers = s.peers := by
  have hg (f : FRef) : (s.count F.GAL_RX_DROP.COUNT F.GAL_RX_DROP.SAT).g f =
      ((s.p F.GAL_RX_DROP.COUNT (2 ^ 31 - 1)).set1 F.GAL_RX_DROP.SAT).g f := by
    change (ite _ _ _ : State).g f = _
    rw [if_neg (by rw [hn]; decide)]
    rfl
  refine ⟨_, rfl, ?_, ?_, State.count_peers ..⟩
  · rw [hg, State.set1_g, State.g_p_field _ _ rfl, State.g_p_same _ _ _ (by decide)]
    rfl
  · rw [State.is, hg, ← State.is, State.set1_is, State.is_p_same _ _ _ rfl]
    rfl

/-- Settles O34: an entry after a HELLO by `helloRx_new` and `helloRx_known`, an admission, a removal and a fail map by what
`setPeer` stores, and the frames by `arrayFrame_length` and `arrayFrame_type`. -/
theorem galleryPeers : Obligations.GalleryPeers := by
  refine ⟨fun _ _ _ _ _ _ hl hu hd hf he hn hi => ?_,
    fun _ _ _ _ _ _ hl hu hd hf he hi hst => helloRx_known hl hu hd hf he hi (by simp [helloState, hst]),
    fun _ _ _ flags _ _ hl hu hd hf he hi hst => ?_, fun _ _ _ _ _ _ hl hu hd hf he hi hst => ?_,
    fun _ _ _ _ _ hl hu hd hf he hn hi => helloRx_full_table hl hu hd hf he hn hi,
    fun _ _ _ _ hl => helloRx_own hl, fun _ _ hi h1 h3 => peerMissed_lost hi h1 h3, fun _ _ h => peerMissed_idle h,
    fun _ _ hr hi h2 => peerAdmit_locked hr hi h2, fun _ _ hr hi h2 => peerAdmit_other hr hi h2,
    fun _ _ hr hi => peerRemove_empties hr hi, fun _ _ _ _ ha hi hm => failmapRx_known ha hi hm,
    fun _ _ _ hn => failmapRx_unknown hn, ?_, ?_, fun _ hn => frameRxDrop_counts hn, fun _ hn => frameRxDrop_saturates hn⟩
  · obtain ⟨t, ht, hp⟩ := helloRx_new hl hu hd hf he hn hi
    exact ⟨t, ht, by simp [hp]⟩
  · obtain ⟨t, ht, hs, hflags, hepoch, -⟩ := helloRx_known (st := if helloGood flags = true then 3 else 1) hl hu hd hf he hi
      (by simp [helloState, hst])
    exact ⟨t, ht, hs, hflags, hepoch⟩
  · obtain ⟨t, ht, hs, hflags, hepoch, -⟩ := helloRx_known (st := 1) hl hu hd hf he hi (by simp [helloState, hst])
    exact ⟨t, ht, hs, hflags, hepoch⟩
  · intro s port hl h7 h9
    obtain ⟨t, l, ht, ho, hlen, htype, hseq, hregs⟩ := helloSend_sends hl h7 h9
    obtain ⟨hn, hlast⟩ := frame_last ho
    refine ⟨t, ht, hn, ?_, hseq, hregs⟩
    simp [hlast, hlen, htype]
  · intro s hr hl
    obtain ⟨t, l, ht, ho, hlen, htype, hseq, hregs⟩ := failmapSend_sends hr hl
    obtain ⟨hn, hlast⟩ := frame_last ho
    refine ⟨t, ht, hn, ?_, hseq, hregs⟩
    simp [hlast, hlen, htype]

end Sys2Proof.Machine
end

section
/-! PROOF. O40 fails: a state may list a DMA on a port number that no part has, whose PORT_STAT would stand at the address of
HK_DATA[1].  The round that ends the cool period of a shutdown restarts the device, which ends that DMA (R464, R260) and so
clears a bit of the reading just stored. -/
namespace Sys2Proof.Machine

/-- A port number beyond every part's, at which the address of PORT_STAT is that of HK_DATA[1]. -/
def strayPort : Nat := 0x33E10

/-- The device in a shutdown whose cool period has lasted, with a DMA on the stray port. -/
def strayPortState : State :=
  ((({ part := .s, therm := { cool := some 25000 }, ports := [(strayPort, { dma := some ⟨0, true, 0, 0, 0, 0, 0, 0⟩ })] } : State).p
    F.BOOT_STAGE.STAGE 8).p F.THERM_STAT.SHUTDOWN 1)

/-- A round in which every channel reads 64: 8 °C at a sensor. -/
def coolReadings : List (Bool × Int) := List.replicate 64 (true, 64)

theorem strayPort_runs : strayPortState.hkRuns = true := by decide +kernel

set_option maxRecDepth 4000 in
/-- The round runs from the conversions to the restart; the reading it stored at channel 1 does not stay. -/
theorem strayPort_value : (hkRoundEnd coolReadings strayPortState).g (F.HK_DATA.VALUE 1) ≠ 64 := by decide +kernel

/-- Refutes O40: at the end of a round in which channel 1 reads 64, the restart clears bit 6 of HK_DATA[1] for the DMA on the
stray port, where the first clause has the reading stored. -/
theorem not_thermalControl : ¬ Obligations.ThermalControl := by
  rintro ⟨hround, -⟩
  obtain ⟨t, ht, -, hvalue, -⟩ :=
    hround strayPortState coolReadings 1 true 64 (by decide) strayPort_runs (by decide) (by decide +kernel) rfl
  have he : exec (.hkRoundEnd coolReadings) strayPortState = .next (hkRoundEnd coolReadings strayPortState) := by
    change Host.Outcome.next (if (decide (coolReadings.length = 64) && strayPortState.hkRuns) = true then _ else _) = _
    rw [strayPort_runs, if_pos (by decide)]
  rw [he] at ht
  injection ht with ht
  exact strayPort_value (ht ▸ hvalue)

end Sys2Proof.Machine
end

section
/-! PROOF. O48 fails: a write of MSIX_MOD goes field by field (R13) and keeps what stands in the bits between the fields. -/
namespace Sys2Proof.Machine

/-- The device in service, with a bit of MSIX_MOD[0] set that belongs to no field. -/
def strayMsixState : State := (({} : State).p F.BOOT_STAGE.STAGE 8).wr (R.MSIX_MOD 0) 0x80000000#32

theorem strayMsixState_ready : Ready strayMsixState := by decide +kernel

/-- The stray bit outlives a write of zero. -/
theorem strayMsix_kept :
    (nextOf (exec (.regWrite .bar0 (R.MSIX_MOD 0) 4 0#32) strayMsixState)).map (fun t => t.rd (R.MSIX_MOD 0)) =
      some 0x80000000#32 := by decide +kernel

/-- Refutes O48: with a bit set outside the fields of MSIX_MOD[0], a write of 0 leaves 0x8000_0000 there, where the clause
on MSIX_MOD says 0. -/
theorem not_hostAndManagementAccess : ¬ Obligations.HostAndManagementAccess := by
  rintro ⟨-, -, -, -, -, -, -, hmod, -⟩
  have hk := strayMsix_kept
  rw [hmod strayMsixState 0 0#32 strayMsixState_ready (by decide)] at hk
  simp [nextOf] at hk

end Sys2Proof.Machine
end

section
/-! PROOF. A step runs the front of the queue (O49), and what registers hold at reset (O57). -/
namespace Sys2Proof.Machine
-- One declaration after the other: elaborated side by side, they exceed the check's memory.
set_option Elab.async false
/-- The hall registers at offsets of the alcove states. -/
theorem hallRows_alcState {o : Nat} (h1 : 0x200 ≤ o) (h2 : o < 0x380) : hallRows o = regRows11 := by
  have lt (n : Nat) (hn : 0x380 ≤ n) : Nat.blt o n = true := by rw [Nat.blt_eq]; omega
  have ge (n : Nat) (hn : n ≤ 0x200) : Nat.blt o n = false := by
    rw [← Bool.not_eq_true, Nat.blt_eq]; omega
  simp only [hallRows, ge, lt, Nat.reduceLeDiff, cond_true, cond_false]

/-- An offset beyond the last copy of a register within its hall. -/
theorem dimIndex_beyond {n st off : Nat} (h : n ≤ off % 0x10000 / st) : dimIndex [(32, 0x10000), (n, st)] off = none := by
  rw [dimIndex, dimIndex, if_neg (by omega : ¬ off % 0x10000 / st < n), Option.map_none, ite_self]

/-- The offset of copy `i` of a register of hall `h`. -/
theorem dimIndex_hall {n st h i : Nat} (hh : h < 32) (hi : i < n) (hst : st * n ≤ 0x10000) (h0 : 0 < st) :
    dimIndex [(32, 0x10000), (n, st)] (0x10000 * h + st * i) = some [h, i] := by
  have hlt : st * i < 0x10000 := lt_of_lt_of_le (Nat.mul_lt_mul_of_pos_left hi h0) hst
  have hq : (0x10000 * h + st * i) / 0x10000 = h := by omega
  have hr : (0x10000 * h + st * i) % 0x10000 = st * i := by omega
  simp only [dimIndex, hq, hr, hh, Nat.mul_div_cancel_left i h0, Nat.mul_mod_right, hi, if_true, Option.map_some]

/-- ALC_STATE in the register table: every alcove of every hall resets to FREE, without a cause. -/
theorem alcState_reset {h i : Nat} (hh : h < 32) (hi : i < 96) : regReset .f (R.ALC_STATE h i) = 1#32 := by
  have hb : 0x100200 ≤ R.ALC_STATE h i := by unfold R.ALC_STATE; omega
  have ho : R.ALC_STATE h i - 0x100200 = 0x10000 * h + 4 * i := by unfold R.ALC_STATE; omega
  have hr : regAt (R.ALC_STATE h i) = findReg regRows11 (R.ALC_STATE h i) := by
    unfold regAt
    rw [if_pos (by omega), hallRows_alcState (by omega) (by omega)]
  have hd : ∃ fs, findReg regRows11 (R.ALC_STATE h i) = some (⟨.ALC_STATE, 0x100200, [(32, 0x10000), (96, 4)], .hall, 1, fs⟩, [h, i]) := by
    simp only [regRows11, findReg, RegRow.at?, dimIndex_beyond (n := 8) (st := 4) (off := R.ALC_STATE h i - 0x100140) (by omega),
      dimIndex_beyond (n := 4) (st := 4) (off := R.ALC_STATE h i - 0x100160) (by omega),
      dimIndex_beyond (n := 4) (st := 4) (off := R.ALC_STATE h i - 0x100170) (by omega), ho, dimIndex_hall (n := 96) (st := 4) hh hi (by decide) (by decide),
      ite_self, if_neg (Nat.not_lt.mpr hb)]
    exact ⟨_, rfl⟩
  obtain ⟨fs, hd⟩ := hd
  simp [regReset, hr, hd, instPresent, resetWord, Part.halls, hh]
theorem axisStat_reset : ∀ h < 32, regReset .f (R.AXIS_STAT h) = 0#32 := by decide +kernel
theorem landCfg_reset : ∀ h < 32, regReset .f (R.LAND_CFG h) = 0x0A000010#32 := by decide +kernel
theorem holdVec_reset : ∀ h < 32, ∀ k < 4, regReset .f (R.HOLD_VEC h k) = 0x33333333#32 := by decide +kernel

/-- Settles O49: `step` matches on the queue, whose front is the command. -/
theorem stepRunsTheFront : Obligations.StepRunsTheFront := fun _ _ _ => rfl

/-- A field at reset, from the word its register resets to. -/
theorem reset_field {f : FRef} {w : Word} {n : Nat} (hw : regReset .f f.addr = w) (hn : fieldGet f.lo f.len w = n) :
    State.reset.g f = n := hn ▸ congrArg (fieldGet f.lo f.len) hw

/-- Settles O57: the words of the hall registers from the register table, the others by evaluation. -/
theorem resetValues : Obligations.ResetValues :=
  ⟨by decide +kernel, by decide +kernel, by decide +kernel,
    fun h hh => ⟨reset_field (axisStat_reset h hh) (by decide : fieldGet 0 2 0#32 = 0),
      reset_field (landCfg_reset h hh) (by decide : fieldGet 0 7 0x0A000010#32 = 16), holdVec_reset h hh,
      fun _ hi => ⟨reset_field (alcState_reset hh hi) (by decide : fieldGet 0 3 1#32 = 1),
        reset_field (alcState_reset hh hi) (by decide : fieldGet 3 7 1#32 = 0)⟩⟩,
    by decide +kernel, by decide +kernel, by decide +kernel, by decide +kernel, by decide +kernel, rfl⟩
end Sys2Proof.Machine
end

section
/-! PROOF. What a command of a hall changes of the registers: the parts of the axis operations, each with its frame, and O55. -/
namespace Sys2Proof.Machine
-- One declaration after the other: elaborated side by side, they exceed the check's memory.
set_option Elab.async false

/-! ### The registers that a command of a hall may change -/

/-- The registers of hall `h`, and those outside it that a command of the hall may change. -/
def hallReg (h a : Nat) : Prop := hallPage h a = true ∨ a ∈ sharedRegs

/-- A register in the block of the hall. -/
theorem hallReg_block {h a : Nat} (h1 : 0x100000 + 0x10000 * h ≤ a) (h2 : a < 0x110000 + 0x10000 * h) : hallReg h a :=
  .inl (by simp [hallPage, h1, h2])

/-- The register at offset `o` of the block of the hall. -/
theorem hallReg_at {h : Nat} (o : Nat) (ho : o < 0x10000 := by decide) : hallReg h (0x100000 + o + 0x10000 * h) :=
  hallReg_block (by omega) (by omega)

theorem hallReg_axisStat {h : Nat} : hallReg h (R.AXIS_STAT h) := hallReg_at 4

theorem hallReg_jnl {h a : Nat} (ha : jnlReg a) : hallReg h a := by
  obtain rfl | rfl | rfl | rfl := ha <;> exact .inr (by decide)

/-- A host write changes what its effect changes, and the flag of a write that a shutdown refuses. -/
theorem State.host_off {P : Nat → Prop} {f : State → State} (hf : ∀ t, Off P t (f t)) (hp : P R.THERM_STAT) (s : State) :
    Off P s (s.host f) := by
  unfold State.host State.byHost
  refine Off.ite (.refl s) (Off.base ?_)
  exact Off.ite (hf s) (State.set1_off (.refl s) hp)

section
variable {P : Nat → Prop} {z s : State} (kz : Off P z s)
include kz

theorem State.setAx_off (h : Nat) (x : AxisX) : Off P z (s.setAx h x) := Off.base kz
theorem State.setPos_off {h : Nat} (v : Nat) (hl : P (R.AXIS_POS_LO h)) (hh : P (R.AXIS_POS_HI h)) :
    Off P z (s.setPos h v) := State.p_off (State.p_off kz _ hl) _ hh
theorem State.bwUpdate_off {h : Nat} (hp : P (R.AXIS_STAT h)) : Off P z (s.bwUpdate h) := State.p_off kz _ hp

end

/-! ### Writes of AXIS_CTL -/

/-- The write changes the source configuration (R55). -/
def axisSrcChange (h : Nat) (v : Word) (s : State) : Bool :=
  let diff (f : FRef) := f.of (s.rd (R.AXIS_CTL h)) != f.of v
  diff (F.AXIS_CTL.SRC h) || diff (F.AXIS_CTL.EXT_SEL h) || diff (F.AXIS_CTL.EXT_EDGE h) || diff (F.AXIS_CTL.DUT_CH h) ||
    diff (F.AXIS_CTL.PREDIV h)

/-- The write is turned away with SRC_BUSY (R55). -/
def axisCtlBusy (h : Nat) (v : Word) (s : State) : Bool :=
  ((axisSrcChange h v s || (F.AXIS_CTL.EN h).of (s.rd (R.AXIS_CTL h)) != (F.AXIS_CTL.EN h).of v) && s.anyLive h) ||
    (axisSrcChange h v s && !((F.AXIS_CTL.SRC h).of v == 3) && s.axSt h != axOff)

/-- The word that AXIS_CTL holds after a write: ZERO and the reserved bits read 0. -/
def axisCtlWord (v : Word) : Word := fieldPut 29 1 0 (fieldPut 26 3 0 (fieldPut 19 1 0 (fieldPut 2 2 0 v)))

/-- The follow loop starts, stops or stays (R52). -/
def axisLoop (h : Nat) (en off : Bool) (s : State) : State :=
  if en && off then s.p (F.AXIS_STAT.STATE h) axAcquiring
  else if !en && !off then (s.p (F.AXIS_STAT.STATE h) axOff).clr (F.AXIS_STAT.ALIGNED h)
  else s

/-- A bandwidth comes into use at once where the loop makes no treads yet. -/
def axisBw (h : Nat) (s : State) : State := s.when (s.axSt h == axAcquiring) (fun t => t.bwUpdate h)

/-- What a write of AXIS_CTL that is not turned away does, ZERO apart. -/
def axisCtlTake (h : Nat) (v : Word) (s : State) : State :=
  axisBw h (axisLoop h ((F.AXIS_CTL.EN h).is v) (s.axSt h == axOff)
    ((s.cfgWr (R.AXIS_CTL h) (axisCtlWord v)).when (axisSrcChange h v s) (fun t => t.clr (F.AXIS_STAT.ALIGNED h))))

/-- ZERO: the next tread is the one of position 0 (R56). -/
def axisZeroNext (h : Nat) (s : State) : State := (s.setAx h { s.ax h with zeroNext := true }).clr (F.AXIS_STAT.ALIGNED h)

/-- A write of AXIS_CTL, by its parts. -/
theorem axisCtlWrite_eq (h : Nat) (v : Word) (s : State) : axisCtlWrite h v s =
    if (F.AXIS_CTL.SRC h).of v == 3 || axisCtlBusy h v s then
      (s.when (axisCtlBusy h v s) (fun t => t.set1 (F.AXIS_STAT.SRC_BUSY h))).when ((F.AXIS_CTL.SRC h).of v == 3)
        (fun t => t.set1 (F.AXIS_STAT.CFG_ERR h))
    else if !(F.AXIS_CTL.ZERO h).is v then axisCtlTake h v s
    else if s.anyLive h then (axisCtlTake h v s).set1 (F.AXIS_STAT.SRC_BUSY h)
    else axisZeroNext h (axisCtlTake h v s) := rfl

/-- The registers of a write of AXIS_CTL. -/
def axisCtlReg (h a : Nat) : Prop := a = R.AXIS_CTL h ∨ a = R.AXIS_STAT h ∨ jnlReg a

theorem hallReg_of_axisCtlReg {h a : Nat} (ha : axisCtlReg h a) : hallReg h a := by
  obtain rfl | rfl | ha := ha
  · exact hallReg_at 0
  · exact hallReg_axisStat
  · exact hallReg_jnl ha

theorem axisLoop_off {P : Nat → Prop} {z s : State} {h : Nat} (kz : Off P z s) (en off : Bool) (hp : P (R.AXIS_STAT h)) :
    Off P z (axisLoop h en off s) := Off.ite (State.p_off kz _ hp) (Off.ite (State.clr_off (State.p_off kz _ hp) hp) kz)

theorem axisBw_off {P : Nat → Prop} {z s : State} {h : Nat} (kz : Off P z s) (hp : P (R.AXIS_STAT h)) : Off P z (axisBw h s) :=
  State.when_off (fun t => State.bwUpdate_off (.refl t) hp) kz

theorem axisCtlTake_off (h : Nat) (v : Word) (s : State) : Off (axisCtlReg h) s (axisCtlTake h v s) :=
  have hp : axisCtlReg h (R.AXIS_STAT h) := .inr (.inl rfl)
  axisBw_off (axisLoop_off (State.when_off (fun t => State.clr_off (.refl t) hp)
    (State.cfgWr_off (.refl s) _ (.inl rfl) fun _ => .inr ∘ .inr)) _ _ hp) hp

theorem axisCtlWrite_off (h : Nat) (v : Word) (s : State) : Off (axisCtlReg h) s (axisCtlWrite h v s) := by
  have hp : axisCtlReg h (R.AXIS_STAT h) := .inr (.inl rfl)
  rw [axisCtlWrite_eq]
  refine Off.ite (State.when_off (fun t => State.set1_off (.refl t) hp) (State.when_off (fun t => State.set1_off (.refl t) hp) (.refl s))) ?_
  have ht := axisCtlTake_off h v s
  exact Off.ite ht (Off.ite (State.set1_off ht hp) (State.clr_off (State.setAx_off ht ..) hp))

/-! ### The follow loop -/

/-- The registers of a lock of the follow loop. -/
def axisLockReg (h a : Nat) : Prop := a = R.FOLLOW_FREQ h ∨ a = R.AXIS_STAT h ∨ jnlReg a

theorem axisLocks_off (h freq : Nat) (s : State) : Off (axisLockReg h) s (axisLocks h freq s) := by
  have hp : axisLockReg h (R.AXIS_STAT h) := .inr (.inl rfl)
  unfold axisLocks
  refine State.jAxis_off (State.emit_off (State.setAx_off (State.bwUpdate_off (State.p_off (State.p_off (.refl s) _ ?_) _ hp) hp) ..) _) _ _ _ _
    fun _ => .inr ∘ .inr
  exact .inl rfl

theorem hallReg_of_axisLockReg {h a : Nat} (ha : axisLockReg h a) : hallReg h a := by
  obtain rfl | rfl | ha := ha
  · exact hallReg_at 0x10
  · exact hallReg_axisStat
  · exact hallReg_jnl ha

/-- The registers of a loss of the follow source. -/
def axisLossReg (h a : Nat) : Prop := a = R.AXIN_STAT ∨ a = R.AXIS_STAT h ∨ jnlReg a

theorem hallReg_of_axisLossReg {h a : Nat} (ha : axisLossReg h a) : hallReg h a := by
  obtain rfl | rfl | ha := ha
  · exact .inr (by decide)
  · exact hallReg_axisStat
  · exact hallReg_jnl ha

theorem axisLose_off (h cause : Nat) (s : State) : Off (axisLossReg h) s (axisLose h cause s) := by
  have hp : axisLossReg h (R.AXIS_STAT h) := .inr (.inl rfl)
  unfold axisLose
  have h1 (b : Bool) : Off (axisLossReg h) s ((s.when b (fun t =>
      t.setBit F.AXIN_STAT.AXIN_LOST (s.g (F.AXIS_CTL.EXT_SEL h)))).p (F.AXIS_STAT.CAUSE h) cause) :=
    State.p_off (State.when_off (fun t => State.setBit_off (.refl t) _ (.inl rfl)) (.refl s)) _ hp
  refine Off.ite (.refl s) (Off.ite ?_ (h1 _))
  exact State.jAxis_off (State.raise_off (State.emit_off (State.setAx_off
    (State.clr_off (State.set1_off (State.p_off (h1 _) _ hp) hp) hp) ..) _) _ _ _) _ _ _ _ fun _ => .inr ∘ .inr

/-- A fold changes what its steps change, each on an element of the list. -/
theorem State.over_off_mem {α : Type} {P : Nat → Prop} {z s : State} {l : List α} {f : α → State → State}
    (hf : ∀ x ∈ l, ∀ t, Off P t (f x t)) (kz : Off P z s) : Off P z (s.over l f) := by
  induction l generalizing s with
  | nil => exact kz
  | cons x l ih => exact ih (fun y hy => hf y (.tail x hy)) ((hf x (.head l) s).after kz)

/-- The markers of a wrap show in the status of the rings that take them. -/
theorem State.ringMarker_off_mem {P : Nat → Prop} {z s : State} (kz : Off P z s) {w : List Nat} (typ h axis tb0 : Nat)
    (hr : ∀ r ∈ w, P (R.RR_STAT r)) : Off P z (s.ringMarker w typ h axis tb0) := by
  refine State.over_off_mem (fun r hm t => Off.ite ?_ (.refl t)) kz
  dsimp only
  split
  case isTrue h3 => exact State.rsPut_off (State.dropsOut_off (.refl t) 3) _ (h3 ▸ hr r hm)
  case isFalse => exact State.ringPut_off (State.dropsOut_off (.refl t) r) _ (hr r hm)

/-- The registers of a tread that starts: position, rate, holdover count, the marks of a wrap. -/
def treadReg (h a : Nat) : Prop :=
  a = R.AXIS_POS_LO h ∨ a = R.AXIS_POS_HI h ∨ a = R.FOLLOW_FREQ h ∨ a = R.HOLD_TREADS h ∨ a = R.AXIS_STAT h ∨ a = R.RR_STAT 0 ∨
    a = R.RR_STAT 1 ∨ jnlReg a

theorem hallReg_of_treadReg {h a : Nat} (ha : treadReg h a) : hallReg h a := by
  obtain rfl | rfl | rfl | rfl | rfl | rfl | rfl | ha := ha
  · exact hallReg_at 8
  · exact hallReg_at 0xC
  · exact hallReg_at 0x10
  · exact hallReg_at 0x14
  · exact hallReg_axisStat
  · exact .inr (by decide)
  · exact .inr (by decide)
  · exact hallReg_jnl ha

theorem followTread_off (h : Nat) (s : State) :
    Off (fun a => a = R.FOLLOW_FREQ h ∨ a = R.HOLD_TREADS h ∨ a = R.AXIS_STAT h) s (followTread h s) := by
  unfold followTread
  refine Off.ite (State.bwUpdate_off (State.p_off (State.count_off (.refl s) 1 ?_ ?_) _ ?_) ?_)
    (State.bwUpdate_off (State.p_off (State.setAx_off (.refl s) ..) _ ?_) ?_) <;> simp [F.HOLD_TREADS.COUNT, F.HOLD_TREADS.SAT, F.AXIS_STAT.HOLD_SAT, F.FOLLOW_FREQ.FREQ]

theorem axisWrapMark_off (h : Nat) (s : State) :
    Off (fun a => a = R.RR_STAT 0 ∨ a = R.RR_STAT 1 ∨ jnlReg a) s (axisWrapMark h s) :=
  State.j_off (State.ringMarker_off_mem (.refl s) _ _ _ _ (by simp)) _ _ _ _ _ fun _ => .inr ∘ .inr

/-- What a tread does before the position moves. -/
def treadFollows (h : Nat) (s : State) : State :=
  (s.setAx h { s.ax h with zeroNext := false, per := 0, pull := (s.ax h).pull - (s.ax h).slew }).when
    (s.axRuns h && !s.replaying) (followTread h)

theorem axisTread_eq (h : Nat) (s : State) : axisTread h s =
    if (s.ax h).zeroNext then (treadFollows h s).setPos h 0
    else if s.pos h = 2 ^ 48 - 1 then axisWrapMark h ((treadFollows h s).setPos h 0)
    else (treadFollows h s).setPos h (s.pos h + 1) := rfl

theorem axisTread_off (h : Nat) (s : State) : Off (treadReg h) s (axisTread h s) := by
  have hf : Off (treadReg h) s (treadFollows h s) :=
    State.when_off (fun t => (followTread_off h t).mono fun a ha => by unfold treadReg; tauto) (State.setAx_off (.refl s) ..)
  have hp (v : Nat) : Off (treadReg h) s ((treadFollows h s).setPos h v) := State.setPos_off hf v (.inl rfl) (.inr (.inl rfl))
  rw [axisTread_eq]
  exact Off.ite (hp 0) (Off.ite (((axisWrapMark_off h _).mono fun a ha => by unfold treadReg; tauto).after (hp 0)) (hp _))

/-- The registers of a tread that a hold counts (R115, R140). -/
def holdTreadReg (h a : Nat) : Prop := a = R.SEG_HOLD_CNT h ∨ a = R.STALL_CNT h ∨ a = R.STALL_RUN h

theorem hallReg_of_holdTreadReg {h a : Nat} (ha : holdTreadReg h a) : hallReg h a := by
  obtain rfl | rfl | rfl := ha
  · exact hallReg_at 0xD4
  · exact hallReg_at 0x94
  · exact hallReg_at 0x98

theorem State.modHold_off {P : Nat → Prop} {z s : State} (kz : Off P z s) (h : Nat) (f : HoldX → HoldX) : Off P z (s.modHold h f) :=
  Off.base kz

theorem holdTread_off (h : Nat) (s : State) : Off (holdTreadReg h) s (holdTread h s) := by
  unfold holdTread
  refine State.when_off (fun t => ?_) (State.when_off (fun t => ?_) (.refl s))
  · exact State.p_off (State.count_off (.refl t) 1 (.inr (.inl rfl)) (.inr (.inl rfl))) _ (.inr (.inr rfl))
  · exact State.modHold_off (State.count_off (.refl t) 1 (.inl rfl) (.inl rfl)) h _

theorem tread_off (h : Nat) (s : State) : Off (fun a => treadReg h a ∨ holdTreadReg h a) s (tread h s) :=
  ((holdTread_off h _).mono fun _ => .inr).after (Off.base ((axisTread_off h s).mono fun _ => .inl))

/-! ### Ratio words, staged changes, timing sets -/

theorem ratioWrite_off {k : Nat} (hk : k < 8) (h : Nat) (isN : Bool) (v : Word) (s : State) : Off (hallReg h) s (ratioWrite h k isN v s) := by
  have ha : hallReg h (if isN then R.RATIO_N h k else R.RATIO_M h k) := by
    split
    · exact hallReg_block (by unfold R.RATIO_N; omega) (by unfold R.RATIO_N; omega)
    · exact hallReg_block (by unfold R.RATIO_M; omega) (by unfold R.RATIO_M; omega)
  have stores (w : Word) : Off (hallReg h) s (s.cfgWr (if isN then R.RATIO_N h k else R.RATIO_M h k) w) :=
    State.cfgWr_off (.refl s) w ha fun _ => hallReg_jnl
  have flag (t : State) {f : FRef} (hf : f.addr = R.AXIS_STAT h) : Off (hallReg h) t (t.set1 f) :=
    State.set1_off (.refl t) (hf ▸ hallReg_axisStat)
  unfold ratioWrite
  refine Off.ite (State.when_off (fun t => flag t rfl) (State.when_off (fun t => flag t rfl) (.refl s))) (Off.ite (Off.ite ?_ ?_) (stores _))
  · exact State.jAxis_off (stores _) _ _ _ _ fun _ => hallReg_jnl
  · exact State.jAxis_off (flag s rfl) _ _ _ _ fun _ => hallReg_jnl

/-- The registers of a staged change (R66). -/
def stageReg (h a : Nat) : Prop := a = R.SYN_SCHED h ∨ a = R.AXIS_STAT h ∨ jnlReg a

theorem hallReg_of_stageReg {h a : Nat} (ha : stageReg h a) : hallReg h a := by
  obtain rfl | rfl | ha := ha
  · exact hallReg_at 0x60
  · exact hallReg_axisStat
  · exact hallReg_jnl ha

theorem setArmed_off {z s : State} {h : Nat} (kz : Off (stageReg h) z s) (b : Bool) : Off (stageReg h) z (setArmed h b s) :=
  State.pb_off (State.pb_off kz b (.inr (.inl rfl))) b (.inl rfl)

theorem ratioApply_off (h : Nat) (slot : Option Nat) (phase : Option Int) (s : State) :
    Off (stageReg h) s (ratioApply h slot phase s) := by
  have hp : stageReg h (R.AXIS_STAT h) := .inr (.inl rfl)
  have hj (a : Nat) (ha : jnlReg a) : stageReg h a := .inr (.inr ha)
  unfold ratioApply
  refine Off.ite (.refl s) (Off.ite (State.jAxis_off ?_ _ _ _ _ hj) (State.jAxis_off (State.set1_off (.refl s) hp) _ _ _ _ hj))
  have hs : Off (stageReg h) s (match slot with | some k => slotUse h k s | none => s) := by
    cases slot with
    | none => exact .refl s
    | some k => exact State.setAx_off (State.p_off (.refl s) k hp) ..
  cases phase with
  | none => exact hs
  | some p => exact State.setAx_off hs ..

theorem stageApply_off (h : Nat) (st : SynStage) (s : State) : Off (stageReg h) s (stageApply h st s) :=
  setArmed_off ((ratioApply_off h st.slot st.phase _).after (State.setAx_off (.refl s) ..)) false

theorem stageTread_off (h : Nat) (st : SynStage) (s : State) : Off (stageReg h) s (stageTread h st s) :=
  Off.ite (State.set1_off (State.setAx_off (.refl s) ..) (.inr (.inl rfl))) (stageApply_off h st s)

theorem synSchedWrite_off (h : Nat) (v : Word) (late : Bool) (s : State) : Off (stageReg h) s (synSchedWrite h v late s) := by
  have hw : Off (stageReg h) s (s.wr (R.SYN_SCHED h) (fieldPut 31 1 0 (fieldPut 15 10 0 v))) := State.wr_off (.refl s) _ (.inl rfl)
  unfold synSchedWrite
  refine Off.ite (State.set1_off (.refl s) (.inr (.inl rfl))) (Off.ite ?_ hw)
  have ha := setArmed_off (State.setAx_off hw h { (s.wr (R.SYN_SCHED h) (fieldPut 31 1 0 (fieldPut 15 10 0 v))).ax h with
    stage := some (stageOf (s.wr (R.SYN_SCHED h) (fieldPut 31 1 0 (fieldPut 15 10 0 v))) h v late) }) true
  exact Off.ite ((stageTread_off h _ _).after ha) ha

theorem execSynTreadApply_off (h : Nat) (s : State) : ∃ t, execSynTreadApply h s = .next t ∧ Off (stageReg h) s t := by
  refine ⟨_, rfl, ?_⟩
  split
  · exact Off.ite (stageTread_off h _ s) (.refl s)
  · exact .refl s

theorem tsetWrite_off {t : Nat} {w : TsWord} (ht : t < 64) (hw : tsWordOk w = true) (h : Nat) (v : Word) (s : State) :
    Off (hallReg h) s (tsetWrite h t w v s) := by
  have flag (u : State) {f : FRef} (hf : f.addr = R.AXIS_STAT h) : Off (hallReg h) u (u.set1 f) :=
    State.set1_off (.refl u) (hf ▸ hallReg_axisStat)
  unfold tsetWrite
  refine Off.ite (State.when_off (fun u => flag u rfl) (State.when_off (fun u => flag u rfl) (.refl s))) ?_
  have stores {a : Nat} (w : Word) (h1 : 0x100000 + 0x10000 * h ≤ a) (h2 : a < 0x110000 + 0x10000 * h) : Off (hallReg h) s (s.cfgWr a w) :=
    State.cfgWr_off (.refl s) w (hallReg_block h1 h2) fun _ => hallReg_jnl
  cases w with
  | drv c =>
    have hc : c < 32 := of_decide_eq_true hw
    exact stores _ (by unfold R.TSET_DRV; omega) (by unfold R.TSET_DRV; omega)
  | cmp c =>
    have hc : c < 32 := of_decide_eq_true hw
    exact stores _ (by unfold R.TSET_CMP; omega) (by unfold R.TSET_CMP; omega)
  | hdr => exact stores _ (by unfold R.TSET_HDR; omega) (by unfold R.TSET_HDR; omega)

theorem tdcSetWrite_off {m : Nat} (hm : m < 64) (h w : Nat) (v : Word) (s : State) : Off (hallReg h) s (tdcSetWrite h m w v s) := by
  have hp : hallReg h (R.TDC_HALL_STAT h) := hallReg_at 0x440
  have stores {a : Nat} (w : Word) (h1 : R.TDC_SET_A h m ≤ a) (h2 : a ≤ R.TDC_SET_D h m) : Off (hallReg h) s (s.cfgWr a w) := by
    refine State.cfgWr_off (.refl s) w (hallReg_block ?_ ?_) fun _ => hallReg_jnl <;> unfold R.TDC_SET_A R.TDC_SET_D at * <;> omega
  unfold tdcSetWrite
  refine Off.ite (State.set1_off (State.set1_off (.refl s) hp) hp) (Off.ite (State.set1_off (.refl s) hp) (Off.ite (.refl s) ?_))
  split
  · exact stores _ (by unfold R.TDC_SET_A; omega) (by unfold R.TDC_SET_A R.TDC_SET_D; omega)
  · exact stores _ (by unfold R.TDC_SET_A R.TDC_SET_B; omega) (by unfold R.TDC_SET_B R.TDC_SET_D; omega)
  · exact stores _ (by unfold R.TDC_SET_A R.TDC_SET_C; omega) (by unfold R.TDC_SET_C R.TDC_SET_D; omega)
  · exact stores _ (by unfold R.TDC_SET_A R.TDC_SET_D; omega) (by unfold R.TDC_SET_D; omega)

/-! ### The frame of a hall's commands -/

/-- The outcome is a next state in which no register has changed but those of hall `h` and the shared ones. -/
def HallFramed (h : Nat) (s : State) (o : Host.Outcome State Fault Refusal) : Prop := ∃ t, o = .next t ∧ Off (hallReg h) s t

/-- A command that acts under a condition. -/
theorem HallFramed.ite {h : Nat} {s t : State} {c : Bool} (ht : c = true → Off (hallReg h) s t) :
    HallFramed h s (.next (if c then t else s)) := by
  refine ⟨_, rfl, ?_⟩
  split
  case isTrue hc => exact ht hc
  case isFalse => exact .refl s

/-- A write of the host that acts under a condition. -/
theorem HallFramed.host {h : Nat} {s : State} {c : Bool} {f : State → State} (hf : c = true → ∀ t, Off (hallReg h) t (f t)) :
    HallFramed h s (.next (if c then s.host f else s)) :=
  .ite fun hc => State.host_off (hf hc) (.inr (by decide)) s

theorem hseStat_off {z s : State} {h : Nat} (kz : Off (hallReg h) z s) : Off (hallReg h) z (hseStat h s) := by
  have hp : hallReg h (R.HSE_STAT h) := .inl (by simp [hallPage, R.HSE_STAT])
  exact State.p_off (State.pb_off kz _ hp) _ hp

theorem execHseTransferStart_framed (h : Nat) (s : State) : HallFramed h s (execHseTransferStart h s) := by
  unfold execHseTransferStart
  dsimp only
  split
  · exact .ite fun _ => hseStat_off (Off.base (.refl s))
  · exact ⟨s, rfl, .refl s⟩

theorem execXferSettleDone_framed (h : Nat) (s : State) : HallFramed h s (execXferSettleDone h s) := by
  unfold execXferSettleDone
  split
  · exact .ite fun _ => Off.base (.refl s)
  · exact ⟨s, rfl, .refl s⟩

/-- A read of a descriptor changes no register. -/
theorem execFltDescLoRead_framed (path : Path) (h : Nat) (s : State) : HallFramed h s (execFltDescLoRead path h s) := by
  have hr (w : Word) : Off (hallReg h) s (s.setRead path w) := Off.base (.refl s)
  exact ⟨_, rfl, Off.ite (Off.ite (Off.after (Off.base (.refl _)) (⟨rfl, fun _ _ => rfl⟩ : Off (hallReg h) s (fltSnapTake h s))) (hr 0)) (hr 0)⟩

theorem and3_of_eq {a b c : Bool} (h : (a && b && c) = true) : b = true ∧ c = true := by
  simp only [Bool.and_eq_true] at h; exact ⟨h.1.2, h.2⟩

theorem actsOnHall_framed {h : Nat} {i : Instr} (ha : actsOnHall h i = true) (s : State) : HallFramed h s (exec i s) := by
  have ctl (v : Word) (t : State) : Off (hallReg h) t (axisCtlWrite h v t) := (axisCtlWrite_off h v t).mono fun _ => hallReg_of_axisCtlReg
  have stat (t : State) {f : FRef} (hf : f.addr = R.AXIS_STAT h) (n : Nat) : Off (hallReg h) t (t.p f n) :=
    State.p_off (.refl t) n (hf ▸ hallReg_axisStat)
  have lock (freq : Nat) (x : AxisX) : Off (hallReg h) s (axisLocks h freq (s.setAx h x)) :=
    ((axisLocks_off h freq _).mono fun _ => hallReg_of_axisLockReg).after (State.setAx_off (.refl s) h x)
  cases i <;> simp only [actsOnHall, beq_iff_eq, Bool.false_eq_true] at ha <;> subst ha
  case axisEnable g v => exact .host fun _ => ctl v
  case axisDisable g v => exact .host fun _ => ctl v
  case axisZero g => exact .host fun _ t => ctl _ t
  case axisCtlWrite g v => exact .host fun _ => ctl v
  case axisLock g freq =>
    exact .ite fun _ => Off.ite (lock ..) (State.p_off (State.p_off (.refl s) _ (hallReg_of_axisLockReg (.inl rfl))) _ hallReg_axisStat)
  case axisLoss g cause => exact .ite fun _ => (axisLose_off g cause s).mono fun _ => hallReg_of_axisLossReg
  case holdoverExit g freq edge => exact .ite fun _ => Off.ite (lock ..) (stat s rfl 2)
  case axisWrap g => exact .ite fun _ => (tread_off g s).mono fun _ e => e.elim hallReg_of_treadReg hallReg_of_holdTreadReg
  case ratioWrite g k isN v =>
    exact .host fun hk => ratioWrite_off (of_decide_eq_true (Bool.and_eq_true_iff.mp hk).2) g isN v
  case synArm g v => exact .host fun _ t => (synSchedWrite_off g v _ t).mono fun _ => hallReg_of_stageReg
  case synTreadApply g =>
    obtain ⟨t, ht, ho⟩ := execSynTreadApply_off g s
    exact ⟨t, ht, ho.mono fun _ => hallReg_of_stageReg⟩
  case tsetWrite g t w v =>
    refine .host fun hk => ?_
    obtain ⟨ht, hw⟩ := and3_of_eq hk
    exact tsetWrite_off (of_decide_eq_true ht) hw g v
  case tdcSetWrite g m w v =>
    exact .host fun hk => tdcSetWrite_off (of_decide_eq_true (and3_of_eq hk).1) g w v
  case hseTransferStart g => exact execHseTransferStart_framed g s
  case xferSettleDone g => exact execXferSettleDone_framed g s
  case fltDescLoRead path g => exact execFltDescLoRead_framed path g s

/-- Settles O55: every command of a hall frames its registers (`actsOnHall_framed`). -/
theorem hallRegisterFrame : Obligations.HallRegisterFrame := by
  intro i h a s t ha he hp hs
  obtain ⟨t', he', ho⟩ := actsOnHall_framed ha s
  obtain rfl : t' = t := Host.Outcome.next.inj (he'.symm.trans he)
  exact ho.regs a (by simp [hallReg, hp, hs])
end Sys2Proof.Machine
end

section
/-! PROOF. Shared layer: what the shared operations leave of the axes, of the rings of halls and of registers apart. -/
namespace Sys2Proof.Machine
-- One declaration after the other: elaborated side by side, they exceed the check's memory.
set_option Elab.async false

/-! ### What reports leave -/

/-- Nothing has changed but registers and what reports go to: the journal, the result rings, the collector's input, the input
stage of the event matrix and the raster records. -/
def Reports (s t : State) : Prop :=
  ∃ regs fresh freshN jnl flt evIn rings rs,
    t = { s with regs := regs, fresh := fresh, freshN := freshN, jnl := jnl, flt := flt, evIn := evIn, rings := rings, rs := rs }

variable {s t z : State}

theorem Reports.refl (s : State) : Reports s s := ⟨_, _, _, _, _, _, _, _, rfl⟩
theorem Reports.after (h : Reports s t) (k : Reports z s) : Reports z t := by
  obtain ⟨_, _, _, _, _, _, _, _, rfl⟩ := k
  obtain ⟨_, _, _, _, _, _, _, _, rfl⟩ := h
  exact ⟨_, _, _, _, _, _, _, _, rfl⟩

theorem Reports.part (h : Reports s t) : t.part = s.part := by obtain ⟨_, _, _, _, _, _, _, _, rfl⟩ := h; rfl
theorem Reports.axis (h : Reports s t) : t.axis = s.axis := by obtain ⟨_, _, _, _, _, _, _, _, rfl⟩ := h; rfl
theorem Reports.halls (h : Reports s t) : t.halls = s.halls := by obtain ⟨_, _, _, _, _, _, _, _, rfl⟩ := h; rfl
theorem Reports.rpl (h : Reports s t) : t.rpl = s.rpl := by obtain ⟨_, _, _, _, _, _, _, _, rfl⟩ := h; rfl
theorem Reports.ax (h : Reports s t) (k : Nat) : t.ax k = s.ax k := by unfold State.ax; rw [h.axis]
theorem Reports.hl (h : Reports s t) (k : Nat) : t.hl k = s.hl k := by unfold State.hl; rw [h.halls]

theorem Reports.ite {c : Prop} [Decidable c] {a b : State} (h : Reports z a) (k : Reports z b) : Reports z (if c then a else b) := by
  split
  · exact h
  · exact k

theorem State.wr_reports (s : State) (a : Nat) (w : Word) : Reports s (s.wr a w) := ⟨_, _, _, _, _, _, _, _, rfl⟩
theorem State.p_reports (s : State) (f : FRef) (v : Nat) : Reports s (s.p f v) := State.wr_reports ..
theorem State.set1_reports (s : State) (f : FRef) : Reports s (s.set1 f) := ⟨_, _, _, _, _, _, _, _, rfl⟩
theorem State.setBit_reports (s : State) (f : FRef) (k : Nat) : Reports s (s.setBit f k) := ⟨_, _, _, _, _, _, _, _, rfl⟩
theorem State.when_reports {f : State → State} (hf : ∀ t, Reports t (f t)) (s : State) (c : Bool) : Reports s (s.when c f) :=
  .ite (hf s) (.refl s)
theorem State.count_reports (s : State) (c sat : FRef) (n : Nat) : Reports s (s.count c sat n) := by
  unfold State.count
  have ht : Reports s (if s.g c + n ≤ 2 ^ c.len - 1 then s.p c (s.g c + n) else (s.p c (2 ^ c.len - 1)).set1 sat) :=
    .ite (State.p_reports ..) ((State.set1_reports ..).after (State.p_reports ..))
  exact Reports.after ⟨_, _, _, _, _, _, _, _, rfl⟩ ht
theorem State.emit_reports (s : State) (i : Nat) : Reports s (s.emit i) := .ite (.refl s) ⟨_, _, _, _, _, _, _, _, rfl⟩
theorem State.raise_reports (s : State) (i d : Nat) (l : List Nat) : Reports s (s.raise i d l) :=
  .ite ⟨_, _, _, _, _, _, _, _, rfl⟩ (.refl s)
theorem State.ringFlags_reports (s : State) (r : Nat) : Reports s (s.ringFlags r) :=
  (State.when_reports (fun t => State.set1_reports t _) _ _).after (State.p_reports ..)
theorem State.jforce_reports (s : State) (l : List JRec) : Reports s (s.jforce l) := by
  unfold State.jforce
  refine .ite ?_ ?_
  · exact (State.ringFlags_reports _ 4).after ⟨_, _, _, _, _, _, _, _, rfl⟩
  · exact (State.count_reports ..).after ⟨_, _, _, _, _, _, _, _, rfl⟩
theorem State.j_reports (s : State) (typ h subj arg data : Nat) : Reports s (s.j typ h subj arg data) :=
  .ite (State.jforce_reports ..) (.refl s)
theorem State.jAxis_reports (s : State) (h arg slot treads : Nat) : Reports s (s.jAxis h arg slot treads) := State.j_reports ..
theorem State.cfgWr_reports (s : State) (a : Nat) (w : Word) : Reports s (s.cfgWr a w) :=
  (State.when_reports (fun _ => State.j_reports ..) _ _).after (State.wr_reports ..)
theorem State.over_reports {α : Type} {f : α → State → State} (hf : ∀ x t, Reports t (f x t)) (l : List α) (s : State) :
    Reports s (s.over l f) := by
  induction l generalizing s with
  | nil => exact .refl s
  | cons x l ih => exact (ih (f x s)).after (hf x s)
theorem State.dropsOut_reports (s : State) (r : Nat) : Reports s (s.dropsOut r) := by
  unfold State.dropsOut
  split
  · exact ⟨_, _, _, _, _, _, _, _, rfl⟩
  · exact .ite (.refl s) ⟨_, _, _, _, _, _, _, _, rfl⟩
  · exact .refl s
theorem State.ringMarker_reports (s : State) (w : List Nat) (typ h axis tb0 : Nat) : Reports s (s.ringMarker w typ h axis tb0) := by
  refine State.over_reports (fun r t => .ite (.ite ?_ ?_) (.refl t)) w s
  · exact ((State.ringFlags_reports _ 3).after ⟨_, _, _, _, _, _, _, _, rfl⟩).after (State.dropsOut_reports ..)
  · exact Reports.after (.ite ((State.ringFlags_reports _ r).after ⟨_, _, _, _, _, _, _, _, rfl⟩) (.refl _)) (State.dropsOut_reports ..)

theorem State.setPos_reports (s : State) (h v : Nat) : Reports s (s.setPos h v) := (State.p_reports ..).after (State.p_reports ..)
theorem State.bwUpdate_reports (s : State) (h : Nat) : Reports s (s.bwUpdate h) := State.p_reports ..

/-! ### Registers of a hall -/

/-- The journal's registers lie outside the blocks of the halls. -/
theorem not_jnlReg_hall {h a : Nat} (hh : h < 32) (h1 : 0x100000 ≤ a) (h2 : a < 0x110000 + 0x10000 * h) : ¬ jnlReg a := by
  unfold jnlReg R.JNL_STAT R.JNL_SEQ R.JNL_DROP R.RR_STAT
  omega

/-- The register at offset `o` of the block of a hall. -/
theorem not_jnlReg_at {h : Nat} (hh : h < 32) (o : Nat) (ho : o < 0x10000 := by decide) : ¬ jnlReg (0x100000 + o + 0x10000 * h) :=
  not_jnlReg_hall hh (by omega) (by omega)

theorem not_jnlReg_axisStat {h : Nat} (hh : h < 32) : ¬ jnlReg (R.AXIS_STAT h) := not_jnlReg_at hh 4

/-- A journal record leaves the registers of the halls. -/
theorem State.jAxis_g {s : State} {f : FRef} (hf : ¬ jnlReg f.addr) (h arg slot treads : Nat) :
    (s.jAxis h arg slot treads).g f = s.g f := (State.jAxis_off (.refl s) h arg slot treads fun _ => id).g f hf
theorem State.jAxis_is {s : State} {f : FRef} (hf : ¬ jnlReg f.addr) (h arg slot treads : Nat) :
    (s.jAxis h arg slot treads).is f = s.is f := (State.jAxis_off (.refl s) h arg slot treads fun _ => id).is f hf

/-- A storing write of a configuration structure leaves every other register of the halls. -/
theorem State.cfgWr_g {s : State} {f : FRef} {a : Nat} (ha : f.addr ≠ a) (hf : ¬ jnlReg f.addr) (w : Word) : (s.cfgWr a w).g f = s.g f :=
  (State.cfgWr_off (P := fun b => b = a ∨ jnlReg b) (.refl s) w (.inl rfl) fun _ => .inr).g f (by tauto)

/-! ### Positions and axes -/

theorem Off.pos {P : Nat → Prop} {h : Nat} (k : Off P s t) (hl : ¬ P (R.AXIS_POS_LO h)) (hh : ¬ P (R.AXIS_POS_HI h)) : t.pos h = s.pos h := by
  unfold State.pos; rw [k.g _ hl, k.g _ hh]

/-- A position set reads back, modulo 2^48. -/
theorem State.pos_setPos (s : State) (h v : Nat) : (s.setPos h v).pos h = v % 2 ^ 48 := by
  unfold State.setPos State.pos
  rw [State.g_p_ne _ _ (.inl (by simp [F.AXIS_POS_LO.POS_LO, F.AXIS_POS_HI.POS_HI, R.AXIS_POS_LO, R.AXIS_POS_HI])),
    State.g_p_same _ _ _ (Nat.le_of_ble_eq_true rfl), State.g_p_same _ _ _ (Nat.le_of_ble_eq_true rfl), Nat.shiftRight_eq_div_pow]
  exact (Nat.mod_mul (a := 2 ^ 32) (b := 2 ^ 16)).symm

@[simp] theorem State.setAx_pos (s : State) (h : Nat) (x : AxisX) (k : Nat) : (s.setAx h x).pos k = s.pos k := rfl
@[simp] theorem State.ax_setAx (s : State) (h : Nat) (x : AxisX) : (s.setAx h x).ax h = x := tabGet_set_same _ _ _ _
theorem State.ax_setAx_ne (s : State) {h k : Nat} (x : AxisX) (hk : k ≠ h) : (s.setAx h x).ax k = s.ax k := tabGet_set_ne _ _ _ hk

end Sys2Proof.Machine
end

section
/-! PROOF. Writes of AXIS_CTL (R48, R52, R55, R56), and O1. -/
namespace Sys2Proof.Machine
-- One declaration after the other: elaborated side by side, they exceed the check's memory.
set_option Elab.async false

/-! ### The stored word -/

/-- A field that shares no bit with ZERO and the reserved bits is stored as written. -/
theorem axisCtlWord_get {lo len : Nat} (v : Word)
    (h : ((Nat.ble (lo + len) 2 || Nat.ble 4 lo) && (Nat.ble (lo + len) 19 || Nat.ble 20 lo) && (Nat.ble (lo + len) 26 || Nat.ble 29 lo) &&
      (Nat.ble (lo + len) 29 || Nat.ble 30 lo)) = true) : fieldGet lo len (axisCtlWord v) = fieldGet lo len v := by
  simp only [Bool.and_eq_true, Bool.or_eq_true, Nat.ble_eq] at h
  unfold axisCtlWord
  rw [fieldGet_put_ne (by omega), fieldGet_put_ne (by omega), fieldGet_put_ne (by omega), fieldGet_put_ne (by omega)]

/-- What is taken leaves the word in AXIS_CTL: behind it only AXIS_STAT changes. -/
theorem axisCtlTake_rd {h : Nat} (hh : h < 32) (v : Word) (s : State) : (axisCtlTake h v s).rd (R.AXIS_CTL h) = axisCtlWord v := by
  have ho : Off (fun a => a = R.AXIS_STAT h) (s.cfgWr (R.AXIS_CTL h) (axisCtlWord v)) (axisCtlTake h v s) :=
    axisBw_off (axisLoop_off (P := fun a => a = R.AXIS_STAT h) (State.when_off (fun t => State.clr_off (.refl t) rfl) (.refl _)) _ _ rfl) rfl
  rw [ho.regs _ (by simp [R.AXIS_CTL, R.AXIS_STAT]), State.cfgWr_rd (a := R.AXIS_CTL h) (not_jnlReg_at hh 0)]

/-- The state that a write of EN brings about, from the state `st` (R52). -/
def axisLoopTo (en : Bool) (st : Nat) : Nat := if en then (if st = axOff then axAcquiring else st) else axOff

theorem axisLoop_state (h : Nat) (en : Bool) (s : State) : (axisLoop h en (s.axSt h == axOff) s).axSt h = axisLoopTo en (s.axSt h) := by
  have hput (n : Nat) : (s.p (F.AXIS_STAT.STATE h) n).axSt h = n % 4 := State.g_p_same _ _ _ (Nat.le_of_ble_eq_true rfl)
  by_cases hoff : s.axSt h = axOff <;> cases en <;> simp [axisLoop, axisLoopTo, hoff, hput, axAcquiring]
  exact (State.g_p_field _ _ rfl).trans (hput axOff)

theorem axisBw_g (h : Nat) (s : State) {f : FRef} (hf : f.addr ≠ R.AXIS_STAT h ∨ f.lo + f.len ≤ 25) : (axisBw h s).g f = s.g f := by
  unfold axisBw State.when
  split
  · exact State.g_p_ne _ _ (hf.imp_right .inr)
  · rfl

/-- The registers before the loop moves: ALIGNED apart, those of the hall are as before. -/
theorem axisCtlStored_g {h : Nat} (hh : h < 32) (w : Word) (c : Bool) (s : State) {f : FRef} (ha : f.addr = R.AXIS_STAT h)
    (hf : 7 ≤ f.lo ∨ f.lo + f.len ≤ 6) :
    ((s.cfgWr (R.AXIS_CTL h) w).when c (fun t => t.clr (F.AXIS_STAT.ALIGNED h))).g f = s.g f := by
  have hw : (s.cfgWr (R.AXIS_CTL h) w).g f = s.g f :=
    State.cfgWr_g (by simp [ha, R.AXIS_CTL, R.AXIS_STAT]) (ha ▸ not_jnlReg_axisStat hh) _
  cases c
  · exact hw
  · exact (State.g_p_ne (f := F.AXIS_STAT.ALIGNED h) _ 0 (.inr hf)).trans hw

theorem axisCtlTake_state {h : Nat} (hh : h < 32) (v : Word) (s : State) :
    (axisCtlTake h v s).axSt h = axisLoopTo ((F.AXIS_CTL.EN h).is v) (s.axSt h) := by
  have hs := axisCtlStored_g hh (axisCtlWord v) (axisSrcChange h v s) s (f := F.AXIS_STAT.STATE h) rfl (.inr (Nat.le_of_ble_eq_true rfl))
  unfold axisCtlTake
  rw [State.axSt, axisBw_g _ _ (.inr (Nat.le_of_ble_eq_true rfl)), ← State.axSt, show s.axSt h = _ from hs.symm]
  exact axisLoop_state h _ _

/-- Stopping the loop loses alignment. -/
theorem axisCtlTake_stops {h : Nat} {v : Word} {s : State} (hen : (F.AXIS_CTL.EN h).is v = false) (hst : s.axSt h ≠ axOff) :
    (axisCtlTake h v s).g (F.AXIS_STAT.ALIGNED h) = 0 := by
  unfold axisCtlTake
  rw [axisBw_g _ _ (.inr (Nat.le_of_ble_eq_true rfl)), axisLoop, hen, beq_eq_false_iff_ne.mpr hst]
  exact State.g_p_same _ _ _ (Nat.le_of_ble_eq_true rfl)

/-! ### Writes that are taken -/

/-- ZERO acts on what the other fields leave. -/
def axisCtlDone (h : Nat) (v : Word) (s : State) : State :=
  if (F.AXIS_CTL.ZERO h).is v then axisZeroNext h (axisCtlTake h v s) else axisCtlTake h v s

theorem axisCtlWrite_taken {h : Nat} {v : Word} {s : State} (hsrc : (F.AXIS_CTL.SRC h).of v ≠ 3) (hb : axisCtlBusy h v s = false)
    (hl : s.anyLive h = false) : axisCtlWrite h v s = axisCtlDone h v s := by
  rw [axisCtlWrite_eq, hb, beq_eq_false_iff_ne.mpr hsrc, hl, axisCtlDone]
  cases (F.AXIS_CTL.ZERO h).is v <;> rfl

/-- ZERO clears ALIGNED and leaves every other field. -/
theorem axisCtlDone_g (h : Nat) (v : Word) (s : State) {f : FRef}
    (hf : f.addr ≠ R.AXIS_STAT h ∨ 7 ≤ f.lo ∨ f.lo + f.len ≤ 6) : (axisCtlDone h v s).g f = (axisCtlTake h v s).g f := by
  unfold axisCtlDone
  split
  · exact State.g_p_ne _ _ hf
  · rfl

theorem axisCtlDone_aligned {h : Nat} {v : Word} {s : State}
    (ha : (axisCtlTake h v s).g (F.AXIS_STAT.ALIGNED h) = 0 ∨ (F.AXIS_CTL.ZERO h).is v = true) :
    (axisCtlDone h v s).is (F.AXIS_STAT.ALIGNED h) = false := by
  have hz : (axisCtlDone h v s).g (F.AXIS_STAT.ALIGNED h) = 0 := by
    unfold axisCtlDone
    split
    case isTrue => exact State.g_p_same _ _ _ (Nat.le_of_ble_eq_true rfl)
    case isFalse hn => exact ha.resolve_right hn
  rw [State.is, hz]; rfl

/-- The fields of AXIS_CTL after a write. -/
theorem axisCtlDone_ctl {h : Nat} (hh : h < 32) (v : Word) (s : State) {f : FRef} (ha : f.addr = R.AXIS_CTL h)
    (hf : ((Nat.ble (f.lo + f.len) 2 || Nat.ble 4 f.lo) && (Nat.ble (f.lo + f.len) 19 || Nat.ble 20 f.lo) &&
      (Nat.ble (f.lo + f.len) 26 || Nat.ble 29 f.lo) && (Nat.ble (f.lo + f.len) 29 || Nat.ble 30 f.lo)) = true) :
    (axisCtlDone h v s).g f = f.of v := by
  rw [axisCtlDone_g h v s (.inl (by simp [ha, R.AXIS_CTL, R.AXIS_STAT])), State.g, ha, axisCtlTake_rd hh, axisCtlWord_get v hf, FRef.of]

theorem axisCtlDone_state {h : Nat} (hh : h < 32) (v : Word) (s : State) :
    (axisCtlDone h v s).axSt h = axisLoopTo ((F.AXIS_CTL.EN h).is v) (s.axSt h) :=
  (axisCtlDone_g h v s (f := F.AXIS_STAT.STATE h) (.inr (.inr (Nat.le_of_ble_eq_true rfl)))).trans (axisCtlTake_state hh v s)

/-- A write that keeps the source fields changes no source configuration. -/
theorem axisSrcChange_same {h : Nat} {v : Word} {s : State} (hk : ∀ f ∈ [F.AXIS_CTL.SRC h, F.AXIS_CTL.EXT_SEL h, F.AXIS_CTL.EXT_EDGE h,
    F.AXIS_CTL.DUT_CH h, F.AXIS_CTL.PREDIV h], f.of v = s.g f) : axisSrcChange h v s = false := by
  have hd (f : FRef) (hf : f ∈ [F.AXIS_CTL.SRC h, F.AXIS_CTL.EXT_SEL h, F.AXIS_CTL.EXT_EDGE h, F.AXIS_CTL.DUT_CH h, F.AXIS_CTL.PREDIV h])
      (ha : f.addr = R.AXIS_CTL h) : (f.of (s.rd (R.AXIS_CTL h)) != f.of v) = false := by
    rw [hk f hf, State.g, ha]; exact bne_self_eq_false _
  simp only [axisSrcChange, hd (F.AXIS_CTL.SRC h) (by simp) rfl, hd (F.AXIS_CTL.EXT_SEL h) (by simp) rfl,
    hd (F.AXIS_CTL.EXT_EDGE h) (by simp) rfl, hd (F.AXIS_CTL.DUT_CH h) (by simp) rfl, hd (F.AXIS_CTL.PREDIV h) (by simp) rfl, Bool.or_self]

/-- With no LIVE alcove only a change of the source outside OFF is turned away. -/
theorem axisCtlBusy_idle {h : Nat} {v : Word} {s : State} (hl : s.anyLive h = false) (hc : axisSrcChange h v s = false ∨ s.axSt h = axOff) :
    axisCtlBusy h v s = false := by
  unfold axisCtlBusy
  obtain hc | hc := hc <;> simp [hl, hc]

/-! ### The commands -/

section
variable {s : State} {h : Nat} {v : Word} (hr : Ready s) (hh : h < s.part.halls)
include hr hh

theorem exec_axisCtlWrite : exec (.axisCtlWrite h v) s = .next (s.byHost (axisCtlWrite h v)) := by
  simp only [exec, execAxisCtlWrite, State.hallOk_of_lt hh, if_true, State.host_run hr.1 hr.2]
theorem exec_axisEnable (hen : (F.AXIS_CTL.EN h).is v = true) : exec (.axisEnable h v) s = .next (s.byHost (axisCtlWrite h v)) := by
  simp only [exec, execAxisEnable, State.hallOk_of_lt hh, hen, Bool.and_self, if_true, State.host_run hr.1 hr.2]
theorem exec_axisDisable (hen : (F.AXIS_CTL.EN h).is v = false) : exec (.axisDisable h v) s = .next (s.byHost (axisCtlWrite h v)) := by
  simp only [exec, execAxisDisable, State.hallOk_of_lt hh, hen, Bool.not_false, Bool.and_self, if_true, State.host_run hr.1 hr.2]
theorem exec_axisZero : exec (.axisZero h) s =
    .next (s.byHost (fun t => axisCtlWrite h (fieldPut 29 1 1 (t.rd (R.AXIS_CTL h))) t)) := by
  simp only [exec, execAxisZero, State.hallOk_of_lt hh, if_true, State.host_run hr.1 hr.2]

/-- A write with SRC = 3 sets CFG_ERR. -/
theorem axisCtlWrite_badSource (hl : s.anyLive h = false) (hsrc : (F.AXIS_CTL.SRC h).of v = 3) :
    exec (.axisCtlWrite h v) s = .next (s.p (F.AXIS_STAT.CFG_ERR h) 1) := by
  have hb : axisCtlBusy h v s = false := by unfold axisCtlBusy; simp [hl, hsrc]
  rw [exec_axisCtlWrite hr hh, State.byHost, axisCtlWrite_eq, hb, beq_iff_eq.mpr hsrc]
  rfl

/-- A write that is turned away sets SRC_BUSY. -/
theorem axisCtlWrite_turnedAway (hb : axisCtlBusy h v s = true) (hsrc : (F.AXIS_CTL.SRC h).of v ≠ 3) :
    exec (.axisCtlWrite h v) s = .next (s.p (F.AXIS_STAT.SRC_BUSY h) 1) := by
  rw [exec_axisCtlWrite hr hh, State.byHost, axisCtlWrite_eq, hb, beq_eq_false_iff_ne.mpr hsrc]
  rfl

/-- ZERO written over the fields as they stand: the tread that starts next is the one of position 0. -/
theorem axisZero_zeroes (hsrc : s.g (F.AXIS_CTL.SRC h) ≠ 3) (hl : s.anyLive h = false) :
    ∃ t, exec (.axisZero h) s = .next t ∧ t.is (F.AXIS_STAT.ALIGNED h) = false ∧ (axisTread h t).pos h = 0 := by
  have hkeep (f : FRef) (ha : f.addr = R.AXIS_CTL h) (hf : f.lo + f.len ≤ 29) : f.of (fieldPut 29 1 1 (s.rd (R.AXIS_CTL h))) = s.g f := by
    rw [FRef.of, fieldGet_put_ne (.inr hf), State.g, ha]
  have hz : (F.AXIS_CTL.ZERO h).is (fieldPut 29 1 1 (s.rd (R.AXIS_CTL h))) = true :=
    beq_iff_eq.mpr (fieldGet_put_same (lo := 29) (len := 1) (by decide) 1 _)
  have hsame : axisSrcChange h (fieldPut 29 1 1 (s.rd (R.AXIS_CTL h))) s = false := axisSrcChange_same fun f hf => by
    simp only [List.mem_cons, List.not_mem_nil, or_false] at hf
    obtain rfl | rfl | rfl | rfl | rfl := hf <;> exact hkeep _ rfl (Nat.le_of_ble_eq_true rfl)
  have hw := axisCtlWrite_taken (by rwa [hkeep _ rfl (Nat.le_of_ble_eq_true rfl)]) (axisCtlBusy_idle hl (.inl hsame)) hl
  refine ⟨_, exec_axisZero hr hh, ?_, ?_⟩
  · rw [State.byHost_is, hw]
    exact axisCtlDone_aligned (.inr hz)
  · have hx : (axisCtlDone h (fieldPut 29 1 1 (s.rd (R.AXIS_CTL h))) s).ax h =
        { (axisCtlTake h (fieldPut 29 1 1 (s.rd (R.AXIS_CTL h))) s).ax h with zeroNext := true } := by
      rw [axisCtlDone, hz, if_pos rfl]; exact State.ax_setAx ..
    have hzn : ((s.byHost fun t => axisCtlWrite h (fieldPut 29 1 1 (t.rd (R.AXIS_CTL h))) t).ax h).zeroNext = true := by
      change ((axisCtlWrite h (fieldPut 29 1 1 (s.rd (R.AXIS_CTL h))) s).ax h).zeroNext = true
      rw [hw, hx]
    rw [axisTread_eq, if_pos hzn, State.pos_setPos, Nat.zero_mod]

end

/-- Settles O1: a write that is taken by `axisCtlDone`, one that is turned away by `axisCtlBusy`. -/
theorem axisControl : Obligations.AxisControl := by
  refine ⟨fun s h v hr hh hen hsrc hl hst => ⟨_, exec_axisEnable hr hh hen, ?_⟩,
    fun s h v hr hh hen hsrc hl hst hk => ⟨_, exec_axisDisable hr hh hen, ?_⟩, fun s h hr hh => axisZero_zeroes hr hh,
    fun s h v hr hh hsrc hl hk => ⟨_, exec_axisCtlWrite hr hh, ?_⟩, fun s h v hr hh => axisCtlWrite_badSource hr hh,
    fun s h v hr hh hl hsrc hen => axisCtlWrite_turnedAway hr hh ?_ hsrc,
    fun s h v hr hh hl hsrc hdiv hst => axisCtlWrite_turnedAway hr hh ?_ hsrc⟩
  all_goals have h32 := lt_of_lt_of_le hh (Part_halls_le _)
  · simp only [State.axSt, State.byHost_is, State.byHost_g, axisCtlWrite_taken hsrc (axisCtlBusy_idle hl (.inr hst)) hl]
    refine ⟨(axisCtlDone_state h32 v s).trans ?_, ?_, axisCtlDone_ctl h32 v s rfl rfl⟩
    · rw [hen, hst]; rfl
    · rw [State.is, axisCtlDone_ctl h32 v s rfl rfl]; exact hen
  · simp only [State.axSt, State.byHost_is, State.byHost_g, axisCtlWrite_taken hsrc (axisCtlBusy_idle hl (.inl (axisSrcChange_same hk))) hl]
    refine ⟨(axisCtlDone_state h32 v s).trans ?_, axisCtlDone_aligned (.inl (axisCtlTake_stops hen hst)), ?_⟩
    · rw [hen]; rfl
    · rw [State.is, axisCtlDone_ctl h32 v s rfl rfl]; exact hen
  · simp only [State.byHost_g, axisCtlWrite_taken hsrc (axisCtlBusy_idle hl (.inl (axisSrcChange_same hk))) hl]
    exact ⟨axisCtlDone_ctl h32 v s rfl rfl, axisCtlDone_ctl h32 v s rfl rfl⟩
  · have hd : ((F.AXIS_CTL.EN h).of (s.rd (R.AXIS_CTL h)) != (F.AXIS_CTL.EN h).of v) = true := bne_iff_ne.mpr (Ne.symm hen)
    unfold axisCtlBusy
    simp [hd, hl]
  · have hd : ((F.AXIS_CTL.PREDIV h).of (s.rd (R.AXIS_CTL h)) != (F.AXIS_CTL.PREDIV h).of v) = true := bne_iff_ne.mpr (Ne.symm hdiv)
    have hc : axisSrcChange h v s = true := by unfold axisSrcChange; simp [hd]
    unfold axisCtlBusy
    simp [hc, hsrc, hst]
end Sys2Proof.Machine
end

section
/-! PROOF. The follow loop (R46, R51, R53, R57–R59), and O2. -/
namespace Sys2Proof.Machine
-- One declaration after the other: elaborated side by side, they exceed the check's memory.
set_option Elab.async false

/-! ### Locks -/

/-- The registers after a lock: what is measured, and the state. -/
theorem axisLocks_g {h : Nat} {f : FRef} (hf : ¬ jnlReg f.addr) (freq : Nat) (s : State) :
    (axisLocks h freq s).g f = (((s.p (F.FOLLOW_FREQ.FREQ h) freq).p (F.AXIS_STAT.STATE h) axLocked).bwUpdate h).g f := by
  unfold axisLocks
  rw [State.jAxis_g hf, State.emit_g, State.setAx_g]

theorem axisLocks_locked {h : Nat} (hh : h < 32) (freq : Nat) (s : State) : (axisLocks h freq s).axSt h = axLocked := by
  unfold State.axSt
  rw [axisLocks_g (not_jnlReg_axisStat hh), State.bwUpdate, State.g_p_field _ _ rfl, State.g_p_same _ _ _ (Nat.le_of_ble_eq_true rfl)]
  rfl

theorem axisLocks_freq {h freq : Nat} (hh : h < 32) (hf : freq < 2 ^ 29) (s : State) :
    (axisLocks h freq s).g (F.FOLLOW_FREQ.FREQ h) = freq := by
  have hne : R.FOLLOW_FREQ h ≠ R.AXIS_STAT h := by simp [R.FOLLOW_FREQ, R.AXIS_STAT]
  rw [axisLocks_g (not_jnlReg_at hh 0x10), State.bwUpdate, State.g_p_ne _ _ (.inl hne), State.g_p_ne _ _ (.inl hne),
    State.g_p_same _ _ _ (Nat.le_of_ble_eq_true rfl)]
  exact Nat.mod_eq_of_lt hf

theorem axisLocks_ax (h freq : Nat) (s : State) :
    (axisLocks h freq s).ax h = { s.ax h with lockFreq := freq, rate := freq, hist := [(freq, 1028)] } := by
  unfold axisLocks
  rw [((State.jAxis_reports ..).after (State.emit_reports ..)).ax, State.ax_setAx]
  rfl

theorem axisLocks_pos {h : Nat} (hh : h < 32) (freq : Nat) (s : State) : (axisLocks h freq s).pos h = s.pos h := by
  have hp : ¬ axisLockReg h (R.AXIS_POS_LO h) ∧ ¬ axisLockReg h (R.AXIS_POS_HI h) := by
    simp only [axisLockReg, R.FOLLOW_FREQ, R.AXIS_STAT, jnlReg, R.JNL_STAT, R.JNL_SEQ, R.JNL_DROP, R.RR_STAT, R.AXIS_POS_LO, R.AXIS_POS_HI]
    omega
  exact (axisLocks_off h freq s).pos hp.1 hp.2

theorem exec_axisLock {s : State} {h freq : Nat} (hh : h < s.part.halls) (hst : s.axSt h = axAcquiring) (hk : s.lockOk h freq = true) :
    exec (.axisLock h freq) s = .next (axisLocks h freq (s.setAx h { s.ax h with acc := 0, sacc := 0, per := 0, pull := 0 })) := by
  simp only [exec, execAxisLock, State.hallOk_of_lt hh, hst, hk, beq_self_eq_true, Bool.and_self, if_true]

theorem exec_holdoverExit {s : State} {h freq edge : Nat} (hh : h < s.part.halls) (hst : s.axSt h = axHoldover) (hk : s.lockOk h freq = true) :
    exec (.holdoverExit h freq edge) s = .next (axisLocks h freq (s.setAx h { s.ax h with pull := nearestEdge edge })) := by
  simp only [exec, execHoldoverExit, State.hallOk_of_lt hh, hst, hk, beq_self_eq_true, Bool.and_self, if_true]

/-! ### Losses -/

/-- The loss shown, with the lost external input (R57). -/
def axisCaused (h cause : Nat) (s : State) : State :=
  (s.when (s.g (F.AXIS_CTL.SRC h) = 2 && cause = 1) (fun t => t.setBit F.AXIN_STAT.AXIN_LOST (s.g (F.AXIS_CTL.EXT_SEL h)))).p
    (F.AXIS_STAT.CAUSE h) cause

/-- Entry into HOLDOVER, before the rate held is taken. -/
def axisHeld (h cause : Nat) (s : State) : State :=
  (((axisCaused h cause s).p (F.AXIS_STAT.STATE h) axHoldover).set1 (F.AXIS_STAT.AXIS_LOST h)).clr (F.AXIS_STAT.ALIGNED h)

/-- A loss in LOCKED (R58). -/
theorem axisLose_locked {h cause : Nat} {s : State} (hst : s.axSt h = axLocked) : axisLose h cause s =
    ((((axisHeld h cause s).setAx h { (axisHeld h cause s).ax h with rate := ((axisHeld h cause s).ax h).holdFreq, pull := 0 }).emit
      (4 * h + 3)).raise (8 * h) noDetail (s.liveAlcs h)).jAxis h 2 (s.g (F.AXIS_STAT.SLOT h)) 0 := by
  unfold axisLose
  rw [hst, if_neg (by decide), if_pos rfl]
  rfl

theorem axisHeld_reports (h cause : Nat) (s : State) : Reports s (axisHeld h cause s) :=
  (State.p_reports ..).after <| (State.set1_reports ..).after <| (State.p_reports ..).after <| (State.p_reports ..).after <|
    State.when_reports (fun t => State.setBit_reports t ..) ..

theorem axisLose_g {h cause : Nat} {s : State} (hst : s.axSt h = axLocked) {f : FRef} (hf : ¬ jnlReg f.addr) :
    (axisLose h cause s).g f = (axisHeld h cause s).g f := by
  rw [axisLose_locked hst, State.jAxis_g hf, State.raise_g, State.emit_g, State.setAx_g]

theorem axisLose_rate {h cause : Nat} {s : State} (hst : s.axSt h = axLocked) :
    ((axisLose h cause s).ax h).rate = (s.ax h).holdFreq := by
  rw [axisLose_locked hst, ((State.jAxis_reports ..).after <| (State.raise_reports ..).after (State.emit_reports ..)).ax, State.ax_setAx,
    (axisHeld_reports h cause s).ax]

theorem axisHeld_shows (h cause : Nat) (s : State) : (axisHeld h cause s).g (F.AXIS_STAT.STATE h) = axHoldover ∧
    (axisHeld h cause s).g (F.AXIS_STAT.CAUSE h) = cause % 8 ∧ (axisHeld h cause s).g (F.AXIS_STAT.AXIS_LOST h) = 1 ∧
    (axisHeld h cause s).g (F.AXIS_STAT.ALIGNED h) = 0 := by
  unfold axisHeld axisCaused
  refine ⟨?_, ?_, ?_, ?_⟩
  · rw [State.clr_def, State.g_p_field _ _ rfl, State.set1_g, State.g_p_field _ _ rfl, State.g_p_same _ _ _ (Nat.le_of_ble_eq_true rfl)]
    rfl
  · rw [State.clr_def, State.g_p_field _ _ rfl, State.set1_g, State.g_p_field _ _ rfl, State.g_p_field _ _ rfl,
      State.g_p_same _ _ _ (Nat.le_of_ble_eq_true rfl)]
    rfl
  · rw [State.clr_def, State.g_p_field _ _ rfl, State.set1_g, State.g_p_same _ _ _ (Nat.le_of_ble_eq_true rfl)]
    rfl
  · rw [State.clr_def, State.g_p_same _ _ _ (Nat.le_of_ble_eq_true rfl)]
    rfl

theorem axisLose_pos {h : Nat} (hh : h < 32) (cause : Nat) (s : State) : (axisLose h cause s).pos h = s.pos h := by
  have hp : ¬ axisLossReg h (R.AXIS_POS_LO h) ∧ ¬ axisLossReg h (R.AXIS_POS_HI h) := by
    simp only [axisLossReg, R.AXIN_STAT, R.AXIS_STAT, jnlReg, R.JNL_STAT, R.JNL_SEQ, R.JNL_DROP, R.RR_STAT, R.AXIS_POS_LO, R.AXIS_POS_HI]
    omega
  exact (axisLose_off h cause s).pos hp.1 hp.2

theorem exec_axisLoss {s : State} {h cause : Nat} (hh : h < s.part.halls) (h1 : 1 ≤ cause) (h4 : cause ≤ 4)
    (hr : cause = 4 → s.g (F.AXIS_CTL.SRC h) = 0) : exec (.axisLoss h cause) s = .next (axisLose h cause s) := by
  have hc : (s.hallOk h && decide (1 ≤ cause) && decide (cause ≤ 4) && (cause != 4 || s.g (F.AXIS_CTL.SRC h) == 0)) = true := by
    simp only [State.hallOk_of_lt hh, h1, h4, decide_true, Bool.and_self, Bool.true_and, Bool.or_eq_true, bne_iff_ne, beq_iff_eq]
    tauto
  exact congrArg Host.Outcome.next (if_pos hc)

/-! ### The wrap -/

/-- The tread after the last position is the one of position zero, whatever else it counts. -/
theorem tread_wraps {s : State} {h : Nat} (hh : h < 32) (hp : s.pos h = 2 ^ 48 - 1) (hz : (s.ax h).zeroNext = false) :
    (tread h s).pos h = 0 := by
  have hhold : (tread h s).pos h = (axisTread h s).pos h := by
    refine ((holdTread_off h _).pos ?_ ?_).trans rfl <;>
      simp [holdTreadReg, R.SEG_HOLD_CNT, R.STALL_CNT, R.STALL_RUN, R.AXIS_POS_LO, R.AXIS_POS_HI]
  have hmark (t : State) : (axisWrapMark h t).pos h = t.pos h := by
    refine (axisWrapMark_off h t).pos ?_ ?_ <;>
      simp only [jnlReg, R.JNL_STAT, R.JNL_SEQ, R.JNL_DROP, R.RR_STAT, R.AXIS_POS_LO, R.AXIS_POS_HI] <;> omega
  rw [hhold, axisTread_eq, hz, if_neg (by decide), if_pos hp, hmark, State.pos_setPos]
  rfl

theorem exec_axisWrap {s : State} {h : Nat} (hh : h < s.part.halls) (hr : s.axRuns h = true) (hp : s.pos h = 2 ^ 48 - 1)
    (hz : (s.ax h).zeroNext = false) : exec (.axisWrap h) s = .next (tread h s) := by
  refine congrArg Host.Outcome.next (if_pos ?_)
  simp [State.hallOk_of_lt hh, hr, hp, hz]

/-- Settles O2: a lock from `axisLocks`, a loss from `axisHeld`, the wrap from `tread_wraps`. -/
theorem axisFollowLoop : Obligations.AxisFollowLoop := by
  refine ⟨fun s h freq hh hst hf hk => ⟨_, exec_axisLock hh hst hk, ?_⟩, fun s h cause hh hst h1 h4 hr => ⟨_, exec_axisLoss hh h1 h4 hr, ?_⟩,
    fun s h freq edge hh hst hf hk => ⟨_, exec_holdoverExit hh hst hk, ?_⟩,
    fun s h hh hr hp hz => ⟨_, exec_axisWrap hh hr hp hz, tread_wraps (lt_of_lt_of_le hh (Part_halls_le _)) hp hz⟩⟩
  all_goals have h32 := lt_of_lt_of_le hh (Part_halls_le _)
  · exact ⟨axisLocks_locked h32 .., axisLocks_freq h32 hf _, by rw [axisLocks_ax], axisLocks_pos h32 ..⟩
  · obtain ⟨hs, hc, hl, ha⟩ := axisHeld_shows h cause s
    have hg (f : FRef) (hf : f.addr = R.AXIS_STAT h) := axisLose_g (cause := cause) hst (f := f) (hf ▸ not_jnlReg_axisStat h32)
    refine ⟨(hg _ rfl).trans hs, (hg _ rfl).trans (hc.trans (Nat.mod_eq_of_lt (by omega))), ?_, ?_, axisLose_rate hst, axisLose_pos h32 ..⟩
    · rw [State.is, hg _ rfl, hl]; rfl
    · rw [State.is, hg _ rfl, ha]; rfl
  · exact ⟨axisLocks_locked h32 .., axisLocks_freq h32 hf _, by rw [axisLocks_ax, State.ax_setAx], axisLocks_pos h32 ..⟩
end Sys2Proof.Machine
end

section
/-! PROOF. Ratio words, staged changes, timing sets and the array zero (R62–R77), and O3. -/
namespace Sys2Proof.Machine
-- One declaration after the other: elaborated side by side, they exceed the check's memory.
set_option Elab.async false

/-! ### Ratio words (R62) -/

/-- The register that a ratio word is written to. -/
def ratioReg (h k : Nat) (isN : Bool) : Nat := if isN then R.RATIO_N h k else R.RATIO_M h k

theorem ratioReg_hall {k : Nat} (hk : k < 8) (h : Nat) (isN : Bool) :
    0x100020 + 0x10000 * h ≤ ratioReg h k isN ∧ ratioReg h k isN < 0x100060 + 0x10000 * h := by
  unfold ratioReg
  split
  · unfold R.RATIO_N; omega
  · unfold R.RATIO_M; omega

theorem ratioReg_not_jnl {h k : Nat} (hh : h < 32) (hk : k < 8) (isN : Bool) : ¬ jnlReg (ratioReg h k isN) :=
  have ⟨h1, h2⟩ := ratioReg_hall hk h isN
  not_jnlReg_hall hh (by omega) (by omega)

section
variable {s : State} {h k : Nat} {isN : Bool} {v : Word}

/-- A word of a slot that no running axis uses. -/
theorem ratioWrite_free (hx : fieldGet 0 24 v ≠ 0) (hu : (s.g (F.AXIS_STAT.SLOT h) == k && s.axRuns h) = false) :
    ratioWrite h k isN v s = s.cfgWr (ratioReg h k isN) (BitVec.ofNat 32 (fieldGet 0 24 v)) := by
  simp [ratioWrite, ratioReg, hx, hu]

theorem ratioWrite_zero (hx : fieldGet 0 24 v = 0) (hu : (s.g (F.AXIS_STAT.SLOT h) == k && s.axRuns h) = false) :
    ratioWrite h k isN v s = s.set1 (F.AXIS_STAT.RATIO_ERR h) := by
  simp [ratioWrite, hx, hu]

theorem ratioWrite_live (hx : fieldGet 0 24 v ≠ 0) (hu : (s.g (F.AXIS_STAT.SLOT h) == k && s.axRuns h) = true) (hl : s.anyLive h = true) :
    ratioWrite h k isN v s = s.set1 (F.AXIS_STAT.RATIO_BUSY h) := by
  simp [ratioWrite, hx, hu, hl, beq_eq_false_iff_ne.mpr hx]

/-- A word of the slot in use, judged by the new rate. -/
theorem ratioWrite_used (hx : fieldGet 0 24 v ≠ 0) (hu : (s.g (F.AXIS_STAT.SLOT h) == k && s.axRuns h) = true) (hl : s.anyLive h = false) :
    ratioWrite h k isN v s =
      if sampleRateOk (s.ax h).rate (s.prediv h) (if isN then s.g (F.RATIO_M.M h k) else fieldGet 0 24 v)
        (if isN then fieldGet 0 24 v else s.g (F.RATIO_N.N h k))
      then (s.cfgWr (ratioReg h k isN) (BitVec.ofNat 32 (fieldGet 0 24 v))).jAxis h 3 k 0
      else (s.set1 (F.AXIS_STAT.RATIO_ERR h)).jAxis h 4 k 0 := by
  simp [ratioWrite, ratioReg, hx, hu, hl]

theorem exec_ratioWrite (hr : Ready s) (hh : h < s.part.halls) (hk : k < 8) :
    exec (.ratioWrite h k isN v) s = .next (s.byHost (ratioWrite h k isN v)) := by
  simp only [exec, execRatioWrite, State.hallOk_of_lt hh, hk, decide_true, Bool.and_self, if_true, State.host_run hr.1 hr.2]

theorem slotUnused (hu : s.g (F.AXIS_STAT.SLOT h) ≠ k ∨ s.axRuns h = false) : (s.g (F.AXIS_STAT.SLOT h) == k && s.axRuns h) = false := by
  obtain hu | hu := hu <;> simp [hu]

theorem slotUsed (hs : s.g (F.AXIS_STAT.SLOT h) = k) (hrun : s.axRuns h = true) : (s.g (F.AXIS_STAT.SLOT h) == k && s.axRuns h) = true := by
  simp [hs, hrun]

theorem ratioWrite_stores (hr : Ready s) (hh : h < s.part.halls) (hk : k < 8) (hx : fieldGet 0 24 v ≠ 0)
    (hu : s.g (F.AXIS_STAT.SLOT h) ≠ k ∨ s.axRuns h = false) : ∃ t, exec (.ratioWrite h k isN v) s = .next t ∧
      t.rd (ratioReg h k isN) = BitVec.ofNat 32 (fieldGet 0 24 v) := by
  refine ⟨_, exec_ratioWrite hr hh hk, ?_⟩
  rw [State.byHost_rd, ratioWrite_free hx (slotUnused hu), State.cfgWr_rd (ratioReg_not_jnl (lt_of_lt_of_le hh (Part_halls_le _)) hk _)]

theorem ratioWrite_inUse_stores (hr : Ready s) (hh : h < s.part.halls) (hk : k < 8) (hx : fieldGet 0 24 v ≠ 0)
    (hs : s.g (F.AXIS_STAT.SLOT h) = k) (hrun : s.axRuns h = true) (hl : s.anyLive h = false)
    (hrate : sampleRateOk (s.ax h).rate (s.prediv h) (if isN then s.g (F.RATIO_M.M h k) else fieldGet 0 24 v)
      (if isN then fieldGet 0 24 v else s.g (F.RATIO_N.N h k)) = true) :
    ∃ t, exec (.ratioWrite h k isN v) s = .next t ∧ t.rd (ratioReg h k isN) = BitVec.ofNat 32 (fieldGet 0 24 v) := by
  have hj := ratioReg_not_jnl (lt_of_lt_of_le hh (Part_halls_le _)) hk isN
  refine ⟨_, exec_ratioWrite hr hh hk, ?_⟩
  rw [State.byHost_rd, ratioWrite_used hx (slotUsed hs hrun) hl, if_pos hrate,
    (State.jAxis_off (.refl _) _ _ _ _ fun _ => id).regs _ hj, State.cfgWr_rd hj]

theorem ratioWrite_inUse_error (hr : Ready s) (hh : h < s.part.halls) (hk : k < 8) (hx : fieldGet 0 24 v ≠ 0)
    (hs : s.g (F.AXIS_STAT.SLOT h) = k) (hrun : s.axRuns h = true) (hl : s.anyLive h = false)
    (hrate : sampleRateOk (s.ax h).rate (s.prediv h) (if isN then s.g (F.RATIO_M.M h k) else fieldGet 0 24 v)
      (if isN then fieldGet 0 24 v else s.g (F.RATIO_N.N h k)) = false) :
    ∃ t, exec (.ratioWrite h k isN v) s = .next t ∧ t.is (F.AXIS_STAT.RATIO_ERR h) = true ∧
      t.rd (ratioReg h k isN) = s.rd (ratioReg h k isN) := by
  have h32 := lt_of_lt_of_le hh (Part_halls_le _)
  have hne : ratioReg h k isN ≠ R.AXIS_STAT h := by
    have ⟨h1, _⟩ := ratioReg_hall hk h isN
    unfold R.AXIS_STAT; omega
  refine ⟨_, exec_ratioWrite hr hh hk, ?_⟩
  rw [State.byHost_rd, State.byHost_is, ratioWrite_used hx (slotUsed hs hrun) hl, if_neg (by simp [hrate]),
    State.jAxis_is (not_jnlReg_axisStat h32), (State.jAxis_off (.refl _) _ _ _ _ fun _ => id).regs _ (ratioReg_not_jnl h32 hk _),
    State.set1_is, State.is_p_same _ _ _ rfl, State.set1_rd, State.rd_p_ne _ _ hne]
  exact ⟨rfl, rfl⟩

theorem ratioWrite_zero_error (hr : Ready s) (hh : h < s.part.halls) (hk : k < 8) (hx : fieldGet 0 24 v = 0)
    (hu : s.g (F.AXIS_STAT.SLOT h) ≠ k ∨ s.axRuns h = false) :
    exec (.ratioWrite h k isN v) s = .next (s.p (F.AXIS_STAT.RATIO_ERR h) 1) := by
  rw [exec_ratioWrite hr hh hk, State.byHost, ratioWrite_zero hx (slotUnused hu)]
  rfl

theorem ratioWrite_busy (hr : Ready s) (hh : h < s.part.halls) (hk : k < 8) (hx : fieldGet 0 24 v ≠ 0)
    (hs : s.g (F.AXIS_STAT.SLOT h) = k) (hrun : s.axRuns h = true) (hl : s.anyLive h = true) :
    exec (.ratioWrite h k isN v) s = .next (s.p (F.AXIS_STAT.RATIO_BUSY h) 1) := by
  rw [exec_ratioWrite hr hh hk, State.byHost, ratioWrite_live hx (slotUsed hs hrun) hl]
  rfl

end

/-! ### Staged changes (R64, R66, R68) -/

/-- The slot of a change that is let in comes into use. -/
def slotTake (h : Nat) (slot : Option Nat) (s : State) : State := match slot with | some k => slotUse h k s | none => s

/-- The phase of a change that is let in is still to be slewed. -/
def phaseTake (h : Nat) (phase : Option Int) (s : State) : State :=
  match phase with | some p => s.setAx h { s.ax h with phaseRem := (s.ax h).phaseRem + p } | none => s

/-- A change is let in where a slot that it names has a rate in range. -/
def ratioOk (s : State) (h : Nat) (slot : Option Nat) : Bool := match slot with | some k => s.slotOk h k | none => true

theorem ratioApply_ok {h : Nat} {slot : Option Nat} {phase : Option Int} {s : State} (hr : s.replaying = false)
    (hk : ratioOk s h slot = true) : ratioApply h slot phase s = (phaseTake h phase (slotTake h slot s)).jAxis h 3
      ((phaseTake h phase (slotTake h slot s)).g (F.AXIS_STAT.SLOT h)) 0 := by
  unfold ratioApply
  rw [if_neg (by simp [hr])]
  exact if_pos hk

theorem ratioApply_refused {h : Nat} {slot : Option Nat} {phase : Option Int} {s : State} (hr : s.replaying = false)
    (hk : ratioOk s h slot = false) :
    ratioApply h slot phase s = (s.set1 (F.AXIS_STAT.RATIO_ERR h)).jAxis h 4 (slot.getD 0) 0 := by
  unfold ratioApply
  rw [if_neg (by simp [hr])]
  exact if_neg fun e => Bool.false_ne_true (hk.symm.trans e)

theorem phaseTake_regs (h : Nat) (phase : Option Int) (s : State) : (phaseTake h phase s).regs = s.regs := by
  cases phase <;> rfl
theorem phaseTake_part (h : Nat) (phase : Option Int) (s : State) : (phaseTake h phase s).part = s.part := by
  cases phase <;> rfl

theorem slotTake_slot {h : Nat} {slot : Option Nat} (hk : ∀ k, slot = some k → k < 8) (s : State) :
    (slotTake h slot s).g (F.AXIS_STAT.SLOT h) = slot.getD (s.g (F.AXIS_STAT.SLOT h)) := by
  cases slot with
  | none => rfl
  | some k =>
    rw [slotTake, slotUse, State.setAx_g, State.g_p_same _ _ _ (Nat.le_of_ble_eq_true rfl)]
    exact Nat.mod_eq_of_lt (hk k rfl)

theorem slotTake_ax (h : Nat) (slot : Option Nat) (s : State) :
    ((slotTake h slot s).ax h).stage = (s.ax h).stage ∧ ((slotTake h slot s).ax h).phaseRem = (s.ax h).phaseRem := by
  cases slot with
  | none => exact ⟨rfl, rfl⟩
  | some k => rw [slotTake, slotUse, State.ax_setAx]; exact ⟨rfl, rfl⟩

theorem phaseTake_ax (h : Nat) (phase : Option Int) (s : State) : ((phaseTake h phase s).ax h).stage = (s.ax h).stage ∧
    ((phaseTake h phase s).ax h).phaseRem = (s.ax h).phaseRem + phase.getD 0 := by
  cases phase with
  | none => exact ⟨rfl, (Int.add_zero _).symm⟩
  | some p => rw [phaseTake, State.ax_setAx]; exact ⟨rfl, rfl⟩

/-- The stage emptied. -/
def unstage (h : Nat) (s : State) : State := s.setAx h { s.ax h with stage := none }

theorem unstage_slotOk (h k : Nat) (s : State) : (unstage h s).slotOk h k = s.slotOk h k := by
  unfold State.slotOk unstage
  rw [State.ax_setAx]
  rfl

theorem unstage_ratioOk (h : Nat) (slot : Option Nat) (s : State) : ratioOk (unstage h s) h slot = ratioOk s h slot := by
  cases slot with
  | none => rfl
  | some k => exact unstage_slotOk h k s

theorem setArmed_reports (h : Nat) (b : Bool) (s : State) : Reports s (setArmed h b s) := (State.p_reports ..).after (State.p_reports ..)

/-- ARMED and its copy in SYN_SCHED. -/
theorem setArmed_armed (h : Nat) (b : Bool) (s : State) : (setArmed h b s).is (F.AXIS_STAT.ARMED h) = b := by
  unfold setArmed
  rw [State.pb_def, State.is_p_reg _ _ (by simp [F.AXIS_STAT.ARMED, F.SYN_SCHED.ARM, R.AXIS_STAT, R.SYN_SCHED]), State.pb_def,
    State.is_p_same _ _ _ rfl]
  cases b <;> rfl

theorem setArmed_g {h : Nat} {f : FRef} (b : Bool) (s : State) (ha : f.addr = R.AXIS_STAT h)
    (hf : (Nat.ble 19 f.lo || Nat.ble (f.lo + f.len) 18) = true) : (setArmed h b s).g f = s.g f := by
  unfold setArmed
  rw [State.pb_def, State.g_p_ne _ _ (.inl (by simp [ha, F.SYN_SCHED.ARM, R.AXIS_STAT, R.SYN_SCHED])), State.pb_def,
    State.g_p_field (f := F.AXIS_STAT.ARMED h) _ _ hf]

section
variable {s : State} {h : Nat} {st : SynStage}

theorem exec_synTreadApply (hh : h < s.part.halls) (hs : (s.ax h).stage = some st) (ht : st.tread = true) (hd : st.deferred = false)
    (hp : st.at_ ≤ s.pos h) : exec (.synTreadApply h) s = .next (stageTread h st s) := by
  simp [exec, execSynTreadApply, hs, State.hallOk_of_lt hh, ht, hd, State.treadDue, hp]

theorem stageTread_idle (hpl : s.playing h = false) :
    stageTread h st s = setArmed h false (ratioApply h st.slot st.phase (unstage h s)) := by
  unfold stageTread
  rw [if_neg (by simp [hpl])]
  rfl

/-- A change that is let in takes slot and phase, and disarms. -/
theorem stageTread_applies (hh : h < s.part.halls) (hk : ∀ k, st.slot = some k → k < 8 ∧ s.slotOk h k = true) (hpl : s.playing h = false)
    (hr : s.replaying = false) : ((stageTread h st s).ax h).stage = none ∧
      (stageTread h st s).g (F.AXIS_STAT.SLOT h) = st.slot.getD (s.g (F.AXIS_STAT.SLOT h)) ∧
      ((stageTread h st s).ax h).phaseRem = (s.ax h).phaseRem + st.phase.getD 0 ∧ (stageTread h st s).is (F.AXIS_STAT.ARMED h) = false := by
  have hok : ratioOk (unstage h s) h st.slot = true := by
    rw [unstage_ratioOk]
    cases hs : st.slot with
    | none => rfl
    | some k => exact (hk k hs).2
  have hx := ((setArmed_reports h false _).after
    (State.jAxis_reports (phaseTake h st.phase (slotTake h st.slot (unstage h s))) h 3
      ((phaseTake h st.phase (slotTake h st.slot (unstage h s))).g (F.AXIS_STAT.SLOT h)) 0)).ax h
  obtain ⟨hst, hph⟩ := phaseTake_ax h st.phase (slotTake h st.slot (unstage h s))
  obtain ⟨hst', hph'⟩ := slotTake_ax h st.slot (unstage h s)
  have hu : (unstage h s).ax h = { s.ax h with stage := none } := State.ax_setAx ..
  rw [stageTread_idle hpl, ratioApply_ok (s := unstage h s) hr hok, hx, hst, hst', hph, hph', hu, setArmed_armed, setArmed_g _ _ rfl rfl,
    State.jAxis_g (not_jnlReg_axisStat (lt_of_lt_of_le hh (Part_halls_le _))), State.g_congr (phaseTake_regs ..) (phaseTake_part ..),
    slotTake_slot fun k e => (hk k e).1]
  exact ⟨rfl, rfl, rfl, rfl⟩

/-- A change whose slot is out of range is refused whole, and disarms. -/
theorem stageTread_refuses {k : Nat} (hh : h < s.part.halls) (hs : st.slot = some k) (hk : s.slotOk h k = false) (hpl : s.playing h = false)
    (hr : s.replaying = false) : ((stageTread h st s).ax h).stage = none ∧ (stageTread h st s).is (F.AXIS_STAT.RATIO_ERR h) = true ∧
      (stageTread h st s).g (F.AXIS_STAT.SLOT h) = s.g (F.AXIS_STAT.SLOT h) ∧
      ((stageTread h st s).ax h).phaseRem = (s.ax h).phaseRem ∧ (stageTread h st s).is (F.AXIS_STAT.ARMED h) = false := by
  have hj := not_jnlReg_axisStat (lt_of_lt_of_le hh (Part_halls_le _))
  have hbad : ratioOk (unstage h s) h st.slot = false := by rw [unstage_ratioOk, hs]; exact hk
  have hx := ((setArmed_reports h false _).after <| (State.jAxis_reports ((unstage h s).set1 (F.AXIS_STAT.RATIO_ERR h)) h 4 (st.slot.getD 0) 0).after
    (State.set1_reports ..)).ax h
  have hu : (unstage h s).ax h = { s.ax h with stage := none } := State.ax_setAx ..
  rw [stageTread_idle hpl, ratioApply_refused (s := unstage h s) hr hbad, hx, hu, setArmed_armed, State.is, setArmed_g _ _ rfl rfl, setArmed_g _ _ rfl rfl,
    State.jAxis_g hj, State.jAxis_g hj, ← State.is, State.set1_is, State.is_p_same _ _ _ rfl, State.set1_g, State.g_p_field _ _ rfl]
  exact ⟨rfl, rfl, rfl, rfl, rfl⟩

/-- A change that falls due during a flight is deferred. -/
theorem stageTread_defers (hpl : s.playing h = true) : ((stageTread h st s).ax h).stage = some { st with deferred := true } ∧
    (stageTread h st s).is (F.AXIS_STAT.SYN_DEFER h) = true ∧ (stageTread h st s).g (F.AXIS_STAT.SLOT h) = s.g (F.AXIS_STAT.SLOT h) := by
  unfold stageTread
  rw [if_pos hpl, (State.set1_reports ..).ax, State.ax_setAx, State.set1_is, State.is_p_same _ _ _ rfl, State.set1_g, State.g_p_field _ _ rfl]
  exact ⟨rfl, rfl, rfl⟩

end

/-! ### Timing sets (R72–R74) -/

section
variable {s : State} {h n : Nat} {w : TsWord} {v : Word}

theorem exec_tsetWrite (hr : Ready s) (hh : h < s.part.halls) (hn : n < 64) (hw : tsWordOk w = true) :
    exec (.tsetWrite h n w v) s = .next (s.byHost (tsetWrite h n w v)) := by
  simp only [exec, execTsetWrite, State.hallOk_of_lt hh, hn, hw, decide_true, Bool.and_self, if_true, State.host_run hr.1 hr.2]

/-- The register that a word of a timing set is stored in, and what is stored. -/
def tsetStore (h n : Nat) (w : TsWord) (v : Word) : Nat × Word :=
  match w with
  | .drv c => (R.TSET_DRV h n c, v &&& 0xF3FF03FF#32)
  | .cmp c => (R.TSET_CMP h n c, v &&& 0xC3FF03FF#32)
  | .hdr => (R.TSET_HDR h n, v &&& 0xF#32)

theorem tsetStore_hall (hn : n < 64) (hw : tsWordOk w = true) (v : Word) :
    0x100000 ≤ (tsetStore h n w v).1 ∧ (tsetStore h n w v).1 < 0x110000 + 0x10000 * h := by
  cases w with
  | drv c =>
    have hc : c < 32 := of_decide_eq_true hw
    simp only [tsetStore, R.TSET_DRV]; omega
  | cmp c =>
    have hc : c < 32 := of_decide_eq_true hw
    simp only [tsetStore, R.TSET_CMP]; omega
  | hdr => simp only [tsetStore, R.TSET_HDR]; omega

/-- A valid word of a set that is not in use is stored. -/
theorem tsetWrite_taken (hl : s.tsetLive h n = false) (hv : tsWordValid h n w v = true) :
    tsetWrite h n w v s = s.cfgWr (tsetStore h n w v).1 (tsetStore h n w v).2 := by
  unfold tsetWrite
  rw [hl, hv, if_neg (by decide)]
  cases w <;> rfl

theorem tsetWrite_stores (hr : Ready s) (hh : h < s.part.halls) (hn : n < 64) (hw : tsWordOk w = true) (hl : s.tsetLive h n = false)
    (hv : tsWordValid h n w v = true) :
    ∃ t, exec (.tsetWrite h n w v) s = .next t ∧ t.rd (tsetStore h n w v).1 = (tsetStore h n w v).2 := by
  obtain ⟨ha, hb⟩ := tsetStore_hall (h := h) hn hw v
  refine ⟨_, exec_tsetWrite hr hh hn hw, ?_⟩
  rw [State.byHost_rd, tsetWrite_taken hl hv, State.cfgWr_rd (not_jnlReg_hall (lt_of_lt_of_le hh (Part_halls_le _)) ha hb)]

theorem tsetWrite_invalid (hr : Ready s) (hh : h < s.part.halls) (hn : n < 64) (hw : tsWordOk w = true) (hl : s.tsetLive h n = false)
    (hv : tsWordValid h n w v = false) : exec (.tsetWrite h n w v) s = .next (s.p (F.AXIS_STAT.TSET_ERR h) 1) := by
  have he : tsetWrite h n w v s = s.set1 (F.AXIS_STAT.TSET_ERR h) := by
    unfold tsetWrite
    rw [hl, hv]
    rfl
  rw [exec_tsetWrite hr hh hn hw, State.byHost, he]
  rfl

theorem tsetWrite_busy (hr : Ready s) (hh : h < s.part.halls) (hn : n < 64) (hw : tsWordOk w = true) (hl : s.tsetLive h n = true)
    (hv : tsWordValid h n w v = true) : exec (.tsetWrite h n w v) s = .next (s.p (F.AXIS_STAT.TSET_BUSY h) 1) := by
  have he : tsetWrite h n w v s = s.set1 (F.AXIS_STAT.TSET_BUSY h) := by
    unfold tsetWrite
    rw [hl, hv]
    rfl
  rw [exec_tsetWrite hr hh hn hw, State.byHost, he]
  rfl

end

/-! ### The array zero (R76, R77) -/

theorem axzArm_arms {s : State} (hr : Ready s) :
    ∃ t, exec .axzArm s = .next t ∧ t.is F.AXZ_CTL.ARM = true ∧ t.is F.AXZ_CTL.ARMED = true := by
  have he : axzCtlWrite 1 s = (s.set1 F.AXZ_CTL.ARM).set1 F.AXZ_CTL.ARMED := by
    have hseen : s.clears F.AXZ_CTL.SEEN 1 = false := rfl
    unfold axzCtlWrite
    rw [hseen]
    rfl
  refine ⟨_, congrArg Host.Outcome.next (State.host_run hr.1 hr.2 _), ?_⟩
  rw [State.byHost_is, State.byHost_is, he, State.set1_is, State.set1_is, State.is_p_field _ _ rfl, State.set1_is, State.is_p_same _ _ _ rfl,
    State.is_p_same _ _ _ rfl]
  exact ⟨rfl, rfl⟩

/-- A flag of AXIS_STAT leaves the position. -/
theorem axisStat_pos {h : Nat} {f : FRef} (s : State) (hf : f.addr = R.AXIS_STAT h) : (s.set1 f).pos h = s.pos h :=
  (State.set1_off (P := fun a => a = R.AXIS_STAT h) (.refl s) hf).pos (by simp [R.AXIS_POS_LO, R.AXIS_STAT])
    (by simp [R.AXIS_POS_HI, R.AXIS_STAT])

/-- The hall is zeroed by the edge. -/
def axzZeroes (s : State) (h : Nat) : Bool := s.axSt h == axLocked && !s.anyLive h

/-- What the edge does to a hall that takes part. -/
theorem axzZeroHall_part {h : Nat} {s : State} (hsrc : s.g (F.AXIS_CTL.SRC h) = 0) (hen : s.is (F.AXIS_CTL.AXZ_EN h) = true) :
    axzZeroHall h s = if axzZeroes s h then
      ((s.setPos h 0).setAx h { s.ax h with acc := 0, sacc := 0, per := 0, phase := 0, phaseRem := 0, zeroNext := false }).set1
        (F.AXIS_STAT.ALIGNED h)
      else s.set1 (F.AXIS_STAT.AXZ_MISSED h) := by
  have hc : (decide (s.g (F.AXIS_CTL.SRC h) = 0) && s.is (F.AXIS_CTL.AXZ_EN h)) = true := by rw [hsrc, hen]; rfl
  unfold axzZeroHall axzZeroes
  rw [if_pos hc]
  rfl

/-- The registers of the zeroing of a hall. -/
def axzReg (h a : Nat) : Prop := a = R.AXIS_STAT h ∨ a = R.AXIS_POS_LO h ∨ a = R.AXIS_POS_HI h

theorem axzZeroHall_off (h : Nat) (s : State) : Off (axzReg h) s (axzZeroHall h s) := by
  unfold axzZeroHall
  have hp : Off (axzReg h) s (s.setPos h 0) := State.setPos_off (.refl s) 0 (.inr (.inl rfl)) (.inr (.inr rfl))
  refine Off.ite (Off.ite ?_ ?_) (.refl s)
  · exact State.set1_off (State.setAx_off hp ..) (.inl rfl)
  · exact State.set1_off (.refl s) (.inl rfl)

theorem axzZeroHall_ax_ne {h k : Nat} (hk : k ≠ h) (s : State) : (axzZeroHall h s).ax k = s.ax k := by
  unfold axzZeroHall
  split
  · split
    · rw [(State.set1_reports ..).ax, State.ax_setAx_ne _ _ hk, (State.setPos_reports s h 0).ax]
    · rfl
  · rfl

theorem axzZeroHall_axzPend (h : Nat) (s : State) : (axzZeroHall h s).axzPend = s.axzPend := by
  unfold axzZeroHall
  split
  · split <;> rfl
  · rfl

/-- The axis of hall `h` and the registers of its block are as before. -/
structure HallKept (h : Nat) (s t : State) : Prop where
  ax : t.ax h = s.ax h
  rd : ∀ a, 0x100000 + 0x10000 * h ≤ a → a < 0x110000 + 0x10000 * h → t.rd a = s.rd a

/-- The field at offset `o` of the block. -/
theorem HallKept.g {h : Nat} {s t : State} (k : HallKept h s t) (f : FRef) (o : Nat) (ha : f.addr = 0x100000 + o + 0x10000 * h)
    (ho : o < 0x10000 := by decide) : t.g f = s.g f := by
  unfold State.g; rw [k.rd _ (by omega) (by omega)]
theorem HallKept.is {h : Nat} {s t : State} (k : HallKept h s t) (f : FRef) (o : Nat) (ha : f.addr = 0x100000 + o + 0x10000 * h)
    (ho : o < 0x10000 := by decide) : t.is f = s.is f := by
  unfold State.is; rw [k.g f o ha ho]
theorem HallKept.pos {h : Nat} {s t : State} (k : HallKept h s t) : t.pos h = s.pos h := by
  unfold State.pos; rw [k.g _ 8 rfl, k.g _ 0xC rfl]
theorem HallKept.anyLive {h : Nat} {s t : State} (k : HallKept h s t) : t.anyLive h = s.anyLive h := by
  have hg (i : Nat) (hi : i < 96) : t.alcSt h i = s.alcSt h i := by
    refine k.g _ (0x200 + 4 * i) ?_ (by omega)
    simp only [F.ALC_STATE.STATE, R.ALC_STATE]
    omega
  unfold State.anyLive
  rw [Bool.eq_iff_iff, List.any_eq_true, List.any_eq_true]
  exact exists_congr fun i => and_congr_right fun hi => by rw [hg i (List.mem_range.mp hi)]

theorem HallKept.after {h : Nat} {s t u : State} (k : HallKept h t u) (j : HallKept h s t) : HallKept h s u :=
  ⟨k.ax.trans j.ax, fun a h1 h2 => (k.rd a h1 h2).trans (j.rd a h1 h2)⟩

/-- The zeroing of one hall keeps the others. -/
theorem axzZeroHall_kept {h k : Nat} (hk : k ≠ h) (s : State) : HallKept h s (axzZeroHall k s) := by
  refine ⟨axzZeroHall_ax_ne hk.symm s, fun a h1 h2 => (axzZeroHall_off k s).regs a ?_⟩
  unfold axzReg R.AXIS_STAT R.AXIS_POS_LO R.AXIS_POS_HI
  omega

/-- Edge k + 8: every hall is looked at. -/
def axzEdge (s : State) : State := { s with axzPend := false }.each s.part.halls axzZeroHall

/-- After the edge a hall is as the edge has left it. -/
theorem axzEdge_hall {s : State} {h : Nat} (hh : h < s.part.halls) :
    ∃ u, HallKept h s u ∧ HallKept h (axzZeroHall h u) (axzEdge s) :=
  State.each_reaches (I := fun t => HallKept h s t) (P := fun t => ∃ u, HallKept h s u ∧ HallKept h (axzZeroHall h u) t) hh
    ⟨rfl, fun _ _ _ => rfl⟩ (fun _ _ hk t ht => (axzZeroHall_kept hk t).after ht) (fun t ht => ⟨t, ht, rfl, fun _ _ _ => rfl⟩)
    fun _ _ hk t ⟨u, hu, ht⟩ => ⟨u, hu, (axzZeroHall_kept hk t).after ht⟩

/-- The zeroing as a whole: the device is no longer armed (R77). -/
def axzDone (s : State) : State := (((axzEdge s).clr F.AXZ_CTL.ARM).clr F.AXZ_CTL.ARMED).set1 F.AXZ_CTL.SEEN

theorem exec_axzZero {s : State} (hp : s.axzPend = true) : exec .axzZero s = .next (axzDone s) :=
  congrArg Host.Outcome.next (if_pos hp)

theorem axzDone_shows (s : State) : (axzDone s).is F.AXZ_CTL.ARMED = false ∧ (axzDone s).is F.AXZ_CTL.SEEN = true ∧
    (axzDone s).axzPend = false := by
  refine ⟨?_, ?_, ?_⟩
  · unfold axzDone
    rw [State.set1_is, State.is_p_field _ _ rfl, State.clr_def, State.is_p_same _ _ _ rfl]
    rfl
  · unfold axzDone
    rw [State.set1_is, State.is_p_same _ _ _ rfl]
    rfl
  · change (axzEdge s).axzPend = false
    exact State.each_inv (I := fun t => t.axzPend = false) rfl fun k _ t ht => (axzZeroHall_axzPend k t).trans ht

/-- The halls are as the edge has left them. -/
theorem axzDone_kept {h : Nat} (s : State) : HallKept h (axzEdge s) (axzDone s) := by
  refine ⟨rfl, fun a h1 _ => ?_⟩
  have ho : Off (fun a => a = R.AXZ_CTL) (axzEdge s) (axzDone s) :=
    State.set1_off (P := fun a => a = R.AXZ_CTL) (State.clr_off (P := fun a => a = R.AXZ_CTL) (State.clr_off (.refl _) rfl) rfl) rfl
  exact ho.regs a (by unfold R.AXZ_CTL; omega)

section
variable {s : State} {h : Nat} (hh : h < s.part.halls) (hsrc : s.g (F.AXIS_CTL.SRC h) = 0) (hen : s.is (F.AXIS_CTL.AXZ_EN h) = true)
include hh hsrc hen

/-- A hall that takes part, after the zeroing. -/
theorem axzDone_hall : ∃ u, HallKept h s u ∧ HallKept h (if axzZeroes s h then
      ((u.setPos h 0).setAx h { u.ax h with acc := 0, sacc := 0, per := 0, phase := 0, phaseRem := 0, zeroNext := false }).set1
        (F.AXIS_STAT.ALIGNED h) else u.set1 (F.AXIS_STAT.AXZ_MISSED h)) (axzDone s) := by
  obtain ⟨u, hu, hd⟩ := axzEdge_hall hh
  have hz : axzZeroes u h = axzZeroes s h := by
    unfold axzZeroes State.axSt; rw [hu.g _ 4 rfl, hu.anyLive]
  rw [axzZeroHall_part ((hu.g _ 0 rfl).trans hsrc) ((hu.is _ 0 rfl).trans hen), hz] at hd
  exact ⟨u, hu, (axzDone_kept s).after hd⟩

theorem axzDone_zeroed (hz : axzZeroes s h = true) : (axzDone s).pos h = 0 ∧ ((axzDone s).ax h).phase = 0 ∧
    ((axzDone s).ax h).phaseRem = 0 ∧ (axzDone s).is (F.AXIS_STAT.ALIGNED h) = true := by
  obtain ⟨u, -, hd⟩ := axzDone_hall hh hsrc hen
  rw [hz, if_pos rfl] at hd
  rw [hd.pos, axisStat_pos _ rfl, State.setAx_pos, State.pos_setPos, Nat.zero_mod, hd.ax, (State.set1_reports ..).ax, State.ax_setAx, hd.is _ 4 rfl, State.set1_is, State.is_p_same _ _ _ rfl]
  exact ⟨rfl, rfl, rfl, rfl⟩

theorem axzDone_missed (hz : axzZeroes s h = false) : (axzDone s).is (F.AXIS_STAT.AXZ_MISSED h) = true ∧ (axzDone s).pos h = s.pos h := by
  obtain ⟨u, hu, hd⟩ := axzDone_hall hh hsrc hen
  rw [hz, if_neg (by decide)] at hd
  rw [hd.pos, axisStat_pos _ rfl, hu.pos, hd.is _ 4 rfl, State.set1_is,
    State.is_p_same _ _ _ rfl]
  exact ⟨rfl, rfl⟩

end

/-- Settles O3: ratio words by `ratioWrite_free` and `ratioWrite_used`, staged changes by `stageTread`, timing sets by
`tsetStore`, the array zero by what `axzZeroHall` does to one hall and leaves of the others. -/
theorem axisSettingsAndZero : Obligations.AxisSettingsAndZero := by
  refine ⟨fun s h k isN v hr hh hk hx hu => ratioWrite_stores hr hh hk hx hu,
    fun s h k isN v hr hh hk hx hu => ratioWrite_zero_error hr hh hk hx hu,
    fun s h k isN v hr hh hk hx hs hrun hl hrate => ratioWrite_inUse_stores hr hh hk hx hs hrun hl hrate,
    fun s h k isN v hr hh hk hx hs hrun hl hrate => ratioWrite_inUse_error hr hh hk hx hs hrun hl hrate,
    fun s h k isN v hr hh hk hx hs hrun hl => ratioWrite_busy hr hh hk hx hs hrun hl,
    fun s h st hh hs ht hd hp hk hpl hr => ⟨_, exec_synTreadApply hh hs ht hd hp, stageTread_applies hh hk hpl hr⟩,
    fun s h k st hh hs ht hd hp hst hk hpl hr => ⟨_, exec_synTreadApply hh hs ht hd hp, stageTread_refuses hh hst hk hpl hr⟩,
    fun s h st hh hs ht hd hp hpl => ⟨_, exec_synTreadApply hh hs ht hd hp, stageTread_defers hpl⟩,
    fun s h n c v hr hh hn hc hl hv => tsetWrite_stores (w := .drv c) hr hh hn (decide_eq_true hc) hl hv,
    fun s h n c v hr hh hn hc hl hv => tsetWrite_stores (w := .cmp c) hr hh hn (decide_eq_true hc) hl hv,
    fun s h n v hr hh hn hl => tsetWrite_stores (w := .hdr) hr hh hn rfl hl rfl,
    fun s h n w v hr hh hn hw hl hv => tsetWrite_invalid hr hh hn hw hl hv,
    fun s h n w v hr hh hn hw hl hv => tsetWrite_busy hr hh hn hw hl hv, fun s hr => axzArm_arms hr,
    fun s ha => congrArg Host.Outcome.next (if_pos ha), fun s ha => congrArg Host.Outcome.next (if_neg (by simp [ha])),
    fun s h hp hh hsrc hen hst hl => ⟨_, exec_axzZero hp, ?_⟩, fun s h hp hh hsrc hen hz => ⟨_, exec_axzZero hp, ?_⟩⟩
  · obtain ⟨hpos, hph, hrem, hal⟩ := axzDone_zeroed hh hsrc hen (by unfold axzZeroes; rw [hst, hl]; rfl)
    exact ⟨hpos, hph, hrem, hal, axzDone_shows s⟩
  · obtain ⟨hm, hpos⟩ := axzDone_missed hh hsrc hen (by
      unfold axzZeroes
      obtain hz | hz := hz
      · rw [beq_eq_false_iff_ne.mpr hz]; rfl
      · rw [hz, Bool.not_true, Bool.and_false])
    exact ⟨hm, hpos, axzDone_shows s⟩

end Sys2Proof.Machine
end

section
/-! PROOF. O24 fails: its clause on a jump request already pending does not ask that the core runs (R145, R463). -/
namespace Sys2Proof.Machine
-- One declaration after the other: elaborated side by side, they exceed the check's memory.
set_option Elab.async false

/-- The device in a shutdown, with a jump request pending in hall 0. -/
def shutJumpState : State :=
  ((({} : State).p F.BOOT_STAGE.STAGE 8).p F.THERM_STAT.SHUTDOWN 1).p (F.JMP_REQ.REQ 0) 1

theorem shutJump_pending : shutJumpState.is (F.JMP_REQ.REQ 0) = true := by decide +kernel

/-- The write is refused as every write in a shutdown is (R463): it sets SD_WRITE. -/
theorem shutJump_refused :
    (nextOf (exec (.jmpReq 0 0) shutJumpState)).map (fun t => t.is F.THERM_STAT.SD_WRITE) = some true := by decide +kernel

theorem shutJump_before : shutJumpState.is F.THERM_STAT.SD_WRITE = false := by decide +kernel

/-- Refutes O24: in a shutdown (R463) a JMP_REQ that finds a request pending sets THERM_STAT.SD_WRITE, where the third clause,
which does not ask for `Ready`, has nothing change. -/
theorem not_hallRequests : ¬ Obligations.HallRequests := by
  rintro ⟨-, -, hpending, -⟩
  have hk := shutJump_refused
  rw [hpending shutJumpState 0 0 shutJump_pending] at hk
  simp [nextOf, shutJump_before] at hk

end Sys2Proof.Machine
end

section
/-! PROOF. Descriptors acted on and completed; TIME_STEP and TIME_RATE (R442, R443). -/
namespace Sys2Proof.Machine
-- One declaration after the other: elaborated side by side, they exceed the check's memory.
set_option Elab.async false

/-! ### A descriptor acted on, and completed -/

section
variable {s t : State} {q op : Nat} {r : DescRun}

theorem State.queue_setActed (s : State) (q d k : Nat) : ((s.setActed q d).queue k).run.map DescRun.did = (s.queue k).run.map DescRun.did := by
  by_cases hk : k = q
  · subst hk
    have hq : (s.setActed k d).queue k = { s.queue k with run := (s.queue k).run.map fun r => if r.did == d then { r with acted := true } else r } :=
      tabGet_set_same _ _ _ _
    rw [hq, Option.map_map]
    congr 1
    funext r
    simp only [Function.comp]
    split <;> rfl
  · exact congrArg (fun x : QueueX => x.run.map DescRun.did) (tabGet_set_ne _ _ _ hk)

/-- The queue of a descriptor depends on the identities in execution only. -/
theorem State.queueOf_congr (h : ∀ k, (t.queue k).run.map DescRun.did = (s.queue k).run.map DescRun.did) (d : Nat) :
    t.queueOf d = s.queueOf d := by
  unfold State.queueOf
  congr 1
  funext k
  have hk := h k
  cases ht : (t.queue k).run <;> cases hs : (s.queue k).run <;> simp_all

theorem State.withDesc_executes (h : Executes s q op false r) (f : DescRun → State → State) :
    s.withDesc q op f = f { r with acted := true } (s.setActed q r.did) := by
  obtain ⟨hrun, hacted, hop, -⟩ := h
  have hfind : s.findRun q op false = some r := by
    have hfits : (r.acted == false && dOpcode r.desc == op) = true := by simp [hacted, hop]
    simp only [State.findRun, hrun, Option.filter_some, hfits, if_true]
  rw [State.withDesc, hfind]

/-- The descriptor that a queue executes completes there, whatever else has changed since it was acted on. -/
theorem State.complete_completed (h : Executes s q op false r) (ht : t.queues = (s.setActed q r.did).queues) (st : Status)
    (res : List (Nat × Nat × Nat)) : Completed (t.complete r.did st res) q r st res := by
  obtain ⟨hrun, -, -, hof⟩ := h
  have hq (k : Nat) : t.queue k = (s.setActed q r.did).queue k := by unfold State.queue; rw [ht]
  have hof' : t.queueOf r.did = some q := (State.queueOf_congr (fun k => by rw [hq, State.queue_setActed]) _).trans hof
  have hrun' : (t.queue q).run = some { r with acted := true } := by
    rw [hq]
    refine (congrArg QueueX.run (tabGet_set_same _ _ _ _)).trans ?_
    simp [hrun]
  have hc : (t.complete r.did st res).queue q = { t.queue q with
      run := none
      held := some (packB ((0, 4, dTag r.desc) :: (4, 1, st.code) :: (6, 2, r.qpos) :: res))
      heldVec := dscBits r.desc 2 0 1 == 1 } := by
    unfold State.complete
    simp only [hof', hrun']
    exact tabGet_set_same _ _ _ _
  exact ⟨by rw [hc], by rw [hc]⟩

/-- A completion changes the queues, and those that a reset has parted from their queue. -/
theorem State.complete_leaves (t : State) (d : Nat) (st : Status) (res : List (Nat × Nat × Nat)) :
    ∃ qs os, t.complete d st res = { t with queues := qs, orphans := os } := by
  unfold State.complete
  split
  · exact ⟨_, _, rfl⟩
  · split <;> exact ⟨_, _, rfl⟩

@[simp] theorem State.complete_regs (t : State) (d : Nat) (st : Status) (res : List (Nat × Nat × Nat)) : (t.complete d st res).regs = t.regs := by
  obtain ⟨_, _, h⟩ := t.complete_leaves d st res; rw [h]
@[simp] theorem State.complete_part (t : State) (d : Nat) (st : Status) (res : List (Nat × Nat × Nat)) : (t.complete d st res).part = t.part := by
  obtain ⟨_, _, h⟩ := t.complete_leaves d st res; rw [h]
@[simp] theorem State.complete_tb0 (t : State) (d : Nat) (st : Status) (res : List (Nat × Nat × Nat)) : (t.complete d st res).tb0 = t.tb0 := by
  obtain ⟨_, _, h⟩ := t.complete_leaves d st res; rw [h]
@[simp] theorem State.complete_tb1 (t : State) (d : Nat) (st : Status) (res : List (Nat × Nat × Nat)) : (t.complete d st res).tb1 = t.tb1 := by
  obtain ⟨_, _, h⟩ := t.complete_leaves d st res; rw [h]
@[simp] theorem State.complete_tb0rem (t : State) (d : Nat) (st : Status) (res : List (Nat × Nat × Nat)) :
    (t.complete d st res).tb0rem = t.tb0rem := by
  obtain ⟨_, _, h⟩ := t.complete_leaves d st res; rw [h]
@[simp] theorem State.complete_g (t : State) (d : Nat) (st : Status) (res : List (Nat × Nat × Nat)) (f : FRef) :
    (t.complete d st res).g f = t.g f := State.g_congr (by simp) (by simp) f
@[simp] theorem State.complete_is (t : State) (d : Nat) (st : Status) (res : List (Nat × Nat × Nat)) (f : FRef) :
    (t.complete d st res).is f = t.is f := State.is_congr (by simp) (by simp) f

/-- A command that only completes its descriptor leaves time and registers. -/
theorem completes_only (h : Executes s q op false r) {i : Instr} {f : DescRun → State → State} (he : exec i s = .next (s.withDesc q op f))
    {st : Status} {res : List (Nat × Nat × Nat)}
    (hf : f { r with acted := true } (s.setActed q r.did) = (s.setActed q r.did).complete r.did st res) :
    ∃ t, exec i s = .next t ∧ t.tb0 = s.tb0 ∧ t.regs = s.regs ∧ Completed t q r st res := by
  rw [State.withDesc_executes h, hf] at he
  exact ⟨_, he, State.complete_tb0 .., State.complete_regs .., State.complete_completed h rfl ..⟩

end

/-! ### What reports leave of time and the queues -/

section
variable {s t : State}
theorem Reports.queues (h : Reports s t) : t.queues = s.queues := by obtain ⟨_, _, _, _, _, _, _, _, rfl⟩ := h; rfl
theorem Reports.tb0 (h : Reports s t) : t.tb0 = s.tb0 := by obtain ⟨_, _, _, _, _, _, _, _, rfl⟩ := h; rfl
theorem Reports.tb1 (h : Reports s t) : t.tb1 = s.tb1 := by obtain ⟨_, _, _, _, _, _, _, _, rfl⟩ := h; rfl
theorem Reports.tb0rem (h : Reports s t) : t.tb0rem = s.tb0rem := by obtain ⟨_, _, _, _, _, _, _, _, rfl⟩ := h; rfl
end

/-! ### A step of TB0 -/

/-- The registers in which the markers of a step show. -/
def markReg (a : Nat) : Prop := (∃ r ∈ [0, 1, 2, 3], a = R.RR_STAT r) ∨ jnlReg a

theorem not_markReg {a : Nat} (h1 : 0x20000 ≤ a) (h2 : a < 0x800000) : ¬ markReg a := by
  simp only [markReg, jnlReg, R.JNL_STAT, R.JNL_SEQ, R.JNL_DROP, R.RR_STAT, List.mem_cons, List.not_mem_nil, or_false, exists_eq_or_imp,
    exists_eq_left]
  omega

theorem not_jnlReg_time {a : Nat} (h1 : 0x20000 ≤ a) (h2 : a < 0x800000) : ¬ jnlReg a := fun ha => not_markReg h1 h2 (.inr ha)
theorem not_jnlReg_tb : ¬ jnlReg R.TB0_STAT := not_jnlReg_time (by decide) (by decide)

theorem nsMark_off (s : State) : Off markReg s (nsMark s) :=
  State.jput_off (State.ringMarker_off_mem (.refl s) _ _ _ _ fun r hr => .inl ⟨r, hr, rfl⟩) _ fun _ => .inr
theorem tbStep_off (v : Nat) (s : State) : Off markReg s (tbStep v s) := (nsMark_off _).after (Off.base (.refl s))

theorem State.jput_reports (s : State) (l : List JRec) : Reports s (s.jput l) := .ite (State.jforce_reports ..) (.refl s)
theorem nsMark_reports (s : State) : Reports s (nsMark s) := (State.jput_reports ..).after (State.ringMarker_reports ..)
theorem tbStep_reports (v : Nat) (s : State) : Reports { s with tb0 := v % 2 ^ 80, tb0rem := 0 } (tbStep v s) := nsMark_reports _

/-! ### The time-trigger outputs after a step -/

/-- The step as one output sees it. -/
def ttStop (n : Nat) (s : State) : State :=
  s.when (s.is (F.TT_CTL.ARMED n)) (fun u => (u.clr (F.TT_CTL.ARMED n)).set1 (F.TT_CTL.STEPPED n))

theorem ttStepped_eq (s : State) : ttStepped s = s.each 8 ttStop := rfl

theorem ttStop_reports (n : Nat) (s : State) : Reports s (ttStop n s) :=
  State.when_reports (fun _ => (State.set1_reports ..).after (State.p_reports ..)) ..
theorem ttStop_off (n : Nat) (s : State) : Off (· = R.TT_CTL n) s (ttStop n s) :=
  State.when_off (fun t => State.set1_off (P := fun a => a = R.TT_CTL n) (State.clr_off (.refl t) rfl) rfl) (.refl s)

theorem ttStop_stops (n : Nat) (s : State) :
    (ttStop n s).is (F.TT_CTL.ARMED n) = false ∧ (s.is (F.TT_CTL.ARMED n) = true → (ttStop n s).is (F.TT_CTL.STEPPED n) = true) := by
  unfold ttStop
  cases ha : s.is (F.TT_CTL.ARMED n)
  · exact ⟨ha, nofun⟩
  · rw [State.when_true, State.set1_is, State.set1_is]
    refine ⟨?_, fun _ => ?_⟩
    · rw [State.is_p_field _ _ rfl, State.clr_def, State.is_p_same _ _ _ rfl]
      rfl
    · rw [State.is_p_same _ _ _ rfl]
      rfl

theorem ttStop_is_ne {n k : Nat} (hk : k ≠ n) {f : FRef} (hf : f.addr = R.TT_CTL n) (s : State) : (ttStop k s).is f = s.is f :=
  (ttStop_off k s).is f (by rw [hf]; unfold R.TT_CTL; omega)

theorem ttStepped_reports (s : State) : Reports s (ttStepped s) :=
  State.each_inv (.refl s) fun n _ _ ht => (ttStop_reports n _).after ht

/-- The registers TT_CTL of the eight outputs. -/
def ttCtlReg (a : Nat) : Prop := ∃ n < 8, a = R.TT_CTL n

theorem ttStepped_off (s : State) : Off ttCtlReg s (ttStepped s) :=
  State.each_inv (I := Off ttCtlReg s) (.refl s) fun n hn t ht => ((ttStop_off n t).mono fun _ ha => ⟨n, hn, ha⟩).after ht

/-- A step disarms every output, and one that was armed shows it. -/
theorem ttStepped_stops {n : Nat} (hn : n < 8) (s : State) :
    (ttStepped s).is (F.TT_CTL.ARMED n) = false ∧ (s.is (F.TT_CTL.ARMED n) = true → (ttStepped s).is (F.TT_CTL.STEPPED n) = true) := by
  rw [ttStepped_eq]
  refine State.each_reaches (I := fun t => t.is (F.TT_CTL.ARMED n) = s.is (F.TT_CTL.ARMED n))
    (P := fun t => t.is (F.TT_CTL.ARMED n) = false ∧ (s.is (F.TT_CTL.ARMED n) = true → t.is (F.TT_CTL.STEPPED n) = true)) hn rfl ?_ ?_ ?_
  · exact fun k _ hk t ht => (ttStop_is_ne hk rfl t).trans ht
  · exact fun t ht => ht ▸ ttStop_stops n t
  · intro k _ hk t ⟨ha, hs⟩
    rw [ttStop_is_ne hk rfl, ttStop_is_ne hk rfl]
    exact ⟨ha, hs⟩

/-! ### TIME_STEP -/

/-- The fields of a TIME_STEP descriptor are in range. -/
structure TimeStepForm (d : BitVec 512) : Prop where
  unit : dUnit d = 0
  addr : dAddr d = 0
  len : dLen d = 0
  bits : dscBits d 30 1 7 = 0
  byte : dsc d 31 1 = 0
  rest : dscZeroFrom d 34 = true

/-- The newel's time becomes set, and LOCKED where it was not set. -/
def tbSet (s : State) : State := (s.set1 F.TB0_STAT.SET).when (s.tbSt = tbUnset) (tbEnter tbLocked)

/-- The state in which a step that is taken completes. -/
def timeStepped (r : DescRun) (s : State) : State :=
  ((ttStepped (tbStep (dsc r.desc 20 8 <<< 16 ||| dsc r.desc 28 2) (tbSet s))).when (dscBits r.desc 30 0 1 == 1)
    (fun t => t.p F.TB0_STAT.EPOCH (s.g F.TB0_STAT.EPOCH + 1)))

section
variable {s : State} {r : DescRun} (hf : TimeStepForm r.desc)
include hf

theorem timeStep_formed : timeStep r s =
    if !s.newel then s.complete r.did .denied (timeRes 0 (s.g F.TB0_STAT.EPOCH) 1 0 0)
    else if dsc r.desc 32 2 != s.g F.TB0_STAT.EPOCH then s.complete r.did .stale (timeRes 0 (s.g F.TB0_STAT.EPOCH) 1 0 0)
    else if s.tbSt != tbUnset && !(dscBits r.desc 30 0 1 == 1) then s.complete r.did .denied (timeRes 0 (s.g F.TB0_STAT.EPOCH) 2 0 0)
    else if dscBits r.desc 30 0 1 == 1 && s.notQuiet != 0 then
      s.complete r.did .busy (timeRes 0 (s.g F.TB0_STAT.EPOCH) 1 s.notQuiet 0)
    else ((timeStepped r s).j 0x61 0xFF 0 2 (packB [(0, 8, dsc r.desc 20 8)])).complete r.did .ok
      (timeRes (s.tb0 >>> 16) ((timeStepped r s).g F.TB0_STAT.EPOCH) 0 0 0) := by
  obtain ⟨hu, ha, hl, h30, h31, hz⟩ := hf
  unfold timeStep
  refine if_neg ?_
  simp [hu, ha, hl, h30, h31, hz]

theorem timeStep_member (hn : s.newel = false) :
    timeStep r s = s.complete r.did .denied (timeRes 0 (s.g F.TB0_STAT.EPOCH) 1 0 0) := by
  rw [timeStep_formed hf, hn]; rfl

theorem timeStep_stale (hn : s.newel = true) (he : dsc r.desc 32 2 ≠ s.g F.TB0_STAT.EPOCH) :
    timeStep r s = s.complete r.did .stale (timeRes 0 (s.g F.TB0_STAT.EPOCH) 1 0 0) := by
  rw [timeStep_formed hf, hn, if_neg (by decide), if_pos (by simpa using he)]

theorem timeStep_unannounced (hn : s.newel = true) (he : dsc r.desc 32 2 = s.g F.TB0_STAT.EPOCH) (hre : dscBits r.desc 30 0 1 = 0)
    (hst : s.tbSt ≠ tbUnset) : timeStep r s = s.complete r.did .denied (timeRes 0 (s.g F.TB0_STAT.EPOCH) 2 0 0) := by
  rw [timeStep_formed hf, hn, if_neg (by decide), if_neg (by simp [he]), if_pos (by simp [hre, hst])]

theorem timeStep_busy (hn : s.newel = true) (he : dsc r.desc 32 2 = s.g F.TB0_STAT.EPOCH) (hre : dscBits r.desc 30 0 1 = 1)
    (hq : s.notQuiet ≠ 0) : timeStep r s = s.complete r.did .busy (timeRes 0 (s.g F.TB0_STAT.EPOCH) 1 s.notQuiet 0) := by
  rw [timeStep_formed hf, hn, if_neg (by decide), if_neg (by simp [he]), if_neg (by simp [hre]), if_pos (by simp [hre, hq])]

theorem timeStep_taken (hn : s.newel = true) (he : dsc r.desc 32 2 = s.g F.TB0_STAT.EPOCH)
    (hc : dscBits r.desc 30 0 1 = 0 ∧ s.tbSt = tbUnset ∨ dscBits r.desc 30 0 1 = 1 ∧ s.notQuiet = 0) : timeStep r s =
    ((timeStepped r s).j 0x61 0xFF 0 2 (packB [(0, 8, dsc r.desc 20 8)])).complete r.did .ok
      (timeRes (s.tb0 >>> 16) ((timeStepped r s).g F.TB0_STAT.EPOCH) 0 0 0) := by
  rw [timeStep_formed hf, hn, if_neg (by decide), if_neg (by simp [he])]
  obtain ⟨hre, hst⟩ | ⟨hre, hq⟩ := hc
  · rw [if_neg (by simp [hst]), if_neg (by simp [hre])]
  · rw [if_neg (by simp [hre]), if_neg (by simp [hq])]

end

theorem tbEnter_g (st : Nat) (s : State) (f : FRef) : (tbEnter st s).g f = (s.p F.TB0_STAT.STATE st).g f := rfl

theorem tbSet_queues (s : State) : (tbSet s).queues = s.queues := by
  unfold tbSet State.when; split <;> rfl
theorem tbSet_tb1 (s : State) : (tbSet s).tb1 = s.tb1 := by
  unfold tbSet State.when; split <;> rfl

theorem tbSet_off (s : State) : Off (· = R.TB0_STAT) s (tbSet s) := by
  unfold tbSet State.when
  have h1 : Off (· = R.TB0_STAT) s (s.set1 F.TB0_STAT.SET) := State.set1_off (P := fun a => a = R.TB0_STAT) (.refl s) rfl
  exact .ite (Off.base (State.p_off (P := fun a => a = R.TB0_STAT) h1 tbLocked (f := F.TB0_STAT.STATE) rfl)) h1

theorem tbSet_epoch (s : State) : (tbSet s).g F.TB0_STAT.EPOCH = s.g F.TB0_STAT.EPOCH := by
  have h1 : (s.set1 F.TB0_STAT.SET).g F.TB0_STAT.EPOCH = s.g F.TB0_STAT.EPOCH := by rw [State.set1_g, State.g_p_field _ _ rfl]
  unfold tbSet State.when
  split
  · rw [tbEnter_g, State.g_p_field _ _ rfl, h1]
  · exact h1

/-- A time that was not set becomes set and LOCKED. -/
theorem tbSet_unset {s : State} (hst : s.tbSt = tbUnset) : (tbSet s).is F.TB0_STAT.SET = true ∧ (tbSet s).g F.TB0_STAT.STATE = tbLocked := by
  have hs : tbSet s = tbEnter tbLocked (s.set1 F.TB0_STAT.SET) := by unfold tbSet; rw [decide_eq_true hst]; rfl
  rw [hs]
  constructor
  · rw [State.is, tbEnter_g, State.g_p_field _ _ rfl, State.set1_g, State.g_p_same _ _ _ (Nat.le_of_ble_eq_true rfl)]
    rfl
  · rw [tbEnter_g, State.g_p_same _ _ _ (Nat.le_of_ble_eq_true rfl)]
    rfl

section
variable (r : DescRun) (s : State)

/-- Before EPOCH is raised. -/
theorem timeStepped_unraised : Reports { tbSet s with tb0 := (dsc r.desc 20 8 <<< 16 ||| dsc r.desc 28 2) % 2 ^ 80, tb0rem := 0 }
    (ttStepped (tbStep (dsc r.desc 20 8 <<< 16 ||| dsc r.desc 28 2) (tbSet s))) :=
  (ttStepped_reports _).after (tbStep_reports ..)

theorem timeStepped_reports : Reports { tbSet s with tb0 := (dsc r.desc 20 8 <<< 16 ||| dsc r.desc 28 2) % 2 ^ 80, tb0rem := 0 }
    (timeStepped r s) :=
  (State.when_reports (fun _ => State.p_reports ..) ..).after (timeStepped_unraised r s)

theorem timeStepped_queues : (timeStepped r s).queues = s.queues := (timeStepped_reports r s).queues.trans (tbSet_queues s)
theorem timeStepped_tb1 : (timeStepped r s).tb1 = s.tb1 := (timeStepped_reports r s).tb1.trans (tbSet_tb1 s)
theorem timeStepped_tb0rem : (timeStepped r s).tb0rem = 0 := (timeStepped_reports r s).tb0rem

/-- 64 bits of whole nanoseconds and 16 of their fraction. -/
theorem timeStepped_tb0 : (timeStepped r s).tb0 = dsc r.desc 20 8 * 65536 + dsc r.desc 28 2 := by
  have h8 : dsc r.desc 20 8 < 2 ^ 64 := Nat.mod_lt _ (by decide)
  have h2 : dsc r.desc 28 2 < 2 ^ 16 := Nat.mod_lt _ (by decide)
  rw [(timeStepped_reports r s).tb0, ← Nat.shiftLeft_add_eq_or_of_lt h2, Nat.shiftLeft_eq]
  exact Nat.mod_eq_of_lt (by omega)

/-- The registers of TB0 after the step and its markers. -/
theorem tbStepped_g (v : Nat) {f : FRef} (hf : f.addr = R.TB0_STAT) (t : State) : (ttStepped (tbStep v t)).g f = t.g f := by
  rw [(ttStepped_off _).g f (by rw [hf]; unfold ttCtlReg R.TB0_STAT R.TT_CTL; omega),
    (tbStep_off v t).g f (by rw [hf]; exact not_markReg (by decide) (by decide))]

variable {r s}

theorem timeStepped_g_kept (hre : dscBits r.desc 30 0 1 = 0) {f : FRef} (hf : f.addr = R.TB0_STAT) : (timeStepped r s).g f = (tbSet s).g f := by
  unfold timeStepped
  rw [hre, show ((0 : Nat) == 1) = false from rfl, State.when_false, tbStepped_g _ hf]

theorem timeStepped_epoch_raised (hre : dscBits r.desc 30 0 1 = 1) :
    (timeStepped r s).g F.TB0_STAT.EPOCH = (s.g F.TB0_STAT.EPOCH + 1) % 2 ^ 16 := by
  unfold timeStepped
  rw [hre, show ((1 : Nat) == 1) = true from rfl, State.when_true, State.g_p_same _ _ _ (Nat.le_of_ble_eq_true rfl)]
  rfl

theorem timeStepped_outputs {n : Nat} (hn : n < 8) : (timeStepped r s).is (F.TT_CTL.ARMED n) = false ∧
    (s.is (F.TT_CTL.ARMED n) = true → (timeStepped r s).is (F.TT_CTL.STEPPED n) = true) := by
  have hne : R.TT_CTL n ≠ R.TB0_STAT := by unfold R.TT_CTL R.TB0_STAT; omega
  have hraise (f : FRef) (hf : f.addr = R.TT_CTL n) :
      (timeStepped r s).is f = (ttStepped (tbStep (dsc r.desc 20 8 <<< 16 ||| dsc r.desc 28 2) (tbSet s))).is f :=
    (State.when_off (P := (· = R.TB0_STAT)) (fun t => State.p_off (.refl t) _ rfl) (.refl _)).is f (by rw [hf]; exact hne)
  have hstep (v : Nat) : (tbStep v (tbSet s)).is (F.TT_CTL.ARMED n) = s.is (F.TT_CTL.ARMED n) := by
    rw [(tbStep_off v _).is _ (not_markReg (by simp [F.TT_CTL.ARMED, R.TT_CTL]; omega) (by simp [F.TT_CTL.ARMED, R.TT_CTL]; omega)),
      (tbSet_off s).is _ hne]
  rw [hraise _ rfl, hraise _ rfl, ← hstep]
  exact ttStepped_stops hn _

end

section
variable {s : State} {q : Nat} {r : DescRun}

/-- A step that is taken: what time and registers hold, and its completion. -/
theorem timeStep_takes (hx : Executes s q 23 false r) (hf : TimeStepForm r.desc) (hn : s.newel = true)
    (he : dsc r.desc 32 2 = s.g F.TB0_STAT.EPOCH)
    (hc : dscBits r.desc 30 0 1 = 0 ∧ s.tbSt = tbUnset ∨ dscBits r.desc 30 0 1 = 1 ∧ s.notQuiet = 0) :
    ∃ t, exec (.timeStep q) s = .next t ∧ t.tb0 = dsc r.desc 20 8 * 65536 + dsc r.desc 28 2 ∧ t.tb0rem = 0 ∧ t.tb1 = s.tb1 ∧
      (∀ f : FRef, ¬ jnlReg f.addr → t.g f = (timeStepped { r with acted := true } (s.setActed q r.did)).g f) ∧
      Completed t q r .ok (timeRes (s.tb0 >>> 16) (t.g F.TB0_STAT.EPOCH) 0 0 0) := by
  have hj (u : State) (d : Nat) : Reports u (u.j 0x61 0xFF 0 2 d) := State.j_reports ..
  have hoff (u : State) (d : Nat) : Off jnlReg u (u.j 0x61 0xFF 0 2 d) := State.j_off (.refl u) _ _ _ _ _ fun _ => id
  have hw : exec (.timeStep q) s = .next _ := congrArg Host.Outcome.next
    ((State.withDesc_executes hx timeStep).trans (timeStep_taken (s := s.setActed q r.did) (r := { r with acted := true }) hf hn he hc))
  have hg (f : FRef) (hf : ¬ jnlReg f.addr) := (State.complete_g _ r.did .ok
    (timeRes (s.tb0 >>> 16) ((timeStepped { r with acted := true } (s.setActed q r.did)).g F.TB0_STAT.EPOCH) 0 0 0) f).trans
    ((hoff (timeStepped { r with acted := true } (s.setActed q r.did)) (packB [(0, 8, dsc r.desc 20 8)])).g f hf)
  refine ⟨_, hw, ?_, ?_, ?_, hg, ?_⟩
  · exact (State.complete_tb0 ..).trans ((hj ..).tb0.trans (timeStepped_tb0 ..))
  · exact (State.complete_tb0rem ..).trans ((hj ..).tb0rem.trans (timeStepped_tb0rem ..))
  · exact (State.complete_tb1 ..).trans ((hj ..).tb1.trans (timeStepped_tb1 ..))
  · refine (congrArg (fun e => Completed _ q r .ok (timeRes (s.tb0 >>> 16) e 0 0 0)) (hg F.TB0_STAT.EPOCH not_jnlReg_tb)).mpr ?_
    exact State.complete_completed hx ((hj ..).queues.trans (timeStepped_queues ..)) ..

/-- The first setting of the newel's time. -/
theorem timeStep_sets (hx : Executes s q 23 false r) (hf : TimeStepForm r.desc) (hn : s.newel = true)
    (he : dsc r.desc 32 2 = s.g F.TB0_STAT.EPOCH) (hre : dscBits r.desc 30 0 1 = 0) (hst : s.tbSt = tbUnset) :
    ∃ t, exec (.timeStep q) s = .next t ∧ t.tb0 = dsc r.desc 20 8 * 65536 + dsc r.desc 28 2 ∧ t.is F.TB0_STAT.SET = true ∧
      t.tbSt = tbLocked ∧ t.tb0rem = 0 ∧ t.tb1 = s.tb1 ∧ t.g F.TB0_STAT.EPOCH = s.g F.TB0_STAT.EPOCH ∧
      Completed t q r .ok (timeRes (s.tb0 >>> 16) (s.g F.TB0_STAT.EPOCH) 0 0 0) := by
  obtain ⟨t, ht, h0, hrem, h1, hg, hd⟩ := timeStep_takes hx hf hn he (.inl ⟨hre, hst⟩)
  have hk (f : FRef) (ha : f.addr = R.TB0_STAT) : t.g f = (tbSet (s.setActed q r.did)).g f :=
    (hg f (by rw [ha]; exact not_jnlReg_tb)).trans (timeStepped_g_kept (r := { r with acted := true }) hre ha)
  have hep : t.g F.TB0_STAT.EPOCH = s.g F.TB0_STAT.EPOCH := (hk _ rfl).trans (tbSet_epoch _)
  obtain ⟨hset, hlock⟩ := tbSet_unset (s := s.setActed q r.did) hst
  refine ⟨t, ht, h0, ?_, (hk _ rfl).trans hlock, hrem, h1, hep, hep ▸ hd⟩
  rw [State.is, hk _ rfl]
  exact hset

/-- A step announced to the peers. -/
theorem timeStep_raises (hx : Executes s q 23 false r) (hf : TimeStepForm r.desc) (hn : s.newel = true)
    (he : dsc r.desc 32 2 = s.g F.TB0_STAT.EPOCH) (hre : dscBits r.desc 30 0 1 = 1) (hq : s.notQuiet = 0) :
    ∃ t, exec (.timeStep q) s = .next t ∧ t.tb0 = dsc r.desc 20 8 * 65536 + dsc r.desc 28 2 ∧
      t.g F.TB0_STAT.EPOCH = (s.g F.TB0_STAT.EPOCH + 1) % 2 ^ 16 ∧ ∀ n ∈ List.range 8, t.is (F.TT_CTL.ARMED n) = false ∧
        (s.is (F.TT_CTL.ARMED n) = true → t.is (F.TT_CTL.STEPPED n) = true) ∧
        Completed t q r .ok (timeRes (s.tb0 >>> 16) (t.g F.TB0_STAT.EPOCH) 0 0 0) := by
  obtain ⟨t, ht, h0, -, -, hg, hd⟩ := timeStep_takes hx hf hn he (.inr ⟨hre, hq⟩)
  refine ⟨t, ht, h0, (hg _ not_jnlReg_tb).trans (timeStepped_epoch_raised (r := { r with acted := true }) hre), fun n hn => ?_⟩
  have hn := List.mem_range.mp hn
  have hk (f : FRef) (ha : f.addr = R.TT_CTL n) : t.is f = (timeStepped { r with acted := true } (s.setActed q r.did)).is f := by
    rw [State.is, hg f (by rw [ha]; simp only [jnlReg, R.JNL_STAT, R.JNL_SEQ, R.JNL_DROP, R.RR_STAT, R.TT_CTL]; omega)]
    rfl
  obtain ⟨harm, hstep⟩ := timeStepped_outputs (r := { r with acted := true }) (s := s.setActed q r.did) hn
  exact ⟨(hk _ rfl).trans harm, fun ha => (hk _ rfl).trans (hstep ha), hd⟩

end

/-! ### TIME_RATE -/

section
variable {s : State} {q : Nat} {r : DescRun}

theorem timeRate_formed {r : DescRun} {s : State} (hu : dUnit r.desc = 0) (ha : dAddr r.desc = 0) (hl : dLen r.desc = 0)
    (hz : dscZeroFrom r.desc 24 = true) : timeRate r s =
    if !s.newel then s.complete r.did .denied (timeRes 0 (s.g F.TB0_STAT.EPOCH) 1 0 0)
    else if 2147483 < (signed 32 (dsc r.desc 20 4)).natAbs then s.complete r.did .badlen (timeRes 0 (s.g F.TB0_STAT.EPOCH) 1 0 0)
    else ((s.p F.TB0_RATE.RATE (dsc r.desc 20 4)).j 0x61 0xFF 0 3 (packB [(0, 8, unsigned 64 (signed 32 (dsc r.desc 20 4)))])).complete
      r.did .ok (timeRes (s.tb0 >>> 16) (s.g F.TB0_STAT.EPOCH) 0 0 (s.g F.TB0_RATE.RATE)) := by
  unfold timeRate
  refine if_neg ?_
  simp [hu, ha, hl, hz]

variable (hx : Executes s q 24 false r) (hu : dUnit r.desc = 0) (ha : dAddr r.desc = 0) (hl : dLen r.desc = 0)
  (hz : dscZeroFrom r.desc 24 = true)
include hx hu ha hl hz

theorem timeRate_stores (hn : s.newel = true) (hr : (signed 32 (dsc r.desc 20 4)).natAbs ≤ 2147483) :
    ∃ t, exec (.timeRate q) s = .next t ∧ t.g F.TB0_RATE.RATE = dsc r.desc 20 4 ∧ t.tb0 = s.tb0 ∧
      Completed t q r .ok (timeRes (s.tb0 >>> 16) (s.g F.TB0_STAT.EPOCH) 0 0 (s.g F.TB0_RATE.RATE)) := by
  have hj (u : State) (d : Nat) : Reports u (u.j 0x61 0xFF 0 3 d) := State.j_reports ..
  have hoff (u : State) (d : Nat) : Off jnlReg u (u.j 0x61 0xFF 0 3 d) := State.j_off (.refl u) _ _ _ _ _ fun _ => id
  have he := (timeRate_formed (r := { r with acted := true }) (s := s.setActed q r.did) hu ha hl hz).trans
    ((if_neg (by rw [show (s.setActed q r.did).newel = true from hn]; decide)).trans (if_neg (Nat.not_lt.mpr hr)))
  refine ⟨_, congrArg Host.Outcome.next ((State.withDesc_executes hx timeRate).trans he), ?_, ?_, ?_⟩
  · rw [State.complete_g, (hoff ..).g _ (not_jnlReg_time (by decide) (by decide)), State.g_p_same _ _ _ (Nat.le_of_ble_eq_true rfl)]
    exact Nat.mod_mod _ _
  · exact (State.complete_tb0 ..).trans (hj ..).tb0
  · exact State.complete_completed hx ((hj ..).queues.trans (State.p_reports ..).queues) ..

theorem timeRate_tooFast (hn : s.newel = true) (hr : 2147483 < (signed 32 (dsc r.desc 20 4)).natAbs) :
    ∃ t, exec (.timeRate q) s = .next t ∧ t.tb0 = s.tb0 ∧ t.regs = s.regs ∧
      Completed t q r .badlen (timeRes 0 (s.g F.TB0_STAT.EPOCH) 1 0 0) :=
  completes_only hx rfl <| (timeRate_formed hu ha hl hz).trans <|
    (if_neg (by rw [show (s.setActed q r.did).newel = true from hn]; decide)).trans (if_pos hr)

theorem timeRate_member (hn : s.newel = false) : ∃ t, exec (.timeRate q) s = .next t ∧ t.tb0 = s.tb0 ∧ t.regs = s.regs ∧
    Completed t q r .denied (timeRes 0 (s.g F.TB0_STAT.EPOCH) 1 0 0) :=
  completes_only hx rfl <| (timeRate_formed hu ha hl hz).trans (if_pos (by rw [show (s.setActed q r.did).newel = false from hn]; rfl))

end

end Sys2Proof.Machine
end

section
/-! PROOF. The time-trigger outputs (R445). -/
namespace Sys2Proof.Machine
-- One declaration after the other: elaborated side by side, they exceed the check's memory.
set_option Elab.async false

section
variable {s t : State}
theorem Reports.tts (h : Reports s t) : t.tts = s.tts := by obtain ⟨_, _, _, _, _, _, _, _, rfl⟩ := h; rfl
end

/-! ### TT_CTL written -/

@[simp] theorem State.tt_setTt (s : State) (n : Nat) (x : TtX) : (s.setTt n x).tt n = x := tabGet_set_same _ _ _ _
@[simp] theorem State.setTt_is (s : State) (n : Nat) (x : TtX) (f : FRef) : (s.setTt n x).is f = s.is f := rfl

/-- The flags that a write clears. -/
def ttFlags (n : Nat) (v : Word) (s : State) : State :=
  ((s.when ((F.TT_CTL.MISSED n).is v) (fun u => u.clr (F.TT_CTL.MISSED n))).when ((F.TT_CTL.STEPPED n).is v)
    (fun u => u.clr (F.TT_CTL.STEPPED n))).when ((F.TT_CTL.CFG_BUSY n).is v) (fun u => u.clr (F.TT_CTL.CFG_BUSY n))

/-- The flags cleared and the mode taken. -/
def ttMode (n : Nat) (v : Word) (s : State) : State := (ttFlags n v s).pb (F.TT_CTL.MODE n) ((F.TT_CTL.MODE n).is v)

/-- The target has passed. -/
def State.ttPassed (s : State) (n : Nat) : Bool := decide (s.ttTarget n * 65536 < s.tb0)

/-- The first instant of an output that is armed now. -/
def State.ttNext (s : State) (n : Nat) : Nat :=
  if s.ttPassed n then ttLater (s.ttTarget n) (s.g (F.TT_PERIOD.PERIOD n)) ((s.tb0 + 65535) / 65536) else s.ttTarget n

/-- The mode taken, and MISSED where the target has passed. -/
def ttTaken (n : Nat) (v : Word) (s : State) : State := (ttMode n v s).when (s.ttPassed n) (fun u => u.set1 (F.TT_CTL.MISSED n))

/-- The output armed, with its next instant. -/
def ttArmed (n next : Nat) (s : State) : State := (s.set1 (F.TT_CTL.ARMED n)).setTt n { s.tt n with next := next }

theorem ttCtlWrite_eq (n : Nat) (v : Word) (s : State) : ttCtlWrite n v s =
    if s.is (F.TT_CTL.ARMED n) then
      if (F.TT_CTL.DISARM n).is v then (ttFlags n v s).clr (F.TT_CTL.ARMED n) else s.set1 (F.TT_CTL.CFG_BUSY n)
    else if (F.TT_CTL.ARM n).is v && !(F.TT_CTL.DISARM n).is v then
      if (F.TT_CTL.MODE n).is v && s.g (F.TT_PERIOD.PERIOD n) ≤ s.g (F.TT_WIDTH.WIDTH n) then s
      else if s.ttPassed n && !(F.TT_CTL.MODE n).is v then ttTaken n v s
      else ttArmed n (s.ttNext n) (ttTaken n v s)
    else ttMode n v s := rfl

section
variable (n : Nat) (v : Word) (s : State)

theorem State.when_clr_is (c : Bool) {f k : FRef} (h : (Nat.ble (f.lo + f.len) k.lo || Nat.ble (k.lo + k.len) f.lo) = true) :
    (s.when c (fun u => u.clr f)).is k = s.is k := by
  cases c
  · rfl
  · exact State.is_p_field _ _ h

theorem ttFlags_armed : (ttFlags n v s).is (F.TT_CTL.ARMED n) = s.is (F.TT_CTL.ARMED n) := by
  unfold ttFlags
  rw [State.when_clr_is _ _ rfl, State.when_clr_is _ _ rfl, State.when_clr_is _ _ rfl]

theorem ttMode_armed : (ttMode n v s).is (F.TT_CTL.ARMED n) = s.is (F.TT_CTL.ARMED n) := by
  unfold ttMode
  rw [State.pb_def, State.is_p_field _ _ rfl, ttFlags_armed]

theorem ttMode_mode : (ttMode n v s).is (F.TT_CTL.MODE n) = (F.TT_CTL.MODE n).is v := by
  unfold ttMode
  rw [State.pb_def, State.is_p_same _ _ _ rfl]
  cases (F.TT_CTL.MODE n).is v <;> rfl

theorem ttTaken_armed : (ttTaken n v s).is (F.TT_CTL.ARMED n) = s.is (F.TT_CTL.ARMED n) := by
  unfold ttTaken
  cases s.ttPassed n
  · exact ttMode_armed n v s
  · rw [State.when_true, State.set1_is, State.is_p_field _ _ rfl, ttMode_armed]

theorem ttTaken_mode : (ttTaken n v s).is (F.TT_CTL.MODE n) = (F.TT_CTL.MODE n).is v := by
  unfold ttTaken
  cases s.ttPassed n
  · exact ttMode_mode n v s
  · rw [State.when_true, State.set1_is, State.is_p_field _ _ rfl, ttMode_mode]

theorem ttTaken_missed {s : State} (hp : s.ttPassed n = true) : (ttTaken n v s).is (F.TT_CTL.MISSED n) = true := by
  unfold ttTaken
  rw [hp, State.when_true, State.set1_is, State.is_p_same _ _ _ rfl]
  rfl

theorem ttFlags_reports : Reports s (ttFlags n v s) :=
  (State.when_reports (fun _ => State.p_reports ..) ..).after <| (State.when_reports (fun _ => State.p_reports ..) ..).after <|
    State.when_reports (fun _ => State.p_reports ..) ..
theorem ttTaken_reports : Reports s (ttTaken n v s) :=
  (State.when_reports (fun _ => State.set1_reports ..) ..).after <| (State.p_reports ..).after (ttFlags_reports n v s)

theorem ttArmed_armed (next : Nat) : (ttArmed n next s).is (F.TT_CTL.ARMED n) = true := by
  unfold ttArmed
  rw [State.setTt_is, State.set1_is, State.is_p_same _ _ _ rfl]
  rfl

theorem ttArmed_next (next : Nat) : ((ttArmed n next s).tt n).next = next := by rw [ttArmed, State.tt_setTt]

theorem ttArmed_is (next : Nat) {f : FRef} (hf : (Nat.ble 29 f.lo || Nat.ble (f.lo + f.len) 28) = true) :
    (ttArmed n next s).is f = s.is f := by
  unfold ttArmed
  rw [State.setTt_is, State.set1_is]
  exact State.is_p_field _ _ hf

end

theorem State.ttPassed_of_lt {s : State} {n : Nat} (h : s.ttTarget n * 65536 < s.tb0) : s.ttPassed n = true := decide_eq_true h
theorem State.ttPassed_of_le {s : State} {n : Nat} (h : s.tb0 ≤ s.ttTarget n * 65536) : s.ttPassed n = false :=
  decide_eq_false (Nat.not_lt.mpr h)

/-! ### TT_ARM and TT_DISARM -/

section
variable {s : State} {n : Nat} {v : Word} (ha : (F.TT_CTL.ARM n).is v = true) (hd : (F.TT_CTL.DISARM n).is v = false)
  (hs : s.is (F.TT_CTL.ARMED n) = false)
include ha hd hs

theorem ttCtlWrite_idle : ttCtlWrite n v s =
    if (F.TT_CTL.MODE n).is v && s.g (F.TT_PERIOD.PERIOD n) ≤ s.g (F.TT_WIDTH.WIDTH n) then s
    else if s.ttPassed n && !(F.TT_CTL.MODE n).is v then ttTaken n v s
    else ttArmed n (s.ttNext n) (ttTaken n v s) := by
  rw [ttCtlWrite_eq, if_neg (by rw [hs]; decide), if_pos (by rw [ha, hd]; rfl)]

theorem ttCtlWrite_idle_ok (hp : (F.TT_CTL.MODE n).is v = false ∨ s.g (F.TT_WIDTH.WIDTH n) < s.g (F.TT_PERIOD.PERIOD n)) : ttCtlWrite n v s =
    if s.ttPassed n && !(F.TT_CTL.MODE n).is v then ttTaken n v s
    else ttArmed n (s.ttNext n) (ttTaken n v s) := by
  rw [ttCtlWrite_idle ha hd hs]
  refine if_neg ?_
  simp only [Bool.and_eq_true, decide_eq_true_eq, not_and, Nat.not_le]
  exact fun hm => hp.resolve_left (by simp [hm])

end

section
variable {s : State} {n : Nat} {v : Word} (hr : Ready s) (hn : n < 8)
include hr hn

theorem exec_ttArm (ha : (F.TT_CTL.ARM n).is v = true) : exec (.ttArm n v) s = .next (s.byHost (ttCtlWrite n v)) := by
  simp only [exec, execTtArm, hn, ha, decide_true, Bool.and_self, if_true, State.host_run hr.1 hr.2]

theorem exec_ttDisarm (hd : (F.TT_CTL.DISARM n).is v = true) : exec (.ttDisarm n v) s = .next (s.byHost (ttCtlWrite n v)) := by
  simp only [exec, execTtDisarm, hn, hd, decide_true, Bool.and_self, if_true, State.host_run hr.1 hr.2]

theorem ttDisarm_stops (hd : (F.TT_CTL.DISARM n).is v = true) (hs : s.is (F.TT_CTL.ARMED n) = true) :
    ∃ t, exec (.ttDisarm n v) s = .next t ∧ t.is (F.TT_CTL.ARMED n) = false ∧ t.tts = s.tts := by
  have hw : ttCtlWrite n v s = (ttFlags n v s).clr (F.TT_CTL.ARMED n) := by rw [ttCtlWrite_eq, if_pos hs, if_pos hd]
  refine ⟨_, exec_ttDisarm hr hn hd, ?_, ?_⟩
  · rw [State.byHost_is, hw, State.clr_def, State.is_p_same _ _ _ rfl]
    rfl
  · exact (congrArg State.tts hw).trans ((State.p_reports ..).after (ttFlags_reports n v s)).tts

variable (ha : (F.TT_CTL.ARM n).is v = true) (hd : (F.TT_CTL.DISARM n).is v = false)
include ha hd

theorem ttArm_running (hs : s.is (F.TT_CTL.ARMED n) = true) : exec (.ttArm n v) s = .next (s.p (F.TT_CTL.CFG_BUSY n) 1) := by
  rw [exec_ttArm hr hn ha, State.byHost, ttCtlWrite_eq, if_pos hs, if_neg (by rw [hd]; decide)]
  rfl

variable (hs : s.is (F.TT_CTL.ARMED n) = false)
include hs

theorem ttArm_short (hm : (F.TT_CTL.MODE n).is v = true) (hp : s.g (F.TT_PERIOD.PERIOD n) ≤ s.g (F.TT_WIDTH.WIDTH n)) :
    exec (.ttArm n v) s = .next s := by
  rw [exec_ttArm hr hn ha, State.byHost, ttCtlWrite_idle ha hd hs, if_pos (by rw [hm, decide_eq_true hp]; rfl)]

variable (hp : (F.TT_CTL.MODE n).is v = false ∨ s.g (F.TT_WIDTH.WIDTH n) < s.g (F.TT_PERIOD.PERIOD n))
include hp

theorem ttArm_ahead (hb : s.tb0 ≤ s.ttTarget n * 65536) : ∃ t, exec (.ttArm n v) s = .next t ∧ t.is (F.TT_CTL.ARMED n) = true ∧
    (t.tt n).next = s.ttTarget n ∧ t.is (F.TT_CTL.MODE n) = (F.TT_CTL.MODE n).is v := by
  have hw : ttCtlWrite n v s = ttArmed n (s.ttTarget n) (ttTaken n v s) := by
    rw [ttCtlWrite_idle_ok ha hd hs hp, State.ttNext, State.ttPassed_of_le hb, Bool.false_and, if_neg (by decide), if_neg (by decide)]
  refine ⟨_, exec_ttArm hr hn ha, ?_, ?_, ?_⟩
  · rw [State.byHost_is, hw, ttArmed_armed]
  · exact (congrArg (fun t => (State.tt t n).next) hw).trans (ttArmed_next ..)
  · rw [State.byHost_is, hw, ttArmed_is _ _ _ rfl, ttTaken_mode]

theorem ttArm_oneShot_missed (hm : (F.TT_CTL.MODE n).is v = false) (hb : s.ttTarget n * 65536 < s.tb0) :
    ∃ t, exec (.ttArm n v) s = .next t ∧ t.is (F.TT_CTL.ARMED n) = false ∧ t.is (F.TT_CTL.MISSED n) = true ∧ t.tts = s.tts := by
  have hw : ttCtlWrite n v s = ttTaken n v s := by
    rw [ttCtlWrite_idle_ok ha hd hs hp, State.ttPassed_of_lt hb, hm, if_pos (by decide)]
  refine ⟨_, exec_ttArm hr hn ha, ?_, ?_, ?_⟩
  · rw [State.byHost_is, hw, ttTaken_armed, hs]
  · rw [State.byHost_is, hw, ttTaken_missed _ _ (State.ttPassed_of_lt hb)]
  · exact (congrArg State.tts hw).trans (ttTaken_reports n v s).tts

theorem ttArm_periodic_missed (hm : (F.TT_CTL.MODE n).is v = true) (hb : s.ttTarget n * 65536 < s.tb0) :
    ∃ t, exec (.ttArm n v) s = .next t ∧ t.is (F.TT_CTL.ARMED n) = true ∧ t.is (F.TT_CTL.MISSED n) = true ∧
      (t.tt n).next = ttLater (s.ttTarget n) (s.g (F.TT_PERIOD.PERIOD n)) ((s.tb0 + 65535) / 65536) := by
  have hw : ttCtlWrite n v s =
      ttArmed n (ttLater (s.ttTarget n) (s.g (F.TT_PERIOD.PERIOD n)) ((s.tb0 + 65535) / 65536)) (ttTaken n v s) := by
    rw [ttCtlWrite_idle_ok ha hd hs hp, State.ttNext, State.ttPassed_of_lt hb, hm, if_neg (by decide), if_pos rfl]
  refine ⟨_, exec_ttArm hr hn ha, ?_, ?_, ?_⟩
  · rw [State.byHost_is, hw, ttArmed_armed]
  · rw [State.byHost_is, hw, ttArmed_is _ _ _ rfl, ttTaken_missed _ _ (State.ttPassed_of_lt hb)]
  · exact (congrArg (fun t => (State.tt t n).next) hw).trans (ttArmed_next ..)

end

/-! ### Pulses -/

section
variable {s : State} {n : Nat}

/-- The pin risen, with the instant of its fall. -/
def ttRisen (n : Nat) (s : State) : TtX := { s.tt n with pin := true, fall := s.tb1 + s.g (F.TT_WIDTH.WIDTH n) * 65536 }

theorem exec_ttFire (hn : n < 8) (ha : s.is (F.TT_CTL.ARMED n) = true) (hd : s.ttDue n = true) : exec (.ttFire n) s = .next
    (if s.is (F.TT_CTL.MODE n) then
      (s.setTt n { ttRisen n s with next := (s.tt n).next + s.g (F.TT_PERIOD.PERIOD n) }).emit (224 + n)
    else ((s.setTt n (ttRisen n s)).emit (224 + n)).clr (F.TT_CTL.ARMED n)) :=
  congrArg Host.Outcome.next (if_pos (by rw [ha, hd, decide_eq_true hn]; rfl))

theorem State.emit_tt (s : State) (i n : Nat) : (s.emit i).tt n = s.tt n := by unfold State.tt; rw [(s.emit_reports i).tts]

theorem ttFire_raises (hn : n < 8) (ha : s.is (F.TT_CTL.ARMED n) = true) (hd : s.ttDue n = true) :
    ∃ t, exec (.ttFire n) s = .next t ∧ (t.tt n).pin = true ∧ (t.tt n).fall = s.tb1 + s.g (F.TT_WIDTH.WIDTH n) * 65536 ∧
      t.is (F.TT_CTL.ARMED n) = s.is (F.TT_CTL.MODE n) ∧
      (t.tt n).next = (s.tt n).next + (if s.is (F.TT_CTL.MODE n) = true then s.g (F.TT_PERIOD.PERIOD n) else 0) := by
  refine ⟨_, exec_ttFire hn ha hd, ?_⟩
  cases hm : s.is (F.TT_CTL.MODE n)
  case true =>
    rw [if_pos rfl, State.emit_tt, State.tt_setTt, State.emit_is, State.setTt_is]
    exact ⟨rfl, rfl, ha, rfl⟩
  case false =>
    have ht : (((s.setTt n (ttRisen n s)).emit (224 + n)).clr (F.TT_CTL.ARMED n)).tt n = ttRisen n s :=
      (State.emit_tt ..).trans (State.tt_setTt ..)
    rw [if_neg (by decide), ht, State.clr_def, State.is_p_same _ _ _ rfl]
    exact ⟨rfl, rfl, rfl, rfl⟩

theorem ttFire_early (hd : s.ttDue n = false) : exec (.ttFire n) s = .next s :=
  congrArg Host.Outcome.next (if_neg (by simp [hd]))

theorem ttPulseEnd_falls (hn : n < 8) (hp : (s.tt n).pin = true) (hf : (s.tt n).fall ≤ s.tb1) :
    exec (.ttPulseEnd n) s = .next (s.setTt n { s.tt n with pin := false }) :=
  congrArg Host.Outcome.next (if_pos (by rw [hp, decide_eq_true hn, decide_eq_true hf]; rfl))

theorem ttPulseEnd_early (hf : s.tb1 < (s.tt n).fall) : exec (.ttPulseEnd n) s = .next s :=
  congrArg Host.Outcome.next (if_neg (by simp [hf]))

end

end Sys2Proof.Machine
end

section
/-! PROOF. The presence of the reference clock (R57, R60, R340, R554), and O37. -/
namespace Sys2Proof.Machine
-- One declaration after the other: elaborated side by side, they exceed the check's memory.
set_option Elab.async false

/-! ### A loss of the reference clock -/

/-- A loss changes the axis apart from what reports change. -/
theorem axisLose_leaves (h cause : Nat) (s : State) : ∃ ax, Reports { s with axis := ax } (axisLose h cause s) := by
  by_cases hst : s.axSt h = axLocked
  · rw [axisLose_locked hst]
    obtain ⟨_, _, _, _, _, _, _, _, he⟩ := axisHeld_reports h cause s
    exact ⟨_, (State.jAxis_reports ..).after <| (State.raise_reports ..).after <| (State.emit_reports ..).after
      ⟨_, _, _, _, _, _, _, _, by rw [he]; rfl⟩⟩
  · refine ⟨s.axis, ?_⟩
    unfold axisLose
    exact .ite (.refl s) (by
      rw [if_neg hst]
      exact (State.p_reports ..).after (State.when_reports (fun t => State.setBit_reports t ..) ..))

/-- The loss as one hall takes it: only the REF axis loses its source. -/
def refLose (h : Nat) (s : State) : State := s.when (s.g (F.AXIS_CTL.SRC h) = 0) (axisLose h 4)

theorem refLose_off (h : Nat) (s : State) : Off (axisLossReg h) s (refLose h s) := State.when_off (axisLose_off h 4) (.refl s)

/-- The registers of the losses of all halls. -/
def refLossReg (a : Nat) : Prop := ∃ h < 32, axisLossReg h a

/-- Whether samples and gates are marked, and until when. -/
def State.marking (s : State) : Bool × Option Nat := (s.noref, s.norefEnd)

theorem Reports.marking {s t : State} (h : Reports s t) : t.marking = s.marking := by obtain ⟨_, _, _, _, _, _, _, _, rfl⟩ := h; rfl

theorem refLose_marking (h : Nat) (s : State) : (refLose h s).marking = s.marking := by
  unfold refLose
  cases decide (s.g (F.AXIS_CTL.SRC h) = 0)
  · rfl
  · obtain ⟨_, hr⟩ := axisLose_leaves h 4 s
    exact hr.marking

/-- The registers of another hall's axis. -/
theorem refLose_g_ne {h k : Nat} (hh : h < 32) (hne : k ≠ h) {f : FRef} (hf : f.addr = R.AXIS_STAT h ∨ f.addr = R.AXIS_CTL h)
    (s : State) : (refLose k s).g f = s.g f := by
  refine (refLose_off k s).g f ?_
  obtain hf | hf := hf <;> rw [hf] <;>
    simp only [axisLossReg, jnlReg, R.AXIN_STAT, R.AXIS_STAT, R.AXIS_CTL, R.JNL_STAT, R.JNL_SEQ, R.JNL_DROP, R.RR_STAT] <;> omega

/-- A LOCKED axis on the REF source. -/
def State.refLocked (s : State) (h : Nat) : Prop := s.g (F.AXIS_CTL.SRC h) = 0 ∧ s.axSt h = axLocked

theorem refLose_holds {h : Nat} (hh : h < 32) {s : State} (hl : s.refLocked h) : (refLose h s).axSt h = axHoldover := by
  obtain ⟨hsrc, hst⟩ := hl
  rw [refLose, decide_eq_true hsrc, State.when_true, State.axSt, axisLose_g hst (not_jnlReg_axisStat hh)]
  exact (axisHeld_shows h 4 s).1

/-- Every hall loses the reference. -/
def refLoseAll (s : State) : State := s.each s.part.halls refLose

theorem refLoseAll_off (s : State) : Off refLossReg s (refLoseAll s) :=
  State.each_inv (I := Off refLossReg s) (.refl s) fun h hh t ht =>
    ((refLose_off h t).mono fun _ ha => ⟨h, lt_of_lt_of_le hh (Part_halls_le _), ha⟩).after ht

theorem refLoseAll_marking (s : State) : (refLoseAll s).marking = s.marking :=
  State.each_inv (I := fun t => t.marking = s.marking) rfl fun h _ t ht => (refLose_marking h t).trans ht

theorem refLoseAll_holds {h : Nat} {s : State} (hh : h < s.part.halls) (hl : s.refLocked h) : (refLoseAll s).axSt h = axHoldover := by
  have h32 : h < 32 := lt_of_lt_of_le hh (Part_halls_le _)
  refine State.each_reaches (I := fun t => t.refLocked h) (P := fun t => t.axSt h = axHoldover) hh hl ?_ (fun t => refLose_holds h32) ?_
  · rintro k - hne t ⟨hsrc, hst⟩
    exact ⟨(refLose_g_ne h32 hne (.inr rfl) t).trans hsrc, (refLose_g_ne h32 hne (.inl rfl) t).trans hst⟩
  · exact fun k _ hne t ht => (refLose_g_ne h32 hne (.inl rfl) t).trans ht

/-! ### JOINED cleared -/

/-- The lines that the halls drive are released. -/
def linesReleased (s : State) : State := s.each s.part.halls (fun h t => t.modHl h (fun x => { x with driveLine := none }))

theorem linesReleased_leaves (s : State) : ∃ hs, linesReleased s = { s with halls := hs } :=
  State.each_inv (I := fun t => ∃ hs, t = { s with halls := hs }) ⟨_, rfl⟩ fun _ _ _ ht => by
    obtain ⟨_, rfl⟩ := ht
    exact ⟨_, rfl⟩

theorem unjoin_eq (b : Bool) (s : State) : unjoin b s =
    if !s.is F.GAL_STAT.JOINED then s else (linesReleased (s.clr F.GAL_STAT.JOINED)).when b (galFault 377) := rfl

theorem galFault_leaves (src : Nat) (s : State) : ∃ flt vecs, galFault src s = { s with flt := flt, vecs := vecs } := by
  unfold galFault galVec State.raise
  split <;> exact ⟨_, _, rfl⟩

/-- The registers and marks of an end of the array link, where it was joined. -/
theorem unjoined_leaves (b : Bool) (s : State) :
    ∃ hs flt vecs, (linesReleased s).when b (galFault 377) = { s with halls := hs, flt := flt, vecs := vecs } := by
  obtain ⟨hs, hl⟩ := linesReleased_leaves s
  rw [hl]
  cases b
  · exact ⟨_, _, _, rfl⟩
  · obtain ⟨_, _, hf⟩ := galFault_leaves 377 { s with halls := hs }
    exact ⟨_, _, _, hf⟩

theorem unjoin_off (b : Bool) (s : State) : Off (· = R.GAL_STAT) s (unjoin b s) := by
  rw [unjoin_eq]
  refine .ite (.refl s) ?_
  obtain ⟨_, _, _, h⟩ := unjoined_leaves b (s.clr F.GAL_STAT.JOINED)
  rw [h]
  exact Off.base (State.clr_off (P := fun a => a = R.GAL_STAT) (.refl s) rfl)

theorem unjoin_marking (b : Bool) (s : State) : (unjoin b s).marking = s.marking := by
  rw [unjoin_eq]
  split
  · rfl
  · obtain ⟨_, _, _, h⟩ := unjoined_leaves b (s.clr F.GAL_STAT.JOINED)
    rw [h]
    rfl

theorem unjoin_joined (b : Bool) (s : State) : (unjoin b s).is F.GAL_STAT.JOINED = false := by
  rw [unjoin_eq]
  cases hj : s.is F.GAL_STAT.JOINED
  · exact hj
  · obtain ⟨_, _, _, h⟩ := unjoined_leaves b (s.clr F.GAL_STAT.JOINED)
    rw [if_neg (by decide), h]
    change (s.p F.GAL_STAT.JOINED 0).is F.GAL_STAT.JOINED = false
    rw [State.is_p_same _ _ _ rfl]
    rfl

/-! ### The reference clock -/

/-- What the presence detector shows of a loss. -/
def refGone (s : State) : State :=
  (((s.clr F.REF_STAT.REF_PRESENT).clr F.REF_STAT.REF_LOCK).set1 F.REF_STAT.REF_LOST).set1 F.TB0_STAT.NOREF

theorem refclkLoss_eq (s : State) : refclkLoss s = (unjoin true (refLoseAll (markNoref (refGone s)))).emit 234 := rfl

theorem refGone_shows (s : State) : (refGone s).is F.REF_STAT.REF_PRESENT = false ∧ (refGone s).is F.REF_STAT.REF_LOCK = false ∧
    (refGone s).is F.REF_STAT.REF_LOST = true ∧ (refGone s).is F.TB0_STAT.NOREF = true := by
  have hne (f : FRef) (hf : f.addr = R.REF_STAT) : (refGone s).is f =
      (((s.clr F.REF_STAT.REF_PRESENT).clr F.REF_STAT.REF_LOCK).p F.REF_STAT.REF_LOST 1).is f := by
    unfold refGone
    rw [State.set1_is, State.is_p_reg _ _ (by rw [hf]; decide), State.set1_is]
  refine ⟨?_, ?_, ?_, ?_⟩
  · rw [hne _ rfl, State.is_p_field _ _ rfl, State.clr_def, State.is_p_field _ _ rfl, State.clr_def, State.is_p_same _ _ _ rfl]
    rfl
  · rw [hne _ rfl, State.is_p_field _ _ rfl, State.clr_def, State.is_p_same _ _ _ rfl]
    rfl
  · rw [hne _ rfl, State.is_p_same _ _ _ rfl]
    rfl
  · rw [refGone, State.set1_is, State.is_p_same _ _ _ rfl]
    rfl

theorem refGone_off (s : State) : Off (fun a => a = R.REF_STAT ∨ a = R.TB0_STAT) s (refGone s) :=
  State.set1_off (State.set1_off (State.clr_off (State.clr_off (.refl s) (.inl rfl)) (.inl rfl)) (.inl rfl)) (.inr rfl)

/-- The rest of a loss: other registers than those of the axes, the journal and the array link read as before. -/
theorem refclkLoss_is (s : State) {f : FRef} (hf : ¬ refLossReg f.addr) (hg : f.addr ≠ R.GAL_STAT) :
    (refclkLoss s).is f = (refGone s).is f := by
  rw [refclkLoss_eq, State.emit_is, (unjoin_off ..).is f hg, (refLoseAll_off _).is f hf]
  rfl

theorem not_refLossReg {a : Nat} (h1 : a ≠ R.AXIN_STAT) (h2 : a < 0x100000 ∨ 0x600000 ≤ a ∧ a < 0x800000) (h3 : a ≠ R.RR_STAT 4) :
    ¬ refLossReg a := by
  rintro ⟨h, hh, ha⟩
  simp only [axisLossReg, jnlReg, R.AXIN_STAT, R.AXIS_STAT, R.JNL_STAT, R.JNL_SEQ, R.JNL_DROP, R.RR_STAT] at *
  omega

theorem refclkLoss_marking (s : State) : (refclkLoss s).marking = (true, none) := by
  rw [refclkLoss_eq, (State.emit_reports ..).marking, unjoin_marking, refLoseAll_marking]
  rfl

theorem refclkLoss_holds {h : Nat} {s : State} (hh : h < s.part.halls) (hl : s.refLocked h) : (refclkLoss s).axSt h = axHoldover := by
  have h32 : h < 32 := lt_of_lt_of_le hh (Part_halls_le _)
  have hk : (markNoref (refGone s)).refLocked h := by
    refine ⟨((refGone_off s).g _ ?_).trans hl.1, ((refGone_off s).g _ ?_).trans hl.2⟩ <;>
      simp only [F.AXIS_CTL.SRC, F.AXIS_STAT.STATE, R.AXIS_CTL, R.AXIS_STAT, R.REF_STAT, R.TB0_STAT] <;> omega
  rw [State.axSt, refclkLoss_eq, State.emit_g, (unjoin_off ..).g _ (by simp only [F.AXIS_STAT.STATE, R.AXIS_STAT, R.GAL_STAT]; omega)]
  exact refLoseAll_holds (s := markNoref (refGone s)) hh hk

section
variable {s : State}

theorem refclkLoss_shows (h : Nat) (hp : s.is F.REF_STAT.REF_PRESENT = true) : ∃ t, exec .refclkLoss s = .next t ∧
    t.is F.REF_STAT.REF_PRESENT = false ∧ t.is F.REF_STAT.REF_LOCK = false ∧ t.is F.REF_STAT.REF_LOST = true ∧
    t.is F.TB0_STAT.NOREF = true ∧ t.is F.GAL_STAT.JOINED = false ∧ t.noref = true ∧ t.norefEnd = none ∧
    (h < s.part.halls ∧ s.g (F.AXIS_CTL.SRC h) = 0 ∧ s.g (F.AXIS_STAT.STATE h) = axLocked → t.g (F.AXIS_STAT.STATE h) = axHoldover) := by
  have href (f : FRef) (hf : f.addr = R.REF_STAT) : (refclkLoss s).is f = (refGone s).is f :=
    refclkLoss_is s (not_refLossReg (by rw [hf]; decide) (by rw [hf]; decide) (by rw [hf]; decide)) (by rw [hf]; decide)
  obtain ⟨hpres, hlock, hlost, hno⟩ := refGone_shows s
  have hm := refclkLoss_marking s
  refine ⟨_, congrArg Host.Outcome.next (if_pos hp), (href _ rfl).trans hpres, (href _ rfl).trans hlock, (href _ rfl).trans hlost, ?_, ?_,
    congrArg Prod.fst hm, congrArg Prod.snd hm, fun ⟨hh, hsrc, hst⟩ => refclkLoss_holds hh ⟨hsrc, hst⟩⟩
  · exact (refclkLoss_is s (not_refLossReg (by decide) (by decide) (by decide)) (by decide)).trans hno
  · rw [refclkLoss_eq, State.emit_is, unjoin_joined]

theorem refclkPresent_shows (hp : s.is F.REF_STAT.REF_PRESENT = false) : ∃ t, exec .refclkPresent s = .next t ∧
    t.is F.REF_STAT.REF_PRESENT = true ∧ t.is F.TB0_STAT.NOREF = false ∧ t.noref = s.noref ∧ t.norefEnd = some (s.cyc + 5120) := by
  have hg (f : FRef) : ({ (s.set1 F.REF_STAT.REF_PRESENT).clr F.TB0_STAT.NOREF with norefEnd := some (s.cyc + 5120) } : State).is f =
      ((s.set1 F.REF_STAT.REF_PRESENT).p F.TB0_STAT.NOREF 0).is f := rfl
  refine ⟨_, congrArg Host.Outcome.next (if_neg (by rw [hp]; decide)), ?_, ?_, rfl, rfl⟩
  · rw [hg, State.is_p_reg _ _ (by decide), State.set1_is, State.is_p_same _ _ _ rfl]
    rfl
  · rw [hg, State.is_p_same _ _ _ rfl]
    rfl

theorem refLoopLock_locks (hp : s.is F.REF_STAT.REF_PRESENT = true) : ∃ t, exec .refLoopLock s = .next t ∧
    t.is F.REF_STAT.REF_LOCK = true ∧ t.is F.REF_STAT.REF_LOST = s.is F.REF_STAT.REF_LOST := by
  refine ⟨_, congrArg Host.Outcome.next (if_pos hp), ?_, ?_⟩
  · rw [State.set1_is, State.is_p_same _ _ _ rfl]
    rfl
  · rw [State.set1_is, State.is_p_field _ _ rfl]

theorem refLoopLock_absent (hp : s.is F.REF_STAT.REF_PRESENT = false) : exec .refLoopLock s = .next s :=
  congrArg Host.Outcome.next (if_neg (by rw [hp]; decide))

end

/-- Settles O37, an outcome at a time: TIME_STEP and TIME_RATE by the descriptor's path, an output by what a write of TT_CTL does
to it, and a loss of REFCLK by the halls' losses. -/
theorem timeCommands : Obligations.TimeCommands :=
  ⟨fun _ _ _ hx hu ha hl h30 h31 hz hn he hre hst => timeStep_sets hx ⟨hu, ha, hl, h30, h31, hz⟩ hn he hre hst,
    fun _ _ _ hx hu ha hl h30 h31 hz hn he hre hq => timeStep_raises hx ⟨hu, ha, hl, h30, h31, hz⟩ hn he hre hq,
    fun _ _ _ hx hu ha hl h30 h31 hz hn he => completes_only hx rfl (timeStep_stale ⟨hu, ha, hl, h30, h31, hz⟩ hn he),
    fun _ _ _ hx hu ha hl h30 h31 hz hn => completes_only hx rfl (timeStep_member ⟨hu, ha, hl, h30, h31, hz⟩ hn),
    fun _ _ _ hx hu ha hl h30 h31 hz hn he hre hst =>
      completes_only hx rfl (timeStep_unannounced ⟨hu, ha, hl, h30, h31, hz⟩ hn he hre hst),
    fun _ _ _ hx hu ha hl h30 h31 hz hn he hre hq => completes_only hx rfl (timeStep_busy ⟨hu, ha, hl, h30, h31, hz⟩ hn he hre hq),
    fun _ _ _ hx hu ha hl hz hn hr => timeRate_stores hx hu ha hl hz hn hr,
    fun _ _ _ hx hu ha hl hz hn hr => timeRate_tooFast hx hu ha hl hz hn hr,
    fun _ _ _ hx hu ha hl hz hn => timeRate_member hx hu ha hl hz hn,
    fun _ _ _ hr hn ha hd hs hp hb => ttArm_ahead hr hn ha hd hs hp hb,
    fun _ _ _ hr hn ha hd hs hm hb => ttArm_oneShot_missed hr hn ha hd hs (.inl hm) hm hb,
    fun _ _ _ hr hn ha hd hs hm hp hb => ttArm_periodic_missed hr hn ha hd hs (.inr hp) hm hb,
    fun _ _ _ hr hn ha hd hs hm hp => ttArm_short hr hn ha hd hs hm hp,
    fun _ _ _ hr hn ha hd hs => ttArm_running hr hn ha hd hs,
    fun _ _ _ hr hn hd hs => ttDisarm_stops hr hn hd hs,
    fun _ _ hn ha hd => ttFire_raises hn ha hd,
    fun _ _ hd => ttFire_early hd,
    fun _ _ hn hp hf => ttPulseEnd_falls hn hp hf,
    fun _ _ hf => ttPulseEnd_early hf,
    fun _ h hp => refclkLoss_shows h hp,
    fun _ hp => refclkPresent_shows hp,
    fun _ hp => refLoopLock_locks hp,
    fun _ hp => refLoopLock_absent hp⟩

end Sys2Proof.Machine
end

section
/-! PROOF. O33 fails: a state may list a replaced configuration word of the event matrix under a core cycle still to come, and
the word written does not take effect before that cycle (R410). -/
namespace Sys2Proof.Machine
-- One declaration after the other: elaborated side by side, they exceed the check's memory.
set_option Elab.async false

/-- The device in service in core cycle 0, with word 1 of EV_PMASK[0][0] listed as replaced in core cycle 1. -/
def earlyReplacedState : State := { ({} : State).p F.BOOT_STAGE.STAGE 8 with evOld := [(R.EV_PMASK 0 0, 1#32, 1)] }

theorem earlyReplaced_ready : Ready earlyReplacedState := by decide +kernel

/-- In core cycle 1 an emission still sees the listed word after a write of 0, which the register then holds. -/
theorem earlyReplaced_seen :
    (nextOf (exec (.evConfigWrite 0 (.pmask 0) 0#32) earlyReplacedState)).map
      (fun t => (t.rd (R.EV_PMASK 0 0), t.evWord (R.EV_PMASK 0 0) (earlyReplacedState.cyc + 1))) = some (0#32, 1#32) := by
  decide +kernel

/-- Refutes O33: with a word of EV_PMASK[0][0] listed as replaced in the next core cycle, a write of 0 in this one is not what
emissions see in the next one, where the clause on PMASK, which asks for `Ready` alone, says it is. -/
theorem not_eventsAndTimers : ¬ Obligations.EventsAndTimers := by
  rintro ⟨-, -, -, -, -, -, -, -, -, -, -, -, -, -, -, -, -, -, -, hpmask, -⟩
  obtain ⟨t, ht, -, hnext, -⟩ := hpmask earlyReplacedState 0 0 0#32 earlyReplaced_ready (by decide) (by decide)
  have hk := earlyReplaced_seen
  rw [ht] at hk
  simp [nextOf, hnext] at hk

end Sys2Proof.Machine
end

section
/-! PROOF. References and the flight table (R96, R97, R109–R111): what an update of the references leaves, and that it leaves
a VALID flight that no alcove references. -/
namespace Sys2Proof.Machine
-- One declaration after the other: elaborated side by side, they exceed the check's memory.
set_option Elab.async false

/-! ### Folds over a list -/

/-- What every step of a fold over a list keeps holds after the fold. -/
theorem State.over_inv {α : Type} {I : State → Prop} {s : State} {l : List α} {f : α → State → State} (h0 : I s)
    (step : ∀ x t, I t → I (f x t)) : I (s.over l f) := by
  induction l generalizing s with
  | nil => exact h0
  | cons x l ih => exact ih (step x s h0)

/-! ### The flight table -/

@[simp] theorem State.flight_setFlt (s : State) (h f : Nat) (x : FlightX) : (s.setFlt h f x).flt_ h f = x := tabGet_set_same _ _ _ _
theorem State.flight_setFlt_ne (s : State) {h f g : Nat} (x : FlightX) (hf : f ≠ g) : (s.setFlt h g x).flt_ h f = s.flt_ h f :=
  tabGet_set_ne _ _ _ (by omega)
theorem State.flight_congr {s t : State} (h : t.flights = s.flights) (k f : Nat) : t.flt_ k f = s.flt_ k f := by
  unfold State.flt_; rw [h]
@[simp] theorem State.hl_setHl (s : State) (h : Nat) (x : HallX) : (s.setHl h x).hl h = x := tabGet_set_same _ _ _ _

@[simp] theorem State.complete_flights (t : State) (d : Nat) (st : Status) (res : List (Nat × Nat × Nat)) :
    (t.complete d st res).flights = t.flights := by
  obtain ⟨_, _, h⟩ := t.complete_leaves d st res; rw [h]
@[simp] theorem State.complete_mem (t : State) (d : Nat) (st : Status) (res : List (Nat × Nat × Nat)) :
    (t.complete d st res).mem = t.mem := by
  obtain ⟨_, _, h⟩ := t.complete_leaves d st res; rw [h]
@[simp] theorem State.complete_flight (t : State) (d : Nat) (st : Status) (res : List (Nat × Nat × Nat)) (h f : Nat) :
    (t.complete d st res).flt_ h f = t.flt_ h f := State.flight_congr (by simp) h f

/-! ### What the loop cache changes -/

/-- Nothing has changed but the flights, the loop caches and the registers of hall `h` that show them. -/
structure CacheShows (h : Nat) (s t : State) : Prop where
  regs : Off (fun a => a = R.LC_STAT h ∨ a = R.FLT_STAT h) s t
  rest : ∃ regs fresh flights halls, t = { s with regs := regs, fresh := fresh, flights := flights, halls := halls }

section
variable {s t z : State} {h : Nat}

theorem CacheShows.refl (s : State) : CacheShows h s s := ⟨.refl s, _, _, _, _, rfl⟩
theorem CacheShows.after (ht : CacheShows h s t) (hs : CacheShows h z s) : CacheShows h z t := by
  obtain ⟨rs, _, _, _, _, rfl⟩ := hs
  obtain ⟨rt, _, _, _, _, rfl⟩ := ht
  exact ⟨rt.after rs, _, _, _, _, rfl⟩
theorem CacheShows.ite {c : Prop} [Decidable c] {a b : State} (ha : CacheShows h z a) (hb : CacheShows h z b) :
    CacheShows h z (if c then a else b) := by
  split
  · exact ha
  · exact hb

theorem CacheShows.queues (k : CacheShows h s t) : t.queues = s.queues := by obtain ⟨_, _, _, _, _, rfl⟩ := k; rfl
theorem CacheShows.mem (k : CacheShows h s t) : t.mem = s.mem := by obtain ⟨_, _, _, _, _, rfl⟩ := k; rfl
theorem CacheShows.alc (k : CacheShows h s t) (i : Nat) : t.alc h i = s.alc h i := by obtain ⟨_, _, _, _, _, rfl⟩ := k; rfl
theorem CacheShows.alcSt (k : CacheShows h s t) (i : Nat) : t.alcSt h i = s.alcSt h i :=
  k.regs.g _ (by simp only [F.ALC_STATE.STATE, R.ALC_STATE, R.LC_STAT, R.FLT_STAT]; omega)

/-- The alcoves of the hall reference what they did. -/
theorem CacheShows.refs (k : CacheShows h s t) (f : Nat) : t.refs h f = s.refs h f := by
  simp only [State.refs, State.refers, k.alc, k.alcSt]

theorem State.modHl_shows (s : State) (h k : Nat) (f : HallX → HallX) : CacheShows h s (s.modHl k f) :=
  ⟨.base (.refl s), _, _, _, _, rfl⟩
theorem State.setFlt_shows (s : State) (h k f : Nat) (x : FlightX) : CacheShows h s (s.setFlt k f x) :=
  ⟨.base (.refl s), _, _, _, _, rfl⟩
theorem lcStat_shows (h : Nat) (s : State) : CacheShows h s (lcStat h s) :=
  ⟨State.p_off (State.p_off (.refl s) _ (.inl rfl)) _ (.inl rfl), _, _, _, _, rfl⟩
theorem lcFull_shows (h : Nat) (s : State) : CacheShows h s (s.set1 (F.FLT_STAT.LC_FULL h)) :=
  ⟨State.set1_off (.refl s) (.inr rfl), _, _, _, _, rfl⟩

theorem cacheReserve_shows (h f : Nat) (s : State) : CacheShows h s (cacheReserve h f s) :=
  .ite (.refl s) (.ite ((lcStat_shows ..).after (State.modHl_shows ..)) (lcFull_shows ..))
theorem cacheFree_shows (h f : Nat) (s : State) : CacheShows h s (cacheFree h f s) := (lcStat_shows ..).after (State.modHl_shows ..)
theorem refUpdate1_shows (h f : Nat) (s : State) : CacheShows h s (refUpdate1 h f s) :=
  .ite ((cacheReserve_shows ..).after (State.setFlt_shows ..)) (.ite ((cacheFree_shows ..).after (State.setFlt_shows ..)) (.refl s))
theorem refsUpdate_shows (h : Nat) (s : State) : CacheShows h s (refsUpdate h s) :=
  State.over_inv (State.over_inv (.refl s) fun f _ => (refUpdate1_shows h f _).after) fun f _ => (refUpdate1_shows h f _).after

/-! ### A VALID flight without a reference -/

@[simp] theorem cacheReserve_flights (h f : Nat) (s : State) : (cacheReserve h f s).flights = s.flights := by
  unfold cacheReserve
  dsimp only
  split
  · rfl
  · split <;> rfl
@[simp] theorem cacheFree_flights (h f : Nat) (s : State) : (cacheFree h f s).flights = s.flights := rfl

/-- An update of one flight leaves the others. -/
theorem refUpdate1_flt_ne {f g : Nat} (hf : f ≠ g) (s : State) : (refUpdate1 h g s).flt_ h f = s.flt_ h f := by
  unfold refUpdate1
  dsimp only
  split
  · rw [State.flight_congr (cacheReserve_flights ..), State.flight_setFlt_ne _ _ hf]
  · split
    · rw [State.flight_congr (cacheFree_flights ..), State.flight_setFlt_ne _ _ hf]
    · rfl

/-- A VALID flight without a reference stays as it is (R97). -/
theorem refUpdate1_valid {f : Nat} (hst : (s.flt_ h f).st = 2) (hr : s.refs h f = 0) : refUpdate1 h f s = s := by
  simp [refUpdate1, hst, hr]

theorem refsUpdate_valid {f : Nat} (hst : (s.flt_ h f).st = 2) (hr : s.refs h f = 0) : (refsUpdate h s).flt_ h f = s.flt_ h f := by
  have hstep (g : Nat) (t : State) (ht : t.flt_ h f = s.flt_ h f ∧ t.refs h f = 0) :
      (refUpdate1 h g t).flt_ h f = s.flt_ h f ∧ (refUpdate1 h g t).refs h f = 0 := by
    obtain ⟨hflt, hrefs⟩ := ht
    by_cases hg : f = g
    · subst hg
      rw [refUpdate1_valid (hflt ▸ hst) hrefs]
      exact ⟨hflt, hrefs⟩
    · exact ⟨(refUpdate1_flt_ne hg t).trans hflt, ((refUpdate1_shows h g t).refs f).trans hrefs⟩
  exact (State.over_inv (I := fun t => t.flt_ h f = s.flt_ h f ∧ t.refs h f = 0) (State.over_inv ⟨rfl, hr⟩ hstep) hstep).1

/-- A flight made VALID while no alcove references it stays VALID as it was stored. -/
theorem refsUpdate_setFlt {f : Nat} {x : FlightX} (hst : x.st = 2) (hr : s.refs h f = 0) :
    (refsUpdate h (s.setFlt h f x)).flt_ h f = x := by
  have hx := s.flight_setFlt h f x
  rw [refsUpdate_valid (by rw [hx, hst]) (((State.setFlt_shows s h h f x).refs f).trans hr), hx]

end

end Sys2Proof.Machine
end

section
/-! PROOF. LOAD_FLIGHT (R101–R103), the ends of a DMA load (R95, R97) and the read of a flight's descriptor (R121), and O4. -/
namespace Sys2Proof.Machine
-- One declaration after the other: elaborated side by side, they exceed the check's memory.
set_option Elab.async false

/-! ### LOAD_FLIGHT -/

/-- A LOAD_FLIGHT of mode `m` for flight `f` of hall `h` that passes the checks of form and ownership (R101, R102, R235). -/
structure LoadForm (s : State) (r : DescRun) (h f m : Nat) : Prop where
  unit : dUnit r.desc = h
  flight : dscBits r.desc 20 0 12 = f
  mode : dscBits r.desc 22 0 2 = m
  present : h < s.part.halls
  owned : r.owns h = true
  rsv : loadFlightRsv r.desc m = true

/-- The range of a load is legal, its flight is EMPTY, and no other flight shares a granule (R93, R101, R102). -/
structure LoadRange (s : State) (n : FlightX) (h f : Nat) : Prop where
  long : 4 ≤ n.len
  fits : n.start + n.len ≤ s.part.granules
  pins : n.pinnable = true → n.len ≤ 1024
  empty : (s.flt_ h f).st = 0
  alone : s.conflict h f n.start n.len = none

section
variable {s : State} {q h f m : Nat} {r : DescRun}

theorem LoadForm.hallOk (hm : LoadForm s r h f m) : s.hallOk h = true := State.hallOk_of_lt hm.present
theorem LoadForm.not_beyond (hm : LoadForm s r h f m) : ¬ 31 < h := by
  have hp := hm.present
  have hle := Part_halls_le s.part
  omega
theorem LoadRange.not_short {n : FlightX} (hn : LoadRange s n h f) : ¬ n.len < 4 := Nat.not_lt.mpr hn.long
theorem LoadRange.not_beyond {n : FlightX} (hn : LoadRange s n h f) : ¬ s.part.granules < n.start + n.len := Nat.not_lt.mpr hn.fits
theorem LoadRange.not_tooLong {n : FlightX} (hn : LoadRange s n h f) : ¬ (n.pinnable = true ∧ 1024 < n.len) :=
  fun ⟨hp, hl⟩ => Nat.not_lt.mpr (hn.pins hp) hl

/-- MODE DMA on an EMPTY flight: it is LOADING, and the host memory named is read. -/
theorem loadFlight_dma (hm : LoadForm s r h f 0) (hn : LoadRange s (flightOf r.desc) h f) (ha : dAddr r.desc % 16 = 0)
    (hl : dLen r.desc = (flightOf r.desc).len * 1024) : loadFlight q r s =
      (s.setFlt h f { flightOf r.desc with dma := some r.did }).send (.hostRead (dAddr r.desc) (dLen r.desc)) := by
  simp [loadFlight, hm.unit, hm.flight, hm.mode, hm.rsv, hm.owned, hm.hallOk, hm.not_beyond, ha, hl, hn.not_short, hn.not_beyond,
    hn.not_tooLong, hn.empty, hn.alone]

/-- MODE OPEN on an EMPTY flight: it is LOADING and takes writes. -/
theorem loadFlight_open (hm : LoadForm s r h f 1) (hn : LoadRange s (flightOf r.desc) h f) (hl : dLen r.desc = 0) : loadFlight q r s =
      (s.setFlt h f { flightOf r.desc with opened := true }).complete r.did .ok (loadFlightRes f 1 0 0 0) := by
  simp [loadFlight, hm.unit, hm.flight, hm.mode, hm.rsv, hm.owned, hm.hallOk, hm.not_beyond, hl, hn.not_short, hn.not_beyond,
    hn.not_tooLong, hn.empty, hn.alone]

/-- MODE CLOSE on an opened flight that no alcove references: it is VALID with the CRC-32 of its range. -/
theorem loadFlight_close (hm : LoadForm s r h f 2) (hst : (s.flt_ h f).st = 1) (ho : (s.flt_ h f).opened = true)
    (hd : (s.flt_ h f).dma = none) (hr : s.refs h f = 0) : loadFlight q r s =
      (refsUpdate h (s.setFlt h f { s.flt_ h f with st := 2, opened := false, crc := s.fltCrc h (s.flt_ h f) })).complete r.did .ok
        (loadFlightRes f 2 0 (s.fltCrc h (s.flt_ h f)) 0) := by
  simp [loadFlight, hm.unit, hm.flight, hm.mode, hm.rsv, hm.owned, hm.hallOk, hm.not_beyond, hst, ho, hd, refsUpdate_setFlt, hr]

/-- MODE FREE on a VALID flight: it is EMPTY. -/
theorem loadFlight_free (hm : LoadForm s r h f 3) (hst : (s.flt_ h f).st = 2) :
    loadFlight q r s = (s.setFlt h f {}).complete r.did .ok (loadFlightRes f 0 0 0 0) := by
  simp [loadFlight, hm.unit, hm.flight, hm.mode, hm.rsv, hm.owned, hm.hallOk, hm.not_beyond, hst]

/-- A hall that the part does not have. -/
theorem loadFlight_absent (hu : dUnit r.desc < 32) (hp : s.part.halls ≤ dUnit r.desc) :
    loadFlight q r s = s.complete r.did .absent (loadFlightRes (dscBits r.desc 20 0 12) 0 0 0 0) := by
  simp [loadFlight, State.hallOk, hu, Nat.not_lt.mpr hp]

/-- LOAD_FLIGHT acts on the descriptor that its queue executes. -/
theorem exec_loadFlight (hx : Executes s q 2 false r) :
    exec (.loadFlight q) s = .next (loadFlight q { r with acted := true } (s.setActed q r.did)) :=
  congrArg Host.Outcome.next (State.withDesc_executes hx _)

/-- The checks hold too once the descriptor counts as acted on. -/
theorem LoadForm.acted (hm : LoadForm s r h f m) : LoadForm (s.setActed q r.did) { r with acted := true } h f m :=
  ⟨hm.unit, hm.flight, hm.mode, hm.present, hm.owned, hm.rsv⟩
theorem LoadRange.acted {n : FlightX} {d : Nat} (hn : LoadRange s n h f) : LoadRange (s.setActed q d) n h f :=
  ⟨hn.long, hn.fits, hn.pins, hn.empty, hn.alone⟩

theorem exec_loadFlight_dma (hx : Executes s q 2 false r) (hm : LoadForm s r h f 0) (hn : LoadRange s (flightOf r.desc) h f)
    (ha : dAddr r.desc % 16 = 0) (hl : dLen r.desc = (flightOf r.desc).len * 1024) : ∃ t, exec (.loadFlight q) s = .next t ∧
      (t.flt_ h f).st = 1 ∧ (t.flt_ h f).dma = some r.did ∧ t.out = s.out ++ [.hostRead (dAddr r.desc) (dLen r.desc)] := by
  have hf (t : State) (o : Out) (x : FlightX) : ((t.setFlt h f x).send o).flt_ h f = x := t.flight_setFlt h f x
  rw [exec_loadFlight hx, loadFlight_dma hm.acted hn.acted ha hl]
  refine ⟨_, rfl, ?_, ?_, rfl⟩
  · rw [hf]; rfl
  · rw [hf]

theorem exec_loadFlight_open (hx : Executes s q 2 false r) (hm : LoadForm s r h f 1) (hn : LoadRange s (flightOf r.desc) h f)
    (hl : dLen r.desc = 0) : ∃ t, exec (.loadFlight q) s = .next t ∧ (t.flt_ h f).st = 1 ∧ (t.flt_ h f).opened = true ∧
      Completed t q r .ok (loadFlightRes f 1 0 0 0) := by
  rw [exec_loadFlight hx, loadFlight_open hm.acted hn.acted hl]
  refine ⟨_, rfl, ?_, ?_, State.complete_completed hx (by rfl) ..⟩
  · rw [State.complete_flight, State.flight_setFlt]; rfl
  · rw [State.complete_flight, State.flight_setFlt]

theorem exec_loadFlight_close (hx : Executes s q 2 false r) (hm : LoadForm s r h f 2) (hst : (s.flt_ h f).st = 1)
    (ho : (s.flt_ h f).opened = true) (hd : (s.flt_ h f).dma = none) (hr : s.refs h f = 0) : ∃ t, exec (.loadFlight q) s = .next t ∧
      (t.flt_ h f).st = 2 ∧ (t.flt_ h f).opened = false ∧ (t.flt_ h f).crc = s.fltCrc h (s.flt_ h f) ∧
      Completed t q r .ok (loadFlightRes f 2 0 (s.fltCrc h (s.flt_ h f)) 0) := by
  have hr' : (s.setActed q r.did).refs h f = 0 := hr
  rw [exec_loadFlight hx, loadFlight_close hm.acted hst ho hd hr']
  refine ⟨_, rfl, ?_, ?_, ?_, State.complete_completed hx (by exact (refsUpdate_shows ..).queues) ..⟩
  · rw [State.complete_flight, refsUpdate_setFlt rfl hr']
  · rw [State.complete_flight, refsUpdate_setFlt rfl hr']
  · rw [State.complete_flight, refsUpdate_setFlt rfl hr']; rfl

theorem exec_loadFlight_free (hx : Executes s q 2 false r) (hm : LoadForm s r h f 3) (hst : (s.flt_ h f).st = 2) :
    ∃ t, exec (.loadFlight q) s = .next t ∧ t.flt_ h f = {} ∧ Completed t q r .ok (loadFlightRes f 0 0 0 0) := by
  rw [exec_loadFlight hx, loadFlight_free hm.acted hst]
  refine ⟨_, rfl, ?_, State.complete_completed hx (by rfl) ..⟩
  rw [State.complete_flight, State.flight_setFlt]

theorem exec_loadFlight_absent (hx : Executes s q 2 false r) (hu : dUnit r.desc < 32) (hp : s.part.halls ≤ dUnit r.desc) :
    ∃ t, exec (.loadFlight q) s = .next t ∧ Completed t q r .absent (loadFlightRes (dscBits r.desc 20 0 12) 0 0 0 0) ∧
      t.mem = s.mem := by
  have he := loadFlight_absent (s := s.setActed q r.did) (q := q) (r := { r with acted := true }) hu hp
  exact ⟨_, (exec_loadFlight hx).trans (congrArg _ he), State.complete_completed hx rfl .., State.complete_mem ..⟩

end

/-! ### The ends of a DMA load (R95, R97) -/

section
variable {s : State} {h f d q : Nat} {r : DescRun}

/-- The descriptor that a queue executes completes there. -/
theorem State.complete_running {t : State} (ht : t.queues = s.queues) (hof : s.queueOf d = some q) (hrun : (s.queue q).run = some r)
    (st : Status) (res : List (Nat × Nat × Nat)) : Completed (t.complete d st res) q r st res := by
  have hq (k : Nat) : t.queue k = s.queue k := by unfold State.queue; rw [ht]
  have hof' : t.queueOf d = some q := (State.queueOf_congr (fun k => by rw [hq]) d).trans hof
  have hc : (t.complete d st res).queue q = { t.queue q with
      run := none
      held := some (packB ((0, 4, dTag r.desc) :: (4, 1, st.code) :: (6, 2, r.qpos) :: res))
      heldVec := dscBits r.desc 2 0 1 == 1 } := by
    unfold State.complete
    simp only [hof', hq, hrun]
    exact tabGet_set_same _ _ _ _
  exact ⟨by rw [hc], by rw [hc]⟩

/-- Bytes stored change bulk memory alone. -/
theorem State.wrBytes_leaves (s : State) (p a : Nat) (l : List Nat) : ∃ mem, s.wrBytes p a l = { s with mem := mem } := by
  induction l generalizing s a with
  | nil => exact ⟨_, rfl⟩
  | cons b l ih =>
    obtain ⟨mem, hm⟩ := ih (s.wrByte p a (BitVec.ofNat 8 b)) (a + 1)
    exact ⟨mem, hm⟩

theorem loadFlightDmaDone_stores {data : List Nat} (hd : (s.flt_ h f).dma = some d) (hst : (s.flt_ h f).st = 1)
    (hl : data.length = (s.flt_ h f).len * 1024) (hr : s.refs h f = 0) (hof : s.queueOf d = some q) (hrun : (s.queue q).run = some r) :
    ∃ t, exec (.loadFlightDmaDone h f data) s = .next t ∧ (t.flt_ h f).st = 2 ∧ (t.flt_ h f).crc = crc32 data ∧
      (t.flt_ h f).dma = none ∧ t.mem = (s.wrBytes h ((s.flt_ h f).start * 1024) data).mem ∧
      Completed t q r .ok (loadFlightRes f 2 0 (crc32 data) 0) := by
  obtain ⟨mem, hm⟩ := s.wrBytes_leaves h ((s.flt_ h f).start * 1024) data
  have hr' : ({ s with mem := mem } : State).refs h f = 0 := hr
  have he : exec (.loadFlightDmaDone h f data) s = execLoadFlightDmaDone h f data s := rfl
  simp only [he, execLoadFlightDmaDone, hd, hst, hl, hm, BEq.rfl, decide_true, Bool.and_self, if_true, refsUpdate_setFlt, hr']
  refine ⟨_, rfl, ?_, ?_, ?_, ?_, State.complete_running (by exact (refsUpdate_shows ..).queues) hof hrun ..⟩
  · rw [State.complete_flight, refsUpdate_setFlt rfl hr']
  · rw [State.complete_flight, refsUpdate_setFlt rfl hr']
  · rw [State.complete_flight, refsUpdate_setFlt rfl hr']
  · exact (State.complete_mem ..).trans (refsUpdate_shows ..).mem

theorem loadFlightDmaFail_empties (hd : (s.flt_ h f).dma = some d) (hof : s.queueOf d = some q) (hrun : (s.queue q).run = some r) :
    ∃ t, exec (.loadFlightDmaFail h f) s = .next t ∧ t.flt_ h f = {} ∧ t.mem = s.mem ∧
      Completed t q r .faulted (loadFlightRes f 0 (s.draw 8).1 0 0) := by
  have he : exec (.loadFlightDmaFail h f) s = execLoadFlightDmaFail h f s := rfl
  simp only [he, execLoadFlightDmaFail, hd]
  refine ⟨_, rfl, ?_, State.complete_mem .., State.complete_running (by rfl) hof hrun ..⟩
  rw [State.complete_flight, State.flight_setFlt]

/-! ### The read of a descriptor (R121) -/

theorem fltDescLoRead_reads (path : Path) (hr : Ready s) (hh : h < s.part.halls) : ∃ t, exec (.fltDescLoRead path h) s = .next t ∧
    tabGet (fun _ => 0) t.rdata path.idx = BitVec.ofNat 32 (s.fltWords h (s.g (F.FLT_IDX.IDX h))).1 ∧ t.mem = s.mem := by
  obtain ⟨hservice, hawake⟩ := hr
  have he : exec (.fltDescLoRead path h) s = .next (fltDescLoRead path h s) := by
    change Host.Outcome.next _ = _
    rw [State.hallOk_of_lt hh, if_pos rfl, State.hostRead, hservice, hawake]
    rfl
  refine ⟨_, he, (tabGet_set_same ..).trans ?_, rfl⟩
  rw [fltSnapTake, State.modHl, State.hl_setHl]

end

/-- Settles O4: each mode of LOAD_FLIGHT by its equation, and the flights left VALID by `refsUpdate_setFlt`. -/
theorem flightLoading : Obligations.FlightLoading :=
  ⟨fun _ _ _ hx hu ho hm hv hlong hfits hpins ha hl he hc =>
      exec_loadFlight_dma hx ⟨rfl, rfl, hm, hu, ho, hv⟩ ⟨hlong, hfits, hpins, he, hc⟩ ha hl,
    fun _ _ _ hx hu ho hm hv hlong hfits hpins hl he hc =>
      exec_loadFlight_open hx ⟨rfl, rfl, hm, hu, ho, hv⟩ ⟨hlong, hfits, hpins, he, hc⟩ hl,
    fun _ _ _ hx hu ho hm hv hst => exec_loadFlight_free hx ⟨rfl, rfl, hm, hu, ho, hv⟩ hst,
    fun _ _ _ hx hu ho hm hv hst hopened hd hr => exec_loadFlight_close hx ⟨rfl, rfl, hm, hu, ho, hv⟩ hst hopened hd hr,
    fun _ _ _ hx hu hp => exec_loadFlight_absent hx hu hp,
    fun _ _ _ _ _ _ _ hd hst hl hr hof hrun => loadFlightDmaDone_stores hd hst hl hr hof hrun,
    fun _ _ _ _ _ _ hd hof hrun => loadFlightDmaFail_empties hd hof hrun,
    fun _ path _ hr hh => fltDescLoRead_reads path hr hh⟩

end Sys2Proof.Machine
end

section
/-! PROOF. O18, O19 and O21 fail.  A PC is a number of any size in the model, and the statements speak of every state, also of one with
a PC that the stair store does not have.  A member at such a PC finds no sealed page, so that it faults UNSEALED (R123) where the
clauses have its instruction served or its segment started. -/
namespace Sys2Proof.Machine
-- One declaration after the other: elaborated side by side, they exceed the check's memory.
set_option Elab.async false

/-- The first PC beyond the 65,536 instructions of a stair store (R122). -/
def pcBeyond : Nat := 65536

/-! ### Instructions (R132) -/

/-- A member whose segment runs at that PC. -/
def pcBeyondMember : Member := { i := 0, ctx := { pc := pcBeyond }, cond := 0, win := 0 }

/-- The landing engine of hall 0 runs that member, with every page sealed; the instruction that it fetches has opcode `op` and no
other bit set. -/
def pcBeyondState (op : Nat) : State :=
  ((({ halls := [(0, { eng := { run := true, members := [pcBeyondMember] } })] } : State).p (F.STAIR_STAT.SEALED 0) 0xFFFF).p
    (F.UC_ENG.STATE 0) 1).wrByte (stairPort 0) 7 (BitVec.ofNat 8 (4 * op))

theorem pcBeyond_nop : Serves (pcBeyondState 0x00) 0 (pack [(58, 6, 0x00)]) pcBeyondMember ∧
    InCohort (pcBeyondState 0x00) 0 0 0x00 pcBeyondMember pcBeyondMember := by decide +kernel
theorem pcBeyond_sett : Serves (pcBeyondState 0x0A) 0 (pack [(58, 6, 0x0A), (0, 6, 0)]) pcBeyondMember ∧
    InCohort (pcBeyondState 0x0A) 0 0 0x0A pcBeyondMember pcBeyondMember := by decide +kernel

/-- NOP leaves the member faulted. -/
theorem pcBeyond_nop_faults : (nextOf (exec (.nopInstr 0) (pcBeyondState 0x00))).map (fun t => (t.hl 0).eng.members[0]?) =
    some (some (pcBeyondMember.fault fcUnsealed)) := by decide +kernel
/-- SETT leaves the member faulted. -/
theorem pcBeyond_sett_faults : (nextOf (exec (.sett 0) (pcBeyondState 0x0A))).map (fun t => (t.hl 0).eng.members[0]?) =
    some (some (pcBeyondMember.fault fcUnsealed)) := by decide +kernel

/-- Refutes O18: a NOP fetched for a member at PC 65,536 is not served; the member faults UNSEALED, where the first clause has it go
on at the next address. -/
theorem not_stairRuns : ¬ Obligations.StairRuns := by
  rintro ⟨hnop, -⟩
  obtain ⟨t, ht, hmember, -⟩ := hnop _ _ _ _ _ pcBeyond_nop.1 pcBeyond_nop.2
  have hk := pcBeyond_nop_faults
  rw [ht, nextOf, Option.map_some, hmember] at hk
  exact absurd hk (by decide)

/-- Refutes O19: a SETT fetched for a member at PC 65,536 is not served; the member faults UNSEALED, where the first clause has it
stage its timing set and go on. -/
theorem not_stairEffects : ¬ Obligations.StairEffects := by
  rintro ⟨hsett, -⟩
  obtain ⟨t, ht, hmember, -⟩ := hsett _ _ _ _ _ 0 pcBeyond_sett.1 pcBeyond_sett.2 (by decide)
  have hk := pcBeyond_sett_faults
  rw [ht, nextOf, Option.map_some, hmember] at hk
  exact absurd hk (by decide)

/-! ### Lead points (R137) -/

/-- Hall 0 plays a flight whose lead point has not been taken, with every page sealed and one LIVE alcove, which has joined, at that
PC. -/
def pcBeyondLead : State :=
  ((({ alcs := [(0, { ctx := { pc := pcBeyond } })] } : State).p (F.STAIR_STAT.SEALED 0) 0xFFFF).p (F.FLT_STAT.PLAYING 0) 1).p
    (F.ALC_STATE.STATE 0 0) alcLive

theorem pcBeyondLead_plays : pcBeyondLead.playing 0 = true ∧ (pcBeyondLead.hl 0).leadTaken = false ∧ pcBeyondLead.fenced 0 = false ∧
    pcBeyondLead.replaying = false ∧ pcBeyondLead.g (F.STAIR_STAT.SEALED 0) = 0xFFFF ∧ (pcBeyondLead.hl 0).eng.stops = [] ∧
    (pcBeyondLead.hl 0).eng.jump = none ∧ (pcBeyondLead.lives 0)[0]? = some 0 ∧ (pcBeyondLead.alc 0 0).joined = true := by decide +kernel

/-- The segment that the lead point starts ends at once. -/
theorem pcBeyondLead_ends : (nextOf (exec (.leadPoint 0) pcBeyondLead)).map
    (fun t => ((t.hl 0).eng.members[0]?).map (fun m => (m.ctx, m.st, m.n))) = some (some ({ pc := pcBeyond }, .ended, 0)) := by
  decide +kernel

/-- Refutes O21: at a lead point the segment of an alcove at PC 65,536 faults UNSEALED at once, where the first clause has it run. -/
theorem not_leadPointAndDispatch : ¬ Obligations.LeadPointAndDispatch := by
  rintro ⟨hlead, -⟩
  obtain ⟨hplay, htaken, hfence, hreplay, hsealed, hstops, hjump, hlive, hjoined⟩ := pcBeyondLead_plays
  obtain ⟨t, ht, -, -, -, -, -, -, -, -, hmember, -⟩ :=
    hlead _ _ _ _ (by decide) hplay htaken hfence hreplay hsealed hstops hjump hlive hjoined
  have hk := pcBeyondLead_ends
  rw [ht, nextOf, Option.map_some, hmember] at hk
  exact absurd hk (by decide)

end Sys2Proof.Machine
end

section
/-! PROOF. Shared layer: what the microroutines of a landing engine (R167–R174) and the fetch of its next cohort (R123) leave. -/
namespace Sys2Proof.Machine
-- One declaration after the other: elaborated side by side, they exceed the check's memory.
set_option Elab.async false

/-- The registers in which a microroutine of hall `h` shows: those of its engine, its fault source, the two result rings and the
journal. -/
def engineReg (h a : Nat) : Prop :=
  a = R.UC_ENG h ∨ a = R.FLT_SRC_STAT (8 * h + 2) ∨ a = R.RR_STAT 0 ∨ a = R.RR_STAT 1 ∨ jnlReg a

/-- The registers of the halls' blocks are none of them. -/
theorem not_engineReg_hall {h a : Nat} (h1 : 0x100000 ≤ a) (h2 : a < 0x600000) : ¬ engineReg h a := by
  simp only [engineReg, jnlReg, R.UC_ENG, R.FLT_SRC_STAT, R.RR_STAT, R.JNL_STAT, R.JNL_SEQ, R.JNL_DROP]
  omega

/-- Of the registers only those of the engine of hall `h` have changed, of the hall only its engine, and no queue. -/
structure EngineOnly (h : Nat) (s t : State) : Prop where
  regs : Off (engineReg h) s t
  hall : ∃ e, t.hl h = { s.hl h with eng := e }
  queues : t.queues = s.queues

section
variable {s t z : State} {h : Nat}

theorem EngineOnly.refl (s : State) : EngineOnly h s s := ⟨.refl s, ⟨_, rfl⟩, rfl⟩
theorem EngineOnly.after (ht : EngineOnly h s t) (hs : EngineOnly h z s) : EngineOnly h z t := by
  obtain ⟨e, he⟩ := hs.hall
  obtain ⟨e', he'⟩ := ht.hall
  exact ⟨ht.regs.after hs.regs, ⟨e', by rw [he', he]⟩, ht.queues.trans hs.queues⟩
theorem EngineOnly.ite {c : Prop} [Decidable c] {a b : State} (ha : EngineOnly h z a) (hb : EngineOnly h z b) :
    EngineOnly h z (if c then a else b) := by
  split
  · exact ha
  · exact hb
/-- Reports to the engine's registers. -/
theorem EngineOnly.report (ho : Off (engineReg h) s t) (hr : Reports s t) : EngineOnly h s t :=
  ⟨ho, ⟨_, hr.hl h⟩, hr.queues⟩

/-- What the engine leaves of the hall. -/
theorem EngineOnly.loading (k : EngineOnly h s t) : (t.hl h).loading = (s.hl h).loading := by
  obtain ⟨e, he⟩ := k.hall; rw [he]
theorem EngineOnly.loopRefs (k : EngineOnly h s t) : (t.hl h).loopRefs = (s.hl h).loopRefs := by
  obtain ⟨e, he⟩ := k.hall; rw [he]

theorem State.over_engineOnly {α : Type} {f : α → State → State} (hf : ∀ x t, EngineOnly h t (f x t)) (l : List α) (s : State) :
    EngineOnly h s (s.over l f) :=
  State.over_inv (.refl s) fun x t => (hf x t).after

theorem State.modEng_engineOnly (s : State) (h : Nat) (f : EngX → EngX) : EngineOnly h s (s.modEng h f) :=
  ⟨.base (.refl s), ⟨_, State.hl_setHl ..⟩, rfl⟩
theorem State.engP_engineOnly (s : State) {f : FRef} (v : Nat) (hf : engineReg h f.addr) : EngineOnly h s (s.p f v) :=
  .report (State.p_off (.refl s) v hf) (State.p_reports ..)
theorem State.draw_engineOnly (s : State) (h w : Nat) : EngineOnly h s (s.draw w).2 := ⟨.base (.refl s), ⟨_, rfl⟩, rfl⟩

/-! ### Microwords (R167, R168, R171, R174) -/

theorem stairRaise_engineOnly (h : Nat) (l : List Nat) (s : State) : EngineOnly h s (stairRaise h l s) :=
  State.over_engineOnly (fun _ t => .report (State.raise_off (.refl t) ..) (State.raise_reports ..)) l s

theorem microFault_engineOnly (h addr mop : Nat) (s : State) : EngineOnly h s (microFault h addr mop s) := by
  have hlevel (u : State) : EngineOnly h u (u.raiseLevel (8 * h + 2) noDetail) :=
    .ite (.refl u) (.report (State.set1_off (State.raise_off (.refl u) ..) (.inr (.inl rfl)))
      ((State.set1_reports ..).after (State.raise_reports ..)))
  refine (hlevel _).after ?_
  have hset (u : State) : EngineOnly h u (u.set1 (F.UC_ENG.UFAULT h)) :=
    .report (State.set1_off (.refl u) (.inl rfl)) (State.set1_reports ..)
  exact (State.engP_engineOnly _ _ (.inl rfl)).after
    ((State.engP_engineOnly _ _ (.inl rfl)).after ((hset _).after (State.engP_engineOnly _ _ (.inl rfl))))

theorem modServed_engineOnly (h : Nat) (l : List Nat) (f : Member → Member) (s : State) : EngineOnly h s (modServed h l f s) :=
  State.modEng_engineOnly ..

theorem setReg_engineOnly (h : Nat) (l : List Nat) (dst : Nat) (lane : Bool) (fr : Nat) (f : MicroX → Member → UReg) (s : State) :
    EngineOnly h s (setReg h l dst lane fr f s) :=
  .ite (modServed_engineOnly ..) (State.modEng_engineOnly ..)

theorem endi_engineOnly (h : Nat) (l : List Nat) (addr next cause pc0 iw : Nat) (s : State) :
    EngineOnly h s (endi h l addr next cause pc0 iw s) :=
  (State.engP_engineOnly _ _ (.inl rfl)).after ((stairRaise_engineOnly ..).after (modServed_engineOnly ..))

/-- A journal record of JREC. -/
theorem State.j_engineOnly (s : State) (h a b c d e : Nat) : EngineOnly h s (s.j a b c d e) :=
  .report (State.j_off (.refl s) _ _ _ _ _ fun _ hj => .inr (.inr (.inr (.inr hj)))) (State.j_reports ..)

/-- A record of RREC, to one of the two result rings. -/
theorem State.ringPut_engineOnly (s : State) (h : Nat) {r : Nat} (hr : engineReg h (R.RR_STAT r)) (x : RingRec) :
    EngineOnly h s (s.ringPut r x) :=
  .report (State.ringPut_off (.refl s) x hr) (.ite ((State.ringFlags_reports ..).after ⟨_, _, _, _, _, _, _, _, rfl⟩) (.refl s))

/-- What the engine does next is no part of the state. -/
theorem EngineOnly.next {n : UNext} (k : EngineOnly h s t) : EngineOnly h s (n, t).2 := k

theorem microWord_engineOnly (h : Nat) (l : List Nat) (addr pc0 iw u : Nat) (s : State) :
    EngineOnly h s (microWord h l addr pc0 iw u s).2 := by
  unfold microWord
  dsimp only
  -- one goal for each microword, in the order of `microWord`
  split
  · exact .refl s
  · split
    · exact .refl s
    · exact endi_engineOnly ..
  · split
    · split <;> exact .refl s
    · exact .refl s
  · split
    · exact .refl s
    · exact .next (State.modEng_engineOnly ..)
  · split
    · exact .next (State.modEng_engineOnly ..)
    · exact .refl s
  · exact .next ((setReg_engineOnly ..).after (modServed_engineOnly ..))
  · exact .next (setReg_engineOnly ..)
  · exact .next (setReg_engineOnly ..)
  · exact .next ((setReg_engineOnly ..).after (State.draw_engineOnly s h 32))
  · exact .next (modServed_engineOnly ..)
  · exact .next (modServed_engineOnly ..)
  · exact .next (modServed_engineOnly ..)
  · exact .next (modServed_engineOnly ..)
  · exact .next (modServed_engineOnly ..)
  · exact .next ((State.modEng_engineOnly ..).after (modServed_engineOnly ..))
  · exact State.over_engineOnly (fun _ _ => State.j_engineOnly ..) ..
  · exact State.over_engineOnly (fun _ t => .ite (State.ringPut_engineOnly t h (.inr (.inr (.inr (.inl rfl)))) _)
      (State.ringPut_engineOnly t h (.inr (.inr (.inl rfl))) _)) ..
  · split
    · have hdraw := State.draw_engineOnly s h 34
      exact .next (.ite ((setReg_engineOnly ..).after hdraw) ((State.modEng_engineOnly ..).after ((setReg_engineOnly ..).after hdraw)))
    · exact .refl s

/-- Microwords run until the routine ends or the engine stops. -/
theorem microGo_engineOnly (h : Nat) (l : List Nat) (pc0 iw n addr : Nat) (s : State) :
    EngineOnly h s (microGo h l pc0 iw n addr s) := by
  induction n generalizing addr s with
  | zero =>
    unfold microGo
    split
    · exact (microFault_engineOnly ..).after (State.draw_engineOnly s h 6)
    · exact microFault_engineOnly ..
  | succ n ih =>
    unfold microGo
    split
    · exact (microFault_engineOnly ..).after (State.draw_engineOnly s h 6)
    · rename_i u _
      have hword := (microWord_engineOnly h l addr pc0 iw u.toNat _).after
        (State.modEng_engineOnly s h (fun e => { e with cycles := e.cycles + 1 }))
      dsimp only
      split <;> rename_i heq <;> rw [heq] at hword
      · exact (ih ..).after hword
      · exact hword
      · exact (microFault_engineOnly ..).after hword

theorem microRun_engineOnly (h : Nat) (l : List Nat) (entry pc0 iw : Nat) (s : State) : EngineOnly h s (microRun h l entry pc0 iw s) :=
  microGo_engineOnly ..

/-! ### Fetches (R123, R164) -/

theorem faultMembers_engineOnly (h cause : Nat) (p : Member → Bool) (s : State) : EngineOnly h s (faultMembers h cause p s) :=
  (stairRaise_engineOnly ..).after (State.modEng_engineOnly ..)

theorem settle_engineOnly (h n : Nat) (s : State) : EngineOnly h s (settle h n s) := by
  induction n generalizing s with
  | zero => exact .refl s
  | succ n ih =>
    unfold settle
    split
    · exact .refl s
    · dsimp only
      split
      · exact .refl s
      · split
        · exact (ih _).after ((State.engP_engineOnly _ _ (.inl rfl)).after
            ((faultMembers_engineOnly ..).after (State.modEng_engineOnly ..)))
        · exact (ih _).after (microRun_engineOnly ..)

end

end Sys2Proof.Machine
end

section
/-! PROOF. LOAD_STAIR (R126–R128), its end, and O25. -/
namespace Sys2Proof.Machine
-- One declaration after the other: elaborated side by side, they exceed the check's memory.
set_option Elab.async false

/-! ### Bytes of bulk memory -/

section
variable {s t : State}

theorem State.rdMem_congr (hm : t.mem = s.mem) (hs : t.scr = s.scr) (p a n : Nat) : t.rdMem p a n = s.rdMem p a n := by
  induction n generalizing a with
  | zero => rfl
  | succ n ih => rw [State.rdMem, State.rdMem, State.rdByte_congr hm hs, ih]
theorem State.rdBytes_congr (hm : t.mem = s.mem) (hs : t.scr = s.scr) (p a n : Nat) : t.rdBytes p a n = s.rdBytes p a n := by
  unfold State.rdBytes; simp only [State.rdByte_congr hm hs]

/-- Bytes written from an address on leave those before it. -/
theorem State.rdByte_wrBytes_before (s : State) (p : Nat) {a b : Nat} (l : List Nat) (hb : b < a) :
    (s.wrBytes p a l).rdByte p b = s.rdByte p b := by
  induction l generalizing s a with
  | nil => rfl
  | cons x l ih =>
    rw [State.wrBytes, ih _ (by omega), State.rdByte_wrByte_ne _ _ (by unfold memKey; omega)]

/-- Bytes written read back. -/
theorem State.rdByte_wrBytes (s : State) (p a : Nat) {l : List Nat} {j : Nat} (hj : j < l.length) :
    ((s.wrBytes p a l).rdByte p (a + j)).toNat = l.getD j 0 % 256 := by
  induction l generalizing s a j with
  | nil => exact absurd hj (Nat.not_lt_zero _)
  | cons x l ih =>
    cases j with
    | zero =>
      rw [State.wrBytes, State.rdByte_wrBytes_before _ _ _ (by omega), Nat.add_zero, State.rdByte_wrByte_same]
      exact BitVec.toNat_ofNat ..
    | succ j =>
      have hw := ih (s.wrByte p a (BitVec.ofNat 8 x)) (a + 1) (Nat.lt_of_succ_lt_succ hj)
      rw [Nat.add_assoc, Nat.add_comm 1 j] at hw
      exact hw

end

/-! ### The reference sets of loops (R128) -/

section
variable {s t z : State} {h : Nat}

/-- The overflow count reads the store and the reference sets. -/
theorem State.loopOvf_congr (hm : t.mem = s.mem) (hs : t.scr = s.scr) (hl : (t.hl h).loopRefs = (s.hl h).loopRefs) :
    t.loopOvf h = s.loopOvf h := by
  simp only [State.loopOvf, State.loops, State.listedInstrs, State.instr, hm, State.rdMem_congr hm hs, hl]

/-- Nothing has changed but the reference sets of hall `h` and LOOP_REF_OVF. -/
structure LoopRefsOnly (h : Nat) (s t : State) : Prop where
  regs : Off (· = R.LAND_STAT h) s t
  rest : ∃ regs fresh halls, t = { s with regs := regs, fresh := fresh, halls := halls }
  loading : (t.hl h).loading = (s.hl h).loading

theorem LoopRefsOnly.refl (s : State) : LoopRefsOnly h s s := ⟨.refl s, ⟨_, _, _, rfl⟩, rfl⟩
theorem LoopRefsOnly.after (ht : LoopRefsOnly h s t) (hs : LoopRefsOnly h z s) : LoopRefsOnly h z t := by
  obtain ⟨rs, ⟨_, _, _, rfl⟩, ls⟩ := hs
  obtain ⟨rt, ⟨_, _, _, rfl⟩, lt⟩ := ht
  exact ⟨rt.after rs, ⟨_, _, _, rfl⟩, lt.trans ls⟩
theorem LoopRefsOnly.mem (k : LoopRefsOnly h s t) : t.mem = s.mem := by obtain ⟨_, _, _, rfl⟩ := k.rest; rfl
theorem LoopRefsOnly.scr (k : LoopRefsOnly h s t) : t.scr = s.scr := by obtain ⟨_, _, _, rfl⟩ := k.rest; rfl
theorem LoopRefsOnly.queues (k : LoopRefsOnly h s t) : t.queues = s.queues := by obtain ⟨_, _, _, rfl⟩ := k.rest; rfl

theorem loopRefSets_only (h start count : Nat) (s : State) : LoopRefsOnly h s (loopRefSets h start count s) := by
  unfold loopRefSets State.when
  have hset (t : State) : LoopRefsOnly h t (t.set1 (F.LAND_STAT.LOOP_REF_OVF h)) :=
    ⟨State.set1_off (.refl t) rfl, ⟨_, _, _, rfl⟩, rfl⟩
  have href (t : State) (a : Nat) (l : List Nat) : LoopRefsOnly h t (t.modHl h (fun x => { x with
      loopRefs := tabSet (fun _ => []) x.loopRefs a l })) :=
    ⟨.base (.refl t), ⟨_, _, _, rfl⟩, by rw [State.modHl, State.hl_setHl]⟩
  have hall := State.over_inv (I := LoopRefsOnly h s) (l := (s.loops h).filter
    (fun l => l.1 + 1 ≤ l.2 && l.1 + 1 < start + count && start ≤ l.2)) (.refl s) fun l t => (href t l.1 (s.bodyFlights h l.1 l.2)).after
  dsimp only
  split
  · exact (hset _).after hall
  · exact hall

end

/-! ### Seals (R123, R127) -/

/-- The pages of a range as a mask of SEALED. -/
def pageMask (start count : Nat) : Nat := (pagesOf start count).foldl (fun m p => m ||| 1 <<< p) 0

theorem foldl_bits_lt {l : List Nat} {n m : Nat} (hl : ∀ p ∈ l, p < n) (hm : m < 2 ^ n) : l.foldl (fun m p => m ||| 1 <<< p) m < 2 ^ n := by
  induction l generalizing m with
  | nil => exact hm
  | cons p l ih =>
    have hp : 1 <<< p < 2 ^ n := by
      rw [Nat.one_shiftLeft]
      exact Nat.pow_lt_pow_right (by decide) (hl p (List.mem_cons_self ..))
    exact ih (fun x hx => hl x (List.mem_cons_of_mem _ hx)) (Nat.or_lt_two_pow hm hp)

/-- A store has 16 pages. -/
theorem pageMask_lt (start count : Nat) : pageMask start count < 2 ^ 16 :=
  foldl_bits_lt (fun _ hp => List.mem_range.mp (List.mem_filter.mp hp).1) (by decide)

/-- The state with the range sealed and the reference sets taken, before the completion. -/
def stairSealed (h start count : Nat) (s : State) : State :=
  loopRefSets h start count (s.p (F.STAIR_STAT.SEALED h) (s.g (F.STAIR_STAT.SEALED h) ||| pageMask start count))

section
variable {s : State} {h st c : Nat}

theorem stairSeal_eq (d : Nat) : stairSeal h st c d s = (stairSealed h st c s).complete d .ok (loadStairRes st 0 0
    (crc32 ((stairSealed h st c s).rdBytes (stairPort h) (8 * st) (8 * c))) ((stairSealed h st c s).loopOvf h)) := rfl

theorem stairSealed_sealed : (stairSealed h st c s).g (F.STAIR_STAT.SEALED h) = s.g (F.STAIR_STAT.SEALED h) ||| pageMask st c := by
  unfold stairSealed
  rw [(loopRefSets_only ..).regs.g _ (by simp [F.STAIR_STAT.SEALED, R.STAIR_STAT, R.LAND_STAT]),
    State.g_p_same _ _ _ (Nat.le_of_ble_eq_true rfl)]
  exact Nat.mod_eq_of_lt (Nat.or_lt_two_pow (State.g_lt s (F.STAIR_STAT.SEALED h)) (pageMask_lt st c))
theorem stairSealed_mem : (stairSealed h st c s).mem = s.mem := (loopRefSets_only ..).mem
theorem stairSealed_scr : (stairSealed h st c s).scr = s.scr := (loopRefSets_only ..).scr
theorem stairSealed_queues : (stairSealed h st c s).queues = s.queues := (loopRefSets_only ..).queues
theorem stairSealed_loading : ((stairSealed h st c s).hl h).loading = (s.hl h).loading := (loopRefSets_only ..).loading

end

/-! ### What a completion leaves of the store and the halls -/

section
variable (t : State) (d : Nat) (st : Status) (res : List (Nat × Nat × Nat))

@[simp] theorem State.complete_hl (h : Nat) : (t.complete d st res).hl h = t.hl h := by
  obtain ⟨_, _, h⟩ := t.complete_leaves d st res; rw [h]; rfl
@[simp] theorem State.complete_scr : (t.complete d st res).scr = t.scr := by
  obtain ⟨_, _, h⟩ := t.complete_leaves d st res; rw [h]
@[simp] theorem State.complete_loopOvf (h : Nat) : (t.complete d st res).loopOvf h = t.loopOvf h :=
  State.loopOvf_congr (by simp) (by simp) (by simp)

end

/-! ### LOAD_STAIR -/

/-- A LOAD_STAIR of mode `m` for `c` instructions from `st` on in hall `h` that passes every check of R126. -/
structure StairForm (s : State) (r : DescRun) (h st c m : Nat) : Prop where
  unit : dUnit r.desc = h
  start : dsc r.desc 20 2 = st
  count : dscBits r.desc 24 0 17 = c
  mode : dscBits r.desc 22 0 1 = m
  present : h < s.part.halls
  rsvMode : dscBits r.desc 22 1 7 = 0
  rsvByte : dsc r.desc 23 1 = 0
  rsvCount : dscBits r.desc 24 17 15 = 0
  rsvTail : dscZeroFrom r.desc 28 = true
  nonempty : c ≠ 0
  fits : st + c ≤ 65536
  owned : r.owns h = true
  free : (pagesOf st c).any (s.pageLocked h) = false

section
variable {s : State} {q h st c m : Nat} {r : DescRun}

theorem StairForm.acted (hf : StairForm s r h st c m) : StairForm (s.setActed q r.did) { r with acted := true } h st c m :=
  ⟨hf.unit, hf.start, hf.count, hf.mode, hf.present, hf.rsvMode, hf.rsvByte, hf.rsvCount, hf.rsvTail, hf.nonempty, hf.fits, hf.owned, hf.free⟩

/-- No page of the range is locked (R124). -/
theorem StairForm.unlocked (hf : StairForm s r h st c m) : (pagesOf st c).find? (s.pageLocked h) = none := by
  have hfree := hf.free
  rw [List.any_eq_false] at hfree
  exact List.find?_eq_none.mpr hfree

theorem StairForm.not_beyond (hf : StairForm s r h st c m) : ¬ 31 < h := by
  have hp := hf.present
  have hle := Part_halls_le s.part
  omega

/-- The state in which the copy `d` is in loading and asks for its `n` bytes of host memory from `a` on. -/
def stairAsked (h d st c a n : Nat) (s : State) : State :=
  (s.modHl h (fun x => { x with loading := x.loading ++ [(d, st, c)] })).send (.hostRead a n)

section
variable {d a n : Nat}
theorem stairAsked_out : (stairAsked h d st c a n s).out = s.out ++ [.hostRead a n] := rfl
theorem stairAsked_regs : (stairAsked h d st c a n s).regs = s.regs := rfl
theorem stairAsked_mem : (stairAsked h d st c a n s).mem = s.mem := rfl
theorem stairAsked_queue (k : Nat) : (stairAsked h d st c a n s).queue k = s.queue k := rfl
theorem stairAsked_loading : ((stairAsked h d st c a n s).hl h).loading = (s.hl h).loading ++ [(d, st, c)] :=
  congrArg HallX.loading (State.hl_setHl ..)
end

/-- MODE 0: the range is in loading, and the host memory named is read. -/
theorem loadStair_copy (hf : StairForm s r h st c 0) (ha : dAddr r.desc % 8 = 0) (hl : dLen r.desc = 8 * c) : loadStair q r s =
    stairAsked h r.did st c (dAddr r.desc) (dLen r.desc) s := by
  simp [stairAsked, loadStair, hf.unit, hf.start, hf.count, hf.mode, hf.rsvMode, hf.rsvByte, hf.rsvCount, hf.rsvTail, hf.owned,
    hf.unlocked, hf.nonempty, State.hallOk_of_lt hf.present, hf.not_beyond, Nat.not_lt.mpr hf.fits, ha, hl]

/-- MODE 1: the range is sealed. -/
theorem loadStair_seal (hf : StairForm s r h st c 1) (hl : dLen r.desc = 0) : loadStair q r s = stairSeal h st c r.did s := by
  simp [loadStair, hf.unit, hf.start, hf.count, hf.mode, hf.rsvMode, hf.rsvByte, hf.rsvCount, hf.rsvTail, hf.owned, hf.unlocked, hf.nonempty,
    State.hallOk_of_lt hf.present, hf.not_beyond, Nat.not_lt.mpr hf.fits, hl]

theorem exec_loadStair (hx : Executes s q 3 false r) :
    exec (.loadStair q) s = .next (loadStair q { r with acted := true } (s.setActed q r.did)) :=
  congrArg Host.Outcome.next (State.withDesc_executes hx _)

/-- The descriptor that a queue executes counts as acted on there. -/
theorem State.setActed_run (hrun : (s.queue q).run = some r) : ((s.setActed q r.did).queue q).run = some { r with acted := true } := by
  refine (congrArg QueueX.run (tabGet_set_same _ _ _ _)).trans ?_
  simp [hrun]

theorem exec_loadStair_copy (hx : Executes s q 3 false r) (hf : StairForm s r h st c 0) (ha : dAddr r.desc % 8 = 0)
    (hl : dLen r.desc = 8 * c) : ∃ t, exec (.loadStair q) s = .next t ∧ t.out = s.out ++ [.hostRead (dAddr r.desc) (dLen r.desc)] ∧
      t.regs = s.regs ∧ t.mem = s.mem ∧ (r.did, st, c) ∈ (t.hl h).loading ∧ (t.queue q).run = some { r with acted := true } := by
  rw [exec_loadStair hx, loadStair_copy hf.acted ha hl]
  refine ⟨_, rfl, stairAsked_out, stairAsked_regs, stairAsked_mem, ?_, ?_⟩
  · rw [stairAsked_loading]
    exact List.mem_append_right _ (List.mem_singleton_self _)
  · rw [stairAsked_queue, State.setActed_run hx.1]

theorem exec_loadStair_seal (hx : Executes s q 3 false r) (hf : StairForm s r h st c 1) (hl : dLen r.desc = 0) :
    ∃ t, exec (.loadStair q) s = .next t ∧ t.g (F.STAIR_STAT.SEALED h) = s.g (F.STAIR_STAT.SEALED h) ||| pageMask st c ∧
      t.mem = s.mem ∧ Completed t q r .ok (loadStairRes st 0 0 (crc32 (s.rdBytes (stairPort h) (8 * st) (8 * c))) (t.loopOvf h)) := by
  have hbytes : (stairSealed h st c (s.setActed q r.did)).rdBytes (stairPort h) (8 * st) (8 * c) =
      s.rdBytes (stairPort h) (8 * st) (8 * c) := State.rdBytes_congr (stairSealed_mem (s := s.setActed q r.did)) stairSealed_scr ..
  rw [exec_loadStair hx, loadStair_seal hf.acted hl, stairSeal_eq, hbytes]
  refine ⟨_, rfl, ?_, (State.complete_mem ..).trans stairSealed_mem, ?_⟩
  · rw [State.complete_g, stairSealed_sealed]; rfl
  · rw [State.complete_loopOvf]
    exact State.complete_completed hx stairSealed_queues ..

/-! ### The end of a copy -/

theorem State.withActed_executes {op : Nat} (h : Executes s q op true r) (f : DescRun → State → State) : s.withActed q op f = f r s := by
  obtain ⟨hrun, hacted, hop, -⟩ := h
  have hfits : (r.acted == true && dOpcode r.desc == op) = true := by simp [hacted, hop]
  simp only [State.withActed, State.findRun, hrun, Option.filter_some, hfits, if_true]

theorem exec_loadStairDone (hx : Executes s q 3 true r) (ok : Bool) (data : List Nat) :
    exec (.loadStairDone q ok data) s = .next (loadStairDone ok data r s) :=
  congrArg Host.Outcome.next (State.withActed_executes hx _)

/-- The state in which the copy is no longer in loading. -/
def stairLanded (h : Nat) (s : State) : State := s.modHl h (fun x => { x with loading := [] })

theorem stairLanded_loading : ((stairLanded h s).hl h).loading = [] := by rw [stairLanded, State.modHl, State.hl_setHl]
theorem stairLanded_loopOvf : (stairLanded h s).loopOvf h = s.loopOvf h :=
  State.loopOvf_congr rfl rfl (by rw [stairLanded, State.modHl, State.hl_setHl])

theorem loadStairDone_fails (hu : dUnit r.desc = h) (hload : (s.hl h).loading = [(r.did, st, c)]) (data : List Nat) :
    loadStairDone false data r s =
      (stairLanded h s).complete r.did .faulted (loadStairRes st 1 0 0 ((stairLanded h s).loopOvf h)) := by
  simp [loadStairDone, stairLanded, State.modHl, hu, hload]

theorem loadStairDone_stores {data : List Nat} (hu : dUnit r.desc = h) (hload : (s.hl h).loading = [(r.did, st, c)])
    (hl : data.length = 8 * c) : loadStairDone true data r s =
      settle h 97 (stairSeal h st c r.did ((stairLanded h s).wrBytes (stairPort h) (8 * st) data)) := by
  simp [loadStairDone, stairLanded, State.modHl, hu, hload, hl]

theorem exec_loadStairDone_fails (hx : Executes s q 3 true r) (hu : dUnit r.desc = h) (hload : (s.hl h).loading = [(r.did, st, c)])
    (data : List Nat) : ∃ t, exec (.loadStairDone q false data) s = .next t ∧ t.mem = s.mem ∧ t.regs = s.regs ∧
      (t.hl h).loading = [] ∧ Completed t q r .faulted (loadStairRes st 1 0 0 (s.loopOvf h)) := by
  rw [exec_loadStairDone hx, loadStairDone_fails hu hload, stairLanded_loopOvf]
  refine ⟨_, rfl, State.complete_mem .., State.complete_regs .., ?_, State.complete_running (t := stairLanded h s) rfl hx.2.2.2 hx.1 ..⟩
  rw [State.complete_hl, stairLanded_loading]

/-- A completed descriptor stays so while its queue does. -/
theorem completed_congr {t u : State} {x : Status} {res : List (Nat × Nat × Nat)} (hq : u.queues = t.queues) (h : Completed t q r x res) :
    Completed u q r x res := by
  have hk : u.queue q = t.queue q := by unfold State.queue; rw [hq]
  rw [Completed, hk]
  exact h

theorem exec_loadStairDone_stores {data : List Nat} {j : Nat} (hx : Executes s q 3 true r) (hu : dUnit r.desc = h) (hh : h < 32)
    (hload : (s.hl h).loading = [(r.did, st, c)]) (hl : data.length = 8 * c) (hj : j < 8 * c) :
    ∃ t, exec (.loadStairDone q true data) s = .next t ∧ (t.rdByte (stairPort h) (8 * st + j)).toNat = data.getD j 0 % 256 ∧
      t.g (F.STAIR_STAT.SEALED h) = s.g (F.STAIR_STAT.SEALED h) ||| pageMask st c ∧ (t.hl h).loading = [] ∧
      Completed t q r .ok (loadStairRes st 0 0 (crc32 (t.rdBytes (stairPort h) (8 * st) (8 * c))) (t.loopOvf h)) := by
  obtain ⟨mem, hw⟩ := (stairLanded h s).wrBytes_leaves (stairPort h) (8 * st) data
  have hread : ((({ stairLanded h s with mem := mem } : State).rdByte (stairPort h) (8 * st + j))).toNat = data.getD j 0 % 256 := by
    rw [← hw, State.rdByte_wrBytes _ _ _ (hl ▸ hj)]
  rw [exec_loadStairDone hx, loadStairDone_stores hu hload hl, hw, stairSeal_eq]
  generalize hz : ({ stairLanded h s with mem := mem } : State) = z at hread
  -- from here on the copy has landed in `z`, the range is sealed, the descriptor completes, and the engine fetches again
  generalize hy : (stairSealed h st c z).complete r.did _ _ = y
  have hymem : y.mem = (stairSealed h st c z).mem := hy ▸ State.complete_mem ..
  have hyscr : y.scr = (stairSealed h st c z).scr := hy ▸ State.complete_scr ..
  have hyhl : y.hl h = (stairSealed h st c z).hl h := hy ▸ State.complete_hl ..
  have hsame := settle_same (.refl y) h 97
  have honly := settle_engineOnly h 97 y
  have hmem := hsame.mem.trans hymem
  have hscr := hsame.scr.trans hyscr
  refine ⟨_, rfl, ?_, ?_, ?_, ?_⟩
  · rw [State.rdByte_congr (hmem.trans stairSealed_mem) (hscr.trans stairSealed_scr), hread]
  · rw [honly.regs.g _ (not_engineReg_hall (by simp only [F.STAIR_STAT.SEALED, R.STAIR_STAT]; omega)
      (by simp only [F.STAIR_STAT.SEALED, R.STAIR_STAT]; omega)), ← hy, State.complete_g, stairSealed_sealed, ← hz]
    rfl
  · rw [honly.loading, hyhl, stairSealed_loading, ← hz]
    exact stairLanded_loading
  · rw [State.rdBytes_congr hmem hscr, State.loopOvf_congr hmem hscr (honly.loopRefs.trans (by rw [hyhl]))]
    refine completed_congr honly.queues ?_
    rw [← hy]
    exact State.complete_running (stairSealed_queues.trans (by rw [← hz]; rfl)) hx.2.2.2 hx.1 ..

end

/-- Settles O25: a copy and a seal by the equations of LOAD_STAIR, and the end of a copy with what the fetch behind it leaves. -/
theorem stairLoads : Obligations.StairLoads :=
  ⟨fun _ _ _ hx hh hmode hbyte hcount hz hc hfit hown hfree hm ha hl =>
      exec_loadStair_copy hx ⟨rfl, rfl, rfl, hm, hh, hmode, hbyte, hcount, hz, hc, hfit, hown, hfree⟩ ha hl,
    fun _ _ _ hx hh hmode hbyte hcount hz hc hfit hown hfree hm hl =>
      exec_loadStair_seal hx ⟨rfl, rfl, rfl, hm, hh, hmode, hbyte, hcount, hz, hc, hfit, hown, hfree⟩ hl,
    fun _ _ _ _ _ _ _ hx hh hload hl _ hj => exec_loadStairDone_stores hx rfl hh hload hl hj,
    fun _ _ _ _ data _ hx _ hload => exec_loadStairDone_fails hx rfl hload data⟩

end Sys2Proof.Machine
end

section
/-! PROOF. Segments that run on at a landing (R140, R150, R151, R200), and the re-samples and the timeout of a BRW. -/
namespace Sys2Proof.Machine
-- One declaration after the other: elaborated side by side, they exceed the check's memory.
set_option Elab.async false

/-! ### The registers of a wait -/

/-- The registers of hall `h` in which a wait at a landing shows, and those of the journal. -/
def waitReg (h a : Nat) : Prop := a = R.COND_SNAP h ∨ a = R.LAND_STAT h ∨ holdTreadReg h a ∨ a = R.UC_ENG h ∨ jnlReg a

section
variable {s t : State} {h : Nat}

/-- In the block of the hall, the registers from STAIR_STAT on are none of them. -/
theorem not_waitReg {a : Nat} (hh : h < 32) (h1 : R.STAIR_STAT h ≤ a) (h2 : a < 0x110000 + 0x10000 * h) : ¬ waitReg h a := by
  simp only [R.STAIR_STAT] at h1
  simp only [waitReg, holdTreadReg, jnlReg, R.COND_SNAP, R.LAND_STAT, R.SEG_HOLD_CNT, R.STALL_CNT, R.STALL_RUN, R.UC_ENG, R.JNL_STAT,
    R.JNL_SEQ, R.JNL_DROP, R.RR_STAT]
  omega

theorem Off.waitSealed (k : Off (waitReg h) s t) (hh : h < 32) : t.g (F.STAIR_STAT.SEALED h) = s.g (F.STAIR_STAT.SEALED h) :=
  k.g _ (not_waitReg hh (Nat.le_refl _) (by simp only [F.STAIR_STAT.SEALED, R.STAIR_STAT]; omega))
theorem Off.waitAlcSt (k : Off (waitReg h) s t) (hh : h < 32) {i : Nat} (hi : i < 96) : t.alcSt h i = s.alcSt h i :=
  k.g _ (not_waitReg hh (by simp only [F.ALC_STATE.STATE, R.ALC_STATE, R.STAIR_STAT]; omega)
    (by simp only [F.ALC_STATE.STATE, R.ALC_STATE]; omega))
theorem Off.waitLives (k : Off (waitReg h) s t) (hh : h < 32) : t.lives h = s.lives h :=
  List.filter_congr fun _ hi => by rw [k.waitAlcSt hh (List.mem_range.mp hi)]

theorem Reports.alcs (k : Reports s t) : t.alcs = s.alcs := by obtain ⟨_, _, _, _, _, _, _, _, rfl⟩ := k; rfl
theorem State.alc_congr (k : t.alcs = s.alcs) (h i : Nat) : t.alc h i = s.alc h i := by unfold State.alc; rw [k]

@[simp] theorem State.hl_modHl (s : State) (h : Nat) (f : HallX → HallX) : (s.modHl h f).hl h = f (s.hl h) := State.hl_setHl ..

/-! ### Members run on -/

/-- The member of alcove `m.i` runs on at an address, with the context committed. -/
def Member.runsOn (m : Member) (c : StairCtx) (pc : Nat) : Member :=
  { m with st := .run, n := 0, term := .none, ctx := { c with pc := pc % 65536 } }

/-- The engine runs the segment of one alcove, from its first instruction. -/
structure RunsAlone (h i : Nat) (c : StairCtx) (t : State) : Prop where
  run : (t.hl h).eng.run = true
  state : t.g (F.UC_ENG.STATE h) = 1
  member : ∃ m, (t.hl h).eng.members = [m] ∧ m.i = i ∧ m.ctx = c ∧ m.st = .run ∧ m.n = 0

/-- A page of a store with every page sealed. -/
theorem State.sealed_all {p : Nat} (hs : s.g (F.STAIR_STAT.SEALED h) = 0xFFFF) (hp : p < 16) : s.sealed h p = true := by
  have hbits : ∀ p < 16, natBits 0xFFFF p 1 = 1 := by decide
  rw [State.sealed, hs, hbits p hp, BEq.rfl]

/-- Where every page is sealed, the cohort that an engine serves next is fetched without a fault (R123). -/
theorem settle_sealed {m : Member} (n : Nat) (hm : (s.hl h).eng.front = some m) (hpc : m.ctx.pc < 65536)
    (hs : s.g (F.STAIR_STAT.SEALED h) = 0xFFFF) : settle h n s = s := by
  cases n with
  | zero => rfl
  | succ n =>
    have hpage : s.sealed h (m.ctx.pc / 4096) = true := State.sealed_all hs (by omega)
    unfold settle
    simp only [hm, hpage, Bool.true_or, if_true]

/-- What segments that run on leave: the hold, the alcoves, and the registers but the engine's. -/
structure RunOnLeaves (h : Nat) (s t : State) : Prop where
  regs : Off (· = R.UC_ENG h) s t
  hold : (t.hl h).hold = (s.hl h).hold
  alcs : t.alcs = s.alcs

/-- The state that `runOn` settles. -/
def engineRunsOn (h cycles : Nat) (go : Nat → Option Nat) (s : State) : State :=
  (s.modEng h (fun e => { e with
    run := true, action := none, cycles := e.cycles + cycles
    members := e.members.map (fun m => match go m.i with | some pc => m.runsOn (s.alc h m.i).ctx pc | none => m) })).p
      (F.UC_ENG.STATE h) 1

theorem runOn_eq (h cycles : Nat) (go : Nat → Option Nat) (s : State) : runOn h cycles go s = settle h 97 (engineRunsOn h cycles go s) :=
  rfl

theorem engineRunsOn_leaves (h cycles : Nat) (go : Nat → Option Nat) (s : State) : RunOnLeaves h s (engineRunsOn h cycles go s) := by
  refine ⟨State.p_off (.base (.refl s)) _ rfl, ?_, rfl⟩
  rw [engineRunsOn, (State.p_reports ..).hl, State.modEng, State.hl_modHl]

theorem engineRunsOn_alone {m : Member} {pc : Nat} {go : Nat → Option Nat} (cycles : Nat) (hm : (s.hl h).eng.members = [m])
    (hgo : go m.i = some pc) : ((engineRunsOn h cycles go s).hl h).eng.run = true ∧
      ((engineRunsOn h cycles go s).hl h).eng.members = [m.runsOn (s.alc h m.i).ctx pc] := by
  rw [engineRunsOn, (State.p_reports ..).hl, State.modEng, State.hl_modHl]
  simp [hm, hgo]

/-- The engine runs on with its one member. -/
theorem runOn_alone {m : Member} {pc : Nat} {go : Nat → Option Nat} (cycles : Nat) (hm : (s.hl h).eng.members = [m])
    (hgo : go m.i = some pc) (hs : s.g (F.STAIR_STAT.SEALED h) = 0xFFFF) :
    RunsAlone h m.i { (s.alc h m.i).ctx with pc := pc % 65536 } (runOn h cycles go s) ∧ RunOnLeaves h s (runOn h cycles go s) := by
  obtain ⟨hrun, hmember⟩ := engineRunsOn_alone cycles hm hgo
  have hleaves := engineRunsOn_leaves h cycles go s
  have hfront : ((engineRunsOn h cycles go s).hl h).eng.front = some (m.runsOn (s.alc h m.i).ctx pc) := by
    rw [EngX.front, hmember]
    rfl
  have hsealed : (engineRunsOn h cycles go s).g (F.STAIR_STAT.SEALED h) = 0xFFFF :=
    (hleaves.regs.g _ (by simp only [F.STAIR_STAT.SEALED, R.STAIR_STAT, R.UC_ENG]; omega)).trans hs
  rw [runOn_eq, settle_sealed 97 hfront (Nat.mod_lt _ (by decide)) hsealed]
  exact ⟨⟨hrun, State.g_p_same _ _ _ (Nat.le_of_ble_eq_true rfl), _, hmember, rfl, rfl, rfl, rfl⟩, hleaves⟩

/-! ### Holds -/

/-- A wait shows in WAITING alone. -/
theorem waitStat_off (h : Nat) (s : State) : Off (· = R.LAND_STAT h) s (waitStat h s) := State.pb_off (.refl s) _ rfl
theorem waitStat_reports (h : Nat) (s : State) : Reports s (waitStat h s) := State.p_reports ..
theorem waitStat_segHold (h : Nat) (s : State) : (waitStat h s).is (F.LAND_STAT.SEG_HOLD h) = s.is (F.LAND_STAT.SEG_HOLD h) :=
  State.is_p_field _ _ rfl

/-- The first tread of a hold counts treads, in the counters of holds and in the hold. -/
theorem holdTread_hl (h : Nat) (s : State) : ∃ n, (holdTread h s).hl h = { s.hl h with hold := { (s.hl h).hold with segTreads := n } } := by
  unfold holdTread State.when
  extract_lets x s1
  have h1 : ∃ n, s1.hl h = { s.hl h with hold := { (s.hl h).hold with segTreads := n } } := by
    unfold s1
    split
    · exact ⟨_, (State.hl_modHl ..).trans (by rw [(State.count_reports ..).hl])⟩
    · exact ⟨_, rfl⟩
  split
  · rw [((State.p_reports ..).after (State.count_reports ..)).hl]
    exact h1
  · exact h1
theorem holdTread_alcs (h : Nat) (s : State) : (holdTread h s).alcs = s.alcs := by
  unfold holdTread State.when
  extract_lets x s1
  have h1 : s1.alcs = s.alcs := by
    unfold s1
    split
    · exact (State.count_reports ..).alcs
    · rfl
  split
  · exact ((State.p_reports ..).after (State.count_reports ..)).alcs.trans h1
  · exact h1

theorem holdFirst_hl (h : Nat) (s : State) : ∃ n, (holdFirst h s).hl h = { s.hl h with hold := { (s.hl h).hold with segTreads := n } } := by
  unfold holdFirst State.when
  split
  · exact holdTread_hl h s
  · exact ⟨_, rfl⟩
theorem holdFirst_alcs (h : Nat) (s : State) : (holdFirst h s).alcs = s.alcs := by
  unfold holdFirst State.when
  split
  · exact holdTread_alcs h s
  · rfl
theorem holdFirst_off (h : Nat) (s : State) : Off (holdTreadReg h) s (holdFirst h s) := State.when_off (holdTread_off h) (.refl s)

/-! ### An alcove leaves its BRW (R140, R150) -/

/-- The hall holds in a segment hold for the decision of the alcove that has left its BRW. -/
structure HoldsForSegment (h : Nat) (s t : State) : Prop where
  brw : (t.hl h).hold.brw = false
  seg : (t.hl h).hold.seg = true
  brwFrom : (t.hl h).hold.brwFrom = (s.hl h).hold.brwFrom
  shown : t.is (F.LAND_STAT.SEG_HOLD h) = true
  alcs : t.alcs = s.alcs

/-- The hall no longer waits at the BRW but in a segment hold. -/
def brwFreed (h : Nat) (s : State) : State := s.modHl h (fun x => { x with
  hold := { x.hold with dec := false, seg := true, brw := false }
  eng := if x.eng.run then x.eng else { x.eng with cycles := 1 } })

/-- The flags and counters follow. -/
def brwHeld (h : Nat) (s : State) : State := waitStat h (holdFirst h ((brwFreed h s).set1 (F.LAND_STAT.SEG_HOLD h)))

/-- Where the pacing alcove leaves, the hall holds for its decision. -/
theorem brwLeave_pacing {i pc : Nat} (hl : s.lives h = [i]) :
    brwLeave h [(i, pc)] s = runOn h 0 (fun k => if i = k then some pc else none) (brwHeld h s) := by
  simp [brwLeave, hl, brwHeld, brwFreed]

theorem brwFreed_eng (h : Nat) (s : State) : ((brwFreed h s).hl h).eng.members = (s.hl h).eng.members := by
  rw [brwFreed, State.hl_modHl]
  dsimp only
  split <;> rfl

theorem brwHeld_hl (h : Nat) (s : State) :
    ∃ n, (brwHeld h s).hl h = { (brwFreed h s).hl h with hold := { ((brwFreed h s).hl h).hold with segTreads := n } } := by
  obtain ⟨n, hn⟩ := holdFirst_hl h ((brwFreed h s).set1 (F.LAND_STAT.SEG_HOLD h))
  rw [(State.set1_reports ..).hl] at hn
  exact ⟨n, ((waitStat_reports ..).hl h).trans hn⟩
theorem brwHeld_alcs (h : Nat) (s : State) : (brwHeld h s).alcs = s.alcs := by
  rw [brwHeld, (waitStat_reports ..).alcs, holdFirst_alcs, (State.set1_reports ..).alcs]
  rfl
theorem brwHeld_off (h : Nat) (s : State) : Off (waitReg h) s (brwHeld h s) := by
  have hset : Off (waitReg h) s ((brwFreed h s).set1 (F.LAND_STAT.SEG_HOLD h)) :=
    State.set1_off (.base (.refl s)) (.inr (.inl rfl))
  have hfirst := ((holdFirst_off h ((brwFreed h s).set1 (F.LAND_STAT.SEG_HOLD h))).mono (Q := waitReg h)
    fun _ ha => .inr (.inr (.inl ha))).after hset
  exact ((waitStat_off h _).mono (Q := waitReg h) fun _ ha => .inr (.inl ha)).after hfirst
theorem brwHeld_segHold (h : Nat) (s : State) : (brwHeld h s).is (F.LAND_STAT.SEG_HOLD h) = true := by
  have hreg : ¬ holdTreadReg h (F.LAND_STAT.SEG_HOLD h).addr := by
    simp only [holdTreadReg, F.LAND_STAT.SEG_HOLD, R.LAND_STAT, R.SEG_HOLD_CNT, R.STALL_CNT, R.STALL_RUN]
    omega
  rw [brwHeld, waitStat_segHold, (holdFirst_off ..).is _ hreg, State.set1_is, State.is_p_same _ _ _ rfl]
  rfl

/-- The one LIVE alcove, which waits, leaves for an address. -/
theorem brwLeave_alone {i pc : Nat} {m : Member} (hh : h < 32) (hl : s.lives h = [i]) (hm : (s.hl h).eng.members = [m]) (hi : m.i = i)
    (hs : s.g (F.STAIR_STAT.SEALED h) = 0xFFFF) :
    RunsAlone h i { (s.alc h i).ctx with pc := pc % 65536 } (brwLeave h [(i, pc)] s) ∧
      HoldsForSegment h s (brwLeave h [(i, pc)] s) := by
  subst hi
  obtain ⟨n, hn⟩ := brwHeld_hl h s
  have hm' : ((brwHeld h s).hl h).eng.members = [m] := by
    rw [hn, ← hm]
    exact brwFreed_eng h s
  have hfreed : (brwFreed h s).hl h = _ := State.hl_modHl ..
  obtain ⟨hrun, hleaves⟩ := runOn_alone (go := fun k => if m.i = k then some pc else none) 0 hm' (if_pos rfl)
    (((brwHeld_off h s).waitSealed hh).trans hs)
  rw [State.alc_congr (brwHeld_alcs h s)] at hrun
  rw [brwLeave_pacing hl]
  refine ⟨hrun, ?_, ?_, ?_, ?_, hleaves.alcs.trans (brwHeld_alcs h s)⟩
  · rw [hleaves.hold, hn, hfreed]
  · rw [hleaves.hold, hn, hfreed]
  · rw [hleaves.hold, hn, hfreed]
  · rw [hleaves.regs.is (F.LAND_STAT.SEG_HOLD h) (by simp only [F.LAND_STAT.SEG_HOLD, R.LAND_STAT, R.UC_ENG]; omega), brwHeld_segHold]

/-! ### Re-samples (R150) -/

theorem flushDefer_reports (h : Nat) (s : State) : Reports s (flushDefer h s) :=
  (State.over_reports (fun _ t => State.jput_reports t _) _ _).after ⟨_, _, _, _, _, _, _, _, rfl⟩
theorem flushDefer_off (h : Nat) (s : State) : Off jnlReg s (flushDefer h s) :=
  State.over_off (fun _ t => State.jput_off (.refl t) _ fun _ => id) (.base (.refl s))

/-- A snapshot or re-sample changes of the hall only what the engine keeps of it. -/
theorem snapRecord_hl (h typ : Nat) (words : List (Nat × Nat)) (s : State) :
    ∃ sn cyc hev, (snapRecord h typ words s).hl h = { s.hl h with
      eng := { (s.hl h).eng with snap := sn, snapCyc := cyc, hev := hev } } := by
  have hcond : Reports s (if words.isEmpty then s else
      s.p (F.COND_SNAP.COND h) ((words.headD (0, 0)).2 ||| czBits (s.alc h (words.headD (0, 0)).1).ctx)) :=
    .ite (.refl s) (State.p_reports ..)
  refine ⟨s.hallCond h, s.cyc, 0, ?_⟩
  unfold snapRecord
  rw [(flushDefer_reports ..).hl, State.modEng, State.hl_modHl, (State.j_reports ..).hl, hcond.hl]
theorem snapRecord_alcs (h typ : Nat) (words : List (Nat × Nat)) (s : State) : (snapRecord h typ words s).alcs = s.alcs := by
  have hcond : Reports s (if words.isEmpty then s else
      s.p (F.COND_SNAP.COND h) ((words.headD (0, 0)).2 ||| czBits (s.alc h (words.headD (0, 0)).1).ctx)) :=
    .ite (.refl s) (State.p_reports ..)
  exact (flushDefer_reports ..).alcs.trans ((State.j_reports ..).alcs.trans hcond.alcs)
theorem snapRecord_off (h typ : Nat) (words : List (Nat × Nat)) (s : State) : Off (waitReg h) s (snapRecord h typ words s) := by
  have hjnl {a : Nat} (ha : jnlReg a) : waitReg h a := .inr (.inr (.inr (.inr ha)))
  unfold snapRecord
  refine ((flushDefer_off ..).mono fun _ => hjnl).after (.base (State.j_off ?_ _ _ _ _ _ fun _ => hjnl))
  exact Off.ite (.refl s) (State.p_off (.refl s) _ (.inl rfl))

/-- The one LIVE alcove of the hall waits at its BRW. -/
structure WaitsAlone (s : State) (h i mode mask target tmo : Nat) (m : Member) : Prop where
  lives : s.lives h = [i]
  term : (s.alc h i).term = .brw mode mask target tmo
  joined : (s.alc h i).joined = true
  members : (s.hl h).eng.members = [m]
  member : m.i = i
  idle : m.st = .gone

/-- The state after the re-sample of alcove `i`, with its word. -/
def brwSampled (h i word : Nat) (s : State) : State :=
  ((snapRecord h 0x52 [(i, word)] (s.modHold h (fun x => { x with brwFrom := s.pos h }))).modAlc h i
    (fun a => { a with resamples := a.resamples + 1 })).modEng h (fun e => { e with
      members := e.members.map (fun m => if i == m.i then { m with cond := word } else m) })

section
variable {i mode mask target tmo : Nat} {m : Member}

theorem WaitsAlone.waiters (hw : WaitsAlone s h i mode mask target tmo m) : s.brwWaiters h = [(i, mode, mask, target, tmo)] := by
  simp [State.brwWaiters, hw.lives, hw.term, hw.joined, hw.members, hw.member, hw.idle]

/-- Outside a replay, the condition word of the one LIVE alcove as it stands. -/
theorem condWords_alone (hl : s.lives h = [i]) (hr : s.rpl = none) : ∃ w, s.condWords h false = [(i, w)] := by
  have hsnap : s.rplSnap h = none := by rw [State.rplSnap, hr]; rfl
  simp only [State.condWords, hsnap, hl, List.map_cons, List.map_nil]
  exact ⟨_, rfl⟩

/-- The word of a re-sample: FAIL and HFAIL are those of the fail window. -/
def resampledWord (m : Member) (w : Nat) : Nat := w - (w &&& 5) + (m.cond &&& 5)

theorem brwResample_alone {w : Nat} (hw : WaitsAlone s h i mode mask target tmo m) (hc : s.condWords h false = [(i, w)]) :
    brwResample h s = brwLeave h (if condTest mode mask (resampledWord m w ||| czBits (s.alc h i).ctx) then [(i, target)] else [])
      (brwSampled h i (resampledWord m w) s) := by
  unfold brwResample
  simp only [hc, hw.waiters, hw.members, List.find?_cons, List.find?_nil, hw.member, BEq.rfl, List.map_cons, List.map_nil,
    Option.map_some, Option.getD_some, List.filter_cons, List.filter_nil, List.any_cons, List.any_nil, Bool.or_false]
  rw [apply_ite (List.map _)]
  unfold brwSampled resampledWord State.over
  simp only [List.foldl_cons, List.foldl_nil, List.map_cons, List.map_nil]
  refine congrArg (fun g => brwLeave h _ (State.modEng _ h g))
    (funext fun e => congrArg (fun l => { e with members := l }) (List.map_congr_left fun k _ => ?_))
  by_cases hk : i = k.i <;> simp [hk]

/-- The word on which the re-sample of alcove `i` is tested, before its counters, as O23 states it. -/
def State.resampleOf (s : State) (h i : Nat) : Nat := (s.condWords h false).foldl (fun a w => if w.1 = i then
  w.2 - (w.2 &&& 5) + ((s.hl h).eng.members.map (fun m => m.cond &&& 5)).headD 0 else a) 0

/-- A re-sample of the one LIVE alcove: it leaves where its condition holds. -/
theorem brwResample_tests (hw : WaitsAlone s h i mode mask target tmo m) (hr : s.rpl = none) : ∃ word, brwResample h s =
    brwLeave h (if condTest mode mask (s.resampleOf h i ||| czBits (s.alc h i).ctx) then [(i, target)] else [])
      (brwSampled h i word s) := by
  obtain ⟨w, hc⟩ := condWords_alone hw.lives hr
  have hword : s.resampleOf h i = resampledWord m w := by
    simp [State.resampleOf, hc, hw.members, resampledWord]
  exact ⟨_, hword ▸ brwResample_alone hw hc⟩

/-- What a re-sample leaves. -/
structure Resampled (s : State) (h i : Nat) (m : Member) (t : State) : Prop where
  regs : Off (waitReg h) s t
  alc : t.alc h i = { s.alc h i with resamples := (s.alc h i).resamples + 1 }
  hold : (t.hl h).hold = { (s.hl h).hold with brwFrom := s.pos h }
  run : (t.hl h).eng.run = (s.hl h).eng.run
  member : ∃ word, (t.hl h).eng.members = [{ m with cond := word }]

@[simp] theorem State.alc_modAlc (s : State) (h i : Nat) (f : AlcX → AlcX) : (s.modAlc h i f).alc h i = f (s.alc h i) :=
  tabGet_set_same ..
@[simp] theorem State.hl_modAlc (s : State) (h i k : Nat) (f : AlcX → AlcX) : (s.modAlc h i f).hl k = s.hl k := rfl
@[simp] theorem State.alc_modHl (s : State) (h k i : Nat) (f : HallX → HallX) : (s.modHl h f).alc k i = s.alc k i := rfl

theorem brwSampled_resampled (word : Nat) (hm : (s.hl h).eng.members = [m]) (hi : m.i = i) :
    Resampled s h i m (brwSampled h i word s) := by
  have hfrom : (s.modHold h (fun x => { x with brwFrom := s.pos h })).hl h =
      { s.hl h with hold := { (s.hl h).hold with brwFrom := s.pos h } } := State.hl_modHl ..
  obtain ⟨sn, cyc, hev, hsnap⟩ := snapRecord_hl h 0x52 [(i, word)] (s.modHold h (fun x => { x with brwFrom := s.pos h }))
  have halcs := snapRecord_alcs h 0x52 [(i, word)] (s.modHold h (fun x => { x with brwFrom := s.pos h }))
  have hoff := (snapRecord_off h 0x52 [(i, word)] (s.modHold h (fun x => { x with brwFrom := s.pos h }))).after (.base (.refl s))
  unfold brwSampled State.modEng
  refine ⟨.base (.base hoff), ?_, ?_, ?_, word, ?_⟩
  · rw [State.alc_modHl, State.alc_modAlc, State.alc_congr halcs]
    rfl
  · rw [State.hl_modHl, State.hl_modAlc, hsnap, hfrom]
  · rw [State.hl_modHl, State.hl_modAlc, hsnap, hfrom]
  · rw [State.hl_modHl, State.hl_modAlc, hsnap, hfrom]
    simp [hm, hi]

/-- BRW_RESAMPLE re-samples the one alcove that waits, at a tread after the last, while it has re-samples left. -/
theorem exec_brwResample (hw : WaitsAlone s h i mode mask target tmo m) (hh : h < s.part.halls) (hn : (s.alc h i).resamples < tmo)
    (hb : (s.hl h).hold.brw = true) (hp : (s.hl h).hold.brwFrom ≠ s.pos h) (hr : s.replaying = false) :
    exec (.brwResample h) s = .next (rplTaken h (brwResample h s)) := by
  change Host.Outcome.next _ = _
  have hleft : s.brwExpired h = false := by simp [State.brwExpired, hw.waiters, hn]
  simp [State.hallOk_of_lt hh, hb, hp, hleft, hr]

/-- Of a recorded snapshot nothing is taken but the record. -/
theorem RunsAlone.rplTaken {c : StairCtx} {t : State} (k : RunsAlone h i c t) : RunsAlone h i c (rplTaken h t) := ⟨k.run, k.state, k.member⟩
theorem HoldsForSegment.rplTaken {t : State} (k : HoldsForSegment h s t) : HoldsForSegment h s (rplTaken h t) :=
  ⟨k.brw, k.seg, k.brwFrom, k.shown, k.alcs⟩

/-- The condition holds: the alcove runs on from its target. -/
theorem brwResample_leaves (hw : WaitsAlone s h i mode mask target tmo m) (hh : h < s.part.halls) (hn : (s.alc h i).resamples < tmo)
    (hb : (s.hl h).hold.brw = true) (hp : (s.hl h).hold.brwFrom ≠ s.pos h) (hr : s.replaying = false) (hrpl : s.rpl = none)
    (hs : s.g (F.STAIR_STAT.SEALED h) = 0xFFFF) (hc : condTest mode mask (s.resampleOf h i ||| czBits (s.alc h i).ctx) = true) :
    ∃ t u, exec (.brwResample h) s = .next t ∧ Resampled s h i m u ∧
      RunsAlone h i { (s.alc h i).ctx with pc := target % 65536 } t ∧ HoldsForSegment h u t := by
  obtain ⟨word, he⟩ := brwResample_tests hw hrpl
  have hh32 : h < 32 := Nat.lt_of_lt_of_le hh (Part_halls_le s.part)
  have hu := brwSampled_resampled word hw.members hw.member
  obtain ⟨word', hm'⟩ := hu.member
  obtain ⟨hrun, hhold⟩ := brwLeave_alone (pc := target) hh32 ((hu.regs.waitLives hh32).trans hw.lives) hm' hw.member
    ((hu.regs.waitSealed hh32).trans hs)
  rw [hu.alc] at hrun
  rw [if_pos hc] at he
  refine ⟨_, _, exec_brwResample hw hh hn hb hp hr, hu, ?_, ?_⟩
  · rw [he]
    exact hrun.rplTaken
  · rw [he]
    exact hhold.rplTaken

/-- The condition does not hold: the wait goes on. -/
theorem brwResample_waits (hw : WaitsAlone s h i mode mask target tmo m) (hh : h < s.part.halls) (hn : (s.alc h i).resamples < tmo)
    (hb : (s.hl h).hold.brw = true) (hp : (s.hl h).hold.brwFrom ≠ s.pos h) (hr : s.replaying = false) (hrpl : s.rpl = none)
    (hc : condTest mode mask (s.resampleOf h i ||| czBits (s.alc h i).ctx) = false) :
    ∃ t u, exec (.brwResample h) s = .next t ∧ Resampled s h i m u ∧ t = rplTaken h u := by
  obtain ⟨word, he⟩ := brwResample_tests hw hrpl
  have hu := brwSampled_resampled word hw.members hw.member
  rw [if_neg (by rw [hc]; decide)] at he
  exact ⟨_, _, exec_brwResample hw hh hn hb hp hr, hu, congrArg (rplTaken h) he⟩

/-- BRW_TIMEOUT: the alcove has had its last re-sample and runs on behind its BRW. -/
theorem exec_brwTimeout (hw : WaitsAlone s h i mode mask target tmo m) (hh : h < s.part.halls) (hn : tmo ≤ (s.alc h i).resamples)
    (hb : (s.hl h).hold.brw = true) :
    exec (.brwTimeout h) s = .next (brwLeave h [(i, (s.alc h i).termAt + 1)] s) := by
  change Host.Outcome.next _ = _
  simp [State.hallOk_of_lt hh, hb, hw.waiters, hn]

end

end

end Sys2Proof.Machine
end

section
/-! PROOF. The start of a flight (R96, R136, R210), array landings (R151, R434–R436), and O23. -/
namespace Sys2Proof.Machine
-- One declaration after the other: elaborated side by side, they exceed the check's memory.
set_option Elab.async false

/-! ### The start of a flight -/

/-- Hall `h` plays flight `f` from its first entry, since tread `p`, and holds for nothing. -/
structure FlightBegun (h f p : Nat) (t : State) : Prop where
  play : (t.hl h).play = some f
  hold : (t.hl h).hold = {}
  startTread : (t.hl h).startTread = p
  entry : (t.hl h).entry = 0
  playing : t.is (F.FLT_STAT.PLAYING h) = true

section
variable {s t : State} {h f p : Nat}

/-- What is reported elsewhere leaves the flight playing. -/
theorem FlightBegun.reported (k : FlightBegun h f p s) (hr : Reports s t)
    (hp : t.is (F.FLT_STAT.PLAYING h) = s.is (F.FLT_STAT.PLAYING h)) : FlightBegun h f p t := by
  have hl := hr.hl h
  exact ⟨hl ▸ k.play, hl ▸ k.hold, hl ▸ k.startTread, hl ▸ k.entry, hp.trans k.playing⟩

theorem FlightBegun.set (k : FlightBegun h f p s) (r : FRef) (v : Nat) (hr : R.FLT_STAT h ≠ r.addr) : FlightBegun h f p (s.p r v) :=
  k.reported (State.p_reports ..) (State.is_p_reg _ _ hr)

theorem FlightBegun.flag (k : FlightBegun h f p s) (r : FRef) (hr : (s.p r 1).is (F.FLT_STAT.PLAYING h) = s.is (F.FLT_STAT.PLAYING h)) :
    FlightBegun h f p (s.set1 r) :=
  k.reported (State.set1_reports ..) ((State.set1_is ..).trans hr)

/-- What hall `h` keeps beside the flight changes. -/
theorem FlightBegun.mod (k : FlightBegun h f p s) (g : HallX → HallX)
    (hg : ∀ x, (g x).play = x.play ∧ (g x).hold = x.hold ∧ (g x).startTread = x.startTread ∧ (g x).entry = x.entry) :
    FlightBegun h f p (s.modHl h g) := by
  obtain ⟨hplay, hhold, hstart, hentry⟩ := hg (s.hl h)
  have hl : (s.modHl h g).hl h = g (s.hl h) := State.hl_modHl ..
  exact ⟨by rw [hl, hplay, k.play], by rw [hl, hhold, k.hold], by rw [hl, hstart, k.startTread], by rw [hl, hentry, k.entry], k.playing⟩

theorem FlightBegun.when {c : Bool} {g : State → State} (k : FlightBegun h f p s) (hg : FlightBegun h f p (g s)) :
    FlightBegun h f p (s.when c g) := by
  unfold State.when
  split
  · exact hg
  · exact k

theorem FlightBegun.emitted (k : FlightBegun h f p s) (i : Nat) : FlightBegun h f p (s.emit i) :=
  k.reported (State.emit_reports ..) (State.is_congr (State.emit_regs ..) (State.emit_part ..) _)

theorem FlightBegun.scheduled (k : FlightBegun h f p s) (hh : h < 32) (b arg cause est : Nat) :
    FlightBegun h f p (jSched h b arg cause est s) :=
  k.reported (State.j_reports ..) ((State.j_off (.refl s) _ _ _ _ _ fun _ => id).is _ (not_jnlReg_at hh 0x90))

/-- The timing sets kept belong to the axis. -/
theorem FlightBegun.tsKept (k : FlightBegun h f p s) (b : Nat) : FlightBegun h f p (tsKeep h b s) :=
  ⟨k.play, k.hold, k.startTread, k.entry, k.playing⟩

theorem FlightBegun.triggered (k : FlightBegun h f p s) (i : Nat) (c : Bool) :
    FlightBegun h f p ((s.emit i).when c (fun u => u.modHl h (fun y => { y with trigOut := true }))) :=
  (k.emitted i).when ((k.emitted i).mod _ fun _ => ⟨rfl, rfl, rfl, rfl⟩)

/-- The head buffers fill, and no wait shows. -/
theorem FlightBegun.fetched (k : FlightBegun h f p s) (live : List Nat) : FlightBegun h f p (waitStat h (headFetch h live s)) := by
  have hfetch : FlightBegun h f p (headFetch h live s) := by
    unfold headFetch
    extract_lets
    exact k.mod _ fun _ => ⟨rfl, rfl, rfl, rfl⟩
  exact hfetch.set _ _ (by simp only [F.LAND_STAT.WAITING, R.FLT_STAT, R.LAND_STAT]; omega)

theorem FlightBegun.ledgered (k : FlightBegun h f p s) (hh : h < 32) : FlightBegun h f p (ledger s) :=
  k.set _ _ (by simp only [R.FLT_STAT, F.SCHED_LEDGER.VALUE, R.SCHED_LEDGER]; omega)

/-- A power class above that of the hall is reserved and reported (R210). -/
theorem FlightBegun.classRaised (k : FlightBegun h f p s) (hh : h < 32) (c w : Nat) : FlightBegun h f p
    ((ledger (s.modHl h (fun y => { y with admClass := c, resv := w + y.admLoad }))).set1 (F.HALL_STAT.CLASS_OVER h)) := by
  have hmod : FlightBegun h f p (s.modHl h (fun y => { y with admClass := c, resv := w + y.admLoad })) :=
    k.mod _ fun _ => ⟨rfl, rfl, rfl, rfl⟩
  refine (hmod.ledgered hh).flag _ (State.is_p_reg _ _ ?_)
  simp only [F.FLT_STAT.PLAYING, F.HALL_STAT.CLASS_OVER, R.FLT_STAT, R.HALL_STAT]
  omega

theorem startFlight_begins (hh : h < 32) (s : State) : FlightBegun h f (s.pos h) (startFlight h f s) := by
  unfold startFlight
  extract_lets live x s0 s1 s2 s2' s3 s4 s5 s6 s7 s8
  have hland : R.FLT_STAT h ≠ R.LAND_STAT h := by simp only [R.FLT_STAT, R.LAND_STAT]; omega
  have h3 : s3.hl h = _ := State.hl_modHl ..
  clear_value s3
  have h4 : FlightBegun h f (s.pos h) s4 := by
    have hl : s4.hl h = s3.hl h := ((State.p_reports ..).after (State.set1_reports ..)).hl h
    rw [h3] at hl
    refine ⟨by rw [hl], by rw [hl], by rw [hl], by rw [hl], ?_⟩
    unfold s4
    rw [State.is_p_reg _ _ hland, State.set1_is, State.is_p_same _ _ _ rfl]
    rfl
  clear_value s4
  have h5 : FlightBegun h f (s.pos h) s5 :=
    h4.when (h4.triggered ..)
  clear_value s5 x
  have h6 : FlightBegun h f (s.pos h) s6 :=
    h5.when ((h5.classRaised hh ..).scheduled hh ..)
  clear_value s6
  have h7 : FlightBegun h f (s.pos h) s7 :=
    h6.when (h6.flag _ (State.is_p_field _ _ rfl))
  clear_value s7
  have h8 : FlightBegun h f (s.pos h) s8 := by
    unfold s8
    split
    · exact h7.tsKept _
    · exact h7
  exact h8.fetched live

end

/-! ### SYNC_SAMPLE (R151) -/

section
variable {s t : State} {h i line target mode mask : Nat} {m : Member}

/-- The sample is stored, and the decision awaited. -/
def syncRead (h line : Nat) (high : Bool) (s : State) : State :=
  jSync h line high.toNat (s.modHl h (fun x => { x with
    hold := { x.hold with syncSeen := some high, dec := true }, eng := { x.eng with cycles := 1 } }))

/-- Where the joined alcoves branch to. -/
def syncBranch (h : Nat) (high : Bool) (s : State) : Nat → Option Nat := fun i =>
  if s.alcSt h i == alcLive && (s.alc h i).joined then
    (match (s.alc h i).term with | .sync _ t _ _ => some (if high then t else (s.alc h i).termAt + 1) | _ => none)
  else none

theorem syncSample_eq (h line : Nat) (high : Bool) (s : State) :
    syncSample h line high s = runOn h 0 (syncBranch h high (syncRead h line high s)) (syncRead h line high s) := rfl

theorem syncRead_hl (h line : Nat) (high : Bool) (s : State) : (syncRead h line high s).hl h = { s.hl h with
    hold := { (s.hl h).hold with syncSeen := some high, dec := true }, eng := { (s.hl h).eng with cycles := 1 } } :=
  ((State.j_reports ..).hl h).trans (State.hl_modHl ..)
theorem syncRead_alcs (h line : Nat) (high : Bool) (s : State) : (syncRead h line high s).alcs = s.alcs := (State.j_reports ..).alcs
theorem syncRead_off (h line : Nat) (high : Bool) (s : State) : Off (waitReg h) s (syncRead h line high s) :=
  State.j_off (.base (.refl s)) _ _ _ _ _ fun _ ha => .inr (.inr (.inr (.inr ha)))

theorem State.alcSt_of_lives (hl : s.lives h = [i]) : i < 96 ∧ s.alcSt h i = alcLive := by
  have hi : i ∈ s.lives h := hl ▸ List.mem_singleton_self i
  obtain ⟨hrange, hst⟩ := List.mem_filter.mp hi
  exact ⟨List.mem_range.mp hrange, beq_iff_eq.mp hst⟩

/-- The one joined alcove branches on the sample. -/
theorem syncBranch_joined (high : Bool) (hh : h < 32) (hl : s.lives h = [i]) (hj : (s.alc h i).joined = true)
    (ht : (s.alc h i).term = .sync line target mode mask) (hoff : Off (waitReg h) s t) (ha : t.alcs = s.alcs) :
    syncBranch h high t i = some (if high then target else (s.alc h i).termAt + 1) := by
  obtain ⟨hi, hst⟩ := State.alcSt_of_lives hl
  have hst' := (hoff.waitAlcSt hh hi).trans hst
  simp [syncBranch, State.alc_congr ha, hst', hj, ht]

theorem exec_syncSample (high : Bool) (hh : h < s.part.halls) (hr : s.replaying = false) (hs : (s.hl h).hold.sync = some line)
    (hseen : (s.hl h).hold.syncSeen = none) (hd : s.arrayLat h ≤ s.treadsSince h (s.hl h).hold.tread) :
    exec (.syncSample h high) s = .next (syncSample h line high s) := by
  change Host.Outcome.next _ = _
  simp [hs, State.hallOk_of_lt hh, hr, hseen, hd]

theorem syncSample_branches (high : Bool) (hh : h < 32) (hl : s.lives h = [i]) (hj : (s.alc h i).joined = true)
    (ht : (s.alc h i).term = .sync line target mode mask) (hm : (s.hl h).eng.members = [m]) (hi : m.i = i)
    (hs : s.g (F.STAIR_STAT.SEALED h) = 0xFFFF) :
    RunsAlone h i { (s.alc h i).ctx with pc := (if high then target else (s.alc h i).termAt + 1) % 65536 } (syncSample h line high s) ∧
      ((syncSample h line high s).hl h).hold = { (s.hl h).hold with syncSeen := some high, dec := true } := by
  subst hi
  have hoff := syncRead_off h line high s
  have halcs := syncRead_alcs h line high s
  have hread := syncRead_hl h line high s
  have hm' : ((syncRead h line high s).hl h).eng.members = [m] := by rw [hread]; exact hm
  obtain ⟨hrun, hleaves⟩ := runOn_alone 0 hm' (syncBranch_joined high hh hl hj ht hoff halcs) ((hoff.waitSealed hh).trans hs)
  rw [State.alc_congr halcs] at hrun
  rw [syncSample_eq]
  exact ⟨hrun, by rw [hleaves.hold, hread]⟩

/-! ### SYNC_RELEASE and SYNC_RESUME (R434–R436) -/

theorem exec_syncRelease (hh : h < s.part.halls) (hd : (s.hl h).driveLine ≠ none)
    (ht : s.arrayLat h < s.treadsSince h (s.hl h).driveTread) :
    exec (.syncRelease h) s = .next (s.modHl h (fun x => { x with driveLine := none })) := by
  change Host.Outcome.next _ = _
  simp [State.hallOk_of_lt hh, Option.isSome_iff_ne_none, hd, ht]

theorem exec_syncResume {high : Bool} (hh : h < s.part.halls) (hs : (s.hl h).hold.sync = some line)
    (hseen : (s.hl h).hold.syncSeen = some high)
    (ht : s.arrayLat h + s.g (F.GAL_ALAT.RESUME h) ≤ s.treadsSince h (s.hl h).hold.tread) :
    exec (.syncResume h) s = .next (syncResume h line high s) := by
  change Host.Outcome.next _ = _
  simp [hs, hseen, State.hallOk_of_lt hh, ht]

/-- The hall no longer holds for the line. -/
def syncEnded (h : Nat) (s : State) : State := waitStat h (s.modHold h (fun x => { x with sync := none }))

theorem syncEnded_hl (h : Nat) (s : State) : (syncEnded h s).hl h = { s.hl h with hold := { (s.hl h).hold with sync := none } } :=
  ((waitStat_reports ..).hl h).trans (State.hl_modHl ..)
theorem syncEnded_off (h : Nat) (s : State) : Off (· = R.LAND_STAT h) s (syncEnded h s) :=
  (waitStat_off ..).after (.base (.refl s))

/-- The state in which a late decision is reported. -/
def resumeLate (h line : Nat) (high : Bool) (s : State) : State := jSync h line (4 + high.toNat) (s.set1 F.GAL_STAT.RESUME_LATE)

theorem syncResume_eq (h line : Nat) (high : Bool) (s : State) :
    syncResume h line high s = tryStart h (syncEnded h (s.when (s.hl h).hold.dec (resumeLate h line high))) := rfl

theorem resumeLate_hl (h line : Nat) (high : Bool) (s : State) (k : Nat) : (resumeLate h line high s).hl k = s.hl k :=
  ((State.j_reports ..).after (State.set1_reports ..)).hl k
theorem resumeLate_late (h line : Nat) (high : Bool) (s : State) : (resumeLate h line high s).is F.GAL_STAT.RESUME_LATE = true := by
  have hj : ¬ jnlReg F.GAL_STAT.RESUME_LATE.addr := by unfold jnlReg; decide
  rw [resumeLate, jSync, (State.j_off (.refl _) _ _ _ _ _ fun _ => id).is _ hj, State.set1_is, State.is_p_same _ _ _ rfl]
  rfl

theorem tryStart_undecided (ht : (s.hl h).hold.target = none) : tryStart h s = s := by unfold tryStart; simp only [ht]

/-- The decision is not there: RESUME_LATE. -/
theorem syncResume_late (high : Bool) (hh : h < 32) (hd : (s.hl h).hold.dec = true) (ht : (s.hl h).hold.target = none) :
    (syncResume h line high s).hl h = { s.hl h with hold := { (s.hl h).hold with sync := none } } ∧
      (syncResume h line high s).is F.GAL_STAT.RESUME_LATE = true := by
  have hl := (syncEnded_hl h (resumeLate h line high s)).trans (by rw [resumeLate_hl])
  rw [syncResume_eq, State.when, if_pos hd, tryStart_undecided (by rw [hl]; exact ht)]
  refine ⟨hl, ?_⟩
  rw [(syncEnded_off ..).is _ (by simp only [F.GAL_STAT.RESUME_LATE, R.GAL_STAT, R.LAND_STAT]; omega), resumeLate_late]

/-- Nothing but the line holds the hall at the landing whose flight `f` is decided. -/
structure HeldBySync (x : HoldX) (f : Nat) : Prop where
  target : x.target = some f
  stretch : x.stretch = none
  release : x.release = none
  stall : x.stall = none
  head : x.head = false
  seg : x.seg = false
  dec : x.dec = false
  kept : x.kept = false
  brw : x.brw = false
  swap : x.swap = false
  swapWait : x.swapWait = none

/-- Without the line the flight starts. -/
theorem tryStart_free {x : HoldX} {f : Nat} (hx : HeldBySync x f) (hl : (s.hl h).hold = { x with sync := none }) (hs : s.slice h = false) :
    tryStart h s = startFlight h f s := by
  unfold tryStart
  simp [hl, hx.target, hx.stretch, hx.release, hx.stall, hx.head, hx.seg, hx.dec, hx.kept, hx.brw, hx.swap, hx.swapWait, hs]

/-- The decision is there: the flight starts. -/
theorem syncResume_starts {f : Nat} (high : Bool) (hh : h < 32) (hx : HeldBySync (s.hl h).hold f) (hs : s.slice h = false) :
    FlightBegun h f (s.pos h) (syncResume h line high s) := by
  have hoff := syncEnded_off h s
  have hslice : (syncEnded h s).slice h = false :=
    (hoff.is _ (by simp only [F.CAL_HALL.SLICE, R.CAL_HALL, R.LAND_STAT]; omega)).trans hs
  have hpos : (syncEnded h s).pos h = s.pos h :=
    hoff.pos (by simp only [R.AXIS_POS_LO, R.LAND_STAT]; omega) (by simp only [R.AXIS_POS_HI, R.LAND_STAT]; omega)
  rw [syncResume_eq, State.when, if_neg (by rw [hx.dec]; decide), tryStart_free hx (congrArg HallX.hold (syncEnded_hl h s)) hslice, ← hpos]
  exact startFlight_begins hh _

end

/-! ### O23 -/

section
variable {s t : State} {h i mode mask target tmo : Nat} {c : StairCtx}

/-- The member that runs alone, by the fields that O23 names. -/
theorem RunsAlone.map {α : Type} (k : RunsAlone h i c t) {g : Member → α} {x : α} (hg : ∀ m : Member, m.i = i → m.ctx = c → m.st = .run →
    m.n = 0 → g m = x) : (t.hl h).eng.members.map g = [x] := by
  obtain ⟨m, hm, hi, hc, hst, hn⟩ := k.member
  rw [hm, List.map_singleton, hg m hi hc hst hn]

/-- An engine with one member, which some test finds. -/
theorem only_member {l : List Member} {q : Member → Bool} (h1 : l.length = 1) (hq : l.any q = true) : ∃ m, l = [m] ∧ q m = true := by
  obtain ⟨m, rfl⟩ := List.length_eq_one_iff.mp h1
  exact ⟨m, rfl, by simpa using hq⟩

/-- The one LIVE alcove waits, by the hypotheses of O23. -/
theorem waitsAlone_of_gone (hl : s.lives h = [i]) (ht : (s.alc h i).term = .brw mode mask target tmo) (hj : (s.alc h i).joined = true)
    (hany : (s.hl h).eng.members.any (fun m => m.i == i && m.st == .gone) = true) (h1 : (s.hl h).eng.members.length = 1) :
    ∃ m, WaitsAlone s h i mode mask target tmo m := by
  obtain ⟨m, hm, hq⟩ := only_member h1 hany
  obtain ⟨hi, hst⟩ := Bool.and_eq_true_iff.mp hq
  exact ⟨m, hl, ht, hj, hm, beq_iff_eq.mp hi, beq_iff_eq.mp hst⟩
theorem waitsAlone_of_map (hl : s.lives h = [i]) (ht : (s.alc h i).term = .brw mode mask target tmo) (hj : (s.alc h i).joined = true)
    (hm : (s.hl h).eng.members.map (fun m => (m.i, m.st)) = [(i, .gone)]) : ∃ m, WaitsAlone s h i mode mask target tmo m := by
  obtain ⟨m, hmem, hx⟩ := List.map_eq_singleton_iff.mp hm
  obtain ⟨hi, hst⟩ := Prod.mk.inj hx
  exact ⟨m, hl, ht, hj, hmem, hi, hst⟩

/-- BRW_RESAMPLE of an alcove whose condition holds. -/
theorem exec_brwResample_leaves {m : Member} (hw : WaitsAlone s h i mode mask target tmo m) (hh : h < s.part.halls)
    (hn : (s.alc h i).resamples < tmo) (hb : (s.hl h).hold.brw = true) (hp : (s.hl h).hold.brwFrom ≠ s.pos h)
    (hr : s.replaying = false) (hrpl : s.rpl = none) (hs : s.g (F.STAIR_STAT.SEALED h) = 0xFFFF) (htarget : target < 65536)
    (hc : condTest mode mask (s.resampleOf h i ||| czBits (s.alc h i).ctx) = true) :
    ∃ t, exec (.brwResample h) s = .next t ∧ (t.alc h i).resamples = (s.alc h i).resamples + 1 ∧ (t.hl h).hold.brwFrom = s.pos h ∧
      (t.hl h).eng.run = true ∧
      (t.hl h).eng.members.map (fun m => (m.i, m.ctx, m.st, m.n)) = [(i, { (s.alc h i).ctx with pc := target }, .run, 0)] ∧
      (t.hl h).hold.brw = false ∧ (t.hl h).hold.seg = true ∧ t.is (F.LAND_STAT.SEG_HOLD h) = true ∧ t.g (F.UC_ENG.STATE h) = 1 := by
  obtain ⟨t, u, he, hu, hrun, hhold⟩ := brwResample_leaves hw hh hn hb hp hr hrpl hs hc
  refine ⟨t, he, ?_, ?_, hrun.run, hrun.map ?_, hhold.brw, hhold.seg, hhold.shown, hrun.state⟩
  · rw [State.alc_congr hhold.alcs, hu.alc]
  · rw [hhold.brwFrom, hu.hold]
  · intro m hi hctx hst hn
    rw [hi, hctx, hst, hn, Nat.mod_eq_of_lt htarget]

/-- BRW_RESAMPLE of an alcove whose condition does not hold. -/
theorem exec_brwResample_waits {m : Member} (hw : WaitsAlone s h i mode mask target tmo m) (hh : h < s.part.halls)
    (hn : (s.alc h i).resamples < tmo) (hb : (s.hl h).hold.brw = true) (hp : (s.hl h).hold.brwFrom ≠ s.pos h)
    (hr : s.replaying = false) (hrpl : s.rpl = none)
    (hc : condTest mode mask (s.resampleOf h i ||| czBits (s.alc h i).ctx) = false) :
    ∃ t, exec (.brwResample h) s = .next t ∧ (t.alc h i).resamples = (s.alc h i).resamples + 1 ∧
      (t.hl h).eng.run = (s.hl h).eng.run ∧ (t.hl h).hold.brw = true ∧ (t.hl h).hold.brwFrom = s.pos h := by
  obtain ⟨t, u, he, hu, rfl⟩ := brwResample_waits hw hh hn hb hp hr hrpl hc
  exact ⟨_, he, congrArg AlcX.resamples hu.alc, hu.run, (congrArg HoldX.brw hu.hold).trans hb, congrArg HoldX.brwFrom hu.hold⟩

theorem exec_brwTimeout_leaves {m : Member} (hw : WaitsAlone s h i mode mask target tmo m) (hh : h < s.part.halls)
    (hn : tmo ≤ (s.alc h i).resamples) (hb : (s.hl h).hold.brw = true) (hs : s.g (F.STAIR_STAT.SEALED h) = 0xFFFF) :
    ∃ t, exec (.brwTimeout h) s = .next t ∧ (t.hl h).eng.run = true ∧ (t.hl h).eng.members.map (fun m => (m.i, m.ctx, m.st)) =
      [(i, { (s.alc h i).ctx with pc := ((s.alc h i).termAt + 1) % 65536 }, .run)] ∧ (t.hl h).hold.brw = false ∧ t.alcs = s.alcs := by
  obtain ⟨hrun, hhold⟩ := brwLeave_alone (pc := (s.alc h i).termAt + 1) (Nat.lt_of_lt_of_le hh (Part_halls_le s.part)) hw.lives
    hw.members hw.member hs
  refine ⟨_, exec_brwTimeout hw hh hn hb, hrun.run, hrun.map ?_, hhold.brw, hhold.alcs⟩
  intro m hi hctx hst _
  rw [hi, hctx, hst]

theorem exec_syncSample_branches {line : Nat} (high : Bool) (hh : h < s.part.halls) (hr : s.replaying = false)
    (hsync : (s.hl h).hold.sync = some line) (hseen : (s.hl h).hold.syncSeen = none)
    (hd : s.arrayLat h ≤ s.treadsSince h (s.hl h).hold.tread) (hl : s.lives h = [i]) (hj : (s.alc h i).joined = true)
    (ht : (s.alc h i).term = .sync line target mode mask) (htarget : target < 65536) (hat : (s.alc h i).termAt < 65535)
    (hm : (s.hl h).eng.members.map (fun m => m.i) = [i]) (hs : s.g (F.STAIR_STAT.SEALED h) = 0xFFFF) :
    ∃ t, exec (.syncSample h high) s = .next t ∧ (t.hl h).hold.syncSeen = some high ∧ (t.hl h).hold.dec = true ∧
      (t.hl h).eng.run = true ∧ (t.hl h).eng.members.map (fun m => (m.i, m.ctx.pc, m.st)) =
        [(i, if high = true then target else (s.alc h i).termAt + 1, .run)] := by
  obtain ⟨m, hmem, hi⟩ := List.map_eq_singleton_iff.mp hm
  obtain ⟨hrun, hhold⟩ := syncSample_branches high (Nat.lt_of_lt_of_le hh (Part_halls_le s.part)) hl hj ht hmem hi hs
  have hpc : (if high = true then target else (s.alc h i).termAt + 1) < 65536 := by split <;> omega
  refine ⟨_, exec_syncSample high hh hr hsync hseen hd, by rw [hhold], by rw [hhold], hrun.run, hrun.map ?_⟩
  intro m hi hctx hst _
  rw [hi, hctx, hst, Nat.mod_eq_of_lt hpc]

theorem exec_syncResume_late {line : Nat} {high : Bool} (hh : h < s.part.halls) (hs : (s.hl h).hold.sync = some line)
    (hseen : (s.hl h).hold.syncSeen = some high) (hd : (s.hl h).hold.dec = true) (htarget : (s.hl h).hold.target = none)
    (ht : s.arrayLat h + s.g (F.GAL_ALAT.RESUME h) ≤ s.treadsSince h (s.hl h).hold.tread) :
    ∃ t, exec (.syncResume h) s = .next t ∧ (t.hl h).hold = { (s.hl h).hold with sync := none } ∧
      t.is F.GAL_STAT.RESUME_LATE = true ∧ (t.hl h).play = (s.hl h).play := by
  obtain ⟨hhall, hlate⟩ := syncResume_late (line := line) high (Nat.lt_of_lt_of_le hh (Part_halls_le s.part)) hd htarget
  exact ⟨_, exec_syncResume hh hs hseen ht, congrArg HallX.hold hhall, hlate, by rw [hhall]⟩

theorem exec_syncResume_starts {line f : Nat} {high : Bool} (hh : h < s.part.halls) (hs : (s.hl h).hold.sync = some line)
    (hseen : (s.hl h).hold.syncSeen = some high)
    (ht : s.arrayLat h + s.g (F.GAL_ALAT.RESUME h) ≤ s.treadsSince h (s.hl h).hold.tread) (hx : HeldBySync (s.hl h).hold f)
    (hslice : s.slice h = false) : ∃ t, exec (.syncResume h) s = .next t ∧ (t.hl h).play = some f ∧ (t.hl h).hold = {} ∧
      t.is (F.FLT_STAT.PLAYING h) = true ∧ (t.hl h).startTread = s.pos h ∧ (t.hl h).entry = 0 := by
  have hstart := syncResume_starts (line := line) high (Nat.lt_of_lt_of_le hh (Part_halls_le s.part)) hx hslice
  exact ⟨_, exec_syncResume hh hs hseen ht, hstart.play, hstart.hold, hstart.playing, hstart.startTread, hstart.entry⟩

end

/-- Settles O23: the re-samples, the timeout and the sample by what `runOn` does with the one member, the end of the line's hold by
`tryStart`. -/
theorem waitsAtBrwAndSync : Obligations.WaitsAtBrwAndSync :=
  ⟨fun _ _ _ _ _ _ _ hh hl ht hj hany h1 hn hc hb hp _ hs hr hrpl htarget =>
      (waitsAlone_of_gone hl ht hj hany h1).elim fun _ hw => exec_brwResample_leaves hw hh hn hb hp hr hrpl hs htarget hc,
    fun _ _ _ _ _ _ _ hh hl ht hj hany h1 hn hc hb hp hr hrpl =>
      (waitsAlone_of_gone hl ht hj hany h1).elim fun _ hw => exec_brwResample_waits hw hh hn hb hp hr hrpl hc,
    fun _ _ _ _ _ _ _ hh hl ht hj hm hn hb _ hs =>
      (waitsAlone_of_map hl ht hj hm).elim fun _ hw => exec_brwTimeout_leaves hw hh hn hb hs,
    fun _ _ _ _ _ _ _ high hh hr hsync hseen hd hl hj ht htarget hat hm hs =>
      exec_syncSample_branches high hh hr hsync hseen hd hl hj ht htarget hat hm hs,
    fun _ _ hh hd ht => ⟨_, exec_syncRelease hh hd ht, State.hl_modHl .., rfl⟩,
    fun _ _ _ _ hh hs hseen hd htarget ht => exec_syncResume_late hh hs hseen hd htarget ht,
    fun _ _ _ _ _ hh hs hseen ht htarget hslice _ hstretch hrelease hstall hhead hseg hdec hkept hbrw hswap hwait =>
      exec_syncResume_starts hh hs hseen ht
        ⟨htarget, hstretch, hrelease, hstall, hhead, hseg, hdec, hkept, hbrw, hswap, hwait⟩ hslice⟩

end Sys2Proof.Machine
end

section
/-! PROOF. O20 fails.  As in O18 (`pcBeyond`), a member at a PC that the stair store does not have finds no sealed page, so that the engine
runs the routine of an unsealed page (R123, R164) where the first clause has it run the words of NOP's. -/
namespace Sys2Proof.Machine
-- One declaration after the other: elaborated side by side, they exceed the check's memory.
set_option Elab.async false

section
variable {s t q : State} {h : Nat} {m : Member} {u : BitVec 32}

/-! ### Words of the patch RAM (R176) -/

/-- The first match register redirects micro-address 0 to word 0 of the patch RAM, which holds `u`. -/
structure PatchesZero (u : BitVec 32) (s : State) : Prop where
  rom : s.part.writableStore = false
  on : s.is (F.UC_MATCH.EN 0) = true
  source : s.g (F.UC_MATCH.ROM_ADDR 0) = 0
  word : s.g (F.UC_MATCH.PATCH_ADDR 0) = 0
  store : s.boot.store = [u.toNat]

/-- The lowest enabled match register that names an address redirects it. -/
theorem State.matchOf_zero (hon : s.is (F.UC_MATCH.EN 0) = true) {a : Nat} (ha : s.g (F.UC_MATCH.ROM_ADDR 0) = a) :
    s.matchOf a = some (s.g (F.UC_MATCH.PATCH_ADDR 0)) := by
  rw [State.matchOf, List.range_succ_eq_map, List.find?_cons_of_pos (by simp [hon, ha])]
  rfl

theorem State.matchOf_one (hon : s.is (F.UC_MATCH.EN 1) = true) {a : Nat} (ha : s.g (F.UC_MATCH.ROM_ADDR 1) = a)
    (hne : s.g (F.UC_MATCH.ROM_ADDR 0) ≠ a) : s.matchOf a = some (s.g (F.UC_MATCH.PATCH_ADDR 1)) := by
  rw [State.matchOf, List.range_succ_eq_map, List.find?_cons_of_neg (by simp [hne]), List.range_succ_eq_map, List.map_cons,
    List.find?_cons_of_pos (by simp [hon, ha])]
  rfl

/-- A ROM address that is redirected to word 0 of the patch RAM. -/
theorem PatchesZero.fetch_redirected (hp : PatchesZero u s) {a : Nat} (ha : a < 0x2000) (hm : s.matchOf a = some 0) :
    s.ucFetch a = some u := by
  simp [State.ucFetch, hp.rom, ha, hm, hp.store]

theorem PatchesZero.fetch (hp : PatchesZero u s) : s.ucFetch 0 = some u :=
  hp.fetch_redirected (by decide) ((State.matchOf_zero hp.on hp.source).trans (congrArg some hp.word))

/-- The routine of NOP does not run as shipped. -/
theorem PatchesZero.not_shipped (hp : PatchesZero u s) : s.ucAsShipped 0 = false := by
  have hmem : 0 ∈ (List.range 16).filter (fun m => s.is (F.UC_MATCH.EN m)) := by simp [hp.on]
  have hempty : ((List.range 16).filter (fun m => s.is (F.UC_MATCH.EN m))).isEmpty = false :=
    List.isEmpty_eq_false_iff.mpr (List.ne_nil_of_mem hmem)
  have hall : ((List.range 16).filter (fun m => s.is (F.UC_MATCH.EN m))).all
      (fun m => s.g (F.UC_MATCH.ROM_ADDR m) != 8 * 0) = false :=
    List.all_eq_false.mpr ⟨0, hmem, by simp [hp.source]⟩
  unfold State.ucAsShipped
  rw [if_neg (by rw [hp.rom]; decide)]
  dsimp only
  rw [hempty, hall]
  rfl

/-! ### A routine of one ENDI (R171) -/

/-- The member after an ENDI that goes on at the next instruction. -/
def Member.goesOn (m : Member) : Member := { m with n := m.n + 1, term := .none, tq := [], ctx := m.ctx.seq }

/-- A routine of one such word has run for the one member: of the hall only the engine has changed, and of the registers only those of
the engine. -/
structure RoutineEnded (h : Nat) (m : Member) (s t : State) : Prop where
  hall : t.hl h = { s.hl h with eng := { (s.hl h).eng with cycles := (s.hl h).eng.cycles + 1, members := [m.goesOn] } }
  regs : Off (· = R.UC_ENG h) s t
  state : t.g (F.UC_ENG.STATE h) = s.g (F.UC_ENG.STATE h)
  boot : t.boot = s.boot
  mem : t.mem = s.mem
  scr : t.scr = s.scr

theorem endi_next (addr cause pc0 iw : Nat) (hm : (s.hl h).eng.members = [m]) :
    RoutineEnded h m s (endi h [m.i] addr 0 cause pc0 iw (s.modEng h (fun e => { e with cycles := e.cycles + 1 }))) := by
  have hhit (l : List Member) : l.filter (fun x => [m.i].contains x.i && x.tq.contains 3 && decide (2 ≤ 0)) = [] := by simp
  unfold endi
  rw [hhit]
  refine ⟨?_, State.p_off (.base (.refl s)) _ rfl, State.g_p_field _ _ rfl, rfl, rfl, rfl⟩
  rw [(State.p_reports ..).hl]
  change (modServed h [m.i] _ _).hl h = _
  rw [modServed, State.modEng, State.hl_modHl, State.modEng, State.hl_modHl]
  simp [hm, Member.endi, Member.goesOn, StairCtx.seq]

/-- The word of an ENDI with NEXT 0. -/
structure EndsNext (u : BitVec 32) : Prop where
  mop : natBits u.toNat 26 6 = 1
  next : natBits u.toNat 23 3 = 0

theorem microRun_endi {a : Nat} (l : List Nat) (pc0 iw : Nat) (hu : s.ucFetch a = some u) (hend : EndsNext u) :
    microRun h l a pc0 iw s = endi h l a 0 (natBits u.toNat 0 8) pc0 iw (s.modEng h (fun e => { e with cycles := e.cycles + 1 })) := by
  unfold microRun microGo microWord
  simp only [hu, hend.mop, hend.next]
  rfl

theorem PatchesZero.after (hp : PatchesZero u s) (k : RoutineEnded h m s t) : PatchesZero u t := by
  have hreg : ¬ R.UC_MATCH 0 = R.UC_ENG h := by simp only [R.UC_MATCH, R.UC_ENG]; omega
  exact ⟨by rw [k.regs.part, hp.rom], by rw [k.regs.is _ hreg, hp.on], by rw [k.regs.g _ hreg, hp.source],
    by rw [k.regs.g _ hreg, hp.word], by rw [k.boot, hp.store]⟩

/-! ### An engine with one member (R123, R140) -/

/-- The engine runs the segment of one member, in a store with every page sealed. -/
structure RunsOne (h : Nat) (m : Member) (s : State) : Prop where
  member : (s.hl h).eng.members = [m]
  st : m.st = .run
  count : m.n < 64
  loading : (s.hl h).loading = []
  xfaults : (s.hl h).eng.xfaults = []
  state : s.g (F.UC_ENG.STATE h) = 1
  sealed : s.g (F.STAIR_STAT.SEALED h) = 0xFFFF

theorem RunsOne.front (k : RunsOne h m s) : (s.hl h).eng.front = some m := by simp [EngX.front, k.member, k.st]

theorem RunsOne.after (k : RunsOne h m s) (ht : RoutineEnded h m s t) (hn : m.n + 1 < 64) : RunsOne h m.goesOn t := by
  have hreg : ¬ R.STAIR_STAT h = R.UC_ENG h := by simp only [R.STAIR_STAT, R.UC_ENG]; omega
  exact ⟨by rw [ht.hall], k.st, hn, by rw [ht.hall]; exact k.loading, by rw [ht.hall]; exact k.xfaults,
    ht.state.trans k.state, (ht.regs.g _ hreg).trans k.sealed⟩

theorem Member.goesOn_pc (m : Member) : m.goesOn.ctx.pc < 65536 := Nat.mod_lt _ (by decide)

/-- Where no segment runs, nothing is fetched. -/
theorem settle_idle (n : Nat) (hf : (s.hl h).eng.front = none) : settle h n s = s := by
  cases n with
  | zero => rfl
  | succ n => unfold settle; rw [hf]

theorem RunsOne.not_loading (k : RunsOne h m s) (p : Nat) : s.pageLoading h p = false := by rw [State.pageLoading, k.loading]; rfl

/-- The cohort served is the one member. -/
theorem RunsOne.cohort (k : RunsOne h m s) (p : Member → Bool) (hp : p m = true) : (s.hl h).eng.members.filter p = [m] := by
  rw [k.member, List.filter_cons_of_pos hp, List.filter_nil]

/-- The cohort at PC `pc` faults by the shipped routine of an unsealed page. -/
def unsealedFault (h pc : Nat) (s : State) : State :=
  (faultMembers h fcUnsealed (fun x => x.ctx.pc == pc) (s.modEng h (fun e => { e with cycles := e.cycles + 3 }))).p
    (F.UC_ENG.UADDR h) (Config.ucEndi (2 ^ 64)).toNat

/-- A fetch from a page that is not sealed (R123, R164). -/
theorem settle_unsealed (n : Nat) (k : RunsOne h m s) (hpage : s.sealed h (m.ctx.pc / 4096) = false) :
    settle h (n + 1) s =
      if s.ucAsShipped 64 then settle h n (unsealedFault h m.ctx.pc s)
      else settle h n (microRun h [m.i] Config.ucUnsealed.toNat m.ctx.pc (s.instr h m.ctx.pc) s) := by
  have hcohort := k.cohort (fun x => x.st == .run && x.ctx.pc == m.ctx.pc) (by simp [k.st])
  conv_lhs => unfold settle
  simp only [k.front, hcohort, hpage, k.not_loading, k.state, List.any_cons, List.any_nil, decide_eq_false (Nat.not_le.mpr k.count),
    List.map_cons, List.map_nil]
  rfl

theorem stairRaise_reports (h : Nat) (l : List Nat) (s : State) : Reports s (stairRaise h l s) :=
  State.over_reports (fun _ _ => State.raise_reports ..) _ _

theorem RunsOne.unsealedFault (k : RunsOne h m s) :
    ((unsealedFault h m.ctx.pc s).hl h).eng.members = [m.fault fcUnsealed] := by
  rw [Machine.unsealedFault, (State.p_reports ..).hl, faultMembers, (stairRaise_reports ..).hl, State.modEng, State.hl_modHl, State.modEng,
    State.hl_modHl]
  simp [k.member, k.st]

/-- By the shipped routine the member faults, and no segment runs any more. -/
theorem settle_faults (n : Nat) (k : RunsOne h m s) (hpage : s.sealed h (m.ctx.pc / 4096) = false) (hs : s.ucAsShipped 64 = true) :
    ((settle h (n + 1) s).hl h).eng.members = [m.fault fcUnsealed] := by
  have hidle : ((unsealedFault h m.ctx.pc s).hl h).eng.front = none := by rw [EngX.front, k.unsealedFault]; rfl
  rw [settle_unsealed n k hpage, if_pos hs, settle_idle n hidle, k.unsealedFault]

/-- By a routine patched to one ENDI the member goes on. -/
theorem settle_patched (n : Nat) (k : RunsOne h m s) (hpage : s.sealed h (m.ctx.pc / 4096) = false) (hs : s.ucAsShipped 64 = false)
    (hu : s.ucFetch Config.ucUnsealed.toNat = some u) (hend : EndsNext u) (hn : m.n + 1 < 64) :
    RoutineEnded h m s (settle h (n + 1) s) := by
  have hended := endi_next Config.ucUnsealed.toNat (natBits u.toNat 0 8) m.ctx.pc (s.instr h m.ctx.pc) k.member
  rw [settle_unsealed n k hpage, if_neg (by rw [hs]; decide), microRun_endi _ _ _ hu hend,
    settle_sealed n (k.after hended hn).front m.goesOn_pc (k.after hended hn).sealed]
  exact hended

/-- No other unit has faulted an alcove: nothing is noticed (R172). -/
theorem noticeFaults_none (hx : (s.hl h).eng.xfaults = []) : noticeFaults h s = s := by
  unfold noticeFaults
  rw [hx]
  rfl

/-- States that agree on a hall, the registers and the part run the same segment of it. -/
theorem RunsOne.congr (k : RunsOne h m s) (hhall : t.hl h = s.hl h) (hregs : t.regs = s.regs) (hpart : t.part = s.part) :
    RunsOne h m t :=
  ⟨by rw [hhall, k.member], k.st, k.count, by rw [hhall, k.loading], by rw [hhall, k.xfaults],
    (State.g_congr hregs hpart _).trans k.state, (State.g_congr hregs hpart _).trans k.sealed⟩
theorem PatchesZero.congr (hp : PatchesZero u s) (hregs : t.regs = s.regs) (hpart : t.part = s.part) (hboot : t.boot = s.boot) :
    PatchesZero u t :=
  ⟨by rw [hpart, hp.rom], (State.is_congr hregs hpart _).trans hp.on, (State.g_congr hregs hpart _).trans hp.source,
    (State.g_congr hregs hpart _).trans hp.word, by rw [hboot, hp.store]⟩

theorem stairRaise_nil (h : Nat) (s : State) : stairRaise h [] s = s := rfl

/-- Where no member faults, the hall, the registers and the control store are as before. -/
theorem faultMembers_none {p : Member → Bool} (cause : Nat) (k : RunsOne h m s) (hp : p m = false) :
    (faultMembers h cause p s).hl h = s.hl h ∧ (faultMembers h cause p s).regs = s.regs ∧
      (faultMembers h cause p s).part = s.part ∧ (faultMembers h cause p s).boot = s.boot := by
  have hmap : (s.hl h).eng.members.map (fun m => if m.st == .run && p m then m.fault cause else m) = (s.hl h).eng.members := by
    simp [k.member, hp]
  unfold faultMembers
  rw [k.member, List.filter_cons_of_neg (by simp [hp]), List.filter_nil, List.map_nil]
  simp only [stairRaise_nil]
  refine ⟨?_, rfl, rfl, rfl⟩
  rw [State.modEng, State.hl_modHl, hmap]

/-- Members at `pc` whose loop on top ends there fault: NOP is no NEXT (R135). -/
def loopChecked (h pc : Nat) (s : State) : State := faultMembers h fcStack (fun x => x.at_ pc && loopEndWrong x 0) s

/-- The one member passes. -/
theorem RunsOne.loopChecked (k : RunsOne h m s) (hloop : loopEndWrong m 0 = false) (pc : Nat) :
    (loopChecked h pc s).hl h = s.hl h ∧ (loopChecked h pc s).regs = s.regs ∧ (loopChecked h pc s).part = s.part ∧
      (loopChecked h pc s).boot = s.boot := faultMembers_none fcStack k (by simp [hloop])

/-- The engine runs the words of NOP's routine for its one member (R168, R176). -/
theorem serve_words {r : Routine} (hq : settle h 97 s = q) (k : RunsOne h m q) (hop : opcOf (q.instr h m.ctx.pc) = 0)
    (hloop : loopEndWrong m 0 = false) (hsh : q.ucAsShipped 0 = false) {e : State}
    (he : (microRun h [m.i] 0 m.ctx.pc (q.instr h m.ctx.pc) (loopChecked h m.ctx.pc q)).modEng h
        (fun e => { e with maskUsed := e.maskUsed ||| r.mask (q.instr h m.ctx.pc) }) = e) :
    serve h (fun o => o == 0) r s = if e.g (F.UC_ENG.STATE h) == 2 then e else settle h 97 (noticeFaults h e) := by
  obtain ⟨hhall, -⟩ := k.loopChecked hloop m.ctx.pc
  unfold Machine.loopChecked at he hhall
  have hcohort := k.cohort (fun x => x.at_ m.ctx.pc) (by simp [Member.at_, k.st])
  have hguard : ¬ (!(opcOf (q.instr h m.ctx.pc) == 0) || q.pageLoading h (m.ctx.pc / 4096) || q.g (F.UC_ENG.STATE h) != 1 ||
      (q.hl h).eng.members.any (fun x => x.st == .run && decide (64 ≤ x.n))) = true := by
    simp [hop, k.not_loading, k.state, k.member, k.count]
  unfold serve
  simp only [hq, k.front]
  rw [if_neg hguard, if_pos (by rw [hop, hsh]; rfl)]
  simp only [hop, hhall, hcohort, List.map_cons, List.map_nil, List.isEmpty_cons, Bool.false_eq_true, if_false, Nat.mul_zero, he]

/-- The conditions that an instruction tests are noted. -/
theorem RunsOne.maskUsed (k : RunsOne h m s) (w : Nat) :
    RunsOne h m (s.modEng h (fun e => { e with maskUsed := e.maskUsed ||| w })) := by
  have hhall := State.hl_modHl s h (fun x => { x with eng := { x.eng with maskUsed := x.eng.maskUsed ||| w } })
  exact ⟨(congrArg (fun x : HallX => x.eng.members) hhall).trans k.member, k.st, k.count,
    (congrArg HallX.loading hhall).trans k.loading, (congrArg (fun x : HallX => x.eng.xfaults) hhall).trans k.xfaults, k.state, k.sealed⟩

/-- An instruction whose routine is patched to one ENDI, fetched from a sealed page, takes one core cycle. -/
theorem serve_patched {r : Routine} (hq : settle h 97 s = q) (k : RunsOne h m q) (hn : m.n + 1 < 64)
    (hop : opcOf (q.instr h m.ctx.pc) = 0) (hloop : loopEndWrong m 0 = false) (hp : PatchesZero u q) (hend : EndsNext u) :
    ((serve h (fun o => o == 0) r s).hl h).eng.cycles = (q.hl h).eng.cycles + 1 := by
  obtain ⟨hhall, hregs, hpart, hboot⟩ := k.loopChecked hloop m.ctx.pc
  have hended := endi_next 0 (natBits u.toNat 0 8) m.ctx.pc (q.instr h m.ctx.pc) (k.congr hhall hregs hpart).member
  rw [← microRun_endi _ _ _ (hp.congr hregs hpart hboot).fetch hend] at hended
  have hruns := ((k.congr hhall hregs hpart).after hended hn).maskUsed (r.mask (q.instr h m.ctx.pc))
  rw [serve_words hq k hop hloop hp.not_shipped rfl, if_neg (by rw [hruns.state]; decide), noticeFaults_none hruns.xfaults,
    settle_sealed 97 hruns.front m.goesOn_pc hruns.sealed, State.modEng, State.hl_modHl, hended.hall, hhall]

/-- Where no segment is left, nothing is served. -/
theorem serve_idle {is_ : Nat → Bool} {r : Routine} (hf : ((settle h 97 s).hl h).eng.front = none) :
    serve h is_ r s = settle h 97 s := by
  unfold serve
  simp only [hf]

/-- NOP is served where the engine runs. -/
theorem exec_nopInstr (hh : h < s.part.halls) (hrun : (s.hl h).eng.run = true) (hfence : s.fenced h = false) :
    exec (.nopInstr h) s = .next (serve h (fun o => o == 0) { member := fun _ _ m => .go m.ctx.seq [] } s) :=
  congrArg Host.Outcome.next (if_pos (by simp [State.hallOk_of_lt hh, hrun, hfence]))

/-! ### States that read alike -/

theorem State.instr_congr (hm : t.mem = s.mem) (hs : t.scr = s.scr) (h pc : Nat) : t.instr h pc = s.instr h pc :=
  State.rdMem_congr hm hs ..
/-- A unit is fenced by its state, or by a self-test. -/
theorem State.fenced_congr {v : Nat} (hst : t.g (F.UNIT_STATE.STATE v) = s.g (F.UNIT_STATE.STATE v)) (hc : t.cal = s.cal) :
    t.fenced v = s.fenced v := by
  simp only [State.fenced, State.inTest, hst, hc]

end

/-! ### A routine that the first clause does not run -/

/-- ENDI with NEXT 0. -/
def endiNext : BitVec 32 := 0x04000000#32

theorem endiNext_ends : EndsNext endiNext := ⟨by decide, by decide⟩

/-- NOP's routine and that of an unsealed page redirected to word `u`. -/
def State.redirected (s : State) (u : BitVec 32) : State :=
  (((s.modBoot (fun b => { b with store := [u.toNat] })).p (F.UC_MATCH.EN 0) 1).p (F.UC_MATCH.EN 1) 1).p (F.UC_MATCH.ROM_ADDR 1)
    Config.ucUnsealed.toNat

section
variable {s : State} {h v : Nat} {m : Member} {u : BitVec 32}

theorem State.redirected_off (s : State) (u : BitVec 32) : Off (fun a => a = R.UC_MATCH 0 ∨ a = R.UC_MATCH 1) s (s.redirected u) :=
  State.p_off (State.p_off (State.p_off (.base (.refl _)) _ (.inl rfl)) _ (.inr rfl)) _ (.inr rfl)
theorem State.redirected_hl (s : State) (u : BitVec 32) (h : Nat) : (s.redirected u).hl h = s.hl h := rfl
theorem State.redirected_instr (s : State) (u : BitVec 32) (h pc : Nat) : (s.redirected u).instr h pc = s.instr h pc :=
  State.instr_congr rfl rfl ..

/-- The engine fetches what it fetched. -/
theorem Fetches.redirected (k : Fetches s h v m) (u : BitVec 32) : Fetches (s.redirected u) h v m := by
  obtain ⟨hh, hrun, hfence, hfront, hsealed, hload, hstate, hcount, hx, hw⟩ := k
  have h32 := Part_halls_le s.part
  have hoff := State.redirected_off s u
  have hfield {f : FRef} (hf : ¬ (f.addr = R.UC_MATCH 0 ∨ f.addr = R.UC_MATCH 1)) := hoff.g f hf
  refine ⟨by rwa [hoff.part], hrun, ?_, hfront, ?_, hload, ?_, hcount, hx, (State.redirected_instr ..).trans hw⟩
  · exact (State.fenced_congr (hfield (by simp only [F.UNIT_STATE.STATE, R.UNIT_STATE, R.UC_MATCH]; omega)) rfl).trans hfence
  · exact (hfield (by simp only [F.STAIR_STAT.SEALED, R.STAIR_STAT, R.UC_MATCH]; omega)).trans hsealed
  · exact (hfield (by simp only [F.UC_ENG.STATE, R.UC_ENG, R.UC_MATCH]; omega)).trans hstate

/-- Match registers that redirect micro-address 0 to word 0 of the patch RAM where they read zero. -/
theorem State.redirected_zero (hpart : s.part.writableStore = false) (hrom : s.g (F.UC_MATCH.ROM_ADDR 0) = 0)
    (hword : s.g (F.UC_MATCH.PATCH_ADDR 0) = 0) : PatchesZero u (s.redirected u) := by
  refine ⟨hpart, ?_, ?_, ?_, rfl⟩
  · rw [State.redirected, State.is_p_reg _ _ (by decide), State.is_p_reg _ _ (by decide), State.is_p_same _ _ _ rfl]
    rfl
  · rw [State.redirected, State.g_p_ne _ _ (.inl (by decide)), State.g_p_ne _ _ (.inl (by decide)), State.g_p_field _ _ rfl]
    exact hrom
  · rw [State.redirected, State.g_p_ne _ _ (.inl (by decide)), State.g_p_ne _ _ (.inl (by decide)), State.g_p_field _ _ rfl]
    exact hword

/-- So is the entry of the routine of an unsealed page. -/
theorem State.redirected_unsealed (hz : PatchesZero u (s.redirected u)) (hword : s.g (F.UC_MATCH.PATCH_ADDR 1) = 0) :
    (s.redirected u).ucFetch Config.ucUnsealed.toNat = some u := by
  have hlt : Config.ucUnsealed.toNat < 0x2000 := Config.ucUnsealed.isLt
  refine hz.fetch_redirected hlt ?_
  by_cases hc : Config.ucUnsealed.toNat = 0
  · rw [State.matchOf_zero hz.on (hz.source.trans hc.symm), hz.word]
  · rw [State.matchOf_one, State.redirected, State.g_p_field _ _ rfl, State.g_p_field _ _ rfl, State.g_p_ne _ _ (.inl (by decide))]
    · exact congrArg some hword
    · rw [State.redirected, State.is_p_field _ _ rfl, State.is_p_same _ _ _ rfl]
      rfl
    · rw [State.redirected, State.g_p_same _ _ _ (by decide)]
      exact Nat.mod_eq_of_lt hlt
    · rw [hz.source]
      exact Ne.symm hc

end

/-- The engine of `pcBeyondState`, with both routines redirected to the ENDI. -/
def pcBeyondPatched : State := (pcBeyondState 0x00).redirected endiNext

theorem pcBeyondPatched_fetches : Fetches pcBeyondPatched 0 0 pcBeyondMember := pcBeyond_nop.1.1.redirected _

theorem pcBeyondPatched_runs : RunsOne 0 pcBeyondMember pcBeyondPatched := by
  obtain ⟨-, -, -, -, hsealed, hload, hstate, -, hx, -⟩ := pcBeyondPatched_fetches
  exact ⟨rfl, rfl, by decide, hload, hx, hstate, hsealed⟩

theorem pcBeyondPatched_unsealed : pcBeyondPatched.sealed 0 (pcBeyondMember.ctx.pc / 4096) = false := by
  rw [State.sealed, pcBeyondPatched_runs.sealed]
  decide

theorem pcBeyondPatched_zero : PatchesZero endiNext pcBeyondPatched :=
  State.redirected_zero rfl (by decide +kernel) (by decide +kernel)

theorem pcBeyondPatched_page : pcBeyondPatched.ucFetch Config.ucUnsealed.toNat = some endiNext :=
  State.redirected_unsealed pcBeyondPatched_zero (by decide +kernel)

/-- The instruction after its NOP is a NOP as well. -/
theorem pcBeyondPatched_next : opcOf (pcBeyondPatched.instr 0 pcBeyondMember.goesOn.ctx.pc) = 0 := by
  rw [pcBeyondPatched, State.redirected_instr]
  decide +kernel

/-- Refutes O20: a NOP fetched for a member at PC 65,536, with its routine and that of an unsealed page redirected to an ENDI.  Where the
routine of an unsealed page counts as shipped, the member faults; where it does not, the ENDI takes the member to PC 1 and a second NOP is
served there, after two core cycles.  The first clause has one NOP end after one core cycle. -/
theorem not_patchedMicrocode : ¬ Obligations.PatchedMicrocode := by
  rintro ⟨hnop, -⟩
  obtain ⟨t, ht, hmember, hcycles, -⟩ := hnop _ _ 0 _ _ pcBeyondMember endiNext pcBeyondPatched_fetches (by decide)
    pcBeyondPatched_zero.not_shipped ⟨rfl, by decide, by decide⟩ pcBeyondPatched_zero.fetch endiNext_ends.mop endiNext_ends.next
  obtain ⟨hh, hrun, hfence, -⟩ := pcBeyondPatched_fetches
  rw [exec_nopInstr hh hrun hfence] at ht
  injection ht with ht
  subst ht
  by_cases hs : pcBeyondPatched.ucAsShipped 64
  · have hfaulted : ((settle 0 97 pcBeyondPatched).hl 0).eng.members = [pcBeyondMember.fault fcUnsealed] :=
      settle_faults 96 pcBeyondPatched_runs pcBeyondPatched_unsealed hs
    rw [serve_idle (by rw [EngX.front, hfaulted]; rfl), MemberIs, hfaulted] at hmember
    exact absurd hmember (by decide)
  · have hended := settle_patched 96 pcBeyondPatched_runs pcBeyondPatched_unsealed (eq_false_of_ne_true hs)
      pcBeyondPatched_page endiNext_ends (by decide)
    have htwo := serve_patched (r := { member := fun _ _ m => .go m.ctx.seq [] }) rfl (pcBeyondPatched_runs.after hended (by decide))
      (by decide) ((congrArg opcOf (State.instr_congr hended.mem hended.scr ..)).trans pcBeyondPatched_next) (by decide)
      (pcBeyondPatched_zero.after hended) endiNext_ends
    rw [hcycles, hended.hall] at htwo
    exact absurd htwo (by decide)

end Sys2Proof.Machine
end

section
/-! PROOF. O47 fails: UC_ROLLBACK.OTP is seven bits wide (R184), and a state may hold a rollback counter that they cannot show. -/
namespace Sys2Proof.Machine
-- One declaration after the other: elaborated side by side, they exceed the check's memory.
set_option Elab.async false

/-- The device in stage 1, with 128 in the rollback counter. -/
def wideRollback : State := ({ boot := { otp := 128 } } : State).p F.BOOT_STAGE.STAGE 1

/-- A rollback counter is shown modulo 128. -/
theorem ucRollback_lt (s : State) : s.g F.UC_ROLLBACK.OTP < 128 := s.g_lt _

/-- Refutes O47: after stage 1 with a rollback counter of 128, UC_ROLLBACK.OTP reads below 128, where the second clause has it read
the counter modulo 256. -/
theorem not_bootAndWarmReset : ¬ Obligations.BootAndWarmReset := by
  rintro ⟨-, hrom, -⟩
  obtain ⟨t, -, -, -, -, hotp, -⟩ := hrom wideRollback [] [] [] (by decide +kernel)
  have hlt := ucRollback_lt t
  rw [hotp] at hlt
  exact absurd hlt (by decide)

end Sys2Proof.Machine
end

section
/-! PROOF. O26 fails: BIND_ALCOVE keeps the number of MEASs that an alcove has started (R134), which its first clause has cleared. -/
namespace Sys2Proof.Machine
-- One declaration after the other: elaborated side by side, they exceed the check's memory.
set_option Elab.async false

/-- A BIND_ALCOVE of domain 0 for alcove 0 of hall 0: every field but the opcode is 0. -/
def plainBind : DescRun := { did := 0, qpos := 0, desc := 4#512, acted := false, dom := 0, own := 0 }

/-- The descriptor names alcove 0 of hall 0. -/
theorem plainBind_names : dUnit plainBind.desc = 0 ∧ dscBits plainBind.desc 20 0 12 % 96 = 0 := by decide +kernel

/-- Queue 0 executes it, and alcove 0 is FREE and has started one MEAS. -/
def measuredState : State := { queues := [(0, { run := some plainBind })], alcs := [(0, { measNo := 1 })] }

/-- The bound alcove goes on counting its MEASs (R134). -/
theorem measured_bound :
    (nextOf (exec (.bindAlcove 0) measuredState)).map (fun t => (t.alc 0 0).measNo) = some 1 := by decide +kernel

/-- Refutes O26: BIND_ALCOVE keeps the number of MEASs that the alcove has started, where the first clause has everything but OWN, GMASK
and the stair PC cleared. -/
theorem not_alcoveBinding : ¬ Obligations.AlcoveBinding := by
  rintro ⟨hbind, -⟩
  obtain ⟨t, ht, halc, -⟩ := hbind measuredState 0 plainBind (by decide +kernel) (by decide +kernel) (by decide +kernel) (by decide +kernel)
    (by decide +kernel) (by decide +kernel) (by decide +kernel) (by decide +kernel) (by decide +kernel) (by decide +kernel)
    (by decide +kernel) (by decide +kernel) (by decide +kernel) (by decide +kernel)
  have hk := measured_bound
  obtain ⟨hunit, halcove⟩ := plainBind_names
  rw [hunit, halcove] at halc
  have hzero : (t.alc 0 0).measNo = 0 := congrArg AlcX.measNo halc
  rw [ht, nextOf, Option.map_some, hzero] at hk
  exact absurd hk (by decide)

end Sys2Proof.Machine
end

section
/-! PROOF. What trips and blanking of the channels of a hall leave, and GO of a parametric measurement (R290–R295, R488). -/
namespace Sys2Proof.Machine
-- One declaration after the other: elaborated side by side, they exceed the check's memory.
set_option Elab.async false

/-! ### What trips leave -/

section
variable {s t z : State} {h : Nat}

/-- Nothing has changed but registers, the channels of pins and of SMUs with their groups, and what trips report to: the collector's
input and the input stage of the event matrix. -/
def TripsOnly (s t : State) : Prop := ∃ regs fresh chans smus grps flt evIn,
  t = { s with regs := regs, fresh := fresh, chans := chans, smus := smus, grps := grps, flt := flt, evIn := evIn }

theorem TripsOnly.refl (s : State) : TripsOnly s s := ⟨_, _, _, _, _, _, _, rfl⟩
theorem TripsOnly.after (ht : TripsOnly s t) (hs : TripsOnly z s) : TripsOnly z t := by
  obtain ⟨_, _, _, _, _, _, _, rfl⟩ := hs
  obtain ⟨_, _, _, _, _, _, _, rfl⟩ := ht
  exact ⟨_, _, _, _, _, _, _, rfl⟩
theorem TripsOnly.ite {c : Prop} [Decidable c] {a b : State} (ha : TripsOnly z a) (hb : TripsOnly z b) : TripsOnly z (if c then a else b) := by
  split
  · exact ha
  · exact hb

theorem TripsOnly.peHalls (k : TripsOnly s t) : t.peHalls = s.peHalls := by obtain ⟨_, _, _, _, _, _, _, rfl⟩ := k; rfl
theorem TripsOnly.halls (k : TripsOnly s t) : t.halls = s.halls := by obtain ⟨_, _, _, _, _, _, _, rfl⟩ := k; rfl
theorem TripsOnly.queues (k : TripsOnly s t) : t.queues = s.queues := by obtain ⟨_, _, _, _, _, _, _, rfl⟩ := k; rfl
theorem TripsOnly.alcs (k : TripsOnly s t) : t.alcs = s.alcs := by obtain ⟨_, _, _, _, _, _, _, rfl⟩ := k; rfl
theorem State.peh_congr (k : t.peHalls = s.peHalls) (h : Nat) : t.peh h = s.peh h := by unfold State.peh; rw [k]
theorem TripsOnly.peh (k : TripsOnly s t) (h : Nat) : t.peh h = s.peh h := State.peh_congr k.peHalls h

theorem State.emit_tripsOnly (s : State) (i : Nat) : TripsOnly s (s.emit i) := .ite (.refl s) ⟨_, _, _, _, _, _, _, rfl⟩
theorem State.raise_tripsOnly (s : State) (i d : Nat) (l : List Nat) : TripsOnly s (s.raise i d l) :=
  .ite ⟨_, _, _, _, _, _, _, rfl⟩ (.refl s)

theorem State.p_tripsOnly (s : State) (f : FRef) (v : Nat) : TripsOnly s (s.p f v) := ⟨_, _, _, _, _, _, _, rfl⟩
theorem State.set1_tripsOnly (s : State) (f : FRef) : TripsOnly s (s.set1 f) := ⟨_, _, _, _, _, _, _, rfl⟩
theorem State.modSmu_tripsOnly (s : State) (k : Nat) (f : SmuX → SmuX) : TripsOnly s (s.modSmu k f) := ⟨_, _, _, _, _, _, _, rfl⟩
theorem State.modGrp_tripsOnly (s : State) (g : Nat) (f : GrpX → GrpX) : TripsOnly s (s.modGrp g f) := ⟨_, _, _, _, _, _, _, rfl⟩
theorem ddsStopNow_tripsOnly (k : Nat) (s : State) : TripsOnly s (ddsStopNow k s) := (State.modSmu_tripsOnly ..).after (State.p_tripsOnly ..)
theorem smuBridgeStop_tripsOnly (k : Nat) (s : State) : TripsOnly s (smuBridgeStop k s) :=
  (State.modSmu_tripsOnly ..).after (State.p_tripsOnly ..)
theorem smuTrip_tripsOnly (k src : Nat) (s : State) : TripsOnly s (smuTrip k src s) := by
  refine .ite (.refl s) (.after (State.raise_tripsOnly ..) (.after (State.emit_tripsOnly ..) ?_))
  refine .after (State.modGrp_tripsOnly ..) (.after (State.modSmu_tripsOnly ..) (.after (smuBridgeStop_tripsOnly ..) ?_))
  exact .after (ddsStopNow_tripsOnly ..) (.after (State.p_tripsOnly ..) (State.set1_tripsOnly ..))
theorem smuGroupTrip_tripsOnly (g : Nat) (s : State) : TripsOnly s (smuGroupTrip g s) :=
  State.each_inv (.refl s) fun _ _ _ ht => .ite ((smuTrip_tripsOnly ..).after ht) ht

/-- The registers of the paths of a hall: the status of its channels, its trip map, and the status of SMU channels. -/
def pathReg (h a : Nat) : Prop := (∃ c, a = R.PE_STAT h c) ∨ a = R.TRIP_MAP h ∨ ∃ k, a = R.SMU_STAT k

/-- Only paths of hall `h` have been tested and blanked. -/
structure PathsOnly (h : Nat) (s t : State) : Prop where
  regs : Off (pathReg h) s t
  rest : TripsOnly s t
  safe : ∀ c < 32, t.is (F.PE_STAT.SAFE h c) = s.is (F.PE_STAT.SAFE h c)

theorem PathsOnly.refl (s : State) : PathsOnly h s s := ⟨.refl s, .refl s, fun _ _ => rfl⟩
theorem PathsOnly.after (ht : PathsOnly h s t) (hs : PathsOnly h z s) : PathsOnly h z t :=
  ⟨ht.regs.after hs.regs, ht.rest.after hs.rest, fun c hc => (ht.safe c hc).trans (hs.safe c hc)⟩
theorem PathsOnly.ite {c : Prop} [Decidable c] {a b : State} (ha : PathsOnly h z a) (hb : PathsOnly h z b) :
    PathsOnly h z (if c then a else b) := by
  split
  · exact ha
  · exact hb
theorem PathsOnly.each {n : Nat} {f : Nat → State → State} (hf : ∀ i t, PathsOnly h t (f i t)) (s : State) : PathsOnly h s (s.each n f) :=
  State.each_inv (.refl s) fun i _ t ht => (hf i t).after ht

theorem State.modCh_pathsOnly (s : State) (h k c : Nat) (f : ChX → ChX) : PathsOnly h s (s.modCh k c f) :=
  ⟨.base (.refl s), ⟨_, _, _, _, _, _, _, rfl⟩, fun _ _ => rfl⟩

/-- A flag of a channel's status other than SAFE. -/
theorem State.peStat_pathsOnly (s : State) (h : Nat) {f : FRef} (v : Nat) (hf : ∃ c, f.addr = R.PE_STAT h c)
    (hlo : (Nat.ble (f.lo + f.len) 7 || Nat.ble 8 f.lo) = true) : PathsOnly h s (s.p f v) :=
  ⟨State.p_off (.refl s) v (.inl hf), ⟨_, _, _, _, _, _, _, rfl⟩, fun _ _ => State.is_p_field s v hlo⟩

theorem peTargets_pathsOnly (hh : h < 32) (c : Nat) (s : State) : PathsOnly h s (peTargets h c s) := by
  have ho := peTargets_off h c s
  refine ⟨ho.mono fun _ e => .inr (.inr e), ?_, fun d hd => ho.is _ ?_⟩
  · unfold peTargets State.when
    exact .ite ((smuGroupTrip_tripsOnly ..).after ⟨_, _, _, _, _, _, _, rfl⟩) ⟨_, _, _, _, _, _, _, rfl⟩
  · rintro ⟨k, e⟩
    simp only [F.PE_STAT.SAFE, R.PE_STAT, R.SMU_STAT] at e
    omega

theorem peTrip_pathsOnly (hh : h < 32) (c : Nat) (s : State) : PathsOnly h s (peTrip h c s) := by
  cases ht : s.is (F.PE_STAT.TRIPPED h c)
  case true => rw [peTrip_latched ht]; exact peTargets_pathsOnly hh c s
  case false =>
    rw [peTrip_fresh ht]
    have hmap (u : State) (v : Nat) : PathsOnly h u (u.p (F.TRIP_MAP.TRIPPED h) v) :=
      ⟨State.p_off (.refl u) v (.inr (.inl rfl)), State.p_tripsOnly .., fun d hd => State.is_p_reg _ _ (by
        simp only [F.PE_STAT.SAFE, F.TRIP_MAP.TRIPPED, R.PE_STAT, R.TRIP_MAP]; omega)⟩
    have hset (u : State) : PathsOnly h u (u.set1 (F.PE_STAT.TRIPPED h c)) :=
      ⟨State.set1_off (.refl u) (.inl ⟨c, rfl⟩), State.set1_tripsOnly .., fun _ _ => State.is_p_field u 1 rfl⟩
    have hemit (u : State) (i : Nat) : PathsOnly h u (u.emit i) :=
      ⟨State.emit_off (.refl u) i, State.emit_tripsOnly .., fun _ _ => State.emit_is ..⟩
    have hraise (u : State) (i d : Nat) (l : List Nat) : PathsOnly h u (u.raise i d l) :=
      ⟨State.raise_off (.refl u) i d l, State.raise_tripsOnly .., fun _ _ => State.raise_is ..⟩
    exact .after (hraise ..) (.after (hemit ..) (.after (hmap ..) (.after (hset _) (peTargets_pathsOnly hh c s))))

theorem blankUpdate_pathsOnly (hh : h < 32) (c : Nat) (s : State) : PathsOnly h s (blankUpdate h c s) := by
  have hp : PathsOnly h s (s.pb (F.PE_STAT.BLANKED h c) (s.blankNow h c)) := State.peStat_pathsOnly s h _ ⟨c, rfl⟩ rfl
  exact .ite (.refl s) (.ite hp (.ite ((peTrip_pathsOnly hh ..).after hp) hp))

theorem blankHall_pathsOnly (hh : h < 32) (s : State) : PathsOnly h s (blankHall h s) := .each (blankUpdate_pathsOnly hh) s

/-! ### The parametric path (R294, R295) -/

/-- A change of a channel that leaves its parametric path. -/
theorem State.modCh_pp (s : State) (h c : Nat) {f : ChX → ChX} (hf : ∀ x, (f x).pp = x.pp) (k d : Nat) :
    ((s.modCh h c f).ch k d).pp = (s.ch k d).pp := by
  by_cases e : 32 * k + d = 32 * h + c
  · have hx : (s.modCh h c f).ch k d = f (s.ch h c) := by unfold State.ch; rw [e]; exact tabGet_set_same ..
    have hy : s.ch k d = s.ch h c := by unfold State.ch; rw [e]
    rw [hx, hf, hy]
  · exact congrArg ChX.pp (tabGet_set_ne _ _ _ e)

/-- Trips leave the parametric path. -/
theorem peTrip_pp (h c : Nat) (s : State) (k d : Nat) : ((peTrip h c s).ch k d).pp = (s.ch k d).pp := by
  have ht : ((peTargets h c s).ch k d).pp = (s.ch k d).pp := by
    unfold peTargets State.when
    split
    · rw [State.ch, smuGroupTrip_chans]
      refine State.modCh_pp s h c ?_ k d
      exact fun _ => rfl
    · refine State.modCh_pp s h c ?_ k d
      exact fun _ => rfl
  cases hl : s.is (F.PE_STAT.TRIPPED h c)
  case true => rw [peTrip_latched hl, ht]
  case false => rw [peTrip_fresh hl, State.ch, State.raise_chans, State.emit_chans]; exact ht

theorem blankUpdate_pp (h c : Nat) (s : State) (k d : Nat) : ((blankUpdate h c s).ch k d).pp = (s.ch k d).pp := by
  unfold blankUpdate peTest
  dsimp only
  split
  · rfl
  · split
    · rfl
    · split
      · exact peTrip_pp ..
      · rfl

theorem blankHall_pp (h : Nat) (s : State) (k d : Nat) : ((blankHall h s).ch k d).pp = (s.ch k d).pp :=
  State.each_inv (I := fun t => (t.ch k d).pp = (s.ch k d).pp) rfl fun _ _ _ ht => (blankUpdate_pp ..).trans ht

theorem ppOn_pathsOnly (hh : h < 32) (mask : Nat) (s : State) : PathsOnly h s (ppOn h mask s) :=
  .each (fun _ t => .ite ((blankUpdate_pathsOnly hh ..).after (State.modCh_pathsOnly ..)) (.refl t)) s

/-- The path acts on each channel of the mask that is not safe. -/
theorem ppOn_acts {mask c : Nat} (hh : h < 32) (hc : c < 32) (hm : natBits mask c 1 = 1) (hs : s.is (F.PE_STAT.SAFE h c) = false) :
    ((ppOn h mask s).ch h c).pp = true := by
  refine State.each_reaches (I := fun t => t.is (F.PE_STAT.SAFE h c) = false) (P := fun t => (t.ch h c).pp = true) hc hs
    (fun _ _ _ t ht => ?_) (fun t ht => ?_) (fun _ _ hi t ht => ?_)
  · refine (PathsOnly.safe (.ite ((blankUpdate_pathsOnly hh ..).after (State.modCh_pathsOnly ..)) (.refl t)) c hc).trans ht
  · rw [if_pos (by simp [hm, ht]), blankUpdate_pp, State.ch_modCh]
  · split
    · rw [blankUpdate_pp]
      exact (congrArg ChX.pp (tabGet_set_ne _ _ _ (by omega))).trans ht
    · exact ht

theorem compEnable_pathsOnly (k c : Nat) (s : State) : PathsOnly h s (compEnable k c s) := State.modCh_pathsOnly ..

/-- The path turns off on channel `c`, whose comparators are enabled again (R288). -/
def ppRelease (h c : Nat) (s : State) : State :=
  let t := s.modCh h c (fun x => { x with pp := false })
  blankUpdate h c (if t.is (F.PE_CTL.EN h c) && !t.is (F.PE_STAT.SAFE h c) then compEnable h c t else t)

theorem ppOff_eq (h mask : Nat) (s : State) : ppOff h mask s = s.each 32 (fun c t =>
    if natBits mask c 1 = 1 && (t.ch h c).pp then ppRelease h c t else t) := rfl

theorem ppRelease_pathsOnly (hh : h < 32) (c : Nat) (s : State) : PathsOnly h s (ppRelease h c s) :=
  (blankUpdate_pathsOnly hh ..).after (.ite ((compEnable_pathsOnly ..).after (State.modCh_pathsOnly ..)) (State.modCh_pathsOnly ..))

theorem ppRelease_pp (h c : Nat) (s : State) (k d : Nat) :
    ((ppRelease h c s).ch k d).pp = ((s.modCh h c (fun x => { x with pp := false })).ch k d).pp := by
  unfold ppRelease
  rw [blankUpdate_pp]
  split
  · refine State.modCh_pp _ h c ?_ k d
    exact fun _ => rfl
  · rfl

theorem ppOff_pathsOnly (hh : h < 32) (mask : Nat) (s : State) : PathsOnly h s (ppOff h mask s) := by
  rw [ppOff_eq]
  exact .each (fun c t => .ite (ppRelease_pathsOnly hh c t) (.refl t)) s

/-- The path is off on each channel of the mask. -/
theorem ppOff_ends {mask c : Nat} (hc : c < 32) (hm : natBits mask c 1 = 1) (s : State) : ((ppOff h mask s).ch h c).pp = false := by
  rw [ppOff_eq]
  refine State.each_reaches (I := fun _ => True) (P := fun t => (t.ch h c).pp = false) hc trivial
    (fun _ _ _ _ _ => trivial) (fun t _ => ?_) (fun d _ hd t ht => ?_)
  · cases hp : (t.ch h c).pp
    case false => rw [Bool.and_false, if_neg Bool.false_ne_true, hp]
    case true => rw [if_pos (by simp [hm]), ppRelease_pp, State.ch_modCh]
  · split
    · rw [ppRelease_pp]
      exact (congrArg ChX.pp (tabGet_set_ne _ _ _ (by omega))).trans ht
    · exact ht

end

/-! ### GO (R294, R295, R488) -/

section
variable {s t : State} {h : Nat} {v : Word}

/-- A field keeps what a mask that covers it lets through. -/
theorem fieldGet_and {lo len : Nat} {m : Word} (hm : m.extractLsb' lo len = BitVec.allOnes len) (w : Word) :
    fieldGet lo len (w &&& m) = fieldGet lo len w := by
  rw [fieldGet, BitVec.extractLsb'_and, hm, BitVec.and_allOnes, fieldGet]

/-- PP_CTL written with GO = 1: the fields are stored, and GO reads as before. -/
def ppStored (h : Nat) (v : Word) (s : State) : State :=
  s.wr (R.PP_CTL h) (fieldPut 31 1 (s.g (F.PP_CTL.GO h)) (fieldPut 31 1 1 v &&& 0x60FF03FF#32))

theorem ppStored_off (h : Nat) (v : Word) (s : State) : Off (· = R.PP_CTL h) s (ppStored h v s) := State.wr_off (.refl s) _ rfl

theorem ppCtlWrite_go (h : Nat) (v : Word) (s : State) : ppCtlWrite h (fieldPut 31 1 1 v) s = ppGo h (ppStored h v s) :=
  if_pos (beq_iff_eq.mpr (fieldGet_put_same (lo := 31) (len := 1) (by decide) 1 v))

theorem exec_ppGo (hr : Ready s) (hh : h < s.part.halls) : exec (.ppGo h v) s = .next (s.byHost fun t => ppGo h (ppStored h v t)) := by
  obtain ⟨hservice, hawake⟩ := hr
  have hw : ppCtlWrite h (fieldPut 31 1 1 v) = fun t => ppGo h (ppStored h v t) := funext fun t => ppCtlWrite_go h v t
  simp only [exec, execPpGo, State.hallOk_of_lt hh, State.host_run hservice hawake, hw, if_true]

/-- A field of PP_CTL reads as written. -/
theorem ppStored_field {lo len : Nat} (hlo : lo + len ≤ 31) (hm : (0x60FF03FF#32).extractLsb' lo len = BitVec.allOnes len) :
    (ppStored h v s).g ⟨R.PP_CTL h, lo, len⟩ = fieldGet lo len v := by
  rw [State.g, ppStored, State.rd_wr_same, fieldGet_put_ne (.inr hlo), fieldGet_and hm, fieldGet_put_ne (.inr hlo)]

/-- What a GO reads besides PP_CTL. -/
theorem ppStored_reads (hh : h < 32) : (ppStored h v s).slice h = s.slice h ∧ (ppStored h v s).hallRun h = s.hallRun h ∧
    (ppStored h v s).fenced h = s.fenced h ∧ (ppStored h v s).g (F.PP_MASK.MASK h) = s.g (F.PP_MASK.MASK h) := by
  have ho := ppStored_off h v s
  have hst (i : Nat) (hi : i < 96) : (ppStored h v s).alcSt h i = s.alcSt h i :=
    ho.g _ (by simp only [F.ALC_STATE.STATE, R.ALC_STATE, R.PP_CTL]; omega)
  refine ⟨ho.is _ ?_, ?_, State.fenced_congr (ho.g _ ?_) rfl, ho.g _ ?_⟩
  · simp only [F.CAL_HALL.SLICE, R.CAL_HALL, R.PP_CTL]; omega
  · unfold State.hallRun
    rw [Bool.eq_iff_iff, List.any_eq_true, List.any_eq_true]
    exact exists_congr fun i => and_congr_right fun hi => by rw [hst i (List.mem_range.mp hi)]
  · simp only [F.UNIT_STATE.STATE, R.UNIT_STATE, R.PP_CTL]; omega
  · simp only [F.PP_MASK.MASK, R.PP_MASK, R.PP_CTL]; omega

@[simp] theorem State.peh_setPeh (s : State) (h : Nat) (x : PeHallX) : (s.setPeh h x).peh h = x := tabGet_set_same _ _ _ _
@[simp] theorem State.wr_peh (s : State) (a : Nat) (w : Word) (h : Nat) : (s.wr a w).peh h = s.peh h := rfl
@[simp] theorem State.set1_peh (s : State) (f : FRef) (h : Nat) : (s.set1 f).peh h = s.peh h := rfl
@[simp] theorem ppBusy_peh (k : Nat) (b : Bool) (s : State) (h : Nat) : (ppBusy k b s).peh h = s.peh h := rfl
@[simp] theorem State.byHost_peh (s : State) (f : State → State) (h : Nat) : (s.byHost f).peh h = (f s).peh h := rfl
theorem ppStored_peh (h : Nat) (v : Word) (s : State) (k : Nat) : (ppStored h v s).peh k = s.peh k := State.wr_peh ..

theorem ppGo_waits (hs : s.slice h = true) : ppGo h s = s.setPeh h { s.peh h with ppWait := true } := if_pos hs

theorem ppGo_refused (hs : s.slice h = false) (hr : s.hallRun h = true) :
    ppGo h s = (s.setPeh h { s.peh h with ppWait := false }).set1 (F.PE_HALL_STAT.PP_REFUSED h) := by
  unfold ppGo
  dsimp only
  rw [if_neg (by simp [hs]), if_pos (by simp [hr])]

/-- The fields of a GO that its hall carries out: a current of at most 100 nA, not zero, and a settle time of 1 to 1,000 µs. -/
structure PpLegal (s : State) (h : Nat) : Prop where
  force : signed 8 (s.g (F.PP_CTL.IFORCE h)) ≠ 0
  low : -100 ≤ signed 8 (s.g (F.PP_CTL.IFORCE h))
  high : signed 8 (s.g (F.PP_CTL.IFORCE h)) ≤ 100
  short : 1 ≤ s.g (F.PP_CTL.MSETTLE h)
  long : s.g (F.PP_CTL.MSETTLE h) ≤ 1000

/-- The hall begins a parametric measurement. -/
def ppBegun (h : Nat) (s : State) : State :=
  ppBusy h true (s.setPeh h { s.peh h with
    ppWait := false, ppPhase := if s.g (F.PP_CTL.BANK h) = 0 then 2 else 1, ppBank := s.g (F.PP_CTL.BANK h)
    ppMask := s.g (F.PP_MASK.MASK h) })

theorem ppGo_begins (hl : PpLegal s h) (hs : s.slice h = false) (hr : s.hallRun h = false) (ht : (s.peh h).touch = none)
    (hp : (s.peh h).ppPhase = 0) (hf : s.fenced h = false) : ppGo h s = blankHall h (ppBegun h s) := by
  obtain ⟨hforce, hlow, hhigh, hshort, hlong⟩ := hl
  unfold ppGo
  dsimp only
  rw [if_neg (by simp [hs]), if_neg ?_]
  · rfl
  · simp only [hr, ht, hp, hf, Option.isSome_none, bne_self_eq_false, Bool.or_self, Bool.false_or, Bool.or_eq_true, decide_eq_true_eq,
      hforce, false_or]
    omega

/-- The status of a hall's channels lies in no register of its paths. -/
theorem not_pathReg_hallStat (h : Nat) : ¬ pathReg h (R.PE_HALL_STAT h) := by
  rintro (⟨c, e⟩ | e | ⟨k, e⟩) <;> simp only [R.PE_HALL_STAT, R.PE_STAT, R.TRIP_MAP, R.SMU_STAT] at e <;> omega

/-- PP_BUSY reads what it has been set to. -/
theorem ppBusy_is (h : Nat) (b : Bool) (s : State) : (ppBusy h b s).is (F.PE_HALL_STAT.PP_BUSY h) = b := by
  rw [ppBusy, State.pb_def, State.pb_def, State.is_p_field _ _ rfl, State.is_p_same _ _ _ rfl]
  cases b <;> rfl

theorem exec_ppGo_begins (hr : Ready s) (hh : h < s.part.halls) (hs : s.slice h = false) (hrun : s.hallRun h = false)
    (ht : (s.peh h).touch = none) (hp : (s.peh h).ppPhase = 0) (hf : s.fenced h = false)
    (hforce : signed 8 ((F.PP_CTL.IFORCE h).of v) ≠ 0) (hlow : -100 ≤ signed 8 ((F.PP_CTL.IFORCE h).of v))
    (hhigh : signed 8 ((F.PP_CTL.IFORCE h).of v) ≤ 100) (hshort : 1 ≤ (F.PP_CTL.MSETTLE h).of v)
    (hlong : (F.PP_CTL.MSETTLE h).of v ≤ 1000) :
    ∃ t, exec (.ppGo h v) s = .next t ∧ t.is (F.PE_HALL_STAT.PP_BUSY h) = true ∧
      (t.peh h).ppPhase = (if (F.PP_CTL.BANK h).of v = 0 then 2 else 1) ∧ (t.peh h).ppBank = (F.PP_CTL.BANK h).of v ∧
      (t.peh h).ppMask = s.g (F.PP_MASK.MASK h) := by
  have h32 := lt_of_lt_of_le hh (Part_halls_le _)
  obtain ⟨hslice, hruns, hfence, hmask⟩ := ppStored_reads (s := s) (v := v) h32
  have hbank : (ppStored h v s).g (F.PP_CTL.BANK h) = (F.PP_CTL.BANK h).of v := ppStored_field (by decide) (by decide)
  have hiforce : (ppStored h v s).g (F.PP_CTL.IFORCE h) = (F.PP_CTL.IFORCE h).of v := ppStored_field (by decide) (by decide)
  have hsettle : (ppStored h v s).g (F.PP_CTL.MSETTLE h) = (F.PP_CTL.MSETTLE h).of v := ppStored_field (by decide) (by decide)
  have hl : PpLegal (ppStored h v s) h := ⟨by rwa [hiforce], by rwa [hiforce], by rwa [hiforce], by rwa [hsettle], by rwa [hsettle]⟩
  have hgo := ppGo_begins hl (hslice.trans hs) (hruns.trans hrun) (by rw [ppStored_peh, ht]) (by rw [ppStored_peh, hp]) (hfence.trans hf)
  have hpaths := blankHall_pathsOnly h32 (ppBegun h (ppStored h v s))
  refine ⟨_, exec_ppGo hr hh, ?_, ?_⟩
  · rw [State.byHost_is, hgo, hpaths.regs.is _ (not_pathReg_hallStat h), ppBegun, ppBusy_is]
  · rw [State.byHost_peh, hgo, hpaths.rest.peh, ppBegun, ppBusy_peh, State.peh_setPeh, hbank, hmask]
    exact ⟨rfl, rfl, rfl⟩

theorem exec_ppGo_refused (hr : Ready s) (hh : h < s.part.halls) (hs : s.slice h = false) (hrun : s.hallRun h = true) :
    ∃ t, exec (.ppGo h v) s = .next t ∧ t.is (F.PE_HALL_STAT.PP_REFUSED h) = true ∧ (t.peh h).ppPhase = (s.peh h).ppPhase := by
  obtain ⟨hslice, hruns, -, -⟩ := ppStored_reads (s := s) (v := v) (lt_of_lt_of_le hh (Part_halls_le _))
  refine ⟨_, exec_ppGo hr hh, ?_, ?_⟩
  · rw [State.byHost_is, ppGo_refused (hslice.trans hs) (hruns.trans hrun), State.set1_is, State.is_p_same _ _ _ rfl]
    rfl
  · rw [State.byHost_peh, ppGo_refused (hslice.trans hs) (hruns.trans hrun), State.set1_peh, State.peh_setPeh, ppStored_peh]

theorem exec_ppGo_waits (hr : Ready s) (hh : h < s.part.halls) (hs : s.slice h = true) :
    ∃ t, exec (.ppGo h v) s = .next t ∧ t.peh h = { s.peh h with ppWait := true } := by
  obtain ⟨hslice, -⟩ := ppStored_reads (s := s) (v := v) (lt_of_lt_of_le hh (Part_halls_le _))
  refine ⟨_, exec_ppGo hr hh, ?_⟩
  rw [State.byHost_peh, ppGo_waits (hslice.trans hs), State.peh_setPeh, ppStored_peh]

end
end Sys2Proof.Machine
end

section
/-! PROOF. The phases and the results of a parametric measurement (R294, R295). -/
namespace Sys2Proof.Machine
-- One declaration after the other: elaborated side by side, they exceed the check's memory.
set_option Elab.async false

/-! ### Phases and results of a parametric measurement (R294, R295) -/

section
variable {s t : State} {h c : Nat}

theorem siteSel_hl (h b : Nat) (s : State) : (siteSel h b s).hl h = { s.hl h with sitesel := if s.dryRun then 0 else b } := State.hl_modHl ..
@[simp] theorem siteSel_peh (h b : Nat) (s : State) (k : Nat) : (siteSel h b s).peh k = s.peh k := rfl
@[simp] theorem siteSel_ch (h b : Nat) (s : State) (k c : Nat) : (siteSel h b s).ch k c = s.ch k c := rfl
theorem siteSel_off {P : Nat → Prop} (h b : Nat) (s : State) : Off P s (siteSel h b s) := .base (.refl s)
@[simp] theorem ppBusy_ch (h : Nat) (b : Bool) (s : State) (k c : Nat) : (ppBusy h b s).ch k c = s.ch k c := rfl

theorem exec_parametricPhaseEnd (hh : h < s.part.halls) {t : State}
    (ht : execParametricPhaseEnd h s = .next (if s.hallOk h then t else s)) : exec (.parametricPhaseEnd h) s = .next t :=
  ht.trans (congrArg Host.Outcome.next (if_pos (State.hallOk_of_lt hh)))

theorem parametricPhaseEnd_selects (hh : h < s.part.halls) (hp : (s.peh h).ppPhase = 1) (hd : s.dryRun = false) :
    ∃ t, exec (.parametricPhaseEnd h) s = .next t ∧ (t.peh h).ppPhase = 2 ∧ (t.hl h).sitesel = (s.peh h).ppBank := by
  refine ⟨siteSel h (s.peh h).ppBank (s.setPeh h { s.peh h with ppPhase := 2 }), exec_parametricPhaseEnd hh ?_, ?_, ?_⟩
  · unfold execParametricPhaseEnd; simp only [hp]
  · rw [siteSel_peh, State.peh_setPeh]
  · rw [siteSel_hl]
    exact if_neg (ne_true_of_eq_false hd)

theorem parametricPhaseEnd_acts (hh : h < s.part.halls) (hc : c < 32) (hp : (s.peh h).ppPhase = 2)
    (hm : natBits (s.peh h).ppMask c 1 = 1) (hs : s.is (F.PE_STAT.SAFE h c) = false) :
    ∃ t, exec (.parametricPhaseEnd h) s = .next t ∧ (t.peh h).ppPhase = 3 ∧ (t.ch h c).pp = true := by
  have h32 := lt_of_lt_of_le hh (Part_halls_le _)
  refine ⟨ppOn h (s.peh h).ppMask (s.setPeh h { s.peh h with ppPhase := 3 }), exec_parametricPhaseEnd hh ?_, ?_, ppOn_acts h32 hc hm hs⟩
  · unfold execParametricPhaseEnd; simp only [hp]
  · rw [(ppOn_pathsOnly h32 ..).rest.peh, State.peh_setPeh]

theorem parametricPhaseEnd_opens (hh : h < s.part.halls) (hp : (s.peh h).ppPhase = 3) :
    ∃ t, exec (.parametricPhaseEnd h) s = .next t ∧ t.peh h = { s.peh h with ppPhase := 4 } ∧ t.regs = s.regs := by
  refine ⟨s.setPeh h { s.peh h with ppPhase := 4 }, exec_parametricPhaseEnd hh ?_, State.peh_setPeh .., rfl⟩
  unfold execParametricPhaseEnd; simp only [hp]

/-- The results of the channels of a hall. -/
def resultReg (h a : Nat) : Prop := ∃ c, a = R.PP_RESULT h c

theorem ppStore_off (h c : Nat) (mv : Int) (s : State) : Off (· = R.PP_RESULT h c) s (ppStore h c mv s) := by
  unfold ppStore
  refine State.p_off (State.pb_off (State.set1_off (.refl s) ?_) _ ?_) _ ?_ <;> rfl
theorem ppStore_tripsOnly (h c : Nat) (mv : Int) (s : State) : TripsOnly s (ppStore h c mv s) := by
  unfold ppStore
  exact (State.p_tripsOnly ..).after ((State.p_tripsOnly ..).after (State.set1_tripsOnly ..))

/-- A result is stored as valid, limited to the range of the path (R294). -/
theorem ppStore_shows (h c : Nat) (mv : Int) (s : State) : (ppStore h c mv s).is (F.PP_RESULT.VALID h c) = true ∧
    (ppStore h c mv s).g (F.PP_RESULT.VOLT h c) = unsigned 16 (max (-2000) (min 7000 mv)) := by
  constructor
  · rw [ppStore, State.is_p_field _ _ rfl, State.pb_def, State.is_p_field _ _ rfl, State.set1_is, State.is_p_same _ _ _ rfl]
    rfl
  · have hlt : unsigned 16 (max (-2000) (min 7000 mv)) < 2 ^ 16 := by unfold unsigned; omega
    rw [ppStore, State.g_p_same _ _ _ (Nat.le_of_ble_eq_true rfl)]
    exact Nat.mod_eq_of_lt hlt

theorem ppStoreAll_off (s : State) (h mask : Nat) (mv : List Int) : Off (resultReg h) s (s.ppStoreAll h mask mv) :=
  State.each_off (fun c t => Off.ite ((ppStore_off h c _ t).mono fun _ e => ⟨c, e⟩) (.refl t)) (.refl s)
theorem ppStoreAll_tripsOnly (s : State) (h mask : Nat) (mv : List Int) : TripsOnly s (s.ppStoreAll h mask mv) :=
  State.each_inv (.refl s) fun _ _ _ ht => .ite ((ppStore_tripsOnly ..).after ht) ht

theorem ppStoreAll_shows {mask : Nat} (hc : c < 32) (hm : natBits mask c 1 = 1) (mv : List Int) (s : State) :
    (s.ppStoreAll h mask mv).is (F.PP_RESULT.VALID h c) = true ∧
      (s.ppStoreAll h mask mv).g (F.PP_RESULT.VOLT h c) = unsigned 16 (max (-2000) (min 7000 (mv.getD c 0))) := by
  refine State.each_reaches (I := fun _ => True) (P := fun t => t.is (F.PP_RESULT.VALID h c) = true ∧
    t.g (F.PP_RESULT.VOLT h c) = unsigned 16 (max (-2000) (min 7000 (mv.getD c 0)))) hc trivial (fun _ _ _ _ _ => trivial)
    (fun t _ => ?_) (fun d _ hd t ht => ?_)
  · rw [if_pos hm]
    exact ppStore_shows ..
  · have ho : Off (· = R.PP_RESULT h d) t (if natBits mask d 1 = 1 then ppStore h d (mv.getD d 0) t else t) := .ite (ppStore_off ..) (.refl t)
    have hne : R.PP_RESULT h c ≠ R.PP_RESULT h d := by unfold R.PP_RESULT; omega
    rwa [ho.is _ hne, ho.g _ hne]

/-- The end of a measurement writes the registers of the paths, PP_BUSY and GO. -/
def ppEndReg (h a : Nat) : Prop := pathReg h a ∨ a = R.PE_HALL_STAT h ∨ a = R.PP_CTL h

theorem not_ppEndReg_result (h c : Nat) : ¬ ppEndReg h (R.PP_RESULT h c) := by
  rintro ((⟨d, e⟩ | e | ⟨k, e⟩) | e | e) <;>
    simp only [R.PP_RESULT, R.PE_STAT, R.TRIP_MAP, R.SMU_STAT, R.PE_HALL_STAT, R.PP_CTL] at e <;> omega

theorem ppEnd_running (hp : (s.peh h).ppPhase ≠ 0) : ppEnd h s = blankHall h (ppBusy h false (siteSel h 0 (ppOff h (s.peh h).ppMask
    (s.setPeh h { s.peh h with ppPhase := 0, ppBank := 0, ppMask := 0 })))) := if_neg hp

/-- The path of the masked channels is off, PP_BUSY reads 0 and the hall is idle again. -/
theorem ppEnd_ends (hh : h < 32) (hc : c < 32) (hp : (s.peh h).ppPhase ≠ 0) (hm : natBits (s.peh h).ppMask c 1 = 1) :
    Off (ppEndReg h) s (ppEnd h s) ∧ ((ppEnd h s).ch h c).pp = false ∧ (ppEnd h s).is (F.PE_HALL_STAT.PP_BUSY h) = false ∧
      ((ppEnd h s).peh h).ppPhase = 0 := by
  have hoff := ppOff_pathsOnly hh (s.peh h).ppMask (s.setPeh h { s.peh h with ppPhase := 0, ppBank := 0, ppMask := 0 })
  have hhall := blankHall_pathsOnly hh (ppBusy h false (siteSel h 0 (ppOff h (s.peh h).ppMask
    (s.setPeh h { s.peh h with ppPhase := 0, ppBank := 0, ppMask := 0 }))))
  have hpath (u v : State) (k : PathsOnly h u v) : Off (ppEndReg h) u v := k.regs.mono fun _ => .inl
  rw [ppEnd_running hp]
  refine ⟨.after (hpath _ _ hhall) ?_, ?_, ?_, ?_⟩
  · refine State.pb_off (State.pb_off ((siteSel_off ..).after ((hpath _ _ hoff).after (.base (.refl s)))) _ (.inr (.inl rfl))) _ (.inr (.inr rfl))
  · rw [blankHall_pp, ppBusy_ch, siteSel_ch, ppOff_ends hc hm]
  · rw [hhall.regs.is _ (not_pathReg_hallStat h), ppBusy_is]
  · rw [hhall.rest.peh, ppBusy_peh, siteSel_peh, hoff.rest.peh, State.peh_setPeh]

theorem exec_ppDone (hh : h < s.part.halls) (hp : (s.peh h).ppPhase = 4) (mv : List Int) :
    exec (.ppDone h mv) s = .next (ppEnd h (s.ppStoreAll h (s.peh h).ppMask mv)) :=
  congrArg Host.Outcome.next (if_pos (by simp [State.hallOk_of_lt hh, hp]))

theorem ppDone_stores (mv : List Int) (hh : h < s.part.halls) (hc : c < 32) (hp : (s.peh h).ppPhase = 4)
    (hm : natBits (s.peh h).ppMask c 1 = 1) : ∃ t, exec (.ppDone h mv) s = .next t ∧ t.is (F.PP_RESULT.VALID h c) = true ∧
      t.g (F.PP_RESULT.VOLT h c) = unsigned 16 (max (-2000) (min 7000 (mv.getD c 0))) ∧ (t.ch h c).pp = false ∧
      t.is (F.PE_HALL_STAT.PP_BUSY h) = false ∧ (t.peh h).ppPhase = 0 := by
  have h32 := lt_of_lt_of_le hh (Part_halls_le _)
  have hpeh := (ppStoreAll_tripsOnly s h (s.peh h).ppMask mv).peh h
  obtain ⟨hvalid, hvolt⟩ := ppStoreAll_shows (h := h) hc hm mv s
  obtain ⟨hoff, hends⟩ := ppEnd_ends (s := s.ppStoreAll h (s.peh h).ppMask mv) h32 hc (by rw [hpeh, hp]; decide) (by rwa [hpeh])
  refine ⟨_, exec_ppDone hh hp mv, ?_, ?_, hends⟩
  · rw [hoff.is _ (not_ppEndReg_result h c), hvalid]
  · rw [hoff.g _ (not_ppEndReg_result h c), hvolt]

end
end Sys2Proof.Machine
end

section
/-! PROOF. TOUCHDOWN, the phases of a contact test and its marks (R194–R196), and O11. -/
namespace Sys2Proof.Machine
-- One declaration after the other: elaborated side by side, they exceed the check's memory.
set_option Elab.async false

/-! ### TOUCHDOWN (R195) -/

section
variable {s t : State} {h q c : Nat} {r : DescRun} {x : TouchX}

theorem State.findRun_executes {op : Nat} (hx : Executes s q op false r) : s.findRun q op false = some r := by
  obtain ⟨hrun, hacted, hop, -⟩ := hx
  have hfits : (r.acted == false && dOpcode r.desc == op) = true := by simp [hacted, hop]
  simp only [State.findRun, hrun, Option.filter_some, hfits, if_true]

/-- A TOUCHDOWN descriptor with legal fields for hall `h`. -/
structure TouchForm (r : DescRun) (h : Nat) : Prop where
  unit : dUnit r.desc = h
  addr : dAddr r.desc = 0
  len : dLen r.desc = 0
  banks : dscBits r.desc 20 0 3 ≠ 0
  rsv20 : dscBits r.desc 20 3 5 = 0
  rsv21 : dscBits r.desc 21 1 7 = 0
  rsv30 : dscZeroFrom r.desc 30 = true
  force : signed 16 (dsc r.desc 22 2) ≠ 0
  low : -100 ≤ signed 16 (dsc r.desc 22 2)
  high : signed 16 (dsc r.desc 22 2) ≤ 100
  limits : dsc r.desc 26 2 < dsc r.desc 24 2
  short : 1 ≤ dsc r.desc 28 2
  long : dsc r.desc 28 2 ≤ 1000
  owns : r.owns h = true

/-- The hall is present and neither in a run, nor testing, measuring or transferring, nor fenced. -/
structure TouchIdle (s : State) (h : Nat) : Prop where
  present : h < s.part.halls
  run : s.hallRun h = false
  touch : (s.peh h).touch = none
  phase : (s.peh h).ppPhase = 0
  xfer : (s.hse h).xfer = none
  fenced : s.fenced h = false

/-- The contact test that the descriptor asks for. -/
def touchOf (r : DescRun) : TouchX :=
  { did := r.did, banks := (List.range 3).filter (fun i => natBits (dscBits r.desc 20 0 3) i 1 = 1), phase := 0
    apply := dscBits r.desc 21 0 1 == 1, vopen := dsc r.desc 24 2, vshort := dsc r.desc 26 2, result := 0 }

theorem touchdown_begins (hf : TouchForm r h) (hi : TouchIdle s h) :
    touchdown q r s = s.modPeh h (fun x => { x with touch := some (touchOf r) }) := by
  have hok := State.hallOk_of_lt hi.present
  have h32 := lt_of_lt_of_le hi.present (Part_halls_le _)
  have hx : (tabGet (fun _ => ({} : HseX)) s.hses h).xfer = none := hi.xfer
  obtain ⟨hu, ha, hl, hb, h20, h21, h30, hne, hlo, hhi, hlim, hs, hlg, ho⟩ := hf
  unfold touchdown
  dsimp only
  rw [hu, if_neg (by simp [hok]), if_neg ?_, if_neg (by simp [ho]), if_neg (by simp [hi.run, hi.touch, hi.phase, hx]),
    if_neg (by simp [hi.fenced])]
  · rfl
  · simp only [ha, hl, hb, h20, h21, h30, hne, bne_self_eq_false, Bool.not_true, Bool.or_false, Bool.or_eq_true, decide_eq_true_eq,
      decide_false]
    omega

theorem TouchForm.acted (hf : TouchForm r h) : TouchForm { r with acted := true } h := by
  obtain ⟨hu, ha, hl, hb, h20, h21, h30, hne, hlo, hhi, hlim, hs, hlg, ho⟩ := hf
  exact ⟨hu, ha, hl, hb, h20, h21, h30, hne, hlo, hhi, hlim, hs, hlg, ho⟩
theorem TouchIdle.acted (hi : TouchIdle s h) (q d : Nat) : TouchIdle (s.setActed q d) h := by
  obtain ⟨hp, hr, ht, hph, hx, hf⟩ := hi
  exact ⟨hp, hr, ht, hph, hx, hf⟩

theorem exec_touchdown_begins (hx : Executes s q 6 false r) (hf : TouchForm r h) (hi : TouchIdle s h) (hs : s.slice h = false) :
    ∃ t, exec (.touchdown q) s = .next t ∧ (t.peh h).touch = some (touchOf r) ∧ t.regs = s.regs := by
  have he : exec (.touchdown q) s = execTouchdown q s := rfl
  rw [he, execTouchdown, State.findRun_executes hx]
  dsimp only
  rw [if_neg (by simp [hf.unit, hs]), State.withDesc_executes hx, touchdown_begins hf.acted (hi.acted q r.did)]
  exact ⟨_, rfl, congrArg PeHallX.touch (State.peh_setPeh ..), rfl⟩

/-! ### The phases of a contact test -/

/-- The contact test of a hall goes to another state. -/
def touchNext (h : Nat) (x : TouchX) (s : State) : State := s.modPeh h (fun z => { z with touch := some x })

theorem touchNext_peh (h : Nat) (x : TouchX) (s : State) : (touchNext h x s).peh h = { s.peh h with touch := some x } :=
  State.peh_setPeh ..

theorem exec_touchdownPhaseEnd (mv : List Int) (hh : h < s.part.halls) (hx : (s.peh h).touch = some x) :
    exec (.touchdownPhaseEnd h mv) s = .next (touchPhase h mv x s) := by
  have he : exec (.touchdownPhaseEnd h mv) s = execTouchdownPhaseEnd h mv s := rfl
  simp only [he, execTouchdownPhaseEnd, hx, State.hallOk_of_lt hh, if_true]

theorem touchPhase_select {n : Nat} {l : List Nat} (mv : List Int) (hp : x.phase = 0) (hb : x.banks = n :: l) :
    touchPhase h mv x s = siteSel h (n + 1) (touchNext h { x with phase := 1 } s) := by
  unfold touchPhase; simp only [hp, hb]; rfl
theorem touchPhase_settle (mv : List Int) (hp : x.phase = 1) :
    touchPhase h mv x s = ppOn h 0xFFFFFFFF (touchNext h { x with phase := 2 } s) := by
  unfold touchPhase; simp only [hp]; rfl
theorem touchPhase_measure (mv : List Int) (hp : x.phase = 2) : touchPhase h mv x s = touchNext h { x with phase := 3 } s := by
  unfold touchPhase; simp only [hp]; rfl

/-- Every channel is in the mask of a contact test. -/
theorem natBits_allChannels (hc : c < 32) : natBits 0xFFFFFFFF c 1 = 1 := by interval_cases c <;> rfl

theorem touchPhaseEnd_selects {n : Nat} {l : List Nat} (mv : List Int) (hh : h < s.part.halls) (hx : (s.peh h).touch = some x)
    (hp : x.phase = 0) (hb : x.banks = n :: l) (hd : s.dryRun = false) : ∃ t, exec (.touchdownPhaseEnd h mv) s = .next t ∧
      (t.peh h).touch = some { x with phase := 1 } ∧ (t.hl h).sitesel = n + 1 := by
  refine ⟨_, (exec_touchdownPhaseEnd mv hh hx).trans (congrArg _ (touchPhase_select mv hp hb)), ?_, ?_⟩
  · rw [siteSel_peh, touchNext_peh]
  · rw [siteSel_hl]
    exact if_neg (ne_true_of_eq_false hd)

theorem touchPhaseEnd_acts (mv : List Int) (hh : h < s.part.halls) (hc : c < 32) (hx : (s.peh h).touch = some x)
    (hp : x.phase = 1) (hs : s.is (F.PE_STAT.SAFE h c) = false) : ∃ t, exec (.touchdownPhaseEnd h mv) s = .next t ∧
      (t.peh h).touch = some { x with phase := 2 } ∧ (t.ch h c).pp = true := by
  have h32 := lt_of_lt_of_le hh (Part_halls_le _)
  refine ⟨_, (exec_touchdownPhaseEnd mv hh hx).trans (congrArg _ (touchPhase_settle mv hp)), ?_,
    ppOn_acts h32 hc (natBits_allChannels hc) hs⟩
  rw [(ppOn_pathsOnly h32 ..).rest.peh, touchNext_peh]

theorem touchPhaseEnd_opens (mv : List Int) (hh : h < s.part.halls) (hx : (s.peh h).touch = some x) (hp : x.phase = 2) :
    ∃ t, exec (.touchdownPhaseEnd h mv) s = .next t ∧ (t.peh h).touch = some { x with phase := 3 } :=
  ⟨_, (exec_touchdownPhaseEnd mv hh hx).trans (congrArg _ (touchPhase_measure mv hp)), congrArg PeHallX.touch (touchNext_peh ..)⟩

/-! ### The last aperture (R196) -/

@[simp] theorem siteSel_queues (h b : Nat) (s : State) : (siteSel h b s).queues = s.queues := rfl
@[simp] theorem siteSel_alcs (h b : Nat) (s : State) : (siteSel h b s).alcs = s.alcs := rfl

/-- The aperture of a contact test has closed: the results are stored and the paths and SITESEL are off. -/
def touchClosed (h : Nat) (mv : List Int) (s : State) : State :=
  siteSel h 0 (ppOff h 0xFFFFFFFF (s.ppStoreAll h 0xFFFFFFFF mv))

/-- The codes of the banks tested, once those of bank `k` are known. -/
def TouchX.codes (x : TouchX) (k : Nat) (mv : List Int) : Nat := x.result ||| bankCodes x.vopen x.vshort mv <<< (64 * k)

/-- The mark of alcove `i` where its bank has been tested. -/
def touchMarkTested (h banks result i : Nat) (s : State) : State :=
  if natBits banks (i / 32) 1 = 1 then touchMark h (natBits result (64 * (i / 32)) 64) i s else s

/-- The marks of the alcoves of the banks tested. -/
def touchMarks (h banks result : Nat) (s : State) : State := s.each 96 (touchMarkTested h banks result)

/-- The test is over, and its alcoves are marked where that has been asked for. -/
def touchMarked (h : Nat) (x : TouchX) (k : Nat) (mv : List Int) (s : State) : State :=
  ((touchClosed h mv s).modPeh h (fun y => { y with touch := none })).when x.apply (touchMarks h (x.done ||| 1 <<< k) (x.codes k mv))

theorem touchPhase_done {k : Nat} (mv : List Int) (hp : x.phase = 3) (hb : x.banks = [k]) :
    touchPhase h mv x s = (touchMarked h x k mv s).complete x.did .ok (touchRes (x.codes k mv)) := by
  unfold touchPhase touchMarked touchClosed touchMarks touchMarkTested TouchX.codes touchDone
  simp only [hp, hb, List.headD_cons, List.tail_cons, List.isEmpty_nil, if_true]

theorem touchClosed_rest (hh : h < 32) (mv : List Int) (s : State) :
    (touchClosed h mv s).queues = s.queues ∧ (touchClosed h mv s).alcs = s.alcs := by
  have hstore := ppStoreAll_tripsOnly s h 0xFFFFFFFF mv
  have hoff := (ppOff_pathsOnly hh 0xFFFFFFFF (s.ppStoreAll h 0xFFFFFFFF mv)).rest
  rw [touchClosed, siteSel_queues, siteSel_alcs, hoff.queues, hoff.alcs, hstore.queues, hstore.alcs]
  exact ⟨rfl, rfl⟩

theorem touchClosed_off (hh : h < 32) (mv : List Int) (s : State) : Off (fun a => pathReg h a ∨ resultReg h a) s (touchClosed h mv s) :=
  (siteSel_off ..).after (((ppOff_pathsOnly hh ..).regs.mono fun _ => .inl).after ((ppStoreAll_off ..).mono fun _ => .inr))

theorem touchMark_tripsOnly (h codes i : Nat) (s : State) : TripsOnly s (touchMark h codes i s) := by
  have hset (a b : Nat) : TripsOnly s ((s.p (F.ALC_STATE.STATE h i) a).p (F.ALC_STATE.CONTACT h i) b) :=
    (State.p_tripsOnly ..).after (State.p_tripsOnly ..)
  exact .ite (.refl s) (.ite (hset ..) (.ite (hset ..) (hset ..)))
theorem touchMark_off (h codes i : Nat) (s : State) : Off (· = R.ALC_STATE h i) s (touchMark h codes i s) := by
  have hset (a b : Nat) : Off (· = R.ALC_STATE h i) s ((s.p (F.ALC_STATE.STATE h i) a).p (F.ALC_STATE.CONTACT h i) b) := by
    refine State.p_off (State.p_off (.refl s) a ?_) b ?_ <;> rfl
  exact .ite (.refl s) (.ite (hset ..) (.ite (hset ..) (hset ..)))

theorem touchMarkTested_tripsOnly (h banks result i : Nat) (s : State) : TripsOnly s (touchMarkTested h banks result i s) :=
  .ite (touchMark_tripsOnly ..) (.refl s)
theorem touchMarkTested_off (h banks result i : Nat) (s : State) : Off (· = R.ALC_STATE h i) s (touchMarkTested h banks result i s) :=
  .ite (touchMark_off ..) (.refl s)

theorem touchMarks_tripsOnly (h banks result : Nat) (s : State) : TripsOnly s (touchMarks h banks result s) :=
  State.each_inv (.refl s) fun _ _ _ ht => (touchMarkTested_tripsOnly ..).after ht

theorem touchMarked_rest (hh : h < 32) (k : Nat) (mv : List Int) (x : TouchX) (s : State) :
    (touchMarked h x k mv s).queues = s.queues ∧ ((touchMarked h x k mv s).peh h).touch = none := by
  obtain ⟨hqueues, -⟩ := touchClosed_rest hh mv s
  have hm : TripsOnly ((touchClosed h mv s).modPeh h (fun y => { y with touch := none })) (touchMarked h x k mv s) :=
    .ite (touchMarks_tripsOnly ..) (.refl _)
  rw [hm.queues, hm.peh, State.modPeh, State.setPeh_queues, State.peh_setPeh]
  exact ⟨hqueues, rfl⟩

@[simp] theorem State.complete_peh (t : State) (d : Nat) (st : Status) (res : List (Nat × Nat × Nat)) (h : Nat) :
    (t.complete d st res).peh h = t.peh h := by
  obtain ⟨_, _, e⟩ := t.complete_leaves d st res; rw [e]; rfl

theorem touchPhaseEnd_completes {k : Nat} (mv : List Int) (hh : h < s.part.halls) (hx : (s.peh h).touch = some x) (hp : x.phase = 3)
    (hb : x.banks = [k]) (hof : s.queueOf x.did = some q) (hrun : (s.queue q).run = some r) :
    ∃ t, exec (.touchdownPhaseEnd h mv) s = .next t ∧ (t.peh h).touch = none ∧
      Completed t q r .ok [(8, 24, x.result ||| (bankCodes x.vopen x.vshort mv) <<< (64 * k))] := by
  obtain ⟨hqueues, htouch⟩ := touchMarked_rest (lt_of_lt_of_le hh (Part_halls_le _)) k mv x s
  exact ⟨_, (exec_touchdownPhaseEnd mv hh hx).trans (congrArg _ (touchPhase_done mv hp hb)), by rw [State.complete_peh, htouch],
    State.complete_running hqueues hof hrun ..⟩

/-! ### Marks (R196) -/

/-- Every slot that the alcove owns has code `v` among the bank's codes. -/
def allContacts (own codes v : Nat) : Bool :=
  ((List.range 32).filter (fun c => natBits own c 1 = 1)).all (fun c => natBits codes (2 * c) 2 = v)

/-- Alcove `i`, which owns the slots `own`, bears the mark for the codes of its bank: FREE and OPEN where every slot is OPEN, BOUND
otherwise (R196). -/
abbrev ContactMarked (t : State) (h i own codes : Nat) : Prop :=
  t.alcSt h i = (if allContacts own codes 2 then 0 else alcBound) ∧
    t.g (F.ALC_STATE.CONTACT h i) = (if allContacts own codes 2 then 3 else if allContacts own codes 1 then 1 else 2)

/-- A field of a field. -/
theorem natBits_natBits {b n m : Nat} (hb : b + n ≤ m) (w a : Nat) : natBits (natBits w a m) b n = natBits w (a + b) n := by
  apply Nat.eq_of_testBit_eq
  intro i
  simp only [natBits, Nat.testBit_mod_two_pow, Nat.testBit_shiftRight, Nat.add_assoc]
  by_cases hi : i < n
  · simp [hi, show b + i < m by omega]
  · simp [hi]

/-- The codes of the only bank tested, read back from its place in the result. -/
theorem allContacts_bank (own codes v k : Nat) : allContacts own (natBits (0 ||| codes <<< (64 * k)) (64 * k) 64) v = allContacts own codes v := by
  unfold allContacts
  rw [Bool.eq_iff_iff, List.all_eq_true, List.all_eq_true]
  refine forall_congr' fun c => imp_congr_right fun hc => ?_
  have hc32 : c < 32 := List.mem_range.mp (List.mem_filter.mp hc).1
  rw [natBits_natBits (by omega), Nat.zero_or]
  unfold natBits
  rw [Nat.shiftRight_add, Nat.shiftLeft_shiftRight]

/-- The mark of a BOUND alcove (R196): FREE where every slot is OPEN. -/
theorem touchMark_bound {codes i : Nat} (ho : (s.alc h i).own ≠ 0) (hb : s.alcSt h i = alcBound) :
    ContactMarked (touchMark h codes i s) h i (s.alc h i).own codes := by
  have hset (a b : Nat) : ((s.p (F.ALC_STATE.STATE h i) a).p (F.ALC_STATE.CONTACT h i) b).alcSt h i = a % 2 ^ 3 ∧
      ((s.p (F.ALC_STATE.STATE h i) a).p (F.ALC_STATE.CONTACT h i) b).g (F.ALC_STATE.CONTACT h i) = b % 2 ^ 2 := by
    constructor
    · rw [State.alcSt, State.g_p_field _ _ rfl]
      exact State.g_p_same _ _ _ (Nat.le_of_ble_eq_true rfl)
    · exact State.g_p_same _ _ _ (Nat.le_of_ble_eq_true rfl)
  have hm : touchMark h codes i s = if allContacts (s.alc h i).own codes 2 then (s.p (F.ALC_STATE.STATE h i) 0).p (F.ALC_STATE.CONTACT h i) 3
      else if allContacts (s.alc h i).own codes 1 then (s.p (F.ALC_STATE.STATE h i) alcBound).p (F.ALC_STATE.CONTACT h i) 1
      else (s.p (F.ALC_STATE.STATE h i) alcBound).p (F.ALC_STATE.CONTACT h i) 2 := if_neg (by simp [ho, hb])
  rw [hm, ContactMarked]
  split
  · exact hset 0 3
  · split
    · exact hset alcBound 1
    · exact hset alcBound 2

/-- The marks reach each BOUND alcove of the bank tested. -/
theorem touchMarks_bound {k i codes : Nat} (hi : i < 96) (hk : i / 32 = k) (ho : (s.alc h i).own ≠ 0) (hb : s.alcSt h i = alcBound) :
    ContactMarked (touchMarks h (0 ||| 1 <<< k) (0 ||| codes <<< (64 * k)) s) h i (s.alc h i).own codes := by
  have hbank : natBits (0 ||| 1 <<< k) (i / 32) 1 = 1 := by
    rw [hk, natBits_one, Nat.zero_or, Nat.one_shiftLeft, Nat.testBit_two_pow_self]
    rfl
  have hst {j : Nat} (hj : j ≠ i) (t : State) {f : FRef} (hf : f.addr = R.ALC_STATE h i) :
      (touchMarkTested h (0 ||| 1 <<< k) (0 ||| codes <<< (64 * k)) j t).g f = t.g f :=
    (touchMarkTested_off ..).g f (by rw [hf]; unfold R.ALC_STATE; omega)
  refine State.each_reaches (I := fun t => t.alc h i = s.alc h i ∧ t.alcSt h i = alcBound)
    (P := fun t => ContactMarked t h i (s.alc h i).own codes) hi ⟨rfl, hb⟩
    (fun j _ hj t ht => ?_) (fun t ht => ?_) (fun j _ hj t ht => ?_)
  · rw [State.alc_congr (touchMarkTested_tripsOnly ..).alcs, State.alcSt, hst hj t rfl]
    exact ht
  · obtain ⟨halc, hbound⟩ := ht
    have hm := touchMark_bound (h := h) (s := t) (i := i) (codes := natBits (0 ||| codes <<< (64 * k)) (64 * k) 64) (by rwa [halc]) hbound
    rw [ContactMarked, halc, allContacts_bank, allContacts_bank] at hm
    rwa [touchMarkTested, if_pos hbank, hk]
  · rw [ContactMarked, State.alcSt, hst hj t rfl, hst hj t rfl]
    exact ht

theorem touchMarked_bound {k i : Nat} (mv : List Int) (hh : h < 32) (ha : x.apply = true) (hr : x.result = 0) (hd : x.done = 0)
    (hi : i < 96) (hk : i / 32 = k) (ho : (s.alc h i).own ≠ 0) (hb : s.alcSt h i = alcBound) :
    ContactMarked (touchMarked h x k mv s) h i (s.alc h i).own (bankCodes x.vopen x.vshort mv) := by
  obtain ⟨-, halcs⟩ := touchClosed_rest hh mv s
  have halc : ((touchClosed h mv s).modPeh h (fun y => { y with touch := none })).alc h i = s.alc h i :=
    (State.alc_congr (State.setPeh_alcs ..) h i).trans (State.alc_congr halcs h i)
  have hst : ((touchClosed h mv s).modPeh h (fun y => { y with touch := none })).alcSt h i = s.alcSt h i := by
    refine (State.setPeh_g ..).trans ((touchClosed_off hh mv s).g _ ?_)
    rintro ((⟨d, e⟩ | e | ⟨d, e⟩) | ⟨d, e⟩) <;>
      simp only [F.ALC_STATE.STATE, R.ALC_STATE, R.PE_STAT, R.TRIP_MAP, R.SMU_STAT, R.PP_RESULT] at e <;> omega
  have hm := touchMarks_bound (codes := bankCodes x.vopen x.vshort mv) hi hk (by rwa [halc]) (hst.trans hb)
  rw [halc] at hm
  rwa [touchMarked, ha, State.when_true, TouchX.codes, hr, hd]

theorem touchPhaseEnd_marks {k i : Nat} (mv : List Int) (hh : h < s.part.halls) (hx : (s.peh h).touch = some x) (hp : x.phase = 3)
    (hb : x.banks = [k]) (ha : x.apply = true) (hr : x.result = 0) (hd : x.done = 0) (hi : i < 96) (hk : i / 32 = k)
    (ho : (s.alc h i).own ≠ 0) (hs : s.alcSt h i = alcBound) : ∃ t, exec (.touchdownPhaseEnd h mv) s = .next t ∧
      ContactMarked t h i (s.alc h i).own (bankCodes x.vopen x.vshort mv) := by
  refine ⟨_, (exec_touchdownPhaseEnd mv hh hx).trans (congrArg _ (touchPhase_done mv hp hb)), ?_⟩
  rw [ContactMarked, State.alcSt, State.complete_g, State.complete_g]
  exact touchMarked_bound mv (lt_of_lt_of_le hh (Part_halls_le _)) ha hr hd hi hk ho hs

end

/-- Settles O11: a GO and the phases of a measurement and of a contact test by an equation each; what stands after them follows as trips
and blanking leave it (`PathsOnly`). -/
theorem parametricAndContactTests : Obligations.ParametricAndContactTests :=
  ⟨fun _ _ _ hr hh hs hrun ht hp hf hne hlo hhi hms hml => exec_ppGo_begins hr hh hs hrun ht hp hf hne hlo hhi hms hml,
    fun _ _ _ hr hh hs hrun => exec_ppGo_refused hr hh hs hrun,
    fun _ _ _ hr hh hs => exec_ppGo_waits hr hh hs,
    fun _ _ hh hp hd => parametricPhaseEnd_selects hh hp hd,
    fun _ _ _ hh hc hp hm hs => parametricPhaseEnd_acts hh hc hp hm hs,
    fun _ _ hh hp => parametricPhaseEnd_opens hh hp,
    fun _ _ _ mv hh hc hp hm => ppDone_stores mv hh hc hp hm,
    fun _ _ _ hx hu hs ha hl hb h20 h21 h30 hne hlo hhi hlim hms hml ho hrun ht hp hxf hf =>
      exec_touchdown_begins hx ⟨rfl, ha, hl, hb, h20, h21, h30, hne, hlo, hhi, hlim, hms, hml, ho⟩ ⟨hu, hrun, ht, hp, hxf, hf⟩ hs,
    fun _ _ _ mv _ _ hh hx hp hb hd => touchPhaseEnd_selects mv hh hx hp hb hd,
    fun _ _ _ mv _ hh hc hx hp hs => touchPhaseEnd_acts mv hh hc hx hp hs,
    fun _ _ mv _ hh hx hp => touchPhaseEnd_opens mv hh hx hp,
    fun _ _ _ _ mv _ _ hh hx hp hb hof hrun => touchPhaseEnd_completes mv hh hx hp hb hof hrun,
    fun _ _ _ _ mv _ hh hx hp hb ha hr hd _ hi hk ho hs => touchPhaseEnd_marks mv hh hx hp hb ha hr hd hi hk ho hs⟩

end Sys2Proof.Machine
end

section
/-! PROOF. Requests of a serial engine and the ends of its transfers: what reports and journal records leave (R373–R376). -/
namespace Sys2Proof.Machine
-- One declaration after the other: elaborated side by side, they exceed the check's memory.
set_option Elab.async false

/-! ### The journal and replays -/

section
variable {s t z : State} {h : Nat}

/-- Recording leaves whether a replay runs. -/
theorem State.jforce_replaying (s : State) (l : List JRec) : (s.jforce l).replaying = s.replaying := by
  have hfifo (u : State) (f : List JRec) (n : Nat) : (((u.setFifo f).seqAdd n).ringFlags 4).is F.JNL_STAT.REPLAY = u.is F.JNL_STAT.REPLAY := by
    rw [(State.ringFlags_off (P := (· = R.RR_STAT 4)) (.refl _) rfl).is F.JNL_STAT.REPLAY (by decide), State.seqAdd,
      State.is_p_reg _ _ (by decide), State.setFifo, State.is_p_field _ _ rfl]
    rfl
  have hdrop (u : State) (m n : Nat) : ((u.seqAdd m).count F.JNL_DROP.COUNT F.JNL_DROP.SAT n).is F.JNL_STAT.REPLAY = u.is F.JNL_STAT.REPLAY := by
    rw [(State.count_off (P := (· = R.JNL_DROP)) (.refl _) n rfl rfl).is F.JNL_STAT.REPLAY (by decide), State.seqAdd,
      State.is_p_reg _ _ (by decide)]
  unfold State.jforce State.replaying
  dsimp only
  split
  · exact hfifo ..
  · exact hdrop ..
theorem State.j_replaying (s : State) (typ k subj arg data : Nat) : (s.j typ k subj arg data).replaying = s.replaying := by
  unfold State.j State.jput
  split
  · exact State.jforce_replaying ..
  · rfl

/-! ### Serial engines and alcoves -/

@[simp] theorem State.hse_setHse (s : State) (h : Nat) (x : HseX) : (s.setHse h x).hse h = x := tabGet_set_same _ _ _ _
@[simp] theorem State.hse_modHse (s : State) (h : Nat) (f : HseX → HseX) : (s.modHse h f).hse h = f (s.hse h) := tabGet_set_same _ _ _ _
theorem State.hse_congr (k : t.hses = s.hses) (h : Nat) : t.hse h = s.hse h := by unfold State.hse; rw [k]
theorem State.hl_congr (k : t.halls = s.halls) (h : Nat) : t.hl h = s.hl h := by unfold State.hl; rw [k]
theorem Reports.hses (k : Reports s t) : t.hses = s.hses := by obtain ⟨_, _, _, _, _, _, _, _, rfl⟩ := k; rfl
theorem Reports.hse (k : Reports s t) (h : Nat) : t.hse h = s.hse h := State.hse_congr k.hses h
theorem Reports.alc (k : Reports s t) (h i : Nat) : t.alc h i = s.alc h i := State.alc_congr k.alcs h i

/-- The registers of a serial engine lie outside the journal's. -/
theorem not_jnlReg_hse {a : Nat} (h1 : 0x500000 ≤ a) (h2 : a < 0x580000) : ¬ jnlReg a := by
  unfold jnlReg R.JNL_STAT R.JNL_SEQ R.JNL_DROP R.RR_STAT
  omega

/-! ### BUSY and QDEPTH -/

theorem hseStat_reports (h : Nat) (s : State) : Reports s (hseStat h s) := (State.p_reports ..).after (State.p_reports ..)
theorem hseStat_only (h : Nat) (s : State) : Off (· = R.HSE_STAT h) s (hseStat h s) := by
  refine State.p_off (State.pb_off (.refl s) _ ?_) _ ?_ <;> rfl
theorem hseStat_busy (h : Nat) (s : State) : (hseStat h s).is (F.HSE_STAT.BUSY h) = (s.hse h).busy := by
  rw [hseStat, State.is_p_field _ _ rfl, State.pb_def, State.is_p_same _ _ _ rfl]
  cases (s.hse h).busy <;> rfl
theorem hseStat_depth (h : Nat) (s : State) : (hseStat h s).g (F.HSE_STAT.QDEPTH h) = (s.hse h).queue.length % 128 :=
  State.g_p_same _ _ _ (Nat.le_of_ble_eq_true rfl)
/-- The sticky bits of the status stay. -/
theorem hseStat_sticky (s : State) {f : FRef} (hf : Nat.ble (f.lo + f.len) 24 = true) : (hseStat h s).is f = s.is f := by
  rw [hseStat, State.is_p_field _ _ (by rw [Bool.or_eq_true]; exact .inr hf), State.pb_def,
    State.is_p_field _ _ (by rw [Bool.or_eq_true]; exact .inr (Nat.ble_eq_true_of_le (by have := Nat.le_of_ble_eq_true hf; simp only [F.HSE_STAT.BUSY]; omega)))]

/-! ### The report of a transfer -/

/-- The registers in which a transfer's report shows. -/
def reportReg (h a : Nat) : Prop := a = R.HSE_STAT h ∨ a = R.HSE_LAST h ∨ a = R.HSE_CRC h

theorem not_reportReg {a : Nat} (hh : h < 32) (ha : a < 0x500000 ∨ 0x541000 ≤ a) : ¬ reportReg h a := by
  unfold reportReg R.HSE_STAT R.HSE_LAST R.HSE_CRC
  omega

/-- The sticky bits that a report sets. -/
def reportFlags (h flags : Nat) (s : State) : State :=
  (s.when (natBits flags 2 1 == 1) (fun t => t.set1 (F.HSE_STAT.LANE_LOST h))).when (natBits flags 3 1 == 1)
    (fun t => t.set1 (F.HSE_STAT.ABORTED h))

/-- HSE_LAST as a report leaves it. -/
def reportLast (h slot alc flags : Nat) (s : State) : State :=
  ((s.p (F.HSE_LAST.SLOT h) slot).p (F.HSE_LAST.ALCOVE h) alc).p (F.HSE_LAST.FLAGS h) flags

theorem hseReport_eq (h slot alc flags crc : Nat) (s : State) :
    hseReport h slot alc flags crc s = reportFlags h flags ((reportLast h slot alc flags s).p (F.HSE_CRC.CRC h) crc) := rfl

theorem reportFlags_off (h flags : Nat) (s : State) : Off (· = R.HSE_STAT h) s (reportFlags h flags s) :=
  State.when_off (fun t => State.set1_off (.refl t) rfl) (State.when_off (fun t => State.set1_off (.refl t) rfl) (.refl s))
theorem reportLast_off (h slot alc flags : Nat) (s : State) : Off (· = R.HSE_LAST h) s (reportLast h slot alc flags s) := by
  refine State.p_off (State.p_off (State.p_off (.refl s) _ ?_) _ ?_) _ ?_ <;> rfl

theorem hseReport_off (h slot alc flags crc : Nat) (s : State) : Off (reportReg h) s (hseReport h slot alc flags crc s) := by
  rw [hseReport_eq]
  exact ((reportFlags_off ..).mono fun _ => .inl).after (State.p_off ((reportLast_off ..).mono fun _ e => .inr (.inl e)) _ (.inr (.inr rfl)))
theorem hseReport_reports (h slot alc flags crc : Nat) (s : State) : Reports s (hseReport h slot alc flags crc s) := by
  rw [hseReport_eq]
  refine .after ((State.when_reports (fun t => State.set1_reports t _) _ _).after (State.when_reports (fun t => State.set1_reports t _) _ _)) ?_
  exact (State.p_reports ..).after ((State.p_reports ..).after ((State.p_reports ..).after (State.p_reports ..)))

/-- HSE_LAST and HSE_CRC after a report. -/
theorem hseReport_last (h slot alc flags crc : Nat) (s : State) :
    (hseReport h slot alc flags crc s).g (F.HSE_LAST.SLOT h) = slot % 256 ∧
      (hseReport h slot alc flags crc s).g (F.HSE_LAST.ALCOVE h) = alc % 4096 ∧
      (hseReport h slot alc flags crc s).g (F.HSE_LAST.FLAGS h) = flags % 32 ∧
      (hseReport h slot alc flags crc s).g (F.HSE_CRC.CRC h) = crc % 2 ^ 32 := by
  have hlast {f : FRef} (hf : f.addr = R.HSE_LAST h) : (hseReport h slot alc flags crc s).g f = (reportLast h slot alc flags s).g f := by
    rw [hseReport_eq, (reportFlags_off ..).g f (by rw [hf]; unfold R.HSE_LAST R.HSE_STAT; omega),
      State.g_p_ne _ _ (.inl (by rw [hf]; simp only [F.HSE_CRC.CRC, R.HSE_LAST, R.HSE_CRC]; omega))]
  refine ⟨?_, ?_, ?_, ?_⟩
  · rw [hlast rfl, reportLast, State.g_p_field _ _ rfl, State.g_p_field _ _ rfl]
    exact State.g_p_same _ _ _ (Nat.le_of_ble_eq_true rfl)
  · rw [hlast rfl, reportLast, State.g_p_field _ _ rfl]
    exact State.g_p_same _ _ _ (Nat.le_of_ble_eq_true rfl)
  · rw [hlast rfl]
    exact State.g_p_same _ _ _ (Nat.le_of_ble_eq_true rfl)
  · rw [hseReport_eq, (reportFlags_off ..).g _ (by simp only [F.HSE_CRC.CRC, R.HSE_CRC, R.HSE_STAT]; omega)]
    exact State.g_p_same _ _ _ (Nat.le_of_ble_eq_true rfl)

/-- ABORTED after a report: it stays set, and a report with the flag sets it. -/
theorem hseReport_aborted {flags : Nat} (slot alc crc : Nat) (hs : natBits flags 3 1 = 1 ∨ s.is (F.HSE_STAT.ABORTED h) = true) :
    (hseReport h slot alc flags crc s).is (F.HSE_STAT.ABORTED h) = true := by
  have hone : ∀ u : State, (u.set1 (F.HSE_STAT.ABORTED h)).is (F.HSE_STAT.ABORTED h) = true := fun u => by
    rw [State.set1_is, State.is_p_same _ _ _ rfl]; rfl
  rw [hseReport_eq, reportFlags]
  cases hf : natBits flags 3 1 == 1
  case true => exact hone _
  case false =>
    have hab : s.is (F.HSE_STAT.ABORTED h) = true := hs.resolve_left (by simpa using hf)
    have hcrc : ((reportLast h slot alc flags s).p (F.HSE_CRC.CRC h) crc).is (F.HSE_STAT.ABORTED h) = true := by
      rw [State.is_p_reg _ _ (by simp only [F.HSE_CRC.CRC, F.HSE_STAT.ABORTED, R.HSE_STAT, R.HSE_CRC]; omega), (reportLast_off ..).is _
        (by simp only [F.HSE_STAT.ABORTED, R.HSE_STAT, R.HSE_LAST]; omega), hab]
    rw [State.when_false, State.when]
    split
    · rwa [State.set1_is, State.is_p_field _ _ rfl]
    · exact hcrc

/-! ### The status of a SEND -/

theorem sendStatus_leaves (h : Nat) (r : SendReq) (smis : Bool) (s : State) : ∃ alcs, sendStatus h r smis s = { s with alcs := alcs } := by
  unfold sendStatus
  split
  · exact ⟨_, rfl⟩
  · split <;> exact ⟨_, rfl⟩

theorem sendStatus_lastSend (h : Nat) (r : SendReq) (smis : Bool) (s : State) (k i : Nat) :
    ((sendStatus h r smis s).alc k i).lastSend = (s.alc k i).lastSend := by
  unfold sendStatus
  split
  · rfl
  · split
    · by_cases e : 96 * k + i = 96 * h + r.alc
      · have hx : (s.modAlc h r.alc (fun a => { a with sdone := true, smis := smis })).alc k i = { s.alc k i with sdone := true, smis := smis } := by
          unfold State.alc; rw [e]; exact tabGet_set_same ..
        rw [hx]
      · exact congrArg AlcX.lastSend (tabGet_set_ne _ _ _ e)
    · rfl

/-- The alcove of its last SEND sees it done, with its mismatch. -/
theorem sendStatus_tells {r : SendReq} (smis : Bool) (hr : s.replaying = false) (hl : (s.alc h r.alc).lastSend = r.seq) :
    (sendStatus h r smis s).alc h r.alc = { s.alc h r.alc with sdone := true, smis := smis } := by
  unfold sendStatus
  rw [if_neg (by simp [hr]), if_pos hl, State.alc_modAlc]

/-! ### The end of a SEND (R374) -/

section
variable {r : SendReq} {flags mism crc : Nat}

/-- The end of a SEND before its journal record. -/
def sendReported (h : Nat) (r : SendReq) (flags crc : Nat) (s : State) : State :=
  sendStatus h r (natBits flags 0 1 == 1) (hseReport h r.slot (96 * h + r.alc) flags crc s)

theorem sendEnd_eq (h : Nat) (r : SendReq) (flags mism crc : Nat) (s : State) : sendEnd h r flags mism crc s =
    (sendReported h r flags crc s).j 0x58 h (96 * h + r.alc) r.slot (packB [(0, 1, flags), (1, 4, mism), (5, 4, crc)]) := rfl

/-- Only ends of SENDs of hall `h` have shown, and bytes have been stored. -/
structure SendsShown (h : Nat) (s t : State) : Prop where
  regs : Off (fun a => reportReg h a ∨ jnlReg a) s t
  rest : ∃ regs fresh freshN jnl flt evIn rings rs alcs mem free, t = { s with
    regs := regs, fresh := fresh, freshN := freshN, jnl := jnl, flt := flt, evIn := evIn, rings := rings, rs := rs, alcs := alcs
    mem := mem, free := free }
  replaying : t.replaying = s.replaying
  lastSend : ∀ k i, (t.alc k i).lastSend = (s.alc k i).lastSend

theorem SendsShown.refl (s : State) : SendsShown h s s :=
  ⟨.refl s, ⟨_, _, _, _, _, _, _, _, _, _, _, rfl⟩, rfl, fun _ _ => rfl⟩
theorem SendsShown.after (ht : SendsShown h s t) (hs : SendsShown h z s) : SendsShown h z t := by
  obtain ⟨or, ⟨_, _, _, _, _, _, _, _, _, _, _, rfl⟩, rr, lr⟩ := hs
  obtain ⟨ot, ⟨_, _, _, _, _, _, _, _, _, _, _, rfl⟩, rt, lt⟩ := ht
  exact ⟨ot.after or, ⟨_, _, _, _, _, _, _, _, _, _, _, rfl⟩, rt.trans rr, fun k i => (lt k i).trans (lr k i)⟩
theorem SendsShown.hses (k : SendsShown h s t) : t.hses = s.hses := by obtain ⟨_, _, _, _, _, _, _, _, _, _, _, rfl⟩ := k.rest; rfl
theorem SendsShown.hse (k : SendsShown h s t) (j : Nat) : t.hse j = s.hse j := State.hse_congr k.hses j
theorem SendsShown.halls (k : SendsShown h s t) : t.halls = s.halls := by obtain ⟨_, _, _, _, _, _, _, _, _, _, _, rfl⟩ := k.rest; rfl
theorem SendsShown.queues (k : SendsShown h s t) : t.queues = s.queues := by obtain ⟨_, _, _, _, _, _, _, _, _, _, _, rfl⟩ := k.rest; rfl
theorem SendsShown.hl (k : SendsShown h s t) (j : Nat) : t.hl j = s.hl j := State.hl_congr k.halls j

theorem hseReport_shown (hh : h < 32) (slot alc flags crc : Nat) (s : State) : SendsShown h s (hseReport h slot alc flags crc s) := by
  have hr := hseReport_reports h slot alc flags crc s
  refine ⟨(hseReport_off ..).mono fun _ => .inl, ?_, (hseReport_off ..).is _ (not_reportReg hh (by decide)), fun k i => by rw [hr.alc]⟩
  obtain ⟨_, _, _, _, _, _, _, _, e⟩ := hr
  exact ⟨_, _, _, _, _, _, _, _, _, _, _, e⟩
theorem State.j_shown (s : State) (typ k subj arg data : Nat) : SendsShown h s (s.j typ k subj arg data) := by
  have hr := s.j_reports typ k subj arg data
  refine ⟨State.j_off (.refl s) _ _ _ _ _ fun _ => .inr, ?_, State.j_replaying .., fun k i => by rw [hr.alc]⟩
  obtain ⟨_, _, _, _, _, _, _, _, e⟩ := hr
  exact ⟨_, _, _, _, _, _, _, _, _, _, _, e⟩
theorem sendStatus_shown (r : SendReq) (smis : Bool) (s : State) : SendsShown h s (sendStatus h r smis s) := by
  have hl := sendStatus_lastSend h r smis s
  obtain ⟨_, e⟩ := sendStatus_leaves h r smis s
  rw [e] at hl ⊢
  exact ⟨.base (.refl s), ⟨_, _, _, _, _, _, _, _, _, _, _, rfl⟩, rfl, hl⟩
theorem State.draw_shown (s : State) (w : Nat) : SendsShown h s (s.draw w).2 :=
  ⟨.base (.refl s), ⟨_, _, _, _, _, _, _, _, _, _, _, rfl⟩, rfl, fun _ _ => rfl⟩
theorem State.wrByte_shown (s : State) (p a : Nat) (b : Byte) : SendsShown h s (s.wrByte p a b) :=
  ⟨.base (.refl s), ⟨_, _, _, _, _, _, _, _, _, _, _, rfl⟩, rfl, fun _ _ => rfl⟩

theorem sendReported_shown (hh : h < 32) (r : SendReq) (flags crc : Nat) (s : State) : SendsShown h s (sendReported h r flags crc s) :=
  (sendStatus_shown ..).after (hseReport_shown hh ..)
theorem sendEnd_shown (hh : h < 32) (r : SendReq) (flags mism crc : Nat) (s : State) : SendsShown h s (sendEnd h r flags mism crc s) := by
  rw [sendEnd_eq]
  exact (State.j_shown ..).after (sendReported_shown hh ..)

/-- What a SEND's end leaves in a register of its engine is what its report leaves there. -/
theorem sendEnd_g (r : SendReq) (flags mism crc : Nat) (s : State) {f : FRef} (h1 : 0x500000 ≤ f.addr) (h2 : f.addr < 0x580000) :
    (sendEnd h r flags mism crc s).g f = (hseReport h r.slot (96 * h + r.alc) flags crc s).g f := by
  obtain ⟨_, e⟩ := sendStatus_leaves h r (natBits flags 0 1 == 1) (hseReport h r.slot (96 * h + r.alc) flags crc s)
  rw [sendEnd_eq, (State.j_off (P := jnlReg) (.refl _) _ _ _ _ _ fun _ => id).g f (not_jnlReg_hse h1 h2), sendReported, e]
  rfl

theorem sendEnd_alc (h : Nat) (r : SendReq) (flags mism crc : Nat) (s : State) (k i : Nat) :
    (sendEnd h r flags mism crc s).alc k i = (sendReported h r flags crc s).alc k i := by
  rw [sendEnd_eq, (State.j_reports ..).alc]

/-- The alcove of its last SEND sees it done. -/
theorem sendEnd_tells (hh : h < 32) (hr : s.replaying = false) (hl : (s.alc h r.alc).lastSend = r.seq) :
    ((sendEnd h r flags mism crc s).alc h r.alc).sdone = true ∧
      ((sendEnd h r flags mism crc s).alc h r.alc).smis = (natBits flags 0 1 == 1) := by
  have hrep := hseReport_shown hh r.slot (96 * h + r.alc) flags crc s
  rw [sendEnd_alc, sendReported, sendStatus_tells _ (hrep.replaying.trans hr) ((hrep.lastSend ..).trans hl)]
  exact ⟨rfl, rfl⟩

theorem sendEnd_aborted (hs : natBits flags 3 1 = 1 ∨ s.is (F.HSE_STAT.ABORTED h) = true) (hh : h < 32) :
    (sendEnd h r flags mism crc s).is (F.HSE_STAT.ABORTED h) = true := by
  rw [State.is, sendEnd_g _ _ _ _ _ (by simp only [F.HSE_STAT.ABORTED, R.HSE_STAT]; omega) (by simp only [F.HSE_STAT.ABORTED, R.HSE_STAT]; omega)]
  exact hseReport_aborted _ _ _ hs

/-- An alcove that has seen its last SEND done and mismatched still does after another SEND ends as mismatched. -/
theorem sendEnd_seen {i : Nat} (hf : natBits flags 0 1 = 1) (hs : ((s.alc h i).sdone && (s.alc h i).smis) = true) :
    (((sendEnd h r flags mism crc s).alc h i).sdone && ((sendEnd h r flags mism crc s).alc h i).smis) = true := by
  have hrep := (hseReport_reports h r.slot (96 * h + r.alc) flags crc s).alc h i
  rw [sendEnd_alc, sendReported, hf]
  unfold sendStatus
  split
  · rwa [hrep]
  · split
    · by_cases e : i = r.alc
      · subst e; rw [State.alc_modAlc]; rfl
      · rw [State.modAlc, State.alc, State.setAlc, tabGet_set_ne _ _ _ (by omega)]
        rwa [← State.alc, hrep]
    · rwa [hrep]

end

/-! ### Requests (R373, R375) -/

section
variable {r : SendReq} {rest : List SendReq}

/-- A swap waits for no transfer, or for one that is left. -/
theorem swapAfterSend_none (hw : (s.hl h).hold.swapWait = none) : swapAfterSend h s = s := by unfold swapAfterSend; rw [hw]
theorem swapAfterSend_left {b : Nat} (hb : s.liveBank h = some b) (hs : s.bankSends h b = true) : swapAfterSend h s = s := by
  unfold swapAfterSend
  split
  case h_1 c d _ hd =>
    obtain rfl : b = d := Option.some.inj (hb.symm.trans hd)
    simp [hs]
  case h_2 => rfl

theorem exec_hseEnqueue (hh : h < s.part.halls) : exec (.hseEnqueue h) s = .next (swapAfterSend h (hseEnqueue h s)) :=
  congrArg Host.Outcome.next (if_pos (State.hallOk_of_lt hh))

/-- The requests of the hall, with the oldest one on its way queued. -/
def hseQueued (h : Nat) (r : SendReq) (rest : List SendReq) (s : State) : State :=
  hseStat h ((s.setHse h { s.hse h with flight := rest }).modHse h (fun y => { y with queue := y.queue ++ [r] }))

theorem hseEnqueue_queues (hf : (s.hse h).flight = r :: rest) (hn : s.hseFenced h = false) (hq : (s.hse h).queue.length < 64) :
    hseEnqueue h s = hseQueued h r rest s := by
  unfold hseEnqueue
  simp only [hf]
  rw [if_neg (ne_true_of_eq_false hn), if_pos hq]
  rfl

theorem hseQueued_hse (h : Nat) (r : SendReq) (rest : List SendReq) (s : State) :
    (hseQueued h r rest s).hse h = { s.hse h with flight := rest, queue := (s.hse h).queue ++ [r] } := by
  rw [hseQueued, (hseStat_reports ..).hse, State.hse_modHse, State.hse_setHse]

/-- The oldest request on its way has been dropped, with QOVF and the count of R375. -/
def hseDropped (h : Nat) (rest : List SendReq) (s : State) : State :=
  ((s.setHse h { s.hse h with flight := rest }).set1 (F.HSE_STAT.QOVF h)).count (F.HSE_QDROP.COUNT h) (F.HSE_QDROP.SAT h)

/-- The record and the source of a request dropped. -/
def dropReported (h : Nat) (r : SendReq) (s : State) : State :=
  (s.j 0x58 h (96 * h + r.alc) r.slot (packB [(0, 1, 1), (1, 4, 0), (5, 4, crc32 [])])).raise (8 * h + 5) (96 * h + r.alc) [96 * h + r.alc]

theorem hseEnqueue_full (hf : (s.hse h).flight = r :: rest) (hn : s.hseFenced h = false) (hq : (s.hse h).queue.length = 64) :
    hseEnqueue h s = dropReported h r (sendStatus h r true (hseDropped h rest s)) := by
  unfold hseEnqueue
  simp only [hf]
  rw [if_neg (ne_true_of_eq_false hn), if_neg (by omega)]
  rfl

theorem hseDropped_reports (h : Nat) (rest : List SendReq) (s : State) :
    Reports (s.setHse h { s.hse h with flight := rest }) (hseDropped h rest s) := (State.count_reports ..).after (State.set1_reports ..)
theorem hseDropped_off (h : Nat) (rest : List SendReq) (s : State) :
    Off (fun a => a = R.HSE_STAT h ∨ a = R.HSE_QDROP h) s (hseDropped h rest s) :=
  State.count_off (State.set1_off (.base (.refl s)) (.inl rfl)) 1 (.inr rfl) (.inr rfl)
theorem dropReported_reports (h : Nat) (r : SendReq) (s : State) : Reports s (dropReported h r s) :=
  (State.raise_reports ..).after (State.j_reports ..)
theorem dropReported_off (h : Nat) (r : SendReq) (s : State) : Off jnlReg s (dropReported h r s) :=
  State.raise_off (State.j_off (.refl s) _ _ _ _ _ fun _ => id) ..

/-- A counter below its end counts one event. -/
theorem State.count_one {c sat : FRef} (hc : s.g c + 1 ≤ 2 ^ c.len - 1) (hlo : c.lo + c.len ≤ 32) : (s.count c sat).g c = s.g c + 1 := by
  have hp : (s.count c sat).g c = (s.p c (s.g c + 1)).g c := by
    unfold State.count
    rw [if_pos hc]
    rfl
  rw [hp, State.g_p_same _ _ _ hlo, Nat.mod_eq_of_lt (by omega)]

/-- The status of the queue after a request dropped. -/
theorem hseDropped_shows (rest : List SendReq) (hc : s.g (F.HSE_QDROP.COUNT h) < 2 ^ 31 - 1) :
    (hseDropped h rest s).is (F.HSE_STAT.QOVF h) = true ∧ (hseDropped h rest s).g (F.HSE_QDROP.COUNT h) = s.g (F.HSE_QDROP.COUNT h) + 1 := by
  have hne : R.HSE_QDROP h ≠ R.HSE_STAT h := by unfold R.HSE_QDROP R.HSE_STAT; omega
  have hcount : ((s.setHse h { s.hse h with flight := rest }).set1 (F.HSE_STAT.QOVF h)).g (F.HSE_QDROP.COUNT h) = s.g (F.HSE_QDROP.COUNT h) :=
    (State.set1_off (P := (· = R.HSE_STAT h)) (.refl _) rfl).g _ hne
  constructor
  · rw [hseDropped, (State.count_off (P := (· = R.HSE_QDROP h)) (.refl _) 1 rfl rfl).is _ hne.symm, State.set1_is, State.is_p_same _ _ _ rfl]
    rfl
  · rw [hseDropped, State.count_one ?_ (Nat.le_of_ble_eq_true rfl), hcount]
    rw [hcount]
    exact hc

/-- A dropped request changes the queue's engine only by leaving its way. -/
theorem dropTold_leaves (h : Nat) (r : SendReq) (s : State) :
    (dropReported h r (sendStatus h r true s)).hses = s.hses ∧ (dropReported h r (sendStatus h r true s)).halls = s.halls := by
  obtain ⟨_, e⟩ := sendStatus_leaves h r true s
  rw [(dropReported_reports ..).hses, (dropReported_reports ..).halls, e]
  exact ⟨rfl, rfl⟩
theorem dropTold_off (h : Nat) (r : SendReq) (s : State) : Off jnlReg s (dropReported h r (sendStatus h r true s)) := by
  obtain ⟨_, e⟩ := sendStatus_leaves h r true s
  refine (dropReported_off ..).after ?_
  rw [e]
  exact .base (.refl s)

theorem hseEnqueue_fenced (hf : (s.hse h).flight = r :: rest) (hn : s.hseFenced h = true) :
    hseEnqueue h s = sendEnd h r 9 0 (crc32 []) (s.setHse h { s.hse h with flight := rest }) := by
  unfold hseEnqueue
  simp only [hf]
  rw [if_pos hn]

theorem exec_hseEnqueue_queues (hh : h < s.part.halls) (hw : (s.hl h).hold.swapWait = none ∨ ∃ b, s.liveBank h = some b ∧ s.bankSends h b = true)
    (hf : (s.hse h).flight = r :: rest) (hn : s.hseFenced h = false) (hq : (s.hse h).queue.length < 64) :
    ∃ t, exec (.hseEnqueue h) s = .next t ∧ (t.hse h).queue = (s.hse h).queue ++ [r] ∧ (t.hse h).flight = rest ∧
      t.g (F.HSE_STAT.QDEPTH h) = (s.hse h).queue.length + 1 ∧ t.is (F.HSE_STAT.BUSY h) = true := by
  have hhse := hseQueued_hse h r rest s
  have he : swapAfterSend h (hseEnqueue h s) = hseQueued h r rest s := by
    rw [hseEnqueue_queues hf hn hq]
    obtain hw | ⟨b, hb, hs⟩ := hw
    · exact swapAfterSend_none (by rw [hseQueued, (hseStat_reports ..).hl]; exact hw)
    · refine swapAfterSend_left (b := b) ?_ ?_
      · have hlive : (hseQueued h r rest s).g (F.HALL_STAT.LIVE_BANK h) = s.g (F.HALL_STAT.LIVE_BANK h) :=
          (hseStat_only ..).g _ (by
            have := lt_of_lt_of_le hh (Part_halls_le _)
            simp only [F.HALL_STAT.LIVE_BANK, R.HALL_STAT, R.HSE_STAT]; omega)
        rw [← hb, State.liveBank, hlive, State.liveBank]
      · rw [State.bankSends, hf] at hs
        rw [State.bankSends, hhse]
        simp only [List.any_append, List.any_cons, List.any_nil] at hs ⊢
        simpa only [Bool.or_assoc, Bool.or_false, Bool.or_left_comm] using hs
  refine ⟨_, (exec_hseEnqueue hh).trans (congrArg _ he), by rw [hhse], by rw [hhse], ?_, ?_⟩
  · rw [hseQueued, hseStat_depth, State.hse_modHse, State.hse_setHse]
    simp only [List.length_append, List.length_singleton]
    omega
  · rw [hseQueued, hseStat_busy, State.hse_modHse]
    simp [HseX.busy]

theorem exec_hseEnqueue_full (hh : h < s.part.halls) (hw : (s.hl h).hold.swapWait = none) (hf : (s.hse h).flight = r :: rest)
    (hn : s.hseFenced h = false) (hq : (s.hse h).queue.length = 64) (hc : s.g (F.HSE_QDROP.COUNT h) < 2 ^ 31 - 1)
    (hl : (s.alc h r.alc).lastSend = r.seq) (hr : s.replaying = false) :
    ∃ t, exec (.hseEnqueue h) s = .next t ∧ (t.hse h).queue = (s.hse h).queue ∧ (t.hse h).flight = rest ∧
      t.is (F.HSE_STAT.QOVF h) = true ∧ t.g (F.HSE_QDROP.COUNT h) = s.g (F.HSE_QDROP.COUNT h) + 1 ∧
      (t.alc h r.alc).sdone = true ∧ (t.alc h r.alc).smis = true := by
  have h32 := lt_of_lt_of_le hh (Part_halls_le _)
  have hreport := hseDropped_reports h rest s
  obtain ⟨hhses, hhalls⟩ := dropTold_leaves h r (hseDropped h rest s)
  obtain ⟨hovf, hcount⟩ := hseDropped_shows rest hc
  have hhse : (dropReported h r (sendStatus h r true (hseDropped h rest s))).hse h = { s.hse h with flight := rest } := by
    rw [State.hse_congr hhses, hreport.hse, State.hse_setHse]
  have halc : (dropReported h r (sendStatus h r true (hseDropped h rest s))).alc h r.alc =
      { (hseDropped h rest s).alc h r.alc with sdone := true, smis := true } := by
    rw [(dropReported_reports ..).alc, sendStatus_tells]
    · rw [State.replaying, (hseDropped_off ..).is _ (by simp only [F.JNL_STAT.REPLAY, R.JNL_STAT, R.HSE_STAT, R.HSE_QDROP]; omega)]
      exact hr
    · rw [hreport.alc]
      exact hl
  have he : swapAfterSend h (hseEnqueue h s) = dropReported h r (sendStatus h r true (hseDropped h rest s)) := by
    rw [hseEnqueue_full hf hn hq]
    exact swapAfterSend_none (by rw [State.hl_congr hhalls, hreport.hl]; exact hw)
  refine ⟨_, (exec_hseEnqueue hh).trans (congrArg _ he), by rw [hhse], by rw [hhse], ?_, ?_, by rw [halc], by rw [halc]⟩
  · rw [(dropTold_off ..).is _ (not_jnlReg_hse (by simp only [F.HSE_STAT.QOVF, R.HSE_STAT]; omega) (by simp only [F.HSE_STAT.QOVF, R.HSE_STAT]; omega)), hovf]
  · rw [(dropTold_off ..).g _ (not_jnlReg_hse (by simp only [F.HSE_QDROP.COUNT, R.HSE_QDROP]; omega)
      (by simp only [F.HSE_QDROP.COUNT, R.HSE_QDROP]; omega)), hcount]

theorem exec_hseEnqueue_fenced (hh : h < s.part.halls) (hw : (s.hl h).hold.swapWait = none) (hf : (s.hse h).flight = r :: rest)
    (hn : s.hseFenced h = true) (hl : (s.alc h r.alc).lastSend = r.seq) (hr : s.replaying = false) :
    ∃ t, exec (.hseEnqueue h) s = .next t ∧ (t.hse h).queue = (s.hse h).queue ∧ (t.hse h).flight = rest ∧
      t.is (F.HSE_STAT.ABORTED h) = true ∧ t.g (F.HSE_LAST.FLAGS h) = 9 ∧ (t.alc h r.alc).sdone = true ∧ (t.alc h r.alc).smis = true := by
  have h32 := lt_of_lt_of_le hh (Part_halls_le _)
  have hs := sendEnd_shown h32 r 9 0 (crc32 []) (s.setHse h { s.hse h with flight := rest })
  have he : swapAfterSend h (hseEnqueue h s) = sendEnd h r 9 0 (crc32 []) (s.setHse h { s.hse h with flight := rest }) := by
    rw [hseEnqueue_fenced hf hn]
    exact swapAfterSend_none (by rw [hs.hl]; exact hw)
  refine ⟨_, (exec_hseEnqueue hh).trans (congrArg _ he), ?_, ?_, sendEnd_aborted (.inl rfl) h32, ?_, sendEnd_tells h32 hr hl⟩
  · rw [hs.hse, State.hse_setHse]
  · rw [hs.hse, State.hse_setHse]
  · rw [sendEnd_g _ _ _ _ _ (by simp only [F.HSE_LAST.FLAGS, R.HSE_LAST]; omega) (by simp only [F.HSE_LAST.FLAGS, R.HSE_LAST]; omega)]
    obtain ⟨-, -, hflags, -⟩ := hseReport_last h r.slot (96 * h + r.alc) 9 (crc32 []) (s.setHse h { s.hse h with flight := rest })
    exact hflags

end

/-! ### The start of a transfer (R373) -/

theorem exec_hseTransferStart_starts {r : SendReq} {rest : List SendReq} (hh : h < s.part.halls) (hq : (s.hse h).queue = r :: rest)
    (hrun : (s.hse h).run = none) (hx : (s.hse h).xfer = none) : ∃ t, exec (.hseTransferStart h) s = .next t ∧
      (t.hse h).run = some r ∧ (t.hse h).queue = rest ∧ (t.hse h).lost = false ∧ t.g (F.HSE_STAT.QDEPTH h) = rest.length % 128 ∧
      t.is (F.HSE_STAT.BUSY h) = true := by
  have he : exec (.hseTransferStart h) s =
      .next (hseStat h (s.setHse h { s.hse h with queue := rest, run := some r, lost := false })) := by
    have he : exec (.hseTransferStart h) s = execHseTransferStart h s := rfl
    rw [he, execHseTransferStart]
    simp only [hq]
    rw [if_pos (by simp [State.hallOk_of_lt hh, hrun, hx])]
  have hhse : (hseStat h (s.setHse h { s.hse h with queue := rest, run := some r, lost := false })).hse h =
      { s.hse h with queue := rest, run := some r, lost := false } := by
    rw [(hseStat_reports ..).hse, State.hse_setHse]
  refine ⟨_, he, by rw [hhse], by rw [hhse], by rw [hhse], ?_, ?_⟩
  · rw [hseStat_depth, State.hse_setHse]
  · rw [hseStat_busy, State.hse_setHse]
    rfl

end
end Sys2Proof.Machine
end

section
/-! PROOF. Ends of transfers: the bytes stored, a SEND's end and a SERIAL_XFER's (R374, R380). -/
namespace Sys2Proof.Machine
-- One declaration after the other: elaborated side by side, they exceed the check's memory.
set_option Elab.async false

/-! ### Bytes of a region (R368) -/

section
variable {s t : State} {h : Nat}

/-- The bytes of a list stored from region byte `j` on. -/
def regionFold (h off : Nat) (data : List Nat) (p : State × Nat) : State × Nat :=
  data.foldl (fun (t, j) b => (t.wrByte (serialPort h) (regionAddr true off j) (BitVec.ofNat 8 b), j + 1)) p

theorem regionAddr_lt (off j : Nat) : regionAddr true off j < 2 ^ 32 := by unfold regionAddr; rw [if_pos rfl]; omega

/-- Bytes of a region that does not wrap are apart. -/
theorem regionKey_ne (h off : Nat) {j k : Nat} (hjk : j < k) (hk : k < j + 8192) :
    memKey (serialPort h) (regionAddr true off j) ≠ memKey (serialPort h) (regionAddr true off k) := by
  intro e
  obtain ⟨-, e⟩ := memKey_inj (regionAddr_lt off j) (regionAddr_lt off k) e
  unfold regionAddr at e
  rw [if_pos rfl] at e
  omega

/-- Bytes stored behind a byte of the region leave it. -/
theorem regionFold_before (h off : Nat) {data : List Nat} {j k : Nat} (hjk : j < k) (hk : k + data.length ≤ j + 8192) (s : State) :
    (regionFold h off data (s, k)).1.region h true off j = s.region h true off j := by
  induction data generalizing s k with
  | nil => rfl
  | cons b data ih =>
    rw [List.length_cons] at hk
    refine (ih (by omega) (by omega) (s.wrByte (serialPort h) (regionAddr true off k) (BitVec.ofNat 8 b))).trans ?_
    rw [State.region, State.rdByte_wrByte_ne _ _ (regionKey_ne h off hjk (by omega)), State.region]

theorem regionFold_reads (h off : Nat) {data : List Nat} {i j : Nat} (hj : j < data.length) (hl : data.length ≤ 8192) (s : State) :
    (regionFold h off data (s, i)).1.region h true off (i + j) = data.getD j 0 % 256 := by
  induction data generalizing s i j with
  | nil => exact absurd hj (Nat.not_lt_zero _)
  | cons b data ih =>
    rw [List.length_cons] at hj hl
    cases j with
    | zero =>
      rw [Nat.add_zero]
      refine (regionFold_before h off (data := data) (j := i) (k := i + 1) (by omega) (by omega)
        (s.wrByte (serialPort h) (regionAddr true off i) (BitVec.ofNat 8 b))).trans ?_
      rw [State.region, State.rdByte_wrByte_same]
      exact BitVec.toNat_ofNat ..
    | succ j =>
      have hr := ih (i := i + 1) (j := j) (by omega) (by omega) (s.wrByte (serialPort h) (regionAddr true off i) (BitVec.ofNat 8 b))
      rw [Nat.add_assoc, Nat.add_comm 1 j] at hr
      exact hr

/-- The bytes stored in a region read back. -/
theorem regionStore_reads (off : Nat) {data : List Nat} {j : Nat} (hj : j < data.length) (hl : data.length ≤ 8192) (s : State) :
    (regionStore h off data s).region h true off j = data.getD j 0 % 256 := by
  have hr := regionFold_reads h off (i := 0) hj hl s
  rwa [Nat.zero_add] at hr

theorem regionFold_leaves (h off : Nat) (data : List Nat) (p : State × Nat) : ∃ mem, (regionFold h off data p).1 = { p.1 with mem := mem } := by
  induction data generalizing p with
  | nil => exact ⟨_, rfl⟩
  | cons b data ih =>
    obtain ⟨mem, e⟩ := ih (p.1.wrByte (serialPort h) (regionAddr true off p.2) (BitVec.ofNat 8 b), p.2 + 1)
    exact ⟨mem, e⟩
theorem regionStore_leaves (h off : Nat) (data : List Nat) (s : State) : ∃ mem, regionStore h off data s = { s with mem := mem } :=
  regionFold_leaves h off data (s, 0)

theorem State.region_congr (hm : t.mem = s.mem) (hs : t.scr = s.scr) (k : Nat) (b : Bool) (off j : Nat) :
    t.region k b off j = s.region k b off j := by
  unfold State.region; rw [State.rdByte_congr hm hs]

theorem trimBits_length (len : Nat) (data : List Nat) : (trimBits len data).length = data.length := by simp [trimBits]
theorem trimBits_getD {len j : Nat} {data : List Nat} (hj : j < data.length) :
    (trimBits len data).getD j 0 = natBits (data.getD j 0) 0 (min 8 (len - 8 * j)) := by
  rw [trimBits, List.getD_eq_getElem _ _ (by simpa using hj)]
  simp

/-! ### The end of a LONG transfer without check (R369, R374) -/

/-- The bytes that a LONG transfer of slot `n` stores. -/
def State.longBytes (s : State) (h n : Nat) (data : List Nat) : List Nat :=
  trimBits (s.g (F.HSE_SLOT_D.LEN h n)) ((List.range ((s.g (F.HSE_SLOT_D.LEN h n) + 7) / 8)).map (fun j => data.getD j 0 % 256))

/-- Slot `n` is LONG and checks nothing. -/
structure LongUnchecked (s : State) (h n : Nat) : Prop where
  mode : s.is (F.HSE_SLOT_A.MODE h n) = false
  check : s.g (F.HSE_SLOT_A.CHECK h n) = 0

variable {n : Nat}

theorem LongUnchecked.congr (k : LongUnchecked s h n) (hr : t.regs = s.regs) (hp : t.part = s.part) : LongUnchecked t h n :=
  ⟨(State.is_congr hr hp _).trans k.mode, (State.g_congr hr hp _).trans k.check⟩

theorem LongUnchecked.mismatches (k : LongUnchecked s h n) (d mid : List Nat) : s.mismatches h n d mid = [] := by
  unfold State.mismatches
  simp only [k.mode, k.check]
  rfl

theorem LongUnchecked.transferEnd (k : LongUnchecked s h n) (data : List Nat) (lost host : Bool) :
    transferEnd h n data [] lost host s = (regionStore h (s.g (F.HSE_SLOT_D.IN_OFF h n)) (s.longBytes h n data) s,
      4 * lost.toNat + 16 * host.toNat, [], crc32 (s.longBytes h n data)) := by
  have hstores : s.slotStores h n = (s.g (F.HSE_SLOT_D.LEN h n) + 7) / 8 := by
    unfold State.slotStores
    simp [k.mode]
  unfold Machine.transferEnd
  simp only [k.mode, k.mismatches, hstores]
  simp [hseFlags, State.longBytes]

theorem State.longBytes_getD {data : List Nat} {j : Nat} (hj : j < (s.g (F.HSE_SLOT_D.LEN h n) + 7) / 8) :
    (s.longBytes h n data).getD j 0 = natBits (data.getD j 0 % 256) 0 (min 8 (s.g (F.HSE_SLOT_D.LEN h n) - 8 * j)) := by
  rw [State.longBytes, trimBits_getD (by simpa using hj)]
  congr 1
  rw [List.getD_eq_getElem _ _ (by simpa using hj)]
  simp
theorem State.longBytes_length (data : List Nat) : (s.longBytes h n data).length = (s.g (F.HSE_SLOT_D.LEN h n) + 7) / 8 := by
  simp [State.longBytes, trimBits_length]

/-- A byte that a LONG transfer stores reads back. -/
theorem State.longBytes_stored {data : List Nat} {j : Nat} (u : State) (hj : j < (s.g (F.HSE_SLOT_D.LEN h n) + 7) / 8) :
    (regionStore h (s.g (F.HSE_SLOT_D.IN_OFF h n)) (s.longBytes h n data) u).region h true (s.g (F.HSE_SLOT_D.IN_OFF h n)) j =
      natBits (data.getD j 0 % 256) 0 (min 8 (s.g (F.HSE_SLOT_D.LEN h n) - 8 * j)) := by
  have hlen : s.g (F.HSE_SLOT_D.LEN h n) < 2 ^ 16 := s.g_lt _
  rw [regionStore_reads _ (by rwa [State.longBytes_length]) (by rw [State.longBytes_length]; omega), State.longBytes_getD hj]
  refine Nat.mod_eq_of_lt (lt_of_lt_of_le (Nat.mod_lt _ (Nat.two_pow_pos _)) ?_)
  exact (Nat.pow_le_pow_right (by decide) (Nat.min_le_left ..) : 2 ^ _ ≤ 2 ^ 8)

/-! ### The end of a SEND (R374) -/

theorem exec_hseTransferEnd (hh : h < s.part.halls) (data mid : List Nat) :
    exec (.hseTransferEnd h data mid) s = .next (swapAfterSend h (hseEnd h data mid s)) :=
  congrArg Host.Outcome.next (if_pos (State.hallOk_of_lt hh))

theorem xferWatch_none (hx : (s.hse h).xfer = none) : xferWatch h s = s := by unfold xferWatch; simp only [hx]

variable {r : SendReq}

/-- The SEND that ran is off the engine, and its bytes are stored. -/
def sendStored (h : Nat) (r : SendReq) (data : List Nat) (s : State) : State :=
  regionStore h (s.g (F.HSE_SLOT_D.IN_OFF h r.slot)) (s.longBytes h r.slot data) (s.setHse h { s.hse h with run := none })

theorem hseEnd_send (hrun : (s.hse h).run = some r) (hx : (s.hse h).xfer = none) (k : LongUnchecked s h r.slot) (data : List Nat) :
    hseEnd h data [] s = hseStat h (sendEnd h r (4 * (s.hse h).lost.toNat) 0 (crc32 (s.longBytes h r.slot data)) (sendStored h r data s)) := by
  have ht := (k.congr (t := s.setHse h { s.hse h with run := none }) rfl rfl).transferEnd data (s.hse h).lost false
  unfold hseEnd
  rw [xferWatch_none hx]
  simp only [hrun, ht]
  rfl

theorem natBits_four_even (b : Bool) : (natBits (4 * b.toNat) 0 1 == 1) = false := by cases b <;> rfl

theorem exec_hseTransferEnd_send {j : Nat} {data : List Nat} (hh : h < s.part.halls) (hw : (s.hl h).hold.swapWait = none)
    (hrun : (s.hse h).run = some r) (hx : (s.hse h).xfer = none) (hslot : r.slot < 256)
    (k : LongUnchecked s h r.slot) (hj : j < (s.g (F.HSE_SLOT_D.LEN h r.slot) + 7) / 8)
    (hl : (s.alc h r.alc).lastSend = r.seq) (hr : s.replaying = false) :
    ∃ t, exec (.hseTransferEnd h data []) s = .next t ∧ (t.hse h).run = none ∧
      t.region h true (s.g (F.HSE_SLOT_D.IN_OFF h r.slot)) j =
        natBits (data.getD j 0 % 256) 0 (min 8 (s.g (F.HSE_SLOT_D.LEN h r.slot) - 8 * j)) ∧
      t.g (F.HSE_LAST.SLOT h) = r.slot ∧ t.g (F.HSE_LAST.ALCOVE h) = (96 * h + r.alc) % 4096 ∧
      t.g (F.HSE_LAST.FLAGS h) = 4 * (s.hse h).lost.toNat ∧
      t.g (F.HSE_CRC.CRC h) = crc32 (s.longBytes h r.slot data) % 2 ^ 32 ∧
      (t.alc h r.alc).sdone = true ∧ (t.alc h r.alc).smis = false := by
  have h32 := lt_of_lt_of_le hh (Part_halls_le _)
  obtain ⟨mem, hmem⟩ := regionStore_leaves h (s.g (F.HSE_SLOT_D.IN_OFF h r.slot)) (s.longBytes h r.slot data)
    (s.setHse h { s.hse h with run := none })
  have hstored : sendStored h r data s = { s.setHse h { s.hse h with run := none } with mem := mem } := hmem
  have hshown := sendEnd_shown h32 r (4 * (s.hse h).lost.toNat) 0 (crc32 (s.longBytes h r.slot data)) (sendStored h r data s)
  have hsame := hseStat_same (sendEnd_same (.refl (sendStored h r data s)) h r (4 * (s.hse h).lost.toNat) 0 (crc32 (s.longBytes h r.slot data))) h
  have he := hseEnd_send hrun hx k data
  have hlast {f : FRef} (h1 : 0x500000 ≤ f.addr) (h2 : f.addr < 0x580000) (h3 : f.addr ≠ R.HSE_STAT h) : (hseEnd h data [] s).g f =
      (hseReport h r.slot (96 * h + r.alc) (4 * (s.hse h).lost.toNat) (crc32 (s.longBytes h r.slot data)) (sendStored h r data s)).g f := by
    rw [he, (hseStat_only ..).g f h3, sendEnd_g _ _ _ _ _ h1 h2]
  obtain ⟨hslots, halcs, hflags, hcrc⟩ := hseReport_last h r.slot (96 * h + r.alc) (4 * (s.hse h).lost.toNat)
    (crc32 (s.longBytes h r.slot data)) (sendStored h r data s)
  have htells := sendEnd_tells (flags := 4 * (s.hse h).lost.toNat) (mism := 0) (crc := crc32 (s.longBytes h r.slot data)) h32
    (s := sendStored h r data s) (r := r) (by rw [hstored]; exact hr) (by rw [hstored]; exact hl)
  have hswap : swapAfterSend h (hseEnd h data [] s) = hseEnd h data [] s := swapAfterSend_none (by
    rw [he, (hseStat_reports ..).hl, hshown.hl, hstored]
    exact hw)
  refine ⟨_, (exec_hseTransferEnd hh data []).trans (congrArg _ hswap), ?_, ?_, ?_, ?_, ?_, ?_, ?_⟩
  · rw [he, (hseStat_reports ..).hse, hshown.hse, hstored]
    exact congrArg HseX.run (State.hse_setHse ..)
  · rw [he, State.region_congr hsame.mem hsame.scr, sendStored, State.longBytes_stored _ hj]
  · rw [hlast (by simp only [F.HSE_LAST.SLOT, R.HSE_LAST]; omega) (by simp only [F.HSE_LAST.SLOT, R.HSE_LAST]; omega)
      (by simp only [F.HSE_LAST.SLOT, R.HSE_LAST, R.HSE_STAT]; omega), hslots, Nat.mod_eq_of_lt hslot]
  · rw [hlast (by simp only [F.HSE_LAST.ALCOVE, R.HSE_LAST]; omega) (by simp only [F.HSE_LAST.ALCOVE, R.HSE_LAST]; omega)
      (by simp only [F.HSE_LAST.ALCOVE, R.HSE_LAST, R.HSE_STAT]; omega), halcs]
  · rw [hlast (by simp only [F.HSE_LAST.FLAGS, R.HSE_LAST]; omega) (by simp only [F.HSE_LAST.FLAGS, R.HSE_LAST]; omega)
      (by simp only [F.HSE_LAST.FLAGS, R.HSE_LAST, R.HSE_STAT]; omega), hflags]
    cases (s.hse h).lost <;> rfl
  · rw [hlast (by simp only [F.HSE_CRC.CRC, R.HSE_CRC]; omega) (by simp only [F.HSE_CRC.CRC, R.HSE_CRC]; omega)
      (by simp only [F.HSE_CRC.CRC, R.HSE_CRC, R.HSE_STAT]; omega), hcrc]
  · rw [he, (hseStat_reports ..).alc, ← natBits_four_even (s.hse h).lost]
    exact htells

/-- A swap that waited for the last transfer of the outgoing bank begins (R201). -/
theorem exec_hseTransferEnd_swaps {c b : Nat} {data mid : List Nat} (hh : h < s.part.halls) (hw : (s.hl h).hold.swapWait = some c)
    (hb : (hseEnd h data mid s).liveBank h = some b) (hhl : (hseEnd h data mid s).hl h = s.hl h)
    (hs : (hseEnd h data mid s).bankSends h b = false) (hslice : (hseEnd h data mid s).slice h = false) :
    exec (.hseTransferEnd h data mid) s = .next (withClaims (swapBegin h c) (hseEnd h data mid s)) := by
  have hswap : swapAfterSend h (hseEnd h data mid s) = withClaims (swapBegin h c) (hseEnd h data mid s) := by
    unfold swapAfterSend
    simp only [hhl, hw, hb]
    rw [if_neg (by simp [hs, hslice])]
  rw [exec_hseTransferEnd hh, hswap]

/-! ### The end of a SERIAL_XFER (R380) -/

variable {x : XferX}

/-- The lanes of the transfer that runs are watched: only its LANE_LOST changes. -/
theorem xferWatch_running (hx : (s.hse h).xfer = some x) (hr : x.running = true) : (∃ hses, xferWatch h s = { s with hses := hses }) ∧
    (xferWatch h s).hse h = { s.hse h with lost := (s.hse h).lost || s.xferLost h x.slot x.base } := by
  have hw : xferWatch h s = s.when (s.xferLost h x.slot x.base) (fun t => t.modHse h (fun y => { y with lost := true })) := by
    unfold xferWatch
    simp only [hx, hr, Bool.true_and]
  rw [hw]
  cases s.xferLost h x.slot x.base
  case true => exact ⟨⟨_, rfl⟩, by rw [State.when_true, State.hse_modHse, Bool.or_true]⟩
  case false => exact ⟨⟨_, rfl⟩, by rw [State.when_false, Bool.or_false]⟩

/-- The SERIAL_XFER that ran is off the engine with its SITESEL, and its bytes are stored. -/
def xferStored (h : Nat) (x : XferX) (data : List Nat) (s : State) : State :=
  regionStore h (s.g (F.HSE_SLOT_D.IN_OFF h x.slot)) (s.longBytes h x.slot data) (siteSel h 0 (s.setHse h { s.hse h with xfer := none }))

theorem xferStored_leaves (x : XferX) (data : List Nat) (s : State) :
    (xferStored h x data s).hse h = { s.hse h with xfer := none } ∧ (xferStored h x data s).hl h = { s.hl h with sitesel := 0 } ∧
      (xferStored h x data s).queues = s.queues := by
  obtain ⟨mem, hmem⟩ := regionStore_leaves h (s.g (F.HSE_SLOT_D.IN_OFF h x.slot)) (s.longBytes h x.slot data)
    (siteSel h 0 (s.setHse h { s.hse h with xfer := none }))
  rw [xferStored, hmem]
  refine ⟨State.hse_setHse .., (siteSel_hl ..).trans ?_, rfl⟩
  rw [ite_self]
  rfl

/-- The flags of a SERIAL_XFER that ends without mismatch (R380). -/
def xferFlags (l : Bool) : Nat := 4 * l.toNat + 16

/-- A SERIAL_XFER's report shows, and its descriptor completes. -/
def xferEnd (h : Nat) (x : XferX) (flags crc : Nat) (st : Status) (res : List (Nat × Nat × Nat)) (s : State) : State :=
  hseStat h ((hseReport h x.slot 0 flags crc s).complete x.did st res)

section
variable (s x) (flags crc : Nat) (st : Status) (res : List (Nat × Nat × Nat))

theorem xferEnd_hse (k : Nat) : (xferEnd h x flags crc st res s).hse k = s.hse k := by
  obtain ⟨_, _, e⟩ := (hseReport h x.slot 0 flags crc s).complete_leaves x.did st res
  rw [xferEnd, (hseStat_reports ..).hse, e]
  exact (hseReport_reports ..).hse k
theorem xferEnd_hl (k : Nat) : (xferEnd h x flags crc st res s).hl k = s.hl k := by
  rw [xferEnd, (hseStat_reports ..).hl, State.complete_hl, (hseReport_reports ..).hl]
theorem xferEnd_busy : (xferEnd h x flags crc st res s).is (F.HSE_STAT.BUSY h) = (s.hse h).busy := by
  have hhse := xferEnd_hse (h := h) s x flags crc st res h
  rw [xferEnd, (hseStat_reports ..).hse] at hhse
  rw [xferEnd, hseStat_busy, hhse]
theorem xferEnd_last : (xferEnd h x flags crc st res s).g (F.HSE_LAST.FLAGS h) = flags % 32 := by
  obtain ⟨-, -, hflags, -⟩ := hseReport_last h x.slot 0 flags crc s
  rw [xferEnd, (hseStat_only ..).g _ (by simp only [F.HSE_LAST.FLAGS, R.HSE_LAST, R.HSE_STAT]; omega), State.complete_g, hflags]
theorem xferEnd_crc : (xferEnd h x flags crc st res s).g (F.HSE_CRC.CRC h) = crc % 2 ^ 32 := by
  obtain ⟨-, -, -, hcrc⟩ := hseReport_last h x.slot 0 flags crc s
  rw [xferEnd, (hseStat_only ..).g _ (by simp only [F.HSE_CRC.CRC, R.HSE_CRC, R.HSE_STAT]; omega), State.complete_g, hcrc]
theorem xferEnd_completed {q : Nat} {d : DescRun} {z : State} (hz : s.queues = z.queues) (hof : z.queueOf x.did = some q)
    (hrun : (z.queue q).run = some d) : Completed (xferEnd h x flags crc st res s) q d st res :=
  completed_congr (hseStat_reports ..).queues (State.complete_running ((hseReport_reports ..).queues.trans hz) hof hrun ..)

end

theorem hseEnd_xfer {w : State} {data : List Nat} (hw : xferWatch h s = w) (hrun : (w.hse h).run = none)
    (hx : (w.hse h).xfer = some x) (hr : x.running = true) (k : LongUnchecked w h x.slot) :
    hseEnd h data [] s = xferEnd h x (xferFlags (w.hse h).lost) (crc32 (w.longBytes h x.slot data)) .ok
      (xferRes x.slot 0 (xferFlags (w.hse h).lost) (crc32 (w.longBytes h x.slot data)) 0 0xFFFFFFFF (3 + w.g (F.HSE_SLOT_D.LEN h x.slot)))
      (xferStored h x data w) := by
  have ht := (k.congr (t := siteSel h 0 (w.setHse h { w.hse h with xfer := none })) rfl rfl).transferEnd data (w.hse h).lost true
  have hc : w.slotCycles h x.slot = 3 + w.g (F.HSE_SLOT_D.LEN h x.slot) := by
    unfold State.slotCycles
    simp [k.mode]
  subst hw
  unfold hseEnd
  dsimp only
  split
  case h_1 r e => exact absurd (hrun.symm.trans e) (by simp)
  case h_2 =>
    split
    case h_1 y e =>
      obtain rfl : x = y := Option.some.inj (hx.symm.trans e)
      rw [if_pos hr, ht, hc]
      rfl
    case h_2 e => exact absurd (hx.symm.trans e) (by simp)

/-- A result field keeps the low bits of what it is given. -/
theorem xferRes_crc (slot detail flags crc mism first cycles : Nat) (l : List (Nat × Nat × Nat)) :
    packB (l ++ xferRes slot detail flags (crc % 2 ^ 32) mism first cycles) = packB (l ++ xferRes slot detail flags crc mism first cycles) := by
  induction l with
  | nil => simp [packB, xferRes, pack]
  | cons e l ih => exact congrArg (_ ||| ·) ih

/-- HSE_CRC is the whole register. -/
theorem State.rd_hseCrc (s : State) (h : Nat) : (s.rd (R.HSE_CRC h)).toNat = s.g (F.HSE_CRC.CRC h) := by
  unfold State.g fieldGet
  exact congrArg BitVec.toNat (BitVec.extractLsb'_eq_self ..).symm

theorem exec_hseTransferEnd_xfer {q : Nat} {d : DescRun} {data : List Nat} (hh : h < s.part.halls) (hw : (s.hl h).hold.swapWait = none)
    (hrun : (s.hse h).run = none) (hq : (s.hse h).queue = []) (hx : (s.hse h).xfer = some x) (hr : x.running = true)
    (k : LongUnchecked s h x.slot) (hof : s.queueOf x.did = some q) (hd : (s.queue q).run = some d) :
    ∃ t, exec (.hseTransferEnd h data []) s = .next t ∧ (t.hse h).xfer = none ∧ (t.hl h).sitesel = 0 ∧
      t.is (F.HSE_STAT.BUSY h) = false ∧ t.g (F.HSE_LAST.FLAGS h) = 16 + 4 * ((s.hse h).lost || s.xferLost h x.slot x.base).toNat ∧
      Completed t q d .ok (xferRes x.slot 0 (16 + 4 * ((s.hse h).lost || s.xferLost h x.slot x.base).toNat) (t.rd (R.HSE_CRC h)).toNat 0
        0xFFFFFFFF (3 + s.g (F.HSE_SLOT_D.LEN h x.slot))) := by
  obtain ⟨⟨hses, hwatch⟩, hhse⟩ := xferWatch_running hx hr
  rw [hwatch] at hhse
  have he := hseEnd_xfer (data := data) hwatch (by rw [hhse]; exact hrun) (by rw [hhse]; exact hx) hr (k.congr rfl rfl)
  have hflags : xferFlags (({ s with hses := hses }).hse h).lost = 16 + 4 * ((s.hse h).lost || s.xferLost h x.slot x.base).toNat := by
    rw [hhse, xferFlags, Nat.add_comm]
  obtain ⟨hoff, hsel, hqueues⟩ := xferStored_leaves (h := h) x data { s with hses := hses }
  rw [hflags] at he
  have hnone : swapAfterSend h (hseEnd h data [] s) = hseEnd h data [] s := swapAfterSend_none (by
    rw [he, xferEnd_hl, hsel]
    exact hw)
  refine ⟨_, (exec_hseTransferEnd hh data []).trans (congrArg _ (hnone.trans he)), ?_, ?_, ?_, ?_, ?_⟩
  · rw [xferEnd_hse, hoff]
  · rw [xferEnd_hl, hsel]
  · rw [xferEnd_busy, hoff, hhse, HseX.busy, hrun, hq]
    rfl
  · rw [xferEnd_last]
    cases (s.hse h).lost || s.xferLost h x.slot x.base <;> rfl
  · obtain ⟨hnorun, hheld⟩ := xferEnd_completed (h := h) (xferStored h x data { s with hses := hses }) x _ _ .ok _ hqueues hof hd
    rw [State.rd_hseCrc, xferEnd_crc]
    exact ⟨hnorun, hheld.trans (congrArg some (xferRes_crc _ _ _ _ _ _ _ [(0, 4, _), (4, 1, _), (6, 2, _)]).symm)⟩

end
end Sys2Proof.Machine
end

section
/-! PROOF. Aborts of transfers (R376, R380). -/
namespace Sys2Proof.Machine
-- One declaration after the other: elaborated side by side, they exceed the check's memory.
set_option Elab.async false

section
variable {s t z : State} {h : Nat}

/-! ### What the ends of SENDs leave of the hall -/

/-- Transfers of hall `h` have ended: its reports and the journal show them. -/
structure SendsEnd (h : Nat) (s t : State) : Prop where
  regs : Off (fun a => reportReg h a ∨ jnlReg a) s t
  halls : t.halls = s.halls
  queues : t.queues = s.queues
  replaying : t.replaying = s.replaying
  lastSend : ∀ k i, (t.alc k i).lastSend = (s.alc k i).lastSend

theorem SendsEnd.after (ht : SendsEnd h s t) (hs : SendsEnd h z s) : SendsEnd h z t :=
  ⟨ht.regs.after hs.regs, ht.halls.trans hs.halls, ht.queues.trans hs.queues, ht.replaying.trans hs.replaying,
    fun k i => (ht.lastSend k i).trans (hs.lastSend k i)⟩
theorem SendsShown.ends (k : SendsShown h s t) : SendsEnd h s t := ⟨k.regs, k.halls, k.queues, k.replaying, k.lastSend⟩
theorem State.setHse_ends (s : State) (k : Nat) (x : HseX) : SendsEnd h s (s.setHse k x) := ⟨.base (.refl s), rfl, rfl, rfl, fun _ _ => rfl⟩
theorem SendsEnd.refl (s : State) : SendsEnd h s s := (SendsShown.refl s).ends
theorem SendsEnd.hl (k : SendsEnd h s t) (j : Nat) : t.hl j = s.hl j := State.hl_congr k.halls j

theorem hseStat_shown (hh : h < 32) (s : State) : SendsShown h s (hseStat h s) := by
  have hr := hseStat_reports h s
  refine ⟨(hseStat_only h s).mono fun _ e => .inl (.inl e), ?_,
    (hseStat_only h s).is _ (by simp only [F.JNL_STAT.REPLAY, R.JNL_STAT, R.HSE_STAT]; omega), fun k i => by rw [hr.alc]⟩
  obtain ⟨_, _, _, _, _, _, _, _, e⟩ := hr
  exact ⟨_, _, _, _, _, _, _, _, _, _, _, e⟩

/-! ### The running SEND ends as aborted (R376) -/

/-- The report of a transfer stopped before its end: the flags MIS and ABORTED. -/
theorem stoppedReport_flags (h n : Nat) (s : State) :
    natBits (stoppedReport h n s).1 0 1 = 1 ∧ natBits (stoppedReport h n s).1 3 1 = 1 := by
  have hflags : ∃ f < 2, (stoppedReport h n s).1 = 9 + 2 * f + 4 * (s.hse h).lost.toNat := ⟨_, (Config.freeBits 1 _).isLt, rfl⟩
  obtain ⟨f, hf, e⟩ := hflags
  have hl := (s.hse h).lost.toNat_lt
  rw [e]
  unfold natBits
  omega

theorem stoppedReport_shown (h n : Nat) (s : State) : SendsShown h s (stoppedReport h n s).2.2.2 := by
  have hbytes : SendsShown h s (s.over (List.range (s.slotStores h n)) (fun j t =>
      (t.draw 8).2.wrByte (serialPort h) (regionAddr true (s.g (F.HSE_SLOT_D.IN_OFF h n)) j) (BitVec.ofNat 8 (t.draw 8).1))) :=
    State.over_inv (.refl s) (fun j t ht => (State.wrByte_shown ..).after ((State.draw_shown ..).after ht))
  have hflag := (State.draw_shown _ 1).after hbytes
  have hcount := (State.draw_shown _ 32).after hflag
  exact (State.draw_shown _ 32).after hcount

/-- The running SEND, if any, has ended as aborted. -/
theorem abortRun_leaves (hh : h < 32) (s : State) : SendsEnd h s (abortRun h s) ∧ (abortRun h s).hse h = { s.hse h with run := none } ∧
    ((s.hse h).run ≠ none → (abortRun h s).is (F.HSE_STAT.ABORTED h) = true) := by
  cases hrun : (s.hse h).run with
  | none =>
    have he : abortRun h s = s := by unfold abortRun; simp only [hrun]
    rw [he]
    exact ⟨.refl s, by rw [← hrun], fun hn => absurd rfl hn⟩
  | some r =>
    rcases hrep : stoppedReport h r.slot s with ⟨f, m, c, s1⟩
    have he : abortRun h s = hseStat h (sendEnd h r f m c (s1.modHse h (fun x => { x with run := none }))) := by
      unfold abortRun
      simp only [hrun, hrep]
    have hshown := stoppedReport_shown h r.slot s
    have hflags := stoppedReport_flags h r.slot s
    rw [hrep] at hshown hflags
    have hend := sendEnd_shown hh r f m c (s1.modHse h (fun x => { x with run := none }))
    have hstat := hseStat_shown hh (sendEnd h r f m c (s1.modHse h (fun x => { x with run := none })))
    rw [he]
    refine ⟨(hstat.after hend).ends.after ((State.setHse_ends ..).after hshown.ends), ?_, fun _ => ?_⟩
    · rw [(hstat.after hend).hse, State.hse_modHse, hshown.hse]
    · rw [hseStat_sticky _ rfl]
      exact sendEnd_aborted (.inl hflags.2) hh

/-! ### Queued requests end as aborted (R376) -/

/-- What the step of one member of a list reaches holds after the fold, where the other steps keep it. -/
theorem State.over_reaches {α : Type} {I P : State → Prop} {s : State} {l : List α} {x : α} {f : α → State → State} (hx : x ∈ l) (h0 : I s)
    (before : ∀ y t, I t → I (f y t)) (here : ∀ t, I t → P (f x t)) (after : ∀ y t, P t → P (f y t)) : P (s.over l f) := by
  induction l generalizing s with
  | nil => exact absurd hx List.not_mem_nil
  | cons y l ih =>
    cases hx with
    | head => exact State.over_inv (I := P) (s := f x s) (here s h0) after
    | tail _ hx => exact ih hx (before y s h0)

/-- A request ends as aborted without a transfer of its own. -/
def requestAborted (h : Nat) (r : SendReq) (s : State) : State := sendEnd h r 9 0 (crc32 []) s

/-- The requests of a list have ended as aborted. -/
def requestsAborted (h : Nat) (l : List SendReq) (s : State) : State := s.over l (requestAborted h)

theorem requestsAborted_shown (hh : h < 32) (l : List SendReq) (s : State) : SendsShown h s (requestsAborted h l s) :=
  State.over_inv (.refl s) (fun r t ht => (sendEnd_shown hh r 9 0 (crc32 []) t).after ht)

theorem requestsAborted_aborted {l : List SendReq} (hh : h < 32) (hs : l ≠ [] ∨ s.is (F.HSE_STAT.ABORTED h) = true) :
    (requestsAborted h l s).is (F.HSE_STAT.ABORTED h) = true := by
  obtain hl | hs := hs
  · obtain ⟨r, hr⟩ := List.exists_mem_of_ne_nil l hl
    exact State.over_reaches (I := fun _ => True) (P := fun t => t.is (F.HSE_STAT.ABORTED h) = true) hr trivial (fun _ _ _ => trivial)
      (fun _ _ => sendEnd_aborted (.inl rfl) hh) (fun _ _ _ => sendEnd_aborted (.inl rfl) hh)
  · exact State.over_inv (I := fun t => t.is (F.HSE_STAT.ABORTED h) = true) hs (fun _ _ _ => sendEnd_aborted (.inl rfl) hh)

/-- The alcove of a request sees its last SEND done and mismatched. -/
theorem requestsAborted_tells {l : List SendReq} {r : SendReq} (hh : h < 32) (hr : r ∈ l) (hp : s.replaying = false)
    (hl : (s.alc h r.alc).lastSend = r.seq) :
    (((requestsAborted h l s).alc h r.alc).sdone && ((requestsAborted h l s).alc h r.alc).smis) = true := by
  refine State.over_reaches (I := fun t => t.replaying = false ∧ (t.alc h r.alc).lastSend = r.seq)
    (P := fun t => ((t.alc h r.alc).sdone && (t.alc h r.alc).smis) = true) hr ⟨hp, hl⟩ (fun y t ht => ?_) (fun t ht => ?_)
    (fun _ _ ht => sendEnd_seen rfl ht)
  · obtain ⟨hp, hl⟩ := ht
    have hend := sendEnd_shown hh y 9 0 (crc32 []) t
    exact ⟨hend.replaying.trans hp, (hend.lastSend ..).trans hl⟩
  · obtain ⟨hp, hl⟩ := ht
    obtain ⟨hdone, hmis⟩ := sendEnd_tells (flags := 9) (mism := 0) (crc := crc32 []) hh hp hl
    rw [requestAborted, hdone, hmis]
    rfl

/-- The engine of hall `h` with no request. -/
def requestsGone (h : Nat) (s : State) : State := s.setHse h { s.hse h with queue := [], flight := [] }

theorem abortQueued_all (h : Nat) (s : State) : abortQueued h (fun _ => true) s =
    hseStat h (requestsAborted h ((s.hse h).queue ++ (s.hse h).flight) (requestsGone h s)) := by
  unfold abortQueued
  simp only [List.filter_true, Bool.not_true, List.filter_false]
  rfl

theorem abortSends_all (h : Nat) (s : State) : abortSends h (fun _ => true) s = abortQueued h (fun _ => true) (abortRun h s) := by
  unfold abortSends
  cases hrun : (s.hse h).run with
  | none =>
    have he : abortRun h s = s := by unfold abortRun; simp only [hrun]
    rw [he]
  | some r => rfl

/-- Every SEND of the engine has ended as aborted. -/
theorem abortSends_leaves (hh : h < 32) (s : State) : SendsEnd h s (abortSends h (fun _ => true) s) ∧
    (abortSends h (fun _ => true) s).hse h = { s.hse h with run := none, queue := [], flight := [] } ∧
    ((s.hse h).run ≠ none ∨ (s.hse h).queue ≠ [] → (abortSends h (fun _ => true) s).is (F.HSE_STAT.ABORTED h) = true) := by
  obtain ⟨hrun, hhse, habort⟩ := abortRun_leaves hh s
  have hgone := requestsAborted_shown hh (((abortRun h s).hse h).queue ++ ((abortRun h s).hse h).flight) (requestsGone h (abortRun h s))
  have hstat := hseStat_shown hh
    (requestsAborted h (((abortRun h s).hse h).queue ++ ((abortRun h s).hse h).flight) (requestsGone h (abortRun h s)))
  rw [abortSends_all, abortQueued_all]
  refine ⟨(hstat.after hgone).ends.after ((State.setHse_ends ..).after hrun), ?_, fun hs => ?_⟩
  · rw [(hstat.after hgone).hse, requestsGone, State.hse_setHse, hhse]
  · rw [hseStat_sticky _ rfl]
    refine requestsAborted_aborted hh (hs.symm.imp (fun hq => ?_) habort)
    rw [hhse]
    exact fun e => hq (List.append_eq_nil_iff.mp e).1

theorem abortSends_tells {r : SendReq} (hh : h < 32) (hr : r ∈ (s.hse h).queue) (hp : s.replaying = false) (hl : (s.alc h r.alc).lastSend = r.seq) :
    (((abortSends h (fun _ => true) s).alc h r.alc).sdone && ((abortSends h (fun _ => true) s).alc h r.alc).smis) = true := by
  obtain ⟨hrun, hhse, -⟩ := abortRun_leaves hh s
  rw [abortSends_all, abortQueued_all, (hseStat_reports ..).alc]
  exact requestsAborted_tells hh (List.mem_append_left _ (by rw [hhse]; exact hr)) (hrun.replaying.trans hp) ((hrun.lastSend ..).trans hl)

theorem abortSends_stat (h : Nat) (s : State) : ∃ u, abortSends h (fun _ => true) s = hseStat h u :=
  ⟨_, (abortSends_all h s).trans (abortQueued_all ..)⟩

/-! ### ABORT (R376, R380) -/

theorem State.byHost_hse (s : State) (f : State → State) (k : Nat) : (s.byHost f).hse k = (f s).hse k := rfl
theorem State.byHost_alc (s : State) (f : State → State) (k i : Nat) : (s.byHost f).alc k i = (f s).alc k i := rfl
theorem State.byHost_hl (s : State) (f : State → State) (k : Nat) : (s.byHost f).hl k = (f s).hl k := rfl
theorem State.byHost_queues (s : State) (f : State → State) : (s.byHost f).queues = (f s).queues := rfl

theorem exec_hseAbort (hr : Ready s) (hh : h < s.part.halls) (hw : ((hseAbort h s).hl h).hold.swapWait = none) :
    exec (.hseAbort h) s = .next (s.byHost (hseAbort h)) := by
  obtain ⟨hin, haw⟩ := hr
  have he : exec (.hseAbort h) s = execHseAbort h s := rfl
  have hnone : swapAfterSend h (hseAbort h s) = hseAbort h s := swapAfterSend_none hw
  rw [he, execHseAbort, if_pos (State.hallOk_of_lt hh), State.host_run hin haw, State.byHost, hnone, State.byHost]

theorem hseAbort_sends (hh : h < 32) (hx : (s.hse h).xfer = none) : hseAbort h s = abortSends h (fun _ => true) s := by
  obtain ⟨-, hhse, -⟩ := abortSends_leaves hh s
  unfold hseAbort abortXfer
  simp only [hhse, hx]

theorem exec_hseAbort_sends (hr : Ready s) (hh : h < s.part.halls) (hw : (s.hl h).hold.swapWait = none) (hx : (s.hse h).xfer = none)
    (hs : (s.hse h).run ≠ none ∨ (s.hse h).queue ≠ []) (hp : s.replaying = false) : ∃ t, exec (.hseAbort h) s = .next t ∧
      (t.hse h).run = none ∧ (t.hse h).queue = [] ∧ (t.hse h).flight = [] ∧ t.is (F.HSE_STAT.ABORTED h) = true ∧
      t.is (F.HSE_STAT.BUSY h) = false ∧ t.g (F.HSE_STAT.QDEPTH h) = 0 ∧ t.rd (R.HSE_CTL h) = s.rd (R.HSE_CTL h) ∧
      ((s.hse h).queue.all (fun r => (s.alc h r.alc).lastSend != r.seq || ((t.alc h r.alc).sdone && (t.alc h r.alc).smis)) = true) := by
  have h32 := lt_of_lt_of_le hh (Part_halls_le _)
  obtain ⟨hends, hhse, habort⟩ := abortSends_leaves h32 s
  have ha := hseAbort_sends h32 hx
  have hstat : (abortSends h (fun _ => true) s).is (F.HSE_STAT.BUSY h) = false ∧
      (abortSends h (fun _ => true) s).g (F.HSE_STAT.QDEPTH h) = 0 := by
    obtain ⟨u, hu⟩ := abortSends_stat h s
    rw [hu, (hseStat_reports ..).hse] at hhse
    rw [hu, hseStat_busy, hseStat_depth, hhse, HseX.busy, hx]
    exact ⟨rfl, rfl⟩
  obtain ⟨hbusy, hdepth⟩ := hstat
  refine ⟨_, exec_hseAbort hr hh (by rw [ha, hends.hl]; exact hw), ?_⟩
  rw [State.byHost_hse, State.byHost_is, State.byHost_is, State.byHost_g, State.byHost_rd, ha, hhse]
  refine ⟨rfl, rfl, rfl, habort hs, hbusy, hdepth, hends.regs.regs _ ?_, List.all_eq_true.mpr fun r hr => ?_⟩
  · unfold reportReg jnlReg R.HSE_CTL R.HSE_STAT R.HSE_LAST R.HSE_CRC R.JNL_STAT R.JNL_SEQ R.JNL_DROP R.RR_STAT
    omega
  · rw [Bool.or_eq_true, State.byHost_alc, ha]
    by_cases hl : (s.alc h r.alc).lastSend = r.seq
    · exact .inr (abortSends_tells h32 hr hp hl)
    · exact .inl (bne_iff_ne.mpr hl)

variable {x : XferX}

theorem xferEnd_aborted {flags : Nat} (crc : Nat) (st : Status) (res : List (Nat × Nat × Nat)) (hf : natBits flags 3 1 = 1) :
    (xferEnd h x flags crc st res s).is (F.HSE_STAT.ABORTED h) = true := by
  rw [xferEnd, hseStat_sticky _ rfl, State.complete_is]
  exact hseReport_aborted _ _ _ (.inl hf)

/-- The SERIAL_XFER is off the engine with its SITESEL. -/
def xferOff (h : Nat) (s : State) : State := siteSel h 0 (s.modHse h (fun y => { y with xfer := none }))

theorem xferOff_hse (h : Nat) (s : State) : (xferOff h s).hse h = { s.hse h with xfer := none } :=
  State.hse_modHse s h (fun y => { y with xfer := none })
theorem xferOff_hl (h : Nat) (s : State) : (xferOff h s).hl h = { s.hl h with sitesel := 0 } := by
  rw [xferOff, siteSel_hl, ite_self]
  rfl
theorem xferOff_queues (h : Nat) (s : State) : (xferOff h s).queues = s.queues := rfl

theorem abortXfer_settling (hx : (s.hse h).xfer = some x) (hr : x.running = false) :
    abortXfer h s = xferEnd h x 25 (crc32 []) .faulted (xferRes x.slot 0 9 (crc32 []) 0 0xFFFFFFFF 0) (xferOff h s) := by
  unfold abortXfer
  simp only [hx]
  rw [if_neg (ne_true_of_eq_false hr)]
  rfl

theorem hseAbort_xfer (hh : h < 32) (hx : (s.hse h).xfer = some x) (hr : x.running = false) : hseAbort h s =
    xferEnd h x 25 (crc32 []) .faulted (xferRes x.slot 0 9 (crc32 []) 0 0xFFFFFFFF 0) (xferOff h (abortSends h (fun _ => true) s)) := by
  obtain ⟨-, hhse, -⟩ := abortSends_leaves hh s
  refine abortXfer_settling ?_ hr
  rw [hhse]
  exact hx

theorem exec_hseAbort_xfer {q : Nat} {d : DescRun} (hr : Ready s) (hh : h < s.part.halls) (hw : (s.hl h).hold.swapWait = none)
    (hx : (s.hse h).xfer = some x) (hn : x.running = false) (hof : s.queueOf x.did = some q) (hd : (s.queue q).run = some d) :
    ∃ t, exec (.hseAbort h) s = .next t ∧ (t.hse h).xfer = none ∧ t.is (F.HSE_STAT.ABORTED h) = true ∧ (t.hl h).sitesel = 0 ∧
      Completed t q d .faulted (xferRes x.slot 0 9 (crc32 []) 0 0xFFFFFFFF 0) := by
  have h32 := lt_of_lt_of_le hh (Part_halls_le _)
  obtain ⟨hends, -, -⟩ := abortSends_leaves h32 s
  have hxfer := hseAbort_xfer h32 hx hn
  have hsel : (hseAbort h s).hl h = { s.hl h with sitesel := 0 } := by rw [hxfer, xferEnd_hl, xferOff_hl, hends.hl]
  refine ⟨_, exec_hseAbort hr hh (by rw [hsel]; exact hw), ?_, ?_, ?_, completed_congr (State.byHost_queues ..) ?_⟩
  · rw [State.byHost_hse, hxfer, xferEnd_hse, xferOff_hse]
  · rw [State.byHost_is, hxfer]
    exact xferEnd_aborted _ _ _ rfl
  · rw [State.byHost_hl, hsel]
  · rw [hxfer]
    exact xferEnd_completed _ x _ _ _ _ ((xferOff_queues ..).trans hends.queues) hof hd

end
end Sys2Proof.Machine
end

section
/-! PROOF. The host's BOOT_SPI transactions (R385), and O16. -/
namespace Sys2Proof.Machine
-- One declaration after the other: elaborated side by side, they exceed the check's memory.
set_option Elab.async false

section
variable {s : State} {v : Word}

/-! ### GO (R385) -/

/-- GO set in a word changes no other field. -/
theorem fieldGet_go {lo len : Nat} (h : lo + len ≤ 31) (v : Word) : fieldGet lo len (fieldPut 31 1 1 v) = fieldGet lo len v :=
  fieldGet_put_ne (.inr h) 1 v

/-- The fields of BSPI_CTL that are stored leave GO out. -/
theorem bspiCtl_stored (v : Word) : fieldPut 31 1 1 v &&& 0x7FFE01FF#32 = v &&& 0x7FFE01FF#32 := by
  apply BitVec.eq_of_getLsbD_eq
  intro i hi
  rw [BitVec.getLsbD_and, BitVec.getLsbD_and, fieldPut_bit 31 1 1 v hi]
  by_cases h : 31 ≤ i
  · obtain rfl : i = 31 := by omega
    rw [show (0x7FFE01FF#32).getLsbD 31 = false by decide, Bool.and_false, Bool.and_false]
  · rw [if_neg (by omega)]

theorem exec_bspiGo (hr : Ready s) : exec (.bspiGo v) s = .next (s.byHost (bspiCtlWrite (fieldPut 31 1 1 v))) := by
  obtain ⟨hin, haw⟩ := hr
  exact congrArg Host.Outcome.next (State.host_run hin haw _)

/-- The bytes of a transaction: the command, the address where ADDR_EN is 1, and what a write shifts out. -/
def State.bspiOut (s : State) (v : Word) : Nat :=
  packB ((0, 1, F.BSPI_CTL.CMD.of v) :: (1, 3, if F.BSPI_CTL.ADDR_EN.is v then s.g F.BSPI_ADDR.ADDR else 0) ::
    (List.range (if F.BSPI_CTL.DIR.is v then F.BSPI_CTL.LEN.of v else 0)).map (fun j =>
      (4 + j, 1, natBits (s.g (F.BSPI_BUF.DATA (j / 4))) (8 * (j % 4)) 8)))

/-- BSPI_CTL stored. -/
def bspiStored (v : Word) (s : State) : State := s.wr R.BSPI_CTL (v &&& 0x7FFE01FF#32)

/-- A transaction has begun. -/
def bspiBegun (v : Word) (s : State) : State :=
  (({ bspiStored v s with bspi := (F.BSPI_CTL.DIR.is v, F.BSPI_CTL.LEN.of v) } : State).set1 F.BSPI_STAT.BUSY).send (.shift 1 (s.bspiOut v))

/-- What a write of BSPI_CTL with GO = 1 does. -/
theorem bspiCtlWrite_go (hin : s.inService = true) (v : Word) : bspiCtlWrite (fieldPut 31 1 1 v) s =
    if 256 < F.BSPI_CTL.LEN.of v then s.set1 F.BSPI_STAT.REFUSED
    else if s.is F.BSPI_STAT.BUSY then (bspiStored v s).set1 F.BSPI_STAT.REFUSED else bspiBegun v s := by
  have hlen : F.BSPI_CTL.LEN.of (fieldPut 31 1 1 v) = F.BSPI_CTL.LEN.of v := fieldGet_go (by decide) v
  have hcmd : F.BSPI_CTL.CMD.of (fieldPut 31 1 1 v) = F.BSPI_CTL.CMD.of v := fieldGet_go (by decide) v
  have hdir : F.BSPI_CTL.DIR.is (fieldPut 31 1 1 v) = F.BSPI_CTL.DIR.is v := congrArg (· == 1) (fieldGet_go (by decide) v)
  have haddr : F.BSPI_CTL.ADDR_EN.is (fieldPut 31 1 1 v) = F.BSPI_CTL.ADDR_EN.is v := congrArg (· == 1) (fieldGet_go (by decide) v)
  have hgo : F.BSPI_CTL.GO.is (fieldPut 31 1 1 v) = true := beq_iff_eq.mpr (fieldGet_put_same (lo := 31) (len := 1) (by decide) 1 v)
  unfold bspiCtlWrite
  simp only [hlen, hcmd, hdir, haddr, hgo, hin, bspiCtl_stored, Bool.not_true, Bool.or_false]
  rfl

theorem bspiStored_off (v : Word) (s : State) : Off (· = R.BSPI_CTL) s (bspiStored v s) := State.wr_off (.refl s) _ rfl

theorem bspiBegun_shows (v : Word) (s : State) : (bspiBegun v s).is F.BSPI_STAT.BUSY = true ∧
    (bspiBegun v s).rd R.BSPI_CTL = v &&& 0x7FFE01FF#32 := by
  constructor
  · have hbusy : (bspiBegun v s).is F.BSPI_STAT.BUSY = ((bspiStored v s).p F.BSPI_STAT.BUSY 1).is F.BSPI_STAT.BUSY := rfl
    rw [hbusy, State.is_p_same _ _ _ rfl]
    rfl
  · have hctl : (bspiBegun v s).rd R.BSPI_CTL = ((bspiStored v s).p F.BSPI_STAT.BUSY 1).rd R.BSPI_CTL := rfl
    rw [hctl, (State.p_off (P := (· = R.BSPI_STAT)) (.refl _) 1 rfl).regs _ (by decide), bspiStored, State.rd_wr_same]

/-- GO with a legal length begins a transaction while none runs. -/
theorem exec_bspiGo_begins (hr : Ready s) (hl : F.BSPI_CTL.LEN.of v ≤ 256) (hb : s.is F.BSPI_STAT.BUSY = false) : ∃ t, exec (.bspiGo v) s = .next t ∧
    t.is F.BSPI_STAT.BUSY = true ∧ t.rd R.BSPI_CTL = v &&& 0x7FFE01FF#32 ∧ t.bspi = (F.BSPI_CTL.DIR.is v, F.BSPI_CTL.LEN.of v) ∧
    t.out = s.out ++ [.shift 1 (s.bspiOut v)] := by
  obtain ⟨hin, -⟩ := id hr
  have hgo : bspiCtlWrite (fieldPut 31 1 1 v) s = bspiBegun v s := by
    rw [bspiCtlWrite_go hin, if_neg (by omega), if_neg (ne_true_of_eq_false hb)]
  obtain ⟨hbusy, hctl⟩ := bspiBegun_shows v s
  refine ⟨_, exec_bspiGo hr, ?_, ?_, congrArg State.bspi hgo, congrArg State.out hgo⟩
  · rw [State.byHost_is, hgo, hbusy]
  · rw [State.byHost_rd, hgo, hctl]

theorem exec_bspiGo_reads (hr : Ready s) (hl : F.BSPI_CTL.LEN.of v ≤ 256) (hb : s.is F.BSPI_STAT.BUSY = false) (hd : F.BSPI_CTL.DIR.is v = false) :
    ∃ t, exec (.bspiGo v) s = .next t ∧ t.is F.BSPI_STAT.BUSY = true ∧ t.rd R.BSPI_CTL = v &&& 0x7FFE01FF#32 ∧
      t.bspi = (false, F.BSPI_CTL.LEN.of v) ∧ t.out = s.out ++ [.shift 1 (packB [(0, 1, F.BSPI_CTL.CMD.of v),
        (1, 3, if F.BSPI_CTL.ADDR_EN.is v = true then s.g F.BSPI_ADDR.ADDR else 0)])] := by
  have hgo := exec_bspiGo_begins hr hl hb
  rw [State.bspiOut, hd] at hgo
  exact hgo

theorem exec_bspiGo_writes (hr : Ready s) (hl : F.BSPI_CTL.LEN.of v ≤ 256) (hb : s.is F.BSPI_STAT.BUSY = false) (hd : F.BSPI_CTL.DIR.is v = true) :
    ∃ t, exec (.bspiGo v) s = .next t ∧ t.is F.BSPI_STAT.BUSY = true ∧ t.rd R.BSPI_CTL = v &&& 0x7FFE01FF#32 ∧
      t.bspi = (true, F.BSPI_CTL.LEN.of v) ∧ t.out = s.out ++ [.shift 1 (packB ((0, 1, F.BSPI_CTL.CMD.of v) ::
        (1, 3, if F.BSPI_CTL.ADDR_EN.is v = true then s.g F.BSPI_ADDR.ADDR else 0) :: (List.range (F.BSPI_CTL.LEN.of v)).map (fun j =>
          (4 + j, 1, natBits (s.g (F.BSPI_BUF.DATA (j / 4))) (8 * (j % 4)) 8))))] := by
  have hgo := exec_bspiGo_begins hr hl hb
  rw [State.bspiOut, hd] at hgo
  exact hgo

/-- GO in a transaction is refused. -/
theorem exec_bspiGo_busy (hr : Ready s) (hl : F.BSPI_CTL.LEN.of v ≤ 256) (hb : s.is F.BSPI_STAT.BUSY = true) : ∃ t, exec (.bspiGo v) s = .next t ∧
    t.is F.BSPI_STAT.REFUSED = true ∧ t.is F.BSPI_STAT.BUSY = true ∧ t.bspi = s.bspi ∧ t.out = s.out := by
  obtain ⟨hin, -⟩ := id hr
  have hgo : bspiCtlWrite (fieldPut 31 1 1 v) s = (bspiStored v s).set1 F.BSPI_STAT.REFUSED := by
    rw [bspiCtlWrite_go hin, if_neg (by omega), if_pos hb]
  refine ⟨_, exec_bspiGo hr, ?_, ?_, (congrArg State.bspi hgo :), (congrArg State.out hgo :)⟩
  · rw [State.byHost_is, hgo, State.set1_is, State.is_p_same _ _ _ rfl]
    rfl
  · rw [State.byHost_is, hgo, State.set1_is, State.is_p_field _ _ rfl, (bspiStored_off ..).is _ (by decide), hb]

/-- GO with a length over 256 is refused. -/
theorem exec_bspiGo_long (hr : Ready s) (hl : 256 < F.BSPI_CTL.LEN.of v) : exec (.bspiGo v) s = .next (s.p F.BSPI_STAT.REFUSED 1) := by
  obtain ⟨hin, -⟩ := id hr
  rw [exec_bspiGo hr, State.byHost, bspiCtlWrite_go hin, if_pos hl]
  rfl

/-! ### The end of a transaction (R385) -/

/-- Byte `j` received is stored in BSPI_BUF. -/
def bspiPut (data : List Nat) (j : Nat) (t : State) : State :=
  t.wr (R.BSPI_BUF (j / 4)) (fieldPut (8 * (j % 4)) 8 (data.getD j 0) (t.rd (R.BSPI_BUF (j / 4))))

/-- Byte `j` of BSPI_BUF. -/
def State.bspiByte (s : State) (j : Nat) : Nat := fieldGet (8 * (j % 4)) 8 (s.rd (R.BSPI_BUF (j / 4)))

theorem State.bspiByte_eq (s : State) (j : Nat) : natBits (s.g (F.BSPI_BUF.DATA (j / 4))) (8 * (j % 4)) 8 = s.bspiByte j := by
  have hword : s.g (F.BSPI_BUF.DATA (j / 4)) = (s.rd (R.BSPI_BUF (j / 4))).toNat :=
    congrArg BitVec.toNat (BitVec.extractLsb'_eq_self ..)
  rw [hword, State.bspiByte, fieldGet, BitVec.extractLsb'_toNat]
  rfl

theorem bspiPut_same (data : List Nat) (j : Nat) (t : State) : (bspiPut data j t).bspiByte j = data.getD j 0 % 256 := by
  rw [State.bspiByte, bspiPut, State.rd_wr_same]
  exact fieldGet_put_same (by omega) ..
theorem bspiPut_other (data : List Nat) {j k : Nat} (hk : k ≠ j) (t : State) : (bspiPut data k t).bspiByte j = t.bspiByte j := by
  by_cases hw : k / 4 = j / 4
  · rw [State.bspiByte, bspiPut, hw, State.rd_wr_same, fieldGet_put_ne (by omega), State.bspiByte]
  · have hne : R.BSPI_BUF (j / 4) ≠ R.BSPI_BUF (k / 4) := by unfold R.BSPI_BUF; omega
    rw [State.bspiByte, bspiPut, State.rd_wr_ne _ _ hne, State.bspiByte]

theorem bspiPuts_stores (data : List Nat) {j n : Nat} (hj : j < n) (s : State) : (s.each n (bspiPut data)).bspiByte j = data.getD j 0 % 256 :=
  State.each_reaches (I := fun _ => True) (P := fun t => t.bspiByte j = data.getD j 0 % 256) hj trivial
    (fun _ _ _ _ _ => trivial) (fun t _ => bspiPut_same data j t) (fun _ _ hk t ht => (bspiPut_other data hk t).trans ht)

theorem exec_bspiDone_reads {data : List Nat} {j n : Nat} (hb : s.is F.BSPI_STAT.BUSY = true) (hn : s.bspi = (false, n)) (hj : j < n) :
    ∃ t, exec (.bspiDone data) s = .next t ∧ t.is F.BSPI_STAT.BUSY = false ∧
      natBits (t.g (F.BSPI_BUF.DATA (j / 4))) (8 * (j % 4)) 8 = data.getD j 0 % 256 := by
  have he : exec (.bspiDone data) s = .next ((s.each n (bspiPut data)).clr F.BSPI_STAT.BUSY) := by
    have he : exec (.bspiDone data) s = execBspiDone data s := rfl
    rw [he, execBspiDone, if_pos hb, hn]
    rfl
  refine ⟨_, he, ?_, ?_⟩
  · rw [State.clr_def, State.is_p_same _ _ _ rfl]
    rfl
  · have hbuf : R.BSPI_BUF (j / 4) ≠ R.BSPI_STAT := by unfold R.BSPI_BUF R.BSPI_STAT; omega
    rw [State.bspiByte_eq, State.bspiByte, (State.clr_off (P := (· = R.BSPI_STAT)) (.refl _) rfl).regs _ hbuf]
    exact bspiPuts_stores data hj s

theorem exec_bspiDone_writes {data : List Nat} {n : Nat} (hb : s.is F.BSPI_STAT.BUSY = true) (hn : s.bspi = (true, n)) :
    exec (.bspiDone data) s = .next (s.p F.BSPI_STAT.BUSY 0) := by
  have he : exec (.bspiDone data) s = execBspiDone data s := rfl
  rw [he, execBspiDone, if_pos hb, hn]
  rfl

end

/-- Settles O16: what reports, journal records and aborts of SENDs leave of the engine and of the alcoves (`SendsShown`, `SendsEnd`) gives
the requests and the ends of transfers; BOOT_SPI follows field by field. -/
theorem serialEngines : Obligations.SerialEngines :=
  ⟨fun _ _ _ _ hh hw hf hn hq => exec_hseEnqueue_queues hh hw hf hn hq,
    fun _ _ _ _ hh hw hf hn hq hc hl hr => exec_hseEnqueue_full hh hw hf hn hq hc hl hr,
    fun _ _ _ _ hh hw hf hn hl hr => exec_hseEnqueue_fenced hh hw hf hn hl hr,
    fun _ _ _ _ hh hq hrun hx => exec_hseTransferStart_starts hh hq hrun hx,
    fun _ _ _ _ _ hh hw hrun hx hslot _ hm hc _ hj hl hr => exec_hseTransferEnd_send hh hw hrun hx hslot ⟨hm, hc⟩ hj hl hr,
    fun _ _ _ _ _ _ hh hw hb hhl hs hslice => exec_hseTransferEnd_swaps hh hw hb hhl hs hslice,
    fun _ _ _ _ _ _ hh hw hrun hq hx hr hm hc hof hd _ => exec_hseTransferEnd_xfer hh hw hrun hq hx hr ⟨hm, hc⟩ hof hd,
    fun _ _ hr hh hw hx hs hp => exec_hseAbort_sends hr hh hw hx hs hp,
    fun _ _ _ _ _ hr hh hw _ _ _ hx hn hof hd => exec_hseAbort_xfer hr hh hw hx hn hof hd,
    fun _ _ hr hl hb hd => exec_bspiGo_reads hr hl hb hd,
    fun _ _ hr hl hb hd => exec_bspiGo_writes hr hl hb hd,
    fun _ _ hr hl hb => exec_bspiGo_busy hr hl hb,
    fun _ _ hr hl => exec_bspiGo_long hr hl,
    fun _ _ _ _ hb hn _ hj => exec_bspiDone_reads hb hn hj,
    fun _ _ _ hb hn => exec_bspiDone_writes hb hn⟩

end Sys2Proof.Machine
end
